-- ==== Sys2Proof/Word.lean ====
section
/-! DEFINITION. The word types of the part: bytes, 16-, 32- and 64-bit registers, lane masks. -/

namespace Sys2Proof

/-- A byte of memory, tile memory or a host object. -/
abbrev Byte := BitVec 8
/-- A 16-bit half register. -/
abbrev Half := BitVec 16
/-- A 32-bit register of a lane, or a 32-bit field (Table 3.2). -/
abbrev Word := BitVec 32
/-- A 64-bit register of the register map, or a fence value. -/
abbrev DWord := BitVec 64
/-- One bit per lane of a group of 32 lanes (R57). -/
abbrev Mask := BitVec 32

end Sys2Proof
end

