-- ==== Sys2Proof/Machine/Enc.lean ====
section
/-! DEFINITION. The fields of an instruction word by format (Tables 3.4 and 3.5), CLASS and OP apart: those two are
the row of the table of operations itself. A 64-bit extension word stands beside the word; it counts only with LONG.
`code` is the words that the fields and a CLASS and OP spell. -/

namespace Sys2Proof

/-- The group that issues: core number and group slot. `peers` names the other slots of its pipeline (bit i: slot 16 p + i)
whose groups are ready in that cycle as well: whether operands have arrived and a unit accepts work is timing, which the
command brings along (chapter 2, Issue; R54). `same` says that it issues in the cycle in which a fault of its context or a
preemption request for its work comes (R94, R95). -/
structure GroupAt where
  core : Nat
  slot : Nat
  peers : BitVec 16
  same : Bool
  deriving DecidableEq, Repr

/-- A group slot by itself. -/
def slotAt (core slot : Nat) : GroupAt := ⟨core, slot, 0, false⟩

/-- Common fields (Table 3.4): PNEG, PRED, LONG and the reserved bit 48. -/
structure Head where
  pneg : Bool
  pred : BitVec 3
  long : Bool
  rsv48 : Bool
  deriving DecidableEq, Repr

/-- One bit of a word. -/
def bitAt (b : Bool) (i : Nat) : Nat := if b then 2 ^ i else 0

/-- Bits [63:48] of a word with a CLASS and an OP (Table 3.4). -/
def Head.top (h : Head) (cls op : Nat) : Nat :=
  bitAt h.pneg 63 + h.pred.toNat * 2 ^ 60 + cls * 2 ^ 56 + op * 2 ^ 50 + bitAt h.long 49 + bitAt h.rsv48 48

/-- The words of an instruction: its own, and with LONG the extension word. -/
def Head.words (h : Head) (cls op low ext : Nat) : List Nat :=
  if h.long then [h.top cls op + low, ext] else [h.top cls op + low]

/-- Format R, bits [47:0], and the extension word. -/
structure EncR where
  h : Head
  type : BitVec 4
  mod : BitVec 4
  dk : Bool
  ka : BitVec 2
  kb : BitVec 2
  kc : BitVec 2
  rsv32 : Bool
  dst : BitVec 8
  a : BitVec 8
  b : BitVec 8
  c : BitVec 8
  ext : BitVec 64
  deriving DecidableEq, Repr

def EncR.code (e : EncR) (cls op : Nat) : List Nat :=
  e.h.words cls op (e.type.toNat * 2 ^ 44 + e.mod.toNat * 2 ^ 40 + bitAt e.dk 39 + e.ka.toNat * 2 ^ 37 + e.kb.toNat * 2 ^ 35
    + e.kc.toNat * 2 ^ 33 + bitAt e.rsv32 32 + e.dst.toNat * 2 ^ 24 + e.a.toNat * 2 ^ 16 + e.b.toNat * 2 ^ 8 + e.c.toNat) e.ext.toNat

/-- Format M, bits [47:0], and the extension word. -/
structure EncM where
  h : Head
  type : BitVec 4
  aop : BitVec 4
  order : BitVec 2
  scope : BitVec 2
  bk : Bool
  noret : Bool
  count : BitVec 2
  dst : BitVec 8
  base : BitVec 8
  data : BitVec 8
  cmp : BitVec 8
  ext : BitVec 64
  deriving DecidableEq, Repr

def EncM.code (e : EncM) (cls op : Nat) : List Nat :=
  e.h.words cls op (e.type.toNat * 2 ^ 44 + e.aop.toNat * 2 ^ 40 + e.order.toNat * 2 ^ 38 + e.scope.toNat * 2 ^ 36 + bitAt e.bk 35
    + bitAt e.noret 34 + e.count.toNat * 2 ^ 32 + e.dst.toNat * 2 ^ 24 + e.base.toNat * 2 ^ 16 + e.data.toNat * 2 ^ 8 + e.cmp.toNat)
    e.ext.toNat

/-- Format B, bits [47:0]. -/
structure EncB where
  h : Head
  target : BitVec 24
  join : BitVec 24
  deriving DecidableEq, Repr

/-- Formats B, X and T have no extension word: a set LONG is an undefined encoding (R103). -/
def EncB.code (e : EncB) (op : Nat) : List Nat := [e.h.top 0x0 op + e.target.toNat * 2 ^ 24 + e.join.toNat]

/-- Format X, bits [47:0]. -/
structure EncX where
  h : Head
  rsvHi : BitVec 10
  scope : BitVec 2
  rsvLo : BitVec 4
  dst : BitVec 8
  a : BitVec 8
  b : BitVec 8
  c : BitVec 8
  deriving DecidableEq, Repr

def EncX.code (e : EncX) (op : Nat) : List Nat :=
  [e.h.top 0xA op + e.rsvHi.toNat * 2 ^ 38 + e.scope.toNat * 2 ^ 36 + e.rsvLo.toNat * 2 ^ 32 + e.dst.toNat * 2 ^ 24
    + e.a.toNat * 2 ^ 16 + e.b.toNat * 2 ^ 8 + e.c.toNat]

/-- Format S, bits [47:0], and the extension word. -/
structure EncS where
  h : Head
  dim : BitVec 4
  mode : BitVec 4
  cmask : BitVec 4
  res : Bool
  rp : BitVec 3
  dst : BitVec 8
  coord : BitVec 8
  extra : BitVec 8
  desc : BitVec 8
  ext : BitVec 64
  deriving DecidableEq, Repr

def EncS.code (e : EncS) : List Nat :=
  e.h.words 0xB 0 (e.dim.toNat * 2 ^ 44 + e.mode.toNat * 2 ^ 40 + e.cmask.toNat * 2 ^ 36 + bitAt e.res 35 + e.rp.toNat * 2 ^ 32
    + e.dst.toNat * 2 ^ 24 + e.coord.toNat * 2 ^ 16 + e.extra.toNat * 2 ^ 8 + e.desc.toNat) e.ext.toNat

/-- Format T, bits [47:0]. -/
structure EncT where
  h : Head
  afmt : BitVec 4
  bfmt : BitVec 4
  blk : BitVec 2
  acc : Bool
  tw : BitVec 2
  rsv : BitVec 3
  a : BitVec 8
  b : BitVec 8
  c : BitVec 8
  k : BitVec 8
  deriving DecidableEq, Repr

def EncT.code (e : EncT) (op : Nat) : List Nat :=
  [e.h.top 0xC op + e.afmt.toNat * 2 ^ 44 + e.bfmt.toNat * 2 ^ 40 + e.blk.toNat * 2 ^ 38 + bitAt e.acc 37 + e.tw.toNat * 2 ^ 35
    + e.rsv.toNat * 2 ^ 32 + e.a.toNat * 2 ^ 24 + e.b.toNat * 2 ^ 16 + e.c.toNat * 2 ^ 8 + e.k.toNat]

/-- How many operations each CLASS has, OP counting from 0 (Table 3.6). -/
def classOps : List Nat := [7, 18, 7, 5, 7, 3, 6, 2, 3, 1, 5, 1, 4, 2]

/-- The CLASS and OP of a word name an operation (R103). -/
def opDefined (w : Nat) : Bool := decide (w / 2 ^ 50 % 64 < classOps.getD (w / 2 ^ 56 % 16) 0)

end Sys2Proof
end

