-- ==== Sys2Proof/Syntax.lean ====
section
/-! DEFINITION. The commands that the part takes: the operations and events of the table, each with its operands. -/

namespace Sys2Proof

/-- An error that the L1 meets on a read (R87): none, a single-bit error in a word, a double-bit error, a tag parity
error; the word is the 64-bit word within the line. -/
inductive L1Err where
  | none
  | corrected (word : Nat)
  | refetched (word : Nat)
  | tagParity
  deriving DecidableEq, Repr

/-- What the memory path meets while a load is served: the L1 error of each line that has one (by line number, R87, R88),
and on DRAM links (R468) the transfers that were corrected, the reads that were retried and then succeeded, and the 64-bit
words whose third read failed too. -/
structure ReadEnv where
  l1 : List (Nat × L1Err)
  linkCorrected : Nat
  linkRetried : Nat
  linkFailed : List Nat
  deriving DecidableEq, Repr

/-- Where an array error lies (Table 15.1). `word` names what the model holds (a register file word slot × 8192 + register
× 32 + lane; a tile memory word as Core.badTile numbers it; a 64-bit word PA >> 3), `at_` the word index that the record
carries; `pixels` are those of an output that the word holds. `link` is a read of a DRAM line other than a load's that meets
link errors, as ReadEnv gives them for a load (R468). -/
inductive ArraySite where
  | register (core word at_ : Nat)
  | tile (core word at_ : Nat)
  | weight (core word : Nat)
  | icache (core ctx line at_ : Nat)
  | tlb (unit index at_ : Nat)
  | cacheData (slice set way word : Nat)
  | cacheTag (slice line : Nat)
  | directory (slice line : Nat)
  | ranger (ring : Option Nat) (at_ : Nat)
  | prism (output at_ : Nat) (pixels : List (Nat × Nat))
  | beacon (output word : Nat)
  | chipper (engine at_ : Nat)
  | fence (f : Nat)
  | dram (word : Nat)
  | link (line corrected retried : Nat) (failed : List Nat)
  deriving DecidableEq, Repr

/-- What a read of a word finds: a scrubber's read, or any read where the array has no scrubber; and a read on demand of an
array that has one (R463, R466, R469). -/
inductive ScrubFound where
  | clean | corrected | uncorrectable | demandCorrected | demandLost
  deriving DecidableEq, Repr

/-- What a debugger asks the debug access port to read (R482): a word of a core's register file or tile memory, a word of
Ranger's trace buffers, a debug register of Table 2.9, and what the port cannot read. -/
inductive DapTarget where
  | register (core word : Nat)
  | tile (core addr : Nat)
  | trace (addr : Nat)
  | debugReg (core off : Nat)
  | beaconStore (addr : Nat)
  | keyHash (word : Nat)
  | kreogSram (addr : Nat)
  deriving DecidableEq, Repr

/-- What a debugger does through the debug access port (R482, R512): nothing, a read, SECURE_BOOT blown, or fuses of
KEY_HASH blown (48 bytes); `supply` says whether VDD_FUSE lies within its limits (R524). -/
inductive DapOp where
  | none
  | read (what : DapTarget)
  | blowSecureBoot (supply : Bool)
  | blowKeyHash (bits : List (BitVec 8)) (supply : Bool)
  deriving DecidableEq, Repr

/-- What training finds of the DRAM (R499, R500): devices that Table 16.5 or 16.6 excludes, a channel that fails, or
density in Gb per channel and rank, ranks and packages. -/
inductive DramFound where
  | wrong
  | untrained (channel : Nat)
  | good (density ranks packages : Nat)
  deriving DecidableEq, Repr

/-- The read modes of the flash (R507), fastest first. -/
inductive FlashMode where
  | octalDdr | octal188 | octal118 | quad144 | quad114 | single
  deriving DecidableEq, Repr

/-- What a boot meets outside the part: the content of the flash when it has been replaced (address and byte, the rest
erased), whether its SFDP is found, the modes that it lists and whether it holds the xSPI Profile 1.0 table, the I3C_ADDR
balls, the units that fail the boot self-test, and the DRAM. -/
structure BootInput where
  flash : Option (List (Nat × BitVec 8))
  sfdp : Bool
  modes : List FlashMode
  xspi : Bool
  strap : Nat
  failed : List Nat
  dram : DramFound
  deriving DecidableEq, Repr

/-- A packet of a queue as the front end fetched it at the read index (Table 9.15): queue slot, SIZE16, FLAGS, TAG,
and the bytes from byte 8 on. -/
structure Pkt where
  q : Nat
  size16 : BitVec 8
  flags : BitVec 8
  tag : BitVec 32
  body : List (BitVec 8)
  deriving DecidableEq, Repr

/-- A Flume request as Kreog fetched it at REQ_READ (Table 13.3): channel (16 is the I3C channel), the header fields
but OPCODE, and the payload. -/
structure Req where
  ch : Nat
  flags : BitVec 8
  version : BitVec 8
  seq : BitVec 32
  tenant : BitVec 16
  words : BitVec 16
  tag : BitVec 32
  payload : List (BitVec 8)
  deriving DecidableEq, Repr

/-- A host write of at most 8 bytes inside one 8-byte register (R489): port, requester ID, PASID when the request
carries one, byte enables and data. -/
structure Access where
  port : Nat
  rid : Nat
  pasid : Option Nat
  be : BitVec 8
  data : BitVec 64
  deriving DecidableEq, Repr

/-- The register space that an access addresses: BAR0, BAR2, the port VSEC, or the bits of the standard configuration
registers that the spec names. `bar0Long` is a BAR0 request longer than 8 bytes, with the byte enables and data of the 8-byte
parts after the first (R489); `outside` an address outside every BAR, or an I/O request; `window` a host window target (R464);
`i3c` the sideband space, of which a private read takes `count` bytes from the pointer (R503). -/
inductive RegSpace where
  | bar0 | bar2 | vsec | function
  | bar0Long (rest : List (BitVec 8 × BitVec 64))
  | outside | window
  | i3c (count : Nat)
  deriving DecidableEq, Repr

/-- What an access is: a write, a read, a poisoned write, or an AtomicOp (R489). -/
inductive AccessOp where
  | write | read | poisoned | atomic
  deriving DecidableEq, Repr

/-- A wait that a timeout can end (R330). -/
inductive Waiter where
  | group (core slot : Nat)
  | queue (q : Nat)
  deriving DecidableEq, Repr

/-- An agent of a Dusk step (Table 14.7), with its number where there are several. -/
inductive DuskAgent where
  | queues
  | flume
  | core (n : Nat)
  | array (n : Nat)
  | binner (n : Nat)
  | chipper (n : Nat)
  | digest
  | slice (n : Nat)
  | prism (n : Nat)
  | output (n : Nat)
  | port (n : Nat)
  | debug
  deriving DecidableEq, Repr


/-- The commands of the part: one constructor for each row of the table of operations and events. -/
inductive Instr where
  /-- NOP (R110): Control instruction that has no effect. -/
  | nop (g : GroupAt) (e : EncB)
  /-- BRA (R110): Conditional branch: pushes reconvergence and path entries when the active lanes diverge. -/
  | bra (g : GroupAt) (e : EncB)
  /-- BRX (R110): Indirect branch: groups lanes by target and handles lanes whose guard fails. -/
  | brx (g : GroupAt) (e : EncB)
  /-- JOIN (R57): Reconvergence point: resumes the entry on top of the divergence stack. -/
  | join (g : GroupAt) (e : EncB)
  /-- EXIT (R57): Ends the guarded lanes and resumes the next runnable entry; can complete a barrier. -/
  | exit (g : GroupAt) (e : EncB)
  /-- CALL (R112): Pushes the return address on the call stack and jumps to the target. -/
  | call (g : GroupAt) (e : EncB)
  /-- RET (R112): Pops the call stack and jumps, faulting CALL_STACK on underflow or depth mismatch. -/
  | ret (g : GroupAt) (e : EncB)
  /-- IADD (R106): Integer add in the guarded active lanes. -/
  | iadd (g : GroupAt) (e : EncR)
  /-- ISUB (R106): Integer subtract. -/
  | isub (g : GroupAt) (e : EncR)
  /-- IMUL (R106): Integer multiply, low half. -/
  | imul (g : GroupAt) (e : EncR)
  /-- IMULHI (R106): Upper half of the full integer product. -/
  | imulhi (g : GroupAt) (e : EncR)
  /-- IMAD (R106): Integer multiply-add. -/
  | imad (g : GroupAt) (e : EncR)
  /-- IMIN (R106): Integer minimum. -/
  | imin (g : GroupAt) (e : EncR)
  /-- IMAX (R106): Integer maximum. -/
  | imax (g : GroupAt) (e : EncR)
  /-- AND (R106): Bitwise and. -/
  | andL (g : GroupAt) (e : EncR)
  /-- OR (R106): Bitwise or. -/
  | orL (g : GroupAt) (e : EncR)
  /-- XOR (R106): Bitwise exclusive-or. -/
  | xor (g : GroupAt) (e : EncR)
  /-- NOT (R106): Bitwise complement. -/
  | notL (g : GroupAt) (e : EncR)
  /-- SHL (R106): Shift left by a count modulo the width. -/
  | shl (g : GroupAt) (e : EncR)
  /-- SHR (R106): Logical or arithmetic shift right by TYPE. -/
  | shr (g : GroupAt) (e : EncR)
  /-- POPC (R106): Population count. -/
  | popc (g : GroupAt) (e : EncR)
  /-- CLZ (R106): Count leading zeros. -/
  | clz (g : GroupAt) (e : EncR)
  /-- BFE (R533): Bit field extract with offset and width from C. -/
  | bfe (g : GroupAt) (e : EncR)
  /-- BFI (R533): Bit field insert with offset and width from C. -/
  | bfi (g : GroupAt) (e : EncR)
  /-- ISETP (R109): Integer compare writing a predicate. -/
  | isetp (g : GroupAt) (e : EncR)
  /-- FADD (R534): FP32 add with negate and clamp modifiers. -/
  | fadd (g : GroupAt) (e : EncR)
  /-- FMUL (R534): FP32 multiply. -/
  | fmul (g : GroupAt) (e : EncR)
  /-- FFMA (R534): FP32 fused multiply-add, rounded once. -/
  | ffma (g : GroupAt) (e : EncR)
  /-- FMIN (R534): FP32 minimumNumber. -/
  | fmin (g : GroupAt) (e : EncR)
  /-- FMAX (R534): FP32 maximumNumber. -/
  | fmax (g : GroupAt) (e : EncR)
  /-- FSETP (R109): FP32 compare writing a predicate. -/
  | fsetp (g : GroupAt) (e : EncR)
  /-- FRND (R106): Round FP32 to an integral value by MOD rounding mode. -/
  | frnd (g : GroupAt) (e : EncR)
  /-- HADD2 (R534): Packed 16-bit add. -/
  | hadd2 (g : GroupAt) (e : EncR)
  /-- HMUL2 (R534): Packed 16-bit multiply. -/
  | hmul2 (g : GroupAt) (e : EncR)
  /-- HFMA2 (R534): Packed 16-bit fused multiply-add. -/
  | hfma2 (g : GroupAt) (e : EncR)
  /-- HMIN2 (R534): Packed 16-bit minimum. -/
  | hmin2 (g : GroupAt) (e : EncR)
  /-- HMAX2 (R534): Packed 16-bit maximum. -/
  | hmax2 (g : GroupAt) (e : EncR)
  /-- RCP (R106): Correctly rounded reciprocal. -/
  | rcp (g : GroupAt) (e : EncR)
  /-- RSQRT (R106): Correctly rounded reciprocal square root. -/
  | rsqrt (g : GroupAt) (e : EncR)
  /-- SQRT (R106): Correctly rounded square root. -/
  | sqrt (g : GroupAt) (e : EncR)
  /-- EXP2 (R106): Base-2 exponential within 2 ulp. -/
  | exp2 (g : GroupAt) (e : EncR)
  /-- LOG2 (R106): Base-2 logarithm within 2 ulp. -/
  | log2 (g : GroupAt) (e : EncR)
  /-- SIN (R106): Sine within 2 ulp. -/
  | sin (g : GroupAt) (e : EncR)
  /-- COS (R106): Cosine within 2 ulp. -/
  | cos (g : GroupAt) (e : EncR)
  /-- CVT (R119): Converts source A from the MOD type to the TYPE type. -/
  | cvt (g : GroupAt) (e : EncR)
  /-- CVT_PK2 (R119): Converts two FP32 sources to narrow codes packed into two bytes. -/
  | cvtPk2 (g : GroupAt) (e : EncR)
  /-- CVT_UNPK (R119): Converts one selected narrow byte to f32 or f16. -/
  | cvtUnpk (g : GroupAt) (e : EncR)
  /-- MOV (R106): Register move. -/
  | mov (g : GroupAt) (e : EncR)
  /-- SEL (R105): Selects A or B by a predicate. -/
  | sel (g : GroupAt) (e : EncR)
  /-- SHFL (R106): Reads a value from another lane chosen by MOD and B. -/
  | shfl (g : GroupAt) (e : EncR)
  /-- VOTE (R535): Any, all or ballot vote over the participating lanes. -/
  | vote (g : GroupAt) (e : EncR)
  /-- RDSR (R105): Reads a special register. -/
  | rdsr (g : GroupAt) (e : EncR)
  /-- PLOP (R106): Predicate logic operation by MOD truth table. -/
  | plop (g : GroupAt) (e : EncR)
  /-- LD (R114): Loads from memory with optional acquire ordering. -/
  | ld (g : GroupAt) (e : EncM) (env : ReadEnv)
  /-- ST (R114): Stores to memory with optional release ordering. -/
  | st (g : GroupAt) (e : EncM)
  /-- LDS (R115): Loads from workgroup scratch. -/
  | lds (g : GroupAt) (e : EncM)
  /-- STS (R115): Stores to workgroup scratch. -/
  | sts (g : GroupAt) (e : EncM)
  /-- ATOMS (R115): Scratch atomic with lane combining. -/
  | atoms (g : GroupAt) (e : EncM)
  /-- ATOM (R67): Memory atomic performed at the home slice per combining set. -/
  | atom (g : GroupAt) (e : EncM)
  /-- BAR (R116): Lanes arrive and wait at a workgroup barrier. -/
  | bar (g : GroupAt) (e : EncX)
  /-- MEMBAR (R117): Memory fence at the named scope. -/
  | membar (g : GroupAt) (e : EncX)
  /-- FSIG (R118): Signals a bound fence with a value pair. -/
  | fsig (g : GroupAt) (e : EncX)
  /-- FWAIT (R118): Registers a wait for a fence target with optional timeout. -/
  | fwait (g : GroupAt) (e : EncX)
  /-- FREAD (R118): Reads a fence's current value. -/
  | fread (g : GroupAt) (e : EncX)
  /-- TEX (R120): Samples a texture through the sampling unit. -/
  | tex (g : GroupAt) (e : EncS)
  /-- TMMA (R124): Queues a 32x32 tensor block dot product to the tensor array. -/
  | tmma (g : GroupAt) (e : EncT)
  /-- TWLD (R126): Queues a weight buffer load from memory. -/
  | twld (g : GroupAt) (e : EncT)
  /-- TCVT (R127): Queues conversion of a 32x32 FP32 block to a narrow format. -/
  | tcvt (g : GroupAt) (e : EncT)
  /-- TSYNC (R128): Waits until at most N tensor instructions of the group are outstanding. -/
  | tsync (g : GroupAt) (e : EncT)
  /-- TLD (R217): Reads render target samples, position, attributes or coverage. -/
  | tld (g : GroupAt) (e : EncR)
  /-- TST (R218): Records a fragment colour, depth or coverage output. -/
  | tst (g : GroupAt) (e : EncR)
  /-- STORE_ACK (R26): Home slice acknowledges a store after all sharers invalidated. -/
  | storeAck (core : Nat) (k : Nat)
  /-- L1_FILL (R83): A line fill returns and waiting loads are reissued. -/
  | l1Fill (core : Nat) (bank : Nat) (prefetch : Bool)
  /-- TMMA_COMPLETE (R124): A tmma finishes and writes its C result. -/
  | tmmaComplete (core : Nat) (k : Nat)
  /-- TWLD_COMPLETE (R126): A twld's last byte is written to the weight buffer. -/
  | twldComplete (core : Nat) (k : Nat)
  /-- TCVT_COMPLETE (R127): A tcvt finishes and writes its result and scales. -/
  | tcvtComplete (core : Nat) (k : Nat)
  /-- BARRIER_STRANDED (R63): Stranding counter reaches 2^20 and faults the context. -/
  | barrierStranded (core : Nat) (wg : Nat)
  /-- ASYNC_PROMOTION (R55): Async group ready for 256 cycles issues ahead of pass groups. -/
  | asyncPromotion (core : Nat) (slot : Nat)
  /-- BULK_PROMOTION (R24): Bulk request waiting 4,096 fabric cycles is served as normal. -/
  | bulkPromotion (arbiter : Nat) (port : Nat)
  /-- QUEUE_DOORBELL (R307): Doorbell write accepts, ignores or faults a new queue write index. -/
  | queueDoorbell (a : Access) (t : Nat) (j : Nat)
  /-- NOP_PACKET (R311): Queue NOP packet. -/
  | nopPacket (p : Pkt)
  /-- DISPATCH (R99): Queue packet that launches a compute grid after header checks. -/
  | dispatch (p : Pkt)
  /-- WORKGROUP_RESIDENT (R51): A waiting workgroup becomes resident on a core when it fits. -/
  | workgroupResident (cmd : Nat)
  /-- CUT (R154): Queue packet that checks a cut descriptor and bucks the pass. -/
  | cut (p : Pkt)
  /-- RENDER_PASS (R206): Queue packet that checks a render pass descriptor and starts it. -/
  | renderPass (p : Pkt)
  /-- FENCE_SIGNAL (R320): Queue packet that signals a fence after its implied barrier. -/
  | fenceSignal (p : Pkt)
  /-- FENCE_WAIT (R328): Queue packet that holds later commands until a fence target. -/
  | fenceWait (p : Pkt)
  /-- FLUSH (R313): Writes dirty cached host window lines to the host. -/
  | flush (p : Pkt)
  /-- INVALIDATE (R313): Writes back then removes cached host window lines. -/
  | invalidate (p : Pkt)
  /-- ICACHE_INVALIDATE (R314): Removes instruction cache lines of the context. -/
  | icacheInvalidate (p : Pkt)
  /-- TLB_INVALIDATE (R314): Removes TLB entries of the context for a range. -/
  | tlbInvalidate (p : Pkt)
  /-- RINGMARK_OPEN (R189): Opens a Ringmark session and starts item digests. -/
  | ringmarkOpen (p : Pkt)
  /-- RINGMARK_CLOSE (R194): Closes a session and writes the Ringmark record. -/
  | ringmarkClose (p : Pkt)
  /-- COPY (R315): Copies bytes between memory objects in the copy path. -/
  | copy (p : Pkt)
  /-- FILL (R315): Fills an object range with a 32-bit pattern. -/
  | fill (p : Pkt)
  /-- COPY_CHUNK_DONE (R351): Copy path finishes a 64 KiB chunk and chooses the next by priority. -/
  | copyChunkDone (cmd : Nat)
  /-- COMMAND_COMPLETE (R309): A command completes, releasing barrier-held later commands. -/
  | commandComplete (cmd : Nat)
  /-- ITEM_DIGESTS_DONE (R190): All item digests of an open are complete and the queue continues. -/
  | itemDigestsDone (cmd : Nat)
  /-- DIGEST_CHUNK_DONE (R203): A digest engine lane finishes a 1 MiB chunk and takes the next. -/
  | digestChunkDone (lane : Nat)
  /-- RINGMARK_FOLD_DONE (R193): A cut's output slabs have been folded, releasing its completion. -/
  | ringmarkFoldDone (cmd : Nat)
  /-- WEIGHT_STREAM_START (R176): A cut's weight stream starts once no overlapping staging is in use. -/
  | weightStreamStart (cmd : Nat)
  /-- WEIGHT_SEGMENT_DONE (R177): A segment is written and verified; the stream fence advances. -/
  | weightSegmentDone (e : Nat)
  /-- CUT_TILE_START (R168): An owner starts a tile by loading its input slabs. -/
  | cutTileStart (core : Nat) (cmd : Nat)
  /-- TILE_ENGINE_TRANSFER_DONE (R168): A slab load, store or move completes and waiting accesses proceed; `ahead`: it is
  one of the pass's next tile on the core (R169). -/
  | tileEngineTransferDone (core : Nat) (ahead : Bool)
  /-- STAGE_START (R158): A stage workgroup starts after the prior stage exits and moves complete. -/
  | stageStart (core : Nat)
  /-- COMBINE_TILE_START (R159): A combine tile starts once all partial blocks are stored. -/
  | combineTileStart (core : Nat) (cmd : Nat)
  /-- CUT_COMPLETE (R171): All output stores of a cut have taken effect. -/
  | cutComplete (cmd : Nat)
  /-- CUT_RESTART (R163): After a map change a cut stops at tile boundaries and re-bucks from tile 0. -/
  | cutRestart (cmd : Nat)
  /-- DRAW_BINNING (R212): Binners cull and append a draw's primitives once its position groups are done. -/
  | drawBinning (cmd : Nat)
  /-- BINNING_RESUME (R215): Flush rounds finish and binning resumes at the flush point. -/
  | binningResume (cmd : Nat)
  /-- ATTRIBUTE_PHASE_START (R209): Attribute groups start after a draw's last batch is binned. -/
  | attributePhaseStart (cmd : Nat) (draw : Nat)
  /-- TILE_SHADING_START (R209): Tile shading begins after all batches and attribute groups complete. -/
  | tileShadingStart (cmd : Nat)
  /-- RENDER_TILE_START (R225): Owner fills attachments by their load ops and forms fragment groups. -/
  | renderTileStart (core : Nat) (cmd : Nat)
  /-- FRAGMENT_COMMIT (R220): A fragment's tests, writes and blends commit in primitive order. -/
  | fragmentCommit (core : Nat) (k : Nat)
  /-- RENDER_TILE_END (R226): Owner stores attachments by their store ops. -/
  | renderTileEnd (core : Nat)
  /-- RENDER_PASS_COMPLETE (R209): Last tile stored; pass completes. -/
  | renderPassComplete (cmd : Nat)
  /-- FENCE_SIGNAL_REGISTER (R320): Host write to FENCE_SIGNAL signals a fence. -/
  | fenceSignalRegister (a : Access) (f : Nat)
  /-- FENCE_POISON_REGISTER (R334): Host write to FENCE_POISON poisons a fence. -/
  | fencePoisonRegister (a : Access) (f : Nat)
  /-- FENCE_TIMEOUT (R330): A fence wait's timeout passes and the wait ends. -/
  | fenceTimeout (w : Waiter)
  /-- ARM (R343): Host wait entry ARM registers a tenant wait. -/
  | arm (a : Access) (t : Nat) (k : Nat)
  /-- DISARM (R343): Host wait entry DISARM ends an armed wait without a message. -/
  | disarm (a : Access) (t : Nat) (k : Nat)
  /-- BRIDGE_UPDATE (R341): Ranger propagates an advance or poison across a bridge. -/
  | bridgeUpdate (b : Nat)
  /-- FLUME_DOORBELL (R411): Flume doorbell write accepts or ignores a request write index. -/
  | flumeDoorbell (a : Access) (t : Nat)
  /-- FLUME_REPLY_READ (R414): Host consumes reply records by writing READ_INDEX. -/
  | flumeReplyRead (a : Access) (t : Nat)
  /-- ABORT (R417): Always-on logic aborts the Flume channel. -/
  | abort (a : Access) (t : Nat)
  /-- SELF_RESET (R418): Aborts the channel and resets the writing tenant. -/
  | selfReset (a : Access) (t : Nat)
  /-- FLUME_NOP (R412): Flume NOP consumed without reply. -/
  | flumeNop (r : Req)
  /-- PING (R420): Returns Kreog version and build. -/
  | ping (r : Req)
  /-- EVENT_MASK (R416): Sets the channel's event mask. -/
  | eventMask (r : Req)
  /-- ROLL_CALL_LIST (R497): Lists the GONE tenants of the port. -/
  | rollCallList (r : Req)
  /-- TENANT_REBIND (R286): Rebinds a GONE tenant to a requester ID and PASID. -/
  | tenantRebind (r : Req)
  /-- ROLL_CALL_END (R495): Ends roll call, destroying tenants not rebound. -/
  | rollCallEnd (r : Req)
  /-- TENANT_CREATE (R286): Port manager creates a tenant. -/
  | tenantCreate (r : Req)
  /-- TENANT_RESET (R373): Resets every context of a tenant. -/
  | tenantReset (r : Req)
  /-- TENANT_DESTROY (R289): Destroys a tenant and frees its objects. -/
  | tenantDestroy (r : Req)
  /-- CONTEXT_CREATE (R290): Creates a context with fixed attributes. -/
  | contextCreate (r : Req)
  /-- CONTEXT_RESET (R372): Stops and discards a context's work. -/
  | contextReset (r : Req)
  /-- CONTEXT_DESTROY (R292): Destroys a context and its queues. -/
  | contextDestroy (r : Req)
  /-- CONTEXT_SET_HEAPS (R290): Changes descriptor heaps when no work is outstanding. -/
  | contextSetHeaps (r : Req)
  /-- CONTEXT_QUERY (R291): Returns the context status block. -/
  | contextQuery (r : Req)
  /-- CONTEXT_TLB_INVALIDATE (R297): Flume TLB invalidation of a context range. -/
  | contextTlbInvalidate (r : Req)
  /-- QUEUE_CREATE (R310): Creates a queue. -/
  | queueCreate (r : Req)
  /-- QUEUE_DESTROY (R310): Drains and destroys a queue. -/
  | queueDestroy (r : Req)
  /-- WATCHDOG_SET (R369): Sets a queue or context watchdog limit. -/
  | watchdogSet (r : Req)
  /-- OBJECT_CREATE (R298): Allocates a DRAM or binds a HOST object. -/
  | objectCreate (r : Req)
  /-- OBJECT_FREE (R301): Moves an object to RETIRING with recorded points. -/
  | objectFree (r : Req)
  /-- OBJECT_SHARE (R299): Shares an object with another tenant. -/
  | objectShare (r : Req)
  /-- OBJECT_REVOKE (R299): Revokes a share after TLB invalidation. -/
  | objectRevoke (r : Req)
  /-- OBJECT_QUERY (R300): Returns an object's state and attributes. -/
  | objectQuery (r : Req)
  /-- FENCE_CREATE (R324): Creates a fence in the longest-free slot. -/
  | fenceCreate (r : Req)
  /-- FENCE_FREE (R336): Releases a fence. -/
  | fenceFree (r : Req)
  /-- FENCE_SHARE (R325): Grants or replaces a fence right for a tenant. -/
  | fenceShare (r : Req)
  /-- FENCE_REVOKE (R325): Revokes a fence grant and ends its waits. -/
  | fenceRevoke (r : Req)
  /-- FENCE_BIND (R325): Binds a fence to a context. -/
  | fenceBind (r : Req)
  /-- FENCE_UNBIND (R325): Unbinds a fence from a context. -/
  | fenceUnbind (r : Req)
  /-- FLUME_FENCE_SIGNAL (R320): Flume request that signals a fence. -/
  | flumeFenceSignal (r : Req)
  /-- FLUME_FENCE_POISON (R334): Flume request that poisons a fence. -/
  | flumeFencePoison (r : Req)
  /-- FENCE_QUERY (R332): Returns a fence value and FENCE_INFO. -/
  | fenceQuery (r : Req)
  /-- BRIDGE_CREATE (R340): Creates a heritage bridge between two fences. -/
  | bridgeCreate (r : Req)
  /-- BRIDGE_REMOVE (R341): Removes a bridge. -/
  | bridgeRemove (r : Req)
  /-- OUTPUT_GRANT (R241): Grants an output to a tenant. -/
  | outputGrant (r : Req)
  /-- OUTPUT_REVOKE (R260): Revokes an output grant. -/
  | outputRevoke (r : Req)
  /-- LAYER_GRANT (R241): Grants layers of an output to a tenant. -/
  | layerGrant (r : Req)
  /-- LAYER_REVOKE (R257): Revokes layer grants; layers disabled at next deadline. -/
  | layerRevoke (r : Req)
  /-- DISPLAY_QUERY (R420): Returns output owners, sources and layer grantees. -/
  | displayQuery (r : Req)
  /-- ENGINE_GRANT (R420): Grants a Chipper engine context or Blaze unit context. -/
  | engineGrant (r : Req)
  /-- ENGINE_RELEASE (R420): Releases an engine or unit context. -/
  | engineRelease (r : Req)
  /-- GRAPH_LOAD (R422): Loads a graph package onto a service queue. -/
  | graphLoad (r : Req)
  /-- GRAPH_RUN (R423): Runs a loaded graph's decode steps. -/
  | graphRun (r : Req)
  /-- GRAPH_CANCEL (R424): Ends a graph run at the next step boundary. -/
  | graphCancel (r : Req)
  /-- GRAPH_UNLOAD (R422): Unloads a graph. -/
  | graphUnload (r : Req)
  /-- COMPOSE_START (R425): Starts the composition service on an output. -/
  | composeStart (r : Req)
  /-- COMPOSE_STOP (R425): Stops the composition service. -/
  | composeStop (r : Req)
  /-- COMPOSE_SERVICE_FRAME (R425): At the lead window the service reads the window table and submits a flip set. -/
  | composeServiceFrame (n : Nat) (torn : List Nat)
  /-- TRANSFER (R426): Moves, compresses or decompresses between objects via Chipper jobs. -/
  | transfer (r : Req)
  /-- IMAGE_STAGE (R427): Checks an image and writes it to the inactive bank. -/
  | imageStage (r : Req)
  /-- IMAGE_QUERY (R420): Returns the state of both flash banks. -/
  | imageQuery (r : Req)
  /-- IMAGE_ACTIVATE (R428): Starts a live activation of the staged image. -/
  | imageActivate (r : Req)
  /-- IMAGE_COMMIT (R429): Commits an image in probation. -/
  | imageCommit (r : Req)
  /-- IMAGE_ROLLBACK (R430): Ends probation or activates the fallback image. -/
  | imageRollback (r : Req)
  /-- ENVELOPE_SET (R421): Sets the tenant's standing envelope request. -/
  | envelopeSet (r : Req)
  /-- POWER_STATE (R456): Starts a Night step or returns to RUN. -/
  | powerState (r : Req)
  /-- DEBUG_GRANT (R482): Sets or clears DEBUG_GRANTED. -/
  | debugGrant (r : Req)
  /-- ACTIVATION_COPY_DONE (R428): New Kreog section copied and hashed; outputs move to HOLD. -/
  | activationCopyDone 
  /-- ACTIVATION_WAIT_EXPIRED (R428): WAIT_MS passes with a graph run in progress; activation ends BUSY. -/
  | activationWaitExpired 
  /-- SWITCH_START (R428): Last output in HOLD; control gap begins and handover runs. -/
  | switchStart 
  /-- SWITCH_END (R428): New Kreog start-up checks pass; outputs return to COMPOSE and probation begins. -/
  | switchEnd 
  /-- HEALTH_WINDOW_END (R429): Health window passes: bank GOOD or rollback. -/
  | healthWindowEnd (healthy : Bool)
  /-- RANGER_RESTART (R406): Comparator mismatch, watchdog expiry or SRAM error restarts Ranger. -/
  | rangerRestart (cause : Nat)
  /-- RANGER_RESTART_DONE (R407): Kreog resumes and the control gap ends. -/
  | rangerRestartDone 
  /-- FLIP_SUBMIT (R249): Checks a flip set and arms or rejects it. -/
  | flipSubmit (a : Access) (t : Nat)
  /-- FLIP_DEADLINE (R252): At vertical blank READY sets latch and pending output state applies. -/
  | flipDeadline (n : Nat) (late : List (Nat × Nat))
  /-- LEAD_WINDOW_OPEN (R256): Lead window opens; deadline requests raised for armed sets. -/
  | leadWindowOpen (n : Nat) (due : Nat)
  /-- BEACON_COMMIT (R264): Commits pending Beacon changes for the next flip deadline. -/
  | beaconCommit (a : Access) (n : Nat)
  /-- BEACON_PUBLISH (R268): At the last active line the Beacon record and check values are published. -/
  | beaconPublish (n : Nat)
  /-- PIXEL_UNDERRUN (R271): A missing pixel is replaced by the keeper's pixel. -/
  | pixelUnderrun (n : Nat) (x : Nat) (y : Nat)
  /-- KEEPER_ENTRY (R269): Output moves to KEEPER after a period with no engine pixel or engine loss. -/
  | keeperEntry (n : Nat) (engineReset : Bool)
  /-- KEEPER_RELEASE (R269): Ranger releases the keeper back to COMPOSE or HOLD. -/
  | keeperRelease (n : Nat)
  /-- OUTPUT_ENABLE (R269): Owner sets ENABLE; output leaves OFF and mode is set. -/
  | outputEnable (a : Access) (n : Nat)
  /-- OUTPUT_DISABLE (R270): Owner clears ENABLE; output enters OFF. -/
  | outputDisable (a : Access) (n : Nat)
  /-- MODESET (R278): Validates timing and trains the link. -/
  | modeset (a : Access) (n : Nat)
  /-- MODESET_DONE (R278): Link training ends with success or MODESET_ERR. -/
  | modesetDone (n : Nat) (link : Option (Nat × Nat))
  /-- WRITEBACK_FRAME_DONE (R261): A write-back frame takes effect and WB_SYNC is signalled. -/
  | writebackFrameDone (n : Nat) (dropped : Option Nat)
  /-- HPD_PLUG (R276): HPD high 10 ms: sink discovery and notify. -/
  | hpdPlug (n : Nat) (dpcd : List (BitVec 8)) (blocks : List (List (BitVec 8)))
  /-- HPD_UNPLUG (R276): HPD low over 2 ms: sink marked absent. -/
  | hpdUnplug (n : Nat)
  /-- IRQ_HPD (R280): Short HPD pulse: link status read and retrain if needed. -/
  | irqHpd (n : Nat) (retrain : Option Bool)
  /-- GO (R284): Starts an AUX mailbox transaction. -/
  | go (a : Access) (n : Nat)
  /-- AUX_DONE (R284): AUX reply, defer limit or 3.2 ms timeout ends the transaction. -/
  | auxDone (n : Nat) (result : Nat) (data : List (BitVec 8))
  /-- CH_GO (R390): Starts or refuses a Chipper job. -/
  | chGo (a : Access) (c : Nat)
  /-- CHIPPER_BLOCK (R385): An engine processes one block of a job or segment at a block boundary. -/
  | chipperBlock (e : Nat)
  /-- CHIPPER_JOB_COMPLETE (R392): Job bytes take effect; fence signalled; BUSY cleared. -/
  | chipperJobComplete (c : Nat)
  /-- START (R399): Blaze DIRECT mode START sets INIT and folds the pre-image. -/
  | start (a : Access) (c : Nat)
  /-- BZ_FEED (R399): Folds 8 bytes into the running value. -/
  | bzFeed (a : Access) (c : Nat)
  /-- BZ_FEED_PART (R399): Folds 1 to 7 bytes into the running value. -/
  | bzFeedPart (a : Access) (c : Nat)
  /-- ESCALATION (R356): ESCALATE_US passes; preemption moves to the instruction boundary. -/
  | escalation (core : Nat) (cmd : Nat)
  /-- QUANTUM_EXPIRY (R357): QUANTUM_US passes; work preempted at its coarse boundary. -/
  | quantumExpiry (core : Nat) (cmd : Nat)
  /-- SAVE_COMPLETE (R362): A core's save finishes and the core is handed on. -/
  | saveComplete (core : Nat)
  /-- RESTORE_COMPLETE (R362): A core's restore finishes and work resumes. -/
  | restoreComplete (k : Nat)
  /-- QUEUE_WATCHDOG (R367): Queue watchdog reaches its limit and faults the context. -/
  | queueWatchdog (q : Nat)
  /-- CONTEXT_WATCHDOG (R368): Context watchdog reaches its limit for a command. -/
  | contextWatchdog (cmd : Nat)
  /-- CONTEXT_RESET_DONE (R292): Nothing of the context remains; it returns to LIVE. -/
  | contextResetDone (c : Nat)
  /-- CONTEXT_FREED (R292): Destroyed context slot becomes FREE. -/
  | contextFreed (c : Nat)
  /-- QUEUE_FREED (R310): Draining queue becomes FREE. -/
  | queueFreed (q : Nat)
  /-- TENANT_FREED (R289): Destroying tenant slot becomes FREE. -/
  | tenantFreed (t : Nat)
  /-- OBJECT_RECLAIM (R302): Retiring object reclaimed; generation incremented. -/
  | objectReclaim (o : Nat)
  /-- OBJECT_ZERO_DONE (R298): DRAM object zeroed; create completes. -/
  | objectZeroDone (o : Nat)
  /-- FENCE_RELEASED (R336): Releasing fence with no waiters becomes FREE. -/
  | fenceReleased (f : Nat)
  /-- LINK_DOWN (R374): Host link loss: window answers zero, tenants GONE, contexts faulted. -/
  | linkDown (p : Nat)
  /-- LINK_UP (R495): Host link trains; port enters CALLING or READY. -/
  | linkUp (p : Nat)
  /-- ROLL_CALL_TIMEOUT (R495): ROLL_CALL_MS passes; GONE tenants destroyed. -/
  | rollCallTimeout (p : Nat)
  /-- BIND (R496): VSEC BIND binds or rebinds the port manager. -/
  | bind (p : Nat)
  /-- RELEASE (R497): VSEC RELEASE destroys every tenant of the port. -/
  | release (p : Nat)
  /-- HOST_READ_TIMEOUT (R491): Outbound read fails or times out and is delivered poisoned. -/
  | hostReadTimeout (p : Nat) (words : List Nat)
  /-- MSIX_UNMASK (R488): Unmasking a vector sends its pending message. -/
  | msixUnmask (p : Nat) (v : Nat)
  /-- DROOP_TRIP (R436): Sag sensor TRIP steps the stand divider down. -/
  | droopTrip (sensor : Nat)
  /-- DEEP_TRIP (R436): Sag sensor DEEP_TRIP steps the stand to divide by 12. -/
  | deepTrip (sensor : Nat) (both : Bool)
  /-- DROOP_RECOVER (R436): Clear counter reaches hold or dwell and the stand steps faster. -/
  | droopRecover (stand : Nat)
  /-- GOVERNOR_PERIOD (R441): Each 1 ms control period sets divider and tensor duty. -/
  | governorPeriod (p1 : Nat) (p100 : Nat) (tj : Int)
  /-- IDLE_GATE_START (R446): IDLE_GATE_US idle starts a Dusk step for a domain. -/
  | idleGateStart (unit : Nat)
  /-- DUSK_ANSWER (R448): An agent acknowledges, delays or refuses a quiet request. -/
  | duskAnswer (step : Nat) (agent : DuskAgent)
  /-- DUSK_REASK (R448): An agent's delay ends and it is asked again. -/
  | duskReask (step : Nat) (agent : DuskAgent)
  /-- DUSK_NO_ANSWER (R448): No answer within 100 µs cancels the step. -/
  | duskNoAnswer (step : Nat) (agent : DuskAgent)
  /-- DUSK_COMMIT_DONE (R448): Every domain of the step is off. -/
  | duskCommitDone (step : Nat)
  /-- DOMAIN_POWER_UP_DONE (R445): A domain completes power-up and becomes available. -/
  | domainPowerUpDone (unit : Nat)
  /-- ADDRESS_MATCH (R454): I3C address match in Night latches a wake. -/
  | addressMatch 
  /-- WAKE_COMPLETE (R455): Wake sequence completes; IBI sent. -/
  | wakeComplete 
  /-- NIGHT_LINK_GRACE_EXPIRY (R451): Link not up after grace; link loss applied. -/
  | nightLinkGraceExpiry (p : Nat)
  /-- ENVELOPE_REQ (R460): Tenant writes its standing envelope request register. -/
  | envelopeReq (a : Access)
  /-- THERMAL_SAMPLE (R529): Thermal monitor applies hardware floor or shutdown every 100 µs. -/
  | thermalSample (tj : Int) (lost : Option (List (Nat × BitVec 8)))
  /-- REFCLK_LOSS (R528): No reference edge for 1 µs holds device reset. -/
  | refclkLoss 
  /-- PG_LOW (R526): A power-good input low for 1 µs causes device reset. -/
  | pgLow
  /-- SCRUB_READ (R466): Scrubber reads and corrects a word or line. -/
  | scrubRead (site : ArraySite) (found : ScrubFound)
  /-- WRITE_LINK_POLL (R468): Every 100 ms the write link error counts are read. -/
  | writeLinkPoll (channel : Nat) (n : Nat)
  /-- RETIREMENT (R476): Sequencer retires a unit or disables a cache location. -/
  | retirement (what : Nat) (line : Nat)
  /-- RETIRE_POWER_OFF (R476): Nothing remains on a retired unit; domains off, record and event. -/
  | retirePowerOff (unit : Nat)
  /-- CORE_RETIRED (R415): Kreog delivers the queued CORE_RETIRED event. -/
  | coreRetired 
  /-- SELF_TEST_START (R475): Self-test starts once nothing is resident on the core. -/
  | selfTestStart (core : Nat)
  /-- SELF_TEST_DONE (R475): Self-test ends: core available again or retired. -/
  | selfTestDone (core : Nat) (coreFail : Bool) (arrayFail : Bool)
  /-- UNIT_ISOLATION (R479): A unit that fails to stop in 10 µs is isolated. -/
  | unitIsolation (unit : Nat)
  /-- CLEAR (R288): ERR_LOG_STATUS CLEAR empties the error log. -/
  | clear (a : Access) (t : Nat)
  /-- SCORCH (R483): SCORCH register writes blow the scorch fuse. -/
  | scorch (first : BitVec 16) (second : BitVec 16) (slow : Bool) (supply : Bool)
  /-- POISON_FENCE (R505): I3C command that poisons a fence. -/
  | poisonFence (arg : BitVec 32) (confirm : BitVec 16)
  /-- RESET_TENANT (R505): I3C command that resets a tenant. -/
  | resetTenant (arg : BitVec 32) (confirm : BitVec 16)
  /-- FORCE_NIGHT (R452): I3C command that forces Night without Dusk. -/
  | forceNight (arg : BitVec 32) (confirm : BitVec 16) (lost : Option (List (Nat × BitVec 8)))
  /-- RELEASE_PADS (R458): I3C command that clears a domain's pad hold. -/
  | releasePads (arg : BitVec 32) (confirm : BitVec 16)
  /-- BEACON_LOCK (R266): I3C command that locks a Beacon partition. -/
  | beaconLock (arg : BitVec 32) (confirm : BitVec 16)
  /-- BEACON_UNLOCK (R266): I3C command that unlocks a Beacon partition. -/
  | beaconUnlock (arg : BitVec 32) (confirm : BitVec 16)
  /-- I3C_PRIVATE_WRITE (R503): I3C private write sets the address pointer and writes bytes. -/
  | i3cPrivateWrite (bytes : List (BitVec 8))
  /-- ENTDAA (R501): I3C dynamic address assignment. -/
  | entdaa (addr : BitVec 7)
  /-- SETDASA (R501): Sets the dynamic address from the static address. -/
  | setdasa (static : BitVec 7) (addr : BitVec 7)
  /-- SETNEWDA (R501): Changes the dynamic address. -/
  | setnewda (addr : BitVec 7)
  /-- RSTDAA (R501): Resets the dynamic address. -/
  | rstdaa 
  /-- ENEC (R506): Enables target interrupts. -/
  | enec (events : BitVec 8)
  /-- DISEC (R506): Disables target interrupts. -/
  | disec (events : BitVec 8)
  /-- GETPID (R501): Returns the provisioned ID. -/
  | getpid 
  /-- GETBCR (R501): Returns BCR. -/
  | getbcr 
  /-- GETDCR (R501): Returns DCR. -/
  | getdcr 
  /-- GETSTATUS (R501): Returns target status. -/
  | getstatus 
  /-- GETMRL (R501): Returns maximum read length. -/
  | getmrl 
  /-- SETMRL (R501): Sets maximum read length. -/
  | setmrl (n : Nat)
  /-- GETMWL (R501): Returns maximum write length. -/
  | getmwl 
  /-- SETMWL (R501): Sets maximum write length. -/
  | setmwl (n : Nat)
  /-- RSTACT (R513): Target reset action; defining byte 0x02 causes device reset. -/
  | rstact (action : BitVec 8) (pattern : Bool)
  /-- IBI_RETRY (R506): An unacknowledged IBI is raised again at bus-available. -/
  | ibiRetry (ack : Bool)
  /-- EXTEST (R510): JTAG boundary-scan external test. -/
  | extest 
  /-- IDCODE (R510): JTAG IDCODE selection. -/
  | idcode 
  /-- SAMPLE_PRELOAD (R510): JTAG SAMPLE/PRELOAD. -/
  | samplePreload 
  /-- CLAMP (R510): JTAG CLAMP. -/
  | clamp 
  /-- HIGHZ (R510): JTAG HIGHZ. -/
  | highz 
  /-- BYPASS (R510): JTAG BYPASS. -/
  | bypass 
  /-- DEBUG_ACCESS_PORT (R482): JTAG debug access port instruction. -/
  | debugAccessPort (code : BitVec 8) (op : DapOp)
  /-- DEVICE_RESET (R513): Power-on or SYS_RESET_N returns the device to reset values. -/
  | deviceReset (pin : Bool)
  /-- RESET_RELEASE (R514): Boot begins: fuses, flash probe, image verify, Beacon on, Kreog. -/
  | resetRelease (b : BootInput)
  /-- HOST_READY (R514): Self-tests and DRAM training done; endpoints answer. -/
  | hostReady 
  /-- REGISTER_WRITE (R10): Write to a register without a row of its own, including refused or reserved accesses. -/
  | registerWrite (space : RegSpace) (op : AccessOp) (a : Access) (off : Nat)
  /-- IMAGE_STAGE_DONE (R427): The staged image has been written to the inactive bank and verified by read-back; the bank becomes STAGED and IMAGE_STAGE gets its final reply. -/
  | imageStageDone 
  /-- GRAPH_LOAD_DONE (R422): Kreog finishes loading and checking a graph package and posts the final reply that carries the GRAPH number. -/
  | graphLoadDone (g : Nat)
  /-- CONTEXT_TLB_INVALIDATE_DONE (R314): The condition of R314 holds for a Flume TLB invalidation, and its final OK is posted. -/
  | contextTlbInvalidateDone (c : Nat) (va : Nat) (n : Nat)
  /-- DROOP_STEP_DELIVERY (R415): Once 1 ms has passed since the previous delivery, the held DROOP_STEP event of a stand is posted with its accumulated step count. -/
  | droopStepDelivery (stand : Nat)
  /-- TRIP_CLEAR (R435): A sag sensor clears TRIP or DEEP_TRIP after two samples above the level, and the clear counter of the ladder starts to advance. -/
  | tripClear (sensor : Nat) (deep : Bool)
  /-- HDR_MODE_ENTRY (R501): The I3C controller enters an HDR mode, and the target starts ignoring the bus. -/
  | hdrModeEntry 
  /-- HDR_EXIT_PATTERN (R501): The HDR exit pattern on the bus makes the target resume decoding SDR transfers. -/
  | hdrExitPattern 
  /-- UNDEFINED_ENCODING (R103): A group executes an instruction word with a reserved CLASS or OP and faults ILLEGAL_INSTRUCTION UNDEFINED_ENCODING. -/
  | undefinedEncoding (g : GroupAt)
  /-- BAD_PACKET (R312): The queue front end fetches a packet with a reserved OPCODE and faults the context with BAD_PACKET. -/
  | badPacket (p : Pkt) (opcode : BitVec 16)
  /-- BAD_OPCODE (R412): The Flume fetches a request with an undefined OPCODE and replies BAD_OPCODE with FINAL. -/
  | badOpcode (r : Req) (opcode : BitVec 16)
  deriving DecidableEq, Repr

end Sys2Proof
end

