-- ==== Sys2Proof/Config.lean ====
section
/-! DEFINITION. The values the spec leaves open, each an opaque constant: nothing in Lean can evaluate one or prove a
value of it, so a statement that holds of the model holds whatever they are. -/

namespace Sys2Proof.Config

/-- Which of the codes within 2 units in the last place the transcendental unit returns (chapter 3: "their exact bit
patterns are published with the Querov reference model"): operation (0 exp2, 1 log2, 2 sin, 3 cos) and operand. -/
opaque transPick : Nat → BitVec 32 → Nat

/-- The result of sin (0) or cos (1) beyond |A| = 2^15, where the spec states no bound. -/
opaque trigFar : Nat → BitVec 32 → BitVec 32

/-- A free 64-bit value for draw number `n` of a run (State.freeTick counts the draws). -/
opaque free : Nat → BitVec 64

/-- The byte at an address of tile memory that nothing has written since draw number `n` took the region. -/
opaque freeByte : Nat → Nat → BitVec 8

/-- Interpolation by the tile rasteriser ("its exact bit patterns are published with the Querov reference model"):
kind (0 z_ndc at a sample, 1 depth of the fragment position, 2 its 1 ÷ w, 3 perspective-correct attribute, 4 linear
attribute), the words of the primitive's vertices (and of the attribute component at them), and the place in 1/16
pixels. -/
opaque interp : Nat → List (BitVec 32) → Nat → Nat → BitVec 32

/-- Whether a primitive with a vertex at an infinity, or a line with a vertex at w ≤ 0, which has no window position to
snap, covers a place in 1/16 pixels: the words of its vertices, x, y. -/
opaque crossCover : List (BitVec 32) → Nat → Nat → Bool

/-- What a tex answers in a lane whose coordinates or level of detail are not numbers: channel (4: the residency
predicate), and the words of the lane's coordinate and extra registers. -/
opaque texFar : Nat → List (BitVec 32) → BitVec 32

/-- The compressor's choice for a block (R388: "this manual does not define it"): the block's bytes, BLOCK_BYTES, the
stream's dictionary, predecessor, offset, block index and history; whether RESET, whether STORED, and the payload. -/
opaque chipEncode : List (BitVec 8) → Nat → List (List (BitVec 8)) → Option (List (BitVec 8)) → Nat → Nat →
  List (BitVec 8) → Bool × Bool × List (BitVec 8)

/-- The layout of a state area, which the spec does not give (R393): the byte at an index for a dictionary, predecessor,
offset and block index, and what the bytes of an area that an engine did not write so stand for. -/
opaque areaByte : List (List (BitVec 8)) → Option (List (BitVec 8)) → Nat → Nat → Nat → BitVec 8
opaque areaDict : List (BitVec 8) → List (List (BitVec 8))
opaque areaPrev : List (BitVec 8) → Option (List (BitVec 8))
opaque areaOff : List (BitVec 8) → Nat
opaque areaBlock : List (BitVec 8) → Nat

/-- The preferred timing of a sink, from its EDID and DisplayID blocks (R277: VESA's standards give their layout): the
values of OUT_TIMING_H, OUT_TIMING_V, OUT_PIXCLK and the link fields of OUT_CTL. -/
opaque sinkMode : List (List (BitVec 8)) → BitVec 64 × BitVec 64 × BitVec 64 × BitVec 64

/-- Magic and version of a Querov graph package, from its bytes (R422: "whose layout is given in the Querov manual"). -/
opaque packageHead : List (BitVec 8) → Nat × Nat

/-- BEACON_CTL, BEACON_REGION, BEACON_GEOM and the hold colour of an output in a BEACON_STATE section ("as the Beacon
page lays them out": the spec gives no place to the outputs and to the hold colour), and the output's palette. -/
opaque beaconSection : List (BitVec 8) → Nat → BitVec 64 × BitVec 64 × BitVec 64 × BitVec 64
opaque beaconPalette : List (BitVec 8) → Nat → Nat → BitVec 32

/-- Whether a DISPLAY section is consistent, and what it says of an output: interface (0 DisplayPort, 1 eDP, 2 DSI),
mode policy, the panel's initialisation sequence, and the configured OUT_TIMING_H, OUT_TIMING_V, OUT_PIXCLK and link
fields. -/
opaque displayOk : List (BitVec 8) → Bool
opaque displayPort : List (BitVec 8) → Nat → Nat × Nat
opaque displayPanel : List (BitVec 8) → Nat → List (BitVec 8)
opaque displayMode : List (BitVec 8) → Nat → BitVec 64 × BitVec 64 × BitVec 64 × BitVec 64

/-- Whether the governor predicts that a pair (G, D) fits a working envelope in 0.5 W units (R441: the prediction is not
given), by draw number. -/
opaque powerFits : Nat → Nat → Nat → Nat → Bool

/-- The directory set of a line within its home slice, taken modulo 256: the spec gives 256 sets of 8 ways and no index
function (R532; log entry 108). -/
opaque dirSet : Nat → Nat

end Sys2Proof.Config
end

