-- ==== Sys2Proof/Machine/Bits.lean ====
section
/-! DEFINITION. Bit fields, byte order, sign extension and lane masks: the plain readings of R8 and R9
(bit ranges are written [hi:lo]; multi-byte values lie little-endian). -/

namespace Sys2Proof.Machine

/-- Bits [hi:lo] of a number. -/
def bitsOf (x hi lo : Nat) : Nat := (x >>> lo) % 2 ^ (hi + 1 - lo)

/-- Bit `i` of a number. -/
def bitOf (x i : Nat) : Bool := Nat.testBit x i

/-- 1 for true, 0 for false. -/
def b2n (b : Bool) : Nat := if b then 1 else 0

/-- A value placed at bit `k`. -/
def atBit (k v : Nat) : Nat := v * 2 ^ k

/-- The value of a run of bytes, the first byte the least significant (R9). -/
def leNat : List Byte → Nat
  | [] => 0
  | b :: bs => b.toNat + 256 * leNat bs

/-- The `n` bytes of a number, the least significant first (R9). -/
def leBytes : Nat → Nat → List Byte
  | 0, _ => []
  | n + 1, x => BitVec.ofNat 8 x :: leBytes n (x / 256)

/-- Byte `i` of a list, 0 past its end. -/
def byteAt (bs : List Byte) (i : Nat) : Byte := bs.getD i 0

/-- The little-endian field of `n` bytes at offset `o` of a list of bytes. -/
def fieldAt (bs : List Byte) (o n : Nat) : Nat := leNat ((bs.drop o).take n)

/-- `bs` with the bytes from offset `o` replaced by `new` (a list long enough keeps its length). -/
def putAt (bs : List Byte) (o : Nat) (new : List Byte) : List Byte :=
  bs.take o ++ new ++ bs.drop (o + new.length)

/-- The two's complement reading of the low `w` bits of a number. -/
def toSigned (w x : Nat) : Int :=
  let y := x % 2 ^ w
  if 2 * y < 2 ^ w then (y : Int) else (y : Int) - (2 ^ w : Nat)

/-- The `w`-bit code of an integer, modulo 2^w. -/
def ofSigned (w : Nat) (i : Int) : Nat := (i % ((2 ^ w : Nat) : Int)).toNat

/-- Lanes 0 to 31 in ascending order. -/
def allLanes : List Nat := List.range 32

/-- Whether lane `l` is in the mask. -/
def inMask (m : Mask) (l : Nat) : Bool := m.getLsbD l

/-- The lanes of a mask in ascending order. -/
def lanesOf (m : Mask) : List Nat := allLanes.filter (inMask m)

/-- The mask of the lanes for which `p` holds. -/
def maskOf (p : Nat → Bool) : Mask :=
  BitVec.ofNat 32 (allLanes.foldl (fun n l => if p l then n + 2 ^ l else n) 0)

/-- How many bits of the low `w` bits of a number are set. -/
def popCount : Nat → Nat → Nat
  | 0, _ => 0
  | w + 1, x => x % 2 + popCount w (x / 2)

/-- How many leading zeros the low `w` bits of a number have. -/
def leadZeros (w x : Nat) : Nat :=
  let y := x % 2 ^ w
  if y = 0 then w else w - 1 - Nat.log2 y

/-- Integer square root by one bit at a time from bit `n` downward. -/
def isqrtFrom : Nat → Nat → Nat → Nat
  | 0, x, r => if (r + 1) * (r + 1) ≤ x then r + 1 else r
  | n + 1, x, r =>
    let t := r + 2 ^ (n + 1)
    isqrtFrom n x (if t * t ≤ x then t else r)

/-- The largest integer whose square is at most `x`. -/
def isqrt (x : Nat) : Nat := isqrtFrom (Nat.log2 x / 2 + 1) x 0

/-- ⌈x ÷ y⌉, with 0 for y = 0. -/
def ceilDiv (x y : Nat) : Nat := (x + y - 1) / y

/-- The least of a nonempty list of numbers, none for an empty one. -/
def leastOf : List Nat → Option Nat
  | [] => none
  | x :: xs => match leastOf xs with
    | none => some x
    | some y => some (min x y)

/-- The least number below `n` for which `p` holds. -/
def firstBelow (n : Nat) (p : Nat → Bool) : Option Nat := (List.range n).find? p

end Sys2Proof.Machine
end

