-- ==== Sys2Proof/Machine/Float.lean ====
section
/-! DEFINITION. The number formats and the arithmetic on them (04_number_formats.md): decoding by R132 to R134,
exact results, and one rounding into the destination. -/

namespace Sys2Proof.Machine

/-- A decoded number: a finite one is (−1)^neg × mag × 2^exp with mag an integer (Table 4.5). -/
inductive Num where
  | nan
  | inf (neg : Bool)
  | fin (neg : Bool) (mag : Nat) (exp : Int)
  deriving DecidableEq, Repr

/-- A floating-point layout (Table 4.2) with the special codes it has (Table 4.3). `maxCode` is the largest finite
positive code, `infCode` and `nanCode` are 0 in a format without them. -/
structure Fmt where
  bits : Nat
  m : Nat
  bias : Nat
  maxCode : Nat
  infCode : Nat
  nanCode : Nat
  deriving DecidableEq, Repr

def Fmt.f32 : Fmt := ⟨32, 23, 127, 0x7F7FFFFF, 0x7F800000, 0x7FC00000⟩
def Fmt.f16 : Fmt := ⟨16, 10, 15, 0x7BFF, 0x7C00, 0x7E00⟩
def Fmt.bf16 : Fmt := ⟨16, 7, 127, 0x7F7F, 0x7F80, 0x7FC0⟩
def Fmt.e4m3 : Fmt := ⟨8, 3, 7, 0x7E, 0, 0x7F⟩
def Fmt.e5m2 : Fmt := ⟨8, 2, 15, 0x7B, 0x7C, 0x7E⟩
def Fmt.e3m2 : Fmt := ⟨6, 2, 3, 0x1F, 0, 0⟩
def Fmt.e2m3 : Fmt := ⟨6, 3, 1, 0x1F, 0, 0⟩
def Fmt.e2m1 : Fmt := ⟨4, 1, 1, 0x7, 0, 0⟩

/-- The value of a code (R132, R133): the bits above the format's width are ignored. -/
def Fmt.decode (F : Fmt) (code : Nat) : Num :=
  let neg := bitOf code (F.bits - 1)
  let mg := code % 2 ^ (F.bits - 1)
  if F.infCode ≠ 0 ∧ mg = F.infCode then .inf neg
  else if F.maxCode < mg then .nan
  else
    let e := mg / 2 ^ F.m
    let f := mg % 2 ^ F.m
    if e = 0 then .fin neg f (1 - F.bias - F.m) else .fin neg (2 ^ F.m + f) ((e : Int) - F.bias - F.m)

/-- The sign bit of a format at its place. -/
def Fmt.signBit (F : Fmt) (neg : Bool) : Nat := if neg then 2 ^ (F.bits - 1) else 0

/-- The rounding modes of a conversion (RND). -/
inductive Rnd where
  | near | zero | down | up
  deriving DecidableEq, Repr

/-- The rounding mode of a 2-bit code. -/
def Rnd.of (c : Nat) : Rnd := if c = 0 then .near else if c = 1 then .zero else if c = 2 then .down else .up

/-- Whether a magnitude `q` units and a remainder that compares to half a unit as `half` (and is zero when
`exact`) rounds up one unit. -/
def Rnd.ups (r : Rnd) (neg : Bool) (q : Nat) (half : Ordering) (exact : Bool) : Bool :=
  match r with
  | .near => match half with
    | .gt => true
    | .eq => q % 2 = 1
    | .lt => false
  | .zero => false
  | .down => neg && !exact
  | .up => !neg && !exact

/-- mag × 2^exp in units of 2^qe, as whole units, the comparison of the rest with half a unit, and whether the
rest is zero. `sticky` says that the true magnitude lies above mag × 2^exp by less than 2^exp. -/
def unitsOf (mag : Nat) (exp qe : Int) (sticky : Bool) : Nat × Ordering × Bool :=
  if qe ≤ exp then (mag <<< (exp - qe).toNat, if sticky then .lt else .lt, !sticky)
  else
    let sh := (qe - exp).toNat
    let q := mag >>> sh
    let r := mag % 2 ^ sh
    let h := 2 ^ (sh - 1)
    (q, if r < h then .lt else if r = h ∧ !sticky then .eq else .gt, r == 0 && !sticky)

/-- What a finite result beyond the largest finite code becomes. -/
inductive Over where
  | toInf | saturate
  deriving DecidableEq, Repr

/-- The code of a finite magnitude rounded into a format. -/
def Fmt.roundFin (F : Fmt) (r : Rnd) (o : Over) (neg : Bool) (mag : Nat) (exp : Int) (sticky : Bool) : Nat :=
  if mag = 0 then F.signBit neg
  else
    let emin : Int := 1 - F.bias
    let e : Int := (Nat.log2 mag : Int) + exp
    let qe : Int := max (e - F.m) (emin - F.m)
    let (q, half, exact) := unitsOf mag exp qe sticky
    let q' := if r.ups neg q half exact then q + 1 else q
    let code := (qe + F.m - emin).toNat * 2 ^ F.m + q'
    if F.maxCode < code then
      match o with
      | .saturate => F.signBit neg + F.maxCode
      | .toInf =>
        if r = .zero ∨ (r = .down ∧ !neg) ∨ (r = .up ∧ neg) then F.signBit neg + F.maxCode
        else F.signBit neg + F.infCode
    else F.signBit neg + code

/-- The code of a number in a format: the canonical NaN (R150), infinities, and rounded finite values. A NaN gives
+0 and an infinity the largest finite code where the format has no such code (R119). -/
def Fmt.encode (F : Fmt) (r : Rnd) (o : Over) (n : Num) : Nat :=
  match n with
  | .nan => F.nanCode
  | .inf neg => F.signBit neg + (if F.infCode = 0 then F.maxCode else F.infCode)
  | .fin neg mag exp => F.roundFin r o neg mag exp false

/-- The IEEE 754 result in a format: nearest even, overflow to infinity, the canonical NaN. -/
def Fmt.ieee (F : Fmt) (n : Num) : Nat := F.encode .near .toInf n

namespace Num

/-- The number with its sign changed. -/
def negate : Num → Num
  | .nan => .nan
  | .inf s => .inf !s
  | .fin s m e => .fin (!s) m e

/-- The number, negated when `b` holds. -/
def negIf (b : Bool) (n : Num) : Num := if b then n.negate else n

/-- The signed integer of a finite number in units of 2^e. -/
def inUnits (neg : Bool) (mag : Nat) (exp e : Int) : Int :=
  let v : Int := (mag <<< (exp - e).toNat : Nat)
  if neg then -v else v

/-- Exact sum; a zero sum is +0 unless both operands are zeros or numbers of negative sign (round to nearest). -/
def add : Num → Num → Num
  | .nan, _ => .nan
  | _, .nan => .nan
  | .inf a, .inf b => if a = b then .inf a else .nan
  | .inf a, _ => .inf a
  | _, .inf b => .inf b
  | .fin a ma ea, .fin b mb eb =>
    let e := min ea eb
    let v := inUnits a ma ea e + inUnits b mb eb e
    if v = 0 then .fin (a && b) 0 e else .fin (decide (v < 0)) v.natAbs e

/-- Exact product. -/
def mul : Num → Num → Num
  | .nan, _ => .nan
  | _, .nan => .nan
  | .inf a, .inf b => .inf (a != b)
  | .inf a, .fin b m _ => if m = 0 then .nan else .inf (a != b)
  | .fin a m _, .inf b => if m = 0 then .nan else .inf (a != b)
  | .fin a ma ea, .fin b mb eb => .fin (a != b) (ma * mb) (ea + eb)

/-- The order of two numbers, none when either is a NaN; −0 equals +0. -/
def cmp : Num → Num → Option Ordering
  | .nan, _ => none
  | _, .nan => none
  | .inf a, .inf b => some (if a = b then .eq else if a then .lt else .gt)
  | .inf a, .fin _ _ _ => some (if a then .lt else .gt)
  | .fin _ _ _, .inf b => some (if b then .gt else .lt)
  | .fin a ma ea, .fin b mb eb =>
    let e := min ea eb
    some (compare (inUnits a ma ea e) (inUnits b mb eb e))

/-- Whether the sign is negative (a NaN has none). -/
def isNeg : Num → Bool
  | .nan => false
  | .inf s => s
  | .fin s _ _ => s

def isNan : Num → Bool
  | .nan => true
  | _ => false

def isZero : Num → Bool
  | .fin _ 0 _ => true
  | _ => false

/-- IEEE 754 minimumNumber: a number wins over a NaN, −0 is below +0. -/
def minNum (a b : Num) : Num :=
  match cmp a b with
  | none => if a.isNan then b else a
  | some .lt => a
  | some .gt => b
  | some .eq => if a.isNeg then a else b

/-- IEEE 754 maximumNumber. -/
def maxNum (a b : Num) : Num :=
  match cmp a b with
  | none => if a.isNan then b else a
  | some .lt => b
  | some .gt => a
  | some .eq => if a.isNeg then b else a

end Num

/-- FP32 addition as R145 names it: nearest even, subnormals kept, NaN and ∞ − ∞ canonical. -/
def f32Add (a b : Nat) : Nat := Fmt.f32.ieee ((Fmt.f32.decode a).add (Fmt.f32.decode b))

/-- The clamp of R534 on a rounded result of a format. -/
def Fmt.clamp01 (F : Fmt) (code : Nat) : Nat :=
  match F.decode code with
  | .nan => 0
  | n =>
    if n.isNeg then 0
    else if n.cmp (.fin false 1 0) = some .gt then F.ieee (.fin false 1 0) else code

/-- The binary operations of the FP32 and packed classes. -/
inductive FOp where
  | add | mul | fma | min | max
  deriving DecidableEq, Repr

/-- One arithmetic result in a format: MOD bit 3 negates A, bit 2 B, bit 1 C, bit 0 clamps (R534); one rounding. -/
def Fmt.arith (F : Fmt) (op : FOp) (mod a b c : Nat) : Nat :=
  let x := (F.decode a).negIf (bitOf mod 3)
  let y := (F.decode b).negIf (bitOf mod 2)
  let z := (F.decode c).negIf (bitOf mod 1)
  let r := match op with
    | .add => x.add y
    | .mul => x.mul y
    | .fma => (x.mul y).add z
    | .min => x.minNum y
    | .max => x.maxNum y
  let code := F.ieee r
  if bitOf mod 0 then F.clamp01 code else code

/-- A number rounded to an integral value, the sign of the operand kept on a zero (frnd). -/
def Num.integral (r : Rnd) : Num → Num
  | .nan => .nan
  | .inf s => .inf s
  | .fin s m e =>
    if 0 ≤ e then .fin s m e
    else
      let (q, half, exact) := unitsOf m e 0 false
      .fin s (if r.ups s q half exact then q + 1 else q) 0

/-- An FP32 result in which every NaN is the canonical one (R150). -/
def canonF32 (a : Nat) : Nat :=
  match Fmt.f32.decode a with
  | .nan => Fmt.f32.nanCode
  | _ => a

/-- 1 ÷ x, correctly rounded: 1 ÷ ±0 is an infinity of the sign, 1 ÷ ±∞ a zero of the sign (IEEE 754). -/
def f32Rcp (a : Nat) : Nat :=
  match Fmt.f32.decode a with
  | .nan => Fmt.f32.nanCode
  | .inf s => Fmt.f32.signBit s
  | .fin s m e =>
    if m = 0 then Fmt.f32.ieee (.inf s)
    else
      let n := 2 ^ 64
      Fmt.f32.roundFin .near .toInf s (n / m) (-64 - e) (n % m != 0)

/-- √x, correctly rounded; −0 gives −0 and other negative operands the canonical NaN (IEEE 754). -/
def f32Sqrt (a : Nat) : Nat :=
  match Fmt.f32.decode a with
  | .nan => Fmt.f32.nanCode
  | .inf s => if s then Fmt.f32.nanCode else Fmt.f32.infCode
  | .fin s m e =>
    if m = 0 then Fmt.f32.signBit s
    else if s then Fmt.f32.nanCode
    else
      let odd := (e % 2).toNat
      let n := m * 2 ^ (64 + odd)
      let q := isqrt n
      Fmt.f32.roundFin .near .toInf false q ((e - odd - 64) / 2) (q * q != n)

/-- 1 ÷ √x, correctly rounded; ±0 gives an infinity of the sign, +∞ gives +0, other negative operands NaN (IEEE 754
rSqrt). -/
def f32Rsqrt (a : Nat) : Nat :=
  match Fmt.f32.decode a with
  | .nan => Fmt.f32.nanCode
  | .inf s => if s then Fmt.f32.nanCode else 0
  | .fin s m e =>
    if m = 0 then Fmt.f32.ieee (.inf s)
    else if s then Fmt.f32.nanCode
    else
      let odd := (e % 2).toNat
      let d := m * 2 ^ odd
      let n := 2 ^ 120
      let q := isqrt (n / d)
      Fmt.f32.roundFin .near .toInf false q (-60 - (e - odd) / 2) (q * q * d != n)

/-- The conditions of Table 3.8 on an order (none: unordered). -/
def condHolds (mod : Nat) (o : Option Ordering) : Bool :=
  match mod with
  | 0x0 => o == some .eq
  | 0x1 => o == some .lt || o == some .gt
  | 0x2 => o == some .lt
  | 0x3 => o == some .lt || o == some .eq
  | 0x4 => o == some .gt
  | 0x5 => o == some .gt || o == some .eq
  | 0x8 => o == none || o == some .eq
  | 0x9 => o != some .eq
  | 0xA => o == none || o == some .lt
  | 0xB => o != some .gt
  | 0xC => o == none || o == some .gt
  | 0xD => o != some .lt
  | 0xE => o != none
  | 0xF => o == none
  | _ => false

/-- Conversion of a number to an integer of `w` bits, signed or not: rounded by `r`, clipped to the range, a NaN
gives 0 (R119). The result is the `w`-bit code. -/
def Num.toIntCode (r : Rnd) (signed : Bool) (w : Nat) (n : Num) : Nat :=
  let lo : Int := if signed then -(2 ^ (w - 1) : Nat) else 0
  let hi : Int := if signed then (2 ^ (w - 1) : Nat) - 1 else (2 ^ w : Nat) - 1
  match n with
  | .nan => 0
  | .inf s => ofSigned w (if s then lo else hi)
  | .fin s m e =>
    let v : Int := match Num.integral r (.fin s m e) with
      | .fin s' m' e' => Num.inUnits s' m' e' 0
      | _ => 0
    ofSigned w (max lo (min hi v))

/-- The integer of a `w`-bit code as a number. -/
def Num.ofIntCode (signed : Bool) (w x : Nat) : Num :=
  let v : Int := if signed then toSigned w x else (x % 2 ^ w : Nat)
  .fin (decide (v < 0)) v.natAbs 0

/-- The QL12 step table (Table 4.8). -/
def ql12T : List Nat :=
  [4096, 4277, 4467, 4664, 4871, 5087, 5312, 5547, 5793, 6049, 6317, 6597, 6889, 7194, 7512, 7845]

/-- The value of a QL12 code (R148). -/
def ql12Decode (code : Nat) : Num :=
  let m := bitsOf code 10 0
  let s := bitOf code 11
  if m = 0 then .fin s 0 0 else .fin s (ql12T.getD (m % 16) 0) ((m / 16 : Nat) - 64 - 12)

/-- ql12_from_f32 (R149): the magnitude rounds toward zero. -/
def ql12OfF32 (x : Nat) : Nat :=
  let s := if bitOf x 31 then 0x800 else 0
  let ex := bitsOf x 30 23
  let fr := bitsOf x 22 0
  if ex = 0xFF ∧ fr ≠ 0 then 0
  else if ex = 0xFF then s + 0x7FF
  else if ex < 63 then s
  else if 127 + 63 < ex then s + 0x7FF
  else
    let sig := fr + 0x800000
    let f := ((List.range 16).reverse.find? fun i => decide (ql12T.getD i 0 * 2048 ≤ sig)).getD 0
    s + (ex + 64 - 127) * 16 + f

/-- The largest power of two at most a finite magnitude: ⌊log2⌋ of mag × 2^exp for mag ≠ 0. -/
def leadOf (mag : Nat) (exp : Int) : Int := (Nat.log2 mag : Int) + exp

/-- f32_from_window (R144). -/
def f32FromWindow (s : Int) (lsb : Int) : Nat :=
  if s = 0 then 0 else Fmt.f32.roundFin .near .toInf (decide (s < 0)) s.natAbs lsb false

/-- One product's contribution to the window: floor of its value in units of 2^lsb (R143). -/
def windowTerm (lsb : Int) (neg : Bool) (mag : Nat) (exp : Int) : Int :=
  if lsb ≤ exp then
    let q : Int := (mag <<< (exp - lsb).toNat : Nat)
    if neg then -q else q
  else
    let k := (lsb - exp).toNat
    let t := mag >>> k
    let lost := if mag % 2 ^ k = 0 then 0 else 1
    if neg then -((t + lost : Nat) : Int) else (t : Int)

/-- block_sum (R143) over the products of one block. -/
def blockSum (ps : List Num) : Nat :=
  let nan := ps.any Num.isNan
  let pinf := ps.any (· == .inf false)
  let ninf := ps.any (· == .inf true)
  if nan ∨ (pinf ∧ ninf) then Fmt.f32.nanCode
  else if pinf then 0x7F800000
  else if ninf then 0xFF800000
  else
    let lead : Option Int := ps.foldl (fun l p => match p with
      | .fin _ m e => if m = 0 then l else match l with
        | none => some (leadOf m e)
        | some x => some (max x (leadOf m e))
      | _ => l) none
    match lead with
    | none => 0
    | some l =>
      let lsb := l - 24
      f32FromWindow (ps.foldl (fun s p => match p with
        | .fin n m e => if m = 0 then s else s + windowTerm lsb n m e
        | _ => s) 0) lsb

/-- The product of four factors of R142 (element, element, scale, scale). -/
def product (a b sa sb : Num) : Num := ((a.mul b).mul sa).mul sb

end Sys2Proof.Machine
end

