-- ==== Sys2Proof/Machine/Tbl.lean ====
section
/-! DEFINITION. Sparse tables keyed by number, and byte memories in one canonical form (addresses rising, no listed
byte equal to what an unlisted address reads as). -/

namespace Sys2Proof.Machine

/-- A sparse table: the entries that were written, at rising keys. -/
abbrev Tbl (α : Type) := List (Nat × α)

/-- The entry at `k`, or `d` where none was written. -/
def tget {α : Type} (t : Tbl α) (k : Nat) (d : α) : α :=
  match t with
  | [] => d
  | (j, v) :: r => if k = j then v else tget r k d

/-- The entry at `k` when one was written. -/
def tget? {α : Type} (t : Tbl α) (k : Nat) : Option α :=
  match t with
  | [] => none
  | (j, v) :: r => if k = j then some v else tget? r k

/-- The table with the entry at `k` written. -/
def tset {α : Type} (t : Tbl α) (k : Nat) (v : α) : Tbl α :=
  match t with
  | [] => [(k, v)]
  | (j, w) :: r => if k = j then (k, v) :: r else if k < j then (k, v) :: (j, w) :: r else (j, w) :: tset r k v

/-- The table without the entries at keys that `p` picks. -/
def tdrop {α : Type} (t : Tbl α) (p : Nat → Bool) : Tbl α := t.filter fun e => !p e.1

/-- The table with every listed entry changed by `f`. -/
def tmap {α : Type} (t : Tbl α) (f : Nat → α → α) : Tbl α := t.map fun e => (e.1, f e.1 e.2)

/-- A byte memory: (address, byte) pairs. -/
abbrev Mem := List Host.Cell

/-- What an address that no entry lists reads as: 0 (DESIGN CHOICE, log entry 1: the spec gives DRAM, host memory
and tile memory no content after power-on). -/
def memFill : Byte := 0

/-- The byte at an address. -/
def Mem.get (m : Mem) (a : Nat) : Byte :=
  match m with
  | [] => memFill
  | (j, v) :: r => if a = j then v else Mem.get r a

/-- One byte written, the canonical form kept. -/
def Mem.put (m : Mem) (a : Nat) (b : Byte) : Mem :=
  match m with
  | [] => if b = memFill then [] else [(a, b)]
  | (j, w) :: r =>
    if a = j then (if b = memFill then r else (a, b) :: r)
    else if a < j then (if b = memFill then (j, w) :: r else (a, b) :: (j, w) :: r)
    else (j, w) :: Mem.put r a b

/-- Every listed address is above `lo`, the addresses rise, and no listed byte is `memFill`. -/
def Mem.wfFrom (lo : Nat) : Mem → Bool
  | [] => true
  | (j, v) :: r => decide (lo ≤ j) && (v != memFill) && Mem.wfFrom (j + 1) r

/-- The canonical form. -/
def Mem.wf (m : Mem) : Bool := Mem.wfFrom 0 m

/-- `n` bytes from address `a` upward. -/
def Mem.read (m : Mem) (a n : Nat) : List Byte := (List.range n).map fun i => m.get (a + i)

/-- Bytes written from address `a` upward. -/
def Mem.write (m : Mem) (a : Nat) : List Byte → Mem
  | [] => m
  | b :: bs => Mem.write (m.put a b) (a + 1) bs

/-- The little-endian value of `n` bytes at `a` (R9). -/
def Mem.nat (m : Mem) (a n : Nat) : Nat := leNat (m.read a n)

/-- `n` bytes of a little-endian value written at `a` (R9). -/
def Mem.writeNat (m : Mem) (a n x : Nat) : Mem := m.write a (leBytes n x)

/-- A region of `n` bytes from `a` set to memFill (the entries are removed). -/
def Mem.erase (m : Mem) (a n : Nat) : Mem := m.filter fun c => !(decide (a ≤ c.1) && decide (c.1 < a + n))

end Sys2Proof.Machine
end

