-- ==== Sys2Proof/Machine/AvailState.lean ====
section
/-! DEFINITION. The error collector and the availability state (chapter 15). -/

namespace Sys2Proof.Machine

/-- An error record (Table 15.3). -/
structure ErrRec where
  kind : Nat
  unit : Nat
  cls : Nat
  loc : Nat
  timer : Nat
  deriving DecidableEq, Repr

structure Avail where
  total : Nat
  next : Nat
  records : Tbl ErrRec
  retirements : Nat
  dataSuspect : Bool
  retireHeld : Bool
  poisonSeen : Bool
  /-- Times (device timer) of the counted errors, keyed unit × 256 + kind: corrected, uncorrectable; newest first (R474). -/
  corrTimes : Tbl (List Nat)
  uncorrTimes : Tbl (List Nat)
  /-- Device timer of the last scrub correction recorded for each unit (R470). -/
  scrubTimes : Tbl Nat
  /-- What a condition of R474 has made due for retirement: units, and cache locations as locKey numbers them; cores
  ordered to a self-test; cores under test. -/
  due : List Nat
  /-- The device timer at which each became due (R477). -/
  dueAt : Tbl Nat
  tests : List Nat
  testing : List Nat
  /-- Units cleared from the maps whose work has not all left (R476 step 3), with MAP_GENERATION and CORE_MAP of the
  update. -/
  leaving : Tbl (Nat × Nat)
  /-- CORE_RETIRED events that Kreog has not delivered: unit, MAP_GENERATION, CORE_MAP (R476 step 5). -/
  events : List (Nat × Nat × Nat)
  deriving DecidableEq, Repr

def Avail.reset : Avail := ⟨0, 0, [], 0, false, false, false, [], [], [], [], [], [], [], [], []⟩

/-- The number that stands for a cache location among units: slice, set, way. -/
def locKey (slice set way : Nat) : Nat := 0x10000 + slice * 32768 + set * 16 + way

end Sys2Proof.Machine
end

