-- ==== Sys2Proof/Machine/BootState.lean ====
section
/-! DEFINITION. Fuses, the configuration in force (Tables 13.18, 14.11, 16.17 and 17.6) and what boot leaves. -/

namespace Sys2Proof.Machine

/-- The fuses (R4, R19, R482 to R484, R511). -/
structure Fuses where
  coreMap : BitVec 48
  /-- 0x30, 0x28 or 0x20 (CAP_PART). -/
  grade : Nat
  /-- 0x43 "C" or 0x41 "A". -/
  tempGrade : Nat
  stepping : Nat
  secureBoot : Bool
  scorched : Bool
  /-- SHA-384 of the image key: 48 bytes, the first the most significant. -/
  keyHash : List Byte
  vendorId : Nat
  /-- JEDEC manufacturer identity of IDCODE (R510). -/
  jedec : Nat
  /-- I3C manufacturer and part fields of the provisioned ID (R501). -/
  pid : Nat
  /-- Value of the I3C_ADDR[1:0] balls (Table 16.8). -/
  strap : Nat
  deriving DecidableEq, Repr

/-- A fresh SN960-48A part (DESIGN CHOICE, log entry 2: the fuse values are the part's own). -/
def Fuses.fresh : Fuses := ⟨BitVec.allOnes 48, 0x30, 0x41, 0xB0, false, false, List.replicate 48 0, 0, 0, 0, 0⟩

/-- The configuration keys in force. -/
structure Cfg where
  envelope : Nat
  streamWays : Nat
  saveFrames : Nat
  escalateUs : Nat
  quantumUs : Nat
  /-- Valid, port, tenant. -/
  beaconOwner : Option (Nat × Nat)
  displayAuth : Option (Nat × Nat)
  firmwarePorts : Nat
  healthMs : Nat
  rangerWdtMs : Nat
  bifurcation : Nat
  dataRate : Nat
  inlineEcc : Bool
  outputBoot : Nat
  droopMv : Nat
  droopDeepMv : Nat
  droopHold : Nat
  droopDwell : Nat
  idleGateUs : Nat
  duskBudgetMs : Nat
  nightGraceMs : Nat
  subVendor : Nat
  subId : Nat
  rollCallMs : Nat
  nightCoreOff : Bool
  deriving DecidableEq, Repr

/-- The defaults of the tables. -/
def Cfg.default : Cfg :=
  ⟨56, 4, 480, 100, 8000, none, none, 1, 2000, 100, 0, 9600, false, 0, 40, 90, 64, 16, 200, 50, 1000, 0, 0, 10000, false⟩

/-- What the boot sequence found and loaded (BOOT_STATUS, CAP_FIRMWARE, CAP_CONFIG, CAP_DRAM, CAP_MEMORY). -/
structure Boot where
  /-- Reset is released and the boot sequence has run. -/
  running : Bool
  stage : Nat
  fail : Nat
  warn : Nat
  /-- The bank of the running image, the one booted (BOOT_STATUS), and that of the active configuration image
  (CAP_CONFIG), which a live activation reports once its bank is GOOD (R429). -/
  bank : Nat
  booted : Nat
  configBank : Nat
  kreogVersion : Nat
  kreogBuild : Nat
  configVersion : Nat
  /-- Installed DRAM in bytes, DRAM usable for objects, packages. -/
  dramInstalled : Nat
  dramBytes : Nat
  packages : Nat
  /-- Mode and clock of the flash interface (R507). -/
  flashMode : FlashMode
  flashMhz : Nat
  deriving DecidableEq, Repr

def Boot.reset : Boot := ⟨false, 0, 0, 0, 0, 0, 0, 0, 0, 0, 0, 0, 0, .single, 25⟩

end Sys2Proof.Machine
end

