-- ==== Sys2Proof/Machine/ChipState.lean ====
section
/-! DEFINITION. Chipper engines, their contexts and jobs, and Blaze unit contexts as plain data (chapter 12). -/

namespace Sys2Proof.Machine

/-- Where a run of a stream's bytes lies: the stream offset of its first byte, its place, and the frame and check
lengths of a framed run (0: not framed). -/
structure Piece where
  start : Nat
  base : Nat
  frame : Nat
  check : Nat
  deriving DecidableEq, Repr

/-- A stream of blocks (R384, R393): mode, offset, block index, dictionary, predecessor (its first 16 bytes; none: no
predecessor), the last 262,144 bytes of its output or input with the latest first, the address at which it goes on,
where its bytes lie with the latest run first, and the stream offset from which the engine has held them. -/
structure Strm where
  mode : Nat
  off : Nat
  block : Nat
  dict : List (List Byte)
  prev : Option (List Byte)
  hist : List Byte
  next : Nat
  pieces : List Piece
  since : Nat
  deriving DecidableEq, Repr

def Strm.fresh (mode : Nat) : Strm := ⟨mode, 0, 0, [], none, [], 0, [], 0⟩

/-- A transfer (R426) whose jobs an engine context runs: the channel, the objects, the source bytes of
the jobs before this one, DST_OFFSET,
the fence, and the source bytes that jobs after this one move. -/
structure Xfer where
  ch : Nat
  srcObj : Nat
  dstObj : Nat
  base : Nat
  dst0 : Nat
  fence : Option Nat
  value : Nat
  left : Nat
  deriving DecidableEq, Repr

/-- A job with the register values in force at GO (R390, R391). `pos` is how many source bytes have been taken, `buf`
the payload bytes taken and not used, `out` the bytes written, `frame` the output bytes of the frame not completed,
`finished` that every byte of it is written. -/
structure EngJob where
  mode : Nat
  src : Nat
  dst : Nat
  srcBytes : Nat
  limit : Nat
  block : Nat
  ends : Bool
  report : Bool
  /-- Attached unit context, and whether it strips. -/
  blaze : Option (Nat × Bool)
  fence : Option Nat
  value : Nat
  /-- The state area, CH_STATE at GO (R390, R393). -/
  area : Nat
  xfer : Option Xfer
  pos : Nat
  buf : List Byte
  out : Nat
  frame : List Byte
  strm : Strm
  /-- The stream goes on after the job. -/
  opened : Bool
  suspended : Bool
  /-- The stream's state is in the state area and is taken up from there. -/
  load : Bool
  finished : Bool
  deriving DecidableEq, Repr

/-- An engine context page (Table 12.7); CH_CTL and the others as written. -/
structure EngCtx where
  src : DWord
  dst : DWord
  state : DWord
  len : DWord
  ctl : DWord
  fence : DWord
  value : DWord
  code : Nat
  detail : Nat
  result : Nat
  outBytes : Nat
  inBytes : Nat
  errAt : Nat
  stream : Option Strm
  job : Option EngJob
  deriving DecidableEq, Repr

def EngCtx.reset : EngCtx := ⟨0, 0, 0, 0, 0x400000, 0, 0, 0, 0, 0, 0, 0, 0, none, none⟩

/-- A weight segment in an engine: the cut, its segment, its stream, source bytes taken, whether it is written and
verified. -/
structure SegRun where
  cut : Nat
  index : Nat
  strm : Strm
  pos : Nat
  finished : Bool
  deriving DecidableEq, Repr

/-- An engine: the segment it runs, the context it last served, and the context whose job it is on. -/
structure Engine where
  seg : Option SegRun
  last : Nat
  cur : Option Nat
  deriving DecidableEq, Repr

def Engine.reset : Engine := ⟨none, 3, none⟩

/-- A unit context page (Table 12.9): BZ_CTL as written, running value, frames, and the engine context it is attached to. -/
structure BzCtx where
  ctl : DWord
  address : DWord
  seq : DWord
  running : DWord
  frames : Nat
  failed : Bool
  attached : Option Nat
  deriving DecidableEq, Repr

def BzCtx.reset : BzCtx := ⟨0x0001000000000008, 0, 0, BitVec.allOnes 64, 0, false, none⟩

end Sys2Proof.Machine
end

