-- ==== Sys2Proof/Machine/Group.lean ====
section
/-! DEFINITION. A shader group as plain data: active mask, program counter, divergence stack, call stack, registers
(R57, R100, R112, Tables 3.2 and 3.3), and the header of its program (Table 3.1). -/

namespace Sys2Proof.Machine

/-- A program header after the checks of R99 (Table 3.1), with the virtual address of the image. -/
structure Prog where
  image : Nat
  kind : Nat
  tensor : Bool
  heritage : Bool
  derivs : Bool
  callsFlag : Bool
  regs : Nat
  preload : Nat
  scratchKib : Nat
  wgX : Nat
  wgY : Nat
  wgZ : Nat
  codeSize : Nat
  entry : Nat
  deriving DecidableEq, Repr

def Prog.empty : Prog := ⟨0, 0, false, false, false, false, 8, 0, 0, 1, 1, 1, 8, 0⟩

/-- An entry of the divergence stack. `recon` tells a reconvergence entry from a path entry; a path entry blocked at
a barrier names the barrier, and `seq` is how many tensor instructions its group had issued at that bar (R116). -/
structure StkEntry where
  recon : Bool
  blocked : Option Nat
  seq : Nat
  pc : Nat
  mask : Mask
  deriving DecidableEq, Repr

/-- Why a group that is resident does not issue. -/
inductive GWait where
  /-- Not waiting. -/
  | none
  /-- In fwait: fence number, target, deadline in timer units (none: no limit), uniform register of the status. -/
  | fence (fence : Nat) (target : Nat) (deadline : Option Nat) (dst : Nat)
  /-- On a miss whose bank holds the fill of another line (R83): the bank and that line. -/
  | bank (b : Nat) (line : Nat)
  deriving DecidableEq, Repr

/-- One fragment lane of a KIND 3 group: the pixel, the primitive of the tile list it belongs to, the samples that it
covers, and whether it is a helper lane that only completes its quad (R216, R217). -/
structure FragLane where
  x : Nat
  y : Nat
  prim : Nat
  cover : Nat
  helper : Bool
  deriving DecidableEq, Repr

/-- What a fragment lane has written by tst and not committed: slot and component to the 32-bit value, keyed
slot × 8 + component (R218). -/
abbrev FragOut := Tbl Word

structure Group where
  /-- The slot holds a group. -/
  live : Bool
  ctx : Nat
  /-- The workgroup slot of the same core. -/
  wg : Nat
  /-- Group number within the workgroup. -/
  idx : Nat
  /-- Async class of R54 (else pass class). -/
  async : Bool
  active : Mask
  exited : Mask
  pc : Nat
  /-- Divergence stack, top first (at most 64). -/
  stack : List StkEntry
  /-- Call stack, top first (at most 16): return address and divergence depth. -/
  calls : List (Nat × Nat)
  /-- Vector registers, keyed register × 32 + lane. -/
  vregs : Tbl Word
  /-- Uniform registers u0 to u63. -/
  uregs : Tbl Word
  /-- Predicates p0 to p6, one mask each. -/
  preds : Tbl Mask
  wait : GWait
  /-- The async group has been promoted (R55). -/
  promoted : Bool
  /-- Tensor instructions issued so far. -/
  tseq : Nat
  /-- Fragment lanes, keyed by lane (KIND 3 only). -/
  frags : Tbl FragLane
  /-- Uncommitted fragment outputs, keyed lane × 1024 + slot × 8 + component (R218). -/
  outs : FragOut
  /-- The model's own name of the group, kept across a save and a restore: 32 × the workgroup's name + its number in it. -/
  gid : Nat
  deriving DecidableEq, Repr

def Group.empty : Group :=
  ⟨false, 0, 0, 0, false, 0, 0, 0, [], [], [], [], [], .none, false, 0, [], [], 0⟩

/-- Vector register `r` of a lane. -/
def Group.vget (g : Group) (r l : Nat) : Word := tget g.vregs (r * 32 + l) 0

/-- Vector register pair of a lane (R101). -/
def Group.vget64 (g : Group) (r l : Nat) : Nat := (g.vget r l).toNat + 2 ^ 32 * (g.vget (r + 1) l).toNat

/-- Uniform register. -/
def Group.uget (g : Group) (r : Nat) : Word := tget g.uregs r 0

/-- Uniform register pair (R101). -/
def Group.uget64 (g : Group) (r : Nat) : Nat := (g.uget r).toNat + 2 ^ 32 * (g.uget (r + 1)).toNat

/-- Predicate mask; p7 is constant 1 (Table 3.2). -/
def Group.pget (g : Group) (p : Nat) : Mask := if p = 7 then BitVec.allOnes 32 else tget g.preds p 0

/-- One vector register written in the lanes of a mask. -/
def Group.vset (g : Group) (r : Nat) (m : Mask) (f : Nat → Word) : Group :=
  { g with vregs := (lanesOf m).foldl (fun t l => tset t (r * 32 + l) (f l)) g.vregs }

/-- A vector register, or a pair for a wide result, written in the lanes of a mask. -/
def Group.vsetN (g : Group) (wide : Bool) (r : Nat) (m : Mask) (f : Nat → Nat) : Group :=
  let g1 := g.vset r m fun l => BitVec.ofNat 32 (f l)
  if wide then g1.vset (r + 1) m fun l => BitVec.ofNat 32 (f l / 2 ^ 32) else g1

/-- A uniform register, or a pair, written. -/
def Group.usetN (g : Group) (wide : Bool) (r : Nat) (x : Nat) : Group :=
  let u1 := tset g.uregs r (BitVec.ofNat 32 x)
  { g with uregs := if wide then tset u1 (r + 1) (BitVec.ofNat 32 (x / 2 ^ 32)) else u1 }

/-- Predicate `p` written in the lanes of a mask; a write to p7 is discarded (Table 3.2). -/
def Group.pset (g : Group) (p : Nat) (m v : Mask) : Group :=
  if p = 7 then g else { g with preds := tset g.preds p ((g.pget p &&& ~~~m) ||| (v &&& m)) }

/-- Lanes that have not exited. -/
def Group.alive (g : Group) : Mask := ~~~g.exited

/-- The lowest lane of a mask, 0 for an empty one. -/
def lowLane (m : Mask) : Nat := (allLanes.find? (inMask m)).getD 0

/-- The lanes in which an instruction acts: active, and the guard holds (R106). -/
def Group.guard (g : Group) (h : Head) : Mask :=
  g.active &&& (if h.pneg then ~~~(g.pget h.pred.toNat) else g.pget h.pred.toNat)

/-- Helper lanes of a fragment group, whose tst, st and atom have no effect (R216). -/
def Group.helpers (g : Group) : Mask := maskOf fun l => (tget? g.frags l).any (·.helper)

/-- ILLEGAL_INSTRUCTION details (Tables 2.8 and 3.16). -/
def dUndefined : Nat := 0x01
def dRegRange : Nat := 0x02
def dDivergence : Nat := 0x03
def dMisaligned : Nat := 0x04
def dHostAtomic : Nat := 0x05
def dTileRange : Nat := 0x06
def dBarrierId : Nat := 0x07
def dFenceAccess : Nat := 0x08
def dHeritageOnly : Nat := 0x09
def dCallStack : Nat := 0x0A
def dBadHeader : Nat := 0x0B
def dTensorUndeclared : Nat := 0x0C
def dBadTarget : Nat := 0x0D
def dTensorShape : Nat := 0x0E

end Sys2Proof.Machine
end

