-- ==== Sys2Proof/Machine/CutState.lean ====
section
/-! DEFINITION. A cut in progress as plain data: the descriptor as the front end read it (Tables 5.1 to 5.4, 5.9,
5.10), what the binners fixed when the pass began (R156, R157), and how far its owners and its weight stream are. -/

namespace Sys2Proof.Machine

/-- A slab descriptor (Table 5.2). -/
structure Slab where
  va : Nat
  rowPitch : Nat
  pixelPitch : Nat
  extX : Nat
  extY : Nat
  resOff : Nat
  channels : Nat
  resRow : Nat
  mode : Nat
  elem : Nat
  exp : Nat
  stride : Nat
  pad : Nat
  flags : Nat
  copyBytes : Nat
  deriving DecidableEq, Repr

/-- A move record (Table 5.4). -/
structure Move where
  fill : Bool
  tileAddr : Nat
  bytes : Nat
  spillOff : Nat
  deriving DecidableEq, Repr

/-- The header's fields (Table 5.1). -/
structure CutHdr where
  flags : Nat
  ins : Nat
  outs : Nat
  outX : Nat
  outY : Nat
  outZ : Nat
  tileX : Nat
  tileY : Nat
  tileZ : Nat
  haloX : Nat
  haloY : Nat
  splitMax : Nat
  stages : Nat
  reserveKib : Nat
  scratchKib : Nat
  partOff : Nat
  partBytes : Nat
  spillBytes : Nat
  partialArea : Nat
  spillArea : Nat
  combine : Nat
  wstream : Nat
  stageTable : Nat
  moveTable : Nat
  deriving DecidableEq, Repr

/-- A segment of a weight stream (Table 5.10). -/
structure Segment where
  src : Nat
  srcBytes : Nat
  dstOff : Nat
  dstBytes : Nat
  deriving DecidableEq, Repr

/-- A weight stream (Table 5.9) and how far it is: whether it has started or stopped, the next segment to hand out,
and the segments that are written and verified. -/
structure Stream where
  fence : Nat
  staging : Nat
  stagingBytes : Nat
  fenceBase : Nat
  segs : List Segment
  started : Bool
  stopped : Bool
  next : Nat
  doneSegs : List Nat
  deriving DecidableEq, Repr

structure CutPass where
  /-- Virtual address of the descriptor. -/
  desc : Nat
  hdr : CutHdr
  inSlabs : List Slab
  outSlabs : List Slab
  stages : List (Prog × List Move)
  combine : Option Prog
  stream : Option Stream
  args : List Word
  heritage : Bool
  /-- Unit order of the map in force when the pass began, its MAP_GENERATION, and S. -/
  order : List Nat
  gen : Nat
  split : Nat
  /-- Segment tiles and combine tiles that each core has finished. -/
  segDone : Tbl Nat
  combDone : Tbl Nat
  /-- The open session it belongs to, and its ordinal there. -/
  session : Option (Nat × Nat)
  /-- Its Ringmark fold is done, or none is due (R171). -/
  folded : Bool
  deriving DecidableEq, Repr

end Sys2Proof.Machine
end

