-- ==== Sys2Proof/Machine/PortState.lean ====
section
/-! DEFINITION. Host ports, Flume channels and the messages the part sends (chapters 13 and 16). -/

namespace Sys2Proof.Machine

/-- PORT_STATE (Table 16.4); `down` is the condition of a port whose link is down. -/
inductive PortSt where
  | down | calling | rollCall | ready | releasing
  deriving DecidableEq, Repr

/-- Standard configuration registers of a port's function as software writes them (Table 16.1, R487, R491): MSI-X Function Mask,
Max Payload Size and Max Read Request Size as PCI Express codes them, LTR, ASPM Control with the L1 substates, ECRC generation
and checking, the Completion Timeout Value, AER's uncorrectable and correctable status, and the two BARs. -/
structure PciRegs where
  functionMask : Bool
  maxPayload : Nat
  maxRead : Nat
  ltr : Bool
  aspm : Nat
  ecrcGen : Bool
  ecrcCheck : Bool
  timeout : Nat
  aerUncor : Word
  aerCor : Word
  bar0 : DWord
  bar2 : DWord
  deriving DecidableEq, Repr

/-- Reset values of PCI Express (PRESUMED, log entry 5). -/
def PciRegs.reset : PciRegs := ⟨false, 0, 2, false, 0, false, false, 0, 0, 0, 0, 0⟩

structure Port where
  st : PortSt
  /-- PORT_STATE as it reads (1 to 4), which keeps its value while the link is down. -/
  shown : Nat
  /-- The link has been lost and is not up again (R374). -/
  lost : Bool
  busMaster : Bool
  atomicEn : Bool
  /-- D3hot (else D0). -/
  d3 : Bool
  rcBind : Word
  rcPasid : Word
  rcResult : Nat
  rcTenant : Nat
  bound : Bool
  rcPending : Bool
  /-- A BIND (false) or RELEASE (true) that waits for the end of a control gap (R496). -/
  rcWait : Option Bool
  /-- R451 holds: from the acknowledgement of a Night step until the link first comes up after the wake. -/
  night : Bool
  /-- A wake has come since, and the link has not come up yet (R451). -/
  grace : Bool
  winLo : Word
  winHi : Word
  manager : Option Nat
  /-- MSI-X: vectors whose mask bit is clear, pending vectors, MSI-X Enable. -/
  msixOpen : List Nat
  msixPend : List Nat
  msixEn : Bool
  /-- Bytes of the MSI-X table written since the link came up. -/
  msixTab : Mem
  pci : PciRegs
  deriving DecidableEq, Repr

/-- Reset values of Table 16.3; MSI-X vectors are masked and MSI-X, bus mastering and AtomicOp requests off (PCI
Express, PRESUMED, log entry 5). -/
def Port.reset : Port :=
  ⟨.down, 1, false, false, false, false, 0, 0, 0, 0, false, false, none, false, false, 0, 0, none, [], [], false, [], .reset⟩

def Port.up (p : Port) : Bool := p.st != .down

/-- A message on an unmasked vector can leave (R453, R488). -/
def Port.sends (p : Port) : Bool := p.up && p.msixEn && !p.pci.functionMask && p.busMaster && !p.d3

/-- WINDOW_EN (R490). -/
def Port.winEn (p : Port) : Bool := p.up && p.busMaster && p.winLo.getLsbD 0

/-- WINDOW_BASE (R490, Table 16.3). -/
def Port.winBase (p : Port) : Nat := p.winHi.toNat * 2 ^ 32 + p.winLo.toNat / 2 ^ 30 * 2 ^ 30

/-- A Flume request that has been answered ACCEPTED and not finally. -/
structure Accepted where
  opcode : Nat
  seq : Nat
  tag : Nat
  /-- The slot that the request acts on (tenant, context, queue, object, graph, transfer or bank). -/
  arg : Nat
  deriving DecidableEq, Repr

/-- A Flume channel (Table 13.2, R414 to R417); channel 16 is the I3C channel. -/
structure Channel where
  /-- Last accepted doorbell value, REQ_READ. -/
  last : Nat
  reqRead : Nat
  /-- Request ring, 16 KiB. -/
  requests : Mem
  replyWrite : Nat
  readIndex : Nat
  /-- Reply ring, 16 KiB. -/
  replies : Mem
  eventSeq : Nat
  nextSeq : Nat
  vector : Nat
  notify : Bool
  abortBusy : Bool
  aborts : Nat
  mask : Nat
  accepted : List Accepted
  /-- Finals of a GONE tenant that wait for its rebind (R419), and requests that an abort abandoned (R417). -/
  held : List Accepted
  abandoned : List Accepted
  deriving DecidableEq, Repr

def Channel.reset : Channel := ⟨0, 0, [], 0, 0, [], 0, 0, 0, false, false, 0, 0, [], [], []⟩

/-- The I3C target (R501 to R506). -/
structure I3c where
  /-- Dynamic address, when one is assigned. -/
  addr : Option Nat
  /-- Register address pointer of the last private write. -/
  ptr : Nat
  mrl : Nat
  mwl : Nat
  ibiEn : Bool
  /-- Pending in-band interrupts: mandatory byte and payload, at most one of each kind. -/
  ibiPend : List (Nat × List Byte)
  /-- CMD_STATUS (Table 16.9). -/
  cmdStatus : Word
  /-- The tenant whose reset by RESET_TENANT may still run (BUSY). -/
  running : Option Nat
  /-- Hot-Join is enabled (ENEC, DISEC). -/
  hotJoin : Bool
  /-- Ignoring the bus after an HDR mode entry until the exit pattern. -/
  hdr : Bool
  /-- Reset action that RSTACT armed (R501). -/
  rstAct : Nat
  deriving DecidableEq, Repr

def I3c.reset : I3c := ⟨none, 0, 256, 260, false, [], 0, none, true, false, 0⟩

/-- The instruction that the JTAG TAP has selected (Table 16.14). -/
inductive TapInstr where
  | idcode | bypass | extest | sample | clamp | highz
  | debug (code : Nat)
  deriving DecidableEq, Repr

/-- What the part has sent to the outside, in order. -/
inductive Out where
  /-- An MSI-X message of a port. -/
  | msix (port vector : Nat)
  /-- An in-band interrupt of the I3C target: its data bytes. -/
  | ibi (data : List Byte)
  /-- Bytes that the I3C target returned to a CCC. -/
  | ccc (data : List Byte)
  /-- What a read through a port returned: the aligned register, of which the byte enables of the read pick. -/
  | read (port : Nat) (data : BitVec 64)
  /-- A write that went to a host with its poisoned bit set: port and bus address (Table 15.2). -/
  | poisonedWrite (port addr : Nat)
  /-- A completion with Unsupported Request (R489). -/
  | unsupported (port : Nat)
  /-- Bytes that the I3C target returned to a private read (R503), and a Hot-Join request (Table 16.7). -/
  | sideband (data : List Byte)
  | hotJoin
  /-- What the debug access port returned (R482), and a boundary-scan read of the IDCODE register (R510). -/
  | debug (data : BitVec 64)
  | idcode (data : BitVec 32)
  deriving DecidableEq, Repr

end Sys2Proof.Machine
end

