-- ==== Sys2Proof/Machine/PowerState.lean ====
section
/-! DEFINITION. Power domains, stand dividers, the governor, the thermal monitor, Dusk and Night (chapters 14 and 17). -/

namespace Sys2Proof.Machine

/-- A stand (R436, Table 14.13): governor divider, state of the ladder, its sensor's signals, steps since the last
DROOP_STEP delivery and the device timer of that delivery. -/
structure Stand where
  gov : Nat
  ladder : Nat
  trip : Bool
  deep : Bool
  steps : Nat
  delivered : Option Nat
  deriving DecidableEq, Repr

def Stand.reset : Stand := ⟨6, 6, false, false, 0, none⟩

/-- The divider in force (R436). -/
def Stand.divider (x : Stand) : Nat := max x.gov x.ladder

/-- The unit number of an agent. -/
def agentUnit : DuskAgent → Nat
  | .queues => 0xB1
  | .flume => 0xB0
  | .digest => 0xB0
  | .core n => n
  | .array n => 0x30 + n
  | .binner n => 0x9C + n
  | .chipper n => 0x80 + n
  | .slice n => 0x60 + n
  | .prism n => 0x90 + n
  | .output n => 0x94 + n
  | .port n => 0x98 + n
  | .debug => 0xBE

/-- How an agent of a step stands: asked, acknowledged, or to be asked again. -/
inductive AgentSt where
  | asked | acked | delayed
  deriving DecidableEq, Repr

/-- A Dusk step (R447, R448): kind (1 idle gating, 2 output, 3 Night), the units whose domains it switches off, the phase
of a Night step, its agents, the unit that last delayed, the device timer at its start, and whether it commits. -/
structure DuskStep where
  kind : Nat
  units : List Nat
  phase : Nat
  agents : List (DuskAgent × AgentSt)
  delayer : Nat
  start : Nat
  commit : Bool
  deriving DecidableEq, Repr

/-- Awake, in the commit of a Night step, in Night. -/
inductive SleepSt where
  | awake | commit | night
  deriving DecidableEq, Repr

structure Power where
  /-- Units (Table 1.2) whose power domain is on. -/
  on : List Nat
  /-- Units whose pads are held (R458), and those of them held since a Night. -/
  padHold : List Nat
  nightPads : List Nat
  pll : Bool
  corePwr : Bool
  /-- Device timer when CORE_PWR_EN last changed since reset (R527). -/
  coreAt : Option Nat
  stands : Tbl Stand
  /-- The fabric sensor's signals (R438). -/
  fabTrip : Bool
  fabDeep : Bool
  duty : Nat
  /-- Standing envelope request of the I3C channel (R421). -/
  i3cEnvelope : Option Nat
  /-- Working envelope in 0.5 W units, thermal reduction, control periods at or below the lower limit (R440, R442). -/
  work : Nat
  drop : Nat
  cool : Nat
  limit : Nat
  tj : Int
  p1 : Nat
  p100 : Nat
  /-- The thermal monitor (R529): the hardware floor, samples in a row at or above its level and the shutdown level,
  samples at or below the release level, THERMTRIP_N low. -/
  floor : Bool
  hotFloor : Nat
  hotShut : Nat
  coolFloor : Nat
  tripped : Bool
  /-- Dusk steps in progress, by their leading unit; the Night step has the key 0x100. -/
  dusk : Tbl DuskStep
  /-- DUSK_LAST: kind, outcome, reason, unit. -/
  last : Nat × Nat × Nat × Nat
  sleep : SleepSt
  wake : Bool
  woken : Bool
  dataLost : Bool
  forced : Bool
  /-- A debug session is attached (Table 14.7). -/
  debug : Bool
  deriving DecidableEq, Repr

def Power.reset : Power :=
  { on := [], padHold := [], nightPads := [], pll := false, corePwr := true, coreAt := none, stands := [], fabTrip := false, fabDeep := false
    duty := 64, i3cEnvelope := none, work := 56, drop := 0, cool := 0, limit := 0, tj := 0, p1 := 0, p100 := 0, floor := false, hotFloor := 0
    hotShut := 0, coolFloor := 0, tripped := false, dusk := [], last := (0, 0, 0, 0), sleep := .awake, wake := false
    woken := false, dataLost := false, forced := false, debug := false }

end Sys2Proof.Machine
end

