-- ==== Sys2Proof/Machine/PrismState.lean ====
section
/-! DEFINITION. Prism, the Beacon layer, the outputs and the composition service as plain data (chapter 8, R425). -/

namespace Sys2Proof.Machine

/-- The registers of a layer (Tables 8.13, 8.15 to 8.18, LAYER_ACQ_VALUE), as written. -/
structure LayerRegs where
  ctl : DWord
  src : DWord
  size : DWord
  pos : DWord
  sync : DWord
  acq : DWord
  deriving DecidableEq, Repr

def LayerRegs.reset : LayerRegs := ⟨0xFFFF000000000000, 0, 0, 0, 0, 0⟩

/-- A layer: pending and active copies (R245). -/
structure Layer where
  pend : LayerRegs
  act : LayerRegs
  deriving DecidableEq, Repr

def Layer.reset : Layer := ⟨.reset, .reset⟩

/-- A tenant's flip page (Table 8.20); `last` by output holds TAG, OUTCOME and FRAME. -/
structure FlipPage where
  doneFence : DWord
  doneValue : DWord
  tag : Nat
  detail : Nat
  status : Nat
  last : Tbl (Nat × Nat × Nat)
  deriving DecidableEq, Repr

def FlipPage.reset : FlipPage := ⟨0, 0, 0, 0, 0, []⟩

/-- An armed flip set (R248, R255): its number, tenant, output, TAG, completion fence with its value, the snapshots of
its layers, and whether it is READY and since when. -/
structure FlipSet where
  id : Nat
  tenant : Nat
  output : Nat
  tag : Nat
  done : Option Nat
  value : DWord
  snap : Tbl LayerRegs
  ready : Bool
  readyAt : Nat
  deriving DecidableEq, Repr

/-- The Beacon registers and palette of an output (Table 8.26). -/
structure BeaconRegs where
  ctl : DWord
  region : DWord
  geom : DWord
  palette : Tbl Word
  deriving DecidableEq, Repr

def BeaconRegs.reset : BeaconRegs := ⟨0, 0, 0, []⟩

/-- The record of Table 8.4. -/
structure BeaconRec where
  frame : Nat
  source : Nat
  output : Nat
  flags : Nat
  deriving DecidableEq, Repr

/-- SOURCE of OUT_STATUS (Table 8.23). -/
inductive PixSrc where
  | off | compose | hold | keeper
  deriving DecidableEq, Repr

/-- The mode that an output runs: timing, pixel clock and the link fields of OUT_CTL. -/
structure VideoMode where
  h : DWord
  v : DWord
  clk : DWord
  ctl : DWord
  deriving DecidableEq, Repr

def VideoMode.none : VideoMode := ⟨0, 0, 0, 0⟩

structure Output where
  /-- Registers as written (Tables 8.21, 8.22, 8.25). -/
  ctl : DWord
  timH : DWord
  timV : DWord
  clk : DWord
  bg : DWord
  lead : DWord
  notify : DWord
  wbCtl : DWord
  wbDst : DWord
  wbSync : DWord
  aux : DWord
  aux0 : DWord
  aux1 : DWord
  /-- Background and lead time in force (R258), hold colour. -/
  bgAct : DWord
  leadAct : DWord
  holdColour : DWord
  src : PixSrc
  frame : Nat
  /-- The engine was reset while the keeper took over (Table 8.5). -/
  engineReset : Bool
  /-- The next flip deadline takes the output to KEEPER, or, once Ranger has released the keeper, out of it (R269). -/
  toKeeper : Bool
  released : Bool
  mode : VideoMode
  /-- The configured timing (R277). -/
  confMode : VideoMode
  /-- The panel declaration of a DSI output (R273). -/
  panel : List Byte
  iface : Nat
  policy : Nat
  /-- ENABLE was set while the output's pads are held (R458). -/
  waitEnable : Bool
  /-- The output owner has performed a mode set (R277). -/
  ownerMode : Bool
  busy : Bool
  err : Nat
  linkUp : Bool
  sink : Bool
  sinkGen : Nat
  sinkFlags : Nat
  sinkBlocks : Nat
  /-- The sink window, by offset from 0x1000. -/
  window : Mem
  auxBusy : Bool
  auxResult : Nat
  /-- Pixels of the frame that the keeper supplied (R271). -/
  under : List (Nat × Nat)
  /-- The lead windows that are open, earliest first: the device timers of their flip deadlines (R256). -/
  leadDues : List Nat
  pend : BeaconRegs
  act : BeaconRegs
  commit : Bool
  commitErr : Nat
  record : BeaconRec
  deriving DecidableEq, Repr

/-- Reset values of Tables 8.21 to 8.26. -/
def Output.reset : Output :=
  { ctl := 0, timH := 0, timV := 0, clk := 0, bg := 0, lead := 0x5DC, notify := 0, wbCtl := 0, wbDst := 0, wbSync := 0
    aux := 0, aux0 := 0, aux1 := 0, bgAct := 0, leadAct := 0x5DC, holdColour := 0, src := .off, frame := 0
    engineReset := false, toKeeper := false, released := false, mode := .none, confMode := .none, panel := [], iface := 0, policy := 0, waitEnable := false, ownerMode := false, busy := false, err := 0
    linkUp := false, sink := false, sinkGen := 0, sinkFlags := 0, sinkBlocks := 0, window := [], auxBusy := false
    auxResult := 0, under := [], leadDues := [], pend := .reset, act := .reset, commit := false, commitErr := 0
    record := ⟨0, 0, 0, 0⟩ }

/-- The composition service on an output (R425): tenant, layers, the table, the completion fence with the value of its
next signal, the generation last applied by layer. -/
structure Compose where
  tenant : Nat
  mask : Nat
  obj : Nat
  gen : Nat
  off : Nat
  done : Option Nat
  value : Nat
  applied : Tbl Nat
  deriving DecidableEq, Repr

structure Prism where
  outs : Tbl Output
  /-- Layers, keyed output × 16 + layer, and who holds them and the outputs. -/
  layers : Tbl Layer
  layerGrants : Tbl Nat
  outGrants : Tbl Nat
  pages : Tbl FlipPage
  sets : List FlipSet
  nextSet : Nat
  /-- Active layers to be disabled at their output's next flip deadline (R257). -/
  drop : List Nat
  /-- Beacon store: partition 0 from 0, partition 1 from 2^20. -/
  store : Mem
  /-- Partitions whose BEACON_LOCK is set. -/
  locks : List Nat
  /-- Beacon store words (output × 2^18 + byte address >> 3) whose pixels use palette entry 0 in the output's frame
  (Table 15.1). -/
  badStore : List Nat
  /-- Composition services, keyed output × 16 + tenant. -/
  compose : Tbl Compose
  deriving DecidableEq, Repr

def Prism.reset : Prism := ⟨[], [], [], [], [], [], 0, [], [], [], [], []⟩

end Sys2Proof.Machine
end

