-- ==== Sys2Proof/Machine/RangerState.lean ====
section
/-! DEFINITION. What Ranger holds (chapter 13): its own state, restarts, and the activation under way. -/

namespace Sys2Proof.Machine

/-- STATE of RANGER_STATUS (Table 13.1). -/
inductive RangerSt where
  | boot | run | switch | probation | restarting | stopped
  deriving DecidableEq, Repr

/-- A run of a graph (R423): its request's fields, whether its first commands are placed, bytes written, steps done,
whether a cancel is asked for, and, while the close of its session runs, how it ends. -/
structure GraphRun where
  ringmark : Bool
  fence : Option Nat
  value : Nat
  maxSteps : Nat
  inVa : Nat
  inBytes : Nat
  outVa : Nat
  outBytes : Nat
  seed : Nat
  record : Nat
  started : Bool
  closing : Option Nat
  written : Nat
  steps : Nat
  cancel : Bool
  deriving DecidableEq, Repr

/-- A graph (R422): its tenant, context, service queue and package; `loaded` once its load has ended. -/
structure Graph where
  tenant : Nat
  ctx : Nat
  queue : Nat
  va : Nat
  bytes : Nat
  loaded : Bool
  run : Option GraphRun
  deriving DecidableEq, Repr

/-- An image being staged (R427): the object it was read from, its bytes, and the bank that it goes to. -/
structure StageRun where
  obj : Nat
  image : List Byte
  bank : Nat
  deriving DecidableEq, Repr

/-- Where an activation stands (R428 to R430). -/
inductive ActPhase where
  | copy | wait | switch | probation | back
  deriving DecidableEq, Repr

/-- A live activation (R428): the bank it activates and the one that was active, the request's opcode and channel, its
flags, the configuration in force before, whether IMAGE_COMMIT came, and, on the way back, the reason. -/
structure Activation where
  phase : ActPhase
  bank : Nat
  prev : Nat
  opcode : Nat
  by_ : Nat
  commitReq : Bool
  before : Cfg
  committed : Bool
  reason : Nat
  /-- IMAGE_ROLLBACK during PROBATION: its own final reply is due when the previous image runs again. -/
  rollback : Bool
  /-- Device timer at the start of the health window (R429). -/
  since : Nat
  deriving DecidableEq, Repr

/-- A final reply that waits for Kreog to run again (R407, R408): channel, sequence number, status, detail, tag and
payload. -/
structure LateReply where
  ch : Nat
  seq : Nat
  status : Nat
  detail : Nat
  tag : Nat
  payload : List Byte
  deriving DecidableEq, Repr

structure Ranger where
  act : Option Activation
  /-- From a Night commit to the wake Kreog serves nothing (R450, R455). -/
  asleep : Bool
  late : List LateReply
  /-- DEBUG_GRANTED (Table 13.15). -/
  debug : Bool
  graphs : Tbl Graph
  stage : Option StageRun
  st : RangerSt
  restarts : Nat
  lastCause : Nat
  /-- Device timer of the latest restart triggers, newest first (R409). -/
  triggers : List Nat
  /-- The Flume channel that was served last (R413). -/
  turn : Nat
  /-- The part has gone back to a previous image since its reset (R430). -/
  wentBack : Bool
  deriving DecidableEq, Repr

def Ranger.reset : Ranger := ⟨none, false, [], false, [], none, .boot, 0, 0, [], 16, false⟩

/-- Kreog runs: outside a control gap (R406, R407) and outside Night. -/
def Ranger.up (r : Ranger) : Bool := (r.st == .run || r.st == .probation) && !r.asleep

end Sys2Proof.Machine
end

