-- ==== Sys2Proof/Machine/RenderState.lean ====
section
/-! DEFINITION. A render pass in progress as plain data: the descriptor, draws and states as the front end read them
(Tables 7.1 to 7.4), the tile lists as the binners hold them (R212, R215), and how far the owners are. -/

namespace Sys2Proof.Machine

/-- An attachment descriptor (Table 7.2), with its kind: 0 colour, 1 depth, 2 stencil. -/
structure Attach where
  kind : Nat
  loadVa : Nat
  storeVa : Nat
  resolveVa : Nat
  pitch : Nat
  resolvePitch : Nat
  format : Nat
  loadOp : Nat
  storeOp : Nat
  resolveMode : Nat
  clear : List Byte
  deriving DecidableEq, Repr

/-- A draw record (Table 7.3) with its program headers. -/
structure Draw where
  pos : Prog
  attr : Option Prog
  frag : Prog
  indexVa : Nat
  positions : Nat
  attributes : Nat
  first : Nat
  count : Nat
  prims : Nat
  topology : Nat
  indexSize : Nat
  attrCount : Nat
  state : Nat
  args : Nat
  deriving DecidableEq, Repr

/-- Header fields (Table 7.1). -/
structure PassHdr where
  flags : Nat
  shape : Nat
  samples : Nat
  width : Nat
  height : Nat
  listArea : Nat
  listBytes : Nat
  flushArea : Nat
  viewport : List Word
  depthRange : List Word
  scissor : List Nat
  deriving DecidableEq, Repr

/-- Where a draw stands: position groups not started yet, then running, binning, attribute groups, finished. -/
inductive DrawPhase where
  | pos | bin | attr | done
  deriving DecidableEq, Repr

/-- A tile list of one binner: the address of its open chunk, the entries in that chunk, and all entries in append
order. -/
structure TileList where
  chunk : Nat
  used : Nat
  entries : List Nat
  deriving DecidableEq, Repr

structure RenderPass where
  desc : Nat
  hdr : PassHdr
  attaches : List Attach
  draws : List Draw
  states : List (List Byte)
  order : List Nat
  gen : Nat
  /-- Position groups: the draw being placed, the next group of it, and groups that have exited, by draw. -/
  posDraw : Nat
  posNext : Nat
  posDone : Tbl Nat
  /-- Binning: the draw and the primitive of it that come next, and the position of that primitive in the pass. -/
  binDraw : Nat
  binPrim : Nat
  /-- Attribute groups: by draw, the groups of 32 vertices due, in ascending order; those placed; those that have exited. -/
  attrDue : Tbl (List Nat)
  attrReady : List Nat
  attrPlaced : Tbl Nat
  attrDone : Tbl Nat
  /-- Tile lists, keyed tile × 2 + binner, and the next free chunk of the pool. -/
  lists : Tbl TileList
  pool : Nat
  /-- A flush round is in progress (R215), the rounds so far, the tiles that have a flush block. -/
  flushing : Bool
  rounds : Nat
  flushed : List Nat
  /-- Tile shading has begun (R209). -/
  shading : Bool
  /-- Tiles finished in the round in progress. -/
  finished : List Nat
  deriving DecidableEq, Repr

end Sys2Proof.Machine
end

