-- ==== Sys2Proof/Machine/RingState.lean ====
section
/-! DEFINITION. Ringmark sessions and the digest engine as plain data (chapter 6, R199, R203). -/

namespace Sys2Proof.Machine

/-- An item of a session (Table 6.2). -/
structure RingItem where
  kind : Nat
  length : Nat
  va : Nat
  deriving DecidableEq, Repr

/-- An entry of the map list (R192): CORE_MAP, TENSOR_MAP, ordinal of the first cut. -/
structure MapEntry where
  core : Nat
  tensor : Nat
  first : Nat
  deriving DecidableEq, Repr

/-- An open session. `leaves` are the chunk digests of the items, keyed item × 4,096 + chunk; `foldLeaves` those of the
cuts being folded, keyed by `foldKey`. -/
structure Session where
  queue : Nat
  ctx : Nat
  desc : Nat
  heritage : Bool
  record : Nat
  version : Nat
  build : Nat
  items : List RingItem
  leaves : Tbl (List Byte)
  maps : List MapEntry
  cuts : Nat
  restarts : Nat
  /-- Folds: ordinal, slab, slab digest. -/
  folds : List (Nat × Nat × List Byte)
  foldedCuts : Nat
  hashed : Nat
  foldLeaves : Tbl (List Byte)
  deriving DecidableEq, Repr

/-- A chunk of a slab of a cut, by the cut's command number: folds of several cuts may be under way after a map change. -/
def foldKey (cmd slab chunk : Nat) : Nat := (cmd * 8 + slab) * 2 ^ 32 + chunk

/-- A chunk in a lane of the digest engine: session, the cut it folds (none: an item of the open), item or slab,
chunk. -/
structure ChunkJob where
  session : Nat
  cut : Option Nat
  item : Nat
  chunk : Nat
  deriving DecidableEq, Repr

end Sys2Proof.Machine
end

