-- ==== Sys2Proof/Machine/Flags.lean ====
section
/-! DEFINITION. Predicates: the compare conditions of Table 3.8, the votes of R535 and the predicate table of plop. -/

namespace Sys2Proof.Machine

/-- The order of two integer operands of width `w`, signed or not (R109). -/
def intOrder (signed : Bool) (w a b : Nat) : Ordering :=
  if signed then compare (toSigned w a) (toSigned w b) else compare (a % 2 ^ w) (b % 2 ^ w)

/-- The isetp condition of Table 3.8. -/
def isetpHolds (mod : Nat) (signed : Bool) (w a b : Nat) : Bool := condHolds mod (some (intOrder signed w a b))

/-- The fsetp condition of Table 3.8 on two FP32 codes. -/
def fsetpHolds (mod a b : Nat) : Bool := condHolds mod ((Fmt.f32.decode a).cmp (Fmt.f32.decode b))

/-- Bit (a × 2 + b) of the truth table that plop carries in MOD. -/
def plopHolds (mod : Nat) (a b : Bool) : Bool := bitOf mod (b2n a * 2 + b2n b)

end Sys2Proof.Machine
end

