-- ==== Sys2Proof/Machine/Operands.lean ====
section
/-! DEFINITION. The operands of format R (R101, R103 to R107): which fields an operation uses, when the encoding is
defined, which register numbers it names, and what each source reads. -/

namespace Sys2Proof.Machine

/-- How an operation uses a source field. -/
inductive SrcUse where
  /-- Not used: field and kind must be 0. -/
  | none
  /-- A register or an immediate, a 64-bit one when `wide`. -/
  | reg (wide : Bool)
  /-- A predicate number. -/
  | pred
  /-- A literal field that a check of the operation reads. -/
  | lit
  deriving DecidableEq, Repr

/-- How an operation uses DST. -/
inductive DstUse where
  | reg (wide : Bool)
  | pred
  deriving DecidableEq, Repr

/-- The operand shape of a format R operation. -/
structure RShape where
  a : SrcUse
  b : SrcUse
  c : SrcUse
  d : DstUse
  deriving DecidableEq, Repr

/-- A source field is defined for its use (R101, R103, R104, R105). -/
def srcOk (u : SrcUse) (dk : Bool) (k : BitVec 2) (r : BitVec 8) : Bool :=
  match u with
  | .none => k == 0 && r == 0
  | .lit => k == 0
  | .pred => k == 0 && decide (r.toNat < 8)
  | .reg wide =>
    if k = 0 then !dk && (!wide || r.toNat % 2 == 0)
    else if k = 1 then decide (r.toNat < 64) && (!wide || r.toNat % 2 == 0)
    else if k = 2 then r == 0
    else false

/-- 1 when the source is an immediate. -/
def immCount (u : SrcUse) (k : BitVec 2) : Nat :=
  match u with
  | .reg _ => if k = 2 then 1 else 0
  | _ => 0

/-- Whether the source is a 64-bit immediate. -/
def immWide (u : SrcUse) (k : BitVec 2) : Bool :=
  match u with
  | .reg w => w && k == 2
  | _ => false

/-- The immediates are those that the extension word can carry (R104). The upper half of the extension word beside
one 32-bit immediate is unused and must be 0 (DEDUCED, log entry 9). -/
def immOk (sh : RShape) (e : EncR) : Bool :=
  let n := immCount sh.a e.ka + immCount sh.b e.kb + immCount sh.c e.kc
  let w := immWide sh.a e.ka || immWide sh.b e.kb || immWide sh.c e.kc
  if n = 0 then !e.h.long
  else if w then e.h.long && n == 1
  else e.h.long && (n == 2 || (n == 1 && e.ext.toNat / 2 ^ 32 == 0))

/-- DST is defined for its use. -/
def dstOk (u : DstUse) (e : EncR) : Bool :=
  match u with
  | .pred => !e.dk && decide (e.dst.toNat < 8)
  | .reg wide => (!wide || e.dst.toNat % 2 == 0) && (!e.dk || decide (e.dst.toNat < 64))

/-- The encoding of a format R word is defined, the operation's own TYPE and MOD rules apart (R103). -/
def encROk (sh : RShape) (e : EncR) : Bool :=
  !e.h.rsv48 && !e.rsv32 && srcOk sh.a e.dk e.ka e.a && srcOk sh.b e.dk e.kb e.b && srcOk sh.c e.dk e.kc e.c
    && dstOk sh.d e && immOk sh e

/-- The vector register numbers that a source names. -/
def srcRegs (u : SrcUse) (k : BitVec 2) (r : BitVec 8) : List Nat :=
  match u with
  | .reg wide => if k = 0 then (if wide then [r.toNat, r.toNat + 1] else [r.toNat]) else []
  | _ => []

/-- Every vector register number that a format R word names is below the program's count (R47, R101). -/
def regROk (sh : RShape) (e : EncR) (regs : Nat) : Bool :=
  let d := match sh.d with
    | .reg wide => if e.dk then [] else if wide then [e.dst.toNat, e.dst.toNat + 1] else [e.dst.toNat]
    | .pred => []
  (srcRegs sh.a e.ka e.a ++ srcRegs sh.b e.kb e.b ++ srcRegs sh.c e.kc e.c ++ d).all fun r => decide (r < regs)

/-- The value that source number `i` (0 for A, 1 for B, 2 for C) takes from the extension word (R104). -/
def immOf (sh : RShape) (e : EncR) (i : Nat) : Nat :=
  if immWide sh.a e.ka || immWide sh.b e.kb || immWide sh.c e.kc then e.ext.toNat
  else
    let before := (if i = 0 then 0 else immCount sh.a e.ka) + (if i ≤ 1 then 0 else immCount sh.b e.kb)
    if before = 0 then e.ext.toNat % 2 ^ 32 else e.ext.toNat / 2 ^ 32

/-- The value of a source in a lane. -/
def srcVal (g : Group) (u : SrcUse) (k : BitVec 2) (r : BitVec 8) (imm l : Nat) : Nat :=
  match u with
  | .reg wide =>
    if k = 0 then (if wide then g.vget64 r.toNat l else (g.vget r.toNat l).toNat)
    else if k = 1 then (if wide then g.uget64 r.toNat else (g.uget r.toNat).toNat)
    else imm
  | .pred => b2n (inMask (g.pget r.toNat) l)
  | .lit => r.toNat
  | .none => 0

/-- Sources A, B and C of a format R word in a lane. -/
def valA (sh : RShape) (e : EncR) (g : Group) (l : Nat) : Nat := srcVal g sh.a e.ka e.a (immOf sh e 0) l
def valB (sh : RShape) (e : EncR) (g : Group) (l : Nat) : Nat := srcVal g sh.b e.kb e.b (immOf sh e 1) l
def valC (sh : RShape) (e : EncR) (g : Group) (l : Nat) : Nat := srcVal g sh.c e.kc e.c (immOf sh e 2) l

/-- The size of an instruction in bytes (R102). -/
def Head.size (h : Head) : Nat := if h.long then 16 else 8

/-- A format R result written: per lane to a vector register, or once to a uniform register from the lowest lane
that acts (R105, R107). -/
def writeR (sh : RShape) (e : EncR) (m : Mask) (f : Nat → Nat) (g : Group) : Group :=
  match sh.d with
  | .pred => g.pset e.dst.toNat m (maskOf fun l => f l != 0)
  | .reg wide =>
    if e.dk then (if m = 0 then g else g.usetN wide e.dst.toNat (f (lowLane m)))
    else g.vsetN wide e.dst.toNat m f

/-- The checks common to format R: a defined encoding, then the register range; the fault detail when one fails. -/
def checkR (sh : RShape) (ok : Bool) (e : EncR) (p : Prog) : Option Nat :=
  if !(encROk sh e && ok) then some dUndefined
  else if !(regROk sh e p.regs) then some dRegRange
  else none

/-- A register-to-register operation: the group after it, with the program counter advanced. -/
def runR (sh : RShape) (e : EncR) (f : Nat → Nat → Nat → Nat) (g : Group) : Group :=
  let g1 := writeR sh e (g.guard e.h) (fun l => f (valA sh e g l) (valB sh e g l) (valC sh e g l)) g
  { g1 with pc := g.pc + Head.size e.h }

end Sys2Proof.Machine
end

