-- ==== Sys2Proof/Machine/Alu.lean ====
section
/-! DEFINITION. What the integer, FP32, packed, transcendental, conversion and lane operations compute (chapter 3,
"Operation details"; R109, R119, R133 to R135, R146, R533 to R535), each as a shape, a check and a function. -/

namespace Sys2Proof.Machine

/-- TYPE is u64 or i64. -/
def wideType (t : BitVec 4) : Bool := t == 2 || t == 3
/-- TYPE is i32 or i64. -/
def signedType (t : BitVec 4) : Bool := t == 1 || t == 3
/-- The operand width of an integer TYPE. -/
def typeWidth (t : BitVec 4) : Nat := if wideType t then 64 else 32

/-- A format R operation: its CLASS and OP (Table 3.6), its operand shape, its own rules on TYPE, MOD and control fields,
and its function of the source values of one lane. -/
structure ROp where
  cls : Nat
  op : Nat
  shape : EncR → RShape
  ok : EncR → Bool
  fn : EncR → Nat → Nat → Nat → Nat

/-- Integer TYPE codes (chapter 3, Integer) and MOD 0. -/
def intOk (e : EncR) : Bool := decide (e.type.toNat < 4) && e.mod == 0

/-- Integer operations with sources A and B of the width of TYPE. -/
def int2 (n : Nat) (f : EncR → Nat → Nat → Nat) : ROp where
  cls := 1
  op := n
  shape e := let w := wideType e.type; ⟨.reg w, .reg w, .none, .reg w⟩
  ok := intOk
  fn e a b _ := f e a b

/-- Integer operations with source A alone. -/
def int1 (n : Nat) (f : EncR → Nat → Nat) : ROp where
  cls := 1
  op := n
  shape e := let w := wideType e.type; ⟨.reg w, .none, .none, .reg w⟩
  ok := intOk
  fn e a _ _ := f e a

def opIadd : ROp := int2 0 fun e a b => (a + b) % 2 ^ typeWidth e.type
def opIsub : ROp := int2 1 fun e a b => (a + 2 ^ typeWidth e.type - b) % 2 ^ typeWidth e.type
def opImul : ROp := int2 2 fun e a b => (a * b) % 2 ^ typeWidth e.type
/-- The upper half of the full product, signed by TYPE. -/
def opImulhi : ROp := int2 3 fun e a b =>
  let w := typeWidth e.type
  if signedType e.type then ofSigned w ((toSigned w a * toSigned w b) / (2 ^ w : Nat)) else a * b / 2 ^ w
def opImad : ROp where
  cls := 1
  op := 4
  shape e := let w := wideType e.type; ⟨.reg w, .reg w, .reg w, .reg w⟩
  ok := intOk
  fn e a b c := (a * b + c) % 2 ^ typeWidth e.type
def opImin : ROp := int2 5 fun e a b => if intOrder (signedType e.type) (typeWidth e.type) a b = .gt then b else a
def opImax : ROp := int2 6 fun e a b => if intOrder (signedType e.type) (typeWidth e.type) a b = .lt then b else a
def opAnd : ROp := int2 7 fun _ a b => a &&& b
def opOr : ROp := int2 8 fun _ a b => a ||| b
def opXor : ROp := int2 9 fun _ a b => a ^^^ b
def opNot : ROp := int1 10 fun e a => 2 ^ typeWidth e.type - 1 - a
def opShl : ROp := int2 11 fun e a b => (a <<< (b % typeWidth e.type)) % 2 ^ typeWidth e.type
def opShr : ROp := int2 12 fun e a b =>
  let w := typeWidth e.type
  if signedType e.type then ofSigned w (toSigned w a / (2 ^ (b % w) : Nat)) else a >>> (b % w)
def opPopc : ROp := int1 13 fun e a => popCount (typeWidth e.type) a
def opClz : ROp := int1 14 fun e a => leadZeros (typeWidth e.type) a

/-- bfe (R533): offset C[7:0], width C[15:8]. -/
def bfeVal (signed : Bool) (n a c : Nat) : Nat :=
  let o := c % 256
  let w := c / 256 % 256
  if w = 0 then 0
  else
    let x : Int := (if signed then toSigned n a else (a : Int)) / (2 ^ o : Nat)
    let f := (x % (2 ^ w : Nat)).toNat
    ofSigned n (if signed then toSigned w f else (f : Int))

def opBfe : ROp where
  cls := 1
  op := 15
  shape e := let w := wideType e.type; ⟨.reg w, .none, .reg w, .reg w⟩
  ok := intOk
  fn e a _ c := bfeVal (signedType e.type) (typeWidth e.type) a c

/-- bfi (R533): bits o to o + w − 1 of A replaced by the low bits of B. -/
def bfiVal (n a b c : Nat) : Nat :=
  let o := c % 256
  let w := c / 256 % 256
  let field := (2 ^ w - 1) <<< o % 2 ^ n
  (a &&& (2 ^ n - 1 - field)) ||| (((b % 2 ^ w) <<< o) % 2 ^ n)

def opBfi : ROp where
  cls := 1
  op := 16
  shape e := let w := wideType e.type; ⟨.reg w, .reg w, .reg w, .reg w⟩
  ok := intOk
  fn e a b c := bfiVal (typeWidth e.type) a b c

/-- isetp (R109): MOD 0 to 5. -/
def opIsetp : ROp where
  cls := 1
  op := 17
  shape e := let w := wideType e.type; ⟨.reg w, .reg w, .none, .pred⟩
  ok e := decide (e.type.toNat < 4) && decide (e.mod.toNat < 6)
  fn e a b _ := b2n (isetpHolds e.mod.toNat (signedType e.type) (typeWidth e.type) a b)

/-- FP32 operations of two or three sources; without C, MOD bit 1 (the sign of C) must be 0 (DEDUCED, log entry 9). -/
def fp32 (n : Nat) (op : FOp) (three : Bool) : ROp where
  cls := 2
  op := n
  shape _ := ⟨.reg false, .reg false, if three then .reg false else .none, .reg false⟩
  ok e := e.type == 4 && (three || !bitOf e.mod.toNat 1)
  fn e a b c := Fmt.f32.arith op e.mod.toNat a b c

def opFadd : ROp := fp32 0 .add false
def opFmul : ROp := fp32 1 .mul false
def opFfma : ROp := fp32 2 .fma true
def opFmin : ROp := fp32 3 .min false
def opFmax : ROp := fp32 4 .max false
def opFsetp : ROp where
  cls := 2
  op := 5
  shape _ := ⟨.reg false, .reg false, .none, .pred⟩
  ok e := e.type == 4 && e.mod != 6 && e.mod != 7
  fn e a b _ := b2n (fsetpHolds e.mod.toNat a b)
def opFrnd : ROp where
  cls := 2
  op := 6
  shape _ := ⟨.reg false, .none, .none, .reg false⟩
  ok e := e.type == 4 && decide (e.mod.toNat < 4)
  fn e a _ _ := Fmt.f32.ieee ((Fmt.f32.decode a).integral (Rnd.of e.mod.toNat))

/-- The format of a packed operation. -/
def packFmt (t : BitVec 4) : Fmt := if t = 5 then Fmt.f16 else Fmt.bf16

/-- Packed 16-bit operations: the two halves computed independently. -/
def packed (n : Nat) (op : FOp) (three : Bool) : ROp where
  cls := 3
  op := n
  shape _ := ⟨.reg false, .reg false, if three then .reg false else .none, .reg false⟩
  ok e := (e.type == 5 || e.type == 6) && (three || !bitOf e.mod.toNat 1)
  fn e a b c :=
    let f := fun x y z => (packFmt e.type).arith op e.mod.toNat x y z
    f (a % 2 ^ 16) (b % 2 ^ 16) (c % 2 ^ 16) + 2 ^ 16 * f (a / 2 ^ 16) (b / 2 ^ 16) (c / 2 ^ 16)

def opHadd2 : ROp := packed 0 .add false
def opHmul2 : ROp := packed 1 .mul false
def opHfma2 : ROp := packed 2 .fma true
def opHmin2 : ROp := packed 3 .min false
def opHmax2 : ROp := packed 4 .max false

/-- Transcendental operations: TYPE f32, MOD 0, source A. -/
def trans (n : Nat) (f : Nat → Nat) : ROp where
  cls := 4
  op := n
  shape _ := ⟨.reg false, .none, .none, .reg false⟩
  ok e := e.type == 4 && e.mod == 0
  fn _ a _ _ := f a

def opRcp : ROp := trans 0 f32Rcp
def opRsqrt : ROp := trans 1 f32Rsqrt
def opSqrt : ROp := trans 2 f32Sqrt

/-- The float format of a type code of Table 3.7. -/
def typeFmt (t : BitVec 4) : Option Fmt :=
  match t.toNat with
  | 0x4 => some .f32
  | 0x5 => some .f16
  | 0x6 => some .bf16
  | 0x7 => some .e4m3
  | 0x8 => some .e5m2
  | 0x9 => some .e3m2
  | 0xA => some .e2m3
  | 0xB => some .e2m1
  | _ => none

/-- Width and signedness of an integer type code. -/
def typeInt (t : BitVec 4) : Nat × Bool :=
  match t.toNat with
  | 0x0 => (32, false)
  | 0x1 => (32, true)
  | 0x2 => (64, false)
  | 0x3 => (64, true)
  | 0xC => (16, false)
  | 0xD => (16, true)
  | 0xE => (8, false)
  | _ => (8, true)

/-- The number that a type reads in the low bits of a source (R135). -/
def typeNum (t : BitVec 4) (x : Nat) : Num :=
  match typeFmt t with
  | some F => F.decode (x % 2 ^ F.bits)
  | none => let (w, s) := typeInt t; Num.ofIntCode s w x

/-- The code of a number in a type (R119, R135, R146): into f32 by IEEE 754 with the rounding mode, into the narrow
formats with saturation, into integers with clipping. -/
def typeCode (r : Rnd) (t : BitVec 4) (n : Num) : Nat :=
  match typeFmt t with
  | some F => if t = 4 then F.encode r .toInf n else F.encode .near .saturate n
  | none => let (w, s) := typeInt t; n.toIntCode r s w

/-- cvt (R119): MOD is the source type, C the control field with RND in bits [1:0]. -/
def opCvt : ROp where
  cls := 5
  op := 0
  shape e := ⟨.reg (wideType e.mod), .none, .lit, .reg (wideType e.type)⟩
  ok e :=
    decide (e.c.toNat < 4) && ((typeFmt e.type).isSome || (typeFmt e.mod).isSome)
      && ((typeFmt e.type).isNone || e.type == 4 || e.c == 0)
  fn e a _ _ := typeCode (Rnd.of e.c.toNat) e.type (typeNum e.mod a)

/-- cvt.unpk (R119): the byte of A that B[1:0] selects, from MOD to f32 or f16. -/
def opCvtUnpk : ROp where
  cls := 5
  op := 2
  shape _ := ⟨.reg false, .reg false, .lit, .reg false⟩
  ok e := (e.type == 4 || e.type == 5) && (decide (0x7 ≤ e.mod.toNat ∧ e.mod.toNat ≤ 0xB) || e.mod == 0xE || e.mod == 0xF)
    && e.c == 0
  fn e a b _ := typeCode .near e.type (typeNum e.mod (a / 2 ^ (8 * (b % 4)) % 256))

/-- The two codes of cvt.pk2, A in the lower byte. -/
def pk2Codes (e : EncR) (a b : Nat) : Nat :=
  typeCode .near e.type (Fmt.f32.decode a) + 256 * typeCode .near e.type (Fmt.f32.decode b)

/-- cvt.pk2's operand shape; the destination's other two bytes keep their value, so the old DST is read too. -/
def shPk2 : RShape := ⟨.reg false, .reg false, .lit, .reg false⟩

/-- cvt.pk2's rules: MOD f32, TYPE 8-bit or narrower float, RND 0, BSEL in C bit 3. -/
def pk2Ok (e : EncR) : Bool :=
  decide (0x7 ≤ e.type.toNat ∧ e.type.toNat ≤ 0xB) && e.mod == 4 && (e.c == 0 || e.c == 8)

/-- The word that cvt.pk2 leaves in DST. -/
def pk2Val (e : EncR) (old a b : Nat) : Nat :=
  if bitOf e.c.toNat 3 then old % 2 ^ 16 + 2 ^ 16 * pk2Codes e a b else old / 2 ^ 16 * 2 ^ 16 + pk2Codes e a b

/-- mov: TYPE and MOD 0. -/
def opMov : ROp where
  cls := 6
  op := 0
  shape _ := ⟨.reg false, .none, .none, .reg false⟩
  ok e := e.type == 0 && e.mod == 0
  fn _ a _ _ := a

/-- sel: A where predicate C[2:0] holds, else B. -/
def opSel : ROp where
  cls := 6
  op := 1
  shape _ := ⟨.reg false, .reg false, .pred, .reg false⟩
  ok e := e.type == 0 && e.mod == 0
  fn _ a b c := if c = 1 then a else b

/-- plop: bit (a × 2 + b) of MOD. -/
def opPlop : ROp where
  cls := 6
  op := 5
  shape _ := ⟨.pred, .pred, .none, .pred⟩
  ok e := e.type == 0
  fn e a b _ := b2n (plopHolds e.mod.toNat (a != 0) (b != 0))

/-- shfl's shape. -/
def shShfl : RShape := ⟨.reg false, .reg false, .none, .reg false⟩
def shflOk (e : EncR) : Bool := e.type == 0 && decide (e.mod.toNat < 4)

/-- The lane that shfl reads for lane `l` (modes index, up, down, xor; the sense of up and down is DEDUCED, log entry
9: up by B reads lane l − B): its own where the source lies outside 0 to 31. -/
def shflLane (mod l b : Nat) : Nat :=
  let s : Int := match mod with
    | 0 => b
    | 1 => (l : Int) - b
    | 2 => (l : Int) + b
    | _ => ((l ^^^ b : Nat) : Int)
  if 0 ≤ s ∧ s < 32 then s.toNat else l

/-- The group after shfl. -/
def runShfl (e : EncR) (g : Group) : Group :=
  let g1 := writeR shShfl e (g.guard e.h)
    (fun l => valA shShfl e g (shflLane e.mod.toNat l (valB shShfl e g l))) g
  { g1 with pc := g.pc + Head.size e.h }

/-- The group after cvt.pk2: the other half of the old destination stays. -/
def runPk2 (e : EncR) (g : Group) : Group :=
  let old := fun l => if e.dk then (g.uget e.dst.toNat).toNat else (g.vget e.dst.toNat l).toNat
  let g1 := writeR shPk2 e (g.guard e.h) (fun l => pk2Val e (old l) (valA shPk2 e g l) (valB shPk2 e g l)) g
  { g1 with pc := g.pc + Head.size e.h }

/-- vote's shape: ballot writes a uniform register, any and all a predicate. -/
def shVote (e : EncR) : RShape := ⟨.pred, .none, .none, if e.mod = 2 then .reg false else .pred⟩
def voteOk (e : EncR) : Bool := e.type == 0 && decide (e.mod.toNat < 3) && (e.dk == (e.mod == 2))

/-- The group after vote (R535): only lanes that act take part. -/
def runVote (e : EncR) (g : Group) : Group :=
  let m := g.guard e.h
  let p := g.pget e.a.toNat &&& m
  let g1 :=
    if m = 0 then g
    else if e.mod = 2 then g.usetN false e.dst.toNat p.toNat
    else
      let hit := if e.mod = 0 then p != 0 else p == m
      g.pset e.dst.toNat m (if hit then BitVec.allOnes 32 else 0)
  { g1 with pc := g.pc + Head.size e.h }

end Sys2Proof.Machine
end

