-- ==== Sys2Proof/Machine/Divergence.lean ====
section
/-! DEFINITION. The divergence stack of a group: the procedures of the listing of R57, word for word, and the control
instructions over them (R58, R110, R112). A fault is the detail value that ILLEGAL_INSTRUCTION carries. -/

namespace Sys2Proof.Machine

/-- The place, from the top, of the topmost unblocked path entry. -/
def topPath : List StkEntry → Option Nat
  | [] => none
  | e :: r => if !e.recon && e.blocked.isNone then some 0 else (topPath r).map (· + 1)

/-- resume of R57, on at most `n` entries: entries left with no live lanes are skipped; a blocked top gives way to
the topmost unblocked path. -/
def Group.resumeN : Nat → Group → Group
  | 0, g => g
  | n + 1, g =>
    match g.stack with
    | [] => g
    | e :: r =>
      if e.blocked.isSome then
        match topPath g.stack with
        | none => g
        | some k =>
          match g.stack[k]? with
          | none => g
          | some p =>
            let g1 := { g with stack := g.stack.eraseIdx k, active := p.mask &&& ~~~g.exited, pc := p.pc }
            if g1.active = 0 then Group.resumeN n g1 else g1
      else
        let g1 := { g with stack := r, active := e.mask &&& ~~~g.exited, pc := e.pc }
        if g1.active = 0 then Group.resumeN n g1 else g1

/-- resume of R57. -/
def Group.resume (g : Group) : Group := g.resumeN (g.stack.length + 1)

/-- push of R57 for several entries, the last one topmost; a full stack faults (DIVERGENCE_OVERFLOW). -/
def Group.pushes (g : Group) (es : List StkEntry) : Except Nat Group :=
  if 64 < g.stack.length + es.length then .error dDivergence
  else .ok { g with stack := es.reverse ++ g.stack }

/-- branch of R57. -/
def Group.branch (g : Group) (taken : Mask) (target fallthru join : Nat) : Except Nat Group :=
  let rest := g.active &&& ~~~taken
  if rest = 0 then .ok { g with pc := target }
  else if taken = 0 then .ok { g with pc := fallthru }
  else
    match g.pushes [⟨true, none, 0, join, g.active⟩, ⟨false, none, 0, target, taken⟩] with
    | .error d => .error d
    | .ok g1 => .ok { g1 with active := rest, pc := fallthru }

/-- branch_indirect of R57. -/
def Group.branchIndirect (g : Group) (tgt : Nat → Nat) (selfPc join : Nat) : Except Nat Group :=
  let lead := lowLane g.active
  let same := g.active &&& maskOf fun l => tgt l == tgt lead
  if same = g.active then .ok { g with pc := tgt lead }
  else
    match g.pushes [⟨true, none, 0, join, g.active⟩, ⟨false, none, 0, selfPc, g.active &&& ~~~same⟩] with
    | .error d => .error d
    | .ok g1 => .ok { g1 with active := same, pc := tgt lead }

/-- exit_lanes of R57 for the lanes of a mask; the other active lanes go on at the next instruction. -/
def Group.exitLanes (g : Group) (m : Mask) (next : Nat) : Group :=
  let g1 := { g with exited := g.exited ||| m, active := g.active &&& ~~~m, pc := next }
  if g1.active = 0 then g1.resume else g1

/-- barrier_wait of R57: a blocked path entry for the active lanes. -/
def Group.barrierWait (g : Group) (barrier next : Nat) : Except Nat Group :=
  match g.pushes [⟨false, some barrier, g.tseq, next, g.active⟩] with
  | .error d => .error d
  | .ok g1 => .ok { g1 with active := 0 }.resume

/-- barrier_release of R57 for one barrier. -/
def Group.barrierRelease (g : Group) (barrier : Nat) : Group :=
  let g1 := { g with stack := g.stack.map fun e => if e.blocked = some barrier then { e with blocked := none } else e }
  if g1.active = 0 then g1.resume else g1

/-- The lanes of a group that wait at a barrier and have not exited; `done q` says that the tensor instructions the
group issued before its q-th have completed (R116). -/
def Group.waitingAt (g : Group) (barrier : Nat) (done : Nat → Bool) : Mask :=
  g.stack.foldl (fun m e => if e.blocked = some barrier && done e.seq then m ||| (e.mask &&& ~~~g.exited) else m) 0

/-- The lanes of a group that wait at a barrier, arrived or not. -/
def Group.blockedLanes (g : Group) : Mask :=
  g.stack.foldl (fun m e => if e.blocked.isSome then m ||| (e.mask &&& ~~~g.exited) else m) 0

/-- The address that a signed count of 8-byte units names (R110), none below 0. -/
def relTarget (pc : Nat) (t : BitVec 24) : Option Nat :=
  let x : Int := (pc : Int) + 8 * t.toInt
  if 0 ≤ x then some x.toNat else none

/-- Format B words carry no extension word and no reserved bit; `needP7` asks for the guard PRED = 7, PNEG = 0
(R103, R107). -/
def encBOk (needP7 : Bool) (e : EncB) : Bool :=
  !e.h.long && !e.h.rsv48 && (!needP7 || (e.h.pred == 7 && !e.h.pneg))

/-- The group after nop. -/
def runNop (e : EncB) (g : Group) : Except Nat Group :=
  if encBOk false e && e.target == 0 && e.join == 0 then .ok { g with pc := g.pc + 8 } else .error dUndefined

/-- The group after bra; `ok` tells a legal target (R111). -/
def runBra (e : EncB) (ok : Nat → Bool) (g : Group) : Except Nat Group :=
  if !encBOk false e then .error dUndefined
  else
    match relTarget g.pc e.target, relTarget g.pc e.join with
    | some t, some j =>
      if ok t && ok j then g.branch (g.guard e.h) t (g.pc + 8) j else .error dBadTarget
    | _, _ => .error dBadTarget

/-- The group after brx (R110): SRC is bits [47:40], bits [39:24] must be 0. A register out of range faults whatever the guard
(R47), and a guard that holds in no active lane makes it a nop. An illegal JOIN faults BAD_TARGET as one of bra does, whether or not anything is pushed (DESIGN CHOICE, log entry 102). -/
def runBrx (e : EncB) (ok : Nat → Bool) (regs : Nat) (g : Group) : Except Nat Group :=
  let src := e.target.toNat / 2 ^ 16
  if !(encBOk false e && e.target.toNat % 2 ^ 16 == 0) then .error dUndefined
  else if regs ≤ src then .error dRegRange
  else if g.guard e.h = 0 then .ok { g with pc := g.pc + 8 }
  else
    match relTarget g.pc e.join with
    | none => .error dBadTarget
    | some j =>
      let m := g.guard e.h
      if !ok j then .error dBadTarget
      else if m ≠ g.active then
        match g.pushes [⟨true, none, 0, j, g.active⟩, ⟨false, none, 0, g.pc, m⟩] with
        | .error d => .error d
        | .ok g1 => .ok { g1 with active := g.active &&& ~~~m, pc := g.pc + 8 }
      else
        let tgt := fun l => (g.vget src l).toNat
        if (lanesOf m).all fun l => ok (tgt l) then g.branchIndirect tgt g.pc j else .error dBadTarget

/-- The group after join: with an empty stack it goes on at the next instruction (DEDUCED, log entry 10). -/
def runJoin (e : EncB) (g : Group) : Except Nat Group :=
  if encBOk true e && e.target == 0 && e.join == 0 then
    .ok (match g.stack with
      | [] => { g with pc := g.pc + 8 }
      | _ => g.resume)
  else .error dUndefined

/-- The group after exit. -/
def runExit (e : EncB) (g : Group) : Except Nat Group :=
  if encBOk false e && e.target == 0 && e.join == 0 then .ok (g.exitLanes (g.guard e.h) (g.pc + 8)) else .error dUndefined

/-- The group after call (R112). -/
def runCall (e : EncB) (ok : Nat → Bool) (callsFlag : Bool) (g : Group) : Except Nat Group :=
  if !(encBOk true e && e.join == 0 && callsFlag) then .error dUndefined
  else
    match relTarget g.pc e.target with
    | none => .error dBadTarget
    | some t =>
      if !ok t then .error dBadTarget
      else if 16 ≤ g.calls.length then .error dCallStack
      else .ok { g with calls := (g.pc + 8, g.stack.length) :: g.calls, pc := t }

/-- The group after ret (R112). -/
def runRet (e : EncB) (callsFlag : Bool) (g : Group) : Except Nat Group :=
  if !(encBOk true e && e.target == 0 && e.join == 0 && callsFlag) then .error dUndefined
  else
    match g.calls with
    | [] => .error dCallStack
    | (ra, d) :: r => if d = g.stack.length then .ok { g with calls := r, pc := ra } else .error dCallStack

end Sys2Proof.Machine
end

