-- ==== Sys2Proof/Machine/TileMem.lean ====
section
/-! DEFINITION. Tile memory and the weight buffer: byte memories whose unwritten bytes the spec leaves open (R158,
R225), so that they read as free values. -/

namespace Sys2Proof.Machine

/-- A region of tile memory: the bytes written since it was taken, and what its other bytes read as: 0 where `seed` is 0, as in
an array that a self-test has cleared (R475), else the free values of the draw `seed - 1`. -/
structure TMem where
  seed : Nat
  bytes : Tbl Byte
  deriving DecidableEq, Repr

def TMem.empty : TMem := ⟨0, []⟩

/-- A region just taken, its bytes the free values of a draw. -/
def TMem.free (draw : Nat) : TMem := ⟨draw + 1, []⟩

def TMem.get (m : TMem) (a : Nat) : Byte :=
  tget m.bytes a (match m.seed with
    | 0 => 0
    | k + 1 => Config.freeByte k a)

def TMem.read (m : TMem) (a n : Nat) : List Byte := (List.range n).map fun i => m.get (a + i)

def TMem.nat (m : TMem) (a n : Nat) : Nat := leNat (m.read a n)

/-- Bytes written from address `a` upward. -/
def writeTbl (t : Tbl Byte) (a : Nat) : List Byte → Tbl Byte
  | [] => t
  | b :: bs => writeTbl (tset t a b) (a + 1) bs

def TMem.write (m : TMem) (a : Nat) (bs : List Byte) : TMem := { m with bytes := writeTbl m.bytes a bs }

end Sys2Proof.Machine
end

