-- ==== Sys2Proof/Machine/CoreState.lean ====
section
/-! DEFINITION. What a shader core and its tensor array hold (chapters 2, 3 and 5). -/

namespace Sys2Proof.Machine

/-- A workgroup slot (R51, R59 to R63, Table 3.3). -/
structure Wg where
  live : Bool
  ctx : Nat
  /-- The started command the workgroup belongs to. -/
  cmd : Nat
  prog : Prog
  threads : Nat
  idX : Nat
  idY : Nat
  idZ : Nat
  tileIndex : Nat
  tileX : Nat
  tileY : Nat
  mapGen : Nat
  scratchKib : Nat
  scratch : TMem
  /-- A stage or combine workgroup of the resident cut tile, whose scratch is the tile scratch (R158). -/
  stage : Bool
  /-- Stranding counter (R63). -/
  strand : Nat
  /-- The model's own name of the workgroup, kept across a save and a restore. -/
  wid : Nat
  deriving DecidableEq, Repr

def Wg.empty : Wg := ⟨false, 0, 0, .empty, 0, 0, 0, 0, 0xFFFFFFFF, 0, 0, 0, 0, .empty, false, 0, 0⟩

/-- Stored bytes that their home slice has not acknowledged (R26, R71 to R73): the command, the group's name, the lanes
whose store they belong to or hide (R72), the physical address, the bytes, and whether the page is cached (R77). -/
structure PendStore where
  cmd : Nat
  gid : Nat
  lanes : Mask
  pa : Nat
  data : List Byte
  cached : Bool
  deriving DecidableEq, Repr

/-- Operands of a queued tensor instruction, read at issue (chapter 3, Tensor instructions). -/
inductive TensorOp where
  | tmma (afmt bfmt blk tw : Nat) (acc : Bool) (a b c k : Nat)
  | tcvt (afmt blk : Nat) (dst src : Nat)
  /-- `pieces`: physical address, bytes and whether cached, of each page of the source (R126). -/
  | twld (va off count : Nat) (pieces : List (Nat × Nat × Bool))
  deriving DecidableEq, Repr

/-- A byte of tile memory, of a workgroup's scratch, or of the weight buffer: space 0 the resident pass's
reservation, 1 scratch, 2 weight buffer. -/
structure TileByte where
  space : Nat
  wg : Nat
  addr : Nat
  deriving DecidableEq, Repr

/-- A queue entry of the tensor array (R128): the issuing group's slot, name and program counter, its workgroup slot and
context, its tensor sequence number, the operation, whether it has started, and the operand bytes that another agent wrote
while it ran (R124). -/
structure TqEntry where
  slot : Nat
  gid : Nat
  pc : Nat
  wg : Nat
  ctx : Nat
  seq : Nat
  op : TensorOp
  started : Bool
  clobbered : List TileByte
  deriving DecidableEq, Repr

/-- A stride detector (Table 2.15). -/
structure Det where
  valid : Bool
  slot : Nat
  base : Nat
  last : Nat
  stride : Int
  conf : Nat
  lru : Nat
  deriving DecidableEq, Repr

/-- STRIDE_DET (Table 2.15). -/
def Det.view (d : Det) : Nat :=
  atBit 63 (b2n d.valid) + atBit 57 (d.slot % 64) + atBit 49 (d.base % 256) + atBit 42 (d.stride % 128).toNat + atBit 40 d.conf
    + atBit 7 (d.last % 2 ^ 33) + d.lru

/-- A line fill in progress: the line number and whether an invalidation arrived meanwhile (R85). -/
structure Fill where
  line : Nat
  dropped : Bool
  deriving DecidableEq, Repr

/-- Where the owner stands with a cut tile (R168): the input slab or partial block to load, the move of a stage, a
stage (its workgroup started or not), the output slab to store, the partial block to store. -/
inductive TileStep where
  | load (i : Nat)
  | move (stage i : Nat)
  | stage (n : Nat) (started : Bool)
  /-- The workgroup of stage `n` has exited. -/
  | staged (n : Nat)
  | store (i : Nat)
  | part
  deriving DecidableEq, Repr

/-- The cut tile in progress on a core: the command, t or t0, the phase, and the step. -/
structure TileRun where
  cmd : Nat
  tile : Nat
  combine : Bool
  step : TileStep
  deriving DecidableEq, Repr

/-- A primitive of a tile's merged list as the tile rasteriser sets it up: draw, batch and index, whether it is
front-facing, the words x, y, z, w of its vertices, and their attribute words. -/
structure Prim where
  draw : Nat
  batch : Nat
  index : Nat
  front : Bool
  verts : List (List Word)
  attrs : List (List Word)
  deriving DecidableEq, Repr

/-- A fragment group that the tile has formed and that is not resident yet (R216). -/
structure FragGroup where
  draw : Nat
  lanes : Tbl FragLane
  deriving DecidableEq, Repr

/-- A fragment that has not committed (R220): its place in the tile's list, the pixel, the samples its primitive
covers, the group slot and lane that run it, whether its early tests are done, and its outputs once its group ended. -/
structure PendFrag where
  prim : Nat
  x : Nat
  y : Nat
  cover : Nat
  home : Option (Nat × Nat)
  tested : Bool
  result : Option FragOut
  deriving DecidableEq, Repr

/-- The render tile in progress on a core: the command, the tile, the primitives of its list before the flush point,
the groups to come, and the fragments not committed, in list order. -/
structure RasterRun where
  cmd : Nat
  tile : Nat
  prims : List Prim
  waiting : List FragGroup
  frags : List PendFrag
  deriving DecidableEq, Repr

structure Core where
  /-- Group slots 0 to 63. -/
  groups : Tbl Group
  /-- Workgroup slots 0 to 31. -/
  wgs : Tbl Wg
  /-- The resident pass's reservation in tile memory, by byte offset. -/
  tile : TMem
  /-- Bytes of the reservation. -/
  reserved : Nat
  /-- KiB of the tile scratch of the resident cut, and its content between stages. -/
  holdKib : Nat
  scratch : TMem
  /-- The started command whose pass holds the reservation. -/
  holder : Option Nat
  /-- The cut tile, and the render tile, in progress. -/
  run : Option TileRun
  raster : Option RasterRun
  /-- DOUBLE slabs of the tile in progress (offset and bytes of one half), and whether its data lies in the second half
  (R169). -/
  doubles : List (Nat × Nat)
  odd : Bool
  /-- The input slabs of the pass's next tile here that lie in the other halves already (R169). -/
  ahead : List Nat
  /-- Weight buffer of the tensor array. -/
  weights : TMem
  /-- Unacknowledged stores, oldest first. -/
  stores : List PendStore
  /-- L1 tags: index to line number. -/
  l1 : Tbl Nat
  /-- Demand fill buffers by bank. -/
  demand : Tbl Fill
  /-- Prefetch fill buffers by bank. -/
  prefetch : Tbl Fill
  dets : Tbl Det
  /-- Tensor queue, oldest first (at most 16). -/
  tq : List TqEntry
  /-- Requeued tensor instructions of restored groups that wait for entries (R130). -/
  requeue : List TqEntry
  /-- L1_ERR_LOG (Table 2.12). -/
  errLog : DWord
  /-- Uncorrectable words found in the register file (word index), tile memory and the weight buffer (Table 15.1). -/
  badReg : List Nat
  badTile : List Nat
  badWeight : List Nat
  /-- Stopped for a save that is in progress: the started commands being saved (R362). -/
  saving : List Nat
  /-- The slot that a pipeline last issued from in a class (R54), keyed pipeline × 2 + class (1 async). -/
  lastSlot : Tbl Nat
  deriving DecidableEq, Repr

def Core.reset : Core :=
  ⟨[], [], .empty, 0, 0, .empty, none, none, none, [], false, [], .empty, [], [], [], [], [], [], [], 0, [], [], [], [], []⟩

def Det.empty : Det := ⟨false, 0, 0, 0, 0, 0, 0⟩

/-- Group slot `k` of a core. -/
def Core.group (c : Core) (k : Nat) : Group := tget c.groups k .empty

/-- The core with group slot `k` written. -/
def Core.setGroup (c : Core) (k : Nat) (g : Group) : Core := { c with groups := tset c.groups k g }

/-- Workgroup slot `k` of a core. -/
def Core.wgAt (c : Core) (k : Nat) : Wg := tget c.wgs k .empty

/-- The core with workgroup slot `k` written. -/
def Core.setWg (c : Core) (k : Nat) (w : Wg) : Core := { c with wgs := tset c.wgs k w }

/-- The group slots of a core that hold a group of workgroup slot `w`, ascending. -/
def Core.slotsOf (c : Core) (w : Nat) : List Nat :=
  (List.range 64).filter fun k => (c.group k).live && (c.group k).wg == w

/-- KiB of scratch in use. -/
def Core.scratchUsed (c : Core) : Nat :=
  ((List.range 32).map fun k => if (c.wgAt k).live && !(c.wgAt k).stage then (c.wgAt k).scratchKib else 0).sum

/-- KiB of tile memory free for scratch (Table 2.11): tile memory that no reservation and no scratch holds. -/
def Core.scratchFree (c : Core) : Nat := 512 - ceilDiv c.reserved 1024 - c.holdKib - c.scratchUsed

/-- Whether the tensor instructions that the group in a slot issued before its `q`-th have completed (R116). -/
def Core.tensorDone (c : Core) (slot q : Nat) : Bool :=
  (c.tq ++ c.requeue).all fun e => !(e.gid == (c.group slot).gid && decide (e.seq < q))

end Sys2Proof.Machine
end

