-- ==== Sys2Proof/Machine/DevState.lean ====
section
/-! DEFINITION. Tenants, contexts, queues, memory objects, fences and the commands in progress (chapters 9, 10 and 11),
and the memory system (R21, R26, R77, R464). -/

namespace Sys2Proof.Machine

/-- A record of a tenant's error log (Table 9.2). -/
structure LogRec where
  kind : Nat
  write : Bool
  rid : Nat
  off : Nat
  timer : Nat
  deriving DecidableEq, Repr

/-- A host wait entry (Table 10.7). -/
structure HostWait where
  vector : Nat
  fence : Nat
  target : Nat
  armed : Bool
  outcome : Nat
  deriving DecidableEq, Repr

def HostWait.empty : HostWait := ⟨0, 0, 0, false, 0⟩

inductive TenantSt where
  | free | live | gone | destroying
  deriving DecidableEq, Repr

structure Tenant where
  st : TenantSt
  port : Nat
  rid : Nat
  pasid : Option Nat
  logTotal : Nat
  logNext : Nat
  log : Tbl LogRec
  waits : Tbl HostWait
  /-- A reset of the tenant is under way (R373). -/
  resetting : Bool
  /-- Standing envelope request (R421). -/
  envelope : Option Nat
  deriving DecidableEq, Repr

def Tenant.free : Tenant := ⟨.free, 0, 0, none, 0, 0, [], [], false, none⟩

inductive CtxSt where
  | free | live | faulted | resetting | destroying
  deriving DecidableEq, Repr

/-- A context slot. `block` is the device's copy of the 256-byte status block (Tables 9.6, 11.6, 10.8). -/
structure Ctx where
  st : CtxSt
  tenant : Nat
  heritage : Bool
  rootObj : Nat
  rootGen : Nat
  rootPage : Nat
  statObj : Nat
  statGen : Nat
  statOff : Nat
  faultFence : Option Nat
  texVa : Nat
  texCount : Nat
  sampVa : Nat
  sampCount : Nat
  /-- Faults since creation (R291). -/
  faults : Nat
  wdLimit : Nat
  block : Mem
  /-- Ticks of the device timer during which work of the context was resident (RESIDENT_US of Table 11.6). -/
  residentTicks : Nat
  deriving DecidableEq, Repr

def Ctx.free : Ctx := ⟨.free, 0, false, 0, 0, 0, 0, 0, 0, none, 0, 0, 0, 0, 0, 0, [], 0⟩

inductive QueueSt where
  | free | live | stopped | draining
  deriving DecidableEq, Repr

/-- A FENCE_WAIT in progress: fence, target, deadline in timer units, and the command that holds it. -/
structure QWait where
  fence : Nat
  target : Nat
  deadline : Option Nat
  cmd : Nat
  deriving DecidableEq, Repr

structure Queue where
  st : QueueSt
  ctx : Nat
  door : Nat
  ringObj : Nat
  ringGen : Nat
  ringOff : Nat
  ringBytes : Nat
  repObj : Nat
  repGen : Nat
  repOff : Nat
  prio : Nat
  /-- Read index, last accepted doorbell value. -/
  read : Nat
  last : Nat
  wait : Option QWait
  wdLimit : Nat
  /-- A service queue of a loaded graph (R422). -/
  service : Bool
  /-- The queue's open Ringmark session (chapter 6), by session number. -/
  session : Option Nat
  deriving DecidableEq, Repr

def Queue.free : Queue := ⟨.free, 0, 0, 0, 0, 0, 4096, 0, 0, 0, 0, 0, 0, none, 0, false, none⟩

inductive ObjSt where
  | free | live | retiring
  deriving DecidableEq, Repr

structure Obj where
  st : ObjSt
  gen : Nat
  host : Bool
  base : Nat
  size : Nat
  owner : Nat
  /-- Tenant to right: 1 READ, 2 READ_WRITE. -/
  shares : Tbl Nat
  /-- Queue slot to recorded point (R301). -/
  points : Tbl Nat
  /-- When the slot became FREE, counted in frees; 0 since device reset (R304). -/
  freed : Nat
  /-- Its owner was destroyed while R303 refused its free (Table 9.10). -/
  orphan : Bool
  deriving DecidableEq, Repr

def Obj.reset : Obj := ⟨.free, 1, false, 0, 0, 0, [], [], 0, false⟩

inductive FenceSt where
  | free | live | poisoned | releasing
  deriving DecidableEq, Repr

structure Fence where
  st : FenceSt
  value : DWord
  heritage : Bool
  /-- The poisoned flag (R337); for a fence that is not a heritage fence it agrees with the terminal value. -/
  flag : Bool
  owner : Nat
  /-- Tenant to right: 1 WAIT, 2 SIGNAL_WAIT. -/
  grants : Tbl Nat
  /-- Context to right: 1 WAIT, 2 SIGNAL_WAIT. -/
  binds : Tbl Nat
  guard : Option Nat
  /-- GUARD_CONTEXT was named at creation (GUARDED of Table 10.6). -/
  named : Bool
  onGone : Bool
  freed : Nat
  /-- Sum of the accepted advances of a heritage fence (R341). -/
  adv : Nat
  /-- The latest signals that moved it, oldest first: the device timer when each took effect and the value before (R252). -/
  moves : List (Nat × DWord)
  deriving DecidableEq, Repr

def Fence.reset : Fence := ⟨.free, 0, false, false, 0, [], [], none, false, false, 0, 0, []⟩

/-- A bridge (R340, R341): the tenant that asked for it, the values at creation, the heritage source's advance at
creation, and how much of the source's advance Ranger has passed on. -/
structure Bridge where
  creator : Nat
  src : Nat
  dst : Nat
  s0 : Nat
  t0 : Nat
  adv0 : Nat
  passed : Nat
  deriving DecidableEq, Repr

/-- What a started command is. -/
inductive CmdKind where
  | dispatch | cut | render | fenceWait | copy | fill | ringOpen
  deriving DecidableEq, Repr

/-- A started command of a queue that has not completed. Fields that a kind does not use are 0 or empty. -/
structure Cmd where
  kind : CmdKind
  queue : Nat
  ctx : Nat
  /-- Ring index of its packet, and the index after it. -/
  index : Nat
  next : Nat
  tag : Nat
  mapGen : Nat
  /-- Dispatch: program, grid, argument block, next workgroup, workgroups that have exited. -/
  prog : Prog
  gridX : Nat
  gridY : Nat
  gridZ : Nat
  args : List Word
  nextWg : Nat
  doneWgs : Nat
  /-- Copy and fill: object, offset, source, bytes in total and done, pattern. -/
  dstObj : Nat
  dstOff : Nat
  srcObj : Nat
  srcOff : Nat
  bytes : Nat
  copied : Nat
  pattern : Nat
  /-- The deadline class has been counted for it (DEADLINE_BOOSTS). -/
  boosted : Bool
  /-- The model's own: on the cores where it stopped at a coarse boundary, when it did so, as a place among the command numbers
  (R349). -/
  stopped : Tbl Nat
  deriving DecidableEq, Repr

def Cmd.base (k : CmdKind) (q c i n tag gen : Nat) : Cmd :=
  ⟨k, q, c, i, n, tag, gen, .empty, 1, 1, 1, [], 0, 0, 0, 0, 0, 0, 0, 0, 0, false, []⟩

/-- A TLB entry: context, virtual base, length, physical base, flags, and the object it was made from. -/
structure TlbEntry where
  ctx : Nat
  va : Nat
  len : Nat
  pa : Nat
  write : Bool
  cached : Bool
  obj : Nat
  deriving DecidableEq, Repr

/-- A line of a cached host window page in the system cache (R77): its 128 bytes and whether the host lacks them. -/
structure HostLine where
  data : List Byte
  dirty : Bool
  deriving DecidableEq, Repr

/-- An instruction cache line (R76): core, context, virtual address >> 7, its 128 bytes as they were fetched, and the
64-bit words of it that were poisoned then. -/
structure ILine where
  core : Nat
  ctx : Nat
  line : Nat
  data : List Byte
  bad : List Nat
  deriving DecidableEq, Repr

/-- A line that a way of the system cache holds (R532): its number PA >> 7, the way of its set, and for a line of DRAM
whether it differs from what DRAM itself holds. -/
structure CLine where
  line : Nat
  way : Nat
  dirty : Bool
  deriving DecidableEq, Repr

structure MemSys where
  dram : Mem
  /-- Host memory by port, by bus address. -/
  host : Tbl Mem
  /-- System cache lines of cached host window pages, by line number PA >> 7. -/
  lines : Tbl HostLine
  /-- Poison marks: 64-bit word numbers PA >> 3 (R464). -/
  poison : List Nat
  /-- The lines that the system cache holds, the most recently used first (R173, R174, R532). -/
  cache : List CLine
  /-- System cache ways that R476 disabled: slice, set, way. -/
  ways : List (Nat × Nat × Nat)
  tlb : List TlbEntry
  /-- Instruction cache lines. -/
  icache : List ILine
  /-- Bulk requests that wait longer than 4,096 cycles and are served as normal ones: arbiter and port (R24). -/
  promoted : List (Nat × Nat)
  deriving DecidableEq, Repr

def MemSys.reset : MemSys := ⟨[], [], [], [], [], [], [], [], []⟩

end Sys2Proof.Machine
end

