-- ==== Sys2Proof/Machine/SchedState.lean ====
section
/-! DEFINITION. What the scheduler holds (chapter 11): preemptions under way, saved work, deadline requests, the copy
path, watchdog limits apart (they stand in contexts and queues). -/

namespace Sys2Proof.Machine

/-- What a preemption is for: work of higher priority (Table 11.3), the tile memory that a pass tile needs (R170), a quantum (R357),
or a map change that takes the work's unit away (R364). -/
inductive PreemptCause where
  | priority | tile | quantum | leaves
  deriving DecidableEq, Repr

/-- A preemption of a command's work on a core that is under way (Table 11.3): the command that waits, the boundary
(instruction, else coarse), whether it never escalates (R357, R360), whether it serves the deadline class, and what it is for. -/
structure Preempt where
  core : Nat
  victim : Nat
  waiter : Nat
  instr : Bool
  noEscalation : Bool
  deadline : Bool
  cause : PreemptCause
  deriving DecidableEq, Repr

/-- A piece of one command's work saved from one core (Table 11.4): the save it was part of, numbered in order, and its place in
the pool (the save frame and the byte offset there), the core it belongs to, its workgroups with their groups by group number,
the tensor instructions that had not completed, for a tile in progress the reservation, and the weight buffer where it is
needed. -/
structure Saved where
  frame : Nat
  slot : Nat
  off : Nat
  core : Nat
  cmd : Nat
  ctx : Nat
  wgs : List (Wg × List Group)
  tq : List TqEntry
  holds : Bool
  tile : TMem
  reserved : Nat
  holdKib : Nat
  scratch : TMem
  run : Option TileRun
  raster : Option RasterRun
  doubles : List (Nat × Nat)
  odd : Bool
  ahead : List Nat
  weights : Option TMem
  deriving DecidableEq, Repr

/-- A deadline request in force (R256, R346, R347): the flip set it serves, queue, output, and the device timer of the
flip deadline. -/
structure Boost where
  set : Nat
  queue : Nat
  output : Nat
  due : Nat
  deriving DecidableEq, Repr

structure Sched where
  preempts : List Preempt
  saved : List Saved
  nextFrame : Nat
  boosts : List Boost
  /-- The COPY or FILL whose chunk the copy path is moving (R351). -/
  copying : Option Nat
  /-- The model's own: the name of the next workgroup made resident (Wg.wid). -/
  nextWid : Nat
  /-- The render pass that each binner works on (R350). -/
  binning : Tbl Nat
  /-- The Ringmark opens, and the cuts whose folds are due, in the order in which they came to wait for the digest engine
  (R203). -/
  digests : List Nat
  deriving DecidableEq, Repr

def Sched.reset : Sched := ⟨[], [], 0, [], none, 0, [], []⟩

/-- Save frames in use (R359): a frame is freed when every piece of work in it has been restored or discarded. -/
def Sched.framesUsed (x : Sched) : Nat :=
  (x.saved.foldl (fun acc e => if acc.contains e.frame then acc else e.frame :: acc) ([] : List Nat)).length

end Sys2Proof.Machine
end

