-- ==== Sys2Proof/Machine/State.lean ====
section
/-! DEFINITION. The state of the part as plain data, and the state right after reset. -/

namespace Sys2Proof.Machine

/-- The enabled-unit maps (R19). -/
structure Maps where
  core : BitVec 48
  tensor : BitVec 48
  gen : Nat
  deriving DecidableEq, Repr

structure State where
  fuses : Fuses
  boot : Boot
  /-- The flash by flash address (Table 16.12), each byte complemented, so that an erased byte is not listed. -/
  flash : Mem
  cfg : Cfg
  /-- Device timer in units of 1 ÷ 38.4 MHz (Table 3.3). -/
  timer : Nat
  /-- The model's own: how many free values have been drawn (Config.free). -/
  freeTick : Nat
  maps : Maps
  cores : Tbl Core
  mem : MemSys
  tenants : Tbl Tenant
  ctxs : Tbl Ctx
  queues : Tbl Queue
  objs : Tbl Obj
  fences : Tbl Fence
  bridges : Tbl Bridge
  /-- Started commands that have not completed, by number, and the next number. -/
  cmds : Tbl Cmd
  nextCmd : Nat
  /-- Cuts and render passes in progress, by command number. -/
  cuts : Tbl CutPass
  renders : Tbl RenderPass
  /-- Open Ringmark sessions, by the number of the command that opened them, and the lanes of the digest engine. -/
  sessions : Tbl Session
  lanes : Tbl ChunkJob
  /-- Chipper engine contexts granted (tenant and bound context), and Blaze unit contexts granted (tenant). -/
  chipGrants : Tbl (Nat × Nat)
  blazeGrants : Tbl Nat
  engines : Tbl Engine
  engCtxs : Tbl EngCtx
  bzCtxs : Tbl BzCtx
  prism : Prism
  sched : Sched
  ranger : Ranger
  power : Power
  /-- Slots freed so far: the order in which object and fence slots became FREE (R304, R324). -/
  objFrees : Nat
  fenceFrees : Nat
  ports : Tbl Port
  channels : Tbl Channel
  i3c : I3c
  tap : TapInstr
  /-- SYS_RESET_N is held low (R510, R513). -/
  sysReset : Bool
  avail : Avail
  /-- Counters of every window, by counterKey; each saturates at 2^48 − 1 (R97). -/
  counters : Tbl Nat
  /-- Messages sent to the outside, oldest first. -/
  out : List Out
  /-- Commands that are waiting, first in first out. -/
  pending : List Instr
  deriving DecidableEq, Repr

/-- Why the machine stops: no rule of the spec gives it a stop without an effect, so no fault is raised. -/
inductive Fault where
  /-- Reserved: no meaning raises it (safe). -/
  | stopped
  deriving DecidableEq, Repr

/-- Why a command is refused. -/
inductive Refusal where
  /-- Raised by an arm of exec whose command has no meaning yet (safe: nothing is proved of it). -/
  | notModelled (mnemonic : String)
  deriving DecidableEq, Repr

/-- The machine right after reset (Device reset of R513 before the boot sequence has run). -/
def State.reset : State where
  fuses := .fresh
  boot := .reset
  flash := []
  cfg := .default
  timer := 0
  freeTick := 0
  maps := ⟨0, 0, 0⟩
  cores := []
  mem := .reset
  tenants := []
  ctxs := []
  queues := []
  objs := []
  fences := []
  bridges := []
  cmds := []
  nextCmd := 0
  cuts := []
  renders := []
  sessions := []
  lanes := []
  chipGrants := []
  blazeGrants := []
  engines := []
  engCtxs := []
  bzCtxs := []
  prism := .reset
  sched := .reset
  ranger := .reset
  power := .reset
  objFrees := 0
  fenceFrees := 0
  ports := []
  channels := []
  i3c := .reset
  tap := .idcode
  sysReset := true
  avail := .reset
  counters := []
  out := []
  pending := []

end Sys2Proof.Machine
end

