-- ==== Sys2Proof/Machine/Ops.lean ====
section
/-! DEFINITION. Named operations over the state: accessors, counters and events, the tenant error log, messages, the
Flume's reply records, and physical memory. -/

namespace Sys2Proof.Machine

namespace State

def core (s : State) (k : Nat) : Core := tget s.cores k .reset
def setCore (s : State) (k : Nat) (c : Core) : State := { s with cores := tset s.cores k c }
def group (s : State) (g : GroupAt) : Group := (s.core g.core).group g.slot
def setGroup (s : State) (g : GroupAt) (x : Group) : State := s.setCore g.core ((s.core g.core).setGroup g.slot x)
def tenant (s : State) (t : Nat) : Tenant := tget s.tenants t .free
def setTenant (s : State) (t : Nat) (x : Tenant) : State := { s with tenants := tset s.tenants t x }
def ctx (s : State) (c : Nat) : Ctx := tget s.ctxs c .free
def setCtx (s : State) (c : Nat) (x : Ctx) : State := { s with ctxs := tset s.ctxs c x }
def queue (s : State) (q : Nat) : Queue := tget s.queues q .free
def setQueue (s : State) (q : Nat) (x : Queue) : State := { s with queues := tset s.queues q x }
def obj (s : State) (o : Nat) : Obj := tget s.objs o .reset
def setObj (s : State) (o : Nat) (x : Obj) : State := { s with objs := tset s.objs o x }
def fence (s : State) (f : Nat) : Fence := tget s.fences f .reset
def setFence (s : State) (f : Nat) (x : Fence) : State := { s with fences := tset s.fences f x }
def port (s : State) (p : Nat) : Port := tget s.ports p .reset
def setPort (s : State) (p : Nat) (x : Port) : State := { s with ports := tset s.ports p x }
def channel (s : State) (c : Nat) : Channel := tget s.channels c .reset
def setChannel (s : State) (c : Nat) (x : Channel) : State := { s with channels := tset s.channels c x }
def setMem (s : State) (m : MemSys) : State := { s with mem := m }

end State

/-- Number of the tenant slots, contexts, queues, objects and fences (Table 9.1), and of the I3C channel. -/
def nTenants : Nat := 16
def nCtxs : Nat := 256
def nQueues : Nat := 1024
def nObjs : Nat := 65536
def nFences : Nat := 16384
def i3cChannel : Nat := 16
/-- The largest count of a counter (R97). -/
def counterMax : Nat := 2 ^ 48 - 1

/-- An entry of a tenant's error log (R288): a tenant that is FREE has none. -/
def logTenant (s : State) (t : Nat) (r : LogRec) : State :=
  let x := s.tenant t
  if x.st = .free then s
  else s.setTenant t { x with
    log := tset x.log x.logNext r
    logNext := (x.logNext + 1) % 64
    logTotal := min (x.logTotal + 1) 0xFFFFFFFF }

/-- A record that no BAR0 access caused. -/
def logPlain (s : State) (t kind off : Nat) : State := logTenant s t ⟨kind, false, 0, off, s.timer⟩

/-- An MSI-X message due on a vector of a port: sent, or pending while it is masked, messages are off or the port is off
in Night (R453, R488). -/
def sendMsix (s : State) (p v : Nat) : State :=
  let x := s.port p
  if !x.up && !x.night then s
  else if x.sends && x.msixOpen.contains v then { s with out := s.out ++ [.msix p v] }
  else if x.msixPend.contains v then s
  else s.setPort p { x with msixPend := x.msixPend ++ [v] }

/-- A message due on a vector that tenant `t` named (R488). -/
def notifyTenant (s : State) (t v : Nat) : State :=
  if 128 * t ≤ v ∧ v < 128 * t + 128 then sendMsix s (s.tenant t).port v else logPlain s t 0xF v

/-- An in-band interrupt becomes pending, at most one of each kind (R506). -/
def raiseIbi (s : State) (kind : Nat) (payload : List Byte) : State :=
  if s.i3c.ibiPend.any fun x => x.1 == kind then s
  else { s with i3c := { s.i3c with ibiPend := s.i3c.ibiPend ++ [(kind, payload)] } }

/-- Units of a record with `n` payload bytes (R414). -/
def recUnits (n : Nat) : Nat := ceilDiv (16 + n) 16

/-- A reply header (Table 13.4). -/
def replyHdr (seq status detail tag words flags : Nat) : List Byte :=
  leBytes 4 seq ++ leBytes 2 status ++ leBytes 2 detail ++ leBytes 4 tag ++ leBytes 2 words ++ leBytes 1 flags ++ [0]

/-- Bytes written into a reply ring from unit index `i` on, which do not cross its end. -/
def Channel.putUnits (c : Channel) (bytes : List Byte) : Channel :=
  { c with
    replies := c.replies.write (c.replyWrite % 1024 * 16) bytes
    replyWrite := (c.replyWrite + bytes.length / 16) % 2 ^ 32 }

/-- Units that a record takes as a reply ring stands, with the PAD before its end (R414, R415). -/
def Channel.unitsFor (c : Channel) (n : Nat) : Nat :=
  recUnits n + if recUnits n ≤ 1024 - c.replyWrite % 1024 then 0 else 1024 - c.replyWrite % 1024

/-- A record in a channel's reply ring (R414): a PAD record fills the space to the end when it would cross it. -/
def Channel.putRecord (c : Channel) (seq status detail tag flags : Nat) (payload : List Byte) : Channel :=
  let units := recUnits payload.length
  let room := 1024 - c.replyWrite % 1024
  let c1 := if units ≤ room then c
    else c.putUnits (replyHdr 0 0 0 0 ((room * 16 - 16) / 4) 8 ++ List.replicate (room * 16 - 16) 0)
  let body := replyHdr seq status detail tag (payload.length / 4) flags ++ payload
  c1.putUnits (body ++ List.replicate (units * 16 - body.length) 0)

/-- A reply record written on channel `ch`, and its notification (Table 13.2 NOTIFY_EN; Table 16.11). -/
def postRecord (s : State) (ch seq status detail tag flags : Nat) (payload : List Byte) : State :=
  let c := s.channel ch
  let s1 := s.setChannel ch (c.putRecord seq status detail tag flags payload)
  if !c.notify then s1
  else if ch = i3cChannel then raiseIbi s1 0x02 []
  else notifyTenant s1 ch c.vector

/-- Free reply units of a channel (R414). -/
def Channel.freeUnits (c : Channel) : Nat := 1024 - (c.replyWrite + 2 ^ 32 - c.readIndex) % 2 ^ 32

/-- A channel exists: the I3C channel always, a tenant's while its slot is not FREE. -/
def channelLive (s : State) (ch : Nat) : Bool := ch == i3cChannel || (s.tenant ch).st != .free

/-- One event on one channel (R415): dropped, with EVENT_SEQ advancing, when the reply space would be too small. -/
def postEventOn (s : State) (ch code : Nat) (payload : List Byte) : State :=
  let c := s.channel ch
  let s1 := s.setChannel ch { c with eventSeq := (c.eventSeq + 1) % 2 ^ 32 }
  if c.freeUnits < 36 * (c.accepted.length + 1) + c.unitsFor payload.length then s1
  else postRecord s1 ch c.eventSeq 0 code 0 3 payload

/-- The payload of an event (Table 13.6). -/
def eventBytes (unit ctx arg0 arg1 : Nat) : List Byte :=
  leBytes 1 unit ++ [0] ++ leBytes 2 ctx ++ leBytes 4 arg0 ++ leBytes 8 arg1

/-- An event on every channel whose mask has the event's bit (R415). -/
def postEvent (s : State) (code unit arg0 arg1 : Nat) : State :=
  (List.range 17).foldl (fun s ch =>
    if channelLive s ch && bitOf (s.channel ch).mask code then postEventOn s ch code (eventBytes unit 0xFFFF arg0 arg1)
    else s) s

/-- Counter windows: the key of a counter is its unit number (Table 1.2) and its register offset. A core's raster window
(Table 7.12) has the key 0x100 + core. -/
def counterKey (unit off : Nat) : Nat := unit * 2 ^ 16 + off

def State.counter (s : State) (unit off : Nat) : Nat := tget s.counters (counterKey unit off) 0

/-- A counter advanced by `n`: it stays at its maximum, and raises one COUNTER_SATURATED event on reaching it (R97). -/
def bumpBy (s : State) (unit off n : Nat) : State :=
  let old := s.counter unit off
  let new := min (old + n) counterMax
  let s1 := { s with counters := tset s.counters (counterKey unit off) new }
  if old < counterMax ∧ new = counterMax then postEvent s1 2 (unit % 0x100) off 0 else s1

def bump (s : State) (unit off : Nat) : State := bumpBy s unit off 1

/-- Counters of one unit set to 0 (at a power-up of its domain). -/
def clearCounters (s : State) (unit : Nat) : State :=
  { s with counters := tdrop s.counters fun k => k / 2 ^ 16 == unit }

/-- An error record (R470): the ring advances, TOTAL saturates, and classes 2, 3 and 4 raise IBI 0x03 (Table 16.11). -/
def recordError (s : State) (kind unit cls loc : Nat) : State :=
  let a := s.avail
  let s1 := { s with avail := { a with
    records := tset a.records a.next ⟨kind, unit, cls, loc, s.timer⟩
    next := (a.next + 1) % 256
    total := min (a.total + 1) 0xFFFFFFFF } }
  if 2 ≤ cls then raiseIbi s1 0x03 (leBytes 1 a.next) else s1

/-- Errors among `l` that lie within `window` timer units before now. -/
def recent (s : State) (l : List Nat) (window : Nat) : Nat := (l.filter fun t => decide (s.timer - t ≤ window)).length

/-- Windows of Table 15.8: 3,600 s and 60 s. -/
def uncorrWindow : Nat := 138240000000
def corrWindow : Nat := 2304000000

/-- A unit or location due for retirement, and a core due for a self-test (R474). -/
def addDue (s : State) (u : Nat) : State :=
  if s.avail.due.contains u then s else { s with avail := { s.avail with
    due := s.avail.due ++ [u]
    dueAt := tset s.avail.dueAt u s.timer } }
def addTest (s : State) (u : Nat) : State :=
  if s.avail.tests.contains u then s else { s with avail := { s.avail with tests := s.avail.tests ++ [u] } }

/-- The conditions of R474 after an error of a unit (or cache location) and kind. -/
def checkRetire (s : State) (unit kind : Nat) (uncorr : Bool) : State :=
  let times := fun (t : Tbl (List Nat)) (k : Nat) => tget t (unit * 256 + k) []
  let a := s.avail
  if uncorr then
    if kind = 1 ∨ kind = 2 then
      (if 2 ≤ recent s (times a.uncorrTimes 1 ++ times a.uncorrTimes 2) uncorrWindow then addDue s unit else s)
    else if kind = 3 then (if 16 ≤ recent s (times a.uncorrTimes 3) corrWindow then addTest s unit else s)
    else if kind = 6 ∨ kind = 7 then (if 2 ≤ recent s (times a.uncorrTimes kind) uncorrWindow then addDue s unit else s)
    else s
  else if unit < 0x30 ∧ 4096 ≤ recent s (times a.corrTimes 1 ++ times a.corrTimes 2 ++ times a.corrTimes 3) corrWindow then addTest s unit
  else s

/-- A counted error of a unit by kind, corrected or uncorrectable, kept with its time for the thresholds of R474, and
the collector's counts (Table 15.6). -/
def countError (s : State) (unit kind : Nat) (uncorr : Bool) : State :=
  let a := s.avail
  let k := unit * 256 + kind
  let s1 := if uncorr then
      { s with avail := { a with uncorrTimes := tset a.uncorrTimes k (s.timer :: tget a.uncorrTimes k []) } }
    else { s with avail := { a with corrTimes := tset a.corrTimes k (s.timer :: tget a.corrTimes k []) } }
  checkRetire s1 unit kind uncorr

/-- A poisoned word has been consumed (POISON_SEEN). -/
def sawPoison (s : State) : State := { s with avail := { s.avail with poisonSeen := true } }

/-- A free 64-bit value; the draw count advances. -/
def drawFree (s : State) : DWord × State := (Config.free s.freeTick, { s with freeTick := s.freeTick + 1 })

/-- Where a device physical address lies (Table 1.4): DRAM, the host window of a port with the offset in it, or
reserved. -/
inductive PaKind where
  | dram
  | host (port off : Nat)
  | reserved
  deriving DecidableEq, Repr

def paKind (pa : Nat) : PaKind :=
  if pa < 0x1000000000 then .dram
  else if pa < 0x8000000000 then .reserved
  else if pa < 0xB000000000 then .host ((pa - 0x8000000000) / 2 ^ 36) ((pa - 0x8000000000) % 2 ^ 36)
  else .reserved

/-- home_slice (R22). -/
def homeSlice (pa : Nat) : Nat :=
  (List.range 9).foldl (fun x i => x ^^^ (pa / 2 ^ 7 / 2 ^ (4 * i) % 16)) 0

/-- An address that an access may reach (R21): installed DRAM, or a port's window that is enabled or whose port has
lost its link. -/
def paReachable (s : State) (pa : Nat) : Bool :=
  match paKind pa with
  | .dram => decide (pa < s.boot.dramInstalled)
  | .host p _ => (s.port p).winEn || (s.port p).lost
  | .reserved => false

/-- The first poisoned 64-bit word of a range of physical addresses (R464). -/
def poisonedWord (s : State) (pa n : Nat) : Option Nat :=
  s.mem.poison.find? fun w => decide (pa / 8 ≤ w ∧ w * 8 < pa + n)

/-- Host memory as requests of a port reach it: `n` is the port's number, from 0 to 2, for requests without a PASID prefix, and
for those with one `hostSpace` gives it. -/
def State.hostMem (s : State) (n : Nat) : Mem := tget s.mem.host n []

/-- The HOST object that an address of a host window belongs to (R299). -/
def hostObj (s : State) (pa : Nat) : Option Obj :=
  (s.objs.find? fun e => e.2.st != .free && e.2.host && decide (e.2.base ≤ pa ∧ pa < e.2.base + e.2.size)).map Prod.snd

/-- The memory that a request for a window offset reaches: a request made for a HOST object carries the PASID with which the
object's owner is bound (R490). What a host maps for one PASID is no other's (DESIGN CHOICE, log entry 137). -/
def hostSpace (s : State) (p off : Nat) : Nat :=
  match (hostObj s (0x8000000000 + p * 2 ^ 36 + off)).bind fun o => (s.tenant o.owner).pasid with
  | some k => p + 4 * (k + 1)
  | none => p

/-- Bytes of a host window read from the host itself, zero while the link is lost (R374). -/
def hostRead (s : State) (p off n : Nat) : List Byte :=
  if (s.port p).lost then List.replicate n 0 else (s.hostMem (hostSpace s p off)).read ((s.port p).winBase + off) n

/-- Bytes written to the host itself as posted writes, discarded while the link is lost (R374). -/
def hostWrite (s : State) (p off : Nat) (bs : List Byte) : State :=
  if (s.port p).lost then s
  else
    let n := hostSpace s p off
    s.setMem { s.mem with host := tset s.mem.host n ((s.hostMem n).write ((s.port p).winBase + off) bs) }

/-- A word of a host window that the system cache does not hold: marked only for the read that failed (R491). -/
def readMark (s : State) (w : Nat) : Bool := match paKind (w * 8) with
  | .host _ _ => !(s.mem.cache.any fun e => e.line == w / 16)
  | _ => false

/-- A consumer has met a poisoned word (R465, Table 15.6). The marks of a failed host read that no cached line holds are gone
with the read. -/
def metPoison (s : State) : State :=
  let s1 := bump (sawPoison s) 0xFF 0x118
  s1.setMem { s1.mem with poison := s1.mem.poison.filter fun w => !readMark s w }

/-- The line of a host window with its poisoned words goes to the host: a TLP is sent with its poisoned bit set (Table 15.2). -/
def hostWriteLine (s : State) (p off ln : Nat) (bs : List Byte) : State :=
  let s1 := hostWrite s p off bs
  if (s.port p).lost || !(s.mem.poison.any fun w => w / 16 == ln) then s1
  else metPoison { s1 with out := s1.out ++ [.poisonedWrite p ((s.port p).winBase + off)] }

/-- The line of a host window in the system cache (R77). -/
def heldLine (s : State) (pa : Nat) : Option HostLine := tget? s.mem.lines (pa / 128)

/-- A line of a host window taken into the system cache, fetched from the host unless it is held (R77). -/
def hostLine (s : State) (pa : Nat) : HostLine × State :=
  match heldLine s pa, paKind (pa / 128 * 128) with
  | some l, _ => (l, s)
  | none, .host p off =>
    let l : HostLine := ⟨hostRead s p off 128, false⟩
    (l, s.setMem { s.mem with lines := tset s.mem.lines (pa / 128) l })
  | none, _ => (⟨[], false⟩, s)

/-- The set of a line in its home slice: bits [21:11] of its address (R532). -/
def cacheSet (ln : Nat) : Nat := ln / 16 % 2048

/-- Two lines lie in one set of one slice. -/
def sameSet (a b : Nat) : Bool := homeSlice (a * 128) == homeSlice (b * 128) && cacheSet a == cacheSet b

/-- The ways that a line may use (R174, R532): a weight stream write those of the stream partition, which are the lowest
STREAM_WAYS (DESIGN CHOICE, log entry 108), every other allocation the others; never one that R476 disabled. -/
def waysFor (s : State) (ln : Nat) (stream : Bool) : List Nat :=
  let w := s.cfg.streamWays
  (List.range 16).filter fun k => (w == 0 || decide (k < w) == stream) && !s.mem.ways.contains (homeSlice (ln * 128), cacheSet ln, k)

/-- A word's data could not be kept (R464): DATA_SUSPECT. -/
def suspectData (s : State) : State := { s with avail := { s.avail with dataSuspect := true } }

/-- A line evicted from the system cache: a host window page's dirty line goes to the host (R77); a line of DRAM keeps its
poison marks there only with inline ECC, and written back without it loses them on record (R464). -/
def evictLine (s : State) (e : CLine) : State :=
  let s1 := s.setMem { s.mem with cache := s.mem.cache.filter fun x => x.line != e.line }
  match paKind (e.line * 128) with
  | .host p off =>
    let s2 := match tget? s1.mem.lines e.line with
      | some l => if l.dirty then hostWriteLine s1 p off e.line l.data else s1
      | none => s1
    s2.setMem { s2.mem with
      lines := tdrop s2.mem.lines (· == e.line)
      poison := s2.mem.poison.filter fun w => w / 16 != e.line }
  | _ =>
    let bad := s1.mem.poison.filter fun w => w / 16 == e.line
    if bad = [] ∨ s1.cfg.inlineEcc then s1
    else
      let s2 := s1.setMem { s1.mem with poison := s1.mem.poison.filter fun w => w / 16 != e.line }
      if e.dirty then bad.foldl (fun s _ => recordError s 0x12 (0x60 + homeSlice (e.line * 128)) 4 (e.line * 128)) (suspectData s2)
      else s2

/-- The line that leaves for a new one in its set: the least recently used in the stream partition, else a free choice, the
manual defining no order (R174, R532). -/
def cacheVictim (s : State) (full : List CLine) (lru : Bool) : Option CLine × State :=
  if lru then (full.getLast?, s)
  else
    let (x, s1) := drawFree s
    (full[x.toNat % full.length]?, s1)

/-- A line served by its home slice: it is held there from now on, in a way that it may use (R26, R173, R532). Where every
such way is disabled the line is served without being held, a host window's at the host (DESIGN CHOICE, log entry 108). -/
def touchLine (s : State) (ln : Nat) (stream write : Bool) : State :=
  match s.mem.cache.find? fun e => e.line == ln with
  | some e => s.setMem { s.mem with cache := { e with dirty := e.dirty || write } :: s.mem.cache.filter fun x => x.line != ln }
  | none =>
    let mine := s.mem.cache.filter fun e => sameSet e.line ln
    let ws := waysFor s ln stream
    match ws.find? fun k => mine.all fun e => e.way != k with
    | some k => s.setMem { s.mem with cache := ⟨ln, k, write⟩ :: s.mem.cache }
    | none =>
      match cacheVictim s (mine.filter fun e => ws.contains e.way) (stream && s.cfg.streamWays != 0) with
      | (none, s1) => s1
      | (some v, s1) =>
        let s2 := evictLine s1 v
        s2.setMem { s2.mem with cache := ⟨ln, v.way, write⟩ :: s2.mem.cache }

/-- A line is in the system cache or finds a free way there, so that serving it evicts nothing. -/
def cacheRoom (s : State) (ln : Nat) (stream : Bool) : Bool :=
  (s.mem.cache.any fun e => e.line == ln)
    || (waysFor s ln stream).any fun k => (s.mem.cache.filter fun e => sameSet e.line ln).all fun e => e.way != k

/-- Accesses to an address go through the system cache: DRAM, and a cached host window page while its link is up. -/
def throughCache (s : State) (cached : Bool) (pa : Nat) : Bool :=
  match paKind pa with
  | .dram => true
  | .host p _ => cached && !(s.port p).lost
  | .reserved => false

/-- The system cache holds a line. -/
def inCache (s : State) (ln : Nat) : Bool := s.mem.cache.any fun e => e.line == ln

/-- A read of a line at its home slice: the line is held there, a host window's fetched from the host. -/
def sliceRead (s : State) (cached : Bool) (ln : Nat) : State :=
  if !throughCache s cached (ln * 128) then s
  else
    let s1 := touchLine s ln false false
    match paKind (ln * 128) with
    | .host _ _ => if inCache s1 ln then (hostLine s1 (ln * 128)).2 else s1
    | _ => s1

/-- Bytes of physical memory, all inside one 128-byte line: a cached access to a host window finds those of a line that the
system cache holds, and any other access those of the host (R77, R78). -/
def physRead1 (s : State) (cached : Bool) (pa n : Nat) : List Byte :=
  match paKind pa with
  | .dram => s.mem.dram.read pa n
  | .host p off =>
    match (if cached && !(s.port p).lost then heldLine s pa else none) with
    | some l => (l.data.drop (pa % 128)).take n
    | none => hostRead s p off n
  | .reserved => List.replicate n 0

/-- Poison marks of the words that a write of `n` bytes at `pa` covers whole are cleared (R464). -/
def clearPoison (m : MemSys) (pa n : Nat) : MemSys :=
  { m with poison := m.poison.filter fun w => !(decide (pa ≤ w * 8) && decide (w * 8 + 8 ≤ pa + n)) }

/-- A line leaves every L1 but the writer's; a fill of it in progress will not install (R26, R85). -/
def Core.dropLine (c : Core) (ln : Nat) : Core :=
  { c with
    l1 := c.l1.filter fun e => e.2 != ln
    demand := tmap c.demand fun _ f => if f.line = ln then { f with dropped := true } else f
    prefetch := tmap c.prefetch fun _ f => if f.line = ln then { f with dropped := true } else f }

def invalidateLine (s : State) (writer : Option Nat) (ln : Nat) : State :=
  { s with cores := tmap s.cores fun k c => if some k = writer then c else c.dropLine ln }

/-- Bytes written to physical memory, all inside one line (R26, R77, R78): the write takes effect at the home slice,
and every other L1 drops the line. -/
def physWrite1 (s : State) (writer : Option Nat) (cached : Bool) (pa : Nat) (bs : List Byte) : State :=
  match paKind pa with
  | .dram =>
    let s1 := s.setMem { clearPoison s.mem pa bs.length with dram := s.mem.dram.write pa bs }
    invalidateLine s1 writer (pa / 128)
  | .host p off =>
    if cached && !(s.port p).lost && inCache s (pa / 128) then
      let (l, s1) := hostLine s pa
      let s2 := s1.setMem { clearPoison s1.mem pa bs.length with
        lines := tset s1.mem.lines (pa / 128) ⟨putAt l.data (pa % 128) bs, true⟩ }
      invalidateLine s2 writer (pa / 128)
    else if cached then invalidateLine (hostWrite s p off bs) writer (pa / 128)
    else hostWrite s p off bs
  | .reserved => s

/-- How many bytes of a range of `n` from `a` lie before the next multiple of `step`. -/
def chunkLen (step a n : Nat) : Nat := min n (step - a % step)

/-- Physical bytes over several lines (`fuel` bounds the number of lines), read at their home slices. -/
def physReadN : Nat → State → Bool → Nat → Nat → List Byte × State
  | 0, s, _, _, _ => ([], s)
  | fuel + 1, s, cached, pa, n =>
    if n = 0 then ([], s)
    else
      let k := chunkLen 128 pa n
      let s1 := sliceRead s cached (pa / 128)
      let (r, s2) := physReadN fuel s1 cached (pa + k) (n - k)
      (physRead1 s1 cached pa k ++ r, s2)

def physRead (s : State) (cached : Bool) (pa n : Nat) : List Byte × State := physReadN (n / 128 + 2) s cached pa n

/-- A write inside one line at its home slice, which holds the line from then on (R26). -/
def sliceWrite (s : State) (writer : Option Nat) (cached stream : Bool) (pa : Nat) (bs : List Byte) : State :=
  physWrite1 (if throughCache s cached pa then touchLine s (pa / 128) stream true else s) writer cached pa bs

def physWriteN : Nat → State → Bool → Bool → Nat → List Byte → State
  | 0, s, _, _, _, _ => s
  | fuel + 1, s, cached, stream, pa, bs =>
    if bs = [] then s
    else
      let k := chunkLen 128 pa bs.length
      physWriteN fuel (sliceWrite s none cached stream pa (bs.take k)) cached stream (pa + k) (bs.drop k)

/-- Physical bytes written over several lines; `stream`: by a weight stream (R174). -/
def physWriteAs (s : State) (cached stream : Bool) (pa : Nat) (bs : List Byte) : State :=
  physWriteN (bs.length / 128 + 2) s cached stream pa bs

def physWrite (s : State) (cached : Bool) (pa : Nat) (bs : List Byte) : State := physWriteAs s cached false pa bs

/-- Physical bytes that a unit of the device reads by an object's own address: a line of a host window that the system cache
holds answers, and else the host (R27; DESIGN CHOICE, log entry 14). -/
def devReadN : Nat → State → Nat → Nat → List Byte × State
  | 0, s, _, _ => ([], s)
  | fuel + 1, s, pa, n =>
    if n = 0 then ([], s)
    else
      let k := chunkLen 128 pa n
      let c := (heldLine s pa).isSome
      let s1 := sliceRead s c (pa / 128)
      let (r, s2) := devReadN fuel s1 (pa + k) (n - k)
      (physRead1 s1 c pa k ++ r, s2)

def devRead (s : State) (pa n : Nat) : List Byte × State := devReadN (n / 128 + 2) s pa n

/-- A write inside one line that a unit of the device makes by an object's own address: to DRAM through the system cache, to a
host window at the host, and a line of it that the system cache holds takes the bytes too (R27; DESIGN CHOICE, log entry 14). -/
def devWrite1 (s : State) (pa : Nat) (bs : List Byte) : State :=
  let s1 := sliceWrite s none false false pa bs
  match heldLine s1 pa with
  | some l =>
    let s2 := s1.setMem { clearPoison s1.mem pa bs.length with
      lines := tset s1.mem.lines (pa / 128) { l with data := putAt l.data (pa % 128) bs } }
    invalidateLine s2 none (pa / 128)
  | none => s1

def devWriteN : Nat → State → Nat → List Byte → State
  | 0, s, _, _ => s
  | fuel + 1, s, pa, bs =>
    if bs = [] then s
    else
      let k := chunkLen 128 pa bs.length
      devWriteN fuel (devWrite1 s pa (bs.take k)) (pa + k) (bs.drop k)

def devWrite (s : State) (pa : Nat) (bs : List Byte) : State := devWriteN (bs.length / 128 + 2) s pa bs

/-- Whether a fabric port of Table 1.3, numbered in its order from SP0, has bulk requests: the Chipper ports for transfer jobs,
GP for the copy path and the digest engine, a host port while its link is up. -/
def bulkWaits (s : State) (port : Nat) : Bool :=
  let job := fun e => (tget s.engines e .reset).cur.isSome && (tget s.engines e .reset).seg.isNone
  if port = 10 then job 0 || job 1
  else if port = 11 then job 2 || job 3
  else if port = 12 then s.sched.copying.isSome || !s.lanes.isEmpty
  else decide (13 ≤ port ∧ port < 16) && (s.port (port - 13)).up

/-- Bulk requests of a port have been served: those counted as normal ones are gone (R24). -/
def bulkServed (s : State) (port : Nat) : State :=
  s.setMem { s.mem with promoted := s.mem.promoted.filter fun e => e.2 != port }

/-- An object's name by its live generation (R300). -/
def nameLive (s : State) (o g : Nat) : Bool := (s.obj o).st == .live && (s.obj o).gen == g

/-- Whether the bytes of an object can be reached at all: the slot holds the generation, and a HOST object's window
is enabled (or its port lost, when writes are discarded). -/
def objReachable (s : State) (o gen : Nat) : Bool :=
  let x := s.obj o
  x.st != .free && x.gen == gen && paReachable s x.base

/-- Bytes written by the device into an object, dropped when it cannot be reached (R291, R308). Device writes to HOST
objects go to the host (log entry 14). -/
def objWrite (s : State) (o gen off : Nat) (bs : List Byte) : State :=
  if objReachable s o gen then devWrite s ((s.obj o).base + off) bs else s

end Sys2Proof.Machine
end

