-- ==== Sys2Proof/Machine/Translate.lean ====
section
/-! DEFINITION. Address translation (R293 to R297, R21) and accesses through it, with the faults they raise. -/

namespace Sys2Proof.Machine

/-- Fault codes (Table 9.8). -/
def cPageFault : Nat := 0x0001
def cStaleObject : Nat := 0x0002
def cBarrierStranded : Nat := 0x0003
def cIllegal : Nat := 0x0004
def cWatchdog : Nat := 0x0005
def cEcc : Nat := 0x0006
def cFencePoisoned : Nat := 0x0007
def cHostGone : Nat := 0x0008

/-- ECC_UNCORRECTED details (Table 15.9). -/
def eRegister : Nat := 1
def eTile : Nat := 2
def eWeight : Nat := 3
def eMemory : Nat := 4
def eSaveState : Nat := 5
def eUnitLost : Nat := 6
def eEngine : Nat := 7

/-- The part of a fault that the access decides: code, detail, address, direction, object and generation. -/
structure AccFault where
  code : Nat
  detail : Nat
  addr : Nat
  write : Bool
  obj : Nat
  gen : Nat
  deriving DecidableEq, Repr

def pageFault (va : Nat) (w : Bool) : AccFault := ⟨cPageFault, 0, va, w, 0, 0⟩
def staleFault (va : Nat) (w : Bool) (o g : Nat) : AccFault := ⟨cStaleObject, 0, va, w, o, g⟩
def eccFault (va : Nat) (w : Bool) : AccFault := ⟨cEcc, eMemory, va, w, 0, 0⟩
def illegalFault (d : Nat) : AccFault := ⟨cIllegal, d, 0, false, 0, 0⟩

/-- A tenant's right on an object: 3 owner, 2 READ_WRITE, 1 READ, 0 none. -/
def objRight (x : Obj) (t : Nat) : Nat := if x.owner = t then 3 else tget x.shares t 0

/-- Bytes that a leaf at a level maps (R295). -/
def leafBytes (level : Nat) (p64 : Bool) : Nat :=
  if level = 2 then 2 ^ 30 else if level = 1 then 2 ^ 21 else if p64 then 2 ^ 16 else 2 ^ 12

/-- The fields of a table entry (Table 9.9). -/
structure Pte where
  obj : Nat
  gen : Nat
  page : Nat
  rsv : Bool
  p64 : Bool
  cached : Bool
  write : Bool
  leaf : Bool
  valid : Bool

def Pte.ofNat (x : Nat) : Pte :=
  ⟨bitsOf x 63 48, bitsOf x 47 32, bitsOf x 31 8, bitsOf x 7 5 != 0, bitOf x 4, bitOf x 3, bitOf x 2, bitOf x 1, bitOf x 0⟩

/-- A leaf entry checked against its object (R296): the TLB entry it makes. -/
def leafEntry (s : State) (c : Nat) (x : Ctx) (va level : Nat) (w : Bool) (e : Pte) : Except AccFault TlbEntry :=
  let o := s.obj e.obj
  let len := leafBytes level e.p64
  let page := if e.p64 && level == 0 then e.page / 16 * 16 else e.page
  let right := objRight o x.tenant
  if o.st = .free ∨ o.gen ≠ e.gen then .error (staleFault va w e.obj e.gen)
  else if e.p64 && level != 0 then .error (pageFault va w)
  else if (level = 2 ∧ page % 262144 ≠ 0) ∨ (level = 1 ∧ page % 512 ≠ 0) then .error (pageFault va w)
  else if o.size < page * 4096 + len then .error (pageFault va w)
  else if right = 0 ∨ (e.cached && !o.host) then .error (pageFault va w)
  else if w && (!e.write || right == 1) then .error (pageFault va w)
  else .ok ⟨c, va / len * len, len, o.base + page * 4096, e.write && right != 1, e.cached, e.obj⟩

/-- The walk from a table page at a level downward (R293, R296): the TLB entry it makes, and the entries it reads. -/
def walkFrom : Nat → State → Nat → Ctx → Nat → Bool → Nat → Nat → Nat → Except AccFault (TlbEntry × List Nat)
  | level, s, c, x, va, w, tObj, tGen, tPage =>
    let o := s.obj tObj
    if o.st = .free ∨ o.gen ≠ tGen then .error (staleFault va w tObj tGen)
    else if o.host ∨ o.size < tPage * 4096 + 4096 ∨ objRight o x.tenant = 0 then .error (pageFault va w)
    else
      let pa := o.base + tPage * 4096 + 8 * (va / 2 ^ (12 + 9 * level) % 512)
      if (poisonedWord s pa 8).isSome then .error (eccFault va w)
      else
        let e := Pte.ofNat (s.mem.dram.nat pa 8)
        if !e.valid || e.rsv then .error (pageFault va w)
        else
          match level with
          | 0 => if e.leaf then (leafEntry s c x va 0 w e).map (·, [pa]) else .error (pageFault va w)
          | n + 1 =>
            if e.leaf then (if n + 1 = 3 then .error (pageFault va w) else (leafEntry s c x va (n + 1) w e).map (·, [pa]))
            else if e.write || e.cached || e.p64 then .error (pageFault va w)
            else (walkFrom n s c x va w e.obj e.gen e.page).map fun r => (r.1, pa :: r.2)

/-- The walk of a context for a virtual address. -/
def walk (s : State) (c va : Nat) (w : Bool) : Except AccFault (TlbEntry × List Nat) :=
  let x := s.ctx c
  walkFrom 3 s c x va w x.rootObj x.rootGen x.rootPage

/-- A TLB entry that translates an address of a context. -/
def tlbHit (s : State) (c va : Nat) : Option TlbEntry :=
  s.mem.tlb.find? fun e => e.ctx == c && decide (e.va ≤ va ∧ va < e.va + e.len)

/-- The translation in use for an address: a TLB entry as it stands (R297), else the walk's, which is installed. The
address faults with PAGE_FAULT when its bits [63:48] are not 0 (R114). The entries that a walk reads come through the system
cache (R293). -/
def xlate (s : State) (c va : Nat) (w : Bool) : Except AccFault (TlbEntry × State) :=
  if 2 ^ 48 ≤ va then .error (pageFault va w)
  else
    match tlbHit s c va with
    | some e => if w && !e.write then .error (pageFault va w) else .ok (e, s)
    | none =>
      match walk s c va w with
      | .error f => .error f
      | .ok (e, pas) =>
        let s1 := pas.foldl (fun s pa => sliceRead s false (pa / 128)) s
        .ok (e, s1.setMem { s1.mem with tlb := s1.mem.tlb ++ [e] })

/-- What an access resolves to: physical address, whether a host window page is cached, and the mapped page. -/
structure Place where
  pa : Nat
  cached : Bool
  host : Bool
  lo : Nat
  hi : Nat
  deriving DecidableEq, Repr

def TlbEntry.place (e : TlbEntry) (va : Nat) : Place :=
  let pa := e.pa + (va - e.va)
  ⟨pa, e.cached, match paKind pa with
    | .host _ _ => true
    | _ => false, e.pa, e.pa + e.len⟩

/-- Translate an access of any width inside one page, with the check of R21. -/
def locate (s : State) (c va : Nat) (w : Bool) : Except AccFault (Place × State) :=
  match xlate s c va w with
  | .error f => .error f
  | .ok (e, s1) =>
    let p := e.place va
    if paReachable s1 p.pa then .ok (p, s1) else .error (pageFault va w)

/-- The place without installing anything. -/
def locate? (s : State) (c va : Nat) (w : Bool) : Option Place :=
  match locate s c va w with
  | .error _ => none
  | .ok (p, _) => some p

/-- Virtual bytes read by a unit of the device, page by page; a poisoned word faults (R465). -/
def vreadN : Nat → State → Nat → Nat → Nat → Except AccFault (List Byte × State)
  | 0, s, _, _, _ => .ok ([], s)
  | fuel + 1, s, c, va, n =>
    if n = 0 then .ok ([], s)
    else
      match locate s c va false with
      | .error f => .error f
      | .ok (p, s1) =>
        let k := chunkLen 4096 va n
        match poisonedWord s1 p.pa k with
        | some w => .error (eccFault (va + (w * 8 - p.pa)) false)
        | none =>
          let (b, s2) := physRead s1 p.cached p.pa k
          match vreadN fuel s2 c (va + k) (n - k) with
          | .error f => .error f
          | .ok (r, s3) => .ok (b ++ r, s3)

def vread (s : State) (c va n : Nat) : Except AccFault (List Byte × State) := vreadN (n / 4096 + 2) s c va n

/-- Virtual bytes written by a unit of the device, page by page; bytes before a page that faults stay written. `stream`: by a
weight stream (R174). -/
def vwriteN (stream : Bool) : Nat → State → Nat → Nat → List Byte → State × Option AccFault
  | 0, s, _, _, _ => (s, none)
  | fuel + 1, s, c, va, bs =>
    if bs = [] then (s, none)
    else
      match locate s c va true with
      | .error f => (s, some f)
      | .ok (p, s1) =>
        let k := chunkLen 4096 va bs.length
        vwriteN stream fuel (physWriteAs s1 p.cached stream p.pa (bs.take k)) c (va + k) (bs.drop k)

def vwrite (s : State) (c va : Nat) (bs : List Byte) : State × Option AccFault :=
  vwriteN false (bs.length / 4096 + 2) s c va bs

def vwriteStream (s : State) (c va : Nat) (bs : List Byte) : State × Option AccFault :=
  vwriteN true (bs.length / 4096 + 2) s c va bs

/-- A range of virtual addresses translated page by page without access (twld at issue, R126). -/
def vcheckN : Nat → State → Nat → Nat → Nat → Bool → Except AccFault State
  | 0, s, _, _, _, _ => .ok s
  | fuel + 1, s, c, va, n, w =>
    if n = 0 then .ok s
    else
      match locate s c va w with
      | .error f => .error f
      | .ok (_, s1) => let k := chunkLen 4096 va n; vcheckN fuel s1 c (va + k) (n - k) w

def vcheck (s : State) (c va n : Nat) (w : Bool) : Except AccFault State := vcheckN (n / 4096 + 2) s c va n w

/-- TLB entries of a context over a range removed; `n` = 0 means the whole address space (R297, R314). -/
def tlbDrop (s : State) (c va n : Nat) : State :=
  s.setMem { s.mem with tlb := s.mem.tlb.filter fun e =>
    !(e.ctx == c && (n == 0 || (decide (e.va < va + n) && decide (va < e.va + e.len)))) }

/-- TLB entries made from a table entry that names an object removed, in every context (R302). -/
def tlbDropObj (s : State) (o : Nat) : State :=
  s.setMem { s.mem with tlb := s.mem.tlb.filter fun e => e.obj != o }

end Sys2Proof.Machine
end

