-- ==== Sys2Proof/Machine/Session.lean ====
section
/-! DEFINITION. What a Ringmark session computes and writes (R192, R195, R196, R201). -/

namespace Sys2Proof.Machine

def chunkBytes : Nat := 1048576
def State.session? (s : State) (i : Nat) : Option Session := tget? s.sessions i
def setSession (s : State) (i : Nat) (x : Session) : State := { s with sessions := tset s.sessions i x }

/-- tree_digest from the leaf digests in order (R195). -/
def treeTop (leaves : List (List Byte)) : List Byte := sha256 leaves.flatten

/-- The leaves of a stream of `len` bytes whose chunk digests lie at `base` and above, when all are there. -/
def leavesOf (t : Tbl (List Byte)) (base len : Nat) : Option (List (List Byte)) :=
  (List.range (ceilDiv len chunkBytes)).mapM fun k => tget? t (base + k)

/-- The digest of item `i`, when every chunk of it is hashed. -/
def Session.itemDigest (x : Session) (i : Nat) : Option (List Byte) :=
  match x.items[i]? with
  | none => none
  | some it => (leavesOf x.leaves (i * 4096) it.length).map treeTop

def Session.itemsDone (x : Session) : Bool := (List.range x.items.length).all fun i => (x.itemDigest i).isSome

/-- The maps in force for a session (R192). -/
def sessionMaps (s : State) (heritage : Bool) : Nat × Nat :=
  let m := if heritage then 2 ^ 16 else 2 ^ 48
  (s.maps.core.toNat % m, s.maps.tensor.toNat % m)

/-- The map list noted when a cut begins or restarts with an ordinal (R192). -/
def Session.noteMap (x : Session) (s : State) (ordinal : Nat) : Session :=
  let p := sessionMaps s x.heritage
  let same := match x.maps.getLast? with
    | some e => e.core == p.1 && e.tensor == p.2
    | none => false
  if same then x else { x with maps := x.maps ++ [⟨p.1, p.2, ordinal⟩] }

/-- The list completed at a close or a fault. -/
def Session.endMaps (x : Session) (s : State) : Session := if x.maps = [] then x.noteMap s 0 else x

/-- cause (R195): an item that is not hashed has a zero digest. -/
def Session.cause (x : Session) : List Byte :=
  sha256 (leBytes 1 1 ++ leBytes 1 (b2n x.heritage) ++ leBytes 2 x.items.length ++ leBytes 4 x.version ++ leBytes 4 x.build
    ++ leBytes 4 0
    ++ ((List.range x.items.length).zip x.items).flatMap (fun e =>
      leBytes 4 e.2.kind ++ leBytes 4 e.2.length ++ (x.itemDigest e.1).getD (List.replicate 32 0))
    ++ x.maps.flatMap (fun m => leBytes 8 m.core ++ leBytes 8 m.tensor ++ leBytes 4 m.first ++ leBytes 4 0)
    ++ leBytes 4 x.maps.length ++ leBytes 4 x.cuts
    ++ (if x.heritage then ql12T.flatMap (leBytes 2) else []))

/-- Slab digests in ascending ordinal, then slab: the order in which folds completed does not count (R195, R197). -/
def insertFold (f : Nat × Nat × List Byte) : List (Nat × Nat × List Byte) → List (Nat × Nat × List Byte)
  | [] => [f]
  | y :: r => if f.1 < y.1 ∨ (f.1 = y.1 ∧ f.2.1 < y.2.1) then f :: y :: r else y :: insertFold f r

/-- result (R195). -/
def Session.result (x : Session) : List Byte :=
  sha256 ((x.folds.foldr insertFold []).flatMap fun f => leBytes 4 f.1 ++ leBytes 1 f.2.1 ++ leBytes 3 0 ++ f.2.2)

/-- The record of Table 6.3. -/
def Session.recordBytes (x : Session) (s : State) (incomplete : Bool) : List Byte :=
  let fm := x.maps.headD ⟨0, 0, 0⟩
  let lm := x.maps.getLastD ⟨0, 0, 0⟩
  let head := leBytes 4 0x4E395243 ++ leBytes 1 1
    ++ leBytes 1 (b2n x.heritage + 2 * b2n (decide (1 < x.maps.length)) + 4 * b2n incomplete)
    ++ leBytes 2 x.maps.length ++ leBytes 4 x.version ++ leBytes 4 x.build ++ leBytes 8 fm.core ++ leBytes 8 fm.tensor
    ++ leBytes 8 lm.core ++ leBytes 8 lm.tensor ++ leBytes 4 x.cuts ++ leBytes 4 x.foldedCuts ++ leBytes 2 x.items.length
    ++ leBytes 6 0 ++ x.cause ++ x.result
  head ++ sha256 head ++ leBytes 4 s.maps.gen ++ leBytes 4 x.restarts ++ leBytes 8 x.hashed ++ leBytes 80 0

/-- A session gone: its queue holds none, and its chunks leave the lanes. -/
def dropSession (s : State) (i : Nat) : State :=
  { s with
    sessions := tdrop s.sessions (· == i)
    lanes := s.lanes.filter fun e => e.2.session != i
    queues := tmap s.queues fun _ q => if q.session = some i then { q with session := none } else q }

/-- The INCOMPLETE record of a session whose context faults (R201): written when RECORD translates to DRAM. -/
def abandonSession (s : State) (i : Nat) (x : Session) : State :=
  let s1 := match locate? s x.ctx x.record true with
    | some p => (match paKind p.pa with
      | .dram => physWrite s p.cached p.pa ((x.endMaps s).recordBytes s true)
      | _ => s)
    | none => s
  dropSession s1 i

/-- Every open session of a context abandoned (R201). -/
def abandonSessions (s : State) (c : Nat) : State :=
  s.sessions.foldl (fun s e => if e.2.ctx = c then abandonSession s e.1 e.2 else s) s

end Sys2Proof.Machine
end

