-- ==== Sys2Proof/Machine/Finals.lean ====
section
/-! DEFINITION. Status codes and final replies of the Flume (R414, Table 13.5), and how a graph run ends (R408, R424). -/

namespace Sys2Proof.Machine

/-- Status codes (Table 13.5). -/
def rOk : Nat := 0x00
def rBadOpcode : Nat := 0x10
def rBadLength : Nat := 0x11
def rBadParam : Nat := 0x12
def rNoSlot : Nat := 0x20
def rDenied : Nat := 0x21
def rBusy : Nat := 0x30
def rRefused : Nat := 0x31
def rVersion : Nat := 0x40
def rHostGone : Nat := 0x50
def rInternal : Nat := 0xF0

/-- A final reply, posted at once while Kreog runs, else when it runs again (R407, R408). -/
def lateOrNow (s : State) (x : LateReply) : State :=
  if s.ranger.up then postRecord s x.ch x.seq x.status x.detail x.tag 1 x.payload
  else { s with ranger := { s.ranger with late := s.ranger.late ++ [x] } }

/-- Final replies to every ACCEPTED request of an opcode on a slot, on whatever channel (R414). -/
def finalOn (s : State) (ch opcode arg status detail : Nat) (payload : List Byte) : State :=
  let c := s.channel ch
  let mine := c.accepted.filter fun a => a.opcode == opcode && a.arg == arg
  if mine = [] then s
  else
    let s1 := s.setChannel ch { c with accepted := c.accepted.filter fun a => !(a.opcode == opcode && a.arg == arg) }
    mine.foldl (fun s a => lateOrNow s ⟨ch, a.seq, status, detail, a.tag, payload⟩) s1
def finalAll (s : State) (opcode arg status detail : Nat) (payload : List Byte) : State :=
  (List.range 17).foldl (fun s ch => finalOn s ch opcode arg status detail payload) s

/-- The final payload of a graph run (Table 13.12). -/
def graphPayload (r : GraphRun) (ends : Nat) : List Byte :=
  leBytes 4 r.steps ++ leBytes 4 0 ++ leBytes 8 r.written ++ leBytes 1 ends ++ [0, 0, 0]

/-- A graph run ends with a reason other than its own end (R408, R424): its queue keeps no open session, and END of its
payload is a free value. -/
def endRun (s : State) (g status detail : Nat) : State :=
  match tget? s.ranger.graphs g with
  | none => s
  | some x => match x.run with
    | none => s
    | some r =>
      let s1 := { s with ranger := { s.ranger with graphs := tset s.ranger.graphs g { x with run := none } } }
      let s2 := match (s1.queue x.queue).session with
        | some i => dropSession s1 i
        | none => s1
      finalOn { s2 with freeTick := s2.freeTick + 1 } x.tenant 0x611 g status detail
        (if status = rRefused then graphPayload r (Config.free s2.freeTick).toNat else [])

/-- The runs of a context's graphs end (R424). -/
def endRunsOf (s : State) (c status detail : Nat) : State :=
  s.ranger.graphs.foldl (fun s e => if e.2.ctx = c then endRun s e.1 status detail else s) s

end Sys2Proof.Machine
end

