-- ==== Sys2Proof/Machine/Cascade.lean ====
section
/-! DEFINITION. Faults of contexts and what fences do: taking a fault (R291, R292, R94, R334), signals, poison and the
end of waits (R320, R322, R327 to R329, R337, R338). One worklist carries what these cause in turn. -/

namespace Sys2Proof.Machine

/-- The terminal value (R319). -/
def terminal : DWord := BitVec.allOnes 64

/-- A fault on its way to a context (Table 9.6). -/
structure CtxFault where
  ctx : Nat
  acc : AccFault
  unit : Nat
  slot : Nat
  packet : Bool
  queue : Nat
  pc : Nat
  tag : Nat
  deriving DecidableEq, Repr

/-- On whose behalf a signal is made, and where a regression of it is recorded (Table 10.1). -/
inductive SigSrc where
  /-- A context source: context, LAST_SOURCE code, queue slot. -/
  | ctx (c code queue : Nat)
  /-- A tenant source made by the device. -/
  | tenant (t : Nat)
  /-- A host write to FENCE_SIGNAL: tenant and requester ID. -/
  | bar (t rid : Nat)
  /-- A Flume request: the reply tells. -/
  | flume
  deriving DecidableEq, Repr

/-- What a command causes beyond its own step. -/
inductive Act where
  | fault (f : CtxFault)
  | signal (src : SigSrc) (fence : Nat) (v : DWord)
  /-- A device-made signal, which needs SIGNAL_WAIT or OWNER (R327): the tenant, and the context when it is one's. -/
  | devSignal (src : SigSrc) (t : Nat) (c : Option Nat) (fence : Nat) (v : DWord)
  | poison (fence : Nat)
  /-- The fault of a FENCE_WAIT on a fence (R329). -/
  | waitFault (f : CtxFault) (fence : Nat)
  deriving DecidableEq, Repr

/-- A field of a context's status block written, on the device and in memory (R291, R344, R377). -/
def setBlock (s : State) (c off n v : Nat) : State :=
  let x := s.ctx c
  objWrite (s.setCtx c { x with block := x.block.writeNat off n v }) x.statObj x.statGen (x.statOff + off) (leBytes n v)

/-- A field of the status block. -/
def blockNat (s : State) (c off n : Nat) : Nat := (s.ctx c).block.nat off n

/-- A 4-byte count of the status block advanced, saturating (R344, R377). -/
def incBlock (s : State) (c off : Nat) : State := setBlock s c off 4 (min (blockNat s c off 4 + 1) 0xFFFFFFFF)

/-- The context state that bytes 64 to 67 hold. -/
def CtxSt.code : CtxSt → Nat
  | .free => 0
  | .live => 1
  | .faulted => 2
  | .resetting => 3
  | .destroying => 4

/-- A context moved to a state, its status block told (R291). -/
def setCtxSt (s : State) (c : Nat) (st : CtxSt) : State :=
  setBlock (s.setCtx c { s.ctx c with st := st }) c 64 4 st.code

/-- The oldest incomplete command of a queue. -/
def oldestCmd (s : State) (q : Nat) : Option (Nat × Cmd) := s.cmds.find? fun e => e.2.queue == q

/-- STATE of the report block. -/
def QueueSt.code : QueueSt → Nat
  | .free => 0
  | .live => 1
  | .stopped => 2
  | .draining => 3

/-- DONE_INDEX (Table 9.12). -/
def doneIndex (s : State) (q : Nat) : Nat :=
  match oldestCmd s q with
  | some (_, c) => c.index
  | none => (s.queue q).read

/-- The report block of a queue written (R308). -/
def report (s : State) (q : Nat) : State :=
  let x := s.queue q
  objWrite s x.repObj x.repGen x.repOff
    (leBytes 4 x.read ++ leBytes 4 (doneIndex s q) ++ leBytes 4 x.last ++ leBytes 2 x.st.code ++ [0, 0])

/-- A command completed: nothing is preempted for it or from it any more, and its queue's report follows. -/
def finishCmd (s : State) (id : Nat) : State :=
  match tget? s.cmds id with
  | none => s
  | some c =>
    let ps := s.sched.preempts.filter fun p => p.victim != id && p.waiter != id
    report { s with
      cmds := tdrop s.cmds (· == id)
      cuts := tdrop s.cuts (· == id)
      renders := tdrop s.renders (· == id)
      sched := { s.sched with
        preempts := ps
        binning := s.sched.binning.filter fun e => e.2 != id
        digests := s.sched.digests.filter (· != id) } } c.queue

/-- A wait's target is reached (R328, R338). -/
def Fence.reached (f : Fence) (target : Nat) : Bool :=
  if f.heritage then decide ((f.value.toNat % 2 ^ 32 + 2 ^ 32 - target % 2 ^ 32) % 2 ^ 32 < 2 ^ 31)
  else decide (target ≤ f.value.toNat)

/-- A tenant's right on a fence: 3 OWNER, 2 SIGNAL_WAIT, 1 WAIT, 0 none (R325). -/
def fenceRight (f : Fence) (t : Nat) : Nat :=
  if f.st = .free then 0 else if f.owner = t then 3 else tget f.grants t 0

/-- fwait ends with a status in DST (R118, R329). -/
def endFwait (s : State) (g : GroupAt) (status : Nat) : State :=
  let x := s.group g
  match x.wait with
  | .fence _ _ _ dst =>
    let y := { x.usetN false dst status with wait := .none, pc := x.pc + 8 }
    let s1 := s.setGroup g y
    if status = 1 then incBlock s1 x.ctx 132 else if status = 2 then incBlock s1 x.ctx 136 else s1
  | _ => s

/-- The status of a wait for a target as the fence stands, none when it goes on; poison comes first (R328). -/
def Fence.outcome (f : Fence) (target : Nat) : Option Nat :=
  if f.flag then some 1 else if f.reached target then some 0 else none

/-- A deadline that has passed. -/
def timedOut (s : State) (d : Option Nat) : Bool := match d with
  | some t => decide (t ≤ s.timer)
  | none => false

/-- The groups that wait on a fence in fwait. -/
def fwaiters (s : State) (f : Nat) : List (GroupAt × Nat) :=
  s.cores.foldr (fun e acc => (e.2.groups.filterMap fun ge => match ge.2.wait with
    | .fence n t _ _ => if n = f && ge.2.live then some (slotAt e.1 ge.1, t) else none
    | _ => none) ++ acc) []

def endFwaits (s : State) (f : Nat) : State :=
  (fwaiters s f).foldl (fun s e => match (s.fence f).outcome e.2 with
    | some st => endFwait s e.1 st
    | none => s) s

/-- The fault that ends a FENCE_WAIT (R329). -/
def waitFault (s : State) (q : Nat) (w : QWait) (code detail : Nat) : CtxFault :=
  let c := tget s.cmds w.cmd (.base .fenceWait q 0 0 0 0 0)
  ⟨(s.queue q).ctx, ⟨code, detail, 0, false, 0, 0⟩, 0xB1, 0xFF, true, q, c.index, c.tag⟩

/-- FENCE_WAITs of queues on a fence end (R329). -/
def endQwaits (s : State) (f : Nat) : State × List Act :=
  s.queues.foldl (fun (acc : State × List Act) e => match e.2.wait with
    | none => acc
    | some w =>
      if w.fence ≠ f then acc
      else match (acc.1.fence f).outcome w.target with
        | none => acc
        | some 0 => (finishCmd (acc.1.setQueue e.1 { acc.1.queue e.1 with wait := none }) w.cmd, acc.2)
        | some _ => (acc.1, acc.2 ++ [.waitFault (waitFault acc.1 e.1 w cFencePoisoned 0) f]))
    (s, [])

/-- A host wait ends with an outcome and its message (R343). -/
def endHostWait (s : State) (t k outcome : Nat) : State :=
  let x := s.tenant t
  let h := tget x.waits k .empty
  notifyTenant (s.setTenant t { x with waits := tset x.waits k { h with armed := false, outcome := outcome } }) t h.vector

/-- Armed host waits on a fence end. -/
def endHostWaits (s : State) (f : Nat) : State :=
  s.tenants.foldl (fun s e => e.2.waits.foldl (fun s he =>
    if he.2.armed && he.2.fence == f then
      match (s.fence f).outcome he.2.target with
      | some st => endHostWait s e.1 he.1 (st + 1)
      | none => s
    else s) s) s

/-- The tenant or context on whose behalf a device-made signal is made may signal (R327). -/
def mayDevSignal (s : State) (t : Nat) (c : Option Nat) (f : Nat) : Bool :=
  decide (2 ≤ fenceRight (s.fence f) t) || (match c with
    | some c => tget (s.fence f).binds c 0 == 2
    | none => false)

/-- Output `n`, and its unit number. -/
def State.output (s : State) (n : Nat) : Output := tget s.prism.outs n .reset
def State.setOutput (s : State) (n : Nat) (x : Output) : State :=
  { s with prism := { s.prism with outs := tset s.prism.outs n x } }
def uOut (n : Nat) : Nat := 0x94 + n

/-- Fields of a layer's registers (Tables 8.13 to 8.18). -/
def LayerRegs.enable (r : LayerRegs) : Bool := r.ctl.getLsbD 0
def LayerRegs.acqEn (r : LayerRegs) : Bool := r.enable && r.sync.getLsbD 47
def LayerRegs.acqFence (r : LayerRegs) : Nat := bitsOf r.sync.toNat 45 32
def LayerRegs.queueEn (r : LayerRegs) : Bool := r.enable && r.sync.getLsbD 10
def LayerRegs.queue (r : LayerRegs) : Nat := bitsOf r.sync.toNat 9 0

/-- The layers of a set that wait for an acquire fence. -/
def FlipSet.acquires (x : FlipSet) : List LayerRegs := (x.snap.map Prod.snd).filter LayerRegs.acqEn

/-- A flip set exists no longer; its deadline requests end with it (R256, Table 8.3). -/
def dropSet (s : State) (id : Nat) : State :=
  { s with
    prism := { s.prism with sets := s.prism.sets.filter fun x => x.id != id }
    sched := { s.sched with boosts := s.sched.boosts.filter fun b => b.set != id } }

/-- The end of a set recorded in its tenant's FLIP_LAST. -/
def noteLast (s : State) (x : FlipSet) (outcome : Nat) : State :=
  let p := tget s.prism.pages x.tenant .reset
  let q := { p with last := tset p.last x.output (x.tag, outcome, (s.output x.output).frame % 2 ^ 40) }
  { s with prism := { s.prism with pages := tset s.prism.pages x.tenant q } }

/-- The signal of a set's completion fence (R251, R253). -/
def FlipSet.signals (x : FlipSet) : List Act :=
  match x.done with
  | some f => [.devSignal (.tenant x.tenant) x.tenant none f x.value]
  | none => []

/-- A set fails (Table 8.3): its completion fence is poisoned, which asks for no right (R334). -/
def failSet (s : State) (x : FlipSet) : State × List Act :=
  (bump (noteLast (dropSet s x.id) x 3) (uOut x.output) 0x120, x.done.toList.map Act.poison)

/-- The signals of a fence worth keeping after one at `now`: those of the last two ticks and this one. No earlier one can
have taken effect less than 32 ns before a deadline still to come (R252). -/
def Fence.noteMove (f : Fence) (now : Nat) : List (Nat × DWord) :=
  (f.moves.filter fun e => decide (now ≤ e.1 + 2)) ++ [(now, f.value)]

/-- When the signal that brought a fence to a value took effect: the last one kept that found it below; 0 when it was longer
ago. -/
def Fence.reachedAt (f : Fence) (target : DWord) : Nat :=
  ((f.moves.filter fun e => decide (e.2 < target)).map Prod.fst).foldl max 0

/-- When the last of the signals that brought a set's acquire fences to their values took effect (R252). -/
def FlipSet.reachedAt (x : FlipSet) (s : State) : Nat :=
  (x.acquires.map fun r => (s.fence r.acqFence).reachedAt r.acq).foldl max 0

/-- A set whose acquire fences are all reached is READY; its requests are withdrawn. -/
def readySet (s : State) (x : FlipSet) : State :=
  { s with
    prism := { s.prism with sets := s.prism.sets.map fun (y : FlipSet) =>
      if y.id = x.id then { y with ready := true, readyAt := x.reachedAt s } else y }
    sched := { s.sched with boosts := s.sched.boosts.filter fun b => b.set != x.id } }

/-- A set as its acquire fences stand (Table 8.3, R252). -/
def evalSet (s : State) (x : FlipSet) : State × List Act :=
  if x.acquires.any fun r => (s.fence r.acqFence).flag then failSet s x
  else if !x.ready && x.acquires.all fun r => (s.fence r.acqFence).outcome r.acq.toNat == some 0 then (readySet s x, [])
  else (s, [])

/-- The armed sets that wait on a fence. -/
def endFlips (s : State) (f : Nat) : State × List Act :=
  s.prism.sets.foldl (fun (a : State × List Act) x =>
    if x.acquires.any fun r => r.acqFence == f then
      let (s1, more) := evalSet a.1 x
      (s1, a.2 ++ more)
    else a) (s, [])

/-- Every wait on a fence that its value or its poison satisfies ends (R328). -/
def endWaits (s : State) (f : Nat) : State × List Act :=
  let (s1, as) := endQwaits (endHostWaits (endFwaits s f) f) f
  let (s2, bs) := endFlips s1 f
  (s2, as ++ bs)

/-- What a signal does to a fence (R320, R337): the new fence when it moves, and whether it is a regression. -/
def Fence.signal (f : Fence) (v : DWord) : Option Fence × Bool :=
  if f.heritage then
    let c := f.value.toNat % 2 ^ 32
    let w := v.toNat % 2 ^ 32
    let d := (w + 2 ^ 32 - c) % 2 ^ 32
    if d = 0 then (none, false)
    else if f.flag || decide (2 ^ 31 ≤ d) then (none, true)
    else (some { f with value := BitVec.ofNat 64 w, adv := f.adv + d }, false)
  else if f.value < v then
    (some { f with
      value := v
      flag := v == terminal
      st := if v = terminal ∧ f.st = .live then .poisoned else f.st }, false)
  else (none, decide (v < f.value))

/-- A regression recorded (R322). -/
def regress (s : State) (src : SigSrc) (f : Nat) (v : DWord) : State :=
  match src with
  | .ctx c code q =>
    let s1 := incBlock s c 128
    let s2 := setBlock s1 c 144 2 f
    let s3 := setBlock s2 c 146 1 code
    let s4 := setBlock s3 c 148 2 q
    let s5 := setBlock s4 c 152 8 (s.fence f).value.toNat
    let s6 := setBlock s5 c 160 8 v.toNat
    let s7 := setBlock s6 c 168 8 s.timer
    postEventOn s7 (s.ctx c).tenant 1 (eventBytes 0xB2 c f v.toNat)
  | .tenant t => logPlain s t 0x8 (0x1000008 + 0x40 * f)
  | .bar t rid => logTenant s t ⟨0x8, true, rid, 0x1000008 + 0x40 * f, s.timer⟩
  | .flume => s

/-- A signal reaches a fence. -/
def applySignal (s : State) (src : SigSrc) (f : Nat) (v : DWord) : State × List Act :=
  let x := s.fence f
  if x.st = .free then (s, [])
  else match x.signal v with
    | (some y, _) => endWaits (s.setFence f { y with moves := x.noteMove s.timer }) f
    | (none, true) => (regress s src f v, [])
    | (none, false) => (s, [])

/-- A fence poisoned (R334): no effect when it already is. -/
def applyPoison (s : State) (f : Nat) : State × List Act :=
  let x := s.fence f
  if x.st = .live then
    endWaits (s.setFence f { x with
      st := .poisoned, flag := true, value := if x.heritage then x.value else terminal }) f
  else (s, [])

/-- The 64 bytes of a fault record (Table 9.6). -/
def faultRecord (s : State) (f : CtxFault) : List Byte :=
  leBytes 2 f.acc.code ++ leBytes 1 f.acc.detail ++ leBytes 1 f.unit ++ leBytes 1 f.slot
    ++ leBytes 1 (1 + 2 * b2n f.acc.write + 4 * b2n f.packet) ++ leBytes 2 f.queue ++ leBytes 8 f.pc
    ++ leBytes 8 f.acc.addr ++ leBytes 4 f.tag ++ leBytes 4 s.maps.gen ++ leBytes 8 s.timer ++ leBytes 4 0
    ++ leBytes 2 f.acc.obj ++ leBytes 2 f.acc.gen ++ List.replicate 16 0

/-- The whole fault record written. -/
def putRecord (s : State) (c : Nat) (bs : List Byte) : State :=
  let x := s.ctx c
  objWrite (s.setCtx c { x with block := x.block.write 0 bs }) x.statObj x.statGen x.statOff bs

/-- Waits of a context's groups and queues discarded without an outcome (R331). -/
def discardWaits (s : State) (c : Nat) : State :=
  { s with
    sched := { s.sched with saved := s.sched.saved.map fun e => { e with wgs := e.wgs.map fun w => (w.1, w.2.map fun g =>
      if g.ctx = c then (match g.wait with
        | .fence _ _ _ _ => { g with wait := .none }
        | _ => g) else g) } }
    cores := tmap s.cores fun _ k => { k with groups := tmap k.groups fun _ g =>
      if g.ctx = c then (match g.wait with
        | .fence _ _ _ _ => { g with wait := .none }
        | _ => g) else g }
    queues := tmap s.queues fun _ q => if q.ctx = c && q.st != .free then { q with wait := none } else q }

/-- Queues of a context that leaves LIVE stop fetching (Table 9.14). -/
def stopQueues (s : State) (c : Nat) : State :=
  s.queues.foldl (fun s e =>
    if e.2.ctx = c && e.2.st == .live then report (s.setQueue e.1 { s.queue e.1 with st := .stopped }) e.1 else s) s

/-- The fences that a context guards (R334). -/
def guarded (s : State) (c : Nat) : List Nat :=
  s.fences.filterMap fun e => if e.2.guard = some c && e.2.st == .live then some e.1 else none

/-- A fault reaches its context (Table 9.7, R291, R94): the first one stops it and is recorded, later ones are
counted, and those of a context that is being reset or destroyed are discarded. -/
def applyFault (s : State) (f : CtxFault) : State × List Act :=
  let x := s.ctx f.ctx
  match x.st with
  | .live =>
    let s0 := endRunsOf (abandonSessions s f.ctx) f.ctx rRefused 0x20FF
    let s1 := s0.setCtx f.ctx { x with faults := x.faults + 1 }
    let s2 := putRecord s1 f.ctx (faultRecord s1 f)
    let s3 := setCtxSt s2 f.ctx .faulted
    let s4 := stopQueues (discardWaits s3 f.ctx) f.ctx
    (s4, (match x.faultFence with
      | some n => [Act.devSignal (.ctx f.ctx 4 f.queue) x.tenant (some f.ctx) n
          (BitVec.ofNat 64 (if x.heritage then (x.faults + 1) % 2 ^ 32 else x.faults + 1))]
      | none => []) ++ (guarded s4 f.ctx).map Act.poison)
  | .faulted =>
    (setBlock (s.setCtx f.ctx { x with faults := x.faults + 1 }) f.ctx 40 4
      (min (blockNat s f.ctx 40 4 + 1) 0xFFFFFFFF), [])
  | _ => (s, [])

/-- One act carried out, with what it causes. -/
def applyAct (s : State) : Act → State × List Act
  | .fault f => applyFault s f
  | .signal src f v => applySignal s src f v
  | .devSignal src t c f v =>
    if mayDevSignal s t c f then applySignal s src f v
    else (logPlain s t 0x9 (0x1000008 + 0x40 * f), [])
  | .poison f => applyPoison s f
  | .waitFault f n => applyFault (if (s.ctx f.ctx).st = .live then setBlock s f.ctx 140 2 n else s) f

/-- Acts carried out in order, each one's consequences after those already waiting. -/
def settleN : Nat → List Act → State → State
  | 0, _, s => s
  | _ + 1, [], s => s
  | n + 1, a :: r, s => let (s1, more) := applyAct s a; settleN n (r ++ more) s1

/-- More acts than one cause can lead to: every context faults once, every fence is poisoned once, every wait ends
once. -/
def settleFuel : Nat := 65536

def settle (as : List Act) (s : State) : State := settleN settleFuel as s

/-- A fault of a context with all that follows from it. -/
def raise (s : State) (f : CtxFault) : State := settle [.fault f] s

end Sys2Proof.Machine
end

