-- ==== Sys2Proof/Machine/Trans.lean ====
section
/-! DEFINITION. exp2, log2, sin and cos (chapter 3, Transcendental): within 2 units in the last place of the exact
value, the choice among the codes within that bound left open (Config.transPick). The exact value is taken in fixed
point of `tp` fraction bits, which is finer than any bound that is tested against it. Special operands are those of
IEEE 754 (R152). -/

namespace Sys2Proof.Machine

/-- Fraction bits of the fixed-point reference. -/
def tp : Nat := 360

/-- Σ over odd powers of 1 ÷ (2k + 1) times y^(2k+1), in fixed point: atanh of y. `yy` is y², `pw` the power. -/
def atanhFrom : Nat → Nat → Nat → Nat → Nat → Nat
  | 0, _, _, _, acc => acc
  | n + 1, k, yy, pw, acc => atanhFrom n (k + 1) yy (pw * yy / 2 ^ tp) (acc + pw / (2 * k + 1))

/-- atanh of a fixed-point y with 0 ≤ y ≤ 1/3. -/
def atanhFix (y : Nat) : Nat := atanhFrom 120 0 (y * y / 2 ^ tp) y 0

/-- ln 2 in fixed point. -/
def ln2Fix : Nat := 2 * atanhFix (2 ^ tp / 3)

/-- Taylor terms of the exponential from term `k` on. -/
def expFrom : Nat → Nat → Nat → Nat → Nat → Nat
  | 0, _, _, _, acc => acc
  | n + 1, k, y, t, acc => expFrom n (k + 1) y (t * y / 2 ^ tp / k) (acc + t)

/-- e^y in fixed point, 0 ≤ y < 1. -/
def expFix (y : Nat) : Nat := expFrom 90 1 y (2 ^ tp) 0

/-- sin and cos of a fixed-point y below 1/8: two alternating series side by side. -/
def sinCosFrom : Nat → Nat → Int → Int → Int → Int → Int × Int
  | 0, _, _, _, s, c => (s, c)
  | n + 1, k, yy, t, s, c =>
    -- t is y^(2k) ÷ (2k)! with its sign; the sine term is formed by the caller's factor y
    let st := t / (2 * k + 1 : Nat)
    sinCosFrom n (k + 1) yy (-(t * yy / (2 ^ tp : Nat)) / ((2 * k + 1) * (2 * k + 2) : Nat)) (s + st) (c + t)

/-- Double the angle `n` times. -/
def doubleAngle : Nat → Int × Int → Int × Int
  | 0, p => p
  | n + 1, (s, c) =>
    let one : Int := (2 ^ tp : Nat)
    doubleAngle n (2 * s * c / one, one - 2 * s * s / one)

/-- sin and cos of mag × 2^exp for a value of at most 2^15. -/
def sinCosFix (mag : Nat) (exp : Int) : Int × Int :=
  let e := exp - 20 + tp
  let y : Int := if 0 ≤ e then (mag <<< e.toNat : Nat) else (mag >>> (-e).toNat : Nat)
  let yy := y * y / (2 ^ tp : Nat)
  let (s, c) := sinCosFrom 60 0 yy (2 ^ tp : Nat) 0 0
  doubleAngle 20 (s * y / (2 ^ tp : Nat), c)

/-- The code of a format-independent FP32 order: the neighbour `d` codes away of a positive or negative finite code,
kept inside the finite codes of its sign. -/
def stepCode (code : Nat) (d : Int) : Nat :=
  let s := code / 2 ^ 31 * 2 ^ 31
  let v : Int := ((code % 2 ^ 31 : Nat) : Int) + d
  s + (max 0 (min 0x7F800000 v)).toNat

/-- A result within 2 units in the last place of the fixed-point value v × 2^(−tp + up): the nearest code, or the
neighbour that Config.transPick names when that one lies within the bound. -/
def withinTwo (op : Nat) (a : BitVec 32) (v : Int) (up : Int) : Nat :=
  if v = 0 then 0
  else
    let neg := decide (v < 0)
    let m := v.natAbs
    let near := Fmt.f32.roundFin .near .toInf neg m (up - tp) true
    let cand := stepCode near ((Config.transPick op a % 5 : Nat) - 2 : Int)
    let ulp : Int := max (leadOf m (up - tp) - 23) (-149)
    let ok := match Fmt.f32.decode cand with
      | .fin n cm ce =>
        let e := min (min ce (up - tp)) ulp
        let d := Num.inUnits n cm ce e - Num.inUnits neg m (up - tp) e
        decide (d.natAbs ≤ (2 * 1 <<< (ulp - e).toNat : Nat))
      | _ => false
    if ok then cand else near

/-- exp2 of an FP32 code. -/
def f32Exp2 (a : Nat) : Nat :=
  match Fmt.f32.decode a with
  | .nan => Fmt.f32.nanCode
  | .inf s => if s then 0 else Fmt.f32.infCode
  | .fin s m e =>
    if m = 0 then Fmt.f32.ieee (.fin false 1 0)
    else if 8 ≤ leadOf m e then (if s then 0 else Fmt.f32.infCode)
    else
      -- the argument as an integer part n and a fraction in [0, 1)
      let w := e + tp
      let x : Int := if 0 ≤ w then (m <<< w.toNat : Nat) else (m >>> (-w).toNat : Nat)
      let v := if s then -x else x
      let n := v / (2 ^ tp : Nat)
      let f := (v % (2 ^ tp : Nat)).toNat
      withinTwo 0 (BitVec.ofNat 32 a) (expFix (f * ln2Fix / 2 ^ tp)) n

/-- log2 of an FP32 code. -/
def f32Log2 (a : Nat) : Nat :=
  match Fmt.f32.decode a with
  | .nan => Fmt.f32.nanCode
  | .inf s => if s then Fmt.f32.nanCode else Fmt.f32.infCode
  | .fin s m e =>
    if m = 0 then Fmt.f32.ieee (.inf true)
    else if s then Fmt.f32.nanCode
    else
      let l := Nat.log2 m
      let n : Int := (l : Int) + e
      let y := ((m - 2 ^ l) * 2 ^ tp) / (m + 2 ^ l)
      withinTwo 1 (BitVec.ofNat 32 a) (n * (2 ^ tp : Nat) + (2 * atanhFix y * 2 ^ tp / ln2Fix : Nat)) 0

/-- sin (op 2) or cos (op 3) of an FP32 code. -/
def f32Trig (op a : Nat) : Nat :=
  match Fmt.f32.decode a with
  | .nan => Fmt.f32.nanCode
  | .inf _ => Fmt.f32.nanCode
  | .fin s m e =>
    if m = 0 then (if op = 2 then Fmt.f32.signBit s else Fmt.f32.ieee (.fin false 1 0))
    else if Num.cmp (.fin false m e) (.fin false 1 15) = some .gt then canonF32 (Config.trigFar (op - 2) (BitVec.ofNat 32 a)).toNat
    else
      let (sn, cs) := sinCosFix m e
      withinTwo op (BitVec.ofNat 32 a) (if op = 2 then (if s then -sn else sn) else cs) 0

def opExp2 : ROp := trans 3 f32Exp2
def opLog2 : ROp := trans 4 f32Log2
def opSin : ROp := trans 5 (f32Trig 2)
def opCos : ROp := trans 6 (f32Trig 3)

end Sys2Proof.Machine
end

