-- ==== Sys2Proof/Machine/Shader.lean ====
section
/-! DEFINITION. How a group issues an instruction: when it is ready (chapter 2, Issue; R93, R130, R362), what fetch
checks (R98, R102, R111), how a fault is taken precisely (R92), and the shared frame of the register instructions. -/

namespace Sys2Proof.Machine

/-- Whether the group may issue: its slot holds a running group that waits for nothing, its context is LIVE, its work
is not being saved and none of its tensor instructions waits to be requeued. -/
def groupReady (s : State) (g : GroupAt) : Bool :=
  let c := s.core g.core
  let x := c.group g.slot
  x.live && x.wait == .none && x.active != 0 && (s.ctx x.ctx).st == .live
    && !(c.saving.contains (c.wgAt x.wg).cmd) && !(c.requeue.any fun e => e.gid == x.gid)

/-- The slots of pipeline `p` in the order of a class's turn (R54): from the one after the slot last issued from, wrapping;
before any issue from the pipeline's first (DESIGN CHOICE, log entry 101). -/
def Core.turn (c : Core) (p cls : Nat) : List Nat :=
  let l := tget c.lastSlot (2 * p + cls) 15
  (List.range 16).map fun i => 16 * p + (l + 1 + i) % 16

/-- The slot that the pipeline of a group issues from (R54, R55): a promoted group that is ready first, then the pass
groups, then the async groups, of those that are ready. -/
def pick (s : State) (g : GroupAt) : Option Nat :=
  let c := s.core g.core
  let p := g.slot / 16
  let ready := fun k => (k == g.slot || g.peers.getLsbD (k % 16)) && groupReady s (slotAt g.core k)
  let next := fun cls => (c.turn p cls).find? fun k => (c.group k).async == (cls == 1) && ready k
  (((List.range 16).map (16 * p + ·)).find? fun k => (c.group k).promoted && groupReady s (slotAt g.core k)).or
    ((next 0).or (next 1))

/-- The program of a group. -/
def groupProg (s : State) (g : GroupAt) : Prog := ((s.core g.core).wgAt (s.group g).wg).prog

/-- The instruction cache line of a core that holds a virtual address of a context (R76). -/
def icacheLine (s : State) (core c va : Nat) : Option ILine :=
  s.mem.icache.find? fun e => e.core == core && e.ctx == c && e.line == va / 128

/-- The 64-bit word of a line at an address. -/
def ILine.word (l : ILine) (va : Nat) : Nat := fieldAt l.data (va % 128) 8

/-- The instruction word at a program counter, as fetch would see it, has LONG set (bit 49); a word that cannot be read has
not. -/
def longAt (s : State) (core c : Nat) (p : Prog) (pc : Nat) : Bool :=
  let va := p.image + 64 + pc
  match icacheLine s core c va with
  | some l => bitOf (l.word va) 49
  | none =>
    match locate? s c va false with
    | some a => bitOf (leNat (physRead s a.cached a.pa 8).1) 49
    | none => false

/-- Whether `t` begins an instruction, found by decoding from `pos` on, at most `n` instructions (R111). -/
def boundaryFrom (long : Nat → Bool) : Nat → Nat → Nat → Bool
  | 0, pos, t => pos == t
  | n + 1, pos, t => if t ≤ pos then pos == t else boundaryFrom long n (pos + if long pos then 16 else 8) t

/-- A legal branch target of a program (R111): a multiple of 8 below CODE_SIZE that begins an instruction. -/
def okTarget (s : State) (core c : Nat) (p : Prog) (t : Nat) : Bool :=
  t % 8 == 0 && decide (t < p.codeSize) && boundaryFrom (longAt s core c p) (t / 8) 0 t

/-- The line of an instruction word: from the instruction cache, else read through the page tables and kept as it is read,
which later stores do not change (R76). -/
def fetchLine (s : State) (core c va : Nat) : Except AccFault (ILine × State) :=
  match icacheLine s core c va with
  | some l => .ok (l, s)
  | none =>
    match locate s c va false with
    | .error f => .error f
    | .ok (p, s1) =>
      let pa := p.pa / 128 * 128
      let r := physRead s1 p.cached pa 128
      let l : ILine := ⟨core, c, va / 128, r.1, (List.range 16).filter fun i => s1.mem.poison.contains (pa / 8 + i)⟩
      .ok (l, r.2.setMem { r.2.mem with icache := l :: r.2.mem.icache })

/-- One instruction word fetched; a word that was poisoned when its line was read faults (R465). -/
def fetchWord (s : State) (core c va : Nat) : Except AccFault (Nat × State) :=
  match fetchLine s core c va with
  | .error f => .error f
  | .ok (l, s1) => if l.bad.contains (va % 128 / 8) then .error (eccFault va false) else .ok (l.word va, s1)

/-- What issue finds. -/
inductive Issue where
  /-- The group does not issue now. -/
  | stall
  | fault (f : AccFault) (s : State)
  | go (s : State)

/-- The checks before an instruction whose first word satisfies `mine` acts, and its extension word where it has one: the
pipeline picks the group, its program counter and entry are legal (R98, R111), and fetch delivers its words. A group whose
next words are others does not issue this instruction. -/
def issueWith (s : State) (g : GroupAt) (mine : Nat → Bool) (ext : Option Nat) : Issue :=
  let x := s.group g
  let p := groupProg s g
  let va := p.image + 64 + x.pc
  if !groupReady s g || pick s g != some g.slot then .stall
  else if p.codeSize ≤ x.pc then .fault (illegalFault dBadTarget) s
  else if !okTarget s g.core x.ctx p p.entry then .fault (illegalFault dBadTarget) s
  else match fetchWord s g.core x.ctx va with
    | .error f => .fault f s
    | .ok (w, s1) =>
      if !mine w then .stall
      else match ext with
        | none => .go s1
        | some e =>
          if p.codeSize ≤ x.pc + 8 then .fault (illegalFault dUndefined) s1
          else match fetchWord s1 g.core x.ctx (va + 8) with
            | .error f => .fault f s
            | .ok (w2, s2) => if w2 = e then .go s2 else .stall

/-- The checks before an instruction of the words `code` acts. -/
def issueCheck (s : State) (g : GroupAt) (code : List Nat) : Issue :=
  issueWith s g (fun w => some w == code.head?) code[1]?

/-- The queue, tag and unit that a fault of a group carries. -/
def groupFaultOf (s : State) (g : GroupAt) (a : AccFault) : CtxFault :=
  let x := s.group g
  let id := ((s.core g.core).wgAt x.wg).cmd
  let cmd := tget s.cmds id (.base .dispatch 0xFFFF 0 0 0 0 0)
  ⟨x.ctx, a, g.core, g.slot, false, cmd.queue, x.pc, cmd.tag⟩

/-- A consumer met a poisoned word (R465, Table 15.6). -/
def notePoison (s : State) (a : AccFault) : State :=
  if a.code = cEcc ∧ a.detail = eMemory then metPoison s else s

/-- A precise fault of a group (R92): the instruction has no effect but the fault. -/
def groupFault (s : State) (g : GroupAt) (a : AccFault) : State := raise (notePoison s a) (groupFaultOf s g a)

/-- A second fault of a context in the cycle of its first (R94): it is counted, and where it came from a lower unit number, or
from a lower slot of the same unit, the record is its own. `t` is the state in which it would have been the first. -/
def secondFault (s t : State) (c : Nat) : State :=
  let x := s.ctx c
  let s1 := setBlock (s.setCtx c { x with faults := x.faults + 1 }) c 40 4 (min (blockNat s c 40 4 + 1) 0xFFFFFFFF)
  let s2 := if (t.ctx c).block.read 0 3 = leBytes 2 cEcc ++ leBytes 1 eMemory then metPoison s1 else s1
  let place := fun (u : State) => blockNat u c 3 1 * 256 + blockNat u c 4 1
  if blockNat s c 5 1 < 4 ∧ place t < place s then
    putRecord s2 c ((t.ctx c).block.read 0 40 ++ (s2.ctx c).block.read 40 4 ++ (t.ctx c).block.read 44 20)
  else s2

/-- The frame of every command of a group. One that issues in the cycle of another group's fault of its context, or of a
preemption request for its work, still takes a fault of its own: the fault of its context that is recorded is the lowest one
(R94), and a group that faults is not saved (R95). It does nothing else then. -/
def inCycle (s : State) (g : GroupAt) (f : State → State) : State :=
  if !g.same || groupReady s g then f s
  else
    let x := s.group g
    let c := s.core g.core
    let id := (c.wgAt x.wg).cmd
    let s0 := (s.setCore g.core { c with saving := c.saving.filter (· != id) }).setCtx x.ctx { s.ctx x.ctx with st := .live }
    let t := f { s0 with sched := { s0.sched with
      preempts := s0.sched.preempts.filter fun p => !(p.core == g.core && p.victim == id) } }
    if (t.ctx x.ctx).st ≠ .faulted then s
    else match (s.ctx x.ctx).st with
      | .live => t
      | .faulted => secondFault s t x.ctx
      | _ => s

/-- An issue counted (Table 2.13), a promotion used up (R55), and the pipeline's turn in the group's class moved on
(R54). -/
def countIssue (s : State) (g : GroupAt) : State :=
  let x := s.group g
  let c := s.core g.core
  let s0 := s.setCore g.core { c with lastSlot := tset c.lastSlot (2 * (g.slot / 16) + b2n x.async) (g.slot % 16) }
  let s1 := bump s0 g.core (if x.async then 0x108 else 0x100)
  if x.promoted then bump (s1.setGroup g { s1.group g with promoted := false }) g.core 0x118 else s1

/-- The register file word of a group slot's vector register in a lane. -/
def regWord (slot r l : Nat) : Nat := slot * 8192 + r * 32 + l

/-- An uncorrectable register file error in a register that the instruction reads (Table 15.1). -/
def badRead (c : Core) (slot : Nat) (rs : List Nat) (m : Mask) : Bool :=
  !c.badReg.isEmpty && rs.any fun r => (lanesOf m).any fun l => c.badReg.contains (regWord slot r l)

/-- A written register word holds no error any more (R466). -/
def healRegs (c : Core) (slot : Nat) (rs : List Nat) (m : Mask) : Core :=
  if c.badReg.isEmpty then c
  else { c with badReg := c.badReg.filter fun w =>
    !(rs.any fun r => (lanesOf m).any fun l => w == regWord slot r l) }

/-- The frame of an instruction that acts on its group alone: issue checks, then the instruction's own result, a
fault detail or the group after it. `rd` and `wr` are the vector registers it reads and writes. -/
def stepGroup (s : State) (g : GroupAt) (h : Head) (code rd wr : List Nat) (f : Prog → Group → Except Nat Group) : State :=
  inCycle s g fun s => match issueCheck s g code with
  | .stall => s
  | .fault a s1 => groupFault s1 g a
  | .go s1 =>
    let x := s1.group g
    match f (groupProg s1 g) x with
    | .error d => groupFault s1 g (illegalFault d)
    | .ok y =>
      if badRead (s1.core g.core) g.slot rd (x.guard h) then
        groupFault s1 g ⟨cEcc, eRegister, 0, false, 0, 0⟩
      else
        let s2 := countIssue s1 g
        let c := healRegs (s2.core g.core) g.slot wr (x.guard h)
        s2.setCore g.core (c.setGroup g.slot { y with promoted := false })

/-- The vector registers that the sources of a format R word name, and those of its destination. -/
def readsR (sh : RShape) (e : EncR) : List Nat :=
  srcRegs sh.a e.ka e.a ++ srcRegs sh.b e.kb e.b ++ srcRegs sh.c e.kc e.c
def writesR (sh : RShape) (e : EncR) : List Nat :=
  match sh.d with
  | .reg wide => if e.dk then [] else if wide then [e.dst.toNat, e.dst.toNat + 1] else [e.dst.toNat]
  | .pred => []

/-- A format R operation on its group. An undefined encoding and a register number out of range fault whatever the guard
(DESIGN CHOICE, log entry 34). -/
def stepR (op : ROp) (g : GroupAt) (e : EncR) (s : State) : State :=
  stepGroup s g e.h (e.code op.cls op.op) (readsR (op.shape e) e) (writesR (op.shape e) e) fun p x =>
    match checkR (op.shape e) (op.ok e) e p with
    | some d => .error d
    | none => .ok (runR (op.shape e) e (op.fn e) x)

/-- A format R operation with its own way of forming the group after it. -/
def stepRun (cls op : Nat) (sh : RShape) (ok : Bool) (run : EncR → Group → Group) (g : GroupAt) (e : EncR) (s : State) : State :=
  stepGroup s g e.h (e.code cls op) (readsR sh e) (writesR sh e) fun p x =>
    match checkR sh ok e p with
    | some d => .error d
    | none => .ok (run e x)

/-- The answer of a meaning that always completes. -/
def done (s : State) : Host.Outcome State Fault Refusal := .next s

end Sys2Proof.Machine
end

