-- ==== Sys2Proof/Machine/Barrier.lean ====
section
/-! DEFINITION. Workgroup barriers and the end of groups (R46, R59 to R63, R91, R116). -/

namespace Sys2Proof.Machine

/-- Lanes of a workgroup that have not exited. -/
def Core.wgAlive (c : Core) (w : Nat) : Nat :=
  ((c.slotsOf w).map fun k => popCount 32 (c.group k).alive.toNat).sum

/-- Lanes of a workgroup that have arrived at a barrier: those of a group count once the tensor instructions that it
issued before the bar have completed (R116). -/
def Core.wgWaiting (c : Core) (w b : Nat) : Nat :=
  ((c.slotsOf w).map fun k => popCount 32 ((c.group k).waitingAt b (c.tensorDone k)).toNat).sum

/-- Every group of a workgroup released from a barrier in the same step; the stranding counter restarts (R60, R63). -/
def Core.release (c : Core) (w b : Nat) : Core :=
  let c1 := (c.slotsOf w).foldl (fun c k => c.setGroup k ((c.group k).barrierRelease b)) c
  c1.setWg w { c1.wgAt w with strand := 0 }

/-- A barrier completes when every lane that has not exited waits at it (R59). -/
def Core.barrierEval (c : Core) (w : Nat) : Core :=
  (List.range 8).foldl (fun c b =>
    let n := c.wgWaiting w b
    if n ≠ 0 ∧ n = c.wgAlive w then c.release w b else c) c

/-- Stride detectors of a group slot invalidated (R91); the ranks of the valid ones left close up (log entry 103). -/
def Core.dropDets (c : Core) (slot : Nat) : Core :=
  let gone := c.dets.filter fun e => e.2.valid && e.2.slot == slot
  { c with dets := tmap c.dets fun _ d =>
      if d.valid && d.slot == slot then { d with valid := false, lru := 0 }
      else { d with lru := d.lru - (gone.filter fun e => decide (e.2.lru < d.lru)).length } }

/-- A group slot and its register blocks freed (R46). -/
def Core.freeGroup (c : Core) (k : Nat) : Core :=
  { c with groups := tdrop c.groups (· == k) }.dropDets k

/-- A command told that one of its workgroups has exited: a dispatch counts it, a render pass counts its position and
attribute groups by draw (WG_ID_Y). -/
def wgExited (s : State) (w : Wg) : State :=
  match tget? s.cmds w.cmd, tget? s.renders w.cmd with
  | some _, some r =>
    if w.prog.kind = 1 then
      { s with renders := tset s.renders w.cmd { r with posDone := tset r.posDone w.idY (tget r.posDone w.idY 0 + 1) } }
    else if w.prog.kind = 2 then
      { s with renders := tset s.renders w.cmd { r with attrDone := tset r.attrDone w.idY (tget r.attrDone w.idY 0 + 1) } }
    else s
  | some c, none => { s with cmds := tset s.cmds w.cmd { c with doneWgs := c.doneWgs + 1 } }
  | none, _ => s

/-- The outputs of one lane of a fragment group, keyed slot × 8 + component. -/
def laneOuts (o : FragOut) (l : Nat) : FragOut :=
  (o.filter fun e => e.1 / 1024 == l).map fun e => (e.1 % 1024, e.2)

/-- The outputs of a fragment group that ends go to its fragments (R218, R220); what its helper lanes held back goes on. -/
def Core.captureFrags (c : Core) (k : Nat) : Core :=
  match c.raster with
  | none => c
  | some r =>
    { c with raster := some { r with frags := r.frags.filterMap fun f => match f.home with
      | some (j, l) =>
        if j ≠ k then some f
        else if f.tested && f.cover == 0 then none
        else some { f with home := none, result := some (laneOuts (c.group k).outs l) }
      | none => some f } }

/-- A stage workgroup has exited: its scratch stays as the tile scratch, and the tile goes on (R158). Bad words of the
scratch are kept under the slot number 32 meanwhile. -/
def Core.endStage (c : Core) (slot : Nat) (w : Wg) : Core :=
  match c.run with
  | some r =>
    if w.stage then
      { c with
        scratch := w.scratch
        badTile := c.badTile.map fun x => if x / 65536 = slot then 32 * 65536 + x % 65536 else x
        run := some { r with step := match r.step with
          | .stage n _ => .staged n
          | x => x } }
    else c
  | none => c

/-- The scheduler's unit number for counters (R379). -/
def uSched : Nat := 0xB1

/-- A started command's record. -/
def cmdOf (s : State) (id : Nat) : Cmd := tget s.cmds id (.base .fenceWait 0xFFFF 0 0 0 0 0)

/-- Effective priority of the commands of a queue (R346). -/
def effPrio (s : State) (q : Nat) : Nat :=
  if s.sched.boosts.any fun b => b.queue == q then 8 else (s.queue q).prio

/-- A command's work is of the held class: its context is not LIVE (R346, R370). -/
def heldCmd (s : State) (id : Nat) : Bool := (s.ctx (cmdOf s id).ctx).st != .live

/-- Class of a command's work: 0 held, else 1 + its effective priority (Table 11.1). -/
def classOf (s : State) (id : Nat) : Nat := if heldCmd s id then 0 else 1 + effPrio s (cmdOf s id).queue

/-- A preemption whose trigger still holds (R354, R357): its work ranks below the work that waits, at most level with it for a
quantum. -/
def Preempt.inForce (s : State) (p : Preempt) : Bool := match p.cause with
  | .priority => decide (classOf s p.victim < classOf s p.waiter)
  | .quantum => decide (classOf s p.victim ≤ classOf s p.waiter) && classOf s p.victim != 9
  | .tile | .leaves => true

/-- The record of a preemption of a command's work on a core goes. -/
def dropStop (s : State) (core id : Nat) : State :=
  { s with sched := { s.sched with preempts := s.sched.preempts.filter fun p => !(p.core == core && p.victim == id) } }

/-- A command's work stops at a coarse boundary on a core: its preemption is done, the stop is counted in the scheduler's
counter at `off` and in the scheduling area at `area` (Tables 11.6 and 11.10), and what is left of it waits from now on (R349). -/
def stopMade (s : State) (core id off area : Nat) : State :=
  let s1 := dropStop s core id
  let s2 := match tget? s1.cmds id with
    | some c => { s1 with cmds := tset s1.cmds id { c with stopped := tset c.stopped core (2 * s1.nextCmd) } }
    | none => s1
  incBlock (bump s2 uSched off) (cmdOf s id).ctx area

/-- The commands that have work on a core. -/
def Core.cmdsOn (c : Core) : List Nat :=
  let ws := (List.range 32).filterMap fun k => if (c.wgAt k).live then some (c.wgAt k).cmd else none
  let all := match c.holder with
    | some i => i :: ws
    | none => ws
  all.foldl (fun acc i => if acc.contains i then acc else acc ++ [i]) []

/-- Coarse stops of a command on a core are reached: no workgroup of it is left there (Table 11.2). The count is of a
DRAW or DISPATCH boundary. -/
def stopReached (s : State) (core id : Nat) : State :=
  match s.sched.preempts.find? fun (p : Preempt) => p.core == core && p.victim == id && !p.instr with
  | some p =>
    if (s.core core).cmdsOn.contains id then s
    else if p.inForce s then stopMade s core id 0x100 72
    else dropStop s core id
  | none => s

/-- The groups of a workgroup whose last lane has exited are freed at once (R46); the workgroup slot, with its scratch, once
no group is left and every tensor instruction of the workgroup has completed (DESIGN CHOICE, log entry 34). -/
def endGroups (s : State) (core w : Nat) : State :=
  let c := s.core core
  let dead := (c.slotsOf w).filter fun k => (c.group k).alive == 0
  let c1 := dead.foldl (fun c k => (c.captureFrags k).freeGroup k) c
  if (c1.slotsOf w).isEmpty && (c.wgAt w).live && (c.tq ++ c.requeue).all fun e => e.wg != w then
    let c2 := { c1 with wgs := tdrop c1.wgs (· == w) }.endStage w (c.wgAt w)
    stopReached (wgExited (s.setCore core c2) (c.wgAt w)) core (c.wgAt w).cmd
  else s.setCore core c1

/-- What an exit or an arrival leads to in its workgroup: counters restart, barriers are evaluated again, groups
without a live lane end (R46, R59, R63). -/
def settleWg (s : State) (core w : Nat) : State :=
  let c := s.core core
  let c1 := (c.setWg w { c.wgAt w with strand := 0 }).barrierEval w
  endGroups (s.setCore core c1) core w

/-- BARRIER_STRANDED (R63): a workgroup with waiting lanes, none of its groups in fwait, and no progress for 2^20
cycles: its counter stands at 2^20 and its context faults. The record names the workgroup's lowest slot with waiting lanes
and that group's program counter (DESIGN CHOICE, log entry 104). -/
def execBarrierStranded (core wg : Nat) (s : State) : Host.Outcome State Fault Refusal :=
  let c := s.core core
  let w := c.wgAt wg
  let slots := c.slotsOf wg
  let waits := slots.any fun k => (c.group k).blockedLanes != 0
  let fw := slots.any fun k => match (c.group k).wait with
    | .fence _ _ _ _ => true
    | _ => false
  let k := ((slots.find? fun k => (c.group k).blockedLanes != 0).getD 0)
  if w.live && waits && !fw && (s.ctx w.ctx).st == .live && !(c.saving.contains w.cmd) then
    let s1 := s.setCore core (c.setWg wg { w with strand := 2 ^ 20 })
    done (groupFault s1 (slotAt core k) ⟨cBarrierStranded, 0, 0, false, 0, 0⟩)
  else done s

end Sys2Proof.Machine
end

