-- ==== Sys2Proof/Machine/MemOps.lean ====
section
/-! DEFINITION. Shared operations of the memory instructions: the fields of format M (R113 to R115), lane addresses,
pending stores (R71 to R73), the L1 (R80 to R88) and its stride detectors (R89, R90). -/

namespace Sys2Proof.Machine

/-- TYPE of a memory access: bytes of one element, none for a type that loads and stores do not have (R114). -/
def memBytes (t : BitVec 4) : Option Nat :=
  match t.toNat with
  | 0x0 => some 4
  | 0x1 => some 4
  | 0x2 => some 8
  | 0x3 => some 8
  | 0x4 => some 4
  | 0xC => some 2
  | 0xD => some 2
  | 0xE => some 1
  | 0xF => some 1
  | _ => none

/-- The next power of two at or above 1 to 32. -/
def pow2Up (n : Nat) : Nat :=
  if n ≤ 1 then 1 else if n ≤ 2 then 2 else if n ≤ 4 then 4 else if n ≤ 8 then 8 else if n ≤ 16 then 16 else 32

/-- Registers named by DST or DATA for `n` elements of `b` bytes. -/
def memRegs (r : BitVec 8) (b n : Nat) : List Nat :=
  (List.range (if b = 8 then 2 * n else n)).map fun i => r.toNat + i

/-- Number of elements (COUNT + 1). -/
def memCount (e : EncM) : Nat := e.count.toNat + 1

/-- The signed byte offset of the extension word (chapter 3). -/
def memOffset (e : EncM) : Int := if e.h.long then toSigned 32 e.ext.toNat else 0

/-- What every format M word must satisfy: reserved bits, SCOPE, and the extension word's upper half. -/
def encMOk (e : EncM) : Bool := !e.h.rsv48 && e.scope != 3 && (!e.h.long || e.ext.toNat / 2 ^ 32 == 0)

/-- BASE names a vector pair or a uniform pair (R101, BK). -/
def basePairOk (e : EncM) : Bool := e.base.toNat % 2 == 0 && (!e.bk || decide (e.base.toNat < 64))

/-- Vector registers that BASE names. -/
def baseRegs (e : EncM) : List Nat := if e.bk then [] else [e.base.toNat, e.base.toNat + 1]

/-- TYPE and COUNT of ld, st, lds and sts: a narrow type moves one register, a 64-bit type register pairs. -/
def memShapeOk (e : EncM) (r : BitVec 8) : Bool :=
  match memBytes e.type with
  | none => false
  | some b => (decide (4 ≤ b) || e.count == 0) && (b != 8 || r.toNat % 2 == 0)

/-- ld's encoding (R113, R114). -/
def ldOk (e : EncM) : Bool :=
  encMOk e && basePairOk e && memShapeOk e e.dst && e.aop == 0 && !e.noret && e.data == 0 && e.cmp == 0
    && ((e.order == 0 && e.scope == 0) || e.order == 1)

/-- st's encoding. -/
def stOk (e : EncM) : Bool :=
  encMOk e && basePairOk e && memShapeOk e e.data && e.aop == 0 && !e.noret && e.dst == 0 && e.cmp == 0
    && ((e.order == 0 && e.scope == 0) || e.order == 2)

/-- lds and sts: BK 0, plain, one 32-bit base register (R115). -/
def ldsOk (e : EncM) : Bool :=
  encMOk e && memShapeOk e e.dst && !e.bk && e.aop == 0 && !e.noret && e.data == 0 && e.cmp == 0 && e.order == 0 && e.scope == 0
def stsOk (e : EncM) : Bool :=
  encMOk e && memShapeOk e e.data && !e.bk && e.aop == 0 && !e.noret && e.dst == 0 && e.cmp == 0 && e.order == 0 && e.scope == 0

/-- Table 3.10: the operations that a type allows. -/
def aopOk (e : EncM) : Bool :=
  (if e.type = 4 then decide (e.aop.toNat < 3) else decide (e.type.toNat < 4) && decide (e.aop.toNat < 8))
    && (e.aop == 7 || e.cmp == 0) && (!e.noret || e.dst == 0) && e.count == 0
    && (!wideType e.type || (e.dst.toNat % 2 == 0 && e.data.toNat % 2 == 0 && e.cmp.toNat % 2 == 0))

def atomOk (e : EncM) : Bool := encMOk e && basePairOk e && aopOk e
def atomsOk (e : EncM) : Bool :=
  encMOk e && !e.bk && aopOk e && (e.type == 0 || e.type == 1 || e.type == 4) && e.order == 0 && e.scope == 0

/-- The virtual address of a lane (R114). -/
def laneVa (e : EncM) (x : Group) (l : Nat) : Nat :=
  let b := if e.bk then x.uget64 e.base.toNat else x.vget64 e.base.toNat l
  (((b : Int) + memOffset e) % (2 ^ 64 : Nat)).toNat

/-- The scratch address of a lane (R115). -/
def laneScratch (e : EncM) (x : Group) (l : Nat) : Nat :=
  ((((x.vget e.base.toNat l).toNat : Int) + memOffset e) % (2 ^ 32 : Nat)).toNat

/-- Every lane's access checked in ascending lane order: canonical address, alignment, translation (R66, R114). -/
def resolve (s : State) (c : Nat) (va : Nat → Nat) (align : Nat) (w : Bool) :
    List Nat → Except AccFault (List (Nat × Place) × State)
  | [] => .ok ([], s)
  | l :: ls =>
    let a := va l
    if 2 ^ 48 ≤ a then .error (pageFault a w)
    else if a % align ≠ 0 then .error { illegalFault dMisaligned with addr := a, write := w }
    else match locate s c a w with
      | .error f => .error f
      | .ok (p, s1) =>
        match resolve s1 c va align w ls with
        | .error f => .error f
        | .ok (r, s2) => .ok ((l, p) :: r, s2)

/-- A lane's virtual address at which a poisoned word is read, for the lowest such lane (R465). -/
def poisonHit (s : State) (va : Nat → Nat) (n : Nat) (ps : List (Nat × Place)) : Option AccFault :=
  (ps.find? fun e => (poisonedWord s e.2.pa n).isSome).map fun e =>
    eccFault (va e.1 + ((poisonedWord s e.2.pa n).getD 0 * 8 - e.2.pa)) false

/-- An unacknowledged store of a group's lane that overlaps a range (R73). -/
def pendOverlap (c : Core) (gid l pa n : Nat) : Bool :=
  c.stores.any fun p => p.gid == gid && inMask p.lanes l && decide (p.pa < pa + n) && decide (pa < p.pa + p.data.length)

/-- A group has unacknowledged stores in lanes of a mask. -/
def pendAny (c : Core) (gid : Nat) (m : Mask) : Bool := c.stores.any fun p => p.gid == gid && (m &&& p.lanes) != 0

/-- The lines that a load's lanes touch, in lane order, each once. -/
def linesOf (ps : List (Nat × Place)) : List Nat :=
  ps.foldl (fun acc e => if acc.contains (e.2.pa / 128) then acc else acc ++ [e.2.pa / 128]) []

def Core.l1Has (c : Core) (ln : Nat) : Bool := tget? c.l1 (ln % 512) == some ln
def Core.l1Drop (c : Core) (ln : Nat) : Core := { c with l1 := c.l1.filter fun e => e.2 != ln }

/-- A fill buffer holds the fill of a line. -/
def fillsLine (t : Tbl Fill) (ln : Nat) : Bool := (tget? t (ln % 4)).any fun f => f.line == ln

/-- What a load finds in the L1 for its lines: none when every line is served or its fill under way, else the bank and line
that it waits for (R83, R84). Demand fill buffers are allocated on the way. -/
def l1Serve (s : State) (core : Nat) : List Nat → State × Option (Nat × Nat)
  | [] => (s, none)
  | ln :: r =>
    let c := s.core core
    let b := ln % 4
    if c.l1Has ln || fillsLine c.demand ln || fillsLine c.prefetch ln then l1Serve s core r
    else if (tget? c.demand b).isSome then (s, some (b, ln))
    else l1Serve (bump (s.setCore core { c with demand := tset c.demand b ⟨ln, false⟩ }) core 0x128) core r

/-- An error that the L1 meets on a line of a load (R87, R88): counted, logged and reported. A corrected word is delivered
and its line leaves once it has been (`l1Clean`); the other errors invalidate the line, and the access misses. -/
def l1Error (s : State) (core ln : Nat) (e : L1Err) : State :=
  let c := s.core core
  if !c.l1Has ln then s
  else
    let log := fun (kind word : Nat) => BitVec.ofNat 64 (kind * 2 ^ 62 + ln % 2 ^ 33 * 2 ^ 7 + word % 16 * 2 ^ 3)
    let put := fun (c : Core) (kind word off cls : Nat) (unc : Bool) =>
      let s1 := s.setCore core { c with errLog := log kind word }
      countError (recordError (bump s1 core off) 0x03 core cls (ln % 512 * 16 + word % 16)) core 0x03 unc
    match e with
    | .none => s
    | .corrected w => bump (put c 1 w 0x148 1 false) 0xFF 0x100
    | .refetched w => bump (put (c.l1Drop ln) 2 w 0x150 2 true) 0xFF 0x108
    | .tagParity => bump (put (c.l1Drop ln) 3 0 0x158 1 false) 0xFF 0x100

/-- The lines of a load in the order in which their errors are recorded: a bank reads one of its lines a cycle, and of the
errors of one cycle the one in the lowest bank is recorded last, so that it stays (R88). -/
def errOrder (ls : List Nat) : List Nat :=
  (List.range ls.length).flatMap fun i => [3, 2, 1, 0].flatMap fun b => ((ls.filter fun ln => ln % 4 == b)[i]?).toList

/-- The errors that the L1 meets on the lines of a load, one line of the list at most once. -/
def l1Errors (s : State) (core : Nat) (ls : List Nat) (errs : Tbl L1Err) : State :=
  (errOrder ls).foldl (fun s ln => l1Error s core ln (tget errs ln .none)) s

/-- The lines on which a load met a corrected error have left the L1 (R87). -/
def l1Clean (s : State) (core : Nat) (ls : List Nat) (errs : Tbl L1Err) : State :=
  let c := s.core core
  s.setCore core ((ls.filter fun ln => match tget errs ln .none with
    | .corrected _ => true
    | _ => false).foldl Core.l1Drop c)

/-- DRAM read link errors met while a line is fetched that the system cache does not hold (R468, R470): corrected transfers,
each recorded, retried reads, and words delivered poisoned after the third failing read. -/
def linkErrors (s : State) (ln : Nat) (env : ReadEnv) : State :=
  let ch := 0x70 + homeSlice (ln * 128)
  if paKind (ln * 128) ≠ .dram ∨ inCache s ln then s
  else
  let fix := fun (s : State) (_ : Nat) => recordError s 0x10 ch 1 (ln * 128)
  let s0 := if env.linkCorrected = 0 then s else (List.range env.linkCorrected).foldl fix (bumpBy s ch 0x100 env.linkCorrected)
  let s1 := if env.linkRetried = 0 then s0 else bumpBy s0 ch 0x108 env.linkRetried
  let ws := env.linkFailed.filter fun w => w / 16 == ln
  if ws = [] then s1
  else
    let s2 := bumpBy (bump s1 ch 0x110) ch 0x108 2
    recordError (s2.setMem { s2.mem with poison := s2.mem.poison ++ ws.filter fun w => !s2.mem.poison.contains w })
      0x10 ch 2 (ln * 128)

/-- Recency made most recent for one detector: the valid ones that were more recent than it age by one, all valid ones where
it is new. Ranks count valid detectors only, so that they are distinct from the all-zero reset of Table 2.15 on (DESIGN
CHOICE, log entry 103). -/
def touchDet (t : Tbl Det) (i : Nat) (isNew : Bool) : Tbl Det :=
  let r := if isNew then 16 else (tget t i .empty).lru
  tmap t fun j d => if j = i then { d with lru := 0 } else if d.valid && decide (d.lru < r) then { d with lru := min 15 (d.lru + 1) } else d

/-- Sixteen detectors, every slot listed; one not used yet stands at rank 0 (Table 2.15). -/
def allDets (t : Tbl Det) : Tbl Det := (List.range 16).map fun i => (i, tget t i .empty)

/-- The victim of R89: an invalid detector first, the lowest-numbered of several (DESIGN CHOICE, log entry 103), else the
least recent. -/
def victimDet (t : Tbl Det) : Nat :=
  match t.find? fun e => !e.2.valid with
  | some e => e.1
  | none => (t.foldl (fun b e => if b.2 < e.2.lru then (e.1, e.2.lru) else b) ((t.map Prod.fst).headD 0, 0)).1

/-- The detector that follows a stream. -/
def findDet (t : Tbl Det) (slot base : Nat) : Option Nat :=
  (t.find? fun e => e.2.valid && e.2.slot == slot && e.2.base == base).map Prod.fst

/-- A detector trained with a line (R89). -/
def Det.train (d : Det) (ln : Nat) : Det :=
  let delta : Int := (ln : Int) - d.last
  if delta = 0 then d
  else
    let d1 := if delta < -64 ∨ 63 < delta then { d with stride := 0, conf := 0 }
      else if delta = d.stride then { d with conf := min 3 (d.conf + 1) }
      else { d with stride := delta, conf := 0 }
    { d1 with last := ln }

/-- train of R89: the detectors updated, and a prefetch when the stream is trusted. `lo` and `hi` are the first and
last line of the page. -/
def trainStream (s : State) (core slot base ln lo hi : Nat) : State :=
  let c := s.core core
  let t := allDets c.dets
  match findDet t slot base with
  | none =>
    let v := victimDet t
    let was := tget t v .empty
    s.setCore core { c with dets := touchDet (tset t v ⟨true, slot, base, ln, 0, 0, was.lru⟩) v (!was.valid) }
  | some i =>
    let old := tget t i .empty
    let new := old.train ln
    let c1 := { c with dets := touchDet (tset t i new) i false }
    let s1 := s.setCore core c1
    if old.last = ln ∨ new.conf < 2 then s1
    else
      let tgt : Int := (ln : Int) + 2 * new.stride
      let b := tgt.toNat % 4
      if (lo : Int) ≤ tgt ∧ tgt ≤ hi ∧ !c1.l1Has tgt.toNat ∧ (tget? c1.prefetch b).isNone then
        bump (s1.setCore core { c1 with prefetch := tset c1.prefetch b ⟨tgt.toNat, false⟩ }) core 0x138
      else bump s1 core 0x140

/-- One atomic operation of Tables 2.2 and 3.10 on a word: the value left in memory. -/
def atomVal (t : BitVec 4) (aop old v cmp : Nat) : Nat :=
  let w := typeWidth t
  if t = 4 then
    match aop with
    | 0 => f32Add old v
    | 1 => Fmt.f32.ieee ((Fmt.f32.decode old).minNum (Fmt.f32.decode v))
    | _ => Fmt.f32.ieee ((Fmt.f32.decode old).maxNum (Fmt.f32.decode v))
  else
    match aop with
    | 0 => (old + v) % 2 ^ w
    | 1 => if intOrder (signedType t) w old v = .gt then v else old
    | 2 => if intOrder (signedType t) w old v = .lt then v else old
    | 3 => old &&& v
    | 4 => old ||| v
    | 5 => old ^^^ v
    | 6 => v
    | _ => if old = cmp then v else old

/-- A combining set applied in ascending lane order (R67): each lane's returned value, and the value left. -/
def combine (f : Nat → Nat → Nat) : List Nat → Nat → List (Nat × Nat) × Nat
  | [], x => ([], x)
  | l :: ls, x =>
    let (r, y) := combine f ls (f l x)
    ((l, x) :: r, y)

/-- The distinct values of a list, in order of first appearance. -/
def distinct (xs : List Nat) : List Nat := xs.foldl (fun acc x => if acc.contains x then acc else acc ++ [x]) []

/-- The operand of a lane in a register or a pair. -/
def laneVal (x : Group) (wide : Bool) (r : BitVec 8) (l : Nat) : Nat :=
  if wide then x.vget64 r.toNat l else (x.vget r.toNat l).toNat

/-- The bytes that a store moves from a lane's registers. -/
def storeBytes (x : Group) (r : BitVec 8) (b n l : Nat) : List Byte :=
  if b < 4 then leBytes b (x.vget r.toNat l).toNat
  else (memRegs r b n).flatMap fun k => leBytes 4 (x.vget k l).toNat

/-- A loaded narrow value extended to 32 bits (R114). -/
def extendNarrow (t : BitVec 4) (b v : Nat) : Nat :=
  if t = 0xD ∨ t = 0xF then ofSigned 32 (toSigned (8 * b) v) else v

/-- The group with loaded bytes in its registers: `bytes l` are lane l's. -/
def loadRegs (x : Group) (e : EncM) (b : Nat) (m : Mask) (bytes : Nat → List Byte) : Group :=
  if b < 4 then x.vset e.dst.toNat m fun l => BitVec.ofNat 32 (extendNarrow e.type b (leNat (bytes l)))
  else (List.range (if b = 8 then 2 * memCount e else memCount e)).foldl (fun y i =>
    y.vset (e.dst.toNat + i) m fun l => BitVec.ofNat 32 (fieldAt (bytes l) (4 * i) 4)) x

/-- The value that a list of lane results gives a lane. -/
def laneResult (rs : List (Nat × Nat)) (l : Nat) : Nat := tget rs l 0

end Sys2Proof.Machine
end

