-- ==== Sys2Proof/Machine/MemoryInstr.lean ====
section
/-! DEFINITION. The memory, scratch and atomic instructions and what completes them (R66 to R73, R81 to R85, R113 to
R115, R129). -/

namespace Sys2Proof.Machine

/-- The checks before a memory instruction acts: issue, encoding, register range, register file errors. The rest of the
instruction is `k`, given the state after fetch, the group and the lanes that act. -/
def stepMem (s : State) (g : GroupAt) (h : Head) (code : List Nat) (ok : Bool) (regs rd : List Nat)
    (k : State → Group → Mask → State) : State :=
  inCycle s g fun s => match issueCheck s g code with
  | .stall => s
  | .fault a s1 => groupFault s1 g a
  | .go s1 =>
    let x := s1.group g
    let p := groupProg s1 g
    if !ok then groupFault s1 g (illegalFault dUndefined)
    else if !(regs.all fun r => decide (r < p.regs)) then groupFault s1 g (illegalFault dRegRange)
    else if badRead (s1.core g.core) g.slot rd (x.guard h) then groupFault s1 g ⟨cEcc, eRegister, 0, false, 0, 0⟩
    else k s1 x (x.guard h)

/-- The group after a memory instruction put back, the issue counted. -/
def finishMem (s : State) (g : GroupAt) (wr : List Nat) (m : Mask) (y : Group) (size : Nat) : State :=
  let s1 := countIssue s g
  let c := healRegs (s1.core g.core) g.slot wr m
  s1.setCore g.core (c.setGroup g.slot { y with pc := y.pc + size, promoted := false })

/-- The group put to wait on a bank (R83). -/
def waitBank (s : State) (g : GroupAt) (b ln : Nat) : State :=
  s.setGroup g { s.group g with wait := .bank b ln }

/-- The bytes that the lanes of a load read, in lane order. -/
def readLanes (s : State) (n : Nat) (ps : List (Nat × Place)) : List (Nat × List Byte) :=
  ps.map fun e => (e.1, physRead1 s e.2.cached e.2.pa n)

/-- The stride detectors trained by a load's lowest lane (R89). -/
def trainLoad (s : State) (g : GroupAt) (base : Nat) (ps : List (Nat × Place)) : State :=
  match ps with
  | [] => s
  | (_, p) :: _ =>
    if p.host && !p.cached then s
    else trainStream s g.core g.slot base (p.pa / 128) (p.lo / 128) ((p.hi - 1) / 128)

/-- ld (R70, R73, R81 to R84, R87, R89, R114). A lane that has an unacknowledged store to the address holds the load, and an
acquire is held while any earlier store of its lanes is unacknowledged (Table 2.3: a store before a later load across an acquire). -/
def execLd (g : GroupAt) (e : EncM) (env : ReadEnv) (s : State) : Host.Outcome State Fault Refusal :=
  let b := (memBytes e.type).getD 4
  let n := b * memCount e
  let dst := memRegs e.dst b (memCount e)
  done (stepMem s g e.h (e.code 7 0) (ldOk e) (baseRegs e ++ dst) (baseRegs e) fun s1 x m =>
    match resolve s1 x.ctx (laneVa e x) (if b < 4 then b else pow2Up n) false (lanesOf m) with
    | .error f => groupFault s1 g f
    | .ok (ps, s2) =>
      if (e.order ≠ 0 ∧ pendAny (s2.core g.core) x.gid m) ∨ ps.any (fun p => pendOverlap (s2.core g.core) x.gid p.1 p.2.pa n) then s1
      else
        let ls := linesOf (ps.filter fun p => !p.2.host || p.2.cached)
        let missed := ls.filter fun ln => !(s2.core g.core).l1Has ln
        let s3 := missed.foldl (fun s ln => sliceRead (linkErrors s ln env) true ln) (l1Errors s2 g.core ls env.l1)
        match poisonHit s3 (laneVa e x) n ps with
        | some f => groupFault (l1Clean s3 g.core ls env.l1) g f
        | none =>
          let hits := (ls.filter (s3.core g.core).l1Has).length
          match l1Serve s3 g.core ls with
          | (s4, some (bank, ln)) => waitBank (l1Clean s4 g.core ls env.l1) g bank ln
          | (s4, none) =>
            let s5 := l1Clean (bumpBy s4 g.core 0x120 hits) g.core ls env.l1
            let vals := readLanes s5 n ps
            let y := loadRegs (s5.group g) e b m fun l => tget vals l []
            finishMem (trainLoad s5 g e.base.toNat ps) g dst m y (Head.size e.h))

/-- The pending stores that the lanes of a store make: of lanes that write the same address only the highest one's
(R72), which holds back later accesses of all of them (R70). Lanes' accesses are aligned to their width, so that two of them
name the same bytes or none in common. -/
def newStores (x : Group) (cmd : Nat) (r : BitVec 8) (b n : Nat) (ps : List (Nat × Place)) : List PendStore :=
  ps.filterMap fun e =>
    if ps.any fun f => decide (e.1 < f.1) && f.2.pa == e.2.pa then none
    else some ⟨cmd, x.gid, maskOf fun l => ps.any fun f => f.1 == l && f.2.pa == e.2.pa, e.2.pa, storeBytes x r b n e.1, e.2.cached⟩

/-- st (R26, R70 to R73, R114): the lanes' stores leave for their home slices; st.rel waits until every earlier store
of its lanes has been acknowledged. -/
def execSt (g : GroupAt) (e : EncM) (s : State) : Host.Outcome State Fault Refusal :=
  let b := (memBytes e.type).getD 4
  let n := b * memCount e
  let src := memRegs e.data b (memCount e)
  done (stepMem s g e.h (e.code 7 1) (stOk e) (baseRegs e ++ src) (baseRegs e ++ src) fun s1 x m0 =>
    let m := m0 &&& ~~~x.helpers
    match resolve s1 x.ctx (laneVa e x) (if b < 4 then b else pow2Up n) true (lanesOf m) with
    | .error f => groupFault s1 g f
    | .ok (ps, s2) =>
      let c := s2.core g.core
      if e.order = 2 ∧ pendAny c x.gid m then s1
      else
        let s3 := s2.setCore g.core { c with stores := c.stores ++ newStores x (c.wgAt x.wg).cmd e.data b (memCount e) ps }
        finishMem s3 g [] m (s3.group g) (Head.size e.h))

/-- Whether a pending store may take effect next: no earlier one of the same lane overlaps it (Table 2.3). -/
def storeReady (c : Core) (k : Nat) : Bool :=
  match c.stores[k]? with
  | none => false
  | some p => (c.stores.take k).all fun q =>
      !(q.gid == p.gid && (q.lanes &&& p.lanes) != 0 && decide (q.pa < p.pa + p.data.length)
        && decide (p.pa < q.pa + q.data.length))

/-- STORE_ACK (R26, R71, R73, R77, R78, R81): the k-th unacknowledged store of a core takes effect at its home slice, every
other L1 has dropped the line, and the writer is told. -/
def execStoreAck (core k : Nat) (s : State) : Host.Outcome State Fault Refusal :=
  let c := s.core core
  match c.stores[k]? with
  | none => done s
  | some p =>
    if !storeReady c k then done s
    else
      let s1 := s.setCore core { c with stores := c.stores.eraseIdx k }
      done (sliceWrite s1 (some core) p.cached false p.pa p.data)

/-- The lines of a home slice that some L1 holds, each once: what the slice's directory tracks (R28, R532). -/
def sharedLines (s : State) (slice : Nat) : List Nat :=
  s.cores.foldl (fun acc e => e.2.l1.foldl (fun acc x =>
    if homeSlice (x.2 * 128) == slice && !acc.contains x.2 then acc ++ [x.2] else acc) acc) []

/-- The directory entry of a line that an L1 takes: where the eight ways of its set track other lines, a free choice of
them is reused, and that line leaves every L1 first (R28). Which set a line uses is not given (Config.dirSet). -/
def dirMake (s : State) (ln : Nat) : State :=
  let all := (sharedLines s (homeSlice (ln * 128))).filter (· != ln)
  if all.length < 8 then s
  else
    let mine := all.filter fun x => Config.dirSet x % 256 == Config.dirSet ln % 256
    if mine.length < 8 then s
    else
      let (x, s1) := drawFree s
      match mine[x.toNat % mine.length]? with
      | some v => invalidateLine s1 none v
      | none => s1

/-- L1_FILL (R28, R82, R83, R85): a fill arrives; the line is installed at its index unless an invalidation came
meanwhile, and groups that wait for the bank go on. A prefetch's line is read at its home slice here; a demand miss read it
when it allocated the buffer. -/
def execL1Fill (core bank : Nat) (prefetch : Bool) (si : State) : Host.Outcome State Fault Refusal :=
  match tget? (if prefetch then (si.core core).prefetch else (si.core core).demand) bank with
  | none => done si
  | some f =>
    let sr := if prefetch then sliceRead si true f.line else si
    let s := if f.dropped then sr else dirMake sr f.line
    let c := s.core core
    let c1 := if f.dropped then c else { c with l1 := tset c.l1 (f.line % 512) f.line }
    let c2 := if prefetch then { c1 with prefetch := tdrop c1.prefetch (· == bank) }
      else { c1 with demand := tdrop c1.demand (· == bank) }
    let held := fun (g : Group) => match g.wait with
      | .bank b _ => b == bank && !prefetch
      | _ => false
    let c3 := { c2 with groups := tmap c2.groups fun _ g => if held g then { g with wait := .none } else g }
    done (bumpBy (s.setCore core c3) core 0x130 (c2.groups.filter fun e => held e.2).length)

/-- One combining set of an atomic at its home slice (R67, R26): its lanes' results and the state after it. In a host window
it acts at the host itself, past the system cache (R69; for a cached page DESIGN CHOICE, log entry 105). The issuing core's
own L1 drops the line as the others do (DESIGN CHOICE, log entry 106: R81 updates the writer's line for stores only). -/
def atomSet (s : State) (x : Group) (e : EncM) (p : Place) (ls : List Nat) : List (Nat × Nat) × State :=
  let w := typeWidth e.type / 8
  let cached := p.cached && !p.host
  let old := physRead1 s cached p.pa w
  let (rs, new) := combine (fun l o => atomVal e.type e.aop.toNat o (laneVal x (wideType e.type) e.data l)
    (laneVal x (wideType e.type) e.cmp l)) ls (leNat old)
  (rs, sliceWrite s none cached false p.pa (leBytes w new))

/-- Every combining set in turn (R68). -/
def atomSets (s : State) (x : Group) (e : EncM) (ps : List (Nat × Place)) : List Nat → List (Nat × Nat) × State
  | [] => ([], s)
  | pa :: r =>
    let mine := ps.filter fun q => q.2.pa == pa
    match mine with
    | [] => atomSets s x e ps r
    | (_, p) :: _ =>
      let (rs, s1) := atomSet s x e p (mine.map Prod.fst)
      let (rt, s2) := atomSets s1 x e ps r
      (rs ++ rt, s2)

/-- A host atomic that the port cannot carry (R69, R492). -/
def hostAtomicBad (s : State) (e : EncM) (p : Place) : Bool :=
  match paKind p.pa with
  | .host q _ => !((s.port q).lost) && !((e.aop == 0 || e.aop == 6 || e.aop == 7) && e.type != 4 && (s.port q).atomicEn)
  | _ => false

/-- atom (R66 to R70, Table 3.9): a release or an acquire waits for the earlier stores of its lanes, any atomic for an earlier store
of its lane to the same word. -/
def execAtom (g : GroupAt) (e : EncM) (s : State) : Host.Outcome State Fault Refusal :=
  let wide := wideType e.type
  let w := typeWidth e.type / 8
  let two := fun r : BitVec 8 => memRegs r w 1
  let rd := baseRegs e ++ two e.data ++ (if e.aop = 7 then two e.cmp else [])
  let wr := if e.noret then [] else two e.dst
  done (stepMem s g e.h (e.code 9 0) (atomOk e) (rd ++ wr) rd fun s1 x m0 =>
    let m := m0 &&& ~~~x.helpers
    match resolve s1 x.ctx (laneVa e x) w true (lanesOf m) with
    | .error f => groupFault s1 g f
    | .ok (ps, s2) =>
      match ps.find? fun p => hostAtomicBad s2 e p.2 with
      | some p => groupFault s2 g { illegalFault dHostAtomic with addr := laneVa e x p.1, write := true }
      | none =>
        let c := s2.core g.core
        if (e.order ≠ 0 ∧ pendAny c x.gid m) ∨ ps.any (fun p => pendOverlap c x.gid p.1 p.2.pa w) then s1
        else match poisonHit s2 (laneVa e x) w ps with
          | some f => groupFault s2 g f
          | none =>
            let (rs, s3) := atomSets s2 x e ps (distinct (ps.map fun p => p.2.pa))
            let y := s3.group g
            let z := if e.noret then y else y.vsetN wide e.dst.toNat m (laneResult rs)
            finishMem s3 g wr m z (Head.size e.h))

/-- Scratch bytes of a workgroup that an outstanding tensor instruction of the group uses (R129): `w` for a write. -/
def tensorUses (c : Core) (gid space a n : Nat) (w : Bool) (uses : TqEntry → Bool → List (Nat × Nat × Nat)) : Bool :=
  (c.tq ++ c.requeue).any fun t => t.gid == gid && ((uses t w).any fun r =>
    r.1 == space && decide (a < r.2.1 + r.2.2) && decide (r.2.1 < a + n))

/-- Element bits and block scale bytes of a tensor format (Table 3.14), for a table width code. -/
def tfBits (f tw : Nat) : Nat :=
  match f with
  | 0x1 => 16
  | 0x2 => 16
  | 0xE => 16
  | 0x7 => 6
  | 0x8 => 6
  | 0x9 => 4
  | 0xC => 4
  | 0xD => 2 + tw
  | _ => 8
def tfScale (f : Nat) : Nat := if f = 0xB ∨ f = 0xC then 4 else if 0x5 ≤ f ∧ f ≤ 0xA then 1 else 0
/-- Bytes of an operand of 32 rows of K elements (R123): elements, scales and, for table weights, the table. -/
def tfBytes (f tw b k : Nat) : Nat :=
  32 * (k * tfBits f tw / 8 + k / b * tfScale f) + (if f = 0xD then 32 else 0)
/-- Block length (R141). -/
def blkLen (blk : Nat) : Nat := if blk = 1 then 16 else 32

/-- The tile memory space of a tile address and the offset in it (chapter 3, Tensor instructions). -/
def tileSpace (a : Nat) : Nat := if bitOf a 19 then 1 else 0
def tileOff (a : Nat) : Nat := a % 2 ^ 19

/-- What a queued tensor instruction writes (always), and for an access that writes also what it reads: space, offset,
length (R129). -/
def tensorRanges (t : TqEntry) (w : Bool) : List (Nat × Nat × Nat) :=
  match t.op with
  | .tmma af bf blk tw _ a b c k =>
    let bl := blkLen blk
    (tileSpace c, tileOff c, 4096) :: (if w then
      [(tileSpace a, tileOff a, tfBytes af 0 bl k), (2, b, tfBytes bf tw bl k)] else [])
  | .tcvt af blk d src =>
    (tileSpace d, tileOff d, tfBytes af 0 (blkLen blk) 32) :: (if w then [(tileSpace src, tileOff src, 4096)] else [])
  | .twld _ off n _ => [(2, off, n)]

/-- Operand bytes of running tensor instructions of other groups that a write meets become undefined operands (R124). -/
def clobber (c : Core) (gid wg space a n : Nat) : Core :=
  { c with tq := c.tq.map fun t =>
    if t.started && t.gid != gid && (space != 1 || t.wg == wg)
        && ((tensorRanges t true).any fun r => r.1 == space && decide (a < r.2.1 + r.2.2) && decide (r.2.1 < a + n))
    then { t with clobbered := t.clobbered ++ (List.range n).map fun i => ⟨space, wg, a + i⟩ } else t }

/-- Lanes of a scratch access outside the allocation, and misaligned ones, in ascending order (R49, R66). -/
def scratchFault (kib align n : Nat) (addr : Nat → Nat) (ls : List Nat) : Option Nat :=
  match ls.find? fun l => addr l % align != 0 || decide (kib * 1024 < addr l + n) with
  | none => none
  | some l => some (if addr l % align ≠ 0 then dMisaligned else dTileRange)

/-- An uncorrectable tile memory error in scratch words that are read (Table 15.1): words are numbered by workgroup
slot × 65,536 + word for scratch, and from 2^24 on for the reservation. -/
def scratchWord (wg a : Nat) : Nat := wg * 65536 + a / 4
def badScratch (c : Core) (wg n : Nat) (addr : Nat → Nat) (ls : List Nat) : Bool :=
  !c.badTile.isEmpty && ls.any fun l => (List.range (ceilDiv n 4)).any fun i => c.badTile.contains (scratchWord wg (addr l + 4 * i))

/-- A written scratch word holds no error any more (R466). -/
def healTile (c : Core) (word : Nat) : Core := if c.badTile.isEmpty then c else { c with badTile := c.badTile.filter (· != word) }

/-- lds (R49, R50, R115, R129). -/
def execLds (g : GroupAt) (e : EncM) (s : State) : Host.Outcome State Fault Refusal :=
  let b := (memBytes e.type).getD 4
  let n := b * memCount e
  let dst := memRegs e.dst b (memCount e)
  done (stepMem s g e.h (e.code 8 0) (ldsOk e) (e.base.toNat :: dst) [e.base.toNat] fun s1 x m =>
    let c := s1.core g.core
    let w := c.wgAt x.wg
    let addr := laneScratch e x
    match scratchFault w.scratchKib (if b < 4 then b else pow2Up n) n addr (lanesOf m) with
    | some d => groupFault s1 g (illegalFault d)
    | none =>
      if (lanesOf m).any fun l => tensorUses c x.gid 1 (addr l) n false tensorRanges then s1
      else if badScratch c x.wg n addr (lanesOf m) then groupFault s1 g ⟨cEcc, eTile, 0, false, 0, 0⟩
      else finishMem s1 g dst m (loadRegs x e b m fun l => w.scratch.read (addr l) n) (Head.size e.h))

/-- Scratch bytes of a workgroup written by one lane. -/
def putScratch (c : Core) (gid wg a : Nat) (bs : List Byte) : Core :=
  let w := c.wgAt wg
  let c1 := clobber (c.setWg wg { w with scratch := w.scratch.write a bs }) gid wg 1 a bs.length
  if bs.length % 4 = 0 then (List.range (bs.length / 4)).foldl (fun c i => healTile c (scratchWord wg (a + 4 * i))) c1 else c1

/-- sts (R49, R50, R72, R115, R129): lanes in ascending order, so the highest lane's value stays. -/
def execSts (g : GroupAt) (e : EncM) (s : State) : Host.Outcome State Fault Refusal :=
  let b := (memBytes e.type).getD 4
  let n := b * memCount e
  let src := memRegs e.data b (memCount e)
  done (stepMem s g e.h (e.code 8 1) (stsOk e) (e.base.toNat :: src) (e.base.toNat :: src) fun s1 x m =>
    let c := s1.core g.core
    let w := c.wgAt x.wg
    let addr := laneScratch e x
    match scratchFault w.scratchKib (if b < 4 then b else pow2Up n) n addr (lanesOf m) with
    | some d => groupFault s1 g { illegalFault d with write := true }
    | none =>
      if (lanesOf m).any fun l => tensorUses c x.gid 1 (addr l) n true tensorRanges then s1
      else
        let c1 := (lanesOf m).foldl (fun c l => putScratch c x.gid x.wg (addr l) (storeBytes x e.data b (memCount e) l)) c
        finishMem (s1.setCore g.core c1) g [] m x (Head.size e.h))

/-- The combining sets of a scratch atomic in turn (R67, R115). -/
def atomsSets (c : Core) (x : Group) (e : EncM) (addr : Nat → Nat) (ls : List Nat) :
    List Nat → List (Nat × Nat) × Core
  | [] => ([], c)
  | a :: r =>
    let (rs, new) := combine (fun l o => atomVal e.type e.aop.toNat o (laneVal x false e.data l) (laneVal x false e.cmp l))
      (ls.filter fun l => addr l == a) (((c.wgAt x.wg).scratch).nat a 4)
    let (rt, c1) := atomsSets (putScratch c x.gid x.wg a (leBytes 4 new)) x e addr ls r
    (rs ++ rt, c1)

/-- atoms (R67, R115). -/
def execAtoms (g : GroupAt) (e : EncM) (s : State) : Host.Outcome State Fault Refusal :=
  let rd := e.base.toNat :: e.data.toNat :: (if e.aop = 7 then [e.cmp.toNat] else [])
  let wr := if e.noret then [] else [e.dst.toNat]
  done (stepMem s g e.h (e.code 8 2) (atomsOk e) (rd ++ wr) rd fun s1 x m =>
    let c := s1.core g.core
    let w := c.wgAt x.wg
    let addr := laneScratch e x
    let ls := lanesOf m
    match scratchFault w.scratchKib 4 4 addr ls with
    | some d => groupFault s1 g { illegalFault d with write := true }
    | none =>
      if ls.any fun l => tensorUses c x.gid 1 (addr l) 4 true tensorRanges then s1
      else if badScratch c x.wg 4 addr ls then groupFault s1 g ⟨cEcc, eTile, 0, true, 0, 0⟩
      else
        let (rs, c1) := atomsSets c x e addr ls (distinct (ls.map addr))
        let y := if e.noret then x else x.vset e.dst.toNat m fun l => BitVec.ofNat 32 (laneResult rs l)
        finishMem (s1.setCore g.core c1) g wr m y (Head.size e.h))

end Sys2Proof.Machine
end

