-- ==== Sys2Proof/Machine/TensorQueue.lean ====
section
/-! DEFINITION. The tensor array's queue: what an entry's faults name, and how requeued instructions enter it (R126, R128,
R130). -/

namespace Sys2Proof.Machine

/-- The physical pieces of a virtual range, page by page (R126). -/
def pieces : Nat → State → Nat → Nat → Nat → Except AccFault (List (Nat × Nat × Bool) × State)
  | 0, s, _, _, _ => .ok ([], s)
  | fuel + 1, s, c, va, n =>
    if n = 0 then .ok ([], s)
    else
      match locate s c va false with
      | .error f => .error f
      | .ok (p, s1) =>
        let k := chunkLen 4096 va n
        match pieces fuel s1 c (va + k) (n - k) with
        | .error f => .error f
        | .ok (r, s2) => .ok ((p.pa, k, p.cached) :: r, s2)

/-- The bytes of the pieces of a twld. -/
def readPieces (s : State) : List (Nat × Nat × Bool) → List Byte × State
  | [] => ([], s)
  | (pa, n, cached) :: r =>
    let (b, s1) := physRead s cached pa n
    let (t, s2) := readPieces s1 r
    (b ++ t, s2)

/-- A fault of a queued tensor instruction: its record names the group slot and program counter that it was issued from. -/
def entryFaults (s : State) (core : Nat) (q : TqEntry) (a : AccFault) : State :=
  let c := cmdOf s ((s.core core).wgAt q.wg).cmd
  raise (notePoison s a) ⟨q.ctx, a, core, q.slot, false, c.queue, q.pc, c.tag⟩

/-- The lines of a twld that have arrived at some moment, each or not: a free choice, line by line, and free values drawn. -/
def partLines (tick : Nat) (old new : List Byte) : List Byte :=
  (List.range new.length).map fun i => if (Config.free (tick + i / 128)).getLsbD 0 then byteAt new i else byteAt old i

/-- An instruction enters the queue and has started. A twld writes each line as it arrives (R126), so from here until it
completes, and for good where it is abandoned, a line of its range holds old or new bytes (log entry 34); those of other
groups' running instructions that read the range are then undefined operands (R124). -/
def startEntry (s : State) (core : Nat) (e : TqEntry) : State :=
  let c := s.core core
  match e.op with
  | .twld _ off n ps =>
    let old := (List.range n).map fun i => c.weights.get (off + i)
    let new := partLines s.freeTick old (readPieces s ps).1
    let c1 := clobber { c with weights := c.weights.write off new } e.gid e.wg 2 off n
    { s.setCore core { c1 with tq := c1.tq ++ [e] } with freeTick := s.freeTick + n / 128 }
  | _ => s.setCore core { c with tq := c.tq ++ [e] }

/-- Requeued instructions take freed entries in program order (R130); a twld translates its range again. -/
def requeueNext (s : State) (core : Nat) : State :=
  let c := s.core core
  match c.requeue with
  | [] => s
  | e :: r =>
    if 16 ≤ c.tq.length then s
    else match e.op with
      | .twld va off n _ =>
        (match pieces 18 s e.ctx va n with
        | .error f => entryFaults (s.setCore core { c with requeue := r }) core e f
        | .ok (ps, s1) => startEntry (s1.setCore core { s1.core core with requeue := r }) core
            { e with op := .twld va off n ps, started := true })
      | _ => startEntry (s.setCore core { c with requeue := r }) core { e with started := true }

def requeueAll : Nat → State → Nat → State
  | 0, s, _ => s
  | n + 1, s, core => requeueAll n (requeueNext s core) core

/-- Queue entries of a core have become free by what left it: requeued instructions take them (R130). -/
def requeueOn (s : State) (core : Nat) : State := requeueAll 16 s core

/-- The same on every core. -/
def requeueEvery (s : State) : State := s.cores.foldl (fun s e => requeueOn s e.1) s

end Sys2Proof.Machine
end

