-- ==== Sys2Proof/Machine/Owners.lean ====
section
/-! DEFINITION. The assignment function (R156, R157): unit order, split factor, owners. -/

namespace Sys2Proof.Machine

/-- unit_order of R156: units of a map, across the stands first, then by position in the stand. -/
def unitOrder (map : Nat) : List Nat :=
  ((List.range 8).flatMap fun p => (List.range 6).map fun st => st * 8 + p).filter fun u => bitOf map u

/-- split_factor of R156: doubled while twice the factor is at most both bounds (the factor stays at most 16). -/
def splitFrom : Nat → Nat → Nat → Nat → Nat
  | 0, _, _, s => s
  | f + 1, q, m, s => if s * 2 ≤ q ∧ s * 2 ≤ m then splitFrom f q m (s * 2) else s
def splitFactor (t0 m n : Nat) : Nat := if n ≤ t0 then 1 else splitFrom 8 (n / t0) m 1

/-- Where a value stands in a list. -/
def posOf (x : Nat) (xs : List Nat) : Nat := (xs.findIdx? (· == x)).getD 0

/-- The unit that owns a tile under an order. -/
def ownerOf (order : List Nat) (t : Nat) : Nat := order.getD (t % order.length) 0

/-- The map of R157: TENSOR_MAP for cuts, CORE_MAP for render passes, masked to 16 units for heritage. -/
def passMap (s : State) (cut heritage : Bool) : Nat :=
  (if cut then s.maps.tensor.toNat else s.maps.core.toNat) &&& (if heritage then 0xFFFF else 2 ^ 48 - 1)

end Sys2Proof.Machine
end

