-- ==== Sys2Proof/Machine/Pixel.lean ====
section
/-! DEFINITION. Pixel formats and what is done to samples (Tables 7.2, 7.4 to 7.6, R217, R222, R223, R227): components
to FP32 and back, depth and stencil tests, blending. A colour is its R, G, B, A components as FP32 codes. -/

namespace Sys2Proof.Machine

/-- How a component is stored. -/
inductive CompKind where
  | unorm | srgb | f16 | f32 | ufloat
  deriving DecidableEq, Repr

/-- A component of a format: which of R, G, B, A, how it is stored, bit offset and width. -/
structure Comp where
  ch : Nat
  kind : CompKind
  off : Nat
  bits : Nat
  deriving DecidableEq, Repr

/-- The components of the colour formats of Table 7.5. Packed formats hold R lowest (PRESUMED, log entry 21). -/
def fmtComps (f : Nat) : List Comp :=
  let rgba8 := fun (k : CompKind) => [⟨0, k, 0, 8⟩, ⟨1, k, 8, 8⟩, ⟨2, k, 16, 8⟩, ⟨3, .unorm, 24, 8⟩]
  match f with
  | 0x01 => [⟨0, .unorm, 0, 8⟩]
  | 0x02 => [⟨0, .unorm, 0, 8⟩, ⟨1, .unorm, 8, 8⟩]
  | 0x03 => rgba8 .unorm
  | 0x04 => rgba8 .srgb
  | 0x05 => [⟨2, .unorm, 0, 8⟩, ⟨1, .unorm, 8, 8⟩, ⟨0, .unorm, 16, 8⟩, ⟨3, .unorm, 24, 8⟩]
  | 0x06 => [⟨0, .unorm, 0, 10⟩, ⟨1, .unorm, 10, 10⟩, ⟨2, .unorm, 20, 10⟩, ⟨3, .unorm, 30, 2⟩]
  | 0x07 => [⟨0, .ufloat, 0, 11⟩, ⟨1, .ufloat, 11, 11⟩, ⟨2, .ufloat, 22, 10⟩]
  | 0x08 => [⟨0, .f16, 0, 16⟩]
  | 0x09 => [⟨0, .f16, 0, 16⟩, ⟨1, .f16, 16, 16⟩]
  | 0x0A => [⟨0, .f16, 0, 16⟩, ⟨1, .f16, 16, 16⟩, ⟨2, .f16, 32, 16⟩, ⟨3, .f16, 48, 16⟩]
  | 0x0B => [⟨0, .f32, 0, 32⟩]
  | 0x0C => [⟨0, .f32, 0, 32⟩, ⟨1, .f32, 32, 32⟩]
  | 0x0D => [⟨0, .f32, 0, 32⟩, ⟨1, .f32, 32, 32⟩, ⟨2, .f32, 64, 32⟩, ⟨3, .f32, 96, 32⟩]
  | 0x20 => [⟨0, .unorm, 0, 16⟩]
  | 0x21 => [⟨0, .f32, 0, 32⟩]
  | _ => []

/-- Bytes of an element of a format (Table 7.5), 16 for an ASTC block, 0 for a code that is not listed. -/
def fmtBytes (f : Nat) : Nat :=
  if 0x40 ≤ f ∧ f ≤ 0x4B then 16
  else match f with
  | 0x01 => 1
  | 0x02 => 2
  | 0x08 => 2
  | 0x20 => 2
  | 0x0A => 8
  | 0x0C => 8
  | 0x0D => 16
  | 0x30 => 1
  | 0x21 => 4
  | _ => if 0x03 ≤ f ∧ f ≤ 0x0B then 4 else 0

/-- FP32 operations rounded to nearest even. -/
def fAdd (a b : Nat) : Nat := Fmt.f32.arith .add 0 a b 0
def fMul (a b : Nat) : Nat := Fmt.f32.arith .mul 0 a b 0
def fSub (a b : Nat) : Nat := Fmt.f32.arith .add 4 a b 0
def fOne : Nat := 0x3F800000

/-- code ÷ (2^bits − 1), rounded to nearest even in FP32. -/
def unormToF32 (bits code : Nat) : Nat :=
  let d := 2 ^ bits - 1
  if code = 0 then 0 else Fmt.f32.roundFin .near .toInf false (code * 2 ^ 64 / d) (-64) (code * 2 ^ 64 % d != 0)

/-- Greatest integer whose fifth power is at most `n`, by one bit at a time. -/
def root5From : Nat → Nat → Nat → Nat
  | 0, _, r => r
  | k + 1, n, r => let t := r + 2 ^ k; root5From k n (if t ^ 5 ≤ n then t else r)

/-- The IEC 61966-2-1 decoding of an 8-bit code, rounded to the nearest FP32: c ÷ 12.92 up to 0.04045, else
((c + 0.055) ÷ 1.055)^2.4 (the formula is that of the standard that R223 names). -/
def srgbToF32 (code : Nat) : Nat :=
  if code = 0 then 0
  else if code * 100000 ≤ 4045 * 255 then
    let n := code * 100 * 2 ^ 64
    let d := 255 * 1292
    Fmt.f32.roundFin .near .toInf false (n / d) (-64) (n % d != 0)
  else
    let n := (code * 1000 + 55 * 255) ^ 12 * 2 ^ 200
    let d := (1055 * 255) ^ 12
    let r := root5From 48 (n / d) 0
    Fmt.f32.roundFin .near .toInf false r (-40) (r ^ 5 * d != n)

/-- Unsigned floats of 11 and 10 bits (5-bit exponent, 6 or 5 mantissa bits, no sign). -/
def Fmt.uf (bits : Nat) : Fmt :=
  if bits = 11 then ⟨12, 6, 15, 0x7BF, 0x7C0, 0x7E0⟩ else ⟨11, 5, 15, 0x3DF, 0x3E0, 0x3F0⟩

/-- A stored component as FP32 (R217, R223 step 1). -/
def Comp.toF32 (c : Comp) (raw : Nat) : Nat :=
  let code := raw / 2 ^ c.off % 2 ^ c.bits
  match c.kind with
  | .unorm => unormToF32 c.bits code
  | .srgb => srgbToF32 code
  | .f16 => Fmt.f32.ieee (Fmt.f16.decode code)
  | .f32 => code
  | .ufloat => Fmt.f32.ieee ((Fmt.uf c.bits).decode code)

/-- The nearest code to a number in 0 to 1 times `2^bits − 1`, ties to even; a NaN gives 0. -/
def f32ToUnorm (bits x : Nat) : Nat :=
  match Fmt.f32.decode (Fmt.f32.clamp01 x) with
  | .fin _ m e =>
    let n := m * (2 ^ bits - 1)
    let (q, half, exact) := unitsOf n e 0 false
    if Rnd.near.ups false q half exact then q + 1 else q
  | _ => 0

/-- The exact order of two distances: |x − a| against |x − b|. -/
def nearer (x a b : Nat) : Ordering :=
  let dist := fun (p q : Nat) => match (Fmt.f32.decode p).add ((Fmt.f32.decode q).negate) with
    | .fin _ m e => Num.fin false m e
    | n => n
  ((dist x a).cmp (dist x b)).getD .eq

/-- The sRGB code whose decoded value is nearest, ties to the even code (R223). -/
def f32ToSrgb (x : Nat) : Nat :=
  let y := Fmt.f32.clamp01 x
  (List.range 256).foldl (fun best c =>
    match nearer y (srgbToF32 c) (srgbToF32 best) with
    | .lt => c
    | .eq => if best % 2 = 1 ∧ c % 2 = 0 then c else best
    | .gt => best) 0

/-- FP32 to an unsigned float: negative values and NaN give 0, values beyond the largest finite one that (R223). -/
def f32ToUf (bits x : Nat) : Nat :=
  match Fmt.f32.decode x with
  | .nan => 0
  | n => if n.isNeg then 0 else (match n with
    | .inf _ => (Fmt.uf bits).maxCode
    | y => (Fmt.uf bits).encode .near .saturate y) % 2 ^ bits

/-- An FP32 component converted to its stored code (R223 step 3). -/
def Comp.ofF32 (c : Comp) (x : Nat) : Nat :=
  match c.kind with
  | .unorm => f32ToUnorm c.bits x
  | .srgb => f32ToSrgb x
  | .f16 => Fmt.f16.encode .near .saturate (Fmt.f32.decode x)
  | .f32 => x
  | .ufloat => f32ToUf c.bits x

/-- A stored element as R, G, B, A: a channel that the format lacks is 0, alpha 1.0 (R235). -/
def toColor (f raw : Nat) : List Nat :=
  (List.range 4).map fun ch => match (fmtComps f).find? fun c => c.ch == ch with
    | some c => c.toF32 raw
    | none => if ch = 3 then fOne else 0

/-- An element with the components of a write mask replaced by converted FP32 components. -/
def putColor (f raw mask : Nat) (col : List Nat) : Nat :=
  (fmtComps f).foldl (fun r c =>
    if bitOf mask c.ch then r - (r / 2 ^ c.off % 2 ^ c.bits) * 2 ^ c.off + c.ofF32 (col.getD c.ch 0) % 2 ^ c.bits * 2 ^ c.off
    else r) raw

/-- A compare function of Table 7.6 on an order (none: one of the values is a NaN). -/
def compareFn (code : Nat) (o : Option Ordering) : Bool :=
  match code with
  | 1 => o == some .lt
  | 2 => o == some .eq
  | 3 => o == some .lt || o == some .eq
  | 4 => o == some .gt
  | 5 => o != some .eq
  | 6 => o == some .gt || o == some .eq
  | 7 => true
  | _ => false

/-- A stencil operation of Table 7.6 on a stored value with a reference. -/
def stencilOp (op old ref : Nat) : Nat :=
  match op with
  | 1 => 0
  | 2 => ref
  | 3 => min (old + 1) 255
  | 4 => old - 1
  | 5 => 255 - old
  | 6 => (old + 1) % 256
  | 7 => (old + 255) % 256
  | _ => old

/-- A blend factor of Table 7.6 for component `ch` (3: alpha). -/
def blendFactor (code ch : Nat) (src dst const : List Nat) : Nat :=
  let a := fun (l : List Nat) => l.getD 3 0
  let x := fun (l : List Nat) => l.getD ch 0
  match code with
  | 1 => fOne
  | 2 => x src
  | 3 => fSub fOne (x src)
  | 4 => x dst
  | 5 => fSub fOne (x dst)
  | 6 => a src
  | 7 => fSub fOne (a src)
  | 8 => a dst
  | 9 => fSub fOne (a dst)
  | 10 => x const
  | 11 => fSub fOne (x const)
  | 12 => if ch = 3 then fOne else Fmt.f32.arith .min 0 (a src) (fSub fOne (a dst)) 0
  | _ => 0

/-- One component blended (R223 step 2). -/
def blendComp (op sf df ch : Nat) (src dst const : List Nat) : Nat :=
  let s := src.getD ch 0
  let d := dst.getD ch 0
  let ps := fMul s (blendFactor sf ch src dst const)
  let pd := fMul d (blendFactor df ch src dst const)
  match op with
  | 0 => fAdd ps pd
  | 1 => fSub ps pd
  | 2 => fSub pd ps
  | 3 => Fmt.f32.arith .min 0 s d 0
  | _ => Fmt.f32.arith .max 0 s d 0

/-- A colour blended by the 4 bytes of a BLEND entry (Table 7.4), as bytes of a number. -/
def blendColor (entry : Nat) (src dst const : List Nat) : List Nat :=
  if !(bitOf entry 22) then src
  else (List.range 4).map fun ch =>
    if ch = 3 then blendComp (bitsOf entry 21 19) (bitsOf entry 11 8) (bitsOf entry 15 12) 3 src dst const
    else blendComp (bitsOf entry 18 16) (bitsOf entry 3 0) (bitsOf entry 7 4) ch src dst const

/-- A depth value as it is stored in a depth format: D16 by rounding depth × 65,535, D32 as it is (R222). -/
def depthCode (f x : Nat) : Nat := if f = 0x20 then f32ToUnorm 16 x else x
/-- The order of two stored depths. -/
def depthOrder (f a b : Nat) : Option Ordering :=
  if f = 0x20 then some (compare a b) else (Fmt.f32.decode a).cmp (Fmt.f32.decode b)
/-- A stored depth as FP32. -/
def depthF32 (f code : Nat) : Nat := if f = 0x20 then unormToF32 16 code else code

/-- A pixel resolved from its samples (R227), by mode, to a stored element. -/
def resolvePixel (f mode : Nat) (samples : List Nat) : Nat :=
  match mode with
  | 0 =>
    let n := samples.length
    let comp := fun (ch r : Nat) => (toColor f r).getD ch 0
    let sum := fun (ch : Nat) => (samples.drop 1).foldl (fun a r => fAdd a (comp ch r)) (comp ch (samples.headD 0))
    let inv := Fmt.f32.ieee (.fin false 1 (-(Nat.log2 n : Int)))
    putColor f 0 15 ((List.range 4).map fun ch => fMul (sum ch) inv)
  | 1 => samples.headD 0
  | 2 => (samples.drop 1).foldl (fun a b => if depthOrder f b a = some .lt then b else a) (samples.headD 0)
  | _ => (samples.drop 1).foldl (fun a b => if depthOrder f b a = some .gt then b else a) (samples.headD 0)

end Sys2Proof.Machine
end

