-- ==== Sys2Proof/Machine/Raster.lean ====
section
/-! DEFINITION. Geometry of the binners and the tile rasteriser: culling, snapped edges, coverage (R211, R214, Table
7.7). Positions are clip coordinates x, y, z, w as FP32 words. -/

namespace Sys2Proof.Machine

/-- Component `i` of a position record. -/
def vtx (v : List Word) (i : Nat) : Num := Fmt.f32.decode (v.getD i 0).toNat

/-- A finite number as a rational, 0 for any other. -/
def Num.toRat : Num → Rat
  | .fin s m e =>
    let r : Rat := if 0 ≤ e then ((m * 2 ^ e.toNat : Nat) : Rat) else ((m : Nat) : Rat) / ((2 ^ (-e).toNat : Nat) : Rat)
    if s then -r else r
  | _ => 0

def Num.finite : Num → Bool
  | .fin _ _ _ => true
  | _ => false

/-- Nearest integer, ties to even. -/
def rne (x : Rat) : Int :=
  let f := x.floor
  let d := x - f
  if d < 1 / 2 then f else if d > 1 / 2 then f + 1 else if f % 2 = 0 then f else f + 1

/-- The window position of a vertex snapped to 1/256 pixel (R211, Table 7.1 VIEWPORT), none where it has none: w ≤ 0 or
a coordinate that is not finite. -/
def snap (h : PassHdr) (v : List Word) : Option (Int × Int) :=
  let w := vtx v 3
  let vp := fun i => Fmt.f32.decode (h.viewport.getD i 0).toNat
  if !((vtx v 0).finite && (vtx v 1).finite && w.finite && (vp 0).finite && (vp 1).finite && (vp 2).finite && (vp 3).finite)
    || decide (w.toRat ≤ 0) then none
  else
    let win := fun (c o e : Num) => o.toRat + (c.toRat / w.toRat + 1) * e.toRat / 2
    some (rne (win (vtx v 0) (vp 0) (vp 2) * 256), rne (win (vtx v 1) (vp 1) (vp 3) * 256))

/-- Sample positions of Table 7.7 in 1/16 pixel. -/
def samplePos (samples : Nat) : List (Nat × Nat) :=
  match samples with
  | 1 => [(8, 8)]
  | 2 => [(4, 4), (12, 12)]
  | 4 => [(2, 6), (6, 14), (10, 2), (14, 10)]
  | _ => [(1, 9), (3, 3), (5, 13), (7, 7), (9, 1), (11, 11), (13, 5), (15, 15)]

/-- A point lies inside an edge of a polygon that runs clockwise on the screen (y downward): on its inner side, or on
it when it is a top or a left edge (R214). -/
def insideEdge (a b p : Int × Int) : Bool :=
  let dx := b.1 - a.1
  let dy := b.2 - a.2
  let c := dx * (p.2 - a.2) - dy * (p.1 - a.1)
  decide (0 < c) || (c == 0 && ((dy == 0 && decide (0 < dx)) || decide (dy < 0)))

/-- Twice the signed area of a triangle, positive when it runs clockwise on the screen. -/
def area2 (a b c : Int × Int) : Int := (b.1 - a.1) * (c.2 - a.2) - (b.2 - a.2) * (c.1 - a.1)

/-- Edges of a closed polygon. -/
def polyEdges (ps : List (Int × Int)) : List ((Int × Int) × (Int × Int)) :=
  ps.zip (ps.drop 1 ++ ps.take 1)

/-- Nearest integer to n ÷ √l, ties to even, for l > 0. -/
def divSqrt (n : Int) (l : Nat) : Int :=
  let m := n.natAbs
  let t := isqrt (4 * m * m / l)
  let q := if t % 2 = 1 ∧ t * t * l = 4 * m * m ∧ (t / 2) % 2 = 0 then t / 2 else (t + 1) / 2
  if n < 0 then -(q : Int) else q

/-- The rectangle of width 1 pixel centred on a segment (R211). -/
def lineQuad (a b : Int × Int) : List (Int × Int) :=
  let dx := b.1 - a.1
  let dy := b.2 - a.2
  let l := (dx * dx + dy * dy).natAbs
  if l = 0 then []
  else
    let ox := divSqrt (128 * dy) l
    let oy := divSqrt (128 * dx) l
    [(a.1 + ox, a.2 - oy), (b.1 + ox, b.2 - oy), (b.1 - ox, b.2 + oy), (a.1 - ox, a.2 + oy)]

/-- What a primitive covers. -/
inductive Shape where
  /-- Nothing. -/
  | empty
  /-- A convex polygon that runs clockwise on the screen, in 1/256 pixel. -/
  | poly (ps : List (Int × Int))
  /-- A triangle or line that crosses w = 0: its homogeneous edge functions, each positive on its inner side. -/
  | homog (es : List (Rat × Rat × Rat))
  /-- A primitive with a vertex that is not finite: its words. -/
  | free (ws : List Word)
  deriving DecidableEq, Repr

/-- A polygon put clockwise; nothing when its area is zero. -/
def polyOf (ps : List (Int × Int)) : Shape :=
  match ps with
  | a :: b :: c :: _ =>
    let s := area2 a b c
    if s = 0 then .empty else .poly (if 0 < s then ps else ps.reverse)
  | _ => .empty

/-- The homogeneous window coordinates of a vertex in 1/256 pixel: its snapped position times w, or the direction
itself at w = 0 (R211); none where it is not finite. -/
def homogAt (h : PassHdr) (v : List Word) : Option (Rat × Rat × Rat) :=
  let c := fun (i : Nat) => (vtx v i).toRat
  let vp := fun (i : Nat) => (Fmt.f32.decode (h.viewport.getD i 0).toNat).toRat
  if !([0, 1, 3].all fun i => (vtx v i).finite) || !((List.range 4).all fun i => (Fmt.f32.decode (h.viewport.getD i 0).toNat).finite) then none
  else if c 3 = 0 then some (c 0 * vp 2 * 128, c 1 * vp 3 * 128, 0)
  else
    let win := fun (a o e : Rat) => ((rne ((o + (a / c 3 + 1) * e / 2) * 256) : Int) : Rat) * c 3
    some (win (c 0) (vp 0) (vp 2), win (c 1) (vp 1) (vp 3), c 3)

/-- The edge function through two homogeneous points: its coefficients of x, y and 1. -/
def edgeFn (a b : Rat × Rat × Rat) : Rat × Rat × Rat :=
  (a.2.1 * b.2.2 - a.2.2 * b.2.1, a.2.2 * b.1 - a.1 * b.2.2, a.1 * b.2.1 - a.2.1 * b.1)

/-- A triangle by its homogeneous edge functions: a place where all three are positive is a positive combination of the
vertices at a positive w, which is in front of the eye (R211). -/
def homogTri (a b c : Rat × Rat × Rat) : Shape :=
  let e := edgeFn b c
  let det := a.1 * e.1 + a.2.1 * e.2.1 + a.2.2 * e.2.2
  let sc := fun (f : Rat × Rat × Rat) => if det < 0 then (-f.1, -f.2.1, -f.2.2) else f
  if det = 0 then .empty else .homog [sc e, sc (edgeFn c a), sc (edgeFn a b)]

/-- The edge function of the line through a point in a direction, positive on its right as seen on the screen. -/
def edgeAlong (p d : Rat × Rat) : Rat × Rat × Rat := (-d.2, d.1, d.2 * p.1 - d.1 * p.2)

/-- The strip of width 1 pixel, open at its far end, centred on the half line from `o` in direction `d`; its near corners are
snapped as those of a rectangle are (R211). -/
def stripOf (o d : Rat × Rat) : Shape :=
  let dx := d.1.num * d.2.den
  let dy := d.2.num * d.1.den
  let l := (dx * dx + dy * dy).natAbs
  if l = 0 then .empty
  else
    let ox : Rat := (divSqrt (128 * dy) l : Int)
    let oy : Rat := (divSqrt (128 * dx) l : Int)
    let near := (o.1 - ox, o.2 + oy)
    .homog [edgeAlong (o.1 + ox, o.2 - oy) d, edgeAlong near (-d.1, -d.2), edgeAlong near (ox, -oy)]

/-- A line with at least one vertex at w ≤ 0: it runs from its vertex in front toward the place where it leaves for
w = 0; nothing when no vertex lies in front. -/
def lineAcross (a b : Rat × Rat × Rat) : Shape :=
  let go := fun (p q : Rat × Rat × Rat) =>
    stripOf (p.1 / p.2.2, p.2.1 / p.2.2) (q.1 * p.2.2 - p.1 * q.2.2, q.2.1 * p.2.2 - p.2.1 * q.2.2)
  if 0 < a.2.2 then go a b else if 0 < b.2.2 then go b a else .empty

/-- The shape of a primitive with a vertex at w ≤ 0 or at an infinity. -/
def crossShape (h : PassHdr) (topology : Nat) (vs : List (List Word)) : Shape :=
  match topology, vs.filterMap (homogAt h) with
  | 0, [_] => .empty
  | 1, [a, b] => lineAcross a b
  | 0, _ => .free vs.flatten
  | 1, _ => .free vs.flatten
  | _, [a, b, c] => homogTri a b c
  | _, _ => .free vs.flatten

/-- The shape of a primitive by TOPOLOGY (R211). -/
def shapeOf (h : PassHdr) (topology : Nat) (vs : List (List Word)) : Shape :=
  let ps := vs.filterMap (snap h)
  if ps.length ≠ vs.length then crossShape h topology vs
  else match topology, ps with
    | 0, [p] => .poly [(p.1 - 128, p.2 - 128), (p.1 + 128, p.2 - 128), (p.1 + 128, p.2 + 128), (p.1 - 128, p.2 + 128)]
    | 1, [a, b] => polyOf (lineQuad a b)
    | 2, _ => polyOf ps
    | 3, _ => polyOf ps
    | _, _ => .empty

/-- A place in 1/256 pixel lies inside a homogeneous edge, or on it when it is a top or a left edge (R214). -/
def insideFn (e : Rat × Rat × Rat) (x y : Nat) : Bool :=
  let v := e.1 * x + e.2.1 * y + e.2.2
  decide (0 < v) || (v == 0 && (decide (0 < e.1) || (e.1 == 0 && decide (0 < e.2.1))))

/-- A shape covers a place given in 1/16 pixel. -/
def Shape.covers (x y : Nat) : Shape → Bool
  | .empty => false
  | .poly ps => (polyEdges ps).all fun e => insideEdge e.1 e.2 ((16 * x : Nat), (16 * y : Nat))
  | .homog es => es.all fun e => insideFn e (16 * x) (16 * y)
  | .free ws => Config.crossCover ws x y

/-- Pixels inside the render area and the scissor. -/
def PassHdr.inArea (h : PassHdr) (x y : Nat) : Bool :=
  let sc := fun i => h.scissor.getD i 0
  decide (x < h.width ∧ y < h.height ∧ sc 0 ≤ x ∧ x < sc 2 ∧ sc 1 ≤ y ∧ y < sc 3)

/-- The samples of a pixel that a shape covers, as a mask. -/
def coverMask (h : PassHdr) (sh : Shape) (x y : Nat) : Nat :=
  if !h.inArea x y then 0
  else ((List.range h.samples).zip (samplePos h.samples)).foldl (fun n e =>
    if sh.covers (16 * x + e.2.1) (16 * y + e.2.2) then n + 2 ^ e.1 else n) 0

/-- The front edges in pixels of a shape: lowest and one past the highest x and y that it can cover. -/
def Shape.bounds (h : PassHdr) : Shape → Nat × Nat × Nat × Nat
  | .empty => (0, 0, 0, 0)
  | .homog _ => (0, h.width, 0, h.height)
  | .free _ => (0, h.width, 0, h.height)
  | .poly ps =>
    let xs := ps.map Prod.fst
    let ys := ps.map Prod.snd
    let lo := fun (l : List Int) => (l.foldl min (l.headD 0) / 256).toNat
    let hi := fun (l : List Int) (m : Nat) => min m ((l.foldl max (l.headD 0) + 255) / 256 + 1).toNat
    (lo xs, hi xs h.width, lo ys, hi ys h.height)

/-- Tile width and height by TILE_SHAPE. -/
def PassHdr.tileW (h : PassHdr) : Nat := if h.shape = 0 then 32 else if h.shape = 1 then 16 else 64
def PassHdr.tileH (h : PassHdr) : Nat := if h.shape = 1 then 16 else 32
def PassHdr.gx (h : PassHdr) : Nat := ceilDiv h.width h.tileW
def PassHdr.gy (h : PassHdr) : Nat := ceilDiv h.height h.tileH
def PassHdr.tiles (h : PassHdr) : Nat := h.gx * h.gy

/-- The pixels of tile `t` inside a shape's bounds, row by row. -/
def tilePixels (h : PassHdr) (sh : Shape) (t : Nat) : List (Nat × Nat) :=
  let (x0, x1, y0, y1) := sh.bounds h
  let tx := t % h.gx * h.tileW
  let ty := t / h.gx * h.tileH
  let ax := max x0 tx
  let ay := max y0 ty
  (List.range (min y1 (ty + h.tileH) - ay)).flatMap fun j => (List.range (min x1 (tx + h.tileW) - ax)).map fun i => (ax + i, ay + j)

/-- Tiles of which a shape covers at least one sample, ascending (R212). -/
def coveredTiles (h : PassHdr) (sh : Shape) : List Nat :=
  let (x0, x1, y0, y1) := sh.bounds h
  (List.range h.tiles).filter fun t =>
    decide (t % h.gx * h.tileW < x1 ∧ x0 < t % h.gx * h.tileW + h.tileW ∧ t / h.gx * h.tileH < y1 ∧ y0 < t / h.gx * h.tileH + h.tileH)
      && (tilePixels h sh t).any fun p => coverMask h sh p.1 p.2 != 0

/-- All vertices lie outside one plane (R211). -/
def planesOut (clamp : Bool) (vs : List (List Word)) : Bool :=
  let below := fun (a b : Num) => a.cmp b == some .lt
  let x := fun v => vtx v 0
  let y := fun v => vtx v 1
  let z := fun v => vtx v 2
  let w := fun v => vtx v 3
  vs.all (fun v => below (x v) (w v).negate) || vs.all (fun v => below (w v) (x v))
    || vs.all (fun v => below (y v) (w v).negate) || vs.all (fun v => below (w v) (y v))
    || (!clamp && (vs.all (fun v => below (z v) (.fin false 0 0)) || vs.all fun v => below (w v) (z v)))

/-- Whether a triangle runs clockwise in window space: by its snapped positions, or for one that crosses w = 0 by the
sign of its homogeneous determinant and of the viewport (R211). -/
def runsClockwise (h : PassHdr) (vs : List (List Word)) : Bool :=
  match vs.filterMap (snap h) with
  | [a, b, c] => decide (0 < area2 a b c)
  | _ =>
    let r := fun (i j : Nat) => (vtx (vs.getD i []) j).toRat
    let det := r 0 0 * (r 1 1 * r 2 3 - r 2 1 * r 1 3) - r 0 1 * (r 1 0 * r 2 3 - r 2 0 * r 1 3)
      + r 0 3 * (r 1 0 * r 2 1 - r 2 0 * r 1 1)
    let vp := fun i => (Fmt.f32.decode (h.viewport.getD i 0).toNat).toRat
    decide (0 < det * vp 2 * vp 3)

/-- The fields of a state record (Table 7.4). -/
def stByte (st : List Byte) (i : Nat) : Nat := (byteAt st i).toNat
def stCull (st : List Byte) : Nat := stByte st 0 % 4
def stFrontCw (st : List Byte) : Bool := bitOf (stByte st 0) 2
def stEarly (st : List Byte) : Bool := bitOf (stByte st 0) 3
def stDepthTest (st : List Byte) : Bool := bitOf (stByte st 0) 4
def stDepthWrite (st : List Byte) : Bool := bitOf (stByte st 0) 5
def stStencil (st : List Byte) : Bool := bitOf (stByte st 2) 0

/-- A primitive faces front: every primitive but a back-facing triangle. -/
def frontFacing (h : PassHdr) (topology : Nat) (st : List Byte) (vs : List (List Word)) : Bool :=
  topology < 2 || runsClockwise h vs == stFrontCw st

/-- The cull rules of R211 that need no tile. -/
def culled (h : PassHdr) (topology : Nat) (st : List Byte) (vs : List (List Word)) : Bool :=
  vs.any (fun v => (List.range 4).any fun i => (vtx v i).isNan) || planesOut (bitOf h.flags 1) vs
    || (decide (2 ≤ topology) && (let f := frontFacing h topology st vs
        (stCull st == 1 && f) || (stCull st == 2 && !f)))

/-- Element positions of primitive `j` (Table 7.3); strip triangles with j odd swap their first two vertices. -/
def primElems (topology j : Nat) : List Nat :=
  match topology with
  | 0 => [j]
  | 1 => [2 * j, 2 * j + 1]
  | 2 => [3 * j, 3 * j + 1, 3 * j + 2]
  | _ => if j % 2 = 1 then [j + 1, j, j + 2] else [j, j + 1, j + 2]

end Sys2Proof.Machine
end

