-- ==== Sys2Proof/Machine/Passes.lean ====
section
/-! DEFINITION. What comes next of a pass: the tiles of a cut and of a render pass on their owners (R156 to R159, R207, R209, R215,
R229), and the position and attribute groups of a render pass (R209, R210). -/

namespace Sys2Proof.Machine

/-- Tiles of the output by axis, and in all (R156). -/
def CutHdr.gx (h : CutHdr) : Nat := ceilDiv h.outX h.tileX
def CutHdr.gy (h : CutHdr) : Nat := ceilDiv h.outY h.tileY
def CutHdr.gz (h : CutHdr) : Nat := ceilDiv h.outZ h.tileZ
def CutHdr.t0 (h : CutHdr) : Nat := h.gx * h.gy * h.gz

/-- Tiles of the segment phase. -/
def CutPass.tiles (p : CutPass) : Nat := p.hdr.t0 * p.split

/-- The next segment tile of a core, and its next combine tile (R158, R159). -/
def CutPass.nextSeg (p : CutPass) (core : Nat) : Option Nat :=
  if !p.order.contains core then none
  else
    let t := posOf core p.order + tget p.segDone core 0 * p.order.length
    if t < p.tiles then some t else none

def CutPass.nextComb (p : CutPass) (core : Nat) : Option Nat :=
  if p.split = 1 ∨ !p.order.contains core then none
  else
    let t := posOf core p.order + tget p.combDone core 0 * p.order.length
    if t < p.hdr.t0 then some t else none

/-- A segment tile is finished, its partial block stored. -/
def CutPass.segFinished (p : CutPass) (t : Nat) : Bool :=
  decide (t / p.order.length < tget p.segDone (ownerOf p.order t) 0)

/-- A combine tile may start on its owner (R159). -/
def CutPass.combReady (p : CutPass) (core t0 : Nat) : Bool :=
  (p.nextSeg core).isNone && (List.range p.split).all fun i => p.segFinished (t0 * p.split + i)

/-- The tile that a core would run next, and whether it is a combine tile. -/
def CutPass.nextTile (p : CutPass) (core : Nat) : Option (Nat × Bool) :=
  match p.nextSeg core with
  | some t => some (t, false)
  | none => match p.nextComb core with
    | some t => if p.combReady core t then some (t, true) else none
    | none => none

/-- A core has tiles left in a cut. -/
def CutPass.moreOn (p : CutPass) (core : Nat) : Bool := (p.nextSeg core).isSome || (p.nextComb core).isSome

/-- Bytes of an attachment in a tile. -/
def Attach.tileBytes (h : PassHdr) (a : Attach) : Nat := h.tileW * h.tileH * h.samples * fmtBytes a.format

/-- Start of each attachment in the reservation, and the end of the last (R224). -/
def attachStarts (h : PassHdr) (as : List Attach) : List Nat × Nat :=
  as.foldl (fun acc a => let st := ceilDiv acc.2 128 * 128; (acc.1 ++ [st], st + a.tileBytes h)) ([], 0)

/-- KiB of the reservation (R224). -/
def passReserve (h : PassHdr) (as : List Attach) : Nat := ceilDiv ((attachStarts h as).2 + 16384) 1024

def Draw.groups (d : Draw) : Nat := ceilDiv d.count 32

def noDraw : Draw := ⟨.empty, none, .empty, 0, 0, 0, 0, 0, 0, 0, 0, 0, 0, 0⟩

def RenderPass.draw (r : RenderPass) (d : Nat) : Draw := r.draws.getD d noDraw

def RenderPass.stateOf (r : RenderPass) (d : Nat) : List Byte := r.states.getD (r.draw d).state []

def setRender (s : State) (id : Nat) (r : RenderPass) : State := { s with renders := tset s.renders id r }

/-- The command is a render pass in progress whose context runs. -/
def livePass (s : State) (id : Nat) : Option RenderPass :=
  if (s.ctx (cmdOf s id).ctx).st = .live then tget? s.renders id else none

/-- The attribute group that comes next: draw and group number. -/
def RenderPass.nextAttr (r : RenderPass) : Option (Nat × Nat) :=
  r.attrReady.findSome? fun d => ((tget r.attrDue d [])[tget r.attrPlaced d 0]?).map fun g => (d, g)

/-- The position group that comes next. -/
def RenderPass.nextPos (r : RenderPass) : Option (Nat × Nat) :=
  if r.posDraw < r.draws.length then some (r.posDraw, r.posNext) else none

/-- The position or attribute group that comes next: its draw, its number in the draw, its program, and the pass once it is
placed. -/
def RenderPass.nextVertex (r : RenderPass) : Option (Nat × Nat × Prog × RenderPass) :=
  match r.nextAttr with
  | some (d, g) =>
    some (d, g, (r.draw d).attr.getD .empty, { r with attrPlaced := tset r.attrPlaced d (tget r.attrPlaced d 0 + 1) })
  | none => r.nextPos.map fun (d, g) =>
    let last := (r.draw d).groups ≤ g + 1
    (d, g, (r.draw d).pos, { r with posDraw := if last then d + 1 else d, posNext := if last then 0 else g + 1 })

/-- Position and attribute groups that are due and not resident yet. -/
def RenderPass.vertexLeft (r : RenderPass) : Nat :=
  ((r.draws.drop r.posDraw).map Draw.groups).sum - r.posNext
    + (r.attrReady.map fun d => (tget r.attrDue d []).length - tget r.attrPlaced d 0).sum

/-- Stores of a command that have not taken effect. -/
def storesOf (s : State) (id : Nat) : Bool := s.cores.any fun e => e.2.stores.any fun x => x.cmd == id

/-- An entry put at its place by (BATCH, INDEX). -/
def insertEntry (x : Nat) : List Nat → List Nat
  | [] => [x]
  | y :: r => if x / 2 ^ 32 < y / 2 ^ 32 then x :: y :: r else y :: insertEntry x r

/-- Entries of a tile, merged by (BATCH, INDEX) (R212). -/
def RenderPass.entries (r : RenderPass) (t : Nat) : List Nat :=
  let a := (tget r.lists (2 * t) ⟨0, 0, []⟩).entries
  let b := (tget r.lists (2 * t + 1) ⟨0, 0, []⟩).entries
  (a ++ b).foldr insertEntry []

/-- Tiles that the round in progress shades: those with entries in a flush round, else all (R215). -/
def RenderPass.roundTiles (r : RenderPass) : List Nat :=
  (List.range r.hdr.tiles).filter fun t => !r.flushing || !(r.entries t).isEmpty

/-- Tiles of a pass in progress or saved. -/
def tilesBusy (s : State) (id : Nat) : List Nat :=
  (s.cores.filterMap fun (e : Nat × Core) => match e.2.raster with
    | some r => if r.cmd = id then some r.tile else none
    | none => none)
  ++ s.sched.saved.filterMap fun e => match e.raster with
    | some r => if r.cmd = id then some r.tile else none
    | none => none

/-- The next tile of a core (R156, R207, R229). -/
def RenderPass.nextTile (s : State) (id : Nat) (r : RenderPass) (core : Nat) : Option Nat :=
  let busy := tilesBusy s id
  r.roundTiles.find? fun t => ownerOf r.order t == core && !r.finished.contains t && !busy.contains t

/-- Every attribute group that is due has completed at device scope. -/
def attrsDone (s : State) (id : Nat) (r : RenderPass) : Bool :=
  r.attrDue.all (fun (e : Nat × List Nat) => r.attrReady.contains e.1 && tget r.attrDone e.1 0 == e.2.length) && !storesOf s id

/-- Tiles of a render pass may be shaded (R209, R215). -/
def tilesReady (s : State) (id : Nat) (r : RenderPass) : Bool := r.shading || (r.flushing && attrsDone s id r)

end Sys2Proof.Machine
end

