-- ==== Sys2Proof/Machine/Residence.lean ====
section
/-! DEFINITION. Who gets a core (R346 to R349, R51 to R53) and how work comes off one (R352 to R366). -/

namespace Sys2Proof.Machine

/-- A Dusk step that commits is about to switch the domain of a unit off (R447, R448). -/
def committing (s : State) (unit : Nat) : Bool := s.power.dusk.any fun e => e.2.commit && e.2.units.contains unit

/-- A power domain is on, and no Dusk step that commits is about to switch it off (R445, R447). -/
def domainOn (s : State) (unit : Nat) : Bool := s.power.on.contains unit && !committing s unit

/-- The agent of a unit has acknowledged a step that goes on, and accepts no new work (R447). -/
def quiet (s : State) (unit : Nat) : Bool :=
  s.power.dusk.any fun e => e.2.agents.any fun a => a.2 == .acked && agentUnit a.1 == unit

/-- A unit's domain is on and takes new work (R445, R447). -/
def takesWork (s : State) (unit : Nat) : Bool := domainOn s unit && !quiet s unit

/-- A core may take work of a context and program (R19, R52, R96): enabled, powered, in S0 or S1 for heritage, with an
array for tensor code, and no self-test due or running on it (R475). -/
def coreOk (s : State) (heritage tensor : Bool) (k : Nat) : Bool :=
  s.maps.core.getLsbD k && takesWork s k && (!heritage || decide (k < 16))
    && !s.avail.tests.contains k && !s.avail.testing.contains k
    && (!tensor || (s.maps.tensor.getLsbD k && takesWork s (0x30 + k)))

/-- Register blocks of a group (R46). -/
def Core.blocksOf (c : Core) (k : Nat) : Nat := (c.wgAt (c.group k).wg).prog.regs / 8

/-- Live group slots of a core. -/
def Core.liveSlots (c : Core) : List Nat := (List.range 64).filter fun k => (c.group k).live

/-- Register blocks in use in a pipeline's bank. -/
def Core.pipeBlocks (c : Core) (p : Nat) : Nat := ((c.liveSlots.filter fun k => k / 16 == p).map c.blocksOf).sum

/-- The pipeline that could accept most further groups of `b` blocks, the lowest on a tie; none when no one can. -/
def bestPipe (used blocks : List Nat) (b : Nat) : Option Nat :=
  let cap := fun p => min (16 - (used.filter fun k => k / 16 == p).length) ((64 - blocks.getD p 0) / max b 1)
  let best := (List.range 4).foldl (fun m p => if cap m < cap p then p else m) 0
  if cap best = 0 then none else some best

/-- Slots for `n` groups of `b` register blocks in ascending group order (R51). -/
def placeSlots : Nat → Nat → List Nat → List Nat → Option (List Nat)
  | 0, _, _, _ => some []
  | n + 1, b, used, blocks =>
    match bestPipe used blocks b with
    | none => none
    | some p =>
      match (List.range 16).find? fun i => !used.contains (16 * p + i) with
      | none => none
      | some i =>
        (placeSlots n b ((16 * p + i) :: used) (blocks.set p (blocks.getD p 0 + b))).map ((16 * p + i) :: ·)

/-- Where a workgroup would go on a core (R51): its workgroup slot and group slots. -/
def Core.placement (c : Core) (p : Prog) (scratchKib n : Nat) : Option (Nat × List Nat) :=
  match firstBelow 32 fun k => !(c.wgAt k).live with
  | none => none
  | some k =>
    if c.scratchFree < scratchKib then none
    else (placeSlots n (p.regs / 8) c.liveSlots ((List.range 4).map c.pipeBlocks)).map (k, ·)

/-- KiB of scratch that a workgroup takes of its own: a stage workgroup uses the tile scratch. -/
def Wg.needKib (w : Wg) : Nat := if w.stage then 0 else w.scratchKib

/-- A workgroup with its groups made resident on a core. -/
def Core.takeIn (c : Core) (w : Wg) (gs : List Group) : Option Core :=
  (c.placement w.prog w.needKib gs.length).map fun pl =>
    (pl.2.zip gs).foldl (fun c e => c.setGroup e.1 { e.2 with live := true, wg := pl.1 }) (c.setWg pl.1 { w with live := true })

/-- A new workgroup made resident under the name `n`, which it and its groups keep until they end. -/
def Core.takeNew (c : Core) (n : Nat) (w : Wg) (gs : List Group) : Option Core :=
  c.takeIn { w with wid := n } (gs.map fun g => { g with gid := 32 * n + g.idx })

/-- The name of the next workgroup is used up. -/
def nameWg (s : State) : State := { s with sched := { s.sched with nextWid := s.sched.nextWid + 1 } }

/-- The registers of a group at its first instruction (R44, R100). -/
def newGroup (ctx : Nat) (p : Prog) (args : List Word) (async : Bool) (threads i : Nat) : Group :=
  let m := maskOf fun l => decide (32 * i + l < threads)
  { Group.empty with
    live := true, ctx := ctx, idx := i, async := async, active := m, exited := ~~~m, pc := p.entry
    uregs := (List.range p.preload).foldl (fun t k => tset t k (args.getD k 0)) [] }

/-- The groups of a workgroup of `threads` threads (R44). -/
def newGroups (ctx : Nat) (p : Prog) (args : List Word) (async : Bool) (threads : Nat) : List Group :=
  (List.range (ceilDiv threads 32)).map (newGroup ctx p args async threads)

/-- A core without the workgroups for which `p` holds, their groups, detectors and tensor instructions. -/
def Core.dropWgs (c : Core) (p : Wg → Bool) : Core :=
  let gone := (List.range 32).filter fun k => (c.wgAt k).live && p (c.wgAt k)
  let slots := (List.range 64).filter fun k => (c.group k).live && gone.contains (c.group k).wg
  let c1 := slots.foldl Core.freeGroup c
  { c1 with
    wgs := tdrop c1.wgs gone.contains
    tq := c1.tq.filter fun e => !gone.contains e.wg
    requeue := c1.requeue.filter fun e => !gone.contains e.wg }

/-- A pass's reservation released, its tile memory and weight buffer contents with it. -/
def Core.dropHold (c : Core) : Core :=
  { c with
    holder := none, reserved := 0, tile := .empty, holdKib := 0, scratch := .empty, run := none, raster := none
    doubles := [], odd := false, ahead := [] }

/-- All work of commands for which `p` holds taken off a core. -/
def Core.dropCmds (c : Core) (p : Nat → Bool) : Core :=
  let c1 := c.dropWgs fun w => p w.cmd
  let c2 := { c1 with saving := c1.saving.filter fun i => !p i }
  match c2.holder with
  | some i => if p i then c2.dropHold else c2
  | none => c2

/-- Workgroups of a dispatch in all, and the threads of one. -/
def Cmd.total (c : Cmd) : Nat := c.gridX * c.gridY * c.gridZ
def Prog.threads (p : Prog) : Nat := p.wgX * p.wgY * p.wgZ

end Sys2Proof.Machine
end

