-- ==== Sys2Proof/Machine/SavedWork.lean ====
section
/-! DEFINITION. Saved work as plain data: what a save of a core holds and where it lies in its save frame (R359, R361, Table
11.4), and how a core looks with it again (R45, R361, R364). -/

namespace Sys2Proof.Machine

/-- The live workgroup slots of a core that belong to a command. -/
def Core.wgsOf (c : Core) (id : Nat) : List Nat := (List.range 32).filter fun k => (c.wgAt k).live && (c.wgAt k).cmd == id

/-- The group slots of a workgroup slot in ascending group number. -/
def Core.slotsByIdx (c : Core) (w : Nat) : List Nat :=
  (List.range 32).flatMap fun i => (c.slotsOf w).filter fun k => (c.group k).idx == i

/-- A group as it is saved: its fence wait is withdrawn with it and registered again on restore (R330); a wait on an
L1 bank is a load that issues again. -/
def savedGroup (g : Group) : Group := match g.wait with
  | .bank _ _ => { g with wait := .none }
  | _ => g

/-- The group slots that a render tile's fragments name, changed. -/
def mapHomes (f : Nat → Nat) (r : RasterRun) : RasterRun :=
  { r with frags := r.frags.map fun x => { x with home := x.home.map fun h => (f h.1, h.2) } }

/-- A workgroup of the tile in progress: a stage, or fragments. -/
def Wg.ofTile (w : Wg) : Bool := w.stage || w.prog.kind == 3

/-- Work that needs the weight buffer (Table 11.4): a cut's tile, or a program with the TENSOR flag. -/
def usesWeights (c : Core) (ws : List Nat) (hold : Bool) : Bool :=
  (hold && c.run.isSome) || ws.any fun k => (c.wgAt k).prog.tensor

/-- One piece of a command's work on a core: the workgroups in the slots `ws`, and with `hold` the reservation (R361, Table
11.4). Tensor queue entries, those in the queue before those that were still to be requeued (R130), name their group's slot by
its place among the saved groups and their workgroup by its place in the list; an abandoned instruction has not started. -/
def savedPiece (c : Core) (core frame id ctx : Nat) (ws : List Nat) (hold : Bool) : Saved :=
  let order := ws.flatMap c.slotsByIdx
  { frame := frame, slot := 0, off := 0, core := core, cmd := id, ctx := ctx
    wgs := ws.map fun w => (c.wgAt w, (c.slotsByIdx w).map fun k => savedGroup (c.group k))
    tq := ((c.tq ++ c.requeue).filter fun e => ws.contains e.wg).map fun e =>
      { e with slot := posOf e.slot order, wg := posOf e.wg ws, started := false }
    holds := hold, tile := if hold then c.tile else .empty, reserved := if hold then c.reserved else 0
    holdKib := if hold then c.holdKib else 0, scratch := if hold then c.scratch else .empty
    run := if hold then c.run else none, doubles := if hold then c.doubles else [], odd := hold && c.odd
    ahead := if hold then c.ahead else []
    raster := if hold then c.raster.map (mapHomes fun k => posOf k order) else none
    weights := if usesWeights c ws hold then some c.weights else none }

/-- The pieces of a command's work on a core: the tile in progress with its workgroups and reservation, and the workgroups that
belong to no tile, which may go to another core alone (R364). -/
def savedPieces (c : Core) (core frame id ctx : Nat) : List Saved :=
  let ws := c.wgsOf id
  let hold := c.holder == some id
  let free := ws.filter fun k => !(hold && (c.wgAt k).ofTile)
  (if hold then [savedPiece c core frame id ctx (ws.filter fun k => (c.wgAt k).ofTile) true] else [])
    ++ (if free = [] then [] else [savedPiece c core frame id ctx free false])

/-- Bytes of a piece's registers and tile memory (Table 11.4). -/
def Saved.bytes (e : Saved) : Nat :=
  (e.wgs.map fun w => w.2.length * (w.1.prog.regs / 8) * 1024 + w.1.needKib * 1024).sum + e.reserved + e.holdKib * 1024

/-- Bytes of the control record, and of the weight buffer, which a save writes once (Table 11.4). -/
def controlBytes : Nat := 16384
def weightBytes : Nat := 65536

/-- The pieces of one save laid out in a save frame, the bytes that it writes, and the frame's number: the control record, then
the weight buffer, then each piece in turn (DESIGN CHOICE, log entry 110). -/
def layOut (slot : Nat) (es : List Saved) : List Saved × Nat :=
  let start := controlBytes + if es.any fun e => e.weights.isSome then weightBytes else 0
  es.foldl (fun (acc : List Saved × Nat) e => (acc.1 ++ [{ e with slot := slot, off := acc.2 }], acc.2 + e.bytes)) ([], start)

/-- The physical address of a save frame, in the pool at the top of installed DRAM (DESIGN CHOICE, log entry 110). -/
def frameBase (s : State) (slot : Nat) : Nat := s.boot.dramInstalled - (slot + 1) * 2 ^ 20

/-- The lowest frame that no saved work lies in (R359). -/
def freeFrame (s : State) : Nat :=
  (firstBelow s.cfg.saveFrames fun k => !(s.sched.saved.any fun e => e.slot == k)).getD 0

/-- The bytes of a save frame written through the system cache: its lines are held there, and words written whole are poisoned
no longer (R464). -/
def writeFrame (s : State) (slot n : Nat) : State :=
  let b := frameBase s slot
  let s1 := s.setMem (clearPoison s.mem b n)
  (List.range (ceilDiv n 128)).foldl (fun s i => touchLine s (b / 128 + i) false true) s1

/-- A saved piece holds a poisoned word (R363). -/
def Saved.hurt (s : State) (e : Saved) : Bool :=
  let b := frameBase s e.slot
  (poisonedWord s b (if e.weights.isSome then controlBytes + weightBytes else controlBytes)).isSome
    || (e.bytes != 0 && (poisonedWord s (b + e.off) e.bytes).isSome)

/-- An uncorrectable error lies in state of a command that is saved (R363). -/
def badState (c : Core) (id : Nat) : Bool :=
  let ws := c.wgsOf id
  let slots := ws.flatMap c.slotsByIdx
  c.badReg.any (fun w => slots.contains (w / 8192)) || c.badTile.any (fun w => decide (w < 2 ^ 24) && ws.contains (w / 65536))
    || (c.holder == some id && c.badTile.any fun w => decide (2 ^ 21 ≤ w))
    || (usesWeights c ws (c.holder == some id) && !c.badWeight.isEmpty)

/-- A core's workgroups and groups of saved work put back (R361): the group slots they take, in the saved order. -/
def admitAll (c : Core) : List (Wg × List Group) → Option (Core × List Nat × List Nat)
  | [] => some (c, [], [])
  | (w, gs) :: r =>
    match c.placement w.prog w.needKib gs.length, c.takeIn w gs with
    | some (k, slots), some c1 =>
      (admitAll c1 r).map fun x => (x.1, slots ++ x.2.1, k :: x.2.2)
    | _, _ => none

/-- Words that a restore writes whole hold no error any more (R466): the registers of its group slots, the scratch of its
workgroup slots, its reservation and its weight buffer. -/
def Core.healSaved (c : Core) (slots wgs : List Nat) (e : Saved) : Core :=
  { c with
    badReg := c.badReg.filter fun w => !slots.contains (w / 8192)
    badTile := c.badTile.filter fun w => !(decide (w < 2 ^ 24) && wgs.contains (w / 65536)) && !(e.holds && decide (2 ^ 21 ≤ w))
    badWeight := if e.weights.isSome then [] else c.badWeight }

/-- A core with saved work on it again, none when it does not fit. A tile that moves to a core that its own pass holds between two
tiles takes that reservation's place (R364). -/
def restoreOn (ci : Core) (e : Saved) : Option Core :=
  let c := if e.holds && ci.holder == some e.cmd && ci.run.isNone && ci.raster.isNone then ci.dropHold else ci
  if e.holds && (c.holder.isSome || decide (c.scratchFree * 1024 < e.reserved + e.holdKib * 1024)) then none
  else
    let c1 := if e.holds then { c with
      holder := some e.cmd, reserved := e.reserved, tile := e.tile, holdKib := e.holdKib
      scratch := e.scratch, run := e.run, doubles := e.doubles, odd := e.odd, ahead := e.ahead } else c
    (admitAll c1 e.wgs).map fun x =>
      { x.1.healSaved x.2.1 x.2.2 e with
        weights := e.weights.getD x.1.weights
        raster := if e.holds then e.raster.map (mapHomes fun k => x.2.1.getD k 0) else x.1.raster
        requeue := x.1.requeue ++ e.tq.map fun t => { t with slot := x.2.1.getD t.slot 0, wg := x.2.2.getD t.wg 0 } }

/-- The names of the groups of saved work. -/
def Saved.gids (e : Saved) : List Nat := e.wgs.flatMap fun w => w.2.map Group.gid

/-- Unacknowledged stores of groups that are restored on another core go with them (R70, R364). -/
def moveStores (s : State) (a b : Nat) (gids : List Nat) : State :=
  if a = b then s
  else
    let ps := (s.core a).stores.filter fun p => gids.contains p.gid
    let s1 := s.setCore a { s.core a with stores := (s.core a).stores.filter fun p => !gids.contains p.gid }
    s1.setCore b { s1.core b with stores := (s1.core b).stores ++ ps }

end Sys2Proof.Machine
end

