-- ==== Sys2Proof/Machine/Waiting.lean ====
section
/-! DEFINITION. Who gets a core (R346 to R349), and how work comes off one (R352 to R356, R358, R360, R370). -/

namespace Sys2Proof.Machine

/-- The earliest flip deadline that boosts a command's queue, and its output (R347). -/
def boostKey (s : State) (id : Nat) : Nat :=
  let ks := (s.sched.boosts.filter fun b => b.queue == (cmdOf s id).queue).map fun b => b.due * 4 + b.output
  (leastOf ks).getD 0

/-- Lists compared by their first difference. -/
def lexLt : List Nat → List Nat → Bool
  | x :: xs, y :: ys => decide (x < y) || (x == y && lexLt xs ys)
  | _, _ => false

/-- The rank of a command among those of its kind (R346, R347): the class, then the flip deadline and output of the deadline
class. A lower list goes first. -/
def rankKey (s : State) (id : Nat) : List Nat :=
  [9 - classOf s id, if classOf s id = 9 then boostKey s id else 0]

/-- The place of work that has not started on a core, and of saved work, in the order of R349. Waiting time is that of the command,
from its last stop at a coarse boundary there, or of the save (DESIGN CHOICE, log entry 111). -/
def freshKey (s : State) (core id : Nat) : List Nat :=
  let c := cmdOf s id
  rankKey s id ++ [1, (tget? c.stopped core).getD (2 * id + 1), c.queue]
def savedKey (s : State) (e : Saved) : List Nat := rankKey s e.cmd ++ [0, e.frame, (cmdOf s e.cmd).queue]

/-- A core without the work that ranks below a class, which is preempted for it (R354); for a tile also without async work (R170). -/
def openCore (s : State) (core cls : Nat) (tile : Bool) : Core :=
  (s.core core).dropCmds fun i => decide (classOf s i < cls) || (tile && (cmdOf s i).kind == .dispatch)

/-- What a piece of waiting work needs of a core: room for a workgroup of `n` groups, or `kib` KiB of tile memory for a tile of
its pass, unless the pass holds them. -/
inductive Need where
  | groups (p : Prog) (n : Nat) (async : Bool)
  | tile (kib : Nat)
  deriving DecidableEq, Repr

/-- A core meets a need of a command. -/
def Need.fits (c : Core) (id : Nat) : Need → Bool
  | .groups p n _ => (c.placement p p.scratchKib n).isSome
  | .tile kib => c.run.isNone && c.raster.isNone && (match c.holder with
    | some h => h == id
    | none => decide (kib ≤ c.scratchFree))

/-- The core that saved work belongs to (R45, R229, R364), none when it may go to any. A render tile's is its owner under the map
in force (log entry 112); other work keeps its own core unless that, or the array that it needs, is retired. -/
def Saved.home (s : State) (e : Saved) : Option Nat :=
  let tensor := e.wgs.any fun w => w.1.prog.tensor
  if e.holds then
    match e.raster with
    | some r =>
      let o := unitOrder (passMap s false (s.ctx e.ctx).heritage)
      some (if o = [] then e.core else ownerOf o r.tile)
    | none => some e.core
  else if s.maps.core.getLsbD e.core && (!tensor || s.maps.tensor.getLsbD e.core) then some e.core
  else none

/-- A coarse stop of a command on a core that is asked for and not yet reached; a queue that drains asks everywhere
(Table 9.14). -/
def stopAsked (s : State) (core id : Nat) : Bool :=
  (s.sched.preempts.any fun p => p.core == core && p.victim == id && p.inForce s) || (s.queue (cmdOf s id).queue).st == .draining

/-- A tile of a pass is in progress on a core, or saved work that belongs there. -/
def tileHere (s : State) (core id : Nat) : Bool :=
  let c := s.core core
  (c.holder == some id && (c.run.isSome || c.raster.isSome))
    || s.sched.saved.any fun e => e.holds && e.cmd == id && (e.home s).getD e.core == core

/-- Workgroups of a draw of a pass are resident on a core. -/
def drawHere (s : State) (core id d : Nat) : Bool :=
  (s.core core).wgs.any fun e => e.2.live && e.2.cmd == id && !e.2.ofTile && e.2.idY == d

/-- What the work of a command that has not started needs of a core that it may start on (R52, R53, R156, R207, R209). A coarse
stop leaves a pass the groups of the draw that it is running there (Table 11.2). -/
def needsAt (s : State) (core id : Nat) : List Need :=
  let c := cmdOf s id
  let ok := coreOk s (s.ctx c.ctx).heritage
  if (s.ctx c.ctx).st ≠ .live ∨ (s.core core).saving.contains id then []
  else match c.kind with
  | .dispatch =>
    if c.nextWg < c.total ∧ ok c.prog.tensor core ∧ !stopAsked s core id then [.groups c.prog (ceilDiv c.prog.threads 32) true] else []
  | .cut => (match tget? s.cuts id with
    | some p =>
      if p.gen = s.maps.gen ∧ (p.nextTile core).isSome ∧ ok true core ∧ !stopAsked s core id ∧ !tileHere s core id then
        [.tile (p.hdr.reserveKib + p.hdr.scratchKib)]
      else []
    | none => [])
  | .render => (match tget? s.renders id with
    | some r =>
      (match r.nextVertex with
        | some (d, _, p, _) => if ok false core ∧ (!stopAsked s core id ∨ drawHere s core id d) then [.groups p 1 false] else []
        | none => [])
      ++ (if tilesReady s id r ∧ ok false core ∧ !stopAsked s core id ∧ !tileHere s core id ∧ (r.nextTile s id core).isSome then
          [.tile (passReserve r.hdr r.attaches)]
        else [])
    | none => [])
  | _ => []

/-- KiB of tile memory that a pass waits for on a core, where no pass holds any (R170). -/
def tileNeed (s : State) (core id : Nat) : Option Nat :=
  if (s.core core).holder.isSome then none
  else (needsAt s core id).findSome? fun
    | .tile kib => some kib
    | .groups _ _ _ => none

/-- A core admits no async workgroup that would take `kib` KiB of scratch, because the tile of a pass waits for tile memory that
async work holds or would hold (R170). -/
def asyncBarred (s : State) (core id kib : Nat) : Bool :=
  s.cmds.any fun (e : Nat × Cmd) => e.1 != id && (tileNeed s core e.1).any fun n => decide ((s.core core).scratchFree < n + kib)

/-- A core is available to a piece of a command's work: no work of its class or above holds what it needs, and R51 and R170 admit
it. -/
def availTo (s : State) (core id : Nat) (n : Need) : Bool :=
  match n with
  | .groups p _ async => n.fits (openCore s core (classOf s id) false) id && !(async && asyncBarred s core id p.scratchKib)
  | .tile _ => n.fits (openCore s core (classOf s id) true) id

/-- Saved work may run again: its context is LIVE, and it is no tile of a cut that is to start over (R163). -/
def Saved.ready (s : State) (e : Saved) : Bool :=
  (s.ctx e.ctx).st == .live && (e.run.isNone || (tget? s.cuts e.cmd).any fun p => p.gen == s.maps.gen)

/-- The core could take saved work as it stands. -/
def Saved.fitsOn (s : State) (e : Saved) (k : Nat) : Bool :=
  coreOk s (s.ctx e.ctx).heritage (e.wgs.any fun w => w.1.prog.tensor) k && (restoreOn (s.core k) e).isSome

/-- The core that saved work goes back to (R45, R229, R364): its own; without one, the lowest-numbered core that can take it. -/
def restoreCore (s : State) (e : Saved) : Option Nat :=
  if !e.ready s then none
  else match e.home s with
    | some k => if e.fitsOn s k then some k else none
    | none => firstBelow 48 (e.fitsOn s)

/-- Async work among saved workgroups, by the scratch it takes, none for a tile or for groups of a pass (R170). -/
def Saved.asyncKib (s : State) (e : Saved) : Option Nat :=
  if (cmdOf s e.cmd).kind = .dispatch then some (e.wgs.map fun w => w.1.needKib).sum else none

/-- A core is available to saved work that waits for it (R349). -/
def savedAvail (s : State) (core : Nat) (e : Saved) : Bool :=
  e.ready s && (e.home s).getD core == core
    && coreOk s (s.ctx e.ctx).heritage (e.wgs.any fun w => w.1.prog.tensor) core
    && (restoreOn (openCore s core (classOf s e.cmd) e.holds) e).isSome
    && !((e.asyncKib s).any fun k => asyncBarred s core e.cmd k)

/-- Waiting work to which a core is available goes before work of rank `key`; `id` is that work's own command. -/
def othersFirst (s : State) (core : Nat) (key : List Nat) (id : Nat) : Bool :=
  (s.sched.saved.any fun e => lexLt (savedKey s e) key && savedAvail s core e)
    || s.cmds.any fun (e : Nat × Cmd) => e.1 != id && lexLt (freshKey s core e.1) key && (needsAt s core e.1).any (availTo s core e.1)

/-- The next workgroup of a dispatch can go to a core: it fits, and nothing that waits for the core goes before it (R349). -/
def mayTake (s : State) (id k : Nat) : Bool :=
  ((needsAt s k id).any fun n => n.fits (s.core k) id && availTo s k id n) && !othersFirst s k (freshKey s k id) id

/-- The next position or attribute group of a pass can go to a core (R53, R349). -/
def vertexMay (s : State) (id : Nat) (k : Nat) : Bool :=
  ((needsAt s k id).any fun n => match n with
    | .groups _ _ _ => n.fits (s.core k) id
    | .tile _ => false) && !othersFirst s k (freshKey s k id) id

/-- Nothing that waits for a core goes before a tile of a pass there (R349). -/
def passFirst (s : State) (core id : Nat) : Bool := !othersFirst s core (freshKey s core id) id

/-- Whether a pass may start a tile on a core. -/
def tileMay (s : State) (core id : Nat) (tensor : Bool) : Bool :=
  let c := cmdOf s id
  (s.ctx c.ctx).st == .live && coreOk s (s.ctx c.ctx).heritage tensor core && !stopAsked s core id
    && !((s.core core).saving.contains id) && (s.core core).run.isNone && (s.core core).raster.isNone && passFirst s core id

/-- A tile of a pass waits for a core. -/
def tileWaits (s : State) (core id : Nat) : Bool := (needsAt s core id).any fun n => match n with
  | .tile _ => true
  | .groups _ _ _ => false

/-- Save frames that a save could still take (R359): frames in use and saves in progress apart. -/
def framesFree (s : State) : Nat :=
  s.cfg.saveFrames - s.sched.framesUsed - (s.cores.filter fun e => !e.2.saving.isEmpty).length

/-- Held work of a command discarded on a core (R370). -/
def discardHeld (s : State) (core id : Nat) : State :=
  let c := (cmdOf s id).ctx
  let s1 := requeueOn ((dropStop s core id).setCore core ((s.core core).dropCmds (· == id))) core
  bump (setBlock s1 c 115 1 (blockNat s1 c 115 1 ||| 2)) uSched 0x178

/-- Issue of a command's work on a core stops for a save (R362). -/
def startSave (s : State) (core id : Nat) : State :=
  let c := s.core core
  s.setCore core { c with saving := if c.saving.contains id then c.saving else c.saving ++ [id] }

/-- The record of a preemption put in place of an earlier one of the same work. -/
def notePreempt (s : State) (p : Preempt) : State :=
  let s1 := dropStop s p.core p.victim
  { s1 with sched := { s1.sched with preempts := s1.sched.preempts ++ [p] } }

/-- A pass holds a core's reservation and has no tile in progress there. -/
def Core.idleHold (c : Core) (id : Nat) : Bool :=
  c.holder == some id && c.run.isNone && c.raster.isNone && !c.saving.contains id

/-- A pass that has no tile in progress on a core stands at its TILE boundary there, and releases its reservation when it is
preempted (R352, R353). Its preemption goes on while groups of it are left. -/
def releaseIdle (s : State) (core id : Nat) : State :=
  if (s.core core).idleHold id then
    let ps := s.sched.preempts
    let s1 := stopMade (s.setCore core (s.core core).dropHold) core id 0x108 76
    if (s1.core core).cmdsOn.contains id then { s1 with sched := { s1.sched with preempts := ps } } else s1
  else s

/-- A request takes the place of an earlier preemption of the same work (R354, R358, R365, R370): the waiting work of the highest
effective priority decides the boundary. A request that asks for the instruction boundary also goes before a coarse one of its
class, but for one that found no frame already (R360); held work does not wait for its coarse boundary. -/
def decidesOver (s : State) (waiter : Nat) (cause : PreemptCause) (instr held : Bool) (p : Preempt) : Bool :=
  let top := classOf s waiter == 9
  cause == .leaves || !p.inForce s || decide (classOf s p.waiter < classOf s waiter) || (held && !p.instr)
    || (instr && !p.instr && decide (classOf s p.waiter ≤ classOf s waiter)
      && (!p.noEscalation || p.cause == .quantum || (top && !p.deadline)))

/-- A preemption of one command's work on a core for another's (R354, R358, R360, R370). A context's own work that leaves a retired
unit waits for itself (R364). -/
def preemptOne (si : State) (core victim waiter : Nat) (cause : PreemptCause) : State :=
  let held := heldCmd si victim
  let top := classOf si waiter == 9
  let instr := cause != .priority || top
  let s := if held then si else releaseIdle si core victim
  let c := s.core core
  let decides := match s.sched.preempts.find? fun p => p.core == core && p.victim == victim with
    | some p => decidesOver s waiter cause instr held p
    | none => true
  if !c.cmdsOn.contains victim || c.saving.contains victim || !decides then s
  else
    let put := fun (s : State) (i n : Bool) => notePreempt s ⟨core, victim, waiter, i, n, top && cause != .leaves, cause⟩
    if !(instr || held || s.cfg.escalateUs == 0) then put s false false
    else if c.saving.isEmpty && framesFree s == 0 then
      let s1 := bump s uSched 0x130
      if held then discardHeld s1 core victim else put s1 false true
    else startSave (put (if instr || held then s else bump s uSched 0x138) true true) core victim

/-- Work on a core that ranks below a class. -/
def lowerOn (s : State) (core cls : Nat) : List Nat := (s.core core).cmdsOn.filter fun i => decide (classOf s i < cls)

/-- A pass that is asked to stop and has no tile in progress on a core is at its TILE boundary (R352, R353). A pass of a queue that
drains releases its reservation there too, and no preemption is counted (DESIGN CHOICE, log entry 140). -/
def tileBoundary (s : State) (core : Nat) : State :=
  match (s.core core).holder with
  | none => s
  | some id =>
    if s.sched.preempts.any fun p => p.core == core && p.victim == id && p.inForce s then releaseIdle s core id
    else if stopAsked s core id && (s.core core).idleHold id then s.setCore core (s.core core).dropHold
    else s

/-- Every lower piece of work on a core preempted for a waiting command (R354, R355). -/
def preemptCore (s : State) (core waiter : Nat) : State :=
  let cls := classOf s waiter
  (lowerOn s core cls).foldl (fun s v => preemptOne s core v waiter .priority) s

/-- Waiting workgroups ask for cores: the lowest-numbered ones that hold lower work, one for each of `n` that wait (R355). -/
def requestCores (s : State) (id n : Nat) : State :=
  let c := cmdOf s id
  let ks := (List.range 48).filter fun k =>
    coreOk s (s.ctx c.ctx).heritage c.prog.tensor k && !(lowerOn s k (classOf s id)).isEmpty
  (ks.take n).foldl (fun s k => preemptCore s k id) s

/-- The workgroups of `n` groups that a core could still take, up to a number of them (R51). -/
def Core.roomFor (c : Core) (p : Prog) (n : Nat) : Nat → Nat
  | 0 => 0
  | k + 1 => match c.takeIn { Wg.empty with prog := p, scratchKib := p.scratchKib } (List.replicate n .empty) with
    | some c1 => c1.roomFor p n k + 1
    | none => 0

/-- The workgroups of a command that cores can make resident without a preemption (R355). -/
def roomElsewhere (s : State) (id : Nat) : Nat :=
  ((List.range 48).map fun k => ((needsAt s k id).findSome? fun n => match n with
    | .groups p m _ =>
      if n.fits (s.core k) id && availTo s k id n && !othersFirst s k (freshKey s k id) id then some ((s.core k).roomFor p m 32)
      else none
    | .tile _ => none).getD 0).sum

/-- Work put at its place by a key. -/
def putBy (key : Nat → List Nat) (x : Nat) : List Nat → List Nat
  | [] => [x]
  | y :: r => if lexLt (key y) (key x) then y :: putBy key x r else x :: y :: r

/-- The async work on a core, the last in the order of R349 first. -/
def asyncOn (s : State) (core : Nat) : List Nat :=
  (((s.core core).cmdsOn.filter fun i => (cmdOf s i).kind == .dispatch).foldr (putBy (freshKey s core)) []).reverse

/-- KiB of scratch that a command's workgroups hold on a core. -/
def Core.scratchOf (c : Core) (id : Nat) : Nat := ((c.wgs.filter fun e => e.2.live && e.2.cmd == id).map fun e => e.2.needKib).sum

/-- As much of the async work as has to leave until `kib` KiB are free; `free` are. -/
def untilFits (c : Core) (kib : Nat) : Nat → List Nat → List Nat
  | _, [] => []
  | free, i :: r => if kib ≤ free then [] else i :: untilFits c kib (free + c.scratchOf i) r

/-- What a pass does to get a core for its tile (R170, R354, R355): it preempts lower work that holds the core; where async work
holds the tile memory it needs, that work leaves at the instruction boundary, until the tile fits. -/
def askHold (s : State) (core id kib : Nat) : State :=
  let c := s.core core
  match c.holder with
  | some h => if h = id then s else preemptCore s core id
  | none =>
    if kib ≤ c.scratchFree then s
    else
      let going := c.saving.filter fun i => (cmdOf s i).kind == .dispatch
      let free := c.scratchFree + (going.map c.scratchOf).sum
      let as := (asyncOn s core).filter fun i => !going.contains i
      let s1 := (untilFits c kib free as).foldl (fun s v => preemptOne s core v id .tile) s
      if kib ≤ free + (as.map c.scratchOf).sum then s1 else preemptCore s1 core id

/-- What a pass needs of a core before its tile can start there: `.ok` is the state with the hold taken, `.error` that with what
the pass does to get it. -/
def takeHold (s : State) (core id reserveKib scratchKib : Nat) : Except State State :=
  let c := s.core core
  if c.holder = some id then .ok s
  else if c.holder = none ∧ reserveKib + scratchKib ≤ c.scratchFree then
    .ok (s.setCore core { c with holder := some id, reserved := reserveKib * 1024, holdKib := scratchKib })
  else .error (askHold s core id (reserveKib + scratchKib))

/-- A pass that may not start its tile on a core asks for the core while the tile waits there. -/
def askTile (s : State) (core id kib : Nat) : State := if tileWaits s core id then askHold s core id kib else s

/-- A command that runs while its queue holds the deadline class is counted once (DEADLINE_BOOSTS of Table 11.6). -/
def noteBoost (s : State) (id : Nat) : State :=
  match tget? s.cmds id with
  | none => s
  | some c =>
    if effPrio s c.queue = 8 ∧ !c.boosted then
      incBlock { s with cmds := tset s.cmds id { c with boosted := true } } c.ctx 88
    else s

def dNoTensorUnit : Nat := 0x10
def dNoCoreUnit : Nat := 0x18

/-- The position in the pass of a draw's first primitive. -/
def RenderPass.primBase (r : RenderPass) (d : Nat) : Nat := ((r.draws.take d).map Draw.prims).sum

/-- A pass waits for binning: the draw that comes next has its position records (R209). -/
def binReady (s : State) (id : Nat) (r : RenderPass) : Bool :=
  (s.ctx (cmdOf s id).ctx).st == .live && !r.flushing && decide (r.binDraw < r.draws.length)
    && tget r.posDone r.binDraw 0 == (r.draw r.binDraw).groups && !storesOf s id && takesWork s 0x9C && takesWork s 0x9D

/-- A pass that is asked to stop at its DRAW boundary on some core, or whose queue drains, leaves its binners at their next
batch (R352, Tables 9.14 and 11.2). -/
def binStopped (s : State) (id : Nat) : Bool :=
  (s.sched.preempts.any fun p => p.victim == id && !p.instr && p.inForce s) || (s.queue (cmdOf s id).queue).st == .draining

/-- The binner of the batch that comes next of a pass (R37). -/
def RenderPass.nextBinner (r : RenderPass) : Nat := (r.primBase r.binDraw + r.binPrim) / 256 % 2

/-- The detail of R183 for a program in a context, none where some core may take it. -/
def noUnit (s : State) (heritage tensor : Bool) : Option Nat :=
  let lim := if heritage then 16 else 48
  if heritage && !((List.range lim).any fun k => s.maps.core.getLsbD k) then some dNoCoreUnit
  else if tensor && !((List.range lim).any fun k => s.maps.tensor.getLsbD k) then some dNoTensorUnit
  else none

/-- The fault of a command in progress that has no eligible unit left (R183): it names the program image of a dispatch, or the
descriptor of a render pass. -/
def unitFault (s : State) (id detail : Nat) : State :=
  let c := cmdOf s id
  let va := match tget? s.renders id with
    | some r => r.desc
    | none => c.prog.image
  raise s ⟨c.ctx, illegalFault detail, uSched, 0xFF, false, c.queue, va, c.tag⟩

/-- The next workgroup of a dispatch goes to the lowest-numbered enabled core that can take it (R44 to R53, R100, R349,
R355); while none can, the dispatch asks for cores. -/
def dispatchResident (cmd : Nat) (s : State) : State :=
  match tget? s.cmds cmd with
  | none => s
  | some c =>
    if c.kind ≠ .dispatch ∨ c.total ≤ c.nextWg ∨ (s.ctx c.ctx).st ≠ .live then s
    else
      match firstBelow 48 (mayTake s cmd) with
      | none => (match noUnit s (s.ctx c.ctx).heritage c.prog.tensor with
        | some d => unitFault s cmd d
        | none => requestCores s cmd (c.total - c.nextWg))
      | some k =>
        let i := c.nextWg
        let p := c.prog
        let w : Wg := { Wg.empty with
          live := true, ctx := c.ctx, cmd := cmd, prog := p, threads := p.threads, mapGen := c.mapGen
          idX := i % c.gridX, idY := i / c.gridX % c.gridY, idZ := i / (c.gridX * c.gridY)
          scratchKib := p.scratchKib, scratch := .free s.freeTick }
        match (s.core k).takeNew s.sched.nextWid w (newGroups c.ctx p c.args true p.threads) with
        | none => s
        | some core =>
          noteBoost { (nameWg s).setCore k core with
            cmds := tset s.cmds cmd { c with nextWg := i + 1 }, freeTick := s.freeTick + 1 } cmd

end Sys2Proof.Machine
end

