-- ==== Sys2Proof/Machine/Preemption.lean ====
section
/-! DEFINITION. Saves and restores, escalation, the quantum, and the watchdogs (R354 to R369, R379). -/

namespace Sys2Proof.Machine

/-- The fault of work of a command on a core that is not one group's. -/
def workFault (s : State) (core id : Nat) (a : AccFault) : CtxFault :=
  let c := cmdOf s id
  ⟨c.ctx, a, core, 0xFF, false, c.queue, 0, c.tag⟩

/-- What a save tells a context whose work it holds (Table 11.6): one save on one core, its time, and that held work is saved. -/
def noteSave (s : State) (c : Nat) : State :=
  let s1 := setBlock (incBlock s c 80) c 96 8 s.timer
  if (s.ctx c).st = .live then s1 else setBlock s1 c 115 1 (blockNat s1 c 115 1 ||| 1)

/-- The commands of a save in whose state an uncorrectable error is found, one for each context (R363). -/
def hurtIds (s : State) (core : Nat) : List Nat :=
  ((s.core core).saving.filter (badState (s.core core))).foldl
    (fun acc i => if acc.any fun j => (cmdOf s j).ctx == (cmdOf s i).ctx then acc else acc ++ [i]) []

/-- The contexts in whose state a save finds an error. -/
def hurtCtxs (s : State) (core : Nat) : List Nat := (hurtIds s core).map fun i => (cmdOf s i).ctx

/-- The commands of a save whose state is saved. -/
def soundIds (s : State) (core : Nat) : List Nat := (s.core core).saving.filter fun i => !(hurtCtxs s core).contains (cmdOf s i).ctx

/-- The pieces that a save of a core lays down in its frame, and how many bytes it writes. -/
def savePlan (s : State) (core : Nat) : List Saved × Nat :=
  layOut (freeFrame s) ((soundIds s core).flatMap fun i => savedPieces (s.core core) core s.sched.nextFrame i (cmdOf s i).ctx)

/-- The work that a save takes off its core: what it saves, and all work of a context in whose state an error is found. -/
def saveDrops (s : State) (core : Nat) : Nat → Bool :=
  fun i => (s.core core).saving.contains i || (hurtCtxs s core).contains (cmdOf s i).ctx

/-- SAVE_COMPLETE (R359 to R363, R91, R379): a core's save finishes; one frame takes all of it. A context in whose state an
uncorrectable error is found faults, and its state on the core is discarded. -/
def execSaveComplete (core : Nat) (s : State) : Host.Outcome State Fault Refusal :=
  let c := s.core core
  if c.saving.isEmpty then .next s
  else
    let drop := saveDrops s core
    let plan := savePlan s core
    let good := soundIds s core
    let served := s.sched.preempts.any fun p => p.core == core && c.saving.contains p.victim && p.deadline
    let s1 := requeueOn (s.setCore core { c.dropCmds drop with badReg := c.badReg, saving := [] }) core
    let s2 := { s1 with sched := { s1.sched with
      saved := s1.sched.saved ++ plan.1
      nextFrame := s1.sched.nextFrame + 1
      preempts := s1.sched.preempts.filter fun p => !(p.core == core && drop p.victim) } }
    let s3 := if good = [] then s2 else bumpBy (writeFrame s2 (freeFrame s) plan.2) uSched 0x128 plan.2
    let s4 := bump s3 uSched 0x110
    let s5 := if served then bump s4 uSched 0x148 else s4
    let s6 := (distinct (good.map fun i => (cmdOf s i).ctx)).foldl noteSave s5
    .next ((hurtIds s core).foldl (fun t i => raise t (workFault s core i ⟨cEcc, eSaveState, 0, false, 0, 0⟩)) s6)

/-- Fence waits of the groups of a command on a core registered again with their deadlines: those already reached,
poisoned or out of time end (R330). -/
def rewait (s : State) (core id : Nat) : State :=
  let c := s.core core
  ((c.wgsOf id).flatMap c.slotsOf).foldl (fun s k => match ((s.core core).group k).wait with
    | .fence f t d _ => (match (s.fence f).outcome t, timedOut s d with
      | some st, _ => endFwait s (slotAt core k) st
      | none, true => endFwait s (slotAt core k) 2
      | none, false => s)
    | _ => s) s

/-- The core that a piece of saved work may be put back on now (R349, R364): it can take it, R170 admits it, and nothing that
waits there goes before it. -/
def restoreTo (s : State) (e : Saved) : Option Nat :=
  match restoreCore s e with
  | none => none
  | some core =>
    if ((e.asyncKib s).any fun k => asyncBarred s core e.cmd k) || othersFirst s core (savedKey s e) e.cmd then none else some core

/-- What saved work that a core cannot take does to get it (R354, R170). -/
def askRestore (s : State) (e : Saved) : State :=
  if !e.ready s then s
  else
    let c := cmdOf s e.cmd
    match noUnit s (s.ctx e.ctx).heritage (e.wgs.any fun w => w.1.prog.tensor), e.home s with
    | some d, none => unitFault s e.cmd d
    | none, none => requestCores s e.cmd 1
    | _, some k =>
      if !coreOk s (s.ctx c.ctx).heritage (e.wgs.any fun w => w.1.prog.tensor) k then s
      else preemptCore (if e.holds then askHold s k e.cmd (ceilDiv e.reserved 1024 + e.holdKib) else s) k e.cmd

/-- A context's state on a core discarded: what runs there, and what is saved from there (R363). -/
def discardOn (s : State) (core ctx : Nat) : State :=
  let s1 := requeueOn (s.setCore core ((s.core core).dropCmds fun i => (cmdOf s i).ctx == ctx)) core
  { s1 with sched := { s1.sched with saved := s1.sched.saved.filter fun e => !(e.core == core && e.ctx == ctx) } }

/-- The k-th piece of saved work back on a core; a poisoned word in it faults its context, whose state on the core is discarded
(R363). -/
def putBack (s : State) (k : Nat) (e : Saved) (core : Nat) (c : Core) : State :=
  if e.hurt s then
    raise (discardOn { s with sched := { s.sched with saved := s.sched.saved.eraseIdx k } } core e.ctx)
      (workFault s core e.cmd ⟨cEcc, eSaveState, 0, false, 0, 0⟩)
  else
    let s1 := requeueOn (moveStores (s.setCore core c) e.core core e.gids) core
    let s2 := noteBoost { s1 with sched := { s1.sched with saved := s1.sched.saved.eraseIdx k } } e.cmd
    let s3 := if core = e.core then s2 else incBlock (bump s2 uSched 0x120) e.ctx 84
    rewait s3 core e.cmd

/-- Further pieces of a save frame that go back to the same core with the first (R359, R364). -/
def putRest : Nat → State → Nat → Nat → State
  | 0, s, _, _ => s
  | n + 1, s, frame, core =>
    match s.sched.saved.findIdx? fun e => e.frame == frame && restoreTo s e == some core with
    | none => s
    | some k => match s.sched.saved[k]? with
      | none => s
      | some e => match restoreOn (s.core core) e with
        | none => s
        | some c => putRest n (putBack s k e core c) frame core

/-- RESTORE_COMPLETE (R45, R64, R330, R349, R354, R361, R363, R364): a core's restore puts back the k-th piece of saved work,
with the other pieces of its save that may go there. While no core can take the piece, it preempts what is in its way. -/
def execRestoreComplete (k : Nat) (s : State) : Host.Outcome State Fault Refusal :=
  match s.sched.saved[k]? with
  | none => .next s
  | some e => match restoreTo s e with
    | none => .next (if (restoreCore s e).isSome then s else askRestore s e)
    | some core => match restoreOn (s.core core) e with
      | none => .next s
      | some c => .next (putRest s.sched.saved.length (putBack (bump s uSched 0x118) k e core c) e.frame core)

/-- ESCALATION (R354, R356, R360): a coarse preemption that its work has not reached moves to the instruction boundary; one whose
work no longer ranks below the work that waits is over. -/
def execEscalation (core victim : Nat) (s : State) : Host.Outcome State Fault Refusal :=
  match s.sched.preempts.find? fun p => p.core == core && p.victim == victim && !p.instr with
  | none => .next s
  | some p =>
    if !p.inForce s then .next (dropStop s core victim)
    else if p.noEscalation ∨ !((s.core core).cmdsOn.contains victim) then .next s
    else if (s.core core).saving.isEmpty && framesFree s == 0 then
      .next (notePreempt (bump s uSched 0x130) { p with noEscalation := true })
    else .next (startSave (notePreempt (bump s uSched 0x138) { p with instr := true }) core victim)

/-- Commands whose work waits for a core: work not yet started that may start there, and work saved there (R357). -/
def waitersFor (s : State) (core : Nat) : List Nat :=
  (s.cmds.filterMap fun (e : Nat × Cmd) => if (needsAt s core e.1).isEmpty then none else some e.1)
  ++ s.sched.saved.filterMap fun e => if e.ready s && (e.home s).getD core == core then some e.cmd else none

/-- QUANTUM_EXPIRY (R357): work that has held a core for QUANTUM_US is preempted at its coarse boundary for work of
another tenant at the same priority, when nothing of higher priority waits; a pass between two tiles stands at it. -/
def execQuantumExpiry (core cmd : Nat) (s : State) : Host.Outcome State Fault Refusal :=
  let cls := classOf s cmd
  let ten := fun i => (s.ctx (cmdOf s i).ctx).tenant
  let ws := (waitersFor s core).filter fun i => i != cmd
  let on := (s.core core).cmdsOn.contains cmd && !((s.core core).saving.contains cmd) && !stopAsked s core cmd
  match ws.find? fun i => classOf s i == cls && ten i != ten cmd with
  | none => .next s
  | some w =>
    if s.cfg.quantumUs ≠ 0 ∧ on ∧ 1 ≤ cls ∧ cls < 9 ∧ !(ws.any fun i => decide (cls < classOf s i)) then
      .next (tileBoundary (bump (notePreempt s ⟨core, cmd, w, false, true, false, .quantum⟩) uSched 0x150) core)
    else .next s

/-- A render pass that is resident on a binner (R350, R367): the binner of its next batch works on it, and has that batch to bin; a
pass whose binners stand stopped, or that waits for positions, is not. -/
def binned (s : State) (id : Nat) : Bool :=
  (tget? s.renders id).any fun r => tget? s.sched.binning r.nextBinner == some id && binReady s id r && !binStopped s id

/-- Some part of a command is resident on a core, a binner, the copy path or a Chipper engine (R367, R368). -/
def residentCmd (s : State) (id : Nat) : Bool :=
  (s.cores.any fun e => e.2.cmdsOn.contains id && !e.2.saving.contains id) || s.sched.copying == some id || binned s id
    || s.engines.any fun e => e.2.seg.any fun r => r.cut == id

/-- A watchdog fault of a command (R369), with the context's scheduling area told. -/
def watchdogFault (s : State) (id kind limit off : Nat) : State :=
  let c := cmdOf s id
  let s1 := setBlock (setBlock (setBlock s c.ctx 112 2 c.queue) c.ctx 114 1 kind) c.ctx 116 4 limit
  raise (bump s1 uSched off) ⟨c.ctx, ⟨cWatchdog, kind, 0, false, 0, 0⟩, uSched, 0xFF, true, c.queue, c.index, c.tag⟩

/-- QUEUE_WATCHDOG (R367, R369): the queue's count has reached its limit. -/
def execQueueWatchdog (q : Nat) (s : State) : Host.Outcome State Fault Refusal :=
  let x := s.queue q
  match oldestCmd s q with
  | none => .next s
  | some (id, _) =>
    let busy := s.cmds.any fun e => e.2.queue == q && (e.2.kind == .fenceWait || residentCmd s e.1)
    if x.st = .live ∧ x.wdLimit ≠ 0 ∧ busy then .next (watchdogFault s id 2 x.wdLimit 0x158) else .next s

/-- CONTEXT_WATCHDOG (R368, R369): a command's resident time has reached its context's limit. -/
def execContextWatchdog (cmd : Nat) (s : State) : Host.Outcome State Fault Refusal :=
  match tget? s.cmds cmd with
  | none => .next s
  | some c =>
    let x := s.ctx c.ctx
    if x.st = .live ∧ x.wdLimit ≠ 0 ∧ (c.kind = .dispatch ∨ c.kind = .cut ∨ c.kind = .render) ∧ residentCmd s cmd then
      .next (watchdogFault s cmd 3 x.wdLimit 0x160)
    else .next s

/-- CORE_PWR_EN rises at a latched wake once it has been low for 5 ms (R527). -/
def corePower (s : State) : State :=
  let w := s.power
  if w.sleep = .night ∧ w.wake ∧ !w.corePwr ∧ 192000 ≤ s.timer - w.coreAt.getD 0 then
    { s with power := { w with
        corePwr := true
        coreAt := some s.timer } }
  else s

end Sys2Proof.Machine
end

