-- ==== Sys2Proof/Machine/Clock.lean ====
section
/-! DEFINITION. What passes when no command waits: one period of the device timer. -/

namespace Sys2Proof.Machine

/-- The time counters of Table 14.14 of a stand: the offset that counts its present divider. -/
def timeCounter (d : Nat) : Option Nat :=
  match d with
  | 7 => some 0x110
  | 8 => some 0x118
  | 12 => some 0x120
  | _ => none

/-- One reference period of stand `k` (R461), while the root PLL runs. -/
def countStand (s : State) (k : Nat) : State :=
  match timeCounter (tget s.power.stands k .reset).divider with
  | some off => if s.power.pll then bump s (0xA0 + k) off else s
  | none => s

/-- Some work of a context is resident (R367, R377). -/
def ctxResident (s : State) (c : Nat) : Bool := s.cmds.any fun (e : Nat × Cmd) => e.2.ctx == c && residentCmd s e.1

/-- A tick of the timer counted for the contexts with resident work; RESIDENT_US follows (R377, Table 11.6): 38.4 ticks are one
microsecond. -/
def countResident (s : State) : State :=
  (s.ctxs.filter fun e => ctxResident s e.1).foldl (fun s e =>
    let x := s.ctx e.1
    let n := x.residentTicks + 1
    let s1 := s.setCtx e.1 { x with residentTicks := n }
    if n * 10 / 384 = x.residentTicks * 10 / 384 then s1 else setBlock s1 e.1 104 8 (n * 10 / 384)) s

/-- One tick of the device timer (Table 3.3: 38.4 MHz, 64 bits), which is one period of the reference.
DESIGN CHOICE, log entry 15: commands take no time. -/
def tick (s : State) : State :=
  corePower ((List.range 6).foldl countStand { countResident s with timer := (s.timer + 1) % 2 ^ 64 })

end Sys2Proof.Machine
end

