-- ==== Sys2Proof/Machine/Crc.lean ====
section
/-! DEFINITION. Blaze check values (R397, R398, Tables 12.4 and 12.5). -/

namespace Sys2Proof.Machine

/-- R_POLY, INIT (= XOROUT) and trailer bytes by POLY. -/
def crcPoly (p : Nat) : Nat := if p = 0 then 0x82F63B78 else 0xC96C5795D7870F42
def crcInit (p : Nat) : Nat := if p = 0 then 0xFFFFFFFF else 0xFFFFFFFFFFFFFFFF
def crcBytes (p : Nat) : Nat := if p = 0 then 4 else 8

def crcBit (p r : Nat) : Nat := if r % 2 = 1 then r / 2 ^^^ crcPoly p else r / 2
/-- One byte folded into the running value. -/
def crcByte (p r : Nat) (x : Byte) : Nat := (List.range 8).foldl (fun r _ => crcBit p r) (r ^^^ x.toNat)
def crcFold (p r : Nat) (bs : List Byte) : Nat := bs.foldl (crcByte p) r

/-- The 16 bytes of a pre-image. -/
def preImage (address sequence domain : Nat) : List Byte := leBytes 8 address ++ leBytes 4 sequence ++ leBytes 4 domain

/-- A check with pre-image (R398). -/
def crcCheck (p address sequence domain : Nat) (bs : List Byte) : Nat :=
  crcFold p (crcFold p (crcInit p) (preImage address sequence domain)) bs ^^^ crcInit p

end Sys2Proof.Machine
end

