-- ==== Sys2Proof/Machine/Flash.lean ====
section
/-! DEFINITION. The flash (R507 to R509, Tables 16.12 and 16.13): bytes, records in two copies, bank states. -/

namespace Sys2Proof.Machine

/-- The SPI pads are at high impedance: after FAIL 0x01, 0x02 and 0x03 (R515). -/
def spiOff (s : State) : Bool := decide (1 ≤ s.boot.fail ∧ s.boot.fail ≤ 3)

/-- Bytes read, programmed and erased. -/
def flashRead (s : State) (a n : Nat) : List Byte := (s.flash.read a n).map fun b => ~~~b
def flashWrite (s : State) (a : Nat) (bs : List Byte) : State :=
  if spiOff s then s else { s with flash := s.flash.write a (bs.map fun b => ~~~b) }
def flashErase (s : State) (a n : Nat) : State := if spiOff s then s else { s with flash := s.flash.erase a n }

/-- A record in two copies: MAGIC, offsets of the copies, size of a copy. -/
structure RecAt where
  magic : Nat
  a : Nat
  b : Nat
  size : Nat

def bankRec : RecAt := ⟨0x4E394253, 0x1000, 0x2000, 4096⟩
def retireRec : RecAt := ⟨0x4E395254, 0x4000, 0x8000, 16384⟩

/-- SEQUENCE and payload of a copy, none when it is not valid (R509). -/
def readCopy (s : State) (k : RecAt) (off : Nat) : Option (Nat × List Byte) :=
  let h := flashRead s off 16
  let n := fieldAt h 8 4
  let pl := flashRead s (off + 16) n
  if fieldAt h 0 4 = k.magic ∧ n + 16 ≤ k.size ∧ fieldAt h 12 4 = crcCheck 0 off (fieldAt h 4 4) 0 pl then some (fieldAt h 4 4, pl)
  else none

/-- A sequence number is newer than another (serial arithmetic). -/
def newerSeq (a b : Nat) : Bool := let d := (a + 2 ^ 32 - b) % 2 ^ 32; d != 0 && decide (d < 2 ^ 31)

/-- The payload that a reader takes (R509). -/
def readRec (s : State) (k : RecAt) : Option (List Byte) :=
  match readCopy s k k.a, readCopy s k k.b with
  | none, none => none
  | some x, none => some x.2
  | none, some y => some y.2
  | some x, some y => some (if newerSeq y.1 x.1 then y.2 else x.2)

/-- A copy written: its sectors erased, then the payload, then the header. -/
def writeCopy (s : State) (k : RecAt) (off seq : Nat) (pl : List Byte) : State :=
  let s1 := flashWrite (flashErase s off k.size) (off + 16) pl
  flashWrite s1 off (leBytes 4 k.magic ++ leBytes 4 seq ++ leBytes 4 pl.length ++ leBytes 4 (crcCheck 0 off seq 0 pl))

/-- A record updated (R509). -/
def writeRec (s : State) (k : RecAt) (pl : List Byte) : State :=
  match readCopy s k k.a, readCopy s k k.b with
  | none, none => writeCopy s k k.a 1 pl
  | some x, none => writeCopy s k k.b ((x.1 + 1) % 2 ^ 32) pl
  | none, some y => writeCopy s k k.a ((y.1 + 1) % 2 ^ 32) pl
  | some x, some y =>
    if newerSeq y.1 x.1 then writeCopy s k k.a ((y.1 + 1) % 2 ^ 32) pl else writeCopy s k k.b ((x.1 + 1) % 2 ^ 32) pl

/-- STATE of a bank (Table 16.13). -/
inductive BankSt where
  | empty | staged | probation | good | bad
  deriving DecidableEq, Repr

def BankSt.code : BankSt → Nat
  | .empty => 0
  | .staged => 1
  | .probation => 2
  | .good => 3
  | .bad => 4

def bankOfCode (n : Nat) : BankSt :=
  if n = 1 then .staged else if n = 2 then .probation else if n = 3 then .good else if n = 4 then .bad else .empty

/-- The state of a bank as its record has it. -/
def bankSt (s : State) (b : Nat) : BankSt := bankOfCode (fieldAt ((readRec s bankRec).getD []) (8 * b) 1)
def bankVersion (s : State) (b : Nat) : Nat := fieldAt ((readRec s bankRec).getD []) (8 * b + 4) 4

/-- A bank's entry of the record written. -/
def setBank (s : State) (b : Nat) (st : BankSt) (version : Nat) : State :=
  let old := ((readRec s bankRec).getD []).take 16
  let pl := old ++ List.replicate (16 - old.length) 0
  writeRec s bankRec (putAt pl (8 * b) (leBytes 4 st.code ++ leBytes 4 version))

/-- Flash address and size of a bank, and the image in it. -/
def bankBase (b : Nat) : Nat := if b = 0 then 0x10000 else 0x1010000
def bankBytes : Nat := 0x1000000
def bankImage (s : State) (b : Nat) : List Byte :=
  let n := fieldAt (flashRead s (bankBase b) 64) 24 4
  flashRead s (bankBase b) (min n bankBytes)

end Sys2Proof.Machine
end

