-- ==== Sys2Proof/Machine/Sync.lean ====
section
/-! DEFINITION. The synchronisation instructions of class 0xA (R59 to R65, R75, R116 to R118) and the timeout of a fence
wait (R330). -/

namespace Sys2Proof.Machine

/-- No reserved bit of format X is set, no extension word follows, and SCOPE is 0. -/
def encXOk (e : EncX) : Bool := !e.h.long && !e.h.rsv48 && e.rsvHi == 0 && e.rsvLo == 0

/-- A uniform register, and a uniform pair (R101). -/
def uregOk (r : BitVec 8) : Bool := decide (r.toNat < 64)
def upairOk (r : BitVec 8) : Bool := decide (r.toNat < 64) && r.toNat % 2 == 0

/-- The checks before an instruction of format X acts: issue and encoding. -/
def stepX (s : State) (g : GroupAt) (code : List Nat) (ok : Bool) (k : State → Group → State) : State :=
  inCycle s g fun s => match issueCheck s g code with
  | .stall => s
  | .fault a s1 => groupFault s1 g a
  | .go s1 => if !ok then groupFault s1 g (illegalFault dUndefined) else k s1 (s1.group g)

/-- The group after an instruction of 8 bytes, the issue counted. -/
def finishX (s : State) (g : GroupAt) (y : Group) : State :=
  (countIssue s g).setGroup g { y with pc := y.pc + 8, promoted := false }

/-- bar carries PRED = 7 and PNEG = 0, and only C beside it (R107, R116). -/
def barOk (e : EncX) : Bool :=
  encXOk e && e.scope == 0 && e.h.pred == 7 && !e.h.pneg && e.a == 0 && e.b == 0 && e.dst == 0

/-- bar (R59 to R65, R116): it is a release by the arriving lanes (R62), so it issues once their earlier stores have
taken effect. -/
def execBar (g : GroupAt) (e : EncX) (s : State) : Host.Outcome State Fault Refusal :=
  done (stepX s g (e.code 0) (barOk e) fun s1 x =>
    if 8 ≤ e.c.toNat then groupFault s1 g (illegalFault dBarrierId)
    else if pendAny (s1.core g.core) x.gid x.active then s1
    else match x.barrierWait e.c.toNat (x.pc + 8) with
      | .error d => groupFault s1 g (illegalFault d)
      | .ok y => settleWg ((countIssue s1 g).setGroup g { y with promoted := false }) g.core x.wg)

def membarOk (e : EncX) : Bool :=
  encXOk e && e.scope != 3 && e.h.pred == 7 && !e.h.pneg && e.a == 0 && e.b == 0 && e.c == 0 && e.dst == 0

/-- membar (R70, R78, R117): it completes once every earlier store of the issuing lanes has taken effect. -/
def execMembar (g : GroupAt) (e : EncX) (s : State) : Host.Outcome State Fault Refusal :=
  done (stepX s g (e.code 1) (membarOk e) fun s1 x =>
    if pendAny (s1.core g.core) x.gid x.active then s1 else finishX s1 g x)

/-- The right that a context's binding gives on the fence a uniform register names: 0 where the number is too large or
the fence is not bound (R118, R326). -/
def boundRight (s : State) (c n : Nat) : Nat :=
  if n < nFences ∧ (s.fence n).st ≠ .free then tget (s.fence n).binds c 0 else 0

/-- A fence value as a context names it: a heritage context uses bits [31:0] (R118). -/
def ctxValue (s : State) (c v : Nat) : Nat := if (s.ctx c).heritage then v % 2 ^ 32 else v

def fsigOk (e : EncX) : Bool := encXOk e && e.scope == 0 && e.dst == 0 && uregOk e.a && upairOk e.b && e.c == 0

/-- fsig (R75, R118, R320, R326): a release at device scope by every active lane. -/
def execFsig (g : GroupAt) (e : EncX) (s : State) : Host.Outcome State Fault Refusal :=
  done (stepX s g (e.code 2) (fsigOk e) fun s1 x =>
    let n := (x.uget e.a.toNat).toNat
    if x.guard e.h = 0 then finishX s1 g x
    else if boundRight s1 x.ctx n ≠ 2 then groupFault s1 g (illegalFault dFenceAccess)
    else if pendAny (s1.core g.core) x.gid x.active then s1
    else settle [.signal (.ctx x.ctx 1 0xFFFF) n (BitVec.ofNat 64 (ctxValue s1 x.ctx (x.uget64 e.b.toNat)))]
      (finishX s1 g x))

/-- A deadline of T µs from now, in periods of the device timer, none for 0 (R330). -/
def deadlineOf (s : State) (us : Nat) : Option Nat := if us = 0 then none else some (s.timer + ceilDiv (us * 384) 10)

def fwaitOk (e : EncX) : Bool := encXOk e && e.scope == 0 && uregOk e.dst && uregOk e.a && upairOk e.b && uregOk e.c

/-- fwait (R118, R328 to R330): the wait is registered, and ends at once when the fence already satisfies it. -/
def execFwait (g : GroupAt) (e : EncX) (s : State) : Host.Outcome State Fault Refusal :=
  done (stepX s g (e.code 3) (fwaitOk e) fun s1 x =>
    let n := (x.uget e.a.toNat).toNat
    let t := ctxValue s1 x.ctx (x.uget64 e.b.toNat)
    if x.guard e.h = 0 then finishX s1 g x
    else if boundRight s1 x.ctx n = 0 then groupFault s1 g (illegalFault dFenceAccess)
    else
      let w : GWait := .fence n t (deadlineOf s1 (x.uget e.c.toNat).toNat) e.dst.toNat
      let s2 := (countIssue s1 g).setGroup g { x with wait := w, promoted := false }
      match (s2.fence n).outcome t with
      | some st => endFwait s2 g st
      | none => s2)

def freadOk (e : EncX) : Bool := encXOk e && e.scope == 0 && upairOk e.dst && uregOk e.a && e.b == 0 && e.c == 0

/-- fread (R118, R332): the fence's current value; a heritage fence holds 0 in bits [63:32]. -/
def execFread (g : GroupAt) (e : EncX) (s : State) : Host.Outcome State Fault Refusal :=
  done (stepX s g (e.code 4) (freadOk e) fun s1 x =>
    let n := (x.uget e.a.toNat).toNat
    if x.guard e.h = 0 then finishX s1 g x
    else if boundRight s1 x.ctx n = 0 then groupFault s1 g (illegalFault dFenceAccess)
    else finishX s1 g (x.usetN true e.dst.toNat (s1.fence n).value.toNat))

/-- FENCE_TIMEOUT (R329, R330): a wait whose deadline has passed ends; reaching and poison come first. -/
def execFenceTimeout (w : Waiter) (s : State) : Host.Outcome State Fault Refusal :=
  match w with
  | .group core slot =>
    let x := s.group (slotAt core slot)
    match x.wait with
    | .fence n t d _ =>
      done (if x.live && timedOut s d then endFwait s (slotAt core slot) (((s.fence n).outcome t).getD 2) else s)
    | _ => done s
  | .queue q =>
    match (s.queue q).wait with
    | some w =>
      done (if timedOut s w.deadline then
        settle [.waitFault (waitFault s q w cWatchdog 1) w.fence] s else s)
    | none => done s

end Sys2Proof.Machine
end

