-- ==== Sys2Proof/Machine/QueueOps.lean ====
section
/-! DEFINITION. The queue front end: when it fetches a packet, what it checks, how a packet faults, and how a command
starts (R306, R309, R311, R312, R465). -/

namespace Sys2Proof.Machine

def dBadPacket : Nat := 0x16
def dBadDoorbell : Nat := 0x17
/-- Field at offset `o` of a packet, its header included (Table 9.15). -/
def pField (p : Pkt) (o n : Nat) : Nat := fieldAt p.body (o - 8) n

/-- The packet's bytes from offset `o` to below `e` are 0. -/
def pZero (p : Pkt) (o e : Nat) : Bool := pField p o (e - o) == 0

/-- Ring units of a queue (Table 9.11). -/
def Queue.units (q : Queue) : Nat := q.ringBytes / 16

/-- Units accepted and not yet fetched. -/
def Queue.avail (q : Queue) : Nat := (q.last + 2 ^ 32 - q.read) % 2 ^ 32

/-- A Ringmark open whose items are being hashed, or a cut that is to be folded, holds its queue (R190, R193). -/
def digestHolds (s : State) (n : Nat) : Bool :=
  s.cmds.any fun (e : Nat × Cmd) => e.2.queue == n && (e.2.kind == .ringOpen || (match tget? s.cuts e.1 with
    | some p => !p.folded
    | none => false))

/-- The front end may fetch from a queue: queue and context LIVE, no FENCE_WAIT holds it, Kreog runs, the front ends have
not acknowledged a Night step, and a packet is there (R307, R309, R407, R447). -/
def fetchReady (s : State) (n : Nat) : Bool :=
  let q := s.queue n
  !digestHolds s n && !(s.power.dusk.any fun e => e.2.agents.contains (.queues, .acked)) && q.st == .live && (s.ctx q.ctx).st == .live && q.wait.isNone && s.ranger.up && q.avail != 0

/-- A fault of a queue's context that names the packet at the read index (R312). -/
def packetFault (s : State) (p : Pkt) (a : AccFault) : State :=
  let q := s.queue p.q
  raise (notePoison s a) ⟨q.ctx, a, uSched, 0xFF, true, p.q, q.read, p.tag.toNat⟩

/-- A fault that names a descriptor or program image in place of a program counter (R99, R155, R204, R206). -/
def descFault (s : State) (p : Pkt) (va detail : Nat) : State :=
  let q := s.queue p.q
  raise s ⟨q.ctx, illegalFault detail, uSched, 0xFF, false, p.q, va, p.tag.toNat⟩

/-- The physical address of the ring unit at an index, while the ring is in DRAM (R306). -/
def ringPa (s : State) (q : Queue) (i : Nat) : Nat := (s.obj q.ringObj).base + q.ringOff + i % q.units * 16

/-- A poisoned word in the packet (Table 15.2). -/
def packetPoison (s : State) (p : Pkt) : Option AccFault :=
  let q := s.queue p.q
  let a := ringPa s q q.read
  (poisonedWord s a (p.size16.toNat * 16)).map fun w => ⟨cEcc, eMemory, w * 8, false, 0, 0⟩

/-- The commands of a queue that have not completed. -/
def queueBusy (s : State) (q : Nat) : Bool := s.cmds.any fun e => e.2.queue == q

/-- The checks of R312 on header and place: SIZE16, FLAGS, the ring end and the last accepted doorbell value. -/
def headerOk (s : State) (p : Pkt) (min : Nat) : Bool :=
  let q := s.queue p.q
  let n := p.size16.toNat
  decide (1 ≤ n) && decide (min ≤ n) && decide (p.flags.toNat < 2)
    && decide (q.read % q.units + n ≤ q.units) && decide (n ≤ q.avail)

/-- A packet fetched, checked, and held back by its barrier where earlier commands have not completed (R309); `ok` is
the packet's own part of R312 and `k` what it does. -/
def fetchPacket (s : State) (p : Pkt) (min : Nat) (implied ok : Bool) (k : State → State) : State :=
  if !fetchReady s p.q then s
  else if !(headerOk s p min && ok) then packetFault s p (illegalFault dBadPacket)
  else match packetPoison s p with
    | some a => packetFault s p a
    | none => if (implied || p.flags.getLsbD 0) && queueBusy s p.q then s else k s

/-- The index after a packet. -/
def nextIndex (s : State) (p : Pkt) : Nat := ((s.queue p.q).read + p.size16.toNat) % 2 ^ 32

/-- The packet consumed: the read index moves past it, and the report follows (R308). -/
def consume (s : State) (p : Pkt) : State :=
  report (s.setQueue p.q { s.queue p.q with read := nextIndex s p }) p.q

/-- A command started: the packet consumed and the command entered under its number. -/
def startCmd (s : State) (p : Pkt) (c : Cmd) : State :=
  let id := s.nextCmd
  let s1 := { s with cmds := tset s.cmds id c, nextCmd := id + 1 }
  consume s1 p

/-- A fresh command of a packet. -/
def newCmd (s : State) (p : Pkt) (k : CmdKind) : Cmd :=
  let q := s.queue p.q
  Cmd.base k p.q q.ctx q.read (nextIndex s p) p.tag.toNat s.maps.gen

/-- Whether a queue command may use an object by slot and generation (R300, R301). -/
def nameOk (s : State) (q index o gen : Nat) : Bool :=
  let x := s.obj o
  match x.st with
  | .live => x.gen == gen
  | .retiring => x.gen == gen && decide ((tget x.points q index + 2 ^ 32 - index) % 2 ^ 32 - 1 < 2 ^ 31 - 1)
      && tget x.points q index != index
  | .free => false

end Sys2Proof.Machine
end

