-- ==== Sys2Proof/Machine/Launch.lean ====
section
/-! DEFINITION. Program headers (R98, R99), the DISPATCH packet (R52, R183, Table 9.16) and the completion of commands
(R309). -/

namespace Sys2Proof.Machine

/-- Bytes of a virtual range read by the queue front end; the state after is that of the translations made. -/
def frontRead (s : State) (c va n : Nat) : Except AccFault (List Byte × State) := vread s c va n

/-- The header of a program image from its 64 bytes (Table 3.1). -/
def progOf (va : Nat) (h : List Byte) : Prog :=
  let fl := fieldAt h 7 1
  ⟨va, fieldAt h 6 1, bitOf fl 0, bitOf fl 1, bitOf fl 2, bitOf fl 3, fieldAt h 8 2, fieldAt h 10 1, fieldAt h 12 2,
    fieldAt h 16 2, fieldAt h 18 2, fieldAt h 20 2, fieldAt h 24 4, fieldAt h 28 4⟩

/-- The fields of a header that have one legal value. -/
def headerFixed (h : List Byte) : Bool :=
  fieldAt h 0 4 == 0x4E395048 && fieldAt h 4 1 == 1 && fieldAt h 5 1 == 1 && decide (fieldAt h 7 1 < 16)
    && fieldAt h 11 1 == 0 && fieldAt h 14 2 == 0 && fieldAt h 22 2 == 0 && fieldAt h 32 32 == 0

/-- The rules of R99 for a header in a context that is heritage or not. -/
def headerGood (h : List Byte) (heritage : Bool) : Bool :=
  let p := progOf 0 h
  headerFixed h && p.regs % 8 == 0 && decide (8 ≤ p.regs ∧ p.regs ≤ 256)
    && decide (p.scratchKib ≤ 256 ∧ p.preload ≤ 48) && p.codeSize % 8 == 0 && decide (8 ≤ p.codeSize ∧ p.codeSize ≤ 2 ^ 26)
    && p.entry % 8 == 0 && decide (p.entry < p.codeSize)
    && (if p.kind = 0 then decide (1 ≤ p.threads ∧ p.threads ≤ 1024) else decide (3 < p.kind) || (p.wgX == 1 && p.wgY == 1 && p.wgZ == 1))
    && p.heritage == heritage

/-- What reading and checking a program image finds: the program, a fault of the access, or BAD_HEADER. -/
inductive HeaderRes where
  | ok (p : Prog) (s : State)
  | access (f : AccFault)
  | bad

/-- A program image read and checked (R99). -/
def loadHeader (s : State) (c va : Nat) : HeaderRes :=
  if va % 256 ≠ 0 then .bad
  else match frontRead s c va 64 with
    | .error f => .access f
    | .ok (h, s1) => if headerGood h (s.ctx c).heritage then .ok (progOf va h) s1 else .bad

/-- The body of DISPATCH in range and reserved bytes 0 (Table 9.16). -/
def dispatchOk (p : Pkt) : Bool :=
  let grid := fun o => decide (1 ≤ pField p o 4 ∧ pField p o 4 ≤ 0x7FFFFFFF)
  grid 16 && grid 20 && grid 24 && decide (pField p 28 1 ≤ 48) && pZero p 29 32

/-- The 32-bit words of an argument block of a packet (R100). -/
def argWords (p : Pkt) (n : Nat) : List Word := (List.range n).map fun i => BitVec.ofNat 32 (pField p (32 + 4 * i) 4)

/-- DISPATCH (R52, R99, R183, R309, R354, Table 9.16). -/
def execDispatch (p : Pkt) (s : State) : Host.Outcome State Fault Refusal :=
  let n := pField p 28 1
  .next (fetchPacket s p (2 + ceilDiv n 4) false (dispatchOk p) fun s =>
    let c := (s.queue p.q).ctx
    let va := pField p 8 8
    match loadHeader s c va with
    | .access f => packetFault s p f
    | .bad => descFault s p va dBadHeader
    | .ok pr s1 =>
      if pr.kind ≠ 0 then descFault s1 p va dBadHeader
      else if n < pr.preload then packetFault s1 p (illegalFault dBadPacket)
      else match noUnit s1 (s.ctx c).heritage pr.tensor with
        | some d => descFault s1 p va d
        | none =>
          let cmd := { newCmd s1 p .dispatch with
            prog := pr, gridX := pField p 16 4, gridY := pField p 20 4, gridZ := pField p 24 4, args := argWords p n }
          startCmd s1 p cmd)

/-- A command of the queue front ends has done all its work at device scope. -/
def workDone (s : State) (id : Nat) (c : Cmd) : Bool :=
  match c.kind with
  | .dispatch => c.doneWgs == c.total && !storesOf s id
  | .copy => c.copied == c.bytes
  | .fill => c.copied == c.bytes
  | _ => false

/-- A command whose work is done completes (R308, R309, R315). -/
def commandComplete (cmd : Nat) (s : State) : State :=
  match tget? s.cmds cmd with
  | none => s
  | some c => if workDone s cmd c && (s.ctx c.ctx).st == .live then finishCmd s cmd else s

end Sys2Proof.Machine
end

