-- ==== Sys2Proof/Machine/Access.lean ====
section
/-! DEFINITION. Host accesses to BAR0: whose they are (R43, R286), which bytes they carry (R10, R489), what the error
log keeps of those that are refused (R13, R42, R288). -/

namespace Sys2Proof.Machine

/-- The tenant that a port's requester ID and PASID are bound to (R43, R286). -/
def boundTo (s : State) (port rid : Nat) (pasid : Option Nat) : Option Nat :=
  firstBelow nTenants fun t =>
    let x := s.tenant t
    x.st != .free && x.port == port && x.rid == rid && x.pasid == pasid

def accTenant (s : State) (a : Access) : Option Nat := boundTo s a.port a.rid a.pasid

/-- An access can arrive: the port exists and its link is up. -/
def accUp (s : State) (a : Access) : Bool := decide (a.port < 3) && (s.port a.port).up

/-- The byte enables of an access cover bytes `lo` to `hi` of the register. -/
def accCovers (a : Access) (lo hi : Nat) : Bool :=
  (List.range (hi + 1 - lo)).all fun i => a.be.getLsbD (lo + i)

/-- A register's value with the enabled bytes of a write. -/
def accMerge (a : Access) (old : DWord) : DWord :=
  BitVec.ofNat 64 (leNat ((List.range 8).map fun i =>
    BitVec.ofNat 8 (if a.be.getLsbD i then a.data.toNat / 2 ^ (8 * i) else old.toNat / 2 ^ (8 * i))))

/-- The same for a register with reserved fields: they read 0 and ignore what is written to them (R11); `mask` holds the
bits of the others. -/
def accFields (a : Access) (mask old : DWord) : DWord := accMerge a old &&& mask

/-- The bits of a write that are 1 in enabled bytes. -/
def accOnes (a : Access) : DWord := accMerge a 0

/-- A refused or discarded write in the error log of tenant `t` (R288). -/
def accLog (s : State) (a : Access) (t kind off : Nat) : State := logTenant s t ⟨kind, true, a.rid, off, s.timer⟩

/-- The same in the log of the tenant that the access is bound to; an access bound to no tenant is in no log. -/
def accRefuse (s : State) (a : Access) (kind off : Nat) : State :=
  match accTenant s a with
  | some t => accLog s a t kind off
  | none => s

/-- A write to a register of tenant `t`'s own page: refused for every other accessor (R42). -/
def ownPage (s : State) (a : Access) (t off : Nat) (k : State) : State :=
  if !accUp s a then s else if accTenant s a = some t then k else accRefuse s a 0x2 off

end Sys2Proof.Machine
end

