-- ==== Sys2Proof/Machine/Packets.lean ====
section
/-! DEFINITION. Queue doorbells and the packets that complete in the front end: NOP, fences, cache and TLB maintenance
(R307, R311 to R314, R320, R326, R328 to R330). -/

namespace Sys2Proof.Machine

/-- BAR0 offset of QUEUE_DOORBELL[i] of tenant t. -/
def doorbellOff (t i : Nat) : Nat := 0x2000000 + 0x1000 * t + 8 * i

/-- The queue at doorbell index `i` of a tenant. -/
def doorQueue (s : State) (t i : Nat) : Option Nat :=
  (s.queues.find? fun e => e.2.st != .free && e.2.door == i && (s.ctx e.2.ctx).tenant == t).map Prod.fst

/-- A doorbell write of value W to a queue (R307). -/
def ringDoorbell (s : State) (a : Access) (t i q w : Nat) : State :=
  let x := s.queue q
  if 2 ^ 31 ≤ (w + 2 ^ 32 - x.last) % 2 ^ 32 ∨ w = x.last then accLog s a t 0x5 (doorbellOff t i)
  else if x.units < (w + 2 ^ 32 - x.read) % 2 ^ 32 then
    raise s ⟨x.ctx, illegalFault dBadDoorbell, uSched, 0xFF, true, q, x.read, 0⟩
  else report (s.setQueue q { x with last := w }) q

/-- QUEUE_DOORBELL (R307). -/
def execQueueDoorbell (a : Access) (t i : Nat) (s : State) : Host.Outcome State Fault Refusal :=
  .next (ownPage s a t (doorbellOff t i) (match doorQueue s t i with
    | none => accLog s a t 0x6 (doorbellOff t i)
    | some q =>
      if !accCovers a 0 3 then accLog s a t 0x5 (doorbellOff t i)
      else if (s.queue q).service then accLog s a t 0xD (doorbellOff t i)
      else ringDoorbell s a t i q (a.data.toNat % 2 ^ 32)))

/-- NOP_PACKET (R311). -/
def execNopPacket (p : Pkt) (s : State) : Host.Outcome State Fault Refusal :=
  .next (fetchPacket s p 1 false true fun s => consume s p)

/-- BAD_PACKET (R312): a reserved OPCODE. -/
def execBadPacket (p : Pkt) (opcode : BitVec 16) (s : State) : Host.Outcome State Fault Refusal :=
  let known : List Nat := [0, 1, 2, 3, 0x10, 0x11, 0x20, 0x21, 0x22, 0x23, 0x30, 0x31, 0x40, 0x41]
  .next (if known.contains opcode.toNat then s else fetchPacket s p 0 false false fun s => s)

/-- The body of FENCE_SIGNAL and FENCE_WAIT in range and reserved bytes 0 (Table 9.18). -/
def fencePktOk (p : Pkt) (wait : Bool) : Bool :=
  decide (pField p 8 2 < nFences) && pZero p 10 12 && (wait || pZero p 12 16) && pZero p 24 32

/-- The binding of a context on a fence. -/
def bindRight (s : State) (c f : Nat) : Nat := if (s.fence f).st = .free then 0 else tget (s.fence f).binds c 0

/-- FENCE_SIGNAL packet (R320, R323, R326). -/
def execFenceSignal (p : Pkt) (s : State) : Host.Outcome State Fault Refusal :=
  .next (fetchPacket s p 2 true (fencePktOk p false) fun s =>
    let c := (s.queue p.q).ctx
    let f := pField p 8 2
    if bindRight s c f ≠ 2 then packetFault s p (illegalFault dFenceAccess)
    else settle [.signal (.ctx c 2 p.q) f (BitVec.ofNat 64 (pField p 16 8))] (consume s p))

/-- FENCE_WAIT packet (R309, R326, R328 to R330): the wait is registered and ends at once where the fence already
satisfies it. -/
def execFenceWait (p : Pkt) (s : State) : Host.Outcome State Fault Refusal :=
  .next (fetchPacket s p 2 false (fencePktOk p true) fun s =>
    let c := (s.queue p.q).ctx
    let f := pField p 8 2
    if bindRight s c f = 0 then packetFault s p (illegalFault dFenceAccess)
    else
      let id := s.nextCmd
      let w : QWait := ⟨f, pField p 16 8, deadlineOf s (pField p 12 4), id⟩
      let s1 := startCmd s p (newCmd s p .fenceWait)
      let s2 := s1.setQueue p.q { s1.queue p.q with wait := some w }
      let (s3, acts) := endQwaits s2 f
      settle acts s3)

/-- VA and BYTES of a maintenance packet, multiples of `align`, with the reserved bytes 0 (Table 9.19). -/
def rangePktOk (p : Pkt) (align : Nat) : Bool :=
  pField p 8 8 % align == 0 && pField p 16 8 % align == 0 && pZero p 24 32

/-- A dirty line of a cached host window page written to the host (R77, R313). -/
def flushLine (s : State) (ln : Nat) : State :=
  match tget? s.mem.lines ln, paKind (ln * 128) with
  | some l, .host p off =>
    if l.dirty then
      let s1 := hostWriteLine s p off ln l.data
      s1.setMem { s1.mem with lines := tset s1.mem.lines ln { l with dirty := false } }
    else s
  | _, _ => s

/-- A line removed from the system cache and from every L1 (R313). -/
def removeLine (s : State) (ln : Nat) : State :=
  let s1 := s.setMem { s.mem with
    lines := tdrop s.mem.lines (· == ln)
    cache := s.mem.cache.filter fun e => e.line != ln }
  invalidateLine s1 none ln

/-- The lines that the system cache holds of host window pages, and those that only an L1 or a fill buffer does. -/
def heldLines (s : State) : List Nat :=
  s.cores.foldl (fun acc e => acc ++ (e.2.l1.map Prod.snd) ++ (e.2.demand.map fun f => f.2.line) ++ e.2.prefetch.map fun f => f.2.line)
    (s.mem.lines.map Prod.fst)

/-- The lines held anywhere of cached host window pages that a context maps in a range, page by page. -/
def hostLinesIn : Nat → State → Nat → Nat → Nat → List Nat
  | 0, _, _, _, _ => []
  | fuel + 1, s, c, va, n =>
    if n = 0 then []
    else
      let k := chunkLen 4096 va n
      let rest := hostLinesIn fuel s c (va + k) (n - k)
      match locate? s c va false with
      | some p =>
        if p.host && p.cached then
          ((heldLines s).filter fun ln => decide (p.pa / 128 ≤ ln ∧ ln * 128 < p.pa + k)) ++ rest
        else rest
      | none => rest

def linesInRange (s : State) (c va n : Nat) : List Nat := hostLinesIn (n / 4096 + 2) s c va n

/-- FLUSH (R313). -/
def execFlush (p : Pkt) (s : State) : Host.Outcome State Fault Refusal :=
  .next (fetchPacket s p 2 true (rangePktOk p 128) fun s =>
    consume ((linesInRange s (s.queue p.q).ctx (pField p 8 8) (pField p 16 8)).foldl flushLine s) p)

/-- INVALIDATE (R313). -/
def execInvalidate (p : Pkt) (s : State) : Host.Outcome State Fault Refusal :=
  .next (fetchPacket s p 2 true (rangePktOk p 128) fun s =>
    let ls := linesInRange s (s.queue p.q).ctx (pField p 8 8) (pField p 16 8)
    consume (ls.foldl (fun s ln => removeLine (flushLine s ln) ln) s) p)

/-- Instruction cache lines of a context removed in every core (R76, R314). -/
def icacheDrop (s : State) (c : Nat) : State :=
  s.setMem { s.mem with icache := s.mem.icache.filter fun e => e.ctx != c }

/-- ICACHE_INVALIDATE (R314). -/
def execIcacheInvalidate (p : Pkt) (s : State) : Host.Outcome State Fault Refusal :=
  .next (fetchPacket s p 1 true true fun s => consume (icacheDrop s (s.queue p.q).ctx) p)

/-- TLB_INVALIDATE (R297, R314). -/
def execTlbInvalidate (p : Pkt) (s : State) : Host.Outcome State Fault Refusal :=
  .next (fetchPacket s p 2 true (rangePktOk p 4096) fun s =>
    consume (tlbDrop s (s.queue p.q).ctx (pField p 8 8) (pField p 16 8)) p)

end Sys2Proof.Machine
end

