-- ==== Sys2Proof/Machine/Tensor.lean ====
section
/-! DEFINITION. The tensor instructions and what completes them (R121 to R130, R136 to R149, R169). -/

namespace Sys2Proof.Machine

/-- The pairs of R121. -/
def tensorPair (a b : Nat) : Bool :=
  (a == b && decide (1 ≤ a ∧ a ≤ 0xC)) || (decide (3 ≤ a ∧ a ≤ 4) && decide (3 ≤ b ∧ b ≤ 4))
    || (decide (5 ≤ a ∧ a ≤ 9) && decide (5 ≤ b ∧ b ≤ 9)) || (a == 0xB && b == 0xC)
    || (b == 0xD && [1, 2, 3, 4, 5, 9, 0xC].contains a) || (a == 0xE && b == 0xB)

/-- BLK for formats of which one has block scales, or none has. -/
def blkOk (scaled : Bool) (blk : BitVec 2) : Bool := if scaled then blk == 1 || blk == 2 else blk == 0

/-- Fields common to format T. -/
def encTOk (e : EncT) : Bool := !e.h.long && !e.h.rsv48 && e.rsv == 0

def tmmaOk (e : EncT) : Bool :=
  encTOk e && tensorPair e.afmt.toNat e.bfmt.toNat
    && blkOk (tfScale e.afmt.toNat != 0 || tfScale e.bfmt.toNat != 0) e.blk
    && (if e.bfmt = 0xD then e.tw != 3 else e.tw == 0)
    && uregOk e.a && uregOk e.b && uregOk e.c && uregOk e.k

def tcvtOk (e : EncT) : Bool :=
  encTOk e && (decide (1 ≤ e.afmt.toNat ∧ e.afmt.toNat ≤ 9) || e.afmt == 0xE) && e.bfmt == 0 && e.tw == 0 && !e.acc
    && blkOk (tfScale e.afmt.toNat != 0) e.blk && uregOk e.a && e.b == 0 && uregOk e.c && e.k == 0

def twldOk (e : EncT) : Bool :=
  encTOk e && e.afmt == 0 && e.bfmt == 0 && e.blk == 0 && !e.acc && e.tw == 0 && upairOk e.a && uregOk e.b && uregOk e.c
    && e.k == 0

def tsyncOk (e : EncT) : Bool :=
  encTOk e && e.afmt == 0 && e.bfmt == 0 && e.blk == 0 && !e.acc && e.tw == 0 && e.a == 0 && e.b == 0 && e.c == 0
    && decide (e.k.toNat < 16)

/-- A tensor instruction reaches the reservation: its group belongs to the pass that holds it. -/
def Core.ownsTile (c : Core) (x : Group) : Bool := c.holder == some (c.wgAt x.wg).cmd

/-- A range of the reservation meets the second half of a DOUBLE slab (R169). -/
def Core.secondHalf (c : Core) (a n : Nat) : Bool :=
  c.doubles.any fun d => decide (a < d.1 + 2 * d.2 ∧ d.1 + d.2 < a + n)

/-- The detail for an operand of `n` bytes at a tile address (R123, R127, R49, R169), none when it lies inside. -/
def tileFault (c : Core) (x : Group) (a n : Nat) : Option Nat :=
  if 2 ^ 20 ≤ a ∨ a % 128 ≠ 0 then some dTensorShape
  else if tileSpace a = 0 then
    (if !c.ownsTile x || decide (c.reserved < tileOff a + n) || c.secondHalf (tileOff a) n then some dTensorShape else none)
  else if 2 ^ 19 < tileOff a + n then some dTensorShape
  else if (c.wgAt x.wg).scratchKib * 1024 < tileOff a + n then some dTileRange
  else none

/-- The first of several details: TENSOR_SHAPE before TILE_RANGE. -/
def worstTile (ds : List (Option Nat)) : Option Nat :=
  if ds.contains (some dTensorShape) then some dTensorShape else if ds.contains (some dTileRange) then some dTileRange else none

/-- The checks on a tmma's operands (R123). -/
def tmmaShape (c : Core) (x : Group) (e : EncT) (a b cc k : Nat) : Option Nat :=
  let bl := blkLen e.blk.toNat
  if k = 0 ∨ k % 32 ≠ 0 ∨ 65536 < b + tfBytes e.bfmt.toNat e.tw.toNat bl k then some dTensorShape
  else worstTile [tileFault c x a (tfBytes e.afmt.toNat 0 bl k), tileFault c x cc 4096]

/-- Ranges that two tensor instructions of one group may not share: the later one's reads with the earlier one's
writes, and its writes with either (R129). -/
def tensorClash (o n : TqEntry) : Bool :=
  let meets := fun (p q : Nat × Nat × Nat) => p.1 == q.1 && decide (p.2.1 < q.2.1 + q.2.2) && decide (q.2.1 < p.2.1 + p.2.2)
  ((tensorRanges o false).any fun p => (tensorRanges n true).any fun q => meets p q)
    || ((tensorRanges o true).any fun p => (tensorRanges n false).any fun q => meets p q)

/-- Whether a tensor instruction of a group may enter the queue now: an entry is free, no requeued instruction waits,
fewer than 16 of its own are outstanding (R128, R130), and R129 does not hold a twld back. -/
def tqRoom (c : Core) (e : TqEntry) (twld : Bool) : Bool :=
  c.requeue.isEmpty && decide (c.tq.length < 16)
    && !(twld && c.tq.any fun o => o.gid == e.gid && tensorClash o e)

/-- The tile address by which a tensor instruction reaches a byte of the reservation: in an odd tile the second half of a DOUBLE
slab by its first half's addresses, and the first half by none (R169). -/
def Core.reachedAs (c : Core) (p : Nat) : Option Nat :=
  if !c.odd then some p
  else match c.doubles.find? fun d => decide (d.1 ≤ p ∧ p < d.1 + 2 * d.2) with
    | some d => if p < d.1 + d.2 then none else some (p - d.2)
    | none => some p

/-- An uncorrectable error in a word of tile memory or of the weight buffer that a range covers (Table 15.1). -/
def Core.badRange (c : Core) (wg space a n : Nat) : Bool :=
  if space = 2 then c.badWeight.any fun w => decide (w * 8 < a + n ∧ a < w * 8 + 8)
  else c.badTile.any fun w =>
    if space = 0 then decide (2 ^ 24 ≤ w)
      && (c.reachedAs ((w - 2 ^ 24) * 4)).any fun x => decide (x < a + n ∧ a < x + 4)
    else decide (w / 65536 = wg) && decide (w % 65536 * 4 < a + n ∧ a < w % 65536 * 4 + 4)

/-- The ECC detail of an operand that a tensor instruction reads. -/
def tensorEcc (c : Core) (q : TqEntry) : Option Nat :=
  match q.op with
  | .tmma af bf blk tw acc a b cc k =>
    let bl := blkLen blk
    if c.badRange q.wg (tileSpace a) (tileOff a) (tfBytes af 0 bl k) || (acc && c.badRange q.wg (tileSpace cc) (tileOff cc) 4096)
    then some eTile
    else if c.badRange q.wg 2 b (tfBytes bf tw bl k) then some eWeight else none
  | .tcvt _ _ _ src => if c.badRange q.wg (tileSpace src) (tileOff src) 4096 then some eTile else none
  | .twld _ _ _ _ => none

/-- The first poisoned word of a twld's range, as a virtual address (R465). -/
def piecesPoison (s : State) : Nat → List (Nat × Nat × Bool) → Option Nat
  | _, [] => none
  | va, (pa, n, _) :: r => match poisonedWord s pa n with
    | some w => some (va + (w * 8 - pa))
    | none => piecesPoison s (va + n) r

/-- The fault of what a queued tensor instruction reads: an uncorrectable word of an operand, or a poisoned word of a twld's
range (R465, Table 15.1). -/
def entryFault (s : State) (c : Core) (q : TqEntry) : Option AccFault :=
  match q.op with
  | .twld va _ _ ps => (piecesPoison s va ps).map (eccFault · false)
  | _ => (tensorEcc c q).map fun d => ⟨cEcc, d, 0, false, 0, 0⟩

/-- The entry of a tensor instruction that a group issues. -/
def entryOf (g : GroupAt) (x : Group) (op : TensorOp) : TqEntry := ⟨g.slot, x.gid, x.pc, x.wg, x.ctx, x.tseq, op, true, []⟩

/-- The frame of a tensor instruction that queues: the fault order of R122, then `shape`, then the entry. With a guard that
holds in no active lane it does nothing (R107). An error in what it reads faults at issue, precisely (R92, R465): while an
earlier one of the group's is outstanding, which may still write the word, it waits. An error that arises once it is queued
faults when it completes, at its own program counter (log entry 34). A twld's lines come from here on. -/
def stepTensor (s : State) (g : GroupAt) (op : Nat) (e : EncT) (ok twld : Bool)
    (k : State → Group → Except AccFault (TensorOp × State)) : State :=
  stepX s g (e.code op) ok fun s1 x =>
    if x.guard e.h = 0 then finishX s1 g x
    else if !(groupProg s1 g).tensor then groupFault s1 g (illegalFault dTensorUndeclared)
    else if e.afmt = 0xE ∧ !(s1.ctx x.ctx).heritage then groupFault s1 g (illegalFault dHeritageOnly)
    else match k s1 x with
      | .error f => groupFault s1 g f
      | .ok (op, s2) =>
        let c := s2.core g.core
        let en := entryOf g x op
        if !tqRoom c en twld then s1
        else match entryFault s2 c en with
        | some f => if (c.tq.any fun o => o.gid == x.gid) then s1 else groupFault s1 g f
        | none => finishX (startEntry s2 g.core en) g { x with tseq := x.tseq + 1 }

/-- TMMA (R121 to R124, R128, R129). -/
def execTmma (g : GroupAt) (e : EncT) (s : State) : Host.Outcome State Fault Refusal :=
  done (stepTensor s g 0 e (tmmaOk e) false fun s1 x =>
    let v := fun r : BitVec 8 => (x.uget r.toNat).toNat
    match tmmaShape (s1.core g.core) x e (v e.a) (v e.b) (v e.c) (v e.k) with
    | some d => .error (illegalFault d)
    | none => .ok (.tmma e.afmt.toNat e.bfmt.toNat e.blk.toNat e.tw.toNat e.acc (v e.a) (v e.b) (v e.c) (v e.k), s1))

/-- TCVT (R122, R127). -/
def execTcvt (g : GroupAt) (e : EncT) (s : State) : Host.Outcome State Fault Refusal :=
  done (stepTensor s g 2 e (tcvtOk e) false fun s1 x =>
    let v := fun r : BitVec 8 => (x.uget r.toNat).toNat
    let c := s1.core g.core
    match worstTile [tileFault c x (v e.a) (tfBytes e.afmt.toNat 0 (blkLen e.blk.toNat) 32), tileFault c x (v e.c) 4096] with
    | some d => .error (illegalFault d)
    | none => .ok (.tcvt e.afmt.toNat e.blk.toNat (v e.a) (v e.c), s1))

/-- TWLD (R122, R126, R129): its range is translated at issue. Table 2.3 speaks of loads, stores and atomics: twld's reads are in
no order with the group's own accesses of memory (DESIGN CHOICE, log entry 142). -/
def execTwld (g : GroupAt) (e : EncT) (s : State) : Host.Outcome State Fault Refusal :=
  done (stepTensor s g 1 e (twldOk e) true fun s1 x =>
    let va := x.uget64 e.a.toNat
    let off := (x.uget e.b.toNat).toNat
    let n := (x.uget e.c.toNat).toNat
    if off % 128 ≠ 0 ∨ n % 128 ≠ 0 ∨ n < 128 ∨ 65536 < n ∨ 65536 < off + n then .error (illegalFault dTensorShape)
    else match pieces 18 s1 x.ctx va n with
      | .error f => .error f
      | .ok (ps, s2) => .ok (.twld va off n ps, s2))

/-- TSYNC (R128): the group waits while more than N of its tensor instructions are outstanding. -/
def execTsync (g : GroupAt) (e : EncT) (s : State) : Host.Outcome State Fault Refusal :=
  done (stepX s g (e.code 3) (tsyncOk e) fun s1 x =>
    if x.guard e.h = 0 then finishX s1 g x
    else if !(groupProg s1 g).tensor then groupFault s1 g (illegalFault dTensorUndeclared)
    else if e.k.toNat < ((s1.core g.core).tq.filter fun t => t.gid == x.gid).length then s1
    else finishX s1 g x)

/-- A tile address of an operand byte, redirected into the half of a DOUBLE slab that holds the tile's data (R169). -/
def Core.redirect (c : Core) (a : Nat) : Nat :=
  if !c.odd then a
  else match c.doubles.find? fun d => decide (d.1 ≤ a ∧ a < d.1 + d.2) with
    | some d => a + d.2
    | none => a

/-- A byte of tile memory by space and offset, for a workgroup. -/
def Core.tileByte (c : Core) (wg space a : Nat) : Byte :=
  if space = 0 then c.tile.get (c.redirect a) else (c.wgAt wg).scratch.get a

/-- Bytes written into tile memory by a tensor instruction of a workgroup. -/
def Core.putTile (c : Core) (wg space a : Nat) (bs : List Byte) : Core :=
  if space = 0 then { c with tile := ((List.range bs.length).zip bs).foldl (fun t e => t.write (c.redirect (a + e.1)) [e.2]) c.tile }
  else c.setWg wg { c.wgAt wg with scratch := (c.wgAt wg).scratch.write a bs }

/-- The layout of an operand: element bits, bytes of elements in one row, block length, scale bytes, K, and the
offset of the first row (R140). -/
structure TLay where
  f : Nat
  e : Nat
  k : Nat
  b : Nat
  sc : Nat
  start : Nat

def TLay.of (f tw blk k : Nat) : TLay := ⟨f, tfBits f tw, k, blkLen blk, tfScale f, if f = 0xD then 32 else 0⟩
def TLay.row (l : TLay) : Nat := l.k * l.e / 8

/-- The code of element `i` of row `r`, from the operand's bytes. -/
def TLay.code (l : TLay) (rd : Nat → Byte) (r i : Nat) : Nat :=
  let bit := i * l.e
  let a := l.start + r * l.row + bit / 8
  leNat [rd a, rd (a + 1), rd (a + 2)] / 2 ^ (bit % 8) % 2 ^ l.e

/-- Where the scale bytes of block `k` of row `r` begin. -/
def TLay.scaleAt (l : TLay) (r k : Nat) : Nat := l.start + 32 * l.row + (r * (l.k / l.b) + k) * l.sc

/-- The value of an E8M0 scale byte (R136). -/
def e8m0 (x : Nat) : Num := if x = 0xFF then .nan else .fin false 1 ((x : Int) - 127)

/-- The scale of a block (R137, R138), 1 for a format without block scales. -/
def TLay.scale (l : TLay) (rd : Nat → Byte) (r k : Nat) : Num :=
  let a := l.scaleAt r k
  if l.sc = 1 then e8m0 (rd a).toNat
  else if l.sc = 4 then Fmt.f16.decode (leNat [rd a, rd (a + 1)])
  else .fin false 1 0

/-- The floating-point layout of a tensor format. -/
def tfFmt (f : Nat) : Fmt :=
  match f with
  | 0x1 => .f16
  | 0x2 => .bf16
  | 0x3 => .e4m3
  | 0x4 => .e5m2
  | 0x5 => .e4m3
  | 0x6 => .e5m2
  | 0x7 => .e3m2
  | 0x8 => .e2m3
  | _ => .e2m1

/-- A signed integer as a number. -/
def intNum (v : Int) (exp : Int) : Num := .fin (decide (v < 0)) v.natAbs exp

/-- The value of element `i` of row `r` without its block scale (Table 4.5). -/
def TLay.elem (l : TLay) (rd : Nat → Byte) (r i : Nat) : Num :=
  let x := l.code rd r i
  if l.f = 0xA then intNum (toSigned 8 x) (-6)
  else if l.f = 0xB ∨ l.f = 0xC then
    intNum (toSigned l.e x - toSigned 8 (rd (l.scaleAt r (i / l.b) + 2)).toNat) 0
  else if l.f = 0xD then Fmt.f16.decode (leNat [rd (2 * x), rd (2 * x + 1)])
  else if l.f = 0xE then ql12Decode x
  else (tfFmt l.f).decode x

/-- One element of the C result (R145): `old` is the old C word, used when ACC is set. -/
def tmmaElement (la lb : TLay) (ra rb : Nat → Byte) (acc : Bool) (old i j : Nat) : Nat :=
  let start := if acc then old else 0
  let sum := (List.range (la.k / la.b)).foldl (fun a k =>
    f32Add a (blockSum ((List.range la.b).map fun m =>
      product (la.elem ra i (k * la.b + m)) (lb.elem rb j (k * la.b + m)) (la.scale ra i k) (lb.scale rb j k)))) start
  if sum / 2 ^ 23 % 256 = 0 ∧ sum % 2 ^ 23 ≠ 0 then sum / 2 ^ 31 * 2 ^ 31 else sum

/-- A clobbered byte lies in the part of an operand that row `r` uses: its elements, its scales, the table (R124). -/
def TLay.hit (l : TLay) (cl : List TileByte) (space base r : Nat) : Bool :=
  cl.any fun t => t.space == space && decide (base ≤ t.addr) &&
    (let o := t.addr - base
     decide (l.start + r * l.row ≤ o ∧ o < l.start + (r + 1) * l.row)
      || decide (l.scaleAt r 0 ≤ o ∧ o < l.scaleAt (r + 1) 0) || decide (o < l.start))

/-- The C block of a tmma: free values in the elements whose operands another agent wrote (R124). -/
def tmmaResult (s : State) (c : Core) (q : TqEntry) (af bf blk tw : Nat) (acc : Bool) (a b cc k : Nat) : List Byte :=
  let la := TLay.of af 0 blk k
  let lb := TLay.of bf tw blk k
  let ra := fun i => c.tileByte q.wg (tileSpace a) (tileOff a + i)
  let rb := fun i => c.weights.get (b + i)
  let cAt := fun n => (List.range 4).map fun m => c.tileByte q.wg (tileSpace cc) (tileOff cc + 4 * n + m)
  let cl := q.clobbered
  (List.range 1024).flatMap fun n =>
    let bad := cl != [] && (la.hit cl (tileSpace a) (tileOff a) (n / 32) || lb.hit cl 2 b (n % 32)
      || cl.any fun t => t.space == tileSpace cc && decide (tileOff cc + 4 * n ≤ t.addr ∧ t.addr < tileOff cc + 4 * n + 4))
    if bad then leBytes 4 (Config.free (s.freeTick + n)).toNat
    else leBytes 4 (tmmaElement la lb ra rb acc (leNat (cAt n)) (n / 32) (n % 32))

/-- The element exponents of Table 4.7. -/
def tcvtEmax (f : Nat) : Int := if f = 5 then 8 else if f = 6 then 15 else if f = 7 then 4 else 2

/-- A block converted by tcvt into a format with block scales (R147): the scale byte and the element codes. -/
def tcvtBlock (f : Nat) (xs : List Nat) : Nat × List Nat :=
  let vs := xs.map Fmt.f32.decode
  if vs.any Num.isNan then (0xFF, xs.map fun _ => 0)
  else
    let lead : Option Int := vs.foldl (fun l v => match v with
      | .fin _ m e => if m = 0 then l else match l with
        | none => some (leadOf m e)
        | some x => some (max x (leadOf m e))
      | _ => l) none
    let x : Int := match lead with
      | none => 0
      | some l => max (-127) (min 127 (l - tcvtEmax f))
    ((x + 127).toNat, vs.map fun v => (tfFmt f).encode .near .saturate (match v with
      | .fin n m e => .fin n m (e - x)
      | y => y))

/-- A row of codes packed at `e` bits each (R140). -/
def packRow (e : Nat) (cs : List Nat) : List Byte :=
  leBytes (cs.length * e / 8) (((List.range cs.length).zip cs).foldl (fun n p => n + p.2 % 2 ^ e * 2 ^ (p.1 * e)) 0)

/-- The result of a tcvt (R127, R140, R146, R147, R149) from the 1,024 source words. -/
def tcvtResult (f blk : Nat) (src : Nat → Nat) : List Byte :=
  let e := tfBits f 0
  let row := fun r => (List.range 32).map fun i => src (32 * r + i)
  if tfScale f = 0 then
    (List.range 32).flatMap fun r => packRow e ((row r).map fun x =>
      if f = 0xE then ql12OfF32 x else (tfFmt f).encode .near .saturate (Fmt.f32.decode x))
  else
    let b := blkLen blk
    let blocks := fun r => (List.range (32 / b)).map fun k => tcvtBlock f (((row r).drop (k * b)).take b)
    ((List.range 32).flatMap fun r => packRow e ((blocks r).flatMap Prod.snd))
      ++ (List.range 32).flatMap fun r => (blocks r).map fun x => BitVec.ofNat 8 x.1

/-- Bytes of a tcvt result whose source block another agent wrote while it was queued become free values. -/
def tcvtBytes (s : State) (c : Core) (q : TqEntry) (f blk dst src : Nat) : List Byte :=
  let rd := fun n => leNat ((List.range 4).map fun m => c.tileByte q.wg (tileSpace src) (tileOff src + 4 * n + m))
  let bs := tcvtResult f blk rd
  if q.clobbered = [] then bs
  else (List.range bs.length).map fun i => if q.clobbered.any fun t => t.space == tileSpace src || t.space == tileSpace dst
    then (Config.free (s.freeTick + i)).setWidth 8 else byteAt bs i

/-- Words that a write covers whole hold no error any more (R466). -/
def Core.healRange (c : Core) (wg space a n : Nat) : Core :=
  let inside := fun x len => decide (a ≤ x ∧ x + len ≤ a + n)
  if space = 2 then { c with badWeight := c.badWeight.filter fun w => !inside (w * 8) 8 }
  else { c with badTile := c.badTile.filter fun w =>
    !(if space = 0 then decide (2 ^ 24 ≤ w) && (c.reachedAs ((w - 2 ^ 24) * 4)).any fun x => inside x 4
      else decide (w / 65536 = wg) && inside (w % 65536 * 4) 4) }

/-- An instruction of the queue has completed: its entry is free, barriers and exits that waited for it go on. -/
def tensorFinish (s : State) (core k : Nat) (q : TqEntry) : State :=
  let c := s.core core
  settleWg (requeueOn (s.setCore core { c with tq := c.tq.eraseIdx k }) core) core q.wg

/-- Whether the k-th entry may complete: its work is not being saved, earlier instructions of its group have completed,
and for one that uses the datapath earlier ones of that kind too (R125, R128), those of other groups among them (DESIGN CHOICE,
log entry 142). Entries of a context that has faulted
complete as well: a fault stops the issue of its groups (R93). -/
def tensorMay (s : State) (core k : Nat) (q : TqEntry) (path : Bool) : Bool :=
  let c := s.core core
  !(c.saving.contains (c.wgAt q.wg).cmd)
    && (c.tq.take k).all fun e => e.gid != q.gid && !(path && (match e.op with
      | .twld _ _ _ _ => false
      | _ => true))

/-- A completing entry: the ECC check, then its write with what follows for other groups' entries. -/
def tensorDo (s : State) (core k : Nat) (q : TqEntry) (space a n draws : Nat) (put : Core → Core) (cnt : State → State) : State :=
  let c := s.core core
  match entryFault s c q with
  | some f => requeueOn (entryFaults (s.setCore core { c with tq := c.tq.eraseIdx k }) core q f) core
  | none =>
    let c1 := clobber ((put c).healRange q.wg space a n) q.gid q.wg space a n
    tensorFinish (cnt { s.setCore core c1 with freeTick := s.freeTick + draws }) core k q

/-- Shader cycles in which a tmma streams operands: K × c, with the larger rate class of the pair (R121, R125). -/
def tmmaCycles (af bf k : Nat) : Nat :=
  let c2 := fun f => if f = 1 ∨ f = 2 ∨ f = 0xE then 4 else if f = 9 ∨ f = 0xC ∨ f = 0xD then 1 else 2
  k * max (c2 af) (c2 bf) / 2

/-- TMMA_COMPLETE (R124, R125, R128, R145). -/
def execTmmaComplete (core k : Nat) (s : State) : Host.Outcome State Fault Refusal :=
  let c := s.core core
  match c.tq[k]? with
  | some q => (match q.op with
    | .tmma af bf blk tw acc a b cc kk =>
      if !tensorMay s core k q true then done s
      else done (tensorDo s core k q (tileSpace cc) (tileOff cc) 4096 1024
        (fun c => c.putTile q.wg (tileSpace cc) (tileOff cc) (tmmaResult s c q af bf blk tw acc a b cc kk))
        fun s => bumpBy (bump s (0x30 + core) 0x100) (0x30 + core) 0x108 (tmmaCycles af bf kk))
    | _ => done s)
  | none => done s

/-- TCVT_COMPLETE (R127, R128). -/
def execTcvtComplete (core k : Nat) (s : State) : Host.Outcome State Fault Refusal :=
  let c := s.core core
  match c.tq[k]? with
  | some q => (match q.op with
    | .tcvt f blk dst src =>
      if !tensorMay s core k q true then done s
      else
        let bs := tcvtBytes s c q f blk dst src
        done (tensorDo s core k q (tileSpace dst) (tileOff dst) bs.length bs.length
          (fun c => c.putTile q.wg (tileSpace dst) (tileOff dst) bs) fun s => s)
    | _ => done s)
  | none => done s

/-- TWLD_COMPLETE (R126, R128, R129). -/
def execTwldComplete (core k : Nat) (s : State) : Host.Outcome State Fault Refusal :=
  let c := s.core core
  match c.tq[k]? with
  | some q => (match q.op with
    | .twld _ off n ps =>
      if !tensorMay s core k q false then done s
      else
        let (bs, s1) := readPieces s ps
        done (tensorDo s1 core k q 2 off n 0 (fun c => { c with weights := c.weights.write off bs })
          fun s => bumpBy s (0x30 + core) 0x128 n)
    | _ => done s)
  | none => done s

end Sys2Proof.Machine
end

