-- ==== Sys2Proof/Machine/Cut.lean ====
section
/-! DEFINITION. The CUT packet: reading and checking the descriptor and its tables, and bucking the pass (R153 to R157,
R175, R180, R182, Tables 5.1 to 5.4, 5.9, 5.10, 9.17). -/

namespace Sys2Proof.Machine

def dBadCut : Nat := 0x0F

/-- A fault on behalf of a cut or render pass carries its descriptor's address (R155, R206). -/
def passFault (s : State) (id desc unit : Nat) (a : AccFault) : State :=
  let c := cmdOf s id
  raise (notePoison s a) ⟨c.ctx, a, unit, 0xFF, false, c.queue, desc, c.tag⟩

/-- The same before the command has started. -/
def frontFault (s : State) (p : Pkt) (desc : Nat) (a : AccFault) : State :=
  let q := s.queue p.q
  raise (notePoison s a) ⟨q.ctx, a, uSched, 0xFF, false, p.q, desc, p.tag.toNat⟩

def cutHdr (h : List Byte) : CutHdr :=
  { flags := fieldAt h 5 1, ins := fieldAt h 6 1, outs := fieldAt h 7 1, outX := fieldAt h 8 4, outY := fieldAt h 12 4
    outZ := fieldAt h 16 4, tileX := fieldAt h 20 2, tileY := fieldAt h 22 2, tileZ := fieldAt h 24 2
    haloX := fieldAt h 26 1, haloY := fieldAt h 27 1, splitMax := fieldAt h 28 1, stages := fieldAt h 29 1
    reserveKib := fieldAt h 30 2, scratchKib := fieldAt h 32 2, partOff := fieldAt h 36 4, partBytes := fieldAt h 40 4
    spillBytes := fieldAt h 44 4, partialArea := fieldAt h 48 8, spillArea := fieldAt h 56 8, combine := fieldAt h 64 8
    wstream := fieldAt h 72 8, stageTable := fieldAt h 80 8, moveTable := fieldAt h 88 8 }

def slabOf (b : List Byte) : Slab :=
  { va := fieldAt b 0 8, rowPitch := fieldAt b 8 4, pixelPitch := fieldAt b 12 4, extX := fieldAt b 16 4
    extY := fieldAt b 20 4, resOff := fieldAt b 24 4, channels := fieldAt b 28 2, resRow := fieldAt b 30 2
    mode := fieldAt b 32 1, elem := fieldAt b 33 1, exp := fieldAt b 34 1, stride := fieldAt b 35 1, pad := fieldAt b 36 1
    flags := fieldAt b 37 1, copyBytes := fieldAt b 40 4 }

/-- Reserved bytes of the header (Table 5.1). -/
def cutFixed (h : List Byte) : Bool :=
  fieldAt h 0 4 == 0x4E394355 && fieldAt h 4 1 == 1 && decide (fieldAt h 5 1 < 4) && fieldAt h 34 2 == 0 && fieldAt h 96 32 == 0

/-- Header fields in range (Table 5.1, R154, R180). The move table is empty where MOVE_TABLE is 0 (DESIGN CHOICE, log entry 37). -/
def CutHdr.ok (h : CutHdr) (heritage : Bool) : Bool :=
  let big := fun x => decide (1 ≤ x ∧ x ≤ 1048576)
  decide (h.ins ≤ 4 ∧ 1 ≤ h.outs ∧ h.outs ≤ 4) && big h.outX && big h.outY && big h.outZ && h.outZ % 32 == 0
    && decide (1 ≤ h.tileX ∧ h.tileX ≤ 4096 ∧ 1 ≤ h.tileY ∧ h.tileY ≤ 4096)
    && h.tileZ % 32 == 0 && decide (32 ≤ h.tileZ ∧ h.tileZ ≤ 32768) && decide (h.haloX ≤ 15 ∧ h.haloY ≤ 15)
    && [1, 2, 4, 8, 16].contains h.splitMax && decide (1 ≤ h.stages ∧ h.stages ≤ 16)
    && decide (h.scratchKib ≤ 256 ∧ h.reserveKib + h.scratchKib ≤ 512)
    && h.partOff % 128 == 0 && h.partBytes % 128 == 0 && h.spillBytes % 4096 == 0 && h.partialArea % 128 == 0
    && h.spillArea % 4096 == 0 && h.stageTable % 16 == 0 && h.moveTable % 16 == 0
    && (h.moveTable != 0 || h.spillBytes == 0)
    && (if h.splitMax = 1 then h.partBytes == 0 && h.combine == 0
        else h.partBytes != 0 && h.combine != 0 && h.partialArea != 0
          && decide (h.partOff + h.partBytes ≤ h.reserveKib * 1024 ∧ h.splitMax * h.partBytes ≤ h.reserveKib * 1024))
    && decide (h.gx ≤ 65536 ∧ h.gy ≤ 65536 ∧ h.gz ≤ 65536 ∧ h.t0 * h.splitMax ≤ 16777216)
    && bitOf h.flags 0 == heritage && (!heritage || (h.tileX == 16 && h.tileY == 16 && h.splitMax == 1))

/-- Positions per stored row and stored rows of a slab (Table 5.7, R165). -/
def Slab.width (b : Slab) (h : CutHdr) : Nat :=
  if b.mode = 1 then h.tileX * 2 ^ b.stride + 2 * h.haloX
  else if b.mode = 2 then h.tileX * 2 ^ b.stride + 2 * h.haloX - 2 * b.exp
  else h.tileX
def Slab.rows (b : Slab) (h : CutHdr) : Nat := if b.mode = 1 ∨ b.mode = 2 then h.tileY * 2 ^ b.stride + 2 * h.haloY else h.tileY

/-- Bytes of one stored position, and of the slab. -/
def Slab.vec (b : Slab) : Nat := (if b.mode = 2 then 2 * b.exp + 1 else 1) * b.channels * b.elem
def Slab.bytes (b : Slab) (h : CutHdr) : Nat :=
  if b.mode = 0 then b.copyBytes
  else if b.mode = 4 then ceilDiv (b.rows h * b.resRow) 32 * (b.channels / 32) * 1024 * b.elem
  else b.rows h * b.resRow * b.vec

def Slab.double (b : Slab) : Bool := bitOf b.flags 0

/-- A slab descriptor that R154 accepts. `raw` are its 48 bytes. -/
def slabGood (h : CutHdr) (input : Bool) (raw : List Byte) : Bool :=
  let b := slabOf raw
  let gather := b.mode == 1 || b.mode == 2
  fieldAt raw 38 2 == 0 && fieldAt raw 44 4 == 0 && (if input then decide (b.mode ≤ 2) else [0, 3, 4].contains b.mode)
    && decide (b.channels * b.elem ≤ b.pixelPitch) && b.resOff % 128 == 0 && decide (1 ≤ b.resRow ∧ b.resRow ≤ 4096)
    && (b.elem == 1 || b.elem == 2) && decide (b.flags < 2) && (input || (b.flags == 0 && decide (b.channels ≤ h.tileZ)))
    && (if b.mode = 0 then b.copyBytes % 128 == 0 else b.copyBytes == 0)
    && (if gather then decide (1 ≤ b.extX ∧ b.extX ≤ 1048576 ∧ 1 ≤ b.extY ∧ b.extY ≤ 1048576 ∧ b.stride ≤ 2 ∧ b.pad ≤ 1)
        else b.extX == 0 && b.extY == 0 && b.stride == 0 && b.pad == 0)
    && (if b.mode = 2 then decide (1 ≤ b.exp ∧ b.exp ≤ 7) else b.exp == 0)
    && (b.mode == 0 || decide (b.width h ≤ b.resRow))
    && (b.mode != 4 || b.channels % 32 == 0)
    && decide (b.resOff + b.bytes h * (if b.double then 2 else 1) ≤ h.reserveKib * 1024)

/-- A move record (Table 5.4, R154). -/
def moveOf (raw : List Byte) : Move := ⟨fieldAt raw 0 1 == 1, fieldAt raw 4 4, fieldAt raw 8 4, fieldAt raw 12 4⟩
def moveGood (h : CutHdr) (raw : List Byte) : Bool :=
  let m := moveOf raw
  decide (fieldAt raw 0 1 < 2) && fieldAt raw 1 3 == 0 && decide (m.tileAddr < 2 ^ 20) && m.tileAddr % 128 == 0
    && m.bytes % 128 == 0 && decide (128 ≤ m.bytes ∧ m.bytes ≤ 524288) && m.spillOff % 128 == 0
    && decide (m.spillOff + m.bytes ≤ h.spillBytes)
    && decide (tileOff m.tileAddr + m.bytes ≤ (if tileSpace m.tileAddr = 0 then h.reserveKib else h.scratchKib) * 1024)

/-- What reading a cut's parts finds: a value, a fault of the access, or a detail of ILLEGAL_INSTRUCTION with the
address that stands in for the program counter. -/
inductive Found (α : Type) where
  | ok (x : α) (s : State)
  | access (f : AccFault)
  | bad (va detail : Nat)

/-- A program of a cut (R99, R154). -/
def cutProg (s : State) (c desc va scratchKib : Nat) : Found Prog :=
  match loadHeader s c va with
  | .access f => .access f
  | .bad => .bad va dBadHeader
  | .ok p s1 => if p.kind = 0 ∧ p.tensor ∧ p.scratchKib = scratchKib then .ok p s1 else .bad desc dBadCut

/-- The moves of a stage. -/
def cutMoves (s : State) (c desc : Nat) (h : CutHdr) (first n : Nat) : Found (List Move) :=
  if n = 0 then .ok [] s
  else if h.moveTable = 0 ∨ 256 < n then .bad desc dBadCut
  else match vread s c (h.moveTable + first * 16) (n * 16) with
    | .error f => .access f
    | .ok (b, s1) =>
      let raws := (List.range n).map fun i => (b.drop (16 * i)).take 16
      if raws.all (moveGood h) then .ok (raws.map moveOf) s1 else .bad desc dBadCut

/-- Stage records from `i` on, `n` of them. -/
def cutStages (c desc : Nat) (h : CutHdr) (tbl : List Byte) : Nat → Nat → State → Found (List (Prog × List Move))
  | 0, _, s => .ok [] s
  | n + 1, i, s =>
    let raw := (tbl.drop (16 * i)).take 16
    if fieldAt raw 12 4 ≠ 0 then .bad desc dBadCut
    else match cutMoves s c desc h (fieldAt raw 8 2) (fieldAt raw 10 2) with
      | .access f => .access f
      | .bad v d => .bad v d
      | .ok ms s1 => match cutProg s1 c desc (fieldAt raw 0 8) h.scratchKib with
        | .access f => .access f
        | .bad v d => .bad v d
        | .ok p s2 => match cutStages c desc h tbl n (i + 1) s2 with
          | .access f => .access f
          | .bad v d => .bad v d
          | .ok r s3 => .ok ((p, ms) :: r) s3

/-- A context holds a grant of a Chipper engine (R175). -/
def holdsChipper (s : State) (c : Nat) : Bool := s.chipGrants.any fun e => e.2.2 == c

def segmentOf (r : List Byte) : Segment := ⟨fieldAt r 0 8, fieldAt r 8 4, fieldAt r 12 4, fieldAt r 16 4⟩

/-- A weight stream descriptor (Tables 5.9, 5.10, R175). -/
def cutStream (s : State) (c desc va : Nat) : Found (Option Stream) :=
  if va = 0 then .ok none s
  else match vread s c va 32 with
    | .error f => .access f
    | .ok (h, s1) =>
      let n := fieldAt h 4 2
      let st : Stream := ⟨fieldAt h 6 2, fieldAt h 8 8, fieldAt h 16 4, fieldAt h 24 8, [], false, false, 0, []⟩
      let ok := fieldAt h 0 4 == 0x4E395753 && fieldAt h 20 4 == 0 && decide (1 ≤ n ∧ n ≤ 4096 ∧ st.fence < nFences)
        && st.staging % 4096 == 0 && bindRight s1 c st.fence != 0 && holdsChipper s1 c
        && decide (st.fenceBase + n < 2 ^ 64 - 1)
      if !ok then .bad desc dBadCut
      else match vread s1 c (va + 32) (n * 32) with
        | .error f => .access f
        | .ok (b, s2) =>
          let raws := (List.range n).map fun i => (b.drop (32 * i)).take 32
          let good := fun (r : List Byte) =>
            let g := segmentOf r
            fieldAt r 20 12 == 0 && g.dstOff % 128 == 0 && g.dstBytes % 128 == 0 && decide (g.dstOff + g.dstBytes ≤ st.stagingBytes)
          if raws.all good then .ok (some { st with segs := raws.map segmentOf }) s2 else .bad desc dBadCut

/-- The combine program, when the pass can split. -/
def cutCombine (s : State) (c desc : Nat) (h : CutHdr) : Found (Option Prog) :=
  if h.splitMax = 1 then .ok none s
  else match cutProg s c desc h.combine h.scratchKib with
    | .access f => .access f
    | .bad v d => .bad v d
    | .ok p s1 => .ok (some p) s1

/-- The whole descriptor read and checked (R153, R154). -/
def loadCut (s : State) (c desc : Nat) : Found CutPass :=
  match vread s c desc 128 with
  | .error f => .access f
  | .ok (hb, s1) =>
    let h := cutHdr hb
    let her := (s.ctx c).heritage
    if !(cutFixed hb && h.ok her) then .bad desc dBadCut
    else match vread s1 c (desc + 128) ((h.ins + h.outs) * 48) with
      | .error f => .access f
      | .ok (sb, s2) =>
        let raw := fun i => (sb.drop (48 * i)).take 48
        let slabsOk := (List.range h.ins).all (fun i => slabGood h true (raw i))
          && (List.range h.outs).all fun i => slabGood h false (raw (h.ins + i))
        if !slabsOk then .bad desc dBadCut
        else match vread s2 c h.stageTable (h.stages * 16) with
          | .error f => .access f
          | .ok (tb, s3) => match cutStages c desc h tb h.stages 0 s3 with
            | .access f => .access f
            | .bad v d => .bad v d
            | .ok sts s4 => match cutCombine s4 c desc h with
              | .access f => .access f
              | .bad v d => .bad v d
              | .ok cp s5 => match cutStream s5 c desc h.wstream with
                | .access f => .access f
                | .bad v d => .bad v d
                | .ok w s6 => .ok
                  { desc := desc, hdr := h, inSlabs := (List.range h.ins).map fun i => slabOf (raw i)
                    outSlabs := (List.range h.outs).map fun i => slabOf (raw (h.ins + i)), stages := sts, combine := cp
                    stream := w, args := [], heritage := her, order := [], gen := 0, split := 1, segDone := []
                    combDone := [], session := none, folded := true } s6

/-- The pass bucked over the map in force (R156, R157). -/
def CutPass.buck (p : CutPass) (s : State) : CutPass :=
  let o := unitOrder (passMap s true p.heritage)
  { p with order := o, gen := s.maps.gen, split := splitFactor p.hdr.t0 p.hdr.splitMax o.length, segDone := [], combDone := [] }

/-- The most uniform registers that the programs of a cut preload. -/
def CutPass.preload (p : CutPass) : Nat :=
  ((p.stages.map fun x => x.1.preload) ++ match p.combine with
    | some c => [c.preload]
    | none => []).foldl max 0

/-- A cut of a session begins, or restarts (R192, R196). -/
def joinSession (s : State) (ord : Option (Nat × Nat)) (again : Bool) : State :=
  match ord with
  | none => s
  | some (i, k) => match s.session? i with
    | none => s
    | some x =>
      let x1 := x.noteMap s k
      setSession s i (if again then { x1 with restarts := x1.restarts + 1 } else { x1 with cuts := k + 1 })

/-- CUT (R153 to R157, R176, R182, Table 9.17). -/
def execCut (p : Pkt) (s : State) : Host.Outcome State Fault Refusal :=
  let n := pField p 16 1
  .next (fetchPacket s p (2 + ceilDiv n 4) false (decide (n ≤ 48) && pZero p 17 32) fun s =>
    let q := s.queue p.q
    let desc := pField p 8 8
    match loadCut s q.ctx desc with
    | .access f => frontFault s p desc f
    | .bad va d => frontFault s p va (illegalFault d)
    | .ok pass s1 =>
      if n < pass.preload then packetFault s1 p (illegalFault dBadPacket)
      else
        let ord := q.session.map fun i => (i, ((tget? s1.sessions i).map Session.cuts).getD 0)
        let pass : CutPass := { pass.buck s1 with args := argWords p n, session := ord, folded := !(bitOf pass.hdr.flags 1 && ord.isSome) }
        if pass.order = [] then frontFault s1 p desc (illegalFault dNoTensorUnit)
        else
          let s2 := joinSession (startCmd { s1 with cuts := tset s1.cuts s1.nextCmd pass } p (newCmd s1 p .cut)) ord false
          bump (bump s2 0x9C 0x130) 0x9D 0x130)

end Sys2Proof.Machine
end

