-- ==== Sys2Proof/Machine/CutRun.lean ====
section
/-! DEFINITION. A cut on its owners: tiles, slabs, stages, moves, combine tiles, completion and restart (R158 to R173,
Tables 5.6, 5.7, 5.18). -/

namespace Sys2Proof.Machine

/-- The unit number of the tensor array of a core, for counters. -/
def uTensor (core : Nat) : Nat := 0x30 + core

/-- The first step of a stage: its moves, then its workgroup. -/
def CutPass.stageStep (p : CutPass) (combine : Bool) (m : Nat) : TileStep :=
  if !combine && !((p.stages.getD m (.empty, [])).2.isEmpty) then .move m 0 else .stage m false

/-- The step after one that is finished, none after the last (R159, R168). -/
def CutPass.after (p : CutPass) (combine : Bool) : TileStep → Option TileStep
  | .load i =>
    if i + 1 < (if combine then p.split else p.hdr.ins) then some (.load (i + 1)) else some (p.stageStep combine 0)
  | .move m i => if i + 1 < (p.stages.getD m (.empty, [])).2.length then some (.move m (i + 1)) else some (.stage m false)
  | .stage n _ => some (.staged n)
  | .staged n =>
    if !combine && decide (n + 1 < p.stages.length) then some (p.stageStep combine (n + 1))
    else if combine || p.split == 1 then some (.store 0) else some .part
  | .store i => if i + 1 < p.hdr.outs then some (.store (i + 1)) else none
  | .part => none

def CutPass.firstStep (p : CutPass) (combine : Bool) : TileStep :=
  if combine || p.hdr.ins != 0 then .load 0 else p.stageStep combine 0

/-- Where an input slab of a tile goes: into the first half of a DOUBLE slab, or for an `odd` tile into the second (R169). -/
def Slab.place (b : Slab) (h : CutHdr) (odd : Bool) : Nat := b.resOff + if b.double && odd then b.bytes h else 0

/-- The reservation as a tile finds it: nothing but the input slabs that were loaded ahead of it (R158, R169). -/
def aheadTile (c : Core) (p : CutPass) (seed : Nat) (odd : Bool) : TMem :=
  c.ahead.foldl (fun (m : TMem) i => match p.inSlabs[i]? with
    | some b => m.write (b.place p.hdr odd) (c.tile.read (b.place p.hdr odd) (b.bytes p.hdr))
    | none => m) ⟨seed, []⟩

/-- A tile started: fresh tile memory content (R158: what it holds is undefined), the half of the DOUBLE slabs (R169). In a
combine tile, which has no input slabs, no DOUBLE slab counts (DESIGN CHOICE, log entry 36). -/
def beginTile (s : State) (core id : Nat) (p : CutPass) (t : Nat) (combine : Bool) : State :=
  let c := s.core core
  let k := tget p.segDone core 0 + tget p.combDone core 0
  let dbl := (p.inSlabs.filter Slab.double).map fun b => (b.resOff, b.bytes p.hdr)
  noteBoost { s.setCore core { c with
      tile := if combine then .free s.freeTick else aheadTile c p s.freeTick (k % 2 == 1)
      scratch := ⟨s.freeTick + 1, []⟩, run := some ⟨id, t, combine, p.firstStep combine⟩
      doubles := if combine then [] else dbl, odd := !combine && k % 2 == 1 } with freeTick := s.freeTick + 2 } id

/-- A tile of a cut started on a core where it can be. -/
def startTile (s : State) (core cmd : Nat) (combine : Bool) : State :=
  match tget? s.cuts cmd with
  | none => s
  | some p =>
    if p.gen ≠ s.maps.gen then s
    else match p.nextTile core with
      | none => s
      | some (t, c) =>
        if c ≠ combine then s
        else if !tileMay s core cmd true then askTile s core cmd (p.hdr.reserveKib + p.hdr.scratchKib)
        else match takeHold s core cmd p.hdr.reserveKib p.hdr.scratchKib with
          | .error s1 => s1
          | .ok s1 => beginTile s1 core cmd p t combine

/-- CUT_TILE_START (R158, R163, R168 to R170, R349). -/
def execCutTileStart (core cmd : Nat) (s : State) : Host.Outcome State Fault Refusal := .next (startTile s core cmd false)

/-- COMBINE_TILE_START (R159). -/
def execCombineTileStart (core cmd : Nat) (s : State) : Host.Outcome State Fault Refusal := .next (startTile s core cmd true)

/-- Output tile number, and gx, gy, gz of a tile. -/
def CutPass.outTile (p : CutPass) (t : Nat) (combine : Bool) : Nat := if combine then t else t / p.split
def CutPass.tileX (p : CutPass) (t0 : Nat) : Nat := t0 % p.hdr.gx
def CutPass.tileY (p : CutPass) (t0 : Nat) : Nat := t0 / p.hdr.gx % p.hdr.gy
def CutPass.tileZ (p : CutPass) (t0 : Nat) : Nat := t0 / (p.hdr.gx * p.hdr.gy)

/-- One stored vector of a GATHER slab: its region position, as the virtual address to read, none where it is zero
(R165, R166). `x` and `y` are positions of the region in the tensor. -/
def Slab.posVa (b : Slab) (x y : Int) : Option Nat :=
  let inside := decide (0 ≤ x ∧ x < b.extX ∧ 0 ≤ y ∧ y < b.extY)
  if !inside && b.pad == 0 then none
  else
    let cx := (max 0 (min x ((b.extX : Int) - 1))).toNat
    let cy := (max 0 (min y ((b.extY : Int) - 1))).toNat
    some (b.va + cy * b.rowPitch + cx * b.pixelPitch)

/-- The reads that fill an input slab in the order of its bytes: addresses (none: zeros) and lengths. -/
def Slab.reads (b : Slab) (h : CutHdr) (gx gy t0 : Nat) : List (Option Nat × Nat) :=
  if b.mode = 0 then [(some (b.va + t0 * b.rowPitch), b.copyBytes)]
  else
    let xa : Int := ((gx * h.tileX * 2 ^ b.stride : Nat) : Int) - h.haloX
    let ya : Int := ((gy * h.tileY * 2 ^ b.stride : Nat) : Int) - h.haloY
    let n := b.channels * b.elem
    let taps := if b.mode = 2 then 2 * b.exp + 1 else 1
    (List.range (b.rows h)).flatMap fun yr => (List.range b.resRow).flatMap fun xr => (List.range taps).map fun k =>
      if xr < b.width h then (b.posVa (xa + xr + k) (ya + yr), n) else (none, n)

/-- Several reads one after another. -/
def readRuns (s : State) (c : Nat) : List (Option Nat × Nat) → Except AccFault (List Byte × State)
  | [] => .ok ([], s)
  | (a, n) :: r =>
    match (match a with
      | some va => vread s c va n
      | none => .ok (List.replicate n 0, s)) with
    | .error f => .error f
    | .ok (b, s1) => match readRuns s1 c r with
      | .error f => .error f
      | .ok (t, s2) => .ok (b ++ t, s2)

/-- Bytes of the reservation written by the tile engine; words covered whole hold no error any more. -/
def putRes (s : State) (core a : Nat) (bs : List Byte) : State :=
  let c := s.core core
  s.setCore core ({ c with tile := c.tile.write a bs }.healRange 0 0 a bs.length)

/-- The bytes that an output slab stores: address and the offsets of its bytes in the reservation, run by run, clipped
to the output (R165, R167). -/
def Slab.runs (b : Slab) (h : CutHdr) (gx gy gz t0 : Nat) : List (Nat × List Nat) :=
  if b.mode = 0 then [(b.va + t0 * b.rowPitch, (List.range b.copyBytes).map (b.resOff + ·))]
  else
    let ch := min b.channels (h.outZ - gz * h.tileZ)
    (List.range h.tileY).flatMap fun yr => (List.range h.tileX).flatMap fun xr =>
      let x := gx * h.tileX + xr
      let y := gy * h.tileY + yr
      let p := yr * b.resRow + xr
      if h.outX ≤ x ∨ h.outY ≤ y then []
      else [(b.va + y * b.rowPitch + x * b.pixelPitch + gz * h.tileZ * b.elem,
        (List.range ch).flatMap fun c => (List.range b.elem).map fun i =>
          if b.mode = 3 then b.resOff + p * b.channels * b.elem + c * b.elem + i
          else b.resOff + ((p / 32) * (b.channels / 32) + c / 32) * 1024 * b.elem + p % 32 * 32 * b.elem + c % 32 * b.elem + i)]

/-- Runs of bytes written to virtual memory, up to the first that faults. -/
def writeRuns (s : State) (c : Nat) (rd : Nat → Byte) : List (Nat × List Nat) → State × Option AccFault
  | [] => (s, none)
  | (va, offs) :: r => match vwrite s c va (offs.map rd) with
    | (s1, some f) => (s1, some f)
    | (s1, none) => writeRuns s1 c rd r

/-- Every tile of a cut is finished, with its stores at device scope (R171). -/
def CutPass.allDone (p : CutPass) : Bool := p.order.all fun k => !p.moreOn k

/-- The tile in progress has ended on a core: counts, and the hold released where the core has no tile of the pass
left or is asked to stop (R353). -/
def endTile (s : State) (core : Nat) (r : TileRun) (p : CutPass) : State :=
  let p1 := if r.combine then { p with combDone := tset p.combDone core (tget p.combDone core 0 + 1) }
    else { p with segDone := tset p.segDone core (tget p.segDone core 0 + 1) }
  let due := p1.allDone && !p1.folded && !s.sched.digests.contains r.cmd
  let s1 := bump ({ s with
    cuts := tset s.cuts r.cmd p1
    sched := { s.sched with digests := if due then s.sched.digests ++ [r.cmd] else s.sched.digests } }.setCore core { s.core core with run := none }) (uTensor core) 0x110
  let s2 := if p1.moreOn core && p1.gen == s.maps.gen then s1 else s1.setCore core (s1.core core).dropHold
  if stopAsked s2 core r.cmd then
    (if (s2.core core).holder = some r.cmd then tileBoundary s2 core
     else if s2.sched.preempts.any fun p => p.core == core && p.victim == r.cmd && p.inForce s2 then stopMade s2 core r.cmd 0x108 76
     else s2)
  else s2

/-- The tile goes on after a finished step. -/
def advanceTile (s : State) (core : Nat) (r : TileRun) (p : CutPass) (done : TileStep) : State :=
  match p.after r.combine done with
  | some st => s.setCore core { s.core core with run := some { r with step := st } }
  | none => endTile s core r p

/-- The fault of a tile engine on behalf of the cut (R155, R160). -/
def tileFaultAt (s : State) (core : Nat) (r : TileRun) (p : CutPass) (f : AccFault) : State := passFault s r.cmd p.desc core f

/-- An input slab of segment tile `t` read and put into its place (R165, R166). -/
def loadSlab (s : State) (core : Nat) (r : TileRun) (p : CutPass) (b : Slab) (t : Nat) (odd : Bool) : Except AccFault State :=
  let t0 := p.outTile t false
  match readRuns s (cmdOf s r.cmd).ctx (b.reads p.hdr (p.tileX t0) (p.tileY t0) t0) with
  | .error f => .error f
  | .ok (bs, s1) => .ok (bumpBy (putRes s1 core (b.place p.hdr odd) bs) (uTensor core) 0x118 bs.length)

/-- The next DOUBLE slab of the tile after the one that runs here, loaded ahead (R169). -/
def doAhead (s : State) (core : Nat) (r : TileRun) (p : CutPass) : State :=
  let c := s.core core
  let t := r.tile + p.order.length
  if r.combine ∨ p.tiles ≤ t then s
  else match firstBelow p.hdr.ins fun i => ((p.inSlabs[i]?).map Slab.double).getD false && !c.ahead.contains i with
    | none => s
    | some i => match p.inSlabs[i]? with
      | none => s
      | some b => match loadSlab s core r p b t (!c.odd) with
        | .error f => tileFaultAt s core r p f
        | .ok s1 => s1.setCore core { s1.core core with ahead := c.ahead ++ [i] }

/-- A load of an input slab or a partial block (R159, R165, R166, R169); a slab that was loaded ahead is there. -/
def doLoad (s : State) (core : Nat) (r : TileRun) (p : CutPass) (i : Nat) : State :=
  let c := s.core core
  if r.combine then
    match readRuns s (cmdOf s r.cmd).ctx [(some (p.hdr.partialArea + (r.tile * p.split + i) * p.hdr.partBytes), p.hdr.partBytes)] with
    | .error f => tileFaultAt s core r p f
    | .ok (bs, s1) =>
      advanceTile (bumpBy (putRes s1 core (i * p.hdr.partBytes) bs) (uTensor core) 0x118 bs.length) core r p (.load i)
  else match p.inSlabs[i]? with
    | none => advanceTile s core r p (.load i)
    | some b =>
      if c.ahead.contains i then
        advanceTile (s.setCore core { c with ahead := c.ahead.filter (· != i) }) core r p (.load i)
      else match loadSlab s core r p b r.tile c.odd with
        | .error f => tileFaultAt s core r p f
        | .ok s1 => advanceTile s1 core r p (.load i)

/-- Bytes of a virtual range whose lines the system cache does not hold (R173, Table 5.18). -/
def missedBytes (s : State) (c va n : Nat) : Nat :=
  match pieces (n / 4096 + 2) s c va n with
  | .error _ => 0
  | .ok (ps, s1) => (ps.map fun p => ((List.range (ceilDiv (p.1 % 128 + p.2.1) 128)).map fun i =>
      let ln := p.1 / 128 + i
      if inCache s1 ln then 0
      else min (p.1 + p.2.1) (ln * 128 + 128) - max p.1 (ln * 128)).sum).sum

/-- A move of a stage (R160, R172): `dram` of its bytes were not in the system cache. -/
def doMove (s : State) (core : Nat) (r : TileRun) (p : CutPass) (m i : Nat) : State :=
  let c := (cmdOf s r.cmd).ctx
  match (p.stages.getD m (.empty, [])).2[i]? with
  | none => advanceTile s core r p (.move m i)
  | some mv =>
    let va := p.hdr.spillArea + core * p.hdr.spillBytes + mv.spillOff
    let sp := tileSpace mv.tileAddr
    let off := tileOff mv.tileAddr
    let k := s.core core
    match vcheck s c va mv.bytes (!mv.fill) with
    | .error f => tileFaultAt s core r p f
    | .ok s1 =>
      if mv.fill then
        match vread s1 c va mv.bytes with
        | .error f => tileFaultAt s1 core r p f
        | .ok (bs, s2) =>
          let k2 := if sp = 0 then { k with tile := k.tile.write off bs } else { k with scratch := k.scratch.write off bs }
          let s3 := bumpBy (s2.setCore core (k2.healRange 32 sp off mv.bytes)) (uTensor core) 0x138 mv.bytes
          advanceTile (bumpBy s3 (uTensor core) 0x140 (missedBytes s1 c va mv.bytes)) core r p (.move m i)
      else if k.badRange 32 sp off mv.bytes then tileFaultAt s1 core r p ⟨cEcc, eTile, 0, false, 0, 0⟩
      else
        let bs := (if sp = 0 then k.tile else k.scratch).read off mv.bytes
        match vwrite s1 c va bs with
        | (s2, some f) => tileFaultAt s2 core r p f
        | (s2, none) => advanceTile (bumpBy s2 (uTensor core) 0x130 mv.bytes) core r p (.move m i)

/-- A store of an output slab (R165, R167). -/
def doStore (s : State) (core : Nat) (r : TileRun) (p : CutPass) (i : Nat) : State :=
  let c := (cmdOf s r.cmd).ctx
  let t0 := p.outTile r.tile r.combine
  let k := s.core core
  match p.outSlabs[i]? with
  | none => advanceTile s core r p (.store i)
  | some b =>
    let rs := b.runs p.hdr (p.tileX t0) (p.tileY t0) (p.tileZ t0) t0
    if rs.any fun e => e.2.any fun a => k.badRange 0 0 a 1 then tileFaultAt s core r p ⟨cEcc, eTile, 0, false, 0, 0⟩
    else match writeRuns s c k.tile.get rs with
      | (s1, some f) => tileFaultAt s1 core r p f
      | (s1, none) => advanceTile (bumpBy s1 (uTensor core) 0x120 (rs.map fun e => e.2.length).sum) core r p (.store i)

/-- The store of a segment's partial block (R159, R160). -/
def doPart (s : State) (core : Nat) (r : TileRun) (p : CutPass) : State :=
  let c := (cmdOf s r.cmd).ctx
  let k := s.core core
  let va := p.hdr.partialArea + r.tile * p.hdr.partBytes
  match vcheck s c va p.hdr.partBytes true with
  | .error f => tileFaultAt s core r p f
  | .ok s1 =>
    if k.badRange 0 0 p.hdr.partOff p.hdr.partBytes then tileFaultAt s1 core r p ⟨cEcc, eTile, 0, false, 0, 0⟩
    else match vwrite s1 c va (k.tile.read p.hdr.partOff p.hdr.partBytes) with
      | (s2, some f) => tileFaultAt s2 core r p f
      | (s2, none) => advanceTile (bumpBy s2 (uTensor core) 0x120 p.hdr.partBytes) core r p .part

/-- A finished stage makes room for the step after it. -/
def settleStep (r : TileRun) (p : CutPass) : TileRun :=
  match r.step with
  | .staged n => { r with step := (p.after r.combine (.staged n)).getD .part }
  | _ => r

/-- The cut tile in progress on a core whose context runs and whose work is not being saved. -/
def tileRun (s : State) (core : Nat) : Option (TileRun × CutPass) :=
  match (s.core core).run with
  | none => none
  | some r =>
    if (s.ctx (cmdOf s r.cmd).ctx).st ≠ .live ∨ (s.core core).saving.contains r.cmd then none
    else (tget? s.cuts r.cmd).map fun p => (settleStep r p, p)

/-- TILE_ENGINE_TRANSFER_DONE (R155, R159, R160, R165 to R169, R172, R173): the tile engine's next transfer of the tile
in progress on a core, or (`ahead`), once that tile's input slabs are loaded, of the tile after it (R169). -/
def execTileEngineTransferDone (core : Nat) (ahead : Bool) (s : State) : Host.Outcome State Fault Refusal :=
  match tileRun s core with
  | none => .next s
  | some (r, p) => .next (match r.step, ahead with
    | .load i, false => doLoad s core r p i
    | .move m i, false => doMove s core r p m i
    | .store i, false => doStore s core r p i
    | .part, false => doPart s core r p
    | .load _, true => s
    | .stage _ _, false => s
    | .staged _, false => s
    | _, true => doAhead s core r p)

/-- The base-2 logarithm of a split factor. -/
def log2Split (n : Nat) : Nat := Nat.log2 n

/-- TILE_Y of a tile (Table 5.6). -/
def cutTileY (p : CutPass) (r : TileRun) : Nat :=
  let t0 := p.outTile r.tile r.combine
  p.tileY t0 + (if r.combine then 0xFF else r.tile % p.split) * 2 ^ 16 + log2Split p.split * 2 ^ 24

/-- STAGE_START (R158, R161, R172): the stage's workgroup becomes resident once the step before it is done. -/
def execStageStart (core : Nat) (s : State) : Host.Outcome State Fault Refusal :=
  match tileRun s core with
  | none => .next s
  | some (r, p) => match r.step with
    | .stage n false =>
      let c := s.core core
      let prog := if r.combine then p.combine.getD .empty else (p.stages.getD n (.empty, [])).1
      let t0 := p.outTile r.tile r.combine
      let ctx := (cmdOf s r.cmd).ctx
      let gs := newGroups ctx prog p.args false prog.threads
      (match c.placement prog 0 gs.length with
      | none => .next (preemptCore s core r.cmd)
      | some (k, _) =>
        let w : Wg := { Wg.empty with
          live := true, ctx := ctx, cmd := r.cmd, prog := prog, threads := prog.threads, mapGen := p.gen
          tileIndex := r.tile, tileX := p.tileX t0 + p.tileZ t0 * 2 ^ 16, tileY := cutTileY p r
          scratchKib := p.hdr.scratchKib, scratch := c.scratch, stage := true }
        match c.takeNew s.sched.nextWid w gs with
        | none => .next s
        | some c1 =>
          .next ((nameWg s).setCore core { c1 with
            badTile := c1.badTile.map fun x => if x / 65536 = 32 then k * 65536 + x % 65536 else x
            run := some { r with step := .stage n true } }))
    | _ => .next s

/-- Its weight stream has nothing more to do. -/
def CutPass.streamDone (p : CutPass) : Bool := match p.stream with
  | none => true
  | some w => w.stopped || w.doneSegs.length == w.segs.length

/-- The completion of a cut (R171): a cut without a Ringmark fold completes; one that folds waits for RINGMARK_FOLD_DONE. -/
def cutComplete (cmd : Nat) (s : State) : State :=
  match tget? s.cuts cmd with
  | none => s
  | some p =>
    if (s.ctx (cmdOf s cmd).ctx).st = .live ∧ p.gen = s.maps.gen ∧ p.allDone ∧ p.streamDone ∧ p.folded ∧ !storesOf s cmd then
      finishCmd s cmd
    else s

/-- A cut is folded when its tiles are done (R193). -/
def CutPass.folds (p : CutPass) : Bool := bitOf p.hdr.flags 1 && p.session.isSome

/-- The chunk digests of one cut's fold removed. -/
def dropFold (t : Tbl (List Byte)) (cmd : Nat) : Tbl (List Byte) := tdrop t fun k => k / 2 ^ 32 / 8 == cmd

/-- The fold of a cut that runs again begins anew, one that was complete included: the record covers the bytes that the cut
stores in the end (R193, R197). -/
def restartFold (s : State) (cmd : Nat) (p : CutPass) : State :=
  match p.session with
  | none => s
  | some (i, ord) => match s.session? i with
    | none => s
    | some x =>
      if !p.folds then s
      else
        setSession { s with
          lanes := s.lanes.filter fun e => e.2.cut != some cmd
          sched := { s.sched with digests := s.sched.digests.filter (· != cmd) } } i
          (if p.folded then { x with folds := x.folds.filter fun f => f.1 != ord, foldedCuts := x.foldedCuts - 1 }
          else { x with foldLeaves := dropFold x.foldLeaves cmd })

/-- CUT_RESTART (R163, R182): after a map change, once every owner stands at a tile boundary, the pass is bucked again
and runs from tile 0. -/
def execCutRestart (cmd : Nat) (s : State) : Host.Outcome State Fault Refusal :=
  match tget? s.cuts cmd with
  | none => .next s
  | some p =>
    let busy := s.cores.any fun (e : Nat × Core) => e.2.holder == some cmd && e.2.run.isSome
    if (s.ctx (cmdOf s cmd).ctx).st ≠ .live ∨ p.gen = s.maps.gen ∨ busy then .next s
    else
      let p1 : CutPass := { p.buck s with folded := !p.folds }
      let s1 := { s with
        cores := tmap s.cores fun _ c => if c.holder = some cmd then c.dropHold else c
        sched := { s.sched with saved := s.sched.saved.filter fun e => e.cmd != cmd }
        cuts := tset s.cuts cmd p1 }
      .next (if p1.order = [] then passFault s1 cmd p.desc uSched (illegalFault dNoTensorUnit)
        else joinSession (p1.order.foldl (fun s k => bump s (uTensor k) 0x150) (restartFold s1 cmd p)) p1.session true)

/-- Byte ranges meet. -/
def rangesMeet (a n b m : Nat) : Bool := decide (a < b + m ∧ b < a + n)

/-- WEIGHT_STREAM_START (R176): a cut's weight stream starts unless an earlier cut of its queue that has not completed
uses an overlapping staging region. -/
def execWeightStreamStart (cmd : Nat) (s : State) : Host.Outcome State Fault Refusal :=
  match tget? s.cuts cmd with
  | none => .next s
  | some p => match p.stream with
    | none => .next s
    | some w =>
      let q := (cmdOf s cmd).queue
      let blocked := s.cuts.any fun (e : Nat × CutPass) => decide (e.1 < cmd) && (cmdOf s e.1).queue == q && (match e.2.stream with
        | some v => rangesMeet v.staging v.stagingBytes w.staging w.stagingBytes
        | none => false)
      if (s.ctx (cmdOf s cmd).ctx).st ≠ .live ∨ blocked ∨ w.started then .next s
      else .next { s with cuts := tset s.cuts cmd { p with stream := some { w with started := true } } }

end Sys2Proof.Machine
end

