-- ==== Sys2Proof/Machine/Render.lean ====
section
/-! DEFINITION. The RENDER_PASS packet: reading and checking the render pass descriptor, its attachments, draws and
states (R205 to R208, R224, Tables 7.1 to 7.5). -/

namespace Sys2Proof.Machine

def dBadPass : Nat := 0x12
def dBadAttachment : Nat := 0x13
def dTileListFull : Nat := 0x15

def passHdr (h : List Byte) : PassHdr :=
  { flags := fieldAt h 5 1, shape := fieldAt h 6 1, samples := fieldAt h 7 1, width := fieldAt h 8 2
    height := fieldAt h 10 2, listArea := fieldAt h 40 8, listBytes := fieldAt h 48 4, flushArea := fieldAt h 56 8
    viewport := (List.range 4).map fun i => BitVec.ofNat 32 (fieldAt h (64 + 4 * i) 4)
    depthRange := (List.range 2).map fun i => BitVec.ofNat 32 (fieldAt h (80 + 4 * i) 4)
    scissor := (List.range 4).map fun i => fieldAt h (88 + 2 * i) 2 }

/-- Counts in the header: colour attachments, DS_FLAGS, draws, states, and the tables. -/
def hdrColors (h : List Byte) : Nat := fieldAt h 12 1
def hdrDs (h : List Byte) : Nat := fieldAt h 13 1
def hdrDraws (h : List Byte) : Nat := fieldAt h 16 4
def hdrStates (h : List Byte) : Nat := fieldAt h 20 4

/-- An FP32 value from 0.0 to 1.0. -/
def unitF32 (w : Word) : Bool :=
  let n := Fmt.f32.decode w.toNat
  (n.cmp (.fin false 0 0)).any (· != .lt) && (n.cmp (.fin false 1 0)).any (· != .gt)

/-- The header's own checks (R206, R208). -/
def passHdrOk (b : List Byte) (heritage : Bool) : Bool :=
  let h := passHdr b
  fieldAt b 0 4 == 0x4E395250 && fieldAt b 4 1 == 1 && decide (h.flags < 4) && decide (h.shape ≤ 2)
    && [1, 2, 4, 8].contains h.samples && decide (1 ≤ h.width ∧ h.width ≤ 16384 ∧ 1 ≤ h.height ∧ h.height ≤ 16384)
    && decide (hdrColors b ≤ 8 ∧ hdrDs b < 4) && fieldAt b 14 2 == 0 && decide (1 ≤ hdrDraws b ∧ hdrDraws b ≤ 65536)
    && decide (1 ≤ hdrStates b ∧ hdrStates b ≤ 256) && fieldAt b 24 8 % 16 == 0 && fieldAt b 32 8 % 16 == 0
    && h.listArea % 4096 == 0 && h.listBytes % 4096 == 0 && fieldAt b 52 4 == 0 && h.flushArea % 4096 == 0
    && h.depthRange.all unitF32 && fieldAt b 96 32 == 0 && decide (h.tiles * 16 + 65536 ≤ h.listBytes)
    && bitOf h.flags 0 == heritage && (!heritage || h.shape == 1)

/-- The kinds of the attachments in descriptor order. -/
def attachKinds (b : List Byte) : List Nat :=
  List.replicate (hdrColors b) 0 ++ (if bitOf (hdrDs b) 0 then [1] else []) ++ (if bitOf (hdrDs b) 1 then [2] else [])

def attachOf (kind : Nat) (r : List Byte) : Attach :=
  ⟨kind, fieldAt r 0 8, fieldAt r 8 8, fieldAt r 16 8, fieldAt r 24 4, fieldAt r 28 4, fieldAt r 32 1, fieldAt r 33 1,
    fieldAt r 34 1, fieldAt r 35 1, (r.drop 48).take 16⟩

def Attach.resolves (a : Attach) : Bool := a.storeOp == 2 || a.storeOp == 3
def Attach.stores (a : Attach) : Bool := a.storeOp == 1 || a.storeOp == 3

/-- An attachment descriptor that R206 accepts. -/
def attachOk (h : PassHdr) (kind : Nat) (r : List Byte) : Bool :=
  let a := attachOf kind r
  let e := fmtBytes a.format
  (match kind with
    | 0 => decide (1 ≤ a.format ∧ a.format ≤ 0x0D)
    | 1 => a.format == 0x20 || a.format == 0x21
    | _ => a.format == 0x30)
    && decide (a.loadOp ≤ 2 ∧ a.storeOp ≤ 3 ∧ a.resolveMode ≤ 3) && fieldAt r 36 12 == 0
    && fieldAt r (48 + e) (16 - e) == 0 && a.pitch % 128 == 0 && decide (h.width * h.samples * e ≤ a.pitch)
    && (if a.resolves then a.resolvePitch % 128 == 0 && decide (h.width * e ≤ a.resolvePitch) && h.samples != 1
          && (kind == 0 || a.resolveMode != 0) && (kind == 1 || decide (a.resolveMode < 2))
        else a.resolvePitch == 0)

/-- A state record that R206 accepts, with depth and stencil attachments present or not. -/
def stateOk (depth stencil : Bool) (r : List Byte) : Bool :=
  let side := fun o => decide (stByte r o < 8) && (List.range 3).all fun i => decide (stByte r (o + 4 + i) < 8)
  let blend := fun i =>
    let e := fieldAt r (48 + 4 * i) 4
    decide (bitsOf e 3 0 ≤ 12 ∧ bitsOf e 7 4 ≤ 12 ∧ bitsOf e 11 8 ≤ 12 ∧ bitsOf e 15 12 ≤ 12 ∧ bitsOf e 18 16 ≤ 4 ∧ bitsOf e 21 19 ≤ 4)
      && !bitOf e 23 && bitsOf e 31 28 == 0
  decide (stCull r ≤ 2 ∧ stByte r 0 < 64 ∧ stByte r 1 < 8 ∧ stByte r 2 < 2) && stByte r 3 == 0
    && side 4 && side 12 && stByte r 11 == 0 && stByte r 19 == 0 && fieldAt r 20 12 == 0 && (List.range 8).all blend
    && (depth || (!stDepthTest r && !stDepthWrite r)) && (stencil || !stStencil r)

def flushBytes (h : PassHdr) (as : List Attach) : Nat := ceilDiv (attachStarts h as).2 4096 * 4096

/-- A program of a draw (R99, R206). -/
def drawProg (s : State) (c desc va kind : Nat) : Found Prog :=
  match loadHeader s c va with
  | .access f => .access f
  | .bad => .bad va dBadHeader
  | .ok p s1 => if p.kind = kind ∧ !p.tensor then .ok p s1 else .bad desc dBadPass

/-- The fields of a draw record that need no program. -/
def drawFieldsOk (states : Nat) (r : List Byte) : Bool :=
  let idx := fieldAt r 61 1
  decide (1 ≤ fieldAt r 52 4 ∧ fieldAt r 52 4 ≤ 2 ^ 24 ∧ 1 ≤ fieldAt r 56 4 ∧ fieldAt r 60 1 ≤ 3 ∧ idx ≤ 2 ∧ fieldAt r 62 1 ≤ 16)
    && decide (fieldAt r 63 1 < states) && fieldAt r 72 8 == 0 && ((idx == 0) == (fieldAt r 24 8 == 0))
    && (fieldAt r 62 1 != 0 || fieldAt r 40 8 == 0)

/-- A draw record read and checked. -/
def drawOf (s : State) (c desc states : Nat) (r : List Byte) : Found Draw :=
  if !drawFieldsOk states r then .bad desc dBadPass
  else match drawProg s c desc (fieldAt r 0 8) 1 with
    | .access f => .access f
    | .bad v d => .bad v d
    | .ok pos s1 =>
      match (if fieldAt r 8 8 = 0 then Found.ok none s1 else match drawProg s1 c desc (fieldAt r 8 8) 2 with
          | .access f => .access f
          | .bad v d => .bad v d
          | .ok a s2 => .ok (some a) s2) with
      | .access f => .access f
      | .bad v d => .bad v d
      | .ok attr s2 => match drawProg s2 c desc (fieldAt r 16 8) 3 with
        | .access f => .access f
        | .bad v d => .bad v d
        | .ok frag s3 => .ok
          { pos := pos, attr := attr, frag := frag, indexVa := fieldAt r 24 8, positions := fieldAt r 32 8
            attributes := fieldAt r 40 8, first := fieldAt r 48 4, count := fieldAt r 52 4, prims := fieldAt r 56 4
            topology := fieldAt r 60 1, indexSize := fieldAt r 61 1, attrCount := fieldAt r 62 1
            state := fieldAt r 63 1, args := fieldAt r 64 8 } s3

/-- Draw records one after another. -/
def drawsOf (c desc states : Nat) : State → List (List Byte) → Found (List Draw)
  | s, [] => .ok [] s
  | s, r :: rs => match drawOf s c desc states r with
    | .access f => .access f
    | .bad v d => .bad v d
    | .ok d s1 => match drawsOf c desc states s1 rs with
      | .access f => .access f
      | .bad v e => .bad v e
      | .ok t s2 => .ok (d :: t) s2

/-- Records of `k` bytes of a table. -/
def records (b : List Byte) (k n : Nat) : List (List Byte) := (List.range n).map fun i => (b.drop (k * i)).take k

/-- The whole descriptor read and checked (R205, R206). -/
def loadPass (s : State) (c desc : Nat) : Found RenderPass :=
  match vread s c desc 128 with
  | .error f => .access f
  | .ok (hb, s1) =>
    let h := passHdr hb
    let kinds := attachKinds hb
    if !passHdrOk hb (s.ctx c).heritage then .bad desc dBadPass
    else match vread s1 c (desc + 128) (kinds.length * 64) with
      | .error f => .access f
      | .ok (ab, s2) =>
        let raws := kinds.zip (records ab 64 kinds.length)
        let as := raws.map fun e => attachOf e.1 e.2
        if !(raws.all fun e => attachOk h e.1 e.2) || decide (512 < passReserve h as) then .bad desc dBadPass
        else match vread s2 c (fieldAt hb 32 8) (hdrStates hb * 80) with
          | .error f => .access f
          | .ok (sb, s3) =>
            let sts := records sb 80 (hdrStates hb)
            if !sts.all (stateOk (kinds.contains 1) (kinds.contains 2)) then .bad desc dBadPass
            else match vread s3 c (fieldAt hb 24 8) (hdrDraws hb * 80) with
              | .error f => .access f
              | .ok (db, s4) => match drawsOf c desc (hdrStates hb) s4 (records db 80 (hdrDraws hb)) with
                | .access f => .access f
                | .bad v d => .bad v d
                | .ok ds s5 =>
                  if 2 ^ 32 ≤ (ds.map Draw.prims).sum then .bad desc dBadPass
                  else .ok
                    { desc := desc, hdr := h, attaches := as, draws := ds, states := sts, order := [], gen := 0
                      posDraw := 0, posNext := 0, posDone := [], binDraw := 0, binPrim := 0, attrDue := [], attrReady := []
                      attrPlaced := [], attrDone := [], lists := [], pool := 0, flushing := false, rounds := 0
                      flushed := [], shading := false, finished := [] } s5

/-- RENDER_PASS (R183, R205 to R208, Table 9.15). -/
def execRenderPass (p : Pkt) (s : State) : Host.Outcome State Fault Refusal :=
  .next (fetchPacket s p 1 false true fun s =>
    let c := (s.queue p.q).ctx
    let desc := pField p 8 8
    match loadPass s c desc with
    | .access f => frontFault s p desc f
    | .bad va d => frontFault s p va (illegalFault d)
    | .ok r s1 =>
      let o := unitOrder (passMap s1 false (s.ctx c).heritage)
      if o = [] then frontFault s1 p desc (illegalFault dNoCoreUnit)
      else startCmd { s1 with renders := tset s1.renders s1.nextCmd { r with order := o, gen := s1.maps.gen } } p
        (newCmd s1 p .render))

end Sys2Proof.Machine
end

