-- ==== Sys2Proof/Machine/Binning.lean ====
section
/-! DEFINITION. The first half of a render pass: position and attribute groups, the binners, tile lists and flush points
(R209 to R215, R350, Tables 7.3, 7.16). -/

namespace Sys2Proof.Machine

/-- A position or attribute group made resident on the lowest-numbered core that can take it (R53, R100, R210); while
none can, the groups that wait ask for cores (R355), or the context faults for want of a unit (R183). -/
def placeVertex (s : State) (id : Nat) (r : RenderPass) (d g : Nat) (p : Prog) (placed : RenderPass) : State :=
  let c := cmdOf s id
  let dr := r.draw d
  match firstBelow 48 (vertexMay s id) with
  | none =>
    (match noUnit s (s.ctx c.ctx).heritage false with
    | some x => unitFault s id x
    | none => requestCores s id r.vertexLeft)
  | some k => match vread s c.ctx dr.args (4 * p.preload) with
    | .error f => passFault s id r.desc uSched f
    | .ok (ab, s1) =>
      let args := (List.range p.preload).map fun i => BitVec.ofNat 32 (fieldAt ab (4 * i) 4)
      let n := min 32 (dr.count - 32 * g)
      let w : Wg := { Wg.empty with
        live := true, ctx := c.ctx, cmd := id, prog := p, threads := n, mapGen := r.gen, idX := g, idY := d
        scratchKib := p.scratchKib, scratch := .free s1.freeTick }
      match (s1.core k).takeNew s1.sched.nextWid w [newGroup c.ctx p args false n 0] with
      | none => s
      | some core => noteBoost { (setRender (nameWg s1) id placed).setCore k core with freeTick := s1.freeTick + 1 } id

/-- The next position or attribute group of a render pass. -/
def passResident (cmd : Nat) (s : State) : State :=
  match livePass s cmd with
  | none => s
  | some r => match r.nextVertex with
    | some (d, g, p, placed) => placeVertex s cmd r d g p placed
    | none => s

/-- WORKGROUP_RESIDENT (R44 to R53, R100, R209, R210, R349, R355): the next workgroup of a dispatch, or the next
position or attribute group of a render pass, gets a core. -/
def execWorkgroupResident (cmd : Nat) (s : State) : Host.Outcome State Fault Refusal :=
  .next (match (tget? s.cmds cmd).map Cmd.kind with
    | some .dispatch => dispatchResident cmd s
    | some .render => passResident cmd s
    | _ => s)

/-- Bytes of the head table rounded up to 256, and chunks of the pool (R212). -/
def PassHdr.headBytes (h : PassHdr) : Nat := ceilDiv (h.tiles * 16) 256 * 256
def PassHdr.chunks (h : PassHdr) : Nat := (h.listBytes - h.headBytes) / 256

/-- What a step of a binner ends in. -/
inductive Bin where
  | ok (s : State) (r : RenderPass)
  | fault (f : AccFault) (s : State)
  /-- The pool is empty (R215). -/
  | dry

/-- 8 bytes of the tile list area written. -/
def putWord (s : State) (c va v : Nat) : Except AccFault State :=
  match vwrite s c va (leBytes 8 v) with
  | (s1, none) => .ok s1
  | (_, some f) => .error f

/-- Two words written in turn. -/
def putWords (s : State) (c : Nat) : List (Nat × Nat) → Except AccFault State
  | [] => .ok s
  | (a, v) :: r => match putWord s c a v with
    | .error f => .error f
    | .ok s1 => putWords s1 c r

/-- One entry appended to the list of a tile for a binner (R212). -/
def appendEntry (s : State) (c : Nat) (r : RenderPass) (t b word : Nat) : Bin :=
  let key := 2 * t + b
  let l := tget r.lists key ⟨0, 0, []⟩
  let fresh := l.chunk == 0 || l.used == 31
  if fresh && decide (r.hdr.chunks ≤ r.pool) then .dry
  else
    let chunk := if fresh then r.hdr.listArea + r.hdr.headBytes + 256 * r.pool else l.chunk
    let used := if fresh then 0 else l.used
    let link := if !fresh then [] else if l.chunk = 0 then [(r.hdr.listArea + 16 * t + 8 * b, chunk)] else [(l.chunk + 248, chunk + 31)]
    match putWords s c (link ++ [(chunk + 8 * used, word), (chunk + 248, used + 1)]) with
    | .error f => .fault f s
    | .ok s1 =>
      let s2 := bump (if fresh then bump s1 (0x9C + b) 0x118 else s1) (0x9C + b) 0x110
      .ok s2 { r with
        lists := tset r.lists key ⟨chunk, used + 1, l.entries ++ [word]⟩
        pool := if fresh then r.pool + 1 else r.pool }

/-- An entry appended to several tiles. -/
def appendAll (s : State) (c : Nat) (r : RenderPass) (b word : Nat) : List Nat → Bin
  | [] => .ok s r
  | t :: ts => match appendEntry s c r t b word with
    | .ok s1 r1 => appendAll s1 c r1 b word ts
    | x => x

/-- The vertex numbers of a primitive's elements (Table 7.3). -/
def elemNumbers (s : State) (c : Nat) (d : Draw) : List Nat → Except AccFault (List Nat × State)
  | [] => .ok ([], s)
  | i :: is =>
    match (if d.indexSize = 0 then Except.ok (d.first + i, s)
      else match vread s c (d.indexVa + i * (2 * d.indexSize)) (2 * d.indexSize) with
        | .error f => .error f
        | .ok (b, s1) => .ok (leNat b, s1)) with
    | .error f => .error f
    | .ok (v, s1) => match elemNumbers s1 c d is with
      | .error f => .error f
      | .ok (vs, s2) => .ok (v :: vs, s2)

/-- Records of `n` bytes at `base` for vertex numbers, as words. -/
def vertexWords (s : State) (c base n : Nat) : List Nat → Except AccFault (List (List Word) × State)
  | [] => .ok ([], s)
  | v :: vs => match vread s c (base + v * n) n with
    | .error f => .error f
    | .ok (b, s1) => match vertexWords s1 c base n vs with
      | .error f => .error f
      | .ok (r, s2) => .ok ((List.range (n / 4)).map (fun i => BitVec.ofNat 32 (fieldAt b (4 * i) 4)) :: r, s2)

/-- Attribute groups due for the vertices of a surviving primitive (R209). -/
def noteDue (r : RenderPass) (d : Nat) (vs : List Nat) : RenderPass :=
  let dr := r.draw d
  if dr.attr.isNone then r
  else { r with attrDue := tset r.attrDue d (vs.foldl (fun l v =>
    let g := (v - dr.first) / 32
    if l.contains g then l else l ++ [g]) (tget r.attrDue d [])) }

/-- The primitive that comes next, culled or appended (R211, R212). -/
def binPrim (s : State) (c : Nat) (r : RenderPass) : Bin :=
  let d := r.binDraw
  let dr := r.draw d
  let pos := r.primBase d + r.binPrim
  let b := pos / 256 % 2
  let next := { r with binPrim := r.binPrim + 1 }
  let s0 := bump s (0x9C + b) 0x100
  let cull := fun (s : State) => Bin.ok (bump s (0x9C + b) 0x108) next
  match elemNumbers s0 c dr (primElems dr.topology r.binPrim) with
  | .error f => .fault f s0
  | .ok (vs, s1) =>
    if vs.any fun v => decide (v < dr.first ∨ dr.first + dr.count ≤ v) then cull s1
    else match vertexWords s1 c dr.positions 16 vs with
      | .error f => .fault f s1
      | .ok (ps, s2) =>
        if culled r.hdr dr.topology (r.stateOf d) ps then cull s2
        else
          let ts := coveredTiles r.hdr (shapeOf r.hdr dr.topology ps)
          if ts = [] then cull s2
          else appendAll s2 c (noteDue next d vs) b (pos / 256 * 2 ^ 40 + pos % 256 * 2 ^ 32 + d * 2 ^ 16) ts

/-- The head table set to empty (R212, R213, R215). -/
def clearHeads (s : State) (c : Nat) (r : RenderPass) : State × Option AccFault :=
  vwrite s c r.hdr.listArea (List.replicate (r.hdr.tiles * 16) 0)

/-- Primitives of the draw up to the end of its batch of 256 (R37). What the primitive at a flush point had appended before the pool
ran dry is dropped with it and not counted (R215; DESIGN CHOICE, log entry 144). -/
def binBatch : Nat → State → Nat → RenderPass → Bin
  | 0, s, _, r => .ok s r
  | n + 1, s, c, r =>
    if (r.draw r.binDraw).prims ≤ r.binPrim then .ok s r
    else match binPrim s c r with
      | .ok s1 r1 => if (r.primBase r.binDraw + r1.binPrim) % 256 = 0 then .ok s1 r1 else binBatch n s1 c r1
      | .fault f s1 => .fault f s1
      | .dry =>
        let b := (r.primBase r.binDraw + r.binPrim) / 256 % 2
        if r.hdr.flushArea = 0 then .fault (illegalFault dTileListFull) s
        else .ok (bump s (0x9C + b) 0x120) { r with flushing := true, finished := [] }

/-- The draw that has been binned whole is left behind. -/
def nextDraw (r : RenderPass) : RenderPass :=
  if !r.flushing && (r.draw r.binDraw).prims ≤ r.binPrim then { r with binDraw := r.binDraw + 1, binPrim := 0 } else r

/-- A binner may take a pass's next batch (R347, R350): it works on that pass, or on none that waits for it and ranks as high;
and no pass of a higher rank waits for binning. -/
def binnerMay (s : State) (id : Nat) (r : RenderPass) : Bool :=
  let waits := fun (j : Nat) => (tget? s.renders j).any fun x => binReady s j x && !binStopped s j
  !(s.renders.any fun (e : Nat × RenderPass) => waits e.1 && lexLt (rankKey s e.1) (rankKey s id))
    && (match tget? s.sched.binning r.nextBinner with
      | some j => j == id || !waits j || lexLt (rankKey s id) (rankKey s j)
      | none => true)

/-- The pass that a binner works on from now on. -/
def setBinner (s : State) (b id : Nat) : State := { s with sched := { s.sched with binning := tset s.sched.binning b id } }

/-- A pass all of whose draws are binned leaves the binners. -/
def freeBinners (s : State) (id : Nat) : State :=
  { s with sched := { s.sched with binning := s.sched.binning.filter fun e => e.2 != id } }

/-- DRAW_BINNING (R37, R209, R211, R212, R214, R215, R347, R350, R352): the binner of the pass's next batch bins it, unless it
works on another pass that is not outranked. -/
def execDrawBinning (cmd : Nat) (s : State) : Host.Outcome State Fault Refusal :=
  match tget? s.renders cmd with
  | none => .next s
  | some r =>
    let c := cmdOf s cmd
    if !binReady s cmd r || binStopped s cmd || !binnerMay s cmd r then .next s
    else
      let (s1, bad) := if r.binDraw = 0 ∧ r.binPrim = 0 ∧ r.rounds = 0 then clearHeads s c.ctx r else (s, none)
      match bad with
      | some f => .next (passFault s1 cmd r.desc 0x9C f)
      | none => match binBatch 256 s1 c.ctx r with
        | .ok s2 r2 =>
          let r3 := nextDraw r2
          let s3 := noteBoost (setBinner (setRender s2 cmd r3) r.nextBinner cmd) cmd
          .next (if r3.binDraw = r.draws.length ∧ r.binDraw < r.draws.length then freeBinners (bump (bump s3 0x9C 0x130) 0x9D 0x130) cmd
            else s3)
        | .fault f s2 => .next (passFault s2 cmd r.desc (0x9C + r.nextBinner) f)
        | .dry => .next s

/-- ATTRIBUTE_PHASE_START (R209): the attribute groups of a draw that is binned start; at a flush point also those of
the draw that is being binned, for the primitives before the point. -/
def execAttributePhaseStart (cmd draw : Nat) (s : State) : Host.Outcome State Fault Refusal :=
  match livePass s cmd with
  | none => .next s
  | some r =>
    if (draw < r.binDraw ∨ (r.flushing ∧ draw = r.binDraw)) ∧ (r.draw draw).attr.isSome ∧ !r.attrReady.contains draw then
      .next (setRender s cmd { r with attrReady := r.attrReady ++ [draw] })
    else .next s

/-- TILE_SHADING_START (R209). -/
def execTileShadingStart (cmd : Nat) (s : State) : Host.Outcome State Fault Refusal :=
  match livePass s cmd with
  | none => .next s
  | some r =>
    if !r.shading && !r.flushing && r.binDraw == r.draws.length && attrsDone s cmd r then
      .next (setRender s cmd { r with shading := true, finished := [] })
    else .next s

/-- BINNING_RESUME (R215): the flush round is over; the pool and the head table are emptied and binning goes on. -/
def execBinningResume (cmd : Nat) (s : State) : Host.Outcome State Fault Refusal :=
  match livePass s cmd with
  | none => .next s
  | some r =>
    if r.flushing && r.roundTiles.all r.finished.contains then
      let r1 := { r with flushing := false, rounds := r.rounds + 1, lists := [], pool := 0, finished := [] }
      match clearHeads s (cmdOf s cmd).ctx r1 with
      | (s1, some f) => .next (passFault s1 cmd r.desc 0x9C f)
      | (s1, none) => .next (setRender s1 cmd r1)
    else .next s

end Sys2Proof.Machine
end

