-- ==== Sys2Proof/Machine/RenderRun.lean ====
section
/-! DEFINITION. The second half of a render pass: tiles, fragment groups, tests, blends, stores, completion (R216, R220
to R229, R236, Table 7.13). -/

namespace Sys2Proof.Machine

/-- The key of a core's raster window. -/
def uRaster (core : Nat) : Nat := 0x100 + core

/-- The attachments with their starts in the reservation. -/
def RenderPass.places (r : RenderPass) : List (Nat × Attach) := (attachStarts r.hdr r.attaches).1.zip r.attaches

/-- The attachment of colour number `i`, the depth and the stencil attachment. -/
def RenderPass.color (r : RenderPass) (i : Nat) : Option (Nat × Attach) := (r.places.filter fun e => e.2.kind == 0)[i]?
def RenderPass.depth (r : RenderPass) : Option (Nat × Attach) := r.places.find? fun e => e.2.kind == 1
def RenderPass.stencil (r : RenderPass) : Option (Nat × Attach) := r.places.find? fun e => e.2.kind == 2

/-- The address of sample `k` of pixel (x, y) of the pass in the tile (R224). -/
def sampleAddr (h : PassHdr) (pl : Nat × Attach) (x y k : Nat) : Nat :=
  pl.1 + ((y % h.tileH * h.tileW + x % h.tileW) * h.samples + k) * fmtBytes pl.2.format

def Core.getSample (c : Core) (h : PassHdr) (pl : Nat × Attach) (x y k : Nat) : Nat :=
  c.tile.nat (sampleAddr h pl x y k) (fmtBytes pl.2.format)
def Core.putSample (c : Core) (h : PassHdr) (pl : Nat × Attach) (x y k v : Nat) : Core :=
  { c with tile := c.tile.write (sampleAddr h pl x y k) (leBytes (fmtBytes pl.2.format) v) }.healRange 0 0
    (sampleAddr h pl x y k) (fmtBytes pl.2.format)

/-- z_ndc of a primitive at a place in 1/16 pixel (R222). -/
def primZ (p : Prim) (x y : Nat) : Nat := (Config.interp 0 p.verts.flatten x y).toNat

/-- Depth of a primitive at a place: NEAR + (FAR − NEAR) × z_ndc in FP32, clamped with DEPTH_CLAMP (R222). -/
def primDepth (h : PassHdr) (p : Prim) (x y : Nat) : Nat :=
  let near := (h.depthRange.getD 0 0).toNat
  let far := (h.depthRange.getD 1 0).toNat
  let d := fAdd near (fMul (fSub far near) (primZ p x y))
  if bitOf h.flags 1 then
    Fmt.f32.arith .min 0 (Fmt.f32.arith .max 0 d (Fmt.f32.arith .min 0 near far 0) 0) (Fmt.f32.arith .max 0 near far 0) 0
  else d

/-- The place of a sample in 1/16 pixel. -/
def samplePlace (h : PassHdr) (x y k : Nat) : Nat × Nat :=
  let s := (samplePos h.samples).getD k (8, 8)
  (16 * x + s.1, 16 * y + s.2)

/-- The samples that a primitive covers in a pixel, those outside the depth range left out (R214, R222). -/
def fragCover (h : PassHdr) (sh : Shape) (p : Prim) (x y : Nat) : Nat :=
  let m := coverMask h sh x y
  if bitOf h.flags 1 then m
  else (List.range h.samples).foldl (fun n k =>
    let z := Fmt.f32.decode (primZ p (samplePlace h x y k).1 (samplePlace h x y k).2)
    let out := z.isNan || z.cmp (.fin false 0 0) == some .lt || z.cmp (.fin false 1 0) == some .gt
    if bitOf m k && !out then n + 2 ^ k else n) 0

/-- The stencil side of a state record for a primitive (Table 7.4). -/
def stencilAt (p : Prim) : Nat := if p.front then 4 else 12

/-- Depth and stencil tests and writes of one sample (R222): whether it passes, and the core after. -/
def testSample (c : Core) (r : RenderPass) (st : List Byte) (p : Prim) (x y k depth : Nat) : Bool × Core :=
  let h := r.hdr
  let o := stencilAt p
  let sten := if stStencil st then r.stencil else none
  let old := match sten with
    | some pl => c.getSample h pl x y k
    | none => 0
  let ref := stByte st (o + 1)
  let rm := stByte st (o + 2)
  let sOk := sten.isNone || compareFn (stByte st o) (some (compare (ref &&& rm) (old &&& rm)))
  let dOk := match r.depth with
    | some pl => !stDepthTest st
        || compareFn (stByte st 1) (depthOrder pl.2.format (depthCode pl.2.format depth) (c.getSample h pl x y k))
    | none => true
  let c1 := match sten with
    | some pl =>
      let v := stencilOp (stByte st (o + 4 + (if !sOk then 0 else if !dOk then 1 else 2))) old ref
      let wm := stByte st (o + 3)
      c.putSample h pl x y k ((old &&& (255 - wm)) ||| (v &&& wm))
    | none => c
  let c2 := match r.depth with
    | some pl => if sOk && dOk && stDepthWrite st then c1.putSample h pl x y k (depthCode pl.2.format depth) else c1
    | none => c1
  (sOk && dOk, c2)

/-- The tests of the covered samples of a fragment: those that pass, and the core after. `out` is a depth that a tst
gave. -/
def testFrag (c : Core) (r : RenderPass) (p : Prim) (x y cover : Nat) (out : Option Nat) : Nat × Core :=
  (List.range r.hdr.samples).foldl (fun (acc : Nat × Core) k =>
    if !bitOf cover k then acc
    else
      let pl := samplePlace r.hdr x y k
      let (ok, c1) := testSample acc.2 r (r.stateOf p.draw) p x y k (out.getD (primDepth r.hdr p pl.1 pl.2))
      (if ok then acc.1 + 2 ^ k else acc.1, c1)) (0, c)

/-- A colour written to one sample: blended or not, under the write mask (R223); a RAW output as it is (R218). -/
def writeColor (c : Core) (r : RenderPass) (st : List Byte) (a : Nat) (pl : Nat × Attach) (x y k : Nat) (raw : Bool) (col : List Nat) : Core :=
  let old := c.getSample r.hdr pl x y k
  let f := pl.2.format
  let e := fieldAt st (48 + 4 * a) 4
  let const := (List.range 4).map fun i => fieldAt st (32 + 4 * i) 4
  if raw then c.putSample r.hdr pl x y k (putColor f old 15 col)
  else c.putSample r.hdr pl x y k (putColor f old (bitsOf e 27 24) (blendColor e col (toColor f old) const))

/-- The four components of an output, when it was recorded. -/
def outColor (o : FragOut) (slot : Nat) : Option (List Nat) :=
  (tget? o (slot * 8)).map fun _ => (List.range 4).map fun i => (tget o (slot * 8 + i) 0).toNat

/-- The colour outputs of a fragment in ascending attachment number (R220), and how many samples they write. -/
def writeOuts (c : Core) (r : RenderPass) (p : Prim) (x y cover : Nat) (o : FragOut) : Core × Nat :=
  let st := r.stateOf p.draw
  (List.range 8).foldl (fun (acc : Core × Nat) a =>
    match r.color a with
    | none => acc
    | some pl => (List.range r.hdr.samples).foldl (fun (acc : Core × Nat) k =>
        let acc1 := match outColor o a with
          | some col => if bitOf cover k then (writeColor acc.1 r st a pl x y k false col, acc.2 + 1) else acc
          | none => acc
        match outColor o (16 + a * 8 + k) with
        | some col => (writeColor acc1.1 r st a pl x y k true col, acc1.2 + 1)
        | none => acc1) acc) (c, 0)

/-- An earlier primitive's fragment of a pixel, or a helper lane of one there, has not committed (R216, R220). What a helper
lane's tld returns is the sample as the fragments before its primitive left it (R221), so that later ones wait for it too. -/
def earlierPending (run : RasterRun) (x y prim : Nat) : Bool :=
  run.frags.any fun f => f.x == x && f.y == y && decide (f.prim < prim)

/-- An earlier primitive's fragment that covers a pixel has not committed (R221). -/
def earlierCovers (run : RasterRun) (x y prim : Nat) : Bool :=
  run.frags.any fun f => f.x == x && f.y == y && decide (f.prim < prim) && f.cover != 0

/-- Early tests of the fragments of a group at its start (R222): the core, the group's lanes, and samples that failed. -/
def earlyTests (c : Core) (r : RenderPass) (run : RasterRun) (ls : Tbl FragLane) : Core × RasterRun × Tbl FragLane × Nat :=
  ls.foldl (fun (acc : Core × RasterRun × Tbl FragLane × Nat) e =>
    let (c, run, out, n) := acc
    if e.2.cover = 0 then (c, run, out ++ [e], n)
    else
      let p := run.prims.getD e.2.prim ⟨0, 0, 0, true, [], []⟩
      let (ok, c1) := testFrag c r p e.2.x e.2.y e.2.cover none
      let lane := { e.2 with cover := ok, helper := ok == 0 }
      (c1, { run with frags := run.frags.map fun f =>
          if f.prim = e.2.prim ∧ f.x = e.2.x ∧ f.y = e.2.y then { f with tested := true, cover := ok } else f },
        out ++ [(e.1, lane)], n + popCount 8 (e.2.cover - ok))) (c, run, [], 0)

/-- The next fragment group made resident, where it can be: its slot is free, and with EARLY_TESTS the earlier fragments
of its pixels have committed, so that its tests come at its place in the order of R220 (R222). -/
def admitFrag (s : State) (core : Nat) : State :=
  let c := s.core core
  match c.raster with
  | none => s
  | some run => match tget? s.renders run.cmd, run.waiting with
    | some r, g :: rest =>
      let ctx := (cmdOf s run.cmd).ctx
      let dr := r.draw g.draw
      let early := stEarly (r.stateOf g.draw)
      let held := early && g.lanes.any fun (e : Nat × FragLane) => e.2.cover != 0 && earlierPending run e.2.x e.2.y e.2.prim
      if held || (c.placement dr.frag dr.frag.scratchKib 1).isNone || c.saving.contains run.cmd then s
      else match vread s ctx dr.args (4 * dr.frag.preload) with
        | .error f => passFault s run.cmd r.desc core f
        | .ok (ab, s1) =>
          let args := (List.range dr.frag.preload).map fun i => BitVec.ofNat 32 (fieldAt ab (4 * i) 4)
          let (c1, run1, lanes, failed) := if early then earlyTests c r run g.lanes else (c, run, g.lanes, 0)
          let w : Wg := { Wg.empty with
            live := true, ctx := ctx, cmd := run.cmd, prog := dr.frag, threads := g.lanes.length, mapGen := r.gen
            idY := g.draw, tileIndex := run.tile, tileX := run.tile % r.hdr.gx, tileY := run.tile / r.hdr.gx
            scratchKib := dr.frag.scratchKib, scratch := .free s1.freeTick }
          let x := { newGroup ctx dr.frag args false g.lanes.length 0 with frags := lanes }
          match c1.placement dr.frag dr.frag.scratchKib 1, c1.takeNew s1.sched.nextWid w [x] with
          | some (_, slots), some c2 =>
            let slot := slots.headD 0
            let run2 := { run1 with
              waiting := rest
              frags := run1.frags.map fun f => match lanes.find? fun e => e.2.prim == f.prim && e.2.x == f.x && e.2.y == f.y with
                | some e => { f with home := some (slot, e.1) }
                | none => f }
            bumpBy ({ nameWg s1 with freeTick := s1.freeTick + 1 }.setCore core { c2 with raster := some run2 }) (uRaster core) 0x118 failed
          | _, _ => s
    | _, _ => s

def admitFrags : Nat → State → Nat → State
  | 0, s, _ => s
  | n + 1, s, core => admitFrags n (admitFrag s core) core

/-- The quads of a primitive in a tile: lanes in quad order, those without coverage as helpers (R216). -/
def primQuads (r : RenderPass) (t i : Nat) (p : Prim) : List (List FragLane) :=
  let h := r.hdr
  let sh := shapeOf h (r.draw p.draw).topology p.verts
  let quads := ((tilePixels h sh t).map fun e => (e.1 / 2 * 2, e.2 / 2 * 2)).foldl
    (fun acc q => if acc.contains q then acc else acc ++ [q]) []
  (quads.map fun q => [(q.1, q.2), (q.1 + 1, q.2), (q.1, q.2 + 1), (q.1 + 1, q.2 + 1)].map fun e =>
    let c := fragCover h sh p e.1 e.2
    (⟨e.1, e.2, i, c, c == 0⟩ : FragLane)).filter fun ls => ls.any fun l => l.cover != 0

/-- Quads gathered into groups in list order: up to eight of one draw, none twice at the same place (DESIGN CHOICE, log
entry 22: a group that held a pixel twice could never finish a tld of it). -/
def gatherQuads : List (Nat × List FragLane) → List FragGroup → List FragGroup
  | [], acc => acc.reverse
  | (d, q) :: r, acc =>
    match acc with
    | [] => gatherQuads r [⟨d, (List.range 4).zip q⟩]
    | g :: gs =>
      let here := q.headD ⟨0, 0, 0, 0, true⟩
      let same := g.lanes.any fun e => e.2.x == here.x && e.2.y == here.y
      if g.draw = d ∧ g.lanes.length < 32 ∧ !same then
        gatherQuads r (⟨d, g.lanes ++ ((List.range 4).map (· + g.lanes.length)).zip q⟩ :: gs)
      else gatherQuads r (⟨d, (List.range 4).zip q⟩ :: g :: gs)

/-- The primitives of a tile's list set up from the records in memory (R210). -/
def setupPrims (s : State) (c : Nat) (r : RenderPass) : List Nat → Except AccFault (List Prim × State)
  | [] => .ok ([], s)
  | w :: ws =>
    let d := bitsOf w 31 16
    let dr := r.draw d
    let pos := bitsOf w 63 40 * 256 + bitsOf w 39 32
    match elemNumbers s c dr (primElems dr.topology (pos - r.primBase d)) with
    | .error f => .error f
    | .ok (vs, s1) => match vertexWords s1 c dr.positions 16 vs with
      | .error f => .error f
      | .ok (ps, s2) => match vertexWords s2 c dr.attributes (dr.attrCount * 16) vs with
        | .error f => .error f
        | .ok (as, s3) => match setupPrims s3 c r ws with
          | .error f => .error f
          | .ok (t, s4) =>
            .ok (⟨d, bitsOf w 63 40, bitsOf w 39 32, frontFacing r.hdr dr.topology (r.stateOf d) ps, ps, as⟩ :: t, s4)

/-- The clear pattern of an attachment in every sample of the tile. -/
def clearTile (h : PassHdr) (pl : Nat × Attach) (t : TMem) : TMem :=
  t.write pl.1 ((List.range (h.tileW * h.tileH * h.samples)).flatMap fun _ => pl.2.clear.take (fmtBytes pl.2.format))

/-- Rows of a tile inside the render area: y, the first x, pixels. -/
def tileRows (h : PassHdr) (t : Nat) : List (Nat × Nat × Nat) :=
  let x0 := t % h.gx * h.tileW
  let y0 := t / h.gx * h.tileH
  (List.range (min h.tileH (h.height - y0))).map fun j => (y0 + j, x0, min h.tileW (h.width - x0))

/-- LOAD of one attachment, row by row (R225, R226). -/
def loadRows (c : Nat) (r : RenderPass) (pl : Nat × Attach) : List (Nat × Nat × Nat) → State → TMem → Except AccFault (State × TMem × Nat)
  | [], s, t => .ok (s, t, 0)
  | (y, x, n) :: rows, s, t =>
    let e := fmtBytes pl.2.format * r.hdr.samples
    match vread s c (pl.2.loadVa + y * pl.2.pitch + x * e) (n * e) with
    | .error f => .error f
    | .ok (b, s1) => match loadRows c r pl rows s1 (t.write (sampleAddr r.hdr pl x y 0) b) with
      | .error f => .error f
      | .ok (s2, t2, k) => .ok (s2, t2, k + n * e)

/-- Every attachment filled by its LOAD_OP; positions beyond the render area as by CLEAR (R225). -/
def loadAll (c : Nat) (r : RenderPass) (t : Nat) : List (Nat × Attach) → State → TMem → Except AccFault (State × TMem × Nat)
  | [], s, m => .ok (s, m, 0)
  | pl :: rest, s, m =>
    let full := decide (t % r.hdr.gx * r.hdr.tileW + r.hdr.tileW ≤ r.hdr.width ∧ t / r.hdr.gx * r.hdr.tileH + r.hdr.tileH ≤ r.hdr.height)
    let m1 := if pl.2.loadOp = 2 then clearTile r.hdr pl m
      else if full then m
      else (List.range r.hdr.tileH).foldl (fun m j => (List.range r.hdr.tileW).foldl (fun m i =>
        let x := t % r.hdr.gx * r.hdr.tileW + i
        let y := t / r.hdr.gx * r.hdr.tileH + j
        if x < r.hdr.width ∧ y < r.hdr.height then m
        else m.write (sampleAddr r.hdr pl x y 0)
          ((List.range r.hdr.samples).flatMap fun _ => pl.2.clear.take (fmtBytes pl.2.format))) m) m
    match (if pl.2.loadOp = 1 then loadRows c r pl (tileRows r.hdr t) s m1 else .ok (s, m1, 0)) with
    | .error f => .error f
    | .ok (s1, m2, k) => match loadAll c r t rest s1 m2 with
      | .error f => .error f
      | .ok (s2, m3, n) => .ok (s2, m3, k + n)

/-- The starting content of a tile: its flush block when an earlier round stored one, else the load ops (R215, R225). -/
def tileContent (s : State) (c : Nat) (r : RenderPass) (t : Nat) : Except AccFault (State × TMem × Nat) :=
  let m : TMem := .free s.freeTick
  let s1 := { s with freeTick := s.freeTick + 1 }
  if r.flushed.contains t then
    let n := (attachStarts r.hdr r.attaches).2
    match vread s1 c (r.hdr.flushArea + t * flushBytes r.hdr r.attaches) n with
    | .error f => .error f
    | .ok (b, s2) => .ok (s2, m.write 0 b, n)
  else loadAll c r t r.places s1 m

/-- The words in error that are left once a tile's starting content has been written (R466). -/
def healFresh (c : Core) (m : TMem) : List Nat :=
  c.badTile.filter fun w => !(decide (2 ^ 24 ≤ w) && (List.range 4).all fun i => (tget? m.bytes ((w - 2 ^ 24) * 4 + i)).isSome)

/-- A pass whose map changed takes the new one: tiles that have not started go to its owners (R229). -/
def refit (s : State) (id : Nat) (r : RenderPass) : State × RenderPass :=
  if r.gen = s.maps.gen then (s, r)
  else
    let o := unitOrder (passMap s false (s.ctx (cmdOf s id).ctx).heritage)
    let r1 := { r with order := o, gen := s.maps.gen }
    (o.foldl (fun s k => bump s (uRaster k) 0x160) (setRender s id r1), r1)

/-- RENDER_TILE_START (R170, R207, R209, R215, R216, R224, R225, R229, R236, R349). -/
def execRenderTileStart (core cmd : Nat) (s : State) : Host.Outcome State Fault Refusal :=
  match livePass s cmd with
  | none => .next s
  | some r0 =>
    let (s, r) := refit s cmd r0
    let c := (cmdOf s cmd).ctx
    if r.order = [] then .next (passFault s cmd r.desc uSched (illegalFault dNoCoreUnit))
    else if !tilesReady s cmd r then .next s
    else match r.nextTile s cmd core with
      | none => .next s
      | some t =>
        if !tileMay s core cmd false then .next (askTile s core cmd (passReserve r.hdr r.attaches))
        else match takeHold s core cmd (passReserve r.hdr r.attaches) 0 with
        | .error s1 => .next s1
        | .ok s1 => match tileContent s1 c r t with
          | .error f => .next (passFault s1 cmd r.desc core f)
          | .ok (s2, m, n) => match setupPrims s2 c r (r.entries t) with
            | .error f => .next (passFault s2 cmd r.desc core f)
            | .ok (ps, s3) =>
              let quads := ((List.range ps.length).zip ps).flatMap fun e => (primQuads r t e.1 e.2).map fun q => (e.2.draw, q)
              let frags := (quads.flatMap Prod.snd).map fun l => (⟨l.prim, l.x, l.y, l.cover, none, l.cover == 0, none⟩ : PendFrag)
              let gs := gatherQuads quads []
              let s4 := s3.setCore core { s3.core core with tile := m, badTile := healFresh (s3.core core) m, raster := some ⟨cmd, t, ps, gs, frags⟩ }
              let s5 := bumpBy (bumpBy (bumpBy s4 (uRaster core) 0x140 n) (uRaster core) 0x108 ps.length) (uRaster core) 0x110 quads.length
              .next (admitFrags gs.length (noteBoost s5 cmd) core)

/-- The outputs of a fragment that has exited, none while it runs (R218, R220). -/
def fragResult (c : Core) (f : PendFrag) : Option FragOut :=
  match f.result with
  | some o => some o
  | none => match f.home with
    | some (slot, l) =>
      let g := c.group slot
      if g.live && inMask g.exited l then some (laneOuts g.outs l) else none
    | none => none

/-- A word of the tile that a pixel's samples of an attachment occupy holds an uncorrectable error. -/
def sampleBad (c : Core) (r : RenderPass) (pl : Nat × Attach) (x y : Nat) : Bool :=
  !c.badTile.isEmpty && c.badRange 0 0 (sampleAddr r.hdr pl x y 0) (fmtBytes pl.2.format * r.hdr.samples)

/-- The attachments that a commit reads before it writes them: those that it tests, those that it blends with, and those of
whose words it keeps a part. -/
def planesRead (r : RenderPass) (st : List Byte) : List (Nat × Attach) :=
  let keeps := fun (i : Nat) (pl : Nat × Attach) =>
    let e := fieldAt st (48 + 4 * i) 4
    bitOf e 22 || bitsOf e 27 24 != 15 || fmtBytes pl.2.format % 4 != 0
  (if stDepthTest st then r.depth.toList else []) ++ (if stStencil st then r.stencil.toList else [])
    ++ (List.range 8).flatMap fun i => (r.color i).toList.filter (keeps i)

/-- A commit of a draw's fragment reads a word in error. -/
def pixelBad (c : Core) (r : RenderPass) (draw x y : Nat) : Bool :=
  !c.badTile.isEmpty && (planesRead r (r.stateOf draw)).any fun pl => sampleBad c r pl x y

/-- The tile engine stores a word in error at the end of a tile. -/
def storeBad (c : Core) (r : RenderPass) : Bool :=
  !c.badTile.isEmpty && (if r.flushing then c.badRange 0 0 0 (attachStarts r.hdr r.attaches).2
    else r.places.any fun pl => (pl.2.stores || pl.2.resolves) && c.badRange 0 0 pl.1 (pl.2.tileBytes r.hdr))

/-- FRAGMENT_COMMIT (R218, R220 to R223): the k-th fragment not committed commits, when it has exited and no earlier
primitive's fragment of its pixel is left; fragment groups that wait may start. -/
def execFragmentCommit (core k : Nat) (s : State) : Host.Outcome State Fault Refusal :=
  let c := s.core core
  match c.raster with
  | none => .next s
  | some run => match livePass s run.cmd, run.frags[k]? with
    | some r, some f => match fragResult c f with
      | none => .next (admitFrags run.waiting.length s core)
      | some o =>
        if earlierPending run f.x f.y f.prim || c.saving.contains run.cmd then .next s
        else if f.cover != 0 && pixelBad c r (run.prims.getD f.prim ⟨0, 0, 0, true, [], []⟩).draw f.x f.y then .next (passFault s run.cmd r.desc core ⟨cEcc, eTile, 0, false, 0, 0⟩)
        else
          let p := run.prims.getD f.prim ⟨0, 0, 0, true, [], []⟩
          let cover := match tget? o (0xE * 8) with
            | some m => f.cover &&& m.toNat
            | none => f.cover
          let (ok, c1) := if f.tested then (cover, c) else testFrag c r p f.x f.y cover ((tget? o (8 * 8)).map BitVec.toNat)
          let (c2, n) := writeOuts c1 r p f.x f.y ok o
          let run1 := { run with frags := run.frags.eraseIdx k }
          let s1 := bumpBy (s.setCore core { c2 with raster := some run1 }) (uRaster core) 0x128 n
          .next (admitFrags run.waiting.length (bumpBy s1 (uRaster core) 0x120 (popCount 8 (cover - ok))) core)
    | _, _ => .next (admitFrags run.waiting.length s core)

/-- STORE of one attachment as runs of reservation offsets (R226). -/
def storeRuns (r : RenderPass) (t : Nat) (pl : Nat × Attach) : List (Nat × List Nat) :=
  let e := fmtBytes pl.2.format * r.hdr.samples
  (tileRows r.hdr t).map fun (y, x, n) =>
    (pl.2.storeVa + y * pl.2.pitch + x * e, (List.range (n * e)).map (sampleAddr r.hdr pl x y 0 + ·))

/-- RESOLVE of one attachment as rows of bytes (R226, R227). -/
def resolveRuns (c : Core) (r : RenderPass) (t : Nat) (pl : Nat × Attach) : List (Nat × List Byte) :=
  let e := fmtBytes pl.2.format
  (tileRows r.hdr t).map fun (y, x, n) =>
    (pl.2.resolveVa + y * pl.2.resolvePitch + x * e, (List.range n).flatMap fun i =>
      leBytes e (resolvePixel pl.2.format pl.2.resolveMode ((List.range r.hdr.samples).map fun k => c.getSample r.hdr pl (x + i) y k)))

/-- Rows of bytes written to virtual memory, up to the first that faults. -/
def writeRows (s : State) (c : Nat) : List (Nat × List Byte) → State × Option AccFault
  | [] => (s, none)
  | (va, bs) :: r => match vwrite s c va bs with
    | (s1, some f) => (s1, some f)
    | (s1, none) => writeRows s1 c r

/-- The rows that the end of a tile stores: its flush block in a flush round, else by the store ops (R215, R226). -/
def tileStores (c : Core) (r : RenderPass) (t : Nat) : List (Nat × List Byte) :=
  if r.flushing then
    [(r.hdr.flushArea + t * flushBytes r.hdr r.attaches, c.tile.read 0 (attachStarts r.hdr r.attaches).2)]
  else r.places.flatMap fun pl =>
    (if pl.2.stores then (storeRuns r t pl).map fun e => (e.1, e.2.map c.tile.get) else [])
      ++ (if pl.2.resolves then resolveRuns c r t pl else [])

/-- RENDER_TILE_END (R38, R215, R226, R227, R229, R236, R353). -/
def execRenderTileEnd (core : Nat) (s : State) : Host.Outcome State Fault Refusal :=
  let c := s.core core
  match c.raster with
  | none => .next s
  | some run => match livePass s run.cmd with
    | none => .next s
    | some r =>
      let left := !run.waiting.isEmpty || !run.frags.isEmpty || c.saving.contains run.cmd
        || c.wgs.any fun (e : Nat × Wg) => e.2.live && e.2.cmd == run.cmd && e.2.prog.kind == 3
      if left then .next s
      else if storeBad c r then
        .next (passFault s run.cmd r.desc core ⟨cEcc, eTile, 0, false, 0, 0⟩)
      else
        let rows := tileStores c r run.tile
        let n := (rows.map fun e => e.2.length).sum
        match writeRows s (cmdOf s run.cmd).ctx rows with
        | (s1, some f) => .next (passFault s1 run.cmd r.desc core f)
        | (s1, none) =>
          let r1 := { r with
            finished := r.finished ++ [run.tile]
            flushed := if r.flushing && !r.flushed.contains run.tile then r.flushed ++ [run.tile] else r.flushed }
          let s2 := (setRender s1 run.cmd r1).setCore core { s1.core core with raster := none }
          let s3 := bumpBy (bump s2 (uRaster core) 0x100) (uRaster core) (if r.flushing then 0x150 else 0x148) n
          let more := r.flushing || (r1.nextTile s3 run.cmd core).isSome
          let s4 := if more then s3 else if stopAsked s3 core run.cmd then s3 else s3.setCore core (s3.core core).dropHold
          .next (tileBoundary s4 core)

/-- The bytes of the tile list area become free values (R213). -/
def forgetLists (s : State) (c : Nat) (r : RenderPass) : State :=
  let bs := (List.range r.hdr.listBytes).map fun i => Config.freeByte s.freeTick i
  (vwrite { s with freeTick := s.freeTick + 1 } c r.hdr.listArea bs).1

/-- RENDER_PASS_COMPLETE (R209, R213, R309). -/
def execRenderPassComplete (cmd : Nat) (s : State) : Host.Outcome State Fault Refusal :=
  match livePass s cmd with
  | none => .next s
  | some r =>
    if r.shading && r.roundTiles.all r.finished.contains && (tilesBusy s cmd).isEmpty && !storesOf s cmd then
      let s1 := { s with cores := tmap s.cores fun _ c => if c.holder = some cmd then c.dropHold else c }
      .next (finishCmd (forgetLists s1 (cmdOf s cmd).ctx r) cmd)
    else .next s

end Sys2Proof.Machine
end

