-- ==== Sys2Proof/Machine/Flip.lean ====
section
/-! DEFINITION. Flips (R243 to R258): the submit and its checks, the flip deadline, the lead window. -/

namespace Sys2Proof.Machine

/-- Who holds an output and a layer. -/
def outOwner (s : State) (n : Nat) : Option Nat := tget? s.prism.outGrants n
def layerOwner (s : State) (n k : Nat) : Option Nat := tget? s.prism.layerGrants (16 * n + k)
def State.layer (s : State) (n k : Nat) : Layer := tget s.prism.layers (16 * n + k) .reset
def State.setLayer (s : State) (n k : Nat) (x : Layer) : State :=
  { s with prism := { s.prism with layers := tset s.prism.layers (16 * n + k) x } }
def State.page (s : State) (t : Nat) : FlipPage := tget s.prism.pages t .reset
def State.setPage (s : State) (t : Nat) (x : FlipPage) : State :=
  { s with prism := { s.prism with pages := tset s.prism.pages t x } }

/-- Fields of a layer (Tables 8.13 to 8.17). -/
def LayerRegs.format (r : LayerRegs) : Nat := bitsOf r.ctl.toNat 15 8
def LayerRegs.alpha (r : LayerRegs) : Nat := bitsOf r.ctl.toNat 63 48
def LayerRegs.mode (r : LayerRegs) : Nat := bitsOf r.ctl.toNat 3 2
def LayerRegs.scale (r : LayerRegs) : Nat := 2 ^ bitsOf r.ctl.toNat 5 4
def LayerRegs.gen (r : LayerRegs) : Nat := bitsOf r.src.toNat 63 48
def LayerRegs.obj (r : LayerRegs) : Nat := bitsOf r.src.toNat 47 32
def LayerRegs.off (r : LayerRegs) : Nat := bitsOf r.src.toNat 31 0
def LayerRegs.pitch (r : LayerRegs) : Nat := bitsOf r.size.toNat 63 32
def LayerRegs.h (r : LayerRegs) : Nat := bitsOf r.size.toNat 31 16
def LayerRegs.w (r : LayerRegs) : Nat := bitsOf r.size.toNat 15 0
def LayerRegs.x (r : LayerRegs) : Int := toSigned 16 r.pos.toNat
def LayerRegs.y (r : LayerRegs) : Int := toSigned 16 (r.pos.toNat / 2 ^ 16)

/-- Bytes of a pixel (Table 8.1). -/
def layerBytes (f : Nat) : Nat := if f = 0x0A then 8 else 4

/-- Every field of an enabled layer in range and every reserved field 0 (Tables 8.13 to 8.18). -/
def LayerRegs.fieldsOk (r : LayerRegs) : Bool :=
  let b := layerBytes r.format
  [3, 4, 5, 6, 0x0A].contains r.format && bitsOf r.ctl.toNat 5 4 != 3 && r.mode != 3
    && bitsOf r.ctl.toNat 47 16 == 0 && bitsOf r.ctl.toNat 7 6 == 0 && !r.ctl.getLsbD 1
    && decide (1 ≤ r.w ∧ r.w ≤ 16384) && decide (1 ≤ r.h ∧ r.h ≤ 16384)
    && r.pitch % 256 == 0 && decide (r.w * b ≤ r.pitch) && r.off % 256 == 0
    && decide (-16384 ≤ r.x ∧ r.x ≤ 16383) && decide (-16384 ≤ r.y ∧ r.y ≤ 16383) && bitsOf r.pos.toNat 63 32 == 0
    && bitsOf r.sync.toNat 63 48 == 0 && !r.sync.getLsbD 46 && bitsOf r.sync.toNat 31 11 == 0

/-- Bytes that an enabled layer is fetched from once a frame (R250). -/
def LayerRegs.load (r : LayerRegs) : Nat := if r.enable then r.w * r.h * layerBytes r.format else 0

/-- Fields of a mode. -/
def VideoMode.hActive (m : VideoMode) : Nat := bitsOf m.h.toNat 15 0
def VideoMode.vActive (m : VideoMode) : Nat := bitsOf m.v.toNat 15 0
def fourSum (x : DWord) : Nat :=
  bitsOf x.toNat 15 0 + bitsOf x.toNat 31 16 + bitsOf x.toNat 47 32 + bitsOf x.toNat 63 48
def VideoMode.total (m : VideoMode) : Nat := fourSum m.h * fourSum m.v
def VideoMode.khz (m : VideoMode) : Nat := bitsOf m.clk.toNat 31 0
def VideoMode.bpc (m : VideoMode) : Nat := bitsOf m.ctl.toNat 11 8

/-- The armed set of a layer (R251). -/
def setOf (s : State) (n k : Nat) : Option FlipSet :=
  s.prism.sets.find? fun x => x.output == n && (tget? x.snap k).isSome

/-- Fetch bytes a frame of an output whose layers in `snap` are as it says (R250). -/
def outLoad (s : State) (n : Nat) (snap : Tbl LayerRegs) : Nat :=
  ((List.range 16).map fun k => match tget? snap k with
    | some r => r.load
    | none => max (s.layer n k).act.load (match setOf s n k with
      | some x => ((tget? x.snap k).map LayerRegs.load).getD 0
      | none => 0)).sum

/-- The engine's fetch load stays within 64 GB/s (R250); both sides are multiplied by the totals of its two modes. -/
def loadOk (s : State) (n : Nat) (snap : Tbl LayerRegs) : Bool :=
  let a := 2 * (n / 2)
  let part := fun (i : Nat) => outLoad s i (if i = n then snap else []) * ((s.output i).mode.khz * 1000)
  let t := fun (i : Nat) => max 1 (s.output i).mode.total
  decide (part a * t (a + 1) + part (a + 1) * t a ≤ 64000000000 * t a * t (a + 1))

/-- A submit (Table 8.20): its fields. -/
structure Submit where
  tag : Nat
  output : Nat
  replace : Bool
  mask : Nat
  deriving DecidableEq, Repr

def Submit.ofNat (x : Nat) : Submit := ⟨bitsOf x 63 48, bitsOf x 19 18, bitOf x 17, bitsOf x 15 0⟩
def Submit.layers (u : Submit) : List Nat := (List.range 16).filter (bitOf u.mask)

/-- The snapshot of the pending registers (R248). -/
def snapOf (s : State) (u : Submit) : Tbl LayerRegs := u.layers.map fun k => (k, (s.layer u.output k).pend)
def doneOf (p : FlipPage) : Option Nat := if p.doneFence.getLsbD 15 then some (bitsOf p.doneFence.toNat 13 0) else none

/-- The checks of Table 8.2 in order: STATUS and DETAIL of the first that fails. -/
def submitCheck (s : State) (t : Nat) (u : Submit) (done : Option Nat) : Option (Nat × Nat) :=
  let snap := snapOf s u
  let on := (snap.map Prod.snd).filter LayerRegs.enable
  let fences := ((on.filter LayerRegs.acqEn).map LayerRegs.acqFence) ++ done.toList
  if u.mask = 0 then some (0x12, 0x01)
  else if u.layers.any fun k => layerOwner s u.output k != some t then some (0x21, 0x07)
  else if (s.output u.output).src = .off then some (0x30, 0x0B)
  else if on.any fun r => !r.fieldsOk then some (0x12, 0x02)
  else if on.any fun r => (s.obj r.obj).st != .live || (s.obj r.obj).gen != r.gen then some (0x12, 0x03)
  else if on.any fun r => decide ((s.obj r.obj).size < r.off + (r.h - 1) * r.pitch + r.w * layerBytes r.format) then some (0x12, 0x04)
  else if fences.any fun f => fenceRight (s.fence f) t == 0 then some (0x21, 0x08)
  else if fences.any fun f => (s.fence f).heritage then some (0x12, 0x06)
  else if (on.filter LayerRegs.queueEn).any fun r =>
      (s.queue r.queue).st == .free || (s.ctx (s.queue r.queue).ctx).tenant != t then some (0x21, 0x09)
  else if !loadOk s u.output snap then some (0x12, 0x05)
  else if !u.replace && u.layers.any fun k => (setOf s u.output k).isSome then some (0x30, 0x0A)
  else none

/-- An action on each set of a list that still exists when its turn comes: what ends one set can end a later one, whose
acquire fence its signal poisons (Table 8.3). -/
def eachSet (f : State → FlipSet → State) (xs : List FlipSet) (s : State) : State :=
  xs.foldl (fun s x => if s.prism.sets.any fun y => y.id == x.id then f s x else s) s

/-- A set cancelled (R251, R270). -/
def cancelSet (s : State) (x : FlipSet) : State :=
  settle x.signals (bump (noteLast (dropSet s x.id) x 2) (uOut x.output) 0x118)

/-- Workgroups of a dispatch, and position and attribute groups of a pass, that are not resident yet. -/
def groupsLeft (s : State) (id : Nat) : Nat :=
  let c := cmdOf s id
  match c.kind with
  | .dispatch => c.total - c.nextWg
  | .render => ((tget? s.renders id).map RenderPass.vertexLeft).getD 0
  | _ => 0

/-- The owners of tiles of a pass that have not completed (R355). -/
def ownersLeft (s : State) (id : Nat) : List Nat :=
  match tget? s.cuts id, tget? s.renders id with
  | some p, _ => if p.gen = s.maps.gen then p.order.filter p.moreOn else []
  | none, some r => r.order.filter fun k => (List.range r.hdr.tiles).any fun t =>
      ownerOf r.order t == k && !(r.shading && r.finished.contains t)
  | none, none => []

/-- Every core that R355 names for the waiting work of a queue that a request boosts is preempted at the instruction
boundary (R365). -/
def preemptFor (s : State) (q : Nat) : State :=
  s.cmds.foldl (fun s (e : Nat × Cmd) =>
    if e.2.queue ≠ q ∨ (s.ctx e.2.ctx).st ≠ .live then s
    else
      let s1 := requestCores s e.1 (groupsLeft s e.1 - roomElsewhere s e.1)
      let s2 := (ownersLeft s1 e.1).foldl (fun s k => preemptCore s k e.1) s1
      (s2.sched.saved.filter fun x => x.cmd == e.1).foldl askRestore s2) s

/-- The deadline requests of an ARMED set inside the lead window of the flip deadline `due`, the earliest that is open
(R256): one for each queue. -/
def raiseRequests (s : State) (x : FlipSet) (due : Nat) : State :=
  let want := (x.acquires.filter fun r => r.queueEn && (s.fence r.acqFence).outcome r.acq.toNat != some 0).map LayerRegs.queue
  let held := (s.sched.boosts.filter fun b => b.set == x.id).map Boost.queue
  let new := want.foldl (fun acc q => if held.contains q || acc.contains q then acc else acc ++ [q]) ([] : List Nat)
  let bs := (s.sched.boosts.map fun (b : Boost) => if b.set = x.id then { b with due := due } else b)
    ++ new.map fun q => (⟨x.id, q, x.output, due⟩ : Boost)
  let s1 := { s with sched := { s.sched with boosts := bs } }
  let up := new.filter fun q => effPrio s q != 8
  let run := s.cmds.filter fun e => new.contains e.2.queue && residentCmd s e.1
  let s2 := run.foldl (fun s e => noteBoost s e.1) s1
  new.foldl preemptFor (bumpBy (bumpBy s2 (uOut x.output) 0x128 new.length) uSched 0x140 up.length)

/-- The deadline requests of the sets of an output that composes, while a lead window is open (R256). -/
def raiseOn (s : State) (n : Nat) : State :=
  let o := s.output n
  match o.leadDues with
  | due :: _ => if o.src = .compose then
      (s.prism.sets.filter fun x => x.output == n && !x.ready).foldl (fun s x => raiseRequests s x due) s else s
  | [] => s

/-- A submit that passes arms its set (R248, R251, R255, R256). -/
def armSet (s : State) (t : Nat) (u : Submit) (done : Option Nat) (value : DWord) : State :=
  let old := s.prism.sets.filter fun x => x.output == u.output && u.layers.any fun k => (tget? x.snap k).isSome
  let snap := snapOf s u
  let s1 := eachSet cancelSet old s
  let x : FlipSet :=
    { id := s1.prism.nextSet, tenant := t, output := u.output, tag := u.tag, done := done, value := value
      snap := snap, ready := false, readyAt := s.timer }
  let s2 := { s1 with prism := { s1.prism with sets := s1.prism.sets ++ [x], nextSet := s1.prism.nextSet + 1 } }
  let (s3, as) := evalSet s2 x
  raiseOn (settle as s3) u.output

/-- BAR0 offset of a register of the Prism block. -/
def prismOff (o : Nat) : Nat := 0x4000000 + o

/-- FLIP_SUBMIT (R248 to R251, Table 8.2). -/
def execFlipSubmit (a : Access) (t : Nat) (s : State) : Host.Outcome State Fault Refusal :=
  .next (ownPage s a t (prismOff (0x300010 + 0x1000 * t)) (
    let u := Submit.ofNat (accOnes a).toNat
    match submitCheck s t u (doneOf (s.page t)) with
    | some (st, d) => s.setPage t { s.page t with tag := u.tag, status := st, detail := d }
    | none => armSet (s.setPage t { s.page t with tag := u.tag, status := 0, detail := 0 }) t u (doneOf (s.page t)) (s.page t).doneValue))

/-- A set discarded: no signal and no record (Table 8.3). -/
def discardSets (s : State) (p : FlipSet → Bool) : State := (s.prism.sets.filter p).foldl (fun s x => dropSet s x.id) s

/-- The active layers whose keys `p` picks are disabled (R257, R269, R270). -/
def disableLayers (s : State) (p : Nat → Bool) : State :=
  { s with prism := { s.prism with
      layers := tmap s.prism.layers fun k l => if p k then { l with act := { l.act with ctl := l.act.ctl &&& ~~~1 } } else l } }

/-- The layers of an output. -/
def ofOutput (n k : Nat) : Bool := k / 16 == n

/-- Fields of the Beacon registers (Table 8.26). -/
def BeaconRegs.enable (b : BeaconRegs) : Bool := b.ctl.getLsbD 0
/-- The factor of SCALE; code 3, which Table 8.26 does not give, enlarges by 8 (DESIGN CHOICE, log entry 147). -/
def BeaconRegs.scale (b : BeaconRegs) : Nat := 2 ^ bitsOf b.ctl.toNat 2 1
def BeaconRegs.stride (b : BeaconRegs) : Nat := bitsOf b.region.toNat 47 32
def BeaconRegs.off (b : BeaconRegs) : Nat := bitsOf b.region.toNat 19 0
def BeaconRegs.h (b : BeaconRegs) : Nat := bitsOf b.geom.toNat 63 48
def BeaconRegs.w (b : BeaconRegs) : Nat := bitsOf b.geom.toNat 47 32
def BeaconRegs.y (b : BeaconRegs) : Nat := bitsOf b.geom.toNat 31 16
def BeaconRegs.x (b : BeaconRegs) : Nat := bitsOf b.geom.toNat 15 0

/-- The checks of R264. -/
def BeaconRegs.ok (b : BeaconRegs) : Bool :=
  decide (1 ≤ b.w ∧ b.w ≤ 8192) && decide (1 ≤ b.h ∧ b.h ≤ 8192) && decide (b.w ≤ b.stride)
    && decide (b.off + (b.h - 1) * b.stride + b.w ≤ 1048576)

/-- A pending commit applied (R264). -/
def Output.applyCommit (o : Output) : Output :=
  if !o.commit then o
  else if o.pend.ok then { o with act := o.pend, commit := false, commitErr := 0 }
  else { o with commit := false, commitErr := 1 }

/-- A set latches (R253). -/
def latchSet (s : State) (x : FlipSet) : State :=
  let s1 := x.snap.foldl (fun s e => s.setLayer x.output e.1 { s.layer x.output e.1 with act := e.2 }) s
  noteLast (settle x.signals (bump (dropSet s1 x.id) (uOut x.output) 0x108)) x 1

/-- Kreog prepares or makes a switch (R428, R430, Table 8.5). -/
def holding (s : State) : Bool :=
  match s.ranger.act with
  | none => false
  | some a => match a.phase with
    | .copy | .probation => false
    | .wait => s.ranger.graphs.all fun g => g.2.run.isNone
    | .switch | .back => true

/-- Kreog prepares a switch, or a control gap of a restart runs (Table 8.5). -/
def holdAsked (s : State) : Bool := holding s || !s.ranger.up

/-- The state of an output from a flip deadline on (Table 8.5). -/
def nextSrc (s : State) (o : Output) : PixSrc :=
  if o.toKeeper ∧ o.src ≠ .off then .keeper
  else if o.src = .keeper then (if !o.released then .keeper else if holdAsked s then .hold else .compose)
  else if o.src = .compose ∧ holdAsked s then .hold
  else if o.src = .hold ∧ !holdAsked s then .compose
  else o.src

/-- A READY set whose last signal may count for the next deadline only: it took effect `age` nanoseconds ago, less than
32 (R252), which has to agree with the ticks of 10^4/384 ns between the two. -/
def FlipSet.mayWait (x : FlipSet) (age : Nat) (s : State) : Bool :=
  x.ready && x.acquires != [] && decide (age < 32)
    && decide (10000 * (s.timer - x.readyAt) < 384 * age + 10000 ∧ 384 * age < 10000 * (s.timer - x.readyAt + 1))

/-- The lead windows still open after a flip deadline: those of later deadlines that lie within the lead time now in
force (R256, R258). -/
def Output.laterDues (o : Output) (now : Nat) : List Nat :=
  o.leadDues.tail.filter fun d => decide (10 * d ≤ 10 * now + 384 * bitsOf o.lead.toNat 13 0)
    && bitsOf o.lead.toNat 13 0 != 0

/-- FLIP_DEADLINE (R252, R253, R255 to R258, R264, R269, R282): `late` are the sets whose last signal took effect less
than 32 ns ago, with its age in nanoseconds, and that count as ARMED at this deadline. The keeper gives back an engine that
was reset with its layers disabled and its armed sets discarded. -/
def flipDeadline (s : State) (n : Nat) (late : List (Nat × Nat)) : State :=
  let o := s.output n
  if 4 ≤ n ∨ o.src = .off then s
  else
    let src := nextSrc s o
    let back := o.src == .keeper && src != .keeper
    let o1 := { o with
      toKeeper := false
      released := false
      engineReset := o.engineReset && !back
      frame := (o.frame + 1) % 2 ^ 64
      src := src
      bgAct := o.bg
      leadAct := o.lead
      under := []
      leadDues := o.laterDues s.timer }
    let o2 := if src = .compose then { o1 with holdColour := o.bg } else o1
    let s1 := bump (s.setOutput n o2.applyCommit) (uOut n) 0x100
    let sent := o.linkUp && !o.busy
    let s2 := if sent && o.src == .hold then bump s1 (uOut n) 0x138 else if sent && o.src == .keeper then bump s1 (uOut n) 0x140 else s1
    let gone := s.prism.drop.filter fun k => k / 16 == n
    let s3 := disableLayers s2 fun k => gone.contains k || (back && o.engineReset && ofOutput n k)
    let s4 := { s3 with prism := { s3.prism with
      drop := s3.prism.drop.filter fun k => k / 16 != n
      badStore := s3.prism.badStore.filter fun w => w / 262144 != n } }
    let s5 := if back && o.engineReset then discardSets s4 fun x => x.output == n else s4
    let mine := s5.prism.sets.filter fun x => x.output == n
    let armed := fun (x : FlipSet) => !x.ready || late.any fun e => e.1 == x.id && x.mayWait e.2 s
    let s6 := bumpBy s5 (uOut n) 0x110 (mine.filter armed).length
    raiseOn (if src = .compose then eachSet latchSet (mine.filter fun x => !armed x) s6 else s6) n

def execFlipDeadline (n : Nat) (late : List (Nat × Nat)) (s : State) : Host.Outcome State Fault Refusal := .next (flipDeadline s n late)

/-- A lead window that opens, in the order of the deadlines. -/
def Output.openDue (o : Output) (due : Nat) : Output :=
  { o with leadDues := (o.leadDues.filter fun d => decide (d < due)) ++ [due] ++ o.leadDues.filter fun d => decide (due < d) }

/-- LEAD_WINDOW_OPEN (R256, R346, R365): the lead window of the flip deadline at device timer `due` opens. -/
def execLeadWindowOpen (n due : Nat) (s : State) : Host.Outcome State Fault Refusal :=
  let o := s.output n
  .next (if o.src = .off ∨ bitsOf o.leadAct.toNat 13 0 = 0 then s else raiseOn (s.setOutput n (o.openDue due)) n)

end Sys2Proof.Machine
end

