-- ==== Sys2Proof/Machine/Image.lean ====
section
/-! DEFINITION. Configuration images (Tables 13.17, 13.18, 14.11, 16.17 and 17.6): their fields, sections and keys, and
the stage checks of R427. -/

namespace Sys2Proof.Machine

/-- Fields of an image. -/
def imgVersion (i : List Byte) : Nat := fieldAt i 8 4
def imgFloor (i : List Byte) : Nat := fieldAt i 12 4
def imgKreog (i : List Byte) : Nat := fieldAt i 16 4
def imgBuild (i : List Byte) : Nat := fieldAt i 20 4
def imgBytes (i : List Byte) : Nat := fieldAt i 24 4
def imgMin (i : List Byte) : Nat := fieldAt i 28 2
def imgMax (i : List Byte) : Nat := fieldAt i 30 2
def imgOut (i : List Byte) : Nat := fieldAt i 32 2
def imgStepping (i : List Byte) : Nat := fieldAt i 34 1

/-- A section of an image. -/
structure Section where
  kind : Nat
  flags : Nat
  off : Nat
  bytes : Nat
  deriving DecidableEq, Repr

def imgSections (i : List Byte) : List Section :=
  (List.range (min (fieldAt i 6 2) 32)).map fun k =>
    let o := 64 + 16 * k
    ⟨fieldAt i o 2, fieldAt i (o + 2) 2, fieldAt i (o + 4) 4, fieldAt i (o + 8) 4⟩
def Section.data (x : Section) (i : List Byte) : List Byte := (i.drop x.off).take x.bytes
def sectionsOf (i : List Byte) (kind : Nat) : List (Nat × List Byte) :=
  ((imgSections i).filter fun x => x.kind == kind).map fun x => (x.flags % 2, x.data i)

/-- The records of a CONFIG section, none when a record runs past its end. -/
def cfgRecords : Nat → List Byte → Option (List (Nat × List Byte))
  | 0, bs => if bs = [] then some [] else none
  | k + 1, bs =>
    if bs = [] then some []
    else
      let n := fieldAt bs 2 2
      let whole := 4 + (n + 3) / 4 * 4
      if bs.length < whole then none
      else (cfgRecords k (bs.drop whole)).map fun r => (fieldAt bs 0 2, (bs.drop 4).take n) :: r

/-- Bytes of a key's value, none for an unknown key. -/
def keyBytes (k : Nat) : Option Nat :=
  if k = 0x06 ∨ k = 0x07 then some 3
  else if k = 0x01 ∨ k = 0x02 ∨ k = 0x08 ∨ k = 0x0B ∨ k = 0x0D ∨ k = 0x0E ∨ k = 0x10 ∨ k = 0x11 ∨ k = 0x30 then some 1
  else if k = 0x03 ∨ k = 0x04 ∨ k = 0x0A ∨ k = 0x0C ∨ k = 0x12 ∨ k = 0x13 ∨ k = 0x15 ∨ k = 0x16 then some 2
  else if k = 0x05 ∨ k = 0x09 ∨ k = 0x14 ∨ k = 0x20 ∨ k = 0x21 then some 4
  else none

/-- A port and tenant that a key names. -/
def namedPair (b : List Byte) : Option (Nat × Nat) := if fieldAt b 0 1 = 1 then some (fieldAt b 1 1, fieldAt b 2 1) else none

/-- A key's value in range; DROOP_DEEP_MV is judged with DROOP_MV when the section has been read. -/
def keyOk (k : Nat) (b : List Byte) : Bool :=
  let v := leNat b
  let within := fun (lo hi : Nat) => decide (lo ≤ v ∧ v ≤ hi)
  keyBytes k == some b.length && (
    if k = 0x01 then within 12 56
    else if k = 0x02 then [0, 2, 4, 8].contains v
    else if k = 0x03 then within 48 1024
    else if k = 0x05 then v == 0 || within 1000 1000000
    else if k = 0x06 ∨ k = 0x07 then
      fieldAt b 0 1 == 0 || (fieldAt b 0 1 == 1 && decide (fieldAt b 1 1 < 3) && decide (fieldAt b 2 1 < nTenants))
    else if k = 0x08 then within 0 7
    else if k = 0x09 then within 100 60000
    else if k = 0x0A then within 10 1000
    else if k = 0x0B then within 0 2
    else if k = 0x0C then [9600, 6400, 4800].contains v
    else if k = 0x0D ∨ k = 0x30 then within 0 1
    else if k = 0x0E then within 0 15
    else if k = 0x10 then within 10 80
    else if k = 0x11 then within 0 120
    else if k = 0x12 then within 16 4096
    else if k = 0x13 then within 8 4096
    else if k = 0x14 then v == 0 || within 50 1000000
    else if k = 0x15 then within 1 1000
    else if k = 0x16 then within 100 60000
    else if k = 0x21 then within 1000 600000
    else true)

/-- A record applied to a configuration. -/
def Cfg.put (c : Cfg) (k : Nat) (b : List Byte) : Cfg :=
  let v := leNat b
  if k = 0x01 then { c with envelope := v }
  else if k = 0x02 then { c with streamWays := v }
  else if k = 0x03 then { c with saveFrames := v }
  else if k = 0x04 then { c with escalateUs := v }
  else if k = 0x05 then { c with quantumUs := v }
  else if k = 0x06 then { c with beaconOwner := namedPair b }
  else if k = 0x07 then { c with displayAuth := namedPair b }
  else if k = 0x08 then { c with firmwarePorts := v }
  else if k = 0x09 then { c with healthMs := v }
  else if k = 0x0A then { c with rangerWdtMs := v }
  else if k = 0x0B then { c with bifurcation := v }
  else if k = 0x0C then { c with dataRate := v }
  else if k = 0x0D then { c with inlineEcc := v == 1 }
  else if k = 0x0E then { c with outputBoot := v }
  else if k = 0x10 then { c with droopMv := v }
  else if k = 0x11 then { c with droopDeepMv := v }
  else if k = 0x12 then { c with droopHold := v }
  else if k = 0x13 then { c with droopDwell := v }
  else if k = 0x14 then { c with idleGateUs := v }
  else if k = 0x15 then { c with duskBudgetMs := v }
  else if k = 0x16 then { c with nightGraceMs := v }
  else if k = 0x20 then { c with subVendor := v % 65536, subId := v / 65536 }
  else if k = 0x21 then { c with rollCallMs := v }
  else if k = 0x30 then { c with nightCoreOff := v == 1 }
  else c

/-- The configuration of an image; none when a record is unknown or out of range (stage check 0xF005). -/
def imgCfg (i : List Byte) : Option Cfg :=
  match sectionsOf i 2 with
  | [] => some .default
  | (_, d) :: _ => match cfgRecords d.length d with
    | none => none
    | some rs =>
      let c := rs.foldl (fun c r => c.put r.1 r.2) .default
      if rs.all (fun r => keyOk r.1 r.2) && (c.droopDeepMv == 0 || decide (c.droopMv + 10 ≤ c.droopDeepMv)) then some c else none

def imgConfig (i : List Byte) : Cfg := (imgCfg i).getD .default

/-- The live keys of a configuration put in force over another's boot-applied ones. -/
def Cfg.live (old new : Cfg) : Cfg :=
  { new with
    streamWays := old.streamWays
    saveFrames := old.saveFrames
    beaconOwner := old.beaconOwner
    bifurcation := old.bifurcation
    dataRate := old.dataRate
    inlineEcc := old.inlineEcc
    outputBoot := old.outputBoot
    subVendor := old.subVendor
    subId := old.subId }

/-- Boot-applied keys, BEACON_STORE and DISPLAY sections agree (R428). -/
def bootSame (a b : List Byte) : Bool :=
  (imgConfig a).live (imgConfig b) == imgConfig b && sectionsOf a 3 == sectionsOf b 3 && sectionsOf a 5 == sectionsOf b 5

/-- The Beacon state of an output in a BEACON_STATE section, whose layout the spec does not give: registers, palette and
hold colour are open functions of the section. -/
def imgBeacon (d : List Byte) (n : Nat) : BeaconRegs × DWord :=
  let (c, r, g, h) := Config.beaconSection d n
  (⟨c &&& 7, r &&& 0xFFFF000FFFFF, g, (List.range 256).map fun i => (i, Config.beaconPalette d n i)⟩, h)

/-- Beacon and display sections within the limits of chapter 8 (stage check 0xF007): DSI on OUT2 and OUT3 only (R273). -/
def displayOk (i : List Byte) : Bool :=
  (sectionsOf i 3).all (fun e => decide (e.2.length ≤ 1048576))
    && ((sectionsOf i 4).all fun e => (List.range 4).all fun n => !(imgBeacon e.2 n).1.enable || (imgBeacon e.2 n).1.ok)
    && ((sectionsOf i 5).all fun e => Config.displayOk e.2 && (List.range 4).all fun n =>
      decide ((Config.displayPort e.2 n).1 ≤ (if n < 2 then 1 else 2) ∧ (Config.displayPort e.2 n).2 ≤ 2))

/-- Two sections share bytes. -/
def overlapping (xs : List Section) : Bool :=
  (List.range xs.length).any fun a => (List.range a).any fun b =>
    match xs[a]?, xs[b]? with
    | some x, some y => decide (0 < x.bytes ∧ 0 < y.bytes ∧ x.off < y.off + y.bytes ∧ y.off < x.off + x.bytes)
    | _, _ => false

/-- The structure checks in order: the detail of the first that fails. -/
def structureFail (i : List Byte) (bytes : Nat) : Option Nat :=
  let ss := imgSections i
  let count := fun (k : Nat) => (ss.filter fun x => x.kind == k).length
  if fieldAt i 0 4 ≠ 0x4E39494D ∨ fieldAt i 4 2 ≠ 1 then some 0xF001
  else if imgBytes i ≠ bytes ∨ bankBytes < bytes ∨ bytes % 16 ≠ 0 then some 0xF002
  else if fieldAt i 6 2 < 2 ∨ 32 < fieldAt i 6 2 ∨ overlapping ss
      ∨ ss.any (fun x => x.off % 16 != 0 || decide (bytes < x.off + x.bytes) || x.kind == 0 || decide (5 < x.kind)) then some 0xF003
  else if count 1 ≠ 1 ∨ count 2 ≠ 1 then some 0xF004
  else if (imgCfg i).isNone then some 0xF005
  else if (sectionsOf i 1).any fun e => decide (1048576 < e.2.length) then some 0xF006
  else if !displayOk i then some 0xF007
  else none

/-- Key hash and signature (R511). -/
def signatureOk (s : State) (i : List Byte) : Bool :=
  !s.fuses.secureBoot || (
    let key := (i.drop (imgBytes i - 256)).take 97
    let sig := (i.drop (imgBytes i - 156)).take 96
    let x := beNat ((key.drop 1).take 48)
    let y := beNat (key.drop 49)
    sha384 key == s.fuses.keyHash && s.fuses.keyHash.any (fun b => b != 0) && byteAt key 0 == 4 && onCurve x y
      && ecdsaOk (sha384 (i.take (imgBytes i - 256))) (x, y) (beNat (sig.take 48)) (beNat (sig.drop 48)))

/-- The checks of R427 in order: status and detail of the first that fails. -/
def stageFail (s : State) (i : List Byte) (bytes floor : Nat) : Option (Nat × Nat) :=
  match structureFail i bytes with
  | some d => some (0x12, d)
  | none =>
    if imgStepping i ≠ 0xB0 then some (0x40, 4)
    else if !signatureOk s i then some (0x21, 8)
    else if imgVersion i < floor then some (0x40, 2)
    else none

end Sys2Proof.Machine
end

