-- ==== Sys2Proof/Machine/FenceHost.lean ====
section
/-! DEFINITION. The fence block's registers (R342, R343) and the bridges (R341). -/

namespace Sys2Proof.Machine

/-- BAR0 offsets of FENCE_SIGNAL and FENCE_POISON of a fence, and of a host wait entry's HW_CTL (Tables 10.6, 10.7). -/
def fenceSignalOff (f : Nat) : Nat := 0x1000008 + 0x40 * f
def fencePoisonOff (f : Nat) : Nat := 0x1000010 + 0x40 * f
def hwCtlOff (t k : Nat) : Nat := 0x1100000 + 0x1000 * t + 0x20 * k

/-- A write to a fence page's register: the fence must be visible, the writer hold more than WAIT, the write be one
8-byte write. -/
def fencePage (s : State) (a : Access) (f off : Nat) (k : Nat → State) : State :=
  if !accUp s a then s
  else match accTenant s a with
    | none => s
    | some t =>
      if f < nFences ∧ 2 ≤ fenceRight (s.fence f) t then (if a.be = 0xFF then k t else accLog s a t 0x7 off)
      else accLog s a t 0x2 off

/-- FENCE_SIGNAL_REGISTER (R320, R337, R342). -/
def execFenceSignalRegister (a : Access) (f : Nat) (s : State) : Host.Outcome State Fault Refusal :=
  .next (fencePage s a f (fenceSignalOff f) fun t => settle [.signal (.bar t a.rid) f a.data] s)

/-- FENCE_POISON_REGISTER (R334, R342). -/
def execFencePoisonRegister (a : Access) (f : Nat) (s : State) : Host.Outcome State Fault Refusal :=
  .next (fencePage s a f (fencePoisonOff f) fun _ => if a.data.getLsbD 0 then settle [.poison f] s else s)

/-- HW_CTL as it holds its RW fields. -/
def HostWait.ctl (h : HostWait) : DWord := BitVec.ofNat 64 (h.vector * 2 ^ 32 + h.fence)

/-- A host wait registered (R343): its outcome is 3 without a right, and at once when the fence satisfies it. -/
def armWait (s : State) (t k : Nat) (h : HostWait) : State :=
  let x := s.tenant t
  let f := s.fence h.fence
  let put := fun (y : HostWait) => s.setTenant t { x with waits := tset x.waits k y }
  if fenceRight f t = 0 then put { h with armed := false, outcome := 3 }
  else
    let s1 := put { h with armed := true, outcome := 0 }
    match f.outcome h.target with
    | some st => endHostWait s1 t k (st + 1)
    | none => s1

/-- A write to HW_CTL of entry `k` of tenant `t` (R343). -/
def writeHwCtl (s : State) (a : Access) (t k : Nat) : State :=
  let x := s.tenant t
  let h := tget x.waits k .empty
  let on := accOnes a
  if h.armed then
    if on.getLsbD 16 then s.setTenant t { x with waits := tset x.waits k { h with armed := false, outcome := 0 } } else s
  else
    let v := (accMerge a h.ctl).toNat
    let h1 := { h with vector := bitsOf v 42 32, fence := bitsOf v 13 0 }
    if on.getLsbD 15 then armWait s t k h1 else s.setTenant t { x with waits := tset x.waits k h1 }

/-- ARM: a write to HW_CTL with ARM set. -/
def execArm (a : Access) (t k : Nat) (s : State) : Host.Outcome State Fault Refusal :=
  .next (ownPage s a t (hwCtlOff t k) (if k < 64 then writeHwCtl s { a with data := a.data ||| 0x8000, be := a.be ||| 2 } t k else s))

/-- DISARM: a write to HW_CTL with DISARM set. -/
def execDisarm (a : Access) (t k : Nat) (s : State) : Host.Outcome State Fault Refusal :=
  .next (ownPage s a t (hwCtlOff t k) (if k < 64 then writeHwCtl s { a with data := a.data ||| 0x10000, be := a.be ||| 4 } t k else s))

/-- The values that Ranger signals on the heritage destination of a bridge, from an advance already passed on to the
present one, in increments of at most 2^31 − 1 (R341). -/
def bridgeSteps : Nat → Nat → Nat → Nat → List Nat
  | 0, _, _, _ => []
  | n + 1, t0, done, goal =>
    if goal ≤ done then []
    else
      let d := min (goal - done) (2 ^ 31 - 1)
      (t0 + done + d) % 2 ^ 32 :: bridgeSteps n t0 (done + d) goal

/-- The signals of an update of a bridge, and the advance that has then been passed on. -/
def bridgeSignals (s : State) (b : Bridge) : List Nat × Nat :=
  let f := s.fence b.src
  if f.heritage then
    let a := f.adv - b.adv0
    (if b.passed < a then [(b.t0 + a) % 2 ^ 64] else [], a)
  else
    let a := f.value.toNat - b.s0
    let from0 := if 2 ^ 32 ≤ a - b.passed then a - (2 ^ 32 + (a - b.passed) % 2 ^ 32) else b.passed
    (bridgeSteps 5 b.t0 from0 a, a)

/-- BRIDGE_UPDATE (R341): Ranger passes on the source's advance, and the poison of either fence. `up`: Ranger runs. -/
def updateBridge (s : State) (k : Nat) : State :=
  match tget? s.bridges k with
  | none => s
  | some b =>
    let f := s.fence b.src
    let h := s.fence b.dst
    let (vs, a) := bridgeSignals s b
    let src : SigSrc := .tenant h.owner
    let sigs := vs.map fun v => Act.devSignal src b.creator none b.dst (BitVec.ofNat 64 v)
    let poisons := if f.flag && !h.flag then [Act.poison b.dst] else if h.flag && !f.flag then [Act.poison b.src] else []
    let go := if f.flag && !f.heritage then [] else sigs
    settle (go ++ poisons) { s with bridges := tset s.bridges k { b with passed := if go = [] then b.passed else a } }

end Sys2Proof.Machine
end

