-- ==== Sys2Proof/Machine/Flume.lean ====
section
/-! DEFINITION. The Flume (R410 to R419): how a request is fetched, checked and answered, final replies, doorbell,
reply index and abort. -/

namespace Sys2Proof.Machine

/-- Kreog's answer to a request: its one reply, or ACCEPTED with the number that names the work. -/
inductive Ans where
  | reply (status detail : Nat) (payload : List Byte)
  | accepted (arg : Nat)
  deriving DecidableEq, Repr

def Ans.ok : Ans := .reply rOk 0 []
def Ans.denied (d : Nat) : Ans := .reply rDenied d []
def Ans.busy (d : Nat) : Ans := .reply rBusy d []
def Ans.badParam (off : Nat) : Ans := .reply rBadParam off []
def Ans.noSlot (d : Nat) : Ans := .reply rNoSlot d []

/-- A field of a request's payload. -/
def reqField (r : Req) (off n : Nat) : Nat := fieldAt r.payload off n

/-- Units of a request (R411). -/
def reqUnits (r : Req) : Nat := recUnits (4 * r.words.toNat)

/-- Units accepted and not consumed. -/
def Channel.waiting (c : Channel) : Nat := (c.last + 2 ^ 32 - c.reqRead) % 2 ^ 32

/-- ORDERED of the next request, as it stands in the ring (Table 13.3). -/
def Channel.nextOrdered (c : Channel) : Bool := c.requests.nat (c.reqRead % 1024 * 16 + 2) 1 % 2 == 1

/-- A channel has a request that Kreog could start: an ORDERED one with none of the earlier ones open. -/
def chWaits (s : State) (ch : Nat) : Bool :=
  let c := s.channel ch
  channelLive s ch && (ch == i3cChannel || (s.tenant ch).st != .gone) && c.waiting != 0 && (!c.nextOrdered || c.accepted == [])
    && decide (36 * (c.accepted.length + 2) ≤ c.freeUnits)

/-- It is a channel's turn in the rotation (R413): none that comes before it has a request that could start (log entry 117). -/
def myTurn (s : State) (ch : Nat) : Bool :=
  let at_ := fun (k : Nat) => (k + 16 - s.ranger.turn % 17) % 17
  (List.range 17).all fun k => !(decide (at_ k < at_ ch) && chWaits s k)

/-- The Flume may fetch a channel's next request (R407, R413, R414). -/
def flumeReady (s : State) (r : Req) : Bool :=
  let c := s.channel r.ch
  channelLive s r.ch && (r.ch == i3cChannel || (s.tenant r.ch).st != .gone) && s.ranger.up && c.waiting != 0
    && decide (36 * (c.accepted.length + 2) ≤ c.freeUnits) && (!(r.flags.getLsbD 0) || c.accepted == [])
    && myTurn s r.ch

/-- One reply to a request with FINAL. -/
def replyTo (s : State) (r : Req) (status detail : Nat) (payload : List Byte) : State :=
  postRecord s r.ch r.seq.toNat status detail r.tag.toNat 1 payload

/-- The header check that fails first (R412): status, detail, and whether the sequence number has been used up.
`words` is none for an undefined opcode. -/
def headerCheck (s : State) (r : Req) (words : Option Nat) : Option (Nat × Nat × Bool) :=
  if r.version ≠ 1 then some (rVersion, 1, false)
  else if r.tenant.toNat ≠ (if r.ch = i3cChannel then 0xFF else r.ch) then some (rDenied, 4, false)
  else if r.seq.toNat ≠ (s.channel r.ch).nextSeq then some (rBadParam, 0xFF04, false)
  else if 2 ≤ r.flags.toNat then some (rBadParam, 0xFF02, true)
  else match words with
    | none => some (rBadOpcode, 0, true)
    | some w => if r.words.toNat ≠ w then some (rBadLength, w, true) else none

/-- A channel has had its turn (R413). -/
def served (s : State) (ch : Nat) : State := { s with ranger := { s.ranger with turn := ch } }

/-- The channel after a request was taken off its ring. -/
def takeReq (s : State) (r : Req) (seqUsed : Bool) : State :=
  let c := s.channel r.ch
  (served s r.ch).setChannel r.ch { c with
    reqRead := (c.reqRead + reqUnits r) % 2 ^ 32
    nextSeq := if seqUsed then (c.nextSeq + 1) % 2 ^ 32 else c.nextSeq }

/-- A request that cannot be taken whole: every unit up to the doorbell value is discarded (R411). -/
def dropReqs (s : State) (r : Req) : State :=
  let c := s.channel r.ch
  replyTo ((served s r.ch).setChannel r.ch { c with reqRead := c.last }) r rBadLength 0xFFFF []

/-- A request that crosses the ring end or the last accepted doorbell value (R411). -/
def reqTooLong (s : State) (r : Req) : Bool :=
  let c := s.channel r.ch
  decide (1024 < c.reqRead % 1024 + reqUnits r) || decide (c.waiting < reqUnits r)

/-- A request fetched, checked and answered: `k` is what the opcode does, given the state with the request consumed. -/
def serve (r : Req) (opcode : Nat) (words : Option Nat) (k : State → State × Ans) (s : State) : State :=
  if !flumeReady s r then s
  else if reqTooLong s r then dropReqs s r
  else match headerCheck s r words with
    | some (st, d, used) => replyTo (takeReq s r used) r st d []
    | none =>
      let s1 := takeReq s r true
      match k s1 with
      | (s2, .reply st d pl) => replyTo s2 r st d pl
      | (s2, .accepted arg) =>
        let c := s2.channel r.ch
        if 16 ≤ (s1.channel r.ch).accepted.length then replyTo s1 r rBusy 4 []
        else postRecord (s2.setChannel r.ch { c with accepted := c.accepted ++ [⟨opcode, r.seq.toNat, r.tag.toNat, arg⟩] })
          r.ch r.seq.toNat 1 0 r.tag.toNat 0 []

/-- A NOP: consumed without a reply (R412). -/
def serveNop (r : Req) (s : State) : State :=
  if !flumeReady s r then s
  else if reqTooLong s r then dropReqs s r
  else takeReq s r false

/-- FLUME_NOP (R412). -/
def execFlumeNop (r : Req) (s : State) : Host.Outcome State Fault Refusal := .next (serveNop r s)

/-- Every defined opcode. -/
def flumeOpcodes : List Nat :=
  [0x000, 0x101, 0x102, 0x103, 0x104, 0x105, 0x201, 0x202, 0x203, 0x204, 0x205, 0x206, 0x207, 0x208, 0x209, 0x20A, 0x20B, 0x20C,
    0x301, 0x302, 0x303, 0x304, 0x305, 0x401, 0x402, 0x403, 0x404, 0x405, 0x406, 0x407, 0x408, 0x409, 0x40A, 0x40B]
  ++ [0x501, 0x502, 0x503, 0x504, 0x505, 0x601, 0x602, 0x610, 0x611, 0x612, 0x613, 0x620, 0x621, 0x630, 0x701, 0x702, 0x703,
    0x704, 0x705, 0x801, 0x802, 0x901]

/-- BAD_OPCODE (R412). -/
def execBadOpcode (r : Req) (opcode : BitVec 16) (s : State) : Host.Outcome State Fault Refusal :=
  .next (if flumeOpcodes.contains opcode.toNat then s else serve r opcode.toNat none (fun s => (s, .ok)) s)

/-- The least payload offset that fails: fields with their checks, and the bytes that the table does not list (R420).
`listed` gives offset and width of every field. -/
def paramFail (r : Req) (listed : List (Nat × Nat)) (checks : List (Nat × Bool)) : Option Nat :=
  let n := 4 * r.words.toNat
  let rsv := (List.range n).filter fun i =>
    reqField r i 1 != 0 && !(listed.any fun f => decide (f.1 ≤ i ∧ i < f.1 + f.2))
  leastOf (rsv ++ (checks.filter fun c => !c.2).map Prod.fst)

/-- The senders of a request (R420): T a tenant, M a port manager, I the I3C channel. -/
def isI (r : Req) : Bool := r.ch == i3cChannel
def isM (s : State) (r : Req) : Bool :=
  r.ch != i3cChannel && (s.port (s.tenant r.ch).port).manager == some r.ch
def isF (s : State) (r : Req) : Bool := isM s r && bitOf s.cfg.firmwarePorts (s.tenant r.ch).port
def isA (s : State) (r : Req) : Bool :=
  r.ch != i3cChannel && (match s.cfg.displayAuth with
    | some (p, t) => r.ch == t && (s.tenant t).port == p
    | none => (s.port 0).manager == some r.ch)

/-- A role missing, else the payload fields, else the request itself. -/
def roleThen (ok : Bool) (detail : Nat) (bad : Option Nat) (s : State) (k : State × Ans) : State × Ans :=
  if !ok then (s, .denied detail) else match bad with
    | some o => (s, .badParam o)
    | none => k

/-- BAR0 offsets of a tenant's Flume registers. -/
def flumeOff (t o : Nat) : Nat := t * 0x100000 + 0x20000 + o

/-- FLUME_DOORBELL (R411). -/
def execFlumeDoorbell (a : Access) (t : Nat) (s : State) : Host.Outcome State Fault Refusal :=
  .next (ownPage s a t (flumeOff t 0) (
    let c := s.channel t
    let w := a.data.toNat % 2 ^ 32
    let d := (w + 2 ^ 32 - c.last) % 2 ^ 32
    if !accCovers a 0 3 || d == 0 || decide (2 ^ 31 ≤ d) || decide (1024 < (w + 2 ^ 32 - c.reqRead) % 2 ^ 32) then
      accLog s a t 0xC (flumeOff t 0)
    else s.setChannel t { c with last := w }))

/-- READ_INDEX written on a channel (R414). -/
def readIndexOk (c : Channel) (v : Nat) : Bool :=
  decide ((v + 2 ^ 32 - c.readIndex) % 2 ^ 32 ≤ (c.replyWrite + 2 ^ 32 - c.readIndex) % 2 ^ 32)

/-- FLUME_REPLY_READ (R414). -/
def execFlumeReplyRead (a : Access) (t : Nat) (s : State) : Host.Outcome State Fault Refusal :=
  .next (ownPage s a t (flumeOff t 0x10) (
    let c := s.channel t
    let v := a.data.toNat % 2 ^ 32
    if !accCovers a 0 3 || !readIndexOk c v then accLog s a t 0xC (flumeOff t 0x10)
    else s.setChannel t { c with readIndex := v }))

end Sys2Proof.Machine
end

