-- ==== Sys2Proof/Machine/Chip.lean ====
section
/-! DEFINITION. What Chipper engines and Blaze unit contexts do to a job's bytes: decoding (R381 to R387), the encoder
and its self-check (R388, R389), frames (R401), reads and writes (R391). -/

namespace Sys2Proof.Machine

def State.eng (s : State) (e : Nat) : Engine := tget s.engines e .reset
def setEng (s : State) (e : Nat) (x : Engine) : State := { s with engines := tset s.engines e x }
def State.engCtx (s : State) (c : Nat) : EngCtx := tget s.engCtxs c .reset
def setEngCtx (s : State) (c : Nat) (x : EngCtx) : State := { s with engCtxs := tset s.engCtxs c x }
def State.bz (s : State) (c : Nat) : BzCtx := tget s.bzCtxs c .reset
def setBz (s : State) (c : Nat) (x : BzCtx) : State := { s with bzCtxs := tset s.bzCtxs c x }

/-- Unit numbers of an engine and of a Blaze unit. -/
def uChip (e : Nat) : Nat := 0x80 + e
def uBlaze (u : Nat) : Nat := 0x88 + u

/-- Fault codes of Chipper (Table 9.8). -/
def cIllegalCode : Nat := 0x10
def cDistance : Nat := 0x11
def cOverrun : Nat := 0x12
def cVerify : Nat := 0x13

/-- A block header (Table 12.1). -/
structure BlockHdr where
  flags : Nat
  out : Nat
  payload : Nat
  check : Nat
  deriving DecidableEq, Repr

def BlockHdr.reset (h : BlockHdr) : Bool := bitOf h.flags 0
def BlockHdr.last (h : BlockHdr) : Bool := bitOf h.flags 1
def BlockHdr.stored (h : BlockHdr) : Bool := bitOf h.flags 2

/-- A header that a decoder accepts (R381). -/
def blockHdr (b : List Byte) : Option BlockHdr :=
  let h : BlockHdr := ⟨fieldAt b 3 1, fieldAt b 4 4, fieldAt b 8 4, fieldAt b 12 4⟩
  let sizes := if h.stored then decide (h.out ≤ 262144) && h.payload == h.out
    else decide (1 ≤ h.out ∧ h.out ≤ 262144 ∧ 1 ≤ h.payload ∧ h.payload ≤ 294914)
  if fieldAt b 0 2 = 0x4332 ∧ fieldAt b 2 1 = 2 ∧ h.flags < 8 ∧ sizes then some h else none

def hdrBytes (h : BlockHdr) : List Byte :=
  leBytes 2 0x4332 ++ leBytes 1 2 ++ leBytes 1 h.flags ++ leBytes 4 h.out ++ leBytes 4 h.payload ++ leBytes 4 h.check

/-- Why a job stops: a code with its detail at a source offset, or an access. `unit` is the engine's or, for a frame,
the Blaze unit's. -/
inductive ChErr where
  | code (c d unit offset : Nat)
  | access (f : AccFault)
  deriving DecidableEq, Repr

/-- Where an engine reads and writes: virtual addresses of a context, or offsets in an object. -/
inductive Loc where
  | virt (ctx : Nat)
  | obj (o : Nat)
  deriving DecidableEq, Repr

/-- Bytes read at a place; a poisoned word fails (R465). -/
def locRead (s : State) (l : Loc) (a n : Nat) : Except AccFault (List Byte × State) :=
  match l with
  | .virt c => vread s c a n
  | .obj o =>
    let pa := (s.obj o).base + a
    if !paReachable s pa then .error (pageFault a false)
    else match poisonedWord s pa n with
      | some w => .error (eccFault (a + (w * 8 - pa)) false)
      | none => .ok (devRead s pa n)

/-- Bytes written at a place. -/
def locWrite (s : State) (l : Loc) (a : Nat) (bs : List Byte) : State × Option AccFault :=
  match l with
  | .virt c => vwrite s c a bs
  | .obj o =>
    let pa := (s.obj o).base + a
    if !paReachable s pa then (s, some (pageFault a true)) else (devWrite s pa bs, none)

/-- The place of the byte at stream offset `o` (R393): in the latest piece that reaches it, checks between frames left
out (R401). -/
def Strm.place (t : Strm) (o : Nat) : Nat :=
  match t.pieces.find? fun p => decide (p.start ≤ o) with
  | none => 0
  | some p =>
    let i := o - p.start
    p.base + i + (if p.frame = 0 then 0 else p.check * (i / p.frame))

/-- `n` bytes of a stream's history read back from where they lie, from stream offset `o` on. -/
def readBack (s : State) (l : Loc) (t : Strm) (o : Nat) : Nat → Except AccFault (List Byte × State)
  | 0 => .ok ([], s)
  | n + 1 =>
    match readBack s l t o n with
    | .error f => .error f
    | .ok (bs, s1) => match locRead s1 l (t.place (o + n)) 1 with
      | .error f => .error f
      | .ok (b, s2) => .ok (bs ++ b, s2)

/-- A decoder at work on a block: the payload as a number of `bits` bits and the place in it, the stream, the bytes
still to come, the copies of distance above 65,536, the state, the place of its output, and the block's first stream
offset. -/
structure Decoder where
  s : State
  loc : Loc
  start : Nat
  x : Nat
  bits : Nat
  at_ : Nat
  strm : Strm
  left : Nat
  far : Nat

/-- Why a block fails: a code with its detail, or a read of the history. -/
inductive DecFail where
  | code (c d : Nat)
  | access (f : AccFault)
  deriving DecidableEq, Repr

/-- getbits: none when the payload has too few bits left. -/
def Decoder.get (d : Decoder) (n : Nat) : Option (Nat × Decoder) :=
  if d.at_ + n ≤ d.bits then some (bitsOf d.x (d.at_ + n - 1) d.at_, { d with at_ := d.at_ + n }) else none

/-- after_token: the dictionary's new entry, and the predecessor. -/
def Strm.after (t : Strm) (p : List Byte) : Strm :=
  let dict := match t.prev with
    | some q => if q.length ≤ 15 ∧ t.dict.length < 4096 then t.dict ++ [q ++ p.take 1] else t.dict
    | none => t.dict
  { t with dict := dict, prev := some (p.take 16) }

/-- `n` bytes copied from distance `dist` back, which repeat where a copy overlaps itself. The block's own bytes, and
those of the last 65,536 since the engine took the stream up, are in the engine (Table 12.3); the others are read back
(R393). -/
def Decoder.back (d : Decoder) (n dist : Nat) : Except AccFault (List Byte × Decoder) :=
  let m := min n dist
  let o := d.strm.off - dist
  let k := min m (min d.start (max d.strm.since (d.strm.off - 65536)) - o)
  match readBack d.s d.loc d.strm o k with
  | .error f => .error f
  | .ok (far, s1) =>
    let src := far ++ (List.range (m - k)).map fun i => d.strm.hist.getD (dist - 1 - (k + i)) 0
    .ok ((List.range n).map fun i => src.getD (i % m) 0, { d with s := s1 })

/-- A token's bytes added to the stream. -/
def Decoder.emit (d : Decoder) (p : List Byte) : Decoder :=
  { d with
    strm := { d.strm.after p with off := d.strm.off + p.length, hist := p.reverse ++ d.strm.hist }
    left := d.left - p.length }

/-- One token (Table 12.2): the decoder after it, none in place of a decoder for END. -/
def Decoder.token (d : Decoder) : Except (DecFail × Decoder) (Option Decoder × Decoder) :=
  let cut : Except (DecFail × Decoder) (Option Decoder × Decoder) := .error (.code cIllegalCode 4, d)
  let tooLong : Except (DecFail × Decoder) (Option Decoder × Decoder) := .error (.code cOverrun 1, d)
  let put := fun (e : Decoder) (p : List Byte) => if d.left < p.length then tooLong else .ok (some (e.emit p), e)
  let copy := fun (e : Decoder) (n : Nat) => match e.get 2 with
    | none => cut
    | some (c, e1) => match e1.get ([6, 10, 14, 18].getD c 0) with
      | none => cut
      | some (v, e2) =>
        let dist := [1, 65, 1089, 17473].getD c 0 + v
        if 262144 < dist ∨ d.strm.off < dist then .error (.code cDistance 1, d)
        else if d.left < n then tooLong
        else match e2.back n dist with
          | .error f => .error (.access f, d)
          | .ok (p, e3) => put { e3 with far := e3.far + b2n (decide (65536 < dist)) } p
  match d.get 1 with
  | none => cut
  | some (0, d1) => (match d1.get 8 with
    | none => cut
    | some (v, d2) => put d2 [BitVec.ofNat 8 v])
  | some (_, d1) => match d1.get 1 with
    | none => cut
    | some (0, d2) => (match d2.get 12 with
      | none => cut
      | some (c, d3) => match d.strm.dict[c]? with
        | none => .error (.code cIllegalCode 2, d)
        | some p => put d3 p)
    | some (_, d2) => match d2.get 1 with
      | none => cut
      | some (0, d3) => (match d3.get 3 with
        | none => cut
        | some (v, d4) => copy d4 (3 + v))
      | some (_, d3) => match d3.get 8 with
        | none => cut
        | some (v, d4) =>
          if v = 248 then .ok (none, d4)
          else if 248 < v then .error (.code cIllegalCode 3, d)
          else copy d4 (11 + v)

/-- Tokens up to END; a token takes at least nine bits but END. -/
def Decoder.tokens : Nat → Decoder → Except (DecFail × Decoder) Decoder
  | 0, d => .error (.code cIllegalCode 4, d)
  | n + 1, d => match d.token with
    | .error f => .error f
    | .ok (none, d1) => .ok d1
    | .ok (some d1, _) => Decoder.tokens n d1

/-- What a block gave: its output bytes, how it failed, the stream after it, its far copies, and the state. -/
structure BlockOut where
  bytes : List Byte
  fail : Option DecFail
  strm : Strm
  far : Nat
  s : State

/-- decode_block (R385), with the history at `l`. -/
def decodeBlock (s : State) (l : Loc) (t : Strm) (h : BlockHdr) (payload : List Byte) : BlockOut :=
  let t0 : Strm := if h.reset then { t with dict := [], prev := none } else t
  let finish := fun (u : Strm) (out : List Byte) (far : Nat) (s : State) =>
    if crcCheck 0 t.off t.block 0 out ≠ h.check then BlockOut.mk out (some (.code cVerify 2)) u far s
    else ⟨out, none, { u with block := (t.block + 1) % 2 ^ 32, hist := u.hist.take 262144 }, far, s⟩
  if h.stored then
    finish { t0 with off := t.off + h.out, prev := none, hist := payload.reverse ++ t.hist } payload 0 s
  else
    let d0 : Decoder := ⟨s, l, t.off, leNat payload, 8 * payload.length, 0, t0, h.out, 0⟩
    let outOf := fun (d : Decoder) => ((d.strm.hist.take (d.strm.off - t.off)).reverse)
    match d0.tokens (8 * payload.length + 1) with
    | .error (f, d) => ⟨outOf d, some f, d.strm, d.far, d.s⟩
    | .ok d =>
      if d.left ≠ 0 then ⟨outOf d, some (.code cOverrun 1), d.strm, d.far, d.s⟩
      else if d.x / 2 ^ d.at_ ≠ 0 ∨ 8 ≤ d.bits - d.at_ then ⟨outOf d, some (.code cIllegalCode 5), d.strm, d.far, d.s⟩
      else finish d.strm (outOf d) d.far d.s

/-- A compressed block of `input` (R388): header and payload as the engine forms them. -/
def encodeBlock (t : Strm) (blockBytes : Nat) (last : Bool) (input : List Byte) : BlockHdr × List Byte :=
  let (rst, st, pl) := Config.chipEncode input blockBytes t.dict t.prev t.off t.block t.hist
  let stored := st || decide (input.length ≤ pl.length)
  let body := if stored then input else pl
  (⟨b2n rst + 2 * b2n last + 4 * b2n stored, input.length, body.length, crcCheck 0 t.off t.block 0 input⟩, body)

/-- `n` free bytes. -/
def freeBytes (s : State) (n : Nat) : List Byte × State :=
  ((List.range n).map fun i => (Config.free (s.freeTick + i)).setWidth 8, { s with freeTick := s.freeTick + n })

/-- The bytes of a failing block that are in memory (R387: "may already be in memory"): an open number of them. -/
def freePrefix (s : State) (bs : List Byte) : List Byte × State :=
  (bs.take ((Config.free s.freeTick).toNat % (bs.length + 1)), { s with freeTick := s.freeTick + 1 })

def bitsReg (x : DWord) (hi lo : Nat) : Nat := bitsOf x.toNat hi lo

/-- Fields of a unit context. -/
def BzCtx.poly (b : BzCtx) : Nat := bitsReg b.ctl 0 0
def BzCtx.seqEn (b : BzCtx) : Bool := b.ctl.getLsbD 2
def BzCtx.preEn (b : BzCtx) : Bool := b.ctl.getLsbD 3
def BzCtx.frameBytes (b : BzCtx) : Nat := bitsReg b.ctl 63 32
def BzCtx.sequence (b : BzCtx) : Nat := if b.seqEn then bitsReg b.seq 31 0 else 0
def BzCtx.domain (b : BzCtx) : Nat := bitsReg b.seq 63 32

/-- The check of a frame (R401 step 1). -/
def BzCtx.check (b : BzCtx) (frame : List Byte) : Nat := crcCheck b.poly b.address.toNat b.sequence b.domain frame

/-- A unit context after a frame (R401 step 3); RUNNING holds the frame's value, FRAMES counts. -/
def BzCtx.after (b : BzCtx) (frame : List Byte) : BzCtx :=
  { b with
    running := BitVec.ofNat 64 (b.check frame ^^^ crcInit b.poly)
    address := BitVec.ofNat 64 (b.address.toNat + frame.length)
    seq := if b.seqEn then BitVec.ofNat 64 (b.domain * 2 ^ 32 + (bitsReg b.seq 31 0 + 1) % 2 ^ 32) else b.seq
    frames := (b.frames + 1) % 2 ^ 32 }

/-- A frame counted at its unit: bytes folded, frames appended or checked. -/
def countFrame (s : State) (z n off : Nat) : State := bump (bumpBy s (uBlaze (z / 4)) 0x100 (n + 16)) (uBlaze (z / 4)) off

/-- What a job reads from and writes to. -/
def EngJob.srcLoc (j : EngJob) (ctx : Nat) : Loc := match j.xfer with
  | some x => .obj x.srcObj
  | none => .virt ctx
def EngJob.dstLoc (j : EngJob) (ctx : Nat) : Loc := match j.xfer with
  | some x => .obj x.dstObj
  | none => .virt ctx

/-- Source and destination ranges overlap, where the bytes written are undefined (R391). -/
def EngJob.overlaps (s : State) (j : EngJob) : Bool :=
  let meet := fun (a b : Nat) => decide (a < b + j.limit ∧ b < a + j.srcBytes)
  match j.xfer with
  | none => meet j.src j.dst
  | some x => meet ((s.obj x.srcObj).base + j.src) ((s.obj x.dstObj).base + j.dst)

/-- The job's raw output: bytes at DST, bounded by DST_LIMIT (R391); the pages before one that faults are written, and count. -/
def rawWrite (s : State) (e ctx : Nat) (j : EngJob) (bs : List Byte) : State × EngJob × Option ChErr :=
  let room := j.limit - j.out
  let put := bs.take room
  let (img, s1) := if j.overlaps s then freeBytes s put.length else (put, s)
  match locWrite s1 (j.dstLoc ctx) (j.dst + j.out) img with
  | (s2, some f) =>
    let n := match j.dstLoc ctx with
      | .virt _ => min (f.addr - (j.dst + j.out)) put.length
      | .obj _ => 0
    (bumpBy s2 (uChip e) 0x108 n, { j with out := j.out + n }, some (.access f))
  | (s2, none) =>
    let j1 := { j with out := j.out + put.length }
    let s3 := bumpBy s2 (uChip e) 0x108 put.length
    if room < bs.length then (s3, j1, some (.code cOverrun 2 (uChip e) j.pos)) else (s3, j1, none)

/-- The trailer of the frame that is complete or ended by the job (R401 APPEND). -/
def putTrailer (s : State) (e ctx : Nat) (j : EngJob) (z : Nat) : State × EngJob × Option ChErr :=
  let b := s.bz z
  match rawWrite s e ctx j (leBytes (crcBytes b.poly) (b.check j.frame)) with
  | (s1, j1, some f) => (s1, j1, some f)
  | (s1, j1, none) => (countFrame (setBz s1 z (b.after j.frame)) z j.frame.length 0x108, { j1 with frame := [] }, none)

/-- Output through an appending unit context, frame by frame. -/
def framedWrite : Nat → State → Nat → Nat → EngJob → Nat → List Byte → State × EngJob × Option ChErr
  | 0, s, _, _, j, _, _ => (s, j, none)
  | n + 1, s, e, ctx, j, z, bs =>
    if bs = [] then (s, j, none)
    else
      let room := (s.bz z).frameBytes - j.frame.length
      match rawWrite s e ctx j (bs.take room) with
      | (s1, j1, some f) => (s1, j1, some f)
      | (s1, j1, none) =>
        let j2 := { j1 with frame := j1.frame ++ bs.take room }
        if bs.length < room then (s1, j2, none)
        else match putTrailer s1 e ctx j2 z with
          | (s2, j3, some f) => (s2, j3, some f)
          | (s2, j3, none) => framedWrite n s2 e ctx j3 z (bs.drop room)

/-- A job's output. -/
def jobWrite (s : State) (e ctx : Nat) (j : EngJob) (bs : List Byte) : State × EngJob × Option ChErr :=
  match j.blaze with
  | some (z, false) => framedWrite (bs.length + 1) s e ctx j z bs
  | _ => rawWrite s e ctx j bs

/-- Raw source bytes taken. -/
def rawTake (s : State) (e ctx : Nat) (j : EngJob) (n : Nat) : Except ChErr (List Byte × State × EngJob) :=
  match locRead s (j.srcLoc ctx) (j.src + j.pos) n with
  | .error f => if f.code = cEcc then .error (.code cEcc f.detail (uChip e) j.pos) else .error (.access f)
  | .ok (bs, s1) => .ok (bs, bumpBy s1 (uChip e) 0x100 n, { j with pos := j.pos + n })

/-- One frame stripped from the source into the payload buffer (R401 STRIP). The state comes back with an error too:
the unit context has counted the frame. -/
def stripFrame (s : State) (e ctx : Nat) (j : EngJob) (z : Nat) : State × Except ChErr EngJob :=
  let b := s.bz z
  let t := crcBytes b.poly
  let rest := j.srcBytes - j.pos
  let bad := fun (s : State) (d : Nat) =>
    (bump (setBz s z { s.bz z with failed := true }) (uBlaze (z / 4)) 0x118, Except.error (ChErr.code cVerify d (uBlaze (z / 4)) j.pos))
  if rest ≤ t then bad s 4
  else
    let n := min b.frameBytes (rest - t)
    match rawTake s e ctx j (n + t) with
    | .error f => (s, .error f)
    | .ok (bs, s1, j1) =>
      let frame := bs.take n
      let s2 := countFrame s1 z n 0x110
      if leNat (bs.drop n) ≠ b.check frame then bad s2 3
      else (setBz s2 z (b.after frame), .ok { j1 with buf := j1.buf ++ frame })

/-- Payload buffered up to `n` bytes, or to the end of the source. -/
def fillBuf : Nat → State → Nat → Nat → EngJob → Nat → Nat → State × Except ChErr EngJob
  | 0, s, _, _, j, _, _ => (s, .ok j)
  | k + 1, s, e, ctx, j, z, n =>
    if n ≤ j.buf.length ∨ j.srcBytes ≤ j.pos then (s, .ok j)
    else match stripFrame s e ctx j z with
      | (s1, .error f) => (s1, .error f)
      | (s1, .ok j1) => fillBuf k s1 e ctx j1 z n

/-- Up to `n` payload bytes of the job's source: fewer only at its end. -/
def jobTake (s : State) (e ctx : Nat) (j : EngJob) (n : Nat) : State × Except ChErr (List Byte × EngJob) :=
  match j.blaze with
  | some (z, true) =>
    match fillBuf (n + 1) s e ctx j z n with
    | (s1, .error f) => (s1, .error f)
    | (s1, .ok j1) => (s1, .ok (j1.buf.take n, { j1 with buf := j1.buf.drop n }))
  | _ =>
    match rawTake s e ctx j (min n (j.srcBytes - j.pos)) with
    | .error f => (s, .error f)
    | .ok (bs, s1, j1) => (s1, .ok (bs, j1))

/-- Nothing of the source is left. -/
def EngJob.drained (j : EngJob) : Bool := j.buf.isEmpty && decide (j.srcBytes ≤ j.pos)

end Sys2Proof.Machine
end

