-- ==== Sys2Proof/Machine/Chipper.lean ====
section
/-! DEFINITION. Chipper jobs and weight segments (R176 to R178, R386 to R396) and the Blaze registers in DIRECT mode
(R399, R400). -/

namespace Sys2Proof.Machine

/-- BAR0 offsets of a register of an engine context page, and of a unit context page. -/
def chOff (c o : Nat) : Nat := 0x5100000 + c * 0x1000 + o
def bzOff (c o : Nat) : Nat := 0x6100000 + c * 0x1000 + o

/-- The fields of CH_CTL. -/
def EngCtx.mode (x : EngCtx) : Nat := bitsReg x.ctl 1 0
def EngCtx.continues (x : EngCtx) : Bool := x.ctl.getLsbD 2
def EngCtx.blazeEn (x : EngCtx) : Bool := x.ctl.getLsbD 5
def EngCtx.blazeCtx (x : EngCtx) : Nat := bitsReg x.ctl 12 8
def EngCtx.srcVa (x : EngCtx) : Nat := bitsReg x.src 47 0
def EngCtx.dstVa (x : EngCtx) : Nat := bitsReg x.dst 47 0
def EngCtx.stateVa (x : EngCtx) : Nat := bitsReg x.state 47 12 * 4096

/-- CH_CTL and CH_LEN in range with no reserved bit set (R390). -/
def EngCtx.fieldsOk (x : EngCtx) : Bool :=
  x.mode != 3 && bitsReg x.ctl 63 23 == 0 && bitsReg x.ctl 15 13 == 0 && !x.ctl.getLsbD 7
    && decide (1 ≤ bitsReg x.ctl 22 16 ∧ bitsReg x.ctl 22 16 ≤ 64) && bitsReg x.len 63 32 != 0 && bitsReg x.len 31 0 != 0

/-- CONTINUE names the stream that is open, where it goes on (R390, R393). -/
def EngCtx.continueOk (x : EngCtx) : Bool :=
  !x.continues || (x.mode != 2 && match x.stream with
    | none => false
    | some t => t.mode == x.mode && t.next == (if x.mode = 0 then x.dstVa else x.srcVa))

/-- A unit context can be attached for a tenant. -/
def bzFree (s : State) (t z : Nat) : Bool := tget? s.blazeGrants z == some t && (s.bz z).attached.isNone

/-- A job's unit context attached (R391), and detached. -/
def attachBz (s : State) (c : Nat) (b : Option (Nat × Bool)) : State :=
  match b with
  | some (z, _) => setBz s z { s.bz z with attached := some c, failed := false }
  | none => s
def detachBz (s : State) (b : Option (Nat × Bool)) : State :=
  match b with
  | some (z, _) => setBz s z { s.bz z with attached := none }
  | none => s

/-- Where the bytes of a job that its stream keeps as history lie: its output, or for COMPRESS its input, with the frames
of an attached unit context (R393, R401). -/
def jobPiece (s : State) (j : EngJob) : Piece :=
  let framed := match j.blaze with
    | some (z, strips) => if strips = (j.mode == 1) then some z else none
    | none => none
  let base := if j.mode = 1 then j.src else j.dst
  match framed with
  | some z => ⟨j.strm.off, base, (s.bz z).frameBytes, crcBytes (s.bz z).poly⟩
  | none => ⟨j.strm.off, base, 0, 0⟩
def EngJob.placed (s : State) (j : EngJob) : EngJob :=
  { j with strm := { j.strm with pieces := jobPiece s j :: j.strm.pieces } }

/-- A job started with the register values of its page. -/
def startJob (s : State) (c : Nat) : State :=
  let x := s.engCtx c
  let fe := x.fence.getLsbD 15
  let j : EngJob :=
    { mode := x.mode, src := x.srcVa, dst := x.dstVa, srcBytes := bitsReg x.len 31 0, limit := bitsReg x.len 63 32
      block := bitsReg x.ctl 22 16 * 4096, ends := x.ctl.getLsbD 3, report := x.ctl.getLsbD 4
      blaze := if x.blazeEn then some (x.blazeCtx, x.ctl.getLsbD 6) else none
      fence := if fe then some (bitsReg x.fence 13 0) else none, value := x.value.toNat, area := x.stateVa, xfer := none
      pos := 0, buf := [], out := 0, frame := []
      strm := if x.continues then x.stream.getD (.fresh x.mode) else .fresh x.mode
      opened := false, suspended := false, load := x.continues, finished := false }
  attachBz (setEngCtx s c { x with
    job := some (j.placed s)
    outBytes := 0
    inBytes := 0
    stream := if x.continues || x.mode == 2 then x.stream else none }) c j.blaze

/-- CH_GO (R390): a job starts, or its start is refused. -/
def execChGo (a : Access) (c : Nat) (s : State) : Host.Outcome State Fault Refusal :=
  .next (if !accUp s a then s
    else match tget? s.chipGrants c with
      | none => accRefuse s a 0x2 (chOff c 0x38)
      | some (t, _) =>
        if accTenant s a ≠ some t then accRefuse s a 0x2 (chOff c 0x38)
        else if !(accOnes a).getLsbD 0 then s
        else
          let x := s.engCtx c
          if x.job.isSome ∨ !x.fieldsOk ∨ !x.continueOk ∨ (x.blazeEn ∧ !bzFree s t x.blazeCtx) then
            accLog (setEngCtx s c { x with result := 2 }) a t 0xA (chOff c 0x38)
          else startJob s c)

/-- The context that an engine context is bound to. -/
def boundCtx (s : State) (c : Nat) : Nat := ((tget? s.chipGrants c).map Prod.snd).getD 0
def chTenant (s : State) (c : Nat) : Nat := ((tget? s.chipGrants c).map Prod.fst).getD 0

/-- The source offset of the next payload byte: that of the next block header at a block boundary. -/
def headerAt (s : State) (j : EngJob) : Nat :=
  match j.blaze with
  | some (z, true) =>
    let t := crcBytes (s.bz z).poly
    let f := max 1 (s.bz z).frameBytes
    let p := j.pos - t * ceilDiv j.pos (f + t) - j.buf.length
    p + t * (p / f)
  | _ => j.pos

/-- The final reply of a transfer (Table 13.12): output bytes of the whole move, code, detail, offset. -/
def xferFinal (s : State) (c : Nat) (x : Xfer) (status detail out code d at_ : Nat) : State :=
  finalOn s x.ch 0x630 c status detail (leBytes 8 out ++ leBytes 2 code ++ leBytes 1 d ++ leBytes 5 0 ++ leBytes 8 at_)

/-- A job that fails (R394, R426). -/
def failJob (s : State) (e c : Nat) (j : EngJob) (at_ : Nat) (err : ChErr) : State :=
  let base := (j.xfer.map Xfer.base).getD 0
  let (code, d, unit, off) : Nat × Nat × Nat × Nat := match err with
    | .code k d u o => (k, d, u, base + if u = uChip e then at_ else o)
    | .access f => (f.code, f.detail, uChip e, base + at_)
  let x := s.engCtx c
  let s1 := setEngCtx s c { x with
    code := code
    detail := d
    result := 3
    errAt := off
    outBytes := j.out
    inBytes := j.pos
    stream := none
    job := none }
  let s2 := bump (setEng (detachBz s1 j.blaze) e { s1.eng e with cur := none }) (uChip e) 0x138
  let ctx := boundCtx s c
  let fences := match j.xfer with
    | some z => z.fence
    | none => j.fence
  let acc : AccFault := match err with
    | .access f => f
    | .code k d _ _ => ⟨k, d, off, false, 0, 0⟩
  let s3 := notePoison (match fences with
    | some f => settle [.poison f] s2
    | none => s2) acc
  match j.xfer with
  | some z => xferFinal s3 c z rRefused 0x21FF (j.dst + j.out - z.dst0) code d off
  | none =>
    let faults := match err with
      | .access _ => true
      | .code _ _ _ _ => !j.report
    if faults then raise s3 ⟨ctx, acc, unit, 0xFF, false, 0xFFFF, j.src, 0⟩ else s3

/-- A job put back into its page. -/
def putJob (s : State) (c : Nat) (j : EngJob) : State :=
  setEngCtx s c { s.engCtx c with
    job := some j
    outBytes := j.out
    inBytes := j.pos }

/-- The bytes of a state area that hold a stream's state (R393). -/
def areaBytes (t : Strm) : List Byte := (List.range 73728).map (Config.areaByte t.dict t.prev t.off t.block)

/-- The stream's state written to the state area (R393). -/
def saveState (s : State) (c : Nat) (j : EngJob) : State × Option AccFault :=
  if j.mode = 2 ∨ j.xfer.isSome then (s, none)
  else
    vwrite s (boundCtx s c) j.area (areaBytes j.strm)

/-- The last frame of a job ends with the job (R401). -/
def endFrames (s : State) (e ctx : Nat) (j : EngJob) : State × EngJob × Option ChErr :=
  match j.blaze with
  | some (z, false) => if j.frame.isEmpty then (s, j, none) else putTrailer s e ctx j z
  | _ => (s, j, none)

/-- A block's bytes written, and the job settled: finished once its source is used up or its stream has ended. `counts`:
the engine's counters that count the block (Table 12.8). -/
def putBlock (s : State) (e c : Nat) (j : EngJob) (at_ : Nat) (bs : List Byte) (strm : Strm) (ended : Bool) (counts : List Nat) : State :=
  let ctx := boundCtx s c
  match jobWrite s e ctx j bs with
  | (s0, j1, some f) => failJob s0 e c j1 at_ f
  | (s0, j1, none) =>
    let s1 := counts.foldl (fun s o => bump s (uChip e) o) s0
    let j2 := { j1 with strm := strm, opened := !ended }
    if ended && j.mode == 0 && !j2.drained then failJob s1 e c j2 at_ (.code cIllegalCode 5 (uChip e) 0)
    else if !j2.drained then putJob s1 c j2
    else match endFrames s1 e ctx j2 with
      | (s2, j3, some f) => failJob s2 e c j3 at_ f
      | (s2, j3, none) => setEng (putJob s2 c { j3 with finished := true }) e { s2.eng e with cur := none }

/-- How a job stops on a failing block. -/
def DecFail.job (e : Nat) : DecFail → ChErr
  | .code k d => .code k d (uChip e) 0
  | .access f => if f.code = cEcc then .code cEcc f.detail (uChip e) 0 else .access f

/-- A block of a compressing job with its self-check (R388, R389); a read of the history that fails is no mismatch (R394). -/
def compressBlock (s : State) (e c : Nat) (j : EngJob) (at_ : Nat) (input : List Byte) : State :=
  let last := j.ends && j.drained
  let (h, body) := encodeBlock j.strm j.block last input
  let r := decodeBlock s (j.srcLoc (boundCtx s c)) j.strm h body
  match r.fail with
  | some (.access f) => failJob r.s e c j at_ ((DecFail.access f).job e)
  | some (.code _ _) => failJob r.s e c j at_ (.code cVerify 1 (uChip e) 0)
  | none =>
    if r.bytes ≠ input then failJob r.s e c j at_ (.code cVerify 1 (uChip e) 0)
    else putBlock r.s e c j at_ (hdrBytes h ++ body) r.strm last (if h.stored then [0x118, 0x120] else [0x118])

/-- A block of a decompressing job, its header taken (R381, R385 to R387). -/
def decompressBlock (s : State) (e c : Nat) (j : EngJob) (at_ : Nat) (hb : List Byte) : State :=
  let bad := fun (d : Nat) => failJob s e c j at_ (.code cIllegalCode d (uChip e) 0)
  if hb.length < 16 then bad 4
  else match blockHdr hb with
    | none => bad 1
    | some h => match jobTake s e (boundCtx s c) j h.payload with
      | (s1, .error f) => failJob s1 e c j at_ f
      | (s1, .ok (pl, j1)) =>
        if pl.length < h.payload then failJob s1 e c j1 at_ (.code cIllegalCode 4 (uChip e) 0)
        else
          let r := decodeBlock s1 (j.dstLoc (boundCtx s c)) j.strm h pl
          let s2 := bumpBy r.s (uChip e) 0x128 r.far
          match r.fail with
          | none => putBlock (bump s2 (uChip e) 0x110) e c j1 at_ r.bytes r.strm h.last []
          | some why =>
            let (bs, s3) := freePrefix s2 r.bytes
            let (s4, j2, err) := jobWrite s3 e (boundCtx s c) j1 bs
            failJob s4 e c j2 at_ (match err with
              | some f => f
              | none => why.job e)

/-- One block of a job (R391, R395). -/
def jobBlock (s : State) (e c : Nat) (j : EngJob) : State :=
  let at_ := headerAt s j
  let want := if j.mode = 0 then 16 else j.block
  match jobTake s e (boundCtx s c) j want with
  | (s1, .error f) => failJob s1 e c j at_ f
  | (s1, .ok (bs, j1)) =>
    if j.mode = 0 then decompressBlock s1 e c j1 at_ bs
    else if j.mode = 1 then compressBlock s1 e c j1 at_ bs
    else putBlock s1 e c j1 at_ bs j.strm false []

/-- A job set aside at a block boundary (R395): its stream's state goes to its state area. -/
def suspendJob (s : State) (e : Nat) (next : Option Nat) : State :=
  let x := s.eng e
  match x.cur with
  | none => s
  | some c =>
    if next = some c then s
    else match (s.engCtx c).job with
      | none => setEng s e { x with cur := none }
      | some j => match saveState s c j with
        | (s1, some f) => failJob s1 e c j (headerAt s j) (.access f)
        | (s1, none) =>
          bump (setEng (putJob s1 c { j with suspended := true, load := true }) e { s1.eng e with cur := none }) (uChip e) 0x130

/-- The stream that a state area holds: the one that was saved there, or what its bytes now stand for (R393). -/
def areaStrm (t : Strm) (bs : List Byte) : Strm :=
  if bs = areaBytes t then t
  else { t with dict := Config.areaDict bs, prev := Config.areaPrev bs, off := Config.areaOff bs, block := Config.areaBlock bs }

/-- A job's stream taken up again: its state is read from the state area (R393, R395), and its history is no longer in
the engine. A transfer keeps its state in Ranger SRAM (R426). -/
def resumeJob (s : State) (c : Nat) (j : EngJob) : Except AccFault (State × EngJob) :=
  let go := fun (s : State) (t : Strm) => (s, { j with strm := { t with since := t.off }, load := false, suspended := false })
  if !j.load then .ok (s, { j with suspended := false })
  else if j.mode = 2 ∨ j.xfer.isSome then .ok (go s j.strm)
  else match vread s (boundCtx s c) j.area 73728 with
    | .error f => .error f
    | .ok (bs, s1) => .ok (go s1 (areaStrm j.strm bs))

/-- The engine context that an engine serves next (R395). -/
def nextJob (s : State) (e : Nat) : Option Nat :=
  let last := (s.eng e).last
  ((List.range 4).map fun i => 4 * e + (last + 1 + i) % 4).find? fun c => match (s.engCtx c).job with
    | some j => !j.finished
    | none => false

/-- The weight segment that an engine may take: of the oldest cut whose stream runs and whose context has an engine
context of the engine (R177). -/
def nextSegment (s : State) (e : Nat) : Option (Nat × Nat) :=
  s.cuts.findSome? fun (p : Nat × CutPass) => match p.2.stream with
    | none => none
    | some w =>
      let ctx := (cmdOf s p.1).ctx
      if w.started && !w.stopped && decide (w.next < w.segs.length) && (s.ctx ctx).st == .live
          && (s.chipGrants.any fun g => g.1 / 4 == e && g.2.2 == ctx) then some (p.1, w.next) else none

/-- A segment handed to an engine. -/
def takeSegment (s : State) (e cut i : Nat) : State :=
  match tget? s.cuts cut with
  | none => s
  | some p => match p.stream with
    | none => s
    | some w => setEng { s with cuts := tset s.cuts cut { p with stream := some { w with next := i + 1 } } } e
        { s.eng e with seg := some ⟨cut, i, { Strm.fresh 0 with
            pieces := [⟨0, w.staging + ((w.segs[i]?).map Segment.dstOff).getD 0, 0, 0⟩] }, 0, false⟩ }

/-- A failed segment (R178): the stream stops, its fence is poisoned, the context faults. -/
def failSegment (s : State) (e : Nat) (r : SegRun) (p : CutPass) (w : Stream) (at_ : Nat) (code d : Nat) (acc : Option AccFault) : State :=
  let cmd := cmdOf s r.cut
  let f : AccFault := acc.getD ⟨code, d, at_, false, 0, 0⟩
  let s1 := { s with
    cuts := tset s.cuts r.cut { p with stream := some { w with stopped := true } }
    engines := tmap s.engines fun _ x => match x.seg with
      | some q => if q.cut = r.cut then { x with seg := none } else x
      | none => x }
  settle [.poison w.fence, .fault ⟨cmd.ctx, f, uChip e, 0xFF, false, cmd.queue, p.hdr.wstream, cmd.tag⟩]
    (notePoison (bump s1 (uChip e) 0x138) f)

/-- One block of a weight segment (R177, R178, R385, R386). The counters take the source bytes that were read and the bytes that
were written before a fault (Table 12.8). -/
def segBlock (s : State) (e : Nat) (r : SegRun) (p : CutPass) (w : Stream) (g : Segment) : State :=
  let ctx := (cmdOf s r.cut).ctx
  let fail := fun (s : State) (code d : Nat) => failSegment s e r p w r.pos code d none
  let access := fun (s : State) (f : AccFault) =>
    if f.code = cEcc then fail s cEcc f.detail else failSegment s e r p w r.pos 0 0 (some f)
  if g.srcBytes < r.pos + 16 then fail s cIllegalCode 4
  else match vread s ctx (g.src + r.pos) 16 with
    | .error f => access s f
    | .ok (hb, sh) =>
      let s1 := bumpBy sh (uChip e) 0x100 16
      match blockHdr hb with
      | none => fail s1 cIllegalCode 1
      | some h =>
        if g.srcBytes < r.pos + 16 + h.payload then fail s1 cIllegalCode 4
        else match vread s1 ctx (g.src + r.pos + 16) h.payload with
          | .error f => access s1 f
          | .ok (pl, sp) =>
            let s2 := bumpBy sp (uChip e) 0x100 h.payload
            let b := decodeBlock s2 (.virt ctx) r.strm h pl
            let (img, s3) := if b.fail.isSome then freePrefix b.s b.bytes else (b.bytes, b.s)
            let img1 := img.take (g.dstBytes - r.strm.off)
            let dst := w.staging + g.dstOff + r.strm.off
            match vwriteStream (bumpBy s3 (uChip e) 0x128 b.far) ctx dst img1 with
            | (s4, some f) => access (bumpBy s4 (uChip e) 0x108 (min (f.addr - dst) img1.length)) f
            | (s4, none) =>
              let s5 := bumpBy s4 (uChip e) 0x108 img1.length
              let pos := r.pos + 16 + h.payload
              match b.fail with
              | some (.code k d) => fail s5 k d
              | some (.access f) => access s5 f
              | none =>
                if g.dstBytes < b.strm.off then fail s5 cOverrun 3
                else if h.last && decide (pos < g.srcBytes) then fail s5 cIllegalCode 5
                else if h.last && b.strm.off != g.dstBytes then fail s5 cOverrun 3
                else setEng (bump s5 (uChip e) 0x110) e { s5.eng e with seg := some { r with strm := b.strm, pos := pos, finished := h.last } }

/-- The segment in an engine, with its cut, stream and record. -/
def segOf (s : State) (r : SegRun) : Option (CutPass × Stream × Segment) :=
  match tget? s.cuts r.cut with
  | none => none
  | some p => match p.stream with
    | none => none
    | some w => (w.segs[r.index]?).map fun g => (p, w, g)

/-- A segment that an engine has taken runs whole (R395), also when its context faults meanwhile (DEDUCED, log entry 141). -/
def runSegment (s : State) (e : Nat) (r : SegRun) : State :=
  match segOf s r with
  | none => setEng s e { s.eng e with seg := none }
  | some (p, w, g) => if r.finished then s else segBlock s e r p w g

/-- CHIPPER_BLOCK (R177, R385, R387, R389, R394, R395, R401): an engine processes one block. -/
def execChipperBlock (e : Nat) (s : State) : Host.Outcome State Fault Refusal :=
  .next (if 4 ≤ e ∨ !domainOn s (0x80 + e) then s
    else match (s.eng e).seg with
      | some r => runSegment s e r
      | none => match nextSegment s e with
        | some (cut, i) =>
          let s1 := takeSegment (suspendJob s e none) e cut i
          (match (s1.eng e).seg with
          | some r => runSegment s1 e r
          | none => s1)
        | none => match nextJob s e with
          | none => s
          | some c =>
            let s1 := suspendJob s e (some c)
            match (s1.engCtx c).job with
            | none => s1
            | some j =>
              let s2 := setEng s1 e { s1.eng e with last := c % 4, cur := some c }
              match resumeJob s2 c j with
              | .error f => failJob s2 e c j (headerAt s2 j) (.access f)
              | .ok (s3, j1) => jobBlock (putJob (bulkServed s3 (10 + e / 2)) c j1) e c j1)

/-- The next job of a transfer (R426). -/
def nextXferJob (s : State) (j : EngJob) (x : Xfer) : EngJob :=
  let n := min x.left (2 ^ 31)
  EngJob.placed s { j with
    src := j.src + j.srcBytes, dst := j.dst + j.out, limit := j.limit - j.out, srcBytes := n, ends := decide (x.left ≤ n)
    xfer := some { x with base := x.base + j.srcBytes, left := x.left - n }, pos := 0, out := 0, finished := false }

/-- CHIPPER_JOB_COMPLETE (R392, R393, R426): a job whose bytes have all taken effect. -/
def execChipperJobComplete (c : Nat) (s : State) : Host.Outcome State Fault Refusal :=
  match (s.engCtx c).job with
  | none => .next s
  | some j =>
    if !j.finished then .next s
    else
      let keep := j.opened && j.mode != 2
      match (if keep then saveState s c j else (s, none)) with
      | (s1, some f) => .next (failJob s1 (c / 4) c j (headerAt s j) (.access f))
      | (s1, none) =>
        let x := s1.engCtx c
        (match j.xfer with
        | some z =>
          if z.left ≠ 0 then .next (putJob s1 c (nextXferJob s1 j z))
          else
            let s2 := detachBz (setEngCtx s1 c { x with
              result := 1
              job := none }) j.blaze
            let s3 := match z.fence with
              | some f => settle [.devSignal (.tenant z.ch) z.ch none f (BitVec.ofNat 64 z.value)] s2
              | none => s2
            .next (xferFinal s3 c z rOk 0 (j.dst + j.out - z.dst0) 0 0 0)
        | none =>
          let t := chTenant s1 c
          let nxt := if j.mode = 0 then j.dst + j.out else j.src + j.pos
          let s2 := detachBz (setEngCtx s1 c { x with
            result := 1
            job := none
            stream := if keep then some { j.strm with next := nxt } else if j.mode = 2 then x.stream else none }) j.blaze
          .next (match j.fence with
            | some f => settle [.devSignal (.tenant t) t (some (boundCtx s c)) f (BitVec.ofNat 64 j.value)] s2
            | none => s2))

/-- How many segments from the first on are written and verified. -/
def donePrefix (done : List Nat) (n : Nat) : Nat := (firstBelow n fun i => !done.contains i).getD n

/-- WEIGHT_SEGMENT_DONE (R177): a segment is written and verified; the stream fence follows the segments from the first
on that are. -/
def execWeightSegmentDone (e : Nat) (s : State) : Host.Outcome State Fault Refusal :=
  match (s.eng e).seg with
  | none => .next s
  | some r =>
    if !r.finished then .next s
    else match segOf s r with
      | none => .next (setEng s e { s.eng e with seg := none })
      | some (p, w, _) =>
        let cmd := cmdOf s r.cut
        let done := r.index :: w.doneSegs
        let old := donePrefix w.doneSegs w.segs.length
        let new := donePrefix done w.segs.length
        let s1 := setEng { s with cuts := tset s.cuts r.cut { p with stream := some { w with doneSegs := done } } } e
          { s.eng e with seg := none }
        .next (if new ≤ old then s1
          else settle [.devSignal (.ctx cmd.ctx 3 cmd.queue) (s.ctx cmd.ctx).tenant (some cmd.ctx) w.fence
            (BitVec.ofNat 64 (if p.heritage then (w.fenceBase + new) % 2 ^ 32 else w.fenceBase + new))] s1)

/-- The engine contexts and unit contexts of a tenant, set to their reset values with their jobs stopped (R396). -/
def stopEngCtx (s : State) (c : Nat) : State :=
  let s1 := match (s.engCtx c).job with
    | some j =>
      let s0 := detachBz s j.blaze
      (match j.xfer with
      | some z => xferFinal s0 c z rRefused 0x22FF (j.dst + j.out - z.dst0) 0 0 0
      | none => s0)
    | none => s
  let e := c / 4
  let s2 := setEngCtx s1 c .reset
  if (s2.eng e).cur = some c then setEng s2 e { s2.eng e with cur := none } else s2
def stopChipOf (s : State) (p : Nat → Nat × Nat → Bool) : State :=
  s.chipGrants.foldl (fun s g => if p g.1 g.2 then stopEngCtx s g.1 else s) s
def stopBlazeOf (s : State) (t : Nat) : State :=
  s.blazeGrants.foldl (fun s g => if g.2 = t then setBz s g.1 .reset else s) s
def dropSegments (s : State) (ctx : Nat) : State :=
  { s with engines := tmap s.engines fun _ x => match x.seg with
    | some r => if (cmdOf s r.cut).ctx = ctx then { x with seg := none } else x
    | none => x }

/-- A write to a unit context page: its grantee alone, and not while it is attached (R400). -/
def bzPage (s : State) (a : Access) (c o : Nat) (k : Nat → State) : State :=
  if !accUp s a then s
  else match tget? s.blazeGrants c with
    | none => accRefuse s a 0x2 (bzOff c o)
    | some t =>
      if accTenant s a ≠ some t then accRefuse s a 0x2 (bzOff c o)
      else if (s.bz c).attached.isSome then accLog s a t 0xB (bzOff c o)
      else k t

/-- Bytes folded into a unit context's running value. -/
def foldBz (s : State) (c : Nat) (bs : List Byte) : State :=
  let b := s.bz c
  bumpBy (setBz s c { b with running := BitVec.ofNat 64 (crcFold b.poly (b.running.toNat % 2 ^ (8 * crcBytes b.poly)) bs) })
    (uBlaze (c / 4)) 0x100 bs.length

/-- START (R399). -/
def execStart (a : Access) (c : Nat) (s : State) : Host.Outcome State Fault Refusal :=
  .next (bzPage s a c 0x28 fun _ =>
    if !(accOnes a).getLsbD 0 then s
    else
      let b := s.bz c
      let s1 := setBz s c { b with running := BitVec.ofNat 64 (crcInit b.poly) }
      if b.preEn then foldBz s1 c (preImage b.address.toNat b.sequence b.domain) else s1)

/-- BZ_FEED (R399): 8 bytes, the low one first. -/
def execBzFeed (a : Access) (c : Nat) (s : State) : Host.Outcome State Fault Refusal :=
  .next (bzPage s a c 0x30 fun _ => foldBz s c (leBytes 8 (accOnes a).toNat))

/-- BZ_FEED_PART (R399, Table 12.9): the BYTES low bytes, 1 to 7. -/
def execBzFeedPart (a : Access) (c : Nat) (s : State) : Host.Outcome State Fault Refusal :=
  .next (bzPage s a c 0x38 fun t =>
    let n := bitsReg (accOnes a) 59 56
    if n = 0 ∨ 8 ≤ n then accLog s a t 0x1 (bzOff c 0x38) else foldBz s c (leBytes n (accOnes a).toNat))

/-- A register of an engine context page written (REGISTER_WRITE): offsets 0 to 0x30. The reserved bits of CH_CTL are
held for the test of R390 and read 0. -/
def writeChReg (s : State) (a : Access) (c o : Nat) : State :=
  let x := s.engCtx c
  setEngCtx s c (match o with
    | 0x00 => { x with src := accFields a 0xFFFFFFFFFFFF x.src }
    | 0x08 => { x with dst := accFields a 0xFFFFFFFFFFFF x.dst }
    | 0x10 => { x with state := accFields a 0xFFFFFFFFF000 x.state }
    | 0x18 => { x with len := accMerge a x.len }
    | 0x20 => { x with ctl := accMerge a x.ctl }
    | 0x28 => { x with fence := accFields a 0xBFFF x.fence }
    | 0x30 => { x with value := accMerge a x.value }
    | _ => x)

/-- A register of a unit context page written (R402, Table 12.9). -/
def writeBzReg (s : State) (a : Access) (c o t : Nat) : State :=
  let b := s.bz c
  match o with
  | 0x00 =>
    let v := accFields a 0xFFFFFFFF0000000D b.ctl
    let f := bitsReg v 63 32
    if f % 4 = 0 ∧ 4 ≤ f ∧ f ≤ 262144 then setBz s c { b with ctl := v }
    else accLog (setBz s c { b with ctl := BitVec.ofNat 64 (b.frameBytes * 2 ^ 32 + bitsReg v 31 0) }) a t 0x1 (bzOff c 0)
  | 0x08 => setBz s c { b with address := accMerge a b.address }
  | 0x10 => setBz s c { b with seq := accMerge a b.seq }
  | 0x18 => setBz s c { b with running := accMerge a b.running }
  | _ => s

end Sys2Proof.Machine
end

