-- ==== Sys2Proof/Machine/Prism.lean ====
section
/-! DEFINITION. Composition and the Beacon record (R243 to R247, R259 to R271), and how an output leaves its states. -/

namespace Sys2Proof.Machine

/-- p ÷ d to the nearest integer, for odd d (R247). -/
def divOdd (p d : Nat) : Nat := p / d + if d < 2 * (p % d) then 1 else 0
def mul16 (a b : Nat) : Nat := divOdd (a * b) 65535

/-- An expanded pixel (R243). -/
structure Px where
  r : Nat
  g : Nat
  b : Nat
  a : Nat
  deriving DecidableEq, Repr

/-- An FP16 component: 0 for a NaN, else clamped to 0 to 1 and the nearest integer to x × 65,535, ties to even. -/
def halfPx (c : Nat) : Nat :=
  match Fmt.f16.decode c with
  | .nan => 0
  | .inf neg => if neg then 0 else 65535
  | .fin neg m e =>
    if neg then 0
    else
      let (q, h, _) := unitsOf (m * 65535) e 0 false
      min 65535 (q + if h = .gt ∨ (h = .eq ∧ q % 2 = 1) then 1 else 0)

/-- The expansion of Table 8.1. -/
def expandPx (f : Nat) (b : List Byte) : Px :=
  let c := fun (i : Nat) => (byteAt b i).toNat * 257
  let w := leNat (b.take 4)
  if f = 5 then ⟨c 2, c 1, c 0, c 3⟩
  else if f = 6 then
    let t := fun (x : Nat) => divOdd (x * 65535) 1023
    ⟨t (bitsOf w 9 0), t (bitsOf w 19 10), t (bitsOf w 29 20), bitsOf w 31 30 * 21845⟩
  else if f = 0x0A then ⟨halfPx (fieldAt b 0 2), halfPx (fieldAt b 2 2), halfPx (fieldAt b 4 2), halfPx (fieldAt b 6 2)⟩
  else ⟨c 0, c 1, c 2, c 3⟩

/-- One stage of the blend (R246, R247): ALPHA_MODE 0 premultiplied, 1 straight, 2 opaque. -/
def blend (acc : List Nat) (s : Px) (mode alpha : Nat) : List Nat :=
  let ae := mul16 (if mode = 2 then 65535 else s.a) alpha
  (acc.zip [s.r, s.g, s.b]).map fun e =>
    min 65535 ((if mode = 0 then mul16 e.2 alpha else mul16 e.2 ae) + mul16 e.1 (65535 - ae))

/-- A layer covers an output pixel (R244). -/
def LayerRegs.covers (r : LayerRegs) (x y : Nat) : Bool :=
  r.enable && decide (r.x ≤ x ∧ (x : Int) < r.x + r.w * r.scale ∧ r.y ≤ y ∧ (y : Int) < r.y + r.h * r.scale)

/-- Physical address of the source pixel of an output pixel (R244). -/
def LayerRegs.pa (r : LayerRegs) (s : State) (x y : Nat) : Nat :=
  let sx := ((x : Int) - r.x).toNat / r.scale
  let sy := ((y : Int) - r.y).toNat / r.scale
  (s.obj r.obj).base + r.off + sy * r.pitch + sx * layerBytes r.format

def LayerRegs.fetch (r : LayerRegs) (s : State) (x y : Nat) : Px :=
  let pa := r.pa s x y
  expandPx r.format (if paReachable s pa then (devRead s pa (layerBytes r.format)).1 else [])

/-- The layer pixel lies in a poisoned word (Table 15.2). -/
def LayerRegs.bad (r : LayerRegs) (s : State) (x y : Nat) : Bool :=
  r.covers x y && (poisonedWord s (r.pa s x y) (layerBytes r.format)).isSome

/-- The colour of OUT_BG. -/
def bgOf (c : DWord) : List Nat := [bitsOf c.toNat 47 32, bitsOf c.toNat 31 16, bitsOf c.toNat 15 0]

/-- A palette entry. -/
def BeaconRegs.entry (b : BeaconRegs) (i : Nat) : Word := tget b.palette i 0

/-- The Beacon layer covers an output pixel (R263). -/
def BeaconRegs.covers (b : BeaconRegs) (x y : Nat) : Bool :=
  b.enable && decide (b.x ≤ x ∧ x < b.x + b.w * b.scale ∧ b.y ≤ y ∧ y < b.y + b.h * b.scale)

/-- A byte of the Beacon store: 1 MiB for each partition. -/
def storeByte (s : State) (part off : Nat) : Byte := s.prism.store.get (part * 1048576 + off)

/-- The palette entry of a store pixel of the committed region, and its expansion. -/
def regionEntry (s : State) (n col row : Nat) : Word :=
  let b := (s.output n).act
  let a := b.off + row * b.stride + col
  b.entry (if s.prism.badStore.contains (n * 262144 + (n / 2 * 1048576 + a) / 8) then 0 else (storeByte s (n / 2) a).toNat)
def palettePx (w : Word) : Px :=
  ⟨bitsOf w.toNat 23 16 * 257, bitsOf w.toNat 15 8 * 257, bitsOf w.toNat 7 0 * 257, bitsOf w.toNat 31 24 * 257⟩

/-- The Beacon stage over an accumulated pixel. -/
def beaconOver (s : State) (n x y : Nat) (acc : List Nat) : List Nat :=
  let b := (s.output n).act
  if b.covers x y then blend acc (palettePx (regionEntry s n ((x - b.x) / b.scale) ((y - b.y) / b.scale))) 1 65535 else acc

/-- The layers composed over the background in force (R246, R247). -/
def layersOver (s : State) (n x y : Nat) : List Nat :=
  (List.range 16).foldl (fun acc k =>
    let r := (s.layer n k).act
    if r.covers x y then blend acc (r.fetch s x y) r.mode r.alpha else acc) (bgOf (s.output n).bgAct)

/-- The pixel that the keeper produces (R269, R271). -/
def keeperPx (s : State) (n x y : Nat) : List Nat := beaconOver s n x y (bgOf (s.output n).holdColour)

/-- A pixel of the frame is replaced under R271: it was late, or a layer word of it is poisoned. -/
def pixelLost (s : State) (n x y : Nat) : Bool :=
  (s.output n).under.contains (x, y) || (List.range 16).any fun k => (s.layer n k).act.bad s x y

/-- The pixel that an output sends, 16 bits per channel. -/
def outPx (s : State) (n x y : Nat) : List Nat :=
  if (s.output n).src = .keeper ∨ pixelLost s n x y then keeperPx s n x y else beaconOver s n x y (layersOver s n x y)

/-- Conversion to `b` bits (R247). -/
def toBits (b v : Nat) : Nat := divOdd (v * (2 ^ b - 1)) 65535

/-- The places of the covered rectangle inside the active area, in raster order (R267). -/
def beaconRect (o : Output) : List (Nat × Nat) :=
  let b := o.act
  if !b.enable then []
  else
    let w := min (b.x + b.w * b.scale) o.mode.hActive - b.x
    let h := min (b.y + b.h * b.scale) o.mode.vActive - b.y
    (List.range h).flatMap fun j => (List.range w).map fun i => (b.x + i, b.y + j)

/-- The bytes of SOURCE_CHECK and of OUTPUT_CHECK (R267). -/
def sourceBytes (s : State) (n : Nat) : List Byte :=
  let b := (s.output n).act
  if !b.enable then []
  else (List.range b.h).flatMap fun j => (List.range b.w).flatMap fun i =>
    let w := (regionEntry s n i j).toNat
    [BitVec.ofNat 8 (w / 2 ^ 16), BitVec.ofNat 8 (w / 2 ^ 8), BitVec.ofNat 8 w, BitVec.ofNat 8 (w / 2 ^ 24)]
def outputBytes (s : State) (n : Nat) : List Byte :=
  (beaconRect (s.output n)).flatMap fun p =>
    (outPx s n p.1 p.2).flatMap fun v => leBytes 2 (toBits (s.output n).mode.bpc v)

/-- BEACON_LOCK of an output's partition. -/
def beaconLocked (s : State) (n : Nat) : Bool := s.prism.locks.contains (n / 2)

/-- FLAGS of the record (Table 8.4). -/
def recordFlags (s : State) (n : Nat) : Nat :=
  let o := s.output n
  let b := o.act
  1 + 2 * b2n b.enable + 4 * b2n (o.src == .hold) + 8 * b2n (o.src == .keeper) + 16 * b2n (!o.sink || !o.linkUp)
    + 32 * b2n (o.src != .keeper && (beaconRect o).any fun p => pixelLost s n p.1 p.2) + 64 * b2n (beaconLocked s n)
    + 128 * b2n (b.enable && decide (o.mode.hActive < b.x + b.w * b.scale ∨ o.mode.vActive < b.y + b.h * b.scale))

/-- Pixels of the frame that a poisoned layer word replaced and that were not late: they are counted now. -/
def poisonedPixels (s : State) (n : Nat) : Nat :=
  let o := s.output n
  if o.src = .keeper ∨ s.mem.poison = [] then 0
  else (((List.range o.mode.vActive).flatMap fun y => (List.range o.mode.hActive).map fun x => (x, y)).filter fun p =>
    !o.under.contains p && (List.range 16).any fun k => (s.layer n k).act.bad s p.1 p.2).length

/-- Pixels that poisoned words replaced, each a consumer's action (R465, Table 15.6). -/
def countPoisoned (s : State) (k : Nat) : State := if k = 0 then s else bumpBy (sawPoison s) 0xFF 0x118 k

/-- BEACON_PUBLISH (R267, R268, R282): the last active line of the frame has ended; during a mode set no frame is sent
(R278). -/
def execBeaconPublish (n : Nat) (s : State) : Host.Outcome State Fault Refusal :=
  let o := s.output n
  .next (if 4 ≤ n ∨ o.src = .off ∨ o.frame = 0 ∨ o.busy then s
    else
      let r : BeaconRec :=
        ⟨o.frame, crcCheck 0 n (o.frame % 2 ^ 32) 0 (sourceBytes s n), crcCheck 0 n (o.frame % 2 ^ 32) 0 (outputBytes s n), recordFlags s n⟩
      let k := poisonedPixels s n
      let s1 := bumpBy (s.setOutput n { o with record := r }) (uOut n) 0x130 k
      countPoisoned s1 k)

/-- A pixel of the frame replaced by the keeper's, and counted once (R271, Table 15.1). -/
def replacePixel (s : State) (n x y : Nat) : State :=
  let o := s.output n
  if (o.src = .compose ∨ o.src = .hold) ∧ n < 4 ∧ !o.busy ∧ x < o.mode.hActive ∧ y < o.mode.vActive ∧ !o.under.contains (x, y) then
    bump (s.setOutput n { o with under := (x, y) :: o.under }) (uOut n) 0x130
  else s

/-- PIXEL_UNDERRUN (R271). -/
def execPixelUnderrun (n x y : Nat) (s : State) : Host.Outcome State Fault Refusal := .next (replacePixel s n x y)

/-- KEEPER_ENTRY (Table 8.5, Table 8.3): a whole active period passed with no pixel from the engine, its domain went
off, or it was reset. The output enters KEEPER at its next flip deadline; an engine reset discards its sets at once, and
in KEEPER takes back Ranger's release. -/
def keeperEntry (s : State) (n : Nat) (engineReset : Bool) : State :=
  let o := s.output n
  if o.src = .off then s
  else
    let s1 := s.setOutput n { o with
      toKeeper := o.toKeeper || o.src != .keeper
      engineReset := o.engineReset || engineReset
      released := o.released && !engineReset }
    if engineReset then discardSets s1 fun x => x.output == n else s1
def execKeeperEntry (n : Nat) (engineReset : Bool) (s : State) : Host.Outcome State Fault Refusal :=
  .next (keeperEntry s n engineReset)

/-- KEEPER_RELEASE (Table 8.5): the output leaves KEEPER at its next flip deadline. -/
def execKeeperRelease (n : Nat) (s : State) : Host.Outcome State Fault Refusal :=
  let o := s.output n
  .next (if o.src ≠ .keeper ∨ !s.ranger.up ∨ !domainOn s (0x90 + n / 2) then s
    else s.setOutput n { o with released := true })

/-- An output enters OFF (R270). -/
def enterOff (s : State) (n : Nat) : State :=
  if (s.output n).src = .off then s
  else
    let s1 := disableLayers s (ofOutput n)
    let s2 := eachSet cancelSet (s1.prism.sets.filter fun x => x.output == n) s1
    let o := s2.output n
    let s3 := { s2 with prism := { s2.prism with compose := tdrop s2.prism.compose fun k => k / 16 == n } }
    s3.setOutput n { o.applyCommit with src := .off, linkUp := false, leadDues := [], busy := false, under := [], toKeeper := false, released := false, engineReset := false }

/-- The Beacon owner (R241): the tenant that the configuration names, while it exists. -/
def beaconOwner (s : State) : Option Nat :=
  match s.cfg.beaconOwner with
  | some (p, t) => if (s.tenant t).st != .free && (s.tenant t).port == p then some t else none
  | none => none

/-- A write of the Beacon owner to the Beacon state of a partition: refused to others, discarded under BEACON_LOCK
(R241, R266). -/
def beaconWrite (s : State) (a : Access) (part off : Nat) (locked ok : State) : State :=
  if !accUp s a then s
  else match accTenant s a with
    | none => s
    | some t =>
      if beaconOwner s ≠ some t then accLog s a t 0x2 off
      else if s.prism.locks.contains part then accLog locked a t 0x4 off
      else ok

/-- A commit (R264, R270): at once while the output is OFF. -/
def commitBeacon (s : State) (n : Nat) : State :=
  let o := { s.output n with commit := true }
  s.setOutput n (if o.src = .off then o.applyCommit else o)

/-- BEACON_COMMIT: a write of 1 to COMMIT. -/
def execBeaconCommit (a : Access) (n : Nat) (s : State) : Host.Outcome State Fault Refusal :=
  .next (if 4 ≤ n then s
    else beaconWrite s a (n / 2) (prismOff (0x400018 + 0x1000 * n)) (s.setOutput n { s.output n with commitErr := 2 }) (commitBeacon s n))

/-- A word of a pixel of write-back (R259); a reserved FORMAT writes an open value. -/
def wbPx (s : State) (n x y : Nat) : Nat :=
  let o := s.output n
  let tap := o.wbCtl.getLsbD 1
  let acc := if (List.range 16).any fun k => (s.layer n k).act.bad s x y then
      (if tap then keeperPx s n x y else bgOf o.holdColour)
    else if tap then beaconOver s n x y (layersOver s n x y) else layersOver s n x y
  let c := fun (b i : Nat) => toBits b (acc.getD i 0)
  let f := bitsOf o.wbCtl.toNat 3 2
  if f = 0 then c 8 0 + 2 ^ 8 * c 8 1 + 2 ^ 16 * c 8 2 + 2 ^ 24 * 0xFF
  else if f = 1 then c 10 0 + 2 ^ 10 * c 10 1 + 2 ^ 20 * c 10 2 + 2 ^ 30 * 3
  else (Config.free (s.freeTick + y * o.mode.hActive + x)).toNat

/-- The first `k` pixels of a write-back frame that a poisoned layer word replaced: each is a consumer's action (R465). -/
def wbPoisoned (s : State) (n k : Nat) : Nat :=
  if s.mem.poison = [] then 0
  else ((List.range k).filter fun i => (List.range 16).any fun l =>
    (s.layer n l).act.bad s (i % (s.output n).mode.hActive) (i / (s.output n).mode.hActive)).length

/-- The first `k` pixels of a frame written into its buffer, which R300 wants LIVE under the generation named. -/
def wbWrite (s : State) (n k : Nat) : State :=
  let o := s.output n
  let dst := o.wbDst.toNat
  let (g, ob) := (bitsOf dst 63 48, bitsOf dst 47 32)
  let pitch := bitsOf o.wbSync.toNat 63 32
  let base := bitsOf dst 31 0 + o.frame % (bitsOf o.wbCtl.toNat 5 4 + 1) * pitch * o.mode.vActive
  let may := match outOwner s n with
    | some t => nameLive s ob g && decide (2 ≤ objRight (s.obj ob) t)
    | none => false
  let area := o.mode.hActive * o.mode.vActive
  if !may then s
  else (List.range (min k area)).foldl (fun m i =>
    let x := i % o.mode.hActive
    let y := i / o.mode.hActive
    let off := base + y * pitch + x * 4
    if off + 4 ≤ (s.obj ob).size then objWrite m ob g off (leBytes 4 (wbPx s n x y)) else m) { countPoisoned s (wbPoisoned s n (min k area)) with freeTick := s.freeTick + area }

/-- A fence signalled on behalf of an output's owner. -/
def ownerSignal (s : State) (n : Nat) (reg : DWord) (v : Nat) : State :=
  match outOwner s n with
  | some t => if reg.getLsbD 15 then settle [.devSignal (.tenant t) t none (bitsOf reg.toNat 13 0) (BitVec.ofNat 64 v)] s else s
  | none => s

/-- WRITEBACK_FRAME_DONE (R259, R261, R282): every byte of the frame has taken effect, or its rest was dropped after
`dropped` pixels. -/
def execWritebackFrameDone (n : Nat) (dropped : Option Nat) (s : State) : Host.Outcome State Fault Refusal :=
  let o := s.output n
  .next (if 4 ≤ n ∨ o.busy ∨ !o.wbCtl.getLsbD 0 ∨ (o.src ≠ .compose ∧ o.src ≠ .hold) then s
    else match dropped with
      | some k => bump (wbWrite s n k) (uOut n) 0x158
      | none =>
        let s1 := bump (wbWrite s n (o.mode.hActive * o.mode.vActive)) (uOut n) 0x150
        if o.frame = 0 then s1 else ownerSignal s1 n o.wbSync o.frame)

end Sys2Proof.Machine
end

