-- ==== Sys2Proof/Machine/Outputs.lean ====
section
/-! DEFINITION. The outputs (R258 to R284): mode sets, link, sink, AUX mailbox, and the writes to the Prism block. -/

namespace Sys2Proof.Machine

/-- Link fields of a mode (Table 8.22). -/
def VideoMode.rate (m : VideoMode) : Nat := bitsOf m.ctl.toNat 47 40
def VideoMode.lanes (m : VideoMode) : Nat := bitsOf m.ctl.toNat 35 32
def VideoMode.dscEn (m : VideoMode) : Bool := m.ctl.getLsbD 15
def VideoMode.dscBpp (m : VideoMode) : Nat := bitsOf m.ctl.toNat 31 20
def VideoMode.slices (m : VideoMode) : Nat := 2 ^ bitsOf m.ctl.toNat 17 16
def VideoMode.sliceH (m : VideoMode) : Nat := bitsOf m.ctl.toNat 63 48
/-- Bits per pixel × 16. -/
def VideoMode.bpp16 (m : VideoMode) : Nat := if m.dscEn then m.dscBpp else 48 * m.bpc

/-- Mb/s of a lane (Table 8.22): interface 2 is DSI. -/
def laneMb (iface rate : Nat) : Nat :=
  if iface = 2 then rate * 20
  else if rate = 1 then 1620 else if rate = 2 then 2700 else if rate = 3 then 5400 else if rate = 4 then 8100
  else if rate = 5 then 2160 else if rate = 6 then 2430 else if rate = 7 then 3240 else if rate = 8 then 4320
  else if rate = 0x10 then 10000 else if rate = 0x11 then 13500 else 0

/-- R274: the required rate does not exceed the capacity of a link (kb/s; both sides multiplied by 16 × 132). -/
def linkAdmits (m : VideoMode) (iface rate lanes : Nat) : Bool :=
  let need := m.khz * m.bpp16 * 132
  let raw := lanes * laneMb iface rate * 16
  if iface = 2 then decide (need ≤ raw * 900 * 132)
  else if 0x10 ≤ rate then decide (need ≤ raw * 970 * 128)
  else decide (need ≤ raw * 776 * 132)

/-- Link rates and lane counts of an interface (Tables 8.6 to 8.8). -/
def ifaceRates (iface : Nat) : List Nat :=
  if iface = 0 then [1, 2, 3, 4, 0x10, 0x11] else if iface = 1 then [1, 2, 3, 4, 5, 6, 7, 8] else (List.range 222).map (· + 4)
def ifaceLanes (iface : Nat) : List Nat := if iface = 2 then [1, 2, 3, 4] else [1, 2, 4]

/-- DPCD of the sink window. -/
def dpcd (o : Output) (i : Nat) : Nat := (o.window.get (if i < 0x100 then i else i - 0x2100)).toNat

/-- The sink supports a rate and a lane count: DPCD 0x001 or 0x2201, 0x002, 0x2215, and the eDP rate table at 0x010
(PRESUMED from DisplayPort). Without a sink, and for a declared DSI panel, the output's own limits hold. -/
def sinkRate (o : Output) (rate : Nat) : Bool :=
  if o.iface = 2 || !o.sink then true
  else if rate = 0x10 then dpcd o 0x2215 % 2 == 1
  else if rate = 0x11 then dpcd o 0x2215 / 4 % 2 == 1
  else
    let top := if dpcd o 0x0E / 128 = 1 then dpcd o 0x2201 else dpcd o 0x001
    let listed := (List.range 8).any fun i => (dpcd o (0x10 + 2 * i) + 256 * dpcd o (0x11 + 2 * i)) / 5 == laneMb o.iface rate
    (decide (rate ≤ 4) && decide (laneMb 0 rate ≤ top * 270)) || (o.iface == 1 && listed)
def sinkLanes (o : Output) (lanes : Nat) : Bool := o.iface == 2 || !o.sink || decide (lanes ≤ dpcd o 0x002 % 32)

/-- The settings at which a sink and an output can run a mode. -/
def linkChoices (o : Output) (m : VideoMode) : List (Nat × Nat) :=
  ((ifaceRates o.iface).flatMap fun r => (ifaceLanes o.iface).map fun l => (r, l)).filter fun e =>
    sinkRate o e.1 && sinkLanes o e.2 && linkAdmits m o.iface e.1 e.2

/-- Table 8.14. -/
def timingOk (m : VideoMode) : Bool :=
  let f := fun (x : DWord) (hi lo top : Nat) => decide (1 ≤ bitsOf x.toNat hi lo ∧ bitsOf x.toNat hi lo ≤ top)
  decide (640 ≤ m.hActive ∧ m.hActive ≤ 7680) && decide (480 ≤ m.vActive ∧ m.vActive ≤ 4320)
    && f m.h 31 16 4095 && f m.h 47 32 4095 && f m.h 63 48 4095 && f m.v 31 16 1023 && f m.v 47 32 1023 && f m.v 63 48 1023
    && decide (25000 ≤ m.khz ∧ m.khz ≤ 2400000) && [6, 8, 10, 12].contains m.bpc

/-- Fields that the interface does not allow (Tables 8.6 to 8.8, 8.14). -/
def ifaceOk (o : Output) (m : VideoMode) : Bool :=
  (ifaceRates o.iface).contains m.rate && (ifaceLanes o.iface).contains m.lanes
    && !(o.iface == 0 && m.bpc == 6) && !(o.iface == 2 && m.bpc == 12 && !m.dscEn)

/-- Table 8.9, and the sink's DSC (DPCD 0x060, PRESUMED). -/
def dscOk (o : Output) (m : VideoMode) : Bool :=
  !m.dscEn || (m.bpc != 6 && decide (128 ≤ m.dscBpp ∧ m.dscBpp ≤ 256) && m.hActive % m.slices == 0
    && decide (m.hActive / m.slices ≤ 2560) && m.sliceH != 0 && m.vActive % m.sliceH == 0
    && (o.iface == 2 || !o.sink || dpcd o 0x060 % 2 == 1))

/-- MODESET_ERR of a mode (Table 8.10), 0 when it is admitted. -/
def modeErr (o : Output) (m : VideoMode) : Nat :=
  if !timingOk m then 1 else if !ifaceOk o m then 5 else if !dscOk o m then 3 else if linkChoices o m = [] then 2 else 0

/-- The pending timing and link fields. -/
def Output.pendMode (o : Output) : VideoMode := ⟨o.timH, o.timV, o.clk, o.ctl⟩

/-- A mode set (R278): validated, then the link trains; with no sink, and while the output is OFF, the mode is in force
untrained (R279). -/
def startModeset (s : State) (n : Nat) (m : VideoMode) (owner : Bool) : State :=
  let o := s.output n
  let e := modeErr o m
  s.setOutput n (if e ≠ 0 then { o with err := e, ownerMode := o.ownerMode || owner }
    else { o with err := 0, mode := m, busy := o.sink && o.src != .off, linkUp := false, ownerMode := o.ownerMode || owner })

/-- Counters and core state at the power-up of a unit's domain (R96, R185, R237). -/
def freshUnit (s : State) (u : Nat) : State :=
  if u < 0x30 then clearCounters (clearCounters (s.setCore u .reset) u) (0x100 + u)
  else if u < 0x60 then
    clearCounters ({ s with freeTick := s.freeTick + 1 }.setCore (u - 0x30) { s.core (u - 0x30) with weights := .free s.freeTick }) u
  else if u = 0x9C ∨ u = 0x9D then clearCounters s u
  else s

/-- A power domain switched on (R445, R458): its pads are released unless a Night holds them. -/
def powerOn (s : State) (u : Nat) : State :=
  if s.power.on.contains u then s
  else
    let s1 := bump (freshUnit s u) 0xB0 0x110
    let pads := if s.power.nightPads.contains u then s1.power.padHold else s1.power.padHold.filter fun x => x != u
    { s1 with power := { s1.power with
        on := u :: s1.power.on
        padHold := pads } }

/-- An output leaves OFF (Table 8.5), into HOLD while a control gap lasts (R407). -/
def leaveOff (s : State) (n : Nat) (m : VideoMode) (owner : Bool) : State :=
  let s1 := powerOn (powerOn s (uOut n)) (0x90 + n / 2)
  startModeset (s1.setOutput n { s1.output n with src := if s1.ranger.up then .compose else .hold, frame := 0 }) n m owner

/-- A Dusk step that commits is switching off the domain of an output or of its engine: an ENABLE waits for its end
(R272, R447, R448). -/
def outClosing (s : State) (n : Nat) : Bool :=
  committing s (uOut n) || committing s (0x90 + n / 2) || quiet s (uOut n) || quiet s (0x90 + n / 2)

/-- A write to a register of output `n` by its owner (R281). -/
def ownerWrite (s : State) (a : Access) (n off : Nat) (k : Nat → State) : State :=
  if !accUp s a then s
  else match outOwner s n with
    | some t => if accTenant s a = some t then k t else accRefuse s a 0x2 off
    | none => accRefuse s a 0x2 off

def outOff (n o : Nat) : Nat := prismOff (0x100000 + 0x10000 * n + o)

/-- A write to OUT_CTL (Table 8.22, R269, R270, R278): MODESET is set by a 1, INTERFACE is read-only. -/
def writeOutCtl (s : State) (a : Access) (n : Nat) : State :=
  let o := s.output n
  let v := accFields a 0xFFFFFF0FFFF38F01 o.ctl
  let s1 := s.setOutput n { o with
    ctl := v ||| (o.ctl &&& 0x30)
    waitEnable := false }
  let m := (s1.output n).pendMode
  if v.getLsbD 0 && o.src == .off then
    (if s.power.nightPads.contains (uOut n) || outClosing s n then s1.setOutput n { s1.output n with waitEnable := true }
    else leaveOff s1 n m true)
  else if !v.getLsbD 0 && o.src != .off then enterOff s1 n
  else if (accOnes a).getLsbD 1 && !o.busy then startModeset s1 n m true
  else s1

/-- OUTPUT_ENABLE: a write to OUT_CTL with ENABLE set. -/
def execOutputEnable (a : Access) (n : Nat) (s : State) : Host.Outcome State Fault Refusal :=
  .next (if 4 ≤ n then s else ownerWrite s a n (outOff n 0) fun _ =>
    writeOutCtl s { a with data := a.data ||| 1, be := a.be ||| 1 } n)

/-- OUTPUT_DISABLE: a write to OUT_CTL with ENABLE clear. -/
def execOutputDisable (a : Access) (n : Nat) (s : State) : Host.Outcome State Fault Refusal :=
  .next (if 4 ≤ n then s else ownerWrite s a n (outOff n 0) fun _ =>
    writeOutCtl s { a with data := a.data &&& ~~~1, be := a.be ||| 1 } n)

/-- MODESET: a write to OUT_CTL with MODESET set and ENABLE as it stands. -/
def execModeset (a : Access) (n : Nat) (s : State) : Host.Outcome State Fault Refusal :=
  .next (if 4 ≤ n then s else ownerWrite s a n (outOff n 0) fun _ =>
    let on : DWord := if (s.output n).src = .off then 0 else 1
    writeOutCtl s { a with data := (a.data &&& ~~~1) ||| 2 ||| on, be := a.be ||| 1 } n)

/-- MODESET_DONE (R278): the link trained at a rate and lane count, none higher than chosen and admitting the mode, or at
none. The order of DisplayPort 2.1 reaches each such pair when the ones before it fail. -/
def execModesetDone (n : Nat) (link : Option (Nat × Nat)) (s : State) : Host.Outcome State Fault Refusal :=
  let o := s.output n
  .next (if !o.busy then s
    else match link with
      | none => s.setOutput n { o with busy := false, linkUp := false, err := 4 }
      | some (r, l) =>
        if (linkChoices o o.mode).contains (r, l) && decide (laneMb o.iface r ≤ laneMb o.iface o.mode.rate ∧ l ≤ o.mode.lanes) then
          s.setOutput n { o with
            busy := false
            linkUp := true
            mode := { o.mode with ctl := (o.mode.ctl &&& ~~~0xFF0F00000000) ||| BitVec.ofNat 64 (r * 2 ^ 40 + l * 2 ^ 32) } }
        else s)

/-- The mode that a policy sets at boot and at a plug (R277): with no EDID or DisplayID block there is no preferred timing. -/
def policyMode (o : Output) (blocks : List (List Byte)) : VideoMode :=
  if o.ownerMode then o.mode
  else if o.policy = 2 ∧ blocks ≠ [] then
    let (h, v, c, l) := Config.sinkMode blocks
    if modeErr o ⟨h, v, c, l⟩ = 0 then ⟨h, v, c, l⟩ else o.confMode
  else o.confMode

/-- A block fails its checksum: its bytes do not sum to 0 modulo 256. -/
def badBlock (b : List Byte) : Bool := (b.map BitVec.toNat).sum % 256 != 0

/-- The notify fence signalled with the generation (R276). -/
def notifySink (s : State) (n : Nat) : State := ownerSignal s n (s.output n).notify (s.output n).sinkGen

/-- The HPD input of an output is ignored while its pads are held (Table 14.10). -/
def hpdHeld (s : State) (n : Nat) : Bool := s.power.padHold.contains (uOut n)

/-- HPD_PLUG (R275 to R277): DPCD 0x00000 to 0x000FF and 0x02200 to 0x022FF, and up to 16 EDID and DisplayID blocks,
as read. -/
def execHpdPlug (n : Nat) (bytes : List Byte) (blocks : List (List Byte)) (s : State) : Host.Outcome State Fault Refusal :=
  let o := s.output n
  .next (if 4 ≤ n ∨ o.iface = 2 ∨ o.sink ∨ hpdHeld s n ∨ bytes.length ≠ 512 ∨ 16 < blocks.length ∨ blocks.any (fun b => b.length != 128) then s
    else
      let flags := (List.range blocks.length).foldl (fun acc i => acc + if badBlock (blocks.getD i []) then 2 ^ i else 0) 0
      let w := (Mem.write [] 0 bytes).write 0x800 blocks.flatten
      let s1 := notifySink (s.setOutput n { o with
        window := w
        sink := true
        sinkGen := (o.sinkGen + 1) % 2 ^ 32
        sinkFlags := flags
        sinkBlocks := blocks.length }) n
      if o.policy = 0 then s1 else startModeset s1 n (policyMode (s1.output n) blocks) false)

/-- HPD_UNPLUG (R276). -/
def execHpdUnplug (n : Nat) (s : State) : Host.Outcome State Fault Refusal :=
  let o := s.output n
  .next (if 4 ≤ n ∨ o.iface = 2 ∨ !o.sink ∨ hpdHeld s n then s
    else notifySink (s.setOutput n { o with
      sink := false
      linkUp := false
      busy := false
      sinkGen := (o.sinkGen + 1) % 2 ^ 32 }) n)

/-- IRQ_HPD (R280): `retrain` tells, when the link status shows lost lock or alignment, whether the link trains again at
the current mode and rate. -/
def execIrqHpd (n : Nat) (retrain : Option Bool) (s : State) : Host.Outcome State Fault Refusal :=
  let o := s.output n
  .next (match retrain with
    | none => s
    | some up =>
      if 4 ≤ n ∨ o.iface = 2 ∨ !o.sink ∨ o.src = .off ∨ o.busy ∨ hpdHeld s n then s
      else bump (s.setOutput n { o with linkUp := up }) (uOut n) 0x148)

/-- An AUX transaction that is denied (R284). -/
def auxDenied (o : Output) (v : DWord) : Bool :=
  let cmd := bitsOf v.toNat 51 50
  let lo := bitsOf v.toNat 19 0
  let hi := lo + bitsOf v.toNat 59 56
  let hits := fun (a b : Nat) => decide (lo ≤ b ∧ a ≤ hi)
  o.iface == 2 || o.busy || (cmd == 0 && (hits 0x100 0x2FF || hits 0x2200 0x22FF || hits 0xF0000 0xF02FF))
    || (cmd == 2 && (lo % 128 == 0x30 || lo % 128 == 0x50))

/-- A write to OUT_AUX_CTL (Table 8.25): GO is set by a 1, RESULT is read-only. -/
def writeAux (s : State) (a : Access) (n : Nat) : State :=
  let o := s.output n
  let v := accFields a 0x0F0C0000000FFFFF o.aux
  let o1 := { o with aux := v }
  if !(accOnes a).getLsbD 63 || o.auxBusy then s.setOutput n o1
  else if auxDenied o v then s.setOutput n { o1 with auxResult := 4 }
  else s.setOutput n { o1 with auxBusy := true }

/-- GO: a write to OUT_AUX_CTL with GO set. -/
def execGo (a : Access) (n : Nat) (s : State) : Host.Outcome State Fault Refusal :=
  .next (if 4 ≤ n then s else ownerWrite s a n (outOff n 0x68) fun _ =>
    writeAux s { a with data := a.data ||| 0x8000000000000000, be := a.be ||| 0x80 } n)

/-- AUX_DONE (R284): the transaction ends with RESULT 0 to 3; a read brings its bytes. -/
def execAuxDone (n result : Nat) (bytes : List Byte) (s : State) : Host.Outcome State Fault Refusal :=
  let o := s.output n
  .next (if !o.auxBusy ∨ 4 ≤ result then s
    else
      let len := bitsOf o.aux.toNat 59 56 + 1
      let old := leBytes 8 o.aux0.toNat ++ leBytes 8 o.aux1.toNat
      let new := if o.aux.getLsbD 50 ∧ result = 0 then putAt old 0 (bytes.take len) else old
      s.setOutput n { o with
        auxBusy := false
        auxResult := result
        aux0 := BitVec.ofNat 64 (leNat (new.take 8))
        aux1 := BitVec.ofNat 64 (leNat (new.drop 8)) })

/-- A write to WB_CTL (R260): WB_TAP stays 0 for a tenant that is not the Beacon owner. -/
def writeWbCtl (s : State) (a : Access) (n t : Nat) : State :=
  let o := s.output n
  let v := accFields a 0x3F o.wbCtl
  if (accOnes a).getLsbD 1 && beaconOwner s != some t then
    accLog (s.setOutput n { o with wbCtl := v &&& ~~~2 }) a t 0x3 (outOff n 0x50)
  else s.setOutput n { o with wbCtl := v }

/-- A write to a register of an output's page, other registers than those of a row of its own included. -/
def writeOutReg (s : State) (a : Access) (n t off : Nat) : State :=
  let o := s.output n
  let put := s.setOutput n
  if off = 0 then writeOutCtl s a n
  else if off = 0x08 then put { o with timH := accMerge a o.timH }
  else if off = 0x10 then put { o with timV := accMerge a o.timV }
  else if off = 0x18 then put { o with clk := accFields a 0x3FFFFFFFF o.clk }
  else if off = 0x20 then put { o with bg := accFields a 0xFFFFFFFFFFFF o.bg }
  else if off = 0x28 then put { o with lead := accFields a 0x3FFF o.lead }
  else if off = 0x30 then put { o with notify := accFields a 0xBFFF o.notify }
  else if off = 0x50 then writeWbCtl s a n t
  else if off = 0x58 then put { o with wbDst := accMerge a o.wbDst }
  else if off = 0x60 then put { o with wbSync := accFields a 0xFFFFFFFF0000BFFF o.wbSync }
  else if off = 0x68 then writeAux s a n
  else if off = 0x70 then put { o with aux0 := accMerge a o.aux0 }
  else if off = 0x78 then put { o with aux1 := accMerge a o.aux1 }
  else s

/-- Registers of an output's page that exist (Table 8.21); the rest of it is reserved. -/
def outRegHere (off : Nat) : Bool :=
  decide (off ≤ 0x78) || decide (0x100 ≤ off ∧ off ≤ 0x158) || decide (0x1000 ≤ off ∧ off < 0x1200)
    || off == 0x1200 || off == 0x1208 || decide (0x1800 ≤ off)

/-- A write to a pending register of a layer (R245). Its reserved bits are held for check 4 of Table 8.2 and read 0. -/
def writeLayerReg (s : State) (a : Access) (n k off : Nat) : State :=
  let l := s.layer n k
  let r := l.pend
  let put := fun (x : LayerRegs) => s.setLayer n k { l with pend := x }
  if off = 0 then put { r with ctl := accMerge a r.ctl }
  else if off = 0x08 then put { r with src := accMerge a r.src }
  else if off = 0x10 then put { r with size := accMerge a r.size }
  else if off = 0x18 then put { r with pos := accMerge a r.pos }
  else if off = 0x20 then put { r with sync := accMerge a r.sync }
  else if off = 0x28 then put { r with acq := accMerge a r.acq }
  else s
def layerRegHere (off : Nat) : Bool := decide (off ≤ 0x28) || decide (0x100 ≤ off ∧ off ≤ 0x128) || off == 0x200

/-- A palette entry's pair written (Table 8.26): entries are 32 bits wide, two to each 8-byte register. -/
def writePalette (b : BeaconRegs) (a : Access) (i : Nat) : BeaconRegs :=
  let old : DWord := BitVec.ofNat 64 ((b.entry (i + 1)).toNat * 2 ^ 32 + (b.entry i).toNat)
  let v := accMerge a old
  { b with palette := tset (tset b.palette i (v.setWidth 32)) (i + 1) (BitVec.ofNat 32 (v.toNat / 2 ^ 32)) }

/-- A write to a register of a Beacon page. LOCKED is read-only. -/
def writeBeaconReg (s : State) (a : Access) (n off : Nat) : State :=
  let o := s.output n
  let b := o.pend
  let put := fun (x : BeaconRegs) => s.setOutput n { o with pend := x }
  if off = 0 then put { b with ctl := accFields a 0x7 b.ctl }
  else if off = 0x08 then put { b with region := accFields a 0xFFFF000FFFFF b.region }
  else if off = 0x10 then put { b with geom := accMerge a b.geom }
  else if off = 0x18 then (if (accOnes a).getLsbD 0 then commitBeacon s n else s)
  else if 0x400 ≤ off then put (writePalette b a ((off - 0x400) / 4))
  else s
def beaconRegHere (off : Nat) : Bool := decide (off ≤ 0x38) || decide (0x400 ≤ off ∧ off < 0x800)

/-- Bytes of the Beacon store written (R264). -/
def writeStore (s : State) (a : Access) (at_ : Nat) : State :=
  (List.range 8).foldl (fun s i =>
    if a.be.getLsbD i then
      { s with prism := { s.prism with store := s.prism.store.put (at_ + i) (BitVec.ofNat 8 (a.data.toNat / 2 ^ (8 * i))) } }
    else s) s

/-- A write into the Prism block at an offset from 0x0400_0000 that is a multiple of 8 (R281): `t` is the writer. -/
def writePrism (s : State) (a : Access) (t off : Nat) : State :=
  let kind := fun (k : Nat) => accLog s a t k (prismOff off)
  if off = 0 then kind 0x2
  else if 0x100000 ≤ off ∧ off < 0x140000 then
    let n := (off - 0x100000) / 0x10000
    let r := off % 0x10000
    if 0x2000 ≤ r then kind 0x1
    else if outOwner s n ≠ some t then kind 0x2
    else if outRegHere r then writeOutReg s a n t r else kind 0x1
  else if 0x200000 ≤ off ∧ off < 0x240000 then
    let n := (off - 0x200000) / 0x10000
    let k := off % 0x10000 / 0x1000
    let r := off % 0x1000
    if layerOwner s n k ≠ some t then kind 0x2
    else if layerRegHere r then writeLayerReg s a n k r else kind 0x1
  else if 0x300000 ≤ off ∧ off < 0x310000 then
    let p := s.page t
    let r := off % 0x1000
    if (off - 0x300000) / 0x1000 ≠ t then kind 0x2
    else if r = 0 then s.setPage t { p with doneFence := accFields a 0xBFFF p.doneFence }
    else if r = 8 then s.setPage t { p with doneValue := accMerge a p.doneValue }
    else if 0x18 ≤ r ∧ r ≤ 0x38 then s
    else kind 0x1
  else if 0x400000 ≤ off ∧ off < 0x404000 then
    let n := (off - 0x400000) / 0x1000
    let r := off % 0x1000
    if beaconOwner s ≠ some t then kind 0x2
    else if !beaconRegHere r then kind 0x1
    else
      let locked := if r = 0x18 ∧ (accOnes a).getLsbD 0 then s.setOutput n { s.output n with commitErr := 2 } else s
      if beaconLocked s n && (r ≤ 0x18 || 0x400 ≤ r) then accLog locked a t 0x4 (prismOff off) else writeBeaconReg s a n r
  else if (0x800000 ≤ off ∧ off < 0xA00000) then
    let part := (off - 0x800000) / 0x100000
    if beaconOwner s ≠ some t then kind 0x2
    else if s.prism.locks.contains part then kind 0x4
    else writeStore s a (part * 1048576 + off % 0x100000)
  else kind 0x1

end Sys2Proof.Machine
end

