-- ==== Sys2Proof/Machine/Ringmark.lean ====
section
/-! DEFINITION. Ringmark packets and the digest engine (R188 to R195, R199, R203, R204). -/

namespace Sys2Proof.Machine

def dBadRingmark : Nat := 0x11

/-- The header and items of a session descriptor (Tables 6.1, 6.2), none when a check of R189 fails. -/
def sessionItem (b : List Byte) : Option RingItem :=
  let it : RingItem := ⟨fieldAt b 0 1, fieldAt b 4 4, fieldAt b 8 8⟩
  if 1 ≤ it.kind ∧ it.kind ≤ 4 ∧ fieldAt b 1 3 = 0 ∧ 1 ≤ it.length
      ∧ (it.kind ≠ 4 ∨ (it.length % 8 = 0 ∧ 8 ≤ it.length ∧ it.length ≤ 4096)) then some it else none
def sessionHead (b : List Byte) : Option (Nat × Nat) :=
  let n := fieldAt b 6 2
  let rec_ := fieldAt b 8 8
  if fieldAt b 0 4 = 0x4E39524D ∧ fieldAt b 4 1 = 1 ∧ fieldAt b 5 1 = 0 ∧ 1 ≤ n ∧ n ≤ 1024 ∧ rec_ % 256 = 0
      ∧ fieldAt b 16 16 = 0 then some (n, rec_) else none

/-- A page of an item or of the record that does not translate faults with PAGE_FAULT, whatever stopped the walk (R189). The
record of the fault has the session descriptor's address for PC, and PACKET clear, as R204 has it for BAD_RINGMARK (DESIGN
CHOICE, log entry 138). -/
def pageFailure (s : State) (f : AccFault) : State × AccFault :=
  (notePoison s f, if f.code = cPageFault then f else pageFault f.addr f.write)

/-- Every page of the items translated for reading. -/
def checkItems (s : State) (c : Nat) : List RingItem → Except AccFault State
  | [] => .ok s
  | it :: r => match vcheck s c it.va it.length false with
    | .error f => .error f
    | .ok s1 => checkItems s1 c r

/-- A chunk of pending work is not in a lane and not hashed. -/
def chunkFree (s : State) (t : Tbl (List Byte)) (key : Nat) (j : ChunkJob) : Bool :=
  (tget? t key).isNone && !(s.lanes.any fun e => e.2 == j)

/-- Bytes of output slab `b` in canonical order, as runs of address and length (R195). -/
def slabRuns (h : CutHdr) (b : Slab) : List (Nat × Nat) :=
  if b.mode = 0 then (List.range h.t0).map fun t => (b.va + t * b.rowPitch, b.copyBytes)
  else
    (List.range h.outY).flatMap fun y => (List.range h.outX).flatMap fun x =>
      (List.range (ceilDiv h.outZ h.tileZ)).map fun gz =>
        (b.va + y * b.rowPitch + x * b.pixelPitch + gz * h.tileZ * b.elem, min b.channels (h.outZ - gz * h.tileZ) * b.elem)

def runsLen (rs : List (Nat × Nat)) : Nat := (rs.map Prod.snd).sum

/-- The part of a list of runs from byte `off` on, `n` bytes. -/
def sliceRuns : List (Nat × Nat) → Nat → Nat → List (Option Nat × Nat)
  | [], _, _ => []
  | (va, len) :: r, off, n =>
    if n = 0 then []
    else if len ≤ off then sliceRuns r (off - len) n
    else (some (va + off), min n (len - off)) :: sliceRuns r 0 (n - (len - off))

/-- A cut whose tiles are all finished and whose fold is due (R171, R193). -/
def foldDue (s : State) (p : CutPass) : Bool := !p.folded && p.gen == s.maps.gen && p.allDone

/-- The chunks that the digest engine has to do, the open or fold that has waited longest first (R203): opens by item and chunk,
folds by slab and chunk. -/
def pendingChunks (s : State) : List ChunkJob :=
  s.sched.digests.flatMap fun i =>
    let e := (i, cmdOf s i)
    if (s.ctx e.2.ctx).st != .live then []
    else if e.2.kind == .ringOpen then
      match s.session? e.1 with
      | none => []
      | some x => ((List.range x.items.length).zip x.items).flatMap fun (it : Nat × RingItem) =>
        (List.range (ceilDiv it.2.length chunkBytes)).filterMap fun k =>
          let j : ChunkJob := ⟨e.1, none, it.1, k⟩
          if chunkFree s x.leaves (it.1 * 4096 + k) j then some j else none
    else match tget? s.cuts e.1 with
      | none => []
      | some p =>
        if !foldDue s p then []
        else match p.session with
          | none => []
          | some (i, _) => match s.session? i with
            | none => []
            | some x => ((List.range p.outSlabs.length).zip p.outSlabs).flatMap fun (b : Nat × Slab) =>
              (List.range (ceilDiv (runsLen (slabRuns p.hdr b.2)) chunkBytes)).filterMap fun k =>
                let j : ChunkJob := ⟨i, some e.1, b.1, k⟩
                if chunkFree s x.foldLeaves (foldKey e.1 b.1 k) j then some j else none

/-- Free lanes take chunks of the oldest pending work (R203). -/
def fillLanes (s : State) : State :=
  (List.range 8).foldl (fun s l =>
    if (tget? s.lanes l).isSome then s
    else match (pendingChunks s).head? with
      | none => s
      | some j => { s with lanes := tset s.lanes l j }) s

/-- A fault of a session's context at the digest engine: the Ranger cluster's unit, the descriptor for the program
counter. -/
def digestFault (s : State) (x : Session) (f : AccFault) : State :=
  raise (notePoison s f) ⟨x.ctx, f, 0xB0, 0xFF, false, x.queue, x.desc, 0⟩

/-- The runs of bytes that a chunk covers. -/
def chunkRuns (s : State) (x : Session) (j : ChunkJob) : List (Option Nat × Nat) :=
  match j.cut with
  | none => match x.items[j.item]? with
    | none => []
    | some it => [(some (it.va + j.chunk * chunkBytes), min chunkBytes (it.length - j.chunk * chunkBytes))]
  | some c => match tget? s.cuts c with
    | none => []
    | some p => match p.outSlabs[j.item]? with
      | none => []
      | some b => sliceRuns (slabRuns p.hdr b) (j.chunk * chunkBytes) chunkBytes

/-- DIGEST_CHUNK_DONE (R195, R199, R203): a lane finishes its chunk and takes the next. -/
def execDigestChunkDone (lane : Nat) (s : State) : Host.Outcome State Fault Refusal :=
  let s := fillLanes s
  match tget? s.lanes lane with
  | none => .next s
  | some j =>
    let s1 := bulkServed { s with lanes := tdrop s.lanes (· == lane) } 12
    match s.session? j.session with
    | none => .next (fillLanes s1)
    | some x =>
      if (s.ctx x.ctx).st ≠ .live then .next s
      else match readRuns s1 x.ctx (chunkRuns s x j) with
        | .error f => .next (digestFault s1 x f)
        | .ok (bs, s2) =>
          let leaf := sha256 bs
          let y := { x with hashed := x.hashed + bs.length }
          .next (fillLanes (setSession s2 j.session (match j.cut with
            | none => { y with leaves := tset y.leaves (j.item * 4096 + j.chunk) leaf }
            | some c => { y with foldLeaves := tset y.foldLeaves (foldKey c j.item j.chunk) leaf })))

/-- RINGMARK_OPEN (R188 to R190): the session opens once its descriptor and pages are checked. -/
def execRingmarkOpen (p : Pkt) (s : State) : Host.Outcome State Fault Refusal :=
  .next (fetchPacket s p 1 true true fun s =>
    let q := s.queue p.q
    let desc := pField p 8 8
    let bad := frontFault s p desc (illegalFault dBadRingmark)
    if q.session.isSome then bad
    else match vread s q.ctx desc 32 with
      | .error f => frontFault s p desc f
      | .ok (hb, s1) => match sessionHead hb with
        | none => bad
        | some (n, record) => match vread s1 q.ctx (desc + 32) (16 * n) with
          | .error f => frontFault s1 p desc f
          | .ok (ib, s2) => match (chunksOf 16 ib).mapM sessionItem with
            | none => bad
            | some items => match checkItems s2 q.ctx items with
              | .error f => (match pageFailure s2 f with
                | (s3, g) => frontFault s3 p desc g)
              | .ok s3 => match vcheck s3 q.ctx record 256 true with
                | .error f => (match pageFailure s3 f with
                  | (s4, g) => frontFault s4 p desc g)
                | .ok s4 =>
                  let x : Session := ⟨p.q, q.ctx, desc, (s4.ctx q.ctx).heritage, record, s4.boot.kreogVersion,
                    s4.boot.kreogBuild, items, [], [], 0, 0, [], 0, 0, []⟩
                  let id := s4.nextCmd
                  let s5 := startCmd { setSession s4 id x with sched := { s4.sched with digests := s4.sched.digests ++ [id] } } p
                    (newCmd s4 p .ringOpen)
                  fillLanes (s5.setQueue p.q { s5.queue p.q with session := some id }))

/-- ITEM_DIGESTS_DONE (R190): every item digest of an open is complete, and its queue goes on. -/
def execItemDigestsDone (cmd : Nat) (s : State) : Host.Outcome State Fault Refusal :=
  match tget? s.cmds cmd, s.session? cmd with
  | some c, some x =>
    if c.kind = .ringOpen ∧ (s.ctx c.ctx).st = .live ∧ x.itemsDone then .next (finishCmd s cmd) else .next s
  | _, _ => .next s

/-- The slab digests of a cut whose every chunk is hashed. -/
def foldDigests (cmd : Nat) (p : CutPass) (x : Session) : Option (List (List Byte)) :=
  ((List.range p.outSlabs.length).zip p.outSlabs).mapM fun b =>
    (leavesOf x.foldLeaves (foldKey cmd b.1 0) (runsLen (slabRuns p.hdr b.2))).map treeTop

/-- RINGMARK_FOLD_DONE (R193): the fold of a cut is complete; its completion is released. -/
def execRingmarkFoldDone (cmd : Nat) (s : State) : Host.Outcome State Fault Refusal :=
  match tget? s.cuts cmd with
  | none => .next s
  | some p => match p.session with
    | none => .next s
    | some (i, ord) => match s.session? i with
      | none => .next s
      | some x =>
        if !foldDue s p ∨ (s.ctx x.ctx).st ≠ .live then .next s
        else match foldDigests cmd p x with
          | none => .next s
          | some ds =>
            let new := ((List.range ds.length).zip ds).map fun d => (ord, d.1, d.2)
            .next (setSession { s with cuts := tset s.cuts cmd { p with folded := true } } i
              { x with folds := x.folds ++ new, foldedCuts := x.foldedCuts + 1, foldLeaves := dropFold x.foldLeaves cmd })

/-- The close of a session (R188, R192, R194): the record is written and the session closed. -/
def ringmarkClose (p : Pkt) (s : State) : State :=
  fetchPacket s p 1 true true (fun s =>
    let q := s.queue p.q
    match q.session with
    | none => frontFault s p 0 (illegalFault dBadRingmark)
    | some i => match s.session? i with
      | none => frontFault s p 0 (illegalFault dBadRingmark)
      | some x => match vcheck s q.ctx x.record 256 true with
        | .error f => packetFault (dropSession s i) p { f with addr := x.record, write := true }
        | .ok s1 =>
          let y := x.endMaps s1
          consume (dropSession (vwrite s1 q.ctx y.record (y.recordBytes s1 false)).1 i) p)

end Sys2Proof.Machine
end

