-- ==== Sys2Proof/Machine/Stop.lean ====
section
/-! DEFINITION. Work taken off the part: contexts reset and destroyed (R292, R372), queues that drain (R310), tenants
reset and destroyed (R289, R373), fence grants revoked (R325), fences released (R336), objects freed (R301 to R305). -/

namespace Sys2Proof.Machine

/-- The commands for which `p` holds are gone with all work of theirs. -/
def dropCommands (s : State) (p : Nat × Cmd → Bool) : State :=
  let ids := (s.cmds.filter p).map Prod.fst
  let mine := ids.contains
  let s1 := { s with
    cores := tmap s.cores fun _ c => { c.dropCmds mine with stores := c.stores.filter fun x => !mine x.cmd } }
  let ps := s1.sched.preempts.filter fun x => !mine x.victim && !mine x.waiter
  let sv := s1.sched.saved.filter fun x => !mine x.cmd
  let cp := match s1.sched.copying with
    | some i => if mine i then none else some i
    | none => none
  requeueEvery { s1 with
    cmds := tdrop s1.cmds mine
    cuts := tdrop s1.cuts mine
    renders := tdrop s1.renders mine
    sched := { s1.sched with
      preempts := ps
      saved := sv
      copying := cp
      binning := s1.sched.binning.filter fun e => !mine e.2
      digests := s1.sched.digests.filter fun i => !mine i }
    engines := tmap s1.engines fun _ x => match x.seg with
      | some r => if mine r.cut then { x with seg := none } else x
      | none => x }

/-- Sessions of a context discarded (R188). -/
def discardSessions (s : State) (c : Nat) : State :=
  s.sessions.foldl (fun s e => if e.2.ctx = c then dropSession s e.1 else s) s

/-- The loads of a context's graphs end. -/
def endLoadsOf (s : State) (c : Nat) : State :=
  s.ranger.graphs.foldl (fun s e =>
    if e.2.ctx = c ∧ !e.2.loaded then
      finalOn { s with ranger := { s.ranger with graphs := tdrop s.ranger.graphs (· == e.1) } } e.2.tenant 0x610 e.1 rRefused 0x20FF []
    else s) s

/-- Every group, pass and cut of a context stopped and discarded, with its waits and its sessions (Table 9.7, R372); every engine
and unit context of its tenant takes its reset values (R396). Unfetched commands are discarded. -/
def discardCtx (s : State) (c : Nat) : State :=
  let s1 := discardSessions (endRunsOf s c rRefused 0x20FF) c
  let s2 := dropCommands (discardWaits s1 c) fun e => e.2.ctx == c
  let t := (s.ctx c).tenant
  let s3 := stopBlazeOf (stopChipOf s2 fun _ g => g.1 == t) t
  s3.queues.foldl (fun s e =>
    if e.2.ctx = c && e.2.st != .free then
      let q := s.queue e.1
      report (s.setQueue e.1 { q with
        read := q.last
        st := if q.st = .live then .stopped else q.st }) e.1
    else s) s3

/-- What a context's reset or destruction does at once; its guarded fences are poisoned (R334). -/
def stopCtx (s : State) (c : Nat) (st : CtxSt) : State :=
  let g := guarded s c
  settle (g.map Act.poison) (setCtxSt (discardCtx s c) c st)

/-- Registers of the Prism block that name a fence lose their EN (Table 10.5). -/
def clearNames (s : State) (f : Nat) : State :=
  let off := fun (r : DWord) => if bitsOf r.toNat 13 0 = f then r &&& ~~~0x8000 else r
  { s with prism := { s.prism with
      pages := tmap s.prism.pages fun _ p => { p with doneFence := off p.doneFence }
      outs := tmap s.prism.outs fun _ o => { o with
        notify := off o.notify
        wbSync := off o.wbSync }
      layers := tmap s.prism.layers fun _ l =>
        if bitsOf l.pend.sync.toNat 45 32 = f then { l with pend := { l.pend with sync := l.pend.sync &&& ~~~0x800000000000 } }
        else l } }

/-- A saved group waits on a fence, its wait withdrawn (R330). -/
def Group.waitsOn (g : Group) (f : Nat) : Bool := match g.wait with
  | .fence n _ _ _ => n == f
  | _ => false

/-- The withdrawn waits of saved groups on a fence, of the contexts for which `p` holds, end as poisoned (R325, R330): the groups go
on from there when they are restored. -/
def endSavedWaits (s : State) (f : Nat) (p : Nat → Bool) : State :=
  let mine := fun (g : Group) => g.waitsOn f && p g.ctx
  let cs := s.sched.saved.flatMap fun e => e.wgs.flatMap fun w => (w.2.filter mine).map Group.ctx
  let sv := s.sched.saved.map fun e => { e with wgs := e.wgs.map fun w => (w.1, w.2.map fun g =>
    if mine g then (match g.wait with
      | .fence _ _ _ dst => { g.usetN false dst 1 with wait := .none, pc := g.pc + 8 }
      | _ => g) else g) }
  cs.foldl (fun s c => incBlock s c 132) { s with sched := { s.sched with saved := sv } }

/-- The waits of a tenant's contexts on a fence end as poisoned, and its host waits are disarmed (R325). -/
def endWaitsOf (s : State) (f t : Nat) : State × List Act :=
  let mine := fun (c : Nat) => (s.ctx c).tenant == t
  let s0 := endSavedWaits s f mine
  let s1 := (fwaiters s0 f).foldl (fun s e => if mine (s.group e.1).ctx then endFwait s e.1 1 else s) s0
  let (s2, as) := s1.queues.foldl (fun (acc : State × List Act) e => match e.2.wait with
    | none => acc
    | some w =>
      if w.fence = f && mine e.2.ctx then
        (acc.1, acc.2 ++ [.waitFault (waitFault acc.1 e.1 w cFencePoisoned 0) f])
      else acc) (s1, [])
  let s3 := (s2.tenant t).waits.foldl (fun s e => if e.2.armed && e.2.fence == f then endHostWait s t e.1 3 else s) s2
  (s3, as)

/-- A tenant's grant on a fence revoked (R325). -/
def revokeFence (s : State) (f t : Nat) : State :=
  let x := s.fence f
  let s1 := s.setFence f { x with
    grants := tdrop x.grants (· == t)
    binds := tdrop x.binds fun c => (s.ctx c).tenant == t }
  let (s2, as) := endWaitsOf s1 f t
  settle as s2

/-- A fence enters RELEASING (Table 10.5). -/
def releaseFence (s : State) (f : Nat) : State :=
  let s1 := endSavedWaits (settle [.poison f] s) f fun _ => true
  let s2 := (s1.fence f).grants.foldl (fun s g => revokeFence s f g.1) s1
  let s3 := s2.setFence f { s2.fence f with
    st := .releasing
    grants := []
    binds := [] }
  clearNames { s3 with bridges := s3.bridges.filter fun b => b.2.src != f && b.2.dst != f } f

/-- A fence that a context that is not FREE names as its FAULT_FENCE, or a bridge names (R336). -/
def fenceHeld (s : State) (f : Nat) : Bool :=
  (s.ctxs.any fun e => e.2.st != .free && e.2.faultFence == some f) || s.bridges.any fun b => b.2.src == f || b.2.dst == f

/-- A waiter, or an armed set, names a fence. -/
def fenceNamed (s : State) (f : Nat) : Bool :=
  !(fwaiters s f).isEmpty
    || (s.sched.saved.any fun e => e.wgs.any fun w => w.2.any fun g => g.waitsOn f)
    || (s.queues.any fun e => match e.2.wait with
      | some w => w.fence == f
      | none => false)
    || (s.tenants.any fun e => e.2.waits.any fun h => h.2.armed && h.2.fence == f)
    || (s.prism.sets.any fun x => x.done == some f || x.acquires.any fun r => r.acqFence == f)

/-- The queues of the tenants that may use an object, with their recorded points (R301). -/
def pointsOf (s : State) (x : Obj) : Tbl Nat :=
  s.queues.filterMap fun e =>
    let t := (s.ctx e.2.ctx).tenant
    if e.2.st != .free && objRight x t != 0 then some (e.1, e.2.last) else none

/-- An object enters RETIRING (R301). -/
def retireObj (s : State) (o : Nat) : State :=
  let x := s.obj o
  s.setObj o { x with
    st := .retiring
    points := pointsOf s x
    orphan := false }

/-- A share of an object taken back, after the invalidation of the sharer's contexts (R299). -/
def unshare (s : State) (o t : Nat) : State :=
  let x := s.obj o
  let s1 := s.setObj o { x with shares := tdrop x.shares (· == t) }
  s1.setMem { s1.mem with tlb := s1.mem.tlb.filter fun e => (s.ctx e.ctx).tenant != t }

/-- An object that holds a ring or report block of a queue, or a status block of a context, that is not FREE (R303). -/
def objHeld (s : State) (o : Nat) : Bool :=
  (s.queues.any fun e => e.2.st != .free && (e.2.ringObj == o || e.2.repObj == o))
    || s.ctxs.any fun e => e.2.st != .free && e.2.statObj == o

/-- The objects of destroyed owners that nothing holds any more become RETIRING (Table 9.10; log entry 115). -/
def retireOrphans (s : State) : State :=
  (s.objs.filter fun e => e.2.orphan && e.2.st == .live && !objHeld s e.1).foldl (fun s e => retireObj s e.1) s

/-- A tenant's layers leave the screen at the next flip deadline of their outputs (R257). -/
def dropLayers (s : State) (p : Nat → Bool) : State :=
  let ks := (s.prism.layerGrants.map Prod.fst).filter p
  { s with prism := { s.prism with drop := s.prism.drop ++ ks.filter fun k => !s.prism.drop.contains k } }

/-- Armed sets of a tenant discarded, its layers disabled at the next flip deadlines, its composition services stopped
(R257, R425). -/
def dropFlips (s : State) (t : Nat) : State :=
  let s1 := dropLayers (discardSets s fun x => x.tenant == t) fun k => tget? s.prism.layerGrants k == some t
  { s1 with prism := { s1.prism with compose := s1.prism.compose.filter fun e => e.2.tenant != t } }

/-- The error log cleared (Table 9.2 CLEAR). -/
def Tenant.clearLog (x : Tenant) : Tenant :=
  { x with logTotal := 0, logNext := 0, log := tmap x.log fun _ r => { r with kind := 0 } }

/-- Every host wait of a tenant disarmed (R343). -/
def Tenant.disarm (x : Tenant) : Tenant :=
  { x with waits := tmap x.waits fun _ h => if h.armed then { h with armed := false, outcome := 0 } else h }

/-- The contexts of a tenant that are not FREE. -/
def ctxsOf (s : State) (t : Nat) : List Nat := (s.ctxs.filter fun e => e.2.tenant == t && e.2.st != .free).map Prod.fst

/-- A tenant reset (Table 9.4, R373): each context of the tenant is reset, or joins a reset under way. -/
def resetTenant (s : State) (t : Nat) : State :=
  let s1 := (ctxsOf s t).foldl (fun s c =>
    if (s.ctx c).st = .live ∨ (s.ctx c).st = .faulted then stopCtx s c .resetting else s) s
  let s2 := stopBlazeOf (stopChipOf (dropFlips s1 t) fun _ g => g.1 == t) t
  s2.setTenant t { (s2.tenant t).clearLog.disarm with
    resetting := true
    envelope := none }

/-- A tenant reset ends once no context of the tenant is RESETTING. -/
def settleReset (s : State) (t : Nat) : State :=
  if (s.tenant t).resetting && (ctxsOf s t).all fun c => (s.ctx c).st != .resetting then
    finalAll (bump (s.setTenant t { s.tenant t with resetting := false }) uSched 0x170) 0x202 t rOk 0 []
  else s

/-- A context enters DESTROYING: stopped as for a reset, then every queue of it drains (Table 9.7). -/
def destroyCtx (s : State) (c : Nat) : State :=
  let s1 := stopCtx (endLoadsOf s c) c .destroying
  let s2 := { s1 with ranger := { s1.ranger with graphs := s1.ranger.graphs.filter fun e => e.2.ctx != c } }
  s2.queues.foldl (fun s e =>
    if e.2.ctx = c && e.2.st != .free then report (s.setQueue e.1 { s.queue e.1 with st := .draining }) e.1 else s) s2

/-- Engine grants of a tenant taken back. -/
def dropEngines (s : State) (t : Nat) : State :=
  let s1 := stopBlazeOf (stopChipOf s fun _ g => g.1 == t) t
  { s1 with chipGrants := s1.chipGrants.filter fun g => g.2.1 != t, blazeGrants := s1.blazeGrants.filter fun g => g.2 != t }

/-- The Beacon owner holds an output grant no longer: WB_TAP is cleared (R260). -/
def clearTap (s : State) (n : Nat) : State :=
  if beaconOwner s != none && outOwner s n == beaconOwner s then
    s.setOutput n { s.output n with wbCtl := (s.output n).wbCtl &&& ~~~2 }
  else s

/-- A tenant enters DESTROYING (Table 9.4, R304, Table 10.5). -/
def destroyTenant (s : State) (t : Nat) : State :=
  let s1 := (ctxsOf s t).foldl (fun s c => if (s.ctx c).st = .destroying then s else destroyCtx s c) s
  let s2 := (dropEngines (dropFlips s1 t) t)
  let s3 := (s2.objs.filter fun e => e.2.owner == t && e.2.st == .live).foldl (fun s e =>
    if objHeld s e.1 then s.setObj e.1 { s.obj e.1 with orphan := true } else retireObj s e.1) s2
  let s4 := (s3.objs.filter fun e => (tget? e.2.shares t).isSome).foldl (fun s e => unshare s e.1 t) s3
  let s5 := (s4.fences.filter fun e => (tget? e.2.grants t).isSome).foldl (fun s e => revokeFence s e.1 t) s4
  let own := (s5.fences.filter fun e => e.2.owner == t && (e.2.st == .live || e.2.st == .poisoned)).map Prod.fst
  let s6 := { s5 with ctxs := tmap s5.ctxs fun _ c => match c.faultFence with
    | some f => if own.contains f then { c with faultFence := none } else c
    | none => c }
  let s7 := own.foldl releaseFence s6
  let s8 := (List.range 4).foldl (fun s n => if outOwner s n = some t then clearTap s n else s) s7
  let s9 := { s8 with prism := { s8.prism with
    outGrants := s8.prism.outGrants.filter fun g => g.2 != t
    layerGrants := s8.prism.layerGrants.filter fun g => g.2 != t } }
  s9.setTenant t { (s9.tenant t).disarm with
    st := .destroying
    resetting := false
    envelope := none }

end Sys2Proof.Machine
end

