-- ==== Sys2Proof/Machine/Requests.lean ====
section
/-! DEFINITION. The Flume's requests of groups 0x01xx and 0x02xx (Tables 13.7 and 13.8), abort and self-reset (R417,
R418), and the events that end them (Tables 9.4, 9.7, 9.14). -/

namespace Sys2Proof.Machine

abbrev Outc := Host.Outcome State Fault Refusal

/-- The work of abandoned requests ends when Kreog next runs (R417). -/
def sweepAbandoned (s : State) (ch : Nat) : State :=
  let c := s.channel ch
  let s1 := s.setChannel ch { c with abandoned := [] }
  c.abandoned.foldl (fun s a =>
    if a.opcode = 0x611 then
      { s with ranger := { s.ranger with graphs := tmap s.ranger.graphs fun g x =>
          if g = a.arg then { x with run := x.run.map fun r => { r with cancel := true } } else x } }
    else if a.opcode = 0x630 then stopEngCtx s a.arg
    else s) s1
def sweepAll (s : State) : State := (List.range 17).foldl sweepAbandoned s

/-- An abort of a channel (R417). -/
def abortChannel (s : State) (ch : Nat) : State :=
  let c := s.channel ch
  let n := (c.aborts + 1) % 2 ^ 16
  let s0 := { s with ranger := { s.ranger with late := s.ranger.late.filter fun x => x.ch != ch } }
  let s1 := s0.setChannel ch { c with
    reqRead := c.last
    readIndex := c.replyWrite
    abandoned := c.abandoned ++ c.accepted
    accepted := []
    aborts := n }
  let s2 := postRecord s1 ch c.nextSeq 0 n 0 5 []
  if s2.ranger.up then sweepAbandoned s2 ch else s2

/-- An abort and a reset of a tenant (R418). -/
def selfReset (s : State) (t : Nat) : State := settleReset (resetTenant (abortChannel s t) t) t

/-- A write to FLUME_CTL of channel `ch` (Table 13.2). -/
def writeFlumeCtl (s : State) (a : Access) (ch : Nat) : State :=
  let c := s.channel ch
  let v := accMerge a (BitVec.ofNat 64 (c.vector * 2 ^ 32 + b2n c.notify * 2 ^ 16))
  let s1 := s.setChannel ch { c with
    vector := bitsOf v.toNat 42 32
    notify := v.getLsbD 16 }
  let on := accOnes a
  if on.getLsbD 1 && ch != i3cChannel then selfReset s1 ch else if on.getLsbD 0 then abortChannel s1 ch else s1

/-- ABORT: a write to FLUME_CTL with ABORT set. -/
def execAbort (a : Access) (t : Nat) (s : State) : Outc :=
  .next (ownPage s a t (flumeOff t 0x20) (writeFlumeCtl s { a with data := a.data ||| 1, be := a.be ||| 1 } t))

/-- SELF_RESET: a write to FLUME_CTL with SELF_RESET set. -/
def execSelfReset (a : Access) (t : Nat) (s : State) : Outc :=
  .next (ownPage s a t (flumeOff t 0x20) (writeFlumeCtl s { a with data := a.data ||| 2, be := a.be ||| 1 } t))

/-- PING (Table 13.7). -/
def execPing (r : Req) (s : State) : Outc :=
  .next (serve r 0x101 (some 0) (fun s => (s, .reply rOk 0 (leBytes 4 s.boot.kreogVersion ++ leBytes 4 s.boot.kreogBuild))) s)

/-- EVENT_MASK (Table 13.7, R416): bit k of MASK is the event with code k + 2. -/
def execEventMask (r : Req) (s : State) : Outc :=
  .next (serve r 0x102 (some 1) (fun s =>
    roleThen true 0 (paramFail r [(0, 4)] [(0, decide (reqField r 0 4 < 8))]) s
      (s.setChannel r.ch { s.channel r.ch with mask := reqField r 0 4 * 4 }, .ok)) s)

/-- The tenants of a port in a state. -/
def tenantsOn (s : State) (p : Nat) (st : TenantSt) : List Nat :=
  (List.range nTenants).filter fun t => (s.tenant t).st == st && (s.tenant t).port == p

/-- ROLL_CALL_LIST (Table 13.7). -/
def execRollCallList (r : Req) (s : State) : Outc :=
  .next (serve r 0x103 (some 0) (fun s =>
    let ts := tenantsOn s (s.tenant r.ch).port .gone
    roleThen (isM s r) 1 none s (s, .reply rOk 0 (leBytes 2 ts.length ++ ts.flatMap (fun t =>
      let x := s.tenant t
      leBytes 1 t ++ leBytes 1 (b2n x.pasid.isSome) ++ leBytes 2 x.rid ++ leBytes 4 (x.pasid.getD 0)) ++ [0, 0]))) s)

/-- The pair of requester ID and PASID of a request (Tables 13.7, 13.8). -/
def reqPair (r : Req) : Nat × Option Nat :=
  (reqField r 2 2, if bitOf (reqField r 1 1) 0 then some (reqField r 4 4 % 2 ^ 20) else none)

/-- A pair is bound on a port, the pair of tenant `but` apart (R286). -/
def pairBound (s : State) (p : Nat) (pr : Nat × Option Nat) (but : Option Nat) : Bool :=
  (List.range nTenants).any fun t =>
    let x := s.tenant t
    x.st != .free && x.port == p && x.rid == pr.1 && x.pasid == pr.2 && some t != but

/-- The final replies of a tenant that was GONE (R419). -/
def postHeld (s : State) (t : Nat) : State :=
  let c := s.channel t
  c.held.foldl (fun s a => postRecord s t a.seq rHostGone 0 a.tag 1 []) (s.setChannel t { c with held := [] })

/-- A GONE tenant rebound (Table 9.4). -/
def rebind (s : State) (t : Nat) (pr : Nat × Option Nat) : State :=
  postHeld (s.setTenant t { s.tenant t with
    st := .live
    rid := pr.1
    pasid := pr.2 }) t

/-- TENANT_REBIND (R286, R496, Table 13.7). -/
def execTenantRebind (r : Req) (s : State) : Outc :=
  .next (serve r 0x104 (some 2) (fun s =>
    let t := reqField r 0 1
    let p := (s.tenant r.ch).port
    roleThen (isM s r) 1 (paramFail r [(0, 1), (1, 1), (2, 2), (4, 4)]
      [(0, decide (t < nTenants) && (s.tenant t).st != .free), (1, decide (reqField r 1 1 < 2)), (4, decide (reqField r 4 4 < 2 ^ 20))]) s
      (if (s.tenant t).port ≠ p then (s, .denied 1)
       else if (s.tenant t).st ≠ .gone then (s, .badParam 0xFFFF)
       else if pairBound s p (reqPair r) (some t) then (s, .denied 11)
       else (rebind s t (reqPair r), .ok))) s)

/-- A port becomes READY at the final reply of ROLL_CALL_END (Table 16.4): no tenant of it is GONE or goes. -/
def settleRollCall (s : State) (p : Nat) : State :=
  if (s.port p).st = .rollCall ∧ tenantsOn s p .gone = [] ∧ tenantsOn s p .destroying = []
      ∧ (List.range nTenants).any (fun ch => (s.channel ch).accepted.any fun a => a.opcode == 0x105 && a.arg == p) then
    finalAll (s.setPort p { s.port p with st := .ready, shown := 3 }) 0x105 p rOk 0 []
  else s

/-- ROLL_CALL_END (Table 13.7, Table 16.4). -/
def execRollCallEnd (r : Req) (s : State) : Outc :=
  let p := (s.tenant r.ch).port
  .next (settleRollCall (serve r 0x105 (some 0) (fun s =>
    roleThen (isM s r) 1 none s
      (if (s.port p).st ≠ .rollCall then (s, .badParam 0xFFFF)
       else ((tenantsOn s p .gone).foldl destroyTenant s, .accepted p))) s) p)

/-- A tenant number that BEACON_OWNER or DISPLAY_AUTHORITY names for a port. -/
def namedFor (s : State) (t : Nat) : List Nat :=
  ([s.cfg.beaconOwner, s.cfg.displayAuth].filterMap id).filterMap fun e => if e.2 = t then some e.1 else none

/-- A FREE number that no key reserves for another port. -/
def numberFree (s : State) (p t : Nat) : Bool := (s.tenant t).st == .free && (namedFor s t).all fun q => q == p

/-- A slot that the part chooses (R285): an open choice among the FREE ones. -/
def pickSlot (s : State) (n : Nat) (free : Nat → Bool) : Option Nat × State :=
  let k := (Config.free s.freeTick).toNat % n
  let s1 := { s with freeTick := s.freeTick + 1 }
  if free k then (some k, s1) else (firstBelow n free, s1)

/-- A tenant slot goes from FREE to LIVE with its channel at its reset values (Table 9.4, Table 13.2). -/
def createTenant (s : State) (t p : Nat) (pr : Nat × Option Nat) : State :=
  (s.setTenant t { Tenant.free with
    st := .live
    port := p
    rid := pr.1
    pasid := pr.2 }).setChannel t .reset

/-- TENANT_CREATE (R285, R286, R287, R496). -/
def execTenantCreate (r : Req) (s : State) : Outc :=
  .next (serve r 0x201 (some 2) (fun s =>
    let p := (s.tenant r.ch).port
    roleThen (isM s r) 1 (paramFail r [(1, 1), (2, 2), (4, 4)]
      [(1, decide (reqField r 1 1 < 2)), (4, decide (reqField r 4 4 < 2 ^ 20))]) s
      (if pairBound s p (reqPair r) none then (s, .denied 11)
       else match pickSlot s nTenants (numberFree s p) with
         | (none, s1) => (s1, .noSlot 1)
         | (some t, s1) => (createTenant s1 t p (reqPair r), .reply rOk 0 (leBytes 1 t ++ [0, 0, 0])))) s)

/-- A request of a port manager names a tenant of its port (R287). -/
def managesIt (s : State) (r : Req) (t : Nat) : Bool := isM s r && (s.tenant t).port == (s.tenant r.ch).port

/-- TENANT_RESET (R373, R418, Table 9.4). -/
def execTenantReset (r : Req) (s : State) : Outc :=
  let t := reqField r 0 1
  .next (settleReset (serve r 0x202 (some 1) (fun s =>
    roleThen (isI r || r.ch == t || isM s r) 1 (paramFail r [(0, 1)] [(0, decide (t < nTenants) && (s.tenant t).st != .free)]) s
      (if !(isI r || r.ch == t || managesIt s r t) then (s, .denied 1)
       else if (s.tenant t).st ≠ .live then (s, .badParam 0xFFFF)
       else (resetTenant (abortChannel s t) t, .accepted t))) s) t)

/-- TENANT_DESTROY (R287, R497, Table 9.4): the manager is destroyed by RELEASE alone. -/
def execTenantDestroy (r : Req) (s : State) : Outc :=
  let t := reqField r 0 1
  .next (serve r 0x203 (some 1) (fun s =>
    roleThen (isM s r) 1 (paramFail r [(0, 1)] [(0, decide (t < nTenants) && (s.tenant t).st != .free)]) s
      (if !managesIt s r t then (s, .denied 1)
       else if t = r.ch then (s, .badParam 0xFFFF)
       else (if (s.tenant t).st = .destroying then s else destroyTenant s t, .accepted t))) s)

/-- A HOST object whose port has lost its link (Table 13.5). -/
def objGone (s : State) (o : Nat) : Bool := match paKind (s.obj o).base with
  | .host p _ => (s.port p).lost
  | _ => false

def Ans.hostGone : Ans := .reply rHostGone 0 []

/-- The status block of a context at creation (R291, R344, R377). -/
def freshBlock : Mem := ((Mem.writeNat [] 64 4 1).writeNat 112 2 0xFFFF).writeNat 140 2 0xFFFF

/-- Heap fields in range (Table 9.5). -/
def heapOk (va align : Nat) : Bool := va % align == 0 && decide (va < 2 ^ 48)

/-- CONTEXT_CREATE (R285, R290, Table 9.5). -/
def execContextCreate (r : Req) (s : State) : Outc :=
  .next (serve r 0x204 (some 12) (fun s =>
    let f := reqField r
    let t := r.ch
    let fe := bitOf (f 0 1) 1
    roleThen (!isI r) 4 (paramFail r [(0, 1), (2, 2), (4, 2), (6, 2), (8, 4), (12, 2), (14, 2), (16, 8), (24, 8), (32, 4), (36, 4), (40, 8)]
      [(0, decide (f 0 1 < 4)), (2, !fe || (decide (f 2 2 < nFences) && (s.fence (f 2 2)).st != .free)),
       (4, nameLive s (f 4 2) (f 6 2)), (12, nameLive s (f 12 2) (f 14 2)),
       (16, f 16 8 % 256 == 0 && decide (f 16 8 + 256 ≤ (s.obj (f 12 2)).size)),
       (24, heapOk (f 24 8) 32), (32, decide (f 32 4 ≤ 1048576)), (36, decide (f 36 4 ≤ 4096)), (40, heapOk (f 40 8) 16)]) s
      (if objRight (s.obj (f 4 2)) t = 0 ∨ objRight (s.obj (f 12 2)) t < 2 ∨ (fe ∧ fenceRight (s.fence (f 2 2)) t < 2) then (s, .denied 3)
       else if objGone s (f 4 2) ∨ objGone s (f 12 2) then (s, .hostGone)
       else match pickSlot s nCtxs fun c => (s.ctx c).st == .free with
         | (none, s1) => (s1, .noSlot 2)
         | (some c, s1) =>
           let x : Ctx :=
             { st := .live, tenant := t, heritage := bitOf (f 0 1) 0, rootObj := f 4 2, rootGen := f 6 2, rootPage := f 8 4
               statObj := f 12 2, statGen := f 14 2, statOff := f 16 8, faultFence := if fe then some (f 2 2) else none
               texVa := f 24 8, texCount := f 32 4, sampVa := f 40 8, sampCount := f 36 4, faults := 0, wdLimit := 2000000, block := freshBlock
               residentTicks := 0 }
           (objWrite (s1.setCtx c x) x.statObj x.statGen x.statOff (freshBlock.read 0 256), .reply rOk 0 (leBytes 4 c)))) s)

/-- A context slot that a request names exists. -/
def ctxHere (s : State) (c : Nat) : Bool := decide (c < nCtxs) && (s.ctx c).st != .free
/-- The sender may act on a context: its own, or any for the I3C channel. -/
def ownCtx (s : State) (r : Req) (c : Nat) : Bool := isI r || (s.ctx c).tenant == r.ch

/-- CONTEXT_RESET (R292, R372): it joins a reset under way. -/
def execContextReset (r : Req) (s : State) : Outc :=
  .next (serve r 0x205 (some 1) (fun s =>
    let c := reqField r 0 2
    roleThen true 0 (paramFail r [(0, 2)] [(0, ctxHere s c)]) s
      (if !ownCtx s r c then (s, .denied 2)
       else match (s.ctx c).st with
         | .live | .faulted => (stopCtx s c .resetting, .accepted c)
         | .resetting => (s, .accepted c)
         | _ => (s, .badParam 0xFFFF))) s)

/-- CONTEXT_DESTROY (R292). -/
def execContextDestroy (r : Req) (s : State) : Outc :=
  .next (serve r 0x206 (some 1) (fun s =>
    let c := reqField r 0 2
    roleThen (!isI r) 4 (paramFail r [(0, 2)] [(0, ctxHere s c)]) s
      (if !ownCtx s r c then (s, .denied 2)
       else if (s.ctx c).st = .live ∨ (s.ctx c).st = .faulted then (destroyCtx s c, .accepted c)
       else (s, .badParam 0xFFFF))) s)

/-- CONTEXT_SET_HEAPS (R290). -/
def execContextSetHeaps (r : Req) (s : State) : Outc :=
  .next (serve r 0x207 (some 8) (fun s =>
    let f := reqField r
    let c := f 0 2
    roleThen (!isI r) 4 (paramFail r [(0, 2), (4, 4), (8, 8), (16, 8), (24, 4)]
      [(0, ctxHere s c), (4, decide (f 4 4 ≤ 1048576)), (8, heapOk (f 8 8) 32), (16, heapOk (f 16 8) 16), (24, decide (f 24 4 ≤ 4096))]) s
      (if !ownCtx s r c then (s, .denied 2)
       else if s.cmds.any fun e => e.2.ctx == c && (e.2.kind == .dispatch || e.2.kind == .cut || e.2.kind == .render) then (s, .busy 3)
       else (s.setCtx c { s.ctx c with
         texVa := f 8 8
         texCount := f 4 4
         sampVa := f 16 8
         sampCount := f 24 4 }, .ok))) s)

/-- CONTEXT_QUERY (Table 13.8). -/
def execContextQuery (r : Req) (s : State) : Outc :=
  .next (serve r 0x208 (some 1) (fun s =>
    let c := reqField r 0 2
    roleThen true 0 (paramFail r [(0, 2)] [(0, ctxHere s c)]) s
      (if !ownCtx s r c then (s, .denied 2) else (s, .reply rOk 0 ((s.ctx c).block.read 0 256)))) s)

/-- TLB entries of a context for a range removed; 0 bytes stand for the whole address space (Table 9.19, R314). -/
def dropTlb (s : State) (c va n : Nat) : State :=
  s.setMem { s.mem with tlb := s.mem.tlb.filter fun e =>
    !(e.ctx == c && (n == 0 || decide (e.va < va + n ∧ va < e.va + e.len))) }

/-- The number that names a TLB invalidation. -/
def tlbArg (c va n : Nat) : Nat := (n * 2 ^ 64 + va) * 256 + c

/-- CONTEXT_TLB_INVALIDATE (R297, R314). -/
def execContextTlbInvalidate (r : Req) (s : State) : Outc :=
  .next (serve r 0x209 (some 6) (fun s =>
    let f := reqField r
    let c := f 0 2
    roleThen (!isI r) 4 (paramFail r [(0, 2), (8, 8), (16, 8)]
      [(0, ctxHere s c), (8, f 8 8 % 4096 == 0), (16, f 16 8 % 4096 == 0)]) s
      (if !ownCtx s r c then (s, .denied 2)
       else (dropTlb s c (f 8 8) (f 16 8), .accepted (tlbArg c (f 8 8) (f 16 8))))) s)

/-- CONTEXT_TLB_INVALIDATE_DONE (R314): no TLB holds an entry of the context for the range. -/
def execContextTlbInvalidateDone (c va n : Nat) (s : State) : Outc :=
  let arg := tlbArg c va n
  .next (if (List.range 17).any fun ch => (s.channel ch).accepted.any fun a => a.opcode == 0x209 && a.arg == arg then
      finalAll (dropTlb s c va n) 0x209 arg rOk 0 []
    else s)

/-- The queues of a tenant that are not FREE. -/
def queuesOf (s : State) (t : Nat) : List (Nat × Queue) :=
  s.queues.filter fun e => e.2.st != .free && (s.ctx e.2.ctx).tenant == t

/-- QUEUE_CREATE (R285, R306, R310, Table 9.11). -/
def execQueueCreate (r : Req) (s : State) : Outc :=
  .next (serve r 0x20A (some 8) (fun s =>
    let f := reqField r
    let t := r.ch
    let c := f 0 2
    let n := f 16 4
    let own := queuesOf s t
    roleThen (!isI r) 4 (paramFail r [(0, 2), (2, 1), (3, 1), (4, 2), (6, 2), (8, 8), (16, 4), (20, 2), (22, 2), (24, 8)]
      [(0, ctxHere s c), (3, decide (f 3 1 < 8)), (4, nameLive s (f 4 2) (f 6 2)),
       (8, f 8 8 % 4096 == 0 && decide (f 8 8 + n ≤ (s.obj (f 4 2)).size)),
       (16, decide (4096 ≤ n ∧ n ≤ 16777216) && n == 2 ^ Nat.log2 n), (20, nameLive s (f 20 2) (f 22 2)),
       (24, f 24 8 % 16 == 0 && decide (f 24 8 + 16 ≤ (s.obj (f 20 2)).size))]) s
      (if (s.ctx c).tenant ≠ t ∨ (s.obj (f 4 2)).owner ≠ t then (s, .denied 2)
       else if objRight (s.obj (f 20 2)) t < 2 then (s, .denied 3)
       else if objGone s (f 4 2) ∨ objGone s (f 20 2) then (s, .hostGone)
       else if (s.ctx c).st = .destroying then (s, .badParam 0xFFFF)
       else if own.any fun e => e.2.door == f 2 1 then (s, .noSlot 11)
       else if (s.ctx c).heritage ∧ 4 ≤ (own.filter fun e => e.2.ctx == c).length then (s, .noSlot 12)
       else match pickSlot s nQueues fun q => (s.queue q).st == .free with
         | (none, s1) => (s1, .noSlot 3)
         | (some q, s1) =>
           (report (s1.setQueue q { Queue.free with
             st := if (s.ctx c).st = .live then .live else .stopped
             ctx := c
             door := f 2 1
             ringObj := f 4 2
             ringGen := f 6 2
             ringOff := f 8 8
             ringBytes := n
             repObj := f 20 2
             repGen := f 22 2
             repOff := f 24 8
             prio := f 3 1
             wdLimit := 2000000 }) q, .reply rOk 0 (leBytes 4 q)))) s)

/-- A queue slot that a request names exists. -/
def queueHere (s : State) (q : Nat) : Bool := decide (q < nQueues) && (s.queue q).st != .free

/-- A queue drains (Table 9.14, R331): its FENCE_WAIT is discarded, and what it has started stops at its next boundary. -/
def drainQueue (s : State) (q : Nat) : State :=
  let x := s.queue q
  let s1 := s.setQueue q { x with
    st := .draining
    wait := none }
  let s2 := dropCommands s1 fun e => e.2.queue == q && e.2.kind == .fenceWait
  report (x.session.elim s2 (dropSession s2)) q

/-- QUEUE_DESTROY (R310). -/
def execQueueDestroy (r : Req) (s : State) : Outc :=
  .next (serve r 0x20B (some 1) (fun s =>
    let q := reqField r 0 2
    roleThen (!isI r) 4 (paramFail r [(0, 2)] [(0, queueHere s q)]) s
      (if (s.ctx (s.queue q).ctx).tenant ≠ r.ch then (s, .denied 2)
       else if (s.queue q).service then (s, .busy 1)
       else (if (s.queue q).st = .draining then s else drainQueue s q, .accepted q))) s)

/-- WATCHDOG_SET (Table 11.5, R367 to R369). -/
def execWatchdogSet (r : Req) (s : State) : Outc :=
  .next (serve r 0x20C (some 2) (fun s =>
    let f := reqField r
    let k := f 0 1
    let i := f 2 2
    roleThen (!isI r) 4 (paramFail r [(0, 1), (2, 2), (4, 4)]
      [(0, decide (k < 2)), (2, if k = 0 then queueHere s i else ctxHere s i), (4, f 4 4 == 0 || decide (1000 ≤ f 4 4))]) s
      (if k = 0 then
         (if (s.ctx (s.queue i).ctx).tenant ≠ r.ch then (s, .denied 2)
          else (s.setQueue i { s.queue i with wdLimit := f 4 4 }, .ok))
       else if (s.ctx i).tenant ≠ r.ch then (s, .denied 2)
       else (s.setCtx i { s.ctx i with wdLimit := f 4 4 }, .ok))) s)

/-- The status block after a context reset (Table 9.7, R344, R377). -/
def resetBlock (s : State) (c : Nat) : State :=
  let z := fun (s : State) (e : Nat × Nat × Nat) => setBlock s c e.1 e.2.1 e.2.2
  let s1 := incBlock s c 92
  let flags := blockNat s c 5 1
  ([(5, 1, flags - flags % 2), (40, 4, 0), (112, 2, 0xFFFF), (114, 1, 0), (115, 1, 0), (116, 4, 0), (128, 8, 0), (136, 4, 0), (140, 2, 0xFFFF)]
    ++ (List.range 4).map fun i => (144 + 8 * i, 8, 0)).foldl z s1

/-- CONTEXT_RESET_DONE (Table 9.7): nothing of the context remains on any core, binner or engine. -/
def execContextResetDone (c : Nat) (s : State) : Outc :=
  .next (if (s.ctx c).st ≠ .resetting then s
    else
      let s1 := setCtxSt (resetBlock s c) c .live
      let s2 := s1.queues.foldl (fun s e =>
        if e.2.ctx = c && e.2.st == .stopped then report (s.setQueue e.1 { s.queue e.1 with st := .live }) e.1 else s) s1
      settleReset (finalAll (bump s2 uSched 0x168) 0x205 c rOk 0 []) (s.ctx c).tenant)

/-- Something of a command is still on a core: workgroups, a tile short of its boundary, a store not acknowledged. -/
def workLeft (s : State) (id : Nat) : Bool :=
  storesOf s id || s.cores.any fun e =>
    (e.2.wgs.any fun w => w.2.live && w.2.cmd == id)
      || e.2.holder == some id && (e.2.run.isSome || e.2.raster.isSome)

/-- QUEUE_FREED (Table 9.14): nothing of the queue remains on the device once what it had started has stopped at its
boundaries and is discarded. -/
def execQueueFreed (q : Nat) (s : State) : Outc :=
  let x := s.queue q
  .next (if x.st ≠ .draining ∨ s.cmds.any (fun e => e.2.queue == q && workLeft s e.1) then s
    else
      let s1 := dropCommands s fun e => e.2.queue == q
      let s2 := x.session.elim s1 (dropSession s1)
      let s3 := { s2 with
        objs := tmap s2.objs fun _ o => { o with points := tdrop o.points (· == q) }
        sched := { s2.sched with boosts := s2.sched.boosts.filter fun b => b.queue != q } }
      finalAll (retireOrphans (s3.setQueue q .free)) 0x20B q rOk 0 [])

/-- CONTEXT_FREED (Table 9.7): nothing of the context remains, and every TLB entry of it is removed. -/
def execContextFreed (c : Nat) (s : State) : Outc :=
  .next (if (s.ctx c).st ≠ .destroying ∨ s.queues.any (fun e => e.2.ctx == c && e.2.st != .free) then s
    else
      let s1 := dropTlb s c 0 0
      let s2 := s1.setMem { s1.mem with icache := s1.mem.icache.filter fun e => e.ctx != c }
      let s3 := { s2 with
        chipGrants := s2.chipGrants.filter fun g => g.2.2 != c
        fences := tmap s2.fences fun _ f => { f with
          binds := tdrop f.binds (· == c)
          guard := if f.guard = some c then none else f.guard } }
      finalAll (retireOrphans (s3.setCtx c .free)) 0x206 c rOk 0 [])

/-- The RELEASE of a port ends (Table 16.4): no tenant of it remains. -/
def settleRelease (s : State) (p : Nat) : State :=
  if (s.port p).st = .releasing ∧ (List.range nTenants).all fun t => (s.tenant t).st == .free || (s.tenant t).port != p then
    s.setPort p { s.port p with
      st := .calling
      shown := 1
      rcResult := 0
      rcPending := false
      bound := false
      rcTenant := 0
      manager := none }
  else s

/-- TENANT_FREED (Table 9.4): no context, queue or armed set of the tenant remains. -/
def execTenantFreed (t : Nat) (s : State) : Outc :=
  let x := s.tenant t
  .next (if x.st ≠ .destroying ∨ ctxsOf s t ≠ [] ∨ queuesOf s t ≠ [] ∨ s.prism.sets.any (fun y => y.tenant == t) then s
    else
      let s0 := (s.setTenant t .free).setChannel t .reset
      let s1 := s0.setPort x.port { s0.port x.port with
        manager := if (s0.port x.port).manager = some t then none else (s0.port x.port).manager }
      let s2 := { s1 with
        prism := { s1.prism with pages := tdrop s1.prism.pages (· == t) }
        objs := tmap s1.objs fun _ o => if o.owner == t then { o with owner := 0xFF } else o }
      settleRelease (settleRollCall (finalAll s2 0x203 t rOk 0 []) x.port) x.port)

end Sys2Proof.Machine
end

