-- ==== Sys2Proof/Machine/ObjectReq.lean ====
section
/-! DEFINITION. Memory objects and fences through the Flume (Tables 13.9 and 13.10, R298 to R305, R324, R325, R336 to
R341) and the events that end their lives. -/

namespace Sys2Proof.Machine

/-- Alignment of a base (R298). -/
def baseAlign (n : Nat) : Nat := if 2 ^ 30 ≤ n then 2 ^ 30 else if 2 ^ 21 ≤ n then 2 ^ 21 else 2 ^ 16

/-- DRAM ranges of objects that are not FREE: base and size. -/
def dramRanges (s : State) : List (Nat × Nat) :=
  (s.objs.filter fun e => e.2.st != .free && !e.2.host).map fun e => (e.2.base, e.2.size)

/-- A range of usable DRAM that no object holds. -/
def rangeFree (s : State) (b n : Nat) : Bool :=
  decide (b + n ≤ s.boot.dramBytes) && (dramRanges s).all fun e => decide (b + n ≤ e.1 ∨ e.1 + e.2 ≤ b)

/-- A base for a DRAM object (R298): an open choice among the free ranges; when there is one, it starts at 0 or after
another object. -/
def pickBase (s : State) (n : Nat) : Option Nat × State :=
  let al := baseAlign n
  let k := (Config.free s.freeTick).toNat % 2 ^ 36 / al * al
  let s1 := { s with freeTick := s.freeTick + 1 }
  if rangeFree s k n then (some k, s1)
  else (((0 :: (dramRanges s).map fun e => ceilDiv (e.1 + e.2) al * al)).find? fun b => rangeFree s b n, s1)

/-- The FREE slot that has been free the longest (R304, R324); slots never used come first. -/
def oldestFree (n : Nat) (free : Nat → Bool) (freed : Nat → Nat) : Option Nat :=
  match leastOf ((((List.range n).filter free).map freed)) with
  | none => none
  | some m => firstBelow n fun k => free k && freed k == m

def freeObj (s : State) : Option Nat := oldestFree nObjs (fun k => (s.obj k).st == .free) fun k => (s.obj k).freed
def freeFence (s : State) : Option Nat := oldestFree nFences (fun k => (s.fence k).st == .free) fun k => (s.fence k).freed

/-- A DRAM range filled with zeros (R298), its poison marks gone. -/
def zeroDram (s : State) (b n : Nat) : State :=
  s.setMem { s.mem with
    dram := s.mem.dram.erase b n
    poison := s.mem.poison.filter fun w => !(decide (b ≤ w * 8) && decide (w * 8 < b + n)) }

/-- A LIVE object in a slot (Table 9.10). -/
def createObj (s : State) (o : Nat) (host : Bool) (b n t : Nat) : State :=
  s.setObj o { s.obj o with
    st := .live
    host := host
    base := b
    size := n
    owner := t
    shares := []
    points := [] }

/-- A HOST range inside the window of a port (R298). -/
def hostRange (p b n : Nat) : Bool :=
  let w := 0x8000000000 + p * 2 ^ 36
  decide (w ≤ b ∧ b + n ≤ w + 2 ^ 36) && b % baseAlign n == 0

def objName (s : State) (o : Nat) : List Byte := leBytes 2 o ++ leBytes 2 (s.obj o).gen

/-- OBJECT_CREATE (R298, R304, Table 9.10). -/
def execObjectCreate (r : Req) (s : State) : Outc :=
  .next (serve r 0x301 (some 6) (fun s =>
    let f := reqField r
    let n := f 8 8
    let host := f 0 1 == 1
    let p := (s.tenant r.ch).port
    roleThen (!isI r) 4 (paramFail r [(0, 1), (8, 8), (16, 8)]
      [(0, decide (f 0 1 < 2)), (8, n % 65536 == 0 && decide (65536 ≤ n ∧ n ≤ 2 ^ 36)),
       (16, if host then hostRange p (f 16 8) n else f 16 8 == 0)]) s
      (match freeObj s with
       | none => (s, .noSlot 4)
       | some o =>
         if host then
           (if (s.port p).lost then (s, .hostGone)
            else (createObj s o true (f 16 8) n r.ch, .reply rOk 0 (objName s o)))
         else match pickBase s n with
           | (none, s1) => (s1, .noSlot 7)
           | (some b, s1) => (createObj (zeroDram s1 b n) o false b n r.ch, .accepted o))) s)

/-- OBJECT_ZERO_DONE (R298): the object is zero, and the create request has its final reply. -/
def execObjectZeroDone (o : Nat) (s : State) : Outc := .next (finalAll s 0x301 o rOk 0 (objName s o))

/-- The parameter checks of a request that names an object in bytes 0 to 3. -/
def objChecks (r : Req) (s : State) (listed : List (Nat × Nat)) (more : List (Nat × Bool)) : Option Nat :=
  paramFail r ([(0, 2), (2, 2)] ++ listed) ((0, nameLive s (reqField r 0 2) (reqField r 2 2)) :: more)

/-- A tenant that a field names. -/
def tenantHere (s : State) (t : Nat) : Bool := decide (t < nTenants) && (s.tenant t).st != .free

/-- OBJECT_FREE (R301, R303). -/
def execObjectFree (r : Req) (s : State) : Outc :=
  .next (serve r 0x302 (some 1) (fun s =>
    let o := reqField r 0 2
    roleThen (!isI r) 4 (objChecks r s [] []) s
      (if (s.obj o).owner ≠ r.ch then (s, .denied 2)
       else if objHeld s o then (s, .busy 1)
       else (retireObj s o, .ok))) s)

/-- OBJECT_SHARE (R299): a HOST object only with tenants of the same port. -/
def execObjectShare (r : Req) (s : State) : Outc :=
  .next (serve r 0x303 (some 2) (fun s =>
    let o := reqField r 0 2
    let t := reqField r 4 1
    let x := s.obj o
    roleThen (!isI r) 4 (objChecks r s [(4, 1), (5, 1)]
      [(4, tenantHere s t && t != x.owner && (!x.host || (s.tenant t).port == (s.tenant x.owner).port)),
       (5, decide (1 ≤ reqField r 5 1 ∧ reqField r 5 1 ≤ 2))]) s
      (if x.owner ≠ r.ch then (s, .denied 2)
       else (s.setObj o { x with shares := tset x.shares t (reqField r 5 1) }, .ok))) s)

/-- OBJECT_REVOKE (R299). -/
def execObjectRevoke (r : Req) (s : State) : Outc :=
  .next (serve r 0x304 (some 2) (fun s =>
    let o := reqField r 0 2
    let t := reqField r 4 1
    roleThen (!isI r) 4 (objChecks r s [(4, 1)] [(4, tenantHere s t)]) s
      (if (s.obj o).owner ≠ r.ch then (s, .denied 2) else (unshare s o t, .ok))) s)

/-- OBJECT_QUERY (R300): it names a RETIRING object too. -/
def execObjectQuery (r : Req) (s : State) : Outc :=
  .next (serve r 0x305 (some 1) (fun s =>
    let o := reqField r 0 2
    let x := s.obj o
    roleThen (!isI r) 4 (paramFail r [(0, 2), (2, 2)] [(0, x.st != .free && x.gen == reqField r 2 2)]) s
      (if objRight x r.ch = 0 then (s, .denied 3)
       else
        let sharers := (List.range nTenants).foldl (fun a t => a + if (tget? x.shares t).isSome then 2 ^ t else 0) 0
        (s, .reply rOk 0 (leBytes 1 (if x.st = .live then 1 else 2) ++ leBytes 1 (b2n x.host) ++ leBytes 2 x.gen
          ++ leBytes 1 x.owner ++ [0] ++ leBytes 2 sharers ++ leBytes 8 x.size)))) s)

/-- Every command of a queue before a recorded point has completed (R302). -/
def pointPassed (s : State) (q point : Nat) : Bool :=
  (s.queue q).st == .free || decide ((doneIndex s q + 2 ^ 32 - point) % 2 ^ 32 < 2 ^ 31)

/-- A Prism layer, an armed set or a write-back target names an object (R254, R302). -/
def prismNames (s : State) (o g : Nat) : Bool :=
  let names := fun (r : LayerRegs) => r.enable && r.obj == o && r.gen == g
  (s.prism.layers.any fun e => names e.2.act) || (s.prism.sets.any fun x => x.snap.any fun e => names e.2)
    || s.prism.outs.any fun e =>
      e.2.wbCtl.getLsbD 0 && bitsOf e.2.wbDst.toNat 47 32 == o && bitsOf e.2.wbDst.toNat 63 48 == g

/-- An engine context or a service request names an object (R302). -/
def serviceNames (s : State) (o : Nat) : Bool :=
  (s.engCtxs.any fun e => match e.2.job with
    | some j => (match j.xfer with
      | some z => z.srcObj == o || z.dstObj == o
      | none => false)
    | none => false)
  || (s.prism.compose.any fun e => e.2.obj == o)
  || (match s.ranger.stage with
    | some x => x.obj == o
    | none => false)

/-- OBJECT_RECLAIM (R254, R302, Table 9.10). -/
def execObjectReclaim (o : Nat) (s : State) : Outc :=
  let x := s.obj o
  .next (if x.st ≠ .retiring ∨ !(x.points.all fun e => pointPassed s e.1 e.2) ∨ prismNames s o x.gen
      ∨ serviceNames s o then s
    else
      let s1 := s.setMem { s.mem with tlb := s.mem.tlb.filter fun e => e.obj != o }
      { s1.setObj o { Obj.reset with
          gen := if x.gen = 0xFFFF then 1 else x.gen + 1
          freed := s1.objFrees + 1 } with objFrees := s1.objFrees + 1 })

/-- A fence that a request names. -/
def fenceHere (s : State) (f : Nat) : Bool :=
  decide (f < nFences) && ((s.fence f).st == .live || (s.fence f).st == .poisoned)

/-- FENCE_CREATE (R324, Table 10.2, Table 10.5). -/
def execFenceCreate (r : Req) (s : State) : Outc :=
  .next (serve r 0x401 (some 4) (fun s =>
    let f := reqField r
    let h := bitOf (f 8 1) 0
    let g := bitOf (f 8 1) 1
    roleThen (!isI r) 4 (paramFail r [(0, 8), (8, 1), (10, 2)]
      [(0, decide (f 0 8 ≤ if h then 0xFFFFFFFF else 2 ^ 64 - 2)), (8, decide (f 8 1 < 8)),
       (10, !g || (ctxHere s (f 10 2) && (s.ctx (f 10 2)).tenant == r.ch))]) s
      (match freeFence s with
       | none => (s, .noSlot 5)
       | some n =>
         (s.setFence n { Fence.reset with
           st := .live
           value := BitVec.ofNat 64 (f 0 8)
           heritage := h
           owner := r.ch
           guard := if g then some (f 10 2) else none
           named := g
           onGone := bitOf (f 8 1) 2
           freed := (s.fence n).freed }, .reply rOk 0 (leBytes 4 n)))) s)

/-- FENCE_FREE (R336). -/
def execFenceFree (r : Req) (s : State) : Outc :=
  .next (serve r 0x402 (some 1) (fun s =>
    let f := reqField r 0 2
    roleThen (!isI r) 4 (paramFail r [(0, 2)] [(0, fenceHere s f)]) s
      (if (s.fence f).owner ≠ r.ch then (s, .denied 2)
       else if fenceHeld s f then (s, .busy 1)
       else (releaseFence s f, .accepted f))) s)

/-- FENCE_RELEASED (Table 10.5): no waiter and no armed set names the fence. -/
def execFenceReleased (f : Nat) (s : State) : Outc :=
  .next (if (s.fence f).st ≠ .releasing ∨ fenceNamed s f then s
    else
      let s1 := { s.setFence f { Fence.reset with freed := s.fenceFrees + 1 } with fenceFrees := s.fenceFrees + 1 }
      finalAll s1 0x402 f rOk 0 [])

/-- FENCE_SHARE (R325): bindings that exceed the new right are lowered to it. -/
def execFenceShare (r : Req) (s : State) : Outc :=
  .next (serve r 0x403 (some 1) (fun s =>
    let f := reqField r 0 2
    let t := reqField r 2 1
    let k := reqField r 3 1
    let x := s.fence f
    roleThen (!isI r) 4 (paramFail r [(0, 2), (2, 1), (3, 1)]
      [(0, fenceHere s f), (2, tenantHere s t && t != x.owner), (3, decide (1 ≤ k ∧ k ≤ 2))]) s
      (if x.owner ≠ r.ch then (s, .denied 2)
       else (s.setFence f { x with
         grants := tset x.grants t k
         binds := tmap x.binds fun c b => if (s.ctx c).tenant = t then min b k else b }, .ok))) s)

/-- FENCE_REVOKE (R325). -/
def execFenceRevoke (r : Req) (s : State) : Outc :=
  .next (serve r 0x404 (some 1) (fun s =>
    let f := reqField r 0 2
    let t := reqField r 2 1
    roleThen (!isI r) 4 (paramFail r [(0, 2), (2, 1)] [(0, fenceHere s f), (2, tenantHere s t)]) s
      (if (s.fence f).owner ≠ r.ch then (s, .denied 2)
       else if (tget? (s.fence f).grants t).isNone then (s, .ok)
       else (revokeFence s f t, .ok))) s)

/-- FENCE_BIND (R325, R339). -/
def execFenceBind (r : Req) (s : State) : Outc :=
  .next (serve r 0x405 (some 2) (fun s =>
    let f := reqField r 0 2
    let c := reqField r 2 2
    let k := reqField r 4 1
    let x := s.fence f
    roleThen (!isI r) 4 (paramFail r [(0, 2), (2, 2), (4, 1)]
      [(0, fenceHere s f), (2, ctxHere s c && x.heritage == (s.ctx c).heritage), (4, decide (1 ≤ k ∧ k ≤ 2))]) s
      (if (s.ctx c).tenant ≠ r.ch then (s, .denied 2)
       else if fenceRight x r.ch < k then (s, .denied 3)
       else (s.setFence f { x with binds := tset x.binds c k }, .ok))) s)

/-- A wait of a context on a fence is registered. -/
def ctxWaits (s : State) (c f : Nat) : Bool :=
  ((fwaiters s f).any fun e => (s.group e.1).ctx == c) || s.queues.any fun e => match e.2.wait with
    | some w => w.fence == f && e.2.ctx == c
    | none => false

/-- FENCE_UNBIND (R325). -/
def execFenceUnbind (r : Req) (s : State) : Outc :=
  .next (serve r 0x406 (some 1) (fun s =>
    let f := reqField r 0 2
    let c := reqField r 2 2
    let x := s.fence f
    roleThen (!isI r) 4 (paramFail r [(0, 2), (2, 2)] [(0, fenceHere s f), (2, ctxHere s c)]) s
      (if (s.ctx c).tenant ≠ r.ch then (s, .denied 2)
       else if (tget? x.binds c).isNone then (s, .badParam 0xFFFF)
       else if ctxWaits s c f then (s, .busy 1)
       else (s.setFence f { x with binds := tdrop x.binds (· == c) }, .ok))) s)

/-- FENCE_SIGNAL through the Flume (R320, R322, R337). -/
def execFlumeFenceSignal (r : Req) (s : State) : Outc :=
  .next (serve r 0x407 (some 4) (fun s =>
    let f := reqField r 0 2
    let v : DWord := BitVec.ofNat 64 (reqField r 8 8)
    roleThen (!isI r) 4 (paramFail r [(0, 2), (8, 8)] [(0, fenceHere s f)]) s
      (if fenceRight (s.fence f) r.ch < 2 then (s, .denied 3)
       else (settle [.signal .flume f v] s, .reply rOk (b2n ((s.fence f).signal v).2) []))) s)

/-- FENCE_POISON through the Flume (R334). -/
def execFlumeFencePoison (r : Req) (s : State) : Outc :=
  .next (serve r 0x408 (some 1) (fun s =>
    let f := reqField r 0 2
    roleThen true 0 (paramFail r [(0, 2)] [(0, fenceHere s f)]) s
      (if !isI r ∧ fenceRight (s.fence f) r.ch < 2 then (s, .denied 3) else (settle [.poison f] s, .ok))) s)

/-- Waiters registered on a fence. -/
def waitersOn (s : State) (f : Nat) : Nat :=
  (fwaiters s f).length
    + (s.queues.filter fun e => match e.2.wait with
      | some w => w.fence == f
      | none => false).length
    + (s.tenants.map fun e => (e.2.waits.filter fun h => h.2.armed && h.2.fence == f).length).sum
    + (s.prism.sets.map fun x => if x.ready then 0 else (x.acquires.filter fun r => r.acqFence == f).length).sum
    + (s.bridges.filter fun b => b.2.src == f).length

/-- FENCE_INFO as a tenant with a right reads it (Table 10.6). -/
def fenceInfo (s : State) (f right : Nat) : Nat :=
  let x := s.fence f
  waitersOn s f * 2 ^ 32 + x.owner * 2 ^ 20 + right * 2 ^ 16 + 16 * b2n (x.named || x.onGone)
    + 8 * b2n (s.bridges.any fun b => b.2.src == f || b.2.dst == f) + 4 * b2n x.heritage + 2 * b2n x.flag + b2n (x.st != .free)

/-- FENCE_QUERY (R332, Table 13.10). -/
def execFenceQuery (r : Req) (s : State) : Outc :=
  .next (serve r 0x409 (some 1) (fun s =>
    let f := reqField r 0 2
    let k := if isI r then 0 else fenceRight (s.fence f) r.ch
    roleThen true 0 (paramFail r [(0, 2)] [(0, decide (f < nFences) && (s.fence f).st != .free)]) s
      (if !isI r ∧ k = 0 then (s, .denied 3)
       else (s, .reply rOk 0 (leBytes 8 (s.fence f).value.toNat ++ leBytes 8 (fenceInfo s f k))))) s)

/-- A fence in a bridge. -/
def bridged (s : State) (f : Nat) : Bool := s.bridges.any fun b => b.2.src == f || b.2.dst == f

/-- BRIDGE_CREATE (R340). -/
def execBridgeCreate (r : Req) (s : State) : Outc :=
  .next (serve r 0x40A (some 1) (fun s =>
    let a := reqField r 0 2
    let b := reqField r 2 2
    let x := s.fence a
    let y := s.fence b
    roleThen (!isI r) 4 (paramFail r [(0, 2), (2, 2)] [(0, fenceHere s a), (2, fenceHere s b && x.heritage != y.heritage)]) s
      (if fenceRight x r.ch = 0 ∨ fenceRight y r.ch < 2 then (s, .denied 3)
       else if bridged s a ∨ bridged s b then (s, .busy 1)
       else match pickSlot s 256 fun k => (tget? s.bridges k).isNone with
         | (none, s1) => (s1, .noSlot 6)
         | (some k, s1) =>
           ({ s1 with bridges := tset s1.bridges k ⟨r.ch, a, b, x.value.toNat, y.value.toNat, x.adv, 0⟩ },
            .reply rOk 0 (leBytes 4 k)))) s)

/-- BRIDGE_REMOVE (R341, Table 13.10). -/
def execBridgeRemove (r : Req) (s : State) : Outc :=
  .next (serve r 0x40B (some 1) (fun s =>
    let k := reqField r 0 1
    roleThen (!isI r) 4 (paramFail r [(0, 1)] [(0, (tget? s.bridges k).isSome)]) s
      (match tget? s.bridges k with
       | none => (s, .badParam 0)
       | some b =>
         if b.creator = r.ch ∨ (s.fence b.src).owner = r.ch ∨ (s.fence b.dst).owner = r.ch then
           ({ s with bridges := tdrop s.bridges (· == k) }, .ok)
         else (s, .denied 2))) s)

/-- BRIDGE_UPDATE (R341): a bridge does not advance while Kreog does not run. -/
def execBridgeUpdate (b : Nat) (s : State) : Outc := .next (if s.ranger.up then updateBridge s b else s)

end Sys2Proof.Machine
end

