-- ==== Sys2Proof/Machine/Services.lean ====
section
/-! DEFINITION. Grants of outputs, layers and engines (Tables 13.11, 13.12), and the resident services: graphs,
composition and transfers (R422 to R426). -/

namespace Sys2Proof.Machine

/-- OUTPUT_GRANT (R241, Table 13.11). -/
def execOutputGrant (r : Req) (s : State) : Outc :=
  .next (serve r 0x501 (some 1) (fun s =>
    let n := reqField r 0 1
    let t := reqField r 1 1
    roleThen (isA s r || isI r) 5 (paramFail r [(0, 1), (1, 1)] [(0, decide (n < 4)), (1, tenantHere s t)]) s
      (match outOwner s n with
       | some o => if o = t then (s, .ok) else (s, .busy 1)
       | none => ({ s with prism := { s.prism with outGrants := tset s.prism.outGrants n t } }, .ok))) s)

/-- OUTPUT_REVOKE (R260, Table 13.11): registers keep their values. -/
def execOutputRevoke (r : Req) (s : State) : Outc :=
  .next (serve r 0x502 (some 1) (fun s =>
    let n := reqField r 0 1
    roleThen (isA s r || isI r || (n < 4 && outOwner s n == some r.ch)) 5 (paramFail r [(0, 1)] [(0, decide (n < 4))]) s
      (let s1 := clearTap s n
       ({ s1 with prism := { s1.prism with outGrants := tdrop s1.prism.outGrants (· == n) } }, .ok))) s)

/-- The layers of a mask. -/
def maskLayers (m : Nat) : List Nat := (List.range 16).filter (bitOf m)

/-- LAYER_GRANT (R241, Table 13.11). -/
def execLayerGrant (r : Req) (s : State) : Outc :=
  .next (serve r 0x503 (some 1) (fun s =>
    let n := reqField r 0 1
    let t := reqField r 1 1
    let ks := maskLayers (reqField r 2 2)
    roleThen (isA s r || (!isI r && n < 4 && outOwner s n == some r.ch)) 2
      (paramFail r [(0, 1), (1, 1), (2, 2)] [(0, decide (n < 4)), (1, tenantHere s t)]) s
      (if ks.any fun k => (layerOwner s n k).isSome && layerOwner s n k != some t then (s, .busy 1)
       else ({ s with prism := { s.prism with
         layerGrants := ks.foldl (fun g k => tset g (16 * n + k) t) s.prism.layerGrants } }, .ok))) s)

/-- LAYER_REVOKE (R257, R425, Table 13.11). -/
def execLayerRevoke (r : Req) (s : State) : Outc :=
  .next (serve r 0x504 (some 1) (fun s =>
    let n := reqField r 0 1
    let m := reqField r 2 2
    let ks := maskLayers m
    let held := ks.filter fun k => (layerOwner s n k).isSome
    roleThen (isA s r || (!isI r && ((n < 4 && outOwner s n == some r.ch) || held.all fun k => layerOwner s n k == some r.ch))) 9
      (paramFail r [(0, 1), (2, 2)] [(0, decide (n < 4))]) s
      (let mine := fun (k : Nat) => k / 16 == n && ks.contains (k % 16)
       let s1 := dropLayers (discardSets s fun x => x.output == n && held.any fun k => (tget? x.snap k).isSome) mine
       ({ s1 with prism := { s1.prism with
         layerGrants := tdrop s1.prism.layerGrants mine
         compose := s1.prism.compose.filter fun e => !(e.1 / 16 == n && held.any (bitOf e.2.mask)) } }, .ok))) s)

/-- SOURCE of OUT_STATUS (Table 8.23). -/
def PixSrc.code : PixSrc → Nat
  | .off => 0
  | .compose => 1
  | .hold => 2
  | .keeper => 3

/-- DISPLAY_QUERY (Table 13.11). -/
def execDisplayQuery (r : Req) (s : State) : Outc :=
  .next (serve r 0x505 (some 0) (fun s =>
    (s, .reply rOk 0 ((List.range 4).flatMap fun n =>
      leBytes 1 ((outOwner s n).getD 0xFF) ++ leBytes 1 (s.output n).src.code
        ++ List.replicate 6 0 ++ (List.range 16).flatMap fun k => leBytes 1 ((layerOwner s n k).getD 0xFF)))) s)

/-- How many engine contexts of a kind there are, and whether one is granted. -/
def engineCount (kind : Nat) : Nat := if kind = 0 then 16 else 32
def engineFree (s : State) (kind i : Nat) : Bool :=
  if kind = 0 then (tget? s.chipGrants i).isNone else (tget? s.blazeGrants i).isNone
def engineOwner (s : State) (kind i : Nat) : Option Nat :=
  if kind = 0 then (tget? s.chipGrants i).map Prod.fst else tget? s.blazeGrants i

/-- ENGINE_GRANT (Table 13.12). -/
def execEngineGrant (r : Req) (s : State) : Outc :=
  .next (serve r 0x601 (some 1) (fun s =>
    let k := reqField r 0 1
    let i := reqField r 1 1
    let c := reqField r 2 2
    roleThen (!isI r) 4 (paramFail r [(0, 1), (1, 1), (2, 2)]
      [(0, decide (k < 2)), (1, i == 0xFF || decide (i < engineCount k)), (2, if k = 0 then ctxHere s c else c == 0)]) s
      (if k = 0 ∧ (s.ctx c).tenant ≠ r.ch then (s, .denied 2)
       else
         let pick := if i = 0xFF then firstBelow (engineCount k) (engineFree s k) else if engineFree s k i then some i else none
         match pick with
         | none => (s, .noSlot (9 + k))
         | some j =>
           if k = 0 then
             (setEngCtx { s with chipGrants := tset s.chipGrants j (r.ch, c) } j .reset, .reply rOk 0 (leBytes 1 j ++ [0, 0, 0]))
           else
             (setBz { s with blazeGrants := tset s.blazeGrants j r.ch } j .reset, .reply rOk 0 (leBytes 1 j ++ [0, 0, 0])))) s)

/-- ENGINE_RELEASE (Table 13.12). -/
def execEngineRelease (r : Req) (s : State) : Outc :=
  .next (serve r 0x602 (some 1) (fun s =>
    let k := reqField r 0 1
    let i := reqField r 1 1
    roleThen (!isI r) 4 (paramFail r [(0, 1), (1, 1)] [(0, decide (k < 2)), (1, decide (i < engineCount k))]) s
      (if engineOwner s k i ≠ some r.ch then (s, .denied 9)
       else if (if k = 0 then (s.engCtx i).job.isSome else (s.bz i).attached.isSome) then (s, .busy 1)
       else if k = 0 then (setEngCtx { s with chipGrants := tdrop s.chipGrants (· == i) } i .reset, .ok)
       else (setBz { s with blazeGrants := tdrop s.blazeGrants (· == i) } i .reset, .ok))) s)

/-- An activation is pending or in its switch (R424). -/
def activating (s : State) : Bool := match s.ranger.act with
  | some a => a.phase != .probation
  | none => false

def State.graph? (s : State) (g : Nat) : Option Graph := tget? s.ranger.graphs g
def setGraph (s : State) (g : Nat) (x : Graph) : State :=
  { s with ranger := { s.ranger with graphs := tset s.ranger.graphs g x } }
def setService (s : State) (q : Nat) (b : Bool) : State := s.setQueue q { s.queue q with service := b }

/-- GRAPH_LOAD (R422, R424): the slot is an open choice among the free ones. -/
def execGraphLoad (r : Req) (s : State) : Outc :=
  .next (serve r 0x610 (some 6) (fun s =>
    let f := reqField r
    let c := f 0 2
    let q := f 2 2
    let x := s.queue q
    roleThen (!isI r) 4 (paramFail r [(0, 2), (2, 2), (8, 8), (16, 8)] [(0, ctxHere s c), (2, queueHere s q)]) s
      (if (s.ctx c).tenant ≠ r.ch ∨ (s.ctx x.ctx).tenant ≠ r.ch then (s, .denied 2)
       else if activating s then (s, .busy 2)
       else if x.st ≠ .live ∨ x.ctx ≠ c ∨ x.read ≠ x.last ∨ x.service then (s, .busy 1)
       else match pickSlot s 64 fun g => (s.graph? g).isNone with
         | (none, s1) => (s1, .noSlot 8)
         | (some g, s1) => (setGraph (setService s1 q true) g ⟨r.ch, c, q, f 8 8, f 16 8, false, none⟩, .accepted g))) s)

/-- A graph is gone and its queue a service queue no more. -/
def dropGraph (s : State) (g q : Nat) : State :=
  setService { s with ranger := { s.ranger with graphs := tdrop s.ranger.graphs (· == g) } } q false

/-- A fault that Kreog meets in a context of a service. -/
def serviceFault (s : State) (c q : Nat) (f : AccFault) : State :=
  raise (notePoison s f) ⟨c, f, 0xB0, 0xFF, false, q, 0, 0⟩

/-- GRAPH_LOAD_DONE (R422): magic and package version checked. -/
def execGraphLoadDone (g : Nat) (s : State) : Outc :=
  .next (match s.graph? g with
    | none => s
    | some x =>
      if x.loaded ∨ !s.ranger.up then s
      else
        let fail := fun (s : State) (st d : Nat) => finalOn (dropGraph s g x.queue) x.tenant 0x610 g st d []
        if (s.ctx x.ctx).st ≠ .live then fail s rRefused 0x20FF
        else match vread s x.ctx x.va x.bytes with
          | .error f => fail (serviceFault s x.ctx x.queue f) rRefused 0x20FF
          | .ok (bs, s1) =>
            let (magic, version) := Config.packageHead bs
            if magic ≠ 0x4E394750 then fail s1 rBadParam 8
            else if version ≠ 3 then fail s1 rVersion 6
            else finalOn (setGraph s1 g { x with loaded := true }) x.tenant 0x610 g rOk 0 (leBytes 1 g ++ [0, 0, 0]))

/-- Packets in the service queue's ring from its last accepted doorbell on, 16 bytes to a unit, and its doorbell rung (R422). -/
def placeUnits (s : State) (q : Nat) (us : List (List Byte)) : State :=
  let x := s.queue q
  let s1 := us.zipIdx.foldl (fun s u => objWrite s x.ringObj x.ringGen (x.ringOff + (x.last + u.2) % x.units * 16) u.1) s
  report (s1.setQueue q { s1.queue q with last := (x.last + us.length) % 2 ^ 32 }) q

/-- The commands of a step of a graph, of which the model knows only that they fit in the ring (R423, log entry 65), after packets
that it does know. -/
def placeCommands (s : State) (q : Nat) (head : List (List Byte)) : State :=
  let n := 1 + (Config.free s.freeTick).toNat % max 1 ((s.queue q).units - 1)
  let (bs, s1) := freeBytes { s with freeTick := s.freeTick + 1 } (16 * n)
  placeUnits s1 q (head ++ chunksOf 16 bs)

/-- RINGMARK_OPEN of a session descriptor, and RINGMARK_CLOSE, as a run places them (R423, Tables 9.13 and 9.15); TAG is open. -/
def openUnit (desc : Nat) (tag : List Byte) : List Byte := leBytes 2 0x30 ++ [1, 0] ++ tag ++ leBytes 8 desc
def closeUnit (tag : List Byte) : List Byte := leBytes 2 0x31 ++ [1, 0] ++ tag ++ leBytes 8 0

/-- Kreog's writes for a run with RINGMARK: SEED at RECORD_VA + 256, the session descriptor at RECORD_VA + 320 (R423,
Tables 6.1 and 6.2). -/
def sessionImage (x : Graph) (r : GraphRun) : List Byte :=
  leBytes 4 0x4E39524D ++ [1, 0] ++ leBytes 2 3 ++ leBytes 8 r.record ++ List.replicate 16 0
    ++ ([(1, x.bytes, x.va), (3, r.inBytes, r.inVa), (4, 8, r.record + 256)] : List (Nat × Nat × Nat)).flatMap fun it =>
      leBytes 4 it.1 ++ leBytes 4 it.2.1 ++ leBytes 8 it.2.2

def setRun (s : State) (g : Nat) (x : Graph) (r : GraphRun) : State := setGraph s g { x with run := some r }

/-- A run begins: the input is read, the session's areas are written, the first commands are placed. -/
def startRun (s : State) (g : Nat) (x : Graph) (r : GraphRun) : State :=
  match vread s x.ctx r.inVa r.inBytes with
  | .error f => serviceFault s x.ctx x.queue f
  | .ok (_, s1) =>
    let (s2, f) := if r.ringmark then
        (match vwrite s1 x.ctx (r.record + 256) (leBytes 8 r.seed) with
        | (s', none) => vwrite s' x.ctx (r.record + 320) (sessionImage x r)
        | e => e)
      else (s1, none)
    match f with
    | some f => serviceFault s2 x.ctx x.queue f
    | none =>
      let (tag, s3) := freeBytes (setRun s2 g x { r with started := true }) 4
      placeCommands s3 x.queue (if r.ringmark then [openUnit (r.record + 320) tag] else [])

/-- A run ends by itself: FENCE is signalled, then the final reply (R423). -/
def finishRun (s : State) (g : Nat) (x : Graph) (r : GraphRun) (ends : Nat) : State :=
  let s1 := setGraph s g { x with run := none }
  let s2 := match r.fence with
    | some f => settle [.devSignal (.tenant x.tenant) x.tenant none f (BitVec.ofNat 64 r.value)] s1
    | none => s1
  finalOn s2 x.tenant 0x611 g rOk 0 (graphPayload r ends)

/-- A step of a run has ended (R423, R424): whether the graph has reached its end token, or its next output would exceed
OUT_BYTES, and what it appends, are the graph's (free values). -/
def graphStep (s : State) (g : Nat) (x : Graph) (r : GraphRun) : State :=
  if r.cancel then endRun s g rRefused 0x22FF
  else match r.closing with
    | some e => finishRun s g x r e
    | none =>
      let k := (Config.free s.freeTick).toNat % 3
      let room := r.outBytes - r.written
      let n := if k = 2 then 0 else (Config.free (s.freeTick + 1)).toNat % (room + 1)
      let (bs, s1) := freeBytes { s with freeTick := s.freeTick + 2 } n
      match vwrite s1 x.ctx (r.outVa + r.written) bs with
      | (s2, some f) => serviceFault s2 x.ctx x.queue f
      | (s2, none) =>
        let r1 := { r with
          written := r.written + n
          steps := r.steps + 1 }
        let ends := if k = 0 then some 0 else if r.maxSteps ≤ r1.steps then some 1 else if k = 2 then some 2 else none
        match ends with
        | none => placeCommands (setRun s2 g x r1) x.queue []
        | some e =>
          if r.ringmark then
            (match freeBytes (setRun s2 g x { r1 with closing := some e }) 4 with
            | (tag, s3) => placeUnits s3 x.queue [closeUnit tag])
          else finishRun s2 g x r1 e

/-- The graph service goes on with every run whose queue has nothing left to do. -/
def serveGraphs (s : State) : State :=
  if !s.ranger.up then s
  else s.ranger.graphs.foldl (fun s e => match s.graph? e.1 with
    | none => s
    | some x => match x.run with
      | none => s
      | some r =>
        let q := s.queue x.queue
        if q.read ≠ q.last ∨ queueBusy s x.queue ∨ (s.ctx x.ctx).st ≠ .live then s
        else if r.started then graphStep s e.1 x r
        else startRun s e.1 x r) s

/-- COMMAND_COMPLETE (R308, R309, R423). -/
def execCommandComplete (cmd : Nat) (s : State) : Outc := .next (serveGraphs (commandComplete cmd s))
/-- CUT_COMPLETE (R171, R193, R323), after which a graph's next step follows (R423). -/
def execCutComplete (cmd : Nat) (s : State) : Outc := .next (serveGraphs (cutComplete cmd s))
/-- RINGMARK_CLOSE (R188, R194, R196), after which a graph's run ends (R423). -/
def execRingmarkClose (p : Pkt) (s : State) : Outc := .next (serveGraphs (ringmarkClose p s))

/-- A graph that a request names. -/
def graphHere (s : State) (g : Nat) : Bool := match s.graph? g with
  | some x => x.loaded
  | none => false
def graphOwner (s : State) (g : Nat) : Option Nat := (s.graph? g).map Graph.tenant

/-- GRAPH_RUN (R423, R424). -/
def execGraphRun (r : Req) (s : State) : Outc :=
  .next (serveGraphs (serve r 0x611 (some 16) (fun s =>
    let f := reqField r
    let g := f 0 1
    let ring := bitOf (f 1 1) 0
    let fe := bitOf (f 1 1) 1
    roleThen (!isI r) 4 (paramFail r
      [(0, 1), (1, 1), (2, 2), (4, 4), (8, 8), (16, 8), (24, 8), (32, 8), (40, 8), (48, 8), (56, 8)]
      [(0, graphHere s g), (1, decide (f 1 1 < 4)), (2, !fe || fenceHere s (f 2 2)), (4, decide (1 ≤ f 4 4 ∧ f 4 4 ≤ 65536)),
       (56, !ring || f 56 8 % 256 == 0)]) s
      (if graphOwner s g ≠ some r.ch then (s, .denied 2)
       else if fe ∧ fenceRight (s.fence (f 2 2)) r.ch < 2 then (s, .denied 3)
       else if activating s then (s, .busy 2)
       else match s.graph? g with
         | none => (s, .badParam 0)
         | some x =>
           if x.run.isSome then (s, .busy 3)
           else if (s.ctx x.ctx).st ≠ .live then (s, .badParam 0xFFFF)
           else
             let run : GraphRun :=
               { ringmark := ring, fence := if fe then some (f 2 2) else none, value := f 48 8, maxSteps := f 4 4
                 inVa := f 8 8, inBytes := f 16 8, outVa := f 24 8, outBytes := f 32 8, seed := f 40 8, record := f 56 8
                 started := false, closing := none, written := 0, steps := 0, cancel := false }
             (setRun s g x run, .accepted g))) s))

/-- GRAPH_CANCEL (R424): the run ends at its next step boundary. -/
def execGraphCancel (r : Req) (s : State) : Outc :=
  .next (serveGraphs (serve r 0x612 (some 1) (fun s =>
    let g := reqField r 0 1
    roleThen (!isI r) 4 (paramFail r [(0, 1)] [(0, graphHere s g)]) s
      (if graphOwner s g ≠ some r.ch then (s, .denied 2)
       else match s.graph? g with
         | none => (s, .badParam 0)
         | some x => match x.run with
           | none => (s, .badParam 0xFFFF)
           | some run => (setRun s g x { run with cancel := true }, .ok))) s))

/-- GRAPH_UNLOAD (R422). -/
def execGraphUnload (r : Req) (s : State) : Outc :=
  .next (serve r 0x613 (some 1) (fun s =>
    let g := reqField r 0 1
    roleThen (!isI r) 4 (paramFail r [(0, 1)] [(0, graphHere s g)]) s
      (if graphOwner s g ≠ some r.ch then (s, .denied 2)
       else match s.graph? g with
         | none => (s, .badParam 0)
         | some x => if x.run.isSome then (s, .busy 3) else (dropGraph s g x.queue, .ok))) s)

/-- COMPOSE_START (R425). -/
def execComposeStart (r : Req) (s : State) : Outc :=
  .next (serve r 0x620 (some 6) (fun s =>
    let f := reqField r
    let n := f 0 1
    let o := f 4 2
    let de := bitOf (f 18 1) 0
    roleThen (!isI r) 4 (paramFail r [(0, 1), (2, 2), (4, 2), (6, 2), (8, 8), (16, 2), (18, 1)]
      [(0, decide (n < 4)), (4, nameLive s o (f 6 2)), (8, decide (f 8 8 + 1024 ≤ (s.obj o).size)),
       (16, !de || fenceHere s (f 16 2)), (18, decide (f 18 1 < 2))]) s
      (if (maskLayers (f 2 2)).any fun k => layerOwner s n k != some r.ch then (s, .denied 9)
       else if objRight (s.obj o) r.ch < 2 ∨ (de ∧ fenceRight (s.fence (f 16 2)) r.ch < 2) then (s, .denied 3)
       else if objGone s o then (s, .hostGone)
       else if (tget? s.prism.compose (16 * n + r.ch)).isSome then (s, .busy 1)
       else
         let x : Compose :=
           { tenant := r.ch, mask := f 2 2, obj := o, gen := f 6 2, off := f 8 8, done := if de then some (f 16 2) else none
             value := (s.fence (f 16 2)).value.toNat + 1, applied := [] }
         ({ s with prism := { s.prism with compose := tset s.prism.compose (16 * n + r.ch) x } }, .ok))) s)

/-- COMPOSE_STOP (R425): the layers keep their active state. -/
def execComposeStop (r : Req) (s : State) : Outc :=
  .next (serve r 0x621 (some 1) (fun s =>
    let n := reqField r 0 1
    roleThen (!isI r) 4 (paramFail r [(0, 1)] [(0, decide (n < 4))]) s
      (if (tget? s.prism.compose (16 * n + r.ch)).isNone then (s, .badParam 0xFFFF)
       else ({ s with prism := { s.prism with compose := tdrop s.prism.compose (· == 16 * n + r.ch) } }, .ok))) s)

/-- A window record as it lies in the table (Table 13.16): the layer's registers. -/
def windowRegs (b : List Byte) : LayerRegs :=
  let f := fun (o : Nat) => BitVec.ofNat 64 (fieldAt b o 8)
  ⟨f 8, f 16, f 24, f 32, f 40, f 48⟩

/-- One frame of the service of a tenant on an output (R425 steps 1 to 5). -/
def composeFrame (s : State) (n key : Nat) (x : Compose) (torn : List Nat) : State :=
  if !objReachable s x.obj x.gen then s
  else
    let (tbl, s1) := devRead s ((s.obj x.obj).base + x.off) 1024
    let rec_ := fun (k : Nat) => (tbl.drop (64 * k)).take 64
    let ks := (maskLayers x.mask).filter fun k => !torn.contains k && tget? x.applied k != some (fieldAt (rec_ k) 0 4)
    if ks = [] then s1
    else
      let s2 := ks.foldl (fun s k => s.setLayer n k { s.layer n k with pend := windowRegs (rec_ k) }) s1
      let u : Submit := ⟨0, n, true, (ks.map fun k => 2 ^ k).sum⟩
      let res := submitCheck s2 x.tenant u x.done
      let s3 := match res with
        | some _ => s2
        | none => armSet s2 x.tenant u x.done (BitVec.ofNat 64 x.value)
      let (st, d) := res.getD (0, 0)
      let s4 := ks.foldl (fun s k => objWrite s x.obj x.gen (x.off + 64 * k + 4) (leBytes 2 st ++ leBytes 1 d)) s3
      if (tget? s4.prism.compose key).isNone then s4
      else { s4 with prism := { s4.prism with compose := tset s4.prism.compose key { x with
        value := if res.isNone then x.value + 1 else x.value
        applied := ks.foldl (fun t k => tset t k (fieldAt (rec_ k) 0 4)) x.applied } } }

/-- COMPOSE_SERVICE_FRAME (R425): `torn` are the records whose two readings of GENERATION differ. -/
def execComposeServiceFrame (n : Nat) (torn : List Nat) (s : State) : Outc :=
  .next (if 4 ≤ n ∨ !s.ranger.up ∨ (s.output n).src = .off then s
    else s.prism.compose.foldl (fun s e => if e.1 / 16 = n then composeFrame s n e.1 e.2 torn else s) s)

/-- TRANSFER (R426): its first job; the stream block size that Kreog gives it is an open choice. -/
def execTransfer (r : Req) (s : State) : Outc :=
  .next (serve r 0x630 (some 16) (fun s =>
    let f := reqField r
    let mode := f 0 1
    let bz := bitOf (f 1 1) 0
    let fe := bitOf (f 1 1) 2
    let c := f 2 1
    let z := f 3 1
    let n := f 32 8
    roleThen (!isI r) 4 (paramFail r
      [(0, 1), (1, 1), (2, 1), (3, 1), (4, 2), (6, 2), (8, 8), (16, 2), (18, 2), (24, 8), (32, 8), (40, 8), (48, 2), (56, 8)]
      [(0, decide (mode ≤ 2)), (1, decide (f 1 1 < 8)), (2, decide (c < 16)), (3, !bz || decide (z < 32)),
       (4, nameLive s (f 4 2) (f 6 2)), (8, decide (f 8 8 + n ≤ (s.obj (f 4 2)).size)),
       (16, nameLive s (f 16 2) (f 18 2)), (24, decide (f 24 8 + f 40 8 ≤ (s.obj (f 16 2)).size)),
       (32, decide (4 ≤ n ∧ n ≤ 2 ^ 36)), (48, !fe || fenceHere s (f 48 2))]) s
      (if chTenant s c ≠ r.ch ∨ (tget? s.chipGrants c).isNone ∨ (bz ∧ tget? s.blazeGrants z ≠ some r.ch) then (s, .denied 9)
       else if objRight (s.obj (f 4 2)) r.ch = 0 ∨ objRight (s.obj (f 16 2)) r.ch < 2
           ∨ (fe ∧ fenceRight (s.fence (f 48 2)) r.ch < 2) then (s, .denied 3)
       else if objGone s (f 4 2) ∨ objGone s (f 16 2) then (s, .hostGone)
       else if (s.engCtx c).job.isSome ∨ (bz ∧ (s.bz z).attached.isSome) then (s, .busy 1)
       else
         let first := min n (2 ^ 31)
         let m := if mode = 0 then 2 else if mode = 1 then 1 else 0
         let fence := if fe then some (f 48 2) else none
         let j : EngJob :=
           { mode := m, src := f 8 8, dst := f 24 8, srcBytes := first, limit := f 40 8
             block := (1 + (Config.free s.freeTick).toNat % 64) * 4096, ends := decide (n ≤ first), report := true
             blaze := if bz then some (z, bitOf (f 1 1) 1) else none, fence := fence, value := f 56 8, area := 0
             xfer := some
               { ch := r.ch, srcObj := f 4 2, dstObj := f 16 2, base := 0, dst0 := f 24 8, fence := fence, value := f 56 8, left := n - first }
             pos := 0, buf := [], out := 0, frame := [], strm := .fresh m, opened := false, suspended := false, load := false, finished := false }
         let s1 := { s with freeTick := s.freeTick + 1 }
         (attachBz (setEngCtx s1 c { s1.engCtx c with
           job := some (j.placed s)
           stream := none }) c j.blaze, .accepted c))) s)

end Sys2Proof.Machine
end

