-- ==== Sys2Proof/Machine/Activation.lean ====
section
/-! DEFINITION. Staging and activating images (R427 to R431), Ranger restarts (R406 to R409), and DEBUG_GRANT. -/

namespace Sys2Proof.Machine

/-- The bank that is not active. -/
def spareBank (s : State) : Nat := 1 - s.boot.bank

/-- IMAGE_STAGE (R427, R511): the image is read and checked, and the inactive bank erased. -/
def execImageStage (r : Req) (s : State) : Outc :=
  .next (serve r 0x701 (some 4) (fun s =>
    let f := reqField r
    let o := f 0 2
    let n := f 4 4
    roleThen (isF s r || isI r) 10 (paramFail r [(0, 2), (2, 2), (4, 4), (8, 8)]
      [(0, nameLive s o (f 2 2)), (8, decide (f 8 8 + n ≤ (s.obj o).size))]) s
      (if !isI r ∧ objRight (s.obj o) r.ch = 0 then (s, .denied 3)
       else if objGone s o then (s, .hostGone)
       else if s.ranger.act.isSome then (s, .busy 2)
       else if s.ranger.stage.isSome then (s, .busy 1)
       else match locRead s (.obj o) (f 8 8) n with
         | .error _ => (s, .reply rRefused 0x21FF [])
         | .ok (img, s1) => match stageFail s1 img n (imgFloor (bankImage s1 s1.boot.bank)) with
           | some (st, d) => (s1, .reply st d [])
           | none =>
             let b := spareBank s1
             let s2 := setBank (flashErase s1 (bankBase b) bankBytes) b .empty 0
             ({ s2 with ranger := { s2.ranger with stage := some ⟨o, img, b⟩ } }, .accepted b))) s)

/-- IMAGE_STAGE_DONE (R427, Table 13.19). -/
def execImageStageDone (s : State) : Outc :=
  .next (match s.ranger.stage with
    | none => s
    | some x =>
      if !s.ranger.up then s
      else
        let v := imgVersion x.image
        let s1 := setBank (flashWrite s (bankBase x.bank) x.image) x.bank .staged v
        finalAll { s1 with ranger := { s1.ranger with stage := none } } 0x701 x.bank rOk 0 (leBytes 4 v ++ leBytes 1 x.bank ++ [0, 0, 0]))

/-- IMAGE_QUERY (Table 13.13): the fields of a bank that holds no image are open. -/
def execImageQuery (r : Req) (s : State) : Outc :=
  .next (serve r 0x702 (some 0) (fun s =>
    let one := fun (s : State) (b : Nat) =>
      let h := leBytes 1 (bankSt s b).code ++ leBytes 1 (b2n (b == s.boot.bank)) ++ [0, 0]
      if bankSt s b = .empty then
        let (x, s1) := freeBytes s 20
        (h ++ x ++ List.replicate 8 0, s1)
      else (h ++ flashRead s (bankBase b + 8) 20 ++ List.replicate 8 0, s)
    let (a, s1) := one s 0
    let (b, s2) := one s1 1
    (s2, .reply rOk 0 (a ++ b))) s)

/-- The checks of R428 on handover and boot-applied parts: status and detail of the first that fails. -/
def activateFail (old new : List Byte) (deferred : Bool) : Option (Nat × Nat) :=
  if !(decide (imgMin new ≤ imgOut old ∧ imgOut old ≤ imgMax new) && decide (imgMin old ≤ imgOut new ∧ imgOut new ≤ imgMax old)) then
    some (0x40, 3)
  else if !deferred && !bootSame old new then some (0x31, 0x15FF)
  else none

def setAct (s : State) (a : Option Activation) : State := { s with ranger := { s.ranger with act := a } }

/-- An activation accepted. -/
def startAct (s : State) (r : Req) (opcode : Nat) (commitReq : Bool) : State :=
  setAct s (some
    { phase := .copy, bank := spareBank s, prev := s.boot.bank, opcode := opcode, by_ := r.ch, commitReq := commitReq
      before := s.cfg, committed := false, reason := 0, rollback := false, since := 0 })

/-- The image of the inactive bank may be activated: it is STAGED, or GOOD after a way back (R428, R430). -/
def mayActivate (s : State) (b : Nat) : Bool := bankSt s b == .staged || (bankSt s b == .good && s.ranger.wentBack)

/-- IMAGE_ACTIVATE (R428). -/
def execImageActivate (r : Req) (s : State) : Outc :=
  .next (serve r 0x703 (some 2) (fun s =>
    let f := reqField r
    let b := spareBank s
    roleThen (isF s r || isI r) 10 (paramFail r [(0, 1), (2, 2), (4, 4)] [(0, decide (f 0 1 < 4)), (2, decide (f 2 2 ≤ 60000))]) s
      (if s.ranger.act.isSome then (s, .busy 2)
       else if !mayActivate s b ∨ imgVersion (bankImage s b) ≠ f 4 4 then (s, .reply rVersion 5 [])
       else match activateFail (bankImage s s.boot.bank) (bankImage s b) (bitOf (f 0 1) 0) with
         | some (st, d) => (s, .reply st d [])
         | none => (startAct s r 0x703 (bitOf (f 0 1) 1), .accepted b))) s)

/-- ACTIVATION_COPY_DONE (R428 step 1). -/
def execActivationCopyDone (s : State) : Outc :=
  .next (match s.ranger.act with
    | some a => if a.phase = .copy ∧ s.ranger.up then setAct s (some { a with phase := .wait }) else s
    | none => s)

/-- The final reply of an activation. -/
def actFinal (s : State) (a : Activation) (status detail : Nat) : State := finalAll s a.opcode a.bank status detail []

/-- ACTIVATION_WAIT_EXPIRED (R428 step 2): WAIT_MS passes with a graph run in progress. -/
def execActivationWaitExpired (s : State) : Outc :=
  .next (match s.ranger.act with
    | some a =>
      if a.phase = .wait ∧ !holding s ∧ s.ranger.up then actFinal (setAct s none) a rBusy 3 else s
    | none => s)

/-- Every output stands in HOLD or OFF. -/
def allHeld (s : State) : Bool := (List.range 4).all fun n => (s.output n).src == .hold || (s.output n).src == .off

def setRangerSt (s : State) (st : RangerSt) : State := { s with ranger := { s.ranger with st := st } }

/-- SWITCH_START (R428 step 4, R430): the last output is in HOLD. -/
def execSwitchStart (s : State) : Outc :=
  .next (match s.ranger.act with
    | some a =>
      if !holding s || !allHeld s || !s.ranger.up then s
      else if a.phase = .wait then setRangerSt (setAct s (some { a with phase := .switch })) .switch
      else setRangerSt s .switch
    | none => s)

/-- Replies that waited for Kreog are posted, and abandoned work is swept. -/
def kreogResumes (s : State) : State :=
  let l := s.ranger.late
  sweepAll (l.foldl (fun s x => postRecord s x.ch x.seq x.status x.detail x.tag 1 x.payload)
    { s with ranger := { s.ranger with late := [] } })

/-- The previous image runs again after a failed probation (R430). -/
def endBack (s : State) (a : Activation) : State :=
  let s1 := kreogResumes (setRangerSt { setAct s none with cfg := a.before } .run)
  let s2 := { s1 with
    boot := { s1.boot with bank := a.prev }
    ranger := { s1.ranger with wentBack := true } }
  let s3 := actFinal s2 a rRefused (a.reason * 256 + 0xB0)
  if a.rollback then finalAll s3 0x705 (a.bank + 2) rOk 0 [] else s3

/-- Probation fails: the bank is BAD, and the way back begins (R430, Table 13.19). -/
def failProbation (s : State) (a : Activation) (reason : Nat) : State :=
  let s1 := setBank s a.bank .bad (bankVersion s a.bank)
  setAct s1 (some { a with
    phase := .back
    reason := reason })

/-- HEALTH_WINDOW_END (R429): `healthy` tells that Kreog's own checks have passed. -/
def execHealthWindowEnd (healthy : Bool) (s : State) : Outc :=
  .next (match s.ranger.act with
    | some a =>
      if a.phase ≠ .probation ∨ s.ranger.st ≠ .probation then s
      else if !healthy then failProbation s a 0x10
      else if a.commitReq ∧ !a.committed then failProbation s a 0x11
      else
        let img := bankImage s a.bank
        let s1 := setRangerSt (setAct (setBank s a.bank .good (imgVersion img)) none) .run
        actFinal { s1 with boot := { s1.boot with
          configBank := a.bank
          kreogVersion := imgKreog img
          kreogBuild := imgBuild img
          configVersion := imgVersion img } } a rOk 0
    | none => s)

/-- IMAGE_COMMIT (R429). -/
def execImageCommit (r : Req) (s : State) : Outc :=
  .next (serve r 0x704 (some 0) (fun s =>
    match s.ranger.act with
    | some a =>
      if a.phase ≠ .probation then (s, .badParam 0xFFFF)
      else if !isI r ∧ a.by_ ≠ r.ch then (s, .denied 10)
      else (setAct s (some { a with committed := true }), .ok)
    | none => (s, .badParam 0xFFFF)) s)

/-- IMAGE_ROLLBACK (R430). -/
def execImageRollback (r : Req) (s : State) : Outc :=
  .next (serve r 0x705 (some 0) (fun s =>
    let b := spareBank s
    let old := bankImage s s.boot.bank
    let new := bankImage s b
    roleThen (isF s r || isI r) 10 none s
      (match s.ranger.act with
       | some a =>
         if a.phase = .probation then (failProbation s { a with rollback := true } 0x13, .accepted (a.bank + 2))
         else if bankSt s b = .good ∧ imgFloor old ≤ imgVersion new then (s, .busy 2)
         else (s, .reply rRefused 0x14FF [])
       | none =>
         if bankSt s b = .good ∧ imgFloor old ≤ imgVersion new then
           (match activateFail old new false with
           | some (st, d) => (s, .reply st d [])
           | none => (startAct s r 0x705 false, .accepted b))
         else (s, .reply rRefused 0x14FF []))) s)

/-- Requests whose work a restart does not end (R408). -/
def survives : List Nat := [0x202, 0x203, 0x205, 0x206, 0x20B, 0x301, 0x402, 0x630]

/-- The other ACCEPTED requests of every channel end with INTERNAL, detail RESTART. -/
def endRequests (s : State) : State :=
  (List.range 17).foldl (fun s ch =>
    let c := s.channel ch
    let gone := c.accepted.filter fun a => !survives.contains a.opcode
    gone.foldl (fun s a => lateOrNow s ⟨ch, a.seq, rInternal, 1, a.tag, []⟩)
      (s.setChannel ch { c with accepted := c.accepted.filter fun a => survives.contains a.opcode })) s

/-- What a restart ends at once (R406 to R408, R430, R431, Table 8.5). -/
def restartGap (s : State) : State :=
  let outs := tmap s.prism.outs fun _ o => if o.src = .compose then { o with src := .hold } else o
  let s1 := { s with prism := { s.prism with outs := outs } }
  let s2 := s1.ranger.graphs.foldl (fun s e => endRun s e.1 rInternal 1) s1
  let loads := s2.ranger.graphs.filter fun e => !e.2.loaded
  let s3 := loads.foldl (fun s e => dropGraph s e.1 e.2.queue) s2
  let s4 := { s3 with ranger := { s3.ranger with stage := none } }
  let s5 := match s4.ranger.act with
    | some a => if a.phase = .probation then failProbation s4 a 0x12 else if a.phase = .back then s4 else setAct s4 none
    | none => s4
  let keep := match s5.ranger.act with
    | some a => [(a.opcode, a.bank), (0x705, a.bank + 2)]
    | none => []
  let held := (List.range 17).map fun ch => (ch, (s5.channel ch).accepted.filter fun a => keep.contains (a.opcode, a.arg))
  let s6 := endRequests (held.foldl (fun s e => let c := s.channel e.1
    s.setChannel e.1 { c with accepted := c.accepted.filter fun a => !keep.contains (a.opcode, a.arg) }) s5)
  held.foldl (fun s e => let c := s.channel e.1
    s.setChannel e.1 { c with accepted := c.accepted ++ e.2 }) s6

/-- 60 s in units of the device timer. -/
def sixtySeconds : Nat := 2304000000

/-- A trigger is the fourth within 60 s of the first of three earlier ones (R409). -/
def fourthTrigger (s : State) : Bool := match s.ranger.triggers[2]? with
  | some t => decide (s.timer - t ≤ sixtySeconds)
  | none => false

/-- A trigger of R406 with its cause (Table 13.1 LAST_CAUSE; R409). -/
def restartRanger (cause : Nat) (s : State) : State :=
  let g := s.ranger
  (if g.st = .boot ∨ g.st = .stopped ∨ cause = 0 ∨ 4 < cause then s
    else
      let s1 := restartGap (setRangerSt s (if fourthTrigger s then .stopped else .restarting))
      { s1 with ranger := { s1.ranger with
        restarts := if fourthTrigger s then g.restarts else min (g.restarts + 1) 0xFFFF
        lastCause := cause
        triggers := (s.timer :: g.triggers).take 3 } })

/-- RANGER_RESTART (R406, R409). -/
def execRangerRestart (cause : Nat) (s : State) : Outc := .next (restartRanger cause s)

/-- DEBUG_GRANT (R482, Table 13.15). -/
def execDebugGrant (r : Req) (s : State) : Outc :=
  .next (serve r 0x901 (some 1) (fun s =>
    roleThen (isF s r || isI r) 10 (paramFail r [(0, 1)] [(0, decide (reqField r 0 1 < 2))]) s
      (if s.fuses.scorched then (s, .denied 6)
       else ({ s with ranger := { s.ranger with debug := reqField r 0 1 == 1 } }, .ok))) s)

end Sys2Proof.Machine
end

