-- ==== Sys2Proof/Machine/Link.lean ====
section
/-! DEFINITION. Host links (R374, R451, R493), roll call (R494 to R497), and MSI-X unmasking (R488). -/

namespace Sys2Proof.Machine

/-- Pending messages whose vectors are unmasked are sent once the port can send (R453, R488). -/
def flushMsix (s : State) (p : Nat) : State :=
  let x := s.port p
  if !x.sends then s
  else
    let go := x.msixPend.filter x.msixOpen.contains
    { s.setPort p { x with msixPend := x.msixPend.filter fun v => !x.msixOpen.contains v } with
      out := s.out ++ go.map fun v => .msix p v }

/-- MSIX_UNMASK (R488): the mask bit of a vector is cleared. -/
def execMsixUnmask (p v : Nat) (s : State) : Outc :=
  .next (if 3 ≤ p ∨ 2048 ≤ v ∨ !(s.port p).up ∨ (s.port p).msixOpen.contains v then s
    else flushMsix (s.setPort p { s.port p with msixOpen := v :: (s.port p).msixOpen }) p)

/-- The registers of a port's function as a link loss leaves them (R494; the standard ones are PRESUMED from PCI
Express, log entry 5). -/
def Port.lose (x : Port) : Port :=
  { x with
    st := .down, lost := true, busMaster := false, atomicEn := false, d3 := false, rcBind := 0, rcPasid := 0, bound := false
    night := false, grace := false, winLo := 0, winHi := 0, msixOpen := [], msixPend := [], msixEn := false, msixTab := [], pci := .reset }

/-- The requests of a tenant that enters GONE end with HOST_GONE, told when it is rebound (R419). -/
def holdRequests (s : State) (t : Nat) : State :=
  let c := s.channel t
  let late := (s.ranger.late.filter fun x => x.ch == t).map fun x => (⟨0, x.seq, x.tag, 0⟩ : Accepted)
  { s.setChannel t { c with
      accepted := []
      held := c.held ++ late ++ c.accepted } with
    ranger := { s.ranger with late := s.ranger.late.filter fun x => x.ch != t } }

/-- A context faulted with HOST_GONE (R374 step 2). -/
def faultGone (s : State) (p c : Nat) : State :=
  let s1 := raise s ⟨c, ⟨cHostGone, 0, 0, false, 0, 0⟩, 0x98 + p, 0xFF, false, 0xFFFF, 0, 0⟩
  setBlock s1 c 115 1 (blockNat s1 c 115 1 ||| 4)

/-- A LIVE tenant of a lost port goes to GONE. -/
def tenantGone (s : State) (p t : Nat) : State :=
  let s1 := (ctxsOf s t).foldl (fun s c => faultGone s p c) (holdRequests s t)
  let s2 := stopBlazeOf (stopChipOf s1 fun _ g => g.1 == t) t
  let fs := s2.fences.filterMap fun e => if e.2.owner = t && e.2.onGone && e.2.st == .live then some e.1 else none
  settle (fs.map Act.poison) (s2.setTenant t { (s2.tenant t).disarm with st := .gone })

/-- A link loss of a port (R374, R494, R495). -/
def linkLoss (s : State) (p : Nat) : State :=
  let s1 := s.setPort p (s.port p).lose
  let lines := s1.mem.lines.filter fun e => match paKind (e.1 * 128) with
    | .host q _ => q != p
    | _ => true
  let mine := fun (e : CLine) => match paKind (e.line * 128) with
    | .host q _ => q == p
    | _ => false
  let s2 := s1.setMem { s1.mem with
    lines := lines
    cache := s1.mem.cache.filter fun e => !mine e }
  bump ((tenantsOn s2 p .live).foldl (fun s t => tenantGone s p t) s2) uSched 0x180

/-- A link goes down: a link loss, except where R451 applies. -/
def linkDown (s : State) (p : Nat) : State :=
  let x := s.port p
  if !x.up then s else if x.night then s.setPort p { x with st := .down } else linkLoss s p

/-- LINK_DOWN (R374, R451, R493, R495). -/
def execLinkDown (p : Nat) (s : State) : Outc := .next (if 3 ≤ p then s else linkDown s p)

/-- Lanes of a port (Table 16.2). -/
def portLanes (s : State) (p : Nat) : Bool := decide (p ≤ s.cfg.bifurcation)

/-- LINK_UP (R451, R453, R495): from HOST_READY on, with the port's domain on. -/
def execLinkUp (p : Nat) (s : State) : Outc :=
  let x := s.port p
  .next (if 3 ≤ p ∨ x.up ∨ !portLanes s p ∨ s.boot.stage ≠ 6 ∨ !domainOn s (0x98 + p) then s
    else if x.night ∧ tenantsOn s p .live ≠ [] ∧ tenantsOn s p .gone = [] ∧ tenantsOn s p .destroying = [] then
      flushMsix (s.setPort p { x with
        st := .ready
        shown := 3
        night := x.night && !x.grace
        grace := false }) p
    else s.setPort p { x with
      st := .calling
      shown := 1
      lost := false
      night := x.night && !x.grace
      grace := false
      msixPend := if x.night then x.msixPend else [] })

/-- ROLL_CALL_TIMEOUT (Table 16.4). -/
def execRollCallTimeout (p : Nat) (s : State) : Outc :=
  let x := s.port p
  let gone := tenantsOn s p .gone
  .next (if x.st = .calling then
      let s1 := gone.foldl destroyTenant s
      s1.setPort p { s1.port p with manager := match x.manager with
        | some m => if gone.contains m then none else some m
        | none => none }
    else if x.st = .rollCall then
      let s1 := gone.foldl destroyTenant s
      finalAll (s1.setPort p { s1.port p with
        st := .ready
        shown := 3 }) 0x105 p rOk 0 []
    else s)

/-- The number that a port manager takes (R496). -/
def managerNumber (s : State) (p : Nat) : Option Nat :=
  let named := ([s.cfg.beaconOwner, s.cfg.displayAuth].filterMap id).filterMap fun e => if e.1 = p then some e.2 else none
  match named.find? fun t => (s.tenant t).st == .free with
  | some t => some t
  | none => firstBelow nTenants (numberFree s p)

/-- The result of a BIND or RELEASE written. -/
def rcDone (s : State) (p result : Nat) : State :=
  s.setPort p { s.port p with
    rcResult := result
    rcPending := false }

/-- A port manager bound (R496 step 3). -/
def bindManager (s : State) (p t : Nat) : State :=
  let call := tenantsOn s p .gone != []
  rcDone (s.setPort p { s.port p with
    manager := some t
    rcTenant := t
    bound := true
    st := if call then .rollCall else .ready
    shown := if call then 2 else 3 }) p rOk

/-- A BIND carried out (R496). -/
def bind (s : State) (p : Nat) : State :=
  let x := s.port p
  let pr := (x.rcBind.toNat % 65536, if x.rcBind.getLsbD 16 then some (x.rcPasid.toNat % 2 ^ 20) else none)
  let old := match x.manager with
    | some m => if (s.tenant m).st = .gone ∧ (s.tenant m).port = p then some m else none
    | none => none
  if x.st ≠ .calling then rcDone s p rBusy
  else if pairBound s p pr old then rcDone s p rDenied
  else match old with
    | some m => bindManager (rebind s m pr) p m
    | none => match managerNumber s p with
      | none => rcDone s p rNoSlot
      | some t => bindManager (createTenant s t p pr) p t

/-- A RELEASE carried out (R497, Table 16.4): the manager is destroyed last. -/
def release (s : State) (p : Nat) : State :=
  let x := s.port p
  if x.st ≠ .rollCall ∧ x.st ≠ .ready then s.setPort p { x with
    rcResult := rBusy
    rcPending := x.st == .releasing }
  else
    let ts := (List.range nTenants).filter fun t => ((s.tenant t).st == .live || (s.tenant t).st == .gone) && (s.tenant t).port == p
    let rest := ts.filter fun t => some t != x.manager
    let s1 := (rest ++ ts.filter fun t => some t == x.manager).foldl destroyTenant s
    settleRelease (s1.setPort p { s1.port p with
      st := .releasing
      shown := 4
      rcPending := true }) p

/-- What a write of 1 to BIND or RELEASE does: it waits for the end of a control gap (R496). -/
def rcWrite (s : State) (p : Nat) (rel : Bool) : State :=
  let x := s.port p
  if !x.up then s
  else if x.rcWait.isSome then s
  else if !s.ranger.up then s.setPort p { x with
    rcPending := true
    rcWait := some rel }
  else if rel then release s p else bind s p

/-- BIND (R496), and RELEASE (R497). -/
def execBind (p : Nat) (s : State) : Outc := .next (if 3 ≤ p then s else rcWrite s p false)
def execRelease (p : Nat) (s : State) : Outc := .next (if 3 ≤ p then s else rcWrite s p true)

/-- BINDs and RELEASEs that waited for Kreog. -/
def resumeRollCall (s : State) : State :=
  (List.range 3).foldl (fun s p =>
    let x := s.port p
    match x.rcWait with
    | none => s
    | some rel =>
      let s1 := s.setPort p { x with
        rcPending := false
        rcWait := none }
      if rel then release s1 p else bind s1 p) s

/-- Where Kreog runs again: replies, abandoned work and roll call. -/
def kreogRuns (s : State) : State := if s.ranger.up then resumeRollCall (kreogResumes s) else s

/-- SWITCH_END (R428 step 5, R430). -/
def execSwitchEnd (s : State) : Outc :=
  .next (match s.ranger.act with
    | some a =>
      if s.ranger.st ≠ .switch then s
      else if a.phase = .switch then
        let img := bankImage s a.bank
        let s1 := setBank s a.bank .probation (imgVersion img)
        let s2 := { s1 with
          boot := { s1.boot with bank := a.bank }
          cfg := s1.cfg.live (imgConfig img)
          ranger := { s1.ranger with wentBack := s1.ranger.wentBack || a.opcode == 0x705 } }
        kreogRuns (setRangerSt (setAct s2 (some { a with phase := .probation, since := s2.timer })) .probation)
      else resumeRollCall (endBack s a)
    | none => s)

/-- RANGER_RESTART_DONE (R407, R408, R430): the control gap ends. -/
def execRangerRestartDone (s : State) : Outc :=
  .next (if s.ranger.st ≠ .restarting then s
    else match s.ranger.act with
      | some a => resumeRollCall (endBack s a)
      | none => kreogRuns (setRangerSt s .run))

/-- HOST_READ_TIMEOUT (R491): a read of port `p`'s window has failed; its words (PA >> 3) are delivered poisoned to the command
that reads them next, one record for each read. An empty list withdraws it. -/
def execHostReadTimeout (p : Nat) (words : List Nat) (s : State) : Outc :=
  let mine := fun (w : Nat) => match paKind (w * 8) with
    | .host q _ => q == p
    | _ => false
  let s1 := s.setMem { s.mem with poison := s.mem.poison.filter (fun w => !mine w) ++ words.filter mine }
  .next (if words.any mine then recordError s1 0x13 (0x98 + p) 2 0 else s1)

end Sys2Proof.Machine
end

