-- ==== Sys2Proof/Machine/Power.lean ====
section
/-! DEFINITION. Sag response (R435 to R439), the envelope governor (R440 to R443) and envelope requests (R421, R460). -/

namespace Sys2Proof.Machine

def State.stand (s : State) (k : Nat) : Stand := tget s.power.stands k .reset
def setStand (s : State) (k : Nat) (x : Stand) : State :=
  { s with power := { s.power with stands := tset s.power.stands k x } }

/-- A millisecond of the device timer. -/
def oneMs : Nat := 38400

/-- The held DROOP_STEP event of a stand delivered (R415, Table 13.6). -/
def deliverDroop (s : State) (k : Nat) : State :=
  let x := s.stand k
  if x.steps = 0 then s
  else postEvent (setStand s k { x with
    steps := 0
    delivered := some s.timer }) 3 (0xA0 + k) (x.divider + min x.steps 0xFFFF * 65536) s.timer

/-- A step of a stand down to `l` (Table 14.2): counted, and delivered at most once per millisecond. -/
def droopStep (s : State) (k l : Nat) : State :=
  let x := s.stand k
  let s1 := bump (setStand s k { x with
    ladder := l
    steps := x.steps + 1 }) (0xA0 + k) (if l = 12 then 0x108 else 0x100)
  match x.delivered with
  | none => deliverDroop s1 k
  | some t => if oneMs ≤ s.timer - t then deliverDroop s1 k else s1

/-- The signals that act on a stand: its own sensor's and the fabric's (R438). -/
def tripOn (s : State) (k : Nat) : Bool := (s.stand k).trip || s.power.fabTrip
def deepOn (s : State) (k : Nat) : Bool := (s.stand k).deep || s.power.fabDeep

/-- The stands that a sensor acts on: 0 to 5 a stand's own, 6 the fabric's. -/
def sensed (sensor : Nat) : List Nat := if sensor = 6 then List.range 6 else [sensor]

/-- A sensor's signals set. -/
def setSensor (s : State) (sensor : Nat) (trip deep : Bool) : State :=
  if sensor = 6 then { s with power := { s.power with
    fabTrip := trip
    fabDeep := deep } }
  else setStand s sensor { s.stand sensor with
    trip := trip
    deep := deep }
def sensorTrip (s : State) (sensor : Nat) : Bool := if sensor = 6 then s.power.fabTrip else (s.stand sensor).trip
def sensorDeep (s : State) (sensor : Nat) : Bool := if sensor = 6 then s.power.fabDeep else (s.stand sensor).deep

/-- Sag sensors sample while the root runs. -/
def sampling (s : State) (sensor : Nat) : Bool := decide (sensor ≤ 6) && s.power.pll

/-- DROOP_TRIP (R435, R436, R438). -/
def execDroopTrip (sensor : Nat) (s : State) : Outc :=
  .next (if !sampling s sensor || sensorTrip s sensor then s
    else (sensed sensor).foldl (fun s k => if (s.stand k).ladder ≤ 7 then droopStep s k 8 else s)
      (setSensor s sensor true (sensorDeep s sensor)))

/-- DEEP_TRIP (R435, R436, R438); `both`: TRIP asserts in the same root period. -/
def execDeepTrip (sensor : Nat) (both : Bool) (s : State) : Outc :=
  .next (if !sampling s sensor || s.cfg.droopDeepMv == 0 || sensorDeep s sensor || (both && sensorTrip s sensor) then s
    else (sensed sensor).foldl (fun s k => if both || (s.stand k).ladder ≤ 8 then droopStep s k 12 else s)
      (setSensor s sensor (both || sensorTrip s sensor) true))

/-- TRIP_CLEAR (R435): two samples above the level. -/
def execTripClear (sensor : Nat) (deep : Bool) (s : State) : Outc :=
  .next (if !sampling s sensor then s
    else if deep then setSensor s sensor (sensorTrip s sensor) false
    else setSensor s sensor false (sensorDeep s sensor))

/-- DROOP_RECOVER (R436, R437): the clear counter of a stand has reached DROOP_HOLD or DROOP_DWELL. -/
def execDroopRecover (stand : Nat) (s : State) : Outc :=
  let x := s.stand stand
  .next (if 6 ≤ stand ∨ !s.power.pll then s
    else if x.ladder = 12 ∧ !deepOn s stand then setStand s stand { x with ladder := 8 }
    else if x.ladder = 8 ∧ !tripOn s stand then setStand s stand { x with ladder := 7 }
    else if x.ladder = 7 ∧ !tripOn s stand then setStand s stand { x with ladder := 6 }
    else s)

/-- DROOP_STEP_DELIVERY (R415). -/
def execDroopStepDelivery (stand : Nat) (s : State) : Outc := .next (if 6 ≤ stand then s else deliverDroop s stand)

/-- ENVELOPE_NOW (R421). -/
def envelopeNow (s : State) : Nat :=
  (s.power.i3cEnvelope.toList ++ s.tenants.filterMap fun e => if e.2.st = .live then e.2.envelope else none).foldl min s.cfg.envelope

/-- Tjmax of the part's temperature grade (Table 17.9). -/
def tjMax (s : State) : Int := if s.fuses.tempGrade = 0x43 then 105 else 125

/-- Rate share of a pair (R441), times 1792. -/
def rateShare (g d : Nat) : Nat := d * (168 / g)

/-- The governor's pairs. -/
def govPairs : List (Nat × Nat) := [6, 7, 8, 12].flatMap fun g => (List.range 64).map fun d => (g, d + 1)

/-- The pair that the governor takes (R441): of highest rate share among those whose predicted power fits the working
envelope, the share raised by at most 1/16; the prediction, and which of equal shares, are open. -/
def govPick (s : State) (work share : Nat) : Nat × Nat :=
  let fit := govPairs.filter fun p => decide (rateShare p.1 p.2 ≤ share + 112) && Config.powerFits s.freeTick work p.1 p.2
  let best := fit.foldl (fun m p => max m (rateShare p.1 p.2)) 0
  let tops := fit.filter fun p => rateShare p.1 p.2 == best
  tops.getD ((Config.free s.freeTick).toNat % max 1 tops.length) (12, 1)

/-- A pair set for every stand. -/
def setPair (s : State) (g d : Nat) : State :=
  { s with power := { s.power with
      duty := d
      stands := (List.range 6).foldl (fun t k => tset t k { tget t k .reset with gov := g }) s.power.stands } }

/-- Lanes of a port by BIFURCATION (Table 16.2). -/
def hostLanes (s : State) (p : Nat) : Nat :=
  match s.cfg.bifurcation, p with
  | 0, 0 => 8
  | 0, _ => 0
  | 1, 2 => 0
  | 1, _ => 4
  | _, 0 => 4
  | _, _ => 2

/-- The floor power in mW (R531, Table 17.10): the lanes are those of ports whose link is up, the outputs those not OFF. -/
def floorPower (s : State) : Nat :=
  let base := if s.fuses.tempGrade = 0x43 then 1800 else 2600
  let phy := if s.cfg.dataRate = 9600 then 1000 else if s.cfg.dataRate = 6400 then 700 else 500
  let lanes := ((List.range 3).map fun p => if (s.port p).up then hostLanes s p else 0).sum
  let out := fun (n : Nat) =>
    let o := s.output n
    if o.src = .off then 0 else if o.iface = 2 then 120 else if 10000 ≤ laneMb o.iface o.mode.rate then 300 else 200
  let engine := fun (e : Nat) => if (s.output (2 * e)).src = .off ∧ (s.output (2 * e + 1)).src = .off then 0 else 250
  base + phy + 110 * lanes + ((List.range 4).map out).sum + engine 0 + engine 1

/-- GOVERNOR_PERIOD (R440 to R443, R531, Table 14.13, Table 14.14): the power measured over the last control period and the
last 100 ms in mW, and the hottest junction reading. -/
def execGovernorPeriod (p1 p100 : Nat) (tj : Int) (s : State) : Outc :=
  .next (if !s.ranger.up ∨ !s.power.pll then s
    else
      let w := s.power
      let hot := tjMax s - 3 ≤ tj
      let cool := tj ≤ tjMax s - 6
      let now := envelopeNow s
      let drop := if hot then min (w.drop + 1) now else if cool ∧ w.cool = 9 then w.drop - 1 else min w.drop now
      let work := now - drop
      let g0 := (s.stand 0).gov
      let stuck := decide (now * 500 < floorPower s) || (g0 == 12 && w.duty == 1 && decide (work * 500 < p1))
      let pr : Nat × Nat := if w.floor ∨ stuck then (12, 1) else govPick s work (rateShare g0 w.duty)
      let limit := if w.floor then 2 else if stuck then 3 else if pr = (6, 64) then 0 else if drop = 0 then 1 else 2
      let s1 := setPair { s with
        freeTick := s.freeTick + 1
        power := { w with
          work := work
          drop := drop
          cool := if cool then (w.cool + 1) % 10 else 0
          limit := limit
          tj := tj
          p1 := p1
          p100 := p100 } } pr.1 pr.2
      let s2 := if limit = 0 then s1 else bump s1 0xB0 0x128
      if limit = 2 then bump s2 0xB0 0x130 else s2)

/-- ENVELOPE_SET (R2, R421): the I3C channel's request stands beside the tenants' ones. -/
def execEnvelopeSet (r : Req) (s : State) : Outc :=
  .next (serve r 0x801 (some 1) (fun s =>
    let e := reqField r 0 1
    roleThen true 0 (paramFail r [(0, 1)] [(0, decide (12 ≤ e ∧ e ≤ s.cfg.envelope))]) s
      (if isI r then ({ s with power := { s.power with i3cEnvelope := some e } }, .ok)
       else (s.setTenant r.ch { s.tenant r.ch with envelope := some e }, .ok))) s)

/-- BAR0 offset of ENVELOPE_REQ. -/
def envelopeOff : Nat := 0x7000018

/-- ENVELOPE_REQ (R42, R421, R460). -/
def execEnvelopeReq (a : Access) (s : State) : Outc :=
  .next (if !accUp s a then s
    else match accTenant s a with
      | none => s
      | some t =>
        let x := s.tenant t
        let v := (accFields a 0xFF (BitVec.ofNat 64 (x.envelope.getD 0))).toNat
        if v = 0 then s.setTenant t { x with envelope := none }
        else if 12 ≤ v ∧ v ≤ s.cfg.envelope then s.setTenant t { x with envelope := some v }
        else accLog s a t 0xE envelopeOff)

end Sys2Proof.Machine
end

