-- ==== Sys2Proof/Machine/Dusk.lean ====
section
/-! DEFINITION. Dusk (R446 to R449), Night and the wake (R450 to R456), pad hold (R458), and the thermal monitor (R529,
R530). -/

namespace Sys2Proof.Machine

/-- The key of the Night step. -/
def nightKey : Nat := 0x100

def setDusk (s : State) (t : Tbl DuskStep) : State := { s with power := { s.power with dusk := t } }
def dropDusk (s : State) (key : Nat) : State := setDusk s (tdrop s.power.dusk (· == key))

/-- Units whose domains have pads (Table 14.10): the fabric group by its first slice, outputs, ports, debug. -/
def padUnits : List Nat := [0x60, 0x94, 0x95, 0x96, 0x97, 0x98, 0x99, 0x9A, 0xBE]

/-- The agent of a unit that a step of its own may switch off. -/
def unitAgent (u : Nat) : Option DuskAgent :=
  if u < 0x30 then some (.core u)
  else if u < 0x60 then some (.array (u - 0x30))
  else if 0x80 ≤ u ∧ u < 0x84 then some (.chipper (u - 0x80))
  else if u = 0x90 ∨ u = 0x91 then some (.prism (u - 0x90))
  else if 0x94 ≤ u ∧ u < 0x98 then some (.output (u - 0x94))
  else if u = 0x9C ∨ u = 0x9D then some (.binner (u - 0x9C))
  else if u = 0xBE then some .debug
  else none

/-- An agent's answer to a quiet request (R447). -/
inductive Answer where
  | ack | delay
  | refuse (reason : Nat)
  deriving DecidableEq, Repr

/-- Reasons (Table 14.8). -/
def dWork : Nat := 1
def dOutput : Nat := 2
def dFlume : Nat := 3
def dHost : Nat := 4
def dDebug : Nat := 5
def dRun : Nat := 6
def dDelay : Nat := 7
def dSilent : Nat := 8

def Core.arrayIdle (c : Core) : Bool := c.tq == [] && c.requeue == []

/-- A core with no resident work and no reservation. -/
def Core.idle (c : Core) : Bool :=
  !(c.wgs.any fun w => w.2.live) && c.holder.isNone && c.reserved == 0 && c.run.isNone && c.raster.isNone && c.arrayIdle
    && c.stores == [] && c.saving == []

/-- An array with no tensor instruction, and no pass or tensor program on its core. -/
def tensorIdle (c : Core) : Bool :=
  c.arrayIdle && c.run.isNone && !(c.wgs.any fun w => w.2.live && w.2.prog.tensor)

/-- An engine with no job BUSY and no segment running. -/
def engineIdle (s : State) (e : Nat) : Bool :=
  (tget s.engines e .reset).seg.isNone
    && (List.range 4).all fun k => (tget s.engCtxs (4 * e + k) .reset).job.isNone

/-- The dirty lines of a slice: those of host windows, and those of DRAM; and one whose port cannot take it. -/
def sliceDirty (s : State) (n : Nat) : List Nat :=
  (s.mem.lines.filter fun e => e.2.dirty && homeSlice (e.1 * 128) == n).map Prod.fst
    ++ (s.mem.cache.filter fun e => e.dirty && paKind (e.line * 128) == .dram && homeSlice (e.line * 128) == n).map CLine.line
def lineStuck (s : State) (ln : Nat) : Bool := match paKind (ln * 128) with
  | .host p _ => !(s.port p).winEn || (s.port p).d3
  | _ => false

/-- The answer of an agent in a step of a kind (Table 14.7). -/
def agentAnswer (s : State) (kind : Nat) : DuskAgent → Answer
  | .queues =>
    if s.cmds = [] ∧ s.queues.all fun e => e.2.st == .free || e.2.avail == 0 then .ack else .refuse dWork
  | .flume =>
    if (List.range 17).all (fun ch => (s.channel ch).accepted.all fun a => a.opcode == 0x802 || a.opcode == 0x703 || a.opcode == 0x705)
      && (s.ranger.graphs.all fun g => g.2.run.isNone) then .ack else .refuse dFlume
  | .core n => if (s.core n).idle then .ack else if kind = 3 then .delay else .refuse dWork
  | .array n => if tensorIdle (s.core n) then .ack else if kind = 3 then .delay else .refuse dWork
  | .binner _ => if s.renders.all fun e => e.2.shading && !e.2.flushing then .ack else .refuse dWork
  | .chipper n => if engineIdle s n then .ack else .delay
  | .digest => if s.lanes = [] ∧ s.cmds.all (fun e => e.2.kind != .ringOpen) ∧ s.cuts.all (fun e => e.2.folded) then .ack else .delay
  | .slice n =>
    let d := sliceDirty s n
    if d = [] then .ack else if d.any (lineStuck s) then .refuse dHost else .delay
  | .prism n =>
    if kind = 3 ∨ ((s.output (2 * n)).src = .off ∧ (s.output (2 * n + 1)).src = .off) then .ack else .refuse dOutput
  | .output n => if kind = 3 ∨ (s.output n).src = .off then .ack else .refuse dOutput
  | .port n => if !(s.port n).up ∨ (s.port n).d3 then .ack else .delay
  | .debug => if s.power.debug then .refuse dDebug else .ack

/-- Phase 1 and phase 2 agents of a Night step: those whose domains are on. -/
def nightPhase1 (s : State) : List DuskAgent :=
  let here := fun (a : DuskAgent) => s.power.on.contains (agentUnit a)
  [.queues, .flume, .digest]
    ++ (((List.range 48).map DuskAgent.core ++ (List.range 48).map DuskAgent.array ++ (List.range 2).map DuskAgent.binner ++ (List.range 4).map DuskAgent.chipper
      ++ (List.range 16).map DuskAgent.slice).filter here)
def nightPhase2 (s : State) : List DuskAgent :=
  ((List.range 2).map DuskAgent.prism ++ (List.range 4).map DuskAgent.output ++ (List.range 3).map DuskAgent.port ++ [DuskAgent.debug]).filter
    fun a => s.power.on.contains (agentUnit a)

def asked (l : List DuskAgent) : List (DuskAgent × AgentSt) := l.map fun a => (a, .asked)

/-- An output takes up an ENABLE that waited for its pads, or for the end of a step, once neither stands in its way (R448,
R458). -/
def takeEnable (s : State) (n : Nat) : State :=
  let o := s.output n
  if o.waitEnable ∧ !s.power.nightPads.contains (0x94 + n) ∧ !outClosing s n then
    leaveOff (s.setOutput n { o with waitEnable := false }) n o.pendMode true
  else s

/-- A port whose link stayed down through a cancelled Night step loses its link (R451, R374), unless the time after an earlier
wake still runs for it. -/
def endPortNight (s : State) (p : Nat) : State :=
  let x := s.port p
  if !x.night ∨ x.grace then s
  else
    let s1 := s.setPort p { x with night := false }
    if x.up ∨ tenantsOn s p .live = [] then s1 else linkLoss s1 p

/-- A step cancelled (Table 14.6, R449). -/
def cancelStep (s : State) (key reason unit : Nat) : State :=
  match tget? s.power.dusk key with
  | none => s
  | some x =>
    if x.commit then s
    else
      let s1 := bump (dropDusk s key) 0xB0 0x108
      let s2 := { s1 with power := { s1.power with last := (x.kind, 2, reason, unit) } }
      let s3 := if key = nightKey then
          finalAll ((List.range 3).foldl endPortNight s2) 0x802 nightKey rRefused (reason * 256 + unit) []
        else s2
      (List.range 4).foldl takeEnable s3

/-- An activation yields to Night (R431); a Ranger that is STOPPED stays so (R409). -/
def yieldAct (s : State) : State := match s.ranger.act with
  | none => s
  | some a =>
    let s1 := match a.phase with
      | .copy | .wait => s
      | _ =>
        let s1 := setBank s a.bank .bad (bankVersion s a.bank)
        setRangerSt { s1 with
          cfg := a.before
          boot := { s1.boot with bank := a.prev }
          ranger := { s1.ranger with wentBack := true } } (if s.ranger.st = .stopped then .stopped else .run)
    let s2 := actFinal (setAct s1 none) a rRefused 0x16FF
    if a.rollback then finalAll s2 0x705 (a.bank + 2) rRefused 0x16FF [] else s2

/-- The steps of a Night commit (R450, R527). -/
def nightCommit (s : State) : State :=
  let s1 := (List.range 4).foldl enterOff (yieldAct s)
  let s2 := (List.range 3).foldl (fun s p => s.setPort p { s.port p with st := .down }) s1
  let s3 := s2.mem.cache.foldl evictLine s2
  { s3 with
    cores := []
    mem := { s3.mem with lines := [], cache := [], tlb := [], icache := [] }
    ranger := { s3.ranger with asleep := true }
    power := { s3.power with
      on := []
      padHold := padUnits
      nightPads := padUnits
      pll := false
      corePwr := !s3.cfg.nightCoreOff
      coreAt := if s3.cfg.nightCoreOff then some s3.timer else s3.power.coreAt } }

/-- A step commits: a Night step at once takes the part down (R450); another switches its domains off by
DUSK_COMMIT_DONE. -/
def commitStep (s : State) (key : Nat) (x : DuskStep) : State :=
  let s1 := setDusk s (tset s.power.dusk key { x with
    phase := 3
    commit := true })
  if key = nightKey then
    let s2 := nightCommit s1
    { s2 with power := { s2.power with
      sleep := .commit
      forced := false } }
  else s1

/-- The first agent whose condition for acknowledging has ended, with the reason of its withdrawal (R447). -/
def withdrawn (s : State) (x : DuskStep) : Option (Nat × Nat) :=
  x.agents.findSome? fun e => match agentAnswer s x.kind e.1 with
    | .ack => none
    | .delay => some (dWork, agentUnit e.1)
    | .refuse r => some (r, agentUnit e.1)

/-- A step moves on once every agent asked has acknowledged (Table 14.6). -/
def advanceStep (s : State) (key : Nat) : State :=
  match tget? s.power.dusk key with
  | none => s
  | some x =>
    if x.commit ∨ x.agents.any fun e => e.2 != .acked then s
    else if x.kind = 3 ∧ x.phase = 1 then
      setDusk s (tset s.power.dusk key { x with
        phase := 2
        agents := x.agents ++ asked (nightPhase2 s) })
    else match withdrawn s x with
      | some (r, u) => cancelStep s key r u
      | none => commitStep s key x

def agentSt (x : DuskStep) (a : DuskAgent) : Option AgentSt := (x.agents.find? fun e => e.1 == a).map Prod.snd

/-- An agent of a step set. -/
def putAgent (s : State) (key : Nat) (x : DuskStep) (a : DuskAgent) (st : AgentSt) : State :=
  setDusk s (tset s.power.dusk key { x with
    agents := x.agents.map fun e => if e.1 = a then (a, st) else e
    delayer := if st = .delayed then agentUnit a else x.delayer })

/-- A dirty line written back: a host window's goes to the host, one of DRAM leaves the slice. -/
def writeBack (s : State) (ln : Nat) : State :=
  match s.mem.cache.find? fun e => e.line == ln && paKind (ln * 128) == .dram with
  | some e => evictLine s e
  | none => flushLine s ln

/-- What an agent does with its answer: a slice that delays writes its dirty lines back, a port that acknowledges keeps
its tenants over the link's loss (R451). -/
def answerEffect (s : State) (a : DuskAgent) (ans : Answer) : State :=
  match a, ans with
  | .slice n, .delay => (sliceDirty s n).foldl writeBack s
  | .port p, .ack => s.setPort p { s.port p with night := true }
  | _, _ => s

/-- Work wants a unit whose agent has acknowledged, so that the agent withdraws (R448): a command with work left for a core
or its array, an ENABLE that waits for an output. -/
def wanted (s : State) : DuskAgent → Bool
  | .core n | .array n => s.cmds.any fun e => (s.ctx e.2.ctx).st == .live
      && (groupsLeft s e.1 != 0 || (ownersLeft s e.1).contains n || s.sched.saved.any fun x => x.cmd == e.1 && x.core == n)
  | .output n => (s.output n).waitEnable
  | .prism n => (s.output (2 * n)).waitEnable || (s.output (2 * n + 1)).waitEnable
  | _ => false

/-- DUSK_ANSWER (R447, R448, Table 14.7): the answer of an agent that was asked, or the withdrawal of one that has
acknowledged. -/
def execDuskAnswer (step : Nat) (agent : DuskAgent) (s : State) : Outc :=
  .next (match tget? s.power.dusk step with
    | none => s
    | some x =>
      if x.commit then s
      else
        let ans := agentAnswer s x.kind agent
        match agentSt x agent, ans with
        | some .asked, .ack => advanceStep (putAgent (answerEffect s agent ans) step x agent .acked) step
        | some .asked, .delay => putAgent (answerEffect s agent ans) step x agent .delayed
        | some .asked, .refuse r => cancelStep s step r (agentUnit agent)
        | some .acked, .ack => if x.kind ≠ 3 ∧ wanted s agent then cancelStep s step dWork (agentUnit agent) else s
        | some .acked, .delay => cancelStep s step dWork (agentUnit agent)
        | some .acked, .refuse r => cancelStep s step r (agentUnit agent)
        | _, _ => s)

/-- DUSK_REASK (R448): an agent's delay ends; past the budget the step is cancelled. -/
def execDuskReask (step : Nat) (agent : DuskAgent) (s : State) : Outc :=
  .next (match tget? s.power.dusk step with
    | none => s
    | some x =>
      if x.commit ∨ agentSt x agent ≠ some .delayed then s
      else if s.cfg.duskBudgetMs * oneMs < s.timer - x.start then cancelStep s step dDelay x.delayer
      else putAgent s step x agent .asked)

/-- DUSK_NO_ANSWER (R448, Table 14.8). -/
def execDuskNoAnswer (step : Nat) (agent : DuskAgent) (s : State) : Outc :=
  .next (match tget? s.power.dusk step with
    | none => s
    | some x => if x.commit ∨ agentSt x agent ≠ some .asked then s else cancelStep s step dSilent (agentUnit agent))

/-- Units switched off, their pads held (R458). A core takes its array with it (R18). -/
def switchOff (s : State) (units : List Nat) : State :=
  let us := units ++ (units.filter fun u => decide (u < 0x30)).map (0x30 + ·)
  let s1 := us.foldl (fun s u => if u < 0x30 then s.setCore u .reset else s) s
  let hold := us.filter fun u => padUnits.contains u && !s.power.padHold.contains u
  { s1 with
    mem := { s1.mem with icache := s1.mem.icache.filter fun e => !us.contains e.core }
    power := { s1.power with
      on := s1.power.on.filter fun u => !us.contains u
      padHold := s1.power.padHold ++ hold } }

/-- DUSK_COMMIT_DONE (R448, R450): every domain of the step is off. -/
def execDuskCommitDone (step : Nat) (s : State) : Outc :=
  .next (match tget? s.power.dusk step with
    | none => s
    | some x =>
      if !x.commit then s
      else
        let s1 := bump (dropDusk s step) 0xB0 0x100
        let s2 := { s1 with power := { s1.power with last := (x.kind, 1, 0, 0) } }
        if step = nightKey then
          let s3 := bump s2 0xB0 0x118
          { s3 with power := { s3.power with sleep := .night } }
        else (List.range 4).foldl takeEnable (switchOff s2 x.units))

/-- A domain whose step starts only once it has been idle: cores, arrays, Chipper engines and binners (R446). -/
def gatedWhenIdle (unit : Nat) : Bool := decide (unit < 0x90) || unit == 0x9C || unit == 0x9D

/-- A unit that is retired, or leaves by the retirement path, which asks for no Dusk step (R446, R476). -/
def retiring (s : State) (u : Nat) : Bool :=
  (tget? s.avail.leaving u).isSome
    || (if u < 0x30 then !s.maps.core.getLsbD u else decide (u < 0x60) && !s.maps.tensor.getLsbD (u - 0x30))

/-- IDLE_GATE_START (R18, R272, R446, R448): a domain has been idle for IDLE_GATE_US; for an output, its own step. -/
def execIdleGateStart (unit : Nat) (s : State) : Outc :=
  let w := s.power
  .next (match unitAgent unit with
    | none => s
    | some a =>
      let out := decide (0x94 ≤ unit ∧ unit < 0x98)
      let kind := if out then 2 else 1
      let units := if unit < 0x30 ∧ w.on.contains (0x30 + unit) then [unit, 0x30 + unit] else [unit]
      if !w.on.contains unit ∨ !s.ranger.up ∨ (!out ∧ s.cfg.idleGateUs = 0) ∨ (tget? w.dusk nightKey).isSome ∨ 8 ≤ w.dusk.length
          ∨ w.dusk.any (fun e => units.any e.2.units.contains) ∨ (gatedWhenIdle unit ∧ agentAnswer s kind a ≠ .ack)
          ∨ (unit < 0x60 ∧ s.avail.testing.contains (unit % 0x30)) ∨ units.any (retiring s) then s
      else setDusk s (tset w.dusk unit
        { kind := kind, units := units, phase := 0, agents := asked (units.filterMap unitAgent), delayer := 0xFF
          start := s.timer, commit := false }))

/-- A Night step starts: other steps that have not committed end, recorded nowhere (R448). -/
def startNight (s : State) : State :=
  setDusk s (tset (s.power.dusk.filter fun e => e.2.commit) nightKey
    { kind := 3, units := s.power.on, phase := 1, agents := asked (nightPhase1 s), delayer := 0xFF, start := s.timer, commit := false })

/-- Pads of units released. -/
def releasePads (s : State) (p : Nat → Bool) : State :=
  let s1 := { s with power := { s.power with
    padHold := s.power.padHold.filter fun u => !p u
    nightPads := s.power.nightPads.filter fun u => !p u } }
  (List.range 4).foldl takeEnable s1

/-- The pads of PD_DBG stay held once the part is scorched (R484). -/
def padsLocked (s : State) (u : Nat) : Bool := u == 0xBE && s.fuses.scorched

/-- The pads that POWER_STATE RUN releases: those of every powered domain (R456), and those of the outputs and PD_DBG held
since a Night, which stay held until then though their domains are off (R458). -/
def runReleases (s : State) (u : Nat) : Bool :=
  (s.power.on.contains u || (s.power.nightPads.contains u && ((0x94 ≤ u && decide (u < 0x98)) || u == 0xBE))) && !padsLocked s u

/-- POWER_STATE (R448, R450, R456, Table 13.14). -/
def execPowerState (r : Req) (s : State) : Outc :=
  .next (serve r 0x802 (some 1) (fun s =>
    let t := reqField r 0 1
    let night := tget? s.power.dusk nightKey
    roleThen (isM s r || isI r) 1 (paramFail r [(0, 1)] [(0, decide (t < 2))]) s
      (if t = 1 then (if night.isSome then (s, .busy 1) else (startNight s, .accepted nightKey))
       else match night with
         | some _ => (cancelStep s nightKey dRun 0xFF, .ok)
         | none =>
           let s1 := releasePads s (runReleases s)
           ({ s1 with power := { s1.power with
             woken := false
             dataLost := false } }, .ok))) s)

/-- Bytes of DRAM whose content is lost, and DATA_LOST (R452). -/
def loseData (s : State) (lost : Option (List (Nat × Byte))) : State := match lost with
  | none => s
  | some l =>
    { s with
      mem := { s.mem with dram := l.foldl (fun m e => if e.1 < s.boot.dramInstalled then m.put e.1 e.2 else m) s.mem.dram }
      power := { s.power with dataLost := true } }

/-- A Dusk step that a forced Night ends (R452): one in COMMIT, which cannot be cancelled, is done with every domain off; any
other is cancelled (reason and unit: DESIGN CHOICE, log entry 77). -/
def forceEnd (s : State) (e : Nat × DuskStep) : State :=
  let s1 := bump (dropDusk s e.1) 0xB0 (if e.2.commit then 0x100 else 0x108)
  { s1 with power := { s1.power with last := if e.2.commit then (e.2.kind, 1, 0, 0) else (e.2.kind, 2, dRun, 0xFF) } }

/-- Forced Night (R452): no Dusk; resident and held work discarded. `lost`: DRAM content that did not survive. -/
def forceNight (s : State) (lost : Option (List (Nat × Byte))) : State :=
  let s0 := s.power.dusk.foldl forceEnd s
  let s1 := if (tget? s.power.dusk nightKey).isSome then finalAll s0 0x802 nightKey rRefused 0x06FF [] else s0
  let s2 := (List.range 3).foldl (fun s p => if (s.port p).up then linkLoss s p else s) s1
  let s3 := dropCommands (stopChipOf s2 fun _ _ => true) fun _ => true
  let s4 := nightCommit (loseData { s3 with lanes := [] } lost)
  let s5 := bump (bump s4 0xB0 0x118) 0xB0 0x120
  { s5 with power := { s5.power with
    sleep := .night
    forced := true } }

/-- ADDRESS_MATCH (R454, R527): latched in Night and during a commit; no other event wakes. -/
def execAddressMatch (s : State) : Outc :=
  .next (if s.power.sleep = .awake then s else corePower { s with power := { s.power with wake := true } })

/-- PG_CORE has been high for 100 µs since CORE_PWR_EN rose, so that the wake sequence may start (R527). -/
def coreReady (s : State) : Bool := s.power.corePwr && match s.power.coreAt with
  | some t => decide (3840 ≤ s.timer - t)
  | none => true

/-- WAKE_COMPLETE (R451, R455, R456, R458, R527, R530). -/
def execWakeComplete (s : State) : Outc :=
  .next (if s.power.sleep ≠ .night ∨ !s.power.wake ∨ s.power.tripped ∨ !coreReady s then s
    else
      let ports := (List.range 3).filter (portLanes s)
      let up := (List.range 16).map (0x60 + ·) ++ ports.map (0x98 + ·)
      let s1 := up.foldl (fun s _ => bump s 0xB0 0x110) s
      let s2 := { s1 with
        ranger := { s1.ranger with asleep := false }
        power := { s1.power with
          on := up
          padHold := s1.power.padHold.filter fun u => !up.contains u
          nightPads := s1.power.nightPads.filter fun u => !up.contains u
          pll := true
          sleep := .awake
          wake := false
          woken := true } }
      let s3 := kreogRuns ((List.range 3).foldl (fun s p => s.setPort p { s.port p with grace := (s.port p).night }) s2)
      raiseIbi (finalAll s3 0x802 nightKey rOk 0 []) 0x01 [])

/-- A port's agent has acknowledged the Night step in progress, from where on R451 holds anew. -/
def portAcked (s : State) (p : Nat) : Bool := match tget? s.power.dusk nightKey with
  | some x => agentSt x (.port p) == some .acked
  | none => false

/-- NIGHT_LINK_GRACE_EXPIRY (R451): the link has not come up by NIGHT_LINK_GRACE_MS after the wake. -/
def execNightLinkGraceExpiry (p : Nat) (s : State) : Outc :=
  .next (if 3 ≤ p ∨ s.power.sleep ≠ .awake ∨ !(s.port p).grace ∨ (s.port p).up ∨ portAcked s p then s else linkLoss s p)

/-- A domain that Ranger may power when it is needed (R18, R445, R484). -/
def mayPower (s : State) (u : Nat) : Bool :=
  if u < 0x30 then s.maps.core.getLsbD u && !committing s u
  else if u < 0x60 then s.maps.tensor.getLsbD (u - 0x30) && domainOn s (u - 0x30)
  else if u < 0x80 then false
  else if committing s u then false
  else if u = 0xBE then s.ranger.debug && !s.fuses.scorched
  else if u = 0x90 ∨ u = 0x91 then (s.output (2 * (u - 0x90))).src != .off || (s.output (2 * (u - 0x90) + 1)).src != .off
  else (0x80 ≤ u && decide (u < 0x84)) || u == 0x9C || u == 0x9D

/-- DOMAIN_POWER_UP_DONE (R445). -/
def execDomainPowerUpDone (unit : Nat) (s : State) : Outc :=
  .next (if s.power.sleep ≠ .awake ∨ s.boot.stage ≠ 6 ∨ !s.power.pll ∨ !mayPower s unit then s else powerOn s unit)

/-- The hardware floor (R529). -/
def thermalFloor (s : State) : State :=
  let s1 := setPair s 12 1
  { s1 with power := { s1.power with
    floor := true
    limit := 2 } }

/-- THERMAL_SAMPLE (R529, R530): the hottest reading, every 100 µs; `lost` as for a forced Night. -/
def execThermalSample (tj : Int) (lost : Option (List (Nat × Byte))) (s : State) : Outc :=
  let m := tjMax s
  let w := s.power
  let hot := if m + 5 ≤ tj then w.hotFloor + 1 else 0
  let shut := if m + 10 ≤ tj then w.hotShut + 1 else 0
  let cold := if tj ≤ m then w.coolFloor + 1 else 0
  let s1 := { s with power := { w with
    hotFloor := hot
    hotShut := shut
    coolFloor := cold
    floor := w.floor && decide (cold < 101)
    tripped := w.tripped && decide (m - 10 < tj) } }
  let s2 := if m + 5 ≤ tj then thermalFloor s1 else s1
  .next (if w.tripped ∨ (shut < 11 ∧ hot < 1001) then s2
    else
      let s3 := { s2 with power := { s2.power with tripped := true } }
      let s4 := if s3.power.sleep = .night then s3 else forceNight s3 lost
      recordError s4 0x26 0xFF (if s4.power.dataLost then 4 else 2) 0)

end Sys2Proof.Machine
end

