-- ==== Sys2Proof/Machine/Avail.lean ====
section
/-! DEFINITION. Availability (R463 to R480): errors of arrays and their scrubbing, retirement, self-test, isolation. -/

namespace Sys2Proof.Machine

/-- The error collector's own window of counters (Table 15.6). -/
def uAvail : Nat := 0xFF

/-- A second of the device timer. -/
def oneSecond : Nat := 38400000

/-- A correction of an on-chip array, or by a scrubber (R463, R470): scrub corrections are recorded once a second and
unit. -/
def noteCorrected (s : State) (kind unit loc : Nat) (onChip scrub : Bool) : State :=
  let s1 := if onChip then bump s uAvail 0x100 else s
  let s2 := countError (if scrub then bump s1 uAvail 0x110 else s1) unit kind false
  if !scrub then recordError s2 kind unit 1 loc
  else match tget? s2.avail.scrubTimes unit with
    | some t => if t / oneSecond = s.timer / oneSecond then s2 else recordError { s2 with avail := { s2.avail with
        scrubTimes := tset s2.avail.scrubTimes unit s.timer } } kind unit 1 loc
    | none => recordError { s2 with avail := { s2.avail with scrubTimes := tset s2.avail.scrubTimes unit s.timer } } kind unit 1 loc

/-- An uncorrectable error of an on-chip array: counted, recorded, and counted toward R474 under `key`. -/
def noteLost (s : State) (kind unit key loc : Nat) : State :=
  countError (recordError (bump s uAvail 0x108) kind unit 2 loc) key kind true

/-- A word's poison mark set (R464). -/
def poisonWord (s : State) (w : Nat) : State :=
  if s.mem.poison.contains w then s else s.setMem { s.mem with poison := s.mem.poison ++ [w] }

/-- A job or segment of an engine fails for its memory (Table 15.1, R394, R178). -/
def failEngine (s : State) (e : Nat) : State :=
  match (s.eng e).seg with
  | some r => (match segOf s r with
    | some (p, w, _) => failSegment s e r p w r.pos cEcc 7 none
    | none => s)
  | none => match (s.eng e).cur with
    | some c => (match (s.engCtx c).job with
      | some j => failJob s e c j j.pos (.code cEcc 7 (uChip e) j.pos)
      | none => s)
    | none => s

/-- Kind, unit, location, whether the array is on chip, and whether a scrubber reads it (R466, Table 15.4). -/
def siteInfo : ArraySite → Nat × Nat × Nat × Bool × Bool
  | .register k _ a => (0x01, k, a, true, false)
  | .tile k _ a => (0x02, k, a, true, true)
  | .weight k w => (0x06, 0x30 + k, w, true, false)
  | .icache k _ _ a => (0x04, k, a, true, false)
  | .tlb u _ a => (0x05, u, a, true, false)
  | .cacheData n _ _ w => (0x07, 0x60 + n, w / 16 * 128, true, true)
  | .cacheTag n l => (0x08, 0x60 + n, l * 128, true, false)
  | .directory n l => (0x09, 0x60 + n, l * 128, true, false)
  | .ranger _ a => (0x0A, 0xB0, a, true, false)
  | .prism n a _ => (0x0B, 0x90 + n / 2, a, true, false)
  | .beacon n w => (0x0C, 0x94 + n, w, true, false)
  | .chipper e a => (0x0D, 0x80 + e, a, true, false)
  | .fence f => (0x0E, 0xB2, f, true, false)
  | .dram w => (0x11, 0x70 + homeSlice (w * 8), w / 16 * 128, false, true)
  | .link l _ _ _ => (0x10, 0x70 + homeSlice (l * 128), l * 128, false, false)

/-- The site exists and its array is powered. -/
def siteHere (s : State) : ArraySite → Bool
  | .register k w _ => decide (k < 48) && domainOn s k && decide (w < 64 * 8192)
  | .tile k w _ => decide (k < 48) && domainOn s k && decide (w < 2 ^ 24 + 131072)
  | .weight k w => decide (k < 48) && domainOn s (0x30 + k) && decide (w < 8192)
  | .icache k _ _ _ => decide (k < 48) && domainOn s k
  | .tlb u _ _ => (decide (u < 0x30) && domainOn s u) || (decide (0xA0 ≤ u ∧ u < 0xA6) && domainOn s 0x60)
  | .cacheData n set way w => decide (n < 16) && domainOn s 0x60 && homeSlice (w * 8) == n && w / 256 % 2048 == set && decide (way < 16)
      && s.mem.cache.any fun e => e.line == w / 16 && e.way == way
  | .cacheTag n l => decide (n < 16) && domainOn s 0x60 && homeSlice (l * 128) == n
  | .directory n l => decide (n < 16) && domainOn s 0x60 && homeSlice (l * 128) == n
  | .ranger r _ => match r with
    | some ch => decide (ch < 17) && channelLive s ch
    | none => true
  | .prism n _ _ => decide (n < 4) && domainOn s (0x90 + n / 2)
  | .beacon n w => decide (n < 4) && w / 131072 == n / 2
  | .chipper e _ => decide (e < 4) && domainOn s (0x80 + e)
  | .fence f => decide (f < nFences)
  | .dram w => s.cfg.inlineEcc && paKind (w * 8) == .dram && decide (w * 8 < s.boot.dramInstalled) && domainOn s 0x60
  | .link l _ _ _ => paKind (l * 128) == .dram && decide (l * 128 < s.boot.dramInstalled) && domainOn s 0x60

/-- What an uncorrectable error does beside its record (Table 15.1, R464, R466, R469). -/
def siteLost (s : State) : ArraySite → State
  | .register k w _ => let c := s.core k
    s.setCore k { c with badReg := if c.badReg.contains w then c.badReg else c.badReg ++ [w] }
  | .tile k w _ => let c := s.core k
    s.setCore k { c with badTile := if c.badTile.contains w then c.badTile else c.badTile ++ [w] }
  | .weight k w => let c := s.core k
    s.setCore k { c with badWeight := if c.badWeight.contains w then c.badWeight else c.badWeight ++ [w] }
  | .icache k ctx l _ => s.setMem { s.mem with icache := s.mem.icache.filter fun e => !(e.core == k && e.ctx == ctx && e.line == l) }
  | .tlb _ i _ => s.setMem { s.mem with tlb := s.mem.tlb.eraseIdx i }
  | .cacheData _ _ _ w => poisonWord s w
  | .cacheTag _ _ => suspectData s
  | .directory _ l => invalidateLine (suspectData s) none l
  | .ranger r _ => match r with
    | some ch => abortChannel s ch
    | none => restartRanger 4 s
  | .prism n _ ps => ps.foldl (fun s p => replacePixel s n p.1 p.2) s
  | .beacon n w => { s with prism := { s.prism with badStore := s.prism.badStore ++ [n * 262144 + w] } }
  | .chipper e _ => failEngine s e
  | .fence f => settle [.poison f] s
  | .dram w => poisonWord s w
  | .link _ _ _ _ => s

/-- What counts an uncorrectable error toward retirement: a cache location, else the unit. -/
def siteKey : ArraySite → Nat
  | .cacheData n set way _ => locKey n set way
  | x => (siteInfo x).2.1

/-- SCRUB_READ (R463, R464, R466 to R470): a word or line of an array read, by a scrubber or on demand. An error on demand
comes before the read that meets it, which then finds the word poisoned. -/
def execScrubRead (site : ArraySite) (found : ScrubFound) (s : State) : Outc :=
  let (kind, unit, loc, chip, scrub) := siteInfo site
  let corrected := fun (s : State) (scrub : Bool) => noteCorrected (if chip then s else bump s unit 0x120) kind unit loc chip scrub
  let lost := fun (s : State) =>
    if chip then siteLost (noteLost s kind unit (siteKey site) loc) site
    else siteLost (recordError (bump s unit 0x128) kind unit 2 loc) site
  let patrol := if chip then s else bump s unit 0x130
  .next (if s.power.sleep ≠ .awake ∨ !siteHere s site then s
    else match site with
      | .link l c r ws => linkErrors s l ⟨[], c, r, ws⟩
      | _ => match found with
        | .clean => patrol
        | .corrected => corrected patrol scrub
        | .uncorrectable => lost patrol
        | .demandCorrected => corrected s false
        | .demandLost => lost s)

/-- WRITE_LINK_POLL (R468): the count that the devices of a channel kept over 100 ms. -/
def execWriteLinkPoll (channel n : Nat) (s : State) : Outc :=
  .next (if 16 ≤ channel ∨ s.power.sleep ≠ .awake ∨ s.boot.stage ≠ 6 then s else bumpBy s (0x70 + channel) 0x118 n)

/-- A core or array cleared from the maps in one update (R19, R476 step 2). -/
def clearUnit (m : Maps) (u : Nat) : Maps :=
  let bit := fun (n : Nat) => (1#48) <<< n
  if u < 0x30 then ⟨m.core &&& ~~~bit u, m.tensor &&& ~~~bit u, m.gen + 1⟩
  else ⟨m.core, m.tensor &&& ~~~bit (u - 0x30), m.gen + 1⟩

/-- The pass of a context that has faulted ends on a unit that leaves (R371, R476 step 3): its tile in progress there goes, and no
tile of it starts again. A context whose fault has another cause is treated alike (DESIGN CHOICE, log entry 139). -/
def endDead (s : State) (u : Nat) : State :=
  let k := u % 0x30
  let c := s.core k
  let tile := (c.run.toList.map TileRun.cmd) ++ if u < 0x30 then c.raster.toList.map RasterRun.cmd else []
  let dead := tile.filter (heldCmd s)
  if dead = [] then s else requeueOn (s.setCore k (c.dropCmds dead.contains)) k

/-- Work on a retired unit that is saved and moves (R364, R476 step 3): not the tile in progress of a pass, which a faulted
context loses. -/
def moveWork (si : State) (u : Nat) : State :=
  let k := u % 0x30
  let s := endDead si u
  let c := s.core k
  let tile := (c.run.toList.map TileRun.cmd) ++ (c.raster.toList.map RasterRun.cmd)
  let ids := c.cmdsOn.filter fun i => !tile.contains i && c.wgs.any fun w => w.2.live && w.2.cmd == i && (decide (u < 0x30) || w.2.prog.tensor)
  ids.foldl (fun s i => preemptOne s k i i .leaves) s

/-- What a map change does to the commands in progress: render passes reassign their tiles (R229), and a command with no eligible
unit left faults its context (R183). Cuts restart by CUT_RESTART. -/
def mapChanged (s : State) : State :=
  s.cmds.foldl (fun s (e : Nat × Cmd) =>
    let c := cmdOf s e.1
    if (s.ctx c.ctx).st ≠ .live then s
    else match tget? s.renders e.1 with
      | some r =>
        let (s1, r1) := refit s e.1 r
        if r1.order = [] then unitFault s1 e.1 dNoCoreUnit else s1
      | none =>
        if c.kind = .dispatch ∧ c.doneWgs < c.total then
          (match noUnit s (s.ctx c.ctx).heritage c.prog.tensor with
          | some d => unitFault s e.1 d
          | none => s)
        else s) s

/-- The map update of a retirement (R476 steps 1 to 3, R477). -/
def retireUnit (s : State) (u : Nat) : State :=
  if (if u < 0x30 then !s.maps.core.getLsbD u else !s.maps.tensor.getLsbD (u - 0x30)) then s
  else if u < 0x30 ∧ (clearUnit s.maps u).core = 0 then
    recordError { s with avail := { s.avail with
      retireHeld := true
      testing := s.avail.testing.filter (· != u) } } 0x23 u 3 0
  else
    let m := clearUnit s.maps u
    let s1 := bump { s with
      maps := m
      avail := { s.avail with
        testing := s.avail.testing.filter fun k => k != u % 0x30
        tests := s.avail.tests.filter fun k => k != u
        leaving := tset s.avail.leaving u (m.gen, m.core.toNat) } } uAvail 0x130
    moveWork (mapChanged s1) u

/-- An entry of the retirement list, in the flash record (R478, Table 16.13). -/
def appendRetired (s : State) (kind unit loc : Nat) : State :=
  let old := (readRec s retireRec).getD []
  let n := fieldAt old 0 2
  let pl := leBytes 2 (n + 1) ++ (old.drop 2).take (4 * n) ++ leBytes 1 kind ++ leBytes 1 unit ++ leBytes 2 loc
  let s1 := writeRec s retireRec pl
  { s1 with avail := { s1.avail with retirements := n + 1 } }

/-- A cache location disabled (R476, R477): the line that lies there leaves, a host window's dirty one written back, a line of
DRAM with its poison marks; `line` is the line that the condition names. -/
def disableLoc (s : State) (slice set way line : Nat) : State :=
  if s.mem.ways.contains (slice, set, way) then s
  else if 64 ≤ (s.mem.ways.filter fun w => w.1 == slice).length then recordError s 0x25 (0x60 + slice) 3 (line * 128)
  else
    let here := s.mem.cache.filter fun e => homeSlice (e.line * 128) == slice && cacheSet e.line == set && e.way == way
    let s1 := here.foldl (fun s e => match paKind (e.line * 128) with
      | .host _ _ => evictLine s e
      | _ => s.setMem { s.mem with cache := s.mem.cache.filter fun x => x.line != e.line }) s
    let s2 := s1.setMem { s1.mem with ways := s1.mem.ways ++ [(slice, set, way)] }
    appendRetired (recordError (bump s2 uAvail 0x138) 0x24 (0x60 + slice) 3 (line * 128)) 2 (0x60 + slice) (set * 16 + way)

/-- It is the turn of what is due (R477): of the units that became due together, the lowest goes first. -/
def dueTurn (s : State) (what : Nat) : Bool :=
  s.avail.due.all fun u => decide (what ≤ u) || tget s.avail.dueAt u 0 != tget s.avail.dueAt what 0

/-- RETIREMENT (R474, R476, R477): a unit number, or a cache location as locKey numbers it, that is due. -/
def execRetirement (what line : Nat) (s : State) : Outc :=
  .next (if !s.avail.due.contains what ∨ !dueTurn s what then s
    else
      let s1 := { s with avail := { s.avail with
        due := s.avail.due.filter (· != what)
        dueAt := tdrop s.avail.dueAt (· == what) } }
      if what < 0x60 then retireUnit s1 what
      else
        let l := what - 0x10000
        disableLoc s1 (l / 32768) (l / 16 % 2048) (l % 16) line)

/-- Nothing remains on a core, or on its array (R476 step 4). -/
def unitClear (s : State) (u : Nat) : Bool :=
  let c := s.core (u % 0x30)
  if u < 0x30 then
    !(c.wgs.any fun w => w.2.live) && c.run.isNone && c.raster.isNone && c.arrayIdle && c.stores == [] && c.saving == []
  else tensorIdle c

/-- RETIRE_POWER_OFF (R476 steps 4 to 6). -/
def execRetirePowerOff (unit : Nat) (si : State) : Outc :=
  .next (match tget? si.avail.leaving unit with
    | none => si
    | some (gen, map) =>
      let s := endDead si unit
      if !unitClear s unit then s
      else
        let s1 := switchOff s (if unit < 0x30 then [unit, 0x30 + unit] else [unit])
        let ps := s1.sched.preempts.filter fun p => !(unit < 0x30 && p.core == unit)
        let s2 := { s1 with
          sched := { s1.sched with preempts := ps }
          avail := { s1.avail with
            leaving := tdrop s1.avail.leaving (· == unit)
            events := s1.avail.events ++ [(unit, gen, map)] } }
        appendRetired (recordError s2 0x22 unit 3 0) 1 unit 0)

/-- CORE_RETIRED (R415, R476 step 5): Kreog delivers the oldest queued event. -/
def execCoreRetired (s : State) : Outc :=
  .next (match s.avail.events with
    | [] => s
    | (u, gen, map) :: r =>
      if !s.ranger.up then s else postEvent { s with avail := { s.avail with events := r } } 4 u gen map)

/-- SELF_TEST_START (R474, R475): nothing remains resident on a core whose test is due; a pass's reservation between two
tiles holds nothing. The test clears tile memory and the weight buffer. -/
def execSelfTestStart (core : Nat) (s : State) : Outc :=
  .next (if !s.avail.tests.contains core ∨ !domainOn s core ∨ !unitClear s core then s
    else
      let c := s.core core
      let s1 := s.setCore core { Core.reset with errLog := c.errLog }
      { s1 with
        mem := { s1.mem with icache := s1.mem.icache.filter fun e => e.core != core }
        avail := { s1.avail with
          tests := s1.avail.tests.filter (· != core)
          testing := core :: s1.avail.testing } })

/-- A failed self-test (R474): recorded, and the core or the array alone is due. -/
def testFailed (s : State) (u : Nat) : State := addDue (recordError (bump s uAvail 0x128) 0x20 u 2 0) u

/-- SELF_TEST_DONE (R475): the core is available again, or is retired. -/
def execSelfTestDone (core : Nat) (coreFail arrayFail : Bool) (s : State) : Outc :=
  .next (if !s.avail.testing.contains core then s
    else
      let s1 := bump s uAvail 0x120
      if coreFail then testFailed s1 core
      else if arrayFail ∧ s.maps.tensor.getLsbD core then testFailed s1 (0x30 + core)
      else { s1 with avail := { s1.avail with testing := s1.avail.testing.filter (· != core) } })

/-- A stop that a unit may fail to complete is under way (R479): of a context, of a tenant, or of R476 step 3. -/
def stopping (s : State) (core : Nat) : Bool :=
  (tget? s.avail.leaving core).isSome || (tget? s.avail.leaving (0x30 + core)).isSome
    || (s.ctxs.any fun e => e.2.st == .resetting || e.2.st == .destroying) || (s.tenants.any fun e => e.2.st == .gone)

/-- The contexts that had work resident on a core. -/
def ctxsOn (s : State) (core : Nat) : List Nat :=
  let c := s.core core
  (c.cmdsOn ++ c.holder.toList).foldl (fun acc i => let x := (cmdOf s i).ctx
    if acc.contains x then acc else acc ++ [x]) []

/-- UNIT_ISOLATION (R474, R479): every state that the unit holds is discarded, its instruction cache and the preemptions under
way there with it; the contexts that had work there and are not being stopped fault with UNIT_LOST, and the core is retired with
its array. -/
def execUnitIsolation (unit : Nat) (s : State) : Outc :=
  let k := unit % 0x30
  .next (if 0x60 ≤ unit ∨ !s.power.on.contains k ∨ !stopping s k then s
    else
      let others := (ctxsOn s k).filter fun c => (s.ctx c).st == .live || (s.ctx c).st == .faulted
      let s1 := others.foldl (fun s c => raise s ⟨c, ⟨cEcc, 6, 0, false, 0, 0⟩, k, 0xFF, false, 0xFFFF, 0, 0⟩) s
      let s2 := s1.setCore k { Core.reset with errLog := (s1.core k).errLog }
      let ps := s2.sched.preempts.filter fun p => p.core != k
      let s3 := { s2 with
        mem := { s2.mem with icache := s2.mem.icache.filter fun e => e.core != k }
        sched := { s2.sched with preempts := ps } }
      retireUnit (recordError (bump s3 uAvail 0x140) 0x21 k 2 0) k)

end Sys2Proof.Machine
end

