-- ==== Sys2Proof/Machine/Sideband.lean ====
section
/-! DEFINITION. The I3C target (R501 to R506), and the JTAG TAP with the debug access port (R482 to R484, R510, R512). -/

namespace Sys2Proof.Machine

/-- The target takes private writes and CCCs: reset is released, the part is awake (R454), and no HDR mode hides the bus. -/
def i3cUp (s : State) : Bool := s.boot.running && s.power.sleep == .awake && !s.i3c.hdr

/-- The target follows the bus: reset is released, and no HDR mode hides it. In Night too it hears what asks for no answer
(R454, R501, R513). -/
def i3cHears (s : State) : Bool := s.boot.running && !s.i3c.hdr

/-- A whole 8-byte write by the I3C target. -/
def fullWrite (v : DWord) : Access := ⟨0, 0, none, 0xFF, v⟩

/-- A command runs: a tenant reset that has not ended (R505). -/
def i3cBusy (s : State) : Bool := match s.i3c.running with
  | some t => (s.tenant t).resetting
  | none => false

/-- I3C_CMD_STATUS after a command. -/
def cmdDone (s : State) (op result : Nat) : State :=
  { s with i3c := { s.i3c with cmdStatus := BitVec.ofNat 32 (result * 256 + op) } }

/-- What a defined OP does (Table 16.10): the state after it, none for an ARG out of range. -/
def i3cOp (s : State) (op arg : Nat) (lost : Option (List (Nat × Byte))) : Option State :=
  if op = 1 then
    (if arg < nFences ∧ (s.fence arg).st ≠ .free then some (settle [.poison arg] s) else none)
  else if op = 2 then
    (if arg < nTenants ∧ (s.tenant arg).st = .live then some (selfReset s arg) else none)
  else if op = 3 then some (forceNight s lost)
  else if op = 4 then
    (if 123 ≤ arg ∧ arg ≤ 127 then
      let u := if arg = 127 then 0xBE else 0x94 + (arg - 123)
      some (releasePads s fun x => x == u && !padsLocked s u)
    else none)
  else if arg < 2 then
    let rest := s.prism.locks.filter (· != arg)
    some { s with prism := { s.prism with locks := if op = 5 then arg :: rest else rest } }
  else none

/-- A write of I3C_CMD (R505). -/
def i3cCommand (s : State) (op arg confirm : Nat) (lost : Option (List (Nat × Byte))) : State :=
  if !i3cUp s ∨ op = 0 ∨ 6 < op ∨ confirm ≠ 0x5A00 + op then s
  else if i3cBusy s then cmdDone s op 2
  else match i3cOp s op arg lost with
    | some s1 => cmdDone { s1 with i3c := { s1.i3c with running := if op = 2 then some arg else none } } op 0
    | none => cmdDone s op 1

/-- POISON_FENCE, RESET_TENANT, FORCE_NIGHT, RELEASE_PADS, BEACON_LOCK and BEACON_UNLOCK (R266, R452, R458, R505). -/
def execPoisonFence (arg : BitVec 32) (confirm : BitVec 16) (s : State) : Outc := .next (i3cCommand s 1 arg.toNat confirm.toNat none)
def execResetTenant (arg : BitVec 32) (confirm : BitVec 16) (s : State) : Outc := .next (i3cCommand s 2 arg.toNat confirm.toNat none)
def execForceNight (arg : BitVec 32) (confirm : BitVec 16) (lost : Option (List (Nat × Byte))) (s : State) : Outc :=
  .next (i3cCommand s 3 arg.toNat confirm.toNat lost)
def execReleasePads (arg : BitVec 32) (confirm : BitVec 16) (s : State) : Outc := .next (i3cCommand s 4 arg.toNat confirm.toNat none)
def execBeaconLock (arg : BitVec 32) (confirm : BitVec 16) (s : State) : Outc := .next (i3cCommand s 5 arg.toNat confirm.toNat none)
def execBeaconUnlock (arg : BitVec 32) (confirm : BitVec 16) (s : State) : Outc := .next (i3cCommand s 6 arg.toNat confirm.toNat none)

/-- A write to a Flume register of the I3C channel (Table 13.2, R411, R414, R417). -/
def writeI3cFlume (s : State) (v : DWord) (off : Nat) : State :=
  let c := s.channel i3cChannel
  let w := v.toNat % 2 ^ 32
  if off = 0 then
    let d := (w + 2 ^ 32 - c.last) % 2 ^ 32
    if d = 0 ∨ 2 ^ 31 ≤ d ∨ 1024 < (w + 2 ^ 32 - c.reqRead) % 2 ^ 32 then s else s.setChannel i3cChannel { c with last := w }
  else if off = 0x10 then (if readIndexOk c w then s.setChannel i3cChannel { c with readIndex := w } else s)
  else if off = 0x20 then writeFlumeCtl s (fullWrite v) i3cChannel
  else s

/-- An 8-byte register of the sideband space written whole (Table 16.9). -/
def writeSideReg (s : State) (a : Nat) (v : DWord) : State :=
  if 0x10000 ≤ a ∧ a < 0x14000 then
    let n := (a - 0x10000) / 0x1000
    let r := a % 0x1000
    if beaconRegHere r then writeBeaconReg s (fullWrite v) n r else s
  else if a = 0x20000 then i3cCommand s (bitsOf v.toNat 7 0) (bitsOf v.toNat 47 16) (bitsOf v.toNat 63 48) none
  else if 0x88000 ≤ a ∧ a < 0x88030 then writeI3cFlume s v (a - 0x88000)
  else s

/-- Ring and store bytes, which are written one by one (R503). -/
def sideBytes (a : Nat) : Bool := decide (0x80000 ≤ a ∧ a < 0x84000) || decide (0x100000 ≤ a)

/-- A byte of the Beacon store or of the I3C channel's request ring written (R503): BEACON_LOCK discards the owner's writes
only (R266). -/
def writeSideByte (s : State) (a : Nat) (b : Byte) : State :=
  if 0x100000 ≤ a ∧ a < 0x300000 then
    { s with prism := { s.prism with store := s.prism.store.put (a - 0x100000) b } }
  else if 0x80000 ≤ a ∧ a < 0x84000 then
    let c := s.channel i3cChannel
    s.setChannel i3cChannel { c with requests := c.requests.put (a - 0x80000) b }
  else s

/-- Bytes written from an address upward: ring and store bytes one by one, registers where all 8 bytes are covered (R503). -/
def sideWrite : Nat → State → Nat → List Byte → State
  | 0, s, _, _ => s
  | fuel + 1, s, a, bs =>
    match bs with
    | [] => s
    | b :: r =>
      if sideBytes a then sideWrite fuel (writeSideByte s a b) (a + 1) r
      else if a % 8 = 0 ∧ 8 ≤ bs.length then sideWrite fuel (writeSideReg s a (BitVec.ofNat 64 (leNat (bs.take 8)))) (a + 8) (bs.drop 8)
      else sideWrite fuel s (a + 1) r

/-- I3C_PRIVATE_WRITE (R503): at most the maximum write length is taken. -/
def execI3cPrivateWrite (bytes : List (BitVec 8)) (s : State) : Outc :=
  let bs := bytes.take s.i3c.mwl
  .next (if !i3cUp s ∨ bs.length < 4 then s
    else
      let p := leNat (bs.take 4)
      sideWrite bs.length { s with i3c := { s.i3c with ptr := (p + (bs.length - 4)) % 2 ^ 32 } } p (bs.drop 4))

/-- A change of the target's own state by a CCC. -/
def ccc (s : State) (f : I3c → I3c) : State := if i3cUp s then { s with i3c := f s.i3c } else s
/-- Bytes that the target returns to a CCC addressed to it. -/
def cccReturn (s : State) (data : List Byte) : State :=
  if i3cUp s && s.i3c.addr.isSome then { s with out := s.out ++ [.ccc data] } else s

/-- ENTDAA, SETDASA, SETNEWDA and RSTDAA (R501). -/
def execEntdaa (addr : BitVec 7) (s : State) : Outc :=
  .next (ccc s fun x => if x.addr.isNone then { x with addr := some addr.toNat } else x)
def execSetdasa (static addr : BitVec 7) (s : State) : Outc :=
  .next (ccc s fun x => if static.toNat = 0x30 + s.fuses.strap ∧ x.addr.isNone then { x with addr := some addr.toNat } else x)
def execSetnewda (addr : BitVec 7) (s : State) : Outc :=
  .next (ccc s fun x => if x.addr.isSome then { x with addr := some addr.toNat } else x)
def execRstdaa (s : State) : Outc := .next (if i3cHears s then { s with i3c := { s.i3c with addr := none } } else s)

/-- ENEC and DISEC (R506): bit 0 is the interrupt enable, bit 3 the Hot-Join enable (MIPI I3C, PRESUMED, log entry 83). -/
def execEnec (events : BitVec 8) (s : State) : Outc :=
  .next (ccc s fun x => { x with ibiEn := x.ibiEn || events.getLsbD 0, hotJoin := x.hotJoin || events.getLsbD 3 })
def execDisec (events : BitVec 8) (s : State) : Outc :=
  .next (ccc s fun x => { x with ibiEn := x.ibiEn && !events.getLsbD 0, hotJoin := x.hotJoin && !events.getLsbD 3 })

/-- The provisioned ID (Table 16.8). -/
def provisionedId (f : Fuses) : Nat := f.pid % 2 ^ 15 * 2 ^ 33 + 0x0960 * 2 ^ 16 + f.strap % 4 * 2 ^ 12 + 0x0B0
/-- Bytes of a number, the most significant first (MIPI I3C, PRESUMED). -/
def msbFirst (n v : Nat) : List Byte := (leBytes n v).reverse

/-- GETPID, GETBCR and GETDCR (Table 16.8). -/
def execGetpid (s : State) : Outc := .next (cccReturn s (msbFirst 6 (provisionedId s.fuses)))
def execGetbcr (s : State) : Outc := .next (cccReturn s [0x06])
def execGetdcr (s : State) : Outc := .next (cccReturn s [0x00])

/-- GETSTATUS (R501): the two status bytes are not given. -/
def execGetstatus (s : State) : Outc :=
  let (bs, s1) := freeBytes s 2
  .next (cccReturn s1 bs)

/-- GETMRL, SETMRL, GETMWL and SETMWL (R501): lengths never exceed those of Table 16.7; the third byte of GETMRL, the
largest IBI payload, is not given. -/
def execGetmrl (s : State) : Outc :=
  let (bs, s1) := freeBytes s 1
  .next (cccReturn s1 (msbFirst 2 s.i3c.mrl ++ bs))
def execSetmrl (n : Nat) (s : State) : Outc := .next (ccc s fun x => { x with mrl := min n 256 })
def execGetmwl (s : State) : Outc := .next (cccReturn s (msbFirst 2 s.i3c.mwl))
def execSetmwl (n : Nat) (s : State) : Outc := .next (ccc s fun x => { x with mwl := min n 260 })

/-- IBI_RETRY (R501, R506): at a bus-available condition the oldest pending request is raised, in Night too, and leaves once the
controller acknowledges it. A target without a dynamic address raises a Hot-Join request instead (MIPI I3C, PRESUMED, log
entry 83). -/
def execIbiRetry (ack : Bool) (s : State) : Outc :=
  .next (if !i3cHears s then s
    else if s.i3c.addr.isNone then (if s.i3c.hotJoin then { s with out := s.out ++ [.hotJoin] } else s)
    else match s.i3c.ibiPend with
    | [] => s
    | (k, pl) :: r =>
      if !s.i3c.ibiEn ∨ !ack then s
      else { s with
        i3c := { s.i3c with ibiPend := r }
        out := s.out ++ [.ibi (BitVec.ofNat 8 k :: pl)] })

/-- HDR_MODE_ENTRY and HDR_EXIT_PATTERN (R501). -/
def execHdrModeEntry (s : State) : Outc := .next { s with i3c := { s.i3c with hdr := true } }
def execHdrExitPattern (s : State) : Outc := .next { s with i3c := { s.i3c with hdr := false } }

/-- The debug access port acts (R482). -/
def dapActs (s : State) : Bool := !s.fuses.scorched && s.ranger.debug && domainOn s 0xBE

/-- A JTAG instruction selected; a debug session is attached while one of the debug access port is. -/
def selectTap (s : State) (t : TapInstr) : State :=
  { s with
    tap := t
    power := { s.power with debug := match t with
      | .debug _ => true
      | _ => false } }

/-- EXTEST, CLAMP and HIGHZ take effect only while SYS_RESET_N is low (R510). -/
def scanOrBypass (s : State) (t : TapInstr) : State := selectTap s (if s.sysReset then t else .bypass)
def execExtest (s : State) : Outc := .next (scanOrBypass s .extest)
def execClamp (s : State) : Outc := .next (scanOrBypass s .clamp)
def execHighz (s : State) : Outc := .next (scanOrBypass s .highz)
/-- The IDCODE register (R510): version 1, part 0x0960, the JEDEC identity of the manufacturer, and a 1. -/
def idcodeValue (f : Fuses) : Nat := 2 ^ 28 + 0x0960 * 2 ^ 12 + f.jedec % 2 ^ 11 * 2 + 1

/-- IDCODE, whose register the scan then reads, SAMPLE/PRELOAD and BYPASS (R510). -/
def execIdcode (s : State) : Outc :=
  let s1 := selectTap s .idcode
  .next { s1 with out := s1.out ++ [.idcode (BitVec.ofNat 32 (idcodeValue s.fuses))] }
def execSamplePreload (s : State) : Outc := .next (selectTap s .sample)
def execBypass (s : State) : Outc := .next (selectTap s .bypass)

/-- Fuses blown through the debug access port (R512): outside the limits of VDD_FUSE the blow fails (R524). -/
def blowFuses (f : Fuses) : DapOp → Fuses
  | .none | .read _ => f
  | .blowSecureBoot supply => if supply then { f with secureBoot := true } else f
  | .blowKeyHash bits supply =>
    if f.secureBoot ∨ !supply then f
    else { f with keyHash := (List.range 48).map fun i => byteAt f.keyHash i ||| byteAt bits i }

/-- What the debug access port returns (R482): the state that the model holds of a core, a free value of Ranger's trace buffers,
whose content the manual does not give, and nothing of the Beacon store, the key hash or Kreog's SRAM. -/
def dapData (s : State) : DapTarget → Option DWord
  | .register k w => some ((((s.core k).group (w / 8192)).vget (w % 8192 / 32) (w % 32)).zeroExtend 64)
  | .tile k a => some (BitVec.ofNat 64 ((s.core k).tile.nat a 4))
  | .trace _ => some (Config.free s.freeTick)
  | .debugReg k r => some (BitVec.ofNat 64 (tget (s.core k).dets ((r - 0x200) / 8) .empty).view)
  | .beaconStore _ | .keyHash _ | .kreogSram _ => none

def dapRead (s : State) : DapOp → State
  | .read what => match dapData s what with
    | some v => { s with out := s.out ++ [.debug v], freeTick := s.freeTick + 1 }
    | none => s
  | _ => s

/-- DEBUG_ACCESS_PORT (R482, R512, Table 16.14). -/
def execDebugAccessPort (code : BitVec 8) (op : DapOp) (s : State) : Outc :=
  .next (if code.toNat < 0x80 ∨ 0x8F < code.toNat ∨ !dapActs s then selectTap s .bypass
    else selectTap (dapRead { s with fuses := blowFuses s.fuses op } op) (.debug code.toNat))

/-- SCORCH (R483, R484): the two values written, whether more than 1 ms lies between them, and whether the fuse
programming supply is within its limits. -/
def execScorch (first second : BitVec 16) (slow supply : Bool) (s : State) : Outc :=
  .next (if !dapActs s ∨ first ≠ 0x5C04 ∨ second ≠ 0xC0A5 ∨ slow ∨ !supply then s
    else
      let s1 := selectTap s .bypass
      let hold := if s1.power.padHold.contains 0xBE then s1.power.padHold else s1.power.padHold ++ [0xBE]
      { s1 with
        fuses := { s1.fuses with scorched := true }
        ranger := { s1.ranger with debug := false }
        power := { s1.power with
          on := s1.power.on.filter (· != 0xBE)
          padHold := hold
          dusk := tdrop s1.power.dusk (· == 0xBE) } })

end Sys2Proof.Machine
end

