-- ==== Sys2Proof/Machine/Boot.lean ====
section
/-! DEFINITION. Device reset (R513, R526, R528) and the boot sequence (R445, R475, R478, R499, R500, R507, R509, R514,
R515, Table 13.19). -/

namespace Sys2Proof.Machine

/-- A device reset (R513): every register, slot and SRAM at its reset value. The flash, the fuses, the hosts' memory and
what was sent stay, and SYS_RESET_N as it is driven; the model's own queue and draw count stay; the content of DRAM is that of a part that nothing has
written (log entry 1). -/
def resetDevice (s : State) (pin : Bool) : State :=
  { State.reset with
    fuses := s.fuses
    flash := s.flash
    freeTick := s.freeTick
    mem := { MemSys.reset with host := s.mem.host }
    tap := if pin then s.tap else .idcode
    sysReset := pin || s.sysReset
    out := s.out
    pending := s.pending }

/-- DEVICE_RESET (R513): power-on, or SYS_RESET_N low (`pin`). -/
def execDeviceReset (pin : Bool) (s : State) : Outc := .next (resetDevice s pin)

/-- The power-good inputs (R526). -/
inductive PgInput where
  | aon | core | mem | phy
  deriving DecidableEq, Repr

/-- The input that a PG_LOW is about: the row has no operand for it, so that it is a free value (DESIGN CHOICE, log entry
84). -/
def pgInput (n : Nat) : PgInput := [PgInput.aon, .core, .mem, .phy].getD ((Config.free n).toNat % 4) .aon

/-- PG_LOW (R526): device reset, held until RESET_RELEASE, but for PG_CORE while CORE_PWR_EN is low. -/
def execPgLow (s : State) : Outc :=
  let s1 := { s with freeTick := s.freeTick + 1 }
  .next (if pgInput s.freeTick = .core ∧ !s.power.corePwr then s1 else resetDevice s1 false)

/-- REFCLK_LOSS (R528): device reset, held until RESET_RELEASE. -/
def execRefclkLoss (s : State) : Outc := .next (resetDevice s false)

/-- RSTACT (R501, R513, Table 16.15): a reset action, also in Night; defining byte 0x02 with the target reset pattern is a device reset. -/
def execRstact (action : BitVec 8) (pattern : Bool) (s : State) : Outc :=
  .next (if !i3cHears s then s
    else if action = 0x02 ∧ pattern then resetDevice s false
    else { s with i3c := { s.i3c with rstAct := action.toNat } })

/-- STAGE reached, told by IBI 0x04 (Tables 16.11 and 16.16). -/
def bootStage (s : State) (n : Nat) : State :=
  raiseIbi { s with boot := { s.boot with stage := n } } 0x04 (leBytes 1 n)
def bootFail (s : State) (n : Nat) : State :=
  if s.boot.fail = 0 then { s with boot := { s.boot with fail := n } } else s
def bootWarn (s : State) (n : Nat) : State := { s with boot := { s.boot with warn := s.boot.warn ||| n } }

/-- Step 1: the fuses set both maps (R19). A scorched part keeps the pads of PD_DBG held (R484), and with SYS_RESET_N high
EXTEST, CLAMP and HIGHZ give way to BYPASS (R510). -/
def loadFuses (s : State) (b : BootInput) : State :=
  let flash := match b.flash with
    | some l => l.foldl (fun (m : Mem) e => m.put e.1 (~~~e.2)) []
    | none => s.flash
  bootStage { s with
    sysReset := false
    boot := { s.boot with running := true }
    flash := flash
    fuses := { s.fuses with strap := b.strap % 4 }
    maps := ⟨s.fuses.coreMap, s.fuses.coreMap, 0⟩
    tap := if [TapInstr.extest, .clamp, .highz].contains s.tap then .bypass else s.tap
    power := { s.power with
      pll := true
      padHold := if s.fuses.scorched then [0xBE] else s.power.padHold } } 1

/-- The flash header (Table 16.13). -/
def flashHeaderOk (s : State) : Bool :=
  let h := flashRead s 0 12
  fieldAt h 0 4 == 0x4E394648 && fieldAt h 4 2 == 1 && fieldAt h 8 4 == crcCheck 0 0 0 0 (h.take 8)

/-- The fastest mode that SFDP lists, 8D-8D-8D only with the xSPI Profile 1.0 table (R507). -/
def flashBest (modes : List FlashMode) (xspi : Bool) : FlashMode :=
  ([FlashMode.octalDdr, .octal188, .octal118, .quad144, .quad114, .single].find? fun m =>
    modes.contains m && (m != .octalDdr || xspi)).getD .single

/-- The clock in MHz: the largest that does not exceed MAX_CLOCK_MHZ of the header (R507). -/
def flashClock (most : Nat) : Nat := ([200, 100, 50, 25].find? fun c => decide (c ≤ most)).getD 25

/-- Step 2 (R507, R509). -/
def probeFlash (s : State) (b : BootInput) : State :=
  let s1 := bootStage s 2
  if !b.sfdp then bootFail s1 1
  else if !flashHeaderOk s1 then bootFail s1 2
  else
    let s2 := { s1 with boot := { s1.boot with
      flashMode := flashBest b.modes b.xspi
      flashMhz := flashClock (fieldAt (flashRead s1 6 2) 0 2) } }
    if (readRec s2 retireRec).isNone then bootWarn s2 2 else s2

/-- The checks of the boot ROM on the image of a bank (R511, R514). -/
def bankOk (s : State) (b : Nat) : Bool :=
  let i := bankImage s b
  (structureFail i (imgBytes i)).isNone && imgStepping i == 0xB0 && signatureOk s i

/-- The banks in the order in which the boot tries them (Table 13.19, R514): GOOD before STAGED before the rest, which is
tried as the other bank, the higher IMAGE_VERSION first. -/
def bootOrder (s : State) : List Nat :=
  let byVersion := fun (l : List Nat) =>
    if l = [0, 1] ∧ imgVersion (bankImage s 0) < imgVersion (bankImage s 1) then [1, 0] else l
  let of := fun (p : BankSt → Bool) => byVersion ([0, 1].filter fun b => p (bankSt s b))
  of (· == .good) ++ of (· == .staged) ++ of fun st => st != .good && st != .staged

/-- With neither copy of the record valid, every bank that verifies counts as STAGED (R509). -/
def lostBanks (s : State) : State :=
  if (readRec s bankRec).isSome then s
  else ([0, 1].filter (bankOk s)).foldl (fun s b => setBank s b .staged (imgVersion (bankImage s b))) s

/-- A bank found in PROBATION becomes BAD. -/
def endProbation (s : State) : State :=
  [0, 1].foldl (fun s b => if bankSt s b = .probation then setBank s b .bad (bankVersion s b) else s) s

/-- The image's Beacon and display sections placed (R262, R273, R277); the declared panel of a DSI output is present from
boot (R275). -/
def placeImage (s : State) (i : List Byte) : State :=
  let store := (sectionsOf i 3).foldl (fun (m : Mem) e => m.write (e.1 * 1048576) e.2) s.prism.store
  let one := fun (s : State) (n : Nat) =>
    let o := s.output n
    let o1 := match sectionsOf i 4 with
      | [] => o
      | (_, d) :: _ => { o with
        pend := (imgBeacon d n).1
        act := (imgBeacon d n).1
        holdColour := (imgBeacon d n).2 }
    s.setOutput n (match sectionsOf i 5 with
      | [] => o1
      | (_, d) :: _ =>
        let (iface, policy) := Config.displayPort d n
        let (h, v, c, l) := Config.displayMode d n
        { o1 with
          iface := iface
          policy := policy
          panel := if iface = 2 then Config.displayPanel d n else []
          sink := iface == 2
          confMode := ⟨h, v, c, l⟩ })
  (List.range 4).foldl one { s with prism := { s.prism with store := store } }

/-- A verified image taken into force: a STAGED one passes through PROBATION (Table 13.19). -/
def takeImage (s : State) (b : Nat) (probation : Bool) : State :=
  let i := bankImage s b
  let s1 := if probation then setBank s b .probation (imgVersion i) else s
  let s2 := { s1 with
    cfg := imgConfig i
    boot := { s1.boot with
      bank := b
      booted := b
      configBank := b
      kreogVersion := imgKreog i
      kreogBuild := imgBuild i
      configVersion := imgVersion i }
    power := { s1.power with work := (imgConfig i).envelope }
    ranger := { s1.ranger with
      st := if probation then .probation else .run
      act := if probation then some
          { phase := .probation, bank := b, prev := 1 - b, opcode := 0x703, by_ := i3cChannel, commitReq := false
            before := imgConfig i, committed := false, reason := 0, rollback := false, since := s.timer }
        else none } }
  placeImage s2 i

/-- Step 3: the first bank that verifies; one that does not is BAD (R514). -/
def tryBanks : List Nat → State → State
  | [], s => bootFail s 3
  | b :: r, s =>
    if bankOk s b then takeImage s b (bankSt s b != .good)
    else tryBanks r (bootWarn (setBank s b .bad (bankVersion s b)) 1)

def verifyImage (s : State) : State :=
  let s1 := bootStage s 3
  if s1.boot.fail ≠ 0 then s1
  else
    let s2 := endProbation (lostBanks s1)
    tryBanks (bootOrder s2) s2

/-- Step 4: the keeper drives every output of OUTPUT_BOOT_ENABLE (R272, R514); under policies 1 and 2 every output gets
its mode (R277). -/
def lightOutput (s : State) (n : Nat) : State :=
  let s1 := if !bitOf s.cfg.outputBoot n then s
    else
      let s1 := powerOn (powerOn s (uOut n)) (0x90 + n / 2)
      let o := s1.output n
      s1.setOutput n { o with
        src := .keeper
        frame := 0
        ctl := o.ctl ||| 1 }
  if (s1.output n).policy = 0 then s1 else startModeset s1 n (policyMode (s1.output n) []) false

def beaconOn (s : State) : State :=
  let s1 := bootStage s 4
  if s1.boot.fail ≠ 0 then s1 else (List.range 4).foldl lightOutput s1

/-- A unit that the boot self-test fails is retired (R474 to R476). -/
def bootRetire (s : State) (u : Nat) : State :=
  let here := if u < 0x30 then s.maps.core.getLsbD u else decide (u < 0x60) && s.maps.tensor.getLsbD (u - 0x30)
  if !here then s
  else
    let s1 := retireUnit (recordError (bump s uAvail 0x128) 0x20 u 2 0) u
    if (tget? s1.avail.leaving u).isNone then s1
    else
      let s2 := { s1 with avail := { s1.avail with
        leaving := tdrop s1.avail.leaving (· == u)
        events := s1.avail.events ++ [(u, s1.maps.gen, s1.maps.core.toNat)] } }
      appendRetired (recordError s2 0x22 u 3 0) 1 u 0

/-- One entry of the retirement list applied (R477, R478). -/
def applyEntry (s : State) (kind unit loc : Nat) : State :=
  if kind = 2 then
    let e := (unit - 0x60, loc / 16 % 2048, loc % 16)
    if s.mem.ways.contains e then s
    else if 64 ≤ (s.mem.ways.filter fun w => w.1 == e.1).length then recordError s 0x25 unit 3 0
    else bump (s.setMem { s.mem with ways := s.mem.ways ++ [e] }) uAvail 0x138
  else if 0x60 ≤ unit then s
  else if (if unit < 0x30 then !s.maps.core.getLsbD unit else !s.maps.tensor.getLsbD (unit - 0x30)) then s
  else if unit < 0x30 ∧ (clearUnit s.maps unit).core = 0 then
    recordError { s with avail := { s.avail with retireHeld := true } } 0x23 unit 3 0
  else bump { s with maps := clearUnit s.maps unit } uAvail 0x130

/-- The retirement list applied in order (R478). -/
def applyRetirements (s : State) : State :=
  let pl := (readRec s retireRec).getD []
  let n := min (fieldAt pl 0 2) 1120
  let s1 := (List.range n).foldl (fun s i =>
    applyEntry s (fieldAt pl (2 + 4 * i) 1) (fieldAt pl (3 + 4 * i) 1) (fieldAt pl (4 + 4 * i) 2)) s
  { s1 with avail := { s1.avail with retirements := n } }

/-- DRAM found at training (R498 to R500): installed bytes after inline ECC, and those usable for objects. -/
def trainDram (s : State) (d : DramFound) : State :=
  match d with
  | .wrong => bootFail s 4
  | .untrained c => bootWarn (bootFail s 5) (c % 16 * 16)
  | .good density ranks packages =>
    if !([4, 6, 8, 12, 16].contains density && (ranks == 1 || ranks == 2) && [1, 2, 4].contains packages) then bootFail s 4
    else
      let all := ranks * density * 2 ^ 31
      let data := if s.cfg.inlineEcc then all / 8 * 7 else all
      { s with boot := { s.boot with
        dramInstalled := data
        dramBytes := data - s.cfg.saveFrames * 2 ^ 20
        packages := packages } }

/-- Step 5: Kreog, the self-tests, the retirement list and the DRAM (R475, R478, R514). Without an image Kreog does not
start, and no DRAM is trained (R515). -/
def startKreog (s : State) (b : BootInput) : State :=
  let s1 := bootStage s 5
  let s2 := b.failed.foldl bootRetire s1
  let s3 := if s2.boot.fail = 1 ∨ s2.boot.fail = 2 then s2 else applyRetirements s2
  if s3.boot.fail ≠ 0 then s3 else trainDram s3 b.dram

/-- RESET_RELEASE (R478, R499, R500, R507, R511, R514, R515): the boot up to KREOG. -/
def execResetRelease (b : BootInput) (s : State) : Outc :=
  .next (if s.boot.running then s
    else startKreog (beaconOn (verifyImage (probeFlash (loadFuses s b) b))) b)

/-- HOST_READY (R445, R514, Table 16.2): the maps are final, and the domains of R445 are on. -/
def execHostReady (s : State) : Outc :=
  .next (if s.boot.stage ≠ 5 then s
    else
      let cores := (List.range 48).filter fun k => s.maps.core.getLsbD k
      let arrays := (List.range 48).filter fun k => s.maps.tensor.getLsbD k
      let ports := (List.range 3).filter (portLanes s)
      let us := cores ++ arrays.map (0x30 + ·) ++ (List.range 16).map (0x60 + ·) ++ ports.map (0x98 + ·)
      bootStage (us.foldl powerOn s) 6)

end Sys2Proof.Machine
end

