-- ==== Sys2Proof/Machine/Control.lean ====
section
/-! DEFINITION. The control class 0x0 (R57, R58, R110 to R112) and undefined encodings (R103). -/

namespace Sys2Proof.Machine

/-- A control instruction on its group: no register is read but by brx. -/
def stepB (op : Nat) (g : GroupAt) (e : EncB) (s : State) (f : Prog → Group → Except Nat Group) : State :=
  stepGroup s g e.h (e.code op) [] [] f

/-- nop has no effect. -/
def execNop (g : GroupAt) (e : EncB) (s : State) : Host.Outcome State Fault Refusal :=
  done (stepB 0 g e s fun _ x => runNop e x)

/-- bra: the listing's branch, the guard as the condition (R110). -/
def execBra (g : GroupAt) (e : EncB) (s : State) : Host.Outcome State Fault Refusal :=
  done (stepB 1 g e s fun p x => runBra e (okTarget s g.core x.ctx p) x)

/-- brx: the listing's branch_indirect (R110, R111). -/
def execBrx (g : GroupAt) (e : EncB) (s : State) : Host.Outcome State Fault Refusal :=
  done (stepGroup s g e.h (e.code 2) [e.target.toNat / 2 ^ 16] [] fun p x =>
    runBrx e (okTarget s g.core x.ctx p) p.regs x)

/-- join: continues with the entry on top of the stack (R57, R110). -/
def execJoin (g : GroupAt) (e : EncB) (s : State) : Host.Outcome State Fault Refusal :=
  done (stepB 3 g e s fun _ x => runJoin e x)

/-- exit: the guarded lanes end; barriers of the workgroup are evaluated again and groups without lanes end. -/
def execExit (g : GroupAt) (e : EncB) (s : State) : Host.Outcome State Fault Refusal :=
  let s1 := stepB 4 g e s fun _ x => runExit e x
  let old := (s.group g).exited
  done (if (s1.group g).exited = old then s1 else settleWg s1 g.core (s.group g).wg)

/-- call (R112). -/
def execCall (g : GroupAt) (e : EncB) (s : State) : Host.Outcome State Fault Refusal :=
  done (stepB 5 g e s fun p x => runCall e (okTarget s g.core x.ctx p) p.callsFlag x)

/-- ret (R112). -/
def execRet (g : GroupAt) (e : EncB) (s : State) : Host.Outcome State Fault Refusal :=
  done (stepB 6 g e s fun p x => runRet e p.callsFlag x)

/-- A word at the group's program counter whose CLASS and OP name no operation: the context faults precisely (R103). A word
of a defined operation with an undefined field faults in that operation. -/
def execUndefinedEncoding (g : GroupAt) (s : State) : Host.Outcome State Fault Refusal :=
  done (inCycle s g fun s => match issueWith s g (fun w => !opDefined w) none with
    | .stall => s
    | .fault a s1 => groupFault s1 g a
    | .go s1 => groupFault s1 g (illegalFault dUndefined))

/-- ASYNC_PROMOTION (R55): an async group that has been ready for 256 cycles issues next. -/
def execAsyncPromotion (core slot : Nat) (s : State) : Host.Outcome State Fault Refusal :=
  let g := slotAt core slot
  let x := s.group g
  if x.async && groupReady s g then done (s.setGroup g { x with promoted := true }) else done s

/-- BULK_PROMOTION (R24): a bulk request of a port that has waited 4,096 cycles at an arbiter counts as a normal one until it
is served (bulkServed). -/
def execBulkPromotion (arbiter port : Nat) (s : State) : Host.Outcome State Fault Refusal :=
  done (if s.mem.promoted.contains (arbiter, port) || !bulkWaits s port then s
    else s.setMem { s.mem with promoted := s.mem.promoted ++ [(arbiter, port)] })

end Sys2Proof.Machine
end

