-- ==== Sys2Proof/Machine/Conversion.lean ====
section
/-! DEFINITION. The conversion class 0x5 (R119, R135, R146). -/

namespace Sys2Proof.Machine

/-- cvt: MOD is the source type, TYPE the destination type, C the rounding mode (R119). -/
def execCvt (g : GroupAt) (e : EncR) (s : State) : Host.Outcome State Fault Refusal := done (stepR opCvt g e s)

/-- cvt.pk2: two codes into two bytes of DST, the other two bytes kept (R119, R135). -/
def execCvtPk2 (g : GroupAt) (e : EncR) (s : State) : Host.Outcome State Fault Refusal :=
  done (stepRun 5 1 shPk2 (pk2Ok e) runPk2 g e s)

/-- cvt.unpk: a selected byte of A to f32 or f16 (R119). -/
def execCvtUnpk (g : GroupAt) (e : EncR) (s : State) : Host.Outcome State Fault Refusal := done (stepR opCvtUnpk g e s)

end Sys2Proof.Machine
end

