-- ==== Sys2Proof/Machine/CopyPath.lean ====
section
/-! DEFINITION. COPY and FILL and the copy path (R300, R315, R351, R465). -/

namespace Sys2Proof.Machine

/-- Offsets and length of COPY and FILL (R315). -/
def copyOk (p : Pkt) : Bool :=
  pField p 16 8 % 4 == 0 && pField p 24 8 % 4 == 0 && pField p 32 8 % 4 == 0
    && decide (4 ≤ pField p 32 8 ∧ pField p 32 8 ≤ 2 ^ 36) && pZero p 40 48
def fillOk (p : Pkt) : Bool :=
  pField p 16 8 % 4 == 0 && pField p 24 8 % 4 == 0 && decide (4 ≤ pField p 24 8 ∧ pField p 24 8 ≤ 2 ^ 36)

/-- A STALE_OBJECT fault of a queue command. -/
def staleName (o gen : Nat) : AccFault := ⟨cStaleObject, 0, 0, false, o, gen⟩

/-- A range of an object that a command may use with a right (R315): none, or the PAGE_FAULT. -/
def rangeFault (s : State) (c o gen off n : Nat) (w : Bool) : Option AccFault :=
  let x := s.obj o
  let r := objRight x (s.ctx c).tenant
  if x.size < off + n ∨ (if w then r < 2 else r = 0) ∨ !paReachable s x.base then some ⟨cPageFault, 0, off, w, o, gen⟩ else none

/-- The copy path takes up a command when it moves none (R351). -/
def takeUpCopy (s : State) : State :=
  let moving : Bool := match s.sched.copying with
    | some i => s.cmds.any fun (e : Nat × Cmd) => e.1 == i && (s.ctx e.2.ctx).st == .live
    | none => false
  if moving then s
  else
    let ready : List Nat := s.cmds.filterMap fun (e : Nat × Cmd) =>
      if (e.2.kind == .copy || e.2.kind == .fill) && decide (e.2.copied < e.2.bytes) && (s.ctx e.2.ctx).st == .live then some e.1
      else none
    let best := ready.foldl (fun (b : Option Nat) i => match b with
      | none => some i
      | some j => if lexLt (rankKey s i) (rankKey s j) then some i else some j) none
    { s with sched := { s.sched with copying := best } }

/-- COPY packet (R300, R315, Table 9.20). -/
def execCopy (p : Pkt) (s : State) : Host.Outcome State Fault Refusal :=
  .next (fetchPacket s p 3 false (copyOk p) fun s =>
    let c := (s.queue p.q).ctx
    let i := (s.queue p.q).read
    let (d, dg, o, og) := (pField p 8 2, pField p 10 2, pField p 12 2, pField p 14 2)
    let (doff, soff, n) := (pField p 16 8, pField p 24 8, pField p 32 8)
    if !nameOk s p.q i d dg then packetFault s p { staleName d dg with write := true }
    else if !nameOk s p.q i o og then packetFault s p (staleName o og)
    else match rangeFault s c d dg doff n true, rangeFault s c o og soff n false with
      | some f, _ => packetFault s p f
      | _, some f => packetFault s p f
      | none, none =>
        takeUpCopy (startCmd s p { newCmd s p .copy with dstObj := d, dstOff := doff, srcObj := o, srcOff := soff, bytes := n }))

/-- FILL packet (R300, R315, Table 9.20). -/
def execFill (p : Pkt) (s : State) : Host.Outcome State Fault Refusal :=
  .next (fetchPacket s p 2 false (fillOk p) fun s =>
    let c := (s.queue p.q).ctx
    let (d, dg, off, n) := (pField p 8 2, pField p 10 2, pField p 16 8, pField p 24 8)
    if !nameOk s p.q (s.queue p.q).read d dg then packetFault s p { staleName d dg with write := true }
    else match rangeFault s c d dg off n true with
      | some f => packetFault s p f
      | none => takeUpCopy (startCmd s p { newCmd s p .fill with dstObj := d, dstOff := off, bytes := n, pattern := pField p 12 4 }))

/-- The bytes of a fill. -/
def fillBytes (pattern n : Nat) : List Byte := (List.range n).map fun i => BitVec.ofNat 8 (pattern / 2 ^ (8 * (i % 4)))

/-- A destination byte of a COPY lies where source and destination overlap: what is written there is undefined (R315). -/
def copyOverlap (c : Cmd) (off : Nat) : Bool :=
  c.dstObj == c.srcObj && decide (c.srcOff ≤ off ∧ off < c.srcOff + c.bytes)

/-- The bytes that a chunk of a COPY writes: free values in the overlap. -/
def copyBytes (s : State) (c : Cmd) (src : List Byte) : List Byte × State :=
  let o := c.dstOff + c.copied
  if c.dstObj ≠ c.srcObj then (src, s)
  else
    ((List.range src.length).map fun i =>
      if copyOverlap c (o + i) then (Config.free (s.freeTick + i)).setWidth 8 else byteAt src i,
     { s with freeTick := s.freeTick + src.length })

/-- Poisoned words of a chunk's source, as destination words (Table 15.2). -/
def copyPoison (s : State) (spa dpa n : Nat) : List Nat :=
  (s.mem.poison.filter fun w => decide (w * 8 < spa + n ∧ spa < w * 8 + 8)).flatMap fun w =>
    let lo := dpa + (w * 8 - spa)
    [lo / 8, (lo + 7) / 8].filter fun x => decide (x * 8 < dpa + n)

/-- One chunk of a COPY: its bytes, and the fault where a source word is poisoned. -/
def copyChunk (s : State) (id : Nat) (c : Cmd) (k : Nat) : State :=
  let spa := (s.obj c.srcObj).base + c.srcOff + c.copied
  let dpa := (s.obj c.dstObj).base + c.dstOff + c.copied
  let bad := copyPoison s spa dpa k
  let (src, s1) := devRead s spa k
  let (bs, s2) := copyBytes s1 c src
  let s3 := devWrite s2 dpa bs
  let s4 := { s3 with cmds := tset s3.cmds id { c with copied := c.copied + k } }
  if bad = [] then s4
  else
    let s5 := s4.setMem { s4.mem with poison := s4.mem.poison ++ bad.filter fun w => !s4.mem.poison.contains w }
    raise (notePoison s5 (eccFault 0 false))
      ⟨c.ctx, ⟨cEcc, eMemory, ((poisonedWord s spa k).getD 0) * 8, false, c.srcObj, (s.obj c.srcObj).gen⟩, uSched, 0xFF, true, c.queue, c.index, c.tag⟩

/-- One chunk of a FILL. -/
def fillChunk (s : State) (id : Nat) (c : Cmd) (k : Nat) : State :=
  let s1 := devWrite s ((s.obj c.dstObj).base + c.dstOff + c.copied) (fillBytes c.pattern k)
  { s1 with cmds := tset s1.cmds id { c with copied := c.copied + k } }

/-- COPY_CHUNK_DONE (R315, R351): the copy path finishes the chunk of the command that it moves, at most 64 KiB, and
turns to the command of the highest effective priority. -/
def execCopyChunkDone (cmd : Nat) (s : State) : Host.Outcome State Fault Refusal :=
  let s := takeUpCopy s
  match tget? s.cmds cmd with
  | none => .next s
  | some c =>
    if s.sched.copying ≠ some cmd ∨ (s.ctx c.ctx).st ≠ .live then .next s
    else
      let k := min 65536 (c.bytes - c.copied)
      let s1 := if c.kind = .copy then copyChunk s cmd c k else fillChunk s cmd c k
      .next (takeUpCopy (noteBoost (bulkServed { s1 with sched := { s1.sched with copying := none } } 12) cmd))

end Sys2Proof.Machine
end

