-- ==== Sys2Proof/Machine/Float32.lean ====
section
/-! DEFINITION. The FP32 class 0x2 (chapter 3, FP32; R106, R534). -/

namespace Sys2Proof.Machine

/-- fadd (R534). -/
def execFadd (g : GroupAt) (e : EncR) (s : State) : Host.Outcome State Fault Refusal := done (stepR opFadd g e s)

/-- fmul (R534). -/
def execFmul (g : GroupAt) (e : EncR) (s : State) : Host.Outcome State Fault Refusal := done (stepR opFmul g e s)

/-- ffma: one rounding (R534). -/
def execFfma (g : GroupAt) (e : EncR) (s : State) : Host.Outcome State Fault Refusal := done (stepR opFfma g e s)

/-- fmin: minimumNumber (R534). -/
def execFmin (g : GroupAt) (e : EncR) (s : State) : Host.Outcome State Fault Refusal := done (stepR opFmin g e s)

/-- fmax: maximumNumber (R534). -/
def execFmax (g : GroupAt) (e : EncR) (s : State) : Host.Outcome State Fault Refusal := done (stepR opFmax g e s)

/-- fsetp (R109). -/
def execFsetp (g : GroupAt) (e : EncR) (s : State) : Host.Outcome State Fault Refusal := done (stepR opFsetp g e s)

/-- frnd: to an integral value by MOD[1:0] (R106). -/
def execFrnd (g : GroupAt) (e : EncR) (s : State) : Host.Outcome State Fault Refusal := done (stepR opFrnd g e s)

end Sys2Proof.Machine
end

