-- ==== Sys2Proof/Machine/Integer.lean ====
section
/-! DEFINITION. The integer class 0x1 (chapter 3, Integer; R106, R533). -/

namespace Sys2Proof.Machine

/-- iadd: A + B, wrapping (R106, Operation details). -/
def execIadd (g : GroupAt) (e : EncR) (s : State) : Host.Outcome State Fault Refusal := done (stepR opIadd g e s)

/-- isub: A − B, wrapping (R106, Operation details). -/
def execIsub (g : GroupAt) (e : EncR) (s : State) : Host.Outcome State Fault Refusal := done (stepR opIsub g e s)

/-- imul: the low half of A × B (R106, Operation details). -/
def execImul (g : GroupAt) (e : EncR) (s : State) : Host.Outcome State Fault Refusal := done (stepR opImul g e s)

/-- imulhi: the upper half of the full product (R106, Operation details). -/
def execImulhi (g : GroupAt) (e : EncR) (s : State) : Host.Outcome State Fault Refusal := done (stepR opImulhi g e s)

/-- imad: A × B + C, wrapping (R106, Operation details). -/
def execImad (g : GroupAt) (e : EncR) (s : State) : Host.Outcome State Fault Refusal := done (stepR opImad g e s)

/-- imin: the lesser by TYPE (R106, Operation details). -/
def execImin (g : GroupAt) (e : EncR) (s : State) : Host.Outcome State Fault Refusal := done (stepR opImin g e s)

/-- imax: the greater by TYPE (R106, Operation details). -/
def execImax (g : GroupAt) (e : EncR) (s : State) : Host.Outcome State Fault Refusal := done (stepR opImax g e s)

/-- and (R106, Operation details). -/
def execAnd (g : GroupAt) (e : EncR) (s : State) : Host.Outcome State Fault Refusal := done (stepR opAnd g e s)

/-- or (R106, Operation details). -/
def execOr (g : GroupAt) (e : EncR) (s : State) : Host.Outcome State Fault Refusal := done (stepR opOr g e s)

/-- xor (R106, Operation details). -/
def execXor (g : GroupAt) (e : EncR) (s : State) : Host.Outcome State Fault Refusal := done (stepR opXor g e s)

/-- not (R106, Operation details). -/
def execNot (g : GroupAt) (e : EncR) (s : State) : Host.Outcome State Fault Refusal := done (stepR opNot g e s)

/-- shl: the count modulo the width (R106, Operation details). -/
def execShl (g : GroupAt) (e : EncR) (s : State) : Host.Outcome State Fault Refusal := done (stepR opShl g e s)

/-- shr: arithmetic for signed types (R106, Operation details). -/
def execShr (g : GroupAt) (e : EncR) (s : State) : Host.Outcome State Fault Refusal := done (stepR opShr g e s)

/-- popc: set bits (R106, Operation details). -/
def execPopc (g : GroupAt) (e : EncR) (s : State) : Host.Outcome State Fault Refusal := done (stepR opPopc g e s)

/-- clz: leading zeros (R106, Operation details). -/
def execClz (g : GroupAt) (e : EncR) (s : State) : Host.Outcome State Fault Refusal := done (stepR opClz g e s)

/-- bfe (R533). -/
def execBfe (g : GroupAt) (e : EncR) (s : State) : Host.Outcome State Fault Refusal := done (stepR opBfe g e s)

/-- bfi (R533). -/
def execBfi (g : GroupAt) (e : EncR) (s : State) : Host.Outcome State Fault Refusal := done (stepR opBfi g e s)

/-- isetp: predicate DST by the condition of MOD (R109). -/
def execIsetp (g : GroupAt) (e : EncR) (s : State) : Host.Outcome State Fault Refusal := done (stepR opIsetp g e s)

end Sys2Proof.Machine
end

