-- ==== Sys2Proof/Machine/LaneMove.lean ====
section
/-! DEFINITION. The lane and move class 0x6 (chapter 3, Lane and move; R105, R107, R535, Table 3.3). -/

namespace Sys2Proof.Machine

/-- mov: DST = A. -/
def execMov (g : GroupAt) (e : EncR) (s : State) : Host.Outcome State Fault Refusal := done (stepR opMov g e s)

/-- sel: A where the predicate holds, B elsewhere (R105). -/
def execSel (g : GroupAt) (e : EncR) (s : State) : Host.Outcome State Fault Refusal := done (stepR opSel g e s)

/-- shfl: A of another lane. -/
def execShfl (g : GroupAt) (e : EncR) (s : State) : Host.Outcome State Fault Refusal :=
  done (stepRun 6 2 shShfl (shflOk e) runShfl g e s)

/-- vote: any, all, ballot (R535). -/
def execVote (g : GroupAt) (e : EncR) (s : State) : Host.Outcome State Fault Refusal :=
  done (stepRun 6 3 (shVote e) (voteOk e) runVote g e s)

/-- plop: a two-input truth table on predicates. -/
def execPlop (g : GroupAt) (e : EncR) (s : State) : Host.Outcome State Fault Refusal := done (stepR opPlop g e s)

/-- The value of a special register in a lane (Table 3.3). -/
def specialReg (s : State) (g : GroupAt) (i l : Nat) : Nat :=
  let x := s.group g
  let w := (s.core g.core).wgAt x.wg
  let t := x.idx * 32 + l
  match i with
  | 0x00 => l
  | 0x01 => x.idx
  | 0x02 => w.idX
  | 0x03 => w.idY
  | 0x04 => w.idZ
  | 0x05 => if w.prog.kind = 0 then t % w.prog.wgX else l
  | 0x06 => t / w.prog.wgX % w.prog.wgY
  | 0x07 => if w.prog.kind = 0 then t / (w.prog.wgX * w.prog.wgY) else 0
  | 0x08 => w.tileIndex
  | 0x09 => w.tileX
  | 0x0A => w.tileY
  | 0x0B => g.core
  | 0x0C => w.mapGen
  | 0x0D => s.timer % 2 ^ 32
  | 0x0E => s.timer / 2 ^ 32
  | 0x0F => x.active.toNat
  | _ => 0

/-- rdsr's shape: the index is a literal in the A field. -/
def shRdsr : RShape := ⟨.lit, .none, .none, .reg false⟩

/-- TYPE and MOD 0, and an index that Table 3.3 lists. -/
def rdsrOk (e : EncR) : Bool := e.type == 0 && e.mod == 0 && decide (e.a.toNat ≤ 0x0F)

/-- The group after rdsr. -/
def runRdsr (s : State) (g : GroupAt) (e : EncR) (x : Group) : Group :=
  let y := writeR shRdsr e (x.guard e.h) (specialReg s g e.a.toNat) x
  { y with pc := x.pc + Head.size e.h }

/-- rdsr: a special register (R105, R107). -/
def execRdsr (g : GroupAt) (e : EncR) (s : State) : Host.Outcome State Fault Refusal :=
  done (stepRun 6 4 shRdsr (rdsrOk e) (runRdsr s g) g e s)

end Sys2Proof.Machine
end

