-- ==== Sys2Proof/Machine/Packed.lean ====
section
/-! DEFINITION. The packed 16-bit class 0x3 (chapter 3; R534). -/

namespace Sys2Proof.Machine

/-- hadd2 (R534). -/
def execHadd2 (g : GroupAt) (e : EncR) (s : State) : Host.Outcome State Fault Refusal := done (stepR opHadd2 g e s)

/-- hmul2 (R534). -/
def execHmul2 (g : GroupAt) (e : EncR) (s : State) : Host.Outcome State Fault Refusal := done (stepR opHmul2 g e s)

/-- hfma2 (R534). -/
def execHfma2 (g : GroupAt) (e : EncR) (s : State) : Host.Outcome State Fault Refusal := done (stepR opHfma2 g e s)

/-- hmin2 (R534). -/
def execHmin2 (g : GroupAt) (e : EncR) (s : State) : Host.Outcome State Fault Refusal := done (stepR opHmin2 g e s)

/-- hmax2 (R534). -/
def execHmax2 (g : GroupAt) (e : EncR) (s : State) : Host.Outcome State Fault Refusal := done (stepR opHmax2 g e s)

end Sys2Proof.Machine
end

