-- ==== Sys2Proof/Machine/Views.lean ====
section
/-! DEFINITION. What a read of a register returns (R10, R11, R13, R15, R96, R185, R237, R281, R283, R317, R342, R378, R403, R410,
R460, R473, R494): the value of every register as the state stands. Reserved fields, write-only registers and offsets without a
register give 0. -/

namespace Sys2Proof.Machine

/-- A page's counter at offset `r` of a unit (Table 2.14). -/
def counterView (s : State) (unit r : Nat) : Nat := s.counter unit r

/-- The Flume window of a tenant (R410, Table 13.2): `r` is an offset in it. -/
def flumeView (s : State) (t r : Nat) : Nat :=
  let c := s.channel t
  if 0x10000 ≤ r ∧ r < 0x14000 then c.replies.nat (r - 0x10000) 8
  else match r with
    | 0x20008 => atBit 32 c.reqRead + c.replyWrite
    | 0x20010 => c.readIndex
    | 0x20018 => atBit 32 c.eventSeq + c.nextSeq
    | 0x20020 => atBit 32 c.vector + atBit 16 (b2n c.notify) + atBit 4 (b2n s.ranger.up) + atBit 3 (b2n c.abortBusy)
    | 0x20028 => c.aborts
    | _ => 0

/-- The fence block as tenant `t` reads it (Tables 10.6 and 10.7): `r` is an offset in it. -/
def fenceView (s : State) (t r : Nat) : Nat :=
  if r < 0x100000 then
    let f := r / 0x40
    match r % 0x40 with
    | 0 => (s.fence f).value.toNat
    | 0x18 => fenceInfo s f (fenceRight (s.fence f) t)
    | _ => 0
  else
    let h := tget (s.tenant t).waits (r % 0x1000 / 0x20) .empty
    match r % 0x20 with
    | 0 => h.ctl.toNat
    | 8 => h.target
    | 0x10 => atBit 2 (b2n h.armed) + h.outcome
    | _ => 0

/-- A tenant's page (Tables 9.2 and 9.3): its error log. -/
def pageView (s : State) (t r : Nat) : Nat :=
  let x := s.tenant t
  if r = 0x800 then atBit 16 x.logTotal + x.logNext
  else if 0xC00 ≤ r then
    match tget? x.log ((r - 0xC00) / 16) with
    | some e =>
      if r % 16 = 0 then atBit 60 e.kind + atBit 57 (b2n e.write) + atBit 32 (e.rid % 2 ^ 16) + e.off % 2 ^ 28 else e.timer
    | none => 0
  else 0

/-- The registers of a layer by order, reserved fields 0 (Tables 8.13 to 8.18). -/
def LayerRegs.view (x : LayerRegs) (r : Nat) : Nat :=
  (match r with
  | 0 => x.ctl &&& 0xFFFF00000000FF3D
  | 8 => x.src
  | 0x10 => x.size
  | 0x18 => x.pos &&& 0xFFFFFFFF
  | 0x20 => x.sync &&& 0xBFFF000007FF
  | 0x28 => x.acq
  | _ => 0).toNat

/-- A layer's page (R281, Table 8.19). -/
def layerView (s : State) (n k r : Nat) : Nat :=
  let l := s.layer n k
  if r < 0x100 then l.pend.view r
  else if r < 0x200 then l.act.view (r - 0x100)
  else match setOf s n k with
    | some x => atBit 48 x.tag + (if x.ready then 2 else 1)
    | none => 0

/-- OUT_STATUS (Table 8.23). -/
def Output.status (o : Output) : Nat :=
  atBit 32 o.sinkGen + atBit 16 o.err + atBit 8 o.src.code + atBit 3 (b2n o.linkUp) + atBit 2 (b2n o.sink) + atBit 1 (b2n o.busy)
    + b2n (o.src != .off)

/-- An output's page (Tables 8.21 to 8.25). OUT_LINE is a free value: the model has no time inside a frame. -/
def outView (s : State) (n r : Nat) : Nat :=
  let o := s.output n
  if 0x1000 ≤ r then
    (match r with
    | 0x1200 => o.sinkFlags
    | 0x1208 => o.sinkBlocks
    | _ => o.window.nat (r - 0x1000) 8)
  else if 0x100 ≤ r then counterView s (uOut n) r
  else match r with
    | 0 => (o.ctl &&& 0xFFFFFF0FFFF38F01).toNat + atBit 4 o.iface + atBit 1 (b2n o.busy)
    | 0x08 => o.timH.toNat
    | 0x10 => o.timV.toNat
    | 0x18 => o.clk.toNat
    | 0x20 => o.bg.toNat
    | 0x28 => o.lead.toNat
    | 0x30 => o.notify.toNat
    | 0x38 => o.status
    | 0x40 => o.frame
    | 0x48 => (Config.free s.freeTick).toNat % 2 ^ 17
    | 0x50 => o.wbCtl.toNat
    | 0x58 => o.wbDst.toNat
    | 0x60 => o.wbSync.toNat
    | 0x68 => o.aux.toNat + atBit 63 (b2n o.auxBusy) + atBit 60 o.auxResult
    | 0x70 => o.aux0.toNat
    | 0x78 => o.aux1.toNat
    | _ => 0

/-- A tenant's flip page (Table 8.20). -/
def flipView (s : State) (t r : Nat) : Nat :=
  let p := s.page t
  if 0x20 ≤ r then
    let (tag, outcome, frame) := tget p.last ((r - 0x20) / 8) (0, 0, 0)
    atBit 48 tag + atBit 40 outcome + frame
  else match r with
    | 0 => p.doneFence.toNat
    | 8 => p.doneValue.toNat
    | 0x18 => atBit 48 p.tag + atBit 40 p.detail + atBit 16 p.status
    | _ => 0

/-- A Beacon page (R266, Table 8.26): pending values, and the record last published. -/
def beaconView (s : State) (n r : Nat) : Nat :=
  let o := s.output n
  let e := fun (i : Nat) => (o.pend.entry i).toNat
  if 0x400 ≤ r then e ((r - 0x400) / 4) + atBit 32 (e ((r - 0x400) / 4 + 1))
  else match r with
    | 0 => o.pend.ctl.toNat + atBit 16 (b2n (beaconLocked s n))
    | 8 => o.pend.region.toNat
    | 0x10 => o.pend.geom.toNat
    | 0x20 => atBit 4 o.commitErr + b2n o.commit
    | 0x28 => o.record.frame
    | 0x30 => atBit 32 o.record.output + o.record.source
    | 0x38 => o.record.flags
    | _ => 0

/-- The Prism block (Tables 8.11 and 8.12): `off` is an offset in it. -/
def prismView (s : State) (t off : Nat) : Nat :=
  if off = 0 then 0x04000C100402
  else if 0x100000 ≤ off ∧ off < 0x140000 then outView s ((off - 0x100000) / 0x10000) (off % 0x10000)
  else if 0x200000 ≤ off ∧ off < 0x240000 then
    layerView s ((off - 0x200000) / 0x10000) (off % 0x10000 / 0x1000) (off % 0x1000)
  else if 0x300000 ≤ off ∧ off < 0x310000 then flipView s t (off % 0x1000)
  else if 0x400000 ≤ off ∧ off < 0x404000 then beaconView s ((off - 0x400000) / 0x1000) (off % 0x1000)
  else if 0x800000 ≤ off ∧ off < 0xA00000 then s.prism.store.nat (off - 0x800000) 8
  else 0

/-- CH_STATUS (Table 12.7). -/
def EngCtx.status (x : EngCtx) : Nat :=
  atBit 48 x.code + atBit 40 x.detail + atBit 6 x.result + atBit 2 (b2n x.stream.isSome)
    + atBit 1 (b2n ((x.job.map EngJob.suspended).getD false)) + b2n x.job.isSome

/-- The Chipper block (Tables 12.6 to 12.8): `off` is an offset in it. -/
def chipperView (s : State) (off : Nat) : Nat :=
  let r := off % 0x1000
  if off = 0 then 0x01000244
  else if off < 0x14000 then
    let e := (off - 0x10000) / 0x1000
    let x := s.eng e
    if r = 0 then
      atBit 8 (match x.cur with
        | some c => c
        | none => 0xFF) + atBit 1 (b2n x.seg.isSome) + b2n (x.seg.isSome || x.cur.isSome)
    else counterView s (uChip e) r
  else
    let x := s.engCtx ((off - 0x100000) / 0x1000)
    match r with
    | 0x00 => x.src.toNat
    | 0x08 => x.dst.toNat
    | 0x10 => x.state.toNat
    | 0x18 => x.len.toNat
    | 0x20 => (x.ctl &&& 0x7F1F7F).toNat
    | 0x28 => x.fence.toNat
    | 0x30 => x.value.toNat
    | 0x40 => x.status
    | 0x48 => atBit 32 x.outBytes + x.inBytes
    | 0x50 => x.errAt
    | _ => 0

/-- The Blaze block (Tables 12.6, 12.9 and 12.10): `off` is an offset in it. -/
def blazeView (s : State) (off : Nat) : Nat :=
  let r := off % 0x1000
  if off = 0 then 0x348
  else if off < 0x18000 then
    let u := (off - 0x10000) / 0x1000
    if r = 0 then ((List.range 4).map fun k => atBit k (b2n (s.bz (4 * u + k)).attached.isSome)).sum
    else counterView s (uBlaze u) r
  else
    let b := s.bz ((off - 0x100000) / 0x1000)
    let running := b.running.toNat % 2 ^ (8 * crcBytes b.poly)
    match r with
    | 0x00 => b.ctl.toNat + atBit 7 (b2n b.attached.isSome)
    | 0x08 => b.address.toNat
    | 0x10 => b.seq.toNat
    | 0x18 => running
    | 0x20 => running ^^^ crcInit b.poly
    | 0x40 => atBit 32 b.frames + b2n b.failed
    | _ => 0

/-- The unit of a power domain (Table 14.5). -/
def domainUnit (d : Nat) : Nat :=
  if d < 112 then d
  else if d < 116 then 0x80 + (d - 112)
  else if d < 118 then 0x90 + (d - 116)
  else if d < 120 then 0x9C + (d - 118)
  else if d < 123 then 0x98 + (d - 120)
  else if d < 127 then 0x94 + (d - 123)
  else 0xBE

/-- 64 domains from domain 64 × `i` up as a bit map. -/
def domainBits (us : List Nat) (i : Nat) : Nat :=
  ((List.range 64).map fun b => atBit b (b2n (us.contains (domainUnit (64 * i + b))))).sum

/-- PHASE of NIGHT_STATUS (Table 14.13). -/
def nightPhase (s : State) : Nat :=
  if s.power.sleep = .commit then 3
  else match tget? s.power.dusk 0x100 with
    | some x => if x.commit then 3 else x.phase
    | none => 0

/-- WCK_DIV of a data rate (Table 14.1). -/
def wckDiv (rate : Nat) : Nat := if rate = 9600 then 2 else if rate = 6400 then 3 else 4

/-- The clocks, power and droop block as a tenant reads it (R460, Tables 14.12 to 14.14). -/
def powerView (s : State) (t r : Nat) : Nat :=
  let w := s.power
  if 0x10000 ≤ r then
    let k := (r - 0x10000) / 0x1000
    let x := s.stand k
    if r % 0x1000 = 0 then
      atBit 32 x.gov + atBit 24 x.divider + atBit 3 (b2n (w.fabTrip || w.fabDeep)) + atBit 2 (b2n x.deep) + atBit 1 (b2n x.trip)
    else counterView s (0xA0 + k) (r % 0x1000)
  else if 0x100 ≤ r then counterView s 0xB0 r
  else match r with
    | 0x00 => atBit 48 0x18 + atBit 40 (wckDiv s.cfg.dataRate) + 0x0804FA0000 + b2n w.pll
    | 0x08 =>
      atBit 40 (envelopeNow s) + atBit 32 w.work + atBit 24 (w.tj % 256).toNat + atBit 16 w.limit + w.duty
    | 0x10 => atBit 32 w.p100 + w.p1
    | 0x18 => ((s.tenant t).envelope).getD 0
    | 0x20 => let (kind, outcome, reason, unit) := w.last
      atBit 48 kind + atBit 40 outcome + atBit 8 reason + unit
    | 0x28 => atBit 4 (nightPhase s) + atBit 3 (b2n w.dataLost) + atBit 2 (b2n w.forced) + atBit 1 (b2n w.woken)
    | 0x30 => atBit 48 s.cfg.droopDwell + atBit 32 s.cfg.droopHold + atBit 8 s.cfg.droopDeepMv + s.cfg.droopMv
    | 0x40 => domainBits w.on 0
    | 0x48 => domainBits w.on 1
    | 0x50 => domainBits w.padHold 0
    | 0x58 => domainBits w.padHold 1
    | _ => 0

/-- CORE_STATUS (Table 2.10), which the stand's shared logic keeps (R96). -/
def coreStatus (s : State) (n : Nat) : Nat :=
  atBit 24 (s.stand (n / 8)).divider + atBit 15 (b2n (s.maps.core.getLsbD n)) + atBit 14 (b2n (s.maps.tensor.getLsbD n))
    + atBit 13 (b2n (s.power.on.contains n)) + atBit 12 (b2n (s.power.on.contains (0x30 + n)))
    + atBit 11 (b2n ((s.core n).cmdsOn.any fun i => (s.ctx (cmdOf s i).ctx).st == .faulted))

/-- CORE_OCCUPANCY (Table 2.11): pipeline p has the slots 16 p to 16 p + 15. -/
def Core.occupancy (c : Core) : Nat :=
  atBit 32 c.scratchFree + atBit 20 ((c.wgs.filter fun e => e.2.live).length)
    + ((List.range 4).map fun p => atBit (5 * p) ((c.groups.filter fun e => e.2.live && e.1 / 16 == p).length)).sum

/-- A core's window (R96, Table 2.9): all but CORE_STATUS read 0 while PD_Cnn is off. -/
def coreView (s : State) (n r : Nat) : Nat :=
  let c := s.core n
  if r = 0 then coreStatus s n
  else if !s.power.on.contains n then 0
  else if r = 8 then c.occupancy
  else if r = 0x10 then c.errLog.toNat
  else if 0x200 ≤ r then (tget c.dets ((r - 0x200) / 8) .empty).view
  else counterView s n r

/-- The cut whose tile or reservation is on a core. -/
def cutHere (s : State) (n : Nat) : Option CutPass := (s.core n).holder.bind (tget? s.cuts)

/-- The stage of a cut tile: that of a stage or move; 0 before the first, the last one after it. -/
def TileRun.stage (x : TileRun) (p : CutPass) : Nat :=
  match x.step with
  | .load _ => 0
  | .move n _ => n
  | .stage n _ => n
  | .staged n => n
  | .store _ => p.hdr.stages - 1
  | .part => p.hdr.stages - 1

/-- The tile engine is at work: a load, a move or a store comes next. -/
def TileRun.moving (x : TileRun) : Bool :=
  match x.step with
  | .load _ => true
  | .move _ _ => true
  | .store _ => true
  | .part => true
  | .stage _ _ => false
  | .staged _ => false

/-- log2 of a power of two up to 16. -/
def log2To (n : Nat) : Nat := (firstBelow 5 fun k => decide (n ≤ 2 ^ k)).getD 0

/-- TENSOR_STATUS, TENSOR_TILE and TENSOR_BUCK (Tables 5.15 to 5.17), while the array is on. -/
def tensorStatus (s : State) (n : Nat) : Nat :=
  let c := s.core n
  atBit 32 c.tq.length + atBit 14 (b2n (c.tq.any TqEntry.started)) + (match cutHere s n with
    | some p => atBit 16 (b2n p.heritage) + (match c.run with
      | some x => atBit 20 (if x.combine then 0 else x.stage p) + atBit 13 (b2n x.moving) + atBit 12 (b2n x.combine)
      | none => 0)
    | none => 0)
def tensorTile (s : State) (n : Nat) : Nat :=
  atBit 32 (((cutHere s n).map fun p => p.tiles).getD 0) + (match (s.core n).run with
    | some x => x.tile
    | none => 0xFFFFFFFF)
def tensorBuck (s : State) (n : Nat) : Nat :=
  match cutHere s n with
  | some p => atBit 16 p.gen + atBit 8 p.order.length + log2To p.split
  | none => 0

/-- A tensor array's window (R185, Table 5.14): all but ENABLED read 0 while PD_Tnn is off. -/
def tensorView (s : State) (n r : Nat) : Nat :=
  let enabled := if r = 0 then atBit 15 (b2n (s.maps.tensor.getLsbD n)) else 0
  enabled + (if !s.power.on.contains (0x30 + n) then 0
    else match r with
      | 0 => tensorStatus s n
      | 8 => tensorTile s n
      | 0x10 => tensorBuck s n
      | _ => counterView s (0x30 + n) r)

/-- The render pass whose tile or reservation is on a core. -/
def passHere (s : State) (n : Nat) : Option RenderPass := (s.core n).holder.bind (tget? s.renders)

/-- A core's raster window (R237, Tables 7.12, 7.14 and 7.15): 0 while PD_Cnn is off. A flush block is stored at once, so
FLUSHING reads 0. -/
def rasterView (s : State) (n r : Nat) : Nat :=
  let c := s.core n
  if !s.power.on.contains n then 0
  else match r with
    | 0 => atBit 32 (((passHere s n).map fun p => p.hdr.tiles).getD 0) + (match c.raster with
      | some x => x.tile
      | none => 0xFFFFFFFF)
    | 8 => (match passHere s n with
      | some p =>
        atBit 16 (min p.rounds 255) + atBit 6 p.hdr.shape + atBit 4 (log2To p.hdr.samples)
          + atBit 3 (b2n (s.ctx (cmdOf s (c.holder.getD 0)).ctx).heritage) + 2 + b2n c.raster.isSome
      | none => 0)
    | _ => counterView s (0x100 + n) r

/-- The batch of a binner: the pass's next one of its parity (R37), 0 when none is left to it (Table 7.17). -/
def RenderPass.ownBatch (p : RenderPass) (b : Nat) : Nat :=
  let k := (p.primBase p.binDraw + p.binPrim) / 256
  let m := if k % 2 = b then k else k + 1
  if p.primBase p.draws.length ≤ 256 * m then 0 else m

/-- A binner's window (R237, Tables 7.11 and 7.17): 0 while PD_BNb is off. A cut is bucked at once, so BUCKING reads 0, and a
binner that wants a chunk fixes a flush point or faults at once, so STALLED does. -/
def binnerView (s : State) (b r : Nat) : Nat :=
  if !s.power.on.contains (0x9C + b) then 0
  else if r ≠ 0 then counterView s (0x9C + b) r
  else match (tget? s.sched.binning b).bind (tget? s.renders) with
    | some p => atBit 40 (p.ownBatch b) + atBit 3 (b2n p.flushing) + 1
    | none => 0

/-- The effective priorities of the work that waits for a core (Table 11.8). -/
def waitingPrios (s : State) : List Nat :=
  ((s.cmds.filter fun e => (List.range 48).any fun k => !(needsAt s k e.1).isEmpty).map fun e => effPrio s e.2.queue)
    ++ (s.sched.saved.filter (Saved.ready s)).map fun e => effPrio s (cmdOf s e.cmd).queue

/-- SCHED_STATUS and SCHED_CONFIG (Tables 11.8 and 11.9). -/
def schedStatus (s : State) : Nat :=
  let qs := s.sched.boosts.foldl (fun (l : List Nat) b => if l.contains b.queue then l else b.queue :: l) []
  let ps := waitingPrios s
  atBit 32 (framesFree s) + atBit 16 s.cfg.saveFrames + atBit 8 qs.length + (if ps = [] then 0xF else ps.foldl max 0)
def schedView (s : State) (r : Nat) : Nat :=
  match r with
  | 0 => schedStatus s
  | 8 => atBit 32 s.cfg.quantumUs + atBit 16 s.cfg.escalateUs
  | _ => counterView s uSched r

/-- STATE of RANGER_STATUS (Table 13.1). -/
def RangerSt.code : RangerSt → Nat
  | .boot => 0
  | .run => 1
  | .switch => 2
  | .probation => 3
  | .restarting => 4
  | .stopped => 5

/-- Ranger's window (Table 13.1). -/
def rangerView (s : State) (r : Nat) : Nat :=
  let g := s.ranger
  if r = 0 then atBit 48 g.restarts + atBit 32 g.lastCause + atBit 16 g.st.code + atBit 8 s.boot.bank
  else match g.act with
    | some a => if g.st = .probation then (imgConfig (bankImage s a.bank)).healthMs - (s.timer - a.since) / 38400 else 0
    | none => 0

/-- The availability window (Tables 15.3, 15.5 and 15.6): the counters are those of the error collector. -/
def availView (s : State) (r : Nat) : Nat :=
  let a := s.avail
  if 0x1000 ≤ r then
    (match tget? a.records ((r - 0x1000) / 16) with
    | some e => if r % 16 = 0 then atBit 56 e.kind + atBit 48 e.unit + atBit 44 e.cls + e.loc % 2 ^ 40 else e.timer
    | none => 0)
  else match r with
    | 0 => atBit 32 a.total + atBit 16 a.retirements + atBit 8 a.next + atBit 2 (b2n a.dataSuspect) + atBit 1 (b2n a.retireHeld)
        + b2n a.poisonSeen
    | 8 => 0x0E101000003C0240
    | _ => counterView s uAvail r

/-- The stands and cores block (hitCores): `off` is an offset in it. -/
def standsView (s : State) (off : Nat) : Nat :=
  if off < 0xC00000 then coreView s (off / 0x40000) (off % 0x40000)
  else if off < 0xC20000 then binnerView s ((off - 0xC00000) / 0x10000) (off % 0x10000)
  else if off < 0xE00000 then rasterView s ((off - 0xD00000) / 0x1000) (off % 0x1000)
  else if off < 0xF00000 then schedView s (off % 0x100000)
  else if off < 0x1000000 then rangerView s (off % 0x100000)
  else if off < 0x1C00000 then tensorView s ((off - 0x1000000) / 0x40000) (off % 0x40000)
  else availView s (off - 0x1C00000)

/-- Three ports as a bit map. -/
def portBits (f : Nat → Bool) : Nat := ((List.range 3).map fun p => atBit p (b2n (f p))).sum

/-- The capability table (R15, R317, Table 9.22), as an access reads it: `t` is the tenant it is bound to. -/
def capView (s : State) (port : Nat) (t : Option Nat) (r : Nat) : Nat :=
  let live := fun (p : Nat → Bool) (n : Nat) => ((List.range n).filter p).length
  match r with
  | 0x00 => atBit 40 s.fuses.stepping + 0x014E394341
  | 0x08 => atBit 16 s.fuses.tempGrade + s.fuses.grade
  | 0x10 => atBit 32 s.boot.kreogBuild + s.boot.kreogVersion
  | 0x18 => atBit 32 s.boot.configBank + s.boot.configVersion
  | 0x20 => s.maps.core.toNat
  | 0x28 => s.maps.tensor.toNat
  | 0x30 => s.maps.gen
  | 0x38 => s.fuses.coreMap.toNat
  | 0x40 => 0x4000040001000010
  | 0x48 => 0x10000
  | 0x50 =>
    atBit 48 ((s.fences.filter fun e => e.2.st != .free).length) + atBit 32 ((s.queues.filter fun e => e.2.st != .free).length)
      + atBit 16 ((s.ctxs.filter fun e => e.2.st != .free).length) + live (fun i => (s.tenant i).st != .free) 16
  | 0x58 =>
    atBit 32 ((s.objs.filter fun e => e.2.st == .retiring).length) + (s.objs.filter fun e => e.2.st == .live).length
  | 0x60 => s.boot.dramBytes
  | 0x68 => atBit 40 s.cfg.streamWays + atBit 32 s.boot.packages + atBit 24 (b2n s.cfg.inlineEcc) + 0x100000 + s.cfg.dataRate
  | 0x70 => 0x100000801010
  | 0x78 =>
    atBit 24 (portBits fun p => (s.port p).atomicEn) + atBit 20 (portBits fun p => (s.port p).winEn)
      + atBit 16 (portBits fun p => (s.port p).up)
      + ((List.range 3).map fun p => atBit (4 + 4 * p) (hostLanes s p)).sum + s.cfg.bifurcation
  | 0x80 =>
    (match s.cfg.beaconOwner with
    | some (p, n) => 0x10000 + atBit 12 n + atBit 8 p
    | none => 0) + ((List.range 4).map fun n => atBit (2 * n) (s.output n).iface).sum
  | 0x88 => atBit 8 (envelopeNow s) + s.cfg.envelope
  | 0x90 => 4 * b2n s.fuses.secureBoot + 2 * b2n s.ranger.debug + b2n s.fuses.scorched
  | 0x98 => 0x04004028300F
  | 0xA0 => (match t with
    | some n => 0x100 + atBit 4 port + n
    | none => atBit 4 port)
  | _ => 0

/-- What a register of BAR0 that is visible to tenant `t` reads as; `off` is a multiple of 8. -/
def bar0View (s : State) (port t off : Nat) : DWord :=
  let o := off % 0x1000000
  BitVec.ofNat 64 (match off / 0x1000000 with
    | 0 => flumeView s t (o % 0x100000)
    | 1 => fenceView s t o
    | 2 => pageView s t (o % 0x1000)
    | 4 => prismView s t o
    | 5 => chipperView s o
    | 6 => blazeView s o
    | 7 => powerView s t o
    | 8 => counterView s (0x70 + o / 0x1000) (o % 0x1000)
    | 10 => standsView s o
    | 11 => standsView s (o + 0x1000000)
    | 12 => capView s port (some t) o
    | _ => 0)

/-- BOOT_STATUS (Table 16.3). -/
def bootStatus (s : State) : Nat := atBit 24 s.boot.booted + atBit 16 s.boot.warn + atBit 8 s.boot.fail + s.boot.stage

/-- The port VSEC (R494, Table 16.3): 32-bit registers. -/
def vsecView (s : State) (port off : Nat) : Nat :=
  let x := s.port port
  match off with
  | 0x00 => 0x1000B
  | 0x04 => 0x4010960
  | 0x0C => x.rcBind.toNat
  | 0x10 => x.rcPasid.toNat
  | 0x14 => atBit 16 x.rcResult + atBit 8 x.rcTenant + atBit 7 (b2n x.bound) + atBit 6 (b2n x.rcPending) + x.shown
  | 0x18 => x.winLo.toNat
  | 0x1C => x.winHi.toNat
  | 0x20 => bootStatus s
  | _ => 0

/-- The configuration header of a port's function (R487), by its standard offsets: identities, revision and class, the two 64-bit
non-prefetchable BARs, the subsystem. -/
def headerView (s : State) (port off : Nat) : Nat :=
  let x := (s.port port).pci
  match off with
  | 0x00 => atBit 16 0x0960 + s.fuses.vendorId
  | 0x08 => atBit 8 0x038000 + s.fuses.stepping
  | 0x10 => x.bar0.toNat % 2 ^ 32 + 4
  | 0x14 => x.bar0.toNat / 2 ^ 32
  | 0x18 => x.bar2.toNat % 2 ^ 32 + 4
  | 0x1C => x.bar2.toNat / 2 ^ 32
  | 0x2C => atBit 16 s.cfg.subId + s.cfg.subVendor
  | _ => 0

/-- The fields of the standard configuration registers that functionWrite names, and from 0x100 up the header. -/
def functionView (s : State) (port off : Nat) : Nat :=
  let x := s.port port
  match off with
    | 0 => b2n x.busMaster
    | 1 => b2n x.atomicEn
    | 2 => b2n x.d3
    | 3 => b2n x.msixEn
    | 4 => b2n x.pci.functionMask
    | 5 => x.pci.maxPayload
    | 6 => x.pci.maxRead
    | 7 => b2n x.pci.ltr
    | 8 => x.pci.aspm
    | 9 => b2n x.pci.ecrcGen
    | 10 => b2n x.pci.ecrcCheck
    | 11 => x.pci.timeout
    | 12 => x.pci.aerUncor.toNat
    | 13 => x.pci.aerCor.toNat
    | _ => if 0x100 ≤ off then headerView s port (off - 0x100) else 0

/-- A port's MSI-X table and pending bits in BAR2 (R488, Table 16.1): the table as written, with each entry's mask bit; from 0x8000
up the pending bits. -/
def msixView (s : State) (port off : Nat) : Nat :=
  let x := s.port port
  if off < 0x8000 then
    x.msixTab.nat off 8 + (if off % 16 = 8 then atBit 32 (b2n (!x.msixOpen.contains (off / 16))) else 0)
  else ((List.range 64).map fun b => atBit b (b2n (x.msixPend.contains (8 * (off - 0x8000) + b)))).sum

end Sys2Proof.Machine
end

