-- ==== Sys2Proof/Machine/SideView.lean ====
section
/-! DEFINITION. What the I3C target presents (R268, R471, R481, R502, R503, Tables 16.9 and 16.10). -/

namespace Sys2Proof.Machine

/-- The status page (Table 16.10). -/
def statusPage (s : State) (r : Nat) : Nat :=
  match r with
  | 0 => atBit 16 s.fuses.stepping + atBit 8 s.fuses.tempGrade + s.fuses.grade
  | 8 => bootStatus s
  | 0x10 => ((List.range 4).map fun n => atBit (8 + 2 * n) (s.output n).src.code).sum + atBit 4 (nightPhase s) + s.ranger.st.code
  | _ => 0

/-- The Beacon record of an output as Table 8.4 lays it out. -/
def recordBytes (r : BeaconRec) : List Byte :=
  leBytes 8 r.frame ++ leBytes 4 r.source ++ leBytes 4 r.output ++ leBytes 2 r.flags ++ List.replicate 6 0

/-- A register of the sideband space; `a` is a multiple of 8. Reserved addresses and write-only ones read as 0. -/
def sideReg (s : State) (a : Nat) : Nat :=
  if a < 0x18 then statusPage s a
  else if 0x1000 ≤ a ∧ a < 0x1100 then leNat (((recordBytes (s.output ((a - 0x1000) / 0x40)).record).drop (a % 0x40)).take 8)
  else if 0x10000 ≤ a ∧ a < 0x14000 then
    (if beaconRegHere (a % 0x1000) then beaconView s ((a - 0x10000) / 0x1000) (a % 0x1000) else 0)
  else if a = 0x20008 then atBit 16 (b2n (i3cBusy s)) + s.i3c.cmdStatus.toNat
  else if 0x30000 ≤ a ∧ a < 0x32000 then availView s (a - 0x30000)
  else if 0x40000 ≤ a ∧ a < 0x60000 then (s.fence ((a - 0x40000) / 8)).value.toNat
  else if 0x84000 ≤ a ∧ a < 0x88000 then flumeView s i3cChannel (a - 0x84000 + 0x10000)
  else if 0x88000 ≤ a ∧ a < 0x88030 then flumeView s i3cChannel (a - 0x88000 + 0x20000)
  else if 0x100000 ≤ a ∧ a < 0x300000 then s.prism.store.nat (a - 0x100000) 8
  else 0

/-- A byte of the sideband space. -/
def sideByte (s : State) (a : Nat) : Byte := BitVec.ofNat 8 (sideReg s (a / 8 * 8) / 2 ^ (8 * (a % 8)))

end Sys2Proof.Machine
end

