-- ==== Sys2Proof/Machine/Registers.lean ====
section
/-! DEFINITION. The register space of a port: CLEAR, and every register access that has no row of its own (R10, R13,
R41 to R43, R410, R460, R488 to R490, R494). -/

namespace Sys2Proof.Machine

/-- The state that a command leaves. -/
def stateAfter (o : Outc) (s : State) : State :=
  match o with
  | .next t => t
  | _ => s

/-- CLEAR (R288, Table 9.2): a write of 1 to CLEAR of ERR_LOG_STATUS empties the tenant's error log. -/
def execClear (a : Access) (t : Nat) (s : State) : Outc :=
  .next (ownPage s a t (0x2000800 + 0x1000 * t)
    (if (accOnes a).getLsbD 63 then s.setTenant t (s.tenant t).clearLog else s))

/-- What a BAR0 offset that is a multiple of 8 decodes to (Table 1.8 and the block maps it names). -/
inductive RegHit where
  /-- A register that the accessor may read; a write has no effect (R10). -/
  | ro
  /-- A register that the accessor may read and not write (R460). -/
  | roRefused
  /-- A register that the accessor may read and write. -/
  | rw
  /-- A page or register not visible to the accessor. -/
  | hidden
  /-- A reserved offset, or a register that does not exist. -/
  | absent
  deriving DecidableEq, Repr

/-- A register of a counter page from 0x100, `n` counters of 8 bytes. -/
def counterHere (r n : Nat) : Bool := decide (0x100 ≤ r ∧ r < 0x100 + 8 * n)

/-- The Flume windows (R410, Table 13.2). -/
def hitFlume (t off : Nat) : RegHit :=
  let r := off % 0x100000
  if off / 0x100000 ≠ t then .hidden
  else if r < 0x4000 then .rw
  else if 0x10000 ≤ r ∧ r < 0x14000 then .ro
  else if r = 0x20000 ∨ r = 0x20010 ∨ r = 0x20020 then .rw
  else if r = 0x20008 ∨ r = 0x20018 ∨ r = 0x20028 then .ro
  else .absent

/-- The fence block (R342, Tables 10.6 and 10.7); offsets from its base. -/
def hitFence (s : State) (t off : Nat) : RegHit :=
  if off < 0x100000 then
    let r := off % 0x40
    if fenceRight (s.fence (off / 0x40)) t = 0 then .hidden
    else if r = 8 ∨ r = 0x10 then .rw
    else if r = 0 ∨ r = 0x18 then .ro
    else .absent
  else if off < 0x110000 then
    let r := off % 0x20
    if (off - 0x100000) / 0x1000 ≠ t then .hidden
    else if 0x800 ≤ off % 0x1000 then .absent
    else if r = 0 ∨ r = 8 then .rw
    else .ro
  else .absent

/-- The tenant pages (R287, Table 9.2); offsets from their base. -/
def hitPage (t off : Nat) : RegHit :=
  let r := off % 0x1000
  if 16 ≤ off / 0x1000 then .absent
  else if off / 0x1000 ≠ t then .hidden
  else if r ≤ 0x800 then .rw
  else if 0xC00 ≤ r then .ro
  else .absent

/-- A tenant may read an output's registers and sink window: it owns the output, or holds a layer of it (R281, Table 8.11). -/
def outReader (s : State) (n t : Nat) : Bool :=
  outOwner s n == some t || (List.range 16).any fun k => layerOwner s n k == some t

/-- The Prism block as a reader finds it (R281); offsets from its base. Writes are decoded by writePrism. -/
def hitPrism (s : State) (t off : Nat) : RegHit :=
  if off = 0 then .ro
  else if 0x100000 ≤ off ∧ off < 0x140000 then
    let r := off % 0x10000
    if 0x2000 ≤ r then .absent
    else if !outReader s ((off - 0x100000) / 0x10000) t then .hidden
    else if outRegHere r then .rw else .absent
  else if 0x200000 ≤ off ∧ off < 0x240000 then
    if layerOwner s ((off - 0x200000) / 0x10000) (off % 0x10000 / 0x1000) ≠ some t then .hidden
    else if layerRegHere (off % 0x1000) then .rw else .absent
  else if 0x300000 ≤ off ∧ off < 0x310000 then
    if (off - 0x300000) / 0x1000 ≠ t then .hidden
    else if off % 0x1000 ≤ 0x38 then .rw else .absent
  else if 0x400000 ≤ off ∧ off < 0x404000 then
    if beaconOwner s ≠ some t then .hidden
    else if beaconRegHere (off % 0x1000) then .rw else .absent
  else if 0x800000 ≤ off ∧ off < 0xA00000 then
    if beaconOwner s ≠ some t then .hidden else .rw
  else .absent

/-- The Chipper block (Tables 12.6 to 12.8); offsets from its base. -/
def hitChipper (s : State) (t off : Nat) : RegHit :=
  let r := off % 0x1000
  if off = 0 then .ro
  else if 0x10000 ≤ off ∧ off < 0x14000 then (if r = 0 ∨ counterHere r 8 then .ro else .absent)
  else if 0x100000 ≤ off ∧ off < 0x110000 then
    match tget? s.chipGrants ((off - 0x100000) / 0x1000) with
    | some g => if g.1 ≠ t then .hidden else if r ≤ 0x38 then .rw else if r ≤ 0x50 then .ro else .absent
    | none => .hidden
  else .absent

/-- The Blaze block (Tables 12.6, 12.9 and 12.10); offsets from its base. -/
def hitBlaze (s : State) (t off : Nat) : RegHit :=
  let r := off % 0x1000
  if off = 0 then .ro
  else if 0x10000 ≤ off ∧ off < 0x18000 then (if r = 0 ∨ counterHere r 4 then .ro else .absent)
  else if 0x100000 ≤ off ∧ off < 0x120000 then
    match tget? s.blazeGrants ((off - 0x100000) / 0x1000) with
    | some u =>
      if u ≠ t then .hidden
      else if r ≤ 0x18 ∨ r = 0x28 ∨ r = 0x30 ∨ r = 0x38 then .rw
      else if r = 0x20 ∨ r = 0x40 then .ro
      else .absent
    | none => .hidden
  else .absent

/-- The clocks, power and droop block (R460, Table 14.12); offsets from its base. -/
def hitPower (off : Nat) : RegHit :=
  if off = 0x18 then .rw
  else if off ≤ 0x30 ∨ (0x40 ≤ off ∧ off ≤ 0x58) ∨ counterHere off 7 then .roRefused
  else if 0x10000 ≤ off ∧ off < 0x16000 ∧ (off % 0x1000 = 0 ∨ counterHere (off % 0x1000) 5) then .roRefused
  else .absent

/-- The memory controller status block (R473); offsets from its base. -/
def hitChannel (off : Nat) : RegHit :=
  if off < 0x10000 ∧ counterHere (off % 0x1000) 7 then .ro else .absent

/-- STRIDE_DET of Table 2.9 can be seen: the scorch fuse is intact and debug is granted. -/
def debugSeen (s : State) : Bool := !s.fuses.scorched && s.ranger.debug

/-- The stands and cores block (Tables 2.9, 5.14, 7.11, 7.12, 11.7, 13.1 and 15.5); offsets from 0x0A00_0000. -/
def hitCores (s : State) (off : Nat) : RegHit :=
  if off < 0xC00000 then
    let r := off % 0x40000
    if r ≤ 0x10 ∨ counterHere r 12 then .ro
    else if 0x200 ≤ r ∧ r < 0x280 then (if debugSeen s then .ro else .hidden)
    else .absent
  else if off < 0xC20000 then (if off % 0x10000 = 0 ∨ counterHere (off % 0x10000) 7 then .ro else .absent)
  else if 0xD00000 ≤ off ∧ off < 0xD30000 then
    (if off % 0x1000 ≤ 8 ∨ counterHere (off % 0x1000) 13 then .ro else .absent)
  else if 0xE00000 ≤ off ∧ off < 0xF00000 then
    (if off % 0x100000 ≤ 8 ∨ counterHere (off % 0x100000) 17 then .ro else .absent)
  else if 0xF00000 ≤ off ∧ off < 0x1000000 then (if off % 0x100000 ≤ 8 then .ro else .absent)
  else if 0x1000000 ≤ off ∧ off < 0x1C00000 then
    (if off % 0x40000 ≤ 0x10 ∨ counterHere (off % 0x40000) 11 then .ro else .absent)
  else if 0x1C00000 ≤ off then
    let r := off - 0x1C00000
    (if r ≤ 8 ∨ counterHere r 9 ∨ (0x1000 ≤ r ∧ r < 0x2000) then .ro else .absent)
  else .absent

/-- What tenant `t` finds at a BAR0 offset that is a multiple of 8 (R41, Table 1.8). -/
def regHit (s : State) (t off : Nat) : RegHit :=
  let o := off % 0x1000000
  match off / 0x1000000 with
  | 0 => hitFlume t o
  | 1 => hitFence s t o
  | 2 => hitPage t o
  | 4 => hitPrism s t o
  | 5 => hitChipper s t o
  | 6 => hitBlaze s t o
  | 7 => hitPower o
  | 8 => hitChannel o
  | 10 => hitCores s o
  | 11 => hitCores s (o + 0x1000000)
  | 12 => if o ≤ 0xA0 then .ro else .absent
  | _ => .absent

/-- Bytes of a channel's request ring written (R410). -/
def writeRing (s : State) (a : Access) (t off : Nat) : State :=
  let c := s.channel t
  s.setChannel t { c with requests := (List.range 8).foldl (fun (m : Mem) i =>
    if a.be.getLsbD i then m.put (off + i) (BitVec.ofNat 8 (a.data.toNat / 2 ^ (8 * i))) else m) c.requests }

/-- A write to a register that the writer may write. A register with a row of its own does what that row does. -/
def writeHit (s : State) (a : Access) (t off : Nat) : State :=
  let o := off % 0x1000000
  match off / 0x1000000 with
  | 0 => (match o % 0x100000 with
    | 0x20000 => stateAfter (execFlumeDoorbell a t s) s
    | 0x20010 => stateAfter (execFlumeReplyRead a t s) s
    | 0x20020 => writeFlumeCtl s a t
    | r => writeRing s a t r)
  | 1 =>
    if o < 0x100000 then
      (if o % 0x40 = 8 then stateAfter (execFenceSignalRegister a (o / 0x40) s) s
      else stateAfter (execFencePoisonRegister a (o / 0x40) s) s)
    else
      let k := o % 0x1000 / 0x20
      let h := tget (s.tenant t).waits k .empty
      if o % 0x20 = 0 then writeHwCtl s a t k
      else if h.armed then s
      else s.setTenant t { s.tenant t with
        waits := tset (s.tenant t).waits k { h with target := (accMerge a (BitVec.ofNat 64 h.target)).toNat } }
  | 2 =>
    if o % 0x1000 < 0x800 then stateAfter (execQueueDoorbell a t (o % 0x1000 / 8) s) s
    else stateAfter (execClear a t s) s
  | 4 =>
    if o = 0x300010 + 0x1000 * t then stateAfter (execFlipSubmit a t s) s else writePrism s a t o
  | 5 =>
    let c := (o - 0x100000) / 0x1000
    if o % 0x1000 = 0x38 then stateAfter (execChGo a c s) s else writeChReg s a c (o % 0x1000)
  | 6 =>
    let c := (o - 0x100000) / 0x1000
    (match o % 0x1000 with
    | 0x28 => stateAfter (execStart a c s) s
    | 0x30 => stateAfter (execBzFeed a c s) s
    | 0x38 => stateAfter (execBzFeedPart a c s) s
    | r => bzPage s a c r fun u => writeBzReg s a c r u)
  | 7 => stateAfter (execEnvelopeReq a s) s
  | _ => s

/-- A page of a unit context that its grantee reaches while it is attached: every write to it is discarded with kind 0xB (R400). -/
def attachedPage (s : State) (t off : Nat) : Bool :=
  let c := (off - 0x6100000) / 0x1000
  decide (0x6100000 ≤ off ∧ off < 0x6120000) && tget? s.blazeGrants c == some t && (s.bz c).attached.isSome

/-- A write to BAR0 that has arrived: of an access bound to no tenant nothing is kept (R43, R288). -/
def bar0Write (s : State) (a : Access) (off : Nat) : State :=
  let o := off / 8 * 8
  match accTenant s a with
  | none => s
  | some t =>
    if 0x10000000 ≤ o then s
    else if o / 0x1000000 = 4 then
      (if o = 0x4300010 + 0x1000 * t then writeHit s a t o else writePrism s a t (o % 0x1000000))
    else if attachedPage s t o then accLog s a t 0xB o
    else match regHit s t o with
      | .ro => s
      | .rw => writeHit s a t o
      | .hidden => accLog s a t 0x2 o
      | .roRefused => accLog s a t 0x2 o
      | .absent => accLog s a t 0x1 o

/-- What a read returned, sent through its port; it uses up a draw, for the free value that a register may hold. -/
def answer (s : State) (port : Nat) (v : DWord) : State :=
  { s with out := s.out ++ [.read port v], freeTick := s.freeTick + 1 }

/-- What an access bound to no tenant reads (R43): the capability table, and the blocks that are read-only as a whole
(log entry 113). -/
def unboundView (s : State) (port o : Nat) : DWord :=
  match o / 0x1000000 with
  | 12 => BitVec.ofNat 64 (capView s port none (o % 0x1000000))
  | 8 => if hitChannel (o % 0x1000000) = .ro then bar0View s port 0 o else 0
  | 10 => if hitCores s (o % 0x1000000) = .ro then bar0View s port 0 o else 0
  | 11 => if hitCores s (o % 0x1000000 + 0x1000000) = .ro then bar0View s port 0 o else 0
  | _ => 0

/-- A read of BAR0 that has arrived (R10, R13, R42, R43): the register's value, or 0 and a record of the refused access in its
tenant's log. No read changes a register. -/
def bar0Read (s : State) (a : Access) (off : Nat) : State :=
  let o := off / 8 * 8
  match accTenant s a with
  | none => answer s a.port (unboundView s a.port o)
  | some t =>
    if 0x10000000 ≤ o then s
    else match regHit s t o with
      | .hidden => answer (logTenant s t ⟨0x2, false, a.rid, o, s.timer⟩) a.port 0
      | .absent => answer (logTenant s t ⟨0x1, false, a.rid, o, s.timer⟩) a.port 0
      | _ => answer s a.port (bar0View s a.port t o)

/-- Bytes of a port's MSI-X table written (R488): the mask bit of an entry, bit 0 of its byte 12, is kept in msixOpen. -/
def msixWrite (s : State) (a : Access) (off : Nat) : State :=
  let o := off / 8 * 8
  let x := s.port a.port
  if 0x8000 ≤ o then s
  else
    let tab := (List.range 8).foldl (fun (m : Mem) i =>
      let b := a.data.toNat / 2 ^ (8 * i) % 256
      if a.be.getLsbD i then m.put (o + i) (BitVec.ofNat 8 (if (o + i) % 16 = 12 then b / 2 * 2 else b)) else m) x.msixTab
    let v := o / 16
    let mask := if o % 16 = 8 ∧ a.be.getLsbD 4 then a.data.getLsbD 32 else !x.msixOpen.contains v
    let rest := x.msixOpen.filter fun w => w != v
    flushMsix (s.setPort a.port { x with
      msixTab := tab
      msixOpen := if mask then rest else v :: rest }) a.port

/-- A 32-bit register with the enabled low bytes of a write. -/
def accMerge32 (a : Access) (old : Word) : Word :=
  BitVec.ofNat 32 (accMerge a (BitVec.ofNat 64 old.toNat)).toNat

/-- A write to the port VSEC (R494, Table 16.3); BIND acts before RELEASE. -/
def vsecWrite (s : State) (a : Access) (off : Nat) : State :=
  let p := a.port
  let x := s.port p
  match off with
  | 0x08 =>
    let on := accOnes a
    let s1 := if on.getLsbD 0 then rcWrite s p false else s
    if on.getLsbD 2 then rcWrite s1 p true else s1
  | 0x0C => s.setPort p { x with rcBind := accMerge32 a x.rcBind &&& 0x1FFFF }
  | 0x10 => s.setPort p { x with rcPasid := accMerge32 a x.rcPasid &&& 0xFFFFF }
  | 0x18 => s.setPort p { x with winLo := accMerge32 a x.winLo &&& 0xC0000001 }
  | 0x1C => s.setPort p { x with winHi := accMerge32 a x.winHi }
  | _ => s

/-- Fields of the standard configuration registers that the spec names: Bus Master Enable (R490), AtomicOp Requester
Enable (R492), the D state (R493), MSI-X Enable and Function Mask (R488), those of Table 16.1, the Completion Timeout Value
(R491) and the BARs (R487), of which 256 MiB and 64 KiB leave the upper bits. The low bits of the data are the field written; a
Max Payload Size over 512 bytes and a Max Read Request Size over 4,096 are not taken; AER status is write-1-to-clear. -/
def functionWrite (s : State) (a : Access) (off : Nat) : State :=
  let x := s.port a.port
  let b := a.data.getLsbD 0
  let v := a.data.toNat
  let pci := fun (p : PciRegs) => { x with pci := p }
  flushMsix (s.setPort a.port (match off with
    | 0 => { x with busMaster := b }
    | 1 => { x with atomicEn := b }
    | 2 => { x with d3 := b }
    | 3 => { x with msixEn := b }
    | 4 => pci { x.pci with functionMask := b }
    | 5 => if v % 8 ≤ 2 then pci { x.pci with maxPayload := v % 8 } else x
    | 6 => if v % 8 ≤ 5 then pci { x.pci with maxRead := v % 8 } else x
    | 7 => pci { x.pci with ltr := b }
    | 8 => pci { x.pci with aspm := v % 8 / 2 * 2 }
    | 9 => pci { x.pci with ecrcGen := b }
    | 10 => pci { x.pci with ecrcCheck := b }
    | 11 => pci { x.pci with timeout := v % 16 }
    | 12 => pci { x.pci with aerUncor := x.pci.aerUncor &&& ~~~(a.data.setWidth 32) }
    | 13 => pci { x.pci with aerCor := x.pci.aerCor &&& ~~~(a.data.setWidth 32) }
    | 14 => pci { x.pci with bar0 := a.data &&& 0xFFFFFFFFF0000000 }
    | 15 => pci { x.pci with bar2 := a.data &&& 0xFFFFFFFFFFFF0000 }
    | _ => x)) a.port

/-- Uncorrectable error bits of AER (PCI Express, PRESUMED, log entry 5): an Unsupported Request and a poisoned TLP received. -/
def aerUnsupported : Word := 0x100000
def aerPoisoned : Word := 0x1000
def noteAer (s : State) (p : Nat) (bit : Word) : State :=
  let x := s.port p
  s.setPort p { x with pci := { x.pci with aerUncor := x.pci.aerUncor ||| bit } }

/-- A request that ends with Unsupported Request and changes no register (R489). -/
def unsupported (s : State) (p : Nat) : State := { noteAer s p aerUnsupported with out := s.out ++ [.unsupported p] }

/-- A BAR0 request longer than 8 bytes, as 8-byte accesses in ascending address order (R489). -/
def bar0Split (f : State → Access → Nat → State) (a : Access) : List (BitVec 8 × BitVec 64) → Nat → State → State
  | [], _, s => s
  | (be, d) :: r, off, s => bar0Split f a r (off + 8) (f s { a with be := be, data := d } off)

/-- A poisoned write that arrives at a host window target (R464, R489): the word's line is taken into the system cache with the
bytes written, and the word is marked (the target's place: DESIGN CHOICE, log entry 14). -/
def windowPoisoned (s : State) (a : Access) (off : Nat) : State :=
  let pa := 0x8000000000 + a.port * 2 ^ 36 + off / 8 * 8
  let s1 := sliceRead s true (pa / 128)
  let s2 := physWrite1 s1 none true pa (leBytes 8 (accMerge a (BitVec.ofNat 64 (leNat (physRead1 s1 true pa 8)))).toNat)
  poisonWord (noteAer s2 a.port aerPoisoned) (pa / 8)

/-- An I3C private read (R503): bytes from the pointer upward, at most the maximum read length, each 8-byte register as one
value; the pointer advances by the bytes read. -/
def privateRead (s : State) (count : Nat) : State :=
  let n := min count s.i3c.mrl
  if !i3cUp s then s
  else { s with
    i3c := { s.i3c with ptr := (s.i3c.ptr + n) % 2 ^ 32 }
    out := s.out ++ [.sideband ((List.range n).map fun i => sideByte s ((s.i3c.ptr + i) % 2 ^ 32))] }

/-- A read or write that a host port brings. -/
def portAccess (space : RegSpace) (op : AccessOp) (a : Access) (off : Nat) (si : State) : Outc :=
  let s := bulkServed si (13 + a.port)
  .next (if !accUp si a then si
    else match op, space with
      | .write, .bar0 => bar0Write s a off
      | .write, .bar2 => msixWrite s a off
      | .write, .vsec => vsecWrite s a off
      | .write, .function => functionWrite s a off
      | .read, .bar0 => bar0Read s a off
      | .read, .bar2 => answer s a.port (BitVec.ofNat 64 (msixView s a.port (off / 8 * 8)))
      | .read, .vsec => answer s a.port (BitVec.ofNat 64 (vsecView s a.port off))
      | .read, .function => answer s a.port (BitVec.ofNat 64 (functionView s a.port off))
      | .write, .bar0Long r => bar0Split bar0Write a r (off + 8) (bar0Write s a off)
      | .read, .bar0Long r => bar0Split bar0Read a r (off + 8) (bar0Read s a off)
      | .poisoned, .window => windowPoisoned s a off
      | .poisoned, .outside => unsupported s a.port
      | .poisoned, _ => noteAer s a.port aerPoisoned
      | _, .outside => unsupported s a.port
      | .atomic, _ => unsupported s a.port
      | _, _ => s)

/-- REGISTER_WRITE (R10, R13, R42, R489, R503): an access to a register without a row of its own, or a read of any. A poisoned
write to BAR0 has its data discarded, and an AtomicOp to a BAR or a request outside every BAR ends with Unsupported Request;
neither changes any register that a tenant sees. -/
def execRegisterWrite (space : RegSpace) (op : AccessOp) (a : Access) (off : Nat) (s : State) : Outc :=
  match space with
  | .i3c n => .next (if op = .read then privateRead s n else s)
  | _ => portAccess space op a off s

end Sys2Proof.Machine
end

