-- ==== Sys2Proof/Machine/Astc.lean ====
section
/-! DEFINITION. Decoding a 2D block of the ASTC LDR profile to UNORM8 codes (chapter 7, Table 7.5: "the LDR profile of the
Khronos ASTC specification"). The manual names that specification and does not repeat it: what stands here is taken from
it (PRESUMED, log entry 114). -/

namespace Sys2Proof.Machine

/-- A quantisation range: whether its values carry a trit, a quint, and how many plain bits. -/
structure AstcRange where
  trit : Bool
  quint : Bool
  bits : Nat
  deriving DecidableEq, Repr

/-- The ranges in ascending size: 2, 3, 4, 5, 6, 8, 10, 12, 16, 20, 24, 32 for weights, and on to 256 for colours. -/
def astcRanges : List AstcRange :=
  [⟨false, false, 1⟩, ⟨true, false, 0⟩, ⟨false, false, 2⟩, ⟨false, true, 0⟩, ⟨true, false, 1⟩, ⟨false, false, 3⟩, ⟨false, true, 1⟩]
    ++ [⟨true, false, 2⟩, ⟨false, false, 4⟩, ⟨false, true, 2⟩, ⟨true, false, 3⟩, ⟨false, false, 5⟩, ⟨false, true, 3⟩, ⟨true, false, 4⟩]
    ++ [⟨false, false, 6⟩, ⟨false, true, 4⟩, ⟨true, false, 5⟩, ⟨false, false, 7⟩, ⟨false, true, 5⟩, ⟨true, false, 6⟩, ⟨false, false, 8⟩]

def astcRange (k : Nat) : AstcRange := astcRanges.getD k ⟨false, false, 1⟩

/-- Bits of a sequence of `n` values. -/
def AstcRange.size (r : AstcRange) (n : Nat) : Nat :=
  n * r.bits + (if r.trit then ceilDiv (8 * n) 5 else 0) + (if r.quint then ceilDiv (7 * n) 3 else 0)

/-- The five trits of a packed byte. -/
def astcTrits (t : Nat) : List Nat :=
  let (c, t3, t4) :=
    if bitsOf t 4 2 = 7 then (bitsOf t 7 5 * 4 + bitsOf t 1 0, 2, 2)
    else if bitsOf t 6 5 = 3 then (bitsOf t 4 0, bitsOf t 7 7, 2)
    else (bitsOf t 4 0, bitsOf t 6 5, bitsOf t 7 7)
  if bitsOf c 1 0 = 3 then
    [bitsOf c 3 3 * 2 + (if bitOf c 3 then 0 else bitsOf c 2 2), bitsOf c 4 4, 2, t3, t4]
  else if bitsOf c 3 2 = 3 then [bitsOf c 1 0, 2, 2, t3, t4]
  else [bitsOf c 1 1 * 2 + (if bitOf c 1 then 0 else bitsOf c 0 0), bitsOf c 3 2, bitsOf c 4 4, t3, t4]

/-- The three quints of seven packed bits. -/
def astcQuints (q : Nat) : List Nat :=
  if bitsOf q 2 1 = 3 ∧ bitsOf q 6 5 = 0 then
    [4, 4, bitsOf q 0 0 * 4 + (if bitOf q 0 then 0 else bitsOf q 4 4 * 2 + bitsOf q 3 3)]
  else
    let (q2, c) := if bitsOf q 2 1 = 3 then (4, bitsOf q 4 3 * 8 + (3 - bitsOf q 6 5) * 2 + bitsOf q 0 0)
      else (bitsOf q 6 5, bitsOf q 4 0)
    if bitsOf c 2 0 = 5 then [bitsOf c 4 3, 4, q2] else [bitsOf c 2 0, bitsOf c 4 3, q2]

/-- Bits gathered from places of a stream, the first the least significant: pairs of offset and width. -/
def astcGather (s : Nat) (ps : List (Nat × Nat)) : Nat :=
  ps.foldr (fun e n => (s >>> e.1) % 2 ^ e.2 + 2 ^ e.2 * n) 0

/-- A sequence of `n` values as pairs of digit and plain bits (integer sequence encoding); bits beyond it read as 0. -/
def AstcRange.read (r : AstcRange) (stream n : Nat) : List (Nat × Nat) :=
  let s := stream % 2 ^ r.size n
  let b := r.bits
  (List.range n).map fun i =>
    if r.trit then
      let w := s >>> (i / 5 * (5 * b + 8))
      let t := astcGather w [(b, 2), (2 * b + 2, 2), (3 * b + 4, 1), (4 * b + 5, 2), (5 * b + 7, 1)]
      ((astcTrits t).getD (i % 5) 0, (w >>> ([0, b + 2, 2 * b + 4, 3 * b + 5, 4 * b + 7].getD (i % 5) 0)) % 2 ^ b)
    else if r.quint then
      let w := s >>> (i / 3 * (3 * b + 7))
      let q := astcGather w [(b, 3), (2 * b + 3, 2), (3 * b + 5, 2)]
      ((astcQuints q).getD (i % 3) 0, (w >>> ([0, b + 3, 2 * b + 5].getD (i % 3) 0)) % 2 ^ b)
    else (0, (s >>> (i * b)) % 2 ^ b)

/-- `x` of `n` bits repeated downward to `w` bits. -/
def astcSpread (n w x : Nat) : Nat :=
  (List.range w).foldl (fun acc i => acc + b2n (bitOf x (n - 1 - (w - 1 - i) % n)) * 2 ^ i) 0

/-- An unquantised colour value, 0 to 255. -/
def AstcRange.color (r : AstcRange) (e : Nat × Nat) : Nat :=
  let v := e.2 / 2
  let n := r.bits
  if !r.trit && !r.quint then astcSpread n 8 e.2
  else
    let (b, c) :=
      if r.trit then
        [(0, 204), (278 * v, 93), (133 * v, 44), (65 * v, 22), (32 * v + v / 4, 11), (16 * v + v / 16, 5)].getD (n - 1) (0, 0)
      else [(0, 113), (268 * v, 54), (130 * v + v / 2, 26), (64 * v + v / 2, 13), (32 * v + v / 8, 6)].getD (n - 1) (0, 0)
    let a := if e.2 % 2 = 1 then 0x1FF else 0
    let t := Nat.xor (e.1 * c + b) a
    (a &&& 0x80) ||| (t >>> 2)

/-- An unquantised weight, 0 to 64. -/
def AstcRange.weight (r : AstcRange) (e : Nat × Nat) : Nat :=
  let n := r.bits
  let w :=
    if !r.trit && !r.quint then astcSpread n 6 e.2
    else if n = 0 then (if r.trit then [0, 32, 63] else [0, 16, 32, 47, 63]).getD e.1 0
    else
      let v := e.2 / 2
      let (b, c) := if r.trit then [(0, 50), (69 * v, 23), (33 * v, 11)].getD (n - 1) (0, 0)
        else [(0, 28), (66 * v, 13)].getD (n - 1) (0, 0)
      let a := if e.2 % 2 = 1 then 0x7F else 0
      let t := Nat.xor (e.1 * c + b) a
      (a &&& 0x20) ||| (t >>> 2)
  if 32 < w then w + 1 else w

/-- A block mode: the grid of weights, two planes, the range of the weights. -/
structure AstcMode where
  w : Nat
  h : Nat
  dual : Bool
  range : Nat
  deriving DecidableEq, Repr

/-- The block mode of bits [10:0] (2D), none where it is reserved. -/
def astcMode (m : Nat) : Option AstcMode :=
  let a := bitsOf m 6 5
  let b := bitsOf m 8 7
  let d := bitOf m 10
  let mk := fun (w h r : Nat) (d hi : Bool) =>
    (if r < 2 then none else some ⟨w, h, d, r - 2 + (if hi then 6 else 0)⟩ : Option AstcMode)
  let hi := bitOf m 9
  if m % 4 ≠ 0 then
    let r := m % 4 * 2 + bitsOf m 4 4
    match bitsOf m 3 2 with
    | 0 => mk (b + 4) (a + 2) r d hi
    | 1 => mk (b + 8) (a + 2) r d hi
    | 2 => mk (a + 2) (b + 8) r d hi
    | _ => if bitOf m 8 then mk (b % 2 + 2) (a + 2) r d hi else mk (a + 2) (b % 2 + 6) r d hi
  else
    let r := bitsOf m 3 2 * 2 + bitsOf m 4 4
    match b with
    | 0 => mk 12 (a + 2) r d hi
    | 1 => mk (a + 2) 12 r d hi
    | 2 => mk (a + 6) (bitsOf m 10 9 + 6) r false false
    | _ => if a = 0 then mk 6 10 r d hi else if a = 1 then mk 10 6 r d hi else none

/-- The hash of the partition pattern, in 32 bits. -/
def astcHash (x : Nat) : Nat :=
  let t := fun (v : Nat) => v % 2 ^ 32
  let p := Nat.xor x (x >>> 15)
  let p := t (p * 0xEEDE0891)
  let p := Nat.xor p (p >>> 5)
  let p := t (p + (p <<< 16))
  let p := Nat.xor p (p >>> 7)
  let p := Nat.xor p (p >>> 3)
  let p := Nat.xor p (t (p <<< 6))
  Nat.xor p (p >>> 17)

/-- The partition of the texel (x, y) of a block of `side` × `side` texels, for `n` partitions and pattern `seed`. -/
def astcPartition (seed x y n side : Nat) : Nat :=
  let k := if side * side < 31 then 2 else 1
  let r := astcHash (seed + (n - 1) * 1024)
  let s1 := if bitOf seed 0 then (if bitOf seed 1 then 4 else 5) else (if n = 3 then 6 else 5)
  let s2 := if bitOf seed 0 then (if n = 3 then 6 else 5) else (if bitOf seed 1 then 4 else 5)
  let sq := fun (i sh : Nat) => (let v := (r >>> (4 * i)) % 16; (v * v) >>> sh)
  let f := fun (i j o : Nat) => (sq i s1 * (k * x) + sq j s2 * (k * y) + (r >>> o)) % 64
  let a := f 0 1 14
  let b := f 2 3 10
  let c := if n < 3 then 0 else f 4 5 6
  let d := if n < 4 then 0 else f 6 7 2
  if n < 2 then 0
  else if b ≤ a ∧ c ≤ a ∧ d ≤ a then 0 else if c ≤ b ∧ d ≤ b then 1 else if d ≤ c then 2 else 3

/-- An endpoint pair before the clamp: R, G, B, A of each end. -/
abbrev AstcEnds := List Int × List Int

/-- Blue contraction. -/
def astcBlue (c : List Int) : List Int :=
  [(c.getD 0 0 + c.getD 2 0) / 2, (c.getD 1 0 + c.getD 2 0) / 2, c.getD 2 0, c.getD 3 0]

/-- A base and an offset from two values: bit 7 of the offset's value goes to the base. -/
def astcOffset (base off : Nat) : Int × Int :=
  let o : Int := bitsOf off 6 1
  (((base / 2 + off / 128 * 128 : Nat) : Int), if 32 ≤ o then o - 64 else o)

/-- The two ends of a colour endpoint mode, none for one of the HDR profile. -/
def astcEnds (mode : Nat) (v : List Nat) : Option AstcEnds :=
  let u := fun (i : Nat) => ((v.getD i 0 : Nat) : Int)
  let bo := fun (i : Nat) => astcOffset (v.getD (2 * i) 0) (v.getD (2 * i + 1) 0)
  let base := fun (i : Nat) => (bo i).1
  let top := fun (i : Nat) => (bo i).1 + (bo i).2
  let off := fun (i : Nat) => (bo i).2
  let scaled := fun (i : Nat) => u i * u 3 / 256
  let direct := fun (a0 a1 : Int) =>
    if u 0 + u 2 + u 4 ≤ u 1 + u 3 + u 5 then ([u 0, u 2, u 4, a0], [u 1, u 3, u 5, a1])
    else (astcBlue [u 1, u 3, u 5, a1], astcBlue [u 0, u 2, u 4, a0])
  let offset := fun (a0 a1 : Int) =>
    if 0 ≤ off 0 + off 1 + off 2 then ([base 0, base 1, base 2, a0], [top 0, top 1, top 2, a1])
    else (astcBlue [top 0, top 1, top 2, a1], astcBlue [base 0, base 1, base 2, a0])
  match mode with
  | 0 => some ([u 0, u 0, u 0, 255], [u 1, u 1, u 1, 255])
  | 1 =>
    let l := (v.getD 0 0 / 4 + v.getD 1 0 / 64 * 64 : Nat)
    let h := min 255 (l + v.getD 1 0 % 64)
    some ([l, l, l, 255], [h, h, h, 255])
  | 4 => some ([u 0, u 0, u 0, u 2], [u 1, u 1, u 1, u 3])
  | 5 => some ([base 0, base 0, base 0, base 1], [top 0, top 0, top 0, top 1])
  | 6 => some ([scaled 0, scaled 1, scaled 2, 255], [u 0, u 1, u 2, 255])
  | 8 => some (direct 255 255)
  | 9 => some (offset 255 255)
  | 10 => some ([scaled 0, scaled 1, scaled 2, u 4], [u 0, u 1, u 2, u 5])
  | 12 => some (direct (u 6) (u 7))
  | 13 => some (offset (base 3) (top 3))
  | _ => none

/-- The weight of one plane at a texel of a block of `side` × `side`, from the grid. -/
def astcInfill (m : AstcMode) (side x y : Nat) (at_ : Nat → Nat) : Nat :=
  let d := (1024 + side / 2) / (side - 1)
  let gs := (d * x * (m.w - 1) + 32) / 64
  let gt := (d * y * (m.h - 1) + 32) / 64
  let fs := gs % 16
  let ft := gt % 16
  let v := gs / 16 + gt / 16 * m.w
  let w11 := (fs * ft + 8) / 16
  let w10 := ft - w11
  let w01 := fs - w11
  let w00 := 16 + w11 - fs - ft
  (at_ v * w00 + at_ (v + 1) * w01 + at_ (v + m.w) * w10 + at_ (v + m.w + 1) * w11 + 8) / 16

/-- The error colour. -/
def astcError : List Nat := [255, 0, 255, 255]

/-- A void-extent block: one colour, of whose 16-bit channels the top bytes are taken; the error colour where it is
HDR or ill formed. -/
def astcVoid (b : Nat) : List Nat :=
  let f := fun (i : Nat) => bitsOf b (24 + 13 * i) (12 + 13 * i)
  let whole := (List.range 4).all fun i => f i == 8191
  if bitOf b 9 || bitsOf b 11 10 != 3 || !(whole || (decide (f 0 < f 1) && decide (f 2 < f 3))) then astcError
  else (List.range 4).map fun i => bitsOf b (79 + 16 * i) (72 + 16 * i)

/-- The colour endpoint modes of `n` partitions, and how many bits of them lie below the weights, of which `below` is
the first free bit. -/
def astcModes (b n below : Nat) : List Nat × Nat :=
  if n = 1 then ([bitsOf b 16 13], 0)
  else
    let low := bitsOf b 28 23
    if low % 4 = 0 then (List.replicate n (low / 4), 0)
    else
      let k := 3 * n - 4
      let e := low + 64 * bitsOf b (below - 1) (below - k)
      ((List.range n).map fun i => (b2n (bitOf e (2 + i)) + low % 4 - 1) * 4 + (e >>> (2 + n + 2 * i)) % 4, k)

/-- The UNORM8 components of texel (x, y) of a block of `side` × `side` texels. -/
def astcTexel (bytes : List Byte) (side x y : Nat) : List Nat :=
  let b := leNat (bytes.take 16)
  if bitsOf b 8 0 = 0x1FC then astcVoid b
  else match astcMode (bitsOf b 10 0) with
    | none => astcError
    | some m =>
      let n := bitsOf b 12 11 + 1
      let planes := if m.dual then 2 else 1
      let count := m.w * m.h * planes
      let wr := astcRange m.range
      let wbits := wr.size count
      let below := 128 - wbits
      let (modes, extra) := astcModes b n below
      let used := (if n = 1 then 17 else 29) + extra + (if m.dual then 2 else 0)
      let values := (modes.map fun k => (k / 4 + 1) * 2).sum
      let cbits := below - used
      let fits := (List.range 21).filter fun k => decide ((astcRange k).size values ≤ cbits)
      let cr := fits.getLast?.getD 0
      if side < m.w ∨ side < m.h ∨ 64 < count ∨ wbits < 24 ∨ 96 < wbits ∨ (n = 4 ∧ m.dual) ∨ 18 < values ∨ cr < 4 then astcError
      else
        let part := astcPartition (bitsOf b 22 13) x y n side
        let first := ((modes.take part).map fun k => (k / 4 + 1) * 2).sum
        let vs := (((astcRange cr).read (b >>> (if n = 1 then 17 else 29)) values).map (astcRange cr).color).drop first
        match astcEnds (modes.getD part 0) vs with
        | none => astcError
        | some (e0, e1) =>
          let rev := (List.range 128).foldl (fun acc i => acc + b2n (bitOf b (127 - i)) * 2 ^ i) 0
          let ws := (wr.read rev count).map wr.weight
          let plane := fun (p : Nat) => astcInfill m side x y fun v => ws.getD (v * planes + p) 0
          let ccs := bitsOf b (below - extra - 1) (below - extra - 2)
          (List.range 4).map fun ch =>
            let w := plane (if m.dual ∧ ch = ccs then 1 else 0)
            let c := fun (e : List Int) => (max 0 (min 255 (e.getD ch 0))).toNat * 256 + 128
            (c e0 * (64 - w) + c e1 * w + 32) / 64 / 256

end Sys2Proof.Machine
end

