-- ==== Sys2Proof/Machine/Tex.lean ====
section
/-! DEFINITION. tex and the sampling unit (R120, R230 to R235): descriptors, the place of a texel, residency, and the
filtered sample as a plan of weighted texels, made before any texel is read. -/

namespace Sys2Proof.Machine

/-- A texture descriptor (Table 7.8). -/
structure TexDesc where
  va : Nat
  w : Nat
  h : Nat
  depth : Nat
  levels : Nat
  fmt : Nat
  dim : Nat
  flags : Nat
  rsv : Nat
  pitch : Nat
  resMap : Nat
  deriving DecidableEq, Repr

def TexDesc.ofBytes (b : List Byte) : TexDesc :=
  ⟨fieldAt b 0 8, fieldAt b 8 2, fieldAt b 10 2, fieldAt b 12 2, fieldAt b 14 1, fieldAt b 15 1, fieldAt b 16 1,
    fieldAt b 17 1, fieldAt b 18 2, fieldAt b 20 4, fieldAt b 24 8⟩

/-- A sampler descriptor (Table 7.9). -/
structure SampDesc where
  filter : Nat
  address : Nat
  aniso : Nat
  compare : Nat
  minLod : Nat
  maxLod : Nat
  bias : Nat
  border : Nat
  rsv : Nat
  deriving DecidableEq, Repr

def SampDesc.ofBytes (b : List Byte) : SampDesc :=
  ⟨fieldAt b 0 1, fieldAt b 1 1, fieldAt b 2 1, fieldAt b 3 1, fieldAt b 4 2, fieldAt b 6 2, fieldAt b 8 2,
    fieldAt b 10 1, fieldAt b 11 5⟩

def TexDesc.linear (t : TexDesc) : Bool := bitOf t.flags 0
def TexDesc.sparse (t : TexDesc) : Bool := bitOf t.flags 1
/-- Bytes of an element. -/
def TexDesc.e (t : TexDesc) : Nat := fmtBytes t.fmt
def TexDesc.isDepth (t : TexDesc) : Bool := t.fmt == 0x20 || t.fmt == 0x21
def TexDesc.isAstc (t : TexDesc) : Bool := decide (0x40 ≤ t.fmt ∧ t.fmt ≤ 0x4B)
/-- Side of an element in texels: an ASTC block's, else 1. -/
def TexDesc.side (t : TexDesc) : Nat := if t.isAstc then [4, 5, 6, 8, 10, 12].getD ((t.fmt - 0x40) / 2) 1 else 1

def dimCube (d : Nat) : Bool := d == 3 || d == 6
def dimArray (d : Nat) : Bool := decide (4 ≤ d)
/-- Coordinate registers of a DIM apart from the array layer. -/
def dimCoords (d : Nat) : Nat := if d = 0 ∨ d = 4 then 1 else if d = 1 ∨ d = 5 then 2 else 3

/-- Layers of a texture that the array layer counts. -/
def TexDesc.layers (t : TexDesc) : Nat := if !dimArray t.dim then 1 else if dimCube t.dim then t.depth / 6 else t.depth

/-- R230 for a texture descriptor. -/
def TexDesc.ok (t : TexDesc) (dim mode : Nat) : Bool :=
  let big := max (max t.w t.h) (if t.dim = 2 then t.depth else 1)
  decide (1 ≤ t.w ∧ t.w ≤ 16384 ∧ 1 ≤ t.h ∧ t.h ≤ 16384 ∧ 1 ≤ t.depth ∧ t.depth ≤ 2048)
    && decide (1 ≤ t.levels ∧ t.levels ≤ 15 ∧ t.levels ≤ Nat.log2 big + 1)
    && t.e != 0 && (t.fmt != 0x30 || mode == 4) && t.dim == dim && decide (t.flags < 4) && t.rsv == 0
    && (!(t.dim == 0 || t.dim == 4) || t.h == 1) && (!dimCube t.dim || t.depth % 6 == 0)
    && (if t.linear then t.va % 256 == 0 && t.pitch % 256 == 0 && t.levels == 1 && t.depth == 1 && t.dim == 1
        else t.va % 65536 == 0 && t.pitch == 0)
    && (if t.sparse then t.resMap % 8 == 0 else t.resMap == 0)

def SampDesc.compares (d : SampDesc) : Bool := bitOf d.compare 3

/-- R230 for a sampler descriptor. -/
def SampDesc.ok (d : SampDesc) (t : TexDesc) : Bool :=
  decide (d.filter < 8) && decide (d.address < 64) && decide (1 ≤ d.aniso ∧ d.aniso ≤ 16) && decide (d.compare < 16)
    && decide (d.border < 3) && d.rsv == 0 && (!d.compares || t.isDepth)

/-- Extents of level `l` in texels, and in elements (R231; for ASTC, the blocks that cover the level). -/
def ext (v l : Nat) : Nat := if v / 2 ^ l = 0 then 1 else v / 2 ^ l
def TexDesc.tw (t : TexDesc) (l : Nat) : Nat := ext t.w l
def TexDesc.th (t : TexDesc) (l : Nat) : Nat := ext t.h l
def TexDesc.ew (t : TexDesc) (l : Nat) : Nat := ceilDiv (t.tw l) t.side
def TexDesc.eh (t : TexDesc) (l : Nat) : Nat := ceilDiv (t.th l) t.side
/-- dep, bw and bh. -/
def TexDesc.dep (t : TexDesc) (l : Nat) : Nat := if t.dim = 2 then ext t.depth l else 1
def TexDesc.bw (t : TexDesc) : Nat := if t.e ≤ 2 then 256 else if t.e ≤ 8 then 128 else 64
def TexDesc.bh (t : TexDesc) : Nat := if t.e = 1 then 256 else if t.e ≤ 4 then 128 else 64
def TexDesc.nbx (t : TexDesc) (l : Nat) : Nat := ceilDiv (t.ew l) t.bw
def TexDesc.nby (t : TexDesc) (l : Nat) : Nat := ceilDiv (t.eh l) t.bh

/-- tail_first. -/
def TexDesc.tailFirst (t : TexDesc) : Nat :=
  (firstBelow t.levels fun l => !(decide (t.bw ≤ t.ew l) || decide (t.bh ≤ t.eh l))).getD t.levels

/-- level_bytes, tail_level_off and layer_bytes. -/
def TexDesc.levelBlocks (t : TexDesc) (l : Nat) : Nat := t.nbx l * t.nby l * t.dep l
def TexDesc.tailOff (t : TexDesc) (l : Nat) : Nat :=
  ((List.range l).drop t.tailFirst).foldl (fun o k => o + ceilDiv (t.ew k * t.e * t.eh k * t.dep k) 256 * 256) 0
def TexDesc.layerBytes (t : TexDesc) : Nat :=
  ((List.range t.tailFirst).map t.levelBlocks).sum * 65536 + ceilDiv (t.tailOff t.levels) 65536 * 65536

/-- A texel: layer (for cubes 6 × layer + face), level, place. -/
structure Texel where
  layer : Nat
  level : Nat
  x : Nat
  y : Nat
  z : Nat
  deriving DecidableEq, Repr

/-- Block index of an element in a non-tail level. -/
def TexDesc.blk (t : TexDesc) (p : Texel) : Nat :=
  (p.z * t.nby p.level + p.y / t.side / t.bh) * t.nbx p.level + p.x / t.side / t.bw

/-- element_addr (R231). -/
def TexDesc.addr (t : TexDesc) (p : Texel) : Nat :=
  let x := p.x / t.side
  let y := p.y / t.side
  if t.linear then t.va + y * t.pitch + x * t.e
  else
    let base := t.va + p.layer * t.layerBytes + ((List.range (min p.level t.tailFirst)).map t.levelBlocks).sum * 65536
    if t.tailFirst ≤ p.level then
      base + t.tailOff p.level + ((p.z * t.eh p.level + y) * t.ew p.level + x) * t.e
    else base + t.blk p * 65536 + (y % t.bh * t.bw + x % t.bw) * t.e

/-- Bytes of one layer's residency map, padded (R232). -/
def TexDesc.mapBytes (t : TexDesc) : Nat :=
  let n := ((List.range t.tailFirst).map fun l => ceilDiv (t.levelBlocks l) 8).sum + if t.tailFirst < t.levels then 1 else 0
  ceilDiv n 8 * 8

/-- The byte and bit of the residency map that tells of a texel (R232). -/
def TexDesc.resBit (t : TexDesc) (p : Texel) : Nat × Nat :=
  let base := t.resMap + p.layer * t.mapBytes
    + ((List.range (min p.level t.tailFirst)).map fun l => ceilDiv (t.levelBlocks l) 8).sum
  if t.tailFirst ≤ p.level then (base, 0) else (base + t.blk p / 8, t.blk p % 8)

/-- FP32 division, correctly rounded (IEEE 754). -/
def fDiv (a b : Nat) : Nat :=
  match Fmt.f32.decode a, Fmt.f32.decode b with
  | .nan, _ => Fmt.f32.nanCode
  | _, .nan => Fmt.f32.nanCode
  | .inf _, .inf _ => Fmt.f32.nanCode
  | .inf s, .fin t _ _ => Fmt.f32.ieee (.inf (s != t))
  | .fin s _ _, .inf t => Fmt.f32.signBit (s != t)
  | .fin s m e, .fin t n f =>
    if n = 0 then (if m = 0 then Fmt.f32.nanCode else Fmt.f32.ieee (.inf (s != t)))
    else Fmt.f32.roundFin .near .toInf (s != t) (m * 2 ^ 64 / n) (e - f - 64) (m * 2 ^ 64 % n != 0)

/-- log2, rounded to nearest even as R235 has all its arithmetic. -/
def fLog2 (a : Nat) : Nat :=
  match Fmt.f32.decode a with
  | .nan => Fmt.f32.nanCode
  | .inf s => if s then Fmt.f32.nanCode else Fmt.f32.infCode
  | .fin s m e =>
    if m = 0 then Fmt.f32.ieee (.inf true)
    else if s then Fmt.f32.nanCode
    else
      let l := Nat.log2 m
      let v : Int := ((l : Int) + e) * (2 ^ tp : Nat) + (2 * atanhFix (((m - 2 ^ l) * 2 ^ tp) / (m + 2 ^ l)) * 2 ^ tp / ln2Fix : Nat)
      if v = 0 then 0 else Fmt.f32.roundFin .near .toInf (decide (v < 0)) v.natAbs (-(tp : Int)) true

def fOfNat (n : Nat) : Nat := Fmt.f32.ieee (.fin false n 0)
/-- A signed 8.8 number as FP32. -/
def fOf88 (x : Nat) : Nat := Fmt.f32.ieee (.fin (decide (toSigned 16 x < 0)) (toSigned 16 x).natAbs (-8))
def fHalf : Nat := 0x3F000000
def fAbs (x : Nat) : Nat := x % 2 ^ 31
def fLess (a b : Nat) : Bool := (Fmt.f32.decode a).cmp (Fmt.f32.decode b) == some .lt
def fIsNum (x : Nat) : Bool := match Fmt.f32.decode x with
  | .fin _ _ _ => true
  | _ => false

/-- ⌊x × 2^k⌋ of a finite FP32 value. -/
def fFloor (k : Nat) (x : Nat) : Int :=
  match Fmt.f32.decode x with
  | .fin s m e =>
    match Num.integral .down (.fin s m (e + k)) with
    | .fin s' m' e' => Num.inUnits s' m' e' 0
    | _ => 0
  | _ => 0

/-- Nearest integer, ties to even, of a finite value; beyond the range of the clamp for an infinity. -/
def fRoundInt (x : Nat) : Int :=
  match Fmt.f32.decode x with
  | .fin s m e => match Num.integral .near (.fin s m e) with
    | .fin s' m' e' => Num.inUnits s' m' e' 0
    | _ => 0
  | .inf s => if s then -1 else 2 ^ 20
  | .nan => 0

/-- An integer texel coordinate on an axis of extent `n` by an ADDRESS code, none for the border (R235 step 1). -/
def mapCoord (mode n : Nat) (i : Int) : Option Nat :=
  match mode with
  | 0 => some (i % (n : Int)).toNat
  | 1 =>
    let m := (i % (2 * n : Int)).toNat
    some (if m < n then m else 2 * n - 1 - m)
  | 2 => some (min i.toNat (n - 1))
  | _ => if 0 ≤ i ∧ i < n then some i.toNat else none

/-- A point to sample at: face or layer index, and u, v, w as FP32. -/
structure TexPoint where
  layer : Nat
  u : Nat
  v : Nat
  w : Nat
  deriving DecidableEq, Repr

/-- What one filter application reads: a texel as it is, or weighted texels summed from +0. A texel that is none takes
the border colour. -/
inductive Tap where
  | near (t : Option Texel)
  | lin (ts : List (Option Texel × Nat))
  deriving DecidableEq, Repr

def Tap.texels : Tap → List Texel
  | .near t => t.toList
  | .lin ts => ts.filterMap Prod.fst

/-- A texel by integer coordinates through the ADDRESS modes; cubes clamp to the edge of their face. -/
def TexDesc.texel (t : TexDesc) (d : SampDesc) (layer l : Nat) (i j k : Int) : Option Texel :=
  let m := fun (a : Nat) => if dimCube t.dim then 2 else bitsOf d.address (2 * a + 1) (2 * a)
  match mapCoord (m 0) (t.tw l) i, mapCoord (m 1) (t.th l) j, mapCoord (m 2) (t.dep l) k with
  | some x, some y, some z => some ⟨layer, l, x, y, z⟩
  | _, _, _ => none

/-- The axes beyond u that a DIM has. -/
def TexDesc.axes (t : TexDesc) : Nat := if t.dim = 0 ∨ t.dim = 4 then 1 else if t.dim = 2 then 3 else 2

/-- A value of an axis that the texture lacks is texel 0 with no fraction. -/
def axisLin (has : Bool) (u extent : Nat) (off : Int) : Int × Nat :=
  if !has then (0, 0)
  else
    let f := fFloor 8 (fSub (fMul u (fOfNat extent)) fHalf)
    (f / 256 + off, (f % 256).toNat)
def axisNear (has : Bool) (u extent : Nat) (off : Int) : Int := if has then fFloor 0 (fMul u (fOfNat extent)) + off else 0

/-- One filter application at level `l` (R235 step 2). For a 3D texture the sum goes over the lower slice and then over
the upper one; an axis that the texture lacks has no second texel (log entry 23). -/
def TexDesc.tap (t : TexDesc) (d : SampDesc) (off : Int × Int × Int) (linear : Bool) (l : Nat) (p : TexPoint) : Tap :=
  let n := t.axes
  if !linear then
    .near (t.texel d p.layer l (axisNear true p.u (t.tw l) off.1) (axisNear (decide (2 ≤ n)) p.v (t.th l) off.2.1)
      (axisNear (n == 3) p.w (t.dep l) off.2.2))
  else
    let (i, a) := axisLin true p.u (t.tw l) off.1
    let (j, b) := axisLin (decide (2 ≤ n)) p.v (t.th l) off.2.1
    let (k, c) := axisLin (n == 3) p.w (t.dep l) off.2.2
    let wt := fun (dx dy dz : Nat) =>
      Fmt.f32.ieee (.fin false ((if dx = 1 then a else 256 - a) * (if dy = 1 then b else 256 - b) * (if dz = 1 then c else 256 - c)) (-24))
    let ys := if 2 ≤ n then [0, 1] else [0]
    let zs := if n = 3 then [0, 1] else [0]
    .lin (zs.flatMap fun dz => ys.flatMap fun dy => [0, 1].map fun dx =>
      (t.texel d p.layer l (i + (dx : Nat)) (j + (dy : Nat)) (k + (dz : Nat)), wt dx dy dz))

/-- A whole filtered sample: the taps of the one or two levels, the weight of the upper one, and 1 ÷ N. -/
structure TexPlan where
  lower : List Tap
  upper : List Tap
  f : Nat
  inv : Nat
  deriving DecidableEq, Repr

def TexPlan.texels (p : TexPlan) : List Texel := (p.lower ++ p.upper).flatMap Tap.texels

/-- A texel's components as FP32 (R235, R217); S8_UINT gives its code. -/
def TexDesc.decode (t : TexDesc) (p : Texel) (bytes : List Byte) : List Nat :=
  if t.isAstc then
    let c := astcTexel bytes t.side (p.x % t.side) (p.y % t.side)
    (List.range 4).map fun ch =>
      let v := c.getD ch 0
      if t.fmt % 2 = 1 ∧ ch < 3 then srgbToF32 v else unormToF32 8 v
  else if t.fmt = 0x30 then [(leNat bytes) % 256, 0, 0, fOne]
  else toColor t.fmt (leNat bytes)

/-- The border colour (R235 step 1): for a depth format in R alone. -/
def borderColor (t : TexDesc) (d : SampDesc) : List Nat :=
  let v := if d.border = 2 then fOne else 0
  if t.isDepth then [v, 0, 0, fOne] else [v, v, v, if d.border = 0 then 0 else fOne]

/-- A texel compared with the reference (R235 step 8). -/
def compareTexel (d : SampDesc) (ref : Nat) (c : List Nat) : List Nat :=
  if !d.compares then c
  else
    let r := if compareFn (d.compare % 8) ((Fmt.f32.decode ref).cmp (Fmt.f32.decode (c.getD 0 0))) then fOne else 0
    r :: c.drop 1

/-- One channel of a tap, of a level and of the sample, from the colours of the texels (steps 2, 6, 7). -/
def Tap.value (col : Option Texel → List Nat) (ch : Nat) : Tap → Nat
  | .near t => (col t).getD ch 0
  | .lin ts => ts.foldl (fun acc e => fAdd acc (fMul ((col e.1).getD ch 0) e.2)) 0
def levelValue (col : Option Texel → List Nat) (inv ch : Nat) (ts : List Tap) : Nat :=
  match ts with
  | [] => 0
  | [t] => t.value col ch
  | t :: r => fMul (r.foldl (fun acc x => fAdd acc (x.value col ch)) (t.value col ch)) inv
def TexPlan.value (p : TexPlan) (col : Option Texel → List Nat) (ch : Nat) : Nat :=
  let lo := levelValue col p.inv ch p.lower
  if p.upper = [] then lo
  else fAdd (fMul lo (fSub fOne p.f)) (fMul (levelValue col p.inv ch p.upper) p.f)

/-- Cube face selection (Vulkan): face, and which of the direction's components are sc, tc and rc with their signs. -/
def cubeFace (x y z : Nat) : Nat × (Nat × Bool) × (Nat × Bool) × (Nat × Bool) :=
  let neg := fun (v : Nat) => bitOf v 31
  if !fLess (fAbs z) (fAbs y) ∧ !fLess (fAbs z) (fAbs x) then
    if neg z then (5, (0, true), (1, true), (2, true)) else (4, (0, false), (1, true), (2, false))
  else if !fLess (fAbs y) (fAbs x) then
    if neg y then (3, (0, false), (2, true), (1, true)) else (2, (0, false), (2, false), (1, false))
  else if neg x then (1, (2, false), (1, true), (0, true)) else (0, (2, true), (1, true), (0, false))

def signed (l : List Nat) (e : Nat × Bool) : Nat :=
  let v := l.getD e.1 0
  if e.2 then (v + 2 ^ 31) % 2 ^ 32 else v

/-- Face, face coordinates, and the derivatives of the face coordinates (Vulkan): direction, and its derivatives. -/
def cubePoint (dir : List Nat) : Nat × Nat × Nat :=
  let (face, sc, tc, rc) := cubeFace (dir.getD 0 0) (dir.getD 1 0) (dir.getD 2 0)
  let co := fun (a : Nat × Bool) => fAdd (fMul fHalf (fDiv (signed dir a) (signed dir rc))) fHalf
  (face, co sc, co tc)
def cubeDeriv (dir d : List Nat) : Nat × Nat :=
  let (_, sc, tc, rc) := cubeFace (dir.getD 0 0) (dir.getD 1 0) (dir.getD 2 0)
  let r := signed dir rc
  let co := fun (a : Nat × Bool) =>
    fMul fHalf (fDiv (fSub (fMul r (signed d a)) (fMul (signed dir a) (signed d rc))) (fMul r r))
  (co sc, co tc)

/-- Length of a vector of FP32 components. -/
def fLength (l : List Nat) : Nat := f32Sqrt (l.foldl (fun acc x => fAdd acc (fMul x x)) 0)

/-- What a lane brings: coordinates, array layer, derivatives of the coordinates along x and y, explicit LOD or bias,
the compare reference. -/
structure TexLane where
  coords : List Nat
  layer : Nat
  dx : List Nat
  dy : List Nat
  lod : Nat
  ref : Nat
  deriving DecidableEq, Repr

/-- Derivatives in the coordinates that the texture is addressed by: per axis, normalised. -/
def TexDesc.derivs (t : TexDesc) (x : TexLane) (d : List Nat) : List Nat :=
  if dimCube t.dim then (let (a, b) := cubeDeriv x.coords d; [a, b]) else d
/-- The same in texels of level 0: of s, and of t where the texture has that axis (R235 step 3). -/
def TexDesc.texels0 (t : TexDesc) (d : List Nat) : List Nat :=
  [fMul (d.getD 0 0) (fOfNat t.w), fMul (d.getD 1 0) (fOfNat t.h)].take d.length

/-- N, λ before the clamp, λ, and the derivative along the axis of major (steps 3 and 4). -/
structure TexLod where
  n : Nat
  raw : Nat
  lod : Nat
  axis : List Nat
  deriving DecidableEq, Repr

/-- The level of detail of a lane (R235, steps 3 and 4). With an explicit one there are no derivatives, and N is 1 (DESIGN CHOICE,
log entry 145). -/
def TexDesc.lodOf (t : TexDesc) (d : SampDesc) (mode : Nat) (x : TexLane) : TexLod :=
  let clamp := fun (v : Nat) =>
    let lo := Fmt.f32.arith .max 0 v (fOf88 d.minLod) 0
    if (Fmt.f32.decode v).isNan then v else Fmt.f32.arith .min 0 lo (fOf88 d.maxLod) 0
  if mode = 2 then
    let v := fAdd x.lod (fOf88 d.bias)
    ⟨1, v, clamp v, []⟩
  else
    let dx := (t.derivs x x.dx).take 2
    let dy := (t.derivs x x.dy).take 2
    let rx := fLength (t.texels0 dx)
    let ry := fLength (t.texels0 dy)
    let xMajor := !fLess rx ry
    let major := if xMajor then rx else ry
    let minor := if xMajor then ry else rx
    let q : Nat := match Fmt.f32.decode (fDiv major minor) with
      | .fin s m e => match Num.integral .up (.fin s m e) with
        | .fin s' m' e' => (Num.inUnits s' m' e' 0).toNat
        | _ => 1
      | _ => 16
    let n := if (Fmt.f32.decode minor).isZero then d.aniso else max 1 (min d.aniso q)
    let v := fAdd (fAdd (fLog2 (fDiv major (fOfNat n))) (fOf88 d.bias)) (if mode = 1 then x.lod else 0)
    ⟨n, v, clamp v, if xMajor then dx else dy⟩

/-- The point of a lane, moved along the axis of major by `tk` of its derivative. -/
def TexDesc.pointAt (t : TexDesc) (x : TexLane) (axis : List Nat) (tk : Nat) : TexPoint :=
  let lay := (max 0 (min (fRoundInt x.layer) ((t.layers : Int) - 1))).toNat
  let (face, u, v, w) := if dimCube t.dim then (let (f, a, b) := cubePoint x.coords; (f, a, b, 0))
    else (0, x.coords.getD 0 0, x.coords.getD 1 0, x.coords.getD 2 0)
  let mv := fun (c i : Nat) => if tk = 0 then c else fAdd c (fMul tk (axis.getD i 0))
  ⟨if dimCube t.dim then 6 * lay + face else lay, mv u 0, mv v 1, mv w 2⟩

/-- The points of the anisotropic taps (step 7). -/
def TexDesc.points (t : TexDesc) (x : TexLane) (g : TexLod) : List TexPoint :=
  if g.n ≤ 1 then [t.pointAt x [] 0]
  else (List.range g.n).map fun k =>
    t.pointAt x g.axis (fSub (fDiv (fAdd (fOfNat k) fHalf) (fOfNat g.n)) fHalf)

/-- Coordinates and level of detail are numbers: else the lane's result is open (Config.texFar). -/
def TexDesc.defined (t : TexDesc) (x : TexLane) (g : TexLod) : Bool :=
  (t.points x g).all (fun p => fIsNum p.u && fIsNum p.v && fIsNum p.w) && !(Fmt.f32.decode g.lod).isNan
    && !(Fmt.f32.decode x.layer).isNan

/-- The plan of a filtered sample (steps 5 to 7). -/
def TexDesc.plan (t : TexDesc) (d : SampDesc) (off : Int × Int × Int) (x : TexLane) (g : TexLod) : TexPlan :=
  let ps := t.points x g
  let inv := fDiv fOne (fOfNat g.n)
  if !fLess 0 g.lod then ⟨ps.map (t.tap d off (bitOf d.filter 0) 0), [], 0, inv⟩
  else
    let q := fFloor 8 g.lod
    let l := min (q / 256).toNat (t.levels - 1)
    let at_ := fun (k : Nat) => ps.map (t.tap d off (bitOf d.filter 1) k)
    if bitOf d.filter 2 then
      ⟨at_ l, at_ (min ((q / 256).toNat + 1) (t.levels - 1)), Fmt.f32.ieee (.fin false (q % 256).toNat (-8)), inv⟩
    else ⟨at_ l, [], 0, inv⟩

/-- The four texels of gather4 in their order (R120), at level 0. -/
def TexDesc.gather (t : TexDesc) (d : SampDesc) (off : Int × Int × Int) (x : TexLane) : List (Option Texel) :=
  let p := t.pointAt x [] 0
  let (i, _) := axisLin true p.u (t.tw 0) off.1
  let has := decide (2 ≤ t.axes)
  let (j, _) := axisLin has p.v (t.th 0) off.2.1
  let k := axisNear (t.axes == 3) p.w (t.dep 0) off.2.2
  let j1 := if has then j + 1 else j
  [(i, j1), (i + 1, j1), (i + 1, j), (i, j)].map fun e => t.texel d p.layer 0 e.1 e.2 k

/-- The texel of a fetch, none when it lies outside (R120): coordinates, layer and level as u32. -/
def TexDesc.fetch (t : TexDesc) (off : Int × Int × Int) (c : List Nat) (layer l : Nat) : Option Texel :=
  let o := [off.1, off.2.1, off.2.2]
  let at_ := fun (i : Nat) => (c.getD i 0 : Int) + (if i < dimCoords t.dim then o.getD i 0 else 0)
  let inside := fun (v : Int) (n : Nat) => decide (0 ≤ v ∧ v < n)
  let zMax := if dimCube t.dim then 6 else t.dep l
  if t.levels ≤ l ∨ t.layers ≤ layer then none
  else if inside (at_ 0) (t.tw l) && inside (at_ 1) (t.th l) && inside (at_ 2) zMax then
    if dimCube t.dim then some ⟨6 * layer + (at_ 2).toNat, l, (at_ 0).toNat, (at_ 1).toNat, 0⟩
    else some ⟨layer, l, (at_ 0).toNat, (at_ 1).toNat, (at_ 2).toNat⟩
  else none

/-- Whether every texel of a footprint is resident (R233): the bits are read through the page tables. -/
def residentAll (s : State) (c : Nat) (t : TexDesc) : List Texel → Except AccFault (Bool × State)
  | [] => .ok (true, s)
  | p :: r =>
    if !t.sparse || t.linear then .ok (true, s)
    else
      let (a, b) := t.resBit p
      match vread s c a 1 with
      | .error f => .error f
      | .ok (bs, s1) => match residentAll s1 c t r with
        | .error f => .error f
        | .ok (ok, s2) => .ok (bitOf (leNat bs) b && ok, s2)

/-- The texels of a footprint read and decoded, past the core's L1: R81 speaks of loads only (DESIGN CHOICE, log entry 143). -/
def readTexels (s : State) (c : Nat) (t : TexDesc) : List Texel → Except AccFault (List (Texel × List Nat) × State)
  | [] => .ok ([], s)
  | p :: r =>
    match vread s c (t.addr p) t.e with
    | .error f => .error f
    | .ok (bs, s1) => match readTexels s1 c t r with
      | .error f => .error f
      | .ok (cs, s2) => .ok ((p, t.decode p bs) :: cs, s2)

/-- What a lane gets: the words for its destination registers, whether the footprint was resident, and whether the
lane was answered with 0 under R233. -/
structure TexOut where
  words : List Nat
  res : Bool
  missed : Bool
  deriving DecidableEq, Repr

/-- The channels of a CMASK in order. -/
def maskChans (m : Nat) : List Nat := (List.range 4).filter (bitOf m)

/-- A lane's footprint read and its result formed by `f` from the colours; 0 everywhere when it is not resident. -/
def sampleTexels (s : State) (c : Nat) (t : TexDesc) (border : List Nat) (tx : List Texel) (n : Nat)
    (f : (Option Texel → List Nat) → List Nat) : Except AccFault (TexOut × State) :=
  match residentAll s c t tx with
  | .error e => .error e
  | .ok (false, s1) => .ok (⟨List.replicate n 0, false, true⟩, s1)
  | .ok (true, s1) => match readTexels s1 c t tx with
    | .error e => .error e
    | .ok (cs, s2) =>
      let col := fun (p : Option Texel) => match p with
        | none => border
        | some q => ((cs.find? fun e => e.1 == q).map Prod.snd).getD []
      .ok (⟨f col, true, false⟩, s2)

/-- The lane's words for an open result. -/
def texOpen (words : List Word) (chans : List Nat) : TexOut :=
  ⟨chans.map fun ch => canonF32 (Config.texFar ch words).toNat, (Config.texFar 4 words).getLsbD 0, false⟩

/-- The registers of a tex: coordinates, level of a fetch, extra, destination. -/
def texNCoord (e : EncS) : Nat :=
  dimCoords e.dim.toNat + b2n (dimArray e.dim.toNat) + b2n (e.mode == 4)
def texNExtra (e : EncS) (cmp : Bool) : Nat :=
  (if e.mode = 1 ∨ e.mode = 2 then 1 else if e.mode = 3 then 2 * dimCoords e.dim.toNat else 0) + b2n (cmp && e.mode != 4)
def texNDst (e : EncS) : Nat :=
  if e.mode = 5 then 4 else (maskChans e.cmask.toNat).length

/-- The encoding of a tex (Table 3.13, R120). -/
def texOk (e : EncS) (p : Prog) : Bool :=
  !e.h.rsv48 && decide (e.dim.toNat ≤ 6) && decide (e.mode.toNat ≤ 6) && e.cmask != 0 && (e.res || e.rp == 0)
    && decide (e.desc.toNat < 64) && (!e.h.long || e.ext.toNat / 2 ^ 12 == 0)
    && (e.mode != 4 || e.extra == 0) && (e.mode != 5 || (maskChans e.cmask.toNat).length == 1)
    && (e.mode != 6 || e.cmask == 3) && (!(e.mode == 0 || e.mode == 1 || e.mode == 6) || p.derivs)

def texOffsets (e : EncS) : Int × Int × Int :=
  if e.h.long then (toSigned 4 e.ext.toNat, toSigned 4 (e.ext.toNat / 16), toSigned 4 (e.ext.toNat / 256)) else (0, 0, 0)

/-- What a lane brings to a tex: derivatives come from its quad in the implicit modes, from EXTRA for gradients. -/
def texLane (x : Group) (e : EncS) (l : Nat) : TexLane :=
  let n := dimCoords e.dim.toNat
  let reg := fun (r l : Nat) => (x.vget r l).toNat
  let cs := (List.range n).map fun i => reg (e.coord.toNat + i) l
  let q := l / 4 * 4
  let diff := fun (b : Nat) => (List.range n).map fun i => fSub (reg (e.coord.toNat + i) (q + b)) (reg (e.coord.toNat + i) q)
  let grad := fun (o : Nat) => (List.range n).map fun i => reg (e.extra.toNat + o + i) l
  let own := texNExtra e false
  ⟨cs, if dimArray e.dim.toNat then reg (e.coord.toNat + n) l else 0,
    if e.mode = 3 then grad 0 else diff 1, if e.mode = 3 then grad n else diff 2,
    if own = 1 then reg e.extra.toNat l else 0, reg (e.extra.toNat + own) l⟩

/-- One lane of a tex. -/
def texOne (s : State) (x : Group) (e : EncS) (t : TexDesc) (d : SampDesc) (l : Nat) : Except AccFault (TexOut × State) :=
  let off := texOffsets e
  let chans := maskChans e.cmask.toNat
  let n := texNDst e
  let cs := x.ctx
  let words := (List.range (texNCoord e)).map (fun i => x.vget (e.coord.toNat + i) l)
    ++ (List.range (texNExtra e d.compares)).map fun i => x.vget (e.extra.toNat + i) l
  let v := texLane x e l
  let cmp := fun (col : Option Texel → List Nat) (p : Option Texel) => compareTexel d v.ref (col p)
  let border := borderColor t d
  if e.mode = 4 then
    let k := dimCoords e.dim.toNat
    match t.fetch off v.coords (if dimArray t.dim then v.layer else 0)
        (x.vget (e.coord.toNat + k + b2n (dimArray t.dim)) l).toNat with
    | none => .ok (⟨List.replicate n 0, true, false⟩, s)
    | some p => sampleTexels s cs t border [p] n fun col => chans.map ((col (some p)).getD · 0)
  else if e.mode = 5 then
    if !t.defined v ⟨1, 0, 0, []⟩ then .ok (texOpen words (List.range 4), s)
    else
      let ps := t.gather d off v
      sampleTexels s cs t border (ps.filterMap id) n fun col => ps.map fun p => (cmp col p).getD (chans.headD 0) 0
  else
    let g := t.lodOf d e.mode.toNat v
    if e.mode = 6 then
      if (Fmt.f32.decode g.raw).isNan then .ok (texOpen words chans, s) else .ok (⟨[g.raw, g.lod], true, false⟩, s)
    else if !t.defined v g then .ok (texOpen words chans, s)
    else
      let p := t.plan d off v g
      sampleTexels s cs t border p.texels n fun col => chans.map (p.value (cmp col))

/-- The lanes of a tex in ascending order. -/
def texLanes (s : State) (x : Group) (e : EncS) (t : TexDesc) (d : SampDesc) :
    List Nat → Except AccFault (List (Nat × TexOut) × State)
  | [] => .ok ([], s)
  | l :: r =>
    match texOne s x e t d l with
    | .error f => .error f
    | .ok (o, s1) => match texLanes s1 x e t d r with
      | .error f => .error f
      | .ok (os, s2) => .ok ((l, o) :: os, s2)

def dBadDescriptor : Nat := 0x14
def SampDesc.none : SampDesc := ⟨0, 0, 1, 0, 0, 0, 0, 0, 0⟩

/-- The descriptors that DESC names, checked (R230); a fetch ignores the sampler. -/
def texDescs (s : State) (c : Nat) (e : EncS) (desc : Nat) : Except AccFault (TexDesc × SampDesc × State) :=
  let x := s.ctx c
  let ti := desc % 2 ^ 20
  let si := desc / 2 ^ 20 % 2 ^ 12
  let bad : AccFault := illegalFault dBadDescriptor
  if x.texCount ≤ ti ∨ (e.mode ≠ 4 ∧ x.sampCount ≤ si) then .error bad
  else match vread s c (x.texVa + 32 * ti) 32 with
    | .error f => .error f
    | .ok (tb, s1) =>
      let t := TexDesc.ofBytes tb
      if e.mode = 4 then (if t.ok e.dim.toNat 4 then .ok (t, SampDesc.none, s1) else .error bad)
      else match vread s1 c (x.sampVa + 16 * si) 16 with
        | .error f => .error f
        | .ok (sb, s2) =>
          let d := SampDesc.ofBytes sb
          if t.ok e.dim.toNat e.mode.toNat && d.ok t then .ok (t, d, s2) else .error bad

/-- The group after a tex: registers and, with RES, its predicate. -/
def texWrite (x : Group) (e : EncS) (m : Mask) (os : List (Nat × TexOut)) : Group :=
  let y := (List.range (texNDst e)).foldl (fun y i => y.vset (e.dst.toNat + i) m fun l =>
    BitVec.ofNat 32 ((tget os l ⟨[], false, false⟩).words.getD i 0)) x
  if e.res then y.pset e.rp.toNat m (maskOf fun l => (tget os l ⟨[], false, false⟩).res) else y

/-- TEX (R120, R230 to R235). It waits for the unacknowledged stores of its lanes: R70 and R73 ask it for those to what it
reads, and a store and a load of other addresses may take effect in either order (DESIGN CHOICE, log entry 107). -/
def execTex (g : GroupAt) (e : EncS) (s : State) : Host.Outcome State Fault Refusal :=
  let regs := fun (r : BitVec 8) (n : Nat) => (List.range n).map (r.toNat + ·)
  let dst := regs e.dst (texNDst e)
  let rd := regs e.coord (texNCoord e) ++ regs e.extra (texNExtra e false)
  done (stepMem s g e.h e.code (texOk e (groupProg s g)) (rd ++ dst) rd fun s1 x m =>
    if m = 0 then finishMem s1 g [] m x (Head.size e.h)
    else if pendAny (s1.core g.core) x.gid m then s1
    else match texDescs s1 x.ctx e (x.uget e.desc.toNat).toNat with
      | .error f => groupFault s1 g f
      | .ok (t, d, s2) =>
        let rd2 := regs e.extra (texNExtra e d.compares)
        if texNExtra e d.compares = 0 ∧ e.extra ≠ 0 then groupFault s2 g (illegalFault dUndefined)
        else if !(rd2.all fun r => decide (r < (groupProg s2 g).regs)) then groupFault s2 g (illegalFault dRegRange)
        else if badRead (s2.core g.core) g.slot rd2 m then groupFault s2 g ⟨cEcc, eRegister, 0, false, 0, 0⟩
        else match texLanes s2 x e t d (lanesOf m) with
          | .error f => groupFault s2 g f
          | .ok (os, s3) =>
            let s4 := if e.mode = 6 then s3 else bumpBy (bumpBy s3 (uRaster g.core) 0x130 os.length) (uRaster g.core) 0x138
              (os.filter fun o => o.2.missed).length
            finishMem s4 g dst m (texWrite (s4.group g) e m os) (Head.size e.h))

end Sys2Proof.Machine
end

