-- ==== Sys2Proof/Machine/TileInstr.lean ====
section
/-! DEFINITION. tld and tst, the instructions of a fragment program on its tile (R216 to R219, R221). -/

namespace Sys2Proof.Machine

/-- Sources that take a B operand: a sample index or an attribute slot. -/
def tileTakesB (src : Nat) : Bool := decide (src ≤ 9) || (decide (0xB ≤ src) && decide (src ≤ 0xD))

/-- Components of a source: four for colours, position and attributes (a missing channel reads as in R235). -/
def tileComps (src : Nat) : Nat := if src = 8 ∨ src = 9 ∨ src = 0xE then 1 else 4

/-- TYPE of a source: u32 for stencil and coverage, else f32. -/
def tileType (src : Nat) (t : BitVec 4) : Bool := if src = 9 ∨ src = 0xE then t == 0 else t == 4

def shTld (e : EncR) : RShape := ⟨.none, if tileTakesB e.mod.toNat then .reg false else .none, .none, .reg false⟩

def tldOk (e : EncR) (p : Prog) : Bool :=
  p.kind == 3 && e.mod != 0xF && tileType e.mod.toNat e.type && !e.dk

/-- The RAW bit of a tst, and its source, which a colour's RAW needs for the sample. -/
def tstRaw (e : EncR) : Bool := e.c.getLsbD 0
def shTst (e : EncR) : RShape := ⟨.reg false, if tstRaw e then .reg false else .none, .lit, .reg false⟩

/-- A tst's encoding (R218): a MOD of 0x9 to 0xD names no source and is an undefined encoding, not a missing attachment (DESIGN
CHOICE, log entry 146). -/
def tstOk (e : EncR) (p : Prog) : Bool :=
  let src := e.mod.toNat
  p.kind == 3 && (decide (src ≤ 8) || src == 0xE) && tileType src e.type && !e.dk && e.dst == 0 && decide (e.c.toNat < 2)
    && (decide (src < 8) || !tstRaw e) && (tileComps src == 1 || e.ka != 2)

/-- The registers that a tst's A source names. -/
def tstRegs (e : EncR) : List Nat := (List.range (tileComps e.mod.toNat)).map (e.a.toNat + ·)

/-- The render tile that a group works for. -/
def tileOf (s : State) (g : GroupAt) : Option (RasterRun × RenderPass) :=
  match (s.core g.core).raster with
  | none => none
  | some run => (tget? s.renders run.cmd).map fun r => (run, r)

/-- The attachment of a source. -/
def RenderPass.attachAt (r : RenderPass) (src : Nat) : Option (Nat × Attach) :=
  if src < 8 then r.color src else if src = 8 then r.depth else r.stencil

/-- A lane names an attachment, sample or attribute slot that the pass does not have (R219). -/
def badTileRef (r : RenderPass) (draw src b : Nat) : Bool :=
  if src ≤ 9 then (r.attachAt src).isNone || decide (r.hdr.samples ≤ b)
  else if 0xB ≤ src ∧ src ≤ 0xD then decide ((r.draw draw).attrCount ≤ b)
  else false

/-- The checks and the wait of tld and tst before they act. `needs`: the instruction reads or writes samples in order
(R221). `idle`: the instruction has no effect in helper lanes (R216). The rest gets the state, the group, the tile and
the pass. -/
def stepTile (s : State) (g : GroupAt) (op : Nat) (e : EncR) (sh : RShape) (ok : Prog → Bool) (regs : List Nat) (isRef needs idle : Bool)
    (k : State → Group → RasterRun → RenderPass → State) : State :=
  inCycle s g fun s => match issueCheck s g (e.code 0xD op) with
  | .stall => s
  | .fault a s1 => groupFault s1 g a
  | .go s1 =>
    let x := s1.group g
    let p := groupProg s1 g
    let m := x.guard e.h
    match checkR sh (ok p) e p with
    | some d => groupFault s1 g (illegalFault d)
    | none =>
      if !(regs.all fun r => decide (r < p.regs)) then groupFault s1 g (illegalFault dRegRange)
      else if badRead (s1.core g.core) g.slot (readsR sh e) m then groupFault s1 g ⟨cEcc, eRegister, 0, false, 0, 0⟩
      else match tileOf s1 g with
        | none => s1
        | some (run, r) =>
          let draw := ((s1.core g.core).wgAt x.wg).idY
          let ls := lanesOf (if idle then m &&& ~~~x.helpers else m)
          if isRef && ls.any fun l => badTileRef r draw e.mod.toNat (valB sh e x l) then
            groupFault s1 g (illegalFault dBadAttachment)
          else if needs && ls.any fun l => match tget? x.frags l with
              | some f => earlierCovers run f.x f.y f.prim
              | none => false then s1
          else if needs && ls.any fun l => match tget? x.frags l with
              | some f => (r.attachAt e.mod.toNat).any fun pl => sampleBad (s1.core g.core) r pl f.x f.y
              | none => false then groupFault s1 g ⟨cEcc, eTile, 0, false, 0, 0⟩
          else k s1 x run r

/-- The words of one component of an attribute at the vertices of a primitive, behind the words of their positions. -/
def attrWords (p : Prim) (slot comp : Nat) : List Word := p.verts.flatten ++ p.attrs.map fun a => a.getD (4 * slot + comp) 0

/-- Component `i` of what a tld reads in a lane (R217). -/
def tldValue (c : Core) (run : RasterRun) (r : RenderPass) (f : FragLane) (src b i : Nat) : Nat :=
  let p := run.prims.getD f.prim ⟨0, 0, 0, true, [], []⟩
  let cx := 16 * f.x + 8
  let cy := 16 * f.y + 8
  if src ≤ 9 then
    match r.attachAt src with
    | none => 0
    | some pl =>
      let raw := c.getSample r.hdr pl f.x f.y b
      if src < 8 then (toColor pl.2.format raw).getD i 0 else if src = 8 then depthF32 pl.2.format raw else raw
  else if src = 0xA then
    let half := fun (v : Nat) => Fmt.f32.ieee (.fin false (2 * v + 1) (-1))
    match i with
    | 0 => half f.x
    | 1 => half f.y
    | 2 => primDepth r.hdr p cx cy
    | _ => canonF32 (Config.interp 2 p.verts.flatten cx cy).toNat
  else if src = 0xB then canonF32 (Config.interp 3 (attrWords p b i) cx cy).toNat
  else if src = 0xC then canonF32 (Config.interp 4 (attrWords p b i) cx cy).toNat
  else if src = 0xD then ((p.attrs.headD []).getD (4 * b + i) 0).toNat
  else f.cover

/-- TLD (R216, R217, R219, R221). -/
def execTld (g : GroupAt) (e : EncR) (s : State) : Host.Outcome State Fault Refusal :=
  let src := e.mod.toNat
  let sh := shTld e
  let dst := (List.range (tileComps src)).map (e.dst.toNat + ·)
  done (stepTile s g 0 e sh (tldOk e) dst true (decide (src ≤ 9)) false fun s1 x run r =>
    let c := s1.core g.core
    let m := x.guard e.h
    let y := (List.range (tileComps src)).foldl (fun y i => y.vset (e.dst.toNat + i) m fun l => match tget? x.frags l with
      | some f => BitVec.ofNat 32 (tldValue c run r f src (valB sh e x l) i)
      | none => 0) x
    let s2 := countIssue s1 g
    s2.setCore g.core ((healRegs (s2.core g.core) g.slot dst m).setGroup g.slot
      { y with pc := y.pc + Head.size e.h, promoted := false }))

/-- Component `i` of the A source of a tst in a lane. -/
def tstValue (e : EncR) (x : Group) (l i : Nat) : Word :=
  if e.ka = 0 then x.vget (e.a.toNat + i) l
  else if e.ka = 1 then x.uget (e.a.toNat + i)
  else BitVec.ofNat 32 (valA (shTst e) e x l)

/-- An output recorded for a lane: it replaces an earlier one of the same source, whatever sample either names and
whether either is RAW (R218). -/
def recordOut (o : FragOut) (l src : Nat) (raw : Bool) (smp : Nat) (vs : List Word) : FragOut :=
  let slot := if raw then 16 + src * 8 + smp else src
  let gone := fun (k : Nat) => decide (k / 1024 = l) &&
    (let t := k % 1024 / 8
     t == src || (decide (src < 8) && decide (16 + src * 8 ≤ t ∧ t < 24 + src * 8)))
  ((List.range vs.length).zip vs).foldl (fun t e => tset t (l * 1024 + slot * 8 + e.1) e.2) (tdrop o gone)

/-- TST (R216, R218, R219, R221): a later coverage output is the one that is ANDed. -/
def execTst (g : GroupAt) (e : EncR) (s : State) : Host.Outcome State Fault Refusal :=
  let src := e.mod.toNat
  let raw := tstRaw e
  let sh := shTst e
  let regs := if e.ka = 0 then tstRegs e else []
  let ok := fun p => tstOk e p && (e.ka != 1 || (tstRegs e).all fun r => decide (r < 64))
  done (stepTile s g 1 e sh ok regs (src != 0xE) raw true fun s1 x _ _ =>
    let o := (lanesOf (x.guard e.h &&& ~~~x.helpers)).foldl (fun o l =>
      recordOut o l src raw (if raw then valB sh e x l else 0) ((List.range (tileComps src)).map (tstValue e x l))) x.outs
    (countIssue s1 g).setGroup g { x with outs := o, pc := x.pc + Head.size e.h, promoted := false })

end Sys2Proof.Machine
end

