-- ==== Sys2Proof/Machine/Transcendental.lean ====
section
/-! DEFINITION. The transcendental class 0x4 (chapter 3, Transcendental; R106). -/

namespace Sys2Proof.Machine

/-- rcp, correctly rounded (R106). -/
def execRcp (g : GroupAt) (e : EncR) (s : State) : Host.Outcome State Fault Refusal := done (stepR opRcp g e s)

/-- rsqrt, correctly rounded (R106). -/
def execRsqrt (g : GroupAt) (e : EncR) (s : State) : Host.Outcome State Fault Refusal := done (stepR opRsqrt g e s)

/-- sqrt, correctly rounded (R106). -/
def execSqrt (g : GroupAt) (e : EncR) (s : State) : Host.Outcome State Fault Refusal := done (stepR opSqrt g e s)

/-- exp2, within 2 units in the last place (R106). -/
def execExp2 (g : GroupAt) (e : EncR) (s : State) : Host.Outcome State Fault Refusal := done (stepR opExp2 g e s)

/-- log2, within 2 units in the last place (R106). -/
def execLog2 (g : GroupAt) (e : EncR) (s : State) : Host.Outcome State Fault Refusal := done (stepR opLog2 g e s)

/-- sin, within 2 units in the last place for |A| ≤ 2^15 (R106). -/
def execSin (g : GroupAt) (e : EncR) (s : State) : Host.Outcome State Fault Refusal := done (stepR opSin g e s)

/-- cos, likewise (R106). -/
def execCos (g : GroupAt) (e : EncR) (s : State) : Host.Outcome State Fault Refusal := done (stepR opCos g e s)

end Sys2Proof.Machine
end

