-- ==== Sys2Proof/Machine/Dispatch.lean ====
section
/-! DEFINITION. exec: one arm for each constructor of Instr. -/

namespace Sys2Proof.Machine

/-- The effect of a command on everything but the queue of waiting commands. -/
def exec (i : Instr) (s : State) : Host.Outcome State Fault Refusal :=
  match i with
  | .nop g e => Sys2Proof.Machine.execNop g e s
  | .bra g e => Sys2Proof.Machine.execBra g e s
  | .brx g e => Sys2Proof.Machine.execBrx g e s
  | .join g e => Sys2Proof.Machine.execJoin g e s
  | .exit g e => Sys2Proof.Machine.execExit g e s
  | .call g e => Sys2Proof.Machine.execCall g e s
  | .ret g e => Sys2Proof.Machine.execRet g e s
  | .iadd g e => Sys2Proof.Machine.execIadd g e s
  | .isub g e => Sys2Proof.Machine.execIsub g e s
  | .imul g e => Sys2Proof.Machine.execImul g e s
  | .imulhi g e => Sys2Proof.Machine.execImulhi g e s
  | .imad g e => Sys2Proof.Machine.execImad g e s
  | .imin g e => Sys2Proof.Machine.execImin g e s
  | .imax g e => Sys2Proof.Machine.execImax g e s
  | .andL g e => Sys2Proof.Machine.execAnd g e s
  | .orL g e => Sys2Proof.Machine.execOr g e s
  | .xor g e => Sys2Proof.Machine.execXor g e s
  | .notL g e => Sys2Proof.Machine.execNot g e s
  | .shl g e => Sys2Proof.Machine.execShl g e s
  | .shr g e => Sys2Proof.Machine.execShr g e s
  | .popc g e => Sys2Proof.Machine.execPopc g e s
  | .clz g e => Sys2Proof.Machine.execClz g e s
  | .bfe g e => Sys2Proof.Machine.execBfe g e s
  | .bfi g e => Sys2Proof.Machine.execBfi g e s
  | .isetp g e => Sys2Proof.Machine.execIsetp g e s
  | .fadd g e => Sys2Proof.Machine.execFadd g e s
  | .fmul g e => Sys2Proof.Machine.execFmul g e s
  | .ffma g e => Sys2Proof.Machine.execFfma g e s
  | .fmin g e => Sys2Proof.Machine.execFmin g e s
  | .fmax g e => Sys2Proof.Machine.execFmax g e s
  | .fsetp g e => Sys2Proof.Machine.execFsetp g e s
  | .frnd g e => Sys2Proof.Machine.execFrnd g e s
  | .hadd2 g e => Sys2Proof.Machine.execHadd2 g e s
  | .hmul2 g e => Sys2Proof.Machine.execHmul2 g e s
  | .hfma2 g e => Sys2Proof.Machine.execHfma2 g e s
  | .hmin2 g e => Sys2Proof.Machine.execHmin2 g e s
  | .hmax2 g e => Sys2Proof.Machine.execHmax2 g e s
  | .rcp g e => Sys2Proof.Machine.execRcp g e s
  | .rsqrt g e => Sys2Proof.Machine.execRsqrt g e s
  | .sqrt g e => Sys2Proof.Machine.execSqrt g e s
  | .exp2 g e => Sys2Proof.Machine.execExp2 g e s
  | .log2 g e => Sys2Proof.Machine.execLog2 g e s
  | .sin g e => Sys2Proof.Machine.execSin g e s
  | .cos g e => Sys2Proof.Machine.execCos g e s
  | .cvt g e => Sys2Proof.Machine.execCvt g e s
  | .cvtPk2 g e => Sys2Proof.Machine.execCvtPk2 g e s
  | .cvtUnpk g e => Sys2Proof.Machine.execCvtUnpk g e s
  | .mov g e => Sys2Proof.Machine.execMov g e s
  | .sel g e => Sys2Proof.Machine.execSel g e s
  | .shfl g e => Sys2Proof.Machine.execShfl g e s
  | .vote g e => Sys2Proof.Machine.execVote g e s
  | .rdsr g e => Sys2Proof.Machine.execRdsr g e s
  | .plop g e => Sys2Proof.Machine.execPlop g e s
  | .ld g e env => Sys2Proof.Machine.execLd g e env s
  | .st g e => Sys2Proof.Machine.execSt g e s
  | .lds g e => Sys2Proof.Machine.execLds g e s
  | .sts g e => Sys2Proof.Machine.execSts g e s
  | .atoms g e => Sys2Proof.Machine.execAtoms g e s
  | .atom g e => Sys2Proof.Machine.execAtom g e s
  | .bar g e => Sys2Proof.Machine.execBar g e s
  | .membar g e => Sys2Proof.Machine.execMembar g e s
  | .fsig g e => Sys2Proof.Machine.execFsig g e s
  | .fwait g e => Sys2Proof.Machine.execFwait g e s
  | .fread g e => Sys2Proof.Machine.execFread g e s
  | .tex g e => Sys2Proof.Machine.execTex g e s
  | .tmma g e => Sys2Proof.Machine.execTmma g e s
  | .twld g e => Sys2Proof.Machine.execTwld g e s
  | .tcvt g e => Sys2Proof.Machine.execTcvt g e s
  | .tsync g e => Sys2Proof.Machine.execTsync g e s
  | .tld g e => Sys2Proof.Machine.execTld g e s
  | .tst g e => Sys2Proof.Machine.execTst g e s
  | .storeAck core k => Sys2Proof.Machine.execStoreAck core k s
  | .l1Fill core bank prefetch => Sys2Proof.Machine.execL1Fill core bank prefetch s
  | .tmmaComplete core k => Sys2Proof.Machine.execTmmaComplete core k s
  | .twldComplete core k => Sys2Proof.Machine.execTwldComplete core k s
  | .tcvtComplete core k => Sys2Proof.Machine.execTcvtComplete core k s
  | .barrierStranded core wg => Sys2Proof.Machine.execBarrierStranded core wg s
  | .asyncPromotion core slot => Sys2Proof.Machine.execAsyncPromotion core slot s
  | .bulkPromotion arbiter port => Sys2Proof.Machine.execBulkPromotion arbiter port s
  | .queueDoorbell a t j => Sys2Proof.Machine.execQueueDoorbell a t j s
  | .nopPacket p => Sys2Proof.Machine.execNopPacket p s
  | .dispatch p => Sys2Proof.Machine.execDispatch p s
  | .workgroupResident cmd => Sys2Proof.Machine.execWorkgroupResident cmd s
  | .cut p => Sys2Proof.Machine.execCut p s
  | .renderPass p => Sys2Proof.Machine.execRenderPass p s
  | .fenceSignal p => Sys2Proof.Machine.execFenceSignal p s
  | .fenceWait p => Sys2Proof.Machine.execFenceWait p s
  | .flush p => Sys2Proof.Machine.execFlush p s
  | .invalidate p => Sys2Proof.Machine.execInvalidate p s
  | .icacheInvalidate p => Sys2Proof.Machine.execIcacheInvalidate p s
  | .tlbInvalidate p => Sys2Proof.Machine.execTlbInvalidate p s
  | .ringmarkOpen p => Sys2Proof.Machine.execRingmarkOpen p s
  | .ringmarkClose p => Sys2Proof.Machine.execRingmarkClose p s
  | .copy p => Sys2Proof.Machine.execCopy p s
  | .fill p => Sys2Proof.Machine.execFill p s
  | .copyChunkDone cmd => Sys2Proof.Machine.execCopyChunkDone cmd s
  | .commandComplete cmd => Sys2Proof.Machine.execCommandComplete cmd s
  | .itemDigestsDone cmd => Sys2Proof.Machine.execItemDigestsDone cmd s
  | .digestChunkDone lane => Sys2Proof.Machine.execDigestChunkDone lane s
  | .ringmarkFoldDone cmd => Sys2Proof.Machine.execRingmarkFoldDone cmd s
  | .weightStreamStart cmd => Sys2Proof.Machine.execWeightStreamStart cmd s
  | .weightSegmentDone e => Sys2Proof.Machine.execWeightSegmentDone e s
  | .cutTileStart core cmd => Sys2Proof.Machine.execCutTileStart core cmd s
  | .tileEngineTransferDone core ahead => Sys2Proof.Machine.execTileEngineTransferDone core ahead s
  | .stageStart core => Sys2Proof.Machine.execStageStart core s
  | .combineTileStart core cmd => Sys2Proof.Machine.execCombineTileStart core cmd s
  | .cutComplete cmd => Sys2Proof.Machine.execCutComplete cmd s
  | .cutRestart cmd => Sys2Proof.Machine.execCutRestart cmd s
  | .drawBinning cmd => Sys2Proof.Machine.execDrawBinning cmd s
  | .binningResume cmd => Sys2Proof.Machine.execBinningResume cmd s
  | .attributePhaseStart cmd draw => Sys2Proof.Machine.execAttributePhaseStart cmd draw s
  | .tileShadingStart cmd => Sys2Proof.Machine.execTileShadingStart cmd s
  | .renderTileStart core cmd => Sys2Proof.Machine.execRenderTileStart core cmd s
  | .fragmentCommit core k => Sys2Proof.Machine.execFragmentCommit core k s
  | .renderTileEnd core => Sys2Proof.Machine.execRenderTileEnd core s
  | .renderPassComplete cmd => Sys2Proof.Machine.execRenderPassComplete cmd s
  | .fenceSignalRegister a f => Sys2Proof.Machine.execFenceSignalRegister a f s
  | .fencePoisonRegister a f => Sys2Proof.Machine.execFencePoisonRegister a f s
  | .fenceTimeout w => Sys2Proof.Machine.execFenceTimeout w s
  | .arm a t k => Sys2Proof.Machine.execArm a t k s
  | .disarm a t k => Sys2Proof.Machine.execDisarm a t k s
  | .bridgeUpdate b => Sys2Proof.Machine.execBridgeUpdate b s
  | .flumeDoorbell a t => Sys2Proof.Machine.execFlumeDoorbell a t s
  | .flumeReplyRead a t => Sys2Proof.Machine.execFlumeReplyRead a t s
  | .abort a t => Sys2Proof.Machine.execAbort a t s
  | .selfReset a t => Sys2Proof.Machine.execSelfReset a t s
  | .flumeNop r => Sys2Proof.Machine.execFlumeNop r s
  | .ping r => Sys2Proof.Machine.execPing r s
  | .eventMask r => Sys2Proof.Machine.execEventMask r s
  | .rollCallList r => Sys2Proof.Machine.execRollCallList r s
  | .tenantRebind r => Sys2Proof.Machine.execTenantRebind r s
  | .rollCallEnd r => Sys2Proof.Machine.execRollCallEnd r s
  | .tenantCreate r => Sys2Proof.Machine.execTenantCreate r s
  | .tenantReset r => Sys2Proof.Machine.execTenantReset r s
  | .tenantDestroy r => Sys2Proof.Machine.execTenantDestroy r s
  | .contextCreate r => Sys2Proof.Machine.execContextCreate r s
  | .contextReset r => Sys2Proof.Machine.execContextReset r s
  | .contextDestroy r => Sys2Proof.Machine.execContextDestroy r s
  | .contextSetHeaps r => Sys2Proof.Machine.execContextSetHeaps r s
  | .contextQuery r => Sys2Proof.Machine.execContextQuery r s
  | .contextTlbInvalidate r => Sys2Proof.Machine.execContextTlbInvalidate r s
  | .queueCreate r => Sys2Proof.Machine.execQueueCreate r s
  | .queueDestroy r => Sys2Proof.Machine.execQueueDestroy r s
  | .watchdogSet r => Sys2Proof.Machine.execWatchdogSet r s
  | .objectCreate r => Sys2Proof.Machine.execObjectCreate r s
  | .objectFree r => Sys2Proof.Machine.execObjectFree r s
  | .objectShare r => Sys2Proof.Machine.execObjectShare r s
  | .objectRevoke r => Sys2Proof.Machine.execObjectRevoke r s
  | .objectQuery r => Sys2Proof.Machine.execObjectQuery r s
  | .fenceCreate r => Sys2Proof.Machine.execFenceCreate r s
  | .fenceFree r => Sys2Proof.Machine.execFenceFree r s
  | .fenceShare r => Sys2Proof.Machine.execFenceShare r s
  | .fenceRevoke r => Sys2Proof.Machine.execFenceRevoke r s
  | .fenceBind r => Sys2Proof.Machine.execFenceBind r s
  | .fenceUnbind r => Sys2Proof.Machine.execFenceUnbind r s
  | .flumeFenceSignal r => Sys2Proof.Machine.execFlumeFenceSignal r s
  | .flumeFencePoison r => Sys2Proof.Machine.execFlumeFencePoison r s
  | .fenceQuery r => Sys2Proof.Machine.execFenceQuery r s
  | .bridgeCreate r => Sys2Proof.Machine.execBridgeCreate r s
  | .bridgeRemove r => Sys2Proof.Machine.execBridgeRemove r s
  | .outputGrant r => Sys2Proof.Machine.execOutputGrant r s
  | .outputRevoke r => Sys2Proof.Machine.execOutputRevoke r s
  | .layerGrant r => Sys2Proof.Machine.execLayerGrant r s
  | .layerRevoke r => Sys2Proof.Machine.execLayerRevoke r s
  | .displayQuery r => Sys2Proof.Machine.execDisplayQuery r s
  | .engineGrant r => Sys2Proof.Machine.execEngineGrant r s
  | .engineRelease r => Sys2Proof.Machine.execEngineRelease r s
  | .graphLoad r => Sys2Proof.Machine.execGraphLoad r s
  | .graphRun r => Sys2Proof.Machine.execGraphRun r s
  | .graphCancel r => Sys2Proof.Machine.execGraphCancel r s
  | .graphUnload r => Sys2Proof.Machine.execGraphUnload r s
  | .composeStart r => Sys2Proof.Machine.execComposeStart r s
  | .composeStop r => Sys2Proof.Machine.execComposeStop r s
  | .composeServiceFrame n torn => Sys2Proof.Machine.execComposeServiceFrame n torn s
  | .transfer r => Sys2Proof.Machine.execTransfer r s
  | .imageStage r => Sys2Proof.Machine.execImageStage r s
  | .imageQuery r => Sys2Proof.Machine.execImageQuery r s
  | .imageActivate r => Sys2Proof.Machine.execImageActivate r s
  | .imageCommit r => Sys2Proof.Machine.execImageCommit r s
  | .imageRollback r => Sys2Proof.Machine.execImageRollback r s
  | .envelopeSet r => Sys2Proof.Machine.execEnvelopeSet r s
  | .powerState r => Sys2Proof.Machine.execPowerState r s
  | .debugGrant r => Sys2Proof.Machine.execDebugGrant r s
  | .activationCopyDone  => Sys2Proof.Machine.execActivationCopyDone  s
  | .activationWaitExpired  => Sys2Proof.Machine.execActivationWaitExpired  s
  | .switchStart  => Sys2Proof.Machine.execSwitchStart  s
  | .switchEnd  => Sys2Proof.Machine.execSwitchEnd  s
  | .healthWindowEnd healthy => Sys2Proof.Machine.execHealthWindowEnd healthy s
  | .rangerRestart cause => Sys2Proof.Machine.execRangerRestart cause s
  | .rangerRestartDone  => Sys2Proof.Machine.execRangerRestartDone  s
  | .flipSubmit a t => Sys2Proof.Machine.execFlipSubmit a t s
  | .flipDeadline n late => Sys2Proof.Machine.execFlipDeadline n late s
  | .leadWindowOpen n due => Sys2Proof.Machine.execLeadWindowOpen n due s
  | .beaconCommit a n => Sys2Proof.Machine.execBeaconCommit a n s
  | .beaconPublish n => Sys2Proof.Machine.execBeaconPublish n s
  | .pixelUnderrun n x y => Sys2Proof.Machine.execPixelUnderrun n x y s
  | .keeperEntry n engineReset => Sys2Proof.Machine.execKeeperEntry n engineReset s
  | .keeperRelease n => Sys2Proof.Machine.execKeeperRelease n s
  | .outputEnable a n => Sys2Proof.Machine.execOutputEnable a n s
  | .outputDisable a n => Sys2Proof.Machine.execOutputDisable a n s
  | .modeset a n => Sys2Proof.Machine.execModeset a n s
  | .modesetDone n link => Sys2Proof.Machine.execModesetDone n link s
  | .writebackFrameDone n dropped => Sys2Proof.Machine.execWritebackFrameDone n dropped s
  | .hpdPlug n dpcd blocks => Sys2Proof.Machine.execHpdPlug n dpcd blocks s
  | .hpdUnplug n => Sys2Proof.Machine.execHpdUnplug n s
  | .irqHpd n retrain => Sys2Proof.Machine.execIrqHpd n retrain s
  | .go a n => Sys2Proof.Machine.execGo a n s
  | .auxDone n result data => Sys2Proof.Machine.execAuxDone n result data s
  | .chGo a c => Sys2Proof.Machine.execChGo a c s
  | .chipperBlock e => Sys2Proof.Machine.execChipperBlock e s
  | .chipperJobComplete c => Sys2Proof.Machine.execChipperJobComplete c s
  | .start a c => Sys2Proof.Machine.execStart a c s
  | .bzFeed a c => Sys2Proof.Machine.execBzFeed a c s
  | .bzFeedPart a c => Sys2Proof.Machine.execBzFeedPart a c s
  | .escalation core cmd => Sys2Proof.Machine.execEscalation core cmd s
  | .quantumExpiry core cmd => Sys2Proof.Machine.execQuantumExpiry core cmd s
  | .saveComplete core => Sys2Proof.Machine.execSaveComplete core s
  | .restoreComplete k => Sys2Proof.Machine.execRestoreComplete k s
  | .queueWatchdog q => Sys2Proof.Machine.execQueueWatchdog q s
  | .contextWatchdog cmd => Sys2Proof.Machine.execContextWatchdog cmd s
  | .contextResetDone c => Sys2Proof.Machine.execContextResetDone c s
  | .contextFreed c => Sys2Proof.Machine.execContextFreed c s
  | .queueFreed q => Sys2Proof.Machine.execQueueFreed q s
  | .tenantFreed t => Sys2Proof.Machine.execTenantFreed t s
  | .objectReclaim o => Sys2Proof.Machine.execObjectReclaim o s
  | .objectZeroDone o => Sys2Proof.Machine.execObjectZeroDone o s
  | .fenceReleased f => Sys2Proof.Machine.execFenceReleased f s
  | .linkDown p => Sys2Proof.Machine.execLinkDown p s
  | .linkUp p => Sys2Proof.Machine.execLinkUp p s
  | .rollCallTimeout p => Sys2Proof.Machine.execRollCallTimeout p s
  | .bind p => Sys2Proof.Machine.execBind p s
  | .release p => Sys2Proof.Machine.execRelease p s
  | .hostReadTimeout p words => Sys2Proof.Machine.execHostReadTimeout p words s
  | .msixUnmask p v => Sys2Proof.Machine.execMsixUnmask p v s
  | .droopTrip sensor => Sys2Proof.Machine.execDroopTrip sensor s
  | .deepTrip sensor both => Sys2Proof.Machine.execDeepTrip sensor both s
  | .droopRecover stand => Sys2Proof.Machine.execDroopRecover stand s
  | .governorPeriod p1 p100 tj => Sys2Proof.Machine.execGovernorPeriod p1 p100 tj s
  | .idleGateStart unit => Sys2Proof.Machine.execIdleGateStart unit s
  | .duskAnswer step agent => Sys2Proof.Machine.execDuskAnswer step agent s
  | .duskReask step agent => Sys2Proof.Machine.execDuskReask step agent s
  | .duskNoAnswer step agent => Sys2Proof.Machine.execDuskNoAnswer step agent s
  | .duskCommitDone step => Sys2Proof.Machine.execDuskCommitDone step s
  | .domainPowerUpDone unit => Sys2Proof.Machine.execDomainPowerUpDone unit s
  | .addressMatch  => Sys2Proof.Machine.execAddressMatch  s
  | .wakeComplete  => Sys2Proof.Machine.execWakeComplete  s
  | .nightLinkGraceExpiry p => Sys2Proof.Machine.execNightLinkGraceExpiry p s
  | .envelopeReq a => Sys2Proof.Machine.execEnvelopeReq a s
  | .thermalSample tj lost => Sys2Proof.Machine.execThermalSample tj lost s
  | .refclkLoss  => Sys2Proof.Machine.execRefclkLoss  s
  | .pgLow => Sys2Proof.Machine.execPgLow s
  | .scrubRead site found => Sys2Proof.Machine.execScrubRead site found s
  | .writeLinkPoll channel n => Sys2Proof.Machine.execWriteLinkPoll channel n s
  | .retirement what line => Sys2Proof.Machine.execRetirement what line s
  | .retirePowerOff unit => Sys2Proof.Machine.execRetirePowerOff unit s
  | .coreRetired  => Sys2Proof.Machine.execCoreRetired  s
  | .selfTestStart core => Sys2Proof.Machine.execSelfTestStart core s
  | .selfTestDone core coreFail arrayFail => Sys2Proof.Machine.execSelfTestDone core coreFail arrayFail s
  | .unitIsolation unit => Sys2Proof.Machine.execUnitIsolation unit s
  | .clear a t => Sys2Proof.Machine.execClear a t s
  | .scorch first second slow supply => Sys2Proof.Machine.execScorch first second slow supply s
  | .poisonFence arg confirm => Sys2Proof.Machine.execPoisonFence arg confirm s
  | .resetTenant arg confirm => Sys2Proof.Machine.execResetTenant arg confirm s
  | .forceNight arg confirm lost => Sys2Proof.Machine.execForceNight arg confirm lost s
  | .releasePads arg confirm => Sys2Proof.Machine.execReleasePads arg confirm s
  | .beaconLock arg confirm => Sys2Proof.Machine.execBeaconLock arg confirm s
  | .beaconUnlock arg confirm => Sys2Proof.Machine.execBeaconUnlock arg confirm s
  | .i3cPrivateWrite bytes => Sys2Proof.Machine.execI3cPrivateWrite bytes s
  | .entdaa addr => Sys2Proof.Machine.execEntdaa addr s
  | .setdasa static addr => Sys2Proof.Machine.execSetdasa static addr s
  | .setnewda addr => Sys2Proof.Machine.execSetnewda addr s
  | .rstdaa  => Sys2Proof.Machine.execRstdaa  s
  | .enec events => Sys2Proof.Machine.execEnec events s
  | .disec events => Sys2Proof.Machine.execDisec events s
  | .getpid  => Sys2Proof.Machine.execGetpid  s
  | .getbcr  => Sys2Proof.Machine.execGetbcr  s
  | .getdcr  => Sys2Proof.Machine.execGetdcr  s
  | .getstatus  => Sys2Proof.Machine.execGetstatus  s
  | .getmrl  => Sys2Proof.Machine.execGetmrl  s
  | .setmrl n => Sys2Proof.Machine.execSetmrl n s
  | .getmwl  => Sys2Proof.Machine.execGetmwl  s
  | .setmwl n => Sys2Proof.Machine.execSetmwl n s
  | .rstact action pattern => Sys2Proof.Machine.execRstact action pattern s
  | .ibiRetry ack => Sys2Proof.Machine.execIbiRetry ack s
  | .extest  => Sys2Proof.Machine.execExtest  s
  | .idcode  => Sys2Proof.Machine.execIdcode  s
  | .samplePreload  => Sys2Proof.Machine.execSamplePreload  s
  | .clamp  => Sys2Proof.Machine.execClamp  s
  | .highz  => Sys2Proof.Machine.execHighz  s
  | .bypass  => Sys2Proof.Machine.execBypass  s
  | .debugAccessPort code op => Sys2Proof.Machine.execDebugAccessPort code op s
  | .deviceReset pin => Sys2Proof.Machine.execDeviceReset pin s
  | .resetRelease b => Sys2Proof.Machine.execResetRelease b s
  | .hostReady  => Sys2Proof.Machine.execHostReady  s
  | .registerWrite space op a off => Sys2Proof.Machine.execRegisterWrite space op a off s
  | .imageStageDone  => Sys2Proof.Machine.execImageStageDone  s
  | .graphLoadDone g => Sys2Proof.Machine.execGraphLoadDone g s
  | .contextTlbInvalidateDone c va n => Sys2Proof.Machine.execContextTlbInvalidateDone c va n s
  | .droopStepDelivery stand => Sys2Proof.Machine.execDroopStepDelivery stand s
  | .tripClear sensor deep => Sys2Proof.Machine.execTripClear sensor deep s
  | .hdrModeEntry  => Sys2Proof.Machine.execHdrModeEntry  s
  | .hdrExitPattern  => Sys2Proof.Machine.execHdrExitPattern  s
  | .undefinedEncoding g => Sys2Proof.Machine.execUndefinedEncoding g s
  | .badPacket p opcode => Sys2Proof.Machine.execBadPacket p opcode s
  | .badOpcode r opcode => Sys2Proof.Machine.execBadOpcode r opcode s

end Sys2Proof.Machine
end

