-- ==== Sys2Proof/Safety.lean ====
section
/-! DEFINITION. What counts as a safe run, in the terms that statements use. -/

namespace Sys2Proof.Machine

/-- An outcome that goes on: no fault and no refusal. -/
def GoesOn (o : Host.Outcome State Fault Refusal) : Prop := ∃ t, o = .next t

/-- The command `c` answers a next state at `s`, and `P` holds of it. -/
def Answers (c : Instr) (s : State) (P : State → Prop) : Prop := ∃ t, exec c s = .next t ∧ P t

/-- Fuses `g` come after `f`: what is blown stays blown, key hash bits are only set, and none once secure boot is
blown; the other fuses never change (R482 to R484, R511, R512). -/
structure FuseLe (f g : Fuses) : Prop where
  coreMap : g.coreMap = f.coreMap
  grade : g.grade = f.grade
  tempGrade : g.tempGrade = f.tempGrade
  stepping : g.stepping = f.stepping
  vendorId : g.vendorId = f.vendorId
  pid : g.pid = f.pid
  secureBoot : f.secureBoot = true → g.secureBoot = true ∧ g.keyHash = f.keyHash
  scorched : f.scorched = true → g.scorched = true
  keyHash : ∀ i, i < 48 → byteAt f.keyHash i &&& ~~~ byteAt g.keyHash i = 0

/-- Every byte memory is in its canonical form, and no counter is past its maximum (R97). -/
structure OkOf (dram : Mem) (host : Tbl Mem) (flash : Mem) (counters : Tbl Nat) : Prop where
  dram : dram.wf = true
  host : ∀ p, (tget host p []).wf = true
  flash : flash.wf = true
  counters : ∀ k, tget counters k 0 ≤ counterMax

/-- The memories of a state are canonical and its counters in range. -/
def StateOk (s : State) : Prop := OkOf s.mem.dram s.mem.host s.flash s.counters

/-- `t` differs from `s` only in what counting and telling write. -/
def Notified (s t : State) : Prop :=
  t = { s with
    counters := t.counters, channels := t.channels, out := t.out, i3c := t.i3c, ports := t.ports, tenants := t.tenants }

/-- `t` differs from `s` only in what serving memory writes: memory and its caches, a free victim, and what counting, recording
and telling an error or a poisoned word writes. -/
def Served (s t : State) : Prop :=
  t = { s with
    mem := t.mem, cores := t.cores, freeTick := t.freeTick, avail := t.avail
    counters := t.counters, channels := t.channels, out := t.out, i3c := t.i3c, ports := t.ports, tenants := t.tenants }

/-- Of an instruction of group `g` that issues at `s`: everything outside the cores is as counting the issue leaves it,
and of the cores only the group itself, register words that it wrote and the pipeline's turn (R54) differ. -/
structure OnlyGroup (s t : State) (g : GroupAt) : Prop where
  rest : t = { countIssue s g with cores := t.cores }
  cores : ∀ k, k ≠ g.core → t.core k = s.core k
  core : t.core g.core = { s.core g.core with
    groups := (t.core g.core).groups, badReg := (t.core g.core).badReg, lastSlot := (t.core g.core).lastSlot }
  groups : ∀ j, j ≠ g.slot → (t.core g.core).group j = (s.core g.core).group j

/-- What a format R word leaves in vector register `r` of lane `l`: the lanes that act get the result `f`, a pair for a
wide one, and everything else stays (R101, R106). -/
def vregAfter (sh : RShape) (e : EncR) (f : Nat → Nat) (x : Group) (r l : Nat) : Nat :=
  match sh.d with
  | .pred => (x.vget r l).toNat
  | .reg wide =>
    if !e.dk && inMask (x.guard e.h) l then
      (if r = e.dst.toNat then f l % 2 ^ 32
       else if wide && r == e.dst.toNat + 1 then f l / 2 ^ 32 % 2 ^ 32 else (x.vget r l).toNat)
    else (x.vget r l).toNat

/-- What it leaves in uniform register `r`: with DK = 1 the result of the lowest lane that acts (R105, R107). -/
def uregAfter (sh : RShape) (e : EncR) (f : Nat → Nat) (x : Group) (r : Nat) : Nat :=
  match sh.d with
  | .pred => (x.uget r).toNat
  | .reg wide =>
    if e.dk && x.guard e.h != 0 then
      (if r = e.dst.toNat then f (lowLane (x.guard e.h)) % 2 ^ 32
       else if wide && r == e.dst.toNat + 1 then f (lowLane (x.guard e.h)) / 2 ^ 32 % 2 ^ 32 else (x.uget r).toNat)
    else (x.uget r).toNat

/-- What it leaves in predicate `p` of lane `l`; p7 stays 1 (Table 3.2). -/
def predAfter (sh : RShape) (e : EncR) (f : Nat → Nat) (x : Group) (p l : Nat) : Bool :=
  match sh.d with
  | .pred => if p = e.dst.toNat ∧ p ≠ 7 ∧ inMask (x.guard e.h) l then f l != 0 else inMask (x.pget p) l
  | .reg _ => inMask (x.pget p) l

/-- The group `y` after a format R word with result `f` on the group `x`: registers and predicates as above, the program
counter past the word, and nothing else changed but a promotion used up. -/
structure WritesR (sh : RShape) (e : EncR) (f : Nat → Nat) (x y : Group) : Prop where
  vreg : ∀ r l, l < 32 → (y.vget r l).toNat = vregAfter sh e f x r l
  ureg : ∀ r, (y.uget r).toNat = uregAfter sh e f x r
  pred : ∀ p l, l < 32 → inMask (y.pget p) l = predAfter sh e f x p l
  rest : y = { x with
    vregs := y.vregs, uregs := y.uregs, preds := y.preds, pc := x.pc + Head.size e.h, promoted := false }

/-- Command `c` issues the format R word `e` of class `cls` and operation `op` for group `g`: with a defined encoding,
registers in range and no register error, it completes with the result `f` of the group and the lane. -/
def RunsR (c : Instr) (cls op : Nat) (sh : RShape) (ok : Bool) (g : GroupAt) (e : EncR) (f : State → Group → Nat → Nat) : Prop :=
  ∀ s s1, issueCheck s g (e.code cls op) = .go s1 → checkR sh ok e (groupProg s1 g) = none →
    badRead (s1.core g.core) g.slot (readsR sh e) ((s1.group g).guard e.h) = false →
    Answers c s fun t => WritesR sh e (f s (s1.group g)) (s1.group g) (t.group g) ∧ OnlyGroup s1 t g

/-- The same for an operation of the format R tables, with its result from the three sources of a lane. -/
def RunsOp (c : Instr) (op : ROp) (g : GroupAt) (e : EncR) (f : Nat → Nat → Nat → Nat) : Prop :=
  RunsR c op.cls op.op (op.shape e) (op.ok e) g e fun _ x l =>
    f (valA (op.shape e) e x l) (valB (op.shape e) e x l) (valC (op.shape e) e x l)

/-- A memory instruction with a defined encoding and registers in range issues for group `g`, in the state `s1` after its
fetch; no register word of the core is in error. -/
structure IssuesM (s s1 : State) (g : GroupAt) (code : List Nat) (ok : Bool) (regs : List Nat) : Prop where
  issue : issueCheck s g code = .go s1
  ok : ok = true
  regs : ∀ r ∈ regs, r < (groupProg s1 g).regs
  badReg : (s1.core g.core).badReg = []

/-- How many registers `n` elements of `b` bytes fill. -/
def memWords (b n : Nat) : Nat := if b < 4 then 1 else if b = 8 then 2 * n else n

/-- What a load leaves in DST and above of the lanes of a mask: 32-bit words as they lie, a narrow element extended by
the signedness of TYPE (R114). -/
structure LoadsR (e : EncM) (b : Nat) (m : Mask) (bytes : Nat → List Byte) (x y : Group) : Prop where
  vreg : ∀ r l, l < 32 → (y.vget r l).toNat =
    (if inMask m l = true ∧ e.dst.toNat ≤ r ∧ r < e.dst.toNat + memWords b (memCount e) then
      (if 4 ≤ b then fieldAt (bytes l) (4 * (r - e.dst.toNat)) 4
       else if e.type = 0xD ∨ e.type = 0xF then ofSigned 32 (toSigned (8 * b) (leNat (bytes l))) else leNat (bytes l))
     else (x.vget r l).toNat)
  rest : y = { x with vregs := y.vregs, pc := x.pc + Head.size e.h, promoted := false }

/-- The operations of Tables 2.2 and 3.10 on a word `old` with the operands `v` and `cmp` of a lane. -/
def atomicOp (e : EncM) (old v cmp : Nat) : Nat :=
  let w := typeWidth e.type
  let num := fun a : Nat => if signedType e.type then toSigned w a else (a : Int)
  match e.aop.toNat, e.type == 4 with
  | 0, true => f32Add old v
  | 1, true => Fmt.f32.ieee ((Fmt.f32.decode old).minNum (Fmt.f32.decode v))
  | _, true => Fmt.f32.ieee ((Fmt.f32.decode old).maxNum (Fmt.f32.decode v))
  | 0, false => (old + v) % 2 ^ w
  | 1, false => if num v < num old then v else old
  | 2, false => if num old < num v then v else old
  | 3, false => old &&& v
  | 4, false => old ||| v
  | 5, false => old ^^^ v
  | 6, false => v
  | _, false => if old = cmp then v else old

/-- The word after the lanes of `ls` have been applied one at a time, in order (R67). -/
def applyLanes (e : EncM) (x : Group) (ls : List Nat) (old : Nat) : Nat :=
  ls.foldl (fun o l => atomicOp e o (laneVal x (wideType e.type) e.data l) (laneVal x (wideType e.type) e.cmp l)) old

/-- What an atomic leaves in its group: DST of each acting lane holds what the lane received, nothing with NORET. -/
structure AtomR (e : EncM) (m : Mask) (got : Nat → Nat) (x y : Group) : Prop where
  vreg : ∀ r l, l < 32 → (y.vget r l).toNat =
    (if inMask m l = true ∧ e.noret = false ∧ r = e.dst.toNat then got l % 2 ^ 32
     else if inMask m l = true ∧ e.noret = false ∧ wideType e.type = true ∧ r = e.dst.toNat + 1 then got l / 2 ^ 32 % 2 ^ 32
     else (x.vget r l).toNat)
  rest : y = { x with vregs := y.vregs, pc := x.pc + Head.size e.h, promoted := false }

/-- From `s` to `t` nothing but group `g`, and its core's detectors, prefetches and L1 traffic, changed in the cores. -/
structure GroupMoves (s t : State) (g : GroupAt) : Prop where
  others : ∀ k, k ≠ g.core → t.core k = s.core k
  groups : ∀ j, j ≠ g.slot → (t.core g.core).group j = (s.core g.core).group j
  wgs : (t.core g.core).wgs = (s.core g.core).wgs
  stores : (t.core g.core).stores = (s.core g.core).stores
  tile : (t.core g.core).tile = (s.core g.core).tile

/-- The front end takes packet `p`: its queue is ready, its header is good, no word of it is poisoned, and nothing that its
barrier waits for is left (R309, R312). -/
structure Fetches (s : State) (p : Pkt) (min : Nat) (implied : Bool) : Prop where
  ready : fetchReady s p.q = true
  header : headerOk s p min = true
  clean : packetPoison s p = none
  barrier : implied = true ∨ p.flags.getLsbD 0 = true → ∀ e ∈ s.cmds, e.2.queue ≠ p.q

/-- The read index of the packet's queue has moved past it, and no other queue has changed. -/
def Consumed (s t : State) (p : Pkt) : Prop :=
  t.queue p.q = { s.queue p.q with read := ((s.queue p.q).read + p.size16.toNat) % 2 ^ 32 }
  ∧ ∀ q, q ≠ p.q → t.queue q = s.queue q

/-- A host write that covers bits [31:0] of a register of tenant `t`'s own page, from that tenant. -/
structure OwnWrite (s : State) (a : Access) (t : Nat) : Prop where
  up : accUp s a = true
  who : accTenant s a = some t
  covers : ∀ i, i < 4 → a.be.getLsbD i = true

/-- A request that the Flume may fetch, that fits its ring, passes the header checks of R412 with `words` payload words, and
holds 0 in every payload byte outside the fields of `listed` (offset and width; R420). -/
structure Requested (s : State) (r : Req) (words : Nat) (listed : List (Nat × Nat)) : Prop where
  ready : flumeReady s r = true
  fits : reqTooLong s r = false
  header : headerCheck s r (some words) = none
  unlisted : ∀ i, i < 4 * words → (∀ f ∈ listed, i < f.1 ∨ f.1 + f.2 ≤ i) → reqField r i 1 = 0

/-- `u` after the reply ACCEPTED to a request, which stays open under the number `arg` (R414). -/
def acceptedBy (u : State) (r : Req) (opcode arg : Nat) : State :=
  postRecord (u.setChannel r.ch { u.channel r.ch with
    accepted := (u.channel r.ch).accepted ++ [⟨opcode, r.seq.toNat, r.tag.toNat, arg⟩] })
    r.ch r.seq.toNat 1 0 r.tag.toNat 0 []

end Sys2Proof.Machine
end

