-- ==== Sys2Proof/Certificates/Slice0/Obligations.lean ====
section
/-! DEFINITION. The statements for the provers. -/

section

open Sys2Proof Sys2Proof.Machine

/-- The step runs the command at the front of the queue: with c in front, it is exec of c on the state with the queue's rest.
The idle step on an empty queue is the model's own choice (log entry 15). -/
def Obligations.StepRunsFrontCommand : Prop :=
  ∀ (c : Sys2Proof.Instr) (s : Sys2Proof.Machine.State),
    Sys2Proof.Machine.step { s with pending := c :: s.pending } = Sys2Proof.Machine.exec c s

/-- The integer class (chapter 3, Operation details; R106): w is the width of TYPE. bfe and bfi are told by BitFields. That popc and clz
count over w bits, and that shl and shr take their count modulo w, for a 64-bit TYPE (a register pair) is the model's reading
(log entry 9, DEDUCED); the rules' own words fix the 32-bit forms.

The statement rests in part on readings the model chose, which are no rules of the spec: log entry 9. -/
def Obligations.IntegerResults : Prop :=
  ∀ (g : GroupAt) (e : EncR),
    let w := typeWidth e.type
    let sgn := signedType e.type
    RunsOp (.iadd g e) opIadd g e (fun a b _ => (a + b) % 2 ^ w)
    ∧ RunsOp (.isub g e) opIsub g e (fun a b _ => (a + (2 ^ w - b)) % 2 ^ w)
    ∧ RunsOp (.imul g e) opImul g e (fun a b _ => a * b % 2 ^ w)
    ∧ RunsOp (.imulhi g e) opImulhi g e (fun a b _ =>
        if sgn then ofSigned w (toSigned w a * toSigned w b / (2 ^ w : Nat)) else a * b / 2 ^ w)
    ∧ RunsOp (.imad g e) opImad g e (fun a b c => (a * b + c) % 2 ^ w)
    ∧ RunsOp (.imin g e) opImin g e (fun a b _ =>
        if sgn then (if toSigned w b < toSigned w a then b else a) else min a b)
    ∧ RunsOp (.imax g e) opImax g e (fun a b _ =>
        if sgn then (if toSigned w a < toSigned w b then b else a) else max a b)
    ∧ RunsOp (.andL g e) opAnd g e (fun a b _ => a &&& b)
    ∧ RunsOp (.orL g e) opOr g e (fun a b _ => a ||| b)
    ∧ RunsOp (.xor g e) opXor g e (fun a b _ => a ^^^ b)
    ∧ RunsOp (.notL g e) opNot g e (fun a _ _ => 2 ^ w - 1 - a)
    ∧ RunsOp (.shl g e) opShl g e (fun a b _ => a * 2 ^ (b % w) % 2 ^ w)
    ∧ RunsOp (.shr g e) opShr g e (fun a b _ =>
        if sgn then ofSigned w (toSigned w a / (2 ^ (b % w) : Nat)) else a / 2 ^ (b % w))
    ∧ RunsOp (.popc g e) opPopc g e (fun a _ _ => ((List.range w).filter fun i => a.testBit i).length)
    ∧ RunsOp (.clz g e) opClz g e (fun a _ _ => if a = 0 then w else w - 1 - a.log2)
    ∧ RunsOp (.isetp g e) opIsetp g e (fun a b _ => b2n (isetpHolds e.mod.toNat sgn w a b))

/-- bfe and bfi bit by bit (R533), for the two widths of TYPE. -/
def Obligations.BitFields : Prop :=
  (∀ (n a b c : Nat), n = 32 ∨ n = 64 → a < 2 ^ n →
     let o := c % 256
     let w := c / 256 % 256
     let at_ := fun (signed : Bool) (i : Nat) => if i < n then a.testBit i else signed && a.testBit (n - 1)
     (∀ (signed : Bool) (i : Nat), i < n → (bfeVal signed n a c).testBit i =
       (if w = 0 then false else if i < w then at_ signed (o + i) else signed && at_ signed (o + w - 1)))
     ∧ (∀ i, i < n → (bfiVal n a b c).testBit i = (if o ≤ i ∧ i < o + w then b.testBit (i - o) else a.testBit i))
     ∧ (∀ signed, bfeVal signed n a c < 2 ^ n) ∧ bfiVal n a b c < 2 ^ n)
  ∧ ∀ (g : GroupAt) (e : EncR),
      RunsOp (.bfe g e) opBfe g e (fun a _ c => bfeVal (signedType e.type) (typeWidth e.type) a c)
      ∧ RunsOp (.bfi g e) opBfi g e (fun a b c => bfiVal (typeWidth e.type) a b c)

/-- FP32 and packed arithmetic (chapter 3, Operation details): MOD bits 3, 2 and 1 negate A, B and C, the exact result is
rounded once to nearest even, and MOD bit 0 clamps (R534); the packed operations do so on each half.

The clamp of MOD bit 0 on the codes of f32, f16 and bf16 (R534): m is the magnitude, one the code of 1.0. -/
def Obligations.FloatResults : Prop :=
  (∀ (g : GroupAt) (e : EncR),
     let m := e.mod.toNat
     let one := fun (F : Fmt) (op : Machine.Num → Machine.Num → Machine.Num → Machine.Num) (a b c : Nat) =>
       let r := F.ieee (op ((F.decode a).negIf (bitOf m 3)) ((F.decode b).negIf (bitOf m 2)) ((F.decode c).negIf (bitOf m 1)))
       if bitOf m 0 then F.clamp01 r else r
     let two := fun (op : Machine.Num → Machine.Num → Machine.Num → Machine.Num) (a b c : Nat) =>
       let F := if e.type = 5 then Fmt.f16 else Fmt.bf16
       one F op (a % 65536) (b % 65536) (c % 65536) + 65536 * one F op (a / 65536) (b / 65536) (c / 65536)
     let add := fun (x y _ : Machine.Num) => x.add y
     let mul := fun (x y _ : Machine.Num) => x.mul y
     let fma := fun (x y z : Machine.Num) => (x.mul y).add z
     let mn := fun (x y _ : Machine.Num) => x.minNum y
     let mx := fun (x y _ : Machine.Num) => x.maxNum y
     RunsOp (.fadd g e) opFadd g e (one .f32 add) ∧ RunsOp (.fmul g e) opFmul g e (one .f32 mul)
     ∧ RunsOp (.ffma g e) opFfma g e (one .f32 fma) ∧ RunsOp (.fmin g e) opFmin g e (one .f32 mn)
     ∧ RunsOp (.fmax g e) opFmax g e (one .f32 mx)
     ∧ RunsOp (.fsetp g e) opFsetp g e (fun a b _ => b2n (fsetpHolds m a b))
     ∧ RunsOp (.frnd g e) opFrnd g e (fun a _ _ => Fmt.f32.ieee ((Fmt.f32.decode a).integral (Rnd.of m)))
     ∧ RunsOp (.hadd2 g e) opHadd2 g e (two add) ∧ RunsOp (.hmul2 g e) opHmul2 g e (two mul)
     ∧ RunsOp (.hfma2 g e) opHfma2 g e (two fma) ∧ RunsOp (.hmin2 g e) opHmin2 g e (two mn)
     ∧ RunsOp (.hmax2 g e) opHmax2 g e (two mx))
  ∧ (∀ (F : Fmt) (one code : Nat),
         (F = .f32 ∧ one = 0x3F800000) ∨ (F = .f16 ∧ one = 0x3C00) ∨ (F = .bf16 ∧ one = 0x3F80) → code < 2 ^ F.bits →
         F.clamp01 code =
           (if F.infCode < code % 2 ^ (F.bits - 1) then 0
            else if 2 ^ (F.bits - 1) ≤ code then 0
            else if one < code then one else code))

/-- The compare conditions of Table 3.8 (R109): integers by the signedness of TYPE; with a NaN every unordered condition
of fsetp holds and every ordered one fails. -/
def Obligations.CompareConditions : Prop :=
  (∀ (sgn : Bool) (w a b : Nat), a < 2 ^ w → b < 2 ^ w →
    let x : Int := if sgn then toSigned w a else a
    let y : Int := if sgn then toSigned w b else b
    isetpHolds 0 sgn w a b = decide (x = y) ∧ isetpHolds 1 sgn w a b = decide (x ≠ y)
    ∧ isetpHolds 2 sgn w a b = decide (x < y) ∧ isetpHolds 3 sgn w a b = decide (x ≤ y)
    ∧ isetpHolds 4 sgn w a b = decide (y < x) ∧ isetpHolds 5 sgn w a b = decide (y ≤ x))
  ∧ (∀ m a b : Nat, m < 16 → m ≠ 6 → m ≠ 7 →
    (Fmt.f32.decode a).isNan = true ∨ (Fmt.f32.decode b).isNan = true →
    fsetpHolds m a b = decide (8 ≤ m ∧ m ≠ 14))

/-- The transcendental unit (chapter 3, Operation details): rcp, rsqrt and sqrt are the correctly rounded functions of the
model, exp2, log2, sin and cos its choice within 2 units in the last place; their special operands as IEEE 754 has them
(MODEL: log entry 9).

Conversions (R119): cvt from the type in MOD to the type in TYPE, cvt.pk2 two codes into one half of DST, cvt.unpk one
byte of A.

Special numbers in conversions (R119): a NaN gives 0 in an integer type, the canonical NaN in a float type that has
one and +0 in E3M2, E2M3 and E2M1; what is beyond the range of an integer type gives its least or greatest number. -/
def Obligations.ConversionResults : Prop :=
  (∀ (g : GroupAt) (e : EncR),
     RunsOp (.rcp g e) opRcp g e (fun a _ _ => f32Rcp a) ∧ RunsOp (.rsqrt g e) opRsqrt g e (fun a _ _ => f32Rsqrt a)
     ∧ RunsOp (.sqrt g e) opSqrt g e (fun a _ _ => f32Sqrt a) ∧ RunsOp (.exp2 g e) opExp2 g e (fun a _ _ => f32Exp2 a)
     ∧ RunsOp (.log2 g e) opLog2 g e (fun a _ _ => f32Log2 a) ∧ RunsOp (.sin g e) opSin g e (fun a _ _ => f32Trig 2 a)
     ∧ RunsOp (.cos g e) opCos g e (fun a _ _ => f32Trig 3 a))
  ∧ (∀ (g : GroupAt) (e : EncR),
         RunsOp (.cvt g e) opCvt g e (fun a _ _ => typeCode (Rnd.of e.c.toNat) e.type (typeNum e.mod a))
         ∧ RunsOp (.cvtUnpk g e) opCvtUnpk g e (fun a b _ => typeCode .near e.type (typeNum e.mod (a / 2 ^ (8 * (b % 4)) % 256)))
         ∧ RunsR (.cvtPk2 g e) 5 1 shPk2 (pk2Ok e) g e (fun _ x l =>
             let old := if e.dk then (x.uget e.dst.toNat).toNat else (x.vget e.dst.toNat l).toNat
             let lo := typeCode .near e.type (Fmt.f32.decode (valA shPk2 e x l))
             let hi := typeCode .near e.type (Fmt.f32.decode (valB shPk2 e x l))
             if e.c = 8 then old % 65536 + 65536 * (lo + 256 * hi) else old / 65536 * 65536 + (lo + 256 * hi)))
  ∧ (∀ (r : Rnd) (t : BitVec 4),
         (typeFmt t = none → typeCode r t .nan = 0
           ∧ (∀ neg, typeCode r t (.inf neg) =
               (if neg then (if (typeInt t).2 then 2 ^ ((typeInt t).1 - 1) else 0)
                else if (typeInt t).2 then 2 ^ ((typeInt t).1 - 1) - 1 else 2 ^ (typeInt t).1 - 1))
           ∧ (∀ neg m, (2 : Nat) ^ (typeInt t).1 ≤ m → typeCode r t (.fin neg m 0) = typeCode r t (.inf neg)))
         ∧ (t = 4 → typeCode r t .nan = 0x7FC00000) ∧ (t = 5 → typeCode r t .nan = 0x7E00) ∧ (t = 6 → typeCode r t .nan = 0x7FC0)
         ∧ (t = 7 → typeCode r t .nan = 0x7F) ∧ (t = 8 → typeCode r t .nan = 0x7E)
         ∧ (t = 9 ∨ t = 10 ∨ t = 11 → typeCode r t .nan = 0)
         ∧ (t = 7 → typeCode r t (.inf false) = 0x7E) ∧ (t = 8 → typeCode r t (.inf false) = 0x7C))

/-- Lane and move instructions (chapter 3; R105, R535): shfl reads the lane that MOD and B choose, its own outside 0 to 31;
vote answers over the lanes that act; rdsr reads Table 3.3. Which way shfl moves (up reads lane - B, down lane + B) is the
model's reading of the table's words (log entry 9, DEDUCED).

The statement rests in part on readings the model chose, which are no rules of the spec: log entry 9. -/
def Obligations.LaneMoves : Prop :=
  ∀ (g : GroupAt) (e : EncR),
    RunsOp (.mov g e) opMov g e (fun a _ _ => a)
    ∧ RunsOp (.sel g e) opSel g e (fun a b c => if c = 1 then a else b)
    ∧ RunsOp (.plop g e) opPlop g e (fun a b _ => e.mod.toNat / 2 ^ (2 * a + b) % 2)
    ∧ RunsR (.shfl g e) 6 2 shShfl (shflOk e) g e (fun _ x l =>
        let b := valB shShfl e x l
        let own := fun (src : Int) => if 0 ≤ src ∧ src < 32 then src.toNat else l
        valA shShfl e x (if e.mod = 0 then own b else if e.mod = 1 then own (l - b) else if e.mod = 2 then own (l + b)
          else own (l ^^^ b : Nat)))
    ∧ RunsR (.vote g e) 6 3 (shVote e) (voteOk e) g e (fun _ x _ =>
        let m := x.guard e.h
        let p := x.pget e.a.toNat &&& m
        if e.mod = 2 then p.toNat else if e.mod = 0 then b2n (p != 0) else b2n (p == m))
    ∧ RunsR (.rdsr g e) 6 4 shRdsr (rdsrOk e) g e (fun s _ l => specialReg s g e.a.toNat l)

/-- The special registers (Table 3.3). -/
def Obligations.SpecialRegisters : Prop :=
  ∀ (s : State) (g : GroupAt) (l : Nat),
    let x := s.group g
    let w := (s.core g.core).wgAt x.wg
    let i := x.idx * 32 + l
    specialReg s g 0 l = l ∧ specialReg s g 1 l = x.idx ∧ specialReg s g 2 l = w.idX ∧ specialReg s g 3 l = w.idY
    ∧ specialReg s g 4 l = w.idZ
    ∧ (w.prog.kind = 0 → specialReg s g 5 l = i % w.prog.wgX ∧ specialReg s g 6 l = i / w.prog.wgX % w.prog.wgY
        ∧ specialReg s g 7 l = i / (w.prog.wgX * w.prog.wgY))
    ∧ specialReg s g 8 l = w.tileIndex ∧ specialReg s g 9 l = w.tileX ∧ specialReg s g 10 l = w.tileY
    ∧ specialReg s g 11 l = g.core ∧ specialReg s g 12 l = w.mapGen
    ∧ specialReg s g 13 l + 2 ^ 32 * specialReg s g 14 l = s.timer ∧ specialReg s g 15 l = x.active.toNat

/-- Control flow (R57, R58, R110 to R112): where each control instruction leaves its group. An exit may complete a
barrier of its workgroup and end its group, so of exit the lanes that have left are told.

The statement rests in part on readings the model chose, which are no rules of the spec: log entries 10, 102. -/
def Obligations.ControlFlow : Prop :=
  ∀ (g : GroupAt) (e : EncB) (s s1 : State),
    let x := s1.group g
    let p := groupProg s1 g
    let m := x.guard e.h
    let ok := okTarget s g.core x.ctx p
    let plain := e.h.long = false ∧ e.h.rsv48 = false
    let all := plain ∧ e.h.pred = 7 ∧ e.h.pneg = false
    let issues := fun (op : Nat) => issueCheck s g (e.code op) = .go s1
    let lands := fun (c : Instr) (op : Nat) (y : Group) => issues op →
      Answers c s fun t => t.group g = { y with promoted := false } ∧ OnlyGroup s1 t g
    (plain → e.target = 0 → e.join = 0 → lands (.nop g e) 0 { x with pc := x.pc + 8 })
    ∧ (∀ tgt j : Nat, plain → (tgt : Int) = x.pc + 8 * e.target.toInt → (j : Int) = x.pc + 8 * e.join.toInt →
        ok tgt = true → ok j = true →
        (m = x.active → lands (.bra g e) 1 { x with pc := tgt })
        ∧ (m = 0 → lands (.bra g e) 1 { x with pc := x.pc + 8 })
        ∧ (m ≠ x.active → m ≠ 0 → x.stack.length ≤ 62 → lands (.bra g e) 1
            { x with stack := ⟨false, none, 0, tgt, m⟩ :: ⟨true, none, 0, j, x.active⟩ :: x.stack,
                     active := x.active &&& ~~~m, pc := x.pc + 8 }))
    ∧ (plain → e.target.toNat % 2 ^ 16 = 0 → e.target.toNat / 2 ^ 16 < p.regs → m = 0 → lands (.brx g e) 2 { x with pc := x.pc + 8 })
    ∧ (∀ src j : Nat, plain → e.target.toNat = src * 2 ^ 16 → src < p.regs → (j : Int) = x.pc + 8 * e.join.toInt →
        ok j = true → badRead (s1.core g.core) g.slot [src] m = false →
        (m ≠ x.active → m ≠ 0 → x.stack.length ≤ 62 → lands (.brx g e) 2
            { x with stack := ⟨false, none, 0, x.pc, m⟩ :: ⟨true, none, 0, j, x.active⟩ :: x.stack,
                     active := x.active &&& ~~~m, pc := x.pc + 8 })
        ∧ (∀ tgt, m = x.active → m ≠ 0 → ok tgt = true →
            (∀ l, l < 32 → inMask m l = true → (x.vget src l).toNat = tgt) → lands (.brx g e) 2 { x with pc := tgt })
        ∧ (∀ tgt same, m = x.active → x.stack.length ≤ 62 → same ≠ 0 → same ≠ x.active →
            (∀ l, l < 32 → inMask same l = (inMask m l && (x.vget src l).toNat == tgt)) →
            (∀ l, l < 32 → inMask m l = true → ok (x.vget src l).toNat = true) →
            inMask same (lowLane m) = true → lands (.brx g e) 2
            { x with stack := ⟨false, none, 0, x.pc, m &&& ~~~same⟩ :: ⟨true, none, 0, j, m⟩ :: x.stack,
                     active := same, pc := tgt }))
    ∧ (all → e.target = 0 → e.join = 0 →
        (x.stack = [] → lands (.join g e) 3 { x with pc := x.pc + 8 })
        ∧ (∀ top rest, x.stack = top :: rest → top.blocked = none → top.mask &&& ~~~x.exited ≠ 0 →
            lands (.join g e) 3 { x with stack := rest, active := top.mask &&& ~~~x.exited, pc := top.pc }))
    ∧ (plain → e.target = 0 → e.join = 0 → issues 4 →
        Answers (.exit g e) s fun t => (t.group g).live = false ∨
          ((t.group g).exited = x.exited ||| m
            ∧ (x.active &&& ~~~m ≠ 0 → (t.group g).active = x.active &&& ~~~m ∧ (t.group g).pc = x.pc + 8)))
    ∧ (∀ tgt : Nat, all → e.join = 0 → p.callsFlag = true → (tgt : Int) = x.pc + 8 * e.target.toInt → ok tgt = true →
        x.calls.length < 16 →
        lands (.call g e) 5 { x with calls := (x.pc + 8, x.stack.length) :: x.calls, pc := tgt })
    ∧ (∀ ra rest, all → e.target = 0 → e.join = 0 → p.callsFlag = true → x.calls = (ra, x.stack.length) :: rest →
        lands (.ret g e) 6 { x with calls := rest, pc := ra })

/-- The faults of control flow (R47, R110 to R112, Table 2.8): each stops the context with ILLEGAL_INSTRUCTION. That an
undefined encoding, and a register past the program's, fault whatever the guard is read from the rules (log entry 34,
DEDUCED).

The statement rests in part on readings the model chose, which are no rules of the spec: log entry 34. -/
def Obligations.ControlFaults : Prop :=
  ∀ (g : GroupAt) (e : EncB) (s s1 : State),
    let x := s1.group g
    let p := groupProg s1 g
    let all := e.h.long = false ∧ e.h.rsv48 = false ∧ e.h.pred = 7 ∧ e.h.pneg = false
    let fails := fun (c : Instr) (op d : Nat) => issueCheck s g (e.code op) = .go s1 →
      exec c s = .next (groupFault s1 g (illegalFault d))
    (issueWith s g (fun w => !opDefined w) none = .go s1 →
      exec (.undefinedEncoding g) s = .next (groupFault s1 g (illegalFault 0x01)))
    ∧ (e.h.long = true ∨ e.h.rsv48 = true → fails (.nop g e) 0 0x01 ∧ fails (.bra g e) 1 0x01)
    ∧ (e.h.long = false → e.h.rsv48 = false → e.target.toNat % 2 ^ 16 = 0 → p.regs ≤ e.target.toNat / 2 ^ 16 →
        fails (.brx g e) 2 0x02)
    ∧ (all → p.callsFlag = false → fails (.call g e) 5 0x01 ∧ fails (.ret g e) 6 0x01)
    ∧ (e.h.pred ≠ 7 → fails (.join g e) 3 0x01 ∧ fails (.call g e) 5 0x01 ∧ fails (.ret g e) 6 0x01)
    ∧ (∀ j, e.h.long = false → e.h.rsv48 = false → (j : Int) = x.pc + 8 * e.join.toInt →
        (¬ (0 : Int) ≤ x.pc + 8 * e.target.toInt ∨ okTarget s g.core x.ctx p ((x.pc : Int) + 8 * e.target.toInt).toNat = false) →
        fails (.bra g e) 1 0x0D)
    ∧ (∀ tgt : Nat, all → e.join = 0 → p.callsFlag = true → (tgt : Int) = x.pc + 8 * e.target.toInt →
        okTarget s g.core x.ctx p tgt = true → 16 ≤ x.calls.length → fails (.call g e) 5 0x0A)
    ∧ (all → e.target = 0 → e.join = 0 → p.callsFlag = true →
        (x.calls = [] ∨ ∃ ra d rest, x.calls = (ra, d) :: rest ∧ d ≠ x.stack.length) → fails (.ret g e) 6 0x0A)

/-- A fault that reaches a context (R291, Tables 9.6 and 9.7). A LIVE context is FAULTED, its queues have left LIVE, the
record is written to its status block and the count of faults is one more; then come the fault fence and the fences
that the context guards (R334), the fence's value modulo 2^32 for a heritage context (R339). A fault of a FAULTED context is counted; one of a context that is being reset or
destroyed is discarded.

The statement rests in part on readings the model chose, which are no rules of the spec: log entries 25, 28. -/
def Obligations.FaultStopsContext : Prop :=
  ∀ (s : State) (f : CtxFault),
    let x := s.ctx f.ctx
    let t := (applyFault s f).1
    let rec_ := faultRecord s f
    (x.st = .live →
      (t.ctx f.ctx).st = .faulted ∧ (t.ctx f.ctx).faults = x.faults + 1
      ∧ (t.ctx f.ctx).block = (x.block.write 0 rec_).writeNat 64 4 2
      ∧ (∀ q, (t.queue q).ctx = f.ctx → (t.queue q).st ≠ .live)
      ∧ (∀ g, (t.group g).pc = (s.group g).pc ∧ (t.group g).vregs = (s.group g).vregs)
      ∧ (∀ c, c ≠ f.ctx → t.ctx c = s.ctx c)
      ∧ (applyFault s f).2 =
        (match x.faultFence with
          | some n => [.devSignal (.ctx f.ctx 4 f.queue) x.tenant (some f.ctx) n
              (BitVec.ofNat 64 (if x.heritage then (x.faults + 1) % 2 ^ 32 else x.faults + 1))]
          | none => []) ++ (guarded s f.ctx).map .poison)
    ∧ (x.st = .faulted → (t.ctx f.ctx).st = .faulted ∧ (t.ctx f.ctx).faults = x.faults + 1 ∧ (applyFault s f).2 = [])
    ∧ (x.st = .resetting ∨ x.st = .destroying → applyFault s f = (s, []))
    ∧ rec_.length = 64 ∧ fieldAt rec_ 0 2 = f.acc.code % 2 ^ 16 ∧ fieldAt rec_ 2 1 = f.acc.detail % 2 ^ 8
    ∧ fieldAt rec_ 3 1 = f.unit % 2 ^ 8 ∧ fieldAt rec_ 4 1 = f.slot % 2 ^ 8
    ∧ fieldAt rec_ 5 1 = 1 + 2 * b2n f.acc.write + 4 * b2n f.packet ∧ fieldAt rec_ 6 2 = f.queue % 2 ^ 16
    ∧ fieldAt rec_ 8 8 = f.pc % 2 ^ 64 ∧ fieldAt rec_ 16 8 = f.acc.addr % 2 ^ 64 ∧ fieldAt rec_ 24 4 = f.tag % 2 ^ 32
    ∧ fieldAt rec_ 28 4 = s.maps.gen % 2 ^ 32 ∧ fieldAt rec_ 32 8 = s.timer % 2 ^ 64 ∧ fieldAt rec_ 40 4 = 0
    ∧ fieldAt rec_ 44 2 = f.acc.obj % 2 ^ 16 ∧ fieldAt rec_ 46 2 = f.acc.gen % 2 ^ 16

/-- Scratch loads and stores (R49, R115, R129): with every access aligned and inside the allocation, and no tensor
instruction outstanding on the core, lds reads each lane's bytes and sts writes them, the highest lane last (R72).

Scratch atomics (R115, R67): each lane receives what the lanes below it at the same word left, and the word ends with
what the last of them left.

The statement rests in part on readings the model chose, which are no rules of the spec: log entry 11. -/
def Obligations.ScratchMemory : Prop :=
  (∀ (g : GroupAt) (e : EncM) (s s1 : State) (b : Nat),
     let x := s1.group g
     let c := s1.core g.core
     let w := c.wgAt x.wg
     let m := x.guard e.h
     let n := b * memCount e
     let a := laneScratch e x
     memBytes e.type = some b → c.tq = [] → c.requeue = [] → c.badTile = [] →
     (∀ l, l < 32 → inMask m l = true → a l % (if b < 4 then b else pow2Up n) = 0 ∧ a l + n ≤ w.scratchKib * 1024) →
     (IssuesM s s1 g (e.code 8 0) (ldsOk e) (e.base.toNat :: memRegs e.dst b (memCount e)) →
       Answers (.lds g e) s fun t =>
         LoadsR e b m (fun l => w.scratch.read (a l) n) x (t.group g) ∧ OnlyGroup s1 t g)
     ∧ (IssuesM s s1 g (e.code 8 1) (stsOk e) (e.base.toNat :: memRegs e.data b (memCount e)) →
       Answers (.sts g e) s fun t =>
         let w' := (t.core g.core).wgAt x.wg
         t.group g = { x with pc := x.pc + Head.size e.h, promoted := false }
         ∧ w' = { w with scratch := w'.scratch }
         ∧ (∀ l i, l < 32 → inMask m l = true → i < n →
             (∀ k, l < k → k < 32 → inMask m k = true → ¬ (a k ≤ a l + i ∧ a l + i < a k + n)) →
             w'.scratch.get (a l + i) = byteAt (storeBytes x e.data b (memCount e) l) i)
         ∧ (∀ i, (∀ l, l < 32 → inMask m l = true → ¬ (a l ≤ i ∧ i < a l + n)) → w'.scratch.get i = w.scratch.get i)
         ∧ (∀ k, k ≠ x.wg → (t.core g.core).wgAt k = c.wgAt k) ∧ (∀ k, k ≠ g.core → t.core k = s1.core k)
         ∧ t.mem = s1.mem))
  ∧ (∀ (g : GroupAt) (e : EncM) (s s1 : State),
         let x := s1.group g
         let c := s1.core g.core
         let w := c.wgAt x.wg
         let m := x.guard e.h
         let a := laneScratch e x
         let at_ := fun l => (lanesOf m).filter fun k => a k == a l
         let old := fun l => w.scratch.nat (a l) 4
         IssuesM s s1 g (e.code 8 2) (atomsOk e) ([e.base.toNat, e.data.toNat] ++ (if e.aop = 7 then [e.cmp.toNat] else [])
           ++ (if e.noret then [] else [e.dst.toNat])) →
         c.tq = [] → c.requeue = [] → c.badTile = [] →
         (∀ l, l < 32 → inMask m l = true → a l % 4 = 0 ∧ a l + 4 ≤ w.scratchKib * 1024) →
         Answers (.atoms g e) s fun t =>
           let w' := (t.core g.core).wgAt x.wg
           AtomR e m (fun l => applyLanes e x ((at_ l).filter fun k => decide (k < l)) (old l)) x (t.group g)
           ∧ (∀ l, l < 32 → inMask m l = true → w'.scratch.nat (a l) 4 = applyLanes e x (at_ l) (old l))
           ∧ (∀ i, (∀ l, l < 32 → inMask m l = true → ¬ (a l ≤ i ∧ i < a l + 4)) → w'.scratch.get i = w.scratch.get i)
           ∧ (∀ k, k ≠ g.core → t.core k = s1.core k) ∧ t.mem = s1.mem)

/-- Loads (R70, R73, R81, R114): the lanes' places translated, no earlier store of a lane to its bytes outstanding (none at
all for an acquire), no error met, and every line in the L1: each lane gets the bytes of its place.

The statement rests in part on readings the model chose, which are no rules of the spec: log entries 11, 13, 103. -/
def Obligations.MemoryLoads : Prop :=
  ∀ (g : GroupAt) (e : EncM) (s s1 s2 : State) (b : Nat) (ps : List (Nat × Place)),
    let x := s1.group g
    let m := x.guard e.h
    let n := b * memCount e
    memBytes e.type = some b →
    IssuesM s s1 g (e.code 7 0) (ldOk e) (baseRegs e ++ memRegs e.dst b (memCount e)) →
    resolve s1 x.ctx (laneVa e x) (if b < 4 then b else pow2Up n) false (lanesOf m) = .ok (ps, s2) →
    (e.order ≠ 0 → ∀ p ∈ (s2.core g.core).stores, p.gid = x.gid → m &&& p.lanes = 0) →
    (∀ p ∈ ps, pendOverlap (s2.core g.core) x.gid p.1 p.2.pa n = false ∧ poisonedWord s2 p.2.pa n = none
      ∧ (p.2.host = false ∨ p.2.cached = true → (s2.core g.core).l1Has (p.2.pa / 128) = true)) →
    Answers (.ld g e ⟨[], 0, 0, []⟩) s fun t =>
      LoadsR e b m (fun l => match tget? ps l with
        | some p => physRead1 s2 p.cached p.pa n
        | none => []) x (t.group g)
      ∧ GroupMoves s2 t g ∧ t.mem = s2.mem ∧ t.fences = s2.fences ∧ t.queues = s2.queues

/-- Stores (R71, R72, R114): the lanes' stores leave for their home slices, of lanes with one address only the highest
one's; memory changes when they arrive. A release waits for the earlier stores of its lanes.

A store arrives at its home slice (R26, R464), and a line at the L1 (R83, R85): the store's bytes, and no other byte
of DRAM, change, every other L1 loses the line, poison marks of whole words clear; where the slice holds the line already no
other line leaves it, and nothing outside memory changes. A store through a cached page reaches the slice's line, one
through an uncached page the host. A fill installs its line unless an invalidation came meanwhile, and the groups that wait
for the bank go on.

The statement rests in part on readings the model chose, which are no rules of the spec: log entries 11, 24, 108. -/
def Obligations.MemoryStores : Prop :=
  (∀ (g : GroupAt) (e : EncM) (s s1 s2 : State) (b : Nat) (ps : List (Nat × Place)),
     let x := s1.group g
     let m := x.guard e.h &&& ~~~x.helpers
     let n := b * memCount e
     let c := s2.core g.core
     memBytes e.type = some b →
     IssuesM s s1 g (e.code 7 1) (stOk e) (baseRegs e ++ memRegs e.data b (memCount e)) →
     resolve s1 x.ctx (laneVa e x) (if b < 4 then b else pow2Up n) true (lanesOf m) = .ok (ps, s2) →
     (e.order = 2 → ∀ p ∈ c.stores, p.gid = x.gid → m &&& p.lanes = 0) →
     Answers (.st g e) s fun t => ∃ new,
       (t.core g.core).stores = c.stores ++ new
       ∧ (∀ q, q ∈ new ↔ ∃ p ∈ ps, (∀ p' ∈ ps, p'.2.pa = p.2.pa → p'.1 ≤ p.1)
           ∧ q = ⟨(c.wgAt x.wg).cmd, x.gid, maskOf fun l => ps.any fun f => f.1 == l && f.2.pa == p.2.pa, p.2.pa,
             storeBytes x e.data b (memCount e) p.1, p.2.cached⟩)
       ∧ t.group g = { x with pc := x.pc + Head.size e.h, promoted := false }
       ∧ (∀ k, k ≠ g.core → t.core k = s2.core k) ∧ (∀ j, j ≠ g.slot → (t.core g.core).group j = c.group j)
       ∧ t.mem = s2.mem)
  ∧ (∀ (core k bank : Nat) (prefetch : Bool) (s : State), StateOk s →
         let c := s.core core
         (∀ p, c.stores[k]? = some p → storeReady c k = true → paKind p.pa = .dram →
           Answers (.storeAck core k) s fun t =>
             (t.core core).stores = c.stores.eraseIdx k
             ∧ (∀ a, t.mem.dram.get a =
                 if p.pa ≤ a ∧ a < p.pa + p.data.length then byteAt p.data (a - p.pa) else s.mem.dram.get a)
             ∧ (∀ j, j ≠ core → (t.core j).l1Has (p.pa / 128) = false)
             ∧ (∀ w, w / 16 = p.pa / 128 → (w ∈ t.mem.poison ↔
                 w ∈ s.mem.poison ∧ ¬ (p.pa ≤ 8 * w ∧ 8 * w + 8 ≤ p.pa + p.data.length)))
             ∧ (∀ w ∈ t.mem.poison, w ∈ s.mem.poison) ∧ (∀ g, t.group g = s.group g)
             ∧ t.cmds = s.cmds ∧ t.queues = s.queues ∧ t.fences = s.fences
             ∧ ((∃ e ∈ s.mem.cache, e.line = p.pa / 128) →
                 t.mem.host = s.mem.host ∧ t = { s with cores := t.cores, mem := t.mem }
                 ∧ ∀ w, w ∈ t.mem.poison ↔ w ∈ s.mem.poison ∧ ¬ (p.pa ≤ 8 * w ∧ 8 * w + 8 ≤ p.pa + p.data.length)))
         ∧ (∀ p port off, c.stores[k]? = some p → storeReady c k = true → paKind p.pa = .host port off →
             (s.port port).lost = false →
           (p.cached = true → Answers (.storeAck core k) s fun t => (t.core core).stores = c.stores.eraseIdx k
             ∧ t.mem.dram = s.mem.dram ∧ (∀ j, j ≠ core → (t.core j).l1Has (p.pa / 128) = false)
             ∧ (∀ l, tget? s.mem.lines (p.pa / 128) = some l → (∃ e ∈ s.mem.cache, e.line = p.pa / 128) →
                 t.mem.host = s.mem.host ∧ tget? t.mem.lines (p.pa / 128) = some ⟨putAt l.data (p.pa % 128) p.data, true⟩))
           ∧ (p.cached = false → Answers (.storeAck core k) s fun t =>
             (t.core core).stores = c.stores.eraseIdx k
             ∧ (∀ a, (t.hostMem (hostSpace s port off)).get a =
                 if (s.port port).winBase + off ≤ a ∧ a < (s.port port).winBase + off + p.data.length
                 then byteAt p.data (a - ((s.port port).winBase + off)) else (s.hostMem (hostSpace s port off)).get a)
             ∧ t.mem.dram = s.mem.dram ∧ (∀ q, q ≠ hostSpace s port off → t.hostMem q = s.hostMem q)))
         ∧ (∀ f, tget? (if prefetch then c.prefetch else c.demand) bank = some f →
           Answers (.l1Fill core bank prefetch) s fun t =>
             (f.dropped = false → (t.core core).l1Has f.line = true) ∧ (f.dropped = true → (t.core core).l1 = c.l1)
             ∧ tget? (if prefetch then (t.core core).prefetch else (t.core core).demand) bank = none
             ∧ (∀ j b ln, (t.group (slotAt core j)).wait = .bank b ln → b ≠ bank ∨ prefetch = true)
             ∧ (∀ g, (t.group g).vregs = (s.group g).vregs ∧ (t.group g).pc = (s.group g).pc)
             ∧ t.mem.dram = s.mem.dram ∧ t.fences = s.fences ∧ t.queues = s.queues ∧ t.cmds = s.cmds
             ∧ (prefetch = false → t.mem = s.mem)))

/-- Atomics (R66 to R68) on words of DRAM: each acting lane receives what the lanes below it at its word left, the word
ends with what the last of them left, and no other byte changes.

The statement rests in part on readings the model chose, which are no rules of the spec: log entries 11, 105, 106. -/
def Obligations.MemoryAtomics : Prop :=
  ∀ (g : GroupAt) (e : EncM) (s s1 s2 : State) (ps : List (Nat × Place)), StateOk s →
    let x := s1.group g
    let m := x.guard e.h &&& ~~~x.helpers
    let w := typeWidth e.type / 8
    let two := fun r : BitVec 8 => memRegs r w 1
    let c := s2.core g.core
    let pa := fun l => match tget? ps l with
      | some p => p.pa
      | none => 0
    let at_ := fun l => (lanesOf m).filter fun k => pa k == pa l
    let old := fun l => s.mem.dram.nat (pa l) w
    IssuesM s s1 g (e.code 9 0) (atomOk e) (baseRegs e ++ two e.data ++ (if e.aop = 7 then two e.cmp else [])
      ++ (if e.noret then [] else two e.dst)) →
    resolve s1 x.ctx (laneVa e x) w true (lanesOf m) = .ok (ps, s2) →
    (e.order ≠ 0 → ∀ p ∈ c.stores, p.gid = x.gid → m &&& p.lanes = 0) →
    (∀ p ∈ ps, paKind p.2.pa = .dram ∧ poisonedWord s2 p.2.pa w = none ∧ pendOverlap c x.gid p.1 p.2.pa w = false
      ∧ ∀ q ∈ ps, q.2.pa = p.2.pa ∨ q.2.pa + w ≤ p.2.pa ∨ p.2.pa + w ≤ q.2.pa) →
    Answers (.atom g e) s fun t =>
      AtomR e m (fun l => applyLanes e x ((at_ l).filter fun k => decide (k < l)) (old l)) x (t.group g)
      ∧ (∀ l, l < 32 → inMask m l = true → t.mem.dram.nat (pa l) w = applyLanes e x (at_ l) (old l))
      ∧ (∀ a, (∀ l, l < 32 → inMask m l = true → ¬ (pa l ≤ a ∧ a < pa l + w)) → t.mem.dram.get a = s.mem.dram.get a)
      ∧ ((∀ p ∈ ps, ∃ e ∈ s2.mem.cache, e.line = p.2.pa / 128) → t.mem.host = s2.mem.host)
      ∧ (∀ j, j ≠ g.slot → (t.core g.core).group j = c.group j)

/-- Barriers (R59 to R62, R116): the arriving lanes wait as a blocked path while another lane of the workgroup is missing;
when they are all that is left, the barrier completes in the same step and they go on.

A stranded barrier (R63), and promotions (R55, R24): the workgroup's context faults with BARRIER_STRANDED; an async group
and a bulk request that have waited count as promoted.

The statement rests in part on readings the model chose, which are no rules of the spec: log entries 101, 104. -/
def Obligations.Barriers : Prop :=
  (∀ (g : GroupAt) (e : EncX) (s s1 : State), issueCheck s g (e.code 0) = .go s1 → barOk e = true → e.c.toNat < 8 →
     let x := s1.group g
     let c := s1.core g.core
     let wait : StkEntry := ⟨false, some e.c.toNat, x.tseq, x.pc + 8, x.active⟩
     (∀ p ∈ c.stores, p.gid = x.gid → x.active &&& p.lanes = 0) → x.stack = [] → x.alive ≠ 0 →
     (∀ j, j ∈ c.slotsOf x.wg → j ≠ g.slot → (c.group j).alive ≠ 0 →
         (∀ k q, k ∈ (c.group j).stack → k.blocked = some q → k.mask &&& (c.group j).alive = 0) →
       Answers (.bar g e) s fun t =>
         t.group g = { x with stack := [wait], active := 0, promoted := false }
         ∧ ((t.core g.core).wgAt x.wg).strand = 0 ∧ t.mem = s1.mem)
     ∧ (c.slotsOf x.wg = [g.slot] → x.active = x.alive → c.tq = [] → c.requeue = [] →
       Answers (.bar g e) s fun t =>
         t.group g = { x with pc := x.pc + 8, promoted := false }
         ∧ ((t.core g.core).wgAt x.wg).strand = 0 ∧ t.mem = s1.mem))
  ∧ ((∀ (core wg k : Nat) (s : State),
         let c := s.core core
         let w := c.wgAt wg
         w.live = true → (s.ctx w.ctx).st = .live → c.saving = [] →
         (c.slotsOf wg).find? (fun j => (c.group j).blockedLanes != 0) = some k →
         (∀ j ∈ c.slotsOf wg, (c.group j).wait = .none) →
         exec (.barrierStranded core wg) s = .next (groupFault (s.setCore core (c.setWg wg { w with strand := 2 ^ 20 })) (slotAt core k)
           ⟨0x0003, 0, 0, false, 0, 0⟩))
       ∧ (∀ (core slot : Nat) (s : State), (s.group (slotAt core slot)).async = true → groupReady s (slotAt core slot) = true →
         Answers (.asyncPromotion core slot) s fun t =>
           t.group (slotAt core slot) = { s.group (slotAt core slot) with promoted := true }
           ∧ t = { s with cores := t.cores } ∧ (∀ k, k ≠ core → t.core k = s.core k))
       ∧ (∀ (arbiter port : Nat) (s : State), bulkWaits s port = true → Answers (.bulkPromotion arbiter port) s fun t =>
           (∀ p, p ∈ t.mem.promoted ↔ p = (arbiter, port) ∨ p ∈ s.mem.promoted)
           ∧ t = { s with mem := { s.mem with promoted := t.mem.promoted } }))

/-- Fences in programs (R118, R326 to R330): membar, fsig and fread, a wait that registers or ends at once, and a wait whose
deadline has passed.

The statement rests in part on readings the model chose, which are no rules of the spec: log entries 92, 93. -/
def Obligations.FenceInstructions : Prop :=
  ∀ (g : GroupAt) (e : EncX) (s s1 : State),
    let x := s1.group g
    let c := s1.core g.core
    let quiet := ∀ p ∈ c.stores, p.gid = x.gid → x.active &&& p.lanes = 0
    let n := (x.uget e.a.toNat).toNat
    let f := s1.fence n
    let bound := fun r : Nat => n < 16384 ∧ f.st ≠ .free ∧ tget f.binds x.ctx 0 = r
    let v := if (s1.ctx x.ctx).heritage then x.uget64 e.b.toNat % 2 ^ 32 else x.uget64 e.b.toNat
    let issues := fun op : Nat => issueCheck s g (e.code op) = .go s1
    ((issues 1 → membarOk e = true → quiet → Answers (.membar g e) s fun t =>
        t.group g = { x with pc := x.pc + 8, promoted := false } ∧ OnlyGroup s1 t g)
      ∧ (issues 2 → fsigOk e = true → x.guard e.h ≠ 0 → bound 2 → quiet → ∃ u,
          exec (.fsig g e) s = .next (settle [.signal (.ctx x.ctx 1 0xFFFF) n (BitVec.ofNat 64 v)] u)
          ∧ u.group g = { x with pc := x.pc + 8, promoted := false } ∧ OnlyGroup s1 u g)
      ∧ (issues 4 → freadOk e = true → x.guard e.h ≠ 0 → (bound 1 ∨ bound 2) → Answers (.fread g e) s fun t =>
          (t.group g).uget64 e.dst.toNat = f.value.toNat
          ∧ (∀ r, r ≠ e.dst.toNat → r ≠ e.dst.toNat + 1 → (t.group g).uget r = x.uget r)
          ∧ t.group g = { x with uregs := (t.group g).uregs, pc := x.pc + 8, promoted := false } ∧ OnlyGroup s1 t g)
      ∧ (issues 3 → fwaitOk e = true → x.guard e.h ≠ 0 → (bound 1 ∨ bound 2) → f.flag = false →
          (f.reached v = true → Answers (.fwait g e) s fun t =>
            (t.group g).uget e.dst.toNat = 0 ∧ (∀ r, r ≠ e.dst.toNat → (t.group g).uget r = x.uget r)
            ∧ t.group g = { x with uregs := (t.group g).uregs, wait := .none, pc := x.pc + 8, promoted := false }
            ∧ OnlyGroup s1 t g)
          ∧ (f.reached v = false → Answers (.fwait g e) s fun t =>
            (t.group g) = { x with
              promoted := false
              wait := .fence n v (if x.uget e.c.toNat = 0 then none
                else some (s1.timer + ((x.uget e.c.toNat).toNat * 384 + 9) / 10)) e.dst.toNat }
            ∧ OnlyGroup s1 t g))
      ∧ (issues 2 → fsigOk e = true → x.guard e.h ≠ 0 → ¬ bound 2 →
          exec (.fsig g e) s = .next (groupFault s1 g (illegalFault 0x08))))
    ∧ (∀ fn tgt due dst, (s.group g).live = true → (s.group g).wait = .fence fn tgt (some due) dst → due ≤ s.timer →
        (s.fence fn).flag = false → (s.fence fn).reached tgt = false →
        Answers (.fenceTimeout (.group g.core g.slot)) s fun t =>
          (t.group g).uget dst = 2 ∧ (t.group g).wait = .none ∧ (t.group g).pc = (s.group g).pc + 8
          ∧ (t.ctx (s.group g).ctx).block = (s.ctx (s.group g).ctx).block.writeNat 136 4
              (min (blockNat s (s.group g).ctx 136 4 + 1) 0xFFFFFFFF))
    ∧ (∀ q w due, (s.queue q).wait = some w → w.deadline = some due → due ≤ s.timer →
        (s.ctx (waitFault s q w 0x0005 1).ctx).st = .live →
        exec (.fenceTimeout (.queue q)) s =
          .next (raise (setBlock s (waitFault s q w 0x0005 1).ctx 140 2 w.fence) (waitFault s q w 0x0005 1)))

/-- Signals (R320, R322, R337) and poison (R334): what reaches a fence, and that no other fence changes with it. The field moves
is the model's own record of the signals of the last ticks (log entry 47), no register of the spec. -/
def Obligations.SignalRule : Prop :=
  ∀ (s : State) (src : SigSrc) (n : Nat) (v : DWord),
    let f := s.fence n
    let t := (applySignal s src n v).1
    let u := (applyPoison s n).1
    (f.st = .free → t = s)
    ∧ (f.st ≠ .free → f.heritage = false → f.value < v →
        t.fence n = { f with
          value := v, flag := decide (v = BitVec.allOnes 64), moves := f.noteMove s.timer
          st := if v = BitVec.allOnes 64 ∧ f.st = .live then .poisoned else f.st })
    ∧ (f.st ≠ .free → f.heritage = false → v = f.value → t = s)
    ∧ (f.st ≠ .free → f.heritage = false → v < f.value → t.fence n = f ∧ t = regress s src n v)
    ∧ (f.st ≠ .free → f.heritage = true → f.flag = false →
        let d := (v.toNat % 2 ^ 32 + 2 ^ 32 - f.value.toNat % 2 ^ 32) % 2 ^ 32
        (d = 0 → t = s)
        ∧ (0 < d → d < 2 ^ 31 → t.fence n = { f with
            value := BitVec.ofNat 64 (v.toNat % 2 ^ 32), adv := f.adv + d, moves := f.noteMove s.timer })
        ∧ (2 ^ 31 ≤ d → t = regress s src n v))
    ∧ (f.st = .live → u.fence n = { f with
        st := .poisoned, flag := true, value := if f.heritage then f.value else BitVec.allOnes 64 })
    ∧ (f.st ≠ .live → u = s)
    ∧ (∀ k, k ≠ n → t.fence k = s.fence k ∧ u.fence k = s.fence k)

/-- Texture reads (R120): with no earlier store of the lanes outstanding (R73) and the lanes' results found, DST and the registers after it take them in the lanes that act, RP
tells with RES whether the footprint was resident, and nothing else of the group changes.

tld and tst of a fragment program (R216 to R218, R221): with the fragments before them at their pixels committed, tld
gives each lane the value of its fragment, and tst keeps the lane's output apart from memory until it commits.

The statement rests in part on readings the model chose, which are no rules of the spec: log entries 23, 107, 114, 131, 143, 145, 146. -/
def Obligations.TextureAndTileData : Prop :=
  (∀ (g : GroupAt) (e : EncS) (s s1 s2 s3 : State) (t : TexDesc) (d : SampDesc) (os : List (Nat × TexOut)),
     let x := s1.group g
     let m := x.guard e.h
     let regs := fun (r : BitVec 8) (n : Nat) => (List.range n).map (r.toNat + ·)
     IssuesM s s1 g e.code (texOk e (groupProg s g)) (regs e.coord (texNCoord e) ++ regs e.extra (texNExtra e false)
       ++ regs e.dst (texNDst e)) →
     (m = 0 → Answers (.tex g e) s fun u => u.group g = { x with pc := x.pc + Head.size e.h, promoted := false }
       ∧ OnlyGroup s1 u g)
     ∧ (m ≠ 0 → (∀ p ∈ (s1.core g.core).stores, p.gid = x.gid → m &&& p.lanes = 0) → texDescs s1 x.ctx e (x.uget e.desc.toNat).toNat = .ok (t, d, s2) →
       (texNExtra e d.compares = 0 → e.extra = 0) → (∀ r ∈ regs e.extra (texNExtra e d.compares), r < (groupProg s1 g).regs) →
       texLanes s2 x e t d (lanesOf m) = .ok (os, s3) →
       Answers (.tex g e) s fun u =>
         let out := fun l => tget os l ⟨[], false, false⟩
         (∀ r l, l < 32 → ((u.group g).vget r l).toNat =
           if inMask m l = true ∧ e.dst.toNat ≤ r ∧ r < e.dst.toNat + texNDst e
           then (out l).words.getD (r - e.dst.toNat) 0 % 2 ^ 32 else (x.vget r l).toNat)
         ∧ (∀ p l, l < 32 → inMask ((u.group g).pget p) l =
           if e.res = true ∧ p = e.rp.toNat ∧ p ≠ 7 ∧ inMask m l = true then (out l).res else inMask (x.pget p) l)
         ∧ u.group g = { x with
             vregs := (u.group g).vregs, preds := (u.group g).preds, pc := x.pc + Head.size e.h, promoted := false }
         ∧ u.mem = s3.mem ∧ u.mem.dram = s1.mem.dram ∧ (∀ k, k ≠ g.core → u.core k = s1.core k)))
  ∧ (∀ (g : GroupAt) (e : EncR) (s s1 : State) (run : RasterRun) (r : RenderPass),
         let x := s1.group g
         let p := groupProg s1 g
         let c := s1.core g.core
         let m := x.guard e.h
         let src := e.mod.toNat
         let draw := (c.wgAt x.wg).idY
         tileOf s1 g = some (run, r) → c.badReg = [] → c.badTile = [] →
         (issueCheck s g (e.code 0xD 0) = .go s1 → checkR (shTld e) (tldOk e p) e p = none → e.dst.toNat + tileComps src ≤ p.regs →
           (∀ l, l < 32 → inMask m l = true → badTileRef r draw src (valB (shTld e) e x l) = false) →
           (∀ l f, l < 32 → inMask m l = true → src ≤ 9 → tget? x.frags l = some f → earlierCovers run f.x f.y f.prim = false) →
           Answers (.tld g e) s fun t =>
             (∀ rr l f, l < 32 → tget? x.frags l = some f → ((t.group g).vget rr l).toNat =
               if inMask m l = true ∧ e.dst.toNat ≤ rr ∧ rr < e.dst.toNat + tileComps src
               then tldValue c run r f src (valB (shTld e) e x l) (rr - e.dst.toNat) % 2 ^ 32 else (x.vget rr l).toNat)
             ∧ (∀ rr l, l < 32 → inMask m l = false → (t.group g).vget rr l = x.vget rr l)
             ∧ t.group g = { x with vregs := (t.group g).vregs, pc := x.pc + Head.size e.h, promoted := false }
             ∧ OnlyGroup s1 t g)
         ∧ (issueCheck s g (e.code 0xD 1) = .go s1 → checkR (shTst e) (tstOk e p) e p = none → e.ka = 0 → tstRaw e = false → e.a.toNat + tileComps src ≤ p.regs →
           (src ≠ 0xE → ∀ l, l < 32 → inMask (m &&& ~~~x.helpers) l = true → badTileRef r draw src (valB (shTst e) e x l) = false) →
           Answers (.tst g e) s fun t =>
             (∀ l i, l < 32 → inMask (m &&& ~~~x.helpers) l = true → i < tileComps src →
               tget? (t.group g).outs (l * 1024 + src * 8 + i) = some (x.vget (e.a.toNat + i) l))
             ∧ (∀ k, inMask (m &&& ~~~x.helpers) (k / 1024) = false → k / 1024 < 32 → tget? (t.group g).outs k = tget? x.outs k)
             ∧ t.group g = { x with outs := (t.group g).outs, pc := x.pc + Head.size e.h, promoted := false }
             ∧ OnlyGroup s1 t g ∧ t.mem = s1.mem ∧ (t.core g.core).tile = c.tile))

/-- Tensor instructions (R107, R121 to R123, R126 to R129): with a guard that holds in no active lane each goes on; with an operand inside its region (R123, R49, R169) and room in the
queue, none in error, each enters the queue with its operands as they are at issue; tsync goes on once at most N are outstanding.

What a tensor instruction leaves when it completes (R124, R126, R127, R145), none of its operands written by another
agent or in error, no instruction waiting to be queued again, and no work being preempted: a tmma its 1,024 sums, a tcvt its converted block, a twld
its bytes in the weight buffer.

The statement rests in part on readings the model chose, which are no rules of the spec: log entries 34, 130, 142. -/
def Obligations.TensorWork : Prop :=
  (∀ (g : GroupAt) (e : EncT) (s s1 : State),
     let x := s1.group g
     let c := s1.core g.core
     let v := fun r : BitVec 8 => (x.uget r.toNat).toNat
     let inside := fun (a n : Nat) => a < 2 ^ 20 ∧ a % 128 = 0 ∧
       (if a < 2 ^ 19 then c.holder = some (c.wgAt x.wg).cmd ∧ a + n ≤ c.reserved
           ∧ (∀ d ∈ c.doubles, a + n ≤ d.1 + d.2 ∨ d.1 + 2 * d.2 ≤ a)
         else a - 2 ^ 19 + n ≤ (c.wgAt x.wg).scratchKib * 1024 ∧ a + n ≤ 2 ^ 20)
     let issues := fun n : Nat => issueCheck s g (e.code n) = .go s1
     let idles := fun (c' : Instr) (n : Nat) (ok : Bool) => issues n → ok = true → x.guard e.h = 0 → Answers c' s fun t =>
       t.group g = { x with pc := x.pc + 8, promoted := false } ∧ OnlyGroup s1 t g
     let queues := fun (c' : Instr) (n : Nat) (op : TensorOp) => issues n → Answers c' s fun t =>
       (t.core g.core).tq = c.tq ++ [entryOf g x op]
       ∧ t.group g = { x with tseq := x.tseq + 1, pc := x.pc + 8, promoted := false }
       ∧ (t.core g.core).tile = c.tile ∧ (t.core g.core).wgs = c.wgs ∧ (t.core g.core).weights = c.weights
       ∧ (∀ j, j ≠ g.slot → (t.core g.core).group j = c.group j) ∧ (∀ k, k ≠ g.core → t.core k = s1.core k)
       ∧ t.mem.dram = s1.mem.dram
     idles (.tmma g e) 0 (tmmaOk e) ∧ idles (.twld g e) 1 (twldOk e) ∧ idles (.tcvt g e) 2 (tcvtOk e)
     ∧ idles (.tsync g e) 3 (tsyncOk e)
     ∧ ((groupProg s1 g).tensor = true → x.guard e.h ≠ 0 → c.requeue = [] → c.tq.length < 16 → c.badTile = [] → c.badWeight = [] →
       (tmmaOk e = true → (e.afmt = 0xE → (s1.ctx x.ctx).heritage = true) → v e.k ≠ 0 → v e.k % 32 = 0 →
         v e.b + tfBytes e.bfmt.toNat e.tw.toNat (blkLen e.blk.toNat) (v e.k) ≤ 65536 →
         inside (v e.a) (tfBytes e.afmt.toNat 0 (blkLen e.blk.toNat) (v e.k)) → inside (v e.c) 4096 →
         queues (.tmma g e) 0 (.tmma e.afmt.toNat e.bfmt.toNat e.blk.toNat e.tw.toNat e.acc (v e.a) (v e.b) (v e.c) (v e.k)))
       ∧ (tcvtOk e = true → (e.afmt = 0xE → (s1.ctx x.ctx).heritage = true) →
         inside (v e.a) (tfBytes e.afmt.toNat 0 (blkLen e.blk.toNat) 32) → inside (v e.c) 4096 →
         queues (.tcvt g e) 2 (.tcvt e.afmt.toNat e.blk.toNat (v e.a) (v e.c)))
       ∧ (∀ ps s2, twldOk e = true → v e.b % 128 = 0 → v e.c % 128 = 0 → 128 ≤ v e.c → v e.b + v e.c ≤ 65536 →
         pieces 18 s1 x.ctx (x.uget64 e.a.toNat) (v e.c) = .ok (ps, s2) →
         piecesPoison s2 (x.uget64 e.a.toNat) ps = none →
         (∀ o ∈ c.tq, o.gid = x.gid →
           tensorClash o (entryOf g x (.twld (x.uget64 e.a.toNat) (v e.b) (v e.c) ps)) = false) →
         issues 1 → Answers (.twld g e) s fun t =>
           let en := entryOf g x (.twld (x.uget64 e.a.toNat) (v e.b) (v e.c) ps)
           (t.core g.core).tq.map (fun o => (o.gid, o.seq, o.op)) = (c.tq ++ [en]).map (fun o => (o.gid, o.seq, o.op))
           ∧ t.group g = { x with tseq := x.tseq + 1, pc := x.pc + 8, promoted := false }
           ∧ (∀ i, i < v e.b ∨ v e.b + v e.c ≤ i → (t.core g.core).weights.get i = c.weights.get i)
           ∧ (t.core g.core).tile = c.tile ∧ (t.core g.core).wgs = c.wgs
           ∧ (∀ j, j ≠ g.slot → (t.core g.core).group j = c.group j) ∧ (∀ k, k ≠ g.core → t.core k = s1.core k)
           ∧ t.mem.dram = s1.mem.dram))
     ∧ (issues 3 → tsyncOk e = true → (groupProg s1 g).tensor = true → x.guard e.h ≠ 0 →
         ((c.tq.filter fun t => t.gid == x.gid).length ≤ e.k.toNat → Answers (.tsync g e) s fun t =>
           t.group g = { x with pc := x.pc + 8, promoted := false } ∧ OnlyGroup s1 t g)
         ∧ (e.k.toNat < (c.tq.filter fun t => t.gid == x.gid).length → exec (.tsync g e) s = .next s1)))
  ∧ (∀ (core k : Nat) (s : State) (q : TqEntry),
         let c := s.core core
         let frame := fun (t : State) =>
           (∀ j, j ≠ core → t.core j = s.core j) ∧ t.mem.dram = s.mem.dram
           ∧ (t.core core).tq.map (fun o => (o.gid, o.seq, o.op)) = (c.tq.eraseIdx k).map (fun o => (o.gid, o.seq, o.op))
           ∧ t.fences = s.fences
         let lies := fun (t : State) (a : Nat) (bs : List Byte) =>
           (tileSpace a = 0 ∨ ((t.core core).wgAt q.wg).live = true →
             ∀ i, i < bs.length → (t.core core).tileByte q.wg (tileSpace a) (tileOff a + i) = byteAt bs i)
         c.tq[k]? = some q → c.requeue = [] → c.odd = false → q.clobbered = [] → tensorEcc c q = none →
         s.sched.preempts = [] →
         (∀ af bf blk tw acc a b cc kk, q.op = .tmma af bf blk tw acc a b cc kk → tensorMay s core k q true = true →
           Answers (.tmmaComplete core k) s fun t =>
             lies t cc ((List.range 1024).flatMap fun n => leBytes 4 (tmmaElement (TLay.of af 0 blk kk) (TLay.of bf tw blk kk)
               (fun i => c.tileByte q.wg (tileSpace a) (tileOff a + i)) (fun i => c.weights.get (b + i)) acc
               (leNat ((List.range 4).map fun m => c.tileByte q.wg (tileSpace cc) (tileOff cc + 4 * n + m))) (n / 32) (n % 32)))
             ∧ (t.core core).weights = c.weights ∧ t.mem.host = s.mem.host ∧ frame t)
         ∧ (∀ f blk dst src, q.op = .tcvt f blk dst src → tensorMay s core k q true = true →
           Answers (.tcvtComplete core k) s fun t =>
             lies t dst (tcvtResult f blk fun n =>
               leNat ((List.range 4).map fun m => c.tileByte q.wg (tileSpace src) (tileOff src + 4 * n + m)))
             ∧ (t.core core).weights = c.weights ∧ t.mem.host = s.mem.host ∧ frame t)
         ∧ (∀ va off n ps, q.op = .twld va off n ps → tensorMay s core k q false = true → piecesPoison s va ps = none →
             (∀ p ∈ ps, p.1 + p.2.1 ≤ 0x1000000000) →
           Answers (.twldComplete core k) s fun t =>
             let bs := ps.flatMap fun p => s.mem.dram.read p.1 p.2.1
             (∀ i, i < bs.length → (t.core core).weights.get (off + i) = byteAt bs i)
             ∧ (∀ i, i < off ∨ off + bs.length ≤ i → (t.core core).weights.get i = c.weights.get i)
             ∧ (t.core core).tile = c.tile ∧ frame t))

/-- Doorbells (R307, R308): a write W with L the last accepted value and R the read index is discarded, ignored, a fault of
the context, or accepted; an accepted one is reported in the queue's report block, here one in DRAM.

The statement rests in part on readings the model chose, which are no rules of the spec: log entries 28, 29. -/
def Obligations.QueueDoorbells : Prop :=
  ∀ (a : Access) (t i : Nat) (s : State),
    let off := 0x2000000 + 0x1000 * t + 8 * i
    let w := a.data.toNat % 2 ^ 32
    (accUp s a = true → accTenant s a = some t → doorQueue s t i = none →
      exec (.queueDoorbell a t i) s = .next (accLog s a t 0x6 off))
    ∧ (∀ q, accUp s a = true → accTenant s a = some t → doorQueue s t i = some q →
      (∃ k, k < 4 ∧ a.be.getLsbD k = false) → exec (.queueDoorbell a t i) s = .next (accLog s a t 0x5 off))
    ∧ (∀ q, OwnWrite s a t → doorQueue s t i = some q → (s.queue q).service = false →
      let x := s.queue q
      let ahead := (w + 2 ^ 32 - x.last) % 2 ^ 32
      let held := (w + 2 ^ 32 - x.read) % 2 ^ 32
      (w = x.last ∨ 2 ^ 31 ≤ ahead → exec (.queueDoorbell a t i) s = .next (accLog s a t 0x5 off))
      ∧ (w ≠ x.last → ahead < 2 ^ 31 → x.ringBytes / 16 < held → exec (.queueDoorbell a t i) s =
          .next (raise s ⟨x.ctx, ⟨0x0004, 0x17, 0, false, 0, 0⟩, 0xB1, 0xFF, true, q, x.read, 0⟩))
      ∧ (w ≠ x.last → ahead < 2 ^ 31 → held ≤ x.ringBytes / 16 →
          Answers (.queueDoorbell a t i) s fun u =>
            u.queue q = { x with last := w } ∧ (∀ j, j ≠ q → u.queue j = s.queue j)
            ∧ Served { s with queues := u.queues } u ∧ (∀ g, u.group g = s.group g)
            ∧ (StateOk s → objReachable s x.repObj x.repGen = true → (s.obj x.repObj).base + x.repOff + 16 ≤ 0x1000000000 →
                u.mem.dram.read ((s.obj x.repObj).base + x.repOff) 16 =
                  leBytes 4 x.read ++ leBytes 4 (doneIndex s q) ++ leBytes 4 w ++ leBytes 2 x.st.code ++ [0, 0])))

/-- Packets that the front end itself carries out (R311 to R314, R320, R326, R328): NOP, fence signals and waits, FLUSH and
INVALIDATE of cached host lines, and the removal of instruction cache and TLB entries.

A reserved opcode, and a header that breaks R312, fault the context with BAD_PACKET; the read index stays.

The statement rests in part on readings the model chose, which are no rules of the spec: log entries 29, 108. -/
def Obligations.FrontEndPackets : Prop :=
  (∀ (p : Pkt) (s : State),
     let q := s.queue p.q
     let c := q.ctx
     let f := pField p 8 2
     let right := if (s.fence f).st = .free then 0 else tget (s.fence f).binds c 0
     let kept := fun (t : State) => Consumed s t p ∧ t.cmds = s.cmds ∧ t.fences = s.fences ∧ ∀ g, t.group g = s.group g
     let calm := ∀ e ∈ s.queues, ∀ w, e.2.wait = some w → w.fence = f → (s.fence f).reached w.target = false
     let silent := objReachable s q.repObj q.repGen = false
     (Fetches s p 1 false → Answers (.nopPacket p) s fun t => kept t ∧ t.mem.tlb = s.mem.tlb)
     ∧ (Fetches s p 2 true → fencePktOk p false = true → right = 2 → ∃ u,
         exec (.fenceSignal p) s = .next (settle [.signal (.ctx c 2 p.q) f (BitVec.ofNat 64 (pField p 16 8))] u) ∧ kept u)
     ∧ (Fetches s p 2 false → fencePktOk p true = true → right ≠ 0 → (s.fence f).flag = false → calm →
         ((s.fence f).reached (pField p 16 8) = false → Answers (.fenceWait p) s fun t =>
           t.queue p.q = { q with
             read := (q.read + p.size16.toNat) % 2 ^ 32
             wait := some ⟨f, pField p 16 8, if pField p 12 4 = 0 then none
               else some (s.timer + (pField p 12 4 * 384 + 9) / 10), s.nextCmd⟩ }
           ∧ t.nextCmd = s.nextCmd + 1 ∧ (∀ j, j ≠ p.q → t.queue j = s.queue j)
           ∧ (tget? t.cmds s.nextCmd).map (fun x => (x.kind, x.queue, x.ctx, x.index)) = some (.fenceWait, p.q, c, q.read))
         ∧ ((s.fence f).reached (pField p 16 8) = true → q.wait = none → tget? s.cmds s.nextCmd = none →
           Answers (.fenceWait p) s fun t =>
             (t.queue p.q).wait = none ∧ (t.queue p.q).read = (q.read + p.size16.toNat) % 2 ^ 32
             ∧ tget? t.cmds s.nextCmd = none ∧ (∀ k, k ≠ s.nextCmd → tget? t.cmds k = tget? s.cmds k)))
     ∧ (Fetches s p 2 true → rangePktOk p 128 = true →
         let ls := linesInRange s c (pField p 8 8) (pField p 16 8)
         Answers (.flush p) s (fun t => kept t
           ∧ (∀ ln l, ln ∈ ls → tget? t.mem.lines ln = some l → (∃ port off, paKind (ln * 128) = .host port off) → l.dirty = false)
           ∧ (silent → ∀ ln, (tget? t.mem.lines ln).map HostLine.data = (tget? s.mem.lines ln).map HostLine.data))
         ∧ Answers (.invalidate p) s (fun t => kept t
           ∧ (∀ ln ∈ ls, tget? t.mem.lines ln = none ∧ ∀ k, (t.core k).l1Has ln = false)
           ∧ (silent → ∀ ln, ln ∉ ls → tget? t.mem.lines ln = tget? s.mem.lines ln)))
     ∧ (Fetches s p 1 true → Answers (.icacheInvalidate p) s fun t => kept t
         ∧ ∀ e, e ∈ t.mem.icache ↔ e ∈ s.mem.icache ∧ e.ctx ≠ c)
     ∧ (Fetches s p 2 true → rangePktOk p 4096 = true → Answers (.tlbInvalidate p) s fun t => kept t
         ∧ ∀ e, e ∈ t.mem.tlb ↔ e ∈ s.mem.tlb ∧
           ¬ (e.ctx = c ∧ (pField p 16 8 = 0 ∨ (e.va < pField p 8 8 + pField p 16 8 ∧ pField p 8 8 < e.va + e.len)))))
  ∧ (∀ (p : Pkt) (s : State), fetchReady s p.q = true →
         let q := s.queue p.q
         let n := p.size16.toNat
         let bad := raise s ⟨q.ctx, ⟨0x0004, 0x16, 0, false, 0, 0⟩, 0xB1, 0xFF, true, p.q, q.read, p.tag.toNat⟩
         (∀ opcode : BitVec 16, opcode ∉ [0x0000, 0x0001, 0x0002, 0x0003, 0x0010, 0x0011, 0x0020, 0x0021, 0x0022, 0x0023, 0x0030,
             0x0031, 0x0040, 0x0041] → exec (.badPacket p opcode) s = .next bad)
         ∧ (n = 0 ∨ 2 ≤ p.flags.toNat ∨ q.ringBytes / 16 < q.read % (q.ringBytes / 16) + n ∨ (q.last + 2 ^ 32 - q.read) % 2 ^ 32 < n →
           exec (.nopPacket p) s = .next bad ∧ exec (.dispatch p) s = .next bad ∧ exec (.fenceSignal p) s = .next bad
           ∧ exec (.copy p) s = .next bad ∧ exec (.cut p) s = .next bad ∧ exec (.renderPass p) s = .next bad)
         ∧ (n = 1 → exec (.fenceWait p) s = .next bad ∧ exec (.flush p) s = .next bad ∧ exec (.tlbInvalidate p) s = .next bad
           ∧ exec (.fill p) s = .next bad))

/-- Dispatches (R44, R52, R53, R99, R100, R309): the command starts with its program, grid and arguments; the next workgroup
in ascending index goes to the lowest core that can take it, its groups at the program's entry with the lanes below the
thread count active; and the command completes when every workgroup has exited and no store of it is outstanding.

The statement rests in part on readings the model chose, which are no rules of the spec: log entries 35, 111. -/
def Obligations.Dispatches : Prop :=
  (∀ (p : Pkt) (s s1 : State) (pr : Prog),
    let q := s.queue p.q
    let n := pField p 28 1
    Fetches s p (2 + (n + 3) / 4) false → dispatchOk p = true →
    (loadHeader s q.ctx (pField p 8 8) = .ok pr s1 → pr.kind = 0 → pr.preload ≤ n →
      noUnit s1 (s.ctx q.ctx).heritage pr.tensor = none →
      Answers (.dispatch p) s fun t => Consumed s t p ∧ t.nextCmd = s.nextCmd + 1
        ∧ tget? t.cmds s.nextCmd = some { Cmd.base .dispatch p.q q.ctx q.read ((q.read + p.size16.toNat) % 2 ^ 32) p.tag.toNat
            s.maps.gen with
            prog := pr, gridX := pField p 16 4, gridY := pField p 20 4, gridZ := pField p 24 4
            args := (List.range n).map fun i => BitVec.ofNat 32 (pField p (32 + 4 * i) 4) }
        ∧ (∀ k, k ≠ s.nextCmd → tget? t.cmds k = tget? s.cmds k) ∧ (∀ g, t.group g = s.group g))
    ∧ (loadHeader s q.ctx (pField p 8 8) = .bad → exec (.dispatch p) s =
        .next (raise s ⟨q.ctx, ⟨0x0004, 0x0B, 0, false, 0, 0⟩, 0xB1, 0xFF, false, p.q, pField p 8 8, p.tag.toNat⟩)))
  ∧ (∀ (cmd k : Nat) (s : State) (c : Cmd),
    let pl := (s.core k).placement c.prog c.prog.scratchKib (ceilDiv c.prog.threads 32)
    let w : Wg := { Wg.empty with
      live := true, ctx := c.ctx, cmd := cmd, prog := c.prog, threads := c.prog.threads, mapGen := c.mapGen
      idX := c.nextWg % c.gridX, idY := c.nextWg / c.gridX % c.gridY, idZ := c.nextWg / (c.gridX * c.gridY)
      scratchKib := c.prog.scratchKib, scratch := .free s.freeTick, wid := s.sched.nextWid }
    tget? s.cmds cmd = some c → c.kind = .dispatch → c.nextWg < c.total → (s.ctx c.ctx).st = .live →
    firstBelow 48 (mayTake s cmd) = some k →
    Answers (.workgroupResident cmd) s fun t => ∃ slot slots, pl = some (slot, slots)
      ∧ (t.core k).wgAt slot = w ∧ (tget? t.cmds cmd).map Cmd.nextWg = some (c.nextWg + 1)
      ∧ (∀ i gs, slots[i]? = some gs →
          let x := t.group (slotAt k gs)
          x.live = true ∧ x.ctx = c.ctx ∧ x.wg = slot ∧ x.idx = i ∧ x.gid = 32 * s.sched.nextWid + i ∧ x.async = true ∧ x.pc = c.prog.entry ∧ x.stack = []
          ∧ (∀ l, l < 32 → inMask x.active l = decide (32 * i + l < c.prog.threads)) ∧ x.exited = ~~~x.active
          ∧ (∀ r, x.uget r = if r < c.prog.preload then c.args.getD r 0 else 0) ∧ x.vregs = [] ∧ x.preds = [])
      ∧ (∀ j, j ≠ k → (t.core j).groups = (s.core j).groups))
  ∧ (∀ (cmd : Nat) (s : State) (c : Cmd),
    tget? s.cmds cmd = some c → c.kind = .dispatch → c.doneWgs = c.total → (s.ctx c.ctx).st = .live →
    (∀ e ∈ s.cores, ∀ x ∈ e.2.stores, x.cmd ≠ cmd) →
    ∃ u, exec (.commandComplete cmd) s = .next (serveGraphs u)
      ∧ tget? u.cmds cmd = none ∧ (∀ k, k ≠ cmd → tget? u.cmds k = tget? s.cmds k) ∧ u.queues = s.queues
      ∧ u.fences = s.fences ∧ (∀ g, u.group g = s.group g))

/-- COPY and FILL (R300, R315, R351): a command starts for objects that its context may use, its chunks of at most 64 KiB move
in turn, and every byte that a chunk does not reach stays as it was.

The statement rests in part on readings the model chose, which are no rules of the spec: log entries 14, 30. -/
def Obligations.CopyAndFill : Prop :=
  (∀ (p : Pkt) (s : State),
    let q := s.queue p.q
    let fits := fun (o gen off n : Nat) (w : Bool) =>
      (s.obj o).st = .live ∧ (s.obj o).gen = gen ∧ off + n ≤ (s.obj o).size ∧ paReachable s (s.obj o).base = true
      ∧ (if w then 2 else 1) ≤ objRight (s.obj o) (s.ctx q.ctx).tenant
    let starts := fun (c : Instr) (k : CmdKind) (d doff src soff n pat : Nat) => Answers c s fun t =>
      Consumed s t p ∧ tget? t.cmds s.nextCmd = some { Cmd.base k p.q q.ctx q.read ((q.read + p.size16.toNat) % 2 ^ 32)
        p.tag.toNat s.maps.gen with dstObj := d, dstOff := doff, srcObj := src, srcOff := soff, bytes := n, pattern := pat }
      ∧ (∀ k, k ≠ s.nextCmd → tget? t.cmds k = tget? s.cmds k)
    (Fetches s p 3 false → copyOk p = true → fits (pField p 8 2) (pField p 10 2) (pField p 16 8) (pField p 32 8) true →
      fits (pField p 12 2) (pField p 14 2) (pField p 24 8) (pField p 32 8) false →
      starts (.copy p) .copy (pField p 8 2) (pField p 16 8) (pField p 12 2) (pField p 24 8) (pField p 32 8) 0)
    ∧ (Fetches s p 2 false → fillOk p = true → fits (pField p 8 2) (pField p 10 2) (pField p 16 8) (pField p 24 8) true →
      starts (.fill p) .fill (pField p 8 2) (pField p 16 8) 0 0 (pField p 24 8) (pField p 12 4)))
  ∧ (∀ (cmd : Nat) (s : State) (c : Cmd), StateOk s → tget? s.cmds cmd = some c → s.sched.copying = some cmd →
    (s.ctx c.ctx).st = .live → (c.boosted = true ∨ effPrio s c.queue ≠ 8) →
    let n := min 65536 (c.bytes - c.copied)
    let d := (s.obj c.dstObj).base + c.dstOff + c.copied
    let src := (s.obj c.srcObj).base + c.srcOff + c.copied
    d + n ≤ 0x1000000000 →
    Answers (.copyChunkDone cmd) s fun t =>
      (c.kind = .fill → ∀ i, i < n → t.mem.dram.get (d + i) = BitVec.ofNat 8 (c.pattern / 2 ^ (8 * (i % 4))))
      ∧ (c.kind = .copy → c.dstObj ≠ c.srcObj → src + n ≤ 0x1000000000 → (∀ w ∈ s.mem.poison, 8 * w + 8 ≤ src ∨ src + n ≤ 8 * w) →
          ∀ i, i < n → t.mem.dram.get (d + i) = s.mem.dram.get (src + i))
      ∧ ((c.kind = .fill ∨ (c.kind = .copy ∧ src + n ≤ 0x1000000000
            ∧ ∀ w ∈ s.mem.poison, 8 * w + 8 ≤ src ∨ src + n ≤ 8 * w)) →
          (∀ a, a < d ∨ d + n ≤ a → t.mem.dram.get a = s.mem.dram.get a)
          ∧ (tget? t.cmds cmd).map Cmd.copied = some (c.copied + n) ∧ t.queues = s.queues))

/-- The assignment function (R156, R157, R34): the unit order holds each unit of the map once, across the stands before
within a stand; the split factor is the largest power of two that fits; every unit owns ⌊T ÷ n⌋ or ⌈T ÷ n⌉ tiles. -/
def Obligations.UnitAssignment : Prop :=
  (∀ map u : Nat, u ∈ unitOrder map ↔ u < 48 ∧ map.testBit u = true)
  ∧ (∀ map i j : Nat, i < j → j < (unitOrder map).length →
      let a := (unitOrder map).getD i 0
      let b := (unitOrder map).getD j 0
      a % 8 < b % 8 ∨ (a % 8 = b % 8 ∧ a / 8 < b / 8))
  ∧ (∀ t0 m n : Nat, 1 ≤ t0 → 1 ≤ m → n ≤ 48 → n ≤ t0 → splitFactor t0 m n = 1)
  ∧ (∀ t0 m n : Nat, 1 ≤ t0 → 1 ≤ m → t0 < n → n ≤ 48 → ∃ k, splitFactor t0 m n = 2 ^ k ∧ 2 ^ k ≤ m ∧ 2 ^ k * t0 ≤ n
      ∧ (m < 2 ^ (k + 1) ∨ n < 2 ^ (k + 1) * t0))
  ∧ (∀ (map tiles u : Nat), u ∈ unitOrder map →
      let n := (unitOrder map).length
      let own := ((List.range tiles).filter fun t => ownerOf (unitOrder map) t == u).length
      own = tiles / n ∨ own = (tiles + n - 1) / n)

/-- A CUT packet (R153 to R157, R182) whose descriptor passes its checks enters the pass bucked over the map in force; one
that fails them faults with the detail found and the address in place of the program counter, and one with no array of its
map enabled with NO_TENSOR_UNIT.

How a cut ends and begins again (R163, R171, R182), and its weight stream starts (R176).

The places of slab data (R165 to R167): what is read for each stored position of a gathered input slab, and where each
element of a scattered output slab goes.

The statement rests in part on readings the model chose, which are no rules of the spec: log entry 37. -/
def Obligations.CutCommands : Prop :=
  (∀ (p : Pkt) (s s1 : State) (pass : CutPass),
     let q := s.queue p.q
     let n := pField p 16 1
     let desc := pField p 8 8
     let order := unitOrder (s.maps.tensor.toNat &&& (if pass.heritage then 0xFFFF else 2 ^ 48 - 1))
     Fetches s p (2 + (n + 3) / 4) false → n ≤ 48 → pField p 17 15 = 0 →
     (loadCut s q.ctx desc = .ok pass s1 → pass.preload ≤ n → order ≠ [] → q.session = none →
       Answers (.cut p) s fun t => Consumed s t p ∧ t.nextCmd = s.nextCmd + 1
         ∧ (tget? t.cmds s.nextCmd).map (fun c => (c.kind, c.queue, c.ctx, c.index, c.tag)) =
           some (.cut, p.q, q.ctx, q.read, p.tag.toNat)
         ∧ tget? t.cuts s.nextCmd = some { pass with
             order := order, gen := s.maps.gen, split := splitFactor pass.hdr.t0 pass.hdr.splitMax order.length
             segDone := [], combDone := [], session := none, folded := true
             args := (List.range n).map fun i => BitVec.ofNat 32 (pField p (32 + 4 * i) 4) }
         ∧ (∀ g, t.group g = s.group g))
     ∧ (loadCut s q.ctx desc = .ok pass s1 → pass.preload ≤ n → order = [] →
         exec (.cut p) s = .next (raise s1 ⟨q.ctx, ⟨0x0004, 0x10, 0, false, 0, 0⟩, 0xB1, 0xFF, false, p.q, desc, p.tag.toNat⟩))
     ∧ (∀ va d, loadCut s q.ctx desc = .bad va d →
         exec (.cut p) s = .next (raise s ⟨q.ctx, ⟨0x0004, d, 0, false, 0, 0⟩, 0xB1, 0xFF, false, p.q, va, p.tag.toNat⟩)))
  ∧ (∀ (cmd : Nat) (s : State) (p : CutPass), tget? s.cuts cmd = some p → (s.ctx (cmdOf s cmd).ctx).st = .live →
         (p.gen = s.maps.gen → p.allDone = true → p.streamDone = true → p.folded = true →
           (∀ e ∈ s.cores, ∀ x ∈ e.2.stores, x.cmd ≠ cmd) → (tget? s.cmds cmd).isSome = true →
           ∃ u, exec (.cutComplete cmd) s = .next (serveGraphs u) ∧ tget? u.cmds cmd = none ∧ tget? u.cuts cmd = none
             ∧ (∀ k, k ≠ cmd → tget? u.cmds k = tget? s.cmds k ∧ tget? u.cuts k = tget? s.cuts k))
         ∧ (p.gen ≠ s.maps.gen → (∀ e ∈ s.cores, e.2.holder = some cmd → e.2.run = none) → p.session = none →
           let order := unitOrder (s.maps.tensor.toNat &&& (if p.heritage then 0xFFFF else 2 ^ 48 - 1))
           order ≠ [] → Answers (.cutRestart cmd) s fun u =>
             tget? u.cuts cmd = some { p with
               order := order, gen := s.maps.gen, split := splitFactor p.hdr.t0 p.hdr.splitMax order.length
               segDone := [], combDone := [], folded := true }
             ∧ (∀ k, (u.core k).holder ≠ some cmd) ∧ (∀ e ∈ u.sched.saved, e.cmd ≠ cmd)
             ∧ (∀ k ∈ order, s.counter (0x30 + k) 0x150 < 2 ^ 48 - 1 →
                 u.counter (0x30 + k) 0x150 = s.counter (0x30 + k) 0x150 + 1))
         ∧ (∀ w, p.stream = some w → w.started = false →
           (∀ e ∈ s.cuts, e.1 < cmd → (cmdOf s e.1).queue = (cmdOf s cmd).queue → ∀ v, e.2.stream = some v →
             v.staging + v.stagingBytes ≤ w.staging ∨ w.staging + w.stagingBytes ≤ v.staging) →
           Answers (.weightStreamStart cmd) s fun u =>
             tget? u.cuts cmd = some { p with stream := some { w with started := true } }
             ∧ u = { s with cuts := u.cuts } ∧ (∀ k, k ≠ cmd → tget? u.cuts k = tget? s.cuts k)))
  ∧ ((∀ (b : Slab) (h : CutHdr) (gx gy t0 xr yr : Nat), b.mode = 1 → xr < b.resRow → yr < b.rows h → 1 ≤ b.extX → 1 ≤ b.extY →
         let x : Int := ((gx * h.tileX * 2 ^ b.stride : Nat) : Int) - h.haloX + xr
         let y : Int := ((gy * h.tileY * 2 ^ b.stride : Nat) : Int) - h.haloY + yr
         let cx := if x < 0 then 0 else if (b.extX : Int) ≤ x then b.extX - 1 else x.toNat
         let cy := if y < 0 then 0 else if (b.extY : Int) ≤ y then b.extY - 1 else y.toNat
         let inside := 0 ≤ x ∧ x < b.extX ∧ 0 ≤ y ∧ y < b.extY
         (b.reads h gx gy t0)[yr * b.resRow + xr]? =
           some (if xr < h.tileX * 2 ^ b.stride + 2 * h.haloX ∧ (inside ∨ b.pad ≠ 0)
             then some (b.va + cy * b.rowPitch + cx * b.pixelPitch) else none, b.channels * b.elem))
       ∧ (∀ (b : Slab) (h : CutHdr) (gx gy gz t0 a : Nat) (offs : List Nat), b.mode = 3 ∨ b.mode = 4 → 1 ≤ h.tileX →
         ((a, offs) ∈ b.runs h gx gy gz t0 ↔ ∃ xr yr, xr < h.tileX ∧ yr < h.tileY
           ∧ gx * h.tileX + xr < h.outX ∧ gy * h.tileY + yr < h.outY
           ∧ a = b.va + (gy * h.tileY + yr) * b.rowPitch + (gx * h.tileX + xr) * b.pixelPitch + gz * h.tileZ * b.elem
           ∧ offs = (List.range (min b.channels (h.outZ - gz * h.tileZ))).flatMap fun c => (List.range b.elem).map fun i =>
               if b.mode = 3 then b.resOff + (yr * b.resRow + xr) * b.channels * b.elem + c * b.elem + i
               else b.resOff + ((yr * b.resRow + xr) / 32 * (b.channels / 32) + c / 32) * 1024 * b.elem
                 + (yr * b.resRow + xr) % 32 * 32 * b.elem + c % 32 * b.elem + i))
       ∧ (∀ (b : Slab) (h : CutHdr) (gx gy gz t0 : Nat), b.mode = 0 →
         b.reads h gx gy t0 = [(some (b.va + t0 * b.rowPitch), b.copyBytes)]
         ∧ b.runs h gx gy gz t0 = [(b.va + t0 * b.rowPitch, (List.range b.copyBytes).map (b.resOff + ·))]))

/-- The tiles of a cut on their owners (R158 to R160, R165 to R172): a tile starts on the core that the assignment names, its
slabs load, the DOUBLE slabs of the tile after it while its stages run (R169), its moves and stages run in order, its outputs or its partial block are stored.

The statement rests in part on readings the model chose, which are no rules of the spec: log entry 36. -/
def Obligations.CutTiles : Prop :=
  ∀ (core : Nat) (s : State),
    let c := s.core core
    (∀ cmd p t combine, tget? s.cuts cmd = some p → p.gen = s.maps.gen → tileMay s core cmd true = true →
      p.nextTile core = some (t, combine) →
      (c.holder = some cmd ∨ (c.holder = none ∧ p.hdr.reserveKib + p.hdr.scratchKib ≤ c.scratchFree)) →
      let begun := fun (u : State) => (u.core core).run = some ⟨cmd, t, combine, p.firstStep combine⟩
        ∧ (u.core core).holder = some cmd
        ∧ (c.holder = none → (u.core core).reserved = p.hdr.reserveKib * 1024 ∧ (u.core core).holdKib = p.hdr.scratchKib)
        ∧ (∀ k, k ≠ core → (u.core k).groups = (s.core k).groups)
      (combine = false → Answers (.cutTileStart core cmd) s begun ∧ t % p.order.length = posOf core p.order ∧ t < p.hdr.t0 * p.split)
      ∧ (combine = true → Answers (.combineTileStart core cmd) s begun))
    ∧ (∀ r p, tileRun s core = some (r, p) →
      let ctx := (cmdOf s r.cmd).ctx
      let t0 := if r.combine then r.tile else r.tile / p.split
      let next := fun (u : State) (done : TileStep) => ∀ st, p.after r.combine done = some st →
        (u.core core).run = some { r with step := st }
      let half := fun (b : Slab) (odd : Bool) => b.resOff + if b.double && odd then b.bytes p.hdr else 0
      let filled := fun (u : State) (at_ : Nat) (bs : List Byte) =>
        (∀ k, k < bs.length → (u.core core).tile.get (at_ + k) = byteAt bs k)
        ∧ (∀ a, a < at_ ∨ at_ + bs.length ≤ a → (u.core core).tile.get a = c.tile.get a) ∧ u.mem.dram = s.mem.dram
      (∀ i b, r.step = .load i → r.combine = false → p.inSlabs[i]? = some b →
        (∀ bs s1, i ∉ c.ahead → readRuns s ctx (b.reads p.hdr (t0 % p.hdr.gx) (t0 / p.hdr.gx % p.hdr.gy) t0) = .ok (bs, s1) →
          Answers (.tileEngineTransferDone core false) s fun u => filled u (half b c.odd) bs ∧ next u (.load i))
        ∧ (i ∈ c.ahead → Answers (.tileEngineTransferDone core false) s fun u =>
            (u.core core).tile = c.tile ∧ i ∉ (u.core core).ahead ∧ next u (.load i)))
      ∧ (∀ i b n w bs s1, r.step = .stage n w → r.combine = false → r.tile + p.order.length < p.hdr.t0 * p.split → c.ahead = [] →
        p.inSlabs[i]? = some b → b.double = true → (∀ j x, j < i → p.inSlabs[j]? = some x → x.double = false) →
        i < p.hdr.ins →
        let t1 := (r.tile + p.order.length) / p.split
        readRuns s ctx (b.reads p.hdr (t1 % p.hdr.gx) (t1 / p.hdr.gx % p.hdr.gy) t1) = .ok (bs, s1) →
        Answers (.tileEngineTransferDone core true) s fun u => filled u (half b (!c.odd)) bs ∧ (u.core core).ahead = [i]
          ∧ (u.core core).run = c.run)
      ∧ (∀ i bs s1, r.step = .load i → r.combine = true →
        vread s ctx (p.hdr.partialArea + (t0 * p.split + i) * p.hdr.partBytes) p.hdr.partBytes = .ok (bs, s1) →
        Answers (.tileEngineTransferDone core false) s fun u =>
          (∀ k, k < bs.length → (u.core core).tile.get (i * p.hdr.partBytes + k) = byteAt bs k) ∧ next u (.load i))
      ∧ (∀ m i mv bs s1 s2, r.step = .move m i → (p.stages.getD m (.empty, [])).2[i]? = some mv → mv.fill = true →
        let va := p.hdr.spillArea + core * p.hdr.spillBytes + mv.spillOff
        vcheck s ctx va mv.bytes false = .ok s1 → vread s1 ctx va mv.bytes = .ok (bs, s2) →
        Answers (.tileEngineTransferDone core false) s fun u =>
          (∀ k, k < bs.length → (if tileSpace mv.tileAddr = 0 then (u.core core).tile else (u.core core).scratch).get
            (tileOff mv.tileAddr + k) = byteAt bs k) ∧ next u (.move m i))
      ∧ (∀ m i mv s1, r.step = .move m i → (p.stages.getD m (.empty, [])).2[i]? = some mv → mv.fill = false → c.badTile = [] →
        let va := p.hdr.spillArea + core * p.hdr.spillBytes + mv.spillOff
        let bs := (if tileSpace mv.tileAddr = 0 then c.tile else c.scratch).read (tileOff mv.tileAddr) mv.bytes
        vcheck s ctx va mv.bytes true = .ok s1 → (vwrite s1 ctx va bs).2 = none →
        Answers (.tileEngineTransferDone core false) s fun u =>
          u.mem.dram = (vwrite s1 ctx va bs).1.mem.dram ∧ (u.core core).tile = c.tile ∧ (u.core core).scratch = c.scratch
          ∧ next u (.move m i))
      ∧ (∀ i b, r.step = .store i → p.outSlabs[i]? = some b → c.badTile = [] →
        let w := writeRuns s ctx c.tile.get
          (b.runs p.hdr (t0 % p.hdr.gx) (t0 / p.hdr.gx % p.hdr.gy) (t0 / (p.hdr.gx * p.hdr.gy)) t0)
        w.2 = none → Answers (.tileEngineTransferDone core false) s fun u => next u (.store i)
          ∧ ((p.after r.combine (.store i)).isSome = true → u.mem.dram = w.1.mem.dram ∧ (u.core core).tile = c.tile)
          ∧ (p.after r.combine (.store i) = none → (u.core core).run = none))
      ∧ (∀ s1, r.step = .part → c.badTile = [] →
        let va := p.hdr.partialArea + r.tile * p.hdr.partBytes
        let bs := c.tile.read p.hdr.partOff p.hdr.partBytes
        vcheck s ctx va p.hdr.partBytes true = .ok s1 → (vwrite s1 ctx va bs).2 = none →
        Answers (.tileEngineTransferDone core false) s fun u => (u.core core).run = none
          ∧ (tget? u.cuts r.cmd).map (fun x => tget x.segDone core 0) =
            (if r.combine then (tget? u.cuts r.cmd).map (fun x => tget x.segDone core 0) else some (tget p.segDone core 0 + 1)))
      ∧ (∀ n slot slots, r.step = .stage n false →
        let prog := if r.combine then p.combine.getD .empty else (p.stages.getD n (.empty, [])).1
        c.placement prog 0 (ceilDiv prog.threads 32) = some (slot, slots) →
        Answers (.stageStart core) s fun u =>
          let w := (u.core core).wgAt slot
          (u.core core).run = some { r with step := .stage n true }
          ∧ w.live = true ∧ w.stage = true ∧ w.cmd = r.cmd ∧ w.prog = prog ∧ w.scratch = c.scratch ∧ w.tileIndex = r.tile
          ∧ w.mapGen = p.gen ∧ w.idX = 0 ∧ w.idY = 0 ∧ w.idZ = 0
          ∧ w.tileX = t0 % p.hdr.gx + t0 / (p.hdr.gx * p.hdr.gy) * 2 ^ 16
          ∧ w.tileY = t0 / p.hdr.gx % p.hdr.gy + (if r.combine then 0xFF else r.tile % p.split) * 2 ^ 16
              + Nat.log2 p.split * 2 ^ 24
          ∧ (∀ i gs, slots[i]? = some gs → ((u.core core).group gs).live = true ∧ ((u.core core).group gs).idx = i
              ∧ ((u.core core).group gs).pc = prog.entry ∧ ((u.core core).group gs).async = false)))

/-- Ringmark sessions (R188 to R196, R203): the open, the digests of its items in chunks of 1 MiB, the folds of flagged cuts,
and the record at the close.

The statement rests in part on readings the model chose, which are no rules of the spec: log entry 43. -/
def Obligations.RingmarkSessions : Prop :=
  (∀ (p : Pkt) (s s1 s2 s3 s4 : State) (hb ib : List Byte) (n record : Nat) (items : List RingItem),
    let q := s.queue p.q
    let desc := pField p 8 8
    Fetches s p 1 true →
    (q.session.isSome = true → exec (.ringmarkOpen p) s =
      .next (raise s ⟨q.ctx, ⟨0x0004, 0x11, 0, false, 0, 0⟩, 0xB1, 0xFF, false, p.q, desc, p.tag.toNat⟩))
    ∧ (q.session = none → vread s q.ctx desc 32 = .ok (hb, s1) → sessionHead hb = some (n, record) →
      vread s1 q.ctx (desc + 32) (16 * n) = .ok (ib, s2) → (chunksOf 16 ib).mapM sessionItem = some items →
      checkItems s2 q.ctx items = .ok s3 → vcheck s3 q.ctx record 256 true = .ok s4 →
      Answers (.ringmarkOpen p) s fun t =>
        tget? t.sessions s.nextCmd = some ⟨p.q, q.ctx, desc, (s.ctx q.ctx).heritage, record, s.boot.kreogVersion,
          s.boot.kreogBuild, items, [], [], 0, 0, [], 0, 0, []⟩
        ∧ (t.queue p.q).session = some s.nextCmd ∧ (t.queue p.q).read = (q.read + p.size16.toNat) % 2 ^ 32
        ∧ (tget? t.cmds s.nextCmd).map (fun c => (c.kind, c.queue)) = some (.ringOpen, p.q)))
  ∧ (∀ (lane : Nat) (s s1 : State) (j : ChunkJob) (x : Session) (bs : List Byte),
    tget? s.lanes lane = some j → (∀ l, l < 8 → (tget? s.lanes l).isSome = true) → tget? s.sessions j.session = some x →
    (s.ctx x.ctx).st = .live →
    readRuns (bulkServed { s with lanes := tdrop s.lanes (· == lane) } 12) x.ctx (chunkRuns s x j) = .ok (bs, s1) →
    Answers (.digestChunkDone lane) s fun t => ∃ y, tget? t.sessions j.session = some y
      ∧ y.hashed = x.hashed + bs.length
      ∧ (j.cut = none → y = { x with hashed := y.hashed, leaves := tset x.leaves (j.item * 4096 + j.chunk) (sha256 bs) })
      ∧ (∀ c, j.cut = some c → y = { x with
          hashed := y.hashed, foldLeaves := tset x.foldLeaves (foldKey c j.item j.chunk) (sha256 bs) }))
  ∧ (∀ (cmd : Nat) (s : State) (c : Cmd) (x : Session), tget? s.cmds cmd = some c → tget? s.sessions cmd = some x →
    c.kind = .ringOpen → (s.ctx c.ctx).st = .live →
    (∀ i, i < x.items.length → (x.itemDigest i).isSome = true) →
    Answers (.itemDigestsDone cmd) s fun t => tget? t.cmds cmd = none ∧ t.sessions = s.sessions ∧ t.queues = s.queues)
  ∧ (∀ (cmd i ord : Nat) (s : State) (p : CutPass) (x : Session) (ds : List (List Byte)),
    tget? s.cuts cmd = some p → p.session = some (i, ord) → tget? s.sessions i = some x → (s.ctx x.ctx).st = .live →
    p.folded = false → p.gen = s.maps.gen → p.allDone = true → foldDigests cmd p x = some ds →
    Answers (.ringmarkFoldDone cmd) s fun t =>
      tget? t.cuts cmd = some { p with folded := true }
      ∧ tget? t.sessions i = some { x with
          folds := x.folds ++ ((List.range ds.length).zip ds).map fun d => (ord, d.1, d.2)
          foldedCuts := x.foldedCuts + 1, foldLeaves := dropFold x.foldLeaves cmd }
      ∧ t = { s with cuts := t.cuts, sessions := t.sessions })
  ∧ (∀ (p : Pkt) (s : State), Fetches s p 1 true → (s.queue p.q).session = none →
    exec (.ringmarkClose p) s = .next (serveGraphs
      (raise s ⟨(s.queue p.q).ctx, ⟨0x0004, 0x11, 0, false, 0, 0⟩, 0xB1, 0xFF, false, p.q, 0, p.tag.toNat⟩)))
  ∧ (∀ (p : Pkt) (s s1 : State) (i : Nat) (x : Session), Fetches s p 1 true →
    (s.queue p.q).session = some i → tget? s.sessions i = some x → vcheck s (s.queue p.q).ctx x.record 256 true = .ok s1 →
    let y := if x.maps = [] then { x with maps := [⟨(sessionMaps s x.heritage).1, (sessionMaps s x.heritage).2, 0⟩] } else x
    ∃ u, exec (.ringmarkClose p) s = .next (serveGraphs u) ∧ tget? u.sessions i = none ∧ (u.queue p.q).session = none
      ∧ (u.queue p.q).read = ((s.queue p.q).read + p.size16.toNat) % 2 ^ 32
      ∧ ((vwrite s1 (s.queue p.q).ctx x.record (y.recordBytes s false)).2 = none → (s.queue p.q).repObj = 0 →
          (s.obj 0).st = .free →
          u.mem.dram = (vwrite s1 (s.queue p.q).ctx x.record (y.recordBytes s false)).1.mem.dram))

/-- The front end and the binners of a render pass (R205 to R212, R215): the pass enters over the map in force; a batch is
binned, its survivors on the lists of exactly the tiles they cover; attribute groups, shading and a flush round begin.

The tiles of a render pass on their owners (R207, R209, R220 to R227, R229): start, commit of a fragment, end, completion;
a fragment writes nothing outside the samples of its pixel, and the rows that STORE writes are those of R226.

The statement rests in part on readings the model chose, which are no rules of the spec: log entries 39 to 41, 112, 144. -/
def Obligations.RenderPasses : Prop :=
  ((∀ (p : Pkt) (s s1 : State) (r : RenderPass),
     let q := s.queue p.q
     let desc := pField p 8 8
     let order := unitOrder (s.maps.core.toNat &&& (if (s.ctx q.ctx).heritage then 0xFFFF else 2 ^ 48 - 1))
     Fetches s p 1 false →
     (loadPass s q.ctx desc = .ok r s1 → order ≠ [] →
       Answers (.renderPass p) s fun t => Consumed s t p ∧ t.nextCmd = s.nextCmd + 1
         ∧ tget? t.renders s.nextCmd = some { r with order := order, gen := s.maps.gen }
         ∧ (tget? t.cmds s.nextCmd).map (fun c => (c.kind, c.queue, c.ctx, c.index, c.tag)) =
           some (.render, p.q, q.ctx, q.read, p.tag.toNat)
         ∧ (∀ g, t.group g = s.group g))
     ∧ (∀ va d, loadPass s q.ctx desc = .bad va d →
         exec (.renderPass p) s = .next (raise s ⟨q.ctx, ⟨0x0004, d, 0, false, 0, 0⟩, 0xB1, 0xFF, false, p.q, va, p.tag.toNat⟩)))
   ∧ (∀ (s s1 : State) (c : Nat) (r r1 : RenderPass), binPrim s c r = .ok s1 r1 →
     let pos := r.primBase r.binDraw + r.binPrim
     let word := pos / 256 * 2 ^ 40 + pos % 256 * 2 ^ 32 + r.binDraw * 2 ^ 16
     let list := fun (r : RenderPass) (k : Nat) => (tget r.lists k ⟨0, 0, []⟩).entries
     r1.binPrim = r.binPrim + 1 ∧ r1.binDraw = r.binDraw
     ∧ (r1.lists = r.lists ∨ ∃ vs, vs.length = (primElems (r.draw r.binDraw).topology r.binPrim).length
         ∧ culled r.hdr (r.draw r.binDraw).topology (r.stateOf r.binDraw) vs = false
         ∧ ∀ t b, b < 2 → list r1 (2 * t + b) =
           (if b = pos / 256 % 2 ∧ t ∈ coveredTiles r.hdr (shapeOf r.hdr (r.draw r.binDraw).topology vs)
            then list r (2 * t + b) ++ [word] else list r (2 * t + b))))
   ∧ (∀ (cmd : Nat) (s : State) (r : RenderPass), tget? s.renders cmd = some r → (s.ctx (cmdOf s cmd).ctx).st = .live →
     (∀ s1 r1, binReady s cmd r = true →
       binStopped s cmd = false → binnerMay s cmd r = true →
       (r.binDraw ≠ 0 ∨ r.binPrim ≠ 0 ∨ r.rounds ≠ 0) → binBatch 256 s (cmdOf s cmd).ctx r = .ok s1 r1 →
       Answers (.drawBinning cmd) s fun t => tget? t.renders cmd = some (nextDraw r1) ∧ t.mem.dram = s1.mem.dram
         ∧ (∀ k, k ≠ cmd → tget? t.renders k = tget? s1.renders k))
     ∧ (∀ d, d < r.binDraw → (r.draw d).attr.isSome = true → d ∉ r.attrReady →
       exec (.attributePhaseStart cmd d) s =
         .next { s with renders := tset s.renders cmd { r with attrReady := r.attrReady ++ [d] } })
     ∧ (r.shading = false → r.flushing = false → r.binDraw = r.draws.length → attrsDone s cmd r = true →
       exec (.tileShadingStart cmd) s = .next { s with renders := tset s.renders cmd { r with shading := true, finished := [] } })
     ∧ (∀ s1, r.flushing = true → (∀ t ∈ r.roundTiles, t ∈ r.finished) →
       vwrite s (cmdOf s cmd).ctx r.hdr.listArea (List.replicate (r.hdr.tiles * 16) 0) = (s1, none) →
       exec (.binningResume cmd) s = .next { s1 with renders := tset s1.renders cmd { r with
         flushing := false, rounds := r.rounds + 1, lists := [], pool := 0, finished := [] } })))
  ∧ ((∀ (core cmd t n : Nat) (s s1 s2 : State) (r : RenderPass) (m : TMem) (ps : List Prim),
         tget? s.renders cmd = some r → (s.ctx (cmdOf s cmd).ctx).st = .live → r.gen = s.maps.gen → r.order ≠ [] →
         tilesReady s cmd r = true → tileMay s core cmd false = true → (s.core core).holder = some cmd →
         r.nextTile s cmd core = some t → tileContent s (cmdOf s cmd).ctx r t = .ok (s1, m, n) →
         setupPrims s1 (cmdOf s cmd).ctx r (r.entries t) = .ok (ps, s2) →
         Answers (.renderTileStart core cmd) s fun u =>
           ownerOf r.order t = core ∧ t ∉ r.finished ∧ (u.core core).holder = some cmd
           ∧ (∃ run, (u.core core).raster = some run ∧ run.cmd = cmd ∧ run.tile = t ∧ run.prims = ps
             ∧ (ps = [] → run.frags = [] ∧ run.waiting = []))
           ∧ (ps = [] → (u.core core).tile = m) ∧ (∀ k, k ≠ core → (u.core k).raster = (s.core k).raster))
       ∧ (∀ (core k : Nat) (s : State) (r : RenderPass) (run : RasterRun) (f : PendFrag) (o : FragOut),
         let c := s.core core
         let p := run.prims.getD f.prim ⟨0, 0, 0, true, [], []⟩
         c.raster = some run → tget? s.renders run.cmd = some r → (s.ctx (cmdOf s run.cmd).ctx).st = .live →
         run.frags[k]? = some f → run.waiting = [] → fragResult c f = some o → run.cmd ∉ c.saving → c.badTile = [] →
         (∀ g ∈ run.frags, g.x = f.x → g.y = f.y → f.prim ≤ g.prim) →
         Answers (.fragmentCommit core k) s fun u =>
           let cover := match tget? o (0xE * 8) with
             | some m => f.cover &&& m.toNat
             | none => f.cover
           let tested := if f.tested then (cover, c) else testFrag c r p f.x f.y cover ((tget? o (8 * 8)).map BitVec.toNat)
           (u.core core).raster = some { run with frags := run.frags.eraseIdx k }
           ∧ (u.core core).tile = (writeOuts tested.2 r p f.x f.y tested.1 o).1.tile
           ∧ (∀ a, (∀ pl ∈ r.places, ∀ i, i < r.hdr.samples → a < sampleAddr r.hdr pl f.x f.y i ∨
               sampleAddr r.hdr pl f.x f.y i + fmtBytes pl.2.format ≤ a) → (u.core core).tile.get a = c.tile.get a)
           ∧ u.mem.dram = s.mem.dram)
       ∧ (∀ (r : RenderPass) (t : Nat) (pl : Nat × Attach) (va : Nat) (offs : List Nat),
         (va, offs) ∈ storeRuns r t pl ↔ ∃ j, j < r.hdr.tileH ∧
           let x := t % r.hdr.gx * r.hdr.tileW
           let y := t / r.hdr.gx * r.hdr.tileH + j
           let e := fmtBytes pl.2.format * r.hdr.samples
           y < r.hdr.height ∧ va = pl.2.storeVa + y * pl.2.pitch + x * e
           ∧ offs = (List.range (min r.hdr.tileW (r.hdr.width - x) * e)).map fun i => sampleAddr r.hdr pl x y 0 + i)
       ∧ (∀ (core : Nat) (s : State) (r : RenderPass) (run : RasterRun),
         let c := s.core core
         c.raster = some run → tget? s.renders run.cmd = some r → (s.ctx (cmdOf s run.cmd).ctx).st = .live →
         run.waiting = [] → run.frags = [] → run.cmd ∉ c.saving → c.badTile = [] →
         (∀ e ∈ c.wgs, e.2.live = true → e.2.cmd ≠ run.cmd) →
         let w := writeRows s (cmdOf s run.cmd).ctx (tileStores c r run.tile)
         w.2 = none → Answers (.renderTileEnd core) s fun u =>
           (u.core core).raster = none
           ∧ tget? u.renders run.cmd = some { r with
               finished := r.finished ++ [run.tile]
               flushed := if r.flushing && !r.flushed.contains run.tile then r.flushed ++ [run.tile] else r.flushed }
           ∧ (s.sched.preempts = [] → u.mem.dram = w.1.mem.dram))
       ∧ (∀ (cmd : Nat) (s : State) (r : RenderPass), tget? s.renders cmd = some r → (s.ctx (cmdOf s cmd).ctx).st = .live →
         r.shading = true → (∀ t ∈ r.roundTiles, t ∈ r.finished) → tilesBusy s cmd = [] →
         (∀ e ∈ s.cores, ∀ x ∈ e.2.stores, x.cmd ≠ cmd) →
         Answers (.renderPassComplete cmd) s fun u => tget? u.cmds cmd = none
           ∧ (∀ k, (u.core k).holder ≠ some cmd) ∧ (∀ k, k ≠ cmd → tget? u.cmds k = tget? s.cmds k)
           ∧ ((tget? s.cmds cmd).isSome = true → tget? u.renders cmd = none)))

/-- What a decoder accepts and keeps (R381 to R386): a header as Table 12.1 limits it; a block that does not fail gives exactly
OUT_BYTES bytes whose check with pre-image matches; dictionary entries stay 2 to 16 bytes long and at most 4,096. -/
def Obligations.ChipperStreams : Prop :=
  (∀ (b : List Byte) (h : BlockHdr), blockHdr b = some h →
    fieldAt b 0 2 = 0x4332 ∧ fieldAt b 2 1 = 2 ∧ h.flags < 8 ∧ h.flags = fieldAt b 3 1 ∧ h.out = fieldAt b 4 4
    ∧ h.payload = fieldAt b 8 4 ∧ h.check = fieldAt b 12 4 ∧ h.out ≤ 262144
    ∧ (if h.flags.testBit 2 = true then h.payload = h.out else 1 ≤ h.out ∧ 1 ≤ h.payload ∧ h.payload ≤ 294914))
  ∧ (∀ (s : State) (l : Loc) (t : Strm) (h : BlockHdr) (pl : List Byte), pl.length = h.payload → (h.stored = true → h.payload = h.out) →
    let good := fun (x : Strm) => x.dict.length ≤ 4096 ∧ (∀ e ∈ x.dict, 2 ≤ e.length ∧ e.length ≤ 16)
      ∧ (∀ q, x.prev = some q → 1 ≤ q.length ∧ q.length ≤ 16)
    let r := decodeBlock s l t h pl
    (good t → r.fail = none → good r.strm ∧ r.bytes.length = h.out ∧ crcCheck 0 t.off t.block 0 r.bytes = h.check
      ∧ r.strm.off = t.off + h.out ∧ r.strm.block = (t.block + 1) % 2 ^ 32)
    ∧ (h.stored = true → r.bytes = pl ∧ (r.fail = none ∨ r.fail = some (.code 0x13 2))
        ∧ (r.fail = none → r.strm.prev = none ∧ r.strm.dict = if h.reset then [] else t.dict)))
  ∧ (∀ (t : Strm) (p : List Byte), (t.after p).prev = some (p.take 16) ∧ (t.after p).dict =
      (match t.prev with
      | some q => if q.length ≤ 15 ∧ t.dict.length < 4096 then t.dict ++ [q ++ p.take 1] else t.dict
      | none => t.dict))

/-- Blaze unit contexts in DIRECT mode (R397 to R400, Table 12.9), for their grantee: START loads INIT and folds the pre-image
in, feeds fold their bytes in; an attached context discards a write and logs it with kind 0xB, BYTES 0 or 8 with kind 0x1. -/
def Obligations.CheckValues : Prop :=
  ∀ (a : Access) (c t : Nat) (s : State), accUp s a = true → tget? s.blazeGrants c = some t → accTenant s a = some t →
    let b := s.bz c
    let p := b.ctl.toNat % 2
    let ones := (accOnes a).toNat
    let init := if p = 0 then 2 ^ 32 - 1 else 2 ^ 64 - 1
    let old := b.running.toNat % (if p = 0 then 2 ^ 32 else 2 ^ 64)
    let only := fun (u : State) (run : Nat) => u.bz c = { b with running := BitVec.ofNat 64 run } ∧ (∀ k, k ≠ c → u.bz k = s.bz k)
      ∧ u.mem.dram = s.mem.dram ∧ u.engCtxs = s.engCtxs ∧ u.engines = s.engines
    (b.attached.isSome = true →
      exec (.start a c) s = .next (accLog s a t 0xB (0x6100028 + 0x1000 * c))
      ∧ exec (.bzFeed a c) s = .next (accLog s a t 0xB (0x6100030 + 0x1000 * c))
      ∧ exec (.bzFeedPart a c) s = .next (accLog s a t 0xB (0x6100038 + 0x1000 * c)))
    ∧ (b.attached = none →
      (ones % 2 = 1 → Answers (.start a c) s fun u => only u (if b.ctl.getLsbD 3
          then crcFold p init (preImage b.address.toNat (if b.ctl.getLsbD 2 then b.seq.toNat % 2 ^ 32 else 0) (b.seq.toNat / 2 ^ 32))
          else init))
      ∧ Answers (.bzFeed a c) s (fun u => only u (crcFold p old (leBytes 8 ones)))
      ∧ (let n := ones / 2 ^ 56 % 16
        (1 ≤ n → n ≤ 7 → Answers (.bzFeedPart a c) s fun u => only u (crcFold p old (leBytes n ones)))
        ∧ (n = 0 ∨ 8 ≤ n → exec (.bzFeedPart a c) s = .next (accLog s a t 0x1 (0x6100038 + 0x1000 * c)))))

/-- Chipper jobs and weight segments (R177, R387 to R395): GO, one block of a job of each mode, its completion, a block of a
segment, and the stream fence after a segment.

The statement rests in part on readings the model chose, which are no rules of the spec: log entries 44, 141. -/
def Obligations.ChipperWork : Prop :=
  (∀ (a : Access) (c t ctx : Nat) (s : State), accUp s a = true → tget? s.chipGrants c = some (t, ctx) →
    accTenant s a = some t → (accOnes a).getLsbD 0 = true →
    let x := s.engCtx c
    let bad := x.job.isSome = true ∨ x.fieldsOk = false ∨ x.continueOk = false ∨ (x.blazeEn = true ∧ bzFree s t x.blazeCtx = false)
    (bad → exec (.chGo a c) s = .next
      (accLog { s with engCtxs := tset s.engCtxs c { x with result := 2 } } a t 0xA (0x5100038 + 0x1000 * c)))
    ∧ (¬bad → Answers (.chGo a c) s fun u => ∃ j, (u.engCtx c).job = some j ∧ j.mode = x.ctl.toNat % 4
        ∧ j.src = x.src.toNat % 2 ^ 48 ∧ j.dst = x.dst.toNat % 2 ^ 48 ∧ j.srcBytes = x.len.toNat % 2 ^ 32
        ∧ j.limit = x.len.toNat / 2 ^ 32 ∧ j.pos = 0 ∧ j.out = 0 ∧ j.finished = false ∧ j.xfer = none
        ∧ j.area = x.state.toNat / 2 ^ 12 % 2 ^ 36 * 2 ^ 12
        ∧ (x.ctl.getLsbD 2 = false → j.strm = { Strm.fresh j.mode with pieces := j.strm.pieces }) ∧ (∀ k, k ≠ c → u.engCtx k = s.engCtx k)
        ∧ (x.blazeEn = true → (u.bz x.blazeCtx).attached = some c) ∧ u.mem = s.mem))
  ∧ (∀ (e c : Nat) (s : State) (j : EngJob), e < 4 → domainOn s (0x80 + e) = true → (s.eng e).seg = none →
    nextSegment s e = none → nextJob s e = some c → (s.eng e).cur = none → (s.engCtx c).job = some j →
    j.load = false →
    let ctx := boundCtx s c
    let s1 := putJob (bulkServed (setEng s e { s.eng e with last := c % 4, cur := some c }) (10 + e / 2)) c
      { j with suspended := false }
    let done := fun (u : State) (k : EngJob) (strm : Strm) (opened : Bool) => k.drained = false →
      (u.engCtx c).job = some { k with strm := strm, opened := opened } ∧ (u.engCtx c).outBytes = k.out
    (∀ bs s2 j2 s3 j3, j.mode = 2 → jobTake s1 e ctx { j with suspended := false } j.block = (s2, .ok (bs, j2)) →
      jobWrite s2 e ctx j2 bs = (s3, j3, none) →
      Answers (.chipperBlock e) s fun u => done u j3 j2.strm true ∧ (j3.drained = false → u.mem = s3.mem))
    ∧ (∀ bs s2 j2, j.mode = 1 → jobTake s1 e ctx { j with suspended := false } j.block = (s2, .ok (bs, j2)) →
      let last := j2.ends && j2.drained
      let enc := encodeBlock j2.strm j2.block last bs
      let r := decodeBlock s2 (j2.srcLoc ctx) j2.strm enc.1 enc.2
      (∀ s3 j3, r.fail = none → r.bytes = bs →
        jobWrite r.s e ctx j2 (hdrBytes enc.1 ++ enc.2) = (s3, j3, none) →
        Answers (.chipperBlock e) s fun u => done u j3 r.strm (!last) ∧ (j3.drained = false → u.mem = s3.mem))
      ∧ ((∃ k d, r.fail = some (.code k d)) ∨ (r.fail = none ∧ r.bytes ≠ bs) → j2.fence = none → j2.report = true → j2.xfer = none → j2.blaze = none →
        Answers (.chipperBlock e) s fun u => (u.engCtx c).result = 3 ∧ (u.engCtx c).code = 0x13 ∧ (u.engCtx c).detail = 1
          ∧ (u.engCtx c).job = none ∧ (u.engCtx c).stream = none ∧ u.mem.dram = r.s.mem.dram))
    ∧ (∀ hb s2 j2 h pl s3 j3 s4 j4, j.mode = 0 → jobTake s1 e ctx { j with suspended := false } 16 = (s2, .ok (hb, j2)) →
      hb.length = 16 → blockHdr hb = some h → jobTake s2 e ctx j2 h.payload = (s3, .ok (pl, j3)) → pl.length = h.payload →
      let r := decodeBlock s3 (j2.dstLoc ctx) j2.strm h pl
      r.fail = none → jobWrite (bump (bumpBy r.s (0x80 + e) 0x128 r.far) (0x80 + e) 0x110) e ctx j3 r.bytes = (s4, j4, none) →
      h.last = false →
      Answers (.chipperBlock e) s fun u => done u j4 r.strm true ∧ (j4.drained = false → u.mem = s4.mem)))
  ∧ (∀ (c : Nat) (s : State) (j : EngJob), (s.engCtx c).job = some j → j.finished = true → j.xfer = none →
    j.opened = false ∨ j.mode = 2 →
    let u := detachBz { s with engCtxs := tset s.engCtxs c { s.engCtx c with
      result := 1, job := none, stream := if j.mode = 2 then (s.engCtx c).stream else none } } j.blaze
    (j.fence = none → exec (.chipperJobComplete c) s = .next u)
    ∧ (∀ f, j.fence = some f → exec (.chipperJobComplete c) s = .next
        (settle [.devSignal (.tenant (chTenant s c)) (chTenant s c) (some (boundCtx s c)) f (BitVec.ofNat 64 j.value)] u)))
  ∧ (∀ (e : Nat) (s sh sp s3 : State) (r : SegRun) (p : CutPass) (w : Stream) (g : Segment) (hb pl : List Byte) (h : BlockHdr),
    let ctx := (cmdOf s r.cut).ctx
    let b := decodeBlock (bumpBy sp (0x80 + e) 0x100 h.payload) (.virt ctx) r.strm h pl
    let pos := r.pos + 16 + h.payload
    e < 4 → domainOn s (0x80 + e) = true → (s.eng e).seg = some r → segOf s r = some (p, w, g) → r.finished = false →
    pos ≤ g.srcBytes → vread s ctx (g.src + r.pos) 16 = .ok (hb, sh) → blockHdr hb = some h →
    vread (bumpBy sh (0x80 + e) 0x100 16) ctx (g.src + r.pos + 16) h.payload = .ok (pl, sp) → b.fail = none → b.strm.off ≤ g.dstBytes →
    (h.last = true → pos = g.srcBytes ∧ b.strm.off = g.dstBytes) →
    vwriteStream (bumpBy b.s (0x80 + e) 0x128 b.far) ctx (w.staging + g.dstOff + r.strm.off) (b.bytes.take (g.dstBytes - r.strm.off)) = (s3, none) →
    Answers (.chipperBlock e) s fun u => u.mem.dram = s3.mem.dram
      ∧ (u.eng e).seg = some { r with strm := b.strm, pos := pos, finished := h.last })
  ∧ (∀ (e n : Nat) (s : State) (r : SegRun) (p : CutPass) (w : Stream) (g : Segment), (s.eng e).seg = some r →
    segOf s r = some (p, w, g) → r.finished = true →
    let u := { s with
      cuts := tset s.cuts r.cut { p with stream := some { w with doneSegs := r.index :: w.doneSegs } }
      engines := tset s.engines e { s.eng e with seg := none } }
    let cmd := cmdOf s r.cut
    ((∃ i, i < w.segs.length ∧ i ∉ r.index :: w.doneSegs ∧ ∀ k, k < i → k ∈ w.doneSegs) →
      exec (.weightSegmentDone e) s = .next u)
    ∧ (n ≤ w.segs.length → (∀ i, i < n → i ∈ r.index :: w.doneSegs) → (∃ i, i < n ∧ i ∉ w.doneSegs) →
      n = w.segs.length ∨ n ∉ r.index :: w.doneSegs →
      exec (.weightSegmentDone e) s = .next (settle [.devSignal (.ctx cmd.ctx 3 cmd.queue) (s.ctx cmd.ctx).tenant
        (some cmd.ctx) w.fence
        (BitVec.ofNat 64 (if p.heritage then (w.fenceBase + n) % 2 ^ 32 else w.fenceBase + n))] u)))

/-- The fence block's registers (R320, R334, R342, R343), a bridge's update (R341), and the end of a release (R336).

The statement rests in part on readings the model chose, which are no rules of the spec: log entry 18. -/
def Obligations.FenceRegisters : Prop :=
  (∀ (a : Access) (f t : Nat) (s : State), accUp s a = true → accTenant s a = some t →
    let sig := 0x1000008 + 0x40 * f
    let poi := 0x1000010 + 0x40 * f
    (f < 16384 → 2 ≤ fenceRight (s.fence f) t → a.be = 0xFF →
      exec (.fenceSignalRegister a f) s = .next (settle [.signal (.bar t a.rid) f a.data] s)
      ∧ exec (.fencePoisonRegister a f) s = .next (if a.data.getLsbD 0 then settle [.poison f] s else s))
    ∧ (f < 16384 → 2 ≤ fenceRight (s.fence f) t → a.be ≠ 0xFF →
      exec (.fenceSignalRegister a f) s = .next (accLog s a t 0x7 sig)
      ∧ exec (.fencePoisonRegister a f) s = .next (accLog s a t 0x7 poi))
    ∧ (fenceRight (s.fence f) t < 2 →
      exec (.fenceSignalRegister a f) s = .next (accLog s a t 0x2 sig)
      ∧ exec (.fencePoisonRegister a f) s = .next (accLog s a t 0x2 poi)))
  ∧ (∀ (a : Access) (t k : Nat) (s : State), accUp s a = true → accTenant s a = some t → k < 64 → a.be = 0xFF →
    let x := s.tenant t
    let h := tget x.waits k .empty
    let w := { h with vector := a.data.toNat / 2 ^ 32 % 2 ^ 11, fence := a.data.toNat % 2 ^ 14 }
    let f := s.fence w.fence
    let put := fun (y : HostWait) => { s with tenants := tset s.tenants t { x with waits := tset x.waits k y } }
    (h.armed = false → fenceRight f t = 0 → exec (.arm a t k) s = .next (put { w with outcome := 3 }))
    ∧ (h.armed = false → fenceRight f t ≠ 0 → f.flag = false → f.reached h.target = false →
        exec (.arm a t k) s = .next (put { w with armed := true, outcome := 0 }))
    ∧ (h.armed = false → fenceRight f t ≠ 0 → f.flag = true ∨ f.reached h.target = true →
        exec (.arm a t k) s =
          .next (notifyTenant (put { w with outcome := if f.flag then 2 else 1 }) t w.vector))
    ∧ (h.armed = true → a.data.getLsbD 16 = false → exec (.arm a t k) s = .next s)
    ∧ (h.armed = true → exec (.disarm a t k) s = .next (put { h with armed := false, outcome := 0 }))
    ∧ (h.armed = false → a.data.getLsbD 15 = false → exec (.disarm a t k) s = .next (put w)))
  ∧ (∀ (k : Nat) (s : State) (b : Bridge), s.ranger.up = true → tget? s.bridges k = some b →
    let f := s.fence b.src
    let h := s.fence b.dst
    let now := fun (n : Nat) => { s with bridges := tset s.bridges k { b with passed := n } }
    let sig := fun (v : Nat) => Act.devSignal (.tenant h.owner) b.creator none b.dst (BitVec.ofNat 64 v)
    (f.flag = false → h.flag = false → f.heritage = true → b.passed < f.adv - b.adv0 →
      exec (.bridgeUpdate k) s = .next (settle [sig ((b.t0 + (f.adv - b.adv0)) % 2 ^ 64)] (now (f.adv - b.adv0))))
    ∧ (f.flag = false → h.flag = false → f.heritage = false → b.passed < f.value.toNat - b.s0 →
      ∃ vs : List Nat, exec (.bridgeUpdate k) s = .next (settle (vs.map sig) (now (f.value.toNat - b.s0)))
        ∧ vs.getLast? = some ((b.t0 + (f.value.toNat - b.s0)) % 2 ^ 32)
        ∧ ∀ i, i < vs.length →
          let prev := if i = 0 then (b.t0 + b.passed) % 2 ^ 32 else vs.getD (i - 1) 0
          let d := (vs.getD i 0 + 2 ^ 32 - prev) % 2 ^ 32
          1 ≤ d ∧ d < 2 ^ 31)
    ∧ (f.flag = true → h.flag = false → f.heritage = false →
        exec (.bridgeUpdate k) s = .next (settle [.poison b.dst] (now b.passed)))
    ∧ (f.flag = false → h.flag = true → (bridgeSignals s b).1 = [] →
        exec (.bridgeUpdate k) s = .next (settle [.poison b.src] (now b.passed))))
  ∧ (∀ (f : Nat) (s : State), (s.fence f).st = .releasing → fenceNamed s f = false →
    exec (.fenceReleased f) s = .next (finalAll { s with
      fences := tset s.fences f { Fence.reset with freed := s.fenceFrees + 1 }
      fenceFrees := s.fenceFrees + 1 } 0x402 f 0 0 []))

/-- Fences through the Flume (R324, R325, R332, R336, R339, R340, Table 13.10): each request that its sender may make, with its
parameters in range, and the refusals for want of a right or a slot. -/
def Obligations.FenceRequests : Prop :=
  ∀ (r : Req) (s : State), r.ch < 16 →
    let u := takeReq s r true
    let p := reqField r
    let f := p 0 2
    let x := s.fence f
    let live := f < 16384 ∧ (x.st = .live ∨ x.st = .poisoned)
    let other := fun (t : Nat) => t < 16 ∧ (s.tenant t).st ≠ .free
    let mine := fun (c : Nat) => c < 256 ∧ (s.ctx c).st ≠ .free ∧ (s.ctx c).tenant = r.ch
    (Requested s r 4 [(0, 8), (8, 1), (10, 2)] → p 8 1 < 8 →
      p 0 8 ≤ (if (p 8 1).testBit 0 then 2 ^ 32 - 1 else 2 ^ 64 - 2) → ((p 8 1).testBit 1 = true → mine (p 10 2)) →
      (∀ n, freeFence s = some n → n < 16384 ∧ (s.fence n).st = .free
        ∧ (∀ k, k < 16384 → (s.fence k).st = .free → (s.fence n).freed ≤ (s.fence k).freed)
        ∧ exec (.fenceCreate r) s = .next (replyTo (u.setFence n { Fence.reset with
            st := .live, value := BitVec.ofNat 64 (p 0 8), heritage := (p 8 1).testBit 0, owner := r.ch
            guard := if (p 8 1).testBit 1 then some (p 10 2) else none, named := (p 8 1).testBit 1, onGone := (p 8 1).testBit 2
            freed := (s.fence n).freed }) r 0 0 (leBytes 4 n)))
      ∧ (freeFence s = none → (∀ k, k < 16384 → (s.fence k).st ≠ .free)
          ∧ exec (.fenceCreate r) s = .next (replyTo u r 0x20 5 [])))
    ∧ (Requested s r 1 [(0, 2)] → live → x.owner = r.ch → fenceHeld s f = false → (s.channel r.ch).accepted.length < 16 →
        exec (.fenceFree r) s = .next (acceptedBy (releaseFence u f) r 0x402 f))
    ∧ (Requested s r 1 [(0, 2)] → live → x.owner = r.ch → fenceHeld s f = true →
        exec (.fenceFree r) s = .next (replyTo u r 0x30 1 []))
    ∧ (Requested s r 1 [(0, 2), (2, 1), (3, 1)] → live → other (p 2 1) → p 2 1 ≠ x.owner → 1 ≤ p 3 1 → p 3 1 ≤ 2 →
        exec (.fenceShare r) s = .next (if x.owner = r.ch then replyTo (u.setFence f { x with
          grants := tset x.grants (p 2 1) (p 3 1)
          binds := x.binds.map fun b => (b.1, if (s.ctx b.1).tenant = p 2 1 then min b.2 (p 3 1) else b.2) }) r 0 0 []
          else replyTo u r 0x21 2 []))
    ∧ (Requested s r 1 [(0, 2), (2, 1)] → live → other (p 2 1) → x.owner = r.ch →
        exec (.fenceRevoke r) s = .next (replyTo (if tget? x.grants (p 2 1) = none then u else revokeFence u f (p 2 1)) r 0 0 []))
    ∧ (Requested s r 2 [(0, 2), (2, 2), (4, 1)] → live → mine (p 2 2) → x.heritage = (s.ctx (p 2 2)).heritage → 1 ≤ p 4 1 →
        p 4 1 ≤ 2 → exec (.fenceBind r) s = .next (if p 4 1 ≤ fenceRight x r.ch
          then replyTo (u.setFence f { x with binds := tset x.binds (p 2 2) (p 4 1) }) r 0 0 [] else replyTo u r 0x21 3 []))
    ∧ (Requested s r 1 [(0, 2), (2, 2)] → live → mine (p 2 2) → (tget? x.binds (p 2 2)).isSome = true →
        exec (.fenceUnbind r) s = .next (if ctxWaits s (p 2 2) f then replyTo u r 0x30 1 []
          else replyTo (u.setFence f { x with binds := tdrop x.binds (· == p 2 2) }) r 0 0 []))
    ∧ (Requested s r 4 [(0, 2), (8, 8)] → live → exec (.flumeFenceSignal r) s = .next (if 2 ≤ fenceRight x r.ch
        then replyTo (settle [.signal .flume f (BitVec.ofNat 64 (p 8 8))] u) r 0
          (if (x.signal (BitVec.ofNat 64 (p 8 8))).2 then 1 else 0) []
        else replyTo u r 0x21 3 []))
    ∧ (Requested s r 1 [(0, 2)] → live → exec (.flumeFencePoison r) s = .next (if 2 ≤ fenceRight x r.ch
        then replyTo (settle [.poison f] u) r 0 0 [] else replyTo u r 0x21 3 []))
    ∧ (Requested s r 1 [(0, 2)] → f < 16384 → x.st ≠ .free → exec (.fenceQuery r) s = .next (if fenceRight x r.ch = 0
        then replyTo u r 0x21 3 []
        else replyTo u r 0 0 (leBytes 8 x.value.toNat ++ leBytes 8 (fenceInfo s f (fenceRight x r.ch)))))
    ∧ (let g := p 2 2
      Requested s r 1 [(0, 2), (2, 2)] → live → g < 16384 → (s.fence g).st = .live ∨ (s.fence g).st = .poisoned →
        x.heritage ≠ (s.fence g).heritage → fenceRight x r.ch ≠ 0 → 2 ≤ fenceRight (s.fence g) r.ch →
        (bridged s f = true ∨ bridged s g = true → exec (.bridgeCreate r) s = .next (replyTo u r 0x30 1 []))
        ∧ (bridged s f = false → bridged s g = false → (∃ k, k < 256 ∧ tget? s.bridges k = none) →
            ∃ k, k < 256 ∧ tget? s.bridges k = none ∧ exec (.bridgeCreate r) s = .next (replyTo { u with
              bridges := tset s.bridges k ⟨r.ch, f, g, x.value.toNat, (s.fence g).value.toNat, x.adv, 0⟩
              freeTick := s.freeTick + 1 } r 0 0 (leBytes 4 k))))
    ∧ (∀ b, Requested s r 1 [(0, 1)] → tget? s.bridges (p 0 1) = some b →
        (b.creator = r.ch ∨ (s.fence b.src).owner = r.ch ∨ (s.fence b.dst).owner = r.ch) →
        exec (.bridgeRemove r) s = .next (replyTo { u with bridges := tdrop s.bridges (· == p 0 1) } r 0 0 []))

/-- What the Flume does with a request before its own rules (R411 to R414, R420): nothing while it may not fetch; the header
checks in their order; the least payload offset that fails; and the record that a reply writes.

A tenant's Flume registers (R411, R414, R417, R418, Table 13.2): doorbell, reply index, abort, self-reset.

The statement rests in part on readings the model chose, which are no rules of the spec: log entry 117. -/
def Obligations.FlumeChannels : Prop :=
  ((∀ (r : Req) (s : State),
     let c := s.channel r.ch
     let n := (16 + 4 * r.words.toNat + 15) / 16
     let reqs : List (Instr × Nat) := [(.ping r, 0), (.eventMask r, 1), (.tenantCreate r, 2), (.contextCreate r, 12),
       (.objectCreate r, 6), (.fenceCreate r, 4), (.outputGrant r, 1), (.transfer r, 16), (.imageActivate r, 2), (.debugGrant r, 1)]
     let any := fun (a : Option (State × Nat × Nat)) => ∀ e ∈ reqs, exec e.1 s = .next (match a with
       | some (u, status, detail) => replyTo u r status detail []
       | none => s)
     let own := if r.ch = 16 then 0xFF else r.ch
     let took := fun (c' : Channel) => { s with channels := tset s.channels r.ch c', ranger := { s.ranger with turn := r.ch } }
     (flumeReady s r = false → any none ∧ exec (.flumeNop r) s = .next s)
     ∧ (flumeReady s r = true → (1024 < c.reqRead % 1024 + n ∨ (c.last + 2 ^ 32 - c.reqRead) % 2 ^ 32 < n) →
         any (some (took { c with reqRead := c.last }, 0x11, 0xFFFF)))
     ∧ (flumeReady s r = true → reqTooLong s r = false →
       let used := took { c with reqRead := (c.reqRead + n) % 2 ^ 32 }
       let next := took { c with reqRead := (c.reqRead + n) % 2 ^ 32, nextSeq := (c.nextSeq + 1) % 2 ^ 32 }
       exec (.flumeNop r) s = .next used
       ∧ (r.version ≠ 1 → any (some (used, 0x40, 1)))
       ∧ (r.version = 1 → r.tenant.toNat ≠ own → any (some (used, 0x21, 4)))
       ∧ (r.version = 1 → r.tenant.toNat = own → r.seq.toNat ≠ c.nextSeq → any (some (used, 0x12, 0xFF04)))
       ∧ (r.version = 1 → r.tenant.toNat = own → r.seq.toNat = c.nextSeq →
         (2 ≤ r.flags.toNat → any (some (next, 0x12, 0xFF02)))
         ∧ (r.flags.toNat < 2 → (∀ o : BitVec 16, flumeOpcodes.contains o.toNat = false →
               exec (.badOpcode r o) s = .next (replyTo next r 0x10 0 []))
             ∧ ∀ e ∈ reqs, r.words.toNat ≠ e.2 → exec e.1 s = .next (replyTo next r 0x11 e.2 []))))
     ∧ (Requested s r 0 [] → exec (.ping r) s = .next
         (replyTo (takeReq s r true) r 0 0 (leBytes 4 s.boot.kreogVersion ++ leBytes 4 s.boot.kreogBuild)))
     ∧ (Requested s r 1 [(0, 4)] → reqField r 0 4 < 8 → exec (.eventMask r) s = .next (replyTo ((takeReq s r true).setChannel
         r.ch { (takeReq s r true).channel r.ch with mask := 4 * reqField r 0 4 }) r 0 0 []))
     ∧ (Requested s r 1 [(0, 4)] → 8 ≤ reqField r 0 4 → exec (.eventMask r) s = .next (replyTo (takeReq s r true) r 0x12 0 [])))
   ∧ (∀ (r : Req) (listed : List (Nat × Nat)) (checks : List (Nat × Bool)),
     let bad := fun (o : Nat) => (o, false) ∈ checks ∨
       (o < 4 * r.words.toNat ∧ reqField r o 1 ≠ 0 ∧ ∀ f ∈ listed, o < f.1 ∨ f.1 + f.2 ≤ o)
     (paramFail r listed checks = none ↔ ∀ o, ¬bad o)
     ∧ ∀ o, paramFail r listed checks = some o → bad o ∧ ∀ k, bad k → o ≤ k)
   ∧ (∀ (s : State) (ch seq status detail tag flags : Nat) (payload : List Byte),
     let c := s.channel ch
     let n := (16 + payload.length + 15) / 16
     let room := 1024 - c.replyWrite % 1024
     let body := leBytes 4 seq ++ leBytes 2 status ++ leBytes 2 detail ++ leBytes 4 tag ++ leBytes 2 (payload.length / 4)
       ++ leBytes 1 flags ++ [0] ++ payload
     let padded := body ++ List.replicate (16 * n - body.length) 0
     let pad := List.replicate 12 0 ++ leBytes 2 ((16 * room - 16) / 4) ++ [8, 0] ++ List.replicate (16 * room - 16) 0
     (n ≤ room → (postRecord s ch seq status detail tag flags payload).channel ch = { c with
       replies := c.replies.write (c.replyWrite % 1024 * 16) padded, replyWrite := (c.replyWrite + n) % 2 ^ 32 })
     ∧ (room < n → n ≤ 1024 → (postRecord s ch seq status detail tag flags payload).channel ch = { c with
       replies := (c.replies.write (c.replyWrite % 1024 * 16) pad).write 0 padded
       replyWrite := (c.replyWrite + room + n) % 2 ^ 32 })
     ∧ (∀ k, k ≠ ch → (postRecord s ch seq status detail tag flags payload).channel k = s.channel k)))
  ∧ (∀ (a : Access) (t : Nat) (s : State), OwnWrite s a t → t < 16 →
         let c := s.channel t
         let w := a.data.toNat % 2 ^ 32
         let d := (w + 2 ^ 32 - c.last) % 2 ^ 32
         let held := (w + 2 ^ 32 - c.reqRead) % 2 ^ 32
         let off := 0x100000 * t + 0x20000
         (1 ≤ d → d < 2 ^ 31 → held ≤ 1024 →
           exec (.flumeDoorbell a t) s = .next { s with channels := tset s.channels t { c with last := w } })
         ∧ (d = 0 ∨ 2 ^ 31 ≤ d ∨ 1024 < held → exec (.flumeDoorbell a t) s = .next (accLog s a t 0xC off))
         ∧ ((w + 2 ^ 32 - c.readIndex) % 2 ^ 32 ≤ (c.replyWrite + 2 ^ 32 - c.readIndex) % 2 ^ 32 →
           exec (.flumeReplyRead a t) s = .next { s with channels := tset s.channels t { c with readIndex := w } })
         ∧ ((c.replyWrite + 2 ^ 32 - c.readIndex) % 2 ^ 32 < (w + 2 ^ 32 - c.readIndex) % 2 ^ 32 →
           exec (.flumeReplyRead a t) s = .next (accLog s a t 0xC (off + 0x10)))
         ∧ (a.data.getLsbD 1 = false → Answers (.abort a t) s fun u =>
             let e := u.channel t
             e.reqRead = c.last ∧ e.last = c.last ∧ e.nextSeq = c.nextSeq ∧ e.eventSeq = c.eventSeq ∧ e.accepted = []
             ∧ e.readIndex = c.replyWrite ∧ e.replyWrite = (c.replyWrite + 1) % 2 ^ 32 ∧ e.aborts = (c.aborts + 1) % 2 ^ 16
             ∧ e.replies = c.replies.write (c.replyWrite % 1024 * 16) (leBytes 4 c.nextSeq ++ leBytes 2 0 ++
                 leBytes 2 ((c.aborts + 1) % 2 ^ 16) ++ leBytes 4 0 ++ leBytes 2 0 ++ leBytes 1 5 ++ [0])
             ∧ (s.ranger.up = false → e.abandoned = c.abandoned ++ c.accepted)
             ∧ (s.ranger.up = true → e.abandoned = []) ∧ (∀ k, (u.ctx k).st = (s.ctx k).st))
         ∧ (∀ k, (s.ctx k).tenant = t → (s.ctx k).st = .live ∨ (s.ctx k).st = .faulted → Answers (.selfReset a t) s fun u =>
             (u.ctx k).st = .resetting ∧ (u.tenant t).resetting = true ∧ (u.tenant t).envelope = none
             ∧ (u.tenant t).logTotal = 0 ∧ (∀ e ∈ (u.tenant t).waits, e.2.armed = false)
             ∧ (u.channel t).aborts = (c.aborts + 1) % 2 ^ 16 ∧ (u.channel t).nextSeq = c.nextSeq))

/-- A port manager's requests about the tenants of its port, and tenant resets (R285 to R287, R373, R418, R496, Tables 9.4 and
13.7), and the end of a tenant.

The statement rests in part on readings the model chose, which are no rules of the spec: log entries 54 to 57. -/
def Obligations.TenantRequests : Prop :=
  (∀ (r : Req) (s : State), r.ch < 16 →
    let u := takeReq s r true
    let f := reqField r
    let p := (s.tenant r.ch).port
    let t := f 0 1
    let pair := (f 2 2, if (f 1 1).testBit 0 then some (f 4 4) else none)
    let taken := fun (but : Option Nat) => ∃ k, k < 16 ∧ some k ≠ but ∧ (s.tenant k).st ≠ .free ∧ (s.tenant k).port = p
      ∧ ((s.tenant k).rid, (s.tenant k).pasid) = pair
    (isM s r = false → (Requested s r 0 [] → exec (.rollCallList r) s = .next (replyTo u r 0x21 1 [])
        ∧ exec (.rollCallEnd r) s = .next (settleRollCall (replyTo u r 0x21 1 []) p))
      ∧ (Requested s r 2 [(1, 1), (2, 2), (4, 4)] → exec (.tenantCreate r) s = .next (replyTo u r 0x21 1 [])))
    ∧ (isM s r = true →
      (Requested s r 0 [] → exec (.rollCallList r) s = .next
        (let ts := (List.range 16).filter fun k => (s.tenant k).st == .gone && (s.tenant k).port == p
        replyTo u r 0 0 (leBytes 2 ts.length ++ ts.flatMap (fun k =>
          leBytes 1 k ++ leBytes 1 (if (s.tenant k).pasid.isSome then 1 else 0) ++ leBytes 2 (s.tenant k).rid
            ++ leBytes 4 ((s.tenant k).pasid.getD 0)) ++ [0, 0])))
      ∧ (Requested s r 2 [(0, 1), (1, 1), (2, 2), (4, 4)] → t < 16 → f 1 1 < 2 → f 4 4 < 2 ^ 20 → (s.tenant t).st = .gone →
          (s.tenant t).port = p →
          (taken (some t) → exec (.tenantRebind r) s = .next (replyTo u r 0x21 11 []))
          ∧ (¬taken (some t) → exec (.tenantRebind r) s = .next (replyTo (postHeld
              (u.setTenant t { s.tenant t with st := .live, rid := pair.1, pasid := pair.2 }) t) r 0 0 [])))
      ∧ (Requested s r 2 [(1, 1), (2, 2), (4, 4)] → f 1 1 < 2 → f 4 4 < 2 ^ 20 →
          (taken none → exec (.tenantCreate r) s = .next (replyTo u r 0x21 11 []))
          ∧ (¬taken none → (∃ k, k < 16 ∧ numberFree s p k = true) → ∃ k, k < 16 ∧ (s.tenant k).st = .free ∧
              exec (.tenantCreate r) s = .next (replyTo (({ u with freeTick := s.freeTick + 1 }.setTenant k { Tenant.free with
                st := .live, port := p, rid := pair.1, pasid := pair.2 }).setChannel k .reset) r 0 0 [BitVec.ofNat 8 k, 0, 0, 0]))
          ∧ (¬taken none → (∀ k, k < 16 → numberFree s p k = false) → exec (.tenantCreate r) s = .next
              (replyTo { u with freeTick := s.freeTick + 1 } r 0x20 1 [])))
      ∧ (Requested s r 1 [(0, 1)] → t < 16 → t ≠ r.ch → (s.tenant t).st ≠ .free → (s.tenant t).st ≠ .destroying →
          (s.tenant t).port = p → (s.channel r.ch).accepted.length < 16 →
          exec (.tenantDestroy r) s = .next (acceptedBy (destroyTenant u t) r 0x203 t))
      ∧ (Requested s r 0 [] → (s.port p).st = .rollCall → (s.channel r.ch).accepted.length < 16 →
          exec (.rollCallEnd r) s =
            .next (settleRollCall (acceptedBy ((tenantsOn s p .gone).foldl destroyTenant u) r 0x105 p) p)
          ∧ (tenantsOn s p .gone = [] → tenantsOn s p .destroying = [] → Answers (.rollCallEnd r) s fun v =>
              (v.port p).st = .ready ∧ (v.port p).shown = 3)))
    ∧ (Requested s r 1 [(0, 1)] → t < 16 → (s.tenant t).st = .live → t = r.ch ∨ (isM s r = true ∧ (s.tenant t).port = p) →
        (s.channel r.ch).accepted.length < 16 → exec (.tenantReset r) s =
          .next (settleReset (acceptedBy (resetTenant (abortChannel u t) t) r 0x202 t) t)))
  ∧ (∀ (t : Nat) (s : State),
    let v := destroyTenant s t
    (v.tenant t).st = .destroying ∧ (v.tenant t).resetting = false ∧ (v.tenant t).envelope = none
    ∧ (∀ e ∈ v.prism.layerGrants, e.2 ≠ t) ∧ (∀ e ∈ v.prism.outGrants, e.2 ≠ t))
  ∧ (∀ (t : Nat) (s : State), (s.tenant t).st = .destroying → ctxsOf s t = [] → queuesOf s t = [] →
    (∀ x ∈ s.prism.sets, x.tenant ≠ t) →
    let q := (s.tenant t).port
    let v := ((s.setTenant t .free).setChannel t .reset).setPort q { s.port q with
      manager := if (s.port q).manager = some t then none else (s.port q).manager }
    let w := { v with
      prism := { v.prism with pages := tdrop s.prism.pages (· == t) }
      objs := tmap s.objs fun _ o => if o.owner == t then { o with owner := 0xFF } else o }
    exec (.tenantFreed t) s = .next
      (settleRelease (settleRollCall (finalAll w 0x203 t 0 0 []) q) q))

/-- Host links (R374, R451, R488, R491, R493 to R497): what a link loss and a link up leave in the port, BIND of a manager and
RELEASE, the end of a roll call, unmasked messages and poisoned host words.

The statement rests in part on readings the model chose, which are no rules of the spec: log entries 5, 71, 72. -/
def Obligations.PortLinks : Prop :=
  ∀ (p : Nat) (s : State), p < 3 →
    let x := s.port p
    (x.up = true → x.night = false → Answers (.linkDown p) s fun u =>
      u.port p = { x with
        st := .down, lost := true, busMaster := false, atomicEn := false, d3 := false, rcBind := 0, rcPasid := 0
        bound := false, grace := false, winLo := 0, winHi := 0, msixOpen := [], msixPend := [], msixEn := false, msixTab := []
        pci := .reset }
      ∧ (∀ t, t < 16 → (s.tenant t).port = p → (s.tenant t).st = .live → (u.tenant t).st = .gone)
      ∧ (∀ ln, ln ∈ u.mem.lines.map Prod.fst → ∀ off, paKind (ln * 128) ≠ .host p off)
      ∧ u.mem.host = s.mem.host)
    ∧ (x.up = true → x.night = true → exec (.linkDown p) s = .next { s with ports := tset s.ports p { x with st := .down } })
    ∧ (x.up = false → p ≤ s.cfg.bifurcation → s.boot.stage = 6 → domainOn s (0x98 + p) = true → x.night = false →
        exec (.linkUp p) s = .next { s with ports := tset s.ports p { x with
          st := .calling, shown := 1, lost := false, night := false, grace := false, msixPend := [] } })
    ∧ (x.up = false → p ≤ s.cfg.bifurcation → s.boot.stage = 6 → domainOn s (0x98 + p) = true → x.night = true →
        tenantsOn s p .live ≠ [] → tenantsOn s p .gone = [] → tenantsOn s p .destroying = [] →
        Answers (.linkUp p) s fun u => (u.port p).st = .ready ∧ (u.port p).shown = 3 ∧ (u.port p).night = !x.grace ∧ (u.port p).grace = false
          ∧ u.tenants = s.tenants)
    ∧ (x.rcWait = none → s.ranger.up = true → x.up = true →
      let rid := x.rcBind.toNat % 65536
      let pasid := if x.rcBind.getLsbD 16 then some (x.rcPasid.toNat % 2 ^ 20) else none
      let done := fun (y : Port) => { s with ports := tset s.ports p y }
      let clash := ∃ k, k < 16 ∧ (s.tenant k).st ≠ .free ∧ (s.tenant k).port = p ∧ (s.tenant k).rid = rid ∧ (s.tenant k).pasid = pasid
      (x.st ≠ .calling → exec (.bind p) s = .next (done { x with rcResult := 0x30, rcPending := false }))
      ∧ (x.st = .calling → x.manager = none → clash →
          exec (.bind p) s = .next (done { x with rcResult := 0x21, rcPending := false }))
      ∧ (x.st = .calling → x.manager = none → ¬clash → ∀ t, managerNumber s p = some t → t < 16 →
          Answers (.bind p) s fun u =>
            u.port p = { x with
              manager := some t, rcTenant := t, bound := true, rcResult := 0, rcPending := false
              st := if tenantsOn s p .gone = [] then .ready else .rollCall
              shown := if tenantsOn s p .gone = [] then 3 else 2 }
            ∧ u.tenant t = { Tenant.free with st := .live, port := p, rid := rid, pasid := pasid }
            ∧ u.channel t = .reset ∧ (∀ k, k ≠ t → u.tenant k = s.tenant k))
      ∧ (x.st = .rollCall ∨ x.st = .ready → (∀ t, t < 16 → (s.tenant t).port = p → (s.tenant t).st = .free) →
          Answers (.release p) s fun u => (u.port p).st = .calling ∧ (u.port p).bound = false ∧ (u.port p).manager = none
            ∧ (u.port p).rcResult = 0 ∧ (u.port p).rcPending = false ∧ u.tenants = s.tenants)
      ∧ (x.st = .calling → exec (.release p) s = .next (done { x with rcResult := 0x30, rcPending := false })))
    ∧ (x.st = .calling ∨ x.st = .rollCall → Answers (.rollCallTimeout p) s fun u =>
        (∀ t, t < 16 → (s.tenant t).port = p → (s.tenant t).st = .gone → (u.tenant t).st = .destroying)
        ∧ (x.st = .rollCall → (u.port p).st = .ready ∧ (u.port p).shown = 3)
        ∧ (x.st = .calling → (u.port p).st = .calling ∧ ∀ m, (u.port p).manager = some m → x.manager = some m
            ∧ ¬(m < 16 ∧ (s.tenant m).port = p ∧ (s.tenant m).st = .gone)))
    ∧ (∀ v, v < 2048 → x.up = true → v ∉ x.msixOpen → Answers (.msixUnmask p v) s fun u =>
        (u.port p).msixOpen = v :: x.msixOpen ∧ (x.sends = true → v ∈ x.msixPend → .msix p v ∈ u.out ∧ v ∉ (u.port p).msixPend)
        ∧ (x.sends = false → u.out = s.out ∧ (u.port p).msixPend = x.msixPend))
    ∧ (∀ words, (∀ w ∈ words, ∃ off, paKind (w * 8) = .host p off) → Answers (.hostReadTimeout p words) s fun u =>
        (∀ w, (∃ off, paKind (w * 8) = .host p off) → (w ∈ u.mem.poison ↔ w ∈ words))
        ∧ (∀ w, (∀ off, paKind (w * 8) ≠ .host p off) → (w ∈ u.mem.poison ↔ w ∈ s.mem.poison))
        ∧ (words ≠ [] → tget? u.avail.records s.avail.next = some ⟨0x13, 0x98 + p, 2, 0, s.timer⟩)
        ∧ (words = [] → u.avail = s.avail))

/-- Contexts through the Flume (R285, R290, R292, R297, Tables 9.5 and 13.8): each request that its sender may make, with its
parameters in range, and the refusals for want of a right or a slot.

What becomes of a context (R292, R297, R314, R372, R377, Table 9.7): stopped for a reset or a destruction it has no command
left and no LIVE queue; a reset ends in LIVE with the queues that it stopped; freed, nothing names it; and after an
invalidation no TLB holds an entry of its range.

The statement rests in part on readings the model chose, which are no rules of the spec: log entries 54, 56, 59. -/
def Obligations.Contexts : Prop :=
  (∀ (r : Req) (s : State), r.ch < 16 →
     let u := takeReq s r true
     let p := reqField r
     let c := p 0 2
     let x := s.ctx c
     let mine := c < 256 ∧ x.st ≠ .free ∧ x.tenant = r.ch
     let other := c < 256 ∧ x.st ≠ .free ∧ x.tenant ≠ r.ch
     let room := (s.channel r.ch).accepted.length < 16
     let turned := fun (i : Instr) (status detail : Nat) => exec i s = .next (replyTo u r status detail [])
     (Requested s r 12 [(0, 1), (2, 2), (4, 2), (6, 2), (8, 4), (12, 2), (14, 2), (16, 8), (24, 8), (32, 4), (36, 4), (40, 8)] →
       p 0 1 < 4 → nameLive s (p 4 2) (p 6 2) = true → nameLive s (p 12 2) (p 14 2) = true → p 16 8 % 256 = 0 →
       p 16 8 + 256 ≤ (s.obj (p 12 2)).size → p 24 8 % 32 = 0 → p 24 8 < 2 ^ 48 → p 32 4 ≤ 1048576 → p 36 4 ≤ 4096 →
       p 40 8 % 16 = 0 → p 40 8 < 2 ^ 48 → ((p 0 1).testBit 1 = true → p 2 2 < 16384 ∧ (s.fence (p 2 2)).st ≠ .free) →
       let may := objRight (s.obj (p 4 2)) r.ch ≠ 0 ∧ 2 ≤ objRight (s.obj (p 12 2)) r.ch
         ∧ ((p 0 1).testBit 1 = true → 2 ≤ fenceRight (s.fence (p 2 2)) r.ch)
       let v := { u with freeTick := s.freeTick + 1 }
       let made : Ctx :=
         { st := .live, tenant := r.ch, heritage := (p 0 1).testBit 0, rootObj := p 4 2, rootGen := p 6 2, rootPage := p 8 4
           statObj := p 12 2, statGen := p 14 2, statOff := p 16 8, faultFence := if (p 0 1).testBit 1 then some (p 2 2) else none
           texVa := p 24 8, texCount := p 32 4, sampVa := p 40 8, sampCount := p 36 4, faults := 0, wdLimit := 2000000
           block := freshBlock, residentTicks := 0 }
       (¬may → turned (.contextCreate r) 0x21 3)
       ∧ (may → objGone s (p 4 2) = false → objGone s (p 12 2) = false →
         ((∀ k, k < 256 → (s.ctx k).st ≠ .free) → exec (.contextCreate r) s = .next (replyTo v r 0x20 2 []))
         ∧ ((∃ k, k < 256 ∧ (s.ctx k).st = .free) → ∃ k, k < 256 ∧ (s.ctx k).st = .free ∧ exec (.contextCreate r) s = .next
             (replyTo (objWrite (v.setCtx k made) (p 12 2) (p 14 2) (p 16 8) (freshBlock.read 0 256)) r 0 0 (leBytes 4 k)))))
     ∧ (Requested s r 1 [(0, 2)] → other → turned (.contextReset r) 0x21 2 ∧ turned (.contextDestroy r) 0x21 2
         ∧ turned (.contextQuery r) 0x21 2)
     ∧ (Requested s r 1 [(0, 2)] → mine → x.st = .live ∨ x.st = .faulted → room →
         exec (.contextReset r) s = .next (acceptedBy (stopCtx u c .resetting) r 0x205 c)
         ∧ exec (.contextDestroy r) s = .next (acceptedBy (destroyCtx u c) r 0x206 c))
     ∧ (Requested s r 1 [(0, 2)] → mine → x.st = .resetting → room →
         exec (.contextReset r) s = .next (acceptedBy u r 0x205 c))
     ∧ (Requested s r 1 [(0, 2)] → mine → exec (.contextQuery r) s = .next (replyTo u r 0 0 (x.block.read 0 256)))
     ∧ (Requested s r 8 [(0, 2), (4, 4), (8, 8), (16, 8), (24, 4)] → mine → p 4 4 ≤ 1048576 → p 8 8 % 32 = 0 → p 8 8 < 2 ^ 48 →
         p 16 8 % 16 = 0 → p 16 8 < 2 ^ 48 → p 24 4 ≤ 4096 →
         let uses := ∃ e ∈ s.cmds, e.2.ctx = c ∧ (e.2.kind = .dispatch ∨ e.2.kind = .cut ∨ e.2.kind = .render)
         (uses → turned (.contextSetHeaps r) 0x30 3)
         ∧ (¬uses → exec (.contextSetHeaps r) s = .next
             (replyTo (u.setCtx c { x with texVa := p 8 8, texCount := p 4 4, sampVa := p 16 8, sampCount := p 24 4 }) r 0 0 [])))
     ∧ (Requested s r 6 [(0, 2), (8, 8), (16, 8)] → mine → p 8 8 % 4096 = 0 → p 16 8 % 4096 = 0 → room →
         exec (.contextTlbInvalidate r) s =
           .next (acceptedBy (dropTlb u c (p 8 8) (p 16 8)) r 0x209 (tlbArg c (p 8 8) (p 16 8)))))
  ∧ ((∀ (c : Nat) (s : State), (s.ctx c).st = .live ∨ (s.ctx c).st = .faulted →
         let v := stopCtx s c .resetting
         let w := destroyCtx s c
         (v.ctx c).st = .resetting ∧ (∀ e ∈ v.cmds, e.2.ctx ≠ c) ∧ (∀ q, (v.queue q).ctx = c → (v.queue q).st ≠ .live)
         ∧ (w.ctx c).st = .destroying ∧ (∀ e ∈ w.cmds, e.2.ctx ≠ c)
         ∧ ∀ q, (w.queue q).ctx = c → (w.queue q).st = .draining ∨ (w.queue q).st = .free)
       ∧ (∀ (c : Nat) (s : State), (s.ctx c).st = .resetting → Answers (.contextResetDone c) s fun t =>
           (t.ctx c).st = .live ∧ (t.ctx c).faults = (s.ctx c).faults ∧ (∀ k, k ≠ c → t.ctx k = s.ctx k)
           ∧ t.cmds = s.cmds ∧ ∀ q, (s.queue q).ctx = c → (s.queue q).st = .stopped → (t.queue q).st = .live)
       ∧ (∀ (c : Nat) (s : State), (s.ctx c).st = .destroying → (∀ e ∈ s.queues, e.2.ctx = c → e.2.st = .free) →
           Answers (.contextFreed c) s fun t =>
             t.ctx c = .free ∧ (∀ k, k ≠ c → t.ctx k = s.ctx k) ∧ t.queues = s.queues
             ∧ (∀ e ∈ t.mem.tlb, e.ctx ≠ c) ∧ (∀ e ∈ t.mem.icache, e.ctx ≠ c)
             ∧ ∀ f, tget? (t.fence f).binds c = none ∧ (t.fence f).guard ≠ some c)
       ∧ (∀ (c va n : Nat) (s : State),
           (∃ ch, ch < 17 ∧ ∃ a ∈ (s.channel ch).accepted, a.opcode = 0x209 ∧ a.arg = tlbArg c va n) →
           exec (.contextTlbInvalidateDone c va n) s = .next (finalAll (dropTlb s c va n) 0x209 (tlbArg c va n) 0 0 []))
       ∧ (∀ (c va n : Nat) (s : State) (e : TlbEntry), e ∈ (dropTlb s c va n).mem.tlb ↔
           e ∈ s.mem.tlb ∧ ¬(e.ctx = c ∧ (n = 0 ∨ (e.va < va + n ∧ va < e.va + e.len)))))

/-- Queues through the Flume and how they end (R285, R306, R310, R367, R368, Tables 9.11, 9.14, 11.5 and 13.8).

The statement rests in part on readings the model chose, which are no rules of the spec: log entry 59. -/
def Obligations.QueueRequests : Prop :=
  (∀ (r : Req) (s : State), r.ch < 16 →
    let u := takeReq s r true
    let p := reqField r
    let q := p 0 2
    let x := s.queue q
    let here := q < 1024 ∧ x.st ≠ .free
    let turned := fun (i : Instr) (status detail : Nat) => exec i s = .next (replyTo u r status detail [])
    (Requested s r 8 [(0, 2), (2, 1), (3, 1), (4, 2), (6, 2), (8, 8), (16, 4), (20, 2), (22, 2), (24, 8)] →
      p 0 2 < 256 → (s.ctx (p 0 2)).st ≠ .free → p 3 1 < 8 → nameLive s (p 4 2) (p 6 2) = true → p 8 8 % 4096 = 0 →
      p 8 8 + p 16 4 ≤ (s.obj (p 4 2)).size → (∃ k, 12 ≤ k ∧ k ≤ 24 ∧ p 16 4 = 2 ^ k) → nameLive s (p 20 2) (p 22 2) = true →
      p 24 8 % 16 = 0 → p 24 8 + 16 ≤ (s.obj (p 20 2)).size →
      let c := s.ctx (p 0 2)
      let own := queuesOf s r.ch
      let v := { u with freeTick := s.freeTick + 1 }
      let made : Queue := { Queue.free with
        st := if c.st = .live then .live else .stopped, ctx := p 0 2, door := p 2 1, ringObj := p 4 2, ringGen := p 6 2
        ringOff := p 8 8, ringBytes := p 16 4, repObj := p 20 2, repGen := p 22 2, repOff := p 24 8, prio := p 3 1
        wdLimit := 2000000 }
      (c.tenant ≠ r.ch ∨ (s.obj (p 4 2)).owner ≠ r.ch → turned (.queueCreate r) 0x21 2)
      ∧ (c.tenant = r.ch → (s.obj (p 4 2)).owner = r.ch → objRight (s.obj (p 20 2)) r.ch < 2 → turned (.queueCreate r) 0x21 3)
      ∧ (c.tenant = r.ch → (s.obj (p 4 2)).owner = r.ch → 2 ≤ objRight (s.obj (p 20 2)) r.ch → objGone s (p 4 2) = false →
          objGone s (p 20 2) = false → c.st ≠ .destroying →
          let door := ∃ e ∈ own, e.2.door = p 2 1
          let full := c.heritage = true ∧ 4 ≤ (own.filter fun e => e.2.ctx == p 0 2).length
          (door → turned (.queueCreate r) 0x20 11) ∧ (¬door → full → turned (.queueCreate r) 0x20 12)
          ∧ (¬door → ¬full → (∀ k, k < 1024 → (s.queue k).st ≠ .free) →
              exec (.queueCreate r) s = .next (replyTo v r 0x20 3 []))
          ∧ (¬door → ¬full → (∃ k, k < 1024 ∧ (s.queue k).st = .free) → ∃ k, k < 1024 ∧ (s.queue k).st = .free ∧
              exec (.queueCreate r) s = .next (replyTo (report (v.setQueue k made) k) r 0 0 (leBytes 4 k)))))
    ∧ (Requested s r 1 [(0, 2)] → here → (s.ctx x.ctx).tenant ≠ r.ch → turned (.queueDestroy r) 0x21 2)
    ∧ (Requested s r 1 [(0, 2)] → here → (s.ctx x.ctx).tenant = r.ch → x.service = true → turned (.queueDestroy r) 0x30 1)
    ∧ (Requested s r 1 [(0, 2)] → here → (s.ctx x.ctx).tenant = r.ch → x.service = false →
        (s.channel r.ch).accepted.length < 16 → exec (.queueDestroy r) s =
          .next (acceptedBy (if x.st = .draining then u else drainQueue u q) r 0x20B q))
    ∧ (Requested s r 2 [(0, 1), (2, 2), (4, 4)] → p 4 4 = 0 ∨ 1000 ≤ p 4 4 →
        let i := p 2 2
        (p 0 1 = 0 → i < 1024 → (s.queue i).st ≠ .free → (s.ctx (s.queue i).ctx).tenant = r.ch → exec (.watchdogSet r) s =
          .next (replyTo (u.setQueue i { s.queue i with wdLimit := p 4 4 }) r 0 0 []))
        ∧ (p 0 1 = 1 → i < 256 → (s.ctx i).st ≠ .free → (s.ctx i).tenant = r.ch → exec (.watchdogSet r) s =
          .next (replyTo (u.setCtx i { s.ctx i with wdLimit := p 4 4 }) r 0 0 []))))
  ∧ (∀ (q : Nat) (s : State),
      ((drainQueue s q).queue q).st = .draining ∧ ((drainQueue s q).queue q).wait = none
      ∧ ∀ e ∈ (drainQueue s q).cmds, e.2.queue = q → e.2.kind ≠ .fenceWait)
  ∧ (∀ (q : Nat) (s : State), (s.queue q).st = .draining →
      ((∀ e ∈ s.cmds, e.2.queue = q → workLeft s e.1 = false) → Answers (.queueFreed q) s fun t =>
        t.queue q = .free ∧ (∀ e ∈ t.cmds, e.2.queue ≠ q) ∧ (∀ b ∈ t.sched.boosts, b.queue ≠ q)
        ∧ ((∀ e ∈ s.objs, e.2.orphan = false) → ∀ o, tget? (t.obj o).points q = none))
      ∧ ((∃ e ∈ s.cmds, e.2.queue = q ∧ workLeft s e.1 = true) → exec (.queueFreed q) s = .next s))

/-- Preemption (R354, R356, R357, R359 to R364, Tables 11.3, 11.4 and 11.6): a coarse preemption escalates to the instruction
boundary, a quantum expires, a core's work is saved into one frame and put back, and an error in saved state faults its context.

The watchdogs (R367 to R369, Table 11.5): a queue's, of its oldest command, and a context's, of a resident command; each
writes the scheduling area of the status block and faults the context, and a limit of 0 turns it off.

The statement rests in part on readings the model chose, which are no rules of the spec: log entries 31, 32, 110, 111, 133, 140. -/
def Obligations.Scheduling : Prop :=
  ((∀ (core victim : Nat) (s : State) (p : Preempt),
     s.sched.preempts.find? (fun x => x.core == core && x.victim == victim && !x.instr) = some p →
     let on := victim ∈ (s.core core).cmdsOn
     (p.inForce s = false → exec (.escalation core victim) s = .next { s with sched := { s.sched with
       preempts := s.sched.preempts.filter fun x => !(x.core == core && x.victim == victim) } })
     ∧ (p.inForce s = true → p.noEscalation = true ∨ ¬on → exec (.escalation core victim) s = .next s)
     ∧ (p.inForce s = true → p.noEscalation = false → on → (s.core core).saving = [] → framesFree s = 0 →
         exec (.escalation core victim) s = .next (notePreempt (bump s 0xB1 0x130) { p with noEscalation := true }))
     ∧ (p.inForce s = true → p.noEscalation = false → on → (s.core core).saving ≠ [] ∨ framesFree s ≠ 0 → exec (.escalation core victim) s =
         .next (startSave (notePreempt (bump s 0xB1 0x138) { p with instr := true }) core victim)))
   ∧ (∀ (core cmd : Nat) (s : State),
     let ws := (waitersFor s core).filter (· ≠ cmd)
     let tenant := fun i => (s.ctx (cmdOf s i).ctx).tenant
     cmd ∈ (s.core core).cmdsOn → cmd ∉ (s.core core).saving → stopAsked s core cmd = false → 1 ≤ classOf s cmd →
     classOf s cmd < 9 → (∀ i ∈ ws, classOf s i ≤ classOf s cmd) →
     (s.cfg.quantumUs ≠ 0 → (∃ w ∈ ws, classOf s w = classOf s cmd ∧ tenant w ≠ tenant cmd) →
       ∃ w ∈ ws, classOf s w = classOf s cmd ∧ tenant w ≠ tenant cmd ∧ exec (.quantumExpiry core cmd) s =
         .next (tileBoundary (bump (notePreempt s ⟨core, cmd, w, false, true, false, .quantum⟩) 0xB1 0x150) core))
     ∧ (s.cfg.quantumUs = 0 ∨ (∀ w ∈ ws, classOf s w = classOf s cmd → tenant w = tenant cmd) →
         exec (.quantumExpiry core cmd) s = .next s))
   ∧ (∀ (core : Nat) (s : State), (s.core core).saving ≠ [] →
     let ids := (s.core core).saving
     let es := (savePlan s core).1
     ((∀ i ∈ ids, badState (s.core core) i = false) → (s.core core).requeue = [] →
       (∀ e ∈ es, e.frame = s.sched.nextFrame ∧ e.slot = freeFrame s ∧ e.core = core ∧ e.cmd ∈ ids)
       ∧ (∀ i ∈ ids, ∀ w ∈ (s.core core).wgsOf i, ∃ e ∈ es, e.cmd = i ∧ (s.core core).wgAt w ∈ e.wgs.map Prod.fst
           ∧ (((s.core core).wgAt w).prog.tensor = true → e.weights = some (s.core core).weights))
       ∧ Answers (.saveComplete core) s fun t =>
         t.sched.saved = s.sched.saved ++ es ∧ t.sched.nextFrame = s.sched.nextFrame + 1 ∧ (t.core core).saving = []
         ∧ (∀ i ∈ ids, i ∉ (t.core core).cmdsOn) ∧ (∀ p ∈ t.sched.preempts, ¬(p.core = core ∧ p.victim ∈ ids)) ∧ t.cmds = s.cmds
         ∧ ∀ k, k ≠ core → (t.core k).groups = (s.core k).groups ∧ (t.core k).wgs = (s.core k).wgs)
     ∧ (∀ i ∈ ids, badState (s.core core) i = true → (s.ctx (cmdOf s i).ctx).st = .live → Answers (.saveComplete core) s fun t =>
         (t.ctx (cmdOf s i).ctx).st = .faulted ∧ (t.core core).saving = []))
   ∧ (∀ (k : Nat) (s : State) (e : Saved), s.sched.saved[k]? = some e →
     (restoreTo s e = none → exec (.restoreComplete k) s = .next (if (restoreCore s e).isSome then s else askRestore s e))
     ∧ ∀ (core : Nat) (c : Core), restoreTo s e = some core → restoreOn (s.core core) e = some c →
       (∀ j x, j ≠ k → s.sched.saved[j]? = some x → x.frame ≠ e.frame) →
       (e.hurt s = false → c.requeue = [] → Answers (.restoreComplete k) s fun t =>
         t.sched.saved = s.sched.saved.eraseIdx k ∧ (t.core core).wgs = c.wgs
         ∧ (∀ i, (∀ n x d r, (c.group i).wait ≠ .fence n x d r) → (t.core core).group i = c.group i)
         ∧ ∀ j, j ≠ core → (t.core j).groups = (s.core j).groups ∧ (t.core j).wgs = (s.core j).wgs)
       ∧ (e.hurt s = true → (s.ctx e.ctx).st = .live → Answers (.restoreComplete k) s fun t =>
         (t.ctx e.ctx).st = .faulted ∧ ∀ x ∈ t.sched.saved, ¬(x.core = core ∧ x.ctx = e.ctx))))
  ∧ (∀ (s : State),
         let expired := fun (i : Instr) (id kind limit off : Nat) =>
           let c := cmdOf s id
           exec i s = .next (settle [.fault ⟨c.ctx, ⟨0x0005, kind, 0, false, 0, 0⟩, 0xB1, 0xFF, true, c.queue, c.index, c.tag⟩]
             (bump (setBlock (setBlock (setBlock s c.ctx 112 2 c.queue) c.ctx 114 1 kind) c.ctx 116 4 limit) 0xB1 off))
         (∀ (q id : Nat) (c : Cmd), oldestCmd s q = some (id, c) →
           ((s.queue q).st = .live → (s.queue q).wdLimit ≠ 0 →
             (∃ e ∈ s.cmds, e.2.queue = q ∧ (e.2.kind = .fenceWait ∨ residentCmd s e.1 = true)) →
             expired (.queueWatchdog q) id 2 (s.queue q).wdLimit 0x158)
           ∧ ((s.queue q).st ≠ .live ∨ (s.queue q).wdLimit = 0 → exec (.queueWatchdog q) s = .next s))
         ∧ (∀ (id : Nat) (c : Cmd), tget? s.cmds id = some c →
           ((s.ctx c.ctx).st = .live → (s.ctx c.ctx).wdLimit ≠ 0 → c.kind = .dispatch ∨ c.kind = .cut ∨ c.kind = .render →
             residentCmd s id = true → expired (.contextWatchdog id) id 3 (s.ctx c.ctx).wdLimit 0x160)
           ∧ ((s.ctx c.ctx).st ≠ .live ∨ (s.ctx c.ctx).wdLimit = 0 → exec (.contextWatchdog id) s = .next s)))

/-- Memory objects through the Flume and how they end (R298 to R304, Tables 9.10 and 13.9): creation in DRAM is zeroed and free of
poison, and gives a range that no other object holds; sharing, revoking, freeing, and what a reclaimed slot becomes.

The statement rests in part on readings the model chose, which are no rules of the spec: log entries 61, 115. -/
def Obligations.ObjectRequests : Prop :=
  (∀ (r : Req) (s : State), r.ch < 16 →
    let u := takeReq s r true
    let p := reqField r
    let o := p 0 2
    let x := s.obj o
    let n := p 8 8
    let named := x.st = .live ∧ x.gen = p 2 2
    let other := fun (t : Nat) => t < 16 ∧ (s.tenant t).st ≠ .free
    let turned := fun (i : Instr) (status detail : Nat) => exec i s = .next (replyTo u r status detail [])
    (Requested s r 6 [(0, 1), (8, 8), (16, 8)] → n % 65536 = 0 → 65536 ≤ n → n ≤ 2 ^ 36 → ∀ k, freeObj s = some k →
      let made := fun (b : Nat) (host : Bool) => { s.obj k with
        st := .live, host := host, base := b, size := n, owner := r.ch, shares := [], points := [] }
      k < 65536 ∧ (s.obj k).st = .free ∧ (∀ j, j < 65536 → (s.obj j).st = .free → (s.obj k).freed ≤ (s.obj j).freed)
      ∧ (p 0 1 = 0 → p 16 8 = 0 → (s.channel r.ch).accepted.length < 16 →
        ((∃ b, rangeFree s b n = true ∧ b % baseAlign n = 0) → ∃ b, rangeFree s b n = true ∧ b % baseAlign n = 0 ∧
          exec (.objectCreate r) s = .next (acceptedBy
            ((zeroDram { u with freeTick := s.freeTick + 1 } b n).setObj k (made b false)) r 0x301 k))
        ∧ ((∀ b, rangeFree s b n = true → b % baseAlign n ≠ 0) →
          exec (.objectCreate r) s = .next (replyTo { u with freeTick := s.freeTick + 1 } r 0x20 7 [])))
      ∧ (p 0 1 = 1 → hostRange (s.tenant r.ch).port (p 16 8) n = true →
        exec (.objectCreate r) s = .next (if (s.port (s.tenant r.ch).port).lost then replyTo u r 0x50 0 []
          else replyTo (u.setObj k (made (p 16 8) true)) r 0 0 (leBytes 2 k ++ leBytes 2 (s.obj k).gen))))
    ∧ (Requested s r 6 [(0, 1), (8, 8), (16, 8)] → n % 65536 = 0 → 65536 ≤ n → n ≤ 2 ^ 36 → p 0 1 = 0 → p 16 8 = 0 →
        freeObj s = none → turned (.objectCreate r) 0x20 4)
    ∧ (Requested s r 1 [(0, 2), (2, 2)] → named → exec (.objectFree r) s = .next (
        if x.owner ≠ r.ch then replyTo u r 0x21 2 [] else if objHeld s o then replyTo u r 0x30 1 []
        else replyTo (u.setObj o { x with st := .retiring, points := pointsOf s x, orphan := false }) r 0 0 []))
    ∧ (Requested s r 2 [(0, 2), (2, 2), (4, 1), (5, 1)] → named → other (p 4 1) → p 4 1 ≠ x.owner → 1 ≤ p 5 1 → p 5 1 ≤ 2 →
        (x.host = true → (s.tenant (p 4 1)).port = (s.tenant x.owner).port) →
        exec (.objectShare r) s = .next (if x.owner ≠ r.ch then replyTo u r 0x21 2 []
          else replyTo (u.setObj o { x with shares := tset x.shares (p 4 1) (p 5 1) }) r 0 0 []))
    ∧ (Requested s r 2 [(0, 2), (2, 2), (4, 1)] → named → other (p 4 1) → exec (.objectRevoke r) s = .next
        (if x.owner ≠ r.ch then replyTo u r 0x21 2 [] else replyTo (unshare u o (p 4 1)) r 0 0 []))
    ∧ (Requested s r 1 [(0, 2), (2, 2)] → x.st ≠ .free → x.gen = p 2 2 → exec (.objectQuery r) s = .next (
        if objRight x r.ch = 0 then replyTo u r 0x21 3 []
        else replyTo u r 0 0 (leBytes 1 (if x.st = .live then 1 else 2) ++ leBytes 1 (if x.host then 1 else 0)
          ++ leBytes 2 x.gen ++ leBytes 1 x.owner ++ [0]
          ++ leBytes 2 ((List.range 16).foldl (fun a t => a + if (tget? x.shares t).isSome then 2 ^ t else 0) 0)
          ++ leBytes 8 x.size))))
  ∧ (∀ (b n : Nat) (s : State),
      (∀ a, b ≤ a → a < b + n → (zeroDram s b n).mem.dram.get a = 0)
      ∧ (∀ a, a < b ∨ b + n ≤ a → (zeroDram s b n).mem.dram.get a = s.mem.dram.get a)
      ∧ (∀ w ∈ (zeroDram s b n).mem.poison, w * 8 < b ∨ b + n ≤ w * 8))
  ∧ (∀ (o t : Nat) (s : State), tget? ((unshare s o t).obj o).shares t = none
      ∧ (∀ e ∈ (unshare s o t).mem.tlb, (s.ctx e.ctx).tenant ≠ t) ∧ ∀ k, k ≠ o → (unshare s o t).obj k = s.obj k)
  ∧ (∀ (o : Nat) (s : State),
    let x := s.obj o
    exec (.objectZeroDone o) s = .next (finalAll s 0x301 o 0 0 (leBytes 2 o ++ leBytes 2 x.gen))
    ∧ (x.st = .retiring → (∀ e ∈ x.points, pointPassed s e.1 e.2 = true) →
      prismNames s o x.gen = false → serviceNames s o = false → Answers (.objectReclaim o) s fun t =>
        (t.obj o).st = .free ∧ (t.obj o).gen = (if x.gen = 65535 then 1 else x.gen + 1) ∧ (∀ e ∈ t.mem.tlb, e.obj ≠ o)
        ∧ t.mem.dram = s.mem.dram ∧ ∀ k, k ≠ o → t.obj k = s.obj k)
    ∧ (x.st = .retiring → (∃ e ∈ x.points, pointPassed s e.1 e.2 = false) ∨ prismNames s o x.gen = true ∨ serviceNames s o = true →
        exec (.objectReclaim o) s = .next s))

/-- Grants (R241, R257, R260, R425, Tables 13.11 and 13.12): outputs, layers and engine contexts, who may give and take them
back, what goes with a layer, and what DISPLAY_QUERY shows.

The statement rests in part on readings the model chose, which are no rules of the spec: log entry 63. -/
def Obligations.GrantRequests : Prop :=
  ∀ (r : Req) (s : State), r.ch < 16 →
    let u := takeReq s r true
    let p := reqField r
    let n := p 0 1
    let t := p 1 1
    let other := t < 16 ∧ (s.tenant t).st ≠ .free
    let turned := fun (i : Instr) (status detail : Nat) => exec i s = .next (replyTo u r status detail [])
    let owns := n < 4 ∧ outOwner s n = some r.ch
    let picked := fun (k : Nat) => k < 16 ∧ (p 2 2).testBit k = true
    let held := fun (k : Nat) => picked k ∧ (layerOwner s n k).isSome = true
    (Requested s r 1 [(0, 1), (1, 1)] → n < 4 → other →
      (isA s r = false → turned (.outputGrant r) 0x21 5)
      ∧ (isA s r = true → (∀ o, outOwner s n = some o → exec (.outputGrant r) s =
          .next (if o = t then replyTo u r 0 0 [] else replyTo u r 0x30 1 [])))
      ∧ (isA s r = true → outOwner s n = none → exec (.outputGrant r) s =
          .next (replyTo { u with prism := { s.prism with outGrants := tset s.prism.outGrants n t } } r 0 0 [])))
    ∧ (Requested s r 1 [(0, 1)] → n < 4 → (isA s r = true ∨ owns) → ∃ v, exec (.outputRevoke r) s = .next (replyTo v r 0 0 [])
        ∧ outOwner v n = none ∧ (∀ k, k ≠ n → outOwner v k = outOwner s k) ∧ (∀ k, k ≠ n → v.output k = s.output k)
        ∧ v.output n = (if beaconOwner s ≠ none ∧ outOwner s n = beaconOwner s then
            { s.output n with wbCtl := (s.output n).wbCtl &&& ~~~2 } else s.output n))
    ∧ (Requested s r 1 [(0, 1), (1, 1), (2, 2)] → n < 4 → other →
      (isA s r = false → ¬owns → turned (.layerGrant r) 0x21 2)
      ∧ ((isA s r = true ∨ owns) → (∃ k, held k ∧ layerOwner s n k ≠ some t) → turned (.layerGrant r) 0x30 1)
      ∧ ((isA s r = true ∨ owns) → (∀ k, held k → layerOwner s n k = some t) →
        ∃ v, exec (.layerGrant r) s = .next (replyTo v r 0 0 [])
          ∧ v = { u with prism := { s.prism with layerGrants := v.prism.layerGrants } }
          ∧ (∀ k, picked k → layerOwner v n k = some t)
          ∧ ∀ j k, k < 16 → ¬(j = n ∧ picked k) → layerOwner v j k = layerOwner s j k))
    ∧ (Requested s r 1 [(0, 1), (2, 2)] → n < 4 →
      let may := isA s r = true ∨ owns ∨ ∀ k, held k → layerOwner s n k = some r.ch
      (¬may → turned (.layerRevoke r) 0x21 9)
      ∧ (may → ∃ v, exec (.layerRevoke r) s = .next (replyTo v r 0 0 [])
        ∧ (∀ k, picked k → layerOwner v n k = none)
        ∧ (∀ j k, k < 16 → ¬(j = n ∧ picked k) → layerOwner v j k = layerOwner s j k)
        ∧ (∀ k, held k → 16 * n + k ∈ v.prism.drop)
        ∧ ∀ x ∈ v.prism.sets, x.output = n → ∀ k, held k → tget? x.snap k = none))
    ∧ (Requested s r 0 [] → ∃ bs, exec (.displayQuery r) s = .next (replyTo u r 0 0 bs) ∧ bs.length = 96
        ∧ ∀ i, i < 4 → fieldAt bs (24 * i) 1 = (outOwner s i).getD 0xFF % 256 ∧ fieldAt bs (24 * i + 1) 1 = (s.output i).src.code
          ∧ ∀ k, k < 16 → fieldAt bs (24 * i + 8 + k) 1 = (layerOwner s i k).getD 0xFF % 256)
    ∧ (Requested s r 1 [(0, 1), (1, 1), (2, 2)] →
      let c := p 2 2
      let chip := n = 0 ∧ c < 256 ∧ (s.ctx c).st ≠ .free ∧ (s.ctx c).tenant = r.ch
      let blaze := n = 1 ∧ c = 0
      let got := fun (j : Nat) => leBytes 1 j ++ [0, 0, 0]
      (∀ j, t = j ∨ (t = 0xFF ∧ ∀ i, i < j → engineFree s n i = false) → j < engineCount n → engineFree s n j = true →
        (chip → exec (.engineGrant r) s = .next (replyTo
          (setEngCtx { u with chipGrants := tset s.chipGrants j (r.ch, c) } j .reset) r 0 0 (got j)))
        ∧ (blaze → exec (.engineGrant r) s = .next (replyTo
          (setBz { u with blazeGrants := tset s.blazeGrants j r.ch } j .reset) r 0 0 (got j))))
      ∧ (chip ∨ blaze → (t < engineCount n ∧ engineFree s n t = false) ∨ (t = 0xFF ∧ ∀ i, i < engineCount n → engineFree s n i = false) →
          turned (.engineGrant r) 0x20 (9 + n)))
    ∧ (Requested s r 1 [(0, 1), (1, 1)] →
      (n = 0 → t < 16 → (tget? s.chipGrants t).map Prod.fst = some r.ch → exec (.engineRelease r) s = .next (
        if (s.engCtx t).job.isSome then replyTo u r 0x30 1 []
        else replyTo (setEngCtx { u with chipGrants := tdrop s.chipGrants (· == t) } t .reset) r 0 0 []))
      ∧ (n = 1 → t < 32 → tget? s.blazeGrants t = some r.ch → exec (.engineRelease r) s = .next (
        if (s.bz t).attached.isSome then replyTo u r 0x30 1 []
        else replyTo (setBz { u with blazeGrants := tdrop s.blazeGrants (· == t) } t .reset) r 0 0 []))
      ∧ (n < 2 → t < engineCount n → engineOwner s n t ≠ some r.ch → turned (.engineRelease r) 0x21 9))

/-- The graph and transfer services (R422 to R424, R426): load with its checks, run, cancel, unload, and a transfer's first
job on its engine context.

The statement rests in part on readings the model chose, which are no rules of the spec: log entries 64, 65, 67. -/
def Obligations.ServiceRequests : Prop :=
  (∀ (r : Req) (s : State), r.ch < 16 →
    let u := takeReq s r true
    let p := reqField r
    let v := { u with freeTick := s.freeTick + 1 }
    let turned := fun (i : Instr) (status detail : Nat) => exec i s = .next (replyTo u r status detail [])
    let room := (s.channel r.ch).accepted.length < 16
    let liveFence := fun (f : Nat) => f < 16384 ∧ ((s.fence f).st = .live ∨ (s.fence f).st = .poisoned) ∧ 2 ≤ fenceRight (s.fence f) r.ch
    (let c := p 0 2
      let x := s.queue (p 2 2)
      Requested s r 6 [(0, 2), (2, 2), (8, 8), (16, 8)] → c < 256 → (s.ctx c).st ≠ .free → (s.ctx c).tenant = r.ch → p 2 2 < 1024 →
      x.st ≠ .free → (s.ctx x.ctx).tenant = r.ch →
      let idle := x.st = .live ∧ x.ctx = c ∧ x.read = x.last ∧ x.service = false
      (activating s = true → turned (.graphLoad r) 0x30 2)
      ∧ (activating s = false → ¬idle → turned (.graphLoad r) 0x30 1)
      ∧ (activating s = false → idle → (∀ g, g < 64 → (s.graph? g).isSome) → exec (.graphLoad r) s = .next (replyTo v r 0x20 8 []))
      ∧ (activating s = false → idle → (∃ g, g < 64 ∧ s.graph? g = none) → room → ∃ g, g < 64 ∧ s.graph? g = none ∧
          exec (.graphLoad r) s = .next (acceptedBy
            (setGraph (setService v (p 2 2) true) g ⟨r.ch, c, p 2 2, p 8 8, p 16 8, false, none⟩) r 0x610 g)))
    ∧ (∀ x, s.graph? (p 0 1) = some x → x.loaded = true → x.tenant = r.ch →
      (Requested s r 16 [(0, 1), (1, 1), (2, 2), (4, 4), (8, 8), (16, 8), (24, 8), (32, 8), (40, 8), (48, 8), (56, 8)] →
        p 1 1 < 4 → 1 ≤ p 4 4 → p 4 4 ≤ 65536 → ((p 1 1).testBit 0 = true → p 56 8 % 256 = 0) →
        ((p 1 1).testBit 1 = true → liveFence (p 2 2)) →
        let begun : GraphRun :=
          { ringmark := (p 1 1).testBit 0, fence := if (p 1 1).testBit 1 then some (p 2 2) else none, value := p 48 8
            maxSteps := p 4 4, inVa := p 8 8, inBytes := p 16 8, outVa := p 24 8, outBytes := p 32 8, seed := p 40 8
            record := p 56 8, started := false, closing := none, written := 0, steps := 0, cancel := false }
        (activating s = true → exec (.graphRun r) s = .next (serveGraphs (replyTo u r 0x30 2 [])))
        ∧ (activating s = false → x.run ≠ none → exec (.graphRun r) s = .next (serveGraphs (replyTo u r 0x30 3 [])))
        ∧ (activating s = false → x.run = none → (s.ctx x.ctx).st = .live → room → exec (.graphRun r) s =
          .next (serveGraphs (acceptedBy (setGraph u (p 0 1) { x with run := some begun }) r 0x611 (p 0 1)))))
      ∧ (Requested s r 1 [(0, 1)] → ∀ y, x.run = some y → exec (.graphCancel r) s =
          .next (serveGraphs (replyTo (setGraph u (p 0 1) { x with run := some { y with cancel := true } }) r 0 0 []))
          ∧ turned (.graphUnload r) 0x30 3)
      ∧ (Requested s r 1 [(0, 1)] → x.run = none → ∃ w, exec (.graphUnload r) s = .next (replyTo w r 0 0 [])
          ∧ w.graph? (p 0 1) = none ∧ w.queue x.queue = { s.queue x.queue with service := false }))
    ∧ (let f := p
      let n := f 32 8
      let c := f 2 1
      Requested s r 16 [(0, 1), (1, 1), (2, 1), (3, 1), (4, 2), (6, 2), (8, 8), (16, 2), (18, 2), (24, 8), (32, 8), (40, 8), (48, 2), (56, 8)] →
      f 0 1 ≤ 2 → f 1 1 < 8 → c < 16 → (tget? s.chipGrants c).map Prod.fst = some r.ch →
      ((f 1 1).testBit 0 = true → f 3 1 < 32 ∧ tget? s.blazeGrants (f 3 1) = some r.ch ∧ (s.bz (f 3 1)).attached = none) →
      nameLive s (f 4 2) (f 6 2) = true → f 8 8 + n ≤ (s.obj (f 4 2)).size → objRight (s.obj (f 4 2)) r.ch ≠ 0 →
      nameLive s (f 16 2) (f 18 2) = true → f 24 8 + f 40 8 ≤ (s.obj (f 16 2)).size → 2 ≤ objRight (s.obj (f 16 2)) r.ch →
      objGone s (f 4 2) = false → objGone s (f 16 2) = false → 4 ≤ n → n ≤ 2 ^ 36 →
      ((f 1 1).testBit 2 = true → liveFence (f 48 2)) → (s.engCtx c).job = none → room →
      ∃ j blk, exec (.transfer r) s = .next (acceptedBy
          (attachBz (setEngCtx v c { s.engCtx c with job := some j, stream := none }) c j.blaze) r 0x630 c)
        ∧ 1 ≤ blk ∧ blk ≤ 64 ∧ j.block = blk * 4096 ∧ j.mode = 2 - f 0 1 ∧ j.src = f 8 8 ∧ j.dst = f 24 8 ∧ j.srcBytes = min n (2 ^ 31)
        ∧ j.limit = f 40 8 ∧ j.ends = decide (n ≤ 2 ^ 31) ∧ j.fence = (if (f 1 1).testBit 2 then some (f 48 2) else none)
        ∧ j.value = f 56 8 ∧ j.blaze = (if (f 1 1).testBit 0 then some (f 3 1, (f 1 1).testBit 1) else none)
        ∧ j.xfer = some ⟨r.ch, f 4 2, f 16 2, 0, f 24 8, j.fence, f 56 8, n - min n (2 ^ 31)⟩
        ∧ j.pos = 0 ∧ j.out = 0 ∧ j.finished = false))
  ∧ (∀ (g : Nat) (x : Graph) (s : State), s.graph? g = some x → x.loaded = false → s.ranger.up = true → (s.ctx x.ctx).st = .live →
    let ends := fun (u : State) (status detail : Nat) => exec (.graphLoadDone g) s =
      .next (finalOn (dropGraph u g x.queue) x.tenant 0x610 g status detail [])
    (∀ e, vread s x.ctx x.va x.bytes = .error e → ends (serviceFault s x.ctx x.queue e) 0x31 0x20FF)
    ∧ (∀ bs u, vread s x.ctx x.va x.bytes = .ok (bs, u) →
      ((Config.packageHead bs).1 ≠ 0x4E394750 → ends u 0x12 8)
      ∧ ((Config.packageHead bs).1 = 0x4E394750 → (Config.packageHead bs).2 ≠ 3 → ends u 0x40 6)
      ∧ ((Config.packageHead bs).1 = 0x4E394750 → (Config.packageHead bs).2 = 3 → exec (.graphLoadDone g) s =
          .next (finalOn (setGraph u g { x with loaded := true }) x.tenant 0x610 g 0 0 (leBytes 1 g ++ [0, 0, 0])))))

/-- The composition service (R425, Table 13.16): start with its checks, one frame of a service, and stop.

The statement rests in part on readings the model chose, which are no rules of the spec: log entry 66. -/
def Obligations.CompositionService : Prop :=
  (∀ (r : Req) (s : State), r.ch < 16 →
    let u := takeReq s r true
    let p := reqField r
    let n := p 0 1
    let key := 16 * n + r.ch
    let turned := fun (i : Instr) (status detail : Nat) => exec i s = .next (replyTo u r status detail [])
    (Requested s r 6 [(0, 1), (2, 2), (4, 2), (6, 2), (8, 8), (16, 2), (18, 1)] → n < 4 → nameLive s (p 4 2) (p 6 2) = true →
      p 8 8 + 1024 ≤ (s.obj (p 4 2)).size → p 18 1 < 2 →
      (p 18 1 = 1 → p 16 2 < 16384 ∧ ((s.fence (p 16 2)).st = .live ∨ (s.fence (p 16 2)).st = .poisoned)) →
      let holds := ∀ k, k < 16 → (p 2 2).testBit k = true → layerOwner s n k = some r.ch
      let may := 2 ≤ objRight (s.obj (p 4 2)) r.ch ∧ (p 18 1 = 1 → 2 ≤ fenceRight (s.fence (p 16 2)) r.ch)
      let made : Compose :=
        { tenant := r.ch, mask := p 2 2, obj := p 4 2, gen := p 6 2, off := p 8 8
          done := if p 18 1 = 1 then some (p 16 2) else none
          value := (s.fence (p 16 2)).value.toNat + 1, applied := [] }
      (¬holds → turned (.composeStart r) 0x21 9) ∧ (holds → ¬may → turned (.composeStart r) 0x21 3)
      ∧ (holds → may → objGone s (p 4 2) = false → exec (.composeStart r) s = .next (
        if (tget? s.prism.compose key).isSome then replyTo u r 0x30 1 []
        else replyTo { u with prism := { s.prism with compose := tset s.prism.compose key made } } r 0 0 [])))
    ∧ (Requested s r 1 [(0, 1)] → n < 4 → exec (.composeStop r) s = .next (
        if (tget? s.prism.compose key).isNone then replyTo u r 0x12 0xFFFF []
        else replyTo { u with prism := { s.prism with compose := tdrop s.prism.compose (· == key) } } r 0 0 [])))
  ∧ (∀ (n t : Nat) (x : Compose) (torn : List Nat) (s : State), n < 4 → t < 16 → s.ranger.up = true → (s.output n).src ≠ .off →
    s.prism.compose = [(16 * n + t, x)] → objReachable s x.obj x.gen = true →
    let table := devRead s ((s.obj x.obj).base + x.off) 1024
    let gen := fun (k : Nat) => fieldAt ((table.1.drop (64 * k)).take 64) 0 4
    let new := fun (k : Nat) => k < 16 ∧ x.mask.testBit k = true ∧ k ∉ torn ∧ tget? x.applied k ≠ some (gen k)
    ((∀ k, ¬new k) → exec (.composeServiceFrame n torn) s = .next table.2)
    ∧ ((∃ k, new k) → Answers (.composeServiceFrame n torn) s fun v =>
        (∀ k, new k → v.layer n k =
          { s.layer n k with pend := windowRegs ((table.1.drop (64 * k)).take 64) })
        ∧ (∀ j k, k < 16 → ¬(j = n ∧ new k) → v.layer j k = s.layer j k)
        ∧ ∃ y, tget? v.prism.compose (16 * n + t) = some y ∧ (∀ k, new k → tget? y.applied k = some (gen k))
          ∧ (∀ k, ¬new k → tget? y.applied k = tget? x.applied k) ∧ (y.value = x.value ∨ y.value = x.value + 1)))

/-- Images and debug access through the Flume (R427 to R430, R482, Tables 13.13, 13.15, 13.17 and 13.19): staging with its checks,
queries, activation, commit and rollback, each with its refusals.

The statement rests in part on readings the model chose, which are no rules of the spec: log entry 68. -/
def Obligations.ImageRequests : Prop :=
  (∀ (r : Req) (s : State), r.ch < 16 →
    let u := takeReq s r true
    let p := reqField r
    let b := 1 - s.boot.bank
    let old := bankImage s s.boot.bank
    let new := bankImage s b
    let room := (s.channel r.ch).accepted.length < 16
    let may := bankSt s b = .staged ∨ (bankSt s b = .good ∧ s.ranger.wentBack = true)
    let turned := fun (i : Instr) (status detail : Nat) => exec i s = .next (replyTo u r status detail [])
    let begun := fun (opcode : Nat) (c : Bool) => acceptedBy (setAct u (some
      ⟨.copy, b, s.boot.bank, opcode, r.ch, c, s.cfg, false, 0, false, 0⟩)) r opcode b
    (Requested s r 4 [(0, 2), (2, 2), (4, 4), (8, 8)] → isF s r = false → turned (.imageStage r) 0x21 10)
    ∧ (Requested s r 4 [(0, 2), (2, 2), (4, 4), (8, 8)] → isF s r = true → nameLive s (p 0 2) (p 2 2) = true →
        p 8 8 + p 4 4 ≤ (s.obj (p 0 2)).size → objRight (s.obj (p 0 2)) r.ch ≠ 0 → objGone s (p 0 2) = false →
        s.ranger.act = none → s.ranger.stage = none →
        (∀ e, locRead u (.obj (p 0 2)) (p 8 8) (p 4 4) = .error e → turned (.imageStage r) 0x31 0x21FF)
        ∧ (∀ img v, locRead u (.obj (p 0 2)) (p 8 8) (p 4 4) = .ok (img, v) →
          (∀ st d, stageFail v img (p 4 4) (imgFloor (bankImage v v.boot.bank)) = some (st, d) →
            exec (.imageStage r) s = .next (replyTo v r st d []))
          ∧ (stageFail v img (p 4 4) (imgFloor (bankImage v v.boot.bank)) = none → room →
            let w := setBank (flashErase v (bankBase b) bankBytes) b .empty 0
            exec (.imageStage r) s = .next (acceptedBy
              { w with ranger := { w.ranger with stage := some ⟨p 0 2, img, b⟩ } } r 0x701 b))))
    ∧ (Requested s r 0 [] → ∃ v bs, exec (.imageQuery r) s = .next (replyTo v r 0 0 bs) ∧ bs.length = 64
        ∧ ∀ k, k < 2 → fieldAt bs (32 * k) 1 = (bankSt s k).code ∧ fieldAt bs (32 * k + 1) 1 = (if k = s.boot.bank then 1 else 0)
          ∧ (bankSt s k ≠ .empty → (bs.drop (32 * k + 4)).take 20 = flashRead s (bankBase k + 8) 20))
    ∧ (Requested s r 2 [(0, 1), (2, 2), (4, 4)] → p 0 1 < 4 → p 2 2 ≤ 60000 →
      (isF s r = false → turned (.imageActivate r) 0x21 10)
      ∧ (isF s r = true → s.ranger.act ≠ none → turned (.imageActivate r) 0x30 2)
      ∧ (isF s r = true → s.ranger.act = none → ¬may ∨ imgVersion new ≠ p 4 4 → turned (.imageActivate r) 0x40 5)
      ∧ (isF s r = true → s.ranger.act = none → may → imgVersion new = p 4 4 →
        (∀ st d, activateFail old new ((p 0 1).testBit 0) = some (st, d) → turned (.imageActivate r) st d)
        ∧ (activateFail old new ((p 0 1).testBit 0) = none → room →
            exec (.imageActivate r) s = .next (begun 0x703 ((p 0 1).testBit 1)))))
    ∧ (Requested s r 0 [] → (s.ranger.act = none → turned (.imageCommit r) 0x12 0xFFFF)
      ∧ ∀ a, s.ranger.act = some a →
        (a.phase ≠ .probation → turned (.imageCommit r) 0x12 0xFFFF)
        ∧ (a.phase = .probation → exec (.imageCommit r) s = .next (if a.by_ = r.ch
            then replyTo (setAct u (some { a with committed := true })) r 0 0 [] else replyTo u r 0x21 10 [])))
    ∧ (Requested s r 0 [] → (isF s r = false → turned (.imageRollback r) 0x21 10)
      ∧ (isF s r = true → s.ranger.act = none → bankSt s b = .good → imgFloor old ≤ imgVersion new →
        (∀ st d, activateFail old new false = some (st, d) → turned (.imageRollback r) st d)
        ∧ (activateFail old new false = none → room → exec (.imageRollback r) s = .next (begun 0x705 false)))
      ∧ (isF s r = true → s.ranger.act = none → bankSt s b ≠ .good ∨ imgVersion new < imgFloor old → turned (.imageRollback r) 0x31 0x14FF)
      ∧ (isF s r = true → ∀ a, s.ranger.act = some a → room → exec (.imageRollback r) s = .next (
          if a.phase = .probation then acceptedBy (failProbation u { a with rollback := true } 0x13) r 0x705 (a.bank + 2)
          else if bankSt s b = .good ∧ imgFloor old ≤ imgVersion new then replyTo u r 0x30 2 [] else replyTo u r 0x31 0x14FF [])))
    ∧ (Requested s r 1 [(0, 1)] → p 0 1 < 2 → isF s r = true → exec (.debugGrant r) s = .next (
        if s.fuses.scorched then replyTo u r 0x21 6 []
        else replyTo { u with ranger := { s.ranger with debug := p 0 1 == 1 } } r 0 0 [])))
  ∧ (∀ (x : StageRun) (s : State), s.ranger.stage = some x → s.ranger.up = true →
      let v := setBank (flashWrite s (bankBase x.bank) x.image) x.bank .staged (imgVersion x.image)
      exec .imageStageDone s = .next (finalAll { v with ranger := { v.ranger with stage := none } } 0x701 x.bank 0 0
        (leBytes 4 (imgVersion x.image) ++ leBytes 1 x.bank ++ [0, 0, 0])))

/-- Activations and restarts of Ranger (R406 to R409, R428 to R430, Table 13.19): each step of a live activation, how probation
ends, the way back to the previous image, and what a restart ends at once.

The statement rests in part on readings the model chose, which are no rules of the spec: log entry 69. -/
def Obligations.Activations : Prop :=
  (∀ (a : Activation) (s : State), s.ranger.act = some a →
    let img := bankImage s a.bank
    (a.phase = .copy → s.ranger.up = true → exec .activationCopyDone s = .next (setAct s (some { a with phase := .wait })))
    ∧ (a.phase = .wait → holding s = false → s.ranger.up = true → exec .activationWaitExpired s =
        .next (finalAll (setAct s none) a.opcode a.bank 0x30 3 []))
    ∧ (holding s = true → (∀ n, n < 4 → (s.output n).src = .hold ∨ (s.output n).src = .off) → s.ranger.up = true →
        exec .switchStart s = .next (setRangerSt (if a.phase = .wait then setAct s (some { a with phase := .switch }) else s) .switch))
    ∧ (s.ranger.st = .switch → a.phase = .switch → Answers .switchEnd s fun t =>
        t.ranger.st = .probation ∧ t.ranger.act = some { a with phase := .probation, since := s.timer } ∧ t.boot.bank = a.bank
        ∧ t.cfg = s.cfg.live (imgConfig img) ∧ t.flash = (setBank s a.bank .probation (imgVersion img)).flash)
    ∧ (s.ranger.st = .switch → a.phase ≠ .switch → exec .switchEnd s = .next (resumeRollCall (endBack s a)))
    ∧ (a.phase = .probation → s.ranger.st = .probation →
      let v := setRangerSt (setAct (setBank s a.bank .good (imgVersion img)) none) .run
      exec (.healthWindowEnd false) s = .next (failProbation s a 0x10)
      ∧ (a.commitReq = true → a.committed = false → exec (.healthWindowEnd true) s = .next (failProbation s a 0x11))
      ∧ (a.commitReq = false ∨ a.committed = true → exec (.healthWindowEnd true) s = .next (finalAll { v with boot :=
          { v.boot with configBank := a.bank, kreogVersion := imgKreog img, kreogBuild := imgBuild img, configVersion := imgVersion img } }
          a.opcode a.bank 0 0 [])))
    ∧ (s.ranger.st = .restarting → exec .rangerRestartDone s = .next (resumeRollCall (endBack s a)))
    ∧ (endBack s a).ranger.st = .run ∧ (endBack s a).ranger.act = none ∧ (endBack s a).boot.bank = a.prev
    ∧ (endBack s a).cfg = a.before ∧ (endBack s a).ranger.wentBack = true
    ∧ ∀ k, (failProbation s a k).ranger.act = some { a with phase := .back, reason := k }
      ∧ (failProbation s a k).flash = (setBank s a.bank .bad (bankVersion s a.bank)).flash)
  ∧ (∀ (cause : Nat) (s : State), 1 ≤ cause → cause ≤ 4 → s.ranger.st ≠ .boot → s.ranger.st ≠ .stopped →
    Answers (.rangerRestart cause) s fun t =>
      t.ranger.st = (if fourthTrigger s then .stopped else .restarting) ∧ t.ranger.lastCause = cause ∧ t.ranger.stage = none
      ∧ t.ranger.restarts = (if fourthTrigger s then s.ranger.restarts else min (s.ranger.restarts + 1) 0xFFFF)
      ∧ (∀ n, (t.output n).src = if (s.output n).src = .compose then .hold else (s.output n).src)
      ∧ ∀ g x, t.graph? g = some x → x.run = none ∧ x.loaded = true)
  ∧ (∀ s : State, s.ranger.st = .restarting → s.ranger.act = none → exec .rangerRestartDone s = .next (kreogRuns (setRangerSt s .run)))

/-- Flips (R248 to R258, R269, Tables 8.2, 8.3 and 8.5): what a submit answers and arms, what a flip deadline latches, and the
deadline requests of a lead window.

The statement rests in part on readings the model chose, which are no rules of the spec: log entries 46, 47. -/
def Obligations.Flips : Prop :=
  (∀ (a : Access) (t : Nat) (s : State), accUp s a = true → accTenant s a = some t →
    let u := Submit.ofNat (accOnes a).toNat
    let done := doneOf (s.page t)
    (∀ st d, submitCheck s t u done = some (st, d) →
      exec (.flipSubmit a t) s = .next (s.setPage t { s.page t with tag := u.tag, status := st, detail := d }))
    ∧ (submitCheck s t u done = none → Answers (.flipSubmit a t) s fun v =>
      (v.page t).tag = u.tag ∧ (v.page t).status = 0 ∧ (v.page t).detail = 0 ∧ v.prism.nextSet = s.prism.nextSet + 1
      ∧ (∀ y ∈ v.prism.sets, y.output = u.output → (∃ k ∈ u.layers, tget? y.snap k ≠ none) → y.id = s.prism.nextSet)
      ∧ ((∀ k ∈ u.layers, (s.layer u.output k).pend.acqEn = false) → ∃ y ∈ v.prism.sets,
          y = ⟨s.prism.nextSet, t, u.output, u.tag, done, (s.page t).doneValue, snapOf s u, true, s.timer⟩)))
  ∧ (∀ (n : Nat) (late : List (Nat × Nat)) (s : State), n < 4 → (s.output n).src ≠ .off →
    let o := s.output n
    let src : PixSrc := if o.toKeeper = true then .keeper
      else if o.src = .keeper then (if o.released = false then .keeper else if holdAsked s = true then .hold else .compose)
      else if o.src = .compose ∧ holdAsked s = true then .hold
      else if o.src = .hold ∧ holdAsked s = false then .compose else o.src
    let cleared := o.src = .keeper ∧ src ≠ .keeper ∧ o.engineReset = true
    let mine := s.prism.sets.filter fun x => x.output == n
    (Answers (.flipDeadline n late) s fun t =>
      let y := t.output n
      y.src = src ∧ y.frame = (o.frame + 1) % 2 ^ 64 ∧ y.bgAct = o.bg ∧ y.leadAct = o.lead ∧ y.under = []
      ∧ y.leadDues = o.laterDues s.timer
      ∧ y.act = (if o.commit = true ∧ o.pend.ok = true then o.pend else o.act) ∧ y.commit = false ∧ y.toKeeper = false ∧ y.released = false)
    ∧ (∀ x, mine = [x] → x.ready = true → src = .compose → ¬cleared → (x.snap.map Prod.fst).Nodup →
      Answers (.flipDeadline n []) s fun t =>
        (∀ y ∈ t.prism.sets, y.output ≠ n) ∧ (∀ e ∈ x.snap, (t.layer n e.1).act = e.2)
        ∧ tget? (t.page x.tenant).last n = some (x.tag, 1, (o.frame + 1) % 2 ^ 64 % 2 ^ 40))
    ∧ ((∀ x ∈ mine, x.ready = false ∨ ∃ age, (x.id, age) ∈ late ∧ x.mayWait age s = true) ∨ src ≠ .compose → Answers (.flipDeadline n late) s fun t =>
        (¬cleared → t.prism.sets = s.prism.sets) ∧ (cleared → ∀ x ∈ t.prism.sets, x.output ≠ n)
        ∧ (∀ k, 16 * n + k ∉ s.prism.drop → ¬cleared → k < 16 → t.layer n k = s.layer n k)
        ∧ ∀ k, 16 * n + k ∈ s.prism.drop ∨ cleared → k < 16 → (t.layer n k).act.enable = false ∧ 16 * n + k ∉ t.prism.drop))
  ∧ (∀ (n due : Nat) (s : State), (s.output n).src = .compose → bitsOf (s.output n).leadAct.toNat 13 0 ≠ 0 →
    Answers (.leadWindowOpen n due) s fun t =>
      let dues := (s.output n).leadDues
      (t.output n).leadDues = (dues.filter fun d => decide (d < due)) ++ [due] ++ dues.filter fun d => decide (due < d)
      ∧ ∀ x ∈ s.prism.sets, x.output = n → x.ready = false → ∀ r ∈ x.acquires, r.queueEn = true →
        (s.fence r.acqFence).outcome r.acq.toNat ≠ some 0 → ∃ b ∈ t.sched.boosts, b.set = x.id ∧ b.queue = r.queue ∧ some b.due = (t.output n).leadDues.head?)

/-- The Beacon record, its owner and the keeper (R241, R264, R266 to R271, Tables 8.4 and 8.5).

The statement rests in part on readings the model chose, which are no rules of the spec: log entries 46, 129. -/
def Obligations.BeaconAndKeeper : Prop :=
  (∀ (a : Access) (n t : Nat) (s : State), n < 4 → accUp s a = true → accTenant s a = some t →
    let off := 0x4000000 + 0x400018 + 0x1000 * n
    let o := s.output n
    (beaconOwner s ≠ some t → exec (.beaconCommit a n) s = .next (accLog s a t 0x2 off))
    ∧ (beaconOwner s = some t → n / 2 ∈ s.prism.locks → exec (.beaconCommit a n) s =
        .next (accLog (s.setOutput n { o with commitErr := 2 }) a t 0x4 off))
    ∧ (beaconOwner s = some t → n / 2 ∉ s.prism.locks → exec (.beaconCommit a n) s = .next (s.setOutput n (
        if o.src ≠ .off then { o with commit := true }
        else if o.pend.ok then { o with act := o.pend, commit := false, commitErr := 0 }
        else { o with commit := false, commitErr := 1 }))))
  ∧ (∀ (b : BeaconRegs), b.ok = true ↔ 1 ≤ b.w ∧ b.w ≤ 8192 ∧ 1 ≤ b.h ∧ b.h ≤ 8192 ∧ b.w ≤ b.stride
      ∧ b.off + (b.h - 1) * b.stride + b.w ≤ 1048576)
  ∧ (∀ (n : Nat) (s : State), n < 4 → (s.output n).src ≠ .off →
    let o := s.output n
    (o.busy = true → exec (.beaconPublish n) s = .next s)
    ∧ (o.frame ≠ 0 → o.busy = false → Answers (.beaconPublish n) s fun t => t.output n = { o with record :=
      ⟨o.frame, crcCheck 0 n (o.frame % 2 ^ 32) 0 (sourceBytes s n), crcCheck 0 n (o.frame % 2 ^ 32) 0 (outputBytes s n), recordFlags s n⟩ }
      ∧ ∀ k, k ≠ n → t.output k = s.output k)
    ∧ (∀ x y, o.src = .compose ∨ o.src = .hold → o.busy = false → x < o.mode.hActive → y < o.mode.vActive → (x, y) ∉ o.under →
        exec (.pixelUnderrun n x y) s = .next (bump (s.setOutput n { o with under := (x, y) :: o.under }) (0x94 + n) 0x130))
    ∧ exec (.keeperEntry n false) s = .next (s.setOutput n { o with toKeeper := o.toKeeper || o.src != .keeper })
    ∧ (Answers (.keeperEntry n true) s fun t =>
        t.output n = { o with toKeeper := o.toKeeper || o.src != .keeper, engineReset := true, released := false }
        ∧ ∀ x ∈ t.prism.sets, x.output ≠ n)
    ∧ (o.src = .keeper → s.ranger.up = true → domainOn s (0x90 + n / 2) = true →
        exec (.keeperRelease n) s = .next (s.setOutput n { o with released := true })))

/-- Outputs and sinks (R259 to R261, R270, R274 to R280, R284, Tables 8.10, 8.22, 8.23 and 8.25): enable, disable and mode sets by
their owner, what training, write-back, a plug and an AUX transaction leave.

The statement rests in part on readings the model chose, which are no rules of the spec: log entries 49, 50. -/
def Obligations.Outputs : Prop :=
  (∀ (a : Access) (n t : Nat) (s : State), n < 4 → accUp s a = true → accTenant s a = some t →
    let o := s.output n
    (outOwner s n ≠ some t →
      let no := .next (accLog s a t 0x2 (0x4000000 + 0x100000 + 0x10000 * n))
      exec (.outputEnable a n) s = no ∧ exec (.outputDisable a n) s = no ∧ exec (.modeset a n) s = no)
    ∧ (outOwner s n = some t → o.src = .off → 0x94 + n ∉ s.power.nightPads → outClosing s n = false → Answers (.outputEnable a n) s fun v =>
        let y := v.output n
        y.src = (if s.ranger.up = true then .compose else .hold) ∧ y.frame = 0 ∧ y.err = modeErr o y.pendMode ∧ 0x94 + n ∈ v.power.on ∧ 0x90 + n / 2 ∈ v.power.on
        ∧ (y.err = 0 → y.mode = y.pendMode ∧ y.busy = o.sink ∧ y.linkUp = false))
    ∧ (outOwner s n = some t → o.src = .off → 0x94 + n ∈ s.power.nightPads ∨ outClosing s n = true → Answers (.outputEnable a n) s fun v =>
        (v.output n).src = .off ∧ (v.output n).waitEnable = true)
    ∧ (outOwner s n = some t → o.src ≠ .off → Answers (.outputDisable a n) s fun v =>
        (v.output n).src = .off ∧ (v.output n).linkUp = false ∧ (v.output n).busy = false ∧ (∀ x ∈ v.prism.sets, x.output ≠ n)
        ∧ (∀ e ∈ v.prism.compose, e.1 / 16 ≠ n) ∧ ∀ k, k < 16 → (v.layer n k).act.enable = false)
    ∧ (outOwner s n = some t → o.src ≠ .off → o.busy = false → Answers (.modeset a n) s fun v =>
        let y := v.output n
        y.src = o.src ∧ y.err = modeErr o y.pendMode
        ∧ (y.err = 0 → y.mode = y.pendMode ∧ y.busy = o.sink ∧ y.linkUp = false) ∧ (y.err ≠ 0 → y.mode = o.mode))
    ∧ (outOwner s n = some t →
      let v := accFields { a with data := a.data ||| 0x8000000000000000, be := a.be ||| 0x80 } 0x0F0C0000000FFFFF o.aux
      exec (.go a n) s = .next (s.setOutput n (if o.auxBusy then { o with aux := v }
        else if auxDenied o v then { o with aux := v, auxResult := 4 } else { o with aux := v, auxBusy := true }))))
  ∧ (∀ (n : Nat) (s : State), n < 4 →
    let o := s.output n
    (o.busy = true → exec (.modesetDone n none) s = .next (s.setOutput n { o with busy := false, linkUp := false, err := 4 })
      ∧ ∀ r l, (r, l) ∈ linkChoices o o.mode → laneMb o.iface r ≤ laneMb o.iface o.mode.rate → l ≤ o.mode.lanes →
        Answers (.modesetDone n (some (r, l))) s fun v => (v.output n).linkUp = true ∧ (v.output n).busy = false
          ∧ (v.output n).mode.rate = r ∧ (v.output n).mode.lanes = l ∧ ∀ k, k ≠ n → v.output k = s.output k)
    ∧ (o.wbCtl.getLsbD 0 = true → o.busy = false → o.src = .compose ∨ o.src = .hold →
      (∀ k, exec (.writebackFrameDone n (some k)) s = .next (bump (wbWrite s n k) (0x94 + n) 0x158))
      ∧ exec (.writebackFrameDone n none) s = .next (
          let v := bump (wbWrite s n (o.mode.hActive * o.mode.vActive)) (0x94 + n) 0x150
          if o.frame = 0 then v else ownerSignal v n o.wbSync o.frame))
    ∧ (∀ bytes blocks, o.iface ≠ 2 → o.sink = false → hpdHeld s n = false → bytes.length = 512 → blocks.length ≤ 16 → (∀ b ∈ blocks, b.length = 128) →
      Answers (.hpdPlug n bytes blocks) s fun v =>
        let y := v.output n
        y.sink = true ∧ y.sinkGen = (o.sinkGen + 1) % 2 ^ 32 ∧ y.sinkBlocks = blocks.length
        ∧ (∀ i, i < 512 → y.window.get i = bytes.getD i 0)
        ∧ (∀ i, i < blocks.length → y.sinkFlags.testBit i = (((blocks.getD i []).map BitVec.toNat).sum % 256 != 0))
        ∧ (o.policy = 0 → y.mode = o.mode ∧ y.busy = o.busy))
    ∧ (hpdHeld s n = true → exec (.hpdUnplug n) s = .next s ∧ (∀ up, exec (.irqHpd n up) s = .next s)
        ∧ ∀ bytes blocks, exec (.hpdPlug n bytes blocks) s = .next s)
    ∧ (o.iface ≠ 2 → o.sink = true → hpdHeld s n = false → Answers (.hpdUnplug n) s fun v =>
        v.output n = { o with sink := false, linkUp := false, busy := false, sinkGen := (o.sinkGen + 1) % 2 ^ 32 })
    ∧ (exec (.irqHpd n none) s = .next s
        ∧ ∀ up, o.iface ≠ 2 → o.sink = true → o.src ≠ .off → o.busy = false → hpdHeld s n = false →
          exec (.irqHpd n (some up)) s = .next (bump (s.setOutput n { o with linkUp := up }) (0x94 + n) 0x148))
    ∧ (∀ result bytes, o.auxBusy = true → result < 4 → Answers (.auxDone n result bytes) s fun v =>
        (v.output n).auxBusy = false ∧ (v.output n).auxResult = result
        ∧ (o.aux.getLsbD 50 = false ∨ result ≠ 0 → (v.output n).aux0 = o.aux0 ∧ (v.output n).aux1 = o.aux1)
        ∧ (o.aux.getLsbD 50 = true → result = 0 → bytes.length = bitsOf o.aux.toNat 59 56 + 1 → ∀ i, i < bytes.length →
            byteAt (leBytes 8 (v.output n).aux0.toNat ++ leBytes 8 (v.output n).aux1.toNat) i = bytes.getD i 0)))

/-- Sag response and the governor (R421, R435 to R443, R460, Tables 14.2, 14.13 and 14.14): what a trip of a stand's sensor and of
the fabric's leaves, recovery, the DROOP_STEP event, envelope requests, and a control period of the governor.

The statement rests in part on readings the model chose, which are no rules of the spec: log entries 51 to 53. -/
def Obligations.SagAndGovernor : Prop :=
  (∀ (k : Nat) (s : State), k < 6 → s.power.pll = true →
    let x := s.stand k
    let others := fun (t : State) => ∀ j, j ≠ k → t.stand j = s.stand j
    (x.trip = false → Answers (.droopTrip k) s fun t => (t.stand k).trip = true ∧ (t.stand k).deep = x.deep
      ∧ (t.stand k).ladder = (if x.ladder ≤ 7 then 8 else x.ladder) ∧ (t.stand k).gov = x.gov ∧ others t)
    ∧ (x.deep = false → s.cfg.droopDeepMv ≠ 0 →
      (Answers (.deepTrip k false) s fun t => (t.stand k).deep = true ∧ (t.stand k).trip = x.trip
        ∧ (t.stand k).ladder = (if x.ladder ≤ 8 then 12 else x.ladder) ∧ others t)
      ∧ (x.trip = false → Answers (.deepTrip k true) s fun t => (t.stand k).deep = true ∧ (t.stand k).trip = true
        ∧ (t.stand k).ladder = 12 ∧ others t))
    ∧ exec (.tripClear k false) s = .next (setStand s k { x with trip := false })
    ∧ exec (.tripClear k true) s = .next (setStand s k { x with deep := false })
    ∧ (x.ladder = 12 → x.deep = false → s.power.fabDeep = false → exec (.droopRecover k) s = .next (setStand s k { x with ladder := 8 }))
    ∧ (x.ladder = 8 → x.trip = false → s.power.fabTrip = false → exec (.droopRecover k) s = .next (setStand s k { x with ladder := 7 }))
    ∧ (x.ladder = 7 → x.trip = false → s.power.fabTrip = false → exec (.droopRecover k) s = .next (setStand s k { x with ladder := 6 }))
    ∧ (x.ladder ≠ 12 → x.trip = true ∨ s.power.fabTrip = true → exec (.droopRecover k) s = .next s)
    ∧ (x.steps ≠ 0 → exec (.droopStepDelivery k) s = .next (postEvent (setStand s k { x with steps := 0, delivered := some s.timer })
        3 (0xA0 + k) (max x.gov x.ladder + min x.steps 0xFFFF * 65536) s.timer)))
  ∧ (∀ (s : State), s.power.pll = true → s.power.fabTrip = false → Answers (.droopTrip 6) s fun t => t.power.fabTrip = true
      ∧ ∀ k, k < 6 → (t.stand k).ladder = (if (s.stand k).ladder ≤ 7 then 8 else (s.stand k).ladder) ∧ (t.stand k).trip = (s.stand k).trip)
  ∧ (∀ (p1 p100 : Nat) (tj : Int) (s : State), s.ranger.up = true → s.power.pll = true →
    let w := s.power
    let now := envelopeNow s
    let drop := if tjMax s - 3 ≤ tj then min (w.drop + 1) now
      else if tj ≤ tjMax s - 6 ∧ w.cool = 9 then w.drop - 1 else min w.drop now
    let stuck := now * 500 < floorPower s ∨ ((s.stand 0).gov = 12 ∧ w.duty = 1 ∧ (now - drop) * 500 < p1)
    let share := rateShare (s.stand 0).gov w.duty
    Answers (.governorPeriod p1 p100 tj) s fun t =>
      t.power.drop = drop ∧ t.power.work = now - drop ∧ t.power.tj = tj ∧ t.power.p1 = p1 ∧ t.power.p100 = p100
      ∧ ∃ g, (∀ k, k < 6 → (t.stand k).gov = g ∧ (t.stand k).ladder = (s.stand k).ladder)
        ∧ (w.floor = true ∨ stuck → g = 12 ∧ t.power.duty = 1 ∧ t.power.limit = if w.floor then 2 else 3)
        ∧ (w.floor = false → ¬stuck → (g = 6 ∨ g = 7 ∨ g = 8 ∨ g = 12) ∧ 1 ≤ t.power.duty ∧ t.power.duty ≤ 64
          ∧ ((g, t.power.duty) = (12, 1) ∨ (rateShare g t.power.duty ≤ share + 112
              ∧ Config.powerFits s.freeTick (now - drop) g t.power.duty = true))
          ∧ (∀ q ∈ govPairs, rateShare q.1 q.2 ≤ share + 112 → Config.powerFits s.freeTick (now - drop) q.1 q.2 = true →
              rateShare q.1 q.2 ≤ rateShare g t.power.duty)
          ∧ t.power.limit = if g = 6 ∧ t.power.duty = 64 then 0 else if drop = 0 then 1 else 2))
  ∧ (∀ (r : Req) (s : State), r.ch < 16 → Requested s r 1 [(0, 1)] →
    let u := takeReq s r true
    let e := reqField r 0 1
    exec (.envelopeSet r) s = .next (if 12 ≤ e ∧ e ≤ s.cfg.envelope
      then replyTo (u.setTenant r.ch { s.tenant r.ch with envelope := some e }) r 0 0 [] else replyTo u r 0x12 0 []))
  ∧ (∀ (a : Access) (t : Nat) (s : State), accUp s a = true → accTenant s a = some t → a.be = 0xFF →
    let v := a.data.toNat % 256
    exec (.envelopeReq a) s = .next (if v = 0 then s.setTenant t { s.tenant t with envelope := none }
      else if 12 ≤ v ∧ v ≤ s.cfg.envelope then s.setTenant t { s.tenant t with envelope := some v }
      else accLog s a t 0xE 0x7000018))

/-- Dusk, Night and the thermal monitor (R445 to R456, R458, R529, R530, Tables 14.6 to 14.8): how a step starts, what each answer
does, cancellation, commits, the wake and forced Night.

The statement rests in part on readings the model chose, which are no rules of the spec: log entries 72 to 77. -/
def Obligations.DuskAndNight : Prop :=
  (∀ (u : Nat) (a : DuskAgent) (s : State), unitAgent u = some a → u ∈ s.power.on → s.ranger.up = true →
    tget? s.power.dusk 0x100 = none → s.power.dusk.length < 8 →
    let out := 0x94 ≤ u ∧ u < 0x98
    let units := if u < 0x30 ∧ 0x30 + u ∈ s.power.on then [u, 0x30 + u] else [u]
    (¬out → s.cfg.idleGateUs ≠ 0) → (∀ e ∈ s.power.dusk, ∀ x ∈ units, x ∉ e.2.units) →
    (gatedWhenIdle u = true → agentAnswer s 1 a = .ack) → (u < 0x60 → u % 0x30 ∉ s.avail.testing) →
    (∀ x ∈ units, retiring s x = false) →
    let begun : DuskStep :=
      { kind := if 0x94 ≤ u ∧ u < 0x98 then 2 else 1, units := units, phase := 0, agents := asked (units.filterMap unitAgent)
        delayer := 0xFF, start := s.timer, commit := false }
    exec (.idleGateStart u) s = .next (setDusk s (tset s.power.dusk u begun)))
  ∧ (∀ (k : Nat) (a : DuskAgent) (x : DuskStep) (s : State), tget? s.power.dusk k = some x → x.commit = false →
    let ans := agentAnswer s x.kind a
    let cancelled := fun (i : Instr) (reason unit : Nat) => exec i s = .next (cancelStep s k reason unit)
    (agentSt x a = some .asked →
      (ans = .ack → exec (.duskAnswer k a) s = .next (advanceStep (putAgent (answerEffect s a ans) k x a .acked) k))
      ∧ (ans = .delay → exec (.duskAnswer k a) s = .next (putAgent (answerEffect s a ans) k x a .delayed))
      ∧ (∀ r, ans = .refuse r → cancelled (.duskAnswer k a) r (agentUnit a))
      ∧ cancelled (.duskNoAnswer k a) 8 (agentUnit a))
    ∧ (agentSt x a = some .acked →
      (ans = .ack → (x.kind ≠ 3 ∧ wanted s a = true → cancelled (.duskAnswer k a) 1 (agentUnit a))
        ∧ (x.kind = 3 ∨ wanted s a = false → exec (.duskAnswer k a) s = .next s))
      ∧ (ans = .delay → cancelled (.duskAnswer k a) 1 (agentUnit a)) ∧ (∀ r, ans = .refuse r → cancelled (.duskAnswer k a) r (agentUnit a)))
    ∧ (agentSt x a = some .delayed →
      (s.timer - x.start ≤ s.cfg.duskBudgetMs * 38400 → exec (.duskReask k a) s = .next (putAgent s k x a .asked))
      ∧ (s.cfg.duskBudgetMs * 38400 < s.timer - x.start → cancelled (.duskReask k a) 7 x.delayer))
    ∧ (∀ r u, tget? (cancelStep s k r u).power.dusk k = none ∧ (∀ d ∈ s.power.on, d ∈ (cancelStep s k r u).power.on)
        ∧ (k ≠ 0x100 → (cancelStep s k r u).power.last = (x.kind, 2, r, u)))
    ∧ ((∃ e ∈ x.agents, e.2 ≠ .acked) → advanceStep s k = s)
    ∧ ((∀ e ∈ x.agents, e.2 = .acked) → x.kind ≠ 3 →
      ((∀ e ∈ x.agents, agentAnswer s x.kind e.1 = .ack) → k ≠ 0x100 →
        advanceStep s k = setDusk s (tset s.power.dusk k { x with phase := 3, commit := true }))
      ∧ ((∃ e ∈ x.agents, agentAnswer s x.kind e.1 ≠ .ack) → ∃ r u, advanceStep s k = cancelStep s k r u)))
  ∧ (∀ (k : Nat) (x : DuskStep) (s : State), tget? s.power.dusk k = some x → x.commit = true → Answers (.duskCommitDone k) s fun t =>
      tget? t.power.dusk k = none ∧ t.power.last = (x.kind, 1, 0, 0) ∧ (k = 0x100 → t.power.sleep = .night)
      ∧ (k ≠ 0x100 → ∀ u ∈ x.units, (∀ n, n < 4 → (s.output n).waitEnable = true → u ≠ 0x94 + n ∧ u ≠ 0x90 + n / 2) →
          u ∉ t.power.on ∧ (u ∈ padUnits → u ∈ t.power.padHold)))
  ∧ (∀ (s : State),
    (∀ u, s.power.sleep = .awake → s.boot.stage = 6 → s.power.pll = true → mayPower s u = true →
      exec (.domainPowerUpDone u) s = .next (powerOn s u) ∧ u ∈ (powerOn s u).power.on)
    ∧ (s.power.sleep ≠ .awake → Answers .addressMatch s fun t =>
        let waits := s.timer - s.power.coreAt.getD 0 < 192000
        t.power.wake = true ∧ t.power.sleep = s.power.sleep
        ∧ (s.power.sleep ≠ .night ∨ s.power.corePwr = true ∨ waits → t = { s with power := { s.power with wake := true } })
        ∧ (s.power.sleep = .night → s.power.corePwr = false → ¬waits → t.power.corePwr = true ∧ t.power.coreAt = some s.timer))
    ∧ (s.power.sleep = .night → s.power.wake = true → s.power.tripped = false → coreReady s = true → Answers .wakeComplete s fun t =>
        t.power.sleep = .awake ∧ t.power.wake = false ∧ t.power.woken = true ∧ t.power.pll = true ∧ t.ranger.asleep = false
        ∧ (∀ k, k < 16 → 0x60 + k ∈ t.power.on) ∧ (∀ k, k < 0x60 → k ∉ t.power.on))
    ∧ (∀ p, p < 3 → s.power.sleep = .awake → (s.port p).grace = true → (s.port p).up = false → portAcked s p = false →
        exec (.nightLinkGraceExpiry p) s = .next (linkLoss s p)))
  ∧ (∀ (r : Req) (s : State), r.ch < 16 → Requested s r 1 [(0, 1)] →
    let u := takeReq s r true
    let w := reqField r 0 1
    (w < 2 → isM s r = false → exec (.powerState r) s = .next (replyTo u r 0x21 1 []))
    ∧ (isM s r = true → w = 1 → (tget? s.power.dusk 0x100).isSome → exec (.powerState r) s = .next (replyTo u r 0x30 1 []))
    ∧ (isM s r = true → w = 1 → tget? s.power.dusk 0x100 = none → (s.channel r.ch).accepted.length < 16 →
        exec (.powerState r) s = .next (acceptedBy (startNight u) r 0x802 0x100))
    ∧ (isM s r = true → w = 0 → (tget? s.power.dusk 0x100).isSome →
        exec (.powerState r) s = .next (replyTo (cancelStep u 0x100 6 0xFF) r 0 0 []))
    ∧ (isM s r = true → w = 0 → tget? s.power.dusk 0x100 = none → ∃ v, exec (.powerState r) s = .next (replyTo v r 0 0 [])
        ∧ (∀ d ∈ s.power.on, ¬(d = 0xBE ∧ s.fuses.scorched = true) → d ∉ v.power.padHold ∧ d ∉ v.power.nightPads)
        ∧ (∀ d ∈ v.power.padHold, d ∈ s.power.padHold) ∧ v.power.woken = false ∧ v.power.dataLost = false))
  ∧ (∀ (tj : Int) (lost : Option (List (Nat × Byte))) (s : State), s.power.tripped = false →
    (tj < tjMax s + 5 → Answers (.thermalSample tj lost) s fun t => t.power.hotFloor = 0 ∧ t.power.hotShut = 0
      ∧ t.power.tripped = false ∧ t.power.floor = (s.power.floor && !(decide (tj ≤ tjMax s) && decide (100 ≤ s.power.coolFloor))))
    ∧ (tjMax s + 5 ≤ tj → s.power.hotFloor < 1000 → (tj < tjMax s + 10 ∨ s.power.hotShut < 10) → Answers (.thermalSample tj lost) s fun t =>
        t.power.floor = true ∧ t.power.limit = 2 ∧ t.power.duty = 1 ∧ t.power.tripped = false ∧ ∀ k, k < 6 → (t.stand k).gov = 12)
    ∧ (tjMax s + 10 ≤ tj → 10 ≤ s.power.hotShut → s.power.sleep ≠ .night → Answers (.thermalSample tj lost) s fun t =>
        t.power.tripped = true ∧ t.power.sleep = .night ∧ t.power.forced = true ∧ t.power.on = [] ∧ t.cmds = []))

/-- Availability (R463 to R479, Tables 15.1, 15.3 and 15.6): what an error found by a read leaves, the write link count, retirement in
each of its steps, self-test, and isolation of a unit that does not stop.

The statement rests in part on readings the model chose, which are no rules of the spec: log entries 78 to 81, 139. -/
def Obligations.Availability : Prop :=
  (∀ (site : ArraySite) (s : State), s.power.sleep = .awake → siteHere s site = true →
    let i := siteInfo site
    let noted := fun (u : State) (cls : Nat) => tget? u.avail.records s.avail.next = some ⟨i.1, i.2.1, cls, i.2.2.1, s.timer⟩
    (∀ l c r ws, site ≠ .link l c r ws) →
    exec (.scrubRead site .clean) s = .next (if i.2.2.2.1 then s else bump s i.2.1 0x130)
    ∧ (i.2.2.2.2 = false → Answers (.scrubRead site .corrected) s fun u => noted u 1 ∧ u.mem = s.mem ∧ u.cores = s.cores)
    ∧ (Answers (.scrubRead site .demandCorrected) s fun u => noted u 1 ∧ u.mem = s.mem ∧ u.cores = s.cores)
    ∧ (∀ found, found = .uncorrectable ∨ found = .demandLost → Answers (.scrubRead site found) s fun u => noted u 2
      ∧ (∀ k w a, site = .register k w a → w ∈ (u.core k).badReg)
      ∧ (∀ k w a, site = .tile k w a → w ∈ (u.core k).badTile)
      ∧ (∀ k w, site = .weight k w → w ∈ (u.core k).badWeight)
      ∧ (∀ n a b w, site = .cacheData n a b w → w ∈ u.mem.poison) ∧ (∀ w, site = .dram w → w ∈ u.mem.poison)
      ∧ (∀ n l, site = .cacheTag n l ∨ site = .directory n l → u.avail.dataSuspect = true)
      ∧ (∀ f, site = .fence f → (s.fence f).st = .live → (u.fence f).flag = true)))
  ∧ (∀ (ch n : Nat) (s : State), ch < 16 → s.power.sleep = .awake → s.boot.stage = 6 →
      exec (.writeLinkPoll ch n) s = .next (bumpBy s (0x70 + ch) 0x118 n))
  ∧ (∀ (u line : Nat) (s : State), u ∈ s.avail.due → dueTurn s u = true →
    let last := u < 0x30 ∧ (clearUnit s.maps u).core = 0
    (u < 0x30 → s.maps.core.getLsbD u = true → ¬last → Answers (.retirement u line) s fun t =>
      t.maps = ⟨s.maps.core &&& ~~~((1#48) <<< u), s.maps.tensor &&& ~~~((1#48) <<< u), s.maps.gen + 1⟩
      ∧ u ∉ t.avail.due ∧ tget? t.avail.leaving u = some (s.maps.gen + 1, t.maps.core.toNat))
    ∧ (0x30 ≤ u → u < 0x60 → s.maps.tensor.getLsbD (u - 0x30) = true → Answers (.retirement u line) s fun t =>
      t.maps = ⟨s.maps.core, s.maps.tensor &&& ~~~((1#48) <<< (u - 0x30)), s.maps.gen + 1⟩
      ∧ u ∉ t.avail.due ∧ tget? t.avail.leaving u = some (s.maps.gen + 1, s.maps.core.toNat))
    ∧ (last → s.maps.core.getLsbD u = true → Answers (.retirement u line) s fun t =>
      t.maps = s.maps ∧ t.avail.retireHeld = true ∧ tget? t.avail.records s.avail.next = some ⟨0x23, u, 3, 0, s.timer⟩)
    ∧ (∀ slice set way, set < 2048 → way < 16 → u = locKey slice set way → (slice, set, way) ∉ s.mem.ways →
        (s.mem.ways.filter fun w => w.1 == slice).length < 64 →
        Answers (.retirement u line) s fun t => (slice, set, way) ∈ t.mem.ways ∧ t.maps = s.maps))
  ∧ (∀ (u gen map : Nat) (s : State), tget? s.avail.leaving u = some (gen, map) → unitClear s u = true →
      Answers (.retirePowerOff u) s fun t => u ∉ t.power.on ∧ (u < 0x30 → 0x30 + u ∉ t.power.on)
        ∧ tget? t.avail.leaving u = none ∧ t.avail.events = s.avail.events ++ [(u, gen, map)] ∧ t.maps = s.maps
        ∧ tget? t.avail.records s.avail.next = some ⟨0x22, u, 3, 0, s.timer⟩)
  ∧ (∀ (u gen map : Nat) (rest : List (Nat × Nat × Nat)) (s : State), s.avail.events = (u, gen, map) :: rest → s.ranger.up = true →
      exec .coreRetired s = .next (postEvent { s with avail := { s.avail with events := rest } } 4 u gen map))
  ∧ (∀ (k : Nat) (s : State), k ∈ s.avail.tests → domainOn s k = true → unitClear s k = true → Answers (.selfTestStart k) s fun t =>
      k ∈ t.avail.testing ∧ k ∉ t.avail.tests ∧ (t.core k).badReg = [] ∧ (t.core k).groups = [] ∧ ∀ j, j ≠ k → t.core j = s.core j)
  ∧ (∀ (k : Nat) (s : State), k ∈ s.avail.testing →
    (Answers (.selfTestDone k false false) s fun t => k ∉ t.avail.testing ∧ t.avail.due = s.avail.due)
    ∧ (∀ b, Answers (.selfTestDone k true b) s fun t => k ∈ t.avail.due ∧ k ∈ t.avail.testing
        ∧ tget? t.avail.records s.avail.next = some ⟨0x20, k, 2, 0, s.timer⟩)
    ∧ (s.maps.tensor.getLsbD k = true → Answers (.selfTestDone k false true) s fun t => 0x30 + k ∈ t.avail.due))
  ∧ (∀ (u : Nat) (s : State), u < 0x60 → u % 0x30 ∈ s.power.on → stopping s (u % 0x30) = true → (clearUnit s.maps (u % 0x30)).core ≠ 0 →
      let k := u % 0x30
      Answers (.unitIsolation u) s fun t => t.maps.core.getLsbD k = false ∧ (t.core k).groups = [] ∧ (t.core k).wgs = []
        ∧ ∀ c ∈ ctxsOn s k, (s.ctx c).st = .live → (t.ctx c).st = .faulted)

/-- The sideband's commands (R266, R452, R458, R483, R484, R503, R505, R512, Table 16.10): each with its confirmation code, private
writes, and the debug access port with the fuses it blows.

The statement rests in part on readings the model chose, which are no rules of the spec: log entries 82 to 84. -/
def Obligations.SidebandCommands : Prop :=
  (∀ (arg : BitVec 32) (s : State), i3cUp s = true → i3cBusy s = true →
    exec (.poisonFence arg 0x5A01) s = .next (cmdDone s 1 2) ∧ exec (.resetTenant arg 0x5A02) s = .next (cmdDone s 2 2))
  ∧ (∀ (arg : BitVec 32) (confirm : BitVec 16) (s : State), i3cUp s = true → i3cBusy s = false →
    let n := arg.toNat
    let failed := fun (i : Instr) (op : Nat) => exec i s = .next (cmdDone s op 1)
    let ran := fun (u : State) (op : Nat) (t : Option Nat) => cmdDone { u with i3c := { u.i3c with running := t } } op 0
    (confirm ≠ 0x5A01 → exec (.poisonFence arg confirm) s = .next s)
    ∧ (exec (.poisonFence arg 0x5A01) s = .next (if n < 16384 ∧ (s.fence n).st ≠ .free then ran (settle [.poison n] s) 1 none
        else cmdDone s 1 1))
    ∧ (confirm ≠ 0x5A02 → exec (.resetTenant arg confirm) s = .next s)
    ∧ (exec (.resetTenant arg 0x5A02) s = .next (if n < 16 ∧ (s.tenant n).st = .live
        then ran (settleReset (resetTenant (abortChannel s n) n) n) 2 (some n) else cmdDone s 2 1))
    ∧ (∀ lost, (confirm ≠ 0x5A03 → exec (.forceNight arg confirm lost) s = .next s)
      ∧ Answers (.forceNight arg 0x5A03 lost) s fun t => t.power.sleep = .night ∧ t.power.forced = true ∧ t.power.on = []
        ∧ t.cmds = [] ∧ t.cores = [] ∧ (∀ k, k < 4 → (t.output k).src = .off) ∧ t.power.dataLost = (s.power.dataLost || lost.isSome))
    ∧ (confirm ≠ 0x5A04 → exec (.releasePads arg confirm) s = .next s)
    ∧ (∀ k, k < 4 → n = 123 + k → Answers (.releasePads arg 0x5A04) s fun t => 0x94 + k ∉ t.power.padHold ∧ 0x94 + k ∉ t.power.nightPads)
    ∧ (n = 127 → Answers (.releasePads arg 0x5A04) s fun t =>
        if s.fuses.scorched = true then (0xBE ∈ s.power.padHold → 0xBE ∈ t.power.padHold) else 0xBE ∉ t.power.padHold)
    ∧ (n < 123 ∨ 127 < n → failed (.releasePads arg 0x5A04) 4)
    ∧ (confirm ≠ 0x5A05 → exec (.beaconLock arg confirm) s = .next s) ∧ (confirm ≠ 0x5A06 → exec (.beaconUnlock arg confirm) s = .next s)
    ∧ (n < 2 → (Answers (.beaconLock arg 0x5A05) s fun t => n ∈ t.prism.locks ∧ ∀ p, p ≠ n → (p ∈ t.prism.locks ↔ p ∈ s.prism.locks))
      ∧ Answers (.beaconUnlock arg 0x5A06) s fun t => n ∉ t.prism.locks ∧ ∀ p, p ≠ n → (p ∈ t.prism.locks ↔ p ∈ s.prism.locks))
    ∧ (2 ≤ n → failed (.beaconLock arg 0x5A05) 5 ∧ failed (.beaconUnlock arg 0x5A06) 6))
  ∧ (∀ (p : Nat) (s : State), i3cUp s = true → p < 2 ^ 32 → 5 ≤ s.i3c.mwl →
      exec (.i3cPrivateWrite (leBytes 4 p)) s = .next { s with i3c := { s.i3c with ptr := p } }
      ∧ ∀ b, 0x100000 ≤ p → p < 0x300000 → exec (.i3cPrivateWrite (leBytes 4 p ++ [b])) s =
        .next { s with i3c := { s.i3c with ptr := p + 1 }, prism := { s.prism with store := s.prism.store.put (p - 0x100000) b } })
  ∧ (∀ (a : Access) (n off : Nat) (s : State), i3cUp s = true →
      let k := min n s.i3c.mrl
      exec (.registerWrite (.i3c n) .read a off) s = .next { s with
        i3c := { s.i3c with ptr := (s.i3c.ptr + k) % 2 ^ 32 }
        out := s.out ++ [.sideband ((List.range k).map fun i => sideByte s ((s.i3c.ptr + i) % 2 ^ 32))] })
  ∧ (∀ (code : BitVec 8) (op : DapOp) (s : State),
    let acts := s.fuses.scorched = false ∧ s.ranger.debug = true ∧ domainOn s 0xBE = true
    (0x80 ≤ code.toNat → code.toNat ≤ 0x8F → acts → Answers (.debugAccessPort code op) s fun t =>
        t.tap = .debug code.toNat ∧ t.power.debug = true ∧ t.fuses = blowFuses s.fuses op
        ∧ ∀ what, op = .read what → t.out = s.out ++ ((dapData s what).map Out.debug).toList)
    ∧ (¬acts ∨ code.toNat < 0x80 ∨ 0x8F < code.toNat → Answers (.debugAccessPort code op) s fun t => t.tap = .bypass ∧ t.fuses = s.fuses)
    ∧ (acts → Answers (.scorch 0x5C04 0xC0A5 false true) s fun t => t.fuses = { s.fuses with scorched := true } ∧ t.ranger.debug = false
        ∧ 0xBE ∉ t.power.on ∧ 0xBE ∈ t.power.padHold ∧ t.tap = .bypass)
    ∧ (∀ a b slow supply, ¬acts ∨ a ≠ 0x5C04 ∨ b ≠ 0xC0A5 ∨ slow = true ∨ supply = false →
        exec (.scorch a b slow supply) s = .next s)
    ∧ (blowFuses s.fuses (.blowSecureBoot true)).secureBoot = true
    ∧ (∀ bits, blowFuses s.fuses (.blowSecureBoot false) = s.fuses ∧ blowFuses s.fuses (.blowKeyHash bits false) = s.fuses)
    ∧ ∀ bits i, i < 48 → s.fuses.secureBoot = false →
      byteAt (blowFuses s.fuses (.blowKeyHash bits true)).keyHash i = byteAt s.fuses.keyHash i ||| byteAt bits i)

/-- Common command codes of the I3C target, in-band interrupts, and JTAG instructions (R501, R506, R510, Tables 16.7 and 16.8).

The statement rests in part on readings the model chose, which are no rules of the spec: log entries 83, 119, 124. -/
def Obligations.BusCodes : Prop :=
  (∀ (s : State), i3cUp s = true →
    let put : I3c → Host.Outcome State Fault Refusal := fun f => .next { s with i3c := f }
    (∀ a : BitVec 7, exec (.entdaa a) s = put (if s.i3c.addr = none then { s.i3c with addr := some a.toNat } else s.i3c)
      ∧ (s.i3c.addr = none → exec (.setdasa (BitVec.ofNat 7 (0x30 + s.fuses.strap % 4)) a) s =
          put (if s.fuses.strap < 4 then { s.i3c with addr := some a.toNat } else s.i3c))
      ∧ (s.i3c.addr ≠ none → exec (.setnewda a) s = put { s.i3c with addr := some a.toNat }))
    ∧ exec .rstdaa s = put { s.i3c with addr := none }
    ∧ (∀ e : BitVec 8, exec (.enec e) s = put { s.i3c with
        ibiEn := s.i3c.ibiEn || e.getLsbD 0, hotJoin := s.i3c.hotJoin || e.getLsbD 3 }
      ∧ exec (.disec e) s = put { s.i3c with
        ibiEn := s.i3c.ibiEn && !e.getLsbD 0, hotJoin := s.i3c.hotJoin && !e.getLsbD 3 })
    ∧ (∀ n, exec (.setmrl n) s = put { s.i3c with mrl := min n 256 } ∧ exec (.setmwl n) s = put { s.i3c with mwl := min n 260 })
    ∧ (∀ a : BitVec 8, exec (.rstact a false) s = put { s.i3c with rstAct := a.toNat }
      ∧ (a ≠ 2 → exec (.rstact a true) s = put { s.i3c with rstAct := a.toNat }))
    ∧ (s.i3c.addr ≠ none →
      let sent := fun (i : Instr) (bs : List Byte) => exec i s = .next { s with out := s.out ++ [.ccc bs] }
      sent .getpid (leBytes 6 (provisionedId s.fuses)).reverse ∧ sent .getbcr [0x06] ∧ sent .getdcr [0x00]
      ∧ sent .getmwl (leBytes 2 s.i3c.mwl).reverse
      ∧ (∃ a b, exec .getstatus s = .next { s with out := s.out ++ [.ccc [a, b]], freeTick := s.freeTick + 2 })
      ∧ (∃ a, exec .getmrl s = .next { s with
          out := s.out ++ [.ccc ((leBytes 2 s.i3c.mrl).reverse ++ [a])], freeTick := s.freeTick + 1 }))
    ∧ (∀ k pl rest, s.i3c.ibiPend = (k, pl) :: rest → s.i3c.ibiEn = true → s.i3c.addr ≠ none →
        exec (.ibiRetry true) s = .next { s with i3c := { s.i3c with ibiPend := rest }, out := s.out ++ [.ibi (BitVec.ofNat 8 k :: pl)] }
        ∧ exec (.ibiRetry false) s = .next s)
    ∧ (s.i3c.addr = none → ∀ ack, exec (.ibiRetry ack) s = .next (if s.i3c.hotJoin then { s with out := s.out ++ [.hotJoin] } else s)))
  ∧ (∀ (s : State), exec .hdrModeEntry s = .next { s with i3c := { s.i3c with hdr := true } }
    ∧ exec .hdrExitPattern s = .next { s with i3c := { s.i3c with hdr := false } }
    ∧ let tap : TapInstr → Host.Outcome State Fault Refusal := fun t =>
        .next { s with tap := t, power := { s.power with debug := false } }
      (exec .idcode s = .next { s with
          tap := .idcode, power := { s.power with debug := false }, out := s.out ++ [.idcode (BitVec.ofNat 32 (idcodeValue s.fuses))] }
      ∧ exec .samplePreload s = tap .sample ∧ exec .bypass s = tap .bypass
      ∧ exec .extest s = tap (if s.sysReset then .extest else .bypass) ∧ exec .clamp s = tap (if s.sysReset then .clamp else .bypass)
      ∧ exec .highz s = tap (if s.sysReset then .highz else .bypass)))

/-- Device reset, boot and the register space (R10, R13, R19, R41 to R43, R288, R445, R489, R513 to R515, R526, R528, Table 16.2): what each
reset leaves, the stages of the boot, the domains on at the end, and accesses that have no row of their own.

The statement rests in part on readings the model chose, which are no rules of the spec: log entries 5, 84 to 89, 113. -/
def Obligations.DeviceAndRegisters : Prop :=
  (∀ (s : State),
    let kept := fun (pin : Bool) => { State.reset with
      fuses := s.fuses, flash := s.flash, freeTick := s.freeTick, mem := { MemSys.reset with host := s.mem.host }
      tap := if pin then s.tap else .idcode, sysReset := pin || s.sysReset, out := s.out, pending := s.pending }
    (∀ pin, exec (.deviceReset pin) s = .next (kept pin)) ∧ (s.power.corePwr = true → exec .pgLow s = .next { kept false with freeTick := s.freeTick + 1 })
    ∧ (s.power.corePwr = false → exec .pgLow s = .next { s with freeTick := s.freeTick + 1 }
        ∨ exec .pgLow s = .next { kept false with freeTick := s.freeTick + 1 })
    ∧ exec .refclkLoss s = .next (kept false)
    ∧ (i3cHears s = true → exec (.rstact 2 true) s = .next (kept false)))
  ∧ (∀ (b : BootInput) (s : State), s.boot.running = false → Answers (.resetRelease b) s fun t =>
      t.boot.running = true ∧ t.boot.stage = 5 ∧ t.sysReset = false ∧ t.power.pll = true
      ∧ t.fuses = { s.fuses with strap := b.strap % 4 } ∧ (t.maps.core &&& ~~~s.fuses.coreMap) = 0 ∧ (t.maps.tensor &&& ~~~t.maps.core) = 0)
  ∧ (∀ (s : State), s.boot.stage = 5 → Answers .hostReady s fun t => t.boot.stage = 6
      ∧ (∀ k, k < 48 → s.maps.core.getLsbD k = true → k ∈ t.power.on)
      ∧ (∀ k, k < 48 → s.maps.tensor.getLsbD k = true → 0x30 + k ∈ t.power.on)
      ∧ (∀ k, k < 16 → 0x60 + k ∈ t.power.on) ∧ (∀ p, p < 3 → portLanes s p = true → 0x98 + p ∈ t.power.on))
  ∧ (∀ (a : Access) (t : Nat) (s : State), accUp s a = true → accTenant s a = some t → exec (.clear a t) s = .next (
      if a.data.getLsbD 63 && a.be.getLsbD 7 then s.setTenant t { s.tenant t with logTotal := 0, logNext := 0, log := tmap (s.tenant t).log fun _ r => { r with kind := 0 } } else s))
  ∧ (∀ (a : Access) (off : Nat) (s : State), accUp s a = true →
    let v := bulkServed s (13 + a.port)
    let noted := fun (bit : Word) => v.setPort a.port { v.port a.port with
      pci := { (v.port a.port).pci with aerUncor := (v.port a.port).pci.aerUncor ||| bit } }
    let turned := Host.Outcome.next { noted 0x100000 with out := s.out ++ [.unsupported a.port] }
    (∀ sp, sp = .bar0 ∨ sp = .bar2 ∨ sp = .vsec ∨ sp = .function → exec (.registerWrite sp .poisoned a off) s = .next (noted 0x1000)
      ∧ exec (.registerWrite sp .atomic a off) s = turned)
    ∧ (∀ op, exec (.registerWrite .outside op a off) s = turned)
    ∧ (accTenant s a = none → exec (.registerWrite .bar0 .write a off) s = .next v)
    ∧ (∀ t, accTenant s a = some t → off % 8 = 0 → off < 2 ^ 28 → off / 2 ^ 24 ≠ 4 →
      let reads := exec (.registerWrite .bar0 .read a off) s
      let writes := exec (.registerWrite .bar0 .write a off) s
      (attachedPage s t off = true → writes = .next (accLog v a t 0xB off))
      ∧ (attachedPage s t off = false →
        (regHit s t off = .absent → writes = .next (accLog v a t 0x1 off))
        ∧ (regHit s t off = .hidden ∨ regHit s t off = .roRefused → writes = .next (accLog v a t 0x2 off))
        ∧ (regHit s t off = .ro → writes = .next v))
      ∧ (regHit s t off = .absent → reads = .next (answer (logTenant v t ⟨0x1, false, a.rid, off, s.timer⟩) a.port 0))
      ∧ (regHit s t off = .hidden → reads = .next (answer (logTenant v t ⟨0x2, false, a.rid, off, s.timer⟩) a.port 0))
      ∧ (regHit s t off ≠ .absent → regHit s t off ≠ .hidden → reads = .next (answer v a.port (bar0View v a.port t off))))
    ∧ (∀ t n, accTenant s a = some t → n < 4 → outOwner s n = some t →
        exec (.registerWrite .bar0 .write a (0x4100020 + 0x10000 * n)) s =
          .next (v.setOutput n { s.output n with bg := accFields a 0xFFFFFFFFFFFF (s.output n).bg })
        ∧ exec (.registerWrite .bar0 .read a (0x4100020 + 0x10000 * n)) s = .next (answer v a.port (s.output n).bg)))

/-- Every command goes on: it answers a next state, whatever the state, and leaves the queue of commands as it is.

The statement rests in part on readings the model chose, which are no rules of the spec: log entries 16, 127. -/
def Obligations.EveryCommandGoesOn : Prop :=
  ∀ (c : Instr) (s : State), ∃ t, exec c s = .next t ∧ t.pending = s.pending

/-- Every step keeps every byte memory in its canonical form and every counter at or below its maximum (R97). -/
def Obligations.StepKeepsMemories : Prop :=
  ∀ s t : State, StateOk s → step s = .next t → StateOk t

/-- After reset every byte memory is in its canonical form and no counter is past its maximum. -/
def Obligations.ResetMemories : Prop :=
  StateOk State.reset

/-- No step takes a blown fuse back (R482, R484, R511, R512): secure boot and scorch stay, key hash bits are only set and none
once secure boot is blown, and the fuses of the part's identity never change.

The statement rests in part on readings the model chose, which are no rules of the spec: log entries 84, 90. -/
def Obligations.FusesOnlyGrow : Prop :=
  ∀ s t : State, step s = .next t → FuseLe s.fuses t.fuses

/-- What the front end's own packets and the commands of a render pass leave in the plainest case (R311 to R314, R326, R328, R205 to
R209, R213, R215, R224, R227): each completes with its own effect.

The statement rests in part on readings the model chose, which are no rules of the spec: log entries 41, 93. -/
def Obligations.PacketsAndPasses : Prop :=
  (∀ (p : Pkt) (s : State),
    let q := s.queue p.q
    let f := pField p 8 2
    let v := pField p 16 8
    let right := if (s.fence f).st = .free then 0 else tget (s.fence f).binds q.ctx 0
    (Fetches s p 1 false → Answers (.nopPacket p) s fun t => Consumed s t p)
    ∧ (Fetches s p 2 true → fencePktOk p false = true → right = 2 → ∃ u, Consumed s u p
        ∧ exec (.fenceSignal p) s = .next (settle [.signal (.ctx q.ctx 2 p.q) f (BitVec.ofNat 64 v)] u))
    ∧ (Fetches s p 2 false → fencePktOk p true = true → right ≠ 0 → (s.fence f).flag = false → (s.fence f).reached v = false →
        (∀ e ∈ s.queues, e.2.wait = none) → Answers (.fenceWait p) s fun t =>
          (t.queue p.q).read = (q.read + p.size16.toNat) % 2 ^ 32
          ∧ (t.queue p.q).wait.map (fun w => (w.fence, w.target)) = some (f, v))
    ∧ (Fetches s p 2 true → rangePktOk p 128 = true → Answers (.flush p) s (fun t => Consumed s t p)
        ∧ Answers (.invalidate p) s fun t => Consumed s t p
          ∧ ∀ ln ∈ linesInRange s q.ctx (pField p 8 8) v, tget? t.mem.lines ln = none)
    ∧ (Fetches s p 1 true → Answers (.icacheInvalidate p) s fun t => Consumed s t p ∧ ∀ e ∈ t.mem.icache, e.ctx ≠ q.ctx)
    ∧ (Fetches s p 2 true → rangePktOk p 4096 = true → v = 0 → Answers (.tlbInvalidate p) s fun t => Consumed s t p
        ∧ ∀ e ∈ t.mem.tlb, e.ctx ≠ q.ctx)
    ∧ (fetchReady s p.q = true → Answers (.badPacket p 0xFFFF) s fun t => (t.ctx q.ctx).st = .faulted)
    ∧ ∀ r s1, Fetches s p 1 false → loadPass s q.ctx (pField p 8 8) = .ok r s1 →
        unitOrder (s.maps.core.toNat &&& (if (s.ctx q.ctx).heritage then 0xFFFF else 2 ^ 48 - 1)) ≠ [] →
        Answers (.renderPass p) s fun t => Consumed s t p ∧ (tget? t.renders s.nextCmd).isSome = true
          ∧ (tget? t.cmds s.nextCmd).map Cmd.kind = some .render)
  ∧ (∀ (cmd : Nat) (s : State) (r : RenderPass), tget? s.renders cmd = some r → (s.ctx (cmdOf s cmd).ctx).st = .live →
    let pass := fun (t : State) => tget? t.renders cmd
    (binReady s cmd r = true → binStopped s cmd = false → binnerMay s cmd r = true → r.binDraw ≠ 0 →
      (∃ s1 r1, binBatch 256 s (cmdOf s cmd).ctx r = .ok s1 r1) → Answers (.drawBinning cmd) s fun t => (pass t).isSome = true)
    ∧ (∀ d, d < r.binDraw → (r.draw d).attr.isSome = true → d ∉ r.attrReady → Answers (.attributePhaseStart cmd d) s fun t =>
        pass t = some { r with attrReady := r.attrReady ++ [d] })
    ∧ (r.shading = false → r.flushing = false → r.binDraw = r.draws.length → attrsDone s cmd r = true →
      Answers (.tileShadingStart cmd) s fun t => (pass t).map RenderPass.shading = some true)
    ∧ (r.flushing = true → (∀ t ∈ r.roundTiles, t ∈ r.finished) →
      (vwrite s (cmdOf s cmd).ctx r.hdr.listArea (List.replicate (r.hdr.tiles * 16) 0)).2 = none →
      Answers (.binningResume cmd) s fun t => (pass t).map (fun x => (x.flushing, x.rounds, x.finished)) = some (false, r.rounds + 1, []))
    ∧ (r.shading = true → (∀ t ∈ r.roundTiles, t ∈ r.finished) → tilesBusy s cmd = [] →
      (∀ e ∈ s.cores, ∀ x ∈ e.2.stores, x.cmd ≠ cmd) → Answers (.renderPassComplete cmd) s fun t => tget? t.cmds cmd = none)
    ∧ (∀ core t, r.gen = s.maps.gen → r.order ≠ [] → tilesReady s cmd r = true → tileMay s core cmd false = true →
      (s.core core).holder = some cmd → r.nextTile s cmd core = some t →
      (∃ s1 m n ps s2, tileContent s (cmdOf s cmd).ctx r t = .ok (s1, m, n)
        ∧ setupPrims s1 (cmdOf s cmd).ctx r (r.entries t) = .ok (ps, s2)) →
      Answers (.renderTileStart core cmd) s fun u => (u.core core).raster.map (fun x => (x.cmd, x.tile)) = some (cmd, t))
    ∧ ∀ core run, (s.core core).raster = some run → run.cmd = cmd → run.waiting = [] → cmd ∉ (s.core core).saving →
      (s.core core).badTile = [] →
      (∀ f, run.frags = [f] → (fragResult (s.core core) f).isSome = true → Answers (.fragmentCommit core 0) s fun u =>
        (u.core core).raster = some { run with frags := [] })
      ∧ (run.frags = [] → (∀ e ∈ (s.core core).wgs, e.2.live = true → e.2.cmd ≠ cmd) →
        (writeRows s (cmdOf s cmd).ctx (tileStores (s.core core) r run.tile)).2 = none →
        Answers (.renderTileEnd core) s fun u => (u.core core).raster = none
          ∧ (pass u).map RenderPass.finished = some (r.finished ++ [run.tile])))

end
end

