-- ==== Sys2Proof/Laws/Exec.lean ====
section
/-! SUPPORT. exec on each constructor: its meaning, by rfl. -/

namespace Sys2Proof.Machine

@[simp] theorem exec_nop (g : GroupAt) (e : EncB) (s : State) : exec (.nop g e) s = execNop g e s := rfl
@[simp] theorem exec_bra (g : GroupAt) (e : EncB) (s : State) : exec (.bra g e) s = execBra g e s := rfl
@[simp] theorem exec_brx (g : GroupAt) (e : EncB) (s : State) : exec (.brx g e) s = execBrx g e s := rfl
@[simp] theorem exec_join (g : GroupAt) (e : EncB) (s : State) : exec (.join g e) s = execJoin g e s := rfl
@[simp] theorem exec_exit (g : GroupAt) (e : EncB) (s : State) : exec (.exit g e) s = execExit g e s := rfl
@[simp] theorem exec_call (g : GroupAt) (e : EncB) (s : State) : exec (.call g e) s = execCall g e s := rfl
@[simp] theorem exec_ret (g : GroupAt) (e : EncB) (s : State) : exec (.ret g e) s = execRet g e s := rfl
@[simp] theorem exec_iadd (g : GroupAt) (e : EncR) (s : State) : exec (.iadd g e) s = execIadd g e s := rfl
@[simp] theorem exec_isub (g : GroupAt) (e : EncR) (s : State) : exec (.isub g e) s = execIsub g e s := rfl
@[simp] theorem exec_imul (g : GroupAt) (e : EncR) (s : State) : exec (.imul g e) s = execImul g e s := rfl
@[simp] theorem exec_imulhi (g : GroupAt) (e : EncR) (s : State) : exec (.imulhi g e) s = execImulhi g e s := rfl
@[simp] theorem exec_imad (g : GroupAt) (e : EncR) (s : State) : exec (.imad g e) s = execImad g e s := rfl
@[simp] theorem exec_imin (g : GroupAt) (e : EncR) (s : State) : exec (.imin g e) s = execImin g e s := rfl
@[simp] theorem exec_imax (g : GroupAt) (e : EncR) (s : State) : exec (.imax g e) s = execImax g e s := rfl
@[simp] theorem exec_andL (g : GroupAt) (e : EncR) (s : State) : exec (.andL g e) s = execAnd g e s := rfl
@[simp] theorem exec_orL (g : GroupAt) (e : EncR) (s : State) : exec (.orL g e) s = execOr g e s := rfl
@[simp] theorem exec_xor (g : GroupAt) (e : EncR) (s : State) : exec (.xor g e) s = execXor g e s := rfl
@[simp] theorem exec_notL (g : GroupAt) (e : EncR) (s : State) : exec (.notL g e) s = execNot g e s := rfl
@[simp] theorem exec_shl (g : GroupAt) (e : EncR) (s : State) : exec (.shl g e) s = execShl g e s := rfl
@[simp] theorem exec_shr (g : GroupAt) (e : EncR) (s : State) : exec (.shr g e) s = execShr g e s := rfl
@[simp] theorem exec_popc (g : GroupAt) (e : EncR) (s : State) : exec (.popc g e) s = execPopc g e s := rfl
@[simp] theorem exec_clz (g : GroupAt) (e : EncR) (s : State) : exec (.clz g e) s = execClz g e s := rfl
@[simp] theorem exec_bfe (g : GroupAt) (e : EncR) (s : State) : exec (.bfe g e) s = execBfe g e s := rfl
@[simp] theorem exec_bfi (g : GroupAt) (e : EncR) (s : State) : exec (.bfi g e) s = execBfi g e s := rfl
@[simp] theorem exec_isetp (g : GroupAt) (e : EncR) (s : State) : exec (.isetp g e) s = execIsetp g e s := rfl
@[simp] theorem exec_fadd (g : GroupAt) (e : EncR) (s : State) : exec (.fadd g e) s = execFadd g e s := rfl
@[simp] theorem exec_fmul (g : GroupAt) (e : EncR) (s : State) : exec (.fmul g e) s = execFmul g e s := rfl
@[simp] theorem exec_ffma (g : GroupAt) (e : EncR) (s : State) : exec (.ffma g e) s = execFfma g e s := rfl
@[simp] theorem exec_fmin (g : GroupAt) (e : EncR) (s : State) : exec (.fmin g e) s = execFmin g e s := rfl
@[simp] theorem exec_fmax (g : GroupAt) (e : EncR) (s : State) : exec (.fmax g e) s = execFmax g e s := rfl
@[simp] theorem exec_fsetp (g : GroupAt) (e : EncR) (s : State) : exec (.fsetp g e) s = execFsetp g e s := rfl
@[simp] theorem exec_frnd (g : GroupAt) (e : EncR) (s : State) : exec (.frnd g e) s = execFrnd g e s := rfl
@[simp] theorem exec_hadd2 (g : GroupAt) (e : EncR) (s : State) : exec (.hadd2 g e) s = execHadd2 g e s := rfl
@[simp] theorem exec_hmul2 (g : GroupAt) (e : EncR) (s : State) : exec (.hmul2 g e) s = execHmul2 g e s := rfl
@[simp] theorem exec_hfma2 (g : GroupAt) (e : EncR) (s : State) : exec (.hfma2 g e) s = execHfma2 g e s := rfl
@[simp] theorem exec_hmin2 (g : GroupAt) (e : EncR) (s : State) : exec (.hmin2 g e) s = execHmin2 g e s := rfl
@[simp] theorem exec_hmax2 (g : GroupAt) (e : EncR) (s : State) : exec (.hmax2 g e) s = execHmax2 g e s := rfl
@[simp] theorem exec_rcp (g : GroupAt) (e : EncR) (s : State) : exec (.rcp g e) s = execRcp g e s := rfl
@[simp] theorem exec_rsqrt (g : GroupAt) (e : EncR) (s : State) : exec (.rsqrt g e) s = execRsqrt g e s := rfl
@[simp] theorem exec_sqrt (g : GroupAt) (e : EncR) (s : State) : exec (.sqrt g e) s = execSqrt g e s := rfl
@[simp] theorem exec_exp2 (g : GroupAt) (e : EncR) (s : State) : exec (.exp2 g e) s = execExp2 g e s := rfl
@[simp] theorem exec_log2 (g : GroupAt) (e : EncR) (s : State) : exec (.log2 g e) s = execLog2 g e s := rfl
@[simp] theorem exec_sin (g : GroupAt) (e : EncR) (s : State) : exec (.sin g e) s = execSin g e s := rfl
@[simp] theorem exec_cos (g : GroupAt) (e : EncR) (s : State) : exec (.cos g e) s = execCos g e s := rfl
@[simp] theorem exec_cvt (g : GroupAt) (e : EncR) (s : State) : exec (.cvt g e) s = execCvt g e s := rfl
@[simp] theorem exec_cvtPk2 (g : GroupAt) (e : EncR) (s : State) : exec (.cvtPk2 g e) s = execCvtPk2 g e s := rfl
@[simp] theorem exec_cvtUnpk (g : GroupAt) (e : EncR) (s : State) : exec (.cvtUnpk g e) s = execCvtUnpk g e s := rfl
@[simp] theorem exec_mov (g : GroupAt) (e : EncR) (s : State) : exec (.mov g e) s = execMov g e s := rfl
@[simp] theorem exec_sel (g : GroupAt) (e : EncR) (s : State) : exec (.sel g e) s = execSel g e s := rfl
@[simp] theorem exec_shfl (g : GroupAt) (e : EncR) (s : State) : exec (.shfl g e) s = execShfl g e s := rfl
@[simp] theorem exec_vote (g : GroupAt) (e : EncR) (s : State) : exec (.vote g e) s = execVote g e s := rfl
@[simp] theorem exec_rdsr (g : GroupAt) (e : EncR) (s : State) : exec (.rdsr g e) s = execRdsr g e s := rfl
@[simp] theorem exec_plop (g : GroupAt) (e : EncR) (s : State) : exec (.plop g e) s = execPlop g e s := rfl
@[simp] theorem exec_ld (g : GroupAt) (e : EncM) (env : ReadEnv) (s : State) : exec (.ld g e env) s = execLd g e env s := rfl
@[simp] theorem exec_st (g : GroupAt) (e : EncM) (s : State) : exec (.st g e) s = execSt g e s := rfl
@[simp] theorem exec_lds (g : GroupAt) (e : EncM) (s : State) : exec (.lds g e) s = execLds g e s := rfl
@[simp] theorem exec_sts (g : GroupAt) (e : EncM) (s : State) : exec (.sts g e) s = execSts g e s := rfl
@[simp] theorem exec_atoms (g : GroupAt) (e : EncM) (s : State) : exec (.atoms g e) s = execAtoms g e s := rfl
@[simp] theorem exec_atom (g : GroupAt) (e : EncM) (s : State) : exec (.atom g e) s = execAtom g e s := rfl
@[simp] theorem exec_bar (g : GroupAt) (e : EncX) (s : State) : exec (.bar g e) s = execBar g e s := rfl
@[simp] theorem exec_membar (g : GroupAt) (e : EncX) (s : State) : exec (.membar g e) s = execMembar g e s := rfl
@[simp] theorem exec_fsig (g : GroupAt) (e : EncX) (s : State) : exec (.fsig g e) s = execFsig g e s := rfl
@[simp] theorem exec_fwait (g : GroupAt) (e : EncX) (s : State) : exec (.fwait g e) s = execFwait g e s := rfl
@[simp] theorem exec_fread (g : GroupAt) (e : EncX) (s : State) : exec (.fread g e) s = execFread g e s := rfl
@[simp] theorem exec_tex (g : GroupAt) (e : EncS) (s : State) : exec (.tex g e) s = execTex g e s := rfl
@[simp] theorem exec_tmma (g : GroupAt) (e : EncT) (s : State) : exec (.tmma g e) s = execTmma g e s := rfl
@[simp] theorem exec_twld (g : GroupAt) (e : EncT) (s : State) : exec (.twld g e) s = execTwld g e s := rfl
@[simp] theorem exec_tcvt (g : GroupAt) (e : EncT) (s : State) : exec (.tcvt g e) s = execTcvt g e s := rfl
@[simp] theorem exec_tsync (g : GroupAt) (e : EncT) (s : State) : exec (.tsync g e) s = execTsync g e s := rfl
@[simp] theorem exec_tld (g : GroupAt) (e : EncR) (s : State) : exec (.tld g e) s = execTld g e s := rfl
@[simp] theorem exec_tst (g : GroupAt) (e : EncR) (s : State) : exec (.tst g e) s = execTst g e s := rfl
@[simp] theorem exec_storeAck (core : Nat) (k : Nat) (s : State) : exec (.storeAck core k) s = execStoreAck core k s := rfl
@[simp] theorem exec_l1Fill (core : Nat) (bank : Nat) (prefetch : Bool) (s : State) : exec (.l1Fill core bank prefetch) s = execL1Fill core bank prefetch s := rfl
@[simp] theorem exec_tmmaComplete (core : Nat) (k : Nat) (s : State) : exec (.tmmaComplete core k) s = execTmmaComplete core k s := rfl
@[simp] theorem exec_twldComplete (core : Nat) (k : Nat) (s : State) : exec (.twldComplete core k) s = execTwldComplete core k s := rfl
@[simp] theorem exec_tcvtComplete (core : Nat) (k : Nat) (s : State) : exec (.tcvtComplete core k) s = execTcvtComplete core k s := rfl
@[simp] theorem exec_barrierStranded (core : Nat) (wg : Nat) (s : State) : exec (.barrierStranded core wg) s = execBarrierStranded core wg s := rfl
@[simp] theorem exec_asyncPromotion (core : Nat) (slot : Nat) (s : State) : exec (.asyncPromotion core slot) s = execAsyncPromotion core slot s := rfl
@[simp] theorem exec_bulkPromotion (arbiter : Nat) (port : Nat) (s : State) : exec (.bulkPromotion arbiter port) s = execBulkPromotion arbiter port s := rfl
@[simp] theorem exec_queueDoorbell (a : Access) (t : Nat) (j : Nat) (s : State) : exec (.queueDoorbell a t j) s = execQueueDoorbell a t j s := rfl
@[simp] theorem exec_nopPacket (p : Pkt) (s : State) : exec (.nopPacket p) s = execNopPacket p s := rfl
@[simp] theorem exec_dispatch (p : Pkt) (s : State) : exec (.dispatch p) s = execDispatch p s := rfl
@[simp] theorem exec_workgroupResident (cmd : Nat) (s : State) : exec (.workgroupResident cmd) s = execWorkgroupResident cmd s := rfl
@[simp] theorem exec_cut (p : Pkt) (s : State) : exec (.cut p) s = execCut p s := rfl
@[simp] theorem exec_renderPass (p : Pkt) (s : State) : exec (.renderPass p) s = execRenderPass p s := rfl
@[simp] theorem exec_fenceSignal (p : Pkt) (s : State) : exec (.fenceSignal p) s = execFenceSignal p s := rfl
@[simp] theorem exec_fenceWait (p : Pkt) (s : State) : exec (.fenceWait p) s = execFenceWait p s := rfl
@[simp] theorem exec_flush (p : Pkt) (s : State) : exec (.flush p) s = execFlush p s := rfl
@[simp] theorem exec_invalidate (p : Pkt) (s : State) : exec (.invalidate p) s = execInvalidate p s := rfl
@[simp] theorem exec_icacheInvalidate (p : Pkt) (s : State) : exec (.icacheInvalidate p) s = execIcacheInvalidate p s := rfl
@[simp] theorem exec_tlbInvalidate (p : Pkt) (s : State) : exec (.tlbInvalidate p) s = execTlbInvalidate p s := rfl
@[simp] theorem exec_ringmarkOpen (p : Pkt) (s : State) : exec (.ringmarkOpen p) s = execRingmarkOpen p s := rfl
@[simp] theorem exec_ringmarkClose (p : Pkt) (s : State) : exec (.ringmarkClose p) s = execRingmarkClose p s := rfl
@[simp] theorem exec_copy (p : Pkt) (s : State) : exec (.copy p) s = execCopy p s := rfl
@[simp] theorem exec_fill (p : Pkt) (s : State) : exec (.fill p) s = execFill p s := rfl
@[simp] theorem exec_copyChunkDone (cmd : Nat) (s : State) : exec (.copyChunkDone cmd) s = execCopyChunkDone cmd s := rfl
@[simp] theorem exec_commandComplete (cmd : Nat) (s : State) : exec (.commandComplete cmd) s = execCommandComplete cmd s := rfl
@[simp] theorem exec_itemDigestsDone (cmd : Nat) (s : State) : exec (.itemDigestsDone cmd) s = execItemDigestsDone cmd s := rfl
@[simp] theorem exec_digestChunkDone (lane : Nat) (s : State) : exec (.digestChunkDone lane) s = execDigestChunkDone lane s := rfl
@[simp] theorem exec_ringmarkFoldDone (cmd : Nat) (s : State) : exec (.ringmarkFoldDone cmd) s = execRingmarkFoldDone cmd s := rfl
@[simp] theorem exec_weightStreamStart (cmd : Nat) (s : State) : exec (.weightStreamStart cmd) s = execWeightStreamStart cmd s := rfl
@[simp] theorem exec_weightSegmentDone (e : Nat) (s : State) : exec (.weightSegmentDone e) s = execWeightSegmentDone e s := rfl
@[simp] theorem exec_cutTileStart (core : Nat) (cmd : Nat) (s : State) : exec (.cutTileStart core cmd) s = execCutTileStart core cmd s := rfl
@[simp] theorem exec_tileEngineTransferDone (core : Nat) (ahead : Bool) (s : State) : exec (.tileEngineTransferDone core ahead) s = execTileEngineTransferDone core ahead s := rfl
@[simp] theorem exec_stageStart (core : Nat) (s : State) : exec (.stageStart core) s = execStageStart core s := rfl
@[simp] theorem exec_combineTileStart (core : Nat) (cmd : Nat) (s : State) : exec (.combineTileStart core cmd) s = execCombineTileStart core cmd s := rfl
@[simp] theorem exec_cutComplete (cmd : Nat) (s : State) : exec (.cutComplete cmd) s = execCutComplete cmd s := rfl
@[simp] theorem exec_cutRestart (cmd : Nat) (s : State) : exec (.cutRestart cmd) s = execCutRestart cmd s := rfl
@[simp] theorem exec_drawBinning (cmd : Nat) (s : State) : exec (.drawBinning cmd) s = execDrawBinning cmd s := rfl
@[simp] theorem exec_binningResume (cmd : Nat) (s : State) : exec (.binningResume cmd) s = execBinningResume cmd s := rfl
@[simp] theorem exec_attributePhaseStart (cmd : Nat) (draw : Nat) (s : State) : exec (.attributePhaseStart cmd draw) s = execAttributePhaseStart cmd draw s := rfl
@[simp] theorem exec_tileShadingStart (cmd : Nat) (s : State) : exec (.tileShadingStart cmd) s = execTileShadingStart cmd s := rfl
@[simp] theorem exec_renderTileStart (core : Nat) (cmd : Nat) (s : State) : exec (.renderTileStart core cmd) s = execRenderTileStart core cmd s := rfl
@[simp] theorem exec_fragmentCommit (core : Nat) (k : Nat) (s : State) : exec (.fragmentCommit core k) s = execFragmentCommit core k s := rfl
@[simp] theorem exec_renderTileEnd (core : Nat) (s : State) : exec (.renderTileEnd core) s = execRenderTileEnd core s := rfl
@[simp] theorem exec_renderPassComplete (cmd : Nat) (s : State) : exec (.renderPassComplete cmd) s = execRenderPassComplete cmd s := rfl
@[simp] theorem exec_fenceSignalRegister (a : Access) (f : Nat) (s : State) : exec (.fenceSignalRegister a f) s = execFenceSignalRegister a f s := rfl
@[simp] theorem exec_fencePoisonRegister (a : Access) (f : Nat) (s : State) : exec (.fencePoisonRegister a f) s = execFencePoisonRegister a f s := rfl
@[simp] theorem exec_fenceTimeout (w : Waiter) (s : State) : exec (.fenceTimeout w) s = execFenceTimeout w s := rfl
@[simp] theorem exec_arm (a : Access) (t : Nat) (k : Nat) (s : State) : exec (.arm a t k) s = execArm a t k s := rfl
@[simp] theorem exec_disarm (a : Access) (t : Nat) (k : Nat) (s : State) : exec (.disarm a t k) s = execDisarm a t k s := rfl
@[simp] theorem exec_bridgeUpdate (b : Nat) (s : State) : exec (.bridgeUpdate b) s = execBridgeUpdate b s := rfl
@[simp] theorem exec_flumeDoorbell (a : Access) (t : Nat) (s : State) : exec (.flumeDoorbell a t) s = execFlumeDoorbell a t s := rfl
@[simp] theorem exec_flumeReplyRead (a : Access) (t : Nat) (s : State) : exec (.flumeReplyRead a t) s = execFlumeReplyRead a t s := rfl
@[simp] theorem exec_abort (a : Access) (t : Nat) (s : State) : exec (.abort a t) s = execAbort a t s := rfl
@[simp] theorem exec_selfReset (a : Access) (t : Nat) (s : State) : exec (.selfReset a t) s = execSelfReset a t s := rfl
@[simp] theorem exec_flumeNop (r : Req) (s : State) : exec (.flumeNop r) s = execFlumeNop r s := rfl
@[simp] theorem exec_ping (r : Req) (s : State) : exec (.ping r) s = execPing r s := rfl
@[simp] theorem exec_eventMask (r : Req) (s : State) : exec (.eventMask r) s = execEventMask r s := rfl
@[simp] theorem exec_rollCallList (r : Req) (s : State) : exec (.rollCallList r) s = execRollCallList r s := rfl
@[simp] theorem exec_tenantRebind (r : Req) (s : State) : exec (.tenantRebind r) s = execTenantRebind r s := rfl
@[simp] theorem exec_rollCallEnd (r : Req) (s : State) : exec (.rollCallEnd r) s = execRollCallEnd r s := rfl
@[simp] theorem exec_tenantCreate (r : Req) (s : State) : exec (.tenantCreate r) s = execTenantCreate r s := rfl
@[simp] theorem exec_tenantReset (r : Req) (s : State) : exec (.tenantReset r) s = execTenantReset r s := rfl
@[simp] theorem exec_tenantDestroy (r : Req) (s : State) : exec (.tenantDestroy r) s = execTenantDestroy r s := rfl
@[simp] theorem exec_contextCreate (r : Req) (s : State) : exec (.contextCreate r) s = execContextCreate r s := rfl
@[simp] theorem exec_contextReset (r : Req) (s : State) : exec (.contextReset r) s = execContextReset r s := rfl
@[simp] theorem exec_contextDestroy (r : Req) (s : State) : exec (.contextDestroy r) s = execContextDestroy r s := rfl
@[simp] theorem exec_contextSetHeaps (r : Req) (s : State) : exec (.contextSetHeaps r) s = execContextSetHeaps r s := rfl
@[simp] theorem exec_contextQuery (r : Req) (s : State) : exec (.contextQuery r) s = execContextQuery r s := rfl
@[simp] theorem exec_contextTlbInvalidate (r : Req) (s : State) : exec (.contextTlbInvalidate r) s = execContextTlbInvalidate r s := rfl
@[simp] theorem exec_queueCreate (r : Req) (s : State) : exec (.queueCreate r) s = execQueueCreate r s := rfl
@[simp] theorem exec_queueDestroy (r : Req) (s : State) : exec (.queueDestroy r) s = execQueueDestroy r s := rfl
@[simp] theorem exec_watchdogSet (r : Req) (s : State) : exec (.watchdogSet r) s = execWatchdogSet r s := rfl
@[simp] theorem exec_objectCreate (r : Req) (s : State) : exec (.objectCreate r) s = execObjectCreate r s := rfl
@[simp] theorem exec_objectFree (r : Req) (s : State) : exec (.objectFree r) s = execObjectFree r s := rfl
@[simp] theorem exec_objectShare (r : Req) (s : State) : exec (.objectShare r) s = execObjectShare r s := rfl
@[simp] theorem exec_objectRevoke (r : Req) (s : State) : exec (.objectRevoke r) s = execObjectRevoke r s := rfl
@[simp] theorem exec_objectQuery (r : Req) (s : State) : exec (.objectQuery r) s = execObjectQuery r s := rfl
@[simp] theorem exec_fenceCreate (r : Req) (s : State) : exec (.fenceCreate r) s = execFenceCreate r s := rfl
@[simp] theorem exec_fenceFree (r : Req) (s : State) : exec (.fenceFree r) s = execFenceFree r s := rfl
@[simp] theorem exec_fenceShare (r : Req) (s : State) : exec (.fenceShare r) s = execFenceShare r s := rfl
@[simp] theorem exec_fenceRevoke (r : Req) (s : State) : exec (.fenceRevoke r) s = execFenceRevoke r s := rfl
@[simp] theorem exec_fenceBind (r : Req) (s : State) : exec (.fenceBind r) s = execFenceBind r s := rfl
@[simp] theorem exec_fenceUnbind (r : Req) (s : State) : exec (.fenceUnbind r) s = execFenceUnbind r s := rfl
@[simp] theorem exec_flumeFenceSignal (r : Req) (s : State) : exec (.flumeFenceSignal r) s = execFlumeFenceSignal r s := rfl
@[simp] theorem exec_flumeFencePoison (r : Req) (s : State) : exec (.flumeFencePoison r) s = execFlumeFencePoison r s := rfl
@[simp] theorem exec_fenceQuery (r : Req) (s : State) : exec (.fenceQuery r) s = execFenceQuery r s := rfl
@[simp] theorem exec_bridgeCreate (r : Req) (s : State) : exec (.bridgeCreate r) s = execBridgeCreate r s := rfl
@[simp] theorem exec_bridgeRemove (r : Req) (s : State) : exec (.bridgeRemove r) s = execBridgeRemove r s := rfl
@[simp] theorem exec_outputGrant (r : Req) (s : State) : exec (.outputGrant r) s = execOutputGrant r s := rfl
@[simp] theorem exec_outputRevoke (r : Req) (s : State) : exec (.outputRevoke r) s = execOutputRevoke r s := rfl
@[simp] theorem exec_layerGrant (r : Req) (s : State) : exec (.layerGrant r) s = execLayerGrant r s := rfl
@[simp] theorem exec_layerRevoke (r : Req) (s : State) : exec (.layerRevoke r) s = execLayerRevoke r s := rfl
@[simp] theorem exec_displayQuery (r : Req) (s : State) : exec (.displayQuery r) s = execDisplayQuery r s := rfl
@[simp] theorem exec_engineGrant (r : Req) (s : State) : exec (.engineGrant r) s = execEngineGrant r s := rfl
@[simp] theorem exec_engineRelease (r : Req) (s : State) : exec (.engineRelease r) s = execEngineRelease r s := rfl
@[simp] theorem exec_graphLoad (r : Req) (s : State) : exec (.graphLoad r) s = execGraphLoad r s := rfl
@[simp] theorem exec_graphRun (r : Req) (s : State) : exec (.graphRun r) s = execGraphRun r s := rfl
@[simp] theorem exec_graphCancel (r : Req) (s : State) : exec (.graphCancel r) s = execGraphCancel r s := rfl
@[simp] theorem exec_graphUnload (r : Req) (s : State) : exec (.graphUnload r) s = execGraphUnload r s := rfl
@[simp] theorem exec_composeStart (r : Req) (s : State) : exec (.composeStart r) s = execComposeStart r s := rfl
@[simp] theorem exec_composeStop (r : Req) (s : State) : exec (.composeStop r) s = execComposeStop r s := rfl
@[simp] theorem exec_composeServiceFrame (n : Nat) (torn : List Nat) (s : State) : exec (.composeServiceFrame n torn) s = execComposeServiceFrame n torn s := rfl
@[simp] theorem exec_transfer (r : Req) (s : State) : exec (.transfer r) s = execTransfer r s := rfl
@[simp] theorem exec_imageStage (r : Req) (s : State) : exec (.imageStage r) s = execImageStage r s := rfl
@[simp] theorem exec_imageQuery (r : Req) (s : State) : exec (.imageQuery r) s = execImageQuery r s := rfl
@[simp] theorem exec_imageActivate (r : Req) (s : State) : exec (.imageActivate r) s = execImageActivate r s := rfl
@[simp] theorem exec_imageCommit (r : Req) (s : State) : exec (.imageCommit r) s = execImageCommit r s := rfl
@[simp] theorem exec_imageRollback (r : Req) (s : State) : exec (.imageRollback r) s = execImageRollback r s := rfl
@[simp] theorem exec_envelopeSet (r : Req) (s : State) : exec (.envelopeSet r) s = execEnvelopeSet r s := rfl
@[simp] theorem exec_powerState (r : Req) (s : State) : exec (.powerState r) s = execPowerState r s := rfl
@[simp] theorem exec_debugGrant (r : Req) (s : State) : exec (.debugGrant r) s = execDebugGrant r s := rfl
@[simp] theorem exec_activationCopyDone (s : State) : exec (.activationCopyDone) s = execActivationCopyDone s := rfl
@[simp] theorem exec_activationWaitExpired (s : State) : exec (.activationWaitExpired) s = execActivationWaitExpired s := rfl
@[simp] theorem exec_switchStart (s : State) : exec (.switchStart) s = execSwitchStart s := rfl
@[simp] theorem exec_switchEnd (s : State) : exec (.switchEnd) s = execSwitchEnd s := rfl
@[simp] theorem exec_healthWindowEnd (healthy : Bool) (s : State) : exec (.healthWindowEnd healthy) s = execHealthWindowEnd healthy s := rfl
@[simp] theorem exec_rangerRestart (cause : Nat) (s : State) : exec (.rangerRestart cause) s = execRangerRestart cause s := rfl
@[simp] theorem exec_rangerRestartDone (s : State) : exec (.rangerRestartDone) s = execRangerRestartDone s := rfl
@[simp] theorem exec_flipSubmit (a : Access) (t : Nat) (s : State) : exec (.flipSubmit a t) s = execFlipSubmit a t s := rfl
@[simp] theorem exec_flipDeadline (n : Nat) (late : List Nat) (s : State) : exec (.flipDeadline n late) s = execFlipDeadline n late s := rfl
@[simp] theorem exec_leadWindowOpen (n : Nat) (due : Nat) (s : State) : exec (.leadWindowOpen n due) s = execLeadWindowOpen n due s := rfl
@[simp] theorem exec_beaconCommit (a : Access) (n : Nat) (s : State) : exec (.beaconCommit a n) s = execBeaconCommit a n s := rfl
@[simp] theorem exec_beaconPublish (n : Nat) (s : State) : exec (.beaconPublish n) s = execBeaconPublish n s := rfl
@[simp] theorem exec_pixelUnderrun (n : Nat) (x : Nat) (y : Nat) (s : State) : exec (.pixelUnderrun n x y) s = execPixelUnderrun n x y s := rfl
@[simp] theorem exec_keeperEntry (n : Nat) (engineReset : Bool) (s : State) : exec (.keeperEntry n engineReset) s = execKeeperEntry n engineReset s := rfl
@[simp] theorem exec_keeperRelease (n : Nat) (s : State) : exec (.keeperRelease n) s = execKeeperRelease n s := rfl
@[simp] theorem exec_outputEnable (a : Access) (n : Nat) (s : State) : exec (.outputEnable a n) s = execOutputEnable a n s := rfl
@[simp] theorem exec_outputDisable (a : Access) (n : Nat) (s : State) : exec (.outputDisable a n) s = execOutputDisable a n s := rfl
@[simp] theorem exec_modeset (a : Access) (n : Nat) (s : State) : exec (.modeset a n) s = execModeset a n s := rfl
@[simp] theorem exec_modesetDone (n : Nat) (link : Option (Nat × Nat)) (s : State) : exec (.modesetDone n link) s = execModesetDone n link s := rfl
@[simp] theorem exec_writebackFrameDone (n : Nat) (dropped : Option Nat) (s : State) : exec (.writebackFrameDone n dropped) s = execWritebackFrameDone n dropped s := rfl
@[simp] theorem exec_hpdPlug (n : Nat) (dpcd : List (BitVec 8)) (blocks : List (List (BitVec 8))) (s : State) : exec (.hpdPlug n dpcd blocks) s = execHpdPlug n dpcd blocks s := rfl
@[simp] theorem exec_hpdUnplug (n : Nat) (s : State) : exec (.hpdUnplug n) s = execHpdUnplug n s := rfl
@[simp] theorem exec_irqHpd (n : Nat) (retrain : Option Bool) (s : State) : exec (.irqHpd n retrain) s = execIrqHpd n retrain s := rfl
@[simp] theorem exec_go (a : Access) (n : Nat) (s : State) : exec (.go a n) s = execGo a n s := rfl
@[simp] theorem exec_auxDone (n : Nat) (result : Nat) (data : List (BitVec 8)) (s : State) : exec (.auxDone n result data) s = execAuxDone n result data s := rfl
@[simp] theorem exec_chGo (a : Access) (c : Nat) (s : State) : exec (.chGo a c) s = execChGo a c s := rfl
@[simp] theorem exec_chipperBlock (e : Nat) (s : State) : exec (.chipperBlock e) s = execChipperBlock e s := rfl
@[simp] theorem exec_chipperJobComplete (c : Nat) (s : State) : exec (.chipperJobComplete c) s = execChipperJobComplete c s := rfl
@[simp] theorem exec_start (a : Access) (c : Nat) (s : State) : exec (.start a c) s = execStart a c s := rfl
@[simp] theorem exec_bzFeed (a : Access) (c : Nat) (s : State) : exec (.bzFeed a c) s = execBzFeed a c s := rfl
@[simp] theorem exec_bzFeedPart (a : Access) (c : Nat) (s : State) : exec (.bzFeedPart a c) s = execBzFeedPart a c s := rfl
@[simp] theorem exec_escalation (core : Nat) (cmd : Nat) (s : State) : exec (.escalation core cmd) s = execEscalation core cmd s := rfl
@[simp] theorem exec_quantumExpiry (core : Nat) (cmd : Nat) (s : State) : exec (.quantumExpiry core cmd) s = execQuantumExpiry core cmd s := rfl
@[simp] theorem exec_saveComplete (core : Nat) (s : State) : exec (.saveComplete core) s = execSaveComplete core s := rfl
@[simp] theorem exec_restoreComplete (k : Nat) (s : State) : exec (.restoreComplete k) s = execRestoreComplete k s := rfl
@[simp] theorem exec_queueWatchdog (q : Nat) (s : State) : exec (.queueWatchdog q) s = execQueueWatchdog q s := rfl
@[simp] theorem exec_contextWatchdog (cmd : Nat) (s : State) : exec (.contextWatchdog cmd) s = execContextWatchdog cmd s := rfl
@[simp] theorem exec_contextResetDone (c : Nat) (s : State) : exec (.contextResetDone c) s = execContextResetDone c s := rfl
@[simp] theorem exec_contextFreed (c : Nat) (s : State) : exec (.contextFreed c) s = execContextFreed c s := rfl
@[simp] theorem exec_queueFreed (q : Nat) (s : State) : exec (.queueFreed q) s = execQueueFreed q s := rfl
@[simp] theorem exec_tenantFreed (t : Nat) (s : State) : exec (.tenantFreed t) s = execTenantFreed t s := rfl
@[simp] theorem exec_objectReclaim (o : Nat) (s : State) : exec (.objectReclaim o) s = execObjectReclaim o s := rfl
@[simp] theorem exec_objectZeroDone (o : Nat) (s : State) : exec (.objectZeroDone o) s = execObjectZeroDone o s := rfl
@[simp] theorem exec_fenceReleased (f : Nat) (s : State) : exec (.fenceReleased f) s = execFenceReleased f s := rfl
@[simp] theorem exec_linkDown (p : Nat) (s : State) : exec (.linkDown p) s = execLinkDown p s := rfl
@[simp] theorem exec_linkUp (p : Nat) (s : State) : exec (.linkUp p) s = execLinkUp p s := rfl
@[simp] theorem exec_rollCallTimeout (p : Nat) (s : State) : exec (.rollCallTimeout p) s = execRollCallTimeout p s := rfl
@[simp] theorem exec_bind (p : Nat) (s : State) : exec (.bind p) s = execBind p s := rfl
@[simp] theorem exec_release (p : Nat) (s : State) : exec (.release p) s = execRelease p s := rfl
@[simp] theorem exec_hostReadTimeout (p : Nat) (words : List Nat) (s : State) : exec (.hostReadTimeout p words) s = execHostReadTimeout p words s := rfl
@[simp] theorem exec_msixUnmask (p : Nat) (v : Nat) (s : State) : exec (.msixUnmask p v) s = execMsixUnmask p v s := rfl
@[simp] theorem exec_droopTrip (sensor : Nat) (s : State) : exec (.droopTrip sensor) s = execDroopTrip sensor s := rfl
@[simp] theorem exec_deepTrip (sensor : Nat) (both : Bool) (s : State) : exec (.deepTrip sensor both) s = execDeepTrip sensor both s := rfl
@[simp] theorem exec_droopRecover (stand : Nat) (s : State) : exec (.droopRecover stand) s = execDroopRecover stand s := rfl
@[simp] theorem exec_governorPeriod (p1 : Nat) (p100 : Nat) (tj : Int) (s : State) : exec (.governorPeriod p1 p100 tj) s = execGovernorPeriod p1 p100 tj s := rfl
@[simp] theorem exec_idleGateStart (unit : Nat) (s : State) : exec (.idleGateStart unit) s = execIdleGateStart unit s := rfl
@[simp] theorem exec_duskAnswer (step : Nat) (agent : DuskAgent) (s : State) : exec (.duskAnswer step agent) s = execDuskAnswer step agent s := rfl
@[simp] theorem exec_duskReask (step : Nat) (agent : DuskAgent) (s : State) : exec (.duskReask step agent) s = execDuskReask step agent s := rfl
@[simp] theorem exec_duskNoAnswer (step : Nat) (agent : DuskAgent) (s : State) : exec (.duskNoAnswer step agent) s = execDuskNoAnswer step agent s := rfl
@[simp] theorem exec_duskCommitDone (step : Nat) (s : State) : exec (.duskCommitDone step) s = execDuskCommitDone step s := rfl
@[simp] theorem exec_domainPowerUpDone (unit : Nat) (s : State) : exec (.domainPowerUpDone unit) s = execDomainPowerUpDone unit s := rfl
@[simp] theorem exec_addressMatch (s : State) : exec (.addressMatch) s = execAddressMatch s := rfl
@[simp] theorem exec_wakeComplete (s : State) : exec (.wakeComplete) s = execWakeComplete s := rfl
@[simp] theorem exec_nightLinkGraceExpiry (p : Nat) (s : State) : exec (.nightLinkGraceExpiry p) s = execNightLinkGraceExpiry p s := rfl
@[simp] theorem exec_envelopeReq (a : Access) (s : State) : exec (.envelopeReq a) s = execEnvelopeReq a s := rfl
@[simp] theorem exec_thermalSample (tj : Int) (lost : Option (List (Nat × BitVec 8))) (s : State) : exec (.thermalSample tj lost) s = execThermalSample tj lost s := rfl
@[simp] theorem exec_refclkLoss (s : State) : exec (.refclkLoss) s = execRefclkLoss s := rfl
@[simp] theorem exec_pgLow (s : State) : exec .pgLow s = execPgLow s := rfl
@[simp] theorem exec_scrubRead (site : ArraySite) (found : ScrubFound) (s : State) : exec (.scrubRead site found) s = execScrubRead site found s := rfl
@[simp] theorem exec_writeLinkPoll (channel : Nat) (n : Nat) (s : State) : exec (.writeLinkPoll channel n) s = execWriteLinkPoll channel n s := rfl
@[simp] theorem exec_retirement (what : Nat) (line : Nat) (s : State) : exec (.retirement what line) s = execRetirement what line s := rfl
@[simp] theorem exec_retirePowerOff (unit : Nat) (s : State) : exec (.retirePowerOff unit) s = execRetirePowerOff unit s := rfl
@[simp] theorem exec_coreRetired (s : State) : exec (.coreRetired) s = execCoreRetired s := rfl
@[simp] theorem exec_selfTestStart (core : Nat) (s : State) : exec (.selfTestStart core) s = execSelfTestStart core s := rfl
@[simp] theorem exec_selfTestDone (core : Nat) (coreFail : Bool) (arrayFail : Bool) (s : State) : exec (.selfTestDone core coreFail arrayFail) s = execSelfTestDone core coreFail arrayFail s := rfl
@[simp] theorem exec_unitIsolation (unit : Nat) (s : State) : exec (.unitIsolation unit) s = execUnitIsolation unit s := rfl
@[simp] theorem exec_clear (a : Access) (t : Nat) (s : State) : exec (.clear a t) s = execClear a t s := rfl
@[simp] theorem exec_scorch (first : BitVec 16) (second : BitVec 16) (slow : Bool) (supply : Bool) (s : State) : exec (.scorch first second slow supply) s = execScorch first second slow supply s := rfl
@[simp] theorem exec_poisonFence (arg : BitVec 32) (confirm : BitVec 16) (s : State) : exec (.poisonFence arg confirm) s = execPoisonFence arg confirm s := rfl
@[simp] theorem exec_resetTenant (arg : BitVec 32) (confirm : BitVec 16) (s : State) : exec (.resetTenant arg confirm) s = execResetTenant arg confirm s := rfl
@[simp] theorem exec_forceNight (arg : BitVec 32) (confirm : BitVec 16) (lost : Option (List (Nat × BitVec 8))) (s : State) : exec (.forceNight arg confirm lost) s = execForceNight arg confirm lost s := rfl
@[simp] theorem exec_releasePads (arg : BitVec 32) (confirm : BitVec 16) (s : State) : exec (.releasePads arg confirm) s = execReleasePads arg confirm s := rfl
@[simp] theorem exec_beaconLock (arg : BitVec 32) (confirm : BitVec 16) (s : State) : exec (.beaconLock arg confirm) s = execBeaconLock arg confirm s := rfl
@[simp] theorem exec_beaconUnlock (arg : BitVec 32) (confirm : BitVec 16) (s : State) : exec (.beaconUnlock arg confirm) s = execBeaconUnlock arg confirm s := rfl
@[simp] theorem exec_i3cPrivateWrite (bytes : List (BitVec 8)) (s : State) : exec (.i3cPrivateWrite bytes) s = execI3cPrivateWrite bytes s := rfl
@[simp] theorem exec_entdaa (addr : BitVec 7) (s : State) : exec (.entdaa addr) s = execEntdaa addr s := rfl
@[simp] theorem exec_setdasa (static : BitVec 7) (addr : BitVec 7) (s : State) : exec (.setdasa static addr) s = execSetdasa static addr s := rfl
@[simp] theorem exec_setnewda (addr : BitVec 7) (s : State) : exec (.setnewda addr) s = execSetnewda addr s := rfl
@[simp] theorem exec_rstdaa (s : State) : exec (.rstdaa) s = execRstdaa s := rfl
@[simp] theorem exec_enec (events : BitVec 8) (s : State) : exec (.enec events) s = execEnec events s := rfl
@[simp] theorem exec_disec (events : BitVec 8) (s : State) : exec (.disec events) s = execDisec events s := rfl
@[simp] theorem exec_getpid (s : State) : exec (.getpid) s = execGetpid s := rfl
@[simp] theorem exec_getbcr (s : State) : exec (.getbcr) s = execGetbcr s := rfl
@[simp] theorem exec_getdcr (s : State) : exec (.getdcr) s = execGetdcr s := rfl
@[simp] theorem exec_getstatus (s : State) : exec (.getstatus) s = execGetstatus s := rfl
@[simp] theorem exec_getmrl (s : State) : exec (.getmrl) s = execGetmrl s := rfl
@[simp] theorem exec_setmrl (n : Nat) (s : State) : exec (.setmrl n) s = execSetmrl n s := rfl
@[simp] theorem exec_getmwl (s : State) : exec (.getmwl) s = execGetmwl s := rfl
@[simp] theorem exec_setmwl (n : Nat) (s : State) : exec (.setmwl n) s = execSetmwl n s := rfl
@[simp] theorem exec_rstact (action : BitVec 8) (pattern : Bool) (s : State) : exec (.rstact action pattern) s = execRstact action pattern s := rfl
@[simp] theorem exec_ibiRetry (ack : Bool) (s : State) : exec (.ibiRetry ack) s = execIbiRetry ack s := rfl
@[simp] theorem exec_extest (s : State) : exec (.extest) s = execExtest s := rfl
@[simp] theorem exec_idcode (s : State) : exec (.idcode) s = execIdcode s := rfl
@[simp] theorem exec_samplePreload (s : State) : exec (.samplePreload) s = execSamplePreload s := rfl
@[simp] theorem exec_clamp (s : State) : exec (.clamp) s = execClamp s := rfl
@[simp] theorem exec_highz (s : State) : exec (.highz) s = execHighz s := rfl
@[simp] theorem exec_bypass (s : State) : exec (.bypass) s = execBypass s := rfl
@[simp] theorem exec_debugAccessPort (code : BitVec 8) (op : DapOp) (s : State) : exec (.debugAccessPort code op) s = execDebugAccessPort code op s := rfl
@[simp] theorem exec_deviceReset (pin : Bool) (s : State) : exec (.deviceReset pin) s = execDeviceReset pin s := rfl
@[simp] theorem exec_resetRelease (b : BootInput) (s : State) : exec (.resetRelease b) s = execResetRelease b s := rfl
@[simp] theorem exec_hostReady (s : State) : exec (.hostReady) s = execHostReady s := rfl
@[simp] theorem exec_registerWrite (space : RegSpace) (op : AccessOp) (a : Access) (off : Nat) (s : State) : exec (.registerWrite space op a off) s = execRegisterWrite space op a off s := rfl
@[simp] theorem exec_imageStageDone (s : State) : exec (.imageStageDone) s = execImageStageDone s := rfl
@[simp] theorem exec_graphLoadDone (g : Nat) (s : State) : exec (.graphLoadDone g) s = execGraphLoadDone g s := rfl
@[simp] theorem exec_contextTlbInvalidateDone (c : Nat) (va : Nat) (n : Nat) (s : State) : exec (.contextTlbInvalidateDone c va n) s = execContextTlbInvalidateDone c va n s := rfl
@[simp] theorem exec_droopStepDelivery (stand : Nat) (s : State) : exec (.droopStepDelivery stand) s = execDroopStepDelivery stand s := rfl
@[simp] theorem exec_tripClear (sensor : Nat) (deep : Bool) (s : State) : exec (.tripClear sensor deep) s = execTripClear sensor deep s := rfl
@[simp] theorem exec_hdrModeEntry (s : State) : exec (.hdrModeEntry) s = execHdrModeEntry s := rfl
@[simp] theorem exec_hdrExitPattern (s : State) : exec (.hdrExitPattern) s = execHdrExitPattern s := rfl
@[simp] theorem exec_undefinedEncoding (g : GroupAt) (s : State) : exec (.undefinedEncoding g) s = execUndefinedEncoding g s := rfl
@[simp] theorem exec_badPacket (p : Pkt) (opcode : BitVec 16) (s : State) : exec (.badPacket p opcode) s = execBadPacket p opcode s := rfl
@[simp] theorem exec_badOpcode (r : Req) (opcode : BitVec 16) (s : State) : exec (.badOpcode r opcode) s = execBadOpcode r opcode s := rfl

end Sys2Proof.Machine
end

