-- ==== Sys2Proof/Laws/Tables.lean ====
section
/-! SUPPORT. Sparse tables and byte memories: a read after a write, writes elsewhere, and the canonical form of a
memory, which every memory operation keeps. -/

namespace Sys2Proof.Machine

/-- A table read after a write: the written value at its key, the old one at every other. -/
@[simp] theorem tget_tset {α : Type} (t : Tbl α) (k j : Nat) (v d : α) :
    tget (tset t k v) j d = if j = k then v else tget t j d := by
  induction t with
  | nil => simp [tset, tget]
  | cons e r ih =>
    obtain ⟨i, w⟩ := e
    by_cases hk : k = i
    · subst hk; by_cases hj : j = k <;> simp [tset, tget, hj]
    · by_cases hl : k < i
      · by_cases hj : j = k
        · subst hj; simp [tset, tget, hk, hl]
        · simp [tset, tget, hk, hl, hj]
      · by_cases hi : j = i
        · subst hi
          have hjk : j ≠ k := fun h => hk h.symm
          simp [tset, tget, hk, hl, hjk]
        · simp [tset, tget, hk, hl, hi, ih]

@[simp] theorem tget?_tset {α : Type} (t : Tbl α) (k j : Nat) (v : α) :
    tget? (tset t k v) j = if j = k then some v else tget? t j := by
  induction t with
  | nil => simp [tset, tget?]
  | cons e r ih =>
    obtain ⟨i, w⟩ := e
    by_cases hk : k = i
    · subst hk; by_cases hj : j = k <;> simp [tset, tget?, hj]
    · by_cases hl : k < i
      · by_cases hj : j = k
        · subst hj; simp [tset, tget?, hk, hl]
        · simp [tset, tget?, hk, hl, hj]
      · by_cases hi : j = i
        · subst hi
          have hjk : j ≠ k := fun h => hk h.symm
          simp [tset, tget?, hk, hl, hjk]
        · simp [tset, tget?, hk, hl, hi, ih]

/-- The two readings of a table agree. -/
theorem tget_eq {α : Type} (t : Tbl α) (k : Nat) (d : α) : tget t k d = (tget? t k).getD d := by
  induction t with
  | nil => rfl
  | cons e r ih =>
    obtain ⟨i, w⟩ := e
    by_cases h : k = i <;> simp [tget, tget?, h, ih]

/-- A table read after entries were dropped. -/
@[simp] theorem tget?_tdrop {α : Type} (t : Tbl α) (p : Nat → Bool) (k : Nat) :
    tget? (tdrop t p) k = if p k then none else tget? t k := by
  induction t with
  | nil => simp [tdrop, tget?]
  | cons e r ih =>
    obtain ⟨i, w⟩ := e
    have ih' : tget? (List.filter (fun e => !p e.1) r) k = if p k then none else tget? r k := ih
    by_cases hp : p i
    · by_cases hk : k = i
      · subst hk; simp [tdrop, hp, ih']
      · simp [tdrop, tget?, hp, hk, ih']
    · by_cases hk : k = i
      · subst hk; simp [tdrop, tget?, hp]
      · simp [tdrop, tget?, hp, hk, ih']

@[simp] theorem tget_tdrop {α : Type} (t : Tbl α) (p : Nat → Bool) (k : Nat) (d : α) :
    tget (tdrop t p) k d = if p k then d else tget t k d := by
  simp only [tget_eq, tget?_tdrop]
  split <;> rfl

/-- A table read after every entry was changed. -/
@[simp] theorem tget?_tmap {α : Type} (t : Tbl α) (f : Nat → α → α) (k : Nat) :
    tget? (tmap t f) k = (tget? t k).map (f k) := by
  induction t with
  | nil => rfl
  | cons e r ih =>
    obtain ⟨i, w⟩ := e
    have ih' : tget? (List.map (fun e => (e.1, f e.1 e.2)) r) k = (tget? r k).map (f k) := ih
    by_cases hk : k = i
    · subst hk; simp [tmap, tget?]
    · simp [tmap, tget?, hk, ih']

/-- A byte read after a byte was written: the new byte at its address, the old one at every other, whatever the list. -/
@[simp] theorem Mem.get_put_ne (m : Mem) (a j : Nat) (b : Byte) (h : j ≠ a) : (m.put a b).get j = m.get j := by
  induction m with
  | nil => by_cases hb : b = memFill <;> simp [Mem.put, Mem.get, hb, h]
  | cons e r ih =>
    obtain ⟨i, w⟩ := e
    by_cases hi : a = i
    · subst hi; by_cases hb : b = memFill <;> simp [Mem.put, Mem.get, hb, h]
    · by_cases hl : a < i
      · by_cases hb : b = memFill <;> simp [Mem.put, Mem.get, hi, hl, hb, h]
      · by_cases hj : j = i <;> simp [Mem.put, Mem.get, hi, hl, hj, ih]

/-- An address below every listed one reads as the fill value. -/
theorem Mem.get_below (m : Mem) (lo a : Nat) (h : Mem.wfFrom lo m = true) (ha : a < lo) : m.get a = memFill := by
  induction m generalizing lo with
  | nil => rfl
  | cons e r ih =>
    obtain ⟨i, w⟩ := e
    simp only [Mem.wfFrom, Bool.and_eq_true, decide_eq_true_eq] at h
    have hi : a ≠ i := by omega
    simp [Mem.get, hi, ih (i + 1) h.2 (by omega)]

theorem Mem.wfFrom_weaken (m : Mem) (lo hi : Nat) (h : Mem.wfFrom hi m = true) (hl : lo ≤ hi) : Mem.wfFrom lo m = true := by
  cases m with
  | nil => rfl
  | cons e r =>
    obtain ⟨i, w⟩ := e
    simp only [Mem.wfFrom, Bool.and_eq_true, decide_eq_true_eq] at h ⊢
    exact ⟨⟨by omega, h.1.2⟩, h.2⟩

theorem Mem.wfFrom_put (m : Mem) (lo a : Nat) (b : Byte) (h : Mem.wfFrom lo m = true) (ha : lo ≤ a) :
    Mem.wfFrom lo (m.put a b) = true := by
  induction m generalizing lo with
  | nil => by_cases hb : b = memFill <;> simp [Mem.put, Mem.wfFrom, hb, ha]
  | cons e r ih =>
    obtain ⟨i, w⟩ := e
    simp only [Mem.wfFrom, Bool.and_eq_true, decide_eq_true_eq] at h
    by_cases hi : a = i
    · subst hi
      by_cases hb : b = memFill
      · simpa [Mem.put, hb] using Mem.wfFrom_weaken r lo (a + 1) h.2 (by omega)
      · simp [Mem.put, Mem.wfFrom, hb, ha, h.2]
    · by_cases hl : a < i
      · by_cases hb : b = memFill
        · simp [Mem.put, Mem.wfFrom, hi, hl, hb, h.1.1, h.2, show w ≠ memFill by simpa using h.1.2]
        · simp [Mem.put, Mem.wfFrom, hi, hl, hb, ha, h.2, show w ≠ memFill by simpa using h.1.2,
            show a + 1 ≤ i by omega]
      · have hr := ih (i + 1) h.2 (by omega)
        simp [Mem.put, Mem.wfFrom, hi, hl, h.1.1, hr, show w ≠ memFill by simpa using h.1.2]

/-- Writing a byte keeps the canonical form. -/
theorem Mem.wf_put (m : Mem) (a : Nat) (b : Byte) (h : m.wf = true) : (m.put a b).wf = true :=
  Mem.wfFrom_put m 0 a b h (Nat.zero_le a)

theorem Mem.get_put_from (m : Mem) (lo a : Nat) (b : Byte) (h : Mem.wfFrom lo m = true) : (m.put a b).get a = b := by
  induction m generalizing lo with
  | nil => by_cases hb : b = memFill <;> simp [Mem.put, Mem.get, hb]
  | cons e r ih =>
    obtain ⟨i, w⟩ := e
    simp only [Mem.wfFrom, Bool.and_eq_true, decide_eq_true_eq] at h
    by_cases hi : a = i
    · subst hi
      by_cases hb : b = memFill
      · simp [Mem.put, hb, Mem.get_below r (a + 1) a h.2 (by omega)]
      · simp [Mem.put, Mem.get, hb]
    · by_cases hl : a < i
      · by_cases hb : b = memFill
        · simp [Mem.put, Mem.get, hi, hl, hb, Mem.get_below r (i + 1) a h.2 (by omega)]
        · simp [Mem.put, Mem.get, hi, hl, hb]
      · simp [Mem.put, Mem.get, hi, hl, ih (i + 1) h.2]

/-- A byte of a canonical memory read after it was written. -/
theorem Mem.get_put (m : Mem) (a : Nat) (b : Byte) (h : m.wf = true) : (m.put a b).get a = b :=
  Mem.get_put_from m 0 a b h

/-- Writing a run of bytes keeps the canonical form. -/
theorem Mem.wf_write (m : Mem) (a : Nat) (bs : List Byte) (h : m.wf = true) : (m.write a bs).wf = true := by
  induction bs generalizing m a with
  | nil => exact h
  | cons b bs ih => exact ih _ _ (Mem.wf_put m a b h)

/-- Writing a little-endian value keeps the canonical form. -/
theorem Mem.wf_writeNat (m : Mem) (a n x : Nat) (h : m.wf = true) : (m.writeNat a n x).wf = true :=
  Mem.wf_write m a _ h

/-- Addresses outside a written run read as before. -/
theorem Mem.get_write_outside (m : Mem) (a j : Nat) (bs : List Byte) (h : j < a ∨ a + bs.length ≤ j) :
    (m.write a bs).get j = m.get j := by
  induction bs generalizing m a with
  | nil => rfl
  | cons b bs ih =>
    simp only [List.length_cons] at h
    rw [Mem.write, ih _ _ (by omega), Mem.get_put_ne m a j b (by omega)]

/-- Addresses inside a written run read as the run. -/
theorem Mem.get_write_inside (m : Mem) (a i : Nat) (bs : List Byte) (h : m.wf = true) (hi : i < bs.length) :
    (m.write a bs).get (a + i) = bs.getD i 0 := by
  induction bs generalizing m a i with
  | nil => simp at hi
  | cons b bs ih =>
    cases i with
    | zero => simp [Mem.write, Mem.get_write_outside, Mem.get_put m a b h]
    | succ n =>
      have := ih (m.put a b) (a + 1) n (Mem.wf_put m a b h) (by simpa using hi)
      simpa [Mem.write, Nat.add_assoc, Nat.add_comm 1] using this

theorem Mem.wfFrom_filter (m : Mem) (lo : Nat) (p : Host.Cell → Bool) (h : Mem.wfFrom lo m = true) :
    Mem.wfFrom lo (m.filter p) = true := by
  induction m generalizing lo with
  | nil => rfl
  | cons e r ih =>
    obtain ⟨i, w⟩ := e
    simp only [Mem.wfFrom, Bool.and_eq_true, decide_eq_true_eq] at h
    have hr := ih (i + 1) h.2
    by_cases hp : p (i, w)
    · simp [hp, Mem.wfFrom, h.1.1, hr, show w ≠ memFill by simpa using h.1.2]
    · simpa [hp] using Mem.wfFrom_weaken (r.filter p) lo (i + 1) hr (by omega)

/-- Erasing a region keeps the canonical form. -/
theorem Mem.wf_erase (m : Mem) (a n : Nat) (h : m.wf = true) : (m.erase a n).wf = true :=
  Mem.wfFrom_filter m 0 _ h

theorem Mem.get_filter (m : Mem) (p : Nat → Bool) (j : Nat) :
    Mem.get (m.filter fun c => p c.1) j = if p j then m.get j else memFill := by
  induction m with
  | nil => simp [Mem.get]
  | cons e r ih =>
    obtain ⟨i, w⟩ := e
    by_cases hp : p i
    · by_cases hj : j = i
      · subst hj; simp [Mem.get, hp]
      · simp [Mem.get, hp, hj, ih]
    · by_cases hj : j = i
      · subst hj; simp [hp, ih]
      · simp [Mem.get, hp, hj, ih]

/-- An erased region reads as the fill value, and every other address as before. -/
theorem Mem.get_erase (m : Mem) (a n j : Nat) :
    (m.erase a n).get j = if a ≤ j ∧ j < a + n then memFill else m.get j := by
  rw [Mem.erase, Mem.get_filter m (fun i => !(decide (a ≤ i) && decide (i < a + n))) j]
  by_cases h : a ≤ j ∧ j < a + n
  · simp [h]
  · simp only [h, if_false]
    rw [if_pos]
    simp only [Bool.not_eq_true', Bool.and_eq_false_iff, decide_eq_false_iff_not]
    omega

end Sys2Proof.Machine
end

