-- ==== Sys2Proof/Laws/Notify.lean ====
section
/-! SUPPORT. What counting and telling can change: counters, channels, ports, tenants' logs, in-band interrupts and what
is sent, and nothing else. -/

namespace Sys2Proof.Machine

theorem Notified.refl (s : State) : Notified s s := rfl

theorem Notified.trans {a b c : State} (h : Notified a b) (k : Notified b c) : Notified a c := by
  unfold Notified at *
  rw [k, h]

theorem notified_logTenant (s : State) (t : Nat) (r : LogRec) : Notified s (logTenant s t r) := by
  unfold logTenant
  extract_lets x
  split
  · rfl
  · rfl

theorem notified_sendMsix (s : State) (p v : Nat) : Notified s (sendMsix s p v) := by
  unfold sendMsix
  extract_lets x
  split
  · rfl
  · split
    · rfl
    · split
      · rfl
      · rfl

theorem notified_notifyTenant (s : State) (t v : Nat) : Notified s (notifyTenant s t v) := by
  unfold notifyTenant
  split
  · exact notified_sendMsix _ _ _
  · exact notified_logTenant _ _ _

theorem notified_raiseIbi (s : State) (k : Nat) (p : List Byte) : Notified s (raiseIbi s k p) := by
  unfold raiseIbi
  split <;> rfl

theorem notified_setChannel (s : State) (c : Nat) (x : Channel) : Notified s (s.setChannel c x) := rfl

theorem notified_postRecord (s : State) (ch seq status detail tag flags : Nat) (p : List Byte) :
    Notified s (postRecord s ch seq status detail tag flags p) := by
  unfold postRecord
  extract_lets c s1
  have h1 : Notified s s1 := notified_setChannel _ _ _
  split
  · exact h1
  · split
    · exact h1.trans (notified_raiseIbi _ _ _)
    · exact h1.trans (notified_notifyTenant _ _ _)

theorem notified_postEventOn (s : State) (ch code : Nat) (p : List Byte) : Notified s (postEventOn s ch code p) := by
  unfold postEventOn
  extract_lets c s1
  have h1 : Notified s s1 := notified_setChannel _ _ _
  split
  · exact h1
  · exact h1.trans (notified_postRecord _ _ _ _ _ _ _ _)

theorem notified_foldl {α : Type} (l : List α) (f : State → α → State) (h : ∀ s x, Notified s (f s x)) (s : State) :
    Notified s (l.foldl f s) := by
  induction l generalizing s with
  | nil => rfl
  | cons a l ih => exact (h s a).trans (ih _)

theorem notified_postEvent (s : State) (code unit a b : Nat) : Notified s (postEvent s code unit a b) := by
  unfold postEvent
  refine notified_foldl _ _ (fun t ch => ?_) s
  split
  · exact notified_postEventOn _ _ _ _
  · rfl

theorem notified_bumpBy (s : State) (unit off n : Nat) : Notified s (bumpBy s unit off n) := by
  unfold bumpBy
  extract_lets old new s1
  have h1 : Notified s s1 := rfl
  split
  · exact h1.trans (notified_postEvent _ _ _ _ _)
  · exact h1

theorem notified_bump (s : State) (unit off : Nat) : Notified s (bump s unit off) := notified_bumpBy s unit off 1

/-- The other fields. -/
theorem Notified.fuses {s t : State} (h : Notified s t) : t.fuses = s.fuses := (congrArg State.fuses h :)
theorem Notified.boot {s t : State} (h : Notified s t) : t.boot = s.boot := (congrArg State.boot h :)
theorem Notified.flash {s t : State} (h : Notified s t) : t.flash = s.flash := (congrArg State.flash h :)
theorem Notified.cfg {s t : State} (h : Notified s t) : t.cfg = s.cfg := (congrArg State.cfg h :)
theorem Notified.timer {s t : State} (h : Notified s t) : t.timer = s.timer := (congrArg State.timer h :)
theorem Notified.freeTick {s t : State} (h : Notified s t) : t.freeTick = s.freeTick := (congrArg State.freeTick h :)
theorem Notified.maps {s t : State} (h : Notified s t) : t.maps = s.maps := (congrArg State.maps h :)
theorem Notified.cores {s t : State} (h : Notified s t) : t.cores = s.cores := (congrArg State.cores h :)
theorem Notified.mem {s t : State} (h : Notified s t) : t.mem = s.mem := (congrArg State.mem h :)
theorem Notified.ctxs {s t : State} (h : Notified s t) : t.ctxs = s.ctxs := (congrArg State.ctxs h :)
theorem Notified.queues {s t : State} (h : Notified s t) : t.queues = s.queues := (congrArg State.queues h :)
theorem Notified.objs {s t : State} (h : Notified s t) : t.objs = s.objs := (congrArg State.objs h :)
theorem Notified.fences {s t : State} (h : Notified s t) : t.fences = s.fences := (congrArg State.fences h :)
theorem Notified.bridges {s t : State} (h : Notified s t) : t.bridges = s.bridges := (congrArg State.bridges h :)
theorem Notified.cmds {s t : State} (h : Notified s t) : t.cmds = s.cmds := (congrArg State.cmds h :)
theorem Notified.nextCmd {s t : State} (h : Notified s t) : t.nextCmd = s.nextCmd := (congrArg State.nextCmd h :)
theorem Notified.cuts {s t : State} (h : Notified s t) : t.cuts = s.cuts := (congrArg State.cuts h :)
theorem Notified.renders {s t : State} (h : Notified s t) : t.renders = s.renders := (congrArg State.renders h :)
theorem Notified.sessions {s t : State} (h : Notified s t) : t.sessions = s.sessions := (congrArg State.sessions h :)
theorem Notified.lanes {s t : State} (h : Notified s t) : t.lanes = s.lanes := (congrArg State.lanes h :)
theorem Notified.chipGrants {s t : State} (h : Notified s t) : t.chipGrants = s.chipGrants := (congrArg State.chipGrants h :)
theorem Notified.blazeGrants {s t : State} (h : Notified s t) : t.blazeGrants = s.blazeGrants := (congrArg State.blazeGrants h :)
theorem Notified.engines {s t : State} (h : Notified s t) : t.engines = s.engines := (congrArg State.engines h :)
theorem Notified.engCtxs {s t : State} (h : Notified s t) : t.engCtxs = s.engCtxs := (congrArg State.engCtxs h :)
theorem Notified.bzCtxs {s t : State} (h : Notified s t) : t.bzCtxs = s.bzCtxs := (congrArg State.bzCtxs h :)
theorem Notified.prism {s t : State} (h : Notified s t) : t.prism = s.prism := (congrArg State.prism h :)
theorem Notified.sched {s t : State} (h : Notified s t) : t.sched = s.sched := (congrArg State.sched h :)
theorem Notified.ranger {s t : State} (h : Notified s t) : t.ranger = s.ranger := (congrArg State.ranger h :)
theorem Notified.power {s t : State} (h : Notified s t) : t.power = s.power := (congrArg State.power h :)
theorem Notified.objFrees {s t : State} (h : Notified s t) : t.objFrees = s.objFrees := (congrArg State.objFrees h :)
theorem Notified.fenceFrees {s t : State} (h : Notified s t) : t.fenceFrees = s.fenceFrees := (congrArg State.fenceFrees h :)
theorem Notified.tap {s t : State} (h : Notified s t) : t.tap = s.tap := (congrArg State.tap h :)
theorem Notified.sysReset {s t : State} (h : Notified s t) : t.sysReset = s.sysReset := (congrArg State.sysReset h :)
theorem Notified.avail {s t : State} (h : Notified s t) : t.avail = s.avail := (congrArg State.avail h :)
theorem Notified.pending {s t : State} (h : Notified s t) : t.pending = s.pending := (congrArg State.pending h :)

@[simp] theorem bumpBy_fuses (s : State) (u o n : Nat) : (bumpBy s u o n).fuses = s.fuses := (notified_bumpBy _ _ _ _ : Notified s _).fuses
@[simp] theorem bumpBy_boot (s : State) (u o n : Nat) : (bumpBy s u o n).boot = s.boot := (notified_bumpBy _ _ _ _ : Notified s _).boot
@[simp] theorem bumpBy_flash (s : State) (u o n : Nat) : (bumpBy s u o n).flash = s.flash := (notified_bumpBy _ _ _ _ : Notified s _).flash
@[simp] theorem bumpBy_cfg (s : State) (u o n : Nat) : (bumpBy s u o n).cfg = s.cfg := (notified_bumpBy _ _ _ _ : Notified s _).cfg
@[simp] theorem bumpBy_timer (s : State) (u o n : Nat) : (bumpBy s u o n).timer = s.timer := (notified_bumpBy _ _ _ _ : Notified s _).timer
@[simp] theorem bumpBy_freeTick (s : State) (u o n : Nat) : (bumpBy s u o n).freeTick = s.freeTick := (notified_bumpBy _ _ _ _ : Notified s _).freeTick
@[simp] theorem bumpBy_maps (s : State) (u o n : Nat) : (bumpBy s u o n).maps = s.maps := (notified_bumpBy _ _ _ _ : Notified s _).maps
@[simp] theorem bumpBy_cores (s : State) (u o n : Nat) : (bumpBy s u o n).cores = s.cores := (notified_bumpBy _ _ _ _ : Notified s _).cores
@[simp] theorem bumpBy_mem (s : State) (u o n : Nat) : (bumpBy s u o n).mem = s.mem := (notified_bumpBy _ _ _ _ : Notified s _).mem
@[simp] theorem bumpBy_ctxs (s : State) (u o n : Nat) : (bumpBy s u o n).ctxs = s.ctxs := (notified_bumpBy _ _ _ _ : Notified s _).ctxs
@[simp] theorem bumpBy_queues (s : State) (u o n : Nat) : (bumpBy s u o n).queues = s.queues := (notified_bumpBy _ _ _ _ : Notified s _).queues
@[simp] theorem bumpBy_objs (s : State) (u o n : Nat) : (bumpBy s u o n).objs = s.objs := (notified_bumpBy _ _ _ _ : Notified s _).objs
@[simp] theorem bumpBy_fences (s : State) (u o n : Nat) : (bumpBy s u o n).fences = s.fences := (notified_bumpBy _ _ _ _ : Notified s _).fences
@[simp] theorem bumpBy_bridges (s : State) (u o n : Nat) : (bumpBy s u o n).bridges = s.bridges := (notified_bumpBy _ _ _ _ : Notified s _).bridges
@[simp] theorem bumpBy_cmds (s : State) (u o n : Nat) : (bumpBy s u o n).cmds = s.cmds := (notified_bumpBy _ _ _ _ : Notified s _).cmds
@[simp] theorem bumpBy_nextCmd (s : State) (u o n : Nat) : (bumpBy s u o n).nextCmd = s.nextCmd := (notified_bumpBy _ _ _ _ : Notified s _).nextCmd
@[simp] theorem bumpBy_cuts (s : State) (u o n : Nat) : (bumpBy s u o n).cuts = s.cuts := (notified_bumpBy _ _ _ _ : Notified s _).cuts
@[simp] theorem bumpBy_renders (s : State) (u o n : Nat) : (bumpBy s u o n).renders = s.renders := (notified_bumpBy _ _ _ _ : Notified s _).renders
@[simp] theorem bumpBy_sessions (s : State) (u o n : Nat) : (bumpBy s u o n).sessions = s.sessions := (notified_bumpBy _ _ _ _ : Notified s _).sessions
@[simp] theorem bumpBy_lanes (s : State) (u o n : Nat) : (bumpBy s u o n).lanes = s.lanes := (notified_bumpBy _ _ _ _ : Notified s _).lanes
@[simp] theorem bumpBy_chipGrants (s : State) (u o n : Nat) : (bumpBy s u o n).chipGrants = s.chipGrants := (notified_bumpBy _ _ _ _ : Notified s _).chipGrants
@[simp] theorem bumpBy_blazeGrants (s : State) (u o n : Nat) : (bumpBy s u o n).blazeGrants = s.blazeGrants := (notified_bumpBy _ _ _ _ : Notified s _).blazeGrants
@[simp] theorem bumpBy_engines (s : State) (u o n : Nat) : (bumpBy s u o n).engines = s.engines := (notified_bumpBy _ _ _ _ : Notified s _).engines
@[simp] theorem bumpBy_engCtxs (s : State) (u o n : Nat) : (bumpBy s u o n).engCtxs = s.engCtxs := (notified_bumpBy _ _ _ _ : Notified s _).engCtxs
@[simp] theorem bumpBy_bzCtxs (s : State) (u o n : Nat) : (bumpBy s u o n).bzCtxs = s.bzCtxs := (notified_bumpBy _ _ _ _ : Notified s _).bzCtxs
@[simp] theorem bumpBy_prism (s : State) (u o n : Nat) : (bumpBy s u o n).prism = s.prism := (notified_bumpBy _ _ _ _ : Notified s _).prism
@[simp] theorem bumpBy_sched (s : State) (u o n : Nat) : (bumpBy s u o n).sched = s.sched := (notified_bumpBy _ _ _ _ : Notified s _).sched
@[simp] theorem bumpBy_ranger (s : State) (u o n : Nat) : (bumpBy s u o n).ranger = s.ranger := (notified_bumpBy _ _ _ _ : Notified s _).ranger
@[simp] theorem bumpBy_power (s : State) (u o n : Nat) : (bumpBy s u o n).power = s.power := (notified_bumpBy _ _ _ _ : Notified s _).power
@[simp] theorem bumpBy_objFrees (s : State) (u o n : Nat) : (bumpBy s u o n).objFrees = s.objFrees := (notified_bumpBy _ _ _ _ : Notified s _).objFrees
@[simp] theorem bumpBy_fenceFrees (s : State) (u o n : Nat) : (bumpBy s u o n).fenceFrees = s.fenceFrees := (notified_bumpBy _ _ _ _ : Notified s _).fenceFrees
@[simp] theorem bumpBy_tap (s : State) (u o n : Nat) : (bumpBy s u o n).tap = s.tap := (notified_bumpBy _ _ _ _ : Notified s _).tap
@[simp] theorem bumpBy_sysReset (s : State) (u o n : Nat) : (bumpBy s u o n).sysReset = s.sysReset := (notified_bumpBy _ _ _ _ : Notified s _).sysReset
@[simp] theorem bumpBy_avail (s : State) (u o n : Nat) : (bumpBy s u o n).avail = s.avail := (notified_bumpBy _ _ _ _ : Notified s _).avail
@[simp] theorem bumpBy_pending (s : State) (u o n : Nat) : (bumpBy s u o n).pending = s.pending := (notified_bumpBy _ _ _ _ : Notified s _).pending

@[simp] theorem bump_fuses (s : State) (u o : Nat) : (bump s u o).fuses = s.fuses := (notified_bump _ _ _ : Notified s _).fuses
@[simp] theorem bump_boot (s : State) (u o : Nat) : (bump s u o).boot = s.boot := (notified_bump _ _ _ : Notified s _).boot
@[simp] theorem bump_flash (s : State) (u o : Nat) : (bump s u o).flash = s.flash := (notified_bump _ _ _ : Notified s _).flash
@[simp] theorem bump_cfg (s : State) (u o : Nat) : (bump s u o).cfg = s.cfg := (notified_bump _ _ _ : Notified s _).cfg
@[simp] theorem bump_timer (s : State) (u o : Nat) : (bump s u o).timer = s.timer := (notified_bump _ _ _ : Notified s _).timer
@[simp] theorem bump_freeTick (s : State) (u o : Nat) : (bump s u o).freeTick = s.freeTick := (notified_bump _ _ _ : Notified s _).freeTick
@[simp] theorem bump_maps (s : State) (u o : Nat) : (bump s u o).maps = s.maps := (notified_bump _ _ _ : Notified s _).maps
@[simp] theorem bump_cores (s : State) (u o : Nat) : (bump s u o).cores = s.cores := (notified_bump _ _ _ : Notified s _).cores
@[simp] theorem bump_mem (s : State) (u o : Nat) : (bump s u o).mem = s.mem := (notified_bump _ _ _ : Notified s _).mem
@[simp] theorem bump_ctxs (s : State) (u o : Nat) : (bump s u o).ctxs = s.ctxs := (notified_bump _ _ _ : Notified s _).ctxs
@[simp] theorem bump_queues (s : State) (u o : Nat) : (bump s u o).queues = s.queues := (notified_bump _ _ _ : Notified s _).queues
@[simp] theorem bump_objs (s : State) (u o : Nat) : (bump s u o).objs = s.objs := (notified_bump _ _ _ : Notified s _).objs
@[simp] theorem bump_fences (s : State) (u o : Nat) : (bump s u o).fences = s.fences := (notified_bump _ _ _ : Notified s _).fences
@[simp] theorem bump_bridges (s : State) (u o : Nat) : (bump s u o).bridges = s.bridges := (notified_bump _ _ _ : Notified s _).bridges
@[simp] theorem bump_cmds (s : State) (u o : Nat) : (bump s u o).cmds = s.cmds := (notified_bump _ _ _ : Notified s _).cmds
@[simp] theorem bump_nextCmd (s : State) (u o : Nat) : (bump s u o).nextCmd = s.nextCmd := (notified_bump _ _ _ : Notified s _).nextCmd
@[simp] theorem bump_cuts (s : State) (u o : Nat) : (bump s u o).cuts = s.cuts := (notified_bump _ _ _ : Notified s _).cuts
@[simp] theorem bump_renders (s : State) (u o : Nat) : (bump s u o).renders = s.renders := (notified_bump _ _ _ : Notified s _).renders
@[simp] theorem bump_sessions (s : State) (u o : Nat) : (bump s u o).sessions = s.sessions := (notified_bump _ _ _ : Notified s _).sessions
@[simp] theorem bump_lanes (s : State) (u o : Nat) : (bump s u o).lanes = s.lanes := (notified_bump _ _ _ : Notified s _).lanes
@[simp] theorem bump_chipGrants (s : State) (u o : Nat) : (bump s u o).chipGrants = s.chipGrants := (notified_bump _ _ _ : Notified s _).chipGrants
@[simp] theorem bump_blazeGrants (s : State) (u o : Nat) : (bump s u o).blazeGrants = s.blazeGrants := (notified_bump _ _ _ : Notified s _).blazeGrants
@[simp] theorem bump_engines (s : State) (u o : Nat) : (bump s u o).engines = s.engines := (notified_bump _ _ _ : Notified s _).engines
@[simp] theorem bump_engCtxs (s : State) (u o : Nat) : (bump s u o).engCtxs = s.engCtxs := (notified_bump _ _ _ : Notified s _).engCtxs
@[simp] theorem bump_bzCtxs (s : State) (u o : Nat) : (bump s u o).bzCtxs = s.bzCtxs := (notified_bump _ _ _ : Notified s _).bzCtxs
@[simp] theorem bump_prism (s : State) (u o : Nat) : (bump s u o).prism = s.prism := (notified_bump _ _ _ : Notified s _).prism
@[simp] theorem bump_sched (s : State) (u o : Nat) : (bump s u o).sched = s.sched := (notified_bump _ _ _ : Notified s _).sched
@[simp] theorem bump_ranger (s : State) (u o : Nat) : (bump s u o).ranger = s.ranger := (notified_bump _ _ _ : Notified s _).ranger
@[simp] theorem bump_power (s : State) (u o : Nat) : (bump s u o).power = s.power := (notified_bump _ _ _ : Notified s _).power
@[simp] theorem bump_objFrees (s : State) (u o : Nat) : (bump s u o).objFrees = s.objFrees := (notified_bump _ _ _ : Notified s _).objFrees
@[simp] theorem bump_fenceFrees (s : State) (u o : Nat) : (bump s u o).fenceFrees = s.fenceFrees := (notified_bump _ _ _ : Notified s _).fenceFrees
@[simp] theorem bump_tap (s : State) (u o : Nat) : (bump s u o).tap = s.tap := (notified_bump _ _ _ : Notified s _).tap
@[simp] theorem bump_sysReset (s : State) (u o : Nat) : (bump s u o).sysReset = s.sysReset := (notified_bump _ _ _ : Notified s _).sysReset
@[simp] theorem bump_avail (s : State) (u o : Nat) : (bump s u o).avail = s.avail := (notified_bump _ _ _ : Notified s _).avail
@[simp] theorem bump_pending (s : State) (u o : Nat) : (bump s u o).pending = s.pending := (notified_bump _ _ _ : Notified s _).pending

@[simp] theorem postEvent_fuses (s : State) (c u a b : Nat) : (postEvent s c u a b).fuses = s.fuses := (notified_postEvent _ _ _ _ _ : Notified s _).fuses
@[simp] theorem postEvent_boot (s : State) (c u a b : Nat) : (postEvent s c u a b).boot = s.boot := (notified_postEvent _ _ _ _ _ : Notified s _).boot
@[simp] theorem postEvent_flash (s : State) (c u a b : Nat) : (postEvent s c u a b).flash = s.flash := (notified_postEvent _ _ _ _ _ : Notified s _).flash
@[simp] theorem postEvent_cfg (s : State) (c u a b : Nat) : (postEvent s c u a b).cfg = s.cfg := (notified_postEvent _ _ _ _ _ : Notified s _).cfg
@[simp] theorem postEvent_timer (s : State) (c u a b : Nat) : (postEvent s c u a b).timer = s.timer := (notified_postEvent _ _ _ _ _ : Notified s _).timer
@[simp] theorem postEvent_freeTick (s : State) (c u a b : Nat) : (postEvent s c u a b).freeTick = s.freeTick := (notified_postEvent _ _ _ _ _ : Notified s _).freeTick
@[simp] theorem postEvent_maps (s : State) (c u a b : Nat) : (postEvent s c u a b).maps = s.maps := (notified_postEvent _ _ _ _ _ : Notified s _).maps
@[simp] theorem postEvent_cores (s : State) (c u a b : Nat) : (postEvent s c u a b).cores = s.cores := (notified_postEvent _ _ _ _ _ : Notified s _).cores
@[simp] theorem postEvent_mem (s : State) (c u a b : Nat) : (postEvent s c u a b).mem = s.mem := (notified_postEvent _ _ _ _ _ : Notified s _).mem
@[simp] theorem postEvent_ctxs (s : State) (c u a b : Nat) : (postEvent s c u a b).ctxs = s.ctxs := (notified_postEvent _ _ _ _ _ : Notified s _).ctxs
@[simp] theorem postEvent_queues (s : State) (c u a b : Nat) : (postEvent s c u a b).queues = s.queues := (notified_postEvent _ _ _ _ _ : Notified s _).queues
@[simp] theorem postEvent_objs (s : State) (c u a b : Nat) : (postEvent s c u a b).objs = s.objs := (notified_postEvent _ _ _ _ _ : Notified s _).objs
@[simp] theorem postEvent_fences (s : State) (c u a b : Nat) : (postEvent s c u a b).fences = s.fences := (notified_postEvent _ _ _ _ _ : Notified s _).fences
@[simp] theorem postEvent_bridges (s : State) (c u a b : Nat) : (postEvent s c u a b).bridges = s.bridges := (notified_postEvent _ _ _ _ _ : Notified s _).bridges
@[simp] theorem postEvent_cmds (s : State) (c u a b : Nat) : (postEvent s c u a b).cmds = s.cmds := (notified_postEvent _ _ _ _ _ : Notified s _).cmds
@[simp] theorem postEvent_nextCmd (s : State) (c u a b : Nat) : (postEvent s c u a b).nextCmd = s.nextCmd := (notified_postEvent _ _ _ _ _ : Notified s _).nextCmd
@[simp] theorem postEvent_cuts (s : State) (c u a b : Nat) : (postEvent s c u a b).cuts = s.cuts := (notified_postEvent _ _ _ _ _ : Notified s _).cuts
@[simp] theorem postEvent_renders (s : State) (c u a b : Nat) : (postEvent s c u a b).renders = s.renders := (notified_postEvent _ _ _ _ _ : Notified s _).renders
@[simp] theorem postEvent_sessions (s : State) (c u a b : Nat) : (postEvent s c u a b).sessions = s.sessions := (notified_postEvent _ _ _ _ _ : Notified s _).sessions
@[simp] theorem postEvent_lanes (s : State) (c u a b : Nat) : (postEvent s c u a b).lanes = s.lanes := (notified_postEvent _ _ _ _ _ : Notified s _).lanes
@[simp] theorem postEvent_chipGrants (s : State) (c u a b : Nat) : (postEvent s c u a b).chipGrants = s.chipGrants := (notified_postEvent _ _ _ _ _ : Notified s _).chipGrants
@[simp] theorem postEvent_blazeGrants (s : State) (c u a b : Nat) : (postEvent s c u a b).blazeGrants = s.blazeGrants := (notified_postEvent _ _ _ _ _ : Notified s _).blazeGrants
@[simp] theorem postEvent_engines (s : State) (c u a b : Nat) : (postEvent s c u a b).engines = s.engines := (notified_postEvent _ _ _ _ _ : Notified s _).engines
@[simp] theorem postEvent_engCtxs (s : State) (c u a b : Nat) : (postEvent s c u a b).engCtxs = s.engCtxs := (notified_postEvent _ _ _ _ _ : Notified s _).engCtxs
@[simp] theorem postEvent_bzCtxs (s : State) (c u a b : Nat) : (postEvent s c u a b).bzCtxs = s.bzCtxs := (notified_postEvent _ _ _ _ _ : Notified s _).bzCtxs
@[simp] theorem postEvent_prism (s : State) (c u a b : Nat) : (postEvent s c u a b).prism = s.prism := (notified_postEvent _ _ _ _ _ : Notified s _).prism
@[simp] theorem postEvent_sched (s : State) (c u a b : Nat) : (postEvent s c u a b).sched = s.sched := (notified_postEvent _ _ _ _ _ : Notified s _).sched
@[simp] theorem postEvent_ranger (s : State) (c u a b : Nat) : (postEvent s c u a b).ranger = s.ranger := (notified_postEvent _ _ _ _ _ : Notified s _).ranger
@[simp] theorem postEvent_power (s : State) (c u a b : Nat) : (postEvent s c u a b).power = s.power := (notified_postEvent _ _ _ _ _ : Notified s _).power
@[simp] theorem postEvent_objFrees (s : State) (c u a b : Nat) : (postEvent s c u a b).objFrees = s.objFrees := (notified_postEvent _ _ _ _ _ : Notified s _).objFrees
@[simp] theorem postEvent_fenceFrees (s : State) (c u a b : Nat) : (postEvent s c u a b).fenceFrees = s.fenceFrees := (notified_postEvent _ _ _ _ _ : Notified s _).fenceFrees
@[simp] theorem postEvent_tap (s : State) (c u a b : Nat) : (postEvent s c u a b).tap = s.tap := (notified_postEvent _ _ _ _ _ : Notified s _).tap
@[simp] theorem postEvent_sysReset (s : State) (c u a b : Nat) : (postEvent s c u a b).sysReset = s.sysReset := (notified_postEvent _ _ _ _ _ : Notified s _).sysReset
@[simp] theorem postEvent_avail (s : State) (c u a b : Nat) : (postEvent s c u a b).avail = s.avail := (notified_postEvent _ _ _ _ _ : Notified s _).avail
@[simp] theorem postEvent_pending (s : State) (c u a b : Nat) : (postEvent s c u a b).pending = s.pending := (notified_postEvent _ _ _ _ _ : Notified s _).pending

@[simp] theorem postRecord_fuses (s : State) (a b c d e f : Nat) (p : List Byte) : (postRecord s a b c d e f p).fuses = s.fuses := (notified_postRecord _ _ _ _ _ _ _ _ : Notified s _).fuses
@[simp] theorem postRecord_boot (s : State) (a b c d e f : Nat) (p : List Byte) : (postRecord s a b c d e f p).boot = s.boot := (notified_postRecord _ _ _ _ _ _ _ _ : Notified s _).boot
@[simp] theorem postRecord_flash (s : State) (a b c d e f : Nat) (p : List Byte) : (postRecord s a b c d e f p).flash = s.flash := (notified_postRecord _ _ _ _ _ _ _ _ : Notified s _).flash
@[simp] theorem postRecord_cfg (s : State) (a b c d e f : Nat) (p : List Byte) : (postRecord s a b c d e f p).cfg = s.cfg := (notified_postRecord _ _ _ _ _ _ _ _ : Notified s _).cfg
@[simp] theorem postRecord_timer (s : State) (a b c d e f : Nat) (p : List Byte) : (postRecord s a b c d e f p).timer = s.timer := (notified_postRecord _ _ _ _ _ _ _ _ : Notified s _).timer
@[simp] theorem postRecord_freeTick (s : State) (a b c d e f : Nat) (p : List Byte) : (postRecord s a b c d e f p).freeTick = s.freeTick := (notified_postRecord _ _ _ _ _ _ _ _ : Notified s _).freeTick
@[simp] theorem postRecord_maps (s : State) (a b c d e f : Nat) (p : List Byte) : (postRecord s a b c d e f p).maps = s.maps := (notified_postRecord _ _ _ _ _ _ _ _ : Notified s _).maps
@[simp] theorem postRecord_cores (s : State) (a b c d e f : Nat) (p : List Byte) : (postRecord s a b c d e f p).cores = s.cores := (notified_postRecord _ _ _ _ _ _ _ _ : Notified s _).cores
@[simp] theorem postRecord_mem (s : State) (a b c d e f : Nat) (p : List Byte) : (postRecord s a b c d e f p).mem = s.mem := (notified_postRecord _ _ _ _ _ _ _ _ : Notified s _).mem
@[simp] theorem postRecord_ctxs (s : State) (a b c d e f : Nat) (p : List Byte) : (postRecord s a b c d e f p).ctxs = s.ctxs := (notified_postRecord _ _ _ _ _ _ _ _ : Notified s _).ctxs
@[simp] theorem postRecord_queues (s : State) (a b c d e f : Nat) (p : List Byte) : (postRecord s a b c d e f p).queues = s.queues := (notified_postRecord _ _ _ _ _ _ _ _ : Notified s _).queues
@[simp] theorem postRecord_objs (s : State) (a b c d e f : Nat) (p : List Byte) : (postRecord s a b c d e f p).objs = s.objs := (notified_postRecord _ _ _ _ _ _ _ _ : Notified s _).objs
@[simp] theorem postRecord_fences (s : State) (a b c d e f : Nat) (p : List Byte) : (postRecord s a b c d e f p).fences = s.fences := (notified_postRecord _ _ _ _ _ _ _ _ : Notified s _).fences
@[simp] theorem postRecord_bridges (s : State) (a b c d e f : Nat) (p : List Byte) : (postRecord s a b c d e f p).bridges = s.bridges := (notified_postRecord _ _ _ _ _ _ _ _ : Notified s _).bridges
@[simp] theorem postRecord_cmds (s : State) (a b c d e f : Nat) (p : List Byte) : (postRecord s a b c d e f p).cmds = s.cmds := (notified_postRecord _ _ _ _ _ _ _ _ : Notified s _).cmds
@[simp] theorem postRecord_nextCmd (s : State) (a b c d e f : Nat) (p : List Byte) : (postRecord s a b c d e f p).nextCmd = s.nextCmd := (notified_postRecord _ _ _ _ _ _ _ _ : Notified s _).nextCmd
@[simp] theorem postRecord_cuts (s : State) (a b c d e f : Nat) (p : List Byte) : (postRecord s a b c d e f p).cuts = s.cuts := (notified_postRecord _ _ _ _ _ _ _ _ : Notified s _).cuts
@[simp] theorem postRecord_renders (s : State) (a b c d e f : Nat) (p : List Byte) : (postRecord s a b c d e f p).renders = s.renders := (notified_postRecord _ _ _ _ _ _ _ _ : Notified s _).renders
@[simp] theorem postRecord_sessions (s : State) (a b c d e f : Nat) (p : List Byte) : (postRecord s a b c d e f p).sessions = s.sessions := (notified_postRecord _ _ _ _ _ _ _ _ : Notified s _).sessions
@[simp] theorem postRecord_lanes (s : State) (a b c d e f : Nat) (p : List Byte) : (postRecord s a b c d e f p).lanes = s.lanes := (notified_postRecord _ _ _ _ _ _ _ _ : Notified s _).lanes
@[simp] theorem postRecord_chipGrants (s : State) (a b c d e f : Nat) (p : List Byte) : (postRecord s a b c d e f p).chipGrants = s.chipGrants := (notified_postRecord _ _ _ _ _ _ _ _ : Notified s _).chipGrants
@[simp] theorem postRecord_blazeGrants (s : State) (a b c d e f : Nat) (p : List Byte) : (postRecord s a b c d e f p).blazeGrants = s.blazeGrants := (notified_postRecord _ _ _ _ _ _ _ _ : Notified s _).blazeGrants
@[simp] theorem postRecord_engines (s : State) (a b c d e f : Nat) (p : List Byte) : (postRecord s a b c d e f p).engines = s.engines := (notified_postRecord _ _ _ _ _ _ _ _ : Notified s _).engines
@[simp] theorem postRecord_engCtxs (s : State) (a b c d e f : Nat) (p : List Byte) : (postRecord s a b c d e f p).engCtxs = s.engCtxs := (notified_postRecord _ _ _ _ _ _ _ _ : Notified s _).engCtxs
@[simp] theorem postRecord_bzCtxs (s : State) (a b c d e f : Nat) (p : List Byte) : (postRecord s a b c d e f p).bzCtxs = s.bzCtxs := (notified_postRecord _ _ _ _ _ _ _ _ : Notified s _).bzCtxs
@[simp] theorem postRecord_prism (s : State) (a b c d e f : Nat) (p : List Byte) : (postRecord s a b c d e f p).prism = s.prism := (notified_postRecord _ _ _ _ _ _ _ _ : Notified s _).prism
@[simp] theorem postRecord_sched (s : State) (a b c d e f : Nat) (p : List Byte) : (postRecord s a b c d e f p).sched = s.sched := (notified_postRecord _ _ _ _ _ _ _ _ : Notified s _).sched
@[simp] theorem postRecord_ranger (s : State) (a b c d e f : Nat) (p : List Byte) : (postRecord s a b c d e f p).ranger = s.ranger := (notified_postRecord _ _ _ _ _ _ _ _ : Notified s _).ranger
@[simp] theorem postRecord_power (s : State) (a b c d e f : Nat) (p : List Byte) : (postRecord s a b c d e f p).power = s.power := (notified_postRecord _ _ _ _ _ _ _ _ : Notified s _).power
@[simp] theorem postRecord_objFrees (s : State) (a b c d e f : Nat) (p : List Byte) : (postRecord s a b c d e f p).objFrees = s.objFrees := (notified_postRecord _ _ _ _ _ _ _ _ : Notified s _).objFrees
@[simp] theorem postRecord_fenceFrees (s : State) (a b c d e f : Nat) (p : List Byte) : (postRecord s a b c d e f p).fenceFrees = s.fenceFrees := (notified_postRecord _ _ _ _ _ _ _ _ : Notified s _).fenceFrees
@[simp] theorem postRecord_tap (s : State) (a b c d e f : Nat) (p : List Byte) : (postRecord s a b c d e f p).tap = s.tap := (notified_postRecord _ _ _ _ _ _ _ _ : Notified s _).tap
@[simp] theorem postRecord_sysReset (s : State) (a b c d e f : Nat) (p : List Byte) : (postRecord s a b c d e f p).sysReset = s.sysReset := (notified_postRecord _ _ _ _ _ _ _ _ : Notified s _).sysReset
@[simp] theorem postRecord_avail (s : State) (a b c d e f : Nat) (p : List Byte) : (postRecord s a b c d e f p).avail = s.avail := (notified_postRecord _ _ _ _ _ _ _ _ : Notified s _).avail
@[simp] theorem postRecord_pending (s : State) (a b c d e f : Nat) (p : List Byte) : (postRecord s a b c d e f p).pending = s.pending := (notified_postRecord _ _ _ _ _ _ _ _ : Notified s _).pending

@[simp] theorem logTenant_fuses (s : State) (t : Nat) (r : LogRec) : (logTenant s t r).fuses = s.fuses := (notified_logTenant _ _ _ : Notified s _).fuses
@[simp] theorem logTenant_boot (s : State) (t : Nat) (r : LogRec) : (logTenant s t r).boot = s.boot := (notified_logTenant _ _ _ : Notified s _).boot
@[simp] theorem logTenant_flash (s : State) (t : Nat) (r : LogRec) : (logTenant s t r).flash = s.flash := (notified_logTenant _ _ _ : Notified s _).flash
@[simp] theorem logTenant_cfg (s : State) (t : Nat) (r : LogRec) : (logTenant s t r).cfg = s.cfg := (notified_logTenant _ _ _ : Notified s _).cfg
@[simp] theorem logTenant_timer (s : State) (t : Nat) (r : LogRec) : (logTenant s t r).timer = s.timer := (notified_logTenant _ _ _ : Notified s _).timer
@[simp] theorem logTenant_freeTick (s : State) (t : Nat) (r : LogRec) : (logTenant s t r).freeTick = s.freeTick := (notified_logTenant _ _ _ : Notified s _).freeTick
@[simp] theorem logTenant_maps (s : State) (t : Nat) (r : LogRec) : (logTenant s t r).maps = s.maps := (notified_logTenant _ _ _ : Notified s _).maps
@[simp] theorem logTenant_cores (s : State) (t : Nat) (r : LogRec) : (logTenant s t r).cores = s.cores := (notified_logTenant _ _ _ : Notified s _).cores
@[simp] theorem logTenant_mem (s : State) (t : Nat) (r : LogRec) : (logTenant s t r).mem = s.mem := (notified_logTenant _ _ _ : Notified s _).mem
@[simp] theorem logTenant_ctxs (s : State) (t : Nat) (r : LogRec) : (logTenant s t r).ctxs = s.ctxs := (notified_logTenant _ _ _ : Notified s _).ctxs
@[simp] theorem logTenant_queues (s : State) (t : Nat) (r : LogRec) : (logTenant s t r).queues = s.queues := (notified_logTenant _ _ _ : Notified s _).queues
@[simp] theorem logTenant_objs (s : State) (t : Nat) (r : LogRec) : (logTenant s t r).objs = s.objs := (notified_logTenant _ _ _ : Notified s _).objs
@[simp] theorem logTenant_fences (s : State) (t : Nat) (r : LogRec) : (logTenant s t r).fences = s.fences := (notified_logTenant _ _ _ : Notified s _).fences
@[simp] theorem logTenant_bridges (s : State) (t : Nat) (r : LogRec) : (logTenant s t r).bridges = s.bridges := (notified_logTenant _ _ _ : Notified s _).bridges
@[simp] theorem logTenant_cmds (s : State) (t : Nat) (r : LogRec) : (logTenant s t r).cmds = s.cmds := (notified_logTenant _ _ _ : Notified s _).cmds
@[simp] theorem logTenant_nextCmd (s : State) (t : Nat) (r : LogRec) : (logTenant s t r).nextCmd = s.nextCmd := (notified_logTenant _ _ _ : Notified s _).nextCmd
@[simp] theorem logTenant_cuts (s : State) (t : Nat) (r : LogRec) : (logTenant s t r).cuts = s.cuts := (notified_logTenant _ _ _ : Notified s _).cuts
@[simp] theorem logTenant_renders (s : State) (t : Nat) (r : LogRec) : (logTenant s t r).renders = s.renders := (notified_logTenant _ _ _ : Notified s _).renders
@[simp] theorem logTenant_sessions (s : State) (t : Nat) (r : LogRec) : (logTenant s t r).sessions = s.sessions := (notified_logTenant _ _ _ : Notified s _).sessions
@[simp] theorem logTenant_lanes (s : State) (t : Nat) (r : LogRec) : (logTenant s t r).lanes = s.lanes := (notified_logTenant _ _ _ : Notified s _).lanes
@[simp] theorem logTenant_chipGrants (s : State) (t : Nat) (r : LogRec) : (logTenant s t r).chipGrants = s.chipGrants := (notified_logTenant _ _ _ : Notified s _).chipGrants
@[simp] theorem logTenant_blazeGrants (s : State) (t : Nat) (r : LogRec) : (logTenant s t r).blazeGrants = s.blazeGrants := (notified_logTenant _ _ _ : Notified s _).blazeGrants
@[simp] theorem logTenant_engines (s : State) (t : Nat) (r : LogRec) : (logTenant s t r).engines = s.engines := (notified_logTenant _ _ _ : Notified s _).engines
@[simp] theorem logTenant_engCtxs (s : State) (t : Nat) (r : LogRec) : (logTenant s t r).engCtxs = s.engCtxs := (notified_logTenant _ _ _ : Notified s _).engCtxs
@[simp] theorem logTenant_bzCtxs (s : State) (t : Nat) (r : LogRec) : (logTenant s t r).bzCtxs = s.bzCtxs := (notified_logTenant _ _ _ : Notified s _).bzCtxs
@[simp] theorem logTenant_prism (s : State) (t : Nat) (r : LogRec) : (logTenant s t r).prism = s.prism := (notified_logTenant _ _ _ : Notified s _).prism
@[simp] theorem logTenant_sched (s : State) (t : Nat) (r : LogRec) : (logTenant s t r).sched = s.sched := (notified_logTenant _ _ _ : Notified s _).sched
@[simp] theorem logTenant_ranger (s : State) (t : Nat) (r : LogRec) : (logTenant s t r).ranger = s.ranger := (notified_logTenant _ _ _ : Notified s _).ranger
@[simp] theorem logTenant_power (s : State) (t : Nat) (r : LogRec) : (logTenant s t r).power = s.power := (notified_logTenant _ _ _ : Notified s _).power
@[simp] theorem logTenant_objFrees (s : State) (t : Nat) (r : LogRec) : (logTenant s t r).objFrees = s.objFrees := (notified_logTenant _ _ _ : Notified s _).objFrees
@[simp] theorem logTenant_fenceFrees (s : State) (t : Nat) (r : LogRec) : (logTenant s t r).fenceFrees = s.fenceFrees := (notified_logTenant _ _ _ : Notified s _).fenceFrees
@[simp] theorem logTenant_tap (s : State) (t : Nat) (r : LogRec) : (logTenant s t r).tap = s.tap := (notified_logTenant _ _ _ : Notified s _).tap
@[simp] theorem logTenant_sysReset (s : State) (t : Nat) (r : LogRec) : (logTenant s t r).sysReset = s.sysReset := (notified_logTenant _ _ _ : Notified s _).sysReset
@[simp] theorem logTenant_avail (s : State) (t : Nat) (r : LogRec) : (logTenant s t r).avail = s.avail := (notified_logTenant _ _ _ : Notified s _).avail
@[simp] theorem logTenant_pending (s : State) (t : Nat) (r : LogRec) : (logTenant s t r).pending = s.pending := (notified_logTenant _ _ _ : Notified s _).pending

@[simp] theorem logPlain_fuses (s : State) (t k o : Nat) : (logPlain s t k o).fuses = s.fuses := (notified_logTenant _ _ _ : Notified s _).fuses
@[simp] theorem logPlain_boot (s : State) (t k o : Nat) : (logPlain s t k o).boot = s.boot := (notified_logTenant _ _ _ : Notified s _).boot
@[simp] theorem logPlain_flash (s : State) (t k o : Nat) : (logPlain s t k o).flash = s.flash := (notified_logTenant _ _ _ : Notified s _).flash
@[simp] theorem logPlain_cfg (s : State) (t k o : Nat) : (logPlain s t k o).cfg = s.cfg := (notified_logTenant _ _ _ : Notified s _).cfg
@[simp] theorem logPlain_timer (s : State) (t k o : Nat) : (logPlain s t k o).timer = s.timer := (notified_logTenant _ _ _ : Notified s _).timer
@[simp] theorem logPlain_freeTick (s : State) (t k o : Nat) : (logPlain s t k o).freeTick = s.freeTick := (notified_logTenant _ _ _ : Notified s _).freeTick
@[simp] theorem logPlain_maps (s : State) (t k o : Nat) : (logPlain s t k o).maps = s.maps := (notified_logTenant _ _ _ : Notified s _).maps
@[simp] theorem logPlain_cores (s : State) (t k o : Nat) : (logPlain s t k o).cores = s.cores := (notified_logTenant _ _ _ : Notified s _).cores
@[simp] theorem logPlain_mem (s : State) (t k o : Nat) : (logPlain s t k o).mem = s.mem := (notified_logTenant _ _ _ : Notified s _).mem
@[simp] theorem logPlain_ctxs (s : State) (t k o : Nat) : (logPlain s t k o).ctxs = s.ctxs := (notified_logTenant _ _ _ : Notified s _).ctxs
@[simp] theorem logPlain_queues (s : State) (t k o : Nat) : (logPlain s t k o).queues = s.queues := (notified_logTenant _ _ _ : Notified s _).queues
@[simp] theorem logPlain_objs (s : State) (t k o : Nat) : (logPlain s t k o).objs = s.objs := (notified_logTenant _ _ _ : Notified s _).objs
@[simp] theorem logPlain_fences (s : State) (t k o : Nat) : (logPlain s t k o).fences = s.fences := (notified_logTenant _ _ _ : Notified s _).fences
@[simp] theorem logPlain_bridges (s : State) (t k o : Nat) : (logPlain s t k o).bridges = s.bridges := (notified_logTenant _ _ _ : Notified s _).bridges
@[simp] theorem logPlain_cmds (s : State) (t k o : Nat) : (logPlain s t k o).cmds = s.cmds := (notified_logTenant _ _ _ : Notified s _).cmds
@[simp] theorem logPlain_nextCmd (s : State) (t k o : Nat) : (logPlain s t k o).nextCmd = s.nextCmd := (notified_logTenant _ _ _ : Notified s _).nextCmd
@[simp] theorem logPlain_cuts (s : State) (t k o : Nat) : (logPlain s t k o).cuts = s.cuts := (notified_logTenant _ _ _ : Notified s _).cuts
@[simp] theorem logPlain_renders (s : State) (t k o : Nat) : (logPlain s t k o).renders = s.renders := (notified_logTenant _ _ _ : Notified s _).renders
@[simp] theorem logPlain_sessions (s : State) (t k o : Nat) : (logPlain s t k o).sessions = s.sessions := (notified_logTenant _ _ _ : Notified s _).sessions
@[simp] theorem logPlain_lanes (s : State) (t k o : Nat) : (logPlain s t k o).lanes = s.lanes := (notified_logTenant _ _ _ : Notified s _).lanes
@[simp] theorem logPlain_chipGrants (s : State) (t k o : Nat) : (logPlain s t k o).chipGrants = s.chipGrants := (notified_logTenant _ _ _ : Notified s _).chipGrants
@[simp] theorem logPlain_blazeGrants (s : State) (t k o : Nat) : (logPlain s t k o).blazeGrants = s.blazeGrants := (notified_logTenant _ _ _ : Notified s _).blazeGrants
@[simp] theorem logPlain_engines (s : State) (t k o : Nat) : (logPlain s t k o).engines = s.engines := (notified_logTenant _ _ _ : Notified s _).engines
@[simp] theorem logPlain_engCtxs (s : State) (t k o : Nat) : (logPlain s t k o).engCtxs = s.engCtxs := (notified_logTenant _ _ _ : Notified s _).engCtxs
@[simp] theorem logPlain_bzCtxs (s : State) (t k o : Nat) : (logPlain s t k o).bzCtxs = s.bzCtxs := (notified_logTenant _ _ _ : Notified s _).bzCtxs
@[simp] theorem logPlain_prism (s : State) (t k o : Nat) : (logPlain s t k o).prism = s.prism := (notified_logTenant _ _ _ : Notified s _).prism
@[simp] theorem logPlain_sched (s : State) (t k o : Nat) : (logPlain s t k o).sched = s.sched := (notified_logTenant _ _ _ : Notified s _).sched
@[simp] theorem logPlain_ranger (s : State) (t k o : Nat) : (logPlain s t k o).ranger = s.ranger := (notified_logTenant _ _ _ : Notified s _).ranger
@[simp] theorem logPlain_power (s : State) (t k o : Nat) : (logPlain s t k o).power = s.power := (notified_logTenant _ _ _ : Notified s _).power
@[simp] theorem logPlain_objFrees (s : State) (t k o : Nat) : (logPlain s t k o).objFrees = s.objFrees := (notified_logTenant _ _ _ : Notified s _).objFrees
@[simp] theorem logPlain_fenceFrees (s : State) (t k o : Nat) : (logPlain s t k o).fenceFrees = s.fenceFrees := (notified_logTenant _ _ _ : Notified s _).fenceFrees
@[simp] theorem logPlain_tap (s : State) (t k o : Nat) : (logPlain s t k o).tap = s.tap := (notified_logTenant _ _ _ : Notified s _).tap
@[simp] theorem logPlain_sysReset (s : State) (t k o : Nat) : (logPlain s t k o).sysReset = s.sysReset := (notified_logTenant _ _ _ : Notified s _).sysReset
@[simp] theorem logPlain_avail (s : State) (t k o : Nat) : (logPlain s t k o).avail = s.avail := (notified_logTenant _ _ _ : Notified s _).avail
@[simp] theorem logPlain_pending (s : State) (t k o : Nat) : (logPlain s t k o).pending = s.pending := (notified_logTenant _ _ _ : Notified s _).pending

end Sys2Proof.Machine
end

