-- ==== Sys2Proof/Laws/State.lean ====
section
/-! SUPPORT. Each update of State on each field and through each accessor, so that no proof unfolds a record update. -/

namespace Sys2Proof.Machine

@[simp] theorem State.setCore_fuses (s : State) (k : Nat) (c : Core) : (s.setCore k c).fuses = s.fuses := rfl
@[simp] theorem State.setCore_boot (s : State) (k : Nat) (c : Core) : (s.setCore k c).boot = s.boot := rfl
@[simp] theorem State.setCore_flash (s : State) (k : Nat) (c : Core) : (s.setCore k c).flash = s.flash := rfl
@[simp] theorem State.setCore_cfg (s : State) (k : Nat) (c : Core) : (s.setCore k c).cfg = s.cfg := rfl
@[simp] theorem State.setCore_timer (s : State) (k : Nat) (c : Core) : (s.setCore k c).timer = s.timer := rfl
@[simp] theorem State.setCore_freeTick (s : State) (k : Nat) (c : Core) : (s.setCore k c).freeTick = s.freeTick := rfl
@[simp] theorem State.setCore_maps (s : State) (k : Nat) (c : Core) : (s.setCore k c).maps = s.maps := rfl
@[simp] theorem State.setCore_mem (s : State) (k : Nat) (c : Core) : (s.setCore k c).mem = s.mem := rfl
@[simp] theorem State.setCore_tenants (s : State) (k : Nat) (c : Core) : (s.setCore k c).tenants = s.tenants := rfl
@[simp] theorem State.setCore_ctxs (s : State) (k : Nat) (c : Core) : (s.setCore k c).ctxs = s.ctxs := rfl
@[simp] theorem State.setCore_queues (s : State) (k : Nat) (c : Core) : (s.setCore k c).queues = s.queues := rfl
@[simp] theorem State.setCore_objs (s : State) (k : Nat) (c : Core) : (s.setCore k c).objs = s.objs := rfl
@[simp] theorem State.setCore_fences (s : State) (k : Nat) (c : Core) : (s.setCore k c).fences = s.fences := rfl
@[simp] theorem State.setCore_bridges (s : State) (k : Nat) (c : Core) : (s.setCore k c).bridges = s.bridges := rfl
@[simp] theorem State.setCore_cmds (s : State) (k : Nat) (c : Core) : (s.setCore k c).cmds = s.cmds := rfl
@[simp] theorem State.setCore_nextCmd (s : State) (k : Nat) (c : Core) : (s.setCore k c).nextCmd = s.nextCmd := rfl
@[simp] theorem State.setCore_cuts (s : State) (k : Nat) (c : Core) : (s.setCore k c).cuts = s.cuts := rfl
@[simp] theorem State.setCore_renders (s : State) (k : Nat) (c : Core) : (s.setCore k c).renders = s.renders := rfl
@[simp] theorem State.setCore_sessions (s : State) (k : Nat) (c : Core) : (s.setCore k c).sessions = s.sessions := rfl
@[simp] theorem State.setCore_lanes (s : State) (k : Nat) (c : Core) : (s.setCore k c).lanes = s.lanes := rfl
@[simp] theorem State.setCore_chipGrants (s : State) (k : Nat) (c : Core) : (s.setCore k c).chipGrants = s.chipGrants := rfl
@[simp] theorem State.setCore_blazeGrants (s : State) (k : Nat) (c : Core) : (s.setCore k c).blazeGrants = s.blazeGrants := rfl
@[simp] theorem State.setCore_engines (s : State) (k : Nat) (c : Core) : (s.setCore k c).engines = s.engines := rfl
@[simp] theorem State.setCore_engCtxs (s : State) (k : Nat) (c : Core) : (s.setCore k c).engCtxs = s.engCtxs := rfl
@[simp] theorem State.setCore_bzCtxs (s : State) (k : Nat) (c : Core) : (s.setCore k c).bzCtxs = s.bzCtxs := rfl
@[simp] theorem State.setCore_prism (s : State) (k : Nat) (c : Core) : (s.setCore k c).prism = s.prism := rfl
@[simp] theorem State.setCore_sched (s : State) (k : Nat) (c : Core) : (s.setCore k c).sched = s.sched := rfl
@[simp] theorem State.setCore_ranger (s : State) (k : Nat) (c : Core) : (s.setCore k c).ranger = s.ranger := rfl
@[simp] theorem State.setCore_power (s : State) (k : Nat) (c : Core) : (s.setCore k c).power = s.power := rfl
@[simp] theorem State.setCore_objFrees (s : State) (k : Nat) (c : Core) : (s.setCore k c).objFrees = s.objFrees := rfl
@[simp] theorem State.setCore_fenceFrees (s : State) (k : Nat) (c : Core) : (s.setCore k c).fenceFrees = s.fenceFrees := rfl
@[simp] theorem State.setCore_ports (s : State) (k : Nat) (c : Core) : (s.setCore k c).ports = s.ports := rfl
@[simp] theorem State.setCore_channels (s : State) (k : Nat) (c : Core) : (s.setCore k c).channels = s.channels := rfl
@[simp] theorem State.setCore_i3c (s : State) (k : Nat) (c : Core) : (s.setCore k c).i3c = s.i3c := rfl
@[simp] theorem State.setCore_tap (s : State) (k : Nat) (c : Core) : (s.setCore k c).tap = s.tap := rfl
@[simp] theorem State.setCore_sysReset (s : State) (k : Nat) (c : Core) : (s.setCore k c).sysReset = s.sysReset := rfl
@[simp] theorem State.setCore_avail (s : State) (k : Nat) (c : Core) : (s.setCore k c).avail = s.avail := rfl
@[simp] theorem State.setCore_counters (s : State) (k : Nat) (c : Core) : (s.setCore k c).counters = s.counters := rfl
@[simp] theorem State.setCore_out (s : State) (k : Nat) (c : Core) : (s.setCore k c).out = s.out := rfl
@[simp] theorem State.setCore_pending (s : State) (k : Nat) (c : Core) : (s.setCore k c).pending = s.pending := rfl
@[simp] theorem State.setCore_core (s : State) (k j : Nat) (c : Core) :
    (s.setCore k c).core j = if j = k then c else s.core j := tget_tset _ _ _ _ _
@[simp] theorem State.setCore_tenant (s : State) (k j : Nat) (c : Core) : (s.setCore k c).tenant j = s.tenant j := rfl
@[simp] theorem State.setCore_ctx (s : State) (k j : Nat) (c : Core) : (s.setCore k c).ctx j = s.ctx j := rfl
@[simp] theorem State.setCore_queue (s : State) (k j : Nat) (c : Core) : (s.setCore k c).queue j = s.queue j := rfl
@[simp] theorem State.setCore_obj (s : State) (k j : Nat) (c : Core) : (s.setCore k c).obj j = s.obj j := rfl
@[simp] theorem State.setCore_fence (s : State) (k j : Nat) (c : Core) : (s.setCore k c).fence j = s.fence j := rfl
@[simp] theorem State.setCore_port (s : State) (k j : Nat) (c : Core) : (s.setCore k c).port j = s.port j := rfl
@[simp] theorem State.setCore_channel (s : State) (k j : Nat) (c : Core) : (s.setCore k c).channel j = s.channel j := rfl
@[simp] theorem State.setCore_eng (s : State) (k j : Nat) (c : Core) : (s.setCore k c).eng j = s.eng j := rfl
@[simp] theorem State.setCore_engCtx (s : State) (k j : Nat) (c : Core) : (s.setCore k c).engCtx j = s.engCtx j := rfl
@[simp] theorem State.setCore_bz (s : State) (k j : Nat) (c : Core) : (s.setCore k c).bz j = s.bz j := rfl

@[simp] theorem State.setTenant_fuses (s : State) (t : Nat) (x : Tenant) : (s.setTenant t x).fuses = s.fuses := rfl
@[simp] theorem State.setTenant_boot (s : State) (t : Nat) (x : Tenant) : (s.setTenant t x).boot = s.boot := rfl
@[simp] theorem State.setTenant_flash (s : State) (t : Nat) (x : Tenant) : (s.setTenant t x).flash = s.flash := rfl
@[simp] theorem State.setTenant_cfg (s : State) (t : Nat) (x : Tenant) : (s.setTenant t x).cfg = s.cfg := rfl
@[simp] theorem State.setTenant_timer (s : State) (t : Nat) (x : Tenant) : (s.setTenant t x).timer = s.timer := rfl
@[simp] theorem State.setTenant_freeTick (s : State) (t : Nat) (x : Tenant) : (s.setTenant t x).freeTick = s.freeTick := rfl
@[simp] theorem State.setTenant_maps (s : State) (t : Nat) (x : Tenant) : (s.setTenant t x).maps = s.maps := rfl
@[simp] theorem State.setTenant_cores (s : State) (t : Nat) (x : Tenant) : (s.setTenant t x).cores = s.cores := rfl
@[simp] theorem State.setTenant_mem (s : State) (t : Nat) (x : Tenant) : (s.setTenant t x).mem = s.mem := rfl
@[simp] theorem State.setTenant_ctxs (s : State) (t : Nat) (x : Tenant) : (s.setTenant t x).ctxs = s.ctxs := rfl
@[simp] theorem State.setTenant_queues (s : State) (t : Nat) (x : Tenant) : (s.setTenant t x).queues = s.queues := rfl
@[simp] theorem State.setTenant_objs (s : State) (t : Nat) (x : Tenant) : (s.setTenant t x).objs = s.objs := rfl
@[simp] theorem State.setTenant_fences (s : State) (t : Nat) (x : Tenant) : (s.setTenant t x).fences = s.fences := rfl
@[simp] theorem State.setTenant_bridges (s : State) (t : Nat) (x : Tenant) : (s.setTenant t x).bridges = s.bridges := rfl
@[simp] theorem State.setTenant_cmds (s : State) (t : Nat) (x : Tenant) : (s.setTenant t x).cmds = s.cmds := rfl
@[simp] theorem State.setTenant_nextCmd (s : State) (t : Nat) (x : Tenant) : (s.setTenant t x).nextCmd = s.nextCmd := rfl
@[simp] theorem State.setTenant_cuts (s : State) (t : Nat) (x : Tenant) : (s.setTenant t x).cuts = s.cuts := rfl
@[simp] theorem State.setTenant_renders (s : State) (t : Nat) (x : Tenant) : (s.setTenant t x).renders = s.renders := rfl
@[simp] theorem State.setTenant_sessions (s : State) (t : Nat) (x : Tenant) : (s.setTenant t x).sessions = s.sessions := rfl
@[simp] theorem State.setTenant_lanes (s : State) (t : Nat) (x : Tenant) : (s.setTenant t x).lanes = s.lanes := rfl
@[simp] theorem State.setTenant_chipGrants (s : State) (t : Nat) (x : Tenant) : (s.setTenant t x).chipGrants = s.chipGrants := rfl
@[simp] theorem State.setTenant_blazeGrants (s : State) (t : Nat) (x : Tenant) : (s.setTenant t x).blazeGrants = s.blazeGrants := rfl
@[simp] theorem State.setTenant_engines (s : State) (t : Nat) (x : Tenant) : (s.setTenant t x).engines = s.engines := rfl
@[simp] theorem State.setTenant_engCtxs (s : State) (t : Nat) (x : Tenant) : (s.setTenant t x).engCtxs = s.engCtxs := rfl
@[simp] theorem State.setTenant_bzCtxs (s : State) (t : Nat) (x : Tenant) : (s.setTenant t x).bzCtxs = s.bzCtxs := rfl
@[simp] theorem State.setTenant_prism (s : State) (t : Nat) (x : Tenant) : (s.setTenant t x).prism = s.prism := rfl
@[simp] theorem State.setTenant_sched (s : State) (t : Nat) (x : Tenant) : (s.setTenant t x).sched = s.sched := rfl
@[simp] theorem State.setTenant_ranger (s : State) (t : Nat) (x : Tenant) : (s.setTenant t x).ranger = s.ranger := rfl
@[simp] theorem State.setTenant_power (s : State) (t : Nat) (x : Tenant) : (s.setTenant t x).power = s.power := rfl
@[simp] theorem State.setTenant_objFrees (s : State) (t : Nat) (x : Tenant) : (s.setTenant t x).objFrees = s.objFrees := rfl
@[simp] theorem State.setTenant_fenceFrees (s : State) (t : Nat) (x : Tenant) : (s.setTenant t x).fenceFrees = s.fenceFrees := rfl
@[simp] theorem State.setTenant_ports (s : State) (t : Nat) (x : Tenant) : (s.setTenant t x).ports = s.ports := rfl
@[simp] theorem State.setTenant_channels (s : State) (t : Nat) (x : Tenant) : (s.setTenant t x).channels = s.channels := rfl
@[simp] theorem State.setTenant_i3c (s : State) (t : Nat) (x : Tenant) : (s.setTenant t x).i3c = s.i3c := rfl
@[simp] theorem State.setTenant_tap (s : State) (t : Nat) (x : Tenant) : (s.setTenant t x).tap = s.tap := rfl
@[simp] theorem State.setTenant_sysReset (s : State) (t : Nat) (x : Tenant) : (s.setTenant t x).sysReset = s.sysReset := rfl
@[simp] theorem State.setTenant_avail (s : State) (t : Nat) (x : Tenant) : (s.setTenant t x).avail = s.avail := rfl
@[simp] theorem State.setTenant_counters (s : State) (t : Nat) (x : Tenant) : (s.setTenant t x).counters = s.counters := rfl
@[simp] theorem State.setTenant_out (s : State) (t : Nat) (x : Tenant) : (s.setTenant t x).out = s.out := rfl
@[simp] theorem State.setTenant_pending (s : State) (t : Nat) (x : Tenant) : (s.setTenant t x).pending = s.pending := rfl
@[simp] theorem State.setTenant_tenant (s : State) (t j : Nat) (x : Tenant) :
    (s.setTenant t x).tenant j = if j = t then x else s.tenant j := tget_tset _ _ _ _ _
@[simp] theorem State.setTenant_core (s : State) (t j : Nat) (x : Tenant) : (s.setTenant t x).core j = s.core j := rfl
@[simp] theorem State.setTenant_ctx (s : State) (t j : Nat) (x : Tenant) : (s.setTenant t x).ctx j = s.ctx j := rfl
@[simp] theorem State.setTenant_queue (s : State) (t j : Nat) (x : Tenant) : (s.setTenant t x).queue j = s.queue j := rfl
@[simp] theorem State.setTenant_obj (s : State) (t j : Nat) (x : Tenant) : (s.setTenant t x).obj j = s.obj j := rfl
@[simp] theorem State.setTenant_fence (s : State) (t j : Nat) (x : Tenant) : (s.setTenant t x).fence j = s.fence j := rfl
@[simp] theorem State.setTenant_port (s : State) (t j : Nat) (x : Tenant) : (s.setTenant t x).port j = s.port j := rfl
@[simp] theorem State.setTenant_channel (s : State) (t j : Nat) (x : Tenant) : (s.setTenant t x).channel j = s.channel j := rfl
@[simp] theorem State.setTenant_eng (s : State) (t j : Nat) (x : Tenant) : (s.setTenant t x).eng j = s.eng j := rfl
@[simp] theorem State.setTenant_engCtx (s : State) (t j : Nat) (x : Tenant) : (s.setTenant t x).engCtx j = s.engCtx j := rfl
@[simp] theorem State.setTenant_bz (s : State) (t j : Nat) (x : Tenant) : (s.setTenant t x).bz j = s.bz j := rfl

@[simp] theorem State.setCtx_fuses (s : State) (c : Nat) (x : Ctx) : (s.setCtx c x).fuses = s.fuses := rfl
@[simp] theorem State.setCtx_boot (s : State) (c : Nat) (x : Ctx) : (s.setCtx c x).boot = s.boot := rfl
@[simp] theorem State.setCtx_flash (s : State) (c : Nat) (x : Ctx) : (s.setCtx c x).flash = s.flash := rfl
@[simp] theorem State.setCtx_cfg (s : State) (c : Nat) (x : Ctx) : (s.setCtx c x).cfg = s.cfg := rfl
@[simp] theorem State.setCtx_timer (s : State) (c : Nat) (x : Ctx) : (s.setCtx c x).timer = s.timer := rfl
@[simp] theorem State.setCtx_freeTick (s : State) (c : Nat) (x : Ctx) : (s.setCtx c x).freeTick = s.freeTick := rfl
@[simp] theorem State.setCtx_maps (s : State) (c : Nat) (x : Ctx) : (s.setCtx c x).maps = s.maps := rfl
@[simp] theorem State.setCtx_cores (s : State) (c : Nat) (x : Ctx) : (s.setCtx c x).cores = s.cores := rfl
@[simp] theorem State.setCtx_mem (s : State) (c : Nat) (x : Ctx) : (s.setCtx c x).mem = s.mem := rfl
@[simp] theorem State.setCtx_tenants (s : State) (c : Nat) (x : Ctx) : (s.setCtx c x).tenants = s.tenants := rfl
@[simp] theorem State.setCtx_queues (s : State) (c : Nat) (x : Ctx) : (s.setCtx c x).queues = s.queues := rfl
@[simp] theorem State.setCtx_objs (s : State) (c : Nat) (x : Ctx) : (s.setCtx c x).objs = s.objs := rfl
@[simp] theorem State.setCtx_fences (s : State) (c : Nat) (x : Ctx) : (s.setCtx c x).fences = s.fences := rfl
@[simp] theorem State.setCtx_bridges (s : State) (c : Nat) (x : Ctx) : (s.setCtx c x).bridges = s.bridges := rfl
@[simp] theorem State.setCtx_cmds (s : State) (c : Nat) (x : Ctx) : (s.setCtx c x).cmds = s.cmds := rfl
@[simp] theorem State.setCtx_nextCmd (s : State) (c : Nat) (x : Ctx) : (s.setCtx c x).nextCmd = s.nextCmd := rfl
@[simp] theorem State.setCtx_cuts (s : State) (c : Nat) (x : Ctx) : (s.setCtx c x).cuts = s.cuts := rfl
@[simp] theorem State.setCtx_renders (s : State) (c : Nat) (x : Ctx) : (s.setCtx c x).renders = s.renders := rfl
@[simp] theorem State.setCtx_sessions (s : State) (c : Nat) (x : Ctx) : (s.setCtx c x).sessions = s.sessions := rfl
@[simp] theorem State.setCtx_lanes (s : State) (c : Nat) (x : Ctx) : (s.setCtx c x).lanes = s.lanes := rfl
@[simp] theorem State.setCtx_chipGrants (s : State) (c : Nat) (x : Ctx) : (s.setCtx c x).chipGrants = s.chipGrants := rfl
@[simp] theorem State.setCtx_blazeGrants (s : State) (c : Nat) (x : Ctx) : (s.setCtx c x).blazeGrants = s.blazeGrants := rfl
@[simp] theorem State.setCtx_engines (s : State) (c : Nat) (x : Ctx) : (s.setCtx c x).engines = s.engines := rfl
@[simp] theorem State.setCtx_engCtxs (s : State) (c : Nat) (x : Ctx) : (s.setCtx c x).engCtxs = s.engCtxs := rfl
@[simp] theorem State.setCtx_bzCtxs (s : State) (c : Nat) (x : Ctx) : (s.setCtx c x).bzCtxs = s.bzCtxs := rfl
@[simp] theorem State.setCtx_prism (s : State) (c : Nat) (x : Ctx) : (s.setCtx c x).prism = s.prism := rfl
@[simp] theorem State.setCtx_sched (s : State) (c : Nat) (x : Ctx) : (s.setCtx c x).sched = s.sched := rfl
@[simp] theorem State.setCtx_ranger (s : State) (c : Nat) (x : Ctx) : (s.setCtx c x).ranger = s.ranger := rfl
@[simp] theorem State.setCtx_power (s : State) (c : Nat) (x : Ctx) : (s.setCtx c x).power = s.power := rfl
@[simp] theorem State.setCtx_objFrees (s : State) (c : Nat) (x : Ctx) : (s.setCtx c x).objFrees = s.objFrees := rfl
@[simp] theorem State.setCtx_fenceFrees (s : State) (c : Nat) (x : Ctx) : (s.setCtx c x).fenceFrees = s.fenceFrees := rfl
@[simp] theorem State.setCtx_ports (s : State) (c : Nat) (x : Ctx) : (s.setCtx c x).ports = s.ports := rfl
@[simp] theorem State.setCtx_channels (s : State) (c : Nat) (x : Ctx) : (s.setCtx c x).channels = s.channels := rfl
@[simp] theorem State.setCtx_i3c (s : State) (c : Nat) (x : Ctx) : (s.setCtx c x).i3c = s.i3c := rfl
@[simp] theorem State.setCtx_tap (s : State) (c : Nat) (x : Ctx) : (s.setCtx c x).tap = s.tap := rfl
@[simp] theorem State.setCtx_sysReset (s : State) (c : Nat) (x : Ctx) : (s.setCtx c x).sysReset = s.sysReset := rfl
@[simp] theorem State.setCtx_avail (s : State) (c : Nat) (x : Ctx) : (s.setCtx c x).avail = s.avail := rfl
@[simp] theorem State.setCtx_counters (s : State) (c : Nat) (x : Ctx) : (s.setCtx c x).counters = s.counters := rfl
@[simp] theorem State.setCtx_out (s : State) (c : Nat) (x : Ctx) : (s.setCtx c x).out = s.out := rfl
@[simp] theorem State.setCtx_pending (s : State) (c : Nat) (x : Ctx) : (s.setCtx c x).pending = s.pending := rfl
@[simp] theorem State.setCtx_ctx (s : State) (c j : Nat) (x : Ctx) :
    (s.setCtx c x).ctx j = if j = c then x else s.ctx j := tget_tset _ _ _ _ _
@[simp] theorem State.setCtx_core (s : State) (c j : Nat) (x : Ctx) : (s.setCtx c x).core j = s.core j := rfl
@[simp] theorem State.setCtx_tenant (s : State) (c j : Nat) (x : Ctx) : (s.setCtx c x).tenant j = s.tenant j := rfl
@[simp] theorem State.setCtx_queue (s : State) (c j : Nat) (x : Ctx) : (s.setCtx c x).queue j = s.queue j := rfl
@[simp] theorem State.setCtx_obj (s : State) (c j : Nat) (x : Ctx) : (s.setCtx c x).obj j = s.obj j := rfl
@[simp] theorem State.setCtx_fence (s : State) (c j : Nat) (x : Ctx) : (s.setCtx c x).fence j = s.fence j := rfl
@[simp] theorem State.setCtx_port (s : State) (c j : Nat) (x : Ctx) : (s.setCtx c x).port j = s.port j := rfl
@[simp] theorem State.setCtx_channel (s : State) (c j : Nat) (x : Ctx) : (s.setCtx c x).channel j = s.channel j := rfl
@[simp] theorem State.setCtx_eng (s : State) (c j : Nat) (x : Ctx) : (s.setCtx c x).eng j = s.eng j := rfl
@[simp] theorem State.setCtx_engCtx (s : State) (c j : Nat) (x : Ctx) : (s.setCtx c x).engCtx j = s.engCtx j := rfl
@[simp] theorem State.setCtx_bz (s : State) (c j : Nat) (x : Ctx) : (s.setCtx c x).bz j = s.bz j := rfl

@[simp] theorem State.setQueue_fuses (s : State) (q : Nat) (x : Queue) : (s.setQueue q x).fuses = s.fuses := rfl
@[simp] theorem State.setQueue_boot (s : State) (q : Nat) (x : Queue) : (s.setQueue q x).boot = s.boot := rfl
@[simp] theorem State.setQueue_flash (s : State) (q : Nat) (x : Queue) : (s.setQueue q x).flash = s.flash := rfl
@[simp] theorem State.setQueue_cfg (s : State) (q : Nat) (x : Queue) : (s.setQueue q x).cfg = s.cfg := rfl
@[simp] theorem State.setQueue_timer (s : State) (q : Nat) (x : Queue) : (s.setQueue q x).timer = s.timer := rfl
@[simp] theorem State.setQueue_freeTick (s : State) (q : Nat) (x : Queue) : (s.setQueue q x).freeTick = s.freeTick := rfl
@[simp] theorem State.setQueue_maps (s : State) (q : Nat) (x : Queue) : (s.setQueue q x).maps = s.maps := rfl
@[simp] theorem State.setQueue_cores (s : State) (q : Nat) (x : Queue) : (s.setQueue q x).cores = s.cores := rfl
@[simp] theorem State.setQueue_mem (s : State) (q : Nat) (x : Queue) : (s.setQueue q x).mem = s.mem := rfl
@[simp] theorem State.setQueue_tenants (s : State) (q : Nat) (x : Queue) : (s.setQueue q x).tenants = s.tenants := rfl
@[simp] theorem State.setQueue_ctxs (s : State) (q : Nat) (x : Queue) : (s.setQueue q x).ctxs = s.ctxs := rfl
@[simp] theorem State.setQueue_objs (s : State) (q : Nat) (x : Queue) : (s.setQueue q x).objs = s.objs := rfl
@[simp] theorem State.setQueue_fences (s : State) (q : Nat) (x : Queue) : (s.setQueue q x).fences = s.fences := rfl
@[simp] theorem State.setQueue_bridges (s : State) (q : Nat) (x : Queue) : (s.setQueue q x).bridges = s.bridges := rfl
@[simp] theorem State.setQueue_cmds (s : State) (q : Nat) (x : Queue) : (s.setQueue q x).cmds = s.cmds := rfl
@[simp] theorem State.setQueue_nextCmd (s : State) (q : Nat) (x : Queue) : (s.setQueue q x).nextCmd = s.nextCmd := rfl
@[simp] theorem State.setQueue_cuts (s : State) (q : Nat) (x : Queue) : (s.setQueue q x).cuts = s.cuts := rfl
@[simp] theorem State.setQueue_renders (s : State) (q : Nat) (x : Queue) : (s.setQueue q x).renders = s.renders := rfl
@[simp] theorem State.setQueue_sessions (s : State) (q : Nat) (x : Queue) : (s.setQueue q x).sessions = s.sessions := rfl
@[simp] theorem State.setQueue_lanes (s : State) (q : Nat) (x : Queue) : (s.setQueue q x).lanes = s.lanes := rfl
@[simp] theorem State.setQueue_chipGrants (s : State) (q : Nat) (x : Queue) : (s.setQueue q x).chipGrants = s.chipGrants := rfl
@[simp] theorem State.setQueue_blazeGrants (s : State) (q : Nat) (x : Queue) : (s.setQueue q x).blazeGrants = s.blazeGrants := rfl
@[simp] theorem State.setQueue_engines (s : State) (q : Nat) (x : Queue) : (s.setQueue q x).engines = s.engines := rfl
@[simp] theorem State.setQueue_engCtxs (s : State) (q : Nat) (x : Queue) : (s.setQueue q x).engCtxs = s.engCtxs := rfl
@[simp] theorem State.setQueue_bzCtxs (s : State) (q : Nat) (x : Queue) : (s.setQueue q x).bzCtxs = s.bzCtxs := rfl
@[simp] theorem State.setQueue_prism (s : State) (q : Nat) (x : Queue) : (s.setQueue q x).prism = s.prism := rfl
@[simp] theorem State.setQueue_sched (s : State) (q : Nat) (x : Queue) : (s.setQueue q x).sched = s.sched := rfl
@[simp] theorem State.setQueue_ranger (s : State) (q : Nat) (x : Queue) : (s.setQueue q x).ranger = s.ranger := rfl
@[simp] theorem State.setQueue_power (s : State) (q : Nat) (x : Queue) : (s.setQueue q x).power = s.power := rfl
@[simp] theorem State.setQueue_objFrees (s : State) (q : Nat) (x : Queue) : (s.setQueue q x).objFrees = s.objFrees := rfl
@[simp] theorem State.setQueue_fenceFrees (s : State) (q : Nat) (x : Queue) : (s.setQueue q x).fenceFrees = s.fenceFrees := rfl
@[simp] theorem State.setQueue_ports (s : State) (q : Nat) (x : Queue) : (s.setQueue q x).ports = s.ports := rfl
@[simp] theorem State.setQueue_channels (s : State) (q : Nat) (x : Queue) : (s.setQueue q x).channels = s.channels := rfl
@[simp] theorem State.setQueue_i3c (s : State) (q : Nat) (x : Queue) : (s.setQueue q x).i3c = s.i3c := rfl
@[simp] theorem State.setQueue_tap (s : State) (q : Nat) (x : Queue) : (s.setQueue q x).tap = s.tap := rfl
@[simp] theorem State.setQueue_sysReset (s : State) (q : Nat) (x : Queue) : (s.setQueue q x).sysReset = s.sysReset := rfl
@[simp] theorem State.setQueue_avail (s : State) (q : Nat) (x : Queue) : (s.setQueue q x).avail = s.avail := rfl
@[simp] theorem State.setQueue_counters (s : State) (q : Nat) (x : Queue) : (s.setQueue q x).counters = s.counters := rfl
@[simp] theorem State.setQueue_out (s : State) (q : Nat) (x : Queue) : (s.setQueue q x).out = s.out := rfl
@[simp] theorem State.setQueue_pending (s : State) (q : Nat) (x : Queue) : (s.setQueue q x).pending = s.pending := rfl
@[simp] theorem State.setQueue_queue (s : State) (q j : Nat) (x : Queue) :
    (s.setQueue q x).queue j = if j = q then x else s.queue j := tget_tset _ _ _ _ _
@[simp] theorem State.setQueue_core (s : State) (q j : Nat) (x : Queue) : (s.setQueue q x).core j = s.core j := rfl
@[simp] theorem State.setQueue_tenant (s : State) (q j : Nat) (x : Queue) : (s.setQueue q x).tenant j = s.tenant j := rfl
@[simp] theorem State.setQueue_ctx (s : State) (q j : Nat) (x : Queue) : (s.setQueue q x).ctx j = s.ctx j := rfl
@[simp] theorem State.setQueue_obj (s : State) (q j : Nat) (x : Queue) : (s.setQueue q x).obj j = s.obj j := rfl
@[simp] theorem State.setQueue_fence (s : State) (q j : Nat) (x : Queue) : (s.setQueue q x).fence j = s.fence j := rfl
@[simp] theorem State.setQueue_port (s : State) (q j : Nat) (x : Queue) : (s.setQueue q x).port j = s.port j := rfl
@[simp] theorem State.setQueue_channel (s : State) (q j : Nat) (x : Queue) : (s.setQueue q x).channel j = s.channel j := rfl
@[simp] theorem State.setQueue_eng (s : State) (q j : Nat) (x : Queue) : (s.setQueue q x).eng j = s.eng j := rfl
@[simp] theorem State.setQueue_engCtx (s : State) (q j : Nat) (x : Queue) : (s.setQueue q x).engCtx j = s.engCtx j := rfl
@[simp] theorem State.setQueue_bz (s : State) (q j : Nat) (x : Queue) : (s.setQueue q x).bz j = s.bz j := rfl

@[simp] theorem State.setObj_fuses (s : State) (o : Nat) (x : Obj) : (s.setObj o x).fuses = s.fuses := rfl
@[simp] theorem State.setObj_boot (s : State) (o : Nat) (x : Obj) : (s.setObj o x).boot = s.boot := rfl
@[simp] theorem State.setObj_flash (s : State) (o : Nat) (x : Obj) : (s.setObj o x).flash = s.flash := rfl
@[simp] theorem State.setObj_cfg (s : State) (o : Nat) (x : Obj) : (s.setObj o x).cfg = s.cfg := rfl
@[simp] theorem State.setObj_timer (s : State) (o : Nat) (x : Obj) : (s.setObj o x).timer = s.timer := rfl
@[simp] theorem State.setObj_freeTick (s : State) (o : Nat) (x : Obj) : (s.setObj o x).freeTick = s.freeTick := rfl
@[simp] theorem State.setObj_maps (s : State) (o : Nat) (x : Obj) : (s.setObj o x).maps = s.maps := rfl
@[simp] theorem State.setObj_cores (s : State) (o : Nat) (x : Obj) : (s.setObj o x).cores = s.cores := rfl
@[simp] theorem State.setObj_mem (s : State) (o : Nat) (x : Obj) : (s.setObj o x).mem = s.mem := rfl
@[simp] theorem State.setObj_tenants (s : State) (o : Nat) (x : Obj) : (s.setObj o x).tenants = s.tenants := rfl
@[simp] theorem State.setObj_ctxs (s : State) (o : Nat) (x : Obj) : (s.setObj o x).ctxs = s.ctxs := rfl
@[simp] theorem State.setObj_queues (s : State) (o : Nat) (x : Obj) : (s.setObj o x).queues = s.queues := rfl
@[simp] theorem State.setObj_fences (s : State) (o : Nat) (x : Obj) : (s.setObj o x).fences = s.fences := rfl
@[simp] theorem State.setObj_bridges (s : State) (o : Nat) (x : Obj) : (s.setObj o x).bridges = s.bridges := rfl
@[simp] theorem State.setObj_cmds (s : State) (o : Nat) (x : Obj) : (s.setObj o x).cmds = s.cmds := rfl
@[simp] theorem State.setObj_nextCmd (s : State) (o : Nat) (x : Obj) : (s.setObj o x).nextCmd = s.nextCmd := rfl
@[simp] theorem State.setObj_cuts (s : State) (o : Nat) (x : Obj) : (s.setObj o x).cuts = s.cuts := rfl
@[simp] theorem State.setObj_renders (s : State) (o : Nat) (x : Obj) : (s.setObj o x).renders = s.renders := rfl
@[simp] theorem State.setObj_sessions (s : State) (o : Nat) (x : Obj) : (s.setObj o x).sessions = s.sessions := rfl
@[simp] theorem State.setObj_lanes (s : State) (o : Nat) (x : Obj) : (s.setObj o x).lanes = s.lanes := rfl
@[simp] theorem State.setObj_chipGrants (s : State) (o : Nat) (x : Obj) : (s.setObj o x).chipGrants = s.chipGrants := rfl
@[simp] theorem State.setObj_blazeGrants (s : State) (o : Nat) (x : Obj) : (s.setObj o x).blazeGrants = s.blazeGrants := rfl
@[simp] theorem State.setObj_engines (s : State) (o : Nat) (x : Obj) : (s.setObj o x).engines = s.engines := rfl
@[simp] theorem State.setObj_engCtxs (s : State) (o : Nat) (x : Obj) : (s.setObj o x).engCtxs = s.engCtxs := rfl
@[simp] theorem State.setObj_bzCtxs (s : State) (o : Nat) (x : Obj) : (s.setObj o x).bzCtxs = s.bzCtxs := rfl
@[simp] theorem State.setObj_prism (s : State) (o : Nat) (x : Obj) : (s.setObj o x).prism = s.prism := rfl
@[simp] theorem State.setObj_sched (s : State) (o : Nat) (x : Obj) : (s.setObj o x).sched = s.sched := rfl
@[simp] theorem State.setObj_ranger (s : State) (o : Nat) (x : Obj) : (s.setObj o x).ranger = s.ranger := rfl
@[simp] theorem State.setObj_power (s : State) (o : Nat) (x : Obj) : (s.setObj o x).power = s.power := rfl
@[simp] theorem State.setObj_objFrees (s : State) (o : Nat) (x : Obj) : (s.setObj o x).objFrees = s.objFrees := rfl
@[simp] theorem State.setObj_fenceFrees (s : State) (o : Nat) (x : Obj) : (s.setObj o x).fenceFrees = s.fenceFrees := rfl
@[simp] theorem State.setObj_ports (s : State) (o : Nat) (x : Obj) : (s.setObj o x).ports = s.ports := rfl
@[simp] theorem State.setObj_channels (s : State) (o : Nat) (x : Obj) : (s.setObj o x).channels = s.channels := rfl
@[simp] theorem State.setObj_i3c (s : State) (o : Nat) (x : Obj) : (s.setObj o x).i3c = s.i3c := rfl
@[simp] theorem State.setObj_tap (s : State) (o : Nat) (x : Obj) : (s.setObj o x).tap = s.tap := rfl
@[simp] theorem State.setObj_sysReset (s : State) (o : Nat) (x : Obj) : (s.setObj o x).sysReset = s.sysReset := rfl
@[simp] theorem State.setObj_avail (s : State) (o : Nat) (x : Obj) : (s.setObj o x).avail = s.avail := rfl
@[simp] theorem State.setObj_counters (s : State) (o : Nat) (x : Obj) : (s.setObj o x).counters = s.counters := rfl
@[simp] theorem State.setObj_out (s : State) (o : Nat) (x : Obj) : (s.setObj o x).out = s.out := rfl
@[simp] theorem State.setObj_pending (s : State) (o : Nat) (x : Obj) : (s.setObj o x).pending = s.pending := rfl
@[simp] theorem State.setObj_obj (s : State) (o j : Nat) (x : Obj) :
    (s.setObj o x).obj j = if j = o then x else s.obj j := tget_tset _ _ _ _ _
@[simp] theorem State.setObj_core (s : State) (o j : Nat) (x : Obj) : (s.setObj o x).core j = s.core j := rfl
@[simp] theorem State.setObj_tenant (s : State) (o j : Nat) (x : Obj) : (s.setObj o x).tenant j = s.tenant j := rfl
@[simp] theorem State.setObj_ctx (s : State) (o j : Nat) (x : Obj) : (s.setObj o x).ctx j = s.ctx j := rfl
@[simp] theorem State.setObj_queue (s : State) (o j : Nat) (x : Obj) : (s.setObj o x).queue j = s.queue j := rfl
@[simp] theorem State.setObj_fence (s : State) (o j : Nat) (x : Obj) : (s.setObj o x).fence j = s.fence j := rfl
@[simp] theorem State.setObj_port (s : State) (o j : Nat) (x : Obj) : (s.setObj o x).port j = s.port j := rfl
@[simp] theorem State.setObj_channel (s : State) (o j : Nat) (x : Obj) : (s.setObj o x).channel j = s.channel j := rfl
@[simp] theorem State.setObj_eng (s : State) (o j : Nat) (x : Obj) : (s.setObj o x).eng j = s.eng j := rfl
@[simp] theorem State.setObj_engCtx (s : State) (o j : Nat) (x : Obj) : (s.setObj o x).engCtx j = s.engCtx j := rfl
@[simp] theorem State.setObj_bz (s : State) (o j : Nat) (x : Obj) : (s.setObj o x).bz j = s.bz j := rfl

@[simp] theorem State.setFence_fuses (s : State) (f : Nat) (x : Fence) : (s.setFence f x).fuses = s.fuses := rfl
@[simp] theorem State.setFence_boot (s : State) (f : Nat) (x : Fence) : (s.setFence f x).boot = s.boot := rfl
@[simp] theorem State.setFence_flash (s : State) (f : Nat) (x : Fence) : (s.setFence f x).flash = s.flash := rfl
@[simp] theorem State.setFence_cfg (s : State) (f : Nat) (x : Fence) : (s.setFence f x).cfg = s.cfg := rfl
@[simp] theorem State.setFence_timer (s : State) (f : Nat) (x : Fence) : (s.setFence f x).timer = s.timer := rfl
@[simp] theorem State.setFence_freeTick (s : State) (f : Nat) (x : Fence) : (s.setFence f x).freeTick = s.freeTick := rfl
@[simp] theorem State.setFence_maps (s : State) (f : Nat) (x : Fence) : (s.setFence f x).maps = s.maps := rfl
@[simp] theorem State.setFence_cores (s : State) (f : Nat) (x : Fence) : (s.setFence f x).cores = s.cores := rfl
@[simp] theorem State.setFence_mem (s : State) (f : Nat) (x : Fence) : (s.setFence f x).mem = s.mem := rfl
@[simp] theorem State.setFence_tenants (s : State) (f : Nat) (x : Fence) : (s.setFence f x).tenants = s.tenants := rfl
@[simp] theorem State.setFence_ctxs (s : State) (f : Nat) (x : Fence) : (s.setFence f x).ctxs = s.ctxs := rfl
@[simp] theorem State.setFence_queues (s : State) (f : Nat) (x : Fence) : (s.setFence f x).queues = s.queues := rfl
@[simp] theorem State.setFence_objs (s : State) (f : Nat) (x : Fence) : (s.setFence f x).objs = s.objs := rfl
@[simp] theorem State.setFence_bridges (s : State) (f : Nat) (x : Fence) : (s.setFence f x).bridges = s.bridges := rfl
@[simp] theorem State.setFence_cmds (s : State) (f : Nat) (x : Fence) : (s.setFence f x).cmds = s.cmds := rfl
@[simp] theorem State.setFence_nextCmd (s : State) (f : Nat) (x : Fence) : (s.setFence f x).nextCmd = s.nextCmd := rfl
@[simp] theorem State.setFence_cuts (s : State) (f : Nat) (x : Fence) : (s.setFence f x).cuts = s.cuts := rfl
@[simp] theorem State.setFence_renders (s : State) (f : Nat) (x : Fence) : (s.setFence f x).renders = s.renders := rfl
@[simp] theorem State.setFence_sessions (s : State) (f : Nat) (x : Fence) : (s.setFence f x).sessions = s.sessions := rfl
@[simp] theorem State.setFence_lanes (s : State) (f : Nat) (x : Fence) : (s.setFence f x).lanes = s.lanes := rfl
@[simp] theorem State.setFence_chipGrants (s : State) (f : Nat) (x : Fence) : (s.setFence f x).chipGrants = s.chipGrants := rfl
@[simp] theorem State.setFence_blazeGrants (s : State) (f : Nat) (x : Fence) : (s.setFence f x).blazeGrants = s.blazeGrants := rfl
@[simp] theorem State.setFence_engines (s : State) (f : Nat) (x : Fence) : (s.setFence f x).engines = s.engines := rfl
@[simp] theorem State.setFence_engCtxs (s : State) (f : Nat) (x : Fence) : (s.setFence f x).engCtxs = s.engCtxs := rfl
@[simp] theorem State.setFence_bzCtxs (s : State) (f : Nat) (x : Fence) : (s.setFence f x).bzCtxs = s.bzCtxs := rfl
@[simp] theorem State.setFence_prism (s : State) (f : Nat) (x : Fence) : (s.setFence f x).prism = s.prism := rfl
@[simp] theorem State.setFence_sched (s : State) (f : Nat) (x : Fence) : (s.setFence f x).sched = s.sched := rfl
@[simp] theorem State.setFence_ranger (s : State) (f : Nat) (x : Fence) : (s.setFence f x).ranger = s.ranger := rfl
@[simp] theorem State.setFence_power (s : State) (f : Nat) (x : Fence) : (s.setFence f x).power = s.power := rfl
@[simp] theorem State.setFence_objFrees (s : State) (f : Nat) (x : Fence) : (s.setFence f x).objFrees = s.objFrees := rfl
@[simp] theorem State.setFence_fenceFrees (s : State) (f : Nat) (x : Fence) : (s.setFence f x).fenceFrees = s.fenceFrees := rfl
@[simp] theorem State.setFence_ports (s : State) (f : Nat) (x : Fence) : (s.setFence f x).ports = s.ports := rfl
@[simp] theorem State.setFence_channels (s : State) (f : Nat) (x : Fence) : (s.setFence f x).channels = s.channels := rfl
@[simp] theorem State.setFence_i3c (s : State) (f : Nat) (x : Fence) : (s.setFence f x).i3c = s.i3c := rfl
@[simp] theorem State.setFence_tap (s : State) (f : Nat) (x : Fence) : (s.setFence f x).tap = s.tap := rfl
@[simp] theorem State.setFence_sysReset (s : State) (f : Nat) (x : Fence) : (s.setFence f x).sysReset = s.sysReset := rfl
@[simp] theorem State.setFence_avail (s : State) (f : Nat) (x : Fence) : (s.setFence f x).avail = s.avail := rfl
@[simp] theorem State.setFence_counters (s : State) (f : Nat) (x : Fence) : (s.setFence f x).counters = s.counters := rfl
@[simp] theorem State.setFence_out (s : State) (f : Nat) (x : Fence) : (s.setFence f x).out = s.out := rfl
@[simp] theorem State.setFence_pending (s : State) (f : Nat) (x : Fence) : (s.setFence f x).pending = s.pending := rfl
@[simp] theorem State.setFence_fence (s : State) (f j : Nat) (x : Fence) :
    (s.setFence f x).fence j = if j = f then x else s.fence j := tget_tset _ _ _ _ _
@[simp] theorem State.setFence_core (s : State) (f j : Nat) (x : Fence) : (s.setFence f x).core j = s.core j := rfl
@[simp] theorem State.setFence_tenant (s : State) (f j : Nat) (x : Fence) : (s.setFence f x).tenant j = s.tenant j := rfl
@[simp] theorem State.setFence_ctx (s : State) (f j : Nat) (x : Fence) : (s.setFence f x).ctx j = s.ctx j := rfl
@[simp] theorem State.setFence_queue (s : State) (f j : Nat) (x : Fence) : (s.setFence f x).queue j = s.queue j := rfl
@[simp] theorem State.setFence_obj (s : State) (f j : Nat) (x : Fence) : (s.setFence f x).obj j = s.obj j := rfl
@[simp] theorem State.setFence_port (s : State) (f j : Nat) (x : Fence) : (s.setFence f x).port j = s.port j := rfl
@[simp] theorem State.setFence_channel (s : State) (f j : Nat) (x : Fence) : (s.setFence f x).channel j = s.channel j := rfl
@[simp] theorem State.setFence_eng (s : State) (f j : Nat) (x : Fence) : (s.setFence f x).eng j = s.eng j := rfl
@[simp] theorem State.setFence_engCtx (s : State) (f j : Nat) (x : Fence) : (s.setFence f x).engCtx j = s.engCtx j := rfl
@[simp] theorem State.setFence_bz (s : State) (f j : Nat) (x : Fence) : (s.setFence f x).bz j = s.bz j := rfl

@[simp] theorem State.setPort_fuses (s : State) (p : Nat) (x : Port) : (s.setPort p x).fuses = s.fuses := rfl
@[simp] theorem State.setPort_boot (s : State) (p : Nat) (x : Port) : (s.setPort p x).boot = s.boot := rfl
@[simp] theorem State.setPort_flash (s : State) (p : Nat) (x : Port) : (s.setPort p x).flash = s.flash := rfl
@[simp] theorem State.setPort_cfg (s : State) (p : Nat) (x : Port) : (s.setPort p x).cfg = s.cfg := rfl
@[simp] theorem State.setPort_timer (s : State) (p : Nat) (x : Port) : (s.setPort p x).timer = s.timer := rfl
@[simp] theorem State.setPort_freeTick (s : State) (p : Nat) (x : Port) : (s.setPort p x).freeTick = s.freeTick := rfl
@[simp] theorem State.setPort_maps (s : State) (p : Nat) (x : Port) : (s.setPort p x).maps = s.maps := rfl
@[simp] theorem State.setPort_cores (s : State) (p : Nat) (x : Port) : (s.setPort p x).cores = s.cores := rfl
@[simp] theorem State.setPort_mem (s : State) (p : Nat) (x : Port) : (s.setPort p x).mem = s.mem := rfl
@[simp] theorem State.setPort_tenants (s : State) (p : Nat) (x : Port) : (s.setPort p x).tenants = s.tenants := rfl
@[simp] theorem State.setPort_ctxs (s : State) (p : Nat) (x : Port) : (s.setPort p x).ctxs = s.ctxs := rfl
@[simp] theorem State.setPort_queues (s : State) (p : Nat) (x : Port) : (s.setPort p x).queues = s.queues := rfl
@[simp] theorem State.setPort_objs (s : State) (p : Nat) (x : Port) : (s.setPort p x).objs = s.objs := rfl
@[simp] theorem State.setPort_fences (s : State) (p : Nat) (x : Port) : (s.setPort p x).fences = s.fences := rfl
@[simp] theorem State.setPort_bridges (s : State) (p : Nat) (x : Port) : (s.setPort p x).bridges = s.bridges := rfl
@[simp] theorem State.setPort_cmds (s : State) (p : Nat) (x : Port) : (s.setPort p x).cmds = s.cmds := rfl
@[simp] theorem State.setPort_nextCmd (s : State) (p : Nat) (x : Port) : (s.setPort p x).nextCmd = s.nextCmd := rfl
@[simp] theorem State.setPort_cuts (s : State) (p : Nat) (x : Port) : (s.setPort p x).cuts = s.cuts := rfl
@[simp] theorem State.setPort_renders (s : State) (p : Nat) (x : Port) : (s.setPort p x).renders = s.renders := rfl
@[simp] theorem State.setPort_sessions (s : State) (p : Nat) (x : Port) : (s.setPort p x).sessions = s.sessions := rfl
@[simp] theorem State.setPort_lanes (s : State) (p : Nat) (x : Port) : (s.setPort p x).lanes = s.lanes := rfl
@[simp] theorem State.setPort_chipGrants (s : State) (p : Nat) (x : Port) : (s.setPort p x).chipGrants = s.chipGrants := rfl
@[simp] theorem State.setPort_blazeGrants (s : State) (p : Nat) (x : Port) : (s.setPort p x).blazeGrants = s.blazeGrants := rfl
@[simp] theorem State.setPort_engines (s : State) (p : Nat) (x : Port) : (s.setPort p x).engines = s.engines := rfl
@[simp] theorem State.setPort_engCtxs (s : State) (p : Nat) (x : Port) : (s.setPort p x).engCtxs = s.engCtxs := rfl
@[simp] theorem State.setPort_bzCtxs (s : State) (p : Nat) (x : Port) : (s.setPort p x).bzCtxs = s.bzCtxs := rfl
@[simp] theorem State.setPort_prism (s : State) (p : Nat) (x : Port) : (s.setPort p x).prism = s.prism := rfl
@[simp] theorem State.setPort_sched (s : State) (p : Nat) (x : Port) : (s.setPort p x).sched = s.sched := rfl
@[simp] theorem State.setPort_ranger (s : State) (p : Nat) (x : Port) : (s.setPort p x).ranger = s.ranger := rfl
@[simp] theorem State.setPort_power (s : State) (p : Nat) (x : Port) : (s.setPort p x).power = s.power := rfl
@[simp] theorem State.setPort_objFrees (s : State) (p : Nat) (x : Port) : (s.setPort p x).objFrees = s.objFrees := rfl
@[simp] theorem State.setPort_fenceFrees (s : State) (p : Nat) (x : Port) : (s.setPort p x).fenceFrees = s.fenceFrees := rfl
@[simp] theorem State.setPort_channels (s : State) (p : Nat) (x : Port) : (s.setPort p x).channels = s.channels := rfl
@[simp] theorem State.setPort_i3c (s : State) (p : Nat) (x : Port) : (s.setPort p x).i3c = s.i3c := rfl
@[simp] theorem State.setPort_tap (s : State) (p : Nat) (x : Port) : (s.setPort p x).tap = s.tap := rfl
@[simp] theorem State.setPort_sysReset (s : State) (p : Nat) (x : Port) : (s.setPort p x).sysReset = s.sysReset := rfl
@[simp] theorem State.setPort_avail (s : State) (p : Nat) (x : Port) : (s.setPort p x).avail = s.avail := rfl
@[simp] theorem State.setPort_counters (s : State) (p : Nat) (x : Port) : (s.setPort p x).counters = s.counters := rfl
@[simp] theorem State.setPort_out (s : State) (p : Nat) (x : Port) : (s.setPort p x).out = s.out := rfl
@[simp] theorem State.setPort_pending (s : State) (p : Nat) (x : Port) : (s.setPort p x).pending = s.pending := rfl
@[simp] theorem State.setPort_port (s : State) (p j : Nat) (x : Port) :
    (s.setPort p x).port j = if j = p then x else s.port j := tget_tset _ _ _ _ _
@[simp] theorem State.setPort_core (s : State) (p j : Nat) (x : Port) : (s.setPort p x).core j = s.core j := rfl
@[simp] theorem State.setPort_tenant (s : State) (p j : Nat) (x : Port) : (s.setPort p x).tenant j = s.tenant j := rfl
@[simp] theorem State.setPort_ctx (s : State) (p j : Nat) (x : Port) : (s.setPort p x).ctx j = s.ctx j := rfl
@[simp] theorem State.setPort_queue (s : State) (p j : Nat) (x : Port) : (s.setPort p x).queue j = s.queue j := rfl
@[simp] theorem State.setPort_obj (s : State) (p j : Nat) (x : Port) : (s.setPort p x).obj j = s.obj j := rfl
@[simp] theorem State.setPort_fence (s : State) (p j : Nat) (x : Port) : (s.setPort p x).fence j = s.fence j := rfl
@[simp] theorem State.setPort_channel (s : State) (p j : Nat) (x : Port) : (s.setPort p x).channel j = s.channel j := rfl
@[simp] theorem State.setPort_eng (s : State) (p j : Nat) (x : Port) : (s.setPort p x).eng j = s.eng j := rfl
@[simp] theorem State.setPort_engCtx (s : State) (p j : Nat) (x : Port) : (s.setPort p x).engCtx j = s.engCtx j := rfl
@[simp] theorem State.setPort_bz (s : State) (p j : Nat) (x : Port) : (s.setPort p x).bz j = s.bz j := rfl

@[simp] theorem State.setChannel_fuses (s : State) (c : Nat) (x : Channel) : (s.setChannel c x).fuses = s.fuses := rfl
@[simp] theorem State.setChannel_boot (s : State) (c : Nat) (x : Channel) : (s.setChannel c x).boot = s.boot := rfl
@[simp] theorem State.setChannel_flash (s : State) (c : Nat) (x : Channel) : (s.setChannel c x).flash = s.flash := rfl
@[simp] theorem State.setChannel_cfg (s : State) (c : Nat) (x : Channel) : (s.setChannel c x).cfg = s.cfg := rfl
@[simp] theorem State.setChannel_timer (s : State) (c : Nat) (x : Channel) : (s.setChannel c x).timer = s.timer := rfl
@[simp] theorem State.setChannel_freeTick (s : State) (c : Nat) (x : Channel) : (s.setChannel c x).freeTick = s.freeTick := rfl
@[simp] theorem State.setChannel_maps (s : State) (c : Nat) (x : Channel) : (s.setChannel c x).maps = s.maps := rfl
@[simp] theorem State.setChannel_cores (s : State) (c : Nat) (x : Channel) : (s.setChannel c x).cores = s.cores := rfl
@[simp] theorem State.setChannel_mem (s : State) (c : Nat) (x : Channel) : (s.setChannel c x).mem = s.mem := rfl
@[simp] theorem State.setChannel_tenants (s : State) (c : Nat) (x : Channel) : (s.setChannel c x).tenants = s.tenants := rfl
@[simp] theorem State.setChannel_ctxs (s : State) (c : Nat) (x : Channel) : (s.setChannel c x).ctxs = s.ctxs := rfl
@[simp] theorem State.setChannel_queues (s : State) (c : Nat) (x : Channel) : (s.setChannel c x).queues = s.queues := rfl
@[simp] theorem State.setChannel_objs (s : State) (c : Nat) (x : Channel) : (s.setChannel c x).objs = s.objs := rfl
@[simp] theorem State.setChannel_fences (s : State) (c : Nat) (x : Channel) : (s.setChannel c x).fences = s.fences := rfl
@[simp] theorem State.setChannel_bridges (s : State) (c : Nat) (x : Channel) : (s.setChannel c x).bridges = s.bridges := rfl
@[simp] theorem State.setChannel_cmds (s : State) (c : Nat) (x : Channel) : (s.setChannel c x).cmds = s.cmds := rfl
@[simp] theorem State.setChannel_nextCmd (s : State) (c : Nat) (x : Channel) : (s.setChannel c x).nextCmd = s.nextCmd := rfl
@[simp] theorem State.setChannel_cuts (s : State) (c : Nat) (x : Channel) : (s.setChannel c x).cuts = s.cuts := rfl
@[simp] theorem State.setChannel_renders (s : State) (c : Nat) (x : Channel) : (s.setChannel c x).renders = s.renders := rfl
@[simp] theorem State.setChannel_sessions (s : State) (c : Nat) (x : Channel) : (s.setChannel c x).sessions = s.sessions := rfl
@[simp] theorem State.setChannel_lanes (s : State) (c : Nat) (x : Channel) : (s.setChannel c x).lanes = s.lanes := rfl
@[simp] theorem State.setChannel_chipGrants (s : State) (c : Nat) (x : Channel) : (s.setChannel c x).chipGrants = s.chipGrants := rfl
@[simp] theorem State.setChannel_blazeGrants (s : State) (c : Nat) (x : Channel) : (s.setChannel c x).blazeGrants = s.blazeGrants := rfl
@[simp] theorem State.setChannel_engines (s : State) (c : Nat) (x : Channel) : (s.setChannel c x).engines = s.engines := rfl
@[simp] theorem State.setChannel_engCtxs (s : State) (c : Nat) (x : Channel) : (s.setChannel c x).engCtxs = s.engCtxs := rfl
@[simp] theorem State.setChannel_bzCtxs (s : State) (c : Nat) (x : Channel) : (s.setChannel c x).bzCtxs = s.bzCtxs := rfl
@[simp] theorem State.setChannel_prism (s : State) (c : Nat) (x : Channel) : (s.setChannel c x).prism = s.prism := rfl
@[simp] theorem State.setChannel_sched (s : State) (c : Nat) (x : Channel) : (s.setChannel c x).sched = s.sched := rfl
@[simp] theorem State.setChannel_ranger (s : State) (c : Nat) (x : Channel) : (s.setChannel c x).ranger = s.ranger := rfl
@[simp] theorem State.setChannel_power (s : State) (c : Nat) (x : Channel) : (s.setChannel c x).power = s.power := rfl
@[simp] theorem State.setChannel_objFrees (s : State) (c : Nat) (x : Channel) : (s.setChannel c x).objFrees = s.objFrees := rfl
@[simp] theorem State.setChannel_fenceFrees (s : State) (c : Nat) (x : Channel) : (s.setChannel c x).fenceFrees = s.fenceFrees := rfl
@[simp] theorem State.setChannel_ports (s : State) (c : Nat) (x : Channel) : (s.setChannel c x).ports = s.ports := rfl
@[simp] theorem State.setChannel_i3c (s : State) (c : Nat) (x : Channel) : (s.setChannel c x).i3c = s.i3c := rfl
@[simp] theorem State.setChannel_tap (s : State) (c : Nat) (x : Channel) : (s.setChannel c x).tap = s.tap := rfl
@[simp] theorem State.setChannel_sysReset (s : State) (c : Nat) (x : Channel) : (s.setChannel c x).sysReset = s.sysReset := rfl
@[simp] theorem State.setChannel_avail (s : State) (c : Nat) (x : Channel) : (s.setChannel c x).avail = s.avail := rfl
@[simp] theorem State.setChannel_counters (s : State) (c : Nat) (x : Channel) : (s.setChannel c x).counters = s.counters := rfl
@[simp] theorem State.setChannel_out (s : State) (c : Nat) (x : Channel) : (s.setChannel c x).out = s.out := rfl
@[simp] theorem State.setChannel_pending (s : State) (c : Nat) (x : Channel) : (s.setChannel c x).pending = s.pending := rfl
@[simp] theorem State.setChannel_channel (s : State) (c j : Nat) (x : Channel) :
    (s.setChannel c x).channel j = if j = c then x else s.channel j := tget_tset _ _ _ _ _
@[simp] theorem State.setChannel_core (s : State) (c j : Nat) (x : Channel) : (s.setChannel c x).core j = s.core j := rfl
@[simp] theorem State.setChannel_tenant (s : State) (c j : Nat) (x : Channel) : (s.setChannel c x).tenant j = s.tenant j := rfl
@[simp] theorem State.setChannel_ctx (s : State) (c j : Nat) (x : Channel) : (s.setChannel c x).ctx j = s.ctx j := rfl
@[simp] theorem State.setChannel_queue (s : State) (c j : Nat) (x : Channel) : (s.setChannel c x).queue j = s.queue j := rfl
@[simp] theorem State.setChannel_obj (s : State) (c j : Nat) (x : Channel) : (s.setChannel c x).obj j = s.obj j := rfl
@[simp] theorem State.setChannel_fence (s : State) (c j : Nat) (x : Channel) : (s.setChannel c x).fence j = s.fence j := rfl
@[simp] theorem State.setChannel_port (s : State) (c j : Nat) (x : Channel) : (s.setChannel c x).port j = s.port j := rfl
@[simp] theorem State.setChannel_eng (s : State) (c j : Nat) (x : Channel) : (s.setChannel c x).eng j = s.eng j := rfl
@[simp] theorem State.setChannel_engCtx (s : State) (c j : Nat) (x : Channel) : (s.setChannel c x).engCtx j = s.engCtx j := rfl
@[simp] theorem State.setChannel_bz (s : State) (c j : Nat) (x : Channel) : (s.setChannel c x).bz j = s.bz j := rfl

@[simp] theorem setEng_fuses (s : State) (e : Nat) (x : Engine) : (setEng s e x).fuses = s.fuses := rfl
@[simp] theorem setEng_boot (s : State) (e : Nat) (x : Engine) : (setEng s e x).boot = s.boot := rfl
@[simp] theorem setEng_flash (s : State) (e : Nat) (x : Engine) : (setEng s e x).flash = s.flash := rfl
@[simp] theorem setEng_cfg (s : State) (e : Nat) (x : Engine) : (setEng s e x).cfg = s.cfg := rfl
@[simp] theorem setEng_timer (s : State) (e : Nat) (x : Engine) : (setEng s e x).timer = s.timer := rfl
@[simp] theorem setEng_freeTick (s : State) (e : Nat) (x : Engine) : (setEng s e x).freeTick = s.freeTick := rfl
@[simp] theorem setEng_maps (s : State) (e : Nat) (x : Engine) : (setEng s e x).maps = s.maps := rfl
@[simp] theorem setEng_cores (s : State) (e : Nat) (x : Engine) : (setEng s e x).cores = s.cores := rfl
@[simp] theorem setEng_mem (s : State) (e : Nat) (x : Engine) : (setEng s e x).mem = s.mem := rfl
@[simp] theorem setEng_tenants (s : State) (e : Nat) (x : Engine) : (setEng s e x).tenants = s.tenants := rfl
@[simp] theorem setEng_ctxs (s : State) (e : Nat) (x : Engine) : (setEng s e x).ctxs = s.ctxs := rfl
@[simp] theorem setEng_queues (s : State) (e : Nat) (x : Engine) : (setEng s e x).queues = s.queues := rfl
@[simp] theorem setEng_objs (s : State) (e : Nat) (x : Engine) : (setEng s e x).objs = s.objs := rfl
@[simp] theorem setEng_fences (s : State) (e : Nat) (x : Engine) : (setEng s e x).fences = s.fences := rfl
@[simp] theorem setEng_bridges (s : State) (e : Nat) (x : Engine) : (setEng s e x).bridges = s.bridges := rfl
@[simp] theorem setEng_cmds (s : State) (e : Nat) (x : Engine) : (setEng s e x).cmds = s.cmds := rfl
@[simp] theorem setEng_nextCmd (s : State) (e : Nat) (x : Engine) : (setEng s e x).nextCmd = s.nextCmd := rfl
@[simp] theorem setEng_cuts (s : State) (e : Nat) (x : Engine) : (setEng s e x).cuts = s.cuts := rfl
@[simp] theorem setEng_renders (s : State) (e : Nat) (x : Engine) : (setEng s e x).renders = s.renders := rfl
@[simp] theorem setEng_sessions (s : State) (e : Nat) (x : Engine) : (setEng s e x).sessions = s.sessions := rfl
@[simp] theorem setEng_lanes (s : State) (e : Nat) (x : Engine) : (setEng s e x).lanes = s.lanes := rfl
@[simp] theorem setEng_chipGrants (s : State) (e : Nat) (x : Engine) : (setEng s e x).chipGrants = s.chipGrants := rfl
@[simp] theorem setEng_blazeGrants (s : State) (e : Nat) (x : Engine) : (setEng s e x).blazeGrants = s.blazeGrants := rfl
@[simp] theorem setEng_engCtxs (s : State) (e : Nat) (x : Engine) : (setEng s e x).engCtxs = s.engCtxs := rfl
@[simp] theorem setEng_bzCtxs (s : State) (e : Nat) (x : Engine) : (setEng s e x).bzCtxs = s.bzCtxs := rfl
@[simp] theorem setEng_prism (s : State) (e : Nat) (x : Engine) : (setEng s e x).prism = s.prism := rfl
@[simp] theorem setEng_sched (s : State) (e : Nat) (x : Engine) : (setEng s e x).sched = s.sched := rfl
@[simp] theorem setEng_ranger (s : State) (e : Nat) (x : Engine) : (setEng s e x).ranger = s.ranger := rfl
@[simp] theorem setEng_power (s : State) (e : Nat) (x : Engine) : (setEng s e x).power = s.power := rfl
@[simp] theorem setEng_objFrees (s : State) (e : Nat) (x : Engine) : (setEng s e x).objFrees = s.objFrees := rfl
@[simp] theorem setEng_fenceFrees (s : State) (e : Nat) (x : Engine) : (setEng s e x).fenceFrees = s.fenceFrees := rfl
@[simp] theorem setEng_ports (s : State) (e : Nat) (x : Engine) : (setEng s e x).ports = s.ports := rfl
@[simp] theorem setEng_channels (s : State) (e : Nat) (x : Engine) : (setEng s e x).channels = s.channels := rfl
@[simp] theorem setEng_i3c (s : State) (e : Nat) (x : Engine) : (setEng s e x).i3c = s.i3c := rfl
@[simp] theorem setEng_tap (s : State) (e : Nat) (x : Engine) : (setEng s e x).tap = s.tap := rfl
@[simp] theorem setEng_sysReset (s : State) (e : Nat) (x : Engine) : (setEng s e x).sysReset = s.sysReset := rfl
@[simp] theorem setEng_avail (s : State) (e : Nat) (x : Engine) : (setEng s e x).avail = s.avail := rfl
@[simp] theorem setEng_counters (s : State) (e : Nat) (x : Engine) : (setEng s e x).counters = s.counters := rfl
@[simp] theorem setEng_out (s : State) (e : Nat) (x : Engine) : (setEng s e x).out = s.out := rfl
@[simp] theorem setEng_pending (s : State) (e : Nat) (x : Engine) : (setEng s e x).pending = s.pending := rfl
@[simp] theorem setEng_eng (s : State) (e j : Nat) (x : Engine) :
    (setEng s e x).eng j = if j = e then x else s.eng j := tget_tset _ _ _ _ _
@[simp] theorem setEng_core (s : State) (e j : Nat) (x : Engine) : (setEng s e x).core j = s.core j := rfl
@[simp] theorem setEng_tenant (s : State) (e j : Nat) (x : Engine) : (setEng s e x).tenant j = s.tenant j := rfl
@[simp] theorem setEng_ctx (s : State) (e j : Nat) (x : Engine) : (setEng s e x).ctx j = s.ctx j := rfl
@[simp] theorem setEng_queue (s : State) (e j : Nat) (x : Engine) : (setEng s e x).queue j = s.queue j := rfl
@[simp] theorem setEng_obj (s : State) (e j : Nat) (x : Engine) : (setEng s e x).obj j = s.obj j := rfl
@[simp] theorem setEng_fence (s : State) (e j : Nat) (x : Engine) : (setEng s e x).fence j = s.fence j := rfl
@[simp] theorem setEng_port (s : State) (e j : Nat) (x : Engine) : (setEng s e x).port j = s.port j := rfl
@[simp] theorem setEng_channel (s : State) (e j : Nat) (x : Engine) : (setEng s e x).channel j = s.channel j := rfl
@[simp] theorem setEng_engCtx (s : State) (e j : Nat) (x : Engine) : (setEng s e x).engCtx j = s.engCtx j := rfl
@[simp] theorem setEng_bz (s : State) (e j : Nat) (x : Engine) : (setEng s e x).bz j = s.bz j := rfl

@[simp] theorem setEngCtx_fuses (s : State) (c : Nat) (x : EngCtx) : (setEngCtx s c x).fuses = s.fuses := rfl
@[simp] theorem setEngCtx_boot (s : State) (c : Nat) (x : EngCtx) : (setEngCtx s c x).boot = s.boot := rfl
@[simp] theorem setEngCtx_flash (s : State) (c : Nat) (x : EngCtx) : (setEngCtx s c x).flash = s.flash := rfl
@[simp] theorem setEngCtx_cfg (s : State) (c : Nat) (x : EngCtx) : (setEngCtx s c x).cfg = s.cfg := rfl
@[simp] theorem setEngCtx_timer (s : State) (c : Nat) (x : EngCtx) : (setEngCtx s c x).timer = s.timer := rfl
@[simp] theorem setEngCtx_freeTick (s : State) (c : Nat) (x : EngCtx) : (setEngCtx s c x).freeTick = s.freeTick := rfl
@[simp] theorem setEngCtx_maps (s : State) (c : Nat) (x : EngCtx) : (setEngCtx s c x).maps = s.maps := rfl
@[simp] theorem setEngCtx_cores (s : State) (c : Nat) (x : EngCtx) : (setEngCtx s c x).cores = s.cores := rfl
@[simp] theorem setEngCtx_mem (s : State) (c : Nat) (x : EngCtx) : (setEngCtx s c x).mem = s.mem := rfl
@[simp] theorem setEngCtx_tenants (s : State) (c : Nat) (x : EngCtx) : (setEngCtx s c x).tenants = s.tenants := rfl
@[simp] theorem setEngCtx_ctxs (s : State) (c : Nat) (x : EngCtx) : (setEngCtx s c x).ctxs = s.ctxs := rfl
@[simp] theorem setEngCtx_queues (s : State) (c : Nat) (x : EngCtx) : (setEngCtx s c x).queues = s.queues := rfl
@[simp] theorem setEngCtx_objs (s : State) (c : Nat) (x : EngCtx) : (setEngCtx s c x).objs = s.objs := rfl
@[simp] theorem setEngCtx_fences (s : State) (c : Nat) (x : EngCtx) : (setEngCtx s c x).fences = s.fences := rfl
@[simp] theorem setEngCtx_bridges (s : State) (c : Nat) (x : EngCtx) : (setEngCtx s c x).bridges = s.bridges := rfl
@[simp] theorem setEngCtx_cmds (s : State) (c : Nat) (x : EngCtx) : (setEngCtx s c x).cmds = s.cmds := rfl
@[simp] theorem setEngCtx_nextCmd (s : State) (c : Nat) (x : EngCtx) : (setEngCtx s c x).nextCmd = s.nextCmd := rfl
@[simp] theorem setEngCtx_cuts (s : State) (c : Nat) (x : EngCtx) : (setEngCtx s c x).cuts = s.cuts := rfl
@[simp] theorem setEngCtx_renders (s : State) (c : Nat) (x : EngCtx) : (setEngCtx s c x).renders = s.renders := rfl
@[simp] theorem setEngCtx_sessions (s : State) (c : Nat) (x : EngCtx) : (setEngCtx s c x).sessions = s.sessions := rfl
@[simp] theorem setEngCtx_lanes (s : State) (c : Nat) (x : EngCtx) : (setEngCtx s c x).lanes = s.lanes := rfl
@[simp] theorem setEngCtx_chipGrants (s : State) (c : Nat) (x : EngCtx) : (setEngCtx s c x).chipGrants = s.chipGrants := rfl
@[simp] theorem setEngCtx_blazeGrants (s : State) (c : Nat) (x : EngCtx) : (setEngCtx s c x).blazeGrants = s.blazeGrants := rfl
@[simp] theorem setEngCtx_engines (s : State) (c : Nat) (x : EngCtx) : (setEngCtx s c x).engines = s.engines := rfl
@[simp] theorem setEngCtx_bzCtxs (s : State) (c : Nat) (x : EngCtx) : (setEngCtx s c x).bzCtxs = s.bzCtxs := rfl
@[simp] theorem setEngCtx_prism (s : State) (c : Nat) (x : EngCtx) : (setEngCtx s c x).prism = s.prism := rfl
@[simp] theorem setEngCtx_sched (s : State) (c : Nat) (x : EngCtx) : (setEngCtx s c x).sched = s.sched := rfl
@[simp] theorem setEngCtx_ranger (s : State) (c : Nat) (x : EngCtx) : (setEngCtx s c x).ranger = s.ranger := rfl
@[simp] theorem setEngCtx_power (s : State) (c : Nat) (x : EngCtx) : (setEngCtx s c x).power = s.power := rfl
@[simp] theorem setEngCtx_objFrees (s : State) (c : Nat) (x : EngCtx) : (setEngCtx s c x).objFrees = s.objFrees := rfl
@[simp] theorem setEngCtx_fenceFrees (s : State) (c : Nat) (x : EngCtx) : (setEngCtx s c x).fenceFrees = s.fenceFrees := rfl
@[simp] theorem setEngCtx_ports (s : State) (c : Nat) (x : EngCtx) : (setEngCtx s c x).ports = s.ports := rfl
@[simp] theorem setEngCtx_channels (s : State) (c : Nat) (x : EngCtx) : (setEngCtx s c x).channels = s.channels := rfl
@[simp] theorem setEngCtx_i3c (s : State) (c : Nat) (x : EngCtx) : (setEngCtx s c x).i3c = s.i3c := rfl
@[simp] theorem setEngCtx_tap (s : State) (c : Nat) (x : EngCtx) : (setEngCtx s c x).tap = s.tap := rfl
@[simp] theorem setEngCtx_sysReset (s : State) (c : Nat) (x : EngCtx) : (setEngCtx s c x).sysReset = s.sysReset := rfl
@[simp] theorem setEngCtx_avail (s : State) (c : Nat) (x : EngCtx) : (setEngCtx s c x).avail = s.avail := rfl
@[simp] theorem setEngCtx_counters (s : State) (c : Nat) (x : EngCtx) : (setEngCtx s c x).counters = s.counters := rfl
@[simp] theorem setEngCtx_out (s : State) (c : Nat) (x : EngCtx) : (setEngCtx s c x).out = s.out := rfl
@[simp] theorem setEngCtx_pending (s : State) (c : Nat) (x : EngCtx) : (setEngCtx s c x).pending = s.pending := rfl
@[simp] theorem setEngCtx_engCtx (s : State) (c j : Nat) (x : EngCtx) :
    (setEngCtx s c x).engCtx j = if j = c then x else s.engCtx j := tget_tset _ _ _ _ _
@[simp] theorem setEngCtx_core (s : State) (c j : Nat) (x : EngCtx) : (setEngCtx s c x).core j = s.core j := rfl
@[simp] theorem setEngCtx_tenant (s : State) (c j : Nat) (x : EngCtx) : (setEngCtx s c x).tenant j = s.tenant j := rfl
@[simp] theorem setEngCtx_ctx (s : State) (c j : Nat) (x : EngCtx) : (setEngCtx s c x).ctx j = s.ctx j := rfl
@[simp] theorem setEngCtx_queue (s : State) (c j : Nat) (x : EngCtx) : (setEngCtx s c x).queue j = s.queue j := rfl
@[simp] theorem setEngCtx_obj (s : State) (c j : Nat) (x : EngCtx) : (setEngCtx s c x).obj j = s.obj j := rfl
@[simp] theorem setEngCtx_fence (s : State) (c j : Nat) (x : EngCtx) : (setEngCtx s c x).fence j = s.fence j := rfl
@[simp] theorem setEngCtx_port (s : State) (c j : Nat) (x : EngCtx) : (setEngCtx s c x).port j = s.port j := rfl
@[simp] theorem setEngCtx_channel (s : State) (c j : Nat) (x : EngCtx) : (setEngCtx s c x).channel j = s.channel j := rfl
@[simp] theorem setEngCtx_eng (s : State) (c j : Nat) (x : EngCtx) : (setEngCtx s c x).eng j = s.eng j := rfl
@[simp] theorem setEngCtx_bz (s : State) (c j : Nat) (x : EngCtx) : (setEngCtx s c x).bz j = s.bz j := rfl

@[simp] theorem setBz_fuses (s : State) (c : Nat) (x : BzCtx) : (setBz s c x).fuses = s.fuses := rfl
@[simp] theorem setBz_boot (s : State) (c : Nat) (x : BzCtx) : (setBz s c x).boot = s.boot := rfl
@[simp] theorem setBz_flash (s : State) (c : Nat) (x : BzCtx) : (setBz s c x).flash = s.flash := rfl
@[simp] theorem setBz_cfg (s : State) (c : Nat) (x : BzCtx) : (setBz s c x).cfg = s.cfg := rfl
@[simp] theorem setBz_timer (s : State) (c : Nat) (x : BzCtx) : (setBz s c x).timer = s.timer := rfl
@[simp] theorem setBz_freeTick (s : State) (c : Nat) (x : BzCtx) : (setBz s c x).freeTick = s.freeTick := rfl
@[simp] theorem setBz_maps (s : State) (c : Nat) (x : BzCtx) : (setBz s c x).maps = s.maps := rfl
@[simp] theorem setBz_cores (s : State) (c : Nat) (x : BzCtx) : (setBz s c x).cores = s.cores := rfl
@[simp] theorem setBz_mem (s : State) (c : Nat) (x : BzCtx) : (setBz s c x).mem = s.mem := rfl
@[simp] theorem setBz_tenants (s : State) (c : Nat) (x : BzCtx) : (setBz s c x).tenants = s.tenants := rfl
@[simp] theorem setBz_ctxs (s : State) (c : Nat) (x : BzCtx) : (setBz s c x).ctxs = s.ctxs := rfl
@[simp] theorem setBz_queues (s : State) (c : Nat) (x : BzCtx) : (setBz s c x).queues = s.queues := rfl
@[simp] theorem setBz_objs (s : State) (c : Nat) (x : BzCtx) : (setBz s c x).objs = s.objs := rfl
@[simp] theorem setBz_fences (s : State) (c : Nat) (x : BzCtx) : (setBz s c x).fences = s.fences := rfl
@[simp] theorem setBz_bridges (s : State) (c : Nat) (x : BzCtx) : (setBz s c x).bridges = s.bridges := rfl
@[simp] theorem setBz_cmds (s : State) (c : Nat) (x : BzCtx) : (setBz s c x).cmds = s.cmds := rfl
@[simp] theorem setBz_nextCmd (s : State) (c : Nat) (x : BzCtx) : (setBz s c x).nextCmd = s.nextCmd := rfl
@[simp] theorem setBz_cuts (s : State) (c : Nat) (x : BzCtx) : (setBz s c x).cuts = s.cuts := rfl
@[simp] theorem setBz_renders (s : State) (c : Nat) (x : BzCtx) : (setBz s c x).renders = s.renders := rfl
@[simp] theorem setBz_sessions (s : State) (c : Nat) (x : BzCtx) : (setBz s c x).sessions = s.sessions := rfl
@[simp] theorem setBz_lanes (s : State) (c : Nat) (x : BzCtx) : (setBz s c x).lanes = s.lanes := rfl
@[simp] theorem setBz_chipGrants (s : State) (c : Nat) (x : BzCtx) : (setBz s c x).chipGrants = s.chipGrants := rfl
@[simp] theorem setBz_blazeGrants (s : State) (c : Nat) (x : BzCtx) : (setBz s c x).blazeGrants = s.blazeGrants := rfl
@[simp] theorem setBz_engines (s : State) (c : Nat) (x : BzCtx) : (setBz s c x).engines = s.engines := rfl
@[simp] theorem setBz_engCtxs (s : State) (c : Nat) (x : BzCtx) : (setBz s c x).engCtxs = s.engCtxs := rfl
@[simp] theorem setBz_prism (s : State) (c : Nat) (x : BzCtx) : (setBz s c x).prism = s.prism := rfl
@[simp] theorem setBz_sched (s : State) (c : Nat) (x : BzCtx) : (setBz s c x).sched = s.sched := rfl
@[simp] theorem setBz_ranger (s : State) (c : Nat) (x : BzCtx) : (setBz s c x).ranger = s.ranger := rfl
@[simp] theorem setBz_power (s : State) (c : Nat) (x : BzCtx) : (setBz s c x).power = s.power := rfl
@[simp] theorem setBz_objFrees (s : State) (c : Nat) (x : BzCtx) : (setBz s c x).objFrees = s.objFrees := rfl
@[simp] theorem setBz_fenceFrees (s : State) (c : Nat) (x : BzCtx) : (setBz s c x).fenceFrees = s.fenceFrees := rfl
@[simp] theorem setBz_ports (s : State) (c : Nat) (x : BzCtx) : (setBz s c x).ports = s.ports := rfl
@[simp] theorem setBz_channels (s : State) (c : Nat) (x : BzCtx) : (setBz s c x).channels = s.channels := rfl
@[simp] theorem setBz_i3c (s : State) (c : Nat) (x : BzCtx) : (setBz s c x).i3c = s.i3c := rfl
@[simp] theorem setBz_tap (s : State) (c : Nat) (x : BzCtx) : (setBz s c x).tap = s.tap := rfl
@[simp] theorem setBz_sysReset (s : State) (c : Nat) (x : BzCtx) : (setBz s c x).sysReset = s.sysReset := rfl
@[simp] theorem setBz_avail (s : State) (c : Nat) (x : BzCtx) : (setBz s c x).avail = s.avail := rfl
@[simp] theorem setBz_counters (s : State) (c : Nat) (x : BzCtx) : (setBz s c x).counters = s.counters := rfl
@[simp] theorem setBz_out (s : State) (c : Nat) (x : BzCtx) : (setBz s c x).out = s.out := rfl
@[simp] theorem setBz_pending (s : State) (c : Nat) (x : BzCtx) : (setBz s c x).pending = s.pending := rfl
@[simp] theorem setBz_bz (s : State) (c j : Nat) (x : BzCtx) :
    (setBz s c x).bz j = if j = c then x else s.bz j := tget_tset _ _ _ _ _
@[simp] theorem setBz_core (s : State) (c j : Nat) (x : BzCtx) : (setBz s c x).core j = s.core j := rfl
@[simp] theorem setBz_tenant (s : State) (c j : Nat) (x : BzCtx) : (setBz s c x).tenant j = s.tenant j := rfl
@[simp] theorem setBz_ctx (s : State) (c j : Nat) (x : BzCtx) : (setBz s c x).ctx j = s.ctx j := rfl
@[simp] theorem setBz_queue (s : State) (c j : Nat) (x : BzCtx) : (setBz s c x).queue j = s.queue j := rfl
@[simp] theorem setBz_obj (s : State) (c j : Nat) (x : BzCtx) : (setBz s c x).obj j = s.obj j := rfl
@[simp] theorem setBz_fence (s : State) (c j : Nat) (x : BzCtx) : (setBz s c x).fence j = s.fence j := rfl
@[simp] theorem setBz_port (s : State) (c j : Nat) (x : BzCtx) : (setBz s c x).port j = s.port j := rfl
@[simp] theorem setBz_channel (s : State) (c j : Nat) (x : BzCtx) : (setBz s c x).channel j = s.channel j := rfl
@[simp] theorem setBz_eng (s : State) (c j : Nat) (x : BzCtx) : (setBz s c x).eng j = s.eng j := rfl
@[simp] theorem setBz_engCtx (s : State) (c j : Nat) (x : BzCtx) : (setBz s c x).engCtx j = s.engCtx j := rfl

@[simp] theorem State.setMem_fuses (s : State) (m : MemSys) : (s.setMem m).fuses = s.fuses := rfl
@[simp] theorem State.setMem_boot (s : State) (m : MemSys) : (s.setMem m).boot = s.boot := rfl
@[simp] theorem State.setMem_flash (s : State) (m : MemSys) : (s.setMem m).flash = s.flash := rfl
@[simp] theorem State.setMem_cfg (s : State) (m : MemSys) : (s.setMem m).cfg = s.cfg := rfl
@[simp] theorem State.setMem_timer (s : State) (m : MemSys) : (s.setMem m).timer = s.timer := rfl
@[simp] theorem State.setMem_freeTick (s : State) (m : MemSys) : (s.setMem m).freeTick = s.freeTick := rfl
@[simp] theorem State.setMem_maps (s : State) (m : MemSys) : (s.setMem m).maps = s.maps := rfl
@[simp] theorem State.setMem_cores (s : State) (m : MemSys) : (s.setMem m).cores = s.cores := rfl
@[simp] theorem State.setMem_mem (s : State) (m : MemSys) : (s.setMem m).mem = m := rfl
@[simp] theorem State.setMem_tenants (s : State) (m : MemSys) : (s.setMem m).tenants = s.tenants := rfl
@[simp] theorem State.setMem_ctxs (s : State) (m : MemSys) : (s.setMem m).ctxs = s.ctxs := rfl
@[simp] theorem State.setMem_queues (s : State) (m : MemSys) : (s.setMem m).queues = s.queues := rfl
@[simp] theorem State.setMem_objs (s : State) (m : MemSys) : (s.setMem m).objs = s.objs := rfl
@[simp] theorem State.setMem_fences (s : State) (m : MemSys) : (s.setMem m).fences = s.fences := rfl
@[simp] theorem State.setMem_bridges (s : State) (m : MemSys) : (s.setMem m).bridges = s.bridges := rfl
@[simp] theorem State.setMem_cmds (s : State) (m : MemSys) : (s.setMem m).cmds = s.cmds := rfl
@[simp] theorem State.setMem_nextCmd (s : State) (m : MemSys) : (s.setMem m).nextCmd = s.nextCmd := rfl
@[simp] theorem State.setMem_cuts (s : State) (m : MemSys) : (s.setMem m).cuts = s.cuts := rfl
@[simp] theorem State.setMem_renders (s : State) (m : MemSys) : (s.setMem m).renders = s.renders := rfl
@[simp] theorem State.setMem_sessions (s : State) (m : MemSys) : (s.setMem m).sessions = s.sessions := rfl
@[simp] theorem State.setMem_lanes (s : State) (m : MemSys) : (s.setMem m).lanes = s.lanes := rfl
@[simp] theorem State.setMem_chipGrants (s : State) (m : MemSys) : (s.setMem m).chipGrants = s.chipGrants := rfl
@[simp] theorem State.setMem_blazeGrants (s : State) (m : MemSys) : (s.setMem m).blazeGrants = s.blazeGrants := rfl
@[simp] theorem State.setMem_engines (s : State) (m : MemSys) : (s.setMem m).engines = s.engines := rfl
@[simp] theorem State.setMem_engCtxs (s : State) (m : MemSys) : (s.setMem m).engCtxs = s.engCtxs := rfl
@[simp] theorem State.setMem_bzCtxs (s : State) (m : MemSys) : (s.setMem m).bzCtxs = s.bzCtxs := rfl
@[simp] theorem State.setMem_prism (s : State) (m : MemSys) : (s.setMem m).prism = s.prism := rfl
@[simp] theorem State.setMem_sched (s : State) (m : MemSys) : (s.setMem m).sched = s.sched := rfl
@[simp] theorem State.setMem_ranger (s : State) (m : MemSys) : (s.setMem m).ranger = s.ranger := rfl
@[simp] theorem State.setMem_power (s : State) (m : MemSys) : (s.setMem m).power = s.power := rfl
@[simp] theorem State.setMem_objFrees (s : State) (m : MemSys) : (s.setMem m).objFrees = s.objFrees := rfl
@[simp] theorem State.setMem_fenceFrees (s : State) (m : MemSys) : (s.setMem m).fenceFrees = s.fenceFrees := rfl
@[simp] theorem State.setMem_ports (s : State) (m : MemSys) : (s.setMem m).ports = s.ports := rfl
@[simp] theorem State.setMem_channels (s : State) (m : MemSys) : (s.setMem m).channels = s.channels := rfl
@[simp] theorem State.setMem_i3c (s : State) (m : MemSys) : (s.setMem m).i3c = s.i3c := rfl
@[simp] theorem State.setMem_tap (s : State) (m : MemSys) : (s.setMem m).tap = s.tap := rfl
@[simp] theorem State.setMem_sysReset (s : State) (m : MemSys) : (s.setMem m).sysReset = s.sysReset := rfl
@[simp] theorem State.setMem_avail (s : State) (m : MemSys) : (s.setMem m).avail = s.avail := rfl
@[simp] theorem State.setMem_counters (s : State) (m : MemSys) : (s.setMem m).counters = s.counters := rfl
@[simp] theorem State.setMem_out (s : State) (m : MemSys) : (s.setMem m).out = s.out := rfl
@[simp] theorem State.setMem_pending (s : State) (m : MemSys) : (s.setMem m).pending = s.pending := rfl
@[simp] theorem State.setMem_core (s : State) (m : MemSys) (j : Nat) : (s.setMem m).core j = s.core j := rfl
@[simp] theorem State.setMem_tenant (s : State) (m : MemSys) (j : Nat) : (s.setMem m).tenant j = s.tenant j := rfl
@[simp] theorem State.setMem_ctx (s : State) (m : MemSys) (j : Nat) : (s.setMem m).ctx j = s.ctx j := rfl
@[simp] theorem State.setMem_queue (s : State) (m : MemSys) (j : Nat) : (s.setMem m).queue j = s.queue j := rfl
@[simp] theorem State.setMem_obj (s : State) (m : MemSys) (j : Nat) : (s.setMem m).obj j = s.obj j := rfl
@[simp] theorem State.setMem_fence (s : State) (m : MemSys) (j : Nat) : (s.setMem m).fence j = s.fence j := rfl
@[simp] theorem State.setMem_port (s : State) (m : MemSys) (j : Nat) : (s.setMem m).port j = s.port j := rfl
@[simp] theorem State.setMem_channel (s : State) (m : MemSys) (j : Nat) : (s.setMem m).channel j = s.channel j := rfl
@[simp] theorem State.setMem_eng (s : State) (m : MemSys) (j : Nat) : (s.setMem m).eng j = s.eng j := rfl
@[simp] theorem State.setMem_engCtx (s : State) (m : MemSys) (j : Nat) : (s.setMem m).engCtx j = s.engCtx j := rfl
@[simp] theorem State.setMem_bz (s : State) (m : MemSys) (j : Nat) : (s.setMem m).bz j = s.bz j := rfl

/-- A group slot read after a group was written. -/
@[simp] theorem Core.group_setGroup (c : Core) (k j : Nat) (g : Group) :
    (c.setGroup k g).group j = if j = k then g else c.group j := tget_tset _ _ _ _ _
@[simp] theorem Core.wgAt_setGroup (c : Core) (k j : Nat) (g : Group) : (c.setGroup k g).wgAt j = c.wgAt j := rfl
@[simp] theorem Core.group_setWg (c : Core) (k j : Nat) (w : Wg) : (c.setWg k w).group j = c.group j := rfl
@[simp] theorem Core.wgAt_setWg (c : Core) (k j : Nat) (w : Wg) :
    (c.setWg k w).wgAt j = if j = k then w else c.wgAt j := tget_tset _ _ _ _ _
@[simp] theorem State.group_setGroup (s : State) (g h : GroupAt) (x : Group) :
    (s.setGroup g x).group h = if h.core = g.core ∧ h.slot = g.slot then x else s.group h := by
  obtain ⟨c, k, p⟩ := g
  obtain ⟨d, j, q⟩ := h
  simp only [State.setGroup, State.group, State.setCore_core]
  by_cases hc : d = c
  · subst hc; by_cases hj : j = k <;> simp [hj]
  · simp [hc]

/-- Outputs, layers and flip pages. -/
@[simp] theorem State.setOutput_output (s : State) (n j : Nat) (x : Output) :
    (s.setOutput n x).output j = if j = n then x else s.output j := tget_tset _ _ _ _ _
@[simp] theorem State.setPage_page (s : State) (t j : Nat) (x : FlipPage) :
    (s.setPage t x).page j = if j = t then x else s.page j := tget_tset _ _ _ _ _
@[simp] theorem setStand_stand (s : State) (k j : Nat) (x : Stand) :
    (setStand s k x).stand j = if j = k then x else s.stand j := tget_tset _ _ _ _ _
@[simp] theorem State.setOutput_fuses (s : State) (n : Nat) (x : Output) : (s.setOutput n x).fuses = s.fuses := rfl
@[simp] theorem State.setOutput_boot (s : State) (n : Nat) (x : Output) : (s.setOutput n x).boot = s.boot := rfl
@[simp] theorem State.setOutput_flash (s : State) (n : Nat) (x : Output) : (s.setOutput n x).flash = s.flash := rfl
@[simp] theorem State.setOutput_cfg (s : State) (n : Nat) (x : Output) : (s.setOutput n x).cfg = s.cfg := rfl
@[simp] theorem State.setOutput_timer (s : State) (n : Nat) (x : Output) : (s.setOutput n x).timer = s.timer := rfl
@[simp] theorem State.setOutput_freeTick (s : State) (n : Nat) (x : Output) : (s.setOutput n x).freeTick = s.freeTick := rfl
@[simp] theorem State.setOutput_maps (s : State) (n : Nat) (x : Output) : (s.setOutput n x).maps = s.maps := rfl
@[simp] theorem State.setOutput_cores (s : State) (n : Nat) (x : Output) : (s.setOutput n x).cores = s.cores := rfl
@[simp] theorem State.setOutput_mem (s : State) (n : Nat) (x : Output) : (s.setOutput n x).mem = s.mem := rfl
@[simp] theorem State.setOutput_tenants (s : State) (n : Nat) (x : Output) : (s.setOutput n x).tenants = s.tenants := rfl
@[simp] theorem State.setOutput_ctxs (s : State) (n : Nat) (x : Output) : (s.setOutput n x).ctxs = s.ctxs := rfl
@[simp] theorem State.setOutput_queues (s : State) (n : Nat) (x : Output) : (s.setOutput n x).queues = s.queues := rfl
@[simp] theorem State.setOutput_objs (s : State) (n : Nat) (x : Output) : (s.setOutput n x).objs = s.objs := rfl
@[simp] theorem State.setOutput_fences (s : State) (n : Nat) (x : Output) : (s.setOutput n x).fences = s.fences := rfl
@[simp] theorem State.setOutput_bridges (s : State) (n : Nat) (x : Output) : (s.setOutput n x).bridges = s.bridges := rfl
@[simp] theorem State.setOutput_cmds (s : State) (n : Nat) (x : Output) : (s.setOutput n x).cmds = s.cmds := rfl
@[simp] theorem State.setOutput_nextCmd (s : State) (n : Nat) (x : Output) : (s.setOutput n x).nextCmd = s.nextCmd := rfl
@[simp] theorem State.setOutput_cuts (s : State) (n : Nat) (x : Output) : (s.setOutput n x).cuts = s.cuts := rfl
@[simp] theorem State.setOutput_renders (s : State) (n : Nat) (x : Output) : (s.setOutput n x).renders = s.renders := rfl
@[simp] theorem State.setOutput_sessions (s : State) (n : Nat) (x : Output) : (s.setOutput n x).sessions = s.sessions := rfl
@[simp] theorem State.setOutput_lanes (s : State) (n : Nat) (x : Output) : (s.setOutput n x).lanes = s.lanes := rfl
@[simp] theorem State.setOutput_chipGrants (s : State) (n : Nat) (x : Output) : (s.setOutput n x).chipGrants = s.chipGrants := rfl
@[simp] theorem State.setOutput_blazeGrants (s : State) (n : Nat) (x : Output) : (s.setOutput n x).blazeGrants = s.blazeGrants := rfl
@[simp] theorem State.setOutput_engines (s : State) (n : Nat) (x : Output) : (s.setOutput n x).engines = s.engines := rfl
@[simp] theorem State.setOutput_engCtxs (s : State) (n : Nat) (x : Output) : (s.setOutput n x).engCtxs = s.engCtxs := rfl
@[simp] theorem State.setOutput_bzCtxs (s : State) (n : Nat) (x : Output) : (s.setOutput n x).bzCtxs = s.bzCtxs := rfl
@[simp] theorem State.setOutput_sched (s : State) (n : Nat) (x : Output) : (s.setOutput n x).sched = s.sched := rfl
@[simp] theorem State.setOutput_ranger (s : State) (n : Nat) (x : Output) : (s.setOutput n x).ranger = s.ranger := rfl
@[simp] theorem State.setOutput_power (s : State) (n : Nat) (x : Output) : (s.setOutput n x).power = s.power := rfl
@[simp] theorem State.setOutput_objFrees (s : State) (n : Nat) (x : Output) : (s.setOutput n x).objFrees = s.objFrees := rfl
@[simp] theorem State.setOutput_fenceFrees (s : State) (n : Nat) (x : Output) : (s.setOutput n x).fenceFrees = s.fenceFrees := rfl
@[simp] theorem State.setOutput_ports (s : State) (n : Nat) (x : Output) : (s.setOutput n x).ports = s.ports := rfl
@[simp] theorem State.setOutput_channels (s : State) (n : Nat) (x : Output) : (s.setOutput n x).channels = s.channels := rfl
@[simp] theorem State.setOutput_i3c (s : State) (n : Nat) (x : Output) : (s.setOutput n x).i3c = s.i3c := rfl
@[simp] theorem State.setOutput_tap (s : State) (n : Nat) (x : Output) : (s.setOutput n x).tap = s.tap := rfl
@[simp] theorem State.setOutput_sysReset (s : State) (n : Nat) (x : Output) : (s.setOutput n x).sysReset = s.sysReset := rfl
@[simp] theorem State.setOutput_avail (s : State) (n : Nat) (x : Output) : (s.setOutput n x).avail = s.avail := rfl
@[simp] theorem State.setOutput_counters (s : State) (n : Nat) (x : Output) : (s.setOutput n x).counters = s.counters := rfl
@[simp] theorem State.setOutput_out (s : State) (n : Nat) (x : Output) : (s.setOutput n x).out = s.out := rfl
@[simp] theorem State.setOutput_pending (s : State) (n : Nat) (x : Output) : (s.setOutput n x).pending = s.pending := rfl
@[simp] theorem State.setOutput_core (s : State) (n : Nat) (x : Output) (j : Nat) : (s.setOutput n x).core j = s.core j := rfl
@[simp] theorem State.setOutput_tenant (s : State) (n : Nat) (x : Output) (j : Nat) : (s.setOutput n x).tenant j = s.tenant j := rfl
@[simp] theorem State.setOutput_ctx (s : State) (n : Nat) (x : Output) (j : Nat) : (s.setOutput n x).ctx j = s.ctx j := rfl
@[simp] theorem State.setOutput_queue (s : State) (n : Nat) (x : Output) (j : Nat) : (s.setOutput n x).queue j = s.queue j := rfl
@[simp] theorem State.setOutput_obj (s : State) (n : Nat) (x : Output) (j : Nat) : (s.setOutput n x).obj j = s.obj j := rfl
@[simp] theorem State.setOutput_fence (s : State) (n : Nat) (x : Output) (j : Nat) : (s.setOutput n x).fence j = s.fence j := rfl
@[simp] theorem State.setOutput_port (s : State) (n : Nat) (x : Output) (j : Nat) : (s.setOutput n x).port j = s.port j := rfl
@[simp] theorem State.setOutput_channel (s : State) (n : Nat) (x : Output) (j : Nat) : (s.setOutput n x).channel j = s.channel j := rfl
@[simp] theorem State.setOutput_eng (s : State) (n : Nat) (x : Output) (j : Nat) : (s.setOutput n x).eng j = s.eng j := rfl
@[simp] theorem State.setOutput_engCtx (s : State) (n : Nat) (x : Output) (j : Nat) : (s.setOutput n x).engCtx j = s.engCtx j := rfl
@[simp] theorem State.setOutput_bz (s : State) (n : Nat) (x : Output) (j : Nat) : (s.setOutput n x).bz j = s.bz j := rfl
@[simp] theorem State.setPage_fuses (s : State) (t : Nat) (x : FlipPage) : (s.setPage t x).fuses = s.fuses := rfl
@[simp] theorem State.setPage_boot (s : State) (t : Nat) (x : FlipPage) : (s.setPage t x).boot = s.boot := rfl
@[simp] theorem State.setPage_flash (s : State) (t : Nat) (x : FlipPage) : (s.setPage t x).flash = s.flash := rfl
@[simp] theorem State.setPage_cfg (s : State) (t : Nat) (x : FlipPage) : (s.setPage t x).cfg = s.cfg := rfl
@[simp] theorem State.setPage_timer (s : State) (t : Nat) (x : FlipPage) : (s.setPage t x).timer = s.timer := rfl
@[simp] theorem State.setPage_freeTick (s : State) (t : Nat) (x : FlipPage) : (s.setPage t x).freeTick = s.freeTick := rfl
@[simp] theorem State.setPage_maps (s : State) (t : Nat) (x : FlipPage) : (s.setPage t x).maps = s.maps := rfl
@[simp] theorem State.setPage_cores (s : State) (t : Nat) (x : FlipPage) : (s.setPage t x).cores = s.cores := rfl
@[simp] theorem State.setPage_mem (s : State) (t : Nat) (x : FlipPage) : (s.setPage t x).mem = s.mem := rfl
@[simp] theorem State.setPage_tenants (s : State) (t : Nat) (x : FlipPage) : (s.setPage t x).tenants = s.tenants := rfl
@[simp] theorem State.setPage_ctxs (s : State) (t : Nat) (x : FlipPage) : (s.setPage t x).ctxs = s.ctxs := rfl
@[simp] theorem State.setPage_queues (s : State) (t : Nat) (x : FlipPage) : (s.setPage t x).queues = s.queues := rfl
@[simp] theorem State.setPage_objs (s : State) (t : Nat) (x : FlipPage) : (s.setPage t x).objs = s.objs := rfl
@[simp] theorem State.setPage_fences (s : State) (t : Nat) (x : FlipPage) : (s.setPage t x).fences = s.fences := rfl
@[simp] theorem State.setPage_bridges (s : State) (t : Nat) (x : FlipPage) : (s.setPage t x).bridges = s.bridges := rfl
@[simp] theorem State.setPage_cmds (s : State) (t : Nat) (x : FlipPage) : (s.setPage t x).cmds = s.cmds := rfl
@[simp] theorem State.setPage_nextCmd (s : State) (t : Nat) (x : FlipPage) : (s.setPage t x).nextCmd = s.nextCmd := rfl
@[simp] theorem State.setPage_cuts (s : State) (t : Nat) (x : FlipPage) : (s.setPage t x).cuts = s.cuts := rfl
@[simp] theorem State.setPage_renders (s : State) (t : Nat) (x : FlipPage) : (s.setPage t x).renders = s.renders := rfl
@[simp] theorem State.setPage_sessions (s : State) (t : Nat) (x : FlipPage) : (s.setPage t x).sessions = s.sessions := rfl
@[simp] theorem State.setPage_lanes (s : State) (t : Nat) (x : FlipPage) : (s.setPage t x).lanes = s.lanes := rfl
@[simp] theorem State.setPage_chipGrants (s : State) (t : Nat) (x : FlipPage) : (s.setPage t x).chipGrants = s.chipGrants := rfl
@[simp] theorem State.setPage_blazeGrants (s : State) (t : Nat) (x : FlipPage) : (s.setPage t x).blazeGrants = s.blazeGrants := rfl
@[simp] theorem State.setPage_engines (s : State) (t : Nat) (x : FlipPage) : (s.setPage t x).engines = s.engines := rfl
@[simp] theorem State.setPage_engCtxs (s : State) (t : Nat) (x : FlipPage) : (s.setPage t x).engCtxs = s.engCtxs := rfl
@[simp] theorem State.setPage_bzCtxs (s : State) (t : Nat) (x : FlipPage) : (s.setPage t x).bzCtxs = s.bzCtxs := rfl
@[simp] theorem State.setPage_sched (s : State) (t : Nat) (x : FlipPage) : (s.setPage t x).sched = s.sched := rfl
@[simp] theorem State.setPage_ranger (s : State) (t : Nat) (x : FlipPage) : (s.setPage t x).ranger = s.ranger := rfl
@[simp] theorem State.setPage_power (s : State) (t : Nat) (x : FlipPage) : (s.setPage t x).power = s.power := rfl
@[simp] theorem State.setPage_objFrees (s : State) (t : Nat) (x : FlipPage) : (s.setPage t x).objFrees = s.objFrees := rfl
@[simp] theorem State.setPage_fenceFrees (s : State) (t : Nat) (x : FlipPage) : (s.setPage t x).fenceFrees = s.fenceFrees := rfl
@[simp] theorem State.setPage_ports (s : State) (t : Nat) (x : FlipPage) : (s.setPage t x).ports = s.ports := rfl
@[simp] theorem State.setPage_channels (s : State) (t : Nat) (x : FlipPage) : (s.setPage t x).channels = s.channels := rfl
@[simp] theorem State.setPage_i3c (s : State) (t : Nat) (x : FlipPage) : (s.setPage t x).i3c = s.i3c := rfl
@[simp] theorem State.setPage_tap (s : State) (t : Nat) (x : FlipPage) : (s.setPage t x).tap = s.tap := rfl
@[simp] theorem State.setPage_sysReset (s : State) (t : Nat) (x : FlipPage) : (s.setPage t x).sysReset = s.sysReset := rfl
@[simp] theorem State.setPage_avail (s : State) (t : Nat) (x : FlipPage) : (s.setPage t x).avail = s.avail := rfl
@[simp] theorem State.setPage_counters (s : State) (t : Nat) (x : FlipPage) : (s.setPage t x).counters = s.counters := rfl
@[simp] theorem State.setPage_out (s : State) (t : Nat) (x : FlipPage) : (s.setPage t x).out = s.out := rfl
@[simp] theorem State.setPage_pending (s : State) (t : Nat) (x : FlipPage) : (s.setPage t x).pending = s.pending := rfl
@[simp] theorem State.setPage_core (s : State) (t : Nat) (x : FlipPage) (j : Nat) : (s.setPage t x).core j = s.core j := rfl
@[simp] theorem State.setPage_tenant (s : State) (t : Nat) (x : FlipPage) (j : Nat) : (s.setPage t x).tenant j = s.tenant j := rfl
@[simp] theorem State.setPage_ctx (s : State) (t : Nat) (x : FlipPage) (j : Nat) : (s.setPage t x).ctx j = s.ctx j := rfl
@[simp] theorem State.setPage_queue (s : State) (t : Nat) (x : FlipPage) (j : Nat) : (s.setPage t x).queue j = s.queue j := rfl
@[simp] theorem State.setPage_obj (s : State) (t : Nat) (x : FlipPage) (j : Nat) : (s.setPage t x).obj j = s.obj j := rfl
@[simp] theorem State.setPage_fence (s : State) (t : Nat) (x : FlipPage) (j : Nat) : (s.setPage t x).fence j = s.fence j := rfl
@[simp] theorem State.setPage_port (s : State) (t : Nat) (x : FlipPage) (j : Nat) : (s.setPage t x).port j = s.port j := rfl
@[simp] theorem State.setPage_channel (s : State) (t : Nat) (x : FlipPage) (j : Nat) : (s.setPage t x).channel j = s.channel j := rfl
@[simp] theorem State.setPage_eng (s : State) (t : Nat) (x : FlipPage) (j : Nat) : (s.setPage t x).eng j = s.eng j := rfl
@[simp] theorem State.setPage_engCtx (s : State) (t : Nat) (x : FlipPage) (j : Nat) : (s.setPage t x).engCtx j = s.engCtx j := rfl
@[simp] theorem State.setPage_bz (s : State) (t : Nat) (x : FlipPage) (j : Nat) : (s.setPage t x).bz j = s.bz j := rfl
@[simp] theorem setStand_fuses (s : State) (k : Nat) (x : Stand) : (setStand s k x).fuses = s.fuses := rfl
@[simp] theorem setStand_boot (s : State) (k : Nat) (x : Stand) : (setStand s k x).boot = s.boot := rfl
@[simp] theorem setStand_flash (s : State) (k : Nat) (x : Stand) : (setStand s k x).flash = s.flash := rfl
@[simp] theorem setStand_cfg (s : State) (k : Nat) (x : Stand) : (setStand s k x).cfg = s.cfg := rfl
@[simp] theorem setStand_timer (s : State) (k : Nat) (x : Stand) : (setStand s k x).timer = s.timer := rfl
@[simp] theorem setStand_freeTick (s : State) (k : Nat) (x : Stand) : (setStand s k x).freeTick = s.freeTick := rfl
@[simp] theorem setStand_maps (s : State) (k : Nat) (x : Stand) : (setStand s k x).maps = s.maps := rfl
@[simp] theorem setStand_cores (s : State) (k : Nat) (x : Stand) : (setStand s k x).cores = s.cores := rfl
@[simp] theorem setStand_mem (s : State) (k : Nat) (x : Stand) : (setStand s k x).mem = s.mem := rfl
@[simp] theorem setStand_tenants (s : State) (k : Nat) (x : Stand) : (setStand s k x).tenants = s.tenants := rfl
@[simp] theorem setStand_ctxs (s : State) (k : Nat) (x : Stand) : (setStand s k x).ctxs = s.ctxs := rfl
@[simp] theorem setStand_queues (s : State) (k : Nat) (x : Stand) : (setStand s k x).queues = s.queues := rfl
@[simp] theorem setStand_objs (s : State) (k : Nat) (x : Stand) : (setStand s k x).objs = s.objs := rfl
@[simp] theorem setStand_fences (s : State) (k : Nat) (x : Stand) : (setStand s k x).fences = s.fences := rfl
@[simp] theorem setStand_bridges (s : State) (k : Nat) (x : Stand) : (setStand s k x).bridges = s.bridges := rfl
@[simp] theorem setStand_cmds (s : State) (k : Nat) (x : Stand) : (setStand s k x).cmds = s.cmds := rfl
@[simp] theorem setStand_nextCmd (s : State) (k : Nat) (x : Stand) : (setStand s k x).nextCmd = s.nextCmd := rfl
@[simp] theorem setStand_cuts (s : State) (k : Nat) (x : Stand) : (setStand s k x).cuts = s.cuts := rfl
@[simp] theorem setStand_renders (s : State) (k : Nat) (x : Stand) : (setStand s k x).renders = s.renders := rfl
@[simp] theorem setStand_sessions (s : State) (k : Nat) (x : Stand) : (setStand s k x).sessions = s.sessions := rfl
@[simp] theorem setStand_lanes (s : State) (k : Nat) (x : Stand) : (setStand s k x).lanes = s.lanes := rfl
@[simp] theorem setStand_chipGrants (s : State) (k : Nat) (x : Stand) : (setStand s k x).chipGrants = s.chipGrants := rfl
@[simp] theorem setStand_blazeGrants (s : State) (k : Nat) (x : Stand) : (setStand s k x).blazeGrants = s.blazeGrants := rfl
@[simp] theorem setStand_engines (s : State) (k : Nat) (x : Stand) : (setStand s k x).engines = s.engines := rfl
@[simp] theorem setStand_engCtxs (s : State) (k : Nat) (x : Stand) : (setStand s k x).engCtxs = s.engCtxs := rfl
@[simp] theorem setStand_bzCtxs (s : State) (k : Nat) (x : Stand) : (setStand s k x).bzCtxs = s.bzCtxs := rfl
@[simp] theorem setStand_prism (s : State) (k : Nat) (x : Stand) : (setStand s k x).prism = s.prism := rfl
@[simp] theorem setStand_sched (s : State) (k : Nat) (x : Stand) : (setStand s k x).sched = s.sched := rfl
@[simp] theorem setStand_ranger (s : State) (k : Nat) (x : Stand) : (setStand s k x).ranger = s.ranger := rfl
@[simp] theorem setStand_objFrees (s : State) (k : Nat) (x : Stand) : (setStand s k x).objFrees = s.objFrees := rfl
@[simp] theorem setStand_fenceFrees (s : State) (k : Nat) (x : Stand) : (setStand s k x).fenceFrees = s.fenceFrees := rfl
@[simp] theorem setStand_ports (s : State) (k : Nat) (x : Stand) : (setStand s k x).ports = s.ports := rfl
@[simp] theorem setStand_channels (s : State) (k : Nat) (x : Stand) : (setStand s k x).channels = s.channels := rfl
@[simp] theorem setStand_i3c (s : State) (k : Nat) (x : Stand) : (setStand s k x).i3c = s.i3c := rfl
@[simp] theorem setStand_tap (s : State) (k : Nat) (x : Stand) : (setStand s k x).tap = s.tap := rfl
@[simp] theorem setStand_sysReset (s : State) (k : Nat) (x : Stand) : (setStand s k x).sysReset = s.sysReset := rfl
@[simp] theorem setStand_avail (s : State) (k : Nat) (x : Stand) : (setStand s k x).avail = s.avail := rfl
@[simp] theorem setStand_counters (s : State) (k : Nat) (x : Stand) : (setStand s k x).counters = s.counters := rfl
@[simp] theorem setStand_out (s : State) (k : Nat) (x : Stand) : (setStand s k x).out = s.out := rfl
@[simp] theorem setStand_pending (s : State) (k : Nat) (x : Stand) : (setStand s k x).pending = s.pending := rfl

end Sys2Proof.Machine
end

