-- ==== Sys2Proof/Laws/Issue.lean ====
section
/-! SUPPORT. What issuing an instruction of a group does: counting the issue, and the frame of an instruction that acts
on its group alone. -/

namespace Sys2Proof.Machine

/-- Writing a group back keeps every other core. -/
theorem setGroup_core_ne (s : State) (g : GroupAt) (x : Group) (k : Nat) (h : k ≠ g.core) :
    (s.setGroup g x).core k = s.core k := by simp [State.setGroup, h]

theorem bump_core (s : State) (u o k : Nat) : (bump s u o).core k = s.core k := by
  simp only [State.core, bump_cores]

/-- Counting an issue changes no core but the group's own: the pipeline's turn and the promotion. -/
theorem countIssue_core_ne (s : State) (g : GroupAt) (k : Nat) (h : k ≠ g.core) : (countIssue s g).core k = s.core k := by
  unfold countIssue
  extract_lets x c s0 s1
  have h0 : s0.core k = s.core k := by simp [s0, h]
  have h1 : s1.core k = s.core k := (bump_core _ _ _ _).trans h0
  split
  · rw [bump_core, setGroup_core_ne _ _ _ _ h, h1]
  · exact h1

theorem countIssue_core (s : State) (g : GroupAt) : ∃ c, c = { s.core g.core with lastSlot := c.lastSlot } ∧
    ((countIssue s g).core g.core = c ∨
      (countIssue s g).core g.core = c.setGroup g.slot { s.group g with promoted := false }) := by
  refine ⟨{ s.core g.core with lastSlot := tset (s.core g.core).lastSlot (2 * (g.slot / 16) + b2n (s.group g).async) (g.slot % 16) },
    rfl, ?_⟩
  unfold countIssue
  extract_lets x c s0 s1
  have h1 : s1.core g.core = { c with lastSlot := tset c.lastSlot (2 * (g.slot / 16) + b2n x.async) (g.slot % 16) } :=
    (bump_core _ _ _ _).trans (by simp [s0])
  have hg : s1.group g = x := by simp only [State.group, h1]; rfl
  by_cases hp : x.promoted = true
  · right
    have e : (s1.setGroup g { s1.group g with promoted := false }).core g.core =
        (s1.core g.core).setGroup g.slot { s1.group g with promoted := false } := by simp [State.setGroup]
    rw [if_pos hp, bump_core]
    exact e.trans (by rw [h1, hg])
  · left
    rw [if_neg hp]
    exact h1

/-- Register words healed: only the list of bad words differs. -/
theorem healRegs_eq (c : Core) (k : Nat) (rs : List Nat) (m : Mask) : healRegs c k rs m = { c with badReg := (healRegs c k rs m).badReg } := by
  unfold healRegs
  split <;> rfl

/-- A group that passes the checks of its issue is ready. -/
theorem issueCheck_ready (s s1 : State) (g : GroupAt) (code : List Nat) (h : issueCheck s g code = .go s1) : groupReady s g = true := by
  unfold issueCheck issueWith at h
  by_cases hr : groupReady s g = true
  · exact hr
  · simp [hr] at h

/-- A ready group's command is not one that issues in the cycle of a stop (R94, R95). -/
theorem inCycle_ready (s : State) (g : GroupAt) (f : State → State) (h : groupReady s g = true) : inCycle s g f = f s := by
  simp [inCycle, h]

/-- The frame of an instruction that acts on its group alone and completes with the group `y`. -/
theorem stepGroup_go (s s1 : State) (g : GroupAt) (h : Head) (code rd wr : List Nat) (f : Prog → Group → Except Nat Group)
    (y : Group) (hi : issueCheck s g code = .go s1) (hf : f (groupProg s1 g) (s1.group g) = .ok y)
    (hb : badRead (s1.core g.core) g.slot rd ((s1.group g).guard h) = false) :
    (stepGroup s g h code rd wr f).group g = { y with promoted := false } ∧ OnlyGroup s1 (stepGroup s g h code rd wr f) g := by
  have e : stepGroup s g h code rd wr f = (countIssue s1 g).setCore g.core
      ((healRegs ((countIssue s1 g).core g.core) g.slot wr ((s1.group g).guard h)).setGroup g.slot { y with promoted := false }) := by
    simp [stepGroup, inCycle_ready _ _ _ (issueCheck_ready _ _ _ _ hi), hi, hf, hb]
  rw [e]
  refine ⟨by simp [State.group], rfl, fun k hk => by simp [hk, countIssue_core_ne _ _ _ hk], ?_, fun j hj => ?_⟩
  · simp only [State.setCore_core, if_true, Core.setGroup]
    rw [healRegs_eq]
    obtain ⟨c, e, hc | hc⟩ := countIssue_core s1 g <;> rw [hc, e]
    rfl
  · simp only [State.setCore_core, if_true, Core.group_setGroup, if_neg hj]
    rw [healRegs_eq]
    obtain ⟨c, e, hc | hc⟩ := countIssue_core s1 g <;> rw [hc]
    · rw [e]; rfl
    · refine (Core.group_setGroup _ _ _ _).trans ((if_neg hj).trans ?_)
      rw [e]; rfl

end Sys2Proof.Machine
end

