-- ==== Sys2Proof/Laws/Keeps.lean ====
section
/-! SUPPORT. The frame that every command but the two that blow fuses keeps: the fuses, the queue of waiting commands,
the canonical form of the memories and the range of the counters. -/

namespace Sys2Proof.Machine

/-- The state `s` follows from `s0` without a change of fuses or of the queue, and the memories keep their form. -/
def Keeps (s0 s : State) : Prop :=
  FuseLe s0.fuses s.fuses ∧ s.pending = s0.pending ∧
    (OkOf s0.mem.dram s0.mem.host s0.flash s0.counters → OkOf s.mem.dram s.mem.host s.flash s.counters)

variable {s0 : State}

theorem keeps_foldl {α} (l : List α) (f : State → α → State) (s : State) (h : ∀ s x, Keeps s0 s → Keeps s0 (f s x))
    (hs : Keeps s0 s) : Keeps s0 (l.foldl f s) := by
  induction l generalizing s with
  | nil => exact hs
  | cons a l ih => exact ih _ (h _ _ hs)
theorem keeps_foldl_fst {α β} (l : List α) (f : State × β → α → State × β) (s : State × β)
    (h : ∀ s x, Keeps s0 s.1 → Keeps s0 (f s x).1) (hs : Keeps s0 s.1) : Keeps s0 (l.foldl f s).1 := by
  induction l generalizing s with
  | nil => exact hs
  | cons a l ih => exact ih _ (h _ _ hs)
theorem keeps_foldl_snd {α β} (l : List α) (f : β × State → α → β × State) (s : β × State)
    (h : ∀ s x, Keeps s0 s.2 → Keeps s0 (f s x).2) (hs : Keeps s0 s.2) : Keeps s0 (l.foldl f s).2 := by
  induction l generalizing s with
  | nil => exact hs
  | cons a l ih => exact ih _ (h _ _ hs)

theorem FuseLe.refl (f : Fuses) : FuseLe f f :=
  ⟨rfl, rfl, rfl, rfl, rfl, rfl, fun h => ⟨h, rfl⟩, id, fun i _ => by simp⟩

theorem FuseLe.trans {f g h : Fuses} (a : FuseLe f g) (b : FuseLe g h) : FuseLe f h :=
  ⟨b.coreMap.trans a.coreMap, b.grade.trans a.grade, b.tempGrade.trans a.tempGrade, b.stepping.trans a.stepping,
    b.vendorId.trans a.vendorId, b.pid.trans a.pid,
    fun k => ⟨(b.secureBoot (a.secureBoot k).1).1, (b.secureBoot (a.secureBoot k).1).2.trans (a.secureBoot k).2⟩,
    fun k => b.scorched (a.scorched k), fun i hi => by
      have h1 := a.keyHash i hi
      have h2 := b.keyHash i hi
      apply BitVec.eq_of_getLsbD_eq
      intro k hk
      have h3 := congrArg (fun x => x.getLsbD k) h1
      have h4 := congrArg (fun x => x.getLsbD k) h2
      simp at h3 h4 ⊢
      grind⟩

theorem keeps_fst {β : Type} {p : State × β} {s : State} {b : β} (e : p = (s, b)) (h : Keeps s0 p.1) : Keeps s0 s := by
  subst e; exact h
theorem keeps_snd {β : Type} {p : β × State} {s : State} {b : β} (e : p = (b, s)) (h : Keeps s0 p.2) : Keeps s0 s := by
  subst e; exact h
theorem keeps_snd3 {β γ : Type} {p : β × State × γ} {s : State} {b : β} {c : γ} (e : p = (b, s, c)) (h : Keeps s0 p.2.1) :
    Keeps s0 s := by
  subst e; exact h

/-- Changes of fields that Keeps does not speak of. -/
theorem keeps_mk (s : State) (boot : Boot) (cfg : Cfg) (timer : Nat) (freeTick : Nat) (maps : Maps) (cores : Tbl Core) (mem : MemSys) (tenants : Tbl Tenant) (ctxs : Tbl Ctx) (queues : Tbl Queue) (objs : Tbl Obj) (fences : Tbl Fence) (bridges : Tbl Bridge) (cmds : Tbl Cmd) (nextCmd : Nat) (cuts : Tbl CutPass) (renders : Tbl RenderPass) (sessions : Tbl Session) (lanes : Tbl ChunkJob) (chipGrants : Tbl (Nat × Nat)) (blazeGrants : Tbl Nat) (engines : Tbl Engine) (engCtxs : Tbl EngCtx) (bzCtxs : Tbl BzCtx) (prism : Prism) (sched : Sched) (ranger : Ranger) (power : Power) (objFrees : Nat) (fenceFrees : Nat) (ports : Tbl Port) (channels : Tbl Channel) (i3c : I3c) (tap : TapInstr) (sysReset : Bool) (avail : Avail) (out : List Out)
    (hd : mem.dram = s.mem.dram) (hh : mem.host = s.mem.host) (h : Keeps s0 s) : Keeps s0 { fuses := s.fuses, boot := boot, flash := s.flash, cfg := cfg, timer := timer, freeTick := freeTick, maps := maps, cores := cores, mem := mem, tenants := tenants, ctxs := ctxs, queues := queues, objs := objs, fences := fences, bridges := bridges, cmds := cmds, nextCmd := nextCmd, cuts := cuts, renders := renders, sessions := sessions, lanes := lanes, chipGrants := chipGrants, blazeGrants := blazeGrants, engines := engines, engCtxs := engCtxs, bzCtxs := bzCtxs, prism := prism, sched := sched, ranger := ranger, power := power, objFrees := objFrees, fenceFrees := fenceFrees, ports := ports, channels := channels, i3c := i3c, tap := tap, sysReset := sysReset, avail := avail, counters := s.counters, out := out, pending := s.pending } := by
  refine ⟨h.1, h.2.1, fun k => ?_⟩
  have o := h.2.2 k
  exact ⟨hd ▸ o.dram, hh ▸ o.host, o.flash, o.counters⟩

theorem keeps_ite {p : Prop} [Decidable p] {a b : State} (ha : Keeps s0 a) (hb : Keeps s0 b) : Keeps s0 (if p then a else b) := by
  split
  · exact ha
  · exact hb

theorem keeps_elim {α : Type} (o : Option α) (s : State) (f : α → State) (hf : ∀ x, Keeps s0 (f x)) (h_s : Keeps s0 s) :
    Keeps s0 (o.elim s f) := by
  cases o with
  | none => exact h_s
  | some x => exact hf x

theorem Keeps.refl (s : State) : Keeps s s := ⟨FuseLe.refl _, rfl, id⟩

theorem keeps_dram (s : State) (m : MemSys) (hd : s.mem.dram.wf = true → m.dram.wf = true) (hh : m.host = s.mem.host) (h_s : Keeps s0 s) : Keeps s0 (State.setMem s m) :=
  ⟨h_s.1, h_s.2.1, fun k => have o := h_s.2.2 k; ⟨hd o.dram, fun p => by simpa [State.setMem, hh] using o.host p, o.flash, o.counters⟩⟩
theorem keeps_hostMem (s : State) (p : Nat) (m : Mem) (hm : (s.hostMem p).wf = true → m.wf = true) (h_s : Keeps s0 s) : Keeps s0 (s.setMem { s.mem with host := tset s.mem.host p m }) :=
  ⟨h_s.1, h_s.2.1, fun k => have o := h_s.2.2 k; ⟨o.dram, fun q => by
    simp only [State.setMem, tget_tset]
    split
    · exact hm (o.host p)
    · exact o.host q, o.flash, o.counters⟩⟩
theorem keeps_flash (s : State) (m : Mem) (hm : s.flash.wf = true → m.wf = true) (h_s : Keeps s0 s) : Keeps s0 { s with flash := m } :=
  ⟨h_s.1, h_s.2.1, fun k => have o := h_s.2.2 k; ⟨o.dram, o.host, hm o.flash, o.counters⟩⟩
theorem keeps_counters (s : State) (t : Tbl Nat) (ht : ∀ k, tget s.counters k 0 ≤ counterMax → tget t k 0 ≤ counterMax) (h_s : Keeps s0 s) : Keeps s0 { s with counters := t } :=
  ⟨h_s.1, h_s.2.1, fun k => have o := h_s.2.2 k; ⟨o.dram, o.host, o.flash, fun j => ht j (o.counters j)⟩⟩

end Sys2Proof.Machine
end

