-- ==== Sys2Proof/Laws/Keeps1.lean ====
section
/-! SUPPORT. What the operations and commands of Ops, Translate, Session, Finals, Cascade, Access, Flash, Shader keep (see Keeps). -/

namespace Sys2Proof.Machine
variable {s0 : State}

theorem keeps_State_setCore (s : State) (k : Nat) (c : Core) (h_s : Keeps s0 s) : Keeps s0 (State.setCore s k c) := by
  grind -ring -linarith -lia -ac [State.setCore, Keeps]
theorem keeps_State_setGroup (s : State) (g : GroupAt) (x : Group) (h_s : Keeps s0 s) : Keeps s0 (State.setGroup s g x) := h_s
theorem keeps_State_setTenant (s : State) (t : Nat) (x : Tenant) (h_s : Keeps s0 s) : Keeps s0 (State.setTenant s t x) := by
  grind -ring -linarith -lia -ac [State.setTenant, Keeps]
theorem keeps_State_setCtx (s : State) (c : Nat) (x : Ctx) (h_s : Keeps s0 s) : Keeps s0 (State.setCtx s c x) := by
  grind -ring -linarith -lia -ac [State.setCtx, Keeps]
theorem keeps_State_setQueue (s : State) (q : Nat) (x : Queue) (h_s : Keeps s0 s) : Keeps s0 (State.setQueue s q x) := by
  grind -ring -linarith -lia -ac [State.setQueue, Keeps]
theorem keeps_State_setObj (s : State) (o : Nat) (x : Obj) (h_s : Keeps s0 s) : Keeps s0 (State.setObj s o x) := by
  grind -ring -linarith -lia -ac [State.setObj, Keeps]
theorem keeps_State_setFence (s : State) (f : Nat) (x : Fence) (h_s : Keeps s0 s) : Keeps s0 (State.setFence s f x) := by
  grind -ring -linarith -lia -ac [State.setFence, Keeps]
theorem keeps_State_setPort (s : State) (p : Nat) (x : Port) (h_s : Keeps s0 s) : Keeps s0 (State.setPort s p x) := by
  grind -ring -linarith -lia -ac [State.setPort, Keeps]
theorem keeps_State_setChannel (s : State) (c : Nat) (x : Channel) (h_s : Keeps s0 s) : Keeps s0 (State.setChannel s c x) := by
  grind -ring -linarith -lia -ac [State.setChannel, Keeps]
theorem keeps_State_setMem (s : State) (m : MemSys) (hd : m.dram = s.mem.dram) (hh : m.host = s.mem.host) (h_s : Keeps s0 s) : Keeps s0 (State.setMem s m) := by
  grind [Keeps, State.setMem]
theorem keeps_logTenant (s : State) (t : Nat) (r : LogRec) (h_s : Keeps s0 s) : Keeps s0 (logTenant s t r) := by
  grind -ring -linarith -lia -ac [logTenant, keeps_State_setTenant]
theorem keeps_logPlain (s : State) (t : Nat) (kind : Nat) (off : Nat) (h_s : Keeps s0 s) : Keeps s0 (logPlain s t kind off) := by
  grind -ring -linarith -lia -ac [logPlain, keeps_logTenant]
theorem keeps_sendMsix (s : State) (p : Nat) (v : Nat) (h_s : Keeps s0 s) : Keeps s0 (sendMsix s p v) := by
  grind -ring -linarith -lia -ac [sendMsix, keeps_State_setPort, Keeps]
theorem keeps_notifyTenant (s : State) (t : Nat) (v : Nat) (h_s : Keeps s0 s) : Keeps s0 (notifyTenant s t v) := by
  grind -ring -linarith -lia -ac [notifyTenant, keeps_logPlain, keeps_sendMsix]
theorem keeps_raiseIbi (s : State) (kind : Nat) (payload : List Byte) (h_s : Keeps s0 s) : Keeps s0 (raiseIbi s kind payload) := by
  grind -ring -linarith -lia -ac [raiseIbi, Keeps]
theorem keeps_postRecord (s : State) (ch : Nat) (seq : Nat) (status : Nat) (detail : Nat) (tag : Nat) (flags : Nat) (payload : List Byte) (h_s : Keeps s0 s) : Keeps s0 (postRecord s ch seq status detail tag flags payload) := by
  unfold postRecord
  extract_lets c s1
  have h1 : Keeps s0 s1 := keeps_State_setChannel _ _ _ h_s
  split
  · exact h1
  · split
    · exact keeps_raiseIbi _ _ _ h1
    · exact keeps_notifyTenant _ _ _ h1
theorem keeps_postEventOn (s : State) (ch : Nat) (code : Nat) (payload : List Byte) (h_s : Keeps s0 s) : Keeps s0 (postEventOn s ch code payload) := by
  unfold postEventOn
  extract_lets
  (repeat' split) <;> grind -ring -linarith -lia -ac [keeps_State_setChannel, keeps_postRecord]
theorem keeps_postEvent (s : State) (code : Nat) (unit : Nat) (arg0 : Nat) (arg1 : Nat) (h_s : Keeps s0 s) : Keeps s0 (postEvent s code unit arg0 arg1) := by
  grind -ring -linarith -lia -ac [postEvent, keeps_foldl, keeps_foldl_fst, keeps_foldl_snd, keeps_postEventOn]
theorem keeps_bumpBy (s : State) (unit : Nat) (off : Nat) (n : Nat) (h_s : Keeps s0 s) : Keeps s0 (bumpBy s unit off n) := by
  have hc : Keeps s0 { s with counters := tset s.counters (counterKey unit off) (min (s.counter unit off + n) counterMax) } := by
    refine keeps_counters s _ (fun k hk => ?_) h_s
    rw [tget_tset]
    split
    · exact Nat.min_le_right _ _
    · exact hk
  unfold bumpBy
  dsimp only
  split
  · exact keeps_postEvent _ _ _ _ _ hc
  · exact hc
theorem keeps_bump (s : State) (unit : Nat) (off : Nat) (h_s : Keeps s0 s) : Keeps s0 (bump s unit off) := by
  grind -ring -linarith -lia -ac [bump, keeps_bumpBy]
theorem keeps_clearCounters (s : State) (unit : Nat) (h_s : Keeps s0 s) : Keeps s0 (clearCounters s unit) := by
  refine keeps_counters s _ (fun k hk => ?_) h_s
  rw [tget_tdrop]
  split
  · exact Nat.zero_le _
  · exact hk
theorem keeps_recordError (s : State) (kind : Nat) (unit : Nat) (cls : Nat) (loc : Nat) (h_s : Keeps s0 s) : Keeps s0 (recordError s kind unit cls loc) := by
  grind -ring -linarith -lia -ac [recordError, keeps_raiseIbi, Keeps]
theorem keeps_addDue (s : State) (u : Nat) (h_s : Keeps s0 s) : Keeps s0 (addDue s u) := by
  grind -ring -linarith -lia -ac [addDue, Keeps]
theorem keeps_addTest (s : State) (u : Nat) (h_s : Keeps s0 s) : Keeps s0 (addTest s u) := by
  grind -ring -linarith -lia -ac [addTest, Keeps]
theorem keeps_checkRetire (s : State) (unit : Nat) (kind : Nat) (uncorr : Bool) (h_s : Keeps s0 s) : Keeps s0 (checkRetire s unit kind uncorr) := by
  grind -ring -linarith -lia -ac [checkRetire, keeps_addDue, keeps_addTest]
theorem keeps_countError (s : State) (unit : Nat) (kind : Nat) (uncorr : Bool) (h_s : Keeps s0 s) : Keeps s0 (countError s unit kind uncorr) := by
  grind -ring -linarith -lia -ac [countError, keeps_checkRetire, Keeps]
theorem keeps_sawPoison (s : State) (h_s : Keeps s0 s) : Keeps s0 (sawPoison s) := by
  grind -ring -linarith -lia -ac [sawPoison, Keeps]
theorem keeps_drawFree (s : State) (h_s : Keeps s0 s) : Keeps s0 (drawFree s).2 := by
  grind -ring -linarith -lia -ac [drawFree, Keeps]
theorem keeps_hostWrite (s : State) (p : Nat) (off : Nat) (bs : List Byte) (h_s : Keeps s0 s) : Keeps s0 (hostWrite s p off bs) := by
  unfold hostWrite
  split
  · exact h_s
  · exact keeps_hostMem s _ _ (fun h => Mem.wf_write _ _ _ h) h_s
theorem keeps_metPoison (s : State) (h_s : Keeps s0 s) : Keeps s0 (metPoison s) := by
  grind -ring -linarith -lia -ac [metPoison, keeps_State_setMem, keeps_bump, keeps_sawPoison]
theorem keeps_hostWriteLine (s : State) (p : Nat) (off : Nat) (ln : Nat) (bs : List Byte) (h_s : Keeps s0 s) : Keeps s0 (hostWriteLine s p off ln bs) := by
  unfold hostWriteLine
  try dsimp only
  repeat' first
    | with_reducible assumption
    | contradiction
    | with_reducible apply keeps_hostWrite
    | with_reducible apply keeps_metPoison
    | (with_reducible eapply keeps_fst; case e => with_reducible assumption)
    | (with_reducible eapply keeps_snd; case e => with_reducible assumption)
    | (with_reducible eapply keeps_snd3; case e => with_reducible assumption)
    | split
    | intro _
    | with_reducible apply keeps_mk
    | with_reducible exact rfl
theorem keeps_hostLine (s : State) (pa : Nat) (h_s : Keeps s0 s) : Keeps s0 (hostLine s pa).2 := by
  grind -ring -linarith -lia -ac [hostLine, keeps_State_setMem]
theorem keeps_suspectData (s : State) (h_s : Keeps s0 s) : Keeps s0 (suspectData s) := by
  grind -ring -linarith -lia -ac [suspectData, Keeps]
theorem keeps_evictLine (s : State) (e : CLine) (h_s : Keeps s0 s) : Keeps s0 (evictLine s e) := by
  grind -ring -linarith -lia -ac [evictLine, keeps_State_setMem, keeps_foldl, keeps_foldl_fst, keeps_foldl_snd, keeps_hostWriteLine, keeps_recordError, keeps_suspectData]
theorem keeps_cacheVictim (s : State) (full : List CLine) (lru : Bool) (h_s : Keeps s0 s) : Keeps s0 (cacheVictim s full lru).2 := by
  grind -ring -linarith -lia -ac [cacheVictim, keeps_drawFree]
theorem keeps_touchLine (s : State) (ln : Nat) (stream : Bool) (write : Bool) (h_s : Keeps s0 s) : Keeps s0 (touchLine s ln stream write) := by
  grind -ring -linarith -lia -ac [touchLine, keeps_State_setMem, keeps_cacheVictim, keeps_evictLine]
theorem keeps_sliceRead (s : State) (cached : Bool) (ln : Nat) (h_s : Keeps s0 s) : Keeps s0 (sliceRead s cached ln) := by
  grind -ring -linarith -lia -ac [sliceRead, keeps_hostLine, keeps_touchLine]
theorem keeps_invalidateLine (s : State) (writer : Option Nat) (ln : Nat) (h_s : Keeps s0 s) : Keeps s0 (invalidateLine s writer ln) := by
  grind -ring -linarith -lia -ac [invalidateLine, Keeps]
theorem keeps_physWrite1 (s : State) (writer : Option Nat) (cached : Bool) (pa : Nat) (bs : List Byte) (h_s : Keeps s0 s) : Keeps s0 (physWrite1 s writer cached pa bs) := by
  unfold physWrite1
  split
  · exact keeps_invalidateLine _ _ _ (keeps_dram s _ (fun h => Mem.wf_write _ _ _ h) rfl h_s)
  · split
    · exact keeps_invalidateLine _ _ _ (keeps_State_setMem _ _ rfl rfl (keeps_hostLine _ _ h_s))
    · split
      · exact keeps_invalidateLine _ _ _ (keeps_hostWrite _ _ _ _ h_s)
      · exact keeps_hostWrite _ _ _ _ h_s
  · exact h_s
theorem keeps_physReadN (y0 : Nat) (y1 : State) (y2 : Bool) (y3 : Nat) (y4 : Nat) (h_y1 : Keeps s0 y1) : Keeps s0 (physReadN y0 y1 y2 y3 y4).2 := by
  fun_induction physReadN y0 y1 y2 y3 y4 <;> grind -ring -linarith -lia -ac [keeps_sliceRead]
theorem keeps_physRead (s : State) (cached : Bool) (pa : Nat) (n : Nat) (h_s : Keeps s0 s) : Keeps s0 (physRead s cached pa n).2 := by
  grind -ring -linarith -lia -ac [physRead, keeps_physReadN]
theorem keeps_sliceWrite (s : State) (writer : Option Nat) (cached : Bool) (stream : Bool) (pa : Nat) (bs : List Byte) (h_s : Keeps s0 s) : Keeps s0 (sliceWrite s writer cached stream pa bs) := by
  grind -ring -linarith -lia -ac [sliceWrite, keeps_physWrite1, keeps_touchLine]
theorem keeps_physWriteN (y0 : Nat) (y1 : State) (y2 : Bool) (y3 : Bool) (y4 : Nat) (y5 : List Byte) (h_y1 : Keeps s0 y1) : Keeps s0 (physWriteN y0 y1 y2 y3 y4 y5) := by
  fun_induction physWriteN y0 y1 y2 y3 y4 y5 <;> grind -ring -linarith -lia -ac [keeps_sliceWrite]
theorem keeps_physWriteAs (s : State) (cached : Bool) (stream : Bool) (pa : Nat) (bs : List Byte) (h_s : Keeps s0 s) : Keeps s0 (physWriteAs s cached stream pa bs) := by
  grind -ring -linarith -lia -ac [physWriteAs, keeps_physWriteN]
theorem keeps_physWrite (s : State) (cached : Bool) (pa : Nat) (bs : List Byte) (h_s : Keeps s0 s) : Keeps s0 (physWrite s cached pa bs) := by
  grind -ring -linarith -lia -ac [physWrite, keeps_physWriteAs]
theorem keeps_devReadN (y0 : Nat) (y1 : State) (y2 : Nat) (y3 : Nat) (h_y1 : Keeps s0 y1) : Keeps s0 (devReadN y0 y1 y2 y3).2 := by
  fun_induction devReadN y0 y1 y2 y3 <;> grind -ring -linarith -lia -ac [keeps_sliceRead]
theorem keeps_devRead (s : State) (pa : Nat) (n : Nat) (h_s : Keeps s0 s) : Keeps s0 (devRead s pa n).2 := by
  grind -ring -linarith -lia -ac [devRead, keeps_devReadN]
theorem keeps_devWrite1 (s : State) (pa : Nat) (bs : List Byte) (h_s : Keeps s0 s) : Keeps s0 (devWrite1 s pa bs) := by
  unfold devWrite1
  try dsimp only
  repeat' first
    | with_reducible assumption
    | contradiction
    | with_reducible apply keeps_State_setMem
    | with_reducible apply keeps_invalidateLine
    | with_reducible apply keeps_sliceWrite
    | (with_reducible eapply keeps_fst; case e => with_reducible assumption)
    | (with_reducible eapply keeps_snd; case e => with_reducible assumption)
    | (with_reducible eapply keeps_snd3; case e => with_reducible assumption)
    | split
    | intro _
    | with_reducible apply keeps_mk
    | with_reducible exact rfl
    | rfl
theorem keeps_devWriteN (y0 : Nat) (y1 : State) (y2 : Nat) (y3 : List Byte) (h_y1 : Keeps s0 y1) : Keeps s0 (devWriteN y0 y1 y2 y3) := by
  fun_induction devWriteN y0 y1 y2 y3 <;> grind -ring -linarith -lia -ac [keeps_devWrite1]
theorem keeps_devWrite (s : State) (pa : Nat) (bs : List Byte) (h_s : Keeps s0 s) : Keeps s0 (devWrite s pa bs) := by
  grind -ring -linarith -lia -ac [devWrite, keeps_devWriteN]
theorem keeps_bulkServed (s : State) (port : Nat) (h_s : Keeps s0 s) : Keeps s0 (bulkServed s port) := by
  grind -ring -linarith -lia -ac [bulkServed, keeps_State_setMem]
theorem keeps_objWrite (s : State) (o : Nat) (gen : Nat) (off : Nat) (bs : List Byte) (h_s : Keeps s0 s) : Keeps s0 (objWrite s o gen off bs) := by
  grind -ring -linarith -lia -ac [objWrite, keeps_devWrite]
theorem keeps_xlate (s : State) (c : Nat) (va : Nat) (w : Bool) {x0 : TlbEntry} {tt : State} (ee : xlate s c va w = .ok (x0, tt)) (h_s : Keeps s0 s) : Keeps s0 tt := by
  grind -ring -linarith -lia -ac [xlate, keeps_State_setMem, keeps_foldl, keeps_foldl_fst, keeps_foldl_snd, keeps_sliceRead]
theorem keeps_locate (s : State) (c : Nat) (va : Nat) (w : Bool) {x0 : Place} {tt : State} (ee : locate s c va w = .ok (x0, tt)) (h_s : Keeps s0 s) : Keeps s0 tt := by
  grind -ring -linarith -lia -ac [locate, keeps_xlate]
theorem keeps_vreadN (y0 : Nat) (y1 : State) (y2 : Nat) (y3 : Nat) (y4 : Nat) {x0 : List Byte} {tt : State} (ee : vreadN y0 y1 y2 y3 y4 = .ok (x0, tt)) (h_y1 : Keeps s0 y1) : Keeps s0 tt := by
  revert ee
  revert x0 tt
  fun_induction vreadN y0 y1 y2 y3 y4 <;> intro x0 tt ee
  all_goals (try (repeat' split at ee))
  all_goals (try cases ee)
  repeat' first
    | with_reducible assumption
    | contradiction
    | with_reducible apply keeps_physRead
    | (with_reducible eapply keeps_locate; case ee => with_reducible assumption)
    | (with_reducible eapply keeps_fst; case e => with_reducible assumption)
    | (with_reducible eapply keeps_snd; case e => with_reducible assumption)
    | (with_reducible eapply keeps_snd3; case e => with_reducible assumption)
    | split
    | intro _
    | with_reducible apply_assumption
theorem keeps_vread (s : State) (c : Nat) (va : Nat) (n : Nat) {x0 : List Byte} {tt : State} (ee : vread s c va n = .ok (x0, tt)) (h_s : Keeps s0 s) : Keeps s0 tt := by
  unfold vread at ee
  (repeat' split at ee) <;> grind -ring -linarith -lia -ac [keeps_vreadN]
theorem keeps_vwriteN (stream : Bool) (y0 : Nat) (y1 : State) (y2 : Nat) (y3 : Nat) (y4 : List Byte) (h_y1 : Keeps s0 y1) : Keeps s0 (vwriteN stream y0 y1 y2 y3 y4).1 := by
  fun_induction vwriteN stream y0 y1 y2 y3 y4 <;> grind -ring -linarith -lia -ac [keeps_locate, keeps_physWriteAs]
theorem keeps_vwrite (s : State) (c : Nat) (va : Nat) (bs : List Byte) (h_s : Keeps s0 s) : Keeps s0 (vwrite s c va bs).1 := by
  grind -ring -linarith -lia -ac [vwrite, keeps_vwriteN]
theorem keeps_vwriteStream (s : State) (c : Nat) (va : Nat) (bs : List Byte) (h_s : Keeps s0 s) : Keeps s0 (vwriteStream s c va bs).1 := by
  grind -ring -linarith -lia -ac [vwriteStream, keeps_vwriteN]
theorem keeps_vcheckN (y0 : Nat) (y1 : State) (y2 : Nat) (y3 : Nat) (y4 : Nat) (y5 : Bool) {tt : State} (ee : vcheckN y0 y1 y2 y3 y4 y5 = .ok tt) (h_y1 : Keeps s0 y1) : Keeps s0 tt := by
  fun_induction vcheckN y0 y1 y2 y3 y4 y5 <;> grind -ring -linarith -lia -ac [keeps_locate]
theorem keeps_vcheck (s : State) (c : Nat) (va : Nat) (n : Nat) (w : Bool) {tt : State} (ee : vcheck s c va n w = .ok tt) (h_s : Keeps s0 s) : Keeps s0 tt := by
  grind -ring -linarith -lia -ac [vcheck, keeps_vcheckN]
theorem keeps_tlbDrop (s : State) (c : Nat) (va : Nat) (n : Nat) (h_s : Keeps s0 s) : Keeps s0 (tlbDrop s c va n) := by
  grind -ring -linarith -lia -ac [tlbDrop, keeps_State_setMem]
theorem keeps_tlbDropObj (s : State) (o : Nat) (h_s : Keeps s0 s) : Keeps s0 (tlbDropObj s o) := by
  grind -ring -linarith -lia -ac [tlbDropObj, keeps_State_setMem]
theorem keeps_setSession (s : State) (i : Nat) (x : Session) (h_s : Keeps s0 s) : Keeps s0 (setSession s i x) := by
  grind -ring -linarith -lia -ac [setSession, Keeps]
theorem keeps_dropSession (s : State) (i : Nat) (h_s : Keeps s0 s) : Keeps s0 (dropSession s i) := by
  grind -ring -linarith -lia -ac [dropSession, Keeps]
theorem keeps_abandonSession (s : State) (i : Nat) (x : Session) (h_s : Keeps s0 s) : Keeps s0 (abandonSession s i x) := by
  grind -ring -linarith -lia -ac [abandonSession, keeps_dropSession, keeps_physWrite]
theorem keeps_abandonSessions (s : State) (c : Nat) (h_s : Keeps s0 s) : Keeps s0 (abandonSessions s c) := by
  grind -ring -linarith -lia -ac [abandonSessions, keeps_abandonSession, keeps_foldl, keeps_foldl_fst, keeps_foldl_snd]
theorem keeps_lateOrNow (s : State) (x : LateReply) (h_s : Keeps s0 s) : Keeps s0 (lateOrNow s x) := by
  grind -ring -linarith -lia -ac [lateOrNow, keeps_postRecord, Keeps]
theorem keeps_finalOn (s : State) (ch : Nat) (opcode : Nat) (arg : Nat) (status : Nat) (detail : Nat) (payload : List Byte) (h_s : Keeps s0 s) : Keeps s0 (finalOn s ch opcode arg status detail payload) := by
  grind -ring -linarith -lia -ac [finalOn, keeps_State_setChannel, keeps_foldl, keeps_foldl_fst, keeps_foldl_snd, keeps_lateOrNow]
theorem keeps_finalAll (s : State) (opcode : Nat) (arg : Nat) (status : Nat) (detail : Nat) (payload : List Byte) (h_s : Keeps s0 s) : Keeps s0 (finalAll s opcode arg status detail payload) := by
  grind -ring -linarith -lia -ac [finalAll, keeps_finalOn, keeps_foldl, keeps_foldl_fst, keeps_foldl_snd]
theorem keeps_endRun (s : State) (g : Nat) (status : Nat) (detail : Nat) (h_s : Keeps s0 s) : Keeps s0 (endRun s g status detail) := by
  unfold endRun
  try dsimp only
  repeat' first
    | with_reducible assumption
    | contradiction
    | with_reducible apply keeps_dropSession
    | with_reducible apply keeps_finalOn
    | (with_reducible eapply keeps_fst; case e => with_reducible assumption)
    | (with_reducible eapply keeps_snd; case e => with_reducible assumption)
    | (with_reducible eapply keeps_snd3; case e => with_reducible assumption)
    | split
    | intro _
    | with_reducible apply keeps_mk
    | with_reducible exact rfl
theorem keeps_endRunsOf (s : State) (c : Nat) (status : Nat) (detail : Nat) (h_s : Keeps s0 s) : Keeps s0 (endRunsOf s c status detail) := by
  grind -ring -linarith -lia -ac [endRunsOf, keeps_endRun, keeps_foldl, keeps_foldl_fst, keeps_foldl_snd]
theorem keeps_setBlock (s : State) (c : Nat) (off : Nat) (n : Nat) (v : Nat) (h_s : Keeps s0 s) : Keeps s0 (setBlock s c off n v) := by
  grind -ring -linarith -lia -ac [setBlock, keeps_State_setCtx, keeps_objWrite]
theorem keeps_incBlock (s : State) (c : Nat) (off : Nat) (h_s : Keeps s0 s) : Keeps s0 (incBlock s c off) := by
  grind -ring -linarith -lia -ac [incBlock, keeps_setBlock]
theorem keeps_setCtxSt (s : State) (c : Nat) (st : CtxSt) (h_s : Keeps s0 s) : Keeps s0 (setCtxSt s c st) := by
  grind -ring -linarith -lia -ac [setCtxSt, keeps_State_setCtx, keeps_setBlock]
theorem keeps_report (s : State) (q : Nat) (h_s : Keeps s0 s) : Keeps s0 (report s q) := by
  grind -ring -linarith -lia -ac [report, keeps_objWrite]
theorem keeps_finishCmd (s : State) (id : Nat) (h_s : Keeps s0 s) : Keeps s0 (finishCmd s id) := by
  grind -ring -linarith -lia -ac [finishCmd, keeps_report, Keeps]
theorem keeps_endFwait (s : State) (g : GroupAt) (status : Nat) (h_s : Keeps s0 s) : Keeps s0 (endFwait s g status) := by
  grind -ring -linarith -lia -ac [endFwait, keeps_State_setGroup, keeps_incBlock]
theorem keeps_endFwaits (s : State) (f : Nat) (h_s : Keeps s0 s) : Keeps s0 (endFwaits s f) := by
  grind -ring -linarith -lia -ac [endFwaits, keeps_endFwait, keeps_foldl, keeps_foldl_fst, keeps_foldl_snd]
theorem keeps_endQwaits (s : State) (f : Nat) (h_s : Keeps s0 s) : Keeps s0 (endQwaits s f).1 := by
  grind -ring -linarith -lia -ac [endQwaits, keeps_State_setQueue, keeps_finishCmd, keeps_foldl, keeps_foldl_fst, keeps_foldl_snd]
theorem keeps_endHostWait (s : State) (t : Nat) (k : Nat) (outcome : Nat) (h_s : Keeps s0 s) : Keeps s0 (endHostWait s t k outcome) := by
  grind -ring -linarith -lia -ac [endHostWait, keeps_State_setTenant, keeps_notifyTenant]
theorem keeps_endHostWaits (s : State) (f : Nat) (h_s : Keeps s0 s) : Keeps s0 (endHostWaits s f) := by
  grind -ring -linarith -lia -ac [endHostWaits, keeps_endHostWait, keeps_foldl, keeps_foldl_fst, keeps_foldl_snd]
theorem keeps_State_setOutput (s : State) (n : Nat) (x : Output) (h_s : Keeps s0 s) : Keeps s0 (State.setOutput s n x) := by
  grind -ring -linarith -lia -ac [State.setOutput, Keeps]
theorem keeps_dropSet (s : State) (id : Nat) (h_s : Keeps s0 s) : Keeps s0 (dropSet s id) := by
  grind -ring -linarith -lia -ac [dropSet, Keeps]
theorem keeps_noteLast (s : State) (x : FlipSet) (outcome : Nat) (h_s : Keeps s0 s) : Keeps s0 (noteLast s x outcome) := by
  grind -ring -linarith -lia -ac [noteLast, Keeps]
theorem keeps_failSet (s : State) (x : FlipSet) (h_s : Keeps s0 s) : Keeps s0 (failSet s x).1 := by
  unfold failSet
  try dsimp only
  repeat' first
    | with_reducible assumption
    | contradiction
    | with_reducible apply keeps_bump
    | with_reducible apply keeps_dropSet
    | with_reducible apply keeps_noteLast
theorem keeps_readySet (s : State) (x : FlipSet) (h_s : Keeps s0 s) : Keeps s0 (readySet s x) := by
  grind -ring -linarith -lia -ac [readySet, Keeps]
theorem keeps_evalSet (s : State) (x : FlipSet) (h_s : Keeps s0 s) : Keeps s0 (evalSet s x).1 := by
  grind -ring -linarith -lia -ac [evalSet, keeps_failSet, keeps_readySet]
theorem keeps_endFlips (s : State) (f : Nat) (h_s : Keeps s0 s) : Keeps s0 (endFlips s f).1 := by
  grind -ring -linarith -lia -ac [endFlips, keeps_evalSet, keeps_foldl, keeps_foldl_fst, keeps_foldl_snd]
theorem keeps_endWaits (s : State) (f : Nat) (h_s : Keeps s0 s) : Keeps s0 (endWaits s f).1 := by
  grind -ring -linarith -lia -ac [endWaits, keeps_endFlips, keeps_endFwaits, keeps_endHostWaits, keeps_endQwaits]
theorem keeps_regress (s : State) (src : SigSrc) (f : Nat) (v : DWord) (h_s : Keeps s0 s) : Keeps s0 (regress s src f v) := by
  unfold regress
  try dsimp only
  repeat' first
    | with_reducible assumption
    | contradiction
    | with_reducible apply keeps_incBlock
    | with_reducible apply keeps_logPlain
    | with_reducible apply keeps_logTenant
    | with_reducible apply keeps_postEventOn
    | with_reducible apply keeps_setBlock
    | (with_reducible eapply keeps_fst; case e => with_reducible assumption)
    | (with_reducible eapply keeps_snd; case e => with_reducible assumption)
    | (with_reducible eapply keeps_snd3; case e => with_reducible assumption)
    | split
theorem keeps_applySignal (s : State) (src : SigSrc) (f : Nat) (v : DWord) (h_s : Keeps s0 s) : Keeps s0 (applySignal s src f v).1 := by
  grind -ring -linarith -lia -ac [applySignal, keeps_State_setFence, keeps_endWaits, keeps_regress]
theorem keeps_applyPoison (s : State) (f : Nat) (h_s : Keeps s0 s) : Keeps s0 (applyPoison s f).1 := by
  grind -ring -linarith -lia -ac [applyPoison, keeps_State_setFence, keeps_endWaits]
theorem keeps_putRecord (s : State) (c : Nat) (bs : List Byte) (h_s : Keeps s0 s) : Keeps s0 (putRecord s c bs) := by
  grind -ring -linarith -lia -ac [putRecord, keeps_State_setCtx, keeps_objWrite]
theorem keeps_discardWaits (s : State) (c : Nat) (h_s : Keeps s0 s) : Keeps s0 (discardWaits s c) := by
  grind -ring -linarith -lia -ac [discardWaits, Keeps]
theorem keeps_stopQueues (s : State) (c : Nat) (h_s : Keeps s0 s) : Keeps s0 (stopQueues s c) := by
  grind -ring -linarith -lia -ac [stopQueues, keeps_State_setQueue, keeps_foldl, keeps_foldl_fst, keeps_foldl_snd, keeps_report]
theorem keeps_applyFault (s : State) (f : CtxFault) (h_s : Keeps s0 s) : Keeps s0 (applyFault s f).1 := by
  unfold applyFault
  try dsimp only
  repeat' first
    | with_reducible assumption
    | contradiction
    | with_reducible apply keeps_State_setCtx
    | with_reducible apply keeps_abandonSessions
    | with_reducible apply keeps_discardWaits
    | with_reducible apply keeps_endRunsOf
    | with_reducible apply keeps_putRecord
    | with_reducible apply keeps_setBlock
    | with_reducible apply keeps_setCtxSt
    | with_reducible apply keeps_stopQueues
    | (with_reducible eapply keeps_fst; case e => with_reducible assumption)
    | (with_reducible eapply keeps_snd; case e => with_reducible assumption)
    | (with_reducible eapply keeps_snd3; case e => with_reducible assumption)
    | split
theorem keeps_applyAct (s : State) (y0 : Act) (h_s : Keeps s0 s) : Keeps s0 (applyAct s y0).1 := by
  unfold applyAct
  try dsimp only
  repeat' first
    | with_reducible assumption
    | contradiction
    | with_reducible apply keeps_applyFault
    | with_reducible apply keeps_applyPoison
    | with_reducible apply keeps_applySignal
    | with_reducible apply keeps_logPlain
    | with_reducible apply keeps_setBlock
    | (with_reducible eapply keeps_fst; case e => with_reducible assumption)
    | (with_reducible eapply keeps_snd; case e => with_reducible assumption)
    | (with_reducible eapply keeps_snd3; case e => with_reducible assumption)
    | split
theorem keeps_settleN (y0 : Nat) (y1 : List Act) (y2 : State) (h_y2 : Keeps s0 y2) : Keeps s0 (settleN y0 y1 y2) := by
  fun_induction settleN y0 y1 y2 <;> grind -ring -linarith -lia -ac [keeps_applyAct]
theorem keeps_settle (as : List Act) (s : State) (h_s : Keeps s0 s) : Keeps s0 (settle as s) := by
  grind -ring -linarith -lia -ac [settle, keeps_settleN]
theorem keeps_raise (s : State) (f : CtxFault) (h_s : Keeps s0 s) : Keeps s0 (raise s f) := by
  grind -ring -linarith -lia -ac [raise, keeps_settle]
theorem keeps_accLog (s : State) (a : Access) (t : Nat) (kind : Nat) (off : Nat) (h_s : Keeps s0 s) : Keeps s0 (accLog s a t kind off) := by
  grind -ring -linarith -lia -ac [accLog, keeps_logTenant]
theorem keeps_accRefuse (s : State) (a : Access) (kind : Nat) (off : Nat) (h_s : Keeps s0 s) : Keeps s0 (accRefuse s a kind off) := by
  grind -ring -linarith -lia -ac [accRefuse, keeps_accLog]
theorem keeps_ownPage (s : State) (a : Access) (t : Nat) (off : Nat) (k : State) (h_s : Keeps s0 s) (h_k : Keeps s0 k) : Keeps s0 (ownPage s a t off k) := by
  grind -ring -linarith -lia -ac [ownPage, keeps_accRefuse]
theorem keeps_flashWrite (s : State) (a : Nat) (bs : List Byte) (h_s : Keeps s0 s) : Keeps s0 (flashWrite s a bs) := by
  unfold flashWrite
  split
  · exact h_s
  · exact keeps_flash s _ (fun h => Mem.wf_write _ _ _ h) h_s
theorem keeps_flashErase (s : State) (a : Nat) (n : Nat) (h_s : Keeps s0 s) : Keeps s0 (flashErase s a n) := by
  unfold flashErase
  split
  · exact h_s
  · exact keeps_flash s _ (fun h => Mem.wf_erase _ _ _ h) h_s
theorem keeps_writeCopy (s : State) (k : RecAt) (off : Nat) (seq : Nat) (pl : List Byte) (h_s : Keeps s0 s) : Keeps s0 (writeCopy s k off seq pl) := by
  grind -ring -linarith -lia -ac [writeCopy, keeps_flashErase, keeps_flashWrite]
theorem keeps_writeRec (s : State) (k : RecAt) (pl : List Byte) (h_s : Keeps s0 s) : Keeps s0 (writeRec s k pl) := by
  unfold writeRec
  try dsimp only
  repeat' first
    | with_reducible assumption
    | contradiction
    | with_reducible apply keeps_writeCopy
    | (with_reducible eapply keeps_fst; case e => with_reducible assumption)
    | (with_reducible eapply keeps_snd; case e => with_reducible assumption)
    | (with_reducible eapply keeps_snd3; case e => with_reducible assumption)
    | split
theorem keeps_setBank (s : State) (b : Nat) (st : BankSt) (version : Nat) (h_s : Keeps s0 s) : Keeps s0 (setBank s b st version) := by
  grind -ring -linarith -lia -ac [setBank, keeps_writeRec]
theorem keeps_fetchLine (s : State) (core : Nat) (c : Nat) (va : Nat) {x0 : ILine} {tt : State} (ee : fetchLine s core c va = .ok (x0, tt)) (h_s : Keeps s0 s) : Keeps s0 tt := by
  grind -ring -linarith -lia -ac [fetchLine, keeps_State_setMem, keeps_locate, keeps_physRead]
theorem keeps_fetchWord (s : State) (core : Nat) (c : Nat) (va : Nat) {x0 : Nat} {tt : State} (ee : fetchWord s core c va = .ok (x0, tt)) (h_s : Keeps s0 s) : Keeps s0 tt := by
  grind -ring -linarith -lia -ac [fetchWord, keeps_fetchLine]
theorem keeps_issueWith_1 (s : State) (g : GroupAt) (mine : Nat → Bool) (ext : Option Nat) {a : AccFault} {tt : State} (ee : issueWith s g mine ext = .fault a tt) (h_s : Keeps s0 s) : Keeps s0 tt := by
  grind -ring -linarith -lia -ac [issueWith, keeps_fetchWord]
theorem keeps_issueWith_2 (s : State) (g : GroupAt) (mine : Nat → Bool) (ext : Option Nat) {tt : State} (ee : issueWith s g mine ext = .go tt) (h_s : Keeps s0 s) : Keeps s0 tt := by
  grind -ring -linarith -lia -ac [issueWith, keeps_fetchWord]
theorem keeps_issueCheck_1 (s : State) (g : GroupAt) (code : List Nat) {a : AccFault} {tt : State} (ee : issueCheck s g code = .fault a tt) (h_s : Keeps s0 s) : Keeps s0 tt := by
  grind -ring -linarith -lia -ac [issueCheck, keeps_issueWith_1, keeps_issueWith_2]
theorem keeps_issueCheck_2 (s : State) (g : GroupAt) (code : List Nat) {tt : State} (ee : issueCheck s g code = .go tt) (h_s : Keeps s0 s) : Keeps s0 tt := by
  unfold issueCheck at ee
  try dsimp only at ee
  (repeat' split at ee) <;> (try cases ee)
  repeat' first
    | with_reducible assumption
    | contradiction
    | (with_reducible eapply keeps_issueWith_1; case ee => with_reducible assumption)
    | (with_reducible eapply keeps_issueWith_2; case ee => with_reducible assumption)
theorem keeps_notePoison (s : State) (a : AccFault) (h_s : Keeps s0 s) : Keeps s0 (notePoison s a) := by
  grind -ring -linarith -lia -ac [notePoison, keeps_metPoison]
theorem keeps_groupFault (s : State) (g : GroupAt) (a : AccFault) (h_s : Keeps s0 s) : Keeps s0 (groupFault s g a) := by
  grind -ring -linarith -lia -ac [groupFault, keeps_notePoison, keeps_raise]
theorem keeps_secondFault (s : State) (t : State) (c : Nat) (h_s : Keeps s0 s) (h_t : Keeps s0 t) : Keeps s0 (secondFault s t c) := by
  grind -ring -linarith -lia -ac [secondFault, keeps_State_setCtx, keeps_metPoison, keeps_putRecord, keeps_setBlock]
theorem keeps_inCycle (s : State) (g : GroupAt) (f : State → State) (h_s : Keeps s0 s) (h_f : ∀ (z0 : State), Keeps s0 z0 → Keeps s0 (f z0)) : Keeps s0 (inCycle s g f) := by
  unfold inCycle
  try dsimp only
  repeat' first
    | with_reducible assumption
    | contradiction
    | with_reducible apply keeps_State_setCore
    | with_reducible apply keeps_State_setCtx
    | with_reducible apply keeps_secondFault
    | (with_reducible eapply keeps_fst; case e => with_reducible assumption)
    | (with_reducible eapply keeps_snd; case e => with_reducible assumption)
    | (with_reducible eapply keeps_snd3; case e => with_reducible assumption)
    | split
    | intro _
    | with_reducible apply_assumption

end Sys2Proof.Machine
end

