-- ==== Sys2Proof/Laws/Keeps2.lean ====
section
/-! SUPPORT. What the operations and commands of Shader, Barrier, Passes, Residence, SavedWork, MemOps, MemoryInstr, TensorQueue, Waiting, Preemption, Sync, QueueOps keep (see Keeps). -/

namespace Sys2Proof.Machine
variable {s0 : State}

theorem keeps_countIssue (s : State) (g : GroupAt) (h_s : Keeps s0 s) : Keeps s0 (countIssue s g) := by
  grind -ring -linarith -lia -ac [countIssue, keeps_State_setCore, keeps_State_setGroup, keeps_bump]
theorem keeps_stepGroup (s : State) (g : GroupAt) (h : Head) (code : List Nat) (rd : List Nat) (wr : List Nat) (f : Prog → Group → Except Nat Group) (h_s : Keeps s0 s) : Keeps s0 (stepGroup s g h code rd wr f) := by
  unfold stepGroup
  try dsimp only
  repeat' first
    | with_reducible assumption
    | contradiction
    | with_reducible apply keeps_State_setCore
    | with_reducible apply keeps_State_setGroup
    | with_reducible apply keeps_countIssue
    | with_reducible apply keeps_groupFault
    | with_reducible apply keeps_inCycle
    | (with_reducible eapply keeps_issueCheck_1; case ee => with_reducible assumption)
    | (with_reducible eapply keeps_issueCheck_2; case ee => with_reducible assumption)
    | split
    | intro _
theorem keeps_stepR (op : ROp) (g : GroupAt) (e : EncR) (s : State) (h_s : Keeps s0 s) : Keeps s0 (stepR op g e s) := by
  grind -ring -linarith -lia -ac [stepR, keeps_stepGroup]
theorem keeps_stepRun (cls : Nat) (op : Nat) (sh : RShape) (ok : Bool) (run : EncR → Group → Group) (g : GroupAt) (e : EncR) (s : State) (h_s : Keeps s0 s) : Keeps s0 (stepRun cls op sh ok run g e s) := by
  grind -ring -linarith -lia -ac [stepRun, keeps_stepGroup]
theorem keeps_done (s : State) {tt : State} (ee : done s = .next tt) (h_s : Keeps s0 s) : Keeps s0 tt := by
  grind -ring -linarith -lia -ac [done]
theorem keeps_wgExited (s : State) (w : Wg) (h_s : Keeps s0 s) : Keeps s0 (wgExited s w) := by
  grind -ring -linarith -lia -ac [wgExited, Keeps]
theorem keeps_dropStop (s : State) (core : Nat) (id : Nat) (h_s : Keeps s0 s) : Keeps s0 (dropStop s core id) := by
  grind -ring -linarith -lia -ac [dropStop, Keeps]
theorem keeps_stopMade (s : State) (core : Nat) (id : Nat) (off : Nat) (area : Nat) (h_s : Keeps s0 s) : Keeps s0 (stopMade s core id off area) := by
  unfold stopMade
  try dsimp only
  repeat' first
    | with_reducible assumption
    | contradiction
    | with_reducible apply keeps_bump
    | with_reducible apply keeps_dropStop
    | with_reducible apply keeps_incBlock
    | (with_reducible eapply keeps_fst; case e => with_reducible assumption)
    | (with_reducible eapply keeps_snd; case e => with_reducible assumption)
    | (with_reducible eapply keeps_snd3; case e => with_reducible assumption)
    | split
    | intro _
    | with_reducible apply keeps_mk
    | with_reducible exact rfl
theorem keeps_stopReached (s : State) (core : Nat) (id : Nat) (h_s : Keeps s0 s) : Keeps s0 (stopReached s core id) := by
  grind -ring -linarith -lia -ac [stopReached, keeps_dropStop, keeps_stopMade]
theorem keeps_endGroups (s : State) (core : Nat) (w : Nat) (h_s : Keeps s0 s) : Keeps s0 (endGroups s core w) := by
  grind -ring -linarith -lia -ac [endGroups, keeps_State_setCore, keeps_foldl, keeps_foldl_fst, keeps_foldl_snd, keeps_stopReached, keeps_wgExited]
theorem keeps_settleWg (s : State) (core : Nat) (w : Nat) (h_s : Keeps s0 s) : Keeps s0 (settleWg s core w) := by
  grind -ring -linarith -lia -ac [settleWg, keeps_State_setCore, keeps_endGroups]
theorem keeps_execBarrierStranded (core : Nat) (wg : Nat) (s : State) {tt : State} (ee : execBarrierStranded core wg s = .next tt) (h_s : Keeps s0 s) : Keeps s0 tt := by
  simp only [execBarrierStranded, done] at ee
  (repeat' split at ee) <;> cases ee <;> grind -ring -linarith -lia -ac [keeps_State_setCore, keeps_groupFault]
theorem keeps_setRender (s : State) (id : Nat) (r : RenderPass) (h_s : Keeps s0 s) : Keeps s0 (setRender s id r) := by
  grind -ring -linarith -lia -ac [setRender, Keeps]
theorem keeps_nameWg (s : State) (h_s : Keeps s0 s) : Keeps s0 (nameWg s) := by
  grind -ring -linarith -lia -ac [nameWg, Keeps]
theorem keeps_writeFrame (s : State) (slot : Nat) (n : Nat) (h_s : Keeps s0 s) : Keeps s0 (writeFrame s slot n) := by
  unfold writeFrame
  try dsimp only
  repeat' first
    | with_reducible assumption
    | contradiction
    | with_reducible apply keeps_State_setMem
    | with_reducible apply keeps_foldl
    | with_reducible apply keeps_foldl_fst
    | with_reducible apply keeps_foldl_snd
    | with_reducible apply keeps_touchLine
    | split
    | intro _
    | with_reducible apply keeps_mk
    | with_reducible exact rfl
    | rfl
theorem keeps_moveStores (s : State) (a : Nat) (b : Nat) (gids : List Nat) (h_s : Keeps s0 s) : Keeps s0 (moveStores s a b gids) := by
  grind -ring -linarith -lia -ac [moveStores, keeps_State_setCore]
theorem keeps_resolve (s : State) (c : Nat) (va : Nat → Nat) (align : Nat) (w : Bool) (y0 : List Nat) {x0 : List (Nat × Place)} {tt : State} (ee : resolve s c va align w y0 = .ok (x0, tt)) (h_s : Keeps s0 s) : Keeps s0 tt := by
  revert ee
  revert x0 tt
  fun_induction resolve s c va align w y0 <;> intro x0 tt ee
  all_goals (try (repeat' split at ee))
  all_goals (try cases ee)
  repeat' first
    | with_reducible assumption
    | contradiction
    | (with_reducible eapply keeps_locate; case ee => with_reducible assumption)
    | (with_reducible eapply keeps_fst; case e => with_reducible assumption)
    | (with_reducible eapply keeps_snd; case e => with_reducible assumption)
    | (with_reducible eapply keeps_snd3; case e => with_reducible assumption)
    | split
    | intro _
    | with_reducible apply_assumption
theorem keeps_l1Serve (s : State) (core : Nat) (y0 : List Nat) (h_s : Keeps s0 s) : Keeps s0 (l1Serve s core y0).1 := by
  fun_induction l1Serve s core y0 <;> grind -ring -linarith -lia -ac [keeps_State_setCore, keeps_bump]
theorem keeps_l1Error (s : State) (core : Nat) (ln : Nat) (e : L1Err) (h_s : Keeps s0 s) : Keeps s0 (l1Error s core ln e) := by
  unfold l1Error
  extract_lets
  (repeat' split) <;> grind -ring -linarith -lia -ac [keeps_State_setCore, keeps_bump, keeps_countError, keeps_recordError]
theorem keeps_l1Errors (s : State) (core : Nat) (ls : List Nat) (errs : Tbl L1Err) (h_s : Keeps s0 s) : Keeps s0 (l1Errors s core ls errs) := by
  grind -ring -linarith -lia -ac [l1Errors, keeps_foldl, keeps_foldl_fst, keeps_foldl_snd, keeps_l1Error]
theorem keeps_l1Clean (s : State) (core : Nat) (ls : List Nat) (errs : Tbl L1Err) (h_s : Keeps s0 s) : Keeps s0 (l1Clean s core ls errs) := by
  grind -ring -linarith -lia -ac [l1Clean, keeps_State_setCore, keeps_foldl, keeps_foldl_fst, keeps_foldl_snd]
theorem keeps_linkErrors (s : State) (ln : Nat) (env : ReadEnv) (h_s : Keeps s0 s) : Keeps s0 (linkErrors s ln env) := by
  grind -ring -linarith -lia -ac [linkErrors, keeps_State_setMem, keeps_bump, keeps_bumpBy, keeps_foldl, keeps_foldl_fst, keeps_foldl_snd, keeps_recordError]
theorem keeps_trainStream (s : State) (core : Nat) (slot : Nat) (base : Nat) (ln : Nat) (lo : Nat) (hi : Nat) (h_s : Keeps s0 s) : Keeps s0 (trainStream s core slot base ln lo hi) := by
  grind -ring -linarith -lia -ac [trainStream, keeps_State_setCore, keeps_bump]
theorem keeps_stepMem (s : State) (g : GroupAt) (h : Head) (code : List Nat) (ok : Bool) (regs : List Nat) (rd : List Nat) (k : State → Group → Mask → State) (h_s : Keeps s0 s) (h_k : ∀ (z0 : State) (z1 : Group) (z2 : Mask), Keeps s0 z0 → Keeps s0 (k z0 z1 z2)) : Keeps s0 (stepMem s g h code ok regs rd k) := by
  grind -ring -linarith -lia -ac [stepMem, keeps_groupFault, keeps_inCycle, keeps_issueCheck_1, keeps_issueCheck_2]
theorem keeps_finishMem (s : State) (g : GroupAt) (wr : List Nat) (m : Mask) (y : Group) (size : Nat) (h_s : Keeps s0 s) : Keeps s0 (finishMem s g wr m y size) := by
  grind -ring -linarith -lia -ac [finishMem, keeps_State_setCore, keeps_State_setGroup, keeps_countIssue]
theorem keeps_waitBank (s : State) (g : GroupAt) (b : Nat) (ln : Nat) (h_s : Keeps s0 s) : Keeps s0 (waitBank s g b ln) := by
  grind -ring -linarith -lia -ac [waitBank, keeps_State_setGroup]
theorem keeps_trainLoad (s : State) (g : GroupAt) (base : Nat) (ps : List (Nat × Place)) (h_s : Keeps s0 s) : Keeps s0 (trainLoad s g base ps) := by
  unfold trainLoad
  try dsimp only
  repeat' first
    | with_reducible assumption
    | contradiction
    | with_reducible apply keeps_trainStream
    | (with_reducible eapply keeps_fst; case e => with_reducible assumption)
    | (with_reducible eapply keeps_snd; case e => with_reducible assumption)
    | (with_reducible eapply keeps_snd3; case e => with_reducible assumption)
    | split
theorem keeps_execLd (g : GroupAt) (e : EncM) (env : ReadEnv) (s : State) {tt : State} (ee : execLd g e env s = .next tt) (h_s : Keeps s0 s) : Keeps s0 tt := by
  simp only [execLd, done] at ee
  cases ee
  repeat' first
    | with_reducible assumption
    | contradiction
    | with_reducible apply keeps_bumpBy
    | with_reducible apply keeps_finishMem
    | with_reducible apply keeps_foldl
    | with_reducible apply keeps_foldl_fst
    | with_reducible apply keeps_foldl_snd
    | with_reducible apply keeps_groupFault
    | with_reducible apply keeps_l1Clean
    | with_reducible apply keeps_l1Errors
    | with_reducible apply keeps_l1Serve
    | with_reducible apply keeps_linkErrors
    | with_reducible apply keeps_sliceRead
    | with_reducible apply keeps_stepMem
    | with_reducible apply keeps_trainLoad
    | with_reducible apply keeps_waitBank
    | (with_reducible eapply keeps_resolve; case ee => with_reducible assumption)
    | (with_reducible eapply keeps_fst; case e => with_reducible assumption)
    | split
    | intro _
theorem keeps_execSt (g : GroupAt) (e : EncM) (s : State) {tt : State} (ee : execSt g e s = .next tt) (h_s : Keeps s0 s) : Keeps s0 tt := by
  simp only [execSt, done] at ee
  (repeat' split at ee) <;> cases ee <;> grind -ring -linarith -lia -ac [keeps_State_setCore, keeps_finishMem, keeps_groupFault, keeps_resolve, keeps_stepMem]
theorem keeps_execStoreAck (core : Nat) (k : Nat) (s : State) {tt : State} (ee : execStoreAck core k s = .next tt) (h_s : Keeps s0 s) : Keeps s0 tt := by
  simp only [execStoreAck, done] at ee
  (repeat' split at ee) <;> cases ee <;> grind -ring -linarith -lia -ac [keeps_State_setCore, keeps_sliceWrite]
theorem keeps_dirMake (s : State) (ln : Nat) (h_s : Keeps s0 s) : Keeps s0 (dirMake s ln) := by
  grind -ring -linarith -lia -ac [dirMake, keeps_drawFree, keeps_invalidateLine]
theorem keeps_execL1Fill (core : Nat) (bank : Nat) (prefetch : Bool) (si : State) {tt : State} (ee : execL1Fill core bank prefetch si = .next tt) (h_si : Keeps s0 si) : Keeps s0 tt := by
  simp only [execL1Fill, done] at ee
  (repeat' split at ee) <;> cases ee <;> grind -ring -linarith -lia -ac [keeps_State_setCore, keeps_bumpBy, keeps_dirMake, keeps_sliceRead]
theorem keeps_atomSet (s : State) (x : Group) (e : EncM) (p : Place) (ls : List Nat) (h_s : Keeps s0 s) : Keeps s0 (atomSet s x e p ls).2 := by
  grind -ring -linarith -lia -ac [atomSet, keeps_sliceWrite]
theorem keeps_atomSets (s : State) (x : Group) (e : EncM) (ps : List (Nat × Place)) (y0 : List Nat) (h_s : Keeps s0 s) : Keeps s0 (atomSets s x e ps y0).2 := by
  fun_induction atomSets s x e ps y0 <;> grind -ring -linarith -lia -ac [keeps_atomSet]
theorem keeps_execAtom (g : GroupAt) (e : EncM) (s : State) {tt : State} (ee : execAtom g e s = .next tt) (h_s : Keeps s0 s) : Keeps s0 tt := by
  simp only [execAtom, done] at ee
  (repeat' split at ee) <;> cases ee <;> grind -ring -linarith -lia -ac [keeps_atomSets, keeps_finishMem, keeps_groupFault, keeps_resolve, keeps_stepMem]
theorem keeps_execLds (g : GroupAt) (e : EncM) (s : State) {tt : State} (ee : execLds g e s = .next tt) (h_s : Keeps s0 s) : Keeps s0 tt := by
  simp only [execLds, done] at ee
  (repeat' split at ee) <;> cases ee <;> grind -ring -linarith -lia -ac [keeps_finishMem, keeps_groupFault, keeps_stepMem]
theorem keeps_execSts (g : GroupAt) (e : EncM) (s : State) {tt : State} (ee : execSts g e s = .next tt) (h_s : Keeps s0 s) : Keeps s0 tt := by
  simp only [execSts, done] at ee
  (repeat' split at ee) <;> cases ee <;> grind -ring -linarith -lia -ac [keeps_State_setCore, keeps_finishMem, keeps_foldl, keeps_foldl_fst, keeps_foldl_snd, keeps_groupFault, keeps_stepMem]
theorem keeps_execAtoms (g : GroupAt) (e : EncM) (s : State) {tt : State} (ee : execAtoms g e s = .next tt) (h_s : Keeps s0 s) : Keeps s0 tt := by
  simp only [execAtoms, done] at ee
  (repeat' split at ee) <;> cases ee <;> grind -ring -linarith -lia -ac [keeps_State_setCore, keeps_finishMem, keeps_groupFault, keeps_stepMem]
theorem keeps_pieces (y0 : Nat) (y1 : State) (y2 : Nat) (y3 : Nat) (y4 : Nat) {x0 : List (Nat × Nat × Bool)} {tt : State} (ee : pieces y0 y1 y2 y3 y4 = .ok (x0, tt)) (h_y1 : Keeps s0 y1) : Keeps s0 tt := by
  revert ee
  revert x0 tt
  fun_induction pieces y0 y1 y2 y3 y4 <;> intro x0 tt ee
  all_goals (try (repeat' split at ee))
  all_goals (try cases ee)
  repeat' first
    | with_reducible assumption
    | contradiction
    | (with_reducible eapply keeps_locate; case ee => with_reducible assumption)
    | (with_reducible eapply keeps_fst; case e => with_reducible assumption)
    | (with_reducible eapply keeps_snd; case e => with_reducible assumption)
    | (with_reducible eapply keeps_snd3; case e => with_reducible assumption)
    | split
    | intro _
    | with_reducible apply_assumption
theorem keeps_readPieces (s : State) (y0 : List (Nat × Nat × Bool)) (h_s : Keeps s0 s) : Keeps s0 (readPieces s y0).2 := by
  fun_induction readPieces s y0 <;> grind -ring -linarith -lia -ac [keeps_physRead]
theorem keeps_entryFaults (s : State) (core : Nat) (q : TqEntry) (a : AccFault) (h_s : Keeps s0 s) : Keeps s0 (entryFaults s core q a) := by
  grind -ring -linarith -lia -ac [entryFaults, keeps_notePoison, keeps_raise]
theorem keeps_startEntry (s : State) (core : Nat) (e : TqEntry) (h_s : Keeps s0 s) : Keeps s0 (startEntry s core e) := by
  unfold startEntry
  try dsimp only
  repeat' first
    | with_reducible assumption
    | contradiction
    | with_reducible apply keeps_State_setCore
    | with_reducible apply keeps_readPieces
    | (with_reducible eapply keeps_fst; case e => with_reducible assumption)
    | (with_reducible eapply keeps_snd; case e => with_reducible assumption)
    | (with_reducible eapply keeps_snd3; case e => with_reducible assumption)
    | split
    | intro _
    | with_reducible apply keeps_mk
    | with_reducible exact rfl
theorem keeps_requeueNext (s : State) (core : Nat) (h_s : Keeps s0 s) : Keeps s0 (requeueNext s core) := by
  unfold requeueNext
  extract_lets
  (repeat' split) <;> grind -ring -linarith -lia -ac [keeps_State_setCore, keeps_entryFaults, keeps_pieces, keeps_startEntry]
theorem keeps_requeueAll (y0 : Nat) (y1 : State) (y2 : Nat) (h_y1 : Keeps s0 y1) : Keeps s0 (requeueAll y0 y1 y2) := by
  fun_induction requeueAll y0 y1 y2 <;> grind -ring -linarith -lia -ac [keeps_requeueNext]
theorem keeps_requeueOn (s : State) (core : Nat) (h_s : Keeps s0 s) : Keeps s0 (requeueOn s core) := by
  grind -ring -linarith -lia -ac [requeueOn, keeps_requeueAll]
theorem keeps_requeueEvery (s : State) (h_s : Keeps s0 s) : Keeps s0 (requeueEvery s) := by
  grind -ring -linarith -lia -ac [requeueEvery, keeps_foldl, keeps_foldl_fst, keeps_foldl_snd, keeps_requeueOn]
theorem keeps_discardHeld (s : State) (core : Nat) (id : Nat) (h_s : Keeps s0 s) : Keeps s0 (discardHeld s core id) := by
  unfold discardHeld
  extract_lets
  (repeat' split) <;> grind -ring -linarith -lia -ac [keeps_State_setCore, keeps_bump, keeps_dropStop, keeps_requeueOn, keeps_setBlock]
theorem keeps_startSave (s : State) (core : Nat) (id : Nat) (h_s : Keeps s0 s) : Keeps s0 (startSave s core id) := by
  grind -ring -linarith -lia -ac [startSave, keeps_State_setCore]
theorem keeps_notePreempt (s : State) (p : Preempt) (h_s : Keeps s0 s) : Keeps s0 (notePreempt s p) := by
  unfold notePreempt
  try dsimp only
  repeat' first
    | with_reducible assumption
    | contradiction
    | with_reducible apply keeps_dropStop
    | (with_reducible eapply keeps_fst; case e => with_reducible assumption)
    | (with_reducible eapply keeps_snd; case e => with_reducible assumption)
    | (with_reducible eapply keeps_snd3; case e => with_reducible assumption)
    | split
    | intro _
    | with_reducible apply keeps_mk
    | with_reducible exact rfl
theorem keeps_releaseIdle (s : State) (core : Nat) (id : Nat) (h_s : Keeps s0 s) : Keeps s0 (releaseIdle s core id) := by
  unfold releaseIdle
  try dsimp only
  repeat' first
    | with_reducible assumption
    | contradiction
    | with_reducible apply keeps_State_setCore
    | with_reducible apply keeps_stopMade
    | (with_reducible eapply keeps_fst; case e => with_reducible assumption)
    | (with_reducible eapply keeps_snd; case e => with_reducible assumption)
    | (with_reducible eapply keeps_snd3; case e => with_reducible assumption)
    | split
    | intro _
    | with_reducible apply keeps_mk
    | with_reducible exact rfl
theorem keeps_preemptOne (si : State) (core : Nat) (victim : Nat) (waiter : Nat) (cause : PreemptCause) (h_si : Keeps s0 si) : Keeps s0 (preemptOne si core victim waiter cause) := by
  grind -ring -linarith -lia -ac [preemptOne, keeps_bump, keeps_discardHeld, keeps_notePreempt, keeps_releaseIdle, keeps_startSave]
theorem keeps_tileBoundary (s : State) (core : Nat) (h_s : Keeps s0 s) : Keeps s0 (tileBoundary s core) := by
  grind -ring -linarith -lia -ac [tileBoundary, keeps_State_setCore, keeps_releaseIdle]
theorem keeps_preemptCore (s : State) (core : Nat) (waiter : Nat) (h_s : Keeps s0 s) : Keeps s0 (preemptCore s core waiter) := by
  grind -ring -linarith -lia -ac [preemptCore, keeps_foldl, keeps_foldl_fst, keeps_foldl_snd, keeps_preemptOne]
theorem keeps_requestCores (s : State) (id : Nat) (n : Nat) (h_s : Keeps s0 s) : Keeps s0 (requestCores s id n) := by
  unfold requestCores
  try dsimp only
  repeat' first
    | with_reducible assumption
    | contradiction
    | with_reducible apply keeps_foldl
    | with_reducible apply keeps_foldl_fst
    | with_reducible apply keeps_foldl_snd
    | with_reducible apply keeps_preemptCore
    | split
    | intro _
theorem keeps_askHold (s : State) (core : Nat) (id : Nat) (kib : Nat) (h_s : Keeps s0 s) : Keeps s0 (askHold s core id kib) := by
  grind -ring -linarith -lia -ac [askHold, keeps_foldl, keeps_foldl_fst, keeps_foldl_snd, keeps_preemptCore, keeps_preemptOne]
theorem keeps_takeHold_1 (s : State) (core : Nat) (id : Nat) (reserveKib : Nat) (scratchKib : Nat) {tt : State} (ee : takeHold s core id reserveKib scratchKib = .ok tt) (h_s : Keeps s0 s) : Keeps s0 tt := by
  grind -ring -linarith -lia -ac [takeHold, keeps_State_setCore, keeps_askHold]
theorem keeps_takeHold_2 (s : State) (core : Nat) (id : Nat) (reserveKib : Nat) (scratchKib : Nat) {tt : State} (ee : takeHold s core id reserveKib scratchKib = .error tt) (h_s : Keeps s0 s) : Keeps s0 tt := by
  unfold takeHold at ee
  try dsimp only at ee
  (repeat' split at ee) <;> (try cases ee)
  repeat' first
    | with_reducible assumption
    | contradiction
    | with_reducible apply keeps_State_setCore
    | with_reducible apply keeps_askHold
theorem keeps_askTile (s : State) (core : Nat) (id : Nat) (kib : Nat) (h_s : Keeps s0 s) : Keeps s0 (askTile s core id kib) := by
  unfold askTile
  try dsimp only
  repeat' first
    | with_reducible assumption
    | contradiction
    | with_reducible apply keeps_askHold
    | (with_reducible eapply keeps_fst; case e => with_reducible assumption)
    | (with_reducible eapply keeps_snd; case e => with_reducible assumption)
    | (with_reducible eapply keeps_snd3; case e => with_reducible assumption)
    | split
theorem keeps_noteBoost (s : State) (id : Nat) (h_s : Keeps s0 s) : Keeps s0 (noteBoost s id) := by
  grind -ring -linarith -lia -ac [noteBoost, keeps_incBlock, Keeps]
theorem keeps_unitFault (s : State) (id : Nat) (detail : Nat) (h_s : Keeps s0 s) : Keeps s0 (unitFault s id detail) := by
  grind -ring -linarith -lia -ac [unitFault, keeps_raise]
theorem keeps_dispatchResident (cmd : Nat) (s : State) (h_s : Keeps s0 s) : Keeps s0 (dispatchResident cmd s) := by
  unfold dispatchResident
  try dsimp only
  repeat' first
    | with_reducible assumption
    | contradiction
    | with_reducible apply keeps_State_setCore
    | with_reducible apply keeps_nameWg
    | with_reducible apply keeps_noteBoost
    | with_reducible apply keeps_requestCores
    | with_reducible apply keeps_unitFault
    | (with_reducible eapply keeps_fst; case e => with_reducible assumption)
    | (with_reducible eapply keeps_snd; case e => with_reducible assumption)
    | (with_reducible eapply keeps_snd3; case e => with_reducible assumption)
    | split
    | intro _
    | with_reducible apply keeps_mk
    | with_reducible exact rfl
theorem keeps_noteSave (s : State) (c : Nat) (h_s : Keeps s0 s) : Keeps s0 (noteSave s c) := by
  grind -ring -linarith -lia -ac [noteSave, keeps_incBlock, keeps_setBlock]
theorem keeps_execSaveComplete (core : Nat) (s : State) {tt : State} (ee : execSaveComplete core s = .next tt) (h_s : Keeps s0 s) : Keeps s0 tt := by
  simp only [execSaveComplete, done] at ee
  (repeat' split at ee) <;> cases ee
  repeat' first
    | with_reducible assumption
    | contradiction
    | with_reducible apply keeps_State_setCore
    | with_reducible apply keeps_bump
    | with_reducible apply keeps_bumpBy
    | with_reducible apply keeps_foldl
    | with_reducible apply keeps_foldl_fst
    | with_reducible apply keeps_foldl_snd
    | with_reducible apply keeps_noteSave
    | with_reducible apply keeps_raise
    | with_reducible apply keeps_requeueOn
    | with_reducible apply keeps_served
    | with_reducible apply keeps_writeFrame
    | (with_reducible eapply keeps_fst; case e => with_reducible assumption)
    | (with_reducible eapply keeps_snd; case e => with_reducible assumption)
    | (with_reducible eapply keeps_snd3; case e => with_reducible assumption)
    | split
    | intro _
    | with_reducible apply keeps_mk
    | with_reducible exact rfl
theorem keeps_rewait (s : State) (core : Nat) (id : Nat) (h_s : Keeps s0 s) : Keeps s0 (rewait s core id) := by
  grind -ring -linarith -lia -ac [rewait, keeps_endFwait, keeps_foldl, keeps_foldl_fst, keeps_foldl_snd]
theorem keeps_askRestore (s : State) (e : Saved) (h_s : Keeps s0 s) : Keeps s0 (askRestore s e) := by
  grind -ring -linarith -lia -ac [askRestore, keeps_askHold, keeps_preemptCore, keeps_requestCores, keeps_unitFault]
theorem keeps_discardOn (s : State) (core : Nat) (ctx : Nat) (h_s : Keeps s0 s) : Keeps s0 (discardOn s core ctx) := by
  unfold discardOn
  try dsimp only
  repeat' first
    | with_reducible assumption
    | contradiction
    | with_reducible apply keeps_State_setCore
    | with_reducible apply keeps_requeueOn
    | (with_reducible eapply keeps_fst; case e => with_reducible assumption)
    | (with_reducible eapply keeps_snd; case e => with_reducible assumption)
    | (with_reducible eapply keeps_snd3; case e => with_reducible assumption)
    | split
    | intro _
    | with_reducible apply keeps_mk
    | with_reducible exact rfl
theorem keeps_putBack (s : State) (k : Nat) (e : Saved) (core : Nat) (c : Core) (h_s : Keeps s0 s) : Keeps s0 (putBack s k e core c) := by
  unfold putBack
  try dsimp only
  repeat' first
    | with_reducible assumption
    | contradiction
    | with_reducible apply keeps_State_setCore
    | with_reducible apply keeps_bump
    | with_reducible apply keeps_discardOn
    | with_reducible apply keeps_incBlock
    | with_reducible apply keeps_moveStores
    | with_reducible apply keeps_noteBoost
    | with_reducible apply keeps_raise
    | with_reducible apply keeps_requeueOn
    | with_reducible apply keeps_rewait
    | (with_reducible eapply keeps_fst; case e => with_reducible assumption)
    | (with_reducible eapply keeps_snd; case e => with_reducible assumption)
    | (with_reducible eapply keeps_snd3; case e => with_reducible assumption)
    | split
    | intro _
    | with_reducible apply keeps_mk
    | with_reducible exact rfl
theorem keeps_putRest (y0 : Nat) (y1 : State) (y2 : Nat) (y3 : Nat) (h_y1 : Keeps s0 y1) : Keeps s0 (putRest y0 y1 y2 y3) := by
  fun_induction putRest y0 y1 y2 y3 <;> grind -ring -linarith -lia -ac [keeps_putBack]
theorem keeps_execRestoreComplete (k : Nat) (s : State) {tt : State} (ee : execRestoreComplete k s = .next tt) (h_s : Keeps s0 s) : Keeps s0 tt := by
  simp only [execRestoreComplete, done] at ee
  (repeat' split at ee) <;> cases ee <;> grind -ring -linarith -lia -ac [keeps_askRestore, keeps_bump, keeps_putBack, keeps_putRest]
theorem keeps_execEscalation (core : Nat) (victim : Nat) (s : State) {tt : State} (ee : execEscalation core victim s = .next tt) (h_s : Keeps s0 s) : Keeps s0 tt := by
  grind -ring -linarith -lia -ac [execEscalation, keeps_bump, keeps_dropStop, keeps_notePreempt, keeps_startSave]
theorem keeps_execQuantumExpiry (core : Nat) (cmd : Nat) (s : State) {tt : State} (ee : execQuantumExpiry core cmd s = .next tt) (h_s : Keeps s0 s) : Keeps s0 tt := by
  grind -ring -linarith -lia -ac [execQuantumExpiry, keeps_bump, keeps_notePreempt, keeps_tileBoundary]
theorem keeps_watchdogFault (s : State) (id : Nat) (kind : Nat) (limit : Nat) (off : Nat) (h_s : Keeps s0 s) : Keeps s0 (watchdogFault s id kind limit off) := by
  unfold watchdogFault
  extract_lets
  (repeat' split) <;> grind -ring -linarith -lia -ac [keeps_bump, keeps_raise, keeps_setBlock]
theorem keeps_execQueueWatchdog (q : Nat) (s : State) {tt : State} (ee : execQueueWatchdog q s = .next tt) (h_s : Keeps s0 s) : Keeps s0 tt := by
  grind -ring -linarith -lia -ac [execQueueWatchdog, keeps_watchdogFault]
theorem keeps_execContextWatchdog (cmd : Nat) (s : State) {tt : State} (ee : execContextWatchdog cmd s = .next tt) (h_s : Keeps s0 s) : Keeps s0 tt := by
  grind -ring -linarith -lia -ac [execContextWatchdog, keeps_watchdogFault]
theorem keeps_corePower (s : State) (h_s : Keeps s0 s) : Keeps s0 (corePower s) := by
  grind -ring -linarith -lia -ac [corePower, Keeps]
theorem keeps_stepX (s : State) (g : GroupAt) (code : List Nat) (ok : Bool) (k : State → Group → State) (h_s : Keeps s0 s) (h_k : ∀ (z0 : State) (z1 : Group), Keeps s0 z0 → Keeps s0 (k z0 z1)) : Keeps s0 (stepX s g code ok k) := by
  grind -ring -linarith -lia -ac [stepX, keeps_groupFault, keeps_inCycle, keeps_issueCheck_1, keeps_issueCheck_2]
theorem keeps_finishX (s : State) (g : GroupAt) (y : Group) (h_s : Keeps s0 s) : Keeps s0 (finishX s g y) := by
  grind -ring -linarith -lia -ac [finishX, keeps_State_setGroup, keeps_countIssue]
theorem keeps_execBar (g : GroupAt) (e : EncX) (s : State) {tt : State} (ee : execBar g e s = .next tt) (h_s : Keeps s0 s) : Keeps s0 tt := by
  simp only [execBar, done] at ee
  (repeat' split at ee) <;> cases ee <;> grind -ring -linarith -lia -ac [keeps_State_setGroup, keeps_countIssue, keeps_groupFault, keeps_settleWg, keeps_stepX]
theorem keeps_execMembar (g : GroupAt) (e : EncX) (s : State) {tt : State} (ee : execMembar g e s = .next tt) (h_s : Keeps s0 s) : Keeps s0 tt := by
  simp only [execMembar, done] at ee
  (repeat' split at ee) <;> cases ee <;> grind -ring -linarith -lia -ac [keeps_finishX, keeps_stepX]
theorem keeps_execFsig (g : GroupAt) (e : EncX) (s : State) {tt : State} (ee : execFsig g e s = .next tt) (h_s : Keeps s0 s) : Keeps s0 tt := by
  simp only [execFsig, done] at ee
  (repeat' split at ee) <;> cases ee <;> grind -ring -linarith -lia -ac [keeps_finishX, keeps_groupFault, keeps_settle, keeps_stepX]
theorem keeps_execFwait (g : GroupAt) (e : EncX) (s : State) {tt : State} (ee : execFwait g e s = .next tt) (h_s : Keeps s0 s) : Keeps s0 tt := by
  simp only [execFwait, done] at ee
  (repeat' split at ee) <;> cases ee <;> grind -ring -linarith -lia -ac [keeps_State_setGroup, keeps_countIssue, keeps_endFwait, keeps_finishX, keeps_groupFault, keeps_stepX]
theorem keeps_execFread (g : GroupAt) (e : EncX) (s : State) {tt : State} (ee : execFread g e s = .next tt) (h_s : Keeps s0 s) : Keeps s0 tt := by
  simp only [execFread, done] at ee
  (repeat' split at ee) <;> cases ee <;> grind -ring -linarith -lia -ac [keeps_finishX, keeps_groupFault, keeps_stepX]
theorem keeps_execFenceTimeout (w : Waiter) (s : State) {tt : State} (ee : execFenceTimeout w s = .next tt) (h_s : Keeps s0 s) : Keeps s0 tt := by
  simp only [execFenceTimeout, done] at ee
  (repeat' split at ee) <;> cases ee <;> grind -ring -linarith -lia -ac [keeps_endFwait, keeps_settle]
theorem keeps_packetFault (s : State) (p : Pkt) (a : AccFault) (h_s : Keeps s0 s) : Keeps s0 (packetFault s p a) := by
  grind -ring -linarith -lia -ac [packetFault, keeps_notePoison, keeps_raise]
theorem keeps_descFault (s : State) (p : Pkt) (va : Nat) (detail : Nat) (h_s : Keeps s0 s) : Keeps s0 (descFault s p va detail) := by
  grind -ring -linarith -lia -ac [descFault, keeps_raise]
theorem keeps_fetchPacket (s : State) (p : Pkt) (min : Nat) (implied : Bool) (ok : Bool) (k : State → State) (h_s : Keeps s0 s) (h_k : ∀ (z0 : State), Keeps s0 z0 → Keeps s0 (k z0)) : Keeps s0 (fetchPacket s p min implied ok k) := by
  grind -ring -linarith -lia -ac [fetchPacket, keeps_packetFault]
theorem keeps_consume (s : State) (p : Pkt) (h_s : Keeps s0 s) : Keeps s0 (consume s p) := by
  grind -ring -linarith -lia -ac [consume, keeps_State_setQueue, keeps_report]
theorem keeps_startCmd (s : State) (p : Pkt) (c : Cmd) (h_s : Keeps s0 s) : Keeps s0 (startCmd s p c) := by
  grind -ring -linarith -lia -ac [startCmd, keeps_consume, Keeps]

end Sys2Proof.Machine
end

