-- ==== Sys2Proof/Laws/Keeps3.lean ====
section
/-! SUPPORT. What the operations and commands of Launch, Packets, Tensor, Cut, CutRun, Render, Binning keep (see Keeps). -/

namespace Sys2Proof.Machine
variable {s0 : State}

theorem keeps_frontRead (s : State) (c : Nat) (va : Nat) (n : Nat) {x0 : List Byte} {tt : State} (ee : frontRead s c va n = .ok (x0, tt)) (h_s : Keeps s0 s) : Keeps s0 tt := by
  grind -ring -linarith -lia -ac [frontRead, keeps_vread]
theorem keeps_loadHeader (s : State) (c : Nat) (va : Nat) {a : Prog} {tt : State} (ee : loadHeader s c va = .ok a tt) (h_s : Keeps s0 s) : Keeps s0 tt := by
  grind -ring -linarith -lia -ac [loadHeader, keeps_frontRead]
theorem keeps_execDispatch (p : Pkt) (s : State) {tt : State} (ee : execDispatch p s = .next tt) (h_s : Keeps s0 s) : Keeps s0 tt := by
  grind -ring -linarith -lia -ac [execDispatch, keeps_descFault, keeps_fetchPacket, keeps_loadHeader, keeps_packetFault, keeps_startCmd]
theorem keeps_commandComplete (cmd : Nat) (s : State) (h_s : Keeps s0 s) : Keeps s0 (commandComplete cmd s) := by
  grind -ring -linarith -lia -ac [commandComplete, keeps_finishCmd]
theorem keeps_ringDoorbell (s : State) (a : Access) (t : Nat) (i : Nat) (q : Nat) (w : Nat) (h_s : Keeps s0 s) : Keeps s0 (ringDoorbell s a t i q w) := by
  unfold ringDoorbell
  extract_lets
  (repeat' split) <;> grind -ring -linarith -lia -ac [keeps_State_setQueue, keeps_accLog, keeps_raise, keeps_report]
theorem keeps_execQueueDoorbell (a : Access) (t : Nat) (i : Nat) (s : State) {tt : State} (ee : execQueueDoorbell a t i s = .next tt) (h_s : Keeps s0 s) : Keeps s0 tt := by
  grind -ring -linarith -lia -ac [execQueueDoorbell, keeps_accLog, keeps_ownPage, keeps_ringDoorbell]
theorem keeps_execNopPacket (p : Pkt) (s : State) {tt : State} (ee : execNopPacket p s = .next tt) (h_s : Keeps s0 s) : Keeps s0 tt := by
  grind -ring -linarith -lia -ac [execNopPacket, keeps_consume, keeps_fetchPacket]
theorem keeps_execBadPacket (p : Pkt) (opcode : BitVec 16) (s : State) {tt : State} (ee : execBadPacket p opcode s = .next tt) (h_s : Keeps s0 s) : Keeps s0 tt := by
  grind -ring -linarith -lia -ac [execBadPacket, keeps_fetchPacket]
theorem keeps_execFenceSignal (p : Pkt) (s : State) {tt : State} (ee : execFenceSignal p s = .next tt) (h_s : Keeps s0 s) : Keeps s0 tt := by
  grind -ring -linarith -lia -ac [execFenceSignal, keeps_consume, keeps_fetchPacket, keeps_packetFault, keeps_settle]
theorem keeps_execFenceWait (p : Pkt) (s : State) {tt : State} (ee : execFenceWait p s = .next tt) (h_s : Keeps s0 s) : Keeps s0 tt := by
  grind -ring -linarith -lia -ac [execFenceWait, keeps_State_setQueue, keeps_endQwaits, keeps_fetchPacket, keeps_packetFault, keeps_settle, keeps_startCmd]
theorem keeps_flushLine (s : State) (ln : Nat) (h_s : Keeps s0 s) : Keeps s0 (flushLine s ln) := by
  grind -ring -linarith -lia -ac [flushLine, keeps_State_setMem, keeps_hostWriteLine]
theorem keeps_removeLine (s : State) (ln : Nat) (h_s : Keeps s0 s) : Keeps s0 (removeLine s ln) := by
  grind -ring -linarith -lia -ac [removeLine, keeps_State_setMem, keeps_invalidateLine]
theorem keeps_execFlush (p : Pkt) (s : State) {tt : State} (ee : execFlush p s = .next tt) (h_s : Keeps s0 s) : Keeps s0 tt := by
  grind -ring -linarith -lia -ac [execFlush, keeps_consume, keeps_fetchPacket, keeps_flushLine, keeps_foldl, keeps_foldl_fst, keeps_foldl_snd]
theorem keeps_execInvalidate (p : Pkt) (s : State) {tt : State} (ee : execInvalidate p s = .next tt) (h_s : Keeps s0 s) : Keeps s0 tt := by
  grind -ring -linarith -lia -ac [execInvalidate, keeps_consume, keeps_fetchPacket, keeps_flushLine, keeps_foldl, keeps_foldl_fst, keeps_foldl_snd, keeps_removeLine]
theorem keeps_icacheDrop (s : State) (c : Nat) (h_s : Keeps s0 s) : Keeps s0 (icacheDrop s c) := by
  grind -ring -linarith -lia -ac [icacheDrop, keeps_State_setMem]
theorem keeps_execIcacheInvalidate (p : Pkt) (s : State) {tt : State} (ee : execIcacheInvalidate p s = .next tt) (h_s : Keeps s0 s) : Keeps s0 tt := by
  grind -ring -linarith -lia -ac [execIcacheInvalidate, keeps_consume, keeps_fetchPacket, keeps_icacheDrop]
theorem keeps_execTlbInvalidate (p : Pkt) (s : State) {tt : State} (ee : execTlbInvalidate p s = .next tt) (h_s : Keeps s0 s) : Keeps s0 tt := by
  grind -ring -linarith -lia -ac [execTlbInvalidate, keeps_consume, keeps_fetchPacket, keeps_tlbDrop]
theorem keeps_stepTensor (s : State) (g : GroupAt) (op : Nat) (e : EncT) (ok : Bool) (twld : Bool) (k : State → Group → Except AccFault (TensorOp × State)) (h_s : Keeps s0 s) (h_k : ∀ (z0 : State) (z1 : Group), Keeps s0 z0 → ∀ {x0 : TensorOp} {tt : State} , k z0 z1 = .ok (x0, tt) → Keeps s0 tt) : Keeps s0 (stepTensor s g op e ok twld k) := by
  grind -ring -linarith -lia -ac [stepTensor, keeps_finishX, keeps_groupFault, keeps_startEntry, keeps_stepX]
theorem keeps_execTmma (g : GroupAt) (e : EncT) (s : State) {tt : State} (ee : execTmma g e s = .next tt) (h_s : Keeps s0 s) : Keeps s0 tt := by
  simp only [execTmma, done] at ee
  (repeat' split at ee) <;> cases ee <;> grind -ring -linarith -lia -ac [keeps_stepTensor]
theorem keeps_execTcvt (g : GroupAt) (e : EncT) (s : State) {tt : State} (ee : execTcvt g e s = .next tt) (h_s : Keeps s0 s) : Keeps s0 tt := by
  simp only [execTcvt, done] at ee
  (repeat' split at ee) <;> cases ee <;> grind -ring -linarith -lia -ac [keeps_stepTensor]
theorem keeps_execTwld (g : GroupAt) (e : EncT) (s : State) {tt : State} (ee : execTwld g e s = .next tt) (h_s : Keeps s0 s) : Keeps s0 tt := by
  unfold execTwld done at ee
  injection ee with ee
  subst ee
  refine keeps_stepTensor _ _ _ _ _ _ _ h_s (fun s1 x k y t h => ?_)
  dsimp only at h
  split at h
  · cases h
  · split at h
    · cases h
    · next h2 => cases h; exact keeps_pieces _ _ _ _ _ h2 k
theorem keeps_execTsync (g : GroupAt) (e : EncT) (s : State) {tt : State} (ee : execTsync g e s = .next tt) (h_s : Keeps s0 s) : Keeps s0 tt := by
  simp only [execTsync, done] at ee
  (repeat' split at ee) <;> cases ee <;> grind -ring -linarith -lia -ac [keeps_finishX, keeps_groupFault, keeps_stepX]
theorem keeps_tensorFinish (s : State) (core : Nat) (k : Nat) (q : TqEntry) (h_s : Keeps s0 s) : Keeps s0 (tensorFinish s core k q) := by
  grind -ring -linarith -lia -ac [tensorFinish, keeps_State_setCore, keeps_requeueOn, keeps_settleWg]
theorem keeps_tensorDo (s : State) (core : Nat) (k : Nat) (q : TqEntry) (space : Nat) (a : Nat) (n : Nat) (draws : Nat) (put : Core → Core) (cnt : State → State) (h_s : Keeps s0 s) (h_cnt : ∀ (z0 : State), Keeps s0 z0 → Keeps s0 (cnt z0)) : Keeps s0 (tensorDo s core k q space a n draws put cnt) := by
  unfold tensorDo
  try dsimp only
  repeat' first
    | with_reducible assumption
    | contradiction
    | with_reducible apply keeps_State_setCore
    | with_reducible apply keeps_entryFaults
    | with_reducible apply keeps_requeueOn
    | with_reducible apply keeps_tensorFinish
    | (with_reducible eapply keeps_fst; case e => with_reducible assumption)
    | (with_reducible eapply keeps_snd; case e => with_reducible assumption)
    | (with_reducible eapply keeps_snd3; case e => with_reducible assumption)
    | split
    | intro _
    | with_reducible apply_assumption
theorem keeps_execTmmaComplete (core : Nat) (k : Nat) (s : State) {tt : State} (ee : execTmmaComplete core k s = .next tt) (h_s : Keeps s0 s) : Keeps s0 tt := by
  simp only [execTmmaComplete, done] at ee
  (repeat' split at ee) <;> cases ee <;> grind -ring -linarith -lia -ac [keeps_bump, keeps_bumpBy, keeps_tensorDo]
theorem keeps_execTcvtComplete (core : Nat) (k : Nat) (s : State) {tt : State} (ee : execTcvtComplete core k s = .next tt) (h_s : Keeps s0 s) : Keeps s0 tt := by
  simp only [execTcvtComplete, done] at ee
  (repeat' split at ee) <;> cases ee <;> grind -ring -linarith -lia -ac [keeps_tensorDo]
theorem keeps_execTwldComplete (core : Nat) (k : Nat) (s : State) {tt : State} (ee : execTwldComplete core k s = .next tt) (h_s : Keeps s0 s) : Keeps s0 tt := by
  simp only [execTwldComplete, done] at ee
  (repeat' split at ee) <;> cases ee <;> grind -ring -linarith -lia -ac [keeps_bumpBy, keeps_readPieces, keeps_tensorDo]
theorem keeps_passFault (s : State) (id : Nat) (desc : Nat) (unit : Nat) (a : AccFault) (h_s : Keeps s0 s) : Keeps s0 (passFault s id desc unit a) := by
  grind -ring -linarith -lia -ac [passFault, keeps_notePoison, keeps_raise]
theorem keeps_frontFault (s : State) (p : Pkt) (desc : Nat) (a : AccFault) (h_s : Keeps s0 s) : Keeps s0 (frontFault s p desc a) := by
  grind -ring -linarith -lia -ac [frontFault, keeps_notePoison, keeps_raise]
theorem keeps_cutProg (s : State) (c : Nat) (desc : Nat) (va : Nat) (scratchKib : Nat) {a : Prog} {tt : State} (ee : cutProg s c desc va scratchKib = .ok a tt) (h_s : Keeps s0 s) : Keeps s0 tt := by
  grind -ring -linarith -lia -ac [cutProg, keeps_loadHeader]
theorem keeps_cutMoves (s : State) (c : Nat) (desc : Nat) (h : CutHdr) (first : Nat) (n : Nat) {a : (List Move)} {tt : State} (ee : cutMoves s c desc h first n = .ok a tt) (h_s : Keeps s0 s) : Keeps s0 tt := by
  grind -ring -linarith -lia -ac [cutMoves, keeps_vread]
theorem keeps_cutStages (c : Nat) (desc : Nat) (h : CutHdr) (tbl : List Byte) (y0 : Nat) (y1 : Nat) (y2 : State) {a : (List (Prog × List Move))} {tt : State} (ee : cutStages c desc h tbl y0 y1 y2 = .ok a tt) (h_y2 : Keeps s0 y2) : Keeps s0 tt := by
  revert ee
  revert a tt
  fun_induction cutStages c desc h tbl y0 y1 y2 <;> intro a tt ee
  all_goals (try (repeat' split at ee))
  all_goals (try cases ee)
  repeat' first
    | with_reducible assumption
    | contradiction
    | (with_reducible eapply keeps_cutMoves; case ee => with_reducible assumption)
    | (with_reducible eapply keeps_cutProg; case ee => with_reducible assumption)
    | (with_reducible eapply keeps_fst; case e => with_reducible assumption)
    | (with_reducible eapply keeps_snd; case e => with_reducible assumption)
    | (with_reducible eapply keeps_snd3; case e => with_reducible assumption)
    | split
    | intro _
    | with_reducible apply_assumption
theorem keeps_cutStream (s : State) (c : Nat) (desc : Nat) (va : Nat) {a : (Option Stream)} {tt : State} (ee : cutStream s c desc va = .ok a tt) (h_s : Keeps s0 s) : Keeps s0 tt := by
  unfold cutStream at ee
  try dsimp only at ee
  (repeat' split at ee) <;> (try cases ee)
  repeat' first
    | with_reducible assumption
    | contradiction
    | (with_reducible eapply keeps_vread; case ee => with_reducible assumption)
theorem keeps_cutCombine (s : State) (c : Nat) (desc : Nat) (h : CutHdr) {a : (Option Prog)} {tt : State} (ee : cutCombine s c desc h = .ok a tt) (h_s : Keeps s0 s) : Keeps s0 tt := by
  grind -ring -linarith -lia -ac [cutCombine, keeps_cutProg]
theorem keeps_loadCut (s : State) (c : Nat) (desc : Nat) {a : CutPass} {tt : State} (ee : loadCut s c desc = .ok a tt) (h_s : Keeps s0 s) : Keeps s0 tt := by
  unfold loadCut at ee
  try dsimp only at ee
  (repeat' split at ee) <;> (try cases ee)
  repeat' first
    | with_reducible assumption
    | contradiction
    | (with_reducible eapply keeps_cutCombine; case ee => with_reducible assumption)
    | (with_reducible eapply keeps_cutStages; case ee => with_reducible assumption)
    | (with_reducible eapply keeps_cutStream; case ee => with_reducible assumption)
    | (with_reducible eapply keeps_vread; case ee => with_reducible assumption)
theorem keeps_joinSession (s : State) (ord : Option (Nat × Nat)) (again : Bool) (h_s : Keeps s0 s) : Keeps s0 (joinSession s ord again) := by
  unfold joinSession
  try dsimp only
  repeat' first
    | with_reducible assumption
    | contradiction
    | with_reducible apply keeps_setSession
    | (with_reducible eapply keeps_fst; case e => with_reducible assumption)
    | (with_reducible eapply keeps_snd; case e => with_reducible assumption)
    | (with_reducible eapply keeps_snd3; case e => with_reducible assumption)
    | split
theorem keeps_execCut (p : Pkt) (s : State) {tt : State} (ee : execCut p s = .next tt) (h_s : Keeps s0 s) : Keeps s0 tt := by
  simp only [execCut, done] at ee
  cases ee
  repeat' first
    | with_reducible assumption
    | contradiction
    | with_reducible apply keeps_bump
    | with_reducible apply keeps_fetchPacket
    | with_reducible apply keeps_frontFault
    | with_reducible apply keeps_joinSession
    | with_reducible apply keeps_packetFault
    | with_reducible apply keeps_startCmd
    | (with_reducible eapply keeps_loadCut; case ee => with_reducible assumption)
    | (with_reducible eapply keeps_fst; case e => with_reducible assumption)
    | (with_reducible eapply keeps_snd; case e => with_reducible assumption)
    | (with_reducible eapply keeps_snd3; case e => with_reducible assumption)
    | split
    | intro _
    | with_reducible apply keeps_mk
    | with_reducible exact rfl
theorem keeps_beginTile (s : State) (core : Nat) (id : Nat) (p : CutPass) (t : Nat) (combine : Bool) (h_s : Keeps s0 s) : Keeps s0 (beginTile s core id p t combine) := by
  unfold beginTile
  try dsimp only
  repeat' first
    | with_reducible assumption
    | contradiction
    | with_reducible apply keeps_State_setCore
    | with_reducible apply keeps_noteBoost
    | (with_reducible eapply keeps_fst; case e => with_reducible assumption)
    | (with_reducible eapply keeps_snd; case e => with_reducible assumption)
    | (with_reducible eapply keeps_snd3; case e => with_reducible assumption)
    | split
    | intro _
    | with_reducible apply keeps_mk
    | with_reducible exact rfl
theorem keeps_startTile (s : State) (core : Nat) (cmd : Nat) (combine : Bool) (h_s : Keeps s0 s) : Keeps s0 (startTile s core cmd combine) := by
  unfold startTile
  try dsimp only
  repeat' first
    | with_reducible assumption
    | contradiction
    | with_reducible apply keeps_askTile
    | with_reducible apply keeps_beginTile
    | (with_reducible eapply keeps_takeHold_1; case ee => with_reducible assumption)
    | (with_reducible eapply keeps_takeHold_2; case ee => with_reducible assumption)
    | (with_reducible eapply keeps_fst; case e => with_reducible assumption)
    | (with_reducible eapply keeps_snd; case e => with_reducible assumption)
    | (with_reducible eapply keeps_snd3; case e => with_reducible assumption)
    | split
theorem keeps_execCutTileStart (core : Nat) (cmd : Nat) (s : State) {tt : State} (ee : execCutTileStart core cmd s = .next tt) (h_s : Keeps s0 s) : Keeps s0 tt := by
  grind -ring -linarith -lia -ac [execCutTileStart, keeps_startTile]
theorem keeps_execCombineTileStart (core : Nat) (cmd : Nat) (s : State) {tt : State} (ee : execCombineTileStart core cmd s = .next tt) (h_s : Keeps s0 s) : Keeps s0 tt := by
  grind -ring -linarith -lia -ac [execCombineTileStart, keeps_startTile]
theorem keeps_readRuns (s : State) (c : Nat) (y0 : List (Option Nat × Nat)) {x0 : List Byte} {tt : State} (ee : readRuns s c y0 = .ok (x0, tt)) (h_s : Keeps s0 s) : Keeps s0 tt := by
  induction y0 generalizing s x0 with
  | nil => simp only [readRuns, Except.ok.injEq, Prod.mk.injEq] at ee; exact ee.2 ▸ h_s
  | cons p r ih =>
    obtain ⟨a, n⟩ := p
    cases a with
    | none =>
      simp only [readRuns] at ee
      split at ee
      · cases ee
      · next h => cases ee; exact ih _ h h_s
    | some va =>
      simp only [readRuns] at ee
      split at ee
      · cases ee
      · next h1 =>
        split at ee
        · cases ee
        · next h => cases ee; exact ih _ h (keeps_vread _ _ _ _ h1 h_s)
theorem keeps_putRes (s : State) (core : Nat) (a : Nat) (bs : List Byte) (h_s : Keeps s0 s) : Keeps s0 (putRes s core a bs) := by
  grind -ring -linarith -lia -ac [putRes, keeps_State_setCore]
theorem keeps_writeRuns (s : State) (c : Nat) (rd : Nat → Byte) (y0 : List (Nat × List Nat)) (h_s : Keeps s0 s) : Keeps s0 (writeRuns s c rd y0).1 := by
  fun_induction writeRuns s c rd y0 <;> grind -ring -linarith -lia -ac [keeps_vwrite]
theorem keeps_endTile (s : State) (core : Nat) (r : TileRun) (p : CutPass) (h_s : Keeps s0 s) : Keeps s0 (endTile s core r p) := by
  grind -ring -linarith -lia -ac [endTile, keeps_State_setCore, keeps_bump, keeps_stopMade, keeps_tileBoundary, Keeps]
theorem keeps_advanceTile (s : State) (core : Nat) (r : TileRun) (p : CutPass) (done : TileStep) (h_s : Keeps s0 s) : Keeps s0 (advanceTile s core r p done) := by
  unfold advanceTile
  try dsimp only
  repeat' first
    | with_reducible assumption
    | contradiction
    | with_reducible apply keeps_State_setCore
    | with_reducible apply keeps_endTile
    | (with_reducible eapply keeps_done; case ee => with_reducible assumption)
    | (with_reducible eapply keeps_fst; case e => with_reducible assumption)
    | (with_reducible eapply keeps_snd; case e => with_reducible assumption)
    | (with_reducible eapply keeps_snd3; case e => with_reducible assumption)
    | split
theorem keeps_tileFaultAt (s : State) (core : Nat) (r : TileRun) (p : CutPass) (f : AccFault) (h_s : Keeps s0 s) : Keeps s0 (tileFaultAt s core r p f) := by
  grind -ring -linarith -lia -ac [tileFaultAt, keeps_passFault]
theorem keeps_loadSlab (s : State) (core : Nat) (r : TileRun) (p : CutPass) (b : Slab) (t : Nat) (odd : Bool) {tt : State} (ee : loadSlab s core r p b t odd = .ok tt) (h_s : Keeps s0 s) : Keeps s0 tt := by
  grind -ring -linarith -lia -ac [loadSlab, keeps_bumpBy, keeps_putRes, keeps_readRuns]
theorem keeps_doAhead (s : State) (core : Nat) (r : TileRun) (p : CutPass) (h_s : Keeps s0 s) : Keeps s0 (doAhead s core r p) := by
  unfold doAhead
  extract_lets
  (repeat' split) <;> grind -ring -linarith -lia -ac [keeps_State_setCore, keeps_loadSlab, keeps_tileFaultAt]
theorem keeps_doLoad (s : State) (core : Nat) (r : TileRun) (p : CutPass) (i : Nat) (h_s : Keeps s0 s) : Keeps s0 (doLoad s core r p i) := by
  unfold doLoad
  repeat' first
    | with_reducible assumption
    | contradiction
    | with_reducible apply keeps_State_setCore
    | with_reducible apply keeps_advanceTile
    | with_reducible apply keeps_bumpBy
    | with_reducible apply keeps_putRes
    | with_reducible apply keeps_tileFaultAt
    | (with_reducible eapply keeps_loadSlab; case ee => with_reducible assumption)
    | (with_reducible eapply keeps_readRuns; case ee => with_reducible assumption)
    | (with_reducible eapply keeps_fst; case e => with_reducible assumption)
    | (with_reducible eapply keeps_snd; case e => with_reducible assumption)
    | (with_reducible eapply keeps_snd3; case e => with_reducible assumption)
    | split
    | intro _
    | with_reducible apply keeps_mk
    | with_reducible exact rfl
theorem keeps_doMove (s : State) (core : Nat) (r : TileRun) (p : CutPass) (m : Nat) (i : Nat) (h_s : Keeps s0 s) : Keeps s0 (doMove s core r p m i) := by
  unfold doMove
  try dsimp only
  repeat' first
    | with_reducible assumption
    | contradiction
    | with_reducible apply keeps_State_setCore
    | with_reducible apply keeps_advanceTile
    | with_reducible apply keeps_bumpBy
    | with_reducible apply keeps_tileFaultAt
    | with_reducible apply keeps_vwrite
    | (with_reducible eapply keeps_vcheck; case ee => with_reducible assumption)
    | (with_reducible eapply keeps_vread; case ee => with_reducible assumption)
    | (with_reducible eapply keeps_fst; case e => with_reducible assumption)
    | (with_reducible eapply keeps_snd; case e => with_reducible assumption)
    | (with_reducible eapply keeps_snd3; case e => with_reducible assumption)
    | split
theorem keeps_doStore (s : State) (core : Nat) (r : TileRun) (p : CutPass) (i : Nat) (h_s : Keeps s0 s) : Keeps s0 (doStore s core r p i) := by
  grind -ring -linarith -lia -ac [doStore, keeps_advanceTile, keeps_bumpBy, keeps_tileFaultAt, keeps_writeRuns]
theorem keeps_doPart (s : State) (core : Nat) (r : TileRun) (p : CutPass) (h_s : Keeps s0 s) : Keeps s0 (doPart s core r p) := by
  grind -ring -linarith -lia -ac [doPart, keeps_advanceTile, keeps_bumpBy, keeps_tileFaultAt, keeps_vcheck, keeps_vwrite]
theorem keeps_execTileEngineTransferDone (core : Nat) (ahead : Bool) (s : State) {tt : State} (ee : execTileEngineTransferDone core ahead s = .next tt) (h_s : Keeps s0 s) : Keeps s0 tt := by
  simp only [execTileEngineTransferDone, done] at ee
  (repeat' split at ee) <;> cases ee
  repeat' first
    | with_reducible assumption
    | contradiction
    | with_reducible apply keeps_doAhead
    | with_reducible apply keeps_doLoad
    | with_reducible apply keeps_doMove
    | with_reducible apply keeps_doPart
    | with_reducible apply keeps_doStore
theorem keeps_execStageStart (core : Nat) (s : State) {tt : State} (ee : execStageStart core s = .next tt) (h_s : Keeps s0 s) : Keeps s0 tt := by
  simp only [execStageStart, done] at ee
  (repeat' split at ee) <;> cases ee
  repeat' first
    | with_reducible assumption
    | contradiction
    | with_reducible apply keeps_State_setCore
    | with_reducible apply keeps_nameWg
    | with_reducible apply keeps_preemptCore
theorem keeps_cutComplete (cmd : Nat) (s : State) (h_s : Keeps s0 s) : Keeps s0 (cutComplete cmd s) := by
  grind -ring -linarith -lia -ac [cutComplete, keeps_finishCmd]
theorem keeps_restartFold (s : State) (cmd : Nat) (p : CutPass) (h_s : Keeps s0 s) : Keeps s0 (restartFold s cmd p) := by
  grind -ring -linarith -lia -ac [restartFold, keeps_setSession, Keeps]
theorem keeps_execCutRestart (cmd : Nat) (s : State) {tt : State} (ee : execCutRestart cmd s = .next tt) (h_s : Keeps s0 s) : Keeps s0 tt := by
  grind -ring -linarith -lia -ac [execCutRestart, keeps_bump, keeps_foldl, keeps_foldl_fst, keeps_foldl_snd, keeps_joinSession, keeps_passFault, keeps_restartFold, Keeps]
theorem keeps_execWeightStreamStart (cmd : Nat) (s : State) {tt : State} (ee : execWeightStreamStart cmd s = .next tt) (h_s : Keeps s0 s) : Keeps s0 tt := by
  grind -ring -linarith -lia -ac [execWeightStreamStart, Keeps]
theorem keeps_drawProg (s : State) (c : Nat) (desc : Nat) (va : Nat) (kind : Nat) {a : Prog} {tt : State} (ee : drawProg s c desc va kind = .ok a tt) (h_s : Keeps s0 s) : Keeps s0 tt := by
  grind -ring -linarith -lia -ac [drawProg, keeps_loadHeader]
theorem keeps_drawOf (s : State) (c : Nat) (desc : Nat) (states : Nat) (r : List Byte) {a : Draw} {tt : State} (ee : drawOf s c desc states r = .ok a tt) (h_s : Keeps s0 s) : Keeps s0 tt := by
  unfold drawOf at ee
  split at ee
  · cases ee
  · split at ee
    · cases ee
    · cases ee
    · next pos s1 h1 =>
      have k1 := keeps_drawProg _ _ _ _ _ h1 h_s
      split at ee
      · cases ee
      · cases ee
      · next at2 s2 h2 =>
        have k2 : Keeps s0 s2 := by
          split at h2
          · cases h2; exact k1
          · split at h2
            · cases h2
            · cases h2
            · next h3 => cases h2; exact keeps_drawProg _ _ _ _ _ h3 k1
        split at ee
        · cases ee
        · cases ee
        · next h3 => cases ee; exact keeps_drawProg _ _ _ _ _ h3 k2
theorem keeps_drawsOf (c : Nat) (desc : Nat) (states : Nat) (y0 : State) (y1 : List (List Byte)) {a : (List Draw)} {tt : State} (ee : drawsOf c desc states y0 y1 = .ok a tt) (h_y0 : Keeps s0 y0) : Keeps s0 tt := by
  induction y1 generalizing y0 a with
  | nil => simp only [drawsOf, Found.ok.injEq] at ee; exact ee.2 ▸ h_y0
  | cons r rs ih =>
    simp only [drawsOf] at ee
    split at ee
    · cases ee
    · cases ee
    · next h1 =>
      split at ee
      · cases ee
      · cases ee
      · next h => cases ee; exact ih _ h (keeps_drawOf _ _ _ _ _ h1 h_y0)
theorem keeps_loadPass (s : State) (c : Nat) (desc : Nat) {a : RenderPass} {tt : State} (ee : loadPass s c desc = .ok a tt) (h_s : Keeps s0 s) : Keeps s0 tt := by
  unfold loadPass at ee
  try dsimp only at ee
  (repeat' split at ee) <;> (try cases ee)
  repeat' first
    | with_reducible assumption
    | contradiction
    | (with_reducible eapply keeps_drawsOf; case ee => with_reducible assumption)
    | (with_reducible eapply keeps_vread; case ee => with_reducible assumption)
theorem keeps_execRenderPass (p : Pkt) (s : State) {tt : State} (ee : execRenderPass p s = .next tt) (h_s : Keeps s0 s) : Keeps s0 tt := by
  simp only [execRenderPass, done] at ee
  cases ee
  repeat' first
    | with_reducible assumption
    | contradiction
    | with_reducible apply keeps_fetchPacket
    | with_reducible apply keeps_frontFault
    | with_reducible apply keeps_startCmd
    | (with_reducible eapply keeps_loadPass; case ee => with_reducible assumption)
    | (with_reducible eapply keeps_fst; case e => with_reducible assumption)
    | (with_reducible eapply keeps_snd; case e => with_reducible assumption)
    | (with_reducible eapply keeps_snd3; case e => with_reducible assumption)
    | split
    | intro _
    | with_reducible apply keeps_mk
    | with_reducible exact rfl
theorem keeps_placeVertex (s : State) (id : Nat) (r : RenderPass) (d : Nat) (g : Nat) (p : Prog) (placed : RenderPass) (h_s : Keeps s0 s) : Keeps s0 (placeVertex s id r d g p placed) := by
  unfold placeVertex
  try dsimp only
  repeat' first
    | with_reducible assumption
    | contradiction
    | with_reducible apply keeps_State_setCore
    | with_reducible apply keeps_nameWg
    | with_reducible apply keeps_noteBoost
    | with_reducible apply keeps_passFault
    | with_reducible apply keeps_requestCores
    | with_reducible apply keeps_setRender
    | with_reducible apply keeps_unitFault
    | (with_reducible eapply keeps_vread; case ee => with_reducible assumption)
    | (with_reducible eapply keeps_fst; case e => with_reducible assumption)
    | (with_reducible eapply keeps_snd; case e => with_reducible assumption)
    | (with_reducible eapply keeps_snd3; case e => with_reducible assumption)
    | split
    | intro _
    | with_reducible apply keeps_mk
    | with_reducible exact rfl
theorem keeps_passResident (cmd : Nat) (s : State) (h_s : Keeps s0 s) : Keeps s0 (passResident cmd s) := by
  grind -ring -linarith -lia -ac [passResident, keeps_placeVertex]
theorem keeps_execWorkgroupResident (cmd : Nat) (s : State) {tt : State} (ee : execWorkgroupResident cmd s = .next tt) (h_s : Keeps s0 s) : Keeps s0 tt := by
  grind -ring -linarith -lia -ac [execWorkgroupResident, keeps_dispatchResident, keeps_passResident]
theorem keeps_putWord (s : State) (c : Nat) (va : Nat) (v : Nat) {tt : State} (ee : putWord s c va v = .ok tt) (h_s : Keeps s0 s) : Keeps s0 tt := by
  grind -ring -linarith -lia -ac [putWord, keeps_vwrite]
theorem keeps_putWords (s : State) (c : Nat) (y0 : List (Nat × Nat)) {tt : State} (ee : putWords s c y0 = .ok tt) (h_s : Keeps s0 s) : Keeps s0 tt := by
  fun_induction putWords s c y0 <;> grind -ring -linarith -lia -ac [keeps_putWord]
theorem keeps_appendEntry_1 (s : State) (c : Nat) (r : RenderPass) (t : Nat) (b : Nat) (word : Nat) {a : AccFault} {tt : State} (ee : appendEntry s c r t b word = .fault a tt) (h_s : Keeps s0 s) : Keeps s0 tt := by
  grind -ring -linarith -lia -ac [appendEntry, keeps_bump, keeps_putWords]
theorem keeps_appendEntry_2 (s : State) (c : Nat) (r : RenderPass) (t : Nat) (b : Nat) (word : Nat) {a : RenderPass} {tt : State} (ee : appendEntry s c r t b word = .ok tt a) (h_s : Keeps s0 s) : Keeps s0 tt := by
  grind -ring -linarith -lia -ac [appendEntry, keeps_bump, keeps_putWords]
theorem keeps_appendAll_1 (s : State) (c : Nat) (r : RenderPass) (b : Nat) (word : Nat) (y0 : List Nat) {a : AccFault} {tt : State} (ee : appendAll s c r b word y0 = .fault a tt) (h_s : Keeps s0 s) : Keeps s0 tt := by
  fun_induction appendAll s c r b word y0 <;> grind -ring -linarith -lia -ac [keeps_appendEntry_1, keeps_appendEntry_2]
theorem keeps_appendAll_2 (s : State) (c : Nat) (r : RenderPass) (b : Nat) (word : Nat) (y0 : List Nat) {a : RenderPass} {tt : State} (ee : appendAll s c r b word y0 = .ok tt a) (h_s : Keeps s0 s) : Keeps s0 tt := by
  fun_induction appendAll s c r b word y0 <;> grind -ring -linarith -lia -ac [keeps_appendEntry_1, keeps_appendEntry_2]
theorem keeps_elemNumbers (s : State) (c : Nat) (d : Draw) (y0 : List Nat) {x0 : List Nat} {tt : State} (ee : elemNumbers s c d y0 = .ok (x0, tt)) (h_s : Keeps s0 s) : Keeps s0 tt := by
  induction y0 generalizing s x0 with
  | nil => simp only [elemNumbers, Except.ok.injEq, Prod.mk.injEq] at ee; exact ee.2 ▸ h_s
  | cons i is ih =>
    simp only [elemNumbers] at ee
    split at ee
    · cases ee
    · next v s1 h1 =>
      have k1 : Keeps s0 s1 := by
        split at h1
        · cases h1; exact h_s
        · split at h1
          · cases h1
          · next h2 => cases h1; exact keeps_vread _ _ _ _ h2 h_s
      split at ee
      · cases ee
      · next h => cases ee; exact ih _ h k1
theorem keeps_vertexWords (s : State) (c : Nat) (base : Nat) (n : Nat) (y0 : List Nat) {x0 : List (List Word)} {tt : State} (ee : vertexWords s c base n y0 = .ok (x0, tt)) (h_s : Keeps s0 s) : Keeps s0 tt := by
  revert ee
  revert x0 tt
  fun_induction vertexWords s c base n y0 <;> intro x0 tt ee
  all_goals (try (repeat' split at ee))
  all_goals (try cases ee)
  repeat' first
    | with_reducible assumption
    | contradiction
    | (with_reducible eapply keeps_vread; case ee => with_reducible assumption)
    | (with_reducible eapply keeps_fst; case e => with_reducible assumption)
    | (with_reducible eapply keeps_snd; case e => with_reducible assumption)
    | (with_reducible eapply keeps_snd3; case e => with_reducible assumption)
    | split
    | intro _
    | with_reducible apply_assumption
theorem keeps_binPrim_0 (s : State) (c : Nat) (r : RenderPass) (h_s : Keeps s0 s) :
    (∀ a tt, binPrim s c r = .fault a tt → Keeps s0 tt) ∧ (∀ a tt, binPrim s c r = .ok tt a → Keeps s0 tt) := by
  have kc : ∀ (t : State) (n : RenderPass) (b : Nat), Keeps s0 t →
      (∀ a tt, Bin.ok (bump t (0x9C + b) 0x108) n = .fault a tt → Keeps s0 tt) ∧
      (∀ a tt, Bin.ok (bump t (0x9C + b) 0x108) n = .ok tt a → Keeps s0 tt) := by
    intro t n b k
    exact ⟨fun a tt h => (by cases h), fun a tt h => (by cases h; exact keeps_bump _ _ _ k)⟩
  have k0 := keeps_bump s (0x9C + (r.primBase r.binDraw + r.binPrim) / 256 % 2) 0x100 h_s
  unfold binPrim
  dsimp only
  split
  · exact ⟨fun a tt h => (by cases h; exact k0), fun a tt h => (by cases h)⟩
  · next vs s1 h1 =>
    have k1 := keeps_elemNumbers _ _ _ _ h1 k0
    split
    · exact kc _ _ _ k1
    · split
      · exact ⟨fun a tt h => (by cases h; exact k1), fun a tt h => (by cases h)⟩
      · next h2 =>
        have k2 := keeps_vertexWords _ _ _ _ _ h2 k1
        split
        · exact kc _ _ _ k2
        · split
          · exact kc _ _ _ k2
          · exact ⟨fun a tt h => keeps_appendAll_1 _ _ _ _ _ _ h k2, fun a tt h => keeps_appendAll_2 _ _ _ _ _ _ h k2⟩

end Sys2Proof.Machine
end

