-- ==== Sys2Proof/Laws/Keeps4.lean ====
section
/-! SUPPORT. What the operations and commands of Binning, RenderRun, Flip, Prism, Outputs, Flume, Chip keep (see Keeps). -/

namespace Sys2Proof.Machine
variable {s0 : State}

theorem keeps_binPrim_1 (s : State) (c : Nat) (r : RenderPass) {a : AccFault} {tt : State} (ee : binPrim s c r = .fault a tt) (h_s : Keeps s0 s) : Keeps s0 tt := (keeps_binPrim_0 s c r h_s).1 _ _ ee
theorem keeps_binPrim_2 (s : State) (c : Nat) (r : RenderPass) {a : RenderPass} {tt : State} (ee : binPrim s c r = .ok tt a) (h_s : Keeps s0 s) : Keeps s0 tt := (keeps_binPrim_0 s c r h_s).2 _ _ ee
theorem keeps_clearHeads (s : State) (c : Nat) (r : RenderPass) (h_s : Keeps s0 s) : Keeps s0 (clearHeads s c r).1 := by
  grind -ring -linarith -lia -ac [clearHeads, keeps_vwrite]
theorem keeps_binBatch_1 (y0 : Nat) (y1 : State) (y2 : Nat) (y3 : RenderPass) {a : AccFault} {tt : State} (ee : binBatch y0 y1 y2 y3 = .fault a tt) (h_y1 : Keeps s0 y1) : Keeps s0 tt := by
  fun_induction binBatch y0 y1 y2 y3 <;> grind -ring -linarith -lia -ac [keeps_binPrim_1, keeps_binPrim_2, keeps_bump]
theorem keeps_binBatch_2 (y0 : Nat) (y1 : State) (y2 : Nat) (y3 : RenderPass) {a : RenderPass} {tt : State} (ee : binBatch y0 y1 y2 y3 = .ok tt a) (h_y1 : Keeps s0 y1) : Keeps s0 tt := by
  fun_induction binBatch y0 y1 y2 y3 <;> grind -ring -linarith -lia -ac [keeps_binPrim_1, keeps_binPrim_2, keeps_bump]
theorem keeps_setBinner (s : State) (b : Nat) (id : Nat) (h_s : Keeps s0 s) : Keeps s0 (setBinner s b id) := by
  grind -ring -linarith -lia -ac [setBinner, Keeps]
theorem keeps_freeBinners (s : State) (id : Nat) (h_s : Keeps s0 s) : Keeps s0 (freeBinners s id) := by
  grind -ring -linarith -lia -ac [freeBinners, Keeps]
theorem keeps_execDrawBinning (cmd : Nat) (s : State) {tt : State} (ee : execDrawBinning cmd s = .next tt) (h_s : Keeps s0 s) : Keeps s0 tt := by
  simp only [execDrawBinning, done] at ee
  (repeat' split at ee) <;> cases ee <;> grind -ring -linarith -lia -ac [keeps_binBatch_1, keeps_binBatch_2, keeps_binPrim_1, keeps_binPrim_2, keeps_bump, keeps_clearHeads, keeps_freeBinners, keeps_noteBoost, keeps_passFault, keeps_setBinner, keeps_setRender]
theorem keeps_execAttributePhaseStart (cmd : Nat) (draw : Nat) (s : State) {tt : State} (ee : execAttributePhaseStart cmd draw s = .next tt) (h_s : Keeps s0 s) : Keeps s0 tt := by
  grind -ring -linarith -lia -ac [execAttributePhaseStart, keeps_setRender]
theorem keeps_execTileShadingStart (cmd : Nat) (s : State) {tt : State} (ee : execTileShadingStart cmd s = .next tt) (h_s : Keeps s0 s) : Keeps s0 tt := by
  grind -ring -linarith -lia -ac [execTileShadingStart, keeps_setRender]
theorem keeps_execBinningResume (cmd : Nat) (s : State) {tt : State} (ee : execBinningResume cmd s = .next tt) (h_s : Keeps s0 s) : Keeps s0 tt := by
  grind -ring -linarith -lia -ac [execBinningResume, keeps_clearHeads, keeps_passFault, keeps_setRender]
theorem keeps_admitFrag (s : State) (core : Nat) (h_s : Keeps s0 s) : Keeps s0 (admitFrag s core) := by
  unfold admitFrag
  try dsimp only
  repeat' first
    | with_reducible assumption
    | contradiction
    | with_reducible apply keeps_State_setCore
    | with_reducible apply keeps_bumpBy
    | with_reducible apply keeps_nameWg
    | with_reducible apply keeps_passFault
    | (with_reducible eapply keeps_vread; case ee => with_reducible assumption)
    | (with_reducible eapply keeps_fst; case e => with_reducible assumption)
    | (with_reducible eapply keeps_snd; case e => with_reducible assumption)
    | (with_reducible eapply keeps_snd3; case e => with_reducible assumption)
    | split
    | intro _
    | with_reducible apply keeps_mk
    | with_reducible exact rfl
theorem keeps_admitFrags (y0 : Nat) (y1 : State) (y2 : Nat) (h_y1 : Keeps s0 y1) : Keeps s0 (admitFrags y0 y1 y2) := by
  fun_induction admitFrags y0 y1 y2 <;> (try simp_all) <;> grind -ring -linarith -lia -ac [keeps_admitFrag]
theorem keeps_setupPrims (s : State) (c : Nat) (r : RenderPass) (y0 : List Nat) {x0 : List Prim} {tt : State} (ee : setupPrims s c r y0 = .ok (x0, tt)) (h_s : Keeps s0 s) : Keeps s0 tt := by
  revert ee
  revert x0 tt
  fun_induction setupPrims s c r y0 <;> intro x0 tt ee
  all_goals (try (repeat' split at ee))
  all_goals (try cases ee)
  repeat' first
    | with_reducible assumption
    | contradiction
    | (with_reducible eapply keeps_elemNumbers; case ee => with_reducible assumption)
    | (with_reducible eapply keeps_vertexWords; case ee => with_reducible assumption)
    | (with_reducible eapply keeps_fst; case e => with_reducible assumption)
    | (with_reducible eapply keeps_snd; case e => with_reducible assumption)
    | (with_reducible eapply keeps_snd3; case e => with_reducible assumption)
    | split
    | intro _
    | with_reducible apply_assumption
theorem keeps_loadRows (c : Nat) (r : RenderPass) (pl : Nat × Attach) (y0 : List (Nat × Nat × Nat)) (y1 : State) (y2 : TMem) {tt : State} {x1 : TMem} {x2 : Nat} (ee : loadRows c r pl y0 y1 y2 = .ok (tt, x1, x2)) (h_y1 : Keeps s0 y1) : Keeps s0 tt := by
  revert ee
  revert tt x1 x2
  fun_induction loadRows c r pl y0 y1 y2 <;> intro tt x1 x2 ee
  all_goals (try (repeat' split at ee))
  all_goals (try cases ee)
  repeat' first
    | with_reducible assumption
    | contradiction
    | (with_reducible eapply keeps_vread; case ee => with_reducible assumption)
    | (with_reducible eapply keeps_fst; case e => with_reducible assumption)
    | (with_reducible eapply keeps_snd; case e => with_reducible assumption)
    | (with_reducible eapply keeps_snd3; case e => with_reducible assumption)
    | split
    | intro _
    | with_reducible apply_assumption
theorem keeps_loadAll (c : Nat) (r : RenderPass) (t : Nat) (y0 : List (Nat × Attach)) (y1 : State) (y2 : TMem) {tt : State} {x1 : TMem} {x2 : Nat} (ee : loadAll c r t y0 y1 y2 = .ok (tt, x1, x2)) (h_y1 : Keeps s0 y1) : Keeps s0 tt := by
  induction y0 generalizing y1 y2 x1 x2 with
  | nil => simp only [loadAll, Except.ok.injEq, Prod.mk.injEq] at ee; exact ee.1 ▸ h_y1
  | cons pl rest ih =>
    rw [loadAll] at ee
    dsimp only at ee
    generalize (if pl.2.loadOp = 2 then clearTile r.hdr pl y2 else _) = m1 at ee
    split at ee
    · cases ee
    · next s1 m2 k h1 =>
      have k1 : Keeps s0 s1 := by
        split at h1
        · exact keeps_loadRows _ _ _ _ _ _ h1 h_y1
        · cases h1; exact h_y1
      split at ee
      · cases ee
      · next h => cases ee; exact ih _ _ h k1
theorem keeps_tileContent (s : State) (c : Nat) (r : RenderPass) (t : Nat) {tt : State} {x1 : TMem} {x2 : Nat} (ee : tileContent s c r t = .ok (tt, x1, x2)) (h_s : Keeps s0 s) : Keeps s0 tt := by
  have k0 : Keeps s0 { s with freeTick := s.freeTick + 1 } := ⟨h_s.1, h_s.2.1, h_s.2.2⟩
  unfold tileContent at ee
  extract_lets m s1 n at ee
  split at ee
  · split at ee
    · cases ee
    · next h =>
      injection ee with ee
      injection ee with e1 e2
      exact e1 ▸ keeps_vread _ _ _ _ h k0
  · exact keeps_loadAll _ _ _ _ _ _ ee k0
theorem keeps_refit (s : State) (id : Nat) (r : RenderPass) (h_s : Keeps s0 s) : Keeps s0 (refit s id r).1 := by
  grind -ring -linarith -lia -ac [refit, keeps_bump, keeps_foldl, keeps_foldl_fst, keeps_foldl_snd, keeps_setRender]
theorem keeps_execRenderTileStart (core : Nat) (cmd : Nat) (s : State) {tt : State} (ee : execRenderTileStart core cmd s = .next tt) (h_s : Keeps s0 s) : Keeps s0 tt := by
  unfold execRenderTileStart at ee
  split at ee
  · cases ee; exact h_s
  · next r0 h0 =>
    have k0 := keeps_refit s cmd r0 h_s
    generalize refit s cmd r0 = p at ee k0
    obtain ⟨s, r⟩ := p
    dsimp only at ee k0
    split at ee
    · cases ee; exact keeps_passFault _ _ _ _ _ k0
    · split at ee
      · cases ee; exact k0
      · split at ee
        · cases ee; exact k0
        · next t ht =>
          split at ee
          · cases ee; exact keeps_askTile _ _ _ _ k0
          · split at ee
            · next h1 => cases ee; exact keeps_takeHold_2 _ _ _ _ _ h1 k0
            · next h1 =>
              have k1 := keeps_takeHold_1 _ _ _ _ _ h1 k0
              split at ee
              · cases ee; exact keeps_passFault _ _ _ _ _ k1
              · next h2 =>
                have k2 := keeps_tileContent _ _ _ _ h2 k1
                split at ee
                · cases ee; exact keeps_passFault _ _ _ _ _ k2
                · next h3 =>
                  cases ee
                  exact keeps_admitFrags _ _ _ (keeps_noteBoost _ _ (keeps_bumpBy _ _ _ _ (keeps_bumpBy _ _ _ _
                    (keeps_bumpBy _ _ _ _ (keeps_State_setCore _ _ _ (keeps_setupPrims _ _ _ _ h3 k2))))))
theorem keeps_execFragmentCommit (core : Nat) (k : Nat) (s : State) {tt : State} (ee : execFragmentCommit core k s = .next tt) (h_s : Keeps s0 s) : Keeps s0 tt := by
  simp only [execFragmentCommit, done] at ee
  (repeat' split at ee) <;> cases ee <;> grind -ring -linarith -lia -ac [keeps_State_setCore, keeps_admitFrags, keeps_bumpBy, keeps_passFault]
theorem keeps_writeRows (s : State) (c : Nat) (y0 : List (Nat × List Byte)) (h_s : Keeps s0 s) : Keeps s0 (writeRows s c y0).1 := by
  fun_induction writeRows s c y0 <;> grind -ring -linarith -lia -ac [keeps_vwrite]
theorem keeps_execRenderTileEnd (core : Nat) (s : State) {tt : State} (ee : execRenderTileEnd core s = .next tt) (h_s : Keeps s0 s) : Keeps s0 tt := by
  simp only [execRenderTileEnd, done] at ee
  (repeat' split at ee) <;> cases ee
  repeat' first
    | with_reducible assumption
    | contradiction
    | with_reducible apply keeps_State_setCore
    | with_reducible apply keeps_bump
    | with_reducible apply keeps_bumpBy
    | with_reducible apply keeps_passFault
    | with_reducible apply keeps_setRender
    | with_reducible apply keeps_tileBoundary
    | with_reducible apply keeps_writeRows
    | (with_reducible eapply keeps_fst; case e => with_reducible assumption)
theorem keeps_forgetLists (s : State) (c : Nat) (r : RenderPass) (h_s : Keeps s0 s) : Keeps s0 (forgetLists s c r) := by
  grind -ring -linarith -lia -ac [forgetLists, keeps_vwrite, Keeps]
theorem keeps_execRenderPassComplete (cmd : Nat) (s : State) {tt : State} (ee : execRenderPassComplete cmd s = .next tt) (h_s : Keeps s0 s) : Keeps s0 tt := by
  grind -ring -linarith -lia -ac [execRenderPassComplete, keeps_finishCmd, keeps_forgetLists, Keeps]
theorem keeps_State_setLayer (s : State) (n : Nat) (k : Nat) (x : Layer) (h_s : Keeps s0 s) : Keeps s0 (State.setLayer s n k x) := by
  grind -ring -linarith -lia -ac [State.setLayer, Keeps]
theorem keeps_State_setPage (s : State) (t : Nat) (x : FlipPage) (h_s : Keeps s0 s) : Keeps s0 (State.setPage s t x) := by
  grind -ring -linarith -lia -ac [State.setPage, Keeps]
theorem keeps_eachSet (f : State → FlipSet → State) (xs : List FlipSet) (s : State) (h_f : ∀ (z0 : State) (z1 : FlipSet), Keeps s0 z0 → Keeps s0 (f z0 z1)) (h_s : Keeps s0 s) : Keeps s0 (eachSet f xs s) := by
  grind -ring -linarith -lia -ac [eachSet, keeps_foldl, keeps_foldl_fst, keeps_foldl_snd]
theorem keeps_cancelSet (s : State) (x : FlipSet) (h_s : Keeps s0 s) : Keeps s0 (cancelSet s x) := by
  grind -ring -linarith -lia -ac [cancelSet, keeps_bump, keeps_dropSet, keeps_noteLast, keeps_settle]
theorem keeps_preemptFor (s : State) (q : Nat) (h_s : Keeps s0 s) : Keeps s0 (preemptFor s q) := by
  grind -ring -linarith -lia -ac [preemptFor, keeps_askRestore, keeps_foldl, keeps_foldl_fst, keeps_foldl_snd, keeps_preemptCore, keeps_requestCores]
theorem keeps_raiseRequests (s : State) (x : FlipSet) (due : Nat) (h_s : Keeps s0 s) : Keeps s0 (raiseRequests s x due) := by
  grind -ring -linarith -lia -ac [raiseRequests, keeps_bumpBy, keeps_foldl, keeps_foldl_fst, keeps_foldl_snd, keeps_noteBoost, keeps_preemptFor, Keeps]
theorem keeps_raiseOn (s : State) (n : Nat) (h_s : Keeps s0 s) : Keeps s0 (raiseOn s n) := by
  grind -ring -linarith -lia -ac [raiseOn, keeps_foldl, keeps_foldl_fst, keeps_foldl_snd, keeps_raiseRequests]
theorem keeps_armSet (s : State) (t : Nat) (u : Submit) (done : Option Nat) (value : DWord) (h_s : Keeps s0 s) : Keeps s0 (armSet s t u done value) := by
  unfold armSet
  try dsimp only
  repeat' first
    | with_reducible assumption
    | contradiction
    | with_reducible apply keeps_cancelSet
    | with_reducible apply keeps_eachSet
    | with_reducible apply keeps_evalSet
    | with_reducible apply keeps_raiseOn
    | with_reducible apply keeps_settle
    | (with_reducible eapply keeps_done; case ee => with_reducible assumption)
    | (with_reducible eapply keeps_fst; case e => with_reducible assumption)
    | (with_reducible eapply keeps_snd; case e => with_reducible assumption)
    | (with_reducible eapply keeps_snd3; case e => with_reducible assumption)
    | split
    | intro _
    | with_reducible apply keeps_mk
    | with_reducible exact rfl
theorem keeps_execFlipSubmit (a : Access) (t : Nat) (s : State) {tt : State} (ee : execFlipSubmit a t s = .next tt) (h_s : Keeps s0 s) : Keeps s0 tt := by
  unfold execFlipSubmit at ee
  injection ee with ee
  subst ee
  refine keeps_ownPage _ _ _ _ _ h_s ?_
  extract_lets u
  split
  · exact keeps_State_setPage _ _ _ h_s
  · exact keeps_armSet _ _ _ _ _ (keeps_State_setPage _ _ _ h_s)
theorem keeps_discardSets (s : State) (p : FlipSet → Bool) (h_s : Keeps s0 s) : Keeps s0 (discardSets s p) := by
  grind -ring -linarith -lia -ac [discardSets, keeps_dropSet, keeps_foldl, keeps_foldl_fst, keeps_foldl_snd]
theorem keeps_disableLayers (s : State) (p : Nat → Bool) (h_s : Keeps s0 s) : Keeps s0 (disableLayers s p) := by
  grind -ring -linarith -lia -ac [disableLayers, Keeps]
theorem keeps_latchSet (s : State) (x : FlipSet) (h_s : Keeps s0 s) : Keeps s0 (latchSet s x) := by
  unfold latchSet
  extract_lets
  (repeat' split) <;> grind -ring -linarith -lia -ac [keeps_State_setLayer, keeps_bump, keeps_dropSet, keeps_foldl, keeps_foldl_fst, keeps_foldl_snd, keeps_noteLast, keeps_settle]
theorem keeps_flipDeadline (s : State) (n : Nat) (late : List (Nat × Nat)) (h_s : Keeps s0 s) : Keeps s0 (flipDeadline s n late) := by
  unfold flipDeadline
  try dsimp only
  repeat' first
    | with_reducible assumption
    | contradiction
    | with_reducible apply keeps_State_setOutput
    | with_reducible apply keeps_bump
    | with_reducible apply keeps_bumpBy
    | with_reducible apply keeps_disableLayers
    | with_reducible apply keeps_discardSets
    | with_reducible apply keeps_eachSet
    | with_reducible apply keeps_latchSet
    | with_reducible apply keeps_raiseOn
    | (with_reducible eapply keeps_fst; case e => with_reducible assumption)
    | (with_reducible eapply keeps_snd; case e => with_reducible assumption)
    | (with_reducible eapply keeps_snd3; case e => with_reducible assumption)
    | split
    | intro _
    | with_reducible apply keeps_mk
    | with_reducible exact rfl
theorem keeps_execFlipDeadline (n : Nat) (late : List (Nat × Nat)) (s : State) {tt : State} (ee : execFlipDeadline n late s = .next tt) (h_s : Keeps s0 s) : Keeps s0 tt := by
  grind -ring -linarith -lia -ac [execFlipDeadline, keeps_flipDeadline]
theorem keeps_execLeadWindowOpen (n : Nat) (due : Nat) (s : State) {tt : State} (ee : execLeadWindowOpen n due s = .next tt) (h_s : Keeps s0 s) : Keeps s0 tt := by
  grind -ring -linarith -lia -ac [execLeadWindowOpen, keeps_State_setOutput, keeps_raiseOn]
theorem keeps_countPoisoned (s : State) (k : Nat) (h_s : Keeps s0 s) : Keeps s0 (countPoisoned s k) := by
  grind -ring -linarith -lia -ac [countPoisoned, keeps_bumpBy, keeps_sawPoison]
theorem keeps_execBeaconPublish (n : Nat) (s : State) {tt : State} (ee : execBeaconPublish n s = .next tt) (h_s : Keeps s0 s) : Keeps s0 tt := by
  grind -ring -linarith -lia -ac [execBeaconPublish, keeps_State_setOutput, keeps_bumpBy, keeps_countPoisoned]
theorem keeps_replacePixel (s : State) (n : Nat) (x : Nat) (y : Nat) (h_s : Keeps s0 s) : Keeps s0 (replacePixel s n x y) := by
  grind -ring -linarith -lia -ac [replacePixel, keeps_State_setOutput, keeps_bump]
theorem keeps_execPixelUnderrun (n : Nat) (x : Nat) (y : Nat) (s : State) {tt : State} (ee : execPixelUnderrun n x y s = .next tt) (h_s : Keeps s0 s) : Keeps s0 tt := by
  grind -ring -linarith -lia -ac [execPixelUnderrun, keeps_replacePixel]
theorem keeps_keeperEntry (s : State) (n : Nat) (engineReset : Bool) (h_s : Keeps s0 s) : Keeps s0 (keeperEntry s n engineReset) := by
  grind -ring -linarith -lia -ac [keeperEntry, keeps_State_setOutput, keeps_discardSets]
theorem keeps_execKeeperEntry (n : Nat) (engineReset : Bool) (s : State) {tt : State} (ee : execKeeperEntry n engineReset s = .next tt) (h_s : Keeps s0 s) : Keeps s0 tt := by
  grind -ring -linarith -lia -ac [execKeeperEntry, keeps_keeperEntry]
theorem keeps_execKeeperRelease (n : Nat) (s : State) {tt : State} (ee : execKeeperRelease n s = .next tt) (h_s : Keeps s0 s) : Keeps s0 tt := by
  grind -ring -linarith -lia -ac [execKeeperRelease, keeps_State_setOutput]
theorem keeps_enterOff (s : State) (n : Nat) (h_s : Keeps s0 s) : Keeps s0 (enterOff s n) := by
  unfold enterOff
  try dsimp only
  repeat' first
    | with_reducible assumption
    | contradiction
    | with_reducible apply keeps_State_setOutput
    | with_reducible apply keeps_cancelSet
    | with_reducible apply keeps_disableLayers
    | with_reducible apply keeps_eachSet
    | (with_reducible eapply keeps_fst; case e => with_reducible assumption)
    | (with_reducible eapply keeps_snd; case e => with_reducible assumption)
    | (with_reducible eapply keeps_snd3; case e => with_reducible assumption)
    | split
    | intro _
    | with_reducible apply keeps_mk
    | with_reducible exact rfl
theorem keeps_beaconWrite (s : State) (a : Access) (part : Nat) (off : Nat) (locked : State) (ok : State) (h_s : Keeps s0 s) (h_locked : Keeps s0 locked) (h_ok : Keeps s0 ok) : Keeps s0 (beaconWrite s a part off locked ok) := by
  grind -ring -linarith -lia -ac [beaconWrite, keeps_accLog]
theorem keeps_commitBeacon (s : State) (n : Nat) (h_s : Keeps s0 s) : Keeps s0 (commitBeacon s n) := by
  grind -ring -linarith -lia -ac [commitBeacon, keeps_State_setOutput]
theorem keeps_execBeaconCommit (a : Access) (n : Nat) (s : State) {tt : State} (ee : execBeaconCommit a n s = .next tt) (h_s : Keeps s0 s) : Keeps s0 tt := by
  grind -ring -linarith -lia -ac [execBeaconCommit, keeps_State_setOutput, keeps_beaconWrite, keeps_commitBeacon]
theorem keeps_wbWrite (s : State) (n : Nat) (k : Nat) (h_s : Keeps s0 s) : Keeps s0 (wbWrite s n k) := by
  unfold wbWrite
  try dsimp only
  repeat' first
    | with_reducible assumption
    | contradiction
    | with_reducible apply keeps_countPoisoned
    | with_reducible apply keeps_foldl
    | with_reducible apply keeps_foldl_fst
    | with_reducible apply keeps_foldl_snd
    | with_reducible apply keeps_objWrite
    | (with_reducible eapply keeps_fst; case e => with_reducible assumption)
    | (with_reducible eapply keeps_snd; case e => with_reducible assumption)
    | (with_reducible eapply keeps_snd3; case e => with_reducible assumption)
    | split
    | intro _
    | with_reducible apply keeps_mk
    | with_reducible exact rfl
theorem keeps_ownerSignal (s : State) (n : Nat) (reg : DWord) (v : Nat) (h_s : Keeps s0 s) : Keeps s0 (ownerSignal s n reg v) := by
  grind -ring -linarith -lia -ac [ownerSignal, keeps_settle]
theorem keeps_execWritebackFrameDone (n : Nat) (dropped : Option Nat) (s : State) {tt : State} (ee : execWritebackFrameDone n dropped s = .next tt) (h_s : Keeps s0 s) : Keeps s0 tt := by
  simp only [execWritebackFrameDone, done] at ee
  (repeat' split at ee) <;> cases ee <;> grind -ring -linarith -lia -ac [keeps_bump, keeps_ownerSignal, keeps_wbWrite]
theorem keeps_startModeset (s : State) (n : Nat) (m : VideoMode) (owner : Bool) (h_s : Keeps s0 s) : Keeps s0 (startModeset s n m owner) := by
  grind -ring -linarith -lia -ac [startModeset, keeps_State_setOutput]
theorem keeps_freshUnit (s : State) (u : Nat) (h_s : Keeps s0 s) : Keeps s0 (freshUnit s u) := by
  grind -ring -linarith -lia -ac [freshUnit, keeps_State_setCore, keeps_clearCounters, Keeps]
theorem keeps_powerOn (s : State) (u : Nat) (h_s : Keeps s0 s) : Keeps s0 (powerOn s u) := by
  unfold powerOn
  try dsimp only
  repeat' first
    | with_reducible assumption
    | contradiction
    | with_reducible apply keeps_bump
    | with_reducible apply keeps_freshUnit
    | (with_reducible eapply keeps_fst; case e => with_reducible assumption)
    | (with_reducible eapply keeps_snd; case e => with_reducible assumption)
    | (with_reducible eapply keeps_snd3; case e => with_reducible assumption)
    | split
    | intro _
    | with_reducible apply keeps_mk
    | with_reducible exact rfl
theorem keeps_leaveOff (s : State) (n : Nat) (m : VideoMode) (owner : Bool) (h_s : Keeps s0 s) : Keeps s0 (leaveOff s n m owner) := by
  grind -ring -linarith -lia -ac [leaveOff, keeps_State_setOutput, keeps_powerOn, keeps_startModeset]
theorem keeps_ownerWrite (s : State) (a : Access) (n : Nat) (off : Nat) (k : Nat → State) (h_s : Keeps s0 s) (h_k : ∀ (z0 : Nat), Keeps s0 (k z0)) : Keeps s0 (ownerWrite s a n off k) := by
  grind -ring -linarith -lia -ac [ownerWrite, keeps_accRefuse]
theorem keeps_writeOutCtl (s : State) (a : Access) (n : Nat) (h_s : Keeps s0 s) : Keeps s0 (writeOutCtl s a n) := by
  grind -ring -linarith -lia -ac [writeOutCtl, keeps_State_setOutput, keeps_enterOff, keeps_leaveOff, keeps_startModeset]
theorem keeps_execOutputEnable (a : Access) (n : Nat) (s : State) {tt : State} (ee : execOutputEnable a n s = .next tt) (h_s : Keeps s0 s) : Keeps s0 tt := by
  grind -ring -linarith -lia -ac [execOutputEnable, keeps_ownerWrite, keeps_writeOutCtl]
theorem keeps_execOutputDisable (a : Access) (n : Nat) (s : State) {tt : State} (ee : execOutputDisable a n s = .next tt) (h_s : Keeps s0 s) : Keeps s0 tt := by
  grind -ring -linarith -lia -ac [execOutputDisable, keeps_ownerWrite, keeps_writeOutCtl]
theorem keeps_execModeset (a : Access) (n : Nat) (s : State) {tt : State} (ee : execModeset a n s = .next tt) (h_s : Keeps s0 s) : Keeps s0 tt := by
  grind -ring -linarith -lia -ac [execModeset, keeps_ownerWrite, keeps_writeOutCtl]
theorem keeps_execModesetDone (n : Nat) (link : Option (Nat × Nat)) (s : State) {tt : State} (ee : execModesetDone n link s = .next tt) (h_s : Keeps s0 s) : Keeps s0 tt := by
  simp only [execModesetDone, done] at ee
  (repeat' split at ee) <;> cases ee <;> grind -ring -linarith -lia -ac [keeps_State_setOutput]
theorem keeps_notifySink (s : State) (n : Nat) (h_s : Keeps s0 s) : Keeps s0 (notifySink s n) := by
  grind -ring -linarith -lia -ac [notifySink, keeps_ownerSignal]
theorem keeps_execHpdPlug (n : Nat) (bytes : List Byte) (blocks : List (List Byte)) (s : State) {tt : State} (ee : execHpdPlug n bytes blocks s = .next tt) (h_s : Keeps s0 s) : Keeps s0 tt := by
  grind -ring -linarith -lia -ac [execHpdPlug, keeps_State_setOutput, keeps_foldl, keeps_foldl_fst, keeps_foldl_snd, keeps_notifySink, keeps_startModeset]
theorem keeps_execHpdUnplug (n : Nat) (s : State) {tt : State} (ee : execHpdUnplug n s = .next tt) (h_s : Keeps s0 s) : Keeps s0 tt := by
  grind -ring -linarith -lia -ac [execHpdUnplug, keeps_State_setOutput, keeps_notifySink]
theorem keeps_execIrqHpd (n : Nat) (retrain : Option Bool) (s : State) {tt : State} (ee : execIrqHpd n retrain s = .next tt) (h_s : Keeps s0 s) : Keeps s0 tt := by
  simp only [execIrqHpd, done] at ee
  (repeat' split at ee) <;> cases ee <;> grind -ring -linarith -lia -ac [keeps_State_setOutput, keeps_bump]
theorem keeps_writeAux (s : State) (a : Access) (n : Nat) (h_s : Keeps s0 s) : Keeps s0 (writeAux s a n) := by
  grind -ring -linarith -lia -ac [writeAux, keeps_State_setOutput]
theorem keeps_execGo (a : Access) (n : Nat) (s : State) {tt : State} (ee : execGo a n s = .next tt) (h_s : Keeps s0 s) : Keeps s0 tt := by
  grind -ring -linarith -lia -ac [execGo, keeps_ownerWrite, keeps_writeAux]
theorem keeps_execAuxDone (n : Nat) (result : Nat) (bytes : List Byte) (s : State) {tt : State} (ee : execAuxDone n result bytes s = .next tt) (h_s : Keeps s0 s) : Keeps s0 tt := by
  grind -ring -linarith -lia -ac [execAuxDone, keeps_State_setOutput]
theorem keeps_writeWbCtl (s : State) (a : Access) (n : Nat) (t : Nat) (h_s : Keeps s0 s) : Keeps s0 (writeWbCtl s a n t) := by
  grind -ring -linarith -lia -ac [writeWbCtl, keeps_State_setOutput, keeps_accLog]
theorem keeps_writeOutReg (s : State) (a : Access) (n : Nat) (t : Nat) (off : Nat) (h_s : Keeps s0 s) : Keeps s0 (writeOutReg s a n t off) := by
  have hp : ∀ x, Keeps s0 (s.setOutput n x) := fun x => keeps_State_setOutput _ _ _ h_s
  exact keeps_ite (keeps_writeOutCtl _ _ _ h_s) (keeps_ite (hp _) (keeps_ite (hp _) (keeps_ite (hp _) (keeps_ite (hp _)
    (keeps_ite (hp _) (keeps_ite (hp _) (keeps_ite (keeps_writeWbCtl _ _ _ _ h_s) (keeps_ite (hp _) (keeps_ite (hp _)
      (keeps_ite (keeps_writeAux _ _ _ h_s) (keeps_ite (hp _) (keeps_ite (hp _) h_s))))))))))))
theorem keeps_writeLayerReg (s : State) (a : Access) (n : Nat) (k : Nat) (off : Nat) (h_s : Keeps s0 s) : Keeps s0 (writeLayerReg s a n k off) := by
  grind -ring -linarith -lia -ac [writeLayerReg, keeps_State_setLayer]
theorem keeps_writeBeaconReg (s : State) (a : Access) (n : Nat) (off : Nat) (h_s : Keeps s0 s) : Keeps s0 (writeBeaconReg s a n off) := by
  grind -ring -linarith -lia -ac [writeBeaconReg, keeps_State_setOutput, keeps_commitBeacon]
theorem keeps_writeStore (s : State) (a : Access) (at_ : Nat) (h_s : Keeps s0 s) : Keeps s0 (writeStore s a at_) := by
  grind -ring -linarith -lia -ac [writeStore, keeps_foldl, keeps_foldl_fst, keeps_foldl_snd, Keeps]
theorem keeps_writePrism (s : State) (a : Access) (t : Nat) (off : Nat) (h_s : Keeps s0 s) : Keeps s0 (writePrism s a t off) := by
  unfold writePrism
  repeat' first
    | with_reducible assumption
    | contradiction
    | with_reducible apply keeps_State_setOutput
    | with_reducible apply keeps_State_setPage
    | with_reducible apply keeps_accLog
    | with_reducible apply keeps_writeBeaconReg
    | with_reducible apply keeps_writeLayerReg
    | with_reducible apply keeps_writeOutReg
    | with_reducible apply keeps_writeStore
    | (with_reducible eapply keeps_fst; case e => with_reducible assumption)
    | (with_reducible eapply keeps_snd; case e => with_reducible assumption)
    | (with_reducible eapply keeps_snd3; case e => with_reducible assumption)
    | split
    | intro _
    | with_reducible apply keeps_mk
    | with_reducible exact rfl
theorem keeps_replyTo (s : State) (r : Req) (status : Nat) (detail : Nat) (payload : List Byte) (h_s : Keeps s0 s) : Keeps s0 (replyTo s r status detail payload) := by
  grind -ring -linarith -lia -ac [replyTo, keeps_postRecord]
theorem keeps_served (s : State) (ch : Nat) (h_s : Keeps s0 s) : Keeps s0 (served s ch) := by
  grind -ring -linarith -lia -ac [served, Keeps]
theorem keeps_takeReq (s : State) (r : Req) (seqUsed : Bool) (h_s : Keeps s0 s) : Keeps s0 (takeReq s r seqUsed) := by
  grind -ring -linarith -lia -ac [takeReq, keeps_State_setChannel, keeps_served]
theorem keeps_dropReqs (s : State) (r : Req) (h_s : Keeps s0 s) : Keeps s0 (dropReqs s r) := by
  grind -ring -linarith -lia -ac [dropReqs, keeps_State_setChannel, keeps_replyTo, keeps_served]
theorem keeps_serve (r : Req) (opcode : Nat) (words : Option Nat) (k : State → State × Ans) (s : State) (h_k : ∀ (z0 : State), Keeps s0 z0 → Keeps s0 (k z0).1) (h_s : Keeps s0 s) : Keeps s0 (serve r opcode words k s) := by
  grind -ring -linarith -lia -ac [serve, keeps_State_setChannel, keeps_dropReqs, keeps_postRecord, keeps_replyTo, keeps_takeReq]
theorem keeps_serveNop (r : Req) (s : State) (h_s : Keeps s0 s) : Keeps s0 (serveNop r s) := by
  grind -ring -linarith -lia -ac [serveNop, keeps_dropReqs, keeps_takeReq]
theorem keeps_execFlumeNop (r : Req) (s : State) {tt : State} (ee : execFlumeNop r s = .next tt) (h_s : Keeps s0 s) : Keeps s0 tt := by
  grind -ring -linarith -lia -ac [execFlumeNop, keeps_serveNop]
theorem keeps_execBadOpcode (r : Req) (opcode : BitVec 16) (s : State) {tt : State} (ee : execBadOpcode r opcode s = .next tt) (h_s : Keeps s0 s) : Keeps s0 tt := by
  grind -ring -linarith -lia -ac [execBadOpcode, keeps_serve]
theorem keeps_roleThen (ok : Bool) (detail : Nat) (bad : Option Nat) (s : State) (k : State × Ans) (h_s : Keeps s0 s) (h_k : Keeps s0 (k).1) : Keeps s0 (roleThen ok detail bad s k).1 := by
  unfold roleThen
  try dsimp only
  repeat' first
    | with_reducible assumption
    | contradiction
    | (with_reducible eapply keeps_fst; case e => with_reducible assumption)
    | (with_reducible eapply keeps_snd; case e => with_reducible assumption)
    | (with_reducible eapply keeps_snd3; case e => with_reducible assumption)
    | split
theorem keeps_execFlumeDoorbell (a : Access) (t : Nat) (s : State) {tt : State} (ee : execFlumeDoorbell a t s = .next tt) (h_s : Keeps s0 s) : Keeps s0 tt := by
  grind -ring -linarith -lia -ac [execFlumeDoorbell, keeps_State_setChannel, keeps_accLog, keeps_ownPage]
theorem keeps_execFlumeReplyRead (a : Access) (t : Nat) (s : State) {tt : State} (ee : execFlumeReplyRead a t s = .next tt) (h_s : Keeps s0 s) : Keeps s0 tt := by
  grind -ring -linarith -lia -ac [execFlumeReplyRead, keeps_State_setChannel, keeps_accLog, keeps_ownPage]
theorem keeps_setEng (s : State) (e : Nat) (x : Engine) (h_s : Keeps s0 s) : Keeps s0 (setEng s e x) := by
  grind -ring -linarith -lia -ac [setEng, Keeps]
theorem keeps_setEngCtx (s : State) (c : Nat) (x : EngCtx) (h_s : Keeps s0 s) : Keeps s0 (setEngCtx s c x) := by
  grind -ring -linarith -lia -ac [setEngCtx, Keeps]
theorem keeps_setBz (s : State) (c : Nat) (x : BzCtx) (h_s : Keeps s0 s) : Keeps s0 (setBz s c x) := by
  grind -ring -linarith -lia -ac [setBz, Keeps]
theorem keeps_locRead (s : State) (l : Loc) (a : Nat) (n : Nat) {x0 : List Byte} {tt : State} (ee : locRead s l a n = .ok (x0, tt)) (h_s : Keeps s0 s) : Keeps s0 tt := by
  unfold locRead at ee
  (repeat' split at ee) <;> grind -ring -linarith -lia -ac [keeps_devRead, keeps_vread]
theorem keeps_locWrite (s : State) (l : Loc) (a : Nat) (bs : List Byte) (h_s : Keeps s0 s) : Keeps s0 (locWrite s l a bs).1 := by
  unfold locWrite
  try dsimp only
  repeat' first
    | with_reducible assumption
    | contradiction
    | with_reducible apply keeps_devWrite
    | with_reducible apply keeps_vwrite
    | (with_reducible eapply keeps_fst; case e => with_reducible assumption)
    | (with_reducible eapply keeps_snd; case e => with_reducible assumption)
    | (with_reducible eapply keeps_snd3; case e => with_reducible assumption)
    | split

end Sys2Proof.Machine
end

