-- ==== Sys2Proof/Laws/Keeps5.lean ====
section
/-! SUPPORT. What the operations and commands of Chip, Chipper, Ringmark, Stop keep (see Keeps). -/

namespace Sys2Proof.Machine
variable {s0 : State}

theorem keeps_readBack (s : State) (l : Loc) (t : Strm) (o : Nat) (y0 : Nat) {x0 : List Byte} {tt : State} (ee : readBack s l t o y0 = .ok (x0, tt)) (h_s : Keeps s0 s) : Keeps s0 tt := by
  revert ee
  revert x0 tt
  fun_induction readBack s l t o y0 <;> intro x0 tt ee
  all_goals (try (repeat' split at ee))
  all_goals (try cases ee)
  repeat' first
    | with_reducible assumption
    | contradiction
    | (with_reducible eapply keeps_locRead; case ee => with_reducible assumption)
    | (with_reducible eapply keeps_fst; case e => with_reducible assumption)
    | (with_reducible eapply keeps_snd; case e => with_reducible assumption)
    | (with_reducible eapply keeps_snd3; case e => with_reducible assumption)
    | split
    | intro _
    | with_reducible apply_assumption
theorem keeps_freeBytes (s : State) (n : Nat) (h_s : Keeps s0 s) : Keeps s0 (freeBytes s n).2 := by
  grind -ring -linarith -lia -ac [freeBytes, Keeps]
theorem keeps_freePrefix (s : State) (bs : List Byte) (h_s : Keeps s0 s) : Keeps s0 (freePrefix s bs).2 := by
  grind -ring -linarith -lia -ac [freePrefix, Keeps]
theorem keeps_countFrame (s : State) (z : Nat) (n : Nat) (off : Nat) (h_s : Keeps s0 s) : Keeps s0 (countFrame s z n off) := by
  grind -ring -linarith -lia -ac [countFrame, keeps_bump, keeps_bumpBy]
theorem keeps_rawWrite (s : State) (e : Nat) (ctx : Nat) (j : EngJob) (bs : List Byte) (h_s : Keeps s0 s) : Keeps s0 (rawWrite s e ctx j bs).1 := by
  grind -ring -linarith -lia -ac [rawWrite, keeps_bumpBy, keeps_freeBytes, keeps_locWrite, Keeps]
theorem keeps_putTrailer (s : State) (e : Nat) (ctx : Nat) (j : EngJob) (z : Nat) (h_s : Keeps s0 s) : Keeps s0 (putTrailer s e ctx j z).1 := by
  grind -ring -linarith -lia -ac [putTrailer, keeps_countFrame, keeps_rawWrite, keeps_setBz]
theorem keeps_framedWrite (y0 : Nat) (y1 : State) (y2 : Nat) (y3 : Nat) (y4 : EngJob) (y5 : Nat) (y6 : List Byte) (h_y1 : Keeps s0 y1) : Keeps s0 (framedWrite y0 y1 y2 y3 y4 y5 y6).1 := by
  fun_induction framedWrite y0 y1 y2 y3 y4 y5 y6 <;> grind -ring -linarith -lia -ac [keeps_putTrailer, keeps_rawWrite]
theorem keeps_jobWrite (s : State) (e : Nat) (ctx : Nat) (j : EngJob) (bs : List Byte) (h_s : Keeps s0 s) : Keeps s0 (jobWrite s e ctx j bs).1 := by
  grind -ring -linarith -lia -ac [jobWrite, keeps_framedWrite, keeps_rawWrite]
theorem keeps_rawTake (s : State) (e : Nat) (ctx : Nat) (j : EngJob) (n : Nat) {x0 : List Byte} {tt : State} {x2 : EngJob} (ee : rawTake s e ctx j n = .ok (x0, tt, x2)) (h_s : Keeps s0 s) : Keeps s0 tt := by
  grind -ring -linarith -lia -ac [rawTake, keeps_bumpBy, keeps_locRead]
theorem keeps_stripFrame (s : State) (e : Nat) (ctx : Nat) (j : EngJob) (z : Nat) (h_s : Keeps s0 s) : Keeps s0 (stripFrame s e ctx j z).1 := by
  grind -ring -linarith -lia -ac [stripFrame, keeps_bump, keeps_countFrame, keeps_rawTake, keeps_setBz]
theorem keeps_fillBuf (y0 : Nat) (y1 : State) (y2 : Nat) (y3 : Nat) (y4 : EngJob) (y5 : Nat) (y6 : Nat) (h_y1 : Keeps s0 y1) : Keeps s0 (fillBuf y0 y1 y2 y3 y4 y5 y6).1 := by
  fun_induction fillBuf y0 y1 y2 y3 y4 y5 y6 <;> grind -ring -linarith -lia -ac [keeps_stripFrame]
theorem keeps_jobTake (s : State) (e : Nat) (ctx : Nat) (j : EngJob) (n : Nat) (h_s : Keeps s0 s) : Keeps s0 (jobTake s e ctx j n).1 := by
  grind -ring -linarith -lia -ac [jobTake, keeps_fillBuf, keeps_rawTake]
theorem keeps_attachBz (s : State) (c : Nat) (b : Option (Nat × Bool)) (h_s : Keeps s0 s) : Keeps s0 (attachBz s c b) := by
  unfold attachBz
  try dsimp only
  repeat' first
    | with_reducible assumption
    | contradiction
    | with_reducible apply keeps_setBz
    | (with_reducible eapply keeps_fst; case e => with_reducible assumption)
    | (with_reducible eapply keeps_snd; case e => with_reducible assumption)
    | (with_reducible eapply keeps_snd3; case e => with_reducible assumption)
    | split
theorem keeps_detachBz (s : State) (b : Option (Nat × Bool)) (h_s : Keeps s0 s) : Keeps s0 (detachBz s b) := by
  unfold detachBz
  try dsimp only
  repeat' first
    | with_reducible assumption
    | contradiction
    | with_reducible apply keeps_setBz
    | (with_reducible eapply keeps_fst; case e => with_reducible assumption)
    | (with_reducible eapply keeps_snd; case e => with_reducible assumption)
    | (with_reducible eapply keeps_snd3; case e => with_reducible assumption)
    | split
theorem keeps_startJob (s : State) (c : Nat) (h_s : Keeps s0 s) : Keeps s0 (startJob s c) := by
  grind -ring -linarith -lia -ac [startJob, keeps_attachBz, keeps_report, keeps_setEngCtx, Keeps]
theorem keeps_execChGo (a : Access) (c : Nat) (s : State) {tt : State} (ee : execChGo a c s = .next tt) (h_s : Keeps s0 s) : Keeps s0 tt := by
  grind -ring -linarith -lia -ac [execChGo, keeps_accLog, keeps_accRefuse, keeps_setEngCtx, keeps_startJob]
theorem keeps_xferFinal (s : State) (c : Nat) (x : Xfer) (status : Nat) (detail : Nat) (out : Nat) (code : Nat) (d : Nat) (at_ : Nat) (h_s : Keeps s0 s) : Keeps s0 (xferFinal s c x status detail out code d at_) := by
  grind -ring -linarith -lia -ac [xferFinal, keeps_finalOn]
theorem keeps_failJob (s : State) (e : Nat) (c : Nat) (j : EngJob) (at_ : Nat) (err : ChErr) (h_s : Keeps s0 s) : Keeps s0 (failJob s e c j at_ err) := by
  unfold failJob
  extract_lets
  (repeat' split) <;> grind -ring -linarith -lia -ac [keeps_bump, keeps_detachBz, keeps_notePoison, keeps_raise, keeps_report, keeps_setEng, keeps_setEngCtx, keeps_settle, keeps_xferFinal, Keeps]
theorem keeps_putJob (s : State) (c : Nat) (j : EngJob) (h_s : Keeps s0 s) : Keeps s0 (putJob s c j) := by
  grind -ring -linarith -lia -ac [putJob, keeps_setEngCtx]
theorem keeps_saveState (s : State) (c : Nat) (j : EngJob) (h_s : Keeps s0 s) : Keeps s0 (saveState s c j).1 := by
  grind -ring -linarith -lia -ac [saveState, keeps_vwrite]
theorem keeps_endFrames (s : State) (e : Nat) (ctx : Nat) (j : EngJob) (h_s : Keeps s0 s) : Keeps s0 (endFrames s e ctx j).1 := by
  grind -ring -linarith -lia -ac [endFrames, keeps_putTrailer]
theorem keeps_putBlock (s : State) (e : Nat) (c : Nat) (j : EngJob) (at_ : Nat) (bs : List Byte) (strm : Strm) (ended : Bool) (counts : List Nat) (h_s : Keeps s0 s) : Keeps s0 (putBlock s e c j at_ bs strm ended counts) := by
  grind -ring -linarith -lia -ac [putBlock, keeps_bump, keeps_endFrames, keeps_failJob, keeps_foldl, keeps_foldl_fst, keeps_foldl_snd, keeps_jobWrite, keeps_putJob, keeps_setEng]
theorem decoderGet_s (d : Decoder) (n : Nat) {v : Nat} {e : Decoder} (h : d.get n = some (v, e)) : e.s = d.s := by
  unfold Decoder.get at h
  split at h
  · cases h; rfl
  · cases h
theorem keeps_back (d : Decoder) (n dist : Nat) {p : List Byte} {e : Decoder} (h : d.back n dist = .ok (p, e)) (k : Keeps s0 d.s) : Keeps s0 e.s := by
  unfold Decoder.back at h
  dsimp only at h
  split at h
  · cases h
  · next h1 => cases h; exact keeps_readBack _ _ _ _ _ h1 k
/-- The state in what a token gives. -/
def tokenS : Except (DecFail × Decoder) (Option Decoder × Decoder) → State
  | .error (_, e) => e.s
  | .ok (some e, _) => e.s
  | .ok (none, e) => e.s
theorem keeps_token (d : Decoder) (k : Keeps s0 d.s) : Keeps s0 (tokenS d.token) := by
  unfold Decoder.token
  extract_lets cut tooLong put copy
  have hput : ∀ (e : Decoder) (p : List Byte), Keeps s0 e.s → Keeps s0 (tokenS (put e p)) := by
    intro e p h
    simp only [put]
    split
    · exact k
    · exact h
  have hcopy : ∀ (e : Decoder) (n : Nat), e.s = d.s → Keeps s0 (tokenS (copy e n)) := by
    intro e n he
    simp only [copy]
    split
    · exact k
    · next c e1 h1 =>
      split
      · exact k
      · next v e2 h2 =>
        have e2s : e2.s = d.s := by rw [decoderGet_s _ _ h2, decoderGet_s _ _ h1, he]
        split
        · exact k
        · split
          · exact k
          · split
            · exact k
            · next p e3 h3 => exact hput { e3 with far := _ } p (keeps_back (e := e3) _ _ _ h3 (e2s ▸ k) : Keeps s0 e3.s)
  have g : ∀ (a : Decoder) (n : Nat) {v : Nat} {e : Decoder}, a.get n = some (v, e) → a.s = d.s → e.s = d.s :=
    fun a n _ _ h ha => (decoderGet_s a n h).trans ha
  split
  · exact k
  · next d1 h1 =>
    have s1 := g _ _ h1 rfl
    split
    · exact k
    · next v d2 h2 => exact hput _ _ ((g _ _ h2 s1) ▸ k)
  · next x d1 _ h1 =>
    have s1 := g _ _ h1 rfl
    split
    · exact k
    · next d2 h2 =>
      have s2 := g _ _ h2 s1
      split
      · exact k
      · next c d3 h3 =>
        split
        · exact k
        · exact hput _ _ ((g _ _ h3 s2) ▸ k)
    · next y d2 _ h2 =>
      have s2 := g _ _ h2 s1
      split
      · exact k
      · next d3 h3 =>
        have s3 := g _ _ h3 s2
        split
        · exact k
        · next v d4 h4 => exact hcopy _ _ (g _ _ h4 s3)
      · next z d3 _ h3 =>
        have s3 := g _ _ h3 s2
        split
        · exact k
        · next v d4 h4 =>
          have s4 := g _ _ h4 s3
          split
          · exact (show Keeps s0 d4.s from s4 ▸ k)
          · split
            · exact k
            · exact hcopy _ _ s4
theorem keeps_tokens (n : Nat) (d : Decoder) (k : Keeps s0 d.s) :
    (∀ f e, d.tokens n = .error (f, e) → Keeps s0 e.s) ∧ (∀ e, d.tokens n = .ok e → Keeps s0 e.s) := by
  induction n generalizing d with
  | zero => exact ⟨fun _ _ h => by cases h; exact k, fun _ h => by cases h⟩
  | succ n ih =>
    have ht := keeps_token d k
    unfold Decoder.tokens
    split
    · next f h => rw [h] at ht; exact ⟨fun _ _ h => by cases h; exact ht, fun _ h => by cases h⟩
    · next d1 h =>
      rw [h] at ht
      refine ⟨fun _ _ h => ?_, fun _ h => ?_⟩
      · cases h
      · cases h; exact ht
    · next d1 _ h => rw [h] at ht; exact ih d1 ht
theorem keeps_decodeBlock (s : State) (l : Loc) (t : Strm) (h : BlockHdr) (pl : List Byte) (h_s : Keeps s0 s) :
    Keeps s0 (decodeBlock s l t h pl).s := by
  unfold decodeBlock
  extract_lets t0 finish d0 outOf
  have hf : ∀ u out far s, Keeps s0 s → Keeps s0 (finish u out far s).s := by
    intro u out far s k
    simp only [finish]
    split <;> exact k
  have ht := keeps_tokens (s0 := s0) (8 * pl.length + 1) d0 h_s
  split
  · exact hf _ _ _ _ h_s
  · split
    · next h1 => exact ht.1 _ _ h1
    · next d h1 =>
      have kd := ht.2 _ h1
      split
      · exact kd
      · split
        · exact kd
        · exact hf _ _ _ _ kd
theorem keeps_compressBlock (s : State) (e : Nat) (c : Nat) (j : EngJob) (at_ : Nat) (input : List Byte) (h_s : Keeps s0 s) : Keeps s0 (compressBlock s e c j at_ input) := by
  unfold compressBlock
  dsimp only
  have k := fun l t h pl => keeps_decodeBlock (s0 := s0) s l t h pl h_s
  (repeat' split) <;> first
    | exact keeps_failJob _ _ _ _ _ _ (k _ _ _ _)
    | exact keeps_putBlock _ _ _ _ _ _ _ _ _ (k _ _ _ _)
theorem keeps_decompressBlock (s : State) (e : Nat) (c : Nat) (j : EngJob) (at_ : Nat) (hb : List Byte) (h_s : Keeps s0 s) : Keeps s0 (decompressBlock s e c j at_ hb) := by
  unfold decompressBlock
  extract_lets bad
  have hbad : ∀ d, Keeps s0 (bad d) := fun d => keeps_failJob _ _ _ _ _ _ h_s
  split
  · exact hbad _
  · split
    · exact hbad _
    · next h _ =>
      have k1 := keeps_jobTake s e (boundCtx s c) j h.payload h_s
      split
      · next h1 => rw [h1] at k1; exact keeps_failJob _ _ _ _ _ _ k1
      · next s1 pl j1 h1 =>
        rw [h1] at k1
        split
        · exact keeps_failJob _ _ _ _ _ _ k1
        · extract_lets r s2
          have k2 : Keeps s0 s2 := keeps_bumpBy _ _ _ _ (keeps_decodeBlock _ _ _ _ _ k1)
          split
          · exact keeps_putBlock _ _ _ _ _ _ _ _ _ (keeps_bump _ _ _ k2)
          · next why _ =>
            have k3 := keeps_freePrefix s2 r.bytes k2
            have k4 := keeps_jobWrite (freePrefix s2 r.bytes).2 e (boundCtx s c) j1 (freePrefix s2 r.bytes).1 k3
            exact keeps_failJob _ _ _ _ _ _ k4
theorem keeps_jobBlock (s : State) (e : Nat) (c : Nat) (j : EngJob) (h_s : Keeps s0 s) : Keeps s0 (jobBlock s e c j) := by
  unfold jobBlock
  repeat' first
    | with_reducible assumption
    | contradiction
    | with_reducible apply keeps_compressBlock
    | with_reducible apply keeps_decompressBlock
    | with_reducible apply keeps_failJob
    | with_reducible apply keeps_jobTake
    | with_reducible apply keeps_putBlock
    | (with_reducible eapply keeps_fst; case e => with_reducible assumption)
    | (with_reducible eapply keeps_snd; case e => with_reducible assumption)
    | (with_reducible eapply keeps_snd3; case e => with_reducible assumption)
    | split
    | intro _
    | with_reducible apply keeps_mk
    | with_reducible exact rfl
theorem keeps_suspendJob (s : State) (e : Nat) (next : Option Nat) (h_s : Keeps s0 s) : Keeps s0 (suspendJob s e next) := by
  unfold suspendJob
  extract_lets
  (repeat' split) <;> grind -ring -linarith -lia -ac [keeps_bump, keeps_failJob, keeps_putJob, keeps_saveState, keeps_setEng]
theorem keeps_resumeJob (s : State) (c : Nat) (j : EngJob) {tt : State} {x1 : EngJob} (ee : resumeJob s c j = .ok (tt, x1)) (h_s : Keeps s0 s) : Keeps s0 tt := by
  grind -ring -linarith -lia -ac [resumeJob, keeps_vread]
theorem keeps_takeSegment (s : State) (e : Nat) (cut : Nat) (i : Nat) (h_s : Keeps s0 s) : Keeps s0 (takeSegment s e cut i) := by
  grind -ring -linarith -lia -ac [takeSegment, keeps_pieces, keeps_setEng, Keeps]
theorem keeps_failSegment (s : State) (e : Nat) (r : SegRun) (p : CutPass) (w : Stream) (at_ : Nat) (code : Nat) (d : Nat) (acc : Option AccFault) (h_s : Keeps s0 s) : Keeps s0 (failSegment s e r p w at_ code d acc) := by
  grind -ring -linarith -lia -ac [failSegment, keeps_bump, keeps_notePoison, keeps_settle, Keeps]
theorem keeps_segBlock (s : State) (e : Nat) (r : SegRun) (p : CutPass) (w : Stream) (g : Segment) (h_s : Keeps s0 s) : Keeps s0 (segBlock s e r p w g) := by
  unfold segBlock
  extract_lets ctx fail access
  have hf : ∀ s k d, Keeps s0 s → Keeps s0 (fail s k d) := fun s k d h => keeps_failSegment _ _ _ _ _ _ _ _ _ h
  have ha : ∀ s f, Keeps s0 s → Keeps s0 (access s f) := by
    intro s f h
    simp only [access]
    split
    · exact hf _ _ _ h
    · exact keeps_failSegment _ _ _ _ _ _ _ _ _ h
  split
  · exact hf _ _ _ h_s
  · split
    · exact ha _ _ h_s
    · next hb sh h1 =>
      extract_lets s1
      have k1 : Keeps s0 s1 := keeps_bumpBy _ _ _ _ (keeps_vread _ _ _ _ h1 h_s)
      split
      · exact hf _ _ _ k1
      · split
        · exact hf _ _ _ k1
        · split
          · exact ha _ _ k1
          · next pl sp h2 =>
            extract_lets s2 b
            have k2 : Keeps s0 s2 := keeps_bumpBy _ _ _ _ (keeps_vread _ _ _ _ h2 k1)
            have kb : Keeps s0 b.s := keeps_decodeBlock _ _ _ _ _ k2
            have k3 : Keeps s0 (if b.fail.isSome then freePrefix b.s b.bytes else (b.bytes, b.s)).2 := by
              split
              · exact keeps_freePrefix _ _ kb
              · exact kb
            generalize (if b.fail.isSome then freePrefix b.s b.bytes else (b.bytes, b.s)) = q at k3
            obtain ⟨img, s3⟩ := q
            dsimp only at k3 ⊢
            have k4 := keeps_vwriteStream (bumpBy s3 (uChip e) 0x128 b.far) ctx (w.staging + g.dstOff + r.strm.off)
              (img.take (g.dstBytes - r.strm.off)) (keeps_bumpBy _ _ _ _ k3)
            split
            · next h4 => rw [h4] at k4; exact ha _ _ (keeps_bumpBy _ _ _ _ k4)
            · next h4 =>
              rw [h4] at k4
              have k5 := fun g h i => keeps_bumpBy (s0 := s0) _ g h i k4
              split
              · exact hf _ _ _ (k5 _ _ _)
              · exact ha _ _ (k5 _ _ _)
              · repeat' split
                all_goals first
                  | exact hf _ _ _ (k5 _ _ _)
                  | exact keeps_setEng _ _ _ (keeps_bump _ _ _ (k5 _ _ _))
theorem keeps_runSegment (s : State) (e : Nat) (r : SegRun) (h_s : Keeps s0 s) : Keeps s0 (runSegment s e r) := by
  unfold runSegment
  extract_lets
  (repeat' split) <;> grind -ring -linarith -lia -ac [keeps_segBlock, keeps_setEng]
theorem keeps_execChipperBlock (e : Nat) (s : State) {tt : State} (ee : execChipperBlock e s = .next tt) (h_s : Keeps s0 s) : Keeps s0 tt := by
  simp only [execChipperBlock, done] at ee
  cases ee
  repeat' first
    | with_reducible assumption
    | contradiction
    | with_reducible apply keeps_bulkServed
    | with_reducible apply keeps_failJob
    | with_reducible apply keeps_jobBlock
    | with_reducible apply keeps_putJob
    | with_reducible apply keeps_runSegment
    | with_reducible apply keeps_setEng
    | with_reducible apply keeps_suspendJob
    | with_reducible apply keeps_takeSegment
    | (with_reducible eapply keeps_resumeJob; case ee => with_reducible assumption)
    | (with_reducible eapply keeps_fst; case e => with_reducible assumption)
    | (with_reducible eapply keeps_snd; case e => with_reducible assumption)
    | (with_reducible eapply keeps_snd3; case e => with_reducible assumption)
    | split
theorem keeps_execChipperJobComplete (c : Nat) (s : State) {tt : State} (ee : execChipperJobComplete c s = .next tt) (h_s : Keeps s0 s) : Keeps s0 tt := by
  simp only [execChipperJobComplete, done] at ee
  (repeat' split at ee) <;> cases ee <;> grind -ring -linarith -lia -ac [keeps_detachBz, keeps_failJob, keeps_putJob, keeps_saveState, keeps_setEngCtx, keeps_settle, keeps_xferFinal]
theorem keeps_execWeightSegmentDone (e : Nat) (s : State) {tt : State} (ee : execWeightSegmentDone e s = .next tt) (h_s : Keeps s0 s) : Keeps s0 tt := by
  grind -ring -linarith -lia -ac [execWeightSegmentDone, keeps_setEng, keeps_settle, Keeps]
theorem keeps_stopEngCtx (s : State) (c : Nat) (h_s : Keeps s0 s) : Keeps s0 (stopEngCtx s c) := by
  grind -ring -linarith -lia -ac [stopEngCtx, keeps_detachBz, keeps_setEng, keeps_setEngCtx, keeps_xferFinal]
theorem keeps_stopChipOf (s : State) (p : Nat → Nat × Nat → Bool) (h_s : Keeps s0 s) : Keeps s0 (stopChipOf s p) := by
  grind -ring -linarith -lia -ac [stopChipOf, keeps_foldl, keeps_foldl_fst, keeps_foldl_snd, keeps_stopEngCtx]
theorem keeps_stopBlazeOf (s : State) (t : Nat) (h_s : Keeps s0 s) : Keeps s0 (stopBlazeOf s t) := by
  grind -ring -linarith -lia -ac [stopBlazeOf, keeps_foldl, keeps_foldl_fst, keeps_foldl_snd, keeps_setBz]
theorem keeps_dropSegments (s : State) (ctx : Nat) (h_s : Keeps s0 s) : Keeps s0 (dropSegments s ctx) := by
  grind -ring -linarith -lia -ac [dropSegments, Keeps]
theorem keeps_bzPage (s : State) (a : Access) (c : Nat) (o : Nat) (k : Nat → State) (h_s : Keeps s0 s) (h_k : ∀ (z0 : Nat), Keeps s0 (k z0)) : Keeps s0 (bzPage s a c o k) := by
  grind -ring -linarith -lia -ac [bzPage, keeps_accLog, keeps_accRefuse]
theorem keeps_foldBz (s : State) (c : Nat) (bs : List Byte) (h_s : Keeps s0 s) : Keeps s0 (foldBz s c bs) := by
  grind -ring -linarith -lia -ac [foldBz, keeps_bumpBy, keeps_setBz]
theorem keeps_execStart (a : Access) (c : Nat) (s : State) {tt : State} (ee : execStart a c s = .next tt) (h_s : Keeps s0 s) : Keeps s0 tt := by
  grind -ring -linarith -lia -ac [execStart, keeps_bzPage, keeps_foldBz, keeps_setBz]
theorem keeps_execBzFeed (a : Access) (c : Nat) (s : State) {tt : State} (ee : execBzFeed a c s = .next tt) (h_s : Keeps s0 s) : Keeps s0 tt := by
  grind -ring -linarith -lia -ac [execBzFeed, keeps_bzPage, keeps_foldBz]
theorem keeps_execBzFeedPart (a : Access) (c : Nat) (s : State) {tt : State} (ee : execBzFeedPart a c s = .next tt) (h_s : Keeps s0 s) : Keeps s0 tt := by
  grind -ring -linarith -lia -ac [execBzFeedPart, keeps_accLog, keeps_bzPage, keeps_foldBz]
theorem keeps_writeChReg (s : State) (a : Access) (c : Nat) (o : Nat) (h_s : Keeps s0 s) : Keeps s0 (writeChReg s a c o) := by
  unfold writeChReg
  extract_lets
  (repeat' split) <;> grind -ring -linarith -lia -ac [keeps_setEngCtx]
theorem keeps_writeBzReg (s : State) (a : Access) (c : Nat) (o : Nat) (t : Nat) (h_s : Keeps s0 s) : Keeps s0 (writeBzReg s a c o t) := by
  unfold writeBzReg
  extract_lets
  (repeat' split) <;> grind -ring -linarith -lia -ac [keeps_accLog, keeps_setBz]
theorem keeps_pageFailure (s : State) (f : AccFault) (h_s : Keeps s0 s) : Keeps s0 (pageFailure s f).1 := by
  grind -ring -linarith -lia -ac [pageFailure, keeps_notePoison]
theorem keeps_checkItems (s : State) (c : Nat) (y0 : List RingItem) {tt : State} (ee : checkItems s c y0 = .ok tt) (h_s : Keeps s0 s) : Keeps s0 tt := by
  fun_induction checkItems s c y0 <;> grind -ring -linarith -lia -ac [keeps_vcheck]
theorem keeps_fillLanes (s : State) (h_s : Keeps s0 s) : Keeps s0 (fillLanes s) := by
  grind -ring -linarith -lia -ac [fillLanes, keeps_foldl, keeps_foldl_fst, keeps_foldl_snd, Keeps]
theorem keeps_digestFault (s : State) (x : Session) (f : AccFault) (h_s : Keeps s0 s) : Keeps s0 (digestFault s x f) := by
  grind -ring -linarith -lia -ac [digestFault, keeps_notePoison, keeps_raise]
theorem keeps_execDigestChunkDone (lane : Nat) (s : State) {tt : State} (ee : execDigestChunkDone lane s = .next tt) (h_s : Keeps s0 s) : Keeps s0 tt := by
  have k0 := keeps_fillLanes s h_s
  unfold execDigestChunkDone at ee
  dsimp only at ee
  generalize fillLanes s = s at ee k0
  split at ee
  · cases ee; exact k0
  · next j h1 =>
    have k1 : Keeps s0 { s with lanes := tdrop s.lanes (· == lane) } := ⟨k0.1, k0.2.1, k0.2.2⟩
    generalize ({ s with lanes := tdrop s.lanes (· == lane) } : State) = s1 at ee k1
    split at ee
    · cases ee; exact keeps_fillLanes _ k1
    · split at ee
      · cases ee; exact k0
      · split at ee
        · cases ee; exact keeps_digestFault _ _ _ k1
        · next h2 => cases ee; exact keeps_fillLanes _ (keeps_setSession _ _ _ (keeps_readRuns _ _ _ h2 k1))
theorem keeps_execRingmarkOpen (p : Pkt) (s : State) {tt : State} (ee : execRingmarkOpen p s = .next tt) (h_s : Keeps s0 s) : Keeps s0 tt := by
  simp only [execRingmarkOpen, done] at ee
  cases ee
  repeat' first
    | with_reducible assumption
    | contradiction
    | with_reducible apply keeps_State_setQueue
    | with_reducible apply keeps_fetchPacket
    | with_reducible apply keeps_fillLanes
    | with_reducible apply keeps_frontFault
    | with_reducible apply keeps_pageFailure
    | with_reducible apply keeps_setSession
    | with_reducible apply keeps_startCmd
    | (with_reducible eapply keeps_checkItems; case ee => with_reducible assumption)
    | (with_reducible eapply keeps_vcheck; case ee => with_reducible assumption)
    | (with_reducible eapply keeps_vread; case ee => with_reducible assumption)
    | (with_reducible eapply keeps_fst; case e => with_reducible assumption)
    | (with_reducible eapply keeps_snd; case e => with_reducible assumption)
    | (with_reducible eapply keeps_snd3; case e => with_reducible assumption)
    | split
    | intro _
    | with_reducible apply keeps_mk
    | with_reducible exact rfl
theorem keeps_execItemDigestsDone (cmd : Nat) (s : State) {tt : State} (ee : execItemDigestsDone cmd s = .next tt) (h_s : Keeps s0 s) : Keeps s0 tt := by
  grind -ring -linarith -lia -ac [execItemDigestsDone, keeps_finishCmd]
theorem keeps_execRingmarkFoldDone (cmd : Nat) (s : State) {tt : State} (ee : execRingmarkFoldDone cmd s = .next tt) (h_s : Keeps s0 s) : Keeps s0 tt := by
  simp only [execRingmarkFoldDone, done] at ee
  (repeat' split at ee) <;> cases ee <;> grind -ring -linarith -lia -ac [keeps_setSession, Keeps]
theorem keeps_ringmarkClose (p : Pkt) (s : State) (h_s : Keeps s0 s) : Keeps s0 (ringmarkClose p s) := by
  unfold ringmarkClose
  try dsimp only
  repeat' first
    | with_reducible assumption
    | contradiction
    | with_reducible apply keeps_consume
    | with_reducible apply keeps_dropSession
    | with_reducible apply keeps_fetchPacket
    | with_reducible apply keeps_frontFault
    | with_reducible apply keeps_packetFault
    | with_reducible apply keeps_vwrite
    | (with_reducible eapply keeps_vcheck; case ee => with_reducible assumption)
    | split
    | intro _
theorem keeps_dropCommands (s : State) (p : Nat × Cmd → Bool) (h_s : Keeps s0 s) : Keeps s0 (dropCommands s p) := by
  grind -ring -linarith -lia -ac [dropCommands, keeps_requeueEvery, Keeps]
theorem keeps_discardSessions (s : State) (c : Nat) (h_s : Keeps s0 s) : Keeps s0 (discardSessions s c) := by
  grind -ring -linarith -lia -ac [discardSessions, keeps_dropSession, keeps_foldl, keeps_foldl_fst, keeps_foldl_snd]
theorem keeps_endLoadsOf (s : State) (c : Nat) (h_s : Keeps s0 s) : Keeps s0 (endLoadsOf s c) := by
  grind -ring -linarith -lia -ac [endLoadsOf, keeps_finalOn, keeps_foldl, keeps_foldl_fst, keeps_foldl_snd, Keeps]
theorem keeps_discardCtx (s : State) (c : Nat) (h_s : Keeps s0 s) : Keeps s0 (discardCtx s c) := by
  grind -ring -linarith -lia -ac [discardCtx, keeps_State_setQueue, keeps_discardSessions, keeps_discardWaits, keeps_dropCommands, keeps_endRunsOf, keeps_foldl, keeps_foldl_fst, keeps_foldl_snd, keeps_report, keeps_stopBlazeOf, keeps_stopChipOf]
theorem keeps_stopCtx (s : State) (c : Nat) (st : CtxSt) (h_s : Keeps s0 s) : Keeps s0 (stopCtx s c st) := by
  grind -ring -linarith -lia -ac [stopCtx, keeps_discardCtx, keeps_setCtxSt, keeps_settle]
theorem keeps_clearNames (s : State) (f : Nat) (h_s : Keeps s0 s) : Keeps s0 (clearNames s f) := by
  grind -ring -linarith -lia -ac [clearNames, Keeps]
theorem keeps_endSavedWaits (s : State) (f : Nat) (p : Nat → Bool) (h_s : Keeps s0 s) : Keeps s0 (endSavedWaits s f p) := by
  grind -ring -linarith -lia -ac [endSavedWaits, keeps_foldl, keeps_foldl_fst, keeps_foldl_snd, keeps_incBlock, Keeps]
theorem keeps_endWaitsOf (s : State) (f : Nat) (t : Nat) (h_s : Keeps s0 s) : Keeps s0 (endWaitsOf s f t).1 := by
  grind -ring -linarith -lia -ac [endWaitsOf, keeps_endFwait, keeps_endHostWait, keeps_endSavedWaits, keeps_foldl, keeps_foldl_fst, keeps_foldl_snd]
theorem keeps_revokeFence (s : State) (f : Nat) (t : Nat) (h_s : Keeps s0 s) : Keeps s0 (revokeFence s f t) := by
  grind -ring -linarith -lia -ac [revokeFence, keeps_State_setFence, keeps_endWaitsOf, keeps_settle]
theorem keeps_releaseFence (s : State) (f : Nat) (h_s : Keeps s0 s) : Keeps s0 (releaseFence s f) := by
  unfold releaseFence
  try dsimp only
  repeat' first
    | with_reducible assumption
    | contradiction
    | with_reducible apply keeps_State_setFence
    | with_reducible apply keeps_clearNames
    | with_reducible apply keeps_endSavedWaits
    | with_reducible apply keeps_foldl
    | with_reducible apply keeps_foldl_fst
    | with_reducible apply keeps_foldl_snd
    | with_reducible apply keeps_revokeFence
    | with_reducible apply keeps_settle
    | (with_reducible eapply keeps_fst; case e => with_reducible assumption)
    | (with_reducible eapply keeps_snd; case e => with_reducible assumption)
    | (with_reducible eapply keeps_snd3; case e => with_reducible assumption)
    | split
    | intro _
    | with_reducible apply keeps_mk
    | with_reducible exact rfl
theorem keeps_retireObj (s : State) (o : Nat) (h_s : Keeps s0 s) : Keeps s0 (retireObj s o) := by
  grind -ring -linarith -lia -ac [retireObj, keeps_State_setObj]
theorem keeps_unshare (s : State) (o : Nat) (t : Nat) (h_s : Keeps s0 s) : Keeps s0 (unshare s o t) := by
  grind -ring -linarith -lia -ac [unshare, keeps_State_setMem, keeps_State_setObj]
theorem keeps_retireOrphans (s : State) (h_s : Keeps s0 s) : Keeps s0 (retireOrphans s) := by
  grind -ring -linarith -lia -ac [retireOrphans, keeps_foldl, keeps_foldl_fst, keeps_foldl_snd, keeps_retireObj]
theorem keeps_dropLayers (s : State) (p : Nat → Bool) (h_s : Keeps s0 s) : Keeps s0 (dropLayers s p) := by
  grind -ring -linarith -lia -ac [dropLayers, Keeps]
theorem keeps_dropFlips (s : State) (t : Nat) (h_s : Keeps s0 s) : Keeps s0 (dropFlips s t) := by
  unfold dropFlips
  try dsimp only
  repeat' first
    | with_reducible assumption
    | contradiction
    | with_reducible apply keeps_discardSets
    | with_reducible apply keeps_dropLayers
    | (with_reducible eapply keeps_fst; case e => with_reducible assumption)
    | (with_reducible eapply keeps_snd; case e => with_reducible assumption)
    | (with_reducible eapply keeps_snd3; case e => with_reducible assumption)
    | split
    | intro _
    | with_reducible apply keeps_mk
    | with_reducible exact rfl
theorem keeps_resetTenant (s : State) (t : Nat) (h_s : Keeps s0 s) : Keeps s0 (resetTenant s t) := by
  unfold resetTenant
  extract_lets
  (repeat' split) <;> grind -ring -linarith -lia -ac [keeps_State_setTenant, keeps_dropFlips, keeps_foldl, keeps_foldl_fst, keeps_foldl_snd, keeps_stopBlazeOf, keeps_stopChipOf, keeps_stopCtx]
theorem keeps_settleReset (s : State) (t : Nat) (h_s : Keeps s0 s) : Keeps s0 (settleReset s t) := by
  grind -ring -linarith -lia -ac [settleReset, keeps_State_setTenant, keeps_bump, keeps_finalAll]
theorem keeps_destroyCtx (s : State) (c : Nat) (h_s : Keeps s0 s) : Keeps s0 (destroyCtx s c) := by
  unfold destroyCtx
  try dsimp only
  repeat' first
    | with_reducible assumption
    | contradiction
    | with_reducible apply keeps_State_setQueue
    | with_reducible apply keeps_endLoadsOf
    | with_reducible apply keeps_foldl
    | with_reducible apply keeps_foldl_fst
    | with_reducible apply keeps_foldl_snd
    | with_reducible apply keeps_report
    | with_reducible apply keeps_stopCtx
    | (with_reducible eapply keeps_fst; case e => with_reducible assumption)
    | (with_reducible eapply keeps_snd; case e => with_reducible assumption)
    | (with_reducible eapply keeps_snd3; case e => with_reducible assumption)
    | split
    | intro _
    | with_reducible apply keeps_mk
    | with_reducible exact rfl
theorem keeps_dropEngines (s : State) (t : Nat) (h_s : Keeps s0 s) : Keeps s0 (dropEngines s t) := by
  unfold dropEngines
  try dsimp only
  repeat' first
    | with_reducible assumption
    | contradiction
    | with_reducible apply keeps_stopBlazeOf
    | with_reducible apply keeps_stopChipOf
    | (with_reducible eapply keeps_fst; case e => with_reducible assumption)
    | (with_reducible eapply keeps_snd; case e => with_reducible assumption)
    | (with_reducible eapply keeps_snd3; case e => with_reducible assumption)
    | split
    | intro _
    | with_reducible apply keeps_mk
    | with_reducible exact rfl
theorem keeps_clearTap (s : State) (n : Nat) (h_s : Keeps s0 s) : Keeps s0 (clearTap s n) := by
  grind -ring -linarith -lia -ac [clearTap, keeps_State_setOutput]

end Sys2Proof.Machine
end

