-- ==== Sys2Proof/Laws/Keeps6.lean ====
section
/-! SUPPORT. What the operations and commands of Stop, Requests, FenceHost, ObjectReq, Services keep (see Keeps). -/

namespace Sys2Proof.Machine
variable {s0 : State}

theorem keeps_destroyTenant (s : State) (t : Nat) (h_s : Keeps s0 s) : Keeps s0 (destroyTenant s t) := by
  unfold destroyTenant
  try dsimp only
  repeat' first
    | with_reducible assumption
    | contradiction
    | with_reducible apply keeps_State_setObj
    | with_reducible apply keeps_State_setTenant
    | with_reducible apply keeps_clearTap
    | with_reducible apply keeps_destroyCtx
    | with_reducible apply keeps_dropEngines
    | with_reducible apply keeps_dropFlips
    | with_reducible apply keeps_foldl
    | with_reducible apply keeps_foldl_fst
    | with_reducible apply keeps_foldl_snd
    | with_reducible apply keeps_releaseFence
    | with_reducible apply keeps_retireObj
    | with_reducible apply keeps_revokeFence
    | with_reducible apply keeps_unshare
    | (with_reducible eapply keeps_fst; case e => with_reducible assumption)
    | (with_reducible eapply keeps_snd; case e => with_reducible assumption)
    | (with_reducible eapply keeps_snd3; case e => with_reducible assumption)
    | split
    | intro _
    | with_reducible apply keeps_mk
    | with_reducible exact rfl
theorem keeps_sweepAbandoned (s : State) (ch : Nat) (h_s : Keeps s0 s) : Keeps s0 (sweepAbandoned s ch) := by
  grind -ring -linarith -lia -ac [sweepAbandoned, keeps_State_setChannel, keeps_foldl, keeps_foldl_fst, keeps_foldl_snd, keeps_stopEngCtx, Keeps]
theorem keeps_sweepAll (s : State) (h_s : Keeps s0 s) : Keeps s0 (sweepAll s) := by
  grind -ring -linarith -lia -ac [sweepAll, keeps_foldl, keeps_foldl_fst, keeps_foldl_snd, keeps_sweepAbandoned]
theorem keeps_abortChannel (s : State) (ch : Nat) (h_s : Keeps s0 s) : Keeps s0 (abortChannel s ch) := by
  grind -ring -linarith -lia -ac [abortChannel, keeps_State_setChannel, keeps_postRecord, keeps_sweepAbandoned, Keeps]
theorem keeps_selfReset (s : State) (t : Nat) (h_s : Keeps s0 s) : Keeps s0 (selfReset s t) := by
  grind -ring -linarith -lia -ac [selfReset, keeps_abortChannel, keeps_resetTenant, keeps_settleReset]
theorem keeps_writeFlumeCtl (s : State) (a : Access) (ch : Nat) (h_s : Keeps s0 s) : Keeps s0 (writeFlumeCtl s a ch) := by
  grind -ring -linarith -lia -ac [writeFlumeCtl, keeps_State_setChannel, keeps_abortChannel, keeps_selfReset]
theorem keeps_execAbort (a : Access) (t : Nat) (s : State) {tt : State} (ee : execAbort a t s = .next tt) (h_s : Keeps s0 s) : Keeps s0 tt := by
  grind -ring -linarith -lia -ac [execAbort, keeps_ownPage, keeps_writeFlumeCtl]
theorem keeps_execSelfReset (a : Access) (t : Nat) (s : State) {tt : State} (ee : execSelfReset a t s = .next tt) (h_s : Keeps s0 s) : Keeps s0 tt := by
  grind -ring -linarith -lia -ac [execSelfReset, keeps_ownPage, keeps_writeFlumeCtl]
theorem keeps_execPing (r : Req) (s : State) {tt : State} (ee : execPing r s = .next tt) (h_s : Keeps s0 s) : Keeps s0 tt := by
  grind -ring -linarith -lia -ac [execPing, keeps_serve]
theorem keeps_execEventMask (r : Req) (s : State) {tt : State} (ee : execEventMask r s = .next tt) (h_s : Keeps s0 s) : Keeps s0 tt := by
  grind -ring -linarith -lia -ac [execEventMask, keeps_State_setChannel, keeps_roleThen, keeps_serve]
theorem keeps_execRollCallList (r : Req) (s : State) {tt : State} (ee : execRollCallList r s = .next tt) (h_s : Keeps s0 s) : Keeps s0 tt := by
  grind -ring -linarith -lia -ac [execRollCallList, keeps_roleThen, keeps_serve]
theorem keeps_postHeld (s : State) (t : Nat) (h_s : Keeps s0 s) : Keeps s0 (postHeld s t) := by
  grind -ring -linarith -lia -ac [postHeld, keeps_State_setChannel, keeps_foldl, keeps_foldl_fst, keeps_foldl_snd, keeps_postRecord]
theorem keeps_rebind (s : State) (t : Nat) (pr : Nat × Option Nat) (h_s : Keeps s0 s) : Keeps s0 (rebind s t pr) := by
  grind -ring -linarith -lia -ac [rebind, keeps_State_setTenant, keeps_postHeld]
theorem keeps_execTenantRebind (r : Req) (s : State) {tt : State} (ee : execTenantRebind r s = .next tt) (h_s : Keeps s0 s) : Keeps s0 tt := by
  grind -ring -linarith -lia -ac [execTenantRebind, keeps_rebind, keeps_roleThen, keeps_serve]
theorem keeps_settleRollCall (s : State) (p : Nat) (h_s : Keeps s0 s) : Keeps s0 (settleRollCall s p) := by
  grind -ring -linarith -lia -ac [settleRollCall, keeps_State_setPort, keeps_finalAll]
theorem keeps_execRollCallEnd (r : Req) (s : State) {tt : State} (ee : execRollCallEnd r s = .next tt) (h_s : Keeps s0 s) : Keeps s0 tt := by
  grind -ring -linarith -lia -ac [execRollCallEnd, keeps_destroyTenant, keeps_foldl, keeps_foldl_fst, keeps_foldl_snd, keeps_roleThen, keeps_serve, keeps_settleRollCall]
theorem keeps_pickSlot (s : State) (n : Nat) (free : Nat → Bool) (h_s : Keeps s0 s) : Keeps s0 (pickSlot s n free).2 := by
  grind -ring -linarith -lia -ac [pickSlot, Keeps]
theorem keeps_createTenant (s : State) (t : Nat) (p : Nat) (pr : Nat × Option Nat) (h_s : Keeps s0 s) : Keeps s0 (createTenant s t p pr) := by
  grind -ring -linarith -lia -ac [createTenant, keeps_State_setChannel, keeps_State_setTenant]
theorem keeps_execTenantCreate (r : Req) (s : State) {tt : State} (ee : execTenantCreate r s = .next tt) (h_s : Keeps s0 s) : Keeps s0 tt := by
  grind -ring -linarith -lia -ac [execTenantCreate, keeps_createTenant, keeps_pickSlot, keeps_roleThen, keeps_serve]
theorem keeps_execTenantReset (r : Req) (s : State) {tt : State} (ee : execTenantReset r s = .next tt) (h_s : Keeps s0 s) : Keeps s0 tt := by
  grind -ring -linarith -lia -ac [execTenantReset, keeps_abortChannel, keeps_resetTenant, keeps_roleThen, keeps_serve, keeps_settleReset]
theorem keeps_execTenantDestroy (r : Req) (s : State) {tt : State} (ee : execTenantDestroy r s = .next tt) (h_s : Keeps s0 s) : Keeps s0 tt := by
  grind -ring -linarith -lia -ac [execTenantDestroy, keeps_destroyTenant, keeps_roleThen, keeps_serve]
theorem keeps_execContextCreate (r : Req) (s : State) {tt : State} (ee : execContextCreate r s = .next tt) (h_s : Keeps s0 s) : Keeps s0 tt := by
  grind -ring -linarith -lia -ac [execContextCreate, keeps_State_setCtx, keeps_objWrite, keeps_pickSlot, keeps_roleThen, keeps_serve]
theorem keeps_execContextReset (r : Req) (s : State) {tt : State} (ee : execContextReset r s = .next tt) (h_s : Keeps s0 s) : Keeps s0 tt := by
  grind -ring -linarith -lia -ac [execContextReset, keeps_roleThen, keeps_serve, keeps_stopCtx]
theorem keeps_execContextDestroy (r : Req) (s : State) {tt : State} (ee : execContextDestroy r s = .next tt) (h_s : Keeps s0 s) : Keeps s0 tt := by
  grind -ring -linarith -lia -ac [execContextDestroy, keeps_destroyCtx, keeps_roleThen, keeps_serve]
theorem keeps_execContextSetHeaps (r : Req) (s : State) {tt : State} (ee : execContextSetHeaps r s = .next tt) (h_s : Keeps s0 s) : Keeps s0 tt := by
  grind -ring -linarith -lia -ac [execContextSetHeaps, keeps_State_setCtx, keeps_roleThen, keeps_serve]
theorem keeps_execContextQuery (r : Req) (s : State) {tt : State} (ee : execContextQuery r s = .next tt) (h_s : Keeps s0 s) : Keeps s0 tt := by
  grind -ring -linarith -lia -ac [execContextQuery, keeps_roleThen, keeps_serve]
theorem keeps_dropTlb (s : State) (c : Nat) (va : Nat) (n : Nat) (h_s : Keeps s0 s) : Keeps s0 (dropTlb s c va n) := by
  grind -ring -linarith -lia -ac [dropTlb, keeps_State_setMem]
theorem keeps_execContextTlbInvalidate (r : Req) (s : State) {tt : State} (ee : execContextTlbInvalidate r s = .next tt) (h_s : Keeps s0 s) : Keeps s0 tt := by
  grind -ring -linarith -lia -ac [execContextTlbInvalidate, keeps_dropTlb, keeps_roleThen, keeps_serve]
theorem keeps_execContextTlbInvalidateDone (c : Nat) (va : Nat) (n : Nat) (s : State) {tt : State} (ee : execContextTlbInvalidateDone c va n s = .next tt) (h_s : Keeps s0 s) : Keeps s0 tt := by
  grind -ring -linarith -lia -ac [execContextTlbInvalidateDone, keeps_dropTlb, keeps_finalAll]
theorem keeps_execQueueCreate (r : Req) (s : State) {tt : State} (ee : execQueueCreate r s = .next tt) (h_s : Keeps s0 s) : Keeps s0 tt := by
  grind -ring -linarith -lia -ac [execQueueCreate, keeps_State_setQueue, keeps_pickSlot, keeps_report, keeps_roleThen, keeps_serve]
theorem keeps_drainQueue (s : State) (q : Nat) (h_s : Keeps s0 s) : Keeps s0 (drainQueue s q) := by
  unfold drainQueue
  extract_lets x s1 s2
  have k : Keeps s0 s2 := keeps_dropCommands _ _ (keeps_State_setQueue _ _ _ h_s)
  exact keeps_report _ _ (keeps_elim _ _ _ (fun y => keeps_dropSession _ _ k) k)
theorem keeps_execQueueDestroy (r : Req) (s : State) {tt : State} (ee : execQueueDestroy r s = .next tt) (h_s : Keeps s0 s) : Keeps s0 tt := by
  grind -ring -linarith -lia -ac [execQueueDestroy, keeps_drainQueue, keeps_roleThen, keeps_serve]
theorem keeps_execWatchdogSet (r : Req) (s : State) {tt : State} (ee : execWatchdogSet r s = .next tt) (h_s : Keeps s0 s) : Keeps s0 tt := by
  grind -ring -linarith -lia -ac [execWatchdogSet, keeps_State_setCtx, keeps_State_setQueue, keeps_roleThen, keeps_serve]
theorem keeps_resetBlock (s : State) (c : Nat) (h_s : Keeps s0 s) : Keeps s0 (resetBlock s c) := by
  grind -ring -linarith -lia -ac [resetBlock, keeps_foldl, keeps_foldl_fst, keeps_foldl_snd, keeps_incBlock, keeps_setBlock]
theorem keeps_execContextResetDone (c : Nat) (s : State) {tt : State} (ee : execContextResetDone c s = .next tt) (h_s : Keeps s0 s) : Keeps s0 tt := by
  grind -ring -linarith -lia -ac [execContextResetDone, keeps_State_setQueue, keeps_bump, keeps_finalAll, keeps_foldl, keeps_foldl_fst, keeps_foldl_snd, keeps_report, keeps_resetBlock, keeps_setCtxSt, keeps_settleReset]
theorem keeps_execQueueFreed (q : Nat) (s : State) {tt : State} (ee : execQueueFreed q s = .next tt) (h_s : Keeps s0 s) : Keeps s0 tt := by
  unfold execQueueFreed at ee
  injection ee with ee
  subst ee
  split
  · exact h_s
  · have k : Keeps s0 (dropCommands s fun e => e.2.queue == q) := keeps_dropCommands _ _ h_s
    extract_lets s1 s2 s3
    have k2 : Keeps s0 s2 := keeps_elim _ _ _ (fun y => keeps_dropSession _ _ k) k
    exact keeps_finalAll _ _ _ _ _ _ (keeps_retireOrphans _ (keeps_State_setQueue _ _ _ ⟨k2.1, k2.2.1, k2.2.2⟩))
theorem keeps_execContextFreed (c : Nat) (s : State) {tt : State} (ee : execContextFreed c s = .next tt) (h_s : Keeps s0 s) : Keeps s0 tt := by
  simp only [execContextFreed, done] at ee
  cases ee
  repeat' first
    | with_reducible assumption
    | contradiction
    | with_reducible apply keeps_State_setCtx
    | with_reducible apply keeps_State_setMem
    | with_reducible apply keeps_dropTlb
    | with_reducible apply keeps_finalAll
    | with_reducible apply keeps_retireOrphans
    | (with_reducible eapply keeps_fst; case e => with_reducible assumption)
    | (with_reducible eapply keeps_snd; case e => with_reducible assumption)
    | (with_reducible eapply keeps_snd3; case e => with_reducible assumption)
    | split
    | intro _
    | with_reducible apply keeps_mk
    | with_reducible exact rfl
theorem keeps_settleRelease (s : State) (p : Nat) (h_s : Keeps s0 s) : Keeps s0 (settleRelease s p) := by
  grind -ring -linarith -lia -ac [settleRelease, keeps_State_setPort]
theorem keeps_execTenantFreed (t : Nat) (s : State) {tt : State} (ee : execTenantFreed t s = .next tt) (h_s : Keeps s0 s) : Keeps s0 tt := by
  simp only [execTenantFreed, done] at ee
  cases ee
  repeat' first
    | with_reducible assumption
    | contradiction
    | with_reducible apply keeps_State_setChannel
    | with_reducible apply keeps_State_setPort
    | with_reducible apply keeps_State_setTenant
    | with_reducible apply keeps_finalAll
    | with_reducible apply keeps_settleRelease
    | with_reducible apply keeps_settleRollCall
    | (with_reducible eapply keeps_fst; case e => with_reducible assumption)
    | (with_reducible eapply keeps_snd; case e => with_reducible assumption)
    | (with_reducible eapply keeps_snd3; case e => with_reducible assumption)
    | split
    | intro _
    | with_reducible apply keeps_mk
    | with_reducible exact rfl
theorem keeps_fencePage (s : State) (a : Access) (f : Nat) (off : Nat) (k : Nat → State) (h_s : Keeps s0 s) (h_k : ∀ (z0 : Nat), Keeps s0 (k z0)) : Keeps s0 (fencePage s a f off k) := by
  grind -ring -linarith -lia -ac [fencePage, keeps_accLog]
theorem keeps_execFenceSignalRegister (a : Access) (f : Nat) (s : State) {tt : State} (ee : execFenceSignalRegister a f s = .next tt) (h_s : Keeps s0 s) : Keeps s0 tt := by
  grind -ring -linarith -lia -ac [execFenceSignalRegister, keeps_fencePage, keeps_settle]
theorem keeps_execFencePoisonRegister (a : Access) (f : Nat) (s : State) {tt : State} (ee : execFencePoisonRegister a f s = .next tt) (h_s : Keeps s0 s) : Keeps s0 tt := by
  grind -ring -linarith -lia -ac [execFencePoisonRegister, keeps_fencePage, keeps_settle]
theorem keeps_armWait (s : State) (t : Nat) (k : Nat) (h : HostWait) (h_s : Keeps s0 s) : Keeps s0 (armWait s t k h) := by
  grind -ring -linarith -lia -ac [armWait, keeps_State_setTenant, keeps_endHostWait]
theorem keeps_writeHwCtl (s : State) (a : Access) (t : Nat) (k : Nat) (h_s : Keeps s0 s) : Keeps s0 (writeHwCtl s a t k) := by
  grind -ring -linarith -lia -ac [writeHwCtl, keeps_State_setTenant, keeps_armWait]
theorem keeps_execArm (a : Access) (t : Nat) (k : Nat) (s : State) {tt : State} (ee : execArm a t k s = .next tt) (h_s : Keeps s0 s) : Keeps s0 tt := by
  grind -ring -linarith -lia -ac [execArm, keeps_ownPage, keeps_writeHwCtl]
theorem keeps_execDisarm (a : Access) (t : Nat) (k : Nat) (s : State) {tt : State} (ee : execDisarm a t k s = .next tt) (h_s : Keeps s0 s) : Keeps s0 tt := by
  grind -ring -linarith -lia -ac [execDisarm, keeps_ownPage, keeps_writeHwCtl]
theorem keeps_updateBridge (s : State) (k : Nat) (h_s : Keeps s0 s) : Keeps s0 (updateBridge s k) := by
  grind -ring -linarith -lia -ac [updateBridge, keeps_settle, Keeps]
theorem keeps_pickBase (s : State) (n : Nat) (h_s : Keeps s0 s) : Keeps s0 (pickBase s n).2 := by
  grind -ring -linarith -lia -ac [pickBase, Keeps]
theorem keeps_zeroDram (s : State) (b : Nat) (n : Nat) (h_s : Keeps s0 s) : Keeps s0 (zeroDram s b n) :=
  keeps_dram s _ (fun h => Mem.wf_erase _ _ _ h) rfl h_s
theorem keeps_createObj (s : State) (o : Nat) (host : Bool) (b : Nat) (n : Nat) (t : Nat) (h_s : Keeps s0 s) : Keeps s0 (createObj s o host b n t) := by
  grind -ring -linarith -lia -ac [createObj, keeps_State_setObj]
theorem keeps_execObjectCreate (r : Req) (s : State) {tt : State} (ee : execObjectCreate r s = .next tt) (h_s : Keeps s0 s) : Keeps s0 tt := by
  simp only [execObjectCreate, done] at ee
  (repeat' split at ee) <;> cases ee <;> grind -ring -linarith -lia -ac [keeps_createObj, keeps_pickBase, keeps_roleThen, keeps_serve, keeps_zeroDram]
theorem keeps_execObjectZeroDone (o : Nat) (s : State) {tt : State} (ee : execObjectZeroDone o s = .next tt) (h_s : Keeps s0 s) : Keeps s0 tt := by
  grind -ring -linarith -lia -ac [execObjectZeroDone, keeps_finalAll]
theorem keeps_execObjectFree (r : Req) (s : State) {tt : State} (ee : execObjectFree r s = .next tt) (h_s : Keeps s0 s) : Keeps s0 tt := by
  grind -ring -linarith -lia -ac [execObjectFree, keeps_retireObj, keeps_roleThen, keeps_serve]
theorem keeps_execObjectShare (r : Req) (s : State) {tt : State} (ee : execObjectShare r s = .next tt) (h_s : Keeps s0 s) : Keeps s0 tt := by
  grind -ring -linarith -lia -ac [execObjectShare, keeps_State_setObj, keeps_roleThen, keeps_serve]
theorem keeps_execObjectRevoke (r : Req) (s : State) {tt : State} (ee : execObjectRevoke r s = .next tt) (h_s : Keeps s0 s) : Keeps s0 tt := by
  grind -ring -linarith -lia -ac [execObjectRevoke, keeps_roleThen, keeps_serve, keeps_unshare]
theorem keeps_execObjectQuery (r : Req) (s : State) {tt : State} (ee : execObjectQuery r s = .next tt) (h_s : Keeps s0 s) : Keeps s0 tt := by
  grind -ring -linarith -lia -ac [execObjectQuery, keeps_foldl, keeps_foldl_fst, keeps_foldl_snd, keeps_roleThen, keeps_serve]
theorem keeps_execObjectReclaim (o : Nat) (s : State) {tt : State} (ee : execObjectReclaim o s = .next tt) (h_s : Keeps s0 s) : Keeps s0 tt := by
  simp only [execObjectReclaim, done] at ee
  cases ee
  repeat' first
    | with_reducible assumption
    | contradiction
    | with_reducible apply keeps_State_setMem
    | with_reducible apply keeps_State_setObj
    | (with_reducible eapply keeps_fst; case e => with_reducible assumption)
    | (with_reducible eapply keeps_snd; case e => with_reducible assumption)
    | (with_reducible eapply keeps_snd3; case e => with_reducible assumption)
    | split
    | intro _
    | with_reducible apply keeps_mk
    | with_reducible exact rfl
theorem keeps_execFenceCreate (r : Req) (s : State) {tt : State} (ee : execFenceCreate r s = .next tt) (h_s : Keeps s0 s) : Keeps s0 tt := by
  grind -ring -linarith -lia -ac [execFenceCreate, keeps_State_setFence, keeps_roleThen, keeps_serve]
theorem keeps_execFenceFree (r : Req) (s : State) {tt : State} (ee : execFenceFree r s = .next tt) (h_s : Keeps s0 s) : Keeps s0 tt := by
  grind -ring -linarith -lia -ac [execFenceFree, keeps_releaseFence, keeps_roleThen, keeps_serve]
theorem keeps_execFenceReleased (f : Nat) (s : State) {tt : State} (ee : execFenceReleased f s = .next tt) (h_s : Keeps s0 s) : Keeps s0 tt := by
  simp only [execFenceReleased, done] at ee
  cases ee
  repeat' first
    | with_reducible assumption
    | contradiction
    | with_reducible apply keeps_State_setFence
    | with_reducible apply keeps_finalAll
    | (with_reducible eapply keeps_fst; case e => with_reducible assumption)
    | (with_reducible eapply keeps_snd; case e => with_reducible assumption)
    | (with_reducible eapply keeps_snd3; case e => with_reducible assumption)
    | split
    | intro _
    | with_reducible apply keeps_mk
    | with_reducible exact rfl
theorem keeps_execFenceShare (r : Req) (s : State) {tt : State} (ee : execFenceShare r s = .next tt) (h_s : Keeps s0 s) : Keeps s0 tt := by
  grind -ring -linarith -lia -ac [execFenceShare, keeps_State_setFence, keeps_roleThen, keeps_serve]
theorem keeps_execFenceRevoke (r : Req) (s : State) {tt : State} (ee : execFenceRevoke r s = .next tt) (h_s : Keeps s0 s) : Keeps s0 tt := by
  grind -ring -linarith -lia -ac [execFenceRevoke, keeps_revokeFence, keeps_roleThen, keeps_serve]
theorem keeps_execFenceBind (r : Req) (s : State) {tt : State} (ee : execFenceBind r s = .next tt) (h_s : Keeps s0 s) : Keeps s0 tt := by
  grind -ring -linarith -lia -ac [execFenceBind, keeps_State_setFence, keeps_roleThen, keeps_serve]
theorem keeps_execFenceUnbind (r : Req) (s : State) {tt : State} (ee : execFenceUnbind r s = .next tt) (h_s : Keeps s0 s) : Keeps s0 tt := by
  grind -ring -linarith -lia -ac [execFenceUnbind, keeps_State_setFence, keeps_roleThen, keeps_serve]
theorem keeps_execFlumeFenceSignal (r : Req) (s : State) {tt : State} (ee : execFlumeFenceSignal r s = .next tt) (h_s : Keeps s0 s) : Keeps s0 tt := by
  grind -ring -linarith -lia -ac [execFlumeFenceSignal, keeps_roleThen, keeps_serve, keeps_settle]
theorem keeps_execFlumeFencePoison (r : Req) (s : State) {tt : State} (ee : execFlumeFencePoison r s = .next tt) (h_s : Keeps s0 s) : Keeps s0 tt := by
  grind -ring -linarith -lia -ac [execFlumeFencePoison, keeps_roleThen, keeps_serve, keeps_settle]
theorem keeps_execFenceQuery (r : Req) (s : State) {tt : State} (ee : execFenceQuery r s = .next tt) (h_s : Keeps s0 s) : Keeps s0 tt := by
  grind -ring -linarith -lia -ac [execFenceQuery, keeps_roleThen, keeps_serve]
theorem keeps_execBridgeCreate (r : Req) (s : State) {tt : State} (ee : execBridgeCreate r s = .next tt) (h_s : Keeps s0 s) : Keeps s0 tt := by
  simp only [execBridgeCreate, done] at ee
  cases ee
  repeat' first
    | with_reducible assumption
    | contradiction
    | with_reducible apply keeps_pickSlot
    | with_reducible apply keeps_roleThen
    | with_reducible apply keeps_serve
    | (with_reducible eapply keeps_fst; case e => with_reducible assumption)
    | (with_reducible eapply keeps_snd; case e => with_reducible assumption)
    | (with_reducible eapply keeps_snd3; case e => with_reducible assumption)
    | split
    | intro _
    | with_reducible apply keeps_mk
    | with_reducible exact rfl
theorem keeps_execBridgeRemove (r : Req) (s : State) {tt : State} (ee : execBridgeRemove r s = .next tt) (h_s : Keeps s0 s) : Keeps s0 tt := by
  grind -ring -linarith -lia -ac [execBridgeRemove, keeps_roleThen, keeps_serve, Keeps]
theorem keeps_execBridgeUpdate (b : Nat) (s : State) {tt : State} (ee : execBridgeUpdate b s = .next tt) (h_s : Keeps s0 s) : Keeps s0 tt := by
  grind -ring -linarith -lia -ac [execBridgeUpdate, keeps_updateBridge]
theorem keeps_execOutputGrant (r : Req) (s : State) {tt : State} (ee : execOutputGrant r s = .next tt) (h_s : Keeps s0 s) : Keeps s0 tt := by
  grind -ring -linarith -lia -ac [execOutputGrant, keeps_roleThen, keeps_serve, Keeps]
theorem keeps_execOutputRevoke (r : Req) (s : State) {tt : State} (ee : execOutputRevoke r s = .next tt) (h_s : Keeps s0 s) : Keeps s0 tt := by
  simp only [execOutputRevoke, done] at ee
  cases ee
  repeat' first
    | with_reducible assumption
    | contradiction
    | with_reducible apply keeps_clearTap
    | with_reducible apply keeps_roleThen
    | with_reducible apply keeps_serve
    | (with_reducible eapply keeps_fst; case e => with_reducible assumption)
    | (with_reducible eapply keeps_snd; case e => with_reducible assumption)
    | (with_reducible eapply keeps_snd3; case e => with_reducible assumption)
    | split
    | intro _
    | with_reducible apply keeps_mk
    | with_reducible exact rfl
theorem keeps_execLayerGrant (r : Req) (s : State) {tt : State} (ee : execLayerGrant r s = .next tt) (h_s : Keeps s0 s) : Keeps s0 tt := by
  grind -ring -linarith -lia -ac [execLayerGrant, keeps_foldl, keeps_foldl_fst, keeps_foldl_snd, keeps_roleThen, keeps_serve, Keeps]
theorem keeps_execLayerRevoke (r : Req) (s : State) {tt : State} (ee : execLayerRevoke r s = .next tt) (h_s : Keeps s0 s) : Keeps s0 tt := by
  simp only [execLayerRevoke, done] at ee
  cases ee
  repeat' first
    | with_reducible assumption
    | contradiction
    | with_reducible apply keeps_discardSets
    | with_reducible apply keeps_dropLayers
    | with_reducible apply keeps_roleThen
    | with_reducible apply keeps_serve
    | (with_reducible eapply keeps_fst; case e => with_reducible assumption)
    | (with_reducible eapply keeps_snd; case e => with_reducible assumption)
    | (with_reducible eapply keeps_snd3; case e => with_reducible assumption)
    | split
    | intro _
    | with_reducible apply keeps_mk
    | with_reducible exact rfl
theorem keeps_execDisplayQuery (r : Req) (s : State) {tt : State} (ee : execDisplayQuery r s = .next tt) (h_s : Keeps s0 s) : Keeps s0 tt := by
  grind -ring -linarith -lia -ac [execDisplayQuery, keeps_serve]
theorem keeps_execEngineGrant (r : Req) (s : State) {tt : State} (ee : execEngineGrant r s = .next tt) (h_s : Keeps s0 s) : Keeps s0 tt := by
  grind -ring -linarith -lia -ac [execEngineGrant, keeps_roleThen, keeps_serve, keeps_setBz, keeps_setEngCtx, Keeps]
theorem keeps_execEngineRelease (r : Req) (s : State) {tt : State} (ee : execEngineRelease r s = .next tt) (h_s : Keeps s0 s) : Keeps s0 tt := by
  grind -ring -linarith -lia -ac [execEngineRelease, keeps_roleThen, keeps_serve, keeps_setBz, keeps_setEngCtx, Keeps]
theorem keeps_setGraph (s : State) (g : Nat) (x : Graph) (h_s : Keeps s0 s) : Keeps s0 (setGraph s g x) := by
  grind -ring -linarith -lia -ac [setGraph, Keeps]
theorem keeps_setService (s : State) (q : Nat) (b : Bool) (h_s : Keeps s0 s) : Keeps s0 (setService s q b) := by
  grind -ring -linarith -lia -ac [setService, keeps_State_setQueue]
theorem keeps_execGraphLoad (r : Req) (s : State) {tt : State} (ee : execGraphLoad r s = .next tt) (h_s : Keeps s0 s) : Keeps s0 tt := by
  grind -ring -linarith -lia -ac [execGraphLoad, keeps_pickSlot, keeps_roleThen, keeps_serve, keeps_setGraph, keeps_setService]
theorem keeps_dropGraph (s : State) (g : Nat) (q : Nat) (h_s : Keeps s0 s) : Keeps s0 (dropGraph s g q) := by
  grind -ring -linarith -lia -ac [dropGraph, keeps_setService, Keeps]
theorem keeps_serviceFault (s : State) (c : Nat) (q : Nat) (f : AccFault) (h_s : Keeps s0 s) : Keeps s0 (serviceFault s c q f) := by
  grind -ring -linarith -lia -ac [serviceFault, keeps_notePoison, keeps_raise]
theorem keeps_execGraphLoadDone (g : Nat) (s : State) {tt : State} (ee : execGraphLoadDone g s = .next tt) (h_s : Keeps s0 s) : Keeps s0 tt := by
  grind -ring -linarith -lia -ac [execGraphLoadDone, keeps_dropGraph, keeps_finalOn, keeps_serviceFault, keeps_setGraph, keeps_vread]
theorem keeps_placeUnits (s : State) (q : Nat) (us : List (List Byte)) (h_s : Keeps s0 s) : Keeps s0 (placeUnits s q us) := by
  grind -ring -linarith -lia -ac [placeUnits, keeps_State_setQueue, keeps_foldl, keeps_foldl_fst, keeps_foldl_snd, keeps_objWrite, keeps_report]
theorem keeps_placeCommands (s : State) (q : Nat) (head : List (List Byte)) (h_s : Keeps s0 s) : Keeps s0 (placeCommands s q head) := by
  grind -ring -linarith -lia -ac [placeCommands, keeps_freeBytes, keeps_placeUnits, Keeps]
theorem keeps_setRun (s : State) (g : Nat) (x : Graph) (r : GraphRun) (h_s : Keeps s0 s) : Keeps s0 (setRun s g x r) := by
  grind -ring -linarith -lia -ac [setRun, keeps_setGraph]
theorem keeps_startRun (s : State) (g : Nat) (x : Graph) (r : GraphRun) (h_s : Keeps s0 s) : Keeps s0 (startRun s g x r) := by
  unfold startRun
  try dsimp only
  repeat' first
    | with_reducible assumption
    | contradiction
    | with_reducible apply keeps_freeBytes
    | with_reducible apply keeps_placeCommands
    | with_reducible apply keeps_serviceFault
    | with_reducible apply keeps_setRun
    | with_reducible apply keeps_vwrite
    | (with_reducible eapply keeps_vread; case ee => with_reducible assumption)
    | (with_reducible eapply keeps_fst; case e => with_reducible assumption)
    | (with_reducible eapply keeps_snd; case e => with_reducible assumption)
    | (with_reducible eapply keeps_snd3; case e => with_reducible assumption)
    | split
theorem keeps_finishRun (s : State) (g : Nat) (x : Graph) (r : GraphRun) (ends : Nat) (h_s : Keeps s0 s) : Keeps s0 (finishRun s g x r ends) := by
  grind -ring -linarith -lia -ac [finishRun, keeps_finalOn, keeps_setGraph, keeps_settle]
theorem keeps_graphStep (s : State) (g : Nat) (x : Graph) (r : GraphRun) (h_s : Keeps s0 s) : Keeps s0 (graphStep s g x r) := by
  unfold graphStep
  extract_lets
  (repeat' split) <;> grind -ring -linarith -lia -ac [keeps_endRun, keeps_finishRun, keeps_freeBytes, keeps_placeCommands, keeps_placeUnits, keeps_serviceFault, keeps_setRun, keeps_vwrite, Keeps]
theorem keeps_serveGraphs (s : State) (h_s : Keeps s0 s) : Keeps s0 (serveGraphs s) := by
  grind -ring -linarith -lia -ac [serveGraphs, keeps_foldl, keeps_foldl_fst, keeps_foldl_snd, keeps_graphStep, keeps_startRun]
theorem keeps_execCommandComplete (cmd : Nat) (s : State) {tt : State} (ee : execCommandComplete cmd s = .next tt) (h_s : Keeps s0 s) : Keeps s0 tt := by
  grind -ring -linarith -lia -ac [execCommandComplete, keeps_commandComplete, keeps_serveGraphs]
theorem keeps_execCutComplete (cmd : Nat) (s : State) {tt : State} (ee : execCutComplete cmd s = .next tt) (h_s : Keeps s0 s) : Keeps s0 tt := by
  grind -ring -linarith -lia -ac [execCutComplete, keeps_cutComplete, keeps_serveGraphs]
theorem keeps_execRingmarkClose (p : Pkt) (s : State) {tt : State} (ee : execRingmarkClose p s = .next tt) (h_s : Keeps s0 s) : Keeps s0 tt := by
  grind -ring -linarith -lia -ac [execRingmarkClose, keeps_ringmarkClose, keeps_serveGraphs]
theorem keeps_execGraphRun (r : Req) (s : State) {tt : State} (ee : execGraphRun r s = .next tt) (h_s : Keeps s0 s) : Keeps s0 tt := by
  grind -ring -linarith -lia -ac [execGraphRun, keeps_roleThen, keeps_serve, keeps_serveGraphs, keeps_setRun]
theorem keeps_execGraphCancel (r : Req) (s : State) {tt : State} (ee : execGraphCancel r s = .next tt) (h_s : Keeps s0 s) : Keeps s0 tt := by
  grind -ring -linarith -lia -ac [execGraphCancel, keeps_roleThen, keeps_serve, keeps_serveGraphs, keeps_setRun]
theorem keeps_execGraphUnload (r : Req) (s : State) {tt : State} (ee : execGraphUnload r s = .next tt) (h_s : Keeps s0 s) : Keeps s0 tt := by
  grind -ring -linarith -lia -ac [execGraphUnload, keeps_dropGraph, keeps_roleThen, keeps_serve]
theorem keeps_execComposeStart (r : Req) (s : State) {tt : State} (ee : execComposeStart r s = .next tt) (h_s : Keeps s0 s) : Keeps s0 tt := by
  grind -ring -linarith -lia -ac [execComposeStart, keeps_roleThen, keeps_serve, Keeps]
theorem keeps_execComposeStop (r : Req) (s : State) {tt : State} (ee : execComposeStop r s = .next tt) (h_s : Keeps s0 s) : Keeps s0 tt := by
  grind -ring -linarith -lia -ac [execComposeStop, keeps_roleThen, keeps_serve, Keeps]
theorem keeps_composeFrame (s : State) (n : Nat) (key : Nat) (x : Compose) (torn : List Nat) (h_s : Keeps s0 s) : Keeps s0 (composeFrame s n key x torn) := by
  unfold composeFrame
  try dsimp only
  repeat' first
    | with_reducible assumption
    | contradiction
    | with_reducible apply keeps_State_setLayer
    | with_reducible apply keeps_armSet
    | with_reducible apply keeps_devRead
    | with_reducible apply keeps_foldl
    | with_reducible apply keeps_foldl_fst
    | with_reducible apply keeps_foldl_snd
    | with_reducible apply keeps_objWrite
    | (with_reducible eapply keeps_done; case ee => with_reducible assumption)
    | (with_reducible eapply keeps_fst; case e => with_reducible assumption)
    | (with_reducible eapply keeps_snd; case e => with_reducible assumption)
    | (with_reducible eapply keeps_snd3; case e => with_reducible assumption)
    | split
    | intro _
    | with_reducible apply keeps_mk
    | with_reducible exact rfl
theorem keeps_execComposeServiceFrame (n : Nat) (torn : List Nat) (s : State) {tt : State} (ee : execComposeServiceFrame n torn s = .next tt) (h_s : Keeps s0 s) : Keeps s0 tt := by
  grind -ring -linarith -lia -ac [execComposeServiceFrame, keeps_composeFrame, keeps_foldl, keeps_foldl_fst, keeps_foldl_snd]
theorem keeps_execTransfer (r : Req) (s : State) {tt : State} (ee : execTransfer r s = .next tt) (h_s : Keeps s0 s) : Keeps s0 tt := by
  grind -ring -linarith -lia -ac [execTransfer, keeps_attachBz, keeps_report, keeps_roleThen, keeps_serve, keeps_setEngCtx, Keeps]

end Sys2Proof.Machine
end

