-- ==== Sys2Proof/Laws/Keeps7.lean ====
section
/-! SUPPORT. What the operations and commands of Activation, Link, Power, Dusk keep (see Keeps). -/

namespace Sys2Proof.Machine
variable {s0 : State}

theorem keeps_execImageStage (r : Req) (s : State) {tt : State} (ee : execImageStage r s = .next tt) (h_s : Keeps s0 s) : Keeps s0 tt := by
  simp only [execImageStage, done] at ee
  cases ee
  repeat' first
    | with_reducible assumption
    | contradiction
    | with_reducible apply keeps_flashErase
    | with_reducible apply keeps_roleThen
    | with_reducible apply keeps_serve
    | with_reducible apply keeps_setBank
    | (with_reducible eapply keeps_locRead; case ee => with_reducible assumption)
    | (with_reducible eapply keeps_fst; case e => with_reducible assumption)
    | (with_reducible eapply keeps_snd; case e => with_reducible assumption)
    | (with_reducible eapply keeps_snd3; case e => with_reducible assumption)
    | split
    | intro _
    | with_reducible apply keeps_mk
    | with_reducible exact rfl
theorem keeps_execImageStageDone (s : State) {tt : State} (ee : execImageStageDone s = .next tt) (h_s : Keeps s0 s) : Keeps s0 tt := by
  simp only [execImageStageDone, done] at ee
  cases ee
  repeat' first
    | with_reducible assumption
    | contradiction
    | with_reducible apply keeps_finalAll
    | with_reducible apply keeps_flashWrite
    | with_reducible apply keeps_setBank
    | (with_reducible eapply keeps_fst; case e => with_reducible assumption)
    | (with_reducible eapply keeps_snd; case e => with_reducible assumption)
    | (with_reducible eapply keeps_snd3; case e => with_reducible assumption)
    | split
    | intro _
    | with_reducible apply keeps_mk
    | with_reducible exact rfl
theorem keeps_execImageQuery (r : Req) (s : State) {tt : State} (ee : execImageQuery r s = .next tt) (h_s : Keeps s0 s) : Keeps s0 tt := by
  grind -ring -linarith -lia -ac [execImageQuery, keeps_freeBytes, keeps_serve]
theorem keeps_setAct (s : State) (a : Option Activation) (h_s : Keeps s0 s) : Keeps s0 (setAct s a) := by
  grind -ring -linarith -lia -ac [setAct, Keeps]
theorem keeps_startAct (s : State) (r : Req) (opcode : Nat) (commitReq : Bool) (h_s : Keeps s0 s) : Keeps s0 (startAct s r opcode commitReq) := by
  grind -ring -linarith -lia -ac [startAct, keeps_setAct]
theorem keeps_execImageActivate (r : Req) (s : State) {tt : State} (ee : execImageActivate r s = .next tt) (h_s : Keeps s0 s) : Keeps s0 tt := by
  grind -ring -linarith -lia -ac [execImageActivate, keeps_roleThen, keeps_serve, keeps_startAct]
theorem keeps_execActivationCopyDone (s : State) {tt : State} (ee : execActivationCopyDone s = .next tt) (h_s : Keeps s0 s) : Keeps s0 tt := by
  grind -ring -linarith -lia -ac [execActivationCopyDone, keeps_setAct]
theorem keeps_actFinal (s : State) (a : Activation) (status : Nat) (detail : Nat) (h_s : Keeps s0 s) : Keeps s0 (actFinal s a status detail) := by
  grind -ring -linarith -lia -ac [actFinal, keeps_finalAll]
theorem keeps_execActivationWaitExpired (s : State) {tt : State} (ee : execActivationWaitExpired s = .next tt) (h_s : Keeps s0 s) : Keeps s0 tt := by
  grind -ring -linarith -lia -ac [execActivationWaitExpired, keeps_actFinal, keeps_setAct]
theorem keeps_setRangerSt (s : State) (st : RangerSt) (h_s : Keeps s0 s) : Keeps s0 (setRangerSt s st) := by
  grind -ring -linarith -lia -ac [setRangerSt, Keeps]
theorem keeps_execSwitchStart (s : State) {tt : State} (ee : execSwitchStart s = .next tt) (h_s : Keeps s0 s) : Keeps s0 tt := by
  grind -ring -linarith -lia -ac [execSwitchStart, keeps_setAct, keeps_setRangerSt]
theorem keeps_kreogResumes (s : State) (h_s : Keeps s0 s) : Keeps s0 (kreogResumes s) := by
  grind -ring -linarith -lia -ac [kreogResumes, keeps_foldl, keeps_foldl_fst, keeps_foldl_snd, keeps_postRecord, keeps_sweepAll, Keeps]
theorem keeps_endBack (s : State) (a : Activation) (h_s : Keeps s0 s) : Keeps s0 (endBack s a) := by
  unfold endBack
  try dsimp only
  repeat' first
    | with_reducible assumption
    | contradiction
    | with_reducible apply keeps_actFinal
    | with_reducible apply keeps_finalAll
    | with_reducible apply keeps_kreogResumes
    | with_reducible apply keeps_setAct
    | with_reducible apply keeps_setRangerSt
    | (with_reducible eapply keeps_fst; case e => with_reducible assumption)
    | (with_reducible eapply keeps_snd; case e => with_reducible assumption)
    | (with_reducible eapply keeps_snd3; case e => with_reducible assumption)
    | split
    | intro _
    | with_reducible apply keeps_mk
    | with_reducible exact rfl
theorem keeps_failProbation (s : State) (a : Activation) (reason : Nat) (h_s : Keeps s0 s) : Keeps s0 (failProbation s a reason) := by
  grind -ring -linarith -lia -ac [failProbation, keeps_setAct, keeps_setBank]
theorem keeps_execHealthWindowEnd (healthy : Bool) (s : State) {tt : State} (ee : execHealthWindowEnd healthy s = .next tt) (h_s : Keeps s0 s) : Keeps s0 tt := by
  simp only [execHealthWindowEnd, done] at ee
  cases ee
  repeat' first
    | with_reducible assumption
    | contradiction
    | with_reducible apply keeps_actFinal
    | with_reducible apply keeps_failProbation
    | with_reducible apply keeps_setAct
    | with_reducible apply keeps_setBank
    | with_reducible apply keeps_setRangerSt
    | (with_reducible eapply keeps_fst; case e => with_reducible assumption)
    | (with_reducible eapply keeps_snd; case e => with_reducible assumption)
    | (with_reducible eapply keeps_snd3; case e => with_reducible assumption)
    | split
    | intro _
    | with_reducible apply keeps_mk
    | with_reducible exact rfl
theorem keeps_execImageCommit (r : Req) (s : State) {tt : State} (ee : execImageCommit r s = .next tt) (h_s : Keeps s0 s) : Keeps s0 tt := by
  grind -ring -linarith -lia -ac [execImageCommit, keeps_serve, keeps_setAct]
theorem keeps_execImageRollback (r : Req) (s : State) {tt : State} (ee : execImageRollback r s = .next tt) (h_s : Keeps s0 s) : Keeps s0 tt := by
  grind -ring -linarith -lia -ac [execImageRollback, keeps_failProbation, keeps_roleThen, keeps_serve, keeps_startAct]
theorem keeps_endRequests (s : State) (h_s : Keeps s0 s) : Keeps s0 (endRequests s) := by
  grind -ring -linarith -lia -ac [endRequests, keeps_State_setChannel, keeps_foldl, keeps_foldl_fst, keeps_foldl_snd, keeps_lateOrNow]
theorem keeps_restartGap (s : State) (h_s : Keeps s0 s) : Keeps s0 (restartGap s) := by
  unfold restartGap
  try dsimp only
  repeat' first
    | with_reducible assumption
    | contradiction
    | with_reducible apply keeps_State_setChannel
    | with_reducible apply keeps_dropGraph
    | with_reducible apply keeps_endRequests
    | with_reducible apply keeps_endRun
    | with_reducible apply keeps_failProbation
    | with_reducible apply keeps_foldl
    | with_reducible apply keeps_foldl_fst
    | with_reducible apply keeps_foldl_snd
    | with_reducible apply keeps_setAct
    | (with_reducible eapply keeps_fst; case e => with_reducible assumption)
    | (with_reducible eapply keeps_snd; case e => with_reducible assumption)
    | (with_reducible eapply keeps_snd3; case e => with_reducible assumption)
    | split
    | intro _
    | with_reducible apply keeps_mk
    | with_reducible exact rfl
theorem keeps_restartRanger (cause : Nat) (s : State) (h_s : Keeps s0 s) : Keeps s0 (restartRanger cause s) := by
  unfold restartRanger
  try dsimp only
  repeat' first
    | with_reducible assumption
    | contradiction
    | with_reducible apply keeps_restartGap
    | with_reducible apply keeps_setRangerSt
    | (with_reducible eapply keeps_fst; case e => with_reducible assumption)
    | (with_reducible eapply keeps_snd; case e => with_reducible assumption)
    | (with_reducible eapply keeps_snd3; case e => with_reducible assumption)
    | split
    | intro _
    | with_reducible apply keeps_mk
    | with_reducible exact rfl
theorem keeps_execRangerRestart (cause : Nat) (s : State) {tt : State} (ee : execRangerRestart cause s = .next tt) (h_s : Keeps s0 s) : Keeps s0 tt := by
  simp only [execRangerRestart, done] at ee
  (repeat' split at ee) <;> cases ee <;> grind -ring -linarith -lia -ac [keeps_restartRanger]
theorem keeps_execDebugGrant (r : Req) (s : State) {tt : State} (ee : execDebugGrant r s = .next tt) (h_s : Keeps s0 s) : Keeps s0 tt := by
  grind -ring -linarith -lia -ac [execDebugGrant, keeps_roleThen, keeps_serve, Keeps]
theorem keeps_flushMsix (s : State) (p : Nat) (h_s : Keeps s0 s) : Keeps s0 (flushMsix s p) := by
  unfold flushMsix
  try dsimp only
  repeat' first
    | with_reducible assumption
    | contradiction
    | with_reducible apply keeps_State_setPort
    | (with_reducible eapply keeps_fst; case e => with_reducible assumption)
    | (with_reducible eapply keeps_snd; case e => with_reducible assumption)
    | (with_reducible eapply keeps_snd3; case e => with_reducible assumption)
    | split
    | intro _
    | with_reducible apply keeps_mk
    | with_reducible exact rfl
theorem keeps_execMsixUnmask (p : Nat) (v : Nat) (s : State) {tt : State} (ee : execMsixUnmask p v s = .next tt) (h_s : Keeps s0 s) : Keeps s0 tt := by
  grind -ring -linarith -lia -ac [execMsixUnmask, keeps_State_setPort, keeps_flushMsix]
theorem keeps_holdRequests (s : State) (t : Nat) (h_s : Keeps s0 s) : Keeps s0 (holdRequests s t) := by
  unfold holdRequests
  try dsimp only
  repeat' first
    | with_reducible assumption
    | contradiction
    | with_reducible apply keeps_State_setChannel
    | (with_reducible eapply keeps_fst; case e => with_reducible assumption)
    | (with_reducible eapply keeps_snd; case e => with_reducible assumption)
    | (with_reducible eapply keeps_snd3; case e => with_reducible assumption)
    | split
    | intro _
    | with_reducible apply keeps_mk
    | with_reducible exact rfl
theorem keeps_faultGone (s : State) (p : Nat) (c : Nat) (h_s : Keeps s0 s) : Keeps s0 (faultGone s p c) := by
  grind -ring -linarith -lia -ac [faultGone, keeps_raise, keeps_setBlock]
theorem keeps_tenantGone (s : State) (p : Nat) (t : Nat) (h_s : Keeps s0 s) : Keeps s0 (tenantGone s p t) := by
  unfold tenantGone
  extract_lets
  (repeat' split) <;> grind -ring -linarith -lia -ac [keeps_State_setTenant, keeps_faultGone, keeps_foldl, keeps_foldl_fst, keeps_foldl_snd, keeps_holdRequests, keeps_settle, keeps_stopBlazeOf, keeps_stopChipOf]
theorem keeps_linkLoss (s : State) (p : Nat) (h_s : Keeps s0 s) : Keeps s0 (linkLoss s p) := by
  grind -ring -linarith -lia -ac [linkLoss, keeps_State_setMem, keeps_State_setPort, keeps_bump, keeps_foldl, keeps_foldl_fst, keeps_foldl_snd, keeps_tenantGone]
theorem keeps_linkDown (s : State) (p : Nat) (h_s : Keeps s0 s) : Keeps s0 (linkDown s p) := by
  grind -ring -linarith -lia -ac [linkDown, keeps_State_setPort, keeps_linkLoss]
theorem keeps_execLinkDown (p : Nat) (s : State) {tt : State} (ee : execLinkDown p s = .next tt) (h_s : Keeps s0 s) : Keeps s0 tt := by
  grind -ring -linarith -lia -ac [execLinkDown, keeps_linkDown]
theorem keeps_execLinkUp (p : Nat) (s : State) {tt : State} (ee : execLinkUp p s = .next tt) (h_s : Keeps s0 s) : Keeps s0 tt := by
  grind -ring -linarith -lia -ac [execLinkUp, keeps_State_setPort, keeps_flushMsix]
theorem keeps_execRollCallTimeout (p : Nat) (s : State) {tt : State} (ee : execRollCallTimeout p s = .next tt) (h_s : Keeps s0 s) : Keeps s0 tt := by
  grind -ring -linarith -lia -ac [execRollCallTimeout, keeps_State_setPort, keeps_destroyTenant, keeps_finalAll, keeps_foldl, keeps_foldl_fst, keeps_foldl_snd]
theorem keeps_rcDone (s : State) (p : Nat) (result : Nat) (h_s : Keeps s0 s) : Keeps s0 (rcDone s p result) := by
  grind -ring -linarith -lia -ac [rcDone, keeps_State_setPort]
theorem keeps_bindManager (s : State) (p : Nat) (t : Nat) (h_s : Keeps s0 s) : Keeps s0 (bindManager s p t) := by
  grind -ring -linarith -lia -ac [bindManager, keeps_State_setPort, keeps_rcDone]
theorem keeps_bind (s : State) (p : Nat) (h_s : Keeps s0 s) : Keeps s0 (bind s p) := by
  grind -ring -linarith -lia -ac [bind, keeps_bindManager, keeps_createTenant, keeps_rcDone, keeps_rebind]
theorem keeps_release (s : State) (p : Nat) (h_s : Keeps s0 s) : Keeps s0 (release s p) := by
  grind -ring -linarith -lia -ac [release, keeps_State_setPort, keeps_destroyTenant, keeps_foldl, keeps_foldl_fst, keeps_foldl_snd, keeps_settleRelease]
theorem keeps_rcWrite (s : State) (p : Nat) (rel : Bool) (h_s : Keeps s0 s) : Keeps s0 (rcWrite s p rel) := by
  grind -ring -linarith -lia -ac [rcWrite, keeps_State_setPort, keeps_bind, keeps_release]
theorem keeps_execBind (p : Nat) (s : State) {tt : State} (ee : execBind p s = .next tt) (h_s : Keeps s0 s) : Keeps s0 tt := by
  grind -ring -linarith -lia -ac [execBind, keeps_rcWrite]
theorem keeps_execRelease (p : Nat) (s : State) {tt : State} (ee : execRelease p s = .next tt) (h_s : Keeps s0 s) : Keeps s0 tt := by
  grind -ring -linarith -lia -ac [execRelease, keeps_rcWrite]
theorem keeps_resumeRollCall (s : State) (h_s : Keeps s0 s) : Keeps s0 (resumeRollCall s) := by
  grind -ring -linarith -lia -ac [resumeRollCall, keeps_State_setPort, keeps_bind, keeps_foldl, keeps_foldl_fst, keeps_foldl_snd, keeps_release]
theorem keeps_kreogRuns (s : State) (h_s : Keeps s0 s) : Keeps s0 (kreogRuns s) := by
  grind -ring -linarith -lia -ac [kreogRuns, keeps_kreogResumes, keeps_resumeRollCall]
theorem keeps_execSwitchEnd (s : State) {tt : State} (ee : execSwitchEnd s = .next tt) (h_s : Keeps s0 s) : Keeps s0 tt := by
  simp only [execSwitchEnd, done] at ee
  cases ee
  repeat' first
    | with_reducible assumption
    | contradiction
    | with_reducible apply keeps_endBack
    | with_reducible apply keeps_kreogRuns
    | with_reducible apply keeps_resumeRollCall
    | with_reducible apply keeps_setAct
    | with_reducible apply keeps_setBank
    | with_reducible apply keeps_setRangerSt
    | (with_reducible eapply keeps_fst; case e => with_reducible assumption)
    | (with_reducible eapply keeps_snd; case e => with_reducible assumption)
    | (with_reducible eapply keeps_snd3; case e => with_reducible assumption)
    | split
    | intro _
    | with_reducible apply keeps_mk
    | with_reducible exact rfl
theorem keeps_execRangerRestartDone (s : State) {tt : State} (ee : execRangerRestartDone s = .next tt) (h_s : Keeps s0 s) : Keeps s0 tt := by
  grind -ring -linarith -lia -ac [execRangerRestartDone, keeps_endBack, keeps_kreogRuns, keeps_resumeRollCall, keeps_setRangerSt]
theorem keeps_execHostReadTimeout (p : Nat) (words : List Nat) (s : State) {tt : State} (ee : execHostReadTimeout p words s = .next tt) (h_s : Keeps s0 s) : Keeps s0 tt := by
  grind -ring -linarith -lia -ac [execHostReadTimeout, keeps_State_setMem, keeps_recordError]
theorem keeps_setStand (s : State) (k : Nat) (x : Stand) (h_s : Keeps s0 s) : Keeps s0 (setStand s k x) := by
  grind -ring -linarith -lia -ac [setStand, Keeps]
theorem keeps_deliverDroop (s : State) (k : Nat) (h_s : Keeps s0 s) : Keeps s0 (deliverDroop s k) := by
  grind -ring -linarith -lia -ac [deliverDroop, keeps_postEvent, keeps_setStand]
theorem keeps_droopStep (s : State) (k : Nat) (l : Nat) (h_s : Keeps s0 s) : Keeps s0 (droopStep s k l) := by
  grind -ring -linarith -lia -ac [droopStep, keeps_bump, keeps_deliverDroop, keeps_setStand]
theorem keeps_setSensor (s : State) (sensor : Nat) (trip : Bool) (deep : Bool) (h_s : Keeps s0 s) : Keeps s0 (setSensor s sensor trip deep) := by
  grind -ring -linarith -lia -ac [setSensor, keeps_setStand, Keeps]
theorem keeps_execDroopTrip (sensor : Nat) (s : State) {tt : State} (ee : execDroopTrip sensor s = .next tt) (h_s : Keeps s0 s) : Keeps s0 tt := by
  grind -ring -linarith -lia -ac [execDroopTrip, keeps_droopStep, keeps_foldl, keeps_foldl_fst, keeps_foldl_snd, keeps_setSensor]
theorem keeps_execDeepTrip (sensor : Nat) (both : Bool) (s : State) {tt : State} (ee : execDeepTrip sensor both s = .next tt) (h_s : Keeps s0 s) : Keeps s0 tt := by
  grind -ring -linarith -lia -ac [execDeepTrip, keeps_droopStep, keeps_foldl, keeps_foldl_fst, keeps_foldl_snd, keeps_setSensor]
theorem keeps_execTripClear (sensor : Nat) (deep : Bool) (s : State) {tt : State} (ee : execTripClear sensor deep s = .next tt) (h_s : Keeps s0 s) : Keeps s0 tt := by
  grind -ring -linarith -lia -ac [execTripClear, keeps_setSensor]
theorem keeps_execDroopRecover (stand : Nat) (s : State) {tt : State} (ee : execDroopRecover stand s = .next tt) (h_s : Keeps s0 s) : Keeps s0 tt := by
  grind -ring -linarith -lia -ac [execDroopRecover, keeps_setStand]
theorem keeps_execDroopStepDelivery (stand : Nat) (s : State) {tt : State} (ee : execDroopStepDelivery stand s = .next tt) (h_s : Keeps s0 s) : Keeps s0 tt := by
  grind -ring -linarith -lia -ac [execDroopStepDelivery, keeps_deliverDroop]
theorem keeps_setPair (s : State) (g : Nat) (d : Nat) (h_s : Keeps s0 s) : Keeps s0 (setPair s g d) := by
  grind -ring -linarith -lia -ac [setPair, keeps_foldl, keeps_foldl_fst, keeps_foldl_snd, Keeps]
theorem keeps_execGovernorPeriod (p1 : Nat) (p100 : Nat) (tj : Int) (s : State) {tt : State} (ee : execGovernorPeriod p1 p100 tj s = .next tt) (h_s : Keeps s0 s) : Keeps s0 tt := by
  grind -ring -linarith -lia -ac [execGovernorPeriod, keeps_bump, keeps_setPair, Keeps]
theorem keeps_execEnvelopeSet (r : Req) (s : State) {tt : State} (ee : execEnvelopeSet r s = .next tt) (h_s : Keeps s0 s) : Keeps s0 tt := by
  grind -ring -linarith -lia -ac [execEnvelopeSet, keeps_State_setTenant, keeps_roleThen, keeps_serve, Keeps]
theorem keeps_execEnvelopeReq (a : Access) (s : State) {tt : State} (ee : execEnvelopeReq a s = .next tt) (h_s : Keeps s0 s) : Keeps s0 tt := by
  grind -ring -linarith -lia -ac [execEnvelopeReq, keeps_State_setTenant, keeps_accLog]
theorem keeps_setDusk (s : State) (t : Tbl DuskStep) (h_s : Keeps s0 s) : Keeps s0 (setDusk s t) := by
  grind -ring -linarith -lia -ac [setDusk, Keeps]
theorem keeps_dropDusk (s : State) (key : Nat) (h_s : Keeps s0 s) : Keeps s0 (dropDusk s key) := by
  grind -ring -linarith -lia -ac [dropDusk, keeps_setDusk]
theorem keeps_takeEnable (s : State) (n : Nat) (h_s : Keeps s0 s) : Keeps s0 (takeEnable s n) := by
  grind -ring -linarith -lia -ac [takeEnable, keeps_State_setOutput, keeps_leaveOff]
theorem keeps_endPortNight (s : State) (p : Nat) (h_s : Keeps s0 s) : Keeps s0 (endPortNight s p) := by
  grind -ring -linarith -lia -ac [endPortNight, keeps_State_setPort, keeps_linkLoss]
theorem keeps_cancelStep (s : State) (key : Nat) (reason : Nat) (unit : Nat) (h_s : Keeps s0 s) : Keeps s0 (cancelStep s key reason unit) := by
  unfold cancelStep
  try dsimp only
  repeat' first
    | with_reducible assumption
    | contradiction
    | with_reducible apply keeps_bump
    | with_reducible apply keeps_dropDusk
    | with_reducible apply keeps_endPortNight
    | with_reducible apply keeps_finalAll
    | with_reducible apply keeps_foldl
    | with_reducible apply keeps_foldl_fst
    | with_reducible apply keeps_foldl_snd
    | with_reducible apply keeps_takeEnable
    | (with_reducible eapply keeps_fst; case e => with_reducible assumption)
    | (with_reducible eapply keeps_snd; case e => with_reducible assumption)
    | (with_reducible eapply keeps_snd3; case e => with_reducible assumption)
    | split
    | intro _
    | with_reducible apply keeps_mk
    | with_reducible exact rfl
theorem keeps_yieldAct (s : State) (h_s : Keeps s0 s) : Keeps s0 (yieldAct s) := by
  unfold yieldAct
  try dsimp only
  repeat' first
    | with_reducible assumption
    | contradiction
    | with_reducible apply keeps_actFinal
    | with_reducible apply keeps_finalAll
    | with_reducible apply keeps_setAct
    | with_reducible apply keeps_setBank
    | with_reducible apply keeps_setRangerSt
    | (with_reducible eapply keeps_fst; case e => with_reducible assumption)
    | (with_reducible eapply keeps_snd; case e => with_reducible assumption)
    | (with_reducible eapply keeps_snd3; case e => with_reducible assumption)
    | split
    | intro _
    | with_reducible apply keeps_mk
    | with_reducible exact rfl
theorem keeps_nightCommit (s : State) (h_s : Keeps s0 s) : Keeps s0 (nightCommit s) := by
  unfold nightCommit
  repeat' first
    | with_reducible assumption
    | contradiction
    | with_reducible apply keeps_State_setPort
    | with_reducible apply keeps_enterOff
    | with_reducible apply keeps_evictLine
    | with_reducible apply keeps_foldl
    | with_reducible apply keeps_foldl_fst
    | with_reducible apply keeps_foldl_snd
    | with_reducible apply keeps_yieldAct
    | (with_reducible eapply keeps_fst; case e => with_reducible assumption)
    | (with_reducible eapply keeps_snd; case e => with_reducible assumption)
    | (with_reducible eapply keeps_snd3; case e => with_reducible assumption)
    | split
    | intro _
    | with_reducible apply keeps_mk
    | with_reducible exact rfl
theorem keeps_commitStep (s : State) (key : Nat) (x : DuskStep) (h_s : Keeps s0 s) : Keeps s0 (commitStep s key x) := by
  unfold commitStep
  repeat' first
    | with_reducible assumption
    | contradiction
    | with_reducible apply keeps_nightCommit
    | with_reducible apply keeps_setDusk
    | (with_reducible eapply keeps_fst; case e => with_reducible assumption)
    | (with_reducible eapply keeps_snd; case e => with_reducible assumption)
    | (with_reducible eapply keeps_snd3; case e => with_reducible assumption)
    | split
    | intro _
    | with_reducible apply keeps_mk
    | with_reducible exact rfl
theorem keeps_advanceStep (s : State) (key : Nat) (h_s : Keeps s0 s) : Keeps s0 (advanceStep s key) := by
  grind -ring -linarith -lia -ac [advanceStep, keeps_cancelStep, keeps_commitStep, keeps_setDusk]
theorem keeps_putAgent (s : State) (key : Nat) (x : DuskStep) (a : DuskAgent) (st : AgentSt) (h_s : Keeps s0 s) : Keeps s0 (putAgent s key x a st) := by
  grind -ring -linarith -lia -ac [putAgent, keeps_setDusk]
theorem keeps_writeBack (s : State) (ln : Nat) (h_s : Keeps s0 s) : Keeps s0 (writeBack s ln) := by
  grind -ring -linarith -lia -ac [writeBack, keeps_evictLine, keeps_flushLine]
theorem keeps_answerEffect (s : State) (a : DuskAgent) (ans : Answer) (h_s : Keeps s0 s) : Keeps s0 (answerEffect s a ans) := by
  unfold answerEffect
  try dsimp only
  repeat' first
    | with_reducible assumption
    | contradiction
    | with_reducible apply keeps_State_setPort
    | with_reducible apply keeps_foldl
    | with_reducible apply keeps_foldl_fst
    | with_reducible apply keeps_foldl_snd
    | with_reducible apply keeps_writeBack
    | (with_reducible eapply keeps_fst; case e => with_reducible assumption)
    | (with_reducible eapply keeps_snd; case e => with_reducible assumption)
    | (with_reducible eapply keeps_snd3; case e => with_reducible assumption)
    | split
theorem keeps_execDuskAnswer (step : Nat) (agent : DuskAgent) (s : State) {tt : State} (ee : execDuskAnswer step agent s = .next tt) (h_s : Keeps s0 s) : Keeps s0 tt := by
  simp only [execDuskAnswer, done] at ee
  cases ee
  repeat' first
    | with_reducible assumption
    | contradiction
    | with_reducible apply keeps_advanceStep
    | with_reducible apply keeps_answerEffect
    | with_reducible apply keeps_cancelStep
    | with_reducible apply keeps_putAgent
    | (with_reducible eapply keeps_fst; case e => with_reducible assumption)
    | (with_reducible eapply keeps_snd; case e => with_reducible assumption)
    | (with_reducible eapply keeps_snd3; case e => with_reducible assumption)
    | split
theorem keeps_execDuskReask (step : Nat) (agent : DuskAgent) (s : State) {tt : State} (ee : execDuskReask step agent s = .next tt) (h_s : Keeps s0 s) : Keeps s0 tt := by
  simp only [execDuskReask, done] at ee
  cases ee
  repeat' first
    | with_reducible assumption
    | contradiction
    | with_reducible apply keeps_cancelStep
    | with_reducible apply keeps_putAgent
    | (with_reducible eapply keeps_fst; case e => with_reducible assumption)
    | (with_reducible eapply keeps_snd; case e => with_reducible assumption)
    | (with_reducible eapply keeps_snd3; case e => with_reducible assumption)
    | split
theorem keeps_execDuskNoAnswer (step : Nat) (agent : DuskAgent) (s : State) {tt : State} (ee : execDuskNoAnswer step agent s = .next tt) (h_s : Keeps s0 s) : Keeps s0 tt := by
  simp only [execDuskNoAnswer, done] at ee
  cases ee
  repeat' first
    | with_reducible assumption
    | contradiction
    | with_reducible apply keeps_cancelStep
    | (with_reducible eapply keeps_fst; case e => with_reducible assumption)
    | (with_reducible eapply keeps_snd; case e => with_reducible assumption)
    | (with_reducible eapply keeps_snd3; case e => with_reducible assumption)
    | split
theorem keeps_switchOff (s : State) (units : List Nat) (h_s : Keeps s0 s) : Keeps s0 (switchOff s units) := by
  unfold switchOff
  try dsimp only
  repeat' first
    | with_reducible assumption
    | contradiction
    | with_reducible apply keeps_State_setCore
    | with_reducible apply keeps_foldl
    | with_reducible apply keeps_foldl_fst
    | with_reducible apply keeps_foldl_snd
    | (with_reducible eapply keeps_fst; case e => with_reducible assumption)
    | (with_reducible eapply keeps_snd; case e => with_reducible assumption)
    | (with_reducible eapply keeps_snd3; case e => with_reducible assumption)
    | split
    | intro _
    | with_reducible apply keeps_mk
    | with_reducible exact rfl
theorem keeps_execDuskCommitDone (step : Nat) (s : State) {tt : State} (ee : execDuskCommitDone step s = .next tt) (h_s : Keeps s0 s) : Keeps s0 tt := by
  simp only [execDuskCommitDone, done] at ee
  cases ee
  repeat' first
    | with_reducible assumption
    | contradiction
    | with_reducible apply keeps_bump
    | with_reducible apply keeps_dropDusk
    | with_reducible apply keeps_foldl
    | with_reducible apply keeps_foldl_fst
    | with_reducible apply keeps_foldl_snd
    | with_reducible apply keeps_switchOff
    | with_reducible apply keeps_takeEnable
    | (with_reducible eapply keeps_fst; case e => with_reducible assumption)
    | (with_reducible eapply keeps_snd; case e => with_reducible assumption)
    | (with_reducible eapply keeps_snd3; case e => with_reducible assumption)
    | split
    | intro _
    | with_reducible apply keeps_mk
    | with_reducible exact rfl
theorem keeps_execIdleGateStart (unit : Nat) (s : State) {tt : State} (ee : execIdleGateStart unit s = .next tt) (h_s : Keeps s0 s) : Keeps s0 tt := by
  grind -ring -linarith -lia -ac [execIdleGateStart, keeps_setDusk, Keeps]
theorem keeps_startNight (s : State) (h_s : Keeps s0 s) : Keeps s0 (startNight s) := by
  grind -ring -linarith -lia -ac [startNight, keeps_setDusk]
theorem keeps_releasePads (s : State) (p : Nat → Bool) (h_s : Keeps s0 s) : Keeps s0 (releasePads s p) := by
  grind -ring -linarith -lia -ac [releasePads, keeps_foldl, keeps_foldl_fst, keeps_foldl_snd, keeps_takeEnable, Keeps]
theorem keeps_execPowerState (r : Req) (s : State) {tt : State} (ee : execPowerState r s = .next tt) (h_s : Keeps s0 s) : Keeps s0 tt := by
  simp only [execPowerState, done] at ee
  cases ee
  repeat' first
    | with_reducible assumption
    | contradiction
    | with_reducible apply keeps_cancelStep
    | with_reducible apply keeps_releasePads
    | with_reducible apply keeps_roleThen
    | with_reducible apply keeps_serve
    | with_reducible apply keeps_startNight
    | (with_reducible eapply keeps_fst; case e => with_reducible assumption)
    | (with_reducible eapply keeps_snd; case e => with_reducible assumption)
    | (with_reducible eapply keeps_snd3; case e => with_reducible assumption)
    | split
    | intro _
    | with_reducible apply keeps_mk
    | with_reducible exact rfl
theorem keeps_loseData (s : State) (lost : Option (List (Nat × Byte))) (h_s : Keeps s0 s) : Keeps s0 (loseData s lost) := by
  unfold loseData
  split
  · exact h_s
  · next l =>
    have hw : ∀ (l : List (Nat × Byte)) (m : Mem), m.wf = true → (l.foldl (fun m e => if e.1 < s.boot.dramInstalled then m.put e.1 e.2 else m) m).wf = true := by
      intro l
      induction l with
      | nil => exact fun _ h => h
      | cons e l ih =>
        intro m h
        refine ih _ ?_
        dsimp only
        split
        · exact Mem.wf_put _ _ _ h
        · exact h
    have k := keeps_dram s { s.mem with dram := l.foldl (fun m e => if e.1 < s.boot.dramInstalled then m.put e.1 e.2 else m) s.mem.dram } (hw l _) rfl h_s
    exact ⟨k.1, k.2.1, fun o => k.2.2 o⟩
theorem keeps_forceEnd (s : State) (e : Nat × DuskStep) (h_s : Keeps s0 s) : Keeps s0 (forceEnd s e) := by
  unfold forceEnd
  try dsimp only
  repeat' first
    | with_reducible assumption
    | contradiction
    | with_reducible apply keeps_bump
    | with_reducible apply keeps_dropDusk
    | (with_reducible eapply keeps_fst; case e => with_reducible assumption)
    | (with_reducible eapply keeps_snd; case e => with_reducible assumption)
    | (with_reducible eapply keeps_snd3; case e => with_reducible assumption)
    | split
    | intro _
    | with_reducible apply keeps_mk
    | with_reducible exact rfl
theorem keeps_forceNight (s : State) (lost : Option (List (Nat × Byte))) (h_s : Keeps s0 s) : Keeps s0 (forceNight s lost) := by
  unfold forceNight
  repeat' first
    | with_reducible assumption
    | contradiction
    | with_reducible apply keeps_bump
    | with_reducible apply keeps_dropCommands
    | with_reducible apply keeps_finalAll
    | with_reducible apply keeps_foldl
    | with_reducible apply keeps_foldl_fst
    | with_reducible apply keeps_foldl_snd
    | with_reducible apply keeps_forceEnd
    | with_reducible apply keeps_linkLoss
    | with_reducible apply keeps_loseData
    | with_reducible apply keeps_nightCommit
    | with_reducible apply keeps_stopChipOf
    | (with_reducible eapply keeps_fst; case e => with_reducible assumption)
    | (with_reducible eapply keeps_snd; case e => with_reducible assumption)
    | (with_reducible eapply keeps_snd3; case e => with_reducible assumption)
    | split
    | intro _
    | with_reducible apply keeps_mk
    | with_reducible exact rfl

end Sys2Proof.Machine
end

