-- ==== Sys2Proof/Laws/Keeps8.lean ====
section
/-! SUPPORT. What the operations and commands of Dusk, Avail, Sideband, Boot keep (see Keeps). -/

namespace Sys2Proof.Machine
variable {s0 : State}

theorem keeps_execAddressMatch (s : State) {tt : State} (ee : execAddressMatch s = .next tt) (h_s : Keeps s0 s) : Keeps s0 tt := by
  grind -ring -linarith -lia -ac [execAddressMatch, keeps_corePower, Keeps]
theorem keeps_execWakeComplete (s : State) {tt : State} (ee : execWakeComplete s = .next tt) (h_s : Keeps s0 s) : Keeps s0 tt := by
  simp only [execWakeComplete, done] at ee
  cases ee
  repeat' first
    | with_reducible assumption
    | contradiction
    | with_reducible apply keeps_State_setPort
    | with_reducible apply keeps_bump
    | with_reducible apply keeps_finalAll
    | with_reducible apply keeps_foldl
    | with_reducible apply keeps_foldl_fst
    | with_reducible apply keeps_foldl_snd
    | with_reducible apply keeps_kreogRuns
    | with_reducible apply keeps_raiseIbi
    | (with_reducible eapply keeps_fst; case e => with_reducible assumption)
    | (with_reducible eapply keeps_snd; case e => with_reducible assumption)
    | (with_reducible eapply keeps_snd3; case e => with_reducible assumption)
    | split
    | intro _
    | with_reducible apply keeps_mk
    | with_reducible exact rfl
theorem keeps_execNightLinkGraceExpiry (p : Nat) (s : State) {tt : State} (ee : execNightLinkGraceExpiry p s = .next tt) (h_s : Keeps s0 s) : Keeps s0 tt := by
  grind -ring -linarith -lia -ac [execNightLinkGraceExpiry, keeps_linkLoss]
theorem keeps_execDomainPowerUpDone (unit : Nat) (s : State) {tt : State} (ee : execDomainPowerUpDone unit s = .next tt) (h_s : Keeps s0 s) : Keeps s0 tt := by
  grind -ring -linarith -lia -ac [execDomainPowerUpDone, keeps_powerOn]
theorem keeps_thermalFloor (s : State) (h_s : Keeps s0 s) : Keeps s0 (thermalFloor s) := by
  unfold thermalFloor
  try dsimp only
  repeat' first
    | with_reducible assumption
    | contradiction
    | with_reducible apply keeps_setPair
    | (with_reducible eapply keeps_fst; case e => with_reducible assumption)
    | (with_reducible eapply keeps_snd; case e => with_reducible assumption)
    | (with_reducible eapply keeps_snd3; case e => with_reducible assumption)
    | split
    | intro _
    | with_reducible apply keeps_mk
    | with_reducible exact rfl
theorem keeps_execThermalSample (tj : Int) (lost : Option (List (Nat × Byte))) (s : State) {tt : State} (ee : execThermalSample tj lost s = .next tt) (h_s : Keeps s0 s) : Keeps s0 tt := by
  simp only [execThermalSample, done] at ee
  cases ee
  repeat' first
    | with_reducible assumption
    | contradiction
    | with_reducible apply keeps_forceNight
    | with_reducible apply keeps_recordError
    | with_reducible apply keeps_thermalFloor
    | (with_reducible eapply keeps_fst; case e => with_reducible assumption)
    | (with_reducible eapply keeps_snd; case e => with_reducible assumption)
    | (with_reducible eapply keeps_snd3; case e => with_reducible assumption)
    | split
    | intro _
    | with_reducible apply keeps_mk
    | with_reducible exact rfl
theorem keeps_noteCorrected (s : State) (kind : Nat) (unit : Nat) (loc : Nat) (onChip : Bool) (scrub : Bool) (h_s : Keeps s0 s) : Keeps s0 (noteCorrected s kind unit loc onChip scrub) := by
  unfold noteCorrected
  try dsimp only
  repeat' first
    | with_reducible assumption
    | contradiction
    | with_reducible apply keeps_bump
    | with_reducible apply keeps_countError
    | with_reducible apply keeps_recordError
    | (with_reducible eapply keeps_fst; case e => with_reducible assumption)
    | (with_reducible eapply keeps_snd; case e => with_reducible assumption)
    | (with_reducible eapply keeps_snd3; case e => with_reducible assumption)
    | split
    | intro _
    | with_reducible apply keeps_mk
    | with_reducible exact rfl
theorem keeps_noteLost (s : State) (kind : Nat) (unit : Nat) (key : Nat) (loc : Nat) (h_s : Keeps s0 s) : Keeps s0 (noteLost s kind unit key loc) := by
  grind -ring -linarith -lia -ac [noteLost, keeps_bump, keeps_countError, keeps_recordError]
theorem keeps_poisonWord (s : State) (w : Nat) (h_s : Keeps s0 s) : Keeps s0 (poisonWord s w) := by
  grind -ring -linarith -lia -ac [poisonWord, keeps_State_setMem]
theorem keeps_failEngine (s : State) (e : Nat) (h_s : Keeps s0 s) : Keeps s0 (failEngine s e) := by
  grind -ring -linarith -lia -ac [failEngine, keeps_failJob, keeps_failSegment]
theorem keeps_siteLost (s : State) (y0 : ArraySite) (h_s : Keeps s0 s) : Keeps s0 (siteLost s y0) := by
  unfold siteLost
  extract_lets
  (repeat' split) <;> grind -ring -linarith -lia -ac [keeps_State_setCore, keeps_State_setMem, keeps_abortChannel, keeps_failEngine, keeps_foldl, keeps_foldl_fst, keeps_foldl_snd, keeps_invalidateLine, keeps_poisonWord, keeps_replacePixel, keeps_restartRanger, keeps_settle, keeps_suspectData, Keeps]
theorem keeps_execScrubRead (site : ArraySite) (found : ScrubFound) (s : State) {tt : State} (ee : execScrubRead site found s = .next tt) (h_s : Keeps s0 s) : Keeps s0 tt := by
  grind -ring -linarith -lia -ac [execScrubRead, keeps_bump, keeps_linkErrors, keeps_noteCorrected, keeps_noteLost, keeps_recordError, keeps_siteLost]
theorem keeps_execWriteLinkPoll (channel : Nat) (n : Nat) (s : State) {tt : State} (ee : execWriteLinkPoll channel n s = .next tt) (h_s : Keeps s0 s) : Keeps s0 tt := by
  grind -ring -linarith -lia -ac [execWriteLinkPoll, keeps_bumpBy]
theorem keeps_endDead (s : State) (u : Nat) (h_s : Keeps s0 s) : Keeps s0 (endDead s u) := by
  grind -ring -linarith -lia -ac [endDead, keeps_State_setCore, keeps_requeueOn]
theorem keeps_moveWork (si : State) (u : Nat) (h_si : Keeps s0 si) : Keeps s0 (moveWork si u) := by
  grind -ring -linarith -lia -ac [moveWork, keeps_endDead, keeps_foldl, keeps_foldl_fst, keeps_foldl_snd, keeps_preemptOne]
theorem keeps_mapChanged (s : State) (h_s : Keeps s0 s) : Keeps s0 (mapChanged s) := by
  grind -ring -linarith -lia -ac [mapChanged, keeps_foldl, keeps_foldl_fst, keeps_foldl_snd, keeps_refit, keeps_unitFault]
theorem keeps_retireUnit (s : State) (u : Nat) (h_s : Keeps s0 s) : Keeps s0 (retireUnit s u) := by
  grind -ring -linarith -lia -ac [retireUnit, keeps_bump, keeps_mapChanged, keeps_moveWork, keeps_recordError, Keeps]
theorem keeps_appendRetired (s : State) (kind : Nat) (unit : Nat) (loc : Nat) (h_s : Keeps s0 s) : Keeps s0 (appendRetired s kind unit loc) := by
  unfold appendRetired
  try dsimp only
  repeat' first
    | with_reducible assumption
    | contradiction
    | with_reducible apply keeps_writeRec
    | (with_reducible eapply keeps_fst; case e => with_reducible assumption)
    | (with_reducible eapply keeps_snd; case e => with_reducible assumption)
    | (with_reducible eapply keeps_snd3; case e => with_reducible assumption)
    | split
    | intro _
    | with_reducible apply keeps_mk
    | with_reducible exact rfl
theorem keeps_disableLoc (s : State) (slice : Nat) (set : Nat) (way : Nat) (line : Nat) (h_s : Keeps s0 s) : Keeps s0 (disableLoc s slice set way line) := by
  unfold disableLoc
  try dsimp only
  repeat' first
    | with_reducible assumption
    | contradiction
    | with_reducible apply keeps_State_setMem
    | with_reducible apply keeps_appendRetired
    | with_reducible apply keeps_bump
    | with_reducible apply keeps_evictLine
    | with_reducible apply keeps_foldl
    | with_reducible apply keeps_foldl_fst
    | with_reducible apply keeps_foldl_snd
    | with_reducible apply keeps_recordError
    | (with_reducible eapply keeps_fst; case e => with_reducible assumption)
    | (with_reducible eapply keeps_snd; case e => with_reducible assumption)
    | (with_reducible eapply keeps_snd3; case e => with_reducible assumption)
    | split
    | intro _
    | with_reducible apply keeps_mk
    | with_reducible exact rfl
theorem keeps_execRetirement (what : Nat) (line : Nat) (s : State) {tt : State} (ee : execRetirement what line s = .next tt) (h_s : Keeps s0 s) : Keeps s0 tt := by
  simp only [execRetirement, done] at ee
  (repeat' split at ee) <;> cases ee <;> grind -ring -linarith -lia -ac [keeps_disableLoc, keeps_retireUnit, Keeps]
theorem keeps_execRetirePowerOff (unit : Nat) (si : State) {tt : State} (ee : execRetirePowerOff unit si = .next tt) (h_si : Keeps s0 si) : Keeps s0 tt := by
  simp only [execRetirePowerOff, done] at ee
  cases ee
  repeat' first
    | with_reducible assumption
    | contradiction
    | with_reducible apply keeps_appendRetired
    | with_reducible apply keeps_endDead
    | with_reducible apply keeps_recordError
    | with_reducible apply keeps_switchOff
    | (with_reducible eapply keeps_fst; case e => with_reducible assumption)
    | (with_reducible eapply keeps_snd; case e => with_reducible assumption)
    | (with_reducible eapply keeps_snd3; case e => with_reducible assumption)
    | split
    | intro _
    | with_reducible apply keeps_mk
    | with_reducible exact rfl
theorem keeps_execCoreRetired (s : State) {tt : State} (ee : execCoreRetired s = .next tt) (h_s : Keeps s0 s) : Keeps s0 tt := by
  grind -ring -linarith -lia -ac [execCoreRetired, keeps_postEvent, Keeps]
theorem keeps_execSelfTestStart (core : Nat) (s : State) {tt : State} (ee : execSelfTestStart core s = .next tt) (h_s : Keeps s0 s) : Keeps s0 tt := by
  simp only [execSelfTestStart, done] at ee
  cases ee
  repeat' first
    | with_reducible assumption
    | contradiction
    | with_reducible apply keeps_State_setCore
    | (with_reducible eapply keeps_fst; case e => with_reducible assumption)
    | (with_reducible eapply keeps_snd; case e => with_reducible assumption)
    | (with_reducible eapply keeps_snd3; case e => with_reducible assumption)
    | split
    | intro _
    | with_reducible apply keeps_mk
    | with_reducible exact rfl
theorem keeps_testFailed (s : State) (u : Nat) (h_s : Keeps s0 s) : Keeps s0 (testFailed s u) := by
  grind -ring -linarith -lia -ac [testFailed, keeps_addDue, keeps_bump, keeps_recordError]
theorem keeps_execSelfTestDone (core : Nat) (coreFail : Bool) (arrayFail : Bool) (s : State) {tt : State} (ee : execSelfTestDone core coreFail arrayFail s = .next tt) (h_s : Keeps s0 s) : Keeps s0 tt := by
  simp only [execSelfTestDone, done] at ee
  cases ee
  repeat' first
    | with_reducible assumption
    | contradiction
    | with_reducible apply keeps_bump
    | with_reducible apply keeps_testFailed
    | (with_reducible eapply keeps_fst; case e => with_reducible assumption)
    | (with_reducible eapply keeps_snd; case e => with_reducible assumption)
    | (with_reducible eapply keeps_snd3; case e => with_reducible assumption)
    | split
    | intro _
    | with_reducible apply keeps_mk
    | with_reducible exact rfl
theorem keeps_execUnitIsolation (unit : Nat) (s : State) {tt : State} (ee : execUnitIsolation unit s = .next tt) (h_s : Keeps s0 s) : Keeps s0 tt := by
  simp only [execUnitIsolation, done] at ee
  cases ee
  repeat' first
    | with_reducible assumption
    | contradiction
    | with_reducible apply keeps_State_setCore
    | with_reducible apply keeps_bump
    | with_reducible apply keeps_foldl
    | with_reducible apply keeps_foldl_fst
    | with_reducible apply keeps_foldl_snd
    | with_reducible apply keeps_raise
    | with_reducible apply keeps_recordError
    | with_reducible apply keeps_retireUnit
    | (with_reducible eapply keeps_fst; case e => with_reducible assumption)
    | (with_reducible eapply keeps_snd; case e => with_reducible assumption)
    | (with_reducible eapply keeps_snd3; case e => with_reducible assumption)
    | split
    | intro _
    | with_reducible apply keeps_mk
    | with_reducible exact rfl
theorem keeps_cmdDone (s : State) (op : Nat) (result : Nat) (h_s : Keeps s0 s) : Keeps s0 (cmdDone s op result) := by
  grind -ring -linarith -lia -ac [cmdDone, Keeps]
theorem keeps_i3cOp (s : State) (op : Nat) (arg : Nat) (lost : Option (List (Nat × Byte))) {tt : State} (ee : i3cOp s op arg lost = .some tt) (h_s : Keeps s0 s) : Keeps s0 tt := by
  grind -ring -linarith -lia -ac [i3cOp, keeps_forceNight, keeps_releasePads, keeps_selfReset, keeps_settle, Keeps]
theorem keeps_i3cCommand (s : State) (op : Nat) (arg : Nat) (confirm : Nat) (lost : Option (List (Nat × Byte))) (h_s : Keeps s0 s) : Keeps s0 (i3cCommand s op arg confirm lost) := by
  unfold i3cCommand
  try dsimp only
  repeat' first
    | with_reducible assumption
    | contradiction
    | with_reducible apply keeps_cmdDone
    | (with_reducible eapply keeps_i3cOp; case ee => with_reducible assumption)
    | (with_reducible eapply keeps_fst; case e => with_reducible assumption)
    | (with_reducible eapply keeps_snd; case e => with_reducible assumption)
    | (with_reducible eapply keeps_snd3; case e => with_reducible assumption)
    | split
    | intro _
    | with_reducible apply keeps_mk
    | with_reducible exact rfl
theorem keeps_execPoisonFence (arg : BitVec 32) (confirm : BitVec 16) (s : State) {tt : State} (ee : execPoisonFence arg confirm s = .next tt) (h_s : Keeps s0 s) : Keeps s0 tt := by
  grind -ring -linarith -lia -ac [execPoisonFence, keeps_i3cCommand]
theorem keeps_execResetTenant (arg : BitVec 32) (confirm : BitVec 16) (s : State) {tt : State} (ee : execResetTenant arg confirm s = .next tt) (h_s : Keeps s0 s) : Keeps s0 tt := by
  grind -ring -linarith -lia -ac [execResetTenant, keeps_i3cCommand]
theorem keeps_execForceNight (arg : BitVec 32) (confirm : BitVec 16) (lost : Option (List (Nat × Byte))) (s : State) {tt : State} (ee : execForceNight arg confirm lost s = .next tt) (h_s : Keeps s0 s) : Keeps s0 tt := by
  grind -ring -linarith -lia -ac [execForceNight, keeps_i3cCommand]
theorem keeps_execReleasePads (arg : BitVec 32) (confirm : BitVec 16) (s : State) {tt : State} (ee : execReleasePads arg confirm s = .next tt) (h_s : Keeps s0 s) : Keeps s0 tt := by
  grind -ring -linarith -lia -ac [execReleasePads, keeps_i3cCommand]
theorem keeps_execBeaconLock (arg : BitVec 32) (confirm : BitVec 16) (s : State) {tt : State} (ee : execBeaconLock arg confirm s = .next tt) (h_s : Keeps s0 s) : Keeps s0 tt := by
  grind -ring -linarith -lia -ac [execBeaconLock, keeps_i3cCommand]
theorem keeps_execBeaconUnlock (arg : BitVec 32) (confirm : BitVec 16) (s : State) {tt : State} (ee : execBeaconUnlock arg confirm s = .next tt) (h_s : Keeps s0 s) : Keeps s0 tt := by
  grind -ring -linarith -lia -ac [execBeaconUnlock, keeps_i3cCommand]
theorem keeps_writeI3cFlume (s : State) (v : DWord) (off : Nat) (h_s : Keeps s0 s) : Keeps s0 (writeI3cFlume s v off) := by
  unfold writeI3cFlume
  extract_lets
  (repeat' split) <;> grind -ring -linarith -lia -ac [keeps_State_setChannel, keeps_writeFlumeCtl]
theorem keeps_writeSideReg (s : State) (a : Nat) (v : DWord) (h_s : Keeps s0 s) : Keeps s0 (writeSideReg s a v) := by
  grind -ring -linarith -lia -ac [writeSideReg, keeps_i3cCommand, keeps_writeBeaconReg, keeps_writeI3cFlume]
theorem keeps_writeSideByte (s : State) (a : Nat) (b : Byte) (h_s : Keeps s0 s) : Keeps s0 (writeSideByte s a b) := by
  grind -ring -linarith -lia -ac [writeSideByte, keeps_State_setChannel, Keeps]
theorem keeps_sideWrite (y0 : Nat) (y1 : State) (y2 : Nat) (y3 : List Byte) (h_y1 : Keeps s0 y1) : Keeps s0 (sideWrite y0 y1 y2 y3) := by
  fun_induction sideWrite y0 y1 y2 y3 <;> grind -ring -linarith -lia -ac [keeps_writeSideByte, keeps_writeSideReg]
theorem keeps_execI3cPrivateWrite (bytes : List (BitVec 8)) (s : State) {tt : State} (ee : execI3cPrivateWrite bytes s = .next tt) (h_s : Keeps s0 s) : Keeps s0 tt := by
  grind -ring -linarith -lia -ac [execI3cPrivateWrite, keeps_sideWrite, Keeps]
theorem keeps_ccc (s : State) (f : I3c → I3c) (h_s : Keeps s0 s) : Keeps s0 (ccc s f) := by
  grind -ring -linarith -lia -ac [ccc, Keeps]
theorem keeps_cccReturn (s : State) (data : List Byte) (h_s : Keeps s0 s) : Keeps s0 (cccReturn s data) := by
  grind -ring -linarith -lia -ac [cccReturn, keeps_ccc, Keeps]
theorem keeps_execEntdaa (addr : BitVec 7) (s : State) {tt : State} (ee : execEntdaa addr s = .next tt) (h_s : Keeps s0 s) : Keeps s0 tt := by
  grind -ring -linarith -lia -ac [execEntdaa, keeps_ccc]
theorem keeps_execSetdasa (static : BitVec 7) (addr : BitVec 7) (s : State) {tt : State} (ee : execSetdasa static addr s = .next tt) (h_s : Keeps s0 s) : Keeps s0 tt := by
  grind -ring -linarith -lia -ac [execSetdasa, keeps_ccc]
theorem keeps_execSetnewda (addr : BitVec 7) (s : State) {tt : State} (ee : execSetnewda addr s = .next tt) (h_s : Keeps s0 s) : Keeps s0 tt := by
  grind -ring -linarith -lia -ac [execSetnewda, keeps_ccc]
theorem keeps_execRstdaa (s : State) {tt : State} (ee : execRstdaa s = .next tt) (h_s : Keeps s0 s) : Keeps s0 tt := by
  grind -ring -linarith -lia -ac [execRstdaa, Keeps]
theorem keeps_execEnec (events : BitVec 8) (s : State) {tt : State} (ee : execEnec events s = .next tt) (h_s : Keeps s0 s) : Keeps s0 tt := by
  grind -ring -linarith -lia -ac [execEnec, keeps_ccc]
theorem keeps_execDisec (events : BitVec 8) (s : State) {tt : State} (ee : execDisec events s = .next tt) (h_s : Keeps s0 s) : Keeps s0 tt := by
  grind -ring -linarith -lia -ac [execDisec, keeps_ccc]
theorem keeps_execGetpid (s : State) {tt : State} (ee : execGetpid s = .next tt) (h_s : Keeps s0 s) : Keeps s0 tt := by
  grind -ring -linarith -lia -ac [execGetpid, keeps_cccReturn]
theorem keeps_execGetbcr (s : State) {tt : State} (ee : execGetbcr s = .next tt) (h_s : Keeps s0 s) : Keeps s0 tt := by
  grind -ring -linarith -lia -ac [execGetbcr, keeps_cccReturn]
theorem keeps_execGetdcr (s : State) {tt : State} (ee : execGetdcr s = .next tt) (h_s : Keeps s0 s) : Keeps s0 tt := by
  grind -ring -linarith -lia -ac [execGetdcr, keeps_cccReturn]
theorem keeps_execGetstatus (s : State) {tt : State} (ee : execGetstatus s = .next tt) (h_s : Keeps s0 s) : Keeps s0 tt := by
  grind -ring -linarith -lia -ac [execGetstatus, keeps_cccReturn, keeps_freeBytes]
theorem keeps_execGetmrl (s : State) {tt : State} (ee : execGetmrl s = .next tt) (h_s : Keeps s0 s) : Keeps s0 tt := by
  grind -ring -linarith -lia -ac [execGetmrl, keeps_cccReturn, keeps_freeBytes]
theorem keeps_execSetmrl (n : Nat) (s : State) {tt : State} (ee : execSetmrl n s = .next tt) (h_s : Keeps s0 s) : Keeps s0 tt := by
  grind -ring -linarith -lia -ac [execSetmrl, keeps_ccc]
theorem keeps_execGetmwl (s : State) {tt : State} (ee : execGetmwl s = .next tt) (h_s : Keeps s0 s) : Keeps s0 tt := by
  grind -ring -linarith -lia -ac [execGetmwl, keeps_cccReturn]
theorem keeps_execSetmwl (n : Nat) (s : State) {tt : State} (ee : execSetmwl n s = .next tt) (h_s : Keeps s0 s) : Keeps s0 tt := by
  grind -ring -linarith -lia -ac [execSetmwl, keeps_ccc]
theorem keeps_execIbiRetry (ack : Bool) (s : State) {tt : State} (ee : execIbiRetry ack s = .next tt) (h_s : Keeps s0 s) : Keeps s0 tt := by
  grind -ring -linarith -lia -ac [execIbiRetry, Keeps]
theorem keeps_execHdrModeEntry (s : State) {tt : State} (ee : execHdrModeEntry s = .next tt) (h_s : Keeps s0 s) : Keeps s0 tt := by
  grind -ring -linarith -lia -ac [execHdrModeEntry, Keeps]
theorem keeps_execHdrExitPattern (s : State) {tt : State} (ee : execHdrExitPattern s = .next tt) (h_s : Keeps s0 s) : Keeps s0 tt := by
  grind -ring -linarith -lia -ac [execHdrExitPattern, Keeps]
theorem keeps_selectTap (s : State) (t : TapInstr) (h_s : Keeps s0 s) : Keeps s0 (selectTap s t) := by
  unfold selectTap
  try dsimp only
  repeat' first
    | with_reducible assumption
    | contradiction
    | (with_reducible eapply keeps_fst; case e => with_reducible assumption)
    | (with_reducible eapply keeps_snd; case e => with_reducible assumption)
    | (with_reducible eapply keeps_snd3; case e => with_reducible assumption)
    | split
    | intro _
    | with_reducible apply keeps_mk
    | with_reducible exact rfl
theorem keeps_scanOrBypass (s : State) (t : TapInstr) (h_s : Keeps s0 s) : Keeps s0 (scanOrBypass s t) := by
  grind -ring -linarith -lia -ac [scanOrBypass, keeps_selectTap]
theorem keeps_execExtest (s : State) {tt : State} (ee : execExtest s = .next tt) (h_s : Keeps s0 s) : Keeps s0 tt := by
  grind -ring -linarith -lia -ac [execExtest, keeps_scanOrBypass]
theorem keeps_execClamp (s : State) {tt : State} (ee : execClamp s = .next tt) (h_s : Keeps s0 s) : Keeps s0 tt := by
  grind -ring -linarith -lia -ac [execClamp, keeps_scanOrBypass]
theorem keeps_execHighz (s : State) {tt : State} (ee : execHighz s = .next tt) (h_s : Keeps s0 s) : Keeps s0 tt := by
  grind -ring -linarith -lia -ac [execHighz, keeps_scanOrBypass]
theorem keeps_execIdcode (s : State) {tt : State} (ee : execIdcode s = .next tt) (h_s : Keeps s0 s) : Keeps s0 tt := by
  simp only [execIdcode, done] at ee
  cases ee
  repeat' first
    | with_reducible assumption
    | contradiction
    | with_reducible apply keeps_selectTap
    | (with_reducible eapply keeps_fst; case e => with_reducible assumption)
    | (with_reducible eapply keeps_snd; case e => with_reducible assumption)
    | (with_reducible eapply keeps_snd3; case e => with_reducible assumption)
    | split
    | intro _
    | with_reducible apply keeps_mk
    | with_reducible exact rfl
theorem keeps_execSamplePreload (s : State) {tt : State} (ee : execSamplePreload s = .next tt) (h_s : Keeps s0 s) : Keeps s0 tt := by
  grind -ring -linarith -lia -ac [execSamplePreload, keeps_selectTap]
theorem keeps_execBypass (s : State) {tt : State} (ee : execBypass s = .next tt) (h_s : Keeps s0 s) : Keeps s0 tt := by
  grind -ring -linarith -lia -ac [execBypass, keeps_selectTap]
theorem keeps_dapRead (s : State) (y0 : DapOp) (h_s : Keeps s0 s) : Keeps s0 (dapRead s y0) := by
  unfold dapRead
  try dsimp only
  repeat' first
    | with_reducible assumption
    | contradiction
    | (with_reducible eapply keeps_fst; case e => with_reducible assumption)
    | (with_reducible eapply keeps_snd; case e => with_reducible assumption)
    | (with_reducible eapply keeps_snd3; case e => with_reducible assumption)
    | split
    | intro _
    | with_reducible apply keeps_mk
    | with_reducible exact rfl
theorem blowFuses_le (f : Fuses) (op : DapOp) : FuseLe f (blowFuses f op) := by
  unfold blowFuses
  split
  · exact FuseLe.refl f
  · exact FuseLe.refl f
  · split
    · exact ⟨rfl, rfl, rfl, rfl, rfl, rfl, fun h => ⟨rfl, rfl⟩, id, fun i _ => by simp⟩
    · exact FuseLe.refl f
  · next bits supply =>
    split
    · exact FuseLe.refl f
    · next h =>
      refine ⟨rfl, rfl, rfl, rfl, rfl, rfl, fun k => absurd (Or.inl k) h, id, fun i hi => ?_⟩
      have e : byteAt ((List.range 48).map fun i => byteAt f.keyHash i ||| byteAt bits i) i = byteAt f.keyHash i ||| byteAt bits i := by
        simp [byteAt, hi]
      rw [e]
      apply BitVec.eq_of_getLsbD_eq
      intro k hk
      simp
      grind
theorem keeps_execDebugAccessPort (code : BitVec 8) (op : DapOp) (s : State) {tt : State} (ee : execDebugAccessPort code op s = .next tt) (h_s : Keeps s0 s) : Keeps s0 tt := by
  unfold execDebugAccessPort at ee
  injection ee with ee
  subst ee
  split
  · exact keeps_selectTap _ _ h_s
  · exact keeps_selectTap _ _ (keeps_dapRead _ _ ⟨h_s.1.trans (blowFuses_le _ _), h_s.2.1, h_s.2.2⟩)
theorem keeps_execScorch (first : BitVec 16) (second : BitVec 16) (slow : Bool) (supply : Bool) (s : State) {tt : State} (ee : execScorch first second slow supply s = .next tt) (h_s : Keeps s0 s) : Keeps s0 tt := by
  unfold execScorch at ee
  injection ee with ee
  subst ee
  split
  · exact h_s
  · have k := keeps_selectTap s .bypass h_s
    exact ⟨k.1.trans ⟨rfl, rfl, rfl, rfl, rfl, rfl, fun h => ⟨h, rfl⟩, fun _ => rfl, fun i _ => by simp⟩, k.2.1, k.2.2⟩
theorem keeps_resetDevice (s : State) (pin : Bool) (h_s : Keeps s0 s) : Keeps s0 (resetDevice s pin) := by
  refine ⟨h_s.1, h_s.2.1, fun k => ?_⟩
  have o := h_s.2.2 k
  exact ⟨rfl, o.host, o.flash, fun k => Nat.zero_le _⟩
theorem keeps_execDeviceReset (pin : Bool) (s : State) {tt : State} (ee : execDeviceReset pin s = .next tt) (h_s : Keeps s0 s) : Keeps s0 tt := by
  grind -ring -linarith -lia -ac [execDeviceReset, keeps_resetDevice]
theorem keeps_execPgLow (s : State) {tt : State} (ee : execPgLow s = .next tt) (h_s : Keeps s0 s) : Keeps s0 tt := by
  have h1 : Keeps s0 { s with freeTick := s.freeTick + 1 } := h_s
  grind -ring -linarith -lia -ac [execPgLow, keeps_resetDevice]
theorem keeps_execRefclkLoss (s : State) {tt : State} (ee : execRefclkLoss s = .next tt) (h_s : Keeps s0 s) : Keeps s0 tt := by
  grind -ring -linarith -lia -ac [execRefclkLoss, keeps_resetDevice]
theorem keeps_execRstact (action : BitVec 8) (pattern : Bool) (s : State) {tt : State} (ee : execRstact action pattern s = .next tt) (h_s : Keeps s0 s) : Keeps s0 tt := by
  grind -ring -linarith -lia -ac [execRstact, keeps_resetDevice, Keeps]
theorem keeps_bootStage (s : State) (n : Nat) (h_s : Keeps s0 s) : Keeps s0 (bootStage s n) := by
  grind -ring -linarith -lia -ac [bootStage, keeps_raiseIbi, Keeps]
theorem keeps_bootFail (s : State) (n : Nat) (h_s : Keeps s0 s) : Keeps s0 (bootFail s n) := by
  grind -ring -linarith -lia -ac [bootFail, Keeps]
theorem keeps_bootWarn (s : State) (n : Nat) (h_s : Keeps s0 s) : Keeps s0 (bootWarn s n) := by
  grind -ring -linarith -lia -ac [bootWarn, Keeps]
theorem keeps_loadFuses (s : State) (b : BootInput) (h_s : Keeps s0 s) : Keeps s0 (loadFuses s b) := by
  have hw : ∀ (l : List (Nat × Byte)) (m : Mem), m.wf = true → (l.foldl (fun (m : Mem) e => m.put e.1 (~~~e.2)) m).wf = true := by
    intro l
    induction l with
    | nil => exact fun _ h => h
    | cons e l ih => exact fun m h => ih _ (Mem.wf_put _ _ _ h)
  refine keeps_bootStage _ _ ⟨?_, h_s.2.1, fun k => ?_⟩
  · exact h_s.1.trans ⟨rfl, rfl, rfl, rfl, rfl, rfl, fun h => ⟨h, rfl⟩, id, fun i _ => by simp⟩
  · have o := h_s.2.2 k
    refine ⟨o.dram, o.host, ?_, o.counters⟩
    dsimp only
    split
    · exact hw _ _ rfl
    · exact o.flash
theorem keeps_probeFlash (s : State) (b : BootInput) (h_s : Keeps s0 s) : Keeps s0 (probeFlash s b) := by
  unfold probeFlash
  try dsimp only
  repeat' first
    | with_reducible assumption
    | contradiction
    | with_reducible apply keeps_bootFail
    | with_reducible apply keeps_bootStage
    | with_reducible apply keeps_bootWarn
    | (with_reducible eapply keeps_fst; case e => with_reducible assumption)
    | (with_reducible eapply keeps_snd; case e => with_reducible assumption)
    | (with_reducible eapply keeps_snd3; case e => with_reducible assumption)
    | split
    | intro _
    | with_reducible apply keeps_mk
    | with_reducible exact rfl
theorem keeps_lostBanks (s : State) (h_s : Keeps s0 s) : Keeps s0 (lostBanks s) := by
  grind -ring -linarith -lia -ac [lostBanks, keeps_foldl, keeps_foldl_fst, keeps_foldl_snd, keeps_setBank]
theorem keeps_endProbation (s : State) (h_s : Keeps s0 s) : Keeps s0 (endProbation s) := by
  grind -ring -linarith -lia -ac [endProbation, keeps_foldl, keeps_foldl_fst, keeps_foldl_snd, keeps_setBank]
theorem keeps_placeImage (s : State) (i : List Byte) (h_s : Keeps s0 s) : Keeps s0 (placeImage s i) := by
  grind -ring -linarith -lia -ac [placeImage, keeps_State_setOutput, keeps_foldl, keeps_foldl_fst, keeps_foldl_snd, Keeps]
theorem keeps_takeImage (s : State) (b : Nat) (probation : Bool) (h_s : Keeps s0 s) : Keeps s0 (takeImage s b probation) := by
  unfold takeImage
  try dsimp only
  repeat' first
    | with_reducible assumption
    | contradiction
    | with_reducible apply keeps_placeImage
    | with_reducible apply keeps_setBank
    | (with_reducible eapply keeps_fst; case e => with_reducible assumption)
    | (with_reducible eapply keeps_snd; case e => with_reducible assumption)
    | (with_reducible eapply keeps_snd3; case e => with_reducible assumption)
    | split
    | intro _
    | with_reducible apply keeps_mk
    | with_reducible exact rfl
theorem keeps_tryBanks (y0 : List Nat) (y1 : State) (h_y1 : Keeps s0 y1) : Keeps s0 (tryBanks y0 y1) := by
  fun_induction tryBanks y0 y1 <;> (try simp_all) <;> grind -ring -linarith -lia -ac [keeps_bootFail, keeps_bootWarn, keeps_setBank, keeps_takeImage]
theorem keeps_verifyImage (s : State) (h_s : Keeps s0 s) : Keeps s0 (verifyImage s) := by
  grind -ring -linarith -lia -ac [verifyImage, keeps_bootStage, keeps_endProbation, keeps_lostBanks, keeps_tryBanks]
theorem keeps_lightOutput (s : State) (n : Nat) (h_s : Keeps s0 s) : Keeps s0 (lightOutput s n) := by
  grind -ring -linarith -lia -ac [lightOutput, keeps_State_setOutput, keeps_powerOn, keeps_startModeset]
theorem keeps_beaconOn (s : State) (h_s : Keeps s0 s) : Keeps s0 (beaconOn s) := by
  grind -ring -linarith -lia -ac [beaconOn, keeps_bootStage, keeps_foldl, keeps_foldl_fst, keeps_foldl_snd, keeps_lightOutput]
theorem keeps_bootRetire (s : State) (u : Nat) (h_s : Keeps s0 s) : Keeps s0 (bootRetire s u) := by
  unfold bootRetire
  try dsimp only
  repeat' first
    | with_reducible assumption
    | contradiction
    | with_reducible apply keeps_appendRetired
    | with_reducible apply keeps_bump
    | with_reducible apply keeps_recordError
    | with_reducible apply keeps_retireUnit
    | (with_reducible eapply keeps_fst; case e => with_reducible assumption)
    | (with_reducible eapply keeps_snd; case e => with_reducible assumption)
    | (with_reducible eapply keeps_snd3; case e => with_reducible assumption)
    | split
    | intro _
    | with_reducible apply keeps_mk
    | with_reducible exact rfl
theorem keeps_applyEntry (s : State) (kind : Nat) (unit : Nat) (loc : Nat) (h_s : Keeps s0 s) : Keeps s0 (applyEntry s kind unit loc) := by
  grind -ring -linarith -lia -ac [applyEntry, keeps_State_setMem, keeps_bump, keeps_recordError, Keeps]
theorem keeps_applyRetirements (s : State) (h_s : Keeps s0 s) : Keeps s0 (applyRetirements s) := by
  unfold applyRetirements
  try dsimp only
  repeat' first
    | with_reducible assumption
    | contradiction
    | with_reducible apply keeps_applyEntry
    | with_reducible apply keeps_foldl
    | with_reducible apply keeps_foldl_fst
    | with_reducible apply keeps_foldl_snd
    | (with_reducible eapply keeps_fst; case e => with_reducible assumption)
    | (with_reducible eapply keeps_snd; case e => with_reducible assumption)
    | (with_reducible eapply keeps_snd3; case e => with_reducible assumption)
    | split
    | intro _
    | with_reducible apply keeps_mk
    | with_reducible exact rfl

end Sys2Proof.Machine
end

