-- ==== Sys2Proof/Laws/Keeps9.lean ====
section
/-! SUPPORT. What the operations and commands of Boot, Clock, Control, Conversion, CopyPath, Float32, Integer, LaneMove, Packed, Registers, Tex, TileInstr keep (see Keeps). -/

namespace Sys2Proof.Machine
variable {s0 : State}

theorem keeps_trainDram (s : State) (d : DramFound) (h_s : Keeps s0 s) : Keeps s0 (trainDram s d) := by
  unfold trainDram
  extract_lets
  (repeat' split) <;> grind -ring -linarith -lia -ac [keeps_bootFail, keeps_bootWarn, Keeps]
theorem keeps_startKreog (s : State) (b : BootInput) (h_s : Keeps s0 s) : Keeps s0 (startKreog s b) := by
  unfold startKreog
  extract_lets s1 s2 s3
  have k1 : Keeps s0 s1 := keeps_bootStage _ _ h_s
  have k2 : Keeps s0 s2 := keeps_foldl _ _ _ (fun t x k => keeps_bootRetire _ _ k) k1
  have k3 : Keeps s0 s3 := by
    show Keeps s0 (if _ then _ else _)
    split
    · exact k2
    · exact keeps_applyRetirements _ k2
  split
  · exact k3
  · exact keeps_trainDram _ _ k3
theorem keeps_execResetRelease (b : BootInput) (s : State) {tt : State} (ee : execResetRelease b s = .next tt) (h_s : Keeps s0 s) : Keeps s0 tt := by
  simp only [execResetRelease, done] at ee
  cases ee
  repeat' first
    | with_reducible assumption
    | contradiction
    | with_reducible apply keeps_beaconOn
    | with_reducible apply keeps_loadFuses
    | with_reducible apply keeps_probeFlash
    | with_reducible apply keeps_startKreog
    | with_reducible apply keeps_verifyImage
    | (with_reducible eapply keeps_fst; case e => with_reducible assumption)
    | (with_reducible eapply keeps_snd; case e => with_reducible assumption)
    | (with_reducible eapply keeps_snd3; case e => with_reducible assumption)
    | split
theorem keeps_execHostReady (s : State) {tt : State} (ee : execHostReady s = .next tt) (h_s : Keeps s0 s) : Keeps s0 tt := by
  grind -ring -linarith -lia -ac [execHostReady, keeps_bootStage, keeps_foldl, keeps_foldl_fst, keeps_foldl_snd, keeps_powerOn]
theorem keeps_countStand (s : State) (k : Nat) (h_s : Keeps s0 s) : Keeps s0 (countStand s k) := by
  grind -ring -linarith -lia -ac [countStand, keeps_bump]
theorem keeps_countResident (s : State) (h_s : Keeps s0 s) : Keeps s0 (countResident s) := by
  grind -ring -linarith -lia -ac [countResident, keeps_State_setCtx, keeps_foldl, keeps_foldl_fst, keeps_foldl_snd, keeps_setBlock]
theorem keeps_tick (s : State) (h_s : Keeps s0 s) : Keeps s0 (tick s) := by
  unfold tick
  try dsimp only
  repeat' first
    | with_reducible assumption
    | contradiction
    | with_reducible apply keeps_corePower
    | with_reducible apply keeps_countResident
    | with_reducible apply keeps_countStand
    | with_reducible apply keeps_foldl
    | with_reducible apply keeps_foldl_fst
    | with_reducible apply keeps_foldl_snd
    | (with_reducible eapply keeps_fst; case e => with_reducible assumption)
    | (with_reducible eapply keeps_snd; case e => with_reducible assumption)
    | (with_reducible eapply keeps_snd3; case e => with_reducible assumption)
    | split
    | intro _
    | with_reducible apply keeps_mk
    | with_reducible exact rfl
theorem keeps_stepB (op : Nat) (g : GroupAt) (e : EncB) (s : State) (f : Prog → Group → Except Nat Group) (h_s : Keeps s0 s) : Keeps s0 (stepB op g e s f) := by
  grind -ring -linarith -lia -ac [stepB, keeps_stepGroup]
theorem keeps_execNop (g : GroupAt) (e : EncB) (s : State) {tt : State} (ee : execNop g e s = .next tt) (h_s : Keeps s0 s) : Keeps s0 tt := by
  simp only [execNop, done] at ee
  (repeat' split at ee) <;> cases ee <;> grind -ring -linarith -lia -ac [keeps_stepB]
theorem keeps_execBra (g : GroupAt) (e : EncB) (s : State) {tt : State} (ee : execBra g e s = .next tt) (h_s : Keeps s0 s) : Keeps s0 tt := by
  simp only [execBra, done] at ee
  (repeat' split at ee) <;> cases ee <;> grind -ring -linarith -lia -ac [keeps_stepB]
theorem keeps_execBrx (g : GroupAt) (e : EncB) (s : State) {tt : State} (ee : execBrx g e s = .next tt) (h_s : Keeps s0 s) : Keeps s0 tt := by
  simp only [execBrx, done] at ee
  (repeat' split at ee) <;> cases ee <;> grind -ring -linarith -lia -ac [keeps_stepGroup]
theorem keeps_execJoin (g : GroupAt) (e : EncB) (s : State) {tt : State} (ee : execJoin g e s = .next tt) (h_s : Keeps s0 s) : Keeps s0 tt := by
  simp only [execJoin, done] at ee
  (repeat' split at ee) <;> cases ee <;> grind -ring -linarith -lia -ac [keeps_stepB]
theorem keeps_execExit (g : GroupAt) (e : EncB) (s : State) {tt : State} (ee : execExit g e s = .next tt) (h_s : Keeps s0 s) : Keeps s0 tt := by
  simp only [execExit, done] at ee
  (repeat' split at ee) <;> cases ee <;> grind -ring -linarith -lia -ac [keeps_settleWg, keeps_stepB]
theorem keeps_execCall (g : GroupAt) (e : EncB) (s : State) {tt : State} (ee : execCall g e s = .next tt) (h_s : Keeps s0 s) : Keeps s0 tt := by
  simp only [execCall, done] at ee
  (repeat' split at ee) <;> cases ee <;> grind -ring -linarith -lia -ac [keeps_stepB]
theorem keeps_execRet (g : GroupAt) (e : EncB) (s : State) {tt : State} (ee : execRet g e s = .next tt) (h_s : Keeps s0 s) : Keeps s0 tt := by
  simp only [execRet, done] at ee
  (repeat' split at ee) <;> cases ee <;> grind -ring -linarith -lia -ac [keeps_stepB]
theorem keeps_execUndefinedEncoding (g : GroupAt) (s : State) {tt : State} (ee : execUndefinedEncoding g s = .next tt) (h_s : Keeps s0 s) : Keeps s0 tt := by
  simp only [execUndefinedEncoding, done] at ee
  (repeat' split at ee) <;> cases ee <;> grind -ring -linarith -lia -ac [keeps_groupFault, keeps_inCycle, keeps_issueWith_1, keeps_issueWith_2]
theorem keeps_execAsyncPromotion (core : Nat) (slot : Nat) (s : State) {tt : State} (ee : execAsyncPromotion core slot s = .next tt) (h_s : Keeps s0 s) : Keeps s0 tt := by
  simp only [execAsyncPromotion, done] at ee
  (repeat' split at ee) <;> cases ee <;> grind -ring -linarith -lia -ac [keeps_State_setGroup]
theorem keeps_execBulkPromotion (arbiter : Nat) (port : Nat) (s : State) {tt : State} (ee : execBulkPromotion arbiter port s = .next tt) (h_s : Keeps s0 s) : Keeps s0 tt := by
  simp only [execBulkPromotion, done] at ee
  (repeat' split at ee) <;> cases ee <;> grind -ring -linarith -lia -ac [keeps_State_setMem]
theorem keeps_execCvt (g : GroupAt) (e : EncR) (s : State) {tt : State} (ee : execCvt g e s = .next tt) (h_s : Keeps s0 s) : Keeps s0 tt := by
  simp only [execCvt, done] at ee
  (repeat' split at ee) <;> cases ee <;> grind -ring -linarith -lia -ac [keeps_stepR]
theorem keeps_execCvtPk2 (g : GroupAt) (e : EncR) (s : State) {tt : State} (ee : execCvtPk2 g e s = .next tt) (h_s : Keeps s0 s) : Keeps s0 tt := by
  simp only [execCvtPk2, done] at ee
  (repeat' split at ee) <;> cases ee <;> grind -ring -linarith -lia -ac [keeps_stepRun]
theorem keeps_execCvtUnpk (g : GroupAt) (e : EncR) (s : State) {tt : State} (ee : execCvtUnpk g e s = .next tt) (h_s : Keeps s0 s) : Keeps s0 tt := by
  simp only [execCvtUnpk, done] at ee
  (repeat' split at ee) <;> cases ee <;> grind -ring -linarith -lia -ac [keeps_stepR]
theorem keeps_takeUpCopy (s : State) (h_s : Keeps s0 s) : Keeps s0 (takeUpCopy s) := by
  grind -ring -linarith -lia -ac [takeUpCopy, keeps_foldl, keeps_foldl_fst, keeps_foldl_snd, Keeps]
theorem keeps_execCopy (p : Pkt) (s : State) {tt : State} (ee : execCopy p s = .next tt) (h_s : Keeps s0 s) : Keeps s0 tt := by
  grind -ring -linarith -lia -ac [execCopy, keeps_fetchPacket, keeps_packetFault, keeps_startCmd, keeps_takeUpCopy]
theorem keeps_execFill (p : Pkt) (s : State) {tt : State} (ee : execFill p s = .next tt) (h_s : Keeps s0 s) : Keeps s0 tt := by
  grind -ring -linarith -lia -ac [execFill, keeps_fetchPacket, keeps_packetFault, keeps_startCmd, keeps_takeUpCopy]
theorem keeps_copyBytes (s : State) (c : Cmd) (src : List Byte) (h_s : Keeps s0 s) : Keeps s0 (copyBytes s c src).2 := by
  grind -ring -linarith -lia -ac [copyBytes, Keeps]
theorem keeps_copyChunk (s : State) (id : Nat) (c : Cmd) (k : Nat) (h_s : Keeps s0 s) : Keeps s0 (copyChunk s id c k) := by
  unfold copyChunk
  try dsimp only
  repeat' first
    | with_reducible assumption
    | contradiction
    | with_reducible apply keeps_State_setMem
    | with_reducible apply keeps_copyBytes
    | with_reducible apply keeps_devRead
    | with_reducible apply keeps_devWrite
    | with_reducible apply keeps_notePoison
    | with_reducible apply keeps_raise
    | (with_reducible eapply keeps_fst; case e => with_reducible assumption)
    | (with_reducible eapply keeps_snd; case e => with_reducible assumption)
    | (with_reducible eapply keeps_snd3; case e => with_reducible assumption)
    | split
    | intro _
    | with_reducible apply keeps_mk
    | with_reducible exact rfl
theorem keeps_fillChunk (s : State) (id : Nat) (c : Cmd) (k : Nat) (h_s : Keeps s0 s) : Keeps s0 (fillChunk s id c k) := by
  unfold fillChunk
  try dsimp only
  repeat' first
    | with_reducible assumption
    | contradiction
    | with_reducible apply keeps_devWrite
    | (with_reducible eapply keeps_fst; case e => with_reducible assumption)
    | (with_reducible eapply keeps_snd; case e => with_reducible assumption)
    | (with_reducible eapply keeps_snd3; case e => with_reducible assumption)
    | split
    | intro _
    | with_reducible apply keeps_mk
    | with_reducible exact rfl
theorem keeps_execCopyChunkDone (cmd : Nat) (s : State) {tt : State} (ee : execCopyChunkDone cmd s = .next tt) (h_s : Keeps s0 s) : Keeps s0 tt := by
  simp only [execCopyChunkDone, done] at ee
  (repeat' split at ee) <;> cases ee
  repeat' first
    | with_reducible assumption
    | contradiction
    | with_reducible apply keeps_bulkServed
    | with_reducible apply keeps_copyChunk
    | with_reducible apply keeps_fillChunk
    | with_reducible apply keeps_noteBoost
    | with_reducible apply keeps_takeUpCopy
    | (with_reducible eapply keeps_fst; case e => with_reducible assumption)
    | (with_reducible eapply keeps_snd; case e => with_reducible assumption)
    | (with_reducible eapply keeps_snd3; case e => with_reducible assumption)
    | split
    | intro _
    | with_reducible apply keeps_mk
    | with_reducible exact rfl
theorem keeps_execFadd (g : GroupAt) (e : EncR) (s : State) {tt : State} (ee : execFadd g e s = .next tt) (h_s : Keeps s0 s) : Keeps s0 tt := by
  simp only [execFadd, done] at ee
  (repeat' split at ee) <;> cases ee <;> grind -ring -linarith -lia -ac [keeps_stepR]
theorem keeps_execFmul (g : GroupAt) (e : EncR) (s : State) {tt : State} (ee : execFmul g e s = .next tt) (h_s : Keeps s0 s) : Keeps s0 tt := by
  simp only [execFmul, done] at ee
  (repeat' split at ee) <;> cases ee <;> grind -ring -linarith -lia -ac [keeps_stepR]
theorem keeps_execFfma (g : GroupAt) (e : EncR) (s : State) {tt : State} (ee : execFfma g e s = .next tt) (h_s : Keeps s0 s) : Keeps s0 tt := by
  simp only [execFfma, done] at ee
  (repeat' split at ee) <;> cases ee <;> grind -ring -linarith -lia -ac [keeps_stepR]
theorem keeps_execFmin (g : GroupAt) (e : EncR) (s : State) {tt : State} (ee : execFmin g e s = .next tt) (h_s : Keeps s0 s) : Keeps s0 tt := by
  simp only [execFmin, done] at ee
  (repeat' split at ee) <;> cases ee <;> grind -ring -linarith -lia -ac [keeps_stepR]
theorem keeps_execFmax (g : GroupAt) (e : EncR) (s : State) {tt : State} (ee : execFmax g e s = .next tt) (h_s : Keeps s0 s) : Keeps s0 tt := by
  simp only [execFmax, done] at ee
  (repeat' split at ee) <;> cases ee <;> grind -ring -linarith -lia -ac [keeps_stepR]
theorem keeps_execFsetp (g : GroupAt) (e : EncR) (s : State) {tt : State} (ee : execFsetp g e s = .next tt) (h_s : Keeps s0 s) : Keeps s0 tt := by
  simp only [execFsetp, done] at ee
  (repeat' split at ee) <;> cases ee <;> grind -ring -linarith -lia -ac [keeps_stepR]
theorem keeps_execFrnd (g : GroupAt) (e : EncR) (s : State) {tt : State} (ee : execFrnd g e s = .next tt) (h_s : Keeps s0 s) : Keeps s0 tt := by
  simp only [execFrnd, done] at ee
  (repeat' split at ee) <;> cases ee <;> grind -ring -linarith -lia -ac [keeps_stepR]
theorem keeps_execIadd (g : GroupAt) (e : EncR) (s : State) {tt : State} (ee : execIadd g e s = .next tt) (h_s : Keeps s0 s) : Keeps s0 tt := by
  simp only [execIadd, done] at ee
  (repeat' split at ee) <;> cases ee <;> grind -ring -linarith -lia -ac [keeps_stepR]
theorem keeps_execIsub (g : GroupAt) (e : EncR) (s : State) {tt : State} (ee : execIsub g e s = .next tt) (h_s : Keeps s0 s) : Keeps s0 tt := by
  simp only [execIsub, done] at ee
  (repeat' split at ee) <;> cases ee <;> grind -ring -linarith -lia -ac [keeps_stepR]
theorem keeps_execImul (g : GroupAt) (e : EncR) (s : State) {tt : State} (ee : execImul g e s = .next tt) (h_s : Keeps s0 s) : Keeps s0 tt := by
  simp only [execImul, done] at ee
  (repeat' split at ee) <;> cases ee <;> grind -ring -linarith -lia -ac [keeps_stepR]
theorem keeps_execImulhi (g : GroupAt) (e : EncR) (s : State) {tt : State} (ee : execImulhi g e s = .next tt) (h_s : Keeps s0 s) : Keeps s0 tt := by
  simp only [execImulhi, done] at ee
  (repeat' split at ee) <;> cases ee <;> grind -ring -linarith -lia -ac [keeps_stepR]
theorem keeps_execImad (g : GroupAt) (e : EncR) (s : State) {tt : State} (ee : execImad g e s = .next tt) (h_s : Keeps s0 s) : Keeps s0 tt := by
  simp only [execImad, done] at ee
  (repeat' split at ee) <;> cases ee <;> grind -ring -linarith -lia -ac [keeps_stepR]
theorem keeps_execImin (g : GroupAt) (e : EncR) (s : State) {tt : State} (ee : execImin g e s = .next tt) (h_s : Keeps s0 s) : Keeps s0 tt := by
  simp only [execImin, done] at ee
  (repeat' split at ee) <;> cases ee <;> grind -ring -linarith -lia -ac [keeps_stepR]
theorem keeps_execImax (g : GroupAt) (e : EncR) (s : State) {tt : State} (ee : execImax g e s = .next tt) (h_s : Keeps s0 s) : Keeps s0 tt := by
  simp only [execImax, done] at ee
  (repeat' split at ee) <;> cases ee <;> grind -ring -linarith -lia -ac [keeps_stepR]
theorem keeps_execAnd (g : GroupAt) (e : EncR) (s : State) {tt : State} (ee : execAnd g e s = .next tt) (h_s : Keeps s0 s) : Keeps s0 tt := by
  simp only [execAnd, done] at ee
  (repeat' split at ee) <;> cases ee <;> grind -ring -linarith -lia -ac [keeps_stepR]
theorem keeps_execOr (g : GroupAt) (e : EncR) (s : State) {tt : State} (ee : execOr g e s = .next tt) (h_s : Keeps s0 s) : Keeps s0 tt := by
  simp only [execOr, done] at ee
  (repeat' split at ee) <;> cases ee <;> grind -ring -linarith -lia -ac [keeps_stepR]
theorem keeps_execXor (g : GroupAt) (e : EncR) (s : State) {tt : State} (ee : execXor g e s = .next tt) (h_s : Keeps s0 s) : Keeps s0 tt := by
  simp only [execXor, done] at ee
  (repeat' split at ee) <;> cases ee <;> grind -ring -linarith -lia -ac [keeps_stepR]
theorem keeps_execNot (g : GroupAt) (e : EncR) (s : State) {tt : State} (ee : execNot g e s = .next tt) (h_s : Keeps s0 s) : Keeps s0 tt := by
  simp only [execNot, done] at ee
  (repeat' split at ee) <;> cases ee <;> grind -ring -linarith -lia -ac [keeps_stepR]
theorem keeps_execShl (g : GroupAt) (e : EncR) (s : State) {tt : State} (ee : execShl g e s = .next tt) (h_s : Keeps s0 s) : Keeps s0 tt := by
  simp only [execShl, done] at ee
  (repeat' split at ee) <;> cases ee <;> grind -ring -linarith -lia -ac [keeps_stepR]
theorem keeps_execShr (g : GroupAt) (e : EncR) (s : State) {tt : State} (ee : execShr g e s = .next tt) (h_s : Keeps s0 s) : Keeps s0 tt := by
  simp only [execShr, done] at ee
  (repeat' split at ee) <;> cases ee <;> grind -ring -linarith -lia -ac [keeps_stepR]
theorem keeps_execPopc (g : GroupAt) (e : EncR) (s : State) {tt : State} (ee : execPopc g e s = .next tt) (h_s : Keeps s0 s) : Keeps s0 tt := by
  simp only [execPopc, done] at ee
  (repeat' split at ee) <;> cases ee <;> grind -ring -linarith -lia -ac [keeps_stepR]
theorem keeps_execClz (g : GroupAt) (e : EncR) (s : State) {tt : State} (ee : execClz g e s = .next tt) (h_s : Keeps s0 s) : Keeps s0 tt := by
  simp only [execClz, done] at ee
  (repeat' split at ee) <;> cases ee <;> grind -ring -linarith -lia -ac [keeps_stepR]
theorem keeps_execBfe (g : GroupAt) (e : EncR) (s : State) {tt : State} (ee : execBfe g e s = .next tt) (h_s : Keeps s0 s) : Keeps s0 tt := by
  simp only [execBfe, done] at ee
  (repeat' split at ee) <;> cases ee <;> grind -ring -linarith -lia -ac [keeps_stepR]
theorem keeps_execBfi (g : GroupAt) (e : EncR) (s : State) {tt : State} (ee : execBfi g e s = .next tt) (h_s : Keeps s0 s) : Keeps s0 tt := by
  simp only [execBfi, done] at ee
  (repeat' split at ee) <;> cases ee <;> grind -ring -linarith -lia -ac [keeps_stepR]
theorem keeps_execIsetp (g : GroupAt) (e : EncR) (s : State) {tt : State} (ee : execIsetp g e s = .next tt) (h_s : Keeps s0 s) : Keeps s0 tt := by
  simp only [execIsetp, done] at ee
  (repeat' split at ee) <;> cases ee <;> grind -ring -linarith -lia -ac [keeps_stepR]
theorem keeps_execMov (g : GroupAt) (e : EncR) (s : State) {tt : State} (ee : execMov g e s = .next tt) (h_s : Keeps s0 s) : Keeps s0 tt := by
  simp only [execMov, done] at ee
  (repeat' split at ee) <;> cases ee <;> grind -ring -linarith -lia -ac [keeps_stepR]
theorem keeps_execSel (g : GroupAt) (e : EncR) (s : State) {tt : State} (ee : execSel g e s = .next tt) (h_s : Keeps s0 s) : Keeps s0 tt := by
  simp only [execSel, done] at ee
  (repeat' split at ee) <;> cases ee <;> grind -ring -linarith -lia -ac [keeps_stepR]
theorem keeps_execShfl (g : GroupAt) (e : EncR) (s : State) {tt : State} (ee : execShfl g e s = .next tt) (h_s : Keeps s0 s) : Keeps s0 tt := by
  simp only [execShfl, done] at ee
  (repeat' split at ee) <;> cases ee <;> grind -ring -linarith -lia -ac [keeps_stepRun]
theorem keeps_execVote (g : GroupAt) (e : EncR) (s : State) {tt : State} (ee : execVote g e s = .next tt) (h_s : Keeps s0 s) : Keeps s0 tt := by
  simp only [execVote, done] at ee
  (repeat' split at ee) <;> cases ee <;> grind -ring -linarith -lia -ac [keeps_stepRun]
theorem keeps_execPlop (g : GroupAt) (e : EncR) (s : State) {tt : State} (ee : execPlop g e s = .next tt) (h_s : Keeps s0 s) : Keeps s0 tt := by
  simp only [execPlop, done] at ee
  (repeat' split at ee) <;> cases ee <;> grind -ring -linarith -lia -ac [keeps_stepR]
theorem keeps_execRdsr (g : GroupAt) (e : EncR) (s : State) {tt : State} (ee : execRdsr g e s = .next tt) (h_s : Keeps s0 s) : Keeps s0 tt := by
  simp only [execRdsr, done] at ee
  (repeat' split at ee) <;> cases ee <;> grind -ring -linarith -lia -ac [keeps_stepRun]
theorem keeps_execHadd2 (g : GroupAt) (e : EncR) (s : State) {tt : State} (ee : execHadd2 g e s = .next tt) (h_s : Keeps s0 s) : Keeps s0 tt := by
  simp only [execHadd2, done] at ee
  (repeat' split at ee) <;> cases ee <;> grind -ring -linarith -lia -ac [keeps_stepR]
theorem keeps_execHmul2 (g : GroupAt) (e : EncR) (s : State) {tt : State} (ee : execHmul2 g e s = .next tt) (h_s : Keeps s0 s) : Keeps s0 tt := by
  simp only [execHmul2, done] at ee
  (repeat' split at ee) <;> cases ee <;> grind -ring -linarith -lia -ac [keeps_stepR]
theorem keeps_execHfma2 (g : GroupAt) (e : EncR) (s : State) {tt : State} (ee : execHfma2 g e s = .next tt) (h_s : Keeps s0 s) : Keeps s0 tt := by
  simp only [execHfma2, done] at ee
  (repeat' split at ee) <;> cases ee <;> grind -ring -linarith -lia -ac [keeps_stepR]
theorem keeps_execHmin2 (g : GroupAt) (e : EncR) (s : State) {tt : State} (ee : execHmin2 g e s = .next tt) (h_s : Keeps s0 s) : Keeps s0 tt := by
  simp only [execHmin2, done] at ee
  (repeat' split at ee) <;> cases ee <;> grind -ring -linarith -lia -ac [keeps_stepR]
theorem keeps_execHmax2 (g : GroupAt) (e : EncR) (s : State) {tt : State} (ee : execHmax2 g e s = .next tt) (h_s : Keeps s0 s) : Keeps s0 tt := by
  simp only [execHmax2, done] at ee
  (repeat' split at ee) <;> cases ee <;> grind -ring -linarith -lia -ac [keeps_stepR]
theorem keeps_stateAfter (o : Outc) (s : State) (h_o : ∀ {tt : State}, (o = .next tt) → Keeps s0 tt) (h_s : Keeps s0 s) : Keeps s0 (stateAfter o s) := by
  cases o with
  | next t => exact h_o rfl
  | fault _ => exact h_s
  | refused _ => exact h_s
theorem keeps_execClear (a : Access) (t : Nat) (s : State) {tt : State} (ee : execClear a t s = .next tt) (h_s : Keeps s0 s) : Keeps s0 tt := by
  grind -ring -linarith -lia -ac [execClear, keeps_State_setTenant, keeps_ownPage]
theorem keeps_writeRing (s : State) (a : Access) (t : Nat) (off : Nat) (h_s : Keeps s0 s) : Keeps s0 (writeRing s a t off) := by
  grind -ring -linarith -lia -ac [writeRing, keeps_State_setChannel, keeps_foldl, keeps_foldl_fst, keeps_foldl_snd]
theorem keeps_writeHit (s : State) (a : Access) (t : Nat) (off : Nat) (h_s : Keeps s0 s) : Keeps s0 (writeHit s a t off) := by
  grind -ring -linarith -lia -ac [writeHit, keeps_State_setTenant, keeps_bzPage, keeps_execBzFeed, keeps_execBzFeedPart, keeps_execChGo, keeps_execClear, keeps_execEnvelopeReq, keeps_execFencePoisonRegister, keeps_execFenceSignalRegister, keeps_execFlipSubmit, keeps_execFlumeDoorbell, keeps_execFlumeReplyRead, keeps_execQueueDoorbell, keeps_execStart, keeps_stateAfter, keeps_writeBzReg, keeps_writeChReg, keeps_writeFlumeCtl, keeps_writeHwCtl, keeps_writePrism, keeps_writeRing]
theorem keeps_bar0Write (s : State) (a : Access) (off : Nat) (h_s : Keeps s0 s) : Keeps s0 (bar0Write s a off) := by
  grind -ring -linarith -lia -ac [bar0Write, keeps_accLog, keeps_writeHit, keeps_writePrism]
theorem keeps_answer (s : State) (port : Nat) (v : DWord) (h_s : Keeps s0 s) : Keeps s0 (answer s port v) := by
  grind -ring -linarith -lia -ac [answer, Keeps]
theorem keeps_bar0Read (s : State) (a : Access) (off : Nat) (h_s : Keeps s0 s) : Keeps s0 (bar0Read s a off) := by
  grind -ring -linarith -lia -ac [bar0Read, keeps_answer, keeps_logTenant]
theorem keeps_msixWrite (s : State) (a : Access) (off : Nat) (h_s : Keeps s0 s) : Keeps s0 (msixWrite s a off) := by
  grind -ring -linarith -lia -ac [msixWrite, keeps_State_setPort, keeps_flushMsix, keeps_foldl, keeps_foldl_fst, keeps_foldl_snd]
theorem keeps_vsecWrite (s : State) (a : Access) (off : Nat) (h_s : Keeps s0 s) : Keeps s0 (vsecWrite s a off) := by
  unfold vsecWrite
  extract_lets
  (repeat' split) <;> grind -ring -linarith -lia -ac [keeps_State_setPort, keeps_rcWrite]
theorem keeps_functionWrite (s : State) (a : Access) (off : Nat) (h_s : Keeps s0 s) : Keeps s0 (functionWrite s a off) := by
  unfold functionWrite
  extract_lets
  (repeat' split) <;> grind -ring -linarith -lia -ac [keeps_State_setPort, keeps_flushMsix]
theorem keeps_noteAer (s : State) (p : Nat) (bit : Word) (h_s : Keeps s0 s) : Keeps s0 (noteAer s p bit) := by
  grind -ring -linarith -lia -ac [noteAer, keeps_State_setPort]
theorem keeps_unsupported (s : State) (p : Nat) (h_s : Keeps s0 s) : Keeps s0 (unsupported s p) := by
  have h := keeps_noteAer s p aerUnsupported h_s
  exact ⟨h.1, h.2.1, h.2.2⟩
theorem keeps_bar0Split (f : State → Access → Nat → State) (a : Access) (y0 : List (BitVec 8 × BitVec 64)) (y1 : Nat) (y2 : State) (h_f : ∀ (z0 : State) (z1 : Access) (z2 : Nat), Keeps s0 z0 → Keeps s0 (f z0 z1 z2)) (h_y2 : Keeps s0 y2) : Keeps s0 (bar0Split f a y0 y1 y2) := by
  fun_induction bar0Split f a y0 y1 y2 <;> grind -ring -linarith -lia -ac []
theorem keeps_windowPoisoned (s : State) (a : Access) (off : Nat) (h_s : Keeps s0 s) : Keeps s0 (windowPoisoned s a off) := by
  grind -ring -linarith -lia -ac [windowPoisoned, keeps_noteAer, keeps_physWrite1, keeps_poisonWord, keeps_sliceRead]
theorem keeps_privateRead (s : State) (count : Nat) (h_s : Keeps s0 s) : Keeps s0 (privateRead s count) := by
  grind -ring -linarith -lia -ac [privateRead, Keeps]
theorem keeps_portAccess (space : RegSpace) (op : AccessOp) (a : Access) (off : Nat) (si : State) {tt : State} (ee : portAccess space op a off si = .next tt) (h_si : Keeps s0 si) : Keeps s0 tt := by
  simp only [portAccess, done] at ee
  (repeat' split at ee) <;> cases ee <;> grind -ring -linarith -lia -ac [keeps_answer, keeps_bar0Read, keeps_bar0Split, keeps_bar0Write, keeps_bulkServed, keeps_functionWrite, keeps_msixWrite, keeps_noteAer, keeps_unsupported, keeps_vsecWrite, keeps_windowPoisoned]
theorem keeps_execRegisterWrite (space : RegSpace) (op : AccessOp) (a : Access) (off : Nat) (s : State) {tt : State} (ee : execRegisterWrite space op a off s = .next tt) (h_s : Keeps s0 s) : Keeps s0 tt := by
  unfold execRegisterWrite at ee
  split at ee
  · cases ee
    split
    · exact keeps_privateRead _ _ h_s
    · exact h_s
  · exact keeps_portAccess _ _ _ _ _ ee h_s
theorem keeps_residentAll (s : State) (c : Nat) (t : TexDesc) (y0 : List Texel) {x0 : Bool} {tt : State} (ee : residentAll s c t y0 = .ok (x0, tt)) (h_s : Keeps s0 s) : Keeps s0 tt := by
  revert ee
  revert x0 tt
  fun_induction residentAll s c t y0 <;> intro x0 tt ee
  all_goals (try (repeat' split at ee))
  all_goals (try cases ee)
  repeat' first
    | with_reducible assumption
    | contradiction
    | (with_reducible eapply keeps_vread; case ee => with_reducible assumption)
    | (with_reducible eapply keeps_fst; case e => with_reducible assumption)
    | (with_reducible eapply keeps_snd; case e => with_reducible assumption)
    | (with_reducible eapply keeps_snd3; case e => with_reducible assumption)
    | split
    | intro _
    | with_reducible apply_assumption
theorem keeps_readTexels (s : State) (c : Nat) (t : TexDesc) (y0 : List Texel) {x0 : List (Texel × List Nat)} {tt : State} (ee : readTexels s c t y0 = .ok (x0, tt)) (h_s : Keeps s0 s) : Keeps s0 tt := by
  revert ee
  revert x0 tt
  fun_induction readTexels s c t y0 <;> intro x0 tt ee
  all_goals (try (repeat' split at ee))
  all_goals (try cases ee)
  repeat' first
    | with_reducible assumption
    | contradiction
    | (with_reducible eapply keeps_vread; case ee => with_reducible assumption)
    | (with_reducible eapply keeps_fst; case e => with_reducible assumption)
    | (with_reducible eapply keeps_snd; case e => with_reducible assumption)
    | (with_reducible eapply keeps_snd3; case e => with_reducible assumption)
    | split
    | intro _
    | with_reducible apply_assumption
theorem keeps_sampleTexels (s : State) (c : Nat) (t : TexDesc) (border : List Nat) (tx : List Texel) (n : Nat) (f : (Option Texel → List Nat) → List Nat) {x0 : TexOut} {tt : State} (ee : sampleTexels s c t border tx n f = .ok (x0, tt)) (h_s : Keeps s0 s) : Keeps s0 tt := by
  unfold sampleTexels at ee
  try dsimp only at ee
  (repeat' split at ee) <;> (try cases ee)
  repeat' first
    | with_reducible assumption
    | contradiction
    | (with_reducible eapply keeps_readTexels; case ee => with_reducible assumption)
    | (with_reducible eapply keeps_residentAll; case ee => with_reducible assumption)
theorem keeps_texOne (s : State) (x : Group) (e : EncS) (t : TexDesc) (d : SampDesc) (l : Nat) {x0 : TexOut} {tt : State} (ee : texOne s x e t d l = .ok (x0, tt)) (h_s : Keeps s0 s) : Keeps s0 tt := by
  grind -ring -linarith -lia -ac [texOne, keeps_sampleTexels]
theorem keeps_texLanes (s : State) (x : Group) (e : EncS) (t : TexDesc) (d : SampDesc) (y0 : List Nat) {x0 : List (Nat × TexOut)} {tt : State} (ee : texLanes s x e t d y0 = .ok (x0, tt)) (h_s : Keeps s0 s) : Keeps s0 tt := by
  revert ee
  revert x0 tt
  fun_induction texLanes s x e t d y0 <;> intro x0 tt ee
  all_goals (try (repeat' split at ee))
  all_goals (try cases ee)
  repeat' first
    | with_reducible assumption
    | contradiction
    | (with_reducible eapply keeps_texOne; case ee => with_reducible assumption)
    | (with_reducible eapply keeps_fst; case e => with_reducible assumption)
    | (with_reducible eapply keeps_snd; case e => with_reducible assumption)
    | (with_reducible eapply keeps_snd3; case e => with_reducible assumption)
    | split
    | intro _
    | with_reducible apply_assumption
theorem keeps_texDescs (s : State) (c : Nat) (e : EncS) (desc : Nat) {x0 : TexDesc} {x1 : SampDesc} {tt : State} (ee : texDescs s c e desc = .ok (x0, x1, tt)) (h_s : Keeps s0 s) : Keeps s0 tt := by
  unfold texDescs at ee
  try dsimp only at ee
  (repeat' split at ee) <;> (try cases ee)
  repeat' first
    | with_reducible assumption
    | contradiction
    | (with_reducible eapply keeps_vread; case ee => with_reducible assumption)
theorem keeps_execTex (g : GroupAt) (e : EncS) (s : State) {tt : State} (ee : execTex g e s = .next tt) (h_s : Keeps s0 s) : Keeps s0 tt := by
  simp only [execTex, done] at ee
  cases ee
  repeat' first
    | with_reducible assumption
    | contradiction
    | with_reducible apply keeps_bumpBy
    | with_reducible apply keeps_finishMem
    | with_reducible apply keeps_groupFault
    | with_reducible apply keeps_stepMem
    | (with_reducible eapply keeps_texDescs; case ee => with_reducible assumption)
    | (with_reducible eapply keeps_texLanes; case ee => with_reducible assumption)
    | split
    | intro _
theorem keeps_stepTile (s : State) (g : GroupAt) (op : Nat) (e : EncR) (sh : RShape) (ok : Prog → Bool) (regs : List Nat) (isRef : Bool) (needs : Bool) (idle : Bool) (k : State → Group → RasterRun → RenderPass → State) (h_s : Keeps s0 s) (h_k : ∀ (z0 : State) (z1 : Group) (z2 : RasterRun) (z3 : RenderPass), Keeps s0 z0 → Keeps s0 (k z0 z1 z2 z3)) : Keeps s0 (stepTile s g op e sh ok regs isRef needs idle k) := by
  unfold stepTile
  try dsimp only
  repeat' first
    | with_reducible assumption
    | contradiction
    | with_reducible apply keeps_groupFault
    | with_reducible apply keeps_inCycle
    | (with_reducible eapply keeps_issueCheck_1; case ee => with_reducible assumption)
    | (with_reducible eapply keeps_issueCheck_2; case ee => with_reducible assumption)
    | (with_reducible eapply keeps_fst; case e => with_reducible assumption)
    | (with_reducible eapply keeps_snd; case e => with_reducible assumption)
    | (with_reducible eapply keeps_snd3; case e => with_reducible assumption)
    | split
    | intro _
    | with_reducible apply_assumption
theorem keeps_execTld (g : GroupAt) (e : EncR) (s : State) {tt : State} (ee : execTld g e s = .next tt) (h_s : Keeps s0 s) : Keeps s0 tt := by
  simp only [execTld, done] at ee
  (repeat' split at ee) <;> cases ee <;> grind -ring -linarith -lia -ac [keeps_State_setCore, keeps_State_setGroup, keeps_countIssue, keeps_foldl, keeps_foldl_fst, keeps_foldl_snd, keeps_stepTile]

end Sys2Proof.Machine
end

