-- ==== Sys2Proof/Laws/Keeps10.lean ====
section
/-! SUPPORT. What the operations and commands of TileInstr, Transcendental, Safety keep (see Keeps). -/

namespace Sys2Proof.Machine
variable {s0 : State}

theorem keeps_execTst (g : GroupAt) (e : EncR) (s : State) {tt : State} (ee : execTst g e s = .next tt) (h_s : Keeps s0 s) : Keeps s0 tt := by
  simp only [execTst, done] at ee
  (repeat' split at ee) <;> cases ee <;> grind -ring -linarith -lia -ac [keeps_State_setGroup, keeps_countIssue, keeps_foldl, keeps_foldl_fst, keeps_foldl_snd, keeps_stepTile]
theorem keeps_execRcp (g : GroupAt) (e : EncR) (s : State) {tt : State} (ee : execRcp g e s = .next tt) (h_s : Keeps s0 s) : Keeps s0 tt := by
  simp only [execRcp, done] at ee
  (repeat' split at ee) <;> cases ee <;> grind -ring -linarith -lia -ac [keeps_stepR]
theorem keeps_execRsqrt (g : GroupAt) (e : EncR) (s : State) {tt : State} (ee : execRsqrt g e s = .next tt) (h_s : Keeps s0 s) : Keeps s0 tt := by
  simp only [execRsqrt, done] at ee
  (repeat' split at ee) <;> cases ee <;> grind -ring -linarith -lia -ac [keeps_stepR]
theorem keeps_execSqrt (g : GroupAt) (e : EncR) (s : State) {tt : State} (ee : execSqrt g e s = .next tt) (h_s : Keeps s0 s) : Keeps s0 tt := by
  simp only [execSqrt, done] at ee
  (repeat' split at ee) <;> cases ee <;> grind -ring -linarith -lia -ac [keeps_stepR]
theorem keeps_execExp2 (g : GroupAt) (e : EncR) (s : State) {tt : State} (ee : execExp2 g e s = .next tt) (h_s : Keeps s0 s) : Keeps s0 tt := by
  simp only [execExp2, done] at ee
  (repeat' split at ee) <;> cases ee <;> grind -ring -linarith -lia -ac [keeps_stepR]
theorem keeps_execLog2 (g : GroupAt) (e : EncR) (s : State) {tt : State} (ee : execLog2 g e s = .next tt) (h_s : Keeps s0 s) : Keeps s0 tt := by
  simp only [execLog2, done] at ee
  (repeat' split at ee) <;> cases ee <;> grind -ring -linarith -lia -ac [keeps_stepR]
theorem keeps_execSin (g : GroupAt) (e : EncR) (s : State) {tt : State} (ee : execSin g e s = .next tt) (h_s : Keeps s0 s) : Keeps s0 tt := by
  simp only [execSin, done] at ee
  (repeat' split at ee) <;> cases ee <;> grind -ring -linarith -lia -ac [keeps_stepR]
theorem keeps_execCos (g : GroupAt) (e : EncR) (s : State) {tt : State} (ee : execCos g e s = .next tt) (h_s : Keeps s0 s) : Keeps s0 tt := by
  simp only [execCos, done] at ee
  (repeat' split at ee) <;> cases ee <;> grind -ring -linarith -lia -ac [keeps_stepR]
theorem keeps_acceptedBy (u : State) (r : Req) (opcode : Nat) (arg : Nat) (h_u : Keeps s0 u) : Keeps s0 (acceptedBy u r opcode arg) := by
  grind -ring -linarith -lia -ac [acceptedBy, keeps_State_setChannel, keeps_postRecord]

end Sys2Proof.Machine
end

