-- ==== Sys2Proof/WellFormed.lean ====
section
/-! DEFINITION. Well-formed commands: every number an operand names is one the part has (Tables 1.1 to 1.3, 9.22). -/

namespace Sys2Proof

/-- A group slot of a core (R49). -/
def GroupAt.wf (g : GroupAt) : Bool := decide (g.core < 48) && decide (g.slot < 64)

/-- An access carries a port, a requester ID of 16 bits and a PASID of 20 bits (R43). -/
def Access.wf (a : Access) : Bool :=
  decide (a.port < 3) && decide (a.rid < 65536) && (match a.pasid with
    | some p => decide (p < 2 ^ 20)
    | none => true)

/-- A packet stands in a queue slot. -/
def Pkt.wf (p : Pkt) : Bool := decide (p.q < 1024)

/-- A request stands in one of the 17 channels and carries the payload that its header says (Table 13.3). -/
def Req.wf (r : Req) : Bool := decide (r.ch ≤ 16) && decide (r.payload.length = 4 * r.words.toNat)

def Waiter.wf : Waiter → Bool
  | .group k i => decide (k < 48) && decide (i < 64)
  | .queue q => decide (q < 1024)

def DuskAgent.wf : DuskAgent → Bool
  | .queues => true
  | .flume => true
  | .core n => decide (n < 48)
  | .array n => decide (n < 48)
  | .binner n => decide (n < 2)
  | .chipper n => decide (n < 4)
  | .digest => true
  | .slice n => decide (n < 16)
  | .prism n => decide (n < 2)
  | .output n => decide (n < 4)
  | .port n => decide (n < 3)
  | .debug => true

def ArraySite.wf : ArraySite → Bool
  | .register k _ _ => decide (k < 48)
  | .tile k _ _ => decide (k < 48)
  | .weight k _ => decide (k < 48)
  | .icache k _ _ _ => decide (k < 48)
  | .tlb _ _ _ => true
  | .cacheData n _ way _ => decide (n < 16) && decide (way < 16)
  | .cacheTag n _ => decide (n < 16)
  | .directory n _ => decide (n < 16)
  | .ranger ring _ => (match ring with
    | some c => decide (c ≤ 16)
    | none => true)
  | .prism n _ _ => decide (n < 4)
  | .beacon n _ => decide (n < 4)
  | .chipper e _ => decide (e < 4)
  | .fence f => decide (f < 16384)
  | .dram _ => true
  | .link l _ _ ws => ws.all fun w => w / 16 == l

/-- A core that a debugger names. -/
def DapOp.wf : DapOp → Bool
  | .read (.register k _) => decide (k < 48)
  | .read (.tile k _) => decide (k < 48)
  | .read (.debugReg k o) => decide (k < 48 ∧ o < 0x1000)
  | _ => true

/-- An L1 error is in one of the 16 words of a line. -/
def L1Err.wf : L1Err → Bool
  | .none => true
  | .corrected w => decide (w < 16)
  | .refetched w => decide (w < 16)
  | .tagParity => true

def ReadEnv.wf (e : ReadEnv) : Bool := e.l1.all fun x => x.2.wf

/-- The content of a flash is listed by rising addresses within 32 bits, and the balls name one of their settings. -/
def BootInput.wf (b : BootInput) : Bool :=
  (match b.flash with
    | some l => l.all (fun e => decide (e.1 < 2 ^ 32)) && (l.map Prod.fst).Pairwise (· < ·)
    | none => true) && b.failed.all fun u => decide (u < 96)

/-- Every operand of a command is one the part has. -/
def Instr.wf : Instr → Bool
  | .nop g _ => g.wf
  | .bra g _ => g.wf
  | .brx g _ => g.wf
  | .join g _ => g.wf
  | .exit g _ => g.wf
  | .call g _ => g.wf
  | .ret g _ => g.wf
  | .iadd g _ => g.wf
  | .isub g _ => g.wf
  | .imul g _ => g.wf
  | .imulhi g _ => g.wf
  | .imad g _ => g.wf
  | .imin g _ => g.wf
  | .imax g _ => g.wf
  | .andL g _ => g.wf
  | .orL g _ => g.wf
  | .xor g _ => g.wf
  | .notL g _ => g.wf
  | .shl g _ => g.wf
  | .shr g _ => g.wf
  | .popc g _ => g.wf
  | .clz g _ => g.wf
  | .bfe g _ => g.wf
  | .bfi g _ => g.wf
  | .isetp g _ => g.wf
  | .fadd g _ => g.wf
  | .fmul g _ => g.wf
  | .ffma g _ => g.wf
  | .fmin g _ => g.wf
  | .fmax g _ => g.wf
  | .fsetp g _ => g.wf
  | .frnd g _ => g.wf
  | .hadd2 g _ => g.wf
  | .hmul2 g _ => g.wf
  | .hfma2 g _ => g.wf
  | .hmin2 g _ => g.wf
  | .hmax2 g _ => g.wf
  | .rcp g _ => g.wf
  | .rsqrt g _ => g.wf
  | .sqrt g _ => g.wf
  | .exp2 g _ => g.wf
  | .log2 g _ => g.wf
  | .sin g _ => g.wf
  | .cos g _ => g.wf
  | .cvt g _ => g.wf
  | .cvtPk2 g _ => g.wf
  | .cvtUnpk g _ => g.wf
  | .mov g _ => g.wf
  | .sel g _ => g.wf
  | .shfl g _ => g.wf
  | .vote g _ => g.wf
  | .rdsr g _ => g.wf
  | .plop g _ => g.wf
  | .ld g _ env => g.wf && env.wf
  | .st g _ => g.wf
  | .lds g _ => g.wf
  | .sts g _ => g.wf
  | .atoms g _ => g.wf
  | .atom g _ => g.wf
  | .bar g _ => g.wf
  | .membar g _ => g.wf
  | .fsig g _ => g.wf
  | .fwait g _ => g.wf
  | .fread g _ => g.wf
  | .tex g _ => g.wf
  | .tmma g _ => g.wf
  | .twld g _ => g.wf
  | .tcvt g _ => g.wf
  | .tsync g _ => g.wf
  | .tld g _ => g.wf
  | .tst g _ => g.wf
  | .storeAck core _ => decide (core < 48)
  | .l1Fill core _ _ => decide (core < 48)
  | .tmmaComplete core _ => decide (core < 48)
  | .twldComplete core _ => decide (core < 48)
  | .tcvtComplete core _ => decide (core < 48)
  | .barrierStranded core _ => decide (core < 48)
  | .asyncPromotion core slot => decide (core < 48) && decide (slot < 64)
  | .bulkPromotion _ _ => true
  | .queueDoorbell a t j => a.wf && decide (t < 16) && decide (j < 256)
  | .nopPacket p => p.wf
  | .dispatch p => p.wf
  | .workgroupResident _ => true
  | .cut p => p.wf
  | .renderPass p => p.wf
  | .fenceSignal p => p.wf
  | .fenceWait p => p.wf
  | .flush p => p.wf
  | .invalidate p => p.wf
  | .icacheInvalidate p => p.wf
  | .tlbInvalidate p => p.wf
  | .ringmarkOpen p => p.wf
  | .ringmarkClose p => p.wf
  | .copy p => p.wf
  | .fill p => p.wf
  | .copyChunkDone _ => true
  | .commandComplete _ => true
  | .itemDigestsDone _ => true
  | .digestChunkDone _ => true
  | .ringmarkFoldDone _ => true
  | .weightStreamStart _ => true
  | .weightSegmentDone e => decide (e < 4)
  | .cutTileStart core _ => decide (core < 48)
  | .tileEngineTransferDone core _ => decide (core < 48)
  | .stageStart core => decide (core < 48)
  | .combineTileStart core _ => decide (core < 48)
  | .cutComplete _ => true
  | .cutRestart _ => true
  | .drawBinning _ => true
  | .binningResume _ => true
  | .attributePhaseStart _ _ => true
  | .tileShadingStart _ => true
  | .renderTileStart core _ => decide (core < 48)
  | .fragmentCommit core _ => decide (core < 48)
  | .renderTileEnd core => decide (core < 48)
  | .renderPassComplete _ => true
  | .fenceSignalRegister a f => a.wf && decide (f < 16384)
  | .fencePoisonRegister a f => a.wf && decide (f < 16384)
  | .fenceTimeout w => w.wf
  | .arm a t k => a.wf && decide (t < 16) && decide (k < 64)
  | .disarm a t k => a.wf && decide (t < 16) && decide (k < 64)
  | .bridgeUpdate b => decide (b < 256)
  | .flumeDoorbell a t => a.wf && decide (t < 16)
  | .flumeReplyRead a t => a.wf && decide (t < 16)
  | .abort a t => a.wf && decide (t < 16)
  | .selfReset a t => a.wf && decide (t < 16)
  | .flumeNop r => r.wf
  | .ping r => r.wf
  | .eventMask r => r.wf
  | .rollCallList r => r.wf
  | .tenantRebind r => r.wf
  | .rollCallEnd r => r.wf
  | .tenantCreate r => r.wf
  | .tenantReset r => r.wf
  | .tenantDestroy r => r.wf
  | .contextCreate r => r.wf
  | .contextReset r => r.wf
  | .contextDestroy r => r.wf
  | .contextSetHeaps r => r.wf
  | .contextQuery r => r.wf
  | .contextTlbInvalidate r => r.wf
  | .queueCreate r => r.wf
  | .queueDestroy r => r.wf
  | .watchdogSet r => r.wf
  | .objectCreate r => r.wf
  | .objectFree r => r.wf
  | .objectShare r => r.wf
  | .objectRevoke r => r.wf
  | .objectQuery r => r.wf
  | .fenceCreate r => r.wf
  | .fenceFree r => r.wf
  | .fenceShare r => r.wf
  | .fenceRevoke r => r.wf
  | .fenceBind r => r.wf
  | .fenceUnbind r => r.wf
  | .flumeFenceSignal r => r.wf
  | .flumeFencePoison r => r.wf
  | .fenceQuery r => r.wf
  | .bridgeCreate r => r.wf
  | .bridgeRemove r => r.wf
  | .outputGrant r => r.wf
  | .outputRevoke r => r.wf
  | .layerGrant r => r.wf
  | .layerRevoke r => r.wf
  | .displayQuery r => r.wf
  | .engineGrant r => r.wf
  | .engineRelease r => r.wf
  | .graphLoad r => r.wf
  | .graphRun r => r.wf
  | .graphCancel r => r.wf
  | .graphUnload r => r.wf
  | .composeStart r => r.wf
  | .composeStop r => r.wf
  | .composeServiceFrame n _ => decide (n < 4)
  | .transfer r => r.wf
  | .imageStage r => r.wf
  | .imageQuery r => r.wf
  | .imageActivate r => r.wf
  | .imageCommit r => r.wf
  | .imageRollback r => r.wf
  | .envelopeSet r => r.wf
  | .powerState r => r.wf
  | .debugGrant r => r.wf
  | .activationCopyDone => true
  | .activationWaitExpired => true
  | .switchStart => true
  | .switchEnd => true
  | .healthWindowEnd _ => true
  | .rangerRestart cause => decide (cause < 5)
  | .rangerRestartDone => true
  | .flipSubmit a t => a.wf && decide (t < 16)
  | .flipDeadline n _ => decide (n < 4)
  | .leadWindowOpen n _ => decide (n < 4)
  | .beaconCommit a n => a.wf && decide (n < 4)
  | .beaconPublish n => decide (n < 4)
  | .pixelUnderrun n _ _ => decide (n < 4)
  | .keeperEntry n _ => decide (n < 4)
  | .keeperRelease n => decide (n < 4)
  | .outputEnable a n => a.wf && decide (n < 4)
  | .outputDisable a n => a.wf && decide (n < 4)
  | .modeset a n => a.wf && decide (n < 4)
  | .modesetDone n _ => decide (n < 4)
  | .writebackFrameDone n _ => decide (n < 4)
  | .hpdPlug n _ _ => decide (n < 4)
  | .hpdUnplug n => decide (n < 4)
  | .irqHpd n _ => decide (n < 4)
  | .go a n => a.wf && decide (n < 4)
  | .auxDone n _ _ => decide (n < 4)
  | .chGo a c => a.wf && decide (c < 16)
  | .chipperBlock e => decide (e < 4)
  | .chipperJobComplete c => decide (c < 16)
  | .start a c => a.wf && decide (c < 32)
  | .bzFeed a c => a.wf && decide (c < 32)
  | .bzFeedPart a c => a.wf && decide (c < 32)
  | .escalation core _ => decide (core < 48)
  | .quantumExpiry core _ => decide (core < 48)
  | .saveComplete core => decide (core < 48)
  | .restoreComplete _ => true
  | .queueWatchdog q => decide (q < 1024)
  | .contextWatchdog _ => true
  | .contextResetDone c => decide (c < 256)
  | .contextFreed c => decide (c < 256)
  | .queueFreed q => decide (q < 1024)
  | .tenantFreed t => decide (t < 16)
  | .objectReclaim o => decide (o < 65536)
  | .objectZeroDone o => decide (o < 65536)
  | .fenceReleased f => decide (f < 16384)
  | .linkDown p => decide (p < 3)
  | .linkUp p => decide (p < 3)
  | .rollCallTimeout p => decide (p < 3)
  | .bind p => decide (p < 3)
  | .release p => decide (p < 3)
  | .hostReadTimeout p _ => decide (p < 3)
  | .msixUnmask p v => decide (p < 3) && decide (v < 2048)
  | .droopTrip sensor => decide (sensor < 7)
  | .deepTrip sensor _ => decide (sensor < 7)
  | .droopRecover stand => decide (stand < 6)
  | .governorPeriod _ _ _ => true
  | .idleGateStart unit => decide (unit < 256)
  | .duskAnswer _ agent => agent.wf
  | .duskReask _ agent => agent.wf
  | .duskNoAnswer _ agent => agent.wf
  | .duskCommitDone _ => true
  | .domainPowerUpDone unit => decide (unit < 256)
  | .addressMatch => true
  | .wakeComplete => true
  | .nightLinkGraceExpiry p => decide (p < 3)
  | .envelopeReq a => a.wf
  | .thermalSample _ _ => true
  | .refclkLoss => true
  | .pgLow => true
  | .scrubRead site _ => site.wf
  | .writeLinkPoll channel _ => decide (channel < 16)
  | .retirement _ _ => true
  | .retirePowerOff unit => decide (unit < 256)
  | .coreRetired => true
  | .selfTestStart core => decide (core < 48)
  | .selfTestDone core _ _ => decide (core < 48)
  | .unitIsolation unit => decide (unit < 256)
  | .clear a t => a.wf && decide (t < 16)
  | .scorch _ _ _ _ => true
  | .poisonFence _ _ => true
  | .resetTenant _ _ => true
  | .forceNight _ _ _ => true
  | .releasePads _ _ => true
  | .beaconLock _ _ => true
  | .beaconUnlock _ _ => true
  | .i3cPrivateWrite _ => true
  | .entdaa _ => true
  | .setdasa _ _ => true
  | .setnewda _ => true
  | .rstdaa => true
  | .enec _ => true
  | .disec _ => true
  | .getpid => true
  | .getbcr => true
  | .getdcr => true
  | .getstatus => true
  | .getmrl => true
  | .setmrl n => decide (n < 65536)
  | .getmwl => true
  | .setmwl n => decide (n < 65536)
  | .rstact _ _ => true
  | .ibiRetry _ => true
  | .extest => true
  | .idcode => true
  | .samplePreload => true
  | .clamp => true
  | .highz => true
  | .bypass => true
  | .debugAccessPort _ op => op.wf
  | .deviceReset _ => true
  | .resetRelease b => b.wf
  | .hostReady => true
  | .registerWrite _ _ a _ => a.wf
  | .imageStageDone => true
  | .graphLoadDone _ => true
  | .contextTlbInvalidateDone c _ _ => decide (c < 256)
  | .droopStepDelivery stand => decide (stand < 6)
  | .tripClear sensor _ => decide (sensor < 7)
  | .hdrModeEntry => true
  | .hdrExitPattern => true
  | .undefinedEncoding g => g.wf
  | .badPacket p _ => p.wf
  | .badOpcode r _ => r.wf

end Sys2Proof
end

