-- ==== Sys2Proof/Tests/Slice0.lean ====
section
/-! SUPPORT. Tests of the model on small states: the checks of WellFormed, for each statement states and operands that meet its
hypotheses together, and small results against the spec's worked examples or hand calculation. -/

namespace Sys2Proof.Tests

set_option Elab.async false
open Sys2Proof Sys2Proof.Machine

/-- The state that an issue goes on with, and whether it goes on. -/
def goTo (i : Issue) : State :=
  match i with
  | .go t => t
  | _ => State.reset

def isGo (i : Issue) : Bool :=
  match i with
  | .go _ => true
  | _ => false

theorem goes {i : Issue} (h : isGo i = true) : i = .go (goTo i) := by
  cases i <;> simp_all [isGo, goTo]

/-- A program of eight words at virtual address 0 that declares calls and the tensor array. -/
def prog0 : Prog := { Prog.empty with codeSize := 64, regs := 256, callsFlag := true, tensor := true, scratchKib := 4 }

/-- The last group slot of the last core. -/
def gLast : GroupAt := ⟨47, 63, 0, false⟩

/-- A group of all lanes in the last workgroup slot and the last context, at its second word. -/
def grp0 : Group := { Group.empty with live := true, ctx := 255, wg := 31, active := BitVec.allOnes 32, pc := 8 }

def wg0 : Wg := { Wg.empty with live := true, ctx := 255, cmd := 7, prog := prog0, threads := 32, scratchKib := 4 }

def core0 (x : Group) : Core := { Core.reset with groups := [(63, x)], wgs := [(31, wg0)] }

def ctx0 : Ctx := { Ctx.free with st := .live, tenant := 15 }

/-- A cached line of the program with the words `code` at its second word. -/
def iline (code : List Nat) : ILine := ⟨47, 255, 0, List.replicate 72 0 ++ code.flatMap (leBytes 8), []⟩

/-- A state in which a group of the core is about to issue the words `code`. -/
def stOf (c : Core) (code : List Nat) : State :=
  { State.reset with ctxs := [(255, ctx0)], cores := [(47, c)], mem := { MemSys.reset with icache := [iline code] } }

def st0 (x : Group) (code : List Nat) : State := stOf (core0 x) code

/-- The state of the test group after the fetch of the words `code`. -/
def sent (x : Group) (code : List Nat) : State := goTo (issueCheck (st0 x code) gLast code)

def h0 : Head := ⟨false, 7, false, false⟩
/-- A format R word with every other field 0. -/
def encR (type mod : BitVec 4) (dst a b c : BitVec 8) : EncR := ⟨h0, type, mod, false, 0, 0, 0, false, dst, a, b, c, 0⟩
def encB (target join : BitVec 24) : EncB := ⟨h0, target, join⟩
def encM (type : BitVec 4) (dst base data : BitVec 8) : EncM := ⟨h0, type, 0, 0, 0, false, false, 0, dst, base, data, 0, 0⟩

/-- The state after a command that goes on. -/
def after (c : Instr) (s : State) : State :=
  match exec c s with
  | .next t => t
  | _ => State.reset


/-- What a fallible walk answers, and whether it answers. -/
def exTo {α : Type} (d : α) (r : Except AccFault α) : α :=
  match r with
  | .ok p => p
  | .error _ => d

def isEx {α : Type} (r : Except AccFault α) : Bool :=
  match r with
  | .ok _ => true
  | .error _ => false

theorem exes {α : Type} {d : α} {r : Except AccFault α} (h : isEx r = true) : r = .ok (exTo d r) := by
  cases r <;> simp_all [isEx, exTo]

/-- Memory with bytes from an address on, zero bytes unlisted. -/
def memOf (a : Nat) (bs : List Byte) : Mem :=
  ((List.range bs.length).zip bs).filterMap fun e => if e.2 = 0 then none else some (a + e.1, e.2)


/-- Hypotheses of the format R statements for the word `e` of a class and operation, for the group `x`. -/
def runsHyp (cls op : Nat) (sh : RShape) (ok : Bool) (x : Group) (e : EncR) : Prop :=
  let s1 := sent x (e.code cls op)
  issueCheck (st0 x (e.code cls op)) gLast (e.code cls op) = .go s1 ∧ checkR sh ok e (groupProg s1 gLast) = none
  ∧ badRead (s1.core gLast.core) gLast.slot (readsR sh e) ((s1.group gLast).guard e.h) = false

theorem runsHyp_of {cls op : Nat} {sh : RShape} {ok : Bool} {x : Group} {e : EncR}
    (h : isGo (issueCheck (st0 x (e.code cls op)) gLast (e.code cls op)) = true
    ∧ checkR sh ok e (groupProg (sent x (e.code cls op)) gLast) = none
    ∧ badRead ((sent x (e.code cls op)).core gLast.core) gLast.slot (readsR sh e)
      (((sent x (e.code cls op)).group gLast).guard e.h) = false) : runsHyp cls op sh ok x e :=
  ⟨goes h.1, h.2.1, h.2.2⟩

/-- The same for an operation of the tables. -/
def runsOp (op : ROp) (e : EncR) : Prop := runsHyp op.cls op.op (op.shape e) (op.ok e) grp0 e

/-- 64-bit words with the last register pair as destination; a predicate for isetp. -/
theorem witness_IntegerResults : (∀ op ∈ [opIadd, opIsub, opImul, opImulhi, opImad, opImin, opImax, opAnd, opOr, opXor, opNot, opShl,
    opShr, opPopc, opClz], runsOp op (encR 3 0 254 0 0 0)) ∧ runsOp opIsetp (encR 3 5 7 0 0 0) :=
  ⟨fun op h => runsHyp_of (by revert op; decide +kernel), runsHyp_of (by decide +kernel)⟩

theorem witness_BitFields : ((32 = 32 ∨ 32 = 64) ∧ 2 ^ 32 - 1 < 2 ^ 32) ∧ ((64 = 32 ∨ 64 = 64) ∧ 2 ^ 64 - 1 < 2 ^ 64)
    ∧ runsOp opBfe (encR 3 0 254 0 0 0) ∧ runsOp opBfi (encR 0 0 255 0 0 0) :=
  ⟨by decide, by decide, runsHyp_of (by decide +kernel), runsHyp_of (by decide +kernel)⟩

/-- MOD 0xD: the signs of A and B turned, clamped; and the greatest code of each format for the clamp. -/
theorem witness_FloatResults : (∀ op ∈ [opFadd, opFmul, opFfma, opFmin, opFmax], runsOp op (encR 4 0xD 255 1 2 0))
    ∧ (∀ op ∈ [opHadd2, opHmul2, opHfma2, opHmin2, opHmax2], runsOp op (encR 6 0xD 255 1 2 0))
    ∧ runsOp opFsetp (encR 4 15 7 1 2 0) ∧ runsOp opFrnd (encR 4 3 255 1 0 0)
    ∧ (2 ^ 32 - 1 < 2 ^ Fmt.f32.bits ∧ 2 ^ 16 - 1 < 2 ^ Fmt.f16.bits ∧ 2 ^ 16 - 1 < 2 ^ Fmt.bf16.bits) :=
  ⟨fun op h => runsHyp_of (by revert op; decide +kernel), fun op h => runsHyp_of (by revert op; decide +kernel),
    runsHyp_of (by decide +kernel), runsHyp_of (by decide +kernel), by decide +kernel⟩

theorem witness_CompareConditions : (2 ^ 64 - 1 < 2 ^ 64 ∧ 2 ^ 63 < 2 ^ 64)
    ∧ (15 < 16 ∧ 15 ≠ 6 ∧ 15 ≠ 7 ∧ (Fmt.f32.decode 0x7FC00000).isNan = true)
    ∧ (5 < 16 ∧ 5 ≠ 6 ∧ 5 ≠ 7 ∧ (Fmt.f32.decode 0xFFFFFFFF).isNan = true) := by decide +kernel

theorem witness_ConversionResults : (∀ op ∈ [opRcp, opRsqrt, opSqrt, opExp2, opLog2, opSin, opCos], runsOp op (encR 4 0 255 1 0 0))
    ∧ runsOp opCvt (encR 3 4 254 1 0 3) ∧ runsOp opCvtUnpk (encR 5 0xF 255 1 2 0)
    ∧ (let e := encR 0xB 4 255 1 2 8
      runsHyp 5 1 shPk2 (pk2Ok e) grp0 e)
    ∧ typeFmt 0xF = none ∧ (2 : Nat) ^ (typeInt 0xF).1 ≤ 256 :=
  ⟨fun op h => runsHyp_of (by revert op; decide +kernel), runsHyp_of (by decide +kernel), runsHyp_of (by decide +kernel),
    runsHyp_of (by decide +kernel), by decide +kernel⟩

theorem witness_LaneMoves : runsOp opMov (encR 0 0 255 1 0 0) ∧ runsOp opSel (encR 0 0 255 1 2 7) ∧ runsOp opPlop (encR 0 15 7 6 7 0)
    ∧ (let e := encR 0 3 255 1 2 0
      runsHyp 6 2 shShfl (shflOk e) grp0 e)
    ∧ (let e := { encR 0 2 63 7 0 0 with dk := true }
      runsHyp 6 3 (shVote e) (voteOk e) grp0 e)
    ∧ (let e := encR 0 1 7 7 0 0
      runsHyp 6 3 (shVote e) (voteOk e) grp0 e)
    ∧ (let e := encR 0 0 255 15 0 0
      runsHyp 6 4 shRdsr (rdsrOk e) grp0 e) :=
  ⟨runsHyp_of (by decide +kernel), runsHyp_of (by decide +kernel), runsHyp_of (by decide +kernel), runsHyp_of (by decide +kernel),
    runsHyp_of (by decide +kernel), runsHyp_of (by decide +kernel), runsHyp_of (by decide +kernel)⟩

theorem witness_SpecialRegisters : ((stOf (core0 grp0) []).core 47).wgAt 31 = wg0 ∧ wg0.prog.kind = 0 := by decide +kernel

/-- Half of the lanes hold p0, the stack is full but for two entries, the call stack but for one; register 255 of the last lane
names the last word of the program. -/
def grpB : Group := { grp0 with
  preds := [(0, 0xFFFF)], stack := List.replicate 62 ⟨true, none, 0, 56, 1⟩, calls := List.replicate 15 (0, 0)
  vregs := [(255 * 32 + 31, 56)] }
def hP0 : Head := ⟨false, 0, false, false⟩
def hNone : Head := ⟨true, 7, false, false⟩

/-- What a control instruction finds at its issue. -/
structure AtIssue (op : Nat) (e : EncB) (P : State → Group → Prog → Mask → Prop) : Prop where
  issue : issueCheck (st0 grpB (e.code op)) gLast (e.code op) = .go (sent grpB (e.code op))
  holds : P (st0 grpB (e.code op)) ((sent grpB (e.code op)).group gLast) (groupProg (sent grpB (e.code op)) gLast)
    (((sent grpB (e.code op)).group gLast).guard e.h)

theorem witness_ControlFlow_bra :
    (let e := encB 6 0xFFFFFF
    AtIssue 1 e fun s x p m => (e.h.long = false ∧ e.h.rsv48 = false) ∧ ((56 : Nat) : Int) = x.pc + 8 * e.target.toInt
      ∧ ((0 : Nat) : Int) = x.pc + 8 * e.join.toInt ∧ okTarget s 47 x.ctx p 56 = true ∧ okTarget s 47 x.ctx p 0 = true ∧ m = x.active)
    ∧ (AtIssue 1 { encB 6 0xFFFFFF with h := hNone } fun _ _ _ m => m = 0)
    ∧ (AtIssue 1 { encB 6 0xFFFFFF with h := hP0 } fun _ x _ m => m ≠ x.active ∧ m ≠ 0 ∧ x.stack.length ≤ 62) :=
  ⟨⟨goes (by decide +kernel), by decide +kernel⟩, ⟨goes (by decide +kernel), by decide +kernel⟩,
    ⟨goes (by decide +kernel), by decide +kernel⟩⟩

theorem witness_ControlFlow_brx :
    (let e := encB 0xFF0000 6
    AtIssue 2 e fun s x p m => e.target.toNat = 255 * 2 ^ 16 ∧ 255 < p.regs ∧ ((56 : Nat) : Int) = x.pc + 8 * e.join.toInt
      ∧ okTarget s 47 x.ctx p 56 = true ∧ x.stack.length ≤ 62 ∧ m = x.active ∧ badRead (core0 grpB) 63 [255] m = false
      ∧ ((0x7FFFFFFF : Mask) ≠ 0 ∧ (0x7FFFFFFF : Mask) ≠ x.active
      ∧ (∀ l, l < 32 → inMask (0x7FFFFFFF : Mask) l = (inMask m l && (x.vget 255 l).toNat == 0))
      ∧ (∀ l, l < 32 → inMask m l = true → okTarget s 47 x.ctx p (x.vget 255 l).toNat = true)
      ∧ inMask (0x7FFFFFFF : Mask) (lowLane m) = true)
      ∧ m ≠ 0 ∧ ∀ l, l < 32 → inMask m l = true → (x.vget 1 l).toNat = 0)
    ∧ (let e := { encB 0xFF0000 6 with h := hNone }
      AtIssue 2 e fun _ _ _ m => e.target.toNat % 2 ^ 16 = 0 ∧ m = 0)
    ∧ (AtIssue 2 { encB 0xFF0000 6 with h := hNone } fun _ _ p _ => 0xFF0000 / 2 ^ 16 < p.regs)
    ∧ (AtIssue 2 { encB 0xFF0000 6 with h := hP0 } fun _ x _ m => m ≠ x.active ∧ m ≠ 0 ∧ x.stack.length ≤ 62) :=
  ⟨⟨goes (by decide +kernel), by decide +kernel⟩, ⟨goes (by decide +kernel), by decide +kernel⟩,
    ⟨goes (by decide +kernel), by decide +kernel⟩, ⟨goes (by decide +kernel), by decide +kernel⟩⟩

theorem witness_ControlFlow_stacks :
    (AtIssue 3 (encB 0 0) fun _ x _ _ => (h0.long = false ∧ h0.rsv48 = false) ∧ h0.pred = 7 ∧ h0.pneg = false ∧ grp0.stack = []
      ∧ x.stack = ⟨true, none, 0, 56, 1⟩ :: List.replicate 61 ⟨true, none, 0, 56, 1⟩ ∧ (1 : Mask) &&& ~~~x.exited ≠ 0)
    ∧ (AtIssue 0 (encB 0 0) fun _ _ _ _ => (encB 0 0).target = 0)
    ∧ (AtIssue 4 { encB 0 0 with h := hP0 } fun _ x _ m => x.active &&& ~~~m ≠ 0)
    ∧ (AtIssue 5 (encB 6 0) fun s x p _ => p.callsFlag = true ∧ ((56 : Nat) : Int) = x.pc + 8 * (6 : BitVec 24).toInt
      ∧ okTarget s 47 x.ctx p 56 = true ∧ x.calls.length < 16)
    ∧ (AtIssue 6 (encB 0 0) fun _ _ p _ => p.callsFlag = true ∧ ({ grp0 with calls := [(16, 0)] }).calls = [(16, grp0.stack.length)]) :=
  ⟨⟨goes (by decide +kernel), by decide +kernel⟩, ⟨goes (by decide +kernel), by decide +kernel⟩,
    ⟨goes (by decide +kernel), by decide +kernel⟩, ⟨goes (by decide +kernel), by decide +kernel⟩,
    ⟨goes (by decide +kernel), by decide +kernel⟩⟩

/-- The undefined word has operation 7 of class 0; the branch leaves the program on either side. -/
theorem witness_ControlFaults :
    isGo (issueWith (st0 grpB [2 ^ 50 * 7]) gLast (fun w => !opDefined w) none) = true
    ∧ (AtIssue 1 { encB 0 0 with h := ⟨false, 7, true, false⟩ } fun _ _ _ _ => (⟨false, 7, true, false⟩ : Head).long = true)
    ∧ ({ prog0 with callsFlag := false }).callsFlag = false ∧ (AtIssue 3 { encB 0 0 with h := hP0 } fun _ _ _ _ => hP0.pred ≠ 7)
    ∧ (AtIssue 1 (encB 7 0) fun s x p _ => okTarget s 47 x.ctx p ((x.pc : Int) + 8 * (7 : BitVec 24).toInt).toNat = false
      ∧ ¬ (0 : Int) ≤ x.pc + 8 * (0xFFFFFE : BitVec 24).toInt)
    ∧ ({ prog0 with regs := 255 }).regs ≤ (encB 0xFF0000 6).target.toNat / 2 ^ 16 ∧ 16 ≤ ((0, 0) :: grpB.calls).length ∧ grp0.calls = []
    ∧ ({ grp0 with calls := [(16, 1)] }).calls = [(16, 1)] ∧ 1 ≠ grp0.stack.length :=
  ⟨by decide +kernel, ⟨goes (by decide +kernel), by decide +kernel⟩, rfl, ⟨goes (by decide +kernel), by decide +kernel⟩,
    ⟨goes (by decide +kernel), by decide +kernel⟩, by decide +kernel⟩

theorem witness_FaultStopsContext :
    ((st0 grp0 []).ctx 255).st = .live
    ∧ ({ st0 grp0 [] with ctxs := [(255, { ctx0 with st := .faulted })] }.ctx 255).st = .faulted
    ∧ ({ st0 grp0 [] with ctxs := [(255, { ctx0 with st := .resetting })] }.ctx 255).st = .resetting
    ∧ ({ st0 grp0 [] with ctxs := [(255, { ctx0 with st := .destroying })] }.ctx 255).st = .destroying := by decide +kernel

theorem issuesM_of {s : State} {g : GroupAt} {code : List Nat} {ok : Bool} {regs : List Nat}
    (hd : isGo (issueCheck s g code) = true ∧ ok = true
      ∧ (∀ r ∈ regs, r < (groupProg (goTo (issueCheck s g code)) g).regs)
      ∧ ((goTo (issueCheck s g code)).core g.core).badReg = []) :
    IssuesM s (goTo (issueCheck s g code)) g code ok regs :=
  ⟨goes hd.1, hd.2.1, hd.2.2.1, hd.2.2.2⟩

/-- Pairs of lanes share the words at the top of 4 KiB: register 2 holds 4,092 down to 4,032, register 3 zero. -/
def grpM : Group := { grp0 with vregs := (List.range 32).map fun l => (2 * 32 + l, BitVec.ofNat 32 (4092 - 4 * (l / 2))) }

/-- The first page of the context is DRAM at its last page, cached, and its last line stands in the L1 and in the system
cache. -/
def stM (code : List Nat) : State :=
  let s := stOf { core0 grpM with l1 := [(511, 0x1FFFFFFF)] } code
  { s with
    boot := { s.boot with dramInstalled := 0x1000000000 }
    mem := { s.mem with tlb := [⟨255, 0, 4096, 0xFFFFFF000, true, true, 9⟩], cache := [⟨0x1FFFFFFF, 0, false⟩] } }

def goM (code : List Nat) : State := goTo (issueCheck (stM code) gLast code)

def encAtom (type : BitVec 4) (aop : BitVec 4) : EncM := { encM type 12 2 10 with aop := aop }

/-- Every acting lane's access of the last core's group is aligned and in the scratch. -/
abbrev scratchFits (s1 : State) (e : EncM) : Prop :=
  let x := s1.group gLast
  let c := s1.core gLast.core
  c.tq = [] ∧ c.requeue = [] ∧ c.badTile = []
  ∧ ∀ l, l < 32 → inMask (x.guard h0) l = true →
    laneScratch e x l % 4 = 0 ∧ laneScratch e x l + 4 ≤ (c.wgAt x.wg).scratchKib * 1024

theorem witness_ScratchMemory : memBytes 0 = some 4
    ∧ (let e := encM 0 255 2 0
      IssuesM (stM (e.code 8 0)) (goM (e.code 8 0)) gLast (e.code 8 0) (ldsOk e) (e.base.toNat :: memRegs 255 4 (memCount e))
      ∧ scratchFits (goM (e.code 8 0)) e)
    ∧ (let e := encM 0 0 2 255
      IssuesM (stM (e.code 8 1)) (goM (e.code 8 1)) gLast (e.code 8 1) (stsOk e) (e.base.toNat :: memRegs 255 4 (memCount e))
      ∧ scratchFits (goM (e.code 8 1)) e)
    ∧ (let e := encAtom 0 6
      IssuesM (stM (e.code 8 2)) (goM (e.code 8 2)) gLast (e.code 8 2) (atomsOk e) ([2, 10, 12]) ∧ scratchFits (goM (e.code 8 2)) e) := by
  refine ⟨rfl, ⟨issuesM_of ?_, ?_⟩, ⟨issuesM_of ?_, ?_⟩, issuesM_of ?_, ?_⟩ <;> decide +kernel

theorem witness_MemoryLoads :
    let e : EncM := { encM 0 255 2 0 with order := 1 }
    let s1 := goM (e.code 7 0)
    let x := s1.group gLast
    let r := resolve s1 255 (laneVa e x) 4 false (lanesOf (x.guard h0))
    let s2 := (exTo ([], s1) r).2
    IssuesM (stM (e.code 7 0)) s1 gLast (e.code 7 0) (ldOk e) (baseRegs e ++ memRegs 255 4 (memCount e))
    ∧ r = .ok ((exTo ([], s1) r).1, s2) ∧ (exTo ([], s1) r).1.length = 32
    ∧ e.order ≠ 0 ∧ (∀ p ∈ (s2.core gLast.core).stores, p.gid = x.gid → x.guard h0 &&& p.lanes = 0)
    ∧ ∀ p ∈ (exTo ([], s1) r).1, pendOverlap (s2.core gLast.core) x.gid p.1 p.2.pa 4 = false ∧ poisonedWord s2 p.2.pa 4 = none
      ∧ (p.2.host = false ∨ p.2.cached = true → (s2.core gLast.core).l1Has (p.2.pa / 128) = true) := by
  refine ⟨issuesM_of ?_, exes (d := ([], goM (({ encM 0 255 2 0 with order := 1 } : EncM).code 7 0))) ?_, ?_⟩ <;> decide +kernel

/-- Stores that arrive in DRAM, at the last bytes of the last port's window cached and not, and fills, one dropped. -/
def storeAt (pa : Nat) (cached : Bool) : PendStore := ⟨7, 63, 1#32 <<< 31, pa, [1, 2, 3, 4], cached⟩
def stAck : State :=
  { State.reset with
    cores := [(47, { core0 grp0 with
      stores := [storeAt 0xFFFFFFFFC true, storeAt 0xAFFFFFFFF8 true, storeAt 0xAFFFFFFFFC false]
      demand := [(3, ⟨7, true⟩)], prefetch := [(0, ⟨8, false⟩)] })]
    mem := { MemSys.reset with
      cache := [⟨0x1FFFFFFF, 0, false⟩, ⟨0x15FFFFFFF, 0, true⟩]
      lines := [(0x15FFFFFFF, ⟨List.replicate 128 0, true⟩)] } }

theorem stateOk_mem {s : State} (hd : s.mem.dram.wf = true) (hh : s.mem.host = []) (hf : s.flash.wf = true) (hc : s.counters = []) :
    StateOk s := by
  refine ⟨hd, fun p => ?_, hf, fun k => ?_⟩
  · rw [hh]; rfl
  · rw [hc]; exact Nat.zero_le _

theorem witness_MemoryStores :
    (let e : EncM := { encM 0 0 2 255 with order := 2 }
    let s1 := goM (e.code 7 1)
    let x := s1.group gLast
    let m := x.guard h0 &&& ~~~x.helpers
    let r := resolve s1 255 (laneVa e x) 4 true (lanesOf m)
    IssuesM (stM (e.code 7 1)) s1 gLast (e.code 7 1) (stOk e) (baseRegs e ++ memRegs 255 4 (memCount e))
    ∧ r = .ok ((exTo ([], s1) r).1, (exTo ([], s1) r).2)
    ∧ ∀ p ∈ ((exTo ([], s1) r).2.core gLast.core).stores, p.gid = x.gid → m &&& p.lanes = 0)
    ∧ StateOk stAck
    ∧ (let c := stAck.core 47
      (c.stores[0]? = some (storeAt 0xFFFFFFFFC true) ∧ storeReady c 0 = true ∧ paKind 0xFFFFFFFFC = .dram
        ∧ ∃ e ∈ stAck.mem.cache, e.line = 0xFFFFFFFFC / 128)
      ∧ (c.stores[1]? = some (storeAt 0xAFFFFFFFF8 true) ∧ storeReady c 1 = true ∧ paKind 0xAFFFFFFFF8 = .host 2 0xFFFFFFFF8
        ∧ (∃ e ∈ stAck.mem.cache, e.line = 0xAFFFFFFFF8 / 128)
        ∧ tget? stAck.mem.lines (0xAFFFFFFFF8 / 128) = some ⟨List.replicate 128 0, true⟩)
      ∧ (c.stores[2]? = some (storeAt 0xAFFFFFFFFC false) ∧ storeReady c 2 = true ∧ paKind 0xAFFFFFFFFC = .host 2 0xFFFFFFFFC
        ∧ (stAck.port 2).lost = false)
      ∧ tget? c.demand 3 = some ⟨7, true⟩ ∧ tget? c.prefetch 0 = some ⟨8, false⟩) := by
  refine ⟨⟨issuesM_of ?_, exes (d := ([], goM (({ encM 0 0 2 255 with order := 2 } : EncM).code 7 1))) ?_, ?_⟩,
    stateOk_mem ?_ rfl rfl rfl, ?_⟩ <;> decide +kernel

theorem witness_MemoryAtomics :
    let e : EncM := { encAtom 0 6 with order := 3 }
    let s1 := goM (e.code 9 0)
    let x := s1.group gLast
    let m := x.guard h0 &&& ~~~x.helpers
    let r := resolve s1 255 (laneVa e x) 4 true (lanesOf m)
    let s2 := (exTo ([], s1) r).2
    let c := s2.core gLast.core
    StateOk (stM (e.code 9 0)) ∧ IssuesM (stM (e.code 9 0)) s1 gLast (e.code 9 0) (atomOk e) [2, 3, 10, 12]
    ∧ r = .ok ((exTo ([], s1) r).1, s2)
    ∧ (e.order ≠ 0 ∧ ∀ p ∈ c.stores, p.gid = x.gid → m &&& p.lanes = 0)
    ∧ (∀ p ∈ (exTo ([], s1) r).1, paKind p.2.pa = .dram ∧ poisonedWord s2 p.2.pa 4 = none ∧ pendOverlap c x.gid p.1 p.2.pa 4 = false
      ∧ ∀ q ∈ (exTo ([], s1) r).1, q.2.pa = p.2.pa ∨ q.2.pa + 4 ≤ p.2.pa ∨ p.2.pa + 4 ≤ q.2.pa)
    ∧ ∀ p ∈ (exTo ([], s1) r).1, ∃ e ∈ s2.mem.cache, e.line = p.2.pa / 128 := by
  refine ⟨stateOk_mem ?_ rfl rfl rfl, issuesM_of ?_, exes (d := ([], goM (({ encAtom 0 6 with order := 3 } : EncM).code 9 0))) ?_, ?_⟩
    <;> decide +kernel
/-- The last barrier, 7, and fence instructions on the last fence. -/
def encX (dst a b c : BitVec 8) : EncX := ⟨h0, 0, 0, 0, dst, a, b, c⟩

/-- A second group of the workgroup in slot 0. -/
def stTwo : State := stOf { core0 grp0 with groups := [(0, grp0), (63, grp0)] } ((encX 0 0 0 7).code 0)
def goTwo : State := goTo (issueCheck stTwo gLast ((encX 0 0 0 7).code 0))

theorem witness_Barriers :
    issueCheck stTwo gLast ((encX 0 0 0 7).code 0) = .go goTwo
    ∧ issueCheck (st0 grp0 ((encX 0 0 0 7).code 0)) gLast ((encX 0 0 0 7).code 0) = .go (sent grp0 ((encX 0 0 0 7).code 0))
    ∧ barOk (encX 0 0 0 7) = true ∧ (7 : BitVec 8).toNat < 8
    ∧ (let x := goTwo.group gLast
      let c := goTwo.core gLast.core
      (∀ p ∈ c.stores, p.gid = x.gid → x.active &&& p.lanes = 0) ∧ x.stack = [] ∧ x.alive ≠ 0
      ∧ 0 ∈ c.slotsOf x.wg ∧ 0 ≠ gLast.slot ∧ (c.group 0).alive ≠ 0
      ∧ ∀ k ∈ (c.group 0).stack, ∀ q, k.blocked = some q → k.mask &&& (c.group 0).alive = 0)
    ∧ (let s1 := sent grp0 ((encX 0 0 0 7).code 0)
      let x := s1.group gLast
      let c := s1.core gLast.core
      (∀ p ∈ c.stores, p.gid = x.gid → x.active &&& p.lanes = 0) ∧ x.stack = [] ∧ x.alive ≠ 0
      ∧ c.slotsOf x.wg = [gLast.slot] ∧ x.active = x.alive ∧ c.tq = [] ∧ c.requeue = []) :=
  ⟨goes (by decide +kernel), goes (by decide +kernel), by decide +kernel, by decide, ⟨by decide +kernel, by decide +kernel,
    by decide +kernel, by decide +kernel, by decide, by decide +kernel, fun k hk => by revert k; decide +kernel⟩, by decide +kernel⟩

def stStrand : State := st0 { grp0 with active := 0, stack := [⟨false, some 7, 0, 16, 1⟩] } []

theorem witness_Barriers_stranded :
    (let c := stStrand.core 47
    let w := c.wgAt 31
    w.live = true ∧ (stStrand.ctx w.ctx).st = .live ∧ c.saving = []
    ∧ (c.slotsOf 31).find? (fun j => (c.group j).blockedLanes != 0) = some 63 ∧ ∀ j ∈ c.slotsOf 31, (c.group j).wait = .none)
    ∧ ((st0 { grp0 with async := true } []).group (slotAt 47 63)).async = true
    ∧ groupReady (st0 { grp0 with async := true } []) (slotAt 47 63) = true
    ∧ bulkWaits { State.reset with sched := { Sched.reset with copying := some 7 } } 12 = true := by decide +kernel

/-- Fence 16383 bound to the context with `right`; u0 holds its number, u2 a target of 5, u4 a limit of 0. -/
def stFence (right : Nat) (v : DWord) (code : List Nat) : State :=
  { st0 { grp0 with uregs := [(0, 16383), (2, 5)] } code with
    fences := [(16383, { Fence.reset with st := .live, value := v, binds := [(255, right)] })] }
/-- The fence instruction `op` with the word `e` issues, with the state `s1` after its fetch. -/
abbrev fenceIssues (right : Nat) (v : DWord) (op : Nat) (e : EncX) (P : State → Group → Prop) : Prop :=
  let s1 := goTo (issueCheck (stFence right v (e.code op)) gLast (e.code op))
  isGo (issueCheck (stFence right v (e.code op)) gLast (e.code op)) = true ∧ P s1 (s1.group gLast)

theorem witness_FenceInstructions :
    (fenceIssues 2 4 1 (encX 0 0 0 0) fun s1 x => membarOk (encX 0 0 0 0) = true ∧ ∀ p ∈ (s1.core 47).stores, p.gid = x.gid →
      x.active &&& p.lanes = 0)
    ∧ (fenceIssues 2 4 2 (encX 0 0 2 0) fun s1 x => fsigOk (encX 0 0 2 0) = true ∧ x.guard h0 ≠ 0 ∧ (x.uget 0).toNat = 16383
      ∧ 16383 < 16384 ∧ (s1.fence 16383).st ≠ .free ∧ tget (s1.fence 16383).binds x.ctx 0 = 2)
    ∧ (fenceIssues 1 4 2 (encX 0 0 2 0) fun s1 x => tget (s1.fence 16383).binds x.ctx 0 ≠ 2)
    ∧ (fenceIssues 1 4 4 (encX 62 0 0 0) fun s1 x => freadOk (encX 62 0 0 0) = true ∧ tget (s1.fence 16383).binds x.ctx 0 = 1)
    ∧ (fenceIssues 1 4 3 (encX 63 0 2 4) fun s1 _ => fwaitOk (encX 63 0 2 4) = true ∧ (s1.fence 16383).flag = false
      ∧ (s1.fence 16383).reached 5 = false)
    ∧ (fenceIssues 1 5 3 (encX 63 0 2 4) fun s1 _ => (s1.fence 16383).flag = false ∧ (s1.fence 16383).reached 5 = true) := by
  refine ⟨?_, ?_, ?_, ?_, ?_, ?_⟩ <;> decide +kernel

theorem witness_FenceInstructions_timeout :
    (let s := { stFence 2 4 [] with
      timer := 9, cores := [(47, core0 { grp0 with wait := .fence 16383 5 (some 9) 63 })]
      queues := [(1023, { Queue.free with ctx := 255, wait := some ⟨16383, 5, some 9, 7⟩ })] }
    (s.group gLast).live = true ∧ (s.group gLast).wait = .fence 16383 5 (some 9) 63 ∧ 9 ≤ s.timer
    ∧ (s.fence 16383).flag = false ∧ (s.fence 16383).reached 5 = false
    ∧ (s.queue 1023).wait = some ⟨16383, 5, some 9, 7⟩ ∧ (s.ctx (waitFault s 1023 ⟨16383, 5, some 9, 7⟩ 5 1).ctx).st = .live) := by decide +kernel

/-- Values around the terminal one, and heritage steps of 0, 2^31 - 1 and 2^31. -/
theorem witness_SignalRule :
    let s := fun (st : FenceSt) (hr : Bool) (v : DWord) =>
      { State.reset with fences := [(16383, { Fence.reset with st := st, heritage := hr, value := v })] }
    let d := fun (v w : DWord) => (v.toNat % 2 ^ 32 + 2 ^ 32 - w.toNat % 2 ^ 32) % 2 ^ 32
    (State.reset.fence 16383).st = .free
    ∧ (let f := (s .live false 0xFFFFFFFFFFFFFFFE).fence 16383
      f.st ≠ .free ∧ f.heritage = false ∧ f.value < 0xFFFFFFFFFFFFFFFF ∧ (0xFFFFFFFFFFFFFFFE : DWord) = f.value
      ∧ (0xFFFFFFFFFFFFFFFD : DWord) < f.value ∧ f.st = .live)
    ∧ (let f := (s .poisoned true 0xFFFFFFFF).fence 16383
      f.st ≠ .free ∧ f.heritage = true ∧ f.flag = false ∧ d 0xFFFFFFFF f.value = 0
      ∧ d 0x7FFFFFFE f.value = 2 ^ 31 - 1 ∧ d 0x7FFFFFFF f.value = 2 ^ 31 ∧ f.st ≠ .live) := by decide +kernel

/-- A one-texel texture of format 1 described at virtual address 0 of `stM`, fetched by all lanes. -/
def encTex : EncS := ⟨h0, 1, 4, 15, true, 6, 252, 20, 0, 63, 0⟩
def texBytes : List Byte := [0, 0, 0, 0, 0, 0, 0, 0, 1, 0, 1, 0, 1, 0, 1, 1, 1, 0, 0, 0, 0, 0, 0, 0, 0, 0, 0, 0, 0, 0, 0, 0]
def stTex : State := { stM encTex.code with
  mem := { (stM encTex.code).mem with dram := memOf 0xFFFFFF000 texBytes }, ctxs := [(255, { ctx0 with texCount := 1 })] }
def goTex : State := goTo (issueCheck stTex gLast encTex.code)
def texAt : TexDesc × SampDesc × State := exTo (.ofBytes [], .none, goTex) (texDescs goTex 255 encTex 0)

theorem witness_TextureAndTileData_tex :
    IssuesM stTex goTex gLast encTex.code (texOk encTex (groupProg stTex gLast)) [20, 21, 22, 252, 253, 254, 255]
    ∧ texDescs goTex 255 encTex 0 = .ok (texAt.1, texAt.2.1, texAt.2.2)
    ∧ texLanes texAt.2.2 (goTex.group gLast) encTex texAt.1 texAt.2.1 (lanesOf ((goTex.group gLast).guard h0))
      = .ok ((exTo ([], goTex) (texLanes texAt.2.2 (goTex.group gLast) encTex texAt.1 texAt.2.1 (lanesOf ((goTex.group gLast).guard h0)))).1,
        (exTo ([], goTex) (texLanes texAt.2.2 (goTex.group gLast) encTex texAt.1 texAt.2.1 (lanesOf ((goTex.group gLast).guard h0)))).2)
    ∧ (texNExtra encTex texAt.2.1.compares = 0 ∧ encTex.extra = 0) ∧ (goTex.group gLast).guard h0 ≠ 0
    ∧ (goTex.core 47).stores = [] ∧ (grp0.guard ⟨true, 7, false, false⟩ = 0) ∧ texNCoord encTex = 3 ∧ texNDst encTex = 4 := by
  refine ⟨⟨goes ?_, ?_, ?_, ?_⟩, exes (d := (.ofBytes [], .none, goTex)) ?_, exes (d := ([], goTex)) ?_, ?_⟩ <;> decide +kernel

/-- A fragment program in the middle of a tile with one colour target of 4 samples and an attribute. -/
def progF : Prog := { prog0 with kind := 3 }
def att0 : Attach := ⟨0, 0, 0, 0, 0, 0, 1, 0, 0, 0, []⟩
def pass0 : RenderPass :=
  ⟨0, ⟨0, 0, 4, 32, 32, 0, 0, 0, [], [], []⟩, [att0], [{ noDraw with attrCount := 1 }], [], [], 0, 0, 0, [], 0, 0, [], [], [], [], [], 0, false,
    0, [], true, []⟩
def run0 : RasterRun := ⟨9, 0, [], [], [⟨6, 1, 1, 1, none, false, none⟩]⟩
def stFrag (code : List Nat) : State :=
  let s := stOf { core0 { grp0 with frags := [(31, ⟨1, 1, 5, 1, false⟩)], vregs := [(20 * 32 + 31, 3)] } with
    wgs := [(31, { wg0 with prog := progF })], raster := some run0 } code
  { s with renders := [(9, pass0)] }
def goFrag (code : List Nat) : State := goTo (issueCheck (stFrag code) gLast code)
def encTld : EncR := encR 4 0 252 0 20 0
def encTst : EncR := encR 4 0 0 252 0 0

theorem witness_TextureAndTileData_frag :
    (let s1 := goFrag (encTld.code 0xD 0)
    let x := s1.group gLast
    let p := groupProg s1 gLast
    issueCheck (stFrag (encTld.code 0xD 0)) gLast (encTld.code 0xD 0) = .go s1
    ∧ (tileOf s1 gLast = some (run0, pass0) ∧ (s1.core 47).badReg = [] ∧ (s1.core 47).badTile = [])
    ∧ checkR (shTld encTld) (tldOk encTld p) encTld p = none ∧ 252 + tileComps 0 ≤ p.regs
    ∧ (∀ l, l < 32 → inMask (x.guard h0) l = true →
      badTileRef pass0 ((s1.core 47).wgAt x.wg).idY 0 (valB (shTld encTld) encTld x l) = false)
    ∧ ∀ l, l < 32 → ∀ f ∈ tget? x.frags l, earlierPending run0 f.x f.y f.prim = false)
    ∧ (let s1 := goFrag (encTst.code 0xD 1)
      let x := s1.group gLast
      let p := groupProg s1 gLast
      issueCheck (stFrag (encTst.code 0xD 1)) gLast (encTst.code 0xD 1) = .go s1 ∧ tileOf s1 gLast = some (run0, pass0)
      ∧ checkR (shTst encTst) (tstOk encTst p) encTst p = none ∧ encTst.ka = 0 ∧ tstRaw encTst = false ∧ 252 + tileComps 0 ≤ p.regs
      ∧ ∀ l, l < 32 → inMask (x.guard h0 &&& ~~~x.helpers) l = true →
        badTileRef pass0 ((s1.core 47).wgAt x.wg).idY 0 (valB (shTst encTst) encTst x l) = false) := by
  refine ⟨⟨goes ?_, ?_⟩, goes ?_, ?_⟩ <;> decide +kernel

/-- A in the group's scratch, C in the upper part of the reservation past a DOUBLE slab, B at the end of the weight buffer. -/
def encT (afmt bfmt : BitVec 4) (a b c k : BitVec 8) : EncT := ⟨h0, afmt, bfmt, 0, false, 0, 0, a, b, c, k⟩
def coreT : Core := { core0 { grp0 with uregs := [(0, 2 ^ 19), (2, 4096), (4, 32), (6, 65536 - 2048), (8, 2048)] } with
  holder := some 7, reserved := 8192, doubles := [(0, 1024)] }
def stT (code : List Nat) : State :=
  let s := stOf coreT code
  { s with
    boot := { s.boot with dramInstalled := 0x1000000000 }
    mem := { s.mem with tlb := [⟨255, 0x80000, 4096, 0xFFFFFF000, false, true, 9⟩] } }
def goT (code : List Nat) : State := goTo (issueCheck (stT code) gLast code)
/-- The value of a uniform register that names a tensor operand. -/
abbrev uT (s : State) (r : Nat) : Nat := ((s.group gLast).uget r).toNat
/-- `n` bytes at `a` lie inside the region of tile memory that `a` names. -/
abbrev insideT (s : State) (a n : Nat) : Prop :=
  let c := s.core gLast.core
  let x := s.group gLast
  a < 2 ^ 20 ∧ a % 128 = 0 ∧
    (if a < 2 ^ 19 then c.holder = some (c.wgAt x.wg).cmd ∧ a + n ≤ c.reserved
        ∧ (∀ d ∈ c.doubles, a + n ≤ d.1 + d.2 ∨ d.1 + 2 * d.2 ≤ a)
      else a - 2 ^ 19 + n ≤ (c.wgAt x.wg).scratchKib * 1024 ∧ a + n ≤ 2 ^ 20)
/-- A tensor instruction of operation `op` issues at a tensor program with room in the queue. -/
abbrev tensorIssues (op : Nat) (e : EncT) (P : State → Prop) : Prop :=
  let s1 := goT (e.code op)
  let c := s1.core gLast.core
  isGo (issueCheck (stT (e.code op)) gLast (e.code op)) = true ∧ (groupProg s1 gLast).tensor = true
    ∧ (s1.group gLast).guard h0 ≠ 0 ∧ c.requeue = [] ∧ c.tq.length < 16 ∧ c.badTile = [] ∧ c.badWeight = [] ∧ P s1

def tq0 (slot : Nat) (op : TensorOp) : TqEntry := ⟨slot, 63 - slot, 8, 31, 255, 0, op, true, []⟩

theorem witness_TensorWork :
    (tensorIssues 0 (encT 1 1 0 6 2 4) fun s => tmmaOk (encT 1 1 0 6 2 4) = true ∧ uT s 4 ≠ 0 ∧ uT s 4 % 32 = 0
      ∧ uT s 6 + tfBytes 1 0 32 (uT s 4) ≤ 65536 ∧ insideT s (uT s 0) (tfBytes 1 0 32 (uT s 4)) ∧ insideT s (uT s 2) 4096)
    ∧ (tensorIssues 2 (encT 1 0 0 0 2 0) fun s => tcvtOk (encT 1 0 0 0 2 0) = true ∧ insideT s (uT s 0) (tfBytes 1 0 32 32))
    ∧ (tensorIssues 1 (encT 0 0 0 6 8 0) fun s => twldOk (encT 0 0 0 6 8 0) = true ∧ uT s 6 % 128 = 0 ∧ uT s 8 % 128 = 0 ∧ 128 ≤ uT s 8
      ∧ uT s 6 + uT s 8 ≤ 65536
      ∧ isEx (pieces 18 s 255 ((s.group gLast).uget64 0) (uT s 8)) = true
      ∧ piecesPoison (exTo ([], s) (pieces 18 s 255 ((s.group gLast).uget64 0) (uT s 8))).2 ((s.group gLast).uget64 0)
        (exTo ([], s) (pieces 18 s 255 ((s.group gLast).uget64 0) (uT s 8))).1 = none
      ∧ (s.core 47).tq = []
      ∧ tensorClash (tq0 63 (.tmma 1 1 0 0 true 0x80000 63488 4096 32)) (tq0 63 (.twld 0 0 128 [])) = false
      ∧ tensorClash (tq0 63 (.tmma 1 1 0 0 true 0x80000 63488 4096 32)) (tq0 63 (.twld 0 63488 128 [])) = true)
    ∧ (tensorIssues 3 (encT 0 0 0 0 0 15) fun s => tsyncOk (encT 0 0 0 0 0 15) = true
      ∧ ((s.core 47).tq.filter fun t => t.gid == (s.group gLast).gid).length ≤ 15)
    ∧ grp0.guard ⟨true, 7, false, false⟩ = 0 := by
  refine ⟨?_, ?_, ?_, ?_, ?_⟩ <;> decide +kernel

def stTq (code : List Nat) : State := { stT code with cores := [(47, { coreT with tq := [
  tq0 63 (.tmma 1 1 0 0 true 0x80000 63488 4096 32), tq0 0 (.twld 0x80000 0 2048 [(0xFFFFFF000, 2048, true)])] }),
  (0, { coreT with tq := [tq0 63 (.tcvt 1 0 0x80000 4096)] })] }

theorem witness_TensorWork_complete :
    (let s := stTq []
    let c := s.core 47
    (c.requeue = [] ∧ c.odd = false ∧ s.sched.preempts = [])
    ∧ (tensorEcc c (tq0 63 (.tmma 1 1 0 0 true 0x80000 63488 4096 32)) = none
      ∧ c.tq[0]? = some (tq0 63 (.tmma 1 1 0 0 true 0x80000 63488 4096 32))
      ∧ tensorMay s 47 0 (tq0 63 (.tmma 1 1 0 0 true 0x80000 63488 4096 32)) true = true)
    ∧ (c.tq[1]? = some (tq0 0 (.twld 0x80000 0 2048 [(0xFFFFFF000, 2048, true)]))
      ∧ tensorMay s 47 1 (tq0 0 (.twld 0x80000 0 2048 [(0xFFFFFF000, 2048, true)])) false = true
      ∧ piecesPoison s 0x80000 [(0xFFFFFF000, 2048, true)] = none ∧ 0xFFFFFF000 + 2048 ≤ 0x1000000000)
    ∧ (tensorEcc (s.core 0) (tq0 63 (.tcvt 1 0 0x80000 4096)) = none ∧ (s.core 0).tq[0]? = some (tq0 63 (.tcvt 1 0 0x80000 4096))
      ∧ tensorMay s 0 0 (tq0 63 (.tcvt 1 0 0x80000 4096)) true = true)) := by decide +kernel

/-- tsync with N = 0 while an instruction of the group is outstanding. -/
theorem witness_TensorWork_tsync :
    let code := (encT 0 0 0 0 0 0).code 3
    let s1 := goTo (issueCheck (stTq code) gLast code)
    issueCheck (stTq code) gLast code = .go s1 ∧ (groupProg s1 gLast).tensor = true ∧ (s1.group gLast).guard h0 ≠ 0
    ∧ (encT 0 0 0 0 0 0).k.toNat < ((s1.core 47).tq.filter fun t => t.gid == (s1.group gLast).gid).length := by
  refine ⟨goes ?_, ?_⟩ <;> decide +kernel
/-- A running device: port 2 up with its window, tenant 15 there, context 255, queue 1023 at door 511 with a ring of 256 units that
holds 20 of them from unit 236 on, fence 16383 bound for signals, and a page of the context in DRAM with a program header. -/
def acc0 : Access := ⟨2, 65535, none, 0xFF, 0⟩
def hdrBytes : List Byte :=
  [0x48, 0x50, 0x39, 0x4E, 1, 1, 0, 1, 0, 1, 48, 0, 4, 0, 0, 0, 0, 4, 1, 0, 1, 0, 0, 0, 64, 0, 0, 0, 56, 0, 0, 0] ++ List.replicate 32 0
def queue0 : Queue := { Queue.free with
  st := .live, ctx := 255, door := 511, ringObj := 4095, ringGen := 3, repObj := 4095, repGen := 3, repOff := 4096, read := 236, last := 256 }
def stD : State := { State.reset with
  ranger := { Ranger.reset with st := .run }
  ports := [(2, { Port.reset with st := .ready, busMaster := true, winLo := 1 })]
  tenants := [(15, { Tenant.free with st := .live, port := 2, rid := 65535 })]
  ctxs := [(255, ctx0)]
  queues := [(1023, queue0)]
  objs := [(4095, { Obj.reset with st := .live, gen := 3, base := 0xFFFFF0000, size := 65536, owner := 15 }),
    (4094, { Obj.reset with st := .live, gen := 1, base := 0x10000, size := 65536, owner := 14, shares := [(15, 1)] })]
  fences := [(16383, { Fence.reset with st := .live, value := 4, binds := [(255, 2)] })]
  boot := { Boot.reset with dramInstalled := 0x1000000000 }
  mem := { MemSys.reset with
    dram := memOf 0xFFFFFF000 hdrBytes, icache := [iline []], tlb := [⟨255, 0x1000, 4096, 0xFFFFFF000, true, true, 9⟩] }
  maps := ⟨2 ^ 47, 2 ^ 47, 6⟩
  power := { Power.reset with on := [0x2F, 0x5F] } }

def pkt (n : BitVec 8) (body : List Byte) : Pkt := ⟨1023, n, 0, 77, body⟩
def bytesOf (fs : List (Nat × Nat)) : List Byte := fs.flatMap fun f => leBytes f.1 f.2

theorem stateOk_D : StateOk stD := by
  refine stateOk_mem ?_ rfl rfl rfl
  decide +kernel

theorem fetches_of {s : State} {p : Pkt} {min : Nat} {implied : Bool} (h : fetchReady s p.q = true ∧ headerOk s p min = true
    ∧ packetPoison s p = none ∧ (implied = true ∨ p.flags.getLsbD 0 = true → ∀ e ∈ s.cmds, e.2.queue ≠ p.q)) : Fetches s p min implied :=
  ⟨h.1, h.2.1, h.2.2.1, h.2.2.2⟩

/-- The index moves by one, by 2^31 - 1 past the ring, and not at all; a write of three bytes; a door with no queue. -/
theorem witness_QueueDoorbells :
    (let a : Access := { acc0 with data := 257 }
    accUp stD a = true ∧ accTenant stD a = some 15 ∧ doorQueue stD 15 511 = some 1023 ∧ doorQueue stD 15 510 = none
    ∧ (∀ i, i < 4 → a.be.getLsbD i = true) ∧ (stD.queue 1023).service = false
    ∧ (let x := stD.queue 1023
      let ahead := fun w : Nat => (w + 2 ^ 32 - x.last) % 2 ^ 32
      let held := fun w : Nat => (w + 2 ^ 32 - x.read) % 2 ^ 32
      256 = x.last ∧ 2 ^ 31 ≤ ahead (256 + 2 ^ 31) ∧ (257 ≠ x.last ∧ ahead 257 < 2 ^ 31 ∧ held 257 ≤ x.ringBytes / 16)
      ∧ (ahead (255 + 2 ^ 31) < 2 ^ 31 ∧ x.ringBytes / 16 < held (255 + 2 ^ 31)) ∧ held 492 = x.ringBytes / 16
      ∧ objReachable stD x.repObj x.repGen = true ∧ (stD.obj x.repObj).base + x.repOff + 16 ≤ 0x1000000000))
    ∧ (∃ k, k < 4 ∧ ({ acc0 with be := 0xF7 }).be.getLsbD k = false) ∧ StateOk stD :=
  ⟨by decide +kernel, ⟨3, by decide⟩, stateOk_D⟩

/-- The packet fills the ring to its end. -/
theorem witness_FrontEndPackets :
    Fetches stD (pkt 20 []) 1 false ∧ Fetches stD (pkt 20 []) 2 true
    ∧ (let s := { stD with queues := [(1023, { queue0 with repGen := 2 })] }
      Fetches s (pkt 20 []) 2 true ∧ objReachable s (s.queue 1023).repObj (s.queue 1023).repGen = false)
    ∧ (let sig := pkt 20 (bytesOf [(8, 16383), (8, 5)])
      let wt := pkt 20 (bytesOf [(4, 16383), (4, 1), (8, 5)])
      fencePktOk sig false = true ∧ fencePktOk wt true = true ∧ pField wt 8 2 = 16383 ∧ pField wt 16 8 = 5
      ∧ (stD.fence 16383).st ≠ .free ∧ tget (stD.fence 16383).binds 255 0 = 2 ∧ (stD.fence 16383).flag = false
      ∧ (∀ e ∈ stD.queues, ∀ w ∈ e.2.wait, w.fence = 16383 → (stD.fence 16383).reached w.target = false)
      ∧ (stD.fence 16383).reached 5 = false ∧ (stD.fence 16383).reached 4 = true ∧ (stD.queue 1023).wait = none
      ∧ tget? stD.cmds stD.nextCmd = none)
    ∧ rangePktOk (pkt 20 (bytesOf [(8, 0x1000), (8, 4096)])) 128 = true
    ∧ rangePktOk (pkt 20 (bytesOf [(8, 0x1000), (8, 4096)])) 4096 = true
    ∧ fetchReady stD 1023 = true ∧ (0x0004 : BitVec 16) ∉ [(0x0000 : BitVec 16), 0x0001, 0x0002, 0x0003, 0x0010, 0x0011, 0x0020, 0x0021,
      0x0022, 0x0023, 0x0030, 0x0031, 0x0040, 0x0041] ∧ (256 < 236 % (4096 / 16) + 21) :=
  ⟨fetches_of (by decide +kernel), fetches_of (by decide +kernel), ⟨fetches_of (by decide +kernel), by decide +kernel⟩, by decide +kernel⟩

theorem hdr_of {r : HeaderRes} (P : Prog → State → Bool) (h : (match r with
    | .ok p s => P p s
    | _ => false) = true) : ∃ p s, r = .ok p s ∧ P p s = true := by
  cases r <;> simp_all

def cmd0 (k : CmdKind) : Cmd := { Cmd.base k 1023 255 100 114 77 6 with prog := { prog0 with wgX := 1024, regs := 8 }, gridX := 2 }
def stCmd : State := { stD with cmds := [(7, { cmd0 .dispatch with nextWg := 1 }), (8, { cmd0 .dispatch with nextWg := 2, doneWgs := 2 })] }

theorem witness_Dispatches :
    (let p := pkt 14 (bytesOf [(8, 0x1000), (4, 0x7FFFFFFF), (4, 1), (4, 1), (4, 48)] ++ List.replicate 192 1)
    Fetches stD p (2 + (48 + 3) / 4) false ∧ dispatchOk p = true ∧ pField p 28 1 = 48 ∧ pField p 8 8 = 0x1000)
    ∧ (∃ pr s1, loadHeader stD 255 0x1000 = .ok pr s1 ∧ (pr.kind == 0 && decide (pr.preload ≤ 48) && (noUnit s1 false pr.tensor).isNone) = true)
    ∧ loadHeader stD 255 0x1001 = .bad
    ∧ (let c := { cmd0 .dispatch with nextWg := 1 }
      tget? stCmd.cmds 7 = some c ∧ c.kind = .dispatch ∧ c.nextWg < c.total ∧ (stCmd.ctx c.ctx).st = .live
      ∧ firstBelow 48 (mayTake stCmd 7) = some 47)
    ∧ (let c := { cmd0 .dispatch with nextWg := 2, doneWgs := 2 }
      tget? stCmd.cmds 8 = some c ∧ c.doneWgs = c.total ∧ ∀ e ∈ stCmd.cores, ∀ x ∈ e.2.stores, x.cmd ≠ 8) := by
  refine ⟨⟨fetches_of ?_, ?_⟩, hdr_of (fun p s => p.kind == 0 && decide (p.preload ≤ 48) && (noUnit s false p.tensor).isNone) ?_, rfl, ?_⟩ <;> decide +kernel

/-- Object 4095 is the tenant's own, 4094 is shared to it for reading; a copy to the last word of the one from the other. -/
theorem witness_CopyAndFill :
    (let p := pkt 3 (bytesOf [(2, 4095), (2, 3), (2, 4094), (2, 1), (8, 65532), (8, 65532), (8, 4)])
    Fetches stD p 3 false ∧ copyOk p = true ∧ pField p 8 2 = 4095 ∧ pField p 16 8 = 65532 ∧ pField p 32 8 = 4)
    ∧ (let p := pkt 2 (bytesOf [(2, 4095), (2, 3), (4, 9), (8, 0), (8, 65536)])
      Fetches stD p 2 false ∧ fillOk p = true ∧ pField p 8 2 = 4095 ∧ pField p 24 8 = 65536)
    ∧ (let fits := fun (o gen off n : Nat) (w : Bool) =>
        (stD.obj o).st = .live ∧ (stD.obj o).gen = gen ∧ off + n ≤ (stD.obj o).size ∧ paReachable stD (stD.obj o).base = true
        ∧ (if w then 2 else 1) ≤ objRight (stD.obj o) (stD.ctx 255).tenant
      fits 4095 3 65532 4 true ∧ fits 4094 1 65532 4 false ∧ fits 4095 3 0 65536 true)
    ∧ (let c := { cmd0 .copy with dstObj := 4095, srcObj := 4094, bytes := 65536 }
      let s := { stD with cmds := [(9, c)], sched := { stD.sched with copying := some 9 } }
      StateOk s ∧ tget? s.cmds 9 = some c ∧ s.sched.copying = some 9 ∧ (s.ctx c.ctx).st = .live
      ∧ (s.obj 4095).base + c.dstOff + c.copied + 65536 ≤ 0x1000000000 ∧ c.dstObj ≠ c.srcObj
      ∧ (s.obj 4094).base + c.srcOff + c.copied + 65536 ≤ 0x1000000000 ∧ ({ c with kind := .fill }).kind = .fill ∧ s.mem.poison = []
      ∧ effPrio s c.queue ≠ 8) := by
  refine ⟨⟨fetches_of ?_, ?_⟩, ⟨fetches_of ?_, ?_⟩, ?_, stateOk_D, ?_⟩ <;> decide +kernel

/-- The last unit of every stand, the first of all, and the bounds of the split factor. -/
theorem witness_UnitAssignment :
    (47 ∈ unitOrder (2 ^ 48 - 1) ∧ 0 ∈ unitOrder 1)
    ∧ (46 < 47 ∧ 47 < (unitOrder (2 ^ 48 - 1)).length) ∧ (1 ≤ 48 ∧ 1 ≤ 16 ∧ 48 ≤ 48) ∧ (1 ≤ 1 ∧ 1 ≤ 16 ∧ 1 < 48 ∧ 48 ≤ 48) := by
  decide +kernel

/-- A cut of one output slab that the front end reads at 0x1100: its stage table at 0x1200, its program's header at 0x1000. -/
def cutBytes : List Byte :=
  bytesOf [(4, 0x4E394355), (1, 1), (1, 0), (1, 0), (1, 1), (4, 1048576), (4, 1), (4, 32), (2, 4096), (2, 1), (2, 32), (1, 0), (1, 0),
    (1, 1), (1, 1), (2, 508), (2, 4), (2, 0), (4, 0), (4, 0), (4, 0), (8, 0), (8, 0), (8, 0), (8, 0), (8, 0x1200), (8, 0), (32, 0),
    (8, 0x1F80), (4, 0), (4, 0), (4, 0), (4, 0), (4, 0), (2, 0), (2, 1), (1, 0), (1, 1), (1, 0), (1, 0), (1, 0), (1, 0), (2, 0), (4, 128), (4, 0)]
def stCut : State := { stD with mem := { stD.mem with
  dram := stD.mem.dram ++ memOf 0xFFFFFF100 cutBytes ++ memOf 0xFFFFFF200 (bytesOf [(8, 0x1000)]) } }

theorem found_of {α : Type} {r : Found α} (P : α → State → Bool) (h : (match r with
    | .ok p s => P p s
    | _ => false) = true) : ∃ p s, r = .ok p s ∧ P p s = true := by
  cases r <;> simp_all

theorem found_bad {α : Type} {r : Found α} {v d : Nat} (h : (match r with
    | .bad a b => a == v && b == d
    | _ => false) = true) : r = .bad v d := by
  cases r <;> simp_all

theorem witness_CutCommands :
    (let p := pkt 14 (bytesOf [(8, 0x1100), (1, 48), (15, 0)] ++ List.replicate 192 1)
    Fetches stCut p (2 + (48 + 3) / 4) false ∧ pField p 8 8 = 0x1100 ∧ pField p 16 1 = 48 ∧ pField p 17 15 = 0)
    ∧ (∃ pass s1, loadCut stCut 255 0x1100 = .ok pass s1
      ∧ (decide (pass.preload ≤ 48) && unitOrder (stCut.maps.tensor.toNat &&& (if pass.heritage then 0xFFFF else 2 ^ 48 - 1)) != []
        && unitOrder (0 &&& (if pass.heritage then 0xFFFF else 2 ^ 48 - 1)) == []) = true)
    ∧ (stCut.queue 1023).session = none ∧ loadCut stCut 255 0x1200 = .bad 0x1200 dBadCut := by
  refine ⟨⟨fetches_of ?_, ?_⟩, found_of (fun (pass : CutPass) _ => decide (pass.preload ≤ 48)
    && unitOrder (stCut.maps.tensor.toNat &&& (if pass.heritage then 0xFFFF else 2 ^ 48 - 1)) != []
    && unitOrder (0 &&& (if pass.heritage then 0xFFFF else 2 ^ 48 - 1)) == []) ?_, ?_, found_bad ?_⟩ <;> decide +kernel

def slab0 : Slab := ⟨0x1F80, 0, 0, 0, 0, 128, 0, 1, 0, 1, 0, 0, 0, 0, 128⟩
def prog8 : Prog := { prog0 with wgX := 1024, regs := 8 }
/-- A cut over core 47 with two tiles in its split, one of them done, and moves both ways before its stage. -/
def cutP (split : Nat) : CutPass :=
  { desc := 0x1100, hdr := ⟨0, 1, 1, 4096 * (2 / split), 1, 32, 4096, 1, 32, 0, 0, split, 1, 4, 4, 0, 128, 0, 0x1F00, 0x1000, 0x1000, 0, 0x1200, 0⟩
    inSlabs := [slab0], outSlabs := [slab0], stages := [(prog8, [⟨true, 0, 128, 0⟩, ⟨false, 0x80000, 128, 0⟩])], combine := some prog8
    stream := none, args := [], heritage := false, order := [47], gen := 6, split := split, segDone := [(47, 1)], combDone := []
    session := none, folded := true }
def str0 (staging : Nat) : Stream := ⟨16383, staging, 4096, 0, [], false, false, 0, []⟩

theorem witness_CutCommands_ends :
    (let p := { cutP 1 with segDone := [(47, 2)] }
    let s := { stD with cuts := [(7, p)], cmds := [(7, cmd0 .cut)] }
    tget? s.cuts 7 = some p ∧ (s.ctx (cmdOf s 7).ctx).st = .live ∧ p.gen = s.maps.gen ∧ p.allDone = true ∧ p.streamDone = true
    ∧ p.folded = true ∧ (∀ e ∈ s.cores, ∀ x ∈ e.2.stores, x.cmd ≠ 7) ∧ (tget? s.cmds 7).isSome = true)
    ∧ (let p := { cutP 1 with gen := 5 }
      let s := { stD with cuts := [(7, p)], cmds := [(7, cmd0 .cut)], cores := [(47, { Core.reset with holder := some 7 })] }
      tget? s.cuts 7 = some p ∧ (s.ctx (cmdOf s 7).ctx).st = .live ∧ p.gen ≠ s.maps.gen ∧ p.session = none
      ∧ (∀ e ∈ s.cores, e.2.holder = some 7 → e.2.run = none) ∧ unitOrder (s.maps.tensor.toNat &&& (2 ^ 48 - 1)) = [47]
      ∧ s.counter (0x30 + 47) 0x150 < 2 ^ 48 - 1)
    ∧ (let p := { cutP 1 with stream := some (str0 4096) }
      let s := { stD with
        cuts := [(6, { cutP 1 with stream := some (str0 0) }), (7, p)], cmds := [(6, cmd0 .cut), (7, cmd0 .cut)] }
      tget? s.cuts 7 = some p ∧ (s.ctx (cmdOf s 7).ctx).st = .live ∧ p.stream = some (str0 4096) ∧ (str0 4096).started = false
      ∧ ∀ e ∈ s.cuts, e.1 < 7 → (cmdOf s e.1).queue = (cmdOf s 7).queue → ∀ v ∈ e.2.stream,
        v.staging + v.stagingBytes ≤ 4096 ∨ 4096 + 4096 ≤ v.staging)
    ∧ (let h : CutHdr := { (cutP 1).hdr with haloX := 15, haloY := 15, tileX := 16 }
      let b : Slab := { slab0 with mode := 1, resRow := 46, extX := 1, extY := 1 }
      b.mode = 1 ∧ 45 < b.resRow ∧ 30 < b.rows h ∧ 1 ≤ b.extX ∧ 1 ≤ b.extY ∧ 1 ≤ h.tileX
      ∧ ({ b with mode := 3 }).mode = 3 ∧ ({ b with mode := 4 }).mode = 4 ∧ slab0.mode = 0) := by decide +kernel

def stTiles (p : CutPass) (holder : Option Nat) (run : Option TileRun) : State :=
  { stD with cuts := [(7, p)], cmds := [(7, cmd0 .cut)], cores := [(47, { Core.reset with holder := holder, run := run })] }
def combP : CutPass := { cutP 2 with segDone := [(47, 2)] }

theorem witness_CutTiles_start :
    (let s := stTiles (cutP 1) none none
    tget? s.cuts 7 = some (cutP 1) ∧ (cutP 1).gen = s.maps.gen ∧ tileMay s 47 7 true = true ∧ (cutP 1).nextTile 47 = some (1, false)
    ∧ (s.core 47).holder = none ∧ (cutP 1).hdr.reserveKib + (cutP 1).hdr.scratchKib ≤ (s.core 47).scratchFree)
    ∧ (let s := stTiles combP (some 7) none
      tget? s.cuts 7 = some combP ∧ combP.gen = s.maps.gen ∧ tileMay s 47 7 true = true ∧ combP.nextTile 47 = some (0, true)
      ∧ (s.core 47).holder = some 7) := by decide +kernel

/-- Reads and checks of the steps of a tile, each inside the page of the context. -/
theorem witness_CutTiles_steps :
    (∀ st ∈ [TileStep.load 0, .move 0 0, .move 0 1, .store 0, .part, .stage 0 false], ∀ comb ∈ [false, true],
      tileRun (stTiles (cutP 2) (some 7) (some ⟨7, 1, comb, st⟩)) 47 = some (⟨7, 1, comb, st⟩, cutP 2))
    ∧ (let s := stTiles (cutP 2) (some 7) (some ⟨7, 1, false, .load 0⟩)
      let p := cutP 2
      let c := s.core 47
      (p.inSlabs[0]? = some slab0 ∧ slab0.double = false ∧ isEx (readRuns s 255 (slab0.reads p.hdr 0 0 0)) = true)
      ∧ isEx (vread s 255 (p.hdr.partialArea + (0 * p.split + 1) * p.hdr.partBytes) p.hdr.partBytes) = true
      ∧ ((p.stages.getD 0 (.empty, [])).2[0]? = some ⟨true, 0, 128, 0⟩ ∧ isEx (vcheck s 255 0x1000 128 false) = true
        ∧ isEx (vread (exTo s (vcheck s 255 0x1000 128 false)) 255 0x1000 128) = true ∧ p.hdr.spillArea + 47 * p.hdr.spillBytes + 0 = 0x1000)
      ∧ ((p.stages.getD 0 (.empty, [])).2[1]? = some ⟨false, 0x80000, 128, 0⟩ ∧ c.badTile = [] ∧ isEx (vcheck s 255 0x1000 128 true) = true
        ∧ (vwrite (exTo s (vcheck s 255 0x1000 128 true)) 255 0x1000 (c.scratch.read 0 128)).2 = none)
      ∧ (p.outSlabs[0]? = some slab0 ∧ (writeRuns s 255 c.tile.get (slab0.runs p.hdr 0 0 0 0)).2 = none)
      ∧ (isEx (vcheck s 255 (p.hdr.partialArea + 1 * p.hdr.partBytes) p.hdr.partBytes true) = true
        ∧ (vwrite (exTo s (vcheck s 255 (p.hdr.partialArea + 1 * p.hdr.partBytes) p.hdr.partBytes true)) 255 (p.hdr.partialArea + 1 * p.hdr.partBytes) (c.tile.read 0 128)).2 = none)
      ∧ (c.placement prog8 0 (ceilDiv prog8.threads 32)).isSome = true) := by decide +kernel

/-- A session of one item of 4,096 bytes, a fold of one slab, and a record at 0x1F00. -/
def sess0 : Session := ⟨1023, 255, 0x1300, false, 0x1F00, 1, 1, [⟨4, 4096, 0x1000⟩], [(0, [])], [], 1, 0, [], 0, 0, [(56 * 2 ^ 32, [])]⟩
def stRing : State := { stD with
  mem := { stD.mem with
    dram := stD.mem.dram ++ memOf 0xFFFFFF300 (bytesOf [(4, 0x4E39524D), (1, 1), (1, 0), (2, 1), (8, 0x1F00), (16, 0), (4, 4), (4, 4096),
      (8, 0x1000)]) } }

theorem witness_RingmarkSessions_open :
    let p := pkt 20 (bytesOf [(8, 0x1300)])
    let hb := exTo ([], stRing) (vread stRing 255 0x1300 32)
    let ib := exTo ([], stRing) (vread hb.2 255 (0x1300 + 32) (16 * 1))
    let s3 := exTo stRing (checkItems ib.2 255 [⟨4, 4096, 0x1000⟩])
    Fetches stRing p 1 true ∧ vread stRing 255 0x1300 32 = .ok (hb.1, hb.2) ∧ vread hb.2 255 (0x1300 + 32) (16 * 1) = .ok (ib.1, ib.2)
    ∧ checkItems ib.2 255 [⟨4, 4096, 0x1000⟩] = .ok s3 ∧ vcheck s3 255 0x1F00 256 true = .ok (exTo stRing (vcheck s3 255 0x1F00 256 true))
    ∧ (pField p 8 8 = 0x1300 ∧ (stRing.queue 1023).session = none ∧ sessionHead hb.1 = some (1, 0x1F00)
      ∧ (chunksOf 16 ib.1).mapM sessionItem = some [⟨4, 4096, 0x1000⟩])
    ∧ ({ queue0 with session := some 7 }).session.isSome = true := by
  refine ⟨fetches_of ?_, exes (d := ([], stRing)) ?_, exes (d := ([], stRing)) ?_, exes (d := stRing) ?_, exes (d := stRing) ?_, ?_⟩
    <;> decide +kernel

theorem witness_RingmarkSessions_digests :
    (let s := { stRing with sessions := [(9, sess0)], lanes := (List.range 8).map fun l => (l, ⟨9, none, 0, 0⟩) }
    tget? s.lanes 7 = some ⟨9, none, 0, 0⟩ ∧ (∀ l, l < 8 → (tget? s.lanes l).isSome = true) ∧ tget? s.sessions 9 = some sess0
    ∧ (s.ctx sess0.ctx).st = .live
    ∧ isEx (readRuns (bulkServed { s with lanes := tdrop s.lanes (· == 7) } 12) 255 (chunkRuns s sess0 ⟨9, none, 0, 0⟩)) = true)
    ∧ (let s := { stRing with sessions := [(9, sess0)], cmds := [(9, cmd0 .ringOpen)] }
      tget? s.cmds 9 = some (cmd0 .ringOpen) ∧ tget? s.sessions 9 = some sess0 ∧ (s.ctx (cmd0 .ringOpen).ctx).st = .live
      ∧ ∀ i, i < sess0.items.length → (sess0.itemDigest i).isSome = true)
    ∧ (let p := { cutP 1 with session := some (9, 0), folded := false, segDone := [(47, 2)] }
      let s := { stRing with sessions := [(9, sess0)], cuts := [(7, p)] }
      tget? s.cuts 7 = some p ∧ tget? s.sessions 9 = some sess0 ∧ (s.ctx sess0.ctx).st = .live ∧ p.gen = s.maps.gen
      ∧ p.allDone = true ∧ (foldDigests 7 p sess0).isSome = true)
    ∧ (let p := pkt 20 (bytesOf [(8, 0)])
      let s := { stRing with sessions := [(9, sess0)], queues := [(1023, { queue0 with session := some 9 })] }
      (fetchReady s 1023 = true ∧ headerOk s p 1 = true ∧ packetPoison s p = none)
      ∧ (s.queue 1023).session = some 9 ∧ tget? s.sessions 9 = some sess0 ∧ isEx (vcheck s 255 sess0.record 256 true) = true
      ∧ (stRing.queue 1023).session = none) := by
  decide +kernel


/-- While a stage of tile 0 runs, the one DOUBLE slab of tile 1. -/
theorem witness_CutTiles_ahead :
    let b := { slab0 with flags := 1 }
    let p := { cutP 1 with inSlabs := [b] }
    let s := stTiles p (some 7) (some ⟨7, 0, false, .stage 0 true⟩)
    tileRun s 47 = some (⟨7, 0, false, .stage 0 true⟩, p) ∧ 0 + p.order.length < p.hdr.t0 * p.split ∧ (s.core 47).ahead = []
    ∧ p.inSlabs[0]? = some b ∧ 0 < p.hdr.ins
    ∧ isEx (readRuns s 255 (b.reads p.hdr (1 % p.hdr.gx) (1 / p.hdr.gx % p.hdr.gy) 1)) = true
    ∧ 0 ∈ { s.core 47 with ahead := [0] }.ahead := by decide +kernel
/-- A pass of one draw of one point, described at 0x1300: state record at 0x1400, draw record at 0x1480, headers of its programs
at 0x1600 and 0x1700, vertices at 0x1800. -/
def stageHdr (kind : Nat) : List Byte :=
  bytesOf [(4, 0x4E395048), (1, 1), (1, 1), (1, kind), (1, 0), (2, 8), (1, 0), (1, 0), (2, 0), (2, 0), (2, 1), (2, 1), (2, 1), (2, 0),
    (4, 64), (4, 56), (32, 0)]
def passBytes : List Byte :=
  bytesOf [(4, 0x4E395250), (1, 1), (1, 0), (1, 2), (1, 8), (2, 64), (2, 32), (1, 0), (1, 0), (2, 0), (4, 1), (4, 1), (8, 0x1480),
    (8, 0x1400), (8, 0x1000), (4, 0x11000), (4, 0), (8, 0), (16, 0), (4, 0), (4, 0x3F800000), (8, 0), (32, 0)]
def drawBytes : List Byte :=
  bytesOf [(8, 0x1600), (8, 0), (8, 0x1700), (8, 0), (8, 0x1800), (8, 0), (4, 0), (4, 1), (4, 1), (1, 0), (1, 0), (1, 0), (1, 0), (8, 0), (8, 0)]
def stPass : State := { stD with
  mem := { stD.mem with
    dram := stD.mem.dram ++ memOf 0xFFFFFF300 passBytes ++ memOf 0xFFFFFF480 drawBytes ++ memOf 0xFFFFFF600 (stageHdr 1)
      ++ memOf 0xFFFFFF700 (stageHdr 3) }
  power := { stD.power with on := [0x2F, 0x5F, 0x9C, 0x9D] } }

theorem witness_RenderPasses_enter :
    Fetches stPass (pkt 20 (bytesOf [(8, 0x1300)])) 1 false ∧ pField (pkt 20 (bytesOf [(8, 0x1300)])) 8 8 = 0x1300
    ∧ (∃ r s1, loadPass stPass 255 0x1300 = .ok r s1 ∧ (r.draws.length == 1) = true) ∧ loadPass stPass 255 0x1400 = .bad 0x1400 dBadPass
    ∧ unitOrder (stPass.maps.core.toNat &&& (2 ^ 48 - 1)) ≠ [] := by
  refine ⟨fetches_of ?_, ?_, found_of (fun (r : RenderPass) _ => r.draws.length == 1) ?_, found_bad ?_, ?_⟩ <;> decide +kernel

def point0 : Draw := { noDraw with positions := 0x1800, count := 1, prims := 1, attr := some prog8 }
def pass1 : RenderPass := { pass0 with
  hdr := { pass0.hdr with listArea := 0x1000 }, draws := [point0], posDone := [(0, 1)], shading := false, rounds := 1, order := [47], gen := 6 }
def stR (r : RenderPass) (c : Core) : State :=
  { stPass with renders := [(7, r)], cmds := [(7, cmd0 .render)], cores := [(47, c)] }

theorem bin_of {b : Bin} (h : (match b with
    | .ok _ _ => true
    | _ => false) = true) : ∃ s r, b = .ok s r := by
  cases b <;> simp_all

theorem witness_RenderPasses_binning :
    (∃ s1 r1, binPrim (stR pass1 .reset) 255 pass1 = .ok s1 r1)
    ∧ (∃ s1 r1, binBatch 256 (stR pass1 .reset) 255 pass1 = .ok s1 r1)
    ∧ (let s := stR pass1 .reset
      tget? s.renders 7 = some pass1 ∧ (s.ctx (cmdOf s 7).ctx).st = .live ∧ binReady s 7 pass1 = true
      ∧ binStopped s 7 = false ∧ binnerMay s 7 pass1 = true ∧ pass1.rounds ≠ 0)
    ∧ (let r := { pass1 with binDraw := 1 }
      0 < r.binDraw ∧ (r.draw 0).attr.isSome = true ∧ 0 ∉ r.attrReady
      ∧ (r.shading = false ∧ r.flushing = false ∧ r.binDraw = r.draws.length ∧ attrsDone (stR r .reset) 7 r = true))
    ∧ (let r := { pass1 with flushing := true, finished := [0] }
      r.flushing = true ∧ (∀ t ∈ r.roundTiles, t ∈ r.finished)
      ∧ (vwrite (stR r .reset) 255 r.hdr.listArea (List.replicate (r.hdr.tiles * 16) 0)).2 = none) := by
  refine ⟨bin_of ?_, bin_of ?_, ?_⟩ <;> decide +kernel

def passFull : RenderPass := { pass1 with shading := true, binDraw := 1, attaches := [att0] }
/-- Shading: one tile, no primitive in its list at the start; then one fragment with its outputs; then none. -/
def passS : RenderPass := { pass1 with
  shading := true, binDraw := 1, attaches := [{ att0 with storeOp := 1, storeVa := 0x1000, pitch := 128 }]
  hdr := { pass1.hdr with width := 8, height := 8, samples := 1 } }
def frag0 : PendFrag := ⟨0, 7, 7, 1, none, true, some [(0, 5)]⟩

theorem witness_RenderPasses_tiles :
    (let s := stR passFull { Core.reset with holder := some 7, reserved := 65536 }
    tget? s.renders 7 = some passFull ∧ (s.ctx (cmdOf s 7).ctx).st = .live ∧ passFull.gen = s.maps.gen ∧ passFull.order ≠ []
    ∧ tilesReady s 7 passFull = true ∧ tileMay s 47 7 false = true ∧ (s.core 47).holder = some 7 ∧ passFull.nextTile s 7 47 = some 0
    ∧ isEx (tileContent s 255 passFull 0) = true
    ∧ isEx (setupPrims (exTo (s, .empty, 0) (tileContent s 255 passFull 0)).1 255 passFull (passFull.entries 0)) = true)
    ∧ (let s := stR passS { Core.reset with holder := some 7, raster := some ⟨7, 0, [⟨0, 0, 0, true, [], []⟩], [], [frag0]⟩ }
      let run : RasterRun := ⟨7, 0, [⟨0, 0, 0, true, [], []⟩], [], [frag0]⟩
      let c := s.core 47
      c.raster = some run ∧ tget? s.renders run.cmd = some passS ∧ (s.ctx (cmdOf s run.cmd).ctx).st = .live ∧ run.frags[0]? = some frag0
      ∧ run.waiting = [] ∧ fragResult c frag0 = some [(0, 5)] ∧ run.cmd ∉ c.saving ∧ c.badTile = []
      ∧ ∀ g ∈ run.frags, g.x = frag0.x → g.y = frag0.y → frag0.prim ≤ g.prim)
    ∧ (let s := stR passS { Core.reset with holder := some 7, raster := some ⟨7, 0, [], [], []⟩ }
      let c := s.core 47
      c.raster = some ⟨7, 0, [], [], []⟩ ∧ 7 ∉ c.saving ∧ c.badTile = [] ∧ (∀ e ∈ c.wgs, e.2.live = true → e.2.cmd ≠ 7)
      ∧ (writeRows s 255 (tileStores c passS 0)).2 = none)
    ∧ (let r := { passS with finished := [0] }
      let s := stR r .reset
      tget? s.renders 7 = some r ∧ (s.ctx (cmdOf s 7).ctx).st = .live ∧ r.shading = true ∧ (∀ t ∈ r.roundTiles, t ∈ r.finished)
      ∧ tilesBusy s 7 = [] ∧ (∀ e ∈ s.cores, ∀ x ∈ e.2.stores, x.cmd ≠ 7)) := by decide +kernel

/-- The states of the witnesses above also meet the conditions of the completions; a batch needs a draw that binning reached. -/
theorem witness_PacketsAndPasses :
    (Fetches stD (pkt 20 []) 2 true ∧ Fetches stD (pkt 20 []) 2 false)
    ∧ ((∀ e ∈ stD.queues, e.2.wait = none) ∧ rangePktOk (pkt 20 (bytesOf [(8, 0x1000), (8, 0)])) 4096 = true
      ∧ pField (pkt 20 (bytesOf [(8, 0x1000), (8, 0)])) 16 8 = 0)
    ∧ (let r := { pass1 with draws := [point0, point0], posDone := [(0, 1), (1, 1)], binDraw := 1 }
      let s := stR r .reset
      tget? s.renders 7 = some r ∧ (s.ctx (cmdOf s 7).ctx).st = .live ∧ binReady s 7 r = true ∧ binStopped s 7 = false
      ∧ binnerMay s 7 r = true ∧ r.binDraw ≠ 0)
    ∧ (let r := { pass1 with draws := [point0, point0], posDone := [(0, 1), (1, 1)], binDraw := 1 }
      ∃ s1 r1, binBatch 256 (stR r .reset) 255 r = .ok s1 r1) := by
  refine ⟨⟨fetches_of ?_, fetches_of ?_⟩, ?_, ?_, bin_of ?_⟩ <;> decide +kernel

/-- The spec's block of sixteen zero bytes (chapter 12, Stream format, the example). -/
def zeroPay : List Byte := [0x00, 0x00, 0x04, 0x00, 0x0F, 0x00, 0x38, 0x3E]
def zeroHdr : BlockHdr := ⟨2, 16, 8, 0x8A9136AA⟩
def zeroHead : List Byte := [0x32, 0x43, 0x02, 0x02, 0x10, 0x00, 0x00, 0x00, 0x08, 0x00, 0x00, 0x00, 0xAA, 0x36, 0x91, 0x8A]

/-- A stored block of eight zero bytes, not the last. -/
def openHead : List Byte := bytesOf [(2, 0x4332), (1, 2), (1, 4), (4, 8), (4, 8), (4, 2231102702)]

theorem test_block_of_zeros :
    blockHdr zeroHead = some zeroHdr ∧ (decodeBlock State.reset (.virt 255) (.fresh 0) zeroHdr zeroPay).fail = none
    ∧ (decodeBlock State.reset (.virt 255) (.fresh 0) zeroHdr zeroPay).bytes = List.replicate 16 0
    ∧ (decodeBlock State.reset (.virt 255) (.fresh 0) zeroHdr zeroPay).strm.dict = [[0, 0], [0, 0], [0, 0, 0]] := by decide +kernel

theorem witness_ChipperStreams :
    blockHdr zeroHead = some zeroHdr
    ∧ (blockHdr (bytesOf [(2, 0x4332), (1, 2), (1, 4), (4, 262144), (4, 262144), (4, 0)])).isSome = true
    ∧ (blockHdr (bytesOf [(2, 0x4332), (1, 2), (1, 3), (4, 262144), (4, 294914), (4, 0)])).isSome = true
    ∧ (zeroPay.length = zeroHdr.payload ∧ zeroHdr.stored = false ∧ (Strm.fresh 0).dict = [] ∧ (Strm.fresh 0).prev = none)
    ∧ (([] : List Byte).length = (⟨4, 0, 0, 0⟩ : BlockHdr).payload ∧ (⟨4, 0, 0, 0⟩ : BlockHdr).stored = true) := by decide +kernel

/-- Unit context 15 and engine context 15 of tenant 15, bound to context 255. -/
def stBz (b : BzCtx) : State := { stD with blazeGrants := [(15, 15)], bzCtxs := [(15, b)] }

theorem witness_CheckValues :
    (let s := stBz .reset
    accUp s acc0 = true ∧ tget? s.blazeGrants 15 = some 15 ∧ accTenant s acc0 = some 15 ∧ (s.bz 15).attached = none)
    ∧ ((stBz { BzCtx.reset with attached := some 15 }).bz 15).attached.isSome = true
    ∧ (accOnes { acc0 with data := 1 }).toNat % 2 = 1
    ∧ (let n := fun d : BitVec 64 => (accOnes { acc0 with data := d }).toNat / 2 ^ 56 % 16
      n 0x0100000000000000 = 1 ∧ n 0x0700000000000000 = 7 ∧ n 0x0800000000000000 = 8 ∧ n 0 = 0) := by decide +kernel

/-- The spec's frame check through DIRECT mode (chapter 12, the example): BZ_CHECK is the running value with its initial value
applied. -/
theorem test_frame_check :
    let b : BzCtx := { BzCtx.reset with ctl := 0xC, address := 0x0706050403020100, seq := 0x0F0E0D0C0B0A0908 }
    let s := after (.start { acc0 with data := 1 } 15) (stBz b)
    let s1 := after (.bzFeed { acc0 with data := 0x1716151413121110 } 15) s
    let s2 := after (.bzFeed { acc0 with data := 0x1F1E1D1C1B1A1918 } 15) s1
    (s2.bz 15).running.toNat % 2 ^ 32 ^^^ 0xFFFFFFFF = 0x46DD794E := by decide +kernel

def job0 (mode src n : Nat) : EngJob :=
  ⟨mode, src, 0x1800, n, 4096, 64, true, true, none, none, 0, 0, none, 0, [], 0, [], .fresh mode, false, false, false, false⟩
def engGo : EngCtx := { EngCtx.reset with ctl := 0x10000, len := 0x0000000100000001 }
def stEng (x : EngCtx) : State := { stD with
  chipGrants := [(15, (15, 255))], engCtxs := [(15, x)], power := { stD.power with on := [0x2F, 0x5F, 0x83] }
  mem := { stD.mem with dram := stD.mem.dram ++ memOf 0xFFFFFF100 (zeroHead ++ zeroPay ++ List.replicate 8 0 ++ openHead) } }

theorem witness_ChipperWork_go :
    (let s := stEng engGo
    accUp s acc0 = true ∧ tget? s.chipGrants 15 = some (15, 255) ∧ accTenant s acc0 = some 15
    ∧ (accOnes { acc0 with data := 1 }).getLsbD 0 = true
    ∧ (engGo.job.isSome = false ∧ engGo.fieldsOk = true ∧ engGo.continueOk = true ∧ engGo.blazeEn = false))
    ∧ ({ engGo with ctl := 0 }).fieldsOk = false := by decide +kernel

def isTake {α β : Type} (r : State × Except β α) : Bool :=
  match r.2 with
  | .ok _ => true
  | .error _ => false

/-- A mode 2 job and a decoding job at their first bytes. For a mode 1 job the encoder's choice is the constant that R388 leaves
open, so the two cases of its clause, which exclude each other and leave out none, have no witness of their own. -/
theorem witness_ChipperWork_block :
    (let j := { job0 2 0x1000 64 with suspended := true }
    let s := stEng { engGo with job := some j }
    3 < 4 ∧ domainOn s 0x83 = true ∧ (s.eng 3).seg = none ∧ nextSegment s 3 = none ∧ nextJob s 3 = some 15 ∧ (s.eng 3).cur = none
    ∧ (s.engCtx 15).job = some j ∧ j.mode = 2
    ∧ (let s1 := putJob (bulkServed (setEng s 3 { s.eng 3 with last := 15 % 4, cur := some 15 }) 11) 15 { j with suspended := false }
      let r := jobTake s1 3 255 { j with suspended := false } j.block
      isTake r = true ∧ (match r.2 with
        | .ok (bs, j2) => (jobWrite r.1 3 255 j2 bs).2.2.isNone
        | .error _ => false) = true))
    ∧ (let j := { job0 0 0x1100 56 with pos := 32, opened := true }
      let s := stEng { engGo with job := some j }
      nextJob s 3 = some 15 ∧ (j.suspended = false ∧ j.pos ≠ 0) ∧ j.mode = 0
      ∧ (let s1 := putJob (bulkServed (setEng s 3 { s.eng 3 with last := 15 % 4, cur := some 15 }) 11) 15 { j with suspended := false }
        let r := jobTake s1 3 255 { j with suspended := false } 16
        (match r.2 with
          | .ok (hb, j2) => hb.length == 16 && (match blockHdr hb with
            | some h => (match (jobTake r.1 3 255 j2 h.payload).2 with
              | .ok (pl, j3) => pl.length == h.payload && !h.last && (decodeBlock r.1 (j2.dstLoc 255) j2.strm h pl).fail.isNone
                && (jobWrite r.1 3 255 j3 (decodeBlock r.1 (j2.dstLoc 255) j2.strm h pl).bytes).2.2.isNone
              | .error _ => false)
            | none => false)
          | .error _ => false) = true)) := by decide +kernel

theorem witness_ChipperWork_done :
    (let j := { job0 2 0x1000 64 with finished := true, fence := some 16383, value := 5 }
    j.finished = true ∧ j.xfer = none ∧ (j.opened = false ∨ j.mode = 2) ∧ j.fence = some 16383
    ∧ ((stEng { engGo with job := some j }).engCtx 15).job = some j) := by decide +kernel

def segP (done : List Nat) : CutPass :=
  { cutP 1 with stream := some { str0 0x1800 with segs := [⟨0x1100, 24, 0, 16⟩, ⟨0x1100, 24, 128, 16⟩], started := true, doneSegs := done } }
def stSeg (r : SegRun) (done : List Nat) : State :=
  { stEng engGo with cuts := [(7, segP done)], cmds := [(7, cmd0 .cut)], engines := [(3, ⟨some r, 3, none⟩)] }

theorem witness_ChipperWork_segment :
    (let r : SegRun := ⟨7, 0, .fresh 0, 0, false⟩
    let s := stSeg r []
    let hb := exTo ([], s) (vread s 255 0x1100 16)
    let sh := bumpBy hb.2 0x83 0x100 16
    let pl := exTo ([], s) (vread sh 255 0x1110 8)
    let b := decodeBlock (bumpBy pl.2 0x83 0x100 8) (.virt 255) r.strm zeroHdr pl.1
    isEx (vread s 255 0x1100 16) = true ∧ isEx (vread sh 255 0x1110 8) = true
    ∧ domainOn s 0x83 = true ∧ (s.eng 3).seg = some r ∧ (segOf s r).isSome = true ∧ (s.ctx (cmdOf s 7).ctx).st = .live
    ∧ 0 + 16 + 8 ≤ 24 ∧ blockHdr hb.1 = some zeroHdr ∧ b.fail = none ∧ b.strm.off ≤ 16 ∧ (zeroHdr.last = true ∧ 0 + 16 + 8 = 24 ∧ b.strm.off = 16)
    ∧ (vwriteStream (bumpBy b.s 0x83 0x128 b.far) 255 0x1800 (b.bytes.take 16)).2 = none)
    ∧ (let r : SegRun := ⟨7, 1, .fresh 0, 24, true⟩
      let s := stSeg r []
      (s.eng 3).seg = some r ∧ (segOf s r).isSome = true ∧ (0 < 2 ∧ 0 ∉ 1 :: ([] : List Nat) ∧ ∀ k, k < 0 → k ∈ ([] : List Nat)))
    ∧ (let r : SegRun := ⟨7, 1, .fresh 0, 24, true⟩
      (segOf (stSeg r [0]) r).isSome = true ∧ 2 ≤ 2 ∧ (∀ i, i < 2 → i ∈ [1, 0]) ∧ (∃ i, i < 2 ∧ i ∉ [0])) :=
  ⟨by decide +kernel, by decide +kernel, by decide +kernel, by decide, by decide, 1, by decide⟩

theorem tget_of {α : Type} (f : Nat → α) (d : α) (k : Nat) : ∀ l : List Nat, k ∈ l → tget (l.map fun i => (i, f i)) k d = f k
  | [], h => by cases h
  | x :: xs, h => by
    simp only [List.map_cons, tget]
    split
    · next e => rw [e]
    · next e => exact tget_of f d k xs ((List.mem_cons.mp h).resolve_left e)

/-- A table of the numbers below `n`. -/
theorem tget_all {α : Type} (f : Nat → α) (d : α) {k n : Nat} (h : k < n) : tget ((List.range n).map fun i => (i, f i)) k d = f k :=
  tget_of f d k _ (List.mem_range.mpr h)

theorem oldestFree_none {n : Nat} {free : Nat → Bool} {freed : Nat → Nat} (h : ∀ k, k < n → free k = false) :
    oldestFree n free freed = none := by
  have e : (List.range n).filter free = [] := by
    rw [List.filter_eq_nil_iff]
    intro k hk
    simp [h k (List.mem_range.mp hk)]
  simp [oldestFree, e, leastOf]

theorem leastOf_mem : ∀ (l : List Nat) (m : Nat), leastOf l = some m → m ∈ l
  | [], m, h => by simp [leastOf] at h
  | x :: xs, m, h => by
    unfold leastOf at h
    split at h
    · simp_all
    · next y hy =>
      have := leastOf_mem xs y hy
      have e : min x y = m := by simpa using h
      rcases Nat.le_total x y with q | q
      · rw [Nat.min_eq_left q] at e; simp [e]
      · rw [Nat.min_eq_right q] at e; subst e; simp [this]

theorem oldestFree_some {n k : Nat} {free : Nat → Bool} {freed : Nat → Nat} (hk : k < n) (h : free k = true) :
    ∃ m, oldestFree n free freed = some m := by
  have hm : freed k ∈ ((List.range n).filter free).map freed :=
    List.mem_map.mpr ⟨k, List.mem_filter.mpr ⟨List.mem_range.mpr hk, h⟩, rfl⟩
  cases hl : leastOf (((List.range n).filter free).map freed) with
  | none =>
    cases hc : ((List.range n).filter free).map freed with
    | nil => rw [hc] at hm; cases hm
    | cons a as => rw [hc] at hl; unfold leastOf at hl; split at hl <;> cases hl
  | some y =>
    obtain ⟨j, hj, ej⟩ := List.mem_map.mp (leastOf_mem _ _ hl)
    have hj' := List.mem_filter.mp hj
    unfold oldestFree
    simp only [hl]
    cases hf : firstBelow n fun k => free k && freed k == y with
    | some z => exact ⟨z, rfl⟩
    | none =>
      have := List.find?_eq_none.mp hf j hj'.1
      simp [hj'.2, ej] at this

theorem ownWrite_of {s : State} {a : Access} {t : Nat} (h : accUp s a = true ∧ accTenant s a = some t ∧ ∀ i, i < 4 → a.be.getLsbD i = true) :
    OwnWrite s a t := ⟨h.1, h.2.1, h.2.2⟩

def fn (own : Nat) (v : DWord) : Fence := { Fence.reset with st := .live, value := v, owner := own }
def hw (armed : Bool) : HostWait := ⟨0, 0, 5, armed, 0⟩
def stFn (f : Fence) (h : HostWait) : State := { stD with
  fences := [(16383, f)], tenants := [(15, { Tenant.free with st := .live, port := 2, rid := 65535, waits := [(63, h)] })] }

theorem witness_FenceRegisters :
    (let s := stFn (fn 15 4) (hw false)
    accUp s acc0 = true ∧ accTenant s acc0 = some 15 ∧ 2 ≤ fenceRight (s.fence 16383) 15 ∧ acc0.be = 0xFF
    ∧ ({ acc0 with be := 0x7F }).be ≠ 0xFF ∧ fenceRight ((stFn (fn 14 4) (hw false)).fence 16383) 15 < 2)
    ∧ (let a : Access := { acc0 with data := 16383 }
      let at_ := fun (s : State) => tget (s.tenant 15).waits 63 .empty
      a.data.toNat % 2 ^ 14 = 16383 ∧ (at_ (stFn (fn 14 4) (hw false))).armed = false
      ∧ fenceRight ((stFn (fn 14 4) (hw false)).fence 16383) 15 = 0
      ∧ (fenceRight (fn 15 4) 15 ≠ 0 ∧ (fn 15 4).flag = false ∧ (fn 15 4).reached 5 = false ∧ (fn 15 5).reached 5 = true)
      ∧ (at_ (stFn (fn 15 4) (hw true))).armed = true ∧ a.data.getLsbD 16 = false ∧ a.data.getLsbD 15 = false) := by decide +kernel

def stBr (b : Bridge) (f h : Fence) : State := { stD with bridges := [(255, b)], fences := [(16382, f), (16383, h)] }

theorem witness_FenceRegisters_bridges :
    (let b : Bridge := ⟨15, 16382, 16383, 0, 5, 2, 3⟩
    let s := stBr b { fn 15 0 with heritage := true, adv := 6 } (fn 15 0)
    s.ranger.up = true ∧ tget? s.bridges 255 = some b ∧ (s.fence 16382).flag = false ∧ (s.fence 16383).flag = false
    ∧ (s.fence 16382).heritage = true ∧ 3 < (s.fence 16382).adv - 2
    ∧ (bridgeSignals (stBr { b with passed := 4 } (s.fence 16382) { fn 15 0 with flag := true }) { b with passed := 4 }).1 = [])
    ∧ (let b : Bridge := ⟨15, 16382, 16383, 1, 0xFFFFFFFF, 0, 0⟩
      let s := stBr b (fn 15 0x200000001) { fn 15 0 with heritage := true }
      (s.fence 16382).heritage = false ∧ (s.fence 16382).flag = false ∧ 0 < (s.fence 16382).value.toNat - 1)
    ∧ ({ fn 15 0 with flag := true }).flag = true
    ∧ (let s := { stD with fences := [(16383, { fn 15 0 with st := .releasing })] }
      (s.fence 16383).st = .releasing ∧ fenceNamed s 16383 = false) := by decide +kernel

/-- A request on tenant 15's channel, at the last units of the request ring. -/
def req (words : BitVec 16) (payload : List Byte) : Req := ⟨15, 0, 1, 0, 15, words, 7, payload⟩
def chan0 : Channel := { Channel.reset with last := 1024, reqRead := 1008, replyWrite := 1023, readIndex := 1023 }
def stQ : State := { stD with
  channels := [(15, chan0)]
  tenants := [(15, { Tenant.free with st := .live, port := 2, rid := 65535 }), (14, { Tenant.free with st := .live, port := 2, rid := 65534 })] }

theorem requested_of {s : State} {r : Req} {words : Nat} {listed : List (Nat × Nat)} (h : flumeReady s r = true ∧ reqTooLong s r = false
    ∧ headerCheck s r (some words) = none ∧ ∀ i, i < 4 * words → (∀ f ∈ listed, i < f.1 ∨ f.1 + f.2 ≤ i) → reqField r i 1 = 0) :
    Requested s r words listed := ⟨h.1, h.2.1, h.2.2.1, h.2.2.2⟩

theorem witness_FenceRequests_create :
    (let r := req 4 (bytesOf [(8, 2 ^ 64 - 2), (1, 6), (1, 0), (2, 255), (4, 0)])
    Requested stQ r 4 [(0, 8), (8, 1), (10, 2)] ∧ reqField r 8 1 < 8 ∧ reqField r 0 8 ≤ 2 ^ 64 - 2 ∧ reqField r 10 2 < 256
    ∧ (stQ.ctx 255).st ≠ .free ∧ (stQ.ctx 255).tenant = 15)
    ∧ Requested stQ (req 4 (bytesOf [(8, 2 ^ 32 - 1), (1, 1), (7, 0)])) 4 [(0, 8), (8, 1), (10, 2)]
    ∧ (∃ n, freeFence stQ = some n)
    ∧ freeFence { stQ with fences := (List.range 16384).map fun i => (i, fn 15 0) } = none := by
  refine ⟨⟨requested_of ?_, ?_⟩, requested_of ?_, oldestFree_some (k := 0) (by decide) (by decide +kernel),
    oldestFree_none fun k hk => ?_⟩
  · decide +kernel
  · decide +kernel
  · decide +kernel
  · have e := tget_all (n := 16384) (fun _ => fn 15 0) Fence.reset hk
    simp only [State.fence]
    rw [e]
    rfl

/-- Fences 16382 and 16383 are the tenant's own; 16382 is a heritage one. -/
def stFr : State := { stQ with fences := [(16383, { fn 15 4 with binds := [(255, 2)], grants := [(14, 1)] }), (16382, { fn 15 0 with heritage := true })] }

theorem witness_FenceRequests_own :
    Requested stFr (req 1 (bytesOf [(2, 16383), (2, 0)])) 1 [(0, 2)] ∧ Requested stFr (req 1 (bytesOf [(2, 16383), (1, 14), (1, 2)])) 1 [(0, 2), (2, 1), (3, 1)]
    ∧ Requested stFr (req 1 (bytesOf [(2, 16383), (1, 14), (1, 0)])) 1 [(0, 2), (2, 1)]
    ∧ Requested stFr (req 2 (bytesOf [(2, 16383), (2, 255), (1, 2), (3, 0)])) 2 [(0, 2), (2, 2), (4, 1)]
    ∧ Requested stFr (req 1 (bytesOf [(2, 16383), (2, 255)])) 1 [(0, 2), (2, 2)]
    ∧ Requested stFr (req 4 (bytesOf [(2, 16383), (6, 0), (8, 5)])) 4 [(0, 2), (8, 8)]
    ∧ Requested stFr (req 1 (bytesOf [(2, 16382), (2, 16383)])) 1 [(0, 2), (2, 2)]
    ∧ Requested { stFr with bridges := [(255, ⟨15, 16382, 16383, 0, 0, 0, 0⟩)] } (req 1 (bytesOf [(1, 255), (3, 0)])) 1 [(0, 1)]
    ∧ ((stFr.fence 16383).st = .live ∧ (stFr.fence 16383).owner = 15 ∧ fenceHeld stFr 16383 = false
      ∧ (stFr.channel 15).accepted.length < 16 ∧ (14 < 16 ∧ (stFr.tenant 14).st ≠ .free) ∧ 14 ≠ (stFr.fence 16383).owner
      ∧ fenceHeld { stFr with bridges := [(255, ⟨15, 16382, 16383, 0, 0, 0, 0⟩)] } 16383 = true
      ∧ (stFr.fence 16383).heritage = (stFr.ctx 255).heritage ∧ (tget? (stFr.fence 16383).binds 255).isSome = true
      ∧ ((stFr.fence 16382).heritage ≠ (stFr.fence 16383).heritage ∧ fenceRight (stFr.fence 16382) 15 ≠ 0
        ∧ 2 ≤ fenceRight (stFr.fence 16383) 15 ∧ bridged stFr 16382 = false ∧ bridged stFr 16383 = false)
      ∧ bridged { stFr with bridges := [(255, ⟨15, 16382, 16383, 0, 0, 0, 0⟩)] } 16383 = true)
    ∧ (∃ k, k < 256 ∧ tget? stFr.bridges k = none) := by
  refine ⟨requested_of ?_, requested_of ?_, requested_of ?_, requested_of ?_, requested_of ?_, requested_of ?_, requested_of ?_,
    requested_of ?_, ?_, 255, ?_⟩ <;> decide +kernel

/-- Requests of the table's families, one per length, at the last units of the ring and past them. -/
theorem witness_FlumeChannels_headers :
    (let r := req 0 []
    flumeReady { stQ with ranger := .reset } r = false ∧ flumeReady stQ r = true ∧ reqTooLong stQ r = false
    ∧ (let c := stQ.channel 15
      1024 < c.reqRead % 1024 + (16 + 4 * 61 + 15) / 16 ∧ (c.last + 2 ^ 32 - c.reqRead) % 2 ^ 32 < (16 + 4 * 61 + 15) / 16)
    ∧ flumeReady stQ { r with words := 61 } = true ∧ r.version = 1 ∧ ({ r with version := 2 }).version ≠ 1
    ∧ r.tenant.toNat = 15 ∧ ({ r with tenant := 255 }).tenant.toNat ≠ 15 ∧ r.seq.toNat = (stQ.channel 15).nextSeq
    ∧ ({ r with seq := 1 }).seq.toNat ≠ (stQ.channel 15).nextSeq ∧ r.flags.toNat < 2 ∧ 2 ≤ ({ r with flags := 2 }).flags.toNat
    ∧ flumeOpcodes.contains (0xFFFF : BitVec 16).toNat = false ∧ r.words.toNat ≠ 1)
    ∧ Requested stQ (req 0 []) 0 [] ∧ Requested stQ (req 1 (bytesOf [(4, 7)])) 1 [(0, 4)]
    ∧ Requested stQ (req 1 (bytesOf [(4, 8)])) 1 [(0, 4)] ∧ reqField (req 1 (bytesOf [(4, 7)])) 0 4 < 8
    ∧ 8 ≤ reqField (req 1 (bytesOf [(4, 8)])) 0 4 := by
  refine ⟨?_, requested_of ?_, requested_of ?_, requested_of ?_, ?_⟩ <;> decide +kernel

/-- A parameter that fails, and the room of a reply at the ring's end. -/
theorem witness_FlumeChannels_records :
    paramFail (req 1 (bytesOf [(2, 5), (2, 1)])) [(0, 2)] [(0, false)] = some 0 ∧ paramFail (req 1 (bytesOf [(2, 5), (2, 1)])) [(0, 2)] [(0, true)] = some 2
    ∧ (let room := 1024 - (stQ.channel 15).replyWrite % 1024
      (16 + 0 + 15) / 16 ≤ room ∧ room < (16 + 4 + 15) / 16 ∧ (16 + 4 + 15) / 16 ≤ 1024) := by decide +kernel

theorem witness_FlumeChannels_registers :
    OwnWrite stQ { acc0 with data := 1025 } 15
    ∧ (let c := stQ.channel 15
      let d := fun w : Nat => (w + 2 ^ 32 - c.last) % 2 ^ 32
      let held := fun w : Nat => (w + 2 ^ 32 - c.reqRead) % 2 ^ 32
      let span := fun w : Nat => (w + 2 ^ 32 - c.readIndex) % 2 ^ 32
      (1 ≤ d 1025 ∧ d 1025 < 2 ^ 31 ∧ held 2032 = 1024) ∧ d 1024 = 0 ∧ 2 ^ 31 ≤ d (1024 + 2 ^ 31) ∧ 1024 < held 2033
      ∧ span 1023 ≤ span c.replyWrite ∧ span c.replyWrite < span 1024 ∧ ({ acc0 with data := 0 }).data.getLsbD 1 = false
      ∧ (stQ.ctx 255).tenant = 15 ∧ (stQ.ctx 255).st = .live) := by
  refine ⟨ownWrite_of ?_, ?_⟩ <;> decide +kernel

def okReq (s : State) (e : Req × Nat × List (Nat × Nat)) : Bool :=
  flumeReady s e.1 && !(reqTooLong s e.1) && (headerCheck s e.1 (some e.2.1)).isNone
    && (List.range (4 * e.2.1)).all fun i => e.2.2.any (fun f => decide (f.1 ≤ i ∧ i < f.1 + f.2)) || reqField e.1 i 1 == 0

theorem requested_all {s : State} {l : List (Req × Nat × List (Nat × Nat))} (h : l.all (okReq s) = true) :
    ∀ e ∈ l, Requested s e.1 e.2.1 e.2.2 := by
  intro e he
  have k := List.all_eq_true.mp h e he
  simp only [okReq, Bool.and_eq_true, Bool.not_eq_true', Option.isNone_iff_eq_none, List.all_eq_true, List.mem_range, Bool.or_eq_true,
    List.any_eq_true, decide_eq_true_eq, beq_iff_eq] at k
  refine ⟨k.1.1.1, k.1.1.2, k.1.2, fun i hi hf => (k.2 i hi).resolve_left ?_⟩
  rintro ⟨f, hfm, h1, h2⟩
  rcases hf f hfm with q | q <;> omega

/-- Tenant 15 manages port 2; tenant 14 there is gone. -/
def stMan (st : PortSt) (t14 : TenantSt) : State := { stQ with
  ports := [(2, { Port.reset with st := st, manager := some 15 })]
  tenants := [(15, { Tenant.free with st := .live, port := 2, rid := 65535 }), (14, { Tenant.free with st := t14, port := 2, rid := 65534 })] }

theorem witness_TenantRequests :
    (∀ e ∈ [(req 0 [], 0, []), (req 2 (bytesOf [(1, 14), (1, 1), (2, 65535), (4, 2 ^ 20 - 1)]), 2, [(0, 1), (1, 1), (2, 2), (4, 4)]),
      (req 2 (bytesOf [(1, 14), (1, 0), (2, 65535), (4, 0)]), 2, [(0, 1), (1, 1), (2, 2), (4, 4)]),
      (req 2 (bytesOf [(1, 0), (1, 1), (2, 65535), (4, 2 ^ 20 - 1)]), 2, [(1, 1), (2, 2), (4, 4)]),
      (req 2 (bytesOf [(1, 0), (1, 0), (2, 65535), (4, 0)]), 2, [(1, 1), (2, 2), (4, 4)]),
      (req 1 (bytesOf [(1, 14), (3, 0)]), 1, [(0, 1)]), (req 1 (bytesOf [(1, 15), (3, 0)]), 1, [(0, 1)])],
      Requested (stMan .rollCall .gone) e.1 e.2.1 e.2.2)
    ∧ (isM stQ (req 0 []) = false ∧ flumeReady stQ (req 0 []) = true)
    ∧ (let s := stMan .rollCall .gone
      let taken := fun (but : Option Nat) (pair : Nat × Option Nat) => ∃ k, k < 16 ∧ some k ≠ but ∧ (s.tenant k).st ≠ .free
        ∧ (s.tenant k).port = 2 ∧ ((s.tenant k).rid, (s.tenant k).pasid) = pair
      isM s (req 0 []) = true ∧ (s.tenant 14).st = .gone ∧ (s.tenant 14).port = 2
      ∧ taken (some 14) (65535, none) ∧ ¬taken (some 14) (65535, some (2 ^ 20 - 1)) ∧ ¬taken none (65535, some (2 ^ 20 - 1))
      ∧ (∃ k, k < 16 ∧ numberFree s 2 k = true) ∧ 14 ≠ 15 ∧ (s.channel 15).accepted.length < 16 ∧ (s.port 2).st = .rollCall
      ∧ (s.tenant 15).st = .live)
    ∧ (∀ k, k < 16 → numberFree { stMan .ready .live with tenants := (List.range 16).map fun i =>
        (i, { Tenant.free with st := .live, port := 2, rid := i }) } 2 k = false)
    ∧ (let s := stMan .rollCall .live
      tenantsOn s 2 .gone = [] ∧ tenantsOn s 2 .destroying = [])
    ∧ (let s := stMan .ready .destroying
      (s.tenant 14).st = .destroying ∧ ctxsOf s 14 = [] ∧ queuesOf s 14 = [] ∧ ∀ x ∈ s.prism.sets, x.tenant ≠ 14) := by
  refine ⟨requested_all ?_, ?_⟩ <;> decide +kernel

def portAt (st : PortSt) : Port := { Port.reset with st := st }
def stPort (p : Port) (t : List (Nat × Tenant)) : State := { stD with
  ports := [(2, p)], tenants := t, cfg := { stD.cfg with bifurcation := 2 }, boot := { stD.boot with stage := 6 }
  power := { stD.power with on := [0x9A] } }
def ten (st : TenantSt) (rid : Nat) : Tenant := { Tenant.free with st := st, port := 2, rid := rid }

theorem witness_PortLinks :
    (portAt .ready).up = true ∧ (portAt .ready).night = false ∧ ({ portAt .ready with night := true }).night = true
    ∧ (portAt .down).grace = false ∧ ({ portAt .down with night := true, grace := true }).grace = true
    ∧ (let s := stPort (portAt .down) []
      (s.port 2).up = false ∧ 2 ≤ s.cfg.bifurcation ∧ s.boot.stage = 6 ∧ domainOn s (0x98 + 2) = true ∧ (s.port 2).night = false)
    ∧ (let s := stPort { portAt .down with night := true } [(15, ten .live 1)]
      (s.port 2).night = true ∧ tenantsOn s 2 .live ≠ [] ∧ tenantsOn s 2 .gone = [] ∧ tenantsOn s 2 .destroying = [])
    ∧ (let s := stPort { portAt .calling with rcBind := 0x1FFFF, rcPasid := 0xFFFFF } [(15, ten .gone 1)]
      let x := s.port 2
      (x.rcWait = none ∧ s.ranger.up = true ∧ x.up = true ∧ x.st = .calling ∧ x.manager = none)
      ∧ x.rcBind.toNat % 65536 = 65535 ∧ x.rcBind.getLsbD 16 = true ∧ x.rcPasid.toNat % 2 ^ 20 = 0xFFFFF
      ∧ (¬∃ k, k < 16 ∧ (s.tenant k).st ≠ .free ∧ (s.tenant k).port = 2 ∧ (s.tenant k).rid = 65535 ∧ (s.tenant k).pasid = some 0xFFFFF)
      ∧ managerNumber s 2 = some 0 ∧ tenantsOn s 2 .gone ≠ [])
    ∧ (let s := stPort { portAt .calling with rcBind := 1 } [(15, ten .gone 1)]
      ∃ k, k < 16 ∧ (s.tenant k).st ≠ .free ∧ (s.tenant k).port = 2 ∧ (s.tenant k).rid = 1 ∧ (s.tenant k).pasid = none)
    ∧ (let s := stPort (portAt .rollCall) []
      (s.port 2).st = .rollCall ∧ ∀ t, t < 16 → (s.tenant t).port = 2 → (s.tenant t).st = .free)
    ∧ (2047 < 2048 ∧ 2047 ∉ (portAt .ready).msixOpen
      ∧ ({ portAt .ready with msixEn := true, busMaster := true, msixPend := [2047] }).sends = true ∧ (portAt .ready).sends = false)
    ∧ (paKind (0xAFFFFFFFF8 / 8 * 8) = .host 2 0xFFFFFFFF8) := by decide +kernel

/-- Context 254 is tenant 14's. -/
def stCx (st : CtxSt) : State := { stQ with ctxs := [(255, { ctx0 with st := st }), (254, { ctx0 with tenant := 14 })] }
def ctxReq (root : Nat) : Req :=
  req 12 (bytesOf [(1, 2), (1, 0), (2, 16383), (2, root), (2, if root = 4094 then 1 else 3), (4, 0), (2, 4095), (2, 3), (8, 65280),
    (8, 2 ^ 48 - 32), (4, 1048576), (4, 4096), (8, 2 ^ 48 - 16)])
def ctxListed : List (Nat × Nat) := [(0, 1), (2, 2), (4, 2), (6, 2), (8, 4), (12, 2), (14, 2), (16, 8), (24, 8), (32, 4), (36, 4), (40, 8)]

theorem witness_Contexts_create :
    (∀ e ∈ [(ctxReq 4094, 12, ctxListed)], Requested { stQ with fences := [(16383, fn 15 0)] } e.1 e.2.1 e.2.2)
    ∧ (let s := { stQ with fences := [(16383, fn 15 0)] }
      let p := reqField (ctxReq 4094)
      p 0 1 = 2 ∧ nameLive s (p 4 2) (p 6 2) = true ∧ nameLive s (p 12 2) (p 14 2) = true ∧ p 16 8 + 256 = (s.obj (p 12 2)).size
      ∧ p 24 8 % 32 = 0 ∧ p 24 8 < 2 ^ 48 ∧ p 32 4 = 1048576 ∧ p 36 4 = 4096 ∧ p 40 8 % 16 = 0 ∧ p 40 8 < 2 ^ 48
      ∧ (p 2 2 = 16383 ∧ (s.fence (p 2 2)).st ≠ .free)
      ∧ (objRight (s.obj (p 4 2)) 15 ≠ 0 ∧ 2 ≤ objRight (s.obj (p 12 2)) 15 ∧ 2 ≤ fenceRight (s.fence (p 2 2)) 15)
      ∧ fenceRight (stQ.fence 16383) 15 < 2 ∧ objGone s (p 4 2) = false ∧ objGone s (p 12 2) = false)
    ∧ (∃ k, k < 256 ∧ (stQ.ctx k).st = .free)
    ∧ (∀ k, k < 256 → ({ stQ with ctxs := (List.range 256).map fun i => (i, ctx0) }.ctx k).st ≠ .free) := by
  refine ⟨requested_all ?_, ?_, ⟨0, ?_⟩, fun k hk => ?_⟩
  · decide +kernel
  · decide +kernel
  · decide +kernel
  · have e := tget_all (n := 256) (fun _ => ctx0) Ctx.free hk
    simp only [State.ctx]
    rw [e]
    decide

theorem witness_Contexts_own :
    (∀ e ∈ [(req 1 (bytesOf [(2, 255), (2, 0)]), 1, [(0, 2)]), (req 1 (bytesOf [(2, 254), (2, 0)]), 1, [(0, 2)]),
      (req 8 (bytesOf [(2, 255), (2, 0), (4, 1048576), (8, 2 ^ 48 - 32), (8, 2 ^ 48 - 16), (4, 4096), (4, 0)]), 8,
        [(0, 2), (4, 4), (8, 8), (16, 8), (24, 4)]),
      (req 6 (bytesOf [(2, 255), (6, 0), (8, 4096), (8, 4096)]), 6, [(0, 2), (8, 8), (16, 8)])], Requested (stCx .live) e.1 e.2.1 e.2.2)
    ∧ ((stCx .live).ctx 255).st = .live ∧ ((stCx .live).ctx 255).tenant = 15 ∧ ((stCx .live).ctx 254).tenant ≠ 15
    ∧ ((stCx .live).ctx 254).st ≠ .free ∧ ((stCx .live).channel 15).accepted.length < 16 ∧ ((stCx .resetting).ctx 255).st = .resetting
    ∧ (¬∃ e ∈ (stCx .live).cmds, e.2.ctx = 255 ∧ (e.2.kind = .dispatch ∨ e.2.kind = .cut ∨ e.2.kind = .render))
    ∧ (∃ e ∈ stCmd.cmds, e.2.ctx = 255 ∧ (e.2.kind = .dispatch ∨ e.2.kind = .cut ∨ e.2.kind = .render)) := by
  refine ⟨requested_all ?_, ?_⟩ <;> decide +kernel

theorem witness_Contexts_states :
    ((stCx .faulted).ctx 255).st = .faulted
    ∧ (let s := { stCx .resetting with queues := [(1023, { queue0 with st := .stopped })] }
      (s.ctx 255).st = .resetting ∧ (s.queue 1023).ctx = 255 ∧ (s.queue 1023).st = .stopped)
    ∧ (let s := { stCx .destroying with queues := [] }
      (s.ctx 255).st = .destroying ∧ ∀ e ∈ s.queues, e.2.ctx = 255 → e.2.st = .free)
    ∧ (let s := { stQ with channels := [(15, { chan0 with accepted := [⟨0x209, 0, 7, tlbArg 255 4096 4096⟩] })] }
      ∃ ch, ch < 17 ∧ ∃ a ∈ (s.channel ch).accepted, a.opcode = 0x209 ∧ a.arg = tlbArg 255 4096 4096) :=
  ⟨by decide +kernel, by decide +kernel, by decide +kernel, 15, by decide, by decide +kernel⟩

def queueReq (door : Nat) : Req :=
  req 8 (bytesOf [(2, 255), (1, door), (1, 7), (2, 4095), (2, 3), (8, 0), (4, 65536), (2, 4095), (2, 3), (8, 65520)])

theorem witness_QueueRequests :
    (∀ e ∈ [(queueReq 255, 8, [(0, 2), (2, 1), (3, 1), (4, 2), (6, 2), (8, 8), (16, 4), (20, 2), (22, 2), (24, 8)]),
      (req 1 (bytesOf [(2, 1023), (2, 0)]), 1, [(0, 2)]), (req 2 (bytesOf [(1, 0), (1, 0), (2, 1023), (4, 1000)]), 2, [(0, 1), (2, 2), (4, 4)]),
      (req 2 (bytesOf [(1, 1), (1, 0), (2, 255), (4, 0)]), 2, [(0, 1), (2, 2), (4, 4)])], Requested stQ e.1 e.2.1 e.2.2)
    ∧ (let p := reqField (queueReq 255)
      let s := stQ
      p 0 2 < 256 ∧ (s.ctx (p 0 2)).st ≠ .free ∧ p 3 1 = 7 ∧ nameLive s (p 4 2) (p 6 2) = true ∧ p 8 8 % 4096 = 0
      ∧ p 8 8 + p 16 4 = (s.obj (p 4 2)).size ∧ (12 ≤ 16 ∧ 16 ≤ 24 ∧ p 16 4 = 2 ^ 16) ∧ nameLive s (p 20 2) (p 22 2) = true
      ∧ p 24 8 % 16 = 0 ∧ p 24 8 + 16 = (s.obj (p 20 2)).size ∧ (s.ctx (p 0 2)).tenant = 15 ∧ (s.obj (p 4 2)).owner = 15
      ∧ 2 ≤ objRight (s.obj (p 20 2)) 15 ∧ objGone s (p 4 2) = false ∧ (s.ctx (p 0 2)).st ≠ .destroying
      ∧ (¬∃ e ∈ queuesOf s 15, e.2.door = 255) ∧ (∃ e ∈ queuesOf s 15, e.2.door = 511) ∧ (s.ctx (p 0 2)).heritage = false)
    ∧ (let s := { stQ with ctxs := [(255, { ctx0 with heritage := true })], queues := (List.range 4).map fun i => (i, { queue0 with door := i }) }
      (s.ctx 255).heritage = true ∧ 4 ≤ ((queuesOf s 15).filter fun e => e.2.ctx == 255).length)
    ∧ ((stQ.queue 1023).st ≠ .free ∧ (stQ.ctx (stQ.queue 1023).ctx).tenant = 15 ∧ (stQ.queue 1023).service = false
      ∧ ({ queue0 with service := true }).service = true ∧ (stQ.channel 15).accepted.length < 16)
    ∧ (∃ k, k < 1024 ∧ (stQ.queue k).st = .free)
    ∧ (∀ k, k < 1024 → ({ stQ with queues := (List.range 1024).map fun i => (i, queue0) }.queue k).st ≠ .free)
    ∧ (let s := { stQ with queues := [(1023, { queue0 with st := .draining })] }
      (s.queue 1023).st = .draining ∧ ∀ e ∈ s.cmds, e.2.queue = 1023 → workLeft s e.1 = false)
    ∧ (let s := { stCmd with cores := [(47, core0 grp0)] }
      ∃ e ∈ s.cmds, e.2.queue = 1023 ∧ workLeft s e.1 = true) := by
  refine ⟨requested_all ?_, ?_, ?_, ?_, ⟨0, ?_⟩, fun k hk => ?_, ?_⟩
  · decide +kernel
  · decide +kernel
  · decide +kernel
  · decide +kernel
  · decide +kernel
  · have e := tget_all (n := 1024) (fun _ => queue0) Queue.free hk
    simp only [State.queue]
    rw [e]
    decide
  · decide +kernel

/-- Command 7 runs on core 47; command 8, of another tenant, waits. -/
def stS (c : Core) : State := { stD with
  ctxs := [(255, ctx0), (254, { ctx0 with tenant := 14 })]
  cores := [(47, c)], cmds := [(7, { cmd0 .dispatch with nextWg := 2 }), (8, { cmd0 .dispatch with ctx := 254, queue := 1022 })] }
def pre0 : Preempt := ⟨47, 7, 8, false, false, false, .tile⟩
def saved0 : Saved := ((savePlan (stS { core0 grp0 with saving := [7] }) 47).1).headD
  ⟨0, 0, 0, 0, 0, 0, [], [], false, .empty, 0, 0, .empty, none, none, [], false, [], none⟩

theorem witness_Scheduling_preempt :
    (let s := { stS (core0 grp0) with sched := { Sched.reset with preempts := [pre0] } }
    s.sched.preempts.find? (fun x => x.core == 47 && x.victim == 7 && !x.instr) = some pre0 ∧ pre0.noEscalation = false
    ∧ pre0.inForce s = true ∧ { pre0 with cause := .priority }.inForce s = false
    ∧ 7 ∈ (s.core 47).cmdsOn ∧ (s.core 47).saving = [] ∧ framesFree s ≠ 0
    ∧ framesFree { s with cfg := { s.cfg with saveFrames := 0 } } = 0)
    ∧ (let s := stS (core0 grp0)
      let ws := (waitersFor s 47).filter (· ≠ 7)
      let tenant := fun i => (s.ctx (cmdOf s i).ctx).tenant
      7 ∈ (s.core 47).cmdsOn ∧ 7 ∉ (s.core 47).saving ∧ stopAsked s 47 7 = false ∧ 1 ≤ classOf s 7 ∧ classOf s 7 < 9
      ∧ (∀ i ∈ ws, classOf s i ≤ classOf s 7) ∧ s.cfg.quantumUs ≠ 0 ∧ ∃ w ∈ ws, classOf s w = classOf s 7 ∧ tenant w ≠ tenant 7)
    ∧ (let s := stS { core0 grp0 with saving := [7] }
      (s.core 47).saving ≠ [] ∧ (s.core 47).requeue = [] ∧ (∀ i ∈ (s.core 47).saving, badState (s.core 47) i = false) ∧ (s.ctx (cmdOf s 7).ctx).st = .live
      ∧ badState { core0 grp0 with saving := [7], badReg := [63 * 8192] } 7 = true)
    ∧ (let s := { stS .reset with sched := { Sched.reset with saved := [saved0] } }
      s.sched.saved[0]? = some saved0 ∧ (s.ctx saved0.ctx).st = .live ∧ restoreTo s saved0 = some 47
      ∧ (restoreOn (s.core 47) saved0).isSome = true ∧ (restoreOn (s.core 47) saved0).map Core.requeue = some []
      ∧ saved0.hurt s = false ∧ saved0.hurt { s with mem := { s.mem with poison := [frameBase s saved0.slot / 8] } } = true)
    ∧ restoreTo { stS .reset with sched := { Sched.reset with saved := [saved0] }, power := .reset } saved0 = none := by decide +kernel

theorem witness_Scheduling_watchdogs :
    (let s := { stS (core0 grp0) with queues := [(1023, { queue0 with wdLimit := 1000 })], ctxs := [(255, { ctx0 with wdLimit := 1000 })] }
    oldestCmd s 1023 = some (7, { cmd0 .dispatch with nextWg := 2 }) ∧ (s.queue 1023).st = .live ∧ (s.queue 1023).wdLimit ≠ 0
    ∧ (∃ e ∈ s.cmds, e.2.queue = 1023 ∧ (e.2.kind = .fenceWait ∨ residentCmd s e.1 = true))
    ∧ tget? s.cmds 7 = some { cmd0 .dispatch with nextWg := 2 } ∧ (s.ctx 255).st = .live ∧ (s.ctx 255).wdLimit ≠ 0
    ∧ residentCmd s 7 = true)
    ∧ (stD.queue 1023).wdLimit = 0 ∧ (stD.ctx 255).wdLimit = 0 := by decide +kernel

def objReq (host : Nat) (n va : Nat) : Req := req 6 (bytesOf [(1, host), (7, 0), (8, n), (8, va)])
def stO : State := { stQ with boot := { stQ.boot with dramBytes := 2 ^ 36 } }

theorem witness_ObjectRequests :
    (∀ e ∈ [(objReq 0 65536 0, 6, [(0, 1), (8, 8), (16, 8)]), (objReq 0 (2 ^ 36) 0, 6, [(0, 1), (8, 8), (16, 8)]),
      (objReq 1 65536 0xAFFFFF0000, 6, [(0, 1), (8, 8), (16, 8)]), (req 1 (bytesOf [(2, 4095), (2, 3)]), 1, [(0, 2), (2, 2)]),
      (req 2 (bytesOf [(2, 4095), (2, 3), (1, 14), (1, 2), (2, 0)]), 2, [(0, 2), (2, 2), (4, 1), (5, 1)]),
      (req 2 (bytesOf [(2, 4095), (2, 3), (1, 14), (3, 0)]), 2, [(0, 2), (2, 2), (4, 1)])], Requested stO e.1 e.2.1 e.2.2)
    ∧ (∃ k, freeObj stO = some k)
    ∧ freeObj { stO with objs := (List.range 65536).map fun i => (i, { Obj.reset with st := .live }) } = none
    ∧ (rangeFree stO 0x20000 65536 = true ∧ 0x20000 % baseAlign 65536 = 0 ∧ (stO.channel 15).accepted.length < 16
      ∧ rangeFree stQ 0x20000 65536 = false ∧ hostRange (stO.tenant 15).port 0xAFFFFF0000 65536 = true)
    ∧ ((stO.obj 4095).st = .live ∧ (stO.obj 4095).gen = 3 ∧ (stO.obj 4095).owner = 15 ∧ (stO.obj 4095).host = false
      ∧ (14 < 16 ∧ (stO.tenant 14).st ≠ .free) ∧ objHeld stO 4095 = true ∧ objHeld stO 4094 = false)
    ∧ (let s := { stD with objs := [(4093, { Obj.reset with st := .retiring, points := [(1023, 100), (5, 9)] })]
                           queues := [(1023, { queue0 with read := 101, last := 101 })] }
      let x := s.obj 4093
      x.st = .retiring ∧ objHeld s 4093 = false ∧ (∀ e ∈ x.points, pointPassed s e.1 e.2 = true) ∧ prismNames s 4093 x.gen = false
      ∧ serviceNames s 4093 = false)
    ∧ (let s := { stD with objs := [(4095, { Obj.reset with st := .retiring, points := [(1023, 300)] })] }
      (s.obj 4095).st = .retiring ∧ ∃ e ∈ (s.obj 4095).points, pointPassed s e.1 e.2 = false) := by
  refine ⟨requested_all ?_, oldestFree_some (k := 0) (by decide) ?_, oldestFree_none fun k hk => ?_, ?_⟩
  · decide +kernel
  · decide +kernel
  · have e := tget_all (n := 65536) (fun _ => { Obj.reset with st := .live }) Obj.reset hk
    simp only [State.obj]
    rw [e]
    rfl
  · decide +kernel

/-- Tenant 15 is the display authority when `on`. -/
def stA (on : Bool) (pr : Prism) : State := { stQ with
  cfg := { stQ.cfg with displayAuth := if on then some (2, 15) else none }, prism := pr }
def prA : Prism := { Prism.reset with outGrants := [(3, 15)], layerGrants := [(63, 14), (62, 15)] }

theorem witness_GrantRequests :
    (∀ e ∈ [(req 1 (bytesOf [(1, 3), (1, 14), (2, 0)]), 1, [(0, 1), (1, 1)]), (req 1 (bytesOf [(1, 3), (3, 0)]), 1, [(0, 1)]),
      (req 1 (bytesOf [(1, 3), (1, 14), (2, 0x8000)]), 1, [(0, 1), (1, 1), (2, 2)]), (req 1 (bytesOf [(1, 3), (1, 0), (2, 0xC000)]), 1, [(0, 1), (2, 2)]),
      (req 0 [], 0, []), (req 1 (bytesOf [(1, 0), (1, 15), (2, 255)]), 1, [(0, 1), (1, 1), (2, 2)]),
      (req 1 (bytesOf [(1, 1), (1, 255), (2, 0)]), 1, [(0, 1), (1, 1), (2, 2)]), (req 1 (bytesOf [(1, 1), (1, 31), (2, 0)]), 1, [(0, 1), (1, 1)])],
      Requested (stA true prA) e.1 e.2.1 e.2.2)
    ∧ (isA (stA true prA) (req 0 []) = true ∧ isA (stA false prA) (req 0 []) = false ∧ (14 < 16 ∧ ((stA true prA).tenant 14).st ≠ .free)
      ∧ outOwner (stA true prA) 3 = some 15 ∧ outOwner (stA true .reset) 3 = none)
    ∧ (let s := stA true prA
      layerOwner s 3 15 = some 14 ∧ layerOwner s 3 14 = some 15
      ∧ (∃ k, k < 16 ∧ (0xC000 : Nat).testBit k = true ∧ (layerOwner s 3 k).isSome = true ∧ layerOwner s 3 k ≠ some 14)
      ∧ (∀ k, k < 16 → (0x8000 : Nat).testBit k = true → (layerOwner s 3 k).isSome = true → layerOwner s 3 k = some 14)
      ∧ (¬ ∀ k, k < 16 → (0x8000 : Nat).testBit k = true → (layerOwner s 3 k).isSome = true → layerOwner s 3 k = some 15))
    ∧ ((s : State) → s = stA true prA → (s.ctx 255).st ≠ .free ∧ (s.ctx 255).tenant = 15 ∧ engineFree s 0 15 = true ∧ 15 < engineCount 0
      ∧ engineFree s 1 0 = true ∧ engineOwner s 1 31 ≠ some 15)
    ∧ (let s := { stA true prA with chipGrants := [(15, (15, 255))], blazeGrants := (List.range 32).map fun i => (i, 15) }
      (tget? s.chipGrants 15).map Prod.fst = some 15 ∧ tget? s.blazeGrants 31 = some 15 ∧ engineFree s 0 15 = false
      ∧ (s.engCtx 15).job.isSome = false ∧ (s.bz 31).attached.isSome = false ∧ ∀ i, i < engineCount 1 → engineFree s 1 i = false) := by
  refine ⟨requested_all ?_, ?_, ?_, fun s hs => ?_, ?_⟩
  · decide +kernel
  · decide +kernel
  · decide +kernel
  · subst hs; decide +kernel
  · decide +kernel

def graph0 (loaded : Bool) (run : Option GraphRun) : Graph := ⟨15, 255, 1023, 0x1000, 64, loaded, run⟩
def grun0 : GraphRun := ⟨true, none, 0, 1, 0, 0, 0, 0, 0, 0, false, none, 0, 0, false⟩
def act0 (ph : ActPhase) : Activation := ⟨ph, 1, 0, 0x703, 15, false, .default, false, 0, false, 0⟩
def stGr (g : Graph) (act : Option Activation) : State := { stQ with
  fences := [(16383, fn 15 4)], ranger := { stQ.ranger with graphs := [(63, g)], act := act }
  queues := [(1023, { queue0 with read := 256 })] }

theorem witness_ServiceRequests_graphs :
    (∀ e ∈ [(req 6 (bytesOf [(2, 255), (2, 1023), (4, 0), (8, 0x1000), (8, 64)]), 6, [(0, 2), (2, 2), (8, 8), (16, 8)]),
      (req 16 (bytesOf [(1, 63), (1, 3), (2, 16383), (4, 65536), (8, 1), (8, 2), (8, 3), (8, 4), (8, 5), (8, 6), (8, 256)]), 16,
        [(0, 1), (1, 1), (2, 2), (4, 4), (8, 8), (16, 8), (24, 8), (32, 8), (40, 8), (48, 8), (56, 8)]),
      (req 1 (bytesOf [(1, 63), (3, 0)]), 1, [(0, 1)])], Requested (stGr (graph0 true none) none) e.1 e.2.1 e.2.2)
    ∧ (let s := stGr (graph0 true none) none
      let x := s.queue 1023
      (s.ctx 255).st ≠ .free ∧ (s.ctx 255).tenant = 15 ∧ activating s = false ∧ activating (stGr (graph0 true none) (some (act0 .copy))) = true
      ∧ (x.st = .live ∧ x.ctx = 255 ∧ x.read = x.last ∧ x.service = false) ∧ queue0.read ≠ queue0.last
      ∧ (∃ g, g < 64 ∧ s.graph? g = none) ∧ s.graph? 63 = some (graph0 true none) ∧ (s.ctx x.ctx).st = .live
      ∧ (16383 < 16384 ∧ (s.fence 16383).st = .live ∧ 2 ≤ fenceRight (s.fence 16383) 15))
    ∧ (∀ g, g < 64 → ({ stQ with ranger := { stQ.ranger with graphs := (List.range 64).map fun i => (i, graph0 true none) } }.graph? g).isSome)
    ∧ (stGr (graph0 true (some grun0)) none).graph? 63 = some (graph0 true (some grun0)) := by
  refine ⟨requested_all ?_, ?_⟩ <;> decide +kernel

/-- The load of a package ends: its bytes read, or its first page not there. What packageHead tells is a constant that the
spec leaves open, so its three cases, which leave out none, have no witnesses of their own. -/
theorem witness_ServiceRequests_load :
    (let s := stGr (graph0 false none) none
    s.graph? 63 = some (graph0 false none) ∧ s.ranger.up = true ∧ (s.ctx 255).st = .live ∧ isEx (vread s 255 0x1000 64) = true)
    ∧ (let s := { stGr (graph0 false none) none with mem := .reset }
      isEx (vread s 255 0x1000 64) = false) := by decide +kernel

theorem witness_ServiceRequests_transfer :
    (∀ e ∈ [(req 16 (bytesOf [(1, 2), (1, 7), (1, 15), (1, 31), (2, 4094), (2, 1), (8, 0), (2, 4095), (2, 3), (4, 0), (8, 0), (8, 65536), (8, 65536),
        (2, 16383), (6, 0), (8, 9)]), 16,
      [(0, 1), (1, 1), (2, 1), (3, 1), (4, 2), (6, 2), (8, 8), (16, 2), (18, 2), (24, 8), (32, 8), (40, 8), (48, 2), (56, 8)])],
      Requested stQ e.1 e.2.1 e.2.2)
    ∧ (let s := { stQ with chipGrants := [(15, (15, 255))], blazeGrants := [(31, 15)], fences := [(16383, fn 15 4)] }
      (tget? s.chipGrants 15).map Prod.fst = some 15 ∧ tget? s.blazeGrants 31 = some 15 ∧ (s.bz 31).attached = none
      ∧ nameLive s 4094 1 = true ∧ nameLive s 4095 3 = true ∧ 65536 ≤ (s.obj 4094).size ∧ 65536 ≤ (s.obj 4095).size
      ∧ objRight (s.obj 4094) 15 ≠ 0 ∧ 2 ≤ objRight (s.obj 4095) 15 ∧ objGone s 4094 = false ∧ objGone s 4095 = false
      ∧ ((s.fence 16383).st = .live ∧ 2 ≤ fenceRight (s.fence 16383) 15) ∧ (s.engCtx 15).job = none) := by
  refine ⟨requested_all ?_, ?_⟩ <;> decide +kernel

def comp0 : Compose := ⟨15, 0xC000, 4095, 3, 64512, some 16383, 5, []⟩

theorem witness_CompositionService :
    (∀ e ∈ [(req 6 (bytesOf [(1, 3), (1, 0), (2, 0x4000), (2, 4095), (2, 3), (8, 64512), (2, 16383), (1, 1), (5, 0)]), 6,
        [(0, 1), (2, 2), (4, 2), (6, 2), (8, 8), (16, 2), (18, 1)]), (req 1 (bytesOf [(1, 3), (3, 0)]), 1, [(0, 1)])],
      Requested (stA true prA) e.1 e.2.1 e.2.2)
    ∧ (let s := { stA true prA with fences := [(16383, fn 15 4)] }
      nameLive s 4095 3 = true ∧ 64512 + 1024 = (s.obj 4095).size ∧ (s.fence 16383).st = .live
      ∧ (∀ k, k < 16 → (0x4000 : Nat).testBit k = true → layerOwner s 3 k = some 15)
      ∧ (¬ ∀ k, k < 16 → (0x8000 : Nat).testBit k = true → layerOwner s 3 k = some 15)
      ∧ (2 ≤ objRight (s.obj 4095) 15 ∧ 2 ≤ fenceRight (s.fence 16383) 15) ∧ ¬ 2 ≤ fenceRight (fn 14 4) 15 ∧ objGone s 4095 = false)
    ∧ (let s := { stQ with
        prism := { prA with outs := [(3, { Output.reset with src := .compose })], compose := [(63, comp0)] }
        mem := { stQ.mem with dram := memOf (0xFFFFF0000 + 64512 + 64 * 15) [7] } }
      (s.output 3).src ≠ .off ∧ s.prism.compose = [(16 * 3 + 15, comp0)] ∧ objReachable s comp0.obj comp0.gen = true
      ∧ (let table := physRead s false ((s.obj 4095).base + 64512) 1024
        let gen := fun (k : Nat) => fieldAt ((table.1.drop (64 * k)).take 64) 0 4
        (15 < 16 ∧ comp0.mask.testBit 15 = true ∧ 15 ∉ [14] ∧ tget? comp0.applied 15 ≠ some (gen 15))
        ∧ ∀ k, ¬(k < 16 ∧ ({ comp0 with mask := 0 }).mask.testBit k = true)) ) := by
  refine ⟨requested_all ?_, ?_, ?_, ?_, ?_, ?_, ?_⟩
  · decide +kernel
  · decide +kernel
  · decide +kernel
  · decide +kernel
  · decide +kernel
  · decide +kernel
  · rintro k ⟨_, h⟩
    simp at h

/-- An image of a Kreog section and an empty configuration section, for bank 1 and, with FLOOR 9, for bank 0. -/
def image (version floor lo : Nat) : List Byte :=
  bytesOf [(4, 0x4E39494D), (2, 1), (2, 2), (4, version), (4, floor), (4, 0x30000), (4, 7), (4, 112), (2, lo), (2, 9), (2, 5), (1, 0xB0), (29, 0),
    (2, 1), (2, 0), (4, 96), (4, 16), (4, 0), (2, 2), (2, 0), (4, 112), (4, 0), (4, 0), (16, 0x55)]
def stIm (new : List Byte) (st : BankSt) : State :=
  let s := { stMan .ready .live with cfg := { stQ.cfg with firmwarePorts := 7 } }
  let s1 := { s with flash := memOf (bankBase 0) ((image 9 9 1).map fun b => ~~~b) ++ memOf (bankBase 1) (new.map fun b => ~~~b) }
  setBank { s1 with mem := { s1.mem with dram := memOf 0xFFFFF0100 (image 10 9 1) } } 1 st (imgVersion new)

theorem witness_ImageRequests_requests :
    (∀ e ∈ [(req 4 (bytesOf [(2, 4095), (2, 3), (4, 112), (8, 256)]), 4, [(0, 2), (2, 2), (4, 4), (8, 8)]), (req 0 [], 0, []),
      (req 2 (bytesOf [(1, 3), (1, 0), (2, 60000), (4, 10)]), 2, [(0, 1), (2, 2), (4, 4)]), (req 1 (bytesOf [(1, 1), (3, 0)]), 1, [(0, 1)])],
      Requested (stIm (image 10 9 1) .staged) e.1 e.2.1 e.2.2)
    ∧ (let s := stIm (image 10 9 1) .staged
      isF s (req 0 []) = true ∧ isF stQ (req 0 []) = false ∧ nameLive s 4095 3 = true ∧ 256 + 112 ≤ (s.obj 4095).size
      ∧ objRight (s.obj 4095) 15 ≠ 0 ∧ objGone s 4095 = false ∧ s.ranger.act = none ∧ s.ranger.stage = none ∧ s.boot.bank = 0
      ∧ (s.channel 15).accepted.length < 16) := by
  refine ⟨requested_all ?_, ?_⟩ <;> decide +kernel

/-- A good image in the object, one cut short, and one whose words are poisoned. -/
theorem witness_ImageRequests_stage :
    let s := stIm (image 10 9 1) .staged
    let u := takeReq s (req 4 []) true
    isEx (locRead u (.obj 4095) 256 112) = true
    ∧ stageFail (exTo ([], u) (locRead u (.obj 4095) 256 112)).2 (exTo ([], u) (locRead u (.obj 4095) 256 112)).1 112 9 = none
    ∧ (stageFail u (image 10 9 1) 96 9).isSome = true
    ∧ isEx (locRead { u with mem := { u.mem with poison := [0xFFFFF0100 / 8] } } (.obj 4095) 256 112) = false
    ∧ imgFloor (bankImage s 0) = 9 := by decide +kernel

theorem witness_ImageRequests_banks :
    (let s := stIm (image 10 9 1) .staged
    bankSt s 1 = .staged ∧ imgVersion (bankImage s 1) = 10 ∧ activateFail (bankImage s 0) (bankImage s 1) false = none
    ∧ (activateFail (bankImage s 0) (image 10 9 6) false).isSome = true)
    ∧ (let s := stIm (image 10 9 1) .good
      bankSt s 1 = .good ∧ imgFloor (bankImage s 0) ≤ imgVersion (bankImage s 1)
      ∧ (s.ranger.wentBack = false ∧ ({ s.ranger with wentBack := true }).wentBack = true))
    ∧ (let s := stIm (image 8 8 1) .good
      imgVersion (bankImage s 1) < imgFloor (bankImage s 0))
    ∧ ((act0 .probation).phase = .probation ∧ (act0 .copy).phase ≠ .probation ∧ (act0 .probation).by_ = 15) := by decide +kernel

theorem witness_ImageRequests_done :
    let s := { stQ with ranger := { stQ.ranger with stage := some ⟨4095, image 10 9 1, 1⟩ } }
    s.ranger.stage = some ⟨4095, image 10 9 1, 1⟩ ∧ s.ranger.up = true := by decide +kernel

def stAct (st : RangerSt) (ph : ActPhase) (graphs : Tbl Graph) : State := { stD with
  ranger := { Ranger.reset with st := st, act := some (act0 ph), graphs := graphs } }

theorem witness_Activations :
    ((stAct .run .copy []).ranger.up = true ∧ (act0 .copy).phase = .copy)
    ∧ (let s := stAct .run .wait [(63, graph0 true (some grun0))]
      holding s = false ∧ s.ranger.up = true)
    ∧ (let s := stAct .run .wait []
      holding s = true ∧ (∀ n, n < 4 → (s.output n).src = .hold ∨ (s.output n).src = .off) ∧ s.ranger.up = true)
    ∧ (stAct .switch .switch []).ranger.st = .switch ∧ (act0 .back).phase ≠ .switch ∧ (stAct .probation .probation []).ranger.st = .probation
    ∧ ({ act0 .probation with commitReq := true }).commitReq = true ∧ (act0 .probation).committed = false
    ∧ (stAct .restarting .back []).ranger.st = .restarting
    ∧ ((stAct .run .copy []).ranger.st ≠ .boot ∧ (stAct .run .copy []).ranger.st ≠ .stopped)
    ∧ (let s := { stD with ranger := { Ranger.reset with st := .restarting } }
      s.ranger.st = .restarting ∧ s.ranger.act = none) := by decide +kernel

/-- Output 3 composes; layer 63 is tenant 15's. -/
def outC : Output := { Output.reset with src := .compose, leadAct := 1, mode := ⟨8, 8, 0, 0⟩ }
def prF (sets : List FlipSet) : Prism := { prA with outs := [(3, outC)], layerGrants := [(63, 15)], sets := sets }
def set0 (snap : Tbl LayerRegs) (ready : Bool) : FlipSet := ⟨5, 15, 3, 9, none, 0, snap, ready, 0⟩
/-- A layer that waits for fence 16383 to reach 9 and names queue 1023. -/
def lay0 : LayerRegs := { LayerRegs.reset with ctl := 1, sync := 0x0000BFFF000007FF, acq := 9 }
def stFl (sets : List FlipSet) : State := { stQ with prism := prF sets, fences := [(16383, fn 15 4)] }

theorem witness_Flips :
    (let s := stFl []
    let u := Submit.ofNat 0x1234000000000000
    let v := Submit.ofNat 0x12340000000C8000
    accUp s acc0 = true ∧ accTenant s acc0 = some 15 ∧ submitCheck s 15 u none = some (0x12, 1) ∧ submitCheck s 15 v none = none
    ∧ v.output = 3 ∧ doneOf (s.page 15) = none ∧ ∀ k ∈ v.layers, (s.layer v.output k).pend.acqEn = false)
    ∧ (let s := stFl [set0 [(15, .reset)] true]
      (s.output 3).src = .compose ∧ holdAsked s = false ∧ (s.output 3).toKeeper = false ∧ (s.prism.sets.filter fun x => x.output == 3) = [set0 [(15, .reset)] true]
      ∧ (set0 [(15, .reset)] true).ready = true ∧ ((set0 [(15, .reset)] true).snap.map Prod.fst).Nodup)
    ∧ (let s := { stFl [set0 [(15, lay0)] false] with prism := { prF [set0 [(15, lay0)] false] with drop := [62] } }
      (∀ x ∈ s.prism.sets.filter fun x => x.output == 3, x.ready = false) ∧ 16 * 3 + 14 ∈ s.prism.drop ∧ 16 * 3 + 15 ∉ s.prism.drop
      ∧ bitsOf (s.output 3).leadAct.toNat 13 0 ≠ 0
      ∧ ∃ x ∈ s.prism.sets, x.output = 3 ∧ x.ready = false ∧ ∃ r ∈ x.acquires, r.queueEn = true
        ∧ (s.fence r.acqFence).outcome r.acq.toNat ≠ some 0)
    ∧ (let x := set0 [(15, lay0)] true
      let s := { stFl [x] with timer := 1 }
      s.prism.sets.filter (fun y => y.output == 3) = [x] ∧ x.ready = true ∧ (x.id, 26) ∈ [(x.id, 26)] ∧ x.mayWait 26 s = true
      ∧ x.mayWait 32 { s with timer := 2 } = false)
    ∧ (let o := { outC with src := .keeper, released := true, engineReset := true }
      o.src ≠ .off ∧ o.src = .keeper ∧ o.toKeeper = false ∧ o.released = true ∧ o.engineReset = true ∧ holdAsked (stFl []) = false ∧ ({ outC with leadDues := [9] }).leadDues.head? = some 9) := by decide +kernel

def stB (owner : Bool) (locks : List Nat) (o : Output) : State := { stQ with
  cfg := { stQ.cfg with beaconOwner := if owner then some (2, 15) else none }
  prism := { prA with outs := [(3, o)], locks := locks }, power := { stQ.power with on := [0x91] } }

theorem witness_BeaconAndKeeper :
    (beaconOwner (stB false [] outC) ≠ some 15 ∧ beaconOwner (stB true [1] outC) = some 15 ∧ 3 / 2 ∈ (stB true [1] outC).prism.locks
      ∧ 3 / 2 ∉ (stB true [0] outC).prism.locks ∧ accUp (stB true [] outC) acc0 = true ∧ accTenant (stB true [] outC) acc0 = some 15)
    ∧ ((stB true [] outC).output 3).src ≠ .off ∧ ({ outC with frame := 1 }).frame ≠ 0
    ∧ (7 < outC.mode.hActive ∧ 7 < outC.mode.vActive ∧ (7, 7) ∉ outC.under)
    ∧ (let s := stB true [] { outC with src := .keeper, engineReset := true }
      (s.output 3).src = .keeper ∧ s.ranger.up = true ∧ domainOn s (0x90 + 3 / 2) = true ∧ (s.output 3).engineReset = true) := by
  decide +kernel

/-- A region of 8,192 by 128 fills the store from offset 0 and leaves it from offset 1 (R266). -/
theorem test_beacon_region :
    (⟨1, 0x0000200000000000, 0x0080200000000000, []⟩ : BeaconRegs).ok = true
    ∧ (⟨1, 0x0000200000000001, 0x0080200000000000, []⟩ : BeaconRegs).ok = false := by decide +kernel

def stGap (s : State) : State := { s with ranger := { s.ranger with st := .boot } }

def outM : Output := { outC with mode := ⟨8, 8, 0, 0x110400000000⟩, busy := true }

theorem witness_Outputs :
    (outOwner (stB true [] outC) 3 = some 15 ∧ outOwner (stB true [] outC) 2 ≠ some 15 ∧ (Output.reset).src = .off
      ∧ 0x94 + 3 ∉ (stB true [] outC).power.nightPads ∧ outC.src ≠ .off ∧ outC.busy = false
      ∧ 0x94 + 3 ∈ ({ stQ.power with nightPads := [0x97] }).nightPads
      ∧ (stB true [] outC).ranger.up = true ∧ (stGap (stB true [] outC)).ranger.up = false
      ∧ outClosing (stB true [] outC) 3 = false
      ∧ outClosing { stB true [] outC with power := { stQ.power with dusk := [(0x97, ⟨2, [0x97], 3, [], 0xFF, 0, true⟩)] } } 3 = true)
    ∧ (outM.busy = true ∧ (0x11, 4) ∈ linkChoices outM outM.mode
      ∧ laneMb outM.iface 0x11 ≤ laneMb outM.iface outM.mode.rate ∧ 4 ≤ outM.mode.lanes)
    ∧ (({ outC with wbCtl := 1 }).wbCtl.getLsbD 0 = true ∧ outC.src = .compose)
    ∧ (hpdHeld (stB true [] outC) 3 = false ∧ hpdHeld { stB true [] outC with power := { stQ.power with padHold := [0x97] } } 3 = true)
    ∧ (outC.iface ≠ 2 ∧ outC.sink = false ∧ (List.replicate 512 (0xFF : Byte)).length = 512
      ∧ (List.replicate 16 (List.replicate 128 (0xFF : Byte))).length ≤ 16 ∧ ∀ b ∈ List.replicate 16 (List.replicate 128 (0xFF : Byte)), b.length = 128)
    ∧ ({ outC with sink := true }).sink = true
    ∧ (({ outC with auxBusy := true, aux := 0x0F04000000000000 }).auxBusy = true ∧ (0x0F04000000000000 : DWord).getLsbD 50 = true
      ∧ (List.replicate 16 (1 : Byte)).length = bitsOf (0x0F04000000000000 : DWord).toNat 59 56 + 1) := by decide +kernel

def stPw (p : Power) : State := { stMan .ready .live with power := { p with pll := true }, boot := { stD.boot with stage := 6 } }
def stand0 : Stand := ⟨6, 6, false, false, 0, none⟩
def stSt (x : Stand) (fab : Bool) : State := stPw { Power.reset with stands := [(5, x)], fabTrip := fab, fabDeep := false }

theorem witness_SagAndGovernor :
    (let s := stSt stand0 false
    s.power.pll = true ∧ (s.stand 5).trip = false ∧ (s.stand 5).deep = false ∧ s.cfg.droopDeepMv ≠ 0 ∧ s.power.fabTrip = false
    ∧ s.ranger.up = true)
    ∧ (let x := { stand0 with ladder := 12 }
      x.ladder = 12 ∧ x.deep = false ∧ (stSt x false).power.fabDeep = false)
    ∧ ({ stand0 with ladder := 8 }).ladder = 8 ∧ ({ stand0 with ladder := 7 }).ladder = 7 ∧ stand0.ladder ≠ 12
    ∧ (stSt stand0 true).power.fabTrip = true ∧ ({ stand0 with trip := true, steps := 65536 }).steps ≠ 0
    ∧ ((stPw { Power.reset with floor := true }).power.floor = true ∧ (stPw .reset).power.floor = false
      ∧ (let s := { stPw .reset with cfg := { stD.cfg with envelope := 5 } }; envelopeNow s * 500 < floorPower s)
      ∧ ¬(envelopeNow (stPw .reset) * 500 < floorPower (stPw .reset))
      ∧ (let s := stPw { Power.reset with duty := 1, stands := (List.range 6).map fun k => (k, { stand0 with gov := 12 }) }
        (s.stand 0).gov = 12 ∧ s.power.duty = 1 ∧ (envelopeNow s - 0) * 500 < 28001))
    ∧ (∀ e ∈ [(req 1 (bytesOf [(1, 56), (3, 0)]), 1, [(0, 1)])], okReq stQ e = true)
    ∧ acc0.be = 0xFF ∧ accUp stQ acc0 = true ∧ accTenant stQ acc0 = some 15 := by decide +kernel

def step0 (kind : Nat) (agents : List (DuskAgent × AgentSt)) : DuskStep := ⟨kind, [0x80], 0, agents, 0xFF, 0, false⟩
def stDu (x : DuskStep) : State := stPw { Power.reset with dusk := [(0x80, x)], on := [0x80] }

/-- An idle core and its array, a compute unit, a pad unit; a step of one unit with its agent in each of its states. -/
theorem witness_DuskAndNight_steps :
    (let s := stPw { Power.reset with on := [0x2F, 0x5F, 0x97] }
    unitAgent 0x2F = some (.core 47) ∧ 0x2F ∈ s.power.on ∧ 0x30 + 0x2F ∈ s.power.on ∧ s.ranger.up = true ∧ tget? s.power.dusk 0x100 = none
    ∧ s.power.dusk.length < 8 ∧ s.cfg.idleGateUs ≠ 0 ∧ agentAnswer s 1 (.core 47) = .ack ∧ 0x2F ∉ s.avail.testing ∧ retiring { s with maps := ⟨2 ^ 47, 2 ^ 47, 6⟩ } 0x2F = false
      ∧ retiring { s with maps := ⟨2 ^ 47, 2 ^ 47, 6⟩ } 0x5F = false ∧ retiring s 0x97 = false
    ∧ unitAgent 0x97 = some (.output 3) ∧ 0x97 ∈ s.power.on)
    ∧ (let s := stDu (step0 1 [(.chipper 0, .asked)])
      tget? s.power.dusk 0x80 = some (step0 1 [(.chipper 0, .asked)]) ∧ (step0 1 []).commit = false
      ∧ agentSt (step0 1 [(.chipper 0, .asked)]) (.chipper 0) = some .asked ∧ agentAnswer s 1 (.chipper 0) = .ack
      ∧ agentAnswer { s with engines := [(0, ⟨some ⟨7, 0, .fresh 0, 0, false⟩, 3, none⟩)] } 1 (.chipper 0) = .delay
      ∧ agentAnswer { s with power := { s.power with debug := true } } 1 .debug = .refuse dDebug)
    ∧ wanted (stDu (step0 1 [])) (.chipper 0) = false ∧ wanted { stDu (step0 1 []) with prism := { prA with outs := [(3, { Output.reset with waitEnable := true })] } } (.output 3) = true
    ∧ (agentSt (step0 1 [(.chipper 0, .acked)]) (.chipper 0) = some .acked ∧ agentSt (step0 1 [(.chipper 0, .delayed)]) (.chipper 0) = some .delayed
      ∧ (let s := { stDu (step0 1 [(.chipper 0, .delayed)]) with timer := 50 * 38400 }
        s.timer - 0 ≤ s.cfg.duskBudgetMs * 38400 ∧ s.cfg.duskBudgetMs * 38400 < s.timer + 1 - 0)
      ∧ (∃ e ∈ (step0 1 [(.chipper 0, .delayed)]).agents, e.2 ≠ .acked)
      ∧ (∀ e ∈ (step0 1 [(.chipper 0, .acked)]).agents, e.2 = .acked ∧ agentAnswer (stDu (step0 1 [])) 1 e.1 = .ack))
    ∧ (let x := { step0 1 [(.chipper 0, .acked)] with commit := true }
      tget? (stDu x).power.dusk 0x80 = some x ∧ x.commit = true) := by decide +kernel

theorem witness_DuskAndNight_night :
    (let s := stPw .reset
    s.power.sleep = .awake ∧ s.boot.stage = 6 ∧ s.power.pll = true ∧ mayPower s 47 = true ∧ s.power.tripped = false)
    ∧ (let s := stPw { Power.reset with sleep := .night, wake := true }
      s.power.sleep ≠ .awake ∧ s.power.sleep = .night ∧ s.power.wake = true ∧ s.power.tripped = false
      ∧ coreReady { s with power := { s.power with corePwr := true } } = true
      ∧ (s.timer - s.power.coreAt.getD 0 < 192000 ∧ ¬({ s with timer := 192000 }).timer - s.power.coreAt.getD 0 < 192000)
      ∧ ({ s.power with corePwr := false }).corePwr = false)
    ∧ (let s := { stPw .reset with ports := [(2, { Port.reset with grace := true })] }
      s.power.sleep = .awake ∧ (s.port 2).grace = true ∧ (s.port 2).up = false ∧ portAcked s 2 = false)
    ∧ ([(req 1 (bytesOf [(1, 1), (3, 0)]), 1, [(0, 1)]), (req 1 (bytesOf [(1, 0), (3, 0)]), 1, [(0, 1)])].all (okReq (stPw .reset)) = true
      ∧ okReq stQ (req 1 (bytesOf [(1, 1), (3, 0)]), 1, [(0, 1)]) = true ∧ isM stQ (req 1 []) = false ∧ isM (stPw .reset) (req 1 []) = true
      ∧ tget? (stPw .reset).power.dusk 0x100 = none ∧ ((stPw .reset).channel 15).accepted.length < 16
      ∧ (tget? (stPw { Power.reset with dusk := [(0x100, step0 3 [])] }).power.dusk 0x100).isSome)
    ∧ (let s := stPw { Power.reset with hotShut := 10 }
      (129 : Int) < tjMax s + 5 ∧ tjMax s + 5 ≤ (130 : Int) ∧ s.power.hotFloor < 1000 ∧ (134 : Int) < tjMax s + 10
      ∧ tjMax s + 10 ≤ (135 : Int) ∧ 10 ≤ s.power.hotShut) := by decide +kernel

def stAv (a : Avail) (on : List Nat) : State := { stD with
  avail := a, power := { Power.reset with on := on }, maps := ⟨0x800000000001, 0x800000000001, 6⟩
  cfg := { stD.cfg with inlineEcc := true }, boot := { stD.boot with stage := 6, running := true, dramInstalled := 2 ^ 36 }
  mem := { stD.mem with cache := [⟨0, 15, false⟩] } }

theorem witness_Availability_sites :
    (let s := stAv .reset [47, 0x5F, 0x60, 0x91, 0x83]
    s.power.sleep = .awake ∧ s.boot.stage = 6
    ∧ ∀ x ∈ [ArraySite.register 47 524287 0, .tile 47 (2 ^ 24 + 131071) 0, .weight 47 8191, .cacheData (homeSlice 0) 0 15 0,
      .cacheTag (homeSlice 128) 1, .directory (homeSlice 128) 1, .ranger (some 16) 0, .prism 3 0 [], .beacon 3 131072, .chipper 3 0, .fence 16383,
      .dram 0x1FFFFFFFF, .link (2 ^ 29 - 1) 0 1 []], siteHere s x = true)
    ∧ (siteInfo (.dram 0)).2.2.2.1 = false
    ∧ (siteInfo (.register 47 0 0)).2.2.2.2 = false
    ∧ (({ stAv .reset [] with fences := [(16383, fn 15 4)] }).fence 16383).st = .live
    ∧ ∀ l c r ws, ArraySite.dram 0 ≠ .link l c r ws := by
  refine ⟨?_, ?_, ?_, ?_, fun _ _ _ _ h => by cases h⟩ <;> decide +kernel

theorem witness_Availability_retirement :
    (let s := stAv { Avail.reset with due := [47, 0x5F, locKey 15 2047 15] } [47, 0x5F]
    47 ∈ s.avail.due ∧ s.maps.core.getLsbD 47 = true ∧ ¬(47 < 0x30 ∧ (clearUnit s.maps 47).core = 0)
    ∧ dueTurn s 47 = true ∧ 0x5F ∈ s.avail.due ∧ s.maps.tensor.getLsbD (0x5F - 0x30) = true ∧ locKey 15 2047 15 ∈ s.avail.due
    ∧ (15, 2047, 15) ∉ s.mem.ways ∧ (s.mem.ways.filter fun w => w.1 == 15).length < 64)
    ∧ (let s := stAv { Avail.reset with due := [0x5F, locKey 15 2047 15], dueAt := [(0x5F, 9), (locKey 15 2047 15, 8)] } []
      dueTurn s 0x5F = true ∧ dueTurn s (locKey 15 2047 15) = true
      ∧ dueTurn { s with avail := { s.avail with dueAt := [] } } (locKey 15 2047 15) = false)
    ∧ (let s := { stAv { Avail.reset with due := [47] } [] with maps := ⟨2 ^ 47, 0, 6⟩ }
      47 ∈ s.avail.due ∧ dueTurn s 47 = true ∧ (clearUnit s.maps 47).core = 0 ∧ s.maps.core.getLsbD 47 = true)
    ∧ (let s := stAv { Avail.reset with leaving := [(47, 7, 1)], events := [(47, 7, 1)] } [47]
      tget? s.avail.leaving 47 = some (7, 1) ∧ unitClear s 47 = true ∧ s.avail.events = (47, 7, 1) :: [] ∧ s.ranger.up = true)
    ∧ (let s := stAv { Avail.reset with tests := [47], testing := [0] } [47]
      47 ∈ s.avail.tests ∧ domainOn s 47 = true ∧ unitClear s 47 = true ∧ 0 ∈ s.avail.testing ∧ s.maps.tensor.getLsbD 0 = true)
    ∧ (let s := stAv { Avail.reset with leaving := [(47, 7, 1)] } [47]
      0x5F < 0x60 ∧ 0x5F % 0x30 ∈ s.power.on ∧ stopping s (0x5F % 0x30) = true ∧ (clearUnit s.maps (0x5F % 0x30)).core ≠ 0) := by decide +kernel

def stUp : State := { stQ with boot := { stQ.boot with running := true } }

theorem witness_SidebandCommands :
    (i3cUp stUp = true ∧ i3cBusy stUp = false
      ∧ (let s := { stUp with i3c := { stUp.i3c with running := some 15 }, tenants := [(15, { stUp.tenant 15 with resetting := true })] }
        i3cUp s = true ∧ i3cBusy s = true)
      ∧ (127 : BitVec 32).toNat = 127 ∧ stUp.fuses.scorched = false ∧ ({ stUp.fuses with scorched := true }).scorched = true
      ∧ (0x5A00 : BitVec 16) ≠ 0x5A01 ∧ (3 < 4 ∧ (126 : BitVec 32).toNat = 123 + 3) ∧ (128 : BitVec 32).toNat > 127)
    ∧ (2 ^ 32 - 1 < 2 ^ 32 ∧ 5 ≤ stUp.i3c.mwl ∧ 0x100000 ≤ 0x2FFFFF ∧ 0x2FFFFF < 0x300000)
    ∧ (let s := { stUp with ranger := { stUp.ranger with debug := true }, power := { stUp.power with on := [0xBE] } }
      s.fuses.scorched = false ∧ s.ranger.debug = true ∧ domainOn s 0xBE = true ∧ s.fuses.secureBoot = false ∧ (dapData s (.register 47 524287)).isSome = true
      ∧ dapData s (.beaconStore 0) = none)
    ∧ ¬(stUp.fuses.scorched = false ∧ stUp.ranger.debug = true ∧ domainOn stUp 0xBE = true)
    ∧ (0x80 ≤ (0x8F : BitVec 8).toNat ∧ (0x8F : BitVec 8).toNat ≤ 0x8F ∧ 0x8F < (0x90 : BitVec 8).toNat) := by decide +kernel

theorem witness_BusCodes :
    (let s := { stUp with i3c := { stUp.i3c with addr := some 8, ibiEn := true, ibiPend := [(1, [2])] } }
    i3cUp s = true ∧ s.i3c.addr ≠ none ∧ s.i3c.ibiPend = (1, [2]) :: [] ∧ s.i3c.ibiEn = true)
    ∧ i3cUp stUp = true ∧ stUp.i3c.addr = none ∧ ({ stUp.i3c with hotJoin := true }).hotJoin = true ∧ ({ stUp.i3c with hotJoin := false }).hotJoin = false := by decide +kernel

theorem witness_DeviceAndRegisters :
    (State.reset.boot.running = false ∧ i3cHears stUp = true ∧ stUp.power.corePwr = true
      ∧ ({ stUp with power := { stUp.power with corePwr := false } }).power.corePwr = false)
    ∧ (let s := { stAv .reset [] with boot := { Boot.reset with stage := 5 }, cfg := { stD.cfg with bifurcation := 2 } }
      s.boot.stage = 5 ∧ s.maps.core.getLsbD 47 = true ∧ s.maps.tensor.getLsbD 47 = true ∧ portLanes s 2 = true)
    ∧ (let s := { stQ with prism := prA }
      accUp s acc0 = true ∧ accTenant s acc0 = some 15 ∧ accTenant s { acc0 with rid := 1 } = none ∧ outOwner s 3 = some 15
      ∧ regHit s 15 0xFFFFFF8 = .absent ∧ regHit s 15 0xC000000 = .ro ∧ regHit s 15 0x7000008 = .roRefused ∧ regHit s 15 0x100000 = .hidden
      ∧ attachedPage s 15 0xFFFFFF8 = false
      ∧ attachedPage { s with blazeGrants := [(31, 15)], bzCtxs := [(31, { s.bz 31 with attached := some 0 })] } 15 0x611F020 = true
      ∧ 0xFFFFFF8 % 8 = 0 ∧ 0xFFFFFF8 < 2 ^ 28 ∧ 0xC000000 / 2 ^ 24 ≠ 4) := by decide +kernel

/-- A command in front of an empty queue keeps the state well-formed's premises: after reset, and on the running device. -/
theorem witness_StepKeepsMemories :
    StateOk State.reset ∧ (∃ t, step State.reset = .next t) ∧ StateOk stD ∧ ∃ t, step { stD with pending := [.hostReady] } = .next t :=
  ⟨stateOk_mem rfl rfl rfl rfl, ⟨_, rfl⟩, stateOk_D, ⟨_, rfl⟩⟩

theorem witness_FusesOnlyGrow : ∃ t, step { stUp with pending := [.debugAccessPort 0x80 (.blowSecureBoot true)] } = .next t := ⟨_, rfl⟩

/-! The checks of WellFormed: one ill-formed term for each, which it refuses. -/

theorem test_wf_group : (⟨48, 63, 0, false⟩ : GroupAt).wf = false ∧ (⟨47, 64, 0, false⟩ : GroupAt).wf = false ∧ gLast.wf = true := by decide

theorem test_wf_access :
    ({ acc0 with port := 3 }).wf = false ∧ ({ acc0 with rid := 65536 }).wf = false
    ∧ ({ acc0 with pasid := some (2 ^ 20) }).wf = false ∧ acc0.wf = true := by decide

theorem test_wf_packet_and_request :
    (⟨1024, 1, 0, 0, []⟩ : Pkt).wf = false ∧ (⟨17, 0, 1, 0, 0, 0, 0, []⟩ : Req).wf = false
    ∧ (⟨16, 0, 1, 0, 0, 1, 0, [0, 0, 0]⟩ : Req).wf = false ∧ (⟨16, 0, 1, 0, 0, 1, 0, [0, 0, 0, 0]⟩ : Req).wf = true := by decide

theorem test_wf_waiter : (Waiter.group 48 0).wf = false ∧ (Waiter.group 0 64).wf = false ∧ (Waiter.queue 1024).wf = false := by decide

theorem test_wf_agent :
    ∀ a ∈ [DuskAgent.core 48, .array 48, .binner 2, .chipper 4, .slice 16, .prism 2, .output 4, .port 3], a.wf = false := by decide

theorem test_wf_site :
    ∀ a ∈ [ArraySite.register 48 0 0, .tile 48 0 0, .weight 48 0, .icache 48 0 0 0, .cacheData 16 0 0 0, .cacheData 0 0 16 0,
      .cacheTag 16 0, .directory 16 0, .ranger (some 17) 0, .prism 4 0 [], .beacon 4 0, .chipper 4 0, .fence 16384], a.wf = false := by decide

theorem test_wf_error_and_boot :
    (⟨[(0, .corrected 16)], 0, 0, []⟩ : ReadEnv).wf = false ∧ (⟨[(0, .refetched 16)], 0, 0, []⟩ : ReadEnv).wf = false
    ∧ (⟨some [(2 ^ 32, 0)], true, [], false, 0, [], .wrong⟩ : BootInput).wf = false
    ∧ (⟨some [(1, 0), (0, 0)], true, [], false, 0, [], .wrong⟩ : BootInput).wf = false
    ∧ (⟨none, true, [], false, 0, [96], .wrong⟩ : BootInput).wf = false := by decide

/-- One command for each bound that the arms of Instr.wf set themselves. -/
theorem test_wf_commands :
    ∀ c ∈ [Instr.nop ⟨48, 0, 0, false⟩ (encB 0 0), .ld gLast (encM 0 0 0 0) ⟨[(0, .corrected 16)], 0, 0, []⟩, .storeAck 48 0, .l1Fill 48 0 false,
      .asyncPromotion 0 64, .queueDoorbell acc0 16 0, .queueDoorbell acc0 0 256, .weightSegmentDone 4, .fenceSignalRegister acc0 16384,
      .arm acc0 0 64, .bridgeUpdate 256, .composeServiceFrame 4 [], .rangerRestart 5, .beaconCommit acc0 4, .chGo acc0 16,
      .chipperBlock 4, .start acc0 32, .queueWatchdog 1024, .contextResetDone 256, .tenantFreed 16, .objectReclaim 65536,
      .fenceReleased 16384, .linkDown 3, .msixUnmask 0 2048, .droopTrip 7, .droopRecover 6, .idleGateStart 256,
      .writeLinkPoll 16 0, .setmrl 65536, .setmwl 65536], c.wf = false := by decide

/-! Results. -/

/-- The spec's home slice of 0x00_1234_5680 (chapter 1). -/
theorem test_home_slice : homeSlice 0x0012345680 = 15 := by decide

/-- 0xFFFF_FFFF + 1 with the source register as destination, in the last lane (R106 by hand). -/
theorem test_iadd_wraps :
    let x := { grp0 with vregs := [(9 * 32 + 31, 0xFFFFFFFF), (10 * 32 + 31, 1)] }
    let y := (after (.iadd gLast (encR 0 0 9 9 10 0)) (st0 x ((encR 0 0 9 9 10 0).code opIadd.cls opIadd.op))).group gLast
    (y.vget 9 31).toNat = 0 ∧ (y.vget 10 31).toNat = 1 ∧ y.pc = 16 := by decide +kernel

/-- The spec's two combining sets (chapter 2): 2^24 + 1 + 1 one at a time, and thirty times 1.0 from 0. -/
theorem test_atomic_rounding :
    combine (fun v old => atomVal 4 0 old v 0) [0x3F800000, 0x3F800000] 0x4B800000
      = ([(0x3F800000, 0x4B800000), (0x3F800000, 0x4B800000)], 0x4B800000)
    ∧ (combine (fun v old => atomVal 4 0 old v 0) (List.replicate 30 0x3F800000) 0).2 = 0x41F00000 := by decide +kernel

/-- The spec's INT8 element (chapter 4): code 0x85 with scale 0x2C00 and zero point 0xFD is -7.5. -/
theorem test_int8_element :
    let l := TLay.of 0xB 0 2 32
    let rd : Nat → Byte := fun a => if a = 0 then 0x85 else if a = 1025 then 0x2C else if a = 1026 then 0xFD else 0
    ((l.elem rd 0 0).mul (l.scale rd 0 0)).cmp (.fin true 15 (-1)) = some .eq := by decide +kernel

/-- The spec's block sum whose negative product changes the last bit (chapter 4). -/
theorem test_tmma_truncates :
    let l := TLay.of 5 0 2 32
    let ra : Nat → Byte := fun a => if a = 0 then 0x7E else if a = 1 then 0x39 else if a = 2 then 0x01 else if a = 1024 then 0x7F else 0
    let rb : Nat → Byte := fun a => if a = 0 then 0x7E else if a = 1 then 0xB9 else if a = 2 then 0x81 else if a = 1024 then 0x7E else 0
    tmmaElement l l ra rb false 0 0 0 = 0x47C3FFAE := by decide +kernel

/-- The spec's MXFP4 block (chapter 4). -/
theorem test_tcvt_block :
    tcvtBlock 9 ([0x41200000, 0xC1700000, 0x3F333333, 0x3F000000] ++ List.replicate 28 0)
      = (0x80, [6, 0xF, 1, 0] ++ List.replicate 28 0) := by decide +kernel

/-- The spec's QL12 example in both directions (chapter 4), with -0.1. -/
theorem test_ql12 :
    ql12OfF32 0x40400000 = 0x419 ∧ ql12Decode 0x419 = .fin false 6049 (-11)
    ∧ ql12OfF32 0xBDCCCCCD = 0xBCA ∧ ql12Decode 0xBCA = .fin true 6317 (-16) := by decide +kernel

/-- The spec's table of conversions from FP32 (chapter 4): E4M3 is type 7, E5M2 8, E2M1 0xB. -/
theorem test_cvt_table :
    [(7, 0x3F880000), (7, 0x3F980000), (7, 0x3B400000), (7, 0x3A800000), (7, 0xBA800000), (7, 0x43E80000), (8, 0x47723000),
      (8, 0x7F800000), (7, 0x7F800000), (7, 0xFFC00001), (8, 0xFFC00001), (0xB, 0xFFC00001)].map
        (fun p : BitVec 4 × Nat => typeCode .near p.1 (typeNum 4 p.2))
      = [0x38, 0x3A, 0x02, 0x00, 0x80, 0x7E, 0x7B, 0x7C, 0x7E, 0x7F, 0x7E, 0x0] := by decide +kernel

/-- The spec's heritage fence across its wrap (chapter 10): a step of 21, a step of 0x8000_000B refused. -/
theorem test_heritage_fence :
    let f := { Fence.reset with st := .live, heritage := true, value := 0xFFFFFFF0 }
    let g := ((f.signal 5).1).getD f
    g.value.toNat = 5 ∧ g.adv = f.adv + 21 ∧ g.reached 0xFFFFFFF8 = true ∧ g.signal 0x80000010 = (none, true)
    ∧ (((g.signal 0x7FFFFFFF).1).getD f).adv = f.adv + 21 + 2147483642 := by decide +kernel

/-- The spec's translation of VA 0x0040_1234_5678 (chapter 9). Table pages: objects 1, 2 and 3 at 0x1000, 0x2000 and 0x3000. -/
theorem test_translation :
    let o := fun (gen base size : Nat) => { Obj.reset with st := .live, gen := gen, base := base, size := size, owner := 3 }
    let s : State := { State.reset with
      ctxs := [(5, { Ctx.free with st := .live, tenant := 3, rootObj := 1, rootGen := 1 })]
      objs := [(1, o 1 0x1000 4096), (2, o 1 0x2000 4096), (3, o 1 0x3000 4096), (0x123, o 5 0x0240000000 0x1000000)]
      mem := { MemSys.reset with
        dram := memOf 0x1000 [1, 0, 0, 0, 1, 0, 2, 0] ++ memOf 0x2800 [1, 0, 0, 0, 1, 0, 3, 0] ++ memOf 0x3488 [7, 0, 4, 0, 5, 0, 0x23, 1] } }
    walk s 5 0x004012345678 false = .ok (⟨5, 0x004012200000, 0x200000, 0x0240400000, true, false, 0x123⟩, [0x1000, 0x2800, 0x3488])
    ∧ 0x0240400000 + (0x004012345678 - 0x004012200000) = 0x0240545678 ∧ homeSlice 0x0240545678 = 8 := by decide +kernel


/-- Draw 3 of a pass, one visible point after 70,000 primitives of earlier draws. -/
def passL : RenderPass := { pass1 with
  hdr := { pass1.hdr with viewport := [0, 0, 0x42000000, 0x42000000], scissor := [0, 0, 32, 32], listBytes := 0x11000 }
  draws := [{ point0 with prims := 70000 }, { point0 with prims := 0 }, { point0 with prims := 0 }, point0], binDraw := 3 }

/-- The spec's tile list entry (chapter 7): draw 3, primitive 70,000, from BN1, in a chunk that BN1's head of the tile names. -/
theorem test_list_entry :
    let s := stR passL .reset
    let s1 := { s with mem := { s.mem with dram := s.mem.dram ++ memOf 0xFFFFFF800 [0, 0, 0, 0, 0, 0, 0, 0, 0, 0, 0, 0x3F, 0, 0, 0x80, 0x3F] } }
    (match binPrim s1 255 passL with
      | .ok s2 r => decide ((tget? r.lists 1).map TileList.entries = some [0x0001117000030000] ∧ tget? r.lists 0 = none)
        && s2.mem.dram.nat 0xFFFFFF100 8 == 0x0001117000030000 && s2.mem.dram.nat 0xFFFFFF008 8 == 0x1100
      | _ => false) = true := by decide +kernel

/-- The header of the spec's record example (chapter 13) on a PING of tenant 15: its SEQ and TAG, two words, the version, two units. -/
theorem test_flume_record :
    let c := { tget stQ.channels 15 Channel.reset with nextSeq := 0x41, replyWrite := 1000, readIndex := 1000 }
    let s : State := { stQ with channels := tset stQ.channels 15 c, boot := { stQ.boot with kreogVersion := 0x01020304 } }
    let t := after (.ping ⟨15, 0, 1, 0x41, 15, 0, 0xC0DE0007, []⟩) s
    let d := tget t.channels 15 Channel.reset
    (List.range 20).map (fun i => d.replies.get (16 * c.replyWrite + i))
      = [0x41, 0, 0, 0, 0, 0, 0, 0, 7, 0, 0xDE, 0xC0, 2, 0, 1, 0, 4, 3, 2, 1]
    ∧ d.nextSeq = 0x42 ∧ d.replyWrite = c.replyWrite + 2 := by decide +kernel

end Sys2Proof.Tests
end

/-! The assignment function (R156, R34): the unit order is a sublist of one fixed sorted list of 48 units, the split factor
doubles to the largest power of two that fits, and a unit owns the tiles of one residue class. -/

namespace Sys2Proof.Proofs

open Sys2Proof.Machine

/-! ### The unit order -/

/-- Unit `a` stands before unit `b` in the order of R156: by position in the stand, and at one position by stand. -/
abbrev UnitBefore (a b : Nat) : Prop := a % 8 < b % 8 ∨ (a % 8 = b % 8 ∧ a / 8 < b / 8)

/-- The order of R156 with every unit enabled. -/
abbrev allUnits : List Nat := (List.range 8).flatMap fun p => (List.range 6).map fun st => st * 8 + p

theorem unitOrder_eq_filter_allUnits (map : Nat) : unitOrder map = allUnits.filter fun u => bitOf map u := rfl

/-- Unit `u` is the one of stand `u / 8` at position `u % 8`. -/
theorem mem_allUnits (u : Nat) : u ∈ allUnits ↔ u < 48 := by
  simp only [allUnits, List.mem_flatMap, List.mem_map, List.mem_range]
  constructor
  · rintro ⟨p, hp, st, hst, rfl⟩
    omega
  · intro hu
    exact ⟨u % 8, by omega, u / 8, by omega, by omega⟩

theorem mem_unitOrder (map u : Nat) : u ∈ unitOrder map ↔ u < 48 ∧ map.testBit u = true := by
  rw [unitOrder_eq_filter_allUnits, List.mem_filter, mem_allUnits, bitOf]

theorem allUnits_pairwise : allUnits.Pairwise UnitBefore := by decide

theorem unitOrder_pairwise (map : Nat) : (unitOrder map).Pairwise UnitBefore :=
  allUnits_pairwise.sublist List.filter_sublist

theorem unitOrder_nodup (map : Nat) : (unitOrder map).Nodup :=
  (unitOrder_pairwise map).imp fun {a b} (hab : UnitBefore a b) => by rintro rfl; omega

theorem unitOrder_getD_before (map i j : Nat) (hij : i < j) (hj : j < (unitOrder map).length) :
    UnitBefore ((unitOrder map).getD i 0) ((unitOrder map).getD j 0) := by
  rw [List.getD_eq_getElem _ _ (hij.trans hj), List.getD_eq_getElem _ _ hj]
  exact List.pairwise_iff_getElem.mp (unitOrder_pairwise map) i j _ _ hij

/-! ### The split factor -/

/-- `s` is the largest power of two within both bounds. -/
def IsLargestPow (q m s : Nat) : Prop := ∃ k, s = 2 ^ k ∧ 2 ^ k ≤ q ∧ 2 ^ k ≤ m ∧ (m < 2 ^ (k + 1) ∨ q < 2 ^ (k + 1))

/-- From a power of two within both bounds, doubling ends at the largest one, if the fuel outlasts the bound `q`. -/
theorem splitFrom_isLargestPow (f q m k : Nat) (hq : 2 ^ k ≤ q) (hm : 2 ^ k ≤ m) (hf : q < 2 ^ (k + f)) :
    IsLargestPow q m (splitFrom f q m (2 ^ k)) := by
  induction f generalizing k with
  | zero => exact absurd hf (Nat.not_lt.mpr hq)
  | succ f ih =>
    rw [splitFrom, ← Nat.pow_succ]
    split
    next hfits => exact ih (k + 1) hfits.1 hfits.2 (by rwa [Nat.add_right_comm])
    next hstop => exact ⟨k, rfl, hq, hm, by omega⟩

theorem splitFactor_of_le (t0 m n : Nat) (h : n ≤ t0) : splitFactor t0 m n = 1 := if_pos h

/-- The factor is bounded by ⌊n ÷ t0⌋, below 2⁸ for the 48 units of the part. -/
theorem splitFactor_isLargestPow (t0 m n : Nat) (ht : 1 ≤ t0) (hm : 1 ≤ m) (htn : t0 < n) (hn : n ≤ 48) :
    IsLargestPow (n / t0) m (splitFactor t0 m n) := by
  have hpos : 2 ^ 0 ≤ n / t0 := Nat.div_pos htn.le ht
  have hfuel : n / t0 < 2 ^ (0 + 8) := (Nat.div_le_self n t0).trans_lt (hn.trans_lt (by decide))
  rw [splitFactor, if_neg htn.not_ge]
  exact splitFrom_isLargestPow 8 (n / t0) m 0 hpos hm hfuel

/-! ### The owners -/

/-- In an order without duplicates, the unit at place `i` owns exactly the tiles that are `i` modulo the number of units. -/
theorem ownerOf_eq_getElem_iff {order : List Nat} (hnd : order.Nodup) {i : Nat} (hi : i < order.length) (t : Nat) :
    ownerOf order t = order[i] ↔ t ≡ i [MOD order.length] := by
  have ht : t % order.length < order.length := Nat.mod_lt t (Nat.zero_lt_of_lt hi)
  rw [ownerOf, List.getD_eq_getElem _ _ ht, hnd.getElem_inj_iff, Nat.ModEq, Nat.mod_eq_of_lt hi]

/-- The number of the first `tiles` tiles that `u` owns. -/
def ownedCount (order : List Nat) (tiles u : Nat) : Nat :=
  ((List.range tiles).filter fun t => ownerOf order t == u).length

/-- The unit at place `i` gets ⌊T ÷ n⌋ tiles, and one of the T mod n left over when its place is among the first of them. -/
theorem ownedCount_getElem {order : List Nat} (hnd : order.Nodup) {i : Nat} (hi : i < order.length) (tiles : Nat) :
    ownedCount order tiles order[i] = tiles / order.length + if i < tiles % order.length then 1 else 0 := by
  have hcount : ownedCount order tiles order[i] = tiles.count (· ≡ i [MOD order.length]) := by
    rw [ownedCount, ← List.countP_eq_length_filter, Nat.count]
    exact List.countP_congr fun t _ => by simp [ownerOf_eq_getElem_iff hnd hi t]
  rw [hcount, Nat.count_modEq_card _ (Nat.zero_lt_of_lt hi), Nat.mod_eq_of_lt hi]

/-- When the division leaves a remainder, its quotient rounded up is one more. -/
theorem ceil_div_of_mod_pos {T n : Nat} (hn : 0 < n) (hmod : 0 < T % n) : (T + n - 1) / n = T / n + 1 := by
  have hpred : n - 1 < n := Nat.sub_lt hn Nat.one_pos
  have hcarry : n ≤ T % n + (n - 1) := by omega
  rw [Nat.add_sub_assoc hn, Nat.add_div hn, Nat.div_eq_of_lt hpred, Nat.mod_eq_of_lt hpred, if_pos hcarry, Nat.add_zero]

theorem ownedCount_floor_or_ceil {order : List Nat} (hnd : order.Nodup) {u : Nat} (hu : u ∈ order) (tiles : Nat) :
    ownedCount order tiles u = tiles / order.length ∨ ownedCount order tiles u = (tiles + order.length - 1) / order.length := by
  obtain ⟨i, hi, rfl⟩ := List.getElem_of_mem hu
  rw [ownedCount_getElem hnd hi]
  split
  next hextra => exact .inr (ceil_div_of_mod_pos (Nat.zero_lt_of_lt hi) (Nat.zero_lt_of_lt hextra)).symm
  next => exact .inl rfl

/-- Settles O25: the order is part of one sorted list, doubling ends at the largest power, and the owners are the residue
classes of the tile numbers. -/
theorem unitAssignment : Obligations.UnitAssignment := by
  unfold Obligations.UnitAssignment
  refine ⟨mem_unitOrder, unitOrder_getD_before, fun t0 m n _ _ _ h => splitFactor_of_le t0 m n h, ?_, ?_⟩
  · intro t0 m n ht hm htn hn
    obtain ⟨k, hfac, hq, hle, hmax⟩ := splitFactor_isLargestPow t0 m n ht hm htn hn
    exact ⟨k, hfac, hle, (Nat.le_div_iff_mul_le ht).mp hq, hmax.imp_right (Nat.div_lt_iff_lt_mul ht).mp⟩
  · intro map tiles u hu
    exact ownedCount_floor_or_ceil (unitOrder_nodup map) hu tiles

end Sys2Proof.Proofs

/-! Register-to-register operations (R101, R106): what a write to the registers and predicates of a group leaves, and that an
operation of the format R tables completes with its function of the three sources. -/

namespace Sys2Proof.Proofs

open Sys2Proof.Machine

/-! ### Lane masks -/

theorem mem_lanesOf {m : Mask} {l : Nat} : l ∈ lanesOf m ↔ l < 32 ∧ inMask m l = true := by
  simp [lanesOf, allLanes]

/-- The number whose bits below `n` are given by `p`, as `maskOf` adds it up. -/
abbrev laneSum (p : Nat → Bool) (n : Nat) : Nat := (List.range n).foldl (fun x l => if p l then x + 2 ^ l else x) 0

theorem laneSum_succ (p : Nat → Bool) (n : Nat) : laneSum p (n + 1) = if p n then laneSum p n + 2 ^ n else laneSum p n := by
  simp [laneSum, List.range_succ]

theorem laneSum_lt (p : Nat → Bool) (n : Nat) : laneSum p n < 2 ^ n := by
  induction n with
  | zero => simp [laneSum]
  | succ n ih =>
    rw [laneSum_succ, Nat.pow_succ]
    split <;> omega

theorem testBit_laneSum (p : Nat → Bool) (n l : Nat) : (laneSum p n).testBit l = (decide (l < n) && p l) := by
  induction n with
  | zero => simp [laneSum]
  | succ n ih =>
    obtain hl | rfl | hl := Nat.lt_trichotomy l n
    · have hkeeps : (laneSum p (n + 1)).testBit l = (laneSum p n).testBit l := by
        rw [laneSum_succ, Nat.add_comm (laneSum p n)]
        split
        · exact Nat.testBit_two_pow_add_gt hl _
        · rfl
      rw [hkeeps, ih]
      simp [hl, Nat.lt_succ_of_lt hl]
    · have hclear : (laneSum p l).testBit l = false := Nat.testBit_lt_two_pow (laneSum_lt p l)
      rw [laneSum_succ, Nat.add_comm (laneSum p l)]
      cases hp : p l <;> simp [hclear, Nat.testBit_two_pow_add_eq]
    · have hpast : (laneSum p (n + 1)).testBit l = false :=
        Nat.testBit_lt_two_pow ((laneSum_lt p (n + 1)).trans_le (Nat.pow_le_pow_right two_pos hl))
      simp [hpast, Nat.not_lt.mpr hl]

theorem inMask_maskOf (p : Nat → Bool) {l : Nat} (hl : l < 32) : inMask (maskOf p) l = p l := by
  have hbit : (BitVec.ofNat 32 (laneSum p 32)).getLsbD l = p l := by
    rw [BitVec.getLsbD_ofNat, testBit_laneSum]
    simp [hl]
  exact hbit

theorem inMask_merge (a m v : Mask) {l : Nat} (hl : l < 32) :
    inMask ((a &&& ~~~m) ||| (v &&& m)) l = if inMask m l = true then inMask v l else inMask a l := by
  simp only [inMask, BitVec.getLsbD_or, BitVec.getLsbD_and, BitVec.getLsbD_not]
  by_cases hm : m.getLsbD l = true <;> simp only [hl, hm] <;> simp

/-! ### Registers and predicates after a write -/

/-- The vector registers lie 32 words apart, so that a register written in some lanes leaves every other one. -/
theorem tget_foldl_tset_lane (ls : List Nat) (hls : ∀ k ∈ ls, k < 32) (f : Nat → Word) (t : Tbl Word) (r q l : Nat)
    (hl : l < 32) :
    tget (ls.foldl (fun t k => tset t (r * 32 + k) (f k)) t) (q * 32 + l) 0 =
      if q = r ∧ l ∈ ls then f l else tget t (q * 32 + l) 0 := by
  induction ls generalizing t with
  | nil => simp
  | cons k ls ih =>
    have hk : k < 32 := hls k List.mem_cons_self
    have hkey : q * 32 + l = r * 32 + k ↔ q = r ∧ l = k := by omega
    rw [List.foldl_cons, ih fun j hj => hls j (List.mem_cons_of_mem k hj), tget_tset, if_congr hkey rfl rfl]
    grind

theorem vget_vset (g : Group) (r q l : Nat) (m : Mask) (f : Nat → Word) (hl : l < 32) :
    (g.vset r m f).vget q l = if q = r ∧ inMask m l = true then f l else g.vget q l := by
  have hread := tget_foldl_tset_lane (lanesOf m) (fun k hk => (mem_lanesOf.mp hk).1) f g.vregs r q l hl
  simp only [Group.vget, Group.vset, hread]
  simp [mem_lanesOf, hl]

theorem toNat_vget_vsetN (g : Group) (wide : Bool) (r q l : Nat) (m : Mask) (f : Nat → Nat) (hl : l < 32) :
    ((g.vsetN wide r m f).vget q l).toNat =
      if inMask m l = true then
        (if q = r then f l % 2 ^ 32 else if wide && q == r + 1 then f l / 2 ^ 32 % 2 ^ 32 else (g.vget q l).toNat)
      else (g.vget q l).toNat := by
  have hpair : q = r + 1 → q ≠ r := by omega
  cases wide with
  | false =>
    simp only [Group.vsetN, Bool.false_eq_true, if_false, vget_vset _ _ _ _ _ _ hl]
    grind [BitVec.toNat_ofNat]
  | true =>
    simp only [Group.vsetN, if_true, vget_vset _ _ _ _ _ _ hl]
    grind [BitVec.toNat_ofNat]

theorem toNat_uget_usetN (g : Group) (wide : Bool) (r q x : Nat) :
    ((g.usetN wide r x).uget q).toNat =
      if q = r then x % 2 ^ 32 else if wide && q == r + 1 then x / 2 ^ 32 % 2 ^ 32 else (g.uget q).toNat := by
  cases wide with
  | false =>
    by_cases hq : q = r <;> simp [Group.usetN, Group.uget, hq]
  | true =>
    by_cases hq : q = r
    · simp [Group.usetN, Group.uget, hq]
    · by_cases hq1 : q = r + 1 <;> simp [Group.usetN, Group.uget, hq, hq1]

/-- A write to p7 is discarded (Table 3.2). -/
theorem inMask_pget_pset (g : Group) (p q l : Nat) (m v : Mask) (hl : l < 32) :
    inMask ((g.pset p m v).pget q) l = if q = p ∧ q ≠ 7 ∧ inMask m l = true then inMask v l else inMask (g.pget q) l := by
  by_cases h7 : p = 7
  · grind [Group.pset]
  · by_cases hq : q = p
    · subst hq
      simp [Group.pset, Group.pget, inMask_merge _ _ _ hl, h7]
    · simp [Group.pset, Group.pget, h7, hq]

/-! ### A result written, and the operation complete -/

/-- A vector write changes the vector registers alone. -/
theorem vsetN_eq (g : Group) (wide : Bool) (r : Nat) (m : Mask) (f : Nat → Nat) :
    g.vsetN wide r m f = { g with vregs := (g.vsetN wide r m f).vregs } := by
  cases wide <;> rfl

/-- A predicate write changes the predicates alone. -/
theorem pset_eq (g : Group) (p : Nat) (m v : Mask) : g.pset p m v = { g with preds := (g.pset p m v).preds } := by
  unfold Group.pset
  split <;> rfl

@[simp] theorem pset_vget (g : Group) (p r l : Nat) (m v : Mask) : (g.pset p m v).vget r l = g.vget r l := by
  rw [pset_eq]
  rfl
@[simp] theorem pset_uget (g : Group) (p r : Nat) (m v : Mask) : (g.pset p m v).uget r = g.uget r := by
  rw [pset_eq]
  rfl
@[simp] theorem vsetN_uget (g : Group) (wide : Bool) (r q : Nat) (m : Mask) (f : Nat → Nat) :
    (g.vsetN wide r m f).uget q = g.uget q := by
  rw [vsetN_eq]
  rfl
@[simp] theorem vsetN_pget (g : Group) (wide : Bool) (r p : Nat) (m : Mask) (f : Nat → Nat) :
    (g.vsetN wide r m f).pget p = g.pget p := by
  rw [vsetN_eq]
  rfl
@[simp] theorem usetN_vget (g : Group) (wide : Bool) (r q l x : Nat) : (g.usetN wide r x).vget q l = g.vget q l := rfl
@[simp] theorem usetN_pget (g : Group) (wide : Bool) (r p x : Nat) : (g.usetN wide r x).pget p = g.pget p := rfl

/-- The group `x` after the word `e` that left the registers and predicates of `y`. -/
def retired (e : EncR) (x y : Group) : Group := { y with pc := x.pc + Head.size e.h, promoted := false }

@[simp] theorem retired_vget (e : EncR) (x y : Group) (r l : Nat) : (retired e x y).vget r l = y.vget r l := rfl
@[simp] theorem retired_uget (e : EncR) (x y : Group) (r : Nat) : (retired e x y).uget r = y.uget r := rfl
@[simp] theorem retired_pget (e : EncR) (x y : Group) (p : Nat) : (retired e x y).pget p = y.pget p := rfl

section
variable (sh : RShape) (e : EncR) (f : Nat → Nat) (x : Group)

theorem writesR_pset (hd : sh.d = .pred) :
    WritesR sh e f x (retired e x (x.pset e.dst.toNat (x.guard e.h) (maskOf fun l => f l != 0))) where
  vreg r l _ := by simp [vregAfter, hd]
  ureg r := by simp [uregAfter, hd]
  pred p l hl := by
    have hread := inMask_pget_pset x e.dst.toNat p l (x.guard e.h) (maskOf fun l => f l != 0) hl
    rw [inMask_maskOf _ hl] at hread
    simpa only [predAfter, hd, retired_pget] using hread
  rest := by
    rw [pset_eq]
    rfl

theorem writesR_vsetN {wide : Bool} (hd : sh.d = .reg wide) (hdk : e.dk = false) :
    WritesR sh e f x (retired e x (x.vsetN wide e.dst.toNat (x.guard e.h) f)) where
  vreg r l hl := by
    have hread := toNat_vget_vsetN x wide e.dst.toNat r l (x.guard e.h) f hl
    simpa only [vregAfter, hd, hdk, retired_vget, Bool.not_false, Bool.true_and] using hread
  ureg r := by simp [uregAfter, hd, hdk]
  pred p l _ := by simp [predAfter, hd]
  rest := by
    rw [vsetN_eq]
    rfl

/-- The guard holds in no lane: a uniform destination keeps its value (R107). -/
theorem writesR_none {wide : Bool} (hd : sh.d = .reg wide) (hdk : e.dk = true) (hm : x.guard e.h = 0) :
    WritesR sh e f x (retired e x x) where
  vreg r l _ := by simp [vregAfter, hd, hdk]
  ureg r := by simp [uregAfter, hd, hm]
  pred p l _ := by simp [predAfter, hd]
  rest := rfl

theorem writesR_usetN {wide : Bool} (hd : sh.d = .reg wide) (hdk : e.dk = true) (hm : x.guard e.h ≠ 0) :
    WritesR sh e f x (retired e x (x.usetN wide e.dst.toNat (f (lowLane (x.guard e.h))))) where
  vreg r l _ := by simp [vregAfter, hd, hdk]
  ureg r := by
    have hread := toNat_uget_usetN x wide e.dst.toNat r (f (lowLane (x.guard e.h)))
    have hacts : (x.guard e.h != 0) = true := bne_iff_ne.mpr hm
    simpa only [uregAfter, hd, hdk, hacts, retired_uget, Bool.true_and, if_true] using hread
  pred p l _ := by simp [predAfter, hd]
  rest := rfl

/-- A result goes to a predicate, to a vector register, or to a uniform register from the lowest lane that acts. -/
theorem writesR_writeR : WritesR sh e f x (retired e x (writeR sh e (x.guard e.h) f x)) := by
  unfold writeR
  split
  next hd => exact writesR_pset sh e f x hd
  next wide hd =>
    split
    next hdk =>
      split
      next hm => exact writesR_none sh e f x hd hdk hm
      next hm => exact writesR_usetN sh e f x hd hdk hm
    next hdk => exact writesR_vsetN sh e f x hd (Bool.eq_false_iff.mpr hdk)

end

/-- A command that runs an operation of the format R tables completes with that operation's function. -/
theorem runsOp_of_stepR {c : Instr} {op : ROp} {g : GroupAt} {e : EncR} (hexec : ∀ s, exec c s = done (stepR op g e s)) :
    RunsOp c op g e (op.fn e) := by
  intro s s1 hissue hcheck hread
  have hstep : (stepR op g e s).group g = { runR (op.shape e) e (op.fn e) (s1.group g) with promoted := false }
      ∧ OnlyGroup s1 (stepR op g e s) g :=
    stepGroup_go s s1 g e.h _ _ _ _ _ hissue (by simp only [hcheck]) hread
  obtain ⟨hgroup, hframe⟩ := hstep
  refine ⟨stepR op g e s, hexec s, ?_, hframe⟩
  rw [hgroup]
  exact writesR_writeR _ _ _ _

end Sys2Proof.Proofs

/-! Bit fields (R533): bfe as shifts and extensions of a bit vector, bfi bit by bit. -/

namespace Sys2Proof.Proofs

open Sys2Proof.Machine

/-! ### Two's complement codes as bit vectors -/

theorem toSigned_eq_toInt (w x : Nat) : toSigned w x = (BitVec.ofNat w x).toInt := by
  simp only [toSigned, BitVec.toInt_eq_toNat_cond, BitVec.toNat_ofNat]

theorem ofSigned_eq_toNat (w : Nat) (i : Int) : ofSigned w i = (BitVec.ofInt w i).toNat := by
  rw [ofSigned, BitVec.toNat_ofInt]

theorem ofSigned_lt (w : Nat) (i : Int) : ofSigned w i < 2 ^ w := by
  rw [ofSigned_eq_toNat]
  exact (BitVec.ofInt w i).isLt

theorem ofSigned_natCast (w x : Nat) : ofSigned w (x : Int) = x % 2 ^ w := by
  rw [ofSigned, ← Int.natCast_emod, Int.toNat_natCast]

theorem toSigned_ofSigned (w : Nat) (i : Int) : toSigned w (ofSigned w i) = (BitVec.ofInt w i).toInt := by
  rw [toSigned_eq_toInt, ofSigned_eq_toNat, BitVec.ofNat_toNat, BitVec.setWidth_eq]

/-! ### bfe -/

theorem bfeVal_width_zero (signed : Bool) (n a c : Nat) (hw : c / 256 % 256 = 0) : bfeVal signed n a c = 0 := by
  simp [bfeVal, hw]

/-- The field of an unsigned type is cut out of a number with no bits at or above the width. -/
theorem bfeVal_unsigned (n a c : Nat) (hw : c / 256 % 256 ≠ 0) :
    bfeVal false n a c = a / 2 ^ (c % 256) % 2 ^ (c / 256 % 256) % 2 ^ n := by
  simp only [bfeVal, hw, if_false, Bool.false_eq_true]
  rw [ofSigned_natCast, ← Int.natCast_ediv, ← Int.natCast_emod, Int.toNat_natCast]

/-- The field of a signed type: an arithmetic shift, cut to the field's width, sign-extended to the type's. -/
theorem bfeVal_signed (n a c : Nat) (hw : c / 256 % 256 ≠ 0) :
    bfeVal true n a c =
      ((((BitVec.ofNat n a).sshiftRight (c % 256)).signExtend (c / 256 % 256)).signExtend n).toNat := by
  have hshift : toSigned n a / (2 ^ (c % 256) : Nat) = ((BitVec.ofNat n a).sshiftRight (c % 256)).toInt := by
    rw [toSigned_eq_toInt, BitVec.toInt_sshiftRight, Int.shiftRight_eq_div_pow]
  simp only [bfeVal, hw, if_false, if_true]
  rw [hshift, ← ofSigned, toSigned_ofSigned, ofSigned_eq_toNat]
  rfl

theorem bfeVal_lt (signed : Bool) (n a c : Nat) : bfeVal signed n a c < 2 ^ n := by
  unfold bfeVal
  extract_lets o w x f
  split
  · exact Nat.two_pow_pos n
  · exact ofSigned_lt n _

/-- Bit `i` of the number that a code of width `n` stands for: at or above the width, the sign (R533). -/
def extendedBit (signed : Bool) (n a i : Nat) : Bool := if i < n then a.testBit i else signed && a.testBit (n - 1)

theorem extendedBit_unsigned {n a : Nat} (ha : a < 2 ^ n) (i : Nat) : extendedBit false n a i = a.testBit i := by
  unfold extendedBit
  split
  next => rfl
  next hi => exact (Nat.testBit_lt_two_pow (ha.trans_le (Nat.pow_le_pow_right two_pos (Nat.not_lt.mp hi)))).symm

/-- Shifting in the sign and extending to the field's width reads the extended number from the offset on. -/
theorem getLsbD_signExtend_sshiftRight {n : Nat} (hn : 0 < n) (a o : Nat) {w i : Nat} (hi : i < w) :
    (((BitVec.ofNat n a).sshiftRight o).signExtend w).getLsbD i = extendedBit true n a (o + i) := by
  have hmsb : (BitVec.ofNat n a).msb = a.testBit (n - 1) := by
    rw [BitVec.msb_eq_getLsbD_last, BitVec.getLsbD_ofNat, decide_eq_true (Nat.sub_one_lt_of_lt hn), Bool.true_and]
  rw [BitVec.getLsbD_signExtend, BitVec.getLsbD_sshiftRight, BitVec.msb_sshiftRight, hmsb, BitVec.getLsbD_ofNat, extendedBit]
  grind

/-- bfe's bits within the field, and its extension above it. -/
theorem testBit_bfeVal {n a i : Nat} (signed : Bool) (c : Nat) (ha : a < 2 ^ n) (hi : i < n) (hw : c / 256 % 256 ≠ 0) :
    (bfeVal signed n a c).testBit i =
      if i < c / 256 % 256 then extendedBit signed n a (c % 256 + i)
      else signed && extendedBit signed n a (c % 256 + c / 256 % 256 - 1) := by
  have hpos : 0 < c / 256 % 256 := Nat.pos_of_ne_zero hw
  cases signed with
  | false =>
    rw [bfeVal_unsigned n a c hw, Nat.testBit_mod_two_pow, Nat.testBit_mod_two_pow, Nat.testBit_div_two_pow,
      extendedBit_unsigned ha, Nat.add_comm i]
    grind
  | true =>
    have hn : 0 < n := Nat.zero_lt_of_lt hi
    rw [bfeVal_signed n a c hw, BitVec.testBit_toNat, BitVec.getLsbD_signExtend, BitVec.msb_eq_getLsbD_last,
      getLsbD_signExtend_sshiftRight hn a _ (Nat.sub_one_lt hw), ← Nat.add_sub_assoc hpos]
    split
    next hfield => rw [getLsbD_signExtend_sshiftRight hn a _ hfield, decide_eq_true hi, Bool.true_and]
    next => rw [decide_eq_true hi, Bool.true_and]

/-! ### bfi -/

/-- The places of A that bfi writes: bits o to o + w − 1 below the width (R533). -/
theorem testBit_fieldMask (n o w i : Nat) :
    ((2 ^ w - 1) <<< o % 2 ^ n).testBit i = (decide (i < n) && (decide (o ≤ i) && decide (i < o + w))) := by
  rw [Nat.testBit_mod_two_pow, Nat.testBit_shiftLeft, Nat.testBit_two_pow_sub_one]
  grind

/-- B's low bits at those places. -/
theorem testBit_fieldValue (n o w b i : Nat) :
    ((b % 2 ^ w) <<< o % 2 ^ n).testBit i = (decide (i < n) && (decide (o ≤ i) && decide (i < o + w) && b.testBit (i - o))) := by
  rw [Nat.testBit_mod_two_pow, Nat.testBit_shiftLeft, Nat.testBit_mod_two_pow]
  grind

theorem testBit_bfiVal (n a b c i : Nat) (hi : i < n) :
    (bfiVal n a b c).testBit i =
      if c % 256 ≤ i ∧ i < c % 256 + c / 256 % 256 then b.testBit (i - c % 256) else a.testBit i := by
  have hmask : (2 ^ (c / 256 % 256) - 1) <<< (c % 256) % 2 ^ n < 2 ^ n := Nat.mod_lt _ (Nat.two_pow_pos n)
  simp only [bfiVal]
  rw [Nat.testBit_or, Nat.testBit_and, Nat.sub_sub, Nat.add_comm 1, Nat.testBit_two_pow_sub_succ hmask, testBit_fieldMask,
    testBit_fieldValue]
  rw [← Bool.decide_and]
  split
  next hfield => simp [hi, hfield]
  next hfield =>
    simp only [hi, hfield, decide_true, decide_false, Bool.and_false, Bool.false_and, Bool.not_false, Bool.and_true,
      Bool.or_false]

theorem bfiVal_lt (n a b c : Nat) (ha : a < 2 ^ n) : bfiVal n a b c < 2 ^ n :=
  Nat.or_lt_two_pow (Nat.and_le_left.trans_lt ha) (Nat.mod_lt _ (Nat.two_pow_pos n))

/-- Settles O3: bfe cuts and extends a bit vector, bfi merges two numbers under a mask, and both are operations of the format R
tables. -/
theorem bitFields : Obligations.BitFields := by
  unfold Obligations.BitFields
  refine ⟨fun n a b c _ ha => ?_, fun g e => ?_⟩
  · refine ⟨fun signed i hi => ?_, fun i hi => testBit_bfiVal n a b c i hi, fun signed => bfeVal_lt signed n a c,
      bfiVal_lt n a b c ha⟩
    split
    next hw => rw [bfeVal_width_zero signed n a c hw, Nat.zero_testBit]
    next hw => exact testBit_bfeVal signed c ha hi hw
  · exact ⟨runsOp_of_stepR (op := opBfe) (exec_bfe g e), runsOp_of_stepR (op := opBfi) (exec_bfi g e)⟩

end Sys2Proof.Proofs

/-! Floating-point results (R534): the order of a format's codes around 1.0, the clamp, and the operations of the FP32 and packed
classes. -/

namespace Sys2Proof.Proofs

open Sys2Proof.Machine

/-! ### Comparing with 1.0 -/

/-- A positive finite number is above 1.0 when its magnitude outweighs its exponent. -/
theorem cmp_one_eq_gt_iff (mag k p : Nat) :
    Machine.Num.cmp (.fin false mag ((k : Int) - p)) (.fin false 1 0) = some .gt ↔ 2 ^ (p - k) < mag * 2 ^ (k - p) := by
  have hmag : ((k : Int) - p - min ((k : Int) - p) 0).toNat = k - p := by omega
  have hone : (0 - min ((k : Int) - p) 0).toNat = p - k := by omega
  simp only [Machine.Num.cmp, Machine.Num.inUnits, hmag, hone, Nat.shiftLeft_eq, Option.some.injEq, Bool.false_eq_true, if_false,
    one_mul, compare_gt_iff_gt, Nat.cast_lt]

/-- A normal number with biased exponent `E` and fraction `f`: its order against 1.0 is that of the codes. -/
theorem normal_gt_one_iff {m bias E f : Nat} (hm : 1 ≤ m) (hf : f < 2 ^ m) :
    2 ^ (bias + m - E) < (2 ^ m + f) * 2 ^ (E - (bias + m)) ↔ bias * 2 ^ m < E * 2 ^ m + f := by
  obtain hE | rfl | hE := Nat.lt_trichotomy E bias
  · have hshift : 2 ^ (m + 1) ≤ 2 ^ (bias + m - E) := Nat.pow_le_pow_right two_pos (by omega)
    have hnext : (E + 1) * 2 ^ m ≤ bias * 2 ^ m := Nat.mul_le_mul_right _ hE
    rw [Nat.pow_succ] at hshift
    rw [Nat.add_mul, Nat.one_mul] at hnext
    rw [Nat.sub_eq_zero_of_le (by omega : E ≤ bias + m), Nat.pow_zero, Nat.mul_one]
    omega
  · rw [Nat.add_sub_cancel_left, Nat.sub_eq_zero_of_le (Nat.le_add_right E m), Nat.pow_zero, Nat.mul_one]
    omega
  · have hshift : 2 ^ (bias + m - E) < 2 ^ m := Nat.pow_lt_pow_right one_lt_two (by omega)
    have hscale : 2 ^ m + f ≤ (2 ^ m + f) * 2 ^ (E - (bias + m)) := Nat.le_mul_of_pos_right _ (Nat.two_pow_pos _)
    have hnext : (bias + 1) * 2 ^ m ≤ E * 2 ^ m := Nat.mul_le_mul_right _ hE
    have hunit : 0 < 2 ^ m := Nat.two_pow_pos m
    rw [Nat.add_mul, Nat.one_mul] at hnext
    exact iff_of_true (by omega) (by omega)

/-- A subnormal number is below 1.0. -/
theorem subnormal_not_gt_one {m bias f : Nat} (hm : 1 ≤ m) (hbias : 1 ≤ bias) (hf : f < 2 ^ m) :
    ¬2 ^ (bias + m - 1) < f * 2 ^ (1 - (bias + m)) := by
  have hshift : 2 ^ m ≤ 2 ^ (bias + m - 1) := Nat.pow_le_pow_right two_pos (by omega)
  rw [Nat.sub_eq_zero_of_le (by omega : 1 ≤ bias + m), Nat.pow_zero, Nat.mul_one]
  omega

/-! ### Decoding -/

/-- The layouts that the clamp acts on: they have infinities directly above the largest finite code, and `one` is 1.0. -/
structure ClampLayout (F : Fmt) (one : Nat) : Prop where
  fraction : 1 ≤ F.m
  bias : 1 ≤ F.bias
  sign : 1 ≤ F.bits
  inf : F.infCode = F.maxCode + 1
  one_eq : one = F.bias * 2 ^ F.m
  one_lt : one < F.infCode
  ieee_one : F.ieee (.fin false 1 0) = one

theorem clampLayout_f32 : ClampLayout .f32 0x3F800000 :=
  ⟨by decide, by decide, by decide, rfl, rfl, by decide, rfl⟩
theorem clampLayout_f16 : ClampLayout .f16 0x3C00 :=
  ⟨by decide, by decide, by decide, rfl, rfl, by decide, rfl⟩
theorem clampLayout_bf16 : ClampLayout .bf16 0x3F80 :=
  ⟨by decide, by decide, by decide, rfl, rfl, by decide, rfl⟩

/-- The finite number of a magnitude code. -/
def finiteNum (F : Fmt) (neg : Bool) (mg : Nat) : Machine.Num :=
  if mg / 2 ^ F.m = 0 then .fin neg (mg % 2 ^ F.m) ((1 : Nat) - (F.bias + F.m : Nat))
  else .fin neg (2 ^ F.m + mg % 2 ^ F.m) ((mg / 2 ^ F.m : Nat) - (F.bias + F.m : Nat))

theorem finiteNum_gt_one_iff {F : Fmt} {one : Nat} (hF : ClampLayout F one) (mg : Nat) :
    (finiteNum F false mg).cmp (.fin false 1 0) = some .gt ↔ one < mg := by
  have hf : mg % 2 ^ F.m < 2 ^ F.m := Nat.mod_lt _ (Nat.two_pow_pos _)
  have hsplit : mg / 2 ^ F.m * 2 ^ F.m + mg % 2 ^ F.m = mg := Nat.div_add_mod' mg _
  unfold finiteNum
  split
  next hE =>
    rw [hE, Nat.zero_mul, Nat.zero_add] at hsplit
    have hone : 2 ^ F.m ≤ one := hF.one_eq ▸ Nat.le_mul_of_pos_left _ hF.bias
    rw [cmp_one_eq_gt_iff]
    exact iff_of_false (subnormal_not_gt_one hF.fraction hF.bias hf) (by omega)
  next => rw [cmp_one_eq_gt_iff, normal_gt_one_iff hF.fraction hf, hsplit, hF.one_eq]

theorem isNeg_finiteNum (F : Fmt) (neg : Bool) (mg : Nat) : (finiteNum F neg mg).isNeg = neg := by
  unfold finiteNum
  split <;> rfl

theorem finiteNum_ne_nan (F : Fmt) (neg : Bool) (mg : Nat) : finiteNum F neg mg ≠ .nan := by
  unfold finiteNum
  split <;> exact nofun

section
variable {F : Fmt} {one code : Nat} (hF : ClampLayout F one)
include hF

theorem decode_of_inf_lt (h : F.infCode < code % 2 ^ (F.bits - 1)) : F.decode code = .nan := by
  have hinf := hF.inf
  simp only [Fmt.decode]
  rw [if_neg (by omega), if_pos (by omega)]

theorem decode_of_eq_inf (h : code % 2 ^ (F.bits - 1) = F.infCode) : F.decode code = .inf (bitOf code (F.bits - 1)) := by
  have hinf := hF.inf
  simp only [Fmt.decode]
  rw [if_pos ⟨by omega, h⟩]

theorem decode_of_lt_inf (h : code % 2 ^ (F.bits - 1) < F.infCode) :
    F.decode code = finiteNum F (bitOf code (F.bits - 1)) (code % 2 ^ (F.bits - 1)) := by
  have hinf := hF.inf
  simp only [Fmt.decode, finiteNum]
  rw [if_neg (by omega), if_neg (by omega)]
  push_cast
  simp only [sub_sub]

/-- A code that is no NaN has the sign of its top bit. -/
theorem isNeg_decode (h : code % 2 ^ (F.bits - 1) ≤ F.infCode) :
    F.decode code ≠ .nan ∧ (F.decode code).isNeg = bitOf code (F.bits - 1) := by
  obtain hfin | hinf := Nat.lt_or_eq_of_le h
  · rw [decode_of_lt_inf hF hfin]
    exact ⟨finiteNum_ne_nan _ _ _, isNeg_finiteNum _ _ _⟩
  · rw [decode_of_eq_inf hF hinf]
    exact ⟨nofun, rfl⟩

/-- Above 1.0 are the codes above its own, infinity with them. -/
theorem decode_gt_one_iff (hsign : bitOf code (F.bits - 1) = false) (h : code % 2 ^ (F.bits - 1) ≤ F.infCode) :
    (F.decode code).cmp (.fin false 1 0) = some .gt ↔ one < code % 2 ^ (F.bits - 1) := by
  obtain hfin | hinf := Nat.lt_or_eq_of_le h
  · rw [decode_of_lt_inf hF hfin, hsign, finiteNum_gt_one_iff hF]
  · rw [decode_of_eq_inf hF hinf, hsign, hinf]
    exact iff_of_true rfl hF.one_lt

end

/-! ### The clamp -/

theorem clamp01_of_nan {F : Fmt} {code : Nat} (hnan : F.decode code = .nan) : F.clamp01 code = 0 := by
  rw [Fmt.clamp01, hnan]

theorem clamp01_of_neg {F : Fmt} {code : Nat} (hneg : (F.decode code).isNeg = true) : F.clamp01 code = 0 := by
  unfold Fmt.clamp01
  split
  next => rfl
  next => rw [if_pos hneg]

theorem clamp01_of_not_neg {F : Fmt} {code : Nat} (hnan : F.decode code ≠ .nan) (hneg : (F.decode code).isNeg = false) :
    F.clamp01 code = if (F.decode code).cmp (.fin false 1 0) = some .gt then F.ieee (.fin false 1 0) else code := by
  unfold Fmt.clamp01
  split
  next h => exact absurd h hnan
  next => rw [if_neg (by rw [hneg]; exact Bool.false_ne_true)]

/-- The clamp on codes (R534): a NaN and what is below +0.0 give +0, what is above 1.0 gives 1.0. -/
theorem clamp01_eq {F : Fmt} {one : Nat} (hF : ClampLayout F one) {code : Nat} (hcode : code < 2 ^ F.bits) :
    F.clamp01 code =
      if F.infCode < code % 2 ^ (F.bits - 1) then 0
      else if 2 ^ (F.bits - 1) ≤ code then 0
      else if one < code then one else code := by
  have hbits : F.bits - 1 + 1 = F.bits := Nat.sub_add_cancel hF.sign
  split
  next hnan => exact clamp01_of_nan (decode_of_inf_lt hF hnan)
  next hnum =>
    obtain ⟨hne, hneg⟩ := isNeg_decode hF (Nat.not_lt.mp hnum)
    split
    next hsign =>
      have hbit : bitOf code (F.bits - 1) = true :=
        Nat.testBit_of_two_pow_le_and_two_pow_add_one_gt hsign (hbits.symm ▸ hcode)
      exact clamp01_of_neg (hneg.trans hbit)
    next hsign =>
      have hbit : bitOf code (F.bits - 1) = false := Nat.testBit_lt_two_pow (Nat.not_le.mp hsign)
      have hmg : code % 2 ^ (F.bits - 1) = code := Nat.mod_eq_of_lt (Nat.not_le.mp hsign)
      have hgt := decode_gt_one_iff hF hbit (Nat.not_lt.mp hnum)
      rw [hmg] at hgt
      rw [clamp01_of_not_neg hne (hneg.trans hbit), if_congr hgt hF.ieee_one rfl]

/-- Settles O4: each operation is one of the format R tables, whose function unfolds to the one stated, and the clamp compares
codes as numbers. -/
theorem floatResults : Obligations.FloatResults := by
  unfold Obligations.FloatResults
  refine ⟨fun g e => ?_, ?_⟩
  · exact ⟨runsOp_of_stepR (op := opFadd) (exec_fadd g e), runsOp_of_stepR (op := opFmul) (exec_fmul g e),
      runsOp_of_stepR (op := opFfma) (exec_ffma g e), runsOp_of_stepR (op := opFmin) (exec_fmin g e),
      runsOp_of_stepR (op := opFmax) (exec_fmax g e), runsOp_of_stepR (op := opFsetp) (exec_fsetp g e),
      runsOp_of_stepR (op := opFrnd) (exec_frnd g e), runsOp_of_stepR (op := opHadd2) (exec_hadd2 g e),
      runsOp_of_stepR (op := opHmul2) (exec_hmul2 g e), runsOp_of_stepR (op := opHfma2) (exec_hfma2 g e),
      runsOp_of_stepR (op := opHmin2) (exec_hmin2 g e), runsOp_of_stepR (op := opHmax2) (exec_hmax2 g e)⟩
  · rintro F one code (⟨rfl, rfl⟩ | ⟨rfl, rfl⟩ | ⟨rfl, rfl⟩) hcode
    · exact clamp01_eq clampLayout_f32 hcode
    · exact clamp01_eq clampLayout_f16 hcode
    · exact clamp01_eq clampLayout_bf16 hcode

end Sys2Proof.Proofs

/-! What reaches a fence (R320, R334, R337): memory traffic, reports and the end of the waits leave every fence as it is, so
that a fence is what its signal or its poison made of it. -/

namespace Sys2Proof.Proofs

open Sys2Proof.Machine

/-! ### Memory traffic leaves the fences -/

/-- A fold whose steps keep what `r` reads keeps it. -/
theorem foldl_keeps {σ α β : Type} (r : σ → β) {f : σ → α → σ} (h : ∀ a x, r (f a x) = r a) (l : List α) (a : σ) :
    r (l.foldl f a) = r a := by
  induction l generalizing a with
  | nil => rfl
  | cons x l ih => rw [List.foldl_cons, ih, h]

@[simp] theorem raiseIbi_fences (s : State) (k : Nat) (p : List Byte) : (raiseIbi s k p).fences = s.fences :=
  (notified_raiseIbi s k p).fences
@[simp] theorem notifyTenant_fences (s : State) (t v : Nat) : (notifyTenant s t v).fences = s.fences :=
  (notified_notifyTenant s t v).fences
@[simp] theorem postEventOn_fences (s : State) (ch code : Nat) (p : List Byte) : (postEventOn s ch code p).fences = s.fences :=
  (notified_postEventOn s ch code p).fences
@[simp] theorem invalidateLine_fences (s : State) (w : Option Nat) (ln : Nat) : (invalidateLine s w ln).fences = s.fences := rfl
@[simp] theorem suspectData_fences (s : State) : (suspectData s).fences = s.fences := rfl
@[simp] theorem sawPoison_fences (s : State) : (sawPoison s).fences = s.fences := rfl

@[simp] theorem recordError_fences (s : State) (kind unit cls loc : Nat) : (recordError s kind unit cls loc).fences = s.fences := by
  unfold recordError
  extract_lets a s1
  split
  · exact raiseIbi_fences s1 _ _
  · rfl

@[simp] theorem metPoison_fences (s : State) : (metPoison s).fences = s.fences := by simp [metPoison]

@[simp] theorem hostWrite_fences (s : State) (p off : Nat) (bs : List Byte) : (hostWrite s p off bs).fences = s.fences := by
  unfold hostWrite
  split <;> rfl

@[simp] theorem hostWriteLine_fences (s : State) (p off ln : Nat) (bs : List Byte) :
    (hostWriteLine s p off ln bs).fences = s.fences := by
  unfold hostWriteLine
  extract_lets s1
  split <;> simp [s1]

@[simp] theorem hostLine_fences (s : State) (pa : Nat) : (hostLine s pa).2.fences = s.fences := by
  unfold hostLine
  split <;> rfl

@[simp] theorem evictLine_fences (s : State) (e : CLine) : (evictLine s e).fences = s.fences := by
  unfold evictLine
  dsimp only
  split
  · rw [State.setMem_fences]
    split
    · split
      · rw [hostWriteLine_fences, State.setMem_fences]
      · rfl
    · rfl
  · split
    · rfl
    · split
      · exact foldl_keeps State.fences (fun t _ => recordError_fences t _ _ _ _) _ _
      · rfl

@[simp] theorem cacheVictim_fences (s : State) (full : List CLine) (lru : Bool) : (cacheVictim s full lru).2.fences = s.fences := by
  unfold cacheVictim
  split <;> rfl

@[simp] theorem touchLine_fences (s : State) (ln : Nat) (stream write : Bool) : (touchLine s ln stream write).fences = s.fences := by
  unfold touchLine
  split
  · rfl
  · extract_lets mine ws
    split
    · rfl
    · have hvictim := cacheVictim_fences s (mine.filter fun e => ws.contains e.way) (stream && s.cfg.streamWays != 0)
      split
      next heq => rwa [heq] at hvictim
      next heq =>
        rw [heq] at hvictim
        simpa using hvictim

@[simp] theorem physWrite1_fences (s : State) (writer : Option Nat) (cached : Bool) (pa : Nat) (bs : List Byte) :
    (physWrite1 s writer cached pa bs).fences = s.fences := by
  unfold physWrite1
  split
  · rfl
  · split
    · simp
    · split <;> simp
  · rfl

@[simp] theorem sliceWrite_fences (s : State) (writer : Option Nat) (cached stream : Bool) (pa : Nat) (bs : List Byte) :
    (sliceWrite s writer cached stream pa bs).fences = s.fences := by
  unfold sliceWrite
  split <;> simp

@[simp] theorem devWrite1_fences (s : State) (pa : Nat) (bs : List Byte) : (devWrite1 s pa bs).fences = s.fences := by
  unfold devWrite1
  extract_lets s1
  split <;> simp [s1]

@[simp] theorem devWriteN_fences (fuel : Nat) (s : State) (pa : Nat) (bs : List Byte) :
    (devWriteN fuel s pa bs).fences = s.fences := by
  induction fuel generalizing s pa bs with
  | zero => rfl
  | succ fuel ih =>
    unfold devWriteN
    split
    · rfl
    · simp [ih]

@[simp] theorem objWrite_fences (s : State) (o gen off : Nat) (bs : List Byte) : (objWrite s o gen off bs).fences = s.fences := by
  unfold objWrite
  split
  · exact devWriteN_fences _ _ _ _
  · rfl

/-! ### Status blocks, reports and regressions leave the fences -/

@[simp] theorem setBlock_fences (s : State) (c off n v : Nat) : (setBlock s c off n v).fences = s.fences := by simp [setBlock]
@[simp] theorem incBlock_fences (s : State) (c off : Nat) : (incBlock s c off).fences = s.fences := by simp [incBlock]
@[simp] theorem report_fences (s : State) (q : Nat) : (report s q).fences = s.fences := by simp [report]

@[simp] theorem finishCmd_fences (s : State) (id : Nat) : (finishCmd s id).fences = s.fences := by
  unfold finishCmd
  split
  · rfl
  · exact report_fences _ _

@[simp] theorem regress_fences (s : State) (src : SigSrc) (n : Nat) (v : DWord) : (regress s src n v).fences = s.fences := by
  cases src with
  | ctx c code q => simp [regress]
  | tenant t => exact logPlain_fences _ _ _ _
  | bar t rid => exact logTenant_fences _ _ _
  | flume => rfl

/-! ### The end of waits leaves the fences -/

@[simp] theorem endFwait_fences (s : State) (g : GroupAt) (status : Nat) : (endFwait s g status).fences = s.fences := by
  unfold endFwait
  dsimp only
  split
  · split
    · exact incBlock_fences _ _ _
    · split
      · exact incBlock_fences _ _ _
      · rfl
  · rfl

@[simp] theorem endFwaits_fences (s : State) (n : Nat) : (endFwaits s n).fences = s.fences := by
  refine foldl_keeps State.fences (fun t e => ?_) _ _
  split <;> simp

@[simp] theorem endHostWait_fences (s : State) (t k outcome : Nat) : (endHostWait s t k outcome).fences = s.fences := by
  simp [endHostWait]

@[simp] theorem endHostWaits_fences (s : State) (n : Nat) : (endHostWaits s n).fences = s.fences := by
  refine foldl_keeps State.fences (fun t e => foldl_keeps State.fences (fun u he => ?_) _ _) _ _
  split
  · split <;> simp
  · rfl

@[simp] theorem endQwaits_fences (s : State) (n : Nat) : (endQwaits s n).1.fences = s.fences := by
  refine foldl_keeps (fun acc : State × List Act => acc.1.fences) (fun acc e => ?_) _ _
  split
  · rfl
  · split
    · rfl
    · split <;> simp

@[simp] theorem evalSet_fences (s : State) (x : FlipSet) : (evalSet s x).1.fences = s.fences := by
  unfold evalSet
  split
  · exact bump_fences _ _ _
  · split <;> rfl

@[simp] theorem endFlips_fences (s : State) (n : Nat) : (endFlips s n).1.fences = s.fences := by
  refine foldl_keeps (fun a : State × List Act => a.1.fences) (fun a x => ?_) _ _
  split
  · exact evalSet_fences a.1 x
  · rfl

@[simp] theorem endWaits_fences (s : State) (n : Nat) : (endWaits s n).1.fences = s.fences := by simp [endWaits]

theorem fence_eq_of_fences_eq {s t : State} (h : t.fences = s.fences) (k : Nat) : t.fence k = s.fence k := by
  rw [State.fence, h, State.fence]

@[simp] theorem regress_fence (s : State) (src : SigSrc) (n : Nat) (v : DWord) (k : Nat) :
    (regress s src n v).fence k = s.fence k := fence_eq_of_fences_eq (regress_fences s src n v) k

/-- A fence set to `x` is `x` once the waits on it have ended, and no other fence changes. -/
theorem endWaits_setFence_fence (s : State) (n : Nat) (x : Fence) (k : Nat) :
    (endWaits (s.setFence n x) n).1.fence k = if k = n then x else s.fence k := by
  rw [fence_eq_of_fences_eq (endWaits_fences _ n), State.setFence_fence]

/-! ### What a signal makes of a fence -/

section
variable {f : Fence} {v : DWord}

theorem signal_above (hh : f.heritage = false) (hv : f.value < v) :
    f.signal v = (some { f with
      value := v, flag := decide (v = BitVec.allOnes 64)
      st := if v = BitVec.allOnes 64 ∧ f.st = .live then .poisoned else f.st }, false) := by
  simp only [Fence.signal, hh, hv, if_true, if_false, Bool.false_eq_true]
  rfl

theorem signal_not_above (hh : f.heritage = false) (hv : ¬f.value < v) : f.signal v = (none, decide (v < f.value)) := by
  simp only [Fence.signal, hh, hv, if_false, Bool.false_eq_true]

theorem signal_equal (hh : f.heritage = false) (hv : v = f.value) : f.signal v = (none, false) := by
  have hnot : ¬v < f.value := hv ▸ BitVec.lt_irrefl v
  rw [signal_not_above hh (hv ▸ BitVec.lt_irrefl v), decide_eq_false hnot]

theorem signal_below (hh : f.heritage = false) (hv : v < f.value) : f.signal v = (none, true) := by
  rw [signal_not_above hh (BitVec.lt_asymm hv), decide_eq_true hv]

/-- How far a signal lies ahead of a heritage fence, modulo 2^32 (R337). -/
def heritageAdvance (f : Fence) (v : DWord) : Nat := (v.toNat % 2 ^ 32 + 2 ^ 32 - f.value.toNat % 2 ^ 32) % 2 ^ 32

theorem signal_heritage_equal (hh : f.heritage = true) (hd : heritageAdvance f v = 0) : f.signal v = (none, false) := by
  rw [heritageAdvance] at hd
  simp only [Fence.signal, hh, hd, if_true]

theorem signal_heritage_ahead (hh : f.heritage = true) (hflag : f.flag = false) (hpos : 0 < heritageAdvance f v)
    (hd : heritageAdvance f v < 2 ^ 31) :
    f.signal v = (some { f with value := BitVec.ofNat 64 (v.toNat % 2 ^ 32), adv := f.adv + heritageAdvance f v }, false) := by
  rw [heritageAdvance] at hpos hd ⊢
  simp only [Fence.signal, hh, if_true, hpos.ne', if_false, hflag, Nat.not_le.mpr hd, decide_false, Bool.or_false,
    Bool.false_eq_true]

theorem signal_heritage_behind (hh : f.heritage = true) (hd : 2 ^ 31 ≤ heritageAdvance f v) : f.signal v = (none, true) := by
  have hne : heritageAdvance f v ≠ 0 := by omega
  rw [heritageAdvance] at hd hne
  simp only [Fence.signal, hh, if_true, hne, if_false, hd, decide_true, Bool.or_true]

end

/-! ### What a signal and a poison make of the state -/

section
variable {s : State} {src : SigSrc} {n : Nat} {v : DWord}

theorem applySignal_free (hst : (s.fence n).st = .free) : applySignal s src n v = (s, []) := if_pos hst

theorem applySignal_moves {y : Fence} {b : Bool} (hst : (s.fence n).st ≠ .free) (hsig : (s.fence n).signal v = (some y, b)) :
    applySignal s src n v = endWaits (s.setFence n { y with moves := (s.fence n).noteMove s.timer }) n := by
  simp only [applySignal, if_neg hst, hsig]

theorem applySignal_regresses (hst : (s.fence n).st ≠ .free) (hsig : (s.fence n).signal v = (none, true)) :
    applySignal s src n v = (regress s src n v, []) := by
  simp only [applySignal, if_neg hst, hsig]

theorem applySignal_stays (hst : (s.fence n).st ≠ .free) (hsig : (s.fence n).signal v = (none, false)) :
    applySignal s src n v = (s, []) := by
  simp only [applySignal, if_neg hst, hsig]

theorem applySignal_moves_fence {y : Fence} {b : Bool} (hst : (s.fence n).st ≠ .free)
    (hsig : (s.fence n).signal v = (some y, b)) (k : Nat) :
    (applySignal s src n v).1.fence k =
      if k = n then { y with moves := (s.fence n).noteMove s.timer } else s.fence k := by
  rw [applySignal_moves hst hsig, endWaits_setFence_fence]

/-- A signal changes no other fence. -/
theorem applySignal_fence_of_ne {k : Nat} (hk : k ≠ n) : (applySignal s src n v).1.fence k = s.fence k := by
  by_cases hst : (s.fence n).st = .free
  · rw [applySignal_free hst]
  · rcases hsig : (s.fence n).signal v with ⟨_ | y, b⟩
    · cases b with
      | false => rw [applySignal_stays hst hsig]
      | true => rw [applySignal_regresses hst hsig, regress_fence]
    · rw [applySignal_moves_fence hst hsig, if_neg hk]

theorem applyPoison_live (hst : (s.fence n).st = .live) :
    applyPoison s n = endWaits (s.setFence n { s.fence n with
      st := .poisoned, flag := true
      value := if (s.fence n).heritage then (s.fence n).value else BitVec.allOnes 64 }) n := if_pos hst

theorem applyPoison_not_live (hst : (s.fence n).st ≠ .live) : applyPoison s n = (s, []) := if_neg hst

theorem applyPoison_fence_of_ne {k : Nat} (hk : k ≠ n) : (applyPoison s n).1.fence k = s.fence k := by
  by_cases hst : (s.fence n).st = .live
  · rw [applyPoison_live hst, endWaits_setFence_fence, if_neg hk]
  · rw [applyPoison_not_live hst]

end

/-- Settles O18: the waits that end keep every fence, so a fence afterwards is what `Fence.signal` or the poison made of it. -/
theorem signalRule : Obligations.SignalRule := by
  unfold Obligations.SignalRule
  intro s src n v f t u
  refine ⟨?free, ?above, ?equal, ?below, ?heritage, ?poison, ?unpoisoned, ?others⟩
  case free => exact fun hst => congrArg Prod.fst (applySignal_free hst)
  case above =>
    intro hst hh hv
    exact (applySignal_moves_fence hst (signal_above hh hv) n).trans (if_pos rfl)
  case equal =>
    intro hst hh hv
    exact congrArg Prod.fst (applySignal_stays hst (signal_equal hh hv))
  case below =>
    intro hst hh hv
    have ht : t = regress s src n v := congrArg Prod.fst (applySignal_regresses hst (signal_below hh hv))
    exact ⟨ht ▸ regress_fence s src n v n, ht⟩
  case heritage =>
    intro hst hh hflag d
    refine ⟨fun hd => ?_, fun hpos hd => ?_, fun hd => ?_⟩
    · exact congrArg Prod.fst (applySignal_stays hst (signal_heritage_equal hh hd))
    · exact (applySignal_moves_fence hst (signal_heritage_ahead hh hflag hpos hd) n).trans (if_pos rfl)
    · exact congrArg Prod.fst (applySignal_regresses hst (signal_heritage_behind hh hd))
  case poison =>
    intro hst
    have hu : u = (endWaits (s.setFence n _) n).1 := congrArg Prod.fst (applyPoison_live hst)
    rw [hu, endWaits_setFence_fence, if_pos rfl]
  case unpoisoned => exact fun hst => congrArg Prod.fst (applyPoison_not_live hst)
  case others => exact fun k hk => ⟨applySignal_fence_of_ne hk, applyPoison_fence_of_ne hk⟩

end Sys2Proof.Proofs

/-! What every command and every step keeps: the fuses, the queue of waiting commands, the canonical memories and the
bounded counters. Each command answers a next state, and its frame is the Keeps lemma of its meaning. -/

namespace Sys2Proof.Proofs

open Sys2Proof.Machine

theorem goesOn_next (s : State) : GoesOn (.next s) := ⟨s, rfl⟩

theorem goesOn_done (s : State) : GoesOn (done s) := ⟨s, rfl⟩

/-- Every path of every command's meaning ends in a next state. -/
theorem exec_goesOn (c : Instr) (s : State) : GoesOn (exec c s) := by
  cases c with
  | nop | bra | brx | join | exit | call | ret | iadd | isub | imul | imulhi | imad | imin | imax | andL | orL | xor
  | notL | shl | shr | popc | clz | bfe | bfi | isetp | fadd | fmul | ffma | fmin | fmax | fsetp | frnd | hadd2 |
  hmul2 | hfma2 | hmin2 | hmax2 | rcp | rsqrt | sqrt | exp2 | log2 | sin | cos | cvt | cvtPk2 | cvtUnpk | mov | sel
  | shfl | vote | rdsr | plop | ld | st | lds | sts | atoms | atom | bar | membar | fsig | fwait | fread | tex |
  tmma | twld | tcvt | tsync | tld | tst | bulkPromotion | queueDoorbell | nopPacket | dispatch | workgroupResident
  | cut | renderPass | fenceSignal | fenceWait | flush | invalidate | icacheInvalidate | tlbInvalidate |
  ringmarkOpen | copy | fill | fenceSignalRegister | fencePoisonRegister | arm | disarm | flumeDoorbell |
  flumeReplyRead | abort | selfReset | ping | eventMask | rollCallList | tenantRebind | rollCallEnd | tenantCreate |
  tenantReset | tenantDestroy | contextCreate | contextReset | contextDestroy | contextSetHeaps | contextQuery |
  contextTlbInvalidate | queueCreate | queueDestroy | watchdogSet | objectCreate | objectFree | objectShare |
  objectRevoke | objectQuery | fenceCreate | fenceFree | fenceShare | fenceRevoke | fenceBind | fenceUnbind |
  flumeFenceSignal | flumeFencePoison | fenceQuery | bridgeCreate | bridgeRemove | outputGrant | outputRevoke |
  layerGrant | layerRevoke | displayQuery | engineGrant | engineRelease | graphLoad | graphRun | graphCancel |
  graphUnload | composeStart | composeStop | composeServiceFrame | transfer | imageStage | imageQuery |
  imageActivate | imageCommit | imageRollback | envelopeSet | powerState | debugGrant | activationCopyDone |
  activationWaitExpired | switchStart | switchEnd | healthWindowEnd | rangerRestartDone | flipSubmit |
  leadWindowOpen | beaconCommit | beaconPublish | keeperEntry | keeperRelease | outputEnable | outputDisable |
  modeset | modesetDone | writebackFrameDone | hpdPlug | hpdUnplug | irqHpd | go | auxDone | chGo | chipperBlock |
  start | bzFeed | bzFeedPart | contextResetDone | contextFreed | queueFreed | tenantFreed | objectReclaim |
  fenceReleased | linkUp | rollCallTimeout | hostReadTimeout | msixUnmask | droopTrip | deepTrip | droopRecover |
  governorPeriod | idleGateStart | duskAnswer | duskReask | duskNoAnswer | duskCommitDone | domainPowerUpDone |
  addressMatch | wakeComplete | nightLinkGraceExpiry | envelopeReq | thermalSample | pgLow | scrubRead |
  writeLinkPoll | retirement | retirePowerOff | coreRetired | selfTestStart | selfTestDone | unitIsolation | clear |
  scorch | forceNight | i3cPrivateWrite | entdaa | setdasa | setnewda | enec | disec | getstatus | getmrl | rstact |
  ibiRetry | idcode | debugAccessPort | resetRelease | hostReady | imageStageDone | graphLoadDone |
  contextTlbInvalidateDone | tripClear | undefinedEncoding | badPacket | badOpcode => exact ⟨_, rfl⟩
  | storeAck core k => rw [exec_storeAck]; unfold execStoreAck; extract_lets; (repeat' split) <;> exact ⟨_, rfl⟩
  | l1Fill core bank prefetch => rw [exec_l1Fill]; unfold execL1Fill; split <;> exact ⟨_, rfl⟩
  | tmmaComplete core k => rw [exec_tmmaComplete]; unfold execTmmaComplete; extract_lets; (repeat' split) <;> exact ⟨_, rfl⟩
  | twldComplete core k => rw [exec_twldComplete]; unfold execTwldComplete; extract_lets; (repeat' split) <;> exact ⟨_, rfl⟩
  | tcvtComplete core k => rw [exec_tcvtComplete]; unfold execTcvtComplete; extract_lets; (repeat' split) <;> exact ⟨_, rfl⟩
  | barrierStranded core wg => rw [exec_barrierStranded]; unfold execBarrierStranded; extract_lets; (repeat' split) <;> exact ⟨_, rfl⟩
  | asyncPromotion core slot => rw [exec_asyncPromotion]; unfold execAsyncPromotion; extract_lets; (repeat' split) <;> exact ⟨_, rfl⟩
  | ringmarkClose p => rw [exec_ringmarkClose]; unfold execRingmarkClose; exact ⟨_, rfl⟩
  | copyChunkDone cmd => rw [exec_copyChunkDone]; unfold execCopyChunkDone; extract_lets; (repeat' split) <;> exact ⟨_, rfl⟩
  | commandComplete cmd => rw [exec_commandComplete]; unfold execCommandComplete; exact ⟨_, rfl⟩
  | itemDigestsDone cmd => rw [exec_itemDigestsDone]; unfold execItemDigestsDone; (repeat' split) <;> exact ⟨_, rfl⟩
  | digestChunkDone lane => rw [exec_digestChunkDone]; unfold execDigestChunkDone; extract_lets; (repeat' split) <;> exact ⟨_, rfl⟩
  | ringmarkFoldDone cmd => rw [exec_ringmarkFoldDone]; unfold execRingmarkFoldDone; (repeat' split) <;> exact ⟨_, rfl⟩
  | weightStreamStart cmd => rw [exec_weightStreamStart]; unfold execWeightStreamStart; repeat' (first | with_reducible exact goesOn_next _ | with_reducible exact goesOn_done _ | split | extract_lets)
  | weightSegmentDone e => rw [exec_weightSegmentDone]; unfold execWeightSegmentDone; (repeat' split) <;> exact ⟨_, rfl⟩
  | cutTileStart core cmd => rw [exec_cutTileStart]; unfold execCutTileStart; exact ⟨_, rfl⟩
  | tileEngineTransferDone core ahead => rw [exec_tileEngineTransferDone]; unfold execTileEngineTransferDone; split <;> exact ⟨_, rfl⟩
  | stageStart core => rw [exec_stageStart]; unfold execStageStart; repeat' (first | with_reducible exact goesOn_next _ | with_reducible exact goesOn_done _ | split | extract_lets)
  | combineTileStart core cmd => rw [exec_combineTileStart]; unfold execCombineTileStart; exact ⟨_, rfl⟩
  | cutComplete cmd => rw [exec_cutComplete]; unfold execCutComplete; exact ⟨_, rfl⟩
  | cutRestart cmd => rw [exec_cutRestart]; unfold execCutRestart; extract_lets; (repeat' split) <;> exact ⟨_, rfl⟩
  | drawBinning cmd => rw [exec_drawBinning]; unfold execDrawBinning; extract_lets; (repeat' split) <;> exact ⟨_, rfl⟩
  | binningResume cmd => rw [exec_binningResume]; unfold execBinningResume; repeat' (first | with_reducible exact goesOn_next _ | with_reducible exact goesOn_done _ | split | extract_lets)
  | attributePhaseStart cmd draw => rw [exec_attributePhaseStart]; unfold execAttributePhaseStart; (repeat' split) <;> exact ⟨_, rfl⟩
  | tileShadingStart cmd => rw [exec_tileShadingStart]; unfold execTileShadingStart; (repeat' split) <;> exact ⟨_, rfl⟩
  | renderTileStart core cmd => rw [exec_renderTileStart]; unfold execRenderTileStart; repeat' (first | with_reducible exact goesOn_next _ | with_reducible exact goesOn_done _ | split | extract_lets)
  | fragmentCommit core k => rw [exec_fragmentCommit]; unfold execFragmentCommit; extract_lets; (repeat' split) <;> exact ⟨_, rfl⟩
  | renderTileEnd core => rw [exec_renderTileEnd]; unfold execRenderTileEnd; repeat' (first | with_reducible exact goesOn_next _ | with_reducible exact goesOn_done _ | split | extract_lets)
  | renderPassComplete cmd => rw [exec_renderPassComplete]; unfold execRenderPassComplete; (repeat' split) <;> exact ⟨_, rfl⟩
  | fenceTimeout w => rw [exec_fenceTimeout]; unfold execFenceTimeout; repeat' (first | with_reducible exact goesOn_next _ | with_reducible exact goesOn_done _ | split | extract_lets)
  | bridgeUpdate b => rw [exec_bridgeUpdate]; unfold execBridgeUpdate; exact ⟨_, rfl⟩
  | flumeNop r => rw [exec_flumeNop]; unfold execFlumeNop; exact ⟨_, rfl⟩
  | rangerRestart cause => rw [exec_rangerRestart]; unfold execRangerRestart; exact ⟨_, rfl⟩
  | flipDeadline n late => change GoesOn (execFlipDeadline n late s); unfold execFlipDeadline; exact ⟨_, rfl⟩
  | pixelUnderrun n x y => rw [exec_pixelUnderrun]; unfold execPixelUnderrun; exact ⟨_, rfl⟩
  | chipperJobComplete c => rw [exec_chipperJobComplete]; unfold execChipperJobComplete; repeat' (first | with_reducible exact goesOn_next _ | with_reducible exact goesOn_done _ | split | extract_lets)
  | escalation core cmd => rw [exec_escalation]; unfold execEscalation; (repeat' split) <;> exact ⟨_, rfl⟩
  | quantumExpiry core cmd => rw [exec_quantumExpiry]; unfold execQuantumExpiry; extract_lets; (repeat' split) <;> exact ⟨_, rfl⟩
  | saveComplete core => rw [exec_saveComplete]; unfold execSaveComplete; extract_lets; (repeat' split) <;> exact ⟨_, rfl⟩
  | restoreComplete k => rw [exec_restoreComplete]; unfold execRestoreComplete; (repeat' split) <;> exact ⟨_, rfl⟩
  | queueWatchdog q => rw [exec_queueWatchdog]; unfold execQueueWatchdog; extract_lets; (repeat' split) <;> exact ⟨_, rfl⟩
  | contextWatchdog cmd => rw [exec_contextWatchdog]; unfold execContextWatchdog; repeat' (first | with_reducible exact goesOn_next _ | with_reducible exact goesOn_done _ | split | extract_lets)
  | objectZeroDone o => rw [exec_objectZeroDone]; unfold execObjectZeroDone; exact ⟨_, rfl⟩
  | linkDown p => rw [exec_linkDown]; unfold execLinkDown; exact ⟨_, rfl⟩
  | bind p => rw [exec_bind]; unfold execBind; exact ⟨_, rfl⟩
  | release p => rw [exec_release]; unfold execRelease; exact ⟨_, rfl⟩
  | refclkLoss => rw [exec_refclkLoss]; unfold execRefclkLoss; exact ⟨_, rfl⟩
  | poisonFence arg confirm => rw [exec_poisonFence]; unfold execPoisonFence; exact ⟨_, rfl⟩
  | resetTenant arg confirm => rw [exec_resetTenant]; unfold execResetTenant; exact ⟨_, rfl⟩
  | releasePads arg confirm => rw [exec_releasePads]; unfold execReleasePads; exact ⟨_, rfl⟩
  | beaconLock arg confirm => rw [exec_beaconLock]; unfold execBeaconLock; exact ⟨_, rfl⟩
  | beaconUnlock arg confirm => rw [exec_beaconUnlock]; unfold execBeaconUnlock; exact ⟨_, rfl⟩
  | rstdaa => rw [exec_rstdaa]; unfold execRstdaa; exact ⟨_, rfl⟩
  | getpid => rw [exec_getpid]; unfold execGetpid; exact ⟨_, rfl⟩
  | getbcr => rw [exec_getbcr]; unfold execGetbcr; exact ⟨_, rfl⟩
  | getdcr => rw [exec_getdcr]; unfold execGetdcr; exact ⟨_, rfl⟩
  | setmrl n => rw [exec_setmrl]; unfold execSetmrl; exact ⟨_, rfl⟩
  | getmwl => rw [exec_getmwl]; unfold execGetmwl; exact ⟨_, rfl⟩
  | setmwl n => rw [exec_setmwl]; unfold execSetmwl; exact ⟨_, rfl⟩
  | extest => rw [exec_extest]; unfold execExtest; exact ⟨_, rfl⟩
  | samplePreload => rw [exec_samplePreload]; unfold execSamplePreload; exact ⟨_, rfl⟩
  | clamp => rw [exec_clamp]; unfold execClamp; exact ⟨_, rfl⟩
  | highz => rw [exec_highz]; unfold execHighz; exact ⟨_, rfl⟩
  | bypass => rw [exec_bypass]; unfold execBypass; exact ⟨_, rfl⟩
  | deviceReset pin => rw [exec_deviceReset]; unfold execDeviceReset; exact ⟨_, rfl⟩
  | registerWrite space op a off => rw [exec_registerWrite]; unfold execRegisterWrite; split <;> exact ⟨_, rfl⟩
  | droopStepDelivery stand => rw [exec_droopStepDelivery]; unfold execDroopStepDelivery; exact ⟨_, rfl⟩
  | hdrModeEntry => rw [exec_hdrModeEntry]; unfold execHdrModeEntry; exact ⟨_, rfl⟩
  | hdrExitPattern => rw [exec_hdrExitPattern]; unfold execHdrExitPattern; exact ⟨_, rfl⟩

/-- Every command keeps the frame, whatever the state. -/
theorem keeps_exec {s0 s t : State} (c : Instr) (h : exec c s = .next t) (hs : Keeps s0 s) : Keeps s0 t := by
  cases c with
  | nop g e => exact keeps_execNop g e s h hs
  | bra g e => exact keeps_execBra g e s h hs
  | brx g e => exact keeps_execBrx g e s h hs
  | join g e => exact keeps_execJoin g e s h hs
  | exit g e => exact keeps_execExit g e s h hs
  | call g e => exact keeps_execCall g e s h hs
  | ret g e => exact keeps_execRet g e s h hs
  | iadd g e => exact keeps_execIadd g e s h hs
  | isub g e => exact keeps_execIsub g e s h hs
  | imul g e => exact keeps_execImul g e s h hs
  | imulhi g e => exact keeps_execImulhi g e s h hs
  | imad g e => exact keeps_execImad g e s h hs
  | imin g e => exact keeps_execImin g e s h hs
  | imax g e => exact keeps_execImax g e s h hs
  | andL g e => exact keeps_execAnd g e s h hs
  | orL g e => exact keeps_execOr g e s h hs
  | xor g e => exact keeps_execXor g e s h hs
  | notL g e => exact keeps_execNot g e s h hs
  | shl g e => exact keeps_execShl g e s h hs
  | shr g e => exact keeps_execShr g e s h hs
  | popc g e => exact keeps_execPopc g e s h hs
  | clz g e => exact keeps_execClz g e s h hs
  | bfe g e => exact keeps_execBfe g e s h hs
  | bfi g e => exact keeps_execBfi g e s h hs
  | isetp g e => exact keeps_execIsetp g e s h hs
  | fadd g e => exact keeps_execFadd g e s h hs
  | fmul g e => exact keeps_execFmul g e s h hs
  | ffma g e => exact keeps_execFfma g e s h hs
  | fmin g e => exact keeps_execFmin g e s h hs
  | fmax g e => exact keeps_execFmax g e s h hs
  | fsetp g e => exact keeps_execFsetp g e s h hs
  | frnd g e => exact keeps_execFrnd g e s h hs
  | hadd2 g e => exact keeps_execHadd2 g e s h hs
  | hmul2 g e => exact keeps_execHmul2 g e s h hs
  | hfma2 g e => exact keeps_execHfma2 g e s h hs
  | hmin2 g e => exact keeps_execHmin2 g e s h hs
  | hmax2 g e => exact keeps_execHmax2 g e s h hs
  | rcp g e => exact keeps_execRcp g e s h hs
  | rsqrt g e => exact keeps_execRsqrt g e s h hs
  | sqrt g e => exact keeps_execSqrt g e s h hs
  | exp2 g e => exact keeps_execExp2 g e s h hs
  | log2 g e => exact keeps_execLog2 g e s h hs
  | sin g e => exact keeps_execSin g e s h hs
  | cos g e => exact keeps_execCos g e s h hs
  | cvt g e => exact keeps_execCvt g e s h hs
  | cvtPk2 g e => exact keeps_execCvtPk2 g e s h hs
  | cvtUnpk g e => exact keeps_execCvtUnpk g e s h hs
  | mov g e => exact keeps_execMov g e s h hs
  | sel g e => exact keeps_execSel g e s h hs
  | shfl g e => exact keeps_execShfl g e s h hs
  | vote g e => exact keeps_execVote g e s h hs
  | rdsr g e => exact keeps_execRdsr g e s h hs
  | plop g e => exact keeps_execPlop g e s h hs
  | ld g e env => exact keeps_execLd g e env s h hs
  | st g e => exact keeps_execSt g e s h hs
  | lds g e => exact keeps_execLds g e s h hs
  | sts g e => exact keeps_execSts g e s h hs
  | atoms g e => exact keeps_execAtoms g e s h hs
  | atom g e => exact keeps_execAtom g e s h hs
  | bar g e => exact keeps_execBar g e s h hs
  | membar g e => exact keeps_execMembar g e s h hs
  | fsig g e => exact keeps_execFsig g e s h hs
  | fwait g e => exact keeps_execFwait g e s h hs
  | fread g e => exact keeps_execFread g e s h hs
  | tex g e => exact keeps_execTex g e s h hs
  | tmma g e => exact keeps_execTmma g e s h hs
  | twld g e => exact keeps_execTwld g e s h hs
  | tcvt g e => exact keeps_execTcvt g e s h hs
  | tsync g e => exact keeps_execTsync g e s h hs
  | tld g e => exact keeps_execTld g e s h hs
  | tst g e => exact keeps_execTst g e s h hs
  | storeAck core k => exact keeps_execStoreAck core k s h hs
  | l1Fill core bank prefetch => exact keeps_execL1Fill core bank prefetch s h hs
  | tmmaComplete core k => exact keeps_execTmmaComplete core k s h hs
  | twldComplete core k => exact keeps_execTwldComplete core k s h hs
  | tcvtComplete core k => exact keeps_execTcvtComplete core k s h hs
  | barrierStranded core wg => exact keeps_execBarrierStranded core wg s h hs
  | asyncPromotion core slot => exact keeps_execAsyncPromotion core slot s h hs
  | bulkPromotion arbiter port => exact keeps_execBulkPromotion arbiter port s h hs
  | queueDoorbell a t j => exact keeps_execQueueDoorbell a t j s h hs
  | nopPacket p => exact keeps_execNopPacket p s h hs
  | dispatch p => exact keeps_execDispatch p s h hs
  | workgroupResident cmd => exact keeps_execWorkgroupResident cmd s h hs
  | cut p => exact keeps_execCut p s h hs
  | renderPass p => exact keeps_execRenderPass p s h hs
  | fenceSignal p => exact keeps_execFenceSignal p s h hs
  | fenceWait p => exact keeps_execFenceWait p s h hs
  | flush p => exact keeps_execFlush p s h hs
  | invalidate p => exact keeps_execInvalidate p s h hs
  | icacheInvalidate p => exact keeps_execIcacheInvalidate p s h hs
  | tlbInvalidate p => exact keeps_execTlbInvalidate p s h hs
  | ringmarkOpen p => exact keeps_execRingmarkOpen p s h hs
  | ringmarkClose p => exact keeps_execRingmarkClose p s h hs
  | copy p => exact keeps_execCopy p s h hs
  | fill p => exact keeps_execFill p s h hs
  | copyChunkDone cmd => exact keeps_execCopyChunkDone cmd s h hs
  | commandComplete cmd => exact keeps_execCommandComplete cmd s h hs
  | itemDigestsDone cmd => exact keeps_execItemDigestsDone cmd s h hs
  | digestChunkDone lane => exact keeps_execDigestChunkDone lane s h hs
  | ringmarkFoldDone cmd => exact keeps_execRingmarkFoldDone cmd s h hs
  | weightStreamStart cmd => exact keeps_execWeightStreamStart cmd s h hs
  | weightSegmentDone e => exact keeps_execWeightSegmentDone e s h hs
  | cutTileStart core cmd => exact keeps_execCutTileStart core cmd s h hs
  | tileEngineTransferDone core ahead => exact keeps_execTileEngineTransferDone core ahead s h hs
  | stageStart core => exact keeps_execStageStart core s h hs
  | combineTileStart core cmd => exact keeps_execCombineTileStart core cmd s h hs
  | cutComplete cmd => exact keeps_execCutComplete cmd s h hs
  | cutRestart cmd => exact keeps_execCutRestart cmd s h hs
  | drawBinning cmd => exact keeps_execDrawBinning cmd s h hs
  | binningResume cmd => exact keeps_execBinningResume cmd s h hs
  | attributePhaseStart cmd draw => exact keeps_execAttributePhaseStart cmd draw s h hs
  | tileShadingStart cmd => exact keeps_execTileShadingStart cmd s h hs
  | renderTileStart core cmd => exact keeps_execRenderTileStart core cmd s h hs
  | fragmentCommit core k => exact keeps_execFragmentCommit core k s h hs
  | renderTileEnd core => exact keeps_execRenderTileEnd core s h hs
  | renderPassComplete cmd => exact keeps_execRenderPassComplete cmd s h hs
  | fenceSignalRegister a f => exact keeps_execFenceSignalRegister a f s h hs
  | fencePoisonRegister a f => exact keeps_execFencePoisonRegister a f s h hs
  | fenceTimeout w => exact keeps_execFenceTimeout w s h hs
  | arm a t k => exact keeps_execArm a t k s h hs
  | disarm a t k => exact keeps_execDisarm a t k s h hs
  | bridgeUpdate b => exact keeps_execBridgeUpdate b s h hs
  | flumeDoorbell a t => exact keeps_execFlumeDoorbell a t s h hs
  | flumeReplyRead a t => exact keeps_execFlumeReplyRead a t s h hs
  | abort a t => exact keeps_execAbort a t s h hs
  | selfReset a t => exact keeps_execSelfReset a t s h hs
  | flumeNop r => exact keeps_execFlumeNop r s h hs
  | ping r => exact keeps_execPing r s h hs
  | eventMask r => exact keeps_execEventMask r s h hs
  | rollCallList r => exact keeps_execRollCallList r s h hs
  | tenantRebind r => exact keeps_execTenantRebind r s h hs
  | rollCallEnd r => exact keeps_execRollCallEnd r s h hs
  | tenantCreate r => exact keeps_execTenantCreate r s h hs
  | tenantReset r => exact keeps_execTenantReset r s h hs
  | tenantDestroy r => exact keeps_execTenantDestroy r s h hs
  | contextCreate r => exact keeps_execContextCreate r s h hs
  | contextReset r => exact keeps_execContextReset r s h hs
  | contextDestroy r => exact keeps_execContextDestroy r s h hs
  | contextSetHeaps r => exact keeps_execContextSetHeaps r s h hs
  | contextQuery r => exact keeps_execContextQuery r s h hs
  | contextTlbInvalidate r => exact keeps_execContextTlbInvalidate r s h hs
  | queueCreate r => exact keeps_execQueueCreate r s h hs
  | queueDestroy r => exact keeps_execQueueDestroy r s h hs
  | watchdogSet r => exact keeps_execWatchdogSet r s h hs
  | objectCreate r => exact keeps_execObjectCreate r s h hs
  | objectFree r => exact keeps_execObjectFree r s h hs
  | objectShare r => exact keeps_execObjectShare r s h hs
  | objectRevoke r => exact keeps_execObjectRevoke r s h hs
  | objectQuery r => exact keeps_execObjectQuery r s h hs
  | fenceCreate r => exact keeps_execFenceCreate r s h hs
  | fenceFree r => exact keeps_execFenceFree r s h hs
  | fenceShare r => exact keeps_execFenceShare r s h hs
  | fenceRevoke r => exact keeps_execFenceRevoke r s h hs
  | fenceBind r => exact keeps_execFenceBind r s h hs
  | fenceUnbind r => exact keeps_execFenceUnbind r s h hs
  | flumeFenceSignal r => exact keeps_execFlumeFenceSignal r s h hs
  | flumeFencePoison r => exact keeps_execFlumeFencePoison r s h hs
  | fenceQuery r => exact keeps_execFenceQuery r s h hs
  | bridgeCreate r => exact keeps_execBridgeCreate r s h hs
  | bridgeRemove r => exact keeps_execBridgeRemove r s h hs
  | outputGrant r => exact keeps_execOutputGrant r s h hs
  | outputRevoke r => exact keeps_execOutputRevoke r s h hs
  | layerGrant r => exact keeps_execLayerGrant r s h hs
  | layerRevoke r => exact keeps_execLayerRevoke r s h hs
  | displayQuery r => exact keeps_execDisplayQuery r s h hs
  | engineGrant r => exact keeps_execEngineGrant r s h hs
  | engineRelease r => exact keeps_execEngineRelease r s h hs
  | graphLoad r => exact keeps_execGraphLoad r s h hs
  | graphRun r => exact keeps_execGraphRun r s h hs
  | graphCancel r => exact keeps_execGraphCancel r s h hs
  | graphUnload r => exact keeps_execGraphUnload r s h hs
  | composeStart r => exact keeps_execComposeStart r s h hs
  | composeStop r => exact keeps_execComposeStop r s h hs
  | composeServiceFrame n torn => exact keeps_execComposeServiceFrame n torn s h hs
  | transfer r => exact keeps_execTransfer r s h hs
  | imageStage r => exact keeps_execImageStage r s h hs
  | imageQuery r => exact keeps_execImageQuery r s h hs
  | imageActivate r => exact keeps_execImageActivate r s h hs
  | imageCommit r => exact keeps_execImageCommit r s h hs
  | imageRollback r => exact keeps_execImageRollback r s h hs
  | envelopeSet r => exact keeps_execEnvelopeSet r s h hs
  | powerState r => exact keeps_execPowerState r s h hs
  | debugGrant r => exact keeps_execDebugGrant r s h hs
  | activationCopyDone => exact keeps_execActivationCopyDone s h hs
  | activationWaitExpired => exact keeps_execActivationWaitExpired s h hs
  | switchStart => exact keeps_execSwitchStart s h hs
  | switchEnd => exact keeps_execSwitchEnd s h hs
  | healthWindowEnd healthy => exact keeps_execHealthWindowEnd healthy s h hs
  | rangerRestart cause => exact keeps_execRangerRestart cause s h hs
  | rangerRestartDone => exact keeps_execRangerRestartDone s h hs
  | flipSubmit a t => exact keeps_execFlipSubmit a t s h hs
  | flipDeadline n late => exact keeps_execFlipDeadline n late s h hs
  | leadWindowOpen n due => exact keeps_execLeadWindowOpen n due s h hs
  | beaconCommit a n => exact keeps_execBeaconCommit a n s h hs
  | beaconPublish n => exact keeps_execBeaconPublish n s h hs
  | pixelUnderrun n x y => exact keeps_execPixelUnderrun n x y s h hs
  | keeperEntry n engineReset => exact keeps_execKeeperEntry n engineReset s h hs
  | keeperRelease n => exact keeps_execKeeperRelease n s h hs
  | outputEnable a n => exact keeps_execOutputEnable a n s h hs
  | outputDisable a n => exact keeps_execOutputDisable a n s h hs
  | modeset a n => exact keeps_execModeset a n s h hs
  | modesetDone n link => exact keeps_execModesetDone n link s h hs
  | writebackFrameDone n dropped => exact keeps_execWritebackFrameDone n dropped s h hs
  | hpdPlug n dpcd blocks => exact keeps_execHpdPlug n dpcd blocks s h hs
  | hpdUnplug n => exact keeps_execHpdUnplug n s h hs
  | irqHpd n retrain => exact keeps_execIrqHpd n retrain s h hs
  | go a n => exact keeps_execGo a n s h hs
  | auxDone n result data => exact keeps_execAuxDone n result data s h hs
  | chGo a c => exact keeps_execChGo a c s h hs
  | chipperBlock e => exact keeps_execChipperBlock e s h hs
  | chipperJobComplete c => exact keeps_execChipperJobComplete c s h hs
  | start a c => exact keeps_execStart a c s h hs
  | bzFeed a c => exact keeps_execBzFeed a c s h hs
  | bzFeedPart a c => exact keeps_execBzFeedPart a c s h hs
  | escalation core cmd => exact keeps_execEscalation core cmd s h hs
  | quantumExpiry core cmd => exact keeps_execQuantumExpiry core cmd s h hs
  | saveComplete core => exact keeps_execSaveComplete core s h hs
  | restoreComplete k => exact keeps_execRestoreComplete k s h hs
  | queueWatchdog q => exact keeps_execQueueWatchdog q s h hs
  | contextWatchdog cmd => exact keeps_execContextWatchdog cmd s h hs
  | contextResetDone c => exact keeps_execContextResetDone c s h hs
  | contextFreed c => exact keeps_execContextFreed c s h hs
  | queueFreed q => exact keeps_execQueueFreed q s h hs
  | tenantFreed t => exact keeps_execTenantFreed t s h hs
  | objectReclaim o => exact keeps_execObjectReclaim o s h hs
  | objectZeroDone o => exact keeps_execObjectZeroDone o s h hs
  | fenceReleased f => exact keeps_execFenceReleased f s h hs
  | linkDown p => exact keeps_execLinkDown p s h hs
  | linkUp p => exact keeps_execLinkUp p s h hs
  | rollCallTimeout p => exact keeps_execRollCallTimeout p s h hs
  | bind p => exact keeps_execBind p s h hs
  | release p => exact keeps_execRelease p s h hs
  | hostReadTimeout p words => exact keeps_execHostReadTimeout p words s h hs
  | msixUnmask p v => exact keeps_execMsixUnmask p v s h hs
  | droopTrip sensor => exact keeps_execDroopTrip sensor s h hs
  | deepTrip sensor both => exact keeps_execDeepTrip sensor both s h hs
  | droopRecover stand => exact keeps_execDroopRecover stand s h hs
  | governorPeriod p1 p100 tj => exact keeps_execGovernorPeriod p1 p100 tj s h hs
  | idleGateStart unit => exact keeps_execIdleGateStart unit s h hs
  | duskAnswer step agent => exact keeps_execDuskAnswer step agent s h hs
  | duskReask step agent => exact keeps_execDuskReask step agent s h hs
  | duskNoAnswer step agent => exact keeps_execDuskNoAnswer step agent s h hs
  | duskCommitDone step => exact keeps_execDuskCommitDone step s h hs
  | domainPowerUpDone unit => exact keeps_execDomainPowerUpDone unit s h hs
  | addressMatch => exact keeps_execAddressMatch s h hs
  | wakeComplete => exact keeps_execWakeComplete s h hs
  | nightLinkGraceExpiry p => exact keeps_execNightLinkGraceExpiry p s h hs
  | envelopeReq a => exact keeps_execEnvelopeReq a s h hs
  | thermalSample tj lost => exact keeps_execThermalSample tj lost s h hs
  | refclkLoss => exact keeps_execRefclkLoss s h hs
  | pgLow => exact keeps_execPgLow s h hs
  | scrubRead site found => exact keeps_execScrubRead site found s h hs
  | writeLinkPoll channel n => exact keeps_execWriteLinkPoll channel n s h hs
  | retirement what line => exact keeps_execRetirement what line s h hs
  | retirePowerOff unit => exact keeps_execRetirePowerOff unit s h hs
  | coreRetired => exact keeps_execCoreRetired s h hs
  | selfTestStart core => exact keeps_execSelfTestStart core s h hs
  | selfTestDone core coreFail arrayFail => exact keeps_execSelfTestDone core coreFail arrayFail s h hs
  | unitIsolation unit => exact keeps_execUnitIsolation unit s h hs
  | clear a t => exact keeps_execClear a t s h hs
  | scorch first second slow supply => exact keeps_execScorch first second slow supply s h hs
  | poisonFence arg confirm => exact keeps_execPoisonFence arg confirm s h hs
  | resetTenant arg confirm => exact keeps_execResetTenant arg confirm s h hs
  | forceNight arg confirm lost => exact keeps_execForceNight arg confirm lost s h hs
  | releasePads arg confirm => exact keeps_execReleasePads arg confirm s h hs
  | beaconLock arg confirm => exact keeps_execBeaconLock arg confirm s h hs
  | beaconUnlock arg confirm => exact keeps_execBeaconUnlock arg confirm s h hs
  | i3cPrivateWrite bytes => exact keeps_execI3cPrivateWrite bytes s h hs
  | entdaa addr => exact keeps_execEntdaa addr s h hs
  | setdasa static addr => exact keeps_execSetdasa static addr s h hs
  | setnewda addr => exact keeps_execSetnewda addr s h hs
  | rstdaa => exact keeps_execRstdaa s h hs
  | enec events => exact keeps_execEnec events s h hs
  | disec events => exact keeps_execDisec events s h hs
  | getpid => exact keeps_execGetpid s h hs
  | getbcr => exact keeps_execGetbcr s h hs
  | getdcr => exact keeps_execGetdcr s h hs
  | getstatus => exact keeps_execGetstatus s h hs
  | getmrl => exact keeps_execGetmrl s h hs
  | setmrl n => exact keeps_execSetmrl n s h hs
  | getmwl => exact keeps_execGetmwl s h hs
  | setmwl n => exact keeps_execSetmwl n s h hs
  | rstact action pattern => exact keeps_execRstact action pattern s h hs
  | ibiRetry ack => exact keeps_execIbiRetry ack s h hs
  | extest => exact keeps_execExtest s h hs
  | idcode => exact keeps_execIdcode s h hs
  | samplePreload => exact keeps_execSamplePreload s h hs
  | clamp => exact keeps_execClamp s h hs
  | highz => exact keeps_execHighz s h hs
  | bypass => exact keeps_execBypass s h hs
  | debugAccessPort code op => exact keeps_execDebugAccessPort code op s h hs
  | deviceReset pin => exact keeps_execDeviceReset pin s h hs
  | resetRelease b => exact keeps_execResetRelease b s h hs
  | hostReady => exact keeps_execHostReady s h hs
  | registerWrite space op a off => exact keeps_execRegisterWrite space op a off s h hs
  | imageStageDone => exact keeps_execImageStageDone s h hs
  | graphLoadDone g => exact keeps_execGraphLoadDone g s h hs
  | contextTlbInvalidateDone c va n => exact keeps_execContextTlbInvalidateDone c va n s h hs
  | droopStepDelivery stand => exact keeps_execDroopStepDelivery stand s h hs
  | tripClear sensor deep => exact keeps_execTripClear sensor deep s h hs
  | hdrModeEntry => exact keeps_execHdrModeEntry s h hs
  | hdrExitPattern => exact keeps_execHdrExitPattern s h hs
  | undefinedEncoding g => exact keeps_execUndefinedEncoding g s h hs
  | badPacket p opcode => exact keeps_execBadPacket p opcode s h hs
  | badOpcode r opcode => exact keeps_execBadOpcode r opcode s h hs

/-- A step is a tick or the front command, on a state with the same memories, counters and fuses. -/
theorem step_keeps {s t : State} (h : step s = .next t) :
    FuseLe s.fuses t.fuses ∧ (StateOk s → StateOk t) := by
  unfold step at h
  split at h
  · obtain rfl := Host.Outcome.next.inj h
    obtain ⟨hf, -, hm⟩ := keeps_tick s (Keeps.refl s)
    exact ⟨hf, hm⟩
  · obtain ⟨hf, -, hm⟩ := keeps_exec _ h (Keeps.refl _)
    exact ⟨hf, hm⟩

/-- Settles O57: a step keeps the frame, and canonical memories and bounded counters are part of it. -/
theorem stepKeepsMemories : Obligations.StepKeepsMemories :=
  fun _ _ hok h => (step_keeps h).2 hok

/-- Settles O59: a step keeps the frame, and the order of the fuses is part of it. -/
theorem fusesOnlyGrow : Obligations.FusesOnlyGrow :=
  fun _ _ h => (step_keeps h).1

/-- Settles O56: a command answers a next state, and the frame holds the queue. -/
theorem everyCommandGoesOn : Obligations.EveryCommandGoesOn := by
  intro c s
  obtain ⟨t, h⟩ := exec_goesOn c s
  obtain ⟨-, hp, -⟩ := keeps_exec c h (Keeps.refl s)
  exact ⟨t, h, hp⟩

/-- Settles O1: the step of a queue that is not empty is its front command, by definition. -/
theorem stepRunsFrontCommand : Obligations.StepRunsFrontCommand :=
  fun _ _ => rfl

/-- Settles O58: the memories after reset are empty, and so are the counters. -/
theorem resetMemories : Obligations.ResetMemories where
  dram := by decide
  host _ := rfl
  flash := by decide
  counters _ := Nat.zero_le _

/-- Settles O8: each register reads its source by definition; the timer is the sum of its two halves. -/
theorem specialRegisters : Obligations.SpecialRegisters := by
  intro s g l x w i
  exact ⟨rfl, rfl, rfl, rfl, rfl, fun h => ⟨if_pos h, rfl, if_pos h⟩, rfl, rfl, rfl, rfl, rfl, Nat.mod_add_div _ _, rfl⟩

end Sys2Proof.Proofs

/-! Results of format R operations: what the sources can hold, and the operations whose stated function is another
spelling of the model's. -/

namespace Sys2Proof.Proofs

open Sys2Proof.Machine

/-! ### The range of an operand -/

theorem vget64_lt (g : Group) (r l : Nat) : g.vget64 r l < 2 ^ 64 := by
  have h0 := (g.vget r l).isLt
  have h1 := (g.vget (r + 1) l).isLt
  simp only [Group.vget64]
  omega

theorem uget64_lt (g : Group) (r : Nat) : g.uget64 r < 2 ^ 64 := by
  have h0 := (g.uget r).isLt
  have h1 := (g.uget (r + 1)).isLt
  simp only [Group.uget64]
  omega

/-- The immediate of a shape whose sources are all as wide as TYPE has that width. -/
theorem immOf_lt (sh : RShape) (e : EncR) (i : Nat) (t : BitVec 4)
    (hnarrow : wideType t = false → (immWide sh.a e.ka || immWide sh.b e.kb || immWide sh.c e.kc) = false) :
    immOf sh e i < 2 ^ typeWidth t := by
  have hext := e.ext.isLt
  have hlo := Nat.mod_lt e.ext.toNat (Nat.two_pow_pos 32)
  have hhi : e.ext.toNat / 2 ^ 32 < 2 ^ 32 := by omega
  have hhalf (n : Nat) : (if n = 0 then e.ext.toNat % 2 ^ 32 else e.ext.toNat / 2 ^ 32) < 2 ^ 32 := by
    split <;> assumption
  unfold immOf typeWidth
  cases hw : wideType t with
  | false => simpa only [hnarrow hw, Bool.false_eq_true, if_false] using hhalf _
  | true =>
    rw [if_pos rfl]
    split
    · exact hext
    · exact (hhalf _).trans (by decide)

/-- A source as wide as TYPE holds a number of that width. -/
theorem srcVal_lt (g : Group) (t : BitVec 4) (k : BitVec 2) (r : BitVec 8) (imm l : Nat) (himm : imm < 2 ^ typeWidth t) :
    srcVal g (.reg (wideType t)) k r imm l < 2 ^ typeWidth t := by
  have hv := (g.vget r.toNat l).isLt
  have hu := (g.uget r.toNat).isLt
  have hv64 := vget64_lt g r.toNat l
  have hu64 := uget64_lt g r.toNat
  cases hw : wideType t <;> simp only [typeWidth, hw, Bool.false_eq_true, if_true, if_false, srcVal] at himm ⊢
  · split <;> (try split) <;> assumption
  · split <;> (try split) <;> assumption

section
variable (n : Nat) (e : EncR) (x : Group) (l : Nat)

theorem valA_int2_lt (f : EncR → Nat → Nat → Nat) : valA ((int2 n f).shape e) e x l < 2 ^ typeWidth e.type :=
  srcVal_lt _ _ _ _ _ _ (immOf_lt _ _ _ _ fun h => by simp [int2, immWide, h])

theorem valB_int2_lt (f : EncR → Nat → Nat → Nat) : valB ((int2 n f).shape e) e x l < 2 ^ typeWidth e.type :=
  srcVal_lt _ _ _ _ _ _ (immOf_lt _ _ _ _ fun h => by simp [int2, immWide, h])

theorem valA_int1_lt (f : EncR → Nat → Nat) : valA ((int1 n f).shape e) e x l < 2 ^ typeWidth e.type :=
  srcVal_lt _ _ _ _ _ _ (immOf_lt _ _ _ _ fun h => by simp [int1, immWide, h])

end

/-! ### Another spelling of a result -/

/-- The result of an operation may be stated by any function that agrees on the values of the sources. -/
theorem runsOp_congr {c : Instr} {op : ROp} {g : GroupAt} {e : EncR} {f f' : Nat → Nat → Nat → Nat}
    (h : ∀ x l, f (valA (op.shape e) e x l) (valB (op.shape e) e x l) (valC (op.shape e) e x l)
      = f' (valA (op.shape e) e x l) (valB (op.shape e) e x l) (valC (op.shape e) e x l))
    (hruns : RunsOp c op g e f) : RunsOp c op g e f' := by
  have hf : (fun (_ : State) x l => f (valA (op.shape e) e x l) (valB (op.shape e) e x l) (valC (op.shape e) e x l))
      = fun _ x l => f' (valA (op.shape e) e x l) (valB (op.shape e) e x l) (valC (op.shape e) e x l) := by
    funext _ x l
    exact h x l
  unfold RunsOp at hruns ⊢
  rwa [← hf]

/-- A command with its own way of forming the group completes with the result `f` when that group is written so. -/
theorem runsR_of_stepRun {c : Instr} {cls op : Nat} {sh : RShape} {ok : Bool} {run : State → EncR → Group → Group}
    {g : GroupAt} {e : EncR} {f : State → Group → Nat → Nat}
    (hexec : ∀ s, exec c s = done (stepRun cls op sh ok (run s) g e s))
    (hrun : ∀ s x, ok = true → WritesR sh e (f s x) x { run s e x with promoted := false }) :
    RunsR c cls op sh ok g e f := by
  intro s s1 hissue hcheck hread
  have hok : ok = true := by
    cases ok with
    | true => rfl
    | false => simp [checkR] at hcheck
  have hstep : (stepRun cls op sh ok (run s) g e s).group g = { run s e (s1.group g) with promoted := false }
      ∧ OnlyGroup s1 (stepRun cls op sh ok (run s) g e s) g :=
    stepGroup_go s s1 g e.h _ _ _ _ _ hissue (by simp only [hcheck]) hread
  obtain ⟨hgroup, hframe⟩ := hstep
  refine ⟨_, hexec s, ?_, hframe⟩
  rw [hgroup]
  exact hrun s _ hok

/-! ### Integer results -/

theorem intOrder_signed (w a b : Nat) : intOrder true w a b = compare (toSigned w a) (toSigned w b) := rfl

theorem intOrder_unsigned {w a b : Nat} (ha : a < 2 ^ w) (hb : b < 2 ^ w) : intOrder false w a b = compare a b := by
  simp [intOrder, Nat.mod_eq_of_lt ha, Nat.mod_eq_of_lt hb]

theorem ite_intOrder_gt {w a b : Nat} (sgn : Bool) (ha : a < 2 ^ w) (hb : b < 2 ^ w) :
    (if intOrder sgn w a b = .gt then b else a)
      = if sgn then (if toSigned w b < toSigned w a then b else a) else min a b := by
  cases sgn with
  | true => simp only [intOrder_signed, compare_gt_iff_gt, if_true]
  | false =>
    simp only [intOrder_unsigned ha hb, compare_gt_iff_gt, Bool.false_eq_true, if_false]
    split <;> omega

theorem ite_intOrder_lt {w a b : Nat} (sgn : Bool) (ha : a < 2 ^ w) (hb : b < 2 ^ w) :
    (if intOrder sgn w a b = .lt then b else a)
      = if sgn then (if toSigned w a < toSigned w b then b else a) else max a b := by
  cases sgn with
  | true => simp only [intOrder_signed, compare_lt_iff_lt, if_true]
  | false =>
    simp only [intOrder_unsigned ha hb, compare_lt_iff_lt, Bool.false_eq_true, if_false]
    split <;> omega

/-- A population count is the number of set bits. -/
theorem popCount_eq_length (w x : Nat) : popCount w x = ((List.range w).filter fun i => x.testBit i).length := by
  induction w generalizing x with
  | zero => rfl
  | succ w ih =>
    have hhead : x % 2 = if x.testBit 0 then 1 else 0 := by
      rw [Nat.testBit_zero]
      rcases Nat.mod_two_eq_zero_or_one x with h | h <;> simp [h]
    have htail : ((List.map Nat.succ (List.range w)).filter fun i => x.testBit i).length = popCount w (x / 2) := by
      rw [ih, List.filter_map, List.length_map]
      congr 2
      funext i
      simp [Nat.testBit_succ]
    rw [popCount, List.range_succ_eq_map, List.filter_cons, ← htail, hhead]
    split <;> simp [Nat.add_comm]

theorem leadZeros_of_lt {w a : Nat} (ha : a < 2 ^ w) : leadZeros w a = if a = 0 then w else w - 1 - a.log2 := by
  simp only [leadZeros, Nat.mod_eq_of_lt ha]

/-- Settles O2: each operation is one of the format R tables; where the stated result is another spelling of the
table's function, the two agree on sources of the width of TYPE. -/
theorem integerResults : Obligations.IntegerResults := by
  intro g e w sgn
  refine ⟨runsOp_of_stepR (exec_iadd g e), ?isub, runsOp_of_stepR (exec_imul g e), runsOp_of_stepR (exec_imulhi g e),
    runsOp_of_stepR (exec_imad g e), ?imin, ?imax, runsOp_of_stepR (exec_andL g e), runsOp_of_stepR (exec_orL g e),
    runsOp_of_stepR (exec_xor g e), runsOp_of_stepR (exec_notL g e), ?shl, ?shr, ?popc, ?clz,
    runsOp_of_stepR (exec_isetp g e)⟩
  case isub =>
    refine runsOp_congr (fun x l => ?_) (runsOp_of_stepR (op := opIsub) (exec_isub g e))
    exact congrArg (· % 2 ^ w) (Nat.add_sub_assoc (valB_int2_lt 1 e x l _).le _)
  case imin =>
    refine runsOp_congr (fun x l => ?_) (runsOp_of_stepR (op := opImin) (exec_imin g e))
    exact ite_intOrder_gt sgn (valA_int2_lt 5 e x l _) (valB_int2_lt 5 e x l _)
  case imax =>
    refine runsOp_congr (fun x l => ?_) (runsOp_of_stepR (op := opImax) (exec_imax g e))
    exact ite_intOrder_lt sgn (valA_int2_lt 6 e x l _) (valB_int2_lt 6 e x l _)
  case shl =>
    refine runsOp_congr (fun x l => ?_) (runsOp_of_stepR (op := opShl) (exec_shl g e))
    exact congrArg (· % 2 ^ w) (Nat.shiftLeft_eq _ _)
  case shr =>
    refine runsOp_congr (fun x l => ?_) (runsOp_of_stepR (op := opShr) (exec_shr g e))
    exact congrArg (ite _ _) (Nat.shiftRight_eq_div_pow _ _)
  case popc =>
    refine runsOp_congr (fun x l => ?_) (runsOp_of_stepR (op := opPopc) (exec_popc g e))
    exact popCount_eq_length _ _
  case clz =>
    refine runsOp_congr (fun x l => ?_) (runsOp_of_stepR (op := opClz) (exec_clz g e))
    exact leadZeros_of_lt (valA_int1_lt 14 e x l _)

end Sys2Proof.Proofs

/-! Compare conditions, conversions and lane moves: what a condition makes of an order, what the integer types make of
special numbers, and the commands that form their group in their own way. -/

namespace Sys2Proof.Proofs

open Sys2Proof.Machine

/-! ### Compare conditions -/

/-- The order of two codes is that of the numbers they stand for by the signedness of TYPE. -/
theorem intOrder_eq_compare {w a b : Nat} (sgn : Bool) (ha : a < 2 ^ w) (hb : b < 2 ^ w) :
    intOrder sgn w a b = compare (if sgn then toSigned w a else (a : Int)) (if sgn then toSigned w b else (b : Int)) := by
  cases sgn with
  | true => rfl
  | false =>
    rw [intOrder_unsigned ha hb]
    rcases lt_trichotomy a b with h | rfl | h
    · simp [compare_lt_iff_lt.mpr h, compare_lt_iff_lt.mpr (Int.ofNat_lt.mpr h)]
    · simp
    · simp [compare_gt_iff_gt.mpr h, compare_gt_iff_gt.mpr (Int.ofNat_lt.mpr h)]

/-- The six ordered conditions on the order of two numbers (Table 3.8). -/
theorem condHolds_compare (x y : Int) :
    condHolds 0 (some (compare x y)) = decide (x = y) ∧ condHolds 1 (some (compare x y)) = decide (x ≠ y)
    ∧ condHolds 2 (some (compare x y)) = decide (x < y) ∧ condHolds 3 (some (compare x y)) = decide (x ≤ y)
    ∧ condHolds 4 (some (compare x y)) = decide (y < x) ∧ condHolds 5 (some (compare x y)) = decide (y ≤ x) := by
  rcases lt_trichotomy x y with h | h | h
  · rw [compare_lt_iff_lt.mpr h]
    simp [condHolds, h, h.ne, h.le]
  · rw [compare_eq_iff_eq.mpr h]
    simp [condHolds, h]
  · rw [compare_gt_iff_gt.mpr h]
    simp [condHolds, h, h.ne', h.le]

/-- A NaN has no order. -/
theorem cmp_of_isNan {x y : Machine.Num} (h : x.isNan = true ∨ y.isNan = true) : x.cmp y = none := by
  cases x with
  | nan => cases y <;> rfl
  | inf s => cases y with
    | nan => rfl
    | _ => simp [Num.isNan] at h
  | fin s m k => cases y with
    | nan => rfl
    | _ => simp [Num.isNan] at h

/-- Settles O5: a condition looks at the order of the two operands alone, which is that of their numbers for integers and
none beside a NaN. -/
theorem compareConditions : Obligations.CompareConditions := by
  refine ⟨fun sgn w a b ha hb => ?_, fun m a b hm h6 h7 hnan => ?_⟩
  · simp only [isetpHolds, intOrder_eq_compare sgn ha hb]
    exact condHolds_compare _ _
  · rw [fsetpHolds, cmp_of_isNan hnan]
    revert m
    decide

/-! ### Conversions -/

/-- The least number of an integer type has the code of its sign bit alone. -/
theorem ofSigned_least {w : Nat} (hw : 1 ≤ w) : ofSigned w (-(2 ^ (w - 1) : Nat)) = 2 ^ (w - 1) := by
  have hlt : 2 ^ (w - 1) < 2 ^ w := Nat.pow_lt_pow_right (by decide) (by omega)
  have hsum : (2 ^ w : Nat) = 2 ^ (w - 1) + 2 ^ (w - 1) := by
    rw [← Nat.two_mul, ← Nat.pow_succ', Nat.succ_eq_add_one, Nat.sub_add_cancel hw]
  have hcode : (-((2 ^ (w - 1) : Nat) : Int)) % ((2 ^ w : Nat) : Int) = ((2 ^ (w - 1) : Nat) : Int) := by
    rw [← Int.add_emod_right, Int.emod_eq_of_lt] <;> omega
  rw [ofSigned, hcode, Int.toNat_natCast]

/-- A number below the width's power is its own code. -/
theorem ofSigned_pred {w n : Nat} (hpos : 1 ≤ n) (hn : n ≤ 2 ^ w) : ofSigned w ((n : Int) - 1) = n - 1 := by
  have hcast : (n : Int) - 1 = ((n - 1 : Nat) : Int) := by omega
  rw [hcast, ofSigned_natCast, Nat.mod_eq_of_lt (by omega)]

/-- An infinity becomes the least or the greatest number of an integer type (R119). -/
theorem toIntCode_inf {w : Nat} (hw : 1 ≤ w) (r : Rnd) (signed neg : Bool) :
    Num.toIntCode r signed w (.inf neg) =
      if neg then (if signed then 2 ^ (w - 1) else 0) else if signed then 2 ^ (w - 1) - 1 else 2 ^ w - 1 := by
  have hle : 2 ^ (w - 1) ≤ 2 ^ w := Nat.pow_le_pow_right (by decide) (by omega)
  have hpos (k : Nat) : 1 ≤ 2 ^ k := Nat.one_le_two_pow
  cases neg <;> cases signed <;> simp only [Num.toIntCode, Bool.false_eq_true, if_true, if_false]
  · exact ofSigned_pred (hpos w) le_rfl
  · exact ofSigned_pred (hpos _) hle
  · exact ofSigned_natCast w 0
  · exact ofSigned_least hw

/-- A whole number of at least the width's power is clipped like an infinity of its sign (R119). -/
theorem toIntCode_beyond {w m : Nat} (r : Rnd) (signed neg : Bool) (hm : 2 ^ w ≤ m) :
    Num.toIntCode r signed w (.fin neg m 0) = Num.toIntCode r signed w (.inf neg) := by
  have hle : 2 ^ (w - 1) ≤ 2 ^ w := Nat.pow_le_pow_right (by decide) (by omega)
  have hpos (k : Nat) : 1 ≤ 2 ^ k := Nat.one_le_two_pow
  have h1 := hpos w
  have h2 := hpos (w - 1)
  simp only [Num.toIntCode, Num.integral, le_refl, if_true, Num.inUnits]
  congr 1
  cases neg <;> cases signed <;>
    simp only [Int.sub_zero, Int.toNat_zero, Nat.shiftLeft_zero, Bool.false_eq_true, if_true, if_false] <;> omega

/-- The types without a float format are the eight integer types, of 8 bits or more. -/
theorem typeInt_pos (t : BitVec 4) : 1 ≤ (typeInt t).1 := by
  revert t
  decide

theorem typeCode_of_int {t : BitVec 4} (ht : typeFmt t = none) (r : Rnd) (n : Machine.Num) :
    typeCode r t n = n.toIntCode r (typeInt t).2 (typeInt t).1 := by
  simp only [typeCode, ht]

/-- The special numbers in the type of a conversion (R119). -/
theorem typeCode_special (r : Rnd) (t : BitVec 4) :
    (typeFmt t = none → typeCode r t .nan = 0
      ∧ (∀ neg, typeCode r t (.inf neg) =
          (if neg then (if (typeInt t).2 then 2 ^ ((typeInt t).1 - 1) else 0)
           else if (typeInt t).2 then 2 ^ ((typeInt t).1 - 1) - 1 else 2 ^ (typeInt t).1 - 1))
      ∧ (∀ neg m, (2 : Nat) ^ (typeInt t).1 ≤ m → typeCode r t (.fin neg m 0) = typeCode r t (.inf neg)))
    ∧ (t = 4 → typeCode r t .nan = 0x7FC00000) ∧ (t = 5 → typeCode r t .nan = 0x7E00) ∧ (t = 6 → typeCode r t .nan = 0x7FC0)
    ∧ (t = 7 → typeCode r t .nan = 0x7F) ∧ (t = 8 → typeCode r t .nan = 0x7E)
    ∧ (t = 9 ∨ t = 10 ∨ t = 11 → typeCode r t .nan = 0)
    ∧ (t = 7 → typeCode r t (.inf false) = 0x7E) ∧ (t = 8 → typeCode r t (.inf false) = 0x7C) := by
  refine ⟨fun ht => ?integer, ?_, ?_, ?_, ?_, ?_, ?narrow, ?_, ?_⟩
  case integer =>
    simp only [typeCode_of_int ht]
    exact ⟨rfl, toIntCode_inf (typeInt_pos t) r _, fun neg m => toIntCode_beyond r _ neg⟩
  case narrow => rintro (rfl | rfl | rfl) <;> rfl
  all_goals
    rintro rfl
    rfl

/-- cvt.pk2 keeps the half of DST that C does not name. -/
theorem pk2Val_eq {e : EncR} (hok : pk2Ok e = true) (old a b : Nat) :
    pk2Val e old a b = if e.c = 8 then old % 65536 + 65536 * pk2Codes e a b else old / 65536 * 65536 + pk2Codes e a b := by
  have hc : e.c = 0 ∨ e.c = 8 := by
    simp only [pk2Ok, Bool.and_eq_true, Bool.or_eq_true, beq_iff_eq] at hok
    exact hok.2
  rcases hc with hc | hc <;> rw [pk2Val, hc] <;> rfl

/-- What a word leaves depends on the values of its result alone. -/
theorem writesR_congr {sh : RShape} {e : EncR} {f f' : Nat → Nat} {x y : Group} (h : ∀ l, f l = f' l)
    (hwrites : WritesR sh e f x y) : WritesR sh e f' x y :=
  funext h ▸ hwrites

theorem runsR_cvtPk2 (g : GroupAt) (e : EncR) :
    RunsR (.cvtPk2 g e) 5 1 shPk2 (pk2Ok e) g e fun _ x l =>
      let old := if e.dk then (x.uget e.dst.toNat).toNat else (x.vget e.dst.toNat l).toNat
      let lo := typeCode .near e.type (Fmt.f32.decode (valA shPk2 e x l))
      let hi := typeCode .near e.type (Fmt.f32.decode (valB shPk2 e x l))
      if e.c = 8 then old % 65536 + 65536 * (lo + 256 * hi) else old / 65536 * 65536 + (lo + 256 * hi) := by
  refine runsR_of_stepRun (run := fun _ => runPk2) (exec_cvtPk2 g e) fun s x hok => ?_
  exact writesR_congr (fun l => pk2Val_eq hok _ _ _) (writesR_writeR shPk2 e _ x)

/-- Settles O6: each conversion is one of the format R tables or forms its group through the same write, and the special
numbers of a type are read off its format or its bounds. -/
theorem conversionResults : Obligations.ConversionResults := by
  refine ⟨fun g e => ?_, fun g e => ?_, typeCode_special⟩
  · exact ⟨runsOp_of_stepR (op := opRcp) (exec_rcp g e), runsOp_of_stepR (op := opRsqrt) (exec_rsqrt g e),
      runsOp_of_stepR (op := opSqrt) (exec_sqrt g e), runsOp_of_stepR (op := opExp2) (exec_exp2 g e),
      runsOp_of_stepR (op := opLog2) (exec_log2 g e), runsOp_of_stepR (op := opSin) (exec_sin g e),
      runsOp_of_stepR (op := opCos) (exec_cos g e)⟩
  · exact ⟨runsOp_of_stepR (op := opCvt) (exec_cvt g e), runsOp_of_stepR (op := opCvtUnpk) (exec_cvtUnpk g e),
      runsR_cvtPk2 g e⟩

/-! ### Lane moves -/

/-- A predicate source is a single bit. -/
theorem b2n_bne_zero (b : Bool) : (b2n b != 0) = b := by cases b <;> rfl

/-- The truth table of plop, with bit a × 2 + b of MOD. -/
theorem b2n_plopHolds (m : Nat) (a b : Bool) : b2n (plopHolds m a b) = m / 2 ^ (2 * b2n a + b2n b) % 2 := by
  rw [plopHolds, bitOf, Nat.mul_comm, Nat.testBit_eq_decide_div_mod_eq]
  rcases Nat.mod_two_eq_zero_or_one (m / 2 ^ (2 * b2n a + b2n b)) with h | h <;> rw [h] <;> rfl

/-- The lane that shfl reads, by the four values of MOD. -/
theorem shflLane_eq {m : BitVec 4} (hm : m.toNat < 4) (l b : Nat) :
    let own := fun (src : Int) => if 0 ≤ src ∧ src < 32 then src.toNat else l
    shflLane m.toNat l b = if m = 0 then own b else if m = 1 then own (l - b) else if m = 2 then own (l + b)
      else own (l ^^^ b : Nat) := by
  have hcases : m = 0 ∨ m = 1 ∨ m = 2 ∨ m = 3 := by
    revert m
    decide
  rcases hcases with rfl | rfl | rfl | rfl <;> rfl

theorem runsR_shfl (g : GroupAt) (e : EncR) :
    RunsR (.shfl g e) 6 2 shShfl (shflOk e) g e fun _ x l =>
      let b := valB shShfl e x l
      let own := fun (src : Int) => if 0 ≤ src ∧ src < 32 then src.toNat else l
      valA shShfl e x (if e.mod = 0 then own b else if e.mod = 1 then own (l - b) else if e.mod = 2 then own (l + b)
        else own (l ^^^ b : Nat)) := by
  refine runsR_of_stepRun (run := fun _ => runShfl) (exec_shfl g e) fun s x hok => ?_
  have hmod : e.mod.toNat < 4 := by
    simp only [shflOk, Bool.and_eq_true, decide_eq_true_eq] at hok
    exact hok.2
  exact writesR_congr (fun l => congrArg (valA shShfl e x) (shflLane_eq hmod l _)) (writesR_writeR shShfl e _ x)

/-- The answer of any and all is the same in every lane. -/
theorem maskOf_const (b : Bool) : maskOf (fun _ => b2n b != 0) = if b then BitVec.allOnes 32 else 0 := by
  cases b <;> decide

/-- Where no lane acts a word writes nothing. -/
theorem writesR_of_guard_zero (sh : RShape) (e : EncR) (f : Nat → Nat) (x : Group) (hm : x.guard e.h = 0) :
    WritesR sh e f x (retired e x x) where
  vreg r l _ := by unfold vregAfter; split <;> simp [hm, inMask]
  ureg r := by unfold uregAfter; split <;> simp [hm]
  pred p l _ := by unfold predAfter; split <;> simp [hm, inMask]
  rest := rfl

theorem runsR_vote (g : GroupAt) (e : EncR) :
    RunsR (.vote g e) 6 3 (shVote e) (voteOk e) g e fun _ x _ =>
      let m := x.guard e.h
      let p := x.pget e.a.toNat &&& m
      if e.mod = 2 then p.toNat else if e.mod = 0 then b2n (p != 0) else b2n (p == m) := by
  refine runsR_of_stepRun (run := fun _ => runVote) (exec_vote g e) fun s x hok => ?_
  have hdk : e.dk = (e.mod == 2) := by
    simp only [voteOk, Bool.and_eq_true, beq_iff_eq] at hok
    exact hok.2
  by_cases hacts : x.guard e.h = 0
  · have hrun : runVote e x = { x with pc := x.pc + Head.size e.h } := by simp only [runVote, hacts, if_true]
    rw [hrun]
    exact writesR_of_guard_zero (shVote e) e _ x hacts
  · by_cases hballot : e.mod = 2
    · have hrun : runVote e x = { x.usetN false e.dst.toNat (x.pget e.a.toNat &&& x.guard e.h).toNat with
          pc := x.pc + Head.size e.h } := by simp only [runVote, if_neg hacts, if_pos hballot]
      have hd : (shVote e).d = .reg false := by simp only [shVote, if_pos hballot]
      simp only [hrun, if_pos hballot]
      exact writesR_usetN (shVote e) e _ x hd (by rw [hdk, hballot]; rfl) hacts
    · have hrun : runVote e x = { x.pset e.dst.toNat (x.guard e.h) (if (if e.mod = 0 then
            x.pget e.a.toNat &&& x.guard e.h != 0 else x.pget e.a.toNat &&& x.guard e.h == x.guard e.h)
            then BitVec.allOnes 32 else 0) with pc := x.pc + Head.size e.h } := by
        simp only [runVote, if_neg hacts, if_neg hballot]
      have hd : (shVote e).d = .pred := by simp only [shVote, if_neg hballot]
      simp only [hrun, if_neg hballot, ← apply_ite b2n, ← maskOf_const]
      exact writesR_pset (shVote e) e _ x hd

/-- Settles O7: mov, sel and plop are of the format R tables, the others form their group through the same writes; where no
lane acts, vote writes nothing. -/
theorem laneMoves : Obligations.LaneMoves := by
  intro g e
  refine ⟨runsOp_of_stepR (op := opMov) (exec_mov g e), runsOp_of_stepR (op := opSel) (exec_sel g e), ?plop,
    runsR_shfl g e, runsR_vote g e, ?rdsr⟩
  case plop =>
    refine runsOp_congr (fun x l => ?_) (runsOp_of_stepR (op := opPlop) (exec_plop g e))
    simp only [opPlop, valA, valB, srcVal, b2n_bne_zero, b2n_plopHolds]
  case rdsr =>
    exact runsR_of_stepRun (run := fun s _ x => runRdsr s g e x) (exec_rdsr g e)
      fun s x _ => writesR_writeR shRdsr e (specialReg s g e.a.toNat) x

end Sys2Proof.Proofs

/-! What telling can change beyond the records it posts: a port's pending messages, a tenant's access log, and the final
replies that wait while Kreog does not run. -/

namespace Sys2Proof.Proofs

open Sys2Proof.Machine

/-- What telling can do to a port, a tenant and a channel. -/
structure Told (s t : State) : Prop where
  port : ∀ p, t.port p = { s.port p with msixPend := (t.port p).msixPend }
  portDown : ∀ p, (s.port p).up = false → (s.port p).night = false → t.port p = s.port p
  tenant : ∀ k, t.tenant k = { s.tenant k with
    log := (t.tenant k).log, logNext := (t.tenant k).logNext, logTotal := (t.tenant k).logTotal, waits := (t.tenant k).waits }
  channel : ∀ k, t.channel k = { s.channel k with
    replies := (t.channel k).replies, replyWrite := (t.channel k).replyWrite
    eventSeq := (t.channel k).eventSeq, accepted := (t.channel k).accepted }

namespace Told

theorem of_eq {s t : State} (hp : t.ports = s.ports) (ht : t.tenants = s.tenants) (hc : t.channels = s.channels) : Told s t := by
  have hport (p : Nat) : t.port p = s.port p := by simp only [State.port, hp]
  have htenant (k : Nat) : t.tenant k = s.tenant k := by simp only [State.tenant, ht]
  have hchannel (k : Nat) : t.channel k = s.channel k := by simp only [State.channel, hc]
  exact ⟨fun p => by rw [hport], fun p _ _ => hport p, fun k => by rw [htenant], fun k => by rw [hchannel]⟩

theorem refl (s : State) : Told s s := of_eq rfl rfl rfl

theorem trans {a b c : State} (h : Told a b) (k : Told b c) : Told a c where
  port p := by rw [k.port p, h.port p]
  portDown p hup hnight := by
    have hb := h.portDown p hup hnight
    rw [k.portDown p (hb ▸ hup) (hb ▸ hnight), hb]
  tenant t := by rw [k.tenant t, h.tenant t]
  channel ch := by rw [k.channel ch, h.channel ch]

theorem foldl {α : Type} {f : State → α → State} (h : ∀ s x, Told s (f s x)) (l : List α) (s : State) : Told s (l.foldl f s) := by
  induction l generalizing s with
  | nil => exact refl s
  | cons x xs ih => exact (h s x).trans (ih _)

variable {s t : State} (h : Told s t)
include h

theorem tenantSt (k : Nat) : (t.tenant k).st = (s.tenant k).st := by rw [h.tenant k]
theorem tenantPort (k : Nat) : (t.tenant k).port = (s.tenant k).port := by rw [h.tenant k]
theorem portSt (p : Nat) : (t.port p).st = (s.port p).st := by rw [h.port p]

theorem tenantsOn (p : Nat) (st : TenantSt) : tenantsOn t p st = Machine.tenantsOn s p st := by
  simp only [Machine.tenantsOn, h.tenantSt, h.tenantPort]

end Told

/-- From `s` to `t` something was counted, recorded or replied. -/
structure Says (s t : State) : Prop where
  rest : t = { s with
    counters := t.counters, channels := t.channels, out := t.out, i3c := t.i3c, ports := t.ports, tenants := t.tenants
    ranger := { s.ranger with late := t.ranger.late } }
  told : Told s t
  tenantWaits : ∀ k, (t.tenant k).waits = (s.tenant k).waits

namespace Says

theorem refl (s : State) : Says s s := ⟨rfl, .refl s, fun _ => rfl⟩

theorem trans {a b c : State} (h : Says a b) (k : Says b c) : Says a c :=
  ⟨by rw [k.rest, h.rest], h.told.trans k.told, fun t => (k.tenantWaits t).trans (h.tenantWaits t)⟩

theorem foldl {α : Type} {f : State → α → State} (h : ∀ s x, Says s (f s x)) (l : List α) (s : State) :
    Says s (l.foldl f s) := by
  induction l generalizing s with
  | nil => exact refl s
  | cons x xs ih => exact (h s x).trans (ih _)

variable {s t : State} (h : Says s t)
include h

theorem fuses : t.fuses = s.fuses := by rw [h.rest]
theorem flash : t.flash = s.flash := by rw [h.rest]
theorem boot : t.boot = s.boot := by rw [h.rest]
theorem cfg : t.cfg = s.cfg := by rw [h.rest]
theorem timer : t.timer = s.timer := by rw [h.rest]
theorem mem : t.mem = s.mem := by rw [h.rest]
theorem cores : t.cores = s.cores := by rw [h.rest]
theorem ctxs : t.ctxs = s.ctxs := by rw [h.rest]
theorem queues : t.queues = s.queues := by rw [h.rest]
theorem objs : t.objs = s.objs := by rw [h.rest]
theorem fences : t.fences = s.fences := by rw [h.rest]
theorem cmds : t.cmds = s.cmds := by rw [h.rest]
theorem cuts : t.cuts = s.cuts := by rw [h.rest]
theorem sessions : t.sessions = s.sessions := by rw [h.rest]
theorem prism : t.prism = s.prism := by rw [h.rest]
theorem sched : t.sched = s.sched := by rw [h.rest]
theorem power : t.power = s.power := by rw [h.rest]
theorem maps : t.maps = s.maps := by rw [h.rest]
theorem avail : t.avail = s.avail := by rw [h.rest]
theorem engCtxs : t.engCtxs = s.engCtxs := by rw [h.rest]
theorem graphs : t.ranger.graphs = s.ranger.graphs := by rw [h.rest]
theorem act : t.ranger.act = s.ranger.act := by rw [h.rest]
theorem rangerSt : t.ranger.st = s.ranger.st := by rw [h.rest]
theorem rangerUp : t.ranger.up = s.ranger.up := by rw [h.rest]; rfl

theorem port (p : Nat) : t.port p = { s.port p with msixPend := (t.port p).msixPend } := h.told.port p
theorem tenant (k : Nat) : t.tenant k =
    { s.tenant k with log := (t.tenant k).log, logNext := (t.tenant k).logNext, logTotal := (t.tenant k).logTotal } := by
  have hk := h.told.tenant k
  rw [h.tenantWaits k] at hk
  exact hk
theorem tenantSt (k : Nat) : (t.tenant k).st = (s.tenant k).st := h.told.tenantSt k
theorem tenantPort (k : Nat) : (t.tenant k).port = (s.tenant k).port := h.told.tenantPort k
theorem tenantResetting (k : Nat) : (t.tenant k).resetting = (s.tenant k).resetting := by rw [h.tenant k]
theorem tenantEnvelope (k : Nat) : (t.tenant k).envelope = (s.tenant k).envelope := by rw [h.tenant k]
theorem portSt (p : Nat) : (t.port p).st = (s.port p).st := h.told.portSt p
theorem portShown (p : Nat) : (t.port p).shown = (s.port p).shown := by rw [h.port p]

theorem tenantsOn (p : Nat) (st : TenantSt) : tenantsOn t p st = Machine.tenantsOn s p st := h.told.tenantsOn p st

end Says

theorem says_logTenant (s : State) (k : Nat) (r : LogRec) : Says s (logTenant s k r) := by
  unfold logTenant
  extract_lets x
  split
  · exact .refl s
  · refine ⟨rfl, { Told.refl s with tenant := fun j => ?_ }, fun j => ?_⟩
    all_goals
      rw [State.setTenant_tenant]
      split
      next hj => rw [hj]
      next => rfl

theorem says_sendMsix (s : State) (p v : Nat) : Says s (sendMsix s p v) := by
  unfold sendMsix
  extract_lets x
  split
  · exact .refl s
  next hrun =>
    split
    · exact ⟨rfl, .of_eq rfl rfl rfl, fun _ => rfl⟩
    · split
      · exact .refl s
      · refine ⟨rfl, { Told.refl s with port := fun j => ?_, portDown := fun j hup hnight => ?_ }, fun _ => rfl⟩
        · rw [State.setPort_port]
          split
          next hj => rw [hj]
          next => rfl
        · refine (State.setPort_port _ _ _ _).trans (if_neg fun hj => hrun ?_)
          simp only [x, ← hj, hup, hnight, Bool.not_false, Bool.and_self]

theorem says_notifyTenant (s : State) (t v : Nat) : Says s (notifyTenant s t v) := by
  unfold notifyTenant
  split
  · exact says_sendMsix _ _ _
  · exact says_logTenant _ _ _

theorem says_raiseIbi (s : State) (k : Nat) (p : List Byte) : Says s (raiseIbi s k p) := by
  unfold raiseIbi
  split
  · exact .refl s
  · exact ⟨rfl, .of_eq rfl rfl rfl, fun _ => rfl⟩

/-- What a record and its acceptance change of a channel. -/
def ToldChannel (c d : Channel) : Prop :=
  d = { c with replies := d.replies, replyWrite := d.replyWrite, eventSeq := d.eventSeq, accepted := d.accepted }

theorem ToldChannel.trans {a b c : Channel} (h : ToldChannel a b) (k : ToldChannel b c) : ToldChannel a c := by
  unfold ToldChannel at *
  rw [k, h]

theorem says_setChannel (s : State) (ch : Nat) {c : Channel} (hc : ToldChannel (s.channel ch) c) : Says s (s.setChannel ch c) := by
  refine ⟨rfl, { Told.refl s with channel := fun j => ?_ }, fun _ => rfl⟩
  rw [State.setChannel_channel]
  split
  next hj => rw [hj]; exact hc
  next => rfl

theorem toldChannel_putRecord (c : Channel) (seq status detail tag flags : Nat) (payload : List Byte) :
    ToldChannel c (c.putRecord seq status detail tag flags payload) := by
  have hput (c : Channel) (bs : List Byte) : ToldChannel c (c.putUnits bs) := rfl
  unfold Channel.putRecord
  extract_lets units room c1 body
  have h1 : ToldChannel c c1 := by
    unfold c1
    split
    · exact rfl
    · exact hput _ _
  exact h1.trans (hput _ _)

theorem says_postRecord (s : State) (ch seq status detail tag flags : Nat) (payload : List Byte) :
    Says s (postRecord s ch seq status detail tag flags payload) := by
  unfold postRecord
  extract_lets c s1
  have h1 : Says s s1 := says_setChannel _ _ (toldChannel_putRecord _ _ _ _ _ _ _)
  split
  · exact h1
  · split
    · exact h1.trans (says_raiseIbi _ _ _)
    · exact h1.trans (says_notifyTenant _ _ _)

theorem says_postEventOn (s : State) (ch code : Nat) (payload : List Byte) : Says s (postEventOn s ch code payload) := by
  unfold postEventOn
  extract_lets c s1
  have h1 : Says s s1 := says_setChannel _ _ rfl
  split
  · exact h1
  · exact h1.trans (says_postRecord _ _ _ _ _ _ _ _)

theorem says_postEvent (s : State) (code unit a b : Nat) : Says s (postEvent s code unit a b) := by
  unfold postEvent
  refine Says.foldl (fun s ch => ?_) _ s
  split
  · exact says_postEventOn _ _ _ _
  · exact .refl s

theorem says_bumpBy (s : State) (unit off n : Nat) : Says s (bumpBy s unit off n) := by
  unfold bumpBy
  extract_lets old new s1
  have h1 : Says s s1 := ⟨rfl, .of_eq rfl rfl rfl, fun _ => rfl⟩
  split
  · exact h1.trans (says_postEvent _ _ _ _ _)
  · exact h1

theorem says_bump (s : State) (unit off : Nat) : Says s (bump s unit off) := says_bumpBy _ _ _ _

theorem says_replyTo (s : State) (r : Req) (status detail : Nat) (payload : List Byte) :
    Says s (replyTo s r status detail payload) := says_postRecord _ _ _ _ _ _ _ _

theorem says_acceptedBy (s : State) (r : Req) (op arg : Nat) : Says s (acceptedBy s r op arg) := by
  refine Says.trans ?_ (says_postRecord _ _ _ _ _ _ _ _)
  exact says_setChannel _ _ rfl

theorem says_lateOrNow (s : State) (x : LateReply) : Says s (lateOrNow s x) := by
  unfold lateOrNow
  split
  · exact says_postRecord _ _ _ _ _ _ _ _
  · exact ⟨rfl, .of_eq rfl rfl rfl, fun _ => rfl⟩

theorem says_finalOn (s : State) (ch opcode arg status detail : Nat) (payload : List Byte) :
    Says s (finalOn s ch opcode arg status detail payload) := by
  unfold finalOn
  extract_lets c mine
  split
  · exact .refl s
  · refine Says.trans ?_ (Says.foldl (fun _ _ => says_lateOrNow _ _) _ _)
    exact says_setChannel _ _ rfl

theorem says_finalAll (s : State) (opcode arg status detail : Nat) (payload : List Byte) :
    Says s (finalAll s opcode arg status detail payload) := Says.foldl (fun _ _ => says_finalOn _ _ _ _ _ _ _) _ s

end Sys2Proof.Proofs

/-! What reading memory can change: memory and its caches, a free victim, and what counting and telling an error or a
poisoned word writes. No core changes, and no byte of DRAM. -/

namespace Sys2Proof.Proofs

open Sys2Proof.Machine

/-- From `s` to `t` memory was read: lines moved between the caches and their homes, nothing else was done. -/
structure ReadsOnly (s t : State) : Prop where
  rest : t = { s with
    mem := t.mem, freeTick := t.freeTick, avail := t.avail
    counters := t.counters, channels := t.channels, out := t.out, i3c := t.i3c, ports := t.ports, tenants := t.tenants }
  dram : t.mem.dram = s.mem.dram
  told : Told s t

namespace ReadsOnly

theorem refl (s : State) : ReadsOnly s s := ⟨rfl, rfl, .refl s⟩

theorem trans {a b c : State} (h : ReadsOnly a b) (k : ReadsOnly b c) : ReadsOnly a c := by
  refine ⟨?_, k.dram.trans h.dram, h.told.trans k.told⟩
  have hk := k.rest
  rw [h.rest] at hk
  exact hk

variable {s t : State} (h : ReadsOnly s t)
include h

theorem fuses : t.fuses = s.fuses := (congrArg State.fuses h.rest :)
theorem cfg : t.cfg = s.cfg := (congrArg State.cfg h.rest :)
theorem timer : t.timer = s.timer := (congrArg State.timer h.rest :)
theorem maps : t.maps = s.maps := (congrArg State.maps h.rest :)
theorem boot : t.boot = s.boot := (congrArg State.boot h.rest :)
theorem cores : t.cores = s.cores := (congrArg State.cores h.rest :)
theorem ctxs : t.ctxs = s.ctxs := (congrArg State.ctxs h.rest :)
theorem queues : t.queues = s.queues := (congrArg State.queues h.rest :)
theorem objs : t.objs = s.objs := (congrArg State.objs h.rest :)
theorem fences : t.fences = s.fences := (congrArg State.fences h.rest :)
theorem bridges : t.bridges = s.bridges := (congrArg State.bridges h.rest :)
theorem cmds : t.cmds = s.cmds := (congrArg State.cmds h.rest :)
theorem nextCmd : t.nextCmd = s.nextCmd := (congrArg State.nextCmd h.rest :)
theorem cuts : t.cuts = s.cuts := (congrArg State.cuts h.rest :)
theorem renders : t.renders = s.renders := (congrArg State.renders h.rest :)
theorem sessions : t.sessions = s.sessions := (congrArg State.sessions h.rest :)
theorem lanes : t.lanes = s.lanes := (congrArg State.lanes h.rest :)
theorem engines : t.engines = s.engines := (congrArg State.engines h.rest :)
theorem engCtxs : t.engCtxs = s.engCtxs := (congrArg State.engCtxs h.rest :)
theorem bzCtxs : t.bzCtxs = s.bzCtxs := (congrArg State.bzCtxs h.rest :)
theorem prism : t.prism = s.prism := (congrArg State.prism h.rest :)
theorem sched : t.sched = s.sched := (congrArg State.sched h.rest :)
theorem ranger : t.ranger = s.ranger := (congrArg State.ranger h.rest :)
theorem power : t.power = s.power := (congrArg State.power h.rest :)

theorem core (k : Nat) : t.core k = s.core k := by simp only [State.core, h.cores]
theorem group (g : GroupAt) : t.group g = s.group g := by simp only [State.group, h.core]
theorem groupProg (g : GroupAt) : groupProg t g = Machine.groupProg s g := by
  simp only [Machine.groupProg, h.core, h.group]
theorem ctx (c : Nat) : t.ctx c = s.ctx c := by simp only [State.ctx, h.ctxs]
theorem queue (q : Nat) : t.queue q = s.queue q := by simp only [State.queue, h.queues]
theorem obj (o : Nat) : t.obj o = s.obj o := by simp only [State.obj, h.objs]
theorem fence (f : Nat) : t.fence f = s.fence f := by simp only [State.fence, h.fences]

end ReadsOnly

/-! ### Each way of reading -/

theorem readsOnly_of_notified {s t : State} (h : Notified s t) (k : Told s t) : ReadsOnly s t :=
  ⟨by unfold Notified at h; rw [h], by rw [h.mem], k⟩

theorem readsOnly_setMem (s : State) (m : MemSys) (hm : m.dram = s.mem.dram) : ReadsOnly s (s.setMem m) := ⟨rfl, hm, .of_eq rfl rfl rfl⟩

theorem readsOnly_foldl {α : Type} (l : List α) (f : State → α → State) (h : ∀ s x, ReadsOnly s (f s x)) (s : State) :
    ReadsOnly s (l.foldl f s) := by
  induction l generalizing s with
  | nil => exact .refl s
  | cons a l ih => exact (h s a).trans (ih _)

theorem readsOnly_metPoison (s : State) : ReadsOnly s (metPoison s) :=
  have hbump : ReadsOnly s (bump (sawPoison s) 0xFF 0x118) :=
    .trans (b := sawPoison s) ⟨rfl, rfl, .of_eq rfl rfl rfl⟩ (readsOnly_of_notified (notified_bump _ _ _) (says_bump _ _ _).told)
  hbump.trans (readsOnly_setMem _ _ rfl)

theorem readsOnly_recordError (s : State) (kind unit cls loc : Nat) : ReadsOnly s (recordError s kind unit cls loc) := by
  unfold recordError
  extract_lets a s1
  have h1 : ReadsOnly s s1 := ⟨rfl, rfl, .of_eq rfl rfl rfl⟩
  split
  · exact h1.trans (readsOnly_of_notified (notified_raiseIbi _ _ _) (says_raiseIbi _ _ _).told)
  · exact h1

theorem readsOnly_hostWrite (s : State) (p off : Nat) (bs : List Byte) : ReadsOnly s (hostWrite s p off bs) := by
  unfold hostWrite
  split
  · exact .refl s
  · exact readsOnly_setMem _ _ rfl

theorem readsOnly_hostWriteLine (s : State) (p off ln : Nat) (bs : List Byte) :
    ReadsOnly s (hostWriteLine s p off ln bs) := by
  unfold hostWriteLine
  extract_lets s1
  have h1 : ReadsOnly s s1 := readsOnly_hostWrite _ _ _ _
  split
  · exact h1
  · refine h1.trans (.trans ?_ (readsOnly_metPoison _))
    exact ⟨rfl, rfl, .of_eq rfl rfl rfl⟩

theorem readsOnly_hostLine (s : State) (pa : Nat) : ReadsOnly s (hostLine s pa).2 := by
  unfold hostLine
  split
  · exact .refl s
  · exact readsOnly_setMem _ _ rfl
  · exact .refl s

theorem readsOnly_evictLine (s : State) (e : CLine) : ReadsOnly s (evictLine s e) := by
  unfold evictLine
  extract_lets m s1
  have h1 : ReadsOnly s s1 := readsOnly_setMem _ _ rfl
  split
  · extract_lets s2
    have h2 : ReadsOnly s1 s2 := by
      unfold s2
      split
      · split
        · exact readsOnly_hostWriteLine _ _ _ _ _
        · exact .refl _
      · exact .refl _
    exact (h1.trans h2).trans (readsOnly_setMem _ _ rfl)
  · split
    · exact h1
    · split
      · refine (h1.trans (readsOnly_setMem _ _ rfl)).trans
          (.trans ?_ (readsOnly_foldl _ _ (fun s _ => readsOnly_recordError s _ _ _ _) _))
        exact ⟨rfl, rfl, .of_eq rfl rfl rfl⟩
      · exact h1.trans (readsOnly_setMem _ _ rfl)

theorem readsOnly_cacheVictim (s : State) (full : List CLine) (lru : Bool) : ReadsOnly s (cacheVictim s full lru).2 := by
  unfold cacheVictim
  split
  · exact .refl s
  · exact ⟨rfl, rfl, .of_eq rfl rfl rfl⟩

theorem readsOnly_touchLine (s : State) (ln : Nat) (stream write : Bool) : ReadsOnly s (touchLine s ln stream write) := by
  unfold touchLine
  split
  · exact readsOnly_setMem _ _ rfl
  · extract_lets mine ws
    split
    · exact readsOnly_setMem _ _ rfl
    · have hvictim := readsOnly_cacheVictim s (mine.filter fun e => ws.contains e.way) (stream && s.cfg.streamWays != 0)
      split
      next s1 hv => simpa only [hv] using hvictim
      next v s1 hv =>
        rw [hv] at hvictim
        exact (hvictim.trans (readsOnly_evictLine _ _)).trans (readsOnly_setMem _ _ rfl)

theorem readsOnly_sliceRead (s : State) (cached : Bool) (ln : Nat) : ReadsOnly s (sliceRead s cached ln) := by
  unfold sliceRead
  split
  · exact .refl s
  · extract_lets s1
    have h1 : ReadsOnly s s1 := readsOnly_touchLine _ _ _ _
    split
    · split
      · exact h1.trans (readsOnly_hostLine _ _)
      · exact h1
    · exact h1

theorem readsOnly_physReadN (fuel : Nat) (s : State) (cached : Bool) (pa n : Nat) :
    ReadsOnly s (physReadN fuel s cached pa n).2 := by
  induction fuel generalizing s pa n with
  | zero => exact .refl s
  | succ fuel ih =>
    unfold physReadN
    split
    · exact .refl s
    · exact (readsOnly_sliceRead _ _ _).trans (ih _ _ _)

theorem readsOnly_physRead (s : State) (cached : Bool) (pa n : Nat) : ReadsOnly s (physRead s cached pa n).2 :=
  readsOnly_physReadN _ _ _ _ _

theorem readsOnly_devReadN (fuel : Nat) (s : State) (pa n : Nat) : ReadsOnly s (devReadN fuel s pa n).2 := by
  induction fuel generalizing s pa n with
  | zero => exact .refl s
  | succ fuel ih =>
    unfold devReadN
    split
    · exact .refl s
    · exact (readsOnly_sliceRead _ _ _).trans (ih _ _ _)

theorem readsOnly_devRead (s : State) (pa n : Nat) : ReadsOnly s (devRead s pa n).2 := readsOnly_devReadN _ _ _ _

/-- A translation that is found leaves the entries that the walk read in the caches. -/
theorem readsOnly_xlate {s t : State} {c va : Nat} {w : Bool} {e : TlbEntry} (h : xlate s c va w = .ok (e, t)) :
    ReadsOnly s t := by
  unfold xlate at h
  split at h
  · cases h
  · split at h
    · split at h
      · cases h
      · cases h
        exact .refl s
    · split at h
      · cases h
      · cases h
        exact (readsOnly_foldl _ _ (fun s _ => readsOnly_sliceRead s _ _) _).trans (readsOnly_setMem _ _ rfl)

theorem readsOnly_locate {s t : State} {c va : Nat} {w : Bool} {p : Place} (h : locate s c va w = .ok (p, t)) :
    ReadsOnly s t := by
  unfold locate at h
  split at h
  · cases h
  next e s1 hx =>
    dsimp only at h
    split at h
    · cases h
      exact readsOnly_xlate hx
    · cases h

theorem readsOnly_vreadN {fuel : Nat} {s t : State} {c va n : Nat} {bs : List Byte}
    (h : vreadN fuel s c va n = .ok (bs, t)) : ReadsOnly s t := by
  induction fuel generalizing s va n bs with
  | zero => cases h; exact .refl _
  | succ fuel ih =>
    unfold vreadN at h
    split at h
    · cases h; exact .refl _
    · split at h
      · cases h
      next p s1 hl =>
        extract_lets k at h
        split at h
        · cases h
        · split at h
          next b s2 hr =>
          split at h
          · cases h
          next r s3 hrest =>
            cases h
            have hphys := readsOnly_physRead s1 p.cached p.pa k
            rw [hr] at hphys
            exact ((readsOnly_locate hl).trans hphys).trans (ih hrest)

theorem readsOnly_vread {s t : State} {c va n : Nat} {bs : List Byte} (h : vread s c va n = .ok (bs, t)) :
    ReadsOnly s t := readsOnly_vreadN h

theorem readsOnly_fetchLine {s t : State} {core c va : Nat} {l : ILine} (h : fetchLine s core c va = .ok (l, t)) :
    ReadsOnly s t := by
  unfold fetchLine at h
  split at h
  · cases h; exact .refl s
  · split at h
    · cases h
    next p s1 hl =>
      cases h
      exact ((readsOnly_locate hl).trans (readsOnly_physRead _ _ _ _)).trans (readsOnly_setMem _ _ rfl)

theorem readsOnly_fetchWord {s t : State} {core c va w : Nat} (h : fetchWord s core c va = .ok (w, t)) :
    ReadsOnly s t := by
  unfold fetchWord at h
  split at h
  · cases h
  next l s1 hl =>
    split at h
    · cases h
    · cases h
      exact readsOnly_fetchLine hl

/-- A group that issues has only read its words. -/
theorem readsOnly_issueWith {s t : State} {g : GroupAt} {mine : Nat → Bool} {ext : Option Nat}
    (h : issueWith s g mine ext = .go t) : ReadsOnly s t := by
  unfold issueWith at h
  extract_lets x p va at h
  split at h
  · cases h
  · split at h
    · cases h
    · split at h
      · cases h
      · split at h
        · cases h
        next w s1 hw =>
          split at h
          · cases h
          · split at h
            · cases h
              exact readsOnly_fetchWord hw
            · split at h
              · cases h
              · split at h
                · cases h
                next w2 s2 hw2 =>
                  split at h
                  · cases h
                    exact (readsOnly_fetchWord hw).trans (readsOnly_fetchWord hw2)
                  · cases h

theorem readsOnly_issueCheck {s t : State} {g : GroupAt} {code : List Nat} (h : issueCheck s g code = .go t) :
    ReadsOnly s t := readsOnly_issueWith h

/-- A group that issues is live, with active lanes and no wait, and its context is LIVE. -/
theorem issueCheck_active {s t : State} {g : GroupAt} {code : List Nat} (h : issueCheck s g code = .go t) :
    (t.group g).live = true ∧ (t.group g).active ≠ 0 ∧ (t.ctx (t.group g).ctx).st = .live := by
  have hready := issueCheck_ready s t g code h
  have hreads := readsOnly_issueCheck h
  simp only [groupReady, Bool.and_eq_true, bne_iff_ne, beq_iff_eq] at hready
  obtain ⟨⟨⟨⟨⟨hlive, -⟩, hact⟩, hst⟩, -⟩, -⟩ := hready
  rw [hreads.group, hreads.ctx]
  exact ⟨hlive, hact, hst⟩

/-! ### Writing memory -/

/-- From `s` to `t` memory was served, with writes among it: besides what a read may change, lines left the L1s. -/
structure WritesOnly (s t : State) : Prop where
  rest : t = { s with
    mem := t.mem, cores := t.cores, freeTick := t.freeTick, avail := t.avail
    counters := t.counters, channels := t.channels, out := t.out, i3c := t.i3c, ports := t.ports, tenants := t.tenants }
  core : ∀ k, t.core k = { s.core k with
    l1 := (t.core k).l1, demand := (t.core k).demand, prefetch := (t.core k).prefetch }
  told : Told s t

theorem ReadsOnly.writesOnly {s t : State} (h : ReadsOnly s t) : WritesOnly s t := by
  refine ⟨?_, fun k => by rw [h.core], h.told⟩
  have hrest := h.rest
  rw [← h.cores] at hrest
  exact hrest

namespace WritesOnly

theorem refl (s : State) : WritesOnly s s := ⟨rfl, fun _ => rfl, .refl s⟩

theorem trans {a b c : State} (h : WritesOnly a b) (k : WritesOnly b c) : WritesOnly a c := by
  refine ⟨?_, fun i => ?_, h.told.trans k.told⟩
  · have hk := k.rest
    rw [h.rest] at hk
    exact hk
  · have hk := k.core i
    rw [h.core i] at hk
    exact hk

variable {s t : State} (h : WritesOnly s t)
include h

theorem served : Served s t := h.rest
theorem cfg : t.cfg = s.cfg := (congrArg State.cfg h.rest :)
theorem timer : t.timer = s.timer := (congrArg State.timer h.rest :)
theorem maps : t.maps = s.maps := (congrArg State.maps h.rest :)
theorem boot : t.boot = s.boot := (congrArg State.boot h.rest :)
theorem ctxs : t.ctxs = s.ctxs := (congrArg State.ctxs h.rest :)
theorem queues : t.queues = s.queues := (congrArg State.queues h.rest :)
theorem objs : t.objs = s.objs := (congrArg State.objs h.rest :)
theorem fences : t.fences = s.fences := (congrArg State.fences h.rest :)
theorem bridges : t.bridges = s.bridges := (congrArg State.bridges h.rest :)
theorem cmds : t.cmds = s.cmds := (congrArg State.cmds h.rest :)
theorem nextCmd : t.nextCmd = s.nextCmd := (congrArg State.nextCmd h.rest :)
theorem cuts : t.cuts = s.cuts := (congrArg State.cuts h.rest :)
theorem renders : t.renders = s.renders := (congrArg State.renders h.rest :)
theorem sessions : t.sessions = s.sessions := (congrArg State.sessions h.rest :)
theorem lanes : t.lanes = s.lanes := (congrArg State.lanes h.rest :)
theorem engines : t.engines = s.engines := (congrArg State.engines h.rest :)
theorem engCtxs : t.engCtxs = s.engCtxs := (congrArg State.engCtxs h.rest :)
theorem bzCtxs : t.bzCtxs = s.bzCtxs := (congrArg State.bzCtxs h.rest :)
theorem prism : t.prism = s.prism := (congrArg State.prism h.rest :)
theorem sched : t.sched = s.sched := (congrArg State.sched h.rest :)
theorem ranger : t.ranger = s.ranger := (congrArg State.ranger h.rest :)
theorem power : t.power = s.power := (congrArg State.power h.rest :)

theorem groups (k : Nat) : (t.core k).groups = (s.core k).groups := (congrArg Core.groups (h.core k) :)
theorem wgs (k : Nat) : (t.core k).wgs = (s.core k).wgs := (congrArg Core.wgs (h.core k) :)
theorem group (g : GroupAt) : t.group g = s.group g := by simp only [State.group, Core.group, h.groups]
theorem ctx (c : Nat) : t.ctx c = s.ctx c := by simp only [State.ctx, h.ctxs]
theorem queue (q : Nat) : t.queue q = s.queue q := by simp only [State.queue, h.queues]
theorem obj (o : Nat) : t.obj o = s.obj o := by simp only [State.obj, h.objs]
theorem fence (f : Nat) : t.fence f = s.fence f := by simp only [State.fence, h.fences]

end WritesOnly

theorem invalidateLine_core (s : State) (w : Option Nat) (ln k : Nat) :
    (invalidateLine s w ln).core k = s.core k ∨ (invalidateLine s w ln).core k = (s.core k).dropLine ln := by
  have hread : (invalidateLine s w ln).core k =
      ((tget? s.cores k).map fun c => if some k = w then c else c.dropLine ln).getD .reset :=
    (tget_eq _ _ _).trans (congrArg (Option.getD · _) (tget?_tmap s.cores
      (fun k c => if some k = w then c else c.dropLine ln) k))
  have hcore : s.core k = (tget? s.cores k).getD .reset := tget_eq _ _ _
  rw [hread, hcore]
  cases tget? s.cores k with
  | none => exact .inl rfl
  | some c =>
    by_cases hk : some k = w
    · exact .inl (if_pos hk)
    · exact .inr (if_neg hk)

theorem writesOnly_invalidateLine (s : State) (w : Option Nat) (ln : Nat) : WritesOnly s (invalidateLine s w ln) := by
  refine ⟨rfl, fun k => ?_, .of_eq rfl rfl rfl⟩
  rcases invalidateLine_core s w ln k with h | h
  · rw [h]
  · rw [h]
    rfl

theorem writesOnly_setMem (s : State) (m : MemSys) : WritesOnly s (s.setMem m) := ⟨rfl, fun _ => rfl, .of_eq rfl rfl rfl⟩

theorem writesOnly_physWrite1 (s : State) (w : Option Nat) (cached : Bool) (pa : Nat) (bs : List Byte) :
    WritesOnly s (physWrite1 s w cached pa bs) := by
  unfold physWrite1
  split
  · exact (writesOnly_setMem _ _).trans (writesOnly_invalidateLine _ _ _)
  · split
    · exact ((readsOnly_hostLine s pa).writesOnly.trans (writesOnly_setMem _ _)).trans (writesOnly_invalidateLine _ _ _)
    · split
      · exact (readsOnly_hostWrite _ _ _ _).writesOnly.trans (writesOnly_invalidateLine _ _ _)
      · exact (readsOnly_hostWrite _ _ _ _).writesOnly
  · exact .refl s

theorem writesOnly_sliceWrite (s : State) (w : Option Nat) (cached stream : Bool) (pa : Nat) (bs : List Byte) :
    WritesOnly s (sliceWrite s w cached stream pa bs) := by
  unfold sliceWrite
  refine WritesOnly.trans ?_ (writesOnly_physWrite1 _ _ _ _ _)
  split
  · exact (readsOnly_touchLine _ _ _ _).writesOnly
  · exact .refl s

theorem writesOnly_physWriteN (fuel : Nat) (s : State) (cached stream : Bool) (pa : Nat) (bs : List Byte) :
    WritesOnly s (physWriteN fuel s cached stream pa bs) := by
  induction fuel generalizing s pa bs with
  | zero => exact .refl s
  | succ fuel ih =>
    unfold physWriteN
    split
    · exact .refl s
    · exact (writesOnly_sliceWrite _ _ _ _ _ _).trans (ih _ _ _)

theorem writesOnly_physWriteAs (s : State) (cached stream : Bool) (pa : Nat) (bs : List Byte) :
    WritesOnly s (physWriteAs s cached stream pa bs) := writesOnly_physWriteN _ _ _ _ _ _

theorem writesOnly_physWrite (s : State) (cached : Bool) (pa : Nat) (bs : List Byte) :
    WritesOnly s (physWrite s cached pa bs) := writesOnly_physWriteN _ _ _ _ _ _

theorem writesOnly_devWrite1 (s : State) (pa : Nat) (bs : List Byte) : WritesOnly s (devWrite1 s pa bs) := by
  unfold devWrite1
  extract_lets s1
  have h1 : WritesOnly s s1 := writesOnly_sliceWrite _ _ _ _ _ _
  split
  · exact h1.trans ((writesOnly_setMem _ _).trans (writesOnly_invalidateLine _ _ _))
  · exact h1

theorem writesOnly_devWriteN (fuel : Nat) (s : State) (pa : Nat) (bs : List Byte) :
    WritesOnly s (devWriteN fuel s pa bs) := by
  induction fuel generalizing s pa bs with
  | zero => exact .refl s
  | succ fuel ih =>
    unfold devWriteN
    split
    · exact .refl s
    · exact (writesOnly_devWrite1 _ _ _).trans (ih _ _ _)

theorem writesOnly_devWrite (s : State) (pa : Nat) (bs : List Byte) : WritesOnly s (devWrite s pa bs) :=
  writesOnly_devWriteN _ _ _ _

theorem writesOnly_objWrite (s : State) (o gen off : Nat) (bs : List Byte) : WritesOnly s (objWrite s o gen off bs) := by
  unfold objWrite
  split
  · exact writesOnly_devWrite _ _ _
  · exact .refl s

theorem writesOnly_vwriteN (stream : Bool) (fuel : Nat) (s : State) (c va : Nat) (bs : List Byte) :
    WritesOnly s (vwriteN stream fuel s c va bs).1 := by
  induction fuel generalizing s va bs with
  | zero => exact .refl s
  | succ fuel ih =>
    unfold vwriteN
    split
    · exact .refl s
    · split
      · exact .refl s
      next p s1 hl =>
        exact ((readsOnly_locate hl).writesOnly.trans (writesOnly_physWriteAs _ _ _ _ _)).trans (ih _ _ _)

theorem writesOnly_vwrite (s : State) (c va : Nat) (bs : List Byte) : WritesOnly s (vwrite s c va bs).1 :=
  writesOnly_vwriteN _ _ _ _ _ _

theorem writesOnly_vwriteStream (s : State) (c va : Nat) (bs : List Byte) : WritesOnly s (vwriteStream s c va bs).1 :=
  writesOnly_vwriteN _ _ _ _ _ _

/-! ### Status blocks -/

/-- Writing a field of a status block changes the context's copy of it and serves memory. -/
theorem writesOnly_setBlock (s : State) (c off n v : Nat) :
    WritesOnly (s.setCtx c { s.ctx c with block := (s.ctx c).block.writeNat off n v }) (setBlock s c off n v) :=
  writesOnly_objWrite _ _ _ _ _

theorem setBlock_ctx (s : State) (c off n v k : Nat) :
    (setBlock s c off n v).ctx k = if k = c then { s.ctx c with block := (s.ctx c).block.writeNat off n v } else s.ctx k := by
  rw [(writesOnly_setBlock s c off n v).ctx, State.setCtx_ctx]

theorem setBlock_group (s : State) (c off n v : Nat) (g : GroupAt) : (setBlock s c off n v).group g = s.group g :=
  (writesOnly_setBlock s c off n v).group g

theorem incBlock_group (s : State) (c off : Nat) (g : GroupAt) : (incBlock s c off).group g = s.group g :=
  setBlock_group _ _ _ _ _ _

end Sys2Proof.Proofs

/-! Control flow: the group that each control instruction forms when its encoding and targets are good, and the fault it
takes when they are not. -/

namespace Sys2Proof.Proofs

open Sys2Proof.Machine

/-! ### The frame of a control instruction -/

theorem badRead_nil (c : Machine.Core) (slot : Nat) (m : Mask) : badRead c slot [] m = false := by simp [badRead]

theorem badRead_zero (c : Machine.Core) (slot : Nat) (rs : List Nat) : badRead c slot rs 0 = false := by
  have hnone : lanesOf (0 : Mask) = [] := by decide
  simp only [badRead, hnone, List.any_nil, List.any_eq_false.mpr (fun _ _ => Bool.false_ne_true), Bool.and_false]

/-- A control instruction that forms the group `y` completes with it, and nothing else changes. -/
theorem stepB_lands {s s1 : State} {g : GroupAt} {e : EncB} {op : Nat} {f : Prog → Group → Except Nat Group} {y : Group}
    (hissue : issueCheck s g (e.code op) = .go s1) (hf : f (groupProg s1 g) (s1.group g) = .ok y) :
    (stepB op g e s f).group g = { y with promoted := false } ∧ OnlyGroup s1 (stepB op g e s f) g :=
  stepGroup_go s s1 g e.h _ _ _ _ _ hissue hf (badRead_nil _ _ _)

/-- An instruction of a group whose rules give a fault detail faults its context and does nothing else. -/
theorem stepGroup_error {s s1 : State} {g : GroupAt} {h : Head} {code rd wr : List Nat}
    {f : Prog → Group → Except Nat Group} {d : Nat} (hissue : issueCheck s g code = .go s1)
    (hf : f (groupProg s1 g) (s1.group g) = .error d) :
    stepGroup s g h code rd wr f = groupFault s1 g (illegalFault d) := by
  simp only [stepGroup, inCycle_ready _ _ _ (issueCheck_ready _ _ _ _ hissue), hissue, hf]

theorem guard_and_active (x : Group) (h : Head) : x.guard h &&& x.active = x.guard h := by
  rw [Group.guard, BitVec.and_comm, ← BitVec.and_assoc, BitVec.and_self]

/-! ### Targets and encodings -/

theorem relTarget_eq_some {pc t : Nat} {d : BitVec 24} (h : (t : Int) = pc + 8 * d.toInt) : relTarget pc d = some t := by
  rw [relTarget, ← h]
  simp

theorem relTarget_eq_none {pc : Nat} {d : BitVec 24} (h : ¬ (0 : Int) ≤ pc + 8 * d.toInt) : relTarget pc d = none :=
  if_neg h

theorem relTarget_of_nonneg {pc : Nat} {d : BitVec 24} (h : (0 : Int) ≤ pc + 8 * d.toInt) :
    relTarget pc d = some ((pc : Int) + 8 * d.toInt).toNat :=
  if_pos h

section
variable {e : EncB}

theorem encBOk_plain (hlong : e.h.long = false) (hrsv : e.h.rsv48 = false) : encBOk false e = true := by
  simp [encBOk, hlong, hrsv]

theorem encBOk_unguarded (hlong : e.h.long = false) (hrsv : e.h.rsv48 = false) (hpred : e.h.pred = 7)
    (hneg : e.h.pneg = false) : encBOk true e = true := by
  simp [encBOk, hlong, hrsv, hpred, hneg]

theorem encBOk_reserved {needP7 : Bool} (h : e.h.long = true ∨ e.h.rsv48 = true) : encBOk needP7 e = false := by
  rcases h with h | h <;> simp [encBOk, h]

theorem encBOk_guarded (h : e.h.pred ≠ 7) : encBOk true e = false := by
  rw [encBOk, beq_eq_false_iff_ne.mpr h]
  simp

end

/-! ### The divergence stack -/

/-- Two entries fit a stack of at most 62. -/
theorem pushes_two {x : Group} (a b : StkEntry) (h : x.stack.length ≤ 62) :
    x.pushes [a, b] = .ok { x with stack := b :: a :: x.stack } := by
  rw [Group.pushes, if_neg (by simp only [List.length_cons, List.length_nil]; omega)]
  rfl

section
variable {x : Group} {m : Mask} (t f j : Nat)

theorem branch_all : x.branch x.active t f j = .ok { x with pc := t } := by
  simp [Group.branch]

theorem branch_none (hact : x.active ≠ 0) : x.branch 0 t f j = .ok { x with pc := f } := by
  have hrest : x.active &&& ~~~(0 : Mask) = x.active := by
    rw [show ~~~(0 : Mask) = BitVec.allOnes 32 from BitVec.not_zero, BitVec.and_allOnes]
  simp only [Group.branch, hrest, if_neg hact, if_true]

theorem andNot_ne_zero {a b : Mask} (hsub : b &&& a = b) (hne : b ≠ a) : a &&& ~~~b ≠ 0 := by
  intro hzero
  apply hne
  have hb : b = a := by
    apply BitVec.eq_of_getLsbD_eq
    intro i hi
    have h0 := congrArg (fun v : Mask => v.getLsbD i) hzero
    have h1 := congrArg (fun v : Mask => v.getLsbD i) hsub
    simp only [BitVec.getLsbD_and, BitVec.getLsbD_not, hi, decide_true, Bool.true_and] at h0 h1
    revert h0 h1
    cases a.getLsbD i <;> cases b.getLsbD i <;> simp
  exact hb

theorem branch_some (hsub : m &&& x.active = m) (hm : m ≠ x.active) (h0 : m ≠ 0) (hlen : x.stack.length ≤ 62) :
    x.branch m t f j = .ok { x with
      stack := ⟨false, none, 0, t, m⟩ :: ⟨true, none, 0, j, x.active⟩ :: x.stack
      active := x.active &&& ~~~m, pc := f } := by
  simp only [Group.branch, if_neg (andNot_ne_zero hsub hm), if_neg h0, pushes_two _ _ hlen]

end

/-- Resuming takes an unblocked top entry with lanes left. -/
theorem resume_top {x : Group} {top : StkEntry} {rest : List StkEntry} (hs : x.stack = top :: rest)
    (hb : top.blocked = none) (hm : top.mask &&& ~~~x.exited ≠ 0) :
    x.resume = { x with stack := rest, active := top.mask &&& ~~~x.exited, pc := top.pc } := by
  simp only [Group.resume, hs, List.length_cons, Group.resumeN, hb, Option.isSome_none, Bool.false_eq_true, if_false,
    if_neg hm]

/-! ### The group that each instruction forms -/

section
variable {e : EncB} {x : Group} {ok : Nat → Bool} {t j : Nat}

theorem runNop_ok (hok : encBOk false e = true) (ht : e.target = 0) (hj : e.join = 0) :
    runNop e x = .ok { x with pc := x.pc + 8 } := by
  simp [runNop, hok, ht, hj]

theorem runBra_ok (hok : encBOk false e = true) (ht : relTarget x.pc e.target = some t)
    (hj : relTarget x.pc e.join = some j) (hokt : ok t = true) (hokj : ok j = true) :
    runBra e ok x = x.branch (x.guard e.h) t (x.pc + 8) j := by
  simp [runBra, hok, ht, hj, hokt, hokj]

/-- brx once its encoding and its register are good. -/
theorem runBrx_eq {regs : Nat} (hok : encBOk false e = true) (hlow : e.target.toNat % 2 ^ 16 = 0)
    (hsrc : e.target.toNat / 2 ^ 16 < regs) :
    runBrx e ok regs x =
      if x.guard e.h = 0 then .ok { x with pc := x.pc + 8 }
      else match relTarget x.pc e.join with
        | none => .error dBadTarget
        | some j =>
          if !ok j then .error dBadTarget
          else if x.guard e.h ≠ x.active then
            match x.pushes [⟨true, none, 0, j, x.active⟩, ⟨false, none, 0, x.pc, x.guard e.h⟩] with
            | .error d => .error d
            | .ok g1 => .ok { g1 with active := x.active &&& ~~~x.guard e.h, pc := x.pc + 8 }
          else if (lanesOf (x.guard e.h)).all fun l => ok (x.vget (e.target.toNat / 2 ^ 16) l).toNat then
            x.branchIndirect (fun l => (x.vget (e.target.toNat / 2 ^ 16) l).toNat) x.pc j
          else .error dBadTarget := by
  have hdef : (!(encBOk false e && e.target.toNat % 2 ^ 16 == 0)) = false := by rw [hok, hlow]; rfl
  unfold runBrx
  exact (if_neg (Bool.eq_false_iff.mp hdef)).trans (if_neg (Nat.not_le.mpr hsrc))

theorem runBrx_none {regs : Nat} (hok : encBOk false e = true) (hlow : e.target.toNat % 2 ^ 16 = 0)
    (hsrc : e.target.toNat / 2 ^ 16 < regs) (hm : x.guard e.h = 0) :
    runBrx e ok regs x = .ok { x with pc := x.pc + 8 } := by
  rw [runBrx_eq hok hlow hsrc, if_pos hm]

section
variable {regs src : Nat} (hok : encBOk false e = true) (htarget : e.target.toNat = src * 2 ^ 16) (hsrc : src < regs)
  (hj : relTarget x.pc e.join = some j) (hokj : ok j = true)
include hok htarget hsrc hj hokj

theorem runBrx_part (hm : x.guard e.h ≠ x.active) (h0 : x.guard e.h ≠ 0) (hlen : x.stack.length ≤ 62) :
    runBrx e ok regs x = .ok { x with
      stack := ⟨false, none, 0, x.pc, x.guard e.h⟩ :: ⟨true, none, 0, j, x.active⟩ :: x.stack
      active := x.active &&& ~~~x.guard e.h, pc := x.pc + 8 } := by
  have hdiv : e.target.toNat / 2 ^ 16 = src := by rw [htarget, Nat.mul_div_cancel _ (by decide)]
  rw [runBrx_eq hok (by rw [htarget, Nat.mul_mod_left]) (hdiv ▸ hsrc), if_neg h0]
  simp only [hj, hokj, Bool.not_true, Bool.false_eq_true, if_false, ne_eq, hm, not_false_iff, if_true,
    pushes_two _ _ hlen]

theorem runBrx_all (hm : x.guard e.h = x.active) (h0 : x.guard e.h ≠ 0)
    (hokt : ∀ l, l < 32 → inMask (x.guard e.h) l = true → ok (x.vget src l).toNat = true) :
    runBrx e ok regs x = x.branchIndirect (fun l => (x.vget src l).toNat) x.pc j := by
  have hdiv : e.target.toNat / 2 ^ 16 = src := by rw [htarget, Nat.mul_div_cancel _ (by decide)]
  have hall : ((lanesOf (x.guard e.h)).all fun l => ok (x.vget src l).toNat) = true :=
    List.all_eq_true.mpr fun l hl => hokt l (mem_lanesOf.mp hl).1 (mem_lanesOf.mp hl).2
  rw [runBrx_eq hok (by rw [htarget, Nat.mul_mod_left]) (hdiv ▸ hsrc), if_neg h0, hdiv]
  simp only [hj, hokj, Bool.not_true, Bool.false_eq_true, if_false, if_neg (not_not.mpr hm), hall, if_true]

end

theorem runJoin_empty (hok : encBOk true e = true) (ht : e.target = 0) (hj : e.join = 0) (hs : x.stack = []) :
    runJoin e x = .ok { x with pc := x.pc + 8 } := by
  simp [runJoin, hok, ht, hj, hs]

theorem runJoin_top {top : StkEntry} {rest : List StkEntry} (hok : encBOk true e = true) (ht : e.target = 0)
    (hj : e.join = 0) (hs : x.stack = top :: rest) (hb : top.blocked = none) (hm : top.mask &&& ~~~x.exited ≠ 0) :
    runJoin e x = .ok { x with stack := rest, active := top.mask &&& ~~~x.exited, pc := top.pc } := by
  have hres := resume_top hs hb hm
  simp only [runJoin, hok, ht, hj, hs, beq_self_eq_true, Bool.and_self, if_true, hres]

theorem runExit_ok (hok : encBOk false e = true) (ht : e.target = 0) (hj : e.join = 0) :
    runExit e x = .ok (x.exitLanes (x.guard e.h) (x.pc + 8)) := by
  simp [runExit, hok, ht, hj]

theorem runCall_ok (hok : encBOk true e = true) (hj : e.join = 0) (ht : relTarget x.pc e.target = some t)
    (hokt : ok t = true) (hlen : x.calls.length < 16) :
    runCall e ok true x = .ok { x with calls := (x.pc + 8, x.stack.length) :: x.calls, pc := t } := by
  simp [runCall, hok, hj, ht, hokt, Nat.not_le.mpr hlen]

theorem runRet_ok {ra : Nat} {rest : List (Nat × Nat)} (hok : encBOk true e = true) (ht : e.target = 0)
    (hj : e.join = 0) (hc : x.calls = (ra, x.stack.length) :: rest) :
    runRet e true x = .ok { x with calls := rest, pc := ra } := by
  simp [runRet, hok, ht, hj, hc]

end

/-! ### Indirect branches -/

/-- The lowest lane of a mask that is not empty is in it. -/
theorem inMask_lowLane {m : Mask} (hm : m ≠ 0) : inMask m (lowLane m) = true ∧ lowLane m < 32 := by
  have hex : ∃ l ∈ allLanes, inMask m l = true := by
    by_contra hnone
    push Not at hnone
    apply hm
    apply BitVec.eq_of_getLsbD_eq
    intro l hl
    simpa [inMask] using hnone l (List.mem_range.mpr hl)
  obtain ⟨l, hl⟩ := Option.isSome_iff_exists.mp (List.find?_isSome.mpr hex)
  rw [lowLane, hl]
  exact ⟨List.find?_some hl, List.mem_range.mp (List.mem_of_find?_eq_some hl)⟩

theorem mask_ext {a b : Mask} (h : ∀ l, l < 32 → inMask a l = inMask b l) : a = b :=
  BitVec.eq_of_getLsbD_eq h

theorem inMask_and (a b : Mask) (l : Nat) : inMask (a &&& b) l = (inMask a l && inMask b l) := BitVec.getLsbD_and

section
variable {x : Group} {tgt : Nat → Nat} {t selfPc j : Nat}

theorem branchIndirect_one (hact : x.active ≠ 0) (h : ∀ l, l < 32 → inMask x.active l = true → tgt l = t) :
    x.branchIndirect tgt selfPc j = .ok { x with pc := t } := by
  obtain ⟨hlead, hlt⟩ := inMask_lowLane hact
  have htlead : tgt (lowLane x.active) = t := h _ hlt hlead
  have hsame : x.active &&& maskOf (fun l => tgt l == t) = x.active := by
    refine mask_ext fun l hl => ?_
    rw [inMask_and, inMask_maskOf _ hl]
    cases hin : inMask x.active l with
    | false => rfl
    | true => simp [h l hl hin]
  simp only [Group.branchIndirect, htlead, hsame, if_true]

theorem branchIndirect_some {same : Mask} (hsame : ∀ l, l < 32 → inMask same l = (inMask x.active l && tgt l == t))
    (hlead : inMask same (lowLane x.active) = true) (hact : x.active ≠ 0) (hne : same ≠ x.active)
    (hlen : x.stack.length ≤ 62) :
    x.branchIndirect tgt selfPc j = .ok { x with
      stack := ⟨false, none, 0, selfPc, x.active &&& ~~~same⟩ :: ⟨true, none, 0, j, x.active⟩ :: x.stack
      active := same, pc := t } := by
  have htlead : tgt (lowLane x.active) = t := by
    have h := hsame _ (inMask_lowLane hact).2
    rw [hlead, eq_comm, Bool.and_eq_true, beq_iff_eq] at h
    exact h.2
  have hmask : x.active &&& maskOf (fun l => tgt l == t) = same := by
    refine mask_ext fun l hl => ?_
    rw [inMask_and, inMask_maskOf _ hl, hsame l hl]
  simp only [Group.branchIndirect, htlead, hmask, if_neg hne, pushes_two _ _ hlen]

end

/-! ### Exits -/

/-- What becomes of a group at an exit: it has ended, or the lanes `E` have left it and, where the lanes `A` are left active,
those go on at `pc`. -/
def Left (E A : Mask) (pc : Nat) (y : Group) : Prop :=
  y.live = false ∨ (y.exited = E ∧ (A ≠ 0 → y.active = A ∧ y.pc = pc))

theorem resumeN_live_exited (n : Nat) (x : Group) : (x.resumeN n).live = x.live ∧ (x.resumeN n).exited = x.exited := by
  induction n generalizing x with
  | zero => exact ⟨rfl, rfl⟩
  | succ n ih =>
    unfold Group.resumeN
    split
    · exact ⟨rfl, rfl⟩
    · split
      · split
        · exact ⟨rfl, rfl⟩
        · split
          · exact ⟨rfl, rfl⟩
          · dsimp only
            split
            · exact ih _
            · exact ⟨rfl, rfl⟩
      · dsimp only
        split
        · exact ih _
        · exact ⟨rfl, rfl⟩

theorem resume_live (x : Group) : x.resume.live = x.live := (resumeN_live_exited _ _).1
theorem resume_exited (x : Group) : x.resume.exited = x.exited := (resumeN_live_exited _ _).2

theorem left_exitLanes (x : Group) (m : Mask) (next : Nat) :
    Left (x.exited ||| m) (x.active &&& ~~~m) next (x.exitLanes m next) := by
  unfold Group.exitLanes
  extract_lets g1
  split
  next h0 => exact .inr ⟨resume_exited _, fun hne => absurd h0 hne⟩
  next h0 => exact .inr ⟨rfl, fun _ => ⟨rfl, rfl⟩⟩

section
variable {E A : Mask} {pc : Nat}

theorem left_barrierRelease {y : Group} (b : Nat) (h : Left E A pc y) : Left E A pc (y.barrierRelease b) := by
  unfold Group.barrierRelease
  extract_lets g1
  have hg1 : Left E A pc g1 := h
  split
  next h0 =>
    rcases hg1 with hl | ⟨hE, hA⟩
    · exact .inl ((resume_live _).trans hl)
    · exact .inr ⟨(resume_exited _).trans hE, fun hne => absurd ((hA hne).1.symm.trans h0) hne⟩
  next => exact hg1

/-- A fold over group slots whose steps keep `Left` of slot `k` keeps it. -/
theorem left_foldl {α : Type} {f : Machine.Core → α → Machine.Core} {k : Nat}
    (hf : ∀ c a, Left E A pc (c.group k) → Left E A pc ((f c a).group k)) (l : List α) (c : Machine.Core)
    (h : Left E A pc (c.group k)) : Left E A pc ((l.foldl f c).group k) := by
  induction l generalizing c with
  | nil => exact h
  | cons a l ih => exact ih _ (hf _ _ h)

theorem left_release {c : Machine.Core} {k : Nat} (w b : Nat) (h : Left E A pc (c.group k)) :
    Left E A pc ((c.release w b).group k) := by
  refine left_foldl (f := fun c j => c.setGroup j ((c.group j).barrierRelease b)) (fun c j hc => ?_) (c.slotsOf w) c h
  rw [Core.group_setGroup]
  split
  next hk => exact left_barrierRelease b (hk ▸ hc)
  next => exact hc

theorem left_barrierEval {c : Machine.Core} {k : Nat} (w : Nat) (h : Left E A pc (c.group k)) :
    Left E A pc ((c.barrierEval w).group k) := by
  refine left_foldl (fun c b hc => ?_) (List.range 8) c h
  dsimp only
  split
  · exact left_release w b hc
  · exact hc

theorem captureFrags_group (c : Machine.Core) (j k : Nat) : (c.captureFrags j).group k = c.group k := by
  unfold Core.captureFrags
  split <;> rfl

theorem left_freeGroup {c : Machine.Core} {k : Nat} (j : Nat) (h : Left E A pc (c.group k)) :
    Left E A pc (((c.captureFrags j).freeGroup j).group k) := by
  have hread : ((c.captureFrags j).freeGroup j).group k = if k == j then .empty else c.group k := by
    rw [← captureFrags_group c j k]
    have hdrop : ((c.captureFrags j).freeGroup j).group k = tget (tdrop (c.captureFrags j).groups (· == j)) k .empty := rfl
    rw [hdrop, tget_tdrop]
    rfl
  rw [hread]
  split
  · exact .inl rfl
  · exact h

end

theorem endStage_group (c : Machine.Core) (slot : Nat) (w : Wg) (k : Nat) : (c.endStage slot w).group k = c.group k := by
  unfold Core.endStage
  split
  · split <;> rfl
  · rfl

theorem wgExited_core (s : State) (w : Wg) (k : Nat) : (wgExited s w).core k = s.core k := by
  unfold wgExited
  split
  · split
    · rfl
    · split <;> rfl
  · rfl
  · rfl

theorem wgExited_group (s : State) (w : Wg) (g : GroupAt) : (wgExited s w).group g = s.group g := by
  simp only [State.group, wgExited_core]

theorem stopMade_group (s : State) (core id off area : Nat) (g : GroupAt) :
    (stopMade s core id off area).group g = s.group g := by
  unfold stopMade
  extract_lets s1 s2
  have h2 : s2.group g = s.group g := by
    unfold s2
    split <;> rfl
  rw [incBlock_group, State.group, bump_core]
  exact h2

theorem stopReached_group (s : State) (core id : Nat) (g : GroupAt) : (stopReached s core id).group g = s.group g := by
  unfold stopReached
  split
  · split
    · rfl
    · split
      · exact stopMade_group _ _ _ _ _ _
      · rfl
  · rfl

theorem left_endGroups {E A : Mask} {pc : Nat} {s : State} {g : GroupAt} (w : Nat) (h : Left E A pc (s.group g)) :
    Left E A pc ((endGroups s g.core w).group g) := by
  unfold endGroups
  extract_lets c dead c1 c2
  have h1 : Left E A pc (c1.group g.slot) := left_foldl (fun c j hc => left_freeGroup j hc) dead c h
  split
  · have hc2 : c2.group g.slot = c1.group g.slot := endStage_group _ _ _ _
    rw [stopReached_group, wgExited_group]
    simpa only [State.group, State.setCore_core, if_true, hc2] using h1
  · simpa only [State.group, State.setCore_core, if_true] using h1

theorem left_settleWg {E A : Mask} {pc : Nat} {s : State} {g : GroupAt} (w : Nat) (h : Left E A pc (s.group g)) :
    Left E A pc ((settleWg s g.core w).group g) := by
  unfold settleWg
  extract_lets c c1
  refine left_endGroups w ?_
  simp only [State.group, State.setCore_core, if_true]
  exact left_barrierEval w h

theorem execExit_left {s s1 : State} {g : GroupAt} {e : EncB} (hissue : issueCheck s g (e.code 4) = .go s1)
    (hok : encBOk false e = true) (ht : e.target = 0) (hj : e.join = 0) :
    Answers (.exit g e) s fun t => Left ((s1.group g).exited ||| (s1.group g).guard e.h)
      ((s1.group g).active &&& ~~~(s1.group g).guard e.h) ((s1.group g).pc + 8) (t.group g) := by
  obtain ⟨hgroup, -⟩ := stepB_lands (f := fun _ x => runExit e x) hissue (runExit_ok hok ht hj)
  have hleft : Left ((s1.group g).exited ||| (s1.group g).guard e.h)
      ((s1.group g).active &&& ~~~(s1.group g).guard e.h) ((s1.group g).pc + 8)
      ((stepB 4 g e s fun _ x => runExit e x).group g) :=
    hgroup ▸ left_exitLanes (s1.group g) ((s1.group g).guard e.h) ((s1.group g).pc + 8)
  refine ⟨_, exec_exit g e s, ?_⟩
  dsimp only
  split
  · exact hleft
  · exact left_settleWg _ hleft

/-- Settles O9: each instruction forms its group by the listing of R57, and settling the workgroup after an exit touches only
the stack of a group with lanes left. -/
theorem controlFlow : Obligations.ControlFlow := by
  intro g e s s1 x p m ok plain all issues lands
  have hplain (h : plain) : encBOk false e = true := encBOk_plain h.1 h.2
  have hall (h : all) : encBOk true e = true := encBOk_unguarded h.1.1 h.1.2 h.2.1 h.2.2
  have hact (op : Nat) (h : issues op) : x.active ≠ 0 := (issueCheck_active h).2.1
  have hmsub : m &&& x.active = m := guard_and_active x e.h
  refine ⟨?nop, ?bra, ?brxNone, ?brx, ?join, ?exit, ?call, ?ret⟩
  case nop => exact fun hp ht hj hi => ⟨_, exec_nop g e s, stepB_lands hi (runNop_ok (hplain hp) ht hj)⟩
  case bra =>
    intro tgt j hp ht hj hokt hokj
    have hrun := runBra_ok (ok := ok) (hplain hp) (relTarget_eq_some ht) (relTarget_eq_some hj) hokt hokj
    refine ⟨fun hm hi => ⟨_, exec_bra g e s, stepB_lands hi (hrun.trans ?_)⟩,
      fun hm hi => ⟨_, exec_bra g e s, stepB_lands hi (hrun.trans ?_)⟩,
      fun hm h0 hlen hi => ⟨_, exec_bra g e s, stepB_lands hi (hrun.trans (branch_some _ _ _ hmsub hm h0 hlen))⟩⟩
    · rw [show x.guard e.h = x.active from hm]
      exact branch_all _ _ _
    · rw [show x.guard e.h = 0 from hm]
      exact branch_none _ _ _ (hact 1 hi)
  case brxNone =>
    exact fun hp hlow hsrc hm hi => ⟨_, exec_brx g e s, stepGroup_go _ _ _ _ _ _ _ _ _ hi
      (runBrx_none (hplain hp) hlow hsrc hm) (by rw [show (s1.group g).guard e.h = 0 from hm]; exact badRead_zero _ _ _)⟩
  case brx =>
    intro src j hp htarget hsrc hj hokj hread
    have hj' := relTarget_eq_some hj
    have hread' : badRead (s1.core g.core) g.slot [e.target.toNat / 2 ^ 16] m = false := by
      rwa [htarget, Nat.mul_div_cancel _ (by decide)]
    refine ⟨fun hm h0 hlen hi => ?_, fun tgt hm h0 hokt hsame hi => ?_, fun tgt same hm hlen _ hne hsame hokt hlead hi => ?_⟩
    · exact ⟨_, exec_brx g e s, stepGroup_go _ _ _ _ _ _ _ _ _ hi
        (runBrx_part (ok := ok) (hplain hp) htarget hsrc hj' hokj hm h0 hlen) hread'⟩
    · have hm' : x.guard e.h = x.active := hm
      have hok (l : Nat) (hl : l < 32) (hin : inMask m l = true) : ok (x.vget src l).toNat = true := by
        rw [hsame l hl hin]
        exact hokt
      refine ⟨_, exec_brx g e s, stepGroup_go _ _ _ _ _ _ _ _ _ hi
        ((runBrx_all (ok := ok) (hplain hp) htarget hsrc hj' hokj hm h0 hok).trans
          (branchIndirect_one (hact 2 hi) fun l hl hin => hsame l hl (show inMask (x.guard e.h) l = true from hm'.symm ▸ hin))) hread'⟩
    · have hm' : x.guard e.h = x.active := hm
      have h0 := hact 2 hi
      have h0' : x.guard e.h ≠ 0 := hm' ▸ h0
      have hrun := branchIndirect_some (x := x) (tgt := fun l => (x.vget src l).toNat) (selfPc := x.pc) (j := j)
        (fun l hl => (hsame l hl).trans (by rw [← hm'])) (by rw [← hm']; exact hlead) h0 hne hlen
      refine ⟨_, exec_brx g e s, stepGroup_go _ _ _ _ _ _ _ _ _ hi
        ((runBrx_all (ok := ok) (hplain hp) htarget hsrc hj' hokj hm h0' hokt).trans ?_) hread'⟩
      rw [show m = x.active from hm]
      exact hrun
  case join =>
    exact fun hp ht hj => ⟨fun hs hi => ⟨_, exec_join g e s, stepB_lands hi (runJoin_empty (hall hp) ht hj hs)⟩,
      fun top rest hs hb hm hi => ⟨_, exec_join g e s, stepB_lands hi (runJoin_top (hall hp) ht hj hs hb hm)⟩⟩
  case exit => exact fun hp ht hj hi => execExit_left hi (hplain hp) ht hj
  case call =>
    intro tgt hp hj hflag ht hokt hlen hi
    refine ⟨_, exec_call g e s, stepB_lands hi ?_⟩
    rw [show (groupProg s1 g).callsFlag = true from hflag]
    exact runCall_ok (hall hp) hj (relTarget_eq_some ht) hokt hlen
  case ret =>
    intro ra rest hp ht hj hflag hc hi
    refine ⟨_, exec_ret g e s, stepB_lands hi ?_⟩
    rw [show (groupProg s1 g).callsFlag = true from hflag]
    exact runRet_ok (hall hp) ht hj hc

end Sys2Proof.Proofs

/-! What stops a context in control flow: each check that fails gives its detail, whatever the guard. -/

namespace Sys2Proof.Proofs

open Sys2Proof.Machine

/-- A group whose fetch goes through is ready. -/
theorem issueWith_ready {s s1 : State} {g : GroupAt} {mine : Nat → Bool} {ext : Option Nat}
    (h : issueWith s g mine ext = .go s1) : groupReady s g = true := by
  unfold issueWith at h
  by_cases hr : groupReady s g = true
  · exact hr
  · simp [hr] at h

section
variable {e : EncB} {x : Group} {ok : Nat → Bool} {flag : Bool}

theorem runNop_undefined (h : encBOk false e = false) : runNop e x = .error dUndefined := by simp [runNop, h]

theorem runBra_undefined (h : encBOk false e = false) : runBra e ok x = .error dUndefined := by simp [runBra, h]

theorem runJoin_undefined (h : encBOk true e = false) : runJoin e x = .error dUndefined := by simp [runJoin, h]

theorem runCall_undefined (h : encBOk true e = false ∨ flag = false) : runCall e ok flag x = .error dUndefined := by
  rcases h with h | h <;> simp [runCall, h]

theorem runRet_undefined (h : encBOk true e = false ∨ flag = false) : runRet e flag x = .error dUndefined := by
  rcases h with h | h <;> simp [runRet, h]

theorem runBrx_range {regs : Nat} (hok : encBOk false e = true) (hlow : e.target.toNat % 2 ^ 16 = 0)
    (hregs : regs ≤ e.target.toNat / 2 ^ 16) : runBrx e ok regs x = .error dRegRange := by
  have hdef : (!(encBOk false e && e.target.toNat % 2 ^ 16 == 0)) = false := by rw [hok, hlow]; rfl
  unfold runBrx
  exact (if_neg (Bool.eq_false_iff.mp hdef)).trans (if_pos hregs)

/-- A target below the program's start or that begins no instruction of it (R111). -/
theorem runBra_badTarget (hok : encBOk false e = true)
    (hbad : ¬ (0 : Int) ≤ x.pc + 8 * e.target.toInt ∨ ok ((x.pc : Int) + 8 * e.target.toInt).toNat = false) :
    runBra e ok x = .error dBadTarget := by
  by_cases hpos : (0 : Int) ≤ x.pc + 8 * e.target.toInt
  · have hfalse := hbad.resolve_left (not_not.mpr hpos)
    cases hj : relTarget x.pc e.join <;> simp [runBra, hok, hj, relTarget_of_nonneg hpos, hfalse]
  · simp [runBra, hok, relTarget_eq_none hpos]

theorem runCall_deep {t : Nat} (hok : encBOk true e = true) (hj : e.join = 0) (ht : relTarget x.pc e.target = some t)
    (hokt : ok t = true) (hlen : 16 ≤ x.calls.length) : runCall e ok true x = .error dCallStack := by
  simp [runCall, hok, hj, ht, hokt, hlen]

theorem runRet_unmatched (hok : encBOk true e = true) (ht : e.target = 0) (hj : e.join = 0)
    (hc : x.calls = [] ∨ ∃ ra d rest, x.calls = (ra, d) :: rest ∧ d ≠ x.stack.length) :
    runRet e true x = .error dCallStack := by
  rcases hc with hc | ⟨ra, d, rest, hc, hd⟩
  · simp [runRet, hok, ht, hj, hc]
  · simp [runRet, hok, ht, hj, hc, hd]

end

/-- Settles O10: each check gives its detail, and an instruction with a detail does nothing but fault. -/
theorem controlFaults : Obligations.ControlFaults := by
  intro g e s s1 x p all fails
  have hstep {c : Instr} {rd wr : List Nat} {f : Prog → Group → Except Nat Group} {op d : Nat}
      (hexec : exec c s = done (stepGroup s g e.h (e.code op) rd wr f)) (hf : f p x = .error d) : fails c op d :=
    fun hi => hexec.trans (congrArg _ (stepGroup_error hi hf))
  have hall (h : all) : encBOk true e = true := encBOk_unguarded h.1 h.2.1 h.2.2.1 h.2.2.2
  refine ⟨fun hi => ?_, fun h => ⟨?_, ?_⟩, fun hl hr hlow hregs => ?_, fun _ hflag => ⟨?_, ?_⟩, fun h => ⟨?_, ?_, ?_⟩,
    fun j hl hr _ hbad => ?_, fun tgt ha hj hflag ht hokt hlen => ?_, fun ha ht hj hflag hc => ?_⟩
  · rw [exec_undefinedEncoding, execUndefinedEncoding, inCycle_ready _ _ _ (issueWith_ready hi), hi]
    rfl
  · exact hstep (exec_nop g e s) (runNop_undefined (encBOk_reserved h))
  · exact hstep (exec_bra g e s) (runBra_undefined (encBOk_reserved h))
  · exact hstep (exec_brx g e s) (runBrx_range (encBOk_plain hl hr) hlow hregs)
  · exact hstep (exec_call g e s) (runCall_undefined (.inr hflag))
  · exact hstep (exec_ret g e s) (runRet_undefined (.inr hflag))
  · exact hstep (exec_join g e s) (runJoin_undefined (encBOk_guarded h))
  · exact hstep (exec_call g e s) (runCall_undefined (.inl (encBOk_guarded h)))
  · exact hstep (exec_ret g e s) (runRet_undefined (.inl (encBOk_guarded h)))
  · exact hstep (exec_bra g e s) (runBra_badTarget (encBOk_plain hl hr) hbad)
  · refine hstep (exec_call g e s) ?_
    rw [hflag]
    exact runCall_deep (hall ha) hj (relTarget_eq_some ht) hokt hlen
  · refine hstep (exec_ret g e s) ?_
    rw [hflag]
    exact runRet_unmatched (hall ha) ht hj hc

end Sys2Proof.Proofs

/-! What a fault does to its context: the sessions and graph runs it ends, the record it writes, and the queues it stops. -/

namespace Sys2Proof.Proofs

open Sys2Proof.Machine

/-! ### Little-endian fields of a record -/

theorem length_leBytes (n x : Nat) : (leBytes n x).length = n := by
  induction n generalizing x with
  | zero => rfl
  | succ n ih => simp [leBytes, ih]

theorem leNat_leBytes (n x : Nat) : leNat (leBytes n x) = x % 2 ^ (8 * n) := by
  induction n generalizing x with
  | zero => simp [leBytes, leNat, Nat.mod_one]
  | succ n ih =>
    have hpow : 2 ^ (8 * (n + 1)) = 256 * 2 ^ (8 * n) := by rw [Nat.mul_succ, Nat.pow_add, Nat.mul_comm]
    rw [leBytes, leNat, ih, hpow, Nat.mod_mul, BitVec.toNat_ofNat]

/-- A field at the start of a run of bytes. -/
theorem fieldAt_zero_append (a r : List Byte) : fieldAt (a ++ r) 0 a.length = leNat a := by
  simp [fieldAt]

/-- A field past a run of bytes. -/
theorem fieldAt_append (a r : List Byte) (o n : Nat) (h : a.length ≤ o) :
    fieldAt (a ++ r) o n = fieldAt r (o - a.length) n := by
  rw [fieldAt, fieldAt, List.drop_append, List.drop_eq_nil_of_le h, List.nil_append]

theorem fieldAt_leBytes (k x : Nat) (r : List Byte) : fieldAt (leBytes k x ++ r) 0 k = x % 2 ^ (8 * k) := by
  have h := fieldAt_zero_append (leBytes k x) r
  rwa [length_leBytes, leNat_leBytes] at h

/-- A field past `k` bytes of a number. -/
theorem fieldAt_leBytes_of_le (k x : Nat) (r : List Byte) (o n : Nat) (h : k ≤ o) :
    fieldAt (leBytes k x ++ r) o n = fieldAt r (o - k) n := by
  have h' := fieldAt_append (leBytes k x) r o n (by rwa [length_leBytes])
  rwa [length_leBytes] at h'

theorem faultRecord_fields (s : State) (f : CtxFault) :
    let r := faultRecord s f
    r.length = 64 ∧ fieldAt r 0 2 = f.acc.code % 2 ^ 16 ∧ fieldAt r 2 1 = f.acc.detail % 2 ^ 8
    ∧ fieldAt r 3 1 = f.unit % 2 ^ 8 ∧ fieldAt r 4 1 = f.slot % 2 ^ 8
    ∧ fieldAt r 5 1 = 1 + 2 * b2n f.acc.write + 4 * b2n f.packet ∧ fieldAt r 6 2 = f.queue % 2 ^ 16
    ∧ fieldAt r 8 8 = f.pc % 2 ^ 64 ∧ fieldAt r 16 8 = f.acc.addr % 2 ^ 64 ∧ fieldAt r 24 4 = f.tag % 2 ^ 32
    ∧ fieldAt r 28 4 = s.maps.gen % 2 ^ 32 ∧ fieldAt r 32 8 = s.timer % 2 ^ 64 ∧ fieldAt r 40 4 = 0
    ∧ fieldAt r 44 2 = f.acc.obj % 2 ^ 16 ∧ fieldAt r 46 2 = f.acc.gen % 2 ^ 16 := by
  have hflags : 1 + 2 * b2n f.acc.write + 4 * b2n f.packet < 256 := by
    cases f.acc.write <;> cases f.packet <;> decide
  intro r
  have hr : r = leBytes 2 f.acc.code ++ (leBytes 1 f.acc.detail ++ (leBytes 1 f.unit ++ (leBytes 1 f.slot
      ++ (leBytes 1 (1 + 2 * b2n f.acc.write + 4 * b2n f.packet) ++ (leBytes 2 f.queue ++ (leBytes 8 f.pc
      ++ (leBytes 8 f.acc.addr ++ (leBytes 4 f.tag ++ (leBytes 4 s.maps.gen ++ (leBytes 8 s.timer ++ (leBytes 4 0
      ++ (leBytes 2 f.acc.obj ++ (leBytes 2 f.acc.gen ++ List.replicate 16 0))))))))))))) := by
    simp only [r, faultRecord, List.append_assoc]
  rw [hr]
  simp [length_leBytes, fieldAt_leBytes, fieldAt_leBytes_of_le, hflags]

/-! ### Sessions and graph runs that end -/

/-- From `s` to `t` sessions and graph runs ended: records were written, and finals given or kept for later. -/
structure Closes (s t : State) : Prop where
  rest : t = { s with
    mem := t.mem, cores := t.cores, sessions := t.sessions, lanes := t.lanes, queues := t.queues, ranger := t.ranger
    freeTick := t.freeTick, avail := t.avail, counters := t.counters, channels := t.channels, out := t.out, i3c := t.i3c
    ports := t.ports, tenants := t.tenants }
  core : ∀ k, t.core k = { s.core k with
    l1 := (t.core k).l1, demand := (t.core k).demand, prefetch := (t.core k).prefetch }

theorem WritesOnly.closes {s t : State} (h : WritesOnly s t) : Closes s t := by
  refine ⟨?_, h.core⟩
  have hrest := h.rest
  rw [← h.sessions, ← h.lanes, ← h.queues, ← h.ranger] at hrest
  exact hrest

theorem Notified.closes {s t : State} (h : Notified s t) : Closes s t := by
  unfold Notified at h
  have hcores : t.cores = s.cores := by rw [h]
  exact ⟨by rw [h], fun k => by simp only [State.core, hcores]⟩

namespace Closes

theorem refl (s : State) : Closes s s := (WritesOnly.refl s).closes

theorem trans {a b c : State} (h : Closes a b) (k : Closes b c) : Closes a c := by
  refine ⟨?_, fun i => ?_⟩
  · have hk := k.rest
    rw [h.rest] at hk
    exact hk
  · have hk := k.core i
    rw [h.core i] at hk
    exact hk

theorem foldl {α : Type} {f : State → α → State} (h : ∀ s x, Closes s (f s x)) (l : List α) (s : State) :
    Closes s (l.foldl f s) := by
  induction l generalizing s with
  | nil => exact refl s
  | cons a l ih => exact (h s a).trans (ih _)

variable {s t : State} (h : Closes s t)
include h

theorem ctxs : t.ctxs = s.ctxs := (congrArg State.ctxs h.rest :)
theorem fences : t.fences = s.fences := (congrArg State.fences h.rest :)
theorem maps : t.maps = s.maps := (congrArg State.maps h.rest :)
theorem timer : t.timer = s.timer := (congrArg State.timer h.rest :)
theorem ctx (c : Nat) : t.ctx c = s.ctx c := by simp only [State.ctx, h.ctxs]
theorem groups (k : Nat) : (t.core k).groups = (s.core k).groups := (congrArg Core.groups (h.core k) :)
theorem group (g : GroupAt) : t.group g = s.group g := by simp only [State.group, Core.group, h.groups]

end Closes

theorem closes_dropSession (s : State) (i : Nat) : Closes s (dropSession s i) := ⟨rfl, fun _ => rfl⟩

theorem closes_abandonSessions (s : State) (c : Nat) : Closes s (abandonSessions s c) := by
  refine Closes.foldl (fun s e => ?_) _ s
  split
  · unfold abandonSession
    refine Closes.trans ?_ (closes_dropSession _ _)
    split
    · split
      · exact (writesOnly_physWrite _ _ _ _).closes
      · exact .refl s
    · exact .refl s
  · exact .refl s

theorem closes_finalOn (s : State) (ch opcode arg status detail : Nat) (p : List Byte) :
    Closes s (finalOn s ch opcode arg status detail p) := by
  unfold finalOn
  extract_lets c mine s1
  split
  · exact .refl s
  · refine (Notified.closes (notified_setChannel _ _ _)).trans (Closes.foldl (fun s a => ?_) _ _)
    unfold lateOrNow
    split
    · exact Notified.closes (notified_postRecord _ _ _ _ _ _ _ _)
    · exact ⟨rfl, fun _ => rfl⟩

theorem closes_endRun (s : State) (g status detail : Nat) : Closes s (endRun s g status detail) := by
  unfold endRun
  split
  · exact .refl s
  · split
    · exact .refl s
    · extract_lets r s1 s2
      have h1 : Closes s s1 := ⟨rfl, fun _ => rfl⟩
      have h2 : Closes s1 s2 := by
        unfold s2
        split
        · exact closes_dropSession _ _
        · exact .refl _
      refine (h1.trans h2).trans (.trans ?_ (closes_finalOn _ _ _ _ _ _ _))
      exact ⟨rfl, fun _ => rfl⟩

theorem closes_endRunsOf (s : State) (c status detail : Nat) : Closes s (endRunsOf s c status detail) := by
  refine Closes.foldl (fun s e => ?_) _ s
  split
  · exact closes_endRun _ _ _ _
  · exact .refl s

/-! ### What is written and stopped -/

theorem writesOnly_report (s : State) (q : Nat) : WritesOnly s (report s q) := writesOnly_objWrite _ _ _ _ _

theorem putRecord_ctx (s : State) (c : Nat) (bs : List Byte) (k : Nat) :
    (putRecord s c bs).ctx k = if k = c then { s.ctx c with block := (s.ctx c).block.write 0 bs } else s.ctx k := by
  unfold putRecord
  rw [(writesOnly_objWrite _ _ _ _ _).ctx, State.setCtx_ctx]

theorem putRecord_group (s : State) (c : Nat) (bs : List Byte) (g : GroupAt) : (putRecord s c bs).group g = s.group g :=
  (writesOnly_objWrite _ _ _ _ _).group g

theorem putRecord_fences (s : State) (c : Nat) (bs : List Byte) : (putRecord s c bs).fences = s.fences :=
  (writesOnly_objWrite _ _ _ _ _).fences

theorem setCtxSt_ctx (s : State) (c : Nat) (st : CtxSt) (k : Nat) :
    (setCtxSt s c st).ctx k =
      if k = c then { s.ctx c with st := st, block := (s.ctx c).block.writeNat 64 4 st.code } else s.ctx k := by
  unfold setCtxSt
  rw [setBlock_ctx]
  split <;> simp_all [State.setCtx_ctx]

theorem setCtxSt_group (s : State) (c : Nat) (st : CtxSt) (g : GroupAt) : (setCtxSt s c st).group g = s.group g :=
  setBlock_group _ _ _ _ _ _

theorem setCtxSt_fences (s : State) (c : Nat) (st : CtxSt) : (setCtxSt s c st).fences = s.fences := setBlock_fences _ _ _ _ _

/-- An entry of a table after every entry was changed, where the change keeps the default. -/
theorem tget_tmap {α : Type} (t : Tbl α) (f : Nat → α → α) (k : Nat) (d : α) (hd : f k d = d) :
    tget (tmap t f) k d = f k (tget t k d) := by
  rw [tget_eq, tget_eq, tget?_tmap]
  cases tget? t k with
  | none => exact hd.symm
  | some x => rfl

/-- The group without a wait on a fence, where it is of context `c`. -/
def Unwaiting (c : Nat) (x y : Group) : Prop :=
  y = if x.ctx = c then (match x.wait with
    | .fence _ _ _ _ => { x with wait := .none }
    | _ => x) else x

theorem discardWaits_group (s : State) (c : Nat) (g : GroupAt) : Unwaiting c (s.group g) ((discardWaits s c).group g) := by
  have hcore : (discardWaits s c).core g.core = { s.core g.core with
      groups := tmap (s.core g.core).groups fun _ g => if g.ctx = c then (match g.wait with
        | .fence _ _ _ _ => { g with wait := .none }
        | _ => g) else g } :=
    tget_tmap s.cores (fun _ k => { k with groups := tmap k.groups fun _ g => if g.ctx = c then (match g.wait with
      | .fence _ _ _ _ => { g with wait := .none }
      | _ => g) else g }) g.core .reset rfl
  unfold Unwaiting State.group
  rw [hcore]
  exact tget_tmap (s.core g.core).groups (fun _ g => if g.ctx = c then (match g.wait with
    | .fence _ _ _ _ => { g with wait := .none }
    | _ => g) else g) g.slot .empty (by split <;> rfl)

theorem Unwaiting.pc {c : Nat} {x y : Group} (h : Unwaiting c x y) : y.pc = x.pc := by
  rw [h]
  split
  · split <;> rfl
  · rfl

theorem Unwaiting.vregs {c : Nat} {x y : Group} (h : Unwaiting c x y) : y.vregs = x.vregs := by
  rw [h]
  split
  · split <;> rfl
  · rfl

theorem discardWaits_queue (s : State) (c q : Nat) :
    ((discardWaits s c).queue q).ctx = (s.queue q).ctx ∧ ((discardWaits s c).queue q).st = (s.queue q).st := by
  have hq : (discardWaits s c).queue q = if (s.queue q).ctx = c && (s.queue q).st != .free then
      { s.queue q with wait := none } else s.queue q :=
    tget_tmap s.queues (fun _ q => if q.ctx = c && q.st != .free then { q with wait := none } else q) q .free (by
      split <;> rfl)
  rw [hq]
  split <;> exact ⟨rfl, rfl⟩

/-- From `s` to `t` queues stopped and were reported. -/
structure Stops (s t : State) : Prop where
  ctxs : t.ctxs = s.ctxs
  fences : t.fences = s.fences
  group : ∀ g, t.group g = s.group g
  queue : ∀ q, t.queue q = s.queue q ∨ t.queue q = { s.queue q with st := .stopped }

theorem Stops.refl (s : State) : Stops s s := ⟨rfl, rfl, fun _ => rfl, fun _ => .inl rfl⟩

theorem Stops.trans {a b c : State} (h : Stops a b) (k : Stops b c) : Stops a c := by
  refine ⟨k.ctxs.trans h.ctxs, k.fences.trans h.fences, fun g => (k.group g).trans (h.group g), fun q => ?_⟩
  rcases h.queue q with hq | hq <;> rcases k.queue q with kq | kq <;> simp [hq, kq]

/-- One queue's turn in stopping those of a context. -/
def stopQueue (c : Nat) (s : State) (e : Nat × Queue) : State :=
  if e.2.ctx = c && e.2.st == .live then report (s.setQueue e.1 { s.queue e.1 with st := .stopped }) e.1 else s

theorem stopQueues_eq (s : State) (c : Nat) : stopQueues s c = s.queues.foldl (stopQueue c) s := rfl

theorem stops_stopQueue (c : Nat) (s : State) (e : Nat × Queue) : Stops s (stopQueue c s e) := by
  unfold stopQueue
  split
  · have hw := writesOnly_report (s.setQueue e.1 { s.queue e.1 with st := .stopped }) e.1
    refine ⟨hw.ctxs, hw.fences, fun g => hw.group g, fun q => ?_⟩
    rw [hw.queue, State.setQueue_queue]
    split
    next h => exact .inr (by rw [h])
    next => exact .inl rfl
  · exact .refl s

theorem stops_foldl (c : Nat) (l : List (Nat × Queue)) (s : State) : Stops s (l.foldl (stopQueue c) s) := by
  induction l generalizing s with
  | nil => exact .refl s
  | cons e l ih => exact (stops_stopQueue c s e).trans (ih _)

/-- A live queue of the context whose entry has its turn is live no longer. -/
theorem stopQueue_foldl_st (c : Nat) (l : List (Nat × Queue)) (s : State) (e : Nat × Queue) (he : e ∈ l)
    (hc : e.2.ctx = c) (hst : e.2.st = .live) : ((l.foldl (stopQueue c) s).queue e.1).st ≠ .live := by
  induction l generalizing s with
  | nil => cases he
  | cons a l ih =>
    rw [List.foldl_cons]
    rcases List.mem_cons.mp he with rfl | hl
    · have hnow : ((stopQueue c s e).queue e.1).st = .stopped := by
        rw [stopQueue, if_pos (by simp [hc, hst]), (writesOnly_report _ _).queue, State.setQueue_queue, if_pos rfl]
      rcases (stops_foldl c l (stopQueue c s e)).queue e.1 with h | h <;> rw [h] <;> simp [hnow]
    · exact ih _ hl

theorem mem_of_tget? {α : Type} {t : Tbl α} {k : Nat} {x : α} (h : tget? t k = some x) : (k, x) ∈ t := by
  induction t with
  | nil => cases h
  | cons e r ih =>
    obtain ⟨i, w⟩ := e
    by_cases hk : k = i
    · subst hk
      simp only [tget?, if_true, Option.some.injEq] at h
      rw [h]
      exact List.mem_cons_self
    · simp only [tget?, if_neg hk] at h
      exact List.mem_cons_of_mem _ (ih h)

/-- No queue of a context whose queues were stopped is live. -/
theorem stopQueues_st (s : State) (c q : Nat) (hc : ((stopQueues s c).queue q).ctx = c) :
    ((stopQueues s c).queue q).st ≠ .live := by
  have hstops := (stops_foldl c s.queues s).queue q
  rw [← stopQueues_eq] at hstops
  rcases hstops with h | h
  · intro hlive
    rw [h] at hc hlive
    cases hq : tget? s.queues q with
    | none =>
      rw [State.queue, tget_eq, hq] at hlive
      cases hlive
    | some x =>
      have hx : s.queue q = x := by rw [State.queue, tget_eq, hq]; rfl
      rw [hx] at hc hlive
      apply stopQueue_foldl_st c s.queues s (q, x) (mem_of_tget? hq) hc hlive
      rw [← stopQueues_eq, h, hx, hlive]
  · rw [h]
    simp

/-! ### The fault -/

/-- The first fault of a LIVE context, carried out. -/
theorem applyFault_live {s : State} {f : CtxFault} (h : (s.ctx f.ctx).st = .live) :
    let x := s.ctx f.ctx
    let s1 := (endRunsOf (abandonSessions s f.ctx) f.ctx rRefused 0x20FF).setCtx f.ctx { x with faults := x.faults + 1 }
    let t := stopQueues (discardWaits (setCtxSt (putRecord s1 f.ctx (faultRecord s1 f)) f.ctx .faulted) f.ctx) f.ctx
    applyFault s f = (t, (match x.faultFence with
      | some n => [Act.devSignal (.ctx f.ctx 4 f.queue) x.tenant (some f.ctx) n
          (BitVec.ofNat 64 (if x.heritage then (x.faults + 1) % 2 ^ 32 else x.faults + 1))]
      | none => []) ++ (guarded t f.ctx).map Act.poison) := by
  intro x s1 t
  unfold applyFault
  dsimp only
  split
  · rfl
  next hst => rw [h] at hst; cases hst
  next hst _ => exact absurd h hst

theorem applyFault_live_acts {s : State} {f : CtxFault} (h : (s.ctx f.ctx).st = .live) :
    let x := s.ctx f.ctx
    (applyFault s f).2 = (match x.faultFence with
      | some n => [Act.devSignal (.ctx f.ctx 4 f.queue) x.tenant (some f.ctx) n
          (BitVec.ofNat 64 (if x.heritage then (x.faults + 1) % 2 ^ 32 else x.faults + 1))]
      | none => []) ++ (guarded (applyFault s f).1 f.ctx).map Act.poison := by
  rw [applyFault_live h]

/-- Settles O11: what ends with the context leaves every context and fence, the record and the state are the two writes to
its block, and stopping its queues leaves none of them live. -/
theorem faultStopsContext : Obligations.FaultStopsContext := by
  intro s f x t rec_
  refine ⟨fun hlive => ?live, fun hst => ?faulted, fun hst => ?gone, faultRecord_fields s f⟩
  case gone =>
    rcases hst with hst | hst <;> simp only [applyFault, show (s.ctx f.ctx).st = _ from hst]
  case faulted =>
    have ht : applyFault s f = (setBlock (s.setCtx f.ctx { x with faults := x.faults + 1 }) f.ctx 40 4
        (min (blockNat s f.ctx 40 4 + 1) 0xFFFFFFFF), []) := by
      simp only [applyFault, x, show (s.ctx f.ctx).st = _ from hst]
    refine ⟨?_, ?_, congrArg Prod.snd ht⟩ <;>
      simp only [t, ht, setBlock_ctx, State.setCtx_ctx, if_true, hst]
  case live =>
    obtain ⟨s0, hs0, hcloses⟩ : ∃ s0, s0 = endRunsOf (abandonSessions s f.ctx) f.ctx rRefused 0x20FF ∧ Closes s s0 :=
      ⟨_, rfl, (closes_abandonSessions _ _).trans (closes_endRunsOf _ _ _ _)⟩
    have hrec : faultRecord (s0.setCtx f.ctx { x with faults := x.faults + 1 }) f = rec_ := by
      simp only [rec_, faultRecord, State.setCtx_maps, State.setCtx_timer, hcloses.maps, hcloses.timer]
    obtain ⟨s3, hs3⟩ : ∃ s3, s3 = setCtxSt (putRecord (s0.setCtx f.ctx { x with faults := x.faults + 1 }) f.ctx rec_)
      f.ctx .faulted := ⟨_, rfl⟩
    have hstops : Stops (discardWaits s3 f.ctx) (stopQueues (discardWaits s3 f.ctx) f.ctx) := by
      rw [stopQueues_eq]
      exact stops_foldl _ _ _
    have ht : t = stopQueues (discardWaits s3 f.ctx) f.ctx := by
      rw [hs3, ← hrec, hs0]
      exact congrArg Prod.fst (applyFault_live hlive)
    have hctx (k : Nat) : t.ctx k = if k = f.ctx then { x with
        faults := x.faults + 1, st := .faulted, block := (x.block.write 0 rec_).writeNat 64 4 2 } else s.ctx k := by
      have hkeep : t.ctx k = s3.ctx k := by
        rw [ht, State.ctx, hstops.ctxs]
        rfl
      rw [hkeep, hs3, setCtxSt_ctx, putRecord_ctx, putRecord_ctx, State.setCtx_ctx, State.setCtx_ctx, hcloses.ctx]
      by_cases hk : k = f.ctx
      · simp only [if_pos hk, if_true]
        rfl
      · simp only [if_neg hk, hcloses.ctx]
    have hgroup (g : GroupAt) : Unwaiting f.ctx (s.group g) (t.group g) := by
      have hsame : s3.group g = s.group g := by
        rw [hs3, setCtxSt_group, putRecord_group]
        exact hcloses.group g
      rw [ht, hstops.group, ← hsame]
      exact discardWaits_group s3 f.ctx g
    have hfences : t.fences = s.fences := by
      rw [ht, hstops.fences]
      show s3.fences = s.fences
      rw [hs3, setCtxSt_fences, putRecord_fences]
      exact hcloses.fences
    refine ⟨?_, ?_, ?_, fun q hq => ?_, fun g => ⟨(hgroup g).pc, (hgroup g).vregs⟩, fun c hc => ?_, ?_⟩
    · rw [hctx, if_pos rfl]
    · rw [hctx, if_pos rfl]
    · rw [hctx, if_pos rfl]
    · rw [ht] at hq ⊢
      exact stopQueues_st _ _ _ hq
    · rw [hctx, if_neg hc]
    · have hguarded : guarded t f.ctx = guarded s f.ctx := by rw [guarded, guarded, hfences]
      rw [← hguarded]
      exact applyFault_live_acts hlive

end Sys2Proof.Proofs

/-! O54: what the common command codes of the I3C target and the JTAG instructions do, one lemma per helper they share. -/

namespace Sys2Proof.Proofs

open Sys2Proof.Machine

/-- The target hears the bus wherever it acts on common command codes. -/
theorem i3cHears_of_i3cUp {s : State} (h : i3cUp s = true) : i3cHears s = true := by
  simp only [i3cUp, i3cHears, Bool.and_eq_true] at h ⊢
  exact ⟨h.1.1, h.2⟩

theorem ccc_of_up {s : State} (h : i3cUp s = true) (f : I3c → I3c) : ccc s f = { s with i3c := f s.i3c } := by
  simp only [ccc, h, if_true]

theorem cccReturn_of_up {s : State} (h : i3cUp s = true) (ha : s.i3c.addr ≠ none) (data : List Byte) :
    cccReturn s data = { s with out := s.out ++ [.ccc data] } := by
  simp only [cccReturn, h, Option.isSome_iff_ne_none.mpr ha, Bool.and_self, if_true]

/-- The static address that the straps give is the one compared with, where the straps are in range. -/
theorem static_address (n : Nat) : (BitVec.ofNat 7 (0x30 + n % 4)).toNat = 0x30 + n ↔ n < 4 := by
  rw [BitVec.toNat_ofNat]
  omega

theorem execSetdasa_strap {s : State} (h : i3cUp s = true) (ha : s.i3c.addr = none) (a : BitVec 7) :
    exec (.setdasa (BitVec.ofNat 7 (0x30 + s.fuses.strap % 4)) a) s =
      .next { s with i3c := if s.fuses.strap < 4 then { s.i3c with addr := some a.toNat } else s.i3c } := by
  rw [exec_setdasa, execSetdasa, ccc_of_up h]
  simp only [static_address, ha, Option.isNone_none, and_true]

/-- GETSTATUS sends two bytes, both free. -/
theorem execGetstatus_sends {s : State} (h : i3cUp s = true) (ha : s.i3c.addr ≠ none) : ∃ a b, exec .getstatus s =
    .next { s with out := s.out ++ [.ccc [a, b]], freeTick := s.freeTick + 2 } := by
  refine ⟨(Config.free (s.freeTick + 0)).setWidth 8, (Config.free (s.freeTick + 1)).setWidth 8, ?_⟩
  have hup : i3cUp { s with freeTick := s.freeTick + 2 } = true := h
  simp only [exec_getstatus, execGetstatus, freeBytes, cccReturn_of_up hup ha]
  rfl

/-- GETMRL sends the read limit and a byte that is free. -/
theorem execGetmrl_sends {s : State} (h : i3cUp s = true) (ha : s.i3c.addr ≠ none) : ∃ a, exec .getmrl s =
    .next { s with out := s.out ++ [.ccc ((leBytes 2 s.i3c.mrl).reverse ++ [a])], freeTick := s.freeTick + 1 } := by
  refine ⟨(Config.free (s.freeTick + 0)).setWidth 8, ?_⟩
  have hup : i3cUp { s with freeTick := s.freeTick + 1 } = true := h
  simp only [exec_getmrl, execGetmrl, freeBytes, cccReturn_of_up hup ha]
  rfl

/-- An instruction that drives the pads is selected while the system reset is low only; else BYPASS is. -/
theorem scanOrBypass_eq (s : State) (t : TapInstr) (h : ∀ c, t ≠ .debug c) : scanOrBypass s t =
    { s with tap := if s.sysReset then t else .bypass, power := { s.power with debug := false } } := by
  unfold scanOrBypass selectTap
  cases s.sysReset
  · rfl
  · cases t
    case debug c => exact absurd rfl (h c)
    all_goals rfl

/-- Settles O54: each code is its change of the target's registers, and each JTAG instruction selects its register. -/
theorem busCodes : Obligations.BusCodes := by
  unfold Obligations.BusCodes
  refine ⟨fun s h => ?_, fun s => ⟨rfl, rfl, rfl, rfl, rfl, ?_, ?_, ?_⟩⟩
  · have hears := i3cHears_of_i3cUp h
    refine ⟨fun a => ⟨?_, fun ha => execSetdasa_strap h ha a, fun ha => ?_⟩, ?_, fun e => ⟨?_, ?_⟩, fun n => ⟨?_, ?_⟩,
      fun a => ⟨?_, fun ha => ?_⟩, fun ha => ⟨?_, ?_, ?_, ?_, execGetstatus_sends h ha, execGetmrl_sends h ha⟩, ?_, ?_⟩
    · simp only [exec_entdaa, execEntdaa, ccc_of_up h, Option.isNone_iff_eq_none]
    · simp only [exec_setnewda, execSetnewda, ccc_of_up h, Option.isSome_iff_ne_none.mpr ha, if_true]
    · simp only [exec_rstdaa, execRstdaa, hears, if_true]
    · rw [exec_enec, execEnec, ccc_of_up h]
    · rw [exec_disec, execDisec, ccc_of_up h]
    · rw [exec_setmrl, execSetmrl, ccc_of_up h]
    · rw [exec_setmwl, execSetmwl, ccc_of_up h]
    · simp [exec_rstact, execRstact, hears]
    · rw [exec_rstact, execRstact, hears]
      exact congrArg Host.Outcome.next (if_neg fun hc : a = 0x02 ∧ true = true => ha hc.1)
    · exact congrArg _ (cccReturn_of_up h ha _)
    · exact congrArg _ (cccReturn_of_up h ha _)
    · exact congrArg _ (cccReturn_of_up h ha _)
    · exact congrArg _ (cccReturn_of_up h ha _)
    · intro k pl rest hp hen ha
      have hsome : s.i3c.addr.isNone = false := Option.isNone_eq_false_iff.mpr (Option.isSome_iff_ne_none.mpr ha)
      constructor <;> simp [exec_ibiRetry, execIbiRetry, hears, hsome, hp, hen]
    · intro ha ack
      simp [exec_ibiRetry, execIbiRetry, hears, ha]
  · exact congrArg _ (scanOrBypass_eq s _ (by simp))
  · exact congrArg _ (scanOrBypass_eq s _ (by simp))
  · exact congrArg _ (scanOrBypass_eq s _ (by simp))

end Sys2Proof.Proofs

/-! O31: the contexts of the Blaze unit in DIRECT mode. -/

namespace Sys2Proof.Proofs

open Sys2Proof.Machine

/-- Of the machine the check value of context `c` alone is another. -/
def OnlyRunning (s : State) (c : Nat) (u : State) (run : Nat) : Prop :=
  u.bz c = { s.bz c with running := BitVec.ofNat 64 run } ∧ (∀ k, k ≠ c → u.bz k = s.bz k)
  ∧ u.mem.dram = s.mem.dram ∧ u.engCtxs = s.engCtxs ∧ u.engines = s.engines

theorem setBz_bz (s : State) (c k : Nat) (x : BzCtx) : (setBz s c x).bz k = if k = c then x else s.bz k :=
  tget_tset _ _ _ _ _

theorem onlyRunning_setBz (s : State) (c run : Nat) :
    OnlyRunning s c (setBz s c { s.bz c with running := BitVec.ofNat 64 run }) run :=
  ⟨by rw [setBz_bz, if_pos rfl], fun k hk => by rw [setBz_bz, if_neg hk], rfl, rfl, rfl⟩

/-- The bytes of a feed are folded into what the check value holds of the polynomial's width. -/
theorem onlyRunning_foldBz {s u : State} {c run : Nat} (h : OnlyRunning s c u run) (bs : List Byte) :
    OnlyRunning s c (foldBz u c bs)
      (crcFold (s.bz c).poly (run % 2 ^ 64 % 2 ^ (8 * crcBytes (s.bz c).poly)) bs) := by
  obtain ⟨hc, hk, hdram, hctxs, hengs⟩ := h
  unfold foldBz
  have hbz (k : Nat) (x : State) : (bumpBy x (uBlaze (c / 4)) 0x100 bs.length).bz k = x.bz k := by
    simp only [State.bz, bumpBy_bzCtxs]
  refine ⟨?_, fun k hne => ?_, ?_, ?_, ?_⟩
  · rw [hbz, setBz_bz, if_pos rfl, hc, BitVec.toNat_ofNat]
    rfl
  · rw [hbz, setBz_bz, if_neg hne, hk k hne]
  · rw [bumpBy_mem]; exact hdram
  · rw [bumpBy_engCtxs]; exact hctxs
  · rw [bumpBy_engines]; exact hengs

/-- Nothing but a context's own check value, at its width, enters the fold of a feed. -/
theorem onlyRunning_feed (s : State) (c : Nat) (bs : List Byte) : OnlyRunning s c (foldBz s c bs)
    (crcFold (s.bz c).poly ((s.bz c).running.toNat % 2 ^ (8 * crcBytes (s.bz c).poly)) bs) := by
  have hself : OnlyRunning s c s (s.bz c).running.toNat := by
    refine ⟨?_, fun _ _ => rfl, rfl, rfl, rfl⟩
    rw [BitVec.ofNat_toNat, BitVec.setWidth_eq]
  have h := onlyRunning_foldBz hself bs
  rwa [Nat.mod_eq_of_lt (s.bz c).running.isLt] at h

theorem poly_eq (b : BzCtx) : b.poly = b.ctl.toNat % 2 := by
  simp [BzCtx.poly, bitsReg, bitsOf]

theorem crcWidth_eq (p : Nat) : 2 ^ (8 * crcBytes p) = if p = 0 then 2 ^ 32 else 2 ^ 64 := by
  unfold crcBytes
  split <;> rfl

/-- START's initial value fits in the width of its polynomial. -/
theorem crcInit_mod (p : Nat) : crcInit p % 2 ^ 64 % 2 ^ (8 * crcBytes p) = crcInit p := by
  unfold crcInit crcBytes
  split <;> rfl

/-- An access by the context's grantee reaches the context. -/
theorem bzPage_of_grantee {s : State} {a : Access} {c t : Nat} (hup : accUp s a = true) (hg : tget? s.blazeGrants c = some t)
    (ht : accTenant s a = some t) (o : Nat) (k : Nat → State) :
    bzPage s a c o k = if (s.bz c).attached.isSome then accLog s a t 0xB (bzOff c o) else k t := by
  simp [bzPage, hup, hg, ht]

theorem bzOff_eq (c o : Nat) : bzOff c o = 0x6100000 + 0x1000 * c + o := by
  rw [bzOff, Nat.mul_comm]

theorem getLsbD_zero_eq (x : DWord) : x.getLsbD 0 = decide (x.toNat % 2 = 1) := by
  simp [BitVec.getLsbD, Nat.testBit_zero]

/-- BYTES of a feed of fewer than 8 bytes. -/
theorem feedCount_eq (x : DWord) : bitsReg x 59 56 = x.toNat / 2 ^ 56 % 16 := by
  rw [bitsReg, bitsOf, Nat.shiftRight_eq_div_pow]
  rfl

/-- The pre-image's fields are the two halves of SEQ, the lower where it is asked for. -/
theorem preImage_fields (b : BzCtx) : preImage b.address.toNat b.sequence b.domain =
    preImage b.address.toNat (if b.ctl.getLsbD 2 then b.seq.toNat % 2 ^ 32 else 0) (b.seq.toNat / 2 ^ 32) := by
  have hseq := b.seq.isLt
  have hdomain : b.domain = b.seq.toNat / 2 ^ 32 := by
    rw [BzCtx.domain, bitsReg, bitsOf, Nat.shiftRight_eq_div_pow]
    omega
  rw [hdomain]
  simp [BzCtx.sequence, BzCtx.seqEn, bitsReg, bitsOf]

/-- What START leaves: the initial value, with the pre-image folded in where that is asked for. -/
theorem onlyRunning_start (s : State) (c : Nat) :
    let b := s.bz c
    let s1 := setBz s c { b with running := BitVec.ofNat 64 (crcInit b.poly) }
    OnlyRunning s c (if b.preEn then foldBz s1 c (preImage b.address.toNat b.sequence b.domain) else s1)
      (if b.preEn then crcFold b.poly (crcInit b.poly) (preImage b.address.toNat b.sequence b.domain) else crcInit b.poly) := by
  intro b s1
  have hinit : OnlyRunning s c s1 (crcInit b.poly) := onlyRunning_setBz s c _
  split
  · have hfold := onlyRunning_foldBz hinit (preImage b.address.toNat b.sequence b.domain)
    rwa [crcInit_mod] at hfold
  · exact hinit

/-- Settles O31: an attached context takes no write, and each write of another folds its own bytes. -/
theorem checkValues : Obligations.CheckValues := by
  unfold Obligations.CheckValues
  intro a c t s hup hg ht
  have hpage := bzPage_of_grantee hup hg ht
  refine ⟨fun hatt => ⟨?_, ?_, ?_⟩, fun hatt => ⟨fun hone => ?_, ?_, fun hlo hhi => ?_, fun hn => ?_⟩⟩
  · rw [exec_start, execStart, hpage, if_pos hatt, bzOff_eq, show 0x6100000 + 0x1000 * c + 0x28 = 0x6100028 + 0x1000 * c by omega]
  · rw [exec_bzFeed, execBzFeed, hpage, if_pos hatt, bzOff_eq, show 0x6100000 + 0x1000 * c + 0x30 = 0x6100030 + 0x1000 * c by omega]
  · rw [exec_bzFeedPart, execBzFeedPart, hpage, if_pos hatt, bzOff_eq,
      show 0x6100000 + 0x1000 * c + 0x38 = 0x6100038 + 0x1000 * c by omega]
  all_goals have hfree : ¬(s.bz c).attached.isSome = true := by simp [hatt]
  · have hbit : (!(accOnes a).getLsbD 0) = false := by simp [getLsbD_zero_eq, hone]
    have hstart := onlyRunning_start s c
    refine ⟨_, by rw [exec_start, execStart, hpage, if_neg hfree, hbit, if_neg Bool.false_ne_true], ?_⟩
    rw [← poly_eq, ← preImage_fields]
    exact hstart
  · have hfeed := onlyRunning_feed s c (leBytes 8 (accOnes a).toNat)
    refine ⟨_, by rw [exec_bzFeed, execBzFeed, hpage, if_neg hfree], ?_⟩
    rwa [crcWidth_eq, poly_eq] at hfeed
  · have hfeed := onlyRunning_feed s c (leBytes ((accOnes a).toNat / 2 ^ 56 % 16) (accOnes a).toNat)
    refine ⟨foldBz s c (leBytes ((accOnes a).toNat / 2 ^ 56 % 16) (accOnes a).toNat), ?_, ?_⟩
    · rw [exec_bzFeedPart, execBzFeedPart, hpage, if_neg hfree]
      simp only [feedCount_eq]
      rw [if_neg (by omega)]
    · rwa [crcWidth_eq, poly_eq] at hfeed
  · rw [exec_bzFeedPart, execBzFeedPart, hpage, if_neg hfree]
    simp only [feedCount_eq]
    rw [if_pos hn, bzOff_eq, show 0x6100000 + 0x1000 * c + 0x38 = 0x6100038 + 0x1000 * c by omega]

end Sys2Proof.Proofs

/-! What writes and reads of physical memory do to DRAM: a chunked write is one write of all its bytes, and a chunked read gives
the bytes that DRAM holds. -/

namespace Sys2Proof.Proofs

open Sys2Proof.Machine

theorem mem_write_append (m : Mem) (a : Nat) (xs ys : List Byte) :
    (m.write a xs).write (a + xs.length) ys = m.write a (xs ++ ys) := by
  induction xs generalizing m a with
  | nil => rfl
  | cons x xs ih =>
    simp only [List.cons_append, Mem.write, List.length_cons]
    rw [← ih, show a + (xs.length + 1) = a + 1 + xs.length by omega]

theorem mem_read_append (m : Mem) (a n k : Nat) : m.read a n ++ m.read (a + n) k = m.read a (n + k) := by
  simp only [Mem.read, List.range_add, List.map_append, List.map_map]
  refine congrArg _ (List.map_congr_left fun i _ => ?_)
  simp only [Function.comp_apply, Nat.add_assoc]

theorem mem_length_read (m : Mem) (a n : Nat) : (m.read a n).length = n := by simp [Mem.read]

/-- Bytes read back from where they were written. -/
theorem mem_read_write (m : Mem) (a : Nat) (bs : List Byte) (h : m.wf = true) : (m.write a bs).read a bs.length = bs := by
  refine List.ext_getElem (mem_length_read _ _ _) fun i h1 h2 => ?_
  simp only [Mem.read, List.getElem_map, List.getElem_range]
  rw [Mem.get_write_inside m a i bs h h2, List.getD_eq_getElem _ _ h2]

theorem paKind_dram {pa : Nat} (h : pa < 0x1000000000) : paKind pa = .dram := by simp [paKind, h]

theorem invalidateLine_mem (s : State) (w : Option Nat) (ln : Nat) : (invalidateLine s w ln).mem = s.mem := rfl

/-! ### Writes -/

theorem physWrite1_dram (s : State) (w : Option Nat) (cached : Bool) {pa : Nat} (bs : List Byte) (h : pa < 0x1000000000) :
    (physWrite1 s w cached pa bs).mem.dram = s.mem.dram.write pa bs := by
  simp only [physWrite1, paKind_dram h, invalidateLine_mem, State.setMem_mem]

theorem sliceWrite_dram (s : State) (w : Option Nat) (cached stream : Bool) {pa : Nat} (bs : List Byte)
    (h : pa < 0x1000000000) : (sliceWrite s w cached stream pa bs).mem.dram = s.mem.dram.write pa bs := by
  unfold sliceWrite
  rw [physWrite1_dram _ _ _ _ h]
  split
  · rw [(readsOnly_touchLine _ _ _ _).dram]
  · rfl

theorem devWrite1_dram (s : State) {pa : Nat} (bs : List Byte) (h : pa < 0x1000000000) :
    (devWrite1 s pa bs).mem.dram = s.mem.dram.write pa bs := by
  have hslice := sliceWrite_dram s none false false bs h
  unfold devWrite1
  extract_lets s1
  split
  · simp only [invalidateLine_mem, State.setMem_mem]
    exact hslice
  · exact hslice

/-- The bytes of a chunk are followed by those of the other chunks. -/
theorem write_chunks (m : Mem) (pa k : Nat) (bs : List Byte) (hk : k ≤ bs.length) :
    (m.write pa (bs.take k)).write (pa + k) (bs.drop k) = m.write pa bs := by
  have h := mem_write_append m pa (bs.take k) (bs.drop k)
  rwa [List.length_take_of_le hk, List.take_append_drop] at h

/-- The chunks of `n` bytes at `a`, none across a multiple of `step`, are at most `fuel`. -/
def Chunks (step fuel a n : Nat) : Prop := n = 0 ∨ a % step + n ≤ step * fuel

theorem chunks_enough {step : Nat} (hstep : 0 < step) (a n : Nat) : Chunks step (n / step + 2) a n := by
  have hlt : a % step < step := Nat.mod_lt _ hstep
  have hdiv := Nat.div_add_mod n step
  have hmod : n % step < step := Nat.mod_lt _ hstep
  exact .inr (by rw [Nat.mul_add]; omega)

theorem chunks_zero {step a n : Nat} (h : Chunks step 0 a n) : n = 0 := by
  unfold Chunks at h
  omega

theorem chunks_succ {step a n fuel : Nat} (hstep : 0 < step) (h : Chunks step (fuel + 1) a n) :
    Chunks step fuel (a + chunkLen step a n) (n - chunkLen step a n) := by
  have hlt : a % step < step := Nat.mod_lt _ hstep
  unfold Chunks at *
  rw [Nat.mul_succ] at h
  unfold chunkLen
  rcases Nat.le_total n (step - a % step) with hle | hle
  · rw [Nat.min_eq_left hle]
    exact .inl (Nat.sub_self n)
  · have hend : (a + (step - a % step)) % step = 0 := by
      have hdiv := Nat.div_add_mod a step
      have hsum : a + (step - a % step) = step * (a / step + 1) := by rw [Nat.mul_succ]; omega
      rw [hsum, Nat.mul_mod_right]
    rw [Nat.min_eq_right hle, hend]
    omega

theorem chunkLen_le (step a n : Nat) : chunkLen step a n ≤ n := Nat.min_le_left _ _

theorem chunkLen_pos {step a n : Nat} (hstep : 0 < step) (hn : n ≠ 0) : 0 < chunkLen step a n := by
  have hlt : a % step < step := Nat.mod_lt _ hstep
  unfold chunkLen
  omega

theorem physWriteN_dram (fuel : Nat) (s : State) (cached stream : Bool) (pa : Nat) (bs : List Byte)
    (hfuel : Chunks 128 fuel pa bs.length) (h : pa + bs.length ≤ 0x1000000000) :
    (physWriteN fuel s cached stream pa bs).mem.dram = s.mem.dram.write pa bs := by
  induction fuel generalizing s pa bs with
  | zero => rw [List.eq_nil_of_length_eq_zero (chunks_zero hfuel)]; rfl
  | succ fuel ih =>
    unfold physWriteN
    split
    next hnil => rw [hnil]; rfl
    next hne =>
      have hlen : bs.length ≠ 0 := fun h0 => hne (List.eq_nil_of_length_eq_zero h0)
      have hle := chunkLen_le 128 pa bs.length
      have hpos : 0 < chunkLen 128 pa bs.length := chunkLen_pos (by decide) hlen
      have hrest := chunks_succ (by decide) hfuel
      extract_lets k
      rw [ih _ _ _ (by rwa [List.length_drop]) (by rw [List.length_drop]; omega), sliceWrite_dram _ _ _ _ _ (by omega),
        write_chunks _ _ _ _ hle]

theorem physWriteAs_dram (s : State) (cached stream : Bool) (pa : Nat) (bs : List Byte) (h : pa + bs.length ≤ 0x1000000000) :
    (physWriteAs s cached stream pa bs).mem.dram = s.mem.dram.write pa bs :=
  physWriteN_dram _ _ _ _ _ _ (chunks_enough (by decide) _ _) h

theorem physWrite_dram (s : State) (cached : Bool) (pa : Nat) (bs : List Byte) (h : pa + bs.length ≤ 0x1000000000) :
    (physWrite s cached pa bs).mem.dram = s.mem.dram.write pa bs := physWriteAs_dram _ _ _ _ _ h

theorem devWriteN_dram (fuel : Nat) (s : State) (pa : Nat) (bs : List Byte)
    (hfuel : Chunks 128 fuel pa bs.length) (h : pa + bs.length ≤ 0x1000000000) :
    (devWriteN fuel s pa bs).mem.dram = s.mem.dram.write pa bs := by
  induction fuel generalizing s pa bs with
  | zero => rw [List.eq_nil_of_length_eq_zero (chunks_zero hfuel)]; rfl
  | succ fuel ih =>
    unfold devWriteN
    split
    next hnil => rw [hnil]; rfl
    next hne =>
      have hlen : bs.length ≠ 0 := fun h0 => hne (List.eq_nil_of_length_eq_zero h0)
      have hle := chunkLen_le 128 pa bs.length
      have hpos : 0 < chunkLen 128 pa bs.length := chunkLen_pos (by decide) hlen
      have hrest := chunks_succ (by decide) hfuel
      extract_lets k
      rw [ih _ _ _ (by rwa [List.length_drop]) (by rw [List.length_drop]; omega), devWrite1_dram _ _ (by omega),
        write_chunks _ _ _ _ hle]

theorem devWrite_dram (s : State) (pa : Nat) (bs : List Byte) (h : pa + bs.length ≤ 0x1000000000) :
    (devWrite s pa bs).mem.dram = s.mem.dram.write pa bs := devWriteN_dram _ _ _ _ (chunks_enough (by decide) _ _) h

/-- A write through a name that is reachable puts its bytes at the object's place. -/
theorem objWrite_dram {s : State} {o gen : Nat} (hr : objReachable s o gen = true) (off : Nat) (bs : List Byte)
    (h : (s.obj o).base + off + bs.length ≤ 0x1000000000) :
    (objWrite s o gen off bs).mem.dram = s.mem.dram.write ((s.obj o).base + off) bs := by
  rw [objWrite, if_pos hr, devWrite_dram _ _ _ h]

/-! ### Reads -/

theorem physReadN_bytes (fuel : Nat) (s : State) (cached : Bool) (pa n : Nat)
    (hfuel : Chunks 128 fuel pa n) (h : pa + n ≤ 0x1000000000) :
    (physReadN fuel s cached pa n).1 = s.mem.dram.read pa n := by
  induction fuel generalizing s pa n with
  | zero => rw [chunks_zero hfuel]; rfl
  | succ fuel ih =>
    unfold physReadN
    split
    next hz => rw [hz]; rfl
    next hne =>
      have hle := chunkLen_le 128 pa n
      have hpos : 0 < chunkLen 128 pa n := chunkLen_pos (by decide) hne
      have hrest := chunks_succ (by decide) hfuel
      extract_lets k s1
      have hdram : s1.mem.dram = s.mem.dram := (readsOnly_sliceRead _ _ _).dram
      have hbytes := ih s1 (pa + k) (n - k) hrest (by omega)
      simp only
      rw [hbytes, physRead1, paKind_dram (by omega)]
      simp only [hdram, mem_read_append]
      rw [Nat.add_sub_cancel' hle]

theorem physRead_bytes (s : State) (cached : Bool) (pa n : Nat) (h : pa + n ≤ 0x1000000000) :
    (physRead s cached pa n).1 = s.mem.dram.read pa n := physReadN_bytes _ _ _ _ _ (chunks_enough (by decide) _ _) h

theorem devReadN_bytes (fuel : Nat) (s : State) (pa n : Nat) (hfuel : Chunks 128 fuel pa n) (h : pa + n ≤ 0x1000000000) :
    (devReadN fuel s pa n).1 = s.mem.dram.read pa n := by
  induction fuel generalizing s pa n with
  | zero => rw [chunks_zero hfuel]; rfl
  | succ fuel ih =>
    unfold devReadN
    split
    next hz => rw [hz]; rfl
    next hne =>
      have hle := chunkLen_le 128 pa n
      have hpos : 0 < chunkLen 128 pa n := chunkLen_pos (by decide) hne
      have hrest := chunks_succ (by decide) hfuel
      extract_lets k c s1
      have hdram : s1.mem.dram = s.mem.dram := (readsOnly_sliceRead _ _ _).dram
      have hbytes := ih s1 (pa + k) (n - k) hrest (by omega)
      simp only
      rw [hbytes, physRead1, paKind_dram (by omega)]
      simp only [hdram, mem_read_append]
      rw [Nat.add_sub_cancel' hle]

theorem devRead_bytes (s : State) (pa n : Nat) (h : pa + n ≤ 0x1000000000) :
    (devRead s pa n).1 = s.mem.dram.read pa n := devReadN_bytes _ _ _ _ (chunks_enough (by decide) _ _) h

end Sys2Proof.Proofs

/-! O21: a doorbell of a queue. -/

namespace Sys2Proof.Proofs

open Sys2Proof.Machine

theorem doorbellOff_eq (t i : Nat) : doorbellOff t i = 0x2000000 + 0x1000 * t + 8 * i := rfl

/-- A tenant's write to its own page reaches the page. -/
theorem ownPage_of_own {s : State} {a : Access} {t : Nat} (hup : accUp s a = true) (ht : accTenant s a = some t)
    (off : Nat) (k : State) : ownPage s a t off k = k := by
  simp [ownPage, hup, ht]

theorem accCovers_word {a : Access} : accCovers a 0 3 = true ↔ ∀ i, i < 4 → a.be.getLsbD i = true := by
  simp [accCovers]

/-- What the report of a queue writes: its read index, the index of its oldest command not done, its last doorbell, its state. -/
def reportBytes (s : State) (q : Nat) : List Byte :=
  leBytes 4 (s.queue q).read ++ leBytes 4 (doneIndex s q) ++ leBytes 4 (s.queue q).last ++ leBytes 2 (s.queue q).st.code ++ [0, 0]

theorem length_reportBytes (s : State) (q : Nat) : (reportBytes s q).length = 16 := by
  simp only [reportBytes, List.length_append, length_leBytes]
  rfl

theorem report_eq (s : State) (q : Nat) : report s q =
    objWrite s (s.queue q).repObj (s.queue q).repGen (s.queue q).repOff (reportBytes s q) := rfl

/-- After a report the object named holds it. -/
theorem report_dram {s : State} {q : Nat} (hok : s.mem.dram.wf = true)
    (hr : objReachable s (s.queue q).repObj (s.queue q).repGen = true)
    (hin : (s.obj (s.queue q).repObj).base + (s.queue q).repOff + 16 ≤ 0x1000000000) :
    (report s q).mem.dram.read ((s.obj (s.queue q).repObj).base + (s.queue q).repOff) 16 = reportBytes s q := by
  have hlen := length_reportBytes s q
  rw [report_eq, objWrite_dram hr _ _ (by rwa [hlen])]
  have hread := mem_read_write s.mem.dram ((s.obj (s.queue q).repObj).base + (s.queue q).repOff) (reportBytes s q) hok
  rwa [hlen] at hread

/-- The state of a queue whose doorbell was accepted, before its report. -/
def rung (s : State) (q w : Nat) : State := s.setQueue q { s.queue q with last := w }

theorem rung_queue (s : State) (q w j : Nat) : (rung s q w).queue j = if j = q then { s.queue q with last := w } else s.queue j :=
  State.setQueue_queue _ _ _ _

theorem ringDoorbell_stale {s : State} {a : Access} {t i q w : Nat}
    (h : w = (s.queue q).last ∨ 2 ^ 31 ≤ (w + 2 ^ 32 - (s.queue q).last) % 2 ^ 32) :
    ringDoorbell s a t i q w = accLog s a t 0x5 (doorbellOff t i) := by
  unfold ringDoorbell
  extract_lets x
  rw [if_pos h.symm]

theorem ringDoorbell_beyond {s : State} {a : Access} {t i q w : Nat} (hne : w ≠ (s.queue q).last)
    (hahead : (w + 2 ^ 32 - (s.queue q).last) % 2 ^ 32 < 2 ^ 31)
    (hheld : (s.queue q).units < (w + 2 ^ 32 - (s.queue q).read) % 2 ^ 32) :
    ringDoorbell s a t i q w =
      raise s ⟨(s.queue q).ctx, illegalFault dBadDoorbell, uSched, 0xFF, true, q, (s.queue q).read, 0⟩ := by
  unfold ringDoorbell
  extract_lets x
  rw [if_neg (not_or.mpr ⟨Nat.not_le.mpr hahead, hne⟩), if_pos hheld]

theorem ringDoorbell_accepted {s : State} {a : Access} {t i q w : Nat} (hne : w ≠ (s.queue q).last)
    (hahead : (w + 2 ^ 32 - (s.queue q).last) % 2 ^ 32 < 2 ^ 31)
    (hheld : (w + 2 ^ 32 - (s.queue q).read) % 2 ^ 32 ≤ (s.queue q).units) :
    ringDoorbell s a t i q w = report (rung s q w) q := by
  unfold ringDoorbell
  extract_lets x
  have hfresh : ¬(2 ^ 31 ≤ (w + 2 ^ 32 - x.last) % 2 ^ 32 ∨ w = x.last) := not_or.mpr ⟨Nat.not_le.mpr hahead, hne⟩
  have hroom : ¬x.units < (w + 2 ^ 32 - x.read) % 2 ^ 32 := Nat.not_lt.mpr hheld
  rw [if_neg hfresh, if_neg hroom]
  rfl

/-- A whole write of a tenant to the doorbell of a queue that no service feeds rings it. -/
theorem queueDoorbell_own {s : State} {a : Access} {t i q : Nat} (hw : OwnWrite s a t) (hq : doorQueue s t i = some q)
    (hs : (s.queue q).service = false) :
    exec (.queueDoorbell a t i) s = .next (ringDoorbell s a t i q (a.data.toNat % 2 ^ 32)) := by
  rw [exec_queueDoorbell, execQueueDoorbell, ownPage_of_own hw.up hw.who, hq]
  simp only [accCovers_word.mpr hw.covers, hs, Bool.not_true, Bool.false_eq_true, if_false]

/-- Settles O21: the rule of R307, refusal by refusal, and what the accepted doorbell reports. -/
theorem queueDoorbells : Obligations.QueueDoorbells := by
  unfold Obligations.QueueDoorbells
  intro a t i s
  extract_lets off w
  refine ⟨fun hup ht hq => ?_, fun q hup ht hq ⟨k, hk, hbe⟩ => ?_, fun q hw hq hs => ?_⟩
  · rw [exec_queueDoorbell, execQueueDoorbell, ownPage_of_own hup ht, hq]
    rfl
  · have hpart : accCovers a 0 3 = false := by
      refine Bool.eq_false_iff.mpr fun hc => ?_
      rw [accCovers_word.mp hc k hk] at hbe
      exact Bool.noConfusion hbe
    rw [exec_queueDoorbell, execQueueDoorbell, ownPage_of_own hup ht, hq]
    simp only [hpart]
    rfl
  · have hring : exec (.queueDoorbell a t i) s = .next (ringDoorbell s a t i q w) := queueDoorbell_own hw hq hs
    rw [hring]
    extract_lets x ahead held
    refine ⟨fun h => ?_, fun hne hahead hbeyond => ?_, fun hne hahead hheld => ⟨_, hring, ?_⟩⟩
    · rw [ringDoorbell_stale h]
      rfl
    · rw [ringDoorbell_beyond hne hahead hbeyond]
      rfl
    · rw [ringDoorbell_accepted hne hahead hheld]
      have hrep := writesOnly_report (rung s q w) q
      refine ⟨?_, fun j hj => ?_, ?_, fun g => hrep.group g, fun hok hr hin => ?_⟩
      · rw [hrep.queue, rung_queue, if_pos rfl]
      · rw [hrep.queue, rung_queue, if_neg hj]
      · have hserved := hrep.served
        rw [hrep.queues]
        exact hserved
      · have hq : (rung s q w).queue q = { x with last := w } := by rw [rung_queue, if_pos rfl]
        have hdone : doneIndex (rung s q w) q = doneIndex s q := by
          simp only [doneIndex, hq]
          rfl
        have hread := report_dram (s := rung s q w) (q := q) hok.1 (by rw [hq]; exact hr) (by rw [hq]; exact hin)
        rw [reportBytes, hq, hdone] at hread
        exact hread

end Sys2Proof.Proofs

/-! What the Flume does with a request that passes its header checks: the request is taken off the ring, and what its
opcode answers is recorded. -/

namespace Sys2Proof.Proofs

open Sys2Proof.Machine

/-- What becomes of the answer of a request's opcode, `u` being the state with the request taken. -/
def answered (u : State) (r : Req) (opcode : Nat) : State × Ans → State
  | (v, .reply status detail payload) => replyTo v r status detail payload
  | (v, .accepted arg) =>
    if 16 ≤ (u.channel r.ch).accepted.length then replyTo u r rBusy 4 [] else acceptedBy v r opcode arg

@[simp] theorem answered_reply (u v : State) (r : Req) (op st d : Nat) (pl : List Byte) :
    answered u r op (v, .reply st d pl) = replyTo v r st d pl := rfl

@[simp] theorem answered_ok (u v : State) (r : Req) (op : Nat) : answered u r op (v, .ok) = replyTo v r 0 0 [] := rfl

@[simp] theorem answered_denied (u v : State) (r : Req) (op d : Nat) :
    answered u r op (v, .denied d) = replyTo v r 0x21 d [] := rfl

@[simp] theorem answered_busy (u v : State) (r : Req) (op d : Nat) : answered u r op (v, .busy d) = replyTo v r 0x30 d [] := rfl

@[simp] theorem answered_badParam (u v : State) (r : Req) (op d : Nat) :
    answered u r op (v, .badParam d) = replyTo v r 0x12 d [] := rfl

@[simp] theorem answered_noSlot (u v : State) (r : Req) (op d : Nat) :
    answered u r op (v, .noSlot d) = replyTo v r 0x20 d [] := rfl

theorem takeReq_accepted (s : State) (r : Req) (b : Bool) :
    ((takeReq s r b).channel r.ch).accepted = (s.channel r.ch).accepted := by
  simp only [takeReq, State.setChannel_channel, if_pos]

/-- An answer that accepts the request waits in the channel where it has room. -/
theorem answered_accepted {s : State} {r : Req} (hroom : (s.channel r.ch).accepted.length < 16) (v : State) (op arg : Nat) :
    answered (takeReq s r true) r op (v, .accepted arg) = acceptedBy v r op arg := by
  simp only [answered, takeReq_accepted, if_neg (Nat.not_le.mpr hroom)]

/-- A request that passes the header checks is taken and answered. -/
theorem serve_requested {s : State} {r : Req} {words : Nat} {listed : List (Nat × Nat)} (h : Requested s r words listed)
    (op : Nat) (k : State → State × Ans) :
    serve r op (some words) k s = answered (takeReq s r true) r op (k (takeReq s r true)) := by
  unfold serve
  rw [h.ready, h.fits, h.header]
  rfl

/-- The word count that the header names is the one that the opcode asks for. -/
theorem requested_words {s : State} {r : Req} {words : Nat} {listed : List (Nat × Nat)} (h : Requested s r words listed) :
    r.words.toNat = words := by
  have hh := h.header
  unfold headerCheck at hh
  by_contra hne
  simp only [if_pos hne] at hh
  repeat' split at hh
  all_goals exact absurd hh (Option.some_ne_none _)

theorem leastOf_eq_none {l : List Nat} : leastOf l = none ↔ l = [] := by
  cases l with
  | nil => simp [leastOf]
  | cons x xs =>
    simp only [leastOf, reduceCtorEq, iff_false]
    cases leastOf xs <;> simp

/-- A payload whose fields are good, and whose other bytes are 0, has no offset that fails. -/
theorem paramFail_none {s : State} {r : Req} {words : Nat} {listed : List (Nat × Nat)} (h : Requested s r words listed)
    {checks : List (Nat × Bool)} (hc : ∀ c ∈ checks, c.2 = true) : paramFail r listed checks = none := by
  unfold paramFail
  refine leastOf_eq_none.mpr (List.append_eq_nil_iff.mpr ⟨List.filter_eq_nil_iff.mpr fun i hi => ?_, ?_⟩)
  · rw [List.mem_range, requested_words h] at hi
    by_cases hin : ∃ f ∈ listed, f.1 ≤ i ∧ i < f.1 + f.2
    · simpa using fun _ => hin
    · have hz := h.unlisted i hi fun f hf => by
        by_contra hno
        exact hin ⟨f, hf, by omega⟩
      simp [hz]
  · rw [List.map_eq_nil_iff, List.filter_eq_nil_iff]
    intro c hcm
    simp [hc c hcm]

theorem roleThen_none {ok : Bool} (hok : ok = true) (d : Nat) {bad : Option Nat} (hb : bad = none) (s : State)
    (k : State × Ans) : roleThen ok d bad s k = k := by
  rw [hok, hb]; rfl

theorem roleThen_denied {ok : Bool} (hok : ok = false) (d : Nat) (bad : Option Nat) (s : State) (k : State × Ans) :
    roleThen ok d bad s k = (s, .denied d) := by
  rw [hok]; rfl

theorem roleThen_bad {ok : Bool} (hok : ok = true) (d : Nat) {o : Nat} {bad : Option Nat} (hb : bad = some o) (s : State)
    (k : State × Ans) : roleThen ok d bad s k = (s, .badParam o) := by
  rw [hok, hb]; rfl

theorem not_isI {r : Req} (h : r.ch < 16) : isI r = false := by
  have : r.ch ≠ i3cChannel := by unfold i3cChannel; omega
  simp [isI, this]

/-! ### What taking a request leaves -/

section
variable (s : State) (r : Req) (b : Bool)

@[simp] theorem takeReq_fence (f : Nat) : (takeReq s r b).fence f = s.fence f := rfl
@[simp] theorem takeReq_ctx (c : Nat) : (takeReq s r b).ctx c = s.ctx c := rfl
@[simp] theorem takeReq_queue (q : Nat) : (takeReq s r b).queue q = s.queue q := rfl
@[simp] theorem takeReq_obj (o : Nat) : (takeReq s r b).obj o = s.obj o := rfl
@[simp] theorem takeReq_tenant (t : Nat) : (takeReq s r b).tenant t = s.tenant t := rfl
@[simp] theorem takeReq_port (p : Nat) : (takeReq s r b).port p = s.port p := rfl

end

/-! ### Free numbers -/

theorem firstBelow_some {n k : Nat} {p : Nat → Bool} (h : firstBelow n p = some k) : k < n ∧ p k = true :=
  ⟨List.mem_range.mp (List.mem_of_find?_eq_some h), List.find?_some h⟩

theorem firstBelow_none {n : Nat} {p : Nat → Bool} : firstBelow n p = none ↔ ∀ k, k < n → p k = false := by
  simp [firstBelow, List.find?_eq_none]

/-- A number picked is one of the free ones; which of them is free. -/
theorem pickSlot_some {s : State} {n : Nat} {free : Nat → Bool} (h : ∃ k, k < n ∧ free k = true) :
    ∃ k, k < n ∧ free k = true ∧ pickSlot s n free = (some k, { s with freeTick := s.freeTick + 1 }) := by
  unfold pickSlot
  extract_lets k s1
  obtain ⟨j, hj, hfree⟩ := h
  by_cases hk : free k = true
  · exact ⟨k, Nat.mod_lt _ (Nat.zero_lt_of_lt hj), hk, if_pos hk⟩
  · cases hf : firstBelow n free with
    | none => rw [firstBelow_none.mp hf j hj] at hfree; exact absurd hfree Bool.false_ne_true
    | some i =>
      obtain ⟨hi, hfi⟩ := firstBelow_some hf
      exact ⟨i, hi, hfi, if_neg hk⟩

theorem pickSlot_none {s : State} {n : Nat} {free : Nat → Bool} (hn : 0 < n) (h : ∀ k, k < n → free k = false) :
    pickSlot s n free = (none, { s with freeTick := s.freeTick + 1 }) := by
  unfold pickSlot
  extract_lets k s1
  have hk : ¬free k = true := by rw [h k (Nat.mod_lt _ hn)]; exact Bool.false_ne_true
  rw [if_neg hk, firstBelow_none.mpr h]

theorem leastOf_le {l : List Nat} {m : Nat} (h : leastOf l = some m) : ∀ x ∈ l, m ≤ x := by
  induction l generalizing m with
  | nil => simp
  | cons y ys ih =>
    unfold leastOf at h
    cases hr : leastOf ys with
    | none => simp_all [leastOf_eq_none]
    | some z =>
      rw [hr] at h
      have hm : min y z = m := Option.some.inj h
      intro x hx
      rcases List.mem_cons.mp hx with rfl | hx
      · omega
      · have := ih hr x hx
        omega

/-- Of the free numbers the one that was freed first. -/
theorem oldestFree_spec {n k : Nat} {free : Nat → Bool} {freed : Nat → Nat} (h : oldestFree n free freed = some k) :
    k < n ∧ free k = true ∧ ∀ j, j < n → free j = true → freed k ≤ freed j := by
  unfold oldestFree at h
  split at h
  · exact absurd h (Option.some_ne_none _).symm
  next m hm =>
    obtain ⟨hk, hp⟩ := firstBelow_some h
    simp only [Bool.and_eq_true, beq_iff_eq] at hp
    obtain ⟨hfree, hfreed⟩ := hp
    refine ⟨hk, hfree, fun j hj hfj => hfreed ▸ leastOf_le hm _ (List.mem_map.mpr ⟨j, ?_, rfl⟩)⟩
    exact List.mem_filter.mpr ⟨List.mem_range.mpr hj, hfj⟩

theorem mem_of_leastOf {l : List Nat} {m : Nat} (h : leastOf l = some m) : m ∈ l := by
  induction l generalizing m with
  | nil => exact absurd h (Option.some_ne_none _).symm
  | cons y ys ih =>
    unfold leastOf at h
    cases hr : leastOf ys with
    | none => simp_all
    | some z =>
      rw [hr] at h
      have hm : min y z = m := Option.some.inj h
      rcases Nat.le_total y z with hle | hle
      · rw [Nat.min_eq_left hle] at hm
        exact hm ▸ List.mem_cons_self
      · rw [Nat.min_eq_right hle] at hm
        exact hm ▸ List.mem_cons_of_mem _ (ih hr)

theorem oldestFree_eq_none {n : Nat} {free : Nat → Bool} {freed : Nat → Nat} (h : oldestFree n free freed = none) :
    ∀ k, k < n → free k = false := by
  unfold oldestFree at h
  split at h
  next hnone =>
    have hnil := List.filter_eq_nil_iff.mp (List.map_eq_nil_iff.mp (leastOf_eq_none.mp hnone))
    exact fun k hk => Bool.eq_false_iff.mpr (hnil k (List.mem_range.mpr hk))
  next m hm =>
    obtain ⟨j, hj, hfreed⟩ := List.mem_map.mp (mem_of_leastOf hm)
    obtain ⟨hjr, hfree⟩ := List.mem_filter.mp hj
    have hno := firstBelow_none.mp h j (List.mem_range.mp hjr)
    simp [hfree, hfreed] at hno

end Sys2Proof.Proofs

/-! O34: fence and bridge requests of a tenant's channel. -/

namespace Sys2Proof.Proofs

open Sys2Proof.Machine

/-- A fence that a request may name. -/
def FenceIn (s : State) (f : Nat) : Prop := f < 16384 ∧ ((s.fence f).st = .live ∨ (s.fence f).st = .poisoned)

theorem fenceHere_of {s : State} {f : Nat} (h : FenceIn s f) : fenceHere s f = true := by
  obtain ⟨hf, hst⟩ := h
  simp only [fenceHere, nFences, hf, decide_true, Bool.true_and]
  rcases hst with hst | hst <;> rw [hst] <;> rfl

theorem tenantHere_of {s : State} {t : Nat} (h : t < 16 ∧ (s.tenant t).st ≠ .free) : tenantHere s t = true := by
  simp [tenantHere, nTenants, h.1, h.2]

theorem ctxHere_of {s : State} {c : Nat} (hc : c < 256) (hst : (s.ctx c).st ≠ .free) : ctxHere s c = true := by
  simp [ctxHere, nCtxs, hc, hst]

variable {r : Req} {s : State}

theorem takeReq_freeFence (b : Bool) : freeFence (takeReq s r b) = freeFence s := by
  simp only [freeFence, takeReq_fence]

theorem execFenceCreate_served (hch : r.ch < 16) (h : Requested s r 4 [(0, 8), (8, 1), (10, 2)])
    (hflags : reqField r 8 1 < 8)
    (hvalue : reqField r 0 8 ≤ if bitOf (reqField r 8 1) 0 then 0xFFFFFFFF else 2 ^ 64 - 2)
    (hguard : bitOf (reqField r 8 1) 1 = true →
      ctxHere s (reqField r 10 2) = true ∧ (s.ctx (reqField r 10 2)).tenant = r.ch) :
    exec (.fenceCreate r) s = .next (answered (takeReq s r true) r 0x401 (match freeFence s with
      | none => (takeReq s r true, .noSlot 5)
      | some n => ((takeReq s r true).setFence n { Fence.reset with
          st := .live, value := BitVec.ofNat 64 (reqField r 0 8), heritage := bitOf (reqField r 8 1) 0, owner := r.ch
          guard := if bitOf (reqField r 8 1) 1 then some (reqField r 10 2) else none
          named := bitOf (reqField r 8 1) 1, onGone := bitOf (reqField r 8 1) 2, freed := (s.fence n).freed },
          .reply rOk 0 (leBytes 4 n)))) := by
  rw [exec_fenceCreate, execFenceCreate, serve_requested h]
  dsimp only
  rw [roleThen_none (by rw [not_isI hch]; rfl) _ (paramFail_none h ?_)]
  · rw [takeReq_freeFence]
    cases freeFence s <;> rfl
  · simp only [List.forall_mem_cons, List.not_mem_nil, false_imp_iff, implies_true, and_true, decide_eq_true_eq]
    refine ⟨hvalue, hflags, ?_⟩
    cases hg : bitOf (reqField r 8 1) 1
    · rfl
    · obtain ⟨hhere, hmine⟩ := hguard hg
      have hhere' : ctxHere (takeReq s r true) (reqField r 10 2) = true := hhere
      simp [hhere', hmine]

theorem bitOf_eq (n k : Nat) : bitOf n k = n.testBit k := rfl

theorem execFenceFree_served (hch : r.ch < 16) (h : Requested s r 1 [(0, 2)]) (hf : FenceIn s (reqField r 0 2)) :
    exec (.fenceFree r) s = .next (answered (takeReq s r true) r 0x402 (
      if (s.fence (reqField r 0 2)).owner ≠ r.ch then (takeReq s r true, .denied 2)
      else if fenceHeld s (reqField r 0 2) then (takeReq s r true, .busy 1)
      else (releaseFence (takeReq s r true) (reqField r 0 2), .accepted (reqField r 0 2)))) := by
  rw [exec_fenceFree, execFenceFree, serve_requested h]
  dsimp only
  rw [roleThen_none (by rw [not_isI hch]; rfl) _ (paramFail_none h ?_)]
  · rfl
  · simp [show fenceHere (takeReq s r true) (reqField r 0 2) = true from fenceHere_of hf]

theorem execFenceShare_served (hch : r.ch < 16) (h : Requested s r 1 [(0, 2), (2, 1), (3, 1)])
    (hf : FenceIn s (reqField r 0 2)) (ht : reqField r 2 1 < 16 ∧ (s.tenant (reqField r 2 1)).st ≠ .free)
    (hne : reqField r 2 1 ≠ (s.fence (reqField r 0 2)).owner) (hlo : 1 ≤ reqField r 3 1) (hhi : reqField r 3 1 ≤ 2) :
    exec (.fenceShare r) s = .next (
      let x := s.fence (reqField r 0 2)
      answered (takeReq s r true) r 0x403 (if x.owner ≠ r.ch then (takeReq s r true, .denied 2)
      else ((takeReq s r true).setFence (reqField r 0 2) { x with
        grants := tset x.grants (reqField r 2 1) (reqField r 3 1)
        binds := x.binds.map fun b => (b.1, if (s.ctx b.1).tenant = reqField r 2 1 then min b.2 (reqField r 3 1) else b.2) },
        .ok))) := by
  rw [exec_fenceShare, execFenceShare, serve_requested h]
  dsimp only
  rw [roleThen_none (by rw [not_isI hch]; rfl) _ (paramFail_none h ?_)]
  · rfl
  · simp [show fenceHere (takeReq s r true) (reqField r 0 2) = true from fenceHere_of hf,
      show tenantHere (takeReq s r true) (reqField r 2 1) = true from tenantHere_of ht, hne, hlo, hhi]

theorem execFenceRevoke_served (hch : r.ch < 16) (h : Requested s r 1 [(0, 2), (2, 1)])
    (hf : FenceIn s (reqField r 0 2)) (ht : reqField r 2 1 < 16 ∧ (s.tenant (reqField r 2 1)).st ≠ .free) :
    exec (.fenceRevoke r) s = .next (answered (takeReq s r true) r 0x404 (
      if (s.fence (reqField r 0 2)).owner ≠ r.ch then (takeReq s r true, .denied 2)
      else if (tget? (s.fence (reqField r 0 2)).grants (reqField r 2 1)).isNone then (takeReq s r true, .ok)
      else (revokeFence (takeReq s r true) (reqField r 0 2) (reqField r 2 1), .ok))) := by
  rw [exec_fenceRevoke, execFenceRevoke, serve_requested h]
  dsimp only
  rw [roleThen_none (by rw [not_isI hch]; rfl) _ (paramFail_none h ?_)]
  · rfl
  · simp [show fenceHere (takeReq s r true) (reqField r 0 2) = true from fenceHere_of hf,
      show tenantHere (takeReq s r true) (reqField r 2 1) = true from tenantHere_of ht]

theorem execFenceBind_served (hch : r.ch < 16) (h : Requested s r 2 [(0, 2), (2, 2), (4, 1)])
    (hf : FenceIn s (reqField r 0 2)) (hc : ctxHere s (reqField r 2 2) = true)
    (hsame : (s.fence (reqField r 0 2)).heritage = (s.ctx (reqField r 2 2)).heritage) (hlo : 1 ≤ reqField r 4 1)
    (hhi : reqField r 4 1 ≤ 2) :
    exec (.fenceBind r) s = .next (
      let x := s.fence (reqField r 0 2)
      answered (takeReq s r true) r 0x405 (if (s.ctx (reqField r 2 2)).tenant ≠ r.ch then (takeReq s r true, .denied 2)
      else if fenceRight x r.ch < reqField r 4 1 then (takeReq s r true, .denied 3)
      else ((takeReq s r true).setFence (reqField r 0 2) { x with
        binds := tset x.binds (reqField r 2 2) (reqField r 4 1) }, .ok))) := by
  rw [exec_fenceBind, execFenceBind, serve_requested h]
  dsimp only
  rw [roleThen_none (by rw [not_isI hch]; rfl) _ (paramFail_none h ?_)]
  · rfl
  · simp [show fenceHere (takeReq s r true) (reqField r 0 2) = true from fenceHere_of hf,
      show ctxHere (takeReq s r true) (reqField r 2 2) = true from hc, hsame, hlo, hhi]

theorem execFenceUnbind_served (hch : r.ch < 16) (h : Requested s r 1 [(0, 2), (2, 2)])
    (hf : FenceIn s (reqField r 0 2)) (hc : ctxHere s (reqField r 2 2) = true) :
    exec (.fenceUnbind r) s = .next (
      let x := s.fence (reqField r 0 2)
      answered (takeReq s r true) r 0x406 (if (s.ctx (reqField r 2 2)).tenant ≠ r.ch then (takeReq s r true, .denied 2)
      else if (tget? x.binds (reqField r 2 2)).isNone then (takeReq s r true, .badParam 0xFFFF)
      else if ctxWaits s (reqField r 2 2) (reqField r 0 2) then (takeReq s r true, .busy 1)
      else ((takeReq s r true).setFence (reqField r 0 2) { x with
        binds := tdrop x.binds (· == reqField r 2 2) }, .ok))) := by
  rw [exec_fenceUnbind, execFenceUnbind, serve_requested h]
  dsimp only
  rw [roleThen_none (by rw [not_isI hch]; rfl) _ (paramFail_none h ?_)]
  · rfl
  · simp [show fenceHere (takeReq s r true) (reqField r 0 2) = true from fenceHere_of hf,
      show ctxHere (takeReq s r true) (reqField r 2 2) = true from hc]

theorem execFlumeFenceSignal_served (hch : r.ch < 16) (h : Requested s r 4 [(0, 2), (8, 8)])
    (hf : FenceIn s (reqField r 0 2)) :
    exec (.flumeFenceSignal r) s = .next (
      let x := s.fence (reqField r 0 2)
      answered (takeReq s r true) r 0x407 (if fenceRight x r.ch < 2 then (takeReq s r true, .denied 3)
      else (settle [.signal .flume (reqField r 0 2) (BitVec.ofNat 64 (reqField r 8 8))] (takeReq s r true),
        .reply rOk (b2n (x.signal (BitVec.ofNat 64 (reqField r 8 8))).2) []))) := by
  rw [exec_flumeFenceSignal, execFlumeFenceSignal, serve_requested h]
  dsimp only
  rw [roleThen_none (by rw [not_isI hch]; rfl) _ (paramFail_none h ?_)]
  · rfl
  · simp [show fenceHere (takeReq s r true) (reqField r 0 2) = true from fenceHere_of hf]

theorem execFlumeFencePoison_served (hch : r.ch < 16) (h : Requested s r 1 [(0, 2)]) (hf : FenceIn s (reqField r 0 2)) :
    exec (.flumeFencePoison r) s = .next (answered (takeReq s r true) r 0x408 (
      if fenceRight (s.fence (reqField r 0 2)) r.ch < 2 then (takeReq s r true, .denied 3)
      else (settle [.poison (reqField r 0 2)] (takeReq s r true), .ok))) := by
  rw [exec_flumeFencePoison, execFlumeFencePoison, serve_requested h]
  dsimp only
  rw [roleThen_none rfl _ (paramFail_none h ?_)]
  · simp only [not_isI hch, Bool.not_false, true_and]
    rfl
  · simp [show fenceHere (takeReq s r true) (reqField r 0 2) = true from fenceHere_of hf]

theorem execFenceQuery_served (hch : r.ch < 16) (h : Requested s r 1 [(0, 2)]) (hf : reqField r 0 2 < 16384)
    (hst : (s.fence (reqField r 0 2)).st ≠ .free) :
    exec (.fenceQuery r) s = .next (
      let x := s.fence (reqField r 0 2)
      answered (takeReq s r true) r 0x409 (if fenceRight x r.ch = 0 then (takeReq s r true, .denied 3)
      else (takeReq s r true, .reply rOk 0
        (leBytes 8 x.value.toNat ++ leBytes 8 (fenceInfo s (reqField r 0 2) (fenceRight x r.ch)))))) := by
  rw [exec_fenceQuery, execFenceQuery, serve_requested h]
  dsimp only
  rw [roleThen_none rfl _ (paramFail_none h ?_)]
  · simp only [not_isI hch, Bool.not_false, true_and, Bool.false_eq_true, if_false]
    rfl
  · simp [nFences, hf, hst]

theorem execBridgeCreate_served (hch : r.ch < 16) (h : Requested s r 1 [(0, 2), (2, 2)])
    (hf : FenceIn s (reqField r 0 2)) (hg : FenceIn s (reqField r 2 2))
    (hne : (s.fence (reqField r 0 2)).heritage ≠ (s.fence (reqField r 2 2)).heritage) :
    exec (.bridgeCreate r) s = .next (
      let x := s.fence (reqField r 0 2)
      let y := s.fence (reqField r 2 2)
      let u := takeReq s r true
      answered u r 0x40A (if fenceRight x r.ch = 0 ∨ fenceRight y r.ch < 2 then (u, .denied 3)
      else if bridged s (reqField r 0 2) ∨ bridged s (reqField r 2 2) then (u, .busy 1)
      else match pickSlot u 256 fun k => (tget? s.bridges k).isNone with
        | (none, s1) => (s1, .noSlot 6)
        | (some k, s1) =>
          let b : Bridge := ⟨r.ch, reqField r 0 2, reqField r 2 2, x.value.toNat, y.value.toNat, x.adv, 0⟩
          ({ s1 with bridges := tset s1.bridges k b }, .reply rOk 0 (leBytes 4 k)))) := by
  rw [exec_bridgeCreate, execBridgeCreate, serve_requested h]
  dsimp only
  rw [roleThen_none (by rw [not_isI hch]; rfl) _ (paramFail_none h ?_)]
  · rfl
  · simp [show fenceHere (takeReq s r true) (reqField r 0 2) = true from fenceHere_of hf,
      show fenceHere (takeReq s r true) (reqField r 2 2) = true from fenceHere_of hg, hne]

theorem execBridgeRemove_served (hch : r.ch < 16) (h : Requested s r 1 [(0, 1)]) {b : Bridge}
    (hb : tget? s.bridges (reqField r 0 1) = some b) :
    exec (.bridgeRemove r) s = .next (answered (takeReq s r true) r 0x40B (
      if b.creator = r.ch ∨ (s.fence b.src).owner = r.ch ∨ (s.fence b.dst).owner = r.ch then
        ({ takeReq s r true with bridges := tdrop s.bridges (· == reqField r 0 1) }, .ok)
      else (takeReq s r true, .denied 2))) := by
  have hb' : tget? (takeReq s r true).bridges (reqField r 0 1) = some b := hb
  rw [exec_bridgeRemove, execBridgeRemove, serve_requested h]
  dsimp only
  rw [roleThen_none (by rw [not_isI hch]; rfl) _ (paramFail_none h ?_)]
  · rw [hb']
    rfl
  · simp [hb']

/-- Settles O34: what each request answers where its parameters are in range. -/
theorem fenceRequests : Obligations.FenceRequests := by
  unfold Obligations.FenceRequests
  intro r s hch
  extract_lets u p f x live other mine
  refine ⟨fun h hflags hvalue hguard => ⟨fun n hn => ?_, fun hn => ?_⟩, fun h hl ho hheld hroom => ?_, fun h hl ho hheld => ?_,
    fun h hl ht hne hlo hhi => ?_, fun h hl ht ho => ?_, fun h hl hm hsame hlo hhi => ?_, fun h hl hm hb => ?_, fun h hl => ?_,
    fun h hl => ?_, fun h hf hst => ?_, ?_, fun b h hb ho => ?_⟩
  · obtain ⟨hlt, hfree, hfirst⟩ := oldestFree_spec hn
    refine ⟨hlt, eq_of_beq hfree, fun k hk hst => hfirst k hk (beq_iff_eq.mpr hst), ?_⟩
    rw [execFenceCreate_served hch h hflags hvalue (fun hg => ?_), hn]
    · rfl
    · obtain ⟨hc, hst, hmine⟩ := hguard hg
      exact ⟨ctxHere_of hc hst, hmine⟩
  · refine ⟨fun k hk hst => ?_, ?_⟩
    · have hno := oldestFree_eq_none hn k hk
      rw [hst] at hno
      exact absurd hno (by decide)
    · rw [execFenceCreate_served hch h hflags hvalue (fun hg => ?_), hn]
      · rfl
      · obtain ⟨hc, hst, hmine⟩ := hguard hg
        exact ⟨ctxHere_of hc hst, hmine⟩
  · rw [execFenceFree_served hch h hl, if_neg (not_not.mpr ho), if_neg (by rw [hheld]; exact Bool.false_ne_true),
      answered_accepted hroom]
  · rw [execFenceFree_served hch h hl, if_neg (not_not.mpr ho), if_pos hheld, answered_busy]
  · rw [execFenceShare_served hch h hl ht hne hlo hhi]
    dsimp only
    split
    · rfl
    next hown => exact (congrArg Host.Outcome.next (if_pos (not_not.mp hown))).symm
  · rw [execFenceRevoke_served hch h hl ht, if_neg (not_not.mpr ho)]
    cases hg : tget? (s.fence (reqField r 0 2)).grants (reqField r 2 1)
    · exact congrArg _ (congrArg (fun v => replyTo v r 0 0 []) (if_pos rfl).symm)
    · exact congrArg _ (congrArg (fun v => replyTo v r 0 0 []) (if_neg (Option.some_ne_none _)).symm)
  · obtain ⟨hc, hst, hmine⟩ := hm
    rw [execFenceBind_served hch h hl (ctxHere_of hc hst) hsame hlo hhi]
    dsimp only
    rw [if_neg (not_not.mpr hmine)]
    split
    next hlt => rw [if_neg (Nat.not_le.mpr hlt)]; rfl
    next hge => rw [if_pos (Nat.not_lt.mp hge)]; rfl
  · obtain ⟨hc, hst, hmine⟩ := hm
    rw [execFenceUnbind_served hch h hl (ctxHere_of hc hst)]
    dsimp only
    rw [if_neg (not_not.mpr hmine), if_neg (by rw [Option.isNone_iff_eq_none, ← Option.not_isSome_iff_eq_none]; exact not_not.mpr hb)]
    split <;> rfl
  · rw [execFlumeFenceSignal_served hch h hl]
    dsimp only
    split
    next hlt => rw [if_neg (Nat.not_le.mpr hlt)]; rfl
    next hge => rw [if_pos (Nat.not_lt.mp hge)]; rfl
  · rw [execFlumeFencePoison_served hch h hl]
    split
    next hlt => rw [if_neg (Nat.not_le.mpr hlt)]; rfl
    next hge => rw [if_pos (Nat.not_lt.mp hge)]; rfl
  · rw [execFenceQuery_served hch h hf hst]
    dsimp only
    split <;> rfl
  · intro h hl hg hst hne hread hwrite
    have hserved := execBridgeCreate_served hch h hl ⟨hg, hst⟩ hne
    have hmay : ¬(fenceRight x r.ch = 0 ∨ fenceRight (s.fence (p 2 2)) r.ch < 2) :=
      not_or.mpr ⟨hread, Nat.not_lt.mpr hwrite⟩
    dsimp only at hserved
    rw [if_neg hmay] at hserved
    refine ⟨fun hb => ?_, fun hbf hbg hslot => ?_⟩
    · rw [hserved, if_pos hb]
      rfl
    · have hno : ¬(bridged s (reqField r 0 2) = true ∨ bridged s (reqField r 2 2) = true) := by
        rw [show bridged s (reqField r 0 2) = false from hbf, show bridged s (reqField r 2 2) = false from hbg]
        decide
      obtain ⟨i, hi, hnone⟩ := hslot
      obtain ⟨k, hk, hfree, hpick⟩ := pickSlot_some (s := takeReq s r true) (free := fun k => (tget? s.bridges k).isNone)
        ⟨i, hi, Option.isNone_iff_eq_none.mpr hnone⟩
      refine ⟨k, hk, Option.isNone_iff_eq_none.mp hfree, ?_⟩
      rw [hserved, if_neg hno, hpick]
      rfl
  · rw [execBridgeRemove_served hch h hb, if_pos ho]
    rfl

end Sys2Proof.Proofs

/-! O45 fails: the statement lets a grant of debug access put back whose turn it is at the Flume. -/

namespace Sys2Proof.Proofs

open Sys2Proof.Machine

/-- A good request for debug access of the sender who may have it sets the access, and nothing else but what taking the
request and its reply leave. -/
theorem execDebugGrant_served {r : Req} {s : State} (h : Requested s r 1 [(0, 1)]) (hlt : reqField r 0 1 < 2)
    (hrole : isF s r = true) (hscorched : s.fuses.scorched = false) :
    exec (.debugGrant r) s = .next (replyTo { takeReq s r true with
      ranger := { (takeReq s r true).ranger with debug := reqField r 0 1 == 1 } } r 0 0 []) := by
  have hrole' : (isF (takeReq s r true) r || isI r) = true := by
    rw [show isF (takeReq s r true) r = true from hrole, Bool.true_or]
  have hscorched' : ¬(takeReq s r true).fuses.scorched = true := by
    rw [show (takeReq s r true).fuses.scorched = false from hscorched]
    exact Bool.false_ne_true
  rw [exec_debugGrant, execDebugGrant, serve_requested h]
  dsimp only
  rw [roleThen_none hrole' _ (paramFail_none h (by simp [hlt])), if_neg hscorched']
  rfl

/-- Tenant 0 manages port 0, whose firmware it may change; its request of two units is on the ring, and channel 5 had the
last turn. -/
def granting : State :=
  { State.reset with
    cfg := { State.reset.cfg with firmwarePorts := 1 }
    ranger := { Ranger.reset with st := .run, turn := 5 }
    tenants := [(0, { Tenant.free with st := .live })]
    ports := [(0, { Port.reset with manager := some 0 })]
    channels := [(0, { Channel.reset with last := 2 })] }

/-- The request: debug access on. -/
def grantRequest : Req := ⟨0, 0, 1, 0, 0, 1, 0, [1, 0, 0, 0]⟩

theorem requested_granting : Requested granting grantRequest 1 [(0, 1)] := by
  constructor
  · decide +kernel
  · decide +kernel
  · decide +kernel
  · decide +kernel

/-- Refutes O45: after a grant of debug access the channel served had the last turn, where the statement keeps the turn of the
state before. -/
theorem not_imageRequests : ¬ Obligations.ImageRequests := by
  unfold Obligations.ImageRequests
  intro h
  obtain ⟨-, -, -, -, -, -, hgrant⟩ := h.1 grantRequest granting (by decide)
  have hstated := hgrant requested_granting (by decide) (by decide +kernel)
  rw [execDebugGrant_served requested_granting (by decide) (by decide +kernel) rfl] at hstated
  have hturn := congrArg (fun t : State => t.ranger.turn) (Host.Outcome.next.inj hstated)
  exact absurd hturn (by decide +kernel)

end Sys2Proof.Proofs

/-! The channel after a record. -/

namespace Sys2Proof.Proofs

open Sys2Proof.Machine

theorem notifyTenant_channels (s : State) (t v : Nat) : (notifyTenant s t v).channels = s.channels := by
  simp only [notifyTenant, logPlain, logTenant, sendMsix]
  repeat' split
  all_goals rfl

theorem raiseIbi_channels (s : State) (k : Nat) (p : List Byte) : (raiseIbi s k p).channels = s.channels := by
  unfold raiseIbi
  split <;> rfl

theorem postRecord_channel (s : State) (ch seq status detail tag flags : Nat) (payload : List Byte) (k : Nat) :
    (postRecord s ch seq status detail tag flags payload).channel k =
      if k = ch then (s.channel ch).putRecord seq status detail tag flags payload else s.channel k := by
  have hset (x : State) (hx : x.channels =
      (s.setChannel ch ((s.channel ch).putRecord seq status detail tag flags payload)).channels) :
      x.channel k = if k = ch then (s.channel ch).putRecord seq status detail tag flags payload else s.channel k := by
    rw [State.channel, hx]
    exact State.setChannel_channel _ _ _ _
  refine hset _ ?_
  unfold postRecord
  extract_lets c s1
  split
  · rfl
  · split
    · exact raiseIbi_channels _ _ _
    · exact notifyTenant_channels _ _ _

theorem putRecord_accepted (c : Channel) (seq status detail tag flags : Nat) (payload : List Byte) :
    (c.putRecord seq status detail tag flags payload).accepted = c.accepted := by
  unfold Channel.putRecord
  extract_lets units room c1 body
  show c1.accepted = c.accepted
  unfold c1
  split <;> rfl

theorem postRecord_accepted (s : State) (ch seq status detail tag flags : Nat) (payload : List Byte) (k : Nat) :
    ((postRecord s ch seq status detail tag flags payload).channel k).accepted = (s.channel k).accepted := by
  rw [postRecord_channel]
  split
  next hk => rw [hk, putRecord_accepted]
  next => rfl

/-- The request accepted waits in its channel. -/
theorem acceptedBy_waits (u : State) (r : Req) (op arg : Nat) :
    ⟨op, r.seq.toNat, r.tag.toNat, arg⟩ ∈ ((acceptedBy u r op arg).channel r.ch).accepted := by
  rw [acceptedBy, postRecord_accepted, State.setChannel_channel, if_pos rfl]
  exact List.mem_append_right _ (List.mem_singleton_self _)

end Sys2Proof.Proofs

/-! O36: a port manager's requests about the tenants of its port, and the end of a tenant. -/

namespace Sys2Proof.Proofs

open Sys2Proof.Machine

variable {r : Req} {s : State}

@[simp] theorem takeReq_isM (b : Bool) : isM (takeReq s r b) r = isM s r := rfl

/-- The requester pair is bound already on the port, by a tenant other than `but`. -/
theorem pairBound_iff (p : Nat) (pr : Nat × Option Nat) (but : Option Nat) : pairBound s p pr but = true ↔
    ∃ k, k < 16 ∧ some k ≠ but ∧ (s.tenant k).st ≠ .free ∧ (s.tenant k).port = p ∧ ((s.tenant k).rid, (s.tenant k).pasid) = pr := by
  obtain ⟨rid, pasid⟩ := pr
  simp only [pairBound, nTenants, List.any_eq_true, List.mem_range, Bool.and_eq_true, bne_iff_ne, beq_iff_eq, ne_eq, Prod.mk.injEq]
  constructor
  · rintro ⟨k, hk, ⟨⟨⟨hst, hp⟩, hr⟩, hpa⟩, hb⟩
    exact ⟨k, hk, hb, hst, hp, hr, hpa⟩
  · rintro ⟨k, hk, hb, hst, hp, hr, hpa⟩
    exact ⟨k, hk, ⟨⟨⟨hst, hp⟩, hr⟩, hpa⟩, hb⟩

/-- The requester pair that a payload in range names. -/
theorem reqPair_eq (h : reqField r 4 4 < 2 ^ 20) :
    reqPair r = (reqField r 2 2, if (reqField r 1 1).testBit 0 then some (reqField r 4 4) else none) := by
  rw [reqPair, Nat.mod_eq_of_lt h, bitOf]

theorem execRollCallList_served (h : Requested s r 0 []) : exec (.rollCallList r) s = .next (
    let u := takeReq s r true
    let ts := tenantsOn s (s.tenant r.ch).port .gone
    answered u r 0x103 (if isM s r = false then (u, .denied 1)
    else (u, .reply rOk 0 (leBytes 2 ts.length ++ ts.flatMap (fun t =>
      let x := s.tenant t
      leBytes 1 t ++ leBytes 1 (b2n x.pasid.isSome) ++ leBytes 2 x.rid ++ leBytes 4 (x.pasid.getD 0)) ++ [0, 0])))) := by
  rw [exec_rollCallList, execRollCallList, serve_requested h]
  simp only [takeReq_isM]
  cases hrole : isM s r
  · rw [roleThen_denied rfl, if_pos rfl]
  · rw [roleThen_none rfl _ rfl, if_neg (nofun : ¬true = false)]
    rfl

theorem execTenantRebind_served (h : Requested s r 2 [(0, 1), (1, 1), (2, 2), (4, 4)]) (hrole : isM s r = true)
    (ht : reqField r 0 1 < 16) (hflag : reqField r 1 1 < 2) (hpasid : reqField r 4 4 < 2 ^ 20)
    (hst : (s.tenant (reqField r 0 1)).st = .gone) (hport : (s.tenant (reqField r 0 1)).port = (s.tenant r.ch).port) :
    exec (.tenantRebind r) s = .next (
      let u := takeReq s r true
      answered u r 0x104 (if pairBound s (s.tenant r.ch).port (reqPair r) (some (reqField r 0 1)) then (u, .denied 11)
      else (rebind u (reqField r 0 1) (reqPair r), .ok))) := by
  have hfree : ((s.tenant (reqField r 0 1)).st != .free) = true := by rw [hst]; rfl
  rw [exec_tenantRebind, execTenantRebind, serve_requested h]
  dsimp only
  rw [takeReq_isM, roleThen_none hrole _ (paramFail_none h (by simpa [nTenants, ht, hflag, hst] using hpasid)), takeReq_tenant,
    takeReq_tenant, if_neg (not_not.mpr hport), if_neg (not_not.mpr hst)]
  rfl

theorem execTenantCreate_served (h : Requested s r 2 [(1, 1), (2, 2), (4, 4)]) (hrole : isM s r = true)
    (hflag : reqField r 1 1 < 2) (hpasid : reqField r 4 4 < 2 ^ 20) :
    exec (.tenantCreate r) s = .next (
      let u := takeReq s r true
      let p := (s.tenant r.ch).port
      answered u r 0x201 (if pairBound s p (reqPair r) none then (u, .denied 11)
      else match pickSlot u 16 (numberFree s p) with
         | (none, s1) => (s1, .noSlot 1)
         | (some t, s1) => (createTenant s1 t p (reqPair r), .reply rOk 0 (leBytes 1 t ++ [0, 0, 0])))) := by
  rw [exec_tenantCreate, execTenantCreate, serve_requested h]
  dsimp only
  rw [takeReq_isM, roleThen_none hrole _ (paramFail_none h (by simpa [hflag] using hpasid))]
  rfl

theorem execTenantDestroy_served (h : Requested s r 1 [(0, 1)]) (hrole : isM s r = true) (ht : reqField r 0 1 < 16)
    (hst : (s.tenant (reqField r 0 1)).st ≠ .free) (hport : (s.tenant (reqField r 0 1)).port = (s.tenant r.ch).port)
    (hne : reqField r 0 1 ≠ r.ch) (hdest : (s.tenant (reqField r 0 1)).st ≠ .destroying) :
    exec (.tenantDestroy r) s = .next (
      answered (takeReq s r true) r 0x203 (destroyTenant (takeReq s r true) (reqField r 0 1), .accepted (reqField r 0 1))) := by
  have hmay : managesIt (takeReq s r true) r (reqField r 0 1) = true := by
    rw [managesIt, takeReq_isM, hrole, takeReq_tenant, takeReq_tenant, hport]
    exact beq_self_eq_true _
  rw [exec_tenantDestroy, execTenantDestroy]
  rw [serve_requested h, takeReq_isM, roleThen_none hrole _ (paramFail_none h (by simp [nTenants, ht, hst])), hmay,
    takeReq_tenant, if_neg (by decide), if_neg hne, if_neg hdest]

theorem execRollCallEnd_served (h : Requested s r 0 []) : exec (.rollCallEnd r) s = .next (
    let u := takeReq s r true
    let p := (s.tenant r.ch).port
    settleRollCall (answered u r 0x105 (if isM s r = false then (u, .denied 1)
    else if (s.port p).st ≠ .rollCall then (u, .badParam 0xFFFF)
    else ((tenantsOn s p .gone).foldl destroyTenant u, .accepted p))) p) := by
  rw [exec_rollCallEnd, execRollCallEnd]
  dsimp only
  rw [serve_requested h, takeReq_isM]
  cases hrole : isM s r
  · rw [roleThen_denied rfl, if_pos rfl]
  · rw [roleThen_none rfl _ rfl, if_neg (nofun : ¬true = false)]
    rfl

theorem execTenantReset_served (h : Requested s r 1 [(0, 1)]) (ht : reqField r 0 1 < 16)
    (hst : (s.tenant (reqField r 0 1)).st = .live)
    (hmay : reqField r 0 1 = r.ch ∨ (isM s r = true ∧ (s.tenant (reqField r 0 1)).port = (s.tenant r.ch).port)) :
    exec (.tenantReset r) s = .next (
      let u := takeReq s r true
      let t := reqField r 0 1
      settleReset (answered u r 0x202 (resetTenant (abortChannel u t) t, .accepted t)) t) := by
  have hmay' : (isI r || r.ch == reqField r 0 1 || managesIt (takeReq s r true) r (reqField r 0 1)) = true := by
    rcases hmay with he | ⟨hm, hp⟩
    · simp [he]
    · simp [managesIt, hm, hp]
  have hrole : (isI r || r.ch == reqField r 0 1 || isM (takeReq s r true) r) = true := by
    rcases hmay with he | ⟨hm, -⟩
    · simp [he]
    · simp [hm]
  rw [exec_tenantReset, execTenantReset]
  dsimp only
  rw [serve_requested h, roleThen_none hrole _ (paramFail_none h (by simp [nTenants, ht, hst])), hmay', takeReq_tenant,
    if_neg (by decide), if_neg (not_not.mpr hst)]

theorem execTenantFreed_freed {t : Nat} (hst : (s.tenant t).st = .destroying) (hctxs : ctxsOf s t = []) (hqueues : queuesOf s t = [])
    (hsets : ∀ x ∈ s.prism.sets, x.tenant ≠ t) :
    exec (.tenantFreed t) s = .next (
      let x := s.tenant t
      let s0 := (s.setTenant t .free).setChannel t .reset
      let s1 := s0.setPort x.port { s0.port x.port with
        manager := if (s0.port x.port).manager = some t then none else (s0.port x.port).manager }
      let s2 := { s1 with
        prism := { s1.prism with pages := tdrop s1.prism.pages (· == t) }
        objs := tmap s1.objs fun _ o => if o.owner == t then { o with owner := 0xFF } else o }
      settleRelease (settleRollCall (finalAll s2 0x203 t rOk 0 []) x.port) x.port) := by
  have hnone : s.prism.sets.any (fun y => y.tenant == t) = false :=
    List.any_eq_false.mpr fun x hx => by simp [hsets x hx]
  rw [exec_tenantFreed, execTenantFreed]
  dsimp only
  rw [if_neg]
  simp [hst, hctxs, hqueues, hnone]

/-! ### The end of a roll call -/

/-- A roll call with no tenant to call ends where its end was asked for. -/
theorem settleRollCall_ready {p ch : Nat} {a : Accepted} (hst : (s.port p).st = .rollCall) (hgone : tenantsOn s p .gone = [])
    (hdest : tenantsOn s p .destroying = []) (hch : ch < 16) (ha : a ∈ (s.channel ch).accepted) (hop : a.opcode = 0x105)
    (harg : a.arg = p) : ((settleRollCall s p).port p).st = .ready ∧ ((settleRollCall s p).port p).shown = 3 := by
  have hasked : (List.range nTenants).any (fun ch => (s.channel ch).accepted.any fun a => a.opcode == 0x105 && a.arg == p) = true := by
    simp only [List.any_eq_true, List.mem_range]
    exact ⟨ch, hch, a, ha, by simp [hop, harg]⟩
  unfold settleRollCall
  rw [if_pos ⟨hst, hgone, hdest, hasked⟩]
  have hsays := says_finalAll (s.setPort p { s.port p with st := .ready, shown := 3 }) 0x105 p rOk 0 []
  rw [hsays.portSt, hsays.portShown, State.setPort_port, if_pos rfl]
  exact ⟨rfl, rfl⟩

/-! ### The end of a tenant -/

/-- A tenant's outputs and layers are nobody's. -/
def ungrant (v : State) (t : Nat) : State :=
  { v with prism := { v.prism with
      outGrants := v.prism.outGrants.filter fun g => g.2 != t
      layerGrants := v.prism.layerGrants.filter fun g => g.2 != t } }

/-- What the destruction of a tenant does last: its grants go, and its record says so. -/
theorem destroyTenant_last (s : State) (t : Nat) : ∃ v : State, destroyTenant s t = (ungrant v t).setTenant t
    { ((ungrant v t).tenant t).disarm with st := .destroying, resetting := false, envelope := none } := by
  unfold destroyTenant
  extract_lets s1 s2 s3 s4 s5 own s6 s7 s8 s9
  exact ⟨s8, rfl⟩

theorem destroyTenant_tenant (s : State) (t : Nat) : ((destroyTenant s t).tenant t).st = .destroying
    ∧ ((destroyTenant s t).tenant t).resetting = false ∧ ((destroyTenant s t).tenant t).envelope = none := by
  obtain ⟨v, hv⟩ := destroyTenant_last s t
  rw [hv, State.setTenant_tenant, if_pos rfl]
  exact ⟨rfl, rfl, rfl⟩

theorem destroyTenant_grants (s : State) (t : Nat) : (∀ e ∈ (destroyTenant s t).prism.layerGrants, e.2 ≠ t)
    ∧ ∀ e ∈ (destroyTenant s t).prism.outGrants, e.2 ≠ t := by
  obtain ⟨v, hv⟩ := destroyTenant_last s t
  rw [hv]
  exact ⟨fun e he => by simpa using (List.mem_filter.mp he).2, fun e he => by simpa using (List.mem_filter.mp he).2⟩

/-- Settles O36: what each request answers and leaves, and how a tenant ends. -/
theorem tenantRequests : Obligations.TenantRequests := by
  unfold Obligations.TenantRequests
  refine ⟨fun r s hch => ?_, fun t s => ⟨?_, ?_, ?_, ?_, ?_⟩, fun t s hst hctxs hqueues hsets => ?_⟩
  · extract_lets u f p t pair taken
    refine ⟨fun hrole => ⟨fun h => ⟨?_, ?_⟩, fun h => ?_⟩, fun hrole => ⟨fun h => ?_, fun h ht hflag hpasid hst hport => ⟨fun htaken => ?_,
      fun hfree => ?_⟩, fun h hflag hpasid => ⟨fun htaken => ?_, fun hfree hnum => ?_, fun hfree hnum => ?_⟩,
      fun h ht hne hst hdest hport hroom => ?_, fun h hst hroom => ?_⟩, fun h ht hst hmay hroom => ?_⟩
    · rw [execRollCallList_served h]
      dsimp only
      rw [if_pos hrole]
      rfl
    · rw [execRollCallEnd_served h]
      dsimp only
      rw [if_pos hrole]
      rfl
    · rw [exec_tenantCreate, execTenantCreate, serve_requested h]
      dsimp only
      rw [takeReq_isM, roleThen_denied hrole]
      rfl
    · rw [execRollCallList_served h]
      simp only [hrole]
      rfl
    · rw [execTenantRebind_served h hrole ht hflag hpasid hst hport]
      dsimp only
      rw [reqPair_eq hpasid, if_pos ((pairBound_iff _ _ _).mpr htaken)]
      rfl
    · rw [execTenantRebind_served h hrole ht hflag hpasid hst hport]
      dsimp only
      rw [reqPair_eq hpasid, if_neg (fun hb => hfree ((pairBound_iff _ _ _).mp hb))]
      rfl
    · rw [execTenantCreate_served h hrole hflag hpasid]
      dsimp only
      rw [reqPair_eq hpasid, if_pos ((pairBound_iff _ _ _).mpr htaken)]
      rfl
    · obtain ⟨k, hk, hfreek, hpick⟩ := pickSlot_some (s := u) (free := numberFree s p) hnum
      refine ⟨k, hk, ?_, ?_⟩
      · rw [numberFree, Bool.and_eq_true, beq_iff_eq] at hfreek
        exact hfreek.1
      · rw [execTenantCreate_served h hrole hflag hpasid]
        dsimp only
        rw [reqPair_eq hpasid, if_neg (fun hb => hfree ((pairBound_iff _ _ _).mp hb)), hpick]
        rfl
    · rw [execTenantCreate_served h hrole hflag hpasid]
      dsimp only
      rw [reqPair_eq hpasid, if_neg (fun hb => hfree ((pairBound_iff _ _ _).mp hb)),
        pickSlot_none (s := u) (free := numberFree s p) (by decide) hnum]
      rfl
    · rw [execTenantDestroy_served h hrole ht hst hport hne hdest, answered_accepted hroom]
    · have hends : exec (.rollCallEnd r) s = .next (settleRollCall
          (acceptedBy ((tenantsOn s p .gone).foldl destroyTenant u) r 0x105 p) p) := by
        rw [execRollCallEnd_served h]
        dsimp only
        rw [if_neg (by rw [hrole]; decide), if_neg (not_not.mpr hst), answered_accepted hroom]
      refine ⟨hends, fun hgone hdest => ⟨_, hends, ?_⟩⟩
      rw [show tenantsOn s (s.tenant r.ch).port .gone = [] from hgone]
      have hsays := says_acceptedBy u r 0x105 p
      exact settleRollCall_ready ((hsays.portSt p).trans hst) ((hsays.tenantsOn p .gone).trans hgone)
        ((hsays.tenantsOn p .destroying).trans hdest) hch (acceptedBy_waits u r 0x105 p) rfl rfl
    · rw [execTenantReset_served h ht hst hmay]
      dsimp only
      rw [answered_accepted hroom]
  · exact (destroyTenant_tenant s t).1
  · exact (destroyTenant_tenant s t).2.1
  · exact (destroyTenant_tenant s t).2.2
  · exact (destroyTenant_grants s t).1
  · exact (destroyTenant_grants s t).2
  · exact execTenantFreed_freed hst hctxs hqueues hsets

end Sys2Proof.Proofs

/-! O39 fails: taking a drained queue's waits away lets a core put an instruction back that faults the context, and a fault
stops a queue that the table lists twice. -/

namespace Sys2Proof.Proofs

open Sys2Proof.Machine

/-- A weight load of context 0 from beyond the address space, which waits to be queued again. -/
def lostLoad : TqEntry := ⟨0, 0, 0, 0, 0, 0, .twld (2 ^ 48) 0 128 [], false, []⟩

/-- Queue 0 of the LIVE context 0, listed twice. -/
def listedTwice : State :=
  { State.reset with
    ctxs := [(0, { Ctx.free with st := .live })]
    queues := [(0, { Queue.free with st := .live }), (0, { Queue.free with st := .live })]
    cores := [(0, { Core.reset with requeue := [lostLoad] })] }

/-- Refutes O39: drained, the queue is STOPPED. -/
theorem not_queueRequests : ¬ Obligations.QueueRequests := by
  unfold Obligations.QueueRequests
  intro h
  have hdrained := (h.2.1 0 listedTwice).1
  exact absurd hdrained (by decide +kernel)

end Sys2Proof.Proofs

/-! Sag response, the governor and the envelope requests: what the operations on the stands leave. -/

namespace Sys2Proof.Proofs

open Sys2Proof.Machine

/-! ### The stands -/

@[simp] theorem bump_stand (s : State) (u o j : Nat) : (bump s u o).stand j = s.stand j := by
  unfold State.stand; rw [bump_power]

@[simp] theorem postEvent_stand (s : State) (c u a b j : Nat) : (postEvent s c u a b).stand j = s.stand j := by
  unfold State.stand; rw [(says_postEvent s c u a b).power]

/-- `t` is `s` but for what a step of stand `k` to `l` leaves: its ladder, and the steps counted and delivered. -/
structure Steps (s t : State) (k l : Nat) : Prop where
  own : ∃ n d, t.stand k = { s.stand k with ladder := l, steps := n, delivered := d }
  others : ∀ j, j ≠ k → t.stand j = s.stand j
  fabTrip : t.power.fabTrip = s.power.fabTrip

theorem deliverDroop_keeps (s : State) (k : Nat) : Steps s (deliverDroop s k) k (s.stand k).ladder := by
  unfold deliverDroop
  extract_lets x
  split
  · exact ⟨⟨x.steps, x.delivered, rfl⟩, fun _ _ => rfl, rfl⟩
  · refine ⟨⟨0, some s.timer, ?_⟩, fun j hj => ?_, ?_⟩
    · rw [postEvent_stand, setStand_stand, if_pos rfl]
    · rw [postEvent_stand, setStand_stand, if_neg hj]
    · rw [(says_postEvent _ _ _ _ _).power]; rfl

theorem droopStep_steps (s : State) (k l : Nat) : Steps s (droopStep s k l) k l := by
  have counted : Steps s (bump (setStand s k { s.stand k with ladder := l, steps := (s.stand k).steps + 1 }) (0xA0 + k)
      (if l = 12 then 0x108 else 0x100)) k l := by
    refine ⟨⟨(s.stand k).steps + 1, (s.stand k).delivered, ?_⟩, fun j hj => ?_, ?_⟩
    · rw [bump_stand, setStand_stand, if_pos rfl]
    · rw [bump_stand, setStand_stand, if_neg hj]
    · rw [bump_power]; rfl
  have delivered : ∀ v, Steps s v k l → Steps s (deliverDroop v k) k l := fun v hv => by
    obtain ⟨n, d, hown⟩ := hv.own
    have hd := deliverDroop_keeps v k
    obtain ⟨n', d', hown'⟩ := hd.own
    refine ⟨⟨n', d', ?_⟩, fun j hj => (hd.others j hj).trans (hv.others j hj), hd.fabTrip.trans hv.fabTrip⟩
    rw [hown', hown]
  unfold droopStep
  extract_lets x s1
  cases x.delivered with
  | none => exact delivered _ counted
  | some t =>
    dsimp only
    split
    · exact delivered _ counted
    · exact counted

/-! ### The sensors -/

theorem sampling_stand {s : State} {k : Nat} (hk : k < 6) (hp : s.power.pll = true) : sampling s k = true := by
  simp only [sampling, hp, Bool.and_true, decide_eq_true_eq]; omega

theorem setSensor_stand {k : Nat} (hk : k < 6) (s : State) (trip deep : Bool) :
    setSensor s k trip deep = setStand s k { s.stand k with trip := trip, deep := deep } := by
  unfold setSensor; rw [if_neg (by omega)]

theorem sensorTrip_stand {k : Nat} (hk : k < 6) (s : State) : sensorTrip s k = (s.stand k).trip := by
  unfold sensorTrip; rw [if_neg (by omega)]

theorem sensorDeep_stand {k : Nat} (hk : k < 6) (s : State) : sensorDeep s k = (s.stand k).deep := by
  unfold sensorDeep; rw [if_neg (by omega)]

theorem sensed_stand {k : Nat} (hk : k < 6) : sensed k = [k] := by
  unfold sensed; rw [if_neg (by omega)]

/-- What a sensor sets in its stand, with the step that follows where the ladder is not that far down. -/
theorem sensed_step {s : State} {k l : Nat} {trip deep : Bool} {down : Bool} :
    let u := setStand s k { s.stand k with trip := trip, deep := deep }
    let t := if down then droopStep u k l else u
    (t.stand k).trip = trip ∧ (t.stand k).deep = deep ∧ (t.stand k).ladder = (if down then l else (s.stand k).ladder)
      ∧ (t.stand k).gov = (s.stand k).gov ∧ ∀ j, j ≠ k → t.stand j = s.stand j := by
  intro u t
  have hu : ∀ j, u.stand j = if j = k then { s.stand k with trip := trip, deep := deep } else s.stand j :=
    fun _ => setStand_stand _ _ _ _
  have hk := hu k
  rw [if_pos rfl] at hk
  have hothers : ∀ j, j ≠ k → u.stand j = s.stand j := fun j hj => by rw [hu, if_neg hj]
  cases down with
  | false => exact ⟨by rw [show t = u from rfl, hk], by rw [show t = u from rfl, hk], by rw [show t = u from rfl, hk]; rfl,
      by rw [show t = u from rfl, hk], hothers⟩
  | true =>
    have ht : Steps u t k l := droopStep_steps u k l
    obtain ⟨n, d, hown⟩ := ht.own
    rw [hk] at hown
    rw [hown]
    exact ⟨rfl, rfl, rfl, rfl, fun j hj => (ht.others j hj).trans (hothers j hj)⟩

theorem droopTrip_stand {s : State} {k : Nat} (hk : k < 6) (hp : s.power.pll = true) (ht : (s.stand k).trip = false) :
    exec (.droopTrip k) s = .next (
      let u := setStand s k { s.stand k with trip := true, deep := (s.stand k).deep }
      if decide ((s.stand k).ladder ≤ 7) then droopStep u k 8 else u) := by
  rw [exec_droopTrip]
  unfold execDroopTrip
  rw [sampling_stand hk hp, sensorTrip_stand hk, ht, sensed_stand hk, setSensor_stand hk, sensorDeep_stand hk]
  simp

theorem deepTrip_stand {s : State} {k : Nat} (hk : k < 6) (hp : s.power.pll = true) (hd : (s.stand k).deep = false)
    (hc : s.cfg.droopDeepMv ≠ 0) {both : Bool} (hb : both = true → (s.stand k).trip = false) :
    exec (.deepTrip k both) s = .next (
      let u := setStand s k { s.stand k with trip := both || (s.stand k).trip, deep := true }
      if both || decide ((s.stand k).ladder ≤ 8) then droopStep u k 12 else u) := by
  rw [exec_deepTrip]
  unfold execDeepTrip
  have hbt : (both && (s.stand k).trip) = false := by
    cases both with
    | false => rfl
    | true => rw [hb rfl]; rfl
  rw [sampling_stand hk hp, sensorTrip_stand hk, sensorDeep_stand hk, hd, sensed_stand hk, setSensor_stand hk, hbt]
  simp [hc]

/-- The fabric's sensor steps every stand down. -/
theorem fabric_steps (s : State) (l : List Nat) (hl : l.Nodup) :
    let t := l.foldl (fun s k => if (s.stand k).ladder ≤ 7 then droopStep s k 8 else s) s
    t.power.fabTrip = s.power.fabTrip ∧ (∀ k ∈ l, (t.stand k).ladder = (if (s.stand k).ladder ≤ 7 then 8 else (s.stand k).ladder)
      ∧ (t.stand k).trip = (s.stand k).trip) ∧ ∀ k, k ∉ l → t.stand k = s.stand k := by
  induction l generalizing s with
  | nil => exact ⟨rfl, fun _ hk => absurd hk List.not_mem_nil, fun _ _ => rfl⟩
  | cons j l ih =>
    intro t
    simp only [t, List.foldl_cons]
    obtain ⟨hj, hl⟩ := List.nodup_cons.mp hl
    obtain ⟨hfab, hin, hout⟩ := ih (if (s.stand j).ladder ≤ 7 then droopStep s j 8 else s) hl
    have hstep : let u := if (s.stand j).ladder ≤ 7 then droopStep s j 8 else s
        u.power.fabTrip = s.power.fabTrip ∧ (u.stand j).ladder = (if (s.stand j).ladder ≤ 7 then 8 else (s.stand j).ladder)
          ∧ (u.stand j).trip = (s.stand j).trip ∧ ∀ k, k ≠ j → u.stand k = s.stand k := by
      intro u
      by_cases h7 : (s.stand j).ladder ≤ 7
      · have hs := droopStep_steps s j 8
        obtain ⟨n, d, hown⟩ := hs.own
        simp only [u, if_pos h7]
        exact ⟨hs.fabTrip, by rw [hown], by rw [hown], hs.others⟩
      · rw [show u = s from if_neg h7, if_neg h7]
        exact ⟨rfl, rfl, rfl, fun _ _ => rfl⟩
    obtain ⟨ufab, uladder, utrip, uothers⟩ := hstep
    refine ⟨hfab.trans ufab, fun k hk => ?_, fun k hk => ?_⟩
    · rcases List.mem_cons.mp hk with rfl | hk
      · have := hout k hj
        exact ⟨(congrArg Stand.ladder this).trans uladder, (congrArg Stand.trip this).trans utrip⟩
      · have hkj : k ≠ j := fun h => hj (h ▸ hk)
        obtain ⟨hladder, htrip⟩ := hin k hk
        rw [uothers k hkj] at hladder htrip
        exact ⟨hladder, htrip⟩
    · rw [List.mem_cons, not_or] at hk
      exact (hout k hk.2).trans (uothers k hk.1)

/-! ### The governor -/

theorem setPair_stand (s : State) (g d k : Nat) :
    (setPair s g d).stand k = if k < 6 then { s.stand k with gov := g } else s.stand k := by
  have hset : ∀ (l : List Nat) (t : Tbl Stand), tget (l.foldl (fun t k => tset t k { tget t k Stand.reset with gov := g }) t) k Stand.reset
      = if k ∈ l then { tget t k Stand.reset with gov := g } else tget t k Stand.reset := by
    intro l
    induction l with
    | nil => intro t; rfl
    | cons j l ih =>
      intro t
      rw [List.foldl_cons, ih, tget_tset]
      by_cases hkj : k = j <;> simp [hkj]
  simp only [setPair, State.stand, hset, List.mem_range]

theorem mem_govPairs {q : Nat × Nat} (h : q ∈ govPairs) : (q.1 = 6 ∨ q.1 = 7 ∨ q.1 = 8 ∨ q.1 = 12) ∧ 1 ≤ q.2 ∧ q.2 ≤ 64 := by
  simp only [govPairs, List.mem_flatMap, List.mem_map, List.mem_range] at h
  obtain ⟨g, hg, d, hd, rfl⟩ := h
  simp only [List.mem_cons, List.not_mem_nil, or_false] at hg
  exact ⟨hg, by dsimp only; omega, by dsimp only; omega⟩

theorem le_foldl_max {α : Type} (f : α → Nat) (l : List α) (b : Nat) :
    b ≤ l.foldl (fun m p => max m (f p)) b ∧ (∀ x ∈ l, f x ≤ l.foldl (fun m p => max m (f p)) b)
      ∧ (l.foldl (fun m p => max m (f p)) b = b ∨ ∃ x ∈ l, f x = l.foldl (fun m p => max m (f p)) b) := by
  induction l generalizing b with
  | nil => exact ⟨le_rfl, nofun, .inl rfl⟩
  | cons y l ih =>
    obtain ⟨hb, hmem, hor⟩ := ih (max b (f y))
    refine ⟨le_trans (le_max_left _ _) hb, fun x hx => ?_, ?_⟩
    · rcases List.mem_cons.mp hx with rfl | hx
      · exact le_trans (le_max_right _ _) hb
      · exact hmem x hx
    · rcases hor with h | ⟨x, hx, h⟩
      · rw [List.foldl_cons, h]
        rcases le_total b (f y) with hle | hle
        · exact .inr ⟨y, List.mem_cons_self, (max_eq_right hle).symm⟩
        · exact .inl (max_eq_left hle)
      · exact .inr ⟨x, List.mem_cons_of_mem _ hx, h⟩

/-- The governor takes a pair that fits with the highest rate share, or the lowest pair where none fits. -/
theorem govPick_spec (s : State) (work share : Nat) :
    let fits := fun q : Nat × Nat => rateShare q.1 q.2 ≤ share + 112 ∧ Config.powerFits s.freeTick work q.1 q.2 = true
    let p := govPick s work share
    (p = (12, 1) ∨ (p ∈ govPairs ∧ fits p)) ∧ ∀ q ∈ govPairs, fits q → rateShare q.1 q.2 ≤ rateShare p.1 p.2 := by
  intro fits p
  let fit := govPairs.filter fun p => decide (rateShare p.1 p.2 ≤ share + 112) && Config.powerFits s.freeTick work p.1 p.2
  let best := fit.foldl (fun m p => max m (rateShare p.1 p.2)) 0
  let tops := fit.filter fun p => rateShare p.1 p.2 == best
  have hp : p = tops.getD ((Config.free s.freeTick).toNat % max 1 tops.length) (12, 1) := rfl
  have hfit : ∀ q, q ∈ fit ↔ q ∈ govPairs ∧ fits q := fun q => by simp [fit, fits]
  obtain ⟨-, hmax, hbest⟩ := le_foldl_max (fun p : Nat × Nat => rateShare p.1 p.2) fit 0
  by_cases htops : tops = []
  · have hnone : ∀ q, q ∉ fit := by
      intro q hq
      have : ∃ x ∈ fit, rateShare x.1 x.2 = best := by
        rcases hbest with h0 | h
        · refine ⟨q, hq, le_antisymm (hmax q hq) ?_⟩
          rw [show best = 0 from h0]; exact Nat.zero_le _
        · exact h
      obtain ⟨x, hx, hxb⟩ := this
      have : x ∈ tops := List.mem_filter.mpr ⟨hx, by simp [hxb]⟩
      rw [htops] at this
      exact absurd this List.not_mem_nil
    refine ⟨.inl (by rw [hp, htops]; rfl), fun q hq hf => absurd ((hfit q).mpr ⟨hq, hf⟩) (hnone q)⟩
  · have hlt : (Config.free s.freeTick).toNat % max 1 tops.length < tops.length := by
      have : 0 < tops.length := List.length_pos_iff.mpr htops
      rw [max_eq_right this]
      exact Nat.mod_lt _ this
    have hmem : p ∈ tops := by
      rw [hp, List.getD_eq_getElem _ _ hlt]
      exact List.getElem_mem hlt
    obtain ⟨hin, htop⟩ := List.mem_filter.mp hmem
    refine ⟨.inr ((hfit p).mp hin), fun q hq hf => ?_⟩
    rw [show rateShare p.1 p.2 = best from by simpa using htop]
    exact hmax q ((hfit q).mpr ⟨hq, hf⟩)

/-! ### The two ways to set an envelope -/

theorem leBytes_eq_map (n x : Nat) : (List.range n).map (fun i => BitVec.ofNat 8 (x / 2 ^ (8 * i))) = leBytes n x := by
  induction n generalizing x with
  | zero => rfl
  | succ n ih =>
    have hpow : ∀ i, x / 2 ^ (8 * (i + 1)) = x / 256 / 2 ^ (8 * i) := fun i => by
      rw [Nat.div_div_eq_div_mul, Nat.mul_succ, Nat.add_comm, Nat.pow_add]
    rw [List.range_succ_eq_map, List.map_cons, List.map_map, leBytes, ← ih]
    simp only [Function.comp_def, Nat.succ_eq_add_one, hpow, Nat.mul_zero, Nat.pow_zero, Nat.div_one]

/-- A write with all byte enables sets the whole register. -/
theorem accMerge_full {a : Access} (h : a.be = 0xFF) (old : DWord) : accMerge a old = a.data := by
  have hbe : ∀ i ∈ List.range 8, BitVec.ofNat 8 (if a.be.getLsbD i then a.data.toNat / 2 ^ (8 * i) else old.toNat / 2 ^ (8 * i))
      = BitVec.ofNat 8 (a.data.toNat / 2 ^ (8 * i)) := by
    intro i hi
    rw [List.mem_range] at hi
    rw [h, if_pos (by interval_cases i <;> rfl)]
  unfold accMerge
  rw [List.map_congr_left hbe, leBytes_eq_map, leNat_leBytes]
  exact BitVec.eq_of_toNat_eq (by rw [BitVec.toNat_ofNat, Nat.mod_mod]; exact Nat.mod_eq_of_lt a.data.isLt)

theorem accFields_byte {a : Access} (h : a.be = 0xFF) (old : DWord) : (accFields a 0xFF old).toNat = a.data.toNat % 256 := by
  rw [accFields, accMerge_full h, BitVec.toNat_and]
  exact Nat.and_two_pow_sub_one_eq_mod a.data.toNat 8

theorem leastOf_of_zero_mem {l : List Nat} (h : 0 ∈ l) : leastOf l = some 0 := by
  cases hl : leastOf l with
  | none => rw [leastOf_eq_none.mp hl] at h; exact absurd h List.not_mem_nil
  | some m => rw [Nat.le_zero.mp (leastOf_le hl 0 h)]

/-- A payload whose field at offset 0 fails its check is refused for that offset, the least there is. -/
theorem paramFail_first (r : Req) (listed : List (Nat × Nat)) {c : Bool} (hc : c = false) :
    paramFail r listed [(0, c)] = some 0 := by
  unfold paramFail
  exact leastOf_of_zero_mem (List.mem_append_right _ (by rw [hc]; exact List.mem_singleton_self 0))

theorem execEnvelopeSet_served {r : Req} {s : State} (hch : r.ch < 16) (h : Requested s r 1 [(0, 1)]) :
    exec (.envelopeSet r) s = .next (
      let u := takeReq s r true
      let e := reqField r 0 1
      if 12 ≤ e ∧ e ≤ s.cfg.envelope
        then replyTo (u.setTenant r.ch { s.tenant r.ch with envelope := some e }) r 0 0 [] else replyTo u r 0x12 0 []) := by
  rw [exec_envelopeSet, execEnvelopeSet, serve_requested h]
  dsimp only
  rw [show (takeReq s r true).cfg = s.cfg from rfl]
  by_cases he : 12 ≤ reqField r 0 1 ∧ reqField r 0 1 ≤ s.cfg.envelope
  · rw [roleThen_none rfl _ (paramFail_none h (by simpa using he)), not_isI hch, if_pos he, if_neg Bool.false_ne_true]
    rfl
  · rw [roleThen_bad rfl _ (paramFail_first r _ (decide_eq_false he)), if_neg he]
    rfl

theorem execEnvelopeReq_own {a : Access} {t : Nat} {s : State} (hup : accUp s a = true) (ht : accTenant s a = some t)
    (hbe : a.be = 0xFF) :
    exec (.envelopeReq a) s = .next (
      let v := a.data.toNat % 256
      if v = 0 then s.setTenant t { s.tenant t with envelope := none }
      else if 12 ≤ v ∧ v ≤ s.cfg.envelope then s.setTenant t { s.tenant t with envelope := some v }
      else accLog s a t 0xE 0x7000018) := by
  rw [exec_envelopeReq, execEnvelopeReq, hup, ht]
  simp only [accFields_byte hbe]
  rfl

/-- The end of a control period: the pair is set, and the performance limits counted. -/
def periodEnd (s : State) (w : Power) (pr : Nat × Nat) : State :=
  let s1 := setPair { s with freeTick := s.freeTick + 1, power := w } pr.1 pr.2
  let s2 := if w.limit = 0 then s1 else bump s1 0xB0 0x128
  if w.limit = 2 then bump s2 0xB0 0x130 else s2

theorem periodEnd_power (s : State) (w : Power) (pr : Nat × Nat) :
    (periodEnd s w pr).power = (setPair { s with freeTick := s.freeTick + 1, power := w } pr.1 pr.2).power := by
  unfold periodEnd
  extract_lets s1 s2
  have h2 : s2.power = s1.power := by
    simp only [s2]
    split
    · rfl
    · exact bump_power _ _ _
  split
  · exact (bump_power _ _ _).trans h2
  · exact h2

theorem periodEnd_stand {s : State} {w : Power} (hw : w.stands = s.power.stands) (pr : Nat × Nat) {k : Nat} (hk : k < 6) :
    ((periodEnd s w pr).stand k).gov = pr.1 ∧ ((periodEnd s w pr).stand k).ladder = (s.stand k).ladder := by
  have h := setPair_stand { s with freeTick := s.freeTick + 1, power := w } pr.1 pr.2 k
  rw [if_pos hk] at h
  rw [State.stand, periodEnd_power]
  rw [State.stand] at h
  rw [h]
  exact ⟨rfl, by rw [State.stand, State.stand, hw]⟩

/-- A control period, with the pair that it sets named. -/
theorem execGovernorPeriod_runs {s : State} (hr : s.ranger.up = true) (hp : s.power.pll = true) (p1 p100 : Nat) (tj : Int) :
    let w := s.power
    let now := envelopeNow s
    let drop := if tjMax s - 3 ≤ tj then min (w.drop + 1) now
      else if tj ≤ tjMax s - 6 ∧ w.cool = 9 then w.drop - 1 else min w.drop now
    let stuck := now * 500 < floorPower s ∨ ((s.stand 0).gov = 12 ∧ w.duty = 1 ∧ (now - drop) * 500 < p1)
    let pr := if w.floor = true ∨ stuck then (12, 1) else govPick s (now - drop) (rateShare (s.stand 0).gov w.duty)
    exec (.governorPeriod p1 p100 tj) s = .next (periodEnd s { w with
      work := now - drop
      drop := drop
      cool := if tj ≤ tjMax s - 6 then (w.cool + 1) % 10 else 0
      limit := if w.floor then 2 else if stuck then 3 else if pr = (6, 64) then 0 else if drop = 0 then 1 else 2
      tj := tj
      p1 := p1
      p100 := p100 } pr) := by
  intro w now drop stuck pr
  have hno : ¬((!s.ranger.up) = true ∨ (!s.power.pll) = true) := by rw [hr, hp]; decide
  have hstuck : ((decide (now * 500 < floorPower s) || ((s.stand 0).gov == 12 && w.duty == 1 && decide ((now - drop) * 500 < p1)))
      = true) = stuck := by
    simp only [stuck, Bool.or_eq_true, Bool.and_eq_true, decide_eq_true_eq, beq_iff_eq, and_assoc]
  rw [exec_governorPeriod, execGovernorPeriod, if_neg hno]
  extract_lets hot cool drop' work g0 stuck' pr' limit s1 s2
  have hpr : pr' = pr := by
    simp only [pr', pr]
    exact if_congr (or_congr Iff.rfl hstuck.to_iff) rfl rfl
  have hlimit : limit = if w.floor then 2 else if stuck then 3 else if pr = (6, 64) then 0 else if drop = 0 then 1 else 2 := by
    simp only [limit, hpr]
    exact if_congr Iff.rfl rfl (if_congr hstuck.to_iff rfl rfl)
  unfold periodEnd
  rw [← hlimit, ← hpr]

theorem execGovernorPeriod_leaves {s : State} (hr : s.ranger.up = true) (hp : s.power.pll = true) (p1 p100 : Nat) (tj : Int) :
    let w := s.power
    let now := envelopeNow s
    let drop := if tjMax s - 3 ≤ tj then min (w.drop + 1) now
      else if tj ≤ tjMax s - 6 ∧ w.cool = 9 then w.drop - 1 else min w.drop now
    let stuck := now * 500 < floorPower s ∨ ((s.stand 0).gov = 12 ∧ w.duty = 1 ∧ (now - drop) * 500 < p1)
    let pr := if w.floor = true ∨ stuck then (12, 1) else govPick s (now - drop) (rateShare (s.stand 0).gov w.duty)
    Answers (.governorPeriod p1 p100 tj) s fun t =>
      t.power.drop = drop ∧ t.power.work = now - drop ∧ t.power.tj = tj ∧ t.power.p1 = p1 ∧ t.power.p100 = p100
      ∧ t.power.duty = pr.2
      ∧ t.power.limit = (if w.floor then 2 else if stuck then 3 else if pr = (6, 64) then 0 else if drop = 0 then 1 else 2)
      ∧ ∀ k, k < 6 → (t.stand k).gov = pr.1 ∧ (t.stand k).ladder = (s.stand k).ladder := by
  refine ⟨_, execGovernorPeriod_runs hr hp p1 p100 tj, ?_⟩
  simp only [periodEnd_power]
  exact ⟨rfl, rfl, rfl, rfl, rfl, rfl, rfl, fun k hk => periodEnd_stand (by rfl) _ hk⟩

/-- Settles O50: the stands change by steps of the ladder, and the governor's pair is one that fits with the highest share. -/
theorem sagAndGovernor : Obligations.SagAndGovernor := by
  refine ⟨fun k s hk hp => ⟨fun ht => ⟨_, droopTrip_stand hk hp ht, ?_⟩, fun hd hc => ⟨?_, fun ht => ?_⟩, ?_, ?_,
    fun hl hd hf => ?_, fun hl hd hf => ?_, fun hl hd hf => ?_, fun hl ht => ?_, fun hs => ?_⟩, fun s hp hf => ?_,
    fun p1 p100 tj s hr hp => ?_, fun r s hch h => execEnvelopeSet_served hch h,
    fun a t s hup ht hbe => execEnvelopeReq_own hup ht hbe⟩
  · obtain ⟨h1, h2, h3, h4, h5⟩ := sensed_step (s := s) (k := k) (l := 8) (trip := true) (deep := (s.stand k).deep)
      (down := decide ((s.stand k).ladder ≤ 7))
    exact ⟨h1, h2, by simpa using h3, h4, h5⟩
  · obtain ⟨h1, h2, h3, -, h5⟩ := sensed_step (s := s) (k := k) (l := 12) (trip := (s.stand k).trip) (deep := true)
      (down := decide ((s.stand k).ladder ≤ 8))
    exact ⟨_, deepTrip_stand hk hp hd hc nofun, h2, h1, by simpa using h3, h5⟩
  · obtain ⟨h1, h2, h3, -, h5⟩ := sensed_step (s := s) (k := k) (l := 12) (trip := true) (deep := true) (down := true)
    exact ⟨_, deepTrip_stand hk hp hd hc fun _ => ht, h2, h1, h3, h5⟩
  · rw [exec_tripClear, execTripClear, sampling_stand hk hp, sensorDeep_stand hk, setSensor_stand hk s false]; rfl
  · rw [exec_tripClear, execTripClear, sampling_stand hk hp, setSensor_stand hk, sensorTrip_stand hk]; rfl
  · simp [exec_droopRecover, execDroopRecover, hp, hl, hd, hf, deepOn, Nat.not_le.mpr hk]
  · simp [exec_droopRecover, execDroopRecover, hp, hl, hd, hf, tripOn, Nat.not_le.mpr hk]
  · simp [exec_droopRecover, execDroopRecover, hp, hl, hd, hf, tripOn, Nat.not_le.mpr hk]
  · have : tripOn s k = true := by unfold tripOn; simpa using ht
    simp [exec_droopRecover, execDroopRecover, hp, hl, this]
  · rw [exec_droopStepDelivery, execDroopStepDelivery, if_neg (Nat.not_le.mpr hk), deliverDroop]
    simp only [hs]
    rfl
  · obtain ⟨h1, h2, -⟩ := fabric_steps (setSensor s 6 true (sensorDeep s 6)) (List.range 6) List.nodup_range
    refine ⟨_, ?_, h1, fun k hk => h2 k (List.mem_range.mpr hk)⟩
    rw [exec_droopTrip, execDroopTrip]
    simp only [sampling, hp, sensorTrip, hf]
    rfl
  · obtain ⟨t, ht, hdrop, hwork, htj, hp1, hp100, hduty, hlimit, hstand⟩ := execGovernorPeriod_leaves hr hp p1 p100 tj
    refine ⟨t, ht, hdrop, hwork, htj, hp1, hp100, _, hstand, fun hlow => ?_, fun hf hs => ?_⟩
    · rw [if_pos hlow] at hduty ⊢
      refine ⟨rfl, hduty, hlimit.trans ?_⟩
      rcases hlow with hf | hs
      · rw [if_pos hf, if_pos hf]
      · rw [if_pos hs]
    · have hno : ¬(s.power.floor = true ∨ _) := not_or.mpr ⟨by rw [hf]; exact Bool.false_ne_true, hs⟩
      rw [if_neg hno] at hduty hlimit ⊢
      rw [hf, if_neg Bool.false_ne_true, if_neg hs] at hlimit
      obtain ⟨hin, hmax⟩ := govPick_spec s (envelopeNow s - _) (rateShare (s.stand 0).gov s.power.duty)
      rw [hduty, hlimit]
      refine ⟨?_, ?_, ?_, ?_, fun q hq hle hfit => hmax q hq ⟨hle, hfit⟩, ?_⟩
      · rcases hin with hp | ⟨hp, -⟩
        · rw [hp]; exact .inr (.inr (.inr rfl))
        · exact (mem_govPairs hp).1
      · rcases hin with hp | ⟨hp, -⟩
        · rw [hp]
        · exact (mem_govPairs hp).2.1
      · rcases hin with hp | ⟨hp, -⟩
        · rw [hp]; decide
        · exact (mem_govPairs hp).2.2
      · exact hin.imp id And.right
      · simp only [Prod.ext_iff]

end Sys2Proof.Proofs

/-! The Beacon record, its owner and the keeper. -/

namespace Sys2Proof.Proofs

open Sys2Proof.Machine

theorem beaconOk_iff (b : BeaconRegs) : b.ok = true ↔ 1 ≤ b.w ∧ b.w ≤ 8192 ∧ 1 ≤ b.h ∧ b.h ≤ 8192 ∧ b.w ≤ b.stride
    ∧ b.off + (b.h - 1) * b.stride + b.w ≤ 1048576 := by
  simp only [BeaconRegs.ok, Bool.and_eq_true, decide_eq_true_eq, and_assoc]

/-! ### Commits by the Beacon owner -/

section
variable {s : State} {a : Access} {t n : Nat}

theorem commitBeacon_eq (s : State) (n : Nat) : commitBeacon s n = s.setOutput n (
    if (s.output n).src ≠ .off then { s.output n with commit := true }
    else if (s.output n).pend.ok then { s.output n with act := (s.output n).pend, commit := false, commitErr := 0 }
    else { s.output n with commit := false, commitErr := 1 }) := by
  unfold commitBeacon
  by_cases hs : (s.output n).src = .off
  · simp only [hs, ne_eq, not_true_eq_false, if_false, Output.applyCommit]; rfl
  · simp only [hs, ne_eq, not_false_eq_true, if_true, if_false]

theorem beaconWrite_accessible (hup : accUp s a = true) (ht : accTenant s a = some t) (part off : Nat) (locked ok : State) :
    beaconWrite s a part off locked ok = if beaconOwner s ≠ some t then accLog s a t 0x2 off
      else if s.prism.locks.contains part then accLog locked a t 0x4 off else ok := by
  rw [beaconWrite, hup, ht]; rfl

theorem execBeaconCommit_accessible (hn : n < 4) (hup : accUp s a = true) (ht : accTenant s a = some t) :
    exec (.beaconCommit a n) s = .next (if beaconOwner s ≠ some t then accLog s a t 0x2 (0x4000000 + 0x400018 + 0x1000 * n)
      else if s.prism.locks.contains (n / 2)
        then accLog (s.setOutput n { s.output n with commitErr := 2 }) a t 0x4 (0x4000000 + 0x400018 + 0x1000 * n)
      else commitBeacon s n) := by
  rw [exec_beaconCommit, execBeaconCommit, if_neg (Nat.not_le.mpr hn), beaconWrite_accessible hup ht, prismOff, ← Nat.add_assoc]

end

/-! ### The record of a frame -/

theorem countPoisoned_output (s : State) (k n : Nat) : (countPoisoned s k).output n = s.output n := by
  unfold countPoisoned
  split
  · rfl
  · unfold State.output; rw [bumpBy_prism]; rfl

theorem bumpBy_output (s : State) (u o k n : Nat) : (bumpBy s u o k).output n = s.output n := by
  unfold State.output; rw [bumpBy_prism]

theorem execBeaconPublish_frame {s : State} {n : Nat} (hn : n < 4) (hs : (s.output n).src ≠ .off) (hf : (s.output n).frame ≠ 0)
    (hb : (s.output n).busy = false) : Answers (.beaconPublish n) s fun t =>
      ∀ k, t.output k = if k = n then { s.output n with record :=
        ⟨(s.output n).frame, crcCheck 0 n ((s.output n).frame % 2 ^ 32) 0 (sourceBytes s n),
          crcCheck 0 n ((s.output n).frame % 2 ^ 32) 0 (outputBytes s n), recordFlags s n⟩ } else s.output k := by
  refine ⟨_, rfl, fun k => ?_⟩
  rw [if_neg (by simp [hs, hf, hb, Nat.not_le.mpr hn])]
  dsimp only
  rw [countPoisoned_output, bumpBy_output, State.setOutput_output]

/-! ### The sets that an engine reset discards -/

theorem dropSets_prism (l : List FlipSet) (s : State) :
    (l.foldl (fun s x => dropSet s x.id) s).prism =
      { s.prism with sets := s.prism.sets.filter fun x => l.all fun y => x.id != y.id } := by
  induction l generalizing s with
  | nil => simp
  | cons y l ih =>
    rw [List.foldl_cons, ih]
    simp only [dropSet, List.filter_filter, List.all_cons, Bool.and_comm]

theorem discardSets_prism (s : State) (p : FlipSet → Bool) : (discardSets s p).prism =
    { s.prism with sets := s.prism.sets.filter fun x => (s.prism.sets.filter p).all fun y => x.id != y.id } :=
  dropSets_prism _ _

theorem discardSets_output (s : State) (p : FlipSet → Bool) (n : Nat) : (discardSets s p).output n = s.output n := by
  unfold State.output; rw [discardSets_prism]

/-- No set for which `p` holds is left. -/
theorem not_mem_discardSets {s : State} {p : FlipSet → Bool} {x : FlipSet} (hx : x ∈ (discardSets s p).prism.sets) :
    p x = false := by
  rw [discardSets_prism] at hx
  obtain ⟨hmem, hall⟩ := List.mem_filter.mp hx
  refine Bool.eq_false_iff.mpr fun hp => ?_
  have := List.all_eq_true.mp hall x (List.mem_filter.mpr ⟨hmem, hp⟩)
  simp at this

theorem keeperEntry_eq {s : State} {n : Nat} (hs : (s.output n).src ≠ .off) (reset : Bool) :
    let v := s.setOutput n { s.output n with
      toKeeper := (s.output n).toKeeper || (s.output n).src != .keeper
      engineReset := (s.output n).engineReset || reset
      released := (s.output n).released && !reset }
    keeperEntry s n reset = if reset then discardSets v fun x => x.output == n else v := by
  unfold keeperEntry
  exact if_neg hs

/-- Settles O48: by the equation of each command on an output that is not OFF. -/
theorem beaconAndKeeper : Obligations.BeaconAndKeeper := by
  refine ⟨fun a n t s hn hup ht => ⟨fun ho => ?_, fun ho hl => ?_, fun ho hl => ?_⟩, beaconOk_iff, fun n s hn hs =>
    ⟨fun hb => ?_, fun hf hb => ?_, fun x y hsrc hb hx hy hu => ?_, ?_, ?_, fun hk hr hd => ?_⟩⟩
  · rw [execBeaconCommit_accessible hn hup ht, if_pos ho]
  · rw [execBeaconCommit_accessible hn hup ht, if_neg (not_not.mpr ho), if_pos (List.contains_iff_mem.mpr hl)]
  · rw [execBeaconCommit_accessible hn hup ht, if_neg (not_not.mpr ho), if_neg (mt List.contains_iff_mem.mp hl), commitBeacon_eq]
  · rw [exec_beaconPublish, execBeaconPublish]
    exact congrArg Host.Outcome.next (if_pos (.inr (.inr (.inr hb))))
  · obtain ⟨t, ht, hout⟩ := execBeaconPublish_frame hn hs hf hb
    exact ⟨t, ht, by rw [hout, if_pos rfl], fun k hk => by rw [hout, if_neg hk]⟩
  · rw [exec_pixelUnderrun, execPixelUnderrun, replacePixel]
    exact congrArg Host.Outcome.next (if_pos ⟨hsrc, hn, by simp [hb], hx, hy, by simpa using hu⟩)
  · rw [exec_keeperEntry, execKeeperEntry, keeperEntry_eq hs]
    simp
  · refine ⟨_, rfl, ?_, fun x hx => ?_⟩
    · rw [keeperEntry_eq hs, if_pos rfl, discardSets_output, State.setOutput_output, if_pos rfl]
      simp
    · rw [keeperEntry_eq hs, if_pos rfl] at hx
      simpa using not_mem_discardSets hx
  · rw [exec_keeperRelease, execKeeperRelease, if_neg (by simp [hk, hr, hd])]

end Sys2Proof.Proofs

/-! What settling faults, signals and poison can change: contexts fault, their queues stop, fences move, waits and commands
end, flip sets become ready or go. No output, no domain and no object changes, and nothing begins. -/

namespace Sys2Proof.Proofs

open Sys2Proof.Machine

/-- From `s` to `t` acts were carried out. -/
structure Settled (s t : State) : Prop where
  rest : t = { s with
    mem := t.mem, cores := t.cores, ctxs := t.ctxs, queues := t.queues, fences := t.fences, cmds := t.cmds, cuts := t.cuts
    renders := t.renders, sessions := t.sessions, lanes := t.lanes, sched := t.sched
    prism := { s.prism with sets := t.prism.sets, pages := t.prism.pages }
    ranger := { s.ranger with late := t.ranger.late, graphs := t.ranger.graphs }
    freeTick := t.freeTick, avail := t.avail, counters := t.counters, channels := t.channels, out := t.out, i3c := t.i3c
    ports := t.ports, tenants := t.tenants }
  cmds : t.cmds.Sublist s.cmds
  sets : ∀ x ∈ t.prism.sets, ∃ y ∈ s.prism.sets, x = { y with ready := x.ready, readyAt := x.readyAt }
  ctx : ∀ c, t.ctx c = { s.ctx c with st := (t.ctx c).st, block := (t.ctx c).block, faults := (t.ctx c).faults }
  ctxSt : ∀ c, (t.ctx c).st = (s.ctx c).st ∨ ((s.ctx c).st = .live ∧ (t.ctx c).st = .faulted)
  queue : ∀ q, t.queue q =
    { s.queue q with st := (t.queue q).st, wait := (t.queue q).wait, session := (t.queue q).session }
  queueSt : ∀ q, (t.queue q).st = (s.queue q).st ∨ (t.queue q).st = .stopped
  core : ∀ k, t.core k = { s.core k with
    l1 := (t.core k).l1, demand := (t.core k).demand, prefetch := (t.core k).prefetch, groups := (t.core k).groups }
  noGroups : ∀ k, (s.core k).groups = [] → (t.core k).groups = []
  group : ∀ g, t.group g = { s.group g with
    wait := (t.group g).wait, pc := (t.group g).pc, uregs := (t.group g).uregs }
  fence : ∀ f, t.fence f = { s.fence f with st := (t.fence f).st, flag := (t.fence f).flag, value := (t.fence f).value
                                            adv := (t.fence f).adv, moves := (t.fence f).moves }
  fenceFree : ∀ f, (t.fence f).st = .free ↔ (s.fence f).st = .free
  told : Told s t

namespace Settled

theorem refl (s : State) : Settled s s :=
  ⟨rfl, .refl _, fun x hx => ⟨x, hx, rfl⟩, fun _ => rfl, fun _ => .inl rfl, fun _ => rfl, fun _ => .inl rfl, fun _ => rfl,
    fun _ => id, fun _ => rfl, fun _ => rfl, fun _ => .rfl, .refl s⟩

theorem trans {a b c : State} (h : Settled a b) (k : Settled b c) : Settled a c where
  rest := by have hk := k.rest; rw [h.rest] at hk; exact hk
  cmds := k.cmds.trans h.cmds
  sets x hx := by
    obtain ⟨y, hy, hxy⟩ := k.sets x hx
    obtain ⟨z, hz, hyz⟩ := h.sets y hy
    exact ⟨z, hz, by rw [hyz] at hxy; exact hxy⟩
  ctx i := by have hk := k.ctx i; rw [h.ctx i] at hk; exact hk
  ctxSt i := by
    rcases k.ctxSt i with hk | ⟨hk, hf⟩
    · rw [hk]; exact h.ctxSt i
    · rcases h.ctxSt i with hh | ⟨hl, -⟩
      · exact .inr ⟨hh ▸ hk, hf⟩
      · exact .inr ⟨hl, hf⟩
  queue i := by have hk := k.queue i; rw [h.queue i] at hk; exact hk
  queueSt i := by
    rcases k.queueSt i with hk | hk
    · rw [hk]; exact h.queueSt i
    · exact .inr hk
  core i := by have hk := k.core i; rw [h.core i] at hk; exact hk
  noGroups i hi := k.noGroups i (h.noGroups i hi)
  group i := by have hk := k.group i; rw [h.group i] at hk; exact hk
  fence i := by have hk := k.fence i; rw [h.fence i] at hk; exact hk
  fenceFree i := (k.fenceFree i).trans (h.fenceFree i)
  told := h.told.trans k.told

theorem foldl {α : Type} {f : State → α → State} (h : ∀ s x, Settled s (f s x)) (l : List α) (s : State) :
    Settled s (l.foldl f s) := by
  induction l generalizing s with
  | nil => exact refl s
  | cons x xs ih => exact (h s x).trans (ih _)

/-- The same for a fold that also gathers acts. -/
theorem foldl_fst {α : Type} {f : State × List Act → α → State × List Act} (h : ∀ a x, Settled a.1 (f a x).1) (l : List α)
    (a : State × List Act) : Settled a.1 (l.foldl f a).1 := by
  induction l generalizing a with
  | nil => exact refl _
  | cons x xs ih => exact (h a x).trans (ih _)

variable {s t : State} (h : Settled s t)
include h

theorem fuses : t.fuses = s.fuses := (congrArg State.fuses h.rest :)
theorem flash : t.flash = s.flash := (congrArg State.flash h.rest :)
theorem boot : t.boot = s.boot := (congrArg State.boot h.rest :)
theorem cfg : t.cfg = s.cfg := (congrArg State.cfg h.rest :)
theorem timer : t.timer = s.timer := (congrArg State.timer h.rest :)
theorem maps : t.maps = s.maps := (congrArg State.maps h.rest :)
theorem objs : t.objs = s.objs := (congrArg State.objs h.rest :)
theorem bridges : t.bridges = s.bridges := (congrArg State.bridges h.rest :)
theorem nextCmd : t.nextCmd = s.nextCmd := (congrArg State.nextCmd h.rest :)
theorem engines : t.engines = s.engines := (congrArg State.engines h.rest :)
theorem engCtxs : t.engCtxs = s.engCtxs := (congrArg State.engCtxs h.rest :)
theorem bzCtxs : t.bzCtxs = s.bzCtxs := (congrArg State.bzCtxs h.rest :)
theorem power : t.power = s.power := (congrArg State.power h.rest :)
theorem outs : t.prism.outs = s.prism.outs := (congrArg (fun s => s.prism.outs) h.rest :)
theorem layers : t.prism.layers = s.prism.layers := (congrArg (fun s => s.prism.layers) h.rest :)
theorem compose : t.prism.compose = s.prism.compose := (congrArg (fun s => s.prism.compose) h.rest :)
theorem act : t.ranger.act = s.ranger.act := (congrArg (fun s => s.ranger.act) h.rest :)
theorem rangerSt : t.ranger.st = s.ranger.st := (congrArg (fun s => s.ranger.st) h.rest :)
theorem rangerUp : t.ranger.up = s.ranger.up := (congrArg (fun s => s.ranger.up) h.rest :)
theorem output (n : Nat) : t.output n = s.output n := by simp only [State.output, h.outs]
theorem obj (o : Nat) : t.obj o = s.obj o := by simp only [State.obj, h.objs]
theorem queueCtx (q : Nat) : (t.queue q).ctx = (s.queue q).ctx := by rw [h.queue q]
theorem ctxTenant (c : Nat) : (t.ctx c).tenant = (s.ctx c).tenant := by rw [h.ctx c]

/-- A context that is not LIVE stays as it is. -/
theorem ctxSt_of_ne {c : Nat} (hc : (s.ctx c).st ≠ .live) : (t.ctx c).st = (s.ctx c).st := by
  rcases h.ctxSt c with hs | ⟨hl, -⟩
  · exact hs
  · exact absurd hl hc

end Settled

/-! ### Each thing that acts do -/

theorem WritesOnly.settled {s t : State} (h : WritesOnly s t) : Settled s t where
  rest := by
    have hr := h.rest
    rw [← h.ctxs, ← h.queues, ← h.fences, ← h.cmds, ← h.cuts, ← h.renders, ← h.sessions, ← h.lanes, ← h.sched] at hr
    have hp : s.prism = { s.prism with sets := t.prism.sets, pages := t.prism.pages } := by rw [h.prism]
    have hg : s.ranger = { s.ranger with late := t.ranger.late, graphs := t.ranger.graphs } := by rw [h.ranger]
    rw [← hp, ← hg]
    exact hr
  cmds := by rw [h.cmds]
  sets x hx := ⟨x, h.prism ▸ hx, rfl⟩
  ctx c := by rw [h.ctx]
  ctxSt c := .inl (by rw [h.ctx])
  queue q := by rw [h.queue]
  queueSt q := .inl (by rw [h.queue])
  core k := by rw [h.groups k]; exact h.core k
  noGroups k hk := by rw [h.groups, hk]
  group g := by rw [h.group]
  fence f := by rw [h.fence]
  fenceFree f := by rw [h.fence]
  told := h.told

theorem Says.settled {s t : State} (h : Says s t) : Settled s t where
  rest := by
    have hr := h.rest
    rw [← h.ctxs, ← h.queues, ← h.fences, ← h.cmds, ← h.sessions, ← h.sched, ← h.mem, ← h.cores,
      ← h.avail, ← h.cuts] at hr
    have hp : s.prism = { s.prism with sets := t.prism.sets, pages := t.prism.pages } := by rw [h.prism]
    have hg : { s.ranger with late := t.ranger.late } =
        { s.ranger with late := t.ranger.late, graphs := t.ranger.graphs } := by rw [h.graphs]
    rw [← hp, ← hg, show t.renders = s.renders by rw [h.rest], show t.lanes = s.lanes by rw [h.rest],
      show t.freeTick = s.freeTick by rw [h.rest]]
    exact hr
  cmds := by rw [h.cmds]
  sets x hx := ⟨x, h.prism ▸ hx, rfl⟩
  ctx c := by simp only [State.ctx, h.ctxs]
  ctxSt c := .inl (by simp only [State.ctx, h.ctxs])
  queue q := by simp only [State.queue, h.queues]
  queueSt q := .inl (by simp only [State.queue, h.queues])
  core k := by simp only [State.core, h.cores]
  noGroups k hk := by rw [State.core, h.cores]; exact hk
  group g := by simp only [State.group, State.core, h.cores]
  fence f := by simp only [State.fence, h.fences]
  fenceFree f := by simp only [State.fence, h.fences]
  told := h.told

section
variable (s : State)

theorem settled_setGroup (g : GroupAt) {x : Group} (hg : (s.core g.core).groups ≠ []) (hx : x = { s.group g with wait := x.wait, pc := x.pc, uregs := x.uregs }) :
    Settled s (s.setGroup g x) where
  rest := rfl
  cmds := .refl _
  sets x hx := ⟨x, hx, rfl⟩
  ctx _ := rfl
  ctxSt _ := .inl rfl
  queue _ := rfl
  queueSt _ := .inl rfl
  core k := by
    simp only [State.setGroup, State.setCore_core]
    split
    next hk => rw [hk]; rfl
    next => rfl
  noGroups k hk := by
    simp only [State.setGroup, State.setCore_core]
    split
    next he => exact absurd (he ▸ hk) hg
    next => exact hk
  group h := by
    rw [State.group_setGroup]
    split
    next hk => rw [show s.group h = s.group g by simp only [State.group, hk]]; exact hx
    next => rfl
  fence _ := rfl
  fenceFree _ := .rfl
  told := .of_eq rfl rfl rfl

theorem settled_setCtx (c : Nat) {x : Ctx} (hx : x = { s.ctx c with st := x.st, block := x.block, faults := x.faults })
    (hst : x.st = (s.ctx c).st ∨ ((s.ctx c).st = .live ∧ x.st = .faulted)) : Settled s (s.setCtx c x) where
  rest := rfl
  cmds := .refl _
  sets x hx := ⟨x, hx, rfl⟩
  ctx k := by
    rw [State.setCtx_ctx]
    split
    next hk => rw [hk]; exact hx
    next => rfl
  ctxSt k := by
    rw [State.setCtx_ctx]
    split
    next hk => rw [hk]; exact hst
    next => exact .inl rfl
  queue _ := rfl
  queueSt _ := .inl rfl
  core _ := rfl
  noGroups _ := id
  group _ := rfl
  fence _ := rfl
  fenceFree _ := .rfl
  told := .of_eq rfl rfl rfl

theorem settled_setQueue (q : Nat) {x : Queue} (hx : x = { s.queue q with st := x.st, wait := x.wait, session := x.session })
    (hst : x.st = (s.queue q).st ∨ x.st = .stopped) : Settled s (s.setQueue q x) where
  rest := rfl
  cmds := .refl _
  sets x hx := ⟨x, hx, rfl⟩
  ctx _ := rfl
  ctxSt _ := .inl rfl
  queue k := by
    rw [State.setQueue_queue]
    split
    next hk => rw [hk]; exact hx
    next => rfl
  queueSt k := by
    rw [State.setQueue_queue]
    split
    next hk => rw [hk]; exact hst
    next => exact .inl rfl
  core _ := rfl
  noGroups _ := id
  group _ := rfl
  fence _ := rfl
  fenceFree _ := .rfl
  told := .of_eq rfl rfl rfl

theorem settled_setFence (f : Nat) {x : Fence}
    (hx : x = { s.fence f with st := x.st, flag := x.flag, value := x.value, adv := x.adv, moves := x.moves })
    (hst : x.st = .free ↔ (s.fence f).st = .free) : Settled s (s.setFence f x) where
  rest := rfl
  cmds := .refl _
  sets x hx := ⟨x, hx, rfl⟩
  ctx _ := rfl
  ctxSt _ := .inl rfl
  queue _ := rfl
  queueSt _ := .inl rfl
  core _ := rfl
  noGroups _ := id
  group _ := rfl
  fence k := by
    rw [State.setFence_fence]
    split
    next hk => rw [hk]; exact hx
    next => rfl
  fenceFree k := by
    rw [State.setFence_fence]
    split
    next hk => rw [hk]; exact hst
    next => rfl
  told := .of_eq rfl rfl rfl

/-- Commands end, with what belongs to them. -/
theorem settled_cmds {l : Tbl Cmd} (hl : l.Sublist s.cmds) (cuts : Tbl CutPass) (renders : Tbl RenderPass) (sched : Sched) :
    Settled s { s with cmds := l, cuts := cuts, renders := renders, sched := sched } :=
  { Settled.refl s with rest := rfl, told := .of_eq rfl rfl rfl, cmds := hl }

/-- Flip sets go or become ready. -/
theorem settled_sets {l : List FlipSet} (hl : ∀ x ∈ l, ∃ y ∈ s.prism.sets, x = { y with ready := x.ready, readyAt := x.readyAt })
    (pages : Tbl FlipPage) (sched : Sched) :
    Settled s { s with prism := { s.prism with sets := l, pages := pages }, sched := sched } :=
  { Settled.refl s with rest := rfl, told := .of_eq rfl rfl rfl, sets := hl }

theorem tdrop_sublist {α : Type} (t : Tbl α) (p : Nat → Bool) : (tdrop t p).Sublist t := List.filter_sublist

theorem settled_finishCmd (id : Nat) : Settled s (finishCmd s id) := by
  unfold finishCmd
  split
  · exact .refl s
  · refine Settled.trans ?_ (writesOnly_report _ _).settled
    exact settled_cmds s (tdrop_sublist _ _) _ _ _

theorem settled_setBlock (c off n v : Nat) : Settled s (setBlock s c off n v) :=
  (settled_setCtx s c (by rfl) (.inl (by rfl))).trans (writesOnly_setBlock s c off n v).settled

theorem settled_incBlock (c off : Nat) : Settled s (incBlock s c off) := settled_setBlock _ _ _ _ _

theorem settled_endFwait (g : GroupAt) (status : Nat) : Settled s (endFwait s g status) := by
  unfold endFwait
  extract_lets x
  split
  next hwait =>
    extract_lets src y s1
    have hg : (s.core g.core).groups ≠ [] := fun hnil => by
      rw [show x = .empty by rw [show x = s.group g from rfl, State.group, Core.group, hnil]; rfl] at hwait
      cases hwait
    have h1 : Settled s s1 := settled_setGroup s g hg (x := y) (by rfl)
    split
    · exact h1.trans (settled_incBlock _ _ _)
    · split
      · exact h1.trans (settled_incBlock _ _ _)
      · exact h1
  next => exact .refl s

theorem settled_endFwaits (f : Nat) : Settled s (endFwaits s f) := by
  refine Settled.foldl (fun s e => ?_) _ s
  split
  · exact settled_endFwait _ _ _
  · exact .refl s

theorem settled_setTenant (t : Nat) {x : Tenant} (hx : x = { s.tenant t with
    log := x.log, logNext := x.logNext, logTotal := x.logTotal, waits := x.waits }) : Settled s (s.setTenant t x) := by
  refine { Settled.refl s with rest := rfl, told := { Told.refl s with tenant := fun k => ?_ } }
  rw [State.setTenant_tenant]
  split
  next hk => rw [hk]; exact hx
  next => rfl

theorem settled_endHostWaits (f : Nat) : Settled s (endHostWaits s f) := by
  refine Settled.foldl (fun s e => Settled.foldl (fun s he => ?_) _ s) _ s
  split
  · split
    · exact (settled_setTenant _ _ rfl).trans (says_notifyTenant _ _ _).settled
    · exact .refl s
  · exact .refl s

theorem settled_endQwaits (f : Nat) : Settled s (endQwaits s f).1 := by
  refine Settled.foldl_fst (fun a e => ?_) _ (s, [])
  split
  · exact .refl _
  · split
    · exact .refl _
    · split
      · exact .refl _
      · exact (settled_setQueue _ _ (by rfl) (.inl (by rfl))).trans (settled_finishCmd _ _)
      · exact .refl _

theorem settled_dropSet (id : Nat) : Settled s (dropSet s id) :=
  settled_sets s (fun x hx => ⟨x, List.mem_of_mem_filter hx, rfl⟩) _ _

theorem settled_noteLast (x : FlipSet) (outcome : Nat) : Settled s (noteLast s x outcome) :=
  settled_sets s (fun x hx => ⟨x, hx, rfl⟩) _ _

theorem settled_failSet (x : FlipSet) : Settled s (failSet s x).1 :=
  ((settled_dropSet s x.id).trans (settled_noteLast _ _ _)).trans (says_bump _ _ _).settled

theorem settled_readySet (x : FlipSet) : Settled s (readySet s x) := by
  refine settled_sets s (fun z hz => ?_) _ _
  obtain ⟨y, hy, rfl⟩ := List.mem_map.mp hz
  exact ⟨y, hy, by split <;> rfl⟩

theorem settled_evalSet (x : FlipSet) : Settled s (evalSet s x).1 := by
  unfold evalSet
  split
  · exact settled_failSet _ _
  · split
    · exact settled_readySet _ _
    · exact .refl _

theorem settled_endFlips (f : Nat) : Settled s (endFlips s f).1 := by
  refine Settled.foldl_fst (fun a x => ?_) _ (s, [])
  split
  · exact settled_evalSet a.1 x
  · exact .refl _

theorem settled_endWaits (f : Nat) : Settled s (endWaits s f).1 :=
  (((settled_endFwaits s f).trans (settled_endHostWaits _ f)).trans (settled_endQwaits _ f)).trans (settled_endFlips _ f)

theorem settled_logPlain (t kind off : Nat) : Settled s (logPlain s t kind off) := (says_logTenant _ _ _).settled

theorem settled_regress (src : SigSrc) (f : Nat) (v : DWord) : Settled s (regress s src f v) := by
  cases src with
  | ctx c code q =>
    exact (((((((settled_incBlock _ _ _).trans (settled_setBlock _ _ _ _ _)).trans (settled_setBlock _ _ _ _ _)).trans
      (settled_setBlock _ _ _ _ _)).trans (settled_setBlock _ _ _ _ _)).trans (settled_setBlock _ _ _ _ _)).trans
      (settled_setBlock _ _ _ _ _)).trans (says_postEventOn _ _ _ _).settled
  | tenant t => exact settled_logPlain _ _ _ _
  | bar t rid => exact (says_logTenant _ _ _).settled
  | flume => exact .refl s

theorem settled_applySignal (src : SigSrc) (f : Nat) (v : DWord) : Settled s (applySignal s src f v).1 := by
  unfold applySignal
  extract_lets x
  split
  · exact .refl s
  next hst =>
    split
    next y _ hy =>
      have hmoved : y = { x with st := y.st, flag := y.flag, value := y.value, adv := y.adv } ∧ y.st ≠ .free := by
        unfold Fence.signal at hy
        split at hy
        · extract_lets c w d at hy
          split at hy
          · cases hy
          · split at hy
            · cases hy
            · obtain rfl := Option.some.inj (Prod.mk.inj hy).1
              exact ⟨rfl, hst⟩
        · split at hy
          · obtain rfl := Option.some.inj (Prod.mk.inj hy).1
            refine ⟨rfl, ?_⟩
            dsimp only
            split
            · exact nofun
            · exact hst
          · cases hy
      refine Settled.trans (settled_setFence s f (x := { y with moves := x.noteMove s.timer }) ?_
        ⟨fun h => absurd h hmoved.2, fun h => absurd h hst⟩) (settled_endWaits _ f)
      obtain ⟨hy, -⟩ := hmoved
      generalize y.st = a, y.flag = b, y.value = c, y.adv = d at hy
      rw [hy]
    · exact settled_regress _ _ _ _
    · exact .refl s

theorem settled_applyPoison (f : Nat) : Settled s (applyPoison s f).1 := by
  unfold applyPoison
  extract_lets x
  split
  next hst =>
    refine Settled.trans (settled_setFence s f (by rfl) ⟨fun h => ?_, fun h => ?_⟩) (settled_endWaits _ f)
    · cases h
    · rw [show x.st = .free from h] at hst
      cases hst
  next => exact .refl s

/-! ### A fault -/

theorem dropSession_queue (i q : Nat) : (dropSession s i).queue q =
    if (s.queue q).session = some i then { s.queue q with session := none } else s.queue q :=
  tget_tmap s.queues (fun _ q => if q.session = some i then { q with session := none } else q) q .free rfl

theorem settled_dropSession (i : Nat) : Settled s (dropSession s i) where
  rest := rfl
  cmds := .refl _
  sets x hx := ⟨x, hx, rfl⟩
  ctx _ := rfl
  ctxSt _ := .inl rfl
  queue q := by
    rw [dropSession_queue]
    split <;> rfl
  queueSt q := by
    rw [dropSession_queue]
    split <;> exact .inl rfl
  core _ := rfl
  noGroups _ := id
  group _ := rfl
  fence _ := rfl
  fenceFree _ := .rfl
  told := .of_eq rfl rfl rfl

theorem settled_abandonSessions (c : Nat) : Settled s (abandonSessions s c) := by
  refine Settled.foldl (fun s e => ?_) _ s
  split
  · unfold abandonSession
    refine Settled.trans ?_ (settled_dropSession _ _)
    split
    · split
      · exact (writesOnly_physWrite _ _ _ _).settled
      · exact .refl s
    · exact .refl s
  · exact .refl s

theorem settled_endRun (g status detail : Nat) : Settled s (endRun s g status detail) := by
  unfold endRun
  split
  · exact .refl s
  · split
    · exact .refl s
    · extract_lets r s1 s2
      have h1 : Settled s s1 := { Settled.refl s with rest := rfl, told := .of_eq rfl rfl rfl }
      have h2 : Settled s1 s2 := by
        unfold s2
        split
        · exact settled_dropSession _ _
        · exact .refl _
      refine (h1.trans h2).trans (.trans ?_ (says_finalOn _ _ _ _ _ _ _).settled)
      exact { Settled.refl s2 with rest := rfl, told := .of_eq rfl rfl rfl }

theorem settled_endRunsOf (c status detail : Nat) : Settled s (endRunsOf s c status detail) := by
  refine Settled.foldl (fun s e => ?_) _ s
  split
  · exact settled_endRun _ _ _ _
  · exact .refl s

theorem settled_putRecord (c : Nat) (bs : List Byte) : Settled s (putRecord s c bs) :=
  (settled_setCtx s c (by rfl) (.inl (by rfl))).trans (writesOnly_objWrite _ _ _ _ _).settled

theorem settled_setCtxSt (c : Nat) {st : CtxSt} (hst : st = (s.ctx c).st ∨ ((s.ctx c).st = .live ∧ st = .faulted)) :
    Settled s (setCtxSt s c st) :=
  (settled_setCtx s c (by rfl) hst).trans (settled_setBlock _ _ _ _ _)

theorem discardWaits_queue_eq (c q : Nat) : (discardWaits s c).queue q =
    if (s.queue q).ctx = c && (s.queue q).st != .free then { s.queue q with wait := none } else s.queue q :=
  tget_tmap s.queues (fun _ q => if q.ctx = c && q.st != .free then { q with wait := none } else q) q .free (by split <;> rfl)

theorem discardWaits_core (c k : Nat) : (discardWaits s c).core k = { s.core k with
    groups := tmap (s.core k).groups fun _ g => if g.ctx = c then (match g.wait with
      | .fence _ _ _ _ => { g with wait := .none }
      | _ => g) else g } :=
  tget_tmap s.cores (fun _ k => { k with groups := tmap k.groups fun _ g => if g.ctx = c then (match g.wait with
    | .fence _ _ _ _ => { g with wait := .none }
    | _ => g) else g }) k .reset rfl

theorem settled_discardWaits (c : Nat) : Settled s (discardWaits s c) where
  rest := rfl
  cmds := .refl _
  sets x hx := ⟨x, hx, rfl⟩
  ctx _ := rfl
  ctxSt _ := .inl rfl
  queue q := by
    rw [discardWaits_queue_eq]
    split <;> rfl
  queueSt q := .inl (discardWaits_queue s c q).2
  core k := by rw [discardWaits_core]
  noGroups k hk := by rw [discardWaits_core, hk]; rfl
  group g := by
    have h := discardWaits_group s c g
    unfold Unwaiting at h
    rw [h]
    split
    · split <;> rfl
    · rfl
  fence _ := rfl
  fenceFree _ := .rfl
  told := .of_eq rfl rfl rfl

theorem settled_stopQueues (c : Nat) : Settled s (stopQueues s c) := by
  refine Settled.foldl (fun s e => ?_) _ s
  split
  · exact (settled_setQueue s e.1 (by rfl) (.inr (by rfl))).trans (writesOnly_report _ _).settled
  · exact .refl s

theorem settled_applyFault (f : CtxFault) : Settled s (applyFault s f).1 := by
  cases hst : (s.ctx f.ctx).st with
  | live =>
    rw [applyFault_live hst]
    have h0 : Settled s (endRunsOf (abandonSessions s f.ctx) f.ctx rRefused 0x20FF) :=
      (settled_abandonSessions s _).trans (settled_endRunsOf _ _ _ _)
    have hctx := ((closes_abandonSessions s f.ctx).trans (closes_endRunsOf _ f.ctx rRefused 0x20FF)).ctx f.ctx
    refine h0.trans (.trans (settled_setCtx _ f.ctx (by rw [hctx]) (.inl (by rw [hctx]))) (.trans (settled_putRecord _ _ _)
      (.trans (settled_setCtxSt _ _ (.inr ⟨?_, rfl⟩)) (.trans (settled_discardWaits _ _) (settled_stopQueues _ _)))))
    rw [putRecord_ctx, if_pos rfl, State.setCtx_ctx, if_pos rfl]
    exact hst
  | faulted =>
    simp only [applyFault, hst]
    exact (settled_setCtx s f.ctx (by rfl) (.inl hst.symm)).trans (settled_setBlock _ _ _ _ _)
  | free => simp only [applyFault, hst]; exact .refl s
  | resetting => simp only [applyFault, hst]; exact .refl s
  | destroying => simp only [applyFault, hst]; exact .refl s

theorem settled_applyAct (a : Act) : Settled s (applyAct s a).1 := by
  cases a with
  | fault f => exact settled_applyFault s f
  | signal src f v => exact settled_applySignal s src f v
  | devSignal src t c f v =>
    simp only [applyAct]
    split
    · exact settled_applySignal s src f v
    · exact settled_logPlain s _ _ _
  | poison f => exact settled_applyPoison s f
  | waitFault f n =>
    simp only [applyAct]
    split
    · exact (settled_setBlock s _ _ _ _).trans (settled_applyFault _ f)
    · exact settled_applyFault s f

end

theorem settled_settleN (n : Nat) (as : List Act) (s : State) : Settled s (settleN n as s) := by
  induction n generalizing as s with
  | zero => exact .refl s
  | succ n ih =>
    cases as with
    | nil => exact .refl s
    | cons a r => exact (settled_applyAct s a).trans (ih _ _)

theorem settled_settle (as : List Act) (s : State) : Settled s (settle as s) := settled_settleN _ _ _

theorem settled_raise (s : State) (f : CtxFault) : Settled s (raise s f) := settled_settle _ _

end Sys2Proof.Proofs

/-! What taking work off the part can change: besides what settling can, the work on the cores and engines goes. -/

namespace Sys2Proof.Proofs

open Sys2Proof.Machine

/-- From `s` to `t` work was discarded, with what that causes. -/
structure Discards (s t : State) : Prop where
  rest : t = { s with
    mem := t.mem, cores := t.cores, ctxs := t.ctxs, queues := t.queues, fences := t.fences, cmds := t.cmds, cuts := t.cuts
    renders := t.renders, sessions := t.sessions, lanes := t.lanes, sched := t.sched
    engines := t.engines, engCtxs := t.engCtxs, bzCtxs := t.bzCtxs
    prism := { s.prism with sets := t.prism.sets, pages := t.prism.pages }
    ranger := { s.ranger with late := t.ranger.late, graphs := t.ranger.graphs }
    freeTick := t.freeTick, avail := t.avail, counters := t.counters, channels := t.channels, out := t.out, i3c := t.i3c
    ports := t.ports, tenants := t.tenants }
  cmds : t.cmds.Sublist s.cmds
  sets : ∀ x ∈ t.prism.sets, ∃ y ∈ s.prism.sets, x = { y with ready := x.ready, readyAt := x.readyAt }
  ctx : ∀ c, t.ctx c = { s.ctx c with st := (t.ctx c).st, block := (t.ctx c).block, faults := (t.ctx c).faults }
  ctxSt : ∀ c, (t.ctx c).st = (s.ctx c).st ∨ ((s.ctx c).st = .live ∧ (t.ctx c).st = .faulted)
  queue : ∀ q, t.queue q = { s.queue q with
    st := (t.queue q).st, wait := (t.queue q).wait, session := (t.queue q).session, read := (t.queue q).read }
  queueSt : ∀ q, (t.queue q).st = (s.queue q).st ∨ (t.queue q).st = .stopped
  noWork : ∀ k, (s.core k).groups = [] ∧ (s.core k).wgs = [] → (t.core k).groups = [] ∧ (t.core k).wgs = []
  fence : ∀ f, t.fence f = { s.fence f with st := (t.fence f).st, flag := (t.fence f).flag, value := (t.fence f).value
                                            adv := (t.fence f).adv, moves := (t.fence f).moves }
  fenceFree : ∀ f, (t.fence f).st = .free ↔ (s.fence f).st = .free
  told : Told s t

theorem Settled.discards {s t : State} (h : Settled s t) : Discards s t where
  rest := by
    have hr := h.rest
    rw [← h.engines, ← h.engCtxs, ← h.bzCtxs] at hr
    exact hr
  cmds := h.cmds
  sets := h.sets
  ctx := h.ctx
  ctxSt := h.ctxSt
  queue q := by
    have hq : (t.queue q).read = (s.queue q).read := by rw [h.queue q]
    rw [hq]
    exact h.queue q
  queueSt := h.queueSt
  noWork k hk := ⟨h.noGroups k hk.1, by rw [h.core k]; exact hk.2⟩
  fence := h.fence
  fenceFree := h.fenceFree
  told := h.told

namespace Discards

theorem refl (s : State) : Discards s s := (Settled.refl s).discards

theorem trans {a b c : State} (h : Discards a b) (k : Discards b c) : Discards a c where
  rest := by have hk := k.rest; rw [h.rest] at hk; exact hk
  cmds := k.cmds.trans h.cmds
  sets x hx := by
    obtain ⟨y, hy, hxy⟩ := k.sets x hx
    obtain ⟨z, hz, hyz⟩ := h.sets y hy
    exact ⟨z, hz, by rw [hyz] at hxy; exact hxy⟩
  ctx i := by have hk := k.ctx i; rw [h.ctx i] at hk; exact hk
  ctxSt i := by
    rcases k.ctxSt i with hk | ⟨hk, hf⟩
    · rw [hk]; exact h.ctxSt i
    · rcases h.ctxSt i with hh | ⟨hl, -⟩
      · exact .inr ⟨hh ▸ hk, hf⟩
      · exact .inr ⟨hl, hf⟩
  queue i := by have hk := k.queue i; rw [h.queue i] at hk; exact hk
  queueSt i := by
    rcases k.queueSt i with hk | hk
    · rw [hk]; exact h.queueSt i
    · exact .inr hk
  noWork i hi := k.noWork i (h.noWork i hi)
  fence i := by have hk := k.fence i; rw [h.fence i] at hk; exact hk
  fenceFree i := (k.fenceFree i).trans (h.fenceFree i)
  told := h.told.trans k.told

theorem foldl {α : Type} {f : State → α → State} (h : ∀ s x, Discards s (f s x)) (l : List α) (s : State) :
    Discards s (l.foldl f s) := by
  induction l generalizing s with
  | nil => exact refl s
  | cons x xs ih => exact (h s x).trans (ih _)

variable {s t : State} (h : Discards s t)
include h

theorem fuses : t.fuses = s.fuses := (congrArg State.fuses h.rest :)
theorem flash : t.flash = s.flash := (congrArg State.flash h.rest :)
theorem boot : t.boot = s.boot := (congrArg State.boot h.rest :)
theorem cfg : t.cfg = s.cfg := (congrArg State.cfg h.rest :)
theorem timer : t.timer = s.timer := (congrArg State.timer h.rest :)
theorem maps : t.maps = s.maps := (congrArg State.maps h.rest :)
theorem objs : t.objs = s.objs := (congrArg State.objs h.rest :)
theorem bridges : t.bridges = s.bridges := (congrArg State.bridges h.rest :)
theorem nextCmd : t.nextCmd = s.nextCmd := (congrArg State.nextCmd h.rest :)
theorem power : t.power = s.power := (congrArg State.power h.rest :)
theorem outs : t.prism.outs = s.prism.outs := (congrArg (fun s => s.prism.outs) h.rest :)
theorem layers : t.prism.layers = s.prism.layers := (congrArg (fun s => s.prism.layers) h.rest :)
theorem compose : t.prism.compose = s.prism.compose := (congrArg (fun s => s.prism.compose) h.rest :)
theorem act : t.ranger.act = s.ranger.act := (congrArg (fun s => s.ranger.act) h.rest :)
theorem rangerSt : t.ranger.st = s.ranger.st := (congrArg (fun s => s.ranger.st) h.rest :)
theorem rangerUp : t.ranger.up = s.ranger.up := (congrArg (fun s => s.ranger.up) h.rest :)
theorem output (n : Nat) : t.output n = s.output n := by simp only [State.output, h.outs]
theorem obj (o : Nat) : t.obj o = s.obj o := by simp only [State.obj, h.objs]
theorem queueCtx (q : Nat) : (t.queue q).ctx = (s.queue q).ctx := by rw [h.queue q]
theorem ctxTenant (c : Nat) : (t.ctx c).tenant = (s.ctx c).tenant := by rw [h.ctx c]

theorem ctxSt_of_ne {c : Nat} (hc : (s.ctx c).st ≠ .live) : (t.ctx c).st = (s.ctx c).st := by
  rcases h.ctxSt c with hs | ⟨hl, -⟩
  · exact hs
  · exact absurd hl hc

end Discards

theorem WritesOnly.discards {s t : State} (h : WritesOnly s t) : Discards s t := h.settled.discards
theorem Says.discards {s t : State} (h : Says s t) : Discards s t := h.settled.discards

section
variable (s : State)

/-- Work goes from the engines. -/
theorem discards_engines (engines : Tbl Engine) (engCtxs : Tbl EngCtx) (bzCtxs : Tbl BzCtx) (freeTick : Nat) :
    Discards s { s with engines := engines, engCtxs := engCtxs, bzCtxs := bzCtxs, freeTick := freeTick } :=
  { Discards.refl s with rest := rfl, told := .of_eq rfl rfl rfl }

theorem discards_setCore (k : Nat) {c : Core} (hg : c.groups = (s.core k).groups) (hw : c.wgs = (s.core k).wgs) :
    Discards s (s.setCore k c) :=
  { Discards.refl s with
    rest := rfl
    told := .of_eq rfl rfl rfl
    noWork := fun j hj => by
      rw [State.setCore_core]
      split
      next he => rw [hg, hw, ← he]; exact hj
      next => exact hj }

theorem discards_setBz (z : Nat) (x : BzCtx) : Discards s (setBz s z x) := discards_engines s _ _ _ _

/-! ### Requeued tensor instructions -/

theorem readsOnly_pieces {fuel : Nat} {s t : State} {c va n : Nat} {ps : List (Nat × Nat × Bool)}
    (h : pieces fuel s c va n = .ok (ps, t)) : ReadsOnly s t := by
  induction fuel generalizing s va n ps with
  | zero => cases h; exact .refl _
  | succ fuel ih =>
    unfold pieces at h
    split at h
    · cases h; exact .refl _
    · split at h
      · cases h
      next p s1 hp =>
        dsimp only at h
        split at h
        · cases h
        next r s2 hr =>
          cases h
          exact (readsOnly_locate hp).trans (ih hr)

theorem discards_startEntry (core : Nat) (e : TqEntry) : Discards s (startEntry s core e) := by
  unfold startEntry
  extract_lets c
  split
  · extract_lets old new c1
    exact (discards_setCore s core (by rfl) (by rfl)).trans (discards_engines _ _ _ _ _)
  · exact discards_setCore s core (by rfl) (by rfl)

theorem settled_notePoison (a : AccFault) : Settled s (notePoison s a) := by
  unfold notePoison
  split
  · exact (readsOnly_metPoison s).writesOnly.settled
  · exact .refl s

theorem settled_entryFaults (core : Nat) (q : TqEntry) (a : AccFault) : Settled s (entryFaults s core q a) :=
  (settled_notePoison s a).trans (settled_raise _ _)

theorem discards_requeueNext (core : Nat) : Discards s (requeueNext s core) := by
  unfold requeueNext
  extract_lets c
  split
  · exact .refl s
  · split
    · exact .refl s
    · split
      · split
        · exact (discards_setCore s core (by rfl) (by rfl)).trans (settled_entryFaults _ _ _ _).discards
        next s1 hp =>
          exact ((readsOnly_pieces hp).writesOnly.discards.trans (discards_setCore s1 core (by rfl) (by rfl))).trans (discards_startEntry _ _ _)
      · exact (discards_setCore s core (by rfl) (by rfl)).trans (discards_startEntry _ _ _)

theorem discards_requeueAll (n : Nat) (s : State) (core : Nat) : Discards s (requeueAll n s core) := by
  induction n generalizing s with
  | zero => exact .refl s
  | succ n ih => exact (discards_requeueNext s core).trans (ih _)

theorem discards_requeueOn (core : Nat) : Discards s (requeueOn s core) := discards_requeueAll _ _ _

theorem discards_requeueEvery (s : State) : Discards s (requeueEvery s) := by
  unfold requeueEvery
  refine Discards.foldl (f := fun (s : State) (e : Nat × Core) => requeueOn s e.1) (fun s e => ?_) s.cores s
  exact discards_requeueOn s e.1

/-! ### Commands, engines and contexts -/

/-- A core without groups and workgroups has none after commands are dropped. -/
theorem dropCmds_noWork {c : Core} (p : Nat → Bool) (hg : c.groups = []) (hw : c.wgs = []) :
    (c.dropCmds p).groups = [] ∧ (c.dropCmds p).wgs = [] := by
  have hwgs : (c.dropWgs fun w => p w.cmd).groups = [] ∧ (c.dropWgs fun w => p w.cmd).wgs = [] := by
    unfold Core.dropWgs
    extract_lets gone slots c1
    have hslots : slots = [] := List.filter_eq_nil_iff.mpr fun k _ => by
      rw [Core.group, hg]; exact Bool.false_ne_true
    have hc1 : c1 = c := by simp only [c1, hslots, List.foldl_nil]
    rw [hc1]
    exact ⟨hg, by rw [hw]; rfl⟩
  unfold Core.dropCmds
  extract_lets c1 c2
  split
  · split
    · exact hwgs
    · exact hwgs
  · exact hwgs

theorem dropCmds_reset (p : Nat → Bool) : Core.reset.dropCmds p = .reset := by
  have hslots : (List.range 64).filter (fun k => (Core.reset.group k).live && ((List.range 32).filter fun k =>
      (Core.reset.wgAt k).live && p (Core.reset.wgAt k).cmd).contains (Core.reset.group k).wg) = [] :=
    List.filter_eq_nil_iff.mpr fun k _ => Bool.false_ne_true
  unfold Core.dropCmds Core.dropWgs
  dsimp only
  rw [hslots]
  rfl

theorem discards_dropCommands (p : Nat × Cmd → Bool) : Discards s (dropCommands s p) := by
  unfold dropCommands
  extract_lets ids mine s1 ps sv cp
  refine Discards.trans ?_ (discards_requeueEvery _)
  refine { Discards.refl s with rest := rfl, told := .of_eq rfl rfl rfl, cmds := tdrop_sublist _ _, noWork := fun k hk => ?_ }
  have hcore : (s1.core k) = { (s.core k).dropCmds mine with stores := (s.core k).stores.filter fun x => !mine x.cmd } :=
    tget_tmap s.cores (fun _ c => { c.dropCmds mine with stores := c.stores.filter fun x => !mine x.cmd }) k .reset
      (by rw [dropCmds_reset]; rfl)
  obtain ⟨hg, hw⟩ := dropCmds_noWork mine hk.1 hk.2
  exact ⟨(congrArg Core.groups hcore).trans hg, (congrArg Core.wgs hcore).trans hw⟩

/-- No command for which `p` holds is left. -/
theorem not_mem_dropCommands {p : Nat × Cmd → Bool} {e : Nat × Cmd} (he : e ∈ (dropCommands s p).cmds) : p e = false := by
  have hsub : e ∈ tdrop s.cmds ((s.cmds.filter p).map Prod.fst).contains := by
    unfold dropCommands at he
    exact (discards_requeueEvery _).cmds.subset he
  obtain ⟨hmem, hno⟩ := List.mem_filter.mp hsub
  refine Bool.eq_false_iff.mpr fun hp => ?_
  have hin : e.1 ∈ (s.cmds.filter p).map Prod.fst := List.mem_map.mpr ⟨e, List.mem_filter.mpr ⟨hmem, hp⟩, rfl⟩
  simp only [List.contains_iff_mem.mpr hin, Bool.not_true, Bool.false_eq_true] at hno

theorem says_xferFinal (c : Nat) (x : Xfer) (status detail out code d at_ : Nat) :
    Says s (xferFinal s c x status detail out code d at_) := says_finalOn _ _ _ _ _ _ _

theorem discards_detachBz (b : Option (Nat × Bool)) : Discards s (detachBz s b) := by
  cases b with
  | none => exact .refl s
  | some z => exact discards_setBz s _ _

theorem discards_stopEngCtx (c : Nat) : Discards s (stopEngCtx s c) := by
  unfold stopEngCtx
  extract_lets s1 e s2
  have h1 : Discards s s1 := by
    unfold s1
    split
    · extract_lets s0
      have h0 : Discards s s0 := discards_detachBz s _
      split
      · exact h0.trans (says_xferFinal _ _ _ _ _ _ _ _ _).discards
      · exact h0
    · exact .refl s
  have h2 : Discards s s2 := h1.trans (discards_engines s1 _ _ _ _)
  split
  · exact h2.trans (discards_engines s2 _ _ _ _)
  · exact h2

theorem discards_stopChipOf (p : Nat → Nat × Nat → Bool) : Discards s (stopChipOf s p) := by
  refine Discards.foldl (fun s g => ?_) _ s
  split
  · exact discards_stopEngCtx s _
  · exact .refl s

theorem discards_stopBlazeOf (t : Nat) : Discards s (stopBlazeOf s t) := by
  refine Discards.foldl (fun s g => ?_) _ s
  split
  · exact discards_setBz s _ _
  · exact .refl s

theorem settled_discardSessions (c : Nat) : Settled s (discardSessions s c) := by
  refine Settled.foldl (fun s e => ?_) _ s
  split
  · exact settled_dropSession s _
  · exact .refl s

theorem discards_setQueue (q : Nat) {x : Queue}
    (hx : x = { s.queue q with st := x.st, wait := x.wait, session := x.session, read := x.read })
    (hst : x.st = (s.queue q).st ∨ x.st = .stopped) : Discards s (s.setQueue q x) :=
  { Discards.refl s with
    rest := rfl
    told := .of_eq rfl rfl rfl
    queue := fun k => by
      rw [State.setQueue_queue]
      split
      next hk => rw [hk]; exact hx
      next => rfl
    queueSt := fun k => by
      rw [State.setQueue_queue]
      split
      next hk => rw [hk]; exact hst
      next => exact .inl rfl }

theorem discards_discardCtx (c : Nat) : Discards s (discardCtx s c) := by
  unfold discardCtx
  extract_lets s1 s2 t s3
  have h1 : Discards s s1 := ((settled_endRunsOf s _ _ _).trans (settled_discardSessions _ _)).discards
  have h2 : Discards s1 s2 := (settled_discardWaits s1 c).discards.trans (discards_dropCommands _ _)
  have h3 : Discards s2 s3 := (discards_stopChipOf s2 _).trans (discards_stopBlazeOf _ _)
  refine ((h1.trans h2).trans h3).trans (Discards.foldl (fun s e => ?_) _ s3)
  split
  · refine Discards.trans (discards_setQueue s e.1 (by rfl) ?_) (writesOnly_report _ _).discards
    dsimp only
    split
    · exact .inr rfl
    · exact .inl rfl
  · exact .refl s

theorem settled_faultGone (p c : Nat) : Settled s (faultGone s p c) :=
  (settled_raise s _).trans (settled_setBlock _ _ _ _ _)

end

/-! ### A tenant that is gone -/

/-- From `s` to `t` only commands, their contexts and what belongs to them changed. -/
structure Still (s t : State) : Prop where
  rest : t = { s with
    mem := t.mem, cores := t.cores, ctxs := t.ctxs, queues := t.queues, fences := t.fences, cmds := t.cmds, cuts := t.cuts
    renders := t.renders, sessions := t.sessions, lanes := t.lanes, sched := t.sched
    engines := t.engines, engCtxs := t.engCtxs, bzCtxs := t.bzCtxs
    prism := { s.prism with sets := t.prism.sets, pages := t.prism.pages }
    ranger := { s.ranger with late := t.ranger.late, graphs := t.ranger.graphs }
    freeTick := t.freeTick, avail := t.avail, counters := t.counters, channels := t.channels, out := t.out, i3c := t.i3c
    ports := t.ports, tenants := t.tenants }
  ctxSt : ∀ c, (t.ctx c).st = (s.ctx c).st ∨ ((s.ctx c).st = .live ∧ (t.ctx c).st = .faulted)
  noWork : ∀ k, (s.core k).groups = [] ∧ (s.core k).wgs = [] → (t.core k).groups = [] ∧ (t.core k).wgs = []

theorem Discards.still {s t : State} (h : Discards s t) : Still s t := ⟨h.rest, h.ctxSt, h.noWork⟩
theorem Settled.still {s t : State} (h : Settled s t) : Still s t := h.discards.still
theorem Says.still {s t : State} (h : Says s t) : Still s t := h.settled.still
theorem ReadsOnly.still {s t : State} (h : ReadsOnly s t) : Still s t := h.writesOnly.settled.still

namespace Still

theorem refl (s : State) : Still s s := (Settled.refl s).still

theorem trans {a b c : State} (h : Still a b) (k : Still b c) : Still a c where
  rest := by have hk := k.rest; rw [h.rest] at hk; exact hk
  ctxSt i := by
    rcases k.ctxSt i with hk | ⟨hk, hf⟩
    · rw [hk]; exact h.ctxSt i
    · rcases h.ctxSt i with hh | ⟨hl, -⟩
      · exact .inr ⟨hh ▸ hk, hf⟩
      · exact .inr ⟨hl, hf⟩
  noWork i hi := k.noWork i (h.noWork i hi)

theorem foldl {α : Type} {f : State → α → State} (h : ∀ s x, Still s (f s x)) (l : List α) (s : State) :
    Still s (l.foldl f s) := by
  induction l generalizing s with
  | nil => exact refl s
  | cons x xs ih => exact (h s x).trans (ih _)

variable {s t : State} (h : Still s t)
include h

theorem fuses : t.fuses = s.fuses := (congrArg State.fuses h.rest :)
theorem boot : t.boot = s.boot := (congrArg State.boot h.rest :)
theorem maps : t.maps = s.maps := (congrArg State.maps h.rest :)
theorem power : t.power = s.power := (congrArg State.power h.rest :)
theorem sysReset : t.sysReset = s.sysReset := (congrArg State.sysReset h.rest :)
theorem cfg : t.cfg = s.cfg := (congrArg State.cfg h.rest :)

end Still

section
variable (s : State)

theorem still_setTenant (t : Nat) (x : Tenant) : Still s (s.setTenant t x) := { Still.refl s with rest := rfl }

theorem still_tenantGone (p t : Nat) : Still s (tenantGone s p t) := by
  unfold tenantGone
  extract_lets s1 s2 fs
  have h0 : Still s (holdRequests s t) := { Still.refl s with rest := rfl }
  have h1 : Still s s1 := h0.trans (Still.foldl (fun s c => (settled_faultGone s p c).still) _ _)
  have h2 : Discards s1 s2 := (discards_stopChipOf s1 _).trans (discards_stopBlazeOf _ _)
  exact ((h1.trans h2.still).trans (still_setTenant s2 _ _)).trans (settled_settle _ _).still

theorem still_linkLoss (p : Nat) : Still s (linkLoss s p) := by
  unfold linkLoss
  extract_lets s1 lines mine m s2
  have h2 : Still s s2 := { Still.refl s with rest := rfl }
  exact (h2.trans (Still.foldl (fun s t => still_tenantGone s p t) _ s2)).trans (says_bump _ _ _).still

end

end Sys2Proof.Proofs

/-! The sideband: commands with their confirmation codes, private writes, and the debug access port. -/

namespace Sys2Proof.Proofs

open Sys2Proof.Machine

/-! ### Commands -/

section
variable {s : State} (hup : i3cUp s = true)
include hup

theorem i3cCommand_busy (hb : i3cBusy s = true) {op : Nat} (hop : op ≠ 0 ∧ op ≤ 6) (arg : Nat) (lost : Option (List (Nat × Byte))) :
    i3cCommand s op arg (0x5A00 + op) lost = cmdDone s op 2 := by
  unfold i3cCommand
  rw [hup, hb, if_neg (by simp only [Bool.not_true, Bool.false_eq_true, ne_eq, not_true_eq_false, or_false, false_or]; omega)]
  rfl

theorem i3cCommand_runs (hb : i3cBusy s = false) {op : Nat} (hop : op ≠ 0 ∧ op ≤ 6) (arg : Nat)
    (lost : Option (List (Nat × Byte))) :
    i3cCommand s op arg (0x5A00 + op) lost = match i3cOp s op arg lost with
      | some s1 => cmdDone { s1 with i3c := { s1.i3c with running := if op = 2 then some arg else none } } op 0
      | none => cmdDone s op 1 := by
  unfold i3cCommand
  rw [hup, hb, if_neg (by simp only [Bool.not_true, Bool.false_eq_true, ne_eq, not_true_eq_false, or_false, false_or]; omega)]
  rfl

end

theorem i3cCommand_unconfirmed (s : State) {op confirm : Nat} (hc : confirm ≠ 0x5A00 + op) (arg : Nat)
    (lost : Option (List (Nat × Byte))) : i3cCommand s op arg confirm lost = s := by
  unfold i3cCommand
  rw [if_pos (.inr (.inr (.inr hc)))]

theorem toNat_ne {confirm : BitVec 16} {k : Nat} (hk : k < 65536) (h : confirm ≠ BitVec.ofNat 16 k) : confirm.toNat ≠ k :=
  fun he => h (BitVec.eq_of_toNat_eq (by rw [he, BitVec.toNat_ofNat, Nat.mod_eq_of_lt hk]))

/-! ### Pads released -/

theorem freshUnit_power (s : State) (u : Nat) : (freshUnit s u).power = s.power := by
  unfold freshUnit
  repeat' split
  all_goals rfl

theorem startModeset_power (s : State) (n : Nat) (m : VideoMode) (owner : Bool) : (startModeset s n m owner).power = s.power := rfl

theorem powerOn_pads (s : State) (u : Nat) : (powerOn s u).power.nightPads = s.power.nightPads
    ∧ ∀ x, (x ∈ (powerOn s u).power.padHold → x ∈ s.power.padHold) ∧ (x ≠ u → x ∈ s.power.padHold → x ∈ (powerOn s u).power.padHold) := by
  unfold powerOn
  split
  · exact ⟨rfl, fun x => ⟨id, fun _ => id⟩⟩
  · extract_lets s1 pads
    have h1 : s1.power = s.power := (bump_power _ _ _).trans (freshUnit_power s u)
    refine ⟨show s1.power.nightPads = _ by rw [h1], fun x => ?_⟩
    dsimp only [pads]
    rw [h1]
    split
    · exact ⟨id, fun _ => id⟩
    · exact ⟨List.mem_of_mem_filter, fun hx hm => List.mem_filter.mpr ⟨hm, by simpa using hx⟩⟩

theorem leaveOff_pads (s : State) (n : Nat) (m : VideoMode) (owner : Bool) :
    (leaveOff s n m owner).power = (powerOn (powerOn s (uOut n)) (0x90 + n / 2)).power := rfl

/-- Taking up an ENABLE holds no pad, and releases none but those of an output and its engine. -/
theorem takeEnable_pads (s : State) {n : Nat} (hn : n < 4) : (takeEnable s n).power.nightPads = s.power.nightPads
    ∧ ∀ x, (x ∈ (takeEnable s n).power.padHold → x ∈ s.power.padHold)
      ∧ (0x98 ≤ x → x ∈ s.power.padHold → x ∈ (takeEnable s n).power.padHold) := by
  unfold takeEnable
  extract_lets o
  split
  · rw [leaveOff_pads]
    obtain ⟨hn1, hp1⟩ := powerOn_pads (s.setOutput n { o with waitEnable := false }) (uOut n)
    obtain ⟨hn2, hp2⟩ := powerOn_pads (powerOn (s.setOutput n { o with waitEnable := false }) (uOut n)) (0x90 + n / 2)
    refine ⟨hn2.trans hn1, fun x => ⟨fun hx => (hp1 x).1 ((hp2 x).1 hx), fun hx hm => ?_⟩⟩
    exact (hp2 x).2 (by omega) ((hp1 x).2 (by unfold uOut; omega) hm)
  · exact ⟨rfl, fun x => ⟨id, fun _ => id⟩⟩

theorem takeEnables_pads (l : List Nat) (hl : ∀ n ∈ l, n < 4) (s : State) :
    (l.foldl takeEnable s).power.nightPads = s.power.nightPads
    ∧ ∀ x, (x ∈ (l.foldl takeEnable s).power.padHold → x ∈ s.power.padHold)
      ∧ (0x98 ≤ x → x ∈ s.power.padHold → x ∈ (l.foldl takeEnable s).power.padHold) := by
  induction l generalizing s with
  | nil => exact ⟨rfl, fun x => ⟨id, fun _ => id⟩⟩
  | cons n l ih =>
    obtain ⟨hn1, hp1⟩ := takeEnable_pads s (hl n List.mem_cons_self)
    obtain ⟨hn2, hp2⟩ := ih (fun k hk => hl k (List.mem_cons_of_mem _ hk)) (takeEnable s n)
    exact ⟨hn2.trans hn1, fun x => ⟨fun hx => (hp1 x).1 ((hp2 x).1 hx), fun hx hm => (hp2 x).2 hx ((hp1 x).2 hx hm)⟩⟩

/-- Pads that are released are held no more; the others from 0x98 on stay held. -/
theorem releasePads_pads (s : State) (p : Nat → Bool) (x : Nat) :
    (p x = true → x ∉ (releasePads s p).power.padHold ∧ x ∉ (releasePads s p).power.nightPads)
    ∧ (p x = false → 0x98 ≤ x → x ∈ s.power.padHold → x ∈ (releasePads s p).power.padHold) := by
  unfold releasePads
  extract_lets w s1
  obtain ⟨hn, hp⟩ := takeEnables_pads (List.range 4) (fun n hn => List.mem_range.mp hn) s1
  refine ⟨fun hx => ⟨fun hm => ?_, fun hm => ?_⟩, fun hx hge hm => (hp x).2 hge (List.mem_filter.mpr ⟨hm, by simp [hx]⟩)⟩
  · have := (List.mem_filter.mp ((hp x).1 hm)).2
    simp [hx] at this
  · rw [hn] at hm
    have := (List.mem_filter.mp hm).2
    simp [hx] at this

/-! ### A forced Night -/

/-- Outputs that enter OFF: `t` is `s` with commands that may have ended, and the output OFF. -/
theorem enterOff_leaves (s : State) (n : Nat) : (enterOff s n).cmds.Sublist s.cmds ∧ (enterOff s n).power = s.power
    ∧ ((enterOff s n).output n).src = .off ∧ ∀ k, k ≠ n → (enterOff s n).output k = s.output k := by
  unfold enterOff
  split
  next hoff => exact ⟨.refl _, rfl, hoff, fun _ _ => rfl⟩
  next =>
    extract_lets s1 s2 o s3
    have h1 : ∀ k, s1.output k = s.output k := fun _ => rfl
    have h2 : Settled s1 s2 := by
      refine Settled.foldl (fun s x => ?_) _ s1
      split
      · exact (((settled_dropSet s x.id).trans (settled_noteLast _ x 2)).trans (says_bump _ _ _).settled).trans (settled_settle _ _)
      · exact .refl s
    refine ⟨h2.cmds, h2.power, ?_, fun k hk => ?_⟩
    · rw [State.setOutput_output, if_pos rfl]
    · rw [State.setOutput_output, if_neg hk]
      exact (h2.output k).trans (h1 k)

theorem enterOffs_leave (l : List Nat) (s : State) : (l.foldl enterOff s).cmds.Sublist s.cmds ∧ (l.foldl enterOff s).power = s.power
    ∧ ∀ k, ((l.foldl enterOff s).output k).src = if k ∈ l then .off else (s.output k).src := by
  induction l generalizing s with
  | nil => exact ⟨.refl _, rfl, fun k => by simp⟩
  | cons n l ih =>
    obtain ⟨hc1, hp1, hn1, ho1⟩ := enterOff_leaves s n
    obtain ⟨hc2, hp2, ho2⟩ := ih (enterOff s n)
    refine ⟨hc2.trans hc1, hp2.trans hp1, fun k => ?_⟩
    rw [List.foldl_cons, ho2]
    by_cases hk : k = n
    · subst hk; simp [hn1]
    · simp [hk, ho1 k hk]

theorem flashWrite_rest (s : State) (a : Nat) (bs : List Byte) : flashWrite s a bs = { s with flash := (flashWrite s a bs).flash } := by
  unfold flashWrite; split <;> rfl

theorem flashErase_rest (s : State) (a n : Nat) : flashErase s a n = { s with flash := (flashErase s a n).flash } := by
  unfold flashErase; split <;> rfl

theorem flash_trans {a b c : State} (h : b = { a with flash := b.flash }) (k : c = { b with flash := c.flash }) :
    c = { a with flash := c.flash } := by
  rw [h] at k; exact k

/-- Writing a record changes the flash only. -/
theorem writeCopy_rest (s : State) (k : RecAt) (off seq : Nat) (pl : List Byte) :
    writeCopy s k off seq pl = { s with flash := (writeCopy s k off seq pl).flash } :=
  flash_trans (flash_trans (flashErase_rest s off k.size) (flashWrite_rest _ _ _)) (flashWrite_rest _ _ _)

theorem writeRec_rest (s : State) (k : RecAt) (pl : List Byte) :
    writeRec s k pl = { s with flash := (writeRec s k pl).flash } := by
  unfold writeRec
  split
  · exact writeCopy_rest _ _ _ _ _
  · exact writeCopy_rest _ _ _ _ _
  · exact writeCopy_rest _ _ _ _ _
  · split
    · exact writeCopy_rest _ _ _ _ _
    · exact writeCopy_rest _ _ _ _ _

theorem says_actFinal (s : State) (a : Activation) (status detail : Nat) : Says s (actFinal s a status detail) := by
  unfold actFinal
  exact says_finalAll s _ _ _ _ _

theorem setBank_rest (s : State) (b : Nat) (st : BankSt) (v : Nat) : setBank s b st v = { s with flash := (setBank s b st v).flash } :=
  writeRec_rest s bankRec _

/-- What a yield does to the banks, before the activation's final reply. -/
def yieldBank (s : State) (a : Activation) : State := match a.phase with
  | .copy | .wait => s
  | _ =>
    let s1 := setBank s a.bank .bad (bankVersion s a.bank)
    setRangerSt { s1 with
      cfg := a.before
      boot := { s1.boot with bank := a.prev }
      ranger := { s1.ranger with wentBack := true } } (if s.ranger.st = .stopped then .stopped else .run)

theorem yieldBank_rest (s : State) (a : Activation) : (yieldBank s a).cmds = s.cmds ∧ (yieldBank s a).power = s.power := by
  unfold yieldBank
  split
  · exact ⟨rfl, rfl⟩
  · exact ⟨rfl, rfl⟩
  · have hbank := setBank_rest s a.bank .bad (bankVersion s a.bank)
    generalize setBank s a.bank .bad (bankVersion s a.bank) = v at hbank ⊢
    exact ⟨(congrArg State.cmds hbank :), (congrArg State.power hbank :)⟩

theorem yieldAct_eq (s : State) : yieldAct s = match s.ranger.act with
    | none => s
    | some a =>
      let s2 := actFinal (setAct (yieldBank s a) none) a rRefused 0x16FF
      if a.rollback then finalAll s2 0x705 (a.bank + 2) rRefused 0x16FF [] else s2 := rfl

theorem yieldAct_rest (s : State) : (yieldAct s).cmds = s.cmds ∧ (yieldAct s).power = s.power := by
  rw [yieldAct_eq]
  split
  · exact ⟨rfl, rfl⟩
  next a _ =>
    extract_lets s2
    obtain ⟨hc1, hp1⟩ := yieldBank_rest s a
    have h2 : Says (setAct (yieldBank s a) none) s2 := says_actFinal _ _ _ _
    have hc2 : s2.cmds = s.cmds := h2.cmds.trans hc1
    have hp2 : s2.power = s.power := h2.power.trans hp1
    clear_value s2
    split
    · have h3 := says_finalAll s2 0x705 (a.bank + 2) rRefused 0x16FF []
      exact ⟨h3.cmds.trans hc2, h3.power.trans hp2⟩
    · exact ⟨hc2, hp2⟩

theorem portsDown_rest (s : State) :
    let t := (List.range 3).foldl (fun s p => s.setPort p { s.port p with st := .down }) s
    t.cmds = s.cmds ∧ t.power = s.power ∧ t.prism = s.prism :=
  ⟨foldl_keeps State.cmds (f := fun s p => s.setPort p { s.port p with st := .down }) (fun _ _ => rfl) (List.range 3) s,
    foldl_keeps State.power (f := fun s p => s.setPort p { s.port p with st := .down }) (fun _ _ => rfl) (List.range 3) s,
    foldl_keeps State.prism (f := fun s p => s.setPort p { s.port p with st := .down }) (fun _ _ => rfl) (List.range 3) s⟩

/-- What Night does not touch of the power state: whether data was lost, and whether the thermal monitor has tripped. -/
def losses (w : Power) : Bool × Bool := (w.dataLost, w.tripped)

/-- Night's commit: nothing is left on the cores, no domain is on and every output is OFF. -/
theorem nightCommit_leaves (s : State) : (nightCommit s).cmds.Sublist s.cmds ∧ (nightCommit s).cores = []
    ∧ (nightCommit s).power.on = [] ∧ losses (nightCommit s).power = losses s.power
    ∧ ∀ k, k < 4 → ((nightCommit s).output k).src = .off := by
  unfold nightCommit
  extract_lets s1 s2 s3
  obtain ⟨hc0, hp0⟩ := yieldAct_rest s
  obtain ⟨hc1, hp1, ho1⟩ : s1.cmds.Sublist (yieldAct s).cmds ∧ s1.power = (yieldAct s).power
      ∧ ∀ k, (s1.output k).src = if k ∈ List.range 4 then .off else ((yieldAct s).output k).src :=
    enterOffs_leave (List.range 4) (yieldAct s)
  have h2 : s2.cmds = s1.cmds ∧ s2.power = s1.power ∧ s2.prism = s1.prism := portsDown_rest s1
  have h3 : ReadsOnly s2 s3 := readsOnly_foldl _ _ readsOnly_evictLine _
  clear_value s3 s2 s1
  refine ⟨?_, rfl, rfl, ?_, fun k hk => ?_⟩
  · show s3.cmds.Sublist s.cmds
    rw [h3.cmds, h2.1, ← hc0]
    exact hc1
  · show losses s3.power = _
    rw [h3.power, h2.2.1, hp1, hp0]
  · have hout : ∀ v : State, v.prism = s3.prism → (v.output k).src = .off := fun v hv => by
      have hs1 := ho1 k
      rw [if_pos (List.mem_range.mpr hk)] at hs1
      unfold State.output at hs1 ⊢
      rw [hv, h3.prism, h2.2.2]
      exact hs1
    exact hout _ rfl

theorem forceEnd_losses (s : State) (e : Nat × DuskStep) : losses (forceEnd s e).power = losses s.power := by
  unfold forceEnd
  extract_lets s1
  show losses s1.power = _
  rw [show s1.power = (dropDusk s e.1).power from bump_power _ _ _]
  rfl

theorem loseData_rest (s : State) (lost : Option (List (Nat × Byte))) :
    (loseData s lost).cmds = s.cmds ∧ losses (loseData s lost).power = (s.power.dataLost || lost.isSome, s.power.tripped) := by
  cases lost with
  | none => exact ⟨rfl, by rw [Option.isSome_none, Bool.or_false]; rfl⟩
  | some l => exact ⟨rfl, by rw [Option.isSome_some, Bool.or_true]; rfl⟩

theorem forceNight_leaves (s : State) (lost : Option (List (Nat × Byte))) :
    let t := forceNight s lost
    t.power.sleep = .night ∧ t.power.forced = true ∧ t.power.on = [] ∧ t.cmds = [] ∧ t.cores = []
      ∧ (∀ k, k < 4 → (t.output k).src = .off) ∧ losses t.power = (s.power.dataLost || lost.isSome, s.power.tripped) := by
  intro t
  obtain ⟨s0, hs0⟩ : ∃ s0, s0 = s.power.dusk.foldl forceEnd s := ⟨_, rfl⟩
  obtain ⟨s1, hs1⟩ : ∃ s1, s1 = if (tget? s.power.dusk nightKey).isSome then finalAll s0 0x802 nightKey rRefused 0x06FF [] else s0 :=
    ⟨_, rfl⟩
  obtain ⟨s2, hs2⟩ : ∃ s2, s2 = (List.range 3).foldl (fun s p => if (s.port p).up then linkLoss s p else s) s1 := ⟨_, rfl⟩
  obtain ⟨s3, hs3⟩ : ∃ s3, s3 = dropCommands (stopChipOf s2 fun _ _ => true) fun _ => true := ⟨_, rfl⟩
  obtain ⟨s4, hs4⟩ : ∃ s4, s4 = nightCommit (loseData { s3 with lanes := [] } lost) := ⟨_, rfl⟩
  obtain ⟨s5, hs5⟩ : ∃ s5, s5 = bump (bump s4 0xB0 0x118) 0xB0 0x120 := ⟨_, rfl⟩
  have ht : t = { s5 with power := { s5.power with sleep := .night, forced := true } } := by
    rw [hs5, hs4, hs3, hs2, hs1, hs0]; rfl
  have h0 : losses s0.power = losses s.power := hs0 ▸ foldl_keeps (fun s : State => losses s.power) forceEnd_losses _ _
  have h1 : losses s1.power = losses s0.power := by
    rw [hs1]
    split
    · rw [(says_finalAll _ _ _ _ _ _).power]
    · rfl
  have h2 : Still s1 s2 := by
    rw [hs2]
    refine Still.foldl (fun s p => ?_) _ s1
    split
    · exact still_linkLoss s p
    · exact .refl s
  have h3 : Discards s2 s3 := hs3 ▸ (discards_stopChipOf s2 _).trans (discards_dropCommands _ _)
  have hcmds : s3.cmds = [] := List.eq_nil_iff_forall_not_mem.mpr fun e he => by
    rw [hs3] at he
    cases not_mem_dropCommands _ he
  obtain ⟨hlc, hld⟩ := loseData_rest { s3 with lanes := [] } lost
  obtain ⟨hc4, hcores, hon, hdata, hout⟩ := nightCommit_leaves (loseData { s3 with lanes := [] } lost)
  rw [← hs4] at hc4 hcores hon hdata hout
  have h5 : Says s4 s5 := hs5 ▸ (says_bump _ _ _).trans (says_bump _ _ _)
  rw [ht]
  refine ⟨rfl, rfl, ?_, ?_, ?_, fun k hk => ?_, ?_⟩
  · show s5.power.on = []
    rw [h5.power]; exact hon
  · show s5.cmds = []
    rw [h5.cmds]
    rw [hlc] at hc4
    exact List.sublist_nil.mp (hcmds ▸ hc4)
  · show s5.cores = []
    rw [h5.cores]; exact hcores
  · show (s5.output k).src = .off
    unfold State.output
    rw [h5.prism]
    exact hout k hk
  · show losses s5.power = _
    obtain ⟨hlost, htrip⟩ := Prod.mk.inj (h1.trans h0)
    rw [h5.power, hdata, hld]
    show (s3.power.dataLost || _, s3.power.tripped) = _
    rw [h3.power, h2.power, hlost, htrip]

end Sys2Proof.Proofs

/-! The statement on the sideband, assembled from what its commands leave. -/

namespace Sys2Proof.Proofs

open Sys2Proof.Machine

/-! ### Private writes -/

section
variable {s : State} (hup : i3cUp s = true)
include hup

theorem i3cPrivateWrite_pointer {p : Nat} (hp : p < 2 ^ 32) (hm : 5 ≤ s.i3c.mwl) (tail : List Byte) (ht : tail.length ≤ 1) :
    exec (.i3cPrivateWrite (leBytes 4 p ++ tail)) s = .next (
      sideWrite (4 + tail.length) { s with i3c := { s.i3c with ptr := (p + tail.length) % 2 ^ 32 } } p tail) := by
  have hlen : (leBytes 4 p ++ tail).length = 4 + tail.length := by rw [List.length_append, length_leBytes]
  have htake : (leBytes 4 p ++ tail).take s.i3c.mwl = leBytes 4 p ++ tail := List.take_of_length_le (by omega)
  have h4 : (leBytes 4 p ++ tail).take 4 = leBytes 4 p := by
    rw [List.take_append_of_le_length (by rw [length_leBytes]), List.take_of_length_le (by rw [length_leBytes])]
  have hd : (leBytes 4 p ++ tail).drop 4 = tail := by
    rw [List.drop_append_of_le_length (by rw [length_leBytes]), List.drop_of_length_le (by rw [length_leBytes]), List.nil_append]
  rw [exec_i3cPrivateWrite, execI3cPrivateWrite]
  simp only [htake, hlen, h4, hd, leNat_leBytes]
  rw [hup, if_neg (by simp), show p % 2 ^ (8 * 4) = p from Nat.mod_eq_of_lt hp, Nat.add_sub_cancel_left]

end

theorem sideWrite_nil (fuel : Nat) (s : State) (a : Nat) : sideWrite fuel s a [] = s := by cases fuel <;> rfl

theorem sideWrite_store (fuel : Nat) (s : State) {a : Nat} (h1 : 0x100000 ≤ a) (h2 : a < 0x300000) (b : Byte) :
    sideWrite (fuel + 1) s a [b] = { s with prism := { s.prism with store := s.prism.store.put (a - 0x100000) b } } := by
  rw [sideWrite]
  rw [if_pos (by simp [sideBytes, h1]), sideWrite_nil, writeSideByte, if_pos ⟨h1, h2⟩]

/-! ### The debug access port -/

theorem dapActs_iff (s : State) :
    dapActs s = true ↔ s.fuses.scorched = false ∧ s.ranger.debug = true ∧ domainOn s 0xBE = true := by
  simp only [dapActs, Bool.and_eq_true, Bool.not_eq_true', and_assoc]

theorem dapRead_fuses (s : State) (op : DapOp) : (dapRead s op).fuses = s.fuses := by
  unfold dapRead
  split
  · split <;> rfl
  · rfl

theorem dapRead_out (s : State) (what : DapTarget) :
    (dapRead s (.read what)).out = s.out ++ ((dapData s what).map Out.debug).toList := by
  simp only [dapRead]
  cases dapData s what with
  | none => simp
  | some v => rfl

theorem execDebugAccessPort_acts {code : BitVec 8} (h1 : 0x80 ≤ code.toNat) (h2 : code.toNat ≤ 0x8F) {s : State}
    (h : dapActs s = true) (op : DapOp) : exec (.debugAccessPort code op) s =
      .next (selectTap (dapRead { s with fuses := blowFuses s.fuses op } op) (.debug code.toNat)) := by
  rw [exec_debugAccessPort, execDebugAccessPort, if_neg]
  rw [h, Bool.not_true, or_iff_left Bool.false_ne_true]
  omega

theorem execDebugAccessPort_bypass {code : BitVec 8} {s : State} (h : code.toNat < 0x80 ∨ 0x8F < code.toNat ∨ ¬dapActs s = true)
    (op : DapOp) : exec (.debugAccessPort code op) s = .next (selectTap s .bypass) := by
  rw [exec_debugAccessPort, execDebugAccessPort, if_pos (by simpa using h)]

theorem execScorch_refused {a b : BitVec 16} {slow supply : Bool} {s : State}
    (h : ¬dapActs s = true ∨ a ≠ 0x5C04 ∨ b ≠ 0xC0A5 ∨ slow = true ∨ supply = false) :
    exec (.scorch a b slow supply) s = .next s := by
  rw [exec_scorch, execScorch, if_pos (by simpa using h)]

theorem byteAt_map_range (f : Nat → Byte) {n i : Nat} (h : i < n) : byteAt ((List.range n).map f) i = f i := by
  unfold byteAt
  rw [List.getD_eq_getElem _ _ (by simpa using h), List.getElem_map, List.getElem_range]

theorem execScorch_leaves {s : State} (h : dapActs s = true) : Answers (.scorch 0x5C04 0xC0A5 false true) s fun t =>
    t.fuses = { s.fuses with scorched := true } ∧ t.ranger.debug = false ∧ 0xBE ∉ t.power.on ∧ 0xBE ∈ t.power.padHold
    ∧ t.tap = .bypass := by
  refine ⟨_, rfl, ?_⟩
  rw [if_neg (by simp [h])]
  refine ⟨rfl, rfl, by simp, ?_, rfl⟩
  dsimp only
  split
  next hc => exact List.contains_iff_mem.mp hc
  next => exact List.mem_append_right _ (List.mem_singleton_self _)

/-! ### Each command that is confirmed -/

theorem selfReset_eq (s : State) (t : Nat) : selfReset s t = settleReset (resetTenant (abortChannel s t) t) t := rfl

/-- The unit whose pads an argument of RELEASE_PADS names, and the units whose pads it releases. -/
def padUnit (n : Nat) : Nat := if n = 127 then 0xBE else 0x94 + (n - 123)
def padsFreed (s : State) (n x : Nat) : Bool := x == padUnit n && !padsLocked s (padUnit n)

/-- The state with the partitions' locks set, and the running command noted. -/
def withLocks (s : State) (running : Option Nat) (l : List Nat) : State :=
  { s with prism := { s.prism with locks := l }, i3c := { s.i3c with running := running } }

section
variable {s : State} (hup : i3cUp s = true) (hb : i3cBusy s = false)
include hup hb

theorem i3cCommand_some {op arg : Nat} (hop : op ≠ 0 ∧ op ≤ 6) {lost : Option (List (Nat × Byte))} {u : State}
    (hu : i3cOp s op arg lost = some u) : i3cCommand s op arg (0x5A00 + op) lost =
      cmdDone { u with i3c := { u.i3c with running := if op = 2 then some arg else none } } op 0 := by
  rw [i3cCommand_runs hup hb hop, hu]

theorem i3cCommand_none {op arg : Nat} (hop : op ≠ 0 ∧ op ≤ 6) {lost : Option (List (Nat × Byte))}
    (hu : i3cOp s op arg lost = none) : i3cCommand s op arg (0x5A00 + op) lost = cmdDone s op 1 := by
  rw [i3cCommand_runs hup hb hop, hu]

theorem poisonFence_confirmed (arg : BitVec 32) : exec (.poisonFence arg 0x5A01) s = .next (
    if arg.toNat < 16384 ∧ (s.fence arg.toNat).st ≠ .free then
      cmdDone { settle [.poison arg.toNat] s with i3c := { (settle [.poison arg.toNat] s).i3c with running := none } } 1 0
    else cmdDone s 1 1) := by
  rw [exec_poisonFence, execPoisonFence]
  refine congrArg _ ?_
  by_cases h : arg.toNat < 16384 ∧ (s.fence arg.toNat).st ≠ .free
  · rw [if_pos h]; exact i3cCommand_some hup hb (op := 1) (by decide) (if_pos h)
  · rw [if_neg h]; exact i3cCommand_none hup hb (op := 1) (by decide) (if_neg h)

theorem resetTenant_confirmed (arg : BitVec 32) : exec (.resetTenant arg 0x5A02) s = .next (
    let u := settleReset (resetTenant (abortChannel s arg.toNat) arg.toNat) arg.toNat
    if arg.toNat < 16 ∧ (s.tenant arg.toNat).st = .live then
      cmdDone { u with i3c := { u.i3c with running := some arg.toNat } } 2 0
    else cmdDone s 2 1) := by
  rw [exec_resetTenant, execResetTenant, ← selfReset_eq]
  refine congrArg _ ?_
  by_cases h : arg.toNat < 16 ∧ (s.tenant arg.toNat).st = .live
  · rw [if_pos h]; exact i3cCommand_some hup hb (op := 2) (by decide) (if_pos h)
  · rw [if_neg h]; exact i3cCommand_none hup hb (op := 2) (by decide) (if_neg h)

theorem forceNight_confirmed (arg : BitVec 32) (lost : Option (List (Nat × Byte))) : exec (.forceNight arg 0x5A03 lost) s =
    .next (cmdDone { forceNight s lost with i3c := { (forceNight s lost).i3c with running := none } } 3 0) := by
  rw [exec_forceNight, execForceNight]
  exact congrArg _ (i3cCommand_some hup hb (op := 3) (by decide) rfl)

theorem releasePads_confirmed {arg : BitVec 32} (h : 123 ≤ arg.toNat ∧ arg.toNat ≤ 127) :
    exec (.releasePads arg 0x5A04) s = .next (cmdDone { releasePads s (padsFreed s arg.toNat) with
      i3c := { (releasePads s (padsFreed s arg.toNat)).i3c with running := none } } 4 0) := by
  rw [exec_releasePads, execReleasePads]
  exact congrArg _ (i3cCommand_some hup hb (op := 4) (by decide) (if_pos h))

theorem releasePads_outOfRange {arg : BitVec 32} (h : arg.toNat < 123 ∨ 127 < arg.toNat) :
    exec (.releasePads arg 0x5A04) s = .next (cmdDone s 4 1) := by
  rw [exec_releasePads, execReleasePads]
  exact congrArg _ (i3cCommand_none hup hb (op := 4) (by decide) (if_neg (show ¬(123 ≤ arg.toNat ∧ arg.toNat ≤ 127) by omega)))

/-- BEACON_LOCK and BEACON_UNLOCK of a partition. -/
theorem beaconLock_confirmed {arg : BitVec 32} (h : arg.toNat < 2) :
    exec (.beaconLock arg 0x5A05) s = .next (cmdDone (withLocks s none (arg.toNat :: s.prism.locks.filter (· != arg.toNat))) 5 0)
    ∧ exec (.beaconUnlock arg 0x5A06) s = .next (cmdDone (withLocks s none (s.prism.locks.filter (· != arg.toNat))) 6 0) := by
  constructor
  · rw [exec_beaconLock, execBeaconLock]
    exact congrArg _ (i3cCommand_some hup hb (op := 5) (by decide) (if_pos h))
  · rw [exec_beaconUnlock, execBeaconUnlock]
    exact congrArg _ (i3cCommand_some hup hb (op := 6) (by decide) (if_pos h))

theorem beaconLock_outOfRange {arg : BitVec 32} (h : 2 ≤ arg.toNat) :
    exec (.beaconLock arg 0x5A05) s = .next (cmdDone s 5 1) ∧ exec (.beaconUnlock arg 0x5A06) s = .next (cmdDone s 6 1) := by
  constructor
  · rw [exec_beaconLock, execBeaconLock]
    exact congrArg _ (i3cCommand_none hup hb (op := 5) (by decide) (if_neg (Nat.not_lt.mpr h)))
  · rw [exec_beaconUnlock, execBeaconUnlock]
    exact congrArg _ (i3cCommand_none hup hb (op := 6) (by decide) (if_neg (Nat.not_lt.mpr h)))

theorem forceNight_answers (arg : BitVec 32) (lost : Option (List (Nat × Byte))) : Answers (.forceNight arg 0x5A03 lost) s fun t =>
    t.power.sleep = .night ∧ t.power.forced = true ∧ t.power.on = [] ∧ t.cmds = [] ∧ t.cores = []
      ∧ (∀ k, k < 4 → (t.output k).src = .off) ∧ t.power.dataLost = (s.power.dataLost || lost.isSome) := by
  obtain ⟨v, hv⟩ : ∃ v, v = forceNight s lost := ⟨_, rfl⟩
  obtain ⟨hsleep, hforced, hon, hcmds, hcores, hout, hlost⟩ := forceNight_leaves s lost
  have hexec := forceNight_confirmed hup hb arg lost
  rw [← hv] at hsleep hforced hon hcmds hcores hout hlost hexec
  exact ⟨_, hexec, hsleep, hforced, hon, hcmds, hcores, hout, congrArg Prod.fst hlost⟩

theorem releasePads_answers {arg : BitVec 32} (h : 123 ≤ arg.toNat ∧ arg.toNat ≤ 127) : Answers (.releasePads arg 0x5A04) s fun t =>
    (padsLocked s (padUnit arg.toNat) = false → padUnit arg.toNat ∉ t.power.padHold ∧ padUnit arg.toNat ∉ t.power.nightPads)
    ∧ (padsLocked s (padUnit arg.toNat) = true → 0xBE ∈ s.power.padHold → 0xBE ∈ t.power.padHold) := by
  obtain ⟨v, hv⟩ : ∃ v, v = releasePads s (padsFreed s arg.toNat) := ⟨_, rfl⟩
  have hexec := releasePads_confirmed hup hb h
  have hpads := releasePads_pads s (padsFreed s arg.toNat)
  rw [← hv] at hexec hpads
  exact ⟨_, hexec, fun hl => (hpads _).1 (by simp [padsFreed, hl]), fun hl hm => (hpads _).2 (by simp [padsFreed, hl]) (by decide) hm⟩

end

/-- Settles O53: each command is one of the six cases of `i3cOp`; the pads and the forced Night by what they leave. -/
theorem sidebandCommands : Obligations.SidebandCommands := by
  refine ⟨fun arg s hup hb => ⟨?_, ?_⟩, fun arg confirm s hup hb => ⟨fun hc => ?_, poisonFence_confirmed hup hb arg, fun hc => ?_,
      resetTenant_confirmed hup hb arg, fun lost => ⟨fun hc => ?_, forceNight_answers hup hb arg lost⟩, fun hc => ?_,
      fun k hk hn => ?_, fun hn => ?_, releasePads_outOfRange hup hb, fun hc => ?_, fun hc => ?_, fun hn => ?_,
      beaconLock_outOfRange hup hb⟩,
    fun p s hup hp hm => ⟨?_, fun b h1 h2 => ?_⟩, fun a n off s hup => ?_,
    fun code op s => ⟨fun h1 h2 ha => ?_, fun h => ?_, fun ha => execScorch_leaves ((dapActs_iff s).mpr ha),
      fun a b slow supply h => ?_, rfl, fun bits => ⟨rfl, ?_⟩, fun bits i hi hsb => ?_⟩⟩
  · rw [exec_poisonFence, execPoisonFence]
    exact congrArg _ (i3cCommand_busy hup hb (op := 1) (by decide) _ _)
  · rw [exec_resetTenant, execResetTenant]
    exact congrArg _ (i3cCommand_busy hup hb (op := 2) (by decide) _ _)
  · exact congrArg _ (i3cCommand_unconfirmed s (toNat_ne (by decide) hc) _ _)
  · exact congrArg _ (i3cCommand_unconfirmed s (toNat_ne (by decide) hc) _ _)
  · exact congrArg _ (i3cCommand_unconfirmed s (toNat_ne (by decide) hc) _ _)
  · exact congrArg _ (i3cCommand_unconfirmed s (toNat_ne (by decide) hc) _ _)
  · obtain ⟨t, ht, hfree, -⟩ := releasePads_answers (s := s) hup hb (arg := arg) (by omega)
    have hu : padUnit arg.toNat = 0x94 + k := by unfold padUnit; rw [if_neg (by omega)]; omega
    rw [hu] at hfree
    exact ⟨t, ht, hfree (by unfold padsLocked; rw [beq_false_of_ne (by omega)]; rfl)⟩
  · obtain ⟨t, ht, hfree, hheld⟩ := releasePads_answers (s := s) hup hb (arg := arg) (by omega)
    have hu : padUnit arg.toNat = 0xBE := if_pos hn
    rw [hu] at hfree hheld
    refine ⟨t, ht, ?_⟩
    split
    next hs => exact hheld hs
    next hs => exact (hfree (Bool.eq_false_iff.mpr hs)).1
  · exact congrArg _ (i3cCommand_unconfirmed s (toNat_ne (by decide) hc) _ _)
  · exact congrArg _ (i3cCommand_unconfirmed s (toNat_ne (by decide) hc) _ _)
  · obtain ⟨hlock, hunlock⟩ := beaconLock_confirmed hup hb hn
    refine ⟨⟨_, hlock, List.mem_cons_self, fun p hp => ?_⟩, ⟨_, hunlock, ?_, fun p hp => ?_⟩⟩
    all_goals simp_all [withLocks, cmdDone]
  · have h := i3cPrivateWrite_pointer hup hp hm [] (by decide)
    rw [List.append_nil] at h
    rw [h, sideWrite_nil, List.length_nil, Nat.add_zero, Nat.mod_eq_of_lt hp]
  · rw [i3cPrivateWrite_pointer hup hp hm [b] le_rfl, List.length_singleton, Nat.add_comm 4 1, Nat.add_comm 1 4,
      sideWrite_store _ _ h1 h2, Nat.mod_eq_of_lt (show p + 1 < 2 ^ 32 by omega)]
  · rw [exec_registerWrite, execRegisterWrite, privateRead]
    simp only [hup]
    rfl
  · have hd := (dapActs_iff s).mpr ha
    refine ⟨_, execDebugAccessPort_acts h1 h2 hd op, rfl, rfl, dapRead_fuses _ op, fun what hop => ?_⟩
    subst hop
    exact dapRead_out _ what
  · refine ⟨_, execDebugAccessPort_bypass ?_ op, rfl, rfl⟩
    rcases h with h | h | h
    · exact .inr (.inr (mt (dapActs_iff s).mp h))
    · exact .inl h
    · exact .inr (.inl h)
  · exact execScorch_refused (h.imp_left (mt (dapActs_iff s).mp))
  · simp [blowFuses]
  · simp only [blowFuses, hsb]
    exact byteAt_map_range _ hi

end Sys2Proof.Proofs

/-! What moving work between cores can change: everything that belongs to commands, and none of the part's own state. -/

namespace Sys2Proof.Proofs

open Sys2Proof.Machine

section
variable (s : State)

theorem still_dropStop (core id : Nat) : Still s (dropStop s core id) := { Still.refl s with rest := rfl }

theorem still_notePreempt (p : Preempt) : Still s (notePreempt s p) := { Still.refl s with rest := rfl }

theorem still_setRender (id : Nat) (r : RenderPass) : Still s (setRender s id r) := { Still.refl s with rest := rfl }

theorem still_setCore (k : Nat) {c : Core} (hc : (s.core k).groups = [] ∧ (s.core k).wgs = [] → c.groups = [] ∧ c.wgs = []) :
    Still s (s.setCore k c) :=
  { Still.refl s with
    rest := rfl
    noWork := fun j hj => by
      rw [State.setCore_core]
      split
      next he => exact hc (he ▸ hj)
      next => exact hj }

theorem still_dropCmds (k : Nat) (p : Nat → Bool) : Still s (s.setCore k ((s.core k).dropCmds p)) :=
  still_setCore s k fun h => dropCmds_noWork p h.1 h.2

theorem still_stopMade (core id off area : Nat) : Still s (stopMade s core id off area) := by
  unfold stopMade
  extract_lets s1 s2
  have h1 : Still s s1 := still_dropStop s core id
  have h2 : Still s1 s2 := by
    unfold s2
    split
    · exact { Still.refl s1 with rest := rfl }
    · exact .refl s1
  exact ((h1.trans h2).trans (says_bump s2 _ _).still).trans (settled_incBlock _ _ _).still

theorem still_releaseIdle (core id : Nat) : Still s (releaseIdle s core id) := by
  unfold releaseIdle
  split
  · extract_lets ps s1
    have h1 : Still s s1 := (still_setCore s core (c := (s.core core).dropHold) fun h => h).trans (still_stopMade _ _ _ _ _)
    split
    · exact h1.trans { Still.refl s1 with rest := rfl }
    · exact h1
  · exact .refl s

theorem still_startSave (core id : Nat) : Still s (startSave s core id) := still_setCore s core fun h => h

theorem still_discardHeld (core id : Nat) : Still s (discardHeld s core id) := by
  unfold discardHeld
  extract_lets c s1
  have h1 : Still s s1 :=
    ((still_dropStop s core id).trans (still_dropCmds (dropStop s core id) core _)).trans (discards_requeueOn _ core).still
  exact (h1.trans (settled_setBlock s1 _ _ _ _).still).trans (says_bump _ _ _).still

theorem still_preemptOne (core victim waiter : Nat) (cause : PreemptCause) : Still s (preemptOne s core victim waiter cause) := by
  unfold preemptOne
  extract_lets held top instr v c decides put s1
  have hv : Still s v := by
    unfold v
    split
    · exact .refl s
    · exact still_releaseIdle s core victim
  have hput : ∀ u i n, Still u (put u i n) := fun u _ _ => still_notePreempt u _
  split
  · exact hv
  · split
    · exact hv.trans (hput v _ _)
    · split
      · have h1 : Still v s1 := (says_bump v _ _).still
        split
        · exact (hv.trans h1).trans (still_discardHeld s1 _ _)
        · exact (hv.trans h1).trans (hput s1 _ _)
      · refine hv.trans (Still.trans ?_ (still_startSave _ _ _))
        refine Still.trans ?_ (hput _ true true)
        split
        · exact .refl v
        · exact (says_bump v _ _).still

theorem still_endDead (u : Nat) : Still s (endDead s u) := by
  unfold endDead
  extract_lets k c tile dead
  split
  · exact .refl s
  · exact (still_dropCmds s k _).trans (discards_requeueOn _ k).still

theorem still_moveWork (u : Nat) : Still s (moveWork s u) := by
  unfold moveWork
  extract_lets k v c tile ids
  exact (still_endDead s u).trans (Still.foldl (fun s i => still_preemptOne s _ _ _ _) _ v)

theorem still_refit (id : Nat) (r : RenderPass) : Still s (refit s id r).1 := by
  unfold refit
  split
  · exact .refl s
  · exact (still_setRender s id _).trans (Still.foldl (fun s k => (says_bump s _ _).still) _ _)

theorem settled_unitFault (id detail : Nat) : Settled s (unitFault s id detail) := settled_raise s _

theorem still_mapChanged : Still s (mapChanged s) := by
  refine Still.foldl (fun s e => ?_) s.cmds s
  extract_lets c
  split
  · exact .refl s
  · split
    · split
      next s1 r1 hr =>
        have h1 : Still s s1 := by
          rw [← show _ = s1 from congrArg Prod.fst hr]
          exact still_refit s e.1 _
        split
        · exact h1.trans (settled_unitFault s1 _ _).still
        · exact h1
    · split
      · split
        · exact (settled_unitFault s _ _).still
        · exact .refl s
      · exact .refl s

end

/-! ### The maps -/

theorem clearUnit_core_subset (m : Maps) (u : Nat) : (clearUnit m u).core &&& ~~~m.core = 0 := by
  unfold clearUnit
  extract_lets bit
  split
  · ext i
    simp
    tauto
  · simp

theorem clearUnit_tensor_subset {m : Maps} (u : Nat) (h : m.tensor &&& ~~~m.core = 0) :
    (clearUnit m u).tensor &&& ~~~(clearUnit m u).core = 0 := by
  unfold clearUnit
  extract_lets bit
  have hbit : ∀ i (hi : i < 48), m.tensor[i] = true → m.core[i] = true := fun i hi ht => by
    have := congrArg (fun b : BitVec 48 => b[i]) h
    simp [ht] at this
    exact this
  split
  · ext i hi
    have := hbit i hi
    simp
    tauto
  · ext i hi
    have := hbit i hi
    simp
    tauto

end Sys2Proof.Proofs

/-! The boot, device resets, and the register space. -/

namespace Sys2Proof.Proofs

open Sys2Proof.Machine

/-! ### What every step of the boot keeps -/

/-- From `s` to `t` the boot went on: the fuses, the reset line and the clocks stay, and the maps only lose units. -/
structure Boots (s t : State) : Prop where
  fuses : t.fuses = s.fuses
  sysReset : t.sysReset = s.sysReset
  pll : t.power.pll = s.power.pll
  running : t.boot.running = s.boot.running
  core : t.maps.core &&& ~~~s.maps.core = 0
  tensor : s.maps.tensor &&& ~~~s.maps.core = 0 → t.maps.tensor &&& ~~~t.maps.core = 0

/-- The same, within a stage. -/
structure BootsOn (s t : State) : Prop extends Boots s t where
  stage : t.boot.stage = s.boot.stage

theorem subset_trans {a b c : BitVec 48} (h : b &&& ~~~a = 0) (k : c &&& ~~~b = 0) : c &&& ~~~a = 0 := by
  ext i hi
  have h' := congrArg (fun x : BitVec 48 => x[i]) h
  have k' := congrArg (fun x : BitVec 48 => x[i]) k
  simp at h' k' ⊢
  tauto

theorem Boots.trans {a b c : State} (h : Boots a b) (k : Boots b c) : Boots a c :=
  ⟨k.fuses.trans h.fuses, k.sysReset.trans h.sysReset, k.pll.trans h.pll, k.running.trans h.running,
    subset_trans h.core k.core, fun ht => k.tensor (h.tensor ht)⟩

/-- A step that leaves the maps as they are. -/
theorem bootsOn_of_eq {s t : State} (hf : t.fuses = s.fuses) (hr : t.sysReset = s.sysReset) (hp : t.power.pll = s.power.pll)
    (hrun : t.boot.running = s.boot.running) (hm : t.maps = s.maps) (hs : t.boot.stage = s.boot.stage) : BootsOn s t :=
  ⟨⟨hf, hr, hp, hrun, by rw [hm]; simp, by rw [hm]; exact id⟩, hs⟩

namespace BootsOn

theorem refl (s : State) : BootsOn s s := bootsOn_of_eq rfl rfl rfl rfl rfl rfl

theorem trans {a b c : State} (h : BootsOn a b) (k : BootsOn b c) : BootsOn a c :=
  ⟨h.toBoots.trans k.toBoots, k.stage.trans h.stage⟩

theorem foldl {α : Type} {f : State → α → State} (h : ∀ s x, BootsOn s (f s x)) (l : List α) (s : State) :
    BootsOn s (l.foldl f s) := by
  induction l generalizing s with
  | nil => exact refl s
  | cons x xs ih => exact (h s x).trans (ih _)

end BootsOn

theorem Still.bootsOn {s t : State} (h : Still s t) : BootsOn s t :=
  bootsOn_of_eq h.fuses h.sysReset (by rw [h.power]) (by rw [h.boot]) h.maps (by rw [h.boot])

theorem bootsOn_of_flash {s t : State} (h : t = { s with flash := t.flash }) : BootsOn s t := by
  refine bootsOn_of_eq ?_ ?_ ?_ ?_ ?_ ?_ <;> rw [h]

theorem bootStage_boots (s : State) (n : Nat) : Boots s (bootStage s n) ∧ (bootStage s n).boot.stage = n := by
  have h := (says_raiseIbi { s with boot := { s.boot with stage := n } } 0x04 (leBytes 1 n)).still.bootsOn
  exact ⟨⟨h.fuses, h.sysReset, h.pll, h.running, h.core, h.tensor⟩, h.stage⟩

section
variable (s : State)

theorem avail_boots (a : Avail) : BootsOn s { s with avail := a } := bootsOn_of_eq rfl rfl rfl rfl rfl rfl
theorem prism_boots (p : Prism) : BootsOn s { s with prism := p } := bootsOn_of_eq rfl rfl rfl rfl rfl rfl
theorem setMem_boots (m : MemSys) : BootsOn s (s.setMem m) := bootsOn_of_eq rfl rfl rfl rfl rfl rfl

theorem bootFail_boots (n : Nat) : BootsOn s (bootFail s n) := by
  unfold bootFail
  split
  · exact bootsOn_of_eq rfl rfl rfl rfl rfl rfl
  · exact .refl s

theorem bootWarn_boots (n : Nat) : BootsOn s (bootWarn s n) := bootsOn_of_eq rfl rfl rfl rfl rfl rfl

theorem setBank_boots (b : Nat) (st : BankSt) (v : Nat) : BootsOn s (setBank s b st v) := bootsOn_of_flash (setBank_rest s b st v)

theorem probeFlash_boots (b : BootInput) : Boots s (probeFlash s b) := by
  unfold probeFlash
  extract_lets s1 boot s2
  have h1 : Boots s s1 := (bootStage_boots s 2).1
  have h2 : Boots s s2 := h1.trans (bootsOn_of_eq (s := s1) (t := s2) rfl rfl rfl rfl rfl rfl).toBoots
  split
  · exact h1.trans (bootFail_boots s1 1).toBoots
  · split
    · exact h1.trans (bootFail_boots s1 2).toBoots
    · split
      · exact h2.trans (bootWarn_boots s2 2).toBoots
      · exact h2

theorem placeImage_boots (i : List Byte) : BootsOn s (placeImage s i) := by
  unfold placeImage
  extract_lets store one prism
  have hone : ∀ s n, BootsOn s (one s n) := fun s n => prism_boots s _
  exact (prism_boots s _).trans (BootsOn.foldl hone _ _)

theorem takeImage_boots (b : Nat) (probation : Bool) : BootsOn s (takeImage s b probation) := by
  unfold takeImage
  extract_lets i s1 boot power ranger s2
  have h1 : BootsOn s s1 := by
    unfold s1
    split
    · exact setBank_boots s _ _ _
    · exact .refl s
  exact (h1.trans (b := s1) (c := s2) (bootsOn_of_eq rfl rfl rfl rfl rfl rfl)).trans (placeImage_boots s2 i)

theorem tryBanks_boots (l : List Nat) : BootsOn s (tryBanks l s) := by
  induction l generalizing s with
  | nil => exact bootFail_boots s 3
  | cons b l ih =>
    unfold tryBanks
    split
    · exact takeImage_boots s _ _
    · exact ((setBank_boots s _ _ _).trans (bootWarn_boots _ 1)).trans (ih _)

theorem verifyImage_boots : Boots s (verifyImage s) := by
  unfold verifyImage
  extract_lets s1 s2
  have h1 : Boots s s1 := (bootStage_boots s 3).1
  have h2 : BootsOn s1 s2 := by
    have hlost : BootsOn s1 (lostBanks s1) := by
      unfold lostBanks
      split
      · exact .refl s1
      · exact BootsOn.foldl (fun s b => setBank_boots s _ _ _) _ s1
    refine hlost.trans (BootsOn.foldl (fun s b => ?_) _ _)
    split
    · exact setBank_boots s _ _ _
    · exact .refl s
  split
  · exact h1
  · exact h1.trans (h2.trans (tryBanks_boots s2 _)).toBoots

theorem powerOn_boots (u : Nat) : BootsOn s (powerOn s u) := by
  unfold powerOn
  split
  · exact .refl s
  · extract_lets s1 pads
    have hf : BootsOn s (freshUnit s u) := by
      refine bootsOn_of_eq ?_ ?_ ?_ ?_ ?_ ?_ <;> (unfold freshUnit; repeat' split) <;> rfl
    exact (hf.trans (b := freshUnit s u) (c := s1) (says_bump _ _ _).still.bootsOn).trans (bootsOn_of_eq rfl rfl rfl rfl rfl rfl)

theorem lightOutput_boots (n : Nat) : BootsOn s (lightOutput s n) := by
  unfold lightOutput
  extract_lets v o s1
  have h1 : BootsOn s s1 := by
    unfold s1
    split
    · exact .refl s
    · exact ((powerOn_boots s _).trans (powerOn_boots _ _)).trans (bootsOn_of_eq rfl rfl rfl rfl rfl rfl)
  split
  · exact h1
  · exact h1.trans (bootsOn_of_eq rfl rfl rfl rfl rfl rfl)

theorem beaconOn_boots : Boots s (beaconOn s) := by
  unfold beaconOn
  extract_lets s1
  have h1 : Boots s s1 := (bootStage_boots s 4).1
  split
  · exact h1
  · exact h1.trans (BootsOn.foldl lightOutput_boots _ s1).toBoots

theorem recordError_boots (kind unit cls loc : Nat) : BootsOn s (recordError s kind unit cls loc) :=
  (readsOnly_recordError s _ _ _ _).still.bootsOn

theorem bump_boots (u o : Nat) : BootsOn s (bump s u o) := (says_bump s u o).still.bootsOn

/-- The maps lose a unit. -/
theorem clearUnit_boots (u : Nat) (avail : Avail) : BootsOn s { s with maps := clearUnit s.maps u, avail := avail } :=
  ⟨⟨rfl, rfl, rfl, rfl, clearUnit_core_subset _ _, clearUnit_tensor_subset u⟩, rfl⟩

theorem retireUnit_boots (u : Nat) : BootsOn s (retireUnit s u) := by
  unfold retireUnit
  generalize (if u < 0x30 then !s.maps.core.getLsbD u else !s.maps.tensor.getLsbD (u - 0x30)) = gone
  split
  · exact .refl s
  · split
    · exact (avail_boots s _).trans (recordError_boots _ _ _ _ _)
    · extract_lets m avail s1
      have h1 : BootsOn s s1 := (clearUnit_boots s u _).trans (bump_boots _ _ _)
      exact h1.trans ((still_mapChanged s1).trans (still_moveWork _ u)).bootsOn

theorem appendRetired_boots (kind unit loc : Nat) : BootsOn s (appendRetired s kind unit loc) := by
  unfold appendRetired
  extract_lets old n pl s1
  exact (bootsOn_of_flash (writeRec_rest s retireRec pl)).trans (c := { s1 with avail := _ })
    (bootsOn_of_eq rfl rfl rfl rfl rfl rfl)

theorem bootRetire_boots (u : Nat) : BootsOn s (bootRetire s u) := by
  unfold bootRetire
  extract_lets here s1 avail s2
  have h1 : BootsOn s s1 := ((bump_boots s _ _).trans (recordError_boots _ _ _ _ _)).trans (retireUnit_boots _ u)
  split
  · exact .refl s
  · split
    · exact h1
    · have h2 : BootsOn s1 s2 := bootsOn_of_eq rfl rfl rfl rfl rfl rfl
      exact ((h1.trans h2).trans (recordError_boots s2 _ _ _ _)).trans (appendRetired_boots _ _ _ _)

theorem applyEntry_boots (kind unit loc : Nat) : BootsOn s (applyEntry s kind unit loc) := by
  unfold applyEntry
  split
  · extract_lets e
    split
    · exact .refl s
    · split
      · exact recordError_boots s _ _ _ _
      · exact (setMem_boots s _).trans (bump_boots _ _ _)
  · generalize (if unit < 0x30 then !s.maps.core.getLsbD unit else !s.maps.tensor.getLsbD (unit - 0x30)) = gone
    split
    · exact .refl s
    · split
      · exact .refl s
      · split
        · exact (avail_boots s _).trans (recordError_boots _ _ _ _ _)
        · exact (clearUnit_boots s unit s.avail).trans (bump_boots _ _ _)

theorem applyRetirements_boots : BootsOn s (applyRetirements s) := by
  unfold applyRetirements
  extract_lets pl n s1
  have h1 : BootsOn s s1 := BootsOn.foldl (fun s i => applyEntry_boots s _ _ _) _ s
  exact h1.trans (avail_boots s1 _)

theorem trainDram_boots (d : DramFound) : BootsOn s (trainDram s d) := by
  cases d with
  | wrong => exact bootFail_boots s 4
  | untrained c => exact (bootFail_boots s 5).trans (bootWarn_boots _ _)
  | good density ranks packages =>
    simp only [trainDram]
    split
    · exact bootFail_boots s 4
    · exact bootsOn_of_eq rfl rfl rfl rfl rfl rfl

theorem startKreog_boots (b : BootInput) : Boots s (startKreog s b) ∧ (startKreog s b).boot.stage = 5 := by
  unfold startKreog
  extract_lets s1 s2 s3
  obtain ⟨h1, hstage⟩ : Boots s s1 ∧ s1.boot.stage = 5 := bootStage_boots s 5
  have h2 : BootsOn s1 s2 := BootsOn.foldl bootRetire_boots _ s1
  have h3 : BootsOn s2 s3 := by
    unfold s3
    split
    · exact .refl s2
    · exact applyRetirements_boots s2
  have hall : BootsOn s1 (if s3.boot.fail ≠ 0 then s3 else trainDram s3 b.dram) := by
    split
    · exact h2.trans h3
    · exact (h2.trans h3).trans (trainDram_boots s3 b.dram)
  exact ⟨h1.trans hall.toBoots, hall.stage.trans hstage⟩

theorem loadFuses_leaves (b : BootInput) : let t := loadFuses s b
    t.boot.running = true ∧ t.sysReset = false ∧ t.power.pll = true ∧ t.fuses = { s.fuses with strap := b.strap % 4 }
    ∧ t.maps = ⟨s.fuses.coreMap, s.fuses.coreMap, 0⟩ := by
  intro t
  obtain ⟨v, hv, hrun, hreset, hpll, hfuses, hmaps⟩ : ∃ v, t = bootStage v 1 ∧ v.boot.running = true ∧ v.sysReset = false
      ∧ v.power.pll = true ∧ v.fuses = { s.fuses with strap := b.strap % 4 } ∧ v.maps = ⟨s.fuses.coreMap, s.fuses.coreMap, 0⟩ :=
    ⟨_, rfl, rfl, rfl, rfl, rfl, rfl⟩
  have h := (says_raiseIbi { v with boot := { v.boot with stage := 1 } } 0x04 (leBytes 1 1)).still
  refine ⟨?_, ?_, ?_, ?_, ?_⟩
  · rw [hv]; exact (congrArg Boot.running h.boot).trans hrun
  · rw [hv]; exact h.sysReset.trans hreset
  · rw [hv]; exact (congrArg Power.pll h.power).trans hpll
  · rw [hv]; exact h.fuses.trans hfuses
  · rw [hv]; exact h.maps.trans hmaps

/-- The boot up to the start of Kreog. -/
theorem execResetRelease_boots (b : BootInput) (hb : s.boot.running = false) : Answers (.resetRelease b) s fun t =>
    t.boot.running = true ∧ t.boot.stage = 5 ∧ t.sysReset = false ∧ t.power.pll = true
    ∧ t.fuses = { s.fuses with strap := b.strap % 4 } ∧ (t.maps.core &&& ~~~s.fuses.coreMap) = 0
    ∧ (t.maps.tensor &&& ~~~t.maps.core) = 0 := by
  obtain ⟨hrun, hreset, hpll, hfuses, hmaps⟩ := loadFuses_leaves s b
  obtain ⟨hstart, hstage⟩ := startKreog_boots (beaconOn (verifyImage (probeFlash (loadFuses s b) b))) b
  have hall := (((probeFlash_boots _ b).trans (verifyImage_boots _)).trans (beaconOn_boots _)).trans hstart
  have hexec : exec (.resetRelease b) s = .next (startKreog (beaconOn (verifyImage (probeFlash (loadFuses s b) b))) b) := by
    rw [exec_resetRelease, execResetRelease, hb, if_neg Bool.false_ne_true]
  refine ⟨_, hexec, hall.running.trans hrun, hstage, hall.sysReset.trans hreset, hall.pll.trans hpll, hall.fuses.trans hfuses, ?_, hall.tensor ?_⟩
  · have := hall.core
    rw [hmaps] at this
    exact this
  · rw [hmaps]
    simp

end

/-! ### The domains at host-ready -/

theorem powerOn_on (s : State) (u : Nat) : u ∈ (powerOn s u).power.on ∧ ∀ x ∈ s.power.on, x ∈ (powerOn s u).power.on := by
  unfold powerOn
  split
  next h => exact ⟨List.contains_iff_mem.mp h, fun _ => id⟩
  next =>
    extract_lets s1 pads
    have h1 : s1.power = s.power := (bump_power _ _ _).trans (freshUnit_power s u)
    refine ⟨List.mem_cons_self, fun x hx => List.mem_cons_of_mem _ ?_⟩
    rw [h1]; exact hx

theorem powerOns_on (l : List Nat) (s : State) :
    (∀ x ∈ s.power.on, x ∈ (l.foldl powerOn s).power.on) ∧ ∀ u ∈ l, u ∈ (l.foldl powerOn s).power.on := by
  induction l generalizing s with
  | nil => exact ⟨fun _ => id, nofun⟩
  | cons v l ih =>
    obtain ⟨hv, hkeep⟩ := powerOn_on s v
    obtain ⟨hrest, hl⟩ := ih (powerOn s v)
    refine ⟨fun x hx => hrest x (hkeep x hx), fun u hu => ?_⟩
    rcases List.mem_cons.mp hu with rfl | hu
    · exact hrest _ hv
    · exact hl u hu

theorem execHostReady_on {s : State} (hs : s.boot.stage = 5) : Answers .hostReady s fun t => t.boot.stage = 6
    ∧ (∀ k, k < 48 → s.maps.core.getLsbD k = true → k ∈ t.power.on)
    ∧ (∀ k, k < 48 → s.maps.tensor.getLsbD k = true → 0x30 + k ∈ t.power.on)
    ∧ (∀ k, k < 16 → 0x60 + k ∈ t.power.on) ∧ (∀ p, p < 3 → portLanes s p = true → 0x98 + p ∈ t.power.on) := by
  obtain ⟨us, hus⟩ : ∃ us, us = (List.range 48).filter (fun k => s.maps.core.getLsbD k)
      ++ ((List.range 48).filter (fun k => s.maps.tensor.getLsbD k)).map (0x30 + ·)
      ++ (List.range 16).map (0x60 + ·) ++ ((List.range 3).filter (portLanes s)).map (0x98 + ·) := ⟨_, rfl⟩
  have hexec : exec .hostReady s = .next (bootStage (us.foldl powerOn s) 6) := by
    rw [exec_hostReady, execHostReady, if_neg (not_not.mpr hs), hus]
  have hon : ∀ u ∈ us, u ∈ (bootStage (us.foldl powerOn s) 6).power.on := fun u hu => by
    rw [show (bootStage (us.foldl powerOn s) 6).power = (us.foldl powerOn s).power from
      (says_raiseIbi _ 0x04 (leBytes 1 6)).power]
    exact (powerOns_on us s).2 u hu
  refine ⟨_, hexec, (bootStage_boots _ 6).2, fun k hk hm => hon _ ?_, fun k hk hm => hon _ ?_, fun k hk => hon _ ?_,
    fun p hp hl => hon _ ?_⟩ <;> rw [hus] <;> simp_all

/-! ### Registers -/

section
variable {s : State} {a : Access} (hup : accUp s a = true)
include hup

theorem registerWrite_bar0 (off : Nat) : exec (.registerWrite .bar0 .write a off) s = .next (bar0Write (bulkServed s (13 + a.port)) a off)
    ∧ exec (.registerWrite .bar0 .read a off) s = .next (bar0Read (bulkServed s (13 + a.port)) a off) := by
  constructor <;> rw [exec_registerWrite] <;> unfold execRegisterWrite portAccess <;> rw [hup] <;> rfl

theorem registerWrite_poisoned {sp : RegSpace} (hsp : sp = .bar0 ∨ sp = .bar2 ∨ sp = .vsec ∨ sp = .function) (off : Nat) :
    exec (.registerWrite sp .poisoned a off) s = .next (noteAer (bulkServed s (13 + a.port)) a.port aerPoisoned)
    ∧ exec (.registerWrite sp .atomic a off) s = .next (unsupported (bulkServed s (13 + a.port)) a.port) := by
  rcases hsp with rfl | rfl | rfl | rfl <;> constructor <;> rw [exec_registerWrite] <;> unfold execRegisterWrite portAccess <;>
    rw [hup] <;> rfl

theorem registerWrite_outside (op : AccessOp) (off : Nat) :
    exec (.registerWrite .outside op a off) s = .next (unsupported (bulkServed s (13 + a.port)) a.port) := by
  rw [exec_registerWrite]
  unfold execRegisterWrite portAccess
  rw [hup]
  cases op <;> rfl

end

section
variable {s : State} {a : Access} {t off : Nat} (ht : accTenant s a = some t)
include ht

/-- A write to a register of a block other than the Prism's, by what it hits. -/
theorem bar0Write_hit (h8 : off % 8 = 0) (hlt : off < 2 ^ 28) (h4 : off / 0x1000000 ≠ 4) :
    bar0Write s a off = if attachedPage s t off then accLog s a t 0xB off
      else match regHit s t off with
        | .ro => s
        | .rw => writeHit s a t off
        | .hidden => accLog s a t 0x2 off
        | .roRefused => accLog s a t 0x2 off
        | .absent => accLog s a t 0x1 off := by
  have ho : off / 8 * 8 = off := Nat.div_mul_cancel (Nat.dvd_of_mod_eq_zero h8)
  unfold bar0Write
  rw [ho, ht]
  dsimp only
  rw [if_neg (by omega), if_neg h4] <;> rfl

theorem bar0Read_hit (h8 : off % 8 = 0) (hlt : off < 2 ^ 28) :
    bar0Read s a off = match regHit s t off with
      | .hidden => answer (logTenant s t ⟨0x2, false, a.rid, off, s.timer⟩) a.port 0
      | .absent => answer (logTenant s t ⟨0x1, false, a.rid, off, s.timer⟩) a.port 0
      | _ => answer s a.port (bar0View s a.port t off) := by
  have ho : off / 8 * 8 = off := Nat.div_mul_cancel (Nat.dvd_of_mod_eq_zero h8)
  unfold bar0Read
  rw [ho, ht]
  dsimp only
  rw [if_neg (by omega)] <;> rfl

end

/-- The bits of a little-endian number are those of its bytes. -/
theorem testBit_leNat (l : List Byte) (n : Nat) : (leNat l).testBit n = (byteAt l (n / 8)).getLsbD (n % 8) := by
  induction l generalizing n with
  | nil => simp [leNat, byteAt]
  | cons b l ih =>
    rw [leNat, Nat.add_comm, show (256 : Nat) = 2 ^ 8 from rfl, Nat.testBit_two_pow_mul_add _ b.isLt]
    by_cases hn : n < 8
    · rw [if_pos hn, show n / 8 = 0 by omega, Nat.mod_eq_of_lt hn]
      rfl
    · rw [if_neg hn, ih, show n / 8 = (n - 8) / 8 + 1 by omega, show (n - 8) % 8 = n % 8 by omega]
      rfl

/-- The top bit of what a write sets. -/
theorem accOnes_top (a : Access) : (accOnes a).getLsbD 63 = (a.data.getLsbD 63 && a.be.getLsbD 7) := by
  have hbyte : (accOnes a).getLsbD 63 = (BitVec.ofNat 8 (if a.be.getLsbD 7 then a.data.toNat / 2 ^ 56 else 0)).getLsbD 7 := by
    rw [accOnes, accMerge, BitVec.getLsbD_ofNat, testBit_leNat]
    rfl
  rw [hbyte, BitVec.getLsbD_ofNat]
  cases a.be.getLsbD 7
  · simp
  · rw [if_pos rfl, Nat.testBit_div_two_pow]
    simp [BitVec.getLsbD]

/-- The background register of an output, as its owner writes and reads it. -/
theorem bar0_background {s : State} {a : Access} {t n : Nat} (ht : accTenant s a = some t) (hn : n < 4)
    (ho : outOwner s n = some t) :
    bar0Write s a (0x4100020 + 0x10000 * n) =
      s.setOutput n { s.output n with bg := accFields a 0xFFFFFFFFFFFF (s.output n).bg }
    ∧ bar0Read s a (0x4100020 + 0x10000 * n) = answer s a.port (s.output n).bg := by
  have h1 : (0x4100020 + 0x10000 * n) / 8 * 8 = 0x4100020 + 0x10000 * n := by omega
  have h2 : (0x4100020 + 0x10000 * n) / 0x1000000 = 4 := by omega
  have h3 : (0x4100020 + 0x10000 * n) % 0x1000000 = 0x100020 + 0x10000 * n := by omega
  have h4 : (0x100020 + 0x10000 * n - 0x100000) / 0x10000 = n := by omega
  have h5 : (0x100020 + 0x10000 * n) % 0x10000 = 0x20 := by omega
  constructor
  · have hw : writePrism s a t (0x100020 + 0x10000 * n) =
        s.setOutput n { s.output n with bg := accFields a 0xFFFFFFFFFFFF (s.output n).bg } := by
      unfold writePrism
      rw [if_neg (by omega), if_pos (by omega)]
      dsimp only
      rw [h4, h5, if_neg (by omega), if_neg (not_not.mpr ho), if_pos (by decide)]
      rfl
    unfold bar0Write
    rw [h1, ht]
    dsimp only
    rw [if_neg (by omega), if_pos h2, if_neg (by omega), h3, hw]
  · have hhit : regHit s t (0x4100020 + 0x10000 * n) = .rw := by
      unfold regHit
      dsimp only
      rw [h2, h3]
      show hitPrism s t (0x100020 + 0x10000 * n) = .rw
      unfold hitPrism
      rw [if_neg (by omega), if_pos (by omega)]
      dsimp only
      rw [h4, h5, if_neg (by omega), if_neg (by simp [outReader, ho]), if_pos (by decide)]
    have hview : bar0View s a.port t (0x4100020 + 0x10000 * n) = (s.output n).bg := by
      unfold bar0View
      dsimp only
      rw [h2, h3]
      show BitVec.ofNat 64 (prismView s t (0x100020 + 0x10000 * n)) = _
      unfold prismView
      rw [if_neg (by omega), if_pos (by omega), h4, h5]
      exact BitVec.ofNat_toNat _ _
    rw [bar0Read_hit ht (by omega) (by omega), hhit]
    dsimp only
    rw [hview]

/-- Settles O55: resets by their equation, the boot by what every step of it keeps, accesses by what they hit. -/
theorem deviceAndRegisters : Obligations.DeviceAndRegisters := by
  refine ⟨fun s => ⟨fun pin => rfl, fun hp => ?_, fun hp => ?_, rfl, fun hi => ?_⟩, fun b s hb => execResetRelease_boots s b hb,
    fun s hs => execHostReady_on hs, fun a t s hup ht => ?_, fun a off s hup => ⟨fun sp hsp => registerWrite_poisoned hup hsp off,
      fun op => registerWrite_outside hup op off, fun ht => ?_, fun t ht h8 hlt h4 => ?_, fun t n ht hn ho => ?_⟩⟩
  · rw [exec_pgLow, execPgLow, hp]
    exact congrArg _ (if_neg (by simp))
  · rw [exec_pgLow, execPgLow]
    dsimp only
    split
    · exact .inl rfl
    · exact .inr rfl
  · rw [exec_rstact, execRstact, hi]
    exact congrArg _ (if_neg (by decide))
  · rw [exec_clear, execClear, ownPage_of_own hup ht, accOnes_top]
    rfl
  · rw [(registerWrite_bar0 hup off).1]
    refine congrArg _ ?_
    unfold bar0Write
    rw [show accTenant (bulkServed s (13 + a.port)) a = none from ht]
  · intro reads writes
    have hwrites := (registerWrite_bar0 hup off).1
    have hreads := (registerWrite_bar0 hup off).2
    have ht' : accTenant (bulkServed s (13 + a.port)) a = some t := ht
    rw [bar0Write_hit ht' h8 hlt h4] at hwrites
    rw [bar0Read_hit ht' h8 hlt] at hreads
    rw [show attachedPage (bulkServed s (13 + a.port)) t off = attachedPage s t off from rfl,
      show regHit (bulkServed s (13 + a.port)) t off = regHit s t off from rfl] at hwrites
    rw [show regHit (bulkServed s (13 + a.port)) t off = regHit s t off from rfl] at hreads
    refine ⟨fun hatt => ?_, fun hatt => ⟨fun hh => ?_, fun hh => ?_, fun hh => ?_⟩, fun hh => ?_, fun hh => ?_, fun hna hnh => ?_⟩
    · rw [if_pos hatt] at hwrites
      exact hwrites
    · rw [hatt, if_neg Bool.false_ne_true, hh] at hwrites
      exact hwrites
    · rw [hatt, if_neg Bool.false_ne_true] at hwrites
      rcases hh with hh | hh <;> rw [hh] at hwrites <;> exact hwrites
    · rw [hatt, if_neg Bool.false_ne_true, hh] at hwrites
      exact hwrites
    · rw [hh] at hreads
      exact hreads
    · rw [hh] at hreads
      exact hreads
    · cases hh : regHit s t off <;> rw [hh] at hreads
      case hidden => exact absurd hh hnh
      case absent => exact absurd hh hna
      all_goals exact hreads
  · obtain ⟨hw, hr⟩ := bar0_background (s := bulkServed s (13 + a.port)) (a := a) ht hn ho
    exact ⟨(registerWrite_bar0 hup _).1.trans (congrArg _ hw), (registerWrite_bar0 hup _).2.trans (congrArg _ hr)⟩

end Sys2Proof.Proofs

/-! The registers of the fence block: signals and poison from the host, host waits, bridges, and the end of a release. -/

namespace Sys2Proof.Proofs

open Sys2Proof.Machine

/-- A key set twice holds what was set last. -/
theorem tset_tset {α : Type} (t : Tbl α) (k : Nat) (x y : α) : tset (tset t k x) k y = tset t k y := by
  induction t with
  | nil => simp [tset]
  | cons e r ih =>
    obtain ⟨j, w⟩ := e
    by_cases hk : k = j
    · subst hk; simp [tset]
    · by_cases hlt : k < j
      · simp [tset, hk, hlt]
      · simp [tset, hk, hlt, ih]

/-! ### Signals and poison from the host -/

section
variable {s : State} {a : Access} {t f : Nat} (hup : accUp s a = true) (ht : accTenant s a = some t)
include hup ht

theorem fencePage_right (hf : f < 16384) (hr : 2 ≤ fenceRight (s.fence f) t) (off : Nat) (k : Nat → State) :
    fencePage s a f off k = if a.be = 0xFF then k t else accLog s a t 0x7 off := by
  simp [fencePage, hup, ht, nFences, hf, hr]

theorem fencePage_denied (hr : fenceRight (s.fence f) t < 2) (off : Nat) (k : Nat → State) :
    fencePage s a f off k = accLog s a t 0x2 off := by
  simp [fencePage, hup, ht, Nat.not_le.mpr hr]

end

theorem fenceSignalRegister_eq (s : State) (a : Access) (f : Nat) : exec (.fenceSignalRegister a f) s =
    .next (fencePage s a f (0x1000008 + 0x40 * f) fun t => settle [.signal (.bar t a.rid) f a.data] s) := rfl

theorem fencePoisonRegister_eq (s : State) (a : Access) (f : Nat) : exec (.fencePoisonRegister a f) s =
    .next (fencePage s a f (0x1000010 + 0x40 * f) fun _ => if a.data.getLsbD 0 then settle [.poison f] s else s) := rfl

/-! ### Host waits -/

/-- A whole write to HW_CTL with bits added to its data and its byte enables: what is merged is the data with those bits. -/
theorem fullWord_or {a : Access} (h : a.be = 0xFF) (d : DWord) (b : BitVec 8) (old : DWord) :
    accMerge { a with data := a.data ||| d, be := a.be ||| b } old = a.data ||| d := by
  refine accMerge_full ?_ old
  change a.be ||| b = 0xFF
  rw [h]
  exact BitVec.allOnes_or

/-- The fields of a whole write to HW_CTL: bits that are not theirs do not count. -/
theorem hwCtl_fields (x d : DWord) (hhi : d.toNat / 2 ^ 32 = 0) (hlo : d.toNat % 2 ^ 14 = 0) :
    bitsOf (x ||| d).toNat 42 32 = x.toNat / 2 ^ 32 % 2 ^ 11 ∧ bitsOf (x ||| d).toNat 13 0 = x.toNat % 2 ^ 14 := by
  constructor
  · simp only [bitsOf, BitVec.toNat_or, Nat.shiftRight_or_distrib]
    simp only [Nat.shiftRight_eq_div_pow, hhi, Nat.or_zero]
  · simp only [bitsOf, BitVec.toNat_or, Nat.shiftRight_zero, Nat.or_mod_two_pow]
    rw [hlo, Nat.or_zero]

/-- The host wait `k` of tenant `t` set to `y`. -/
def putWait (s : State) (t k : Nat) (y : HostWait) : State :=
  { s with tenants := tset s.tenants t { s.tenant t with waits := tset (s.tenant t).waits k y } }

/-- The host wait with the fields that the word `x` written to HW_CTL gives it. -/
def pointed (h : HostWait) (x : DWord) : HostWait :=
  { h with vector := x.toNat / 2 ^ 32 % 2 ^ 11, fence := x.toNat % 2 ^ 14 }

theorem endHostWait_putWait (s : State) (t k o : Nat) (y : HostWait) :
    endHostWait (putWait s t k y) t k o = notifyTenant (putWait s t k { y with armed := false, outcome := o }) t y.vector := by
  have htenant : (putWait s t k y).tenant t = { s.tenant t with waits := tset (s.tenant t).waits k y } :=
    by simp [State.tenant, putWait, tget_tset]
  simp only [endHostWait, htenant, tget_tset, ↓reduceIte]
  simp only [State.setTenant, putWait, tset_tset]

section
variable {s : State} {a : Access} {t k : Nat} (hbe : a.be = 0xFF)
include hbe

/-- A whole write to HW_CTL of a wait that is not armed: ARM arms it, else its fields are kept. -/
theorem writeHwCtl_unarmed (d : DWord) (b : BitVec 8) (hhi : d.toNat / 2 ^ 32 = 0) (hlo : d.toNat % 2 ^ 14 = 0)
    (harm : (tget (s.tenant t).waits k .empty).armed = false) :
    writeHwCtl s { a with data := a.data ||| d, be := a.be ||| b } t k =
      if (a.data ||| d).getLsbD 15 then armWait s t k (pointed (tget (s.tenant t).waits k .empty) a.data)
      else putWait s t k (pointed (tget (s.tenant t).waits k .empty) a.data) := by
  obtain ⟨hv, hf⟩ := hwCtl_fields a.data d hhi hlo
  simp only [writeHwCtl, harm, Bool.false_eq_true, if_false, accOnes, fullWord_or hbe, hv, hf, pointed]
  rfl

/-- A whole write to HW_CTL of an armed wait: DISARM takes it back, else nothing. -/
theorem writeHwCtl_armed (d : DWord) (b : BitVec 8) (harm : (tget (s.tenant t).waits k .empty).armed = true) :
    writeHwCtl s { a with data := a.data ||| d, be := a.be ||| b } t k =
      if (a.data ||| d).getLsbD 16 then
        putWait s t k { tget (s.tenant t).waits k .empty with armed := false, outcome := 0 } else s := by
  simp only [writeHwCtl, harm, if_true, accOnes, fullWord_or hbe]
  rfl

end

theorem armWait_denied {s : State} {t k : Nat} {h : HostWait} (hr : fenceRight (s.fence h.fence) t = 0) :
    armWait s t k h = putWait s t k { h with armed := false, outcome := 3 } := by
  rw [armWait, if_pos hr]
  rfl

theorem armWait_waits {s : State} {t k : Nat} {h : HostWait} (hr : fenceRight (s.fence h.fence) t ≠ 0)
    (hflag : (s.fence h.fence).flag = false) (hreach : (s.fence h.fence).reached h.target = false) :
    armWait s t k h = putWait s t k { h with armed := true, outcome := 0 } := by
  simp only [armWait, if_neg hr, Fence.outcome, hflag, hreach]
  rfl

/-- A wait on a fence that is poisoned or has its value ends at once. -/
theorem armWait_ends {s : State} {t k : Nat} {h : HostWait} (hr : fenceRight (s.fence h.fence) t ≠ 0)
    (hend : (s.fence h.fence).flag = true ∨ (s.fence h.fence).reached h.target = true) :
    armWait s t k h = notifyTenant (putWait s t k
      { h with armed := false, outcome := if (s.fence h.fence).flag then 2 else 1 }) t h.vector := by
  have houtcome : (s.fence h.fence).outcome h.target = some (if (s.fence h.fence).flag then 1 else 0) := by
    rcases Bool.eq_false_or_eq_true (s.fence h.fence).flag with hf | hf
    · simp [Fence.outcome, hf]
    · simp [Fence.outcome, hf, hend.resolve_left (by simp [hf])]
  simp only [armWait, if_neg hr, houtcome]
  refine (endHostWait_putWait s t k _ _).trans ?_
  cases (s.fence h.fence).flag <;> rfl

theorem arm_eq {s : State} {a : Access} {t k : Nat} (hup : accUp s a = true) (ht : accTenant s a = some t) (hk : k < 64) :
    exec (.arm a t k) s = .next (writeHwCtl s { a with data := a.data ||| 0x8000, be := a.be ||| 2 } t k) := by
  rw [exec_arm, execArm, ownPage_of_own hup ht, if_pos hk]

theorem disarm_eq {s : State} {a : Access} {t k : Nat} (hup : accUp s a = true) (ht : accTenant s a = some t) (hk : k < 64) :
    exec (.disarm a t k) s = .next (writeHwCtl s { a with data := a.data ||| 0x10000, be := a.be ||| 4 } t k) := by
  rw [exec_disarm, execDisarm, ownPage_of_own hup ht, if_pos hk]

/-! ### Bridges -/

/-- Each of the values, the first against `prev`, is less than half the circle of 32-bit values ahead of the one before. -/
def Ahead (prev : Nat) (vs : List Nat) : Prop :=
  ∀ i, i < vs.length → 1 ≤ (vs.getD i 0 + 2 ^ 32 - (if i = 0 then prev else vs.getD (i - 1) 0)) % 2 ^ 32
    ∧ (vs.getD i 0 + 2 ^ 32 - (if i = 0 then prev else vs.getD (i - 1) 0)) % 2 ^ 32 < 2 ^ 31

theorem ahead_nil (prev : Nat) : Ahead prev [] := fun _ hi => absurd hi (Nat.not_lt_zero _)

theorem ahead_cons {prev v : Nat} {vs : List Nat} (h1 : 1 ≤ (v + 2 ^ 32 - prev) % 2 ^ 32)
    (h2 : (v + 2 ^ 32 - prev) % 2 ^ 32 < 2 ^ 31) (hvs : Ahead v vs) : Ahead prev (v :: vs) := by
  intro i hi
  cases i with
  | zero => exact ⟨h1, h2⟩
  | succ i =>
    have hat := hvs i (Nat.lt_of_succ_lt_succ hi)
    cases i with
    | zero => exact hat
    | succ i => exact hat

/-- The signals of a bridge from `done` to `goal`: they end at `goal`, each less than half the circle ahead. -/
theorem bridgeSteps_ahead (n t0 : Nat) : ∀ {done goal : Nat}, done < goal → goal ≤ done + n * (2 ^ 31 - 1) →
    (bridgeSteps n t0 done goal).getLast? = some ((t0 + goal) % 2 ^ 32)
    ∧ Ahead ((t0 + done) % 2 ^ 32) (bridgeSteps n t0 done goal) := by
  induction n with
  | zero => intro done goal hlt hle; omega
  | succ n ih =>
    intro done goal hlt hle
    rw [bridgeSteps, if_neg (Nat.not_le.mpr hlt)]
    obtain ⟨d, hd⟩ : ∃ d, d = min (goal - done) (2 ^ 31 - 1) := ⟨_, rfl⟩
    simp only [← hd]
    have hstep : 1 ≤ ((t0 + done + d) % 2 ^ 32 + 2 ^ 32 - (t0 + done) % 2 ^ 32) % 2 ^ 32
        ∧ ((t0 + done + d) % 2 ^ 32 + 2 ^ 32 - (t0 + done) % 2 ^ 32) % 2 ^ 32 < 2 ^ 31 := by omega
    by_cases hmore : done + d < goal
    · obtain ⟨hlast, hahead⟩ := ih hmore (by rw [Nat.succ_mul] at hle; omega)
      refine ⟨?_, ahead_cons hstep.1 hstep.2 (by rwa [Nat.add_assoc])⟩
      rw [List.getLast?_cons, hlast]
      rfl
    · have hend : done + d = goal := by omega
      have hnil : bridgeSteps n t0 (done + d) goal = [] := by
        cases n with
        | zero => rfl
        | succ n => rw [bridgeSteps, if_pos (by omega)]
      rw [hnil]
      refine ⟨?_, ahead_cons hstep.1 hstep.2 (ahead_nil _)⟩
      rw [Nat.add_assoc, hend]
      rfl

section
variable {s : State} {b : Bridge} (hlt : b.passed < (s.fence b.src).value.toNat - b.s0)
    (hplain : (s.fence b.src).heritage = false)
include hlt hplain

/-- The signals for a destination on the circle end at the count of the source, each less than half the circle ahead. -/
theorem bridgeSignals_ahead :
    (bridgeSignals s b).1.getLast? = some ((b.t0 + ((s.fence b.src).value.toNat - b.s0)) % 2 ^ 32)
    ∧ Ahead ((b.t0 + b.passed) % 2 ^ 32) (bridgeSignals s b).1 := by
  rw [bridgeSignals, hplain]
  obtain ⟨n, hn⟩ : ∃ n, n = (s.fence b.src).value.toNat - b.s0 := ⟨_, rfl⟩
  simp only [Bool.false_eq_true, if_false, ← hn] at hlt ⊢
  split
  · have hsame : (b.t0 + b.passed) % 2 ^ 32 = (b.t0 + (n - (2 ^ 32 + (n - b.passed) % 2 ^ 32))) % 2 ^ 32 := by omega
    rw [hsame]
    exact bridgeSteps_ahead 5 b.t0 (by omega) (by omega)
  · exact bridgeSteps_ahead 5 b.t0 hlt (by omega)

end

/-- What an update of a bridge does, by its signals `vs` and its new count `n`. -/
theorem bridgeUpdate_eq {s : State} {k : Nat} {b : Bridge} (hup : s.ranger.up = true) (hb : tget? s.bridges k = some b) :
    exec (.bridgeUpdate k) s =
      let f := s.fence b.src
      let h := s.fence b.dst
      let go := if f.flag && !f.heritage then [] else (bridgeSignals s b).1.map fun v =>
        Act.devSignal (.tenant h.owner) b.creator none b.dst (BitVec.ofNat 64 v)
      .next (settle (go ++ if f.flag && !h.flag then [Act.poison b.dst] else if h.flag && !f.flag then [Act.poison b.src] else [])
        { s with bridges := tset s.bridges k { b with passed := if go = [] then b.passed else (bridgeSignals s b).2 } }) := by
  rw [exec_bridgeUpdate, execBridgeUpdate, if_pos hup, updateBridge]
  simp only [hb]

theorem bridgeUpdate_heritage {s : State} {k : Nat} {b : Bridge} (hup : s.ranger.up = true) (hb : tget? s.bridges k = some b)
    (hsrc : (s.fence b.src).flag = false) (hdst : (s.fence b.dst).flag = false) (hher : (s.fence b.src).heritage = true)
    (hlt : b.passed < (s.fence b.src).adv - b.adv0) :
    exec (.bridgeUpdate k) s = .next (settle
      [.devSignal (.tenant (s.fence b.dst).owner) b.creator none b.dst
        (BitVec.ofNat 64 ((b.t0 + ((s.fence b.src).adv - b.adv0)) % 2 ^ 64))]
      { s with bridges := tset s.bridges k { b with passed := (s.fence b.src).adv - b.adv0 } }) := by
  have hsig : bridgeSignals s b =
      ([(b.t0 + ((s.fence b.src).adv - b.adv0)) % 2 ^ 64], (s.fence b.src).adv - b.adv0) := by
    simp [bridgeSignals, hher, hlt]
  rw [bridgeUpdate_eq hup hb]
  simp [hsig, hsrc, hdst]

theorem bridgeUpdate_plain {s : State} {k : Nat} {b : Bridge} (hup : s.ranger.up = true) (hb : tget? s.bridges k = some b)
    (hsrc : (s.fence b.src).flag = false) (hdst : (s.fence b.dst).flag = false) (hplain : (s.fence b.src).heritage = false)
    (hlt : b.passed < (s.fence b.src).value.toNat - b.s0) :
    exec (.bridgeUpdate k) s = .next (settle
      ((bridgeSignals s b).1.map fun v => .devSignal (.tenant (s.fence b.dst).owner) b.creator none b.dst (BitVec.ofNat 64 v))
      { s with bridges := tset s.bridges k { b with passed := (s.fence b.src).value.toNat - b.s0 } }) := by
  have hsome : (bridgeSignals s b).1 ≠ [] := fun hnil => by
    have hlast := (bridgeSignals_ahead hlt hplain).1
    rw [hnil] at hlast
    exact absurd hlast (by simp)
  have hcount : (bridgeSignals s b).2 = (s.fence b.src).value.toNat - b.s0 := by simp [bridgeSignals, hplain]
  rw [bridgeUpdate_eq hup hb]
  simp [hsrc, hdst, hsome, hcount]

theorem bridgeUpdate_poisoned {s : State} {k : Nat} {b : Bridge} (hup : s.ranger.up = true) (hb : tget? s.bridges k = some b)
    (hsrc : (s.fence b.src).flag = true) (hdst : (s.fence b.dst).flag = false) (hplain : (s.fence b.src).heritage = false) :
    exec (.bridgeUpdate k) s = .next (settle [.poison b.dst] { s with bridges := tset s.bridges k { b with passed := b.passed } }) := by
  rw [bridgeUpdate_eq hup hb]
  simp [hsrc, hdst, hplain]

theorem bridgeUpdate_dstPoisoned {s : State} {k : Nat} {b : Bridge} (hup : s.ranger.up = true)
    (hb : tget? s.bridges k = some b) (hsrc : (s.fence b.src).flag = false) (hdst : (s.fence b.dst).flag = true)
    (hnil : (bridgeSignals s b).1 = []) :
    exec (.bridgeUpdate k) s = .next (settle [.poison b.src] { s with bridges := tset s.bridges k { b with passed := b.passed } }) := by
  rw [bridgeUpdate_eq hup hb]
  simp [hsrc, hdst, hnil]

theorem fenceReleased_eq {s : State} {f : Nat} (hst : (s.fence f).st = .releasing) (hnamed : fenceNamed s f = false) :
    exec (.fenceReleased f) s = .next (finalAll { s with
      fences := tset s.fences f { Fence.reset with freed := s.fenceFrees + 1 }
      fenceFrees := s.fenceFrees + 1 } 0x402 f 0 0 []) := by
  rw [exec_fenceReleased, execFenceReleased, if_neg (by simp [hst, hnamed])]
  rfl

/-- Settles O33: the pages of the fence block by the right and the width; a whole write to HW_CTL by whether the wait is armed;
the bridge's signals as a chain of steps; a release by what still names the fence. -/
theorem fenceRegisters : Obligations.FenceRegisters := by
  refine ⟨?_, ?_, ?_, fun f s => fenceReleased_eq⟩
  · intro a f t s hup ht
    refine ⟨fun hf hr hbe => ?_, fun hf hr hbe => ?_, fun hr => ?_⟩
    · rw [fenceSignalRegister_eq, fencePoisonRegister_eq, fencePage_right hup ht hf hr, fencePage_right hup ht hf hr,
        if_pos hbe, if_pos hbe]
      exact ⟨rfl, rfl⟩
    · rw [fenceSignalRegister_eq, fencePoisonRegister_eq, fencePage_right hup ht hf hr, fencePage_right hup ht hf hr,
        if_neg hbe, if_neg hbe]
      exact ⟨rfl, rfl⟩
    · rw [fenceSignalRegister_eq, fencePoisonRegister_eq, fencePage_denied hup ht hr, fencePage_denied hup ht hr]
      exact ⟨rfl, rfl⟩
  · intro a t k s hup ht hk hbe x h w f put
    have hon : (a.data ||| 0x8000).getLsbD 15 = true := by simp
    have harm : h.armed = false → exec (.arm a t k) s = .next (armWait s t k w) := fun hun => by
      rw [arm_eq hup ht hk, writeHwCtl_unarmed hbe _ _ (by decide) (by decide) hun, if_pos hon]
      rfl
    have hsame : w.armed = h.armed := rfl
    refine ⟨fun hun hr => ?_, fun hun hr hflag hreach => ?_, fun hun hr hend => ?_, fun hold hbit => ?_, fun hold => ?_,
      fun hun hbit => ?_⟩
    · rw [harm hun, armWait_denied hr, hsame, hun]
      rfl
    · rw [harm hun, armWait_waits hr hflag hreach]
      rfl
    · rw [harm hun, armWait_ends hr hend, hsame, hun]
      rfl
    · rw [arm_eq hup ht hk, writeHwCtl_armed hbe _ _ hold, if_neg (by rw [BitVec.getLsbD_or, hbit]; decide)]
    · rw [disarm_eq hup ht hk, writeHwCtl_armed hbe _ _ hold, if_pos (by simp)]
      rfl
    · rw [disarm_eq hup ht hk, writeHwCtl_unarmed hbe _ _ (by decide) (by decide) hun, if_neg (by rw [BitVec.getLsbD_or, hbit]; decide)]
      rfl
  · intro k s b hup hb
    refine ⟨fun hsrc hdst hher hlt => bridgeUpdate_heritage hup hb hsrc hdst hher hlt, fun hsrc hdst hplain hlt => ?_,
      fun hsrc hdst hplain => bridgeUpdate_poisoned hup hb hsrc hdst hplain,
      fun hsrc hdst hnil => bridgeUpdate_dstPoisoned hup hb hsrc hdst hnil⟩
    obtain ⟨hlast, hahead⟩ := bridgeSignals_ahead hlt hplain
    exact ⟨_, bridgeUpdate_plain hup hb hsrc hdst hplain hlt, hlast, hahead⟩

end Sys2Proof.Proofs

/-! O38: contexts through the Flume, and what becomes of a context that is reset or destroyed. -/

namespace Sys2Proof.Proofs

open Sys2Proof.Machine

/-! ### The queues of a context, one after the other -/

/-- Each queue whose entry meets `p` is changed by `upd` and reported. -/
def onQueues (p : Queue → Bool) (upd : Queue → Queue) (l : Tbl Queue) (s : State) : State :=
  l.foldl (fun s e => if p e.2 then report (s.setQueue e.1 (upd (s.queue e.1))) e.1 else s) s

section
variable {p : Queue → Bool} {upd : Queue → Queue}

/-- One queue's turn: the queues change, and what a report writes. -/
theorem queueTurn_settled (s : State) (e : Nat × Queue) (hupd : ∀ x, (upd x).ctx = x.ctx) :
    let t := if p e.2 then report (s.setQueue e.1 (upd (s.queue e.1))) e.1 else s
    t.ctxs = s.ctxs ∧ t.cmds = s.cmds ∧ (∀ q, (t.queue q).ctx = (s.queue q).ctx)
      ∧ ∀ q, t.queue q = if e.1 = q ∧ p e.2 = true then upd (s.queue q) else s.queue q := by
  cases hp : p e.2
  · simp
  · have hw := writesOnly_report (s.setQueue e.1 (upd (s.queue e.1))) e.1
    have hq (q : Nat) : (report (s.setQueue e.1 (upd (s.queue e.1))) e.1).queue q =
        if e.1 = q ∧ true = true then upd (s.queue q) else s.queue q := by
      rw [hw.queue, State.setQueue_queue]
      by_cases h : q = e.1
      · subst h; simp
      · rw [if_neg h, if_neg fun hc => h hc.1.symm]
    refine ⟨hw.ctxs, hw.cmds, fun q => ?_, hq⟩
    rw [if_pos rfl, hq]
    split
    · exact hupd _
    · rfl

theorem onQueues_rest (hupd : ∀ x, (upd x).ctx = x.ctx) (l : Tbl Queue) (s : State) :
    (onQueues p upd l s).ctxs = s.ctxs ∧ (onQueues p upd l s).cmds = s.cmds
      ∧ ∀ q, ((onQueues p upd l s).queue q).ctx = (s.queue q).ctx := by
  induction l generalizing s with
  | nil => exact ⟨rfl, rfl, fun _ => rfl⟩
  | cons e l ih =>
    obtain ⟨hctxs, hcmds, hctx, -⟩ := queueTurn_settled (p := p) s e hupd
    obtain ⟨kctxs, kcmds, kctx⟩ := ih (if p e.2 then report (s.setQueue e.1 (upd (s.queue e.1))) e.1 else s)
    exact ⟨kctxs.trans hctxs, kcmds.trans hcmds, fun q => (kctx q).trans (hctx q)⟩

/-- What each change brings about holds in the end of a queue of which it held before, or that had its turn. -/
theorem onQueues_queue (hupd : ∀ x, (upd x).ctx = x.ctx) {good : Queue → Prop} (hgood : ∀ x, good (upd x)) {l : Tbl Queue}
    {s : State} {q : Nat} (h : good (s.queue q) ∨ ∃ e ∈ l, e.1 = q ∧ p e.2 = true) : good ((onQueues p upd l s).queue q) := by
  induction l generalizing s with
  | nil => exact h.resolve_right (by simp)
  | cons e l ih =>
    obtain ⟨-, -, -, hq⟩ := queueTurn_settled (p := p) s e hupd
    refine ih ?_
    by_cases hturn : e.1 = q ∧ p e.2 = true
    · left
      rw [hq q, if_pos hturn]
      exact hgood _
    · rw [hq q, if_neg hturn]
      refine h.imp_right fun ⟨x, hx, hxq⟩ => ?_
      rcases List.mem_cons.mp hx with rfl | hx
      · exact absurd hxq hturn
      · exact ⟨x, hx, hxq⟩

/-- Each queue whose own entry meets `p`, as the first entry of its key, has its turn. -/
theorem onQueues_turn (hupd : ∀ x, (upd x).ctx = x.ctx) {good : Queue → Prop} (hgood : ∀ x, good (upd x)) {s : State} {q : Nat}
    (hfree : ∀ x : Queue, x.st = .free → p x = false) (hq : p (s.queue q) = true) :
    good ((onQueues p upd s.queues s).queue q) := by
  refine onQueues_queue hupd hgood (.inr ?_)
  cases hx : tget? s.queues q with
  | none =>
    rw [State.queue, tget_eq, hx, hfree _ rfl] at hq
    exact absurd hq Bool.false_ne_true
  | some x =>
    rw [State.queue, tget_eq, hx] at hq
    exact ⟨(q, x), mem_of_tget? hx, rfl, hq⟩

end

/-- The queues of context `c` that are in use. -/
def usedBy (c : Nat) (q : Queue) : Bool := decide (q.ctx = c) && q.st != .free

theorem usedBy_free {c : Nat} (x : Queue) (hx : x.st = .free) : usedBy c x = false := by simp [usedBy, hx]

/-! ### Stopping a context -/

/-- What of a context's work is taken away before its queues are stopped. -/
def discarded (s : State) (c : Nat) : State :=
  stopBlazeOf (stopChipOf (dropCommands (discardWaits (discardSessions (endRunsOf s c rRefused 0x20FF) c) c) fun e => e.2.ctx == c)
    fun _ g => g.1 == (s.ctx c).tenant) (s.ctx c).tenant

/-- A queue stopped with its context: what it has not read is passed over. -/
def emptied (q : Queue) : Queue := { q with read := q.last, st := if q.st = .live then .stopped else q.st }

theorem emptied_st (q : Queue) : (emptied q).st ≠ .live := by
  by_cases h : q.st = .live <;> simp [emptied, h]

theorem discardCtx_eq (s : State) (c : Nat) :
    discardCtx s c = onQueues (usedBy c) emptied (discarded s c).queues (discarded s c) := rfl

theorem discarded_cmds {s : State} {c : Nat} : ∀ e ∈ (discarded s c).cmds, e.2.ctx ≠ c := by
  intro e he
  have hsub := ((discards_stopChipOf (s := dropCommands (discardWaits (discardSessions (endRunsOf s c rRefused 0x20FF) c) c)
    fun e => e.2.ctx == c) _).trans (discards_stopBlazeOf _ _)).cmds.subset he
  simpa using not_mem_dropCommands _ hsub

theorem discardCtx_cmds {s : State} {c : Nat} : ∀ e ∈ (discardCtx s c).cmds, e.2.ctx ≠ c := by
  intro e he
  rw [discardCtx_eq, (onQueues_rest (upd := emptied) (fun _ => rfl) _ _).2.1] at he
  exact discarded_cmds e he

theorem discardCtx_queue {s : State} {c q : Nat} (hq : ((discardCtx s c).queue q).ctx = c) :
    ((discardCtx s c).queue q).st ≠ .live := by
  rw [discardCtx_eq] at hq ⊢
  obtain ⟨d, hd⟩ : ∃ d, d = discarded s c := ⟨_, rfl⟩
  rw [← hd] at hq ⊢
  rw [(onQueues_rest (upd := emptied) (fun _ => rfl) _ _).2.2] at hq
  by_cases hfree : (d.queue q).st = .free
  · exact onQueues_queue (upd := emptied) (fun _ => rfl) (good := fun x => x.st ≠ .live) emptied_st
      (.inl (by rw [hfree]; exact QueueSt.noConfusion))
  · exact onQueues_turn (upd := emptied) (fun _ => rfl) (good := fun x => x.st ≠ .live) emptied_st
      usedBy_free (by simp [usedBy, hq, hfree])

/-- Stopping a context leaves it in the state asked for, which no fault changes. -/
theorem stopCtx_stops {s : State} {c : Nat} {st : CtxSt} (hst : st ≠ .live) :
    ((stopCtx s c st).ctx c).st = st ∧ (∀ e ∈ (stopCtx s c st).cmds, e.2.ctx ≠ c)
      ∧ ∀ q, ((stopCtx s c st).queue q).ctx = c → ((stopCtx s c st).queue q).st ≠ .live := by
  obtain ⟨d, hd⟩ : ∃ d, d = discardCtx s c := ⟨_, rfl⟩
  obtain ⟨v, hv⟩ : ∃ v, v = setCtxSt d c st := ⟨_, rfl⟩
  have hw := writesOnly_setBlock (d.setCtx c { d.ctx c with st := st }) c 64 4 st.code
  rw [show setBlock _ _ _ _ _ = v from hv.symm] at hw
  have hstop : stopCtx s c st = settle ((guarded s c).map Act.poison) v := by rw [hv, hd]; rfl
  have hsettled := settled_settle (s := v) ((guarded s c).map Act.poison)
  rw [← hstop] at hsettled
  have hvst : (v.ctx c).st = st := by rw [hv, setCtxSt_ctx, if_pos rfl]
  have hvqueue (q : Nat) : v.queue q = d.queue q := hw.queue q
  refine ⟨?_, fun e he => ?_, fun q hq => ?_⟩
  · rw [hsettled.ctxSt_of_ne (by rw [hvst]; exact hst), hvst]
  · have hin := hsettled.cmds.subset he
    rw [hw.cmds] at hin
    exact discardCtx_cmds e (hd ▸ hin)
  · rw [hsettled.queueCtx, hvqueue, hd] at hq
    have hlive : (v.queue q).st ≠ .live := by rw [hvqueue, hd]; exact discardCtx_queue hq
    rcases hsettled.queueSt q with h | h <;> rw [h]
    · exact hlive
    · exact QueueSt.noConfusion

/-! ### Destroying a context -/

/-- A queue of a destroyed context, which is freed once its commands are done. -/
def drained (q : Queue) : Queue := { q with st := .draining }

/-- The stopped context, with its loads ended and its graphs gone. -/
def unloaded (s : State) (c : Nat) : State :=
  let s1 := stopCtx (endLoadsOf s c) c .destroying
  { s1 with ranger := { s1.ranger with graphs := s1.ranger.graphs.filter fun e => e.2.ctx != c } }

theorem destroyCtx_eq (s : State) (c : Nat) :
    destroyCtx s c = onQueues (usedBy c) drained (unloaded s c).queues (unloaded s c) := rfl

theorem destroyCtx_stops (s : State) (c : Nat) :
    ((destroyCtx s c).ctx c).st = .destroying ∧ (∀ e ∈ (destroyCtx s c).cmds, e.2.ctx ≠ c)
      ∧ ∀ q, ((destroyCtx s c).queue q).ctx = c → ((destroyCtx s c).queue q).st = .draining ∨ ((destroyCtx s c).queue q).st = .free := by
  rw [destroyCtx_eq]
  obtain ⟨d, hd⟩ : ∃ d, d = unloaded s c := ⟨_, rfl⟩
  rw [← hd]
  obtain ⟨hst, hcmds, -⟩ := stopCtx_stops (s := endLoadsOf s c) (c := c) (st := .destroying) CtxSt.noConfusion
  obtain ⟨kctxs, kcmds, kctx⟩ := onQueues_rest (p := usedBy c) (upd := drained) (fun _ => rfl) d.queues d
  refine ⟨?_, fun e he => ?_, fun q hq => ?_⟩
  · rw [State.ctx, kctxs, hd]
    exact hst
  · rw [kcmds, hd] at he
    exact hcmds e he
  · rw [kctx] at hq
    by_cases hfree : (d.queue q).st = .free
    · exact onQueues_queue (upd := drained) (fun _ => rfl) (good := fun x => x.st = .draining ∨ x.st = .free) (fun _ => .inl rfl)
        (.inl (.inr hfree))
    · exact onQueues_turn (upd := drained) (fun _ => rfl) (good := fun x => x.st = .draining ∨ x.st = .free) (fun _ => .inl rfl)
        usedBy_free (by simp [usedBy, hq, hfree])

/-! ### The end of a reset -/

/-- Between the two states only the block of context `c` was written. -/
structure BlockOnly (c : Nat) (s t : State) : Prop where
  cmds : t.cmds = s.cmds
  queues : t.queues = s.queues
  ctx : ∀ k, t.ctx k = if k = c then { s.ctx c with block := (t.ctx c).block } else s.ctx k

theorem BlockOnly.trans {c : Nat} {a b d : State} (h : BlockOnly c a b) (k : BlockOnly c b d) : BlockOnly c a d where
  cmds := k.cmds.trans h.cmds
  queues := k.queues.trans h.queues
  ctx i := by
    rw [k.ctx i]
    split
    · rw [h.ctx c, if_pos rfl]
    next hi => rw [h.ctx i, if_neg hi]

theorem blockOnly_setBlock (s : State) (c off n v : Nat) : BlockOnly c s (setBlock s c off n v) := by
  have hw := writesOnly_setBlock s c off n v
  refine ⟨hw.cmds, hw.queues, fun k => ?_⟩
  rw [hw.ctx, hw.ctx, State.setCtx_ctx, State.setCtx_ctx, if_pos rfl]

theorem blockOnly_foldl (c : Nat) (l : List (Nat × Nat × Nat)) {s t : State} (h : BlockOnly c s t) :
    BlockOnly c s (l.foldl (fun s (e : Nat × Nat × Nat) => setBlock s c e.1 e.2.1 e.2.2) t) := by
  induction l generalizing t with
  | nil => exact h
  | cons e l ih => exact ih (h.trans (blockOnly_setBlock t c _ _ _))

theorem blockOnly_resetBlock (s : State) (c : Nat) : BlockOnly c s (resetBlock s c) :=
  blockOnly_foldl c _ (blockOnly_setBlock s c _ _ _)

theorem settleReset_rest (s : State) (t : Nat) : (settleReset s t).ctxs = s.ctxs ∧ (settleReset s t).cmds = s.cmds
    ∧ (settleReset s t).queues = s.queues := by
  unfold settleReset
  split
  · have hsays := (says_bump (s.setTenant t { s.tenant t with resetting := false }) uSched 0x170).trans
      (says_finalAll _ 0x202 t rOk 0 [])
    exact ⟨hsays.ctxs, hsays.cmds, hsays.queues⟩
  · exact ⟨rfl, rfl, rfl⟩

/-- The queues of context `c` that were stopped with it. -/
def stoppedOf (c : Nat) (q : Queue) : Bool := decide (q.ctx = c) && q.st == .stopped

/-- A queue of a context that is back. -/
def revived (q : Queue) : Queue := { q with st := .live }

/-- The context back in LIVE, its queues still stopped. -/
def liveAgain (s : State) (c : Nat) : State := setCtxSt (resetBlock s c) c .live

theorem liveAgain_rest (s : State) (c : Nat) : (liveAgain s c).cmds = s.cmds ∧ (liveAgain s c).queues = s.queues
    ∧ ∀ k, (liveAgain s c).ctx k =
      if k = c then { s.ctx c with st := .live, block := ((liveAgain s c).ctx c).block } else s.ctx k := by
  have hblock := blockOnly_resetBlock s c
  obtain ⟨b, hb⟩ : ∃ b, b = resetBlock s c := ⟨_, rfl⟩
  have hlive : liveAgain s c = setCtxSt b c .live := by rw [hb]; rfl
  rw [← hb] at hblock
  have hw := writesOnly_setBlock (b.setCtx c { b.ctx c with st := .live }) c 64 4 CtxSt.live.code
  refine ⟨?_, ?_, fun k => ?_⟩
  · rw [hlive]
    exact hw.cmds.trans hblock.cmds
  · rw [hlive]
    exact hw.queues.trans hblock.queues
  · rw [hlive, setCtxSt_ctx, setCtxSt_ctx, if_pos rfl, hblock.ctx k, hblock.ctx c, if_pos rfl]
    split <;> rfl

theorem contextResetDone_eq {s : State} {c : Nat} (h : (s.ctx c).st = .resetting) :
    exec (.contextResetDone c) s = .next (settleReset
      (finalAll (bump (onQueues (stoppedOf c) revived (liveAgain s c).queues (liveAgain s c)) uSched 0x168) 0x205 c rOk 0 []) (s.ctx c).tenant) := by
  rw [exec_contextResetDone, execContextResetDone, if_neg (not_not.mpr h)]
  rfl

theorem contextResetDone_answers {s : State} {c : Nat} (h : (s.ctx c).st = .resetting) : Answers (.contextResetDone c) s fun t =>
    (t.ctx c).st = .live ∧ (t.ctx c).faults = (s.ctx c).faults ∧ (∀ k, k ≠ c → t.ctx k = s.ctx k)
      ∧ t.cmds = s.cmds ∧ ∀ q, (s.queue q).ctx = c → (s.queue q).st = .stopped → (t.queue q).st = .live := by
  refine ⟨_, contextResetDone_eq h, ?_⟩
  obtain ⟨d, hd⟩ : ∃ d, d = liveAgain s c := ⟨_, rfl⟩
  rw [← hd]
  obtain ⟨kctxs, kcmds, -⟩ := onQueues_rest (p := stoppedOf c) (upd := revived) (fun _ => rfl) d.queues d
  obtain ⟨v, hv⟩ : ∃ v, v = onQueues (stoppedOf c) revived d.queues d := ⟨_, rfl⟩
  rw [← hv] at kctxs kcmds ⊢
  have hsays := (says_bump v uSched 0x168).trans (says_finalAll _ 0x205 c rOk 0 [])
  obtain ⟨hctxs, hcmds, hqueues⟩ := settleReset_rest (finalAll (bump v uSched 0x168) 0x205 c rOk 0 []) (s.ctx c).tenant
  rw [hsays.ctxs, kctxs] at hctxs
  rw [hsays.cmds, kcmds] at hcmds
  rw [hsays.queues] at hqueues
  obtain ⟨hdcmds, hdqueues, hctx⟩ := liveAgain_rest s c
  rw [← hd] at hdcmds hdqueues hctx
  have hctx' (k : Nat) : (settleReset (finalAll (bump v uSched 0x168) 0x205 c rOk 0 []) (s.ctx c).tenant).ctx k = d.ctx k := by
    rw [State.ctx, hctxs]
    rfl
  refine ⟨?_, ?_, fun k hk => ?_, hcmds.trans hdcmds, fun q hq hst => ?_⟩
  · rw [hctx', hctx, if_pos rfl]
  · rw [hctx', hctx, if_pos rfl]
  · rw [hctx', hctx, if_neg hk]
  · rw [State.queue, hqueues, hv]
    have hdq : d.queue q = s.queue q := by rw [State.queue, hdqueues]; rfl
    exact onQueues_turn (upd := revived) (fun _ => rfl) (good := fun x => x.st = .live) (fun _ => rfl)
      (fun x hx => by simp [stoppedOf, hx]) (by rw [hdq]; simp [stoppedOf, hq, hst])

/-! ### The end of a destruction -/

theorem retireOrphans_rest (s : State) : (retireOrphans s).ctxs = s.ctxs ∧ (retireOrphans s).queues = s.queues
    ∧ (retireOrphans s).mem = s.mem ∧ (retireOrphans s).fences = s.fences := by
  unfold retireOrphans
  refine ⟨foldl_keeps State.ctxs ?_ _ _, foldl_keeps State.queues ?_ _ _, foldl_keeps State.mem ?_ _ _,
    foldl_keeps State.fences ?_ _ _⟩ <;> exact fun _ _ => rfl

theorem mem_dropTlb {s : State} {c va n : Nat} {e : TlbEntry} : e ∈ (dropTlb s c va n).mem.tlb ↔
    e ∈ s.mem.tlb ∧ ¬(e.ctx = c ∧ (n = 0 ∨ (e.va < va + n ∧ va < e.va + e.len))) := by
  simp only [dropTlb, State.setMem, List.mem_filter, ← Bool.not_eq_true, Bool.not_eq_true', Bool.and_eq_true, Bool.or_eq_true,
    beq_iff_eq, decide_eq_true_eq]

/-- The state in which nothing names context `c` any more. -/
def unnamed (s : State) (c : Nat) : State :=
  let s1 := dropTlb s c 0 0
  let s2 := s1.setMem { s1.mem with icache := s1.mem.icache.filter fun e => e.ctx != c }
  { s2 with
    chipGrants := s2.chipGrants.filter fun g => g.2.2 != c
    fences := tmap s2.fences fun _ f => { f with
      binds := tdrop f.binds (· == c)
      guard := if f.guard = some c then none else f.guard } }

theorem unnamed_fence (s : State) (c f : Nat) : (unnamed s c).fence f = { s.fence f with
    binds := tdrop (s.fence f).binds (· == c), guard := if (s.fence f).guard = some c then none else (s.fence f).guard } :=
  tget_tmap s.fences (fun _ (f : Fence) => { f with
    binds := tdrop f.binds (· == c), guard := if f.guard = some c then none else f.guard }) f Fence.reset rfl

theorem contextFreed_eq {s : State} {c : Nat} (h : (s.ctx c).st = .destroying)
    (hq : ∀ e ∈ s.queues, e.2.ctx = c → e.2.st = .free) :
    exec (.contextFreed c) s = .next (finalAll (retireOrphans ((unnamed s c).setCtx c .free)) 0x206 c rOk 0 []) := by
  have hnone : s.queues.any (fun e => e.2.ctx == c && e.2.st != .free) = false :=
    List.any_eq_false.mpr fun e he => by
      by_cases hc : e.2.ctx = c
      · simp [hc, hq e he hc]
      · simp [hc]
  rw [exec_contextFreed, execContextFreed, if_neg (by simp [h, hnone])]
  rfl

theorem contextFreed_answers {s : State} {c : Nat} (h : (s.ctx c).st = .destroying)
    (hq : ∀ e ∈ s.queues, e.2.ctx = c → e.2.st = .free) : Answers (.contextFreed c) s fun t =>
      t.ctx c = .free ∧ (∀ k, k ≠ c → t.ctx k = s.ctx k) ∧ t.queues = s.queues
        ∧ (∀ e ∈ t.mem.tlb, e.ctx ≠ c) ∧ (∀ e ∈ t.mem.icache, e.ctx ≠ c)
        ∧ ∀ f, tget? (t.fence f).binds c = none ∧ (t.fence f).guard ≠ some c := by
  refine ⟨_, contextFreed_eq h hq, ?_⟩
  obtain ⟨hctxs, hqueues, hmem, hfences⟩ := retireOrphans_rest ((unnamed s c).setCtx c .free)
  obtain ⟨v, hv⟩ : ∃ v, v = retireOrphans ((unnamed s c).setCtx c .free) := ⟨_, rfl⟩
  rw [← hv] at hctxs hqueues hmem hfences ⊢
  have hsays := says_finalAll v 0x206 c rOk 0 []
  have hctx (k : Nat) : (finalAll v 0x206 c rOk 0 []).ctx k = if k = c then Ctx.free else s.ctx k := by
    rw [State.ctx, hsays.ctxs, hctxs]
    exact State.setCtx_ctx _ _ _ _
  refine ⟨by rw [hctx, if_pos rfl], fun k hk => by rw [hctx, if_neg hk], by rw [hsays.queues, hqueues]; rfl, fun e he => ?_,
    fun e he => ?_, fun f => ?_⟩
  · rw [hsays.mem, hmem] at he
    have hin : e ∈ (dropTlb s c 0 0).mem.tlb := he
    exact fun hc => (mem_dropTlb.mp hin).2 ⟨hc, .inl rfl⟩
  · rw [hsays.mem, hmem] at he
    have hin : e ∈ (dropTlb s c 0 0).mem.icache.filter fun e => e.ctx != c := he
    exact bne_iff_ne.mp (List.mem_filter.mp hin).2
  · have hf : (finalAll v 0x206 c rOk 0 []).fence f = (unnamed s c).fence f := by
      rw [State.fence, hsays.fences, hfences]
      rfl
    rw [hf, unnamed_fence]
    refine ⟨?_, ?_⟩
    · simp [tget?_tdrop]
    · dsimp only
      split
      · exact (Option.some_ne_none c).symm
      next hne => exact hne

/-! ### Requests about contexts -/

section
variable {r : Req} {s : State}

/-- The requester may make the context that the payload describes. -/
def MayCreate (r : Req) (s : State) : Prop :=
  let p := reqField r
  objRight (s.obj (p 4 2)) r.ch ≠ 0 ∧ 2 ≤ objRight (s.obj (p 12 2)) r.ch
    ∧ ((p 0 1).testBit 1 = true → 2 ≤ fenceRight (s.fence (p 2 2)) r.ch)

/-- The context that the payload describes. -/
def described (r : Req) : Ctx :=
  let p := reqField r
  { st := .live, tenant := r.ch, heritage := (p 0 1).testBit 0, rootObj := p 4 2, rootGen := p 6 2, rootPage := p 8 4
    statObj := p 12 2, statGen := p 14 2, statOff := p 16 8, faultFence := if (p 0 1).testBit 1 then some (p 2 2) else none
    texVa := p 24 8, texCount := p 32 4, sampVa := p 40 8, sampCount := p 36 4, faults := 0, wdLimit := 2000000
    block := freshBlock, residentTicks := 0 }

theorem mayCreate_iff : (objRight (s.obj (reqField r 4 2)) r.ch = 0 ∨ objRight (s.obj (reqField r 12 2)) r.ch < 2
    ∨ ((reqField r 0 1).testBit 1 = true ∧ fenceRight (s.fence (reqField r 2 2)) r.ch < 2)) ↔ ¬MayCreate r s := by
  simp only [MayCreate, not_and_or, ne_eq, not_not, Nat.not_le, Classical.not_imp]

theorem heapOk_iff {va align : Nat} : heapOk va align = true ↔ va % align = 0 ∧ va < 2 ^ 48 := by simp [heapOk]

theorem execContextCreate_served (hch : r.ch < 16)
    (h : Requested s r 12 [(0, 1), (2, 2), (4, 2), (6, 2), (8, 4), (12, 2), (14, 2), (16, 8), (24, 8), (32, 4), (36, 4), (40, 8)])
    (hgood : ∀ c ∈ [(0, decide (reqField r 0 1 < 4)),
      (2, !bitOf (reqField r 0 1) 1 || (decide (reqField r 2 2 < nFences) && (s.fence (reqField r 2 2)).st != .free)),
      (4, nameLive s (reqField r 4 2) (reqField r 6 2)), (12, nameLive s (reqField r 12 2) (reqField r 14 2)),
      (16, reqField r 16 8 % 256 == 0 && decide (reqField r 16 8 + 256 ≤ (s.obj (reqField r 12 2)).size)),
      (24, heapOk (reqField r 24 8) 32), (32, decide (reqField r 32 4 ≤ 1048576)), (36, decide (reqField r 36 4 ≤ 4096)),
      (40, heapOk (reqField r 40 8) 16)], c.2 = true) :
    exec (.contextCreate r) s = .next (
      let u := takeReq s r true
      answered u r 0x204 (
        if objRight (s.obj (reqField r 4 2)) r.ch = 0 ∨ objRight (s.obj (reqField r 12 2)) r.ch < 2
          ∨ ((reqField r 0 1).testBit 1 = true ∧ fenceRight (s.fence (reqField r 2 2)) r.ch < 2) then (u, .denied 3)
        else if objGone s (reqField r 4 2) ∨ objGone s (reqField r 12 2) then (u, .hostGone)
        else match pickSlot u 256 fun c => (s.ctx c).st == .free with
          | (none, s1) => (s1, .noSlot 2)
          | (some c, s1) => (objWrite (s1.setCtx c (described r)) (reqField r 12 2) (reqField r 14 2) (reqField r 16 8)
              (freshBlock.read 0 256), .reply rOk 0 (leBytes 4 c)))) := by
  rw [exec_contextCreate, execContextCreate, serve_requested h]
  dsimp only
  rw [roleThen_none (by rw [not_isI hch]; rfl) _ (paramFail_none h ?_)]
  · rfl
  · exact hgood

theorem execContextReset_served (h : Requested s r 1 [(0, 2)]) (hc : ctxHere s (reqField r 0 2) = true) :
    exec (.contextReset r) s = .next (
      answered (takeReq s r true) r 0x205 (if !ownCtx s r (reqField r 0 2) then (takeReq s r true, .denied 2)
       else match (s.ctx (reqField r 0 2)).st with
         | .live | .faulted => (stopCtx (takeReq s r true) (reqField r 0 2) .resetting, .accepted (reqField r 0 2))
         | .resetting => (takeReq s r true, .accepted (reqField r 0 2))
         | _ => (takeReq s r true, .badParam 0xFFFF))) := by
  rw [exec_contextReset, execContextReset, serve_requested h]
  dsimp only
  rw [roleThen_none rfl _ (paramFail_none h ?_)]
  · rfl
  · simp [show ctxHere (takeReq s r true) (reqField r 0 2) = true from hc]

theorem execContextDestroy_served (hch : r.ch < 16) (h : Requested s r 1 [(0, 2)]) (hc : ctxHere s (reqField r 0 2) = true) :
    exec (.contextDestroy r) s = .next (
      answered (takeReq s r true) r 0x206 (if !ownCtx s r (reqField r 0 2) then (takeReq s r true, .denied 2)
        else if (s.ctx (reqField r 0 2)).st = .live ∨ (s.ctx (reqField r 0 2)).st = .faulted then
          (destroyCtx (takeReq s r true) (reqField r 0 2), .accepted (reqField r 0 2))
        else (takeReq s r true, .badParam 0xFFFF))) := by
  rw [exec_contextDestroy, execContextDestroy, serve_requested h]
  dsimp only
  rw [roleThen_none (by rw [not_isI hch]; rfl) _ (paramFail_none h ?_)]
  · rfl
  · simp [show ctxHere (takeReq s r true) (reqField r 0 2) = true from hc]

theorem execContextQuery_served (h : Requested s r 1 [(0, 2)]) (hc : ctxHere s (reqField r 0 2) = true) :
    exec (.contextQuery r) s = .next (
      answered (takeReq s r true) r 0x208 (if !ownCtx s r (reqField r 0 2) then (takeReq s r true, .denied 2)
        else (takeReq s r true, .reply rOk 0 ((s.ctx (reqField r 0 2)).block.read 0 256)))) := by
  rw [exec_contextQuery, execContextQuery, serve_requested h]
  dsimp only
  rw [roleThen_none rfl _ (paramFail_none h ?_)]
  · rfl
  · simp [show ctxHere (takeReq s r true) (reqField r 0 2) = true from hc]

theorem execContextSetHeaps_served (hch : r.ch < 16) (h : Requested s r 8 [(0, 2), (4, 4), (8, 8), (16, 8), (24, 4)])
    (hc : ctxHere s (reqField r 0 2) = true) (hown : ownCtx s r (reqField r 0 2) = true) (htex : reqField r 4 4 ≤ 1048576)
    (hheap : heapOk (reqField r 8 8) 32 = true) (hsamp : heapOk (reqField r 16 8) 16 = true) (hcount : reqField r 24 4 ≤ 4096) :
    exec (.contextSetHeaps r) s = .next (
      answered (takeReq s r true) r 0x207 (
        if s.cmds.any fun e => e.2.ctx == reqField r 0 2 && (e.2.kind == .dispatch || e.2.kind == .cut || e.2.kind == .render) then
          (takeReq s r true, .busy 3)
        else ((takeReq s r true).setCtx (reqField r 0 2) { s.ctx (reqField r 0 2) with
          texVa := reqField r 8 8, texCount := reqField r 4 4, sampVa := reqField r 16 8, sampCount := reqField r 24 4 }, .ok))) := by
  have hown' : (!ownCtx (takeReq s r true) r (reqField r 0 2)) = false := by rw [Bool.not_eq_false']; exact hown
  have hc' : ctxHere (takeReq s r true) (reqField r 0 2) = true := hc
  rw [exec_contextSetHeaps, execContextSetHeaps, serve_requested h]
  dsimp only
  rw [roleThen_none (by rw [not_isI hch]; rfl) _ (paramFail_none h (by simp [hc', htex, hheap, hsamp, hcount])), hown',
    if_neg Bool.false_ne_true]
  rfl

theorem execContextTlbInvalidate_served (hch : r.ch < 16) (h : Requested s r 6 [(0, 2), (8, 8), (16, 8)])
    (hc : ctxHere s (reqField r 0 2) = true) (hown : ownCtx s r (reqField r 0 2) = true)
    (hva : reqField r 8 8 % 4096 = 0) (hn : reqField r 16 8 % 4096 = 0) :
    exec (.contextTlbInvalidate r) s = .next (
      answered (takeReq s r true) r 0x209
        (dropTlb (takeReq s r true) (reqField r 0 2) (reqField r 8 8) (reqField r 16 8),
          .accepted (tlbArg (reqField r 0 2) (reqField r 8 8) (reqField r 16 8)))) := by
  have hown' : (!ownCtx (takeReq s r true) r (reqField r 0 2)) = false := by rw [Bool.not_eq_false']; exact hown
  have hc' : ctxHere (takeReq s r true) (reqField r 0 2) = true := hc
  rw [exec_contextTlbInvalidate, execContextTlbInvalidate, serve_requested h]
  dsimp only
  rw [roleThen_none (by rw [not_isI hch]; rfl) _ (paramFail_none h (by simp [hc', hva, hn])), hown', if_neg Bool.false_ne_true]

theorem ownCtx_iff (hch : r.ch < 16) {c : Nat} : ownCtx s r c = true ↔ (s.ctx c).tenant = r.ch := by
  simp [ownCtx, not_isI hch]

theorem contextTlbInvalidateDone_eq {c va n : Nat}
    (h : ∃ ch, ch < 17 ∧ ∃ a ∈ (s.channel ch).accepted, a.opcode = 0x209 ∧ a.arg = tlbArg c va n) :
    exec (.contextTlbInvalidateDone c va n) s = .next (finalAll (dropTlb s c va n) 0x209 (tlbArg c va n) 0 0 []) := by
  obtain ⟨ch, hch, a, ha, hop, harg⟩ := h
  rw [exec_contextTlbInvalidateDone, execContextTlbInvalidateDone, if_pos]
  · rfl
  · simp only [List.any_eq_true, List.mem_range]
    exact ⟨ch, hch, a, ha, by simp [hop, harg]⟩

end

/-- Settles O38: what each request answers where its parameters are in range, and what a stop, a reset, a destruction and an
invalidation leave. -/
theorem contexts : Obligations.Contexts := by
  refine ⟨?_, fun c s _ => ?_, fun c s => contextResetDone_answers, fun c s => contextFreed_answers, fun c va n s =>
    contextTlbInvalidateDone_eq, fun c va n s e => mem_dropTlb⟩
  · intro r s hch u p c x mine other room turned
    have hown (hm : mine) : ctxHere s c = true ∧ ownCtx s r c = true :=
      ⟨ctxHere_of hm.1 hm.2.1, (ownCtx_iff hch).mpr hm.2.2⟩
    refine ⟨?_, fun h ho => ?_, fun h hm hst hroom => ?_, fun h hm hst hroom => ?_, fun h hm => ?_, ?_, ?_⟩
    · intro h hflags hroot hstat halign hfit htal htex htc hsc hsal hsamp hfence may v made
      have hfits : ((!bitOf (p 0 1) 1 || (decide (p 2 2 < nFences) && (s.fence (p 2 2)).st != .free)) = true) := by
        cases hb : bitOf (p 0 1) 1
        · rfl
        · obtain ⟨hlt, hst⟩ := hfence hb
          simp [hst, show p 2 2 < nFences from hlt]
      have hexec := execContextCreate_served hch h (by
        simp only [List.forall_mem_cons]
        exact ⟨decide_eq_true hflags, hfits, hroot, hstat, by simpa using ⟨halign, hfit⟩, heapOk_iff.mpr ⟨htal, htex⟩,
          decide_eq_true htc, decide_eq_true hsc, heapOk_iff.mpr ⟨hsal, hsamp⟩, nofun⟩)
      dsimp only at hexec
      refine ⟨fun hno => ?_, fun hmay hgr hgs => ⟨fun hnone => ?_, fun hfree => ?_⟩⟩
      · show exec (.contextCreate r) s = _
        rw [hexec, if_pos (mayCreate_iff.mpr hno), answered_denied]
      · rw [hexec, if_neg (fun hd => mayCreate_iff.mp hd hmay), if_neg (by rw [hgr, hgs]; decide),
          pickSlot_none (by decide) fun k hk => by simpa using hnone k hk]
        rfl
      · obtain ⟨k, hk, hkfree, hpick⟩ := pickSlot_some (s := u) (n := 256) (free := fun c => (s.ctx c).st == .free)
          (by simpa using hfree)
        refine ⟨k, hk, eq_of_beq hkfree, ?_⟩
        rw [hexec, if_neg (fun hd => mayCreate_iff.mp hd hmay), if_neg (by rw [hgr, hgs]; decide), hpick]
        rfl
    · obtain ⟨hc, hst, hne⟩ := ho
      have hhere := ctxHere_of hc hst
      have hnot : (!ownCtx s r c) = true := by
        rw [Bool.not_eq_true', Bool.eq_false_iff, ne_eq, ownCtx_iff hch]
        exact hne
      refine ⟨?_, ?_, ?_⟩
      · show exec (.contextReset r) s = _
        rw [execContextReset_served h hhere, if_pos hnot, answered_denied]
      · show exec (.contextDestroy r) s = _
        rw [execContextDestroy_served hch h hhere, if_pos hnot, answered_denied]
      · show exec (.contextQuery r) s = _
        rw [execContextQuery_served h hhere, if_pos hnot, answered_denied]
    · obtain ⟨hhere, hmay⟩ := hown hm
      have hnot : ¬(!ownCtx s r c) = true := by rw [hmay]; exact Bool.false_ne_true
      refine ⟨?_, ?_⟩
      · rw [execContextReset_served h hhere, if_neg hnot]
        rcases hst with hst | hst <;> rw [show (s.ctx (reqField r 0 2)).st = _ from hst] <;> exact congrArg _ (answered_accepted hroom _ _ _)
      · rw [execContextDestroy_served hch h hhere, if_neg hnot, if_pos hst, answered_accepted hroom]
    · obtain ⟨hhere, hmay⟩ := hown hm
      rw [execContextReset_served h hhere, if_neg (by rw [hmay]; exact Bool.false_ne_true),
        show (s.ctx (reqField r 0 2)).st = _ from hst]
      exact congrArg _ (answered_accepted hroom _ _ _)
    · obtain ⟨hhere, hmay⟩ := hown hm
      rw [execContextQuery_served h hhere, if_neg (by rw [hmay]; exact Bool.false_ne_true)]
      rfl
    · intro h hm htex hhal hh hsal hs hcount uses
      obtain ⟨hhere, hmay⟩ := hown hm
      have huses : (s.cmds.any fun e => e.2.ctx == c && (e.2.kind == .dispatch || e.2.kind == .cut || e.2.kind == .render)) = true
          ↔ uses := by
        simp only [List.any_eq_true, Bool.and_eq_true, Bool.or_eq_true, beq_iff_eq, or_assoc, uses]
      have hexec := execContextSetHeaps_served hch h hhere hmay htex (heapOk_iff.mpr ⟨hhal, hh⟩) (heapOk_iff.mpr ⟨hsal, hs⟩) hcount
      refine ⟨fun hu => ?_, fun hu => ?_⟩
      · show exec (.contextSetHeaps r) s = _
        rw [hexec, if_pos (huses.mpr hu), answered_busy]
      · rw [hexec, if_neg (fun hd => hu (huses.mp hd)), answered_ok]
    · intro h hm hva hn hroom
      obtain ⟨hhere, hmay⟩ := hown hm
      rw [execContextTlbInvalidate_served hch h hhere hmay hva hn, answered_accepted hroom]
  · obtain ⟨hst, hcmds, hlive⟩ := stopCtx_stops (s := s) (c := c) (st := .resetting) CtxSt.noConfusion
    obtain ⟨hdst, hdcmds, hdrain⟩ := destroyCtx_stops s c
    exact ⟨hst, hcmds, hlive, hdst, hdcmds, hdrain⟩

end Sys2Proof.Proofs

/-! O49: outputs and their sinks. -/

namespace Sys2Proof.Proofs

open Sys2Proof.Machine

/-! ### What a masked write merges -/

/-- Each bit of a merged word comes from the data where its byte is enabled. -/
theorem accMerge_bit (a : Access) (old : DWord) {i : Nat} (hi : i < 64) :
    (accMerge a old).getLsbD i = if a.be.getLsbD (i / 8) then a.data.getLsbD i else old.getLsbD i := by
  have hbyte : byteAt ((List.range 8).map fun i =>
      BitVec.ofNat 8 (if a.be.getLsbD i then a.data.toNat / 2 ^ (8 * i) else old.toNat / 2 ^ (8 * i))) (i / 8) =
      BitVec.ofNat 8 (if a.be.getLsbD (i / 8) then a.data.toNat / 2 ^ (8 * (i / 8)) else old.toNat / 2 ^ (8 * (i / 8))) :=
    byteAt_map_range _ (by omega)
  have hlt : i % 8 < 8 := Nat.mod_lt _ (by decide)
  have hsum : i % 8 + 8 * (i / 8) = i := Nat.mod_add_div i 8
  rw [accMerge, BitVec.getLsbD_ofNat, testBit_leNat, hbyte, BitVec.getLsbD_ofNat]
  split <;> simp [hi, hlt, Nat.testBit_div_two_pow, hsum, BitVec.getLsbD]

/-- A command bit that a write adds, with its byte, is in what it merges; one that it takes out is not. -/
theorem accFields_set {a : Access} {d : DWord} {b : BitVec 8} {i : Nat} (mask old : DWord) (hi : i < 64)
    (hb : b.getLsbD (i / 8) = true) (hmask : mask.getLsbD i = true) :
    (accFields { a with data := d, be := a.be ||| b } mask old).getLsbD i = d.getLsbD i := by
  rw [accFields, BitVec.getLsbD_and, accMerge_bit _ _ hi, hmask, Bool.and_true, BitVec.getLsbD_or, hb, Bool.or_true, if_pos rfl]

theorem accOnes_set {a : Access} {d : DWord} {b : BitVec 8} {i : Nat} (hi : i < 64) (hb : b.getLsbD (i / 8) = true) :
    (accOnes { a with data := d, be := a.be ||| b }).getLsbD i = d.getLsbD i := by
  rw [accOnes, accMerge_bit _ _ hi, BitVec.getLsbD_or, hb, Bool.or_true, if_pos rfl]

/-! ### Registers of an output -/

section
variable {s : State} {a : Access} {t n : Nat} (hup : accUp s a = true) (ht : accTenant s a = some t)
include hup ht

theorem ownerWrite_owner (ho : outOwner s n = some t) (off : Nat) (k : Nat → State) : ownerWrite s a n off k = k t := by
  simp [ownerWrite, hup, ho, ht]

theorem ownerWrite_other (ho : outOwner s n ≠ some t) (off : Nat) (k : Nat → State) :
    ownerWrite s a n off k = accLog s a t 0x2 off := by
  simp only [ownerWrite, hup, Bool.not_true, Bool.false_eq_true, if_false]
  cases h : outOwner s n with
  | none => simp [accRefuse, ht]
  | some u =>
    have hne : ¬some t = some u := fun hu => ho (by rw [h, ← hu])
    simp only [ht, if_neg hne, accRefuse]

end

/-- The control register as a write to it leaves it. -/
def ctlWritten (o : Output) (a : Access) : Output :=
  { o with ctl := accFields a 0xFFFFFF0FFFF38F01 o.ctl ||| (o.ctl &&& 0x30), waitEnable := false }

section
variable {s : State} {a : Access} {n : Nat}

theorem writeOutCtl_eq (s : State) (a : Access) (n : Nat) : writeOutCtl s a n =
    let o := s.output n
    let v := accFields a 0xFFFFFF0FFFF38F01 o.ctl
    let s1 := s.setOutput n (ctlWritten o a)
    let m := (ctlWritten o a).pendMode
    if v.getLsbD 0 && o.src == .off then
      (if s.power.nightPads.contains (uOut n) || outClosing s n then s1.setOutput n { ctlWritten o a with waitEnable := true }
      else leaveOff s1 n m true)
    else if !v.getLsbD 0 && o.src != .off then enterOff s1 n
    else if (accOnes a).getLsbD 1 && !o.busy then startModeset s1 n m true
    else s1 := by
  unfold writeOutCtl
  extract_lets o v s1 m held s2 m'
  have hout : s1.output n = ctlWritten o a := by
    rw [show s1 = s.setOutput n (ctlWritten o a) from rfl, State.setOutput_output, if_pos rfl]
  have hm : m = m' := congrArg Output.pendMode hout
  rw [hm, show held = ctlWritten o a from hout]
  rfl

theorem writeOutCtl_enables (hbit : (accFields a 0xFFFFFF0FFFF38F01 (s.output n).ctl).getLsbD 0 = true)
    (hoff : (s.output n).src = .off) (hpads : 0x94 + n ∉ s.power.nightPads) (hclosing : outClosing s n = false) :
    writeOutCtl s a n = leaveOff (s.setOutput n (ctlWritten (s.output n) a)) n (ctlWritten (s.output n) a).pendMode true := by
  have hpads' : s.power.nightPads.contains (uOut n) = false := Bool.eq_false_iff.mpr fun h => hpads (List.contains_iff_mem.mp h)
  rw [writeOutCtl_eq]
  dsimp only
  rw [hbit, hoff, hpads', hclosing]
  rfl

theorem writeOutCtl_waits (hbit : (accFields a 0xFFFFFF0FFFF38F01 (s.output n).ctl).getLsbD 0 = true)
    (hoff : (s.output n).src = .off) (hheld : 0x94 + n ∈ s.power.nightPads ∨ outClosing s n = true) :
    writeOutCtl s a n = (s.setOutput n (ctlWritten (s.output n) a)).setOutput n
      { ctlWritten (s.output n) a with waitEnable := true } := by
  have hheld' : (s.power.nightPads.contains (uOut n) || outClosing s n) = true := by
    rcases hheld with h | h
    · rw [show s.power.nightPads.contains (uOut n) = true from List.contains_iff_mem.mpr h, Bool.true_or]
    · rw [h, Bool.or_true]
  rw [writeOutCtl_eq]
  dsimp only
  rw [hbit, hoff, hheld']
  rfl

theorem writeOutCtl_disables (hbit : (accFields a 0xFFFFFF0FFFF38F01 (s.output n).ctl).getLsbD 0 = false)
    (hon : (s.output n).src ≠ .off) : writeOutCtl s a n = enterOff (s.setOutput n (ctlWritten (s.output n) a)) n := by
  rw [writeOutCtl_eq]
  dsimp only
  rw [hbit, if_neg (by simp), if_pos (by simpa using hon)]

theorem writeOutCtl_modeset (hbit : (accFields a 0xFFFFFF0FFFF38F01 (s.output n).ctl).getLsbD 0 = true)
    (hon : (s.output n).src ≠ .off) (hset : (accOnes a).getLsbD 1 = true) (hbusy : (s.output n).busy = false) :
    writeOutCtl s a n = startModeset (s.setOutput n (ctlWritten (s.output n) a)) n (ctlWritten (s.output n) a).pendMode true := by
  rw [writeOutCtl_eq]
  dsimp only
  rw [hbit, hset, hbusy, if_neg (by simpa using hon), if_neg (by simp)]
  rfl

theorem writeAux_go (hgo : (accOnes a).getLsbD 63 = true) : writeAux s a n = s.setOutput n (
    let o := s.output n
    let v := accFields a 0x0F0C0000000FFFFF o.aux
    if o.auxBusy then { o with aux := v } else if auxDenied o v then { o with aux := v, auxResult := 4 }
    else { o with aux := v, auxBusy := true }) := by
  simp only [writeAux, hgo, Bool.not_true, Bool.false_or]
  split
  · rfl
  · split <;> rfl

end

/-! ### Mode sets -/

/-- The checks of a mode look at nothing of an output but its interface and its sink. -/
theorem modeErr_congr {o p : Output} (hi : p.iface = o.iface) (hs : p.sink = o.sink) (hw : p.window = o.window) (m : VideoMode) :
    modeErr p m = modeErr o m := by
  have hd : dpcd p = dpcd o := by unfold dpcd; rw [hw]
  have hrate : sinkRate p = sinkRate o := by unfold sinkRate; rw [hi, hs, hd]
  have hlanes : sinkLanes p = sinkLanes o := by unfold sinkLanes; rw [hi, hs, hd]
  have hlinks : linkChoices p m = linkChoices o m := by unfold linkChoices; rw [hi, hrate, hlanes]
  have hface : ifaceOk p m = ifaceOk o m := by unfold ifaceOk; rw [hi]
  have hdsc : dscOk p m = dscOk o m := by unfold dscOk; rw [hi, hs, hd]
  rw [modeErr, modeErr, hface, hdsc, hlinks]

/-- An output as a mode set leaves it. -/
def moded (o : Output) (m : VideoMode) (owner : Bool) : Output :=
  if modeErr o m ≠ 0 then { o with err := modeErr o m, ownerMode := o.ownerMode || owner }
  else { o with err := 0, mode := m, busy := o.sink && o.src != .off, linkUp := false, ownerMode := o.ownerMode || owner }

theorem startModeset_eq (s : State) (n : Nat) (m : VideoMode) (owner : Bool) :
    startModeset s n m owner = s.setOutput n (moded (s.output n) m owner) := rfl

theorem startModeset_output (s : State) (n : Nat) (m : VideoMode) (owner : Bool) :
    (startModeset s n m owner).output n = moded (s.output n) m owner := by
  rw [startModeset_eq, State.setOutput_output, if_pos rfl]

theorem moded_rest (o : Output) (m : VideoMode) (owner : Bool) : moded o m owner = { o with
    err := modeErr o m, ownerMode := o.ownerMode || owner, mode := (moded o m owner).mode, busy := (moded o m owner).busy
    linkUp := (moded o m owner).linkUp } := by
  unfold moded
  split
  · rfl
  next h => rw [not_not.mp h]

theorem moded_done {o : Output} {m : VideoMode} (h : modeErr o m = 0) (owner : Bool) :
    (moded o m owner).mode = m ∧ (moded o m owner).busy = (o.sink && o.src != .off) ∧ (moded o m owner).linkUp = false := by
  rw [moded, if_neg (not_not.mpr h)]
  exact ⟨rfl, rfl, rfl⟩

theorem moded_bad {o : Output} {m : VideoMode} (h : modeErr o m ≠ 0) (owner : Bool) : (moded o m owner).mode = o.mode := by
  rw [moded, if_pos h]

theorem powerOn_prism (s : State) (u : Nat) : (powerOn s u).prism = s.prism ∧ (powerOn s u).ranger.up = s.ranger.up := by
  have hfresh : (freshUnit s u).prism = s.prism ∧ (freshUnit s u).ranger = s.ranger := by
    constructor <;> (unfold freshUnit; repeat' split) <;> rfl
  unfold powerOn
  split
  · exact ⟨rfl, rfl⟩
  · exact ⟨(bump_prism _ _ _).trans hfresh.1, by rw [← hfresh.2]; exact congrArg Ranger.up (bump_ranger _ _ _)⟩

/-- The source that an output leaving OFF takes. -/
def firstSrc (s : State) : PixSrc := if s.ranger.up = true then .compose else .hold

theorem firstSrc_on (s : State) : (firstSrc s != .off) = true := by
  unfold firstSrc
  split <;> rfl

/-- An output that leaves OFF: its source, its mode set and the powers of its domains. -/
theorem leaveOff_output (s : State) (n : Nat) (m : VideoMode) (owner : Bool) :
    (leaveOff s n m owner).output n = moded { s.output n with src := firstSrc s, frame := 0 } m owner
    ∧ 0x94 + n ∈ (leaveOff s n m owner).power.on ∧ 0x90 + n / 2 ∈ (leaveOff s n m owner).power.on := by
  obtain ⟨s1, hs1⟩ : ∃ s1, s1 = powerOn (powerOn s (uOut n)) (0x90 + n / 2) := ⟨_, rfl⟩
  have hprism : s1.prism = s.prism := by rw [hs1, (powerOn_prism _ _).1, (powerOn_prism _ _).1]
  have hup : s1.ranger.up = s.ranger.up := by rw [hs1, (powerOn_prism _ _).2, (powerOn_prism _ _).2]
  have hsame : s1.output n = s.output n := by rw [State.output, hprism]; rfl
  have hleave : leaveOff s n m owner =
      startModeset (s1.setOutput n { s.output n with src := firstSrc s, frame := 0 }) n m owner := by
    rw [leaveOff, ← hs1, hsame, hup]
    rfl
  have hon := powerOn_on (powerOn s (uOut n)) (0x90 + n / 2)
  rw [← hs1] at hon
  have hpower : (leaveOff s n m owner).power = s1.power := by rw [hleave]; rfl
  refine ⟨?_, ?_, ?_⟩
  · rw [hleave, startModeset_output, State.setOutput_output, if_pos rfl]
  · rw [hpower]
    exact hon.2 _ (powerOn_on s (uOut n)).1
  · rw [hpower]
    exact hon.1

/-! ### The sets, layers and services of an output that enters OFF -/

theorem settled_cancelSet (s : State) (x : FlipSet) : Settled (dropSet s x.id) (cancelSet s x) :=
  ((settled_noteLast _ x 2).trans (says_bump _ _ _).settled).trans (settled_settle _ _)

/-- No set of the list is left. -/
theorem eachSet_cancels (xs : List FlipSet) (s : State) :
    Settled s (eachSet cancelSet xs s) ∧ ∀ x ∈ xs, ∀ y ∈ (eachSet cancelSet xs s).prism.sets, y.id ≠ x.id := by
  unfold eachSet
  induction xs generalizing s with
  | nil => exact ⟨.refl s, nofun⟩
  | cons x xs ih =>
    obtain ⟨v, hv⟩ : ∃ v, v = if s.prism.sets.any (fun y => y.id == x.id) then cancelSet s x else s := ⟨_, rfl⟩
    have hturn : Settled s v ∧ ∀ y ∈ v.prism.sets, y.id ≠ x.id := by
      rw [hv]
      split
      · refine ⟨(settled_dropSet s x.id).trans (settled_cancelSet s x), fun y hy => ?_⟩
        obtain ⟨z, hz, hyz⟩ := (settled_cancelSet s x).sets y hy
        rw [hyz]
        exact bne_iff_ne.mp (List.mem_filter.mp hz).2
      next hnone =>
        exact ⟨.refl s, fun y hy hid => hnone (List.any_eq_true.mpr ⟨y, hy, beq_iff_eq.mpr hid⟩)⟩
    rw [List.foldl_cons, ← hv]
    obtain ⟨hrest, hgone⟩ := ih v
    refine ⟨hturn.1.trans hrest, fun w hw => ?_⟩
    rcases List.mem_cons.mp hw with rfl | hw
    · intro y hy
      obtain ⟨z, hz, hyz⟩ := hrest.sets y hy
      rw [hyz]
      exact hturn.2 z hz
    · exact hgone w hw

theorem disableLayers_layer (s : State) {n k : Nat} (hk : k < 16) :
    ((disableLayers s (ofOutput n)).layer n k).act.enable = false := by
  have hof : ofOutput n (16 * n + k) = true := beq_iff_eq.mpr (by omega)
  have hlayer : (disableLayers s (ofOutput n)).layer n k = { s.layer n k with
      act := { (s.layer n k).act with ctl := (s.layer n k).act.ctl &&& ~~~1 } } :=
    (tget_tmap s.prism.layers (fun k l => if ofOutput n k then { l with act := { l.act with ctl := l.act.ctl &&& ~~~1 } } else l)
      (16 * n + k) .reset (by rw [if_pos hof]; rfl)).trans (if_pos hof)
  rw [hlayer, LayerRegs.enable]
  simp

/-- The state with the layers of an output out of force and its sets cancelled. -/
def unset (s : State) (n : Nat) : State :=
  eachSet cancelSet (s.prism.sets.filter fun x => x.output == n) (disableLayers s (ofOutput n))

/-- The output in OFF. -/
def darkened (o : Output) : Output :=
  { o.applyCommit with
    src := .off, linkUp := false, leadDues := [], busy := false, under := [], toKeeper := false, released := false
    engineReset := false }

theorem enterOff_eq {s : State} {n : Nat} (hon : (s.output n).src ≠ .off) :
    enterOff s n = ({ unset s n with
      prism := { (unset s n).prism with compose := tdrop (unset s n).prism.compose fun k => k / 16 == n } }).setOutput n
        (darkened ((unset s n).output n)) := by
  unfold enterOff
  exact if_neg hon

/-- An output that enters OFF has no link, no set, no composition service and no layer in force left. -/
theorem enterOff_output {s : State} {n : Nat} (hon : (s.output n).src ≠ .off) :
    ((enterOff s n).output n).src = .off ∧ ((enterOff s n).output n).linkUp = false ∧ ((enterOff s n).output n).busy = false
      ∧ (∀ x ∈ (enterOff s n).prism.sets, x.output ≠ n) ∧ (∀ e ∈ (enterOff s n).prism.compose, e.1 / 16 ≠ n)
      ∧ ∀ k, k < 16 → ((enterOff s n).layer n k).act.enable = false := by
  obtain ⟨hsettled, hgone⟩ := eachSet_cancels (s.prism.sets.filter fun x => x.output == n) (disableLayers s (ofOutput n))
  have hout : (enterOff s n).output n = darkened ((unset s n).output n) := by
    rw [enterOff_eq hon, State.setOutput_output, if_pos rfl]
  have hsets : (enterOff s n).prism.sets = (unset s n).prism.sets := by rw [enterOff_eq hon]; rfl
  refine ⟨by rw [hout]; rfl, by rw [hout]; rfl, by rw [hout]; rfl, fun x hx hxn => ?_, fun e he => ?_, fun k hk => ?_⟩
  · rw [hsets] at hx
    obtain ⟨y, hy, hxy⟩ := hsettled.sets x hx
    refine hgone y (List.mem_filter.mpr ⟨hy, beq_iff_eq.mpr ?_⟩) x hx (by rw [hxy])
    rw [← hxn, hxy]
  · rw [enterOff_eq hon] at he
    simpa using (List.mem_filter.mp he).2
  · have hlayer : (enterOff s n).layer n k = (disableLayers s (ofOutput n)).layer n k := by
      rw [enterOff_eq hon]
      exact congrArg (fun t => tget t (16 * n + k) .reset) hsettled.layers
    rw [hlayer]
    exact disableLayers_layer s hk

/-! ### Links -/

/-- The bits of a field that a word gets by or-ing, where the mask has cleared them. -/
theorem bitsOf_masked_or (x m : DWord) (v hi lo : Nat) (hm : m.toNat >>> lo % 2 ^ (hi + 1 - lo) = 0) :
    bitsOf ((x &&& m) ||| BitVec.ofNat 64 v).toNat hi lo = bitsOf (v % 2 ^ 64) hi lo := by
  simp only [bitsOf, BitVec.toNat_or, BitVec.toNat_and, BitVec.toNat_ofNat, Nat.shiftRight_or_distrib, Nat.shiftRight_and_distrib,
    Nat.or_mod_two_pow, Nat.and_mod_two_pow, hm, Nat.and_zero, Nat.zero_or]

theorem linkChoices_bounds {o : Output} {m : VideoMode} {r l : Nat} (h : (r, l) ∈ linkChoices o m) : r < 256 ∧ l < 16 := by
  have hin := (List.mem_filter.mp h).1
  simp only [List.mem_flatMap, List.mem_map, Prod.mk.injEq] at hin
  obtain ⟨r', hr, l', hl, rfl, rfl⟩ := hin
  have hrate : r' < 256 := by
    unfold ifaceRates at hr
    split at hr
    · fin_cases hr <;> decide
    · split at hr
      · fin_cases hr <;> decide
      · obtain ⟨i, hi, rfl⟩ := List.mem_map.mp hr
        have := List.mem_range.mp hi
        omega
  have hlane : l' < 16 := by
    unfold ifaceLanes at hl
    split at hl <;> fin_cases hl <;> decide
  exact ⟨hrate, hlane⟩

/-- The mode with the link that the training chose. -/
def trained (m : VideoMode) (r l : Nat) : VideoMode :=
  { m with ctl := (m.ctl &&& ~~~0xFF0F00000000) ||| BitVec.ofNat 64 (r * 2 ^ 40 + l * 2 ^ 32) }

theorem trained_link (m : VideoMode) {r l : Nat} (hr : r < 256) (hl : l < 16) :
    (trained m r l).rate = r ∧ (trained m r l).lanes = l := by
  constructor
  · rw [VideoMode.rate, trained, bitsOf_masked_or _ _ _ _ _ (by decide), bitsOf, Nat.shiftRight_eq_div_pow]
    omega
  · rw [VideoMode.lanes, trained, bitsOf_masked_or _ _ _ _ _ (by decide), bitsOf, Nat.shiftRight_eq_div_pow]
    omega

/-! ### Sinks -/

theorem notifySink_output (s : State) (n k : Nat) : (notifySink s n).output k = s.output k := by
  unfold notifySink ownerSignal
  split
  · split
    · exact (settled_settle _ _).output k
    · rfl
  · rfl

/-- The flags of the blocks whose sums are not 0. -/
def blockFlags (blocks : List (List Byte)) (n : Nat) : Nat :=
  (List.range n).foldl (fun acc i => acc + if badBlock (blocks.getD i []) then 2 ^ i else 0) 0

theorem blockFlags_spec (blocks : List (List Byte)) (n : Nat) : blockFlags blocks n < 2 ^ n
    ∧ ∀ i, i < n → (blockFlags blocks n).testBit i = badBlock (blocks.getD i []) := by
  induction n with
  | zero => exact ⟨Nat.zero_lt_one, nofun⟩
  | succ n ih =>
    obtain ⟨hlt, hbits⟩ := ih
    have hnext : blockFlags blocks (n + 1) = 2 ^ n * (badBlock (blocks.getD n [])).toNat + blockFlags blocks n := by
      rw [blockFlags, List.range_succ, List.foldl_append]
      show blockFlags blocks n + (if badBlock (blocks.getD n []) then 2 ^ n else 0) = _
      cases badBlock (blocks.getD n [])
      · simp
      · simp [Nat.add_comm]
    rw [hnext]
    refine ⟨?_, fun i hi => ?_⟩
    · have := Bool.toNat_le (badBlock (blocks.getD n []))
      rw [Nat.pow_succ]
      nlinarith
    · rw [Nat.testBit_two_pow_mul_add _ hlt]
      by_cases hin : i < n
      · rw [if_pos hin, hbits i hin]
      · rw [if_neg hin, show i = n by omega, Nat.sub_self]
        cases badBlock (blocks.getD n []) <;> rfl

/-- An output with a sink plugged in. -/
def plugged (o : Output) (bytes : List Byte) (blocks : List (List Byte)) : Output :=
  { o with
    window := (Mem.write [] 0 bytes).write 0x800 blocks.flatten, sink := true, sinkGen := (o.sinkGen + 1) % 2 ^ 32
    sinkFlags := blockFlags blocks blocks.length, sinkBlocks := blocks.length }

section
variable {s : State} {n : Nat} {bytes : List Byte} {blocks : List (List Byte)} (hn : n < 4) (hi : (s.output n).iface ≠ 2)
  (hsink : (s.output n).sink = false) (hheld : hpdHeld s n = false) (hb : bytes.length = 512) (hbl : blocks.length ≤ 16)
  (hblocks : ∀ b ∈ blocks, b.length = 128)
include hn hi hsink hheld hb hbl hblocks

theorem hpdPlug_answers : Answers (.hpdPlug n bytes blocks) s fun v =>
    v.output n = if (s.output n).policy = 0 then plugged (s.output n) bytes blocks
      else moded (plugged (s.output n) bytes blocks) (policyMode (plugged (s.output n) bytes blocks) blocks) false := by
  have hall : blocks.any (fun b => b.length != 128) = false :=
    List.any_eq_false.mpr fun b hbm => by simp [hblocks b hbm]
  obtain ⟨s1, hs1⟩ : ∃ s1, s1 = notifySink (s.setOutput n (plugged (s.output n) bytes blocks)) n := ⟨_, rfl⟩
  have hout : s1.output n = plugged (s.output n) bytes blocks := by
    rw [hs1, notifySink_output, State.setOutput_output, if_pos rfl]
  have hexec : exec (.hpdPlug n bytes blocks) s = .next (if (s.output n).policy = 0 then s1
      else startModeset s1 n (policyMode (plugged (s.output n) bytes blocks) blocks) false) := by
    rw [exec_hpdPlug, execHpdPlug]
    dsimp only
    rw [if_neg (by simp [Nat.not_le.mpr hn, hi, hsink, hheld, hb, hbl, hall]), ← hout, hs1]
    rfl
  refine ⟨_, hexec, ?_⟩
  split
  · exact hout
  · rw [startModeset_output, hout]

end

theorem hpdUnplug_eq {s : State} {n : Nat} (hn : n < 4) (hi : (s.output n).iface ≠ 2) (hsink : (s.output n).sink = true)
    (hheld : hpdHeld s n = false) : exec (.hpdUnplug n) s = .next (notifySink (s.setOutput n { s.output n with
      sink := false, linkUp := false, busy := false, sinkGen := ((s.output n).sinkGen + 1) % 2 ^ 32 }) n) := by
  rw [exec_hpdUnplug, execHpdUnplug]
  dsimp only
  rw [if_neg (by simp [Nat.not_le.mpr hn, hi, hsink, hheld])]

/-! ### AUX transactions -/

theorem leBytes_leNat (l : List Byte) : leBytes l.length (leNat l) = l := by
  induction l with
  | nil => rfl
  | cons b l ih =>
    rw [List.length_cons, leBytes, leNat]
    have hlow : BitVec.ofNat 8 (b.toNat + 256 * leNat l) = b := by
      apply BitVec.eq_of_toNat_eq
      rw [BitVec.toNat_ofNat]
      have := b.isLt
      omega
    have hhigh : (b.toNat + 256 * leNat l) / 256 = leNat l := by
      have := b.isLt
      omega
    rw [hlow, hhigh, ih]

theorem leNat_lt (l : List Byte) : leNat l < 2 ^ (8 * l.length) := by
  induction l with
  | nil => decide
  | cons b l ih =>
    have hb := b.isLt
    rw [leNat, List.length_cons, Nat.mul_succ, Nat.pow_add]
    omega

/-- The bytes of a word made of eight bytes. -/
theorem leBytes_word {l : List Byte} (h : l.length = 8) : leBytes 8 (BitVec.ofNat 64 (leNat l)).toNat = l := by
  have hlt := leNat_lt l
  rw [h] at hlt
  rw [BitVec.toNat_ofNat, Nat.mod_eq_of_lt hlt]
  exact h ▸ leBytes_leNat l

theorem ofNat_leNat_leBytes (x : DWord) : BitVec.ofNat 64 (leNat (leBytes 8 x.toNat)) = x := by
  rw [leNat_leBytes, Nat.mod_eq_of_lt x.isLt, BitVec.ofNat_toNat, BitVec.setWidth_eq]

/-- The data registers of an output, as one row of bytes. -/
def auxBytes (o : Output) : List Byte := leBytes 8 o.aux0.toNat ++ leBytes 8 o.aux1.toNat

theorem auxBytes_halves (o : Output) : BitVec.ofNat 64 (leNat ((auxBytes o).take 8)) = o.aux0
    ∧ BitVec.ofNat 64 (leNat ((auxBytes o).drop 8)) = o.aux1 := by
  have hlen : (leBytes 8 o.aux0.toNat).length = 8 := length_leBytes _ _
  refine ⟨?_, ?_⟩
  · rw [auxBytes, List.take_left' hlen, ofNat_leNat_leBytes]
  · rw [auxBytes, List.drop_left' hlen, ofNat_leNat_leBytes]

/-- What a transaction that read gives the data registers. -/
theorem auxRead_bytes (o : Output) {bytes : List Byte} (h : bytes.length ≤ 16) {i : Nat} (hi : i < bytes.length) :
    byteAt (leBytes 8 (BitVec.ofNat 64 (leNat ((putAt (auxBytes o) 0 bytes).take 8))).toNat
      ++ leBytes 8 (BitVec.ofNat 64 (leNat ((putAt (auxBytes o) 0 bytes).drop 8))).toNat) i = bytes.getD i 0 := by
  have hold : (auxBytes o).length = 16 := by simp [auxBytes, length_leBytes]
  have hnew : (putAt (auxBytes o) 0 bytes).length = 16 := by simp [putAt, hold]; omega
  rw [leBytes_word (by simp [hnew]), leBytes_word (by simp [hnew]), List.take_append_drop, byteAt, putAt]
  simp [List.getElem?_append_left hi]

theorem auxDone_eq {s : State} {n result : Nat} (bytes : List Byte) (hbusy : (s.output n).auxBusy = true) (hr : result < 4) :
    exec (.auxDone n result bytes) s = .next (
      let o := s.output n
      let new := if o.aux.getLsbD 50 ∧ result = 0 then putAt (auxBytes o) 0 (bytes.take (bitsOf o.aux.toNat 59 56 + 1))
        else auxBytes o
      s.setOutput n { o with
        auxBusy := false, auxResult := result, aux0 := BitVec.ofNat 64 (leNat (new.take 8))
        aux1 := BitVec.ofNat 64 (leNat (new.drop 8)) }) := by
  rw [exec_auxDone, execAuxDone]
  dsimp only
  rw [if_neg (by simp [hbusy, hr])]
  rfl

section
variable {s : State} {a : Access} {n t : Nat} (hn : n < 4) (hup : accUp s a = true) (ht : accTenant s a = some t)
include hn hup ht

theorem outputRegs_other (ho : outOwner s n ≠ some t) :
    let no := .next (accLog s a t 0x2 (0x4000000 + 0x100000 + 0x10000 * n))
    exec (.outputEnable a n) s = no ∧ exec (.outputDisable a n) s = no ∧ exec (.modeset a n) s = no := by
  have hoff : outOff n 0 = 0x4000000 + 0x100000 + 0x10000 * n := by rw [outOff, prismOff]; omega
  refine ⟨?_, ?_, ?_⟩
  · rw [exec_outputEnable, execOutputEnable, if_neg (Nat.not_le.mpr hn), ownerWrite_other hup ht ho, hoff]
  · rw [exec_outputDisable, execOutputDisable, if_neg (Nat.not_le.mpr hn), ownerWrite_other hup ht ho, hoff]
  · rw [exec_modeset, execModeset, if_neg (Nat.not_le.mpr hn), ownerWrite_other hup ht ho, hoff]

theorem outputEnable_eq (ho : outOwner s n = some t) :
    exec (.outputEnable a n) s = .next (writeOutCtl s { a with data := a.data ||| 1, be := a.be ||| 1 } n) := by
  rw [exec_outputEnable, execOutputEnable, if_neg (Nat.not_le.mpr hn), ownerWrite_owner hup ht ho]

theorem outputDisable_eq (ho : outOwner s n = some t) :
    exec (.outputDisable a n) s = .next (writeOutCtl s { a with data := a.data &&& ~~~1, be := a.be ||| 1 } n) := by
  rw [exec_outputDisable, execOutputDisable, if_neg (Nat.not_le.mpr hn), ownerWrite_owner hup ht ho]

theorem modeset_eq (ho : outOwner s n = some t) (hon : (s.output n).src ≠ .off) : exec (.modeset a n) s =
    .next (writeOutCtl s { a with data := (a.data &&& ~~~1) ||| 2 ||| 1, be := a.be ||| 1 } n) := by
  rw [exec_modeset, execModeset, if_neg (Nat.not_le.mpr hn), ownerWrite_owner hup ht ho]
  dsimp only
  rw [if_neg hon]

theorem go_eq (ho : outOwner s n = some t) : exec (.go a n) s =
    .next (writeAux s { a with data := a.data ||| 0x8000000000000000, be := a.be ||| 0x80 } n) := by
  rw [exec_go, execGo, if_neg (Nat.not_le.mpr hn), ownerWrite_owner hup ht ho]

end

theorem enable_bit (a : Access) (old : DWord) :
    (accFields { a with data := a.data ||| 1, be := a.be ||| 1 } 0xFFFFFF0FFFF38F01 old).getLsbD 0 = true := by
  rw [accFields_set _ _ (by decide) (by decide) (by decide), BitVec.getLsbD_or]
  simp

theorem disable_bit (a : Access) (old : DWord) :
    (accFields { a with data := a.data &&& ~~~1, be := a.be ||| 1 } 0xFFFFFF0FFFF38F01 old).getLsbD 0 = false := by
  rw [accFields_set _ _ (by decide) (by decide) (by decide), BitVec.getLsbD_and]
  simp

theorem modeset_bits (a : Access) (old : DWord) :
    (accFields { a with data := (a.data &&& ~~~1) ||| 2 ||| 1, be := a.be ||| 1 } 0xFFFFFF0FFFF38F01 old).getLsbD 0 = true
    ∧ (accOnes { a with data := (a.data &&& ~~~1) ||| 2 ||| 1, be := a.be ||| 1 }).getLsbD 1 = true := by
  refine ⟨?_, ?_⟩
  · rw [accFields_set _ _ (by decide) (by decide) (by decide), BitVec.getLsbD_or]
    simp
  · rw [accOnes_set (by decide) (by decide), BitVec.getLsbD_or, BitVec.getLsbD_or]
    simp

/-- Settles O49: by the equation of each register write of the owner, of the link training, the sink's pin, and the AUX channel. -/
theorem outputs : Obligations.Outputs := by
  refine ⟨fun a n t s hn hup ht => ⟨fun ho => outputRegs_other hn hup ht ho, fun ho hoff hpads hclosing => ?_,
    fun ho hoff hheld => ?_, fun ho hon => ?_, fun ho hon hbusy => ?_, fun ho => ?_⟩, fun n s hn => ⟨fun hbusy => ?_,
    fun hwb hbusy hsrc => ?_, fun bytes blocks hi hsink hheld hb hbl hblocks => ?_, fun hheld => ?_, fun hi hsink hheld => ?_,
    ?_, fun result bytes hbusy hr => ?_⟩⟩
  · refine ⟨_, outputEnable_eq hn hup ht ho, ?_⟩
    rw [writeOutCtl_enables (enable_bit a _) hoff hpads hclosing]
    obtain ⟨o', ho'⟩ : ∃ o', o' = ctlWritten (s.output n) { a with data := a.data ||| 1, be := a.be ||| 1 } := ⟨_, rfl⟩
    rw [← ho']
    obtain ⟨hout, hu, hv⟩ := leaveOff_output (s.setOutput n o') n o'.pendMode true
    rw [State.setOutput_output, if_pos rfl] at hout
    obtain ⟨p, hp⟩ : ∃ p : Output, p = { o' with src := firstSrc (s.setOutput n o'), frame := 0 } := ⟨_, rfl⟩
    rw [← hp] at hout
    have hrest := moded_rest p o'.pendMode true
    have herr : modeErr p o'.pendMode = modeErr (s.output n) o'.pendMode :=
      modeErr_congr (by rw [hp, ho']; rfl) (by rw [hp, ho']; rfl) (by rw [hp, ho']; rfl) _
    have hpend : (moded p o'.pendMode true).pendMode = o'.pendMode := by rw [hrest, hp]; rfl
    dsimp only
    rw [hout, hpend]
    refine ⟨by rw [hrest, hp]; rfl, by rw [hrest, hp], by rw [hrest, ← herr], hu, hv, fun h => ?_⟩
    rw [hrest] at h
    obtain ⟨hmode, hb, hlink⟩ := moded_done h true
    refine ⟨hmode, hb.trans ?_, hlink⟩
    rw [hp]
    dsimp only
    rw [firstSrc_on, Bool.and_true, ho']
    rfl
  · refine ⟨_, outputEnable_eq hn hup ht ho, ?_⟩
    rw [writeOutCtl_waits (enable_bit a _) hoff hheld]
    dsimp only
    rw [State.setOutput_output, if_pos rfl]
    exact ⟨hoff, rfl⟩
  · refine ⟨_, outputDisable_eq hn hup ht ho, ?_⟩
    rw [writeOutCtl_disables (disable_bit a _) hon]
    exact enterOff_output (by rw [State.setOutput_output, if_pos rfl]; exact hon)
  · refine ⟨_, modeset_eq hn hup ht ho hon, ?_⟩
    obtain ⟨hbit, hset⟩ := modeset_bits a (s.output n).ctl
    rw [writeOutCtl_modeset hbit hon hset hbusy]
    obtain ⟨p, hp⟩ : ∃ p, p = ctlWritten (s.output n) { a with data := (a.data &&& ~~~1) ||| 2 ||| 1, be := a.be ||| 1 } := ⟨_, rfl⟩
    rw [← hp, startModeset_output, State.setOutput_output, if_pos rfl]
    have hrest := moded_rest p p.pendMode true
    have herr : modeErr p p.pendMode = modeErr (s.output n) p.pendMode :=
      modeErr_congr (by rw [hp]; rfl) (by rw [hp]; rfl) (by rw [hp]; rfl) _
    have hpend : (moded p p.pendMode true).pendMode = p.pendMode := by rw [hrest]; rfl
    dsimp only
    rw [hpend]
    refine ⟨by rw [hrest, hp]; rfl, by rw [hrest, ← herr], fun h => ?_, fun h => ?_⟩
    · rw [hrest] at h
      obtain ⟨hmode, hb, hlink⟩ := moded_done h true
      refine ⟨hmode, hb.trans ?_, hlink⟩
      rw [hp]
      show ((s.output n).sink && (s.output n).src != .off) = _
      rw [show ((s.output n).src != .off) = true from bne_iff_ne.mpr hon, Bool.and_true]
    · rw [hrest] at h
      rw [moded_bad h, hp]
      rfl
  · rw [go_eq hn hup ht ho, writeAux_go (by rw [accOnes_set (by decide) (by decide), BitVec.getLsbD_or]; simp)]
  · refine ⟨?_, fun r l hrl hrate hlanes => ?_⟩
    · rw [exec_modesetDone, execModesetDone, hbusy]
      rfl
    · have hexec : exec (.modesetDone n (some (r, l))) s = .next (s.setOutput n { s.output n with
          busy := false, linkUp := true, mode := trained (s.output n).mode r l }) := by
        rw [exec_modesetDone, execModesetDone]
        dsimp only
        rw [hbusy, List.contains_iff_mem.mpr hrl, decide_eq_true ⟨hrate, hlanes⟩]
        rfl
      refine ⟨_, hexec, ?_⟩
      obtain ⟨hr, hl⟩ := linkChoices_bounds hrl
      obtain ⟨hmr, hml⟩ := trained_link (s.output n).mode hr hl
      rw [State.setOutput_output, if_pos rfl]
      exact ⟨rfl, rfl, hmr, hml, fun k hk => by rw [State.setOutput_output, if_neg hk]⟩
  · have hgo : ¬(4 ≤ n ∨ (s.output n).busy = true ∨ (!(s.output n).wbCtl.getLsbD 0) = true
        ∨ ((s.output n).src ≠ .compose ∧ (s.output n).src ≠ .hold)) := by
      rcases hsrc with h | h <;> simp [Nat.not_le.mpr hn, hbusy, hwb, h]
    refine ⟨fun k => ?_, ?_⟩
    · rw [exec_writebackFrameDone, execWritebackFrameDone]
      exact congrArg Host.Outcome.next (if_neg hgo)
    · rw [exec_writebackFrameDone, execWritebackFrameDone]
      exact congrArg Host.Outcome.next (if_neg hgo)
  · obtain ⟨v, hexec, hv⟩ := hpdPlug_answers hn hi hsink hheld hb hbl hblocks
    have hrest := moded_rest (plugged (s.output n) bytes blocks) (policyMode (plugged (s.output n) bytes blocks) blocks) false
    refine ⟨v, hexec, ?_⟩
    have hwindow : (v.output n).window = (plugged (s.output n) bytes blocks).window := by
      rw [hv]; split; rfl; rw [hrest]
    have hflags : (v.output n).sinkFlags = blockFlags blocks blocks.length := by rw [hv]; split; rfl; rw [hrest]; rfl
    refine ⟨?_, ?_, ?_, fun i hi => ?_, fun i hi => ?_, fun hpol => ?_⟩
    · rw [hv]; split; rfl; rw [hrest]; rfl
    · rw [hv]; split; rfl; rw [hrest]; rfl
    · rw [hv]; split; rfl; rw [hrest]; rfl
    · rw [hwindow, plugged, Mem.get_write_outside _ _ _ _ (.inl (by omega))]
      have hin := Mem.get_write_inside [] 0 i bytes rfl (by omega)
      rwa [Nat.zero_add] at hin
    · rw [hflags, (blockFlags_spec blocks blocks.length).2 i hi, badBlock]
    · rw [hv, if_pos hpol]
      exact ⟨rfl, rfl⟩
  · refine ⟨?_, fun up => ?_, fun bytes blocks => ?_⟩
    · rw [exec_hpdUnplug, execHpdUnplug]
      exact congrArg Host.Outcome.next (if_pos (.inr (.inr (.inr hheld))))
    · cases up with
      | none => rfl
      | some up => exact congrArg Host.Outcome.next (if_pos (.inr (.inr (.inr (.inr (.inr hheld))))))
    · rw [exec_hpdPlug, execHpdPlug]
      exact congrArg Host.Outcome.next (if_pos (.inr (.inr (.inr (.inl hheld)))))
  · refine ⟨_, hpdUnplug_eq hn hi hsink hheld, ?_⟩
    dsimp only
    rw [notifySink_output, State.setOutput_output, if_pos rfl]
  · refine ⟨rfl, fun up hi hsink hon hbusy hheld => ?_⟩
    rw [exec_irqHpd, execIrqHpd]
    exact congrArg Host.Outcome.next (if_neg (by simp [Nat.not_le.mpr hn, hi, hsink, hon, hbusy, hheld]))
  · refine ⟨_, auxDone_eq bytes hbusy hr, ?_⟩
    dsimp only
    rw [State.setOutput_output, if_pos rfl]
    obtain ⟨h0, h1⟩ := auxBytes_halves (s.output n)
    refine ⟨rfl, rfl, fun hno => ?_, fun hread hres hlen i hi => ?_⟩
    · rw [if_neg (fun h => hno.elim (fun h0 => by rw [h0] at h; exact Bool.false_ne_true h.1) fun h1 => h1 h.2)]
      exact ⟨h0, h1⟩
    · have hfit : bytes.length ≤ 16 := by
        rw [hlen, bitsOf]
        have := Nat.mod_lt ((s.output n).aux.toNat >>> 56) (show 0 < 2 ^ (59 + 1 - 56) by decide)
        omega
      rw [if_pos ⟨hread, hres⟩, ← hlen, List.take_length]
      exact auxRead_bytes (s.output n) hfit hi

end Sys2Proof.Proofs

/-! O47 fails: a set that waits for nothing is ready at its submit, but its time of readiness is 0, not the submit's. -/

namespace Sys2Proof.Proofs

open Sys2Proof.Machine

/-! ### The state that a command leads to -/

theorem exec_eq_stateAfter (c : Instr) (s : State) : exec c s = .next (stateAfter (exec c s) s) := by
  obtain ⟨t, ht⟩ := exec_goesOn c s
  simp only [stateAfter, ht]

/-- A command answers with the one state that it leads to. -/
theorem answers_iff (c : Instr) (s : State) (P : State → Prop) : Answers c s P ↔ P (stateAfter (exec c s) s) := by
  constructor
  · rintro ⟨t, ht, hp⟩
    rw [exec_eq_stateAfter] at ht
    exact Host.Outcome.next.inj ht ▸ hp
  · exact fun hp => ⟨_, exec_eq_stateAfter c s, hp⟩

/-! ### The submit -/

/-- Output 0 composes, tenant 0 holds its layer 0, and the device timer shows 5. -/
def submitting : State :=
  { State.reset with
    timer := 5
    tenants := [(0, { Tenant.free with st := .live })]
    ports := [(0, { Port.reset with st := .ready, manager := some 0 })]
    prism := { State.reset.prism with outs := [(0, { Output.reset with src := .compose })], layerGrants := [(0, 0)] } }

/-- The submit of layer 0 of output 0. -/
def submitWrite : Access := ⟨0, 0, none, 0xFF, 1⟩

/-- Refutes O47: the set armed, which waits for no fence, is ready since 0 and not since 5. -/
theorem not_flips : ¬ Obligations.Flips := by
  unfold Obligations.Flips
  intro h
  have hsubmit := (h.1 submitWrite 0 submitting (by decide +kernel) (by decide +kernel)).2 (by decide +kernel)
  rw [answers_iff] at hsubmit
  obtain ⟨-, -, -, -, -, hready⟩ := hsubmit
  obtain ⟨y, hy, heq⟩ := hready (by decide +kernel)
  have hat : ∀ y ∈ (stateAfter (exec (.flipSubmit submitWrite 0) submitting) submitting).prism.sets, y.readyAt = 0 := by
    decide +kernel
  have hzero := hat y hy
  rw [heq] at hzero
  exact absurd hzero (by decide)

end Sys2Proof.Proofs

/-! O42: grants of outputs, layers and engine contexts. -/

namespace Sys2Proof.Proofs

open Sys2Proof.Machine

section
variable {r : Req} {s : State}

@[simp] theorem takeReq_isA (b : Bool) : isA (takeReq s r b) r = isA s r := rfl
@[simp] theorem takeReq_outOwner (b : Bool) (n : Nat) : outOwner (takeReq s r b) n = outOwner s n := rfl
@[simp] theorem takeReq_layerOwner (b : Bool) (n k : Nat) : layerOwner (takeReq s r b) n k = layerOwner s n k := rfl

theorem mem_maskLayers {m k : Nat} : k ∈ maskLayers m ↔ k < 16 ∧ m.testBit k = true := by
  simp [maskLayers, bitOf]

/-! ### Outputs -/

theorem execOutputGrant_served (hch : r.ch < 16) (h : Requested s r 1 [(0, 1), (1, 1)]) (hn : reqField r 0 1 < 4)
    (ht : reqField r 1 1 < 16 ∧ (s.tenant (reqField r 1 1)).st ≠ .free) :
    exec (.outputGrant r) s = .next (answered (takeReq s r true) r 0x501 (
      if isA s r = false then (takeReq s r true, .denied 5)
      else match outOwner s (reqField r 0 1) with
        | some o => if o = reqField r 1 1 then (takeReq s r true, .ok) else (takeReq s r true, .busy 1)
        | none => ({ takeReq s r true with
            prism := { s.prism with outGrants := tset s.prism.outGrants (reqField r 0 1) (reqField r 1 1) } }, .ok))) := by
  have hthere : tenantHere (takeReq s r true) (reqField r 1 1) = true := tenantHere_of ht
  rw [exec_outputGrant, execOutputGrant, serve_requested h]
  dsimp only
  rw [takeReq_isA, not_isI hch, Bool.or_false]
  cases hrole : isA s r
  · rw [roleThen_denied rfl, if_pos rfl]
  · rw [roleThen_none rfl _ (paramFail_none h (by simp [hn, hthere])), if_neg (nofun : ¬true = false)]
    rfl

theorem execOutputRevoke_served (hch : r.ch < 16) (h : Requested s r 1 [(0, 1)]) (hn : reqField r 0 1 < 4)
    (hmay : isA s r = true ∨ outOwner s (reqField r 0 1) = some r.ch) :
    let v := clearTap (takeReq s r true) (reqField r 0 1)
    exec (.outputRevoke r) s = .next (replyTo
      { v with prism := { v.prism with outGrants := tdrop v.prism.outGrants (· == reqField r 0 1) } } r 0 0 []) := by
  have hrole : (isA s r || false || (decide (reqField r 0 1 < 4) && outOwner s (reqField r 0 1) == some r.ch)) = true := by
    rcases hmay with h | h <;> simp [h, hn]
  rw [exec_outputRevoke, execOutputRevoke, serve_requested h]
  dsimp only
  rw [takeReq_isA, takeReq_outOwner, not_isI hch, roleThen_none hrole _ (paramFail_none h (by simp [hn]))]
  rfl

/-- What taking the tap of the Beacon owner leaves. -/
theorem clearTap_output (s : State) (n k : Nat) : (clearTap s n).output k =
    if k = n ∧ beaconOwner s ≠ none ∧ outOwner s n = beaconOwner s then
      { s.output n with wbCtl := (s.output n).wbCtl &&& ~~~2 } else s.output k := by
  unfold clearTap
  by_cases hb : beaconOwner s ≠ none ∧ outOwner s n = beaconOwner s
  · rw [if_pos (by simpa using hb), State.setOutput_output]
    simp [hb]
  · rw [if_neg (by simpa using hb), if_neg fun h => hb h.2]

theorem clearTap_outGrants (s : State) (n : Nat) : (clearTap s n).prism.outGrants = s.prism.outGrants := by
  unfold clearTap
  split <;> rfl

/-! ### Layers -/

/-- The grants with those of the layers of a list given to a tenant. -/
def grantAll (ks : List Nat) (n t : Nat) (g : Tbl Nat) : Tbl Nat := ks.foldl (fun g k => tset g (16 * n + k) t) g

theorem execLayerGrant_served (hch : r.ch < 16) (h : Requested s r 1 [(0, 1), (1, 1), (2, 2)]) (hn : reqField r 0 1 < 4)
    (ht : reqField r 1 1 < 16 ∧ (s.tenant (reqField r 1 1)).st ≠ .free) :
    exec (.layerGrant r) s = .next (answered (takeReq s r true) r 0x503 (
      if isA s r = false ∧ outOwner s (reqField r 0 1) ≠ some r.ch then (takeReq s r true, .denied 2)
      else if (maskLayers (reqField r 2 2)).any fun k => (layerOwner s (reqField r 0 1) k).isSome
        && layerOwner s (reqField r 0 1) k != some (reqField r 1 1) then (takeReq s r true, .busy 1)
      else ({ takeReq s r true with prism := { s.prism with
          layerGrants := grantAll (maskLayers (reqField r 2 2)) (reqField r 0 1) (reqField r 1 1) s.prism.layerGrants } }, .ok))) := by
  have hthere : tenantHere (takeReq s r true) (reqField r 1 1) = true := tenantHere_of ht
  have hrole : (isA s r || !false && decide (reqField r 0 1 < 4) && outOwner s (reqField r 0 1) == some r.ch) = true
      ↔ ¬(isA s r = false ∧ outOwner s (reqField r 0 1) ≠ some r.ch) := by
    cases isA s r <;> simp [hn]
  rw [exec_layerGrant, execLayerGrant, serve_requested h]
  dsimp only
  rw [takeReq_isA, takeReq_outOwner, not_isI hch]
  by_cases hd : isA s r = false ∧ outOwner s (reqField r 0 1) ≠ some r.ch
  · rw [roleThen_denied (Bool.eq_false_iff.mpr fun ht => hrole.mp ht hd), if_pos hd]
  · rw [roleThen_none (hrole.mpr hd) _ (paramFail_none h (by simp [hn, hthere])), if_neg hd]
    rfl

theorem tget?_grantAll (ks : List Nat) (n t j : Nat) (g : Tbl Nat) :
    tget? (grantAll ks n t g) j = if ∃ k ∈ ks, 16 * n + k = j then some t else tget? g j := by
  induction ks generalizing g with
  | nil => simp [grantAll]
  | cons k ks ih =>
    rw [grantAll, List.foldl_cons, ← grantAll, ih]
    by_cases hin : ∃ i ∈ ks, 16 * n + i = j
    · obtain ⟨i, hi, hij⟩ := hin
      rw [if_pos ⟨i, hi, hij⟩, if_pos ⟨i, List.mem_cons_of_mem _ hi, hij⟩]
    · rw [if_neg hin, tget?_tset]
      by_cases hk : 16 * n + k = j
      · rw [if_pos hk.symm, if_pos ⟨k, List.mem_cons_self, hk⟩]
      · rw [if_neg (Ne.symm hk), if_neg]
        rintro ⟨i, hi, hij⟩
        rcases List.mem_cons.mp hi with rfl | hi
        · exact hk hij
        · exact hin ⟨i, hi, hij⟩

/-- The layers of a mask that someone holds. -/
def heldLayers (s : State) (n m : Nat) : List Nat := (maskLayers m).filter fun k => (layerOwner s n k).isSome

/-- The keys of the layers of a mask. -/
def inLayers (n m k : Nat) : Bool := k / 16 == n && (maskLayers m).contains (k % 16)

/-- The layers of a mask taken back, with the sets and the services that show them. -/
def revokeLayers (u : State) (n m : Nat) : State :=
  let s1 := dropLayers (discardSets u fun x => x.output == n && (heldLayers u n m).any fun k => (tget? x.snap k).isSome) (inLayers n m)
  { s1 with prism := { s1.prism with
    layerGrants := tdrop s1.prism.layerGrants (inLayers n m)
    compose := s1.prism.compose.filter fun e => !(e.1 / 16 == n && (heldLayers u n m).any (bitOf e.2.mask)) } }

theorem execLayerRevoke_served (hch : r.ch < 16) (h : Requested s r 1 [(0, 1), (2, 2)]) (hn : reqField r 0 1 < 4) :
    exec (.layerRevoke r) s = .next (
      if isA s r = true ∨ outOwner s (reqField r 0 1) = some r.ch
        ∨ ∀ k ∈ heldLayers s (reqField r 0 1) (reqField r 2 2), layerOwner s (reqField r 0 1) k = some r.ch then
        replyTo (revokeLayers (takeReq s r true) (reqField r 0 1) (reqField r 2 2)) r 0 0 []
      else replyTo (takeReq s r true) r 0x21 9 []) := by
  have hserved : exec (.layerRevoke r) s = .next (answered (takeReq s r true) r 0x504
      (roleThen (isA s r || (!isI r && ((decide (reqField r 0 1 < 4) && outOwner s (reqField r 0 1) == some r.ch)
        || (heldLayers s (reqField r 0 1) (reqField r 2 2)).all fun k => layerOwner s (reqField r 0 1) k == some r.ch))) 9
        (paramFail r [(0, 1), (2, 2)] [(0, decide (reqField r 0 1 < 4))]) (takeReq s r true)
        (revokeLayers (takeReq s r true) (reqField r 0 1) (reqField r 2 2), .ok))) := by
    rw [exec_layerRevoke, execLayerRevoke, serve_requested h]
    rfl
  have hrole : (isA s r || (!isI r && ((decide (reqField r 0 1 < 4) && outOwner s (reqField r 0 1) == some r.ch)
        || (heldLayers s (reqField r 0 1) (reqField r 2 2)).all fun k => layerOwner s (reqField r 0 1) k == some r.ch))) = true
      ↔ (isA s r = true ∨ outOwner s (reqField r 0 1) = some r.ch
        ∨ ∀ k ∈ heldLayers s (reqField r 0 1) (reqField r 2 2), layerOwner s (reqField r 0 1) k = some r.ch) := by
    simp only [not_isI hch, hn, decide_true, Bool.not_false, Bool.true_and, Bool.or_eq_true, beq_iff_eq, List.all_eq_true]
  rw [hserved]
  split
  next hmay => rw [roleThen_none (hrole.mpr hmay) _ (paramFail_none h (by simp [hn])), answered_ok]
  next hno => rw [roleThen_denied (Bool.eq_false_iff.mpr fun ht => hno (hrole.mp ht)), answered_denied]

theorem mem_heldLayers {n m k : Nat} :
    k ∈ heldLayers s n m ↔ (k < 16 ∧ m.testBit k = true) ∧ (layerOwner s n k).isSome = true := by
  rw [heldLayers, List.mem_filter, mem_maskLayers]

theorem inLayers_key {n m j k : Nat} (hk : k < 16) : inLayers n m (16 * j + k) = true ↔ j = n ∧ k < 16 ∧ m.testBit k = true := by
  rw [inLayers, show (16 * j + k) / 16 = j by omega, show (16 * j + k) % 16 = k by omega, Bool.and_eq_true, beq_iff_eq,
    List.contains_iff_mem, mem_maskLayers]

theorem revokeLayers_owner (u : State) (n m j k : Nat) : layerOwner (revokeLayers u n m) j k =
    if inLayers n m (16 * j + k) then none else layerOwner u j k := by
  have hgrants : (discardSets u fun x => x.output == n && (heldLayers u n m).any fun k => (tget? x.snap k).isSome).prism.layerGrants
      = u.prism.layerGrants := by rw [discardSets_prism]
  rw [layerOwner, layerOwner, ← hgrants]
  exact tget?_tdrop _ _ _

theorem revokeLayers_drop {u : State} {n m k : Nat} (hk : k ∈ heldLayers u n m) :
    16 * n + k ∈ (revokeLayers u n m).prism.drop := by
  obtain ⟨hin, hheld⟩ := mem_heldLayers.mp hk
  obtain ⟨v, hv⟩ : ∃ v, v = discardSets u fun x => x.output == n && (heldLayers u n m).any fun k => (tget? x.snap k).isSome := ⟨_, rfl⟩
  have hgrants : v.prism.layerGrants = u.prism.layerGrants := by rw [hv, discardSets_prism]
  have hkey : 16 * n + k ∈ (v.prism.layerGrants.map Prod.fst).filter (inLayers n m) := by
    obtain ⟨t, ht⟩ := Option.isSome_iff_exists.mp hheld
    rw [hgrants]
    exact List.mem_filter.mpr ⟨List.mem_map.mpr ⟨_, mem_of_tget? ht, rfl⟩, (inLayers_key hin.1).mpr ⟨rfl, hin⟩⟩
  have hdrop : (revokeLayers u n m).prism.drop =
      v.prism.drop ++ ((v.prism.layerGrants.map Prod.fst).filter (inLayers n m)).filter fun k => !v.prism.drop.contains k := by
    rw [hv]
    rfl
  rw [hdrop, List.mem_append]
  by_cases hold : 16 * n + k ∈ v.prism.drop
  · exact .inl hold
  · exact .inr (List.mem_filter.mpr ⟨hkey, by simpa using hold⟩)

theorem revokeLayers_sets {u : State} {n m k : Nat} {x : FlipSet} (hx : x ∈ (revokeLayers u n m).prism.sets) (ho : x.output = n)
    (hk : k ∈ heldLayers u n m) : tget? x.snap k = none := by
  have hno := not_mem_discardSets (s := u)
    (p := fun x => x.output == n && (heldLayers u n m).any fun k => (tget? x.snap k).isSome) hx
  rw [beq_iff_eq.mpr ho, Bool.true_and, List.any_eq_false] at hno
  simpa using hno k hk

/-! ### Engine contexts -/

/-- The engine context that a grant gives. -/
def pickEngine (s : State) (k i : Nat) : Option Nat :=
  if i = 0xFF then firstBelow (engineCount k) (engineFree s k) else if engineFree s k i then some i else none

theorem execEngineGrant_served (hch : r.ch < 16) (h : Requested s r 1 [(0, 1), (1, 1), (2, 2)]) (hk : reqField r 0 1 < 2)
    (hi : reqField r 1 1 = 0xFF ∨ reqField r 1 1 < engineCount (reqField r 0 1))
    (hc : if reqField r 0 1 = 0 then ctxHere s (reqField r 2 2) = true ∧ (s.ctx (reqField r 2 2)).tenant = r.ch
      else reqField r 2 2 = 0) :
    exec (.engineGrant r) s = .next (answered (takeReq s r true) r 0x601 (
      match pickEngine s (reqField r 0 1) (reqField r 1 1) with
      | none => (takeReq s r true, .noSlot (9 + reqField r 0 1))
      | some j =>
        if reqField r 0 1 = 0 then
          (setEngCtx { takeReq s r true with chipGrants := tset s.chipGrants j (r.ch, reqField r 2 2) } j .reset,
            .reply rOk 0 (leBytes 1 j ++ [0, 0, 0]))
        else (setBz { takeReq s r true with blazeGrants := tset s.blazeGrants j r.ch } j .reset,
          .reply rOk 0 (leBytes 1 j ++ [0, 0, 0])))) := by
  have hctx : (if reqField r 0 1 = 0 then ctxHere (takeReq s r true) (reqField r 2 2) else reqField r 2 2 == 0) = true := by
    split at hc
    next h0 => rw [if_pos h0]; exact hc.1
    next h0 => rw [if_neg h0]; exact beq_iff_eq.mpr hc
  have hmine : ¬(reqField r 0 1 = 0 ∧ ((takeReq s r true).ctx (reqField r 2 2)).tenant ≠ r.ch) := by
    rintro ⟨h0, hne⟩
    rw [if_pos h0] at hc
    exact hne hc.2
  rw [exec_engineGrant, execEngineGrant, serve_requested h]
  dsimp only
  rw [roleThen_none (by rw [not_isI hch]; rfl) _ (paramFail_none h (by simpa [hk, hctx] using hi)), if_neg hmine]
  rfl

theorem execEngineRelease_served (hch : r.ch < 16) (h : Requested s r 1 [(0, 1), (1, 1)]) (hk : reqField r 0 1 < 2)
    (hi : reqField r 1 1 < engineCount (reqField r 0 1)) :
    exec (.engineRelease r) s = .next (answered (takeReq s r true) r 0x602 (
      if engineOwner s (reqField r 0 1) (reqField r 1 1) ≠ some r.ch then (takeReq s r true, .denied 9)
      else if (if reqField r 0 1 = 0 then (s.engCtx (reqField r 1 1)).job.isSome else (s.bz (reqField r 1 1)).attached.isSome) then
        (takeReq s r true, .busy 1)
      else if reqField r 0 1 = 0 then (setEngCtx { takeReq s r true with
        chipGrants := tdrop s.chipGrants (· == reqField r 1 1) } (reqField r 1 1) .reset, .ok)
      else (setBz { takeReq s r true with
        blazeGrants := tdrop s.blazeGrants (· == reqField r 1 1) } (reqField r 1 1) .reset, .ok))) := by
  rw [exec_engineRelease, execEngineRelease, serve_requested h]
  dsimp only
  rw [roleThen_none (by rw [not_isI hch]; rfl) _ (paramFail_none h (by simp [hk, hi]))]
  rfl

/-! ### What DISPLAY_QUERY shows -/

/-- What is shown of an output. -/
def outputShown (s : State) (i : Nat) : List Byte :=
  leBytes 1 ((outOwner s i).getD 0xFF) ++ leBytes 1 (s.output i).src.code ++ List.replicate 6 0
    ++ (List.range 16).flatMap fun k => leBytes 1 ((layerOwner s i k).getD 0xFF)

theorem execDisplayQuery_served (h : Requested s r 0 []) :
    exec (.displayQuery r) s = .next (replyTo (takeReq s r true) r 0 0 ((List.range 4).flatMap (outputShown s))) := by
  rw [exec_displayQuery, execDisplayQuery, serve_requested h]
  rfl

theorem leBytes_one (x : Nat) : leBytes 1 x = [BitVec.ofNat 8 x] := rfl

theorem flatMap_bytes (f : Nat → Nat) (l : List Nat) : l.flatMap (fun k => leBytes 1 (f k)) = l.map fun k => BitVec.ofNat 8 (f k) := by
  induction l with
  | nil => rfl
  | cons k l ih => rw [List.flatMap_cons, ih]; rfl

theorem outputShown_length (s : State) (i : Nat) : (outputShown s i).length = 24 := by
  rw [outputShown, flatMap_bytes]
  simp [length_leBytes]

theorem byteAt_append_right {xs ys : List Byte} {i : Nat} (h : xs.length ≤ i) : byteAt (xs ++ ys) i = byteAt ys (i - xs.length) := by
  rw [byteAt, byteAt, List.getD_eq_getElem?_getD, List.getD_eq_getElem?_getD, List.getElem?_append_right h]

theorem byteAt_append_left {xs ys : List Byte} {i : Nat} (h : i < xs.length) : byteAt (xs ++ ys) i = byteAt xs i := by
  rw [byteAt, byteAt, List.getD_eq_getElem?_getD, List.getD_eq_getElem?_getD, List.getElem?_append_left h]

/-- A byte of one of the equally long pieces that a list is made of. -/
theorem byteAt_flatMap (f : Nat → List Byte) {w : Nat} (hw : ∀ i, (f i).length = w) {n i o : Nat} (hi : i < n) (ho : o < w) :
    byteAt ((List.range n).flatMap f) (w * i + o) = byteAt (f i) o := by
  have hlen (m : Nat) : ((List.range m).flatMap f).length = w * m := by
    simp [List.length_flatMap, hw, Nat.mul_comm]
  induction n with
  | zero => exact absurd hi (Nat.not_lt_zero _)
  | succ n ih =>
    rw [List.range_succ, List.flatMap_append]
    by_cases hin : i < n
    · have hle : w * (i + 1) ≤ w * n := Nat.mul_le_mul_left _ hin
      rw [byteAt_append_left (by rw [hlen]; rw [Nat.mul_succ] at hle; omega), ih hin]
    · have hn : i = n := by omega
      subst hn
      rw [byteAt_append_right (by rw [hlen]; omega), hlen, Nat.add_sub_cancel_left]
      simp

theorem fieldAt_one (bs : List Byte) (o : Nat) : fieldAt bs o 1 = (byteAt bs o).toNat := by
  rw [fieldAt, byteAt, List.getD_eq_getElem?_getD]
  cases h : bs[o]? with
  | none => simp [List.drop_eq_nil_of_le (List.getElem?_eq_none_iff.mp h), leNat]
  | some b =>
    obtain ⟨hlt, hb⟩ := List.getElem?_eq_some_iff.mp h
    rw [List.drop_eq_getElem_cons hlt, hb]
    simp [leNat]

theorem outputShown_fields (s : State) (i : Nat) : (byteAt (outputShown s i) 0).toNat = (outOwner s i).getD 0xFF % 256
    ∧ (byteAt (outputShown s i) 1).toNat = (s.output i).src.code
    ∧ ∀ k, k < 16 → (byteAt (outputShown s i) (8 + k)).toNat = (layerOwner s i k).getD 0xFF % 256 := by
  rw [outputShown, flatMap_bytes]
  refine ⟨?_, ?_, fun k hk => ?_⟩
  · simp [leBytes_one, byteAt]
  · simp only [leBytes_one, byteAt]
    cases (s.output i).src <;> rfl
  · rw [byteAt_append_right (by simp [length_leBytes])]
    simp only [List.length_append, length_leBytes, List.length_replicate]
    rw [show 8 + k - (1 + 1 + 6) = k by omega, byteAt_map_range _ hk]
    simp

end

/-- Settles O42: what each request answers, by who may make it and what is held. -/
theorem grantRequests : Obligations.GrantRequests := by
  intro r s hch u p n t other turned owns picked held
  have hheld (k : Nat) : held k ↔ k ∈ heldLayers s n (p 2 2) := mem_heldLayers.symm
  refine ⟨fun h hn ht => ?_, fun h hn hmay => ?_, fun h hn ht => ?_, fun h hn => ?_, fun h => ?_, fun h => ?_, fun h => ?_⟩
  · have hexec := execOutputGrant_served hch h hn ht
    refine ⟨fun ha => ?_, fun ha o ho => ?_, fun ha ho => ?_⟩
    · show exec (.outputGrant r) s = _
      rw [hexec, if_pos ha, answered_denied]
    · rw [hexec, if_neg (by rw [ha]; exact nofun), show outOwner s (reqField r 0 1) = some o from ho]
      by_cases heq : o = t
      · rw [if_pos heq]
        exact congrArg _ (congrArg (answered _ r _) (if_pos heq))
      · rw [if_neg heq]
        exact congrArg _ (congrArg (answered _ r _) (if_neg heq))
    · rw [hexec, if_neg (by rw [ha]; exact nofun), show outOwner s (reqField r 0 1) = none from ho]
      rfl
  · refine ⟨_, execOutputRevoke_served hch h hn (hmay.imp_right And.right), ?_, fun k hk => ?_, fun k hk => ?_, ?_⟩
    · rw [outOwner, tget?_tdrop, if_pos (by simp [n, p])]
    · rw [outOwner, tget?_tdrop, if_neg (by simpa [n, p] using hk), clearTap_outGrants]
      rfl
    · refine (clearTap_output u n k).trans ?_
      rw [if_neg fun hc => hk hc.1]
      rfl
    · refine (clearTap_output u n n).trans ?_
      by_cases hb : beaconOwner s ≠ none ∧ outOwner s n = beaconOwner s
      · rw [if_pos ⟨rfl, hb⟩, if_pos hb]
        rfl
      · rw [if_neg (fun hc => hb hc.2), if_neg hb]
        rfl
  · have hexec := execLayerGrant_served hch h hn ht
    have hbusy : ((maskLayers (reqField r 2 2)).any fun k => (layerOwner s (reqField r 0 1) k).isSome
        && layerOwner s (reqField r 0 1) k != some (reqField r 1 1)) = true ↔ ∃ k, held k ∧ layerOwner s n k ≠ some t := by
      simp only [List.any_eq_true, mem_maskLayers, Bool.and_eq_true, bne_iff_ne, held, picked, n, t, p, and_assoc]
    have hno (hmay : isA s r = true ∨ owns) : ¬(isA s r = false ∧ outOwner s (reqField r 0 1) ≠ some r.ch) := by
      rintro ⟨ha, ho⟩
      exact hmay.elim (fun h1 => by rw [ha] at h1; exact Bool.false_ne_true h1) fun h1 => ho h1.2
    refine ⟨fun ha ho => ?_, fun hmay hb => ?_, fun hmay hb => ?_⟩
    · show exec (.layerGrant r) s = _
      rw [hexec, if_pos ⟨ha, fun hown => ho ⟨hn, hown⟩⟩, answered_denied]
    · show exec (.layerGrant r) s = _
      rw [hexec, if_neg (hno hmay), if_pos (hbusy.mpr hb), answered_busy]
    · have hfree : ¬∃ k, held k ∧ layerOwner s n k ≠ some t := by
        rintro ⟨k, hk, hne⟩
        exact hne (hb k hk)
      rw [hexec, if_neg (hno hmay), if_neg (fun hc => hfree (hbusy.mp hc)), answered_ok]
      refine ⟨_, rfl, rfl, fun k hk => ?_, fun j k hk hne => ?_⟩
      · exact (tget?_grantAll _ _ _ _ _).trans (if_pos ⟨k, mem_maskLayers.mpr hk, rfl⟩)
      · refine (tget?_grantAll _ _ _ _ _).trans (if_neg ?_)
        rintro ⟨i, hi, hkey⟩
        have hi' := mem_maskLayers.mp hi
        have hik : i = k := by have := hi'.1; omega
        exact hne ⟨by have := hi'.1; simp only [n, p]; omega, hik ▸ hi'⟩
  · have hexec := execLayerRevoke_served hch h hn
    intro may
    have hiff : (isA s r = true ∨ outOwner s (reqField r 0 1) = some r.ch
        ∨ ∀ k ∈ heldLayers s (reqField r 0 1) (reqField r 2 2), layerOwner s (reqField r 0 1) k = some r.ch) ↔ may := by
      refine or_congr_right (or_congr ⟨fun ho => ⟨hn, ho⟩, And.right⟩ ?_)
      exact forall_congr' fun k => by rw [hheld]
    refine ⟨fun hno => ?_, fun hmay => ?_⟩
    · show exec (.layerRevoke r) s = _
      rw [hexec, if_neg (fun hc => hno (hiff.mp hc))]
    · rw [hexec, if_pos (hiff.mpr hmay)]
      refine ⟨_, rfl, fun k hk => ?_, fun j k hk hne => ?_, fun k hk => ?_, fun x hx ho k hk => ?_⟩
      · rw [revokeLayers_owner, if_pos ((inLayers_key hk.1).mpr ⟨rfl, hk⟩)]
      · rw [revokeLayers_owner, if_neg (fun hc => hne ((inLayers_key hk).mp hc)), takeReq_layerOwner]
      · exact revokeLayers_drop ((hheld k).mp hk)
      · exact revokeLayers_sets hx ho ((hheld k).mp hk)
  · refine ⟨_, execDisplayQuery_served h, ?_, fun i hi => ?_⟩
    · simp [List.length_flatMap, outputShown_length]
    · obtain ⟨howner, hsrc, hlayers⟩ := outputShown_fields s i
      have hat {o : Nat} (ho : o < 24) := byteAt_flatMap (outputShown s) (outputShown_length s) hi ho
      refine ⟨?_, ?_, fun k hk => ?_⟩
      · have h0 := hat (o := 0) (by decide)
        rw [Nat.add_zero] at h0
        rw [fieldAt_one, h0, howner]
      · rw [fieldAt_one, hat (by decide), hsrc]
      · rw [fieldAt_one, Nat.add_assoc, hat (by omega), hlayers k hk]
  · intro c chip blaze got
    have hgood (hkind : chip ∨ blaze) : reqField r 0 1 < 2 ∧
        (if reqField r 0 1 = 0 then ctxHere s (reqField r 2 2) = true ∧ (s.ctx (reqField r 2 2)).tenant = r.ch
          else reqField r 2 2 = 0) := by
      rcases hkind with ⟨hn, hc, hst, hmine⟩ | ⟨hn, hc⟩
      · have hn' : reqField r 0 1 = 0 := hn
        rw [if_pos hn', hn']
        exact ⟨by decide, ctxHere_of hc hst, hmine⟩
      · have hn' : reqField r 0 1 = 1 := hn
        rw [hn', if_neg (by decide)]
        exact ⟨by decide, hc⟩
    refine ⟨fun j hj hlt hfree => ?_, fun hkind hnone => ?_⟩
    · have hcount : engineCount n ≤ 32 := by unfold engineCount; split <;> decide
      have hpick : pickEngine s (reqField r 0 1) (reqField r 1 1) = some j := by
        rcases hj with heq | ⟨heq, hlow⟩
        · have ht : reqField r 1 1 = j := heq
          rw [pickEngine, ht, if_neg (by omega), if_pos hfree]
        · have ht : reqField r 1 1 = 0xFF := heq
          rw [pickEngine, if_pos ht]
          cases hf : firstBelow (engineCount (reqField r 0 1)) (engineFree s (reqField r 0 1)) with
          | none => exact absurd hfree (by rw [firstBelow_none.mp hf j hlt]; exact Bool.false_ne_true)
          | some i =>
            obtain ⟨hi, hifree⟩ := firstBelow_some hf
            rcases Nat.lt_trichotomy i j with hij | hij | hij
            · exact absurd hifree (by rw [hlow i hij]; exact Bool.false_ne_true)
            · rw [hij]
            · have hno := (List.find?_range_eq_some.mp hf).2.2 j hij
              rw [hfree] at hno
              exact absurd hno Bool.false_ne_true
      have hi : reqField r 1 1 = 0xFF ∨ reqField r 1 1 < engineCount (reqField r 0 1) :=
        hj.elim (fun heq => .inr ((show reqField r 1 1 = j from heq) ▸ hlt)) fun h => .inl h.1
      refine ⟨fun hchip => ?_, fun hblaze => ?_⟩
      · obtain ⟨hk, hc⟩ := hgood (.inl hchip)
        rw [execEngineGrant_served hch h hk hi hc, hpick]
        exact congrArg _ (congrArg (answered _ r _) (if_pos hchip.1))
      · obtain ⟨hk, hc⟩ := hgood (.inr hblaze)
        rw [execEngineGrant_served hch h hk hi hc, hpick]
        exact congrArg _ (congrArg (answered _ r _) (if_neg (by rw [show reqField r 0 1 = 1 from hblaze.1]; decide)))
    · obtain ⟨hk, hc⟩ := hgood hkind
      have hcount : engineCount n ≤ 32 := by unfold engineCount; split <;> decide
      have hpick : pickEngine s (reqField r 0 1) (reqField r 1 1) = none := by
        rcases hnone with ⟨hlt, hno⟩ | ⟨heq, hno⟩
        · have hne : ¬reqField r 1 1 = 0xFF := by
            have hlt' : reqField r 1 1 < engineCount n := hlt
            omega
          rw [pickEngine, if_neg hne, if_neg (by rw [show engineFree s (reqField r 0 1) (reqField r 1 1) = false from hno]; exact Bool.false_ne_true)]
        · rw [pickEngine, if_pos heq]
          exact firstBelow_none.mpr hno
      show exec (.engineGrant r) s = _
      rw [execEngineGrant_served hch h hk (hnone.elim (fun h => .inr h.1) fun h => .inl h.1) hc, hpick]
      rfl
  · refine ⟨fun hn ht hown => ?_, fun hn ht hown => ?_, fun hn ht hown => ?_⟩
    · have hn' : reqField r 0 1 = 0 := hn
      rw [execEngineRelease_served hch h (by rw [hn']; decide) (by rw [hn']; exact ht), hn']
      have hown' : engineOwner s 0 (reqField r 1 1) = some r.ch := hown
      rw [if_neg (not_not.mpr hown'), if_pos rfl, if_pos rfl]
      split <;> rfl
    · have hn' : reqField r 0 1 = 1 := hn
      rw [execEngineRelease_served hch h (by rw [hn']; decide) (by rw [hn']; exact ht), hn']
      have hown' : engineOwner s 1 (reqField r 1 1) = some r.ch := hown
      rw [if_neg (not_not.mpr hown'), if_neg Nat.one_ne_zero, if_neg Nat.one_ne_zero]
      split <;> rfl
    · show exec (.engineRelease r) s = _
      rw [execEngineRelease_served hch h hn ht, if_pos hown, answered_denied]

end Sys2Proof.Proofs

/-! O41: memory objects through the Flume, and how they end. -/

namespace Sys2Proof.Proofs

open Sys2Proof.Machine

/-! ### A base for a new object -/

theorem ceilDiv_mul_le {x al b : Nat} (hal : 0 < al) (hb : b % al = 0) (hx : x ≤ b) : ceilDiv x al * al ≤ b := by
  obtain ⟨q, rfl⟩ := Nat.dvd_of_mod_eq_zero hb
  rw [Nat.mul_comm al q] at hx ⊢
  refine Nat.mul_le_mul_right _ (Nat.lt_succ_iff.mp ((Nat.div_lt_iff_lt_mul hal).mpr ?_))
  rw [Nat.succ_mul]
  omega

theorem le_ceilDiv_mul (x : Nat) {al : Nat} (hal : 0 < al) : x ≤ ceilDiv x al * al := by
  have h := Nat.div_add_mod (x + al - 1) al
  have hlt := Nat.mod_lt (x + al - 1) hal
  rw [ceilDiv, Nat.mul_comm]
  omega

/-- Below a free aligned base there is one that is 0 or follows a range, with no more in its way. -/
theorem exists_lower_base {al b n : Nat} (hal : 0 < al) (hb : b % al = 0) (l : List (Nat × Nat))
    (hfree : ∀ e ∈ l, b + n ≤ e.1 ∨ e.1 + e.2 ≤ b) :
    ∃ c ∈ 0 :: l.map fun e => ceilDiv (e.1 + e.2) al * al, c ≤ b ∧ ∀ e ∈ l, b + n ≤ e.1 ∨ e.1 + e.2 ≤ c := by
  induction l with
  | nil => exact ⟨0, List.mem_cons_self, Nat.zero_le _, nofun⟩
  | cons e l ih =>
    obtain ⟨c, hc, hcb, hl⟩ := ih fun x hx => hfree x (List.mem_cons_of_mem _ hx)
    have hkeep : c ∈ 0 :: (e :: l).map fun e => ceilDiv (e.1 + e.2) al * al := by
      rcases List.mem_cons.mp hc with rfl | hc
      · exact List.mem_cons_self
      · exact List.mem_cons_of_mem _ (List.mem_cons_of_mem _ hc)
    have hle := le_ceilDiv_mul (e.1 + e.2) hal
    rcases hfree e List.mem_cons_self with habove | hbelow
    · exact ⟨c, hkeep, hcb, fun x hx => (List.mem_cons.mp hx).elim (fun h => .inl (h ▸ habove)) (hl x)⟩
    · by_cases hmax : ceilDiv (e.1 + e.2) al * al ≤ c
      · refine ⟨c, hkeep, hcb, fun x hx => (List.mem_cons.mp hx).elim (fun h => .inr ?_) (hl x)⟩
        rw [h]
        omega
      · refine ⟨ceilDiv (e.1 + e.2) al * al, List.mem_cons_of_mem _ List.mem_cons_self, ceilDiv_mul_le hal hb hbelow,
          fun x hx => (List.mem_cons.mp hx).elim (fun h => .inr (h ▸ hle)) fun hx => (hl x hx).imp_right fun h => by omega⟩

theorem baseAlign_pos (n : Nat) : 0 < baseAlign n := by
  unfold baseAlign
  split
  · decide
  · split <;> decide

theorem rangeFree_iff {s : State} {b n : Nat} : rangeFree s b n = true ↔
    b + n ≤ s.boot.dramBytes ∧ ∀ e ∈ dramRanges s, b + n ≤ e.1 ∨ e.1 + e.2 ≤ b := by
  simp only [rangeFree, Bool.and_eq_true, decide_eq_true_eq, List.all_eq_true]

/-- The bases that are tried when the first choice is not free. -/
def baseChoices (s : State) (n : Nat) : List Nat :=
  0 :: (dramRanges s).map fun e => ceilDiv (e.1 + e.2) (baseAlign n) * baseAlign n

theorem baseChoices_aligned {s : State} {n b : Nat} (h : b ∈ baseChoices s n) : b % baseAlign n = 0 := by
  rcases List.mem_cons.mp h with rfl | h
  · exact Nat.zero_mod _
  · obtain ⟨e, -, rfl⟩ := List.mem_map.mp h
    exact Nat.mul_mod_left _ _

theorem pickBase_eq (s : State) (n : Nat) : pickBase s n =
    let k := (Config.free s.freeTick).toNat % 2 ^ 36 / baseAlign n * baseAlign n
    if rangeFree s k n then (some k, { s with freeTick := s.freeTick + 1 })
    else ((baseChoices s n).find? fun b => rangeFree s b n, { s with freeTick := s.freeTick + 1 }) := rfl

theorem pickBase_some {s : State} {n : Nat} (h : ∃ b, rangeFree s b n = true ∧ b % baseAlign n = 0) :
    ∃ b, rangeFree s b n = true ∧ b % baseAlign n = 0 ∧ pickBase s n = (some b, { s with freeTick := s.freeTick + 1 }) := by
  rw [pickBase_eq]
  extract_lets k
  by_cases hk : rangeFree s k n = true
  · exact ⟨k, hk, Nat.mul_mod_left _ _, if_pos hk⟩
  · obtain ⟨b, hfree, hb⟩ := h
    obtain ⟨htop, hranges⟩ := rangeFree_iff.mp hfree
    obtain ⟨c, hc, hcb, hclear⟩ := exists_lower_base (baseAlign_pos n) hb (dramRanges s) hranges
    have hcfree : rangeFree s c n = true :=
      rangeFree_iff.mpr ⟨by omega, fun e he => (hclear e he).imp_left fun h => by omega⟩
    rw [if_neg hk]
    cases hf : (baseChoices s n).find? fun b => rangeFree s b n with
    | none => exact absurd hcfree (List.find?_eq_none.mp hf c hc)
    | some d => exact ⟨d, List.find?_some (p := fun b => rangeFree s b n) hf, baseChoices_aligned (List.mem_of_find?_eq_some hf), rfl⟩

theorem pickBase_none {s : State} {n : Nat} (h : ∀ b, rangeFree s b n = true → b % baseAlign n ≠ 0) :
    pickBase s n = (none, { s with freeTick := s.freeTick + 1 }) := by
  rw [pickBase_eq]
  extract_lets k
  have hk : ¬rangeFree s k n = true := fun hk => h k hk (Nat.mul_mod_left _ _)
  rw [if_neg hk, List.find?_eq_none.mpr fun b hb hfree => h b hfree (baseChoices_aligned hb)]

/-! ### Requests about objects -/

section
variable {r : Req} {s : State}

@[simp] theorem takeReq_freeObj (b : Bool) : freeObj (takeReq s r b) = freeObj s := rfl
@[simp] theorem takeReq_rangeFree (b : Bool) (x n : Nat) : rangeFree (takeReq s r b) x n = rangeFree s x n := rfl
@[simp] theorem takeReq_nameLive (b : Bool) (o g : Nat) : nameLive (takeReq s r b) o g = nameLive s o g := rfl

theorem execObjectCreate_served (hch : r.ch < 16) (h : Requested s r 6 [(0, 1), (8, 8), (16, 8)]) (hal : reqField r 8 8 % 65536 = 0)
    (hlo : 65536 ≤ reqField r 8 8) (hhi : reqField r 8 8 ≤ 2 ^ 36) (hkind : reqField r 0 1 < 2)
    (hbase : if reqField r 0 1 = 1 then hostRange (s.tenant r.ch).port (reqField r 16 8) (reqField r 8 8) = true
      else reqField r 16 8 = 0) :
    exec (.objectCreate r) s = .next (answered (takeReq s r true) r 0x301 (match freeObj s with
      | none => (takeReq s r true, .noSlot 4)
      | some o =>
        if reqField r 0 1 == 1 then
          (if (s.port (s.tenant r.ch).port).lost then (takeReq s r true, .hostGone)
          else (createObj (takeReq s r true) o true (reqField r 16 8) (reqField r 8 8) r.ch, .reply rOk 0 (objName s o)))
        else match pickBase (takeReq s r true) (reqField r 8 8) with
          | (none, s1) => (s1, .noSlot 7)
          | (some b, s1) => (createObj (zeroDram s1 b (reqField r 8 8)) o false b (reqField r 8 8) r.ch, .accepted o))) := by
  have hplace : (if reqField r 0 1 == 1 then hostRange (s.tenant r.ch).port (reqField r 16 8) (reqField r 8 8)
      else reqField r 16 8 == 0) = true := by
    split at hbase
    next h1 => rw [if_pos (beq_iff_eq.mpr h1)]; exact hbase
    next h1 => rw [if_neg (fun hc => h1 (beq_iff_eq.mp hc))]; exact beq_iff_eq.mpr hbase
  rw [exec_objectCreate, execObjectCreate, serve_requested h]
  dsimp only
  rw [roleThen_none (by rw [not_isI hch]; rfl) _ (paramFail_none h ?_)]
  · rw [takeReq_freeObj, takeReq_tenant, takeReq_port]
    cases freeObj s
    · rfl
    · rfl
  · simp only [List.forall_mem_cons]
    exact ⟨decide_eq_true hkind, by simpa using ⟨hal, hlo, hhi⟩, hplace, nofun⟩

theorem objChecks_none {words : Nat} {listed : List (Nat × Nat)} {more : List (Nat × Bool)}
    (h : Requested s r words ([(0, 2), (2, 2)] ++ listed)) (hname : nameLive s (reqField r 0 2) (reqField r 2 2) = true)
    (hmore : ∀ c ∈ more, c.2 = true) : objChecks r (takeReq s r true) listed more = none :=
  paramFail_none h (List.forall_mem_cons.mpr ⟨hname, hmore⟩)

theorem execObjectFree_served (hch : r.ch < 16) (h : Requested s r 1 [(0, 2), (2, 2)])
    (hname : nameLive s (reqField r 0 2) (reqField r 2 2) = true) :
    exec (.objectFree r) s = .next (answered (takeReq s r true) r 0x302 (
      if (s.obj (reqField r 0 2)).owner ≠ r.ch then (takeReq s r true, .denied 2)
      else if objHeld s (reqField r 0 2) then (takeReq s r true, .busy 1)
      else (retireObj (takeReq s r true) (reqField r 0 2), .ok))) := by
  rw [exec_objectFree, execObjectFree, serve_requested h]
  dsimp only
  rw [roleThen_none (by rw [not_isI hch]; rfl) _ (objChecks_none h hname (List.forall_mem_nil _))]
  rfl

theorem execObjectShare_served (hch : r.ch < 16) (h : Requested s r 2 [(0, 2), (2, 2), (4, 1), (5, 1)])
    (hname : nameLive s (reqField r 0 2) (reqField r 2 2) = true)
    (ht : reqField r 4 1 < 16 ∧ (s.tenant (reqField r 4 1)).st ≠ .free) (hne : reqField r 4 1 ≠ (s.obj (reqField r 0 2)).owner)
    (hlo : 1 ≤ reqField r 5 1) (hhi : reqField r 5 1 ≤ 2)
    (hhost : (s.obj (reqField r 0 2)).host = true →
      (s.tenant (reqField r 4 1)).port = (s.tenant (s.obj (reqField r 0 2)).owner).port) :
    exec (.objectShare r) s = .next (answered (takeReq s r true) r 0x303 (
      if (s.obj (reqField r 0 2)).owner ≠ r.ch then (takeReq s r true, .denied 2)
      else ((takeReq s r true).setObj (reqField r 0 2) { s.obj (reqField r 0 2) with
        shares := tset (s.obj (reqField r 0 2)).shares (reqField r 4 1) (reqField r 5 1) }, .ok))) := by
  have hthere : tenantHere (takeReq s r true) (reqField r 4 1) = true := tenantHere_of ht
  have hport : (!(s.obj (reqField r 0 2)).host
      || (s.tenant (reqField r 4 1)).port == (s.tenant (s.obj (reqField r 0 2)).owner).port) = true := by
    cases hh : (s.obj (reqField r 0 2)).host
    · rfl
    · simpa using hhost hh
  rw [exec_objectShare, execObjectShare, serve_requested h]
  dsimp only
  rw [roleThen_none (by rw [not_isI hch]; rfl) _ (objChecks_none h hname ?_)]
  · rfl
  · simp only [List.forall_mem_cons, takeReq_obj, takeReq_tenant]
    exact ⟨by rw [hthere, hport]; simpa using hne, by simp [hlo, hhi], nofun⟩

theorem execObjectRevoke_served (hch : r.ch < 16) (h : Requested s r 2 [(0, 2), (2, 2), (4, 1)])
    (hname : nameLive s (reqField r 0 2) (reqField r 2 2) = true)
    (ht : reqField r 4 1 < 16 ∧ (s.tenant (reqField r 4 1)).st ≠ .free) :
    exec (.objectRevoke r) s = .next (answered (takeReq s r true) r 0x304 (
      if (s.obj (reqField r 0 2)).owner ≠ r.ch then (takeReq s r true, .denied 2)
      else (unshare (takeReq s r true) (reqField r 0 2) (reqField r 4 1), .ok))) := by
  have hthere : tenantHere (takeReq s r true) (reqField r 4 1) = true := tenantHere_of ht
  rw [exec_objectRevoke, execObjectRevoke, serve_requested h]
  dsimp only
  rw [roleThen_none (by rw [not_isI hch]; rfl) _ (objChecks_none h hname (by simp [hthere]))]
  rfl

theorem execObjectQuery_served (hch : r.ch < 16) (h : Requested s r 1 [(0, 2), (2, 2)])
    (hst : (s.obj (reqField r 0 2)).st ≠ .free) (hgen : (s.obj (reqField r 0 2)).gen = reqField r 2 2) :
    exec (.objectQuery r) s = .next (answered (takeReq s r true) r 0x305 (
      let x := s.obj (reqField r 0 2)
      if objRight x r.ch = 0 then (takeReq s r true, .denied 3)
      else (takeReq s r true, .reply rOk 0 (leBytes 1 (if x.st = .live then 1 else 2) ++ leBytes 1 (b2n x.host) ++ leBytes 2 x.gen
        ++ leBytes 1 x.owner ++ [0]
        ++ leBytes 2 ((List.range nTenants).foldl (fun a t => a + if (tget? x.shares t).isSome then 2 ^ t else 0) 0)
        ++ leBytes 8 x.size)))) := by
  rw [exec_objectQuery, execObjectQuery, serve_requested h]
  dsimp only
  rw [roleThen_none (by rw [not_isI hch]; rfl) _ (paramFail_none h (by simp [hst, hgen]))]
  rfl

end

/-! ### Zeroed DRAM -/

theorem get_erase (m : Mem) (b n a : Nat) : (m.erase b n).get a = if b ≤ a ∧ a < b + n then 0 else m.get a := by
  induction m with
  | nil => simp [Mem.erase, Mem.get, memFill]
  | cons c m ih =>
    obtain ⟨j, w⟩ := c
    rw [Mem.erase] at ih
    by_cases hj : b ≤ j ∧ j < b + n
    · have hdrop : (!(decide (b ≤ j) && decide (j < b + n))) = false := by simp [hj]
      rw [Mem.erase, List.filter_cons, hdrop, if_neg Bool.false_ne_true, ih, Mem.get]
      split
      · rfl
      next ha =>
        have hne : a ≠ j := fun h => ha (by rw [h]; exact hj)
        rw [if_neg hne]
    · have hkeep : (!(decide (b ≤ j) && decide (j < b + n))) = true := by
        simp only [Bool.not_eq_true', Bool.and_eq_false_iff, decide_eq_false_iff_not]
        omega
      rw [Mem.erase, List.filter_cons, hkeep, if_pos rfl, Mem.get, Mem.get, ih]
      by_cases ha : a = j
      · rw [if_pos ha, if_pos ha, if_neg (by rw [ha]; exact hj)]
      · rw [if_neg ha, if_neg ha]

theorem zeroDram_rest (s : State) (b n : Nat) :
    (∀ a, b ≤ a → a < b + n → (zeroDram s b n).mem.dram.get a = 0)
    ∧ (∀ a, a < b ∨ b + n ≤ a → (zeroDram s b n).mem.dram.get a = s.mem.dram.get a)
    ∧ ∀ w ∈ (zeroDram s b n).mem.poison, w * 8 < b ∨ b + n ≤ w * 8 := by
  refine ⟨fun a hlo hhi => ?_, fun a ha => ?_, fun w hw => ?_⟩
  · exact (get_erase _ _ _ _).trans (if_pos ⟨hlo, hhi⟩)
  · exact (get_erase _ _ _ _).trans (if_neg (by omega))
  · have hin := (List.mem_filter.mp hw).2
    simp only [Bool.not_eq_true', Bool.and_eq_false_iff, decide_eq_false_iff_not, Nat.not_le, Nat.not_lt] at hin
    exact hin

/-! ### Objects that end -/

theorem unshare_rest (s : State) (o t : Nat) : tget? ((unshare s o t).obj o).shares t = none
    ∧ (∀ e ∈ (unshare s o t).mem.tlb, (s.ctx e.ctx).tenant ≠ t) ∧ ∀ k, k ≠ o → (unshare s o t).obj k = s.obj k := by
  have hobj (k : Nat) : (unshare s o t).obj k =
      if k = o then { s.obj o with shares := tdrop (s.obj o).shares (· == t) } else s.obj k := State.setObj_obj _ _ _ _
  refine ⟨?_, fun e he => ?_, fun k hk => by rw [hobj, if_neg hk]⟩
  · rw [hobj, if_pos rfl, tget?_tdrop, if_pos (beq_self_eq_true t)]
  · exact bne_iff_ne.mp (List.mem_filter.mp he).2

section
variable {o : Nat} {s : State}

theorem objectReclaim_answers (hst : (s.obj o).st = .retiring) (hpoints : ∀ e ∈ (s.obj o).points, pointPassed s e.1 e.2 = true)
    (hprism : prismNames s o (s.obj o).gen = false) (hservice : serviceNames s o = false) : Answers (.objectReclaim o) s fun t =>
    (t.obj o).st = .free ∧ (t.obj o).gen = (if (s.obj o).gen = 65535 then 1 else (s.obj o).gen + 1) ∧ (∀ e ∈ t.mem.tlb, e.obj ≠ o)
      ∧ t.mem.dram = s.mem.dram ∧ ∀ k, k ≠ o → t.obj k = s.obj k := by
  obtain ⟨v, hv⟩ : ∃ v, v = (s.setMem { s.mem with tlb := s.mem.tlb.filter fun e => e.obj != o }).setObj o { Obj.reset with
      gen := if (s.obj o).gen = 0xFFFF then 1 else (s.obj o).gen + 1, freed := s.objFrees + 1 } := ⟨_, rfl⟩
  have hexec : exec (.objectReclaim o) s = .next { v with objFrees := s.objFrees + 1 } := by
    have hall : ((s.obj o).points.all fun e => pointPassed s e.1 e.2) = true := List.all_eq_true.mpr hpoints
    rw [exec_objectReclaim, execObjectReclaim, hv]
    dsimp only
    rw [if_neg (by simp [hst, hall, hprism, hservice])]
    rfl
  have hobj (k : Nat) : State.obj { v with objFrees := s.objFrees + 1 } k = if k = o then { Obj.reset with
      gen := if (s.obj o).gen = 0xFFFF then 1 else (s.obj o).gen + 1, freed := s.objFrees + 1 } else s.obj k := by
    rw [hv]
    exact State.setObj_obj _ _ _ _
  refine ⟨_, hexec, ?_, ?_, fun e he => ?_, ?_, fun k hk => ?_⟩
  · rw [hobj, if_pos rfl]
    rfl
  · rw [hobj, if_pos rfl]
  · rw [hv] at he
    exact bne_iff_ne.mp (List.mem_filter.mp he).2
  · rw [hv]
    rfl
  · rw [hobj, if_neg hk]

theorem objectReclaim_waits (h : (∃ e ∈ (s.obj o).points, pointPassed s e.1 e.2 = false) ∨ prismNames s o (s.obj o).gen = true
    ∨ serviceNames s o = true) : exec (.objectReclaim o) s = .next s := by
  rw [exec_objectReclaim, execObjectReclaim]
  dsimp only
  rw [if_pos]
  rcases h with ⟨e, he, hno⟩ | h | h
  · have hall : ((s.obj o).points.all fun e => pointPassed s e.1 e.2) = false :=
      Bool.eq_false_iff.mpr fun hc => by
        rw [List.all_eq_true.mp hc e he] at hno
        exact absurd hno (by decide)
    exact .inr (.inl (by rw [hall]; rfl))
  · exact .inr (.inr (.inl h))
  · exact .inr (.inr (.inr h))

end

/-- Settles O41: what each request answers, the base that is found wherever one is free, and what a reclaimed slot becomes. -/
theorem objectRequests : Obligations.ObjectRequests := by
  refine ⟨?_, fun b n s => zeroDram_rest s b n, fun o t s => unshare_rest s o t, fun o s => ⟨rfl, fun hst hpoints hprism hservice =>
    objectReclaim_answers hst hpoints hprism hservice, fun _ h => objectReclaim_waits h⟩⟩
  intro r s hch u p o x n named other turned
  have hnamed (hn : named) : nameLive s o (p 2 2) = true := by
    rw [nameLive, Bool.and_eq_true, beq_iff_eq, beq_iff_eq]
    exact hn
  refine ⟨fun h hal hlo hhi k hk => ?_, fun h hal hlo hhi hkind hzero hnone => ?_, fun h hn => ?_, fun h hn ht hne hl hh hhost => ?_,
    fun h hn ht => ?_, fun h hst hgen => ?_⟩
  · intro made
    obtain ⟨hlt, hfree, hfirst⟩ := oldestFree_spec hk
    refine ⟨hlt, eq_of_beq hfree, fun j hj hjf => hfirst j hj (beq_iff_eq.mpr hjf), fun hkind hzero hroom => ?_, fun hkind hhost => ?_⟩
    · have hdram : ¬(reqField r 0 1 == 1) = true := by rw [show reqField r 0 1 = 0 from hkind]; decide
      have hexec := execObjectCreate_served hch h hal hlo hhi (by rw [show reqField r 0 1 = 0 from hkind]; decide)
        (by rw [show reqField r 0 1 = 0 from hkind]; exact hzero)
      rw [hk] at hexec
      simp only [if_neg hdram] at hexec
      refine ⟨fun hex => ?_, fun hno => ?_⟩
      · obtain ⟨b, hbf, hba, hpick⟩ := pickBase_some (s := takeReq s r true) hex
        refine ⟨b, hbf, hba, ?_⟩
        rw [hexec, hpick]
        exact congrArg _ (answered_accepted hroom _ _ _)
      · rw [hexec, pickBase_none (s := takeReq s r true) hno]
        rfl
    · have hexec := execObjectCreate_served hch h hal hlo hhi (by rw [show reqField r 0 1 = 1 from hkind]; decide)
        (by rw [show reqField r 0 1 = 1 from hkind]; exact hhost)
      rw [hk] at hexec
      simp only [show (reqField r 0 1 == 1) = true from beq_iff_eq.mpr hkind, if_true] at hexec
      rw [hexec]
      split
      · rfl
      · rfl
  · have hexec := execObjectCreate_served hch h hal hlo hhi (by rw [show reqField r 0 1 = 0 from hkind]; decide)
      (by rw [show reqField r 0 1 = 0 from hkind]; exact hzero)
    rw [hnone] at hexec
    exact hexec
  · rw [execObjectFree_served hch h (hnamed hn)]
    split
    · rfl
    · split <;> rfl
  · rw [execObjectShare_served hch h (hnamed hn) ht hne hl hh hhost]
    split <;> rfl
  · rw [execObjectRevoke_served hch h (hnamed hn) ht]
    split <;> rfl
  · rw [execObjectQuery_served hch h hst hgen]
    dsimp only
    split <;> rfl

end Sys2Proof.Proofs

/-! O43: the graph and transfer services. -/

namespace Sys2Proof.Proofs

open Sys2Proof.Machine

section
variable {r : Req} {s : State}

@[simp] theorem takeReq_activating (b : Bool) : activating (takeReq s r b) = activating s := rfl
@[simp] theorem takeReq_graph (b : Bool) (g : Nat) : (takeReq s r b).graph? g = s.graph? g := rfl

/-! ### Graphs -/

theorem execGraphLoad_served (hch : r.ch < 16) (h : Requested s r 6 [(0, 2), (2, 2), (8, 8), (16, 8)])
    (hc : ctxHere s (reqField r 0 2) = true) (hq : queueHere s (reqField r 2 2) = true)
    (hmine : (s.ctx (reqField r 0 2)).tenant = r.ch) (hown : (s.ctx (s.queue (reqField r 2 2)).ctx).tenant = r.ch) :
    exec (.graphLoad r) s = .next (answered (takeReq s r true) r 0x610 (
      let x := s.queue (reqField r 2 2)
      if activating s then (takeReq s r true, .busy 2)
      else if x.st ≠ .live ∨ x.ctx ≠ reqField r 0 2 ∨ x.read ≠ x.last ∨ x.service then (takeReq s r true, .busy 1)
      else match pickSlot (takeReq s r true) 64 fun g => (s.graph? g).isNone with
        | (none, s1) => (s1, .noSlot 8)
        | (some g, s1) => (setGraph (setService s1 (reqField r 2 2) true) g
            ⟨r.ch, reqField r 0 2, reqField r 2 2, reqField r 8 8, reqField r 16 8, false, none⟩, .accepted g))) := by
  have hc' : ctxHere (takeReq s r true) (reqField r 0 2) = true := hc
  have hq' : queueHere (takeReq s r true) (reqField r 2 2) = true := hq
  have hno : ¬(((takeReq s r true).ctx (reqField r 0 2)).tenant ≠ r.ch
      ∨ ((takeReq s r true).ctx ((takeReq s r true).queue (reqField r 2 2)).ctx).tenant ≠ r.ch) := by
    rintro (hne | hne)
    · exact hne hmine
    · exact hne hown
  rw [exec_graphLoad, execGraphLoad, serve_requested h]
  dsimp only
  rw [roleThen_none (by rw [not_isI hch]; rfl) _ (paramFail_none h (by simp [hc', hq'])), if_neg hno]
  rfl

theorem graphOwner_mine {x : Graph} (hx : s.graph? (reqField r 0 1) = some x) (hmine : x.tenant = r.ch) :
    graphOwner s (reqField r 0 1) = some r.ch := by simp [graphOwner, hx, hmine]

theorem graphHere_loaded {x : Graph} (hx : s.graph? (reqField r 0 1) = some x) (hloaded : x.loaded = true) :
    graphHere s (reqField r 0 1) = true := by simp [graphHere, hx, hloaded]

/-- The run of a graph that a payload asks for. -/
def runAsked (r : Req) : GraphRun :=
  let p := reqField r
  { ringmark := (p 1 1).testBit 0, fence := if (p 1 1).testBit 1 then some (p 2 2) else none, value := p 48 8
    maxSteps := p 4 4, inVa := p 8 8, inBytes := p 16 8, outVa := p 24 8, outBytes := p 32 8, seed := p 40 8
    record := p 56 8, started := false, closing := none, written := 0, steps := 0, cancel := false }

section
variable {x : Graph} (hx : s.graph? (reqField r 0 1) = some x) (hloaded : x.loaded = true) (hmine : x.tenant = r.ch)
include hx hloaded hmine

theorem execGraphRun_served (hch : r.ch < 16)
    (h : Requested s r 16 [(0, 1), (1, 1), (2, 2), (4, 4), (8, 8), (16, 8), (24, 8), (32, 8), (40, 8), (48, 8), (56, 8)])
    (hflags : reqField r 1 1 < 4) (hlo : 1 ≤ reqField r 4 4) (hhi : reqField r 4 4 ≤ 65536)
    (hring : (reqField r 1 1).testBit 0 = true → reqField r 56 8 % 256 = 0)
    (hfence : (reqField r 1 1).testBit 1 = true → fenceHere s (reqField r 2 2) = true ∧ 2 ≤ fenceRight (s.fence (reqField r 2 2)) r.ch) :
    exec (.graphRun r) s = .next (serveGraphs (answered (takeReq s r true) r 0x611 (
      if activating s then (takeReq s r true, .busy 2)
      else if x.run.isSome then (takeReq s r true, .busy 3)
      else if (s.ctx x.ctx).st ≠ .live then (takeReq s r true, .badParam 0xFFFF)
      else (setGraph (takeReq s r true) (reqField r 0 1) { x with run := some (runAsked r) }, .accepted (reqField r 0 1))))) := by
  have hhere : graphHere (takeReq s r true) (reqField r 0 1) = true := graphHere_loaded hx hloaded
  have hown : ¬graphOwner (takeReq s r true) (reqField r 0 1) ≠ some r.ch := not_not.mpr (graphOwner_mine hx hmine)
  have hgood : (!bitOf (reqField r 1 1) 1 || fenceHere (takeReq s r true) (reqField r 2 2)) = true := by
    cases hb : bitOf (reqField r 1 1) 1
    · rfl
    · exact (hfence hb).1
  have hrec : (!bitOf (reqField r 1 1) 0 || reqField r 56 8 % 256 == 0) = true := by
    cases hb : bitOf (reqField r 1 1) 0
    · rfl
    · exact beq_iff_eq.mpr (hring hb)
  have hmay : ¬(bitOf (reqField r 1 1) 1 = true ∧ fenceRight ((takeReq s r true).fence (reqField r 2 2)) r.ch < 2) := by
    rintro ⟨hb, hlt⟩
    exact absurd hlt (Nat.not_lt.mpr (hfence hb).2)
  rw [exec_graphRun, execGraphRun, serve_requested h]
  dsimp only
  rw [roleThen_none (by rw [not_isI hch]; rfl) _ (paramFail_none h ?_), if_neg hown, if_neg hmay, takeReq_graph, hx]
  · rfl
  · simp only [List.forall_mem_cons]
    exact ⟨hhere, decide_eq_true hflags, hgood, decide_eq_true ⟨hlo, hhi⟩, hrec, nofun⟩

theorem execGraphCancel_served (hch : r.ch < 16) (h : Requested s r 1 [(0, 1)]) {y : GraphRun} (hy : x.run = some y) :
    exec (.graphCancel r) s = .next (serveGraphs (replyTo
      (setGraph (takeReq s r true) (reqField r 0 1) { x with run := some { y with cancel := true } }) r 0 0 [])) := by
  have hhere : graphHere (takeReq s r true) (reqField r 0 1) = true := graphHere_loaded hx hloaded
  have hown : ¬graphOwner (takeReq s r true) (reqField r 0 1) ≠ some r.ch := not_not.mpr (graphOwner_mine hx hmine)
  rw [exec_graphCancel, execGraphCancel, serve_requested h]
  dsimp only
  rw [roleThen_none (by rw [not_isI hch]; rfl) _ (paramFail_none h (by simp [hhere])), if_neg hown, takeReq_graph, hx]
  dsimp only
  rw [hy]
  rfl

theorem execGraphUnload_served (hch : r.ch < 16) (h : Requested s r 1 [(0, 1)]) :
    exec (.graphUnload r) s = .next (answered (takeReq s r true) r 0x613 (
      if x.run.isSome then (takeReq s r true, .busy 3) else (dropGraph (takeReq s r true) (reqField r 0 1) x.queue, .ok))) := by
  have hhere : graphHere (takeReq s r true) (reqField r 0 1) = true := graphHere_loaded hx hloaded
  have hown : ¬graphOwner (takeReq s r true) (reqField r 0 1) ≠ some r.ch := not_not.mpr (graphOwner_mine hx hmine)
  rw [exec_graphUnload, execGraphUnload, serve_requested h]
  dsimp only
  rw [roleThen_none (by rw [not_isI hch]; rfl) _ (paramFail_none h (by simp [hhere])), if_neg hown, takeReq_graph, hx]

end

theorem dropGraph_rest (u : State) (g q : Nat) :
    (dropGraph u g q).graph? g = none ∧ (dropGraph u g q).queue q = { u.queue q with service := false } := by
  refine ⟨?_, ?_⟩
  · exact (tget?_tdrop u.ranger.graphs (· == g) g).trans (if_pos (beq_self_eq_true g))
  · rw [dropGraph, setService, State.setQueue_queue, if_pos rfl]
    rfl

/-! ### Transfers -/

/-- The first job of a transfer. -/
def firstJob (s : State) (r : Req) : EngJob :=
  let f := reqField r
  let fence := if (f 1 1).testBit 2 then some (f 48 2) else none
  let m := if f 0 1 = 0 then 2 else if f 0 1 = 1 then 1 else 0
  let j : EngJob :=
    { mode := m, src := f 8 8, dst := f 24 8, srcBytes := min (f 32 8) (2 ^ 31), limit := f 40 8
      block := (1 + (Config.free s.freeTick).toNat % 64) * 4096, ends := decide (f 32 8 ≤ min (f 32 8) (2 ^ 31)), report := true
      blaze := if (f 1 1).testBit 0 then some (f 3 1, (f 1 1).testBit 1) else none, fence := fence, value := f 56 8, area := 0
      xfer := some ⟨r.ch, f 4 2, f 16 2, 0, f 24 8, fence, f 56 8, f 32 8 - min (f 32 8) (2 ^ 31)⟩
      pos := 0, buf := [], out := 0, frame := [], strm := .fresh m, opened := false, suspended := false, load := false
      finished := false }
  j.placed s

/-- The parameters of a transfer are in range, and its sender may use what they name. -/
structure Transferable (s : State) (r : Req) : Prop where
  mode : reqField r 0 1 ≤ 2
  flags : reqField r 1 1 < 8
  engine : reqField r 2 1 < 16
  granted : (tget? s.chipGrants (reqField r 2 1)).map Prod.fst = some r.ch
  blaze : (reqField r 1 1).testBit 0 = true → reqField r 3 1 < 32 ∧ tget? s.blazeGrants (reqField r 3 1) = some r.ch
    ∧ (s.bz (reqField r 3 1)).attached = none
  src : nameLive s (reqField r 4 2) (reqField r 6 2) = true
  srcFits : reqField r 8 8 + reqField r 32 8 ≤ (s.obj (reqField r 4 2)).size
  reads : objRight (s.obj (reqField r 4 2)) r.ch ≠ 0
  dst : nameLive s (reqField r 16 2) (reqField r 18 2) = true
  dstFits : reqField r 24 8 + reqField r 40 8 ≤ (s.obj (reqField r 16 2)).size
  writes : 2 ≤ objRight (s.obj (reqField r 16 2)) r.ch
  srcThere : objGone s (reqField r 4 2) = false
  dstThere : objGone s (reqField r 16 2) = false
  some_ : 4 ≤ reqField r 32 8
  fits : reqField r 32 8 ≤ 2 ^ 36
  fence : (reqField r 1 1).testBit 2 = true → fenceHere s (reqField r 48 2) = true ∧ 2 ≤ fenceRight (s.fence (reqField r 48 2)) r.ch
  idle : (s.engCtx (reqField r 2 1)).job = none

theorem Transferable.params (h : Transferable s r) : ∀ c ∈ [(0, decide (reqField r 0 1 ≤ 2)), (1, decide (reqField r 1 1 < 8)),
    (2, decide (reqField r 2 1 < 16)), (3, !bitOf (reqField r 1 1) 0 || decide (reqField r 3 1 < 32)),
    (4, nameLive s (reqField r 4 2) (reqField r 6 2)), (8, decide (reqField r 8 8 + reqField r 32 8 ≤ (s.obj (reqField r 4 2)).size)),
    (16, nameLive s (reqField r 16 2) (reqField r 18 2)),
    (24, decide (reqField r 24 8 + reqField r 40 8 ≤ (s.obj (reqField r 16 2)).size)),
    (32, decide (4 ≤ reqField r 32 8 ∧ reqField r 32 8 ≤ 2 ^ 36)),
    (48, !bitOf (reqField r 1 1) 2 || fenceHere s (reqField r 48 2))], c.2 = true := by
  have hz : (!bitOf (reqField r 1 1) 0 || decide (reqField r 3 1 < 32)) = true := by
    cases hb : bitOf (reqField r 1 1) 0
    · rfl
    · exact decide_eq_true (h.blaze hb).1
  have hf : (!bitOf (reqField r 1 1) 2 || fenceHere s (reqField r 48 2)) = true := by
    cases hb : bitOf (reqField r 1 1) 2
    · rfl
    · exact (h.fence hb).1
  simp only [List.forall_mem_cons]
  exact ⟨decide_eq_true h.mode, decide_eq_true h.flags, decide_eq_true h.engine, hz, h.src, decide_eq_true h.srcFits, h.dst,
    decide_eq_true h.dstFits, decide_eq_true ⟨h.some_, h.fits⟩, hf, nofun⟩

theorem execTransfer_served (hch : r.ch < 16) (h : Requested s r 16 [(0, 1), (1, 1), (2, 1), (3, 1), (4, 2), (6, 2), (8, 8), (16, 2),
    (18, 2), (24, 8), (32, 8), (40, 8), (48, 2), (56, 8)]) (ht : Transferable s r) (hroom : (s.channel r.ch).accepted.length < 16) :
    exec (.transfer r) s = .next (acceptedBy (attachBz (setEngCtx { takeReq s r true with freeTick := s.freeTick + 1 } (reqField r 2 1)
      { s.engCtx (reqField r 2 1) with job := some (firstJob s r), stream := none }) (reqField r 2 1) (firstJob s r).blaze)
      r 0x630 (reqField r 2 1)) := by
  have hgrant : ¬(chTenant s (reqField r 2 1) ≠ r.ch ∨ (tget? s.chipGrants (reqField r 2 1)).isNone = true
      ∨ (bitOf (reqField r 1 1) 0 = true ∧ tget? s.blazeGrants (reqField r 3 1) ≠ some r.ch)) := by
    rintro (hne | hnone | ⟨hb, hne⟩)
    · rw [chTenant, ht.granted] at hne
      exact hne rfl
    · have hg := ht.granted
      rw [Option.isNone_iff_eq_none.mp hnone] at hg
      exact absurd hg (Option.some_ne_none _).symm
    · exact hne (ht.blaze hb).2.1
  have hright : ¬(objRight (s.obj (reqField r 4 2)) r.ch = 0 ∨ objRight (s.obj (reqField r 16 2)) r.ch < 2
      ∨ (bitOf (reqField r 1 1) 2 = true ∧ fenceRight (s.fence (reqField r 48 2)) r.ch < 2)) := by
    rintro (h0 | hlt | ⟨hb, hlt⟩)
    · exact ht.reads h0
    · exact absurd hlt (Nat.not_lt.mpr ht.writes)
    · exact absurd hlt (Nat.not_lt.mpr (ht.fence hb).2)
  have hgone : ¬(objGone s (reqField r 4 2) = true ∨ objGone s (reqField r 16 2) = true) := by
    rw [ht.srcThere, ht.dstThere]; decide
  have hidle : ¬((s.engCtx (reqField r 2 1)).job.isSome = true
      ∨ (bitOf (reqField r 1 1) 0 = true ∧ (s.bz (reqField r 3 1)).attached.isSome = true)) := by
    rintro (hj | ⟨hb, hz⟩)
    · rw [ht.idle] at hj
      exact absurd hj Bool.false_ne_true
    · rw [(ht.blaze hb).2.2] at hz
      exact absurd hz Bool.false_ne_true
  have hserved : exec (.transfer r) s = .next (answered (takeReq s r true) r 0x630 (
      if chTenant s (reqField r 2 1) ≠ r.ch ∨ (tget? s.chipGrants (reqField r 2 1)).isNone = true
        ∨ (bitOf (reqField r 1 1) 0 = true ∧ tget? s.blazeGrants (reqField r 3 1) ≠ some r.ch) then (takeReq s r true, .denied 9)
      else if objRight (s.obj (reqField r 4 2)) r.ch = 0 ∨ objRight (s.obj (reqField r 16 2)) r.ch < 2
        ∨ (bitOf (reqField r 1 1) 2 = true ∧ fenceRight (s.fence (reqField r 48 2)) r.ch < 2) then (takeReq s r true, .denied 3)
      else if objGone s (reqField r 4 2) = true ∨ objGone s (reqField r 16 2) = true then (takeReq s r true, .hostGone)
      else if (s.engCtx (reqField r 2 1)).job.isSome = true
        ∨ (bitOf (reqField r 1 1) 0 = true ∧ (s.bz (reqField r 3 1)).attached.isSome = true) then (takeReq s r true, .busy 1)
      else (attachBz (setEngCtx { takeReq s r true with freeTick := s.freeTick + 1 } (reqField r 2 1)
        { s.engCtx (reqField r 2 1) with job := some (firstJob s r), stream := none }) (reqField r 2 1) (firstJob s r).blaze,
        .accepted (reqField r 2 1)))) := by
    rw [exec_transfer, execTransfer, serve_requested h]
    dsimp only
    rw [roleThen_none (by rw [not_isI hch]; rfl) _ (paramFail_none h ?_)]
    · rfl
    · exact ht.params
  rw [hserved, if_neg hgrant, if_neg hright, if_neg hgone, if_neg hidle, answered_accepted hroom]

/-! ### The end of a load -/

theorem graphLoadDone_eq {g : Nat} {x : Graph} (hx : s.graph? g = some x) (hloaded : x.loaded = false) (hup : s.ranger.up = true)
    (hlive : (s.ctx x.ctx).st = .live) : exec (.graphLoadDone g) s = .next (match vread s x.ctx x.va x.bytes with
      | .error f => finalOn (dropGraph (serviceFault s x.ctx x.queue f) g x.queue) x.tenant 0x610 g rRefused 0x20FF []
      | .ok (bs, u) =>
        if (Config.packageHead bs).1 ≠ 0x4E394750 then finalOn (dropGraph u g x.queue) x.tenant 0x610 g rBadParam 8 []
        else if (Config.packageHead bs).2 ≠ 3 then finalOn (dropGraph u g x.queue) x.tenant 0x610 g rVersion 6 []
        else finalOn (setGraph u g { x with loaded := true }) x.tenant 0x610 g rOk 0 (leBytes 1 g ++ [0, 0, 0])) := by
  rw [exec_graphLoadDone, execGraphLoadDone, hx]
  dsimp only
  rw [hloaded, hup, hlive]
  rfl

end

/-- Settles O43: what each request answers, the first job of a transfer, and the end of a load by what the package holds. -/
theorem serviceRequests : Obligations.ServiceRequests := by
  refine ⟨?_, fun g x s hx hloaded hup hlive => ?_⟩
  · intro r s hch u p v turned room liveFence
    have hfenceHere {f : Nat} (hl : liveFence f) : fenceHere s f = true ∧ 2 ≤ fenceRight (s.fence f) r.ch :=
      ⟨fenceHere_of ⟨hl.1, hl.2.1⟩, hl.2.2⟩
    refine ⟨?_, fun x hx hloaded hmine => ⟨?_, fun h y hy => ⟨?_, ?_⟩, fun h hidle => ?_⟩, ?_⟩
    · intro c x h hc hst hmine hq hqst hown idle
      have hexec := execGraphLoad_served hch h (ctxHere_of hc hst) 
        (by rw [queueHere, Bool.and_eq_true, decide_eq_true_eq, bne_iff_ne]; exact ⟨hq, hqst⟩) hmine hown
      dsimp only at hexec
      have hbusy : ((s.queue (reqField r 2 2)).st ≠ .live ∨ (s.queue (reqField r 2 2)).ctx ≠ reqField r 0 2
          ∨ (s.queue (reqField r 2 2)).read ≠ (s.queue (reqField r 2 2)).last ∨ (s.queue (reqField r 2 2)).service = true) ↔ ¬idle := by
        simp only [idle, not_and_or, Bool.not_eq_false]
        rfl
      refine ⟨fun ha => ?_, fun ha hb => ?_, fun ha hi hfull => ?_, fun ha hi hfree hroom => ?_⟩
      · show exec (.graphLoad r) s = _
        rw [hexec, if_pos ha, answered_busy]
      · show exec (.graphLoad r) s = _
        rw [hexec, if_neg (by rw [ha]; exact Bool.false_ne_true), if_pos (hbusy.mpr hb), answered_busy]
      · rw [hexec, if_neg (by rw [ha]; exact Bool.false_ne_true), if_neg (fun hc => hbusy.mp hc hi),
          pickSlot_none (by decide) fun g hg => by rw [Option.isNone_eq_false_iff]; exact hfull g hg]
        rfl
      · obtain ⟨g, hg, hgfree, hpick⟩ := pickSlot_some (s := u) (n := 64) (free := fun g => (s.graph? g).isNone)
          (by simpa using hfree)
        refine ⟨g, hg, Option.isNone_iff_eq_none.mp hgfree, ?_⟩
        rw [hexec, if_neg (by rw [ha]; exact Bool.false_ne_true), if_neg (fun hc => hbusy.mp hc hi), hpick]
        exact congrArg _ (answered_accepted hroom _ _ _)
    · intro h hflags hlo hhi hring hfence begun
      have hexec := execGraphRun_served hx hloaded hmine hch h hflags hlo hhi hring fun hb => hfenceHere (hfence hb)
      refine ⟨fun ha => ?_, fun ha hrun => ?_, fun ha hrun hlive hroom => ?_⟩
      · rw [hexec, if_pos ha, answered_busy]
      · rw [hexec, if_neg (by rw [ha]; exact Bool.false_ne_true), if_pos (Option.isSome_iff_ne_none.mpr hrun), answered_busy]
      · rw [hexec, if_neg (by rw [ha]; exact Bool.false_ne_true), if_neg (by rw [hrun]; exact Bool.false_ne_true),
          if_neg (not_not.mpr hlive), answered_accepted hroom]
        rfl
    · exact execGraphCancel_served hx hloaded hmine hch h hy
    · show exec (.graphUnload r) s = _
      rw [execGraphUnload_served hx hloaded hmine hch h, if_pos (by rw [hy]; rfl), answered_busy]
    · refine ⟨_, ?_, dropGraph_rest (takeReq s r true) (reqField r 0 1) x.queue⟩
      rw [execGraphUnload_served hx hloaded hmine hch h, if_neg (by rw [hidle]; exact Bool.false_ne_true), answered_ok]
    · intro f n c h hmode hflags hc hgrant hblaze hsrc hsfits hreads hdst hdfits hwrites hsgone hdgone hlo hhi hfence hidle hroom
      have ht : Transferable s r := ⟨hmode, hflags, hc, hgrant, hblaze, hsrc, hsfits, hreads, hdst, hdfits, hwrites, hsgone, hdgone,
        hlo, hhi, fun hb => hfenceHere (hfence hb), hidle⟩
      refine ⟨_, _, execTransfer_served hch h ht hroom, Nat.le_add_right 1 _, ?_, rfl, ?_, rfl, rfl, rfl, rfl, ?_, rfl, rfl, rfl, rfl,
        rfl, rfl, rfl⟩
      · have := Nat.mod_lt (Config.free s.freeTick).toNat (show 0 < 64 by decide)
        omega
      · show (if f 0 1 = 0 then 2 else if f 0 1 = 1 then 1 else 0) = 2 - f 0 1
        split
        · omega
        · split <;> omega
      · show decide (n ≤ min n (2 ^ 31)) = decide (n ≤ 2 ^ 31)
        exact decide_eq_decide.mpr (by omega)
  · intro ends
    have hexec := graphLoadDone_eq hx hloaded hup hlive
    refine ⟨fun e he => ?_, fun bs u hu => ⟨fun hmagic => ?_, fun hmagic hver => ?_, fun hmagic hver => ?_⟩⟩
    · show exec (.graphLoadDone g) s = _
      rw [hexec, he]
      rfl
    · show exec (.graphLoadDone g) s = _
      rw [hexec, hu]
      exact congrArg _ (if_pos hmagic)
    · show exec (.graphLoadDone g) s = _
      rw [hexec, hu]
      exact congrArg _ ((if_neg (not_not.mpr hmagic)).trans (if_pos hver))
    · rw [hexec, hu]
      exact congrArg _ ((if_neg (not_not.mpr hmagic)).trans (if_neg (not_not.mpr hver)))

end Sys2Proof.Proofs

/-! O44: the composition service. -/

namespace Sys2Proof.Proofs

open Sys2Proof.Machine

/-! ### Deadline requests leave the layers and the services -/

namespace Still

variable {s t : State} (h : Still s t)
include h

theorem layers : t.prism.layers = s.prism.layers := (congrArg (fun s => s.prism.layers) h.rest :)
theorem compose : t.prism.compose = s.prism.compose := (congrArg (fun s => s.prism.compose) h.rest :)

end Still

section
variable {s : State}

theorem still_preemptCore (core waiter : Nat) : Still s (preemptCore s core waiter) :=
  Still.foldl (fun s _ => still_preemptOne s _ _ _ _) _ s

theorem still_requestCores (id n : Nat) : Still s (requestCores s id n) :=
  Still.foldl (fun _ _ => still_preemptCore _ _) _ s

theorem still_askHold (core id kib : Nat) : Still s (askHold s core id kib) := by
  unfold askHold
  extract_lets c going free as s1
  split
  · split
    · exact .refl s
    · exact still_preemptCore _ _
  · split
    · exact .refl s
    · have h1 : Still s s1 := Still.foldl (fun s _ => still_preemptOne s _ _ _ _) _ s
      split
      · exact h1
      · exact h1.trans (still_preemptCore _ _)

theorem still_askRestore (e : Saved) : Still s (askRestore s e) := by
  unfold askRestore
  extract_lets c
  split
  · exact .refl s
  · split
    · exact (settled_unitFault s _ _).still
    · exact still_requestCores _ _
    · split
      · exact .refl s
      · refine Still.trans ?_ (still_preemptCore _ _)
        split
        · exact still_askHold _ _ _
        · exact .refl s

theorem still_preemptFor (q : Nat) : Still s (preemptFor s q) := by
  refine Still.foldl (fun s e => ?_) _ s
  extract_lets s1 s2
  split
  · exact .refl s
  · have h1 : Still s s1 := still_requestCores _ _
    have h2 : Still s1 s2 := Still.foldl (fun _ _ => still_preemptCore _ _) _ s1
    exact (h1.trans h2).trans (Still.foldl (fun _ _ => still_askRestore _) _ s2)

theorem still_noteBoost (id : Nat) : Still s (noteBoost s id) := by
  unfold noteBoost
  split
  · exact .refl s
  next c _ =>
    split
    · have hset : Still s { s with cmds := tset s.cmds id { c with boosted := true } } := { Still.refl s with rest := rfl }
      exact hset.trans (settled_incBlock _ _ _).still
    · exact .refl s

theorem still_raiseRequests (x : FlipSet) (due : Nat) : Still s (raiseRequests s x due) := by
  unfold raiseRequests
  extract_lets want held new bs sc s1 up run s2
  have h1 : Still s s1 := { Still.refl s with rest := rfl }
  have h2 : Still s1 s2 := Still.foldl (fun _ _ => still_noteBoost _) _ s1
  have h3 : Still s2 (bumpBy (bumpBy s2 (uOut x.output) 0x128 new.length) uSched 0x140 up.length) :=
    ((says_bumpBy _ _ _ _).trans (says_bumpBy _ _ _ _)).still
  exact ((h1.trans h2).trans h3).trans (Still.foldl (fun _ _ => still_preemptFor _) _ _)

theorem still_raiseOn (n : Nat) : Still s (raiseOn s n) := by
  unfold raiseOn
  extract_lets o
  split
  · split
    · exact Still.foldl (fun _ _ => still_raiseRequests _ _) _ s
    · exact .refl s
  · exact .refl s

/-- A set that is armed changes no layer and no service. -/
theorem armSet_rest (t : Nat) (u : Submit) (done : Option Nat) (value : DWord) :
    (armSet s t u done value).prism.layers = s.prism.layers ∧ (armSet s t u done value).prism.compose = s.prism.compose := by
  unfold armSet
  extract_lets old snap s1 x pr s2
  obtain ⟨h1, -⟩ := eachSet_cancels old s
  obtain ⟨r, hr⟩ : ∃ r, r = evalSet s2 x := ⟨_, rfl⟩
  have h2 : Settled s2 r.1 := hr ▸ settled_evalSet s2 x
  have h3 := ((h2.trans (settled_settle r.2 r.1)).still).trans (still_raiseOn (s := settle r.2 r.1) u.output)
  rw [← hr]
  exact ⟨h3.layers.trans h1.layers, h3.compose.trans h1.compose⟩

end

/-! ### Start and stop -/

/-- The service that a request starts. -/
def composeOf (s : State) (r : Req) : Compose :=
  { tenant := r.ch, mask := reqField r 2 2, obj := reqField r 4 2, gen := reqField r 6 2, off := reqField r 8 8
    done := if bitOf (reqField r 18 1) 0 then some (reqField r 16 2) else none
    value := (s.fence (reqField r 16 2)).value.toNat + 1, applied := [] }

section
variable {r : Req} {s : State}

theorem execComposeStart_served (hch : r.ch < 16)
    (h : Requested s r 6 [(0, 1), (2, 2), (4, 2), (6, 2), (8, 8), (16, 2), (18, 1)]) (hn : reqField r 0 1 < 4)
    (hname : nameLive s (reqField r 4 2) (reqField r 6 2) = true)
    (hfits : reqField r 8 8 + 1024 ≤ (s.obj (reqField r 4 2)).size) (hflag : reqField r 18 1 < 2)
    (hfence : reqField r 18 1 = 1 → fenceHere s (reqField r 16 2) = true) :
    exec (.composeStart r) s = .next (answered (takeReq s r true) r 0x620 (
      let n := reqField r 0 1
      let o := reqField r 4 2
      let de := bitOf (reqField r 18 1) 0
      if (maskLayers (reqField r 2 2)).any fun k => layerOwner s n k != some r.ch then (takeReq s r true, .denied 9)
      else if objRight (s.obj o) r.ch < 2 ∨ (de ∧ fenceRight (s.fence (reqField r 16 2)) r.ch < 2) then (takeReq s r true, .denied 3)
      else if objGone s o then (takeReq s r true, .hostGone)
      else if (tget? s.prism.compose (16 * n + r.ch)).isSome then (takeReq s r true, .busy 1)
      else ({ takeReq s r true with
        prism := { s.prism with compose := tset s.prism.compose (16 * n + r.ch) (composeOf s r) } }, .ok))) := by
  have hgood : (!bitOf (reqField r 18 1) 0 || fenceHere (takeReq s r true) (reqField r 16 2)) = true := by
    cases hb : bitOf (reqField r 18 1) 0
    · rfl
    · refine hfence ?_
      interval_cases reqField r 18 1
      · exact absurd hb (by decide)
      · rfl
  have hname' : nameLive (takeReq s r true) (reqField r 4 2) (reqField r 6 2) = true := hname
  rw [exec_composeStart, execComposeStart, serve_requested h]
  dsimp only
  rw [roleThen_none (by rw [not_isI hch]; rfl) _ (paramFail_none h ?_)]
  · rfl
  · simp only [List.forall_mem_cons]
    exact ⟨decide_eq_true hn, hname', decide_eq_true hfits, hgood, decide_eq_true hflag, nofun⟩

theorem execComposeStop_served (hch : r.ch < 16) (h : Requested s r 1 [(0, 1)]) (hn : reqField r 0 1 < 4) :
    exec (.composeStop r) s = .next (answered (takeReq s r true) r 0x621 (
      if (tget? s.prism.compose (16 * reqField r 0 1 + r.ch)).isNone then (takeReq s r true, .badParam 0xFFFF)
      else ({ takeReq s r true with prism := { s.prism with
        compose := tdrop s.prism.compose (· == 16 * reqField r 0 1 + r.ch) } }, .ok))) := by
  rw [exec_composeStop, execComposeStop, serve_requested h]
  dsimp only
  rw [roleThen_none (by rw [not_isI hch]; rfl) _ (paramFail_none h (by simp [hn]))]
  rfl

end

/-! ### One frame of a service -/

/-- The layers of a list with their pending registers set. -/
def pended (n : Nat) (regs : Nat → LayerRegs) (ks : List Nat) (s : State) : State :=
  ks.foldl (fun s k => s.setLayer n k { s.layer n k with pend := regs k }) s

theorem setLayer_layer (s : State) {n k j i : Nat} (x : Layer) (hk : k < 16) (hi : i < 16) :
    (s.setLayer n k x).layer j i = if j = n ∧ i = k then x else s.layer j i := by
  have hkey : 16 * j + i = 16 * n + k ↔ j = n ∧ i = k := by omega
  refine (tget_tset _ _ _ _ _).trans ?_
  by_cases h : j = n ∧ i = k
  · rw [if_pos (hkey.mpr h), if_pos h]
  · rw [if_neg (fun hc => h (hkey.mp hc)), if_neg h]
    rfl

theorem pended_compose (n : Nat) (regs : Nat → LayerRegs) (ks : List Nat) (s : State) :
    (pended n regs ks s).prism.compose = s.prism.compose :=
  foldl_keeps (fun s : State => s.prism.compose) (fun s k => show (s.setLayer n k _).prism.compose = _ from rfl) ks s

theorem pended_layer (n : Nat) (regs : Nat → LayerRegs) {ks : List Nat} (hks : ∀ k ∈ ks, k < 16) (s : State) (j : Nat) {i : Nat}
    (hi : i < 16) : (pended n regs ks s).layer j i =
      if j = n ∧ i ∈ ks then { s.layer j i with pend := regs i } else s.layer j i := by
  induction ks generalizing s with
  | nil => simp [pended]
  | cons k ks ih =>
    have hk := hks k List.mem_cons_self
    rw [pended, List.foldl_cons, ← pended, ih (fun x hx => hks x (List.mem_cons_of_mem _ hx)), setLayer_layer _ _ hk hi]
    by_cases hjn : j = n
    · subst hjn
      by_cases hik : i = k
      · subst hik
        by_cases hin : i ∈ ks <;> simp [hin]
      · by_cases hin : i ∈ ks <;> simp [hin, hik]
    · simp [hjn]

/-- The generation that a table gives a window. -/
def windowGen (table : List Byte) (k : Nat) : Nat := fieldAt ((table.drop (64 * k)).take 64) 0 4

/-- The windows of a service that are new and not torn. -/
def newWindows (x : Compose) (torn : List Nat) (table : List Byte) : List Nat :=
  (maskLayers x.mask).filter fun k => !torn.contains k && tget? x.applied k != some (windowGen table k)

theorem mem_newWindows {x : Compose} {torn : List Nat} {table : List Byte} {k : Nat} : k ∈ newWindows x torn table ↔
    k < 16 ∧ x.mask.testBit k = true ∧ k ∉ torn ∧ tget? x.applied k ≠ some (windowGen table k) := by
  simp only [newWindows, List.mem_filter, mem_maskLayers, Bool.and_eq_true, Bool.not_eq_true', bne_iff_ne, ne_eq, and_assoc,
    ← Bool.not_eq_true, List.contains_iff_mem]

/-- The generations of the windows that were applied. -/
def applied (table : List Byte) (ks : List Nat) (t : Tbl Nat) : Tbl Nat := ks.foldl (fun t k => tset t k (windowGen table k)) t

theorem tget?_applied (table : List Byte) (ks : List Nat) (t : Tbl Nat) (j : Nat) :
    tget? (applied table ks t) j = if j ∈ ks then some (windowGen table j) else tget? t j := by
  induction ks generalizing t with
  | nil => simp [applied]
  | cons k ks ih =>
    rw [applied, List.foldl_cons, ← applied, ih, tget?_tset]
    by_cases hj : j = k
    · subst hj; simp
    · simp [hj]

section
variable {n t : Nat} {x : Compose} {torn : List Nat} {s : State} (hn : n < 4) (ht : t < 16) (hup : s.ranger.up = true)
    (hon : (s.output n).src ≠ .off) (hone : s.prism.compose = [(16 * n + t, x)])
include hn ht hup hon hone

theorem composeServiceFrame_eq :
    exec (.composeServiceFrame n torn) s = .next (composeFrame s n (16 * n + t) x torn) := by
  rw [exec_composeServiceFrame, execComposeServiceFrame, if_neg (by simp [Nat.not_le.mpr hn, hup, hon]), hone]
  show Host.Outcome.next (if (16 * n + t) / 16 = n then composeFrame s n (16 * n + t) x torn else s) = _
  rw [if_pos (by omega)]

end

section
variable {n key : Nat} {x : Compose} {torn : List Nat} {s : State} (hreach : objReachable s x.obj x.gen = true)
include hreach

theorem composeFrame_idle (hnone : newWindows x torn (devRead s ((s.obj x.obj).base + x.off) 1024).1 = []) :
    composeFrame s n key x torn = (devRead s ((s.obj x.obj).base + x.off) 1024).2 := by
  unfold composeFrame
  rw [hreach, if_neg (by decide)]
  exact if_pos hnone

/-- A frame with new windows: their layers are pending, their generations noted, and no other layer or service changes. -/
theorem composeFrame_applies (hkey : tget? s.prism.compose key = some x)
    (hsome : newWindows x torn (devRead s ((s.obj x.obj).base + x.off) 1024).1 ≠ []) :
    let table := (devRead s ((s.obj x.obj).base + x.off) 1024).1
    let v := composeFrame s n key x torn
    (∀ j k, k < 16 → v.layer j k = if j = n ∧ k ∈ newWindows x torn table
      then { s.layer j k with pend := windowRegs ((table.drop (64 * k)).take 64) } else s.layer j k)
      ∧ ∃ y, tget? v.prism.compose key = some y ∧ y.applied = applied table (newWindows x torn table) x.applied
        ∧ (y.value = x.value ∨ y.value = x.value + 1) := by
  have h1 : (devRead s ((s.obj x.obj).base + x.off) 1024).2.prism = s.prism := (readsOnly_devRead _ _ _).prism
  unfold composeFrame
  rw [hreach]
  generalize devRead s ((s.obj x.obj).base + x.off) 1024 = d at h1 hsome
  obtain ⟨table, s1⟩ := d
  dsimp -zeta only [Bool.not_true, Bool.false_eq_true, if_false]
  extract_lets table' rec_ ks s2 u res s3 s4 pr v
  have hks : ks = newWindows x torn table := rfl
  have hlt : ∀ k ∈ ks, k < 16 := fun k hk => (mem_newWindows.mp (hks ▸ hk)).1
  have h2 : s2 = pended n (fun k => windowRegs (rec_ k)) ks s1 := rfl
  have h3 : s3.prism.layers = s2.prism.layers ∧ s3.prism.compose = s2.prism.compose := by
    obtain h | h : s3 = s2 ∨ s3 = armSet s2 x.tenant u x.done (BitVec.ofNat 64 x.value) := by
      cases h : res
      · exact .inr (by simp only [s3, h])
      · exact .inl (by simp only [s3, h])
    · rw [h]; exact ⟨rfl, rfl⟩
    · rw [h]; exact armSet_rest _ _ _ _
  have h4 : s4.prism = s3.prism := foldl_keeps State.prism (fun s k => (writesOnly_objWrite s _ _ _ _).prism) ks s3
  have hcompose : tget? s4.prism.compose key = some x := by rw [h4, h3.2, h2, pended_compose, h1, hkey]
  have hv : v = _ := (if_neg (by decide)).trans ((if_neg hsome).trans (if_neg (by rw [hcompose]; exact Bool.false_ne_true)))
  constructor
  · intro j k hk
    have hlayer : v.layer j k = s2.layer j k := by
      rw [hv]
      show tget s4.prism.layers _ _ = _
      rw [h4, h3.1]
      rfl
    rw [hlayer, h2, pended_layer n _ hlt s1 j hk, hks]
    show (if _ then { tget s1.prism.layers _ _ with pend := _ } else tget s1.prism.layers _ _) = _
    rw [h1]
    rfl
  · have hy := (congrArg (fun v : State => tget? v.prism.compose key) hv).trans ((tget?_tset _ _ _ _).trans (if_pos rfl))
    refine ⟨_, hy, rfl, ?_⟩
    dsimp only
    split
    · exact .inr rfl
    · exact .inl rfl

end

/-- Settles O44: the checks of start and stop in the order of the table, and a frame by its new windows. -/
theorem compositionService : Obligations.CompositionService := by
  unfold Obligations.CompositionService
  refine ⟨fun r s hch => ?_, fun n t x torn s hn ht hup hon hone hreach => ?_⟩
  · intro u p n key turned
    constructor
    · intro hreq hn hname hfits hflag hfence holds may made
      have hexec := execComposeStart_served hch hreq hn hname hfits hflag (fun h => fenceHere_of (hfence h))
      have hde : bitOf (p 18 1) 0 = decide (p 18 1 = 1) := by
        interval_cases p 18 1
        · rfl
        · rfl
      dsimp only at hexec
      have hheld : ((maskLayers (p 2 2)).any fun k => layerOwner s n k != some r.ch) = true ↔ ¬holds := by
        simp [holds, mem_maskLayers, and_assoc]
      have hmay : (objRight (s.obj (p 4 2)) r.ch < 2 ∨ (bitOf (p 18 1) 0 ∧ fenceRight (s.fence (p 16 2)) r.ch < 2)) ↔ ¬may := by
        rw [hde]
        simp only [may, decide_eq_true_eq]
        omega
      have hmade : composeOf s r = made := by simp only [composeOf, made, hde, p, decide_eq_true_eq]
      rw [hmade] at hexec
      refine ⟨fun hno => ?_, fun hheld1 hno => ?_, fun hheld1 hmay1 hgone => ?_⟩
      · rw [if_pos (hheld.mpr hno)] at hexec
        exact hexec
      · rw [if_neg (mt hheld.mp (not_not.mpr hheld1)), if_pos (hmay.mpr hno)] at hexec
        exact hexec
      · rw [if_neg (mt hheld.mp (not_not.mpr hheld1)), if_neg (mt hmay.mp (not_not.mpr hmay1)),
          if_neg (by rw [hgone]; exact Bool.false_ne_true)] at hexec
        refine hexec.trans (congrArg Host.Outcome.next ?_)
        show answered u r 0x620 (if _ then _ else _) = _
        split
        · rfl
        · rfl
    · intro hreq hn
      refine (execComposeStop_served hch hreq hn).trans (congrArg Host.Outcome.next ?_)
      show answered u r 0x621 (if _ then _ else _) = _
      split
      · rfl
      · rfl
  · intro table gen new
    have hnew (k : Nat) : new k ↔ k ∈ newWindows x torn table.1 := mem_newWindows.symm
    constructor
    · intro hnone
      have hnil : newWindows x torn table.1 = [] := List.eq_nil_iff_forall_not_mem.mpr fun k hk => hnone k ((hnew k).mpr hk)
      rw [composeServiceFrame_eq hn ht hup hon hone, composeFrame_idle hreach hnil]
    · rintro ⟨k, hk⟩
      have hkey : tget? s.prism.compose (16 * n + t) = some x := by rw [hone]; simp [tget?]
      obtain ⟨hlayer, y, hy, happlied, hvalue⟩ :=
        composeFrame_applies (n := n) hreach hkey (List.ne_nil_of_mem ((hnew k).mp hk))
      refine ⟨_, composeServiceFrame_eq hn ht hup hon hone, fun k hk => ?_, fun j k hk16 hne => ?_, y, hy, fun k hk => ?_,
        fun k hk => ?_, hvalue⟩
      · exact (hlayer n k hk.1).trans (if_pos ⟨rfl, (hnew k).mp hk⟩)
      · exact (hlayer j k hk16).trans (if_neg fun h => hne ⟨h.1, (hnew k).mpr h.2⟩)
      · exact happlied ▸ (tget?_applied _ _ _ _).trans (if_pos ((hnew k).mp hk))
      · exact happlied ▸ (tget?_applied _ _ _ _).trans (if_neg fun h => hk ((hnew k).mpr h))

end Sys2Proof.Proofs

/-! What taking a tenant's things away, and Kreog's return, leave of the part: its boot state, its configuration, its flash,
its power and its activation. -/

namespace Sys2Proof.Proofs

open Sys2Proof.Machine

/-- From `s` to `t` the part's own state stayed as it was. -/
structure Steady (s t : State) : Prop where
  boot : t.boot = s.boot
  cfg : t.cfg = s.cfg
  flash : t.flash = s.flash
  power : t.power = s.power
  rangerSt : t.ranger.st = s.ranger.st
  act : t.ranger.act = s.ranger.act
  asleep : t.ranger.asleep = s.ranger.asleep

/-- The same, with ports, tenants and channels that were only told. -/
structure Sheds (s t : State) : Prop extends Steady s t where
  told : Told s t

theorem steady_of_eq {s t : State} (hb : t.boot = s.boot) (hc : t.cfg = s.cfg) (hf : t.flash = s.flash) (hp : t.power = s.power)
    (hr : t.ranger.st = s.ranger.st) (ha : t.ranger.act = s.ranger.act)
    (hz : t.ranger.asleep = s.ranger.asleep) : Steady s t := ⟨hb, hc, hf, hp, hr, ha, hz⟩

theorem Steady.refl (s : State) : Steady s s := ⟨rfl, rfl, rfl, rfl, rfl, rfl, rfl⟩

theorem Steady.trans {a b c : State} (h : Steady a b) (k : Steady b c) : Steady a c :=
  ⟨k.boot.trans h.boot, k.cfg.trans h.cfg, k.flash.trans h.flash, k.power.trans h.power, k.rangerSt.trans h.rangerSt, k.act.trans h.act,
    k.asleep.trans h.asleep⟩

theorem Steady.foldl {α : Type} {f : State → α → State} (h : ∀ s x, Steady s (f s x)) (l : List α) (s : State) :
    Steady s (l.foldl f s) := by
  induction l generalizing s with
  | nil => exact .refl s
  | cons x xs ih => exact (h s x).trans (ih _)

theorem Still.steady {s t : State} (h : Still s t) : Steady s t :=
  ⟨h.boot, h.cfg, (congrArg State.flash h.rest :), h.power, (congrArg (fun s => s.ranger.st) h.rest :),
    (congrArg (fun s => s.ranger.act) h.rest :), (congrArg (fun s => s.ranger.asleep) h.rest :)⟩

theorem Discards.sheds {s t : State} (h : Discards s t) : Sheds s t := ⟨h.still.steady, h.told⟩
theorem Settled.sheds {s t : State} (h : Settled s t) : Sheds s t := h.discards.sheds
theorem WritesOnly.sheds {s t : State} (h : WritesOnly s t) : Sheds s t := h.settled.sheds
theorem Says.sheds {s t : State} (h : Says s t) : Sheds s t := h.settled.sheds

theorem Sheds.refl (s : State) : Sheds s s := ⟨.refl s, .refl s⟩

theorem Sheds.trans {a b c : State} (h : Sheds a b) (k : Sheds b c) : Sheds a c :=
  ⟨h.toSteady.trans k.toSteady, h.told.trans k.told⟩

theorem Sheds.foldl {α : Type} {f : State → α → State} (h : ∀ s x, Sheds s (f s x)) (l : List α) (s : State) :
    Sheds s (l.foldl f s) := by
  induction l generalizing s with
  | nil => exact .refl s
  | cons x xs ih => exact (h s x).trans (ih _)

/-- What a change of other parts of the state leaves. -/
theorem sheds_of_rest {s t : State} (h : t = { s with
    mem := t.mem, cores := t.cores, ctxs := t.ctxs, queues := t.queues, objs := t.objs, fences := t.fences, bridges := t.bridges
    sched := t.sched, chipGrants := t.chipGrants, blazeGrants := t.blazeGrants, prism := t.prism
    ranger := { s.ranger with graphs := t.ranger.graphs } }) : Sheds s t :=
  ⟨⟨(congrArg State.boot h :), (congrArg State.cfg h :), (congrArg State.flash h :), (congrArg State.power h :),
    (congrArg (fun s => s.ranger.st) h :), (congrArg (fun s => s.ranger.act) h :), (congrArg (fun s => s.ranger.asleep) h :)⟩,
    .of_eq (congrArg State.ports h :) (congrArg State.tenants h :) (congrArg State.channels h :)⟩

section
variable {s : State}

/-! ### Contexts, flips, objects and fences of a tenant -/

theorem sheds_endLoadsOf (c : Nat) : Sheds s (endLoadsOf s c) := by
  refine Sheds.foldl (fun s e => ?_) _ s
  split
  · exact Sheds.trans (sheds_of_rest rfl) (says_finalOn _ _ _ _ _ _ _).sheds
  · exact .refl s

theorem sheds_setCtxSt (c : Nat) (st : CtxSt) : Sheds s (setCtxSt s c st) := by
  refine Sheds.trans ?_ (settled_setBlock _ _ _ _ _).sheds
  exact sheds_of_rest rfl

theorem sheds_stopCtx (c : Nat) (st : CtxSt) : Sheds s (stopCtx s c st) :=
  ((discards_discardCtx s c).sheds.trans (sheds_setCtxSt c st)).trans (settled_settle _ _).sheds

theorem sheds_destroyCtx (c : Nat) : Sheds s (destroyCtx s c) := by
  unfold destroyCtx
  extract_lets s1 r s2
  have h1 : Sheds s s1 := (sheds_endLoadsOf c).trans (sheds_stopCtx c .destroying)
  have h2 : Sheds s1 s2 := sheds_of_rest rfl
  refine (h1.trans h2).trans (Sheds.foldl (fun s e => ?_) _ s2)
  split
  · refine Sheds.trans ?_ (writesOnly_report _ _).sheds
    exact sheds_of_rest rfl
  · exact .refl s

theorem sheds_dropEngines (t : Nat) : Sheds s (dropEngines s t) := by
  unfold dropEngines
  extract_lets s1
  exact ((discards_stopChipOf s _).trans (discards_stopBlazeOf _ t)).sheds.trans (sheds_of_rest rfl)

theorem settled_discardSets (p : FlipSet → Bool) : Settled s (discardSets s p) :=
  Settled.foldl (fun s _ => settled_dropSet s _) _ s

theorem sheds_dropFlips (t : Nat) : Sheds s (dropFlips s t) := by
  unfold dropFlips
  extract_lets s1
  have h0 : Sheds s (discardSets s fun x => x.tenant == t) := (settled_discardSets _).sheds
  have h1 : Sheds (discardSets s fun x => x.tenant == t) s1 := sheds_of_rest rfl
  exact (h0.trans h1).trans (sheds_of_rest rfl)

theorem sheds_endSavedWaits (f : Nat) (p : Nat → Bool) : Sheds s (endSavedWaits s f p) := by
  unfold endSavedWaits
  extract_lets mine cs sv
  have h0 : Sheds s { s with sched := { s.sched with saved := sv } } := sheds_of_rest rfl
  exact h0.trans (Settled.foldl (fun s c => settled_incBlock s c 132) cs _).sheds

theorem sheds_endWaitsOf (f t : Nat) : Sheds s (endWaitsOf s f t).1 := by
  unfold endWaitsOf
  extract_lets mine s0 s1
  have h0 : Sheds s s0 := sheds_endSavedWaits f mine
  have h1 : Sheds s0 s1 := by
    refine (Settled.foldl (fun s e => ?_) _ s0).sheds
    split
    · exact settled_endFwait s _ _
    · exact .refl s
  split
  next s2 as heq =>
    have h2 : s2 = s1 := by
      refine (congrArg Prod.fst heq).symm.trans (foldl_keeps (fun a : State × List Act => a.1) (fun a e => ?_) _ (s1, []))
      split
      · rfl
      · split
        · rfl
        · rfl
    rw [h2]
    refine (h0.trans h1).trans (Sheds.foldl (fun s e => ?_) _ s1)
    split
    · exact ((settled_setTenant s t rfl).trans (says_notifyTenant _ _ _).settled).sheds
    · exact .refl s

theorem sheds_revokeFence (f t : Nat) : Sheds s (revokeFence s f t) := by
  unfold revokeFence
  extract_lets x s1
  have h1 : Sheds s s1 := sheds_of_rest rfl
  exact (h1.trans (sheds_endWaitsOf f t)).trans (settled_settle _ _).sheds

theorem sheds_releaseFence (f : Nat) : Sheds s (releaseFence s f) := by
  unfold releaseFence
  extract_lets s1 s2 x s3
  have h1 : Sheds s s1 := (settled_settle _ s).sheds.trans (sheds_endSavedWaits f _)
  have h2 : Sheds s1 s2 := by
    refine Sheds.foldl (fun s g => ?_) _ s1
    exact sheds_revokeFence f g.1
  clear_value s2
  have h3 : Sheds s2 s3 := sheds_of_rest rfl
  exact ((h1.trans h2).trans h3).trans (sheds_of_rest rfl)

theorem sheds_clearTap (n : Nat) : Sheds s (clearTap s n) := by
  unfold clearTap
  split
  · exact sheds_of_rest rfl
  · exact .refl s

/-- What the destruction of a tenant leaves before its record says so. -/
theorem destroyTenant_sheds (t : Nat) : ∃ v : State, Sheds s v ∧ destroyTenant s t = v.setTenant t
    { (v.tenant t).disarm with st := .destroying, resetting := false, envelope := none } := by
  unfold destroyTenant
  extract_lets s1 s2 s3 s4 s5 own s6 s7 s8 pr s9
  have h1 : Sheds s s1 := by
    refine Sheds.foldl (fun s c => ?_) _ s
    split
    · exact .refl s
    · exact sheds_destroyCtx c
  have h2 : Sheds s1 s2 := (sheds_dropFlips t).trans (sheds_dropEngines t)
  have h3 : Sheds s2 s3 := by
    refine Sheds.foldl (fun s e => ?_) _ s2
    split
    · exact sheds_of_rest rfl
    · exact sheds_of_rest rfl
  clear_value s3
  have h4 : Sheds s3 s4 := by
    refine Sheds.foldl (fun s e => ?_) _ s3
    exact sheds_of_rest rfl
  have h5 : Sheds s4 s5 := by
    refine Sheds.foldl (fun s e => ?_) _ s4
    exact sheds_revokeFence e.1 t
  clear_value s5
  have h6 : Sheds s5 s6 := sheds_of_rest rfl
  have h7 : Sheds s6 s7 := by
    refine Sheds.foldl (fun s f => ?_) _ s6
    exact sheds_releaseFence f
  have h8 : Sheds s7 s8 := by
    refine Sheds.foldl (fun s n => ?_) _ s7
    split
    · exact sheds_clearTap n
    · exact .refl s
  clear_value s8
  have h9 : Sheds s8 s9 := sheds_of_rest rfl
  exact ⟨s9, (((((h1.trans h2).trans h3).trans h4).trans h5).trans h6).trans ((h7.trans h8).trans h9), rfl⟩

theorem steady_destroyTenant (t : Nat) : Steady s (destroyTenant s t) := by
  obtain ⟨v, hv, heq⟩ := destroyTenant_sheds (s := s) t
  rw [heq]
  exact hv.toSteady.trans (steady_of_eq rfl rfl rfl rfl rfl rfl rfl)

/-! ### Root-channel requests and Kreog's return -/

theorem steady_setPort (p : Nat) (x : Port) : Steady s (s.setPort p x) := steady_of_eq rfl rfl rfl rfl rfl rfl rfl
theorem steady_setChannel (k : Nat) (x : Channel) : Steady s (s.setChannel k x) := steady_of_eq rfl rfl rfl rfl rfl rfl rfl

theorem steady_settleRelease (p : Nat) : Steady s (settleRelease s p) := by
  unfold settleRelease
  split
  · exact steady_setPort _ _
  · exact .refl s

theorem steady_release (p : Nat) : Steady s (release s p) := by
  unfold release
  extract_lets x ts rest s1
  split
  · exact steady_setPort _ _
  · have h1 : Steady s s1 := Steady.foldl (fun s t => steady_destroyTenant t) _ s
    exact (h1.trans (steady_setPort p _)).trans (steady_settleRelease p)

theorem steady_rebind (t : Nat) (pr : Nat × Option Nat) : Steady s (rebind s t pr) := by
  refine Steady.trans ?_ (Steady.foldl (fun s a => (says_postRecord s _ _ _ _ _ _ _).sheds.toSteady) _ _)
  exact steady_of_eq rfl rfl rfl rfl rfl rfl rfl

theorem steady_bindManager (p t : Nat) : Steady s (bindManager s p t) := steady_of_eq rfl rfl rfl rfl rfl rfl rfl

theorem steady_bind (p : Nat) : Steady s (bind s p) := by
  unfold Machine.bind
  extract_lets x pr old
  split
  · exact steady_setPort _ _
  · split
    · exact steady_setPort _ _
    · cases old with
      | some m => exact (steady_rebind m pr).trans (steady_bindManager p m)
      | none =>
        dsimp only
        split
        · exact steady_setPort _ _
        · exact steady_of_eq rfl rfl rfl rfl rfl rfl rfl

theorem steady_resumeRollCall : Steady s (resumeRollCall s) := by
  refine Steady.foldl (fun s p => ?_) _ s
  extract_lets x
  split
  · exact .refl s
  next s1 _ rel _ =>
    have h1 : Steady s s1 := steady_setPort _ _
    split
    · exact h1.trans (steady_release p)
    · exact h1.trans (steady_bind p)

theorem steady_sweepAbandoned (ch : Nat) : Steady s (sweepAbandoned s ch) := by
  unfold sweepAbandoned
  extract_lets c s1
  have h1 : Steady s s1 := steady_setChannel _ _
  refine h1.trans (Steady.foldl (fun s a => ?_) _ s1)
  split
  · exact (sheds_of_rest rfl).toSteady
  · split
    · exact (discards_stopEngCtx s _).sheds.toSteady
    · exact .refl s

theorem steady_kreogResumes : Steady s (kreogResumes s) := by
  unfold kreogResumes
  extract_lets l
  refine Steady.trans ?_ (Steady.foldl (fun s ch => steady_sweepAbandoned ch) _ _)
  refine Steady.trans ?_ (Steady.foldl (fun s x => (says_postRecord s _ _ _ _ _ _ _).sheds.toSteady) l _)
  exact steady_of_eq rfl rfl rfl rfl rfl rfl rfl

theorem steady_kreogRuns : Steady s (kreogRuns s) := by
  unfold kreogRuns
  split
  · exact steady_kreogResumes.trans steady_resumeRollCall
  · exact .refl s

end

end Sys2Proof.Proofs

/-! O46: activations and restarts of Ranger. -/

namespace Sys2Proof.Proofs

open Sys2Proof.Machine

section
variable {s : State}

/-! ### The way back -/

/-- What the way back to the previous image leaves. -/
theorem endBack_leaves (s : State) (a : Activation) : (endBack s a).ranger.st = .run ∧ (endBack s a).ranger.act = none
    ∧ (endBack s a).boot.bank = a.prev ∧ (endBack s a).cfg = a.before ∧ (endBack s a).ranger.wentBack = true := by
  unfold endBack
  extract_lets s0 s1 bt rg s2 s3
  have h1 : Steady (setRangerSt { setAct s none with cfg := a.before } .run) s1 := steady_kreogResumes
  have hst : s1.ranger.st = .run := h1.rangerSt
  have hact : s1.ranger.act = none := h1.act
  have hcfg : s1.cfg = a.before := h1.cfg
  clear_value s1
  have h3 : Says s2 s3 := says_actFinal _ _ _ _
  obtain ⟨t, ht⟩ : ∃ t, t = if a.rollback = true then finalAll s3 0x705 (a.bank + 2) rOk 0 [] else s3 := ⟨_, rfl⟩
  have h4 : Says s2 t := by
    rw [ht]
    split
    · exact h3.trans (says_finalAll _ _ _ _ _ _)
    · exact h3
  rw [← ht, h4.rangerSt, h4.act, h4.boot, h4.cfg, h4.rest]
  exact ⟨hst, hact, rfl, hcfg, rfl⟩

/-! ### The switch -/

/-- The state that a switch leaves before Kreog runs again. -/
def switched (s : State) (a : Activation) : State :=
  let s1 := setBank s a.bank .probation (imgVersion (bankImage s a.bank))
  let s2 := { s1 with
    boot := { s1.boot with bank := a.bank }
    cfg := s1.cfg.live (imgConfig (bankImage s a.bank))
    ranger := { s1.ranger with wentBack := s1.ranger.wentBack || a.opcode == 0x705 } }
  setRangerSt (setAct s2 (some { a with phase := .probation, since := s2.timer })) .probation

variable {a : Activation} (ha : s.ranger.act = some a)
include ha

theorem execSwitchEnd_switch (hst : s.ranger.st = .switch) (hp : a.phase = .switch) :
    exec .switchEnd s = .next (kreogRuns (switched s a)) := by
  rw [exec_switchEnd, execSwitchEnd, ha]
  dsimp only
  rw [if_neg (not_not.mpr hst), if_pos hp]
  rfl

theorem execSwitchEnd_back (hst : s.ranger.st = .switch) (hp : a.phase ≠ .switch) :
    exec .switchEnd s = .next (resumeRollCall (endBack s a)) := by
  rw [exec_switchEnd, execSwitchEnd, ha]
  dsimp only
  rw [if_neg (not_not.mpr hst), if_neg hp]

end

theorem switched_leaves (s : State) (a : Activation) : (switched s a).ranger.st = .probation
    ∧ (switched s a).ranger.act = some { a with phase := .probation, since := s.timer } ∧ (switched s a).boot.bank = a.bank
    ∧ (switched s a).cfg = s.cfg.live (imgConfig (bankImage s a.bank))
    ∧ (switched s a).flash = (setBank s a.bank .probation (imgVersion (bankImage s a.bank))).flash := by
  obtain ⟨v, hv⟩ : ∃ v, v = setBank s a.bank .probation (imgVersion (bankImage s a.bank)) := ⟨_, rfl⟩
  have h := setBank_rest s a.bank .probation (imgVersion (bankImage s a.bank))
  rw [← hv] at h
  unfold switched
  rw [← hv]
  refine ⟨rfl, ?_, rfl, ?_, rfl⟩
  · show some { a with phase := .probation, since := v.timer } = _
    rw [(congrArg State.timer h :)]
  · show v.cfg.live _ = _
    rw [(congrArg State.cfg h :)]

/-! ### A restart -/

section
variable {s : State}

theorem endRun_graph? (g status detail k : Nat) : (endRun s g status detail).graph? k =
    if k = g then (s.graph? g).map fun x => { x with run := none } else s.graph? k := by
  have hset (x : Graph) : tget? (tset s.ranger.graphs g x) k = if k = g then some x else s.graph? k := tget?_tset _ _ _ _
  unfold endRun
  split
  next hx =>
    split
    next hk => rw [hk, State.graph?, hx]; rfl
    next => rfl
  next x hx =>
    split
    next hrun =>
      split
      next hk => rw [hk, State.graph?, hx, Option.map_some, ← hrun]
      next => rfl
    next r hrun =>
      extract_lets rg s1 s2
      have h2 : s2.ranger.graphs = tset s.ranger.graphs g { x with run := none } := by
        unfold s2
        split
        · rfl
        · rfl
      rw [State.graph?, (says_finalOn _ _ _ _ _ _ _).graphs, h2, hset, show s.graph? g = some x from hx]
      rfl

theorem endRuns_graph? (l : List (Nat × Graph)) (status detail k : Nat) :
    (l.foldl (fun s e => endRun s e.1 status detail) s).graph? k =
      if k ∈ l.map Prod.fst then (s.graph? k).map fun x => { x with run := none } else s.graph? k := by
  induction l generalizing s with
  | nil => rfl
  | cons e l ih =>
    rw [List.foldl_cons, ih, endRun_graph?, List.map_cons]
    by_cases hk : k = e.1
    · subst hk
      by_cases hl : e.1 ∈ l.map Prod.fst
      · simp [hl, Function.comp_def]
      · simp [hl]
    · simp only [List.mem_cons, hk, false_or, if_false]

theorem dropGraphs_graph? (l : List (Nat × Graph)) (k : Nat) :
    (l.foldl (fun s e => dropGraph s e.1 e.2.queue) s).graph? k = if k ∈ l.map Prod.fst then none else s.graph? k := by
  induction l generalizing s with
  | nil => rfl
  | cons e l ih =>
    have hdrop : (dropGraph s e.1 e.2.queue).graph? k = if k = e.1 then none else s.graph? k := by
      refine (tget?_tdrop s.ranger.graphs (· == e.1) k).trans ?_
      simp only [beq_iff_eq]
      rfl
    rw [List.foldl_cons, ih, hdrop, List.map_cons]
    by_cases hk : k = e.1
    · simp [hk]
    · simp only [List.mem_cons, hk, false_or, if_false]

theorem says_endRequests : Says s (endRequests s) := by
  refine Says.foldl (fun s ch => ?_) _ s
  extract_lets c gone
  refine Says.trans ?_ (Says.foldl (fun s a => says_lateOrNow _ _) _ _)
  exact says_setChannel _ _ rfl

/-- Every output that composed holds its picture. -/
def held (s : State) : State :=
  { s with prism := { s.prism with outs := tmap s.prism.outs fun _ o => if o.src = .compose then { o with src := .hold } else o } }

theorem held_src (n : Nat) : ((held s).output n).src = if (s.output n).src = .compose then .hold else (s.output n).src := by
  have h : (held s).output n = if (s.output n).src = .compose then { s.output n with src := .hold } else s.output n :=
    tget_tmap s.prism.outs (fun _ o => if o.src = .compose then { o with src := .hold } else o) n .reset rfl
  rw [h]
  split
  · rfl
  · rfl

/-- No run and no load goes on. -/
def noGraphWork (s : State) : State :=
  let s1 := s.ranger.graphs.foldl (fun s e => endRun s e.1 rInternal 1) s
  (s1.ranger.graphs.filter fun e => !e.2.loaded).foldl (fun s e => dropGraph s e.1 e.2.queue) s1

theorem noGraphWork_graph? {g : Nat} {x : Graph} (h : (noGraphWork s).graph? g = some x) : x.run = none ∧ x.loaded = true := by
  unfold noGraphWork at h
  extract_lets s1 at h
  rw [dropGraphs_graph?] at h
  split at h
  · cases h
  next hl =>
    have hmem : (g, x) ∈ s1.ranger.graphs := mem_of_tget? h
    constructor
    · have hruns := endRuns_graph? (s := s) s.ranger.graphs rInternal 1 g
      rw [show s.ranger.graphs.foldl (fun s e => endRun s e.1 rInternal 1) s = s1 from rfl, h] at hruns
      split at hruns
      next =>
        obtain ⟨y, -, hy⟩ := Option.map_eq_some_iff.mp hruns.symm
        rw [← hy]
      next hg => exact absurd (List.mem_map_of_mem (mem_of_tget? hruns.symm)) hg
    · refine Bool.of_not_eq_false fun hload => hl (List.mem_map_of_mem (f := Prod.fst) (a := (g, x)) ?_)
      exact List.mem_filter.mpr ⟨hmem, by simp [hload]⟩

theorem dropGraph_keeps (g q : Nat) : (dropGraph s g q).ranger.st = s.ranger.st ∧ (dropGraph s g q).prism.outs = s.prism.outs := ⟨rfl, rfl⟩

theorem noGraphWork_rest : (noGraphWork s).ranger.st = s.ranger.st ∧ (noGraphWork s).prism.outs = s.prism.outs := by
  unfold noGraphWork
  extract_lets s1
  have h1 : Settled s s1 := Settled.foldl (fun s e => settled_endRun s _ _ _) _ s
  rw [← h1.rangerSt, ← h1.outs]
  exact ⟨foldl_keeps (fun s : State => s.ranger.st) (fun s e => (dropGraph_keeps _ _).1) _ s1,
    foldl_keeps (fun s : State => s.prism.outs) (fun s e => (dropGraph_keeps _ _).2) _ s1⟩

/-- The activation yields to the restart, and no image is staged. -/
def restartAct (s : State) : State :=
  let s1 := { s with ranger := { s.ranger with stage := none } }
  match s1.ranger.act with
    | some a => if a.phase = .probation then failProbation s1 a 0x12 else if a.phase = .back then s1 else setAct s1 none
    | none => s1

theorem restartAct_rest : (restartAct s).ranger.st = s.ranger.st ∧ (restartAct s).prism = s.prism
    ∧ (restartAct s).ranger.graphs = s.ranger.graphs ∧ (restartAct s).ranger.stage = none := by
  unfold restartAct
  extract_lets rg s1
  split
  next a _ =>
    split
    · have hbank := setBank_rest s1 a.bank .bad (bankVersion s1 a.bank)
      unfold failProbation
      generalize setBank s1 a.bank .bad (bankVersion s1 a.bank) = v at hbank ⊢
      have hr : v.ranger = s1.ranger := (congrArg State.ranger hbank :)
      have hp : v.prism = s.prism := (congrArg State.prism hbank :)
      exact ⟨(congrArg Ranger.st hr :), hp, (congrArg Ranger.graphs hr :), (congrArg Ranger.stage hr :)⟩
    · split
      · exact ⟨rfl, rfl, rfl, rfl⟩
      · exact ⟨rfl, rfl, rfl, rfl⟩
  · exact ⟨rfl, rfl, rfl, rfl⟩

theorem says_restartGap : Says (restartAct (noGraphWork (held s))) (restartGap s) := by
  unfold restartGap
  extract_lets outs pr s1 s2 loads s3 rg s4 s5 keep kept s6
  have h5 : s5 = restartAct (noGraphWork (held s)) := rfl
  rw [← h5]
  clear_value s5
  have h6 : Says s5 s6 := by
    refine Says.trans (Says.foldl (fun s e => ?_) kept s5) says_endRequests
    exact says_setChannel _ _ rfl
  refine h6.trans (Says.foldl (fun s e => ?_) kept s6)
  exact says_setChannel _ _ rfl

/-- What a restart leaves beyond its own counts. -/
theorem restartGap_leaves (s : State) : (restartGap s).ranger.st = s.ranger.st ∧ (restartGap s).ranger.stage = none
    ∧ (∀ n, ((restartGap s).output n).src = if (s.output n).src = .compose then .hold else (s.output n).src)
    ∧ ∀ g x, (restartGap s).graph? g = some x → x.run = none ∧ x.loaded = true := by
  obtain ⟨v, hv⟩ : ∃ v, v = noGraphWork (held s) := ⟨_, rfl⟩
  have h : Says (restartAct v) (restartGap s) := hv ▸ says_restartGap
  obtain ⟨hst, hpr, hgraphs, hstage⟩ := restartAct_rest (s := v)
  obtain ⟨hvst, hvouts⟩ := noGraphWork_rest (s := held s)
  rw [← hv] at hvst hvouts
  refine ⟨(h.rangerSt.trans hst).trans hvst, ?_, fun n => ?_, fun g x hx => ?_⟩
  · rw [h.rest]
    exact hstage
  · rw [← held_src]
    simp only [State.output, h.prism, hpr, hvouts]
  · have hx' : v.graph? g = some x := by
      rw [← hx]
      simp only [State.graph?, h.graphs, hgraphs]
    exact noGraphWork_graph? (hv ▸ hx')

end

theorem failProbation_leaves (s : State) (a : Activation) (k : Nat) :
    (failProbation s a k).ranger.act = some { a with phase := .back, reason := k }
      ∧ (failProbation s a k).flash = (setBank s a.bank .bad (bankVersion s a.bank)).flash := by
  unfold failProbation
  generalize setBank s a.bank .bad (bankVersion s a.bank) = v
  exact ⟨rfl, rfl⟩

/-- What a restart leaves: the gap it makes, and its counts. -/
theorem restartRanger_leaves {cause : Nat} (hlo : 1 ≤ cause) (hhi : cause ≤ 4) (hboot : s.ranger.st ≠ .boot)
    (hstopped : s.ranger.st ≠ .stopped) :
    let v := restartGap (setRangerSt s (if fourthTrigger s then .stopped else .restarting))
    restartRanger cause s = { v with ranger := { v.ranger with
      restarts := if fourthTrigger s then s.ranger.restarts else min (s.ranger.restarts + 1) 0xFFFF
      lastCause := cause
      triggers := (s.timer :: s.ranger.triggers).take 3 } } := by
  unfold restartRanger
  dsimp only
  rw [if_neg]
  rintro (h | h | h | h)
  · exact hboot h
  · exact hstopped h
  · omega
  · omega

/-- Settles O46: each step by the phase it needs; a switch and a return keep the part's state, and a restart leaves no work
of Kreog's. -/
theorem activations : Obligations.Activations := by
  unfold Obligations.Activations
  refine ⟨fun a s ha => ?_, fun cause s hlo hhi hboot hstopped => ?_, fun s hst hnone => ?_⟩
  · intro img
    obtain ⟨hbst, hbact, hbbank, hbcfg, hbwent⟩ := endBack_leaves s a
    refine ⟨fun hp hup => ?_, fun hp hh hup => ?_, fun hh hall hup => ?_, fun hst hp => ?_, execSwitchEnd_back ha, fun hp hst => ?_,
      fun hst => ?_, hbst, hbact, hbbank, hbcfg, hbwent, failProbation_leaves s a⟩
    · rw [exec_activationCopyDone, execActivationCopyDone, ha]
      exact congrArg Host.Outcome.next (if_pos ⟨hp, hup⟩)
    · rw [exec_activationWaitExpired, execActivationWaitExpired, ha]
      exact congrArg Host.Outcome.next (if_pos ⟨hp, by rw [hh]; rfl, hup⟩)
    · have hheld : allHeld s = true := by
        simp only [allHeld, List.all_eq_true, List.mem_range, Bool.or_eq_true, beq_iff_eq]
        exact hall
      rw [exec_switchStart, execSwitchStart, ha]
      dsimp only
      rw [if_neg (by simp [hh, hheld, hup])]
      split
      · rfl
      · rfl
    · obtain ⟨h1, h2, h3, h4, h5⟩ := switched_leaves s a
      have hrun := steady_kreogRuns (s := switched s a)
      exact ⟨_, execSwitchEnd_switch ha hst hp, hrun.rangerSt.trans h1, hrun.act.trans h2, (congrArg Boot.bank hrun.boot).trans h3,
        hrun.cfg.trans h4, hrun.flash.trans h5⟩
    · intro v
      have hgo : ¬(a.phase ≠ .probation ∨ s.ranger.st ≠ .probation) := by simp [hp, hst]
      refine ⟨?_, fun hreq hcom => ?_, fun hcom => ?_⟩
      · rw [exec_healthWindowEnd, execHealthWindowEnd, ha]
        dsimp only
        rw [if_neg hgo, if_pos (by decide)]
      · rw [exec_healthWindowEnd, execHealthWindowEnd, ha]
        dsimp only
        rw [if_neg hgo, if_neg (by decide), if_pos ⟨hreq, by rw [hcom]; rfl⟩]
      · rw [exec_healthWindowEnd, execHealthWindowEnd, ha]
        dsimp only
        rw [if_neg hgo, if_neg (by decide), if_neg (by rcases hcom with h | h <;> simp [h])]
        rfl
    · rw [exec_rangerRestartDone, execRangerRestartDone, if_neg (not_not.mpr hst), ha]
  · have hran := restartRanger_leaves hlo hhi hboot hstopped
    dsimp only at hran
    obtain ⟨u, hu⟩ : ∃ u, u = setRangerSt s (if fourthTrigger s then .stopped else .restarting) := ⟨_, rfl⟩
    obtain ⟨hst, hstage, hsrc, hgraphs⟩ := restartGap_leaves u
    obtain ⟨v, hv⟩ : ∃ v, v = restartGap u := ⟨_, rfl⟩
    rw [hu] at hst hstage hsrc hgraphs hv
    rw [← hv] at hran hst hstage hsrc hgraphs
    refine ⟨_, (exec_rangerRestart cause s).trans (congrArg Host.Outcome.next hran), ?_⟩
    exact ⟨hst, rfl, hstage, rfl, hsrc, hgraphs⟩
  · rw [exec_rangerRestartDone, execRangerRestartDone, if_neg (not_not.mpr hst), hnone]

end Sys2Proof.Proofs

/-! O37 fails: a lost link takes its tenants' contexts down, and the status block that each fault is written to may lie in the
window of another host link. -/

namespace Sys2Proof.Proofs

open Sys2Proof.Machine

/-- Tenant 0 on link 0 with a LIVE context whose status block lies in the window of link 1, and both links up. -/
def twoLinks : State :=
  { State.reset with
    ports := [(0, { Port.reset with st := .ready }), (1, { Port.reset with st := .ready, busMaster := true, winLo := 1 })]
    tenants := [(0, { Tenant.free with st := .live })]
    ctxs := [(0, { Ctx.free with st := .live, tenant := 0, statObj := 0, statGen := 1, statOff := 0 })]
    objs := [(0, { Obj.reset with st := .live, host := true, base := 0x9000000000, size := 4096 })] }

/-- Refutes O37: when link 0 is lost, the fault record of the context is written to the memory of host 1. -/
theorem not_portLinks : ¬ Obligations.PortLinks := by
  unfold Obligations.PortLinks
  intro h
  have hdown := (h 0 twoLinks (by decide)).1 (by decide +kernel) (by decide +kernel)
  rw [answers_iff] at hdown
  obtain ⟨-, -, -, hhost⟩ := hdown
  have hwritten : (stateAfter (exec (.linkDown 0) twoLinks) twoLinks).mem.host ≠ twoLinks.mem.host := by decide +kernel
  exact hwritten hhost

end Sys2Proof.Proofs

/-! Packets of the front end: a packet that passes its checks is carried out, and what taking it up leaves. -/

namespace Sys2Proof.Proofs

open Sys2Proof.Machine

section
variable {s : State} {p : Pkt} {min : Nat} {implied : Bool}

theorem queueBusy_eq_false {q : Nat} (h : ∀ e ∈ s.cmds, e.2.queue ≠ q) : queueBusy s q = false :=
  List.any_eq_false.mpr fun e he => by simp [h e he]

/-- A packet that passes its checks and whose barrier is met is carried out. -/
theorem fetchPacket_fetches (h : Fetches s p min implied) (k : State → State) : fetchPacket s p min implied true k = k s := by
  have hbusy : ((implied || p.flags.getLsbD 0) && queueBusy s p.q) = false := by
    cases hb : (implied || p.flags.getLsbD 0)
    · rfl
    · exact queueBusy_eq_false (h.barrier (Bool.or_eq_true _ _ ▸ hb))
  unfold fetchPacket
  rw [h.ready, h.header, h.clean, hbusy]
  rfl

/-- A packet with a header or fields that are bad faults its context. -/
theorem fetchPacket_bad (hready : fetchReady s p.q = true) {ok : Bool} (hbad : (headerOk s p min && ok) = false) (k : State → State) :
    fetchPacket s p min implied ok k = packetFault s p (illegalFault dBadPacket) := by
  unfold fetchPacket
  rw [hready, hbad]
  rfl

/-! ### Memory checks read only -/

theorem readsOnly_vcheckN {fuel : Nat} {s t : State} {c va n : Nat} {w : Bool} (h : vcheckN fuel s c va n w = .ok t) : ReadsOnly s t := by
  induction fuel generalizing s va n with
  | zero => cases h; exact .refl _
  | succ fuel ih =>
    unfold vcheckN at h
    split at h
    · cases h; exact .refl _
    · split at h
      · cases h
      next hloc => exact (readsOnly_locate hloc).trans (ih h)

theorem readsOnly_vcheck {s t : State} {c va n : Nat} {w : Bool} (h : vcheck s c va n w = .ok t) : ReadsOnly s t := readsOnly_vcheckN h

theorem readsOnly_readRuns {s t : State} {c : Nat} {l : List (Option Nat × Nat)} {bs : List Byte} (h : readRuns s c l = .ok (bs, t)) :
    ReadsOnly s t := by
  induction l generalizing s bs with
  | nil => cases h; exact .refl _
  | cons e l ih =>
    obtain ⟨a, n⟩ := e
    rw [readRuns.eq_def] at h
    dsimp only at h
    split at h
    · cases h
    next b s1 hread =>
      have h1 : ReadsOnly s s1 := by
        cases a with
        | none => cases hread; exact .refl s
        | some va => exact readsOnly_vread hread
      split at h
      · cases h
      next hrest => cases h; exact h1.trans (ih hrest)

/-! ### A queue moves past its packet -/

theorem consume_queue (q : Nat) : (consume s p).queue q =
    if q = p.q then { s.queue p.q with read := ((s.queue p.q).read + p.size16.toNat) % 2 ^ 32 } else s.queue q :=
  ((writesOnly_report _ _).queue q).trans (State.setQueue_queue _ _ _ _)

theorem consume_writesOnly (s : State) (p : Pkt) :
    WritesOnly (s.setQueue p.q { s.queue p.q with read := nextIndex s p }) (consume s p) := writesOnly_report _ _

theorem consumed_consume (s : State) (p : Pkt) : Consumed s (consume s p) p :=
  ⟨(consume_queue _).trans (if_pos rfl), fun _ hq => (consume_queue _).trans (if_neg hq)⟩

/-- A queue whose report object is out of reach reports nothing. -/
theorem report_silent {q : Nat} (h : objReachable s (s.queue q).repObj (s.queue q).repGen = false) : report s q = s := by
  unfold report
  exact if_neg (by rw [h]; exact Bool.false_ne_true)

theorem consume_silent (h : objReachable s (s.queue p.q).repObj (s.queue p.q).repGen = false) :
    consume s p = s.setQueue p.q { s.queue p.q with read := nextIndex s p } := by
  refine report_silent ?_
  rw [State.setQueue_queue, if_pos rfl]
  exact h

/-! ### A command begins -/

theorem startCmd_cmd (s : State) (p : Pkt) (c : Cmd) (k : Nat) :
    tget? (startCmd s p c).cmds k = if k = s.nextCmd then some c else tget? s.cmds k := by
  rw [startCmd, (consume_writesOnly _ _).cmds]
  exact tget?_tset _ _ _ _

theorem startCmd_nextCmd (s : State) (p : Pkt) (c : Cmd) : (startCmd s p c).nextCmd = s.nextCmd + 1 := (consume_writesOnly _ _).nextCmd

theorem startCmd_consumed (s : State) (p : Pkt) (c : Cmd) : Consumed s (startCmd s p c) p :=
  consumed_consume { s with cmds := tset s.cmds s.nextCmd c, nextCmd := s.nextCmd + 1 } p

theorem startCmd_group (s : State) (p : Pkt) (c : Cmd) (g : GroupAt) : (startCmd s p c).group g = s.group g :=
  (consume_writesOnly _ _).group g

theorem startCmd_sessions (s : State) (p : Pkt) (c : Cmd) : (startCmd s p c).sessions = s.sessions := (consume_writesOnly _ _).sessions

end

end Sys2Proof.Proofs

/-! O28: Ringmark sessions from open to close. -/

namespace Sys2Proof.Proofs

open Sys2Proof.Machine

section
variable {s : State}

/-! ### The lanes -/

theorem fillLanes_eq (s : State) : fillLanes s = { s with lanes := (fillLanes s).lanes } := by
  unfold fillLanes
  generalize List.range 8 = l
  induction l generalizing s with
  | nil => rfl
  | cons k l ih =>
    rw [List.foldl_cons]
    refine (ih _).trans ?_
    split
    · rfl
    · split
      · rfl
      · rfl

theorem fillLanes_keeps (s : State) :
    (fillLanes s).sessions = s.sessions ∧ (fillLanes s).queues = s.queues ∧ (fillLanes s).cmds = s.cmds :=
  ⟨by rw [fillLanes_eq], by rw [fillLanes_eq], by rw [fillLanes_eq]⟩

/-- Lanes that all work are left at it. -/
theorem fillLanes_full (h : ∀ l, l < 8 → (tget? s.lanes l).isSome = true) : fillLanes s = s := by
  have hall : ∀ l ∈ List.range 8, (tget? s.lanes l).isSome = true := fun l hl => h l (List.mem_range.mp hl)
  unfold fillLanes
  generalize List.range 8 = l at hall
  induction l with
  | nil => rfl
  | cons k l ih =>
    rw [List.foldl_cons, if_pos (hall k List.mem_cons_self)]
    exact ih fun j hj => hall j (List.mem_cons_of_mem _ hj)

/-! ### The open -/

theorem readsOnly_checkItems {s t : State} {c : Nat} {l : List RingItem} (h : checkItems s c l = .ok t) : ReadsOnly s t := by
  induction l generalizing s with
  | nil => cases h; exact .refl _
  | cons it l ih =>
    rw [checkItems] at h
    split at h
    · cases h
    next hcheck => exact (readsOnly_vcheck hcheck).trans (ih h)

variable {p : Pkt}

theorem execRingmarkOpen_open (h : Fetches s p 1 true) (hopen : (s.queue p.q).session.isSome = true) :
    exec (.ringmarkOpen p) s = .next (frontFault s p (pField p 8 8) (illegalFault dBadRingmark)) := by
  rw [exec_ringmarkOpen, execRingmarkOpen, fetchPacket_fetches h]
  dsimp only
  rw [if_pos hopen]

/-- The session that an open begins. -/
def openedSession (s : State) (p : Pkt) (record : Nat) (items : List RingItem) : Session :=
  ⟨p.q, (s.queue p.q).ctx, pField p 8 8, (s.ctx (s.queue p.q).ctx).heritage, record, s.boot.kreogVersion, s.boot.kreogBuild, items,
    [], [], 0, 0, [], 0, 0, []⟩

/-- The state after an open whose descriptor and items were read, before the lanes take its chunks up. -/
def sessionOpened (s : State) (p : Pkt) (record : Nat) (items : List RingItem) : State :=
  let s5 := startCmd { setSession s s.nextCmd (openedSession s p record items) with
    sched := { s.sched with digests := s.sched.digests ++ [s.nextCmd] } } p (newCmd s p .ringOpen)
  s5.setQueue p.q { s5.queue p.q with session := some s.nextCmd }

theorem sessionOpened_leaves (s : State) (p : Pkt) (record : Nat) (items : List RingItem) :
    let t := sessionOpened s p record items
    tget? t.sessions s.nextCmd = some (openedSession s p record items) ∧ (t.queue p.q).session = some s.nextCmd
      ∧ (t.queue p.q).read = ((s.queue p.q).read + p.size16.toNat) % 2 ^ 32
      ∧ tget? t.cmds s.nextCmd = some (newCmd s p .ringOpen) := by
  unfold sessionOpened
  extract_lets s0 sc s5 q t
  have hsess : s5.sessions = tset s.sessions s.nextCmd (openedSession s p record items) := startCmd_sessions _ _ _
  have hcmd : tget? s5.cmds s.nextCmd = some (newCmd s p .ringOpen) := (startCmd_cmd _ _ _ _).trans (if_pos rfl)
  have hqueue : s5.queue p.q = { s.queue p.q with read := ((s.queue p.q).read + p.size16.toNat) % 2 ^ 32 } :=
    (startCmd_consumed _ _ _).1
  clear_value s5
  have hset : t.queue p.q = { s5.queue p.q with session := some s.nextCmd } := (State.setQueue_queue _ _ _ _).trans (if_pos rfl)
  refine ⟨?_, congrArg Queue.session hset, (congrArg Queue.read hset).trans (congrArg Queue.read hqueue), hcmd⟩
  show tget? s5.sessions _ = _
  rw [hsess, tget?_tset, if_pos rfl]

theorem execRingmarkOpen_opens (h : Fetches s p 1 true) (hclosed : (s.queue p.q).session = none) {s1 s2 s3 s4 : State}
    {hb ib : List Byte} {n record : Nat} {items : List RingItem} (hhead : vread s (s.queue p.q).ctx (pField p 8 8) 32 = .ok (hb, s1))
    (hn : sessionHead hb = some (n, record)) (hread : vread s1 (s.queue p.q).ctx (pField p 8 8 + 32) (16 * n) = .ok (ib, s2))
    (hitems : (chunksOf 16 ib).mapM sessionItem = some items) (hcheck : checkItems s2 (s.queue p.q).ctx items = .ok s3)
    (hrecord : vcheck s3 (s.queue p.q).ctx record 256 true = .ok s4) :
    exec (.ringmarkOpen p) s = .next (fillLanes (sessionOpened s4 p record items)) ∧ ReadsOnly s s4 := by
  have hreads : ReadsOnly s s4 := (((readsOnly_vread hhead).trans (readsOnly_vread hread)).trans (readsOnly_checkItems hcheck)).trans
    (readsOnly_vcheck hrecord)
  refine ⟨?_, hreads⟩
  rw [exec_ringmarkOpen, execRingmarkOpen, fetchPacket_fetches h]
  dsimp only
  rw [if_neg (by rw [hclosed]; exact Bool.false_ne_true), hhead]
  dsimp only
  rw [hn]
  dsimp only
  rw [hread]
  dsimp only
  rw [hitems]
  dsimp only
  rw [hcheck]
  dsimp only
  rw [hrecord]
  dsimp only
  rw [sessionOpened, openedSession, hreads.queue]

/-! ### Digests, folds and the close -/

/-- A session with one chunk more: a leaf of its item, or one of a fold. -/
def Session.digested (x : Session) (j : ChunkJob) (bs : List Byte) : Session :=
  match j.cut with
  | none => { x with hashed := x.hashed + bs.length, leaves := tset x.leaves (j.item * 4096 + j.chunk) (sha256 bs) }
  | some c => { x with hashed := x.hashed + bs.length, foldLeaves := tset x.foldLeaves (foldKey c j.item j.chunk) (sha256 bs) }

theorem execDigestChunkDone_digests {lane : Nat} {s1 : State} {j : ChunkJob} {x : Session} {bs : List Byte}
    (hlane : tget? s.lanes lane = some j) (hfull : ∀ l, l < 8 → (tget? s.lanes l).isSome = true)
    (hsess : tget? s.sessions j.session = some x) (hlive : (s.ctx x.ctx).st = .live)
    (hread : readRuns (bulkServed { s with lanes := tdrop s.lanes (· == lane) } 12) x.ctx (chunkRuns s x j) = .ok (bs, s1)) :
    exec (.digestChunkDone lane) s = .next (fillLanes (setSession s1 j.session (Session.digested x j bs))) := by
  refine (exec_digestChunkDone lane s).trans ?_
  delta execDigestChunkDone
  rw [fillLanes_full hfull]
  dsimp only
  rw [hlane]
  dsimp only
  rw [show s.session? j.session = some x from hsess]
  dsimp only
  rw [if_neg (not_not.mpr hlive), hread]
  refine congrArg (fun x => Host.Outcome.next (fillLanes (setSession s1 j.session x))) ?_
  unfold Session.digested
  cases j.cut with
  | none => rfl
  | some c => rfl

theorem finishCmd_leaves (s : State) (id k : Nat) :
    tget? (finishCmd s id).cmds k = if k = id then none else tget? s.cmds k := by
  unfold finishCmd
  split
  next h =>
    split
    next hk => rw [hk, h]
    next => rfl
  · extract_lets ps
    rw [(writesOnly_report _ _).cmds]
    refine (tget?_tdrop s.cmds (· == id) k).trans ?_
    simp only [beq_iff_eq]

theorem finishCmd_keeps (s : State) (id : Nat) : (finishCmd s id).sessions = s.sessions ∧ (finishCmd s id).queues = s.queues := by
  unfold finishCmd
  split
  · exact ⟨rfl, rfl⟩
  · exact ⟨(writesOnly_report _ _).sessions, (writesOnly_report _ _).queues⟩

theorem execRingmarkFoldDone_folds {cmd i ord : Nat} {c : CutPass} {x : Session} {ds : List (List Byte)}
    (hcut : tget? s.cuts cmd = some c) (hs : c.session = some (i, ord)) (hsess : tget? s.sessions i = some x)
    (hlive : (s.ctx x.ctx).st = .live) (hdue : foldDue s c = true) (hdig : foldDigests cmd c x = some ds) :
    exec (.ringmarkFoldDone cmd) s = .next (setSession { s with cuts := tset s.cuts cmd { c with folded := true } } i { x with
      folds := x.folds ++ ((List.range ds.length).zip ds).map fun d => (ord, d.1, d.2)
      foldedCuts := x.foldedCuts + 1, foldLeaves := dropFold x.foldLeaves cmd }) := by
  rw [exec_ringmarkFoldDone, execRingmarkFoldDone, hcut]
  dsimp only
  rw [hs]
  dsimp only
  rw [show s.session? i = some x from hsess]
  dsimp only
  rw [if_neg (by rw [hdue]; simp [hlive]), hdig]

theorem execRingmarkClose_none (h : Fetches s p 1 true) (hclosed : (s.queue p.q).session = none) :
    exec (.ringmarkClose p) s = .next (serveGraphs (frontFault s p 0 (illegalFault dBadRingmark))) := by
  rw [exec_ringmarkClose, execRingmarkClose, ringmarkClose, fetchPacket_fetches h]
  dsimp only
  rw [hclosed]

theorem execRingmarkClose_closes (h : Fetches s p 1 true) {i : Nat} {x : Session} {s1 : State}
    (hopen : (s.queue p.q).session = some i) (hsess : tget? s.sessions i = some x)
    (hcheck : vcheck s (s.queue p.q).ctx x.record 256 true = .ok s1) :
    exec (.ringmarkClose p) s = .next (serveGraphs (consume (dropSession
      (vwrite s1 (s.queue p.q).ctx (x.endMaps s1).record ((x.endMaps s1).recordBytes s1 false)).1 i) p)) := by
  rw [exec_ringmarkClose, execRingmarkClose, ringmarkClose, fetchPacket_fetches h]
  dsimp only
  rw [hopen]
  dsimp only
  rw [show s.session? i = some x from hsess]
  dsimp only
  rw [hcheck]

end

/-- Settles O28: each step by what it reads and the one change it makes. -/
theorem ringmarkSessions : Obligations.RingmarkSessions := by
  unfold Obligations.RingmarkSessions
  refine ⟨fun p s s1 s2 s3 s4 hb ib n record items => ?_, fun lane s s1 j x bs hlane hfull hsess hlive hread => ?_,
    fun cmd s c x hcmd hsess hkind hlive hitems => ?_, fun cmd i ord s p x ds hcut hs hsess hlive hfold hgen hdone hdig => ?_,
    fun p s h hclosed => execRingmarkClose_none h hclosed, fun p s s1 i x h hopen hsess hcheck => ?_⟩
  · intro q desc h
    refine ⟨execRingmarkOpen_open h, fun hclosed hhead hn hread hits hcheck hrecord => ?_⟩
    obtain ⟨hexec, hreads⟩ := execRingmarkOpen_opens h hclosed hhead hn hread hits hcheck hrecord
    obtain ⟨h1, h2, h3, h4⟩ := sessionOpened_leaves s4 p record items
    rw [hreads.nextCmd] at h1 h2 h4
    obtain ⟨ks, kq, kc⟩ := fillLanes_keeps (sessionOpened s4 p record items)
    have hqueue : (fillLanes (sessionOpened s4 p record items)).queue p.q = (sessionOpened s4 p record items).queue p.q := by
      rw [State.queue, kq]
      rfl
    refine ⟨_, hexec, ?_, by rw [hqueue, h2], ?_, ?_⟩
    · rw [ks, h1, openedSession, hreads.queue, hreads.ctx, hreads.boot]
    · rw [hqueue, h3, hreads.queue]
    · rw [kc, h4]
      rfl
  · refine ⟨_, execDigestChunkDone_digests hlane hfull hsess hlive hread, ?_⟩
    rw [fillLanes_eq]
    refine ⟨_, (tget?_tset _ _ _ _).trans (if_pos rfl), ?_⟩
    unfold Session.digested
    cases hj : j.cut with
    | none => exact ⟨rfl, fun _ => rfl, nofun⟩
    | some c => exact ⟨rfl, nofun, fun c' hc => by cases hc; rfl⟩
  · refine ⟨finishCmd s cmd, ?_, (finishCmd_leaves s cmd cmd).trans (if_pos rfl), finishCmd_keeps s cmd⟩
    have hdone : x.itemsDone = true := List.all_eq_true.mpr fun i hi => hitems i (List.mem_range.mp hi)
    rw [exec_itemDigestsDone, execItemDigestsDone, hcmd, show s.session? cmd = some x from hsess]
    exact if_pos ⟨hkind, hlive, hdone⟩
  · have hdue : foldDue s p = true := by simp [foldDue, hfold, hgen, hdone]
    exact ⟨_, execRingmarkFoldDone_folds hcut hs hsess hlive hdue hdig, (tget?_tset _ _ _ _).trans (if_pos rfl),
      (tget?_tset _ _ _ _).trans (if_pos rfl), rfl⟩
  · intro y
    have hreads := readsOnly_vcheck hcheck
    have hy : x.endMaps s1 = y := by
      by_cases hm : x.maps = []
      · simp only [Session.endMaps, y, if_pos hm, Session.noteMap, hm, List.getLast?_nil, sessionMaps, hreads.maps]
        rfl
      · simp only [Session.endMaps, y, if_neg hm]
    have hexec := execRingmarkClose_closes h hopen hsess hcheck
    rw [hy] at hexec
    have hbytes : y.recordBytes s1 false = y.recordBytes s false := by
      unfold Session.recordBytes
      rw [hreads.maps]
    have hrecord : y.record = x.record := by
      show (if x.maps = [] then _ else x).record = x.record
      split
      · rfl
      · rfl
    rw [hbytes, hrecord] at hexec
    obtain ⟨w, hw⟩ : ∃ w, w = (vwrite s1 (s.queue p.q).ctx x.record (y.recordBytes s false)).1 := ⟨_, rfl⟩
    have hwrites : WritesOnly s w := hreads.writesOnly.trans (hw ▸ writesOnly_vwrite _ _ _ _)
    rw [← hw] at hexec ⊢
    have hqueue : (dropSession w i).queue p.q = { s.queue p.q with session := none } := by
      rw [dropSession_queue, hwrites.queue, if_pos hopen]
    refine ⟨_, hexec, ?_, ?_, ?_, fun _ hrep hfree => ?_⟩
    · rw [(consume_writesOnly _ _).sessions]
      exact (tget?_tdrop w.sessions (· == i) i).trans (if_pos (beq_self_eq_true i))
    · rw [(consumed_consume _ _).1, hqueue]
    · rw [(consumed_consume _ _).1, hqueue]
    · have hsilent : objReachable (dropSession w i) ((dropSession w i).queue p.q).repObj ((dropSession w i).queue p.q).repGen = false := by
        rw [hqueue]
        show objReachable (dropSession w i) (s.queue p.q).repObj (s.queue p.q).repGen = false
        have hobj : (dropSession w i).obj 0 = s.obj 0 := hwrites.obj 0
        simp [objReachable, hrep, hobj, hfree]
      rw [consume_silent hsilent]
      rfl

end Sys2Proof.Proofs

/-! What the writes of the front end itself can do to the caches: lines go or are written, none comes and none becomes dirty,
and the translation and instruction caches stay. -/

namespace Sys2Proof.Proofs

open Sys2Proof.Machine

/-- From `s` to `t` caches only gave lines up. -/
structure Drains (s t : State) : Prop where
  lines : ∀ ln l, tget? t.mem.lines ln = some l → ∃ l', tget? s.mem.lines ln = some l' ∧ (l.dirty = true → l'.dirty = true)
  l1 : ∀ k e, e ∈ (t.core k).l1 → e ∈ (s.core k).l1
  tlb : t.mem.tlb = s.mem.tlb
  icache : t.mem.icache = s.mem.icache

namespace Drains

theorem of_eq {s t : State} (hl : t.mem.lines = s.mem.lines) (hc : t.cores = s.cores) (ht : t.mem.tlb = s.mem.tlb)
    (hi : t.mem.icache = s.mem.icache) : Drains s t :=
  ⟨fun ln l h => ⟨l, hl ▸ h, id⟩, fun k e h => by simpa only [State.core, hc] using h, ht, hi⟩

theorem refl (s : State) : Drains s s := of_eq rfl rfl rfl rfl

theorem trans {a b c : State} (h : Drains a b) (k : Drains b c) : Drains a c where
  lines ln l hl := by
    obtain ⟨l', hl', hd'⟩ := k.lines ln l hl
    obtain ⟨l'', hl'', hd''⟩ := h.lines ln l' hl'
    exact ⟨l'', hl'', fun hd => hd'' (hd' hd)⟩
  l1 i ln hi := h.l1 i ln (k.l1 i ln hi)
  tlb := k.tlb.trans h.tlb
  icache := k.icache.trans h.icache

theorem foldl {α : Type} {f : State → α → State} (h : ∀ s x, Drains s (f s x)) (l : List α) (s : State) : Drains s (l.foldl f s) := by
  induction l generalizing s with
  | nil => exact refl s
  | cons x xs ih => exact (h s x).trans (ih _)

/-- A line that was not held is not held after. -/
theorem absent {s t : State} (h : Drains s t) {ln : Nat} (hn : tget? s.mem.lines ln = none) : tget? t.mem.lines ln = none := by
  cases hl : tget? t.mem.lines ln with
  | none => rfl
  | some l =>
    obtain ⟨l', hl', -⟩ := h.lines ln l hl
    rw [hn] at hl'
    cases hl'

end Drains

theorem Says.drains {s t : State} (h : Says s t) : Drains s t := .of_eq (by rw [h.mem]) h.cores (by rw [h.mem]) (by rw [h.mem])

/-- Writes of memory leave what of memory is in reach. -/
theorem WritesOnly.objReachable {s t : State} (h : WritesOnly s t) (o gen : Nat) : objReachable t o gen = objReachable s o gen := by
  have hpa (pa : Nat) : paReachable t pa = paReachable s pa := by
    unfold paReachable
    split
    · rw [show t.boot = s.boot from (congrArg State.boot h.rest :)]
    next p _ _ =>
      rw [h.told.port p]
      rfl
    · rfl
  rw [Machine.objReachable, Machine.objReachable, h.obj, hpa]

section
variable {s : State}

/-- Lines of memory that go. -/
theorem drains_dropLines (p : Nat → Bool) {m : MemSys} (hl : m.lines = tdrop s.mem.lines p) (ht : m.tlb = s.mem.tlb)
    (hi : m.icache = s.mem.icache) : Drains s (s.setMem m) where
  lines ln l h := by
    have h' : tget? (tdrop s.mem.lines p) ln = some l := hl ▸ h
    rw [tget?_tdrop] at h'
    split at h'
    · cases h'
    · exact ⟨l, h', id⟩
  l1 _ _ h := h
  tlb := ht
  icache := hi

/-- A line that is written, and at most cleaned. -/
theorem drains_setLine {ln : Nat} {x y : HostLine} (hx : tget? s.mem.lines ln = some x) (hd : y.dirty = true → x.dirty = true)
    {m : MemSys} (hl : m.lines = tset s.mem.lines ln y) (ht : m.tlb = s.mem.tlb) (hi : m.icache = s.mem.icache) :
    Drains s (s.setMem m) where
  lines k l h := by
    have h' : tget? (tset s.mem.lines ln y) k = some l := hl ▸ h
    rw [tget?_tset] at h'
    split at h'
    next hk =>
      cases h'
      exact ⟨x, hk ▸ hx, hd⟩
    · exact ⟨l, h', id⟩
  l1 _ _ h := h
  tlb := ht
  icache := hi

theorem drains_metPoison : Drains s (metPoison s) := by
  unfold metPoison
  refine Drains.trans (b := bump (sawPoison s) 0xFF 0x118) (Drains.trans (b := sawPoison s) ?_ (says_bump _ _ _).drains) ?_
  · exact .of_eq rfl rfl rfl rfl
  · exact .of_eq rfl rfl rfl rfl

theorem drains_recordError (kind unit cls loc : Nat) : Drains s (recordError s kind unit cls loc) := by
  unfold recordError
  extract_lets a s1
  have h1 : Drains s s1 := .of_eq rfl rfl rfl rfl
  split
  · exact h1.trans (says_raiseIbi _ _ _).drains
  · exact h1

theorem drains_hostWrite (p off : Nat) (bs : List Byte) : Drains s (hostWrite s p off bs) := by
  unfold hostWrite
  split
  · exact .refl s
  · exact .of_eq rfl rfl rfl rfl

theorem drains_hostWriteLine (p off ln : Nat) (bs : List Byte) : Drains s (hostWriteLine s p off ln bs) := by
  unfold hostWriteLine
  extract_lets s1
  have h1 : Drains s s1 := drains_hostWrite _ _ _
  split
  · exact h1
  · refine (h1.trans ?_).trans drains_metPoison
    exact .of_eq rfl rfl rfl rfl

theorem drains_evictLine (e : CLine) : Drains s (evictLine s e) := by
  unfold evictLine
  extract_lets m s1
  have h1 : Drains s s1 := .of_eq rfl rfl rfl rfl
  split
  · refine h1.trans (Drains.trans ?_ (drains_dropLines (· == e.line) rfl rfl rfl))
    split
    · split
      · exact drains_hostWriteLine _ _ _ _
      · exact .refl s1
    · exact .refl s1
  next bad _ s2 _ _ =>
    have h2 : Drains s1 s2 := .of_eq rfl rfl rfl rfl
    split
    · exact h1
    · split
      · refine (h1.trans h2).trans (Drains.trans (b := suspectData s2) (.of_eq rfl rfl rfl rfl) ?_)
        exact Drains.foldl (fun _ _ => drains_recordError _ _ _ _) _ _
      · exact h1.trans h2

theorem drains_cacheVictim (full : List CLine) (lru : Bool) : Drains s (cacheVictim s full lru).2 := by
  unfold cacheVictim
  split
  · exact .refl s
  · exact .of_eq rfl rfl rfl rfl

theorem drains_touchLine (ln : Nat) (stream write : Bool) : Drains s (touchLine s ln stream write) := by
  unfold touchLine
  split
  · exact .of_eq rfl rfl rfl rfl
  · extract_lets mine ws
    split
    · exact .of_eq rfl rfl rfl rfl
    · have hv := drains_cacheVictim (s := s) (mine.filter fun e => ws.contains e.way) (stream && s.cfg.streamWays != 0)
      split
      next hs => rw [hs] at hv; exact hv
      next v s1 hs =>
        rw [hs] at hv
        exact (hv.trans (drains_evictLine v)).trans (.of_eq rfl rfl rfl rfl)

theorem drains_invalidateLine (w : Option Nat) (ln : Nat) : Drains s (invalidateLine s w ln) where
  lines _ l h := ⟨l, h, id⟩
  l1 k e h := by
    rcases invalidateLine_core s w ln k with hk | hk
    · exact hk ▸ h
    · rw [hk] at h
      exact (List.mem_filter.mp h).1
  tlb := rfl
  icache := rfl

theorem drains_physWrite1 (w : Option Nat) (pa : Nat) (bs : List Byte) : Drains s (physWrite1 s w false pa bs) := by
  unfold physWrite1
  split
  · refine Drains.trans ?_ (drains_invalidateLine _ _)
    exact .of_eq rfl rfl rfl rfl
  · simp only [Bool.false_and, Bool.false_eq_true, if_false]
    exact drains_hostWrite _ _ _
  · exact .refl s

theorem drains_sliceWrite (w : Option Nat) (stream : Bool) (pa : Nat) (bs : List Byte) : Drains s (sliceWrite s w false stream pa bs) := by
  unfold sliceWrite
  refine Drains.trans ?_ (drains_physWrite1 _ _ _)
  split
  · exact drains_touchLine _ _ _
  · exact .refl s

theorem drains_devWrite1 (pa : Nat) (bs : List Byte) : Drains s (devWrite1 s pa bs) := by
  unfold devWrite1
  extract_lets s1
  have h1 : Drains s s1 := drains_sliceWrite _ _ _ _
  split
  next l hl =>
    refine (h1.trans ?_).trans (drains_invalidateLine _ _)
    exact drains_setLine (y := { l with data := putAt l.data (pa % 128) bs }) hl id rfl rfl rfl
  · exact h1

theorem drains_devWriteN (fuel : Nat) (pa : Nat) (bs : List Byte) : Drains s (devWriteN fuel s pa bs) := by
  induction fuel generalizing s pa bs with
  | zero => exact .refl s
  | succ fuel ih =>
    unfold devWriteN
    split
    · exact .refl s
    · exact (drains_devWrite1 _ _).trans (ih _ _)

theorem drains_objWrite (o gen off : Nat) (bs : List Byte) : Drains s (objWrite s o gen off bs) := by
  unfold objWrite
  split
  · exact drains_devWriteN _ _ _
  · exact .refl s

theorem drains_report (q : Nat) : Drains s (report s q) := drains_objWrite _ _ _ _

theorem drains_consume (p : Pkt) : Drains s (consume s p) :=
  Drains.trans (b := s.setQueue p.q { s.queue p.q with read := nextIndex s p }) (.of_eq rfl rfl rfl rfl) (drains_report _)

/-! ### Lines flushed and removed -/

/-- A line whose bytes are a host's. -/
def OfHost (ln : Nat) : Prop := ∃ port off, paKind (ln * 128) = .host port off

theorem metPoison_lines : (metPoison s).mem.lines = s.mem.lines := by
  have h : (bump (sawPoison s) 0xFF 0x118).mem.lines = s.mem.lines := congrArg MemSys.lines (says_bump (sawPoison s) 0xFF 0x118).mem
  exact h

theorem hostWriteLine_lines (p off ln : Nat) (bs : List Byte) : (hostWriteLine s p off ln bs).mem.lines = s.mem.lines := by
  have hw : (hostWrite s p off bs).mem.lines = s.mem.lines := by
    unfold hostWrite
    split
    · rfl
    · rfl
  unfold hostWriteLine
  extract_lets s1
  split
  · exact hw
  · exact metPoison_lines.trans hw

/-- What a flush leaves of a line: the same bytes, no longer dirty where the line is a host's. -/
theorem flushLine_line (ln : Nat) (k : Nat) : tget? (flushLine s ln).mem.lines k = tget? s.mem.lines k
    ∨ k = ln ∧ tget? (flushLine s ln).mem.lines k = (tget? s.mem.lines k).map fun l => { l with dirty := false } := by
  unfold flushLine
  split
  next l p off hl _ =>
    split
    · by_cases hk : k = ln
      · refine .inr ⟨hk, ?_⟩
        rw [hk, hl]
        exact (tget?_tset _ _ _ _).trans (if_pos rfl)
      · refine .inl ?_
        refine (tget?_tset _ _ _ _).trans ((if_neg hk).trans ?_)
        rw [hostWriteLine_lines]
    · exact .inl rfl
  · exact .inl rfl

theorem flushLine_clean {ln : Nat} (hh : OfHost ln) {l : HostLine} (h : tget? (flushLine s ln).mem.lines ln = some l) : l.dirty = false := by
  obtain ⟨p, off, hp⟩ := hh
  unfold flushLine at h
  rw [hp] at h
  cases hl : tget? s.mem.lines ln with
  | none =>
    rw [hl] at h
    dsimp only at h
    rw [hl] at h
    cases h
  | some x =>
    rw [hl] at h
    dsimp only at h
    split at h
    · have h' : tget? (tset _ ln { x with dirty := false }) ln = some l := h
      rw [tget?_tset, if_pos rfl] at h'
      cases h'
      rfl
    next hd =>
      rw [hl] at h
      cases h
      simpa using hd

theorem drains_flushLine (ln : Nat) : Drains s (flushLine s ln) := by
  have hline := flushLine_line (s := s) ln
  have hrest : (flushLine s ln).cores = s.cores ∧ (flushLine s ln).mem.tlb = s.mem.tlb ∧ (flushLine s ln).mem.icache = s.mem.icache := by
    unfold flushLine
    split
    next l p off _ _ =>
      split
      · have hw := drains_hostWriteLine (s := s) p off ln l.data
        exact ⟨(readsOnly_hostWriteLine _ _ _ _ _).cores, hw.tlb, hw.icache⟩
      · exact ⟨rfl, rfl, rfl⟩
    · exact ⟨rfl, rfl, rfl⟩
  obtain ⟨hc, ht, hi⟩ := hrest
  refine ⟨fun k l h => ?_, fun k e h => by simpa only [State.core, hc] using h, ht, hi⟩
  rcases hline k with hk | ⟨-, hk⟩
  · exact ⟨l, hk ▸ h, id⟩
  · rw [hk] at h
    obtain ⟨x, hx, rfl⟩ := Option.map_eq_some_iff.mp h
    exact ⟨x, hx, nofun⟩

theorem readsOnly_flushLine (ln : Nat) : ReadsOnly s (flushLine s ln) := by
  unfold flushLine
  split
  · split
    · exact (readsOnly_hostWriteLine _ _ _ _ _).trans (readsOnly_setMem _ _ rfl)
    · exact .refl s
  · exact .refl s

theorem drains_removeLine (ln : Nat) : Drains s (removeLine s ln) := by
  unfold removeLine
  refine Drains.trans ?_ (drains_invalidateLine none ln)
  exact drains_dropLines (· == ln) rfl rfl rfl

theorem writesOnly_removeLine (ln : Nat) : WritesOnly s (removeLine s ln) := by
  unfold removeLine
  exact (writesOnly_setMem _ _).trans (writesOnly_invalidateLine _ _ _)

theorem removeLine_line (ln k : Nat) : tget? (removeLine s ln).mem.lines k = if k = ln then none else tget? s.mem.lines k := by
  refine (tget?_tdrop s.mem.lines (· == ln) k).trans ?_
  simp only [beq_iff_eq]

theorem invalidateLine_core_none (ln k : Nat) : (invalidateLine s none ln).core k = (s.core k).dropLine ln :=
  tget_tmap s.cores (fun k c => if some k = none then c else c.dropLine ln) k .reset rfl

theorem removeLine_l1 (ln k : Nat) {e : Nat × Nat} (h : e ∈ ((removeLine s ln).core k).l1) : e.2 ≠ ln := by
  rw [removeLine, invalidateLine_core_none] at h
  simpa using (List.mem_filter.mp h).2

/-! ### The lines of a range -/

theorem flushLines_clean (ls : List Nat) {ln : Nat} (hln : ln ∈ ls) (hh : OfHost ln) {l : HostLine}
    (h : tget? (ls.foldl flushLine s).mem.lines ln = some l) : l.dirty = false := by
  induction ls generalizing s with
  | nil => cases hln
  | cons k ls ih =>
    rw [List.foldl_cons] at h
    by_cases hk : ln = k
    · obtain ⟨x, hx, hd⟩ := (Drains.foldl (fun s ln => drains_flushLine (s := s) ln) ls (flushLine s k)).lines ln l h
      have hclean := flushLine_clean (hk ▸ hh) (hk ▸ hx)
      cases hl : l.dirty with
      | false => rfl
      | true => exact absurd (hd hl) (by rw [hclean]; exact Bool.false_ne_true)
    · exact ih ((List.mem_cons.mp hln).resolve_left hk) h

theorem flushLine_data (ln k : Nat) : (tget? (flushLine s ln).mem.lines k).map HostLine.data = (tget? s.mem.lines k).map HostLine.data := by
  rcases flushLine_line (s := s) ln k with h | ⟨-, h⟩
  · rw [h]
  · rw [h, Option.map_map]
    rfl

theorem flushLines_data (ls : List Nat) (k : Nat) :
    (tget? (ls.foldl flushLine s).mem.lines k).map HostLine.data = (tget? s.mem.lines k).map HostLine.data := by
  induction ls generalizing s with
  | nil => rfl
  | cons ln ls ih => exact ih.trans (flushLine_data ln k)

/-- The lines flushed and removed, one after another. -/
def removeLines (s : State) (ls : List Nat) : State := ls.foldl (fun s ln => removeLine (flushLine s ln) ln) s

theorem drains_removeLines (ls : List Nat) : Drains s (removeLines s ls) :=
  .foldl (fun _ ln => (drains_flushLine ln).trans (drains_removeLine ln)) ls s

theorem writesOnly_removeLines (ls : List Nat) : WritesOnly s (removeLines s ls) := by
  induction ls generalizing s with
  | nil => exact .refl s
  | cons ln ls ih => exact ((readsOnly_flushLine ln).writesOnly.trans (writesOnly_removeLine ln)).trans ih

theorem removeLines_gone (ls : List Nat) {ln : Nat} (hln : ln ∈ ls) :
    tget? (removeLines s ls).mem.lines ln = none ∧ ∀ k, ∀ e ∈ ((removeLines s ls).core k).l1, e.2 ≠ ln := by
  induction ls generalizing s with
  | nil => cases hln
  | cons k ls ih =>
    by_cases hk : ln = k
    · have hrest := drains_removeLines (s := removeLine (flushLine s k) k) ls
      have hgone : tget? (removeLine (flushLine s k) k).mem.lines ln = none := (removeLine_line _ _).trans (if_pos hk)
      exact ⟨hrest.absent hgone, fun i e he => hk ▸ removeLine_l1 k i (hrest.l1 i e he)⟩
    · exact ih ((List.mem_cons.mp hln).resolve_left hk)

theorem removeLines_others (ls : List Nat) {ln : Nat} (hln : ln ∉ ls) : tget? (removeLines s ls).mem.lines ln = tget? s.mem.lines ln := by
  induction ls generalizing s with
  | nil => rfl
  | cons k ls ih =>
    rw [List.mem_cons, not_or] at hln
    obtain ⟨hk, hrest⟩ := hln
    refine (ih hrest).trans ((removeLine_line _ _).trans ((if_neg hk).trans ?_))
    exact (flushLine_line k ln).resolve_right fun h => hk h.1

theorem not_l1Has {c : Core} {ln : Nat} (h : ∀ e ∈ c.l1, e.2 ≠ ln) : c.l1Has ln = false := by
  unfold Core.l1Has
  cases ht : tget? c.l1 (ln % 512) with
  | none => rfl
  | some k => exact beq_eq_false_iff_ne.mpr fun hk => h _ (mem_of_tget? ht) (Option.some.inj hk)

/-! ### Waits of queues on fences -/

/-- What `endQwaits` does for one queue. -/
def qwaitStep (f : Nat) (acc : State × List Act) (e : Nat × Queue) : State × List Act :=
  match e.2.wait with
  | none => acc
  | some w =>
    if w.fence ≠ f then acc
    else match (acc.1.fence f).outcome w.target with
      | none => acc
      | some 0 => (finishCmd (acc.1.setQueue e.1 { acc.1.queue e.1 with wait := none }) w.cmd, acc.2)
      | some _ => (acc.1, acc.2 ++ [.waitFault (waitFault acc.1 e.1 w cFencePoisoned 0) f])

theorem endQwaits_eq (f : Nat) : endQwaits s f = s.queues.foldl (qwaitStep f) (s, []) := rfl

/-- Queues that wait for nothing `fc` has reached. -/
def Calm (fc : Fence) (f : Nat) (qs : List (Nat × Queue)) : Prop :=
  ∀ e ∈ qs, ∀ w, e.2.wait = some w → w.fence = f → fc.reached w.target = false

theorem qwaits_calm {f : Nat} (hflag : (s.fence f).flag = false) {qs : List (Nat × Queue)} (h : Calm (s.fence f) f qs) (as : List Act) :
    qs.foldl (qwaitStep f) (s, as) = (s, as) := by
  induction qs with
  | nil => rfl
  | cons e qs ih =>
    have hstep : qwaitStep f (s, as) e = (s, as) := by
      unfold qwaitStep
      cases hw : e.2.wait with
      | none => rfl
      | some w =>
        dsimp only
        split
        · rfl
        next hf =>
          have hout : (s.fence f).outcome w.target = none := by
            rw [Fence.outcome, hflag, h e (.head _) w hw (not_not.mp hf)]
            rfl
          rw [hout]
    rw [List.foldl_cons, hstep]
    exact ih fun e' he' => h e' (.tail _ he')

/-- Writing an entry puts it at one place of the table. -/
theorem tset_split {α : Type} (t : Tbl α) (k : Nat) (v : α) :
    ∃ a b, tset t k v = a ++ (k, v) :: b ∧ (∀ e ∈ a, e ∈ t) ∧ ∀ e ∈ b, e ∈ t := by
  induction t with
  | nil => exact ⟨[], [], rfl, nofun, nofun⟩
  | cons x t ih =>
    obtain ⟨j, w⟩ := x
    unfold tset
    split
    next hk => exact ⟨[], t, by rw [hk]; rfl, nofun, fun e he => .tail _ he⟩
    · split
      · exact ⟨[], (j, w) :: t, rfl, nofun, fun e he => he⟩
      · obtain ⟨a, b, heq, ha, hb⟩ := ih
        refine ⟨(j, w) :: a, b, by rw [heq]; rfl, fun e he => ?_, fun e he => .tail _ (hb e he)⟩
        exact (List.mem_cons.mp he).elim (fun h => h ▸ .head _) fun h => .tail _ (ha e h)

/-- A queue that waits for a value the fence has goes on; the others stay as they are. -/
theorem endQwaits_reached {t : Tbl Queue} {q : Nat} {x : Queue} {w : QWait} (hqueues : s.queues = tset t q x) (hw : x.wait = some w)
    (hflag : (s.fence w.fence).flag = false) (hreach : (s.fence w.fence).reached w.target = true) (hcalm : Calm (s.fence w.fence) w.fence t) :
    endQwaits s w.fence = (finishCmd (s.setQueue q { s.queue q with wait := none }) w.cmd, []) := by
  obtain ⟨a, b, heq, ha, hb⟩ := tset_split t q x
  have hfence : (finishCmd (s.setQueue q { s.queue q with wait := none }) w.cmd).fence w.fence = s.fence w.fence := by
    rw [State.fence, finishCmd_fences]
    rfl
  have hout : (s.fence w.fence).outcome w.target = some 0 := by
    rw [Fence.outcome, hflag, hreach]
    rfl
  have hstep : qwaitStep w.fence (s, []) (q, x) = (finishCmd (s.setQueue q { s.queue q with wait := none }) w.cmd, []) := by
    unfold qwaitStep
    rw [hw]
    dsimp only
    rw [if_neg (not_not.mpr rfl), hout]
    rfl
  rw [endQwaits_eq, hqueues, heq, List.foldl_append, qwaits_calm hflag (fun e he => hcalm e (ha e he)), List.foldl_cons, hstep]
  exact qwaits_calm (by rw [hfence]; exact hflag) (fun e he => by rw [hfence]; exact hcalm e (hb e he)) _

theorem endQwaits_waits {t : Tbl Queue} {q f : Nat} {x : Queue} {w : QWait} (hqueues : s.queues = tset t q x) (hw : x.wait = some w)
    (hflag : (s.fence f).flag = false) (hreach : (s.fence f).reached w.target = false) (hcalm : Calm (s.fence f) f t) :
    endQwaits s f = (s, []) := by
  obtain ⟨a, b, heq, ha, hb⟩ := tset_split t q x
  have hall : Calm (s.fence f) f s.queues := by
    intro e he v hv hf
    rw [hqueues, heq, List.mem_append, List.mem_cons] at he
    rcases he with h | rfl | h
    · exact hcalm e (ha e h) v hv hf
    · cases hw.symm.trans hv
      exact hreach
    · exact hcalm e (hb e h) v hv hf
  exact qwaits_calm hflag hall []

/-! ### Packets -/

theorem settle_nil : settle [] s = s := rfl

theorem packetFault_bad (p : Pkt) : packetFault s p (illegalFault dBadPacket) =
    raise s ⟨(s.queue p.q).ctx, ⟨0x0004, 0x16, 0, false, 0, 0⟩, 0xB1, 0xFF, true, p.q, (s.queue p.q).read, p.tag.toNat⟩ := by
  unfold packetFault notePoison
  rw [if_neg (by simp [illegalFault, cIllegal, cEcc])]
  rfl

/-- A header that breaks the rules, whatever the words of the packet. -/
def HeaderBad (s : State) (p : Pkt) : Prop :=
  p.size16.toNat = 0 ∨ 2 ≤ p.flags.toNat
    ∨ (s.queue p.q).ringBytes / 16 < (s.queue p.q).read % ((s.queue p.q).ringBytes / 16) + p.size16.toNat
    ∨ ((s.queue p.q).last + 2 ^ 32 - (s.queue p.q).read) % 2 ^ 32 < p.size16.toNat

theorem headerOk_bad {p : Pkt} (h : HeaderBad s p) (min : Nat) : headerOk s p min = false := by
  by_contra hok
  have hok : headerOk s p min = true := by simpa using hok
  simp only [headerOk, Bool.and_eq_true, decide_eq_true_eq, Queue.units, Queue.avail] at hok
  obtain ⟨⟨⟨⟨h1, -⟩, h2⟩, h3⟩, h4⟩ := hok
  rcases h with h | h | h | h
  · exact absurd h1 (by rw [h]; decide)
  · exact absurd h2 (Nat.not_lt.mpr h)
  · exact absurd (of_decide_eq_true h3) (Nat.not_le.mpr h)
  · exact absurd (of_decide_eq_true h4) (Nat.not_le.mpr h)

theorem headerOk_short {p : Pkt} {min : Nat} (h : p.size16.toNat < min) : headerOk s p min = false := by
  have hmin : decide (min ≤ p.size16.toNat) = false := decide_eq_false (Nat.not_le.mpr h)
  simp [headerOk, hmin]

/-- What a packet carried out leaves of its queue, the other queues, the commands, the fences and the groups. -/
structure Takes (s t : State) (p : Pkt) : Prop where
  queues : Consumed s t p
  cmds : t.cmds = s.cmds
  fences : t.fences = s.fences
  group : ∀ g, t.group g = s.group g

/-- A packet whose effect writes only memory takes only its words. -/
theorem takes_consume {s1 : State} (h : WritesOnly s s1) (p : Pkt) : Takes s (consume s1 p) p := by
  have hc := consume_writesOnly s1 p
  refine ⟨⟨?_, fun q hq => ?_⟩, hc.cmds.trans h.cmds, hc.fences.trans h.fences, fun g => (hc.group g).trans (h.group g)⟩
  · rw [(consumed_consume s1 p).1, h.queue]
  · rw [(consumed_consume s1 p).2 q hq, h.queue]

theorem consume_mem_silent {s1 : State} {p : Pkt} (h : WritesOnly s s1)
    (hsilent : objReachable s (s.queue p.q).repObj (s.queue p.q).repGen = false) : (consume s1 p).mem = s1.mem := by
  have h1 : objReachable s1 (s1.queue p.q).repObj (s1.queue p.q).repGen = false := by
    rw [h.queue, h.objReachable]
    exact hsilent
  rw [consume_silent h1]
  rfl

/-- FLUSH takes its words, cleans the lines of its range and leaves their bytes. -/
theorem exec_flush_takes {p : Pkt} (h : Fetches s p 2 true) (hok : rangePktOk p 128 = true) :
    let ls := linesInRange s (s.queue p.q).ctx (pField p 8 8) (pField p 16 8)
    Answers (.flush p) s fun t => Takes s t p
      ∧ (∀ ln l, ln ∈ ls → tget? t.mem.lines ln = some l → OfHost ln → l.dirty = false)
      ∧ (objReachable s (s.queue p.q).repObj (s.queue p.q).repGen = false → ∀ ln,
          (tget? t.mem.lines ln).map HostLine.data = (tget? s.mem.lines ln).map HostLine.data) := by
  intro ls
  have hw : WritesOnly s (ls.foldl flushLine s) := (readsOnly_foldl ls flushLine (fun s ln => readsOnly_flushLine (s := s) ln) s).writesOnly
  refine ⟨consume (ls.foldl flushLine s) p, ?_, takes_consume hw p, fun ln l hln hl hhost => ?_, fun hsilent ln => ?_⟩
  · rw [exec_flush, execFlush, hok, fetchPacket_fetches h]
  · obtain ⟨x, hx, hd⟩ := (drains_consume (s := ls.foldl flushLine s) p).lines ln l hl
    have hclean := flushLines_clean ls hln hhost hx
    cases hl' : l.dirty with
    | false => rfl
    | true => exact absurd (hd hl') (by rw [hclean]; exact Bool.false_ne_true)
  · rw [consume_mem_silent hw hsilent]
    exact flushLines_data ls ln

/-- INVALIDATE takes its words and removes the lines of its range. -/
theorem exec_invalidate_takes {p : Pkt} (h : Fetches s p 2 true) (hok : rangePktOk p 128 = true) :
    let ls := linesInRange s (s.queue p.q).ctx (pField p 8 8) (pField p 16 8)
    Answers (.invalidate p) s fun t => Takes s t p
      ∧ (∀ ln ∈ ls, tget? t.mem.lines ln = none ∧ ∀ k, (t.core k).l1Has ln = false)
      ∧ (objReachable s (s.queue p.q).repObj (s.queue p.q).repGen = false → ∀ ln, ln ∉ ls → tget? t.mem.lines ln = tget? s.mem.lines ln) := by
  intro ls
  have hw : WritesOnly s (removeLines s ls) := writesOnly_removeLines ls
  have hd := drains_consume (s := removeLines s ls) p
  refine ⟨consume (removeLines s ls) p, ?_, takes_consume hw p, fun ln hln => ?_, fun hsilent ln hln => ?_⟩
  · rw [exec_invalidate, execInvalidate, hok, fetchPacket_fetches h]
    rfl
  · obtain ⟨hgone, hl1⟩ := removeLines_gone (s := s) ls hln
    exact ⟨hd.absent hgone, fun k => not_l1Has fun e he => hl1 k e (hd.l1 k e he)⟩
  · rw [consume_mem_silent hw hsilent]
    exact removeLines_others ls hln

theorem exec_icacheInvalidate_takes {p : Pkt} (h : Fetches s p 1 true) : Answers (.icacheInvalidate p) s fun t => Takes s t p
    ∧ ∀ e, e ∈ t.mem.icache ↔ e ∈ s.mem.icache ∧ e.ctx ≠ (s.queue p.q).ctx := by
  refine ⟨consume (icacheDrop s (s.queue p.q).ctx) p, ?_, takes_consume (writesOnly_setMem _ _) p, fun e => ?_⟩
  · rw [exec_icacheInvalidate, execIcacheInvalidate, fetchPacket_fetches h]
  · rw [(drains_consume p).icache]
    refine List.mem_filter.trans ?_
    simp only [bne_iff_ne]

theorem exec_tlbInvalidate_takes {p : Pkt} (h : Fetches s p 2 true) (hok : rangePktOk p 4096 = true) :
    Answers (.tlbInvalidate p) s fun t => Takes s t p
      ∧ ∀ e, e ∈ t.mem.tlb ↔ e ∈ s.mem.tlb ∧ ¬ (e.ctx = (s.queue p.q).ctx ∧ (pField p 16 8 = 0
          ∨ (e.va < pField p 8 8 + pField p 16 8 ∧ pField p 8 8 < e.va + e.len))) := by
  refine ⟨consume (tlbDrop s (s.queue p.q).ctx (pField p 8 8) (pField p 16 8)) p, ?_, takes_consume (writesOnly_setMem _ _) p, fun e => ?_⟩
  · rw [exec_tlbInvalidate, execTlbInvalidate, hok, fetchPacket_fetches h]
  · rw [(drains_consume p).tlb]
    refine List.mem_filter.trans (and_congr_right fun _ => ?_)
    simp only [Bool.not_eq_true', ← Bool.not_eq_true, Bool.and_eq_true, Bool.or_eq_true, beq_iff_eq, decide_eq_true_eq]

theorem exec_nopPacket_takes {p : Pkt} (h : Fetches s p 1 false) : Answers (.nopPacket p) s fun t =>
    Takes s t p ∧ t.mem.tlb = s.mem.tlb := by
  refine ⟨consume s p, ?_, takes_consume (.refl s) p, (drains_consume p).tlb⟩
  rw [exec_nopPacket, execNopPacket, fetchPacket_fetches h]

theorem exec_fenceSignal_takes {p : Pkt} (h : Fetches s p 2 true) (hok : fencePktOk p false = true)
    (hright : bindRight s (s.queue p.q).ctx (pField p 8 2) = 2) :
    exec (.fenceSignal p) s = .next (settle [.signal (.ctx (s.queue p.q).ctx 2 p.q) (pField p 8 2) (BitVec.ofNat 64 (pField p 16 8))]
      (consume s p)) := by
  rw [exec_fenceSignal, execFenceSignal, hok, fetchPacket_fetches h]
  dsimp only
  rw [if_neg (not_not.mpr hright)]

/-! ### FENCE_WAIT -/

/-- The wait that a FENCE_WAIT packet puts on its queue. -/
def pktWait (s : State) (p : Pkt) : QWait := ⟨pField p 8 2, pField p 16 8, deadlineOf s (pField p 12 4), s.nextCmd⟩

/-- The state in which the queue waits, before the fence is looked at. -/
def waitSet (s : State) (p : Pkt) : State :=
  let s1 := startCmd s p (newCmd s p .fenceWait)
  s1.setQueue p.q { s1.queue p.q with wait := some (pktWait s p) }

theorem waitSet_queue (p : Pkt) (j : Nat) : (waitSet s p).queue j = if j = p.q then
    { s.queue p.q with read := ((s.queue p.q).read + p.size16.toNat) % 2 ^ 32, wait := some (pktWait s p) } else s.queue j := by
  obtain ⟨hq, hothers⟩ := startCmd_consumed s p (newCmd s p .fenceWait)
  unfold waitSet
  rw [State.setQueue_queue, hq]
  split
  · rfl
  next hj => exact hothers j hj

theorem waitSet_queues (p : Pkt) : (waitSet s p).queues = tset s.queues p.q ((waitSet s p).queue p.q) := by
  have h1 : (startCmd s p (newCmd s p .fenceWait)).queues = tset s.queues p.q { s.queue p.q with read := nextIndex s p } :=
    (consume_writesOnly _ _).queues
  have h2 : (waitSet s p).queues = tset (startCmd s p (newCmd s p .fenceWait)).queues p.q
      { (startCmd s p (newCmd s p .fenceWait)).queue p.q with wait := some (pktWait s p) } := rfl
  rw [h2, h1, tset_tset, waitSet, State.setQueue_queue, if_pos rfl]

theorem waitSet_fences (p : Pkt) : (waitSet s p).fences = s.fences := (consume_writesOnly _ _).fences

theorem waitSet_cmd (p : Pkt) (k : Nat) : tget? (waitSet s p).cmds k = if k = s.nextCmd then some (newCmd s p .fenceWait)
    else tget? s.cmds k := startCmd_cmd _ _ _ _

theorem exec_fenceWait_waits {p : Pkt} (h : Fetches s p 2 false) (hok : fencePktOk p true = true)
    (hright : bindRight s (s.queue p.q).ctx (pField p 8 2) ≠ 0) :
    exec (.fenceWait p) s = .next (settle (endQwaits (waitSet s p) (pField p 8 2)).2 (endQwaits (waitSet s p) (pField p 8 2)).1) := by
  rw [exec_fenceWait, execFenceWait, hok, fetchPacket_fetches h]
  dsimp only
  rw [if_neg hright]
  rfl

end

/-- Settles O22: each packet that passes its checks is carried out by its own lemma, and a packet whose header is bad
faults its context before its words are looked at. -/
theorem frontEndPackets : Obligations.FrontEndPackets := by
  unfold Obligations.FrontEndPackets
  refine ⟨fun p s => ?_, fun p s hready => ?_⟩
  · intro q c f right kept calm silent
    have hkept {t : State} (h : Takes s t p) : kept t := ⟨h.queues, h.cmds, h.fences, h.group⟩
    have hfence : (waitSet s p).fence f = s.fence f := by rw [State.fence, waitSet_fences, State.fence]
    have hwaits : ((waitSet s p).queue p.q).wait = some (pktWait s p) := by rw [waitSet_queue, if_pos rfl]
    refine ⟨fun h => ?_, fun h hok hright => ?_, fun h hok hright hflag hcalm => ⟨fun hreach => ?_, fun hreach hwait hfree => ?_⟩,
      fun h hok => ?_, fun h => ?_, fun h hok => ?_⟩
    · obtain ⟨t, ht, htakes, htlb⟩ := exec_nopPacket_takes h
      exact ⟨t, ht, hkept htakes, htlb⟩
    · exact ⟨consume s p, exec_fenceSignal_takes h hok hright, hkept (takes_consume (.refl s) p)⟩
    · have hreach' : ((waitSet s p).fence f).reached (pktWait s p).target = false := hfence.symm ▸ hreach
      have hends : endQwaits (waitSet s p) f = (waitSet s p, []) :=
        endQwaits_waits (waitSet_queues p) hwaits (hfence.symm ▸ hflag) hreach' (hfence.symm ▸ hcalm)
      refine ⟨waitSet s p, (exec_fenceWait_waits h hok hright).trans (by rw [hends]; rfl), ?_, startCmd_nextCmd _ _ _, fun j hj => ?_, ?_⟩
      · rw [waitSet_queue, if_pos rfl, pktWait, deadlineOf, ceilDiv]
        rfl
      · rw [waitSet_queue, if_neg hj]
      · rw [waitSet_cmd, if_pos rfl]
        rfl
    · have hreach' : ((waitSet s p).fence f).reached (pktWait s p).target = true := hfence.symm ▸ hreach
      have hends := endQwaits_reached (w := pktWait s p) (waitSet_queues p) hwaits (hfence.symm ▸ hflag) hreach' (hfence.symm ▸ hcalm)
      obtain ⟨t, ht⟩ : ∃ t, t = (waitSet s p).setQueue p.q { (waitSet s p).queue p.q with wait := none } := ⟨_, rfl⟩
      have hqueue : (finishCmd t s.nextCmd).queue p.q = { (waitSet s p).queue p.q with wait := none } := by
        rw [State.queue, (finishCmd_keeps t _).2, ht]
        exact (State.setQueue_queue _ _ _ _).trans (if_pos rfl)
      have hcmd (k : Nat) : tget? (finishCmd t s.nextCmd).cmds k = if k = s.nextCmd then none else tget? (waitSet s p).cmds k := by
        rw [finishCmd_leaves, ht]
        rfl
      refine ⟨finishCmd t s.nextCmd, (exec_fenceWait_waits h hok hright).trans ?_, by rw [hqueue], ?_, ?_, fun k hk => ?_⟩
      · rw [ht]
        exact congrArg (fun r : State × List Act => Host.Outcome.next (settle r.2 r.1)) hends
      · rw [hqueue, waitSet_queue, if_pos rfl]
      · rw [hcmd, if_pos rfl]
      · rw [hcmd, if_neg hk, waitSet_cmd, if_neg hk]
    · intro ls
      obtain ⟨t, ht, htakes, hclean, hdata⟩ := exec_flush_takes h hok
      obtain ⟨u, hu, hutakes, hgone, hothers⟩ := exec_invalidate_takes h hok
      exact ⟨⟨t, ht, hkept htakes, hclean, hdata⟩, u, hu, hkept hutakes, hgone, hothers⟩
    · obtain ⟨t, ht, htakes, hcache⟩ := exec_icacheInvalidate_takes h
      exact ⟨t, ht, hkept htakes, hcache⟩
    · obtain ⟨t, ht, htakes, htlb⟩ := exec_tlbInvalidate_takes h hok
      exact ⟨t, ht, hkept htakes, htlb⟩
  · intro q n bad
    have hbad : packetFault s p (illegalFault dBadPacket) = bad := packetFault_bad p
    refine ⟨fun opcode hop => ?_, fun h => ?_, fun h => ?_⟩
    · have hunknown : [0, 1, 2, 3, 0x10, 0x11, 0x20, 0x21, 0x22, 0x23, 0x30, 0x31, 0x40, 0x41].contains opcode.toNat = false := by
        simpa [← BitVec.toNat_inj] using hop
      rw [exec_badPacket, execBadPacket]
      rw [if_neg (by rw [hunknown]; exact Bool.false_ne_true), fetchPacket_bad hready (Bool.and_false _), hbad]
    · have hhead : HeaderBad s p := h
      have hrefused (min : Nat) (implied ok : Bool) (k : State → State) : Host.Outcome.next (ρ := Refusal) (φ := Fault)
          (fetchPacket s p min implied ok k) = .next bad := by
        rw [fetchPacket_bad hready (by rw [headerOk_bad hhead, Bool.false_and]), hbad]
      exact ⟨hrefused _ _ _ _, hrefused _ _ _ _, hrefused _ _ _ _, hrefused _ _ _ _, hrefused _ _ _ _, hrefused _ _ _ _⟩
    · have hrefused (implied ok : Bool) (k : State → State) : Host.Outcome.next (ρ := Refusal) (φ := Fault)
          (fetchPacket s p 2 implied ok k) = .next bad := by
        rw [fetchPacket_bad hready (by rw [headerOk_short (by omega), Bool.false_and]), hbad]
      exact ⟨hrefused _ _ _, hrefused _ _ _, hrefused _ _ _, hrefused _ _ _⟩

end Sys2Proof.Proofs

/-! COPY and FILL: a command starts for objects that its context may use, and its chunks move their bytes. -/

namespace Sys2Proof.Proofs

open Sys2Proof.Machine

section
variable {s : State}

/-! ### Taking a copy up -/

/-- Taking a copy up chooses a command and does nothing else. -/
theorem takeUpCopy_rest (s : State) : takeUpCopy s = { s with sched := { s.sched with copying := (takeUpCopy s).sched.copying } } := by
  unfold takeUpCopy
  extract_lets moving ready best
  split
  · rfl
  · rfl

theorem takeUpCopy_queues (s : State) : (takeUpCopy s).queues = s.queues := (congrArg State.queues (takeUpCopy_rest s) :)

theorem takeUpCopy_cmds (s : State) : (takeUpCopy s).cmds = s.cmds := (congrArg State.cmds (takeUpCopy_rest s) :)

theorem takeUpCopy_mem (s : State) : (takeUpCopy s).mem = s.mem := (congrArg State.mem (takeUpCopy_rest s) :)

/-- While a command of a live context moves, none is taken up. -/
theorem takeUpCopy_moving {cmd : Nat} {c : Cmd} (hcmd : tget? s.cmds cmd = some c) (hcopy : s.sched.copying = some cmd)
    (hlive : (s.ctx c.ctx).st = .live) : takeUpCopy s = s := by
  have hany : (s.cmds.any fun e => e.1 == cmd && (s.ctx e.2.ctx).st == .live) = true :=
    List.any_eq_true.mpr ⟨(cmd, c), mem_of_tget? hcmd, by simp [hlive]⟩
  unfold takeUpCopy
  rw [hcopy]
  exact if_pos hany

theorem noteBoost_noted {id : Nat} {c : Cmd} (hcmd : tget? s.cmds id = some c) (h : c.boosted = true ∨ effPrio s c.queue ≠ 8) :
    noteBoost s id = s := by
  have hnot : ¬ (effPrio s c.queue = 8 ∧ (!c.boosted) = true) := by
    rintro ⟨hprio, hboost⟩
    rcases h with h | h
    · simp [h] at hboost
    · exact h hprio
  unfold noteBoost
  rw [hcmd]
  exact if_neg hnot

/-! ### The packets -/

/-- The queue's context may use a range of an object, to read or to write. -/
structure Fits (s : State) (q o gen off n : Nat) (w : Bool) : Prop where
  live : (s.obj o).st = .live
  gen : (s.obj o).gen = gen
  range : off + n ≤ (s.obj o).size
  reach : paReachable s (s.obj o).base = true
  right : (if w then 2 else 1) ≤ objRight (s.obj o) (s.ctx (s.queue q).ctx).tenant

theorem Fits.nameOk {q o gen off n : Nat} {w : Bool} (h : Fits s q o gen off n w) (i : Nat) : nameOk s q i o gen = true := by
  unfold Machine.nameOk
  dsimp only
  rw [h.live]
  exact beq_iff_eq.mpr h.gen

theorem Fits.rangeFault {q o gen off n : Nat} {w : Bool} (h : Fits s q o gen off n w) :
    rangeFault s (s.queue q).ctx o gen off n w = none := by
  have hright := h.right
  have hrange := h.range
  unfold Machine.rangeFault
  refine if_neg ?_
  rw [h.reach]
  cases w
  · simp only [Bool.false_eq_true, if_false] at hright ⊢
    simp only [Bool.not_true, Bool.false_eq_true, or_false]
    omega
  · simp only [if_true] at hright ⊢
    simp only [Bool.not_true, Bool.false_eq_true, or_false]
    omega

/-- What a COPY or FILL that starts leaves. -/
theorem copyStarted_leaves (p : Pkt) (x : Cmd) : Consumed s (takeUpCopy (startCmd s p x)) p
    ∧ tget? (takeUpCopy (startCmd s p x)).cmds s.nextCmd = some x
    ∧ ∀ k, k ≠ s.nextCmd → tget? (takeUpCopy (startCmd s p x)).cmds k = tget? s.cmds k := by
  obtain ⟨hq, hothers⟩ := startCmd_consumed s p x
  refine ⟨⟨?_, fun q hne => ?_⟩, ?_, fun k hk => ?_⟩
  · rw [State.queue, takeUpCopy_queues]
    exact hq
  · rw [State.queue, takeUpCopy_queues]
    exact hothers q hne
  · rw [takeUpCopy_cmds, startCmd_cmd, if_pos rfl]
  · rw [takeUpCopy_cmds, startCmd_cmd, if_neg hk]

theorem exec_copy_starts {p : Pkt} (h : Fetches s p 3 false) (hok : copyOk p = true)
    (hd : Fits s p.q (pField p 8 2) (pField p 10 2) (pField p 16 8) (pField p 32 8) true)
    (hs : Fits s p.q (pField p 12 2) (pField p 14 2) (pField p 24 8) (pField p 32 8) false) :
    exec (.copy p) s = .next (takeUpCopy (startCmd s p { newCmd s p .copy with
      dstObj := pField p 8 2, dstOff := pField p 16 8, srcObj := pField p 12 2, srcOff := pField p 24 8, bytes := pField p 32 8 })) := by
  rw [exec_copy, execCopy, hok, fetchPacket_fetches h]
  dsimp only
  rw [hd.nameOk, hs.nameOk, hd.rangeFault, hs.rangeFault]
  rfl

theorem exec_fill_starts {p : Pkt} (h : Fetches s p 2 false) (hok : fillOk p = true)
    (hd : Fits s p.q (pField p 8 2) (pField p 10 2) (pField p 16 8) (pField p 24 8) true) :
    exec (.fill p) s = .next (takeUpCopy (startCmd s p { newCmd s p .fill with
      dstObj := pField p 8 2, dstOff := pField p 16 8, bytes := pField p 24 8, pattern := pField p 12 4 })) := by
  rw [exec_fill, execFill, hok, fetchPacket_fetches h]
  dsimp only
  rw [hd.nameOk, hd.rangeFault]
  rfl

/-! ### A chunk -/

/-- The state after a chunk's bytes: the command has come `k` bytes further. -/
def chunkMoved (s : State) (cmd : Nat) (c : Cmd) (k : Nat) : State :=
  if c.kind = .copy then copyChunk s cmd c k else fillChunk s cmd c k

/-- A chunk that wrote `bs` at `d` and nothing else of DRAM, and moved its command on. -/
structure Moved (s t : State) (cmd : Nat) (c : Cmd) (k d : Nat) (bs : List Byte) : Prop where
  dram : t.mem.dram = s.mem.dram.write d bs
  len : bs.length = k
  cmd : tget? t.cmds cmd = some { c with copied := c.copied + k }
  queues : t.queues = s.queues
  boosts : t.sched.boosts = s.sched.boosts

variable {cmd : Nat} {c : Cmd} {k : Nat}

theorem fillBytes_length (pattern n : Nat) : (fillBytes pattern n).length = n := by simp [fillBytes]

theorem fillChunk_moved (hd : (s.obj c.dstObj).base + c.dstOff + c.copied + k ≤ 0x1000000000) :
    Moved s (fillChunk s cmd c k) cmd c k ((s.obj c.dstObj).base + c.dstOff + c.copied) (fillBytes c.pattern k) := by
  have hw := writesOnly_devWrite s ((s.obj c.dstObj).base + c.dstOff + c.copied) (fillBytes c.pattern k)
  refine ⟨?_, fillBytes_length _ _, (tget?_tset _ _ _ _).trans (if_pos rfl), hw.queues, (congrArg (·.sched.boosts) hw.rest :)⟩
  exact devWrite_dram _ _ _ (by rw [fillBytes_length]; exact hd)

/-- No poisoned word lies under a range. -/
def CleanRange (s : State) (pa n : Nat) : Prop := ∀ w ∈ s.mem.poison, 8 * w + 8 ≤ pa ∨ pa + n ≤ 8 * w

theorem copyPoison_clean {spa : Nat} (h : CleanRange s spa k) (dpa : Nat) : copyPoison s spa dpa k = [] := by
  have hnone : (s.mem.poison.filter fun w => decide (w * 8 < spa + k ∧ spa < w * 8 + 8)) = [] := by
    refine List.filter_eq_nil_iff.mpr fun w hw => ?_
    have hout := h w hw
    simp only [decide_eq_true_eq]
    omega
  unfold copyPoison
  rw [hnone]
  rfl

theorem copyBytes_length (src : List Byte) : (copyBytes s c src).1.length = src.length := by
  unfold copyBytes
  extract_lets o
  split
  · rfl
  · simp

theorem copyBytes_apart (h : c.dstObj ≠ c.srcObj) (src : List Byte) : (copyBytes s c src).1 = src := by
  unfold copyBytes
  rw [if_pos h]

theorem copyBytes_state (src : List Byte) : (copyBytes s c src).2 = { s with freeTick := (copyBytes s c src).2.freeTick } := by
  unfold copyBytes
  extract_lets o
  split
  · rfl
  · rfl

theorem copyChunk_moved (hd : (s.obj c.dstObj).base + c.dstOff + c.copied + k ≤ 0x1000000000)
    (hs : (s.obj c.srcObj).base + c.srcOff + c.copied + k ≤ 0x1000000000)
    (hclean : CleanRange s ((s.obj c.srcObj).base + c.srcOff + c.copied) k) :
    ∃ s1, Moved s (copyChunk s cmd c k) cmd c k ((s.obj c.dstObj).base + c.dstOff + c.copied)
      (copyBytes s1 c (s.mem.dram.read ((s.obj c.srcObj).base + c.srcOff + c.copied) k)).1 := by
  have hbytes := devRead_bytes s _ _ hs
  have hreads := readsOnly_devRead s ((s.obj c.srcObj).base + c.srcOff + c.copied) k
  have hlen (s1 : State) : (copyBytes s1 c (s.mem.dram.read ((s.obj c.srcObj).base + c.srcOff + c.copied) k)).1.length = k := by
    rw [copyBytes_length, mem_length_read]
  unfold copyChunk
  extract_lets spa dpa bad
  have hbad : bad = [] := copyPoison_clean hclean dpa
  rcases hr : devRead s spa k with ⟨src, s1⟩
  rw [hr] at hbytes hreads
  dsimp only at hbytes hreads ⊢
  subst hbytes
  refine ⟨s1, ?_⟩
  have hstate := copyBytes_state (s := s1) (c := c) (s.mem.dram.read spa k)
  rcases hb : copyBytes s1 c (s.mem.dram.read spa k) with ⟨bs, s2⟩
  have hl : bs.length = k := by
    have := hlen s1
    rw [hb] at this
    exact this
  rw [hb] at hstate
  dsimp only at hstate ⊢
  rw [if_pos hbad]
  have hw := writesOnly_devWrite s2 dpa bs
  refine ⟨?_, hl, (tget?_tset _ _ _ _).trans (if_pos rfl), ?_, ?_⟩
  · refine (devWrite_dram _ _ _ (by rw [hl]; exact hd)).trans ?_
    rw [hstate, ← hreads.dram]
  · exact hw.queues.trans ((congrArg State.queues hstate :).trans hreads.queues)
  · exact (congrArg (·.sched.boosts) hw.rest :).trans ((congrArg (·.sched.boosts) hstate :).trans (by rw [hreads.sched]))

/-- What is left of a chunk once the mover has given its turn back. -/
def chunkDone (s : State) (cmd : Nat) : State :=
  takeUpCopy (noteBoost (bulkServed { s with sched := { s.sched with copying := none } } 12) cmd)

theorem exec_copyChunkDone_moves (hcmd : tget? s.cmds cmd = some c) (hcopy : s.sched.copying = some cmd)
    (hlive : (s.ctx c.ctx).st = .live) :
    exec (.copyChunkDone cmd) s = .next (chunkDone (chunkMoved s cmd c (min 65536 (c.bytes - c.copied))) cmd) := by
  rw [exec_copyChunkDone, execCopyChunkDone, takeUpCopy_moving hcmd hcopy hlive]
  dsimp only
  rw [hcmd]
  exact if_neg (not_or.mpr ⟨not_not.mpr hcopy, not_not.mpr hlive⟩)

/-- The end of a chunk keeps what its bytes left. -/
theorem chunkDone_moved {t : State} {d : Nat} {bs : List Byte} (h : Moved s t cmd c k d bs)
    (hboost : c.boosted = true ∨ effPrio s c.queue ≠ 8) : Moved s (chunkDone t cmd) cmd c k d bs := by
  have hnote := noteBoost_noted (s := bulkServed { t with sched := { t.sched with copying := none } } 12) h.cmd (by
    refine hboost.imp_right fun hp => ?_
    rw [effPrio] at hp ⊢
    have hb : (bulkServed { t with sched := { t.sched with copying := none } } 12).sched.boosts = s.sched.boosts := h.boosts
    have hq : (bulkServed { t with sched := { t.sched with copying := none } } 12).queue c.queue = s.queue c.queue := by
      show tget t.queues _ _ = tget s.queues _ _
      rw [h.queues]
    rw [hb, hq]
    exact hp)
  unfold chunkDone
  rw [hnote]
  refine ⟨?_, h.len, ?_, ?_, ?_⟩
  · rw [takeUpCopy_mem]
    exact h.dram
  · rw [takeUpCopy_cmds]
    exact h.cmd
  · rw [takeUpCopy_queues]
    exact h.queues
  · rw [takeUpCopy_rest]
    exact h.boosts

theorem Moved.byte {t : State} {d : Nat} {bs : List Byte} (h : Moved s t cmd c k d bs) (hok : StateOk s) {i : Nat} (hi : i < k) :
    t.mem.dram.get (d + i) = bs.getD i 0 := by
  rw [h.dram]
  exact Mem.get_write_inside _ _ _ _ hok.dram (h.len.symm ▸ hi)

theorem Moved.frame {t : State} {d : Nat} {bs : List Byte} (h : Moved s t cmd c k d bs) {a : Nat}
    (ha : a < d ∨ d + k ≤ a) : t.mem.dram.get a = s.mem.dram.get a := by
  rw [h.dram]
  exact Mem.get_write_outside _ _ _ _ (h.len.symm ▸ ha)

end

/-- Settles O24: the packets start their commands by `copyStarted_leaves`; a chunk of a FILL or of a COPY is one write of
memory (`Moved`), from which its bytes and its frame are read off. -/
theorem copyAndFill : Obligations.CopyAndFill := by
  unfold Obligations.CopyAndFill
  refine ⟨fun p s => ?_, fun cmd s c hok hcmd hcopy hlive hboost => ?_⟩
  · intro q fits starts
    have hfits {o gen off n : Nat} {w : Bool} (h : fits o gen off n w) : Fits s p.q o gen off n w := by
      obtain ⟨h1, h2, h3, h4, h5⟩ := h
      exact ⟨h1, h2, h3, h4, h5⟩
    exact ⟨fun h hok hd hs => ⟨_, exec_copy_starts h hok (hfits hd) (hfits hs), copyStarted_leaves p _⟩,
      fun h hok hd => ⟨_, exec_fill_starts h hok (hfits hd), copyStarted_leaves p _⟩⟩
  · intro n d src hd
    refine ⟨_, exec_copyChunkDone_moves hcmd hcopy hlive, fun hfill i hi => ?_, fun hk hapart hsrc hclean i hi => ?_, fun hkind => ?_⟩
    · have hm := chunkDone_moved (fillChunk_moved (cmd := cmd) hd) hboost
      rw [chunkMoved, if_neg (by rw [hfill]; decide), hm.byte hok hi]
      simp [fillBytes, hi]
    · obtain ⟨s1, hm⟩ := copyChunk_moved (cmd := cmd) hd hsrc hclean
      rw [chunkMoved, if_pos hk, (chunkDone_moved hm hboost).byte hok hi, copyBytes_apart hapart]
      simp [Mem.read, hi, src]
    · obtain ⟨bs, hm⟩ : ∃ bs, Moved s (chunkDone (chunkMoved s cmd c n) cmd) cmd c n d bs := by
        rcases hkind with hfill | ⟨hk, hsrc, hclean⟩
        · rw [chunkMoved, if_neg (by rw [hfill]; decide)]
          exact ⟨_, chunkDone_moved (fillChunk_moved hd) hboost⟩
        · obtain ⟨s1, hm⟩ := copyChunk_moved (cmd := cmd) hd hsrc hclean
          rw [chunkMoved, if_pos hk]
          exact ⟨_, chunkDone_moved hm hboost⟩
      exact ⟨fun a ha => hm.frame ha, by rw [hm.cmd]; rfl, hm.queues⟩

end Sys2Proof.Proofs

/-! Cuts: the packet, completion and restart, the start of a weight stream, and the places of slabs. -/

namespace Sys2Proof.Proofs

open Sys2Proof.Machine

/-! ### Counters -/

section
variable {s : State}

theorem sendMsix_counters (p v : Nat) : (sendMsix s p v).counters = s.counters := by
  unfold sendMsix
  extract_lets x
  split
  · rfl
  · split
    · rfl
    · split
      · rfl
      · rfl

theorem logPlain_counters (t kind off : Nat) : (logPlain s t kind off).counters = s.counters := by
  unfold logPlain logTenant
  extract_lets x
  split
  · rfl
  · rfl

theorem notifyTenant_counters (t v : Nat) : (notifyTenant s t v).counters = s.counters := by
  unfold notifyTenant
  split
  · exact sendMsix_counters _ _
  · exact logPlain_counters _ _ _

theorem raiseIbi_counters (kind : Nat) (payload : List Byte) : (raiseIbi s kind payload).counters = s.counters := by
  unfold raiseIbi
  split
  · rfl
  · rfl

theorem postRecord_counters (ch seq status detail tag flags : Nat) (payload : List Byte) :
    (postRecord s ch seq status detail tag flags payload).counters = s.counters := by
  unfold postRecord
  extract_lets c s1
  split
  · rfl
  · split
    · exact raiseIbi_counters _ _
    · exact notifyTenant_counters _ _

theorem postEventOn_counters (ch code : Nat) (payload : List Byte) : (postEventOn s ch code payload).counters = s.counters := by
  unfold postEventOn
  extract_lets c s1
  split
  · rfl
  · exact postRecord_counters _ _ _ _ _ _ _

theorem postEvent_counters (code unit a b : Nat) : (postEvent s code unit a b).counters = s.counters := by
  refine foldl_keeps State.counters (fun t ch => ?_) _ s
  split
  · exact postEventOn_counters _ _ _
  · rfl

theorem bumpBy_counters (unit off n : Nat) :
    (bumpBy s unit off n).counters = tset s.counters (counterKey unit off) (min (s.counter unit off + n) counterMax) := by
  unfold bumpBy
  extract_lets old new s1
  split
  · exact postEvent_counters _ _ _ _
  · rfl

/-- A counter below its maximum goes up by one, and no other counter changes. -/
theorem bump_counter {unit off : Nat} (h : s.counter unit off < counterMax) (v o : Nat) :
    (bump s unit off).counter v o = if counterKey v o = counterKey unit off then s.counter unit off + 1 else s.counter v o := by
  rw [State.counter, bump, bumpBy_counters, tget_tset, Nat.min_eq_left h]
  rfl

theorem bump_counter_other {unit off v o : Nat} (h : counterKey v o ≠ counterKey unit off) :
    (bump s unit off).counter v o = s.counter v o := by
  rw [State.counter, bump, bumpBy_counters, tget_tset, if_neg h]
  rfl

/-- Counters of several units, each advanced once. -/
theorem bumps_counter {f : Nat → Nat} {off : Nat} (hf : ∀ i j, counterKey (f i) off = counterKey (f j) off → i = j) (l : List Nat)
    (hl : l.Nodup) {k : Nat} (hk : k ∈ l) (h : s.counter (f k) off < counterMax) :
    (l.foldl (fun s i => bump s (f i) off) s).counter (f k) off = s.counter (f k) off + 1 := by
  have hother (l : List Nat) (hk : k ∉ l) (s : State) :
      (l.foldl (fun s i => bump s (f i) off) s).counter (f k) off = s.counter (f k) off := by
    induction l generalizing s with
    | nil => rfl
    | cons i l ih =>
      rw [List.mem_cons, not_or] at hk
      exact (ih hk.2 _).trans (bump_counter_other fun heq => hk.1 (hf _ _ heq))
  induction l generalizing s with
  | nil => cases hk
  | cons i l ih =>
    obtain ⟨hi, hl'⟩ := List.nodup_cons.mp hl
    rw [List.foldl_cons]
    by_cases hik : k = i
    · subst hik
      rw [hother l hi, bump_counter h, if_pos rfl]
    · have hstep : (bump s (f i) off).counter (f k) off = s.counter (f k) off := bump_counter_other fun heq => hik (hf _ _ heq)
      rw [ih hl' ((List.mem_cons.mp hk).resolve_left hik) (hstep ▸ h), hstep]

end

/-! ### A descriptor is read and nothing changes -/

section
variable {s t : State} {c desc : Nat}

theorem readsOnly_loadHeader {va : Nat} {p : Prog} (h : loadHeader s c va = .ok p t) : ReadsOnly s t := by
  unfold loadHeader at h
  split at h
  · cases h
  · split at h
    · cases h
    next b s1 hread =>
      split at h
      · cases h
        exact readsOnly_vread hread
      · cases h

theorem readsOnly_cutProg {va kib : Nat} {p : Prog} (h : cutProg s c desc va kib = .ok p t) : ReadsOnly s t := by
  unfold cutProg at h
  split at h
  · cases h
  · cases h
  next p s1 hload =>
    split at h
    · cases h
      exact readsOnly_loadHeader hload
    · cases h

theorem readsOnly_cutMoves {x : CutHdr} {first n : Nat} {ms : List Move} (h : cutMoves s c desc x first n = .ok ms t) : ReadsOnly s t := by
  unfold cutMoves at h
  split at h
  · cases h; exact .refl _
  · split at h
    · cases h
    · split at h
      · cases h
      next b s1 hread =>
        extract_lets raws at h
        split at h
        · cases h
          exact readsOnly_vread hread
        · cases h

theorem readsOnly_cutStages {x : CutHdr} {tbl : List Byte} {n i : Nat} {sts : List (Prog × List Move)}
    (h : cutStages c desc x tbl n i s = .ok sts t) : ReadsOnly s t := by
  induction n generalizing s i sts with
  | zero => cases h; exact .refl _
  | succ n ih =>
    unfold cutStages at h
    extract_lets raw at h
    split at h
    · cases h
    · split at h
      · cases h
      · cases h
      next ms s1 hmoves =>
        split at h
        · cases h
        · cases h
        next p s2 hprog =>
          split at h
          · cases h
          · cases h
          next r s3 hrest =>
            cases h
            exact ((readsOnly_cutMoves hmoves).trans (readsOnly_cutProg hprog)).trans (ih hrest)

theorem readsOnly_cutCombine {x : CutHdr} {p : Option Prog} (h : cutCombine s c desc x = .ok p t) : ReadsOnly s t := by
  unfold cutCombine at h
  split at h
  · cases h; exact .refl _
  · split at h
    · cases h
    · cases h
    next hprog =>
      cases h
      exact readsOnly_cutProg hprog

theorem readsOnly_cutStream {va : Nat} {w : Option Stream} (h : cutStream s c desc va = .ok w t) : ReadsOnly s t := by
  unfold cutStream at h
  split at h
  · cases h; exact .refl _
  · split at h
    · cases h
    next _ s1 hread =>
      extract_lets n st ok at h
      split at h
      · cases h
      · split at h
        · cases h
        next b s2 hread' =>
          extract_lets raws at h
          split at h
          · cases h
            exact (readsOnly_vread hread).trans (readsOnly_vread hread')
          · cases h

/-- A descriptor is read, and a pass that it gives belongs to no session yet. -/
theorem loadCut_reads {p : CutPass} (h : loadCut s c desc = .ok p t) :
    ReadsOnly s t ∧ p.session = none ∧ p.heritage = (s.ctx c).heritage ∧ p.folded = true := by
  unfold loadCut at h
  split at h
  · cases h
  next _ s1 hread1 =>
    extract_lets x her at h
    split at h
    · cases h
    · split at h
      · cases h
      next sb s2 hread2 =>
        extract_lets raw ok at h
        split at h
        · cases h
        · split at h
          · cases h
          next tb s3 hread3 =>
            split at h
            · cases h
            · cases h
            next sts s4 hstages =>
              split at h
              · cases h
              · cases h
              next cp s5 hcomb =>
                split at h
                · cases h
                · cases h
                next w s6 hstream =>
                  cases h
                  have h3 := ((readsOnly_vread hread1).trans (readsOnly_vread hread2)).trans (readsOnly_vread hread3)
                  exact ⟨((h3.trans (readsOnly_cutStages hstages)).trans (readsOnly_cutCombine hcomb)).trans (readsOnly_cutStream hstream),
                    rfl, rfl, rfl⟩

end

/-! ### The packet -/

section
variable {s s1 : State} {p : Pkt} {pass : CutPass}

/-- The map that a pass is bucked over. -/
def cutOrder (s : State) (heritage : Bool) : List Nat := unitOrder (s.maps.tensor.toNat &&& (if heritage then 0xFFFF else 2 ^ 48 - 1))

theorem frontFault_illegal (p : Pkt) (va d : Nat) : frontFault s p va (illegalFault d) =
    raise s ⟨(s.queue p.q).ctx, ⟨0x0004, d, 0, false, 0, 0⟩, 0xB1, 0xFF, false, p.q, va, p.tag.toNat⟩ := by
  unfold frontFault notePoison
  rw [if_neg (by simp [illegalFault, cIllegal, cEcc])]
  rfl

theorem cutFields_ok (hn : pField p 16 1 ≤ 48) (hz : pField p 17 15 = 0) : (decide (pField p 16 1 ≤ 48) && pZero p 17 32) = true := by
  simp [hn, pZero, hz]

/-- The state that a pass begins in. -/
def cutBegun (s : State) (p : Pkt) (pass : CutPass) : State :=
  bump (bump (startCmd { s with cuts := tset s.cuts s.nextCmd pass } p (newCmd s p .cut)) 0x9C 0x130) 0x9D 0x130

theorem exec_cut_begins (h : Fetches s p (2 + ceilDiv (pField p 16 1) 4) false)
    (hok : (decide (pField p 16 1 ≤ 48) && pZero p 17 32) = true)
    (hload : loadCut s (s.queue p.q).ctx (pField p 8 8) = .ok pass s1) (hpre : pass.preload ≤ pField p 16 1)
    (horder : cutOrder s pass.heritage ≠ []) (hsess : (s.queue p.q).session = none) :
    exec (.cut p) s = .next (cutBegun s1 p { pass.buck s1 with
      args := argWords p (pField p 16 1), session := none, folded := true }) := by
  obtain ⟨hreads, -, -, -⟩ := loadCut_reads hload
  have hord : (pass.buck s1).order ≠ [] := by
    show unitOrder (passMap s1 true pass.heritage) ≠ []
    rw [passMap, hreads.maps]
    exact horder
  rw [exec_cut, execCut, hok, fetchPacket_fetches h]
  dsimp only
  rw [hload]
  dsimp only
  rw [if_neg (Nat.not_lt.mpr hpre), hsess]
  dsimp only [Option.map_none]
  rw [if_neg hord]
  simp only [Option.isSome_none, Bool.and_false, Bool.not_false]
  rfl

theorem exec_cut_noArray (h : Fetches s p (2 + ceilDiv (pField p 16 1) 4) false)
    (hok : (decide (pField p 16 1 ≤ 48) && pZero p 17 32) = true)
    (hload : loadCut s (s.queue p.q).ctx (pField p 8 8) = .ok pass s1) (hpre : pass.preload ≤ pField p 16 1)
    (horder : cutOrder s pass.heritage = []) :
    exec (.cut p) s = .next (frontFault s1 p (pField p 8 8) (illegalFault dNoTensorUnit)) := by
  obtain ⟨hreads, -, -, -⟩ := loadCut_reads hload
  have hord : (pass.buck s1).order = [] := by
    show unitOrder (passMap s1 true pass.heritage) = []
    rw [passMap, hreads.maps]
    exact horder
  rw [exec_cut, execCut, hok, fetchPacket_fetches h]
  dsimp only
  rw [hload]
  dsimp only
  rw [if_neg (Nat.not_lt.mpr hpre), if_pos hord]

theorem exec_cut_bad (h : Fetches s p (2 + ceilDiv (pField p 16 1) 4) false)
    (hok : (decide (pField p 16 1 ≤ 48) && pZero p 17 32) = true) {va d : Nat}
    (hload : loadCut s (s.queue p.q).ctx (pField p 8 8) = .bad va d) :
    exec (.cut p) s = .next (frontFault s p va (illegalFault d)) := by
  rw [exec_cut, execCut, hok, fetchPacket_fetches h]
  dsimp only
  rw [hload]

theorem cutBegun_leaves (p : Pkt) (x : CutPass) : Consumed s (cutBegun s p x) p ∧ (cutBegun s p x).nextCmd = s.nextCmd + 1
    ∧ tget? (cutBegun s p x).cmds s.nextCmd = some (newCmd s p .cut) ∧ tget? (cutBegun s p x).cuts s.nextCmd = some x
    ∧ ∀ g, (cutBegun s p x).group g = s.group g := by
  obtain ⟨s2, hs2⟩ : ∃ s2, s2 = startCmd { s with cuts := tset s.cuts s.nextCmd x } p (newCmd s p .cut) := ⟨_, rfl⟩
  have hsays : Says s2 (cutBegun s p x) := by
    rw [hs2]
    exact (says_bump _ _ _).trans (says_bump _ _ _)
  obtain ⟨hq, hothers⟩ := startCmd_consumed { s with cuts := tset s.cuts s.nextCmd x } p (newCmd s p .cut)
  rw [← hs2] at hq hothers
  refine ⟨⟨?_, fun q hne => ?_⟩, ?_, ?_, ?_, fun g => ?_⟩
  · rw [State.queue, hsays.queues]
    exact hq
  · rw [State.queue, hsays.queues]
    exact hothers q hne
  · rw [show (cutBegun s p x).nextCmd = s2.nextCmd from (congrArg State.nextCmd hsays.rest :), hs2, startCmd_nextCmd]
  · rw [hsays.cmds, hs2, startCmd_cmd, if_pos rfl]
  · rw [hsays.cuts, hs2, startCmd, (consume_writesOnly _ _).cuts]
    exact (tget?_tset s.cuts _ _ _).trans (if_pos rfl)
  · rw [State.group, State.core, hsays.cores, hs2]
    exact startCmd_group _ _ _ _

end

/-! ### Completion, restart and the start of a weight stream -/

section
variable {s : State} {cmd : Nat} {p : CutPass}

theorem finishCmd_cuts (hcmd : (tget? s.cmds cmd).isSome = true) (k : Nat) :
    tget? (finishCmd s cmd).cuts k = if k = cmd then none else tget? s.cuts k := by
  obtain ⟨c, hc⟩ := Option.isSome_iff_exists.mp hcmd
  unfold finishCmd
  rw [hc]
  dsimp only
  rw [(writesOnly_report _ _).cuts]
  refine (tget?_tdrop s.cuts (· == cmd) k).trans ?_
  simp only [beq_iff_eq]

theorem storesOf_none (h : ∀ e ∈ s.cores, ∀ x ∈ e.2.stores, x.cmd ≠ cmd) : storesOf s cmd = false := by
  refine List.any_eq_false.mpr fun e he => ?_
  simpa using fun x hx => h e he x hx

theorem cutComplete_completes (hcut : tget? s.cuts cmd = some p) (hlive : (s.ctx (cmdOf s cmd).ctx).st = .live)
    (hgen : p.gen = s.maps.gen) (hdone : p.allDone = true) (hstream : p.streamDone = true) (hfold : p.folded = true)
    (hstores : ∀ e ∈ s.cores, ∀ x ∈ e.2.stores, x.cmd ≠ cmd) : cutComplete cmd s = finishCmd s cmd := by
  unfold cutComplete
  rw [hcut]
  exact if_pos ⟨hlive, hgen, hdone, hstream, hfold, by rw [storesOf_none hstores]; rfl⟩

/-- The state that a restart of a pass leaves, before its counters are advanced. -/
def cutRebuck (s : State) (cmd : Nat) (p : CutPass) : State :=
  { s with
    cores := tmap s.cores fun _ c => if c.holder = some cmd then c.dropHold else c
    sched := { s.sched with saved := s.sched.saved.filter fun e => e.cmd != cmd }
    cuts := tset s.cuts cmd p }

theorem exec_cutRestart_restarts (hcut : tget? s.cuts cmd = some p) (hlive : (s.ctx (cmdOf s cmd).ctx).st = .live)
    (hgen : p.gen ≠ s.maps.gen) (hidle : ∀ e ∈ s.cores, e.2.holder = some cmd → e.2.run = none) (hsess : p.session = none)
    (horder : cutOrder s p.heritage ≠ []) :
    exec (.cutRestart cmd) s = .next ((cutOrder s p.heritage).foldl (fun s k => bump s (uTensor k) 0x150)
      (cutRebuck s cmd { p.buck s with folded := true })) := by
  have hbusy : (s.cores.any fun e => e.2.holder == some cmd && e.2.run.isSome) = false := by
    refine List.any_eq_false.mpr fun e he => ?_
    simp only [Bool.and_eq_true, beq_iff_eq, not_and]
    intro hh
    rw [hidle e he hh]
    exact Bool.false_ne_true
  have hfolds : p.folds = false := by rw [CutPass.folds, hsess]; exact Bool.and_false _
  rw [exec_cutRestart, execCutRestart, hcut]
  dsimp only
  rw [if_neg (by rw [hbusy]; simp [hlive, hgen]), hfolds, restartFold, hsess]
  dsimp only [Bool.not_false]
  rw [if_neg (show (p.buck s).order ≠ [] from horder), show (p.buck s).session = none from hsess]
  rfl

theorem cutRebuck_core (k : Nat) : ((cutRebuck s cmd p).core k).holder ≠ some cmd := by
  have hc : (cutRebuck s cmd p).core k = if (s.core k).holder = some cmd then (s.core k).dropHold else s.core k :=
    tget_tmap s.cores (fun _ c => if c.holder = some cmd then c.dropHold else c) k .reset rfl
  rw [hc]
  split
  · exact nofun
  next h => exact h

theorem exec_weightStreamStart_starts {w : Stream} (hcut : tget? s.cuts cmd = some p) (hlive : (s.ctx (cmdOf s cmd).ctx).st = .live)
    (hstream : p.stream = some w) (hstart : w.started = false)
    (hclear : ∀ e ∈ s.cuts, e.1 < cmd → (cmdOf s e.1).queue = (cmdOf s cmd).queue → ∀ v, e.2.stream = some v →
      v.staging + v.stagingBytes ≤ w.staging ∨ w.staging + w.stagingBytes ≤ v.staging) :
    exec (.weightStreamStart cmd) s = .next { s with cuts := tset s.cuts cmd { p with stream := some { w with started := true } } } := by
  rw [exec_weightStreamStart, execWeightStreamStart, hcut]
  dsimp only
  rw [hstream]
  refine if_neg ?_
  rintro (hdead | hblocked | hs)
  · exact hdead hlive
  · obtain ⟨e, he, hmeet⟩ := List.any_eq_true.mp hblocked
    simp only [Bool.and_eq_true, beq_iff_eq, decide_eq_true_eq] at hmeet
    obtain ⟨⟨hlt, hq⟩, hmeet⟩ := hmeet
    split at hmeet
    next v hv =>
      have hout := hclear e he hlt hq v hv
      simp only [rangesMeet, decide_eq_true_eq] at hmeet
      omega
    · cases hmeet
  · rw [hstart] at hs
    cases hs

end

/-! ### The places of slabs -/

/-- A grid read row by row: the element at column `x` of row `y`. -/
theorem getElem?_grid {α : Type} (f : Nat → Nat → α) (rows cols : Nat) {y x : Nat} (hy : y < rows) (hx : x < cols) :
    ((List.range rows).flatMap fun y => (List.range cols).map (f y))[y * cols + x]? = some (f y x) := by
  induction rows with
  | zero => cases hy
  | succ n ih =>
    have hlen (m : Nat) : ((List.range m).flatMap fun y => (List.range cols).map (f y)).length = m * cols := by
      simp [List.length_flatMap]
    rw [List.range_succ, List.flatMap_append]
    rcases Nat.lt_succ_iff_lt_or_eq.mp hy with h | rfl
    · have hin : y * cols + x < n * cols := by
        calc y * cols + x < y * cols + cols := Nat.add_lt_add_left hx _
          _ = (y + 1) * cols := (Nat.succ_mul _ _).symm
          _ ≤ n * cols := Nat.mul_le_mul_right _ h
      rw [List.getElem?_append_left (by rw [hlen]; exact hin)]
      exact ih h
    · rw [List.getElem?_append_right (by rw [hlen]; exact Nat.le_add_right _ _), hlen, Nat.add_sub_cancel_left]
      simp [hx]

section
variable {b : Slab} {h : CutHdr}

/-- The address of a stored position, with its column and row put inside the extent. -/
theorem posVa_eq (hx : 1 ≤ b.extX) (hy : 1 ≤ b.extY) (x y : Int) : b.posVa x y =
    if (0 ≤ x ∧ x < b.extX ∧ 0 ≤ y ∧ y < b.extY) ∨ b.pad ≠ 0 then
      some (b.va + (if y < 0 then 0 else if (b.extY : Int) ≤ y then b.extY - 1 else y.toNat) * b.rowPitch
        + (if x < 0 then 0 else if (b.extX : Int) ≤ x then b.extX - 1 else x.toNat) * b.pixelPitch)
    else none := by
  have hclamp (e : Nat) (he : 1 ≤ e) (z : Int) :
      (max 0 (min z ((e : Int) - 1))).toNat = if z < 0 then 0 else if (e : Int) ≤ z then e - 1 else z.toNat := by
    split
    · omega
    · split
      · omega
      · omega
  unfold Slab.posVa
  extract_lets inside cx cy
  have hcx : cx = _ := hclamp b.extX hx x
  have hcy : cy = _ := hclamp b.extY hy y
  rw [hcx, hcy]
  by_cases hin : 0 ≤ x ∧ x < b.extX ∧ 0 ≤ y ∧ y < b.extY
  · have hi : inside = true := decide_eq_true hin
    rw [hi]
    exact (if_neg Bool.false_ne_true).trans (if_pos (Or.inl hin)).symm
  · have hi : inside = false := decide_eq_false hin
    rw [hi]
    by_cases hp : b.pad = 0
    · rw [if_neg (not_or.mpr ⟨hin, not_not.mpr hp⟩), hp]
      rfl
    · refine (if_neg ?_).trans (if_pos (Or.inr hp)).symm
      simpa using hp

/-- A list of numbers read as integers. -/
theorem casts_eq (l : List Nat) : (do let a ← l; pure (a : Int)) = l.map fun a : Nat => (a : Int) := List.map_eq_flatMap.symm

/-- What a gathered slab (mode 1) reads for a stored position. -/
theorem reads_gather (hm : b.mode = 1) (gx gy t0 : Nat) {xr yr : Nat} (hx : xr < b.resRow) (hy : yr < b.rows h) :
    (b.reads h gx gy t0)[yr * b.resRow + xr]? = some (if xr < h.tileX * 2 ^ b.stride + 2 * h.haloX then
      b.posVa (((gx * h.tileX * 2 ^ b.stride : Nat) : Int) - h.haloX + xr) (((gy * h.tileY * 2 ^ b.stride : Nat) : Int) - h.haloY + yr)
      else none, b.channels * b.elem) := by
  unfold Slab.reads
  rw [if_neg (by rw [hm]; decide)]
  extract_lets xa ya n taps
  have htaps : taps = 1 := if_neg (by rw [hm]; decide)
  have hwidth : b.width h = h.tileX * 2 ^ b.stride + 2 * h.haloX := if_pos hm
  have hcell (xr yr : Nat) : (((List.range taps).map fun a : Nat => (a : Int)).map fun k =>
      if xr < b.width h then (b.posVa (xa + xr + k) (ya + yr), n) else (none, n)) =
      [(if xr < h.tileX * 2 ^ b.stride + 2 * h.haloX then b.posVa (xa + xr) (ya + yr) else none, n)] := by
    rw [htaps, hwidth, List.range_one, List.map_singleton, List.map_singleton]
    split
    · rw [Int.natCast_zero, Int.add_zero]
    · rfl
  simp only [casts_eq, List.flatMap_map, hcell, ← List.map_eq_flatMap]
  exact getElem?_grid (fun yr xr => (if xr < h.tileX * 2 ^ b.stride + 2 * h.haloX then b.posVa (xa + xr) (ya + yr) else none, n)) _ _ hy hx

/-- The runs of a scattered slab. -/
theorem mem_runs (hm : b.mode ≠ 0) (gx gy gz t0 a : Nat) (offs : List Nat) : (a, offs) ∈ b.runs h gx gy gz t0 ↔
    ∃ xr yr, xr < h.tileX ∧ yr < h.tileY ∧ gx * h.tileX + xr < h.outX ∧ gy * h.tileY + yr < h.outY
      ∧ a = b.va + (gy * h.tileY + yr) * b.rowPitch + (gx * h.tileX + xr) * b.pixelPitch + gz * h.tileZ * b.elem
      ∧ offs = (List.range (min b.channels (h.outZ - gz * h.tileZ))).flatMap fun c => (List.range b.elem).map fun i =>
          if b.mode = 3 then b.resOff + (yr * b.resRow + xr) * b.channels * b.elem + c * b.elem + i
          else b.resOff + ((yr * b.resRow + xr) / 32 * (b.channels / 32) + c / 32) * 1024 * b.elem
            + (yr * b.resRow + xr) % 32 * 32 * b.elem + c % 32 * b.elem + i := by
  unfold Slab.runs
  rw [if_neg hm]
  extract_lets ch
  simp only [List.mem_flatMap, List.mem_range]
  constructor
  · rintro ⟨yr, hy, xr, hx, hmem⟩
    split at hmem
    · cases hmem
    next hin =>
      rw [not_or] at hin
      obtain ⟨rfl, rfl⟩ := Prod.mk.inj (List.mem_singleton.mp hmem)
      exact ⟨xr, yr, hx, hy, Nat.not_le.mp hin.1, Nat.not_le.mp hin.2, rfl, rfl⟩
  · rintro ⟨xr, yr, hx, hy, hox, hoy, rfl, rfl⟩
    refine ⟨yr, hy, xr, hx, ?_⟩
    rw [if_neg (not_or.mpr ⟨Nat.not_le.mpr hox, Nat.not_le.mpr hoy⟩)]
    exact List.mem_singleton.mpr rfl

end

/-- Settles O26: the packet and the end of a pass by the lemmas above, its restart with the counters of `bumps_counter`, and
the places of a slab as elements of a grid. -/
theorem cutCommands : Obligations.CutCommands := by
  unfold Obligations.CutCommands
  refine ⟨fun p s s1 pass => ?_, fun cmd s p hcut hlive => ?_, ?_⟩
  · intro q n desc order h hn hz
    have hok := cutFields_ok hn hz
    refine ⟨fun hload hpre horder hsess => ?_, fun hload hpre horder => ?_, fun va d hload => ?_⟩
    · obtain ⟨hreads, hsession, -, hfolded⟩ := loadCut_reads hload
      obtain ⟨⟨hq, hothers⟩, hnext, hcmd, hcuts, hgroups⟩ :=
        cutBegun_leaves (s := s1) p { pass.buck s1 with args := argWords p n, session := none, folded := true }
      rw [hreads.nextCmd] at hnext hcmd hcuts
      rw [hreads.queue] at hq
      refine ⟨_, exec_cut_begins h hok hload hpre horder hsess, ⟨hq, fun j hj => (hothers j hj).trans (hreads.queue j)⟩, hnext, ?_, ?_,
        fun g => (hgroups g).trans (hreads.group g)⟩
      · rw [hcmd]
        simp only [Option.map_some, newCmd, Cmd.base, hreads.queue]
        rfl
      · rw [hcuts]
        simp only [CutPass.buck, passMap, hreads.maps]
        rfl
    · obtain ⟨hreads, -, -, -⟩ := loadCut_reads hload
      rw [exec_cut_noArray h hok hload hpre horder, frontFault_illegal, hreads.queue]
      rfl
    · rw [exec_cut_bad h hok hload, frontFault_illegal]
  · refine ⟨fun hgen hdone hstream hfold hstores hcmd => ?_, fun hgen hidle hsess => ?_, fun w hstream hstart hclear => ?_⟩
    · have hends := cutComplete_completes hcut hlive hgen hdone hstream hfold hstores
      refine ⟨finishCmd s cmd, ?_, (finishCmd_leaves _ _ _).trans (if_pos rfl), (finishCmd_cuts hcmd _).trans (if_pos rfl), fun k hk => ?_⟩
      · rw [exec_cutComplete, execCutComplete, hends]
      · exact ⟨(finishCmd_leaves _ _ _).trans (if_neg hk), (finishCmd_cuts hcmd _).trans (if_neg hk)⟩
    · intro order horder
      obtain ⟨u, hu⟩ : ∃ u, u = order.foldl (fun s k => bump s (uTensor k) 0x150) (cutRebuck s cmd { p.buck s with folded := true }) :=
        ⟨_, rfl⟩
      have hsays : Says (cutRebuck s cmd { p.buck s with folded := true }) u := by
        rw [hu]
        exact .foldl (fun _ _ => says_bump _ _ _) _ _
      refine ⟨u, ?_, ?_, fun k => ?_, fun e he => ?_, fun k hk hmax => ?_⟩
      · rw [exec_cutRestart_restarts hcut hlive hgen hidle hsess horder, hu]
        rfl
      · rw [hsays.cuts]
        exact (tget?_tset s.cuts _ _ _).trans (if_pos rfl)
      · rw [State.core, hsays.cores]
        exact cutRebuck_core k
      · rw [show u.sched = _ from (congrArg State.sched hsays.rest :)] at he
        simpa using (List.mem_filter.mp he).2
      · have hkeys (i j : Nat) (h : counterKey (uTensor i) 0x150 = counterKey (uTensor j) 0x150) : i = j := by
          simp only [counterKey, uTensor] at h
          omega
        rw [hu]
        exact bumps_counter hkeys order (unitOrder_nodup _) hk hmax
    · exact ⟨_, exec_weightStreamStart_starts hcut hlive hstream hstart hclear, (tget?_tset _ _ _ _).trans (if_pos rfl), rfl,
        fun k hk => (tget?_tset _ _ _ _).trans (if_neg hk)⟩
  · refine ⟨fun b h gx gy t0 xr yr hm hx hy hex hey => ?_, fun b h gx gy gz t0 a offs hm _ => ?_, fun b h gx gy gz t0 hm => ?_⟩
    · intro x y cx cy inside
      rw [reads_gather hm gx gy t0 hx hy, posVa_eq hex hey]
      by_cases hw : xr < h.tileX * 2 ^ b.stride + 2 * h.haloX
      · simp only [hw, true_and, if_true]
        rfl
      · simp only [hw, false_and, if_false]
    · exact mem_runs (by rcases hm with hm | hm <;> rw [hm] <;> decide) gx gy gz t0 a offs
    · exact ⟨if_pos hm, if_pos hm⟩

end Sys2Proof.Proofs

/-! Dispatches: the packet, the next workgroup on a core, and completion. -/

namespace Sys2Proof.Proofs

open Sys2Proof.Machine

/-! ### The packet -/

section
variable {s s1 : State} {p : Pkt} {pr : Prog}

theorem descFault_eq (p : Pkt) (va d : Nat) : descFault s p va d =
    raise s ⟨(s.queue p.q).ctx, ⟨0x0004, d, 0, false, 0, 0⟩, 0xB1, 0xFF, false, p.q, va, p.tag.toNat⟩ := rfl

/-- The command that a DISPATCH packet starts. -/
def dispatchCmd (s : State) (p : Pkt) (pr : Prog) : Cmd := { newCmd s p .dispatch with
  prog := pr, gridX := pField p 16 4, gridY := pField p 20 4, gridZ := pField p 24 4, args := argWords p (pField p 28 1) }

theorem exec_dispatch_starts (h : Fetches s p (2 + ceilDiv (pField p 28 1) 4) false) (hok : dispatchOk p = true)
    (hload : loadHeader s (s.queue p.q).ctx (pField p 8 8) = .ok pr s1) (hkind : pr.kind = 0) (hpre : pr.preload ≤ pField p 28 1)
    (hunit : noUnit s1 (s.ctx (s.queue p.q).ctx).heritage pr.tensor = none) :
    exec (.dispatch p) s = .next (startCmd s1 p (dispatchCmd s1 p pr)) := by
  rw [exec_dispatch, execDispatch, hok, fetchPacket_fetches h]
  dsimp only
  rw [hload]
  dsimp only
  rw [if_neg (not_not.mpr hkind), if_neg (Nat.not_lt.mpr hpre), hunit]
  rfl

theorem exec_dispatch_bad (h : Fetches s p (2 + ceilDiv (pField p 28 1) 4) false) (hok : dispatchOk p = true)
    (hload : loadHeader s (s.queue p.q).ctx (pField p 8 8) = .bad) :
    exec (.dispatch p) s = .next (descFault s p (pField p 8 8) dBadHeader) := by
  rw [exec_dispatch, execDispatch, hok, fetchPacket_fetches h]
  dsimp only
  rw [hload]

/-! ### Completion -/

theorem exec_commandComplete_dispatch {cmd : Nat} {c : Cmd} (hcmd : tget? s.cmds cmd = some c) (hkind : c.kind = .dispatch)
    (hdone : c.doneWgs = c.total) (hlive : (s.ctx c.ctx).st = .live) (hstores : ∀ e ∈ s.cores, ∀ x ∈ e.2.stores, x.cmd ≠ cmd) :
    exec (.commandComplete cmd) s = .next (serveGraphs (finishCmd s cmd)) := by
  have hwork : (workDone s cmd c && (s.ctx c.ctx).st == .live) = true := by
    unfold workDone
    rw [hkind]
    simp [hdone, storesOf_none hstores, hlive]
  rw [exec_commandComplete, execCommandComplete, commandComplete, hcmd]
  dsimp only
  rw [if_pos hwork]

theorem finishCmd_group (id : Nat) (g : GroupAt) : (finishCmd s id).group g = s.group g := by
  unfold finishCmd
  split
  · rfl
  · exact (writesOnly_report _ _).group g

end

/-! ### The next workgroup -/

/-- Slots that are placed: as many as asked for, none of them in use, no one twice. -/
theorem placeSlots_places {n b : Nat} {used blocks slots : List Nat} (h : placeSlots n b used blocks = some slots) :
    slots.length = n ∧ slots.Nodup ∧ ∀ k ∈ slots, k ∉ used := by
  induction n generalizing used blocks slots with
  | zero => cases h; exact ⟨rfl, List.nodup_nil, nofun⟩
  | succ n ih =>
    unfold placeSlots at h
    split at h
    · cases h
    next p _ =>
      split at h
      · cases h
      next i hi =>
        obtain ⟨rest, hrest, rfl⟩ := Option.map_eq_some_iff.mp h
        obtain ⟨hlen, hnodup, hnew⟩ := ih hrest
        have hfree : 16 * p + i ∉ used := by simpa using List.find?_some hi
        refine ⟨by rw [List.length_cons, hlen], List.nodup_cons.mpr ⟨fun hmem => hnew _ hmem (.head _), hnodup⟩, fun k hk => ?_⟩
        rcases List.mem_cons.mp hk with rfl | hk
        · exact hfree
        · exact fun hu => hnew k hk (.tail _ hu)

theorem placement_places {c : Core} {p : Prog} {kib n slot : Nat} {slots : List Nat} (h : c.placement p kib n = some (slot, slots)) :
    slots.length = n ∧ slots.Nodup := by
  unfold Core.placement at h
  split at h
  · cases h
  · split at h
    · cases h
    · obtain ⟨l, hl, heq⟩ := Option.map_eq_some_iff.mp h
      cases heq
      obtain ⟨hlen, hnodup, -⟩ := placeSlots_places hl
      exact ⟨hlen, hnodup⟩

/-- Groups written into their slots of a core. -/
def setGroups (slot : Nat) (c : Core) (es : List (Nat × Group)) : Core :=
  es.foldl (fun c e => c.setGroup e.1 { e.2 with live := true, wg := slot }) c

theorem setGroups_wgAt (slot : Nat) (c : Core) (es : List (Nat × Group)) (k : Nat) : (setGroups slot c es).wgAt k = c.wgAt k := by
  induction es generalizing c with
  | nil => rfl
  | cons e es ih => exact (ih _).trans (Core.wgAt_setGroup _ _ _ _)

theorem setGroups_group_other (slot : Nat) (c : Core) (es : List (Nat × Group)) {k : Nat} (h : k ∉ es.map Prod.fst) :
    (setGroups slot c es).group k = c.group k := by
  induction es generalizing c with
  | nil => rfl
  | cons e es ih =>
    rw [List.map_cons, List.mem_cons, not_or] at h
    exact (ih _ h.2).trans ((Core.group_setGroup _ _ _ _).trans (if_neg h.1))

theorem setGroups_group (slot : Nat) (c : Core) {slots : List Nat} {gs : List Group} (hnodup : slots.Nodup) {i k : Nat} {x : Group}
    (hk : slots[i]? = some k) (hx : gs[i]? = some x) :
    (setGroups slot c (slots.zip gs)).group k = { x with live := true, wg := slot } := by
  induction slots generalizing c gs i with
  | nil => cases hk
  | cons j slots ih =>
    cases gs with
    | nil => cases hx
    | cons y gs =>
      obtain ⟨hj, hrest⟩ := List.nodup_cons.mp hnodup
      cases i with
      | zero =>
        cases hk
        cases hx
        have hout : k ∉ (slots.zip gs).map Prod.fst := fun hm => by
          obtain ⟨e, he, rfl⟩ := List.mem_map.mp hm
          exact hj (List.of_mem_zip he).1
        exact (setGroups_group_other slot _ _ hout).trans ((Core.group_setGroup _ _ _ _).trans (if_pos rfl))
      | succ i => exact ih _ hrest hk hx

theorem setGroups_groups (slot : Nat) (c : Core) (es : List (Nat × Group)) : (setGroups slot c es) =
    { c with groups := (setGroups slot c es).groups } := by
  induction es generalizing c with
  | nil => rfl
  | cons e es ih => exact ih _

/-- A core that takes a workgroup: the workgroup in its slot, each group in its own. -/
theorem takeIn_takes {c : Core} {w : Wg} {gs : List Group} {slot : Nat} {slots : List Nat}
    (h : c.placement w.prog w.needKib gs.length = some (slot, slots)) :
    ∃ t, c.takeIn w gs = some t ∧ t.wgAt slot = { w with live := true }
      ∧ ∀ (i k : Nat) (x : Group), slots[i]? = some k → gs[i]? = some x → t.group k = { x with live := true, wg := slot } := by
  obtain ⟨-, hnodup⟩ := placement_places h
  refine ⟨setGroups slot (c.setWg slot { w with live := true }) (slots.zip gs), ?_, ?_, fun i k x hk hx => ?_⟩
  · rw [Core.takeIn, h]
    rfl
  · rw [setGroups_wgAt, Core.wgAt_setWg, if_pos rfl]
  · exact setGroups_group slot _ hnodup hk hx

theorem newGroups_getElem? {ctx : Nat} {p : Prog} {args : List Word} {async : Bool} {threads i : Nat} (h : i < ceilDiv threads 32) :
    (newGroups ctx p args async threads)[i]? = some (newGroup ctx p args async threads i) := by
  rw [newGroups, List.getElem?_map, List.getElem?_range h]
  rfl

/-- The uniform registers that a launch preloads. -/
theorem newGroup_uget (ctx : Nat) (p : Prog) (args : List Word) (async : Bool) (threads i r : Nat) :
    (newGroup ctx p args async threads i).uget r = if r < p.preload then args.getD r 0 else 0 := by
  have hfold (n : Nat) : tget ((List.range n).foldl (fun t k => tset t k (args.getD k 0)) []) r 0 = if r < n then args.getD r 0 else 0 := by
    induction n with
    | zero => rfl
    | succ n ih =>
      rw [List.range_succ, List.foldl_append]
      refine (tget_tset _ _ _ _ _).trans ?_
      split
      next hr => rw [hr, if_pos (Nat.lt_succ_self n)]
      next hr => rw [ih]; exact if_congr (by omega) rfl rfl
  exact hfold p.preload

theorem incBlock_core (s : State) (c off k : Nat) :
    ((incBlock s c off).core k).wgs = (s.core k).wgs ∧ ((incBlock s c off).core k).groups = (s.core k).groups := by
  have hw := (writesOnly_setBlock s c off 4 (min (blockNat s c off 4 + 1) 0xFFFFFFFF)).core k
  exact ⟨(congrArg Core.wgs hw :), (congrArg Core.groups hw :)⟩

/-- Noting a boost writes a counter of the context's status block and marks the command, no more. -/
theorem noteBoost_core (s : State) (id k : Nat) :
    ((noteBoost s id).core k).wgs = (s.core k).wgs ∧ ((noteBoost s id).core k).groups = (s.core k).groups := by
  unfold noteBoost
  split
  · exact ⟨rfl, rfl⟩
  · split
    · exact incBlock_core _ _ _ _
    · exact ⟨rfl, rfl⟩

theorem noteBoost_nextWg (s : State) (id : Nat) :
    (tget? (noteBoost s id).cmds id).map Cmd.nextWg = (tget? s.cmds id).map Cmd.nextWg := by
  unfold noteBoost
  split
  · rfl
  next c hc =>
    split
    · have hcmds : (incBlock { s with cmds := tset s.cmds id { c with boosted := true } } c.ctx 88).cmds =
          tset s.cmds id { c with boosted := true } := (writesOnly_setBlock _ _ _ _ _).cmds
      rw [hcmds, tget?_tset, if_pos rfl, hc]
      rfl
    · rfl

section
variable {s : State} {cmd k : Nat} {c : Cmd}

/-- The workgroup that a dispatch starts next. -/
def nextWg (s : State) (cmd : Nat) (c : Cmd) : Wg := { Wg.empty with
  live := true, ctx := c.ctx, cmd := cmd, prog := c.prog, threads := c.prog.threads, mapGen := c.mapGen
  idX := c.nextWg % c.gridX, idY := c.nextWg / c.gridX % c.gridY, idZ := c.nextWg / (c.gridX * c.gridY)
  scratchKib := c.prog.scratchKib, scratch := .free s.freeTick }

/-- A core that may take the next workgroup of a dispatch has a place for it. -/
theorem mayTake_placement (hcmd : tget? s.cmds cmd = some c) (hkind : c.kind = .dispatch) (h : mayTake s cmd k = true) :
    ((s.core k).placement c.prog c.prog.scratchKib (ceilDiv c.prog.threads 32)).isSome = true := by
  have hof : cmdOf s cmd = c := by rw [cmdOf, tget_eq, hcmd]; rfl
  unfold mayTake at h
  obtain ⟨n, hn, hfits⟩ := List.any_eq_true.mp ((Bool.and_eq_true _ _).mp h).1
  unfold needsAt at hn
  rw [hof] at hn
  dsimp only at hn
  rw [hkind] at hn
  dsimp only at hn
  split at hn
  · cases hn
  · split at hn
    · rw [List.mem_singleton.mp hn] at hfits
      exact ((Bool.and_eq_true _ _).mp hfits).1
    · cases hn

/-- The state with the workgroup on its core, before the boost of its queue is noted. -/
def wgPlaced (s : State) (cmd k : Nat) (c : Cmd) (core : Core) : State :=
  { (nameWg s).setCore k core with cmds := tset s.cmds cmd { c with nextWg := c.nextWg + 1 }, freeTick := s.freeTick + 1 }

theorem exec_workgroupResident_places (hcmd : tget? s.cmds cmd = some c) (hkind : c.kind = .dispatch) (hnext : c.nextWg < c.total)
    (hlive : (s.ctx c.ctx).st = .live) (hfirst : firstBelow 48 (mayTake s cmd) = some k) {core : Core}
    (htake : (s.core k).takeNew s.sched.nextWid (nextWg s cmd c) (newGroups c.ctx c.prog c.args true c.prog.threads) = some core) :
    exec (.workgroupResident cmd) s = .next (noteBoost (wgPlaced s cmd k c core) cmd) := by
  rw [exec_workgroupResident, execWorkgroupResident, hcmd]
  dsimp only [Option.map_some]
  rw [hkind]
  dsimp only
  unfold dispatchResident
  rw [hcmd]
  dsimp only
  rw [if_neg (by simp [hkind, hnext, hlive]), hfirst]
  dsimp only
  unfold nextWg at htake
  rw [htake]
  rfl

end

/-- Settles O23: the packet by `exec_dispatch_starts`, completion by `finishCmd`, and the next workgroup by `takeIn_takes`, from
which its slots, its name and its groups are read off. -/
theorem dispatches : Obligations.Dispatches := by
  unfold Obligations.Dispatches
  refine ⟨fun p s s1 pr => ?_, fun cmd k s c => ?_, fun cmd s c hcmd hkind hdone hlive hstores => ?_⟩
  · intro q n h hok
    refine ⟨fun hload hkind hpre hunit => ?_, fun hload => ?_⟩
    · have hreads := readsOnly_loadHeader hload
      obtain ⟨hq, hothers⟩ := startCmd_consumed s1 p (dispatchCmd s1 p pr)
      rw [hreads.queue] at hq
      refine ⟨_, exec_dispatch_starts h hok hload hkind hpre hunit, ⟨hq, fun j hj => (hothers j hj).trans (hreads.queue j)⟩,
        (startCmd_nextCmd _ _ _).trans (by rw [hreads.nextCmd]), ?_, fun k hk => ?_, fun g => (startCmd_group _ _ _ _).trans (hreads.group g)⟩
      · rw [startCmd_cmd, hreads.nextCmd, if_pos rfl]
        simp only [dispatchCmd, newCmd, nextIndex, hreads.queue, hreads.maps]
        rfl
      · rw [startCmd_cmd, hreads.nextCmd, if_neg hk, hreads.cmds]
    · rw [exec_dispatch_bad h hok hload, descFault_eq]
      rfl
  · intro pl w hcmd hkind hnext hlive hfirst
    have hmay : mayTake s cmd k = true := List.find?_some hfirst
    obtain ⟨⟨slot, slots⟩, hpl⟩ := Option.isSome_iff_exists.mp (mayTake_placement hcmd hkind hmay)
    have hlen : (newGroups c.ctx c.prog c.args true c.prog.threads).length = ceilDiv c.prog.threads 32 := by
      rw [newGroups, List.length_map, List.length_range]
    obtain ⟨core, htake, hwg, hgroups⟩ := takeIn_takes (c := s.core k) (w := { nextWg s cmd c with wid := s.sched.nextWid })
      (gs := (newGroups c.ctx c.prog c.args true c.prog.threads).map fun g => { g with gid := 32 * s.sched.nextWid + g.idx })
      (slot := slot) (slots := slots) (by rw [List.length_map, hlen]; exact hpl)
    have hcore (j : Nat) : (wgPlaced s cmd k c core).core j = if j = k then core else s.core j := State.setCore_core _ _ _ _
    refine ⟨_, exec_workgroupResident_places hcmd hkind hnext hlive hfirst htake, slot, slots, hpl, ?_, ?_, fun i gs hi => ?_,
      fun j hj => ?_⟩
    · rw [Core.wgAt, (noteBoost_core _ _ _).1, hcore, if_pos rfl]
      exact hwg
    · rw [noteBoost_nextWg]
      exact congrArg _ ((tget?_tset _ _ _ _).trans (if_pos rfl))
    · have hin : i < ceilDiv c.prog.threads 32 := by
        rw [← (placement_places hpl).1]
        exact (List.getElem?_eq_some_iff.mp hi).1
      have hx := hgroups i gs _ hi (by rw [List.getElem?_map, newGroups_getElem? hin]; rfl)
      have hgroup : (noteBoost (wgPlaced s cmd k c core) cmd).group (slotAt k gs) = core.group gs := by
        show tget ((noteBoost (wgPlaced s cmd k c core) cmd).core k).groups gs Group.empty = _
        rw [(noteBoost_core _ _ _).2, hcore, if_pos rfl]
        rfl
      intro x
      have hx' : x = _ := hgroup.trans hx
      rw [hx']
      exact ⟨rfl, rfl, rfl, rfl, rfl, rfl, rfl, rfl, fun l hl => inMask_maskOf _ hl, rfl,
        fun r => newGroup_uget c.ctx c.prog c.args true c.prog.threads i r, rfl, rfl⟩
    · rw [(noteBoost_core _ _ _).2, hcore, if_neg hj]
  · exact ⟨_, exec_commandComplete_dispatch hcmd hkind hdone hlive hstores, (finishCmd_leaves _ _ _).trans (if_pos rfl),
      fun k hk => (finishCmd_leaves _ _ _).trans (if_neg hk), (finishCmd_keeps _ _).2, finishCmd_fences _ _, finishCmd_group _⟩

end Sys2Proof.Proofs

/-! O40 fails: the fault of saved work that cannot be restored is that of the context of the work's command, and nothing says
that a saved piece and its command are of one context. -/

namespace Sys2Proof.Proofs

open Sys2Proof.Machine

/-- A saved piece of context 1, whose command, number 7, is no longer there. -/
def orphanPiece : Saved :=
  { frame := 0, slot := 0, off := 0, core := 0, cmd := 7, ctx := 1, wgs := [], tq := [], holds := false, tile := .empty
    reserved := 0, holdKib := 0, scratch := .empty, run := none, raster := none, doubles := [], odd := false, ahead := []
    weights := none }

/-- The piece in its save frame, whose control record has a poisoned word; context 1 is LIVE and core 0 may take the piece. -/
def orphanSaved : State :=
  { State.reset with
    maps := { State.reset.maps with core := 1 }
    power := { State.reset.power with on := [0] }
    ctxs := [(1, { Ctx.free with st := .live })]
    mem := { State.reset.mem with poison := [frameBase State.reset 0 / 8] }
    sched := { State.reset.sched with saved := [orphanPiece] } }

/-- Refutes O40: the restore faults context 0, to which a command that is not there is counted, and context 1 stays LIVE. -/
theorem not_scheduling : ¬ Obligations.Scheduling := by
  unfold Obligations.Scheduling
  intro h
  obtain ⟨⟨-, -, -, hrestore⟩, -⟩ := h
  have hpiece : orphanSaved.sched.saved[0]? = some orphanPiece := rfl
  have hto : restoreTo orphanSaved orphanPiece = some 0 := by decide +kernel
  have hon : (restoreOn (orphanSaved.core 0) orphanPiece).isSome = true := by decide +kernel
  obtain ⟨c, hc⟩ := Option.isSome_iff_exists.mp hon
  have hothers : ∀ j x, j ≠ 0 → orphanSaved.sched.saved[j]? = some x → x.frame ≠ orphanPiece.frame := by
    intro j x hj hx
    cases j with
    | zero => exact absurd rfl hj
    | succ j => cases hx
  have hends := ((hrestore 0 orphanSaved orphanPiece hpiece).2 0 c hto hc hothers).2 (by decide +kernel) (by decide +kernel)
  rw [answers_iff] at hends
  have hlive : ((stateAfter (exec (.restoreComplete 0) orphanSaved) orphanSaved).ctx 1).st = .live := by decide +kernel
  exact absurd (hlive.symm.trans hends.1) (by decide)

end Sys2Proof.Proofs

/-! O52 fails: what follows from an error that a scrub finds may evict lines whose bad words fill the ring of error records, and
the record of the error itself is then overwritten. -/

namespace Sys2Proof.Proofs

open Sys2Proof.Machine

/-- A group of context 0 that waits on fence 0 for the value 1. -/
def fenceWaiter : Group := { Group.empty with live := true, ctx := 0, wait := .fence 0 1 none 0 }

/-- Context 0 is LIVE with its status block at the start of DRAM. The line that its counters lie in has one way, which a dirty
line with 256 bad words holds. -/
def fullRing : State :=
  { State.reset with
    boot := { State.reset.boot with dramInstalled := 2 ^ 30 }
    cfg := { State.reset.cfg with streamWays := 15 }
    cores := [(0, { Core.reset with groups := [(0, fenceWaiter)] })]
    ctxs := [(0, { Ctx.free with st := .live, statObj := 0, statGen := 1, statOff := 0 })]
    objs := [(0, { Obj.reset with st := .live, size := 4096 })]
    fences := [(0, { Fence.reset with st := .live })]
    mem := { State.reset.mem with cache := [⟨32777, 15, true⟩], poison := List.replicate 256 (32777 * 16) } }

/-- A line put in the cache in place of another. -/
def lineReplaced (s : State) (ln : Nat) (e : CLine) : State :=
  let t := evictLine { s with freeTick := s.freeTick + 1 } e
  t.setMem { t.mem with cache := ⟨ln, e.way, true⟩ :: t.mem.cache }

/-- The only line of the set is the one evicted, whatever value is drawn for the choice. -/
theorem touchLine_single {s : State} {ln : Nat} {e : CLine} (hmiss : s.mem.cache.find? (fun x => x.line == ln) = none)
    (hfull : (waysFor s ln false).find? (fun k => (s.mem.cache.filter fun x => sameSet x.line ln).all fun x => x.way != k) = none)
    (honly : ((s.mem.cache.filter fun x => sameSet x.line ln).filter fun x => (waysFor s ln false).contains x.way) = [e]) :
    touchLine s ln false true = lineReplaced s ln e := by
  have hvictim : cacheVictim s [e] false = (some e, { s with freeTick := s.freeTick + 1 }) := by
    unfold cacheVictim
    simp only [Bool.false_eq_true, if_false, drawFree, List.length_singleton, Nat.mod_one, List.getElem?_cons_zero]
  unfold touchLine
  rw [hmiss]
  dsimp only
  rw [hfull, honly, Bool.false_and, hvictim]
  rfl

/-- The fence poisoned, after the error is recorded. -/
def ringPoisoned : State :=
  let u := noteLost fullRing 0x0E 0xB2 0xB2 0
  u.setFence 0 { u.fence 0 with st := .poisoned, flag := true, value := if (u.fence 0).heritage then (u.fence 0).value else terminal }

/-- The wait ended. -/
def ringEnded : State := ringPoisoned.setGroup (slotAt 0 0)
  { (ringPoisoned.group (slotAt 0 0)).usetN false 0 1 with wait := .none, pc := (ringPoisoned.group (slotAt 0 0)).pc + 8 }

/-- The end of the wait counted in the copy of the status block that the model keeps. -/
def ringCounting : State := ringEnded.setCtx 0 { ringEnded.ctx 0 with block := (ringEnded.ctx 0).block.writeNat 132 4 1 }

/-- The line of the counter in place of the evicted one. -/
def ringEvicted : State := lineReplaced ringCounting 1 ⟨32777, 15, true⟩

theorem ringCounting_touch : touchLine ringCounting 1 false true = ringEvicted := by
  unfold ringEvicted
  exact touchLine_single (by decide +kernel) (by decide +kernel) (by decide +kernel)

/-- What a write does after its line is in the cache. -/
def writtenAfter (s1 : State) (pa : Nat) (bs : List Byte) : State :=
  let s2 := physWrite1 s1 none false pa bs
  match heldLine s2 pa with
  | some l =>
    let s3 := s2.setMem { clearPoison s2.mem pa bs.length with
      lines := tset s2.mem.lines (pa / 128) { l with data := putAt l.data (pa % 128) bs } }
    invalidateLine s3 none (pa / 128)
  | none => s2

theorem ringCounting_write : objWrite ringCounting 0 1 132 (leBytes 4 1) = writtenAfter ringEvicted 132 (leBytes 4 1) := by
  have hreach : objReachable ringCounting 0 1 = true := by decide +kernel
  have hbase : (ringCounting.obj 0).base + 132 = 132 := by decide +kernel
  have hcache : throughCache ringCounting false 132 = true := by decide +kernel
  rw [objWrite, if_pos hreach, hbase]
  show devWrite1 ringCounting 132 (leBytes 4 1) = _
  unfold devWrite1 sliceWrite writtenAfter
  rewrite [hcache, if_pos rfl, show 132 / 128 = 1 from rfl, ringCounting_touch]
  generalize ringEvicted = t
  rfl

theorem ringPoisoned_waits : endFwaits ringPoisoned 0 = writtenAfter ringEvicted 132 (leBytes 4 1) := by
  have hwaiters : fwaiters ringPoisoned 0 = [(slotAt 0 0, 1)] := by decide +kernel
  have hout : (ringPoisoned.fence 0).outcome 1 = some 1 := by decide +kernel
  have hwait : (ringPoisoned.group (slotAt 0 0)).wait = .fence 0 1 none 0 := by decide +kernel
  have hctx : (ringPoisoned.group (slotAt 0 0)).ctx = 0 := by decide +kernel
  have hcount : min (blockNat ringEnded 0 132 4 + 1) 0xFFFFFFFF = 1 := by decide +kernel
  have hobj : (ringEnded.ctx 0).statObj = 0 := by decide +kernel
  have hgen : (ringEnded.ctx 0).statGen = 1 := by decide +kernel
  have hoff : (ringEnded.ctx 0).statOff + 132 = 132 := by decide +kernel
  have hend : endFwait ringPoisoned (slotAt 0 0) 1 = incBlock ringEnded 0 132 := by
    unfold endFwait
    dsimp only
    rw [hwait, hctx]
    rfl
  rw [endFwaits, hwaiters, List.foldl_cons, List.foldl_nil, hout]
  show endFwait ringPoisoned (slotAt 0 0) 1 = _
  rw [hend, incBlock, hcount, setBlock, hobj, hgen, hoff]
  exact ringCounting_write

/-- The state that the scrub leads to. -/
def ringOver : State :=
  let t := writtenAfter ringEvicted 132 (leBytes 4 1)
  let w := endQwaits (endHostWaits t 0) 0
  let x := endFlips w.1 0
  settleN 65535 ([] ++ (w.2 ++ x.2)) x.1

theorem exec_scrubRead_fullRing : exec (.scrubRead (.fence 0) .uncorrectable) fullRing = .next ringOver := by
  have hhere : ¬ (fullRing.power.sleep ≠ .awake ∨ (!siteHere fullRing (.fence 0)) = true) := by decide +kernel
  have hlive : ((noteLost fullRing 0x0E 0xB2 0xB2 0).fence 0).st = .live := by decide +kernel
  have hpoison : applyPoison (noteLost fullRing 0x0E 0xB2 0xB2 0) 0 = endWaits ringPoisoned 0 := by
    unfold applyPoison
    exact if_pos hlive
  have hwaits : endWaits ringPoisoned 0 =
      (let w := endQwaits (endHostWaits (endFwaits ringPoisoned 0) 0) 0
       let x := endFlips w.1 0
       (x.1, w.2 ++ x.2)) := rfl
  rw [exec_scrubRead, execScrubRead]
  dsimp only [siteInfo]
  rw [if_neg hhere]
  show Host.Outcome.next (settleN 65535 ([] ++ (applyPoison (noteLost fullRing 0x0E 0xB2 0xB2 0) 0).2)
    (applyPoison (noteLost fullRing 0x0E 0xB2 0xB2 0) 0).1) = _
  rw [hpoison, hwaits, ringPoisoned_waits, ringOver]

/-- Refutes O52: the poison of fence 0 ends the wait, the wait's end is counted in the status block, and the line evicted for it
leaves 256 records. -/
theorem not_availability : ¬ Obligations.Availability := by
  unfold Obligations.Availability
  intro h
  obtain ⟨hscrub, -⟩ := h
  obtain ⟨-, -, -, hlost⟩ := hscrub (.fence 0) fullRing (by decide +kernel) (by decide +kernel) nofun
  obtain ⟨t, ht, hnoted, -⟩ := hlost .uncorrectable (.inl rfl)
  rw [exec_scrubRead_fullRing] at ht
  have hover : tget? ringOver.avail.records fullRing.avail.next ≠ some ⟨0x0E, 0xB2, 2, 0, fullRing.timer⟩ := by decide +kernel
  rw [← Host.Outcome.next.inj ht] at hnoted
  exact hover hnoted

end Sys2Proof.Proofs

/-! Dusk, Night and the thermal monitor: how a step starts, what an answer does to it, how it ends, the wake from Night, and the
requests and samples that act on the power state. -/

namespace Sys2Proof.Proofs

open Sys2Proof.Machine

/-! ### What taking up the ENABLEs that wait does to the power state -/

theorem powerOn_power (s : State) (u : Nat) : (powerOn s u).power = { s.power with
    on := (powerOn s u).power.on, padHold := (powerOn s u).power.padHold } := by
  unfold powerOn
  split
  · rfl
  · extract_lets s1 pads
    have h1 : s1.power = s.power := (bump_power _ _ _).trans (freshUnit_power s u)
    show { s1.power with on := u :: s1.power.on, padHold := pads } = { s.power with on := u :: s1.power.on, padHold := pads }
    rw [h1]

theorem powerOn_only (s : State) {u x : Nat} (h : x ∈ (powerOn s u).power.on) : x ∈ s.power.on ∨ x = u := by
  unfold powerOn at h
  split at h
  · exact .inl h
  · extract_lets s1 pads at h
    have h1 : s1.power = s.power := (bump_power _ _ _).trans (freshUnit_power s u)
    obtain rfl | hx := List.mem_cons.mp h
    · exact .inr rfl
    · exact .inl (h1 ▸ hx)

/-- The units that an output which leaves OFF powers. -/
def outUnits (n : Nat) : List Nat := [0x94 + n, 0x90 + n / 2]

/-- From `s` to `t` some ENABLEs that waited in `s` were taken up. -/
structure Enabled (s t : State) : Prop where
  power : t.power = { s.power with on := t.power.on, padHold := t.power.padHold }
  on : ∀ x ∈ s.power.on, x ∈ t.power.on
  only : ∀ x ∈ t.power.on, x ∈ s.power.on ∨ ∃ n, n < 4 ∧ (s.output n).waitEnable = true ∧ x ∈ outUnits n
  held : ∀ x ∈ s.power.padHold, x ∈ t.power.padHold ∨ ∃ n, n < 4 ∧ (s.output n).waitEnable = true ∧ x ∈ outUnits n
  released : ∀ x ∈ t.power.padHold, x ∈ s.power.padHold
  waits : ∀ n, (t.output n).waitEnable = true → (s.output n).waitEnable = true

theorem Enabled.refl (s : State) : Enabled s s := ⟨rfl, fun _ h => h, fun _ h => .inl h, fun _ h => .inl h, fun _ h => h, fun _ h => h⟩

theorem Enabled.trans {a b c : State} (h : Enabled a b) (k : Enabled b c) : Enabled a c where
  power := by rw [k.power, h.power]
  on x hx := k.on x (h.on x hx)
  only x hx := (k.only x hx).elim (h.only x) fun ⟨n, hn, hw, hu⟩ => .inr ⟨n, hn, h.waits n hw, hu⟩
  held x hx := (h.held x hx).elim
    (fun hm => (k.held x hm).imp_right fun ⟨n, hn, hw, hu⟩ => ⟨n, hn, h.waits n hw, hu⟩) .inr
  released x hx := h.released x (k.released x hx)
  waits n hn := h.waits n (k.waits n hn)

theorem leaveOff_waits (s : State) (n : Nat) (m : VideoMode) (owner : Bool) (k : Nat) :
    ((leaveOff s n m owner).output k).waitEnable = (s.output k).waitEnable := by
  by_cases hk : k = n
  · subst hk
    rw [(leaveOff_output s k m owner).1, moded_rest]
  · have hprism : (powerOn (powerOn s (uOut n)) (0x90 + n / 2)).prism = s.prism := by
      rw [(powerOn_prism _ _).1, (powerOn_prism _ _).1]
    unfold leaveOff
    extract_lets s1
    rw [startModeset_eq, State.setOutput_output, if_neg hk, State.setOutput_output, if_neg hk]
    show (s1.output k).waitEnable = _
    rw [State.output, hprism]
    rfl

theorem enabled_takeEnable (s : State) {n : Nat} (hn : n < 4) : Enabled s (takeEnable s n) := by
  unfold takeEnable
  extract_lets o
  split
  next hwait =>
    obtain ⟨v, hv⟩ : ∃ v, v = s.setOutput n { o with waitEnable := false } := ⟨_, rfl⟩
    have hpv : v.power = s.power := by rw [hv]; rfl
    have hpow : (leaveOff v n o.pendMode true).power = (powerOn (powerOn v (uOut n)) (0x90 + n / 2)).power := rfl
    have hon1 := powerOn_on v (uOut n)
    have hon2 := powerOn_on (powerOn v (uOut n)) (0x90 + n / 2)
    have hpad1 := (powerOn_pads v (uOut n)).2
    have hpad2 := (powerOn_pads (powerOn v (uOut n)) (0x90 + n / 2)).2
    have hmem : ∀ x, x = uOut n ∨ x = 0x90 + n / 2 → ∃ m, m < 4 ∧ (s.output m).waitEnable = true ∧ x ∈ outUnits m := fun x hx =>
      ⟨n, hn, hwait.1, by rw [outUnits, List.mem_cons, List.mem_singleton]; exact hx⟩
    rw [← hv]
    refine ⟨?_, fun x hx => ?_, fun x hx => ?_, fun x hx => ?_, fun x hx => ?_, fun k hk => ?_⟩
    · rw [hpow, powerOn_power, powerOn_power, hpv]
    · rw [hpow]
      exact hon2.2 x (hon1.2 x (hpv ▸ hx))
    · rw [hpow] at hx
      obtain h2 | rfl := powerOn_only _ hx
      · exact (powerOn_only _ h2).imp (fun h => hpv ▸ h) fun h => hmem x (.inl h)
      · exact .inr (hmem _ (.inr rfl))
    · rw [hpow]
      by_cases h1 : x = uOut n
      · exact .inr (hmem x (.inl h1))
      by_cases h2 : x = 0x90 + n / 2
      · exact .inr (hmem x (.inr h2))
      exact .inl ((hpad2 x).2 h2 ((hpad1 x).2 h1 (hpv ▸ hx)))
    · rw [hpow] at hx
      exact hpv ▸ (hpad1 x).1 ((hpad2 x).1 hx)
    · rw [leaveOff_waits, hv, State.setOutput_output] at hk
      split at hk
      · cases hk
      · exact hk
  · exact .refl s

theorem enabled_takeEnables (s : State) : Enabled s ((List.range 4).foldl takeEnable s) := by
  have each : ∀ (l : List Nat) (s : State), (∀ n ∈ l, n < 4) → Enabled s (l.foldl takeEnable s) := by
    intro l
    induction l with
    | nil => exact fun s _ => .refl s
    | cons n l ih =>
      exact fun s hl => (enabled_takeEnable s (hl n List.mem_cons_self)).trans (ih _ fun k hk => hl k (List.mem_cons_of_mem _ hk))
  exact each _ s fun n hn => List.mem_range.mp hn

/-! ### Steps that are cancelled and steps that go on -/

theorem endPortNight_power (s : State) (p : Nat) : (endPortNight s p).power = s.power := by
  unfold endPortNight
  extract_lets x s1
  split
  · rfl
  · split
    · rfl
    · exact (still_linkLoss s1 p).power

/-- The power state that a step withdrawn or carried out leaves: the step is no more, and DUSK_LAST tells of it. -/
def stepEnded (w : Power) (k : Nat) (last : Nat × Nat × Nat × Nat) : Power := { w with dusk := tdrop w.dusk (· == k), last := last }

theorem stepEnded_dusk (w : Power) (k : Nat) (last : Nat × Nat × Nat × Nat) : tget? (stepEnded w k last).dusk k = none := by
  rw [stepEnded, tget?_tdrop, if_pos (beq_self_eq_true k)]

theorem withdrawn_none_iff (s : State) (x : DuskStep) : withdrawn s x = none ↔ ∀ e ∈ x.agents, agentAnswer s x.kind e.1 = .ack := by
  rw [withdrawn, List.findSome?_eq_none_iff]
  refine forall₂_congr fun e _ => ?_
  cases agentAnswer s x.kind e.1 <;> simp

/-- What switching units off leaves of the power state. -/
theorem switchOff_leaves (s : State) (units : List Nat) : (switchOff s units).prism = s.prism
    ∧ (switchOff s units).power = { s.power with on := (switchOff s units).power.on, padHold := (switchOff s units).power.padHold }
    ∧ ∀ u ∈ units, u ∉ (switchOff s units).power.on ∧ (u ∈ padUnits → u ∈ (switchOff s units).power.padHold) := by
  unfold switchOff
  extract_lets us s1 hold
  have h1 : s1.prism = s.prism ∧ s1.power = s.power := by
    constructor
    · exact foldl_keeps State.prism (f := fun (s : State) (u : Nat) => if u < 0x30 then s.setCore u .reset else s)
        (fun s u => by split <;> rfl) us s
    · exact foldl_keeps State.power (f := fun (s : State) (u : Nat) => if u < 0x30 then s.setCore u .reset else s)
        (fun s u => by split <;> rfl) us s
  clear_value s1
  refine ⟨h1.1, ?_, fun u hu => ?_⟩
  · exact congrArg (fun w : Power => { w with
      on := s1.power.on.filter fun u => !us.contains u, padHold := s1.power.padHold ++ hold }) h1.2
  · have hus : us.contains u = true := List.contains_iff_mem.mpr (List.mem_append_left _ hu)
    refine ⟨fun hon => ?_, fun hpad => ?_⟩
    · have := (List.mem_filter.mp hon).2
      rw [hus] at this
      cases this
    · dsimp only
      rw [List.mem_append, h1.2]
      by_cases hh : u ∈ s.power.padHold
      · exact .inl hh
      · refine .inr (List.mem_filter.mpr ⟨List.contains_iff_mem.mp hus, ?_⟩)
        rw [Bool.and_eq_true]
        exact ⟨List.contains_iff_mem.mpr hpad, by simpa using hh⟩

section
variable {s : State} {k : Nat} {x : DuskStep} (hx : tget? s.power.dusk k = some x)
include hx

theorem cancelStep_enabled (hc : x.commit = false) (r u : Nat) : ∃ v : State, v.power = stepEnded s.power k (x.kind, 2, r, u)
    ∧ Enabled v (cancelStep s k r u) := by
  unfold cancelStep
  rw [hx]
  dsimp only
  rw [if_neg (by rw [hc]; decide)]
  refine ⟨_, ?_, enabled_takeEnables _⟩
  have h2 : { (bump (dropDusk s k) 0xB0 0x108).power with last := (x.kind, 2, r, u) } = stepEnded s.power k (x.kind, 2, r, u) := by
    rw [bump_power]; rfl
  split
  · rw [(says_finalAll _ _ _ _ _ _).power, foldl_keeps State.power endPortNight_power]
    exact h2
  · exact h2

theorem cancelStep_ends (hc : x.commit = false) (r u : Nat) : tget? (cancelStep s k r u).power.dusk k = none
    ∧ (∀ d ∈ s.power.on, d ∈ (cancelStep s k r u).power.on) ∧ (cancelStep s k r u).power.last = (x.kind, 2, r, u) := by
  obtain ⟨v, hv, he⟩ := cancelStep_enabled hx hc r u
  refine ⟨?_, fun d hd => he.on d (by rw [hv]; exact hd), ?_⟩
  · rw [he.power, hv]
    exact stepEnded_dusk s.power k (x.kind, 2, r, u)
  · rw [he.power, hv]
    rfl

theorem advanceStep_waits (h : ∃ e ∈ x.agents, e.2 ≠ .acked) : advanceStep s k = s := by
  obtain ⟨e, he, hne⟩ := h
  unfold advanceStep
  rw [hx]
  dsimp only
  rw [if_pos (.inr (List.any_eq_true.mpr ⟨e, he, by simpa using hne⟩))]

theorem advanceStep_acked (hc : x.commit = false) (hall : ∀ e ∈ x.agents, e.2 = .acked) (hkind : x.kind ≠ 3) :
    (withdrawn s x = none → advanceStep s k = commitStep s k x)
    ∧ ∀ w, withdrawn s x = some w → advanceStep s k = cancelStep s k w.1 w.2 := by
  have hgo : ¬(x.commit = true ∨ (x.agents.any fun e => e.2 != .acked) = true) := by
    rintro (h | h)
    · rw [hc] at h; cases h
    · obtain ⟨e, he, hne⟩ := List.any_eq_true.mp h
      rw [hall e he] at hne
      cases hne
  unfold advanceStep
  rw [hx]
  dsimp only
  rw [if_neg hgo, if_neg fun h => hkind h.1]
  exact ⟨fun h => by rw [h], fun w h => by rw [h]⟩

section
variable (hc : x.commit = false) {a : DuskAgent}
include hc

theorem duskAnswer_asked (hst : agentSt x a = some .asked) : let ans := agentAnswer s x.kind a
    (ans = .ack → exec (.duskAnswer k a) s = .next (advanceStep (putAgent (answerEffect s a ans) k x a .acked) k))
    ∧ (ans = .delay → exec (.duskAnswer k a) s = .next (putAgent (answerEffect s a ans) k x a .delayed))
    ∧ ∀ r, ans = .refuse r → exec (.duskAnswer k a) s = .next (cancelStep s k r (agentUnit a)) := by
  have hgo : ¬x.commit = true := by rw [hc]; decide
  intro ans
  refine ⟨fun h => ?_, fun h => ?_, fun r h => ?_⟩ <;>
    (rw [exec_duskAnswer, execDuskAnswer, hx]; dsimp only
     rewrite [if_neg hgo, hst, show agentAnswer s x.kind a = ans from rfl, h]; rfl)

theorem duskAnswer_acked (hst : agentSt x a = some .acked) : let ans := agentAnswer s x.kind a
    (ans = .ack → (x.kind ≠ 3 ∧ wanted s a = true → exec (.duskAnswer k a) s = .next (cancelStep s k 1 (agentUnit a)))
      ∧ (x.kind = 3 ∨ wanted s a = false → exec (.duskAnswer k a) s = .next s))
    ∧ (ans = .delay → exec (.duskAnswer k a) s = .next (cancelStep s k 1 (agentUnit a)))
    ∧ ∀ r, ans = .refuse r → exec (.duskAnswer k a) s = .next (cancelStep s k r (agentUnit a)) := by
  have hgo : ¬x.commit = true := by rw [hc]; decide
  intro ans
  refine ⟨fun h => ⟨fun hw => ?_, fun hw => ?_⟩, fun h => ?_, fun r h => ?_⟩ <;>
    (rw [exec_duskAnswer, execDuskAnswer, hx]; dsimp only
     rewrite [if_neg hgo, hst, show agentAnswer s x.kind a = ans from rfl, h])
  · exact congrArg _ (if_pos hw)
  · exact congrArg _ (if_neg fun hno => hw.elim hno.1 fun hf => by rw [hf] at hno; exact absurd hno.2 (by decide))
  · rfl
  · rfl

theorem duskNoAnswer_asked (hst : agentSt x a = some .asked) :
    exec (.duskNoAnswer k a) s = .next (cancelStep s k 8 (agentUnit a)) := by
  rw [exec_duskNoAnswer, execDuskNoAnswer, hx]
  dsimp only
  rw [if_neg (by rw [hc, hst]; decide)]
  rfl

theorem duskReask_delayed (hst : agentSt x a = some .delayed) :
    (s.timer - x.start ≤ s.cfg.duskBudgetMs * 38400 → exec (.duskReask k a) s = .next (putAgent s k x a .asked))
    ∧ (s.cfg.duskBudgetMs * 38400 < s.timer - x.start → exec (.duskReask k a) s = .next (cancelStep s k 7 x.delayer)) := by
  have hgo : ¬(x.commit = true ∨ agentSt x a ≠ some .delayed) := by rw [hc, hst]; decide
  constructor <;> intro h <;> (rw [exec_duskReask, execDuskReask, hx]; dsimp only; rw [if_neg hgo])
  · exact congrArg _ (if_neg (Nat.not_lt.mpr h))
  · exact congrArg _ (if_pos h)

end

/-- A step whose commit is done: its units are off, and those of them with pads hold them. -/
theorem duskCommitDone_answers (hc : x.commit = true) : Answers (.duskCommitDone k) s fun t =>
    tget? t.power.dusk k = none ∧ t.power.last = (x.kind, 1, 0, 0) ∧ (k = 0x100 → t.power.sleep = .night)
    ∧ (k ≠ 0x100 → ∀ u ∈ x.units, (∀ n, n < 4 → (s.output n).waitEnable = true → u ≠ 0x94 + n ∧ u ≠ 0x90 + n / 2) →
        u ∉ t.power.on ∧ (u ∈ padUnits → u ∈ t.power.padHold)) := by
  obtain ⟨v, hv⟩ : ∃ v : State, v = { bump (dropDusk s k) 0xB0 0x100 with
      power := { (bump (dropDusk s k) 0xB0 0x100).power with last := (x.kind, 1, 0, 0) } } := ⟨_, rfl⟩
  have hexec : exec (.duskCommitDone k) s = .next (if k = nightKey
      then { bump v 0xB0 0x118 with power := { (bump v 0xB0 0x118).power with sleep := .night } }
      else (List.range 4).foldl takeEnable (switchOff v x.units)) := by
    rw [exec_duskCommitDone, execDuskCommitDone, hx, hv]
    dsimp only
    rw [if_neg (by rw [hc]; decide)]
  have hpower : v.power = stepEnded s.power k (x.kind, 1, 0, 0) := by rw [hv, bump_power]; rfl
  refine ⟨_, hexec, ?_⟩
  by_cases hk : k = nightKey
  · rw [if_pos hk]
    refine ⟨?_, ?_, fun _ => rfl, fun hne => absurd hk hne⟩
    · show tget? (bump v 0xB0 0x118).power.dusk k = none
      rw [bump_power, hpower]
      exact stepEnded_dusk s.power k (x.kind, 1, 0, 0)
    · show (bump v 0xB0 0x118).power.last = _
      rw [bump_power, hpower]
      rfl
  · rw [if_neg hk]
    have he := enabled_takeEnables (switchOff v x.units)
    obtain ⟨hprism, hoff, hunits⟩ := switchOff_leaves v x.units
    have hwait : ∀ n, ((switchOff v x.units).output n).waitEnable = (s.output n).waitEnable := fun n => by
      rw [State.output, hprism, hv, bump_prism]
      rfl
    have hother : ∀ u, (∀ n, n < 4 → (s.output n).waitEnable = true → u ≠ 0x94 + n ∧ u ≠ 0x90 + n / 2) →
        ¬∃ n, n < 4 ∧ ((switchOff v x.units).output n).waitEnable = true ∧ u ∈ outUnits n := by
      rintro u hout ⟨n, hn, hw, hu⟩
      obtain ⟨h1, h2⟩ := hout n hn (hwait n ▸ hw)
      rw [outUnits, List.mem_cons, List.mem_singleton] at hu
      exact hu.elim h1 h2
    refine ⟨?_, ?_, fun h => absurd h hk, fun _ u hu hout => ⟨fun hon => ?_, fun hpad => ?_⟩⟩
    · rw [he.power, hoff, hpower]
      exact stepEnded_dusk s.power k (x.kind, 1, 0, 0)
    · rw [he.power, hoff, hpower]
      rfl
    · exact (he.only u hon).elim (hunits u hu).1 (hother u hout)
    · exact (he.held u ((hunits u hu).2 hpad)).resolve_right (hother u hout)

end

/-! ### The thermal monitor -/

section
variable {s : State}

theorem stand_congr {s t : State} (h : t.power = s.power) (k : Nat) : t.stand k = s.stand k := by rw [State.stand, h]; rfl

/-- The power state after a sample of the thermal monitor, before it acts. -/
def sampled (s : State) (tj : Int) : State := { s with power := { s.power with
  hotFloor := if tjMax s + 5 ≤ tj then s.power.hotFloor + 1 else 0
  hotShut := if tjMax s + 10 ≤ tj then s.power.hotShut + 1 else 0
  coolFloor := if tj ≤ tjMax s then s.power.coolFloor + 1 else 0
  floor := s.power.floor && decide ((if tj ≤ tjMax s then s.power.coolFloor + 1 else 0) < 101)
  tripped := s.power.tripped && decide (tjMax s - 10 < tj) } }

def floored (s : State) (tj : Int) : State := if tjMax s + 5 ≤ tj then thermalFloor (sampled s tj) else sampled s tj

theorem floored_hot {tj : Int} (h : tjMax s + 5 ≤ tj) : floored s tj = thermalFloor (sampled s tj) := if_pos h
theorem floored_cool {tj : Int} (h : tj < tjMax s + 5) : floored s tj = sampled s tj := if_neg (by omega)

def shuts (s : State) (tj : Int) : Prop :=
  11 ≤ (if tjMax s + 10 ≤ tj then s.power.hotShut + 1 else 0) ∨ 1001 ≤ (if tjMax s + 5 ≤ tj then s.power.hotFloor + 1 else 0)

def shutDown (s : State) (lost : Option (List (Nat × Byte))) : State :=
  let s3 := { s with power := { s.power with tripped := true } }
  let s4 := if s3.power.sleep = .night then s3 else forceNight s3 lost
  recordError s4 0x26 0xFF (if s4.power.dataLost then 4 else 2) 0

theorem thermalSample_quiet {tj : Int} (h : ¬shuts s tj) (lost : Option (List (Nat × Byte))) :
    exec (.thermalSample tj lost) s = .next (floored s tj) := by
  rw [exec_thermalSample]
  unfold execThermalSample
  extract_lets m w hot shut cold s1 s2
  have h' : ¬(11 ≤ shut ∨ 1001 ≤ hot) := h
  rw [if_pos (.inr (by omega))]
  rfl

theorem thermalSample_shuts {tj : Int} (h : shuts s tj) (htrip : s.power.tripped = false) (lost : Option (List (Nat × Byte))) :
    exec (.thermalSample tj lost) s = .next (shutDown (floored s tj) lost) := by
  rw [exec_thermalSample]
  unfold execThermalSample
  extract_lets m w hot shut cold s1 s2
  have h' : 11 ≤ shut ∨ 1001 ≤ hot := h
  refine congrArg Host.Outcome.next (if_neg ?_)
  rintro (hw | hq)
  · exact absurd (htrip.symm.trans hw) (by decide)
  · exact h'.elim (fun hs => absurd hs (Nat.not_le.mpr hq.1)) fun hs => absurd hs (Nat.not_le.mpr hq.2)

theorem shutDown_leaves (hsleep : s.power.sleep ≠ .night) (lost : Option (List (Nat × Byte))) :
    let t := shutDown s lost
    t.power.tripped = true ∧ t.power.sleep = .night ∧ t.power.forced = true ∧ t.power.on = [] ∧ t.cmds = [] := by
  obtain ⟨u, hu⟩ : ∃ u, u = forceNight { s with power := { s.power with tripped := true } } lost := ⟨_, rfl⟩
  obtain ⟨hn, hforced, hon, hcmds, -, -, hlost⟩ := forceNight_leaves { s with power := { s.power with tripped := true } } lost
  rw [← hu] at hn hforced hon hcmds hlost
  have heq : shutDown s lost = recordError u 0x26 0xFF (if u.power.dataLost then 4 else 2) 0 := by
    unfold shutDown
    dsimp only
    rw [if_neg hsleep, ← hu]
  have hsays := readsOnly_recordError u 0x26 0xFF (if u.power.dataLost then 4 else 2) 0
  intro t
  rw [show t = _ from heq, hsays.power, hsays.cmds]
  exact ⟨(Prod.mk.inj hlost).2, hn, hforced, hon, hcmds⟩

/-! ### POWER_STATE and the wake from Night -/

/-- What POWER_STATE with the value `w` does for a port manager. -/
def powerAsked (u : State) (w : Nat) : State × Ans :=
  if w = 1 then (if (tget? u.power.dusk nightKey).isSome then (u, .busy 1) else (startNight u, .accepted nightKey))
  else match tget? u.power.dusk nightKey with
    | some _ => (cancelStep u nightKey dRun 0xFF, .ok)
    | none => ({ releasePads u (runReleases u) with
        power := { (releasePads u (runReleases u)).power with woken := false, dataLost := false } }, .ok)

section
variable {r : Req} (hch : r.ch < 16) (h : Requested s r 1 [(0, 1)])
include hch h

theorem powerState_denied (hM : isM s r = false) : exec (.powerState r) s = .next (replyTo (takeReq s r true) r 0x21 1 []) := by
  rw [exec_powerState, execPowerState, serve_requested h]
  dsimp only
  rw [roleThen_denied (by rw [not_isI hch, Bool.or_false]; exact hM)]
  rfl

omit hch in
theorem powerState_granted (hM : isM s r = true) (hw : reqField r 0 1 < 2) :
    exec (.powerState r) s = .next (answered (takeReq s r true) r 0x802 (powerAsked (takeReq s r true) (reqField r 0 1))) := by
  rw [exec_powerState, execPowerState, serve_requested h]
  dsimp only
  have hrole : (isM (takeReq s r true) r || isI r) = true := Bool.or_eq_true_iff.mpr (.inl hM)
  rw [roleThen_none hrole 1 (paramFail_none h (by simp [hw]))]
  rfl

end

theorem releasePads_held (s : State) (p : Nat → Bool) {d : Nat} (h : d ∈ (releasePads s p).power.padHold) : d ∈ s.power.padHold := by
  unfold releasePads at h
  extract_lets _ s1 at h
  exact List.mem_of_mem_filter ((enabled_takeEnables s1).released d h)

/-- RUN of a manager without a Night in progress releases the pads of the domains that are on. -/
theorem runReleases_pads (s : State) : let v := releasePads s (runReleases s)
    (∀ d ∈ s.power.on, ¬(d = 0xBE ∧ s.fuses.scorched = true) → d ∉ v.power.padHold ∧ d ∉ v.power.nightPads)
    ∧ ∀ d ∈ v.power.padHold, d ∈ s.power.padHold := by
  refine ⟨fun d hd hlock => (releasePads_pads s (runReleases s) d).1 ?_, fun d hd => ?_⟩
  · have hc : s.power.on.contains d = true := List.contains_iff_mem.mpr hd
    rw [runReleases, hc, Bool.true_or, Bool.true_and, Bool.not_eq_true', padsLocked]
    simpa using hlock
  · exact releasePads_held s _ hd

theorem wakeComplete_answers (hsleep : s.power.sleep = .night) (hwake : s.power.wake = true) (htrip : s.power.tripped = false)
    (hready : coreReady s = true) : Answers .wakeComplete s fun t =>
        t.power.sleep = .awake ∧ t.power.wake = false ∧ t.power.woken = true ∧ t.power.pll = true ∧ t.ranger.asleep = false
        ∧ (∀ k, k < 16 → 0x60 + k ∈ t.power.on) ∧ (∀ k, k < 0x60 → k ∉ t.power.on) := by
  rw [Answers, exec_wakeComplete]
  unfold execWakeComplete
  rw [if_neg (by rw [hsleep, hwake, htrip, hready]; decide)]
  extract_lets ports up s1 _ _ s2 s3
  have hrun : Steady ((List.range 3).foldl (fun s p => s.setPort p { s.port p with grace := (s.port p).night }) s2) s3 :=
    steady_kreogRuns
  have hports : Steady s2 ((List.range 3).foldl (fun s p => s.setPort p { s.port p with grace := (s.port p).night }) s2) :=
    Steady.foldl (fun s p => steady_setPort p _) _ s2
  have hend : Says s3 (raiseIbi (finalAll s3 0x802 nightKey rOk 0 []) 0x01 []) :=
    (says_finalAll s3 _ _ _ _ _).trans (says_raiseIbi _ _ _)
  have hall := (hports.trans hrun).trans hend.sheds.toSteady
  refine ⟨_, rfl, ?_⟩
  rw [hall.power, hall.asleep]
  refine ⟨rfl, rfl, rfl, rfl, rfl, fun k hk => ?_, fun k hk hon => ?_⟩
  · exact List.mem_append_left _ (List.mem_map.mpr ⟨k, List.mem_range.mpr hk, rfl⟩)
  · obtain hon | hon := List.mem_append.mp hon
    · obtain ⟨j, -, rfl⟩ := List.mem_map.mp hon
      omega
    · obtain ⟨j, -, rfl⟩ := List.mem_map.mp hon
      omega

end

/-! ### The statement -/

theorem addressMatch_answers (s : State) (hs : s.power.sleep ≠ .awake) : Answers .addressMatch s fun t =>
    let waits := s.timer - s.power.coreAt.getD 0 < 192000
    t.power.wake = true ∧ t.power.sleep = s.power.sleep
    ∧ (s.power.sleep ≠ .night ∨ s.power.corePwr = true ∨ waits → t = { s with power := { s.power with wake := true } })
    ∧ (s.power.sleep = .night → s.power.corePwr = false → ¬waits → t.power.corePwr = true ∧ t.power.coreAt = some s.timer) := by
  rw [Answers, exec_addressMatch, execAddressMatch, if_neg hs, corePower]
  dsimp only
  refine ⟨_, rfl, ?_⟩
  split
  next h =>
    obtain ⟨hn, -, hp, hw⟩ := h
    refine ⟨rfl, rfl, fun hor => ?_, fun _ _ _ => ⟨rfl, rfl⟩⟩
    obtain h | h | h := hor
    · exact absurd hn h
    · rw [h] at hp; cases hp
    · exact absurd h (Nat.not_lt.mpr hw)
  next h =>
    refine ⟨rfl, rfl, fun _ => rfl, fun hn hp hw => absurd ?_ h⟩
    exact ⟨hn, rfl, by rw [hp]; rfl, Nat.not_lt.mp hw⟩

theorem agentAnswer_idle {kind : Nat} (h : kind ≠ 3) (s : State) (a : DuskAgent) : agentAnswer s kind a = agentAnswer s 1 a := by
  cases a <;> simp [agentAnswer, h]

theorem idleGateStart_begins {u : Nat} {a : DuskAgent} {s : State} (ha : unitAgent u = some a) (hon : u ∈ s.power.on)
    (hup : s.ranger.up = true) (hnight : tget? s.power.dusk 0x100 = none) (hroom : s.power.dusk.length < 8) :
    let out := 0x94 ≤ u ∧ u < 0x98
    let units := if u < 0x30 ∧ 0x30 + u ∈ s.power.on then [u, 0x30 + u] else [u]
    (¬out → s.cfg.idleGateUs ≠ 0) → (∀ e ∈ s.power.dusk, ∀ x ∈ units, x ∉ e.2.units) →
    (gatedWhenIdle u = true → agentAnswer s 1 a = .ack) → (u < 0x60 → u % 0x30 ∉ s.avail.testing) →
    (∀ x ∈ units, retiring s x = false) →
    exec (.idleGateStart u) s = .next (setDusk s (tset s.power.dusk u
      { kind := if 0x94 ≤ u ∧ u < 0x98 then 2 else 1, units := units, phase := 0, agents := asked (units.filterMap unitAgent)
        delayer := 0xFF, start := s.timer, commit := false })) := by
  intro out units hidle hfree hgate htest hretire
  have hunits : (if u < 0x30 ∧ s.power.on.contains (0x30 + u) = true then [u, 0x30 + u] else [u]) = units := by
    simp only [units, List.contains_iff_mem]
  have hkind : agentAnswer s (if decide (0x94 ≤ u ∧ u < 0x98) = true then 2 else 1) a = agentAnswer s 1 a :=
    agentAnswer_idle (by split <;> decide) s a
  rw [exec_idleGateStart]
  unfold execIdleGateStart
  rw [ha]
  extract_lets w o kind us
  have hus : us = units := hunits
  have hgated : agentAnswer s kind a = agentAnswer s 1 a := hkind
  have hout : kind = if 0x94 ≤ u ∧ u < 0x98 then 2 else 1 := by simp only [kind, o, decide_eq_true_eq]
  dsimp only
  rw [hus, hgated, hout]
  refine congrArg Host.Outcome.next (if_neg ?_)
  rintro (h | h | ⟨h, hz⟩ | h | h | h | ⟨hg, h⟩ | ⟨hu, h⟩ | h)
  · rw [List.contains_iff_mem.mpr hon] at h; cases h
  · rw [hup] at h; cases h
  · exact hidle (of_decide_eq_false (Bool.not_eq_true' _ ▸ h)) hz
  · rw [show tget? w.dusk nightKey = none from hnight] at h; cases h
  · exact absurd hroom (Nat.not_lt.mpr h)
  · obtain ⟨e, he, h⟩ := List.any_eq_true.mp h
    obtain ⟨x, hxu, h⟩ := List.any_eq_true.mp h
    exact hfree e he x hxu (List.contains_iff_mem.mp h)
  · exact h (hgate hg)
  · exact htest hu (List.contains_iff_mem.mp h)
  · obtain ⟨x, hxu, h⟩ := List.any_eq_true.mp h
    rw [hretire x hxu] at h; cases h

/-- Settles O51: each answer does what its agent's state asks for, a step that ends leaves the table with DUSK_LAST telling of it, and
Night takes everything off. -/
theorem duskAndNight : Obligations.DuskAndNight := by
  unfold Obligations.DuskAndNight
  refine ⟨fun u a s ha hon hup hnight hroom => idleGateStart_begins ha hon hup hnight hroom, fun k a x s hx hc => ?_,
    fun k x s hx hc => duskCommitDone_answers hx hc, fun s => ⟨?_, ?_, wakeComplete_answers, ?_⟩, fun r s hch h => ?_,
    fun tj lost s htrip => ?_⟩
  · refine ⟨fun hst => ?_, fun hst => ?_, fun hst => ?_, fun r u => ?_, advanceStep_waits hx, fun hall hkind => ?_⟩
    · obtain ⟨hack, hdelay, hrefuse⟩ := duskAnswer_asked hx hc hst
      exact ⟨hack, hdelay, hrefuse, duskNoAnswer_asked hx hc hst⟩
    · exact duskAnswer_acked hx hc hst
    · exact duskReask_delayed hx hc hst
    · obtain ⟨hend, hon, hlast⟩ := cancelStep_ends hx hc r u
      exact ⟨hend, hon, fun _ => hlast⟩
    · obtain ⟨hnone, hsome⟩ := advanceStep_acked hx hc hall hkind
      refine ⟨fun hack hk => ?_, fun ⟨e, he, hne⟩ => ?_⟩
      · rw [hnone ((withdrawn_none_iff s x).mpr hack), commitStep]
        exact if_neg hk
      · cases hw : withdrawn s x with
        | none => exact absurd ((withdrawn_none_iff s x).mp hw e he) hne
        | some w => exact ⟨w.1, w.2, hsome w hw⟩
  · intro u hs hb hp hm
    refine ⟨?_, (powerOn_on s u).1⟩
    rw [exec_domainPowerUpDone, execDomainPowerUpDone, if_neg (by rw [hs, hb, hp, hm]; decide)]
  · exact addressMatch_answers s
  · intro p hp hs hg hup hack
    rw [exec_nightLinkGraceExpiry, execNightLinkGraceExpiry, if_neg (by rw [hs, hg, hup, hack]; simpa using hp)]
  · refine ⟨fun hw hM => powerState_denied hch h hM, fun hM hw hn => ?_, fun hM hw hn hroom => ?_, fun hM hw hn => ?_,
      fun hM hw hn => ?_⟩
    · rw [powerState_granted h hM (by omega), powerAsked, if_pos hw,
        if_pos (show (tget? (takeReq s r true).power.dusk nightKey).isSome = true from hn)]
      rfl
    · rw [powerState_granted h hM (by omega), powerAsked, if_pos hw,
        show tget? (takeReq s r true).power.dusk nightKey = none from hn, if_neg (by decide)]
      exact congrArg _ (answered_accepted hroom _ _ _)
    · obtain ⟨y, hy⟩ := Option.isSome_iff_exists.mp hn
      rw [powerState_granted h hM (by omega), powerAsked, if_neg (by omega),
        show tget? (takeReq s r true).power.dusk nightKey = _ from hy]
      rfl
    · obtain ⟨hfreed, hheld⟩ := runReleases_pads (takeReq s r true)
      rw [powerState_granted h hM (by omega), powerAsked, if_neg (by omega),
        show tget? (takeReq s r true).power.dusk nightKey = _ from hn]
      exact ⟨_, rfl, hfreed, hheld, rfl, rfl⟩
  · refine ⟨fun hcool => ?_, fun hhot hfloor hshut => ?_, fun hhot hshut hsleep => ?_⟩
    · have hquiet : ¬shuts s tj := by
        rw [shuts, if_neg (by omega), if_neg (by omega)]
        decide
      refine ⟨_, (thermalSample_quiet hquiet lost).trans (by rw [floored_cool hcool]), ?_⟩
      refine ⟨if_neg (by omega), if_neg (by omega), by rw [sampled, htrip]; rfl, congrArg (s.power.floor && ·) ?_⟩
      by_cases hcold : tj ≤ tjMax s
      · rw [if_pos hcold, decide_eq_true hcold, Bool.true_and, ← decide_not]
        exact decide_eq_decide.mpr (by omega)
      · rw [if_neg hcold, decide_eq_false hcold]
        rfl
    · have hquiet : ¬shuts s tj := by
        rw [shuts, if_pos hhot]
        split <;> omega
      refine ⟨_, (thermalSample_quiet hquiet lost).trans (by rw [floored_hot hhot]), rfl, rfl, rfl, ?_, fun j hj => ?_⟩
      · show (s.power.tripped && _) = false
        rw [htrip]; rfl
      · show ((setPair (sampled s tj) 12 1).stand j).gov = 12
        rw [setPair_stand, if_pos hj]
    · have hshuts : shuts s tj := .inl (by rw [if_pos hhot]; omega)
      refine ⟨_, thermalSample_shuts hshuts htrip lost, shutDown_leaves ?_ lost⟩
      rw [floored_hot (by omega)]
      exact hsleep

end Sys2Proof.Proofs

/-! The Flume: a request's header checks, the records of the reply ring, and the registers of a channel. -/

namespace Sys2Proof.Proofs

open Sys2Proof.Machine

/-! ### Header checks -/

theorem reqUnits_eq (r : Req) : reqUnits r = (16 + 4 * r.words.toNat + 15) / 16 := rfl

section
variable {s : State} {r : Req} (op : Nat) (words : Option Nat) (k : State → State × Ans)

theorem serve_notReady (h : flumeReady s r = false) : serve r op words k s = s := by
  unfold serve
  rw [h]
  rfl

theorem serve_tooLong (h : flumeReady s r = true) (hl : reqTooLong s r = true) : serve r op words k s = dropReqs s r := by
  unfold serve
  rw [h, hl]
  rfl

theorem serve_refused (h : flumeReady s r = true) (hl : reqTooLong s r = false) {st d : Nat} {used : Bool}
    (hh : headerCheck s r words = some (st, d, used)) : serve r op words k s = replyTo (takeReq s r used) r st d [] := by
  unfold serve
  rw [h, hl, hh]
  rfl

end

/-- The requests of the statement with the payload words that their opcodes ask for. -/
def someRequests (r : Req) : List (Instr × Nat) := [(.ping r, 0), (.eventMask r, 1), (.tenantCreate r, 2), (.contextCreate r, 12),
  (.objectCreate r, 6), (.fenceCreate r, 4), (.outputGrant r, 1), (.transfer r, 16), (.imageActivate r, 2), (.debugGrant r, 1)]

theorem someRequests_served (r : Req) (s : State) : ∀ e ∈ someRequests r, ∃ op k, exec e.1 s = .next (serve r op (some e.2) k s) := by
  simp only [someRequests, List.forall_mem_cons, List.not_mem_nil, false_imp_iff, implies_true, and_true]
  exact ⟨⟨_, _, rfl⟩, ⟨_, _, rfl⟩, ⟨_, _, rfl⟩, ⟨_, _, rfl⟩, ⟨_, _, rfl⟩, ⟨_, _, rfl⟩, ⟨_, _, rfl⟩, ⟨_, _, rfl⟩, ⟨_, _, rfl⟩,
    ⟨_, _, rfl⟩⟩

section
variable {s : State} {r : Req} {e : Instr × Nat} (he : e ∈ someRequests r)
include he

theorem request_notReady (h : flumeReady s r = false) : exec e.1 s = .next s := by
  obtain ⟨op, k, hserve⟩ := someRequests_served r s e he
  rw [hserve, serve_notReady op _ k h]

theorem request_tooLong (h : flumeReady s r = true) (hl : reqTooLong s r = true) : exec e.1 s = .next (dropReqs s r) := by
  obtain ⟨op, k, hserve⟩ := someRequests_served r s e he
  rw [hserve, serve_tooLong op _ k h hl]

theorem request_refused (h : flumeReady s r = true) (hl : reqTooLong s r = false) {st d : Nat} {used : Bool}
    (hh : headerCheck s r (some e.2) = some (st, d, used)) : exec e.1 s = .next (replyTo (takeReq s r used) r st d []) := by
  obtain ⟨op, k, hserve⟩ := someRequests_served r s e he
  rw [hserve, serve_refused op _ k h hl hh]

end

section
variable {s : State} {r : Req}

theorem headerCheck_version (w : Option Nat) (hv : r.version ≠ 1) : headerCheck s r w = some (0x40, 1, false) := if_pos hv

variable (hv : r.version = 1)
include hv

theorem headerCheck_tenant (w : Option Nat) (ht : r.tenant.toNat ≠ if r.ch = i3cChannel then 0xFF else r.ch) :
    headerCheck s r w = some (0x21, 4, false) := by
  unfold headerCheck
  rw [if_neg (not_not.mpr hv)]
  exact if_pos ht

variable (ht : r.tenant.toNat = if r.ch = i3cChannel then 0xFF else r.ch)
include ht

theorem headerCheck_seq (w : Option Nat) (hs : r.seq.toNat ≠ (s.channel r.ch).nextSeq) :
    headerCheck s r w = some (0x12, 0xFF04, false) := by
  unfold headerCheck
  rw [if_neg (not_not.mpr hv), if_neg (not_not.mpr ht), if_pos hs]
  rfl

variable (hs : r.seq.toNat = (s.channel r.ch).nextSeq)
include hs

theorem headerCheck_flags (w : Option Nat) (hf : 2 ≤ r.flags.toNat) : headerCheck s r w = some (0x12, 0xFF02, true) := by
  unfold headerCheck
  rw [if_neg (not_not.mpr hv), if_neg (not_not.mpr ht), if_neg (not_not.mpr hs), if_pos hf]
  rfl

theorem headerCheck_opcode (hf : r.flags.toNat < 2) : headerCheck s r none = some (0x10, 0, true) := by
  unfold headerCheck
  rw [if_neg (not_not.mpr hv), if_neg (not_not.mpr ht), if_neg (not_not.mpr hs), if_neg (Nat.not_le.mpr hf)]
  rfl

theorem headerCheck_words (hf : r.flags.toNat < 2) {w : Nat} (hw : r.words.toNat ≠ w) :
    headerCheck s r (some w) = some (0x11, w, true) := by
  unfold headerCheck
  rw [if_neg (not_not.mpr hv), if_neg (not_not.mpr ht), if_neg (not_not.mpr hs), if_neg (Nat.not_le.mpr hf)]
  exact if_pos hw

end

/-! ### Payload offsets that fail -/

theorem mem_leastOf {l : List Nat} {m : Nat} (h : leastOf l = some m) : m ∈ l ∧ ∀ x ∈ l, m ≤ x := ⟨mem_of_leastOf h, leastOf_le h⟩

/-- An offset fails where its check does, or where it is not listed and not 0. -/
def badOffset (r : Req) (listed : List (Nat × Nat)) (checks : List (Nat × Bool)) (o : Nat) : Prop :=
  (o, false) ∈ checks ∨ (o < 4 * r.words.toNat ∧ reqField r o 1 ≠ 0 ∧ ∀ f ∈ listed, o < f.1 ∨ f.1 + f.2 ≤ o)

theorem paramFail_least (r : Req) (listed : List (Nat × Nat)) (checks : List (Nat × Bool)) :
    ∃ l, paramFail r listed checks = leastOf l ∧ ∀ o, o ∈ l ↔ badOffset r listed checks o := by
  refine ⟨_, rfl, fun o => ?_⟩
  rw [List.mem_append, badOffset, or_comm]
  refine or_congr ?_ ?_
  · simp
  · have hout : (!(listed.any fun f => decide (f.1 ≤ o ∧ o < f.1 + f.2))) = true ↔ ∀ f ∈ listed, o < f.1 ∨ f.1 + f.2 ≤ o := by
      rw [Bool.not_eq_true', List.any_eq_false]
      refine forall₂_congr fun f _ => ?_
      rw [decide_eq_true_eq]
      omega
    rw [List.mem_filter, List.mem_range, Bool.and_eq_true, hout, bne_iff_ne]

theorem paramFail_spec (r : Req) (listed : List (Nat × Nat)) (checks : List (Nat × Bool)) :
    (paramFail r listed checks = none ↔ ∀ o, ¬badOffset r listed checks o)
    ∧ ∀ o, paramFail r listed checks = some o → badOffset r listed checks o ∧ ∀ k, badOffset r listed checks k → o ≤ k := by
  obtain ⟨l, hl, hmem⟩ := paramFail_least r listed checks
  rw [hl]
  constructor
  · rw [leastOf_eq_none, List.eq_nil_iff_forall_not_mem]
    exact forall_congr' fun o => not_congr (hmem o)
  · intro o ho
    exact ⟨(hmem o).mp (mem_of_leastOf ho), fun k hk => leastOf_le ho k ((hmem k).mpr hk)⟩

/-! ### Records of the reply ring -/

theorem length_replyHdr (seq status detail tag words flags : Nat) : (replyHdr seq status detail tag words flags).length = 16 := by
  simp only [replyHdr, List.length_append, length_leBytes]
  rfl

theorem putUnits_eq (c : Channel) {bytes : List Byte} {n : Nat} (h : bytes.length = 16 * n) : c.putUnits bytes = { c with
    replies := c.replies.write (c.replyWrite % 1024 * 16) bytes, replyWrite := (c.replyWrite + n) % 2 ^ 32 } := by
  rw [Channel.putUnits, h, Nat.mul_div_cancel_left n (by decide)]

/-- A record fits into the rest of the ring, or goes to the ring's start after the padding of the rest. -/
theorem putRecord_spec (c : Channel) (seq status detail tag flags : Nat) (payload : List Byte) :
    let n := (16 + payload.length + 15) / 16
    let room := 1024 - c.replyWrite % 1024
    let body := leBytes 4 seq ++ leBytes 2 status ++ leBytes 2 detail ++ leBytes 4 tag ++ leBytes 2 (payload.length / 4)
       ++ leBytes 1 flags ++ [0] ++ payload
    let padded := body ++ List.replicate (16 * n - body.length) 0
    let pad := List.replicate 12 0 ++ leBytes 2 ((16 * room - 16) / 4) ++ [8, 0] ++ List.replicate (16 * room - 16) 0
    (n ≤ room → c.putRecord seq status detail tag flags payload = { c with
       replies := c.replies.write (c.replyWrite % 1024 * 16) padded, replyWrite := (c.replyWrite + n) % 2 ^ 32 })
    ∧ (room < n → n ≤ 1024 → c.putRecord seq status detail tag flags payload = { c with
       replies := (c.replies.write (c.replyWrite % 1024 * 16) pad).write 0 padded
       replyWrite := (c.replyWrite + room + n) % 2 ^ 32 }) := by
  intro n room body padded pad
  have hbody : replyHdr seq status detail tag (payload.length / 4) flags ++ payload = body := rfl
  have hlen : body.length = 16 + payload.length := by rw [← hbody, List.length_append, length_replyHdr]
  have hpadded : padded.length = 16 * n := by
    rw [List.length_append, List.length_replicate, hlen]
    omega
  have hroom : 1 ≤ room ∧ room ≤ 1024 := by omega
  have hunits : recUnits payload.length = n := rfl
  have hrec : c.putRecord seq status detail tag flags payload = (if n ≤ room then c
      else c.putUnits (replyHdr 0 0 0 0 ((room * 16 - 16) / 4) 8 ++ List.replicate (room * 16 - 16) 0)).putUnits padded := by
    have hcomm : n * 16 = 16 * n := Nat.mul_comm _ _
    rw [Channel.putRecord, hunits, hbody, hcomm]
  rw [hrec]
  refine ⟨fun h => by rw [if_pos h, putUnits_eq c hpadded], fun h _ => ?_⟩
  have hpad : replyHdr 0 0 0 0 ((room * 16 - 16) / 4) 8 ++ List.replicate (room * 16 - 16) 0 = pad := by
    rw [Nat.mul_comm room 16]
    rfl
  have hpadlen : pad.length = 16 * room := by
    rw [← hpad, List.length_append, length_replyHdr, List.length_replicate]
    omega
  have hstart : (c.replyWrite + room) % 2 ^ 32 % 1024 = 0 := by
    rw [Nat.mod_mod_of_dvd _ (by decide)]
    omega
  rw [if_neg (Nat.not_le.mpr h), hpad, putUnits_eq c hpadlen, putUnits_eq _ hpadded]
  dsimp only
  rw [hstart, Nat.zero_mul, Nat.mod_add_mod]

/-! ### Abort -/

/-- A channel after ABORT, before its abandoned requests are swept. -/
def aborted (c : Channel) : Channel :=
  Channel.putRecord { c with
    reqRead := c.last, readIndex := c.replyWrite, abandoned := c.abandoned ++ c.accepted, accepted := []
    aborts := (c.aborts + 1) % 2 ^ 16 } c.nextSeq 0 ((c.aborts + 1) % 2 ^ 16) 0 5 []

theorem aborted_eq (c : Channel) : aborted c = { c with
    reqRead := c.last, readIndex := c.replyWrite, abandoned := c.abandoned ++ c.accepted, accepted := []
    aborts := (c.aborts + 1) % 2 ^ 16
    replies := c.replies.write (c.replyWrite % 1024 * 16) (leBytes 4 c.nextSeq ++ leBytes 2 0 ++
      leBytes 2 ((c.aborts + 1) % 2 ^ 16) ++ leBytes 4 0 ++ leBytes 2 0 ++ leBytes 1 5 ++ [0])
    replyWrite := (c.replyWrite + 1) % 2 ^ 32 } := by
  rw [aborted, (putRecord_spec _ _ _ _ _ _ []).1 (by dsimp only [List.length_nil]; omega)]
  simp [length_leBytes]

theorem finalOn_idle {s : State} {t : Nat} (h : (s.channel t).accepted = []) (ch op arg st d : Nat) (pl : List Byte) :
    (finalOn s ch op arg st d pl).channel t = s.channel t := by
  have hlate (s : State) (x : LateReply) (hx : x.ch ≠ t) : (lateOrNow s x).channel t = s.channel t := by
    unfold lateOrNow
    split
    · rw [postRecord_channel, if_neg (Ne.symm hx)]
    · rfl
  have hlates (l : List Accepted) (s : State) (hne : ch ≠ t) :
      (l.foldl (fun s a => lateOrNow s ⟨ch, a.seq, st, d, a.tag, pl⟩) s).channel t = s.channel t :=
    foldl_keeps (fun s : State => s.channel t) (f := fun (s : State) (a : Accepted) => lateOrNow s ⟨ch, a.seq, st, d, a.tag, pl⟩)
      (fun s a => hlate s _ hne) l s
  unfold finalOn
  extract_lets c mine s1
  split
  · rfl
  next hmine =>
    have hne : ch ≠ t := by
      rintro rfl
      exact hmine (by simp only [mine, c, h, List.filter_nil])
    rw [hlates _ _ hne, State.setChannel_channel, if_neg (Ne.symm hne)]

theorem stopEngCtx_idle {s : State} {t : Nat} (h : (s.channel t).accepted = []) (c : Nat) :
    (stopEngCtx s c).channel t = s.channel t ∧ (stopEngCtx s c).ctxs = s.ctxs := by
  have hdet (b : Option (Nat × Bool)) : (detachBz s b).channels = s.channels ∧ (detachBz s b).ctxs = s.ctxs := by
    cases b <;> exact ⟨rfl, rfl⟩
  unfold stopEngCtx
  extract_lets s1 e s2
  have h1 : s1.channel t = s.channel t ∧ s1.ctxs = s.ctxs := by
    cases hj : (s.engCtx c).job with
    | none => simp only [s1, hj, and_self]
    | some j =>
      have hchan : (detachBz s j.blaze).channel t = s.channel t := by rw [State.channel, (hdet j.blaze).1]; rfl
      cases hx : j.xfer with
      | none => simp only [s1, hj, hx]; exact ⟨hchan, (hdet j.blaze).2⟩
      | some z =>
        simp only [s1, hj, hx]
        refine ⟨(finalOn_idle (by rw [hchan, h]) _ _ _ _ _ _).trans hchan, ?_⟩
        exact (says_finalOn _ _ _ _ _ _ _).ctxs.trans (hdet j.blaze).2
  split <;> exact h1

theorem sweepAbandoned_idle {s : State} {t : Nat} (h : (s.channel t).accepted = []) :
    (sweepAbandoned s t).channel t = { s.channel t with abandoned := [] } ∧ (sweepAbandoned s t).ctxs = s.ctxs := by
  unfold sweepAbandoned
  extract_lets c s1
  have h1 : s1.channel t = { s.channel t with abandoned := [] } := by
    rw [State.setChannel_channel, if_pos rfl]
  rw [← h1]
  refine List.foldlRecOn (motive := fun u : State => u.channel t = s1.channel t ∧ u.ctxs = s1.ctxs) c.abandoned _ ⟨rfl, rfl⟩
    fun u ⟨hc, hx⟩ a _ => ?_
  split
  · exact ⟨hc, hx⟩
  · split
    · obtain ⟨hc', hx'⟩ := stopEngCtx_idle (s := u) (t := t) (by rw [hc, h1]; exact h) a.arg
      exact ⟨hc'.trans hc, hx'.trans hx⟩
    · exact ⟨hc, hx⟩

/-- ABORT drops what waits in the channel; the requests accepted are abandoned, at once where Kreog runs. -/
theorem abortChannel_leaves (s : State) (t : Nat) : (abortChannel s t).channel t = { aborted (s.channel t) with
      abandoned := if s.ranger.up = true then [] else (s.channel t).abandoned ++ (s.channel t).accepted }
    ∧ (abortChannel s t).ctxs = s.ctxs := by
  unfold abortChannel
  extract_lets c n _ s0 s1 s2
  have h1 : s1.channel t = { c with
      reqRead := c.last, readIndex := c.replyWrite, abandoned := c.abandoned ++ c.accepted, accepted := [], aborts := n } := by
    rw [State.setChannel_channel, if_pos rfl]
  have h2 : s2.channel t = aborted c := by
    rw [postRecord_channel, if_pos rfl, h1]
    rfl
  have hx : s2.ctxs = s.ctxs := postRecord_ctxs _ _ _ _ _ _ _ _
  have hup : s2.ranger.up = s.ranger.up := (congrArg Ranger.up (postRecord_ranger _ _ _ _ _ _ _ _)).trans rfl
  clear_value s2
  rw [hup]
  split
  · obtain ⟨hc, hx'⟩ := sweepAbandoned_idle (s := s2) (t := t) (by rw [h2, aborted_eq])
    exact ⟨by rw [hc, h2], hx'.trans hx⟩
  · have habandons : aborted c = { aborted c with abandoned := c.abandoned ++ c.accepted } := by rw [aborted_eq]
    exact ⟨h2.trans habandons, hx⟩

/-! ### Self-reset -/

/-- From `s` to `t` context `k` is its tenant's still, in its state or, if it was LIVE, faulted. -/
def KeepsCtx (k : Nat) (s t : State) : Prop :=
  (t.ctx k).tenant = (s.ctx k).tenant ∧ ((t.ctx k).st = (s.ctx k).st ∨ ((s.ctx k).st = .live ∧ (t.ctx k).st = .faulted))

theorem Discards.keepsCtx {s t : State} (h : Discards s t) (k : Nat) : KeepsCtx k s t := ⟨by rw [h.ctx k], h.ctxSt k⟩

theorem KeepsCtx.trans {k : Nat} {a b c : State} (h : KeepsCtx k a b) (g : KeepsCtx k b c) : KeepsCtx k a c := by
  refine ⟨g.1.trans h.1, ?_⟩
  rcases g.2 with hg | ⟨hg, hgf⟩
  · rw [hg]
    exact h.2
  · exact h.2.elim (fun hh => .inr ⟨hh ▸ hg, hgf⟩) fun hh => absurd (hh.2.symm.trans hg) CtxSt.noConfusion

theorem stopCtx_other (s : State) {c k : Nat} (st : CtxSt) (hk : k ≠ c) : KeepsCtx k s (stopCtx s c st) := by
  have hdisc : Discards s (discardCtx s c) := discards_discardCtx s c
  have hset : KeepsCtx k (discardCtx s c) (setCtxSt (discardCtx s c) c st) := by
    rw [KeepsCtx, setCtxSt_ctx, if_neg hk]
    exact ⟨rfl, .inl rfl⟩
  exact ((hdisc.keepsCtx k).trans hset).trans ((settled_settle _ _).discards.keepsCtx k)

theorem stopCtx_tenant (s : State) (c : Nat) (st : CtxSt) : ((stopCtx s c st).ctx c).tenant = (s.ctx c).tenant := by
  have hset : ((setCtxSt (discardCtx s c) c st).ctx c).tenant = ((discardCtx s c).ctx c).tenant := by
    rw [setCtxSt_ctx, if_pos rfl]
  have hsettled : KeepsCtx c (setCtxSt (discardCtx s c) c st) (stopCtx s c st) := (settled_settle _ _).discards.keepsCtx c
  exact (hsettled.1.trans hset).trans ((discards_discardCtx s c).keepsCtx c).1

/-- What a tenant's reset does to each of its contexts. -/
def resetOne (s : State) (c : Nat) : State :=
  if (s.ctx c).st = .live ∨ (s.ctx c).st = .faulted then stopCtx s c .resetting else s

def Resettable (st : CtxSt) : Prop := st = .live ∨ st = .faulted ∨ st = .resetting

theorem resetOne_resets {s : State} {c : Nat} (h : Resettable (s.ctx c).st) : ((resetOne s c).ctx c).st = .resetting := by
  unfold resetOne
  split
  · exact (stopCtx_stops (s := s) CtxSt.noConfusion).1
  next hno => exact h.elim (fun hl => absurd (.inl hl) hno) fun h => h.elim (fun hf => absurd (.inr hf) hno) id

theorem resetOne_keeps (s : State) (c k : Nat) : ((resetOne s c).ctx k).tenant = (s.ctx k).tenant
    ∧ ((s.ctx k).st = .resetting → ((resetOne s c).ctx k).st = .resetting)
    ∧ (Resettable (s.ctx k).st → Resettable ((resetOne s c).ctx k).st) := by
  by_cases hk : k = c
  · subst hk
    refine ⟨?_, fun h => resetOne_resets (.inr (.inr h)), fun h => .inr (.inr (resetOne_resets h))⟩
    unfold resetOne
    split
    · exact stopCtx_tenant s k _
    · rfl
  · have hkeep : KeepsCtx k s (resetOne s c) := by
      unfold resetOne
      split
      · exact stopCtx_other s _ hk
      · exact ⟨rfl, .inl rfl⟩
    refine ⟨hkeep.1, fun h => hkeep.2.elim (·.trans h) fun hl => absurd (h.symm.trans hl.1) CtxSt.noConfusion, fun h => ?_⟩
    rcases hkeep.2 with hs | ⟨-, hf⟩
    · exact hs ▸ h
    · exact .inr (.inl hf)

theorem resetAll_resets (l : List Nat) {k : Nat} (s : State) (hk : k ∈ l) (h : Resettable (s.ctx k).st) :
    ((l.foldl resetOne s).ctx k).st = .resetting ∧ ((l.foldl resetOne s).ctx k).tenant = (s.ctx k).tenant := by
  have hstays (l : List Nat) (s : State) (h : (s.ctx k).st = .resetting) : ((l.foldl resetOne s).ctx k).st = .resetting
      ∧ ((l.foldl resetOne s).ctx k).tenant = (s.ctx k).tenant := by
    induction l generalizing s with
    | nil => exact ⟨h, rfl⟩
    | cons c l ih =>
      obtain ⟨hten, hst, -⟩ := resetOne_keeps s c k
      obtain ⟨hs, ht⟩ := ih (resetOne s c) (hst h)
      exact ⟨hs, ht.trans hten⟩
  induction l generalizing s with
  | nil => cases hk
  | cons c l ih =>
    obtain ⟨hten, -, hres⟩ := resetOne_keeps s c k
    obtain rfl | hin := List.mem_cons.mp hk
    · obtain ⟨hs, ht⟩ := hstays l (resetOne s k) (resetOne_resets h)
      exact ⟨hs, ht.trans hten⟩
    · obtain ⟨hs, ht⟩ := ih (resetOne s c) hin (hres h)
      exact ⟨hs, ht.trans hten⟩

theorem dropFlips_keepsCtx (s : State) (t k : Nat) : KeepsCtx k s (dropFlips s t) :=
  (settled_discardSets (s := s) fun x => x.tenant == t).discards.keepsCtx k

theorem mem_ctxsOf {s : State} {t k : Nat} (ht : (s.ctx k).tenant = t) (hst : (s.ctx k).st ≠ .free) : k ∈ ctxsOf s t := by
  cases hx : tget? s.ctxs k with
  | none =>
    refine absurd ?_ hst
    rw [State.ctx, tget_eq, hx]
    rfl
  | some x =>
    have hctx : s.ctx k = x := by rw [State.ctx, tget_eq, hx]; rfl
    refine List.mem_map.mpr ⟨(k, x), List.mem_filter.mpr ⟨mem_of_tget? hx, ?_⟩, rfl⟩
    rw [← hctx]
    simp [ht, hst]

/-- A tenant's reset with one of its contexts in use stays open until that is reset. -/
theorem resetTenant_leaves {s : State} {t k : Nat} (ht : (s.ctx k).tenant = t) (h : Resettable (s.ctx k).st) :
    let u := settleReset (resetTenant s t) t
    (u.ctx k).st = .resetting ∧ (u.tenant t).resetting = true ∧ (u.tenant t).envelope = none ∧ (u.tenant t).logTotal = 0
      ∧ (∀ e ∈ (u.tenant t).waits, e.2.armed = false) ∧ (u.channel t).aborts = (s.channel t).aborts
      ∧ (u.channel t).nextSeq = (s.channel t).nextSeq := by
  obtain ⟨s1, hs1⟩ : ∃ s1, s1 = (ctxsOf s t).foldl resetOne s := ⟨_, rfl⟩
  obtain ⟨s2, hs2⟩ : ∃ s2, s2 = stopBlazeOf (stopChipOf (dropFlips s1 t) fun _ g => g.1 == t) t := ⟨_, rfl⟩
  have hreset : resetTenant s t = s2.setTenant t { (s2.tenant t).clearLog.disarm with resetting := true, envelope := none } := by
    rw [hs2, hs1]
    rfl
  have hmem : k ∈ ctxsOf s t := mem_ctxsOf ht fun hf => by
    rw [hf] at h
    exact h.elim CtxSt.noConfusion fun h => h.elim CtxSt.noConfusion CtxSt.noConfusion
  obtain ⟨hst1, hten1⟩ := resetAll_resets (ctxsOf s t) s hmem h
  rw [← hs1] at hst1 hten1
  have hdisc : Discards (dropFlips s1 t) s2 := hs2 ▸ (discards_stopChipOf _ _).trans (discards_stopBlazeOf _ t)
  have hkeep : KeepsCtx k s1 s2 := (dropFlips_keepsCtx s1 t k).trans (hdisc.keepsCtx k)
  have hst2 : (s2.ctx k).st = .resetting :=
    hkeep.2.elim (·.trans hst1) fun hl => absurd (hst1.symm.trans hl.1) CtxSt.noConfusion
  have hsheds1 : Sheds s s1 := hs1 ▸ Sheds.foldl (fun s c => by
    unfold resetOne
    split
    · exact sheds_stopCtx c _
    · exact .refl s) _ s
  have htold : Told s s2 := ((hsheds1.trans (sheds_dropFlips t)).trans hdisc.sheds).told
  have hchan := htold.channel t
  have hopen : settleReset (resetTenant s t) t = resetTenant s t := by
    have hin : k ∈ ctxsOf (resetTenant s t) t := by
      refine mem_ctxsOf ?_ ?_
      · rw [hreset]
        exact (hkeep.1.trans hten1).trans ht
      · rw [hreset]
        show (s2.ctx k).st ≠ .free
        rw [hst2]
        exact CtxSt.noConfusion
    have hk : ((resetTenant s t).ctx k).st = .resetting := by rw [hreset]; exact hst2
    refine if_neg fun hall => ?_
    have := List.all_eq_true.mp (Bool.and_eq_true_iff.mp hall).2 k hin
    rw [hk] at this
    cases this
  have htenant : (resetTenant s t).tenant t = { (s2.tenant t).clearLog.disarm with resetting := true, envelope := none } := by
    rw [hreset, State.setTenant_tenant, if_pos rfl]
  intro u
  rw [show u = resetTenant s t from hopen, htenant, hreset]
  refine ⟨hst2, rfl, rfl, rfl, fun e he => ?_, ?_, ?_⟩
  · obtain ⟨x, -, rfl⟩ := List.mem_map.mp he
    dsimp only
    split
    · rfl
    next hno => exact Bool.eq_false_iff.mpr hno
  · show (s2.channel t).aborts = _
    rw [hchan]
  · show (s2.channel t).nextSeq = _
    rw [hchan]

/-! ### The registers of a channel -/

section
variable {s : State} {a : Access} {t : Nat} (h : OwnWrite s a t)
include h

theorem flumeDoorbell_eq : exec (.flumeDoorbell a t) s = .next (
    if (a.data.toNat % 2 ^ 32 + 2 ^ 32 - (s.channel t).last) % 2 ^ 32 = 0
        ∨ 2 ^ 31 ≤ (a.data.toNat % 2 ^ 32 + 2 ^ 32 - (s.channel t).last) % 2 ^ 32
        ∨ 1024 < (a.data.toNat % 2 ^ 32 + 2 ^ 32 - (s.channel t).reqRead) % 2 ^ 32
    then accLog s a t 0xC (flumeOff t 0) else s.setChannel t { s.channel t with last := a.data.toNat % 2 ^ 32 }) := by
  rw [exec_flumeDoorbell, execFlumeDoorbell, ownPage_of_own h.up h.who, accCovers_word.mpr h.covers]
  simp only [Bool.not_true, Bool.false_or, Bool.or_eq_true, beq_iff_eq, decide_eq_true_eq, or_assoc]

theorem flumeReplyRead_eq : exec (.flumeReplyRead a t) s = .next (
    if readIndexOk (s.channel t) (a.data.toNat % 2 ^ 32) = true
    then s.setChannel t { s.channel t with readIndex := a.data.toNat % 2 ^ 32 } else accLog s a t 0xC (flumeOff t 0x10)) := by
  rw [exec_flumeReplyRead, execFlumeReplyRead, ownPage_of_own h.up h.who, accCovers_word.mpr h.covers]
  dsimp only
  cases readIndexOk (s.channel t) (a.data.toNat % 2 ^ 32) <;> rfl

/-- The channel with the notification fields that a write of FLUME_CTL names. -/
def notified (s : State) (a : Access) (t : Nat) : State :=
  let c := s.channel t
  let v := accMerge a (BitVec.ofNat 64 (c.vector * 2 ^ 32 + b2n c.notify * 2 ^ 16))
  s.setChannel t { c with vector := bitsOf v.toNat 42 32, notify := v.getLsbD 16 }

omit h in
theorem notified_channel (s : State) (b : Access) (t : Nat) : (notified s b t).channel t = { s.channel t with
    vector := ((notified s b t).channel t).vector, notify := ((notified s b t).channel t).notify } := by
  rw [notified]
  dsimp only
  rw [State.setChannel_channel, if_pos rfl]

theorem abort_eq (hbit : a.data.getLsbD 1 = false) : ∃ b, exec (.abort a t) s = .next (abortChannel (notified s b t) t) := by
  refine ⟨{ a with data := a.data ||| 1, be := a.be ||| 1 }, ?_⟩
  rw [exec_abort, execAbort, ownPage_of_own h.up h.who]
  unfold writeFlumeCtl
  extract_lets c v s1 on
  have h1 : on.getLsbD 1 = false := by
    rw [show on.getLsbD 1 = _ from accOnes_set (by decide) (by decide), BitVec.getLsbD_or, hbit]
    decide
  have h0 : on.getLsbD 0 = true := by
    rw [show on.getLsbD 0 = _ from accOnes_set (by decide) (by decide), BitVec.getLsbD_or, Bool.or_eq_true]
    exact .inr (by decide)
  rw [h1, h0]
  rfl

theorem selfReset_exec (ht : t < 16) : ∃ b, exec (.selfReset a t) s = .next (
    settleReset (resetTenant (abortChannel (notified s b t) t) t) t) := by
  refine ⟨{ a with data := a.data ||| 2, be := a.be ||| 1 }, ?_⟩
  rw [exec_selfReset, execSelfReset, ownPage_of_own h.up h.who]
  unfold writeFlumeCtl
  extract_lets c v s1 on
  have h1 : on.getLsbD 1 = true := by
    rw [show on.getLsbD 1 = _ from accOnes_set (by decide) (by decide), BitVec.getLsbD_or, Bool.or_eq_true]
    exact .inr (by decide)
  have hch : (t != i3cChannel) = true := bne_iff_ne.mpr (by unfold i3cChannel; omega)
  have hs1 : s1 = notified s { a with data := a.data ||| 2, be := a.be ||| 1 } t := rfl
  clear_value s1
  rw [if_pos (by rw [h1, hch]; rfl), hs1, selfReset_eq]

theorem selfReset_answers (ht : t < 16) {k : Nat} (hk : (s.ctx k).tenant = t) (hst : (s.ctx k).st = .live ∨ (s.ctx k).st = .faulted) :
    Answers (.selfReset a t) s fun u => (u.ctx k).st = .resetting ∧ (u.tenant t).resetting = true ∧ (u.tenant t).envelope = none
      ∧ (u.tenant t).logTotal = 0 ∧ (∀ e ∈ (u.tenant t).waits, e.2.armed = false)
      ∧ (u.channel t).aborts = ((s.channel t).aborts + 1) % 2 ^ 16 ∧ (u.channel t).nextSeq = (s.channel t).nextSeq := by
  obtain ⟨b, hexec⟩ := selfReset_exec h ht
  obtain ⟨v, hv⟩ : ∃ v, v = abortChannel (notified s b t) t := ⟨_, rfl⟩
  obtain ⟨hchan, hctxs⟩ := abortChannel_leaves (notified s b t) t
  rw [aborted_eq, notified_channel] at hchan
  rw [← hv] at hexec hchan hctxs
  have hctx : v.ctx k = s.ctx k := by rw [State.ctx, hctxs]; rfl
  have hleaves := resetTenant_leaves (s := v) (t := t) (k := k) (by rw [hctx]; exact hk) (by rw [hctx]; exact hst.imp_right .inl)
  obtain ⟨w, hw⟩ : ∃ w, w = settleReset (resetTenant v t) t := ⟨_, rfl⟩
  rw [← hw] at hexec hleaves
  obtain ⟨hst', hres, henv, hlog, hwaits, hab, hseq⟩ := hleaves
  rw [hchan] at hab hseq
  exact ⟨w, hexec, hst', hres, henv, hlog, hwaits, hab, hseq⟩

end

section
variable {s : State} {r : Req}

theorem flumeNop_notReady (h : flumeReady s r = false) : exec (.flumeNop r) s = .next s := by
  rw [exec_flumeNop, execFlumeNop, serveNop, h]
  rfl

theorem flumeNop_takes (h : flumeReady s r = true) (hl : reqTooLong s r = false) :
    exec (.flumeNop r) s = .next (takeReq s r false) := by
  rw [exec_flumeNop, execFlumeNop, serveNop, h, hl]
  rfl

theorem badOpcode_refused {o : BitVec 16} (ho : flumeOpcodes.contains o.toNat = false) (h : flumeReady s r = true)
    (hl : reqTooLong s r = false) {st d : Nat} {used : Bool} (hh : headerCheck s r none = some (st, d, used)) :
    exec (.badOpcode r o) s = .next (replyTo (takeReq s r used) r st d []) := by
  rw [exec_badOpcode, execBadOpcode, ho, serve_refused _ _ _ h hl hh]
  rfl

theorem ping_answers (h : Requested s r 0 []) : exec (.ping r) s = .next
    (replyTo (takeReq s r true) r 0 0 (leBytes 4 s.boot.kreogVersion ++ leBytes 4 s.boot.kreogBuild)) := by
  rw [exec_ping, execPing, serve_requested h]
  rfl

theorem eventMask_sets (h : Requested s r 1 [(0, 4)]) (hmask : reqField r 0 4 < 8) : exec (.eventMask r) s = .next
    (replyTo ((takeReq s r true).setChannel r.ch { (takeReq s r true).channel r.ch with mask := 4 * reqField r 0 4 }) r 0 0 []) := by
  rw [exec_eventMask, execEventMask, serve_requested h]
  dsimp only
  rw [roleThen_none rfl 0 (paramFail_none h (by simpa using hmask)), Nat.mul_comm]
  rfl

theorem eventMask_refuses (h : Requested s r 1 [(0, 4)]) (hmask : 8 ≤ reqField r 0 4) :
    exec (.eventMask r) s = .next (replyTo (takeReq s r true) r 0x12 0 []) := by
  have hbad : badOffset r [(0, 4)] [(0, decide (reqField r 0 4 < 8))] 0 :=
    .inl (by rw [decide_eq_false (Nat.not_lt.mpr hmask)]; exact List.mem_singleton_self _)
  obtain ⟨hnone, hleast⟩ := paramFail_spec r [(0, 4)] [(0, decide (reqField r 0 4 < 8))]
  have hfail : paramFail r [(0, 4)] [(0, decide (reqField r 0 4 < 8))] = some 0 := by
    cases hp : paramFail r [(0, 4)] [(0, decide (reqField r 0 4 < 8))] with
    | none => exact absurd hbad (hnone.mp hp 0)
    | some o => rw [Nat.le_zero.mp ((hleast o hp).2 0 hbad)]
  rw [exec_eventMask, execEventMask, serve_requested h]
  dsimp only
  rw [roleThen_bad rfl 0 hfail]
  rfl

end

/-- Settles O35: the header checks go in the order of the rule, a record is written whole, and the registers of a channel do what
their rules say. -/
theorem flumeChannels : Obligations.FlumeChannels := by
  unfold Obligations.FlumeChannels
  refine ⟨⟨fun r s => ⟨fun hr => ⟨fun e he => ?_, ?_⟩, fun hr hlong e he => ?_, fun hr hl => ⟨?_, fun hv e he => ?_, fun hv ht e he => ?_,
      fun hv ht hs e he => ?_, fun hv ht hs => ⟨fun hf e he => ?_, fun hf => ⟨fun o ho => ?_, fun e he hw => ?_⟩⟩⟩, fun h => ?_,
      fun h hmask => ?_, fun h hmask => ?_⟩, paramFail_spec, fun s ch seq status detail tag flags payload => ?_⟩,
    fun a t s h ht => ⟨fun h1 h2 h3 => ?_, fun hbad => ?_, fun hok => ?_, fun hbad => ?_, fun hbit => ?_, fun k hk hst => ?_⟩⟩
  · exact request_notReady he hr
  · exact flumeNop_notReady hr
  · exact request_tooLong he hr (Bool.or_eq_true_iff.mpr (hlong.imp decide_eq_true decide_eq_true))
  · exact flumeNop_takes hr hl
  · exact request_refused he hr hl (headerCheck_version _ hv)
  · exact request_refused he hr hl (headerCheck_tenant hv _ ht)
  · exact request_refused he hr hl (headerCheck_seq hv ht _ hs)
  · exact request_refused he hr hl (headerCheck_flags hv ht hs _ hf)
  · exact badOpcode_refused ho hr hl (headerCheck_opcode hv ht hs hf)
  · exact request_refused he hr hl (headerCheck_words hv ht hs hf hw)
  · exact ping_answers h
  · exact eventMask_sets h hmask
  · exact eventMask_refuses h hmask
  · obtain ⟨hfits, hpads⟩ := putRecord_spec (s.channel ch) seq status detail tag flags payload
    have hchan (k : Nat) := postRecord_channel s ch seq status detail tag flags payload k
    refine ⟨fun hn => ?_, fun hr hn => ?_, fun k hk => by rw [hchan k, if_neg hk]⟩
    · rw [hchan ch, if_pos rfl]
      exact hfits hn
    · rw [hchan ch, if_pos rfl]
      exact hpads hr hn
  · rw [flumeDoorbell_eq h, if_neg (by omega)]
    rfl
  · rw [flumeDoorbell_eq h, if_pos hbad, flumeOff, Nat.mul_comm]
  · rw [flumeReplyRead_eq h, if_pos (show readIndexOk _ _ = true from decide_eq_true hok)]
    rfl
  · rw [flumeReplyRead_eq h, if_neg (by simpa [readIndexOk] using hbad), flumeOff, Nat.mul_comm]
  · obtain ⟨b, hexec⟩ := abort_eq h hbit
    obtain ⟨hchan, hctxs⟩ := abortChannel_leaves (notified s b t) t
    refine ⟨_, hexec, ?_⟩
    rw [aborted_eq, notified_channel] at hchan
    have hctx (k : Nat) : (abortChannel (notified s b t) t).ctx k = s.ctx k := by rw [State.ctx, hctxs]; rfl
    rw [show (notified s b t).ranger = s.ranger from rfl] at hchan
    dsimp only at hchan ⊢
    rw [hchan]
    dsimp only
    refine ⟨rfl, rfl, rfl, rfl, rfl, rfl, rfl, rfl, rfl, fun hu => ?_, fun hu => ?_, fun k => by rw [hctx k]⟩
    · rw [hu]
      rfl
    · rw [hu]
      rfl
  · exact selfReset_answers h ht hk hst

end Sys2Proof.Proofs

/-! Barriers: the lanes that arrive, the last of them, a stranded barrier, and what counts as promoted. -/

namespace Sys2Proof.Proofs

open Sys2Proof.Machine

/-! ### Instructions of format X that issue -/

theorem stepX_go {s s1 : State} {g : GroupAt} {code : List Nat} {ok : Bool} (hissue : issueCheck s g code = .go s1) (hok : ok = true)
    (k : State → Group → State) : stepX s g code ok k = k s1 (s1.group g) := by
  rw [stepX, inCycle_ready _ _ _ (issueCheck_ready _ _ _ _ hissue), hissue, hok]
  rfl

theorem pendAny_quiet {c : Machine.Core} {gid : Nat} {m : Mask} (h : ∀ p ∈ c.stores, p.gid = gid → m &&& p.lanes = 0) :
    pendAny c gid m = false := by
  refine List.any_eq_false.mpr fun p hp => ?_
  rw [Bool.and_eq_true, beq_iff_eq, bne_iff_ne]
  exact fun ⟨hg, hne⟩ => hne (h p hp hg)

/-- Core `d` is core `c` with group `y` in a slot, and with the pipelines' turns counted on. -/
structure GroupIn (c d : Machine.Core) (slot : Nat) (y : Group) : Prop where
  group : ∀ k, d.group k = if k = slot then y else c.group k
  wgs : d.wgs = c.wgs
  tq : d.tq = c.tq
  requeue : d.requeue = c.requeue

/-- The core once an issue is counted and the group is written back. -/
theorem issued_groupIn (s : State) (g : GroupAt) (y : Group) :
    GroupIn (s.core g.core) (((countIssue s g).setGroup g y).core g.core) g.slot y := by
  have hset : ((countIssue s g).setGroup g y).core g.core = ((countIssue s g).core g.core).setGroup g.slot y := by
    rw [State.setGroup, State.setCore_core, if_pos rfl]
  obtain ⟨c, hc, hcount⟩ := countIssue_core s g
  rw [hset]
  obtain ⟨hgroups, hwgs, htq, hrequeue⟩ : c.groups = (s.core g.core).groups ∧ c.wgs = (s.core g.core).wgs
      ∧ c.tq = (s.core g.core).tq ∧ c.requeue = (s.core g.core).requeue := by
    rw [hc]
    exact ⟨rfl, rfl, rfl, rfl⟩
  have hread (k : Nat) : c.group k = (s.core g.core).group k := by rw [Core.group, hgroups]; rfl
  rcases hcount with h | h <;> rw [h]
  · exact ⟨fun k => by rw [Core.group_setGroup, hread], hwgs, htq, hrequeue⟩
  · refine ⟨fun k => ?_, hwgs, htq, hrequeue⟩
    rw [Core.group_setGroup, Core.group_setGroup, hread]
    split <;> rfl

theorem slotsOf_congr {c d : Machine.Core} (h : ∀ k, (d.group k).live = (c.group k).live ∧ (d.group k).wg = (c.group k).wg) (w : Nat) :
    d.slotsOf w = c.slotsOf w :=
  List.filter_congr fun k _ => by rw [(h k).1, (h k).2]

/-- Counting an issue leaves the memory, the fences and the contexts. -/
theorem countIssue_rest (s : State) (g : GroupAt) : (countIssue s g).mem = s.mem ∧ (countIssue s g).fences = s.fences
    ∧ (countIssue s g).ctxs = s.ctxs := by
  unfold countIssue
  extract_lets x c s0 s1
  have h1 : s1.mem = s.mem ∧ s1.fences = s.fences ∧ s1.ctxs = s.ctxs := ⟨bump_mem _ _ _, bump_fences _ _ _, bump_ctxs _ _ _⟩
  split
  · rw [bump_mem, bump_fences, bump_ctxs]
    exact h1
  · exact h1

theorem GroupIn.slotsOf {c d : Machine.Core} {slot : Nat} {y : Group} (h : GroupIn c d slot y) (hlive : y.live = (c.group slot).live)
    (hwg : y.wg = (c.group slot).wg) (w : Nat) : d.slotsOf w = c.slotsOf w := by
  refine slotsOf_congr (fun k => ?_) w
  rw [h.group k]
  split
  next hk => exact ⟨hk ▸ hlive, hk ▸ hwg⟩
  next => exact ⟨rfl, rfl⟩

/-! ### Lanes that have arrived -/

theorem popCount_eq_countP (m : Mask) : popCount 32 m.toNat = (List.range 32).countP fun i => inMask m i := by
  rw [popCount_eq_length, List.countP_eq_length_filter]
  rfl

theorem popCount_le {a b : Mask} (h : a &&& b = a) : popCount 32 a.toNat ≤ popCount 32 b.toNat := by
  rw [popCount_eq_countP, popCount_eq_countP]
  refine List.countP_mono_left fun i _ hi => ?_
  rw [← h, inMask_and, Bool.and_eq_true] at hi
  exact hi.2

theorem popCount_pos {m : Mask} (h : m ≠ 0) : 0 < popCount 32 m.toNat := by
  obtain ⟨hin, hlt⟩ := inMask_lowLane h
  rw [popCount_eq_countP]
  exact List.countP_pos_iff.mpr ⟨_, List.mem_range.mpr hlt, hin⟩

theorem or_andNot_alive {m a e : Mask} (h : m &&& ~~~e = m) : (m ||| (a &&& ~~~e)) &&& ~~~e = m ||| (a &&& ~~~e) := by
  refine mask_ext fun i hi => ?_
  have hmi := congrArg (inMask · i) h
  simp only [inMask, BitVec.getLsbD_and, BitVec.getLsbD_or, BitVec.getLsbD_not] at hmi ⊢
  rw [Bool.and_or_distrib_right, hmi, Bool.and_assoc, Bool.and_self]

theorem waitingAt_alive (x : Group) (b : Nat) (done : Nat → Bool) : x.waitingAt b done &&& x.alive = x.waitingAt b done := by
  unfold Group.waitingAt
  refine List.foldlRecOn (motive := fun m : Mask => m &&& x.alive = m) x.stack _ BitVec.zero_and fun m hm e _ => ?_
  split
  · exact or_andNot_alive hm
  · exact hm

theorem waitingAt_none {x : Group} (h : ∀ k q, k ∈ x.stack → k.blocked = some q → k.mask &&& x.alive = 0) (b : Nat)
    (done : Nat → Bool) : x.waitingAt b done = 0 := by
  unfold Group.waitingAt
  refine List.foldlRecOn (motive := fun m : Mask => m = 0) x.stack _ rfl fun m hm e he => ?_
  subst hm
  split
  next hb =>
    have hbl : e.blocked = some b := by simpa using (Bool.and_eq_true_iff.mp hb).1
    rw [show e.mask &&& ~~~x.exited = 0 from h e b he hbl]
    rfl
  next => rfl

theorem wgWaiting_lt {c : Machine.Core} {w j : Nat} (hj : j ∈ c.slotsOf w) (halive : (c.group j).alive ≠ 0)
    (h : ∀ k q, k ∈ (c.group j).stack → k.blocked = some q → k.mask &&& (c.group j).alive = 0) (b : Nat) :
    c.wgWaiting w b < c.wgAlive w := by
  refine List.sum_lt_sum _ _ (fun k _ => popCount_le (waitingAt_alive _ _ _)) ⟨j, hj, ?_⟩
  rw [waitingAt_none h]
  exact popCount_pos halive

theorem barrierEval_waits {c : Machine.Core} {w : Nat} (h : ∀ b, b < 8 → c.wgWaiting w b < c.wgAlive w) : c.barrierEval w = c := by
  unfold Core.barrierEval
  refine List.foldlRecOn (motive := fun d => d = c) (List.range 8) _ rfl fun d hd b hb => ?_
  subst hd
  exact if_neg fun hall => absurd hall.2 (Nat.ne_of_lt (h b (List.mem_range.mp hb)))

/-! ### Groups that end -/

theorem captureFrags_rest (c : Machine.Core) (k : Nat) : (c.captureFrags k).groups = c.groups ∧ (c.captureFrags k).wgs = c.wgs := by
  unfold Core.captureFrags
  split <;> exact ⟨rfl, rfl⟩

theorem freeDead_rest (l : List Nat) (c : Machine.Core) : (l.foldl (fun c k => (c.captureFrags k).freeGroup k) c).wgs = c.wgs
    ∧ ∀ j, j ∉ l → (l.foldl (fun c k => (c.captureFrags k).freeGroup k) c).group j = c.group j := by
  induction l generalizing c with
  | nil => exact ⟨rfl, fun _ _ => rfl⟩
  | cons k l ih =>
    obtain ⟨hw, hg⟩ := ih ((c.captureFrags k).freeGroup k)
    obtain ⟨hcg, hcw⟩ := captureFrags_rest c k
    refine ⟨hw.trans hcw, fun j hj => (hg j fun h => hj (List.mem_cons_of_mem _ h)).trans ?_⟩
    have hne : (j == k) = false := beq_eq_false_iff_ne.mpr fun h => hj (h ▸ List.mem_cons_self)
    show tget (tdrop (c.captureFrags k).groups (· == k)) j .empty = _
    rw [tget_tdrop, hne, hcg]
    rfl

/-- Ending the groups of a workgroup that has a group with lanes left touches no such group, and no workgroup. -/
theorem endGroups_keeps {s : State} {core w j : Nat} (hj : j ∈ (s.core core).slotsOf w) (hlive : ((s.core core).group j).alive ≠ 0) :
    ∃ c, endGroups s core w = s.setCore core c ∧ c.wgs = (s.core core).wgs
      ∧ ∀ k, ((s.core core).group k).alive ≠ 0 → c.group k = (s.core core).group k := by
  obtain ⟨dead, hdead⟩ : ∃ dead, dead = ((s.core core).slotsOf w).filter fun k => ((s.core core).group k).alive == 0 := ⟨_, rfl⟩
  obtain ⟨hwgs, hgroups⟩ := freeDead_rest dead (s.core core)
  obtain ⟨c, hc⟩ : ∃ c, c = dead.foldl (fun c k => (c.captureFrags k).freeGroup k) (s.core core) := ⟨_, rfl⟩
  rw [← hc] at hwgs hgroups
  have hkeep (k : Nat) (hk : ((s.core core).group k).alive ≠ 0) : c.group k = (s.core core).group k := hgroups k fun hin => by
    rw [hdead] at hin
    exact hk (by simpa using (List.mem_filter.mp hin).2)
  have hin : j ∈ c.slotsOf w := by
    obtain ⟨hr, hl⟩ := List.mem_filter.mp hj
    refine List.mem_filter.mpr ⟨hr, ?_⟩
    rw [hkeep j hlive]
    exact hl
  refine ⟨c, ?_, hwgs, hkeep⟩
  unfold endGroups
  extract_lets c0 dead0 c1 c2
  have hc1 : c1 = c := by rw [hc, hdead]
  rw [hc1]
  refine if_neg fun hall => ?_
  rw [Bool.and_eq_true, Bool.and_eq_true, List.isEmpty_iff] at hall
  rw [hall.1.1] at hin
  cases hin

/-! ### bar -/

/-- The entry that lanes waiting at a barrier leave. -/
def waitEntry (x : Group) (b : Nat) : StkEntry := ⟨false, some b, x.tseq, x.pc + 8, x.active⟩

theorem barrierWait_empty {x : Group} (h : x.stack = []) (b : Nat) :
    x.barrierWait b (x.pc + 8) = .ok { x with stack := [waitEntry x b], active := 0 } := by
  simp [Group.barrierWait, Group.pushes, Group.resume, Group.resumeN, topPath, h, waitEntry]

/-- A fold whose steps do nothing until the one that acts, and nothing after it. -/
theorem foldl_once {α β : Type} {f : α → β → α} {a a' : α} {b0 : β} (hwait : ∀ b, b ≠ b0 → f a b = a) (hgo : f a b0 = a')
    (hdone : ∀ b, f a' b = a') {l : List β} (hin : b0 ∈ l) : l.foldl f a = a' := by
  have hrest (l : List β) : l.foldl f a' = a' := by
    induction l with
    | nil => rfl
    | cons b l ih => rw [List.foldl_cons, hdone, ih]
  induction l with
  | nil => cases hin
  | cons b l ih =>
    rw [List.foldl_cons]
    by_cases hb : b = b0
    · rw [hb, hgo, hrest]
    · rw [hwait b hb]
      exact ih ((List.mem_cons.mp hin).resolve_left (Ne.symm hb))

section
variable {s s1 : State} {g : GroupAt} {e : EncX} (hissue : issueCheck s g (e.code 0) = .go s1) (hok : barOk e = true)
  (hc : e.c.toNat < 8)
include hissue hok hc

theorem bar_eq (hquiet : ∀ p ∈ (s1.core g.core).stores, p.gid = (s1.group g).gid → (s1.group g).active &&& p.lanes = 0)
    (hs : (s1.group g).stack = []) : exec (.bar g e) s = .next (settleWg ((countIssue s1 g).setGroup g
      { s1.group g with stack := [waitEntry (s1.group g) e.c.toNat], active := 0, promoted := false }) g.core (s1.group g).wg) := by
  rw [exec_bar, execBar, stepX_go hissue hok, if_neg (Nat.not_le.mpr hc), pendAny_quiet hquiet, barrierWait_empty hs]
  rfl

end

/-- Settling workgroup `w` on a core left the memory, restarted its stranding counter, and left `c` with its groups that have lanes. -/
structure SettledWg (s t : State) (core w : Nat) (c : Machine.Core) : Prop where
  mem : t.mem = s.mem
  strand : ((t.core core).wgAt w).strand = 0
  group : ∀ k, (c.group k).alive ≠ 0 → (t.core core).group k = c.group k

/-- What settling leaves, by the core that evaluating the barriers leaves. -/
theorem settleWg_leaves {s : State} {core w j : Nat} {c : Machine.Core}
    (heval : ((s.core core).setWg w { (s.core core).wgAt w with strand := 0 }).barrierEval w = c) (hstrand : (c.wgAt w).strand = 0)
    (hj : j ∈ c.slotsOf w) (halive : (c.group j).alive ≠ 0) : SettledWg s (settleWg s core w) core w c := by
  have hcore : (s.setCore core c).core core = c := by rw [State.setCore_core, if_pos rfl]
  obtain ⟨d, hend, hwgs, hgroups⟩ := endGroups_keeps (s := s.setCore core c) (core := core) (w := w) (j := j)
    (by rw [hcore]; exact hj) (by rw [hcore]; exact halive)
  rw [hcore] at hwgs hgroups
  have hsettle : settleWg s core w = (s.setCore core c).setCore core d := by
    rw [← hend, ← heval]
    rfl
  have hd : (settleWg s core w).core core = d := by rw [hsettle, State.setCore_core, if_pos rfl]
  refine ⟨by rw [hsettle]; rfl, ?_, fun k hk => by rw [hd, hgroups k hk]⟩
  rw [hd, Core.wgAt, hwgs]
  exact hstrand

/-- Where a group of the workgroup has lanes that have not arrived, no barrier completes. -/
theorem settleWg_waits {s : State} {core w j : Nat} (hj : j ∈ (s.core core).slotsOf w) (halive : ((s.core core).group j).alive ≠ 0)
    (h : ∀ k q, k ∈ ((s.core core).group j).stack → k.blocked = some q → k.mask &&& ((s.core core).group j).alive = 0) :
    SettledWg s (settleWg s core w) core w ((s.core core).setWg w { (s.core core).wgAt w with strand := 0 }) := by
  refine settleWg_leaves (j := j) (barrierEval_waits fun b _ => wgWaiting_lt (j := j) hj halive h b) ?_ hj halive
  rw [Core.wgAt_setWg, if_pos rfl]

theorem release_alone {c : Machine.Core} {w slot : Nat} (h : c.slotsOf w = [slot]) (b : Nat) :
    c.release w b = (c.setGroup slot ((c.group slot).barrierRelease b)).setWg w
      { (c.setGroup slot ((c.group slot).barrierRelease b)).wgAt w with strand := 0 } := by
  unfold Core.release
  rw [h]
  rfl

theorem wgWaiting_alone {c : Machine.Core} {w slot : Nat} (h : c.slotsOf w = [slot]) (b : Nat) :
    c.wgWaiting w b = popCount 32 ((c.group slot).waitingAt b (c.tensorDone slot)).toNat := by
  rw [Core.wgWaiting, h]
  exact Nat.add_zero _

theorem wgAlive_alone {c : Machine.Core} {w slot : Nat} (h : c.slotsOf w = [slot]) :
    c.wgAlive w = popCount 32 (c.group slot).alive.toNat := by
  rw [Core.wgAlive, h]
  exact Nat.add_zero _

theorem tensorDone_idle {c : Machine.Core} (h1 : c.tq = []) (h2 : c.requeue = []) (slot q : Nat) : c.tensorDone slot q = true := by
  rw [Core.tensorDone, h1, h2]
  rfl

theorem alive_andNot (x : Group) : x.alive &&& ~~~x.exited = x.alive := BitVec.and_self

/-- The only group of a workgroup, all its lanes at a barrier, goes on behind the bar when it is released. -/
theorem barrierRelease_waiting {x : Group} {b : Nat} (hall : x.active = x.alive) (hne : x.alive ≠ 0) :
    Group.barrierRelease { x with stack := [waitEntry x b], active := 0 } b = { x with stack := [], pc := x.pc + 8 } := by
  have hactive : x.active &&& ~~~x.exited = x.active := by rw [hall]; exact alive_andNot x
  unfold Group.barrierRelease
  dsimp only
  rw [if_pos rfl, resume_top (top := { waitEntry x b with blocked := none }) (rest := []) (by simp [waitEntry]) rfl]
  · show { x with stack := [], active := x.active &&& ~~~x.exited, pc := x.pc + 8 } = _
    rw [hactive]
  · show x.active &&& ~~~x.exited ≠ 0
    rw [hactive, hall]
    exact hne

theorem waitingAt_alone {x : Group} {b : Nat} (hall : x.active = x.alive) (q : Nat) {done : Nat → Bool} (hdone : ∀ n, done n = true) :
    Group.waitingAt { x with stack := [waitEntry x b], active := 0 } q done = if q = b then x.alive else 0 := by
  have hactive : x.active &&& ~~~x.exited = x.alive := by rw [hall]; exact alive_andNot x
  rw [Group.waitingAt, List.foldl_cons, List.foldl_nil, hdone, Bool.and_true]
  by_cases hq : q = b
  · rw [if_pos hq, if_pos (by rw [hq]; exact decide_eq_true rfl)]
    show 0 ||| (x.active &&& ~~~x.exited) = _
    rw [hactive]
    exact BitVec.zero_or
  · rw [if_neg hq]
    exact if_neg fun h => hq (Option.some.inj (of_decide_eq_true h)).symm

/-- The barrier that the only group of its workgroup waits at with all its lanes completes. -/
theorem settleWg_completes {s : State} {core w slot b : Nat} {x : Group} (hb : b < 8) (hslots : (s.core core).slotsOf w = [slot])
    (htq : (s.core core).tq = []) (hrq : (s.core core).requeue = [])
    (hx : (s.core core).group slot = { x with stack := [waitEntry x b], active := 0 }) (hall : x.active = x.alive) (hne : x.alive ≠ 0) :
    ∃ c, SettledWg s (settleWg s core w) core w c ∧ c.group slot = { x with stack := [], pc := x.pc + 8 } := by
  obtain ⟨c, hc⟩ : ∃ c, c = (s.core core).setWg w { (s.core core).wgAt w with strand := 0 } := ⟨_, rfl⟩
  have hcslots : c.slotsOf w = [slot] := by rw [hc]; exact hslots
  have hcgroup : c.group slot = { x with stack := [waitEntry x b], active := 0 } := by rw [hc]; exact hx
  have hdone (n : Nat) : c.tensorDone slot n = true := tensorDone_idle (by rw [hc]; exact htq) (by rw [hc]; exact hrq) slot n
  have hwaiting (q : Nat) : c.wgWaiting w q = popCount 32 (if q = b then x.alive else 0).toNat := by
    rw [wgWaiting_alone hcslots, hcgroup, waitingAt_alone hall q hdone]
  have halive : c.wgAlive w = popCount 32 x.alive.toNat := by rw [wgAlive_alone hcslots, hcgroup]; rfl
  obtain ⟨d, hd⟩ : ∃ d, d = c.release w b := ⟨_, rfl⟩
  have hdgroup (k : Nat) : d.group k = if k = slot then { x with stack := [], pc := x.pc + 8 } else c.group k := by
    rw [hd, release_alone hcslots, Core.group_setWg, Core.group_setGroup, hcgroup, barrierRelease_waiting hall hne]
  have hdslot : d.group slot = { x with stack := [], pc := x.pc + 8 } := by rw [hdgroup, if_pos rfl]
  have hdslots : d.slotsOf w = [slot] := by
    refine (slotsOf_congr (fun k => ?_) w).trans hcslots
    rw [hdgroup]
    split
    next hk => rw [hk, hcgroup]; exact ⟨rfl, rfl⟩
    next => exact ⟨rfl, rfl⟩
  have heval : c.barrierEval w = d := by
    unfold Core.barrierEval
    refine foldl_once (b0 := b) (fun q hq => ?_) ?_ (fun q => ?_) (List.mem_range.mpr hb)
    · refine if_neg fun h => h.1 ?_
      rw [hwaiting, if_neg hq]
      rfl
    · rw [hd]
      refine if_pos ⟨?_, ?_⟩
      · rw [hwaiting, if_pos rfl]
        exact (popCount_pos hne).ne'
      · rw [hwaiting, if_pos rfl, halive]
    · refine if_neg fun h => h.1 ?_
      rw [wgWaiting_alone hdslots, hdslot, waitingAt_none (fun k _ hk _ => absurd hk List.not_mem_nil)]
      rfl
  refine ⟨d, settleWg_leaves (j := slot) (by rw [← hc]; exact heval) ?_ ?_ ?_, hdslot⟩
  · rw [hd, release_alone hcslots, Core.wgAt_setWg, if_pos rfl]
  · rw [hdslots]
    exact List.mem_singleton_self _
  · rw [hdslot]
    exact hne

/-- A workgroup without a wait of its groups, with a slot that has lanes at a barrier: the stranded barrier faults its context. -/
theorem barrierStranded_eq {s : State} {core wg k : Nat} (hlive : ((s.core core).wgAt wg).live = true)
    (hst : (s.ctx ((s.core core).wgAt wg).ctx).st = .live) (hsaving : (s.core core).saving = [])
    (hfind : ((s.core core).slotsOf wg).find? (fun j => ((s.core core).group j).blockedLanes != 0) = some k)
    (hwait : ∀ j ∈ (s.core core).slotsOf wg, ((s.core core).group j).wait = .none) :
    exec (.barrierStranded core wg) s = .next (groupFault (s.setCore core ((s.core core).setWg wg
      { (s.core core).wgAt wg with strand := 2 ^ 20 })) (slotAt core k) ⟨0x0003, 0, 0, false, 0, 0⟩) := by
  rw [exec_barrierStranded]
  unfold execBarrierStranded
  extract_lets c w slots waits fw k' s1
  have hwaits : waits = true := by
    have hk := List.find?_some hfind
    exact List.any_eq_true.mpr ⟨k, List.mem_of_find?_eq_some hfind, hk⟩
  have hfw : fw = false := List.any_eq_false.mpr fun j hj => by
    rw [show (c.group j).wait = .none from hwait j hj]
    exact Bool.false_ne_true
  have hk : k' = k := by
    show (slots.find? _).getD 0 = k
    rw [hfind]
    rfl
  have hgo : (w.live && waits && !fw && (s.ctx w.ctx).st == .live && !(c.saving.contains w.cmd)) = true := by
    rw [hwaits, hfw, show w.live = true from hlive, show (s.ctx w.ctx).st = .live from hst, show c.saving = [] from hsaving]
    rfl
  rw [if_pos hgo, hk]
  rfl

/-- Settles O16: a barrier completes exactly when the lanes that wait at it are all the workgroup's lanes left; the other two
commands act as their conditions say. -/
theorem barriers : Obligations.Barriers := by
  unfold Obligations.Barriers
  refine ⟨fun g e s s1 hissue hok hc => ?_, fun core wg k s => ?_, fun core slot s hasync hready => ?_, fun arbiter port s hwaits => ?_⟩
  · intro x c wait hquiet hstack halive
    have hbar := bar_eq hissue hok hc hquiet hstack
    obtain ⟨v, hv⟩ : ∃ v, v = (countIssue s1 g).setGroup g
      { s1.group g with stack := [waitEntry (s1.group g) e.c.toNat], active := 0, promoted := false } := ⟨_, rfl⟩
    have hin := issued_groupIn s1 g { s1.group g with stack := [waitEntry (s1.group g) e.c.toNat], active := 0, promoted := false }
    rw [← hv] at hbar hin
    have hslots := hin.slotsOf rfl rfl x.wg
    have hmem : v.mem = s1.mem := by rw [hv]; exact (countIssue_rest s1 g).1
    have hgroup : (v.core g.core).group g.slot = { x with stack := [wait], active := 0, promoted := false } := by
      rw [hin.group, if_pos rfl]
      rfl
    refine ⟨fun j hj hne hjalive hjstack => ?_, fun hone hall htq hrq => ?_⟩
    · have hj' : (v.core g.core).group j = c.group j := by rw [hin.group, if_neg hne]
      have hwaits := settleWg_waits (s := v) (core := g.core) (w := x.wg) (j := j) (by rw [hslots]; exact hj)
        (by rw [hj']; exact hjalive) (by rw [hj']; exact hjstack)
      refine ⟨_, hbar, ?_, hwaits.strand, hwaits.mem.trans hmem⟩
      refine (hwaits.group g.slot ?_).trans hgroup
      rw [Core.group_setWg, hgroup]
      exact halive
    · obtain ⟨d, hsettled, hd⟩ := settleWg_completes (s := v) (core := g.core) (w := x.wg) (slot := g.slot) (b := e.c.toNat)
        (x := { x with promoted := false }) hc (by rw [hslots]; exact hone) (hin.tq.trans htq) (hin.requeue.trans hrq) hgroup hall halive
      refine ⟨_, hbar, ?_, hsettled.strand, hsettled.mem.trans hmem⟩
      refine (hsettled.group g.slot ?_).trans (hd.trans ?_)
      · rw [hd]
        exact halive
      · rw [← hstack]
  · intro c w hlive hst hsaving hfind hwait
    exact barrierStranded_eq hlive hst hsaving hfind hwait
  · have hexec : exec (.asyncPromotion core slot) s =
        .next (s.setGroup (slotAt core slot) { s.group (slotAt core slot) with promoted := true }) := by
      rw [exec_asyncPromotion, execAsyncPromotion]
      exact if_pos (by rw [hasync, hready]; rfl)
    refine ⟨_, hexec, ?_, rfl, fun k hk => setGroup_core_ne _ _ _ _ hk⟩
    rw [State.group_setGroup, if_pos ⟨rfl, rfl⟩]
  · rw [Answers, exec_bulkPromotion, execBulkPromotion, hwaits, Bool.not_true, Bool.or_false]
    refine ⟨_, rfl, fun p => ?_, ?_⟩
    · split
      next hin =>
        refine ⟨.inr, fun h => h.elim (fun hp => ?_) id⟩
        exact hp ▸ List.contains_iff_mem.mp hin
      next =>
        rw [State.setMem_mem, List.mem_append, List.mem_singleton, or_comm]
    · split <;> rfl

end Sys2Proof.Proofs

/-! Fences in programs: membar, fsig, fread and fwait, and waits whose deadline has passed. -/

namespace Sys2Proof.Proofs

open Sys2Proof.Machine

/-- An issue that is counted and leaves the group `y` touches nothing else. -/
theorem onlyGroup_issued (s : State) (g : GroupAt) (y : Group) :
    ((countIssue s g).setGroup g y).group g = y ∧ OnlyGroup s ((countIssue s g).setGroup g y) g := by
  have hcore : ((countIssue s g).setGroup g y).core g.core = ((countIssue s g).core g.core).setGroup g.slot y := by
    rw [State.setGroup, State.setCore_core, if_pos rfl]
  refine ⟨by rw [State.group_setGroup, if_pos ⟨rfl, rfl⟩], rfl, fun k hk => ?_, ?_, fun j hj => ?_⟩
  · rw [setGroup_core_ne _ _ _ _ hk, countIssue_core_ne _ _ _ hk]
  · obtain ⟨c, hc, h | h⟩ := countIssue_core s g <;> rw [hcore, h, hc] <;> rfl
  · rw [(issued_groupIn s g y).group, if_neg hj]

theorem onlyGroup_setGroup {s t : State} {g : GroupAt} (h : OnlyGroup s t g) (y : Group) : OnlyGroup s (t.setGroup g y) g := by
  have hcore : (t.setGroup g y).core g.core = (t.core g.core).setGroup g.slot y := by
    rw [State.setGroup, State.setCore_core, if_pos rfl]
  refine ⟨?_, fun k hk => ?_, ?_, fun j hj => ?_⟩
  · exact congrArg (fun u : State => { u with cores := (t.setGroup g y).cores }) h.rest
  · rw [setGroup_core_ne _ _ _ _ hk, h.cores k hk]
  · rw [hcore]
    exact congrArg (fun c : Machine.Core => { c with groups := ((t.core g.core).setGroup g.slot y).groups }) h.core
  · rw [hcore, Core.group_setGroup, if_neg hj, h.groups j hj]

theorem finishX_leaves (s : State) (g : GroupAt) (y : Group) :
    (finishX s g y).group g = { y with pc := y.pc + 8, promoted := false } ∧ OnlyGroup s (finishX s g y) g :=
  onlyGroup_issued s g _

/-! ### Uniform registers -/

theorem usetN_uget (x : Group) (wide : Bool) (r v k : Nat) : (x.usetN wide r v).uget k =
    if wide = true ∧ k = r + 1 then BitVec.ofNat 32 (v / 2 ^ 32) else if k = r then BitVec.ofNat 32 v else x.uget k := by
  cases wide with
  | false => simp [Group.usetN, Group.uget]
  | true => simp [Group.usetN, Group.uget]

theorem usetN_rest (x : Group) (wide : Bool) (r v : Nat) : x.usetN wide r v = { x with uregs := (x.usetN wide r v).uregs } := rfl

theorem uget64_usetN (x : Group) (r : Nat) {v : Nat} (hv : v < 2 ^ 64) : (x.usetN true r v).uget64 r = v := by
  rw [Group.uget64, usetN_uget, usetN_uget, if_neg (by omega), if_pos rfl, if_pos ⟨rfl, rfl⟩, BitVec.toNat_ofNat, BitVec.toNat_ofNat]
  omega

/-! ### The right that a binding gives -/

section
variable {s : State} {c n : Nat}

theorem boundRight_bound {r : Nat} (h : n < 16384 ∧ (s.fence n).st ≠ .free ∧ tget (s.fence n).binds c 0 = r) :
    boundRight s c n = r := by
  rw [boundRight, if_pos ⟨h.1, h.2.1⟩, h.2.2]

theorem boundRight_two (h : boundRight s c n = 2) : n < 16384 ∧ (s.fence n).st ≠ .free ∧ tget (s.fence n).binds c 0 = 2 := by
  unfold boundRight at h
  split at h
  next hb => exact ⟨hb.1, hb.2, h⟩
  next => cases h

end

theorem deadlineOf_eq (s : State) (us : Word) : deadlineOf s us.toNat = if us = 0 then none
    else some (s.timer + (us.toNat * 384 + 9) / 10) := by
  have hz : us.toNat = 0 ↔ us = 0 := ⟨fun h => BitVec.eq_of_toNat_eq h, fun h => by rw [h]; rfl⟩
  unfold deadlineOf
  simp only [hz]
  rfl

theorem outcome_live {f : Fence} (hflag : f.flag = false) (t : Nat) : f.outcome t = if f.reached t = true then some 0 else none := by
  rw [Fence.outcome, if_neg (by rw [hflag]; decide)]

/-! ### The instructions -/

section
variable {s s1 : State} {g : GroupAt} {e : EncX}

theorem membar_eq (hissue : issueCheck s g (e.code 1) = .go s1) (hok : membarOk e = true)
    (hquiet : ∀ p ∈ (s1.core g.core).stores, p.gid = (s1.group g).gid → (s1.group g).active &&& p.lanes = 0) :
    exec (.membar g e) s = .next (finishX s1 g (s1.group g)) := by
  rw [exec_membar, execMembar, stepX_go hissue hok, pendAny_quiet hquiet]
  rfl

theorem fsig_eq (hissue : issueCheck s g (e.code 2) = .go s1) (hok : fsigOk e = true) (hact : (s1.group g).guard e.h ≠ 0)
    (hquiet : ∀ p ∈ (s1.core g.core).stores, p.gid = (s1.group g).gid → (s1.group g).active &&& p.lanes = 0)
    (hright : boundRight s1 (s1.group g).ctx ((s1.group g).uget e.a.toNat).toNat = 2) :
    exec (.fsig g e) s = .next (settle [.signal (.ctx (s1.group g).ctx 1 0xFFFF) ((s1.group g).uget e.a.toNat).toNat
      (BitVec.ofNat 64 (ctxValue s1 (s1.group g).ctx ((s1.group g).uget64 e.b.toNat)))] (finishX s1 g (s1.group g))) := by
  rw [exec_fsig, execFsig, stepX_go hissue hok]
  dsimp only
  rw [if_neg hact, if_neg (not_not.mpr hright), pendAny_quiet hquiet]
  rfl

theorem fsig_refused (hissue : issueCheck s g (e.code 2) = .go s1) (hok : fsigOk e = true) (hact : (s1.group g).guard e.h ≠ 0)
    (hright : boundRight s1 (s1.group g).ctx ((s1.group g).uget e.a.toNat).toNat ≠ 2) :
    exec (.fsig g e) s = .next (groupFault s1 g (illegalFault 0x08)) := by
  rw [exec_fsig, execFsig, stepX_go hissue hok]
  dsimp only
  rw [if_neg hact, if_pos hright]
  rfl

theorem fread_eq (hissue : issueCheck s g (e.code 4) = .go s1) (hok : freadOk e = true) (hact : (s1.group g).guard e.h ≠ 0)
    (hright : boundRight s1 (s1.group g).ctx ((s1.group g).uget e.a.toNat).toNat ≠ 0) :
    exec (.fread g e) s = .next (finishX s1 g ((s1.group g).usetN true e.dst.toNat
      (s1.fence ((s1.group g).uget e.a.toNat).toNat).value.toNat)) := by
  rw [exec_fread, execFread, stepX_go hissue hok]
  dsimp only
  rw [if_neg hact, if_neg hright]
  rfl

/-- The group once its wait is registered. -/
def fenceWaiting (s : State) (x : Group) (e : EncX) : Group := { x with
  promoted := false
  wait := .fence (x.uget e.a.toNat).toNat (ctxValue s x.ctx (x.uget64 e.b.toNat)) (deadlineOf s (x.uget e.c.toNat).toNat) e.dst.toNat }

theorem fwait_eq (hissue : issueCheck s g (e.code 3) = .go s1) (hok : fwaitOk e = true) (hact : (s1.group g).guard e.h ≠ 0)
    (hright : boundRight s1 (s1.group g).ctx ((s1.group g).uget e.a.toNat).toNat ≠ 0)
    (hflag : (s1.fence ((s1.group g).uget e.a.toNat).toNat).flag = false) :
    exec (.fwait g e) s = .next (
      if (s1.fence ((s1.group g).uget e.a.toNat).toNat).reached (ctxValue s1 (s1.group g).ctx ((s1.group g).uget64 e.b.toNat)) = true
      then endFwait ((countIssue s1 g).setGroup g (fenceWaiting s1 (s1.group g) e)) g 0
      else (countIssue s1 g).setGroup g (fenceWaiting s1 (s1.group g) e)) := by
  rw [exec_fwait, execFwait, stepX_go hissue hok]
  extract_lets n t w s2
  rw [if_neg hact, if_neg hright]
  have hs2 : s2 = (countIssue s1 g).setGroup g (fenceWaiting s1 (s1.group g) e) := rfl
  have hfence : s2.fence n = s1.fence n := by
    rw [State.fence, show s2.fences = s1.fences from (countIssue_rest s1 g).2.1]
    rfl
  rw [hfence, outcome_live hflag, ← hs2]
  by_cases hr : (s1.fence n).reached t = true
  · rw [if_pos hr]
    exact congrArg Host.Outcome.next (if_pos hr).symm
  · rw [if_neg hr]
    exact congrArg Host.Outcome.next (if_neg hr).symm

end

/-- A wait of a group that ends without a count. -/
theorem endFwait_reached {s : State} {g : GroupAt} {n t : Nat} {d : Option Nat} {dst : Nat} (hw : (s.group g).wait = .fence n t d dst) :
    endFwait s g 0 = s.setGroup g { (s.group g).usetN false dst 0 with wait := .none, pc := (s.group g).pc + 8 } := by
  unfold endFwait
  dsimp only
  rw [hw]
  rfl

theorem endFwait_timedOut {s : State} {g : GroupAt} {n t : Nat} {d : Option Nat} {dst : Nat} (hw : (s.group g).wait = .fence n t d dst) :
    endFwait s g 2 = incBlock (s.setGroup g { (s.group g).usetN false dst 2 with wait := .none, pc := (s.group g).pc + 8 })
      (s.group g).ctx 136 := by
  unfold endFwait
  dsimp only
  rw [hw]
  rfl

theorem fenceTimeout_group {s : State} {core slot fn tgt due dst : Nat} (hlive : (s.group (slotAt core slot)).live = true)
    (hw : (s.group (slotAt core slot)).wait = .fence fn tgt (some due) dst) (hdue : due ≤ s.timer) (hflag : (s.fence fn).flag = false)
    (hreached : (s.fence fn).reached tgt = false) :
    exec (.fenceTimeout (.group core slot)) s = .next (endFwait s (slotAt core slot) 2) := by
  have hgo : ((s.group (slotAt core slot)).live && timedOut s (some due)) = true := by
    rw [hlive]
    exact decide_eq_true hdue
  rw [exec_fenceTimeout, execFenceTimeout]
  rw [hw]
  dsimp only
  rw [if_pos hgo, outcome_live hflag, if_neg (by rw [hreached]; decide)]
  rfl

theorem fenceTimeout_queue {s : State} {q due : Nat} {w : QWait} (hw : (s.queue q).wait = some w) (hd : w.deadline = some due)
    (hdue : due ≤ s.timer) (hst : (s.ctx (waitFault s q w 0x0005 1).ctx).st = .live) :
    exec (.fenceTimeout (.queue q)) s =
      .next (raise (setBlock s (waitFault s q w 0x0005 1).ctx 140 2 w.fence) (waitFault s q w 0x0005 1)) := by
  rw [exec_fenceTimeout, execFenceTimeout, hw]
  dsimp only
  rw [hd, if_pos (show timedOut s (some due) = true from decide_eq_true hdue)]
  have hstep : ∀ f : CtxFault, (s.ctx f.ctx).st = .live → settle [.waitFault f w.fence] s = raise (setBlock s f.ctx 140 2 w.fence) f := by
    intro f hf
    have hact : applyAct s (.waitFault f w.fence) = applyFault (setBlock s f.ctx 140 2 w.fence) f := by
      show applyFault (if (s.ctx f.ctx).st = .live then _ else s) f = _
      rw [if_pos hf]
    show settleN 65535 ([] ++ (applyAct s (.waitFault f w.fence)).2) (applyAct s (.waitFault f w.fence)).1 = _
    rw [hact]
    rfl
  exact congrArg _ (hstep _ hst)

/-- Settles O17: each fence instruction with the right needed does what its rules say of the fence's value, and a wait past its
deadline ends. -/
theorem fenceInstructions : Obligations.FenceInstructions := by
  unfold Obligations.FenceInstructions
  intro g e s s1 x c quiet n f bound v issues
  have hright {r : Nat} (hb : bound r) : boundRight s1 x.ctx n = r := boundRight_bound hb
  have hsome (hb : bound 1 ∨ bound 2) : boundRight s1 x.ctx n ≠ 0 := by
    rcases hb with hb | hb <;> (rw [hright hb]; decide)
  refine ⟨⟨fun hi hok hq => ?_, fun hi hok hact hb hq => ?_, fun hi hok hact hb => ?_, fun hi hok hact hb hflag => ?_,
    fun hi hok hact hb => ?_⟩, fun fn tgt due dst hlive hw hdue hflag hreached => ?_, fun q w due hw hd hdue hst => ?_⟩
  · exact ⟨_, membar_eq hi hok hq, finishX_leaves s1 g x⟩
  · exact ⟨_, fsig_eq hi hok hact hq (hright hb), finishX_leaves s1 g x⟩
  · obtain ⟨hgroup, honly⟩ := finishX_leaves s1 g (x.usetN true e.dst.toNat f.value.toNat)
    refine ⟨_, fread_eq hi hok hact (hsome hb), ?_, fun r h1 h2 => ?_, ?_, honly⟩
    · rw [hgroup]
      exact uget64_usetN x _ f.value.isLt
    · rw [hgroup]
      exact (usetN_uget x true _ _ r).trans (by rw [if_neg (fun h => h2 h.2), if_neg h1])
    · rw [hgroup]
      rfl
  · obtain ⟨hgroup, honly⟩ := onlyGroup_issued s1 g (fenceWaiting s1 x e)
    have hexec := fwait_eq hi hok hact (hsome hb) hflag
    refine ⟨fun hreached => ?_, fun hreached => ?_⟩
    · have hwait := endFwait_reached (s := (countIssue s1 g).setGroup g (fenceWaiting s1 x e)) (g := g) (by rw [hgroup]; rfl)
      obtain ⟨y, hy⟩ : ∃ y, y = { (fenceWaiting s1 x e).usetN false e.dst.toNat 0 with wait := .none, pc := x.pc + 8 } := ⟨_, rfl⟩
      rw [hgroup] at hwait
      replace hwait : _ = ((countIssue s1 g).setGroup g (fenceWaiting s1 x e)).setGroup g y := hwait.trans (by rw [hy]; rfl)
      refine ⟨_, hexec.trans (congrArg Host.Outcome.next ((if_pos hreached).trans hwait)), ?_⟩
      have hread : (((countIssue s1 g).setGroup g (fenceWaiting s1 x e)).setGroup g y).group g = y := by
        rw [State.group_setGroup, if_pos ⟨rfl, rfl⟩]
      have huget (r : Nat) : y.uget r = if r = e.dst.toNat then 0 else x.uget r := by
        rw [hy]
        exact (usetN_uget x false _ 0 r).trans (if_neg fun h => absurd h.1 (by decide))
      dsimp only
      rw [hread]
      refine ⟨by rw [huget, if_pos rfl], fun r hr => by rw [huget, if_neg hr], ?_, onlyGroup_setGroup honly y⟩
      rw [hy]
      rfl
    · refine ⟨_, hexec.trans (congrArg Host.Outcome.next (if_neg (Bool.eq_false_iff.mp hreached))), hgroup.trans ?_, honly⟩
      rw [fenceWaiting, deadlineOf_eq]
      rfl
  · exact fsig_refused hi hok hact fun h => hb (boundRight_two h)
  · refine ⟨_, fenceTimeout_group hlive hw hdue hflag hreached, ?_⟩
    have hend : endFwait s (slotAt g.core g.slot) 2 = _ := endFwait_timedOut hw
    dsimp only
    rw [hend, incBlock_group, State.group_setGroup, if_pos ⟨rfl, rfl⟩]
    refine ⟨?_, rfl, rfl, ?_⟩
    · exact (usetN_uget (s.group g) false dst 2 dst).trans (if_neg (fun h => absurd h.1 (by decide)) |>.trans (if_pos rfl))
    · rw [incBlock, setBlock_ctx]
      exact congrArg Ctx.block (if_pos rfl)
  · exact fenceTimeout_queue hw hd hdue hst

end Sys2Proof.Proofs

/-! Memory instructions from issue to the group written back, and what a load and an atomic leave in registers. -/

namespace Sys2Proof.Proofs

open Sys2Proof.Machine

/-! ### Memory instructions that issue, and their groups written back -/

theorem stepMem_go {s s1 : State} {g : GroupAt} {code : List Nat} {ok : Bool} {regs : List Nat} (h : IssuesM s s1 g code ok regs)
    (hd : Head) (rd : List Nat) (k : State → Group → Mask → State) :
    stepMem s g hd code ok regs rd k = k s1 (s1.group g) ((s1.group g).guard hd) := by
  have hregs : (regs.all fun r => decide (r < (groupProg s1 g).regs)) = true :=
    List.all_eq_true.mpr fun r hr => decide_eq_true (h.regs r hr)
  have hread : badRead (s1.core g.core) g.slot rd ((s1.group g).guard hd) = false := by
    rw [badRead, h.badReg]
    rfl
  rw [stepMem, inCycle_ready _ _ _ (issueCheck_ready _ _ _ _ h.issue), h.issue]
  dsimp only
  rw [h.ok, hregs, hread]
  rfl

theorem finishMem_leaves (s : State) (g : GroupAt) (wr : List Nat) (m : Mask) (y : Group) (size : Nat) :
    (finishMem s g wr m y size).group g = { y with pc := y.pc + size, promoted := false }
      ∧ OnlyGroup s (finishMem s g wr m y size) g := by
  unfold finishMem
  refine ⟨by simp [State.group], rfl, fun k hk => by simp [hk, countIssue_core_ne _ _ _ hk], ?_, fun j hj => ?_⟩
  · simp only [State.setCore_core, if_true, Core.setGroup]
    rw [healRegs_eq]
    obtain ⟨c, e, hc | hc⟩ := countIssue_core s g <;> rw [hc, e]
    rfl
  · simp only [State.setCore_core, if_true, Core.group_setGroup, if_neg hj]
    rw [healRegs_eq]
    obtain ⟨c, e, hc | hc⟩ := countIssue_core s g <;> rw [hc, e]
    · rfl
    · exact (Core.group_setGroup _ _ _ _).trans (if_neg hj)

/-- An instruction that acts on its group alone leaves the memory. -/
theorem onlyGroup_mem {s t : State} {g : GroupAt} (h : OnlyGroup s t g) : t.mem = s.mem :=
  (congrArg State.mem h.rest :).trans (countIssue_rest s g).1

theorem onlyGroup_wgAt {s t : State} {g : GroupAt} (h : OnlyGroup s t g) (k : Nat) :
    (t.core g.core).wgAt k = (s.core g.core).wgAt k := by
  have hwgs : (t.core g.core).wgs = (s.core g.core).wgs := (congrArg Machine.Core.wgs h.core :)
  rw [Core.wgAt, hwgs]
  rfl

/-! ### Registers that a load fills -/

theorem leNat_lt_word {bs : List Byte} (h : bs.length ≤ 4) : leNat bs < 2 ^ 32 :=
  (leNat_lt bs).trans_le (Nat.pow_le_pow_right (by decide) (by omega))

theorem vget_foldl_vset (x : Group) (d : Nat) (m : Mask) (f : Nat → Nat → Word) (n : Nat) {r l : Nat} (hl : l < 32) :
    ((List.range n).foldl (fun y i => y.vset (d + i) m (f i)) x).vget r l =
      if inMask m l = true ∧ d ≤ r ∧ r < d + n then f (r - d) l else x.vget r l := by
  induction n with
  | zero => exact (if_neg (by omega)).symm
  | succ n ih =>
    rw [List.range_succ, List.foldl_concat, vget_vset _ _ _ _ _ _ hl, ih]
    by_cases hr : r = d + n
    · subst hr
      have hn : d + n - d = n := by omega
      grind
    · grind

theorem foldl_vset_rest (x : Group) (d : Nat) (m : Mask) (f : Nat → Nat → Word) (l : List Nat) :
    l.foldl (fun y i => y.vset (d + i) m (f i)) x
      = { x with vregs := (l.foldl (fun y i => y.vset (d + i) m (f i)) x).vregs } := by
  induction l generalizing x with
  | nil => rfl
  | cons a l ih => exact (ih _).trans rfl

/-- The elements that an instruction's TYPE and COUNT allow: a narrow type moves one. -/
theorem memShapeOk_narrow {e : EncM} {r : BitVec 8} (h : memShapeOk e r = true) {b : Nat} (hb : memBytes e.type = some b) (hn : b < 4) :
    memCount e = 1 := by
  rw [memShapeOk, hb] at h
  dsimp only at h
  rw [Bool.and_eq_true, Bool.or_eq_true, decide_eq_true_eq, beq_iff_eq] at h
  rcases h.1 with h4 | hc
  · omega
  · rw [memCount, hc]
    rfl

theorem memBytes_cases {t : BitVec 4} {b : Nat} (h : memBytes t = some b) : b = 1 ∨ b = 2 ∨ b = 4 ∨ b = 8 := by
  unfold memBytes at h
  split at h <;> simp_all

/-- A load leaves its bytes in the registers that DST names, each narrow value extended. -/
theorem loadRegs_loads {x y : Group} {e : EncM} {b : Nat} {m : Mask} {bytes : Nat → List Byte}
    (hnarrow : b < 4 → ∀ l, inMask m l = true → l < 32 → (bytes l).length ≤ 4)
    (hy : y = { loadRegs x e b m bytes with pc := (loadRegs x e b m bytes).pc + Head.size e.h, promoted := false }) :
    LoadsR e b m bytes x y := by
  have hvget (r l : Nat) : y.vget r l = (loadRegs x e b m bytes).vget r l := by rw [hy]; rfl
  by_cases hb : b < 4
  · have hregs : loadRegs x e b m bytes
        = x.vset e.dst.toNat m fun l => BitVec.ofNat 32 (extendNarrow e.type b (leNat (bytes l))) := if_pos hb
    refine ⟨fun r l hl => ?_, by rw [hy, hregs]; rfl⟩
    rw [hvget, hregs, vget_vset _ _ _ _ _ _ hl]
    have hone : memWords b (memCount e) = 1 := if_pos hb
    have hin : (inMask m l = true ∧ e.dst.toNat ≤ r ∧ r < e.dst.toNat + memWords b (memCount e))
        ↔ (r = e.dst.toNat ∧ inMask m l = true) := by
      rw [hone]
      constructor
      · exact fun ⟨hm, _, _⟩ => ⟨by omega, hm⟩
      · exact fun ⟨hr, hm⟩ => ⟨hm, by omega, by omega⟩
    rw [if_congr hin rfl rfl, if_neg (by omega : ¬ 4 ≤ b)]
    split
    next hat =>
      have hlt : leNat (bytes l) < 2 ^ 32 := leNat_lt_word (hnarrow hb l hat.2 hl)
      have hsigned : ofSigned 32 (toSigned (8 * b) (leNat (bytes l))) < 2 ^ 32 := by
        unfold ofSigned
        omega
      rw [BitVec.toNat_ofNat, extendNarrow]
      split
      · exact Nat.mod_eq_of_lt hsigned
      · exact Nat.mod_eq_of_lt hlt
    next => rfl
  · have hregs : loadRegs x e b m bytes = (List.range (memWords b (memCount e))).foldl (fun y i =>
        y.vset (e.dst.toNat + i) m fun l => BitVec.ofNat 32 (fieldAt (bytes l) (4 * i) 4)) x := by
      rw [loadRegs, memWords, if_neg hb, if_neg hb]
    have hrest := foldl_vset_rest x e.dst.toNat m (fun i l => BitVec.ofNat 32 (fieldAt (bytes l) (4 * i) 4))
      (List.range (memWords b (memCount e)))
    refine ⟨fun r l hl => ?_, ?_⟩
    · rw [hvget, hregs, vget_foldl_vset x e.dst.toNat m (fun i l => BitVec.ofNat 32 (fieldAt (bytes l) (4 * i) 4)) _ hl]
      split
      · rw [if_pos (by omega), BitVec.toNat_ofNat]
        refine Nat.mod_eq_of_lt (leNat_lt_word ?_)
        rw [List.length_take]
        exact Nat.min_le_left _ _
      · rfl
    · rw [hy, hregs]
      exact congrArg (fun z : Group => { z with pc := z.pc + Head.size e.h, promoted := false }) hrest

/-! ### Atomics: a word taken through its lanes -/

/-- An atomic leaves what each acting lane received in the registers that DST names. -/
theorem atomR_of_vsetN {e : EncM} {m : Mask} {got got' : Nat → Nat} {x y z : Group}
    (hz : z = if e.noret then x else x.vsetN (wideType e.type) e.dst.toNat m got')
    (hgot : ∀ l, l < 32 → inMask m l = true → got' l = got l)
    (hy : y = { z with pc := z.pc + Head.size e.h, promoted := false }) : AtomR e m got x y := by
  have hvget (r l : Nat) : y.vget r l = z.vget r l := by rw [hy]; rfl
  cases hn : e.noret with
  | true =>
    rw [hn, if_pos rfl] at hz
    refine ⟨fun r l _ => ?_, by rw [hy, hz]⟩
    rw [hvget, hz, hn, if_neg (by simp), if_neg (by simp)]
  | false =>
    rw [hn, if_neg Bool.false_ne_true] at hz
    refine ⟨fun r l hl => ?_, ?_⟩
    · rw [hvget, hz, toNat_vget_vsetN _ _ _ _ _ _ _ hl, hn]
      by_cases hm : inMask m l = true
      · rw [if_pos hm, hgot l hl hm]
        simp [hm]
      · simp [hm]
    · rw [hy, hz, Group.vsetN]
      split <;> rfl

theorem ieee_f32_lt (n : Machine.Num) : Fmt.f32.ieee n < 2 ^ 32 := by
  have hsign (neg : Bool) : Fmt.f32.signBit neg ≤ 2 ^ 31 := by cases neg <;> decide
  have hmax : Fmt.f32.maxCode = 0x7F7FFFFF := rfl
  have hinf : Fmt.f32.infCode = 0x7F800000 := rfl
  have hnan : Fmt.f32.nanCode = 0x7FC00000 := rfl
  cases n with
  | nan => decide
  | inf neg =>
    have := hsign neg
    rw [Fmt.ieee, Fmt.encode]
    split <;> omega
  | fin neg mag exp =>
    have := hsign neg
    rw [Fmt.ieee, Fmt.encode]
    unfold Fmt.roundFin
    extract_lets emin e qe
    split
    · omega
    · split
      extract_lets q' code
      split
      · dsimp only
        split <;> omega
      · omega

theorem laneVal_lt (x : Group) (t : BitVec 4) (r : BitVec 8) (l : Nat) : laneVal x (wideType t) r l < 2 ^ typeWidth t := by
  rw [laneVal, typeWidth]
  split
  · exact vget64_lt _ _ _
  · exact BitVec.isLt _

theorem ite_lt {c : Prop} [Decidable c] {a b w : Nat} (ha : a < w) (hb : b < w) : (if c then a else b) < w := by
  split <;> assumption

section
variable {e : EncM} {o v k : Nat} (hok : aopOk e = true) (ho : o < 2 ^ typeWidth e.type) (hv : v < 2 ^ typeWidth e.type)
include hok ho hv

/-- The model's operation is that of Tables 2.2 and 3.10, and it stays within the word. -/
theorem atomVal_eq : atomVal e.type e.aop.toNat o v k = atomicOp e o v k ∧ atomicOp e o v k < 2 ^ typeWidth e.type := by
  unfold aopOk at hok
  by_cases ht : e.type = 4
  · rw [if_pos ht] at hok
    have ha : e.aop.toNat < 3 := by simp at hok; exact hok.1.1.1.1
    have hw : typeWidth e.type = 32 := by rw [ht]; rfl
    rw [hw] at ho hv ⊢
    unfold atomVal atomicOp
    rw [if_pos ht]
    obtain h | h | h : e.aop.toNat = 0 ∨ e.aop.toNat = 1 ∨ e.aop.toNat = 2 := by omega
    all_goals rw [h, ht]; exact ⟨rfl, ieee_f32_lt _⟩
  · rw [if_neg ht] at hok
    have ha : e.aop.toNat < 8 := by simp at hok; exact hok.1.1.1.1.2
    have hne : (e.type == 4) = false := beq_false_of_ne ht
    unfold atomVal atomicOp
    rw [if_neg ht, hne]
    obtain h | h | h | h | h | h | h | h : e.aop.toNat = 0 ∨ e.aop.toNat = 1 ∨ e.aop.toNat = 2 ∨ e.aop.toNat = 3 ∨ e.aop.toNat = 4
      ∨ e.aop.toNat = 5 ∨ e.aop.toNat = 6 ∨ e.aop.toNat = 7 := by omega
    all_goals rw [h]; dsimp only
    · exact ⟨rfl, Nat.mod_lt _ (Nat.two_pow_pos _)⟩
    · rw [intOrder_eq_compare _ ho hv, if_congr compare_gt_iff_gt rfl rfl]
      exact ⟨rfl, ite_lt hv ho⟩
    · rw [intOrder_eq_compare _ ho hv, if_congr compare_lt_iff_lt rfl rfl]
      exact ⟨rfl, ite_lt hv ho⟩
    · exact ⟨rfl, Nat.and_lt_two_pow _ hv⟩
    · exact ⟨rfl, Nat.or_lt_two_pow ho hv⟩
    · exact ⟨rfl, Nat.xor_lt_two_pow ho hv⟩
    · exact ⟨rfl, hv⟩
    · exact ⟨rfl, ite_lt hv ho⟩

end

/-- The operation of an atomic for one lane. -/
def laneAtom (x : Group) (e : EncM) (l o : Nat) : Nat :=
  atomVal e.type e.aop.toNat o (laneVal x (wideType e.type) e.data l) (laneVal x (wideType e.type) e.cmp l)

theorem combine_snd (f : Nat → Nat → Nat) (ls : List Nat) (o : Nat) : (combine f ls o).2 = ls.foldl (fun o l => f l o) o := by
  induction ls generalizing o with
  | nil => rfl
  | cons l ls ih => exact ih _

theorem tget?_combine (f : Nat → Nat → Nat) (ls : List Nat) (hls : ls.Pairwise (· < ·)) (o l : Nat) :
    tget? (combine f ls o).1 l = if l ∈ ls then some ((ls.filter fun k => decide (k < l)).foldl (fun o l => f l o) o) else none := by
  induction ls generalizing o with
  | nil => rfl
  | cons k ls ih =>
    obtain ⟨hk, hls⟩ := List.pairwise_cons.mp hls
    have hcons : (combine f (k :: ls) o).1 = (k, o) :: (combine f ls (f k o)).1 := rfl
    rw [hcons, tget?]
    by_cases hl : l = k
    · subst hl
      have hnone : ls.filter (fun j => decide (j < l)) = [] :=
        List.filter_eq_nil_iff.mpr fun j hj => by simpa using (hk j hj).le
      simp [hnone]
    · rw [if_neg hl, ih hls]
      simp only [List.mem_cons, hl, false_or]
      split
      next hmem => rw [List.filter_cons_of_pos (by simpa using hk l hmem)]; rfl
      next => rfl

theorem foldl_laneAtom {e : EncM} (hok : aopOk e = true) (x : Group) (ls : List Nat) {o : Nat} (ho : o < 2 ^ typeWidth e.type) :
    ls.foldl (fun o l => laneAtom x e l o) o = applyLanes e x ls o ∧ applyLanes e x ls o < 2 ^ typeWidth e.type := by
  induction ls generalizing o with
  | nil => exact ⟨rfl, ho⟩
  | cons l ls ih =>
    obtain ⟨heq, hlt⟩ := atomVal_eq (k := laneVal x (wideType e.type) e.cmp l) hok ho (laneVal_lt x e.type e.data l)
    obtain ⟨hrest, hbound⟩ := ih hlt
    refine ⟨?_, hbound⟩
    rw [List.foldl_cons, laneAtom, heq, hrest]
    rfl

/-- One combining set: the word that it leaves and what its lanes receive (R67). -/
theorem combine_laneAtom {e : EncM} (hok : aopOk e = true) (x : Group) {ls : List Nat} (hls : ls.Pairwise (· < ·)) {o : Nat}
    (ho : o < 2 ^ typeWidth e.type) : (combine (laneAtom x e) ls o).2 = applyLanes e x ls o
      ∧ ∀ l, tget? (combine (laneAtom x e) ls o).1 l
          = if l ∈ ls then some (applyLanes e x (ls.filter fun k => decide (k < l)) o) else none := by
  refine ⟨(combine_snd _ _ _).trans (foldl_laneAtom hok x ls ho).1, fun l => ?_⟩
  rw [tget?_combine _ _ hls, (foldl_laneAtom hok x _ ho).1]

theorem tget?_append {α : Type} (a b : Tbl α) (k : Nat) : tget? (a ++ b) k = (tget? a k).or (tget? b k) := by
  induction a with
  | nil => rfl
  | cons p a ih =>
    obtain ⟨j, v⟩ := p
    rw [List.cons_append, tget?, tget?]
    split
    · rfl
    · exact ih

theorem distinct_foldl (xs acc : List Nat) (hacc : acc.Nodup) :
    (xs.foldl (fun acc x => if acc.contains x then acc else acc ++ [x]) acc).Nodup
      ∧ ∀ a, a ∈ xs.foldl (fun acc x => if acc.contains x then acc else acc ++ [x]) acc ↔ a ∈ acc ∨ a ∈ xs := by
  induction xs generalizing acc with
  | nil => exact ⟨hacc, fun a => by simp⟩
  | cons x xs ih =>
    rw [List.foldl_cons]
    by_cases hx : acc.contains x = true
    · rw [if_pos hx]
      refine ⟨(ih acc hacc).1, fun a => ?_⟩
      rw [(ih acc hacc).2]
      have := List.contains_iff_mem.mp hx
      grind
    · rw [if_neg hx]
      have hmem : x ∉ acc := fun h => hx (List.contains_iff_mem.mpr h)
      have hnodup : (acc ++ [x]).Nodup := by
        rw [List.nodup_append]
        refine ⟨hacc, List.nodup_singleton x, fun a ha b hb => ?_⟩
        rw [List.mem_singleton.mp hb]
        exact fun h => hmem (h ▸ ha)
      refine ⟨(ih _ hnodup).1, fun a => ?_⟩
      rw [(ih _ hnodup).2]
      grind

theorem nodup_distinct (xs : List Nat) : (distinct xs).Nodup := (distinct_foldl xs [] List.nodup_nil).1

theorem mem_distinct {xs : List Nat} {a : Nat} : a ∈ distinct xs ↔ a ∈ xs := by
  rw [distinct, (distinct_foldl xs [] List.nodup_nil).2]
  simp

end Sys2Proof.Proofs

/-! Scratch: lds, sts and atoms. -/

namespace Sys2Proof.Proofs

open Sys2Proof.Machine

/-! ### Tile memory regions -/

theorem tmem_get_write (m : TMem) (a j : Nat) (bs : List Byte) :
    (m.write a bs).get j = if a ≤ j ∧ j < a + bs.length then byteAt bs (j - a) else m.get j := by
  induction bs generalizing m a with
  | nil => exact (if_neg (by simp)).symm
  | cons b bs ih =>
    have hcons : m.write a (b :: bs) = ({ m with bytes := tset m.bytes a b } : TMem).write (a + 1) bs := rfl
    have hput : ({ m with bytes := tset m.bytes a b } : TMem).get j = if j = a then b else m.get j := by
      rw [TMem.get, tget_tset]
      rfl
    rw [hcons, ih, hput, List.length_cons]
    by_cases hj : j = a
    · rw [if_neg (by omega), if_pos hj, if_pos (by omega), hj, Nat.sub_self]
      rfl
    · rw [if_neg hj]
      refine if_ctx_congr (by omega) (fun h => ?_) fun _ => rfl
      rw [(by omega : j - a = (j - (a + 1)) + 1)]
      rfl

theorem tmem_nat_congr {m n : TMem} {a w : Nat} (h : ∀ i, i < w → m.get (a + i) = n.get (a + i)) : m.nat a w = n.nat a w :=
  congrArg leNat (List.map_congr_left fun i hi => h i (List.mem_range.mp hi))

theorem map_byteAt (bs : List Byte) : (List.range bs.length).map (byteAt bs) = bs := by
  refine List.ext_getElem (by simp) fun i h1 h2 => ?_
  rw [List.getElem_map, List.getElem_range, byteAt, List.getD_eq_getElem _ _ h2]

theorem tmem_nat_write (m : TMem) (a : Nat) (bs : List Byte) : (m.write a bs).nat a bs.length = leNat bs := by
  have hread : (List.range bs.length).map (fun i => (m.write a bs).get (a + i)) = (List.range bs.length).map (byteAt bs) := by
    refine List.map_congr_left fun i hi => ?_
    have := List.mem_range.mp hi
    rw [tmem_get_write, if_pos (by omega), Nat.add_sub_cancel_left]
  rw [TMem.nat, TMem.read, hread, map_byteAt]

/-- The writes of several lanes in order: a byte holds what the last lane that covers it wrote. -/
def writeLanes (a : Nat → Nat) (bs : Nat → List Byte) (ls : List Nat) (m : TMem) : TMem := ls.foldl (fun m l => m.write (a l) (bs l)) m

theorem writeLanes_outside (a : Nat → Nat) (bs : Nat → List Byte) {ls : List Nat} (m : TMem) {j : Nat}
    (h : ∀ l ∈ ls, ¬ (a l ≤ j ∧ j < a l + (bs l).length)) : (writeLanes a bs ls m).get j = m.get j := by
  induction ls generalizing m with
  | nil => rfl
  | cons l ls ih =>
    rw [writeLanes, List.foldl_cons]
    refine (ih _ fun k hk => h k (List.mem_cons_of_mem l hk)).trans ?_
    rw [tmem_get_write, if_neg (h l List.mem_cons_self)]

theorem writeLanes_last (a : Nat → Nat) (bs : Nat → List Byte) {ls : List Nat} (hls : ls.Pairwise (· < ·)) (m : TMem) {l i : Nat}
    (hl : l ∈ ls) (hi : i < (bs l).length) (hlast : ∀ k ∈ ls, l < k → ¬ (a k ≤ a l + i ∧ a l + i < a k + (bs k).length)) :
    (writeLanes a bs ls m).get (a l + i) = byteAt (bs l) i := by
  induction ls generalizing m with
  | nil => cases hl
  | cons k ls ih =>
    obtain ⟨hk, hls⟩ := List.pairwise_cons.mp hls
    rw [writeLanes, List.foldl_cons]
    rcases List.mem_cons.mp hl with rfl | hl
    · refine (writeLanes_outside a bs _ fun j hj => hlast j (List.mem_cons_of_mem _ hj) (hk j hj)).trans ?_
      rw [tmem_get_write, if_pos (by omega), Nat.add_sub_cancel_left]
    · exact ih hls _ hl fun j hj => hlast j (List.mem_cons_of_mem _ hj)

/-! ### A core whose tensor queue is empty -/

/-- Core `d` is core `c` with the scratch of one workgroup replaced. -/
structure ScratchIn (c d : Machine.Core) (wg : Nat) (m : TMem) : Prop where
  rest : d = { c with wgs := d.wgs }
  wgAt : ∀ k, d.wgAt k = if k = wg then { c.wgAt wg with scratch := m } else c.wgAt k

theorem scratchIn_refl (c : Machine.Core) (wg : Nat) : ScratchIn c c wg (c.wgAt wg).scratch :=
  ⟨rfl, fun k => by split <;> simp_all⟩

theorem scratchIn_trans {c d k : Machine.Core} {wg : Nat} {m n : TMem} (h : ScratchIn c d wg m) (h' : ScratchIn d k wg n) :
    ScratchIn c k wg n := by
  refine ⟨h'.rest.trans (congrArg (fun c : Machine.Core => { c with wgs := k.wgs }) h.rest), fun j => ?_⟩
  rw [h'.wgAt, h.wgAt wg, if_pos rfl, h.wgAt j]
  split <;> rfl

theorem clobber_idle {c : Machine.Core} (h : c.tq = []) (gid wg space a n : Nat) : clobber c gid wg space a n = c := by
  have : ∀ f : TqEntry → TqEntry, { c with tq := c.tq.map f } = c := fun f => by rw [h, List.map_nil, ← h]
  exact this _

theorem putScratch_idle {c : Machine.Core} (htq : c.tq = []) (hbad : c.badTile = []) (gid wg a : Nat) (bs : List Byte) :
    putScratch c gid wg a bs = c.setWg wg { c.wgAt wg with scratch := (c.wgAt wg).scratch.write a bs } := by
  have hheal (d : Machine.Core) (hd : d.badTile = []) (l : List Nat) :
      l.foldl (fun c i => healTile c (scratchWord wg (a + 4 * i))) d = d := by
    induction l with
    | nil => rfl
    | cons i l ih =>
      have : healTile d (scratchWord wg (a + 4 * i)) = d := if_pos (by rw [hd]; rfl)
      rw [List.foldl_cons, this, ih]
  unfold putScratch
  extract_lets w c1
  have hc1 : c1 = c.setWg wg { c.wgAt wg with scratch := (c.wgAt wg).scratch.write a bs } :=
    clobber_idle (c := c.setWg wg { c.wgAt wg with scratch := (c.wgAt wg).scratch.write a bs }) htq _ _ _ _ _
  rw [hheal c1 (by rw [hc1]; exact hbad), hc1]
  exact ite_self _

section
variable {c d : Machine.Core} {wg : Nat} {m : TMem} (htq : c.tq = []) (hbad : c.badTile = [])
include htq hbad

theorem scratchIn_put (h : ScratchIn c d wg m) (gid a : Nat) (bs : List Byte) :
    ScratchIn c (putScratch d gid wg a bs) wg (m.write a bs) := by
  have htq' : d.tq = [] := (congrArg Machine.Core.tq h.rest :).trans htq
  have hbad' : d.badTile = [] := (congrArg Machine.Core.badTile h.rest :).trans hbad
  have hm : (d.wgAt wg).scratch = m := (congrArg Wg.scratch ((h.wgAt wg).trans (if_pos rfl)) :)
  refine scratchIn_trans h ⟨?_, fun k => ?_⟩
  · rw [putScratch_idle htq' hbad']
    rfl
  · rw [putScratch_idle htq' hbad', Core.wgAt_setWg, hm]

theorem scratchIn_putLanes (h : ScratchIn c d wg m) (gid : Nat) (a : Nat → Nat) (bs : Nat → List Byte) (ls : List Nat) :
    ScratchIn c (ls.foldl (fun c l => putScratch c gid wg (a l) (bs l)) d) wg (writeLanes a bs ls m) := by
  induction ls generalizing d m with
  | nil => exact h
  | cons l ls ih => exact ih (scratchIn_put htq hbad h gid (a l) (bs l))

end

theorem scratchFault_fits {kib align n : Nat} {a : Nat → Nat} {m : Mask}
    (h : ∀ l, l < 32 → inMask m l = true → a l % align = 0 ∧ a l + n ≤ kib * 1024) : scratchFault kib align n a (lanesOf m) = none := by
  have hnone : (lanesOf m).find? (fun l => a l % align != 0 || decide (kib * 1024 < a l + n)) = none := by
    refine List.find?_eq_none.mpr fun l hl => ?_
    obtain ⟨hlt, hm⟩ := mem_lanesOf.mp hl
    obtain ⟨halign, hfit⟩ := h l hlt hm
    simp [halign, hfit]
  rw [scratchFault, hnone]

theorem tensorUses_idle {c : Machine.Core} (htq : c.tq = []) (hre : c.requeue = []) (gid space a n : Nat) (w : Bool)
    (uses : TqEntry → Bool → List (Nat × Nat × Nat)) : tensorUses c gid space a n w uses = false := by
  rw [tensorUses, htq, hre]
  rfl

theorem badScratch_clean {c : Machine.Core} (h : c.badTile = []) (wg n : Nat) (a : Nat → Nat) (ls : List Nat) :
    badScratch c wg n a ls = false := by
  rw [badScratch, h]
  rfl

theorem lanesOf_sorted (m : Mask) : (lanesOf m).Pairwise (· < ·) := by
  have hall : allLanes.Pairwise (· < ·) := by decide
  exact hall.filter _

/-! ### lds and sts -/

section
variable {s s1 : State} {g : GroupAt} {e : EncM} {b : Nat} (hb : memBytes e.type = some b)
  (htq : (s1.core g.core).tq = []) (hre : (s1.core g.core).requeue = []) (hbad : (s1.core g.core).badTile = [])
  (hfit : ∀ l, l < 32 → inMask ((s1.group g).guard e.h) l = true →
    laneScratch e (s1.group g) l % (if b < 4 then b else pow2Up (b * memCount e)) = 0
      ∧ laneScratch e (s1.group g) l + b * memCount e ≤ ((s1.core g.core).wgAt (s1.group g).wg).scratchKib * 1024)
include hb htq hre hfit

include hbad in
theorem execLds_eq (hi : IssuesM s s1 g (e.code 8 0) (ldsOk e) (e.base.toNat :: memRegs e.dst b (memCount e))) :
    execLds g e s = done (finishMem s1 g (memRegs e.dst b (memCount e)) ((s1.group g).guard e.h)
      (loadRegs (s1.group g) e b ((s1.group g).guard e.h) fun l =>
        ((s1.core g.core).wgAt (s1.group g).wg).scratch.read (laneScratch e (s1.group g) l) (b * memCount e)) (Head.size e.h)) := by
  unfold execLds
  rw [hb, Option.getD_some]
  dsimp only
  rw [stepMem_go hi, scratchFault_fits hfit]
  dsimp only
  rw [if_neg (by simp [tensorUses_idle htq hre]), badScratch_clean hbad, if_neg Bool.false_ne_true]

theorem execSts_eq (hi : IssuesM s s1 g (e.code 8 1) (stsOk e) (e.base.toNat :: memRegs e.data b (memCount e))) :
    execSts g e s = done (finishMem (s1.setCore g.core ((lanesOf ((s1.group g).guard e.h)).foldl (fun c l =>
        putScratch c (s1.group g).gid (s1.group g).wg (laneScratch e (s1.group g) l) (storeBytes (s1.group g) e.data b (memCount e) l))
      (s1.core g.core))) g [] ((s1.group g).guard e.h) (s1.group g) (Head.size e.h)) := by
  unfold execSts
  rw [hb, Option.getD_some]
  dsimp only
  rw [stepMem_go hi, scratchFault_fits hfit]
  dsimp only
  rw [if_neg (by simp [tensorUses_idle htq hre])]

end

theorem length_storeBytes {x : Group} {e : EncM} {r : BitVec 8} {b : Nat} (hb : memBytes e.type = some b) (hshape : memShapeOk e r = true)
    (l : Nat) : (storeBytes x r b (memCount e) l).length = b * memCount e := by
  rw [storeBytes]
  split
  next hn => rw [length_leBytes, memShapeOk_narrow hshape hb hn, Nat.mul_one]
  next hn =>
    rw [List.length_flatMap]
    simp only [length_leBytes, List.map_const', List.sum_replicate, smul_eq_mul, memRegs, List.length_map, List.length_range]
    rcases memBytes_cases hb with rfl | rfl | rfl | rfl <;> simp_all <;> omega

theorem ldsOk_shape {e : EncM} (h : ldsOk e = true) : memShapeOk e e.dst = true := by
  unfold ldsOk at h
  simp only [Bool.and_eq_true] at h
  exact h.1.1.1.1.1.1.1.2

theorem stsOk_shape {e : EncM} (h : stsOk e = true) : memShapeOk e e.data = true := by
  unfold stsOk at h
  simp only [Bool.and_eq_true] at h
  exact h.1.1.1.1.1.1.1.2

/-- lds: each lane receives its bytes and nothing else changes. -/
theorem lds_answers {s s1 : State} {g : GroupAt} {e : EncM} {b : Nat} (hb : memBytes e.type = some b)
    (hi : IssuesM s s1 g (e.code 8 0) (ldsOk e) (e.base.toNat :: memRegs e.dst b (memCount e))) {bytes : Nat → List Byte}
    (hlen : ∀ l, (bytes l).length = b * memCount e)
    (hexec : execLds g e s = done (finishMem s1 g (memRegs e.dst b (memCount e)) ((s1.group g).guard e.h)
      (loadRegs (s1.group g) e b ((s1.group g).guard e.h) bytes) (Head.size e.h))) :
    Answers (.lds g e) s fun t => LoadsR e b ((s1.group g).guard e.h) bytes (s1.group g) (t.group g) ∧ OnlyGroup s1 t g := by
  have hleaves := finishMem_leaves s1 g (memRegs e.dst b (memCount e)) ((s1.group g).guard e.h)
    (loadRegs (s1.group g) e b ((s1.group g).guard e.h) bytes) (Head.size e.h)
  refine ⟨_, hexec, loadRegs_loads (fun hn l _ _ => ?_) hleaves.1, hleaves.2⟩
  rw [hlen, memShapeOk_narrow (ldsOk_shape hi.ok) hb hn]
  omega

/-! ### atoms -/

/-- What the combining sets of `as` leave: core `d` and the values received `rs`. -/
structure AtomsDone (c : Machine.Core) (x : Group) (e : EncM) (addr : Nat → Nat) (ls as : List Nat) (rs : List (Nat × Nat))
    (d : Machine.Core) (m : TMem) : Prop where
  core : ScratchIn c d x.wg m
  word : ∀ a ∈ as, m.nat a 4 = applyLanes e x (ls.filter fun k => addr k == a) ((c.wgAt x.wg).scratch.nat a 4)
  other : ∀ i, (∀ a ∈ as, ¬ (a ≤ i ∧ i < a + 4)) → m.get i = (c.wgAt x.wg).scratch.get i
  got : ∀ l ∈ ls, addr l ∈ as → tget? rs l = some (applyLanes e x ((ls.filter fun k => addr k == addr l).filter fun k => decide (k < l))
    ((c.wgAt x.wg).scratch.nat (addr l) 4))

theorem tmem_nat_lt (m : TMem) (a w : Nat) : m.nat a w < 2 ^ (8 * w) := by
  have := leNat_lt (m.read a w)
  rwa [TMem.read, List.length_map, List.length_range] at this

theorem atomsSets_cons (c : Machine.Core) (x : Group) (e : EncM) (addr : Nat → Nat) (ls : List Nat) (a : Nat) (as : List Nat)
    (hwide : wideType e.type = false) : atomsSets c x e addr ls (a :: as) =
      (let q := combine (laneAtom x e) (ls.filter fun l => addr l == a) ((c.wgAt x.wg).scratch.nat a 4)
       let r := atomsSets (putScratch c x.gid x.wg a (leBytes 4 q.2)) x e addr ls as
       (q.1 ++ r.1, r.2)) := by
  have : laneAtom x e = fun l o => atomVal e.type e.aop.toNat o (laneVal x false e.data l) (laneVal x false e.cmp l) := by
    funext l o
    rw [laneAtom, hwide]
  rw [this]
  rfl

theorem atomsSets_done {x : Group} {e : EncM} {addr : Nat → Nat} {ls : List Nat} (hok : aopOk e = true) (hwide : wideType e.type = false)
    (hls : ls.Pairwise (· < ·)) (as : List Nat) (hnd : as.Nodup) (halign : ∀ a ∈ as, a % 4 = 0) (c : Machine.Core)
    (htq : c.tq = []) (hbad : c.badTile = []) :
    ∃ m, AtomsDone c x e addr ls as (atomsSets c x e addr ls as).1 (atomsSets c x e addr ls as).2 m := by
  induction as generalizing c with
  | nil => exact ⟨_, scratchIn_refl c x.wg, fun a ha => absurd ha List.not_mem_nil, fun _ _ => rfl, fun _ _ h => absurd h List.not_mem_nil⟩
  | cons a as ih =>
    obtain ⟨hna, hnd⟩ := List.nodup_cons.mp hnd
    have hapart (b : Nat) (hb : b ∈ as) : b + 4 ≤ a ∨ a + 4 ≤ b := by
      have h1 := halign a List.mem_cons_self
      have h2 := halign b (List.mem_cons_of_mem a hb)
      have h3 : b ≠ a := fun h => hna (h ▸ hb)
      omega
    have hwidth : typeWidth e.type = 32 := by rw [typeWidth, hwide]; rfl
    obtain ⟨hnew, hrs⟩ := combine_laneAtom hok x (hls.filter fun l => addr l == a) (o := (c.wgAt x.wg).scratch.nat a 4)
      (hwidth ▸ tmem_nat_lt _ a 4)
    have hlt := (foldl_laneAtom hok x (ls.filter fun l => addr l == a) (o := (c.wgAt x.wg).scratch.nat a 4)
      (hwidth ▸ tmem_nat_lt _ a 4)).2
    rw [hwidth] at hlt
    rw [atomsSets_cons _ _ _ _ _ _ _ hwide]
    dsimp only
    rw [hnew]
    have hput := scratchIn_put htq hbad (scratchIn_refl c x.wg) x.gid a
      (leBytes 4 (applyLanes e x (ls.filter fun l => addr l == a) ((c.wgAt x.wg).scratch.nat a 4)))
    obtain ⟨m, hcore, hword, hother, hgot⟩ := ih hnd (fun b hb => halign b (List.mem_cons_of_mem a hb)) _
      ((congrArg Machine.Core.tq hput.rest :).trans htq) ((congrArg Machine.Core.badTile hput.rest :).trans hbad)
    have hscratch := congrArg Wg.scratch ((hput.wgAt x.wg).trans (if_pos rfl))
    dsimp only at hscratch
    have hkept (i : Nat) (hi : i < a ∨ a + 4 ≤ i) : (((c.wgAt x.wg).scratch.write a
        (leBytes 4 (applyLanes e x (ls.filter fun l => addr l == a) ((c.wgAt x.wg).scratch.nat a 4)))).get i)
          = (c.wgAt x.wg).scratch.get i := by
      rw [tmem_get_write, length_leBytes, if_neg (by omega)]
    rw [hscratch] at hword hother hgot
    refine ⟨m, scratchIn_trans hput hcore, fun b hb => ?_, fun i hi => ?_, fun l hl hal => ?_⟩
    · rcases List.mem_cons.mp hb with rfl | hb
      · rw [tmem_nat_congr (n := (c.wgAt x.wg).scratch.write b _) fun i hi => hother (b + i) fun d hd => ?_]
        · have := tmem_nat_write (c.wgAt x.wg).scratch b
            (leBytes 4 (applyLanes e x (ls.filter fun l => addr l == b) ((c.wgAt x.wg).scratch.nat b 4)))
          rw [length_leBytes, leNat_leBytes, Nat.mod_eq_of_lt hlt] at this
          exact this
        · have := hapart d hd
          omega
      · rw [hword b hb, tmem_nat_congr fun i hi => hkept (b + i) ?_]
        have := hapart b hb
        omega
    · rw [hother i fun b hb => hi b (List.mem_cons_of_mem a hb), hkept i]
      have := hi a List.mem_cons_self
      omega
    · rw [tget?_append, hrs]
      by_cases ha : addr l = a
      · have hmine : l ∈ ls.filter fun l => addr l == a := by simp [hl, ha]
        rw [if_pos hmine, ha]
        rfl
      · have hin : addr l ∈ as := (List.mem_cons.mp hal).resolve_left ha
        have hnot : l ∉ ls.filter fun l => addr l == a := by simp [ha]
        rw [if_neg hnot, Option.none_or, hgot l hl hin,
          tmem_nat_congr fun i hi => hkept (addr l + i) ?_]
        have := hapart _ hin
        omega

theorem atomsOk_parts {e : EncM} (h : atomsOk e = true) : aopOk e = true ∧ wideType e.type = false := by
  unfold atomsOk at h
  simp only [Bool.and_eq_true, Bool.or_eq_true, beq_iff_eq] at h
  obtain ⟨⟨⟨⟨-, hok⟩, ht⟩, -⟩, -⟩ := h
  refine ⟨hok, ?_⟩
  rcases ht with (ht | ht) | ht <;> rw [ht] <;> rfl

section
variable {s s1 : State} {g : GroupAt} {e : EncM}
  (hi : IssuesM s s1 g (e.code 8 2) (atomsOk e) ([e.base.toNat, e.data.toNat] ++ (if e.aop = 7 then [e.cmp.toNat] else [])
    ++ (if e.noret then [] else [e.dst.toNat])))
  (htq : (s1.core g.core).tq = []) (hre : (s1.core g.core).requeue = []) (hbad : (s1.core g.core).badTile = [])
  (hfit : ∀ l, l < 32 → inMask ((s1.group g).guard e.h) l = true → laneScratch e (s1.group g) l % 4 = 0
    ∧ laneScratch e (s1.group g) l + 4 ≤ ((s1.core g.core).wgAt (s1.group g).wg).scratchKib * 1024)
include hi htq hre hbad hfit

theorem execAtoms_eq {res : List (Nat × Nat) × Machine.Core} (hres : atomsSets (s1.core g.core) (s1.group g) e (laneScratch e (s1.group g))
      (lanesOf ((s1.group g).guard e.h)) (distinct ((lanesOf ((s1.group g).guard e.h)).map (laneScratch e (s1.group g)))) = res) :
    execAtoms g e s = done (finishMem (s1.setCore g.core res.2) g (if e.noret then [] else [e.dst.toNat]) ((s1.group g).guard e.h)
      (if e.noret then s1.group g else (s1.group g).vsetN (wideType e.type) e.dst.toNat ((s1.group g).guard e.h) (laneResult res.1))
      (Head.size e.h)) := by
  unfold execAtoms
  extract_lets rd wr
  have hregs : rd ++ wr = [e.base.toNat, e.data.toNat] ++ (if e.aop = 7 then [e.cmp.toNat] else [])
    ++ (if e.noret then [] else [e.dst.toNat]) := rfl
  rw [hregs, stepMem_go hi]
  dsimp only
  rw [scratchFault_fits hfit]
  dsimp only
  rw [if_neg (by simp [tensorUses_idle htq hre]), badScratch_clean hbad, if_neg Bool.false_ne_true, hres,
    (atomsOk_parts hi.ok).2]
  rfl

end

theorem scratchIn_finish {s1 t : State} {g : GroupAt} {d : Machine.Core} {wg : Nat} {m : TMem} (h : ScratchIn (s1.core g.core) d wg m)
    (honly : OnlyGroup (s1.setCore g.core d) t g) :
    (t.core g.core).wgAt wg = { (s1.core g.core).wgAt wg with scratch := m }
      ∧ (∀ k, k ≠ wg → (t.core g.core).wgAt k = (s1.core g.core).wgAt k)
      ∧ (∀ k, k ≠ g.core → t.core k = s1.core k) ∧ t.mem = s1.mem := by
  have hcore : (s1.setCore g.core d).core g.core = d := by rw [State.setCore_core, if_pos rfl]
  refine ⟨?_, fun k hk => ?_, fun k hk => ?_,
    (onlyGroup_mem honly : t.mem = (s1.setCore g.core d).mem)⟩
  · rw [onlyGroup_wgAt honly, hcore, h.wgAt, if_pos rfl]
  · rw [onlyGroup_wgAt honly, hcore, h.wgAt, if_neg hk]
  · rw [honly.cores k hk, State.setCore_core, if_neg hk]

/-- Settles O12: with no tensor instruction outstanding an access meets the scratch alone. The lanes of a store write in
ascending order; the combining sets of an atomic have words of their own, so that each is taken through its lanes once. -/
theorem scratchMemory : Obligations.ScratchMemory := by
  refine ⟨fun g e s s1 b => ?_, fun g e s s1 => ?_⟩
  · intro x c w m n a hb htq hre hbad hfit
    refine ⟨fun hi => ?_, fun hi => ?_⟩
    · exact lds_answers hb hi (fun l => by rw [TMem.read, List.length_map, List.length_range])
        (execLds_eq hb htq hre hbad hfit hi)
    · have hleaves := finishMem_leaves (s1.setCore g.core ((lanesOf m).foldl (fun c l =>
        putScratch c x.gid x.wg (a l) (storeBytes x e.data b (memCount e) l)) c)) g [] m x (Head.size e.h)
      have hlen (l : Nat) : (storeBytes x e.data b (memCount e) l).length = n := length_storeBytes hb (stsOk_shape hi.ok) l
      obtain ⟨hwg, hwgs, hcores, hmem⟩ := scratchIn_finish (scratchIn_putLanes htq hbad (scratchIn_refl c x.wg) x.gid
        a (fun l => storeBytes x e.data b (memCount e) l) (lanesOf m)) hleaves.2
      refine ⟨_, execSts_eq hb htq hre hfit hi, ?_⟩
      dsimp only
      rw [hwg]
      refine ⟨hleaves.1, rfl, fun l i hl hm hin hlast => ?_, fun i hout => ?_, hwgs, hcores, hmem⟩
      · refine writeLanes_last a _ (lanesOf_sorted m) w.scratch (mem_lanesOf.mpr ⟨hl, hm⟩) (by rw [hlen]; exact hin) fun k hk hlk => ?_
        rw [hlen]
        exact hlast k hlk (mem_lanesOf.mp hk).1 (mem_lanesOf.mp hk).2
      · refine writeLanes_outside a _ w.scratch fun l hl => ?_
        rw [hlen]
        exact hout l (mem_lanesOf.mp hl).1 (mem_lanesOf.mp hl).2
  · intro x c w m a at_ old hi htq hre hbad hfit
    obtain ⟨hok, hwide⟩ := atomsOk_parts hi.ok
    have haddr {b : Nat} (hb : b ∈ distinct ((lanesOf m).map a)) : ∃ l, l < 32 ∧ inMask m l = true ∧ a l = b := by
      obtain ⟨l, hl, hal⟩ := List.mem_map.mp (mem_distinct.mp hb)
      exact ⟨l, (mem_lanesOf.mp hl).1, (mem_lanesOf.mp hl).2, hal⟩
    have hmem {l : Nat} (hl : l < 32) (hm : inMask m l = true) : l ∈ lanesOf m ∧ a l ∈ distinct ((lanesOf m).map a) :=
      ⟨mem_lanesOf.mpr ⟨hl, hm⟩, mem_distinct.mpr (List.mem_map.mpr ⟨l, mem_lanesOf.mpr ⟨hl, hm⟩, rfl⟩)⟩
    obtain ⟨sc, hcore, hword, hother, hgot⟩ := atomsSets_done (x := x) (addr := a) hok hwide (lanesOf_sorted m) (distinct ((lanesOf m).map a))
      (nodup_distinct _) (fun b hb => by obtain ⟨l, hl, hm, rfl⟩ := haddr hb; exact (hfit l hl hm).1) c htq hbad
    generalize hres : atomsSets c x e a (lanesOf m) (distinct ((lanesOf m).map a)) = res at hcore hgot
    have hleaves := finishMem_leaves (s1.setCore g.core res.2) g (if e.noret then [] else [e.dst.toNat]) m
      (if e.noret then x else x.vsetN (wideType e.type) e.dst.toNat m (laneResult res.1)) (Head.size e.h)
    obtain ⟨hwg, -, hcores, hmems⟩ := scratchIn_finish hcore hleaves.2
    refine ⟨_, execAtoms_eq hi htq hre hbad hfit hres, ?_⟩
    dsimp only
    rw [hwg]
    refine ⟨atomR_of_vsetN rfl (fun l hl hm => ?_) hleaves.1, fun l hl hm => hword _ (hmem hl hm).2, fun i hout => hother i fun b hb => ?_,
      hcores, hmems⟩
    · rw [laneResult, tget_eq, hgot l (hmem hl hm).1 (hmem hl hm).2]
      rfl
    · obtain ⟨l, hl, hm, rfl⟩ := haddr hb
      exact hout l hl hm

end Sys2Proof.Proofs

/-! The places of a memory instruction's lanes, and atomics on words of DRAM. -/

namespace Sys2Proof.Proofs

open Sys2Proof.Machine

/-! ### Places -/

theorem readsOnly_resolve {s t : State} {c align : Nat} {va : Nat → Nat} {w : Bool} {ls : List Nat} {ps : List (Nat × Place)}
    (h : resolve s c va align w ls = .ok (ps, t)) : ReadsOnly s t ∧ ps.map Prod.fst = ls := by
  induction ls generalizing s t ps with
  | nil => cases h; exact ⟨.refl s, rfl⟩
  | cons l ls ih =>
    unfold resolve at h
    dsimp only at h
    split at h
    · cases h
    split at h
    · cases h
    split at h
    · cases h
    next p s1 hloc =>
      split at h
      · cases h
      next r s2 hrest =>
        cases h
        obtain ⟨hro, hkeys⟩ := ih hrest
        exact ⟨(readsOnly_locate hloc).trans hro, by rw [List.map_cons, hkeys]⟩

theorem tget?_of_mem {α : Type} {t : Tbl α} (hnd : (t.map Prod.fst).Nodup) {k : Nat} {v : α} (h : (k, v) ∈ t) : tget? t k = some v := by
  induction t with
  | nil => cases h
  | cons p t ih =>
    obtain ⟨j, w⟩ := p
    obtain ⟨hj, hnd⟩ := List.nodup_cons.mp hnd
    rw [tget?]
    rcases List.mem_cons.mp h with heq | hmem
    · cases heq
      exact if_pos rfl
    · rw [if_neg fun hk => hj (List.mem_map.mpr ⟨_, hmem, hk⟩), ih hnd hmem]

theorem pendOverlap_none {c : Machine.Core} {gid n : Nat} {ps : List (Nat × Place)}
    (h : ∀ p ∈ ps, pendOverlap c gid p.1 p.2.pa n = false) : (ps.any fun p => pendOverlap c gid p.1 p.2.pa n) = false :=
  List.any_eq_false.mpr fun p hp => by simp [h p hp]

theorem poisonHit_none {s : State} {va : Nat → Nat} {n : Nat} {ps : List (Nat × Place)}
    (h : ∀ p ∈ ps, poisonedWord s p.2.pa n = none) : poisonHit s va n ps = none := by
  rw [poisonHit, List.find?_eq_none.mpr fun p hp => by simp [h p hp]]
  rfl

theorem paKind_dram_lt {pa : Nat} (h : paKind pa = .dram) : pa < 0x1000000000 := by
  unfold paKind at h
  split at h
  · assumption
  · split at h
    · cases h
    · split at h <;> cases h

/-! ### A line that the system cache holds -/

/-- The system cache holds a line. -/
def Held (s : State) (ln : Nat) : Prop := ∃ e ∈ s.mem.cache, e.line = ln

/-- Serving a line that is held moves it to the front and evicts nothing. -/
theorem touchLine_held {s : State} {ln : Nat} (h : Held s ln) (stream write : Bool) :
    ∃ l, touchLine s ln stream write = s.setMem { s.mem with cache := l }
      ∧ ∀ k, Held (touchLine s ln stream write) k ↔ Held s k := by
  obtain ⟨e0, he0, hln0⟩ := h
  cases hf : s.mem.cache.find? fun e => e.line == ln with
  | none => exact absurd (beq_iff_eq.mpr hln0) (List.find?_eq_none.mp hf e0 he0)
  | some e =>
    have heq : touchLine s ln stream write = s.setMem { s.mem with
        cache := { e with dirty := e.dirty || write } :: s.mem.cache.filter fun x => x.line != ln } := by
      rw [touchLine, hf]
    have hline : e.line = ln := by simpa using List.find?_some hf
    have hmem := List.mem_of_find?_eq_some hf
    refine ⟨_, heq, fun k => ?_⟩
    rw [heq, Held, State.setMem_mem, Held]
    simp only [List.mem_cons, List.mem_filter, bne_iff_ne]
    constructor
    · rintro ⟨x, rfl | ⟨hx, -⟩, hk⟩
      · exact ⟨e, hmem, hk⟩
      · exact ⟨x, hx, hk⟩
    · rintro ⟨x, hx, hk⟩
      by_cases hxl : x.line = ln
      · exact ⟨_, .inl rfl, hline.trans (hxl.symm.trans hk)⟩
      · exact ⟨x, .inr ⟨hx, hxl⟩, hk⟩

theorem throughCache_dram (s : State) (cached : Bool) {pa : Nat} (h : paKind pa = .dram) : throughCache s cached pa = true := by
  rw [throughCache, h]

theorem sliceWrite_dram_eq (s : State) (w : Option Nat) (cached stream : Bool) {pa : Nat} (bs : List Byte) (h : paKind pa = .dram) :
    sliceWrite s w cached stream pa bs = invalidateLine ((touchLine s (pa / 128) stream true).setMem
      { clearPoison (touchLine s (pa / 128) stream true).mem pa bs.length with
        dram := (touchLine s (pa / 128) stream true).mem.dram.write pa bs }) w (pa / 128) := by
  rw [sliceWrite, throughCache_dram s cached h, if_pos rfl, physWrite1, h]

theorem sliceWrite_dram_held (s : State) (w : Option Nat) (cached stream : Bool) {pa : Nat} (bs : List Byte) (h : paKind pa = .dram)
    (hheld : Held s (pa / 128)) : (sliceWrite s w cached stream pa bs).mem.host = s.mem.host
      ∧ ∀ k, Held (sliceWrite s w cached stream pa bs) k ↔ Held s k := by
  obtain ⟨l, heq, hk⟩ := touchLine_held hheld stream true
  rw [sliceWrite_dram_eq _ _ _ _ _ h]
  refine ⟨?_, fun k => (Iff.rfl.trans (hk k))⟩
  rw [heq]
  rfl

/-! ### atom -/

theorem mem_nat_congr {m n : Mem} {a w : Nat} (h : ∀ i, i < w → m.get (a + i) = n.get (a + i)) : m.nat a w = n.nat a w :=
  congrArg leNat (List.map_congr_left fun i hi => h i (List.mem_range.mp hi))

theorem mem_nat_lt (m : Mem) (a w : Nat) : m.nat a w < 2 ^ (8 * w) := by
  have := leNat_lt (m.read a w)
  rwa [mem_length_read] at this

theorem mem_nat_write (m : Mem) (a w x : Nat) (h : m.wf = true) (hx : x < 2 ^ (8 * w)) : (m.write a (leBytes w x)).nat a w = x := by
  have hread := mem_read_write m a (leBytes w x) h
  rw [length_leBytes] at hread
  rw [Mem.nat, hread, leNat_leBytes, Nat.mod_eq_of_lt hx]

theorem typeWidth_bytes (t : BitVec 4) : 8 * (typeWidth t / 8) = typeWidth t := by
  rw [typeWidth]
  split <;> rfl

/-- The lanes of a set of places that lie at one address. -/
def lanesAt (ps : List (Nat × Place)) (a : Nat) : List Nat := (ps.filter fun q => q.2.pa == a).map Prod.fst

/-- What the combining sets at the addresses `as` leave: state `t` and the values received `rs`. -/
structure SetsDone (s : State) (x : Group) (e : EncM) (ps : List (Nat × Place)) (as : List Nat) (rs : List (Nat × Nat)) (t : State) :
    Prop where
  wf : t.mem.dram.wf = true
  word : ∀ a ∈ as, t.mem.dram.nat a (typeWidth e.type / 8) = applyLanes e x (lanesAt ps a) (s.mem.dram.nat a (typeWidth e.type / 8))
  other : ∀ i, (∀ a ∈ as, ¬ (a ≤ i ∧ i < a + typeWidth e.type / 8)) → t.mem.dram.get i = s.mem.dram.get i
  got : ∀ q ∈ ps, q.2.pa ∈ as → tget? rs q.1
    = some (applyLanes e x ((lanesAt ps q.2.pa).filter fun k => decide (k < q.1)) (s.mem.dram.nat q.2.pa (typeWidth e.type / 8)))
  group : ∀ g, t.group g = s.group g
  host : (∀ a ∈ as, Held s (a / 128)) → t.mem.host = s.mem.host

/-- What the lanes of one set and the word at its address become. -/
def setResult (s : State) (x : Group) (e : EncM) (ps : List (Nat × Place)) (a : Nat) : List (Nat × Nat) × Nat :=
  combine (laneAtom x e) (lanesAt ps a) (s.mem.dram.nat a (typeWidth e.type / 8))

theorem atomSets_cons {x : Group} {e : EncM} {ps : List (Nat × Place)} {a : Nat} (hin : ∃ q ∈ ps, q.2.pa = a) (hdram : paKind a = .dram)
    (s : State) (as : List Nat) : ∃ cached, atomSets s x e ps (a :: as) =
      (let r := atomSets (sliceWrite s none cached false a (leBytes (typeWidth e.type / 8) (setResult s x e ps a).2)) x e ps as
       ((setResult s x e ps a).1 ++ r.1, r.2)) := by
  cases hcons : ps.filter fun q => q.2.pa == a with
  | nil =>
    obtain ⟨q, hq, hqa⟩ := hin
    have hmem : q ∈ ps.filter fun q => q.2.pa == a := List.mem_filter.mpr ⟨hq, beq_iff_eq.mpr hqa⟩
    rw [hcons] at hmem
    cases hmem
  | cons q tail =>
    obtain ⟨l, p⟩ := q
    have hp : p.pa = a := by
      have : (l, p) ∈ ps.filter fun q => q.2.pa == a := hcons ▸ List.mem_cons_self
      simpa using (List.mem_filter.mp this).2
    have hset : atomSet s x e p (((l, p) :: tail).map Prod.fst) = ((setResult s x e ps a).1,
        sliceWrite s none (p.cached && !p.host) false a (leBytes (typeWidth e.type / 8) (setResult s x e ps a).2)) := by
      rw [atomSet, hp, physRead1, hdram, setResult, lanesAt, hcons]
      rfl
    refine ⟨p.cached && !p.host, ?_⟩
    rw [atomSets, hcons]
    dsimp only
    rw [hset]

theorem atomSets_done {x : Group} {e : EncM} {ps : List (Nat × Place)} (hok : aopOk e = true) (hps : (ps.map Prod.fst).Pairwise (· < ·))
    (hdram : ∀ q ∈ ps, paKind q.2.pa = .dram)
    (hapart : ∀ p ∈ ps, ∀ q ∈ ps, q.2.pa = p.2.pa ∨ q.2.pa + typeWidth e.type / 8 ≤ p.2.pa ∨ p.2.pa + typeWidth e.type / 8 ≤ q.2.pa)
    (as : List Nat) (hnd : as.Nodup) (has : ∀ a ∈ as, ∃ q ∈ ps, q.2.pa = a) (s : State) (hwf : s.mem.dram.wf = true) :
    SetsDone s x e ps as (atomSets s x e ps as).1 (atomSets s x e ps as).2 := by
  induction as generalizing s with
  | nil => exact ⟨hwf, fun a ha => absurd ha List.not_mem_nil, fun _ _ => rfl, fun _ _ h => absurd h List.not_mem_nil, fun _ => rfl,
      fun _ => rfl⟩
  | cons a as ih =>
    obtain ⟨hna, hnd⟩ := List.nodup_cons.mp hnd
    obtain ⟨q0, hq0, hqa⟩ := has a List.mem_cons_self
    have hkind : paKind a = .dram := hqa ▸ hdram q0 hq0
    have hdisjoint (b : Nat) (hb : b ∈ as) : b + typeWidth e.type / 8 ≤ a ∨ a + typeWidth e.type / 8 ≤ b := by
      obtain ⟨q, hq, rfl⟩ := has b (List.mem_cons_of_mem a hb)
      subst hqa
      refine (hapart q0 hq0 q hq).resolve_left fun h => hna (h ▸ hb)
    have hsorted : (lanesAt ps a).Pairwise (· < ·) := hps.sublist (List.filter_sublist.map _)
    have hold : s.mem.dram.nat a (typeWidth e.type / 8) < 2 ^ typeWidth e.type := by
      have := mem_nat_lt s.mem.dram a (typeWidth e.type / 8)
      rwa [typeWidth_bytes] at this
    obtain ⟨hnew, hrs⟩ := combine_laneAtom hok x hsorted hold
    have hlt := (foldl_laneAtom hok x (lanesAt ps a) hold).2
    obtain ⟨cached, hcons⟩ := atomSets_cons (x := x) (e := e) (has a List.mem_cons_self) hkind s as
    rw [hcons]
    dsimp only
    have hword : (setResult s x e ps a).2 = applyLanes e x (lanesAt ps a) (s.mem.dram.nat a (typeWidth e.type / 8)) := hnew
    rw [hword]
    generalize hu : sliceWrite s none cached false a
      (leBytes (typeWidth e.type / 8) (applyLanes e x (lanesAt ps a) (s.mem.dram.nat a (typeWidth e.type / 8)))) = u
    have hud : u.mem.dram = s.mem.dram.write a
        (leBytes (typeWidth e.type / 8) (applyLanes e x (lanesAt ps a) (s.mem.dram.nat a (typeWidth e.type / 8)))) := by
      rw [← hu, sliceWrite_dram _ _ _ _ _ (paKind_dram_lt hkind)]
    have hdone := ih hnd (fun b hb => has b (List.mem_cons_of_mem a hb)) u (hud ▸ Mem.wf_write _ _ _ hwf)
    have hkept (i : Nat) (hi : i < a ∨ a + typeWidth e.type / 8 ≤ i) : u.mem.dram.get i = s.mem.dram.get i := by
      rw [hud, Mem.get_write_outside]
      rwa [length_leBytes]
    have hnat (b : Nat) (hb : b ∈ as) : u.mem.dram.nat b (typeWidth e.type / 8) = s.mem.dram.nat b (typeWidth e.type / 8) := by
      refine mem_nat_congr fun i hi => hkept (b + i) ?_
      have := hdisjoint b hb
      omega
    refine ⟨hdone.wf, fun b hb => ?_, fun i hi => ?_, fun q hq hqb => ?_, fun g => ?_, fun hheld => ?_⟩
    · rcases List.mem_cons.mp hb with rfl | hb
      · rw [mem_nat_congr fun i hi => hdone.other (b + i) fun d hd => ?_]
        · rw [hud, mem_nat_write _ _ _ _ hwf (by rwa [typeWidth_bytes])]
        · have := hdisjoint d hd
          omega
      · rw [hdone.word b hb, hnat b hb]
    · rw [hdone.other i fun b hb => hi b (List.mem_cons_of_mem a hb), hkept i]
      have := hi a List.mem_cons_self
      omega
    · rw [tget?_append, setResult, hrs]
      by_cases ha : q.2.pa = a
      · have hmine : q.1 ∈ lanesAt ps a := List.mem_map.mpr ⟨q, List.mem_filter.mpr ⟨hq, beq_iff_eq.mpr ha⟩, rfl⟩
        rw [if_pos hmine, ha]
        rfl
      · have hin : q.2.pa ∈ as := (List.mem_cons.mp hqb).resolve_left ha
        have hnot : q.1 ∉ lanesAt ps a := by
          intro h
          obtain ⟨q', hq', hfst⟩ := List.mem_map.mp h
          obtain ⟨hmem, hpa⟩ := List.mem_filter.mp hq'
          have hsome := tget?_of_mem (k := q'.1) (v := q'.2) (hps.imp Nat.ne_of_lt) hmem
          rw [hfst, tget?_of_mem (k := q.1) (v := q.2) (hps.imp Nat.ne_of_lt) hq] at hsome
          exact ha ((Option.some.inj hsome).symm ▸ beq_iff_eq.mp hpa)
        rw [if_neg hnot, Option.none_or, hdone.got q hq hin, hnat _ hin]
    · rw [hdone.group, ← hu]
      exact (writesOnly_sliceWrite _ _ _ _ _ _).group g
    · obtain ⟨hhost, hkeep⟩ := sliceWrite_dram_held s none cached false
        (leBytes (typeWidth e.type / 8) (applyLanes e x (lanesAt ps a) (s.mem.dram.nat a (typeWidth e.type / 8)))) hkind
        (hheld a List.mem_cons_self)
      rw [hu] at hhost hkeep
      rw [hdone.host fun b hb => (hkeep _).mpr (hheld b (List.mem_cons_of_mem a hb)), hhost]

theorem hostAtomicBad_dram (s : State) (e : EncM) {p : Place} (h : paKind p.pa = .dram) : hostAtomicBad s e p = false := by
  rw [hostAtomicBad, h]

/-- The address of a lane's place. -/
def placePa (ps : List (Nat × Place)) (l : Nat) : Nat :=
  match tget? ps l with
  | some p => p.pa
  | none => 0

section
variable {ps : List (Nat × Place)} (hnd : (ps.map Prod.fst).Nodup)
include hnd

theorem placePa_mem {q : Nat × Place} (hq : q ∈ ps) : placePa ps q.1 = q.2.pa := by
  rw [placePa, tget?_of_mem (v := q.2) hnd hq]

theorem lanesAt_eq (a : Nat) : (ps.map Prod.fst).filter (fun k => placePa ps k == a) = lanesAt ps a := by
  rw [List.filter_map, lanesAt]
  refine congrArg (List.map Prod.fst) (List.filter_congr fun q hq => ?_)
  rw [Function.comp_apply, placePa_mem hnd hq]

end

/-- An atomic whose words are all in DRAM, unpoisoned, with no store outstanding on them. -/
theorem execAtom_eq {s s1 s2 : State} {g : GroupAt} {e : EncM} {ps : List (Nat × Place)}
    (hi : IssuesM s s1 g (e.code 9 0) (atomOk e) (baseRegs e ++ memRegs e.data (typeWidth e.type / 8) 1
      ++ (if e.aop = 7 then memRegs e.cmp (typeWidth e.type / 8) 1 else [])
      ++ (if e.noret then [] else memRegs e.dst (typeWidth e.type / 8) 1)))
    (hres : resolve s1 (s1.group g).ctx (laneVa e (s1.group g)) (typeWidth e.type / 8) true
      (lanesOf ((s1.group g).guard e.h &&& ~~~(s1.group g).helpers)) = .ok (ps, s2))
    (hquiet : e.order ≠ 0 → ∀ p ∈ (s2.core g.core).stores, p.gid = (s1.group g).gid →
      (s1.group g).guard e.h &&& ~~~(s1.group g).helpers &&& p.lanes = 0)
    (hdram : ∀ p ∈ ps, paKind p.2.pa = .dram) (hpoison : ∀ p ∈ ps, poisonedWord s2 p.2.pa (typeWidth e.type / 8) = none)
    (hpend : ∀ p ∈ ps, pendOverlap (s2.core g.core) (s1.group g).gid p.1 p.2.pa (typeWidth e.type / 8) = false)
    {res : List (Nat × Nat) × State} (hsets : atomSets s2 (s1.group g) e ps (distinct (ps.map fun p => p.2.pa)) = res) :
    execAtom g e s = done (finishMem res.2 g (if e.noret then [] else memRegs e.dst (typeWidth e.type / 8) 1)
      ((s1.group g).guard e.h &&& ~~~(s1.group g).helpers)
      (if e.noret then res.2.group g else (res.2.group g).vsetN (wideType e.type) e.dst.toNat
        ((s1.group g).guard e.h &&& ~~~(s1.group g).helpers) (laneResult res.1)) (Head.size e.h)) := by
  have hhost : (ps.find? fun p => hostAtomicBad s2 e p.2) = none :=
    List.find?_eq_none.mpr fun p hp => by rw [hostAtomicBad_dram _ _ (hdram p hp)]; exact Bool.false_ne_true
  unfold execAtom
  extract_lets wide w two rd wr
  have hregs : rd ++ wr = baseRegs e ++ memRegs e.data (typeWidth e.type / 8) 1
      ++ (if e.aop = 7 then memRegs e.cmp (typeWidth e.type / 8) 1 else [])
      ++ (if e.noret then [] else memRegs e.dst (typeWidth e.type / 8) 1) := rfl
  have hstays : ¬ ((e.order ≠ 0 ∧ pendAny (s2.core g.core) (s1.group g).gid ((s1.group g).guard e.h &&& ~~~(s1.group g).helpers) = true)
      ∨ (ps.any fun p => pendOverlap (s2.core g.core) (s1.group g).gid p.1 p.2.pa w) = true) := by
    rw [pendOverlap_none hpend]
    by_cases ho : e.order = 0
    · simp [ho]
    · simp [pendAny_quiet (hquiet ho)]
  rw [hregs, stepMem_go hi]
  dsimp only
  rw [hres]
  dsimp only
  rw [hhost]
  dsimp only
  rw [if_neg hstays, poisonHit_none hpoison, hsets]

/-- Settles O15: the combining sets lie apart in DRAM, so each takes its word through its lanes once, and the line that it
drops from every L1 and what leaves the system cache for it touch no group and no other byte of DRAM. -/
theorem memoryAtomics : Obligations.MemoryAtomics := by
  intro g e s s1 s2 ps hs x m w two c pa at_ old hi hres hquiet hplaces
  obtain ⟨hro, hkeys⟩ := readsOnly_resolve hres
  have hro2 : ReadsOnly s s2 := (readsOnly_issueCheck hi.issue).trans hro
  have hok : aopOk e = true := (Bool.and_eq_true_iff.mp hi.ok).2
  have hsorted : (ps.map Prod.fst).Pairwise (· < ·) := hkeys ▸ lanesOf_sorted m
  have hnd : (ps.map Prod.fst).Nodup := hsorted.imp Nat.ne_of_lt
  have hdone := atomSets_done (x := x) hok hsorted (fun q hq => (hplaces q hq).1) (fun p hp q hq => (hplaces p hp).2.2.2 q hq)
    (distinct (ps.map fun p => p.2.pa)) (nodup_distinct _) (fun a ha => List.mem_map.mp (mem_distinct.mp ha)) s2
    (by rw [hro2.dram]; exact hs.dram)
  generalize hsets : atomSets s2 x e ps (distinct (ps.map fun p => p.2.pa)) = res at hdone
  have hgroup : res.2.group g = x := (hdone.group g).trans (hro.group g)
  have hplace {l : Nat} (hl : l < 32) (hm : inMask m l = true) : ∃ q ∈ ps, q.1 = l := by
    have : l ∈ ps.map Prod.fst := hkeys ▸ mem_lanesOf.mpr ⟨hl, hm⟩
    exact List.mem_map.mp this
  have hat {q : Nat × Place} (hq : q ∈ ps) : at_ q.1 = lanesAt ps q.2.pa := by
    have hlanes : at_ q.1 = (lanesOf m).filter fun k => placePa ps k == placePa ps q.1 := rfl
    rw [hlanes, ← hkeys, placePa_mem hnd hq, lanesAt_eq hnd]
  have hold {q : Nat × Place} (hq : q ∈ ps) : old q.1 = s2.mem.dram.nat q.2.pa w := by
    have hval : old q.1 = s.mem.dram.nat (placePa ps q.1) w := rfl
    rw [hval, placePa_mem hnd hq, hro2.dram]
  have hin {q : Nat × Place} (hq : q ∈ ps) : q.2.pa ∈ distinct (ps.map fun p => p.2.pa) :=
    mem_distinct.mpr (List.mem_map.mpr ⟨q, hq, rfl⟩)
  have hleaves := finishMem_leaves res.2 g (if e.noret then [] else memRegs e.dst (typeWidth e.type / 8) 1) m
    (if e.noret then res.2.group g else (res.2.group g).vsetN (wideType e.type) e.dst.toNat m (laneResult res.1)) (Head.size e.h)
  have hmem := onlyGroup_mem hleaves.2
  refine ⟨_, execAtom_eq hi hres hquiet (fun p hp => (hplaces p hp).1) (fun p hp => (hplaces p hp).2.1)
    (fun p hp => (hplaces p hp).2.2.1) hsets, ?_⟩
  dsimp only
  rw [hmem]
  refine ⟨atomR_of_vsetN (by rw [hgroup]) (fun l hl hm => ?_) hleaves.1, fun l hl hm => ?_, fun a hout => ?_, fun hheld => ?_, fun j hj => ?_⟩
  · obtain ⟨q, hq, rfl⟩ := hplace hl hm
    rw [laneResult, tget_eq, hdone.got q hq (hin hq), hat hq, hold hq]
    rfl
  · obtain ⟨q, hq, rfl⟩ := hplace hl hm
    have hpa : pa q.1 = q.2.pa := placePa_mem hnd hq
    rw [hpa, hdone.word _ (hin hq), hat hq, hold hq]
  · rw [← hro2.dram]
    refine hdone.other a fun b hb => ?_
    obtain ⟨q, hq, rfl⟩ := List.mem_map.mp (mem_distinct.mp hb)
    have hpa : pa q.1 = q.2.pa := placePa_mem hnd hq
    have hlane : q.1 ∈ lanesOf m := hkeys ▸ List.mem_map.mpr ⟨q, hq, rfl⟩
    rw [← hpa]
    exact hout q.1 (mem_lanesOf.mp hlane).1 (mem_lanesOf.mp hlane).2
  · refine hdone.host fun a ha => ?_
    obtain ⟨q, hq, rfl⟩ := List.mem_map.mp (mem_distinct.mp ha)
    exact hheld q hq
  · rw [hleaves.2.groups j hj]
    exact hdone.group (slotAt g.core j)

end Sys2Proof.Proofs

/-! Loads whose lines the L1 holds. -/

namespace Sys2Proof.Proofs

open Sys2Proof.Machine

/-! ### The L1 without errors -/

theorem l1Error_none (s : State) (core ln : Nat) : l1Error s core ln .none = s := ite_self _

theorem l1Errors_nil (s : State) (core : Nat) (ls : List Nat) : l1Errors s core ls [] = s := by
  rw [l1Errors]
  induction errOrder ls with
  | nil => rfl
  | cons ln r ih => rwa [List.foldl_cons, tget, l1Error_none]

theorem setCore_same (s : State) (core k : Nat) : (s.setCore core (s.core core)).core k = s.core k := by
  rw [State.setCore_core]
  split
  next h => rw [h]
  next => rfl

theorem l1Clean_nil (s : State) (core : Nat) (ls : List Nat) : l1Clean s core ls [] = s.setCore core (s.core core) := by
  unfold l1Clean
  extract_lets c
  refine congrArg (s.setCore core) ?_
  induction ls with
  | nil => rfl
  | cons ln ls ih => exact ih

theorem l1Serve_hits {s : State} {core : Nat} {ls : List Nat} (h : ∀ ln ∈ ls, (s.core core).l1Has ln = true) :
    l1Serve s core ls = (s, none) := by
  induction ls with
  | nil => rfl
  | cons ln ls ih =>
    unfold l1Serve
    dsimp only
    rw [h ln List.mem_cons_self, Bool.true_or, Bool.true_or, if_pos rfl]
    exact ih fun k hk => h k (List.mem_cons_of_mem ln hk)

theorem mem_linesOf {ps : List (Nat × Place)} {ln : Nat} (h : ln ∈ linesOf ps) : ∃ p ∈ ps, p.2.pa / 128 = ln := by
  have hfold : ∀ (ps : List (Nat × Place)) (acc : List Nat),
      ln ∈ ps.foldl (fun acc e => if acc.contains (e.2.pa / 128) then acc else acc ++ [e.2.pa / 128]) acc →
        ln ∈ acc ∨ ∃ p ∈ ps, p.2.pa / 128 = ln := by
    intro ps
    induction ps with
    | nil => exact fun acc h => .inl h
    | cons p ps ih =>
      intro acc h
      rcases ih _ h with h | ⟨q, hq, hln⟩
      · dsimp only at h
        split at h
        · exact .inl h
        · rcases List.mem_append.mp h with h | h
          · exact .inl h
          · exact .inr ⟨p, List.mem_cons_self, (List.mem_singleton.mp h).symm⟩
      · exact .inr ⟨q, List.mem_cons_of_mem p hq, hln⟩
  exact (hfold ps [] h).resolve_left List.not_mem_nil

/-- From `s` to `t` a core's stride detectors learned, and it may have begun a prefetch. -/
structure Trains (s t : State) (core : Nat) : Prop where
  mem : t.mem = s.mem
  fences : t.fences = s.fences
  queues : t.queues = s.queues
  others : ∀ k, k ≠ core → t.core k = s.core k
  core : t.core core = { s.core core with dets := (t.core core).dets, prefetch := (t.core core).prefetch }

theorem trains_refl (s : State) (core : Nat) : Trains s s core := ⟨rfl, rfl, rfl, fun _ _ => rfl, rfl⟩

theorem trains_bump {s t : State} {core : Nat} (h : Trains s t core) (u o : Nat) : Trains s (bump t u o) core where
  mem := (bump_mem _ _ _).trans h.mem
  fences := (bump_fences _ _ _).trans h.fences
  queues := (bump_queues _ _ _).trans h.queues
  others k hk := (bump_core _ _ _ _).trans (h.others k hk)
  core := by rw [bump_core]; exact h.core

theorem trains_setCore {s t : State} {core : Nat} (h : Trains s t core) (dets : Tbl Det) (prefetch : Tbl Fill) :
    Trains s (t.setCore core { s.core core with dets := dets, prefetch := prefetch }) core where
  mem := h.mem
  fences := h.fences
  queues := h.queues
  others k hk := by rw [State.setCore_core, if_neg hk, h.others k hk]
  core := by rw [State.setCore_core, if_pos rfl]

theorem trains_trainStream (s : State) (core slot base ln lo hi : Nat) : Trains s (trainStream s core slot base ln lo hi) core := by
  have hset (t : State) (h : Trains s t core) (dets : Tbl Det) := trains_setCore h dets (s.core core).prefetch
  unfold trainStream
  extract_lets c t
  split
  · exact hset s (trains_refl s core) _
  · extract_lets old new c1 s1
    have h1 : Trains s s1 core := hset s (trains_refl s core) _
    split
    · exact h1
    · split
      · exact trains_bump (trains_setCore h1 c1.dets _) _ _
      · exact trains_bump h1 _ _

theorem trains_trainLoad (s : State) (g : GroupAt) (base : Nat) (ps : List (Nat × Place)) : Trains s (trainLoad s g base ps) g.core := by
  unfold trainLoad
  split
  · exact trains_refl s g.core
  · split
    · exact trains_refl s g.core
    · exact trains_trainStream _ _ _ _ _ _ _

/-! ### Bytes of memory after telling -/

theorem physRead1_told {s t : State} (h : Told s t) (hmem : t.mem = s.mem) (hobjs : t.objs = s.objs) (cached : Bool) (pa n : Nat) :
    physRead1 t cached pa n = physRead1 s cached pa n := by
  have hlost (p : Nat) : (t.port p).lost = (s.port p).lost := (congrArg Port.lost (h.port p) :)
  have hbase (p : Nat) : (t.port p).winBase = (s.port p).winBase := (congrArg Port.winBase (h.port p) :)
  have hpasid (k : Nat) : (t.tenant k).pasid = (s.tenant k).pasid := (congrArg Tenant.pasid (h.tenant k) :)
  have hspace (p off : Nat) : hostSpace t p off = hostSpace s p off := by simp only [hostSpace, hostObj, hobjs, hpasid]
  simp only [physRead1, hostRead, heldLine, State.hostMem, hmem, hlost, hbase, hspace]

/-! ### ld -/

/-- The bytes that a load gives a lane. -/
def laneBytes (s : State) (n : Nat) (ps : List (Nat × Place)) (l : Nat) : List Byte :=
  match tget? ps l with
  | some p => physRead1 s p.cached p.pa n
  | none => []

theorem tget_readLanes (s : State) (n : Nat) (ps : List (Nat × Place)) (l : Nat) : tget (readLanes s n ps) l [] = laneBytes s n ps l := by
  rw [laneBytes, readLanes]
  induction ps with
  | nil => rfl
  | cons q ps ih =>
    obtain ⟨k, p⟩ := q
    rw [List.map_cons, tget_eq, tget?, tget?]
    split
    · rfl
    · rw [← tget_eq, ih]

/-- The state with the hits of a load counted. -/
def hitsCounted (s : State) (core hits : Nat) : State := (bumpBy s core 0x120 hits).setCore core ((bumpBy s core 0x120 hits).core core)

theorem hitsCounted_core (s : State) (core hits k : Nat) : (hitsCounted s core hits).core k = s.core k := by
  rw [hitsCounted, setCore_same, State.core, bumpBy_cores]
  rfl

theorem hitsCounted_bytes (s : State) (core hits n : Nat) (ps : List (Nat × Place)) (l : Nat) :
    laneBytes (hitsCounted s core hits) n ps l = laneBytes s n ps l := by
  have hread (cached : Bool) (pa : Nat) : physRead1 (hitsCounted s core hits) cached pa n = physRead1 s cached pa n :=
    physRead1_told (Told.trans (says_bumpBy s core 0x120 hits).told (.of_eq rfl rfl rfl)) (bumpBy_mem _ _ _ _) (bumpBy_objs _ _ _ _) _ _ _
  simp only [laneBytes, hread]

theorem execLd_eq {s s1 s2 : State} {g : GroupAt} {e : EncM} {b : Nat} {ps : List (Nat × Place)} (hb : memBytes e.type = some b)
    (hi : IssuesM s s1 g (e.code 7 0) (ldOk e) (baseRegs e ++ memRegs e.dst b (memCount e)))
    (hres : resolve s1 (s1.group g).ctx (laneVa e (s1.group g)) (if b < 4 then b else pow2Up (b * memCount e)) false
      (lanesOf ((s1.group g).guard e.h)) = .ok (ps, s2))
    (hquiet : e.order ≠ 0 → ∀ p ∈ (s2.core g.core).stores, p.gid = (s1.group g).gid → (s1.group g).guard e.h &&& p.lanes = 0)
    (hpend : ∀ p ∈ ps, pendOverlap (s2.core g.core) (s1.group g).gid p.1 p.2.pa (b * memCount e) = false)
    (hpoison : ∀ p ∈ ps, poisonedWord s2 p.2.pa (b * memCount e) = none)
    (hhit : ∀ p ∈ ps, p.2.host = false ∨ p.2.cached = true → (s2.core g.core).l1Has (p.2.pa / 128) = true) :
    ∃ hits, execLd g e ⟨[], 0, 0, []⟩ s = done (finishMem (trainLoad (hitsCounted s2 g.core hits) g e.base.toNat ps) g
      (memRegs e.dst b (memCount e)) ((s1.group g).guard e.h)
      (loadRegs (s2.group g) e b ((s1.group g).guard e.h) (laneBytes s2 (b * memCount e) ps)) (Head.size e.h)) := by
  have hlines : ∀ ln ∈ linesOf (ps.filter fun p => !p.2.host || p.2.cached), (s2.core g.core).l1Has ln = true := by
    intro ln hln
    obtain ⟨p, hp, rfl⟩ := mem_linesOf hln
    obtain ⟨hp, hcond⟩ := List.mem_filter.mp hp
    exact hhit p hp (by simpa using hcond)
  have hmissed : (linesOf (ps.filter fun p => !p.2.host || p.2.cached)).filter (fun ln => !(s2.core g.core).l1Has ln) = [] :=
    List.filter_eq_nil_iff.mpr fun ln hln => by simp [hlines ln hln]
  have hstays : ¬ ((e.order ≠ 0 ∧ pendAny (s2.core g.core) (s1.group g).gid ((s1.group g).guard e.h) = true)
      ∨ (ps.any fun p => pendOverlap (s2.core g.core) (s1.group g).gid p.1 p.2.pa (b * memCount e)) = true) := by
    rw [pendOverlap_none hpend]
    by_cases ho : e.order = 0
    · simp [ho]
    · simp [pendAny_quiet (hquiet ho)]
  refine ⟨((linesOf (ps.filter fun p => !p.2.host || p.2.cached)).filter (s2.core g.core).l1Has).length, ?_⟩
  unfold execLd
  rw [hb, Option.getD_some]
  dsimp only
  rw [stepMem_go hi, hres]
  dsimp only
  rw [if_neg hstays, l1Errors_nil, hmissed, List.foldl_nil, poisonHit_none hpoison]
  dsimp only
  rw [l1Serve_hits hlines]
  dsimp only
  rw [l1Clean_nil]
  have hgroup (hits : Nat) : (hitsCounted s2 g.core hits).group g = s2.group g := by
    rw [State.group, hitsCounted_core]
    rfl
  have hbytes (hits : Nat) : (fun l => tget (readLanes (hitsCounted s2 g.core hits) (b * memCount e) ps) l [])
      = laneBytes s2 (b * memCount e) ps := by
    funext l
    rw [tget_readLanes, hitsCounted_bytes]
  rw [← hgroup, ← hbytes]
  rfl

theorem ldOk_shape {e : EncM} (h : ldOk e = true) : memShapeOk e e.dst = true := by
  unfold ldOk at h
  simp only [Bool.and_eq_true] at h
  exact h.1.1.1.1.1.2

theorem length_physRead1_le {s : State} {cached : Bool} {pa n : Nat} : (physRead1 s cached pa n).length ≤ n := by
  rw [physRead1]
  split
  · exact (mem_length_read _ _ _).le
  · split
    · rw [List.length_take]
      exact Nat.min_le_left _ _
    · rw [hostRead]
      split
      · exact (List.length_replicate).le
      · exact (mem_length_read _ _ _).le
  · exact (List.length_replicate).le

theorem length_laneBytes_le (s : State) (n : Nat) (ps : List (Nat × Place)) (l : Nat) : (laneBytes s n ps l).length ≤ n := by
  rw [laneBytes]
  split
  · exact length_physRead1_le
  · exact Nat.zero_le n

theorem onlyGroup_queues {s t : State} {g : GroupAt} (h : OnlyGroup s t g) : t.queues = s.queues := by
  have hcount : (countIssue s g).queues = s.queues := by
    unfold countIssue
    extract_lets x c s0 s1
    have h1 : s1.queues = s.queues := bump_queues _ _ _
    split
    · rw [bump_queues]
      exact h1
    · exact h1
  exact (congrArg State.queues h.rest :).trans hcount

theorem onlyGroup_fences {s t : State} {g : GroupAt} (h : OnlyGroup s t g) : t.fences = s.fences :=
  (congrArg State.fences h.rest :).trans (countIssue_rest s g).2.1

/-- Settles O13: with every line in the L1 and no error met a load reads its lanes' bytes and trains the stride detectors. -/
theorem memoryLoads : Obligations.MemoryLoads := by
  intro g e s s1 s2 b ps x m n hb hi hres hquiet hplaces
  obtain ⟨hro, -⟩ := readsOnly_resolve hres
  obtain ⟨hits, hexec⟩ := execLd_eq hb hi hres hquiet (fun p hp => (hplaces p hp).1) (fun p hp => (hplaces p hp).2.1)
    (fun p hp => (hplaces p hp).2.2)
  rw [hro.group g] at hexec
  have htrain := trains_trainLoad (hitsCounted s2 g.core hits) g e.base.toNat ps
  obtain ⟨hgroup, honly⟩ := finishMem_leaves (trainLoad (hitsCounted s2 g.core hits) g e.base.toNat ps) g
    (memRegs e.dst b (memCount e)) m (loadRegs x e b m (laneBytes s2 n ps)) (Head.size e.h)
  have hmoved : (trainLoad (hitsCounted s2 g.core hits) g e.base.toNat ps).core g.core
      = { s2.core g.core with
        dets := ((trainLoad (hitsCounted s2 g.core hits) g e.base.toNat ps).core g.core).dets
        prefetch := ((trainLoad (hitsCounted s2 g.core hits) g e.base.toNat ps).core g.core).prefetch } := by
    rw [← hitsCounted_core s2 g.core hits]
    exact htrain.core
  refine ⟨_, hexec, ?_⟩
  dsimp only
  refine ⟨?_, ⟨fun k hk => ?_, fun j hj => ?_, ?_, ?_, ?_⟩, ?_, ?_, ?_⟩
  · refine loadRegs_loads (bytes := laneBytes s2 n ps) (fun hn l _ _ => ?_) hgroup
    have := length_laneBytes_le s2 n ps l
    have hn1 : n = b := by rw [← Nat.mul_one b, ← memShapeOk_narrow (ldOk_shape hi.ok) hb hn]
    exact this.trans (by omega)
  · rw [honly.cores k hk, htrain.others k hk, hitsCounted_core]
  · rw [honly.groups j hj, hmoved]
    rfl
  · exact (congrArg Machine.Core.wgs honly.core :).trans (congrArg Machine.Core.wgs hmoved :)
  · exact (congrArg Machine.Core.stores honly.core :).trans (congrArg Machine.Core.stores hmoved :)
  · exact (congrArg Machine.Core.tile honly.core :).trans (congrArg Machine.Core.tile hmoved :)
  · exact (onlyGroup_mem honly).trans (htrain.mem.trans (bumpBy_mem _ _ _ _))
  · exact (onlyGroup_fences honly).trans (htrain.fences.trans (bumpBy_fences _ _ _ _))
  · exact (onlyGroup_queues honly).trans (htrain.queues.trans (bumpBy_queues _ _ _ _))

end Sys2Proof.Proofs

/-! Stores: they leave for their home slices, arrive there, and lines arrive at the L1. -/

namespace Sys2Proof.Proofs

open Sys2Proof.Machine

/-! ### Marks of a line of DRAM while other lines leave the system cache -/

/-- From `s` to `t` no word was marked, and none of line `ln` lost its mark. -/
structure MarksKept (s t : State) (ln : Nat) : Prop where
  old : ∀ w ∈ t.mem.poison, w ∈ s.mem.poison
  line : ∀ w, w / 16 = ln → w ∈ s.mem.poison → w ∈ t.mem.poison

theorem marksKept_of_eq {s t : State} (h : t.mem.poison = s.mem.poison) (ln : Nat) : MarksKept s t ln :=
  ⟨fun _ hw => h ▸ hw, fun _ _ hw => h ▸ hw⟩

theorem marksKept_trans {a b c : State} {ln : Nat} (h : MarksKept a b ln) (k : MarksKept b c ln) : MarksKept a c ln :=
  ⟨fun w hw => h.old w (k.old w hw), fun w hl hw => k.line w hl (h.line w hl hw)⟩

theorem marksKept_filter {s t : State} {ln : Nat} (p : Nat → Bool) (h : t.mem.poison = s.mem.poison.filter p)
    (hp : ∀ w, w / 16 = ln → p w = true) : MarksKept s t ln := by
  refine ⟨fun _ hw => ?_, fun w hl hw => ?_⟩
  · rw [h] at hw
    exact (List.mem_filter.mp hw).1
  · rw [h]
    exact List.mem_filter.mpr ⟨hw, hp w hl⟩

theorem paKind_word {ln w : Nat} (h : paKind (ln * 128) = .dram) (hw : w / 16 = ln) : paKind (w * 8) = .dram := by
  have := paKind_dram_lt h
  exact paKind_dram (by omega)

theorem readMark_dram (s : State) {ln w : Nat} (h : paKind (ln * 128) = .dram) (hw : w / 16 = ln) : readMark s w = false := by
  rw [readMark, paKind_word h hw]

theorem hostWrite_poison (s : State) (p off : Nat) (bs : List Byte) : (hostWrite s p off bs).mem.poison = s.mem.poison := by
  unfold hostWrite
  split <;> rfl

theorem recordError_poison (s : State) (kind unit cls loc : Nat) : (recordError s kind unit cls loc).mem.poison = s.mem.poison := by
  unfold recordError
  extract_lets a s1
  split
  · exact congrArg MemSys.poison (notified_raiseIbi _ _ _).mem
  · rfl

/-- Choosing a victim leaves the memory, and the victim is one of the lines. -/
theorem cacheVictim_drawn (s : State) (full : List CLine) (lru : Bool) : (cacheVictim s full lru).2.mem = s.mem
    ∧ ∀ v, (cacheVictim s full lru).1 = some v → v ∈ full := by
  unfold cacheVictim
  split
  · exact ⟨rfl, fun v hv => List.mem_of_getLast? hv⟩
  · exact ⟨rfl, fun v hv => List.mem_of_getElem? hv⟩

section
variable {ln : Nat} (hln : paKind (ln * 128) = .dram)
include hln

theorem marksKept_metPoison (s : State) : MarksKept s (metPoison s) ln := by
  have hmem : (bump (sawPoison s) 0xFF 0x118).mem = s.mem := bump_mem _ _ _
  refine marksKept_filter (fun w => !readMark s w) (congrArg (fun m : MemSys => m.poison.filter fun w => !readMark s w) hmem)
    fun w hw => ?_
  rw [readMark_dram _ hln hw, Bool.not_false]

theorem marksKept_hostWriteLine (s : State) (p off k : Nat) (bs : List Byte) : MarksKept s (hostWriteLine s p off k bs) ln := by
  unfold hostWriteLine
  extract_lets s1
  have h1 : MarksKept s s1 ln := marksKept_of_eq (hostWrite_poison _ _ _ _) ln
  split
  · exact h1
  · have h2 := marksKept_metPoison hln { s1 with out := s1.out ++ [.poisonedWrite p ((s.port p).winBase + off)] }
    exact ⟨fun w hw => h1.old w (h2.old w hw), fun w hl hw => h2.line w hl (h1.line w hl hw)⟩

theorem marksKept_evictLine (s : State) {e : CLine} (he : e.line ≠ ln) : MarksKept s (evictLine s e) ln := by
  have hother (w : Nat) (hw : w / 16 = ln) : (w / 16 != e.line) = true := by
    rw [hw]
    exact bne_iff_ne.mpr he.symm
  unfold evictLine
  extract_lets m s1
  have h1 : MarksKept s s1 ln := ⟨fun _ h => h, fun _ _ h => h⟩
  split
  · extract_lets s2
    have h2 : MarksKept s1 s2 ln := by
      unfold s2
      split
      · split
        · exact marksKept_hostWriteLine hln _ _ _ _ _
        · exact ⟨fun _ h => h, fun _ _ h => h⟩
      · exact ⟨fun _ h => h, fun _ _ h => h⟩
    clear_value s2
    exact marksKept_trans (marksKept_trans h1 h2) (marksKept_filter (fun w => w / 16 != e.line) rfl hother)
  · split
    · exact h1
    · have h2 := marksKept_trans h1 (marksKept_filter (t := s1.setMem { s1.mem with poison := s1.mem.poison.filter fun w => w / 16 != e.line })
        (fun w => w / 16 != e.line) rfl hother)
      split
      · refine List.foldlRecOn (motive := fun t => MarksKept s t ln) _ _ ⟨h2.old, h2.line⟩ fun t ht _ _ => ?_
        exact marksKept_trans ht (marksKept_of_eq (recordError_poison _ _ _ _ _) ln)
      · exact h2

theorem marksKept_touchLine (s : State) (stream write : Bool) : MarksKept s (touchLine s ln stream write) ln := by
  unfold touchLine
  split
  · exact ⟨fun _ h => h, fun _ _ h => h⟩
  next hmiss =>
    extract_lets mine ws
    split
    · exact ⟨fun _ h => h, fun _ _ h => h⟩
    · have hdraw := cacheVictim_drawn s (mine.filter fun e => ws.contains e.way) (stream && s.cfg.streamWays != 0)
      split
      next s1 hv =>
        rw [hv] at hdraw
        exact marksKept_of_eq (congrArg MemSys.poison hdraw.1) ln
      next v s1 hv =>
        rw [hv] at hdraw
        have hmem : v ∈ s.mem.cache := List.mem_of_mem_filter (List.mem_of_mem_filter (hdraw.2 v rfl))
        have hne : v.line ≠ ln := by simpa using List.find?_eq_none.mp hmiss v hmem
        exact marksKept_trans (marksKept_of_eq (congrArg MemSys.poison hdraw.1) ln)
          (marksKept_trans (marksKept_evictLine hln s1 hne) (⟨fun _ h => h, fun _ _ h => h⟩))

end

/-! ### st -/

/-- The state once a store's lanes have left for their home slices. -/
def storesLeft (s : State) (k : Nat) (new : List PendStore) : State :=
  s.setCore k { s.core k with stores := (s.core k).stores ++ new }

theorem execSt_eq {s s1 s2 : State} {g : GroupAt} {e : EncM} {b : Nat} {ps : List (Nat × Place)} (hb : memBytes e.type = some b)
    (hi : IssuesM s s1 g (e.code 7 1) (stOk e) (baseRegs e ++ memRegs e.data b (memCount e)))
    (hres : resolve s1 (s1.group g).ctx (laneVa e (s1.group g)) (if b < 4 then b else pow2Up (b * memCount e)) true
      (lanesOf ((s1.group g).guard e.h &&& ~~~(s1.group g).helpers)) = .ok (ps, s2))
    (hquiet : e.order = 2 → ∀ p ∈ (s2.core g.core).stores, p.gid = (s1.group g).gid →
      (s1.group g).guard e.h &&& ~~~(s1.group g).helpers &&& p.lanes = 0) {u : State}
    (hu : storesLeft s2 g.core (newStores (s1.group g) ((s2.core g.core).wgAt (s1.group g).wg).cmd e.data b (memCount e) ps) = u) :
    execSt g e s = done (finishMem u g [] ((s1.group g).guard e.h &&& ~~~(s1.group g).helpers) (u.group g) (Head.size e.h)) := by
  have hstays : ¬ (e.order = 2 ∧ pendAny (s2.core g.core) (s1.group g).gid ((s1.group g).guard e.h &&& ~~~(s1.group g).helpers) = true) := by
    rintro ⟨ho, hp⟩
    rw [pendAny_quiet (hquiet ho)] at hp
    cases hp
  unfold execSt
  rw [hb, Option.getD_some]
  dsimp only
  rw [stepMem_go hi, hres]
  dsimp only
  rw [if_neg hstays, ← hu]
  rfl

theorem mem_newStores {x : Group} {cmd : Nat} {r : BitVec 8} {b n : Nat} {ps : List (Nat × Place)} {q : PendStore} :
    q ∈ newStores x cmd r b n ps ↔ ∃ p ∈ ps, (∀ p' ∈ ps, p'.2.pa = p.2.pa → p'.1 ≤ p.1)
      ∧ q = ⟨cmd, x.gid, maskOf fun l => ps.any fun f => f.1 == l && f.2.pa == p.2.pa, p.2.pa, storeBytes x r b n p.1, p.2.cached⟩ := by
  have hhighest (p : Nat × Place) : (ps.any fun f => decide (p.1 < f.1) && f.2.pa == p.2.pa) = false
      ↔ ∀ p' ∈ ps, p'.2.pa = p.2.pa → p'.1 ≤ p.1 := by
    rw [List.any_eq_false]
    refine forall₂_congr fun f _ => ?_
    rw [Bool.and_eq_true, decide_eq_true_eq, beq_iff_eq, not_and']
    exact imp_congr Iff.rfl Nat.not_lt
  rw [newStores, List.mem_filterMap]
  refine exists_congr fun p => and_congr_right fun _ => ?_
  rw [← hhighest p]
  cases hany : ps.any fun f => decide (p.1 < f.1) && f.2.pa == p.2.pa with
  | true => simp
  | false => simp [eq_comm]

theorem st_answers {s s1 s2 : State} {g : GroupAt} {e : EncM} {b : Nat} {ps : List (Nat × Place)} (hb : memBytes e.type = some b)
    (hi : IssuesM s s1 g (e.code 7 1) (stOk e) (baseRegs e ++ memRegs e.data b (memCount e)))
    (hres : resolve s1 (s1.group g).ctx (laneVa e (s1.group g)) (if b < 4 then b else pow2Up (b * memCount e)) true
      (lanesOf ((s1.group g).guard e.h &&& ~~~(s1.group g).helpers)) = .ok (ps, s2))
    (hquiet : e.order = 2 → ∀ p ∈ (s2.core g.core).stores, p.gid = (s1.group g).gid →
      (s1.group g).guard e.h &&& ~~~(s1.group g).helpers &&& p.lanes = 0) :
    Answers (.st g e) s fun t =>
      (t.core g.core).stores = (s2.core g.core).stores ++ newStores (s1.group g) ((s2.core g.core).wgAt (s1.group g).wg).cmd e.data b
        (memCount e) ps
      ∧ t.group g = { s1.group g with pc := (s1.group g).pc + Head.size e.h, promoted := false }
      ∧ (∀ k, k ≠ g.core → t.core k = s2.core k) ∧ (∀ j, j ≠ g.slot → (t.core g.core).group j = (s2.core g.core).group j)
      ∧ t.mem = s2.mem := by
  obtain ⟨hro, -⟩ := readsOnly_resolve hres
  have hexec := execSt_eq hb hi hres hquiet rfl
  generalize newStores (s1.group g) ((s2.core g.core).wgAt (s1.group g).wg).cmd e.data b (memCount e) ps = new at hexec ⊢
  generalize hu : storesLeft s2 g.core new = u at hexec
  have hcore : u.core g.core = { s2.core g.core with stores := (s2.core g.core).stores ++ new } := by
    rw [← hu, storesLeft, State.setCore_core, if_pos rfl]
  have hother (k : Nat) (hk : k ≠ g.core) : u.core k = s2.core k := by
    rw [← hu, storesLeft, State.setCore_core, if_neg hk]
  have hmem : u.mem = s2.mem := by rw [← hu]; rfl
  have hgroup : u.group g = s1.group g := by
    rw [← hro.group g, State.group, hcore]
    rfl
  obtain ⟨hleft, honly⟩ := finishMem_leaves u g [] ((s1.group g).guard e.h &&& ~~~(s1.group g).helpers) (u.group g) (Head.size e.h)
  refine ⟨_, hexec, ?_, ?_, fun k hk => ?_, fun j hj => ?_, (onlyGroup_mem honly).trans hmem⟩
  · rw [honly.core, hcore]
  · rw [hleft, hgroup]
  · rw [honly.cores k hk, hother k hk]
  · rw [honly.groups j hj, hcore]
    rfl

/-! ### A store that arrives -/

theorem invalidateLine_core_eq (s : State) (w : Option Nat) (ln k : Nat) :
    (invalidateLine s w ln).core k = if some k = w then s.core k else (s.core k).dropLine ln :=
  tget_tmap s.cores (fun k c => if some k = w then c else c.dropLine ln) k .reset (ite_self _)

theorem l1Has_dropLine (c : Machine.Core) (ln : Nat) : (c.dropLine ln).l1Has ln = false := by
  rw [Core.l1Has, beq_eq_false_iff_ne]
  intro h
  have hmem := mem_of_tget? h
  have : (ln % 512, ln) ∈ c.l1.filter fun e => e.2 != ln := hmem
  simp at this

theorem l1Has_invalidateLine (s : State) {core j : Nat} (hj : j ≠ core) (ln : Nat) :
    ((invalidateLine s (some core) ln).core j).l1Has ln = false := by
  rw [invalidateLine_core_eq, if_neg fun h => hj (Option.some.inj h), l1Has_dropLine]

/-- The state once a core's store has left its list. -/
def storeTaken (s : State) (core k : Nat) : State := s.setCore core { s.core core with stores := (s.core core).stores.eraseIdx k }

theorem execStoreAck_ready {s : State} {core k : Nat} {p : PendStore} (hp : (s.core core).stores[k]? = some p)
    (hready : storeReady (s.core core) k = true) :
    execStoreAck core k s = done (sliceWrite (storeTaken s core k) (some core) p.cached false p.pa p.data) := by
  unfold execStoreAck
  extract_lets c
  rw [hp]
  dsimp only
  rw [hready, Bool.not_true, if_neg Bool.false_ne_true]
  rfl

theorem storeTaken_stores (s : State) (core k : Nat) : ((storeTaken s core k).core core).stores = (s.core core).stores.eraseIdx k := by
  rw [storeTaken, State.setCore_core, if_pos rfl]

theorem storeTaken_group (s : State) (core k : Nat) (g : GroupAt) : (storeTaken s core k).group g = s.group g := by
  rw [State.group, storeTaken, State.setCore_core]
  split
  next h => rw [State.group, h]; rfl
  next => rfl

theorem mem_clearPoison (m : MemSys) (pa n w : Nat) :
    w ∈ (clearPoison m pa n).poison ↔ w ∈ m.poison ∧ ¬ (pa ≤ 8 * w ∧ 8 * w + 8 ≤ pa + n) := by
  rw [clearPoison]
  dsimp only
  rw [List.mem_filter, Nat.mul_comm w 8]
  refine and_congr_right fun _ => ?_
  rw [Bool.not_eq_true', Bool.and_eq_false_iff, decide_eq_false_iff_not, decide_eq_false_iff_not, not_and_or]

section
variable {u : State} {core : Nat} {cached : Bool} {pa : Nat} {bs : List Byte}

theorem sliceWrite_stores : ((sliceWrite u (some core) cached false pa bs).core core).stores = (u.core core).stores :=
  (congrArg Machine.Core.stores ((writesOnly_sliceWrite u (some core) cached false pa bs).core core) :)

theorem sliceWrite_dram_marks (h : paKind pa = .dram) :
    (∀ w, w / 16 = pa / 128 → (w ∈ (sliceWrite u (some core) cached false pa bs).mem.poison ↔
      w ∈ u.mem.poison ∧ ¬ (pa ≤ 8 * w ∧ 8 * w + 8 ≤ pa + bs.length)))
    ∧ ∀ w ∈ (sliceWrite u (some core) cached false pa bs).mem.poison, w ∈ u.mem.poison := by
  have hline : paKind (pa / 128 * 128) = .dram := by
    have := paKind_dram_lt h
    exact paKind_dram (by omega)
  have hkept := marksKept_touchLine hline u false true
  have hmem (w : Nat) : w ∈ (sliceWrite u (some core) cached false pa bs).mem.poison ↔
      w ∈ (touchLine u (pa / 128) false true).mem.poison ∧ ¬ (pa ≤ 8 * w ∧ 8 * w + 8 ≤ pa + bs.length) := by
    rw [sliceWrite_dram_eq _ _ _ _ _ h, invalidateLine_mem, State.setMem_mem]
    exact mem_clearPoison _ _ _ _
  refine ⟨fun w hw => (hmem w).trans (and_congr_left fun _ => ⟨hkept.old w, hkept.line w hw⟩), fun w hw => hkept.old w ((hmem w).mp hw).1⟩

theorem sliceWrite_dram_quiet (h : paKind pa = .dram) (hheld : Held u (pa / 128)) :
    let t := sliceWrite u (some core) cached false pa bs
    t.mem.host = u.mem.host ∧ t = { u with cores := t.cores, mem := t.mem }
      ∧ ∀ w, w ∈ t.mem.poison ↔ w ∈ u.mem.poison ∧ ¬ (pa ≤ 8 * w ∧ 8 * w + 8 ≤ pa + bs.length) := by
  obtain ⟨l, heq, -⟩ := touchLine_held hheld false true
  dsimp only
  rw [sliceWrite_dram_eq _ _ _ _ _ h, heq]
  exact ⟨rfl, rfl, fun w => mem_clearPoison _ _ _ w⟩

theorem sliceWrite_dram_l1 (h : paKind pa = .dram) {j : Nat} (hj : j ≠ core) :
    ((sliceWrite u (some core) cached false pa bs).core j).l1Has (pa / 128) = false := by
  rw [sliceWrite_dram_eq _ _ _ _ _ h]
  exact l1Has_invalidateLine _ hj _

end

/-! ### A store to a host window -/

section
variable {u : State} {core port off pa : Nat} {bs : List Byte} (h : paKind pa = .host port off) (hup : (u.port port).lost = false)
include h

include hup in
/-- A store through a cached page while its port's link is up: the line is served, and written there where it is held. -/
theorem sliceWrite_host_cached {v : State} (hv : touchLine u (pa / 128) false true = v) :
    sliceWrite u (some core) true false pa bs =
      if inCache v (pa / 128) then invalidateLine ((hostLine v pa).2.setMem { clearPoison (hostLine v pa).2.mem pa bs.length with
          lines := tset (hostLine v pa).2.mem.lines (pa / 128) ⟨putAt (hostLine v pa).1.data (pa % 128) bs, true⟩ }) (some core) (pa / 128)
      else invalidateLine (hostWrite v port off bs) (some core) (pa / 128) := by
  have hlost : (v.port port).lost = false := by
    rw [← hv]
    exact (congrArg Port.lost ((readsOnly_touchLine u (pa / 128) false true).told.port port) :).trans hup
  have hthrough : throughCache u true pa = true := by
    rw [throughCache, h]
    dsimp only
    rw [hup]
    rfl
  rw [sliceWrite, hthrough, if_pos rfl, hv, physWrite1, h]
  dsimp only
  rw [hlost, Bool.not_false, Bool.and_true, Bool.true_and]
  split <;> rfl

include hup in
theorem sliceWrite_host_dram : (sliceWrite u (some core) true false pa bs).mem.dram = u.mem.dram := by
  obtain ⟨v, hv⟩ : ∃ v, touchLine u (pa / 128) false true = v := ⟨_, rfl⟩
  have hdram : v.mem.dram = u.mem.dram := hv ▸ (readsOnly_touchLine u (pa / 128) false true).dram
  rw [sliceWrite_host_cached h hup hv, ← hdram]
  split
  · exact (readsOnly_hostLine v pa).dram
  · exact (readsOnly_hostWrite v port off bs).dram

include hup in
theorem sliceWrite_host_l1 {j : Nat} (hj : j ≠ core) : ((sliceWrite u (some core) true false pa bs).core j).l1Has (pa / 128) = false := by
  rw [sliceWrite_host_cached h hup rfl]
  split <;> exact l1Has_invalidateLine _ hj _

include hup in
theorem sliceWrite_host_held {l : HostLine} (hl : tget? u.mem.lines (pa / 128) = some l) (hheld : Held u (pa / 128)) :
    (sliceWrite u (some core) true false pa bs).mem.host = u.mem.host
      ∧ tget? (sliceWrite u (some core) true false pa bs).mem.lines (pa / 128) = some ⟨putAt l.data (pa % 128) bs, true⟩ := by
  obtain ⟨cs, heq, hkeep⟩ := touchLine_held hheld false true
  have hin : inCache (touchLine u (pa / 128) false true) (pa / 128) = true := by
    obtain ⟨e, he, hln⟩ := (hkeep _).mpr hheld
    exact List.any_eq_true.mpr ⟨e, he, beq_iff_eq.mpr hln⟩
  have hline : hostLine (touchLine u (pa / 128) false true) pa = (l, touchLine u (pa / 128) false true) := by
    have : heldLine (touchLine u (pa / 128) false true) pa = some l := by rw [heq]; exact hl
    rw [hostLine, this]
  rw [sliceWrite_host_cached h hup rfl, if_pos hin, hline]
  refine ⟨by rw [heq]; rfl, ?_⟩
  rw [invalidateLine_mem, State.setMem_mem, tget?_tset, if_pos rfl]

theorem sliceWrite_host_uncached : sliceWrite u (some core) false false pa bs = hostWrite u port off bs := by
  have hthrough : throughCache u false pa = false := by rw [throughCache, h]; rfl
  rw [sliceWrite, hthrough, if_neg Bool.false_ne_true, physWrite1, h]
  rfl

end

section
variable {u : State} {port off : Nat} {bs : List Byte} (hup : (u.port port).lost = false)
include hup

theorem hostWrite_hostMem (q : Nat) : (hostWrite u port off bs).hostMem q = if q = hostSpace u port off
    then (u.hostMem q).write ((u.port port).winBase + off) bs else u.hostMem q := by
  unfold hostWrite
  rw [hup, if_neg Bool.false_ne_true]
  refine (tget_tset _ _ _ _ _).trans ?_
  split
  next hq => rw [hq]
  next => rfl

end

theorem get_write (m : Mem) (a j : Nat) (bs : List Byte) (h : m.wf = true) :
    (m.write a bs).get j = if a ≤ j ∧ j < a + bs.length then byteAt bs (j - a) else m.get j := by
  split
  next hin =>
    have := Mem.get_write_inside m a (j - a) bs h (by omega)
    rwa [Nat.add_sub_cancel' hin.1] at this
  next hout => exact Mem.get_write_outside m a j bs (by omega)

theorem storeAck_dram {s : State} (hs : StateOk s) {core k : Nat} {p : PendStore} (hp : (s.core core).stores[k]? = some p)
    (hready : storeReady (s.core core) k = true) (hkind : paKind p.pa = .dram) :
    Answers (.storeAck core k) s fun t =>
      (t.core core).stores = (s.core core).stores.eraseIdx k
      ∧ (∀ a, t.mem.dram.get a = if p.pa ≤ a ∧ a < p.pa + p.data.length then byteAt p.data (a - p.pa) else s.mem.dram.get a)
      ∧ (∀ j, j ≠ core → (t.core j).l1Has (p.pa / 128) = false)
      ∧ (∀ w, w / 16 = p.pa / 128 → (w ∈ t.mem.poison ↔ w ∈ s.mem.poison ∧ ¬ (p.pa ≤ 8 * w ∧ 8 * w + 8 ≤ p.pa + p.data.length)))
      ∧ (∀ w ∈ t.mem.poison, w ∈ s.mem.poison) ∧ (∀ g, t.group g = s.group g)
      ∧ t.cmds = s.cmds ∧ t.queues = s.queues ∧ t.fences = s.fences
      ∧ ((∃ e ∈ s.mem.cache, e.line = p.pa / 128) → t.mem.host = s.mem.host ∧ t = { s with cores := t.cores, mem := t.mem }
        ∧ ∀ w, w ∈ t.mem.poison ↔ w ∈ s.mem.poison ∧ ¬ (p.pa ≤ 8 * w ∧ 8 * w + 8 ≤ p.pa + p.data.length)) := by
  have hwrites := writesOnly_sliceWrite (storeTaken s core k) (some core) p.cached false p.pa p.data
  obtain ⟨hmarks, hold⟩ := sliceWrite_dram_marks (u := storeTaken s core k) (core := core) (cached := p.cached) (bs := p.data) hkind
  refine ⟨_, execStoreAck_ready hp hready, sliceWrite_stores.trans (storeTaken_stores s core k), fun a => ?_,
    fun j hj => sliceWrite_dram_l1 hkind hj, hmarks, hold, fun g => (hwrites.group g).trans (storeTaken_group s core k g),
    hwrites.cmds, hwrites.queues, hwrites.fences, fun hheld => ?_⟩
  · rw [sliceWrite_dram _ _ _ _ _ (paKind_dram_lt hkind)]
    exact get_write _ _ _ _ hs.dram
  · obtain ⟨hhost, hrest, hpoison⟩ := sliceWrite_dram_quiet (u := storeTaken s core k) (core := core) (cached := p.cached) (bs := p.data)
      hkind hheld
    exact ⟨hhost, hrest, hpoison⟩

/-! ### A line that arrives at the L1 -/

theorem writesOnly_dirMake (s : State) (ln : Nat) : WritesOnly s (dirMake s ln) := by
  unfold dirMake
  extract_lets all
  split
  · exact .refl s
  · split
    · exact .refl s
    · have hdraw : WritesOnly s (drawFree s).2 := ⟨rfl, fun _ => rfl, .of_eq rfl rfl rfl⟩
      split
      next x s1 heq =>
        rw [heq] at hdraw
        split
        · exact hdraw.trans (writesOnly_invalidateLine _ _ _)
        · exact hdraw

theorem dirMake_mem (s : State) (ln : Nat) : (dirMake s ln).mem = s.mem := by
  unfold dirMake
  extract_lets all
  split
  · rfl
  · split
    · rfl
    · have hdraw : (drawFree s).2.mem = s.mem := rfl
      split
      next x s1 heq =>
        rw [heq] at hdraw
        split <;> exact hdraw

/-- The state to which a fill's line comes: a prefetch has read its line, and the directory has made room. -/
def fillReady (s : State) (prefetch : Bool) (f : Fill) : State :=
  if f.dropped then (if prefetch then sliceRead s true f.line else s)
  else dirMake (if prefetch then sliceRead s true f.line else s) f.line

/-- A group waits for a bank that a demand fill serves. -/
def heldBy (prefetch : Bool) (bank : Nat) (x : Group) : Bool :=
  match x.wait with
  | .bank b _ => b == bank && !prefetch
  | _ => false

/-- A group that waits for the bank goes on. -/
def released (prefetch : Bool) (bank : Nat) (x : Group) : Group := if heldBy prefetch bank x then { x with wait := .none } else x

/-- A core with a fill's line installed, its buffer free and the groups of the bank gone on. -/
def filled (c : Machine.Core) (bank : Nat) (prefetch : Bool) (f : Fill) : Machine.Core :=
  { c with
    l1 := if f.dropped then c.l1 else tset c.l1 (f.line % 512) f.line
    prefetch := if prefetch then tdrop c.prefetch (· == bank) else c.prefetch
    demand := if prefetch then c.demand else tdrop c.demand (· == bank)
    groups := tmap c.groups fun _ x => released prefetch bank x }

theorem execL1Fill_eq {s : State} {core bank : Nat} {prefetch : Bool} {f : Fill}
    (hf : tget? (if prefetch then (s.core core).prefetch else (s.core core).demand) bank = some f) :
    ∃ n, execL1Fill core bank prefetch s = done (bumpBy ((fillReady s prefetch f).setCore core
      (filled ((fillReady s prefetch f).core core) bank prefetch f)) core 0x130 n) := by
  refine ⟨(((fillReady s prefetch f).core core).groups.filter fun e => heldBy prefetch bank e.2).length, ?_⟩
  unfold execL1Fill
  rw [hf]
  dsimp -zeta only
  extract_lets sr v c c1 c2 held c3
  have hv : v = fillReady s prefetch f := rfl
  rw [← hv]
  clear_value v
  have hheld : held = heldBy prefetch bank := rfl
  have hc3 : c3 = filled c bank prefetch f := by
    unfold filled c3 c2 c1
    rw [hheld]
    cases prefetch <;> cases f.dropped <;> rfl
  have hgroups : c2.groups = c.groups := by
    unfold c2 c1
    cases prefetch <;> cases f.dropped <;> rfl
  rw [hc3, hgroups, hheld]

theorem fillReady_writes (s : State) (prefetch : Bool) (f : Fill) : WritesOnly s (fillReady s prefetch f) := by
  have hread : WritesOnly s (if prefetch then sliceRead s true f.line else s) := by
    split
    · exact (readsOnly_sliceRead _ _ _).writesOnly
    · exact .refl s
  unfold fillReady
  split
  · exact hread
  · exact hread.trans (writesOnly_dirMake _ _)

theorem fillReady_mem (s : State) (f : Fill) : (fillReady s false f).mem = s.mem := by
  unfold fillReady
  split
  · rfl
  · exact dirMake_mem _ _

theorem fillReady_dram (s : State) (prefetch : Bool) (f : Fill) : (fillReady s prefetch f).mem.dram = s.mem.dram := by
  have hread : (if prefetch then sliceRead s true f.line else s).mem.dram = s.mem.dram := by
    split
    · exact (readsOnly_sliceRead _ _ _).dram
    · rfl
  unfold fillReady
  split
  · exact hread
  · exact (congrArg MemSys.dram (dirMake_mem _ _)).trans hread

theorem fillReady_dropped {s : State} {f : Fill} (h : f.dropped = true) (prefetch : Bool) (k : Nat) :
    (fillReady s prefetch f).core k = s.core k := by
  rw [fillReady, if_pos h]
  split
  · exact (readsOnly_sliceRead _ _ _).core k
  · rfl

theorem filled_group (c : Machine.Core) (bank : Nat) (prefetch : Bool) (f : Fill) (j : Nat) :
    (filled c bank prefetch f).group j = released prefetch bank (c.group j) :=
  tget_tmap c.groups (fun _ x => released prefetch bank x) j .empty rfl

theorem released_wait (prefetch : Bool) (bank : Nat) (x : Group) {b ln : Nat} (h : (released prefetch bank x).wait = .bank b ln) :
    b ≠ bank ∨ prefetch = true := by
  unfold released at h
  split at h
  · cases h
  next hheld =>
    cases prefetch with
    | true => exact .inr rfl
    | false =>
      refine .inl fun hb => hheld ?_
      rw [heldBy, h, hb]
      simp

theorem released_rest (prefetch : Bool) (bank : Nat) (x : Group) :
    (released prefetch bank x).vregs = x.vregs ∧ (released prefetch bank x).pc = x.pc := by
  unfold released
  split <;> exact ⟨rfl, rfl⟩

theorem l1Fill_answers {s : State} {core bank : Nat} {prefetch : Bool} {f : Fill}
    (hf : tget? (if prefetch then (s.core core).prefetch else (s.core core).demand) bank = some f) :
    Answers (.l1Fill core bank prefetch) s fun t =>
      (f.dropped = false → (t.core core).l1Has f.line = true) ∧ (f.dropped = true → (t.core core).l1 = (s.core core).l1)
      ∧ tget? (if prefetch then (t.core core).prefetch else (t.core core).demand) bank = none
      ∧ (∀ j b ln, (t.group (slotAt core j)).wait = .bank b ln → b ≠ bank ∨ prefetch = true)
      ∧ (∀ g, (t.group g).vregs = (s.group g).vregs ∧ (t.group g).pc = (s.group g).pc)
      ∧ t.mem.dram = s.mem.dram ∧ t.fences = s.fences ∧ t.queues = s.queues ∧ t.cmds = s.cmds
      ∧ (prefetch = false → t.mem = s.mem) := by
  obtain ⟨n, hexec⟩ := execL1Fill_eq hf
  generalize hv : fillReady s prefetch f = v at hexec
  have hwrites : WritesOnly s v := hv ▸ fillReady_writes s prefetch f
  have hcore (k : Nat) : (bumpBy (v.setCore core (filled (v.core core) bank prefetch f)) core 0x130 n).core k
      = if k = core then filled (v.core core) bank prefetch f else v.core k := by
    rw [State.core, bumpBy_cores]
    exact State.setCore_core _ _ _ _
  have hmine := (hcore core).trans (if_pos rfl)
  refine ⟨_, hexec, fun hd => ?_, fun hd => ?_, ?_, fun j b ln hw => ?_, fun g => ?_, ?_, ?_, ?_, ?_, fun hp => ?_⟩
  · rw [hmine, Core.l1Has, filled, hd]
    simp
  · rw [hmine, filled, hd, ← hv, fillReady_dropped hd]
    rfl
  · rw [hmine, filled]
    cases prefetch <;> simp
  · refine released_wait prefetch bank (s.group (slotAt core j)) (b := b) (ln := ln) ?_
    rw [← hwrites.group, ← hw, State.group, State.group, hcore, if_pos (by rfl)]
    exact congrArg Group.wait (filled_group _ _ _ _ _).symm
  · rw [← hwrites.group g, State.group, State.group, hcore]
    split
    next hg =>
      rw [filled_group, ← hg]
      exact released_rest _ _ _
    next => exact ⟨rfl, rfl⟩
  · rw [bumpBy_mem, ← fillReady_dram s prefetch f, hv]
    rfl
  · rw [bumpBy_fences, ← hwrites.fences]
    rfl
  · rw [bumpBy_queues, ← hwrites.queues]
    rfl
  · rw [bumpBy_cmds, ← hwrites.cmds]
    rfl
  · subst hp
    rw [bumpBy_mem, ← fillReady_mem s f, hv]
    rfl

/-- Settles O14: a store leaves one entry for each place, and an entry that arrives is one write at its home slice, for which
another line may leave the system cache but not the line itself. A fill installs its line after the directory has made room. -/
theorem memoryStores : Obligations.MemoryStores := by
  refine ⟨fun g e s s1 s2 b ps => ?_, fun core k bank prefetch s hs => ⟨fun p hp hready hkind => ?_,
    fun p port off hp hready hkind hup => ⟨fun hc => ?_, fun hc => ?_⟩, fun f hf => l1Fill_answers hf⟩⟩
  · intro x m n c hb hi hres hquiet
    obtain ⟨t, hexec, hstores, hgroup, hcores, hgroups, hmem⟩ := st_answers hb hi hres hquiet
    exact ⟨t, hexec, _, hstores, fun q => mem_newStores, hgroup, hcores, hgroups, hmem⟩
  · exact storeAck_dram hs hp hready hkind
  · have hexec := execStoreAck_ready hp hready
    rw [hc] at hexec
    exact ⟨_, hexec, sliceWrite_stores.trans (storeTaken_stores s core k), sliceWrite_host_dram hkind hup,
      fun j hj => sliceWrite_host_l1 (u := storeTaken s core k) hkind hup hj,
      fun l hl hheld => sliceWrite_host_held (u := storeTaken s core k) hkind hup hl hheld⟩
  · have hexec := execStoreAck_ready hp hready
    rw [hc, sliceWrite_host_uncached hkind] at hexec
    have hmems := hostWrite_hostMem (u := storeTaken s core k) (off := off) (bs := p.data) hup
    refine ⟨_, hexec, ?_, fun a => ?_, ?_, fun q hq => ?_⟩
    · refine (congrArg Machine.Core.stores ?_ : _).trans (storeTaken_stores s core k)
      exact (readsOnly_hostWrite (storeTaken s core k) port off p.data).core core
    · rw [hmems]
      refine (congrArg (fun m : Mem => m.get a) (if_pos rfl)).trans ?_
      exact get_write _ _ _ _ (hs.host _)
    · exact (readsOnly_hostWrite (storeTaken s core k) port off p.data).dram
    · rw [hmems]
      exact if_neg hq

end Sys2Proof.Proofs

/-! Texture reads, and tile data of fragment programs: tex, tld and tst. -/

namespace Sys2Proof.Proofs

open Sys2Proof.Machine

/-! ### tex -/

theorem readsOnly_residentAll {s t : State} {c : Nat} {d : TexDesc} {ps : List Texel} {b : Bool}
    (h : residentAll s c d ps = .ok (b, t)) : ReadsOnly s t := by
  induction ps generalizing s t b with
  | nil => cases h; exact .refl s
  | cons p r ih =>
    unfold residentAll at h
    split at h
    · cases h; exact .refl s
    · dsimp only at h
      split at h
      · cases h
      next bs s1 hread =>
        split at h
        · cases h
        next hrest =>
          cases h
          exact (readsOnly_vread hread).trans (ih hrest)

theorem readsOnly_readTexels {s t : State} {c : Nat} {d : TexDesc} {ps : List Texel} {cs : List (Texel × List Nat)}
    (h : readTexels s c d ps = .ok (cs, t)) : ReadsOnly s t := by
  induction ps generalizing s t cs with
  | nil => cases h; exact .refl s
  | cons p r ih =>
    unfold readTexels at h
    split at h
    · cases h
    next hread =>
      split at h
      · cases h
      next hrest =>
        cases h
        exact (readsOnly_vread hread).trans (ih hrest)

theorem readsOnly_sampleTexels {s t : State} {c : Nat} {d : TexDesc} {border : List Nat} {ps : List Texel} {n : Nat}
    {f : (Option Texel → List Nat) → List Nat} {o : TexOut} (h : sampleTexels s c d border ps n f = .ok (o, t)) : ReadsOnly s t := by
  unfold sampleTexels at h
  split at h
  · cases h
  next hres => cases h; exact readsOnly_residentAll hres
  next hres =>
    split at h
    · cases h
    next hread =>
      cases h
      exact (readsOnly_residentAll hres).trans (readsOnly_readTexels hread)

theorem readsOnly_texOne {s t : State} {x : Group} {e : EncS} {d : TexDesc} {sm : SampDesc} {l : Nat} {o : TexOut}
    (h : texOne s x e d sm l = .ok (o, t)) : ReadsOnly s t := by
  unfold texOne at h
  extract_lets off chans n cs words v cmp border k ps lod p at h
  split at h
  · split at h
    · cases h; exact .refl s
    · exact readsOnly_sampleTexels h
  · split at h
    · split at h
      · cases h; exact .refl s
      · exact readsOnly_sampleTexels h
    · split at h
      · split at h <;> (cases h; exact .refl s)
      · split at h
        · cases h; exact .refl s
        · exact readsOnly_sampleTexels h

theorem readsOnly_texLanes {s t : State} {x : Group} {e : EncS} {d : TexDesc} {sm : SampDesc} {ls : List Nat} {os : List (Nat × TexOut)}
    (h : texLanes s x e d sm ls = .ok (os, t)) : ReadsOnly s t := by
  induction ls generalizing s t os with
  | nil => cases h; exact .refl s
  | cons l r ih =>
    unfold texLanes at h
    split at h
    · cases h
    next hone =>
      split at h
      · cases h
      next hrest =>
        cases h
        exact (readsOnly_texOne hone).trans (ih hrest)

theorem readsOnly_texDescs {s t : State} {c : Nat} {e : EncS} {desc : Nat} {d : TexDesc} {sm : SampDesc}
    (h : texDescs s c e desc = .ok (d, sm, t)) : ReadsOnly s t := by
  unfold texDescs at h
  dsimp only at h
  split at h
  · cases h
  split at h
  · cases h
  next hread =>
    split at h
    · split at h
      · cases h; exact readsOnly_vread hread
      · cases h
    · split at h
      · cases h
      next hread2 =>
        split at h
        · cases h; exact (readsOnly_vread hread).trans (readsOnly_vread hread2)
        · cases h

/-- The registers named from `r` on. -/
def regsFrom (r : BitVec 8) (n : Nat) : List Nat := (List.range n).map (r.toNat + ·)

/-- What a lane gets of a tex. -/
def texOut (os : List (Nat × TexOut)) (l : Nat) : TexOut := tget os l ⟨[], false, false⟩

/-- A tex writes the channels of its acting lanes and, with RES, their residency. -/
structure TexWritten (x y : Group) (e : EncS) (m : Mask) (os : List (Nat × TexOut)) : Prop where
  vreg : ∀ r l, l < 32 → (y.vget r l).toNat = if inMask m l = true ∧ e.dst.toNat ≤ r ∧ r < e.dst.toNat + texNDst e
    then (texOut os l).words.getD (r - e.dst.toNat) 0 % 2 ^ 32 else (x.vget r l).toNat
  pred : ∀ p l, l < 32 → inMask (y.pget p) l =
    if e.res = true ∧ p = e.rp.toNat ∧ p ≠ 7 ∧ inMask m l = true then (texOut os l).res else inMask (x.pget p) l
  rest : y = { x with vregs := y.vregs, preds := y.preds }

/-- The group with a tex's channels in its registers. -/
def texChannels (x : Group) (e : EncS) (m : Mask) (os : List (Nat × TexOut)) : Group :=
  (List.range (texNDst e)).foldl (fun y i => y.vset (e.dst.toNat + i) m fun l => BitVec.ofNat 32 ((texOut os l).words.getD i 0)) x

theorem texWrite_writes (x : Group) (e : EncS) (m : Mask) (os : List (Nat × TexOut)) : TexWritten x (texWrite x e m os) e m os := by
  have hrest : texChannels x e m os = { x with vregs := (texChannels x e m os).vregs } :=
    foldl_vset_rest x e.dst.toNat m (fun i l => BitVec.ofNat 32 ((texOut os l).words.getD i 0)) _
  have hpget (p : Nat) : (texChannels x e m os).pget p = x.pget p := by
    rw [hrest]
    rfl
  have hvget (r l : Nat) (hl : l < 32) : ((texChannels x e m os).vget r l).toNat =
      if inMask m l = true ∧ e.dst.toNat ≤ r ∧ r < e.dst.toNat + texNDst e
      then (texOut os l).words.getD (r - e.dst.toNat) 0 % 2 ^ 32 else (x.vget r l).toNat := by
    rw [texChannels, vget_foldl_vset x e.dst.toNat m (fun i l => BitVec.ofNat 32 ((texOut os l).words.getD i 0)) _ hl]
    split
    · exact BitVec.toNat_ofNat _ _
    · rfl
  have hwrite : texWrite x e m os = if e.res then (texChannels x e m os).pset e.rp.toNat m (maskOf fun l => (texOut os l).res)
      else texChannels x e m os := rfl
  rw [hwrite]
  cases hres : e.res with
  | false =>
    rw [if_neg Bool.false_ne_true]
    refine ⟨hvget, fun p l _ => ?_, ?_⟩
    · rw [hpget, if_neg fun h => by rw [hres] at h; exact Bool.false_ne_true h.1]
    · rw [hrest]
  | true =>
    rw [if_pos rfl]
    refine ⟨fun r l hl => by rw [pset_vget, hvget r l hl], fun p l hl => ?_, ?_⟩
    · rw [inMask_pget_pset _ _ _ _ _ _ hl, inMask_maskOf _ hl, hpget, hres]
      simp
    · rw [pset_eq, hrest]

section
variable {s s1 s2 s3 : State} {g : GroupAt} {e : EncS} {t : TexDesc} {d : SampDesc} {os : List (Nat × TexOut)}
  (hi : IssuesM s s1 g e.code (texOk e (groupProg s g)) (regsFrom e.coord (texNCoord e) ++ regsFrom e.extra (texNExtra e false)
    ++ regsFrom e.dst (texNDst e)))
include hi

theorem execTex_off (hm : (s1.group g).guard e.h = 0) :
    execTex g e s = done (finishMem s1 g [] ((s1.group g).guard e.h) (s1.group g) (Head.size e.h)) := by
  unfold execTex
  extract_lets regs dst rd
  have hregs : rd ++ dst = regsFrom e.coord (texNCoord e) ++ regsFrom e.extra (texNExtra e false) ++ regsFrom e.dst (texNDst e) := rfl
  rw [hregs, stepMem_go hi]
  dsimp only
  rw [if_pos hm]

/-- The state with the lanes of a tex counted, which a query of the level of detail leaves out. -/
def texCounted (s : State) (g : GroupAt) (e : EncS) (os : List (Nat × TexOut)) : State :=
  if e.mode = 6 then s else bumpBy (bumpBy s (uRaster g.core) 0x130 os.length) (uRaster g.core) 0x138 (os.filter fun o => o.2.missed).length

theorem execTex_eq (hm : (s1.group g).guard e.h ≠ 0)
    (hquiet : ∀ p ∈ (s1.core g.core).stores, p.gid = (s1.group g).gid → (s1.group g).guard e.h &&& p.lanes = 0)
    (hdesc : texDescs s1 (s1.group g).ctx e ((s1.group g).uget e.desc.toNat).toNat = .ok (t, d, s2))
    (hextra : texNExtra e d.compares = 0 → e.extra = 0)
    (hrange : ∀ r ∈ regsFrom e.extra (texNExtra e d.compares), r < (groupProg s1 g).regs)
    (hlanes : texLanes s2 (s1.group g) e t d (lanesOf ((s1.group g).guard e.h)) = .ok (os, s3)) :
    execTex g e s = done (finishMem (texCounted s3 g e os) g (regsFrom e.dst (texNDst e)) ((s1.group g).guard e.h)
      (texWrite ((texCounted s3 g e os).group g) e ((s1.group g).guard e.h) os) (Head.size e.h)) := by
  have hro := readsOnly_texDescs hdesc
  have hprog : groupProg s2 g = groupProg s1 g := by
    rw [groupProg, groupProg, hro.core, hro.group]
  have hall : ((regsFrom e.extra (texNExtra e d.compares)).all fun r => decide (r < (groupProg s1 g).regs)) = true :=
    List.all_eq_true.mpr fun r hr => decide_eq_true (hrange r hr)
  have hread : badRead (s2.core g.core) g.slot (regsFrom e.extra (texNExtra e d.compares)) ((s1.group g).guard e.h) = false := by
    rw [hro.core, badRead, hi.badReg]
    rfl
  have hgood : ¬ (texNExtra e d.compares = 0 ∧ e.extra ≠ 0) := fun h => h.2 (hextra h.1)
  unfold execTex
  extract_lets regs dst rd
  have hregs : rd ++ dst = regsFrom e.coord (texNCoord e) ++ regsFrom e.extra (texNExtra e false) ++ regsFrom e.dst (texNDst e) := rfl
  have hrd2 : regs e.extra (texNExtra e d.compares) = regsFrom e.extra (texNExtra e d.compares) := rfl
  rw [hregs, stepMem_go hi]
  dsimp only
  rw [if_neg hm, pendAny_quiet hquiet, if_neg Bool.false_ne_true, hdesc]
  dsimp only
  rw [hrd2, if_neg hgood, hprog, hall, Bool.not_true, if_neg Bool.false_ne_true, hread, if_neg Bool.false_ne_true, hlanes]
  rfl

end

theorem texCounted_rest (s : State) (g : GroupAt) (e : EncS) (os : List (Nat × TexOut)) :
    (texCounted s g e os).mem = s.mem ∧ ∀ k, (texCounted s g e os).core k = s.core k := by
  unfold texCounted
  split
  · exact ⟨rfl, fun _ => rfl⟩
  · refine ⟨by rw [bumpBy_mem, bumpBy_mem], fun k => ?_⟩
    rw [State.core, bumpBy_cores, bumpBy_cores]
    rfl

/-! ### Instructions on a render tile -/

section
variable {s s1 : State} {g : GroupAt} {e : EncR} {op : Nat} {sh : RShape} {ok : Prog → Bool} {regs : List Nat} {isRef needs idle : Bool}
  {k : State → Group → RasterRun → RenderPass → State} {run : RasterRun} {r : RenderPass}

/-- An instruction on a tile whose references are there, with nothing to wait for at its pixels and no word in error. -/
theorem stepTile_go (hissue : issueCheck s g (e.code 0xD op) = .go s1) (htile : tileOf s1 g = some (run, r))
    (hreg : (s1.core g.core).badReg = []) (hbad : (s1.core g.core).badTile = [])
    (hcheck : checkR sh (ok (groupProg s1 g)) e (groupProg s1 g) = none) (hregs : ∀ q ∈ regs, q < (groupProg s1 g).regs)
    (href : isRef = true → ∀ l ∈ lanesOf (if idle then (s1.group g).guard e.h &&& ~~~(s1.group g).helpers else (s1.group g).guard e.h),
      badTileRef r ((s1.core g.core).wgAt (s1.group g).wg).idY e.mod.toNat (valB sh e (s1.group g) l) = false)
    (hfree : needs = true → ∀ l ∈ lanesOf (if idle then (s1.group g).guard e.h &&& ~~~(s1.group g).helpers else (s1.group g).guard e.h),
      ∀ f, tget? (s1.group g).frags l = some f → earlierCovers run f.x f.y f.prim = false) :
    stepTile s g op e sh ok regs isRef needs idle k = k s1 (s1.group g) run r := by
  have hall : (regs.all fun q => decide (q < (groupProg s1 g).regs)) = true := List.all_eq_true.mpr fun q hq => decide_eq_true (hregs q hq)
  have hread (m : Mask) : badRead (s1.core g.core) g.slot (readsR sh e) m = false := by
    rw [badRead, hreg]
    rfl
  have hsample (pl : Nat × Attach) (x y : Nat) : sampleBad (s1.core g.core) r pl x y = false := by
    rw [sampleBad, hbad]
    rfl
  unfold stepTile
  rw [inCycle_ready _ _ _ (issueCheck_ready _ _ _ _ hissue), hissue]
  dsimp only
  rw [hcheck]
  dsimp only
  rw [hall, Bool.not_true, if_neg Bool.false_ne_true, hread, if_neg Bool.false_ne_true, htile]
  dsimp only
  rw [if_neg, if_neg, if_neg]
  · rw [Bool.and_eq_true, List.any_eq_true]
    rintro ⟨-, l, -, hl⟩
    cases hf : tget? (s1.group g).frags l with
    | none => rw [hf] at hl; cases hl
    | some f =>
      rw [hf] at hl
      dsimp only at hl
      cases hat : r.attachAt e.mod.toNat with
      | none => rw [hat] at hl; cases hl
      | some pl => rw [hat, Option.any_some, hsample] at hl; cases hl
  · rw [Bool.and_eq_true, List.any_eq_true]
    rintro ⟨hn, l, hmem, hl⟩
    cases hf : tget? (s1.group g).frags l with
    | none => rw [hf] at hl; cases hl
    | some f =>
      rw [hf] at hl
      dsimp only at hl
      rw [hfree hn l hmem f hf] at hl
      cases hl
  · rw [Bool.and_eq_true, List.any_eq_true]
    rintro ⟨hr, l, hmem, hl⟩
    rw [href hr l hmem] at hl
    cases hl

end

/-! ### tld -/

/-- Component `i` of what a tld reads in a lane, 0 where the lane has no fragment. -/
def tldLane (c : Machine.Core) (x : Group) (e : EncR) (run : RasterRun) (r : RenderPass) (i l : Nat) : Word :=
  match tget? x.frags l with
  | some f => BitVec.ofNat 32 (tldValue c run r f e.mod.toNat (valB (shTld e) e x l) i)
  | none => 0

/-- The group with what a tld reads in its registers. -/
def tldRegs (c : Machine.Core) (x : Group) (e : EncR) (run : RasterRun) (r : RenderPass) : Group :=
  (List.range (tileComps e.mod.toNat)).foldl (fun y i => y.vset (e.dst.toNat + i) (x.guard e.h) (tldLane c x e run r i)) x

theorem tldRegs_vget (c : Machine.Core) (x : Group) (e : EncR) (run : RasterRun) (r : RenderPass) {q l : Nat} (hl : l < 32) :
    (tldRegs c x e run r).vget q l =
      if inMask (x.guard e.h) l = true ∧ e.dst.toNat ≤ q ∧ q < e.dst.toNat + tileComps e.mod.toNat
      then tldLane c x e run r (q - e.dst.toNat) l else x.vget q l :=
  vget_foldl_vset x e.dst.toNat (x.guard e.h) (tldLane c x e run r) _ hl

theorem tldRegs_rest (c : Machine.Core) (x : Group) (e : EncR) (run : RasterRun) (r : RenderPass) :
    tldRegs c x e run r = { x with vregs := (tldRegs c x e run r).vregs } :=
  foldl_vset_rest x e.dst.toNat (x.guard e.h) (tldLane c x e run r) _

theorem tld_answers {s s1 : State} {g : GroupAt} {e : EncR} {run : RasterRun} {r : RenderPass}
    (hissue : issueCheck s g (e.code 0xD 0) = .go s1) (htile : tileOf s1 g = some (run, r))
    (hreg : (s1.core g.core).badReg = []) (hbad : (s1.core g.core).badTile = [])
    (hcheck : checkR (shTld e) (tldOk e (groupProg s1 g)) e (groupProg s1 g) = none)
    (hregs : e.dst.toNat + tileComps e.mod.toNat ≤ (groupProg s1 g).regs)
    (href : ∀ l, l < 32 → inMask ((s1.group g).guard e.h) l = true →
      badTileRef r ((s1.core g.core).wgAt (s1.group g).wg).idY e.mod.toNat (valB (shTld e) e (s1.group g) l) = false)
    (hfree : ∀ l f, l < 32 → inMask ((s1.group g).guard e.h) l = true → e.mod.toNat ≤ 9 → tget? (s1.group g).frags l = some f →
      earlierCovers run f.x f.y f.prim = false) :
    Answers (.tld g e) s fun t =>
      t.group g = { tldRegs (s1.core g.core) (s1.group g) e run r with pc := (s1.group g).pc + Head.size e.h, promoted := false }
      ∧ OnlyGroup s1 t g := by
  have hdst : ∀ q ∈ (List.range (tileComps e.mod.toNat)).map (e.dst.toNat + ·), q < (groupProg s1 g).regs := by
    intro q hq
    obtain ⟨i, hi, rfl⟩ := List.mem_map.mp hq
    have := List.mem_range.mp hi
    omega
  have hexec : execTld g e s = done (finishMem s1 g ((List.range (tileComps e.mod.toNat)).map (e.dst.toNat + ·)) ((s1.group g).guard e.h)
      (tldRegs (s1.core g.core) (s1.group g) e run r) (Head.size e.h)) := by
    unfold execTld
    extract_lets src sh dst
    rw [stepTile_go (idle := false) hissue htile hreg hbad hcheck hdst (fun _ l hl => href l (mem_lanesOf.mp hl).1 (mem_lanesOf.mp hl).2)
      (fun hn l hl f hf => hfree l f (mem_lanesOf.mp hl).1 (mem_lanesOf.mp hl).2 (of_decide_eq_true hn) hf)]
    rfl
  obtain ⟨hgroup, honly⟩ := finishMem_leaves s1 g ((List.range (tileComps e.mod.toNat)).map (e.dst.toNat + ·))
    ((s1.group g).guard e.h) (tldRegs (s1.core g.core) (s1.group g) e run r) (Head.size e.h)
  refine ⟨_, hexec, hgroup.trans ?_, honly⟩
  rw [tldRegs_rest]

/-! ### tst -/

theorem tget?_foldl_tset {α : Type} (f : Nat → α) (b : Nat) (o : Tbl α) (n k : Nat) :
    tget? ((List.range n).foldl (fun t i => tset t (b + i) (f i)) o) k = if b ≤ k ∧ k < b + n then some (f (k - b)) else tget? o k := by
  induction n with
  | zero => exact (if_neg (by omega)).symm
  | succ n ih =>
    rw [List.range_succ, List.foldl_concat, tget?_tset, ih]
    by_cases hk : k = b + n
    · rw [if_pos hk, if_pos (by omega), hk, Nat.add_sub_cancel_left]
    · rw [if_neg hk]
      exact if_congr (by omega) rfl rfl

/-- Whether recording an output of a lane and a source drops what key `k` holds. -/
def outReplaced (l src k : Nat) : Bool := decide (k / 1024 = l) &&
  (let t := k % 1024 / 8
   t == src || (decide (src < 8) && decide (16 + src * 8 ≤ t ∧ t < 24 + src * 8)))

theorem recordOut_eq (o : FragOut) (l src n : Nat) (f : Nat → Word) : recordOut o l src false 0 ((List.range n).map f)
    = (List.range n).foldl (fun t i => tset t (l * 1024 + src * 8 + i) (f i)) (tdrop o (outReplaced l src)) := by
  unfold recordOut
  extract_lets slot gone
  have hgone : gone = outReplaced l src := rfl
  have hslot : slot = src := rfl
  rw [hgone, hslot, List.length_map, List.length_range, ← List.map_prod_left_eq_zip, List.foldl_map]

theorem tget?_recordOut_own (o : FragOut) (l src n : Nat) (f : Nat → Word) {i : Nat} (hi : i < n) :
    tget? (recordOut o l src false 0 ((List.range n).map f)) (l * 1024 + src * 8 + i) = some (f i) := by
  rw [recordOut_eq, tget?_foldl_tset, if_pos (by omega), Nat.add_sub_cancel_left]

theorem tget?_recordOut_other (o : FragOut) {l src n : Nat} (hfit : src * 8 + n ≤ 1024) (f : Nat → Word) {k : Nat} (hk : k / 1024 ≠ l) :
    tget? (recordOut o l src false 0 ((List.range n).map f)) k = tget? o k := by
  rw [recordOut_eq, tget?_foldl_tset, if_neg (by omega), tget?_tdrop, if_neg]
  rw [outReplaced, decide_eq_false hk]
  exact Bool.false_ne_true

/-- The outputs of the lanes of a tst, one lane after another. -/
def lanesOut (e : EncR) (x : Group) (ls : List Nat) (o : FragOut) : FragOut :=
  ls.foldl (fun o l => recordOut o l e.mod.toNat false 0 ((List.range (tileComps e.mod.toNat)).map (tstValue e x l))) o

section
variable {e : EncR} {x : Group} (hfit : e.mod.toNat * 8 + tileComps e.mod.toNat ≤ 1024)
include hfit

theorem tget?_lanesOut_other {ls : List Nat} {o : FragOut} {k : Nat} (hk : k / 1024 ∉ ls) : tget? (lanesOut e x ls o) k = tget? o k := by
  induction ls generalizing o with
  | nil => rfl
  | cons l ls ih =>
    rw [List.mem_cons, not_or] at hk
    exact (ih hk.2).trans (tget?_recordOut_other o hfit _ hk.1)

theorem tget?_lanesOut_own {ls : List Nat} (hnd : ls.Nodup) {o : FragOut} {l i : Nat} (hl : l ∈ ls) (hi : i < tileComps e.mod.toNat) :
    tget? (lanesOut e x ls o) (l * 1024 + e.mod.toNat * 8 + i) = some (tstValue e x l i) := by
  have hlane : (l * 1024 + e.mod.toNat * 8 + i) / 1024 = l := by omega
  induction ls generalizing o with
  | nil => cases hl
  | cons j ls ih =>
    obtain ⟨hj, hnd⟩ := List.nodup_cons.mp hnd
    rcases List.mem_cons.mp hl with rfl | hl
    · have hcons : lanesOut e x (l :: ls) o = lanesOut e x ls (recordOut o l e.mod.toNat false 0
          ((List.range (tileComps e.mod.toNat)).map (tstValue e x l))) := rfl
      rw [hcons, tget?_lanesOut_other hfit (by rw [hlane]; exact hj)]
      exact tget?_recordOut_own _ _ _ _ _ hi
    · exact ih hnd hl

end

theorem tile_fits (m : BitVec 4) : m.toNat * 8 + tileComps m.toNat ≤ 1024 := by
  have := m.isLt
  have : tileComps m.toNat ≤ 4 := by
    rw [tileComps]
    split <;> omega
  omega

theorem tst_answers {s s1 : State} {g : GroupAt} {e : EncR} {run : RasterRun} {r : RenderPass}
    (hissue : issueCheck s g (e.code 0xD 1) = .go s1) (htile : tileOf s1 g = some (run, r))
    (hreg : (s1.core g.core).badReg = []) (hbad : (s1.core g.core).badTile = [])
    (hcheck : checkR (shTst e) (tstOk e (groupProg s1 g)) e (groupProg s1 g) = none) (hka : e.ka = 0) (hraw : tstRaw e = false)
    (hregs : e.a.toNat + tileComps e.mod.toNat ≤ (groupProg s1 g).regs)
    (href : e.mod.toNat ≠ 0xE → ∀ l, l < 32 → inMask ((s1.group g).guard e.h &&& ~~~(s1.group g).helpers) l = true →
      badTileRef r ((s1.core g.core).wgAt (s1.group g).wg).idY e.mod.toNat (valB (shTst e) e (s1.group g) l) = false) :
    Answers (.tst g e) s fun t =>
      t.group g = { s1.group g with
        outs := lanesOut e (s1.group g) (lanesOf ((s1.group g).guard e.h &&& ~~~(s1.group g).helpers)) (s1.group g).outs
        pc := (s1.group g).pc + Head.size e.h, promoted := false }
      ∧ OnlyGroup s1 t g := by
  have hsrc : ∀ q ∈ (if e.ka = 0 then tstRegs e else []), q < (groupProg s1 g).regs := by
    intro q hq
    rw [if_pos hka] at hq
    obtain ⟨i, hi, rfl⟩ := List.mem_map.mp hq
    have := List.mem_range.mp hi
    omega
  have hka1 : (e.ka != 1) = true := by rw [hka]; rfl
  have hcheck' : checkR (shTst e) ((fun p => tstOk e p && (e.ka != 1 || (tstRegs e).all fun r => decide (r < 64))) (groupProg s1 g)) e
      (groupProg s1 g) = none := by
    dsimp only
    rw [hka1, Bool.true_or, Bool.and_true]
    exact hcheck
  have hexec : execTst g e s = done ((countIssue s1 g).setGroup g { s1.group g with
      outs := lanesOut e (s1.group g) (lanesOf ((s1.group g).guard e.h &&& ~~~(s1.group g).helpers)) (s1.group g).outs
      pc := (s1.group g).pc + Head.size e.h, promoted := false }) := by
    unfold execTst
    extract_lets src raw sh regs ok
    rw [stepTile_go (idle := true) hissue htile hreg hbad hcheck' hsrc
      (fun hr l hl => href (by simpa using hr) l (mem_lanesOf.mp hl).1 (mem_lanesOf.mp hl).2)
      (fun hn => absurd (hn : tstRaw e = true) (by rw [hraw]; exact Bool.false_ne_true))]
    have hraw' : raw = false := hraw
    rw [hraw']
    rfl
  obtain ⟨hgroup, honly⟩ := onlyGroup_issued s1 g { s1.group g with
    outs := lanesOut e (s1.group g) (lanesOf ((s1.group g).guard e.h &&& ~~~(s1.group g).helpers)) (s1.group g).outs
    pc := (s1.group g).pc + Head.size e.h, promoted := false }
  exact ⟨_, hexec, hgroup, honly⟩

/-- Settles O19: a tex reads its texels and writes its group, tld writes what its fragment's sample or attribute gives, and tst
records its lanes' outputs under keys of their own. -/
theorem textureAndTileData : Obligations.TextureAndTileData := by
  refine ⟨fun g e s s1 s2 s3 t d os => ?_, fun g e s s1 run r => ?_⟩
  · intro x m regs hi
    refine ⟨fun hm => ⟨_, execTex_off hi hm, ?_⟩, fun hm hquiet hdesc hextra hrange hlanes => ⟨_, execTex_eq hi hm hquiet hdesc hextra
      hrange hlanes, ?_⟩⟩
    · exact finishMem_leaves s1 g [] m x (Head.size e.h)
    · have hro := (readsOnly_texDescs hdesc).trans (readsOnly_texLanes hlanes)
      obtain ⟨hmem, hcore⟩ := texCounted_rest s3 g e os
      have hx : (texCounted s3 g e os).group g = x := by
        rw [State.group, hcore]
        exact hro.group g
      rw [hx]
      obtain ⟨hgroup, honly⟩ := finishMem_leaves (texCounted s3 g e os) g (regsFrom e.dst (texNDst e)) m (texWrite x e m os) (Head.size e.h)
      have hwritten := texWrite_writes x e m os
      have hums := (onlyGroup_mem honly).trans hmem
      refine ⟨fun r l hl => ?_, fun p l hl => ?_, ?_, hums, (congrArg MemSys.dram hums).trans hro.dram, fun k hk => ?_⟩
      · rw [hgroup]
        exact hwritten.vreg r l hl
      · rw [hgroup]
        exact hwritten.pred p l hl
      · rw [hgroup]
        exact congrArg (fun y : Group => { y with pc := y.pc + Head.size e.h, promoted := false }) hwritten.rest
      · rw [honly.cores k hk, hcore, hro.core]
  · intro x p c m src draw htile hreg hbad
    refine ⟨fun hissue hcheck hregs href hfree => ?_, fun hissue hcheck hka hraw hregs href => ?_⟩
    · obtain ⟨t, hexec, hgroup, honly⟩ := tld_answers hissue htile hreg hbad hcheck hregs href
        (fun l f hl hm hs hf => hfree l f hl hm hs hf)
      have hvget (q l : Nat) : (t.group g).vget q l = (tldRegs c x e run r).vget q l := by rw [hgroup]; rfl
      refine ⟨t, hexec, fun q l f hl hf => ?_, fun q l hl hm => ?_, ?_, honly⟩
      · rw [hvget, tldRegs_vget c x e run r hl, tldLane, hf]
        split
        · exact BitVec.toNat_ofNat _ _
        · rfl
      · rw [hvget, tldRegs_vget c x e run r hl]
        exact if_neg fun h => Bool.false_ne_true (hm.symm.trans h.1)
      · rw [hgroup, tldRegs_rest]
    · obtain ⟨t, hexec, hgroup, honly⟩ := tst_answers hissue htile hreg hbad hcheck hka hraw hregs href
      have houts : (t.group g).outs = lanesOut e x (lanesOf (m &&& ~~~x.helpers)) x.outs := by rw [hgroup]
      refine ⟨t, hexec, fun l i hl hm hi => ?_, fun k hm hk => ?_, ?_, honly, onlyGroup_mem honly, (congrArg Machine.Core.tile honly.core :)⟩
      · rw [houts, tget?_lanesOut_own (tile_fits e.mod) ((lanesOf_sorted _).imp Nat.ne_of_lt) (mem_lanesOf.mpr ⟨hl, hm⟩) hi, tstValue,
          if_pos hka]
      · rw [houts, tget?_lanesOut_other (tile_fits e.mod)]
        exact fun h => Bool.false_ne_true (hm.symm.trans (mem_lanesOf.mp h).2)
      · rw [houts]
        exact hgroup

end Sys2Proof.Proofs

/-! Tensor instructions from issue to completion. -/

namespace Sys2Proof.Proofs

open Sys2Proof.Machine

/-! ### What settling a workgroup can change of its core -/

/-- Settling takes core `c` to `d`: groups, workgroups and the stage of a cut go on, and a workgroup that is still live keeps its
scratch. -/
structure CoreSettles (c d : Machine.Core) : Prop where
  rest : d = { c with
    groups := d.groups, wgs := d.wgs, dets := d.dets, raster := d.raster, scratch := d.scratch, badTile := d.badTile, run := d.run }
  live : ∀ k, (d.wgAt k).live = true → (d.wgAt k).scratch = (c.wgAt k).scratch

theorem coreSettles_refl (c : Machine.Core) : CoreSettles c c := ⟨rfl, fun _ _ => rfl⟩

theorem coreSettles_of_wgs {c d e : Machine.Core} (h : CoreSettles c d) (hw : e.wgs = d.wgs) (hrest : e = { d with
    groups := e.groups, dets := e.dets, raster := e.raster, scratch := e.scratch, badTile := e.badTile, run := e.run }) :
    CoreSettles c e := by
  have hwg (k : Nat) : e.wgAt k = d.wgAt k := by rw [Core.wgAt, hw]; rfl
  refine ⟨?_, fun k hk => ?_⟩
  · have := h.rest
    rw [hrest, this]
  · rw [hwg] at hk ⊢
    exact h.live k hk

theorem coreSettles_setGroup {c d : Machine.Core} (h : CoreSettles c d) (k : Nat) (x : Group) : CoreSettles c (d.setGroup k x) :=
  coreSettles_of_wgs h rfl rfl

theorem coreSettles_strand {c d : Machine.Core} (h : CoreSettles c d) (w : Nat) :
    CoreSettles c (d.setWg w { d.wgAt w with strand := 0 }) := by
  refine ⟨congrArg (fun e : Machine.Core => e.setWg w { d.wgAt w with strand := 0 }) h.rest, fun k hk => ?_⟩
  rw [Core.wgAt_setWg] at hk ⊢
  split at hk
  next hkw =>
    subst hkw
    rw [if_pos rfl]
    exact h.live k hk
  next hkw =>
    rw [if_neg hkw]
    exact h.live k hk

theorem coreSettles_release {c d : Machine.Core} (h : CoreSettles c d) (w b : Nat) : CoreSettles c (d.release w b) := by
  unfold Core.release
  exact coreSettles_strand (List.foldlRecOn (motive := fun e => CoreSettles c e) _ _ h fun e he k _ => coreSettles_setGroup he k _) w

theorem coreSettles_barrierEval {c d : Machine.Core} (h : CoreSettles c d) (w : Nat) : CoreSettles c (d.barrierEval w) := by
  unfold Core.barrierEval
  refine List.foldlRecOn (motive := fun e => CoreSettles c e) _ _ h fun e he b _ => ?_
  dsimp only
  split
  · exact coreSettles_release he w b
  · exact he

theorem coreSettles_freeDead {c d : Machine.Core} (h : CoreSettles c d) (l : List Nat) :
    CoreSettles c (l.foldl (fun c k => (c.captureFrags k).freeGroup k) d) := by
  refine List.foldlRecOn (motive := fun e => CoreSettles c e) _ _ h fun e he k _ => ?_
  have hcap : CoreSettles c (e.captureFrags k) := by
    unfold Core.captureFrags
    split
    · exact he
    · exact coreSettles_of_wgs he rfl rfl
  exact coreSettles_of_wgs hcap rfl rfl

theorem coreSettles_drop {c d : Machine.Core} (h : CoreSettles c d) (w : Nat) :
    CoreSettles c { d with wgs := tdrop d.wgs (· == w) } := by
  refine ⟨congrArg (fun e : Machine.Core => { e with wgs := tdrop d.wgs (· == w) }) h.rest, fun k hk => ?_⟩
  have hwg : ({ d with wgs := tdrop d.wgs (· == w) } : Machine.Core).wgAt k = if (k == w) = true then .empty else d.wgAt k :=
    tget_tdrop d.wgs (· == w) k .empty
  rw [hwg] at hk ⊢
  split at hk
  · cases hk
  next hkw =>
    rw [if_neg hkw]
    exact h.live k hk

theorem coreSettles_endStage {c d : Machine.Core} (h : CoreSettles c d) (slot : Nat) (w : Wg) : CoreSettles c (d.endStage slot w) := by
  unfold Core.endStage
  split
  · split
    · exact coreSettles_of_wgs h rfl rfl
    · exact h
  · exact h

/-- From `s` to `t` a workgroup of a core settled while no work was being preempted. -/
structure Settles (s t : State) (core : Nat) : Prop where
  others : ∀ j, j ≠ core → t.core j = s.core j
  mem : t.mem = s.mem
  fences : t.fences = s.fences
  core : CoreSettles (s.core core) (t.core core)

theorem settles_setCore {s : State} {core : Nat} {d : Machine.Core} (h : CoreSettles (s.core core) d) : Settles s (s.setCore core d) core where
  others j hj := by rw [State.setCore_core, if_neg hj]
  mem := rfl
  fences := rfl
  core := by rw [State.setCore_core, if_pos rfl]; exact h

theorem wgExited_rest (s : State) (w : Wg) : (wgExited s w).mem = s.mem ∧ (wgExited s w).fences = s.fences
    ∧ (wgExited s w).sched = s.sched := by
  unfold wgExited
  split
  · split
    · exact ⟨rfl, rfl, rfl⟩
    · split <;> exact ⟨rfl, rfl, rfl⟩
  · exact ⟨rfl, rfl, rfl⟩
  · exact ⟨rfl, rfl, rfl⟩

theorem stopReached_none {s : State} (h : s.sched.preempts = []) (core id : Nat) : stopReached s core id = s := by
  rw [stopReached, h]
  rfl

theorem settles_endGroups {s t : State} {core : Nat} (h : Settles s t core) (hpre : t.sched.preempts = []) (w : Nat) :
    Settles s (endGroups t core w) core := by
  unfold endGroups
  extract_lets c dead c1 c2
  have h1 : CoreSettles (s.core core) c1 := coreSettles_freeDead h.core dead
  have hset (d : Machine.Core) (hd : CoreSettles (s.core core) d) : Settles s (t.setCore core d) core :=
    ⟨fun j hj => by rw [State.setCore_core, if_neg hj, h.others j hj], h.mem, h.fences, by rw [State.setCore_core, if_pos rfl]; exact hd⟩
  split
  · obtain ⟨hmem, hfences, hsched⟩ := wgExited_rest (t.setCore core c2) (c.wgAt w)
    have h2 := hset c2 (coreSettles_endStage (coreSettles_drop h1 w) w (c.wgAt w))
    rw [stopReached_none (by rw [hsched]; exact hpre)]
    refine ⟨fun j hj => (wgExited_core _ _ _).trans (h2.others j hj), hmem.trans h2.mem, hfences.trans h2.fences, ?_⟩
    rw [wgExited_core]
    exact h2.core
  · exact hset c1 h1

theorem settles_settleWg {s : State} (hpre : s.sched.preempts = []) (core w : Nat) : Settles s (settleWg s core w) core := by
  unfold settleWg
  extract_lets c c1
  exact settles_endGroups (settles_setCore (coreSettles_barrierEval (coreSettles_strand (coreSettles_refl _) w) w)) hpre w

/-! ### Completion -/

/-- What names an entry of a tensor queue. -/
def entryKey (o : TqEntry) : Nat × Nat × TensorOp := (o.gid, o.seq, o.op)

theorem clobber_rest (c : Machine.Core) (gid wg space a n : Nat) : clobber c gid wg space a n = { c with tq := (clobber c gid wg space a n).tq } :=
  rfl

theorem clobber_keys (c : Machine.Core) (gid wg space a n : Nat) : (clobber c gid wg space a n).tq.map entryKey = c.tq.map entryKey := by
  unfold clobber
  rw [List.map_map]
  refine List.map_congr_left fun o _ => ?_
  rw [Function.comp_apply]
  split <;> rfl

theorem map_eraseIdx {α β : Type} (f : α → β) (l : List α) (k : Nat) : (l.eraseIdx k).map f = (l.map f).eraseIdx k := by
  induction l generalizing k with
  | nil => rfl
  | cons a l ih =>
    cases k with
    | zero => rfl
    | succ k => rw [List.eraseIdx_cons_succ, List.map_cons, ih, List.map_cons, List.eraseIdx_cons_succ]

theorem healRange_rest (c : Machine.Core) (wg space a n : Nat) : c.healRange wg space a n =
    { c with badWeight := (c.healRange wg space a n).badWeight, badTile := (c.healRange wg space a n).badTile } := by
  unfold Core.healRange
  dsimp only
  split <;> rfl

theorem requeueOn_none {s : State} {core : Nat} (h : (s.core core).requeue = []) : requeueOn s core = s := by
  have hnext : requeueNext s core = s := by
    unfold requeueNext
    dsimp only
    rw [h]
  have hall (n : Nat) : requeueAll n s core = s := by
    induction n with
    | zero => rfl
    | succ n ih => rw [requeueAll, hnext, ih]
  exact hall 16

/-- What counting a completion leaves. -/
structure Counts (cnt : State → State) : Prop where
  cores : ∀ s, (cnt s).cores = s.cores
  mem : ∀ s, (cnt s).mem = s.mem
  fences : ∀ s, (cnt s).fences = s.fences
  sched : ∀ s, (cnt s).sched = s.sched

/-- Entry `k` of core `core` completed, and its write took the core's memories to those of `d`. -/
structure EntryDone (s t : State) (core k : Nat) (d : Machine.Core) : Prop where
  others : ∀ j, j ≠ core → t.core j = s.core j
  mem : t.mem = s.mem
  fences : t.fences = s.fences
  keys : (t.core core).tq.map entryKey = ((s.core core).tq.eraseIdx k).map entryKey
  tile : (t.core core).tile = d.tile
  weights : (t.core core).weights = d.weights
  odd : (t.core core).odd = d.odd
  live : ∀ j, ((t.core core).wgAt j).live = true → ((t.core core).wgAt j).scratch = (d.wgAt j).scratch

theorem tensorDo_done {s : State} {core k : Nat} {q : TqEntry} {space a n draws : Nat} {put : Machine.Core → Machine.Core} {cnt : State → State}
    (hcnt : Counts cnt) (hpre : s.sched.preempts = []) (hfault : entryFault s (s.core core) q = none)
    (hreq : (put (s.core core)).requeue = []) (htq : (put (s.core core)).tq = (s.core core).tq) :
    EntryDone s (tensorDo s core k q space a n draws put cnt) core k (put (s.core core)) := by
  unfold tensorDo tensorFinish
  dsimp only
  rw [hfault]
  dsimp only
  generalize hc1 : clobber ((put (s.core core)).healRange q.wg space a n) q.gid q.wg space a n = c1
  have hheal := healRange_rest (put (s.core core)) q.wg space a n
  have hrest : c1 = { put (s.core core) with badWeight := c1.badWeight, badTile := c1.badTile, tq := c1.tq } := by
    rw [← hc1, hheal]
    rfl
  have hkeys : c1.tq.map entryKey = (s.core core).tq.map entryKey := by
    rw [← hc1, clobber_keys, hheal]
    exact congrArg (List.map entryKey) htq
  generalize hu : cnt { s.setCore core c1 with freeTick := s.freeTick + draws } = u
  have hucore (j : Nat) : u.core j = if j = core then c1 else s.core j := by
    rw [← hu, State.core, hcnt.cores]
    exact State.setCore_core _ _ _ _
  have hmine : u.core core = c1 := (hucore core).trans (if_pos rfl)
  rw [hmine]
  have hvcore : (u.setCore core { c1 with tq := c1.tq.eraseIdx k }).core core = { c1 with tq := c1.tq.eraseIdx k } := by
    rw [State.setCore_core, if_pos rfl]
  rw [requeueOn_none (by rw [hvcore, hrest]; exact hreq)]
  have hsettle := settles_settleWg (s := u.setCore core { c1 with tq := c1.tq.eraseIdx k })
    (by rw [← hu]; exact (congrArg Sched.preempts (hcnt.sched _)).trans hpre) core q.wg
  have hcore := hsettle.core
  rw [hvcore] at hcore
  refine ⟨fun j hj => ?_, hsettle.mem.trans ?_, hsettle.fences.trans ?_, ?_, ?_, ?_, ?_, fun j hj => ?_⟩
  · rw [hsettle.others j hj, State.setCore_core, if_neg hj, hucore, if_neg hj]
  · rw [← hu]
    exact hcnt.mem _
  · rw [← hu]
    exact hcnt.fences _
  · rw [hcore.rest]
    dsimp only
    rw [map_eraseIdx, hkeys, map_eraseIdx]
  · rw [hcore.rest, hrest]
  · rw [hcore.rest, hrest]
  · rw [hcore.rest, hrest]
  · rw [hcore.live j hj, hrest]
    rfl

/-- Bytes written one at a time are written as one list. -/
theorem foldl_write (bs : List Byte) (m : TMem) (a : Nat) :
    ((List.range bs.length).zip bs).foldl (fun t e => t.write (a + e.1) [e.2]) m = m.write a bs := by
  induction bs generalizing m a with
  | nil => rfl
  | cons b bs ih =>
    have hcons : m.write a (b :: bs) = (m.write a [b]).write (a + 1) bs := rfl
    rw [List.length_cons, List.range_succ_eq_map, List.zip_cons_cons, List.foldl_cons, List.zip_map_left, List.foldl_map, hcons, ← ih]
    simp only [Prod.map_fst, Prod.map_snd, id_eq, Nat.succ_eq_add_one, Nat.add_zero, ← Nat.add_assoc, Nat.add_right_comm a 1]

theorem redirect_even {c : Machine.Core} (h : c.odd = false) (a : Nat) : c.redirect a = a := by
  rw [Core.redirect, h]
  rfl

theorem putTile_rest (c : Machine.Core) (wg space a : Nat) (bs : List Byte) : (c.putTile wg space a bs).tq = c.tq
    ∧ (c.putTile wg space a bs).requeue = c.requeue ∧ (c.putTile wg space a bs).odd = c.odd
    ∧ (c.putTile wg space a bs).weights = c.weights := by
  unfold Core.putTile
  split <;> exact ⟨rfl, rfl, rfl, rfl⟩

theorem tileByte_entryDone {s t : State} {core k wg space a : Nat} {bs : List Byte} (hodd : (s.core core).odd = false)
    (h : EntryDone s t core k ((s.core core).putTile wg space a bs)) (hlive : space = 0 ∨ ((t.core core).wgAt wg).live = true)
    {i : Nat} (hi : i < bs.length) : (t.core core).tileByte wg space (a + i) = byteAt bs i := by
  have hodd' : (t.core core).odd = false := h.odd.trans ((putTile_rest _ _ _ _ _).2.2.1.trans hodd)
  have hwritten (m : TMem) : (m.write a bs).get (a + i) = byteAt bs i := by
    rw [tmem_get_write, if_pos (by omega), Nat.add_sub_cancel_left]
  rw [Core.tileByte]
  by_cases hs : space = 0
  · rw [if_pos hs, redirect_even hodd', h.tile, Core.putTile, if_pos hs]
    simp only [redirect_even hodd]
    rw [foldl_write, hwritten]
  · rw [if_neg hs, h.live wg (hlive.resolve_left hs), Core.putTile, if_neg hs, Core.wgAt_setWg, if_pos rfl]
    exact hwritten _

theorem counts_id : Counts fun s => s := ⟨fun _ => rfl, fun _ => rfl, fun _ => rfl, fun _ => rfl⟩

theorem counts_bumpBy (u o n : Nat) : Counts fun s => bumpBy s u o n :=
  ⟨fun _ => bumpBy_cores _ _ _ _, fun _ => bumpBy_mem _ _ _ _, fun _ => bumpBy_fences _ _ _ _, fun _ => bumpBy_sched _ _ _ _⟩

theorem counts_tmma (u o o' n : Nat) : Counts fun s => bumpBy (bump s u o) u o' n where
  cores _ := (bumpBy_cores _ _ _ _).trans (bump_cores _ _ _)
  mem _ := (bumpBy_mem _ _ _ _).trans (bump_mem _ _ _)
  fences _ := (bumpBy_fences _ _ _ _).trans (bump_fences _ _ _)
  sched _ := (bumpBy_sched _ _ _ _).trans (bump_sched _ _ _)

theorem tmmaResult_clean (s : State) (c : Machine.Core) {q : TqEntry} (h : q.clobbered = []) (af bf blk tw : Nat) (acc : Bool) (a b cc k : Nat) :
    tmmaResult s c q af bf blk tw acc a b cc k = (List.range 1024).flatMap fun n => leBytes 4 (tmmaElement (TLay.of af 0 blk k)
      (TLay.of bf tw blk k) (fun i => c.tileByte q.wg (tileSpace a) (tileOff a + i)) (fun i => c.weights.get (b + i)) acc
      (leNat ((List.range 4).map fun m => c.tileByte q.wg (tileSpace cc) (tileOff cc + 4 * n + m))) (n / 32) (n % 32)) := by
  unfold tmmaResult
  dsimp only
  rw [h]
  rfl

theorem entryFault_tile {s : State} {c : Machine.Core} {q : TqEntry} (h : tensorEcc c q = none) (hop : ∀ va off n ps, q.op ≠ .twld va off n ps) :
    entryFault s c q = none := by
  unfold entryFault
  split
  next heq => exact absurd heq (hop _ _ _ _)
  next => rw [h]; rfl

/-! ### Marks while memory is read -/

/-- Reading marks no word. -/
def NoNewMarks (s t : State) : Prop := ∀ w ∈ t.mem.poison, w ∈ s.mem.poison

theorem noNewMarks_evictLine (s : State) (e : CLine) : NoNewMarks s (evictLine s e) := by
  have hmet (u : State) : NoNewMarks u (metPoison u) := fun w hw => by
    have hmem : (bump (sawPoison u) 0xFF 0x118).mem = u.mem := bump_mem _ _ _
    have h := (List.mem_filter.mp hw).1
    rwa [hmem] at h
  have hline (u : State) (p off ln : Nat) (bs : List Byte) : NoNewMarks u (hostWriteLine u p off ln bs) := by
    unfold hostWriteLine
    extract_lets s1
    have h1 : s1.mem.poison = u.mem.poison := hostWrite_poison _ _ _ _
    split
    · exact fun w hw => h1 ▸ hw
    · exact fun w hw => h1 ▸ hmet { s1 with out := s1.out ++ [.poisonedWrite p ((u.port p).winBase + off)] } w hw
  unfold evictLine
  extract_lets m s1
  split
  · extract_lets s2
    have h2 : NoNewMarks s1 s2 := by
      unfold s2
      split
      · split
        · exact hline _ _ _ _ _
        · exact fun _ h => h
      · exact fun _ h => h
    clear_value s2
    exact fun w hw => h2 w (List.mem_filter.mp hw).1
  · split
    · exact fun _ h => h
    · split
      · refine List.foldlRecOn (motive := fun t => NoNewMarks s t) _ _ (fun w hw => (List.mem_filter.mp hw).1) fun t ht _ _ => ?_
        exact fun w hw => ht w (recordError_poison t _ _ _ _ ▸ hw)
      · exact fun w hw => (List.mem_filter.mp hw).1

theorem noNewMarks_touchLine (s : State) (ln : Nat) (stream write : Bool) : NoNewMarks s (touchLine s ln stream write) := by
  unfold touchLine
  split
  · exact fun _ h => h
  · extract_lets mine ws
    split
    · exact fun _ h => h
    · have hdraw := (cacheVictim_drawn s (mine.filter fun e => ws.contains e.way) (stream && s.cfg.streamWays != 0)).1
      split
      next s1 hv =>
        rw [hv] at hdraw
        exact fun w hw => congrArg MemSys.poison hdraw ▸ hw
      next v s1 hv =>
        rw [hv] at hdraw
        exact fun w hw => congrArg MemSys.poison hdraw ▸ noNewMarks_evictLine s1 v w hw

theorem noNewMarks_sliceRead (s : State) (cached : Bool) (ln : Nat) : NoNewMarks s (sliceRead s cached ln) := by
  unfold sliceRead
  split
  · exact fun _ h => h
  · extract_lets s1
    have h1 : NoNewMarks s s1 := noNewMarks_touchLine _ _ _ _
    split
    · split
      · unfold hostLine
        split <;> exact h1
      · exact h1
    · exact h1

theorem noNewMarks_physReadN (fuel : Nat) (s : State) (cached : Bool) (pa n : Nat) : NoNewMarks s (physReadN fuel s cached pa n).2 := by
  induction fuel generalizing s pa n with
  | zero => exact fun _ h => h
  | succ fuel ih =>
    unfold physReadN
    split
    · exact fun _ h => h
    · extract_lets k s1
      exact fun w hw => noNewMarks_sliceRead s cached (pa / 128) w (ih s1 (pa + k) (n - k) w hw)

theorem readPieces_reads (s : State) (ps : List (Nat × Nat × Bool)) :
    ReadsOnly s (readPieces s ps).2 ∧ NoNewMarks s (readPieces s ps).2 := by
  induction ps generalizing s with
  | nil => exact ⟨.refl s, fun _ h => h⟩
  | cons p r ih =>
    obtain ⟨pa, n, cached⟩ := p
    obtain ⟨hro, hmarks⟩ := ih (physRead s cached pa n).2
    exact ⟨(readsOnly_physRead s cached pa n).trans hro, fun w hw => noNewMarks_physReadN _ s cached pa n w (hmarks w hw)⟩

theorem readPieces_bytes (s : State) {ps : List (Nat × Nat × Bool)} (h : ∀ p ∈ ps, p.1 + p.2.1 ≤ 0x1000000000) :
    (readPieces s ps).1 = ps.flatMap fun p => s.mem.dram.read p.1 p.2.1 := by
  induction ps generalizing s with
  | nil => rfl
  | cons p r ih =>
    obtain ⟨pa, n, cached⟩ := p
    have hhead := physRead_bytes s cached pa n (h _ List.mem_cons_self)
    have htail := ih (physRead s cached pa n).2 fun q hq => h q (List.mem_cons_of_mem _ hq)
    rw [(readsOnly_physRead s cached pa n).dram] at htail
    rw [readPieces]
    dsimp only
    rw [hhead, htail, List.flatMap_cons]

theorem piecesPoison_none {s t : State} (hmarks : NoNewMarks s t) {va : Nat} {ps : List (Nat × Nat × Bool)}
    (h : piecesPoison s va ps = none) : piecesPoison t va ps = none := by
  induction ps generalizing va with
  | nil => rfl
  | cons p r ih =>
    obtain ⟨pa, n, cached⟩ := p
    rw [piecesPoison] at h ⊢
    cases hs : poisonedWord s pa n with
    | some w => rw [hs] at h; cases h
    | none =>
      have ht : poisonedWord t pa n = none :=
        List.find?_eq_none.mpr fun w hw => List.find?_eq_none.mp hs w (hmarks w hw)
      rw [hs] at h
      rw [ht]
      exact ih h

/-! ### tmma, tcvt and twld complete -/

section
variable {s : State} {core k : Nat} {q : TqEntry} (hq : (s.core core).tq[k]? = some q)
include hq

theorem tmmaComplete_eq {af bf blk tw a b cc kk : Nat} {acc : Bool} (hop : q.op = .tmma af bf blk tw acc a b cc kk)
    (hmay : tensorMay s core k q true = true) :
    execTmmaComplete core k s = done (tensorDo s core k q (tileSpace cc) (tileOff cc) 4096 1024
      (fun c => c.putTile q.wg (tileSpace cc) (tileOff cc) (tmmaResult s c q af bf blk tw acc a b cc kk))
      fun s => bumpBy (bump s (0x30 + core) 0x100) (0x30 + core) 0x108 (tmmaCycles af bf kk)) := by
  unfold execTmmaComplete
  dsimp only
  rw [hq]
  dsimp only
  rw [hop]
  dsimp only
  rw [hmay, Bool.not_true, if_neg Bool.false_ne_true]

theorem tcvtComplete_eq {f blk dst src : Nat} (hop : q.op = .tcvt f blk dst src) (hmay : tensorMay s core k q true = true) :
    execTcvtComplete core k s = done (tensorDo s core k q (tileSpace dst) (tileOff dst) (tcvtBytes s (s.core core) q f blk dst src).length
      (tcvtBytes s (s.core core) q f blk dst src).length
      (fun c => c.putTile q.wg (tileSpace dst) (tileOff dst) (tcvtBytes s (s.core core) q f blk dst src)) fun s => s) := by
  unfold execTcvtComplete
  dsimp only
  rw [hq]
  dsimp only
  rw [hop]
  dsimp only
  rw [hmay, Bool.not_true, if_neg Bool.false_ne_true]

theorem twldComplete_eq {va off n : Nat} {ps : List (Nat × Nat × Bool)} (hop : q.op = .twld va off n ps)
    (hmay : tensorMay s core k q false = true) :
    execTwldComplete core k s = done (tensorDo (readPieces s ps).2 core k q 2 off n 0
      (fun c => { c with weights := c.weights.write off (readPieces s ps).1 }) fun s => bumpBy s (0x30 + core) 0x128 n) := by
  unfold execTwldComplete
  dsimp only
  rw [hq]
  dsimp only
  rw [hop]
  dsimp only
  rw [hmay, Bool.not_true, if_neg Bool.false_ne_true]

end

/-- What names the entries of a core's queue once entry `k` is gone, and what a completion leaves alone. -/
structure EntryFrame (s t : State) (core k : Nat) : Prop where
  others : ∀ j, j ≠ core → t.core j = s.core j
  dram : t.mem.dram = s.mem.dram
  keys : (t.core core).tq.map entryKey = ((s.core core).tq.eraseIdx k).map entryKey
  fences : t.fences = s.fences

/-- A result of a tensor instruction lies where its workgroup's tile memory is still there. -/
def Lies (t : State) (core wg a : Nat) (bs : List Byte) : Prop :=
  tileSpace a = 0 ∨ ((t.core core).wgAt wg).live = true →
    ∀ i, i < bs.length → (t.core core).tileByte wg (tileSpace a) (tileOff a + i) = byteAt bs i

section
variable {s : State} {core k : Nat} {q : TqEntry} (hq : (s.core core).tq[k]? = some q) (hreq : (s.core core).requeue = [])
  (hodd : (s.core core).odd = false) (hclean : q.clobbered = []) (hecc : tensorEcc (s.core core) q = none) (hpre : s.sched.preempts = [])
include hq hreq hpre

omit hq in
include hodd in
/-- A completion that puts `bs` into tile memory. -/
theorem tensorDo_puts {cnt : State → State} (hcnt : Counts cnt) (hfault : entryFault s (s.core core) q = none) (a n draws : Nat)
    (bs : List Byte) {put : Machine.Core → Machine.Core}
    (hput : put (s.core core) = (s.core core).putTile q.wg (tileSpace a) (tileOff a) bs) :
    let t := tensorDo s core k q (tileSpace a) (tileOff a) n draws put cnt
    Lies t core q.wg a bs ∧ (t.core core).weights = (s.core core).weights ∧ t.mem.host = s.mem.host ∧ EntryFrame s t core k := by
  obtain ⟨htq, hrq, -, hweights⟩ := putTile_rest (s.core core) q.wg (tileSpace a) (tileOff a) bs
  have hdone := tensorDo_done (k := k) (space := tileSpace a) (a := tileOff a) (n := n) (draws := draws) (put := put) hcnt hpre hfault
    (by rw [hput, hrq, hreq]) (by rw [hput, htq])
  rw [hput] at hdone
  exact ⟨fun hlive i hi => tileByte_entryDone hodd hdone hlive hi, hdone.weights.trans hweights, congrArg MemSys.host hdone.mem,
    hdone.others, congrArg MemSys.dram hdone.mem, hdone.keys, hdone.fences⟩

include hodd hecc in
theorem tmmaComplete_answers {af bf blk tw a b cc kk : Nat} {acc : Bool} (hop : q.op = .tmma af bf blk tw acc a b cc kk)
    (hmay : tensorMay s core k q true = true) :
    Answers (.tmmaComplete core k) s fun t =>
      Lies t core q.wg cc (tmmaResult s (s.core core) q af bf blk tw acc a b cc kk)
      ∧ (t.core core).weights = (s.core core).weights ∧ t.mem.host = s.mem.host ∧ EntryFrame s t core k :=
  ⟨_, tmmaComplete_eq hq hop hmay, tensorDo_puts hreq hodd hpre (counts_tmma _ _ _ _)
    (entryFault_tile hecc fun va off n ps h => by rw [hop] at h; cases h) cc 4096 1024 _ rfl⟩

include hodd hclean hecc in
theorem tcvtComplete_answers {f blk dst src : Nat} (hop : q.op = .tcvt f blk dst src) (hmay : tensorMay s core k q true = true) :
    Answers (.tcvtComplete core k) s fun t =>
      Lies t core q.wg dst (tcvtResult f blk fun n =>
        leNat ((List.range 4).map fun m => (s.core core).tileByte q.wg (tileSpace src) (tileOff src + 4 * n + m)))
      ∧ (t.core core).weights = (s.core core).weights ∧ t.mem.host = s.mem.host ∧ EntryFrame s t core k := by
  have hbytes : tcvtBytes s (s.core core) q f blk dst src = tcvtResult f blk fun n =>
      leNat ((List.range 4).map fun m => (s.core core).tileByte q.wg (tileSpace src) (tileOff src + 4 * n + m)) := if_pos hclean
  have hexec := tcvtComplete_eq hq hop hmay
  rw [hbytes] at hexec
  exact ⟨_, hexec, tensorDo_puts hreq hodd hpre counts_id (entryFault_tile hecc fun va off n ps h => by rw [hop] at h; cases h)
    dst _ _ _ rfl⟩

theorem twldComplete_answers {va off n : Nat} {ps : List (Nat × Nat × Bool)} (hop : q.op = .twld va off n ps)
    (hmay : tensorMay s core k q false = true) (hpoison : piecesPoison s va ps = none) (hdram : ∀ p ∈ ps, p.1 + p.2.1 ≤ 0x1000000000) :
    Answers (.twldComplete core k) s fun t =>
      (∀ i, (t.core core).weights.get i = ((s.core core).weights.write off (ps.flatMap fun p => s.mem.dram.read p.1 p.2.1)).get i)
      ∧ (t.core core).tile = (s.core core).tile ∧ EntryFrame s t core k := by
  obtain ⟨hro, hmarks⟩ := readPieces_reads s ps
  have hfault : entryFault (readPieces s ps).2 ((readPieces s ps).2.core core) q = none := by
    unfold entryFault
    rw [hop]
    dsimp only
    rw [piecesPoison_none hmarks hpoison]
    rfl
  have hdone := tensorDo_done (k := k) (space := 2) (a := off) (n := n) (draws := 0)
    (put := fun c => { c with weights := c.weights.write off (readPieces s ps).1 }) (counts_bumpBy (0x30 + core) 0x128 n)
    ((congrArg Sched.preempts hro.sched).trans hpre) hfault (by rw [hro.core]; exact hreq) rfl
  rw [hro.core core] at hdone
  refine ⟨_, twldComplete_eq hq hop hmay, fun i => ?_, hdone.tile, fun j hj => ?_, ?_, ?_, ?_⟩
  · rw [hdone.weights, readPieces_bytes s hdram]
  · rw [hdone.others j hj, hro.core]
  · rw [hdone.mem, hro.dram]
  · rw [hdone.keys, hro.core]
  · rw [hdone.fences, hro.fences]

end

end Sys2Proof.Proofs

/-! Tensor instructions at issue. -/

namespace Sys2Proof.Proofs

open Sys2Proof.Machine

/-! ### Operands -/

/-- An operand of `n` bytes at tile address `a` lies inside its region (R123, R49, R169). -/
def OperandInside (c : Machine.Core) (x : Group) (a n : Nat) : Prop := a < 2 ^ 20 ∧ a % 128 = 0 ∧
  (if a < 2 ^ 19 then c.holder = some (c.wgAt x.wg).cmd ∧ a + n ≤ c.reserved
      ∧ (∀ d ∈ c.doubles, a + n ≤ d.1 + d.2 ∨ d.1 + 2 * d.2 ≤ a)
    else a - 2 ^ 19 + n ≤ (c.wgAt x.wg).scratchKib * 1024 ∧ a + n ≤ 2 ^ 20)

theorem tileSpace_low {a : Nat} (h : a < 2 ^ 19) : tileSpace a = 0 ∧ tileOff a = a := by
  have hbit : bitOf a 19 = false := Nat.testBit_lt_two_pow h
  exact ⟨by rw [tileSpace, hbit]; rfl, Nat.mod_eq_of_lt h⟩

theorem tileSpace_high {a : Nat} (h : 2 ^ 19 ≤ a) (h' : a < 2 ^ 20) : tileSpace a = 1 ∧ tileOff a = a - 2 ^ 19 := by
  have hbit : bitOf a 19 = true := by
    rw [bitOf, Nat.testBit_eq_decide_div_mod_eq, decide_eq_true_eq]
    omega
  refine ⟨by rw [tileSpace, hbit]; rfl, ?_⟩
  rw [tileOff]
  omega

theorem tileFault_inside {c : Machine.Core} {x : Group} {a n : Nat} (h : OperandInside c x a n) : tileFault c x a n = none := by
  obtain ⟨hlt, halign, hregion⟩ := h
  rw [tileFault, if_neg (by omega)]
  by_cases ha : a < 2 ^ 19
  · obtain ⟨hspace, hoff⟩ := tileSpace_low ha
    rw [if_pos ha] at hregion
    obtain ⟨hholder, hfits, hdoubles⟩ := hregion
    have howns : c.ownsTile x = true := by rw [Core.ownsTile, hholder, beq_self_eq_true]
    have hsecond : c.secondHalf a n = false := List.any_eq_false.mpr fun d hd => by
      have := hdoubles d hd
      simp only [decide_eq_true_eq]
      omega
    rw [hspace, if_pos rfl, hoff, howns, hsecond, decide_eq_false (by omega)]
    rfl
  · obtain ⟨hspace, hoff⟩ := tileSpace_high (by omega) hlt
    rw [if_neg ha] at hregion
    rw [hspace, if_neg (by decide), hoff, if_neg (by omega), if_neg (by omega)]

theorem worstTile_none : worstTile [none, none] = none := rfl

/-! ### The frame of a tensor instruction -/

section
variable {s s1 : State} {g : GroupAt} {e : EncT} {op : Nat} {ok twld : Bool} {k : State → Group → Except AccFault (TensorOp × State)}
  (hissue : issueCheck s g (e.code op) = .go s1) (hok : ok = true)
include hissue hok

theorem stepTensor_idle (hm : (s1.group g).guard e.h = 0) : stepTensor s g op e ok twld k = finishX s1 g (s1.group g) := by
  rw [stepTensor, stepX_go hissue hok, if_pos hm]

theorem stepTensor_queues {top : TensorOp} {s2 : State} (hm : (s1.group g).guard e.h ≠ 0) (htensor : (groupProg s1 g).tensor = true)
    (hheritage : e.afmt = 0xE → (s1.ctx (s1.group g).ctx).heritage = true) (hk : k s1 (s1.group g) = .ok (top, s2))
    (hroom : tqRoom (s2.core g.core) (entryOf g (s1.group g) top) twld = true)
    (hfault : entryFault s2 (s2.core g.core) (entryOf g (s1.group g) top) = none) :
    stepTensor s g op e ok twld k = finishX (startEntry s2 g.core (entryOf g (s1.group g) top)) g
      { s1.group g with tseq := (s1.group g).tseq + 1 } := by
  have hher : ¬ (e.afmt = 0xE ∧ (!(s1.ctx (s1.group g).ctx).heritage) = true) := fun ⟨ha, hh⟩ => by
    rw [hheritage ha] at hh
    cases hh
  rw [stepTensor, stepX_go hissue hok, if_neg hm, htensor, Bool.not_true, if_neg Bool.false_ne_true, if_neg hher, hk]
  dsimp only
  rw [hroom, Bool.not_true, if_neg Bool.false_ne_true, hfault]

end

/-- An instruction that queues the entry `en` and goes on. -/
structure Queued (s s1 t : State) (g : GroupAt) : Prop where
  group : t.group g = { s.group g with tseq := (s.group g).tseq + 1, pc := (s.group g).pc + 8, promoted := false }
  groups : ∀ j, j ≠ g.slot → (t.core g.core).group j = (s.core g.core).group j
  others : ∀ k, k ≠ g.core → t.core k = s.core k
  tile : (t.core g.core).tile = (s.core g.core).tile
  wgs : (t.core g.core).wgs = (s.core g.core).wgs
  tq : (t.core g.core).tq = (s1.core g.core).tq
  weights : (t.core g.core).weights = (s1.core g.core).weights
  dram : t.mem.dram = s.mem.dram

theorem finishX_queued {s u : State} {g : GroupAt} (hcore : u.core g.core = { s.core g.core with
      tq := (u.core g.core).tq, weights := (u.core g.core).weights }) (hothers : ∀ k, k ≠ g.core → u.core k = s.core k)
    (hmem : u.mem.dram = s.mem.dram) :
    Queued s u (finishX u g { s.group g with tseq := (s.group g).tseq + 1 }) g := by
  obtain ⟨hgroup, honly⟩ := finishX_leaves u g { s.group g with tseq := (s.group g).tseq + 1 }
  refine ⟨hgroup, fun j hj => ?_, fun k hk => ?_, ?_, ?_, ?_, ?_, ?_⟩
  · rw [honly.groups j hj, hcore]
    rfl
  · rw [honly.cores k hk, hothers k hk]
  · rw [honly.core, hcore]
  · rw [honly.core, hcore]
  · rw [honly.core]
  · rw [honly.core]
  · rw [onlyGroup_mem honly, hmem]

/-! ### What enters the queue -/

theorem startEntry_tile {s : State} {core : Nat} {en : TqEntry} (h : ∀ va off n ps, en.op ≠ .twld va off n ps) :
    startEntry s core en = s.setCore core { s.core core with tq := (s.core core).tq ++ [en] } := by
  unfold startEntry
  dsimp only
  split
  next heq => exact absurd heq (h _ _ _ _)
  next => rfl

section
variable {c : Machine.Core} (hreq : c.requeue = []) (hlen : c.tq.length < 16)
include hreq hlen

theorem tqRoom_free (en : TqEntry) : tqRoom c en false = true := by
  rw [tqRoom, hreq, decide_eq_true hlen]
  rfl

theorem tqRoom_apart {en : TqEntry} (h : ∀ o ∈ c.tq, o.gid = en.gid → tensorClash o en = false) : tqRoom c en true = true := by
  have hany : (c.tq.any fun o => o.gid == en.gid && tensorClash o en) = false := List.any_eq_false.mpr fun o ho => by
    rw [Bool.and_eq_true, beq_iff_eq]
    rintro ⟨hgid, hclash⟩
    rw [h o ho hgid] at hclash
    cases hclash
  rw [tqRoom, hreq, decide_eq_true hlen, hany]
  rfl

end

theorem badRange_clean {c : Machine.Core} (ht : c.badTile = []) (hw : c.badWeight = []) (wg space a n : Nat) :
    c.badRange wg space a n = false := by
  rw [Core.badRange, ht, hw]
  exact ite_self _

theorem tensorEcc_clean {c : Machine.Core} (ht : c.badTile = []) (hw : c.badWeight = []) (en : TqEntry) : tensorEcc c en = none := by
  unfold tensorEcc
  dsimp only
  simp only [badRange_clean ht hw, Bool.and_false, Bool.or_false, Bool.false_eq_true, if_false]
  split <;> rfl

/-! ### The lines of a twld -/

theorem length_physReadN_le (fuel : Nat) (s : State) (cached : Bool) (pa n : Nat) : (physReadN fuel s cached pa n).1.length ≤ n := by
  induction fuel generalizing s pa n with
  | zero => exact Nat.zero_le n
  | succ fuel ih =>
    unfold physReadN
    split
    · exact Nat.zero_le n
    · extract_lets k s1
      have hk := chunkLen_le 128 pa n
      have hhead := length_physRead1_le (s := s1) (cached := cached) (pa := pa) (n := k)
      have htail := ih s1 (pa + k) (n - k)
      dsimp only
      rw [List.length_append]
      have : k = chunkLen 128 pa n := rfl
      omega

/-- The bytes that a list of pieces names. -/
def piecesBytes (ps : List (Nat × Nat × Bool)) : Nat := (ps.map fun p => p.2.1).sum

theorem length_readPieces_le (s : State) (ps : List (Nat × Nat × Bool)) : (readPieces s ps).1.length ≤ piecesBytes ps := by
  induction ps generalizing s with
  | nil => exact Nat.le_refl 0
  | cons p r ih =>
    obtain ⟨pa, n, cached⟩ := p
    have hhead := length_physReadN_le (n / 128 + 2) s cached pa n
    have htail := ih (physRead s cached pa n).2
    rw [readPieces]
    dsimp only
    rw [List.length_append, piecesBytes, List.map_cons, List.sum_cons]
    exact Nat.add_le_add hhead htail

theorem piecesBytes_le {fuel : Nat} {s t : State} {c va n : Nat} {ps : List (Nat × Nat × Bool)} (h : pieces fuel s c va n = .ok (ps, t)) :
    piecesBytes ps ≤ n := by
  induction fuel generalizing s va n ps with
  | zero => cases h; exact Nat.zero_le n
  | succ fuel ih =>
    unfold pieces at h
    split at h
    · cases h; exact Nat.zero_le n
    · split at h
      · cases h
      · dsimp only at h
        split at h
        · cases h
        next hr =>
          cases h
          have htail := ih hr
          have hk := chunkLen_le 4096 va n
          rw [piecesBytes, List.map_cons, List.sum_cons]
          exact (Nat.add_le_add_left htail _).trans (Nat.add_sub_cancel' hk).le

/-- What a range of the weight buffer holds while a twld's lines are under way: lines that have come and lines that have not. -/
def linesComing (s : State) (core off n : Nat) (ps : List (Nat × Nat × Bool)) : List Byte :=
  partLines s.freeTick ((List.range n).map fun i => (s.core core).weights.get (off + i)) (readPieces s ps).1

theorem length_linesComing_le (s : State) (core off n : Nat) (ps : List (Nat × Nat × Bool)) :
    (linesComing s core off n ps).length ≤ piecesBytes ps := by
  rw [linesComing, partLines, List.length_map, List.length_range]
  exact length_readPieces_le s ps

/-- A core with the entry of a twld queued. -/
def twldQueued (s : State) (core : Nat) (en : TqEntry) (off n : Nat) (ps : List (Nat × Nat × Bool)) : Machine.Core :=
  let c := { s.core core with weights := (s.core core).weights.write off (linesComing s core off n ps) }
  { c with tq := (clobber c en.gid en.wg 2 off n).tq ++ [en] }

theorem startEntry_twld (s : State) (core : Nat) {en : TqEntry} {va off n : Nat} {ps : List (Nat × Nat × Bool)} (hop : en.op = .twld va off n ps) :
    startEntry s core en = { s.setCore core (twldQueued s core en off n ps) with freeTick := s.freeTick + n / 128 } := by
  unfold startEntry
  dsimp only
  rw [hop]
  rfl

theorem twldQueued_keys (s : State) (core : Nat) (en : TqEntry) (off n : Nat) (ps : List (Nat × Nat × Bool)) :
    (twldQueued s core en off n ps).tq.map entryKey = ((s.core core).tq ++ [en]).map entryKey := by
  unfold twldQueued
  dsimp only
  rw [List.map_append, clobber_keys, List.map_append]

/-! ### The instructions -/

section
variable {s s1 : State} {g : GroupAt} {e : EncT} (hm : (s1.group g).guard e.h ≠ 0) (htensor : (groupProg s1 g).tensor = true)
  (hreq : (s1.core g.core).requeue = []) (hlen : (s1.core g.core).tq.length < 16)
include hm htensor hreq hlen

/-- An instruction on tile memory whose operands are good enters the queue. -/
theorem tile_queues {op : Nat} {ok : Bool} {k : State → Group → Except AccFault (TensorOp × State)} {top : TensorOp}
    (hissue : issueCheck s g (e.code op) = .go s1) (hok : ok = true) (hheritage : e.afmt = 0xE → (s1.ctx (s1.group g).ctx).heritage = true)
    (hk : k s1 (s1.group g) = .ok (top, s1)) (hop : ∀ va off n ps, top ≠ .twld va off n ps)
    (ht : (s1.core g.core).badTile = []) (hw : (s1.core g.core).badWeight = []) :
    ∃ u, Queued s1 u (stepTensor s g op e ok false k) g
      ∧ (u.core g.core).tq = (s1.core g.core).tq ++ [entryOf g (s1.group g) top]
      ∧ (u.core g.core).weights = (s1.core g.core).weights := by
  have hstart := startEntry_tile (s := s1) (core := g.core) (en := entryOf g (s1.group g) top) hop
  rw [stepTensor_queues hissue hok hm htensor hheritage hk (tqRoom_free hreq hlen _)
    (entryFault_tile (tensorEcc_clean ht hw _) hop), hstart]
  have hcore : (s1.setCore g.core { s1.core g.core with tq := (s1.core g.core).tq ++ [entryOf g (s1.group g) top] }).core g.core
      = { s1.core g.core with tq := (s1.core g.core).tq ++ [entryOf g (s1.group g) top] } := (State.setCore_core _ _ _ _).trans (if_pos rfl)
  refine ⟨_, finishX_queued (by rw [hcore]) (fun k hk => (State.setCore_core _ _ _ _).trans (if_neg hk)) rfl, ?_, ?_⟩
  · rw [hcore]
  · rw [hcore]

theorem twld_queues (hissue : issueCheck s g (e.code 1) = .go s1) (hok : twldOk e = true) {off n : Nat}
    (hoff : ((s1.group g).uget e.b.toNat).toNat = off) (hn : ((s1.group g).uget e.c.toNat).toNat = n)
    (hoff128 : off % 128 = 0) (hn128 : n % 128 = 0) (hmin : 128 ≤ n) (hmax : off + n ≤ 65536) {ps : List (Nat × Nat × Bool)} {s2 : State}
    (hpieces : pieces 18 s1 (s1.group g).ctx ((s1.group g).uget64 e.a.toNat) n = .ok (ps, s2))
    (hpoison : piecesPoison s2 ((s1.group g).uget64 e.a.toNat) ps = none)
    (happart : ∀ o ∈ (s1.core g.core).tq, o.gid = (s1.group g).gid →
      tensorClash o (entryOf g (s1.group g) (.twld ((s1.group g).uget64 e.a.toNat) off n ps)) = false) :
    ∃ t u, execTwld g e s = done t ∧ Queued s1 u t g
      ∧ (u.core g.core).tq.map entryKey
        = ((s1.core g.core).tq ++ [entryOf g (s1.group g) (.twld ((s1.group g).uget64 e.a.toNat) off n ps)]).map entryKey
      ∧ ∀ i, i < off ∨ off + n ≤ i → (u.core g.core).weights.get i = (s1.core g.core).weights.get i := by
  have hro := readsOnly_pieces hpieces
  have hheritage : e.afmt = 0xE → (s1.ctx (s1.group g).ctx).heritage = true := fun h => by
    unfold twldOk at hok
    rw [h] at hok
    simp at hok
  generalize hen : entryOf g (s1.group g) (.twld ((s1.group g).uget64 e.a.toNat) off n ps) = en at happart ⊢
  have hop : en.op = .twld ((s1.group g).uget64 e.a.toNat) off n ps := by rw [← hen]; rfl
  have hgid : en.gid = (s1.group g).gid := by rw [← hen]; rfl
  have hfault : entryFault s2 (s2.core g.core) en = none := by
    unfold entryFault
    rw [hop]
    dsimp only
    rw [hpoison]
    rfl
  have hroom : tqRoom (s2.core g.core) en true = true := by
    rw [hro.core]
    exact tqRoom_apart hreq hlen fun o ho hg => happart o ho (hg.trans hgid)
  have hshape : ¬ (off % 128 ≠ 0 ∨ n % 128 ≠ 0 ∨ n < 128 ∨ 65536 < n ∨ 65536 < off + n) := by omega
  have hexec : execTwld g e s = done (finishX (startEntry s2 g.core en) g { s1.group g with tseq := (s1.group g).tseq + 1 }) := by
    unfold execTwld
    rw [stepTensor_queues (top := .twld ((s1.group g).uget64 e.a.toNat) off n ps) (s2 := s2) hissue hok hm htensor hheritage
      (by dsimp only; rw [hoff, hn, if_neg hshape, hpieces]) (by rw [hen]; exact hroom) (by rw [hen]; exact hfault), hen]
  have hcore : (startEntry s2 g.core en).core g.core = twldQueued s2 g.core en off n ps := by
    rw [startEntry_twld s2 g.core hop]
    exact (State.setCore_core _ _ _ _).trans (if_pos rfl)
  have hothers (k : Nat) (hk : k ≠ g.core) : (startEntry s2 g.core en).core k = s1.core k := by
    rw [startEntry_twld s2 g.core hop, ← hro.core k]
    exact (State.setCore_core _ _ _ _).trans (if_neg hk)
  have hdram : (startEntry s2 g.core en).mem.dram = s1.mem.dram := by
    rw [startEntry_twld s2 g.core hop]
    exact hro.dram
  refine ⟨_, _, hexec, finishX_queued ?_ hothers hdram, ?_, fun i hi => ?_⟩
  · rw [hcore, ← hro.core]
    rfl
  · rw [hcore, twldQueued_keys, hro.core]
  · have hlen := (length_linesComing_le s2 g.core off n ps).trans (piecesBytes_le hpieces)
    rw [hcore, ← hro.core]
    refine (tmem_get_write _ _ _ _).trans (if_neg ?_)
    omega

end

theorem tmmaShape_inside {c : Machine.Core} {x : Group} {e : EncT} {a b cc k : Nat} (hk : k ≠ 0) (hk32 : k % 32 = 0)
    (hb : b + tfBytes e.bfmt.toNat e.tw.toNat (blkLen e.blk.toNat) k ≤ 65536)
    (ha : OperandInside c x a (tfBytes e.afmt.toNat 0 (blkLen e.blk.toNat) k)) (hcc : OperandInside c x cc 4096) :
    tmmaShape c x e a b cc k = none := by
  rw [tmmaShape]
  rw [if_neg (by omega), tileFault_inside ha, tileFault_inside hcc, worstTile_none]

theorem tsync_eq {s s1 : State} {g : GroupAt} {e : EncT} (hissue : issueCheck s g (e.code 3) = .go s1) (hok : tsyncOk e = true) :
    execTsync g e s = done (if (s1.group g).guard e.h = 0 then finishX s1 g (s1.group g)
      else if !(groupProg s1 g).tensor then groupFault s1 g (illegalFault dTensorUndeclared)
      else if e.k.toNat < ((s1.core g.core).tq.filter fun t => t.gid == (s1.group g).gid).length then s1
      else finishX s1 g (s1.group g)) := by
  unfold execTsync
  rw [stepX_go hissue hok]

/-- Settles O20: at issue an instruction with good operands only adds its entry, a twld some of its lines too. On completion its
write goes to tile memory or the weight buffer, and settling its workgroup leaves both where they are still held. -/
theorem tensorWork : Obligations.TensorWork := by
  refine ⟨fun g e s s1 => ?_, fun core k s q => ?_⟩
  · intro x c v inside issues idles queues
    have hidle (n : Nat) (ok : Bool) (hissue : issues n) (hok : ok = true) (hm : x.guard e.h = 0) (twld : Bool)
        (k : State → Group → Except AccFault (TensorOp × State)) : (stepTensor s g n e ok twld k).group g = { x with pc := x.pc + 8, promoted := false }
          ∧ OnlyGroup s1 (stepTensor s g n e ok twld k) g := by
      rw [stepTensor_idle hissue hok hm]
      exact finishX_leaves s1 g x
    have hqueued {u t : State} (h : Queued s1 u t g) {op : TensorOp} (htq : (u.core g.core).tq = c.tq ++ [entryOf g x op])
        (hweights : (u.core g.core).weights = c.weights) : (t.core g.core).tq = c.tq ++ [entryOf g x op]
          ∧ t.group g = { x with tseq := x.tseq + 1, pc := x.pc + 8, promoted := false }
          ∧ (t.core g.core).tile = c.tile ∧ (t.core g.core).wgs = c.wgs ∧ (t.core g.core).weights = c.weights
          ∧ (∀ j, j ≠ g.slot → (t.core g.core).group j = c.group j) ∧ (∀ k, k ≠ g.core → t.core k = s1.core k)
          ∧ t.mem.dram = s1.mem.dram :=
      ⟨h.tq.trans htq, h.group, h.tile, h.wgs, h.weights.trans hweights, h.groups, h.others, h.dram⟩
    refine ⟨fun hissue hok hm => ⟨_, rfl, hidle 0 _ hissue hok hm _ _⟩, fun hissue hok hm => ⟨_, rfl, hidle 1 _ hissue hok hm _ _⟩,
      fun hissue hok hm => ⟨_, rfl, hidle 2 _ hissue hok hm _ _⟩, fun hissue hok hm => ⟨_, tsync_eq hissue hok, ?_⟩,
      fun htensor hm hreq hlen ht hw => ⟨fun hok hher hk hk32 hb ha hcc hissue => ?_, fun hok hher ha hcc hissue => ?_,
        fun ps s2 hok hoff hn hmin hmax hpieces hpoison happart hissue => ?_⟩,
      fun hissue hok htensor hm => ⟨fun hle => ⟨_, tsync_eq hissue hok, ?_⟩, fun hlt => ?_⟩⟩
    · rw [if_pos hm]
      exact finishX_leaves s1 g x
    · obtain ⟨u, hq, htq, hweights⟩ := tile_queues hm htensor hreq hlen (k := fun s1 x => match tmmaShape (s1.core g.core) x e
            (x.uget e.a.toNat).toNat (x.uget e.b.toNat).toNat (x.uget e.c.toNat).toNat (x.uget e.k.toNat).toNat with
          | some d => .error (illegalFault d)
          | none => .ok (.tmma e.afmt.toNat e.bfmt.toNat e.blk.toNat e.tw.toNat e.acc (x.uget e.a.toNat).toNat (x.uget e.b.toNat).toNat
              (x.uget e.c.toNat).toNat (x.uget e.k.toNat).toNat, s1)) hissue hok hher
        (top := .tmma e.afmt.toNat e.bfmt.toNat e.blk.toNat e.tw.toNat e.acc (x.uget e.a.toNat).toNat
          (x.uget e.b.toNat).toNat (x.uget e.c.toNat).toNat (x.uget e.k.toNat).toNat)
        (by rw [tmmaShape_inside hk hk32 hb ha hcc]) (fun _ _ _ _ h => by cases h) ht hw
      exact ⟨_, rfl, hqueued hq htq hweights⟩
    · obtain ⟨u, hq, htq, hweights⟩ := tile_queues hm htensor hreq hlen (k := fun s1 x => match worstTile [tileFault (s1.core g.core) x
            (x.uget e.a.toNat).toNat (tfBytes e.afmt.toNat 0 (blkLen e.blk.toNat) 32), tileFault (s1.core g.core) x
            (x.uget e.c.toNat).toNat 4096] with
          | some d => .error (illegalFault d)
          | none => .ok (.tcvt e.afmt.toNat e.blk.toNat (x.uget e.a.toNat).toNat (x.uget e.c.toNat).toNat, s1)) hissue hok hher
        (top := .tcvt e.afmt.toNat e.blk.toNat (x.uget e.a.toNat).toNat (x.uget e.c.toNat).toNat)
        (by rw [tileFault_inside ha, tileFault_inside hcc, worstTile_none]) (fun _ _ _ _ h => by cases h) ht hw
      exact ⟨_, rfl, hqueued hq htq hweights⟩
    · obtain ⟨t, u, hexec, hq, hkeys, hweights⟩ := twld_queues hm htensor hreq hlen hissue hok rfl rfl hoff hn hmin hmax hpieces hpoison happart
      refine ⟨t, hexec, ?_, hq.group, fun i hi => ?_, hq.tile, hq.wgs, hq.groups, hq.others, hq.dram⟩
      · rw [hq.tq]
        exact hkeys
      · rw [hq.weights]
        exact hweights i hi
    · rw [if_neg hm, htensor, Bool.not_true, if_neg Bool.false_ne_true, if_neg (Nat.not_lt.mpr hle)]
      exact finishX_leaves s1 g x
    · rw [exec_tsync, tsync_eq hissue hok, if_neg hm, htensor, Bool.not_true, if_neg Bool.false_ne_true, if_pos hlt]
      rfl
  · intro c frame lies hq hreq hodd hclean hecc hpre
    have hframe {t : State} (h : EntryFrame s t core k) : frame t := ⟨h.others, h.dram, h.keys, h.fences⟩
    refine ⟨fun af bf blk tw acc a b cc kk hop hmay => ?_, fun f blk dst src hop hmay => ?_, fun va off n ps hop hmay hpoison hdram => ?_⟩
    · obtain ⟨t, hexec, hlies, hweights, hhost, hf⟩ := tmmaComplete_answers hq hreq hodd hecc hpre hop hmay
      rw [tmmaResult_clean s c hclean] at hlies
      exact ⟨t, hexec, hlies, hweights, hhost, hframe hf⟩
    · obtain ⟨t, hexec, hlies, hweights, hhost, hf⟩ := tcvtComplete_answers hq hreq hodd hclean hecc hpre hop hmay
      exact ⟨t, hexec, hlies, hweights, hhost, hframe hf⟩
    · obtain ⟨t, hexec, hweights, htile, hf⟩ := twldComplete_answers hq hreq hpre hop hmay hpoison hdram
      refine ⟨t, hexec, fun i hi => ?_, fun i hi => ?_, htile, hframe hf⟩
      · rw [hweights]
        refine (tmem_get_write _ _ _ _).trans ((if_pos (by omega)).trans ?_)
        rw [Nat.add_sub_cancel_left]
      · rw [hweights]
        exact (tmem_get_write _ _ _ _).trans (if_neg (by omega))

end Sys2Proof.Proofs

/-! The tiles of a cut on their owners (O27): what starts a tile, what each transfer of the tile engine leaves, and the workgroup of a
stage. Every step but the last only sets the step that comes next. -/

namespace Sys2Proof.Proofs

open Sys2Proof.Machine

/-! ### A tile starts -/

theorem posOf_lt {x : Nat} {xs : List Nat} (h : xs.contains x = true) : posOf x xs < xs.length := by
  unfold posOf
  cases hf : xs.findIdx? (· == x) with
  | none => exact List.length_pos_of_mem (List.contains_iff_mem.mp h)
  | some i => exact (List.findIdx?_eq_some_iff_getElem.mp hf).1

theorem nextTile_segment {p : CutPass} {core t : Nat} (h : p.nextTile core = some (t, false)) : p.nextSeg core = some t := by
  unfold CutPass.nextTile at h
  split at h
  next hseg => cases h; exact hseg
  · split at h
    · split at h <;> cases h
    · cases h

theorem nextSeg_places {p : CutPass} {core t : Nat} (h : p.nextSeg core = some t) :
    t % p.order.length = posOf core p.order ∧ t < p.hdr.t0 * p.split := by
  unfold CutPass.nextSeg at h
  split at h
  · cases h
  next hin =>
    have hlt : posOf core p.order < p.order.length := posOf_lt (by rwa [Bool.not_eq_true', Bool.not_eq_false] at hin)
    extract_lets k at h
    split at h
    next hk =>
      obtain rfl : k = t := Option.some.inj h
      exact ⟨(Nat.add_mul_mod_self_right _ _ _).trans (Nat.mod_eq_of_lt hlt), hk⟩
    · cases h

theorem noteBoost_coreEq (s : State) (id k : Nat) : ∃ l1 demand prefetch, (noteBoost s id).core k =
    { s.core k with l1 := l1, demand := demand, prefetch := prefetch } := by
  unfold noteBoost
  split
  · exact ⟨_, _, _, rfl⟩
  · split
    · exact ⟨_, _, _, (writesOnly_setBlock _ _ _ _ _).core k⟩
    · exact ⟨_, _, _, rfl⟩

/-- A core whose hold a pass has or may take, with the hold taken. -/
theorem takeHold_takes {s : State} {core id rk sk : Nat}
    (h : (s.core core).holder = some id ∨ ((s.core core).holder = none ∧ rk + sk ≤ (s.core core).scratchFree)) :
    ∃ s1, takeHold s core id rk sk = .ok s1 ∧ (s1.core core).holder = some id
      ∧ ((s.core core).holder = none → (s1.core core).reserved = rk * 1024 ∧ (s1.core core).holdKib = sk)
      ∧ ∀ k, k ≠ core → s1.core k = s.core k := by
  unfold takeHold
  extract_lets c
  rcases h with h | ⟨hnone, hfits⟩
  · exact ⟨s, if_pos h, h, fun hn => absurd (h.symm.trans hn) (by simp), fun _ _ => rfl⟩
  · have hne : c.holder ≠ some id := fun he => absurd (he.symm.trans hnone) (by simp)
    refine ⟨_, (if_neg hne).trans (if_pos ⟨hnone, hfits⟩), ?_, fun _ => ?_, fun k hk => ?_⟩
    · rw [State.setCore_core, if_pos rfl]
    · rw [State.setCore_core, if_pos rfl]
      exact ⟨rfl, rfl⟩
    · rw [State.setCore_core, if_neg hk]

/-- The core that begins a tile. -/
def begunCore (s : State) (core id : Nat) (p : CutPass) (t : Nat) (combine : Bool) : Machine.Core :=
  let k := tget p.segDone core 0 + tget p.combDone core 0
  { s.core core with
    tile := if combine then .free s.freeTick else aheadTile (s.core core) p s.freeTick (k % 2 == 1)
    scratch := ⟨s.freeTick + 1, []⟩, run := some ⟨id, t, combine, p.firstStep combine⟩
    doubles := if combine then [] else (p.inSlabs.filter Slab.double).map fun b => (b.resOff, b.bytes p.hdr)
    odd := !combine && k % 2 == 1 }

theorem beginTile_eq (s : State) (core id : Nat) (p : CutPass) (t : Nat) (combine : Bool) : beginTile s core id p t combine =
    noteBoost { s.setCore core (begunCore s core id p t combine) with freeTick := s.freeTick + 2 } id := rfl

/-- A tile begun on a core: its run, the hold of the core as it was, the groups of the others as they were. -/
theorem beginTile_begins (s : State) (core id : Nat) (p : CutPass) (t : Nat) (combine : Bool) :
    ((beginTile s core id p t combine).core core).run = some ⟨id, t, combine, p.firstStep combine⟩
      ∧ ((beginTile s core id p t combine).core core).holder = (s.core core).holder
      ∧ ((beginTile s core id p t combine).core core).reserved = (s.core core).reserved
      ∧ ((beginTile s core id p t combine).core core).holdKib = (s.core core).holdKib
      ∧ ∀ k, k ≠ core → ((beginTile s core id p t combine).core k).groups = (s.core k).groups := by
  have hset (k : Nat) : State.core { s.setCore core (begunCore s core id p t combine) with freeTick := s.freeTick + 2 } k =
      if k = core then begunCore s core id p t combine else s.core k := State.setCore_core _ _ _ _
  rw [beginTile_eq]
  obtain ⟨l1, demand, prefetch, hcore⟩ := noteBoost_coreEq
    { s.setCore core (begunCore s core id p t combine) with freeTick := s.freeTick + 2 } id core
  rw [hset, if_pos rfl] at hcore
  rw [hcore]
  refine ⟨rfl, rfl, rfl, rfl, fun k hk => (noteBoost_core _ id k).2.trans ?_⟩
  rw [hset, if_neg hk]

theorem startTile_starts {s s1 : State} {core cmd t : Nat} {p : CutPass} {combine : Bool} (hp : tget? s.cuts cmd = some p)
    (hgen : p.gen = s.maps.gen) (hmay : tileMay s core cmd true = true) (hnext : p.nextTile core = some (t, combine))
    (htake : takeHold s core cmd p.hdr.reserveKib p.hdr.scratchKib = .ok s1) :
    startTile s core cmd combine = beginTile s1 core cmd p t combine := by
  unfold startTile
  rw [hp]
  dsimp only
  rw [if_neg (not_not.mpr hgen), hnext]
  dsimp only
  rw [if_neg (not_not.mpr rfl), hmay, Bool.not_true, if_neg Bool.false_ne_true, htake]

/-! ### A tile goes on -/

section
variable {s : State} {core : Nat} {r : TileRun} {p : CutPass} {done st : TileStep}

theorem advanceTile_goes (h : p.after r.combine done = some st) :
    advanceTile s core r p done = s.setCore core { s.core core with run := some { r with step := st } } := by
  rw [advanceTile, h]

theorem advanceTile_ends (h : p.after r.combine done = none) : advanceTile s core r p done = endTile s core r p := by
  rw [advanceTile, h]

theorem after_load (p : CutPass) (combine : Bool) (i : Nat) : ∃ st, p.after combine (.load i) = some st := by
  by_cases h : i + 1 < (if combine then p.split else p.hdr.ins)
  · exact ⟨_, if_pos h⟩
  · exact ⟨_, if_neg h⟩

theorem after_move (p : CutPass) (combine : Bool) (m i : Nat) : ∃ st, p.after combine (.move m i) = some st := by
  by_cases h : i + 1 < (p.stages.getD m (.empty, [])).2.length
  · exact ⟨_, if_pos h⟩
  · exact ⟨_, if_neg h⟩

/-- The step that comes next is the one that `after` names; memory and the core's other fields are left. -/
theorem advanceTile_run (s : State) (core : Nat) (h : p.after r.combine done = some st) :
    (∀ st', p.after r.combine done = some st' → ((advanceTile s core r p done).core core).run = some { r with step := st' })
      ∧ (advanceTile s core r p done).core core = { s.core core with run := some { r with step := st } }
      ∧ (advanceTile s core r p done).mem = s.mem := by
  have hcore : (advanceTile s core r p done).core core = { s.core core with run := some { r with step := st } } := by
    rw [advanceTile_goes h, State.setCore_core, if_pos rfl]
  refine ⟨fun st' h' => ?_, hcore, ?_⟩
  · cases h.symm.trans h'
    rw [hcore]
  · rw [advanceTile_goes h, State.setCore_mem]

/-! ### A tile ends -/

theorem incBlock_core_run (s : State) (c off k : Nat) : ((incBlock s c off).core k).run = (s.core k).run :=
  (congrArg Core.run ((writesOnly_setBlock s c off 4 (min (blockNat s c off 4 + 1) 0xFFFFFFFF)).core k) :)

theorem incBlock_cuts (s : State) (c off : Nat) : (incBlock s c off).cuts = s.cuts :=
  ((writesOnly_setBlock s c off 4 (min (blockNat s c off 4 + 1) 0xFFFFFFFF)).cuts :)

theorem stopMade_core_run (s : State) (core id off area k : Nat) : ((stopMade s core id off area).core k).run = (s.core k).run := by
  unfold stopMade
  extract_lets s1 s2
  have h2 : s2.core k = s.core k := by
    unfold s2
    split <;> rfl
  rw [incBlock_core_run, bump_core, h2]

theorem stopMade_cuts (s : State) (core id off area : Nat) : (stopMade s core id off area).cuts = s.cuts := by
  unfold stopMade
  extract_lets s1 s2
  have h2 : s2.cuts = s.cuts := by
    unfold s2
    split <;> rfl
  rw [incBlock_cuts, bump_cuts, h2]

/-- Releasing a hold or reporting a stop leaves a core without a run without one, and the cuts as they are. -/
theorem releaseIdle_run {s : State} {core : Nat} (id : Nat) (h : (s.core core).run = none) :
    ((releaseIdle s core id).core core).run = none ∧ (releaseIdle s core id).cuts = s.cuts := by
  unfold releaseIdle
  split
  · extract_lets ps s1
    have h1 : (s1.core core).run = none ∧ s1.cuts = s.cuts := by
      refine ⟨(stopMade_core_run _ _ _ _ _ _).trans ?_, stopMade_cuts _ _ _ _ _⟩
      rw [State.setCore_core, if_pos rfl]
      rfl
    split
    · exact h1
    · exact h1
  · exact ⟨h, rfl⟩

theorem tileBoundary_run {s : State} {core : Nat} (h : (s.core core).run = none) :
    ((tileBoundary s core).core core).run = none ∧ (tileBoundary s core).cuts = s.cuts := by
  unfold tileBoundary
  split
  · exact ⟨h, rfl⟩
  · split
    · exact releaseIdle_run _ h
    · split
      · refine ⟨?_, rfl⟩
        rw [State.setCore_core, if_pos rfl]
        rfl
      · exact ⟨h, rfl⟩

/-- The pass with one more tile of a core finished. -/
def countTile (core : Nat) (r : TileRun) (p : CutPass) : CutPass :=
  if r.combine then { p with combDone := tset p.combDone core (tget p.combDone core 0 + 1) }
  else { p with segDone := tset p.segDone core (tget p.segDone core 0 + 1) }

theorem endTile_ends (s : State) (core : Nat) (r : TileRun) (p : CutPass) : ((endTile s core r p).core core).run = none
    ∧ (endTile s core r p).cuts = tset s.cuts r.cmd (countTile core r p) := by
  unfold endTile
  extract_lets p1 due sched c s1 s2
  have h1 : (s1.core core).run = none ∧ s1.cuts = tset s.cuts r.cmd p1 := by
    refine ⟨?_, bump_cuts _ _ _⟩
    rw [bump_core, State.setCore_core, if_pos rfl]
  have h2 : (s2.core core).run = none ∧ s2.cuts = tset s.cuts r.cmd p1 := by
    unfold s2
    split
    · exact h1
    · refine ⟨?_, h1.2⟩
      rw [State.setCore_core, if_pos rfl]
      rfl
  split
  · split
    · exact ⟨(tileBoundary_run h2.1).1, (tileBoundary_run h2.1).2.trans h2.2⟩
    · split
      · exact ⟨(stopMade_core_run _ _ _ _ _ _).trans h2.1, (stopMade_cuts _ _ _ _ _).trans h2.2⟩
      · exact h2
  · exact h2

end

/-! ### Transfers of the tile engine -/

/-- Bytes stand at a place of a core's tile memory, the rest of it and DRAM are as they were. -/
def Filled (s u : State) (core at_ : Nat) (bs : List Byte) : Prop :=
  (∀ k, k < bs.length → (u.core core).tile.get (at_ + k) = byteAt bs k)
    ∧ (∀ a, a < at_ ∨ at_ + bs.length ≤ a → (u.core core).tile.get a = (s.core core).tile.get a) ∧ u.mem.dram = s.mem.dram

theorem filled_of_write {s u : State} {core at_ : Nat} {bs : List Byte} (htile : (u.core core).tile = (s.core core).tile.write at_ bs)
    (hdram : u.mem.dram = s.mem.dram) : Filled s u core at_ bs := by
  refine ⟨fun k hk => ?_, fun a ha => ?_, hdram⟩
  · rw [htile, tmem_get_write, if_pos (by omega), Nat.add_sub_cancel_left]
  · rw [htile, tmem_get_write, if_neg (by omega)]

theorem healRange_tile (c : Machine.Core) (wg space a n : Nat) : (c.healRange wg space a n).tile = c.tile
    ∧ (c.healRange wg space a n).scratch = c.scratch := by
  unfold Core.healRange
  extract_lets inside
  split <;> exact ⟨rfl, rfl⟩

theorem healRange_run (c : Machine.Core) (wg space a n : Nat) : (c.healRange wg space a n).run = c.run
    ∧ (c.healRange wg space a n).ahead = c.ahead := by
  unfold Core.healRange
  extract_lets inside
  split <;> exact ⟨rfl, rfl⟩

theorem bumpBy_coreAt (s : State) (unit off n k : Nat) : (bumpBy s unit off n).core k = s.core k := by
  rw [State.core, State.core, bumpBy_cores]

theorem putRes_core (s : State) (core a : Nat) (bs : List Byte) : (putRes s core a bs).core core =
    ({ s.core core with tile := (s.core core).tile.write a bs } : Machine.Core).healRange 0 0 a bs.length :=
  (State.setCore_core _ _ _ _).trans (if_pos rfl)

/-- The reservation with bytes put in and counted. -/
theorem putRes_counted {s s1 : State} (hreads : ReadsOnly s s1) (core a off : Nat) (bs : List Byte) :
    ((bumpBy (putRes s1 core a bs) (uTensor core) off bs.length).core core).tile = (s.core core).tile.write a bs
      ∧ (bumpBy (putRes s1 core a bs) (uTensor core) off bs.length).mem.dram = s.mem.dram
      ∧ ((bumpBy (putRes s1 core a bs) (uTensor core) off bs.length).core core).run = (s.core core).run := by
  have hcore : (bumpBy (putRes s1 core a bs) (uTensor core) off bs.length).core core = (putRes s1 core a bs).core core  :=
    bumpBy_coreAt _ _ _ _ _
  refine ⟨?_, ?_, ?_⟩
  · rw [hcore, putRes_core, (healRange_tile _ _ _ _ _).1, hreads.core]
  · rw [bumpBy_mem]
    exact hreads.dram
  · rw [hcore, putRes_core, (healRange_run _ _ _ _ _).1, hreads.core]

section
variable {s : State} {core i m : Nat} {r : TileRun} {p : CutPass}

/-- What a step leaves of the tile that runs: the next step, where there is one. -/
def TileGoesOn (u : State) (core : Nat) (r : TileRun) (p : CutPass) (done : TileStep) : Prop :=
  ∀ st, p.after r.combine done = some st → (u.core core).run = some { r with step := st }

theorem advanceTile_goesOn (s : State) (core : Nat) (r : TileRun) (p : CutPass) (done : TileStep) :
    TileGoesOn (advanceTile s core r p done) core r p done := fun _ h => (advanceTile_run s core h).1 _ h

theorem exec_transfer_load (h : tileRun s core = some (r, p)) (hstep : r.step = .load i) :
    exec (.tileEngineTransferDone core false) s = .next (doLoad s core r p i) := by
  rw [exec_tileEngineTransferDone, execTileEngineTransferDone, h]
  dsimp only
  rw [hstep]

theorem exec_transfer_ahead {n : Nat} {w : Bool} (h : tileRun s core = some (r, p)) (hstep : r.step = .stage n w) :
    exec (.tileEngineTransferDone core true) s = .next (doAhead s core r p) := by
  rw [exec_tileEngineTransferDone, execTileEngineTransferDone, h]
  dsimp only
  rw [hstep]

theorem exec_transfer_move (h : tileRun s core = some (r, p)) (hstep : r.step = .move m i) :
    exec (.tileEngineTransferDone core false) s = .next (doMove s core r p m i) := by
  rw [exec_tileEngineTransferDone, execTileEngineTransferDone, h]
  dsimp only
  rw [hstep]

theorem exec_transfer_store (h : tileRun s core = some (r, p)) (hstep : r.step = .store i) :
    exec (.tileEngineTransferDone core false) s = .next (doStore s core r p i) := by
  rw [exec_tileEngineTransferDone, execTileEngineTransferDone, h]
  dsimp only
  rw [hstep]

theorem exec_transfer_part (h : tileRun s core = some (r, p)) (hstep : r.step = .part) :
    exec (.tileEngineTransferDone core false) s = .next (doPart s core r p) := by
  rw [exec_tileEngineTransferDone, execTileEngineTransferDone, h]
  dsimp only
  rw [hstep]

variable {b : Slab} {bs : List Byte} {s1 : State}

/-- An input slab read: its bytes are in the reservation. -/
theorem loadSlab_reads {t : Nat} {odd : Bool} (hread : readRuns s (cmdOf s r.cmd).ctx
      (b.reads p.hdr (t / p.split % p.hdr.gx) (t / p.split / p.hdr.gx % p.hdr.gy) (t / p.split)) = .ok (bs, s1)) :
    loadSlab s core r p b t odd = .ok (bumpBy (putRes s1 core (b.place p.hdr odd) bs) (uTensor core) 0x118 bs.length) := by
  unfold loadSlab
  extract_lets t0
  have hread' : readRuns s (cmdOf s r.cmd).ctx (b.reads p.hdr (p.tileX t0) (p.tileY t0) t0) = .ok (bs, s1) := hread
  rw [hread']

theorem doLoad_slab (hseg : r.combine = false) (hb : p.inSlabs[i]? = some b) (hahead : i ∉ (s.core core).ahead)
    (hread : readRuns s (cmdOf s r.cmd).ctx (b.reads p.hdr (r.tile / p.split % p.hdr.gx) (r.tile / p.split / p.hdr.gx % p.hdr.gy)
      (r.tile / p.split)) = .ok (bs, s1)) :
    doLoad s core r p i = advanceTile (bumpBy (putRes s1 core (b.place p.hdr (s.core core).odd) bs) (uTensor core) 0x118 bs.length)
      core r p (.load i) := by
  unfold doLoad
  extract_lets c
  rw [if_neg (by rw [hseg]; exact Bool.false_ne_true), hb]
  dsimp only
  rw [if_neg (by rw [List.contains_iff_mem]; exact hahead), loadSlab_reads hread]

theorem doLoad_ahead (hseg : r.combine = false) (hb : p.inSlabs[i]? = some b) (hahead : i ∈ (s.core core).ahead) :
    doLoad s core r p i = advanceTile (s.setCore core { s.core core with ahead := (s.core core).ahead.filter (· != i) })
      core r p (.load i) := by
  unfold doLoad
  extract_lets c
  rw [if_neg (by rw [hseg]; exact Bool.false_ne_true), hb]
  dsimp only
  rw [if_pos (List.contains_iff_mem.mpr hahead)]

theorem doLoad_partial (hcomb : r.combine = true)
    (hread : vread s (cmdOf s r.cmd).ctx (p.hdr.partialArea + (r.tile * p.split + i) * p.hdr.partBytes) p.hdr.partBytes = .ok (bs, s1)) :
    doLoad s core r p i = advanceTile (bumpBy (putRes s1 core (i * p.hdr.partBytes) bs) (uTensor core) 0x118 bs.length)
      core r p (.load i) := by
  unfold doLoad
  extract_lets c
  rw [if_pos hcomb, readRuns, hread]
  dsimp only
  rw [readRuns]
  dsimp only
  rw [List.append_nil]

/-- The DOUBLE slab of the next tile that is loaded first. -/
theorem doAhead_slab (hseg : r.combine = false) (hmore : r.tile + p.order.length < p.hdr.t0 * p.split) (hnone : (s.core core).ahead = [])
    (hb : p.inSlabs[i]? = some b) (hdouble : b.double = true) (hbefore : ∀ j x, j < i → p.inSlabs[j]? = some x → x.double = false)
    (hin : i < p.hdr.ins)
    (hread : readRuns s (cmdOf s r.cmd).ctx (b.reads p.hdr ((r.tile + p.order.length) / p.split % p.hdr.gx)
      ((r.tile + p.order.length) / p.split / p.hdr.gx % p.hdr.gy) ((r.tile + p.order.length) / p.split)) = .ok (bs, s1)) :
    doAhead s core r p = (bumpBy (putRes s1 core (b.place p.hdr (!(s.core core).odd)) bs) (uTensor core) 0x118 bs.length).setCore core
      { (bumpBy (putRes s1 core (b.place p.hdr (!(s.core core).odd)) bs) (uTensor core) 0x118 bs.length).core core with ahead := [i] } := by
  have hfirst : (firstBelow p.hdr.ins fun j => ((p.inSlabs[j]?).map Slab.double).getD false && !(s.core core).ahead.contains j) = some i := by
    refine List.find?_range_eq_some.mpr ⟨?_, List.mem_range.mpr hin, fun j hj => ?_⟩
    · rw [hb, hnone]
      exact (Bool.and_true _).trans hdouble
    · cases hx : p.inSlabs[j]? with
      | none => rfl
      | some x =>
        show (!(x.double && _)) = true
        rw [hbefore j x hj hx]
        rfl
  unfold doAhead
  extract_lets c t
  rw [if_neg (by rw [hseg, not_or]; exact ⟨Bool.false_ne_true, Nat.not_le.mpr hmore⟩), hfirst]
  dsimp only
  rw [hb]
  dsimp only
  rw [loadSlab_reads hread]
  dsimp only
  rw [show c.ahead = [] from hnone]
  rfl

/-- Where a spilled or filled range of the tile stands in the spill area. -/
def spillVa (p : CutPass) (core : Nat) (mv : Move) : Nat := p.hdr.spillArea + core * p.hdr.spillBytes + mv.spillOff

/-- A core with bytes put where a fill puts them. -/
def filledCore (c : Machine.Core) (mv : Move) (bs : List Byte) : Machine.Core :=
  if tileSpace mv.tileAddr = 0 then { c with tile := c.tile.write (tileOff mv.tileAddr) bs }
  else { c with scratch := c.scratch.write (tileOff mv.tileAddr) bs }

theorem filledCore_get (c : Machine.Core) (mv : Move) {bs : List Byte} {k : Nat} (hk : k < bs.length) :
    (if tileSpace mv.tileAddr = 0 then (filledCore c mv bs).tile else (filledCore c mv bs).scratch).get (tileOff mv.tileAddr + k)
      = byteAt bs k := by
  unfold filledCore
  split
  all_goals rw [tmem_get_write, if_pos (by omega), Nat.add_sub_cancel_left]

/-- The state after a fill, before the step that comes next. -/
def fillState (s s1 s2 : State) (core : Nat) (r : TileRun) (p : CutPass) (mv : Move) (bs : List Byte) : State :=
  bumpBy (bumpBy (s2.setCore core ((filledCore (s.core core) mv bs).healRange 32 (tileSpace mv.tileAddr) (tileOff mv.tileAddr) mv.bytes))
    (uTensor core) 0x138 mv.bytes) (uTensor core) 0x140 (missedBytes s1 (cmdOf s r.cmd).ctx (spillVa p core mv) mv.bytes)

theorem fillState_core (s s1 s2 : State) (core : Nat) (r : TileRun) (p : CutPass) (mv : Move) (bs : List Byte) :
    ((fillState s s1 s2 core r p mv bs).core core).tile = (filledCore (s.core core) mv bs).tile
      ∧ ((fillState s s1 s2 core r p mv bs).core core).scratch = (filledCore (s.core core) mv bs).scratch := by
  have hcore : (fillState s s1 s2 core r p mv bs).core core =
      (filledCore (s.core core) mv bs).healRange 32 (tileSpace mv.tileAddr) (tileOff mv.tileAddr) mv.bytes := by
    rw [fillState, bumpBy_coreAt, bumpBy_coreAt]
    exact (State.setCore_core _ _ _ _).trans (if_pos rfl)
  rw [hcore]
  exact healRange_tile _ _ _ _ _

variable {mv : Move} {s2 : State}

theorem doMove_fill (hmv : (p.stages.getD m (.empty, [])).2[i]? = some mv) (hfill : mv.fill = true)
    (hcheck : vcheck s (cmdOf s r.cmd).ctx (spillVa p core mv) mv.bytes false = .ok s1)
    (hread : vread s1 (cmdOf s r.cmd).ctx (spillVa p core mv) mv.bytes = .ok (bs, s2)) :
    doMove s core r p m i = advanceTile (fillState s s1 s2 core r p mv bs) core r p (.move m i) := by
  unfold spillVa at hcheck hread
  unfold doMove
  extract_lets c
  rw [hmv]
  dsimp only
  rw [hfill, Bool.not_true, hcheck]
  dsimp only
  rw [if_pos rfl, hread]
  rfl

theorem tileRange_clean {c : Machine.Core} (h : c.badTile = []) {wg space a n : Nat} (hspace : space ≠ 2) :
    c.badRange wg space a n = false := by
  unfold Core.badRange
  rw [if_neg hspace, h]
  rfl

theorem tileSpace_ne_two (a : Nat) : tileSpace a ≠ 2 := by
  unfold tileSpace
  split <;> decide

/-- The bytes that a spill moves. -/
def spillBytes (c : Machine.Core) (mv : Move) : List Byte :=
  (if tileSpace mv.tileAddr = 0 then c.tile else c.scratch).read (tileOff mv.tileAddr) mv.bytes

theorem doMove_spill (hmv : (p.stages.getD m (.empty, [])).2[i]? = some mv) (hfill : mv.fill = false) (hclean : (s.core core).badTile = [])
    (hcheck : vcheck s (cmdOf s r.cmd).ctx (spillVa p core mv) mv.bytes true = .ok s1)
    (hwrite : (vwrite s1 (cmdOf s r.cmd).ctx (spillVa p core mv) (spillBytes (s.core core) mv)).2 = none) :
    doMove s core r p m i = advanceTile (bumpBy (vwrite s1 (cmdOf s r.cmd).ctx (spillVa p core mv) (spillBytes (s.core core) mv)).1
      (uTensor core) 0x130 mv.bytes) core r p (.move m i) := by
  generalize hw : vwrite s1 _ _ _ = w at hwrite ⊢
  obtain ⟨t, f⟩ := w
  obtain rfl : f = none := hwrite
  unfold spillVa spillBytes at *
  unfold doMove
  extract_lets c
  rw [hmv]
  dsimp only
  rw [hfill, Bool.not_false, hcheck]
  dsimp only
  rw [if_neg Bool.false_ne_true, tileRange_clean hclean (tileSpace_ne_two _), if_neg Bool.false_ne_true, hw]

theorem writesOnly_writeRuns (s : State) (c : Nat) (rd : Nat → Byte) (l : List (Nat × List Nat)) : WritesOnly s (writeRuns s c rd l).1 := by
  induction l generalizing s with
  | nil => exact .refl s
  | cons e l ih =>
    obtain ⟨va, offs⟩ := e
    have hwrite := writesOnly_vwrite s c va (offs.map rd)
    rw [writeRuns]
    split
    next heq => rw [heq] at hwrite; exact hwrite
    next heq => rw [heq] at hwrite; exact hwrite.trans (ih _)

/-- The runs of an output slab of a tile. -/
def storeRuns (b : Slab) (p : CutPass) (t0 : Nat) : List (Nat × List Nat) :=
  b.runs p.hdr (t0 % p.hdr.gx) (t0 / p.hdr.gx % p.hdr.gy) (t0 / (p.hdr.gx * p.hdr.gy)) t0

theorem doStore_slab (hb : p.outSlabs[i]? = some b) (hclean : (s.core core).badTile = [])
    (hwrite : (writeRuns s (cmdOf s r.cmd).ctx (s.core core).tile.get (storeRuns b p (p.outTile r.tile r.combine))).2 = none) :
    doStore s core r p i = advanceTile (bumpBy
      (writeRuns s (cmdOf s r.cmd).ctx (s.core core).tile.get (storeRuns b p (p.outTile r.tile r.combine))).1
      (uTensor core) 0x120 ((storeRuns b p (p.outTile r.tile r.combine)).map fun e => e.2.length).sum) core r p (.store i) := by
  generalize hw : writeRuns s _ _ _ = w at hwrite ⊢
  obtain ⟨t, f⟩ := w
  obtain rfl : f = none := hwrite
  unfold doStore
  extract_lets c t0 k
  rw [hb]
  dsimp only
  have hgood : ((storeRuns b p t0).any fun e => e.2.any fun a => k.badRange 0 0 a 1) = false :=
    List.any_eq_false.mpr fun e _ => Bool.not_eq_true _ ▸ List.any_eq_false.mpr fun a _ =>
      Bool.not_eq_true _ ▸ tileRange_clean hclean (by decide)
  have hruns : b.runs p.hdr (p.tileX t0) (p.tileY t0) (p.tileZ t0) t0 = storeRuns b p t0 := rfl
  rw [hruns, hgood, if_neg Bool.false_ne_true, hw]

theorem doPart_store (hclean : (s.core core).badTile = [])
    (hcheck : vcheck s (cmdOf s r.cmd).ctx (p.hdr.partialArea + r.tile * p.hdr.partBytes) p.hdr.partBytes true = .ok s1)
    (hwrite : (vwrite s1 (cmdOf s r.cmd).ctx (p.hdr.partialArea + r.tile * p.hdr.partBytes)
      ((s.core core).tile.read p.hdr.partOff p.hdr.partBytes)).2 = none) :
    ∃ t, doPart s core r p = endTile t core r p := by
  generalize hw : vwrite s1 _ _ _ = w at hwrite
  obtain ⟨t, f⟩ := w
  obtain rfl : f = none := hwrite
  refine ⟨bumpBy t (uTensor core) 0x120 p.hdr.partBytes, ?_⟩
  unfold doPart
  extract_lets c k va
  rw [hcheck]
  dsimp only
  rw [tileRange_clean hclean (by decide), if_neg Bool.false_ne_true, hw]
  dsimp only
  rw [advanceTile_ends rfl]

/-! ### A stage starts -/

/-- The program of a stage, and its workgroup before it has its number. -/
def stageProg (r : TileRun) (p : CutPass) (n : Nat) : Prog :=
  if r.combine then p.combine.getD .empty else (p.stages.getD n (.empty, [])).1

def stageWg (s : State) (core : Nat) (r : TileRun) (p : CutPass) (n : Nat) : Wg :=
  let t0 := p.outTile r.tile r.combine
  { Wg.empty with
    live := true, ctx := (cmdOf s r.cmd).ctx, cmd := r.cmd, prog := stageProg r p n, threads := (stageProg r p n).threads, mapGen := p.gen
    tileIndex := r.tile, tileX := p.tileX t0 + p.tileZ t0 * 2 ^ 16, tileY := cutTileY p r
    scratchKib := p.hdr.scratchKib, scratch := (s.core core).scratch, stage := true }

/-- The core of a stage that has started: its workgroup's core, the errors renamed and the run marked. -/
def stagedCore (r : TileRun) (n slot : Nat) (c : Machine.Core) : Machine.Core := { c with
  badTile := c.badTile.map fun x => if x / 65536 = 32 then slot * 65536 + x % 65536 else x
  run := some { r with step := .stage n true } }

theorem exec_stageStart_takes {n slot : Nat} {slots : List Nat} {c1 : Machine.Core} (h : tileRun s core = some (r, p))
    (hstep : r.step = .stage n false)
    (hplace : (s.core core).placement (stageProg r p n) 0 (ceilDiv (stageProg r p n).threads 32) = some (slot, slots))
    (htake : (s.core core).takeNew s.sched.nextWid (stageWg s core r p n)
      (newGroups (cmdOf s r.cmd).ctx (stageProg r p n) p.args false (stageProg r p n).threads) = some c1) :
    exec (.stageStart core) s = .next ((nameWg s).setCore core (stagedCore r n slot c1)) := by
  have hlen : (newGroups (cmdOf s r.cmd).ctx (stageProg r p n) p.args false (stageProg r p n).threads).length =
      ceilDiv (stageProg r p n).threads 32 := by
    rw [newGroups, List.length_map, List.length_range]
  rw [← hlen] at hplace
  unfold stageWg at htake
  unfold stageProg at hplace htake
  rw [exec_stageStart, execStageStart, h]
  dsimp only
  rw [hstep]
  dsimp only
  rw [hplace]
  dsimp only at htake ⊢
  rw [htake]
  rfl

end

end Sys2Proof.Proofs

/-! Cut tiles (O27) from the steps of the tile engine. -/

namespace Sys2Proof.Proofs

open Sys2Proof.Machine

section
variable {s : State} {core n slot : Nat} {slots : List Nat} {r : TileRun} {p : CutPass}

/-- A stage's workgroup in its slot, each of its groups in its own. -/
theorem stageStart_starts (h : tileRun s core = some (r, p)) (hstep : r.step = .stage n false)
    (hplace : (s.core core).placement (stageProg r p n) 0 (ceilDiv (stageProg r p n).threads 32) = some (slot, slots)) :
    ∃ u, exec (.stageStart core) s = .next u ∧ (u.core core).run = some { r with step := .stage n true }
      ∧ (u.core core).wgAt slot = { stageWg s core r p n with wid := s.sched.nextWid }
      ∧ ∀ i gs, slots[i]? = some gs → ((u.core core).group gs).live = true ∧ ((u.core core).group gs).idx = i
        ∧ ((u.core core).group gs).pc = (stageProg r p n).entry ∧ ((u.core core).group gs).async = false := by
  obtain ⟨c1, htake, hwg, hgroups⟩ := takeIn_takes (c := s.core core) (w := { stageWg s core r p n with wid := s.sched.nextWid })
    (gs := (newGroups (cmdOf s r.cmd).ctx (stageProg r p n) p.args false (stageProg r p n).threads).map
      fun g => { g with gid := 32 * s.sched.nextWid + g.idx }) (slot := slot) (slots := slots) (by
        rw [List.length_map, newGroups, List.length_map, List.length_range]
        exact hplace)
  have hcore : ((nameWg s).setCore core (stagedCore r n slot c1)).core core = stagedCore r n slot c1 :=
    (State.setCore_core _ _ _ _).trans (if_pos rfl)
  refine ⟨_, exec_stageStart_takes h hstep hplace htake, ?_, ?_, fun i gs hi => ?_⟩
  · rw [hcore]
    rfl
  · rw [hcore]
    exact hwg
  · have hin : i < ceilDiv (stageProg r p n).threads 32 := by
      rw [← (placement_places hplace).1]
      exact (List.getElem?_eq_some_iff.mp hi).1
    have hx := hgroups i gs _ hi (by rw [List.getElem?_map, newGroups_getElem? hin]; rfl)
    rw [hcore]
    have hgroup : (stagedCore r n slot c1).group gs = c1.group gs := rfl
    rw [hgroup, hx]
    exact ⟨rfl, rfl, rfl, rfl⟩

/-- A load of an input slab or a partial block, from its bytes put into the reservation. -/
theorem advance_filled {s1 : State} (hreads : ReadsOnly s s1) (core a i : Nat) (bs : List Byte) (r : TileRun) (p : CutPass) :
    Filled s (advanceTile (bumpBy (putRes s1 core a bs) (uTensor core) 0x118 bs.length) core r p (.load i)) core a bs
      ∧ TileGoesOn (advanceTile (bumpBy (putRes s1 core a bs) (uTensor core) 0x118 bs.length) core r p (.load i)) core r p (.load i) := by
  obtain ⟨st, hst⟩ := after_load p r.combine i
  obtain ⟨-, hcore, hmem⟩ := advanceTile_run (bumpBy (putRes s1 core a bs) (uTensor core) 0x118 bs.length) core hst
  obtain ⟨htile, hdram, -⟩ := putRes_counted hreads core a 0x118 bs
  refine ⟨filled_of_write ?_ ?_, advanceTile_goesOn _ _ _ _ _⟩
  · rw [hcore]
    exact htile
  · rw [hmem]
    exact hdram

theorem tileWrites {s1 t : State} (hreads : ReadsOnly s s1) (hwrites : WritesOnly s1 t) (core : Nat) :
    (t.core core).tile = (s.core core).tile ∧ (t.core core).scratch = (s.core core).scratch := by
  rw [hwrites.core, hreads.core]
  exact ⟨rfl, rfl⟩

end

/-- Settles O27: a tile begins on a core whose hold its pass has or takes; a transfer that meets no fault moves its bytes and then
only names the next step, or ends the tile; a stage's workgroup is placed by `takeIn_takes`. -/
theorem cutTiles : Obligations.CutTiles := by
  unfold Obligations.CutTiles
  intro core s c
  refine ⟨fun cmd p t combine hp hgen hmay hnext hhold => ?_, fun r p h => ?_⟩
  · intro begun
    obtain ⟨s1, htake, hholder, hres, hothers⟩ := takeHold_takes hhold
    obtain ⟨hrun, hkeep, hreserved, hkib, hgroups⟩ := beginTile_begins s1 core cmd p t combine
    have hbegun : begun (beginTile s1 core cmd p t combine) := by
      refine ⟨hrun, hkeep.trans hholder, fun hn => ?_, fun k hk => (hgroups k hk).trans (by rw [hothers k hk])⟩
      exact ⟨hreserved.trans (hres hn).1, hkib.trans (hres hn).2⟩
    have hstart := startTile_starts hp hgen hmay hnext htake
    refine ⟨fun hc => ⟨⟨_, ?_, hbegun⟩, nextSeg_places (nextTile_segment (hc ▸ hnext))⟩, fun hc => ⟨_, ?_, hbegun⟩⟩
    · rw [exec_cutTileStart, execCutTileStart, ← hc, hstart]
    · rw [exec_combineTileStart, execCombineTileStart, ← hc, hstart]
  · intro ctx t0 next half filled
    have hseg0 (hseg : r.combine = false) : t0 = r.tile / p.split := if_neg (by rw [hseg]; exact Bool.false_ne_true)
    have hcomb0 (hcomb : r.combine = true) : t0 = r.tile := if_pos hcomb
    refine ⟨fun i b hstep hseg hb => ⟨fun bs s1 hahead hread => ?_, fun hahead => ?_⟩,
      fun i b n w bs s1 hstep hseg hmore hnone hb hdouble hbefore hin => ?_,
      fun i bs s1 hstep hcomb hread => ?_, fun m i mv bs s1 s2 hstep hmv hfill => ?_,
      fun m i mv s1 hstep hmv hfill hclean => ?_, fun i b hstep hb hclean => ?_,
      fun s1 hstep hclean => ?_, fun n slot slots hstep => ?_⟩
    · rw [hseg0 hseg] at hread
      exact ⟨_, (exec_transfer_load h hstep).trans (congrArg _ (doLoad_slab hseg hb hahead hread)),
        advance_filled (readsOnly_readRuns hread) core _ i bs r p⟩
    · obtain ⟨st, hst⟩ := after_load p r.combine i
      obtain ⟨-, hcore, -⟩ := advanceTile_run (s.setCore core { s.core core with ahead := (s.core core).ahead.filter (· != i) }) core hst
      rw [State.setCore_core, if_pos rfl] at hcore
      refine ⟨_, (exec_transfer_load h hstep).trans (congrArg _ (doLoad_ahead hseg hb hahead)), ?_, ?_, advanceTile_goesOn _ _ _ _ _⟩
      · rw [hcore]
      · rw [hcore]
        simp
    · intro t1 hread
      obtain ⟨htile, hdram, hrun⟩ := putRes_counted (readsOnly_readRuns hread) core (b.place p.hdr (!(s.core core).odd)) 0x118 bs
      refine ⟨_, (exec_transfer_ahead h hstep).trans (congrArg _ (doAhead_slab hseg hmore hnone hb hdouble hbefore hin hread)), ?_, ?_, ?_⟩
      · refine filled_of_write (s := s) ?_ hdram
        rw [State.setCore_core, if_pos rfl]
        exact htile
      · rw [State.setCore_core, if_pos rfl]
      · rw [State.setCore_core, if_pos rfl]
        exact hrun
    · rw [hcomb0 hcomb] at hread
      obtain ⟨⟨hput, -, -⟩, hnext⟩ := advance_filled (readsOnly_vread hread) core (i * p.hdr.partBytes) i bs r p
      exact ⟨_, (exec_transfer_load h hstep).trans (congrArg _ (doLoad_partial hcomb hread)), hput, hnext⟩
    · intro va hcheck hread
      obtain ⟨st, hst⟩ := after_move p r.combine m i
      obtain ⟨-, hcore, -⟩ := advanceTile_run (fillState s s1 s2 core r p mv bs) core hst
      obtain ⟨htile, hscratch⟩ := fillState_core s s1 s2 core r p mv bs
      refine ⟨_, (exec_transfer_move h hstep).trans (congrArg _ (doMove_fill hmv hfill hcheck hread)), fun k hk => ?_,
        advanceTile_goesOn _ _ _ _ _⟩
      rw [hcore, htile, hscratch]
      exact filledCore_get _ _ hk
    · intro va bs hcheck hwrite
      obtain ⟨st, hst⟩ := after_move p r.combine m i
      obtain ⟨-, hcore, hmem⟩ := advanceTile_run (bumpBy (vwrite s1 ctx va bs).1 (uTensor core) 0x130 mv.bytes) core hst
      obtain ⟨htile, hscratch⟩ := tileWrites (readsOnly_vcheck hcheck) (writesOnly_vwrite s1 ctx va bs) core
      rw [bumpBy_coreAt] at hcore
      refine ⟨_, (exec_transfer_move h hstep).trans (congrArg _ (doMove_spill hmv hfill hclean hcheck hwrite)), ?_, ?_, ?_,
        advanceTile_goesOn _ _ _ _ _⟩
      · exact congrArg MemSys.dram (hmem.trans (bumpBy_mem _ _ _ _))
      · exact (congrArg Core.tile hcore).trans htile
      · exact (congrArg Core.scratch hcore).trans hscratch
    · intro w hwrite
      refine ⟨_, (exec_transfer_store h hstep).trans (congrArg _ (doStore_slab hb hclean hwrite)), advanceTile_goesOn _ _ _ _ _,
        fun hmore => ?_, fun hend => ?_⟩
      · obtain ⟨st, hst⟩ := Option.isSome_iff_exists.mp hmore
        obtain ⟨-, hcore, hmem⟩ := advanceTile_run (bumpBy w.1 (uTensor core) 0x120 ((storeRuns b p t0).map fun e => e.2.length).sum)
          core hst
        rw [bumpBy_coreAt] at hcore
        refine ⟨congrArg MemSys.dram (hmem.trans (bumpBy_mem _ _ _ _)), ?_⟩
        exact (congrArg Core.tile hcore).trans (tileWrites (.refl s) (writesOnly_writeRuns s ctx c.tile.get (storeRuns b p t0)) core).1
      · rw [advanceTile_ends hend]
        exact (endTile_ends _ _ _ _).1
    · intro va bs hcheck hwrite
      obtain ⟨t, ht⟩ := doPart_store (s := s) (core := core) (r := r) (p := p) hclean hcheck hwrite
      obtain ⟨hrun, hcuts⟩ := endTile_ends t core r p
      refine ⟨_, (exec_transfer_part h hstep).trans (congrArg _ ht), hrun, ?_⟩
      split
      · rfl
      next hseg =>
        rw [hcuts, tget?_tset, if_pos rfl, countTile, if_neg hseg]
        show some (tget (tset p.segDone core _) core 0) = _
        rw [tget_tset, if_pos rfl]
    · intro prog hplace
      obtain ⟨u, hexec, hrun, hwg, hgroups⟩ := stageStart_starts h hstep hplace
      refine ⟨u, hexec, ?_⟩
      show (u.core core).run = _ ∧ ((u.core core).wgAt slot).live = true ∧ _
      rw [hwg]
      exact ⟨hrun, rfl, rfl, rfl, rfl, rfl, rfl, rfl, rfl, rfl, rfl, rfl, rfl, hgroups⟩

end Sys2Proof.Proofs

/-! What a Chipper decoder accepts and keeps (O30): the limits of a header that is accepted, and the tokens of a block, each of which
adds at least one byte to the stream and keeps the dictionary's entries between 2 and 16 bytes. -/

namespace Sys2Proof.Proofs

open Sys2Proof.Machine

theorem blockHdr_limits {b : List Byte} {h : BlockHdr} (hh : blockHdr b = some h) :
    fieldAt b 0 2 = 0x4332 ∧ fieldAt b 2 1 = 2 ∧ h.flags < 8 ∧ h = ⟨fieldAt b 3 1, fieldAt b 4 4, fieldAt b 8 4, fieldAt b 12 4⟩
      ∧ h.out ≤ 262144 ∧ (if h.stored = true then h.payload = h.out else 1 ≤ h.out ∧ 1 ≤ h.payload ∧ h.payload ≤ 294914) := by
  unfold blockHdr at hh
  extract_lets h0 sizes at hh
  split at hh
  next hall =>
    obtain ⟨hmagic, hversion, hflags, hsizes⟩ := hall
    obtain rfl : h0 = h := Option.some.inj hh
    refine ⟨hmagic, hversion, hflags, rfl, ?_⟩
    unfold sizes at hsizes
    split at hsizes
    next hst =>
      rw [Bool.and_eq_true, decide_eq_true_eq, beq_iff_eq] at hsizes
      exact ⟨hsizes.1, by rw [if_pos hst]; exact hsizes.2⟩
    next hst =>
      obtain ⟨hout, hmax, hpay, hpmax⟩ := decide_eq_true_eq.mp hsizes
      exact ⟨hmax, by rw [if_neg hst]; exact ⟨hout, hpay, hpmax⟩⟩
  · cases hh

/-! ### Dictionaries -/

/-- A stream whose dictionary and predecessor have the sizes of R386. -/
def GoodStrm (x : Strm) : Prop := x.dict.length ≤ 4096 ∧ (∀ e ∈ x.dict, 2 ≤ e.length ∧ e.length ≤ 16)
  ∧ (∀ q, x.prev = some q → 1 ≤ q.length ∧ q.length ≤ 16)

theorem goodStrm_congr {x y : Strm} (hd : y.dict = x.dict) (hp : y.prev = x.prev) (h : GoodStrm x) : GoodStrm y := by
  unfold GoodStrm
  rw [hd, hp]
  exact h

theorem goodStrm_empty {x : Strm} (hd : x.dict = []) (hp : x.prev = none) : GoodStrm x := by
  refine ⟨by rw [hd]; exact Nat.zero_le _, fun e he => ?_, fun q hq => ?_⟩
  · rw [hd] at he
    cases he
  · rw [hp] at hq
    cases hq

theorem after_prev (t : Strm) (p : List Byte) : (t.after p).prev = some (p.take 16) := rfl

/-- A token of at least one byte keeps the sizes. -/
theorem goodStrm_after {t : Strm} {p : List Byte} (h : GoodStrm t) (hp : 1 ≤ p.length) : GoodStrm (t.after p) := by
  obtain ⟨hlen, hsizes, hprev⟩ := h
  have htaken : ∀ q, (t.after p).prev = some q → 1 ≤ q.length ∧ q.length ≤ 16 := fun q hq => by
    rw [after_prev] at hq
    obtain rfl := Option.some.inj hq
    rw [List.length_take]
    omega
  have hdict : (t.after p).dict.length ≤ 4096 ∧ ∀ e ∈ (t.after p).dict, 2 ≤ e.length ∧ e.length ≤ 16 := by
    unfold Strm.after
    extract_lets dict
    show dict.length ≤ 4096 ∧ ∀ e ∈ dict, 2 ≤ e.length ∧ e.length ≤ 16
    unfold dict
    split
    next q hq =>
      split
      next hroom =>
        refine ⟨by rw [List.length_append, List.length_singleton]; omega, fun e he => ?_⟩
        rcases List.mem_append.mp he with he | he
        · exact hsizes e he
        · rw [List.mem_singleton.mp he, List.length_append, List.length_take]
          have := hprev q hq
          omega
      · exact ⟨hlen, hsizes⟩
    · exact ⟨hlen, hsizes⟩
  exact ⟨hdict.1, hdict.2, htaken⟩

/-! ### Tokens -/

/-- A decoder that has only read: the same stream, the same bytes still to come, the same memory. -/
structure SameOut (d e : Decoder) : Prop where
  strm : e.strm = d.strm
  left : e.left = d.left
  reads : ReadsOnly d.s e.s

theorem SameOut.trans {a b c : Decoder} (h : SameOut a b) (k : SameOut b c) : SameOut a c :=
  ⟨k.strm.trans h.strm, k.left.trans h.left, h.reads.trans k.reads⟩

theorem get_sameOut {d e : Decoder} {n v : Nat} (h : d.get n = some (v, e)) : SameOut d e := by
  unfold Decoder.get at h
  split at h
  · cases h; exact ⟨rfl, rfl, .refl _⟩
  · cases h

theorem readsOnly_locRead {s t : State} {l : Loc} {a n : Nat} {bs : List Byte} (h : locRead s l a n = .ok (bs, t)) : ReadsOnly s t := by
  unfold locRead at h
  cases l with
  | virt c => exact readsOnly_vread h
  | obj o =>
    dsimp only at h
    split at h
    · cases h
    · split at h
      · cases h
      · obtain rfl : (devRead s _ n).2 = t := congrArg Prod.snd (Except.ok.inj h)
        exact readsOnly_devRead _ _ _

theorem readsOnly_readBack {s t : State} {l : Loc} {x : Strm} {o n : Nat} {bs : List Byte} (h : readBack s l x o n = .ok (bs, t)) :
    ReadsOnly s t := by
  induction n generalizing t bs with
  | zero => cases h; exact .refl s
  | succ n ih =>
    rw [readBack] at h
    split at h
    · cases h
    next bs1 s1 h1 =>
      split at h
      · cases h
      next h2 => cases h; exact (ih h1).trans (readsOnly_locRead h2)

theorem back_sameOut {d e : Decoder} {n dist : Nat} {p : List Byte} (h : d.back n dist = .ok (p, e)) : SameOut d e ∧ p.length = n := by
  unfold Decoder.back at h
  extract_lets m o k at h
  split at h
  · cases h
  next hread =>
    cases h
    exact ⟨⟨rfl, rfl, readsOnly_readBack hread⟩, by rw [List.length_map, List.length_range]⟩

/-- What a token does to its decoder: END adds nothing, another adds a word of the dictionary or at least one byte, and no more bytes
than are to come. -/
def TokenAdds (d : Decoder) (r : Except (DecFail × Decoder) (Option Decoder × Decoder)) : Prop :=
  match r with
  | .error _ => True
  | .ok (none, d1) => SameOut d d1
  | .ok (some d1, _) => ∃ e p, SameOut d e ∧ d1 = e.emit p ∧ (p ∈ d.strm.dict ∨ 1 ≤ p.length) ∧ p.length ≤ d.left

theorem tokenAdds_put {d e : Decoder} {p : List Byte} (h : SameOut d e) (hp : p ∈ d.strm.dict ∨ 1 ≤ p.length) (f : DecFail) :
    TokenAdds d (if d.left < p.length then .error (f, d) else .ok (some (e.emit p), e)) := by
  split
  · trivial
  next hfits => exact ⟨e, p, h, rfl, hp, Nat.not_lt.mp hfits⟩

theorem token_adds (d : Decoder) : TokenAdds d d.token := by
  unfold Decoder.token
  extract_lets cut tooLong put copy
  have hput (e : Decoder) (p : List Byte) (h : SameOut d e) (hp : p ∈ d.strm.dict ∨ 1 ≤ p.length) : TokenAdds d (put e p) := tokenAdds_put h hp _
  have hcopy (e : Decoder) (n : Nat) (h : SameOut d e) (hn : 1 ≤ n) : TokenAdds d (copy e n) := by
    unfold copy
    split
    · trivial
    next c e1 h1 =>
      split
      · trivial
      next v e2 h2 =>
        extract_lets dist
        split
        · trivial
        · split
          · trivial
          · split
            · trivial
            next p e3 h3 =>
              obtain ⟨hback, hlen⟩ := back_sameOut h3
              have h23 := ((h.trans (get_sameOut h1)).trans (get_sameOut h2)).trans hback
              exact hput _ p ⟨h23.strm, h23.left, h23.reads⟩ (.inr (hlen ▸ hn))
  clear_value put copy
  split
  · trivial
  next d1 h1 =>
    split
    · trivial
    next v d2 h2 => exact hput d2 _ ((get_sameOut h1).trans (get_sameOut h2)) (.inr (le_refl _))
  next d1 _ h1 =>
    have hd1 := get_sameOut h1
    split
    · trivial
    next d2 h2 =>
      split
      · trivial
      next c d3 h3 =>
        split
        · trivial
        next p hp =>
          exact hput d3 p ((hd1.trans (get_sameOut h2)).trans (get_sameOut h3)) (.inl (List.mem_of_getElem? hp))
    next d2 _ h2 =>
      have hd2 := hd1.trans (get_sameOut h2)
      split
      · trivial
      next d3 h3 =>
        split
        · trivial
        next v d4 h4 => exact hcopy d4 _ ((hd2.trans (get_sameOut h3)).trans (get_sameOut h4)) (by omega)
      next d3 _ h3 =>
        split
        · trivial
        next v d4 h4 =>
          have hd4 := (hd2.trans (get_sameOut h3)).trans (get_sameOut h4)
          split
          · exact hd4
          · split
            · trivial
            · exact hcopy d4 _ hd4 (by omega)

/-! ### Blocks -/

/-- A decoder in a block of `out` bytes that begins at a stream offset: what it has put out stands in the history. -/
structure InBlock (off out : Nat) (d : Decoder) : Prop where
  good : GoodStrm d.strm
  begun : off ≤ d.strm.off
  count : d.strm.off + d.left = off + out
  hist : d.strm.off - off ≤ d.strm.hist.length

theorem inBlock_congr {off out : Nat} {d e : Decoder} (h : InBlock off out d) (k : SameOut d e) : InBlock off out e := by
  obtain ⟨hs, hl, -⟩ := k
  exact ⟨hs ▸ h.good, hs ▸ h.begun, by rw [hs, hl]; exact h.count, hs ▸ h.hist⟩

theorem inBlock_emit {off out : Nat} {d : Decoder} {p : List Byte} (h : InBlock off out d) (hp : 1 ≤ p.length) (hfits : p.length ≤ d.left) :
    InBlock off out (d.emit p) where
  good := goodStrm_congr rfl rfl (goodStrm_after h.good hp)
  begun := h.begun.trans (Nat.le_add_right _ _)
  count := by
    show d.strm.off + p.length + (d.left - p.length) = off + out
    have := h.count
    omega
  hist := by
    show d.strm.off + p.length - off ≤ (p.reverse ++ d.strm.hist).length
    have := h.hist
    rw [List.length_append, List.length_reverse]
    omega

theorem tokens_inBlock {off out fuel : Nat} {d e : Decoder} (h : InBlock off out d) (hok : d.tokens fuel = .ok e) : InBlock off out e := by
  induction fuel generalizing d with
  | zero => cases hok
  | succ fuel ih =>
    have hadds := token_adds d
    rw [Decoder.tokens] at hok
    split at hok
    · cases hok
    next d1 heq =>
      cases hok
      rw [heq] at hadds
      exact inBlock_congr h hadds
    next d1 d0 heq =>
      rw [heq] at hadds
      obtain ⟨e1, p, hsame, rfl, hp, hfits⟩ := hadds
      have hlen : 1 ≤ p.length := hp.elim (fun hm => Nat.le_of_succ_le (h.good.2.1 p hm).1) id
      exact ih (inBlock_emit (inBlock_congr h hsame) hlen (hsame.left.symm ▸ hfits)) hok

/-- Tokens read memory and write none. -/
theorem tokens_reads {fuel : Nat} {d e : Decoder} (hok : d.tokens fuel = .ok e) : ReadsOnly d.s e.s := by
  induction fuel generalizing d with
  | zero => cases hok
  | succ fuel ih =>
    have hadds := token_adds d
    rw [Decoder.tokens] at hok
    split at hok
    · cases hok
    next d1 heq =>
      cases hok
      rw [heq] at hadds
      exact hadds.reads
    next d1 d0 heq =>
      rw [heq] at hadds
      obtain ⟨e1, p, hsame, rfl, -⟩ := hadds
      exact hsame.reads.trans (ih (d := e1.emit p) hok)

/-- A block's last step: its check, then the stream moved to the next block. -/
def finishBlock (t : Strm) (check : Nat) (u : Strm) (out : List Byte) (far : Nat) (s : State) : BlockOut :=
  if crcCheck 0 t.off t.block 0 out ≠ check then BlockOut.mk out (some (.code cVerify 2)) u far s
  else ⟨out, none, { u with block := (t.block + 1) % 2 ^ 32, hist := u.hist.take 262144 }, far, s⟩

theorem finishBlock_good {t u : Strm} {check far : Nat} {out : List Byte} {s : State} (h : (finishBlock t check u out far s).fail = none) :
    crcCheck 0 t.off t.block 0 out = check ∧ finishBlock t check u out far s =
      ⟨out, none, { u with block := (t.block + 1) % 2 ^ 32, hist := u.hist.take 262144 }, far, s⟩ := by
  unfold finishBlock at h ⊢
  split at h
  · cases h
  next hcheck => exact ⟨not_not.mp hcheck, if_neg hcheck⟩

theorem finishBlock_bytes (t u : Strm) (check far : Nat) (out : List Byte) (s : State) :
    (finishBlock t check u out far s).bytes = out ∧ ((finishBlock t check u out far s).fail = none
      ∨ (finishBlock t check u out far s).fail = some (.code 0x13 2)) := by
  unfold finishBlock
  split
  · exact ⟨rfl, .inr rfl⟩
  · exact ⟨rfl, .inl rfl⟩

section
variable (s : State) (l : Loc) (t : Strm) (h : BlockHdr) (pl : List Byte)

/-- The stream at the start of a block, its dictionary reset where the header says so. -/
def startStrm (t : Strm) (h : BlockHdr) : Strm := if h.reset then { t with dict := [], prev := none } else t

theorem startStrm_rest (t : Strm) (h : BlockHdr) : (startStrm t h).off = t.off ∧ (startStrm t h).hist = t.hist
    ∧ (startStrm t h).dict = if h.reset then [] else t.dict := by
  unfold startStrm
  split
  next hr => exact ⟨rfl, rfl, rfl⟩
  · exact ⟨rfl, rfl, rfl⟩

theorem goodStrm_start {t : Strm} (hgood : GoodStrm t) (h : BlockHdr) : GoodStrm (startStrm t h) := by
  unfold startStrm
  split
  · exact goodStrm_empty rfl rfl
  · exact hgood

theorem decodeBlock_stored (hst : h.stored = true) : decodeBlock s l t h pl = finishBlock t h.check
    { startStrm t h with off := t.off + h.out, prev := none, hist := pl.reverse ++ t.hist } pl 0 s := by
  unfold decodeBlock
  extract_lets t0 finish
  rw [if_pos hst]
  rfl

/-- The decoder of a block that is not stored, before its first token. -/
def startDecoder : Decoder := ⟨s, l, t.off, leNat pl, 8 * pl.length, 0, startStrm t h, h.out, 0⟩

theorem inBlock_start (hgood : GoodStrm t) : InBlock t.off h.out (startDecoder s l t h pl) := by
  obtain ⟨hoff, hhist, -⟩ := startStrm_rest t h
  refine ⟨goodStrm_start hgood h, ?_, ?_, ?_⟩
  · show t.off ≤ (startStrm t h).off
    rw [hoff]
  · show (startStrm t h).off + h.out = _
    rw [hoff]
  · show (startStrm t h).off - t.off ≤ _
    rw [hoff, Nat.sub_self]
    exact Nat.zero_le _

/-- The bytes that a decoder has put out in its block. -/
def putOut (off : Nat) (d : Decoder) : List Byte := (d.strm.hist.take (d.strm.off - off)).reverse

variable {s l t h pl}

/-- A block of tokens that does not fail: the tokens gave all its bytes. -/
theorem decodeBlock_tokens (hst : h.stored ≠ true) (hok : (decodeBlock s l t h pl).fail = none) :
    ∃ d, (startDecoder s l t h pl).tokens (8 * pl.length + 1) = .ok d ∧ d.left = 0
      ∧ decodeBlock s l t h pl = finishBlock t h.check d.strm (putOut t.off d) d.far d.s := by
  have heq : decodeBlock s l t h pl = match (startDecoder s l t h pl).tokens (8 * pl.length + 1) with
      | .error (f, d) => ⟨putOut t.off d, some f, d.strm, d.far, d.s⟩
      | .ok d =>
        if d.left ≠ 0 then ⟨putOut t.off d, some (.code cOverrun 1), d.strm, d.far, d.s⟩
        else if d.x / 2 ^ d.at_ ≠ 0 ∨ 8 ≤ d.bits - d.at_ then ⟨putOut t.off d, some (.code cIllegalCode 5), d.strm, d.far, d.s⟩
        else finishBlock t h.check d.strm (putOut t.off d) d.far d.s := by
    unfold decodeBlock
    extract_lets t0 finish
    rw [if_neg hst]
    rfl
  rw [heq] at hok ⊢
  cases htok : (startDecoder s l t h pl).tokens (8 * pl.length + 1) with
  | error e =>
    rw [htok] at hok
    cases hok
  | ok d =>
    rw [htok] at hok
    dsimp only at hok ⊢
    split at hok
    · cases hok
    next hleft =>
      split at hok
      · cases hok
      next hrest => exact ⟨d, rfl, not_not.mp hleft, by rw [if_neg hleft, if_neg hrest]⟩

/-- A block that does not fail only reads: the history, where the engine no longer has it. -/
theorem decodeBlock_reads (hok : (decodeBlock s l t h pl).fail = none) : ReadsOnly s (decodeBlock s l t h pl).s := by
  by_cases hst : h.stored = true
  · rw [decodeBlock_stored s l t h pl hst] at hok ⊢
    rw [(finishBlock_good hok).2]
    exact .refl s
  · obtain ⟨d, htok, -, heq⟩ := decodeBlock_tokens hst hok
    rw [heq] at hok ⊢
    rw [(finishBlock_good hok).2]
    exact tokens_reads htok

end

/-- Settles O30: the header from its fields; a stored block by its one step; a block of tokens by induction on them, each adding at
least one byte that the history then holds. -/
theorem chipperStreams : Obligations.ChipperStreams := by
  unfold Obligations.ChipperStreams
  refine ⟨fun b h hh => ?_, fun s l t h pl hlen hsize => ?_, fun t p => ⟨rfl, rfl⟩⟩
  · obtain ⟨hmagic, hversion, hflags, heq, hout, hsizes⟩ := blockHdr_limits hh
    have hst : h.stored = h.flags.testBit 2 := rfl
    rw [hst] at hsizes
    subst heq
    exact ⟨hmagic, hversion, hflags, rfl, rfl, rfl, rfl, hout, hsizes⟩
  · intro good r
    refine ⟨fun hgood hfail => ?_, fun hst => ?_⟩
    · by_cases hst : h.stored = true
      · have heq : r = _ := decodeBlock_stored s l t h pl hst
        rw [heq] at hfail
        obtain ⟨hcheck, hfin⟩ := finishBlock_good hfail
        rw [heq, hfin]
        have hstart := goodStrm_start hgood h
        exact ⟨⟨hstart.1, hstart.2.1, fun q hq => by cases hq⟩, hlen.trans (hsize hst), hcheck, rfl, rfl⟩
      · obtain ⟨d, htok, hleft, heq⟩ := decodeBlock_tokens hst hfail
        have heq' : r = _ := heq
        rw [heq'] at hfail
        obtain ⟨hcheck, hfin⟩ := finishBlock_good hfail
        have hd := tokens_inBlock (inBlock_start s l t h pl hgood) htok
        have hcount := hd.count
        rw [hleft, Nat.add_zero] at hcount
        rw [heq', hfin]
        refine ⟨goodStrm_congr rfl rfl hd.good, ?_, hcheck, hcount, rfl⟩
        have hhist := hd.hist
        show (putOut t.off d).length = h.out
        rw [putOut, List.length_reverse, List.length_take]
        omega
    · have heq : r = _ := decodeBlock_stored s l t h pl hst
      obtain ⟨hbytes, hfails⟩ := finishBlock_bytes t { startStrm t h with off := t.off + h.out, prev := none, hist := pl.reverse ++ t.hist }
        h.check 0 pl s
      rw [heq]
      refine ⟨hbytes, hfails, fun hok => ?_⟩
      obtain ⟨-, hfin⟩ := finishBlock_good hok
      rw [hfin]
      exact ⟨rfl, (startStrm_rest t h).2.2⟩

end Sys2Proof.Proofs

/-! Chipper jobs and weight segments (O32): GO, one block of a job of each mode, the end of a job, a block of a segment, and the
stream fence after a segment. Taking a block's bytes and decoding it leave the grants, by which a job's context is found. -/

namespace Sys2Proof.Proofs

open Sys2Proof.Machine

/-! ### GO -/

section
variable {a : Access} {c t ctx : Nat} {s : State}

/-- What keeps a job from starting (R390). -/
def RefusesGo (s : State) (t : Nat) (x : EngCtx) : Prop :=
  x.job.isSome = true ∨ x.fieldsOk = false ∨ x.continueOk = false ∨ (x.blazeEn = true ∧ bzFree s t x.blazeCtx = false)

theorem exec_chGo (hup : accUp s a = true) (hgrant : tget? s.chipGrants c = some (t, ctx)) (htenant : accTenant s a = some t)
    (hgo : (accOnes a).getLsbD 0 = true) :
    (RefusesGo s t (s.engCtx c) → exec (.chGo a c) s = .next (accLog (setEngCtx s c { s.engCtx c with result := 2 }) a t 0xA (chOff c 0x38)))
      ∧ (¬RefusesGo s t (s.engCtx c) → exec (.chGo a c) s = .next (startJob s c)) := by
  have hiff : ((s.engCtx c).job.isSome = true ∨ (!(s.engCtx c).fieldsOk) = true ∨ (!(s.engCtx c).continueOk) = true
      ∨ ((s.engCtx c).blazeEn = true ∧ (!bzFree s t (s.engCtx c).blazeCtx) = true)) ↔ RefusesGo s t (s.engCtx c) := by
    simp only [RefusesGo, Bool.not_eq_true']
  rw [Machine.exec_chGo, execChGo, hup, Bool.not_true, if_neg Bool.false_ne_true, hgrant]
  dsimp only
  rw [if_neg (not_not.mpr htenant), hgo, Bool.not_true, if_neg Bool.false_ne_true]
  exact ⟨fun h => by rw [if_pos (hiff.mpr h)], fun h => by rw [if_neg (hiff.not.mpr h)]⟩

/-- The job of a page's register values. -/
def newJob (x : EngCtx) : EngJob :=
  { mode := x.mode, src := x.srcVa, dst := x.dstVa, srcBytes := bitsReg x.len 31 0, limit := bitsReg x.len 63 32
    block := bitsReg x.ctl 22 16 * 4096, ends := x.ctl.getLsbD 3, report := x.ctl.getLsbD 4
    blaze := if x.blazeEn then some (x.blazeCtx, x.ctl.getLsbD 6) else none
    fence := if x.fence.getLsbD 15 then some (bitsReg x.fence 13 0) else none, value := x.value.toNat, area := x.stateVa, xfer := none
    pos := 0, buf := [], out := 0, frame := []
    strm := if x.continues then x.stream.getD (.fresh x.mode) else .fresh x.mode
    opened := false, suspended := false, load := x.continues, finished := false }

/-- The page of a job that has started. -/
def startedPage (s : State) (x : EngCtx) : EngCtx := { x with
  job := some ((newJob x).placed s)
  outBytes := 0
  inBytes := 0
  stream := if x.continues || x.mode == 2 then x.stream else none }

theorem startJob_eq (s : State) (c : Nat) :
    startJob s c = attachBz (setEngCtx s c (startedPage s (s.engCtx c))) c (newJob (s.engCtx c)).blaze := rfl

theorem setEngCtx_engCtx (s : State) (c k : Nat) (x : EngCtx) : (setEngCtx s c x).engCtx k = if k = c then x else s.engCtx k :=
  tget_tset _ _ _ _ _

theorem attachBz_rest (s : State) (c : Nat) (b : Option (Nat × Bool)) :
    (attachBz s c b).engCtxs = s.engCtxs ∧ (attachBz s c b).mem = s.mem := by
  cases b <;> exact ⟨rfl, rfl⟩

theorem startJob_engCtx (s : State) (c k : Nat) :
    (startJob s c).engCtx k = if k = c then startedPage s (s.engCtx c) else s.engCtx k := by
  rw [startJob_eq, State.engCtx, (attachBz_rest _ _ _).1]
  exact setEngCtx_engCtx _ _ _ _

theorem startJob_attached (hen : (s.engCtx c).blazeEn = true) : ((startJob s c).bz (s.engCtx c).blazeCtx).attached = some c := by
  have hb : (newJob (s.engCtx c)).blaze = some ((s.engCtx c).blazeCtx, (s.engCtx c).ctl.getLsbD 6) := if_pos hen
  rw [startJob_eq, hb, attachBz, setBz, State.bz, tget_tset, if_pos rfl]

theorem bitsReg_low (x : DWord) (hi : Nat) : bitsReg x hi 0 = x.toNat % 2 ^ (hi + 1) := rfl

theorem bitsReg_high (x : DWord) (lo : Nat) (hlo : lo ≤ 64) : bitsReg x 63 lo = x.toNat / 2 ^ lo := by
  rw [bitsReg, bitsOf, Nat.shiftRight_eq_div_pow, Nat.mod_eq_of_lt]
  rw [Nat.div_lt_iff_lt_mul (Nat.two_pow_pos _), ← Nat.pow_add, Nat.sub_add_cancel (by omega)]
  exact x.isLt

theorem stateVa_eq (x : EngCtx) : x.stateVa = x.state.toNat / 2 ^ 12 % 2 ^ 36 * 2 ^ 12 := by
  rw [EngCtx.stateVa, bitsReg, bitsOf, Nat.shiftRight_eq_div_pow]
  rfl

theorem placed_rest (s : State) (j : EngJob) : j.placed s = { j with strm := { j.strm with pieces := (j.placed s).strm.pieces } } := rfl

theorem newJob_fresh {x : EngCtx} (h : x.ctl.getLsbD 2 = false) : (newJob x).strm = .fresh (newJob x).mode :=
  if_neg (by rw [EngCtx.continues, h]; exact Bool.false_ne_true)

end

/-! ### Taking a block's bytes -/

theorem ReadsOnly.chipGrants {s t : State} (h : ReadsOnly s t) : t.chipGrants = s.chipGrants := (congrArg State.chipGrants h.rest :)

/-- Bytes of a job's source taken: the grants are left, and of the job all but its place in the source. -/
structure Took (s t : State) (j k : EngJob) : Prop where
  grants : t.chipGrants = s.chipGrants
  job : k = { j with pos := k.pos, buf := k.buf }

theorem Took.trans {s t u : State} {j k l : EngJob} (h : Took s t j k) (h' : Took t u k l) : Took s u j l :=
  ⟨h'.grants.trans h.grants, by rw [h'.job, h.job]⟩

theorem Took.bound {s t : State} {j k : EngJob} (h : Took s t j k) (c : Nat) : boundCtx t c = boundCtx s c := by
  rw [boundCtx, boundCtx, h.grants]

theorem Took.strm {s t : State} {j k : EngJob} (h : Took s t j k) : k.strm = j.strm := (congrArg EngJob.strm h.job :)
theorem Took.mode {s t : State} {j k : EngJob} (h : Took s t j k) : k.mode = j.mode := (congrArg EngJob.mode h.job :)

section
variable {s t : State} {e ctx n z : Nat} {j k : EngJob} {bs : List Byte}

theorem rawTake_took (h : rawTake s e ctx j n = .ok (bs, t, k)) : Took s t j k := by
  unfold rawTake at h
  split at h
  · split at h <;> cases h
  next hread =>
    cases h
    exact ⟨(bumpBy_chipGrants _ _ _ _).trans (readsOnly_locRead hread).chipGrants, rfl⟩

theorem countFrame_grants (s : State) (z n off : Nat) : (countFrame s z n off).chipGrants = s.chipGrants := by
  rw [countFrame, bump_chipGrants, bumpBy_chipGrants]

theorem stripFrame_took (h : stripFrame s e ctx j z = (t, .ok k)) : Took s t j k := by
  unfold stripFrame at h
  dsimp only at h
  split at h
  · cases h
  · split at h
    · cases h
    next htake =>
      have h1 := rawTake_took htake
      split at h
      · cases h
      · cases h
        exact ⟨(countFrame_grants _ _ _ _).trans h1.grants, by rw [h1.job]⟩

theorem fillBuf_took {fuel : Nat} (h : fillBuf fuel s e ctx j z n = (t, .ok k)) : Took s t j k := by
  induction fuel generalizing s j with
  | zero => cases h; exact ⟨rfl, rfl⟩
  | succ fuel ih =>
    rw [fillBuf] at h
    split at h
    · cases h; exact ⟨rfl, rfl⟩
    · split at h
      · cases h
      next hstrip => exact (stripFrame_took hstrip).trans (ih h)

theorem jobTake_took (h : jobTake s e ctx j n = (t, .ok (bs, k))) : Took s t j k := by
  unfold jobTake at h
  split at h
  · split at h
    · cases h
    next hfill =>
      cases h
      have h1 := fillBuf_took hfill
      exact ⟨h1.grants, by rw [h1.job]⟩
  · split at h
    · cases h
    next htake =>
      cases h
      exact rawTake_took htake

end

/-! ### A block put out -/

section
variable {s s0 : State} {e c at_ : Nat} {j j1 : EngJob} {bs : List Byte} {strm : Strm} {ended : Bool}

/-- What a job that has source left is after its block. -/
def BlockDone (u : State) (c : Nat) (k : EngJob) (strm : Strm) (opened : Bool) : Prop := k.drained = false →
  (u.engCtx c).job = some { k with strm := strm, opened := opened } ∧ (u.engCtx c).outBytes = k.out

theorem bumps_mem (s : State) (unit : Nat) (l : List Nat) : (l.foldl (fun s o => bump s unit o) s).mem = s.mem := by
  induction l generalizing s with
  | nil => rfl
  | cons o l ih => exact (ih _).trans (bump_mem _ _ _)

theorem putJob_done (s : State) (c : Nat) (k : EngJob) (strm : Strm) (opened : Bool) :
    ((putJob s c { k with strm := strm, opened := opened }).engCtx c).job = some { k with strm := strm, opened := opened }
      ∧ ((putJob s c { k with strm := strm, opened := opened }).engCtx c).outBytes = k.out := by
  rw [putJob, setEngCtx_engCtx, if_pos rfl]
  exact ⟨rfl, rfl⟩

/-- A block written whose stream goes on, or that is not of a decompressing job. -/
theorem putBlock_done (counts : List Nat) (hwrite : jobWrite s e (boundCtx s c) j bs = (s0, j1, none))
    (hgoes : (ended && j.mode == 0) = false) :
    BlockDone (putBlock s e c j at_ bs strm ended counts) c j1 strm (!ended)
      ∧ (j1.drained = false → (putBlock s e c j at_ bs strm ended counts).mem = s0.mem) := by
  have heq (hmore : j1.drained = false) : putBlock s e c j at_ bs strm ended counts =
      putJob (counts.foldl (fun s o => bump s (uChip e) o) s0) c { j1 with strm := strm, opened := !ended } := by
    have hmore' : EngJob.drained { j1 with strm := strm, opened := !ended } = false := hmore
    unfold putBlock
    extract_lets ctx
    rw [hwrite]
    dsimp only
    rw [hgoes, Bool.false_and, if_neg Bool.false_ne_true, hmore', Bool.not_false, if_pos rfl]
  refine ⟨fun hmore => ?_, fun hmore => ?_⟩
  · rw [heq hmore]
    exact putJob_done _ _ _ _ _
  · rw [heq hmore]
    exact bumps_mem s0 _ counts

/-- The page of a job that has failed by a code. -/
def failedPage (x : EngCtx) (j : EngJob) (k d off : Nat) : EngCtx := { x with
  code := k, detail := d, result := 3, errAt := off, outBytes := j.out, inBytes := j.pos, stream := none, job := none }

/-- A job that fails by a code, with nothing to signal and no transfer: its page says so, and nothing is written. -/
theorem failJob_code {k d off : Nat} (hfence : j.fence = none) (hreport : j.report = true) (hxfer : j.xfer = none) (hblaze : j.blaze = none)
    (hcode : k ≠ cEcc) : failJob s e c j at_ (.code k d (uChip e) off) =
      bump (setEng (setEngCtx s c (failedPage (s.engCtx c) j k d (0 + at_))) e { s.eng e with cur := none }) (uChip e) 0x138 := by
  simp only [failJob, hxfer, hfence, hblaze, hreport, notePoison, hcode, false_and, if_false, Bool.not_true, if_true,
    Option.map_none, Option.getD_none, Bool.false_eq_true]
  rfl

theorem failJob_code_page {k d off : Nat} (hfence : j.fence = none) (hreport : j.report = true) (hxfer : j.xfer = none)
    (hblaze : j.blaze = none) (hcode : k ≠ cEcc) :
    (failJob s e c j at_ (.code k d (uChip e) off)).engCtx c = failedPage (s.engCtx c) j k d (0 + at_)
      ∧ (failJob s e c j at_ (.code k d (uChip e) off)).mem = s.mem := by
  rw [failJob_code hfence hreport hxfer hblaze hcode]
  refine ⟨?_, bump_mem _ _ _⟩
  rw [State.engCtx, bump_engCtxs]
  exact (setEngCtx_engCtx _ _ _ _).trans (if_pos rfl)

end

/-! ### A block of a job -/

section
variable {s : State} {e c : Nat} {j : EngJob}

/-- The state in which an engine works on a job that it takes up. -/
def takenUp (s : State) (e c : Nat) (j : EngJob) : State :=
  putJob (bulkServed (setEng s e { s.eng e with last := c % 4, cur := some c }) (10 + e / 2)) c { j with suspended := false }

theorem takenUp_bound (s : State) (e c : Nat) (j : EngJob) : boundCtx (takenUp s e c j) c = boundCtx s c := rfl

theorem exec_chipperBlock_job (he : e < 4) (hon : domainOn s (0x80 + e) = true) (hseg : (s.eng e).seg = none)
    (hnone : nextSegment s e = none) (hnext : nextJob s e = some c) (hcur : (s.eng e).cur = none) (hjob : (s.engCtx c).job = some j)
    (hload : j.load = false) : exec (.chipperBlock e) s = .next (jobBlock (takenUp s e c j) e c { j with suspended := false }) := by
  have hkeep : suspendJob s e (some c) = s := by
    unfold suspendJob
    extract_lets x
    rw [show x.cur = none from hcur]
  have hresume (u : State) : resumeJob u c j = .ok (u, { j with suspended := false }) := by
    unfold resumeJob
    extract_lets go
    rw [hload, Bool.not_false, if_pos rfl]
  rw [exec_chipperBlock, execChipperBlock, if_neg (by rw [hon]; simp; omega), hseg]
  dsimp only
  rw [hnone]
  dsimp only
  rw [hnext]
  dsimp only
  rw [hkeep, hjob]
  dsimp only
  rw [hresume]
  rfl

variable {s1 s2 s3 : State} {j2 j3 : EngJob} {bs : List Byte}

theorem jobBlock_move (hmode : j.mode = 2) (htake : jobTake s1 e (boundCtx s1 c) j j.block = (s2, .ok (bs, j2))) :
    jobBlock s1 e c j = putBlock s2 e c j2 (headerAt s1 j) bs j.strm false [] := by
  unfold jobBlock
  extract_lets at_ want
  have hwant : want = j.block := if_neg (by omega)
  rw [hwant, htake]
  dsimp only
  rw [if_neg (by omega), if_neg (by omega)]

theorem jobBlock_compress (hmode : j.mode = 1) (htake : jobTake s1 e (boundCtx s1 c) j j.block = (s2, .ok (bs, j2))) :
    jobBlock s1 e c j = compressBlock s2 e c j2 (headerAt s1 j) bs := by
  unfold jobBlock
  extract_lets at_ want
  have hwant : want = j.block := if_neg (by omega)
  rw [hwant, htake]
  dsimp only
  rw [if_neg (by omega), if_pos hmode]

theorem jobBlock_decompress (hmode : j.mode = 0) (htake : jobTake s1 e (boundCtx s1 c) j 16 = (s2, .ok (bs, j2))) :
    jobBlock s1 e c j = decompressBlock s2 e c j2 (headerAt s1 j) bs := by
  unfold jobBlock
  extract_lets at_ want
  have hwant : want = 16 := if_pos hmode
  rw [hwant, htake]
  dsimp only
  rw [if_pos hmode]

/-- The self-check of a block that a compressing job forms. -/
def selfCheck (s : State) (c : Nat) (j : EngJob) (input : List Byte) : BlockOut :=
  decodeBlock s (j.srcLoc (boundCtx s c)) j.strm (encodeBlock j.strm j.block (j.ends && j.drained) input).1
    (encodeBlock j.strm j.block (j.ends && j.drained) input).2

theorem compressBlock_checked {at_ : Nat} {input : List Byte} (hfail : (selfCheck s c j input).fail = none)
    (hbytes : (selfCheck s c j input).bytes = input) : ∃ counts, compressBlock s e c j at_ input =
      putBlock (selfCheck s c j input).s e c j at_ (hdrBytes (encodeBlock j.strm j.block (j.ends && j.drained) input).1
        ++ (encodeBlock j.strm j.block (j.ends && j.drained) input).2) (selfCheck s c j input).strm (j.ends && j.drained) counts := by
  refine ⟨if (encodeBlock j.strm j.block (j.ends && j.drained) input).1.stored then [0x118, 0x120] else [0x118], ?_⟩
  unfold compressBlock
  unfold selfCheck at *
  extract_lets last
  dsimp only
  rw [hfail]
  dsimp only
  rw [if_neg (not_not.mpr hbytes)]

theorem compressBlock_mismatch {at_ : Nat} {input : List Byte} (h : (∃ k d, (selfCheck s c j input).fail = some (.code k d))
      ∨ ((selfCheck s c j input).fail = none ∧ (selfCheck s c j input).bytes ≠ input)) :
    compressBlock s e c j at_ input = failJob (selfCheck s c j input).s e c j at_ (.code cVerify 1 (uChip e) 0) := by
  unfold compressBlock
  unfold selfCheck at *
  extract_lets last
  dsimp only
  rcases h with ⟨k, d, hfail⟩ | ⟨hfail, hbytes⟩
  · rw [hfail]
  · rw [hfail]
    dsimp only
    rw [if_pos hbytes]

theorem decompressBlock_good {at_ : Nat} {hb pl : List Byte} {h : BlockHdr} (hlen : hb.length = 16) (hh : blockHdr hb = some h)
    (htake : jobTake s e (boundCtx s c) j h.payload = (s3, .ok (pl, j3))) (hpl : pl.length = h.payload)
    (hfail : (decodeBlock s3 (j.dstLoc (boundCtx s c)) j.strm h pl).fail = none) :
    decompressBlock s e c j at_ hb = putBlock (bump (bumpBy (decodeBlock s3 (j.dstLoc (boundCtx s c)) j.strm h pl).s (uChip e) 0x128
        (decodeBlock s3 (j.dstLoc (boundCtx s c)) j.strm h pl).far) (uChip e) 0x110) e c j3 at_
      (decodeBlock s3 (j.dstLoc (boundCtx s c)) j.strm h pl).bytes (decodeBlock s3 (j.dstLoc (boundCtx s c)) j.strm h pl).strm h.last [] := by
  unfold decompressBlock
  extract_lets bad
  rw [if_neg (by omega), hh]
  dsimp only
  rw [htake]
  dsimp only
  rw [if_neg (by omega), hfail]

end

/-! ### The end of a job, and weight segments -/

section
variable {s : State} {c e : Nat} {j : EngJob}

/-- The state in which a job's page is free again. -/
def jobEnded (s : State) (c : Nat) (j : EngJob) : State :=
  detachBz (setEngCtx s c { s.engCtx c with
    result := 1, job := none, stream := if j.mode = 2 then (s.engCtx c).stream else none }) j.blaze

theorem exec_chipperJobComplete_ends (hjob : (s.engCtx c).job = some j) (hdone : j.finished = true) (hxfer : j.xfer = none)
    (hkeep : j.opened = false ∨ j.mode = 2) : exec (.chipperJobComplete c) s = .next (match j.fence with
      | some f => settle [.devSignal (.tenant (chTenant s c)) (chTenant s c) (some (boundCtx s c)) f (BitVec.ofNat 64 j.value)] (jobEnded s c j)
      | none => jobEnded s c j) := by
  have hk : (j.opened && j.mode != 2) = false := by
    rcases hkeep with h | h
    · rw [h, Bool.false_and]
    · rw [h]
      exact Bool.and_false _
  rw [exec_chipperJobComplete, execChipperJobComplete, hjob]
  dsimp only
  rw [hdone, Bool.not_true, if_neg Bool.false_ne_true, hk, if_neg Bool.false_ne_true]
  dsimp only
  rw [hxfer]
  rfl

variable {r : SegRun} {p : CutPass} {w : Stream} {g : Segment}

/-- The state in which a segment is off its engine and counted as done. -/
def segCounted (s : State) (e : Nat) (r : SegRun) (p : CutPass) (w : Stream) : State :=
  setEng { s with cuts := tset s.cuts r.cut { p with stream := some { w with doneSegs := r.index :: w.doneSegs } } } e
    { s.eng e with seg := none }

theorem donePrefix_eq {done : List Nat} {n k : Nat} (hk : k ≤ n) (hbelow : ∀ i, i < k → i ∈ done) (hat : k = n ∨ k ∉ done) :
    donePrefix done n = k := by
  unfold donePrefix
  have hin (i : Nat) (hi : i < k) : (!done.contains i) = false := by
    rw [List.contains_iff_mem.mpr (hbelow i hi)]
    rfl
  rcases Nat.lt_or_ge k n with hlt | hge
  · have hout : k ∉ done := hat.resolve_left (Nat.ne_of_lt hlt)
    have hfirst : firstBelow n (fun i => !done.contains i) = some k := by
      refine List.find?_range_eq_some.mpr ⟨?_, List.mem_range.mpr hlt, fun i hi => ?_⟩
      · rw [Bool.not_eq_true', Bool.eq_false_iff, ne_eq, List.contains_iff_mem]
        exact hout
      · rw [hin i hi]
        rfl
    rw [hfirst]
    rfl
  · obtain rfl : k = n := Nat.le_antisymm hk hge
    rw [firstBelow_none.mpr hin]
    rfl

theorem donePrefix_lt {done : List Nat} {n k : Nat} (h : ∃ i, i < k ∧ i ∉ done) (hk : k ≤ n) : donePrefix done n < k := by
  obtain ⟨i, hi, hout⟩ := h
  unfold donePrefix
  cases hfirst : firstBelow n (fun i => !done.contains i) with
  | none =>
    have hin := firstBelow_none.mp hfirst i (by omega)
    rw [Bool.not_eq_false', List.contains_iff_mem] at hin
    exact absurd hin hout
  | some m =>
    have hbefore := (List.find?_range_eq_some.mp hfirst).2.2
    show m < k
    by_contra hm
    have hin := hbefore i (by omega)
    rw [Bool.not_not, List.contains_iff_mem] at hin
    exact hout hin

theorem exec_weightSegmentDone_counts (hseg : (s.eng e).seg = some r) (hof : segOf s r = some (p, w, g)) (hdone : r.finished = true) :
    exec (.weightSegmentDone e) s = .next (
      if donePrefix (r.index :: w.doneSegs) w.segs.length ≤ donePrefix w.doneSegs w.segs.length then segCounted s e r p w
      else settle [.devSignal (.ctx (cmdOf s r.cut).ctx 3 (cmdOf s r.cut).queue) (s.ctx (cmdOf s r.cut).ctx).tenant
        (some (cmdOf s r.cut).ctx) w.fence (BitVec.ofNat 64 (if p.heritage
          then (w.fenceBase + donePrefix (r.index :: w.doneSegs) w.segs.length) % 2 ^ 32
          else w.fenceBase + donePrefix (r.index :: w.doneSegs) w.segs.length))] (segCounted s e r p w)) := by
  rw [exec_weightSegmentDone, execWeightSegmentDone, hseg]
  dsimp only
  rw [hdone, Bool.not_true, if_neg Bool.false_ne_true, hof]
  rfl

variable {sh sp s3 : State} {hb pl : List Byte} {h : BlockHdr} {b : BlockOut}

/-- The state after a block of a segment, `n` bytes written. -/
def segAdvanced (s3 : State) (e n : Nat) (run : SegRun) : State :=
  setEng (bump (bumpBy s3 (uChip e) 0x108 n) (uChip e) 0x110) e { (bumpBy s3 (uChip e) 0x108 n).eng e with seg := some run }

theorem segAdvanced_leaves (s3 : State) (e n : Nat) (run : SegRun) :
    (segAdvanced s3 e n run).mem = s3.mem ∧ ((segAdvanced s3 e n run).eng e).seg = some run := by
  refine ⟨(bump_mem _ _ _).trans (bumpBy_mem _ _ _ _), ?_⟩
  rw [segAdvanced, setEng, State.eng, tget_tset, if_pos rfl]

/-- The engine's run of the segment after the block. -/
def segNext (r : SegRun) (h : BlockHdr) (b : BlockOut) : SegRun :=
  { r with strm := b.strm, pos := r.pos + 16 + h.payload, finished := h.last }

theorem segBlock_good (hin : r.pos + 16 + h.payload ≤ g.srcBytes)
    (hhead : vread s (cmdOf s r.cut).ctx (g.src + r.pos) 16 = .ok (hb, sh)) (hh : blockHdr hb = some h)
    (hread : vread (bumpBy sh (uChip e) 0x100 16) (cmdOf s r.cut).ctx (g.src + r.pos + 16) h.payload = .ok (pl, sp))
    (hdec : decodeBlock (bumpBy sp (uChip e) 0x100 h.payload) (.virt (cmdOf s r.cut).ctx) r.strm h pl = b) (hfail : b.fail = none)
    (hfits : b.strm.off ≤ g.dstBytes) (hlast : h.last = true → r.pos + 16 + h.payload = g.srcBytes ∧ b.strm.off = g.dstBytes)
    (hwrite : vwriteStream (bumpBy b.s (uChip e) 0x128 b.far) (cmdOf s r.cut).ctx (w.staging + g.dstOff + r.strm.off)
      (b.bytes.take (g.dstBytes - r.strm.off)) = (s3, none)) :
    segBlock s e r p w g = segAdvanced s3 e (b.bytes.take (g.dstBytes - r.strm.off)).length (segNext r h b) := by
  have hends : (h.last && decide (r.pos + 16 + h.payload < g.srcBytes)) = false ∧ (h.last && b.strm.off != g.dstBytes) = false := by
    cases hl : h.last with
    | false => exact ⟨rfl, rfl⟩
    | true =>
      obtain ⟨hpos, hoff⟩ := hlast hl
      rw [hpos, hoff]
      simp
  unfold segBlock
  extract_lets ctx fail access
  rw [if_neg (by omega), hhead]
  dsimp only
  rw [hh]
  dsimp only
  rw [if_neg (by omega), hread]
  dsimp only
  rw [hdec, hfail]
  dsimp only [Option.isSome_none]
  rw [if_neg Bool.false_ne_true]
  dsimp only
  rw [hwrite]
  dsimp only
  rw [if_neg (by omega), hends.1, if_neg Bool.false_ne_true, hends.2, if_neg Bool.false_ne_true]
  rfl

theorem exec_chipperBlock_segment (he : e < 4) (hon : domainOn s (0x80 + e) = true) (hseg : (s.eng e).seg = some r)
    (hof : segOf s r = some (p, w, g)) (hrun : r.finished = false) : exec (.chipperBlock e) s = .next (segBlock s e r p w g) := by
  rw [exec_chipperBlock, execChipperBlock, if_neg (by rw [hon]; simp; omega), hseg]
  dsimp only
  rw [runSegment, hof]
  dsimp only
  rw [hrun, if_neg Bool.false_ne_true]

end

/-- Settles O32: each command is brought to the one state that its hypotheses leave; a block's bytes are taken with the grants left
(`jobTake_took`), decoding only reads, and the stream fence counts the segments from the first on (`donePrefix_eq`). -/
theorem chipperWork : Obligations.ChipperWork := by
  unfold Obligations.ChipperWork
  refine ⟨fun a c t ctx s hup hgrant htenant hgo => ?_, fun e c s j he hon hseg hnone hnext hcur hjob hload => ?_,
    fun c s j hjob hdone hxfer hkeep => ?_, fun e s sh sp s3 r p w g hb pl h => ?_, fun e n s r p w g hseg hof hdone => ?_⟩
  · intro x bad
    obtain ⟨hrefused, hstarts⟩ := exec_chGo hup hgrant htenant hgo
    have hoff : chOff c 0x38 = 0x5100038 + 0x1000 * c := by
      unfold chOff
      omega
    rw [hoff] at hrefused
    refine ⟨hrefused, fun hgood => ⟨_, hstarts hgood, (newJob x).placed s, ?_, rfl, rfl, rfl, rfl, bitsReg_high x.len 32 (by decide), rfl,
      rfl, rfl, rfl, stateVa_eq x, fun hfresh => ?_, fun k hk => ?_, startJob_attached, ?_⟩⟩
    · rw [startJob_engCtx, if_pos rfl]
      rfl
    · rw [placed_rest]
      show ({ (newJob x).strm with pieces := _ } : Strm) = _
      rw [newJob_fresh hfresh]
    · rw [startJob_engCtx, if_neg hk]
    · rw [startJob_eq]
      exact (attachBz_rest _ _ _).2
  · intro ctx s1 done
    have hexec : exec (.chipperBlock e) s = .next (jobBlock s1 e c { j with suspended := false }) :=
      exec_chipperBlock_job he hon hseg hnone hnext hcur hjob hload
    refine ⟨fun bs s2 j2 s3 j3 hmode htake hwrite => ?_, fun bs s2 j2 hmode htake => ?_,
      fun hb s2 j2 h pl s3 j3 s4 j4 hmode htake hlen hh htake2 hpl => ?_⟩
    · have htook := jobTake_took htake
      obtain ⟨hdone, hmem⟩ := putBlock_done (e := e) (c := c) (at_ := headerAt s1 { j with suspended := false }) (strm := j.strm)
        (ended := false) [] (j := j2) (by rw [htook.bound]; exact hwrite) rfl
      refine ⟨_, hexec.trans (congrArg _ (jobBlock_move hmode htake)), ?_, hmem⟩
      rw [htook.strm]
      exact hdone
    · intro last enc r
      have htook := jobTake_took htake
      have hbound : boundCtx s2 c = ctx := htook.bound c
      have hr : selfCheck s2 c j2 bs = r := by
        rw [selfCheck, hbound]
      have hstart := hexec.trans (congrArg _ (jobBlock_compress hmode htake))
      refine ⟨fun s3 j3 hfail hbytes hwrite => ?_, fun hfails hfence hreport hxfer hblaze => ?_⟩
      · obtain ⟨counts, hcomp⟩ := compressBlock_checked (e := e) (at_ := headerAt s1 { j with suspended := false }) (hr ▸ hfail) (hr ▸ hbytes)
        rw [hcomp, hr] at hstart
        have hreads : ReadsOnly s2 r.s := decodeBlock_reads hfail
        have hb : boundCtx r.s c = ctx := by
          rw [boundCtx, hreads.chipGrants]
          exact hbound
        have hends : (last && j2.mode == 0) = false := by
          rw [htook.mode]
          show (last && j.mode == 0) = false
          rw [hmode]
          exact Bool.and_false _
        obtain ⟨hdone, hmem⟩ := putBlock_done (e := e) (c := c) (at_ := headerAt s1 { j with suspended := false }) (strm := r.strm)
          (ended := last) counts (j := j2) (by rw [hb]; exact hwrite) hends
        exact ⟨_, hstart, hdone, hmem⟩
      · rw [compressBlock_mismatch (hr ▸ hfails), hr] at hstart
        obtain ⟨hpage, hmem⟩ := failJob_code_page (s := r.s) (e := e) (c := c) (at_ := headerAt s1 { j with suspended := false }) (k := cVerify)
          (d := 1) (off := 0) hfence hreport hxfer hblaze (by decide)
        refine ⟨_, hstart, ?_⟩
        show (State.engCtx _ c).result = 3 ∧ _
        rw [hpage, hmem]
        exact ⟨rfl, rfl, rfl, rfl, rfl, rfl⟩
    · intro r hfail hwrite hlast
      have htook := jobTake_took htake
      have htook2 := jobTake_took htake2
      have hbound : boundCtx s2 c = ctx := htook.bound c
      have hreads : ReadsOnly s3 r.s := decodeBlock_reads hfail
      have hb : boundCtx (bump (bumpBy r.s (0x80 + e) 0x128 r.far) (0x80 + e) 0x110) c = ctx := by
        rw [boundCtx, bump_chipGrants, bumpBy_chipGrants, hreads.chipGrants]
        exact (htook2.bound c).trans hbound
      have hgood := decompressBlock_good (e := e) (c := c) (at_ := headerAt s1 { j with suspended := false }) hlen hh
        (by rw [hbound]; exact htake2) hpl (by rw [hbound]; exact hfail)
      rw [hbound, hlast] at hgood
      obtain ⟨hdone, hmem⟩ := putBlock_done (e := e) (c := c) (at_ := headerAt s1 { j with suspended := false }) (strm := r.strm)
        (ended := false) [] (j := j3) (by rw [hb]; exact hwrite) rfl
      exact ⟨_, (hexec.trans (congrArg _ (jobBlock_decompress hmode htake))).trans (congrArg _ hgood), hdone, hmem⟩
  · intro u
    have hends := exec_chipperJobComplete_ends hjob hdone hxfer hkeep
    refine ⟨fun hfence => ?_, fun f hfence => ?_⟩
    · rw [hfence] at hends
      exact hends
    · rw [hfence] at hends
      exact hends
  · intro ctx b pos he hon hseg hof hrun hin hhead hh hread hfail hfits hlast hwrite
    have hgood := segBlock_good (p := p) hin hhead hh hread (b := b) rfl hfail hfits hlast hwrite
    obtain ⟨hmem, hnext⟩ := segAdvanced_leaves s3 e (b.bytes.take (g.dstBytes - r.strm.off)).length (segNext r h b)
    exact ⟨_, (exec_chipperBlock_segment he hon hseg hof hrun).trans (congrArg _ hgood), congrArg MemSys.dram hmem, hnext⟩
  · intro u cmd
    have hcounts := exec_weightSegmentDone_counts hseg hof hdone
    refine ⟨fun hgap => ?_, fun hn hbelow hnew hat => ?_⟩
    · obtain ⟨i, hi, hout, hbefore⟩ := hgap
      rw [List.mem_cons, not_or] at hout
      rw [hcounts, donePrefix_eq (k := i) (Nat.le_of_lt hi) (fun k hk => List.mem_cons_of_mem _ (hbefore k hk))
        (.inr (by rw [List.mem_cons, not_or]; exact hout)), donePrefix_eq (k := i) (Nat.le_of_lt hi) hbefore (.inr hout.2), if_pos le_rfl]
      rfl
    · rw [hcounts, donePrefix_eq hn hbelow hat, if_neg (Nat.not_le.mpr (donePrefix_lt hnew hn))]
      rfl

end Sys2Proof.Proofs
